-- ==== Sys2Proof/Word.lean ====
section
/-! DEFINITION. The widths of the Quosan KM9: bytes, 64-bit register words, FP32 patterns, stamps of device time.

`Elab.async` is off, here and so in the whole package read as one text: proofs are checked one after the other, which keeps the
memory of a check bounded. -/

set_option Elab.async false

namespace Sys2Proof

/-- One byte of memory or of a packet (R9). -/
abbrev Byte := BitVec 8

/-- A control or status register is 64 bits wide (R14). -/
abbrev Reg := BitVec 64

/-- The bits of an FP32 value (Table 7-2, code 0x07). -/
abbrev F32 := BitVec 32

/-- Device time in nanoseconds (R13), as a number: the model's clock does not wrap. -/
abbrev Stamp := Nat

end Sys2Proof
end

