-- ==== Sys2Proof/Syntax.lean ====
section
/-! DEFINITION. The commands of the block: what each row of spec/opcode_table.json carries. -/

namespace Sys2Proof

/-- A request packet as it arrives in one SEND message on a queue pair: the header fields of Table 2-1 (the
magic was checked by row 1 of Table 2-12, the opcode is the command's own), the length of the SEND message, the
extension bytes and the payload bytes that it holds. -/
structure Req where
  qp        : Nat
  version   : BitVec 8
  flags     : BitVec 8
  status    : BitVec 16
  partition : Nat
  svc       : Nat
  extLen    : Nat
  payLen    : Nat
  tag       : Nat
  deadline  : Nat
  msgLen    : Nat
  ext       : List Byte
  payload   : List Byte
  deriving DecidableEq, Repr

/-- How one source-reference RDMA READ ends (R62). -/
inductive FetchOutcome where
  | data (bytes : List Byte)
  /-- the host's responder answered with a NAK, or the retries ran out: the queue pair enters the error state -/
  | remote
  /-- the failure lies on the module's side: REF_FETCH_FAILED -/
  | module
  deriving DecidableEq, Repr

/-- A stream of events: of a sequence handle, or of a telemetry handle (R84). -/
inductive StreamRef where
  | sequence (h : Nat)
  | telemetry (h : Nat)
  deriving DecidableEq, Repr

/-- A 64-byte Spindle descriptor (R154) and its inline data. -/
structure Desc where
  bytes  : List Byte
  inl    : List Byte
  deriving DecidableEq, Repr

/-- The buffers of a Lathe (Table 7-1). -/
inductive LatheBuf where
  | weight | input | output
  deriving DecidableEq, Repr

/-- Where the tier mover places a tile: slots of a Lathe's buffer, or a Tool store address. -/
inductive SlotRef where
  | slot (n : Nat) (buf : LatheBuf) (first : Nat)
  | way (addr : Nat)
  deriving DecidableEq, Repr

/-- An error in ECC-protected storage. -/
inductive EccError where
  | corrected | uncorrectable
  deriving DecidableEq, Repr

/-- The buffer and array errors of Table 7-13. -/
inductive LatheError where
  | bufferCorrected | bufferUncorrectable | peParity
  deriving DecidableEq, Repr

/-- Who makes a register access (R16): the management plane or the Wadin firmware. -/
inductive Plane where
  | firmware | management
  deriving DecidableEq, Repr

/-- Who writes a register: a firmware core, or the management plane (R16, R26). -/
inductive CsrWriter where
  | core (c : Nat) | management
  deriving DecidableEq, Repr

/-- The plane that a writer's access comes from. -/
def CsrWriter.plane : CsrWriter → Plane
  | .core _ => .firmware
  | .management => .management

/-- The crash causes of Table 13-8, but for the watchdog, which has a row of its own. -/
inductive CrashCause where
  | busError | illegalOrNested | memoryError
  deriving DecidableEq, Repr

/-- A received RoCEv2 packet: its queue pair index, whether its opcode is in Table 14-3, its length in bytes from
destination address to FCS, its DSCP and its CE mark (R553, R536, R541). -/
structure RocePacket where
  qp        : Nat
  supported : Bool
  len       : Nat
  dscp      : Nat
  ce        : Bool
  deriving DecidableEq, Repr

/-- The NAKs that put a queue pair in the error state (R62). -/
inductive NakKind where
  | remoteAccess | invalidRequest | remoteOperational
  deriving DecidableEq, Repr

/-- An ARP request, a neighbour solicitation or an echo request: who asks, the address asked for, and the echo data. -/
structure NetQuery where
  source : List Byte
  target : List Byte
  data   : List Byte
  deriving DecidableEq, Repr

/-- A management access datagram of Table 14-2, with its source address and port. -/
structure MgmtDatagram where
  source : List Byte
  port   : Nat
  count  : Nat
  seq    : Nat
  first  : Nat
  words  : List Reg
  /-- the authentication tag of R668 -/
  tag    : List Byte
  deriving DecidableEq, Repr

/-- The rate at which a list has link, or none (RATE of NET_PORT). -/
inductive LinkRate where
  | down | g800 | g400half | g400degraded | g25 | g10
  deriving DecidableEq, Repr

/-- How a CXL link's training ended: width trained at 64 GT/s on lanes without faults, the device's capacity in
GiB, and whether authentication and encryption succeeded (R601, R666). -/
structure CxlTraining where
  present : Bool
  width   : Nat
  capGib  : Nat
  secure  : Bool
  deriving DecidableEq, Repr

/-- How a CXL link comes back (R603). -/
inductive CxlReturn where
  | active | viaDetection | deviceReset
  deriving DecidableEq, Repr

/-- The conditions of POWER_EMERGENCY (Table 15-11). -/
inductive PowerCondition where
  | inputLow (mv : Nat) | inputCurrent (ma : Nat) | busLow (mv : Nat) | phases (region : Nat)
  deriving DecidableEq, Repr

/-- The events that a fault report names (R607). -/
inductive FaultEvent where
  | corrected | uncorrectable | retrySucceeded | retryFailed
  deriving DecidableEq, Repr

/-- A fault report (R607): kind code of Table 16-2, instance, detail (row, line, lane or member) and event. -/
structure FaultReport where
  kind     : Nat
  inst     : Nat
  detail   : Nat
  event    : FaultEvent
  deriving DecidableEq, Repr

/-- What a rolling test swaps out (R622). -/
inductive TestKind where
  | lathe | walker
  deriving DecidableEq, Repr

/-- How one network fetch of the firmware image ends (R498, R499). -/
inductive BootFetch where
  | image (bytes : List Byte)
  | noLease | noBootFile | transferFailed | tooLarge
  deriving DecidableEq, Repr

/-- The commands of the block: one constructor per row of spec/opcode_table.json, in the table's order.
`t` is the device-time stamp at which the step takes place. -/
inductive Instr where
  /-- SESSION_OPEN (R55): Opens a session on a queue pair with receive size, outstanding limit and coalescing thresholds. -/
  | sessionOpen (t : Stamp) (r : Req)
  /-- SESSION_CLOSE (R58): Ends every stream of the queue pair at intake and begins closing its session. -/
  | sessionClose (t : Stamp) (r : Req)
  /-- SESSION_CLOSE_COMPLETE (R58): Once every earlier command has replied, ends the session and queues the close reply. -/
  | sessionCloseComplete (t : Stamp) (qp : Nat)
  /-- ECHO (R70): Returns its payload unchanged. -/
  | echo (t : Stamp) (r : Req)
  /-- SET_EVENT_COALESCE (R89): Sets event count and time thresholds for windows that open after its reply. -/
  | setEventCoalesce (t : Stamp) (r : Req)
  /-- READINESS_QUERY (R638): Returns the readiness bitmap, grade and spare counts. -/
  | readinessQuery (t : Stamp) (r : Req)
  /-- SEARCH (R203): Binds epoch and side window and runs a graph search, or coordinates a sharded search. -/
  | search (t : Stamp) (r : Req)
  /-- SEARCH_SHARD (R233): Runs one shard's search for a coordinator, refusing further fan-out. -/
  | searchShard (t : Stamp) (r : Req)
  /-- SEARCH_BATCH (R213): Runs up to 256 queries and replies with per-query batch headers. -/
  | searchBatch (t : Stamp) (r : Req)
  /-- INDEX_INSERT (R218): Appends entries to the side list, assigning or replacing local IDs. -/
  | indexInsert (t : Stamp) (r : Req)
  /-- INDEX_DELETE (R220): Sets the tombstone of every location of each named local ID. -/
  | indexDelete (t : Stamp) (r : Req)
  /-- INDEX_LOAD (R215): Checks and adopts an index image as epoch 1 with an empty side window. -/
  | indexLoad (t : Stamp) (r : Req)
  /-- INDEX_MERGE_START (R227): Checks and starts a merge job, taking its snapshot. -/
  | indexMergeStart (t : Stamp) (r : Req)
  /-- MERGE_REPAIR (R224): When LINK completes, replaces edges to nodes tombstoned at the snapshot. -/
  | mergeRepair (t : Stamp) (p : Nat)
  /-- MERGE_PUBLISH (R225): When REPAIR completes and merging is enabled, atomically installs the new epoch and replies to the merge start. -/
  | mergePublish (t : Stamp) (p : Nat)
  /-- MERGE_RECLAIM (R222): After the old epoch's searches end, frees replaced chunks, side slots and heap records. -/
  | mergeReclaim (t : Stamp) (p : Nat)
  /-- INDEX_EPOCH_QUERY (R673): Returns the current epoch, node count, side window and merge state. -/
  | indexEpochQuery (t : Stamp) (r : Req)
  /-- SHARD_MAP_SET (R229): Installs the shard map of one index for later searches. -/
  | shardMapSet (t : Stamp) (r : Req)
  /-- VECTOR_FETCH (R217): Returns full vectors of named global IDs with present, deleted or unassigned status. -/
  | vectorFetch (t : Stamp) (r : Req)
  /-- PASSAGE_FETCH (R217): Returns passage records of named global IDs with their status. -/
  | passageFetch (t : Stamp) (r : Req)
  /-- INDEX_UNLOAD (R216): Accepts an unload, refusing later commands naming the index. -/
  | indexUnload (t : Stamp) (r : Req)
  /-- INDEX_UNLOAD_COMPLETE (R216): When bound commands have replied, frees the index's pool structures and replies OK. -/
  | indexUnloadComplete (t : Stamp) (p ix : Nat)
  /-- EMBED (R269): Runs an encoder model on token or text inputs and returns vectors. -/
  | embed (t : Stamp) (r : Req)
  /-- RESCORE (R265): Recomputes candidate distances from full vectors and returns the k nearest. -/
  | rescore (t : Stamp) (r : Req)
  /-- RERANK (R268): Scores pair prompts with a cross-encoder and returns the k highest. -/
  | rerank (t : Stamp) (r : Req)
  /-- REWARD_SCORE (R270): Scores sequences with a reward model at their last position. -/
  | rewardScore (t : Stamp) (r : Req)
  /-- GENERATE (R325): Admits one sequence from a token prompt and starts its event stream. -/
  | generate (t : Stamp) (r : Req)
  /-- RAG_GENERATE (R327): Tokenizes, embeds, searches, re-ranks, assembles a prompt and admits the sequence. -/
  | ragGenerate (t : Stamp) (r : Req)
  /-- SEQ_APPEND (R336): Adds tokens to a sequence for prefill from the next step boundary. -/
  | seqAppend (t : Stamp) (r : Req)
  /-- SEQ_CANCEL (R91): Cancels a sequence, masking its rows and queuing its final event and reply. -/
  | seqCancel (t : Stamp) (r : Req)
  /-- SEQ_STATUS (R339): Returns the state and counts of a sequence. -/
  | seqStatus (t : Stamp) (r : Req)
  /-- SEQ_SET_PRIORITY (R338): Sets a sequence's priority bit from the next step boundary. -/
  | seqSetPriority (t : Stamp) (r : Req)
  /-- PREFIX_STORE (R377): At the next step boundary stores a sequence's leading KV as a prefix. -/
  | prefixStore (t : Stamp) (r : Req)
  /-- PREFIX_RELEASE (R381): Ends the client's hold on a prefix handle. -/
  | prefixRelease (t : Stamp) (r : Req)
  /-- EMB_GATHER (R441): Looks up rows by bag and returns them or their pooled vectors. -/
  | embGather (t : Stamp) (r : Req)
  /-- EMB_SCATTER_ADD (R446): Adds delta vectors to named rows in list order. -/
  | embScatterAdd (t : Stamp) (r : Req)
  /-- EMB_UPDATE (R447): Applies one optimizer update per named row with summed gradients. -/
  | embUpdate (t : Stamp) (r : Req)
  /-- EMB_TABLE_CREATE (R435): Creates an embedding table from its descriptor. -/
  | embTableCreate (t : Stamp) (r : Req)
  /-- EMB_TABLE_REPLACE (R457): Installs a new table version at its switch stamp. -/
  | embTableReplace (t : Stamp) (r : Req)
  /-- TABLE_DRAIN_COMPLETE (R457): When no command is bound to the old version, discards it and replies OK. -/
  | tableDrainComplete (t : Stamp) (tid : Nat)
  /-- EMB_HOTSET_SET (R453): Removes and adds rows to a table's hot set by migration. -/
  | embHotsetSet (t : Stamp) (r : Req)
  /-- MIGRATION_COPY_COMPLETE (R454): On copy completion, applies logged updates and switches the row's directory entry. -/
  | migrationCopyComplete (t : Stamp) (tid row : Nat)
  /-- MIGRATION_LOG_RESUME (R456): An update that waited for migration-log space proceeds once space is freed. -/
  | migrationLogResume (t : Stamp) (c : Nat)
  /-- PARAM_SLOT_CLAIM (R448): An update that waited for a free parameter slot claims it and writes it with PSET. -/
  | paramSlotClaim (t : Stamp) (c : Nat)
  /-- EMB_TABLE_DROP (R459): Frees a table ID and discards its hot copies. -/
  | embTableDrop (t : Stamp) (r : Req)
  /-- SELECT_TOPK (R247): Selects the k largest or smallest keys with selected and left-out sums. -/
  | selectTopk (t : Stamp) (r : Req)
  /-- ARGMAX (R252): Returns the single extreme key in one sweep. -/
  | argmax (t : Stamp) (r : Req)
  /-- SELECT_TOPP (R261): Returns the shortest prefix of largest values reaching fraction p. -/
  | selectTopp (t : Stamp) (r : Req)
  /-- SELECTION_TAKE (R260): A waiting selection is taken by a free selection unit in rotating order. -/
  | selectionTake (t : Stamp)
  /-- TOKENIZE (R404): Turns text into token IDs by longest trie match. -/
  | tokenize (t : Stamp) (r : Req)
  /-- DETOKENIZE (R413): Turns token words into UTF-8 text with replacement counts. -/
  | detokenize (t : Stamp) (r : Req)
  /-- VOCAB_LOAD (R403): Loads, replaces or frees a vocabulary slot and binds model IDs. -/
  | vocabLoad (t : Stamp) (r : Req)
  /-- GRAMMAR_LOAD (R423): Checks and loads a grammar automaton into a slot. -/
  | grammarLoad (t : Stamp) (r : Req)
  /-- GRAMMAR_UNLOAD (R424): Frees a grammar slot with no bound sequence. -/
  | grammarUnload (t : Stamp) (r : Req)
  /-- MEM_WRITE (R143): Writes bytes to tier 1 or tier 2 memory directly. -/
  | memWrite (t : Stamp) (r : Req)
  /-- MEM_READ (R143): Reads bytes from tier 1 or tier 2 memory directly. -/
  | memRead (t : Stamp) (r : Req)
  /-- TIER_PROMOTE (R144): Copies tier objects from tier 2 to tier 1, pinning them. -/
  | tierPromote (t : Stamp) (r : Req)
  /-- TIER_EVICT (R144): Evicts tier objects from tier 1 to tier 2. -/
  | tierEvict (t : Stamp) (r : Req)
  /-- TIER_POLICY_SET (R148): Sets the partition's tier policy word. -/
  | tierPolicySet (t : Stamp) (r : Req)
  /-- TILE_DIR_QUERY (R145): Returns directory entries of named objects. -/
  | tileDirQuery (t : Stamp) (r : Req)
  /-- MODEL_LOAD (R115): Checks and places a model package, pinning its understudies. -/
  | modelLoad (t : Stamp) (r : Req)
  /-- MODEL_UNLOAD (R147): Ends prefix holds and frees an unused model version. -/
  | modelUnload (t : Stamp) (r : Req)
  /-- VARIANT_SET (R353): Stores a steering variant in the partition's variant area. -/
  | variantSet (t : Stamp) (r : Req)
  /-- VARIANT_CLEAR (R355): Clears an unused variant owned by the partition. -/
  | variantClear (t : Stamp) (r : Req)
  /-- VERSION_TURNOVER (R357): Requests that a new resident version become current at the next step boundary. -/
  | versionTurnover (t : Stamp) (r : Req)
  /-- TURNOVER_COMPLETE (R359): When no sequence of the retiring version remains active, the turnover replies OK. -/
  | turnoverComplete (t : Stamp) (p model : Nat)
  /-- LEARN_STEP (R312): Runs forward and backward schedules over a batch, accumulating gradients. -/
  | learnStep (t : Stamp) (r : Req)
  /-- OPTIMIZER_STEP (R313): Updates weights from gradient tiles and regenerates working and understudy tiles. -/
  | optimizerStep (t : Stamp) (r : Req)
  /-- GRAD_ALLREDUCE (R561): Starts a ring all-reduce or reduce-scatter over gradient data. -/
  | gradAllreduce (t : Stamp) (r : Req)
  /-- ALLREDUCE_HOP (R563): On a neighbour's hop counter, adds the received chunk and sends the next hop. -/
  | allreduceHop (t : Stamp) (c : Nat)
  /-- PART_QUERY (R483): Returns the partition's resources and context states. -/
  | partQuery (t : Stamp) (r : Req)
  /-- CONTEXT_SUSPEND (R469): Requests suspension of a resident context at the next step boundary. -/
  | contextSuspend (t : Stamp) (r : Req)
  /-- CONTEXT_RESUME (R469): Requests that a suspended context be brought in, suspending masked contexts. -/
  | contextResume (t : Stamp) (r : Req)
  /-- SWITCH_QUIESCE_TIMEOUT (R470): At the QUIESCE_US limit, cancels remaining group fetches and releases their pins. -/
  | switchQuiesceTimeout (t : Stamp) (p : Nat)
  /-- CONTEXT_SWITCH_COMPLETE (R470): When reload and resume finish, marks contexts and queues the switch reply. -/
  | contextSwitchComplete (t : Stamp) (p : Nat)
  /-- PLAN_ADMIT (R476): Computes a real-time plan's WCET and admits, replaces or withdraws it. -/
  | planAdmit (t : Stamp) (r : Req)
  /-- MB_HELLO (R491): Agrees a mailbox version and feature set for the queue pair. -/
  | mbHello (t : Stamp) (r : Req)
  /-- MB_MESSAGE (R494): Checks a versioned mailbox message and dispatches it by message ID. -/
  | mbMessage (t : Stamp) (r : Req)
  /-- FW_INFO (R494): Returns running, staged and last-known-good image versions and core counts. -/
  | fwInfo (t : Stamp) (r : Req)
  /-- FW_STAGE (R501): Copies and verifies an image into the staging slot. -/
  | fwStage (t : Stamp) (r : Req)
  /-- CORE_STATUS (R494): Returns the status words of the 20 control cores. -/
  | coreStatus (t : Stamp) (r : Req)
  /-- TRACE_SET (R519): Sets the trace-point enable mask and returns the previous one. -/
  | traceSet (t : Stamp) (r : Req)
  /-- LOG_MARK (R517): Writes a host marker entry to the log ring. -/
  | logMark (t : Stamp) (r : Req)
  /-- ACTIVATION_CANCEL (R503): Returns a deferred activation to STAGED. -/
  | activationCancel (t : Stamp) (r : Req)
  /-- FW_ACTIVATE (R504): Begins activation if the power state is NORMAL, otherwise defers it. -/
  | fwActivate (t : Stamp) (r : Req)
  /-- NORMAL_HOLD_END (R506): At the end of a 1 s NORMAL hold, a deferred activation begins. -/
  | normalHoldEnd (t : Stamp)
  /-- CLUSTER_RESTART (R507): After a cluster's drain, restarts its cores on the new image and replays its journal. -/
  | clusterRestart (t : Stamp) (k : Nat)
  /-- ACTIVATION_READY_TIMEOUT (R508): A cluster not ready within 100 ms rolls activation back. -/
  | activationReadyTimeout (t : Stamp) (k : Nat)
  /-- LKG_FLASH_WRITE (R500): After 1 hour without a crash, writes and validates the image in the other flash slot. -/
  | lkgFlashWrite (t : Stamp)
  /-- ATTEST_REPORT (R649): Returns a signed attestation report, optionally with the certificate chain. -/
  | attestReport (t : Stamp) (r : Req)
  /-- MEASURE_LOG_READ (R648): Returns measurement log entries from an index. -/
  | measureLogRead (t : Stamp) (r : Req)
  /-- OWNER_CLAIM (R654): Installs two owner keys and a management key, making the module OWNED. -/
  | ownerClaim (t : Stamp) (r : Req)
  /-- PROTECT_PROPOSE (R658): Makes a signed protection-configuration proposal pending. -/
  | protectPropose (t : Stamp) (r : Req)
  /-- PROTECT_COSIGN (R659): Cosigns the pending proposal from a second slot. -/
  | protectCosign (t : Stamp) (r : Req)
  /-- PROPOSAL_EXPIRY (R659): A two-party window ending without a cosign discards the proposal. -/
  | proposalExpiry (t : Stamp)
  /-- TELEMETRY_READ (R559): Returns queue histograms and maxima, optionally clearing them. -/
  | telemetryRead (t : Stamp) (r : Req)
  /-- COUNTERS_READ (R93): Returns the queue pair's intake and reply counters, optionally clearing them. -/
  | countersRead (t : Stamp) (r : Req)
  /-- TELEMETRY_SUBSCRIBE (R560): Starts or stops a periodic queue telemetry stream. -/
  | telemetrySubscribe (t : Stamp) (r : Req)
  /-- TELEMETRY_WINDOW_END (R560): At each stream period end, emits one item per queue. -/
  | telemetryWindowEnd (t : Stamp) (h : Nat)
  /-- LOG_READ (R518): Returns log ring entries from a sequence number. -/
  | logRead (t : Stamp) (r : Req)
  /-- PACKET_DISCARD (R44): A SEND shorter than 32 bytes or with wrong magic is discarded and counted. -/
  | packetDiscard (t : Stamp) (qp : Nat) (bytes : List Byte)
  /-- REPLY_PACKET_RECEIVE (R45): A reply or event packet is matched to an outstanding command, or discarded and counted. -/
  | replyPacketReceive (t : Stamp) (opcode : Nat) (r : Req)
  /-- FRAGMENT_RECEIVE (R66): A non-final command fragment is checked and held, or discarded after a refusal. -/
  | fragmentReceive (t : Stamp) (opcode : Nat) (r : Req)
  /-- REF_FETCH_COMPLETE (R62): A source-reference RDMA READ completes or fails on the module side. -/
  | refFetchComplete (t : Stamp) (c : Nat) (o : FetchOutcome)
  /-- FENCE_RELEASE (R78): A fenced command starts once every earlier command of its queue pair has replied. -/
  | fenceRelease (t : Stamp) (c : Nat)
  /-- COMMAND_DEADLINE (R82): A command's deadline is reached and it acts as Table 2-8 states. -/
  | commandDeadline (t : Stamp) (c : Nat)
  /-- EVENT_COALESCE_TIMER (R86): The coalescing time window ends and held items are sent as event packets. -/
  | eventCoalesceTimer (t : Stamp) (st : StreamRef)
  /-- WORK_QUEUE_TAKE (R488): An idle core of the serving cluster takes a slow-path command from the work queue. -/
  | workQueueTake (t : Stamp) (core : Nat)
  /-- SEARCH_TAKE (R201): A search waiting for a frame, context or WALK_EN is taken by a walker. -/
  | searchTake (t : Stamp) (p : Nat)
  /-- WALK_EXPANSION (R204): When every distance of an expansion has returned, the walker takes the next candidate. -/
  | walkExpansion (t : Stamp) (sid : Nat)
  /-- SIDE_SCAN_BATCH (R207): After the batch wait, issues DIST_SCAN runs over the bound side window. -/
  | sideScanBatch (t : Stamp) (sids : List Nat)
  /-- SHARD_HEDGE_TIMEOUT (R233): After HEDGE without a usable reply, sends SEARCH_SHARD to the next replica. -/
  | shardHedgeTimeout (t : Stamp) (c entry : Nat)
  /-- SHARD_MERGE (R236): At the merge instant or cutoff, merges used shard lists and replies with coverage. -/
  | shardMerge (t : Stamp) (c : Nat)
  /-- WALKER_FAULT (R239): A walker fault restarts its searches once on another walker or fails the merge job. -/
  | walkerFault (t : Stamp) (w : Nat)
  /-- DIST_LIST (R161): Spindle computes distances of up to 8 listed codes. -/
  | distList (t : Stamp) (g : Nat) (d : Desc)
  /-- DIST_SCAN (R163): Spindle scans a strided run of codes and returns the T nearest per query. -/
  | distScan (t : Stamp) (g : Nat) (d : Desc)
  /-- QLOAD (R164): Writes a query into query store slots of all stacks. -/
  | qload (t : Stamp) (g : Nat) (d : Desc)
  /-- DECODE (R165): Decodes a channel-local container and streams the tile to a move engine. -/
  | decode (t : Stamp) (g : Nat) (d : Desc)
  /-- HIST (R166): Counts keys per byte value under a prefix, optionally summing them. -/
  | hist (t : Stamp) (g : Nat) (d : Desc)
  /-- KEY_COMPACT (R167): Writes index-key pairs of keys matching a prefix up to capacity. -/
  | keyCompact (t : Stamp) (g : Nat) (d : Desc)
  /-- GATHER (R168): Reads row segments, returning them, their sum or their maximum. -/
  | gather (t : Stamp) (g : Nat) (d : Desc)
  /-- SCATTER_ADD (R169): Adds inline deltas to row segments. -/
  | scatterAdd (t : Stamp) (g : Nat) (d : Desc)
  /-- ROW_SGD (R169): Applies an SGD update to row segments. -/
  | rowSgd (t : Stamp) (g : Nat) (d : Desc)
  /-- ROW_ADAGRAD (R169): Applies an Adagrad update to segments and accumulators. -/
  | rowAdagrad (t : Stamp) (g : Nat) (d : Desc)
  /-- ROW_ADAM (R169): Applies an Adam update to segments and moments. -/
  | rowAdam (t : Stamp) (g : Nat) (d : Desc)
  /-- PSET (R171): Writes a parameter slot in all stacks. -/
  | pset (t : Stamp) (g : Nat) (d : Desc)
  /-- SCRUB (R173): Reads a range and writes back corrected bursts. -/
  | scrub (t : Stamp) (g : Nat) (d : Desc)
  /-- BACKGROUND_SCRUB (R173): Paced background scrub of each pseudo-channel under SPN_SCRUB_CFG. -/
  | backgroundScrub (t : Stamp) (g offset : Nat)
  /-- COPY (R174): Copies a range into this pseudo-channel, optionally mirroring writes. -/
  | spnCopy (t : Stamp) (g : Nat) (d : Desc)
  /-- CODEBOOK_LOAD (R185): SPN_CB_LOAD START copies codebook units into all stacks' codebook stores. -/
  | codebookLoad (t : Stamp) (v : Reg)
  /-- SPINDLE_ABORT (R184): SPN_ABORT START aborts a context's descriptors in every engine. -/
  | spindleAbort (t : Stamp) (v : Reg)
  /-- SPN_ERR_LOG_READ (R186): Reading SPN_ERR_LOG returns the oldest entry and advances the log. -/
  | spnErrLogRead (t : Stamp)
  /-- GROUP_FETCH_ISSUE (R123): The runner issues a group fetch at the latest of lead time, prior issue and tier-0 reservation; `dst` is the
  reserved place of each tile. -/
  | groupFetchIssue (t : Stamp) (p : Nat) (dst : List SlotRef)
  /-- RUNNER_CHECK (R126): Every 10 µs the runner projects each group's completion. -/
  | runnerCheck (t : Stamp) (p : Nat)
  /-- TILE_FILL_COMPLETE (R302): A tile completes in its slot and the slot becomes RESIDENT. -/
  | tileFillComplete (t : Stamp) (p grp tile : Nat) (dst : SlotRef)
  /-- TIER_POLICY_EVICT (R137): Above the high watermark, evicts least-recently-used unpinned objects. -/
  | tierPolicyEvict (t : Stamp) (p : Nat)
  /-- EVICT_RETRY (R139): After the retry interval, retries an eviction that ended BUSY. -/
  | evictRetry (t : Stamp) (p obj : Nat)
  /-- KERNEL_START (R295): The runner starts a kernel lane on each Lathe the step plan names. -/
  | kernelStart (t : Stamp) (p n : Nat)
  /-- NOP (R296): Lathe instruction with no action. -/
  | nop (t : Stamp) (n : Nat) (w : BitVec 128)
  /-- END (R296): Ends the kernel once issued instructions complete and posts completion. -/
  | endKernel (t : Stamp) (n : Nat) (w : BitVec 128)
  /-- FENCE (R296): Issues when every earlier instruction has completed. -/
  | fenceInstr (t : Stamp) (n : Nat) (w : BitVec 128)
  /-- RELEASE (R304): Marks slots to become EMPTY after their last pending read. -/
  | release (t : Stamp) (n : Nat) (w : BitVec 128)
  /-- LAYER (R297): Marks the end of a schedule layer; the last Lathe's issue starts the next layer. -/
  | layer (t : Stamp) (n : Nat) (w : BitVec 128)
  /-- DRAIN (R296): Output slots become DRAINING for the tier mover to move out. -/
  | drain (t : Stamp) (n : Nat) (w : BitVec 128)
  /-- DRAIN_COMPLETE (R304): The tier mover has read out a drained slot and it becomes EMPTY. -/
  | drainComplete (t : Stamp) (n slot : Nat)
  /-- SEND_SEL (R296): Streams rows to a selection unit. -/
  | sendSel (t : Stamp) (n : Nat) (w : BitVec 128)
  /-- MATMUL (R298): Matrix instruction streaming input rows through stationary weights. -/
  | matmul (t : Stamp) (n : Nat) (w : BitVec 128)
  /-- VECTOR (R301): Vector-unit instruction on tiles in FP32. -/
  | vector (t : Stamp) (n : Nat) (w : BitVec 128)
  /-- SLOT_WRITE_COMPLETE (R304): The last result row is written and WRITING slots become RESIDENT. -/
  | slotWriteComplete (t : Stamp) (n : Nat) (buf : LatheBuf) (slot : Nat)
  /-- LATHE_STALL (R306): An instruction unable to issue for LTH_STALL_LIMIT aborts its kernel. -/
  | latheStall (t : Stamp) (n : Nat)
  /-- LATHE_IDLE_GATE (R309): A Lathe idle for IDLE_US is clock-gated. -/
  | latheIdleGate (t : Stamp) (n : Nat)
  /-- WAKE_GRANT (R587): The power manager grants a waiting wake request within slew and window budgets. -/
  | wakeGrant (t : Stamp)
  /-- LATHE_BUFFER_ERROR (R318): A buffer ECC error or PE parity error is corrected or re-runs the step. -/
  | latheBufferError (t : Stamp) (n : Nat) (e : LatheError) (buf : LatheBuf) (slot word : Nat)
  /-- LTH_ERR_LOG_READ (R320): Reading LTH_ERR_LOG returns the oldest entry and advances the log. -/
  | lthErrLogRead (t : Stamp)
  /-- STEP_BOUNDARY (R332): After a step's last commit, builds the next step's work list and starts it. -/
  | stepBoundary (t : Stamp) (p : Nat)
  /-- SEQ_TABLE_ERROR (R360): A sequence-table ECC error is corrected or ends the sequence with HW_FAULT. -/
  | seqTableError (t : Stamp) (entry : Nat) (e : EccError)
  /-- SELECTION_UNIT_FAULT (R280): A selection restarts once on another unit after a unit fault. -/
  | selectionUnitFault (t : Stamp) (u : Nat)
  /-- TOKENIZER_ENGINE_FAULT (R406): A tokenization restarts once on another engine after an engine fault. -/
  | tokenizerEngineFault (t : Stamp) (e : Nat)
  /-- APPLY (R462): Checks and applies a partition's resource assignment whole or not at all. -/
  | applyRegs (t : Stamp) (src : Plane) (p : Nat)
  /-- PARTITION_TEARDOWN (R464): REQUEST 1 on an UP partition tears down its contexts and frees its objects. -/
  | partitionTeardown (t : Stamp) (src : Plane) (p : Nat)
  /-- REQUEST_CONFIGURING (R464): REQUEST 1 on a DOWN partition makes it CONFIGURING. -/
  | requestConfiguring (t : Stamp) (src : Plane) (p : Nat)
  /-- REQUEST_UP (R464): REQUEST 2 makes a CONFIGURING partition UP with context 0. -/
  | requestUp (t : Stamp) (src : Plane) (p : Nat)
  /-- REQUEST_DOWN (R464): REQUEST 3 releases a CONFIGURING partition's resources and makes it DOWN. -/
  | requestDown (t : Stamp) (src : Plane) (p : Nat)
  /-- CONTEXT_TEARDOWN (R480): Ends one context's work, replies CONTEXT_TORN_DOWN and zeroes its share within 1 ms. -/
  | contextTeardown (t : Stamp) (src : Plane) (p c : Nat)
  /-- WATCHDOG_EXPIRY (R510): A core's watchdog expires 50 ms after its last kick and the core crashes. -/
  | watchdogExpiry (t : Stamp) (core : Nat)
  /-- CORE_EXCEPTION (R510): A bus error, illegal instruction, nested exception or memory error crashes a core. -/
  | coreException (t : Stamp) (core : Nat) (cause : CrashCause)
  /-- CORE_RESTART (R513): A reloaded core restarts and replays its journal. -/
  | coreRestart (t : Stamp) (core : Nat)
  /-- WATCHDOG_KICK (R510): WDN_WDOG KICK restarts a core's watchdog. -/
  | watchdogKick (t : Stamp) (core : Nat)
  /-- FW_UPDATE_STAGE (R501): WDN_UPDATE START stages the image at SRC_ADDR. -/
  | fwUpdateStage (t : Stamp) (v : Reg)
  /-- INTERRUPT_EVENT (R522): A source pulse sets its pending bit and counts toward its group. -/
  | interruptEvent (t : Stamp) (n : Nat)
  /-- INTERRUPT_GROUP_TIMER (R523): A group's coalescing window ends and its gate opens. -/
  | interruptGroupTimer (t : Stamp) (g : Nat)
  /-- INTERRUPT_CLAIM (R525): Reading ICU_CLAIM claims one deliverable source. -/
  | interruptClaim (t : Stamp) (core : Nat)
  /-- INTERRUPT_COMPLETE (R526): Writing ICU_COMPLETE ends a source's service. -/
  | interruptComplete (t : Stamp) (core n : Nat)
  /-- INTERRUPT_PEND_SET (R522): ICU_PEND_SET makes sources pending. -/
  | interruptPendSet (t : Stamp) (i : Nat) (v : Reg)
  /-- INTERRUPT_PEND_CLR (R522): ICU_PEND_CLR withdraws pending sources. -/
  | interruptPendClr (t : Stamp) (i : Nat) (v : Reg)
  /-- ROCE_PACKET_RECEIVE (R554): A received RoCEv2 packet passes its meter and the receive buffer. -/
  | rocePacketReceive (t : Stamp) (k : RocePacket)
  /-- RDMA_WRITE_RECEIVE (R540): An incoming RDMA WRITE is carried out if its key and addresses are permitted. -/
  | rdmaWriteReceive (t : Stamp) (qp rkey addr : Nat) (data : List Byte)
  /-- RDMA_READ_RECEIVE (R540): An incoming RDMA READ is answered if its key and addresses are permitted. -/
  | rdmaReadReceive (t : Stamp) (qp rkey addr len : Nat)
  /-- RNR_NAK_RECEIVE (R537): An RNR NAK makes the requester retry after the NAK's timer, given in nanoseconds. -/
  | rnrNakReceive (t : Stamp) (qp timer : Nat)
  /-- ROCE_NAK_RECEIVE (R62): A remote-access, invalid-request or operational NAK puts the queue pair in error. -/
  | roceNakReceive (t : Stamp) (qp : Nat) (k : NakKind)
  /-- LOCAL_ACK_TIMEOUT (R539): A local ACK timeout retransmits or, after the retry count, errors the queue pair. -/
  | localAckTimeout (t : Stamp) (qp : Nat)
  /-- CNP_RECEIVE (R542): A received CNP lowers the queue pair's sending rate. -/
  | cnpReceive (t : Stamp) (qp : Nat)
  /-- RATE_INCREASE_WINDOW (R542): A window without a CNP raises the queue pair's rate. -/
  | rateIncreaseWindow (t : Stamp) (qp : Nat)
  /-- FRAME_TRANSMIT (R550): A queued frame starts when its gate is open and it ends before the gate closes. -/
  | frameTransmit (t : Stamp) (l cls : Nat)
  /-- GATE_ENTRY_BOUNDARY (R549): A gate-list entry ends and the next entry's gate states apply. -/
  | gateEntryBoundary (t : Stamp) (l : Nat)
  /-- GATE_CONFIG_CHANGE (R551): CONFIG_CHANGE checks the administrative list and schedules it. -/
  | gateConfigChange (t : Stamp) (l : Nat)
  /-- GATE_CONFIG_INSTALL (R551): At the configuration change time, the administrative list becomes operational. -/
  | gateConfigInstall (t : Stamp) (l : Nat)
  /-- METER_REFRESH (R552): At each refresh instant meters' buckets gain their rates. -/
  | meterRefresh (t : Stamp)
  /-- QUEUE_TELEMETRY_SAMPLE (R556): Every 1 µs every queue's depth and sojourn are sampled into histograms. -/
  | queueTelemetrySample (t : Stamp)
  /-- ARP_REQUEST (R533): Answers ARP for the list's own address. -/
  | arpRequest (t : Stamp) (l : Nat) (q : NetQuery)
  /-- NEIGHBOUR_SOLICITATION (R533): Answers IPv6 neighbour solicitation for the list's own address. -/
  | neighbourSolicitation (t : Stamp) (l : Nat) (q : NetQuery)
  /-- ICMP_ECHO_REQUEST (R533): Answers ICMP and ICMPv6 echo requests. -/
  | icmpEchoRequest (t : Stamp) (l : Nat) (q : NetQuery)
  /-- FRAME_DISCARD (R533): Any other received frame is discarded and counted. -/
  | frameDiscard (t : Stamp) (l len : Nat)
  /-- MGMT_READ (R535): An authenticated management datagram reads CSR words. -/
  | mgmtRead (t : Stamp) (d : MgmtDatagram)
  /-- MGMT_WRITE (R535): An authenticated management datagram writes CSR words. -/
  | mgmtWrite (t : Stamp) (d : MgmtDatagram)
  /-- CSR_WRITE (R14): A write to a register with no row of its own stores or clears by its access codes. -/
  | csrWrite (t : Stamp) (src : CsrWriter) (a : Nat) (v : Reg)
  /-- BREAKOUT_CHANGE (R531): A NET_PORT BREAKOUT write takes effect and restarts the link only with no bound queue pair. -/
  | breakoutChange (t : Stamp) (port : Nat) (v : Reg)
  /-- QP_CREATE (R538): NET_QP_CMD create makes a queue pair from the descriptor. -/
  | qpCreate (t : Stamp)
  /-- QP_DESTROY (R539): NET_QP_CMD destroy errors and frees a queue pair. -/
  | qpDestroy (t : Stamp)
  /-- QP_READ_BACK (R538): NET_QP_CMD read back copies a queue pair's descriptor into NET_QP_DESC. -/
  | qpReadBack (t : Stamp)
  /-- LINK_CHANGE (R566): A list's link goes up or down. -/
  | linkChange (t : Stamp) (l : Nat) (rate : LinkRate)
  /-- MGMT_LINK_FALLBACK (R530): Without 25G link in 2 s the management port falls back to 10GBASE-R. -/
  | mgmtLinkFallback (t : Stamp)
  /-- PTP_ANNOUNCE_RECEIVE (R546): An Announce from a chosen time transmitter starts acquisition. -/
  | ptpAnnounceReceive (t : Stamp) (l interval : Nat)
  /-- PTP_EXCHANGE (R544): A completed Sync and Delay_Req exchange runs the servo. -/
  | ptpExchange (t : Stamp) (o : Int)
  /-- ANNOUNCE_TIMEOUT (R546): No Announce within the timeout enters HOLDOVER. -/
  | announceTimeout (t : Stamp)
  /-- PPS_EDGE (R547): A PPS_IN edge is stamped and corrects holdover frequency. -/
  | ppsEdge (t : Stamp)
  /-- PPS_LOSS_TIMEOUT (R547): Two seconds without a pulse set PPS_LOST. -/
  | ppsLossTimeout (t : Stamp)
  /-- PTP_UNIT_SWAP (R548): The spare PTP unit takes over on a fault without a step. -/
  | ptpUnitSwap (t : Stamp)
  /-- CXL_LINK_UP (R601): A link trains, is authenticated and encrypted, and comes up. -/
  | cxlLinkUp (t : Stamp) (l : Nat) (d : CxlTraining)
  /-- CXL_TRAIN_RETRY (R601): A link not trained is retried every 1 s. -/
  | cxlTrainRetry (t : Stamp) (l : Nat)
  /-- CXL_LINK_EXIT (R603): A link leaving its active state opens a 100 ms recovery window. -/
  | cxlLinkExit (t : Stamp) (l : Nat)
  /-- CXL_LINK_RECOVER (R603): A link returning within its window keeps its device. -/
  | cxlLinkRecover (t : Stamp) (l width : Nat) (how : CxlReturn)
  /-- CXL_RECOVERY_TIMEOUT (R603): A recovery window ending first loses the device. -/
  | cxlRecoveryTimeout (t : Stamp) (l : Nat)
  /-- REARM (R605): CXL_LINK_CTRL REARM returns a lost link to training. -/
  | rearm (t : Stamp) (l : Nat)
  /-- IDE_INTEGRITY_FAILURE (R667): An IDE integrity failure is an uncorrectable read; three in a second lose the link. -/
  | ideIntegrityFailure (t : Stamp) (l addr : Nat)
  /-- IDE_KEY_REFRESH (R666): IDE keys are refreshed every 2^32 flits. -/
  | ideKeyRefresh (t : Stamp) (l : Nat)
  /-- POWER_UP (R591): PWR_EN sampled high starts the power-up sequence. -/
  | powerUp (t : Stamp)
  /-- POWER_DOWN (R594): PWR_EN falling starts the orderly power-down. -/
  | powerDown (t : Stamp)
  /-- START_FAILURE (R593): A rail, PLL or sequence missing its limit starts an emergency power-down. -/
  | startFailure (t : Stamp)
  /-- INPUT_UNDERVOLTAGE (R595): Input below 36 V beyond ride-through starts an emergency power-down. -/
  | inputUndervoltage (t : Stamp) (mv heldNs : Nat)
  /-- INPUT_OVERVOLTAGE (R595): Input above 62 V starts an emergency power-down. -/
  | inputOvervoltage (t : Stamp) (mv heldNs : Nat)
  /-- RAIL_FAULT (R595): A rail outside ±5 % for 50 µs starts an emergency power-down. -/
  | railFault (t : Stamp) (r heldNs : Nat)
  /-- MOD_RST_N_ASSERT (R597): MOD_RST_N low for 10 µs starts a module reset. -/
  | modRstNAssert (t : Stamp) (heldNs : Nat)
  /-- MODULE_RESET (R597): PWR_CTRL MODULE_RESET starts a module reset. -/
  | moduleReset (t : Stamp)
  /-- REFCLK_LOSS (R575): REFCLK lost for over 100 µs starts a module reset. -/
  | refclkLoss (t : Stamp) (heldNs : Nat)
  /-- POWER_WINDOW_END (R583): At each 100 µs window end, the duty is raised or lowered against the cap. -/
  | powerWindowEnd (t : Stamp) (meanW : Nat)
  /-- POWER_EMERGENCY (R583): A power emergency condition held for 10 µs enters POWER_EMERGENCY. -/
  | powerEmergency (t : Stamp) (c : PowerCondition)
  /-- POWER_EMERGENCY_CLEAR (R583): All conditions clear for 1 ms leaves POWER_EMERGENCY. -/
  | powerEmergencyClear (t : Stamp)
  /-- THERMAL_SAMPLE (R589): Every 100 µs temperatures are read against emergency and trip limits. -/
  | thermalSample (t : Stamp) (temps : List Int)
  /-- PHASE_FAULT (R582): A faulting regulator phase is removed and a spare joins. -/
  | phaseFault (t : Stamp) (k : Nat)
  /-- RAIL_OFFSET_WRITE (R606): OFFSET_STEPS write slews a core rail's setpoint. -/
  | railOffsetWrite (t : Stamp) (r steps : Nat)
  /-- I3C_CAP_W_WRITE (R578): The chassis writes CAP_W, changing the effective cap. -/
  | i3cCapWWrite (t : Stamp) (w : Nat)
  /-- I3C_ALERT_CAUSE_READ (R577): Reading ALERT_CAUSE returns and clears it. -/
  | i3cAlertCauseRead (t : Stamp)
  /-- PRES_N_CHANGE (R655): A debounced PRES_N change is sampled. -/
  | presNChange (t : Stamp) (asserted : Bool)
  /-- SEAL_BREAK (R656): A SEAL_OK sample finding the loop broken records a seal break. -/
  | sealBreak (t : Stamp)
  /-- FAULT_REPORT (R607): The classifier receives a fault report and classifies it. -/
  | faultReport (t : Stamp) (f : FaultReport)
  /-- SPARE_ENTRY_TEST_COMPLETE (R618): A spare Lathe's entry test completes and the swap proceeds. -/
  | spareEntryTestComplete (t : Stamp) (n : Nat) (pass : Bool)
  /-- FW_COPY_MOVE_COMPLETE (R616): A firmware copy move completes and migration continues. -/
  | fwCopyMoveComplete (t : Stamp) (stack : Nat)
  /-- PCH_MIGRATION_SWITCH (R620): When the migration copy completes, the logical pseudo-channel is switched to the spare. -/
  | pchMigrationSwitch (t : Stamp) (stack : Nat)
  /-- ROLLING_TEST (R622): Once per test period a unit is swapped out for a live test. -/
  | rollingTest (t : Stamp) (k : TestKind) (n : Nat)
  /-- ROLLING_TEST_COMPLETE (R622): A tested unit becomes a spare or permanent. -/
  | rollingTestComplete (t : Stamp) (k : TestKind) (n : Nat) (pass : Bool)
  /-- WALKER_SWAP_TIMEOUT (R619): After 20 ms or idle, a planned walker swap restarts remaining searches on the spare. -/
  | walkerSwapTimeout (t : Stamp) (w : Nat)
  /-- CALIPER_MEASURE (R624): Calipers measure at each 10 s period and a due margin plan runs. -/
  | caliperMeasure (t : Stamp) (readings : List Nat)
  /-- BIN_CHANGE (R628): When no Lathe of the region runs a kernel, all switch to the lower bin. -/
  | binChange (t : Stamp) (r : Nat)
  /-- HOURS_UPDATE (R629): Operating hours are written to flash once per hour. -/
  | hoursUpdate (t : Stamp)
  /-- ROT_SELF_TEST (R621): The root of trust self-tests every 24 h. -/
  | rotSelfTest (t : Stamp) (pass : Bool)
  /-- BOOT_SEQUENCE (R631): At internal reset release, the boot ROM starts the boot sequence. -/
  | bootSequence (t : Stamp)
  /-- BOOT_IMAGE_FETCH (R498): The boot ROM fetches and verifies the image over the management port. -/
  | bootImageFetch (t : Stamp) (o : BootFetch)
  /-- DHCP_RETRANSMIT (R498): A DHCP retransmission timer expires and resends. -/
  | dhcpRetransmit (t : Stamp)
  /-- TFTP_RETRANSMIT (R498): A TFTP block timeout expires and retransmits. -/
  | tftpRetransmit (t : Stamp)
  /-- BOOT_BUDGET_EXPIRY (R499): The 60 s network budget ends and the last-known-good image runs. -/
  | bootBudgetExpiry (t : Stamp)
  /-- BOOT_FETCH_RETRY (R632): 60 s after a failed boot, a new network fetch starts. -/
  | bootFetchRetry (t : Stamp)
  /-- HBM_STACK_TRAINED (R633): A stack trains, is zeroed and becomes ready, or is withdrawn after three attempts. -/
  | hbmStackTrained (t : Stamp) (s : Nat) (ok : Bool)
  /-- BOOT_FAULT_LOG_READ (R640): Reading BOOT_FAULT_LOG returns the oldest entry and advances the log. -/
  | bootFaultLogRead (t : Stamp)
  /-- UNKNOWN_OPCODE_REQUEST (R71): A complete request whose opcode is absent from Table 2-5 is refused with UNKNOWN_OPCODE. -/
  | unknownOpcodeRequest (t : Stamp) (opcode : Nat) (r : Req)
  /-- ILLEGAL_INSTRUCTION (R296): A fetched Lathe instruction with an opcode outside Table 7-5 aborts its kernel as an illegal instruction. -/
  | illegalInstruction (t : Stamp) (n : Nat) (w : BitVec 128)
  /-- RNR_TIMER_EXPIRY (R537): The RNR timer carried by an RNR NAK runs out and the requester retries the send. -/
  | rnrTimerExpiry (t : Stamp) (qp : Nat)
  /-- FETCH_BUDGET_END (R267): At budget end E, RESCORE or RERANK leaves out candidates whose remote data has not arrived and replies. -/
  | fetchBudgetEnd (t : Stamp) (c : Nat)
  /-- FAR_CONTEXT_KV_FETCH_COMPLETE (R389): A far-context KV fetch completes and its block becomes resident in tier 1. -/
  | farContextKvFetchComplete (t : Stamp) (p obj : Nat)
  /-- TOKENIZATION_TAKE (R406): A tokenization waiting for an engine is taken by a free tokenizer engine in rotating order. -/
  | tokenizationTake (t : Stamp)
  /-- DIR_FLUSH (R14): Writing 1 to DIR_FLUSH of TIER_CTRL writes back every cached directory entry. -/
  | dirFlush (t : Stamp)
  /-- STANDBY_POWER_ON (R573): P48V rising above 34.0 V turns on the standby domain, the I3C target and sideband sampling. -/
  | standbyPowerOn (t : Stamp)
  /-- STANDBY_POWER_LOSS (R573): P48V falling below 34.0 V turns off the standby domain and releases THERM_TRIP_N. -/
  | standbyPowerLoss (t : Stamp)
  /-- THERM_TRIP_RELEASE (R590): THERM_TRIP_N is released once PWR_EN has been low for 100 ms. -/
  | thermTripRelease (t : Stamp)
  /-- SEAL_RESTORED (R655): A SEAL_OK sample finds the seal loop intact again after it was broken. -/
  | sealRestored (t : Stamp)
  /-- PHASE_REENABLE (R609): A regulator phase removed on a fault is re-enabled once after 1 s as its retry. -/
  | phaseReenable (t : Stamp) (k : Nat) (ok : Bool)
  /-- BOOT_LIMIT_MISSED (R631): A boot function that misses its Table 16-8 limit sets LATE, writes a log entry and has its BOOT_ETA rewritten. -/
  | bootLimitMissed (t : Stamp) (b : Nat)
  deriving DecidableEq, Repr

end Sys2Proof
end

