-- ==== Sys2Proof/Decode.lean ====
section
/-! DEFINITION. The block has no instruction encoding: no row of spec/opcode_table.json gives bits, so no word spells a
command. A host's command is carried whole by its constructor's operands (`Req`). -/

namespace Sys2Proof

/-- The command that a word spells by the bits of the opcode table: none, for the table gives no row bits. -/
def decodeTableWord (_nbits _w : Nat) : Option Instr := none

end Sys2Proof
end

