-- ==== Sys2Proof/Config.lean ====
section
/-! DEFINITION. What the spec leaves open: free values, as constants without a body, applied to a counter of the state
(`State.freeCtr`) or to the operands that they depend on. Nothing can be proved of their values (log entry 6). -/

namespace Sys2Proof

/-- A free value for the `n`th question left open, below `bound` where one is asked for by `freeBelow`. -/
opaque Config.freeNat : Nat → Nat

/-- A free bit. -/
opaque Config.freeBit : Nat → Bool

/-- A free FP32 pattern: a model's logit or embedding element, or a function of the vector unit (log entry 7). -/
opaque Config.freeF32 : Nat → F32

/-- Byte `i` of the `n`th free byte string: undefined buffer contents, random keys, signatures. -/
opaque Config.freeByte : Nat → Nat → Byte

/-- Byte `i` of the SHA3-256 digest of a byte string (log entry 8). -/
opaque Config.sha3Byte : List Byte → Nat → Byte

/-- Byte `i` of the KMAC256 tag of a message under a key (R668, log entry 8). -/
opaque Config.kmacByte : List Byte → List Byte → Nat → Byte

/-- An ML-DSA-44 signature verifies: public key, message digest, signature (R643, log entry 8). -/
opaque Config.mldsaVerify : List Byte → List Byte → List Byte → Bool

/-- The Jarador signature verifies under the key in the boot ROM: message digest, signature (R650, log entry 8). -/
opaque Config.jaradorVerify : List Byte → List Byte → Bool

/-- Byte `i` of the ML-DSA-44 signature of a message under the key named by a number (log entry 8). -/
opaque Config.mldsaSignByte : Nat → List Byte → Nat → Byte

/-- The coded exponent planes of a tile in mode 1 and the coder's tables, from the exponents of its elements: the entropy coding
is internal to the codec (R106, R107, log entry 16). -/
opaque Config.codecPlanes : Nat → List Nat → List Byte
opaque Config.codecTables : Nat → List Nat → List Byte

/-- The exponents that the codec reads from coded planes and tables (log entry 16). -/
opaque Config.codecExponents : Nat → List Byte → List Byte → List Nat

/-- The DRAM row that a byte offset of a pseudo-channel lies in: the device's geometry is not stated (log entry 6). -/
opaque Config.dramRow : Nat → Nat

/-- The result of a vector operation whose value is given only within a bound (Table 7-8): operation and operand. It is used
where it keeps the bound (`vecFn`, log entry 7). -/
opaque Config.vectorF32 : Nat → F32 → F32

/-- Output element `i` of the `n`th run of a model at a position: logits, embedding elements, scores (log entry 7). -/
opaque Config.modelOut : Nat → Nat → F32

/-- Output element `i` of model layer `l` of the `n`th row, from the layer's input: the layer's own work is not computed (log
entry 7). -/
opaque Config.layerOut : Nat → Nat → List F32 → Nat → F32

/-- The logit of token `t` of the `n`th row, from the output of the last layer (log entry 7). -/
opaque Config.headOut : Nat → List F32 → Nat → F32

/-- The master tile (its index in the tile table) that a weight tile of a model version is made from (log entry 28). -/
opaque Config.masterTile : Nat → Nat → Nat → Nat

/-- The optimizer-state tile of a master tile: model, version, role (1 gradient, 2 and 3 moments), master (log entry 28). -/
opaque Config.stateTile : Nat → Nat → Nat → Nat → Nat

/-- An element of the gradient that a learning step's batch gives a tile: run, loss terms (position, target, weight), tile and
element. The model's forward and backward passes are not computed (log entry 7). -/
opaque Config.lossGrad : Nat → List (Nat × Nat × F32) → Nat → Nat → F32

/-- The certificate chain of R643 as flash holds it: device, intermediate and root certificate, DER-encoded (log entry 8). -/
opaque Config.certificate : Nat → List Byte

/-- Base address of the collective area of the module at the far end of a queue pair, and that module's device key: how a
rank learns them is not stated (log entry 35). -/
opaque Config.peerArea : Nat → Nat
opaque Config.peerKey : Nat → Nat

/-- The delay of a Caliper monitor at manufacture, in 0.1 ps (BASELINE of CAL_MON). -/
opaque Config.calBaseline : Nat → Nat

/-- A value below `bound` from the `n`th free number; 0 where `bound` is 0. -/
def Config.freeBelow (n bound : Nat) : Nat := Config.freeNat n % bound

/-- The SHA3-256 digest of a byte string. -/
def sha3 (bs : List Byte) : List Byte := (List.range 32).map (Config.sha3Byte bs)

/-- The 16-byte KMAC256 tag of a message (R668). -/
def kmac (key msg : List Byte) : List Byte := (List.range 16).map (Config.kmacByte key msg)

end Sys2Proof
end

