-- ==== Sys2Proof/Machine/Regs.lean ====
section
/-! DEFINITION. The control and status registers: the access codes of Table 0-9, the register table transcribed from
the register headings of the chapters, their addresses and their reset values. -/

namespace Sys2Proof.Machine

/-- The access codes of Table 0-9 (R14). -/
inductive Access where
  | rw | ro | wo | w1c | w1s | rc
  deriving DecidableEq, Repr

/-- A field of a register: bits [hi:lo], its access code and its reset value. -/
structure RegField where
  hi    : Nat
  lo    : Nat
  acc   : Access
  reset : Nat
  deriving DecidableEq, Repr

/-- A register heading: the address of its first instance, the stride and count of its first and second index, and
its fields; bits in no field are reserved (R15). -/
structure RegDesc where
  base   : Nat
  s1     : Nat
  n1     : Nat
  s2     : Nat
  n2     : Nat
  fields : List RegField
  deriving DecidableEq, Repr

/-- TIER_CTRL (03, R14). -/
abbrev TIER_CTRL : Nat := 0x0FF0_00A0_0000
/-- TIER_STATUS (03, R14). -/
abbrev TIER_STATUS : Nat := 0x0FF0_00A0_0008
/-- TIER_CXL_STATE (03, R14). -/
abbrev TIER_CXL_STATE : Nat := 0x0FF0_00A0_0010
/-- TIER_EVENT (03, R14). -/
abbrev TIER_EVENT : Nat := 0x0FF0_00A0_0018
/-- TIER_DIR_BASE(p) (03, R14). -/
abbrev TIER_DIR_BASE (p : Nat) : Nat := 0x0FF0_00A0_1000 + p * 0x100
/-- TIER_POLICY(p) (03, R14). -/
abbrev TIER_POLICY (p : Nat) : Nat := 0x0FF0_00A0_1008 + p * 0x100
/-- TIER_RSV_BW(p) (03, R14). -/
abbrev TIER_RSV_BW (p : Nat) : Nat := 0x0FF0_00A0_1010 + p * 0x100
/-- TIER_LATE_CNT(p) (03, R14). -/
abbrev TIER_LATE_CNT (p : Nat) : Nat := 0x0FF0_00A0_1018 + p * 0x100
/-- TIER_FALLBACK_CNT(p) (03, R14). -/
abbrev TIER_FALLBACK_CNT (p : Nat) : Nat := 0x0FF0_00A0_1020 + p * 0x100
/-- TIER_WAIT_TIME(p) (03, R14). -/
abbrev TIER_WAIT_TIME (p : Nat) : Nat := 0x0FF0_00A0_1028 + p * 0x100
/-- TIER_EVICT_BUSY_CNT(p) (03, R14). -/
abbrev TIER_EVICT_BUSY_CNT (p : Nat) : Nat := 0x0FF0_00A0_1030 + p * 0x100
/-- SPN_CTRL (04, R14). -/
abbrev SPN_CTRL : Nat := 0x0FF0_0050_0000
/-- SPN_STATUS (04, R14). -/
abbrev SPN_STATUS : Nat := 0x0FF0_0050_0008
/-- SPN_CB_LOAD (04, R14). -/
abbrev SPN_CB_LOAD : Nat := 0x0FF0_0050_0010
/-- SPN_SCRUB_CFG (04, R14). -/
abbrev SPN_SCRUB_CFG : Nat := 0x0FF0_0050_0018
/-- SPN_ERR_STATUS (04, R14). -/
abbrev SPN_ERR_STATUS : Nat := 0x0FF0_0050_0020
/-- SPN_ERR_LOG (04, R14). -/
abbrev SPN_ERR_LOG : Nat := 0x0FF0_0050_0028
/-- SPN_ABORT (04, R14). -/
abbrev SPN_ABORT : Nat := 0x0FF0_0050_0030
/-- SPN_PROFILE(n) (04, R14). -/
abbrev SPN_PROFILE (n : Nat) : Nat := 0x0FF0_0050_1000 + n * 0x8
/-- SPN_ENGINE(g) (04, R14). -/
abbrev SPN_ENGINE (g : Nat) : Nat := 0x0FF0_0050_2000 + g * 0x8
/-- SPN_EVAL_CNT(s) (04, R14). -/
abbrev SPN_EVAL_CNT (s : Nat) : Nat := 0x0FF0_0050_3000 + s * 0x8
/-- GGE_CTRL (05, R14). -/
abbrev GGE_CTRL : Nat := 0x0FF0_0020_0000
/-- GGE_STATUS (05, R14). -/
abbrev GGE_STATUS : Nat := 0x0FF0_0020_0008
/-- GGE_EVENT (05, R14). -/
abbrev GGE_EVENT : Nat := 0x0FF0_0020_0010
/-- GGE_WALKER(w) (05, R14). -/
abbrev GGE_WALKER (w : Nat) : Nat := 0x0FF0_0020_0100 + w * 0x8
/-- GGE_QCTX_CFG (05, R14). -/
abbrev GGE_QCTX_CFG : Nat := 0x0FF0_0020_0400
/-- GGE_PART_CFG(p) (05, R14). -/
abbrev GGE_PART_CFG (p : Nat) : Nat := 0x0FF0_0020_0800 + p * 0x20
/-- GGE_SHARD_CFG(p) (05, R14). -/
abbrev GGE_SHARD_CFG (p : Nat) : Nat := 0x0FF0_0020_0808 + p * 0x20
/-- GGE_SEARCH_CNT(p) (05, R14). -/
abbrev GGE_SEARCH_CNT (p : Nat) : Nat := 0x0FF0_0020_0810 + p * 0x20
/-- GGE_SHARD_CNT(p) (05, R14). -/
abbrev GGE_SHARD_CNT (p : Nat) : Nat := 0x0FF0_0020_0818 + p * 0x20
/-- GGE_MERGE_STATUS(p) (05, R14). -/
abbrev GGE_MERGE_STATUS (p : Nat) : Nat := 0x0FF0_0020_1000 + p * 0x8
/-- SEL_CTRL (06, R14). -/
abbrev SEL_CTRL : Nat := 0x0FF0_0060_0000
/-- SEL_STATUS (06, R14). -/
abbrev SEL_STATUS : Nat := 0x0FF0_0060_0008
/-- SEL_EVENT (06, R14). -/
abbrev SEL_EVENT : Nat := 0x0FF0_0060_0010
/-- SEL_UNIT(u) (06, R14). -/
abbrev SEL_UNIT (u : Nat) : Nat := 0x0FF0_0060_0100 + u * 0x8
/-- SEL_PART_AREA(p) (06, R14). -/
abbrev SEL_PART_AREA (p : Nat) : Nat := 0x0FF0_0060_1000 + p * 0x20
/-- SEL_PART_SIZE(p) (06, R14). -/
abbrev SEL_PART_SIZE (p : Nat) : Nat := 0x0FF0_0060_1008 + p * 0x20
/-- SEL_CNT(p) (06, R14). -/
abbrev SEL_CNT (p : Nat) : Nat := 0x0FF0_0060_1010 + p * 0x20
/-- SEL_DROP_CNT(p) (06, R14). -/
abbrev SEL_DROP_CNT (p : Nat) : Nat := 0x0FF0_0060_1018 + p * 0x20
/-- BLK_CTRL (06, R14). -/
abbrev BLK_CTRL : Nat := 0x0FF0_0090_0000
/-- BLK_STATUS (06, R14). -/
abbrev BLK_STATUS : Nat := 0x0FF0_0090_0008
/-- BLK_CNT(p) (06, R14). -/
abbrev BLK_CNT (p : Nat) : Nat := 0x0FF0_0090_1000 + p * 0x10
/-- BLK_TRUNC_CNT(p) (06, R14). -/
abbrev BLK_TRUNC_CNT (p : Nat) : Nat := 0x0FF0_0090_1008 + p * 0x10
/-- LTH_CTRL (07, R14). -/
abbrev LTH_CTRL : Nat := 0x0FF0_0040_0000
/-- LTH_STATUS (07, R14). -/
abbrev LTH_STATUS : Nat := 0x0FF0_0040_0008
/-- LTH_EVENT (07, R14). -/
abbrev LTH_EVENT : Nat := 0x0FF0_0040_0010
/-- LTH_STALL_LIMIT (07, R14). -/
abbrev LTH_STALL_LIMIT : Nat := 0x0FF0_0040_0018
/-- LTH_IDLE_CFG (07, R14). -/
abbrev LTH_IDLE_CFG : Nat := 0x0FF0_0040_0020
/-- LTH_ERR_LOG (07, R14). -/
abbrev LTH_ERR_LOG : Nat := 0x0FF0_0040_0028
/-- LTH_ARRAY(n) (07, R14). -/
abbrev LTH_ARRAY (n : Nat) : Nat := 0x0FF0_0040_0100 + n * 0x8
/-- LTH_INSTR_CNT(p) (07, R14). -/
abbrev LTH_INSTR_CNT (p : Nat) : Nat := 0x0FF0_0040_1000 + p * 0x10
/-- LTH_BUSY_CNT(p) (07, R14). -/
abbrev LTH_BUSY_CNT (p : Nat) : Nat := 0x0FF0_0040_1008 + p * 0x10
/-- HDS_CTRL (08, R14). -/
abbrev HDS_CTRL : Nat := 0x0FF0_0030_0000
/-- HDS_STATUS (08, R14). -/
abbrev HDS_STATUS : Nat := 0x0FF0_0030_0008
/-- HDS_EVENT (08, R14). -/
abbrev HDS_EVENT : Nat := 0x0FF0_0030_0010
/-- HDS_PART_CFG(p) (08, R14). -/
abbrev HDS_PART_CFG (p : Nat) : Nat := 0x0FF0_0030_1000 + p * 0x40
/-- HDS_VARIANT_AREA(p) (08, R14). -/
abbrev HDS_VARIANT_AREA (p : Nat) : Nat := 0x0FF0_0030_1008 + p * 0x40
/-- HDS_STEP_CNT(p) (08, R14). -/
abbrev HDS_STEP_CNT (p : Nat) : Nat := 0x0FF0_0030_1010 + p * 0x40
/-- HDS_TOKEN_CNT(p) (08, R14). -/
abbrev HDS_TOKEN_CNT (p : Nat) : Nat := 0x0FF0_0030_1018 + p * 0x40
/-- HDS_DRAFT_CNT(p) (08, R14). -/
abbrev HDS_DRAFT_CNT (p : Nat) : Nat := 0x0FF0_0030_1020 + p * 0x40
/-- HDS_END_CNT(p) (08, R14). -/
abbrev HDS_END_CNT (p : Nat) : Nat := 0x0FF0_0030_1028 + p * 0x40
/-- HDS_PREFIX_STATUS (09, R14). -/
abbrev HDS_PREFIX_STATUS : Nat := 0x0FF0_0030_0018
/-- HDS_KV_CFG(p) (09, R14). -/
abbrev HDS_KV_CFG (p : Nat) : Nat := 0x0FF0_0030_1030 + p * 0x40
/-- HDS_KV_CNT(p) (09, R14). -/
abbrev HDS_KV_CNT (p : Nat) : Nat := 0x0FF0_0030_1038 + p * 0x40
/-- HDS_KV_AREA(p) (09, R14). -/
abbrev HDS_KV_AREA (p : Nat) : Nat := 0x0FF0_0030_2000 + p * 0x10
/-- HDS_KV_GEOM(v) (09, R14). -/
abbrev HDS_KV_GEOM (v : Nat) : Nat := 0x0FF0_0030_3000 + v * 0x8
/-- TOK_CTRL (10, R14). -/
abbrev TOK_CTRL : Nat := 0x0FF0_0070_0000
/-- TOK_STATUS (10, R14). -/
abbrev TOK_STATUS : Nat := 0x0FF0_0070_0008
/-- TOK_EVENT (10, R14). -/
abbrev TOK_EVENT : Nat := 0x0FF0_0070_0010
/-- TOK_CACHE_CNT (10, R14). -/
abbrev TOK_CACHE_CNT : Nat := 0x0FF0_0070_0018
/-- TOK_VOCAB(v) (10, R14). -/
abbrev TOK_VOCAB (v : Nat) : Nat := 0x0FF0_0070_0100 + v * 0x8
/-- TOK_PART_AREA(p) (10, R14). -/
abbrev TOK_PART_AREA (p : Nat) : Nat := 0x0FF0_0070_1000 + p * 0x10
/-- TOK_CNT(p) (10, R14). -/
abbrev TOK_CNT (p : Nat) : Nat := 0x0FF0_0070_1008 + p * 0x10
/-- JIG_CTRL (10, R14). -/
abbrev JIG_CTRL : Nat := 0x0FF0_0080_0000
/-- JIG_STATUS (10, R14). -/
abbrev JIG_STATUS : Nat := 0x0FF0_0080_0008
/-- JIG_EVENT (10, R14). -/
abbrev JIG_EVENT : Nat := 0x0FF0_0080_0010
/-- JIG_SLOT(s) (10, R14). -/
abbrev JIG_SLOT (s : Nat) : Nat := 0x0FF0_0080_0100 + s * 0x8
/-- JIG_PART_AREA(p) (10, R14). -/
abbrev JIG_PART_AREA (p : Nat) : Nat := 0x0FF0_0080_1000 + p * 0x10
/-- JIG_CNT(p) (10, R14). -/
abbrev JIG_CNT (p : Nat) : Nat := 0x0FF0_0080_1008 + p * 0x10
/-- EMB_CTRL (11, R14). -/
abbrev EMB_CTRL : Nat := 0x0FF0_00B0_0000
/-- EMB_STATUS (11, R14). -/
abbrev EMB_STATUS : Nat := 0x0FF0_00B0_0008
/-- EMB_EVENT (11, R14). -/
abbrev EMB_EVENT : Nat := 0x0FF0_00B0_0010
/-- EMB_TABLE(t) (11, R14). -/
abbrev EMB_TABLE (t : Nat) : Nat := 0x0FF0_00B0_1000 + t * 0x8
/-- EMB_LOOKUP_CNT(p) (11, R14). -/
abbrev EMB_LOOKUP_CNT (p : Nat) : Nat := 0x0FF0_00B0_A000 + p * 0x20
/-- EMB_UPDATE_CNT(p) (11, R14). -/
abbrev EMB_UPDATE_CNT (p : Nat) : Nat := 0x0FF0_00B0_A008 + p * 0x20
/-- EMB_MIGRATE_CNT(p) (11, R14). -/
abbrev EMB_MIGRATE_CNT (p : Nat) : Nat := 0x0FF0_00B0_A010 + p * 0x20
/-- PRT_STATUS (12, R14). -/
abbrev PRT_STATUS : Nat := 0x0FF0_00C0_0000
/-- PRT_EVENT (12, R14). -/
abbrev PRT_EVENT : Nat := 0x0FF0_00C0_0008
/-- PRT_PART_CTRL(p) (12, R14). -/
abbrev PRT_PART_CTRL (p : Nat) : Nat := 0x0FF0_00C0_1000 + p * 0x200
/-- PRT_REGION(p) (12, R14). -/
abbrev PRT_REGION (p : Nat) : Nat := 0x0FF0_00C0_1008 + p * 0x200
/-- PRT_PCH(p, i) (12, R14). -/
abbrev PRT_PCH (p : Nat) (i : Nat) : Nat := 0x0FF0_00C0_1010 + p * 0x200 + i * 0x8
/-- PRT_WAYS(p) (12, R14). -/
abbrev PRT_WAYS (p : Nat) : Nat := 0x0FF0_00C0_1030 + p * 0x200
/-- PRT_LATHES(p) (12, R14). -/
abbrev PRT_LATHES (p : Nat) : Nat := 0x0FF0_00C0_1038 + p * 0x200
/-- PRT_WALKERS(p) (12, R14). -/
abbrev PRT_WALKERS (p : Nat) : Nat := 0x0FF0_00C0_1040 + p * 0x200
/-- PRT_CXL(p, l) (12, R14). -/
abbrev PRT_CXL (p : Nat) (l : Nat) : Nat := 0x0FF0_00C0_1048 + p * 0x200 + l * 0x8
/-- PRT_NET(p) (12, R14). -/
abbrev PRT_NET (p : Nat) : Nat := 0x0FF0_00C0_1068 + p * 0x200
/-- PRT_SAVE_AREA(p) (12, R14). -/
abbrev PRT_SAVE_AREA (p : Nat) : Nat := 0x0FF0_00C0_1070 + p * 0x200
/-- PRT_SWITCH_CFG(p) (12, R14). -/
abbrev PRT_SWITCH_CFG (p : Nat) : Nat := 0x0FF0_00C0_1078 + p * 0x200
/-- PRT_RT_CNT(p) (12, R14). -/
abbrev PRT_RT_CNT (p : Nat) : Nat := 0x0FF0_00C0_1080 + p * 0x200
/-- PRT_CTX_CNT(p) (12, R14). -/
abbrev PRT_CTX_CNT (p : Nat) : Nat := 0x0FF0_00C0_1088 + p * 0x200
/-- PRT_PLAN(p, k) (12, R14). -/
abbrev PRT_PLAN (p : Nat) (k : Nat) : Nat := 0x0FF0_00C0_1090 + p * 0x200 + k * 0x8
/-- PRT_CTX_SHARE(p, c) (12, R14). -/
abbrev PRT_CTX_SHARE (p : Nat) (c : Nat) : Nat := 0x0FF0_00C0_1100 + p * 0x200 + c * 0x10
/-- PRT_CTX_CFG(p, c) (12, R14). -/
abbrev PRT_CTX_CFG (p : Nat) (c : Nat) : Nat := 0x0FF0_00C0_1108 + p * 0x200 + c * 0x10
/-- WDN_CTRL (13, R14). -/
abbrev WDN_CTRL : Nat := 0x0FF0_0140_0000
/-- WDN_STATUS (13, R14). -/
abbrev WDN_STATUS : Nat := 0x0FF0_0140_0008
/-- WDN_VERSION (13, R14). -/
abbrev WDN_VERSION : Nat := 0x0FF0_0140_0010
/-- WDN_STAGED (13, R14). -/
abbrev WDN_STAGED : Nat := 0x0FF0_0140_0018
/-- WDN_EVENT (13, R14). -/
abbrev WDN_EVENT : Nat := 0x0FF0_0140_0020
/-- WDN_ADMIN (13, R14). -/
abbrev WDN_ADMIN : Nat := 0x0FF0_0140_0028
/-- WDN_UPDATE (13, R14). -/
abbrev WDN_UPDATE : Nat := 0x0FF0_0140_0030
/-- WDN_UPDATE_LEN (13, R14). -/
abbrev WDN_UPDATE_LEN : Nat := 0x0FF0_0140_0038
/-- WDN_LOG_BASE (13, R14). -/
abbrev WDN_LOG_BASE : Nat := 0x0FF0_0140_0040
/-- WDN_LOG_SEQ (13, R14). -/
abbrev WDN_LOG_SEQ : Nat := 0x0FF0_0140_0048
/-- WDN_TRACE_EN(i) (13, R14). -/
abbrev WDN_TRACE_EN (i : Nat) : Nat := 0x0FF0_0140_0100 + i * 0x8
/-- WDN_TRACE_DROP (13, R14). -/
abbrev WDN_TRACE_DROP : Nat := 0x0FF0_0140_0120
/-- WDN_CORE(c) (13, R14). -/
abbrev WDN_CORE (c : Nat) : Nat := 0x0FF0_0140_0200 + c * 0x8
/-- WDN_WDOG(c) (13, R14). -/
abbrev WDN_WDOG (c : Nat) : Nat := 0x0FF0_0140_0300 + c * 0x8
/-- WDN_CRASH_CNT (13, R14). -/
abbrev WDN_CRASH_CNT : Nat := 0x0FF0_0140_0400
/-- WDN_JOURNAL(k) (13, R14). -/
abbrev WDN_JOURNAL (k : Nat) : Nat := 0x0FF0_0140_0500 + k * 0x8
/-- ICU_CTRL (13, R14). -/
abbrev ICU_CTRL : Nat := 0x0FF0_0130_0000
/-- ICU_ERR (13, R14). -/
abbrev ICU_ERR : Nat := 0x0FF0_0130_0010
/-- ICU_PEND_SET(i) (13, R14). -/
abbrev ICU_PEND_SET (i : Nat) : Nat := 0x0FF0_0130_0100 + i * 0x8
/-- ICU_PEND_CLR(i) (13, R14). -/
abbrev ICU_PEND_CLR (i : Nat) : Nat := 0x0FF0_0130_0180 + i * 0x8
/-- ICU_CLAIM(c) (13, R14). -/
abbrev ICU_CLAIM (c : Nat) : Nat := 0x0FF0_0130_0400 + c * 0x10
/-- ICU_COMPLETE(c) (13, R14). -/
abbrev ICU_COMPLETE (c : Nat) : Nat := 0x0FF0_0130_0408 + c * 0x10
/-- ICU_GROUP(g) (13, R14). -/
abbrev ICU_GROUP (g : Nat) : Nat := 0x0FF0_0130_0800 + g * 0x8
/-- ICU_SRC(n) (13, R14). -/
abbrev ICU_SRC (n : Nat) : Nat := 0x0FF0_0130_2000 + n * 0x8
/-- NET_CTRL (14, R14). -/
abbrev NET_CTRL : Nat := 0x0FF0_00D0_0000
/-- NET_EVENT (14, R14). -/
abbrev NET_EVENT : Nat := 0x0FF0_00D0_0008
/-- NET_CC_CFG (14, R14). -/
abbrev NET_CC_CFG : Nat := 0x0FF0_00D0_0010
/-- NET_QP_CMD (14, R14). -/
abbrev NET_QP_CMD : Nat := 0x0FF0_00D0_0018
/-- NET_QP_DESC(i) (14, R14). -/
abbrev NET_QP_DESC (i : Nat) : Nat := 0x0FF0_00D0_0100 + i * 0x8
/-- NET_COLL_AREA(p) (14, R14). -/
abbrev NET_COLL_AREA (p : Nat) : Nat := 0x0FF0_00D0_0180 + p * 0x8
/-- NET_PORT(n) (14, R14). -/
abbrev NET_PORT (n : Nat) : Nat := 0x0FF0_00D0_0200 + n * 0x8
/-- NET_PORT_ADDR(l, i) (14, R14). -/
abbrev NET_PORT_ADDR (l : Nat) (i : Nat) : Nat := 0x0FF0_00D0_0400 + l * 0x20 + i * 0x8
/-- NET_LIST_CNT(l) (14, R14). -/
abbrev NET_LIST_CNT (l : Nat) : Nat := 0x0FF0_00D0_0800 + l * 0x10
/-- NET_FEC_CNT(l) (14, R14). -/
abbrev NET_FEC_CNT (l : Nat) : Nat := 0x0FF0_00D0_0808 + l * 0x10
/-- PTP_CTRL (14, R14). -/
abbrev PTP_CTRL : Nat := 0x0FF0_00E0_0000
/-- PTP_SERVO (14, R14). -/
abbrev PTP_SERVO : Nat := 0x0FF0_00E0_0008
/-- PTP_STATUS (14, R14). -/
abbrev PTP_STATUS : Nat := 0x0FF0_00E0_0010
/-- PTP_OFFSET (14, R14). -/
abbrev PTP_OFFSET : Nat := 0x0FF0_00E0_0018
/-- PTP_TIME (14, R14). -/
abbrev PTP_TIME : Nat := 0x0FF0_00E0_0020
/-- PTP_EVENT (14, R14). -/
abbrev PTP_EVENT : Nat := 0x0FF0_00E0_0028
/-- GATE_CTRL(l) (14, R14). -/
abbrev GATE_CTRL (l : Nat) : Nat := 0x0FF0_00F0_0000 + l * 0x20
/-- GATE_BASE(l) (14, R14). -/
abbrev GATE_BASE (l : Nat) : Nat := 0x0FF0_00F0_0008 + l * 0x20
/-- GATE_CYCLE(l) (14, R14). -/
abbrev GATE_CYCLE (l : Nat) : Nat := 0x0FF0_00F0_0010 + l * 0x20
/-- GATE_EVENT (14, R14). -/
abbrev GATE_EVENT : Nat := 0x0FF0_00F0_0200
/-- GATE_ENTRY(l, e) (14, R14). -/
abbrev GATE_ENTRY (l : Nat) (e : Nat) : Nat := 0x0FF0_00F0_1000 + l * 0x1000 + e * 0x8
/-- The operational entry of a gate list (14, access RO). -/
abbrev GATE_OPER (l : Nat) (e : Nat) : Nat := 0x0FF0_00F0_1800 + l * 0x1000 + e * 0x8
/-- POL_EVENT (14, R14). -/
abbrev POL_EVENT : Nat := 0x0FF0_0100_0000
/-- POL_CFG(m) (14, R14). -/
abbrev POL_CFG (m : Nat) : Nat := 0x0FF0_0100_1000 + m * 0x40
/-- POL_RATE(m) (14, R14). -/
abbrev POL_RATE (m : Nat) : Nat := 0x0FF0_0100_1008 + m * 0x40
/-- POL_BURST(m) (14, R14). -/
abbrev POL_BURST (m : Nat) : Nat := 0x0FF0_0100_1010 + m * 0x40
/-- POL_CNT(m, c) (14, R14). -/
abbrev POL_CNT (m : Nat) (c : Nat) : Nat := 0x0FF0_0100_1018 + m * 0x40 + c * 0x8
/-- QTL_CTRL (14, R14). -/
abbrev QTL_CTRL : Nat := 0x0FF0_0110_0000
/-- QTL_EVENT (14, R14). -/
abbrev QTL_EVENT : Nat := 0x0FF0_0110_0008
/-- QTL_MAX(q) (14, R14). -/
abbrev QTL_MAX (q : Nat) : Nat := 0x0FF0_0110_0800 + q * 0x8
/-- QTL_HIST(q, k) (14, R14). -/
abbrev QTL_HIST (q : Nat) (k : Nat) : Nat := 0x0FF0_0110_1000 + q * 0x200 + k * 0x8
/-- PWR_CTRL (15, R14). -/
abbrev PWR_CTRL : Nat := 0x0FF0_0150_0000
/-- PWR_STATE (15, R14). -/
abbrev PWR_STATE : Nat := 0x0FF0_0150_0008
/-- PWR_STATE_STAMP (15, R14). -/
abbrev PWR_STATE_STAMP : Nat := 0x0FF0_0150_0010
/-- PWR_EVENT (15, R14). -/
abbrev PWR_EVENT : Nat := 0x0FF0_0150_0018
/-- PWR_INPUT (15, R14). -/
abbrev PWR_INPUT : Nat := 0x0FF0_0150_0020
/-- PWR_CAP (15, R14). -/
abbrev PWR_CAP : Nat := 0x0FF0_0150_0028
/-- PWR_WAKE_CFG (15, R14). -/
abbrev PWR_WAKE_CFG : Nat := 0x0FF0_0150_0030
/-- PWR_WAKE_CNT (15, R14). -/
abbrev PWR_WAKE_CNT : Nat := 0x0FF0_0150_0038
/-- PWR_RAIL(r) (15, R14). -/
abbrev PWR_RAIL (r : Nat) : Nat := 0x0FF0_0150_0100 + r * 0x8
/-- PWR_PHASE(k) (15, R14). -/
abbrev PWR_PHASE (k : Nat) : Nat := 0x0FF0_0150_0200 + k * 0x8
/-- PWR_THERM(s) (15, R14). -/
abbrev PWR_THERM (s : Nat) : Nat := 0x0FF0_0150_0400 + s * 0x8
/-- CXL_CTRL (15, R14). -/
abbrev CXL_CTRL : Nat := 0x0FF0_0120_0000
/-- CXL_EVENT (15, R14). -/
abbrev CXL_EVENT : Nat := 0x0FF0_0120_0008
/-- CXL_LINK(l) (15, R14). -/
abbrev CXL_LINK (l : Nat) : Nat := 0x0FF0_0120_0100 + l * 0x20
/-- CXL_LINK_CTRL(l) (15, R14). -/
abbrev CXL_LINK_CTRL (l : Nat) : Nat := 0x0FF0_0120_0108 + l * 0x20
/-- CXL_ERR_CNT(l) (15, R14). -/
abbrev CXL_ERR_CNT (l : Nat) : Nat := 0x0FF0_0120_0110 + l * 0x20
/-- CAL_CTRL (16, R14). -/
abbrev CAL_CTRL : Nat := 0x0FF0_0160_0000
/-- CAL_PLAN_CFG (16, R14). -/
abbrev CAL_PLAN_CFG : Nat := 0x0FF0_0160_0008
/-- CAL_STATUS (16, R14). -/
abbrev CAL_STATUS : Nat := 0x0FF0_0160_0010
/-- CAL_EVENT (16, R14). -/
abbrev CAL_EVENT : Nat := 0x0FF0_0160_0018
/-- CAL_REGION(r) (16, R14). -/
abbrev CAL_REGION (r : Nat) : Nat := 0x0FF0_0160_0100 + r * 0x8
/-- CAL_MON(n) (16, R14). -/
abbrev CAL_MON (n : Nat) : Nat := 0x0FF0_0160_1000 + n * 0x8
/-- BOOT_READY (16, R14). -/
abbrev BOOT_READY : Nat := 0x0FF0_0000_0000
/-- BOOT_READY_STAMP (16, R14). -/
abbrev BOOT_READY_STAMP : Nat := 0x0FF0_0000_0008
/-- BOOT_STATUS (16, R14). -/
abbrev BOOT_STATUS : Nat := 0x0FF0_0000_0010
/-- BOOT_EVENT (16, R14). -/
abbrev BOOT_EVENT : Nat := 0x0FF0_0000_0018
/-- BOOT_GRADE (16, R14). -/
abbrev BOOT_GRADE : Nat := 0x0FF0_0000_0020
/-- BOOT_PCH_SPARES (16, R14). -/
abbrev BOOT_PCH_SPARES : Nat := 0x0FF0_0000_0028
/-- BOOT_TEST_CFG (16, R14). -/
abbrev BOOT_TEST_CFG : Nat := 0x0FF0_0000_0030
/-- BOOT_FAULT_LOG (16, R14). -/
abbrev BOOT_FAULT_LOG : Nat := 0x0FF0_0000_0038
/-- BOOT_FAULT_CNT (16, R14). -/
abbrev BOOT_FAULT_CNT : Nat := 0x0FF0_0000_0040
/-- BOOT_CE_CNT (16, R14). -/
abbrev BOOT_CE_CNT : Nat := 0x0FF0_0000_0048
/-- BOOT_ETA(b) (16, R14). -/
abbrev BOOT_ETA (b : Nat) : Nat := 0x0FF0_0000_0100 + b * 0x8
/-- SEC_STATUS (17, R14). -/
abbrev SEC_STATUS : Nat := 0x0FF0_0010_0000
/-- SEC_EPOCH (17, R14). -/
abbrev SEC_EPOCH : Nat := 0x0FF0_0010_0008
/-- SEC_PENDING_END (17, R14). -/
abbrev SEC_PENDING_END : Nat := 0x0FF0_0010_0010
/-- SEC_EVENT (17, R14). -/
abbrev SEC_EVENT : Nat := 0x0FF0_0010_0018
/-- SEC_LOG_CNT (17, R14). -/
abbrev SEC_LOG_CNT : Nat := 0x0FF0_0010_0020
/-- SEC_FAIL_CNT (17, R14). -/
abbrev SEC_FAIL_CNT : Nat := 0x0FF0_0010_0028
/-- SEC_SLOT(s, i) (17, R14). -/
abbrev SEC_SLOT (s : Nat) (i : Nat) : Nat := 0x0FF0_0010_0100 + s * 0x20 + i * 0x8
/-- SEC_MEAS(r, i) (17, R14). -/
abbrev SEC_MEAS (r : Nat) (i : Nat) : Nat := 0x0FF0_0010_0200 + r * 0x20 + i * 0x8
/-- SEC_KEY_GEN(p) (17, R14). -/
abbrev SEC_KEY_GEN (p : Nat) : Nat := 0x0FF0_0010_0300 + p * 0x8

/-- The TIER_ registers. -/
def regsTier : List RegDesc := [
  ⟨0x0FF0_00A0_0000, 8, 1, 8, 1, [⟨2, 2, .wo, 0⟩, ⟨1, 1, .rw, 1⟩, ⟨0, 0, .rw, 1⟩]⟩,
  ⟨0x0FF0_00A0_0008, 8, 1, 8, 1, [⟨39, 32, .ro, 0⟩, ⟨31, 16, .ro, 0⟩]⟩,
  ⟨0x0FF0_00A0_0010, 8, 1, 8, 1, [⟨31, 24, .ro, 0⟩, ⟨23, 16, .ro, 0⟩, ⟨15, 8, .ro, 0⟩, ⟨7, 0, .ro, 0⟩]⟩,
  ⟨0x0FF0_00A0_0018, 8, 1, 8, 1, [⟨11, 8, .w1c, 0⟩, ⟨7, 4, .w1c, 0⟩, ⟨1, 1, .w1c, 0⟩, ⟨0, 0, .w1c, 0⟩]⟩,
  ⟨0x0FF0_00A0_1000, 256, 16, 8, 1, [⟨47, 12, .rw, 0⟩, ⟨4, 0, .rw, 0⟩]⟩,
  ⟨0x0FF0_00A0_1008, 256, 16, 8, 1, [⟨47, 32, .rw, 50⟩, ⟨31, 24, .rw, 95⟩, ⟨23, 16, .rw, 85⟩, ⟨5, 5, .rw, 1⟩, ⟨4, 4, .rw, 0⟩, ⟨3, 3, .rw, 0⟩, ⟨2, 2, .rw, 1⟩, ⟨1, 1, .rw, 1⟩, ⟨0, 0, .rw, 0⟩]⟩,
  ⟨0x0FF0_00A0_1010, 256, 16, 8, 1, [⟨31, 16, .rw, 0⟩, ⟨15, 0, .rw, 0⟩]⟩,
  ⟨0x0FF0_00A0_1018, 256, 16, 8, 1, [⟨63, 32, .rc, 0⟩, ⟨31, 0, .rc, 0⟩]⟩,
  ⟨0x0FF0_00A0_1020, 256, 16, 8, 1, [⟨63, 32, .rc, 0⟩, ⟨31, 0, .rc, 0⟩]⟩,
  ⟨0x0FF0_00A0_1028, 256, 16, 8, 1, [⟨63, 0, .rc, 0⟩]⟩,
  ⟨0x0FF0_00A0_1030, 256, 16, 8, 1, [⟨31, 0, .rc, 0⟩]⟩]

/-- The SPN_ registers. -/
def regsSpn : List RegDesc := [
  ⟨0x0FF0_0050_0000, 8, 1, 8, 1, [⟨1, 1, .rw, 1⟩, ⟨0, 0, .rw, 1⟩]⟩,
  ⟨0x0FF0_0050_0008, 8, 1, 8, 1, [⟨47, 40, .ro, 0⟩, ⟨39, 32, .ro, 0⟩, ⟨31, 16, .ro, 0⟩]⟩,
  ⟨0x0FF0_0050_0010, 8, 1, 8, 1, [⟨63, 63, .wo, 0⟩, ⟨62, 62, .ro, 0⟩, ⟨61, 56, .rw, 0⟩, ⟨55, 50, .rw, 0⟩, ⟨47, 0, .rw, 0⟩]⟩,
  ⟨0x0FF0_0050_0018, 8, 1, 8, 1, [⟨15, 0, .rw, 24⟩]⟩,
  ⟨0x0FF0_0050_0020, 8, 1, 8, 1, [⟨5, 5, .w1c, 0⟩, ⟨4, 4, .w1c, 0⟩, ⟨3, 3, .w1c, 0⟩, ⟨2, 2, .w1c, 0⟩, ⟨1, 1, .w1c, 0⟩, ⟨0, 0, .w1c, 0⟩]⟩,
  ⟨0x0FF0_0050_0028, 8, 1, 8, 1, [⟨63, 63, .rc, 0⟩, ⟨62, 59, .rc, 0⟩, ⟨58, 56, .rc, 0⟩, ⟨55, 51, .rc, 0⟩, ⟨50, 43, .rc, 0⟩, ⟨42, 39, .rc, 0⟩, ⟨25, 0, .rc, 0⟩]⟩,
  ⟨0x0FF0_0050_0030, 8, 1, 8, 1, [⟨21, 21, .wo, 0⟩, ⟨20, 20, .ro, 0⟩, ⟨19, 16, .rw, 0⟩, ⟨15, 0, .rw, 0⟩]⟩,
  ⟨0x0FF0_0050_1000, 8, 64, 8, 1, [⟨63, 58, .rw, 0⟩, ⟨57, 52, .rw, 0⟩, ⟨47, 35, .rw, 0⟩, ⟨34, 26, .rw, 0⟩, ⟨23, 20, .rw, 0⟩, ⟨19, 18, .rw, 0⟩, ⟨0, 0, .rw, 0⟩]⟩,
  ⟨0x0FF0_0050_2000, 8, 256, 8, 1, [⟨39, 32, .ro, 255⟩, ⟨23, 20, .rw, 0⟩, ⟨19, 19, .rw, 0⟩, ⟨18, 16, .ro, 0⟩, ⟨4, 0, .ro, 0⟩]⟩,
  ⟨0x0FF0_0050_3000, 8, 8, 8, 1, [⟨63, 0, .rc, 0⟩]⟩]

/-- The GGE_ registers. -/
def regsGge : List RegDesc := [
  ⟨0x0FF0_0020_0000, 8, 1, 8, 1, [⟨1, 1, .rw, 1⟩, ⟨0, 0, .rw, 1⟩]⟩,
  ⟨0x0FF0_0020_0008, 8, 1, 8, 1, [⟨39, 32, .ro, 0⟩, ⟨31, 15, .ro, 0⟩]⟩,
  ⟨0x0FF0_0020_0010, 8, 1, 8, 1, [⟨2, 2, .w1c, 0⟩, ⟨1, 1, .w1c, 0⟩, ⟨0, 0, .w1c, 0⟩]⟩,
  ⟨0x0FF0_0020_0100, 8, 72, 8, 1, [⟨39, 32, .ro, 255⟩, ⟨23, 20, .rw, 0⟩, ⟨19, 19, .rw, 0⟩, ⟨18, 16, .ro, 0⟩, ⟨8, 0, .ro, 0⟩]⟩,
  ⟨0x0FF0_0020_0400, 8, 1, 8, 1, [⟨40, 32, .rw, 256⟩, ⟨23, 16, .rw, 64⟩, ⟨15, 0, .rw, 0x7d0⟩]⟩,
  ⟨0x0FF0_0020_0800, 32, 16, 8, 1, [⟨39, 32, .ro, 0⟩, ⟨31, 24, .rw, 25⟩, ⟨13, 8, .rw, 0⟩, ⟨6, 0, .rw, 0⟩]⟩,
  ⟨0x0FF0_0020_0808, 32, 16, 8, 1, [⟨63, 48, .rw, 0x2710⟩, ⟨47, 32, .rw, 300⟩, ⟨31, 20, .rw, 100⟩, ⟨19, 8, .rw, 20⟩, ⟨7, 5, .rw, 6⟩, ⟨4, 4, .rw, 0⟩, ⟨3, 1, .rw, 0⟩]⟩,
  ⟨0x0FF0_0020_0810, 32, 16, 8, 1, [⟨63, 32, .rc, 0⟩, ⟨31, 0, .rc, 0⟩]⟩,
  ⟨0x0FF0_0020_0818, 32, 16, 8, 1, [⟨63, 32, .rc, 0⟩, ⟨31, 0, .rc, 0⟩]⟩,
  ⟨0x0FF0_0020_1000, 8, 16, 8, 1, [⟨55, 48, .ro, 0⟩, ⟨43, 40, .ro, 0⟩, ⟨31, 0, .ro, 0⟩]⟩]

/-- The SEL_ registers. -/
def regsSel : List RegDesc := [
  ⟨0x0FF0_0060_0000, 8, 1, 8, 1, [⟨0, 0, .rw, 1⟩]⟩,
  ⟨0x0FF0_0060_0008, 8, 1, 8, 1, [⟨39, 32, .ro, 0⟩, ⟨31, 0, .ro, 0⟩]⟩,
  ⟨0x0FF0_0060_0010, 8, 1, 8, 1, [⟨1, 1, .w1c, 0⟩, ⟨0, 0, .w1c, 0⟩]⟩,
  ⟨0x0FF0_0060_0100, 8, 8, 8, 1, [⟨23, 20, .ro, 0⟩, ⟨18, 16, .ro, 0⟩, ⟨1, 0, .ro, 0⟩]⟩,
  ⟨0x0FF0_0060_1000, 32, 16, 8, 1, [⟨47, 12, .rw, 0⟩]⟩,
  ⟨0x0FF0_0060_1008, 32, 16, 8, 1, [⟨31, 0, .rw, 0⟩]⟩,
  ⟨0x0FF0_0060_1010, 32, 16, 8, 1, [⟨63, 32, .rc, 0⟩, ⟨31, 0, .rc, 0⟩]⟩,
  ⟨0x0FF0_0060_1018, 32, 16, 8, 1, [⟨63, 0, .rc, 0⟩]⟩]

/-- The BLK_ registers. -/
def regsBlk : List RegDesc := [
  ⟨0x0FF0_0090_0000, 8, 1, 8, 1, [⟨0, 0, .rw, 1⟩]⟩,
  ⟨0x0FF0_0090_0008, 8, 1, 8, 1, [⟨31, 16, .ro, 0⟩, ⟨15, 0, .ro, 0⟩]⟩,
  ⟨0x0FF0_0090_1000, 16, 16, 8, 1, [⟨63, 32, .rc, 0⟩, ⟨31, 0, .rc, 0⟩]⟩,
  ⟨0x0FF0_0090_1008, 16, 16, 8, 1, [⟨63, 48, .rc, 0⟩, ⟨47, 32, .rc, 0⟩, ⟨31, 16, .rc, 0⟩, ⟨15, 0, .rc, 0⟩]⟩]

/-- The LTH_ registers. -/
def regsLth : List RegDesc := [
  ⟨0x0FF0_0040_0000, 8, 1, 8, 1, [⟨1, 1, .rw, 1⟩, ⟨0, 0, .rw, 1⟩]⟩,
  ⟨0x0FF0_0040_0008, 8, 1, 8, 1, [⟨47, 40, .ro, 0⟩, ⟨39, 32, .ro, 0⟩, ⟨31, 24, .ro, 0⟩, ⟨23, 16, .ro, 0⟩]⟩,
  ⟨0x0FF0_0040_0010, 8, 1, 8, 1, [⟨6, 6, .w1c, 0⟩, ⟨5, 5, .w1c, 0⟩, ⟨4, 4, .w1c, 0⟩, ⟨3, 3, .w1c, 0⟩, ⟨2, 2, .w1c, 0⟩, ⟨1, 1, .w1c, 0⟩, ⟨0, 0, .w1c, 0⟩]⟩,
  ⟨0x0FF0_0040_0018, 8, 1, 8, 1, [⟨31, 0, .rw, 0x186a0⟩]⟩,
  ⟨0x0FF0_0040_0020, 8, 1, 8, 1, [⟨15, 0, .rw, 50⟩]⟩,
  ⟨0x0FF0_0040_0028, 8, 1, 8, 1, [⟨63, 63, .rc, 0⟩, ⟨62, 59, .rc, 0⟩, ⟨58, 53, .rc, 0⟩, ⟨52, 49, .rc, 0⟩, ⟨48, 47, .rc, 0⟩, ⟨46, 41, .rc, 0⟩, ⟨27, 0, .rc, 0⟩]⟩,
  ⟨0x0FF0_0040_0100, 8, 56, 8, 1, [⟨40, 40, .ro, 0⟩, ⟨39, 32, .ro, 255⟩, ⟨23, 20, .rw, 0⟩, ⟨19, 19, .rw, 0⟩, ⟨18, 16, .ro, 0⟩, ⟨1, 1, .ro, 0⟩, ⟨0, 0, .ro, 0⟩]⟩,
  ⟨0x0FF0_0040_1000, 16, 16, 8, 1, [⟨63, 32, .rc, 0⟩, ⟨31, 0, .rc, 0⟩]⟩,
  ⟨0x0FF0_0040_1008, 16, 16, 8, 1, [⟨63, 0, .rc, 0⟩]⟩]

/-- The HDS_ registers. -/
def regsHds : List RegDesc := [
  ⟨0x0FF0_0030_0000, 8, 1, 8, 1, [⟨1, 1, .rw, 1⟩, ⟨0, 0, .rw, 1⟩]⟩,
  ⟨0x0FF0_0030_0008, 8, 1, 8, 1, [⟨47, 32, .ro, 0⟩, ⟨31, 16, .ro, 0⟩, ⟨15, 0, .ro, 0x8000⟩]⟩,
  ⟨0x0FF0_0030_0010, 8, 1, 8, 1, [⟨2, 2, .w1c, 0⟩, ⟨1, 1, .w1c, 0⟩, ⟨0, 0, .w1c, 0⟩]⟩,
  ⟨0x0FF0_0030_1000, 64, 16, 8, 1, [⟨55, 40, .rw, 0x800⟩, ⟨39, 23, .rw, 0x4000⟩, ⟨22, 9, .rw, 0x2000⟩, ⟨8, 0, .rw, 256⟩]⟩,
  ⟨0x0FF0_0030_1008, 64, 16, 8, 1, [⟨63, 48, .rw, 0⟩, ⟨47, 12, .rw, 0⟩, ⟨11, 0, .rw, 0⟩]⟩,
  ⟨0x0FF0_0030_1010, 64, 16, 8, 1, [⟨63, 32, .rc, 0⟩, ⟨31, 0, .rc, 0⟩]⟩,
  ⟨0x0FF0_0030_1018, 64, 16, 8, 1, [⟨63, 32, .rc, 0⟩, ⟨31, 0, .rc, 0⟩]⟩,
  ⟨0x0FF0_0030_1020, 64, 16, 8, 1, [⟨63, 32, .rc, 0⟩, ⟨31, 0, .rc, 0⟩]⟩,
  ⟨0x0FF0_0030_1028, 64, 16, 8, 1, [⟨63, 48, .rc, 0⟩, ⟨47, 32, .rc, 0⟩, ⟨31, 0, .rc, 0⟩]⟩,
  ⟨0x0FF0_0030_0018, 8, 1, 8, 1, [⟨14, 0, .ro, 0⟩]⟩,
  ⟨0x0FF0_0030_1030, 64, 16, 8, 1, [⟨55, 48, .rw, 32⟩, ⟨43, 40, .rw, 1⟩, ⟨39, 24, .rw, 64⟩, ⟨21, 16, .rw, 0⟩, ⟨15, 0, .rw, 0x3e8⟩]⟩,
  ⟨0x0FF0_0030_1038, 64, 16, 8, 1, [⟨63, 56, .rc, 0⟩, ⟨55, 48, .rc, 0⟩, ⟨47, 32, .rc, 0⟩, ⟨31, 0, .rc, 0⟩]⟩,
  ⟨0x0FF0_0030_2000, 16, 16, 8, 1, [⟨63, 48, .rw, 0⟩, ⟨47, 12, .rw, 0⟩, ⟨11, 0, .rw, 0⟩]⟩,
  ⟨0x0FF0_0030_3000, 8, 256, 8, 1, [⟨63, 48, .rw, 0⟩, ⟨47, 32, .rw, 0⟩, ⟨31, 20, .rw, 0⟩, ⟨19, 12, .rw, 0⟩, ⟨11, 7, .rw, 0⟩, ⟨3, 0, .rw, 0⟩]⟩]

/-- The TOK_ registers. -/
def regsTok : List RegDesc := [
  ⟨0x0FF0_0070_0000, 8, 1, 8, 1, [⟨1, 1, .rw, 1⟩, ⟨0, 0, .rw, 1⟩]⟩,
  ⟨0x0FF0_0070_0008, 8, 1, 8, 1, [⟨39, 32, .ro, 0⟩, ⟨31, 16, .ro, 0⟩, ⟨6, 0, .ro, 0⟩]⟩,
  ⟨0x0FF0_0070_0010, 8, 1, 8, 1, [⟨3, 3, .w1c, 0⟩, ⟨2, 2, .w1c, 0⟩, ⟨1, 1, .w1c, 0⟩, ⟨0, 0, .w1c, 0⟩]⟩,
  ⟨0x0FF0_0070_0018, 8, 1, 8, 1, [⟨63, 32, .rc, 0⟩, ⟨31, 0, .rc, 0⟩]⟩,
  ⟨0x0FF0_0070_0100, 8, 64, 8, 1, [⟨63, 43, .ro, 0⟩, ⟨23, 20, .ro, 0⟩, ⟨19, 19, .ro, 0⟩, ⟨4, 0, .ro, 0⟩]⟩,
  ⟨0x0FF0_0070_1000, 16, 16, 8, 1, [⟨63, 48, .rw, 0⟩, ⟨47, 12, .rw, 0⟩, ⟨11, 0, .rw, 0⟩]⟩,
  ⟨0x0FF0_0070_1008, 16, 16, 8, 1, [⟨63, 32, .rc, 0⟩, ⟨31, 16, .rc, 0⟩, ⟨15, 0, .rc, 0⟩]⟩]

/-- The JIG_ registers. -/
def regsJig : List RegDesc := [
  ⟨0x0FF0_0080_0000, 8, 1, 8, 1, [⟨0, 0, .rw, 1⟩]⟩,
  ⟨0x0FF0_0080_0008, 8, 1, 8, 1, [⟨40, 32, .ro, 0⟩, ⟨8, 0, .ro, 0⟩]⟩,
  ⟨0x0FF0_0080_0010, 8, 1, 8, 1, [⟨2, 2, .w1c, 0⟩, ⟨1, 1, .w1c, 0⟩, ⟨0, 0, .w1c, 0⟩]⟩,
  ⟨0x0FF0_0080_0100, 8, 256, 8, 1, [⟨63, 48, .ro, 0⟩, ⟨47, 42, .ro, 0⟩, ⟨23, 20, .ro, 0⟩, ⟨19, 19, .ro, 0⟩, ⟨15, 0, .ro, 0⟩]⟩,
  ⟨0x0FF0_0080_1000, 16, 16, 8, 1, [⟨63, 48, .rw, 0⟩, ⟨47, 12, .rw, 0⟩, ⟨11, 0, .rw, 0⟩]⟩,
  ⟨0x0FF0_0080_1008, 16, 16, 8, 1, [⟨63, 32, .rc, 0⟩, ⟨31, 0, .rc, 0⟩]⟩]

/-- The EMB_ registers. -/
def regsEmb : List RegDesc := [
  ⟨0x0FF0_00B0_0000, 8, 1, 8, 1, [⟨1, 1, .rw, 1⟩, ⟨0, 0, .rw, 1⟩]⟩,
  ⟨0x0FF0_00B0_0008, 8, 1, 8, 1, [⟨44, 32, .ro, 0⟩, ⟨28, 16, .ro, 0⟩, ⟨12, 0, .ro, 0⟩]⟩,
  ⟨0x0FF0_00B0_0010, 8, 1, 8, 1, [⟨3, 3, .w1c, 0⟩, ⟨2, 2, .w1c, 0⟩, ⟨1, 1, .w1c, 0⟩, ⟨0, 0, .w1c, 0⟩]⟩,
  ⟨0x0FF0_00B0_1000, 8, 4096, 8, 1, [⟨63, 48, .ro, 0⟩, ⟨47, 24, .ro, 0⟩, ⟨23, 20, .ro, 0⟩, ⟨19, 19, .ro, 0⟩, ⟨18, 18, .ro, 0⟩, ⟨17, 16, .ro, 0⟩]⟩,
  ⟨0x0FF0_00B0_A000, 32, 16, 8, 1, [⟨63, 32, .rc, 0⟩, ⟨31, 0, .rc, 0⟩]⟩,
  ⟨0x0FF0_00B0_A008, 32, 16, 8, 1, [⟨63, 32, .rc, 0⟩, ⟨31, 0, .rc, 0⟩]⟩,
  ⟨0x0FF0_00B0_A010, 32, 16, 8, 1, [⟨63, 32, .rc, 0⟩, ⟨31, 0, .rc, 0⟩]⟩]

/-- The PRT_ registers. -/
def regsPrt : List RegDesc := [
  ⟨0x0FF0_00C0_0000, 8, 1, 8, 1, [⟨31, 16, .ro, 0⟩, ⟨15, 0, .ro, 0⟩]⟩,
  ⟨0x0FF0_00C0_0008, 8, 1, 8, 1, [⟨4, 4, .w1c, 0⟩, ⟨3, 3, .w1c, 0⟩, ⟨2, 2, .w1c, 0⟩, ⟨1, 1, .w1c, 0⟩, ⟨0, 0, .w1c, 0⟩]⟩,
  ⟨0x0FF0_00C0_1000, 512, 16, 8, 1, [⟨23, 16, .ro, 0⟩, ⟨5, 4, .ro, 0⟩, ⟨3, 3, .rw, 0⟩, ⟨2, 2, .wo, 0⟩, ⟨1, 0, .wo, 0⟩]⟩,
  ⟨0x0FF0_00C0_1008, 512, 16, 8, 1, [⟨47, 32, .rw, 0⟩, ⟨7, 0, .ro, 0⟩]⟩,
  ⟨0x0FF0_00C0_1010, 512, 16, 8, 4, [⟨63, 0, .rw, 0⟩]⟩,
  ⟨0x0FF0_00C0_1030, 512, 16, 8, 1, [⟨63, 0, .rw, 0⟩]⟩,
  ⟨0x0FF0_00C0_1038, 512, 16, 8, 1, [⟨47, 0, .rw, 0⟩]⟩,
  ⟨0x0FF0_00C0_1040, 512, 16, 8, 1, [⟨63, 0, .rw, 0⟩]⟩,
  ⟨0x0FF0_00C0_1048, 512, 16, 8, 4, [⟨63, 56, .rw, 0⟩, ⟨43, 32, .rw, 0⟩, ⟨11, 0, .rw, 0⟩]⟩,
  ⟨0x0FF0_00C0_1068, 512, 16, 8, 1, [⟨47, 32, .rw, 0x400⟩, ⟨27, 16, .rw, 0⟩, ⟨12, 0, .rw, 0⟩]⟩,
  ⟨0x0FF0_00C0_1070, 512, 16, 8, 1, [⟨63, 48, .rw, 0⟩, ⟨47, 12, .rw, 0⟩, ⟨11, 0, .rw, 0⟩]⟩,
  ⟨0x0FF0_00C0_1078, 512, 16, 8, 1, [⟨31, 16, .rw, 0x3e8⟩, ⟨6, 0, .rw, 100⟩]⟩,
  ⟨0x0FF0_00C0_1080, 512, 16, 8, 1, [⟨63, 32, .rc, 0⟩, ⟨31, 0, .rc, 0⟩]⟩,
  ⟨0x0FF0_00C0_1088, 512, 16, 8, 1, [⟨63, 48, .rc, 0⟩, ⟨31, 0, .rc, 0⟩]⟩,
  ⟨0x0FF0_00C0_1090, 512, 16, 8, 8, [⟨63, 32, .ro, 0⟩, ⟨31, 16, .ro, 0⟩, ⟨15, 12, .ro, 0⟩, ⟨0, 0, .ro, 0⟩]⟩,
  ⟨0x0FF0_00C0_1100, 512, 16, 16, 16, [⟨63, 0, .rw, 0⟩]⟩,
  ⟨0x0FF0_00C0_1108, 512, 16, 16, 16, [⟨51, 51, .wo, 0⟩, ⟨50, 48, .ro, 0⟩, ⟨47, 0, .rw, 0⟩]⟩]

/-- The WDN_ registers. -/
def regsWdn : List RegDesc := [
  ⟨0x0FF0_0140_0000, 8, 1, 8, 1, [⟨1, 1, .rw, 1⟩, ⟨0, 0, .rw, 1⟩]⟩,
  ⟨0x0FF0_0140_0008, 8, 1, 8, 1, [⟨39, 32, .ro, 0⟩, ⟨31, 24, .ro, 0⟩, ⟨18, 16, .ro, 0⟩, ⟨0, 0, .ro, 0⟩]⟩,
  ⟨0x0FF0_0140_0010, 8, 1, 8, 1, [⟨63, 0, .ro, 0⟩]⟩,
  ⟨0x0FF0_0140_0018, 8, 1, 8, 1, [⟨63, 0, .ro, 0⟩]⟩,
  ⟨0x0FF0_0140_0020, 8, 1, 8, 1, [⟨5, 5, .w1c, 0⟩, ⟨4, 4, .w1c, 0⟩, ⟨3, 3, .w1c, 0⟩, ⟨2, 2, .w1c, 0⟩, ⟨1, 1, .w1c, 0⟩, ⟨0, 0, .w1c, 0⟩]⟩,
  ⟨0x0FF0_0140_0028, 8, 1, 8, 1, [⟨15, 0, .rw, 0⟩]⟩,
  ⟨0x0FF0_0140_0030, 8, 1, 8, 1, [⟨63, 63, .wo, 0⟩, ⟨62, 62, .ro, 0⟩, ⟨61, 56, .ro, 0⟩, ⟨47, 0, .rw, 0⟩]⟩,
  ⟨0x0FF0_0140_0038, 8, 1, 8, 1, [⟨24, 0, .rw, 0⟩]⟩,
  ⟨0x0FF0_0140_0040, 8, 1, 8, 1, [⟨47, 0, .ro, 0⟩]⟩,
  ⟨0x0FF0_0140_0048, 8, 1, 8, 1, [⟨63, 0, .ro, 0⟩]⟩,
  ⟨0x0FF0_0140_0100, 8, 4, 8, 1, [⟨63, 0, .rw, 0⟩]⟩,
  ⟨0x0FF0_0140_0120, 8, 1, 8, 1, [⟨63, 0, .rc, 0⟩]⟩,
  ⟨0x0FF0_0140_0200, 8, 20, 8, 1, [⟨39, 32, .ro, 255⟩, ⟨25, 24, .ro, 0⟩, ⟨18, 16, .ro, 0⟩, ⟨11, 8, .ro, 0⟩, ⟨1, 0, .ro, 0⟩]⟩,
  ⟨0x0FF0_0140_0300, 8, 20, 8, 1, [⟨63, 63, .wo, 0⟩, ⟨25, 0, .ro, 0xc350⟩]⟩,
  ⟨0x0FF0_0140_0400, 8, 1, 8, 1, [⟨63, 32, .rc, 0⟩, ⟨31, 0, .rc, 0⟩]⟩,
  ⟨0x0FF0_0140_0500, 8, 4, 8, 1, [⟨39, 16, .ro, 0⟩, ⟨15, 0, .ro, 0⟩]⟩]

/-- The ICU_ registers. -/
def regsIcu : List RegDesc := [
  ⟨0x0FF0_0130_0000, 8, 1, 8, 1, [⟨0, 0, .rw, 1⟩]⟩,
  ⟨0x0FF0_0130_0010, 8, 1, 8, 1, [⟨1, 1, .w1c, 0⟩, ⟨0, 0, .w1c, 0⟩]⟩,
  ⟨0x0FF0_0130_0100, 8, 16, 8, 1, [⟨63, 0, .w1s, 0⟩]⟩,
  ⟨0x0FF0_0130_0180, 8, 16, 8, 1, [⟨63, 0, .w1c, 0⟩]⟩,
  ⟨0x0FF0_0130_0400, 16, 16, 8, 1, [⟨10, 10, .ro, 0⟩, ⟨9, 0, .ro, 0x3ff⟩]⟩,
  ⟨0x0FF0_0130_0408, 16, 16, 8, 1, [⟨9, 0, .wo, 0⟩]⟩,
  ⟨0x0FF0_0130_0800, 8, 64, 8, 1, [⟨56, 41, .ro, 0⟩, ⟨40, 40, .ro, 0⟩, ⟨39, 20, .rw, 0⟩, ⟨15, 0, .rw, 1⟩]⟩,
  ⟨0x0FF0_0130_2000, 8, 1024, 8, 1, [⟨23, 20, .rw, 0⟩, ⟨19, 14, .rw, 0⟩, ⟨9, 9, .ro, 0⟩, ⟨8, 8, .ro, 0⟩, ⟨1, 1, .rw, 0⟩, ⟨0, 0, .rw, 0⟩]⟩]

/-- The NET_ registers. -/
def regsNet : List RegDesc := [
  ⟨0x0FF0_00D0_0000, 8, 1, 8, 1, [⟨39, 32, .rw, 75⟩, ⟨25, 20, .rw, 48⟩, ⟨18, 16, .rw, 7⟩, ⟨1, 1, .rw, 1⟩, ⟨0, 0, .rw, 1⟩]⟩,
  ⟨0x0FF0_00D0_0008, 8, 1, 8, 1, [⟨13, 13, .w1c, 0⟩, ⟨12, 9, .w1c, 0⟩, ⟨8, 0, .w1c, 0⟩]⟩,
  ⟨0x0FF0_00D0_0010, 8, 1, 8, 1, [⟨63, 48, .rw, 50⟩, ⟨47, 32, .rw, 55⟩, ⟨31, 16, .rw, 0x1388⟩, ⟨15, 4, .rw, 100⟩, ⟨3, 0, .rw, 8⟩]⟩,
  ⟨0x0FF0_00D0_0018, 8, 1, 8, 1, [⟨63, 63, .wo, 0⟩, ⟨62, 62, .ro, 0⟩, ⟨61, 56, .ro, 0⟩, ⟨2, 0, .rw, 0⟩]⟩,
  ⟨0x0FF0_00D0_0100, 8, 8, 8, 1, [⟨63, 0, .rw, 0⟩]⟩,
  ⟨0x0FF0_00D0_0180, 8, 16, 8, 1, [⟨63, 48, .rw, 0⟩, ⟨47, 12, .rw, 0⟩, ⟨11, 0, .rw, 0⟩]⟩,
  ⟨0x0FF0_00D0_0200, 8, 5, 8, 1, [⟨21, 20, .ro, 0⟩, ⟨18, 16, .ro, 0⟩, ⟨15, 8, .ro, 0⟩, ⟨1, 1, .rw, 0⟩, ⟨0, 0, .rw, 1⟩]⟩,
  ⟨0x0FF0_00D0_0400, 32, 9, 8, 3, [⟨63, 0, .rw, 0⟩]⟩,
  ⟨0x0FF0_00D0_0800, 16, 9, 8, 1, [⟨63, 32, .rc, 0⟩, ⟨31, 0, .rc, 0⟩]⟩,
  ⟨0x0FF0_00D0_0808, 16, 9, 8, 1, [⟨63, 32, .rc, 0⟩, ⟨31, 0, .rc, 0⟩]⟩]

/-- The PTP_ registers. -/
def regsPtp : List RegDesc := [
  ⟨0x0FF0_00E0_0000, 8, 1, 8, 1, [⟨31, 24, .rw, 3⟩, ⟨23, 16, .rw, 0⟩, ⟨11, 3, .rw, 256⟩, ⟨2, 2, .rw, 0⟩, ⟨0, 0, .rw, 1⟩]⟩,
  ⟨0x0FF0_00E0_0008, 8, 1, 8, 1, [⟨63, 48, .rw, 0x4000⟩, ⟨47, 32, .rw, 0x400⟩, ⟨31, 20, .rw, 0x3e8⟩, ⟨19, 10, .rw, 100⟩, ⟨9, 0, .rw, 0x3e8⟩]⟩,
  ⟨0x0FF0_00E0_0010, 8, 1, 8, 1, [⟨41, 40, .ro, 0⟩, ⟨35, 32, .ro, 15⟩, ⟨31, 0, .ro, 0⟩]⟩,
  ⟨0x0FF0_00E0_0018, 8, 1, 8, 1, [⟨63, 0, .ro, 0⟩]⟩,
  ⟨0x0FF0_00E0_0020, 8, 1, 8, 1, [⟨63, 0, .ro, 0⟩]⟩,
  ⟨0x0FF0_00E0_0028, 8, 1, 8, 1, [⟨4, 4, .w1c, 0⟩, ⟨3, 3, .w1c, 0⟩, ⟨2, 2, .w1c, 0⟩, ⟨1, 1, .w1c, 0⟩, ⟨0, 0, .w1c, 0⟩]⟩]

/-- The GATE_ registers. -/
def regsGate : List RegDesc := [
  ⟨0x0FF0_00F0_0000, 32, 8, 8, 1, [⟨41, 33, .ro, 0⟩, ⟨31, 23, .rw, 0⟩, ⟨2, 2, .ro, 0⟩, ⟨1, 1, .wo, 0⟩, ⟨0, 0, .rw, 0⟩]⟩,
  ⟨0x0FF0_00F0_0008, 32, 8, 8, 1, [⟨63, 0, .rw, 0⟩]⟩,
  ⟨0x0FF0_00F0_0010, 32, 8, 8, 1, [⟨63, 32, .ro, 0⟩, ⟨31, 0, .rw, 0⟩]⟩,
  ⟨0x0FF0_00F0_0200, 8, 1, 8, 1, [⟨15, 8, .w1c, 0⟩, ⟨7, 0, .w1c, 0⟩]⟩,
  ⟨0x0FF0_00F0_1000, 4096, 8, 8, 256, [⟨63, 56, .rw, 0⟩, ⟨31, 0, .rw, 0⟩]⟩,
  ⟨0x0FF0_00F0_1800, 4096, 8, 8, 256, [⟨63, 56, .ro, 0⟩, ⟨31, 0, .ro, 0⟩]⟩]

/-- The POL_ registers. -/
def regsPol : List RegDesc := [
  ⟨0x0FF0_0100_0000, 8, 1, 8, 1, [⟨0, 0, .w1c, 0⟩]⟩,
  ⟨0x0FF0_0100_1000, 64, 4096, 8, 1, [⟨29, 24, .rw, 0⟩, ⟨23, 18, .rw, 0⟩, ⟨17, 12, .rw, 0⟩, ⟨9, 8, .rw, 0⟩, ⟨7, 6, .rw, 0⟩, ⟨5, 4, .rw, 0⟩, ⟨1, 1, .rw, 0⟩, ⟨0, 0, .rw, 0⟩]⟩,
  ⟨0x0FF0_0100_1008, 64, 4096, 8, 1, [⟨63, 32, .rw, 0⟩, ⟨31, 0, .rw, 0⟩]⟩,
  ⟨0x0FF0_0100_1010, 64, 4096, 8, 1, [⟨63, 32, .rw, 0x2400⟩, ⟨31, 0, .rw, 0x2400⟩]⟩,
  ⟨0x0FF0_0100_1018, 64, 4096, 8, 3, [⟨63, 0, .rc, 0⟩]⟩]

/-- The QTL_ registers. -/
def regsQtl : List RegDesc := [
  ⟨0x0FF0_0110_0000, 8, 1, 8, 1, [⟨0, 0, .rw, 1⟩]⟩,
  ⟨0x0FF0_0110_0008, 8, 1, 8, 1, [⟨0, 0, .w1c, 0⟩]⟩,
  ⟨0x0FF0_0110_0800, 8, 72, 8, 1, [⟨63, 32, .rc, 0⟩, ⟨31, 0, .rc, 0⟩]⟩,
  ⟨0x0FF0_0110_1000, 512, 72, 8, 64, [⟨63, 0, .rc, 0⟩]⟩]

/-- The PWR_ registers. -/
def regsPwr : List RegDesc := [
  ⟨0x0FF0_0150_0000, 8, 1, 8, 1, [⟨2, 2, .wo, 0⟩, ⟨1, 1, .rw, 1⟩, ⟨0, 0, .rw, 1⟩]⟩,
  ⟨0x0FF0_0150_0008, 8, 1, 8, 1, [⟨44, 40, .ro, 16⟩, ⟨36, 32, .ro, 16⟩, ⟨2, 0, .ro, 0⟩]⟩,
  ⟨0x0FF0_0150_0010, 8, 1, 8, 1, [⟨63, 0, .ro, 0⟩]⟩,
  ⟨0x0FF0_0150_0018, 8, 1, 8, 1, [⟨6, 6, .w1c, 0⟩, ⟨5, 5, .w1c, 0⟩, ⟨4, 4, .w1c, 0⟩, ⟨3, 3, .w1c, 0⟩, ⟨2, 2, .w1c, 0⟩, ⟨1, 1, .w1c, 0⟩, ⟨0, 0, .w1c, 0⟩]⟩,
  ⟨0x0FF0_0150_0020, 8, 1, 8, 1, [⟨63, 48, .ro, 0⟩, ⟨47, 32, .ro, 0⟩, ⟨31, 16, .ro, 0⟩]⟩,
  ⟨0x0FF0_0150_0028, 8, 1, 8, 1, [⟨63, 48, .ro, 0x708⟩, ⟨47, 32, .ro, 0⟩, ⟨15, 0, .rw, 0x708⟩]⟩,
  ⟨0x0FF0_0150_0030, 8, 1, 8, 1, [⟨47, 32, .ro, 0x7d0⟩, ⟨31, 24, .ro, 4⟩, ⟨15, 0, .ro, 150⟩]⟩,
  ⟨0x0FF0_0150_0038, 8, 1, 8, 1, [⟨63, 32, .rc, 0⟩, ⟨31, 0, .rc, 0⟩]⟩,
  ⟨0x0FF0_0150_0100, 8, 12, 8, 1, [⟨63, 48, .ro, 0⟩, ⟨47, 32, .ro, 0⟩, ⟨31, 16, .ro, 0⟩, ⟨15, 12, .rw, 0⟩, ⟨2, 0, .ro, 0⟩]⟩,
  ⟨0x0FF0_0150_0200, 8, 34, 8, 1, [⟨47, 32, .ro, 0⟩, ⟨31, 24, .ro, 0⟩, ⟨19, 16, .ro, 15⟩, ⟨2, 0, .ro, 0⟩]⟩,
  ⟨0x0FF0_0150_0400, 8, 16, 8, 1, [⟨47, 40, .ro, 0⟩, ⟨39, 32, .ro, 0⟩, ⟨15, 0, .ro, 0⟩]⟩]

/-- The CXL_ registers. -/
def regsCxl : List RegDesc := [
  ⟨0x0FF0_0120_0000, 8, 1, 8, 1, [⟨3, 0, .rw, 15⟩]⟩,
  ⟨0x0FF0_0120_0008, 8, 1, 8, 1, [⟨11, 8, .w1c, 0⟩, ⟨7, 4, .w1c, 0⟩, ⟨3, 0, .w1c, 0⟩]⟩,
  ⟨0x0FF0_0120_0100, 32, 4, 8, 1, [⟨51, 40, .ro, 0⟩, ⟨34, 32, .ro, 0⟩, ⟨28, 24, .ro, 0⟩, ⟨15, 0, .ro, 0⟩]⟩,
  ⟨0x0FF0_0120_0108, 32, 4, 8, 1, [⟨0, 0, .wo, 0⟩]⟩,
  ⟨0x0FF0_0120_0110, 32, 4, 8, 1, [⟨63, 48, .rc, 0⟩, ⟨47, 32, .rc, 0⟩, ⟨31, 0, .rc, 0⟩]⟩]

/-- The CAL_ registers. -/
def regsCal : List RegDesc := [
  ⟨0x0FF0_0160_0000, 8, 1, 8, 1, [⟨1, 1, .rw, 1⟩, ⟨0, 0, .rw, 1⟩]⟩,
  ⟨0x0FF0_0160_0008, 8, 1, 8, 1, [⟨63, 48, .rw, 800⟩, ⟨47, 32, .rw, 500⟩, ⟨31, 16, .rw, 100⟩, ⟨15, 0, .rw, 24⟩]⟩,
  ⟨0x0FF0_0160_0010, 8, 1, 8, 1, [⟨63, 32, .ro, 0⟩, ⟨31, 16, .ro, 0⟩, ⟨9, 0, .ro, 0⟩]⟩,
  ⟨0x0FF0_0160_0018, 8, 1, 8, 1, [⟨5, 5, .w1c, 0⟩, ⟨4, 4, .w1c, 0⟩, ⟨3, 3, .w1c, 0⟩, ⟨2, 2, .w1c, 0⟩, ⟨1, 1, .w1c, 0⟩, ⟨0, 0, .w1c, 0⟩]⟩,
  ⟨0x0FF0_0160_0100, 8, 5, 8, 1, [⟨63, 40, .ro, 0xffffff⟩, ⟨39, 24, .ro, 0⟩, ⟨20, 20, .ro, 0⟩, ⟨19, 16, .ro, 0⟩, ⟨15, 8, .ro, 0⟩, ⟨2, 0, .ro, 0⟩]⟩,
  ⟨0x0FF0_0160_1000, 8, 512, 8, 1, [⟨63, 48, .ro, 0⟩, ⟨47, 32, .ro, 0⟩, ⟨31, 16, .ro, 0⟩, ⟨15, 13, .ro, 0⟩, ⟨0, 0, .ro, 0⟩]⟩]

/-- The BOOT_ registers. -/
def regsBoot : List RegDesc := [
  ⟨0x0FF0_0000_0000, 8, 1, 8, 1, [⟨63, 0, .ro, 0⟩]⟩,
  ⟨0x0FF0_0000_0008, 8, 1, 8, 1, [⟨63, 0, .ro, 0⟩]⟩,
  ⟨0x0FF0_0000_0010, 8, 1, 8, 1, [⟨63, 32, .ro, 0⟩, ⟨31, 16, .ro, 0⟩, ⟨15, 8, .ro, 0⟩, ⟨5, 5, .ro, 0⟩, ⟨4, 4, .ro, 0⟩, ⟨3, 0, .ro, 0⟩]⟩,
  ⟨0x0FF0_0000_0018, 8, 1, 8, 1, [⟨6, 6, .w1c, 0⟩, ⟨5, 5, .w1c, 0⟩, ⟨4, 4, .w1c, 0⟩, ⟨3, 3, .w1c, 0⟩, ⟨2, 2, .w1c, 0⟩, ⟨1, 1, .w1c, 0⟩, ⟨0, 0, .w1c, 0⟩]⟩,
  ⟨0x0FF0_0000_0020, 8, 1, 8, 1, [⟨39, 32, .ro, 2⟩, ⟨31, 24, .ro, 4⟩, ⟨23, 16, .ro, 8⟩, ⟨15, 8, .ro, 8⟩, ⟨7, 0, .ro, 48⟩]⟩,
  ⟨0x0FF0_0000_0028, 8, 1, 8, 1, [⟨55, 48, .ro, 9⟩, ⟨47, 40, .ro, 1⟩, ⟨31, 0, .ro, 0x22222222⟩]⟩,
  ⟨0x0FF0_0000_0030, 8, 1, 8, 1, [⟨17, 17, .rw, 1⟩, ⟨16, 16, .rw, 0⟩, ⟨15, 0, .rw, 168⟩]⟩,
  ⟨0x0FF0_0000_0038, 8, 1, 8, 1, [⟨63, 63, .rc, 0⟩, ⟨62, 60, .rc, 0⟩, ⟨59, 52, .rc, 0⟩, ⟨51, 28, .rc, 0⟩, ⟨27, 4, .rc, 0⟩, ⟨3, 0, .rc, 0⟩]⟩,
  ⟨0x0FF0_0000_0040, 8, 1, 8, 1, [⟨63, 32, .rc, 0⟩, ⟨31, 0, .rc, 0⟩]⟩,
  ⟨0x0FF0_0000_0048, 8, 1, 8, 1, [⟨63, 0, .rc, 0⟩]⟩,
  ⟨0x0FF0_0000_0100, 8, 64, 8, 1, [⟨63, 0, .rw, 0⟩]⟩]

/-- The SEC_ registers. -/
def regsSec : List RegDesc := [
  ⟨0x0FF0_0010_0000, 8, 1, 8, 1, [⟨31, 16, .ro, 0⟩, ⟨15, 12, .ro, 0⟩, ⟨11, 10, .ro, 0⟩, ⟨9, 9, .ro, 0⟩, ⟨8, 8, .ro, 0⟩, ⟨7, 6, .ro, 0⟩, ⟨3, 3, .ro, 0⟩, ⟨2, 2, .ro, 0⟩, ⟨1, 1, .ro, 0⟩, ⟨0, 0, .ro, 0⟩]⟩,
  ⟨0x0FF0_0010_0008, 8, 1, 8, 1, [⟨63, 0, .ro, 0⟩]⟩,
  ⟨0x0FF0_0010_0010, 8, 1, 8, 1, [⟨63, 0, .ro, 0⟩]⟩,
  ⟨0x0FF0_0010_0018, 8, 1, 8, 1, [⟨6, 6, .w1c, 0⟩, ⟨5, 5, .w1c, 0⟩, ⟨4, 4, .w1c, 0⟩, ⟨3, 3, .w1c, 0⟩, ⟨2, 2, .w1c, 0⟩, ⟨1, 1, .w1c, 0⟩, ⟨0, 0, .w1c, 0⟩]⟩,
  ⟨0x0FF0_0010_0020, 8, 1, 8, 1, [⟨63, 32, .ro, 0⟩, ⟨31, 0, .ro, 0⟩]⟩,
  ⟨0x0FF0_0010_0028, 8, 1, 8, 1, [⟨63, 32, .rc, 0⟩, ⟨31, 0, .rc, 0⟩]⟩,
  ⟨0x0FF0_0010_0100, 32, 4, 8, 4, [⟨63, 0, .ro, 0⟩]⟩,
  ⟨0x0FF0_0010_0200, 32, 8, 8, 4, [⟨63, 0, .ro, 0⟩]⟩,
  ⟨0x0FF0_0010_0300, 8, 16, 8, 1, [⟨31, 1, .ro, 0⟩, ⟨0, 0, .ro, 0⟩]⟩]

/-- The registers of the 1 MiB block that CSR address `a` lies in, by Table 1-5 (R32). -/
def regsOfBlock (a : Nat) : List RegDesc :=
  match (a - 0x0FF0_0000_0000) / 0x10_0000 with
  | 0x00 => regsBoot
  | 0x01 => regsSec
  | 0x02 => regsGge
  | 0x03 => regsHds
  | 0x04 => regsLth
  | 0x05 => regsSpn
  | 0x06 => regsSel
  | 0x07 => regsTok
  | 0x08 => regsJig
  | 0x09 => regsBlk
  | 0x0A => regsTier
  | 0x0B => regsEmb
  | 0x0C => regsPrt
  | 0x0D => regsNet
  | 0x0E => regsPtp
  | 0x0F => regsGate
  | 0x10 => regsPol
  | 0x11 => regsQtl
  | 0x12 => regsCxl
  | 0x13 => regsIcu
  | 0x14 => regsWdn
  | 0x15 => regsPwr
  | 0x16 => regsCal
  | _ => []

/-- Address `a` is an instance of heading `d`. -/
def RegDesc.covers (d : RegDesc) (a : Nat) : Bool :=
  d.base ≤ a && (a - d.base) / d.s1 < d.n1 && (a - d.base) % d.s1 % d.s2 == 0 && (a - d.base) % d.s1 / d.s2 < d.n2

/-- The heading of the register at `a`; none where the block holds no register there (R33). -/
def regDesc (a : Nat) : Option RegDesc := (regsOfBlock a).find? (fun d => d.covers a)

/-- The mask of bits [hi:lo]. -/
def fieldMask (hi lo : Nat) : Reg := BitVec.ofNat 64 ((2 ^ (hi + 1 - lo) - 1) * 2 ^ lo)

/-- The bits of a heading that have access code `c`. -/
def RegDesc.mask (d : RegDesc) (c : Access) : Reg :=
  d.fields.foldl (fun m f => if f.acc == c then m ||| fieldMask f.hi f.lo else m) 0

/-- The reset values that a register heading gives by a table or by the instance's number: interrupt sources
(Table 13-12), rails (Table 15-10), thermal limits (Table 15-13) and the regions of the Calipers. -/
def resetByInstance (a : Nat) : Nat :=
  let src := (a - 0x0FF0_0130_2000) / 8
  let rail := (a - 0x0FF0_0150_0100) / 8
  let therm := (a - 0x0FF0_0150_0400) / 8
  let mon := (a - 0x0FF0_0160_1000) / 8
  if 0x0FF0_0130_2000 ≤ a && src < 1023 then
    let target := if src ≤ 10 then 12 else if 16 ≤ src && src ≤ 24 then 13 else if 25 ≤ src && src ≤ 27 then 14
      else if 32 ≤ src && src ≤ 35 then 4 else if 64 ≤ src && src ≤ 79 then src - 64 else 0
    let fast := if src == 23 || src == 24 || src == 34 then 1 else 0
    let hw := if src ≤ 10 || (16 ≤ src && src ≤ 27) || (32 ≤ src && src ≤ 35) || (40 ≤ src && src ≤ 59) then 1 else 0
    target * 2 ^ 20 + (src / 16) * 2 ^ 14 + fast * 2 + hw
  else if 0x0FF0_0150_0100 ≤ a && a < 0x0FF0_0150_0160 then
    ([750, 750, 750, 750, 800, 800, 750, 1200, 750, 1800, 1100, 400].getD rail 0) * 2 ^ 48
  else if 0x0FF0_0150_0400 ≤ a && a < 0x0FF0_0150_0480 then
    let e := if therm < 6 then 100 else if therm < 14 then 95 else if therm == 14 then 125 else 0
    let t := if therm < 6 then 110 else if therm < 14 then 105 else if therm == 14 then 135 else 0
    e * 2 ^ 40 + t * 2 ^ 32
  else if 0x0FF0_0160_1000 ≤ a && a < 0x0FF0_0160_2000 then
    Config.calBaseline mon % 65536 * 2 ^ 48 + (if mon < 384 then mon / 96 else 4) * 2 ^ 13
  else 0

/-- The reset value of the register at `a`. DESIGN CHOICE (log entry 4): where the heading says 'from flash', 'from
manufacture' or 'TDP', the value of a KM9-48 with eight field spares and an erased flash. -/
def resetValue (a : Nat) : Reg :=
  match regDesc a with
  | none => 0
  | some d =>
    if 0x0FF0_0130_2000 ≤ a && a < 0x0FF0_0130_4000 || 0x0FF0_0150_0100 ≤ a && a < 0x0FF0_0150_0160 ||
        0x0FF0_0150_0400 ≤ a && a < 0x0FF0_0150_0480 || 0x0FF0_0160_1000 ≤ a then
      BitVec.ofNat 64 (resetByInstance a)
    else BitVec.ofNat 64 (d.fields.foldl (fun v f => v + f.reset * 2 ^ f.lo) 0)

end Sys2Proof.Machine
end

