-- ==== Sys2Proof/Machine/State.lean ====
section
/-! DEFINITION. The state of the module, as plain data: everything the spec names, the queue of waiting commands,
why a command may stop, and the state right after the release of the internal reset. -/

namespace Sys2Proof.Machine

/-! ### Packets and what leaves the module -/

/-- An extension item (R52): its type and its value. -/
structure Item where
  type : Nat
  val  : List Byte
  deriving DecidableEq, Repr, Inhabited

/-- A source reference or a reply reference (Table 2-2). -/
structure Ref where
  addr : Nat
  key  : Nat
  len  : Nat
  deriving DecidableEq, Repr, Inhabited

/-- The header fields of a request that its replies and events echo (R51), and its queue pair. -/
structure Hdr where
  qp        : Nat := 0
  opcode    : Nat := 0
  partition : Nat := 0
  svc       : Nat := 0
  urgent    : Bool := false
  tag       : Nat := 0
  deadline  : Nat := 0
  deriving DecidableEq, Repr, Inhabited

/-- A Filzal packet that the module sends (Table 2-1); the fields that every such packet shares, magic and version, and its lengths are
laid out by `Pkt.header`. -/
structure Pkt where
  hdr     : Hdr
  flags   : Nat
  status  : Nat
  items   : List Item
  payload : List Byte
  deriving DecidableEq, Repr

/-- What leaves the module on its ports and sidebands, in the order in which it is queued. -/
inductive Out where
  /-- one SEND message carrying one Filzal packet (R40) -/
  | packet (p : Pkt)
  /-- an RDMA WRITE into host or peer memory (R63, R563) -/
  | rdmaWrite (qp addr key : Nat) (data : List Byte)
  /-- an RDMA READ of a source reference (R61) -/
  | rdmaRead (qp addr key len : Nat)
  /-- the answer to an incoming RDMA READ (R540) -/
  | readResponse (qp : Nat) (data : List Byte)
  /-- the acknowledgement of an incoming RDMA WRITE (R540) -/
  | ack (qp : Nat)
  /-- a NAK of the module's responder (R40, R536, R540) -/
  | nak (qp : Nat) (k : NakKind)
  /-- a congestion notification packet (R541) -/
  | cnp (qp : Nat)
  /-- a retransmission by the requester of a queue pair (R537, R539) -/
  | retransmit (qp : Nat)
  /-- an answer to ARP, to a neighbour solicitation or to an echo request (R533) -/
  | netAnswer (list : Nat) (dest data : List Byte)
  /-- an answer to a management datagram, laid out as Table 14-2 (R535) -/
  | mgmtAnswer (dest : List Byte) (port : Nat) (data : List Byte)
  /-- a DHCP or TFTP message of the boot ROM (R498) -/
  | dhcpDiscover (client : List Byte) (options : List Nat)
  | tftpRequest (blksize : Nat)
  /-- a frame that an egress queue puts on the line (R550), with the DSCP and ECN bits of its IP header (R536, R541) -/
  | frame (list cls tos len : Nat)
  deriving DecidableEq, Repr

/-! ### Commands and queue pairs -/

/-- Where a command that intake has taken stands (R55): its references are being fetched (R61); it waits for its
fence (R78); it waits for an earlier command on the same object (R76); it waits in the firmware work queue (R488); it
waits for a unit; it has started. -/
inductive Phase where
  | fetching | fenced | ordered | queued | waiting | started
  deriving DecidableEq, Repr, Inhabited

/-- A stored steering variant (R353). -/
structure Variant where
  num    : Nat
  part   : Nat
  model  : Nat
  layers : Nat
  dModel : Nat
  addr   : Nat
  len    : Nat
  deriving DecidableEq, Repr, Inhabited

/-- The bindings of R41: the versions in force at a command's intake stamp. -/
structure Snap where
  /-- indices of the partition: (index, epoch, first location of the side window, its end) -/
  indices : List (Nat × Nat × Nat × Nat) := []
  /-- current model versions of the partition: (model, version) -/
  models  : List (Nat × Nat) := []
  /-- current versions of the embedding tables: (table, version) -/
  tables  : List (Nat × Nat) := []
  /-- the number of the shard map in force for each index: (index, number) -/
  maps    : List (Nat × Nat) := []
  /-- the steering variants of the partition -/
  variants : List Variant := []
  /-- the indices of the partition whose code profile is invalid (R672) -/
  invalid : List Nat := []
  /-- the readiness bitmap (R636) -/
  ready   : Reg := 0
  deriving DecidableEq, Repr, Inhabited

/-- An outstanding command (R55): its header, its intake stamp and what it waits for. -/
structure Cmd where
  /-- the order of intake; the module's own number of the command -/
  id       : Nat := 0
  hdr      : Hdr := {}
  /-- context of the queue pair at intake (R466) -/
  ctx      : Nat := 0
  intake   : Stamp := 0
  /-- the agreed feature set and mailbox version of the queue pair at intake (R492) -/
  feats    : BitVec 128 := 1
  mbVer    : Nat := 0
  fence    : Bool := false
  replyRef : Option Ref := none
  /-- source references still to fetch, in item order -/
  refs     : List Ref := []
  /-- how many of them, from the head, are being read (R61) -/
  issued   : Nat := 0
  /-- the input of R60 as far as it is present -/
  input    : List Byte := []
  phase    : Phase := .started
  snap     : Snap := {}
  /-- a SEQ_CANCEL that waits, and whose sequence has ended since its intake: the delivered count of that ending (R350) -/
  cancelled : Option Nat := none
  deriving DecidableEq, Repr, Inhabited

/-- A session (R54, R55). -/
structure Session where
  recv    : Nat
  granted : Nat
  evCount : Nat
  evTime  : Nat
  /-- the SESSION_CLOSE in progress (R58) -/
  closing : Option Nat := none
  deriving DecidableEq, Repr, Inhabited

/-- A fragmented command that has not arrived whole (R64 to R66). -/
structure Assembly where
  opcode : Nat
  first  : Req
  total  : Nat
  bytes  : List Byte
  deriving DecidableEq, Repr

/-- The counts that COUNTERS_READ returns, in the order of Table 2-11 (R93). -/
structure QpCounts where
  badMagic  : Nat := 0
  unmatched : Nat := 0
  events    : Nat := 0
  refused   : Nat := 0
  requests  : Nat := 0
  replies   : Nat := 0
  eventsOut : Nat := 0
  fragments : Nat := 0
  deriving DecidableEq, Repr, Inhabited

/-- A queue pair (R538): its descriptor of Table 14-4 as the eight words hold it, its transport state, its session and
its counters. -/
structure Qp where
  index     : Nat := 0
  partition : Nat := 0
  ctx       : Nat := 0
  desc      : List Reg := []
  /-- in the error state (R90) -/
  error     : Bool := false
  session   : Option Session := none
  counts    : QpCounts := {}
  assembly  : Option Assembly := none
  /-- the tag whose fragments are being discarded after a refusal (R66) -/
  discard   : Option Nat := none
  /-- the agreed feature set (R492), the agreed mailbox version and the range offered (R491, R509) -/
  feats     : BitVec 128 := 1
  /-- the set agreed before the latest MB_HELLO, and the stamp at which its reply was queued: the new set applies to commands
  of later intake stamps (R492) -/
  featsOld  : BitVec 128 := 1
  helloAt   : Option Stamp := none
  mbVer     : Nat := 0
  mbLo      : Nat := 0
  mbHi      : Nat := 0
  /-- retries used since the last progress; RNR retries used; the end of a running RNR timer -/
  retries   : Nat := 0
  rnrTries  : Nat := 0
  rnrUntil  : Option Stamp := none
  /-- the sending-rate state of R542: rate and target in Mb/s, alpha, increases since the last decrease, the stamp up to which
  windows have been dealt with, whether the window in progress has held a CNP, and the picosecond before which no packet of
  the queue pair starts -/
  rate      : Rat := 0
  target    : Rat := 0
  alpha     : Rat := 1
  incs      : Nat := 0
  rateEnd   : Stamp := 0
  cnpSeen   : Bool := false
  paceAt    : Nat := 0
  /-- stamp of the last CNP sent (R541) -/
  cnpLast   : Option Stamp := none
  /-- reads in flight of commands that are outstanding no longer, which count toward the read limit (R61): command, reads -/
  orphans   : List (Nat × Nat) := []
  deriving DecidableEq, Repr, Inhabited

/-- A request that the module issued as coordinator or for a re-rank, and that awaits its reply (R45): the queue pair,
the tag, the command it serves, what it asks for, and the payload of the fragments of its reply so far. -/
structure Issued where
  qp      : Nat
  tag     : Nat
  cmd     : Nat
  opcode  : Nat
  entry   : Nat
  bytes   : List Byte := []
  deriving DecidableEq, Repr, Inhabited

/-- The coalescing state of one event stream (R84 to R89). -/
structure Stream where
  hdr    : Hdr := {}
  kind   : Nat := 1
  seqNo  : Nat := 0
  /-- the first packet of the stream has been queued -/
  begun  : Bool := false
  /-- start of the open window with the two thresholds that it keeps -/
  window : Option (Stamp × Nat × Nat) := none
  /-- held items: a token with the text released with it, or a telemetry sample -/
  held   : List (List Byte × List Byte) := []
  /-- items delivered so far -/
  sent   : Nat := 0
  deriving DecidableEq, Repr, Inhabited

/-! ### Firmware -/

/-- A firmware image (Table 13-5) with its bytes. -/
structure FwImage where
  version  : Nat := 0
  owner    : Bool := false
  journalW : Nat := 0
  journalR : Nat := 0
  mbLo     : Nat := 0
  mbHi     : Nat := 0
  feats    : BitVec 128 := 0
  bytes    : List Byte := []
  deriving DecidableEq, Repr, Inhabited

/-- The last record that the journal holds of a command (R511): of a COMMIT the reply's status, items and payload, and the mark
*replied* (R512). -/
inductive JournalKind where
  | taken | checkpoint
  | commit (status : Nat) (items : List Item) (data : List Byte) (replied : Bool)
  deriving DecidableEq, Repr, Inhabited

/-- A control core (Table 13-1, R510, R516); `crashes` are the stamps of its crashes, `image` the version of the image that its local
memory has been loaded from. -/
structure Core where
  state    : Nat := 0
  logical  : Nat := 255
  cause    : Nat := 0
  crashes  : List Stamp := []
  lastKick : Stamp := 0
  image    : Nat := 0
  deriving DecidableEq, Repr, Inhabited

/-- A slow-path command that a core holds: its last journal record, its packet header, the copy of its payload in cluster memory, and the
slot of its CHECKPOINT in the work journal (R511, R513). -/
structure Journaled where
  cmd     : Nat
  cluster : Nat
  core    : Nat
  kind    : JournalKind
  records : Nat
  hdr     : Hdr := {}
  payload : List Byte := []
  slot    : Option Nat := none
  deriving DecidableEq, Repr, Inhabited

/-- The activation in progress (R507): clusters ready so far, the one whose cores restart, with the stamp of that restart, the
FW_ACTIVATE that is owed a reply, and when the turn of the present cluster began. -/
structure Activation where
  done    : List Nat := []
  pending : Option (Nat × Stamp) := none
  owed    : Option Nat := none
  started : Stamp := 0
  deriving DecidableEq, Repr, Inhabited

/-- The Wadin firmware (spec/13). -/
structure Fw where
  cores      : List Core := []
  running    : Option FwImage := none
  previous   : Option FwImage := none
  staged     : Option FwImage := none
  /-- the flash slots with their validity marks (R499) -/
  flash      : List (FwImage × Bool) := []
  act        : Nat := 0
  activation : Option Activation := none
  /-- the FW_ACTIVATE hold: start of the NORMAL hold window (R506) -/
  hold       : Option Stamp := none
  bootLkg    : Bool := false
  runSince   : Option Stamp := none
  journal    : List Journaled := []
  /-- clusters that have stopped taking commands for activation -/
  drained    : List Nat := []
  /-- commands waiting in the firmware work queue, in arrival order (R488) -/
  work       : List Nat := []
  /-- the queue pairs that each cluster's take has served, the one served last at the end (R34) -/
  workLast   : List (Nat × List Nat) := []
  /-- log entries that the logger holds until the ring is in HBM (log entry 9) -/
  logHeld    : List (List Byte) := []
  deriving DecidableEq, Repr, Inhabited

/-- The open window of an interrupt group with the two thresholds that it keeps (R523, R528). -/
structure IcuWindow where
  group : Nat
  start : Stamp
  count : Nat
  time  : Nat
  deriving DecidableEq, Repr, Inhabited

/-- The interrupt controller beside its registers: open windows of groups, the core that holds a source in service,
the sources that each core has claimed (fast, normal), the one claimed last at the end (R34, R525), and the sources that events
have reached at the latest stamp at which one came, with that stamp (R527). -/
structure Icu where
  windows : List IcuWindow := []
  service : List (Nat × Nat) := []
  last    : List (Nat × List Nat × List Nat) := []
  struck  : List (Nat × Stamp) := []
  deriving DecidableEq, Repr, Inhabited

/-! ### Partitions -/

/-- A resource assignment of a partition (Table 12-1): user pseudo-channels, region base in 4 GiB units, ways, Lathes
and walkers as masks, CXL ranges (weight, offset, size), the queue-pair limit, meters, real-time, and the shares of
its contexts (ways, Lathes). -/
structure Assign where
  pch        : Nat := 0
  base       : Nat := 0
  ways       : Nat := 0
  lathes     : Nat := 0
  walkers    : Nat := 0
  cxl        : List (Nat × Nat × Nat) := []
  qpLimit    : Nat := 0
  meterFirst : Nat := 0
  meterCount : Nat := 0
  rt         : Bool := false
  shares     : List (Nat × Nat) := []
  deriving DecidableEq, Repr, Inhabited

/-- The image of a suspended context (R469): its place in the save area, the bytes of its ways and of its Lathe buffers, each under its
place in the share, and those Lathes' scoreboards; its layout is internal. -/
structure CtxImage where
  ctx    : Nat
  addr   : Nat
  bytes  : Nat
  cells  : List (Nat × Byte) := []
  boards : List (Nat × List (Nat × Nat × Nat × Option Nat)) := []
  deriving DecidableEq, Repr, Inhabited

/-- A switch of contexts (R470): requested, or quiescing since a stamp. -/
structure Switch where
  out     : List Nat
  incoming : Option Nat
  cmd     : Nat
  quiesce : Option Stamp := none
  deriving DecidableEq, Repr, Inhabited

/-- A context teardown in progress (R480): the context, the state to which it returns, its start, whether the contents of its share are
its own, and whether it waits for the end of the switch that was bringing the context in (R473). -/
structure Tear where
  ctx   : Nat
  back  : Nat
  since : Stamp
  own   : Bool := true
  held  : Bool := false
  deriving DecidableEq, Repr, Inhabited

/-- A real-time plan (Table 12-7) with its WCET. -/
structure Plan where
  slot    : Nat
  model   : Nat
  version : Nat
  ctx     : Nat
  rows    : Nat
  seqs    : Nat
  kvPos   : Nat
  bound   : Nat
  wcet    : Nat
  layers  : List (Nat × Nat × Nat × Nat)
  deriving DecidableEq, Repr, Inhabited

/-- A partition beside its registers: the applied assignment, the images of suspended contexts, the switch and the
plans, and the contexts that steps have served, the latest at the end (R468). -/
structure Part where
  assign  : Assign := {}
  images  : List CtxImage := []
  switch  : Option Switch := none
  tears   : List Tear := []
  plans   : List Plan := []
  lastCtx : List Nat := []
  /-- where the rotation of each class of the step builder starts (R333) -/
  rot     : List Nat := [0, 0, 0, 0]
  /-- the last step was a model run or a learning step -/
  lastJob : Bool := false
  /-- token rows placed that HDS_STEP_CNT has not counted yet: it counts in units of 256 -/
  rowRem  : Nat := 0
  /-- HDS_KV_CFG as it was at the partition's latest step boundary: a change applies from the next (R394) -/
  kvCfg   : Nat := 32 * 2 ^ 48 + 2 ^ 40 + 64 * 2 ^ 24 + 1000
  deriving DecidableEq, Repr, Inhabited

/-! ### Ethernet, time and traffic -/

/-- A frame in an egress queue (R550, R556): its list and class, its bytes from destination address to FCS, its queue pair, the
stamp at which it was queued, and whether it belongs to a request, which waits for an RNR NAK's timer (R537). -/
structure Frame where
  list  : Nat
  cls   : Nat
  len   : Nat
  qp    : Nat
  at_   : Stamp
  req   : Bool := false
  tos   : Nat := 0
  deriving DecidableEq, Repr, Inhabited

/-- A meter's buckets in bits (R552). -/
structure Meter where
  tc  : Nat := 73728
  tp  : Nat := 73728
  deriving DecidableEq, Repr, Inhabited

/-- A telemetry stream (R560): its handle, the command, the event stream, period in ns, first queue and count, the start of its
window, and for each queue largest depth, largest sojourn, sum of depths and samples of that window. -/
structure Telem where
  handle : Nat
  cmd    : Nat
  stream : Stream
  period : Nat
  first  : Nat
  count  : Nat
  start  : Stamp
  acc    : List (Nat × Nat × Nat × Nat)
  deriving DecidableEq, Repr, Inhabited

/-- A GRAD_ALLREDUCE at work (R561 to R563): operation, format, ring, queue pairs, the buffer as an address or as tile objects,
its length and chunk size, and the hops sent and received. -/
structure Coll where
  cmd   : Nat
  part  : Nat
  op    : Nat
  fmt   : Nat
  size  : Nat
  rank  : Nat
  left  : Nat
  right : Nat
  addr  : Nat
  tiles : List Nat
  len   : Nat
  chunk : Nat
  sent  : Nat := 0
  recv  : Nat := 0
  deriving DecidableEq, Repr, Inhabited

/-- The PTP units beside their registers (R544 to R548): integral term and adjustment in units of 2^-16 ppb, the offsets and
adjustments of the last 16 exchanges, the last Announce with its interval in ns, the PPS edges, latest first, and the unit
in charge. -/
structure Ptp where
  integ    : Int := 0
  adj      : Int := 0
  offs     : List Int := []
  adjs     : List Int := []
  announce : Stamp := 0
  interval : Nat := 0
  edges    : List Stamp := []
  unit     : Nat := 0
  deriving DecidableEq, Repr, Inhabited
/-! ### Power, CXL links, faults and boot -/

/-- Where the module stands between unpowered and running (R573, R591 to R597): standby domain off; standby with the rails off;
powering up; internal reset released and boot not begun; running; an orderly and an emergency power-down; held in reset. -/
inductive PwrPhase where
  | unpowered | standby | starting | released | running | powerDown | emergencyDown | held
  deriving DecidableEq, Repr, Inhabited

/-- The power manager and the standby domain beside their registers: the phase and its start; PWR_EN, since when it is low, and
the instant of a rise during a power-down; the earliest release of the internal reset; whether state has been lost in this
phase; whether a start failure asks for a long PWR_EN low; LAST_SHUTDOWN, the thermal trip latch, ALERT_CAUSE and CAP_W of the
I3C target; region and state of each regulator phase; the duty of CAPPED, and the two emergencies. -/
structure Pwr where
  phase   : PwrPhase := .released
  since   : Stamp := 0
  en      : Bool := true
  enLow   : Option Stamp := none
  again   : Option Stamp := none
  hold    : Stamp := 0
  wiped   : Bool := false
  locked  : Bool := false
  last    : Nat := 0
  tripped : Bool := false
  alerts  : Nat := 0
  chassis : Nat := 0
  phases  : List (Nat × Nat) := (List.range 32).map (fun i => (i / 8, 1)) ++ [(15, 2), (15, 2)]
  duty    : Nat := 16
  emerg   : Bool := false
  thermal : Bool := false
  deriving DecidableEq, Repr, Inhabited

/-- A CXL link beside its registers: the start of a recovery window, the last training attempt, the stamps of IDE integrity
failures within the last second, and the number of key refreshes. -/
structure CxlPort where
  window  : Option Stamp := none
  tryAt   : Stamp := 0
  ide     : List Stamp := []
  keys    : Nat := 0
  deriving DecidableEq, Repr, Inhabited

/-- What module flash keeps beside images and protection configuration: boots, operating hours, the fault table, the spare map
(kind, logical number, physical number), and what the last margin plan wrote: the voltage offsets and lowered bins of the four
core regions, and its operating hours (R629). -/
structure Flash where
  boots   : Nat := 0
  hours   : Nat := 0
  faults  : List (Nat × Nat × Nat) := []
  map     : List (Nat × Nat × Nat) := []
  offsets : List Nat := [0, 0, 0, 0]
  bins    : List Bool := [false, false, false, false]
  planned : Option Nat := none
  deriving DecidableEq, Repr, Inhabited

/-- What the classifier knows of a resource (R608, R609): the start of its fault window, its correctable window with the
count in it, and whether an uncorrectable event waits for the outcome of its retry. -/
structure Track where
  kind   : Nat
  inst   : Nat
  detail : Nat
  opened : Option Stamp := none
  win    : Nat := 0
  count  : Nat := 0
  retry  : Bool := false
  deriving DecidableEq, Repr, Inhabited

/-- A pseudo-channel migration (R620): source and spare as global physical numbers, whether a firmware copy has still to be moved
off the spare, and the start of the copy. -/
structure PchMove where
  src   : Nat
  dst   : Nat
  move  : Bool
  began : Stamp
  deriving DecidableEq, Repr, Inhabited

/-- Faults, spares and tests (spec/16): the classifier's tracks, its log of permanent decisions, rows remapped since boot, base-die
store rows and SRAM lines replaced, migrations and those that wait, Lathes whose spare is in its entry test, decisions that wait
for a unit under test (kind, unit), units under a rolling test, the operating hours of each unit's last test, and walkers that
wait to be swapped out. -/
structure Faults where
  tracks : List Track := []
  log    : List Reg := []
  remap  : List (Nat × Nat) := []
  rows   : List (Nat × Nat) := []
  lines  : List Nat := []
  moves  : List PchMove := []
  queue  : List Nat := []
  entry  : List (Nat × Nat) := []
  owed   : List (Nat × Nat) := []
  tests  : List (Nat × Nat) := []
  tested : List (Nat × Nat × Nat) := []
  swaps  : List (Nat × Stamp) := []
  deriving DecidableEq, Repr, Inhabited

/-- Calipers and margin plans (R624 to R630): margins by region and operating hours, latest first, the hours of the last plan, and
the regions whose lowered bin waits for their Lathes. -/
structure Cal where
  hist   : List (Nat × Nat × Int) := []
  planAt : Option Nat := none
  wait   : List Nat := []
  deriving DecidableEq, Repr, Inhabited

/-- The boot ROM and the boot sequence (R498, R499, R631 to R633): whether an image is being fetched, the first DHCPDISCOVER of this
fetch, retransmissions used, the stamp of a failed boot, withdrawn stacks, and whether step 11 is done. -/
structure Boot where
  fetching : Bool := false
  disc     : Option Stamp := none
  dhcp     : Nat := 0
  tftp     : Nat := 0
  /-- when the latest DHCPDISCOVER and the latest TFTP packet were sent (Table 13-6) -/
  dhcpAt   : Stamp := 0
  tftpAt   : Stamp := 0
  failedAt : Option Stamp := none
  gone     : List Nat := []
  done     : Bool := false
  deriving DecidableEq, Repr, Inhabited

/-! ### Security -/

/-- The protection configuration (spec/17, "Protection configuration"): owner keys by slot, the management key, the
firmware policy, the seal policy, the locked partitions and the epoch. -/
structure ProtCfg where
  keys       : List (Nat × List Byte) := []
  mgmtKey    : List Byte := List.replicate 32 0
  coSign     : Bool := false
  zeroize    : Bool := false
  locked     : Nat := 0
  minVersion : Nat := 0
  epoch      : Nat := 0
  /-- a recorded seal break (R656) -/
  sealRecord : Bool := false
  deriving DecidableEq, Repr, Inhabited

/-- A pending proposal (R658): its proposer, its bytes and its intake stamp. -/
structure Proposal where
  slot  : Nat
  bytes : List Byte
  t1    : Stamp
  deriving DecidableEq, Repr, Inhabited

/-- A source of management datagrams (R669): address, port, the last sequence number answered and its answer. -/
structure MgmtSource where
  addr   : List Byte
  port   : Nat
  seq    : Nat
  answer : List Byte
  deriving DecidableEq, Repr, Inhabited

/-- The root of trust beside its registers. -/
structure Sec where
  cfg     : ProtCfg := {}
  /-- the configuration was loaded (R661) -/
  loaded  : Bool := false
  debug   : Nat := 0
  pending : Option Proposal := none
  /-- the proposal that expired last, for a cosign taken in before it did (R36, R659) -/
  lapsed  : Option Proposal := none
  /-- the two flash copies, each with whether its tag verifies (R661) -/
  flash   : List (ProtCfg × Bool) := [({}, true), ({}, true)]
  /-- the measurement log of 64-byte entries (R647) -/
  mlog    : List (List Byte) := []
  /-- samples of PRES_N and of SEAL_OK with their stamps, latest first (R655) -/
  pres    : List (Stamp × Bool) := []
  sealOk  : List (Stamp × Bool) := []
  /-- management sources, most recently used first (R669) -/
  sources : List MgmtSource := []
  /-- the module serial (Table 15-8), 16 bytes -/
  serial  : List Byte := List.replicate 16 0
  deriving DecidableEq, Repr, Inhabited

/-! ### Tiers, models and the layer schedule -/

/-- Who has started an eviction (R137): the tier policy, the demotion of a step boundary (R383), or a TIER_EVICT. -/
inductive Mover where
  | policy | demotion | command
  deriving DecidableEq, Repr, Inhabited

/-- A tier object: its directory entry (Table 3-5), the slot of the directory that holds the entry, how many of its
pins are HOLD pins (R144), and its last use. -/
structure TierObj where
  id    : Nat
  slot  : Nat := 0
  t1    : Option Nat := none
  t2    : Option Nat := none
  pins  : Nat := 0
  holds : Nat := 0
  tier0 : Bool := false
  comp1 : Bool := false
  comp2 : Bool := false
  dirty : Bool := false
  lost  : Bool := false
  fmt   : Nat := 0
  rows  : Nat := 0
  cols  : Nat := 0
  len1  : Nat := 0
  len2  : Nat := 0
  last  : Stamp := 0
  /-- the tier-1 copy is a block in FP4 (R109) -/
  lossy1 : Bool := false
  /-- a KV block with 256 valid rows (R367) -/
  full   : Bool := false
  /-- an eviction that was started at this stamp has still to commit, and who started it (R137) -/
  leaving : Option (Stamp × Mover) := none
  /-- a promotion has found the object part-way through that eviction (R138) -/
  won    : Bool := false
  deriving DecidableEq, Repr, Inhabited

/-- A schedule-layer record (Table 3-9). -/
structure SchedLayer where
  base   : Nat
  perRow : Nat
  layer  : Nat
  far    : Bool
  deriving DecidableEq, Repr, Inhabited

/-- A group record (Table 3-10). -/
structure TileGroup where
  first   : Nat
  count   : Nat
  layer   : Nat
  lead    : Nat
  stored  : Nat
  flags   : Nat
  fbGen   : Nat
  fbLearn : Nat
  home    : Nat
  under   : Nat
  deriving DecidableEq, Repr, Inhabited

/-- A resident model version (R111 to R118, R147): its model record, schedules, tile lengths and formats, and where its
kernels stand in tier 1. -/
structure Model where
  slot     : Nat := 0
  part     : Nat := 0
  id       : Nat := 0
  version  : Nat := 0
  layers   : Nat := 0
  dModel   : Nat := 0
  vocab    : Nat := 0
  kvLayers : Nat := 0
  kvWidth  : Nat := 0
  headDim  : Nat := 0
  kvFmt    : Nat := 0
  roles    : Nat := 0
  lanes    : Nat := 0
  outDims  : Nat := 0
  sched    : List SchedLayer := []
  fwd      : List TileGroup := []
  bwd      : List TileGroup := []
  /-- per tile: container length, format code and flags -/
  tiles    : List (Nat × Nat × Nat) := []
  kernel   : Nat := 0
  /-- kernel-entry table: first instruction and count, layer by layer and lane by lane -/
  entries  : List (Nat × Nat) := []
  /-- the current version of its model ID in its partition (R358) -/
  current  : Bool := false
  /-- a turnover has retired it (R358) -/
  retired  : Bool := false
  deriving DecidableEq, Repr, Inhabited

/-- A group of the step plan as the runner sees it (R123 to R129): the load slot of its model, its schedule, its index in
the group table, the plan's layer that consumes it, and how far its fetch has come. -/
structure GroupRun where
  model   : Nat
  back    : Bool
  idx     : Nat
  layer   : Nat
  issued  : Option Stamp := none
  arrived : List Nat := []
  doneAt  : Option Stamp := none
  shadow  : Bool := false
  fell    : Bool := false
  waits   : Option Stamp := none
  /-- where the group's tiles go, one place for each tile -/
  dst     : List SlotRef := []
  /-- a tile's container failed its checks and no other copy exists: treated as late (R110) -/
  bad     : Bool := false
  /-- the consuming layer has ended and the group's pins are released (Table 3-12) -/
  over_   : Bool := false
  /-- when the group's first byte arrived, as far as a check has seen (R126) -/
  first   : Option Stamp := none
  deriving DecidableEq, Repr, Inhabited

/-- A far-context KV block that a step's attention reads (R386 to R390): the entry and the KV layer, the block number, its
object ID, the plan's schedule layer that consumes it, the stamp at which it was resident, whether a landmark may stand in
for it, and whether it was dealt with at that layer's start. -/
structure FarFetch where
  seq   : Nat
  layer : Nat
  block : Nat
  obj   : Nat
  at_   : Nat
  came  : Option Stamp := none
  mark  : Bool := false
  over_ : Bool := false
  /-- the fetch holds a pin on its block (Table 3-12); one whose only copy is lost is not issued -/
  pinned : Bool := true
  deriving DecidableEq, Repr, Inhabited

/-- The layer-schedule runner of a partition (R119 to R122): the step plan as the schedules it concatenates, the layer
that has started last with its start, the token rows and the fallbacks taken in this step. -/
structure Runner where
  active    : Bool := false
  learn     : Bool := false
  rt        : Bool := false
  ctx       : Nat := 0
  rows      : Nat := 0
  plan      : List (Nat × Bool) := []
  layer     : Nat := 0
  start     : Stamp := 0
  groups    : List GroupRun := []
  lastIssue : Stamp := 0
  fallbacks : Nat := 0
  /-- placed entries: table index, first row, rows (R332); draft rounds (R340) -/
  work      : List (Nat × Nat × Nat) := []
  rounds    : Nat := 0
  /-- entries whose rows are masked for the rest of the step (R308) -/
  masked    : List Nat := []
  /-- the command whose model run or learning step this step is -/
  job       : Option Nat := none
  far       : List FarFetch := []
  /-- times that this step has been run again after a Lathe error (R318) -/
  failures  : Nat := 0
  /-- start of the step -/
  begun     : Stamp := 0
  /-- plan layers whose code has been copied into the kernel way (R119) -/
  code      : List Nat := []
  /-- the WCET of the plan that a real-time step runs under (R478) -/
  wcet      : Nat := 0
  /-- the entries that have token rows in each schedule of the plan (R130, R340) -/
  served    : List (List Nat) := []
  /-- the entries whose fallback counts this run of the step has raised, one element for each count (R130, R318) -/
  counted   : List Nat := []
  /-- the groups, and the far blocks (entry, layer, block), whose fallbacks the registers count already for this step (Table 3-11) -/
  tallied   : List Nat := []
  talliedKv : List (Nat × Nat × Nat) := []
  /-- HDS_PART_CFG as it was when a write during this step changed it: it applies until the step's boundary (R361) -/
  cfg       : Option (BitVec 64) := none
  deriving DecidableEq, Repr, Inhabited
/-! ### Spindle and Lathes -/

/-- What a Spindle engine sends back for one descriptor (R157): engine, submitter, result data and completion record. -/
structure SpnResult where
  engine    : Nat
  submitter : Nat
  data      : List Byte
  record    : List Byte
  deriving DecidableEq, Repr, Inhabited

/-- The base-die stores (Table 4-1): entries by (stack, entry) that have been written since they were cleared, and the
entries that an uncorrectable error has invalidated, by (stack, store, entry) with store 0 query, 1 codebook,
2 parameter (R183). -/
structure SpnStores where
  query    : List ((Nat × Nat) × List Byte) := []
  codebook : List ((Nat × Nat) × List Byte) := []
  param    : List ((Nat × Nat) × List Byte) := []
  bad      : List (Nat × Nat × Nat) := []
  /-- entries withdrawn for want of a spare row (Table 16-2) -/
  gone     : List (Nat × Nat × Nat) := []
  /-- descriptors that wait in the queue of an engine that takes none, oldest first (R23, R184) -/
  held     : List (Nat × Desc) := []
  deriving DecidableEq, Repr, Inhabited

/-- A buffer slot as the scoreboard sees it (R283, R302, R304): state 0 EMPTY, 1 FILLING, 2 RESIDENT, 3 WRITING,
4 DRAINING; the format recorded at fill; whether it is released after its last pending read; whether it drains once its
writes complete, and its drain tag; the tier object whose tile it holds. -/
structure LSlot where
  st      : Nat := 0
  fmt     : Nat := 0
  release : Bool := false
  drain   : Bool := false
  tag     : Nat := 0
  obj     : Option Nat := none
  deriving DecidableEq, Repr, Inhabited

/-- A physical Lathe (R295 to R309). Slots are numbered 0–31 weight, 32–63 input, 64–79 output; one that is not listed
is EMPTY. Array time is counted in units of 1/66 ns, so that a cycle is 55 units at 1.2 GHz and 60 at 1.1 GHz. -/
structure Lathe where
  slots   : List (Nat × LSlot) := []
  /-- pending reads of issued instructions: slot and the array time at which the read ends -/
  reads   : List (Nat × Nat) := []
  running : Bool := false
  ctx     : Nat := 0
  part    : Nat := 0
  /-- address of the next instruction in the Tool store window -/
  pc      : Nat := 0
  /-- the plan's schedule layers whose kernels have started on this Lathe -/
  layers  : Nat := 0
  /-- the highest plan layer that a LAYER of this Lathe has started (R297) -/
  marks   : Nat := 0
  /-- the instruction that cannot issue: since when, and the slot that it waits for -/
  waiting : Option (Stamp × Nat) := none
  /-- the instruction that may not issue, and holds back every later one (R295) -/
  held    : Option (BitVec 128) := none
  /-- END has issued and instructions are still to complete -/
  ending  : Bool := false
  lastIssue : Stamp := 0
  /-- array time at which the last stream ends -/
  streamEnd : Nat := 0
  /-- array time at which the weights loaded last become active, so that the shadow registers are free for the next load -/
  shadowAt : Nat := 0
  /-- the weights active in the processing elements: format pair and tiles -/
  active  : Option (Nat × Nat × List (List Byte)) := none
  /-- output slots of the MATMUL issued last, while it writes them -/
  lastOut : List Nat := []
  deriving DecidableEq, Repr, Inhabited

/-- What wakes under the power manager's budget (Table 15-12): a physical Lathe, a group of 16 Tool store ways, a group of 8 walkers. -/
inductive WakeUnit where
  | lathe (n : Nat) | ways (g : Nat) | walkers (g : Nat)
  deriving DecidableEq, Repr, Inhabited

/-- A wake request that waits for its grant (R588): the unit and when it asked. -/
structure WakeReq where
  unit  : WakeUnit
  since : Stamp
  deriving DecidableEq, Repr, Inhabited

/-! ### Memory under another key -/

/-- Bytes [lo, hi) of memory that were written under a key that is gone (R665): until they are written again, they read as the values of a
draw, the byte at `lo` as that of index `at_`. Of `n` interleaved units of 4 KiB counted from index `base`, those of `holes` are not
meant. -/
structure Veil where
  lo    : Nat
  hi    : Nat
  tok   : Nat
  at_   : Nat
  base  : Nat := 0
  n     : Nat := 0
  holes : List Nat := []
  deriving DecidableEq, Repr, Inhabited

/-! ### Indices and searches -/

/-- An epoch of an index (R194, R222): number, node count, entry node and the chunk tables of the code, neighbour,
attribute and ID arrays. -/
structure Epoch where
  num   : Nat := 0
  count : Nat := 0
  entry : Nat := 0
  tabs  : List (List Nat) := []
  deriving DecidableEq, Repr, Inhabited

/-- A loaded index (R192 to R199). Side slots are counted without wrap: slot `a` of the count lies at ring position
`a % cap`. -/
structure Index where
  part    : Nat := 0
  num     : Nat := 0
  shard   : Nat := 0
  profile : Nat := 0
  degree  : Nat := 0
  width   : Nat := 0
  hops    : Nat := 0
  cap     : Nat := 0
  idCap   : Nat := 0
  vecFmt  : Nat := 0
  /-- bytes of a code slot and of a neighbour slot (R193) -/
  cs      : Nat := 0
  ns      : Nat := 0
  dims    : Nat := 0
  codeLen : Nat := 0
  poolBase : Nat := 0
  poolLen  : Nat := 0
  vecBase : Nat := 0
  dirBase : Nat := 0
  vecIns  : Nat := 0
  dirIns  : Nat := 0
  heapBase : Nat := 0
  heapLen  : Nat := 0
  epoch   : Epoch := {}
  /-- side window: first slot not reclaimed, start and end -/
  rstart  : Nat := 0
  wstart  : Nat := 0
  wend    : Nat := 0
  /-- local IDs assigned when the index was built (R190), and those that INDEX_INSERT has assigned, counted from
  0x8000_0000 -/
  built   : Nat := 0
  nextId  : Nat := 0
  /-- the built-ID overlay (R198) -/
  overlay : List (Nat × Nat) := []
  /-- the side code array, and the chunk tables of the node tombstone bitmap, side metadata array, side tombstone bitmap
  and ID map -/
  sideCode : Nat := 0
  ntomb   : List Nat := []
  smeta   : List Nat := []
  stomb   : List Nat := []
  idmap   : List Nat := []
  /-- space taken in the chunk pool and in the passage heap -/
  pool    : List (Nat × Nat) := []
  heap    : List (Nat × Nat) := []
  /-- the heap record of each side entry: slot, address, length -/
  recs    : List (Nat × Nat × Nat) := []
  /-- local IDs whose newest copy was a deleted side entry that RECLAIM has freed (R217) -/
  gone    : List Nat := []
  /-- an accepted INDEX_UNLOAD and its acceptance stamp (R216) -/
  unload  : Option (Nat × Stamp) := none
  deriving DecidableEq, Repr, Inhabited

/-- A running merge job (R222): its state code of Table 5-11, the snapshot, and the epoch that it builds. -/
structure MergeJob where
  part    : Nat := 0
  index   : Nat := 0
  cmd     : Nat := 0
  state   : Nat := 1
  width   : Nat := 0
  /-- window start and merge bound M -/
  lo      : Nat := 0
  hi      : Nat := 0
  tombs   : List Nat := []
  epoch   : Epoch := {}
  fresh   : List Nat := []
  ntomb   : List Nat := []
  rewrote : List Nat := []
  /-- side slots placed by LINK, with their nodes -/
  placed  : List (Nat × Nat) := []
  repaired : Bool := false
  /-- after PUBLISH: the old epoch, and the deleted side entries of [lo, hi) as (slot, local ID) -/
  old     : Option Epoch := none
  dead    : List (Nat × Nat) := []
  /-- every deleted side slot of [lo, hi) at PUBLISH, whose heap records RECLAIM frees (R222) -/
  freed   : List Nat := []
  /-- the walker contexts in use: physical walker, first context, count (R228) -/
  slot    : Option (Nat × Nat × Nat) := none
  deriving DecidableEq, Repr, Inhabited

/-- The queues of a walk (R204): candidate queue and top set in order, the set bits of the visited filter (R202). -/
structure Walk where
  cand    : List (BitVec 32 × Nat) := []
  top     : List (BitVec 32 × Nat) := []
  vis     : List Nat := []
  hops    : Nat := 0
  dropped : Nat := 0
  width   : Nat := 0
  deriving DecidableEq, Repr, Inhabited

/-- How a query ended: status, entries, and whether fewer than k were found. -/
structure QueryEnd where
  status  : Nat := 0
  entries : List (Nat × BitVec 32) := []
  short   : Bool := false
  deriving DecidableEq, Repr, Inhabited

/-- One query of a search command (R203, R212): number `sid` is the command's number times 256 plus the query's place; the
local walk of map entry `e` of a coordinated query has its number plus (e + 1) × 2^64. -/
structure Search where
  sid     : Nat := 0
  cmd     : Nat := 0
  part    : Nat := 0
  index   : Nat := 0
  epoch   : Epoch := {}
  wstart  : Nat := 0
  wend    : Nat := 0
  k       : Nat := 0
  budget  : Nat := 0
  hopMax  : Nat := 0
  orTerms : Bool := false
  terms   : List (Nat × Nat × Bool) := []
  query   : List Byte := []
  walk    : Walk := {}
  /-- waiting for a context; none: has one -/
  waiting : Bool := true
  /-- physical walker, first context and number of contexts -/
  walker  : Nat := 0
  context : Nat := 0
  slots   : Nat := 1
  /-- side results, once the scan has been made -/
  side    : Option (List (BitVec 32 × Nat)) := none
  restarts : Nat := 0
  avoid   : Option Nat := none
  ended   : Option QueryEnd := none
  /-- the width that the walk starts with (R204) -/
  width0  : Nat := 0
  /-- the status with which the walk's next turn ends the query (R183, R240, R672) -/
  fault   : Option Nat := none
  /-- the local walk of a coordinated query: that query and its map entry, and the deadline C − FLIGHT (R235) -/
  coord   : Option (Nat × Nat) := none
  deadline : Option Stamp := none
  /-- a walker has taken the search: WALK_EN holds it no more (GGE_CTRL) -/
  taken   : Bool := false
  deriving DecidableEq, Repr, Inhabited

/-- A shard map entry (Table 5-12). -/
structure ShardEntry where
  shard     : Nat
  index     : Nat
  broadcast : Bool
  replicas  : List Nat
  deriving DecidableEq, Repr, Inhabited

/-- A shard map (R229), with the number of its installation. -/
structure ShardMap where
  part    : Nat
  index   : Nat
  number  : Nat
  entries : List ShardEntry
  /-- the stamp of the reply that installed it (R229) -/
  set     : Stamp := 0
  deriving DecidableEq, Repr, Inhabited

/-- An entry of the map as a coordinator uses it (R233): the next replica to ask, the stamp of the last send, the replicas
asked whose reply is still possible, and the tag of the last request; none where it went to the local index. -/
structure ShardRun where
  entry : ShardEntry
  next  : Nat := 0
  sent  : Stamp := 0
  live  : Nat := 0
  last  : Option Nat := none
  deriving DecidableEq, Repr, Inhabited

/-- A coordinated query (R231 to R237): cutoff C, the window ends that matter, and the used list of each shard with the
stamp that made it usable and the stamp of its arrival. -/
structure Coord where
  sid     : Nat
  cmd     : Nat
  part    : Nat
  k       : Nat
  cutoff  : Stamp
  params  : List Byte
  runs    : List ShardRun
  used    : List (Nat × Stamp × Stamp × List (Nat × BitVec 32)) := []
  ended   : Option (List (Nat × BitVec 32) × Nat) := none
  deriving DecidableEq, Repr, Inhabited

/-- A configuration change that is pending for a gate list (R551): when, and the captured base, cycle and entries. -/
structure GateChange where
  time    : Stamp
  base    : Nat
  cycle   : Nat
  entries : List Reg
  deriving DecidableEq, Repr, Inhabited

/-- A gate list beside its registers: the base of the operational list, its pending change and the entry in force. -/
structure GateList where
  base    : Nat := 0
  pending : Option GateChange := none
  entry   : Nat := 0
  deriving DecidableEq, Repr, Inhabited


/-! ### Selection units and tokenizer engines -/

/-- How a selection or a tokenization ends: status, items, data, and what its counters gain: NaN keys dropped or tokens,
and 1 for a spilled result or the text bytes. -/
structure JobEnd where
  status : Nat := 0
  items  : List Item := []
  data   : List Byte := []
  n1     : Nat := 0
  n2     : Nat := 0
  deriving DecidableEq, Repr, Inhabited

/-- Work of a selection unit (kind 0) or of a tokenizer engine (kind 1) for a command (R260, R280, R406): waiting where it
has no unit; running until its end otherwise, with the outcome that it will have. `avoid` is the unit that failed it. -/
structure UnitJob where
  kind   : Nat := 0
  cmd    : Nat := 0
  part   : Nat := 0
  rt     : Bool := false
  unit   : Option Nat := none
  ending : Stamp := 0
  avoid  : Option Nat := none
  result : JobEnd := {}
  deriving DecidableEq, Repr, Inhabited

/-! ### Vocabularies and grammars -/

/-- A loaded vocabulary (R399 to R403): its slot, the image in the partition's text area, and the device addresses of its
tables. -/
structure Vocab where
  slot    : Nat := 0
  part    : Nat := 0
  addr    : Nat := 0
  len     : Nat := 0
  entries : Nat := 0
  ent     : Nat := 0
  heap    : Nat := 0
  trie    : Nat := 0
  trieLen : Nat := 0
  bytes   : Nat := 0
  models  : List Nat := []
  /-- which vocabulary it is: the number of the VOCAB_LOAD that brought the image into the slot (R424) -/
  load    : Nat := 0
  deriving DecidableEq, Repr, Inhabited

/-- A loaded grammar (R420 to R424): its slot, the vocabulary slot that it was loaded for, the image in the partition's
grammar area, and the device addresses of its tables. -/
structure Grammar where
  slot    : Nat := 0
  part    : Nat := 0
  vocab   : Nat := 0
  addr    : Nat := 0
  len     : Nat := 0
  entries : Nat := 0
  states  : Nat := 0
  start   : Nat := 0
  stTab   : Nat := 0
  mkTab   : Nat := 0
  exTab   : Nat := 0
  /-- the vocabulary that it was loaded for, as `Vocab.load` -/
  load    : Nat := 0
  deriving DecidableEq, Repr, Inhabited

/-! ### Sequences and prefixes -/

/-- A sequence-table entry that is not FREE (Table 8-2). The UTF-8 and stop-string stages lie in the record at `stop`
(Table 10-5), the KV length and the block table in the root record at `root` (Table 9-1). -/
structure Seq where
  idx     : Nat := 0
  gen     : Nat := 1
  part    : Nat := 0
  /-- context of the queue pair at admission -/
  ctx     : Nat := 0
  /-- the command that admitted it, outstanding until the final event -/
  cmd     : Nat := 0
  state   : Nat := 1
  prio    : Bool := false
  finOld  : Bool := false
  retain  : Bool := false
  gram    : Bool := false
  inclStop : Bool := false
  far     : Nat := 0
  d0      : Nat := 0
  d       : Nat := 0
  reprobe : Nat := 0
  model   : Nat := 0
  version : Nat := 0
  variant : Option Nat := none
  /-- the variant as it stood at the intake of the command (R41, R354) -/
  steering : Option Variant := none
  draft   : Option (Nat × Nat) := none
  gslot   : Nat := 0
  /-- vocabulary slot bound at admission -/
  vocab   : Nat := 0
  stops   : Nat := 0
  len     : Nat := 0
  toFill  : Nat := 0
  made    : Nat := 0
  maxNew  : Nat := 0
  temp    : F32 := 0
  topK    : Nat := 0
  topP    : F32 := 0
  seed    : Nat := 0
  prefix_ : Nat := 0
  /-- prefix length in tokens -/
  plen    : Nat := 0
  root    : Nat := 0
  auto    : Nat := 0
  stream  : Stream := {}
  fallbacks : Nat := 0
  stop    : Nat := 0
  /-- ending status, once the ending is decided -/
  ending  : Option Nat := none
  /-- an ending whose final event waits for a SEQ_CANCEL of an earlier intake stamp that is still being read (R350): its status, the
  item of the token that decided it, and the stamp of the decision -/
  verdict : Option (Nat × List (List Byte × List Byte) × Stamp) := none
  reserve : Nat := 0
  /-- prompt tokens for the usage block: appended ones count too (R337) -/
  prompt  : Nat := 0
  /-- token words of positions from the prefix length on -/
  tokens  : List Nat := []
  /-- what applies from the next step boundary: appended words (R336), a new priority bit (R338) -/
  append  : List Nat := []
  newPrio : Option Bool := none
  /-- retrieval conditions of the accept reply, joined at the final event (R328): short, partial, degraded with its count,
  coverage, found -/
  rag     : Option (Bool × Bool × Nat × Nat × Nat) := none
  /-- prefix slots on which the sequence holds a reference (R378, R379) -/
  refs    : List Nat := []
  /-- space held in the text area -/
  text    : Nat × Nat := (0, 0)
  /-- consecutive steps left out for KV space (R372) -/
  waits   : Nat := 0
  /-- the sequence has had a step, so a selection query stands in its query area -/
  stepped : Bool := false
  deriving DecidableEq, Repr, Inhabited

/-- A prefix slot in use (R376 to R381): references, the stamp at which the client's hold ended, and the prefixes that it
references. -/
structure PrefixSlot where
  slot    : Nat := 0
  gen     : Nat := 1
  part    : Nat := 0
  model   : Nat := 0
  version : Nat := 0
  variant : Option Nat := none
  draft   : Option (Nat × Nat) := none
  n       : Nat := 0
  root    : Nat := 0
  refs    : Nat := 0
  ended   : Option Stamp := none
  bases   : List Nat := []
  deriving DecidableEq, Repr, Inhabited

/-- A version turnover (R357 to R359): the command owed a reply, and the turnover stamp once it has taken effect. -/
structure Turnover where
  part  : Nat
  model : Nat
  old   : Nat
  new   : Nat
  cmd   : Nat
  stamp : Option Stamp := none
  deriving DecidableEq, Repr, Inhabited

/-! ### Model runs and retrieval -/

/-- A model run that is a step of its own: kind 0 EMBED, 1 RERANK, 2 REWARD_SCORE, 3 LEARN_STEP, 4 OPTIMIZER_STEP,
5 and 6 the encoder and cross-encoder stages of RAG_GENERATE. `outs` is how many outputs it yields. -/
structure ModelJob where
  kind    : Nat := 0
  cmd     : Nat := 0
  part    : Nat := 0
  ctx     : Nat := 0
  model   : Nat := 0
  version : Nat := 0
  rows    : Nat := 0
  outs    : Nat := 0
  begun   : Bool := false
  deriving DecidableEq, Repr, Inhabited

/-- A candidate whose data is fetched (R266, R267): state 0 awaited, 1 here, 2 missing, 3 never arrived. -/
structure Cand where
  gid     : Nat := 0
  st      : Nat := 0
  deleted : Bool := false
  data    : List Byte := []
  deriving DecidableEq, Repr, Inhabited

/-- The fetches of a RESCORE, a RERANK or an assembly: full vectors or passages, the shard map in use, the
replica that each shard's request stands at, the budget end E, and what the command does with the
candidates: 0 rescore, 1 re-rank, 2 assemble. -/
structure Retrieval where
  cmd     : Nat := 0
  part    : Nat := 0
  use     : Nat := 0
  index   : Nat := 0
  map     : Option Nat := none
  ending  : Stamp := 0
  cands   : List Cand := []
  /-- shard, next replica in map order, whether a reply is awaited -/
  asks    : List (Nat × Nat × Bool) := []
  /-- the fetches have begun; they have not while BLK_EN holds the assembly back -/
  began   : Bool := true
  deriving DecidableEq, Repr, Inhabited

/-- A RAG_GENERATE on its way to admission (R327): its stage, and what the stages have yielded. -/
structure Rag where
  cmd      : Nat := 0
  stage    : Nat := 0
  query    : List Nat := []
  vector   : List Byte := []
  leaders  : List (Nat × F32) := []
  /-- conditions met so far: short, partial, fallbacks, coverage, found -/
  short    : Bool := false
  part     : Bool := false
  falls    : Nat := 0
  coverage : Nat := 65536
  found    : Nat := 0
  deriving DecidableEq, Repr, Inhabited
/-! ### Embedding tables -/

/-- A version of an embedding table (Table 11-1): `hot` is the base of its hot area, `nHot` the rows in its hot set, `used`
the hot slots taken, and `freed` those that removals have freed, with the stamps of the directory changes (R456). -/
structure EmbVer where
  ver    : Nat := 0
  fmt    : Nat := 7
  opt    : Nat := 0
  tier   : Nat := 1
  dflt   : Option Nat := none
  ro     : Bool := false
  dims   : Nat := 16
  stride : Nat := 64
  rows   : Nat := 1
  base   : Nat := 0
  delta  : Nat := 0
  cap    : Nat := 0
  hot    : Nat := 0
  nHot   : Nat := 0
  used   : List Nat := []
  freed  : List (Nat × Stamp) := []
  deriving DecidableEq, Repr, Inhabited

/-- A table: its current version, an older version that drains with the EMB_TABLE_REPLACE owed a reply (R457), and a version that
becomes current after this stamp, with its command and the stamp of its acceptance. -/
structure EmbTable where
  id   : Nat := 0
  part : Nat := 0
  cur  : EmbVer := {}
  old  : Option (EmbVer × Nat) := none
  next : Option (EmbVer × Nat × Stamp) := none
  deriving DecidableEq, Repr, Inhabited

/-- A row that migrates into (`add`) or out of the hot set (R454): the command that asked for it, the hot slot, and the
logged updates as the commands that made them with their vectors. -/
structure Migration where
  table : Nat
  ver   : Nat
  row   : Nat
  add   : Bool
  slot  : Nat
  cmd   : Nat
  log   : List (Nat × List F32) := []
  deriving DecidableEq, Repr, Inhabited

/-- An EMB_HOTSET_SET at work: rows still to remove and to add, and rows migrating. -/
structure HotJob where
  cmd   : Nat
  table : Nat
  ver   : Nat
  rem   : List Nat
  add   : List Nat
  left  : Nat := 0
  deriving DecidableEq, Repr, Inhabited

/-- An update command at work (R446, R447): its kind (0 SCATTER_ADD, 1 to 3 the optimizer's), parameter slot bytes, the slot
that it holds where it needs one, the rows still to apply or log with their vectors, updates logged and not yet applied,
rows updated, whether a row could not be read, and whether it waits for space in the migration log. -/
structure EmbJob where
  cmd    : Nat
  table  : Nat
  ver    : Nat
  kind   : Nat
  words  : List Byte
  needs  : Bool
  slot   : Option Nat := none
  items  : List (Nat × List F32)
  logged : Nat := 0
  bad    : Bool := false
  logWait : Bool := false
  deriving DecidableEq, Repr, Inhabited


/-! ### The machine -/

/-- The state of the module. The fields `freeCtr`, `cmdSeq` and `pending` are the model's own: the number of free values
taken so far (log entry 6), the number of commands taken by intake (log entry 5), and the commands waiting to be
carried out, first in, first out. -/
structure State where
  /-- commands waiting, first in first out -/
  pending : List Instr := []
  /-- device time (R13, R545) -/
  now     : Stamp := 0
  freeCtr : Nat := 0
  cmdSeq  : Nat := 0
  /-- registers, sparse over their reset values: addresses rising, no entry at its reset value -/
  csr     : List (Nat × Reg) := []
  /-- bytes of Table 1-4's memory ranges, sparse over zero: addresses rising, no zero entry (log entry 2) -/
  mem     : List (Nat × Byte) := []
  /-- memory whose key is gone: where nothing is listed, it reads as free values (R665, log entry 34) -/
  veil    : List Veil := []
  /-- 64-byte bursts (address / 64) that read uncorrectable, poison included (R182, R670) -/
  ue      : List Nat := []
  /-- bursts whose cells hold an error that a read corrects (R173, R181) -/
  ce      : List Nat := []
  sent    : List Out := []
  qps     : List Qp := []
  cmds    : List Cmd := []
  issued  : List Issued := []
  fw      : Fw := {}
  icu     : Icu := {}
  parts   : List Part := []
  sec     : Sec := {}
  /-- the tile directories: (partition, object) -/
  dir     : List (Nat × TierObj) := []
  /-- space that tier objects and kernels hold in tier 1 and tier 2: address and length -/
  heap    : List (Nat × Nat) := []
  models  : List Model := []
  runners : List Runner := []
  /-- evictions that ended with BUSY and are to be retried: (partition, object ID, stamp of the retry) (R139) -/
  evictRetries : List (Nat × Nat × Stamp) := []
  /-- fault reports that units have sent and the classifier has not yet received (R607) -/
  reports : List (FaultReport × Stamp) := []
  spn     : SpnStores := {}
  /-- results of Spindle descriptors, in the order in which they were sent -/
  spnOut  : List SpnResult := []
  /-- the Spindle and Lathe error logs, oldest entry first, at most 64 (R186, R320) -/
  spnLog  : List Reg := []
  lthLog  : List Reg := []
  /-- what the last register read with an effect of its own returned -/
  lastRead : Reg := 0
  lathes  : List Lathe := []
  wakes   : List WakeReq := []
  /-- wake ramps: end of the window and charge; Lathe grants made, by stamp, latest first; the logical Lathes granted, the one
  granted last at the end (R34, R587, R588) -/
  ramps   : List (Stamp × Nat) := []
  wakeGrants : List Stamp := []
  wakeLast : List Nat := []
  /-- rows that SEND_SEL has streamed to selection units: request tag, format, rows of element patterns -/
  selIn   : List (Nat × Nat × List (List Nat)) := []
  indices : List Index := []
  merges  : List MergeJob := []
  searches : List Search := []
  coords  : List Coord := []
  maps    : List ShardMap := []
  /-- requests that the module has issued so far: the source of its tags -/
  issueSeq : Nat := 0
  gates   : List GateList := []
  /-- selections and tokenizations, in order of arrival, and the requesters that the two dispatchers have granted, the one granted
  last at the end (R34) -/
  jobs    : List UnitJob := []
  selLast : List Nat := []
  tokLast : List Nat := []
  /-- states of the four tokenizer engines: 0 off, 1 ready, 2 testing, 3 withdrawn, 4 faulted -/
  engines : List Nat := []
  vocabs  : List Vocab := []
  grammars : List Grammar := []
  /-- sequence-table entries that are not FREE; generations that have advanced past 1 (R321); entries freed since the last
  step boundary of a running step (R352) -/
  seqs    : List Seq := []
  seqGens : List (Nat × Nat) := []
  cool    : List (Nat × Nat) := []
  prefixes : List PrefixSlot := []
  /-- pieces held of the KV areas: owner value (R368), address, length -/
  kvPieces : List (Nat × Nat × Nat) := []
  prefixGens : List (Nat × Nat) := []
  /-- PREFIX_STORE commands that await a step boundary -/
  stores  : List Nat := []
  variants : List Variant := []
  /-- the trie cache (R405): the lines that it holds, each by vocabulary slot and 64-byte line of device memory -/
  trie    : List (Nat × Nat) := []
  turns   : List Turnover := []
  runs    : List ModelJob := []
  fetches : List Retrieval := []
  rags    : List Rag := []
  tables  : List EmbTable := []
  migs    : List Migration := []
  hotJobs : List HotJob := []
  embJobs : List EmbJob := []
  /-- the parameter slot claimed last (R448) -/
  embLast : Nat := 255
  /-- outputs whose frames have been put into the egress queues; those queues, oldest frame first; when each list's line is
  free, in picoseconds; the queue pairs served by (list × 8 + class), the one served last at the end (R34) -/
  framed  : Nat := 0
  egress  : List Frame := []
  lineAt  : List (Nat × Nat) := []
  served  : List (Nat × List Nat) := []
  /-- meters that have been used, with the refresh instants dealt with so far -/
  meters  : List (Nat × Meter) := []
  meterAt : Nat := 0
  telems  : List Telem := []
  telemSeq : Nat := 0
  colls   : List Coll := []
  ptp     : Ptp := {}
  /-- the management port runs at 10G after a fallback; since when it has been without link (R530) -/
  mgmt10  : Bool := false
  mgmtDown : Stamp := 0
  /-- power, CXL links, flash, faults, Calipers and boot -/
  pwr     : Pwr := {}
  cxl     : List CxlPort := []
  flash   : Flash := {}
  faults  : Faults := {}
  cal     : Cal := {}
  boot    : Boot := {}
  deriving DecidableEq, Repr, Inhabited

/-- Why a command may stop the model: no command of the block does, so there is no reason to name. Errors of the module
are its own outputs (status codes, event bits, interrupt sources, log entries). -/
inductive Fault where
  deriving DecidableEq, Repr

/-- Why a command may be turned away by the model. -/
inductive Refusal where
  /-- raised by an arm of `exec` whose meaning is not written yet; safe: nothing is claimed of it -/
  | notModelled (mnemonic : String)
  deriving DecidableEq, Repr

/-- The module right after its internal reset is released, before the boot ROM has run (R597, R631): every register at
its reset value, nothing resident, every partition DOWN, no queue pair. -/
def State.reset : State where
  parts := List.replicate 16 {}
  runners := List.replicate 16 {}
  lathes := List.replicate 56 {}
  gates := List.replicate 8 {}
  engines := List.replicate 4 0
  cxl := List.replicate 4 {}

end Sys2Proof.Machine
end

