-- ==== Sys2Proof/Machine/Operands.lean ====
section
/-! DEFINITION. How bytes are read and written: little-endian fields (R9), extension items (R52), bit masks, sums of
CRC-32C (R671), and the sparse lists that hold registers and memory. -/

namespace Sys2Proof.Machine

/-! ### Little-endian fields (R9) -/

/-- The number that a byte string spells, least significant byte first. -/
def leNat : List Byte → Nat
  | [] => 0
  | b :: bs => b.toNat + 256 * leNat bs

/-- `n` as `k` bytes, least significant first. -/
def toLE : Nat → Nat → List Byte
  | 0, _ => []
  | k + 1, n => BitVec.ofNat 8 n :: toLE k (n / 256)

/-- The field of `len` bytes at offset `off`. -/
def fieldAt (bs : List Byte) (off len : Nat) : Nat := leNat ((bs.drop off).take len)

/-- Bytes [off, off + len). -/
def slice (bs : List Byte) (off len : Nat) : List Byte := (bs.drop off).take len

/-- Reserved bytes are zero. -/
def zerosAt (bs : List Byte) (off len : Nat) : Bool := (slice bs off len).all (fun b => b == 0)

/-- `n` zero bytes. -/
def zeros (n : Nat) : List Byte := List.replicate n 0

/-- `bs` extended with zeros to `n` bytes. -/
def padTo (n : Nat) (bs : List Byte) : List Byte := bs ++ zeros (n - bs.length)

/-- `x` rounded up to a multiple of `k`. -/
def roundUp (x k : Nat) : Nat := (x + k - 1) / k * k

/-- `x / y` rounded up. -/
def ceilDiv (x y : Nat) : Nat := (x + y - 1) / y

/-- Cut a byte string into `n` pieces of `k` bytes. -/
def chunks (k : Nat) : Nat → List Byte → List (List Byte)
  | 0, _ => []
  | n + 1, bs => bs.take k :: chunks k n (bs.drop k)

/-- A 32-bit pattern read as a two's-complement number. -/
def toSigned (w x : Nat) : Int := if x < 2 ^ (w - 1) then (x : Int) else (x : Int) - 2 ^ w

/-- A number as a two's-complement pattern of `w` bits. -/
def ofSigned (w : Nat) (x : Int) : Nat := (x % (2 ^ w : Int)).toNat

/-! ### Masks -/

/-- The numbers below `n` whose bit is set in `m`. -/
def bitsOf (n m : Nat) : List Nat := (List.range n).filter (fun i => m.testBit i)

/-- How many of the low `n` bits of `m` are set. -/
def popCount (n m : Nat) : Nat := (bitsOf n m).length

/-- Bits of `m` and `k` overlap. -/
def overlaps (m k : Nat) : Bool := m &&& k != 0

/-- Every bit of `m` is one of `k`. -/
def within (m k : Nat) : Bool := m &&& k == m

/-- Clear bit `i`. -/
def clearBit (m i : Nat) : Nat := if m.testBit i then m - 2 ^ i else m

/-- Set bit `i`. -/
def setBit (m i : Nat) : Nat := if m.testBit i then m else m + 2 ^ i

/-! ### Lists -/

/-- Replace element `i` by its image. -/
def modifyAt {α : Type} (l : List α) (i : Nat) (f : α → α) : List α :=
  match l, i with
  | [], _ => []
  | x :: xs, 0 => f x :: xs
  | x :: xs, i + 1 => x :: modifyAt xs i f

/-- Replace the elements that satisfy `p`. -/
def updateWhere {α : Type} (l : List α) (p : α → Bool) (f : α → α) : List α :=
  l.map (fun x => if p x then f x else x)

/-- The value that an association list gives a key. -/
def assoc {α : Type} (l : List (Nat × α)) (k : Nat) : Option α :=
  (l.find? (fun e => e.1 == k)).map (fun e => e.2)

/-- An association list with the value of one key replaced. -/
def assocSet {α : Type} (l : List (Nat × α)) (k : Nat) (v : α) : List (Nat × α) :=
  (k, v) :: l.filter (fun e => e.1 != k)

/-- An association list without one key. -/
def assocDel {α : Type} (l : List (Nat × α)) (k : Nat) : List (Nat × α) := l.filter (fun e => e.1 != k)

/-- Insertion by a strict order, after elements that the new one does not precede. -/
def insertBy {α : Type} (lt : α → α → Bool) (x : α) : List α → List α
  | [] => [x]
  | y :: ys => if lt x y then x :: y :: ys else y :: insertBy lt x ys

/-- A stable sort by a strict order. -/
def sortBy {α : Type} (lt : α → α → Bool) (l : List α) : List α := l.foldl (fun acc x => insertBy lt x acc) []

/-- The list with later repeats of a key removed. -/
def dedupBy {α : Type} (key : α → Nat) (l : List α) : List α :=
  l.foldl (fun acc x => if acc.any (fun y => key y == key x) then acc else acc ++ [x]) []

/-- A list has a repeated number. -/
def hasRepeat : List Nat → Bool
  | [] => false
  | x :: xs => xs.contains x || hasRepeat xs

/-- The sum of a list of numbers. -/
def sumNat (l : List Nat) : Nat := l.foldl (· + ·) 0

/-- The largest of a list of numbers, 0 of none. -/
def maxNat (l : List Nat) : Nat := l.foldl max 0

/-- The smallest of a list of numbers. -/
def minNat? : List Nat → Option Nat
  | [] => none
  | x :: xs => some (xs.foldl min x)

/-- Rotating priority among numbered requesters (R34). `h` are the requesters granted so far, each once, the one granted last at the
end: a grant makes its requester the lowest, and the others keep their order, which starts as the ascending one (log entry 113). -/
def rotate (h : List Nat) (reqs : List Nat) : Option Nat :=
  match minNat? (reqs.filter (fun r => !h.contains r)) with
  | some r => some r
  | none => h.find? (fun r => reqs.contains r)

/-- The order of an arbiter after a grant to `n` (R34). -/
def granted (h : List Nat) (n : Nat) : List Nat := h.filter (fun x => x != n) ++ [n]

/-- The first number of a list after `last`, in ascending order and round again. -/
def nextAfter (last : Nat) (l : List Nat) : Option Nat :=
  match minNat? (l.filter (fun r => last < r)) with
  | some r => some r
  | none => minNat? l

/-! ### Sparse lists: registers and memory -/

/-- The value listed at a key. -/
def sparseGet {α : Type} (l : List (Nat × α)) (k : Nat) : Option α :=
  match l with
  | [] => none
  | (a, v) :: r => if a == k then some v else sparseGet r k

/-- List a value at its place. -/
def sparsePut {α : Type} (l : List (Nat × α)) (k : Nat) (v : α) : List (Nat × α) :=
  match l with
  | [] => [(k, v)]
  | (a, w) :: r => if k < a then (k, v) :: (a, w) :: r else if a == k then (k, v) :: r else (a, w) :: sparsePut r k v

/-- Remove a key. -/
def sparseErase {α : Type} (l : List (Nat × α)) (k : Nat) : List (Nat × α) := l.filter (fun e => e.1 != k)

/-- Write a value over a default: the default is not listed. -/
def sparseSet {α : Type} [DecidableEq α] (dflt : α) (l : List (Nat × α)) (k : Nat) (v : α) : List (Nat × α) :=
  if v = dflt then sparseErase l k else sparsePut l k v

/-- Keys strictly rising. -/
def rising {α : Type} : List (Nat × α) → Bool
  | [] => true
  | [_] => true
  | (a, _) :: (b, w) :: r => Nat.blt a b && rising ((b, w) :: r)

/-- The one canonical form of memory: addresses strictly rising, no entry at what an unlisted address reads as. -/
def Memory.wf (m : List (Nat × Byte)) : Bool := rising m && m.all (fun e => e.2 != 0)

/-- The one canonical form of the registers: addresses strictly rising, no entry at its reset value. -/
def Csr.wf (l : List (Nat × Reg)) : Bool := rising l && l.all (fun e => e.2 != resetValue e.1)

/-! ### Extension items (R52) -/

/-- An item as bytes: type, value length, value, padded to a multiple of 8. -/
def itemBytes (i : Item) : List Byte :=
  padTo (roundUp (4 + i.val.length) 8) (toLE 2 i.type ++ toLE 2 i.val.length ++ i.val)

/-- The extension area of a list of items. -/
def itemsBytes (l : List Item) : List Byte := l.flatMap itemBytes

/-- Parse an extension area (R52): none where an item does not fit, or where bytes after the end item are not zero. The bytes between
an item's value and the next multiple of 8 are not looked at, and the value-length bytes of the end item count as bytes after it
(log entry 83). -/
def parseItems : Nat → List Byte → Option (List Item)
  | 0, bs => if bs.isEmpty then some [] else none
  | fuel + 1, bs =>
    if bs.isEmpty then some []
    else
      let ty := fieldAt bs 0 2
      let n := fieldAt bs 2 2
      if ty == 0 then (if bs.all (fun b => b == 0) then some [] else none)
      else if bs.length < 4 + n then none
      else (parseItems fuel (bs.drop (roundUp (4 + n) 8))).map (fun r => ⟨ty, slice bs 4 n⟩ :: r)

/-- The items at the front of an extension area up to its end or to the first that does not fit: what rows 4 and 10 of Table 2-12 see
of an area that row 11 refuses (log entry 84). -/
def itemsBefore : Nat → List Byte → List Item
  | 0, _ => []
  | fuel + 1, bs =>
    let n := fieldAt bs 2 2
    if bs.isEmpty || fieldAt bs 0 2 == 0 || bs.length < 4 + n then []
    else ⟨fieldAt bs 0 2, slice bs 4 n⟩ :: itemsBefore fuel (bs.drop (roundUp (4 + n) 8))

/-- A reference item's value (Table 2-2). -/
def refOf (i : Item) : Ref := ⟨fieldAt i.val 0 8, fieldAt i.val 8 4, fieldAt i.val 12 4⟩

/-! ### CRC-32C (R671) -/

/-- Eight bit steps of the reflected CRC-32C polynomial. -/
def crcBits : Nat → BitVec 32 → BitVec 32
  | 0, c => c
  | n + 1, c => crcBits n (if c.getLsbD 0 then (c >>> 1) ^^^ 0x82F63B78#32 else c >>> 1)

/-- CRC-32C of a byte string. -/
def crc32c (bs : List Byte) : Nat :=
  (~~~ (bs.foldl (fun c b => crcBits 8 (c ^^^ b.zeroExtend 32)) 0xFFFFFFFF#32)).toNat

end Sys2Proof.Machine
end

