-- ==== Sys2Proof/Machine/Flags.lean ====
section
/-! DEFINITION. Status codes (Table 2-6), the sources that event registers raise (Table 13-12), and the functions of
the readiness bitmap (Tables 16-9 and 16-10). -/

namespace Sys2Proof.Machine

/-! ### Status codes (R73) -/

abbrev stOk : Nat := 0x0000
abbrev stShortResult : Nat := 0x0101
abbrev stPartialCoverage : Nat := 0x0102
abbrev stDegradedPath : Nat := 0x0103
abbrev stUnknownOpcode : Nat := 0x0201
abbrev stBadVersion : Nat := 0x0202
abbrev stBadLength : Nat := 0x0203
abbrev stBadPartition : Nat := 0x0204
abbrev stBadServiceClass : Nat := 0x0205
abbrev stReservedNonzero : Nat := 0x0206
abbrev stBadExtension : Nat := 0x0207
abbrev stPayloadTooLarge : Nat := 0x0208
abbrev stFragmentSequence : Nat := 0x0209
abbrev stRefFetchFailed : Nat := 0x020A
abbrev stBadAddress : Nat := 0x020B
abbrev stStaleHandle : Nat := 0x020C
abbrev stBadParameter : Nat := 0x020D
abbrev stFeatureNotNegotiated : Nat := 0x020E
abbrev stDeadlinePassed : Nat := 0x020F
abbrev stNotPermitted : Nat := 0x0210
abbrev stUnknownObject : Nat := 0x0211
abbrev stReplySpace : Nat := 0x0212
abbrev stNoSession : Nat := 0x0213
abbrev stBusy : Nat := 0x0301
abbrev stNoSequenceSlot : Nat := 0x0302
abbrev stNoPrefixHandle : Nat := 0x0303
abbrev stQueueFull : Nat := 0x0304
abbrev stNoMemory : Nat := 0x0305
abbrev stNoGrammarSlot : Nat := 0x0306
abbrev stPlanNotAdmitted : Nat := 0x0307
abbrev stNotReady : Nat := 0x0401
abbrev stDeferred : Nat := 0x0402
abbrev stDeadlineMissed : Nat := 0x0403
abbrev stPartitionDown : Nat := 0x0404
abbrev stHwFault : Nat := 0x0501
abbrev stUncorrectableData : Nat := 0x0502
abbrev stContextTornDown : Nat := 0x0503
abbrev stTierLost : Nat := 0x0504
abbrev stInternalError : Nat := 0x0505
abbrev stCancelled : Nat := 0x0601
abbrev stStopString : Nat := 0x0602
abbrev stGrammarDeadEnd : Nat := 0x0603
abbrev stLengthLimit : Nat := 0x0604
abbrev stKvLost : Nat := 0x0605
abbrev stVersionRetired : Nat := 0x0606

/-- The class byte of a status code. -/
def statusClass (st : Nat) : Nat := st / 256

/-- A reply status that counts as refused in COUNTERS_READ (R93): class 2, 3 or 4 other than DEFERRED. -/
def countsRefused (st : Nat) : Bool :=
  (statusClass st == 2 || statusClass st == 3 || statusClass st == 4) && st != stDeferred

/-! ### Interrupt sources (Table 13-12) -/

/-- The source that any bit set in an event register raises; none for a register that is no event register. -/
def eventSource (a : Nat) : Option Nat :=
  if a == TIER_EVENT then some 0 else if a == SPN_ERR_STATUS then some 1 else if a == GGE_EVENT then some 2
  else if a == SEL_EVENT then some 3 else if a == LTH_EVENT then some 4 else if a == HDS_EVENT then some 5
  else if a == TOK_EVENT then some 6 else if a == JIG_EVENT then some 7 else if a == EMB_EVENT then some 8
  else if a == PRT_EVENT then some 9 else if a == WDN_EVENT then some 10 else if a == NET_EVENT then some 16
  else if a == PTP_EVENT then some 17 else if a == GATE_EVENT then some 18 else if a == POL_EVENT then some 19
  else if a == QTL_EVENT then some 20 else if a == CXL_EVENT then some 21 else if a == PWR_EVENT then some 22
  else if a == CAL_EVENT then some 25 else if a == SEC_EVENT then some 26 else if a == BOOT_EVENT then some 27
  else none

/-! ### Readiness (Table 16-9) -/

abbrev rdyHbm : Nat := 8
abbrev rdyCxl (l : Nat) : Nat := 9 + l
abbrev rdyList (l : Nat) : Nat := 13 + l
abbrev rdyMgmt : Nat := 21
abbrev rdyRot : Nat := 22
abbrev rdyFw : Nat := 23
abbrev rdyIntake : Nat := 24
abbrev rdyLathes : Nat := 25
abbrev rdyWalkers : Nat := 26
abbrev rdySelection : Nat := 27
abbrev rdyTokenizer : Nat := 28
abbrev rdyJig : Nat := 29
abbrev rdyHeadstock : Nat := 30
abbrev rdyBlank : Nat := 31
abbrev rdyChuck : Nat := 32
abbrev rdyEmb : Nat := 33
abbrev rdyCollective : Nat := 34
abbrev rdyCalipers : Nat := 35
abbrev rdyTime : Nat := 36
abbrev rdyPartitions : Nat := 37
abbrev rdyProtection : Nat := 38

/-! ### Opcodes (Table 2-5) -/

/-- The opcodes of Table 2-5, each with whether its path is W and its reply form (0 S, 1 D, 2 DR, 3 E). -/
def opcodeTable : List (Nat × Bool × Nat) := [
  (0x0100, true, 1), (0x0101, true, 0), (0x0102, false, 1), (0x0103, true, 0), (0x0104, false, 1),
  (0x0200, false, 2), (0x0201, false, 1), (0x0202, false, 2), (0x0203, false, 1), (0x0204, false, 0),
  (0x0205, true, 0), (0x0206, true, 0), (0x0207, false, 1), (0x0208, true, 0), (0x0209, false, 2),
  (0x020A, false, 2), (0x020B, true, 0),
  (0x0300, false, 1), (0x0301, false, 1), (0x0302, false, 1), (0x0303, false, 2),
  (0x0400, false, 3), (0x0401, false, 3), (0x0402, false, 0), (0x0403, false, 1), (0x0404, false, 1),
  (0x0405, true, 0), (0x0406, false, 1), (0x0407, false, 0),
  (0x0500, false, 2), (0x0501, false, 0), (0x0502, false, 0), (0x0503, true, 1), (0x0504, true, 0),
  (0x0505, true, 0), (0x0506, true, 0),
  (0x0600, false, 2), (0x0601, false, 1), (0x0602, false, 2),
  (0x0700, false, 2), (0x0701, false, 2), (0x0702, true, 0), (0x0703, true, 1), (0x0704, true, 0)] ++ [
  (0x0800, false, 0), (0x0801, false, 2), (0x0802, false, 0), (0x0803, false, 0), (0x0804, true, 0),
  (0x0805, false, 1),
  (0x0900, true, 0), (0x0901, true, 0), (0x0902, true, 0), (0x0903, true, 0), (0x0904, true, 0),
  (0x0905, false, 0), (0x0906, false, 0), (0x0907, false, 0),
  (0x0A00, true, 1), (0x0A01, true, 0), (0x0A02, true, 0), (0x0A03, true, 1),
  (0x0B00, true, 1), (0x0B01, true, 1), (0x0B02, true, 0),
  (0x0C00, true, 1), (0x0C01, true, 2), (0x0C02, true, 0), (0x0C03, true, 0), (0x0C04, true, 0),
  (0x0D00, true, 2), (0x0D01, false, 1), (0x0D02, true, 3), (0x0D03, true, 2)]

/-- An opcode is one of Table 2-5. -/
def opcodeKnown (op : Nat) : Bool := opcodeTable.any (fun e => e.1 == op)

/-- The opcode is carried out by the Wadin firmware (path W). -/
def slowPath (op : Nat) : Bool := opcodeTable.any (fun e => e.1 == op && e.2.1)

/-- The reply form of an opcode (Table 2-4): 0 S, 1 D, 2 DR, 3 E. -/
def replyForm (op : Nat) : Nat := ((assoc opcodeTable op).map (fun e => e.2)).getD 0

/-- The cluster that serves a slow-path opcode's class (Table 13-1). -/
def servingCluster (op : Nat) : Nat :=
  match op / 256 with
  | 0x0C => 0
  | 0x01 | 0x0B | 0x0D => 1
  | _ => 2

/-- The readiness bits that an opcode needs beside command intake (Table 16-10), where only the opcode decides. -/
def readinessNeeded (op : Nat) : List Nat :=
  if op == 0x0102 || op == 0x0104 || op == 0x0D01 then []
  else match op / 256 with
  | 0x01 | 0x0B | 0x0D => [rdyFw]
  | 0x02 => [rdyHbm, rdyWalkers, rdySelection, rdyChuck]
  | 0x03 => [rdyHbm, rdyLathes, rdySelection] ++ (if op == 0x0302 then [rdyBlank] else []) ++ [rdyChuck]
  | 0x04 => [rdyHbm, rdyLathes] ++ (if op == 0x0401 then [rdyWalkers] else []) ++
      [rdySelection, rdyTokenizer, rdyHeadstock] ++ (if op == 0x0401 then [rdyBlank] else []) ++ [rdyChuck]
  | 0x05 => [rdyHbm, rdyEmb]
  | 0x06 => [rdyHbm, rdySelection]
  | 0x07 => [rdyHbm, rdyTokenizer] ++ (if op == 0x0703 || op == 0x0704 then [rdyJig] else [])
  | 0x08 => [rdyHbm, rdyChuck]
  | 0x09 => if op == 0x0900 || op == 0x0901 then [rdyHbm, rdyChuck]
      else [rdyHbm, rdyLathes, rdyChuck] ++ (if op == 0x0907 then [rdyCollective] else [])
  | 0x0A => [rdyFw, rdyPartitions]
  | 0x0C => [rdyFw, rdyProtection]
  | _ => []

/-- The features of Table 13-3 that an opcode names by itself (R493). -/
def featuresOfOpcode (op : Nat) : List Nat :=
  if (0x0100 ≤ op && op ≤ 0x0104) || (0x0B00 ≤ op && op ≤ 0x0B02) || op == 0x0D01 then [0]
  else if op == 0x0201 || op == 0x0208 then [1, 2]
  else if 0x0200 ≤ op && op ≤ 0x020B then [1]
  else if 0x0300 ≤ op && op ≤ 0x0303 then [3]
  else if op == 0x0401 then [1, 3, 4, 10]
  else if (0x0400 ≤ op && op ≤ 0x0407) || op == 0x0902 || op == 0x0903 then [4]
  else if op == 0x0703 || op == 0x0704 then [7]
  else if 0x0500 ≤ op && op ≤ 0x0506 then [8]
  else if 0x0600 ≤ op && op ≤ 0x0602 then [9]
  else if 0x0700 ≤ op && op ≤ 0x0702 then [10]
  else if (0x0800 ≤ op && op ≤ 0x0805) || op == 0x0900 || op == 0x0901 || op == 0x0904 then [11]
  else if 0x0905 ≤ op && op ≤ 0x0907 then [12]
  else if op == 0x0A03 then [13, 14]
  else if 0x0A00 ≤ op && op ≤ 0x0A02 then [13]
  else if 0x0C00 ≤ op && op ≤ 0x0C04 then [15]
  else if op == 0x0D00 || op == 0x0D02 || op == 0x0D03 then [16]
  else []

end Sys2Proof.Machine
end

