-- ==== Sys2Proof/Machine/Ops.lean ====
section
/-! DEFINITION. The shared operations over the state: registers, memory, events and interrupts, the log, queue pairs,
replies and event streams. -/

namespace Sys2Proof.Machine

/-! ### Registers (R14) -/

/-- What a register holds. -/
def State.raw (s : State) (a : Nat) : Reg := (sparseGet s.csr a).getD (resetValue a)

/-- Make a register hold `v`. -/
def State.setRaw (s : State) (a : Nat) (v : Reg) : State :=
  { s with csr := sparseSet (resetValue a) s.csr a v }

/-- Bits [hi:lo] of a register. -/
def State.fld (s : State) (a hi lo : Nat) : Nat := (s.raw a).toNat / 2 ^ lo % 2 ^ (hi + 1 - lo)

/-- Bit `i` of a register. -/
def State.bit (s : State) (a i : Nat) : Bool := (s.raw a).getLsbD i

/-- Set bits [hi:lo] of a register to `v`. -/
def State.setFld (s : State) (a hi lo v : Nat) : State :=
  s.setRaw a ((s.raw a &&& ~~~ fieldMask hi lo) ||| BitVec.ofNat 64 (v % 2 ^ (hi + 1 - lo) * 2 ^ lo))

/-- Add `n` to a counter field, which saturates. -/
def State.bump (s : State) (a hi lo n : Nat) : State :=
  s.setFld a hi lo (min (s.fld a hi lo + n) (2 ^ (hi + 1 - lo) - 1))

/-! ### Interrupt controller (R521 to R528) -/

/-- The sources of group `g`. -/
def State.groupSources (s : State) (g : Nat) : List Nat :=
  (List.range 1023).filter (fun n => s.fld (ICU_SRC n) 19 14 == g)

/-- A group's gate closes, and its count clears, when no source of the group is pending or in service (R524). -/
def State.icuSettle (s : State) (g : Nat) : State :=
  if s.bit (ICU_GROUP g) 40 &&
      (s.groupSources g).all (fun n => !s.bit (ICU_SRC n) 8 && !s.bit (ICU_SRC n) 9) then
    (s.setFld (ICU_GROUP g) 40 40 0).setFld (ICU_GROUP g) 56 41 0
  else s

/-- Open a group's gate: its window is over (R523). -/
def State.icuOpen (s : State) (g : Nat) : State :=
  let s1 := s.setFld (ICU_GROUP g) 40 40 1
  { s1 with icu := { s1.icu with windows := s1.icu.windows.filter (fun w => w.group != g) } }

/-- Count one event toward a group whose gate is closed (R523): the first opens the window, and the gate opens when
the count is reached or at once under R38. -/
def State.icuCount (s : State) (g : Nat) : State :=
  if s.bit (ICU_GROUP g) 40 then s
  else
    match s.icu.windows.find? (fun w => w.group == g) with
    | some w =>
      -- an event at or after the window's end finds the gate opened by that end
      if w.start + w.time ≤ s.now then s.icuOpen g
      else
        let n := s.fld (ICU_GROUP g) 56 41 + 1
        let s1 := s.setFld (ICU_GROUP g) 56 41 n
        if w.count ≤ n then s1.icuOpen g else s1
    | none =>
      let c := s.fld (ICU_GROUP g) 15 0
      let t := s.fld (ICU_GROUP g) 39 20
      let s1 := s.setFld (ICU_GROUP g) 56 41 1
      if c ≤ 1 || t == 0 then s1.icuOpen g
      else { s1 with icu := { s1.icu with windows := s1.icu.windows ++ [⟨g, s1.now, c, t⟩] } }

/-- An event or a software set on source `n`: pending, and counted, and remembered for the rest of its cycle (R527); a disabled
source and source 1,023 ignore it (R521, R522). -/
def State.icuEvent (s : State) (n : Nat) : State :=
  if 1023 ≤ n || !s.bit (ICU_SRC n) 0 then s
  else
    let s1 := (s.setFld (ICU_SRC n) 8 8 1).icuCount (s.fld (ICU_SRC n) 19 14)
    { s1 with icu := { s1.icu with struck := (n, s1.now) :: s1.icu.struck.filter (fun e => e.2 == s1.now && e.1 != n) } }

/-- Set bit `i` of an event register and raise the register's interrupt source. -/
def State.event (s : State) (a i : Nat) : State :=
  let s1 := s.setRaw a (s.raw a ||| BitVec.ofNat 64 (2 ^ i))
  match eventSource a with
  | some n => s1.icuEvent n
  | none => s1

/-! ### Memory (R26 to R31, R670) -/

/-- A veil lies over an address. -/
def Veil.covers (v : Veil) (a : Nat) : Bool :=
  v.lo ≤ a && a < v.hi && !(v.holes.contains ((v.at_ + (a - v.lo) - v.base) / 4096 % v.n))

/-- What an address reads as where memory lists nothing: 0, or a free value under a veil. -/
def veilByte (vs : List Veil) (a : Nat) : Byte :=
  match vs.find? (fun v => v.covers a) with
  | some v => Config.freeByte v.tok (v.at_ + (a - v.lo))
  | none => 0

/-- What is left of a veil when [a, a + n) has been written. -/
def Veil.cut (v : Veil) (a n : Nat) : List Veil :=
  if a + n ≤ v.lo || v.hi ≤ a then [v]
  else
    (if v.lo < a then [{ v with hi := a }] else []) ++
    (if a + n < v.hi then [{ v with lo := a + n, at_ := v.at_ + (a + n - v.lo) }] else [])

/-- What is left of veils when [a, a + n) has been written. -/
def cutVeil (vs : List Veil) (a n : Nat) : List Veil := vs.flatMap (fun v => v.cut a n)

/-- The veils over [src, src + n), as they lie over its copy at `dst`. -/
def copyVeil (vs : List Veil) (src dst n : Nat) : List Veil :=
  (vs.filter (fun v => max v.lo src < min v.hi (src + n))).map (fun v =>
    { v with lo := dst + (max v.lo src - src), hi := dst + (min v.hi (src + n) - src), at_ := v.at_ + (max v.lo src - v.lo) })

/-- The byte at an address. -/
def State.byte (s : State) (a : Nat) : Byte := (sparseGet s.mem a).getD (veilByte s.veil a)

/-- `n` bytes from an address. -/
def State.bytes (s : State) (a n : Nat) : List Byte := (List.range n).map (fun i => s.byte (a + i))

/-- The little-endian number of `n` bytes at an address. -/
def State.num (s : State) (a n : Nat) : Nat := leNat (s.bytes a n)

/-- The nonzero bytes of a byte string that starts at an address, listed. -/
def listBytes : Nat → List Byte → List (Nat × Byte)
  | _, [] => []
  | a, b :: bs => if b = 0 then listBytes (a + 1) bs else (a, b) :: listBytes (a + 1) bs

/-- Write a byte string into sparse memory: what is listed below it, its own nonzero bytes, what is listed above it. -/
def memWrite (m : List (Nat × Byte)) (a : Nat) (bs : List Byte) : List (Nat × Byte) :=
  m.filter (fun e => Nat.blt e.1 a) ++ (listBytes a bs ++ m.filter (fun e => Nat.ble (a + bs.length) e.1))

/-- The bursts that [a, a + n) touches. -/
def burstsOf (a n : Nat) : List Nat :=
  if n == 0 then [] else (List.range ((a + n - 1) / 64 - a / 64 + 1)).map (fun i => a / 64 + i)

/-- Burst `b` lies whole inside [a, a + n). -/
def burstWhole (a n b : Nat) : Bool := a ≤ b * 64 && b * 64 + 64 ≤ a + n

/-- Some byte of [a, a + n) reads uncorrectable. -/
def State.isUe (s : State) (a n : Nat) : Bool := (burstsOf a n).any (fun b => s.ue.contains b)

/-! ### Partitions -/

/-- A partition's own state beside its registers. -/
def State.part (s : State) (p : Nat) : Part := s.parts.getD p {}

/-- Change a partition's own state. -/
def State.setPart (s : State) (p : Nat) (f : Part → Part) : State := { s with parts := modifyAt s.parts p f }

/-- The state code of a partition (Table 12-2). -/
def State.partState (s : State) (p : Nat) : Nat := s.fld (PRT_PART_CTRL p) 5 4

/-- The state code of a context (Table 12-9). -/
def State.ctxState (s : State) (p c : Nat) : Nat := s.fld (PRT_CTX_CFG p c) 50 48

/-- Base of the partition's region (R30). -/
def State.regionBase (s : State) (p : Nat) : Nat := (s.part p).assign.base * 2 ^ 32

/-- Size of the partition's region: 4 GiB for each user pseudo-channel owned. -/
def State.regionSize (s : State) (p : Nat) : Nat := popCount 240 (s.part p).assign.pch * 2 ^ 32

/-- [a, a + n) lies in the partition's region (R29, R30). -/
def State.inRegion (s : State) (p a n : Nat) : Bool :=
  s.regionBase p ≤ a && a + n ≤ s.regionBase p + s.regionSize p

/-- Base of a CXL link's range (Table 1-4). -/
def cxlBase (l : Nat) : Nat := 0x0100_0000_0000 + l * 0x0200_0000_0000

/-- The link whose range holds an address. -/
def cxlLinkOf (a : Nat) : Option Nat :=
  if 0x0100_0000_0000 ≤ a && a < 0x0900_0000_0000 then some ((a - 0x0100_0000_0000) / 0x0200_0000_0000) else none

/-- The physical pseudo-channel of a stack that holds a logical number (R19). -/
def State.physPch (s : State) (stack logical : Nat) : Option Nat :=
  ((List.range 32).find? (fun i => s.fld (SPN_ENGINE (stack * 32 + i)) 39 32 == logical)).map (fun i => stack * 32 + i)

/-- The global pseudo-channel that a device address of HBM resides in, and its byte offset there (R29, R31). The bytes of a
pseudo-channel that has no device address are kept above the 48-bit address space (`State.spnAddr`). -/
def State.pchOf (s : State) (a : Nat) : Option (Nat × Nat) :=
  if a < 0x00F0_0000_0000 then
    match (List.range 16).find? (fun p => s.regionBase p ≤ a && a < s.regionBase p + s.regionSize p) with
    | none => none
    | some p =>
      let l := bitsOf 240 (s.part p).assign.pch
      let g := (a - s.regionBase p) / 4096
      let u := l.getD (g % l.length) 0
      (s.physPch (u / 30) (u % 30)).map (fun x => (x, g / l.length * 4096 + a % 4096))
  else if a < 0x0100_0000_0000 then
    let k := (a - 0x00F0_0000_0000) / 2 ^ 32
    (s.physPch (k / 2) (30 + k % 2)).map (fun x => (x, a % 2 ^ 32))
  else if 2 ^ 48 ≤ a then some ((a - 2 ^ 48) / 2 ^ 32, a % 2 ^ 32)
  else none

/-- Put an entry into the Spindle error log of 64 entries; a full log drops it and sets LOG_OVERFLOW (R186). -/
def State.spnLogPut (s : State) (kind g opcode part entry : Nat) : State :=
  if 64 ≤ s.spnLog.length then s.event SPN_ERR_STATUS 0
  else
    { s with spnLog := s.spnLog ++ [BitVec.ofNat 64 (2 ^ 63 + kind * 2 ^ 59 + g / 32 * 2 ^ 56 + g % 32 * 2 ^ 51 +
        opcode * 2 ^ 43 + part * 2 ^ 39 + entry)] }

/-- Send a fault report to the classifier, with the stamp at which the event was detected (R607). -/
def State.report (s : State) (f : FaultReport) : State := { s with reports := s.reports ++ [(f, s.now)] }

/-- Report an uncorrectable read of memory (R181): HBM against its pseudo-channel and row, a Tool store way, or a CXL
link, whose POISON counts it (R604). `opcode` and `part` are those of the operation, 0 where there is none. -/
def State.memUe (s : State) (a opcode part : Nat) : State :=
  match s.pchOf a with
  | some (g, off) =>
    ((s.event SPN_ERR_STATUS 2).spnLogPut 2 g opcode part (off / 64)).report
      ⟨1, g, Config.dramRow off, .uncorrectable⟩
  | none =>
    match cxlLinkOf a with
    | some l => (s.bump (CXL_ERR_CNT l) 47 32 1).report ⟨13, l, 0, .uncorrectable⟩
    | none => s.report ⟨8, (a - 0x0F00_0000_0000) / 0x30_0000, 0, .uncorrectable⟩

/-- Report a read that was corrected (R181), as `memUe` reports one that was not. -/
def State.memCe (s : State) (a opcode part : Nat) : State :=
  match s.pchOf a with
  | some (g, off) =>
    ((s.event SPN_ERR_STATUS 1).spnLogPut 1 g opcode part (off / 64)).report
      ⟨1, g, Config.dramRow off, .corrected⟩
  | none =>
    match cxlLinkOf a with
    | some l => s.report ⟨13, l, 0, .corrected⟩
    | none => s.report ⟨8, (a - 0x0F00_0000_0000) / 0x30_0000, 0, .corrected⟩

/-- Report an uncorrectable read by a command. -/
def State.dramUe (s : State) (a : Nat) : State := s.memUe a 0 0

/-- Corrected errors in what a command reads from memory are reported, each burst as it is read (R181). -/
def State.readCe (s : State) (a n : Nat) : State :=
  ((burstsOf a n).filter (fun b => s.ce.contains b)).foldl (fun s b => s.memCe (b * 64) 0 0) s

/-- A burst that is read with a correctable error is corrected and counted (R181). -/
def State.noteCe (s : State) (part b : Nat) : State := if s.ce.contains b then s.memCe (b * 64) 0 part else s

/-- Some burst that the write covers in part only reads uncorrectable (R670). -/
def State.partialUe (s : State) (a n : Nat) : Bool :=
  (burstsOf a n).any (fun b => s.ue.contains b && !burstWhole a n b)

/-- Write bytes to memory: a burst written whole becomes readable; one written in part stays poisoned if it read
uncorrectable, and each such read is reported (R182, R670). A burst that is written holds a correctable error no more. -/
def State.store (s : State) (a : Nat) (bs : List Byte) : State :=
  let n := bs.length
  let s1 := { s with
    mem := memWrite s.mem a bs
    veil := cutVeil s.veil a n
    ue := s.ue.filter (fun b => !burstWhole a n b)
    ce := s.ce.filter (fun b => !(burstsOf a n).contains b) }
  ((burstsOf a n).filter (fun b => (s.ue.contains b || s.ce.contains b) && !burstWhole a n b)).foldl (fun t b =>
    if s.ue.contains b then t.dramUe (b * 64) else t.memCe (b * 64) 0 0) s1

/-- Write zeros over [a, a + n). -/
def State.zeroRange (s : State) (a n : Nat) : State :=
  { s with
    mem := s.mem.filter (fun e => !(a ≤ e.1 && e.1 < a + n))
    veil := cutVeil s.veil a n
    ue := s.ue.filter (fun b => !burstWhole a n b)
    ce := s.ce.filter (fun b => !burstWhole a n b) }

/-- Write a burst with the poison pattern (R182). -/
def State.poison (s : State) (b : Nat) : State :=
  if s.ue.contains b then s else { s with ue := s.ue ++ [b] }

/-- [a, a + n) lies in the partition's range of one CXL link, below the capacity of the device there (R27). -/
def State.inCxl (s : State) (p a n : Nat) : Bool :=
  match cxlLinkOf a with
  | none => false
  | some l =>
    let r := (s.part p).assign.cxl.getD l (0, 0, 0)
    let lo := cxlBase l + r.2.1 * 2 ^ 30
    let hi := min (lo + r.2.2 * 2 ^ 30) (cxlBase l + s.fld (CXL_LINK l) 51 40 * 2 ^ 30)
    r.1 != 0 && lo ≤ a && a + n ≤ hi

/-- [a, a + n) is memory of the partition, in tier 1 or tier 2. -/
def State.owns (s : State) (p a n : Nat) : Bool := s.inRegion p a n || s.inCxl p a n

/-- The pseudo-channels of a partition's region, as user indices in ascending order: L of R29. -/
def State.regionPchs (s : State) (p : Nat) : List Nat := bitsOf 240 (s.part p).assign.pch

/-- Where an address of a partition's region resides: (user pseudo-channel, byte offset) (R29). -/
def State.interleave (s : State) (p a : Nat) : Nat × Nat :=
  let l := s.regionPchs p
  let off := a - s.regionBase p
  let g := off / 4096
  if l.length == 0 then (0, 0) else (l.getD (g % l.length) 0, g / l.length * 4096 + a % 4096)

/-- The device address of a byte offset of a user pseudo-channel, in the region that owns it (R29). -/
def State.deinterleave (s : State) (u off : Nat) : Option Nat :=
  ((List.range 16).find? (fun p => (s.part p).assign.pch.testBit u)).map (fun p =>
    let l := s.regionPchs p
    s.regionBase p + (off / 4096 * l.length + l.idxOf u) * 4096 + off % 4096)

/-- The windows of Table 1-4. -/
def toolWay (w : Nat) : Nat := 0x0F00_0000_0000 + w * 0x30_0000
def latheWindow (n : Nat) : Nat := 0x0F80_0000_0000 + n * 0x0100_0000

/-- The ranges of Table 1-4 that memory backs (R26, R27), first byte and first byte after: regions, reserved pseudo-channels other
than spares in use (R617), CXL devices, Tool store ways, Lathe buffers. -/
def State.ranges (s : State) : List (Nat × Nat) :=
  (List.range 16).map (fun p => (s.regionBase p, s.regionBase p + s.regionSize p)) ++
  ((List.range 16).filter (fun k => (s.physPch (k / 2) (30 + k % 2)).isSome)).map (fun k =>
    (0x00F0_0000_0000 + k * 2 ^ 32, 0x00F0_0000_0000 + (k + 1) * 2 ^ 32)) ++
  (List.range 4).map (fun l => (cxlBase l, cxlBase l + s.fld (CXL_LINK l) 51 40 * 2 ^ 30)) ++
  [(0x0F00_0000_0000, 0x0F00_0C00_0000)] ++
  (List.range 56).map (fun n => (latheWindow n, latheWindow n + 0x50_0000))

/-- Every byte of [a, hi) lies in one of the ranges: as far as the first range reaches, and on from its end. -/
def covered : Nat → List (Nat × Nat) → Nat → Nat → Bool
  | 0, _, _, _ => false
  | n + 1, rs, a, hi =>
    match rs.find? (fun r => r.1 ≤ a && a < r.2) with
    | none => false
    | some r => hi ≤ r.2 || covered n rs r.2 hi

/-- Every byte of [a, a + n), at least one, lies in a range of Table 1-4. -/
def State.listed (s : State) (a n : Nat) : Bool := covered 93 s.ranges a (a + n)

/-- A read of these ranges, by an operation for a partition, reports every corrected burst and its first uncorrectable one (R181). -/
def State.noteRead (s : State) (op part : Nat) (rs : List (Nat × Nat)) : State :=
  let bs := rs.flatMap (fun r => burstsOf r.1 r.2)
  let s1 := (bs.filter (fun b => s.ce.contains b)).foldl (fun s b => s.memCe (b * 64) op part) s
  match bs.find? (fun b => s.ue.contains b) with
  | some b => s1.memUe (b * 64) op part
  | none => s1

/-- The canonical forms of memory and of the registers hold. -/
def Canonical (s : State) : Prop := Memory.wf s.mem = true ∧ Csr.wf s.csr = true

/-! ### Free values and readiness -/

/-- The number of the next free value. -/
def State.tick (s : State) : State := { s with freeCtr := s.freeCtr + 1 }

/-- A readiness bit is set (R635). -/
def State.ready (s : State) (b : Nat) : Bool := s.bit BOOT_READY b

/-- A readiness bit changes: its stamp is recorded and source 27 is raised (R635). -/
def State.setReady (s : State) (b : Nat) (v : Bool) : State :=
  if s.ready b == v then s
  else
    let s1 := s.setFld BOOT_READY b b (if v then 1 else 0)
    (s1.setRaw BOOT_READY_STAMP (BitVec.ofNat 64 s1.now)).event BOOT_EVENT 0

/-! ### The log ring (R517) -/

/-- The bytes of a log entry (Table 13-10). -/
def logEntry (seq stamp writer sev part kind code : Nat) (body : List Byte) : List Byte :=
  toLE 8 seq ++ toLE 8 stamp ++ toLE 1 writer ++ toLE 1 sev ++ toLE 1 part ++ toLE 1 kind ++ toLE 2 code ++
    toLE 2 body.length ++ padTo 40 (body.take 40)

/-- Address of the secondary copy's log ring; none when the firmware keeps one copy (R615). -/
def State.logBase2 (s : State) : Option Nat :=
  let k := s.fld BOOT_PCH_SPARES 55 48
  if k == 255 then none else some (0x00F0_0000_0000 + k * 2 ^ 32 + 0x200_0000)

/-- Put an entry into its slot of the ring, in both copies of the firmware region (R615). -/
def State.logPut (s : State) (seq : Nat) (e : List Byte) : State :=
  let s1 := s.store (s.fld WDN_LOG_BASE 47 0 + seq % 262144 * 64) e
  match s.logBase2 with
  | some b => s1.store (b + seq % 262144 * 64) e
  | none => s1

/-- The logger writes an entry, whole, with the next sequence number and the present stamp. Before the firmware region
is in HBM (boot step 11) the logger holds it (log entry 9). -/
def State.log (s : State) (writer sev part kind code : Nat) (body : List Byte) : State :=
  let seq := (s.raw WDN_LOG_SEQ).toNat
  let e := logEntry seq s.now writer sev part kind code body
  let s1 := s.setRaw WDN_LOG_SEQ (BitVec.ofNat 64 (seq + 1))
  if s.fld WDN_LOG_BASE 47 0 == 0 then { s1 with fw := { s1.fw with logHeld := s1.fw.logHeld ++ [e] } }
  else s1.logPut seq e

/-- The physical core that writes for a cluster: its active core of lowest logical number. -/
def State.writerOf (s : State) (k : Nat) : Nat :=
  let act := (List.range 20).filter (fun c => c / 5 == k && (s.fw.cores.getD c {}).logical != 255)
  match minNat? (act.map (fun c => (s.fw.cores.getD c {}).logical)) with
  | some l => (act.find? (fun c => (s.fw.cores.getD c {}).logical == l)).getD 255
  | none => 255

/-- A log entry of a kind and partition whose severity, event code and body the spec does not state: they are free
(log entry 10). -/
def State.logFree (s : State) (writer part kind : Nat) : State :=
  let n := s.freeCtr
  (s.tick).log writer (Config.freeBelow n 6) part kind (Config.freeBelow (n + 1) 65536)
    ((List.range (Config.freeBelow (n + 2) 41)).map (Config.freeByte n))

/-- A trace point of an area is reached (R519): which number within the area it has is not stated and is free. -/
def State.trace (s : State) (site lo : Nat) : State :=
  let pt := lo + Config.freeBelow site 32
  if s.bit WDN_CTRL 1 && s.bit (WDN_TRACE_EN (pt / 64)) (pt % 64) then
    s.tick.log (s.writerOf 1) 0 255 0 pt []
  else s

/-! ### Queue pairs -/

/-- The queue pair of an index. -/
def State.qp? (s : State) (i : Nat) : Option Qp := s.qps.find? (fun q => q.index == i)

/-- The feature set agreed for commands of an intake stamp (R492). -/
def Qp.agreed (q : Qp) (intake : Stamp) : BitVec 128 := if q.helloAt.any (fun t => intake ≤ t) then q.featsOld else q.feats

/-- Change a queue pair. -/
def State.setQp (s : State) (i : Nat) (f : Qp → Qp) : State :=
  { s with qps := updateWhere s.qps (fun q => q.index == i) f }

/-- Change the counters of a queue pair; each saturates at its maximum (R93). -/
def State.count (s : State) (i : Nat) (f : QpCounts → QpCounts) : State :=
  s.setQp i (fun q =>
    let c := f q.counts
    let m := 2 ^ 64 - 1
    { q with counts := ⟨min c.badMagic m, min c.unmatched m, min c.events m, min c.refused m, min c.requests m,
        min c.replies m, min c.eventsOut m, min c.fragments m⟩ })

/-- The host receive size that packets of a queue pair must fit (R67). -/
def State.recvSize (s : State) (i : Nat) : Nat :=
  match (s.qp? i).bind (fun q => q.session) with
  | some e => e.recv
  | none => 4096

/-- The module queues something for transmission. -/
def State.emit (s : State) (o : Out) : State := { s with sent := s.sent ++ [o] }

/-- A queue pair can carry packets: it exists and is not in the error state (R90). -/
def State.qpLive (s : State) (i : Nat) : Bool :=
  match s.qp? i with
  | some q => !q.error
  | none => false

/-! ### Replies (R46, R47, R51, R63, R67, R74, R75) -/

/-- The 32-byte header of a packet that the module sends (Table 2-1): the magic, and the device's own format version 0x10 (R47). -/
def Pkt.header (p : Pkt) : List Byte :=
  toLE 2 0x5A46 ++ toLE 1 0x10 ++ toLE 1 p.flags ++ toLE 2 p.hdr.opcode ++ toLE 2 p.status ++ toLE 1 p.hdr.partition ++
    toLE 1 p.hdr.svc ++ toLE 2 (itemsBytes p.items).length ++ toLE 4 p.payload.length ++ toLE 8 p.hdr.tag ++
    toLE 8 p.hdr.deadline

/-- The SEND message of a packet (R40, R46): header, extension bytes, payload bytes. -/
def Pkt.bytes (p : Pkt) : List Byte := p.header ++ itemsBytes p.items ++ p.payload

/-- The packet of a reply: reply flag, and the urgent flag of the request. -/
def replyPkt (h : Hdr) (more : Bool) (st : Nat) (items : List Item) (payload : List Byte) : Pkt :=
  ⟨h, 1 + (if more then 2 else 0) + (if h.urgent then 8 else 0), st, items, payload⟩

/-- The later fragments of a reply: each as large as the receive size allows. -/
def restFragments (h : Hdr) (recv st : Nat) : Nat → List Byte → List Pkt
  | 0, _ => []
  | n + 1, bs =>
    if bs.length + 32 ≤ recv then [replyPkt h false st [] bs]
    else replyPkt h true st [] (bs.take (recv - 32)) :: restFragments h recv st n (bs.drop (recv - 32))

/-- A reply as packets that fit the receive size (R67); the first of several carries the items and a total length
(R64). -/
def replyPkts (recv : Nat) (h : Hdr) (st : Nat) (items : List Item) (payload : List Byte) : List Pkt :=
  if 32 + (itemsBytes items).length + payload.length ≤ recv then [replyPkt h false st items payload]
  else
    let its := items ++ [⟨6, toLE 4 payload.length⟩]
    let room := recv - 32 - (itemsBytes its).length
    replyPkt h true st its (payload.take room) :: restFragments h recv st payload.length (payload.drop room)

/-- The journal holds a COMMIT record of the command, and its reply has been queued from it (R512). -/
def Journaled.replied (j : Journaled) : Bool :=
  match j.kind with
  | .commit _ _ _ r => r
  | _ => false

/-- The journal record of a command becomes COMMIT, with the reply, and replied in the same action (R511, R512). -/
def State.committed (s : State) (id st : Nat) (items : List Item) (data : List Byte) : State :=
  let put (j : Journaled) : Journaled :=
    if j.cmd == id && !j.replied then { j with kind := .commit st items data true, records := j.records + 1, payload := data } else j
  { s with fw := { s.fw with journal := s.fw.journal.map put } }

/-- A command leaves the outstanding set. -/
def State.dropCmd (s : State) (id : Nat) : State :=
  { s with
    cmds := s.cmds.filter (fun c => c.id != id)
    fw := { s.fw with
      work := s.fw.work.filter (fun i => i != id)
      journal := s.fw.journal.filter (fun j => j.cmd != id || j.replied) } }

/-- Queue a reply on a queue pair, whole or in fragments, and count it once; nothing is sent on a queue pair in the
error state (R90). -/
def State.sendReply (s : State) (h : Hdr) (st : Nat) (items : List Item) (payload : List Byte) : State :=
  if s.qpLive h.qp then
    let s1 := { s with sent := s.sent ++ (replyPkts (s.recvSize h.qp) h st items payload).map Out.packet }
    s1.count h.qp (fun c => { c with replies := c.replies + 1, refused := c.refused + if countsRefused st then 1 else 0 })
  else s

/-- A command's reply: it is queued and the command is outstanding no longer (R55). -/
def State.reply (s : State) (c : Cmd) (st : Nat) (items : List Item) (payload : List Byte) : State :=
  ((s.sendReply c.hdr st items payload).committed c.id st items payload).dropCmd c.id

/-- A retry-hint item, in µs (R75). -/
def retryHint (us : Nat) : Item := ⟨5, toLE 4 (min us 0xFFFF_FFFF)⟩

/-- A refusal without a payload. -/
def State.refuse (s : State) (c : Cmd) (st : Nat) : State := s.reply c st [] []

/-- A refusal with BUSY or NOT_READY and its retry hint; a hint the spec does not state is a free value (log entry
11). -/
def State.refuseHint (s : State) (c : Cmd) (st us : Nat) : State := s.reply c st [retryHint us] []

/-- A refusal with BUSY whose hint the spec leaves open. -/
def State.refuseBusy (s : State) (c : Cmd) : State :=
  s.tick.refuseHint c stBusy (Config.freeBelow s.freeCtr (2 ^ 32))

/-- A refusal with NOT_READY whose hint the spec leaves open. -/
def State.refuseNotReady (s : State) (c : Cmd) : State :=
  s.tick.refuseHint c stNotReady (Config.freeBelow s.freeCtr (2 ^ 32))

/-- Reply data of form D or DR (R63): by RDMA WRITE where the request carries a reply reference that is long enough. -/
def State.replyData (s : State) (c : Cmd) (st : Nat) (items : List Item) (data : List Byte) : State :=
  match c.replyRef with
  | none => s.reply c st items data
  | some r =>
    if r.len < data.length then s.reply c stReplySpace [] (toLE 8 data.length)
    else if s.qpLive c.hdr.qp then (s.emit (.rdmaWrite c.hdr.qp r.addr r.key data)).reply c st items []
    else s.reply c st items []

/-- The status field of R74: the lowest applicable 0x01xx code, or OK. -/
def partialStatus (short part degraded : Bool) : Nat :=
  if short then stShortResult else if part then stPartialCoverage else if degraded then stDegradedPath else stOk

/-- The summary item of Table 2-7. -/
def summaryItem (short part degraded : Bool) (fallbacks coverage found : Nat) : Item :=
  ⟨4, toLE 2 ((if short then 1 else 0) + (if part then 2 else 0) + (if degraded then 4 else 0)) ++ toLE 2 0 ++
    toLE 4 fallbacks ++ toLE 4 coverage ++ toLE 4 found⟩

/-- The items of a reply with these conditions: the summary whenever the status is of class 0x01xx. -/
def summaryItems (short part degraded : Bool) (fallbacks coverage found : Nat) : List Item :=
  if short || part || degraded then [summaryItem short part degraded fallbacks coverage found] else []

/-! ### Outstanding commands -/

/-- An outstanding command by its number. -/
def State.cmd? (s : State) (id : Nat) : Option Cmd := s.cmds.find? (fun c => c.id == id)

/-- End a command that has not ended yet, with a status. -/
def State.endWith (s : State) (id status : Nat) : State :=
  match s.cmd? id with
  | some c => s.refuse c status
  | none => s

/-- A command whose input is still on its way leaves: its reads in flight go on counting toward the read limit of its queue pair
(R61). -/
def State.orphanReads (s : State) (id : Nat) : State :=
  match s.cmd? id with
  | none => s
  | some c => if c.issued == 0 then s else s.setQp c.hdr.qp (fun q => { q with orphans := q.orphans ++ [(id, c.issued)] })

/-- End a command that has not started. -/
def State.quit (s : State) (id status : Nat) : State := (s.orphanReads id).endWith id status

/-- A SESSION_CLOSE past its stage 1, which is never refused (R58). -/
def State.closingCmd (s : State) (id : Nat) : Bool := s.qps.any (fun q => (q.session.bind (fun e => e.closing)) == some id)

/-- Change an outstanding command. -/
def State.setCmd (s : State) (id : Nat) (f : Cmd → Cmd) : State :=
  { s with cmds := updateWhere s.cmds (fun c => c.id == id) f }

/-- A change at this instant reaches the commands of a partition whose intake stamp is the same and that have not started (R41, R358,
R457). -/
def State.resnap (s : State) (p : Nat) (f : Snap → Snap) : State :=
  let later (c : Cmd) : Bool := c.hdr.partition == p && s.now ≤ c.intake && c.phase != .started
  { s with cmds := updateWhere s.cmds later (fun c => { c with snap := f c.snap }) }

/-- Commands of a queue pair that are outstanding. -/
def State.outstanding (s : State) (i : Nat) : List Cmd := s.cmds.filter (fun c => c.hdr.qp == i)

/-- The checks of a payload's shape: its length (BAD_PARAMETER, as R58 gives it for SESSION_CLOSE; log entry 13), then
its reserved bytes (RESERVED_NONZERO). -/
def State.shaped (s : State) (c : Cmd) (n : Nat) (resv : List (Nat × Nat)) (k : State → State) : State :=
  if c.input.length != n then s.refuse c stBadParameter
  else if resv.any (fun r => !zerosAt c.input r.1 r.2) then s.refuse c stReservedNonzero
  else k s

/-! ### Event streams (R84 to R89) -/

/-- The 16-byte prefix of Table 2-9. -/
def eventPrefix (seq kind : Nat) (final : Bool) (items body : Nat) : List Byte :=
  toLE 4 seq ++ toLE 2 kind ++ toLE 1 (if final then 1 else 0) ++ toLE 1 0 ++ toLE 4 items ++ toLE 4 body

/-- The body of a run of held items (R85): for tokens, the IDs and then the texts; for telemetry, the samples. -/
def eventBody (its : List (List Byte × List Byte)) : List Byte :=
  its.flatMap (fun i => i.1) ++ its.flatMap (fun i => i.2)

/-- How many leading items fit into `room` bytes of body, at least one. -/
def fitItems (room : Nat) : List (List Byte × List Byte) → Nat
  | [] => 0
  | i :: is => if i.1.length + i.2.length ≤ room then 1 + fitItems (room - i.1.length - i.2.length) is else 0

/-- Split held items into runs that each fit `room` bytes of body, in order (R68). -/
def splitItems (room : Nat) : Nat → List (List Byte × List Byte) → List (List (List Byte × List Byte))
  | 0, _ => []
  | n + 1, its =>
    if its.isEmpty then []
    else
      let k := max 1 (fitItems room its)
      its.take k :: splitItems room n (its.drop k)

/-- An event packet: the event flag is set and the reply flag clear (R51). -/
def eventPkt (st : Stream) (seq status : Nat) (final : Bool) (its : List (List Byte × List Byte))
    (usage : List Byte) (items : List Item) : Pkt :=
  let body := eventBody its ++ usage
  ⟨st.hdr, 4, status, items, eventPrefix seq st.kind final its.length body.length ++ body⟩

/-- Send the held items of a stream as event packets that fit the receive size, and close its window (R68, R86). -/
def State.flushStream (s : State) (st : Stream) : State × Stream :=
  let runs := splitItems (s.recvSize st.hdr.qp - 48) st.held.length st.held
  let pkts := runs.zipIdx.map (fun r => eventPkt st (st.seqNo + r.2) stOk false r.1 [] [])
  let st' := { st with
    seqNo := st.seqNo + runs.length, held := [], window := none
    begun := st.begun || !runs.isEmpty, sent := st.sent + st.held.length }
  if s.qpLive st.hdr.qp then
    (({ s with sent := s.sent ++ pkts.map Out.packet }).count st.hdr.qp
      (fun c => { c with eventsOut := c.eventsOut + runs.length }), st')
  else (s, st')

/-- Send a stream's final event at once with its held items (R88): the final flag, the usage block and the summary go
on the last packet only (R68). `usage` is built from the delivered count. -/
def State.finalEvent (s : State) (st : Stream) (status : Nat) (usage : Nat → List Byte) (items : List Item) : State :=
  let total := st.sent + st.held.length
  let u := usage total
  let extra := u.length + (itemsBytes items).length
  let room := s.recvSize st.hdr.qp - 48
  let runs := splitItems room st.held.length st.held
  let lastFits : Bool := match runs.getLast? with
    | some r => (eventBody r).length + extra ≤ room
    | none => true
  -- where the usage block does not fit beside the last items, it goes on a packet of its own
  let runs' : List (List (List Byte × List Byte)) := if lastFits && !runs.isEmpty then runs else runs ++ [[]]
  let n := runs'.length
  let pkts := runs'.zipIdx.map (fun r =>
    if r.2 + 1 == n then eventPkt st (st.seqNo + r.2) status true r.1 u items
    else eventPkt st (st.seqNo + r.2) stOk false r.1 [] [])
  if s.qpLive st.hdr.qp then
    ({ s with sent := s.sent ++ pkts.map Out.packet }).count st.hdr.qp (fun c => { c with eventsOut := c.eventsOut + n })
  else s

/-- Hold one item of a stream (R86, R87): an item at or after the window's end first ends that window, the first item
opens a window with the session's thresholds, and the items are sent when their number reaches the count or at once
under R38. -/
def State.holdItem (s : State) (st : Stream) (item : List Byte × List Byte) : State × Stream :=
  let (s1, st1) := match st.window with
    | some w => if w.1 + w.2.2 ≤ s.now then s.flushStream st else (s, st)
    | none => (s, st)
  let sess := (s1.qp? st.hdr.qp).bind (fun q => q.session)
  let th := match sess with
    | some e => (e.evCount, e.evTime)
    | none => (1, 0)
  let w := st1.window.getD (s1.now, th.1, th.2)
  let st2 := { st1 with held := st1.held ++ [item], window := some w }
  let big := s1.recvSize st.hdr.qp < 48 + (eventBody st2.held).length
  if w.2.1 ≤ st2.held.length || w.2.2 == 0 || big then s1.flushStream st2 else (s1, st2)

end Sys2Proof.Machine
end

