-- ==== Sys2Proof/Machine/Interrupts.lean ====
section
/-! DEFINITION. The interrupt controller's own steps (R521 to R529). -/

namespace Sys2Proof.Machine

/-- Source `n` is deliverable to logical core `c` (R524, R525): pending, not in service, targeting the core, its
group's gate open, and delivery enabled. -/
def State.deliverable (s : State) (c n : Nat) : Bool :=
  s.bit ICU_CTRL 0 && s.bit (ICU_SRC n) 8 && !s.bit (ICU_SRC n) 9 && s.fld (ICU_SRC n) 23 20 == c &&
    s.bit (ICU_GROUP (s.fld (ICU_SRC n) 19 14)) 40

/-- The deliverable sources of a core in one class. -/
def State.deliverables (s : State) (c : Nat) (fast : Bool) : List Nat :=
  (List.range 1023).filter (fun n => s.deliverable c n && s.bit (ICU_SRC n) 1 == fast)

/-- The sources that a core has claimed, the one claimed last at the end, fast and normal (R34). -/
def Icu.pointers (i : Icu) (c : Nat) : List Nat × List Nat := (assoc i.last c).getD ([], [])

/-- INTERRUPT_EVENT (R522, R523): a source's pulse. -/
def interruptEventStep (n : Nat) (s : State) : State := s.icuEvent n

/-- INTERRUPT_GROUP_TIMER (R523): a group's window ends and its gate opens. -/
def interruptGroupTimerStep (g : Nat) (s : State) : State :=
  match s.icu.windows.find? (fun w => w.group == g) with
  | some w => if w.start + w.time ≤ s.now then (s.icuOpen g).icuSettle g else s
  | none => s

/-- Mark a source claimed by a core (R525) and show it in the core's ICU_CLAIM. -/
def State.claim (s : State) (c n : Nat) (fast : Bool) : State :=
  let p := s.icu.pointers c
  let p' := if fast then (granted p.1 n, p.2) else (p.1, granted p.2 n)
  let s1 := (s.setFld (ICU_SRC n) 8 8 0).setFld (ICU_SRC n) 9 9 1
  let s2 := { s1 with icu := { s1.icu with
      service := (n, c) :: s1.icu.service.filter (fun e => e.1 != n)
      last := assocSet s1.icu.last c p' } }
  s2.setRaw (ICU_CLAIM c) (BitVec.ofNat 64 (n + if fast then 1024 else 0))

/-- A core claims: the fast source chosen, or else the normal one; with neither the read returns 1,023. -/
def State.claimOf (s : State) (c : Nat) : Option Nat → Option Nat → State
  | some n, _ => s.claim c n true
  | none, some n => s.claim c n false
  | none, none => s.setRaw (ICU_CLAIM c) 1023

/-- INTERRUPT_CLAIM (R525): fast before normal, rotating within a class; with nothing to claim the read returns 1,023 and
changes nothing else. -/
def interruptClaimStep (c : Nat) (s : State) : State :=
  let p := s.icu.pointers c
  s.claimOf c (rotate p.1 (s.deliverables c true)) (rotate p.2 (s.deliverables c false))

/-- INTERRUPT_COMPLETE (R526): the core that holds a source ends its service; any other completion sets BAD_COMPLETE. -/
def interruptCompleteStep (c n : Nat) (s : State) : State :=
  if s.icu.service.contains (n, c) then
    let s1 := s.setFld (ICU_SRC n) 9 9 0
    let s2 := { s1 with icu := { s1.icu with service := s1.icu.service.filter (fun e => e.1 != n) } }
    s2.icuSettle (s2.fld (ICU_SRC n) 19 14)
  else s.setFld ICU_ERR 0 0 1

/-- INTERRUPT_PEND_SET (R522): software makes sources pending. -/
def interruptPendSetStep (i : Nat) (v : Reg) (s : State) : State :=
  (bitsOf 64 v.toNat).foldl (fun s j => s.icuEvent (64 * i + j)) s

/-- INTERRUPT_PEND_CLR (R522): software withdraws sources. One that an event has reached in the same cycle, which is the same stamp (log
entry 148), stays as it is: the event is applied last (R527). -/
def interruptPendClrStep (i : Nat) (v : Reg) (s : State) : State :=
  (bitsOf 64 v.toNat).foldl (fun s j =>
    let n := 64 * i + j
    if 1023 ≤ n || s.icu.struck.contains (n, s.now) then s else (s.setFld (ICU_SRC n) 8 8 0).icuSettle (s.fld (ICU_SRC n) 19 14)) s

end Sys2Proof.Machine
end

