-- ==== Sys2Proof/Machine/Gates.lean ====
section
/-! DEFINITION. The operational gate lists (spec/14, "Time gates"): their entries, the instant each entry ends, and which
classes are open. -/

namespace Sys2Proof.Machine

/-- A gate list beside its registers. -/
def State.gate (s : State) (l : Nat) : GateList := s.gates.getD l {}

/-- Change a gate list. -/
def State.setGate (s : State) (l : Nat) (f : GateList → GateList) : State := { s with gates := modifyAt s.gates l f }

/-- The operational list: states and duration of each entry (R549). -/
def State.operList (s : State) (l : Nat) : List (Nat × Nat) :=
  (List.range (s.fld (GATE_CTRL l) 41 33)).map (fun e => (s.fld (GATE_OPER l e) 63 56, s.fld (GATE_OPER l e) 31 0))

/-- The end of entry `e` within a cycle. -/
def entryEnd (es : List (Nat × Nat)) (e : Nat) : Nat := sumNat ((es.take (e + 1)).map (fun x => x.2))

/-- Gates follow a list: it is enabled and one has taken effect (R549). -/
def State.gated (s : State) (l : Nat) : Bool := s.bit (GATE_CTRL l) 0 && s.fld (GATE_CTRL l) 41 33 != 0

/-- The entry in force at an instant, and the instant at which it ends. -/
def State.entryAt (s : State) (l t : Nat) : Nat × Nat :=
  let es := s.operList l
  let cyc := s.fld (GATE_CYCLE l) 63 32
  let base := (s.gate l).base
  if cyc == 0 || t < base then (0, base)
  else
    let o := (t - base) % cyc
    let e := ((List.range es.length).find? (fun e => o < entryEnd es e)).getD 0
    (e, t - o + entryEnd es e)

/-- The windows of a class: the entries that open it, by their end within a cycle. -/
def classEnds (es : List (Nat × Nat)) (tc : Nat) : List Nat :=
  (List.range es.length).filterMap (fun e =>
    let x := es.getD e (0, 0)
    if x.1.testBit tc && x.2 != 0 then some (entryEnd es e) else none)

/-- The latest end of a window of a class that is after `lo` and at or before `hi` (R232). -/
def State.lastWindowEnd (s : State) (l tc lo hi : Nat) : Option Nat :=
  let cyc := s.fld (GATE_CYCLE l) 63 32
  let base := (s.gate l).base
  if !s.gated l || cyc == 0 then none
  else
    let ends := (classEnds (s.operList l) tc).filterMap (fun d =>
      if base + d ≤ hi then some (base + d + (hi - base - d) / cyc * cyc) else none)
    let good := ends.filter (fun t => lo < t)
    if good.isEmpty then none else some (maxNat good)

/-- The first end of a window of a class that is after `t` (R236). -/
def State.nextWindowEnd (s : State) (l tc t : Nat) : Option Nat :=
  let cyc := s.fld (GATE_CYCLE l) 63 32
  let base := (s.gate l).base
  if !s.gated l || cyc == 0 then none
  else
    minNat? ((classEnds (s.operList l) tc).map (fun d =>
      if t < base + d then base + d else base + d + ((t - base - d) / cyc + 1) * cyc))

end Sys2Proof.Machine
end

