-- ==== Sys2Proof/Machine/Float.lean ====
section
/-! DEFINITION. Element formats and their arithmetic (spec/07, "Element formats" to "Rounding and saturation"): values as
exact dyadic numbers, rounded to a format by round-to-nearest-even. -/

namespace Sys2Proof.Machine

/-- A value of a floating-point format: NaN, an infinity, or plus or minus `m * 2 ^ e` (R285, R286). -/
inductive Fp where
  | nan
  | inf (neg : Bool)
  | fin (neg : Bool) (m : Nat) (e : Int)
  deriving DecidableEq, Repr, Inhabited

/-- The shape of a floating-point format (Table 7-2): mantissa bits, bias, width, and the largest finite pattern. -/
structure FpFmt where
  man  : Nat
  bias : Nat
  bits : Nat
  top  : Nat
  deriving DecidableEq, Repr, Inhabited

abbrev fmtE4M3 : FpFmt := ⟨3, 7, 8, 0x7E⟩
abbrev fmtE5M2 : FpFmt := ⟨2, 15, 8, 0x7B⟩
abbrev fmtE2M1 : FpFmt := ⟨1, 1, 4, 0x7⟩
abbrev fmtBF16 : FpFmt := ⟨7, 127, 16, 0x7F7F⟩
abbrev fmtFP16 : FpFmt := ⟨10, 15, 16, 0x7BFF⟩
abbrev fmtFP32 : FpFmt := ⟨23, 127, 32, 0x7F7FFFFF⟩

/-- The value of a pattern: subnormals have no implicit one (R286); a magnitude above the largest finite one is an
infinity where the format has one and the mantissa is zero, and NaN otherwise (Table 7-2). -/
def FpFmt.value (f : FpFmt) (x : Nat) : Fp :=
  let neg := x.testBit (f.bits - 1)
  let mag := x % 2 ^ (f.bits - 1)
  if f.top < mag then (if mag == f.top + 1 && f.man != 3 then .inf neg else .nan)
  else
    let e := mag / 2 ^ f.man
    let m := mag % 2 ^ f.man
    if e == 0 then .fin neg m (1 - f.bias - f.man) else .fin neg (m + 2 ^ f.man) ((e : Int) - f.bias - f.man)

/-- `m / 2 ^ k` rounded to the nearest whole number, ties to even. -/
def rneShift (m k : Nat) : Nat :=
  let q := m / 2 ^ k
  let r := 2 * (m % 2 ^ k)
  if 2 ^ k < r || (r == 2 ^ k && q % 2 == 1) then q + 1 else q

/-- The magnitude pattern nearest to `m * 2 ^ e`, ties to even, as if the format had no largest value (R292). -/
def FpFmt.nearest (f : FpFmt) (m : Nat) (e : Int) : Nat :=
  if m == 0 then 0
  else
    let emin : Int := 1 - f.bias
    let top : Int := max (e + Nat.log2 m) emin
    let ulp : Int := top - f.man
    let q := if ulp ≤ e then m * 2 ^ (e - ulp).toNat else rneShift m (ulp - e).toNat
    (top - emin).toNat * 2 ^ f.man + q

/-- A value as an FP32 pattern: round to nearest even, overflow to infinity, canonical NaN (R288, R291). -/
def Fp.toF32 : Fp → F32
  | .nan => 0x7FC00000
  | .inf neg => if neg then 0xFF800000 else 0x7F800000
  | .fin neg m e =>
    let r := fmtFP32.nearest m e
    BitVec.ofNat 32 ((if neg then 2 ^ 31 else 0) + min r 0x7F800000)

/-- The value of an FP32 pattern. -/
def f32 (x : F32) : Fp := fmtFP32.value x.toNat

/-! ### Exact operations -/

/-- A signed sum scaled by `2 ^ e`; a sum of zero is +0 unless both operands are negative zero (IEEE 754). -/
def finAdd (n1 : Bool) (m1 : Nat) (e1 : Int) (n2 : Bool) (m2 : Nat) (e2 : Int) : Fp :=
  let e := min e1 e2
  let a : Int := m1 * 2 ^ (e1 - e).toNat
  let b : Int := m2 * 2 ^ (e2 - e).toNat
  let x := (if n1 then -a else a) + (if n2 then -b else b)
  if x == 0 then .fin (n1 && n2) 0 e else .fin (x < 0) x.natAbs e

/-- The exact sum. -/
def Fp.add : Fp → Fp → Fp
  | .nan, _ => .nan
  | _, .nan => .nan
  | .inf a, .inf b => if a == b then .inf a else .nan
  | .inf a, .fin _ _ _ => .inf a
  | .fin _ _ _, .inf b => .inf b
  | .fin n1 m1 e1, .fin n2 m2 e2 => finAdd n1 m1 e1 n2 m2 e2

/-- The negation. -/
def Fp.neg : Fp → Fp
  | .nan => .nan
  | .inf a => .inf (!a)
  | .fin n m e => .fin (!n) m e

/-- The exact product. -/
def Fp.mul : Fp → Fp → Fp
  | .nan, _ => .nan
  | _, .nan => .nan
  | .inf a, .inf b => .inf (a != b)
  | .inf a, .fin n m _ => if m == 0 then .nan else .inf (a != n)
  | .fin n m _, .inf b => if m == 0 then .nan else .inf (n != b)
  | .fin n1 m1 e1, .fin n2 m2 e2 => .fin (n1 != n2) (m1 * m2) (e1 + e2)

/-- The quotient, with enough bits for one rounding to FP32: the last bit is set when the rest is not zero. -/
def Fp.div : Fp → Fp → Fp
  | .nan, _ => .nan
  | _, .nan => .nan
  | .inf _, .inf _ => .nan
  | .inf a, .fin n _ _ => .inf (a != n)
  | .fin n _ _, .inf b => .fin (n != b) 0 0
  | .fin n1 m1 e1, .fin n2 m2 e2 =>
    if m2 == 0 then (if m1 == 0 then .nan else .inf (n1 != n2))
    else
      let k := 64 + Nat.log2 m2
      let q := m1 * 2 ^ k / m2
      let sticky := if m1 * 2 ^ k % m2 == 0 then 0 else 1
      .fin (n1 != n2) (2 * q + sticky) (e1 - e2 - k - 1)

/-- The integer square root: the largest r with r * r at most n, bit by bit from bit `k` down. -/
def isqrt (n : Nat) : Nat → Nat → Nat
  | 0, r => r
  | k + 1, r => if (r + 2 ^ k) * (r + 2 ^ k) ≤ n then isqrt n k (r + 2 ^ k) else isqrt n k r

/-- The square root, with enough bits for one rounding to FP32. -/
def Fp.sqrt : Fp → Fp
  | .nan => .nan
  | .inf neg => if neg then .nan else .inf false
  | .fin neg m e =>
    if m == 0 then .fin neg 0 0
    else if neg then .nan
    else
      let m1 := if e % 2 == 0 then m else 2 * m
      let e1 := if e % 2 == 0 then e else e - 1
      let x := m1 * 2 ^ 64
      let r := isqrt x (Nat.log2 x / 2 + 1) 0
      .fin false (2 * r + (if r * r == x then 0 else 1)) (e1 / 2 - 33)

/-- a < b; false where one is NaN. -/
def Fp.lt (a b : Fp) : Bool :=
  match a, b with
  | .nan, _ => false
  | _, .nan => false
  | .inf x, .inf y => x && !y
  | .inf x, .fin _ _ _ => x
  | .fin _ _ _, .inf y => !y
  | .fin n1 m1 e1, .fin n2 m2 e2 =>
    let e := min e1 e2
    let x : Int := m1 * 2 ^ (e1 - e).toNat
    let y : Int := m2 * 2 ^ (e2 - e).toNat
    (if n1 then -x else x) < (if n2 then -y else y)

/-- The magnitude. -/
def Fp.abs : Fp → Fp
  | .nan => .nan
  | .inf _ => .inf false
  | .fin _ m e => .fin false m e

/-- The value is NaN. -/
def Fp.isNan : Fp → Bool
  | .nan => true
  | _ => false

/-! ### FP32 operations: each rounded once -/

/-- FP32 a + b. -/
def fAdd (a b : F32) : F32 := ((f32 a).add (f32 b)).toF32

/-- FP32 a − b. -/
def fSub (a b : F32) : F32 := ((f32 a).add (f32 b).neg).toF32

/-- FP32 a × b. -/
def fMul (a b : F32) : F32 := ((f32 a).mul (f32 b)).toF32

/-- FP32 a × b + c, with one rounding. -/
def fFma (a b c : F32) : F32 := (((f32 a).mul (f32 b)).add (f32 c)).toF32

/-- FP32 a / b. -/
def fDiv (a b : F32) : F32 := ((f32 a).div (f32 b)).toF32

/-- FP32 square root. -/
def fSqrt (a : F32) : F32 := (f32 a).sqrt.toF32

/-- FP32 a < b. -/
def fLt (a b : F32) : Bool := (f32 a).lt (f32 b)

/-- The value is a NaN. -/
def fNan (a : F32) : Bool := (f32 a).isNan

/-- The value is finite. -/
def fFinite (a : F32) : Bool := a.toNat % 2 ^ 31 < 0x7F800000

/-- Change the sign bit. -/
def fNeg (a : F32) : F32 := a ^^^ 0x80000000

/-- A natural number, rounded to FP32. -/
def fOfNat (n : Nat) : F32 := (Fp.fin false n 0).toF32

/-- An integer, rounded to FP32. -/
def fOfInt (n : Int) : F32 := (Fp.fin (n < 0) n.natAbs 0).toF32

/-- The order-preserving number of a finite or infinite FP32 pattern: its rank on the number line, −0 below +0. -/
def fRank (a : F32) : Nat := if a.toNat < 2 ^ 31 then a.toNat + 2 ^ 31 else 2 ^ 32 - 1 - a.toNat

/-- The larger of two values; a NaN operand yields the other (Table 7-8); +0 is larger than −0 (log entry 26). -/
def fMax (a b : F32) : F32 :=
  if fNan a then (if fNan b then 0x7FC00000 else b) else if fNan b then a else if fRank a < fRank b then b else a

/-- The smaller of two values; a NaN operand yields the other; −0 is smaller than +0. -/
def fMin (a b : F32) : F32 :=
  if fNan a then (if fNan b then 0x7FC00000 else b) else if fNan b then a else if fRank b < fRank a then b else a

/-- A sum in FP32, each addition rounded, from the first element on. -/
def fSum : List F32 → F32
  | [] => 0
  | x :: xs => xs.foldl fAdd x

/-! ### Powers and norms (R313): the value that the formula gives, rounded once (log entry 28) -/

/-- The exact power. -/
def Fp.pow (x : Fp) (n : Nat) : Fp :=
  match x with
  | .nan => .nan
  | .inf neg => if n == 0 then .fin false 1 0 else .inf (neg && n % 2 == 1)
  | .fin neg m e => .fin (neg && n % 2 == 1) (m ^ n) (e * n)

/-- FP32 b ^ n. -/
def powF32 (b : F32) (n : Nat) : F32 := ((f32 b).pow n).toF32

/-- The Euclidean norm in FP32. -/
def normF32 (xs : List F32) : F32 := (xs.foldl (fun (a : Fp) x => a.add ((f32 x).mul (f32 x))) (.fin false 0 0)).sqrt.toF32

/-! ### Functions of the vector unit (Table 7-8): values to 320 binary places, and the bound that a result keeps -/

/-- A magnitude with 320 binary places. -/
def fixOf (m : Nat) (e : Int) : Nat := if 0 ≤ e + 320 then m * 2 ^ (e + 320).toNat else m / 2 ^ (-(e + 320)).toNat

/-- Terms of the exponential series from the k-th, `t`, on. -/
def expTerms (x : Nat) : Nat → Nat → Nat → Nat
  | 0, _, _ => 0
  | fuel + 1, k, t => t + expTerms x fuel (k + 1) (t * x / ((k + 1) * 2 ^ 320))

/-- e to the power ±x for a fixed-point x; beyond 300 it is taken as infinite or zero. -/
def expOf (neg : Bool) (x : Nat) : Fp :=
  if 300 * 2 ^ 320 < x then (if neg then .fin false 0 0 else .inf false)
  else
    let r := expTerms x 1024 0 (2 ^ 320)
    .fin false (if neg then 2 ^ 640 / r else r) (-320)

/-- Terms of the inverse hyperbolic tangent: `t` is z to the power 2i + 1, `q` its square. -/
def atanhTerms (q : Nat) : Nat → Nat → Nat → Nat
  | 0, _, _ => 0
  | fuel + 1, i, t => t / (2 * i + 1) + atanhTerms q fuel (i + 1) (t * q / 2 ^ 320)

/-- The inverse hyperbolic tangent of a fixed-point z of at most 1/3. -/
def atanhFix (z : Nat) : Nat := atanhTerms (z * z / 2 ^ 320) 128 0 z

/-- The natural logarithm of a positive `m * 2 ^ e`. -/
def logOf (m : Nat) (e : Int) : Fp :=
  let k := Nat.log2 m
  let x : Int := 2 * atanhFix ((m - 2 ^ k) * 2 ^ 320 / (m + 2 ^ k)) + (e + k) * (2 * atanhFix (2 ^ 320 / 3))
  .fin (x < 0) x.natAbs (-320)

/-- `a / (1 + e ^ -x)` for a fixed-point x with the sign of `a`. -/
def sigmoidOf (a : Fp) (neg : Bool) (x : Nat) : Fp := a.div ((Fp.fin false 1 0).add (expOf (!neg) x))

/-- The exponent 2 × 0.797885 (a + 0.044715 a³) of GELU's sigmoid form, for a fixed-point magnitude. -/
def geluArg (x : Nat) : Nat := 2 * 797885 * (x + 44715 * (x * x * x / 2 ^ 640) / 1000000) / 1000000

/-- The value of a function of Table 7-8 that is given within a bound; none where the table's formula gives none. -/
def vecValue (op : Nat) (a : F32) : Option Fp :=
  let one : Fp := .fin false 1 0
  match f32 a with
  | .nan => some .nan
  | .inf neg =>
    match op with
    | 0x08 => some (if neg then .fin false 0 0 else .inf false)
    | 0x0B => some (one.div (.inf neg))
    | 0x0A => if neg then none else some (.fin false 0 0)
    | _ => if neg then none else some (.inf false)
  | .fin neg m e =>
    match op with
    | 0x08 => some (expOf neg (fixOf m e))
    | 0x09 => if neg || m == 0 then none else some (logOf m e)
    | 0x0A => if neg || m == 0 then none else some (one.div (Fp.fin false m e).sqrt)
    | 0x0B => if m == 0 then none else some (one.div (.fin neg m e))
    | 0x0C => some (sigmoidOf (f32 a) neg (fixOf m e))
    | _ => some (sigmoidOf (f32 a) neg (geluArg (fixOf m e)))

/-- An FP32 value is within `k` units in the last place of a value, with 2^-32 of a unit for the value's own error. A value
beyond the FP32 range has its infinity. -/
def withinUlp (k : Nat) (y : Fp) (r : F32) : Bool :=
  match y, f32 r with
  | .fin _ m e, .fin _ _ _ =>
    let ulp : Int := (if m == 0 then -126 else max (e + Nat.log2 m) (-126)) - 23
    !(Fp.fin false (k * 2 ^ 32 + 1) (ulp - 32)).lt ((f32 r).add y.neg).abs
  | .fin neg m e, .inf n => neg == n && (Fp.fin neg m e).toF32.toNat % 2 ^ 31 + k ≥ 0x7F800000
  | .inf a, .inf b => a == b
  | _, _ => false

/-- The result of EXP, LOG, RSQRT, RECIP, SILU or GELU (Table 7-8): a free value within the operation's bound (log entry 7). -/
def vecFn (op : Nat) (a : F32) : F32 :=
  let r := Config.vectorF32 op a
  match vecValue op a with
  | none => r
  | some y => if withinUlp (if op ≤ 0x0B then 2 else 4) y r then r else y.toF32

/-! ### Conversions (R292, Table 7-4) -/

/-- The integer nearest to `m * 2 ^ e`, ties to even. -/
def nearestInt (m : Nat) (e : Int) : Nat := if 0 ≤ e then m * 2 ^ e.toNat else rneShift m (-e).toNat

/-- Conversion to a two's-complement integer of `w` bits: out-of-range values and infinities clamp, NaN gives 0. -/
def toInt (w : Nat) (x : Fp) : Nat :=
  match x with
  | .nan => 0
  | .inf neg => if neg then 2 ^ (w - 1) else 2 ^ (w - 1) - 1
  | .fin neg m e =>
    let n := nearestInt m e
    if neg then (if n == 0 then 0 else 2 ^ w - min n (2 ^ (w - 1))) else min n (2 ^ (w - 1) - 1)

/-- Conversion to a floating-point format: the pattern out of range, of an infinity and of a NaN are Table 7-4's. -/
def FpFmt.convert (f : FpFmt) (big infinity nan : Nat) (x : Fp) : Nat :=
  let signed (neg : Bool) (p : Nat) : Nat := if neg then p + 2 ^ (f.bits - 1) else p
  match x with
  | .nan => nan
  | .inf neg => signed neg infinity
  | .fin neg m e =>
    let r := f.nearest m e
    if f.top < r then signed neg big else signed neg r

/-- Conversion of a value to the element format of a code, saturating or not (Table 7-4). E4M3 has no signed overflow
pattern when it does not saturate: 0x7F stands for both signs. -/
def convert (code : Nat) (sat : Bool) (x : Fp) : Nat :=
  match code with
  | 0x01 =>
    if sat then fmtE4M3.convert 0x7E 0x7E 0x7F x
    else
      let r := fmtE4M3.convert 0x7F 0x7F 0x7F x
      if r == 0xFF then 0x7F else r
  | 0x02 => fmtE5M2.convert (if sat then 0x7B else 0x7C) 0x7C 0x7E x
  | 0x04 => fmtBF16.convert 0x7F80 0x7F80 0x7FC0 x
  | 0x05 => fmtFP16.convert (if sat then 0x7BFF else 0x7C00) 0x7C00 0x7E00 x
  | 0x06 => toInt 8 x
  | 0x08 =>
    match x with
    | .nan => 0
    | .inf neg => if neg then 0 else 1
    | .fin neg _ _ => if neg then 0 else 1
  | 0x09 => toInt 32 x
  | _ => x.toF32.toNat

/-- The value of an element pattern of a format code other than block-scaled FP4. -/
def elemValue (code p : Nat) : Fp :=
  match code with
  | 0x01 => fmtE4M3.value p
  | 0x02 => fmtE5M2.value p
  | 0x04 => fmtBF16.value p
  | 0x05 => fmtFP16.value p
  | 0x06 => let x := toSigned 8 (p % 256); .fin (x < 0) x.natAbs 0
  | 0x08 => .fin (p % 2 == 0) 1 0
  | 0x09 => let x := toSigned 32 p; .fin (x < 0) x.natAbs 0
  | _ => fmtFP32.value p

/-- The value of an E2M1 element under its block scale (R287). -/
def fp4Value (scale nib : Nat) : Fp :=
  if scale == 0xFF then .nan
  else
    match fmtE2M1.value (nib % 16) with
    | .fin neg m e => .fin neg m (e + scale - 127)
    | x => x

/-- The largest magnitude among finite values. -/
def blockMax (xs : List Fp) : Fp := xs.foldl (fun a x => if a.lt x.abs then x.abs else a) (.fin false 0 0)

/-- Conversion of a block of 32 values to block-scaled FP4: its scale code and its elements (R293). -/
def fp4Block (xs : List Fp) : Nat × List Nat :=
  let bad (x : Fp) : Bool := match x with
    | .fin _ _ _ => false
    | _ => true
  if xs.any bad then (0xFF, xs.map (fun _ => 0))
  else
    match blockMax xs with
    | .fin _ m e =>
      if m == 0 then (127, xs.map (fun _ => 0))
      else
        let code := (min (max (e + Nat.log2 m - 2 + 127) 0) 254).toNat
        let sh : Int := code - 127
        (code, xs.map (fun x =>
          match x with
          | .fin neg m e => fmtE2M1.convert 7 7 0 (.fin neg m (e - sh))
          | _ => 0))
    | _ => (0xFF, xs.map (fun _ => 0))

/-- Cut a list into blocks of 32. -/
def blocks32 {α : Type} : Nat → List α → List (List α)
  | 0, _ => []
  | n + 1, xs => if xs.isEmpty then [] else xs.take 32 :: blocks32 n (xs.drop 32)

/-- Conversion of a row-major run of values to block-scaled FP4: nibble bytes, then scale bytes (R98, R293). -/
def fp4Pack (xs : List Fp) : List Byte × List Byte :=
  let bs := (blocks32 xs.length xs).map fp4Block
  let nibs := bs.flatMap (fun b => b.2)
  ((List.range (ceilDiv nibs.length 2)).map (fun k =>
      BitVec.ofNat 8 (nibs.getD (2 * k) 0 % 16 + 16 * (nibs.getD (2 * k + 1) 0 % 16))),
    bs.map (fun b => BitVec.ofNat 8 b.1))

end Sys2Proof.Machine
end

