-- ==== Sys2Proof/Machine/Tiers.lean ====
section
/-! DEFINITION. Memory tiers, tiles and models (spec/03): tiles and containers, the tile directory, promotion and
eviction, the class 0x08 commands and MODEL_LOAD. -/

namespace Sys2Proof.Machine

/-! ### Element formats and tiles (R97 to R99) -/

/-- Bits of an element of a format code (Table 3-3); none for a reserved code. -/
def fmtBits (f : Nat) : Option Nat :=
  match f with
  | 0x00 => some 8
  | 0x01 => some 8
  | 0x02 => some 8
  | 0x03 => some 4
  | 0x04 => some 16
  | 0x05 => some 16
  | 0x06 => some 8
  | 0x07 => some 32
  | 0x08 => some 1
  | 0x09 => some 32
  | _ => none

/-- Decoded size of a weight tile (Table 3-2). -/
def weightTileBytes (f : Nat) : Nat :=
  if f == 0x03 then 34816 else 256 * 256 * (fmtBits f).getD 8 / 8

/-- Element `i` of a decoded tile of 8-bit or wider elements, as its pattern. -/
def elemAt (bits : Nat) (bs : List Byte) (i : Nat) : Nat :=
  if bits == 1 then fieldAt bs (i / 8) 1 / 2 ^ (i % 8) % 2
  else if bits == 4 then fieldAt bs (i / 2) 1 / 2 ^ (4 * (i % 2)) % 16
  else fieldAt bs (i * (bits / 8)) (bits / 8)

/-- Pack element patterns back into bytes, in element order (R98). -/
def packElems (bits : Nat) (es : List Nat) : List Byte :=
  if bits == 1 then (List.range (ceilDiv es.length 8)).map (fun k =>
    BitVec.ofNat 8 (sumNat ((List.range 8).map (fun j => es.getD (8 * k + j) 0 % 2 * 2 ^ j))))
  else if bits == 4 then (List.range (ceilDiv es.length 2)).map (fun k =>
    BitVec.ofNat 8 (es.getD (2 * k) 0 % 16 + 16 * (es.getD (2 * k + 1) 0 % 16)))
  else es.flatMap (fun e => toLE (bits / 8) e)

/-- A tile of `rows` by `cols` elements transposed on the way (R141): tiles of 256 rows, one for each 256 columns of the source,
the last padded with zero rows; a weight tile becomes the one tile that is its transpose. Block-scaled FP4 is never transposed
(R142). -/
def transposeTile (f rows cols : Nat) (bs : List Byte) : List Byte :=
  match fmtBits f with
  | none => bs
  | some b =>
    if f == 0x03 then bs
    else packElems b ((List.range (256 * ceilDiv cols 256)).flatMap (fun j => (List.range rows).map (fun i =>
      if j < cols then elemAt b bs (i * cols + j) else 0)))

/-! ### Containers (R106 to R110) -/

/-- Build a container of a mode from its sections (Table 3-6). -/
def container (mode src stored rows cols : Nat) (decoded : List Byte) (sections : List (List Byte)) : List Byte :=
  let body := sections.flatten
  let n := roundUp (64 + body.length) 256
  let padded := padTo (n - 64) body
  let offs := sections.zipIdx.flatMap (fun e =>
    toLE 4 (64 + sumNat ((sections.take e.2).map (fun x => x.length))) ++ toLE 4 e.1.length)
  toLE 2 0x4A54 ++ toLE 1 0x10 ++ toLE 1 mode ++ toLE 1 src ++ toLE 1 stored ++ zeros 2 ++ toLE 4 rows ++ toLE 4 cols ++
    toLE 4 decoded.length ++ toLE 4 n ++ toLE 4 (crc32c padded) ++ toLE 4 (crc32c decoded) ++ padTo 32 offs ++ padded

/-- Exponent and mantissa bits of an element of a format; a format without an exponent is all sign and mantissa (R107). -/
def fmtSplit (f : Nat) : Nat × Nat :=
  match f with
  | 0x01 => (4, 3)
  | 0x02 => (5, 2)
  | 0x03 => (2, 1)
  | 0x04 => (8, 7)
  | 0x05 => (5, 10)
  | 0x07 => (8, 23)
  | _ => (0, (fmtBits f).getD 8 - 1)

/-- Values of `w` bits packed one after the other, the first in the lowest bits (R107; log entry 16). -/
def packBits (w : Nat) (xs : List Nat) : List Byte :=
  packElems 1 (xs.flatMap (fun x => (List.range w).map (fun j => x / 2 ^ j % 2)))

/-- Value `i` of a packed run of values of `w` bits. -/
def packedAt (w : Nat) (bs : List Byte) (i : Nat) : Nat :=
  sumNat ((List.range w).map (fun j => elemAt 1 bs (i * w + j) * 2 ^ j))

/-- Section 0 of a mode-1 container: the sign and mantissa bits of `n` elements in element order (R107). -/
def signMantissa (f n : Nat) (bs : List Byte) : List Byte :=
  let (e, m) := fmtSplit f
  packBits (m + 1) ((List.range n).map (fun i =>
    let x := elemAt ((fmtBits f).getD 8) bs i
    x / 2 ^ (e + m) * 2 ^ m + x % 2 ^ m))

/-- What the exponent planes of a mode-1 container code: the exponents of `n` elements, and the scale bytes of block-scaled FP4
after them (log entry 16). -/
def exponentsOf (f n : Nat) (bs : List Byte) : List Nat :=
  let (e, m) := fmtSplit f
  (List.range n).map (fun i => elemAt ((fmtBits f).getD 8) bs i / 2 ^ m % 2 ^ e) ++
    (if f == 0x03 then (bs.drop (n / 2)).map (fun b => b.toNat) else [])

/-- The tile that section 0 and the exponents of a mode-1 container give. -/
def joinPlanes (f n : Nat) (sm : List Byte) (es : List Nat) : List Byte :=
  let (e, m) := fmtSplit f
  packElems ((fmtBits f).getD 8) ((List.range n).map (fun i =>
    let x := packedAt (m + 1) sm i
    x / 2 ^ m * 2 ^ (e + m) + es.getD i 0 % 2 ^ e * 2 ^ m + x % 2 ^ m)) ++
    (if f == 0x03 then (es.drop n).map (fun x => BitVec.ofNat 8 x) else [])

/-- Section `i` of a container. -/
def containerSection (bs : List Byte) (i : Nat) : List Byte :=
  slice bs (fieldAt bs (32 + 8 * i) 4) (fieldAt bs (36 + 8 * i) 4)

/-- The decoded content of a container whose checks hold; none is a codec error (R110). Mode 2 has no decoding step: the
stored FP4 block is what engines read (R109), and its decoded length and decoded check are those of that block (log entry
94). -/
def decodeContainer (bs : List Byte) : Option (List Byte) :=
  let n := fieldAt bs 20 4
  let mode := fieldAt bs 3 1
  if bs.length < 64 || fieldAt bs 0 2 != 0x4A54 || fieldAt bs 2 1 != 0x10 || 2 < mode then none
  else if n % 256 != 0 || n != bs.length || fieldAt bs 24 4 != crc32c (bs.drop 64) then none
  else
    let d := match mode with
      | 0 => containerSection bs 0
      | 1 =>
        let f := fieldAt bs 4 1
        joinPlanes f (fieldAt bs 8 4 * fieldAt bs 12 4) (containerSection bs 0)
          (Config.codecExponents f (containerSection bs 1) (containerSection bs 2))
      | _ => containerSection bs 0 ++ containerSection bs 1
    if d.length != fieldAt bs 16 4 || crc32c d != fieldAt bs 28 4 then none else some d

/-- Encode a tile (R107, R108): lossless when the encoder may and the result is shorter, else stored. The coding of the
exponent planes is internal and free, and a coding that its decoder does not undo is not written (log entry 16). -/
def encodeTile (codecEn : Bool) (fmt rows cols : Nat) (decoded : List Byte) : List Byte :=
  let stored := container 0 fmt fmt rows cols decoded [decoded]
  let es := exponentsOf fmt (rows * cols) decoded
  let coded := container 1 fmt fmt rows cols decoded
    [signMantissa fmt (rows * cols) decoded, Config.codecPlanes fmt es, Config.codecTables fmt es]
  if codecEn && coded.length < stored.length && decodeContainer coded == some decoded then coded else stored

/-- The values of a block in block-scaled FP4: element bytes, then scale bytes (R98, R109). -/
def fp4Elems (n : Nat) (bs : List Byte) : List Fp :=
  (List.range n).map (fun i => fp4Value (fieldAt bs (n / 2 + i / 32) 1) (elemAt 4 bs i))

/-- The decoded content of an object in its own format. A KV block held in FP4, whose content is shorter, is converted element by
element (R109; log entry 94). -/
def TierObj.plain (o : TierObj) (bs : List Byte) : List Byte :=
  let n := o.rows * o.cols
  if o.id / 2 ^ 60 == 3 && o.fmt != 3 && bs.length == n / 2 + n / 32 then
    packElems ((fmtBits o.fmt).getD 8) ((fp4Elems n bs).map (fun x => convert o.fmt true x))
  else bs

/-- The element format in which a container's content is read: the stored format (R106). -/
def containerFmt (bs : List Byte) : Nat := fieldAt bs 5 1

/-- The mode-2 container of a block that is held in block-scaled FP4. -/
def fp4Container (fmt rows cols : Nat) (block : List Byte) : List Byte :=
  container 2 fmt 3 rows cols block [block.take (rows * cols / 2), block.drop (rows * cols / 2)]

/-- The mode-2 container of a KV block: its elements in block-scaled FP4 (R109). -/
def lossyContainer (fmt rows cols : Nat) (decoded : List Byte) : List Byte :=
  let b := (fmtBits fmt).getD 8
  let r := fp4Pack ((List.range (rows * cols)).map (fun i => elemValue fmt (elemAt b decoded i)))
  fp4Container fmt rows cols (r.1 ++ r.2)

/-! ### Space in tier 1 and tier 2 -/

/-- An area register pair (BASE, GRANULES_HI, GRANULES_LO) as an address range. -/
def State.area (s : State) (a : Nat) : Nat × Nat :=
  (s.fld a 47 12 * 4096, (s.fld a 63 48 * 65536 + s.fld a 11 0) * 4096)

/-- The range of a partition's tile directory (R103, R105). -/
def State.dirRange (s : State) (p : Nat) : Nat × Nat :=
  let k := s.fld (TIER_DIR_BASE p) 4 0
  (s.fld (TIER_DIR_BASE p) 47 12 * 4096, if k == 0 then 0 else 32 * 2 ^ k)

/-- The ranges of a partition that only the module itself reaches: directory, selection area, variant area, KV area,
text and grammar areas, save area and collective area (R105, R282, R362, R395, R430, R485, R567). -/
def State.guardedAreas (s : State) (p : Nat) : List (Nat × Nat) := [
  s.dirRange p,
  (s.fld (SEL_PART_AREA p) 47 12 * 4096, s.fld (SEL_PART_SIZE p) 31 0 * 4096),
  s.area (HDS_VARIANT_AREA p), s.area (HDS_KV_AREA p), s.area (TOK_PART_AREA p), s.area (JIG_PART_AREA p),
  s.area (PRT_SAVE_AREA p), s.area (NET_COLL_AREA p)]

/-- Two address ranges (start, length) overlap. -/
def rangesMeet (x y : Nat × Nat) : Bool := x.1 < y.1 + y.2 && y.1 < x.1 + x.2 && x.2 != 0 && y.2 != 0

/-- [a, a + n) meets none of the ranges. -/
def clearOf (a n : Nat) (l : List (Nat × Nat)) : Bool := l.all (fun r => !rangesMeet (a, n) r)

/-- [a, a + n) touches the partition's tile directory, which only the tier mover, the firmware and the management plane may
reach: a command that names such a range is refused with NOT_PERMITTED (R105; log entry 97). -/
def State.hitsDir (s : State) (p a n : Nat) : Bool := !clearOf a n [s.dirRange p]

/-- The highest place in [lo, hi) for `n` bytes aligned to `al` from `lo` that meets no taken range (log entry 17). -/
def placeIn (lo hi n al : Nat) (taken : List (Nat × Nat)) : Option Nat :=
  if hi < lo + n || al == 0 then none
  else
    let down (top : Nat) : Nat := lo + (top - n - lo) / al * al
    let cands := (hi :: taken.map (fun r => r.1)).filter (fun t => lo + n ≤ t && t ≤ hi)
    (cands.map down).foldl (fun best a =>
      if clearOf a n taken then
        match best with
        | some b => some (max a b)
        | none => some a
      else best) none

/-- Bytes of a row, state tables, and the geometry of a hot area (R432, R433, R436); `n` is the partition's number of user
pseudo-channels. -/
def EmbVer.rowBytes (v : EmbVer) : Nat := v.dims * ((fmtBits v.fmt).getD 32 / 8)
def EmbVer.states (v : EmbVer) : Nat := if v.opt == 2 then 1 else if v.opt == 3 then 2 else 0
def EmbVer.hotDelta (v : EmbVer) (n : Nat) : Nat := roundUp (v.cap * v.stride) (n * 4096)
def EmbVer.dirLog (v : EmbVer) : Nat := if 2 * v.cap ≤ 1 then 0 else Nat.log2 (2 * v.cap - 1) + 1
def EmbVer.dirAt (v : EmbVer) (n : Nat) : Nat := roundUp (v.hot + v.states * v.hotDelta n + v.cap * v.stride) 4096
def EmbVer.hotLen (v : EmbVer) (n : Nat) : Nat := if v.cap == 0 then 0 else v.dirAt n + 8 * 2 ^ v.dirLog - v.hot

/-- The ranges of a table version: its weight array, its state tables and its hot area. -/
def EmbVer.ranges (v : EmbVer) (n : Nat) : List (Nat × Nat) :=
  (List.range (v.states + 1)).map (fun t => (v.base + t * v.delta, (v.rows - 1) * v.stride + v.rowBytes)) ++
    [(v.hot, v.hotLen n)]

/-- Storage that host software has given to indices and tables: space for the module's own objects is taken elsewhere (log
entry 17). -/
def State.claimed (s : State) : List (Nat × Nat) :=
  s.indices.flatMap (fun x => [(x.poolBase, x.poolLen), (x.heapBase, x.heapLen)]) ++
  s.tables.flatMap (fun t =>
    let n := popCount 240 (s.part t.part).assign.pch
    t.cur.ranges n ++ (match t.old with
      | some o => o.1.ranges n
      | none => []) ++ (match t.next with
      | some o => o.1.ranges n
      | none => []))

/-- Take `n` bytes of a partition's tier 1. -/
def State.alloc1 (s : State) (p n al : Nat) : Option Nat :=
  placeIn (s.regionBase p) (s.regionBase p + s.regionSize p) n al (s.heap ++ s.guardedAreas p ++ s.claimed)

/-- The partition's range on a CXL link, as far as a device backs it; empty on a lost link (R135). -/
def State.cxlRange (s : State) (p l : Nat) : Nat × Nat :=
  let r := (s.part p).assign.cxl.getD l (0, 0, 0)
  let lo := cxlBase l + r.2.1 * 2 ^ 30
  let hi := min (lo + r.2.2 * 2 ^ 30) (cxlBase l + s.fld (CXL_LINK l) 51 40 * 2 ^ 30)
  if r.1 == 0 then (lo, 0) else (lo, hi - lo)

/-- Take `n` bytes of a partition's tier 2: the first link in order that has space. -/
def State.alloc2 (s : State) (p n : Nat) : Option Nat :=
  (List.range 4).findSome? (fun l =>
    let r := s.cxlRange p l
    placeIn r.1 (r.1 + r.2) n 256 (s.heap ++ s.claimed))

/-- The addresses of `n` bytes stored channel-local from address `a`, at a stride of one granule of every
pseudo-channel (R101). -/
def State.stridedAddr (s : State) (p a i : Nat) : Nat :=
  let n := (s.regionPchs p).length
  let o := a % 4096 + i
  a / 4096 * 4096 + o / 4096 * (n * 4096) + o % 4096

/-- Where the `k`th pseudo-channel of a partition's region of stride `c` granules is taken by a range: first granule of that
pseudo-channel, and granules. -/
def channelRows (base c k : Nat) (r : Nat × Nat) : Nat × Nat :=
  let x := r.1 - base
  let lo := (x + (c - 1 - k) * 4096) / (c * 4096)
  let hi := ceilDiv (r.1 + r.2 - base - k * 4096) (c * 4096)
  (lo, hi - lo)

/-- Free space for `m` consecutive granules of the `k`th pseudo-channel of a partition's region (R101). -/
def State.allocChannel (s : State) (p k m : Nat) : Option Nat :=
  let c := (s.regionPchs p).length
  let base := s.regionBase p
  let taken := ((s.heap ++ s.guardedAreas p ++ s.claimed).filter (fun r => base ≤ r.1)).map (channelRows base c k)
  (placeIn 0 (s.regionSize p / (c * 4096)) m 1 taken).map (fun g => base + (g * c + k) * 4096)

/-- Hold a piece of space. -/
def State.hold (s : State) (a n : Nat) : State := { s with heap := s.heap ++ [(a, n)] }

/-- Free the space held at an address. -/
def State.release (s : State) (a : Nat) : State := { s with heap := s.heap.filter (fun r => r.1 != a) }

/-! ### The directory (R102 to R105, R132, R136 to R140) -/

/-- The object of an ID in a partition's directory. -/
def State.obj? (s : State) (p id : Nat) : Option TierObj :=
  (s.dir.find? (fun e => e.1 == p && e.2.id == id)).map (fun e => e.2)

/-- Change an object. -/
def State.setObj (s : State) (p id : Nat) (f : TierObj → TierObj) : State :=
  { s with dir := updateWhere s.dir (fun e => e.1 == p && e.2.id == id) (fun e => (e.1, f e.2)) }

/-- The lowest directory slot that is free, if the directory has one (R104). -/
def State.freeDirSlot (s : State) (p : Nat) : Option Nat :=
  let k := s.fld (TIER_DIR_BASE p) 4 0
  let used := (s.dir.filter (fun e => e.1 == p)).map (fun e => e.2.slot)
  if k == 0 || 2 ^ k ≤ used.length then none
  else (List.range (used.length + 1)).find? (fun i => !used.contains i)

/-- Entries that the partition's directory can still take (R104). -/
def State.dirRoom (s : State) (p : Nat) : Nat :=
  let k := s.fld (TIER_DIR_BASE p) 4 0
  if k == 0 then 0 else 2 ^ k - (s.dir.filter (fun e => e.1 == p)).length

/-- Enter an object into the directory. -/
def State.addObj (s : State) (p : Nat) (o : TierObj) : State :=
  match s.freeDirSlot p with
  | some i => { s with dir := s.dir ++ [(p, { o with slot := i, last := s.now })] }
  | none => s

/-- Free the tier-1 space of an object: the granules of a channel-local container, or its one piece. -/
def State.free1 (s : State) (p : Nat) (o : TierObj) : State :=
  match o.t1 with
  | none => s
  | some a =>
    if o.comp1 then (List.range (ceilDiv o.len1 4096)).foldl (fun s g => s.release (s.stridedAddr p a (g * 4096))) s
    else s.release a

/-- Remove an object and free its space. -/
def State.delObj (s : State) (p id : Nat) : State :=
  match s.obj? p id with
  | none => s
  | some o =>
    let s1 := s.free1 p o
    let s2 := match o.t2 with
      | some a => s1.release a
      | none => s1
    { s2 with dir := s2.dir.filter (fun e => !(e.1 == p && e.2.id == id)) }

/-- A directory entry as bytes (Table 3-5), with the object's pin count. -/
def TierObj.bytes (o : TierObj) (pins : Nat) : List Byte :=
  let none48 := 0xFFFF_FFFF_FFFF
  let b (x : Bool) (i : Nat) : Nat := if x then 2 ^ i else 0
  toLE 8 o.id ++ toLE 6 (o.t1.getD none48) ++ toLE 2 pins ++ toLE 6 (o.t2.getD none48) ++
    toLE 1 (b o.tier0 0 + b o.t1.isSome 1 + b o.t2.isSome 2 + b o.comp1 3 + b o.comp2 4 + b o.dirty 5 + b o.lost 6) ++
    toLE 1 o.fmt ++ toLE 4 o.len1 ++ toLE 4 o.len2

/-- A TIER_PROMOTE that waits at a fence, for an earlier command or for its context has pinned its objects at its intake (Table 3-12;
log entry 116). -/
def Cmd.promotes (c : Cmd) (p id : Nat) : Bool :=
  c.hdr.opcode == 0x0802 && c.hdr.partition == p && (c.phase == .fenced || c.phase == .ordered) && c.input.length == 16 &&
    !(fieldAt c.input 12 1).testBit 1 && fieldAt c.input 0 8 ≤ id && id < fieldAt c.input 0 8 + fieldAt c.input 8 4

/-- The pin count of an object: the pins taken, and those of the TIER_PROMOTE commands that wait. -/
def State.pinCount (s : State) (p : Nat) (o : TierObj) : Nat := o.pins + (s.cmds.filter (fun c => c.promotes p o.id)).length

/-- Pin an object: a promotion starts (R136); none when the count would pass 65,535 (R140). -/
def State.pin (s : State) (p id : Nat) : Option State :=
  match s.obj? p id with
  | none => some s
  | some o => if 65535 ≤ s.pinCount p o then none else some (s.setObj p id (fun o =>
      { o with pins := o.pins + 1, last := s.now, won := o.won || o.leaving.isSome }))

/-- Release one pin of an object. -/
def State.unpin (s : State) (p id : Nat) : State := s.setObj p id (fun o => { o with pins := o.pins - 1 })

/-- The only copies of an object lay on a lost device (R132). -/
def TierObj.gone (o : TierObj) : Bool := o.lost && o.t1.isNone && !o.tier0

/-- The object ID of a model's tile: kind 0 or 1, owner model and version (Table 3-4). -/
def tileObjId (under : Bool) (model version tile : Nat) : Nat :=
  (if under then 1 else 0) * 2 ^ 60 + model * 2 ^ 44 + version * 2 ^ 28 + tile

/-- Where the tier-1 and the tier-2 copy of an object lie. -/
def State.ranges1 (s : State) (p : Nat) (o : TierObj) : List (Nat × Nat) :=
  match o.t1 with
  | none => []
  | some a =>
    if o.comp1 then (List.range (ceilDiv o.len1 4096)).map (fun g => (s.stridedAddr p a (g * 4096), min 4096 (o.len1 - g * 4096)))
    else [(a, o.len1)]
def TierObj.ranges2 (o : TierObj) : List (Nat × Nat) :=
  match o.t2 with
  | none => []
  | some a => [(a, o.len2)]

/-- Read a stored copy in tier 1. -/
def State.read1 (s : State) (p : Nat) (o : TierObj) : List Byte :=
  match o.t1 with
  | none => []
  | some a => if o.comp1 then (List.range o.len1).map (fun i => s.byte (s.stridedAddr p a i)) else s.bytes a o.len1

/-- Some burst of the tier-1 copy reads uncorrectable. -/
def State.ue1 (s : State) (p : Nat) (o : TierObj) : Bool := (s.ranges1 p o).any (fun r => s.isUe r.1 r.2)

/-- Read a stored copy in tier 2. -/
def State.read2 (s : State) (o : TierObj) : List Byte :=
  match o.t2 with
  | none => []
  | some a => s.bytes a o.len2

/-- The decoded content of a copy: a container is decoded, a decoded copy is itself. -/
def contentOf (comp : Bool) (bs : List Byte) : Option (List Byte) := if comp then decodeContainer bs else some bs

/-- A codec error is recorded and reported against what holds the container (R110). -/
def State.codecError (s : State) (a : Nat) : State :=
  let s1 := s.event TIER_EVENT 0
  match cxlLinkOf a with
  | some l => s1.report ⟨13, l, 0, .corrected⟩
  | none =>
    match s.pchOf a with
    | some u => s1.report ⟨1, u.1, Config.dramRow u.2, .corrected⟩
    | none => s1

/-- The decoded content of an object from its highest good copy (R110): tier 1 before tier 2. What the reads meet is reported; a
codec error is recorded and the other copy is read. None: no copy can be read. -/
def State.objContent (s : State) (p : Nat) (o : TierObj) : Option (List Byte) × State :=
  let two (s : State) : Option (List Byte) × State :=
    if o.t2.isSome && !o.lost then
      let s1 := s.noteRead 0 p o.ranges2
      if s.isUe (o.t2.getD 0) o.len2 then (none, s1)
      else
        match contentOf o.comp2 (s.read2 o) with
        | some d => (some d, s1)
        | none => (none, s1.codecError (o.t2.getD 0))
    else (none, s)
  if o.t1.isSome then
    let s1 := s.noteRead 0 p (s.ranges1 p o)
    if s.ue1 p o then two s1
    else
      match contentOf o.comp1 (s.read1 p o) with
      | some d => (some d, s1)
      | none => two (s1.codecError (o.t1.getD 0))
  else two s

/-- Write bytes channel-local from address `a`. -/
def State.storeStrided (s : State) (p a : Nat) (bs : List Byte) : State :=
  (List.range (ceilDiv bs.length 4096)).foldl (fun s g =>
    s.store (s.stridedAddr p a (g * 4096)) (slice bs (g * 4096) 4096)) s

/-- Space in tier 1 for a stored copy: a container lies in one pseudo-channel, the `k`th in rotation or the next that has room
(R101; log entry 17); a decoded tile begins on a 4 KiB boundary (R100). -/
def State.place1 (s : State) (p k n : Nat) (comp : Bool) : Option (State × Nat) :=
  let c := (s.regionPchs p).length
  if comp && c != 0 then
    ((List.range c).findSome? (fun j => s.allocChannel p ((k + j) % c) (ceilDiv n 4096))).map (fun a =>
      ((List.range (ceilDiv n 4096)).foldl (fun s g => s.hold (s.stridedAddr p a (g * 4096)) 4096) s, a))
  else (s.alloc1 p (roundUp n 4096) 4096).map (fun a => (s.hold a (roundUp n 4096), a))

/-- Write a stored copy into tier-1 space that has been taken for it. -/
def State.put1 (s : State) (p a : Nat) (comp : Bool) (bs : List Byte) : State :=
  if comp then s.storeStrided p a bs else s.store a bs

/-- A tile in tier 1 is kept as a container: COMPRESS_T1 asks for it and it is a weight, understudy or optimizer-state tile
(TIER_POLICY). -/
def State.compressed1 (s : State) (p id : Nat) : Bool :=
  let kind := id / 2 ^ 60
  s.bit (TIER_POLICY p) 1 && (kind == 0 || kind == 1 || kind == 5)

/-- The encoder may use mode 1 for an object in tier 2 (Table 3-7): weight, understudy, activation and optimizer-state tiles, and KV
blocks where lossy storage is off. -/
def State.lossless (s : State) (p : Nat) (o : TierObj) : Bool :=
  let kind := o.id / 2 ^ 60
  s.bit TIER_CTRL 1 && (kind == 0 || kind == 1 || kind == 2 || kind == 5 || (kind == 3 && !s.bit (TIER_POLICY p) 2))

/-- The container that an eviction writes for an object's tier-1 copy (R107, R109, R367, R383): a full KV block in mode 2 where
LOSSY_KV_T2 asks for it, whether tier 1 holds it in FP4 already or not, and in its own format where LOSSY_KV_T2 is clear; a
container of another object as it is. None: the tier-1 copy is a container that fails its checks (R110). -/
def State.lowerCopy (s : State) (p : Nat) (o : TierObj) : Option (List Byte) :=
  let stored := s.read1 p o
  (contentOf o.comp1 stored).map (fun d =>
    if o.id / 2 ^ 60 == 3 && o.full && s.bit (TIER_POLICY p) 2 then
      (if !o.lossy1 then lossyContainer o.fmt o.rows o.cols d
       else if o.comp1 then stored
       else fp4Container o.fmt o.rows o.cols d)
    else if o.comp1 && !o.lossy1 then stored
    else encodeTile (s.lossless p o) o.fmt o.rows o.cols (o.plain d))

/-- The tier-1 copy of a block is its only copy and cannot be read (R391). -/
def State.kvUnreadable (s : State) (p id : Nat) : Bool :=
  match s.obj? p id with
  | some o => (o.t1.isSome || o.t2.isSome) && !(o.t1.isSome && !s.ue1 p o) &&
      !(o.t2.isSome && !o.lost && !s.isUe (o.t2.getD 0) o.len2)
  | none => false

/-- The only copy of a block cannot be read: the block is lost (R391). -/
def State.loseBlock (s : State) (p id : Nat) : State :=
  match s.obj? p id with
  | none => s
  | some o =>
    let s1 := s.free1 p o
    let s2 := match o.t2 with
      | some a => s1.release a
      | none => s1
    s2.setObj p id (fun o =>
      { o with lost := true, t1 := none, t2 := none, comp1 := false, comp2 := false, len1 := 0, len2 := 0, leaving := none })

/-- A read has found no good copy of an object: a KV block of which no other copy stands is lost (R391). -/
def State.lostIfKv (s : State) (p id : Nat) : State :=
  if id / 2 ^ 60 == 3 && s.kvUnreadable p id then s.loseBlock p id else s

/-- The first part of an eviction (R137): the pin count is checked and the container is written to tier 2 where the object has no
clean lower copy: OK, BUSY, NO_MEMORY when no tier-2 range has space (R135), or UNCORRECTABLE_DATA when the tier-1 copy cannot be
read (R110, R391). -/
def State.evictWrite (s : State) (p id : Nat) : Nat × State :=
  match s.obj? p id with
  | none => (stUnknownObject, s)
  | some o =>
    if o.t1.isNone then (stOk, s)
    else if 0 < s.pinCount p o then (stBusy, s.bump (TIER_EVICT_BUSY_CNT p) 31 0 1)
    else if o.t2.isSome && !o.dirty && !o.lost then (stOk, s)
    else
      let s0 := s.noteRead 0 p (s.ranges1 p o)
      if s.ue1 p o then (stUncorrectableData, s0.lostIfKv p id)
      else match s.lowerCopy p o with
      | none => (stUncorrectableData, s0.codecError (o.t1.getD 0))
      | some data =>
        match s.alloc2 p data.length with
        | none => (stNoMemory, s0)
        | some a =>
          let s1 := match o.t2 with
            | some b => s0.release b
            | none => s0
          (stOk, ((s1.hold a data.length).store a data).setObj p id (fun o =>
            { o with t2 := some a, comp2 := true, len2 := data.length, lost := false, dirty := false }))

/-- An eviction starts: the first part is done now and the commit comes at a later stamp (R137, R138; log entry 95). -/
def State.leave (s : State) (p id : Nat) (m : Mover) : Nat × State :=
  match s.evictWrite p id with
  | (0, s1) => (stOk, if ((s1.obj? p id).map (fun o => o.t1.isSome)).getD false then
      s1.setObj p id (fun o => { o with leaving := some (s1.now, m), won := false }) else s1)
  | r => r

/-- The commit of an eviction (R137, R138): the pin count is checked again, and with it that no promotion has come and no newer copy
stands above (log entry 95); the tier-1 copy is removed and its space freed. The object is leaving no more. -/
def State.evictCommit (s : State) (p id : Nat) : Nat × State :=
  match s.obj? p id with
  | none => (stUnknownObject, s)
  | some o =>
    if o.t1.isNone then (stOk, s.setObj p id (fun o => { o with leaving := none, won := false }))
    else if 0 < s.pinCount p o || o.dirty || o.won then
      (stBusy, (s.bump (TIER_EVICT_BUSY_CNT p) 31 0 1).setObj p id (fun o => { o with leaving := none, won := false }))
    else (stOk, (s.free1 p o).setObj p id (fun o =>
      { o with t1 := none, comp1 := false, lossy1 := false, len1 := 0, dirty := false, leaving := none, won := false }))

/-- Copy an object from tier 2 to tier 1 (R144). A KV block is copied as the container it is (R389); a weight, understudy or
optimizer-state tile is under COMPRESS_T1; anything else, or a copy that is to be kept decoded, is decoded. OK, NO_MEMORY, or
UNCORRECTABLE_DATA when no copy can be read (R110), and a KV block is lost with its only copy (R391). -/
def State.promote (s : State) (p id : Nat) (decoded : Bool) : Nat × State :=
  match s.obj? p id with
  | none => (stUnknownObject, s)
  | some o =>
    if o.t1.isSome then (stOk, s)
    else
      let comp := o.comp2 && !decoded && (id / 2 ^ 60 == 3 || s.compressed1 p id)
      let lossy := o.comp2 && fieldAt (s.read2 o) 3 1 == 2
      let (d, s1) := if comp then (if o.t2.isNone || o.lost || s.isUe (o.t2.getD 0) o.len2 then none else some (s.read2 o),
          s.noteRead 0 p o.ranges2)
        else s.objContent p o
      match d with
      | none => (stUncorrectableData, s1.lostIfKv p id)
      | some bs =>
        match s1.place1 p (id % 2 ^ 28) bs.length comp with
        | none => (stNoMemory, s1)
        | some (s2, a) =>
          (stOk, (s2.put1 p a comp bs).setObj p id (fun o =>
            { o with t1 := some a, comp1 := comp, lossy1 := lossy, len1 := bs.length, last := s.now }))

/-- Store a full KV block in mode 2 in tier 1 where LOSSY_KV_T1 asks for it (R109, R148, R367). A block for which no
channel-local space is found stays as it is (log entry 17). -/
def State.lossyCopy1 (s : State) (p id : Nat) : State :=
  match s.obj? p id with
  | none => s
  | some o =>
    if id / 2 ^ 60 != 3 || !s.bit (TIER_POLICY p) 3 || !o.full || o.lossy1 || o.t1.isNone then s
    else
      match contentOf o.comp1 (s.read1 p o) with
      | none => s.codecError (o.t1.getD 0)
      | some d =>
        let c := lossyContainer o.fmt o.rows o.cols d
        match s.place1 p (id % 65536) c.length true with
        | none => s
        | some (s1, a) =>
          ((s1.storeStrided p a c).free1 p o).setObj p id (fun o =>
            { o with t1 := some a, comp1 := true, lossy1 := true, len1 := c.length })

/-! ### Class 0x08 commands (R143 to R148) -/

/-- The links of tier 2 that [a, a + n) lies on and whose readiness bit is clear (R636). -/
def State.cxlMissing (s : State) (a n : Nat) : Option Nat :=
  match cxlLinkOf a with
  | some l => if n != 0 && !s.ready (rdyCxl l) then some (rdyCxl l) else none
  | none => none

/-- The retry hint of NOT_READY for a missing readiness bit (R637): a withdrawn function's BOOT_ETA is all ones. -/
def State.readyHint (s : State) (b t : Nat) : Nat :=
  let eta := (s.raw (BOOT_ETA b)).toNat
  if eta == 0 then 1_000_000
  else if eta == 2 ^ 64 - 1 then 0xFFFF_FFFF
  else max 100 ((eta - t) / 1000)

/-- An embedding table's hot area or another guarded range is touched by [a, a + n). -/
def State.guarded (s : State) (p a n : Nat) (extra : List (Nat × Nat)) : Bool :=
  !clearOf a n (s.guardedAreas p ++ extra)

/-- MEM_WRITE (R96, R143, R670). `hot` gives the hot areas of the partition's tables (R437). -/
def memWriteAt (hot : List (Nat × Nat)) (c : Cmd) (s : State) : State :=
  let p := c.hdr.partition
  let a := fieldAt c.input 0 8
  let n := fieldAt c.input 8 4
  let data := c.input.drop 16
  if c.input.length < 16 || data.length != n then s.refuse c stBadParameter
  else if !zerosAt c.input 12 4 then s.refuse c stReservedNonzero
  else if !s.owns p a (max n 1) then s.refuse c stBadAddress
  else if s.guarded p a n hot then s.refuse c stNotPermitted
  else match s.cxlMissing a n with
  | some b => s.refuseHint c stNotReady (s.readyHint b c.intake)
  | none =>
    let bad := s.partialUe a n
    (s.store a data).refuse c (if bad then stUncorrectableData else stOk)

/-- MEM_READ (R96, R143). -/
def memReadAt (hot : List (Nat × Nat)) (c : Cmd) (s : State) : State :=
  s.shaped c 16 [(12, 4)] fun s =>
    let p := c.hdr.partition
    let a := fieldAt c.input 0 8
    let n := fieldAt c.input 8 4
    if c.replyRef.isNone && 1048576 < n then s.refuse c stBadParameter
    else if !s.owns p a (max n 1) then s.refuse c stBadAddress
    else if s.guarded p a n hot then s.refuse c stNotPermitted
    else match s.cxlMissing a n with
    | some b => s.refuseHint c stNotReady (s.readyHint b c.intake)
    | none =>
      if s.isUe a n then (s.dramUe a).refuse c stUncorrectableData
      else (s.readCe a n).replyData c stOk [] (s.bytes a n)

/-- The object IDs that a command names by its first ID and count. -/
def namedIds (c : Cmd) : List Nat :=
  (List.range (fieldAt c.input 8 4)).map (fun i => fieldAt c.input 0 8 + i)

/-- A promotion of this object would take its pin count above 65,535 (R140). -/
def State.pinFull (s : State) (p id : Nat) : Bool :=
  match s.obj? p id with
  | some o => 65535 ≤ s.pinCount p o
  | none => false

/-- A promotion by TIER_PROMOTE: unless the copy is to be kept decoded, a KV block is stored as LOSSY_KV_T1 says. -/
def State.promoteAs (s : State) (p id : Nat) (decoded : Bool) : Nat × State :=
  match s.promote p id decoded with
  | (0, s1) => (stOk, if decoded then s1 else s1.lossyCopy1 p id)
  | r => r

/-- Promote the named objects in order; an object whose only copy is lost ends the run with TIER_LOST after those before
it (R144). -/
def promoteAll (p : Nat) (hold decoded : Bool) : List Nat → State → Nat × State
  | [], s => (stOk, s)
  | id :: ids, s =>
    match s.obj? p id with
    | none => (stUnknownObject, s)
    | some o =>
      if o.gone then (stTierLost, s)
      else match s.promoteAs p id decoded with
      | (0, s1) =>
        let h := if hold then 1 else 0
        let s2 := s1.setObj p id (fun o =>
          { o with won := o.won || o.leaving.isSome, pins := o.pins + h, holds := o.holds + h })
        promoteAll p hold decoded ids s2
      | r => r

/-- Tier 1 has the space that promotions of these objects take (R144). -/
def State.promoteFits (s : State) (p : Nat) (decoded : Bool) (ids : List Nat) : Bool :=
  (ids.foldl (fun acc id =>
    match acc with
    | none => none
    | some s =>
      if ((s.obj? p id).map (fun o => o.gone)).getD true then some s
      else
        match s.promoteAs p id decoded with
        | (st, s1) => if st == stNoMemory then none else some s1) (some s)).isSome

/-- TIER_PROMOTE (R136, R140, R144). With RELEASE set it only ends one HOLD pin of each object: it copies nothing, with HOLD set too,
and an object without a HOLD pin stays as it is; the spec states none of this (DESIGN CHOICE, log entry 117). -/
def bodyTierPromote (c : Cmd) (s : State) : State :=
  s.shaped c 16 [(13, 3)] fun s =>
    let p := c.hdr.partition
    let fl := fieldAt c.input 12 1
    let n := fieldAt c.input 8 4
    let ids := namedIds c
    if 8 ≤ fl then s.refuse c stReservedNonzero
    else if n == 0 || 65536 < n then s.refuse c stBadParameter
    else if ids.any (fun id => (s.obj? p id).isNone) then s.refuse c stUnknownObject
    else if fl.testBit 1 then
      -- RELEASE ends one HOLD pin of each object
      (ids.foldl (fun s id => s.setObj p id (fun o =>
        if 0 < o.holds then { o with pins := o.pins - 1, holds := o.holds - 1 } else o)) s).refuse c stOk
    else if ids.any (fun id => s.pinFull p id) then s.refuseBusy c
    else if !s.promoteFits p (fl.testBit 2) ids then s.refuse c stNoMemory
    else
      let (st, s1) := promoteAll p (fl.testBit 0) (fl.testBit 2) ids s
      s1.refuse c st

/-- Start the evictions of the named objects in order. -/
def evictAll (p : Nat) : List Nat → State → Nat × State
  | [], s => (stOk, s)
  | id :: ids, s =>
    match s.leave p id .command with
    | (0, s1) => evictAll p ids s1
    | r => r

/-- Some of the objects that a TIER_EVICT names has still to leave. -/
def State.evicting (s : State) (c : Cmd) : Bool :=
  (namedIds c).any (fun id => ((s.obj? c.hdr.partition id).map (fun o => o.leaving.isSome)).getD false)

/-- TIER_EVICT (R137, R144): every named object is checked before acting; the evictions start, and the command replies when they have
committed (log entry 95). A refusal with BUSY before acting is no eviction that ended with BUSY: TIER_EVICT_BUSY_CNT does not count
it (R149; DESIGN CHOICE, log entry 118). -/
def bodyTierEvict (c : Cmd) (s : State) : State :=
  s.shaped c 16 [(12, 4)] fun s =>
    let p := c.hdr.partition
    let n := fieldAt c.input 8 4
    let ids := namedIds c
    if n == 0 || 65536 < n then s.refuse c stBadParameter
    else if ids.any (fun id => (s.obj? p id).isNone) then s.refuse c stUnknownObject
    else if ids.any (fun id => ((s.obj? p id).map (fun o => decide (0 < s.pinCount p o))).getD false) then s.refuseBusy c
    else
      let (st, s1) := evictAll p ids s
      if st == stNoMemory then s.refuse c st
      else if st != stOk then s1.refuse c st
      else if s1.evicting c then s1 else s1.refuse c stOk

/-- TIER_POLICY_SET (R148). -/
def bodyTierPolicySet (c : Cmd) (s : State) : State :=
  s.shaped c 8 [] fun s =>
    let v := BitVec.ofNat 64 (fieldAt c.input 0 8)
    let m := fieldMask 47 16 ||| fieldMask 5 0
    if v &&& ~~~ m != 0 then s.refuse c stReservedNonzero
    else if v.toNat / 2 ^ 24 % 256 ≤ v.toNat / 2 ^ 16 % 256 then s.refuse c stBadParameter
    else (s.setRaw (TIER_POLICY c.hdr.partition) v).refuse c stOk

/-- TILE_DIR_QUERY (R145). The entry of an object that does not exist has its ID bytes all ones; its other 24 bytes, which the rule
leaves open, are zero (log entry 93). -/
def bodyTileDirQuery (c : Cmd) (s : State) : State :=
  s.shaped c 16 [(12, 4)] fun s =>
    let n := fieldAt c.input 8 4
    if n == 0 || 4096 < n then s.refuse c stBadParameter
    else
      let entry (id : Nat) : List Byte :=
        match s.obj? c.hdr.partition id with
        | some o => o.bytes (s.pinCount c.hdr.partition o)
        | none => padTo 32 (toLE 8 (2 ^ 64 - 1))
      s.reply c stOk [] ((namedIds c).flatMap entry)

/-! ### The tier policy (R137, R139) -/

/-- Tier-1 space that objects hold in a partition's region. -/
def State.tier1Used (s : State) (p : Nat) : Nat :=
  sumNat ((s.heap.filter (fun r => s.inRegion p r.1 r.2)).map (fun r => r.2))

/-- Occupancy of the partition's tier 1 in percent, rounded down. -/
def State.occupancy (s : State) (p : Nat) : Nat :=
  if s.regionSize p == 0 then 0 else s.tier1Used p * 100 / s.regionSize p

/-- The object of a partition that was used least recently among those the policy may evict: in tier 1, unpinned, not
kept by `keep` (R382), not being evicted, and not waiting for its retry (R139). -/
def State.lruObject (s : State) (p : Nat) (keep : Nat → Bool) : Option TierObj :=
  (s.dir.filter (fun e => e.1 == p && e.2.t1.isSome && s.pinCount p e.2 == 0 && e.2.leaving.isNone && !keep e.2.id &&
      e.2.id / 2 ^ 60 != 1 && !s.evictRetries.any (fun r => r.1 == p && r.2.1 == e.2.id))).foldl (fun best e =>
    match best with
    | none => some e.2
    | some b => if e.2.last < b.last then some e.2 else some b) none

/-- Tier-1 bytes of a copy as the heap holds it. -/
def TierObj.held1 (o : TierObj) : Nat := roundUp o.len1 4096

/-- The occupancy that is left when the evictions under way have committed. -/
def State.occupancyLeft (s : State) (p : Nat) : Nat :=
  let out := sumNat ((s.dir.filter (fun e => e.1 == p && e.2.leaving.isSome)).map (fun e => e.2.held1))
  if s.regionSize p == 0 then 0 else (s.tier1Used p - out) * 100 / s.regionSize p

/-- An eviction of the tier policy that ended with BUSY is retried after the partition's interval (R139). -/
def State.retryEvict (s : State) (p id : Nat) : State :=
  { s with evictRetries := s.evictRetries ++ [(p, id, s.now + s.fld (TIER_POLICY p) 47 32 * 1000)] }

/-- The tier policy starts an eviction; one that is BUSY is retried (R137, R139). -/
def State.policyEvictOne (s : State) (p id : Nat) : Nat × State :=
  match s.leave p id .policy with
  | (st, s1) => (st, if st == stBusy then s1.retryEvict p id else s1)

/-- Evict least-recently-used objects until the occupancy is below the low watermark or none is left. -/
def State.policyEvict (keep : Nat → Bool) (p : Nat) : Nat → State → State
  | 0, s => s
  | fuel + 1, s =>
    if s.occupancyLeft p < s.fld (TIER_POLICY p) 23 16 then s
    else match s.lruObject p keep with
    | none => s
    | some o =>
      match s.policyEvictOne p o.id with
      | (st, s1) => if st == stNoMemory then s1 else State.policyEvict keep p fuel s1

/-- TIER_POLICY_EVICT (R137): above the high watermark the policy evicts, if it is enabled and moves may start. -/
def tierPolicyEvictStep (keep : Nat → Bool) (p : Nat) (s : State) : State :=
  if s.bit (TIER_POLICY p) 5 && s.bit TIER_CTRL 0 && s.fld (TIER_POLICY p) 31 24 < s.occupancy p then
    State.policyEvict keep p s.dir.length s
  else s

/-- EVICT_RETRY (R139): after the interval the eviction is tried again. -/
def evictRetryStep (p id : Nat) (s : State) : State :=
  match s.evictRetries.find? (fun r => r.1 == p && r.2.1 == id) with
  | none => s
  | some r =>
    if r.2.2 ≤ s.now then
      (({ s with evictRetries := s.evictRetries.filter (fun x => !(x.1 == p && x.2.1 == id)) } : State).policyEvictOne p id).2
    else s

/-- The TIER_EVICT commands that wait for their evictions. -/
def State.evictors (s : State) : List Cmd := s.cmds.filter (fun c => c.hdr.opcode == 0x0803 && c.phase == .started)

/-- One eviction commits (R137, R138). Where it ends with BUSY, its lower copy valid and clean, the tier policy retries it, a demotion
is tried again at the next boundary, and a TIER_EVICT that names the object ends with BUSY. -/
def State.commitOne (s : State) (p : Nat) (o : TierObj) : State :=
  match s.evictCommit p o.id with
  | (st, s1) =>
    if st != stBusy then s1
    else
      let s2 := if o.leaving.map (fun x => x.2) == some .policy then s1.retryEvict p o.id else s1
      (s2.evictors.filter (fun c => c.hdr.partition == p && (namedIds c).contains o.id)).foldl (fun s c => s.refuseBusy c) s2

/-- The evictions that were started before now commit; a TIER_EVICT whose objects have all left replies OK (log entry 95). -/
def State.commitEvictions (s : State) : State :=
  let due := s.dir.filter (fun e => e.2.leaving.any (fun x => x.1 < s.now))
  if due.isEmpty then s
  else
    let s1 := due.foldl (fun s e => s.commitOne e.1 e.2) s
    (s1.evictors.filter (fun c => !s1.evicting c)).foldl (fun s c => s.refuse c stOk) s1

/-- One slot of a directory is written back: the entry of its object, or an object ID of all ones (Table 3-5). A write of half a burst
reads the other half: where that is uncorrectable, DIR_ERROR is set (R14; log entry 119). -/
def State.flushSlot (s : State) (p i : Nat) : State :=
  let a := (s.dirRange p).1 + i * 32
  let s1 := if s.isUe a 32 then s.event TIER_EVENT 1 else s
  match s.dir.find? (fun e => e.1 == p && e.2.slot == i) with
  | some e => s1.store a (e.2.bytes (s.pinCount p e.2))
  | none => s1.store a (toLE 8 (2 ^ 64 - 1))

/-- DIR_FLUSH (R14, R103): every entry is written back to its slot of the directory in memory, the unused ones too. -/
def dirFlushStep (s : State) : State :=
  (List.range 16).foldl (fun s p => (List.range ((s.dirRange p).2 / 32)).foldl (fun s i => s.flushSlot p i) s) s

/-- The device on a link is lost (R132): every tier-2 copy in its range is marked lost. Besides bit 6, the entry's tier-2 address,
length and residence bit 2 are cleared (log entry 92). -/
def State.markLost (s : State) (l : Nat) : State :=
  let inLink (a : Nat) : Bool := cxlLinkOf a == some l
  { s with
    heap := s.heap.filter (fun r => !inLink r.1)
    dir := s.dir.map (fun e =>
      match e.2.t2 with
      | some a => if inLink a then (e.1, { e.2 with t2 := none, comp2 := false, len2 := 0, lost := true }) else e
      | none => e) }

/-! ### MODEL_LOAD (R111 to R118, R147, R363) -/

/-- A schedule-layer record at an offset of a package. -/
def parseLayer (pk : List Byte) (o : Nat) : SchedLayer :=
  ⟨fieldAt pk o 4, fieldAt pk (o + 4) 4, fieldAt pk (o + 8) 2, fieldAt pk (o + 10) 2 % 2 == 1⟩

/-- A group record at an offset of a package. -/
def parseGroup (pk : List Byte) (o : Nat) : TileGroup :=
  ⟨fieldAt pk o 4, fieldAt pk (o + 4) 4, fieldAt pk (o + 8) 4, fieldAt pk (o + 12) 4, fieldAt pk (o + 16) 8,
    fieldAt pk (o + 24) 1, fieldAt pk (o + 25) 1, fieldAt pk (o + 26) 1, fieldAt pk (o + 27) 1, fieldAt pk (o + 28) 4⟩

/-- A group is an understudy group. -/
def TileGroup.isUnder (g : TileGroup) : Bool := g.flags.testBit 2

/-- CRC-32C over the bytes that lie in at least one region (offset, length), in ascending order, each once (R671). -/
def crcOver (bs : List Byte) (regions : List (Nat × Nat)) : Nat :=
  crc32c ((bs.zipIdx.filter (fun e => regions.any (fun r => r.1 ≤ e.2 && e.2 < r.1 + r.2))).map (fun e => e.1))

/-- The model record at offset 64 (Table 3-14) and the tables of a package. -/
def parseModel (pk : List Byte) : Model :=
  let f := fieldAt pk
  let nl := f 6 2
  let nt := f 16 4
  let lanes := f 80 2
  { layers := f 64 2, dModel := f 66 2, vocab := f 68 4, kvLayers := f 72 2, kvWidth := f 74 2, headDim := f 76 2,
    kvFmt := f 78 1, roles := f 79 1, lanes := lanes, outDims := f 82 2,
    sched := (List.range nl).map (fun i => parseLayer pk (f 24 8 + 16 * i)),
    fwd := (List.range (f 8 4)).map (fun i => parseGroup pk (f 32 8 + 32 * i)),
    bwd := (List.range (f 12 4)).map (fun i => parseGroup pk (f 40 8 + 32 * i)),
    tiles := (List.range nt).map (fun i =>
      let o := f 48 8 + 16 * i
      (f (o + 8) 4, f (o + 12) 4 % 256, f (o + 12) 4 / 256)),
    entries := (List.range (nl * lanes)).map (fun i => (f (f 96 8 + 8 * i) 4, f (f 96 8 + 8 * i + 4) 4)) }

/-- A group table is well formed (R114, R115). A reserved flag bit, a fallback above 1 and a home tier other than 1 and 2 are
refused too, as nonzero reserved header bytes are (log entry 90). -/
def groupsOk (m : Model) (gs : List TileGroup) : Bool :=
  gs.all (fun g =>
    g.first + g.count ≤ m.tiles.length && g.layer < m.sched.length && g.flags < 8 &&
    !(g.flags.testBit 0 && g.flags.testBit 1) &&
    !(g.flags.testBit 0 && ((m.tiles.drop g.first).take g.count).any (fun t => t.2.1 == 3)) &&
    g.fbGen < 2 && g.fbLearn < 2 && (g.home == 1 || g.home == 2) &&
    (g.under == 0xFFFF_FFFF || g.under < gs.length) &&
    (!(g.fbGen == 1 || g.fbLearn == 1) ||
      (match gs[g.under]? with
       | some u => u.isUnder && u.count == g.count
       | none => false))) &&
  (let run := (gs.filter (fun g => !g.isUnder)).map (fun g => g.layer)
   (run.zip (run.drop 1)).all (fun e => e.1 ≤ e.2))

/-- The model record keeps Table 3-14 and its KV geometry R363. -/
def recordOk (pk : List Byte) (m : Model) : Bool :=
  1 ≤ m.layers && m.layers ≤ 4095 && 64 ≤ m.dModel && m.dModel ≤ 16384 && m.dModel % 64 == 0 &&
  (m.vocab == 0 || (256 ≤ m.vocab && m.vocab ≤ 1048576)) &&
  64 ≤ m.kvWidth && m.kvWidth ≤ 8192 && m.kvWidth % 64 == 0 &&
  (m.headDim == 64 || m.headDim == 128 || m.headDim == 256) && m.kvWidth % m.headDim == 0 &&
  (m.kvFmt == 1 || m.kvFmt == 2 || m.kvFmt == 4) && 1 ≤ m.kvLayers && m.kvLayers ≤ 4095 &&
  m.roles < 8 && 1 ≤ m.lanes && m.lanes ≤ 48 &&
  (if m.roles.testBit 1 then 16 ≤ m.outDims && m.outDims ≤ 4096 else m.outDims == 0) &&
  fieldAt pk 84 4 % 16 == 0 && fieldAt pk 84 4 ≤ 268435456 && fieldAt pk 88 8 % 16 == 0 && fieldAt pk 96 8 % 8 == 0 &&
  zerosAt pk 104 24

/-- Every table and image of the package lies inside it. -/
def packageFits (pk : List Byte) (m : Model) : Bool :=
  let f := fieldAt pk
  let n := pk.length
  let ok (o k : Nat) : Bool := o + k ≤ n
  ok (f 24 8) (16 * m.sched.length) && ok (f 32 8) (32 * m.fwd.length) && (m.bwd.isEmpty || ok (f 40 8) (32 * m.bwd.length)) &&
  ok (f 48 8) (16 * m.tiles.length) && ok (f 88 8) (f 84 4) && ok (f 96 8) (8 * m.entries.length) &&
  (List.range m.tiles.length).all (fun i => ok (f (f 48 8 + 16 * i) 8) ((m.tiles.getD i (0, 0, 0)).1))

/-- The kernels keep to the kernel image and to 1 MiB for each schedule layer (R115). -/
def kernelsOk (pk : List Byte) (m : Model) : Bool :=
  let units := fieldAt pk 84 4 / 16
  m.entries.all (fun e => e.1 + e.2 ≤ units) &&
  (List.range m.sched.length).all (fun l =>
    16 * sumNat (((m.entries.drop (l * m.lanes)).take m.lanes).map (fun e => e.2)) ≤ 1048576)

/-- The regions that the package's CRC covers (Table 3-8). -/
def packageRegions (pk : List Byte) (m : Model) : List (Nat × Nat) :=
  let f := fieldAt pk
  [(0, 60), (64, 64), (f 88 8, f 84 4), (f 24 8, 16 * m.sched.length), (f 32 8, 32 * m.fwd.length),
    (f 40 8, 32 * m.bwd.length), (f 48 8, 16 * m.tiles.length), (f 96 8, 8 * m.entries.length)]

/-- The package passes every check of R115 that gives BAD_PARAMETER. -/
def packageOk (pk : List Byte) (m : Model) : Bool :=
  128 ≤ pk.length && fieldAt pk 0 4 == 0x4B504A4D && fieldAt pk 4 2 == 0x0100 && zerosAt pk 20 4 && zerosAt pk 56 4 &&
  1 ≤ fieldAt pk 6 2 && fieldAt pk 16 4 ≤ 268435455 && packageFits pk m &&
  fieldAt pk 60 4 == crcOver pk (packageRegions pk m) && groupsOk m m.fwd && groupsOk m m.bwd && recordOk pk m &&
  kernelsOk pk m

/-- Decoded bytes of a group. -/
def Model.groupBytes (m : Model) (g : TileGroup) : Nat :=
  sumNat (((m.tiles.drop g.first).take g.count).map (fun t => weightTileBytes t.2.1))

/-- The bytes of a number of Tool store ways and of Lathes' tile buffers. -/
def tier0Bytes (ways lathes : Nat) : Nat := ways * 0x30_0000 + lathes * 0x50_0000

/-- A partition's tier-0 share less one Tool store way (R115). -/
def State.tier0Share (s : State) (p : Nat) : Nat :=
  let a := (s.part p).assign
  tier0Bytes (popCount 64 a.ways) (popCount 48 a.lathes) - tier0Bytes 1 0

/-- Offset of container `i` in a package, and the container. -/
def packageOff (pk : List Byte) (i : Nat) : Nat := fieldAt pk (fieldAt pk 48 8 + 16 * i) 8
def packageTile (pk : List Byte) (i : Nat) : List Byte :=
  slice pk (packageOff pk i) (fieldAt pk (fieldAt pk 48 8 + 16 * i + 8) 4)

/-- Place one tile of a package as a tier object: understudies always in tier 1 with one pin (R116); a container in tier 1 when
TIER_POLICY says so. Its rows and columns are those of its container. A tile that has been entered already needs no further
entry. -/
def State.placeTile (s : State) (p : Nat) (m : Model) (pk : List Byte) (tier1 : Bool) (kind i : Nat) : Option State :=
  let under := kind == 1
  let c := packageTile pk i
  let id := kind * 2 ^ 60 + m.id * 2 ^ 44 + m.version * 2 ^ 28 + i
  let base : TierObj :=
    { id := id, fmt := (m.tiles.getD i (0, 0, 0)).2.1, rows := fieldAt c 8 4, cols := fieldAt c 12 4, pins := if under then 1 else 0 }
  if (s.obj? p id).isSome then some s
  else if (s.freeDirSlot p).isNone then none
  else if tier1 || under then
    let comp := s.compressed1 p id
    match contentOf (!comp) c with
    | none => none
    | some d =>
      (s.place1 p i d.length comp).map (fun e =>
        (e.1.put1 p e.2 comp d).addObj p { base with t1 := some e.2, comp1 := comp, len1 := d.length })
  else
    (s.alloc2 p c.length).map (fun a =>
      ((s.hold a c.length).store a c).addObj p { base with t2 := some a, comp2 := true, len2 := c.length })

/-- Tiles of the table that no group names and that hold FP32 elements: the optimizer-state tiles of R311 (log entry
28). -/
def Model.stateTiles (m : Model) : List Nat :=
  (List.range m.tiles.length).filter (fun i => (m.tiles.getD i (0, 0, 0)).2.1 == 7 &&
    !(m.fwd ++ m.bwd).any (fun g => g.first ≤ i && i < g.first + g.count))

/-- Where a model's tiles go (R116, R118): for each, whether it goes to tier 1, its kind and its index. The placement byte chooses
the tier of every group but understudies; optimizer-state tiles go to tier 1, or to tier 2 where the placement byte says
tier 2. -/
def Model.placements (m : Model) (placement : Nat) : List (Bool × Nat × Nat) :=
  (m.fwd ++ m.bwd).flatMap (fun g => (List.range g.count).map (fun k =>
    (g.isUnder || (if placement == 0 then g.home == 1 else placement == 1), if g.isUnder then 1 else 0, g.first + k))) ++
  m.stateTiles.map (fun i => (placement != 2, 5, i))

/-- Place a model's tiles; none where there is no room. -/
def State.placeGroups (s : State) (p : Nat) (m : Model) (pk : List Byte) (placement : Nat) : Option State :=
  (m.placements placement).foldl (fun acc e => acc.bind (fun (s : State) => s.placeTile p m pk e.1 e.2.1 e.2.2)) (some s)

/-- The first container that MODEL_LOAD has to decode, because its tile is kept decoded in tier 1, and that fails its checks (R110). -/
def State.badContainer (s : State) (p : Nat) (m : Model) (pk : List Byte) (placement : Nat) : Option Nat :=
  ((m.placements placement).find? (fun e =>
    e.1 && !s.compressed1 p (e.2.1 * 2 ^ 60) && (decodeContainer (packageTile pk e.2.2)).isNone)).map (fun e => e.2.2)

/-- The lowest free model load slot (R147). -/
def State.freeModelSlot (s : State) : Option Nat :=
  (List.range 256).find? (fun v => !s.models.any (fun m => m.slot == v))

/-- A resident model version of a partition. -/
def State.model? (s : State) (p id ver : Nat) : Option Model :=
  s.models.find? (fun m => m.part == p && m.id == id && m.version == ver)

/-- Change a model version. -/
def State.setModel (s : State) (p id ver : Nat) (f : Model → Model) : State :=
  { s with models := updateWhere s.models (fun m => m.part == p && m.id == id && m.version == ver) f }

/-- Record the KV geometry of a load slot (R396). -/
def State.setGeom (s : State) (m : Model) : State :=
  s.setRaw (HDS_KV_GEOM m.slot) (BitVec.ofNat 64 (m.id * 2 ^ 48 + m.version * 2 ^ 32 + m.kvLayers * 2 ^ 20 +
    (m.kvWidth / 64 - 1) * 2 ^ 12 + m.headDim / 16 * 2 ^ 7 + m.kvFmt))

/-- MODEL_LOAD (R115 to R118, R143, R147). -/
def bodyModelLoad (c : Cmd) (s : State) : State :=
  let p := c.hdr.partition
  let a := fieldAt c.input 8 8
  let n := fieldAt c.input 16 8
  let placement := fieldAt c.input 4 1
  if c.input.length < 24 || (a != 0 && c.input.length != 24) || (a == 0 && c.input.length != 24 + n) then
    s.refuse c stBadParameter
  else if !zerosAt c.input 5 3 then s.refuse c stReservedNonzero
  else if a != 0 && !s.owns p a (max n 1) then s.refuse c stBadAddress
  else if a != 0 && s.hitsDir p a n then s.refuse c stNotPermitted
  else
    let s := if a == 0 then s else s.noteRead 0 p [(a, n)]
    if a != 0 && s.isUe a n then s.refuse c stUncorrectableData
    else
    let pk := if a == 0 then c.input.drop 24 else s.bytes a n
    let id := fieldAt c.input 0 2
    let ver := fieldAt c.input 2 2
    let m0 := parseModel pk
    let m : Model := { m0 with part := p, id := id, version := ver }
    if 2 < placement || ver == 0xFFFF || (s.model? p id ver).isSome then s.refuse c stBadParameter
    else if !packageOk pk m then s.refuse c stBadParameter
    else if (m.fwd ++ m.bwd).any (fun g => s.tier0Share p < m.groupBytes g) then s.refuse c stNoMemory
    else match s.badContainer p m pk placement with
    | some i =>
      -- a package that came as the command's input stood in no resource
      (if a == 0 then s.event TIER_EVENT 0 else s.codecError (a + packageOff pk i)).refuse c stUncorrectableData
    | none =>
    match s.freeModelSlot with
    | none => s.refuse c stNoMemory
    | some v =>
      let klen := fieldAt pk 84 4 + 8 * m.entries.length
      match (s.alloc1 p (roundUp klen 4096) 4096) with
      | none => s.refuse c stNoMemory
      | some k =>
        let s1 := (s.hold k (roundUp klen 4096)).store k
          (slice pk (fieldAt pk 88 8) (fieldAt pk 84 4) ++ slice pk (fieldAt pk 96 8) (8 * m.entries.length))
        match s1.placeGroups p m pk placement with
        | none => s.refuse c stNoMemory
        | some s2 =>
          let cur := !s2.models.any (fun x => x.part == p && x.id == id && x.current)
          let m' := { m with slot := v, kernel := k, current := cur }
          ({ s2 with models := s2.models ++ [m'] }.setGeom m').refuse c stOk

/-- Free a model version: its tier objects, its kernels and its load slot (R147, R396). The earliest loaded version
left of a model ID becomes current when the current one goes (log entry 18). -/
def State.freeModel (s : State) (m : Model) : State :=
  let mine (id : Nat) : Bool :=
    (id / 2 ^ 60 == 0 || id / 2 ^ 60 == 1 || id / 2 ^ 60 == 5) && id / 2 ^ 44 % 2 ^ 16 == m.id &&
      id / 2 ^ 28 % 2 ^ 16 == m.version
  let ids := (s.dir.filter (fun e => e.1 == m.part && mine e.2.id)).map (fun e => e.2.id)
  let s1 := ids.foldl (fun s id => s.delObj m.part id) (s.release m.kernel)
  let rest := s1.models.filter (fun x => x.slot != m.slot)
  let next := if m.current then (rest.find? (fun x => x.part == m.part && x.id == m.id)).map (fun x => x.slot) else none
  { s1 with models := rest.map (fun (x : Model) => if some x.slot == next then { x with current := true } else x) }.setFld
    (HDS_KV_GEOM m.slot) 31 20 0

end Sys2Proof.Machine
end

