-- ==== Sys2Proof/Machine/Spindle.lean ====
section
/-! DEFINITION. The Spindle near-memory engines (spec/04): descriptors, distances on codes, decoding, histogram passes,
row updates, scrub, copies and the base-die stores. -/

namespace Sys2Proof.Machine

/-- Elements of a segment. -/
def segElems (f len : Nat) : Nat := len * 8 / (fmtBits f).getD 8

end Sys2Proof.Machine

namespace Sys2Proof

open Sys2Proof.Machine

/-- A field of a descriptor. -/
def Desc.f (d : Desc) (off len : Nat) : Nat := fieldAt d.bytes off len

/-- The issuer's partition. -/
def Desc.part (d : Desc) : Nat := d.f 2 1 % 16

/-- The firmware issued the descriptor. -/
def Desc.firmware (d : Desc) : Bool := (d.f 2 1).testBit 7

/-- The common header is well formed (Table 4-2). -/
def Desc.headOk (d : Desc) (op flags slot inl : Nat) : Bool :=
  d.f 0 1 == op && within (d.f 1 1) flags && d.f 2 1 / 16 % 8 == 0 && d.f 3 1 ≤ slot && d.f 10 2 == inl &&
    d.inl.length == inl && zerosAt d.bytes 14 2

/-- The first `n` of the offsets at byte 24. -/
def Desc.offsets (d : Desc) (n : Nat) : List Nat := (List.range n).map (fun i => d.f (24 + 4 * i) 4)

/-- The offsets beyond `n` are zero. -/
def Desc.restZero (d : Desc) (n : Nat) : Bool := zerosAt d.bytes (24 + 4 * n) (32 - 4 * n)

/-- The shape of a row descriptor (Table 4-11). -/
def Desc.rowOk (d : Desc) (gather : Bool) : Bool :=
  let f := d.f 16 1
  let len := d.f 18 2
  let n := d.f 20 1
  (f == 1 || f == 2 || f == 4 || f == 7) && (if gather then d.f 17 1 ≤ 2 else d.f 17 1 == 0) && 16 ≤ len && len ≤ 4096 &&
  len % 16 == 0 && 1 ≤ n && n ≤ 8 && zerosAt d.bytes 21 3 && d.restZero n && zerosAt d.bytes 56 8 &&
  (gather || n * segElems f len ≤ 1024)

/-- Inline bytes of a row update: its FP32 vectors, padded to 64. -/
def Desc.rowInline (d : Desc) : Nat := roundUp (4 * d.f 20 1 * segElems (d.f 16 1) (d.f 18 2)) 64

end Sys2Proof

namespace Sys2Proof.Machine

/-! ### A pseudo-channel as memory (R150, R154, R176) -/

/-- The memory of a byte offset of a physical pseudo-channel: the device address that R29 or R31 gives it; a user
pseudo-channel that no partition owns has no device address, and its bytes are kept beyond the 48-bit address space. -/
def State.spnAddr (s : State) (g off : Nat) : Nat :=
  let l := s.fld (SPN_ENGINE g) 39 32
  let alone := 2 ^ 48 + g * 2 ^ 32 + off
  if l < 30 then (s.deinterleave (g / 32 * 30 + l) off).getD alone
  else if l < 32 then 0x00F0_0000_0000 + (g / 32 * 2 + (l - 30)) * 2 ^ 32 + off
  else alone

/-- `n` bytes of a pseudo-channel. -/
def State.pchBytes (s : State) (g off n : Nat) : List Byte := (List.range n).map (fun i => s.byte (s.spnAddr g (off + i)))

/-- Some burst of a range of a pseudo-channel reads uncorrectable; the first such offset. -/
def State.pchUe (s : State) (g off n : Nat) : Option Nat :=
  ((burstsOf off n).find? (fun b => s.ue.contains (s.spnAddr g (b * 64) / 64))).map (fun b => b * 64)

/-- The errors that reading ranges of a pseudo-channel finds are reported, each burst as it is read (R181). -/
def State.spnReads (s : State) (g op part : Nat) (rs : List (Nat × Nat)) : State :=
  (rs.flatMap (fun r => burstsOf r.1 r.2)).foldl (fun s b =>
    let a := s.spnAddr g (b * 64)
    if s.ue.contains (a / 64) then s.memUe a op part
    else if s.ce.contains (a / 64) then s.memCe a op part
    else s) s

/-- Flag bit 0 of a completion record: corrected data was read (Table 4-4). -/
def State.spnCe (s : State) (g : Nat) (rs : List (Nat × Nat)) : Nat :=
  if rs.any (fun r => (burstsOf r.1 r.2).any (fun b => s.ce.contains (s.spnAddr g (b * 64) / 64))) then 1 else 0

/-- Write bytes to a pseudo-channel, granule by granule. -/
def State.pchStore (s : State) (g off : Nat) (bs : List Byte) : State :=
  (List.range (ceilDiv (off % 4096 + bs.length) 4096)).foldl (fun s k =>
    let lo := k * 4096 - min (off % 4096) (k * 4096)
    let hi := (k + 1) * 4096 - off % 4096
    s.store (s.spnAddr g (off + lo)) (slice bs lo (hi - lo))) s

/-! ### Accepting and completing descriptors (R154 to R157) -/

/-- Completion statuses (Table 4-4). -/
abbrev spnOk : Nat := 0
abbrev spnUncorrectable : Nat := 1
abbrev spnBadDescriptor : Nat := 2
abbrev spnNotOwner : Nat := 3
abbrev spnRange : Nat := 4
abbrev spnAborted : Nat := 5
abbrev spnEngineFault : Nat := 6

/-- Send a descriptor's result data and its completion record (Table 4-4). -/
def State.spnDone (s : State) (g : Nat) (d : Desc) (status flags count dropped : Nat) (data : List Byte) : State :=
  { s with spnOut := s.spnOut ++ [⟨g, d.f 8 2, data,
      toLE 4 (d.f 4 4) ++ toLE 1 status ++ toLE 1 flags ++ toLE 2 count ++ toLE 4 dropped ++ zeros 4⟩] }

/-- Reject a descriptor (R156): it touches no memory and is recorded. -/
def State.spnReject (s : State) (g : Nat) (d : Desc) (status : Nat) : State :=
  ((s.event SPN_ERR_STATUS 3).spnLogPut 5 g (d.f 0 1) d.part 0).spnDone g d status 0 0 0 []

/-- A descriptor waits in its engine's queue, and the queue holds its submitter (R23, ENG_EN). -/
def State.spnHold (s : State) (g : Nat) (d : Desc) : State :=
  { s with spn := { s.spn with held := s.spn.held ++ [(g, d)] } }

/-- An engine takes descriptors: engines are enabled, and this one is ready or migrating. -/
def State.engineTakes (s : State) (g : Nat) : Bool :=
  s.bit SPN_CTRL 0 && (s.fld (SPN_ENGINE g) 18 16 == 1 || s.fld (SPN_ENGINE g) 18 16 == 2)

/-- The engine's pseudo-channel is open to the issuer (R155). -/
def State.spnOwned (s : State) (g : Nat) (d : Desc) : Bool :=
  d.firmware || (s.bit (SPN_ENGINE g) 19 && s.fld (SPN_ENGINE g) 23 20 == d.part && s.fld (SPN_ENGINE g) 39 32 < 30)

/-- Take a descriptor: ownership, then its fields, then its range, then the operation. An engine that takes none leaves it in its
queue. -/
def State.spnTake (s : State) (g : Nat) (d : Desc) (ok range : Bool) (k : State → State) : State :=
  if !s.engineTakes g then s.spnHold g d
  else if !s.spnOwned g d then s.spnDone g d spnNotOwner 0 0 0 []
  else if !ok then s.spnReject g d spnBadDescriptor
  else if !range then s.spnReject g d spnRange
  else k s

/-- [off, off + n) lies inside a pseudo-channel. -/
def pchFits (off n : Nat) : Bool := off + n ≤ 2 ^ 32

/-! ### The base-die stores (R151, R164, R171, R183, R185) -/

/-- An entry of a store: zeros until it is written. -/
def storeGet (l : List ((Nat × Nat) × List Byte)) (stack entry size : Nat) : List Byte :=
  ((l.find? (fun e => e.1 == (stack, entry))).map (fun e => e.2)).getD (zeros size)

/-- Write an entry of a store. -/
def storeSet (l : List ((Nat × Nat) × List Byte)) (stack entry : Nat) (bs : List Byte) : List ((Nat × Nat) × List Byte) :=
  ((stack, entry), bs) :: l.filter (fun e => e.1 != (stack, entry))

/-- A run of entries of a store has one that an error has invalidated, or one that is withdrawn. -/
def State.storeBad (s : State) (stack store first n : Nat) : Bool :=
  (List.range n).any (fun i => s.spn.bad.contains (stack, store, first + i) || s.spn.gone.contains (stack, store, first + i))

/-- A written entry is valid again. -/
def SpnStores.heal (x : SpnStores) (stack store entry : Nat) : SpnStores :=
  { x with bad := x.bad.filter (fun e => e != (stack, store, entry)) }

/-- The stacks whose stores are in use: trained and ready. -/
def State.stacksReady (s : State) : List Nat := (List.range 8).filter (fun k => s.ready k)

/-! ### Code profiles and distances (R158 to R163, R187) -/

/-- A code profile (SPN_PROFILE). -/
structure CodeProfile where
  cbFirst : Nat
  cbUnits : Nat
  dims    : Nat
  bytes   : Nat
  fmt     : Nat
  metric  : Nat
  valid   : Bool
  deriving DecidableEq, Repr, Inhabited

/-- The profile of a number. -/
def State.profile (s : State) (n : Nat) : CodeProfile :=
  let f := s.fld (SPN_PROFILE n)
  ⟨f 63 58, f 57 52 + 1, f 47 35, f 34 26, f 23 20, f 19 18, s.bit (SPN_PROFILE n) 0⟩

/-- Subquantizers of a PQ profile, and centroids of each. -/
def CodeProfile.subs (p : CodeProfile) : Nat × Nat := if p.fmt == 1 then (p.bytes, 256) else (2 * p.bytes, 16)

/-- A profile is not invalid under R187. A PQ profile whose units pass unit 63 names units that do not exist, and its codebook does not
fit its units (R159; DESIGN CHOICE, log entry 128). -/
def CodeProfile.ok (p : CodeProfile) : Bool :=
  let m := p.subs.1
  p.valid && 1 ≤ p.fmt && p.fmt ≤ 5 && 32 ≤ p.bytes && p.bytes ≤ 256 && p.bytes % 16 == 0 && 1 ≤ p.dims &&
  p.dims ≤ 4096 && p.metric ≤ 2 && ((p.fmt == 3) == (p.metric == 2)) &&
  (if p.fmt ≤ 2 then p.dims % m == 0 && p.subs.2 * p.dims ≤ p.cbUnits * 65536 && p.cbFirst + p.cbUnits ≤ 64
   else if p.fmt == 3 then p.dims == 8 * p.bytes else p.dims == p.bytes)

/-- Bytes of a query in its stored form (R160). -/
def CodeProfile.queryBytes (p : CodeProfile) : Nat :=
  if p.fmt == 3 then p.bytes else if p.fmt ≤ 2 then 2 * p.dims else 2 * p.bytes

/-- Query slots that a query occupies (R152). -/
def CodeProfile.querySlots (p : CodeProfile) : Nat :=
  if p.queryBytes ≤ 2048 then 1 else if p.queryBytes ≤ 4096 then 2 else 4

/-- A decoded code: centroid elements for PQ, elements for INT8 and FP8. `cb` is the codebook of the profile. -/
def CodeProfile.decode (p : CodeProfile) (cb code : List Byte) : List Fp :=
  match p.fmt with
  | 4 => code.map (fun b => elemValue 6 b.toNat)
  | 5 => code.map (fun b => elemValue 1 b.toNat)
  | _ =>
    let m := p.subs.1
    let c := p.subs.2
    let k := p.dims / m
    (List.range m).flatMap (fun j =>
      let x := if p.fmt == 1 then fieldAt code j 1 else fieldAt code (j / 2) 1 / 16 ^ (j % 2) % 16
      (List.range k).map (fun i => elemValue 1 (fieldAt cb ((j * c + x) * k + i) 1)))

/-- Number of set bits of a byte. -/
def byteOnes (b : Byte) : Nat := popCount 8 b.toNat

/-- A sum of exact products in FP32, each addition rounded, in ascending element order from the first: R161 gives no order (DESIGN
CHOICE, log entry 125). -/
def sumProducts (xs : List Fp) : F32 :=
  match xs with
  | [] => 0
  | x :: r => r.foldl (fun a y => ((f32 a).add y).toF32) x.toF32

/-- The squared L2 distance of two vectors (Table 4-6). -/
def l2Dist (q x : List Fp) : F32 :=
  sumProducts ((q.zip x).map (fun e =>
    let d := e.1.add e.2.neg
    d.mul d))

/-- The negated inner product. -/
def ipDist (q x : List Fp) : F32 :=
  let r := sumProducts ((q.zip x).map (fun e => e.1.mul e.2))
  if fNan r then 0x7FC00000 else fNeg r

/-- The BF16 elements of a stored query. -/
def bf16Elems (n : Nat) (bs : List Byte) : List Fp := (List.range n).map (fun i => elemValue 4 (fieldAt bs (2 * i) 2))

/-- The distance of a code from a query (R161). -/
def CodeProfile.dist (p : CodeProfile) (cb query code : List Byte) : F32 :=
  if p.fmt == 3 then fOfNat (sumNat ((query.take p.bytes).zipWith (fun a b => byteOnes (a ^^^ b)) code))
  else
    let x := p.decode cb code
    let q := bf16Elems x.length query
    if p.metric == 0 then l2Dist q x else ipDist q x

/-- The codebook of a profile in a stack. -/
def State.codebook (s : State) (stack : Nat) (p : CodeProfile) : List Byte :=
  if p.fmt ≤ 2 then (List.range p.cbUnits).flatMap (fun i => storeGet s.spn.codebook stack (p.cbFirst + i) 65536) else []

/-- A stored query. -/
def State.queryAt (s : State) (stack slot : Nat) (p : CodeProfile) : List Byte :=
  ((List.range p.querySlots).flatMap (fun i => storeGet s.spn.query stack (slot + i) 2048)).take p.queryBytes

/-- The stores that a distance operation uses hold an invalidated entry (R183). -/
def State.distFault (s : State) (stack : Nat) (p : CodeProfile) (slots : List Nat) : Bool :=
  slots.any (fun q => s.storeBad stack 0 q p.querySlots) || (p.fmt ≤ 2 && s.storeBad stack 1 p.cbFirst p.cbUnits)

/-- A query slot can hold the profile's queries. -/
def CodeProfile.slotOk (p : CodeProfile) (q : Nat) : Bool := q % p.querySlots == 0 && q + p.querySlots ≤ 16384

/-- The distance of the code at an offset, NaN where the code reads uncorrectable (R162). -/
def State.distAt (s : State) (g off : Nat) (p : CodeProfile) (cb query : List Byte) : F32 :=
  if (s.pchUe g off p.bytes).isSome then 0x7FC00000 else p.dist cb query (s.pchBytes g off p.bytes)

/-- A code starts on a 16-byte boundary and does not cross a 4 KiB granule (R158). -/
def CodeProfile.placed (p : CodeProfile) (off : Nat) : Bool := off % 16 == 0 && off % 4096 + p.bytes ≤ 4096

/-- Count distance evaluations. -/
def State.countEvals (s : State) (g n : Nat) : State := s.bump (SPN_EVAL_CNT (g / 32)) 63 0 n

/-- DIST_LIST (R161, R162). -/
def distListStep (g : Nat) (d : Desc) (s : State) : State :=
  let p := s.profile (d.f 3 1)
  let n := d.f 18 1
  let slot := d.f 16 2
  let ok := d.headOk 1 0 63 0 && p.ok && 1 ≤ n && n ≤ 8 && p.slotOk slot && zerosAt d.bytes 19 5 && d.restZero n &&
    zerosAt d.bytes 56 8 && (d.offsets n).all p.placed
  s.spnTake g d ok ((d.offsets n).all (fun o => pchFits o p.bytes)) fun s =>
    let stack := g / 32
    if s.distFault stack p [slot] then s.spnDone g d spnEngineFault 0 0 0 []
    else
      let rs := (d.offsets n).map (fun o => (o, p.bytes))
      let ds := (d.offsets n).map (fun o => s.distAt g o p (s.codebook stack p) (s.queryAt stack slot p))
      let bad := (d.offsets n).any (fun o => (s.pchUe g o p.bytes).isSome)
      ((s.spnReads g 1 d.part rs).countEvals g n).spnDone g d (if bad then spnUncorrectable else spnOk) (s.spnCe g rs) n
        ((ds.filter fNan).length) (ds.flatMap (fun x => toLE 4 x.toNat))

/-- Distances in ascending order: negative zero counts as zero. -/
def distKey (x : F32) : Nat := fRank (if x == 0x80000000 then 0 else x)

/-- The `t` nearest of (index, distance) pairs, NaN left out, ties toward the lower index (R163). -/
def nearest (t : Nat) (xs : List (Nat × F32)) : List (Nat × F32) :=
  (sortBy (fun a b => decide (distKey a.2 < distKey b.2 || (distKey a.2 = distKey b.2 && a.1 < b.1)))
    (xs.filter (fun x => !fNan x.2))).take t

/-- DIST_SCAN (R163). -/
def distScanStep (g : Nat) (d : Desc) (s : State) : State :=
  let p := s.profile (d.f 3 1)
  let off := d.f 16 4
  let n := d.f 20 4
  let stride := d.f 24 2
  let q := d.f 26 1
  let t := d.f 27 1
  let slots := (List.range q).map (fun i => d.f (28 + 2 * i) 2)
  let ok := d.headOk 2 0 63 0 && p.ok && 1 ≤ n && n ≤ 2 ^ 26 && p.bytes ≤ stride && stride % 16 == 0 && 1 ≤ q && q ≤ 16 &&
    1 ≤ t && t ≤ 64 && slots.all p.slotOk && zerosAt d.bytes (28 + 2 * q) (32 - 2 * q) &&
    (List.range n).all (fun k => p.placed (off + k * stride))
  s.spnTake g d ok (pchFits off ((n - 1) * stride + p.bytes)) fun s =>
    let stack := g / 32
    if s.distFault stack p slots then s.spnDone g d spnEngineFault 0 0 0 []
    else
      let rs := (List.range n).map (fun k => (off + k * stride, p.bytes))
      let ues := rs.filter (fun r => (s.pchUe g r.1 p.bytes).isSome)
      let one (slot : Nat) : List (Nat × F32) :=
        (List.range n).map (fun k =>
          (d.f 60 4 + k, s.distAt g (off + k * stride) p (s.codebook stack p) (s.queryAt stack slot p)))
      let res := slots.map one
      let out := res.flatMap (fun xs =>
        let best := nearest t xs
        best.flatMap (fun e => toLE 4 e.1 ++ toLE 4 e.2.toNat) ++
          (List.replicate (t - best.length) (toLE 4 0xFFFF_FFFF ++ toLE 4 0x7FC0_0000)).flatten)
      let nan := sumNat (res.map (fun xs => (xs.filter (fun e => fNan e.2)).length))
      ((s.spnReads g 2 d.part rs).countEvals g (n * q)).spnDone g d (if ues.isEmpty then spnOk else spnUncorrectable)
        (s.spnCe g rs) (q * t) nan out

/-- QLOAD (R160, R164): broadcast to the query stores of every stack, with one completion record for each. A stack that is not ready
takes nothing and sends no record (DESIGN CHOICE, log entry 126). -/
def qloadStep (g : Nat) (d : Desc) (s : State) : State :=
  let slot := d.f 16 2
  let n := d.f 18 1
  let ok := d.headOk 3 0 0 (2048 * n) && (n == 1 || n == 2 || n == 4) && slot % n == 0 && slot + n ≤ 16384 &&
    zerosAt d.bytes 19 45
  s.spnTake g d ok true fun s =>
    s.stacksReady.foldl (fun s k =>
      let spn := (List.range n).foldl (fun (x : SpnStores) i =>
        { x with query := storeSet x.query k (slot + i) (slice d.inl (2048 * i) 2048) }.heal k 0 (slot + i)) s.spn
      ({ s with spn := spn }).spnDone (k * 32 + g % 32) d spnOk 0 0 0 []) s

/-- PSET (R171): one slot in every stack, as QLOAD for a stack that is not ready (log entry 126). The bytes that pad the inline data to
64 are not looked at. -/
def psetStep (g : Nat) (d : Desc) (s : State) : State :=
  let ok := d.headOk 0x0C 0 0 64 && zerosAt d.bytes 17 47
  s.spnTake g d ok true fun s =>
    s.stacksReady.foldl (fun s k =>
      ({ s with spn := { s.spn with param := storeSet s.spn.param k (d.f 16 1) (d.inl.take 32) }.heal k 2 (d.f 16 1) }).spnDone
        (k * 32 + g % 32) d spnOk 0 0 0 []) s

/-- CODEBOOK_LOAD: a write of SPN_CB_LOAD (R185). -/
def codebookLoadStep (v : Reg) (s : State) : State :=
  let rw := fieldMask 61 50 ||| fieldMask 47 0
  let s := s.setRaw SPN_CB_LOAD (v &&& rw)
  let n := v.toNat / 2 ^ 56 % 64 + 1
  let first := v.toNat / 2 ^ 50 % 64
  let src := v.toNat % 2 ^ 48
  if !v.getLsbD 63 then s
  else if 64 < first + n || src % 65536 != 0 || !s.listed src (n * 65536) then
    (s.event SPN_ERR_STATUS 3).spnLogPut 5 0 0 0 0
  else
    let bad := (List.range n).filter (fun i => s.isUe (src + i * 65536) 65536)
    -- each bad burst of the source is reported as DRAM_UE, wherever it lies (R185), and each corrected one as any read is (R181)
    let s1 := ((burstsOf src (n * 65536)).filter (fun b => s.ue.contains b || s.ce.contains b)).foldl (fun t b =>
      if s.ue.contains b then (t.memUe (b * 64) 0 0).event SPN_ERR_STATUS 2 else t.memCe (b * 64) 0 0) s
    let spn := s1.stacksReady.foldl (fun (x : SpnStores) k =>
      (List.range n).foldl (fun (x : SpnStores) i =>
        let y := { x with codebook := storeSet x.codebook k (first + i) (s1.bytes (src + i * 65536) 65536) }.heal k 1 (first + i)
        if bad.contains i then { y with bad := y.bad ++ [(k, 1, first + i)] } else y) x) s1.spn
    { s1 with spn := spn }

/-! ### Decoding (R165) -/

/-- DECODE (R110, R165). -/
def decodeStep (g : Nat) (d : Desc) (s : State) : State :=
  let off := d.f 16 4
  let n := d.f 20 4
  s.spnTake g d (d.headOk 4 0 0 0 && zerosAt d.bytes 24 40) (pchFits off n) fun s =>
    let s1 := s.spnReads g 4 d.part [(off, n)]
    let ce := s.spnCe g [(off, n)]
    match (if (s.pchUe g off n).isSome then none else decodeContainer (s.pchBytes g off n)) with
    | some tile => s1.spnDone g d spnOk ce 0 0 tile
    | none => ((s1.event TIER_EVENT 0).report ⟨2, g, 0, .corrected⟩).spnDone g d spnUncorrectable ce 0 1 []

/-! ### Histogram passes (R166, R167, R243, R245) -/

/-- Width in bits of a key format (Table 6-1); none for a format that is no key format. -/
def keyBits (f : Nat) : Option Nat :=
  match f with
  | 0x01 => some 8
  | 0x02 => some 8
  | 0x04 => some 16
  | 0x07 => some 32
  | 0x09 => some 32
  | _ => none

/-- A key is a NaN (R244). -/
def keyNan (f x : Nat) : Bool := f != 0x09 && (elemValue f x).isNan

/-- The mapped key of a key's bits (R243); negative zero maps as zero (R245). -/
def mapKey (f x : Nat) : Nat :=
  let w := (keyBits f).getD 32
  let h := 2 ^ (w - 1)
  let y := if f != 0x09 && x == h then 0 else x
  if f == 0x09 then (y + h) % 2 ^ w else if y < h then y + h else 2 ^ w - 1 - y

/-- The FP32 value of a key. -/
def keyF32 (f x : Nat) : F32 := (elemValue f x).toF32

/-- The keys of an array in a pseudo-channel: index, bits, and whether the burst that holds it reads uncorrectable. -/
def State.pchKeys (s : State) (g off n f : Nat) : List (Nat × Nat × Bool) :=
  let k := (keyBits f).getD 32 / 8
  (List.range n).map (fun i => (i, leNat (s.pchBytes g (off + k * i) k), (s.pchUe g (off + k * i) k).isSome))

/-- HIST (R166). Its result count, as that of every operation for which Table 4-4 names none, is 0 (DESIGN CHOICE, log entry 124). -/
def histStep (g : Nat) (d : Desc) (s : State) : State :=
  let off := d.f 16 4
  let n := d.f 20 4
  let f := d.f 24 1
  let w := (keyBits f).getD 0
  let pass := d.f 25 1
  let pre := d.f 28 4
  let ok := d.headOk 5 0 0 0 && w != 0 && 1 ≤ n && n ≤ 2 ^ 28 && pass < w / 8 && d.f 26 1 < 2 && zerosAt d.bytes 27 1 &&
    pre < 2 ^ (8 * pass) && zerosAt d.bytes 32 32
  s.spnTake g d ok (pchFits off (n * (w / 8))) fun s =>
    let keys := s.pchKeys g off n f
    let good := keys.filter (fun e => !e.2.2 && !keyNan f e.2.1)
    let live := good.filter (fun e => mapKey f e.2.1 / 2 ^ (w - 8 * pass) == pre)
    let bin (v : Nat) : List (Nat × Nat × Bool) := live.filter (fun e => mapKey f e.2.1 / 2 ^ (w - 8 * pass - 8) % 256 == v)
    let counts := (List.range 256).flatMap (fun v => toLE 4 (bin v).length)
    let sums := (List.range 256).flatMap (fun v =>
      if d.f 26 1 == 1 then toLE 4 (fSum ((bin v).map (fun e => keyF32 f e.2.1))).toNat else zeros 4)
    let rs := [(off, n * (w / 8))]
    (s.spnReads g 5 d.part rs).spnDone g d (if keys.any (fun e => e.2.2) then spnUncorrectable else spnOk) (s.spnCe g rs) 0
      (n - good.length) (counts ++ sums)

/-- KEY_COMPACT (R167). A number of matches above 65,535 does not fit the 2-byte result count, and what the count then holds is a
free value (log entry 98). The whole output area has to fit the pseudo-channel, whatever is written of it (R156; DESIGN CHOICE, log
entry 123). -/
def keyCompactStep (g : Nat) (d : Desc) (s : State) : State :=
  let off := d.f 16 4
  let n := d.f 20 4
  let f := d.f 24 1
  let w := (keyBits f).getD 0
  let pass := d.f 25 1
  let pre := d.f 28 4
  let out := d.f 36 4
  let cap := d.f 40 4
  let ok := d.headOk 6 0 0 0 && w != 0 && 1 ≤ n && n ≤ 2 ^ 28 && pass < w / 8 && zerosAt d.bytes 26 2 &&
    pre < 2 ^ (8 * (pass + 1)) && out % 8 == 0 && zerosAt d.bytes 44 20
  s.spnTake g d ok (pchFits off (n * (w / 8)) && pchFits out (8 * cap)) fun s =>
    let keys := s.pchKeys g off n f
    let good := keys.filter (fun e => !e.2.2 && !keyNan f e.2.1)
    let hits := good.filter (fun e => mapKey f e.2.1 / 2 ^ (w - 8 * pass - 8) == pre)
    let rs := [(off, n * (w / 8))]
    let s1 := s.spnReads g 6 d.part rs
    let (count, s2) := if hits.length < 65536 then (hits.length, s1) else (Config.freeBelow s1.freeCtr 65536, s1.tick)
    let s3 := s2.pchStore g out ((hits.take cap).flatMap (fun e => toLE 4 (d.f 32 4 + e.1) ++ toLE 4 e.2.1))
    s3.spnDone g d (if keys.any (fun e => e.2.2) then spnUncorrectable else spnOk)
      (s.spnCe g rs + (if cap < hits.length then 2 else 0)) count (n - good.length) []

/-! ### Rows (R168 to R172) -/

/-- The element values of a segment's bytes. -/
def segValues (f : Nat) (bs : List Byte) : List F32 :=
  let b := (fmtBits f).getD 8
  (List.range (bs.length * 8 / b)).map (fun i => (elemValue f (elemAt b bs i)).toF32)

/-- A segment's bytes from its element values, converted under R292, saturating. -/
def segPack (f : Nat) (xs : List F32) : List Byte :=
  packElems ((fmtBits f).getD 8) (xs.map (fun x => convert f true (f32 x)))

/-- Element-wise combination of segments: a sum in list order, or a maximum that ignores NaN (R168). -/
def poolValues (mode : Nat) (vs : List (List F32)) : List F32 :=
  match vs with
  | [] => []
  | v :: r => r.foldl (fun a b => a.zipWith (fun x y => if mode == 2 then fMax x y else fAdd x y) b) v

/-- GATHER (R168): the segments as stored, or their sum or maximum in FP32. -/
def gatherStep (g : Nat) (d : Desc) (s : State) : State :=
  let f := d.f 16 1
  let len := d.f 18 2
  let n := d.f 20 1
  s.spnTake g d (d.headOk 7 0 0 0 && d.rowOk true) ((d.offsets n).all (fun o => pchFits o len)) fun s =>
    let rs := (d.offsets n).map (fun o => (o, len))
    let s1 := s.spnReads g 7 d.part rs
    if (d.offsets n).any (fun o => (s.pchUe g o len).isSome) then s1.spnDone g d spnUncorrectable (s.spnCe g rs) 0 0 []
    else
      let segs := (d.offsets n).map (fun o => s.pchBytes g o len)
      let data := if d.f 17 1 == 0 then segs.flatten
        else (poolValues (d.f 17 1) (segs.map (segValues f))).flatMap (fun x => toLE 4 x.toNat)
      s1.spnDone g d spnOk (s.spnCe g rs) n 0 data

/-- The hyperparameters of a parameter slot (Table 4-10). -/
structure RowParams where
  lr  : F32
  eps : F32
  b1  : F32
  b2  : F32
  c1  : F32
  c2  : F32
  d1  : Nat
  d2  : Nat
  deriving DecidableEq, Repr, Inhabited

/-- A parameter slot's fields. -/
def rowParams (bs : List Byte) : RowParams :=
  let x (o : Nat) : F32 := BitVec.ofNat 32 (fieldAt bs o 4)
  ⟨x 0, x 4, x 8, x 12, x 16, x 20, fieldAt bs 24 4, fieldAt bs 28 4⟩

/-- One element's update (Table 4-9): kind 0 SCATTER_ADD, 1 ROW_SGD, 2 ROW_ADAGRAD, 3 ROW_ADAM; the weight and its two
state elements, with input g. Every operation is rounded to FP32, in the order in which the table writes it. -/
def rowUpdate (kind : Nat) (h : RowParams) (w a b g : F32) : F32 × F32 × F32 :=
  match kind with
  | 0 => (fAdd w g, a, b)
  | 1 => (fSub w (fMul h.lr g), a, b)
  | 2 =>
    let a' := fAdd a (fMul g g)
    (fSub w (fDiv (fMul h.lr g) (fAdd (fSqrt a') h.eps)), a', b)
  | _ =>
    let m := fAdd (fMul h.b1 a) (fMul (fSub 0x3F800000 h.b1) g)
    let v := fAdd (fMul h.b2 b) (fMul (fSub 0x3F800000 h.b2) (fMul g g))
    (fSub w (fDiv (fMul h.lr (fMul m h.c1)) (fAdd (fSqrt (fMul v h.c2)) h.eps)), m, v)

/-- State arrays that an update kind touches. -/
def rowStates (kind : Nat) : Nat := if kind == 2 then 1 else if kind == 3 then 2 else 0

/-- What an update of a segment reads: the segment and its state arrays (R170). -/
def segReads (kind f len : Nat) (h : RowParams) (o : Nat) : List (Nat × Nat) :=
  (o, len) :: (List.take (rowStates kind) [(o + h.d1) % 2 ^ 32, (o + h.d2) % 2 ^ 32]).map (fun a => (a, 4 * segElems f len))

/-- Update one segment of a pseudo-channel with its state; none where a burst reads uncorrectable. -/
def State.updateSegment (s : State) (g kind f len : Nat) (h : RowParams) (o : Nat) (gs : List F32) : Option State :=
  let e := segElems f len
  let o1 := (o + h.d1) % 2 ^ 32
  let o2 := (o + h.d2) % 2 ^ 32
  if (segReads kind f len h o).any (fun r => (s.pchUe g r.1 r.2).isSome) then none
  else
    let w := segValues f (s.pchBytes g o len)
    let a := if 1 ≤ rowStates kind then segValues 7 (s.pchBytes g o1 (4 * e)) else List.replicate e 0
    let b := if 2 ≤ rowStates kind then segValues 7 (s.pchBytes g o2 (4 * e)) else List.replicate e 0
    let r := (List.range e).map (fun i => rowUpdate kind h (w.getD i 0) (a.getD i 0) (b.getD i 0) (gs.getD i 0))
    let s1 := s.pchStore g o (segPack f (r.map (fun x => x.1)))
    let s2 := if 1 ≤ rowStates kind then s1.pchStore g o1 (segPack 7 (r.map (fun x => x.2.1))) else s1
    some (if 2 ≤ rowStates kind then s2.pchStore g o2 (segPack 7 (r.map (fun x => x.2.2))) else s2)

/-- A row update over the segments of a descriptor, in list order (R169, R172). -/
def rowStep (op kind g : Nat) (d : Desc) (s : State) : State :=
  let f := d.f 16 1
  let len := d.f 18 2
  let n := d.f 20 1
  let e := segElems f len
  let h := rowParams (storeGet s.spn.param (g / 32) (d.f 3 1) 32)
  let rs := (d.offsets n).flatMap (segReads kind f len h)
  s.spnTake g d (d.headOk op 0 (if kind == 0 then 0 else 255) d.rowInline && d.rowOk false)
      (rs.all (fun r => pchFits r.1 r.2)) fun s =>
    if kind != 0 && s.storeBad (g / 32) 2 (d.f 3 1) 1 then s.spnDone g d spnEngineFault 0 0 0 []
    else
      let (left, s1) := (d.offsets n).zipIdx.foldl (fun (acc : Nat × State) o =>
        let gs := (List.range e).map (fun i => BitVec.ofNat 32 (fieldAt d.inl (4 * (o.2 * e + i)) 4))
        let s1 := acc.2.spnReads g op d.part (segReads kind f len h o.1)
        match s1.updateSegment g kind f len h o.1 gs with
        | some s2 => (acc.1, s2)
        | none => (acc.1 + 1, s1)) (0, s)
      s1.spnDone g d (if left == 0 then spnOk else spnUncorrectable) (s.spnCe g rs) (n - left) left []

/-- SCATTER_ADD. -/
def scatterAddStep (g : Nat) (d : Desc) (s : State) : State := rowStep 8 0 g d s

/-- ROW_SGD. -/
def rowSgdStep (g : Nat) (d : Desc) (s : State) : State := rowStep 9 1 g d s

/-- ROW_ADAGRAD. -/
def rowAdagradStep (g : Nat) (d : Desc) (s : State) : State := rowStep 10 2 g d s

/-- ROW_ADAM. -/
def rowAdamStep (g : Nat) (d : Desc) (s : State) : State := rowStep 11 3 g d s

/-! ### Scrub and copies (R173, R174, R182) -/

/-- Write back a burst that held a corrected error (R173). The read and the write-back are one step, so that no write falls between
them. -/
def State.scrubBack (s : State) (b : Nat) : State := { s with ce := s.ce.filter (fun x => x != b) }

/-- SCRUB (R173): every burst is read; one that held a corrected error is written back, and one that reads uncorrectable stays as
it is and is logged. -/
def scrubStep (g : Nat) (d : Desc) (s : State) : State :=
  let off := d.f 16 4
  let n := d.f 20 4
  let ok := d.headOk 0x0D 0 0 0 && off % 64 == 0 && n % 64 == 0 && zerosAt d.bytes 24 40
  s.spnTake g d ok (pchFits off n) fun s =>
    let rs := [(off, n)]
    ((burstsOf off n).foldl (fun s b => s.scrubBack (s.spnAddr g (b * 64) / 64)) (s.spnReads g 0x0D d.part rs)).spnDone g d spnOk
      (s.spnCe g rs) 0 0 []

/-- BACKGROUND_SCRUB (R173): one burst of a pseudo-channel in service, while SCRUB_EN is set. -/
def backgroundScrubStep (g off : Nat) (s : State) : State :=
  let st := s.fld (SPN_ENGINE g) 18 16
  if s.bit SPN_CTRL 1 && (st == 1 || st == 2) then
    (s.spnReads g 0 0 [(off, 1)]).scrubBack (s.spnAddr g (off / 64 * 64) / 64)
  else s

/-- COPY (R174): burst by burst; an uncorrectable source burst becomes the poison pattern (R182). Table 4-12 aligns the destination
alone: a burst of the copy may come from parts of two bursts of its source. The copy is one step, so that no write falls between
it and its mirror. Byte 17 of kind 0 has no source to name and is 0; kind 1 may name its own pseudo-channel; where the ranges
overlap, every burst is read as it stood before the copy (DESIGN CHOICE, log entry 127). -/
def spnCopyStep (g : Nat) (d : Desc) (s : State) : State :=
  let kind := d.f 16 1
  let src := d.f 24 8
  let dst := d.f 32 4
  let n := d.f 36 4
  let from_ := s.physPch (g / 32) (d.f 17 1)
  let ok := d.headOk 0x0E (if kind == 1 then 1 else 0) 0 0 && kind ≤ 1 && (if kind == 0 then d.f 17 1 == 0 else d.f 17 1 < 32) &&
    zerosAt d.bytes 18 6 && dst % 64 == 0 && 64 ≤ n && n % 64 == 0 && zerosAt d.bytes 40 24 &&
    (if kind == 0 then s.listed src n else from_.isSome)
  s.spnTake g d ok (pchFits dst n && (kind == 0 || pchFits src n)) fun s =>
    let at_ (o : Nat) : Nat := if kind == 0 then src + o else s.spnAddr (from_.getD 0) (src + o)
    let bursts := List.range (n / 64)
    let parts (i : Nat) : List Nat := dedupBy (fun (x : Nat) => x) [at_ (64 * i) / 64, at_ (64 * i + 63) / 64]
    let bad := bursts.filter (fun i => (parts i).any (fun b => s.ue.contains b))
    let ces := bursts.filter (fun i => (parts i).any (fun b => s.ce.contains b))
    let s1 := (dedupBy (fun (x : Nat) => x) (bursts.flatMap parts)).foldl (fun t b =>
      if s.ue.contains b then t.memUe (b * 64) 0x0E d.part
      else if s.ce.contains b then t.memCe (b * 64) 0x0E d.part
      else t) s
    let s2 := bursts.foldl (fun t i =>
      if bad.contains i then t.poison (t.spnAddr g (dst + 64 * i) / 64)
      else t.store (t.spnAddr g (dst + 64 * i)) ((List.range 64).map (fun j => s.byte (at_ (64 * i + j))))) s1
    s2.spnDone g d (if bad.isEmpty then spnOk else spnUncorrectable) (if ces.isEmpty then 0 else 1) 0 bad.length []

/-! ### Engines' queues (R23, R184) -/

/-- Carry out a descriptor by its opcode (Table 4-3); an unknown one is refused (R156). -/
def State.spnRun (s : State) (g : Nat) (d : Desc) : State :=
  match d.f 0 1 with
  | 1 => distListStep g d s
  | 2 => distScanStep g d s
  | 3 => qloadStep g d s
  | 4 => decodeStep g d s
  | 5 => histStep g d s
  | 6 => keyCompactStep g d s
  | 7 => gatherStep g d s
  | 8 => scatterAddStep g d s
  | 9 => rowSgdStep g d s
  | 10 => rowAdagradStep g d s
  | 11 => rowAdamStep g d s
  | 12 => psetStep g d s
  | 13 => scrubStep g d s
  | 14 => spnCopyStep g d s
  | _ => s.spnTake g d false false (fun s => s)

/-- Engines that take descriptors again carry out those that wait in their queues, in order. -/
def State.spnPump (s : State) : State :=
  (s.spn.held.filter (fun e => s.engineTakes e.1)).foldl (fun s e => s.spnRun e.1 e.2)
    { s with spn := { s.spn with held := s.spn.held.filter (fun e => !s.engineTakes e.1) } }

/-- SPINDLE_ABORT: a write of SPN_ABORT (R184). START completes the named context's queued descriptors with ABORTED, without
touching memory; a descriptor that an engine takes is carried out whole, so none is in progress, and the abort is done when the
write is. -/
def spindleAbortStep (v : Reg) (s : State) : State :=
  let s1 := s.setRaw SPN_ABORT (v &&& fieldMask 19 0)
  let hit (e : Nat × Desc) : Bool :=
    v.getLsbD 21 && e.2.part == v.toNat / 2 ^ 16 % 16 && (v.toNat % 65536 == 0xFFFF || e.2.f 12 2 == v.toNat % 65536)
  (s1.spn.held.filter hit).foldl (fun s e => s.spnDone e.1 e.2 spnAborted 0 0 0 [])
    { s1 with spn := { s1.spn with held := s1.spn.held.filter (fun e => !hit e) } }

/-- SPN_ERR_LOG_READ (R186): the oldest entry is returned and leaves the log. -/
def spnErrLogReadStep (s : State) : State :=
  { s with lastRead := s.spnLog.headD 0, spnLog := s.spnLog.drop 1 }

end Sys2Proof.Machine
end

