-- ==== Sys2Proof/Machine/Index.lean ====
section
/-! DEFINITION. Search indices (spec/05): the stores of an index, the image and its checks, inserts and deletes, fetches,
shard maps and unloading. -/

namespace Sys2Proof.Machine

/-! ### Identifiers and stores (R189 to R199) -/

/-- The first local ID that INDEX_INSERT assigns (R190). -/
abbrev insId : Nat := 0x8000_0000

/-- The smallest power of two that is at least `n`, from 32 up to 4096. -/
def slotOf (n : Nat) : Nat := ([32, 64, 128, 256, 512, 1024, 2048].find? (fun k => n ≤ k)).getD 4096

/-- The device address of an array offset through a chunk table (R194). -/
def tabAddr (t : List Nat) (o : Nat) : Nat := t.getD (o / 0x20_0000) 0 + o % 0x20_0000

/-- A loaded index of a partition. -/
def State.index? (s : State) (p i : Nat) : Option Index := s.indices.find? (fun x => x.part == p && x.num == i)

/-- Change an index. -/
def State.setIndex (s : State) (p i : Nat) (f : Index → Index) : State :=
  { s with indices := updateWhere s.indices (fun x => x.part == p && x.num == i) f }

/-- The chunk table of array `k` of an epoch: 0 code, 1 neighbour, 2 attribute, 3 ID. -/
def Epoch.tab (e : Epoch) (k : Nat) : List Nat := e.tabs.getD k []

/-- Element sizes of the arrays of an epoch. -/
def Index.elem (x : Index) (k : Nat) : Nat :=
  match k with
  | 0 => x.cs
  | 1 => x.ns
  | 2 => 8
  | _ => 4

/-- The device address of element `n` of array `k` of an epoch. -/
def Index.addr (x : Index) (e : Epoch) (k n : Nat) : Nat := tabAddr (e.tab k) (n * x.elem k)

/-- A bit of a bitmap held in chunks. -/
def State.bitAt (s : State) (t : List Nat) (n : Nat) : Bool := (s.byte (tabAddr t (n / 8))).getLsbD (n % 8)

/-- Set a bit of a bitmap held in chunks. -/
def State.setBitAt (s : State) (t : List Nat) (n : Nat) (v : Bool) : State :=
  let a := tabAddr t (n / 8)
  let b := (s.byte a).toNat
  s.store a [BitVec.ofNat 8 (if v then setBit b (n % 8) else clearBit b (n % 8))]

/-- The neighbours of a node: the entries before the padding. -/
def State.nodeNbrs (s : State) (x : Index) (e : Epoch) (n : Nat) : List Nat :=
  ((List.range (x.ns / 4)).map (fun i => s.num (x.addr e 1 n + 4 * i) 4)).filter (fun m => m != 0xFFFF_FFFF)

/-- The code of a node. -/
def State.nodeCode (s : State) (x : Index) (e : Epoch) (n : Nat) : List Byte := s.bytes (x.addr e 0 n) x.codeLen

/-- The address of a side slot's code (R208). -/
def Index.sideAddr (x : Index) (a : Nat) : Nat := x.sideCode + a % x.cap * x.cs

/-- The address of a side slot's metadata record (Table 5-3). -/
def Index.metaAddr (x : Index) (a : Nat) : Nat := tabAddr x.smeta (a % x.cap * 16)

/-- A location word (Table 5-4) of a side slot; `7FFF_FFFF` and `FFFF_FFFF` name none. -/
def slotWord (x : Index) (a : Nat) : Nat := insId + a % x.cap

/-- A location word names no location. -/
def noLoc (w : Nat) : Bool := w == 0x7FFF_FFFF || w == 0xFFFF_FFFF

/-- The count of the side slot that a location word names: the window holds one slot of each ring position. -/
def Index.slotOfWord (x : Index) (w : Nat) : Nat :=
  let r := w - insId
  x.wstart + (r + x.cap - x.wstart % x.cap) % x.cap

/-- The newest location of an assigned local ID (R198). -/
def State.newest (s : State) (x : Index) (id : Nat) : Nat :=
  if id < insId then (assoc x.overlay id).getD id else s.num (tabAddr x.idmap ((id - insId) * 4)) 4

/-- A local ID has been assigned (R190, R198). -/
def Index.assigned (x : Index) (id : Nat) : Bool :=
  if id < insId then id < x.built else id - insId < x.nextId

/-- The locations of a local ID, newest first: the newest and those that the chain of previous locations reaches
(R220). -/
def State.chain (s : State) (x : Index) : Nat → Nat → List Nat
  | 0, _ => []
  | n + 1, w =>
    if noLoc w then []
    else if w < insId then [w]
    else w :: s.chain x n (s.num (x.metaAddr (x.slotOfWord w) + 12) 4)

/-- Every location of a local ID. -/
def State.locations (s : State) (x : Index) (id : Nat) : List Nat := s.chain x (x.cap + 1) (s.newest x id)

/-- The location is tombstoned. -/
def State.locDead (s : State) (x : Index) (w : Nat) : Bool :=
  if w < insId then s.bitAt x.ntomb w else s.bitAt x.stomb (w - insId)

/-- The passage of a local ID is deleted. -/
def State.idDead (s : State) (x : Index) (id : Nat) : Bool :=
  let w := s.newest x id
  noLoc w || s.locDead x w

/-- A global ID (R191). -/
def globalId (shard id : Nat) : Nat := shard * 2 ^ 48 + id

/-- Bytes of a full vector, and of its slot (Table 5-5). -/
def Index.vecBytes (x : Index) : Nat := x.dims * ((fmtBits x.vecFmt).getD 8 / 8)
def Index.vecSlot (x : Index) : Nat := roundUp x.vecBytes 64

/-- The address of a local ID's full vector and of its directory entry (R199). -/
def Index.vecAddr (x : Index) (id : Nat) : Nat :=
  if id < insId then x.vecBase + id * x.vecSlot else x.vecIns + (id - insId) * x.vecSlot
def Index.dirAddr (x : Index) (id : Nat) : Nat := if id < insId then x.dirBase + id * 16 else x.dirIns + (id - insId) * 16

/-- The lowest place in [lo, hi) for `n` bytes aligned to `al` from `base`, clear of the taken ranges. -/
def placeLow (base lo hi n al : Nat) (taken : List (Nat × Nat)) : Option Nat :=
  if al == 0 then none
  else
    let up (a : Nat) : Nat := base + roundUp (a - base) al
    let cands := (lo :: taken.map (fun r => r.1 + r.2)).filter (fun a => lo ≤ a)
    minNat? (((cands.map up).filter (fun a => lo ≤ a && a + n ≤ hi)).filter (fun a => clearOf a n taken))

/-- Take chunks of 2 MiB of a pool, lowest first. -/
def takeChunks (base len : Nat) : Nat → List (Nat × Nat) → Option (List Nat × List (Nat × Nat))
  | 0, used => some ([], used)
  | n + 1, used =>
    match placeLow base base (base + len) 0x20_0000 0x20_0000 used with
    | none => none
    | some a => (takeChunks base len n (used ++ [(a, 0x20_0000)])).map (fun r => (a :: r.1, r.2))

/-- Chunks that `n` bytes of an array take. -/
def chunksFor (n : Nat) : Nat := ceilDiv n 0x20_0000

/-! ### INDEX_LOAD (R195, R196, R214, R215) -/

/-- The arrays of an image: offset and size of the code, neighbour, attribute and ID arrays. -/
def imageArrays (hd : List Byte) : List (Nat × Nat) :=
  let n := fieldAt hd 8 4
  [(fieldAt hd 16 8, n * 2 ^ fieldAt hd 6 1), (fieldAt hd 24 8, n * 2 ^ fieldAt hd 7 1), (fieldAt hd 32 8, n * 8),
    (fieldAt hd 40 8, n * 4)]

/-- The arrays lie inside the image and clear of the header and of one another (R196). -/
def arraysOk (a stop : Nat) (arr : List (Nat × Nat)) : Bool :=
  arr.all (fun r => r.1 % 0x20_0000 == 0 && 64 ≤ r.1 && a + r.1 + r.2 ≤ stop) &&
  arr.zipIdx.all (fun e => arr.zipIdx.all (fun f => e.2 == f.2 || !rangesMeet e.1 f.1))

/-- The image passes R196 for a profile and a degree. A nonzero reserved byte of its header is refused with the rest, which R196 does
not list (DESIGN CHOICE, log entry 129). -/
def State.imageOk (s : State) (a stop : Nat) (p : CodeProfile) (degree : Nat) : Bool :=
  let hd := s.bytes a 64
  let n := fieldAt hd 8 4
  let arr := imageArrays hd
  let nb := a + (arr.getD 1 (0, 0)).1
  let ids := a + (arr.getD 3 (0, 0)).1
  let ns := 2 ^ fieldAt hd 7 1
  fieldAt hd 0 4 == 0x4E474A49 && fieldAt hd 4 2 == 0x0100 && fieldAt hd 60 4 == crc32c (hd.take 60) && zerosAt hd 48 12 &&
  p.ok && 2 ^ fieldAt hd 6 1 == slotOf p.bytes && ns == slotOf (4 * degree) && 1 ≤ n && n ≤ 2147483647 &&
  arraysOk a stop arr && fieldAt hd 12 4 < n &&
  (List.range n).all (fun i =>
    s.num (ids + 4 * i) 4 == i &&
    (List.range (ns / 4)).all (fun j =>
      let m := s.num (nb + ns * i + 4 * j) 4
      m < n || m == 0xFFFF_FFFF))

/-- [a, a + n) is aligned to 64 and lies within the partition's CXL ranges. -/
def State.cxlOk (s : State) (p a n : Nat) : Bool := a % 64 == 0 && s.inCxl p a n

/-- The chunk table of array `k` of an image in place. -/
def imageChunks (base : Nat) (hd : List Byte) (k : Nat) : List Nat :=
  let r := (imageArrays hd).getD k (0, 0)
  (List.range (chunksFor r.2)).map (fun i => base + r.1 + i * 0x20_0000)

/-- The chunks of the node tombstone bitmap, the side metadata array, the side tombstone bitmap and the ID map. -/
def tableChunks (n cap idCap : Nat) : List Nat :=
  [chunksFor (ceilDiv n 8), chunksFor (16 * cap), chunksFor (ceilDiv cap 8), chunksFor (4 * idCap)]

/-- The chunks of table `k` among those that an index has taken. -/
def tableAt (need ch : List Nat) (k : Nat) : List Nat := (ch.drop (sumNat (need.take k))).take (need.getD k 0)

/-- All the chunks of an index: the overlay and the chunk tables take whole chunks too; their layout is internal. -/
def chunkTotal (n cap idCap : Nat) : Nat := sumNat (tableChunks n cap idCap) + chunksFor (16 * cap) + 1

/-- The index that INDEX_LOAD makes of an image with header `hd`: its side code array at `side`, its chunk tables over the
chunks `ch` of the pool, of which `used` is then taken. -/
def newIndex (c : Cmd) (prof : CodeProfile) (hd : List Byte) (side : Nat) (ch : List Nat) (used : List (Nat × Nat)) : Index :=
  let f := fieldAt c.input
  let n := fieldAt hd 8 4
  let need := tableChunks n (f 12 4) (f 16 4)
  { part := c.hdr.partition, num := f 0 2, shard := f 2 2, built := n, profile := f 4 1, degree := f 5 1, width := f 6 2,
    hops := f 8 4, cap := f 12 4, idCap := f 16 4, vecFmt := f 20 1, cs := 2 ^ fieldAt hd 6 1, ns := 2 ^ fieldAt hd 7 1,
    dims := prof.dims, codeLen := prof.bytes, poolBase := f 32 8, poolLen := f 40 8, vecBase := f 48 8, dirBase := f 56 8,
    vecIns := f 64 8, dirIns := f 72 8, heapBase := f 80 8, heapLen := f 88 8,
    epoch := ⟨1, n, fieldAt hd 12 4, (List.range 4).map (imageChunks (f 24 8) hd)⟩, sideCode := side,
    ntomb := tableAt need ch 0, smeta := tableAt need ch 1, stomb := tableAt need ch 2, idmap := tableAt need ch 3,
    pool := used }

/-- The last part of INDEX_LOAD: the chunks that the pool gives, if any, are cleared and the index is loaded. -/
def State.loadTables (s : State) (c : Cmd) (prof : CodeProfile) (hd : List Byte) (side : Nat) :
    Option (List Nat × List (Nat × Nat)) → State
  | none => s.refuse c stNoMemory
  | some (ch, used) =>
    let n := 4 * fieldAt c.input 16 4
    let maps := (tableAt (tableChunks (fieldAt hd 8 4) (fieldAt c.input 12 4) (fieldAt c.input 16 4)) ch 3).zipIdx
    let s1 := ch.foldl (fun s a => s.zeroRange a 0x20_0000) s
    -- the ID map's words name no location until their IDs are assigned (R198)
    let s2 := maps.foldl (fun s e => s.store e.1 (List.replicate (min (n - e.2 * 0x20_0000) 0x20_0000) 0xFF)) s1
    ({ s2 with indices := s2.indices ++ [newIndex c prof hd side ch used] }).refuse c stOk

/-- The side code array stands where the pool gives it space, and the tables take chunks of what is left. -/
def State.loadSide (s : State) (c : Cmd) (prof : CodeProfile) (hd : List Byte) : Option Nat → State
  | none => s.refuse c stNoMemory
  | some side =>
    let cap := fieldAt c.input 12 4
    s.loadTables c prof hd side (takeChunks (fieldAt c.input 32 8) (fieldAt c.input 40 8)
      (chunkTotal (fieldAt hd 8 4) cap (fieldAt c.input 16 4)) [(side, cap * 2 ^ fieldAt hd 6 1)])

/-- The side-list arrays and chunk tables of an index take their space in the chunk pool, and the index is loaded (R215). -/
def State.loadIndex (s : State) (c : Cmd) (prof : CodeProfile) (hd : List Byte) : State :=
  let p := c.hdr.partition
  let pool := fieldAt c.input 32 8
  s.loadSide c prof hd (placeLow (s.regionBase p) pool (pool + fieldAt c.input 40 8)
    (fieldAt c.input 12 4 * 2 ^ fieldAt hd 6 1) ((s.regionPchs p).length * 4096) [])

/-- The ranges of an image that its checks read (R196): its header and its four arrays. -/
def imageRanges (base : Nat) (hd : List Byte) : List (Nat × Nat) :=
  (base, 64) :: (imageArrays hd).map (fun r => (base + r.1, r.2))

/-- INDEX_LOAD (R215). An image whose header or whose arrays, where they lie in the region, cannot be read ends it with
UNCORRECTABLE_DATA (DESIGN CHOICE, log entry 130). -/
def bodyIndexLoad (c : Cmd) (s : State) : State :=
  let f := fieldAt c.input
  let p := c.hdr.partition
  let base := f 24 8
  let pool := f 32 8
  let plen := f 40 8
  let cap := f 12 4
  let idCap := f 16 4
  let prof := s.profile (f 4 1)
  if c.input.length != 96 then s.refuse c stBadParameter
  else if !zerosAt c.input 21 3 then s.refuse c stReservedNonzero
  else if 64 ≤ f 0 2 || 64 ≤ f 4 1 || f 5 1 < 8 || 64 < f 5 1 || f 6 2 == 0 || 1024 < f 6 2 || f 8 4 == 0 || 1048576 < f 8 4 ||
      cap < 64 || 67108864 < cap || 2147483647 < idCap || !(f 20 1 == 1 || f 20 1 == 2 || f 20 1 == 4) then
    s.refuse c stBadParameter
  else if (s.index? p (f 0 2)).isSome then s.refuseBusy c
  else
    let vslot := roundUp (prof.dims * ((fmtBits (f 20 1)).getD 8 / 8)) 64
    let stop := s.regionBase p + s.regionSize p
    if base % 0x20_0000 != 0 || !s.inRegion p base 64 || pool % 0x20_0000 != 0 || !s.inRegion p pool plen ||
        !s.cxlOk p (f 48 8) 1 || !s.cxlOk p (f 56 8) 1 || !s.cxlOk p (f 64 8) (max (idCap * vslot) 1) ||
        !s.cxlOk p (f 72 8) (max (idCap * 16) 1) || !s.cxlOk p (f 80 8) (max (f 88 8) 1) then
      s.refuse c stBadAddress
    else if s.hitsDir p pool plen || s.hitsDir p base 64 then s.refuse c stNotPermitted
    else if s.isUe base 64 then (s.noteRead 0 p [(base, 64)]).refuse c stUncorrectableData
    else
    let rs := imageRanges base (s.bytes base 64)
    if rs.all (fun r => s.inRegion p r.1 r.2) && rs.any (fun r => s.isUe r.1 r.2) then
      (s.noteRead 0 p rs).refuse c stUncorrectableData
    else if rs.any (fun r => s.hitsDir p r.1 r.2) then s.refuse c stNotPermitted
    else if !s.imageOk base stop prof (f 5 1) then s.refuse c stBadParameter
    else
      let hd := s.bytes base 64
      let n := fieldAt hd 8 4
      if !s.cxlOk p (f 48 8) (n * vslot) || !s.cxlOk p (f 56 8) (n * 16) then s.refuse c stBadAddress
      else s.loadIndex c prof hd

/-! ### Queries about an index -/

/-- The index of a number that a command binds: loaded at its intake stamp, with no unload accepted by then (R41, R216). -/
def State.boundIndex (s : State) (c : Cmd) (i : Nat) : Option Index :=
  (s.index? c.hdr.partition i).filter (fun x =>
    c.snap.indices.any (fun e => e.1 == i) && x.unload.all (fun u => c.intake < u.2))

/-- The checks of a command that names one index in its first two bytes: index ID (R192), loaded and bound (R216). -/
def State.onIndex (s : State) (c : Cmd) (k : Index → State) : State :=
  let i := fieldAt c.input 0 2
  if 64 ≤ i then s.refuse c stBadParameter
  else match s.boundIndex c i with
  | none => s.refuse c stUnknownObject
  | some x => k x

/-- INDEX_EPOCH_QUERY (R673, Table 5-10). -/
def bodyIndexEpochQuery (c : Cmd) (s : State) : State :=
  s.shaped c 8 [(2, 6)] fun s =>
    s.onIndex c fun x =>
      let dead := ((List.range x.epoch.count).filter (fun n => s.bitAt x.ntomb n)).length
      s.reply c stOk [] (toLE 4 x.epoch.num ++ toLE 4 x.epoch.count ++ toLE 4 (x.wstart % x.cap) ++ toLE 4 (x.wend % x.cap) ++
        toLE 4 dead ++ toLE 4 (insId + x.nextId) ++ toLE 1 (s.fld (GGE_MERGE_STATUS x.part) 43 40) ++ zeros 3 ++
        toLE 4 (x.wend - x.wstart))

/-- An item of a fetch reply (Table 5-10). -/
def fetchItem (st : Nat) (data : List Byte) : List Byte :=
  padTo (roundUp (8 + data.length) 8) (toLE 1 st ++ zeros 3 ++ toLE 4 data.length ++ data)

/-- The stored passage record of a local ID: its address and length, from the directory. -/
def State.passageAt (s : State) (x : Index) (id : Nat) : Nat × Nat :=
  (s.num (x.dirAddr id) 6, s.num (x.dirAddr id + 8) 4)

/-- What a fetch of one local ID gives: an item status with data, or the status that ends the command (R217). -/
def State.fetchOne (s : State) (x : Index) (vec : Bool) (id : Nat) : Nat × List Byte × Nat :=
  if !x.assigned id then (2, [], stOk)
  else
    let dead := s.idDead x id
    let st := if dead then 1 else 0
    if x.gone.contains id then (1, [], stOk)
    else if vec then
      if !s.inCxl x.part (x.vecAddr id) x.vecSlot then (st, [], stTierLost)
      else if s.isUe (x.vecAddr id) x.vecSlot then (st, [], stUncorrectableData)
      else (st, s.bytes (x.vecAddr id) x.vecSlot, stOk)
    else if !s.inCxl x.part (x.dirAddr id) 16 then (st, [], stTierLost)
    else if s.isUe (x.dirAddr id) 16 then (st, [], stUncorrectableData)
    else
      let r := s.passageAt x id
      if r.2 == 0 then (st, [], stOk)
      else if !s.inCxl x.part r.1 r.2 then (st, [], stTierLost)
      else if s.isUe r.1 r.2 then (st, [], stUncorrectableData)
      else (st, s.bytes r.1 r.2, stOk)

/-- VECTOR_FETCH and PASSAGE_FETCH (R191, R214, R217). -/
def fetchBody (vec : Bool) (c : Cmd) (s : State) : State :=
  let n := fieldAt c.input 4 4
  let gids := (List.range n).map (fun i => fieldAt c.input (8 + 8 * i) 8)
  if c.input.length < 8 || n == 0 || 65536 < n || c.input.length != 8 + 8 * n then s.refuse c stBadParameter
  else if !zerosAt c.input 2 2 then s.refuse c stReservedNonzero
  else s.onIndex c fun x =>
    if gids.any (fun g => g / 2 ^ 32 % 2 ^ 16 != 0 || g / 2 ^ 48 != x.shard) then s.refuse c stBadParameter
    else
      let rs := gids.map (fun g => s.fetchOne x vec (g % 2 ^ 32))
      match rs.find? (fun r => r.2.2 != stOk) with
      | some r => s.refuse c r.2.2
      | none => s.replyData c stOk [] (rs.flatMap (fun r => fetchItem r.1 r.2.1))

/-- VECTOR_FETCH. -/
def bodyVectorFetch (c : Cmd) (s : State) : State := fetchBody true c s

/-- PASSAGE_FETCH. -/
def bodyPassageFetch (c : Cmd) (s : State) : State := fetchBody false c s

/-! ### Inserts and deletes (R200, R218 to R220) -/

/-- An entry of INDEX_INSERT (Table 5-10). -/
structure InsEntry where
  replace : Bool
  id      : Nat
  attr    : List Byte
  code    : List Byte
  vec     : List Byte
  ntok    : Nat
  body    : List Byte
  mlen    : Nat
  bad     : Bool
  resv    : Bool
  deriving DecidableEq, Repr, Inhabited

/-- Parse `n` entries; none where the payload's length does not match them. Of Table 5-10's entry the code, the full vector
and the metadata are each padded to 16 bytes and the tokens are not (DEDUCED, log entry 43). -/
def parseEntries (x : Index) : Nat → List Byte → Option (List InsEntry)
  | 0, bs => if bs.isEmpty then some [] else none
  | n + 1, bs =>
    if bs.length < 32 then none
    else
      let fl := fieldAt bs 0 1
      let ntok := fieldAt bs 16 4
      let mlen := fieldAt bs 20 2
      let c0 := 32
      let v0 := c0 + roundUp x.codeLen 16
      let t0 := v0 + roundUp x.vecBytes 16
      let stop := t0 + 4 * ntok + roundUp mlen 16
      if 65536 < ntok || bs.length < stop then none
      else
        let e : InsEntry :=
          { replace := fl.testBit 0, id := fieldAt bs 4 4, attr := slice bs 8 8, code := slice bs c0 x.codeLen,
            vec := slice bs v0 x.vecBytes, ntok := ntok, body := slice bs t0 (4 * ntok + mlen), mlen := mlen,
            bad := 4096 < mlen || (!fl.testBit 0 && fieldAt bs 4 4 != 0),
            resv := 2 ≤ fl || !zerosAt bs 1 3 || !zerosAt bs 22 10 ||
              (List.range ntok).any (fun i => 2 ^ 20 ≤ fieldAt bs (t0 + 4 * i) 4) }
        (parseEntries x n (bs.drop stop)).map (fun r => e :: r)

/-- The passage record of an entry (Table 5-6). -/
def passageRecord (gid : Nat) (e : InsEntry) : List Byte :=
  let r := toLE 8 gid ++ toLE 4 e.ntok ++ toLE 2 e.mlen ++ zeros 2 ++ e.body
  padTo (roundUp r.length 64) r

/-- The local IDs that a run of entries takes, and the heap space of their records: none where a limit would be exceeded
(R219). -/
def planInsert (x : Index) : Nat → List (Nat × Nat) → List InsEntry → Option (List (Nat × Nat))
  | _, _, [] => some []
  | next, heap, e :: es =>
    let n := roundUp (16 + e.body.length) 64
    let id := if e.replace then e.id else insId + next
    if !e.replace && x.idCap ≤ next then none
    else match placeLow x.heapBase x.heapBase (x.heapBase + x.heapLen) n 64 heap with
      | none => none
      | some a => (planInsert x (if e.replace then next else next + 1) (heap ++ [(a, n)]) es).map (fun r => (id, a) :: r)

/-- Append one entry to the side list (R218). -/
def State.insertOne (s : State) (p i : Nat) (e : InsEntry) (id rec : Nat) : State :=
  match s.index? p i with
  | none => s
  | some x =>
    let a := x.wend
    let prev := if e.replace then s.newest x id else 0xFFFF_FFFF
    let prev := if prev == 0x7FFF_FFFF then 0xFFFF_FFFF else prev
    let r := passageRecord (globalId x.shard id) e
    let s1 := ((((s.store (x.vecAddr id) (padTo x.vecSlot e.vec)).store rec r).store (x.dirAddr id)
      (toLE 6 rec ++ zeros 2 ++ toLE 4 r.length ++ zeros 4)).store (x.sideAddr a) (padTo x.cs e.code)).store (x.metaAddr a)
      (e.attr ++ toLE 4 id ++ toLE 4 prev)
    let s2 := s1.setBitAt x.stomb (a % x.cap) false
    let s3 := if id < insId then s2 else s2.store (tabAddr x.idmap ((id - insId) * 4)) (toLE 4 (slotWord x a))
    s3.setIndex p i (fun x => { x with
      wend := a + 1
      nextId := if e.replace then x.nextId else x.nextId + 1
      overlay := if id < insId then assocSet x.overlay id (slotWord x a) else x.overlay
      heap := x.heap ++ [(rec, r.length)]
      recs := x.recs ++ [(a, rec, r.length)]
      gone := x.gone.filter (fun g => g != id) })

/-- INDEX_INSERT (R214, R218, R219). -/
def bodyIndexInsert (c : Cmd) (s : State) : State :=
  let p := c.hdr.partition
  let n := fieldAt c.input 2 2
  if c.input.length < 8 || n == 0 || 4096 < n then s.refuse c stBadParameter
  else if !zerosAt c.input 4 4 then s.refuse c stReservedNonzero
  else s.onIndex c fun x =>
    match parseEntries x n (c.input.drop 8) with
    | none => s.refuse c stBadParameter
    | some es =>
      if es.any (fun e => e.bad) then s.refuse c stBadParameter
      else if es.any (fun e => e.resv) then s.refuse c stReservedNonzero
      else if x.cap < x.wend + n - x.rstart then s.refuse c stNoMemory
      else match planInsert x x.nextId x.heap es with
      | none => s.refuse c stNoMemory
      | some plan =>
        if es.any (fun e => e.replace && !x.assigned e.id) then s.refuse c stUnknownObject
        else
        let lost (e : InsEntry × Nat × Nat) : Bool :=
          !s.inCxl p (x.vecAddr e.2.1) x.vecSlot || !s.inCxl p (x.dirAddr e.2.1) 16 ||
            !s.inCxl p e.2.2 (roundUp (16 + e.1.body.length) 64)
        let all := es.zip plan
        if all.any lost then s.refuse c stTierLost
        else
          (all.foldl (fun s e => s.insertOne p x.num e.1 e.2.1 e.2.2) s).reply c stOk []
            (toLE 4 n ++ zeros 4 ++ plan.flatMap (fun e => toLE 8 (globalId x.shard e.1)))

/-- Set the tombstone of a location. -/
def State.killLoc (s : State) (x : Index) (w : Nat) : State :=
  if w < insId then s.setBitAt x.ntomb w true else s.setBitAt x.stomb (w - insId) true

/-- INDEX_DELETE (R220). -/
def bodyIndexDelete (c : Cmd) (s : State) : State :=
  let n := fieldAt c.input 4 4
  let ids := (List.range n).map (fun i => fieldAt c.input (8 + 4 * i) 4)
  if c.input.length < 8 || n == 0 || 65536 < n || c.input.length != 8 + 4 * n then s.refuse c stBadParameter
  else if !zerosAt c.input 2 2 then s.refuse c stReservedNonzero
  else s.onIndex c fun x =>
    if ids.any (fun id => !x.assigned id) then s.refuse c stUnknownObject
    else (ids.foldl (fun s id => (s.locations x id).foldl (fun s w => s.killLoc x w) s) s).refuse c stOk

/-! ### Unloading (R216) -/

/-- A merge job runs on the index. -/
def State.merging (s : State) (p i : Nat) : Bool := s.merges.any (fun j => j.part == p && j.index == i)

/-- INDEX_UNLOAD (R216): accepted, it waits for the commands bound to the index. -/
def bodyIndexUnload (c : Cmd) (s : State) : State :=
  s.shaped c 8 [(2, 6)] fun s =>
    let p := c.hdr.partition
    let i := fieldAt c.input 0 2
    if 64 ≤ i then s.refuse c stBadParameter
    else match s.index? p i with
    | none => s.refuse c stUnknownObject
    | some x =>
      if x.unload.isSome then s.refuse c stUnknownObject
      else if s.merging p i then s.refuseBusy c
      else s.setIndex p i (fun x => { x with unload := some (c.id, s.now) })

/-- The local indices that a command's search names at an offset of its input: the index itself, or those that the bound
shard map names as local (R216, R233). -/
def State.mapLocals (s : State) (c : Cmd) (i : Nat) : List Nat :=
  match c.snap.maps.find? (fun e => e.1 == i) with
  | none => []
  | some e =>
    ((s.maps.filter (fun m => m.part == c.hdr.partition && m.index == i && m.number == e.2)).flatMap (fun m =>
      (m.entries.filter (fun e => e.replicas.contains 0xFFFF_FFFE)).map (fun e => e.index)))
def State.searched (s : State) (c : Cmd) (off : Nat) : List Nat :=
  let i := fieldAt c.input off 2
  if (fieldAt c.input (off + 3) 1).testBit 0 then s.mapLocals c i else [i]

/-- The local indices that the map of a RESCORE or a RERANK names, where its flags ask for it (Table 6-7). -/
def State.ranked (s : State) (c : Cmd) (off : Nat) : List Nat :=
  if (fieldAt c.input 6 1).testBit 0 then s.mapLocals c (fieldAt c.input off 2) else []

/-- A command is bound to index `i` of its partition: a search, fetch, insert, delete, rescoring or re-ranking that names it,
or a RAG_GENERATE that does and has not been admitted (R41, R216). A command whose input is still to be fetched may name any. -/
def State.bindsIdx (s : State) (c : Cmd) (i : Nat) : Bool :=
  let op := c.hdr.opcode
  let rag : Bool := op == 0x0401 && (c.phase != .started || s.rags.any (fun r => r.cmd == c.id))
  let one : Bool := [0x0200, 0x0201, 0x0202, 0x0203, 0x0204, 0x0209, 0x020A, 0x0301, 0x0302].contains op
  (one || rag) && (!c.refs.isEmpty ||
    (if op ≤ 0x0202 then s.searched c 0
     else if rag then fieldAt c.input 96 2 :: s.searched c 96
     else if op == 0x0302 then fieldAt c.input 4 2 :: s.ranked c 4
     else if op == 0x0301 then fieldAt c.input 0 2 :: s.ranked c 0
     else [fieldAt c.input 0 2]).contains i)

/-- INDEX_UNLOAD_COMPLETE (R216): every command bound to the index has replied. -/
def indexUnloadCompleteStep (p i : Nat) (s : State) : State :=
  match s.index? p i with
  | none => s
  | some x =>
    match x.unload with
    | none => s
    | some (id, stamp) =>
      if s.cmds.any (fun c => c.hdr.partition == p && s.bindsIdx c i && c.intake < stamp) ||
          s.searches.any (fun q => q.part == p && q.index == i)
      then s
      else
        let s1 := { s with indices := s.indices.filter (fun x => !(x.part == p && x.num == i)) }
        s1.endWith id stOk

/-! ### Shard maps (R229, R230) -/

/-- Parse the entries of a map. -/
def parseShards (n : Nat) (bs : List Byte) : List ShardEntry :=
  (List.range n).map (fun i =>
    let o := 8 + 24 * i
    ⟨fieldAt bs o 2, fieldAt bs (o + 2) 2, (fieldAt bs (o + 5) 1).testBit 0,
      (List.range (fieldAt bs (o + 4) 1)).map (fun k => fieldAt bs (o + 8 + 4 * k) 4)⟩)

/-- SHARD_MAP_SET (R229, R230). -/
def bodyShardMapSet (c : Cmd) (s : State) : State :=
  let p := c.hdr.partition
  let n := fieldAt c.input 2 2
  let off (i : Nat) : Nat := 8 + 24 * i
  let local_ : Nat := 0xFFFF_FFFE
  if c.input.length < 8 || n == 0 || 16384 < n || c.input.length != 8 + 24 * n then s.refuse c stBadParameter
  else if !zerosAt c.input 4 4 || (List.range n).any (fun i => 2 ≤ fieldAt c.input (off i + 5) 1 || !zerosAt c.input (off i + 6) 2)
  then s.refuse c stReservedNonzero
  else
    let badEntry (i : Nat) : Bool :=
      let k := fieldAt c.input (off i + 4) 1
      k == 0 || 4 < k || (List.range 4).any (fun j =>
        let r := fieldAt c.input (off i + 8 + 4 * j) 4
        if j < k then !(r < 16384 || r == local_) else r != 0xFFFF_FFFF)
    if 64 ≤ fieldAt c.input 0 2 || (List.range n).any badEntry then s.refuse c stBadParameter
    else
      let es := parseShards n c.input
      let badQp (r : Nat) : Bool :=
        r != local_ && (match s.qp? r with
          | some q => q.partition != p
          | none => true)
      if es.any (fun e => e.replicas.any badQp) then s.refuse c stBadPartition
      else
        let i := fieldAt c.input 0 2
        -- older maps are kept for the searches bound to them
        ({ s with maps := ⟨p, i, maxNat (s.maps.map (fun (m : ShardMap) => m.number)) + 1, es, s.now⟩ :: s.maps }).refuse c stOk

end Sys2Proof.Machine
end

