-- ==== Sys2Proof/Machine/Search.lean ====
section
/-! DEFINITION. Graph search and the shard protocol (spec/05): walks, side-list scans, filters, results, the coordinator
of a sharded search, and walker faults. -/

namespace Sys2Proof.Machine

/-! ### Walks (R202, R204, R206) -/

/-- What a walk reads: the neighbours of a node, whether it is tombstoned, and its distance from the query. -/
structure WalkEnv where
  nbrs : Nat → List Nat
  dead : Nat → Bool
  dist : Nat → F32

/-- The two filter bits of a node (R202). -/
def visitBits (n : Nat) : Nat × Nat := (n * 0x9E3779B1 % 2 ^ 32 / 2 ^ 15, n * 0x85EBCA77 % 2 ^ 32 / 2 ^ 15)

/-- A node counts as visited. -/
def Walk.visited (w : Walk) (n : Nat) : Bool :=
  let b := visitBits n
  w.vis.contains b.1 && w.vis.contains b.2

/-- Mark a node as visited. -/
def Walk.visit (w : Walk) (n : Nat) : Walk :=
  let b := visitBits n
  let v1 := if w.vis.contains b.1 then w.vis else b.1 :: w.vis
  { w with vis := if v1.contains b.2 then v1 else b.2 :: v1 }

/-- Order of the queues: ascending distance, ties toward the lower index. -/
def nearLt (a b : F32 × Nat) : Bool := distKey a.1 < distKey b.1 || (distKey a.1 == distKey b.1 && a.2 < b.2)

/-- Insert into a queue and keep the nearest `width`. -/
def keepNear (width : Nat) (x : F32 × Nat) (l : List (F32 × Nat)) : List (F32 × Nat) := (insertBy nearLt x l).take width

/-- The queue takes a distance: it has room, or the distance is below its farthest. -/
def takesDist (width : Nat) (d : F32) (l : List (F32 × Nat)) : Bool :=
  l.length < width || (match l.getLast? with
    | some f => distKey d < distKey f.1
    | none => true)

/-- A walk at its entry node (R204). -/
def Walk.start (env : WalkEnv) (entry width : Nat) : Walk :=
  let d := env.dist entry
  let first := if fNan d then [] else [(d, entry)]
  let w : Walk := { cand := first, top := if env.dead entry then [] else first, width := width }
  w.visit entry

/-- One neighbour of an expansion. -/
def Walk.meet (env : WalkEnv) (w : Walk) (m : Nat) : Walk :=
  if w.visited m then w
  else
    let w1 := w.visit m
    let d := env.dist m
    if fNan d then { w1 with dropped := w1.dropped + 1 }
    else
      let w2 := if takesDist w1.width d w1.cand then { w1 with cand := keepNear w1.width (d, m) w1.cand } else w1
      if !env.dead m && takesDist w2.width d w2.top then { w2 with top := keepNear w2.width (d, m) w2.top } else w2

/-- The nodes that an expansion measures, in order: the neighbours that do not count as visited when it comes to them. -/
def Walk.news (w : Walk) (l : List Nat) : List Nat :=
  (l.foldl (fun (a : Walk × List Nat) m => if a.1.visited m then a else (a.1.visit m, a.2 ++ [m])) (w, [])).2

/-- One turn of the inner loop: an expansion, or none where the loop ends (R204). The candidate that ends the loop stays
in the queue. -/
def Walk.turn (env : WalkEnv) (hopMax : Nat) (w : Walk) : Option Walk :=
  match w.cand with
  | [] => none
  | (d, n) :: rest =>
    if hopMax ≤ w.hops then none
    else if w.width ≤ w.top.length && (match w.top.getLast? with
        | some f => distKey f.1 < distKey d
        | none => false) then none
    else some ((env.nbrs n).foldl (Walk.meet env) { w with cand := rest, hops := w.hops + 1 })

/-- The inner loop to its end. -/
def Walk.run (env : WalkEnv) (hopMax : Nat) : Nat → Walk → Walk
  | 0, w => w
  | fuel + 1, w =>
    match w.turn env hopMax with
    | none => w
    | some w1 => Walk.run env hopMax fuel w1

/-- The nodes that the inner loop measures on its way, expansion by expansion. -/
def Walk.trace (env : WalkEnv) (hopMax : Nat) : Nat → Walk → List Nat
  | 0, _ => []
  | fuel + 1, w =>
    match w.turn env hopMax with
    | none => []
    | some w1 => w.news (env.nbrs (w.cand.headD (0, 0)).2) ++ Walk.trace env hopMax fuel w1

/-! ### Search parameters (R209, R212, Table 5-8) -/

/-- The parameters of a search command. -/
structure SearchParams where
  index   : Nat
  fmt     : Nat
  sharded : Bool
  orTerms : Bool
  dims    : Nat
  k       : Nat
  width   : Nat
  budget  : Nat
  hops    : Nat
  terms   : List (Nat × Nat × Bool)
  qlen    : Nat
  count   : Nat
  queries : List (List Byte)
  deriving DecidableEq, Repr, Inhabited

/-- Parse the payload of SEARCH, SEARCH_SHARD or SEARCH_BATCH. -/
def parseSearch (batch : Bool) (bs : List Byte) : SearchParams :=
  let f := fieldAt bs
  let nt := f 16 1
  let q := f 20 4
  let n := if batch then f 56 2 else 1
  let termOff (t : Nat) : Nat := if t < 2 then 24 + 16 * t else 64 + q * n + 16 * (t - 2)
  { index := f 0 2, fmt := f 2 1, sharded := (f 3 1).testBit 0, orTerms := (f 3 1).testBit 1, dims := f 4 2, k := f 6 2,
    width := f 8 2, budget := f 10 2, hops := f 12 4,
    terms := (List.range nt).map (fun t => (f (termOff t) 8, f (termOff t + 8) 8, (f 17 1).testBit t)),
    qlen := q, count := n, queries := (List.range n).map (fun i => slice bs (64 + q * i) q) }

/-- The payload has the length that its parameters give. -/
def searchLenOk (batch : Bool) (bs : List Byte) : Bool :=
  let q := parseSearch batch bs
  64 ≤ bs.length && q.terms.length ≤ 8 && bs.length == 64 + q.qlen * q.count + 16 * (q.terms.length - 2)

/-- Reserved bits and bytes of the parameters are zero; an unused inline term is zero too. -/
def searchResvOk (batch : Bool) (bs : List Byte) : Bool :=
  fieldAt bs 3 1 < 4 && zerosAt bs 18 2 && (if batch then zerosAt bs 58 6 else zerosAt bs 56 8)

/-- The parameters are within the ranges of Table 5-8 that no profile narrows; `width` is the index's default width (R209). -/
def SearchParams.okAny (q : SearchParams) (width : Nat) : Bool :=
  let elem := (fmtBits q.fmt).getD 8 / 8
  let eff := max (if q.width == 0 then width else q.width) q.k
  [1, 2, 4, 7, 8].contains q.fmt && 1 ≤ q.k && q.k ≤ 1024 && q.width ≤ 1024 &&
  (q.budget == 0 || (eff ≤ q.budget && q.budget ≤ 1024)) && q.hops ≤ 1048576 &&
  q.qlen == (if q.fmt == 8 then q.dims / 8 else q.dims * elem) && q.terms.all (fun t => t.2.1 &&& t.1 == t.2.1)

/-- The parameters are within the ranges of Table 5-8 for an index with this profile. -/
def SearchParams.ok (q : SearchParams) (p : CodeProfile) (x : Index) : Bool :=
  q.okAny x.width && ((p.fmt == 3) == (q.fmt == 8)) && q.dims == p.dims

/-- The query in its stored form: BF16, or the bits of a HAMMING query (R160, R203). -/
def storedQuery (fmt dims : Nat) (bs : List Byte) : List Byte :=
  if fmt == 8 then bs
  else
    let b := (fmtBits fmt).getD 8
    (List.range dims).flatMap (fun i => toLE 2 (convert 4 false (elemValue fmt (elemAt b bs i))))

/-- A filter passes an attribute word (R209). -/
def passes (orTerms : Bool) (terms : List (Nat × Nat × Bool)) (a : Nat) : Bool :=
  let one (t : Nat × Nat × Bool) : Bool := (a &&& t.1 == t.2.1) != t.2.2
  terms.isEmpty || (if orTerms then terms.any one else terms.all one)

/-! ### Walkers, contexts and frames (R152, R201, R203, R242) -/

/-- The walkers of a partition that are in service, by physical number, in ascending logical order. -/
def State.partWalkers (s : State) (p : Nat) : List Nat :=
  sortBy (fun a b => decide (s.fld (GGE_WALKER a) 39 32 < s.fld (GGE_WALKER b) 39 32))
    ((List.range 72).filter (fun w =>
      s.bit (GGE_WALKER w) 19 && s.fld (GGE_WALKER w) 23 20 == p && s.fld (GGE_WALKER w) 18 16 == 1))

/-- Contexts of a walker in use. -/
def State.contextsUsed (s : State) (w : Nat) : List Nat :=
  (s.searches.filter (fun q => !q.waiting && q.ended.isNone && q.walker == w)).flatMap (fun q =>
    (List.range q.slots).map (fun i => q.context + i)) ++
  ((s.merges.filterMap (fun j => j.slot)).filter (fun t => t.1 == w)).flatMap (fun t =>
    (List.range t.2.2).map (fun i => t.2.1 + i))

/-- The lowest free context of a walker that a query of `n` slots can take (R152). -/
def State.freeContext (s : State) (w n : Nat) : Option Nat :=
  let used := s.contextsUsed w
  -- a walker holds 256 contexts, whatever a larger value of the field asks for (R5)
  let total := min 256 (s.fld GGE_QCTX_CFG 40 32)
  (List.range total).find? (fun i =>
    i % n == 0 && i + n ≤ total && (List.range n).all (fun k => !used.contains (i + k)))

/-- Bytes of a search's frame (R201). -/
def frameBytes (wmax : Nat) : Nat := roundUp (16384 + 256 + 16 * wmax) 1024

/-- The width budget of a query: the effective width where it does not widen. -/
def Search.wmax (q : Search) : Nat := if q.budget == 0 then q.walk.width else q.budget

/-- Frame space of a partition, and what its searches hold. -/
def State.frameRoom (s : State) (p n : Nat) : Bool :=
  let held := sumNat ((s.searches.filter (fun q => q.part == p && !q.waiting && q.ended.isNone)).map (fun q => frameBytes q.wmax))
  held + n ≤ s.fld (GGE_PART_CFG p) 6 0 * 0x30_0000

/-- The frame ways are the partition's own (R242). -/
def State.framesOk (s : State) (p : Nat) : Bool :=
  (List.range (s.fld (GGE_PART_CFG p) 6 0)).all (fun i => (s.part p).assign.ways.testBit (s.fld (GGE_PART_CFG p) 13 8 + i))

/-- A query of the machine. -/
def State.search? (s : State) (sid : Nat) : Option Search := s.searches.find? (fun q => q.sid == sid)

/-- Change a query. -/
def State.setSearch (s : State) (sid : Nat) (f : Search → Search) : State :=
  { s with searches := updateWhere s.searches (fun q => q.sid == sid) f }

/-- The stack whose stores the engine of a code's pseudo-channel uses (R153). -/
def State.stackOf (s : State) (a : Nat) : Nat := ((s.pchOf a).map (fun g => g.1 / 32)).getD 0

/-- The distance that the engine of a code's pseudo-channel measures for a query; NaN where the code is uncorrectable
(R162, R204, R240). -/
def State.distOf (s : State) (p : CodeProfile) (query : List Byte) (a n : Nat) : F32 :=
  if s.isUe a n then 0x7FC00000 else p.dist (s.codebook (s.stackOf a) p) query (s.bytes a n)

/-- What a bound query's walk reads. -/
def State.walkEnv (s : State) (x : Index) (q : Search) : WalkEnv :=
  { nbrs := s.nodeNbrs x q.epoch
    dead := fun n => s.bitAt x.ntomb n
    dist := fun n => s.distOf (s.profile x.profile) q.query (x.addr q.epoch 0 n) x.codeLen }

/-- Count an evaluation for each code, in the stack that holds it, and report what the reads meet; `op` is the distance operation. -/
def State.measured (s : State) (op part n : Nat) (codes : List Nat) : State :=
  codes.foldl (fun s a =>
    let s1 := s.noteRead op part [(a, n)]
    match s1.pchOf a with
    | some (g, _) => s1.countEvals g 1
    | none => s1) s

/-- Some of the codes lie with an engine that takes no descriptors: their distances do not come (R23, R184). -/
def State.codesIdle (s : State) (codes : List Nat) : Bool :=
  codes.any (fun a => match s.pchOf a with
    | some (g, _) => !s.engineTakes g
    | none => false)

/-- Some of the engines that hold the codes answer ENGINE_FAULT for these query slots (R183). -/
def State.codesFault (s : State) (p : CodeProfile) (slots codes : List Nat) : Bool :=
  codes.any (fun a => s.distFault (s.stackOf a) p slots)

/-- The query slot of a taken query in every stack's store (R203). -/
def State.querySlot (s : State) (q : Search) : Nat := s.fld (GGE_WALKER q.walker) 39 32 * 256 + q.context

/-- How distances that a query asks for can end it: its profile is invalid (R672), or a store that they need is (R183, log
entry 100). -/
def State.distEnd (s : State) (p : CodeProfile) (slots codes : List Nat) : Option Nat :=
  if codes.isEmpty then none
  else if !p.ok then some stNotReady
  else if s.codesFault p slots codes then some stHwFault
  else none

/-- Give a waiting query a context, where WALK_EN, a frame and a free context allow (R201): its query is loaded into the
context's slot of every stack (R203), and its walk starts at the entry node. A bad entry ends the walk at its first turn. -/
def State.takeSearch (s : State) (q : Search) : Option State :=
  match s.index? q.part q.index with
  | none => none
  | some x =>
    let p := s.profile x.profile
    let n := p.querySlots
    let code := x.addr q.epoch 0 q.epoch.entry
    let tomb := tabAddr x.ntomb (q.epoch.entry / 8)
    if (!s.bit GGE_CTRL 0 && !q.taken) || !s.frameRoom q.part (frameBytes q.wmax) || s.codesIdle [code] then none
    else
      let ws := (s.partWalkers q.part).filter (fun w => q.avoid != some w)
      match ws.findSome? (fun w => (s.freeContext w n).map (fun i => (w, i))) with
      | none => none
      | some (w, i) =>
        let slot := s.fld (GGE_WALKER w) 39 32 * 256 + i
        let spn := s.stacksReady.foldl (fun (a : SpnStores) k =>
          (List.range n).foldl (fun (a : SpnStores) j =>
            { a with query := storeSet a.query k (slot + j) (padTo 2048 (slice q.query (2048 * j) 2048)) }.heal k 0 (slot + j)) a) s.spn
        let s1 := ({ s with spn := spn }).measured 1 q.part x.codeLen [code]
        let bad := s.isUe tomb 1
        let s2 := if bad then s1.dramUe tomb else s1
        some (s2.setSearch q.sid (fun q => { q with
          waiting := false, taken := true, walker := w, context := i, slots := n
          walk := Walk.start (s.walkEnv x q) q.epoch.entry q.walk.width
          fault := if bad then some stUncorrectableData else s1.distEnd p [slot] [code]
          side := if q.wstart == q.wend then some [] else none }))

/-- A query gives up its context, is changed and starts again from the entry node, at once where a context is free. -/
def State.retake (s : State) (sid : Nat) (f : Search → Search) : State :=
  let s1 := s.setSearch sid (fun q => { f q with
    waiting := true, side := none, fault := none, walk := { width := q.width0 } })
  match s1.search? sid with
  | some q => (s1.takeSearch q).getD s1
  | none => s1

/-! ### Results (R205, R210, R211, R213) -/

/-- The attribute word and local ID of a node of an epoch. -/
def State.nodeInfo (s : State) (x : Index) (e : Epoch) (n : Nat) : Nat × Nat := (s.num (x.addr e 2 n) 8, s.num (x.addr e 3 n) 4)

/-- The attribute word and local ID of a side slot. -/
def State.sideInfo (s : State) (x : Index) (a : Nat) : Nat × Nat := (s.num (x.metaAddr a) 8, s.num (x.metaAddr a + 8) 4)

/-- Order of result entries: ascending distance, ties toward the lower global ID (R205). -/
def resultLt (a b : Nat × F32) : Bool := distKey a.2 < distKey b.2 || (distKey a.2 == distKey b.2 && a.1 < b.1)

/-- Entries sorted by R205, one for each global ID: its nearest. -/
def bestById (l : List (Nat × F32)) : List (Nat × F32) := dedupBy (fun e => e.1) (sortBy resultLt l)

/-- The nearest `k` of the filtered top set and side results (R204, R210). -/
def State.formResult (s : State) (x : Index) (q : Search) : List (Nat × F32) :=
  let tops := q.walk.top.map (fun e => (s.nodeInfo x q.epoch e.2, e.1))
  let sides := (q.side.getD []).map (fun e => (s.sideInfo x e.2, e.1))
  let all := (tops ++ sides).filter (fun e => passes q.orTerms q.terms e.1.1)
  (bestById (all.map (fun e => (globalId x.shard e.1.2, e.2)))).take q.k

/-- Structure that the walker reads is uncorrectable (R240): the first bad address. -/
def State.structUe (s : State) (l : List (Nat × Nat)) : Option Nat :=
  (l.find? (fun r => s.isUe r.1 r.2)).map (fun r => r.1)

/-- A query ends. -/
def State.endSearch (s : State) (sid : Nat) (r : QueryEnd) : State := s.setSearch sid (fun q => { q with ended := some r })

/-- A query ends with a status and no entries. -/
def State.failSearch (s : State) (sid status : Nat) : State := s.endSearch sid ⟨status, [], false⟩

/-- A restarted query that completes reports a retry that succeeded (R239). -/
def State.retryDone (s : State) (q : Search) : State :=
  if 0 < q.restarts then s.report ⟨5, q.avoid.getD 0, 0, .retrySucceeded⟩ else s

/-- Count a selection of a partition, the keys that it dropped, and whether its result spilled (R282). -/
def State.countSel (s : State) (p dropped spilled : Nat) : State :=
  ((s.bump (SEL_CNT p) 31 0 1).bump (SEL_CNT p) 63 32 spilled).bump (SEL_DROP_CNT p) 63 0 dropped

/-- WALK_EXPANSION (R204, R210, R211, R240, R672): one expansion, or the end of the inner loop with its result. `done`
continues the command whose query ends. -/
def walkExpansionStep (done : Nat → State → State) (sid : Nat) (s : State) : State :=
  match s.search? sid with
  | none => s
  | some q =>
    if q.waiting || q.ended.isSome then s
    else match q.fault, s.index? q.part q.index with
    | _, none => s
    | some st, some _ => done q.cmd (s.failSearch sid st)
    | none, some x =>
      let env := s.walkEnv x q
      match q.walk.turn env q.hopMax with
      | some w =>
        let n := (q.walk.cand.headD (0, 0)).2
        let met := q.walk.news (env.nbrs n)
        let codes := met.map (fun m => x.addr q.epoch 0 m)
        let reads := (x.addr q.epoch 1 n, x.ns) :: met.map (fun m => (tabAddr x.ntomb (m / 8), 1))
        match s.structUe reads with
        | some a => done q.cmd ((s.dramUe a).failSearch sid stUncorrectableData)
        | none =>
          if s.codesIdle codes then s
          else match s.distEnd (s.profile x.profile) [s.querySlot q] codes with
          | some st => done q.cmd (s.failSearch sid st)
          | none => (s.measured 1 q.part x.codeLen codes).setSearch sid (fun q => { q with walk := w })
      | none =>
        match q.side with
        | none => s
        | some side =>
          let reads := q.walk.top.flatMap (fun e => [(x.addr q.epoch 2 e.2, 8), (x.addr q.epoch 3 e.2, 4)]) ++
            side.map (fun e => (x.metaAddr e.2, 16))
          match s.structUe reads with
          | some a => done q.cmd ((s.dramUe a).failSearch sid stUncorrectableData)
          | none =>
            let found := s.formResult x q
            let wmax := q.wmax
            if found.length == q.k || q.walk.width == wmax || q.walk.hops == q.hopMax || q.walk.cand.isEmpty then
              -- a selection unit forms the result: an internal client's selection (Table 1-6, SEL_CNT)
              done q.cmd (((s.retryDone q).countSel q.part 0 0).endSearch sid ⟨stOk, found, found.length < q.k⟩)
            else s.setSearch sid (fun q => { q with walk := { q.walk with width := min (2 * q.walk.width) wmax } })

/-! ### Side-list scan (R207, R208) -/

/-- T of a query's scan. -/
def State.sideT (s : State) (q : Search) : Nat := if q.terms.isEmpty then min 64 q.k else s.fld GGE_QCTX_CFG 23 16

/-- The slots of a query's side window. -/
def Search.window (q : Search) : List Nat := (List.range (q.wend - q.wstart)).map (fun i => q.wstart + i)

/-- What the scan returns to the walker: for each pseudo-channel the T nearest of the window's slots there. -/
def State.scanNear (s : State) (x : Index) (q : Search) : List (F32 × Nat) :=
  let p := s.profile x.profile
  let n := max 1 (s.regionPchs q.part).length
  let c := 4096 / x.cs
  let slots := q.window
  (List.range n).flatMap (fun g =>
    let mine := slots.filter (fun a => a % x.cap / c % n == g)
    let best := nearest (s.sideT q) (mine.map (fun a => (a % x.cap, s.distOf p q.query (x.sideAddr a) x.codeLen)))
    best.map (fun e => (e.2, (slots.find? (fun a => a % x.cap == e.1)).getD 0)))

/-- The side results of one query: those that the scan returns and that are not tombstoned. -/
def State.scanSide (s : State) (x : Index) (q : Search) : List (F32 × Nat) :=
  (s.scanNear x q).filter (fun e => !s.bitAt x.stomb (e.2 % x.cap))

/-- The scan of one query: it waits for engines that take no descriptors; its end can fault the query. -/
def State.scanOne (s : State) (x : Index) (q : Search) : State :=
  let codes := q.window.map x.sideAddr
  if s.codesIdle codes then s
  else match s.distEnd (s.profile x.profile) [s.querySlot q] codes with
  | some st => s.setSearch q.sid (fun q => { q with fault := some st })
  | none =>
    let s1 := s.measured 2 q.part x.codeLen codes
    match s.structUe ((s.scanNear x q).map (fun e => (tabAddr x.stomb (e.2 % x.cap / 8), 1))) with
    | some a => (s1.dramUe a).setSearch q.sid (fun q => { q with fault := some stUncorrectableData })
    | none => s1.setSearch q.sid (fun q => { q with side := some (s.scanSide x q) })

/-- SIDE_SCAN_BATCH (R207): up to 16 searches of one index. -/
def sideScanBatchStep (sids : List Nat) (s : State) : State :=
  let qs := (sids.take 16).filterMap s.search?
  match qs with
  | [] => s
  | q0 :: _ =>
    (qs.filter (fun q => q.part == q0.part && q.index == q0.index && !q.waiting && q.ended.isNone && q.side.isNone &&
      q.fault.isNone)).foldl
      (fun s q =>
        match s.index? q.part q.index with
        | none => s
        | some x => s.scanOne x q) s

/-! ### Replies of searches (R213) -/

/-- Result entries as bytes (Table 5-9). -/
def entryBytes (l : List (Nat × F32)) : List Byte := l.flatMap (fun e => toLE 8 e.1 ++ toLE 4 e.2.toNat)

/-- Count replied queries. -/
def State.countSearches (s : State) (p : Nat) (rs : List QueryEnd) : State :=
  let ok := rs.filter (fun r => statusClass r.status ≤ 1)
  (s.bump (GGE_SEARCH_CNT p) 31 0 ok.length).bump (GGE_SEARCH_CNT p) 63 32 ((ok.filter (fun r => r.short)).length)

/-- A batch header and its entries: coverage below 65,536 is partial coverage. -/
def batchPart (r : QueryEnd) (coverage epoch : Nat) : List Byte :=
  let part := coverage < 65536
  let st := if statusClass r.status ≤ 1 then partialStatus r.short part false else r.status
  toLE 4 r.entries.length ++ toLE 2 ((if r.short then 1 else 0) + if part then 2 else 0) ++ toLE 2 st ++ toLE 4 coverage ++
    toLE 4 epoch ++ entryBytes r.entries

/-- The reply of a search command once all its queries have ended; each with its coverage and bound epoch (R213). -/
def State.replySearch (s : State) (c : Cmd) (rs : List (QueryEnd × Nat × Nat)) : State :=
  let s1 := s.countSearches c.hdr.partition (rs.map (fun r => r.1))
  if c.hdr.opcode == 0x0202 then
    let short := rs.any (fun r => r.1.short)
    let cov := (minNat? (rs.map (fun r => r.2.1))).getD 65536
    let found := sumNat (rs.map (fun r => r.1.entries.length))
    let bad := (rs.filter (fun r => 1 < statusClass r.1.status)).map (fun r => r.1.status)
    let st := (minNat? bad).getD (partialStatus short (cov < 65536) false)
    let hint := if st == stNotReady then [retryHint 1000] else []
    s1.replyData c st (hint ++ summaryItems short (cov < 65536) false 0 cov found)
      (rs.flatMap (fun r => batchPart r.1 r.2.1 r.2.2))
  else
    match rs with
    | [] => s1
    | (r, cov, ep) :: _ =>
      if r.status == stNotReady then s1.refuseHint c stNotReady 1000
      else if 1 < statusClass r.status then s1.refuse c r.status
      else
        s1.replyData c (partialStatus r.short (cov < 65536) false)
          (summaryItems r.short (cov < 65536) false 0 cov r.entries.length)
          (toLE 4 r.entries.length ++ toLE 4 ep ++ entryBytes r.entries)

/-! ### Starting searches (R203, R212, R231 to R233) -/

/-- Give the earliest waiting query of a partition a context. -/
def searchTakeStep (p : Nat) (s : State) : State :=
  match s.searches.find? (fun q => q.part == p && q.waiting && q.ended.isNone) with
  | none => s
  | some q => (s.takeSearch q).getD s

/-- Enter a bound query; it starts at once where nothing waits before it and a context is free. -/
def State.addSearch (s : State) (q : Search) : State :=
  let first := !s.searches.any (fun x => x.part == q.part && x.waiting && x.ended.isNone)
  let s1 := { s with searches := s.searches ++ [q] }
  if first then (s1.takeSearch q).getD s1 else s1

/-- The epoch of a number: the current one, or the old one that a merge keeps. -/
def State.epochOf (s : State) (x : Index) (n : Nat) : Epoch :=
  if x.epoch.num == n then x.epoch
  else ((s.merges.find? (fun j => j.part == x.part && j.index == x.num)).bind (fun j => j.old)).getD x.epoch

/-- The bound query of a command: the epoch and side window of its intake (R41, R203). -/
def State.boundQuery (s : State) (c : Cmd) (x : Index) (q : SearchParams) (i : Nat) : Search :=
  let b := (c.snap.indices.find? (fun e => e.1 == x.num)).getD (x.num, x.epoch.num, x.wstart, x.wend)
  let width := max (if q.width == 0 then x.width else q.width) q.k
  { sid := c.id * 256 + i, cmd := c.id, part := c.hdr.partition, index := x.num, epoch := s.epochOf x b.2.1,
    wstart := b.2.2.1, wend := b.2.2.2, k := q.k, budget := q.budget, hopMax := if q.hops == 0 then x.hops else q.hops,
    orTerms := q.orTerms, terms := q.terms, query := storedQuery q.fmt q.dims (q.queries.getD i []),
    walk := { width := width }, width0 := width }

/-- Send a request that the module issues on a queue pair, and await its reply (R45). -/
def State.issue (s : State) (c : Cmd) (qp opcode deadline cmd entry : Nat) (payload : List Byte) : State :=
  let h : Hdr :=
    { qp := qp, opcode := opcode, partition := c.hdr.partition, svc := c.hdr.svc, urgent := c.hdr.urgent,
      tag := s.issueSeq, deadline := deadline }
  let i : Issued := { qp := qp, tag := s.issueSeq, cmd := cmd, opcode := opcode, entry := entry }
  ({ s with issueSeq := s.issueSeq + 1, issued := s.issued ++ [i] }).emit
    (Out.packet ⟨h, if c.hdr.urgent then 8 else 0, 0, [], payload⟩)

/-- The coordinated query of a number. -/
def State.coord? (s : State) (sid : Nat) : Option Coord := s.coords.find? (fun q => q.sid == sid)

/-- Change a coordinated query. -/
def State.setCoord (s : State) (sid : Nat) (f : Coord → Coord) : State :=
  { s with coords := updateWhere s.coords (fun q => q.sid == sid) f }

/-- The payload of SEARCH_SHARD for a replica: the request's parameters with flag bit 0 clear and the replica's index ID. -/
def shardPayload (index : Nat) (params : List Byte) : List Byte :=
  toLE 2 index ++ slice params 2 1 ++ toLE 1 (fieldAt params 3 1 / 2 * 2) ++ params.drop 4

/-- The code profile of an index was valid at a command's intake stamp and is valid still (R672). -/
def State.profileOk (s : State) (c : Cmd) (x : Index) : Bool := !c.snap.invalid.contains x.num && (s.profile x.profile).ok

/-- The local index that a map entry names, where a search of it is usable: bound by the command and with a valid profile
(R216, R672). -/
def State.localIndex (s : State) (c : Cmd) (i : Nat) : Option Index := (s.boundIndex c i).filter (s.profileOk c)

/-- The number of the local walk for replica `k` of map entry `e` of a coordinated query. -/
def localSid (sid e k : Nat) : Nat := sid + (4 * e + k + 1) * 2 ^ 64

/-- The walk of the local index for replica `k` of map entry `e` of a coordinated query: it runs under the deadline of a shard query
(R235). -/
def State.localWalk (s : State) (c : Cmd) (q : Coord) (e k : Nat) (x : Index) : Search :=
  { s.boundQuery c x (parseSearch false q.params) 0 with
    sid := localSid q.sid e k, coord := some (q.sid, e)
    deadline := some (q.cutoff - s.fld (GGE_SHARD_CFG q.part) 19 8 * 1000) }

/-- Send a shard query to the next usable replica of entry `e` of a coordinated query (R233): replicas whose queue pair is
in the error state are passed over, and a local index that cannot be searched counts as an unusable reply (Table 5-13). -/
def State.sendShard (s : State) (c : Cmd) (sid e : Nat) : Nat → State
  | 0 => s
  | fuel + 1 =>
    match s.coord? sid with
    | none => s
    | some q =>
      let r := q.runs.getD e ⟨⟨0, 0, false, []⟩, 0, 0, 0, none⟩
      match r.entry.replicas[r.next]? with
      | none => s
      | some qp =>
        let s1 := s.setCoord sid (fun q => { q with runs := modifyAt q.runs e (fun r => { r with next := r.next + 1, sent := s.now }) })
        let sent (s : State) (tag : Option Nat) : State := s.setCoord sid (fun q =>
          { q with runs := modifyAt q.runs e (fun r => { r with live := r.live + 1, last := tag }) })
        if qp == 0xFFFF_FFFE then
          match s1.localIndex c r.entry.index with
          | some x => (sent s1 none).addSearch (s1.localWalk c q e r.next x)
          | none => State.sendShard (s1.bump (GGE_SHARD_CNT q.part) 31 0 1) c sid e fuel
        else if s1.qpLive qp then
          let flight := s1.fld (GGE_SHARD_CFG q.part) 19 8 * 1000
          sent (s1.issue c qp 0x0201 (q.cutoff - flight) sid e (shardPayload r.entry.index q.params)) (some s1.issueSeq)
        else State.sendShard s1 c sid e fuel

/-- Send entry `e` to every replica of a broadcast entry. -/
def State.sendBroadcast (s : State) (c : Cmd) (sid e : Nat) : Nat → State
  | 0 => s
  | fuel + 1 => State.sendBroadcast (s.sendShard c sid e 4) c sid e fuel

/-- The budget end E and the cutoff C of a coordinated request (R231, R232). -/
def State.cutoffOf (s : State) (c : Cmd) : Nat × Nat :=
  let cfg := GGE_SHARD_CFG c.hdr.partition
  let e := if c.hdr.deadline == 0 then c.intake + s.fld cfg 63 48 * 1000 else c.hdr.deadline - s.fld cfg 31 20 * 1000
  let cut := if s.bit cfg 4 then (s.lastWindowEnd (s.fld cfg 3 1) (s.fld cfg 7 5) c.intake e).getD e else e
  (e, cut)

/-- Start one coordinated query: a shard query for every entry of the map, of which those for the local index are walks
(R233). -/
def State.startCoord (s : State) (c : Cmd) (m : ShardMap) (q : SearchParams) (i : Nat) : State :=
  let sid := c.id * 256 + i
  let inl := c.input
  let params := inl.take 56 ++ zeros 8 ++ q.queries.getD i [] ++ inl.drop (64 + q.qlen * q.count)
  let co : Coord := ⟨sid, c.id, c.hdr.partition, q.k, (s.cutoffOf c).2, params, m.entries.map (fun e => { entry := e }), [], none⟩
  let s1 := { s with coords := s.coords ++ [co] }
  (List.range m.entries.length).foldl (fun s e =>
    if ((m.entries.getD e ⟨0, 0, false, []⟩).broadcast) then s.sendBroadcast c sid e 4 else s.sendShard c sid e 4) s1

/-- Parameters of a sharded search that no map entry can serve: out of Table 5-8's ranges, or unfit for a local index (R209,
R212). -/
def State.shardMisfit (s : State) (c : Cmd) (m : ShardMap) (q : SearchParams) : Bool :=
  let locals := (m.entries.filter (fun e => e.replicas.contains 0xFFFF_FFFE)).filterMap (fun e => s.localIndex c e.index)
  !q.okAny 0 || locals.any (fun x => !q.ok (s.profile x.profile) x)

/-- SEARCH, SEARCH_SHARD and SEARCH_BATCH (R203, R212, R229 to R233, R242, R672). -/
def searchBody (batch : Bool) (c : Cmd) (s : State) : State :=
  let q := parseSearch batch c.input
  let p := c.hdr.partition
  if !searchLenOk batch c.input then s.refuse c stBadParameter
  else if !searchResvOk batch c.input then s.refuse c stReservedNonzero
  else if batch && (q.count == 0 || 256 < q.count) then s.refuse c stBadParameter
  else if q.sharded && c.hdr.opcode == 0x0201 then s.refuse c stBadParameter
  else if 64 ≤ q.index then s.refuse c stBadParameter
  else if q.sharded then
    match c.snap.maps.find? (fun e => e.1 == q.index) with
    | none => s.refuse c stUnknownObject
    | some (_, n) =>
      match s.maps.find? (fun m => m.part == p && m.index == q.index && m.number == n) with
      | none => s.refuse c stUnknownObject
      | some m =>
        if !s.framesOk p then s.tick.refuseHint c stNotReady (Config.freeBelow s.freeCtr (2 ^ 32))
        else if (s.cutoffOf c).1 ≤ c.intake || s.shardMisfit c m q then s.refuse c stBadParameter
        else (List.range q.count).foldl (fun s i => s.startCoord c m q i) s
  else s.onIndex c fun x =>
    if !s.profileOk c x then s.refuseHint c stNotReady 1000
    else if !s.framesOk p then s.tick.refuseHint c stNotReady (Config.freeBelow s.freeCtr (2 ^ 32))
    else if !q.ok (s.profile x.profile) x then s.refuse c stBadParameter
    else (List.range q.count).foldl (fun s i => s.addSearch (s.boundQuery c x q i)) s

/-- SEARCH. -/
def bodySearch (c : Cmd) (s : State) : State := searchBody false c s

/-- SEARCH_SHARD. -/
def bodySearchShard (c : Cmd) (s : State) : State := searchBody false c s

/-- SEARCH_BATCH. -/
def bodySearchBatch (c : Cmd) (s : State) : State := searchBody true c s

/-! ### The coordinator (R233 to R237) -/

/-- Shard entry `e` already has a used reply. -/
def Coord.done (q : Coord) (r : ShardRun) : Bool := q.used.any (fun u => u.1 == r.entry.shard)

/-- The request of a tag, or none the local walk, has brought no usable reply for entry `e`: if it was the last one sent, a
further replica is asked at once, unless the shard has its used reply (R233, R234). -/
def State.shardUnusable (s : State) (sid e : Nat) (tag : Option Nat) : State :=
  match s.coord? sid with
  | none => s
  | some q =>
    let s1 := (s.bump (GGE_SHARD_CNT q.part) 31 0 1).setCoord sid (fun q =>
      { q with runs := modifyAt q.runs e (fun r => { r with live := r.live - 1 }) })
    let r := q.runs.getD e ⟨⟨0, 0, false, []⟩, 0, 0, 0, none⟩
    match s1.cmd? q.cmd with
    | some c => if r.entry.broadcast || r.last != tag || q.done r || q.ended.isSome then s1 else s1.sendShard c sid e 4
    | none => s1

/-- A list for shard entry `e` arrives, stamped: the first usable one of the shard is used, a later one is ignored
(R234). -/
def State.useShard (s : State) (sid e stamp : Nat) (l : List (Nat × F32)) : State :=
  match s.coord? sid with
  | none => s
  | some q =>
    let r := q.runs.getD e ⟨⟨0, 0, false, []⟩, 0, 0, 0, none⟩
    if q.done r || q.cutoff ≤ stamp then s.bump (GGE_SHARD_CNT q.part) 31 0 1
    else s.setCoord sid (fun q => { q with used := q.used ++ [(r.entry.shard, stamp, s.now, l)] })

/-- The local walk of a coordinated query has ended: its result counts as a reply stamped at its end (R235, R672). -/
def State.localShard (s : State) (q : Search) (r : QueryEnd) : State :=
  match q.coord with
  | none => s
  | some (sid, e) =>
    let s1 := { s with searches := s.searches.filter (fun x => x.sid != q.sid) }
    if statusClass r.status ≤ 1 then s1.useShard sid e s.now r.entries else s1.shardUnusable sid e none

/-- Parse the entries of a SEARCH_SHARD reply. -/
def parseEntryList (bs : List Byte) : List (Nat × F32) :=
  (List.range (min (fieldAt bs 0 4) 1024)).map (fun i => (fieldAt bs (8 + 12 * i) 8, BitVec.ofNat 32 (fieldAt bs (16 + 12 * i) 4)))

/-- A SEARCH_SHARD reply with a tag arrives for entry `e` (R234). -/
def State.shardReply (s : State) (sid e tag status : Nat) (payload : List Byte) : State :=
  if statusClass status ≤ 1 then s.useShard sid e s.now (parseEntryList payload) else s.shardUnusable sid e (some tag)

/-- SHARD_HEDGE_TIMEOUT (R233): HEDGE has passed since the last send without a usable reply. -/
def shardHedgeTimeoutStep (sid e : Nat) (s : State) : State :=
  match s.coord? sid with
  | none => s
  | some q =>
    match q.runs[e]? with
    | none => s
    | some r =>
      let hedge := s.fld (GGE_SHARD_CFG q.part) 47 32 * 1000
      if q.ended.isSome || r.entry.broadcast || q.done r || s.now < r.sent + hedge then s
      else match s.cmd? q.cmd with
        | some c => s.sendShard c sid e 4
        | none => s

/-- The distinct shard numbers of a coordinated query's map. -/
def Coord.shards (q : Coord) : List Nat := dedupBy id (q.runs.map (fun r => r.entry.shard))

/-- The instant has come at which a coordinated query merges (R236). -/
def State.mergeDue (s : State) (q : Coord) : Bool :=
  if q.cutoff ≤ s.now then true
  else if q.shards.all (fun n => q.used.any (fun u => u.1 == n)) then
    let cfg := GGE_SHARD_CFG q.part
    let last := maxNat (q.used.map (fun u => u.2.2.1))
    if s.bit cfg 4 then
      match s.nextWindowEnd (s.fld cfg 3 1) (s.fld cfg 7 5) last with
      | some t => t ≤ s.now
      | none => false
    else true
  else false

/-- SHARD_MERGE (R236, R237): the used lists are merged; `done` continues the command. -/
def shardMergeStep (done : Nat → State → State) (sid : Nat) (s : State) : State :=
  match s.coord? sid with
  | none => s
  | some q =>
    if q.ended.isSome || !s.mergeDue q then s
    else
      let n := q.shards.length
      let a := (q.shards.filter (fun n => q.used.any (fun u => u.1 == n))).length
      let all := q.used.flatMap (fun u => u.2.2.2)
      let l := (bestById (all.filter (fun e => !fNan e.2))).take q.k
      -- the merge is a selection (R236): it is counted, with the NaN distances that it drops (R244, R282)
      let s1 := s.countSel q.part (all.filter (fun e => fNan e.2)).length 0
      let s2 := (s1.bump (GGE_SHARD_CNT q.part) 63 32 (n - a)).setCoord sid (fun q =>
        { q with ended := some (l, if n == 0 then 65536 else 65536 * a / n) })
      -- replies that come before the coordinator has replied are ignored (R234)
      done q.cmd { s2 with searches := s2.searches.filter (fun x => (x.coord.map (fun e => e.1)) != some sid) }

/-- Remove a command's queries. -/
def State.dropSearches (s : State) (cmd : Nat) : State :=
  { s with
    searches := s.searches.filter (fun q => q.cmd != cmd)
    coords := s.coords.filter (fun q => q.cmd != cmd)
    issued := s.issued.filter (fun i => !(i.opcode == 0x0201 && i.cmd / 256 == cmd)) }

/-- The ended queries of a command in order, each with coverage and bound epoch; none while one is still open. The local
walks of coordinated queries are handed to their coordinators first. -/
def State.queryEnds (s : State) (cmd : Nat) : Option (List (QueryEnd × Nat × Nat)) :=
  if s.coords.any (fun q => q.cmd == cmd) then
    (s.coords.filter (fun q => q.cmd == cmd)).foldr (fun q acc =>
      match acc, q.ended with
      | some r, some (l, cov) => some ((⟨stOk, l, l.length < q.k⟩, cov, 0) :: r)
      | _, _ => none) (some [])
  else
    (s.searches.filter (fun q => q.cmd == cmd)).foldr (fun q acc =>
      match acc, q.ended with
      | some r, some e => some ((e, 65536, q.epoch.num) :: r)
      | _, _ => none) (some [])

/-- Hand ended local walks of a command to their coordinators. -/
def State.feedLocal (s : State) (cmd : Nat) : State :=
  (s.searches.filter (fun q => q.cmd == cmd && q.ended.isSome && q.coord.isSome)).foldl (fun s q =>
    match q.ended with
    | some r => s.localShard q r
    | none => s) s

/-- A query of a search command has ended: the command replies once all have (R213). -/
def searchCmdDone (cmd : Nat) (s : State) : State :=
  let s1 := s.feedLocal cmd
  match s1.cmd? cmd with
  | none => s1.dropSearches cmd
  | some c =>
    match s1.queryEnds cmd with
    | none => s1
    | some rs => (s1.dropSearches cmd).replySearch c rs

/-! ### Walker faults (R239) -/

/-- The queries that a failing walker serves, restarted once on another walker; a second failure ends them. -/
def State.restartSearches (s : State) (w : Nat) (done : Nat → State → State) : State :=
  let qs := s.searches.filter (fun q => !q.waiting && q.ended.isNone && q.walker == w)
  qs.foldl (fun s q =>
    if 1 ≤ q.restarts then
      -- the report of the first walker's fault carries the outcome of the retry
      done q.cmd ((s.report ⟨5, q.avoid.getD w, 0, .retryFailed⟩).failSearch q.sid stHwFault)
    else s.retake q.sid (fun q => { q with restarts := q.restarts + 1, avoid := some w })) s

/-- A restarted query that has found no free context by its deadline ends with HW_FAULT (R239); another ends with
DEADLINE_MISSED. -/
def Search.missed (q : Search) : Nat := if 0 < q.restarts && q.waiting then stHwFault else stDeadlineMissed

end Sys2Proof.Machine
end

