-- ==== Sys2Proof/Machine/Merge.lean ====
section
/-! DEFINITION. The merge job of an index (spec/05, "Merge job and epochs"): snapshot, link, repair, publish and reclaim,
and what a walker fault does to it. -/

namespace Sys2Proof.Machine

/-- The running merge job of a partition. -/
def State.merge? (s : State) (p : Nat) : Option MergeJob := s.merges.find? (fun j => j.part == p)

/-- Change the merge job of a partition. -/
def State.setMerge (s : State) (p : Nat) (f : MergeJob → MergeJob) : State :=
  { s with merges := updateWhere s.merges (fun j => j.part == p) f }

/-- Copy `n` bytes with their readability. -/
def State.copyMem (s : State) (src dst n : Nat) : State :=
  let cells := s.mem.filter (fun e => src ≤ e.1 && e.1 < src + n)
  let bad := s.ue.filter (fun b => src ≤ b * 64 && b * 64 < src + n)
  let s1 := s.zeroRange dst n
  let s2 := { s1 with
    mem := cells.foldl (fun m e => sparseSet 0 m (dst + (e.1 - src)) e.2) s1.mem
    veil := copyVeil s.veil src dst n ++ s1.veil }
  bad.foldl (fun s b => s.poison ((dst + (b * 64 - src)) / 64)) s2

/-- Take one chunk of an index's pool. -/
def State.takeChunk (s : State) (p i : Nat) : Option (State × Nat) :=
  match s.index? p i with
  | none => none
  | some x =>
    (placeLow x.poolBase x.poolBase (x.poolBase + x.poolLen) 0x20_0000 0x20_0000 x.pool).map (fun a =>
      (s.setIndex p i (fun x => { x with pool := x.pool ++ [(a, 0x20_0000)] }), a))

/-- Write into an array of the epoch that a job builds: a chunk that the old epoch shares is copied first (R194). None: the
pool has no chunk. -/
def State.cowWrite (s : State) (j : MergeJob) (k off : Nat) (bs : List Byte) : Option (State × MergeJob) :=
  let c := off / 0x20_0000
  let setTab (t : List Nat) : Epoch := { j.epoch with tabs := modifyAt j.epoch.tabs k (fun _ => t) }
  let tab := j.epoch.tab k
  match tab[c]? with
  | some a =>
    if j.fresh.contains a then some (s.store (a + off % 0x20_0000) bs, j)
    else (s.takeChunk j.part j.index).map (fun r =>
      let s1 := r.1.copyMem a r.2 0x20_0000
      (s1.store (r.2 + off % 0x20_0000) bs,
        { j with epoch := setTab (modifyAt tab c (fun _ => r.2)), fresh := r.2 :: j.fresh }))
  | none => (s.takeChunk j.part j.index).map (fun r =>
      ((r.1.zeroRange r.2 0x20_0000).store (r.2 + off % 0x20_0000) bs,
        { j with epoch := setTab (tab ++ [r.2]), fresh := r.2 :: j.fresh }))

/-- The distance of two codes, each with the codebook of its stack: the first, decoded, is the query (R223). -/
def CodeProfile.codeDist (p : CodeProfile) (ca a cb b : List Byte) : F32 :=
  if p.fmt == 3 then fOfNat (sumNat (a.zipWith (fun x y => byteOnes (x ^^^ y)) b))
  else if p.metric == 0 then l2Dist (p.decode ca a) (p.decode cb b) else ipDist (p.decode ca a) (p.decode cb b)

/-- A node is dead in the epoch that a job builds: tombstoned at the snapshot and not rewritten (R223). -/
def MergeJob.isDead (j : MergeJob) (n : Nat) : Bool := j.tombs.contains n && !j.rewrote.contains n

/-- The distance of node `n` from the code at address `a` in the epoch that a job builds; NaN where either code cannot be read. -/
def State.mergeDist (s : State) (x : Index) (j : MergeJob) (a n : Nat) : F32 :=
  let p := s.profile x.profile
  let b := x.addr j.epoch 0 n
  if s.isUe a x.codeLen || s.isUe b x.codeLen then 0x7FC00000
  else p.codeDist (s.codebook (s.stackOf a) p) (s.bytes a x.codeLen) (s.codebook (s.stackOf b) p) (s.bytes b x.codeLen)

/-- Count and report the distances that a job measures to nodes of its epoch. -/
def State.mergeMeasured (s : State) (x : Index) (j : MergeJob) (ns : List Nat) : State :=
  s.measured 1 x.part x.codeLen (ns.map (fun n => x.addr j.epoch 0 n))

/-- The code of node `n`, from which distances are measured, is read and decoded into a query (R223): what the read meets is
reported. -/
def State.mergeQuery (s : State) (x : Index) (j : MergeJob) (n : Nat) : State :=
  s.noteRead 0 x.part [(x.addr j.epoch 0 n, x.codeLen)]

/-- A neighbour list as bytes of its slot. -/
def nbrBytes (x : Index) (l : List Nat) : List Byte :=
  (l ++ List.replicate (x.ns / 4 - l.length) 0xFFFF_FFFF).flatMap (fun n => toLE 4 n)

/-- The node that an existing location of an ID names, through the slots placed so far (R223, R225). -/
def State.nodeOf (s : State) (x : Index) (placed : List (Nat × Nat)) : Nat → Nat → Option Nat
  | 0, _ => none
  | n + 1, w =>
    if noLoc w then none
    else if w < insId then some w
    else
      let a := x.slotOfWord w
      match assoc placed a with
      | some m => some m
      | none => s.nodeOf x placed n (s.num (x.metaAddr a + 12) 4)

/-- Add node `n` to the list of `m`: where the list is full, in place of its farthest neighbour if it is nearer (R223). -/
def State.addEdge (s : State) (x : Index) (j : MergeJob) (m n : Nat) : Option (State × MergeJob) :=
  let l := s.nodeNbrs x j.epoch m
  if l.contains n then some (s, j)
  else if l.length < x.degree then s.cowWrite j 1 (m * x.ns) (nbrBytes x (l ++ [n]))
  else
    let code := x.addr j.epoch 0 m
    let far := (sortBy nearLt (l.map (fun k => (s.mergeDist x j code k, k)))).getLast?
    let d := s.mergeDist x j code n
    let s1 := (s.mergeQuery x j m).mergeMeasured x j (l ++ [n])
    match far with
    | some (fd, fk) =>
      if !fNan d && (fNan fd || distKey d < distKey fd) then
        s1.cowWrite j 1 (m * x.ns) (nbrBytes x (l.map (fun k => if k == fk then n else k)))
      else some (s1, j)
    | none => some (s1, j)

/-- Place one side entry in the new graph (R223). -/
def State.linkSlot (s : State) (x : Index) (j : MergeJob) (a : Nat) : Option (State × MergeJob) :=
  let (attr, lid) := s.sideInfo x a
  let code := s.bytes (x.sideAddr a) x.codeLen
  let old := s.nodeOf x j.placed (x.cap + 1) (s.num (x.metaAddr a + 12) 4)
  let n := old.getD j.epoch.count
  let env : WalkEnv :=
    { nbrs := s.nodeNbrs x j.epoch, dead := j.isDead, dist := s.mergeDist x j (x.sideAddr a) }
  let first := Walk.start env j.epoch.entry j.width
  let w := Walk.run env (2 ^ 32) (j.epoch.count + 1) first
  let s := s.mergeMeasured x j (j.epoch.entry :: Walk.trace env (2 ^ 32) (j.epoch.count + 1) first)
  let chosen := ((w.top.map (fun e => e.2)).filter (fun m => m != n)).take x.degree
  let grow (r : State × MergeJob) : Option (State × MergeJob) :=
    if old.isSome then some r
    -- a shard holds at most 2,147,483,647 nodes: index 0x7FFF_FFFF names none (R5)
    else if 2147483647 ≤ n then none
    else
      let j1 := { r.2 with epoch := { r.2.epoch with count := n + 1 } }
      if n / 8 < j1.ntomb.length * 0x20_0000 then some (r.1, j1)
      else (r.1.takeChunk x.part x.num).map (fun t =>
        (t.1.zeroRange t.2 0x20_0000, { j1 with ntomb := j1.ntomb ++ [t.2], fresh := t.2 :: j1.fresh }))
  (s.cowWrite j 0 (n * x.cs) (padTo x.cs code)).bind fun r =>
  (r.1.cowWrite r.2 1 (n * x.ns) (nbrBytes x chosen)).bind fun r =>
  (r.1.cowWrite r.2 2 (n * 8) (toLE 8 attr)).bind fun r =>
  (r.1.cowWrite r.2 3 (n * 4) (toLE 4 lid)).bind fun r =>
  (grow r).bind fun r =>
    let j1 := { r.2 with placed := (a, n) :: r.2.placed, rewrote := if old.isSome then n :: r.2.rewrote else r.2.rewrote }
    chosen.foldl (fun acc m => acc.bind (fun r => r.1.addEdge x r.2 m n)) (some (r.1, j1))

/-- Structure or side metadata that a merge reads is uncorrectable. -/
def State.mergeUe (s : State) (x : Index) (j : MergeJob) : Option Nat :=
  s.structUe ((List.range j.epoch.count).map (fun n => (x.addr j.epoch 1 n, x.ns)) ++
    (List.range (j.hi - j.lo)).flatMap (fun i => [(x.metaAddr (j.lo + i), 16), (x.sideAddr (j.lo + i), x.codeLen)]))

/-- The job reaches FAILED (R222, R227): the new epoch's chunks are freed and the start is answered. -/
def State.mergeFail (s : State) (p status : Nat) : State :=
  match s.merge? p with
  | none => s
  | some j =>
    let s1 := s.setIndex p j.index (fun x => { x with pool := x.pool.filter (fun r => !j.fresh.contains r.1) })
    let s2 := ({ s1 with merges := s1.merges.filter (fun j => j.part != p) }).setFld (GGE_MERGE_STATUS p) 43 40 6
    let s3 := s2.event GGE_EVENT 1
    s3.endWith j.cmd status

/-- Place side entries one after another. -/
def State.linkSlots (s : State) (p : Nat) (j : MergeJob) (live : List Nat) : Option (State × MergeJob) :=
  live.foldl (fun acc a => acc.bind (fun (r : State × MergeJob) =>
    match r.1.index? p j.index with
    | some x => r.1.linkSlot x r.2 a
    | none => none)) (some (s, j))

/-- A walker context for a job, within its share of the partition's contexts (R228): walker, first context, count. -/
def State.mergeSlot (s : State) (j : MergeJob) (n : Nat) : Option (Nat × Nat × Nat) :=
  let ws := s.partWalkers j.part
  if s.fld (GGE_PART_CFG j.part) 31 24 * (ws.length * min 256 (s.fld GGE_QCTX_CFG 40 32)) < 100 * n then none
  else ws.findSome? (fun w => (s.freeContext w n).map (fun i => (w, i, n)))

/-- The codes of the epoch that a job builds, and of the side slots that it merges. -/
def MergeJob.codes (j : MergeJob) (x : Index) : List Nat :=
  (List.range j.epoch.count).map (fun n => x.addr j.epoch 0 n) ++
    (List.range (j.hi - j.lo)).map (fun i => x.sideAddr (j.lo + i))

/-- LINK (R222, R223): every side slot of the snapshot that was not tombstoned then, in ring order. The job stays in
SNAPSHOT while no context of its share is free, and while engines that hold its codes take no descriptors. -/
def State.linkAll (s : State) (p : Nat) : State :=
  match s.merge? p with
  | none => s
  | some j =>
    match s.index? p j.index with
    | none => s
    | some x =>
      match s.mergeUe x j with
      | some a => (s.dramUe a).mergeFail p stUncorrectableData
      | none =>
        let live := ((List.range (j.hi - j.lo)).map (fun i => j.lo + i)).filter (fun a => !s.bitAt x.stomb (a % x.cap))
        let pr := s.profile x.profile
        match s.mergeSlot j pr.querySlots with
        | none => s
        | some slot =>
          if s.codesIdle (j.codes x) then s
          else if !live.isEmpty && s.codesFault pr [] (j.codes x) then s.mergeFail p stHwFault
          else match s.linkSlots p { j with slot := some slot } live with
          | none => s.mergeFail p stNoMemory
          | some (s1, j1) =>
            ((s1.setMerge p (fun _ => { j1 with state := 2 })).setFld (GGE_MERGE_STATUS p) 43 40 2).setFld (GGE_MERGE_STATUS p)
              31 0 live.length

/-- INDEX_MERGE_START (R222, R227). A job that MERGE_EN holds stays in SNAPSHOT. -/
def bodyIndexMergeStart (c : Cmd) (s : State) : State :=
  s.shaped c 8 [(4, 4)] fun s =>
    let p := c.hdr.partition
    let i := fieldAt c.input 0 2
    let w := fieldAt c.input 2 2
    if 64 ≤ i then s.refuse c stBadParameter
    else match s.index? p i with
    | none => s.refuse c stUnknownObject
    | some x =>
      if x.unload.isSome then s.refuse c stUnknownObject
      else if (s.merge? p).isSome then s.refuseBusy c
      else if w != 0 && (w < x.degree || 1024 < w) then s.refuse c stBadParameter
      else if !(s.profile x.profile).ok then s.refuseHint c stNotReady 1000
      else if (s.partWalkers p).isEmpty then s.refuseHint c stNotReady 1000
      else
        let j : MergeJob :=
          { part := p, index := i, cmd := c.id, width := if w == 0 then 2 * x.degree else w, lo := x.wstart, hi := x.wend,
            tombs := (List.range x.epoch.count).filter (fun n => s.bitAt x.ntomb n), epoch := { x.epoch with num := x.epoch.num + 1 },
            ntomb := x.ntomb }
        let s1 := ({ s with merges := s.merges ++ [j] }).setRaw (GGE_MERGE_STATUS p) (BitVec.ofNat 64 (i * 2 ^ 48 + 1 * 2 ^ 40))
        if s1.bit GGE_CTRL 1 then s1.linkAll p else s1

/-- Repair the edges of one live node (R224). -/
def State.repairNode (s : State) (x : Index) (j : MergeJob) (n : Nat) : Option (State × MergeJob) :=
  let l := s.nodeNbrs x j.epoch n
  if !l.any j.isDead then some (s, j)
  else
    let code := x.addr j.epoch 0 n
    let next (have_ : List Nat) (t : Nat) : List Nat :=
      (s.nodeNbrs x j.epoch t).filter (fun m => !j.isDead m && m != n && !have_.contains m)
    let pick (have_ : List Nat) (t : Nat) : Option Nat :=
      let cands := (next have_ t).map (fun m => (s.mergeDist x j code m, m))
      ((sortBy nearLt (cands.filter (fun e => !fNan e.1))).head?).map (fun e => e.2)
    -- the list as it changes, and the nodes measured on the way
    let r := l.foldl (fun (acc : List Nat × List Nat) t =>
      if j.isDead t then
        let seen := acc.2 ++ next acc.1 t
        match pick acc.1 t with
        | some m => (acc.1.flatMap (fun k => if k == t then [m] else [k]), seen)
        | none => (acc.1.filter (fun k => k != t), seen)
      else acc) (l, [])
    ((s.mergeQuery x j n).mergeMeasured x j r.2).cowWrite j 1 (n * x.ns) (nbrBytes x r.1)

/-- Repair nodes one after another. -/
def State.repairNodes (s : State) (x : Index) (j : MergeJob) (nodes : List Nat) : Option (State × MergeJob) :=
  nodes.foldl (fun acc n => acc.bind (fun (r : State × MergeJob) => r.1.repairNode x r.2 n)) (some (s, j))

/-- The live neighbours of a tombstoned entry node, from which the new one is chosen by distance (R224). -/
def State.entryHeirs (s : State) (x : Index) (j : MergeJob) : List Nat :=
  let e := j.epoch.entry
  if j.isDead e then (s.nodeNbrs x j.epoch e).filter (fun m => !j.isDead m) else []

/-- The entry node after REPAIR (R224). -/
def State.newEntry (s : State) (x : Index) (j : MergeJob) : Nat :=
  let e := j.epoch.entry
  if !j.isDead e then e
  else
    let code := x.addr j.epoch 0 e
    match (sortBy nearLt ((s.entryHeirs x j).map (fun m => (s.mergeDist x j code m, m)))).head? with
    | some r => r.2
    | none => ((List.range j.epoch.count).find? (fun m => !j.isDead m)).getD e

/-- MERGE_REPAIR (R224): after LINK; a job held in SNAPSHOT links first once MERGE_EN releases it. -/
def mergeRepairStep (p : Nat) (s : State) : State :=
  if !s.bit GGE_CTRL 1 then s
  else
    let s := match s.merge? p with
      | some j => if j.state == 1 then s.linkAll p else s
      | none => s
    match s.merge? p with
    | none => s
    | some j =>
      if j.state != 2 then s
      else match s.index? p j.index with
      | none => s
      | some x =>
        let nodes := (List.range j.epoch.count).filter (fun n => !j.isDead n)
        let hit := (nodes.filter (fun n => (s.nodeNbrs x j.epoch n).any j.isDead)).length
        if !(s.profile x.profile).ok then s.mergeFail p stHwFault
        else match s.mergeUe x j with
        | some a => (s.dramUe a).mergeFail p stUncorrectableData
        | none =>
          let entry := s.newEntry x j
          let heirs := s.entryHeirs x j
          if s.codesIdle (j.codes x) then s
          else if (0 < hit || !heirs.isEmpty) && s.codesFault (s.profile x.profile) [] (j.codes x) then s.mergeFail p stHwFault
          else match (if heirs.isEmpty then s else (s.mergeQuery x j j.epoch.entry).mergeMeasured x j heirs).repairNodes x j nodes with
          | none => s.mergeFail p stNoMemory
          | some (s1, j1) =>
            ((s1.setMerge p (fun _ => { j1 with
              state := 3, repaired := true, epoch := { j1.epoch with entry := entry } })).setFld (GGE_MERGE_STATUS p) 43 40 3).setFld
              (GGE_MERGE_STATUS p) 31 0 hit

/-- A location word after PUBLISH (R225): a slot of [lo, hi) resolves to its node, or to its own previous location. -/
def State.resolveWord (s : State) (x : Index) (j : MergeJob) : Nat → Nat → Nat
  | 0, w => w
  | n + 1, w =>
    if noLoc w || w < insId then w
    else
      let a := x.slotOfWord w
      if a < j.lo || j.hi ≤ a then w
      else match assoc j.placed a with
      | some m => m
      | none => s.resolveWord x j n (s.num (x.metaAddr a + 12) 4)

/-- What PUBLISH writes (R225): the ID-map words of vectors that a merged slot held, the previous locations of later entries that
named one, and the tombstones of rewritten nodes and of the merged slots. -/
def State.publishWords (s : State) (x : Index) (j : MergeJob) : State :=
  let res := s.resolveWord x j (x.cap + 1)
  let words := (List.range x.nextId).map (fun i => (i, s.num (tabAddr x.idmap (i * 4)) 4))
  let s1 := words.foldl (fun s e =>
    let w := res e.2
    if w == e.2 then s else s.store (tabAddr x.idmap (e.1 * 4)) (toLE 4 (if noLoc w then 0x7FFF_FFFF else w))) s
  let later := (List.range (x.wend - j.hi)).map (fun i => j.hi + i)
  let s2 := later.foldl (fun t a =>
    let w := s.num (x.metaAddr a + 12) 4
    if res w == w then t else t.store (x.metaAddr a + 12) (toLE 4 (if noLoc (res w) then 0xFFFF_FFFF else res w))) s1
  -- tombstones: rewritten nodes are cleared, then those of the merged slots are carried over
  let s3 := j.rewrote.foldl (fun s n => s.setBitAt j.ntomb n false) s2
  j.placed.foldl (fun t e => if s.bitAt x.stomb (e.1 % x.cap) then t.setBitAt j.ntomb e.2 true else t) s3

/-- The merged slots whose entry is deleted and is its vector's newest, with their identifiers. -/
def State.deadSlots (s : State) (x : Index) (j : MergeJob) : List (Nat × Nat) :=
  ((((List.range (j.hi - j.lo)).map (fun i => j.lo + i)).filter (fun a => s.bitAt x.stomb (a % x.cap) &&
    s.newest x (s.sideInfo x a).2 == slotWord x a))).map (fun a => (a, (s.sideInfo x a).2))

/-- The overlay after PUBLISH: its locations resolved. -/
def State.publishOverlay (s : State) (x : Index) (j : MergeJob) : List (Nat × Nat) :=
  (x.overlay.map (fun e => (e.1, s.resolveWord x j (x.cap + 1) e.2))).filter (fun e => e.2 != e.1)

/-- What was taken in at the publish stamp binds the new epoch (R225): commands, and queries that start again on it. -/
def State.rebind (s : State) (p : Nat) (j : MergeJob) : State :=
  let at_ := s.cmds.filter (fun c => c.hdr.partition == p && s.now ≤ c.intake)
  let s1 := { s with cmds := updateWhere s.cmds (fun c => c.hdr.partition == p && s.now ≤ c.intake) (fun c =>
    { c with snap := { c.snap with indices := c.snap.indices.map (fun e =>
        if e.1 == j.index then (e.1, j.epoch.num, j.hi, e.2.2.2) else e) } }) }
  let qs := s.searches.filter (fun q => q.part == p && q.index == j.index && q.ended.isNone && at_.any (fun c => c.id == q.cmd))
  qs.foldl (fun s q => s.retake q.sid (fun q => { q with epoch := j.epoch, wstart := j.hi })) s1

/-- The new epoch becomes current at one instant (R225), and the command of the job is replied. -/
def State.publish (s : State) (p : Nat) (j : MergeJob) (x : Index) : State :=
  let s1 := (s.publishWords x j).setIndex p j.index (fun y => { y with
    epoch := j.epoch, ntomb := j.ntomb, wstart := j.hi, overlay := s.publishOverlay x j })
  let s2 := s1.setMerge p (fun j => { j with
    state := 5, old := some x.epoch, dead := s.deadSlots x j, slot := none
    freed := ((List.range (j.hi - j.lo)).map (fun i => j.lo + i)).filter (fun a => s.bitAt x.stomb (a % x.cap)) })
  (((s2.rebind p j).setFld (GGE_MERGE_STATUS p) 43 40 5).event GGE_EVENT 0).endWith j.cmd stOk

/-- MERGE_PUBLISH (R225): the job is repaired and merges are enabled. -/
def mergePublishStep (p : Nat) (s : State) : State :=
  match s.merge? p with
  | none => s
  | some j =>
    if j.state != 3 || !j.repaired || !s.bit GGE_CTRL 1 then s
    else match s.index? p j.index with
    | none => s
    | some x => s.publish p j x

/-- Commands and queries bound to an epoch of an index: a command until its search has started or, where it coordinates one or
is a RAG_GENERATE on its way to its search, until that has ended. -/
def State.boundTo (s : State) (p i n : Nat) : Bool :=
  let open_ (c : Cmd) : Bool := c.phase != .started || s.coords.any (fun q => q.cmd == c.id) ||
    s.rags.any (fun r => r.cmd == c.id && r.stage < 3)
  s.searches.any (fun q => q.part == p && q.index == i && q.epoch.num == n && q.ended.isNone) ||
  s.cmds.any (fun c => c.hdr.partition == p && (c.hdr.opcode ≤ 0x0202 || c.hdr.opcode == 0x0401) && s.bindsIdx c i && open_ c &&
    c.snap.indices.any (fun e => e.1 == i && e.2.1 == n))

/-- MERGE_RECLAIM (R222): once the old epoch's searches have ended, its replaced chunks and side slots are freed, with the
heap records of the deleted side entries (R217). -/
def mergeReclaimStep (p : Nat) (s : State) : State :=
  match s.merge? p with
  | none => s
  | some j =>
    match j.old with
    | none => s
    | some old =>
      if s.boundTo p j.index old.num then s
      else
        let keep := j.epoch.tabs.flatten ++ j.ntomb
        let gone := old.tabs.flatten.filter (fun a => !keep.contains a)
        -- a deleted passage that was inserted again since PUBLISH has its newest copy beyond M
        let back (x : Index) (id : Nat) : Bool :=
          let w := s.newest x id
          !noLoc w && insId ≤ w && j.hi ≤ x.slotOfWord w
        let s1 := s.setIndex p j.index (fun x =>
          let freed := (x.recs.filter (fun r => j.freed.contains r.1)).map (fun r => r.2.1)
          { x with
            pool := x.pool.filter (fun r => !gone.contains r.1)
            heap := x.heap.filter (fun r => !freed.contains r.1)
            recs := x.recs.filter (fun r => j.hi ≤ r.1)
            rstart := j.hi
            gone := x.gone ++ (j.dead.map (fun d => d.2)).filter (fun id => !back x id) })
        ({ s1 with merges := s1.merges.filter (fun j => j.part != p) }).setFld (GGE_MERGE_STATUS p) 43 40 0

/-- A merge job that a failing walker carries fails (R239). -/
def State.failMergeOn (s : State) (w : Nat) : State :=
  match s.merges.find? (fun j => (j.slot.map (fun t => t.1)) == some w) with
  | some j => s.mergeFail j.part stHwFault
  | none => s

/-- WALKER_FAULT (R239): a merge job that the walker carries fails; its searches restart once elsewhere. A walker whose contexts are
still in use before a rolling test faults in the same way. -/
def walkerFaultStep (done : Nat → State → State) (w : Nat) (s : State) : State :=
  let st := s.fld (GGE_WALKER w) 18 16
  if st != 1 && !(st == 2 && !(s.contextsUsed w).isEmpty) then s
  else (((s.event GGE_EVENT 2).report ⟨5, w, 0, .uncorrectable⟩).failMergeOn w).restartSearches w done

end Sys2Proof.Machine
end

