-- ==== Sys2Proof/Machine/Selection.lean ====
section
/-! DEFINITION. The selection units (spec/06, "Keys" to "Selection commands", R280 to R282): the passes of a selection,
top-p, the selection commands, and the fault of a unit. -/

namespace Sys2Proof.Machine

/-! ### Passes (R243 to R253) -/

/-- A key of a selection: its identifier, which is its index where it carries none (R253), its bits, its mapped key, its
FP32 value, and the pseudo-channel that holds it, for the memory path. -/
structure Key where
  id  : Nat
  raw : Nat
  map : Nat
  val : F32
  pch : Nat
  deriving DecidableEq, Repr, Inhabited

/-- The keys of an array that are valid, mapped for the direction (R243 to R246). -/
def validKeys (fmt : Nat) (smallest : Bool) (ks : List (Nat × Nat × Nat)) : List Key :=
  let w := (keyBits fmt).getD 32
  (ks.filter (fun k => !keyNan fmt k.2.1)).map (fun k =>
    let m := mapKey fmt k.2.1
    ⟨k.1, k.2.1, if smallest then 2 ^ w - 1 - m else m, keyF32 fmt k.2.1, k.2.2⟩)

/-- The sum of a bin, in ascending order of identifier; on the memory path the sums of the pseudo-channels, added in
ascending order (R247, R256). -/
def binSum (mem : Bool) (ks : List Key) : F32 :=
  if mem then
    let gs := sortBy (fun a b => decide (a < b)) (dedupBy id (ks.map (fun k => k.pch)))
    fSum (gs.map (fun g => fSum ((ks.filter (fun k => k.pch == g)).map (fun k => k.val))))
  else fSum (ks.map (fun k => k.val))

/-- The bins of pass `p` over keys of `n` bytes that hold a key, from bin 255 down. -/
def binsOf (n p : Nat) (live : List Key) : List (Nat × List Key) :=
  ((List.range 256).reverse.map (fun b => (b, live.filter (fun k => k.map / 256 ^ (n - 1 - p) % 256 == b)))).filter
    (fun e => !e.2.isEmpty)

/-- A selection in progress: keys still alive, how many are still to be taken, the selected keys, the two sums, and the
passes whose histograms were taken before the live keys fitted into the candidate store. -/
structure Select where
  live   : List Key
  need   : Nat
  chosen : List Key := []
  sel    : F32 := 0
  out    : F32 := 0
  sweeps : Nat := 0
  deriving DecidableEq, Repr, Inhabited

/-- What a selection stops at: a number of keys (R247), or a sum (R261). -/
inductive Goal where
  | count
  | sum (target : F32)
  deriving DecidableEq, Repr

/-- a ≥ b in FP32. -/
def fGe (a b : F32) : Bool := !fNan a && !fNan b && !fLt a b

/-- The first bin at which the running count, or the running sum, reaches the goal. -/
def thresholdBin (goal : Goal) (need : Nat) : F32 → List (Nat × Nat × F32) → Option Nat
  | _, [] => none
  | run, (b, n, x) :: bs =>
    match goal with
    | .count => if need ≤ n then some b else thresholdBin goal (need - n) run bs
    | .sum t => if fGe (fAdd run x) t then some b else thresholdBin goal need (fAdd run x) bs

/-- One pass of R247, with the changes of R261 for a goal that is a sum. -/
def Select.pass (goal : Goal) (n p : Nat) (mem : Bool) (q : Select) : Select :=
  let big := mem && (p == 0 || 16384 < q.live.length)
  let bins := (binsOf n p q.live).map (fun e => (e.1, e.2, binSum big e.2))
  let b := (thresholdBin goal q.need q.sel (bins.map (fun e => (e.1, e.2.1.length, e.2.2)))).getD 0
  let above := bins.filter (fun e => b < e.1)
  let below := bins.filter (fun e => e.1 < b)
  let here := ((bins.find? (fun e => e.1 == b)).map (fun e => e.2)).getD ([], 0)
  let need := q.need - sumNat (above.map (fun e => e.2.1.length))
  let sel := above.foldl (fun a e => fAdd a e.2.2) q.sel
  let out := below.foldl (fun a e => fAdd a e.2.2) q.out
  let chosen := q.chosen ++ above.flatMap (fun e => e.2.1)
  let sweeps := if q.sweeps == 0 && (here.1.length ≤ 16384 || p + 1 == n) then p + 2 else q.sweeps
  if goal == .count && here.1.length == need then ⟨[], 0, chosen ++ here.1, fAdd sel here.2, out, sweeps⟩
  else ⟨here.1, need, chosen, sel, out, sweeps⟩

/-- All the passes. -/
def Select.passes (goal : Goal) (n : Nat) (mem : Bool) : Nat → Nat → Select → Select
  | 0, _, q => q
  | fuel + 1, p, q => if q.live.isEmpty then q else Select.passes goal n mem fuel (p + 1) (q.pass goal n p mem)

/-- The final loop over tied keys. -/
def Select.ties (goal : Goal) (q : Select) : Select :=
  q.live.foldl (fun q k =>
    let more : Bool := match goal with
      | .count => 0 < q.need
      | .sum t => q.chosen.isEmpty || !fGe q.sel t
    if more then { q with chosen := q.chosen ++ [k], sel := fAdd q.sel k.val, need := q.need - 1 }
    else { q with out := fAdd q.out k.val }) q

/-- A whole selection over valid keys in ascending order of identifier. -/
def selectKeys (goal : Goal) (fmt : Nat) (mem : Bool) (need : Nat) (ks : List Key) : Select :=
  let n := (keyBits fmt).getD 32 / 8
  (Select.passes goal n mem n 0 { live := sortBy (fun a b => decide (a.id < b.id)) ks, need := need }).ties goal

/-- Descending mapped keys, ties in ascending order of identifier (R250). -/
def keyLt (a b : Key) : Bool := b.map < a.map || (a.map == b.map && a.id < b.id)

/-- The result of a selection (Table 6-6). -/
structure SelResult where
  keys    : List Key := []
  fill    : Nat := 0
  dropped : Nat := 0
  ordered : Bool := true
  capped  : Bool := false
  sel     : F32 := 0
  out     : F32 := 0
  sweeps  : Nat := 2
  deriving DecidableEq, Repr, Inhabited

/-- The order of R250. -/
def orderKeys (ordered : Bool) (ks : List Key) : List Key :=
  if ordered then sortBy keyLt ks else sortBy (fun a b => decide (a.id < b.id)) ks

/-- SELECT_TOPK over (identifier, bits, pseudo-channel) keys (R247 to R251). -/
def selectTopkKeys (fmt k : Nat) (smallest ordered mem : Bool) (ks : List (Nat × Nat × Nat)) : SelResult :=
  let v := validKeys fmt smallest ks
  let q := selectKeys .count fmt mem k v
  let o : Bool := k ≤ 4096 || ordered
  ⟨orderKeys o q.chosen, k - q.chosen.length, ks.length - v.length, o, false, q.sel, q.out, q.sweeps⟩

/-- SELECT_TOPP (R261, R262): none where a valid value is below zero. -/
def selectToppKeys (fmt kmax : Nat) (pfrac : F32) (ordered mem : Bool) (ks : List (Nat × Nat × Nat)) : Option SelResult :=
  let v := validKeys fmt false ks
  if v.any (fun k => fLt k.val 0) then none
  else if v.isEmpty then some ⟨[], 0, ks.length, kmax ≤ 4096 || ordered, false, 0, 0, 1⟩
  else
    let n := (keyBits fmt).getD 32 / 8
    let total := (binsOf n 0 (sortBy (fun a b => decide (a.id < b.id)) v)).foldl (fun a e => fAdd a (binSum mem e.2)) 0
    let q := selectKeys (.sum (fMul pfrac total)) fmt mem 0 v
    if kmax < q.chosen.length then some { selectTopkKeys fmt kmax false ordered mem ks with capped := true }
    else
      let o : Bool := kmax ≤ 4096 || ordered
      some ⟨orderKeys o q.chosen, 0, ks.length - v.length, o, false, q.sel, q.out, q.sweeps⟩

/-- The fill value of a format (Table 6-2). -/
def fillValue (fmt : Nat) : Nat :=
  match fmt with
  | 0x01 => 0x7F
  | 0x02 => 0x7E
  | 0x04 => 0x7FC0
  | 0x07 => 0x7FC0_0000
  | _ => 0x8000_0000

/-- The reply data of a result (R249, R264, Table 6-6). -/
def SelResult.bytes (r : SelResult) (fmt : Nat) : List Byte :=
  let z := (keyBits fmt).getD 32 / 8
  let n := r.keys.length + r.fill
  let body := r.keys.flatMap (fun k => toLE 4 k.id) ++ (List.replicate r.fill ()).flatMap (fun _ => toLE 4 0xFFFF_FFFF) ++
    r.keys.flatMap (fun k => toLE z k.raw) ++ (List.replicate r.fill ()).flatMap (fun _ => toLE z (fillValue fmt))
  toLE 4 n ++ toLE 4 r.keys.length ++ toLE 4 r.dropped ++
    toLE 1 ((if r.ordered then 1 else 0) + if r.capped then 2 else 0) ++ toLE 1 fmt ++ zeros 2 ++
    toLE 4 r.sel.toNat ++ toLE 4 r.out.toNat ++ zeros 8 ++ padTo (roundUp body.length 8) body

/-! ### Selection commands (R256, R258, R259, R262 to R264) -/

/-- The parameters of Table 6-5. -/
structure SelParams where
  fmt      : Nat
  smallest : Bool
  ordered  : Bool
  n        : Nat
  k        : Nat
  p        : Nat
  addr     : Nat
  deriving DecidableEq, Repr, Inhabited

/-- Parse Table 6-5. -/
def parseSelect (bs : List Byte) : SelParams :=
  let f := fieldAt bs
  ⟨f 0 1, (f 1 1).testBit 0, (f 1 1).testBit 1, f 4 4, f 8 4, f 12 4, f 16 8⟩

/-- Bytes of a key. -/
def SelParams.z (q : SelParams) : Nat := (keyBits q.fmt).getD 32 / 8

/-- The parameters are within Table 6-5 and R262 for an opcode. -/
def SelParams.ok (q : SelParams) (op len : Nat) : Bool :=
  (keyBits q.fmt).isSome && 1 ≤ q.n && 1 ≤ q.k && q.k ≤ q.n && (op != 0x0601 || q.k == 1) &&
  (if op == 0x0602 then q.fmt != 0x09 && !q.smallest && fLt 0 (BitVec.ofNat 32 q.p) && !fLt 0x3F800000 (BitVec.ofNat 32 q.p)
    else q.p == 0) &&
  len == (if q.addr == 0 then 32 + q.n * q.z else 32)

/-- Base and size of a slice of a partition's selection area (R258). -/
def State.selSlice (s : State) (p u : Nat) : Nat × Nat :=
  let n := s.fld (SEL_PART_SIZE p) 31 0 * 4096 / 8
  (s.fld (SEL_PART_AREA p) 47 12 * 4096 + u * n, n)

/-- Bytes that a selection needs in its slice (R257, R258). -/
def SelParams.room (q : SelParams) : Nat :=
  (if q.addr == 0 then q.n * q.z else 0) + 16384 * (4 + q.z) + (if 4096 < q.k then q.k * (4 + q.z) else 0)

/-- Nanoseconds of a selection (Table 6-3), rounded up: `pm` pseudo-channels hold the keys where they are read from tier 1,
none where they are on chip. `kk` is the result length. -/
def selTime (q : SelParams) (op kk sweeps pm : Nat) : Nat :=
  let w := 8 * q.z
  -- a rate of min(512, P × 37.2) GB/s, in units of 0.2 GB/s
  let rate := min 2560 (pm * 186)
  let tail : Nat := if 4096 < kk then
      ceilDiv (kk * (4 + q.z)) 512 + (if q.ordered then ceilDiv (q.z * 2 * kk * (4 + q.z)) 512 else 0)
    else ceilDiv (kk * w) 256
  if op == 0x0601 then 1000 + ceilDiv (q.n * q.z * 5) rate
  else if q.n ≤ 16384 then 150 + ceilDiv (q.n * (1 + q.z)) 128 + tail
  else 1000 + ceilDiv ((sweeps - 1) * q.n * q.z * 5) (pm * 186) + ceilDiv (q.n * q.z * 5) rate + tail

/-- The outcome of a selection command whose keys stand at an address, and its time (R281). -/
def State.runSelect (s : State) (c : Cmd) (q : SelParams) (a : Nat) : JobEnd × Nat :=
  let op := c.hdr.opcode
  let z := q.z
  let mem : Bool := 16384 < q.n
  let pch (i : Nat) : Nat := if mem then ((s.pchOf (a + i * z)).getD (0, 0)).1 else 0
  let ks := (List.range q.n).map (fun i => (i, s.num (a + i * z) z, pch i))
  let pm := (dedupBy id ((burstsOf a (q.n * z)).map (fun b => ((s.pchOf (b * 64)).getD (0, 0)).1))).length
  let r : Option SelResult := if op == 0x0602 then selectToppKeys q.fmt q.k (BitVec.ofNat 32 q.p) q.ordered mem ks
    else some (selectTopkKeys q.fmt q.k q.smallest q.ordered mem ks)
  if s.isUe a (q.n * z) then (⟨stUncorrectableData, [], [], 0, 0⟩, selTime q op q.k 2 (max 1 pm))
  else
    match r with
    | none => (⟨stBadParameter, [], [], 0, 0⟩, selTime q op q.k 2 (max 1 pm))
    | some r =>
      let n := r.keys.length + r.fill
      let short := if op == 0x0602 then r.keys.isEmpty else r.fill != 0
      (⟨partialStatus short false false, summaryItems short false false 0 65536 r.keys.length, r.bytes q.fmt, r.dropped,
        if 4096 < n then 1 else 0⟩, selTime q op n r.sweeps (max 1 pm))

/-! ### Units (R260, R280) -/

/-- A unit of a kind is in service: state ready. -/
def State.unitReady (s : State) (kind u : Nat) : Bool :=
  if kind == 0 then s.fld (SEL_UNIT u) 18 16 == 1 else s.engines.getD u 0 == 1

/-- The slice of the selection area that the internal clients' selections use: that of the lowest unit in service (R258; log entry
131). -/
def State.innerSlice (s : State) (p : Nat) : Nat × Nat := s.selSlice p (((List.range 8).find? (fun u => s.unitReady 0 u)).getD 0)

/-- A result of more than 4,096 entries of an internal client's selection is written to the area, after the room for compaction
entries, where the slice has room (R257, R258; log entry 131). -/
def State.spillEntries (s : State) (p : Nat) (bs : List Byte) : State :=
  let sl := s.innerSlice p
  if bs.isEmpty || sl.2 < 131072 + bs.length then s else s.store (sl.1 + 131072) bs

/-- The free units of a kind that a job may take, lowest first. -/
def State.freeUnits (s : State) (kind : Nat) (avoid : Option Nat) : List Nat :=
  (List.range (if kind == 0 then 8 else 4)).filter (fun u =>
    s.unitReady kind u && some u != avoid && !s.jobs.any (fun j => j.kind == kind && j.unit == some u))

/-- Remove the job of a command and free its unit. -/
def State.dropJob (s : State) (cmd : Nat) : State :=
  let s1 := { s with jobs := s.jobs.filter (fun j => j.cmd != cmd) }
  (s.jobs.filter (fun j => j.cmd == cmd && j.kind == 0)).foldl (fun s j =>
    match j.unit with
    | some u => (s.setFld (SEL_UNIT u) 23 20 0).setFld (SEL_UNIT u) 1 0 0
    | none => s) s1

/-- The requester that a job stands for: of the selection dispatcher the selection commands (Table 1-6; the internal clients'
selections are whole within one row, log entry 60), of the tokenizer engines TOKENIZE, the query stage of RAG_GENERATE and EMBED
(R406). -/
def State.requester (s : State) (j : UnitJob) : Nat :=
  match (s.cmd? j.cmd).map (fun c => c.hdr.opcode) with
  | some 0x0700 => 0
  | some 0x0401 => 1
  | some 0x0300 => 2
  | _ => 3

/-- A selection of a command starts on a unit: staged keys are written at the start of the unit's slice (R263). -/
def State.startSelection (s : State) (j : UnitJob) (u : Nat) : State :=
  match s.cmd? j.cmd with
  | none => s.dropJob j.cmd
  | some c =>
    let q := parseSelect c.input
    let base := (s.selSlice j.part u).1
    let s1 := if q.addr == 0 then s.store base (c.input.drop 32) else s
    let a := if q.addr == 0 then base else q.addr
    let r := s1.runSelect c q a
    let s2 := if r.1.status == stUncorrectableData then
        match (burstsOf a (q.n * q.z)).find? (fun b => s1.ue.contains b) with
        | some b => s1.memUe (b * 64) c.hdr.opcode j.part
        | none => s1
      else s1
    let s3 := (s2.setFld (SEL_UNIT u) 23 20 j.part).setFld (SEL_UNIT u) 1 0 (if 16384 < q.n then 2 else 0)
    { s3 with
      selLast := granted s.selLast (s.requester j)
      jobs := updateWhere s3.jobs (fun x => x.cmd == j.cmd) (fun x => { x with
        unit := some u, ending := s.now + r.2, result := r.1 }) }

/-- The waiting job of a kind that the dispatcher grants: among selections the real-time class first (R260), then rotation over
requesters (R34, R406), then arrival. -/
def State.nextJob (s : State) (kind : Nat) (last : List Nat) : Option UnitJob :=
  let able := s.jobs.filter (fun j => j.kind == kind && j.unit.isNone && !(s.freeUnits kind j.avoid).isEmpty)
  let pool := if kind == 0 && able.any (fun j => j.rt) then able.filter (fun j => j.rt) else able
  (rotate last (pool.map (fun j => s.requester j))).bind (fun r => pool.find? (fun j => s.requester j == r))

/-- SELECTION_TAKE (R260): SEL_EN lets units take new selections. -/
def selectionTakeStep (s : State) : State :=
  if !s.bit SEL_CTRL 0 then s
  else
    match s.nextJob 0 s.selLast with
    | none => s
    | some j =>
      match (s.freeUnits 0 j.avoid).head? with
      | some u => s.startSelection j u
      | none => s

/-- SELECT_TOPK, ARGMAX and SELECT_TOPP (R258, R262, R263): the selection starts at once where a unit is free and none
waits before it. -/
def selectBody (c : Cmd) (s : State) : State :=
  let q := parseSelect c.input
  let p := c.hdr.partition
  if c.input.length < 32 then s.refuse c stBadParameter
  else if 4 ≤ fieldAt c.input 1 1 || !zerosAt c.input 2 2 || !zerosAt c.input 24 8 then s.refuse c stReservedNonzero
  else if !q.ok c.hdr.opcode c.input.length || (cxlLinkOf q.addr).isSome then s.refuse c stBadParameter
  else if q.addr != 0 && !s.inRegion p q.addr (q.n * q.z) then s.refuse c stBadAddress
  else if q.addr != 0 && s.hitsDir p q.addr (q.n * q.z) then s.refuse c stNotPermitted
  else if (s.selSlice p 0).2 < q.room then (s.event SEL_EVENT 0).refuse c stNoMemory
  else
    let idle := !s.jobs.any (fun j => j.kind == 0 && j.unit.isNone)
    let j : UnitJob := { kind := 0, cmd := c.id, part := p, rt := c.hdr.svc == 2 }
    let s1 := { s with jobs := s.jobs ++ [j] }
    if idle then selectionTakeStep s1 else s1

/-- SELECT_TOPK. -/
def bodySelectTopk (c : Cmd) (s : State) : State := selectBody c s

/-- ARGMAX. -/
def bodyArgmax (c : Cmd) (s : State) : State := selectBody c s

/-- SELECT_TOPP. -/
def bodySelectTopp (c : Cmd) (s : State) : State := selectBody c s

/-- A result of more than 4,096 entries stands in the slice of the unit that formed it, after the places of staged keys and of
compaction entries: the indices and keys in the order of the result (R257, R258; log entry 60). -/
def State.spill (s : State) (c : Cmd) (j : UnitJob) : State :=
  let q := parseSelect c.input
  let d := j.result.data
  let n := fieldAt d 0 4
  let z := q.z
  match j.unit with
  | none => s
  | some u =>
    if n ≤ 4096 then s
    else s.store ((s.selSlice j.part u).1 + (if q.addr == 0 then q.n * z else 0) + 16384 * (4 + z))
      ((List.range n).flatMap (fun i => slice d (32 + 4 * i) 4 ++ slice d (32 + 4 * n + z * i) z))

/-- A selection ends: its reply, its counts, and the report of a retry that succeeded. -/
def State.finishSelection (s : State) (j : UnitJob) : State :=
  let s1 := s.dropJob j.cmd
  let s2 := match j.avoid with
    | some u => s1.report ⟨6, u, 0, .retrySucceeded⟩
    | none => s1
  let s3 := if statusClass j.result.status ≤ 1 then s2.countSel j.part j.result.n1 j.result.n2 else s2
  match s3.cmd? j.cmd with
  | some c =>
    if statusClass j.result.status ≤ 1 then (s3.spill c j).replyData c j.result.status j.result.items j.result.data
    else s3.refuse c j.result.status
  | none => s3

/-- SELECTION_UNIT_FAULT (R280): the unit's selection restarts once on another unit; a second failure ends the command. -/
def selectionUnitFaultStep (u : Nat) (s : State) : State :=
  if !s.unitReady 0 u then s
  else
    let s1 := (s.event SEL_EVENT 1).report ⟨6, u, 0, .uncorrectable⟩
    match s1.jobs.find? (fun j => j.kind == 0 && j.unit == some u) with
    | none => s1
    | some j =>
      let fails := j.avoid.isSome || (List.range 8).all (fun v => v == u || !s1.unitReady 0 v)
      if fails then
        let s2 := match j.avoid with
          | some v => s1.report ⟨6, v, 0, .retryFailed⟩
          | none => s1
        match s2.cmd? j.cmd with
        | some c => (s2.dropJob j.cmd).refuse c stHwFault
        | none => s2.dropJob j.cmd
      else
        let s2 := s1.dropJob j.cmd
        let j2 : UnitJob := { j with unit := none, avoid := some u }
        let s3 := { s2 with jobs := j2 :: s2.jobs }
        match (s3.freeUnits 0 (some u)).head? with
        | some v => s3.startSelection j2 v
        | none => s3

end Sys2Proof.Machine
end

