-- ==== Sys2Proof/Machine/Text.lean ====
section
/-! DEFINITION. Tokens, text and grammars (spec/10): vocabulary images, tokenization on the engines, the UTF-8 and
stop-string stages, grammar images and allowed sets. -/

namespace Sys2Proof.Machine

/-! ### Vocabularies (R397 to R403) -/

/-- The vocabulary that a partition has bound to a model ID. -/
def State.vocabFor (s : State) (p m : Nat) : Option Vocab := s.vocabs.find? (fun v => v.part == p && v.models.contains m)

/-- A token's entry (Table 10-2): spelling offset, spelling length and flags. -/
def State.tokEntry (s : State) (v : Vocab) (t : Nat) : Nat × Nat × Nat :=
  (s.num (v.ent + 8 * t) 4, s.num (v.ent + 8 * t + 4) 2, s.num (v.ent + 8 * t + 6) 2)

/-- The class of a token: 0 ordinary, 1 byte, 2 control, 3 unused. -/
def State.tokClass (s : State) (v : Vocab) (t : Nat) : Nat := (s.tokEntry v t).2.2 % 4

/-- A token belongs to the normal set (R397). -/
def State.tokNormal (s : State) (v : Vocab) (t : Nat) : Bool :=
  let f := (s.tokEntry v t).2.2
  t < v.entries && (f % 4 < 2 || (f % 4 == 2 && f.testBit 2))

/-- A token is an end token (R398). -/
def State.tokEnd (s : State) (v : Vocab) (t : Nat) : Bool :=
  let f := (s.tokEntry v t).2.2
  t < v.entries && f % 4 == 2 && f.testBit 3

/-- The bytes that a token contributes (R410). -/
def State.tokText (s : State) (v : Vocab) (t : Nat) : List Byte :=
  let e := s.tokEntry v t
  if v.entries ≤ t || (e.2.2 % 4 == 2 && !e.2.2.testBit 4) then [] else s.bytes (v.heap + e.1) e.2.1

/-- A token word of kinds 0 and 1 names a token as R273 and R413 ask: inside the vocabulary, a control token exactly when
its kind is 1. -/
def State.wordOk (s : State) (v : Vocab) (w : Nat) : Bool :=
  let t := w % 2 ^ 20
  let k := w / 2 ^ 28
  k < 2 && w / 2 ^ 20 % 256 == 0 && t < v.entries && (s.tokClass v t == 2) == (k == 1)

/-- The children of a trie node at an offset of an image's trie: count, and child `i` as (byte, offset) (Table 10-3). -/
def trieKids (tr : List Byte) (o : Nat) : List (Nat × Nat) :=
  (List.range (fieldAt tr (o + 4) 2)).map (fun i =>
    let w := fieldAt tr (o + 8 + 4 * i) 4
    (w / 2 ^ 24, w % 2 ^ 24 * 8))

/-- A node lies inside the trie. -/
def trieNodeIn (tr : List Byte) (o : Nat) : Bool := o + 8 ≤ tr.length && o + 8 + 4 * fieldAt tr (o + 4) 2 ≤ tr.length

/-- The offsets of the nodes that can be reached; none where one lies outside the trie (R402). Every node is taken once, and none
has more than 65,535 children: 8,192 visits for each byte of the trie and one more are enough. -/
def trieNodes (tr : List Byte) : Nat → List Nat → List Nat → Option (List Nat)
  | _, [], seen => some seen
  | 0, _ :: _, _ => none
  | fuel + 1, o :: os, seen =>
    if seen.contains o then trieNodes tr fuel os seen
    else if !trieNodeIn tr o then none
    else trieNodes tr fuel ((trieKids tr o).map (fun k => k.2) ++ os) (o :: seen)

/-- The node that a spelling reaches. -/
def trieWalk (tr : List Byte) : Nat → List Byte → Option Nat
  | o, [] => some o
  | o, b :: bs =>
    match (trieKids tr o).find? (fun k => k.1 == b.toNat) with
    | some k => trieWalk tr k.2 bs
    | none => none

/-- The image passes R402. -/
def vocabOk (im : List Byte) : Bool :=
  let f := fieldAt im
  let n := f 8 4
  let tl := f 12 4
  let hl := f 48 8
  let tabs := [(f 16 8, 8 * n), (f 24 8, hl), (f 32 8, tl), (f 40 8, 1024)]
  let ent (t : Nat) : Nat × Nat × Nat := (f (f 16 8 + 8 * t) 4, f (f 16 8 + 8 * t + 4) 2, f (f 16 8 + 8 * t + 6) 2)
  let spell (t : Nat) : List Byte := slice im (f 24 8 + (ent t).1) (ent t).2.1
  let cls (t : Nat) : Nat := (ent t).2.2 % 4
  let ids := List.range n
  let tr := slice im (f 32 8) tl
  64 ≤ im.length && f 0 4 == 0x56434A4D && f 4 2 == 0x0100 && 256 ≤ n && n ≤ 1048576 && 8 ≤ tl && tl ≤ 134217728 &&
  tabs.all (fun r => r.1 + r.2 ≤ im.length) && f 60 4 == crcOver im ((0, 60) :: tabs) &&
  ids.all (fun t =>
    let e := ent t
    let fl := e.2.2
    (match fl % 4 with
      | 3 => e.2.1 == 0
      | 1 => e.2.1 == 1
      | _ => 1 ≤ e.2.1) && e.2.1 ≤ 1024 && (e.2.1 == 0 || e.1 + e.2.1 ≤ hl) && fl < 32 &&
    (fl % 4 == 2 || (!fl.testBit 2 && !fl.testBit 3 && !fl.testBit 4)) && (!fl.testBit 3 || fl.testBit 2)) &&
  (List.range 256).all (fun b =>
    let t := f (f 40 8 + 4 * b) 4
    t < n && cls t == 1 && spell t == [BitVec.ofNat 8 b]) &&
  (let ctl := (ids.filter (fun t => cls t == 2)).map spell
   ids.all (fun t => 2 ≤ cls t || !ctl.contains (spell t))) &&
  (match trieNodes tr (8192 * tl + 1) [0] [] with
   | none => false
   | some ns => ns.all (fun o => fieldAt tr o 4 == 0xFFFF_FFFF || (fieldAt tr o 4 < n && cls (fieldAt tr o 4) == 0))) &&
  ids.all (fun t => cls t != 0 || (match trieWalk tr 0 (spell t) with
    | some o => fieldAt tr o 4 == t
    | none => false))

/-- Pieces that vocabularies and sequences hold of a partition's text area. -/
def State.textHeld (s : State) (p : Nat) : List (Nat × Nat) :=
  (s.vocabs.filter (fun v => v.part == p)).map (fun v => (v.addr, v.len)) ++
    (s.seqs.filter (fun q => q.part == p)).map (fun q => q.text)

/-- A place for `n` bytes in an area, lowest first (log entry 17). -/
def State.placeArea (s : State) (reg n al : Nat) (held : List (Nat × Nat)) : Option Nat :=
  let a := s.area reg
  placeLow a.1 a.1 (a.1 + a.2) n al held

/-- A sequence is bound to one of these model IDs. -/
def State.seqUses (s : State) (p : Nat) (ms : List Nat) : Bool :=
  s.seqs.any (fun q => q.part == p && (ms.contains q.model || (match q.draft with
    | some d => ms.contains d.1
    | none => false)))

/-- Free a vocabulary slot: the trie cache, which tags its lines by slot, holds none of its lines any more (log entry 19). -/
def State.dropVocab (s : State) (slot : Nat) : State :=
  ({ s with vocabs := s.vocabs.filter (fun v => v.slot != slot), trie := s.trie.filter (fun e => e.1 != slot) }).setRaw
    (TOK_VOCAB slot) 0

/-- The vocabulary of an image put at a place: the image stored, the slot filled, its register written. `load` tells which vocabulary
it is. -/
def State.putVocab (s : State) (c : Cmd) (slot : Nat) (im : List Byte) (ms : List Nat) (load at_ : Nat) : State :=
  let g := fieldAt im
  let p := c.hdr.partition
  let v : Vocab :=
    { load := load, slot := slot, part := p, addr := at_, len := im.length, entries := g 8 4, ent := at_ + g 16 8, heap := at_ + g 24 8,
      trie := at_ + g 32 8, trieLen := g 12 4, bytes := at_ + g 40 8, models := ms }
  let s2 := s.store at_ im
  (({ s2 with vocabs := s2.vocabs ++ [v] }).setRaw (TOK_VOCAB slot)
    (BitVec.ofNat 64 (v.entries * 2 ^ 43 + p * 2 ^ 20 + 2 ^ 19 + ms.length))).refuse c stOk

/-- VOCAB_LOAD (R402, R403). A refused load leaves what the slot holds as it was; the place of the old image is free for the new one.
The same image loaded again is the same vocabulary. -/
def bodyVocabLoad (c : Cmd) (s : State) : State :=
  let f := fieldAt c.input
  let p := c.hdr.partition
  let slot := f 0 1
  let nm := f 2 2
  let a := f 8 8
  let n := f 16 8
  let ms := (List.range nm).map (fun i => f (24 + 2 * i) 2)
  let head := 24 + 2 * nm
  if c.input.length < head || c.input.length != head + (if a == 0 then n else 0) || 64 ≤ slot || 16 < nm then
    s.refuse c stBadParameter
  else if !zerosAt c.input 1 1 || !zerosAt c.input 4 4 then s.refuse c stReservedNonzero
  else
    let old := s.vocabs.find? (fun v => v.slot == slot)
    let free : Bool := nm == 0 && n == 0
    let foreign : Bool := match old with
      | some v => v.part != p
      | none => false
    let busy : Bool := match old with
      | some v => s.seqUses p v.models
      | none => false
    let bound : Bool := s.vocabs.any (fun v => v.part == p && v.slot != slot && ms.any (fun m => v.models.contains m))
    -- an image is judged by R402 before what R403 asks of the slot (R94)
    if !free && a != 0 && !s.inRegion p a n then s.refuse c stBadAddress
    else if !free && a != 0 && s.hitsDir p a n then s.refuse c stNotPermitted
    else if !free && a != 0 && s.isUe a n then (s.dramUe a).refuse c stUncorrectableData
    else
      let im := if a == 0 then c.input.drop head else s.bytes a n
      if !free && !vocabOk im then s.refuse c stBadParameter
      else if foreign then s.refuse c stNotPermitted
      else if busy then s.refuseBusy c
      else if free then (s.dropVocab slot).refuse c stOk
      else if bound then s.refuse c stBadParameter
      else
        let s1 := s.dropVocab slot
        match s1.placeArea (TOK_PART_AREA p) n 64 (s1.textHeld p) with
        | none => s.refuse c stNoMemory
        | some at_ =>
          let same := old.bind (fun v => if s.bytes v.addr v.len == im then some v.load else none)
          s1.putVocab c slot im ms (same.getD c.id) at_

/-! ### Tokenization (R404 to R407, R429) -/

/-- Lines of the trie cache in service: 4 MiB in lines of 64 bytes, without the retired ones (R405, Table 16-2). -/
def State.trieLines (s : State) : Nat := 65536 - (s.flash.faults.filter (fun e => e.1 == 9 && e.2.1 == 1)).length

/-- A full trie cache gives up a line for a new one: which is open (log entry 19). -/
def State.trieFill (s : State) (slot l : Nat) : State :=
  if s.trie.length < s.trieLines then { s with trie := s.trie ++ [(slot, l)] }
  else { s.tick with trie := s.trie.eraseIdx (Config.freeBelow s.freeCtr s.trie.length) ++ [(slot, l)] }

/-- One line of a trie is read (R405): from the cache, where it is there; otherwise from the text area, with a corrected error counted
and the line filled, unless CACHE_EN is clear. False where memory's line is uncorrectable (R429). -/
def State.trieLine (s : State) (v : Vocab) (l : Nat) : State × Bool :=
  if !s.bit TOK_CTRL 1 then (s.noteCe v.part l, !s.ue.contains l)
  else if s.trie.contains (v.slot, l) then (s.bump TOK_CACHE_CNT 31 0 1, true)
  else
    let s1 := (s.bump TOK_CACHE_CNT 63 32 1).noteCe v.part l
    if s.ue.contains l then (s1, false) else (s1.trieFill v.slot l, true)

/-- The reads of a trie in their order, up to the first that is uncorrectable: the burst of that one. -/
def State.trieReads (s : State) (v : Vocab) : List Nat → State × Option Nat
  | [] => (s, none)
  | l :: ls =>
    let r := s.trieLine v l
    if r.2 then r.1.trieReads v ls else (r.1, some l)

/-- The longest match from a node along a text: token and length, and what was read of the nodes, as offsets and lengths: the whole of
a node in which a child was looked for, the header of the last one of a text that ends (log entry 19). -/
def State.longest (s : State) (v : Vocab) : Nat → Nat → List Byte → Option (Nat × Nat) → List (Nat × Nat) →
    Option (Nat × Nat) × List (Nat × Nat)
  | o, _, [], best, seen => (best, seen ++ [(o, 8)])
  | o, k, b :: bs, best, seen =>
    let n := s.num (v.trie + o + 4) 2
    let kid := (List.range n).find? (fun i => s.num (v.trie + o + 8 + 4 * i + 3) 1 == b.toNat)
    let seen := seen ++ [(o, 8 + 4 * n)]
    match kid with
    | none => (best, seen)
    | some i =>
      let o2 := s.num (v.trie + o + 8 + 4 * i) 3 * 8
      let t := s.num (v.trie + o2) 4
      s.longest v o2 (k + 1) bs (if t == 0xFFFF_FFFF then best else some (t, k + 1)) seen

/-- R404: the tokens of a text, and the burst at which an uncorrectable read of the trie or of the byte-token table ended the
tokenization (R429). -/
def State.tokens (s : State) (v : Vocab) : Nat → List Byte → State × List Nat × Option Nat
  | 0, _ => (s, [], none)
  | _, [] => (s, [], none)
  | fuel + 1, b :: bs =>
    let r := s.longest v 0 0 (b :: bs) none []
    let s1 := s.trieReads v (r.2.flatMap (fun x => burstsOf (v.trie + x.1) x.2))
    match s1.2, r.1 with
    | some l, _ => (s1.1, [], some l)
    | none, some (t, k) =>
      let rest := s1.1.tokens v fuel ((b :: bs).drop k)
      (rest.1, t :: rest.2.1, rest.2.2)
    | none, none =>
      let at_ := v.bytes + 4 * b.toNat
      let l := at_ / 64
      let s2 := s1.1.noteCe v.part l
      if s.ue.contains l then (s2, [], some l)
      else
        let rest := s2.tokens v fuel bs
        (rest.1, s.num at_ 4 :: rest.2.1, rest.2.2)

/-- Several texts are tokenized in turn: the tokens of each, or the burst that could not be read. -/
def State.tokenizeAll (s : State) (v : Vocab) : List (List Byte) → State × List (List Nat) × Option Nat
  | [] => (s, [], none)
  | t :: ts =>
    let r := s.tokens v t.length t
    match r.2.2 with
    | some l => (r.1, [], some l)
    | none =>
      let rest := r.1.tokenizeAll v ts
      (rest.1, r.2.1 :: rest.2.1, rest.2.2)

/-- Count the tokens that a tokenization has produced. -/
def State.countTok (s : State) (p n : Nat) : State := s.bump (TOK_CNT p) 63 32 n

/-- A tokenization of a command starts on an engine: `texts` are the texts and `fin` shapes the outcome. Its time is the
10 ns a byte of Table 10-4 (log entry 19). -/
def State.startTokenization (s : State) (j : UnitJob) (u : Nat) (r : JobEnd) (bytes : Nat) : State :=
  { s with
    tokLast := granted s.tokLast (s.requester j)
    jobs := updateWhere s.jobs (fun x => x.cmd == j.cmd) (fun x => { x with
      unit := some u, ending := s.now + 10 * bytes, result := r }) }

/-- An uncorrectable read of a vocabulary is recorded and reported (R429, R181). -/
def State.reportVocab (s : State) (p a : Nat) : State := (s.event TOK_EVENT 3).memUe a 0 p

/-- The outcome of a tokenization: `shape` makes its reply data of the tokens. An uncorrectable read ends it, with the burst's address
(R429). -/
def State.runTexts (s : State) (v : Vocab) (ts : List (List Byte)) (shape : List (List Nat) → List Byte) : State × JobEnd :=
  let r := s.tokenizeAll v ts
  match r.2.2 with
  | some l => (r.1, { status := stUncorrectableData, n2 := 64 * l })
  | none => (r.1, ⟨stOk, [], shape r.2.1, sumNat (r.2.1.map (fun t => t.length)), 0⟩)

/-- TOKENIZATION_TAKE (R406): a waiting tokenization is taken by a free engine while TOK_EN is set. `run` reads the
vocabulary and gives the outcome and the text length. -/
def tokenizationTakeStep (run : Cmd → State → State × JobEnd × Nat) (s : State) : State :=
  if !s.bit TOK_CTRL 0 then s
  else
    match s.nextJob 1 s.tokLast with
    | none => s
    | some j =>
      match (s.freeUnits 1 j.avoid).head?, s.cmd? j.cmd with
      | some u, some c =>
        let r := run c s
        r.1.startTokenization j u r.2.1 r.2.2
      | _, _ => s

/-- Enter a tokenization; it starts at once where an engine is free and none waits before it. -/
def State.addTokenization (s : State) (run : Cmd → State → State × JobEnd × Nat) (c : Cmd) : State :=
  let idle := !s.jobs.any (fun j => j.kind == 1 && j.unit.isNone)
  let j : UnitJob := { kind := 1, cmd := c.id, part := c.hdr.partition, rt := c.hdr.svc == 2 }
  let s1 := { s with jobs := s.jobs ++ [j] }
  if idle then tokenizationTakeStep run s1 else s1

/-- TOKENIZE (R407). -/
def bodyTokenize (run : Cmd → State → State × JobEnd × Nat) (c : Cmd) (s : State) : State :=
  let n := fieldAt c.input 4 4
  if c.input.length < 8 || n == 0 || 268435456 < n || c.input.length != 8 + n then s.refuse c stBadParameter
  else if !zerosAt c.input 2 2 then s.refuse c stReservedNonzero
  else
    match s.vocabFor c.hdr.partition (fieldAt c.input 0 2) with
    | none => s.refuse c stUnknownObject
    | some _ => s.addTokenization run c

/-- TOKENIZER_ENGINE_FAULT (R406): the engine's tokenization restarts once on another engine; a second failure ends the
command. `fail` ends the command of a tokenization with a status. -/
def tokenizerEngineFaultStep (run : Cmd → State → State × JobEnd × Nat) (fail : Cmd → Nat → State → State) (e : Nat) (s : State) :
    State :=
  if !s.unitReady 1 e then s
  else
    let s1 := (s.event TOK_EVENT 2).report ⟨7, e, 0, .uncorrectable⟩
    match s1.jobs.find? (fun j => j.kind == 1 && j.unit == some e) with
    | none => s1
    | some j =>
      let fails := j.avoid.isSome || (List.range 4).all (fun v => v == e || !s1.unitReady 1 v)
      match s1.cmd? j.cmd with
      | none => s1.dropJob j.cmd
      | some c =>
        if fails then
          let s2 := match j.avoid with
            | some v => s1.report ⟨7, v, 0, .retryFailed⟩
            | none => s1
          fail c stHwFault (s2.dropJob j.cmd)
        else
          let s2 := s1.dropJob j.cmd
          let j2 : UnitJob := { j with unit := none, avoid := some e }
          let s3 := { s2 with jobs := j2 :: s2.jobs }
          match (s3.freeUnits 1 (some e)).head? with
          | some v =>
            let r := run c s3
            r.1.startTokenization j2 v r.2.1 r.2.2
          | none => s3

/-! ### UTF-8 (R411, R412) -/

/-- U+FFFD. -/
def fffd : List Byte := [0xEF, 0xBF, 0xBD]

/-- Length of the character that a lead byte begins; 0 for a byte that begins none. -/
def utf8Len (b : Nat) : Nat :=
  if b < 0x80 then 1 else if 0xC2 ≤ b && b ≤ 0xDF then 2 else if 0xE0 ≤ b && b ≤ 0xEF then 3
  else if 0xF0 ≤ b && b ≤ 0xF4 then 4 else 0

/-- Byte `b` may follow the held bytes in a well-formed character. -/
def utf8Next (held : List Byte) (b : Nat) : Bool :=
  let h := (held.headD 0).toNat
  if held.length == 1 then
    (if h == 0xE0 then 0xA0 ≤ b && b ≤ 0xBF else if h == 0xED then 0x80 ≤ b && b ≤ 0x9F
      else if h == 0xF0 then 0x90 ≤ b && b ≤ 0xBF else if h == 0xF4 then 0x80 ≤ b && b ≤ 0x8F
      else 0x80 ≤ b && b ≤ 0xBF)
  else 0x80 ≤ b && b ≤ 0xBF

/-- What the UTF-8 stage has put out: complete characters, how many are replacements, and the bytes that it holds. -/
structure Utf8 where
  out  : List Byte := []
  reps : Nat := 0
  held : List Byte := []
  deriving DecidableEq, Repr, Inhabited

/-- A byte that begins afresh. -/
def Utf8.fresh (u : Utf8) (b : Byte) : Utf8 :=
  match utf8Len b.toNat with
  | 0 => { u with out := u.out ++ fffd, reps := u.reps + 1, held := [] }
  | 1 => { u with out := u.out ++ [b], held := [] }
  | _ => { u with held := [b] }

/-- One byte of the stream (R411). -/
def Utf8.step (u : Utf8) (b : Byte) : Utf8 :=
  if u.held.isEmpty then u.fresh b
  else if utf8Next u.held b.toNat then
    let h := u.held ++ [b]
    if h.length == utf8Len (u.held.headD 0).toNat then { u with out := u.out ++ h, held := [] } else { u with held := h }
  else ({ u with out := u.out ++ fffd, reps := u.reps + 1, held := [] }).fresh b

/-- Bytes of the stream from what the stage holds. -/
def utf8Run (held bs : List Byte) : Utf8 := bs.foldl Utf8.step { held := held }

/-- The end of the stream: an incomplete prefix is one U+FFFD (R412). -/
def Utf8.finish (u : Utf8) : Utf8 :=
  if u.held.isEmpty then u else { out := u.out ++ fffd, reps := u.reps + 1, held := [] }

/-- A byte string is well-formed UTF-8. -/
def utf8Ok (bs : List Byte) : Bool :=
  let u := utf8Run [] bs
  u.reps == 0 && u.held.isEmpty

/-! ### DETOKENIZE (R410, R413) -/

/-- The bursts of a vocabulary that a token's entry and spelling lie in. -/
def State.tokBursts (s : State) (v : Vocab) (t : Nat) : List Nat :=
  let e := s.tokEntry v t
  burstsOf (v.ent + 8 * t) 8 ++ burstsOf (v.heap + e.1) e.2.1

/-- A token's entry and spelling are read (R429): a corrected error is counted, and the first uncorrectable burst is found. -/
def State.readTok (s : State) (v : Vocab) (t : Nat) : State × Option Nat :=
  let bs := s.tokBursts v t
  (bs.foldl (fun s l => s.noteCe v.part l) s, bs.find? (fun l => s.ue.contains l))

/-- DETOKENIZE: the UTF-8 stage only. -/
def bodyDetokenize (c : Cmd) (s : State) : State :=
  let n := fieldAt c.input 4 4
  let ws := (List.range n).map (fun i => fieldAt c.input (8 + 4 * i) 4)
  let p := c.hdr.partition
  if c.input.length < 8 || n == 0 || 16777215 < n || c.input.length != 8 + 4 * n then s.refuse c stBadParameter
  else if !zerosAt c.input 2 2 then s.refuse c stReservedNonzero
  else
    match s.vocabFor p (fieldAt c.input 0 2) with
    | none => s.refuse c stUnknownObject
    | some v =>
      if ws.any (fun w => !s.wordOk v w) then s.refuse c stBadParameter
      else
        let s1 := ws.foldl (fun s w => (s.readTok v (w % 2 ^ 20)).1) s
        match ws.findSome? (fun w => (s.readTok v (w % 2 ^ 20)).2) with
        | some l => (s1.reportVocab p (64 * l)).refuse c stUncorrectableData
        | none =>
        let u := (utf8Run [] (ws.flatMap (fun w => s.tokText v (w % 2 ^ 20)))).finish
        (s1.bump (TOK_CNT p) 15 0 u.reps).replyData c stOk []
          (toLE 4 u.out.length ++ toLE 4 u.reps ++ padTo (roundUp u.out.length 8) u.out)

/-! ### Stop strings (R414 to R419) -/

/-- The list ends with `x`. -/
def endsWith (l x : List Byte) : Bool := x.length ≤ l.length && l.drop (l.length - x.length) == x

/-- Longest tail of a stream that is a proper prefix of some stop string (R416). -/
def heldTail (stops : List (List Byte)) (l : List Byte) : Nat :=
  maxNat ((stops.flatMap (fun x => (List.range x.length).filter (fun n => endsWith l (x.take n)))))

/-- The stop-string stage: what it holds, what it releases, and the stop string that was completed (R416, R417). -/
def stopScan (stops : List (List Byte)) : List Byte → List Byte → List Byte × List Byte × Option (List Byte)
  | held, [] =>
    let n := heldTail stops held
    (held.take (held.length - n), held.drop (held.length - n), none)
  | held, b :: bs =>
    let h := held ++ [b]
    let hits := stops.filter (endsWith h)
    match hits with
    | [] => stopScan stops h bs
    | x :: xs =>
      let best := xs.foldl (fun a y => if a.length < y.length then y else a) x
      (h.take (h.length - best.length), [], some best)

/-- Parse `n` stop strings of a stop-string area: the strings and the bytes that they take. -/
def parseStops : Nat → List Byte → Option (List (List Byte) × Nat)
  | 0, _ => some ([], 0)
  | n + 1, bs =>
    match bs with
    | [] => none
    | l :: rest =>
      if l == 0 || 64 < l.toNat || rest.length < l.toNat then none
      else (parseStops n (rest.drop l.toNat)).map (fun r => (rest.take l.toNat :: r.1, 1 + l.toNat + r.2))

/-- The stop-string area as bytes: each string after its length, padded to a multiple of 8. -/
def stopArea (xs : List (List Byte)) : List Byte :=
  let b := xs.flatMap (fun x => toLE 1 x.length ++ x)
  padTo (roundUp b.length 8) b

/-- A fresh stop-string record (Table 10-5). -/
def stopRecord (xs : List (List Byte)) : List Byte :=
  let a := stopArea xs
  padTo (roundUp (128 + a.length) 64) (padTo 128 (toLE 1 xs.length) ++ a)

/-- The stages that a record holds: UTF-8 bytes, stop-string bytes and the stop strings. -/
def State.stopStages (s : State) (a : Nat) : List Byte × List Byte × List (List Byte) :=
  let r := s.bytes a 128
  (slice r 2 (fieldAt r 1 1), slice r 8 (fieldAt r 5 1),
    ((parseStops (fieldAt r 0 1) (s.bytes (a + 128) 1088)).getD ([], 0)).1)

/-- Write the two stages back into the record. -/
def State.setStages (s : State) (a : Nat) (u t : List Byte) : State :=
  s.store (a + 1) (toLE 1 u.length ++ padTo 3 u ++ toLE 1 t.length ++ zeros 2 ++ padTo 64 t)

/-! ### Grammars (R420 to R428) -/

/-- A loaded grammar of a partition. -/
def State.grammar? (s : State) (p g : Nat) : Option Grammar := s.grammars.find? (fun x => x.part == p && x.slot == g)

/-- The pairs of a range-list mask. -/
def maskPairs (bs : List Byte) : List (Nat × Nat) :=
  (List.range (bs.length / 8)).map (fun i => (fieldAt bs (8 * i) 4, fieldAt bs (8 * i + 4) 4))

/-- The tokens of a mask are those for which this holds (R421). -/
def maskHas (enc : Nat) (bs : List Byte) (t : Nat) : Bool :=
  if enc == 0 then (fieldAt bs (t / 8) 1).testBit (t % 8) else (maskPairs bs).any (fun r => r.1 ≤ t && t < r.1 + r.2)

/-- The image passes the checks of R423 that need no vocabulary. -/
def grammarOk (im : List Byte) : Bool :=
  let f := fieldAt im
  let ns := f 8 4
  let nm := f 16 4
  let nx := f 20 4
  let n := f 24 4
  let st (i : Nat) : Nat := f 32 8 + 16 * i
  let mk (i : Nat) : Nat := f 40 8 + 16 * i
  let ex (i : Nat) : Nat := f 48 8 + 8 * i
  let masks := (List.range nm).map (fun i => (f (mk i) 8, f (mk i + 8) 4))
  let tabs := [(f 32 8, 16 * ns), (f 40 8, 16 * nm), (f 48 8, 8 * nx)]
  64 ≤ im.length && f 0 4 == 0x4D474A4A && f 4 2 == 0x0100 && zerosAt im 6 2 && zerosAt im 14 2 && zerosAt im 28 4 &&
  zerosAt im 56 4 && 1 ≤ ns && ns ≤ 65536 && f 12 2 < ns && 1 ≤ nm && nm ≤ 65536 && nx ≤ 16777216 &&
  (tabs ++ masks).all (fun r => r.1 + r.2 ≤ im.length) && f 60 4 == crcOver im ((0, 60) :: tabs ++ masks) &&
  (List.range ns).all (fun i =>
    f (st i) 2 < nm && f (st i + 2) 2 < ns && f (st i + 4) 1 < 2 && zerosAt im (st i + 5) 3 &&
    f (st i + 8) 4 + f (st i + 12) 4 ≤ nx &&
    (let ids := (List.range (f (st i + 12) 4)).map (fun k => f (ex (f (st i + 8) 4 + k)) 4)
     (ids.zip (ids.drop 1)).all (fun e => e.1 < e.2))) &&
  (List.range nm).all (fun i =>
    let enc := f (mk i + 12) 1
    let bs := slice im (f (mk i) 8) (f (mk i + 8) 4)
    enc < 2 && zerosAt im (mk i + 13) 3 &&
    (if enc == 0 then bs.length == ceilDiv n 8
     else bs.length % 8 == 0 && (maskPairs bs).all (fun r => 1 ≤ r.2 && r.1 + r.2 ≤ n) &&
       ((maskPairs bs).zip ((maskPairs bs).drop 1)).all (fun e => e.1.1 + e.1.2 ≤ e.2.1))) &&
  (List.range nx).all (fun i => f (ex i) 4 < 2 ^ 20 && f (ex i + 4) 2 < ns && zerosAt im (ex i + 6) 2)

/-- The image fits a vocabulary: its entry count, and no mask or exception beyond the normal set (R423). -/
def State.grammarFits (s : State) (v : Vocab) (im : List Byte) : Bool :=
  let f := fieldAt im
  let nm := f 16 4
  f 24 4 == v.entries &&
  (List.range nm).all (fun i =>
    let o := f 40 8 + 16 * i
    let bs := slice im (f o 8) (f (o + 8) 4)
    (List.range (8 * ceilDiv v.entries 8)).all (fun t => !maskHas (f (o + 12) 1) bs t || s.tokNormal v t)) &&
  (List.range (f 20 4)).all (fun i => s.tokNormal v (f (f 48 8 + 8 * i) 4))

/-- Pieces that grammars hold of a partition's grammar area. -/
def State.gramHeld (s : State) (p : Nat) : List (Nat × Nat) :=
  (s.grammars.filter (fun g => g.part == p)).map (fun g => (g.addr, g.len))

/-- GRAMMAR_LOAD (R423). -/
def bodyGrammarLoad (c : Cmd) (s : State) : State :=
  let f := fieldAt c.input
  let p := c.hdr.partition
  let n := f 4 4
  let a := f 8 8
  let bad (s : State) : State := (s.event JIG_EVENT 2).refuse c stBadParameter
  if c.input.length != 16 + (if a == 0 then n else 0) || n < 64 || 268435456 < n then bad s
  else if !zerosAt c.input 2 2 then s.refuse c stReservedNonzero
  else if a != 0 && !s.inRegion p a n then s.refuse c stBadAddress
  else if a != 0 && s.hitsDir p a n then s.refuse c stNotPermitted
  else if a != 0 && s.isUe a n then (s.dramUe a).refuse c stUncorrectableData
  else
    let im := if a == 0 then c.input.drop 16 else s.bytes a n
    let g := fieldAt im
    if !grammarOk im then bad s
    else match s.vocabFor p (f 0 2) with
    | none => s.refuse c stUnknownObject
    | some v =>
      if !s.grammarFits v im then bad s
      else match (List.range 256).find? (fun i => !s.grammars.any (fun x => x.slot == i)) with
      | none => s.refuse c stNoGrammarSlot
      | some slot =>
        match s.placeArea (JIG_PART_AREA p) n 64 (s.gramHeld p) with
        | none => s.refuse c stNoMemory
        | some at_ => if !s.bit JIG_CTRL 0 then s.refuseNotReady c else
          let x : Grammar :=
            { load := v.load, slot := slot, part := p, vocab := v.slot, addr := at_, len := n, entries := v.entries, states := g 8 4,
              start := g 12 2, stTab := at_ + g 32 8, mkTab := at_ + g 40 8, exTab := at_ + g 48 8 }
          let s1 := s.store at_ im
          (({ s1 with grammars := s1.grammars ++ [x] }).setRaw (JIG_SLOT slot) (BitVec.ofNat 64 ((x.states - 1) * 2 ^ 48 +
            v.slot * 2 ^ 42 + p * 2 ^ 20 + 2 ^ 19))).reply c stOk [] (toLE 4 slot ++ toLE 4 x.states)

/-- Free a grammar slot. -/
def State.dropGrammar (s : State) (slot : Nat) : State :=
  ({ s with grammars := s.grammars.filter (fun g => g.slot != slot) }).setRaw (JIG_SLOT slot) 0

/-- GRAMMAR_UNLOAD (R424). -/
def bodyGrammarUnload (c : Cmd) (s : State) : State :=
  s.shaped c 8 [(1, 7)] fun s =>
    let slot := fieldAt c.input 0 1
    match s.grammar? c.hdr.partition slot with
    | none => s.refuse c stUnknownObject
    | some _ =>
      if s.seqs.any (fun q => q.gram && q.gslot == slot) then s.refuseBusy c
      else (s.dropGrammar slot).refuse c stOk

/-- The mask of a state: device address, length and encoding. -/
def State.gramMask (s : State) (g : Grammar) (st : Nat) : Nat × Nat × Nat :=
  let m := g.mkTab + 16 * s.num (g.stTab + 16 * st) 2
  (g.addr + s.num m 8, s.num (m + 8) 4, s.num (m + 12) 1)

/-- A token is allowed in a state (R422). -/
def State.gramAllows (s : State) (g : Grammar) (v : Vocab) (st t : Nat) : Bool :=
  let m := s.gramMask g st
  maskHas m.2.2 (s.bytes m.1 m.2.1) t || ((s.num (g.stTab + 16 * st + 4) 1).testBit 0 && s.tokEnd v t)

/-- The exceptions of a state: token and next state. -/
def State.gramExcs (s : State) (g : Grammar) (st : Nat) : List (Nat × Nat) :=
  let o := g.stTab + 16 * st
  (List.range (s.num (o + 12) 4)).map (fun k =>
    let e := g.exTab + 8 * (s.num (o + 8) 4 + k)
    (s.num e 4, s.num (e + 4) 2))

/-- The state after a token (R422). -/
def State.gramNext (s : State) (g : Grammar) (st t : Nat) : Nat :=
  ((s.gramExcs g st).find? (fun e => e.1 == t)).elim (s.num (g.stTab + 16 * st + 2) 2) (fun e => e.2)

/-- A state, its mask or its exceptions read uncorrectable (R429). -/
def State.gramUe (s : State) (g : Grammar) (st : Nat) : Bool :=
  let m := s.gramMask g st
  let o := g.stTab + 16 * st
  s.isUe o 16 || s.isUe (g.mkTab + 16 * s.num o 2) 16 || s.isUe m.1 m.2.1 ||
    s.isUe (g.exTab + 8 * s.num (o + 8) 4) (8 * s.num (o + 12) 4)

/-- A state, its mask or its exceptions hold a correctable error: the first burst that does (R429). -/
def State.gramCe (s : State) (g : Grammar) (st : Nat) : Option Nat :=
  let m := s.gramMask g st
  let o := g.stTab + 16 * st
  let rs := [(o, 16), (g.mkTab + 16 * s.num o 2, 16), (m.1, m.2.1), (g.exTab + 8 * s.num (o + 8) 4, 8 * s.num (o + 12) 4)]
  s.ce.find? (fun b => rs.any (fun r => r.1 < 64 * b + 64 && 64 * b < r.1 + r.2))

end Sys2Proof.Machine
end

