-- ==== Sys2Proof/Machine/Prompts.lean ====
section
/-! DEFINITION. Prompt assembly by the Blank builder (spec/06, R272 to R279). -/

namespace Sys2Proof.Machine

/-- The kind of a template word (Table 6-8). -/
def wordKind (w : Nat) : Nat := w / 2 ^ 28

/-- The words of a template before its passage block, inside it and after it. -/
def splitBlock (ws : List Nat) : List Nat × List Nat × List Nat :=
  let a := ws.takeWhile (fun w => wordKind w != 3)
  let rest := ws.drop (a.length + 1)
  let b := rest.takeWhile (fun w => wordKind w != 4)
  (a, b, rest.drop (b.length + 1))

/-- Words of kinds 0 and 1. -/
def tokenWords (ws : List Nat) : List Nat := ws.filter (fun w => wordKind w < 2)

/-- A template passes R273 for a vocabulary. -/
def State.templateOk (s : State) (v : Vocab) (ws : List Nat) : Bool :=
  let r := splitBlock ws
  let n (k : Nat) (l : List Nat) : Nat := (l.filter (fun w => wordKind w == k)).length
  ws.length ≤ 4096 && ws.all (fun w => wordKind w < 6 && w / 2 ^ 20 % 256 == 0 && (wordKind w < 2 || w % 2 ^ 20 == 0)) &&
  n 2 ws ≤ 1 && n 3 ws ≤ 1 && n 3 ws == n 4 ws && n 3 r.2.1 == 0 && n 4 r.1 == 0 && n 4 r.2.2 == 0 &&
  n 5 r.1 == 0 && n 5 r.2.2 == 0 && n 5 r.2.1 == n 3 ws &&
  (tokenWords ws).all (s.wordOk v)

/-- A template has a passage block. -/
def hasBlock (ws : List Nat) : Bool := ws.any (fun w => wordKind w == 3)

/-- The packing block (Table 6-9). -/
structure Packing where
  budget   : Nat
  cap      : Nat
  mode     : Nat
  bestLast : Bool
  skipDel  : Bool
  minCut   : Nat
  words    : Nat
  deriving DecidableEq, Repr, Inhabited

/-- Parse Table 6-9. -/
def parsePacking (bs : List Byte) : Packing :=
  let f := fieldAt bs
  ⟨f 0 4, f 4 2, f 6 1, (f 7 1).testBit 0, (f 7 1).testBit 1, f 8 4, f 12 2⟩

/-- The packing block is within Table 6-9. -/
def Packing.ok (k : Packing) : Bool :=
  1 ≤ k.budget && k.budget ≤ 1048576 && k.mode < 3 && 1 ≤ k.minCut && k.minCut ≤ k.budget && 1 ≤ k.words && k.words ≤ 4096

/-- The fixed cost F of a template and a query, and the block cost L (R275). -/
def fixedCost (ws : List Nat) (query : Nat) : Nat :=
  let r := splitBlock ws
  (tokenWords r.1).length + (tokenWords r.2.2).length + query
def blockCost (ws : List Nat) : Nat := (tokenWords (splitBlock ws).2.1).length

/-- What the Blank builder packs of a candidate: missing, deleted, or its tokens. -/
structure Passage where
  missing : Bool
  deleted : Bool
  toks    : List Nat
  deriving DecidableEq, Repr, Inhabited

/-- The outcome of packing (R276): the packed passages in rank order and the counts of the report. -/
structure Packed where
  packed  : List (List Nat) := []
  cut     : Nat := 0
  dropped : Nat := 0
  skipped : Nat := 0
  missing : Nat := 0
  deriving DecidableEq, Repr, Inhabited

/-- R276. -/
def pack (k : Packing) (cost : Nat) : Nat → Packed → List Passage → Packed
  | _, r, [] => r
  | rem, r, c :: cs =>
    if k.cap != 0 && r.packed.length == k.cap then r
    else if c.missing then pack k cost rem { r with missing := r.missing + 1 } cs
    else if c.deleted && k.skipDel then pack k cost rem { r with skipped := r.skipped + 1 } cs
    else if cost + c.toks.length ≤ rem then
      pack k cost (rem - cost - c.toks.length) { r with packed := r.packed ++ [c.toks] } cs
    else if k.mode == 1 && cost + k.minCut ≤ rem then
      { r with packed := r.packed ++ [c.toks.take (rem - cost)], cut := 1 }
    else if k.mode == 2 then r
    else pack k cost rem { r with dropped := r.dropped + 1 } cs

/-- Put words in place of the word of a kind. -/
def fillSlot (kind : Nat) (xs ws : List Nat) : List Nat := ws.flatMap (fun w => if wordKind w == kind then xs else [w])

/-- The prompt (R277). -/
def buildPrompt (k : Packing) (ws query : List Nat) (r : Packed) : List Nat :=
  let t := splitBlock ws
  let ps := if k.bestLast then r.packed.reverse else r.packed
  fillSlot 2 query (t.1 ++ ps.flatMap (fun p => fillSlot 5 p t.2.1) ++ t.2.2)

/-- An assembly: the prompt and the outcome of packing; a template without a passage block packs nothing (R277). -/
def assemble (k : Packing) (ws query : List Nat) (cs : List Passage) : List Nat × Packed :=
  let f := fixedCost ws query.length
  let r := if hasBlock ws then pack k (blockCost ws) (k.budget - f) {} cs else {}
  (buildPrompt k ws query r, r)

/-- The assembly report (R279). -/
def reportBytes (prompt : List Nat) (r : Packed) : List Byte :=
  toLE 4 prompt.length ++ toLE 4 r.packed.length ++ toLE 4 r.cut ++ toLE 4 r.dropped ++ toLE 4 r.skipped ++ toLE 4 r.missing

/-- Count an assembly (BLK_CNT, BLK_TRUNC_CNT). -/
def State.countAssembly (s : State) (p : Nat) (r : Packed) : State :=
  (((((s.bump (BLK_CNT p) 31 0 1).bump (BLK_CNT p) 63 32 r.packed.length).bump (BLK_TRUNC_CNT p) 63 48 r.cut).bump
    (BLK_TRUNC_CNT p) 47 32 r.dropped).bump (BLK_TRUNC_CNT p) 31 16 r.skipped).bump (BLK_TRUNC_CNT p) 15 0 r.missing

/-- The token words of a passage record (Table 5-6): an ID lies in bits [19:0], and no record names a control token by the CONTROL
flag (R408). -/
def recordTokens (rec : List Byte) : List Nat := (List.range (fieldAt rec 8 4)).map (fun i => fieldAt rec (16 + 4 * i) 4 % 2 ^ 20)

end Sys2Proof.Machine
end

