-- ==== Sys2Proof/Machine/Kv.lean ====
section
/-! DEFINITION. KV cache, prefixes and long context (spec/09): block tables, reservation and commit, prefixes, demotion,
landmarks and far-block selection, and the loss of blocks. -/

namespace Sys2Proof.Machine

/-! ### Sequences, prefixes and their owner values -/

/-- A sequence's handle (R321). -/
def Seq.handle (q : Seq) : Nat := q.gen * 2 ^ 15 + q.idx

/-- The owner value of a prefix (R368). -/
def prefOwner (slot : Nat) : Nat := 0x4000 + slot

/-- A prefix's handle (R376). -/
def PrefixSlot.handle (x : PrefixSlot) : Nat := x.gen * 2 ^ 18 + x.part * 2 ^ 14 + x.slot

/-- The entry of an index. -/
def State.seq? (s : State) (i : Nat) : Option Seq := s.seqs.find? (fun q => q.idx == i)

/-- Change an entry. -/
def State.setSeq (s : State) (i : Nat) (f : Seq → Seq) : State := { s with seqs := updateWhere s.seqs (fun q => q.idx == i) f }

/-- The entry that a handle names for a partition (R322). -/
def State.seqOf (s : State) (p h : Nat) : Option Seq := s.seqs.find? (fun q => q.handle == h && q.part == p)

/-- A prefix slot in use. -/
def State.pref? (s : State) (i : Nat) : Option PrefixSlot := s.prefixes.find? (fun x => x.slot == i)

/-- Change a prefix slot. -/
def State.setPref (s : State) (i : Nat) (f : PrefixSlot → PrefixSlot) : State :=
  { s with prefixes := updateWhere s.prefixes (fun x => x.slot == i) f }

/-- The prefix that a handle names, live for a command with this intake stamp (R376, R381). -/
def State.livePref (s : State) (p h intake : Nat) : Option PrefixSlot :=
  s.prefixes.find? (fun x => x.handle == h && x.part == p && (match x.ended with
    | some t => intake < t
    | none => true))

/-- A field of HDS_KV_CFG as the partition's latest step boundary left it (R394). -/
def State.kvFld (s : State) (p hi lo : Nat) : Nat := (s.part p).kvCfg / 2 ^ lo % 2 ^ (hi + 1 - lo)

/-! ### KV geometry (R363, R364) -/

/-- The main and the draft model of a sequence. -/
def State.seqModels (s : State) (q : Seq) : List Model :=
  (s.model? q.part q.model q.version).toList ++ (match q.draft with
    | some d => (s.model? q.part d.1 d.2).toList
    | none => [])

/-- The model whose layer KV layer `l` is, with its number there (R364). -/
def kvModel : List Model → Nat → Option (Model × Nat)
  | [], _ => none
  | m :: ms, l => if l < m.kvLayers then some (m, l) else kvModel ms (l - m.kvLayers)

/-- KV layers of a list of models. -/
def kvLayerCount (ms : List Model) : Nat := sumNat (ms.map (fun m => m.kvLayers))

/-- The model layer of a model's KV layer: the model layers of its schedule in execution order (log entry 20). -/
def Model.kvModelLayer (m : Model) (l : Nat) : Nat := (dedupBy (fun (x : Nat) => x) (m.sched.map (fun x => x.layer))).getD l 0

/-- A KV layer of a model is flagged as far-context (Table 3-9). -/
def Model.farLayer (m : Model) (l : Nat) : Bool := m.sched.any (fun x => x.far && x.layer == m.kvModelLayer l)

/-- A KV layer of a list of models is flagged. -/
def isFarLayer (ms : List Model) (l : Nat) : Bool :=
  match kvModel ms l with
  | some (m, i) => m.farLayer i
  | none => false

/-- The flagged KV layers, in order: `f` of R385 is a layer's place here. -/
def farLayers (ms : List Model) : List Nat := (List.range (kvLayerCount ms)).filter (isFarLayer ms)

/-- KV width and head-group dimension of a KV layer, and bytes of an element. -/
def kvShape (ms : List Model) (l : Nat) : Nat × Nat × Nat :=
  match kvModel ms l with
  | some (m, _) => (m.kvWidth, m.headDim, (fmtBits m.kvFmt).getD 8 / 8)
  | none => (0, 1, 1)

/-! ### Block tables (R368 to R371) -/

/-- Base of a partition's KV area. -/
def State.kvBase (s : State) (p : Nat) : Nat := (s.area (HDS_KV_AREA p)).1

/-- Take a piece of a KV area for an owner; page 0 is never allocated (R369). -/
def State.takeKv (s : State) (p owner n al : Nat) : Option (State × Nat) :=
  (s.placeArea (HDS_KV_AREA p) n al ((s.kvBase p, 4096) :: s.kvPieces.map (fun r => r.2))).map (fun a =>
    ({ s with kvPieces := s.kvPieces ++ [(owner, a, n)] }, a))

/-- Free the pieces of an owner. -/
def State.freeKv (s : State) (owner : Nat) : State := { s with kvPieces := s.kvPieces.filter (fun r => r.1 != owner) }

/-- Pages for each layer of a length (R369). -/
def kvPages (lmax : Nat) : Nat := ceilDiv lmax 131072

/-- Address of the page reference of a block. -/
def State.pageRef (s : State) (root l b : Nat) : Nat := root + 64 + 4 * (l * s.num (root + 2) 2 + b / 512)

/-- Address of a block-table entry, where its page exists. -/
def State.entryAddr (s : State) (p root l b : Nat) : Option Nat :=
  if s.num (root + 2) 2 ≤ b / 512 || s.num root 2 ≤ l then none
  else
    let r := s.num (s.pageRef root l b) 4
    if r == 0 then none else some (s.kvBase p + r * 4096 + b % 512 * 8)

/-- A block-table entry; zero names no block (R370). -/
def State.kvEntry (s : State) (p root l b : Nat) : Nat :=
  match s.entryAddr p root l b with
  | some a => s.num a 8
  | none => 0

/-- Write an entry whose page exists. -/
def State.putEntry (s : State) (p root l b v : Nat) : State :=
  match s.entryAddr p root l b with
  | some a => s.store a (toLE 8 v)
  | none => s

/-- Write an entry, allocating its page for an owner where it does not exist (R371). A block past the table's last page,
which only draft positions past L_max can reach, has no entry. -/
def State.setEntry (s : State) (p owner root l b v : Nat) : Option State :=
  match s.entryAddr p root l b with
  | some a => some (s.store a (toLE 8 v))
  | none =>
    if s.num (root + 2) 2 ≤ b / 512 || s.num root 2 ≤ l then some s
    else (s.takeKv p owner 4096 4096).map (fun r =>
      let s1 := (r.1.zeroRange r.2 4096).store (s.pageRef root l b) (toLE 4 ((r.2 - s.kvBase p) / 4096))
      s1.putEntry p root l b v)

/-- Fields of a block-table entry (Table 9-2). -/
def entOwner (v : Nat) : Nat := v % 2 ^ 32
def entValid (v : Nat) : Nat := v / 2 ^ 32 % 512
def entShared (v : Nat) : Bool := v.testBit 41
def entMark (v : Nat) : Bool := v.testBit 42
def entLost (v : Nat) : Bool := v.testBit 43

/-- Build a block-table entry. -/
def mkEntry (owner valid : Nat) (shared mark lost sink : Bool) : Nat :=
  let b (x : Bool) (i : Nat) : Nat := if x then 2 ^ i else 0
  owner + valid * 2 ^ 32 + b shared 41 + b mark 42 + b lost 43 + b sink 44

/-- An entry with another valid count. -/
def withValid (v n : Nat) : Nat := v - entValid v * 2 ^ 32 + n * 2 ^ 32

/-- The KV length in a root record. -/
def State.kvLen (s : State) (root : Nat) : Nat := s.num (root + 4) 4

/-- Object ID of a block (kind 3) or landmark (kind 4) of an owner (R367, Table 3-4). -/
def kvObj (kind owner l b : Nat) : Nat := kind * 2 ^ 60 + owner * 2 ^ 28 + l * 65536 + b

/-- Blocks that a table of `len` positions can name on a layer, draft positions included. -/
def blockBound (len : Nat) : Nat := len / 256 + 2

/-- The blocks that a table names, with their entries. -/
def State.kvBlocks (s : State) (p root len : Nat) : List (Nat × Nat × Nat) :=
  ((List.range (s.num root 2)).flatMap (fun l =>
    (List.range (blockBound len)).map (fun b => (l, b, s.kvEntry p root l b)))).filter (fun e => e.2.2 != 0)

/-! ### Placement (R382, R383) -/

/-- Blocks of a layer that a sequence's table names: the highest block number plus 1. -/
def State.blockTop (s : State) (q : Seq) (l : Nat) : Nat :=
  maxNat (((List.range (blockBound q.len)).filter (fun b => s.kvEntry q.part q.root l b != 0)).map (fun b => b + 1))

/-- A block is far for a sequence: outside its sink set and its near window, on a flagged layer. -/
def State.isFarBlock (s : State) (q : Seq) (l b : Nat) : Bool :=
  isFarLayer (s.seqModels q) l && s.kvFld q.part 43 40 ≤ b &&
    b + s.kvFld q.part 39 24 < s.blockTop q l

/-- The sequences of a partition whose tables name an object as a block, with its layer and number. -/
def State.blockUsers (s : State) (p id : Nat) : List Seq :=
  let owner := id / 2 ^ 28 % 2 ^ 32
  let l := id / 65536 % 4096
  let b := id % 65536
  s.seqs.filter (fun q => q.part == p && entOwner (s.kvEntry p q.root l b) == owner && s.kvEntry p q.root l b != 0)

/-- The tier policy keeps an object: a KV block in some sequence's sink set or near window, or a landmark (R382, R384). -/
def State.keepsKv (s : State) (p id : Nat) : Bool :=
  if id / 2 ^ 60 == 4 then true
  else if id / 2 ^ 60 == 3 then (s.blockUsers p id).any (fun q => !s.isFarBlock q (id / 65536 % 4096) (id % 65536))
  else false

/-- A step boundary: HDS_KV_CFG applies as it stands, and the entries' SINK bits follow it (R394, R370). -/
def State.applyKvCfg (s : State) (p : Nat) : State :=
  let s1 := s.setPart p (fun x => { x with kvCfg := (s.raw (HDS_KV_CFG p)).toNat })
  let tables := (s1.seqs.filter (fun q => q.part == p)).map (fun q => (q.root, q.len)) ++
    (s1.prefixes.filter (fun x => x.part == p)).map (fun x => (x.root, x.n))
  if (s.part p).kvCfg / 2 ^ 40 % 16 == s1.kvFld p 43 40 then s1
  else tables.foldl (fun s t =>
    (s.kvBlocks p t.1 t.2).foldl (fun s e =>
      let sink : Bool := e.2.1 < s.kvFld p 43 40
      if e.2.2.testBit 44 == sink then s
      else s.putEntry p t.1 e.1 e.2.1 (if sink then e.2.2 + 2 ^ 44 else e.2.2 - 2 ^ 44)) s) s1

/-- Demote the far blocks of a partition (R383): each is written to tier 2, and its eviction commits after the boundary; one that ends
with BUSY or NO_MEMORY stays, and the next boundary tries again. -/
def State.demote (s : State) (p : Nat) : State :=
  ((s.dir.filter (fun e => e.1 == p && e.2.id / 2 ^ 60 == 3 && e.2.t1.isSome && e.2.leaving.isNone)).map (fun e => e.2.id)).foldl
    (fun s id =>
      let us := s.blockUsers p id
      if !us.isEmpty && us.all (fun q => s.isFarBlock q (id / 65536 % 4096) (id % 65536)) then (s.leave p id .demotion).2 else s) s

/-! ### Reservation and writing (R366, R372, R380) -/

/-- Make a block of an owner in tier 1; its contents are undefined. -/
def State.newBlock (s : State) (p : Nat) (ms : List Model) (owner l b : Nat) : Option State :=
  let sh := kvShape ms l
  let n := 512 * sh.1 * sh.2.2
  let fmt := ((kvModel ms l).map (fun e => e.1.kvFmt)).getD 1
  if (s.freeDirSlot p).isNone then none
  else (s.place1 p 0 n false).map (fun r =>
    r.1.addObj p { id := kvObj 3 owner l b, t1 := some r.2, fmt := fmt, rows := 256, cols := 2 * sh.1, len1 := n })

/-- Copy a block's content into a block of another owner. -/
def State.copyBlock (s : State) (p : Nat) (ms : List Model) (src dst l b : Nat) : Option State :=
  match s.obj? p (kvObj 3 src l b) with
  | none => none
  | some o =>
    match s.objContent p o with
    | (none, _) => none
    | (some bs, s1) =>
      (s1.newBlock p ms dst l b).map (fun s2 =>
        match s2.obj? p (kvObj 3 dst l b) with
        | some x => s2.store (x.t1.getD 0) (o.plain bs)
        | none => s2)

/-- Reserve one block of a sequence for writing: a missing one is made, a shared one is copied (R372, R380). -/
def State.reserveBlock (s : State) (q : Seq) (l b : Nat) : Option State :=
  let ms := s.seqModels q
  let v := s.kvEntry q.part q.root l b
  let sink : Bool := b < s.kvFld q.part 43 40
  if s.num (q.root + 2) 2 ≤ b / 512 then some s
  else if v == 0 then
    (s.newBlock q.part ms q.handle l b).bind (fun s1 =>
      s1.setEntry q.part q.handle q.root l b (mkEntry q.handle 0 false false false sink))
  else if entShared v then
    (s.copyBlock q.part ms (entOwner v) q.handle l b).map (fun s1 =>
      ((s1.putEntry q.part q.root l b (mkEntry q.handle (entValid v) false false false sink)).bump
        (HDS_KV_CNT q.part) 31 0 1))
  else some s

/-- Reserve every block that `rows` rows from the KV length write, on every KV layer: all or none (R372). -/
def State.reserveKv (s : State) (q : Seq) (rows : Nat) : Option State :=
  let a := s.kvLen q.root
  let bs := (List.range ((a + rows - 1) / 256 + 1 - a / 256)).map (fun i => a / 256 + i)
  (List.range (kvLayerCount (s.seqModels q))).foldl (fun acc l =>
    bs.foldl (fun acc b => acc.bind (fun s => s.reserveBlock q l b)) acc) (some s)

/-- The KV that a step computes is a free value (log entry 7): write the row of one position on one layer. -/
def State.writeKvRow (s : State) (q : Seq) (ms : List Model) (l pos : Nat) : State :=
  let v := s.kvEntry q.part q.root l (pos / 256)
  let sh := kvShape ms l
  let n := sh.1 * sh.2.2
  let id := kvObj 3 (entOwner v) l (pos / 256)
  match s.obj? q.part id with
  | none => s
  | some o =>
    match o.t1 with
    | none => s
    | some a =>
      let k := s.freeCtr
      let key := (List.range n).map (Config.freeByte k)
      let val := (List.range n).map (Config.freeByte (k + 1))
      (((s.tick.tick.store (a + pos % 256 * n) key).store (a + (256 + pos % 256) * n) val).setObj q.part id (fun o =>
        { o with dirty := o.t2.isSome }))

/-- Write the rows of a placed entry on every KV layer. -/
def State.writeKv (s : State) (q : Seq) (rows : Nat) : State :=
  let ms := s.seqModels q
  let a := s.kvLen q.root
  (List.range (kvLayerCount ms)).foldl (fun s l =>
    (List.range rows).foldl (fun s i => s.writeKvRow q ms l (a + i)) s) s

/-! ### Landmarks (R384, R385) -/

/-- Score-area address of a code of a table: far-context layer index f, group g, block b (R385). -/
def State.scoreAddr (s : State) (p root f groups g b h : Nat) : Nat :=
  s.kvBase p + s.num (root + 8) 4 * 64 + ((f * groups + g) * (512 * s.num (root + 2) 2) + b) * h

/-- The mean of a column of 256 rows, in FP32 (R384). -/
def kvMean (xs : List Fp) : F32 := fMul (fSum (xs.map (fun x => x.toF32))) 0x3B800000

/-- Mean key and mean value of a block of width `w` in a format, as BF16 patterns. -/
def blockMeans (fmt w : Nat) (bs : List Byte) : List Nat :=
  let b := (fmtBits fmt).getD 8
  (List.range 2).flatMap (fun half => (List.range w).map (fun i =>
    convert 4 false (f32 (kvMean ((List.range 256).map (fun t => elemValue fmt (elemAt b bs ((half * 256 + t) * w + i))))))))

/-- The table that holds the score codes of an owner's blocks: its root. -/
def State.ownerRoot (s : State) (owner : Nat) : Nat :=
  if owner < 0x8000 then ((s.pref? (owner - 0x4000)).map (fun x => x.root)).getD 0
  else ((s.seqs.find? (fun q => q.handle == owner)).map (fun q => q.root)).getD 0

/-- Form the landmark of a full block, write its score codes and set LM_VALID. A landmark that finds no space is not
formed (log entry 21). -/
def State.formLandmark (s : State) (q : Seq) (ms : List Model) (l b : Nat) : State :=
  let p := q.part
  let v := s.kvEntry p q.root l b
  let owner := entOwner v
  match s.obj? p (kvObj 3 owner l b), kvModel ms l with
  | some o, some (m, _) =>
    let w := m.kvWidth
    let means := blockMeans o.fmt w (s.read1 p o)
    let bytes := means.flatMap (fun x => toLE 2 x)
    match (if (s.freeDirSlot p).isNone then none else s.place1 p 0 (4 * w) false) with
    | none => s
    | some (s1, a) =>
      let s2 := (s1.store a bytes).addObj p
        { id := kvObj 4 owner l b, t1 := some a, fmt := 4, rows := 2, cols := w, len1 := 4 * w }
      let root := s2.ownerRoot owner
      let f := (farLayers ms).idxOf l
      let h := m.headDim
      let g := w / h
      let s3 := if isFarLayer ms l then
          (List.range g).foldl (fun s k =>
            s.store (s.scoreAddr p root f g k b h)
              (((means.take w).drop (k * h)).take h |>.map (fun x => BitVec.ofNat 8 (convert 1 true (elemValue 4 x))))) s2
        else s2
      s3.putEntry p q.root l b (if entMark v then v else v + 2 ^ 42)
  | _, _ => s

/-- A landmark that can stand in for its block: one that cannot be read is formed again from the block (R391). None: it does
not exist, or the block cannot be read either. -/
def State.readLandmark (s : State) (p id : Nat) : Option State :=
  match s.obj? p (id + 2 ^ 60), s.obj? p id with
  | some x, some o =>
    if !s.ue1 p x then some s
    else
      match s.objContent p o with
      | (some bs, s1) => some ((s1.noteRead 0 p (s1.ranges1 p x)).store (x.t1.getD 0)
          ((blockMeans o.fmt x.cols (o.plain bs)).flatMap (fun y => toLE 2 y)))
      | (none, _) => none
  | _, _ => none

/-! ### Loss (R391) -/

/-- Set LOST in every entry that names a block whose only copy is gone. -/
def State.markEntries (s : State) (p root len : Nat) : State :=
  (s.kvBlocks p root len).foldl (fun s e =>
    match s.obj? p (kvObj 3 (entOwner e.2.2) e.1 e.2.1) with
    | some o => if o.gone && !entLost e.2.2 then s.putEntry p root e.1 e.2.1 (e.2.2 + 2 ^ 43) else s
    | none => s) s

/-- A read of a block has found its only copy uncorrectable: the read is reported, and the block is lost (R391, R181). -/
def State.failBlock (s : State) (p id : Nat) : State :=
  match s.obj? p id with
  | none => s
  | some o => (s.noteRead 0 p (s.ranges1 p o ++ o.ranges2)).loseBlock p id

/-- A block has 256 valid rows: its landmark is formed (R384), and it is stored in mode 2 where LOSSY_KV_T1 says so (R109). One
that cannot be read is lost (R391). -/
def State.fillBlock (s : State) (q : Seq) (ms : List Model) (owner l b : Nat) : State :=
  let id := kvObj 3 owner l b
  if s.kvUnreadable q.part id then s.failBlock q.part id
  else ((s.formLandmark q ms l b).setObj q.part id (fun o => { o with full := true })).lossyCopy1 q.part id

/-- Set the KV length and the valid counts of the blocks that `rows` rows from the old length touched; a block that becomes
full gets its landmark (R373, R374, R384). -/
def State.commitKv (s : State) (q : Seq) (rows new : Nat) : State :=
  let ms := s.seqModels q
  let a := s.kvLen q.root
  let bs := (List.range ((a + rows - 1) / 256 + 1 - a / 256)).map (fun i => a / 256 + i)
  let s1 := s.store (q.root + 4) (toLE 4 new)
  (List.range (kvLayerCount ms)).foldl (fun s l =>
    bs.foldl (fun s b =>
      let v := s.kvEntry q.part q.root l b
      if v == 0 then s
      else
        let n := min 256 (new - 256 * b)
        let s2 := s.putEntry q.part q.root l b (withValid v n)
        if n == 256 && entValid v != 256 then s2.fillBlock q ms (entOwner v) l b else s2) s) s1

/-- The token words of `n` positions from `a`, whose KV is committed, are written into the token log of a sequence with the retain-prompt
flag (R393; log entry 122). -/
def State.logWords (s : State) (q : Seq) (a n : Nat) : State :=
  let log := s.num (q.root + 16) 4
  let from_ := max a q.plen
  if !q.retain || log == 0 || a + n ≤ from_ then s
  else s.store (s.kvBase q.part + log * 64 + 4 * (from_ - q.plen))
    (((q.tokens.drop (from_ - q.plen)).take (a + n - from_)).flatMap (fun w => toLE 4 w))

/-! ### Prefixes (R376 to R381) -/

/-- A block's objects get another owner value: residence, pins and copies stay (R378). -/
def State.renameBlock (s : State) (p old new l b : Nat) : State :=
  let s1 := s.setObj p (kvObj 3 old l b) (fun o => { o with id := kvObj 3 new l b })
  s1.setObj p (kvObj 4 old l b) (fun o => { o with id := kvObj 4 new l b })

/-- Token words of positions 0 to n − 1 of a sequence: its prefix's token log, then its own words. -/
def State.seqWords (s : State) (q : Seq) (n : Nat) : List Nat :=
  let pre : List Nat := match s.prefixes.find? (fun x => x.handle == q.prefix_) with
    | some x => (List.range q.plen).map (fun i => s.num (s.kvBase q.part + s.num (x.root + 16) 4 * 64 + 4 * i) 4)
    | none => []
  (pre ++ q.tokens).take n

/-- Write the root record header (Table 9-1). -/
def State.putRoot (s : State) (p root l pages kv score query log pref plen : Nat) : State :=
  let off (a : Nat) : Nat := if a == 0 then 0 else (a - s.kvBase p) / 64
  s.store root (toLE 2 l ++ toLE 2 pages ++ toLE 4 kv ++ toLE 4 (off score) ++ toLE 4 (off query) ++ toLE 4 (off log) ++
    toLE 8 pref ++ toLE 4 plen ++ zeros 32)

/-- Bytes of a root record, a score area and a query area (R369, R385, R387). -/
def rootBytes (layers pages : Nat) : Nat := roundUp (64 + 4 * layers * pages) 64
def scoreBytes (ms : List Model) (pages : Nat) : Nat :=
  sumNat ((farLayers ms).map (fun l => (kvShape ms l).1 * 512 * pages))
def queryBytes (ms : List Model) : Nat := sumNat ((farLayers ms).map (fun l => 2 * (kvShape ms l).1))

/-- Take a piece unless it is empty. -/
def State.takeKv? (s : State) (p owner n : Nat) : Option (State × Nat) :=
  if n == 0 then some (s, 0) else s.takeKv p owner (roundUp n 64) 64

/-- Make a table for an owner: root record, and the score, query and token-log areas asked for (R371). -/
def State.newTable (s : State) (p owner : Nat) (ms : List Model) (pages query log pref plen : Nat) : Option (State × Nat) :=
  let l := kvLayerCount ms
  (s.takeKv p owner (rootBytes l pages) 64).bind fun r =>
  (r.1.takeKv? p owner (scoreBytes ms pages)).bind fun a =>
  (a.1.takeKv? p owner (if query == 1 then queryBytes ms else 0)).bind fun b =>
  (b.1.takeKv? p owner log).map fun c =>
    ((c.1.zeroRange r.2 (rootBytes l pages)).putRoot p r.2 l pages 0 a.2 b.2 c.2 pref plen, r.2)

/-- Copy the score codes of a block between tables. -/
def State.copyScores (s : State) (p : Nat) (ms : List Model) (src dst l b : Nat) : State :=
  if !isFarLayer ms l then s
  else
    let sh := kvShape ms l
    let g := sh.1 / sh.2.1
    let f := (farLayers ms).idxOf l
    (List.range g).foldl (fun s k =>
      s.store (s.scoreAddr p dst f g k b sh.2.1) (s.bytes (s.scoreAddr p src f g k b sh.2.1) sh.2.1)) s

/-- Put one whole block of a sequence under a prefix (R378 step 1). -/
def State.shareBlock (s : State) (q : Seq) (ms : List Model) (slot root l b : Nat) : Option State :=
  let v := s.kvEntry q.part q.root l b
  if v == 0 then some s
  else if entShared v then s.setEntry q.part (prefOwner slot) root l b v
  else
    let v2 := mkEntry (prefOwner slot) (entValid v) true (entMark v) (entLost v) (v.testBit 44)
    let s1 := ((s.renameBlock q.part q.handle (prefOwner slot) l b).putEntry q.part q.root l b v2).copyScores q.part ms
      q.root root l b
    s1.setEntry q.part (prefOwner slot) root l b v2

/-- Store the first `n` positions of a sequence as a prefix (R378); none where there is no room. -/
def State.storePrefix (s : State) (q : Seq) (slot n : Nat) : Option State :=
  let p := q.part
  let ms := s.seqModels q
  let layers := List.range (kvLayerCount ms)
  let owner := prefOwner slot
  let gen := (assoc s.prefixGens slot).getD 1
  let words := s.seqWords q n
  let whole := List.range (n / 256)
  let others := dedupBy id ((layers.flatMap (fun l => whole.map (fun b => s.kvEntry p q.root l b))).filterMap (fun v =>
    if v != 0 && entShared v then some (entOwner v - 0x4000) else none))
  let x : PrefixSlot :=
    { slot := slot, gen := gen, part := p, model := q.model, version := q.version, variant := q.variant, draft := q.draft, n := n, refs := 2,
      bases := others }
  (s.newTable p owner ms (s.num (q.root + 2) 2) 0 (4 * n) 0 0).bind fun t =>
  (layers.foldl (fun acc l => whole.foldl (fun acc b => acc.bind (fun s => s.shareBlock q ms slot t.2 l b)) acc)
    (some t.1)).bind fun s2 =>
  (if n % 256 == 0 then some s2
   else layers.foldl (fun acc l => acc.bind (fun s =>
     let b := n / 256
     let v := s.kvEntry p q.root l b
     (s.copyBlock p ms (entOwner v) owner l b).bind (fun s =>
       s.setEntry p owner t.2 l b (mkEntry owner (n % 256) true false false (v.testBit 44))))) (some s2)).map fun s3 =>
    let s4 := (s3.store (t.2 + 4) (toLE 4 n)).store (s3.kvBase p + s3.num (t.2 + 16) 4 * 64) (words.flatMap (fun w => toLE 4 w))
    let s5 := { s4 with prefixes := s4.prefixes ++ [{ x with root := t.2 }] }
    let s6 := others.foldl (fun s o => s.setPref o (fun y => { y with refs := y.refs + 1 })) s5
    s6.setSeq q.idx (fun q => { q with refs := q.refs ++ [slot] })

/-- A prefix loses one reference; at none left its slot is freed, with what it references (R381). -/
def State.unrefPrefix : Nat → Nat → State → State
  | 0, _, s => s
  | fuel + 1, slot, s =>
    match s.pref? slot with
    | none => s
    | some x =>
      if 1 < x.refs then s.setPref slot (fun x => { x with refs := x.refs - 1 })
      else
        let owner := prefOwner slot
        let mine := (s.dir.filter (fun e => e.1 == x.part && (e.2.id / 2 ^ 60 == 3 || e.2.id / 2 ^ 60 == 4) &&
          e.2.id / 2 ^ 28 % 2 ^ 32 == owner)).map (fun e => e.2.id)
        let s1 := (mine.foldl (fun s id => s.delObj x.part id) s).freeKv owner
        let next := if x.gen + 1 == 2 ^ 46 then 1 else x.gen + 1
        let s2 := { s1 with
          prefixes := s1.prefixes.filter (fun y => y.slot != slot), prefixGens := assocSet s1.prefixGens slot next }
        x.bases.foldl (fun s b => State.unrefPrefix fuel b s) s2

/-- The client's hold of a prefix ends (R381). -/
def State.endHold (s : State) (slot : Nat) : State :=
  match s.pref? slot with
  | none => s
  | some x =>
    if x.ended.isSome then s
    else State.unrefPrefix 16384 slot (s.setPref slot (fun x => { x with ended := some s.now }))

/-- PREFIX_RELEASE (R381). -/
def bodyPrefixRelease (c : Cmd) (s : State) : State :=
  s.shaped c 8 [] fun s =>
    match s.livePref c.hdr.partition (fieldAt c.input 0 8) c.intake with
    | none => s.refuse c stStaleHandle
    | some x =>
      let s1 := s.refuse c stOk
      if x.ended.isSome then s1
      else State.unrefPrefix 16384 x.slot (s1.setPref x.slot (fun x => { x with ended := some c.intake }))

/-- PREFIX_STORE (R377) waits for the next step boundary. -/
def bodyPrefixStore (c : Cmd) (s : State) : State :=
  if c.input.length != 8 then s.refuse c stBadParameter else { s with stores := s.stores ++ [c.id] }

/-- The partial last block of a prefix is read to be copied (R378): what the reads meet is reported, and a block that is lost with its
only copy is marked. The answer: every layer's block can be read. -/
def State.readPartial (s : State) (q : Seq) (b : Nat) : Bool × State :=
  (List.range (kvLayerCount (s.seqModels q))).foldl (fun (acc : Bool × State) l =>
    let id := kvObj 3 (entOwner (acc.2.kvEntry q.part q.root l b)) l b
    match acc.2.obj? q.part id with
    | none => acc
    | some o =>
      match acc.2.objContent q.part o with
      | (some _, _) => acc
      | (none, s1) => (false, s1.lostIfKv q.part id)) (true, s)

/-- PREFIX_STORE at a boundary: the first row of Table 9-4 that matches refuses it. -/
def State.doStore (s : State) (c : Cmd) : State :=
  let p := c.hdr.partition
  match s.seqOf p (fieldAt c.input 0 4) with
  | none => s.refuse c stStaleHandle
  | some q =>
    let kv := s.kvLen q.root
    let n := if fieldAt c.input 4 4 == 0 then kv else fieldAt c.input 4 4
    let retired := ((s.model? p q.model q.version).map (fun m => m.retired)).getD true
    if q.ending.isSome then s.refuse c stStaleHandle
    else if kv < n then s.refuse c stBadParameter
    else if retired then s.refuse c stVersionRetired
    else if 16384 ≤ s.prefixes.length then s.refuse c stNoPrefixHandle
    else
      match (List.range 16384).find? (fun i => (s.pref? i).isNone) with
      | none => s.refuse c stNoPrefixHandle
      | some slot =>
        let rd := if n % 256 == 0 then (true, s) else s.readPartial q (n / 256)
        if !rd.1 then rd.2.refuse c stUncorrectableData
        else
        match s.storePrefix q slot n with
        | none => s.refuse c stNoMemory
        | some s1 =>
          let h := ((s1.pref? slot).map (fun x => x.handle)).getD 0
          s1.reply c stOk [] (toLE 8 h ++ toLE 4 n ++ toLE 4 (n / 256 * kvLayerCount (s.seqModels q)))

/-- Every PREFIX_STORE of a partition that awaits its boundary is carried out. -/
def State.doStores (s : State) (p : Nat) : State :=
  let mine := s.stores.filter (fun id => ((s.cmd? id).map (fun c => c.hdr.partition == p)).getD true)
  mine.foldl (fun s id =>
    match s.cmd? id with
    | some c => s.doStore c
    | none => s) { s with stores := s.stores.filter (fun id => !mine.contains id) }

/-! ### Loss (R391, R392) -/

/-- Set LOST in every entry that names a block whose only copy is gone; a prefix with such a block stops being live
(R391). -/
def State.markKvLost (s : State) : State :=
  let s1 := s.seqs.foldl (fun s q => s.markEntries q.part q.root q.len) s
  let s2 := s.prefixes.foldl (fun s x => s.markEntries x.part x.root x.n) s1
  (s.prefixes.filter (fun x => (s2.kvBlocks x.part x.root x.n).any (fun e => entLost e.2.2))).foldl (fun s x => s.endHold x.slot) s2

/-- TIER_PROMOTE and TIER_EVICT: a read that loses a block sets LOST in the entries that name it (R391). -/
def tierPromoteBody (c : Cmd) (s : State) : State := (bodyTierPromote c s).markKvLost
def tierEvictBody (c : Cmd) (s : State) : State := (bodyTierEvict c s).markKvLost

/-- The shared block that a sequence's next rows would write into is read to be copied (R380): a lost one is marked before the
boundary acts on losses. -/
def State.readShared (s : State) (q : Seq) : State :=
  let b := s.kvLen q.root / 256
  (List.range (kvLayerCount (s.seqModels q))).foldl (fun s l =>
    let v := s.kvEntry q.part q.root l b
    let id := kvObj 3 (entOwner v) l b
    if entShared v && s.kvUnreadable q.part id then s.failBlock q.part id else s) s

/-- The lowest lost block number of a sequence. -/
def State.lostBlock (s : State) (q : Seq) : Option Nat :=
  minNat? (((s.kvBlocks q.part q.root q.len).filter (fun e => entLost e.2.2)).map (fun e => e.2.1))

/-- Drop the blocks of a sequence at or above a number on every layer (R392). -/
def State.dropBlocks (s : State) (q : Seq) (b0 : Nat) : State :=
  ((s.kvBlocks q.part q.root q.len).filter (fun e => b0 ≤ e.2.1)).foldl (fun s e =>
    let s1 := if entShared e.2.2 then s
      else (s.delObj q.part (kvObj 3 q.handle e.1 e.2.1)).delObj q.part (kvObj 4 q.handle e.1 e.2.1)
    s1.putEntry q.part q.root e.1 e.2.1 0) s

/-- R392 with the retain-prompt flag: back to PREFILL from the lowest lost block. -/
def State.refill (s : State) (q : Seq) (b0 : Nat) : State :=
  let s1 := ((s.dropBlocks q b0).store (q.root + 4) (toLE 4 (256 * b0))).bump (HDS_KV_CNT q.part) 47 32 1
  s1.setSeq q.idx (fun q => { q with state := 2, toFill := q.len - 256 * b0, d := q.d0 })

/-! ### Far-context attention (R386 to R390) -/

/-- The profile of HDS_KV_CFG matches a KV layer (R388). -/
def State.kvProfileOk (s : State) (p : Nat) (ms : List Model) (l : Nat) : Bool :=
  let pr := s.profile (s.kvFld p 21 16)
  let h := (kvShape ms l).2.1
  pr.ok && pr.fmt == 5 && pr.dims == h && pr.bytes == h && pr.metric == 1

/-- The selection query of a head group is loaded with QLOAD into the slots of a context of one of the partition's walkers (R387, R160);
where every context is in use, what the store holds does not change (log entry 120). -/
def State.loadKvQuery (s : State) (p : Nat) (pr : CodeProfile) (qv : List Byte) : State :=
  let n := pr.querySlots
  match (s.partWalkers p).findSome? (fun w => (s.freeContext w n).map (fun i => s.fld (GGE_WALKER w) 39 32 * 256 + i)) with
  | none => s
  | some slot => { s with spn := s.stacksReady.foldl (fun (a : SpnStores) k =>
      (List.range n).foldl (fun (a : SpnStores) j =>
        { a with query := storeSet a.query k (slot + j) (padTo 2048 (slice qv (2048 * j) 2048)) }.heal k 0 (slot + j)) a) s.spn }

/-- The blocks that a head group of a far layer selects (R387): the query is loaded, the score codes are measured with DIST_SCAN, and a
selection unit picks the nearest. A code that cannot be read gives a NaN distance, which is dropped (R162). -/
def State.selectBlocks (s : State) (q : Seq) (ms : List Model) (l g : Nat) (far : List Nat) : List Nat × State :=
  let p := q.part
  let pr := s.profile (s.kvFld p 21 16)
  let sh := kvShape ms l
  let h := sh.2.1
  let f := (farLayers ms).idxOf l
  let before := sumNat (((farLayers ms).take f).map (fun k => 2 * (kvShape ms k).1))
  let qv := s.bytes (s.kvBase p + s.num (q.root + 12) 4 * 64 + before + 2 * h * g) (2 * h)
  let codes := (far.filter (fun b =>
    let v := s.kvEntry p q.root l b
    entMark v && !entLost v)).map (fun b => (b, s.scoreAddr p (s.ownerRoot (entOwner (s.kvEntry p q.root l b))) f (sh.1 / h) g b h))
  let keys := codes.map (fun e => (e.1, (s.distOf pr qv e.2 h).toNat, 0))
  let s1 := ((s.loadKvQuery p pr qv).measured 2 p h (codes.map (fun e => e.2))).countSel p 0 0
  ((selectTopkKeys 7 (s.kvFld p 55 48) true true false keys).keys.map (fun k => k.id), s1)

/-- The far blocks that a step of a sequence reads on each flagged layer, with whether a landmark may stand in for a late
one (R386 to R388), and the selections made. -/
def State.farPlan (s : State) (q : Seq) : List (Nat × List Nat × Bool) × State :=
  let ms := s.seqModels q
  let sums := s.bit (TIER_POLICY q.part) 4 && !s.bit (TIER_POLICY q.part) 0
  (farLayers ms).foldl (fun (acc : List (Nat × List Nat × Bool) × State) l =>
    let s := acc.2
    let far := (List.range (s.blockTop q l)).filter (fun b => s.isFarBlock q l b && s.kvEntry q.part q.root l b != 0)
    if far.isEmpty then acc
    else if q.far == 0 then (acc.1 ++ [(l, far, false)], s)
    else if !q.stepped then acc
    else if !s.kvProfileOk q.part ms l then
      (acc.1 ++ [(l, far, false)], s.bump (HDS_KV_CNT q.part) 63 56 1)
    else
      let sh := kvShape ms l
      let groups := List.range (sh.1 / sh.2.1)
      let picks := groups.foldl (fun (a : List Nat × State) g =>
        let r := a.2.selectBlocks q ms l g far
        (a.1 ++ r.1, r.2)) ([], s)
      (acc.1 ++ [(l, dedupBy id picks.1, sums)], picks.2)) ([], s)

end Sys2Proof.Machine
end

