-- ==== Sys2Proof/Machine/Sampling.lean ====
section
/-! DEFINITION. Sampling and speculative decoding (spec/08, R340 to R346): the counter-based draws, the distribution of a
position, and the verification of draft tokens. -/

namespace Sys2Proof.Machine

/-! ### Philox-4×32-10 (R345) -/

/-- One round. -/
def philoxRound (k0 k1 : BitVec 32) (c : BitVec 32 × BitVec 32 × BitVec 32 × BitVec 32) :
    BitVec 32 × BitVec 32 × BitVec 32 × BitVec 32 :=
  let a := 0xD2511F53 * c.1.toNat
  let b := 0xCD9E8D57 * c.2.2.1.toNat
  (BitVec.ofNat 32 (b / 2 ^ 32) ^^^ c.2.1 ^^^ k0, BitVec.ofNat 32 b,
    BitVec.ofNat 32 (a / 2 ^ 32) ^^^ c.2.2.2 ^^^ k1, BitVec.ofNat 32 a)

/-- `n` rounds, the key advancing between them. -/
def philoxRun : Nat → BitVec 32 → BitVec 32 → BitVec 32 × BitVec 32 × BitVec 32 × BitVec 32 →
    BitVec 32 × BitVec 32 × BitVec 32 × BitVec 32
  | 0, _, _, c => c
  | n + 1, k0, k1, c => philoxRun n (k0 + 0x9E3779B9) (k1 + 0xBB67AE85) (philoxRound k0 k1 c)

/-- The draw u: top 24 bits of output word 0, over 2^24. The seed's low word is key word 0 (log entry 22). -/
def draw (seed pos purpose round : Nat) : F32 :=
  let r := philoxRun 10 (BitVec.ofNat 32 seed) (BitVec.ofNat 32 (seed / 2 ^ 32))
    (BitVec.ofNat 32 pos, BitVec.ofNat 32 purpose, BitVec.ofNat 32 round, 0)
  (Fp.fin false (r.1.toNat / 256) (-24)).toF32

/-! ### The distribution of a position (R344, R346) -/

/-- The kept entries of a position, in order, with their sum. -/
structure Dist where
  kept : List (Nat × F32) := []
  sum  : F32 := 0
  deriving DecidableEq, Repr, Inhabited

/-- The shortest prefix whose running sum reaches a target. -/
def keepUntil (t : F32) : F32 → List (Nat × F32) → List (Nat × F32)
  | _, [] => []
  | run, e :: es => if fGe (fAdd run e.2) t then [e] else e :: keepUntil t (fAdd run e.2) es

/-- The sampling parameters of a sequence. -/
structure Sampler where
  vocab : Nat
  temp  : F32
  topK  : Nat
  topP  : F32
  seed  : Nat
  deriving DecidableEq, Repr, Inhabited

/-- The largest of a list of logits; none is a NaN where another is not. -/
def maxLogit : List F32 → F32
  | [] => 0
  | x :: xs => xs.foldl fMax x

/-- The selection that sampling a position runs on a selection unit (R344): the argmax over the allowed tokens at temperature 0, else
the k largest of q. -/
def Sampler.selection (a : Sampler) (logit : Nat → F32) (allowed : Nat → Bool) : SelResult :=
  let ts := List.range a.vocab
  if fGe 0 a.temp then selectTopkKeys 7 1 false true false ((ts.filter allowed).map (fun t => (t, (logit t).toNat, 0)))
  else
    let m := maxLogit ((ts.filter allowed).map logit)
    let q (t : Nat) : F32 := if allowed t then vecFn 0x08 (fDiv (fSub (logit t) m) a.temp) else 0
    selectTopkKeys 7 (if a.topK == 0 then a.vocab else a.topK) false true false (ts.map (fun t => (t, (q t).toNat, 0)))

/-- What a sampler's selection leaves beside its result: the NaN keys dropped, for SEL_DROP_CNT, and the entries, index and key, of a
result of more than 4,096, which the selection area takes (R257). -/
def SelResult.tally (r : SelResult) : Nat × List Byte :=
  (r.dropped, if 4096 < r.keys.length + r.fill then
    r.keys.flatMap (fun k => toLE 4 k.id ++ toLE 4 k.raw) ++ (List.replicate r.fill (toLE 4 0xFFFF_FFFF ++ toLE 4 0x7FC0_0000)).flatten
    else [])

/-- The kept entries of a position's logits over the allowed tokens: none where S_sel + S_out is zero, infinite or NaN
(R346). -/
def Sampler.dist (a : Sampler) (logit : Nat → F32) (allowed : Nat → Bool) : Option Dist :=
  let r := a.selection logit allowed
  let total := fAdd r.sel r.out
  if !fFinite total || fGe 0 total then none
  else
    let l := r.keys.map (fun k => (k.id, k.val))
    let kept := if fLt a.topP 0x3F800000 then keepUntil (fMul a.topP total) 0 l else l
    some ⟨kept, fSum (kept.map (fun e => e.2))⟩

/-- The first entry whose running sum exceeds a target. -/
def firstOver (t : F32) : F32 → List (Nat × F32) → Option Nat
  | _, [] => none
  | run, e :: es => if fLt t (fAdd run e.2) then some e.1 else firstOver t (fAdd run e.2) es

/-- The token drawn: the first kept entry whose running sum exceeds u × S, the last kept entry if none. -/
def Dist.pick (d : Dist) (u : F32) : Nat :=
  match firstOver (fMul u d.sum) 0 d.kept with
  | some t => t
  | none => (d.kept.getLast?.map (fun e => e.1)).getD 0

/-- A kept token's probability; 0 for a token that was cut. -/
def Dist.prob (d : Dist) (t : Nat) : F32 :=
  match d.kept.find? (fun e => e.1 == t) with
  | some e => fDiv e.2 d.sum
  | none => 0

/-- The argmax over allowed tokens at temperature 0, ties toward the lower ID; none where every logit is a NaN. -/
def Sampler.argmax (a : Sampler) (logit : Nat → F32) (allowed : Nat → Bool) : Option Nat :=
  (a.selection logit allowed).keys.head?.map (fun k => k.id)

/-- Sample a position with a draw. -/
def Sampler.sample (a : Sampler) (logit : Nat → F32) (allowed : Nat → Bool) (u : F32) : Option Nat :=
  if fGe 0 a.temp then a.argmax logit allowed else (a.dist logit allowed).map (fun d => d.pick u)

/-- A draw from max(0, p − q) renormalised, in descending order, ties toward the lower token; from p where nothing is left
(log entry 22). -/
def residualPick (p q : Dist) (u : F32) : Nat :=
  let r := (p.kept.map (fun e => (e.1, fSub (p.prob e.1) (q.prob e.1)))).filter (fun e => fLt 0 e.2)
  let l := sortBy (fun a b => fLt b.2 a.2 || (!fLt a.2 b.2 && decide (a.1 < b.1))) r
  if l.isEmpty then p.pick u else (Dist.mk l (fSum (l.map (fun e => e.2)))).pick u

/-! ### Verification (R341, R426 to R428) -/

/-- What a sequence samples in a step: the tokens that commit, how many drafts were accepted, the status that ends it after
them, how many masks the Jig delivered, and the tally of each selection. -/
structure Sampled where
  toks     : List Nat := []
  accepted : Nat := 0
  stop     : Option Nat := none
  masks    : Nat := 0
  sels     : List (Nat × List Byte) := []
  deriving DecidableEq, Repr, Inhabited

/-- The grammar of a sequence as the samplers see it: whether a state allows a token, the next state, and whether the
state can be read (R422, R425). Without a grammar every state is 0. -/
structure Masker where
  on     : Bool
  allows : Nat → Nat → Bool
  next   : Nat → Nat → Nat
  bad    : Nat → Bool

/-- Some token is allowed in a state. -/
def Masker.any (g : Masker) (vocab st : Nat) : Bool := (List.range vocab).any (g.allows st)

/-- The draft proposals of a sequence, each with its distribution; whether one could not be sampled, which ends the sequence (R346);
whether a grammar read for one was uncorrectable, which ends it too (R429); and the tally of each selection. -/
structure Drafts where
  props  : List (Nat × Dist) := []
  failed : Bool := false
  bad    : Bool := false
  sels   : List (Nat × List Byte) := []
  deriving DecidableEq, Repr, Inhabited

/-- The draft proposals of a sequence, at most `n`, from position `pos` and a grammar state; `logit r` are the draft model's logits in
round r (R340, R426, R427). -/
def propose (a : Sampler) (g : Masker) (logit : Nat → Nat → F32) (pos : Nat) : Nat → Nat → Nat → Drafts
  | 0, _, _ => {}
  | n + 1, r, st =>
    if g.bad st then { bad := true }
    else if !g.any a.vocab st then {}
    else
      let one := (a.selection (logit r) (g.allows st)).tally
      let d := if fGe 0 a.temp then some {} else a.dist (logit r) (g.allows st)
      match d, a.sample (logit r) (g.allows st) (draw a.seed (pos + r - 1) 1 r) with
      | some d, some t =>
        let x := propose a g logit pos n (r + 1) (g.next st t)
        { x with props := (t, d) :: x.props, sels := one :: x.sels }
      | _, _ => { failed := true, sels := [one] }

/-- Verify the proposals in order from draft position `i` (R341): `logit i` are the main model's logits at position i. -/
def verify (a : Sampler) (g : Masker) (logit : Nat → Nat → F32) (pos : Nat) : List (Nat × Dist) → Nat → Nat → Sampled → Sampled
  | ps, i, st, r =>
    let r := { r with masks := r.masks + if g.on then 1 else 0 }
    if g.bad st then { r with stop := some stUncorrectableData }
    else if !g.any a.vocab st then { r with stop := some stGrammarDeadEnd }
    else
      let r := { r with sels := r.sels ++ [(a.selection (logit i) (g.allows st)).tally] }
      match ps with
      | [] =>
        match a.sample (logit i) (g.allows st) (draw a.seed (pos + i - 1) 0 0) with
        | some t => { r with toks := r.toks ++ [t] }
        | none => { r with stop := some stInternalError }
      | (x, q) :: rest =>
        if fGe 0 a.temp then
          match a.argmax (logit i) (g.allows st) with
          | none => { r with stop := some stInternalError }
          | some t =>
            if t == x then
              verify a g logit pos rest (i + 1) (g.next st x) { r with toks := r.toks ++ [x], accepted := r.accepted + 1 }
            else { r with toks := r.toks ++ [t] }
        else
          match a.dist (logit i) (g.allows st) with
          | none => { r with stop := some stInternalError }
          | some p =>
            if fLt (draw a.seed (pos + i - 1) 2 i) (fDiv (p.prob x) (q.prob x)) then
              verify a g logit pos rest (i + 1) (g.next st x) { r with toks := r.toks ++ [x], accepted := r.accepted + 1 }
            else { r with toks := r.toks ++ [residualPick p q (draw a.seed (pos + i - 1) 0 0)] }

end Sys2Proof.Machine
end

