-- ==== Sys2Proof/Machine/Sequences.lean ====
section
/-! DEFINITION. The sequence table (spec/08): admission, endings, cancellation, appending, status, steering variants and
version turnover; the commit of tokens with the text stages (spec/10). -/

namespace Sys2Proof.Machine

/-! ### Limits of a partition (R361) -/

/-- HDS_PART_CFG of a partition as the step builder and admission see it: a write during a step applies from the step's boundary
(R361). With no step in progress the partition stands at a boundary. -/
def State.partCfg (s : State) (p : Nat) : Reg := ((s.runners.getD p {}).cfg).getD (s.raw (HDS_PART_CFG p))

/-- A field of a register's value. -/
def fieldOf (v : Reg) (hi lo : Nat) : Nat := v.toNat / 2 ^ lo % 2 ^ (hi + 1 - lo)

/-- Fields of HDS_PART_CFG in force. -/
def State.maxSeq (s : State) (p : Nat) : Nat := fieldOf (s.partCfg p) 55 40
def State.rowBudget (s : State) (p : Nat) : Nat := min (fieldOf (s.partCfg p) 39 23) 65536
def State.chunkMax (s : State) (p : Nat) : Nat := min (fieldOf (s.partCfg p) 22 9) 8192
def State.minChunk (s : State) (p : Nat) : Nat := fieldOf (s.partCfg p) 8 0

/-! ### Final events and endings (R85, R88, R130, R328, R347, R419) -/

/-- The usage block. -/
def usageBytes (q : Seq) (delivered : Nat) : List Byte :=
  toLE 4 q.prompt ++ toLE 4 q.made ++ toLE 4 delivered ++ toLE 4 q.fallbacks ++ zeros 16

/-- The conditions that a final event's summary flags: those of retrieval joined with those of generation. -/
def seqConditions (q : Seq) : Bool × Bool × Nat × Nat × Nat :=
  match q.rag with
  | some (sh, pa, f, cov, found) => (sh, pa, f + q.fallbacks, cov, found)
  | none => (false, false, q.fallbacks, 65536, 0)

/-- Count an ending (HDS_END_CNT, TOK_CNT, JIG_CNT, HDS_KV_CNT, HDS_EVENT). -/
def State.countEnding (s : State) (p status : Nat) : State :=
  let s1 := s.bump (HDS_END_CNT p) 31 0 1
  let s2 := if status == stCancelled then s1.bump (HDS_END_CNT p) 47 32 1 else s1
  let s3 := if status == stVersionRetired then s2.bump (HDS_END_CNT p) 63 48 1 else s2
  let s4 := if status == stStopString then s3.bump (TOK_CNT p) 31 16 1 else s3
  let s5 := if status == stGrammarDeadEnd then s4.bump (JIG_CNT p) 63 32 1 else s4
  if status == stKvLost then s5.bump (HDS_KV_CNT p) 55 48 1 else s5

/-- The SEQ_CANCELs that name a sequence, that have an earlier intake stamp than now, and that wait for their start: a cancel counts
by its intake stamp (R91, R350). -/
def State.waitingCancels (s : State) (q : Seq) : List Nat :=
  (s.cmds.filter (fun c => c.hdr.opcode == 0x0403 && c.hdr.partition == q.part && c.phase != .started && c.intake < s.now &&
    c.cancelled.isNone && c.input.length == 8 && fieldAt c.input 0 4 == q.handle && zerosAt c.input 4 4)).map (fun c => c.id)

/-- A SEQ_CANCEL of an intake stamp before `t`, whose handle is still being read, may name the sequence (log entry 85). -/
def State.blindCancel (s : State) (q : Seq) (t : Stamp) : Bool :=
  s.cmds.any (fun c => c.hdr.opcode == 0x0403 && c.hdr.partition == q.part && c.phase == .fetching && c.intake < t &&
    (c.input.length < 4 || fieldAt c.input 0 4 == q.handle))

/-- The ending of a sequence: the entry enters ENDING, the final event is queued with the held items and, but for a stop string, the
text held in both stages (R347, R419). A cancel of an earlier intake stamp that has still to start takes the place of the decided
ending (R350). -/
def State.closeSeq (s : State) (q : Seq) (status : Nat) (last : List (List Byte × List Byte)) : State :=
  let i := q.idx
  let wait := s.waitingCancels q
  let cut : Bool := status != stCancelled && !wait.isEmpty
  let status := if cut then stCancelled else status
  let last := if cut then [] else last
  let st := s.stopStages q.stop
  let u := (Utf8.mk [] 0 st.1).finish
  let tail := if status == stStopString then [] else st.2.1 ++ u.out
  let s0 := if status == stStopString then s else s.bump (TOK_CNT q.part) 15 0 u.reps
  let cond := seqConditions q
  let deg : Bool := 0 < cond.2.2.1
  let final := if status == stOk then partialStatus cond.1 cond.2.1 deg else status
  let items := summaryItems cond.1 cond.2.1 deg cond.2.2.1 cond.2.2.2.1 cond.2.2.2.2
  let stream := { q.stream with held := q.stream.held ++ last }
  let s1 := s0.finalEvent stream final (fun n => tail ++ usageBytes q n) items
  let s2 := (s1.setSeq i (fun q => { q with
    state := 4, ending := some status, verdict := none
    stream := { stream with held := [], window := none, sent := stream.sent + stream.held.length, begun := true } })).dropCmd q.cmd
  let n := stream.sent + stream.held.length
  (wait.foldl (fun s id => s.setCmd id (fun c => { c with cancelled := some n })) s2).countEnding q.part status

/-- Decide a sequence's ending at this stamp (R347). `last` is the item of the token that decided it, if one did. While a SEQ_CANCEL
of an earlier intake stamp is still being read, the entry is in ENDING and its final event waits (R350); a teardown waits for
none. -/
def State.endSeq (s : State) (i status : Nat) (last : List (List Byte × List Byte)) : State :=
  match s.seq? i with
  | none => s
  | some q =>
    if q.ending.isSome then s
    else if s.blindCancel q s.now && !([stCancelled, stContextTornDown, stPartitionDown].contains status) then
      s.setSeq i (fun q => { q with state := 4, ending := some status, verdict := some (status, last, s.now) })
    else s.closeSeq q status last


/-- The entry becomes FREE (R321, R351, R371, R381): its blocks, references and areas are released and its generation
advances. -/
def State.freeSeq (s : State) (i : Nat) : State :=
  match s.seq? i with
  | none => s
  | some q =>
    let mine := (s.dir.filter (fun e => e.1 == q.part && (e.2.id / 2 ^ 60 == 3 || e.2.id / 2 ^ 60 == 4) &&
      e.2.id / 2 ^ 28 % 2 ^ 32 == q.handle)).map (fun e => e.2.id)
    let s1 := (mine.foldl (fun s id => s.delObj q.part id) s).freeKv q.handle
    let s2 := q.refs.foldl (fun s x => State.unrefPrefix 16384 x s) s1
    let gen := if q.gen == 131070 then 1 else q.gen + 1
    { s2 with
      seqs := s2.seqs.filter (fun q => q.idx != i), seqGens := assocSet s2.seqGens i gen, cool := (q.part, i) :: s2.cool }

/-- Free every entry of a partition whose ending is decided: at a layer boundary, and at once where no step runs (R351). -/
def State.freeEnded (s : State) (p : Nat) : State :=
  ((s.seqs.filter (fun q => q.part == p && q.ending.isSome && q.verdict.isNone)).map (fun q => q.idx)).foldl (fun s i => s.freeSeq i) s

/-- End a sequence inside a step: its rows of the step are masked (R308, R351). -/
def State.cutSeq (s : State) (i status : Nat) : State :=
  match s.seq? i with
  | none => s
  | some q =>
    if q.ending.isSome then s
    else
      let s1 := s.endSeq i status []
      let s2 := { s1 with runners := modifyAt s1.runners q.part (fun r =>
        if r.work.any (fun w => w.1 == i) then { r with masked := i :: r.masked } else r) }
      if (s2.runners.getD q.part {}).active || ((s2.seq? i).map (fun q => q.verdict.isSome)).getD true then s2 else s2.freeSeq i

/-- A decided ending that waits is closed with a status, and its entry is freed where no step runs (R351). -/
def State.closeNow (s : State) (q : Seq) (status : Nat) (last : List (List Byte × List Byte)) : State :=
  let s1 := s.closeSeq q status last
  if (s1.runners.getD q.part {}).active then s1 else s1.freeSeq q.idx

/-- A sequence ends whatever is still being read: an ending that was decided before and waits is closed as decided. -/
def State.endNow (s : State) (i status : Nat) : State :=
  match s.seq? i with
  | none => s
  | some q =>
    match q.verdict with
    | some v => s.closeNow q v.1 v.2.1
    | none => s.cutSeq i status

/-- Endings whose SEQ_CANCELs of earlier intake stamps have been read: one that named the sequence has its own effect instead, with no
token of the decision (R350); the others stand. -/
def State.settleEndings (s : State) : State :=
  s.seqs.foldl (fun s q =>
    match q.verdict with
    | some v => if s.blindCancel q v.2.2 then s else s.closeNow q v.1 v.2.1
    | none => s) s

/-- SEQ_CANCEL (R91, R92, R350, R351). A stale handle is answered with the 12-byte payload and a count of 0 (log entry 86); an ending
with OK is answered with OK, whatever conditions its final event carried (log entry 87). -/
def bodySeqCancel (c : Cmd) (s : State) : State :=
  s.shaped c 8 [(4, 4)] fun s =>
    let h := fieldAt c.input 0 4
    let out (n : Nat) : List Byte := toLE 4 h ++ toLE 4 n ++ zeros 4
    match c.cancelled, s.seqOf c.hdr.partition h with
    | some n, _ => s.reply c stCancelled [] (out n)
    | none, none => s.reply c stStaleHandle [] (out 0)
    | none, some q =>
      let n := q.stream.sent + q.stream.held.length
      match q.ending, q.verdict with
      -- decided after this cancel's intake: the decision is discarded (R350)
      | some _, some _ => (s.closeNow q stCancelled []).reply c stCancelled [] (out n)
      | some st, none => s.reply c st [] (out q.stream.sent)
      | none, _ => (s.cutSeq q.idx stCancelled).reply c stCancelled [] (out n)

/-! ### Append, priority, status (R336 to R339) -/

/-- The most tokens that the step in progress may still commit for a sequence: they come before those of an append (R336). -/
def State.stepTokens (s : State) (q : Seq) : Nat :=
  match (s.runners.getD q.part {}).work.find? (fun w => w.1 == q.idx) with
  | some w => if q.state == 3 then w.2.2 else 1
  | none => 0

/-- SEQ_APPEND. The length limit counts what the step in progress may still commit (log entry 135). -/
def bodySeqAppend (c : Cmd) (s : State) : State :=
  let n := fieldAt c.input 4 4
  let ws := (List.range n).map (fun i => fieldAt c.input (8 + 4 * i) 4)
  if c.input.length < 8 || n == 0 || 1048576 < n || c.input.length != 8 + 4 * n then s.refuse c stBadParameter
  else
    match s.seqOf c.hdr.partition (fieldAt c.input 0 4) with
    | none => s.refuse c stStaleHandle
    | some q =>
      if q.ending.isSome then s.refuse c stStaleHandle
      else
        let ok : Bool := match s.vocabs.find? (fun v => v.slot == q.vocab) with
          | some v => ws.all (s.wordOk v)
          | none => false
        if !ok || (q.maxNew != 0 && q.reserve < n) || 16777215 < q.len + s.stepTokens q + q.append.length + n then s.refuse c stBadParameter
        else
          (s.setSeq q.idx (fun q => { q with
            append := q.append ++ ws, reserve := if q.maxNew == 0 then q.reserve else q.reserve - n })).refuse c stOk

/-- SEQ_SET_PRIORITY. -/
def bodySeqSetPriority (c : Cmd) (s : State) : State :=
  s.shaped c 8 [(5, 3)] fun s =>
    let fl := fieldAt c.input 4 1
    if 2 ≤ fl then s.refuse c stReservedNonzero
    else
      match s.seqOf c.hdr.partition (fieldAt c.input 0 4) with
      | none => s.refuse c stStaleHandle
      | some q => (s.setSeq q.idx (fun q => { q with newPrio := some (fl == 1) })).refuse c stOk

/-- The flags byte of an entry (Table 8-2). -/
def Seq.flags (q : Seq) : Nat :=
  let b (x : Bool) (i : Nat) : Nat := if x then 2 ^ i else 0
  b q.prio 0 + b q.finOld 1 + b q.retain 2 + b q.gram 3 + b q.inclStop 4 + b (0 < q.d) 5 + q.far * 64

/-- SEQ_STATUS. -/
def bodySeqStatus (c : Cmd) (s : State) : State :=
  s.shaped c 8 [(4, 4)] fun s =>
    match s.seqOf c.hdr.partition (fieldAt c.input 0 4) with
    | none => s.refuse c stStaleHandle
    | some q =>
      s.reply c stOk [] (toLE 4 q.handle ++ toLE 1 q.state ++ toLE 1 q.flags ++ toLE 1 q.d ++ zeros 1 ++ toLE 4 q.len ++
        toLE 4 q.made ++ toLE 4 q.stream.sent ++ toLE 4 q.fallbacks ++
        toLE 2 (q.ending.getD 0) ++ zeros 6)

/-! ### Admission (R325 to R330, R364, R369, R379, R415) -/

/-- The generation block (Table 8-3). -/
structure GenBlock where
  model    : Nat
  version  : Nat
  variant  : Nat
  draft    : Nat
  draftVer : Nat
  d0       : Nat
  gslot    : Nat
  flags    : Nat
  maxNew   : Nat
  temp     : F32
  topK     : Nat
  topP     : F32
  seed     : Nat
  prefix_  : Nat
  count    : Nat
  stops    : Nat
  reserve  : Nat
  deriving DecidableEq, Repr, Inhabited

/-- Parse Table 8-3. -/
def parseGen (bs : List Byte) : GenBlock :=
  let f := fieldAt bs
  ⟨f 0 2, f 2 2, f 4 2, f 6 2, f 8 2, f 10 1, f 11 1, f 12 2, f 16 4, BitVec.ofNat 32 (f 20 4), f 24 4, BitVec.ofNat 32 (f 28 4),
    f 32 8, f 40 8, f 48 4, f 52 1, f 56 4⟩

/-- Reserved bytes and bits of the block are zero. -/
def genResvOk (bs : List Byte) : Bool :=
  zerosAt bs 14 2 && zerosAt bs 53 3 && zerosAt bs 60 4 && fieldAt bs 12 2 < 128

/-- The block is within Table 8-3, for a prompt of `n` words (R386). -/
def GenBlock.ok (b : GenBlock) (n : Nat) : Bool :=
  b.d0 ≤ 8 && (b.draft != 0xFFFF || b.d0 == 0) && (b.variant == 0xFFFF || b.variant < 4096) &&
  b.flags / 32 % 4 < 2 && (b.temp == 0 || (fGe b.temp 0x3C23D70A && fGe 0x42C80000 b.temp)) &&
  fLt 0 b.topP && fGe 0x3F800000 b.topP && b.stops ≤ 16 && 1 ≤ n && n + b.maxNew + b.reserve ≤ 16777215

/-- The version that a command binds: the current one at its intake where the field is 0xFFFF (R41, R330). -/
def bindVersion (c : Cmd) (model ver : Nat) : Nat := if ver == 0xFFFF then (assoc c.snap.models model).getD 0xFFFF else ver

/-- Logical Lathes and ways of a context's share. -/
def State.share (s : State) (p c : Nat) : Nat × Nat := (s.part p).assign.shares.getD c (0, 0)

/-- A context can run a model: enough Lathes and a kernel way (R119). -/
def State.canRun (s : State) (p c : Nat) (m : Model) : Bool :=
  let sh := s.share p c
  m.lanes ≤ popCount 48 sh.2 && sh.1 != 0

/-- A model has a vocabulary bound, so that it can be named by tokens. -/
def State.modelFor (s : State) (c : Cmd) (id ver : Nat) : Option (Model × Vocab) :=
  match s.model? c.hdr.partition id (bindVersion c id ver), s.vocabFor c.hdr.partition id with
  | some m, some v => some (m, v)
  | _, _ => none

/-- The lowest free entry of the sequence table (R352). -/
def State.freeEntry (s : State) : Option Nat :=
  (List.range 32768).find? (fun i => !s.seqs.any (fun q => q.idx == i) && !s.cool.any (fun e => e.2 == i))

/-- Copy the block-table entries of a prefix into a new table, with SHARED set (R379). -/
def State.adoptPrefix (s : State) (q : Seq) (x : PrefixSlot) : Option State :=
  let ms := s.seqModels q
  let main := (ms.head?.map (fun m => m.kvLayers)).getD 0
  let same := q.draft == x.draft
  ((s.kvBlocks x.part x.root x.n).filter (fun e => e.1 < main || same)).foldl (fun acc e => acc.bind (fun s =>
    let v := e.2.2
    s.setEntry q.part q.handle q.root e.1 e.2.1
      (mkEntry (entOwner v) (entValid v) true (entMark v) (entLost v) (v.testBit 44)))) (some s)

/-- What admission needs of a prompt: its words and stop strings, retrieval conditions, and the report that follows the
accept reply's 16 bytes. -/
structure Prompt where
  words : List Nat
  stops : List (List Byte)
  rag   : Option (Bool × Bool × Nat × Nat × Nat)
  extra : List Byte
  deriving DecidableEq, Repr, Inhabited

/-- Take an entry, its areas and its first blocks; none where space is short (R329, R371, R415). -/
def State.makeSeq (s : State) (q : Seq) (pr : Prompt) (x : Option PrefixSlot) : Option State :=
  let p := q.part
  let ms := s.seqModels q
  let lmax := if q.maxNew == 0 then 16777215 else q.len + q.maxNew + q.reserve
  let rec_ := stopRecord pr.stops
  (s.placeArea (TOK_PART_AREA p) rec_.length 64 (s.textHeld p)).bind fun ta =>
  (s.newTable p q.handle ms (kvPages lmax) 1 (if q.retain then 4 * (lmax - q.plen) else 0) q.prefix_ q.plen).bind fun t =>
    let q1 := { q with root := t.2, stop := ta, text := (ta, rec_.length) }
    let s1 := (t.1.store ta rec_).store (t.2 + 4) (toLE 4 q.plen)
    let s2 := { s1 with seqs := s1.seqs ++ [q1] }
    let s3 : Option State := match x with
      | some x => (s2.adoptPrefix q1 x).map (fun (s : State) => s.setPref x.slot (fun x => { x with refs := x.refs + 1 }))
      | none => some s2
    s3.bind fun s3 =>
      let first := min q.toFill (s3.chunkMax p)
      s3.reserveKv q1 first

/-- The draft model that a generation block names: not asked for, or looked up. -/
def State.genDraft (s : State) (c : Cmd) (b : GenBlock) : Option (Option (Model × Vocab)) :=
  if b.draft == 0xFFFF then none else some (s.modelFor c b.draft b.draftVer)

/-- The variant, the grammar and the held prefix that a generation block names. -/
def genVariant (c : Cmd) (b : GenBlock) : Option Variant :=
  c.snap.variants.find? (fun v => v.num == b.variant)

def State.genGrammar (s : State) (c : Cmd) (b : GenBlock) : Option Grammar :=
  if b.flags.testBit 3 then s.grammar? c.hdr.partition b.gslot else none

def State.genPrefix (s : State) (c : Cmd) (b : GenBlock) : Option PrefixSlot :=
  if b.prefix_ == 0 then none else s.livePref c.hdr.partition b.prefix_ c.intake

/-- The objects that a generation block names do not fit its model and each other (Table 8-5). -/
def State.genMisfit (s : State) (c : Cmd) (b : GenBlock) (m : Model) (v : Vocab) : Bool :=
  let p := c.hdr.partition
  let badVariant : Bool := match genVariant c b with
    | some x => b.variant != 0xFFFF && (x.model != m.id || x.layers != m.layers || x.dModel != m.dModel)
    | none => false
  let badDraft : Bool := match (s.genDraft c b).getD none with
    | some (d, w) => w.slot != v.slot || !s.canRun p c.ctx d || 4095 < m.kvLayers + d.kvLayers || !d.roles.testBit 0
    | none => false
  let badGram : Bool := match s.genGrammar c b with
    | some g => g.vocab != v.slot || g.load != v.load
    | none => false
  badVariant || badDraft || badGram || !m.roles.testBit 0 || !s.canRun p c.ctx m

/-- The held prefix does not fit the model, or the sequence would be too long on it. -/
def State.genPrefixMisfit (s : State) (c : Cmd) (b : GenBlock) (n : Nat) (m : Model) : Bool :=
  match s.genPrefix c b with
  | some x => x.model != m.id || x.version != m.version || x.variant != (if b.variant == 0xFFFF then none else some b.variant) ||
      16777215 < x.n + n + b.maxNew + b.reserve
  | none => false

/-- A real-time sequence would outgrow the KV positions of its plan (R478). -/
def State.genOverPlan (s : State) (c : Cmd) (b : GenBlock) (n : Nat) (m : Model) : Bool :=
  match (s.part c.hdr.partition).plans.find? (fun k => k.ctx == c.ctx && k.model == m.id && k.version == m.version) with
  | some k => c.hdr.svc == 2 && k.kvPos < ((s.genPrefix c b).map (fun x => x.n)).getD 0 + n + b.maxNew
  | none => false

/-- The checks of Table 8-5 in order, up to the sequence's entry: the status of the first that fails. -/
def State.genRefusal (s : State) (c : Cmd) (b : GenBlock) (pr : Prompt) : Option Nat :=
  let n := pr.words.length
  if !b.ok n || pr.stops.length != b.stops || pr.stops.any (fun x => !utf8Ok x) then some stBadParameter
  else
    match s.modelFor c b.model b.version with
    | none => some stUnknownObject
    | some (m, v) =>
      if pr.words.any (fun w => !s.wordOk v w) || v.entries < b.topK then some stBadParameter
      else if s.genDraft c b == some none || (b.variant != 0xFFFF && (genVariant c b).isNone) ||
          (b.flags.testBit 3 && (s.genGrammar c b).isNone) then some stUnknownObject
      else if s.genMisfit c b m v then some stBadParameter
      else if b.prefix_ != 0 && (s.genPrefix c b).isNone then some stStaleHandle
      else if s.genPrefixMisfit c b n m then some stBadParameter
      else if s.genOverPlan c b n m then some stPlanNotAdmitted
      else if s.freeEntry.isNone ||
          s.maxSeq c.hdr.partition ≤ (s.seqs.filter (fun q => q.part == c.hdr.partition)).length then
        some stNoSequenceSlot
      else none

/-- The entry of an admitted sequence (R328). The prompt tokens of its usage block are the words of its own prompt: those of a stored
prefix do not count (log entry 88). -/
def State.newSeq (s : State) (c : Cmd) (b : GenBlock) (pr : Prompt) (m : Model) (v : Vocab) (i : Nat) : Seq :=
  let n := pr.words.length
  let pref := s.genPrefix c b
  let plen := (pref.map (fun x => x.n)).getD 0
  { idx := i, gen := (assoc s.seqGens i).getD 1, part := c.hdr.partition, ctx := c.ctx, cmd := c.id,
    prio := b.flags.testBit 0, finOld := b.flags.testBit 1, retain := b.flags.testBit 2, gram := b.flags.testBit 3,
    inclStop := b.flags.testBit 4, far := b.flags / 32 % 4, d0 := b.d0, d := b.d0, model := m.id,
    version := m.version, variant := if b.variant == 0xFFFF then none else some b.variant
    steering := if b.variant == 0xFFFF then none else genVariant c b
    draft := ((s.genDraft c b).getD none).map (fun (e : Model × Vocab) => (e.1.id, e.1.version)),
    gslot := b.gslot, vocab := v.slot, stops := b.stops, len := plen + n, toFill := n, maxNew := b.maxNew,
    temp := b.temp, topK := b.topK, topP := b.topP, seed := b.seed, prefix_ := b.prefix_, plen := plen,
    auto := ((s.genGrammar c b).map (fun g => g.start)).getD 0, stream := { hdr := c.hdr, kind := 1 }, reserve := b.reserve,
    prompt := n, tokens := pr.words, rag := pr.rag, refs := (pref.map (fun x => x.slot)).toList }

/-- The accept reply of a sequence (R330). -/
def State.acceptSeq (s : State) (c : Cmd) (q : Seq) (pr : Prompt) : State :=
  let cond := seqConditions q
  let deg : Bool := 0 < cond.2.2.1
  s.sendReply c.hdr (partialStatus cond.1 cond.2.1 deg)
    (summaryItems cond.1 cond.2.1 deg cond.2.2.1 cond.2.2.2.1 cond.2.2.2.2)
    (toLE 4 q.handle ++ toLE 4 pr.words.length ++ toLE 4 q.len ++ zeros 4 ++ pr.extra)

/-- A sequence that admission finds at its end: the version has been retired by a turnover since its intake, or is named without the
finish-on-old flag after it (R358; log entry 134), or its prompt alone has the largest length (R349). -/
def State.endAtEntry (s : State) (q : Seq) : State :=
  if !q.finOld && ((s.model? q.part q.model q.version).map (fun m => m.retired)).getD false then s.cutSeq q.idx stVersionRetired
  else if 16777215 ≤ q.len then s.cutSeq q.idx stLengthLimit
  else s

/-- The sequence of an admitted command takes its memory, and the accept reply is sent (R328 to R330). -/
def State.enterSeq (s : State) (c : Cmd) (b : GenBlock) (pr : Prompt) (q : Seq) : State :=
  match s.makeSeq q pr (s.genPrefix c b) with
  | none => s.refuse c stNoMemory
  | some s1 =>
    if !s.bit HDS_CTRL 0 || (b.flags.testBit 3 && !s.bit JIG_CTRL 0) then s.refuseNotReady c
    else (s1.acceptSeq c q pr).endAtEntry q

/-- Admission: the checks of Table 8-5 in order, then the entry and the accept reply (R328 to R330). -/
def State.takeIn (s : State) (c : Cmd) (b : GenBlock) (pr : Prompt) : State :=
  match s.genRefusal c b pr, s.modelFor c b.model b.version, s.freeEntry with
  | some st, _, _ => s.refuse c st
  | none, some (m, v), some i => s.enterSeq c b pr (s.newSeq c b pr m v i)
  | none, _, _ => s

/-- GENERATE (R325). -/
def bodyGenerate (c : Cmd) (s : State) : State :=
  let b := parseGen c.input
  let words := (List.range b.count).map (fun i => fieldAt c.input (64 + 4 * i) 4)
  let area := c.input.drop (64 + 4 * b.count)
  if c.input.length < 64 + 4 * b.count || b.count == 0 || 16777215 < b.count then s.refuse c stBadParameter
  else if !genResvOk c.input then s.refuse c stReservedNonzero
  else
    match parseStops b.stops area with
    | none => s.refuse c stBadParameter
    | some (xs, n) =>
      if 16 < b.stops || area.length != roundUp n 8 || !zerosAt area n (area.length - n) then s.refuse c stBadParameter
      else s.takeIn c b ⟨words, xs, none, []⟩

/-! ### Variants (R353 to R356) -/

/-- A sequence is bound to a variant. -/
def State.variantBound (s : State) (p n : Nat) : Bool := s.seqs.any (fun q => q.part == p && q.variant == some n)

/-- Space of a partition's variant area that is in use beside its stored variants: by variants that a sequence, or a command on
its way to one, has bound and that have been replaced or cleared since (R41). -/
def State.variantsHeld (s : State) (p : Nat) : List Variant :=
  (s.seqs.filterMap (fun q => q.steering)).filter (fun v => v.part == p) ++
  (s.cmds.filter (fun d => d.hdr.partition == p && (d.hdr.opcode == 0x0400 || d.hdr.opcode == 0x0401))).flatMap (fun d =>
    if d.refs.isEmpty then (genVariant d (parseGen d.input)).toList else d.snap.variants)

/-- VARIANT_SET. -/
def bodyVariantSet (c : Cmd) (s : State) : State :=
  let f := fieldAt c.input
  let p := c.hdr.partition
  let num := f 0 2
  let layers := f 4 2
  let d := f 6 2
  let n := 2 * d * layers
  if c.input.length != 16 + n || 4096 ≤ num || layers == 0 || d < 64 || 16384 < d || d % 64 != 0 then s.refuse c stBadParameter
  else if !zerosAt c.input 8 8 then s.refuse c stReservedNonzero
  else
    let old := s.variants.find? (fun v => v.num == num)
    let owner := (old.map (fun v => v.part)).getD p
    if s.variantBound owner num then s.refuseBusy c
    else if owner != p then s.refuse c stNotPermitted
    else
      let rest := s.variants.filter (fun v => v.num != num)
      match s.placeArea (HDS_VARIANT_AREA p) n 64 ((rest.filter (fun v => v.part == p) ++ s.variantsHeld p).map
        (fun v => (v.addr, v.len))) with
      | none => s.refuse c stNoMemory
      | some a =>
        let x : Variant := ⟨num, p, f 2 2, layers, d, a, n⟩
        (({ s with variants := rest ++ [x] }).store a (c.input.drop 16)).refuse c stOk

/-- VARIANT_CLEAR. -/
def bodyVariantClear (c : Cmd) (s : State) : State :=
  s.shaped c 8 [(2, 6)] fun s =>
    let num := fieldAt c.input 0 2
    match s.variants.find? (fun v => v.num == num) with
    | none => s.refuse c (if 4096 ≤ num then stBadParameter else stUnknownObject)
    | some v =>
      if s.variantBound v.part num then s.refuseBusy c
      else if v.part != c.hdr.partition then s.refuse c stNotPermitted
      else ({ s with variants := s.variants.filter (fun v => v.num != num) }).refuse c stOk

/-! ### Turnover (R357 to R359) -/

/-- A turnover of the same model in the partition, received earlier, has not replied yet (R359). -/
def State.turning (s : State) (c : Cmd) : Bool :=
  s.cmds.any (fun d => d.hdr.opcode == 0x0904 && d.hdr.partition == c.hdr.partition && d.id < c.id && d.input.length == 8 &&
    fieldAt d.input 0 2 == fieldAt c.input 0 2)

/-- VERSION_TURNOVER: it waits for the partition's next step boundary. A retiring version that is not there is looked for last (log
entry 133). -/
def bodyVersionTurnover (c : Cmd) (s : State) : State :=
  s.shaped c 8 [(6, 2)] fun s =>
    let p := c.hdr.partition
    let id := fieldAt c.input 0 2
    let old := fieldAt c.input 2 2
    let new := fieldAt c.input 4 2
    if old == new || (s.model? p id new).isNone then s.refuse c stBadParameter
    else if s.turning c then s.refuseBusy c
    else if (s.model? p id old).isNone then s.refuse c stUnknownObject
    else
      let x : Turnover := ⟨p, id, old, new, c.id, none⟩
      { s with turns := s.turns ++ [x] }

/-- The turnovers of a partition take effect at a step boundary (R358). -/
def State.turnover (s : State) (p : Nat) : State :=
  (s.turns.filter (fun t => t.part == p && t.stamp.isNone)).foldl (fun s t =>
    let s1 := { s with
      models := s.models.map (fun (m : Model) =>
        if m.part == p && m.id == t.model then
          { m with current := m.version == t.new, retired := m.version == t.old || (m.retired && m.version != t.new) }
        else m)
      turns := updateWhere s.turns (fun x => x.cmd == t.cmd) (fun x => { x with stamp := some s.now }) }
    let s1 := s1.resnap p (fun n => { n with models := assocSet n.models t.model t.new })
    let s2 := (s1.prefixes.filter (fun x => x.part == p && x.model == t.model && x.version == t.old)).foldl
      (fun s x => s.endHold x.slot) s1
    (s2.seqs.filter (fun q => q.part == p && q.model == t.model && q.version == t.old && !q.finOld)).foldl
      (fun s q => s.endSeq q.idx stVersionRetired []) s2) s

/-- TURNOVER_COMPLETE (R359): no sequence of the retiring version remains active. -/
def turnoverCompleteStep (p id : Nat) (s : State) : State :=
  match s.turns.find? (fun t => t.part == p && t.model == id && t.stamp.isSome) with
  | none => s
  | some t =>
    if s.seqs.any (fun q => q.part == p && q.model == id && q.version == t.old && q.ending.isNone) then s
    else
      let s1 := { s with turns := s.turns.filter (fun x => x.cmd != t.cmd) }
      s1.endWith t.cmd stOk

/-! ### Sequence-table errors (R360) -/

/-- SEQ_TABLE_ERROR: `k` is the entry. An uncorrectable error ends the sequence with HW_FAULT. -/
def seqTableErrorStep (k : Nat) (corrected : Bool) (s : State) : State :=
  if corrected then (s.event HDS_EVENT 0).report ⟨9, 0, k, .corrected⟩
  else ((s.event HDS_EVENT 1).report ⟨9, 0, k, .uncorrectable⟩).cutSeq k stHwFault

/-! ### Commit of tokens (R85, R393, R410 to R419, R349) -/

/-- Hold one item of a sequence's stream, or send it (R86). -/
def State.holdSeqItem (s : State) (i : Nat) (item : List Byte × List Byte) : State :=
  match s.seq? i with
  | none => s
  | some q =>
    let r := s.holdItem q.stream item
    r.1.setSeq i (fun q => { q with stream := r.2 })

/-- Pass a token's bytes through the UTF-8 and stop-string stages (R410 to R418): what is released, and whether a stop
string was completed. -/
def State.textOf (s : State) (q : Seq) (v : Vocab) (t : Nat) : State × List Byte × Bool :=
  let st := s.stopStages q.stop
  let u := utf8Run st.1 (s.tokText v t)
  let r := stopScan st.2.2 st.2.1 u.out
  let s1 := s.bump (TOK_CNT q.part) 15 0 u.reps
  match r.2.2 with
  | some x => (s1.setStages q.stop [] [], r.1 ++ (if q.inclStop then x else []), true)
  | none => (s1.setStages q.stop u.held r.2.1, r.1, false)

/-- Commit one token of a sequence: STOP_STRING first, then OK for an end token, then LENGTH_LIMIT (R419). -/
def State.commitToken (s : State) (i t : Nat) : State :=
  match s.seq? i with
  | none => s
  | some q =>
    if q.ending.isSome then s
    else
      match s.vocabs.find? (fun v => v.slot == q.vocab) with
      | none => s
      | some v =>
        let rd := s.readTok v t
        match rd.2 with
        -- the token's spelling cannot be read: the sequence ends without it (log entry 137)
        | some l => (rd.1.reportVocab q.part (64 * l)).endSeq i stUncorrectableData []
        | none =>
        let s := rd.1
        let word := t + if s.tokClass v t == 2 then 2 ^ 28 else 0
        let (s1, txt, stopped) := s.textOf q v t
        let log := s1.num (q.root + 16) 4
        let s2 := if q.retain && log != 0 then s1.store (s1.kvBase q.part + log * 64 + 4 * (q.len - q.plen)) (toLE 4 word) else s1
        let auto := match (if q.gram then s.grammar? q.part q.gslot else none) with
          | some g => s.gramNext g q.auto t
          | none => q.auto
        let s3 := (s2.bump (HDS_TOKEN_CNT q.part) 31 0 1).setSeq i (fun q => { q with
          len := q.len + 1, made := q.made + 1, tokens := q.tokens ++ [word], auto := auto })
        let item := (toLE 4 t, txt)
        if stopped then s3.endSeq i stStopString [item]
        else if s.tokEnd v t then s3.endSeq i stOk [item]
        else if (q.maxNew != 0 && q.made + 1 == q.maxNew) || 16777215 ≤ q.len + 1 then s3.endSeq i stLengthLimit [item]
        else s3.holdSeqItem i item

end Sys2Proof.Machine
end

