-- ==== Sys2Proof/Machine/Runner.lean ====
section
/-! DEFINITION. The layer-schedule runner (spec/03, R119 to R134; spec/09, R389 and R390): the step plan, the prediction of
layer starts, group fetches with their pins and places in tier 0, shadow fetches, and the fallbacks at a layer's start. -/

namespace Sys2Proof.Machine

/-- The runner of a partition. -/
def State.runner (s : State) (p : Nat) : Runner := s.runners.getD p {}

/-- Change a partition's runner. -/
def State.setRunner (s : State) (p : Nat) (f : Runner → Runner) : State := { s with runners := modifyAt s.runners p f }

/-- The model version in a load slot. -/
def State.slotModel (s : State) (v : Nat) : Option Model := s.models.find? (fun m => m.slot == v)

/-! ### The step plan (R119, R120) -/

/-- The first layer of the backward schedule: the least that a backward group feeds. The layer table runs in execution order,
forward layers first (log entry 23). -/
def Model.split (m : Model) : Nat :=
  match minNat? ((m.bwd.filter (fun g => !g.isUnder)).map (fun g => g.layer)) with
  | some n => n
  | none => m.sched.length

/-- The layers of a model's forward or backward schedule. -/
def Model.layerSpan (m : Model) (back : Bool) : List Nat :=
  if back then (List.range m.sched.length).filter (fun i => m.split ≤ i)
  else if m.split == 0 then List.range m.sched.length
  else List.range m.split

/-- The concatenated schedules of a plan, as the model and the layer index of each plan layer. -/
def State.planLayers (s : State) (plan : List (Nat × Bool)) : List (Model × Nat) :=
  plan.flatMap (fun e =>
    match s.slotModel e.1 with
    | some m => (m.layerSpan e.2).map (fun i => (m, i))
    | none => [])

/-- The groups that a plan consumes, in execution order (R114, R120), each with the plan layer that it feeds. -/
def State.planGroups (s : State) : Nat → List (Nat × Bool) → List GroupRun
  | _, [] => []
  | base, e :: es =>
    match s.slotModel e.1 with
    | none => s.planGroups base es
    | some m =>
      let span := m.layerSpan e.2
      let lo := span.headD 0
      let gs := ((if e.2 then m.bwd else m.fwd).zipIdx.filter (fun g => !g.1.isUnder && lo ≤ g.1.layer)).map (fun g =>
        ({ model := e.1, back := e.2, idx := g.2, layer := base + (g.1.layer - lo) } : GroupRun))
      gs ++ s.planGroups (base + span.length) es

/-- Duration of a plan layer in picoseconds for a number of token rows (Table 3-9). -/
def layerPs (e : Model × Nat) (rows : Nat) : Nat :=
  match e.1.sched[e.2]? with
  | some l => l.base * 1000 + rows * l.perRow
  | none => 0

/-- P(k): the predicted start of plan layer `k`, from the start of the layer that has started last (R122). The sum of durations is
taken in picoseconds and rounded down to a whole nanosecond (log entry 91). -/
def State.predict (s : State) (r : Runner) (k : Nat) : Nat :=
  let ls := (s.planLayers r.plan).drop r.layer
  r.start + sumNat ((ls.take (k - r.layer)).map (fun e => layerPs e r.rows)) / 1000

/-! ### Groups and their objects -/

/-- The model and the group record of a group of the plan. -/
def State.groupRec (s : State) (g : GroupRun) : Option (Model × TileGroup) :=
  match s.slotModel g.model with
  | none => none
  | some m => ((if g.back then m.bwd else m.fwd)[g.idx]?).map (fun x => (m, x))

/-- The understudy group of a group (Table 3-10). -/
def State.underRec (s : State) (g : GroupRun) : Option (Model × TileGroup) :=
  match s.groupRec g with
  | none => none
  | some (m, x) =>
    match (if g.back then m.bwd else m.fwd)[x.under]? with
    | some u => if u.isUnder then some (m, u) else none
    | none => none

/-- The tile objects of a group record. -/
def groupObjs (m : Model) (x : TileGroup) : List Nat :=
  (List.range x.count).map (fun i => tileObjId x.isUnder m.id m.version (x.first + i))

/-- The objects that a group's fetch brings: its own, or its understudy's once the fallback applies. -/
def State.fetchObjs (s : State) (g : GroupRun) : List Nat :=
  match (if g.fell then s.underRec g else s.groupRec g) with
  | some (m, x) => groupObjs m x
  | none => []

/-- The group's only copies are lost (R133). -/
def State.groupGone (s : State) (p : Nat) (g : GroupRun) : Bool :=
  match s.groupRec g with
  | some (m, x) => (groupObjs m x).any (fun id => ((s.obj? p id).map (fun o => o.gone)).getD false)
  | none => false

/-- Every tile of a group is resident in tier 0 (R123). -/
def State.groupIn0 (s : State) (p : Nat) (g : GroupRun) : Bool :=
  match s.groupRec g with
  | some (m, x) => 0 < x.count && (groupObjs m x).all (fun id => ((s.obj? p id).map (fun o => o.tier0)).getD false)
  | none => false

/-- Pin every object of a list; none when a count would pass its limit (R136, R140). -/
def State.pinAll (s : State) (p : Nat) (ids : List Nat) : Option State :=
  ids.foldl (fun acc id => acc.bind (fun (s : State) => s.pin p id)) (some s)

/-- Release one pin of every object of a list. -/
def State.unpinAll (s : State) (p : Nat) (ids : List Nat) : State := ids.foldl (fun s id => s.unpin p id) s

/-! ### Places in tier 0 (R283, R302, R304) -/

/-- The scoreboard's number of a buffer slot. -/
def slotNo (b : LatheBuf) (i : Nat) : Nat :=
  match b with
  | .weight => i
  | .input => 32 + i
  | .output => 64 + i

/-- Slots of a buffer. -/
def bufSlots (b : LatheBuf) : Nat :=
  match b with
  | .output => 16
  | _ => 32

/-- Byte address of a slot in the Lathe window (R26, Table 7-1). -/
def slotAddr (n i : Nat) : Nat := latheWindow n + i * 0x1_0000

/-- A slot of a Lathe. -/
def Lathe.slot (x : Lathe) (i : Nat) : LSlot := (assoc x.slots i).getD {}

/-- A physical Lathe. -/
def State.lathe (s : State) (n : Nat) : Lathe := s.lathes.getD n {}

/-- Change a physical Lathe. -/
def State.setLathe (s : State) (n : Nat) (f : Lathe → Lathe) : State := { s with lathes := modifyAt s.lathes n f }

/-- Make a slot be something. -/
def State.setSlot (s : State) (n i : Nat) (v : LSlot) : State :=
  s.setLathe n (fun x => { x with slots := assocSet x.slots i v })

/-- The partition that owns a Lathe (R317). -/
def State.latheOwner (s : State) (n : Nat) : Option Nat :=
  if s.bit (LTH_ARRAY n) 19 then some (s.fld (LTH_ARRAY n) 23 20) else none

/-- A slot becomes EMPTY; an object that no slot holds any more has left tier 0. -/
def State.emptySlot (s : State) (n i : Nat) : State :=
  let o := ((s.lathe n).slot i).obj
  let s1 := s.setLathe n (fun x => { x with slots := assocDel x.slots i })
  match o with
  | none => s1
  | some id =>
    if s1.lathes.any (fun x => x.slots.any (fun e => e.2.obj == some id)) then s1
    else s1.setObj ((s.latheOwner n).getD 0) id (fun o => { o with tier0 := false })

/-- Device time as array time: units of 1/66 ns. -/
def arrayTime (t : Stamp) : Nat := 66 * t

/-- Every instruction that a Lathe has issued has completed: no slot is being written and no read is pending. -/
def Lathe.idle (x : Lathe) : Bool := x.slots.all (fun e => e.2.st != 3) && x.reads.isEmpty

/-- Set whether a Lathe runs a kernel. -/
def State.setRunning (s : State) (n : Nat) (v : Bool) : State :=
  (s.setLathe n (fun x => { x with running := v, ending := false })).setFld (LTH_ARRAY n) 0 0 (if v then 1 else 0)

/-- What array time has brought about: reads that have ended are pending no longer, a released slot without a pending
reader is EMPTY (R304), and a kernel whose END has issued ends once its instructions have completed. -/
def State.settleLathe (s : State) (n : Nat) : State :=
  let s1 := s.setLathe n (fun x => { x with reads := x.reads.filter (fun r => arrayTime s.now < r.2) })
  let x := s1.lathe n
  let free := (x.slots.filter (fun e => e.2.release && e.2.st == 2 && !x.reads.any (fun r => r.1 == e.1))).map (fun e => e.1)
  let s2 := free.foldl (fun s i => s.emptySlot n i) s1
  if x.ending && (s2.lathe n).idle then s2.setRunning n false else s2

/-- Array time has passed on every Lathe of a partition. -/
def State.settleLathes (s : State) (p : Nat) : State :=
  ((List.range 56).filter (fun n => s.latheOwner n == some p)).foldl (fun s n => s.settleLathe n) s

/-- Slots that a decoded tile of `n` bytes takes. -/
def tileSlots (n : Nat) : Nat := max 1 (ceilDiv n 0x1_0000)

/-- The slots of a place. -/
def placeSlots (d : SlotRef) (bytes : Nat) : List (Nat × Nat) :=
  match d with
  | .slot n b f => (List.range (tileSlots bytes)).map (fun i => (n, slotNo b (f + i)))
  | .way _ => []

/-- The physical Lathe with a logical number (R315). -/
def State.physLathe (s : State) (l : Nat) : Option Nat :=
  (List.range 56).find? (fun n => s.fld (LTH_ARRAY n) 39 32 == l)

/-- Lane `i` of a context runs on the i-th Lathe of its share, in ascending logical order (R119). A retired Lathe whose decision waits
for a spare under test serves none meanwhile (R623). -/
def State.laneOf (s : State) (p c n : Nat) : Option Nat :=
  let out := (s.faults.owed.filter (fun e => e.1 == 4)).map (fun e => s.fld (LTH_ARRAY e.2) 39 32)
  let ls := (bitsOf 48 (s.share p c).2).filter (fun l => !out.contains l)
  let l := s.fld (LTH_ARRAY n) 39 32
  if ls.contains l then some (ls.idxOf l) else none

/-- The step of a context waits for the entry test of a spare that is to take one of its Lathes (R618). -/
def State.awaitsSpare (s : State) (p c : Nat) : Bool :=
  s.faults.entry.any (fun e => s.latheOwner e.1 == some p && (s.laneOf p c e.1).isSome)

/-- The kernel way of a context: the lowest of its ways (R119). -/
def State.kernelWay (s : State) (p c : Nat) : Option Nat := (bitsOf 64 (s.share p c).1).head?

/-- A place can be reserved for a tile: EMPTY slots of one buffer of a Lathe of the context, or a Tool store address in a
way of the context other than its kernel way. -/
def State.placeFree (s : State) (p c : Nat) (d : SlotRef) (bytes : Nat) : Bool :=
  match d with
  | .slot n b f =>
    (s.laneOf p c n).isSome && f + tileSlots bytes ≤ bufSlots b &&
      (placeSlots d bytes).all (fun e => ((s.lathe n).slot e.2).st == 0)
  | .way a =>
    let w := (a - 0x0F00_0000_0000) / 0x30_0000
    0x0F00_0000_0000 ≤ a && a + bytes ≤ toolWay (w + 1) && (s.share p c).1.testBit w && s.kernelWay p c != some w

/-- The size of a tile object in tier 0: that of a weight tile, or an activation tile's with its columns padded to whole tiles of 256
(R141). -/
def State.objBytes (s : State) (p id : Nat) : Nat :=
  match s.obj? p id with
  | none => weightTileBytes 1
  | some o =>
    if o.cols ≤ 256 then weightTileBytes o.fmt else o.rows * roundUp o.cols 256 * (fmtBits o.fmt).getD 8 / 8

/-- The places are as many as the tiles, all can be reserved, and no two share a slot. -/
def State.placesFit (s : State) (p c : Nat) (ids : List Nat) (dst : List SlotRef) : Bool :=
  let pl := ids.zip dst
  dst.length == ids.length && pl.all (fun e => s.placeFree p c e.2 (s.objBytes p e.1)) &&
    !hasRepeat ((pl.flatMap (fun e => placeSlots e.2 (s.objBytes p e.1))).map (fun e => e.1 * 128 + e.2))

/-- Reserve the places: their slots are FILLING (R302). -/
def State.reservePlaces (s : State) (p : Nat) (ids : List Nat) (dst : List SlotRef) : State :=
  ((ids.zip dst).flatMap (fun e => placeSlots e.2 (s.objBytes p e.1))).foldl (fun s e => s.setSlot e.1 e.2 { st := 1 }) s

/-- Release the places of tiles: their slots are EMPTY and their objects are in tier 0 no more. -/
def State.releasePlaces (s : State) (p : Nat) (ids : List Nat) (dst : List SlotRef) : State :=
  (ids.zip dst).foldl (fun s e =>
    let s1 := (placeSlots e.2 (s.objBytes p e.1)).foldl (fun s x => s.emptySlot x.1 x.2) s
    match e.2 with
    | .slot _ _ _ => s1
    | .way _ => s1.setObj p e.1 (fun o => { o with tier0 := false })) s

/-! ### Kernel code (R118, R119) -/

/-- The entries of a schedule layer's lanes. -/
def Model.laneEntries (m : Model) (layer : Nat) : List (Nat × Nat) := (m.entries.drop (layer * m.lanes)).take m.lanes

/-- Where lane `i` of plan layer `k` starts in the kernel way: the halves alternate from layer to layer, and the lanes'
code is packed in order (log entry 24). -/
def State.codeAddr (s : State) (p c : Nat) (e : Model × Nat) (k i : Nat) : Option Nat :=
  (s.kernelWay p c).map (fun w =>
    toolWay w + k % 2 * 0x18_0000 + 16 * sumNat (((e.1.laneEntries e.2).take i).map (fun x => x.2)))

/-- Copy the code of plan layer `k` from tier 1 into its half of the kernel way, unless it has been copied. -/
def State.copyCode (s : State) (p k : Nat) : State :=
  let r := s.runner p
  if r.code.contains k then s
  else
    match (s.planLayers r.plan)[k]? with
    | none => s
    | some e =>
      let s1 := (e.1.laneEntries e.2).zipIdx.foldl (fun s x =>
        match s.codeAddr p r.ctx e k x.2 with
        | some a => s.store a (s.bytes (e.1.kernel + 16 * x.1.1) (16 * x.1.2))
        | none => s) s
      s1.setRunner p (fun r => { r with code := k :: r.code })

/-! ### GROUP_FETCH_ISSUE (R123, R129, R133, R136) -/

/-- The next group to issue: the first that has not been issued and that a fetch can serve. -/
def State.nextGroup (s : State) (p : Nat) : Option (Nat × GroupRun) :=
  let r := s.runner p
  (r.groups.zipIdx.find? (fun g => g.1.issued.isNone && g.1.doneAt.isNone &&
    (g.1.fell || !s.groupGone p g.1))).map (fun g => (g.2, g.1))

/-- Change a group of a partition's plan. -/
def State.setGroup (s : State) (p i : Nat) (f : GroupRun → GroupRun) : State :=
  s.setRunner p (fun r => { r with groups := modifyAt r.groups i f })

/-- The runner issues the next group: a resident group is not fetched; another is issued once its prediction less its lead
has come and its places are free, with its tiles pinned and its layer's code copied first. -/
def groupFetchIssueStep (p : Nat) (dst : List SlotRef) (s0 : State) : State :=
  let s := s0.settleLathes p
  let r := s.runner p
  if !r.active then s
  else
    match s.nextGroup p with
    | none => s
    | some (i, g) =>
      match s.groupRec g with
      | none => s
      | some (_, x) =>
        if s.now + x.lead < s.predict r g.layer && !g.fell then s
        else if !g.fell && s.groupIn0 p g then
          s.setGroup p i (fun g => { g with issued := some s.now, doneAt := some s.now, over_ := true })
        else
          let ids := s.fetchObjs g
          if !s.bit TIER_CTRL 0 || !s.placesFit p r.ctx ids dst then s
          else
            match (if g.fell then some s else s.pinAll p ids) with
            | none => s
            | some s1 =>
              let s2 := (s1.copyCode p g.layer).reservePlaces p ids dst
              (s2.setGroup p i (fun g => { g with issued := some s.now, dst := dst })).setRunner p (fun r =>
                { r with lastIssue := s.now })

/-! ### TILE_FILL_COMPLETE (R110, R141, R302) -/

/-- A tile's content as the tier mover delivers it: transposed on the way where the group says so, an activation tile as the
tiles of 256 rows that follow one another (R141). -/
def delivered (x : TileGroup) (o : TierObj) (bs : List Byte) : List Byte :=
  if x.flags.testBit 0 then transposeTile o.fmt o.rows o.cols bs else bs

/-- Write a tile into its place: its slots become RESIDENT with its format recorded (R299, R302). -/
def State.fillPlace (s : State) (p id fmt : Nat) (d : SlotRef) (bs : List Byte) : State :=
  let s1 := match d with
    | .slot n b f => s.store (slotAddr n (slotNo b f)) bs
    | .way a => s.store a bs
  ((placeSlots d bs.length).foldl (fun s e => s.setSlot e.1 e.2 { st := 2, fmt := fmt, obj := some id }) s1).setObj p id
    (fun o => { o with tier0 := true, last := s1.now })

/-- The layers that wait past their start under the wait fallback: some group or far block of the layer is still to
come. -/
def State.layerWaits (s : State) (p : Nat) : Bool :=
  let r := s.runner p
  r.groups.any (fun g => g.layer == r.layer && g.waits.isSome && g.doneAt.isNone) ||
    r.far.any (fun f => f.at_ == r.layer && f.came.isNone && !f.over_)

/-- Do `f`; if the layer waited before and does not afterwards, its waiting time is counted (TIER_WAIT_TIME). -/
def State.countWait (s : State) (p : Nat) (f : State → State) : State :=
  let s1 := f s
  if s.layerWaits p && !s1.layerWaits p then s1.bump (TIER_WAIT_TIME p) 63 0 (s1.now - (s1.runner p).start) else s1

/-- A tile of a group is complete in its place; the group's first byte arrived no later (R126, log entry 25). A container that cannot
be read from any copy makes the group late. -/
def tileFillCompleteStep (p grp tile : Nat) (dst : SlotRef) (s : State) : State :=
  let r := s.runner p
  match r.groups[grp]? with
  | none => s
  | some g =>
    let ids := s.fetchObjs g
    match (if g.fell then s.underRec g else s.groupRec g), ids[tile]?, (g.dst)[tile]? with
    | some (_, x), some id, some d =>
      if !r.active || g.issued.isNone || g.doneAt.isSome || g.arrived.contains tile || d != dst then s
      else
        match s.obj? p id with
        | none => s
        | some o =>
          match s.objContent p o with
          | (none, s1) => s1.setGroup p grp (fun g => { g with bad := true })
          | (some bs, s1) =>
            s1.countWait p (fun s =>
              let s2 := s.fillPlace p id o.fmt d (delivered x o bs)
              (s2.setGroup p grp (fun g =>
                let a := tile :: g.arrived
                let since := g.issued.getD s2.now
                { g with arrived := a, doneAt := if a.length == ids.length then some s2.now else none
                         first := some (g.first.getD (since + Config.freeBelow s2.freeCtr (s2.now - since + 1))) })).tick)
    | _, _, _ => s

/-! ### RUNNER_CHECK (R125, R126) -/

/-- Rate in tenths of a byte per ns that a partition is assured of for an object (R125): its reserved rate when it is
real-time; otherwise, from tier 2, its weighted part of the link's raw rate, and from tier 1 one grant in four of each
of its pseudo-channels (Table 12-6; log entry 25). -/
def State.assuredRate (s : State) (p : Nat) (o : TierObj) : Nat :=
  let a := (s.part p).assign
  if o.t1.isSome then
    (if a.rt then 10 * s.fld (TIER_RSV_BW p) 31 16 else 93 * popCount 240 a.pch)
  else if a.rt then 10 * s.fld (TIER_RSV_BW p) 15 0
  else
    match (o.t2.bind cxlLinkOf) with
    | none => 0
    | some l =>
      let raw := if s.fld TIER_CXL_STATE (8 * l + 7) (8 * l) == 3 then 550 else 1100
      let all := sumNat (s.parts.map (fun x => (x.assign.cxl.getD l (0, 0, 0)).1))
      if all == 0 then 0 else raw * (a.cxl.getD l (0, 0, 0)).1 / all

/-- Stored bytes of a group, and of its tiles that are complete. -/
def storedBytes (m : Model) (x : TileGroup) : Nat :=
  sumNat ((List.range x.count).map (fun i => (m.tiles.getD (x.first + i) (0, 0, 0)).1))
def tileBytes (m : Model) (x : TileGroup) (is : List Nat) : Nat :=
  sumNat (is.map (fun i => (m.tiles.getD (x.first + i) (0, 0, 0)).1))

/-- When the first byte of a group in flight arrived, if it has: what was seen before, or else a free answer (log entry 25). -/
def State.firstByte (s : State) (g : GroupRun) : Option Stamp :=
  match g.first with
  | some t => some t
  | none =>
    let since := g.issued.getD s.now
    if Config.freeBit s.freeCtr then some (since + Config.freeBelow s.freeCtr (s.now - since + 1)) else none

/-- Stored bytes of a group that have arrived: its complete tiles, and a free part of the others (log entry 25). -/
def State.gotBytes (s : State) (g : GroupRun) (m : Model) (x : TileGroup) : Nat :=
  let whole := tileBytes m x g.arrived
  whole + Config.freeBelow (s.freeCtr + 1) (storedBytes m x - whole)

/-- The projected completion of a group in flight (R126): at the rate since its first byte arrived, and at the assured rate before
that. None: the rate is 0, and the group never completes. -/
def State.projected (s : State) (p : Nat) (g : GroupRun) (m : Model) (x : TileGroup) : Option Nat :=
  match s.obj? p (tileObjId x.isUnder m.id m.version x.first) with
  | none => none
  | some o =>
    match s.firstByte g with
    | none =>
      let rate := s.assuredRate p o
      if rate == 0 then none else some (s.now + storedBytes m x * 10 / rate)
    | some t =>
      let got := s.gotBytes g m x
      if got == 0 then none else some (s.now + (storedBytes m x - got) * (s.now - t) / got)

/-- Space in the partition's ways, the kernel ways of its resident contexts apart, that no fetch of the plan holds. -/
def State.freeWays (s : State) (p : Nat) : Nat :=
  let r := s.runner p
  let inWay (d : SlotRef) : Bool := match d with
    | .way _ => true
    | .slot _ _ _ => false
  let used := sumNat ((r.groups.filter (fun g => !g.over_)).map (fun g =>
    sumNat (((s.fetchObjs g).zip g.dst).map (fun e => if inWay e.2 then s.objBytes p e.1 else 0)) +
      (if g.shadow then (match s.underRec g with
        | some (m, u) => m.groupBytes u
        | none => 0) else 0)))
  let kernels := ((List.range 16).filter (fun c => s.ctxState p c == 1 && (s.kernelWay p c).isSome)).length
  (popCount 64 (s.part p).assign.ways - kernels) * 0x30_0000 - used

/-- RUNNER_CHECK of one group in flight: where its projected completion is not before its layer's predicted start, and a rate of 0
never is (log entry 25), it gets a shadow fetch of its understudy, if its generating-phase fallback is the understudy and the
ways have room. Where in the ways the shadow tiles lie is not tracked (log entry 24). -/
def State.checkGroup (s : State) (p i : Nat) (g : GroupRun) : State :=
  if !(s.runner p).active || g.issued.isNone || g.doneAt.isSome || g.fell || g.over_ then s
  else
    match s.groupRec g with
    | none => s
    | some (m, x) =>
      let late : Bool := match s.projected p g m x with
        | some t => s.predict (s.runner p) g.layer ≤ t
        | none => true
      let s1 := ((s.setGroup p i (fun g => { g with first := s.firstByte g })).tick).tick
      match s.underRec g with
      | none => s1
      | some (_, u) =>
        if late && !g.shadow && x.fbGen == 1 && m.groupBytes u ≤ s.freeWays p && s.bit TIER_CTRL 0 then
          match s1.pinAll p (groupObjs m u) with
          | some s2 => s2.setGroup p i (fun g => { g with shadow := true })
          | none => s1
        else s1

/-- RUNNER_CHECK: every group in flight is checked (R126). -/
def runnerCheckStep (p : Nat) (s : State) : State :=
  (s.runner p).groups.zipIdx.foldl (fun s e => s.checkGroup p e.2 e.1) s

/-! ### Endings of commands in a step -/

/-- A command's own work is dropped: model runs, retrievals, unit jobs. -/
def State.dropWork (s : State) (id : Nat) : State :=
  { s with
    runs := s.runs.filter (fun j => j.cmd != id)
    fetches := s.fetches.filter (fun f => f.cmd != id)
    rags := s.rags.filter (fun r => r.cmd != id)
    jobs := s.jobs.filter (fun j => j.cmd != id)
    stores := s.stores.filter (fun i => i != id)
    embJobs := s.embJobs.filter (fun j => j.cmd != id)
    hotJobs := s.hotJobs.filter (fun j => j.cmd != id)
    colls := s.colls.filter (fun j => j.cmd != id) }

/-- A command ends with a status and no payload. -/
def State.endCmd (s : State) (id status : Nat) : State :=
  let s1 := s.dropWork id
  s1.endWith id status

/-- The sequences and the command of a partition's step end with a status; of a model version alone where one is named. -/
def State.endStepWork (s : State) (p status : Nat) (m : Option Model) : State :=
  let r := s.runner p
  let uses (q : Seq) : Bool := match m with
    | none => true
    | some m => (q.model == m.id && q.version == m.version) || q.draft == some (m.id, m.version)
  let s1 := (r.work.filterMap (fun w => s.seq? w.1)).foldl (fun s q => if uses q then s.cutSeq q.idx status else s) s
  match r.job with
  | some id => (s1.endCmd id status).setRunner p (fun r => { r with job := none })
  | none => s1

/-! ### The start of a schedule layer (R121, R124, R127 to R134, R390) -/

/-- The schedule of a plan that plan layer `k` belongs to. -/
def State.planEntry (s : State) : Nat → List (Nat × Bool) → Nat
  | _, [] => 0
  | k, e :: es =>
    let n := (s.planLayers [e]).length
    if k < n then 0 else s.planEntry (k - n) es + 1

/-- A sequence's fallback count grows by one in a partition's step (R130). -/
def State.raiseFallback (s : State) (p i : Nat) : State :=
  (s.setSeq i (fun q => { q with fallbacks := q.fallbacks + 1 })).setRunner p (fun r => { r with counted := i :: r.counted })

/-- The sequences that have token rows in a plan layer count one fallback each (R130). -/
def State.countFallback (s : State) (p layer : Nat) : State :=
  let r := s.runner p
  ((r.served.getD (s.planEntry layer r.plan) []).filter (fun i => !r.masked.contains i)).foldl (fun s i => s.raiseFallback p i) s

/-- The understudy of a group takes its place (Table 3-11): the fetch is cancelled, its resident tiles are released, and the
places are reserved for the understudy tiles, which are pinned already by a shadow fetch, or are now. None: a pin count would pass
its limit, and nothing changes (R140). -/
def State.takeUnder (s : State) (p i : Nat) (g : GroupRun) (m : Model) (u : TileGroup) : Option State :=
  (if g.shadow then some s else s.pinAll p (groupObjs m u)).map (fun s0 =>
    let s1 := if g.issued.isSome && !g.over_ then
        (s0.unpinAll p (s0.fetchObjs g)).releasePlaces p (s0.fetchObjs g) g.dst
      else s0
    let dst := if g.over_ then [] else g.dst
    let s3 := s1.reservePlaces p (groupObjs m u) dst
    let s4 := s3.setGroup p i (fun g => { g with
      fell := true, shadow := false, arrived := [], doneAt := none, waits := none, bad := false, over_ := false, dst := dst
      issued := if dst.isEmpty then none else some (g.issued.getD s.now) })
    -- the register counts 1 for each group and step, however often the step is run again (Table 3-11)
    let s5 := if (s4.runner p).tallied.contains i then s4 else s4.bump (TIER_FALLBACK_CNT p) 31 0 1
    (s5.setRunner p (fun r => { r with fallbacks := r.fallbacks + 1, tallied := dedupBy id (i :: r.tallied) })).countFallback p g.layer)

/-- A shadow fetch that was not needed is released at the deadline (R126). -/
def State.dropShadow (s : State) (p i : Nat) (g : GroupRun) : State :=
  match s.underRec g with
  | some (m, u) =>
    if g.shadow then (s.unpinAll p (groupObjs m u)).setGroup p i (fun g => { g with shadow := false }) else s
  | none => s

/-- A group whose only copy is lost and that no understudy replaces: what needs it ends with TIER_LOST (R134). -/
def State.groupLost (s : State) (p i : Nat) (g : GroupRun) (m : Model) : State :=
  ((s.dropShadow p i g).setGroup p i (fun g => { g with doneAt := some s.now })).endStepWork p stTierLost (some m)

/-- The deadline of group `i` (R124, R127, R128, R133, R134). An understudy whose pin counts are at their limit cannot be promoted
(R140): the group is then as one that has none (log entry 96). -/
def State.groupDeadline (s : State) (p i : Nat) : State :=
  let r := s.runner p
  match r.groups[i]? with
  | none => s
  | some g =>
    match s.groupRec g with
    | none => s
    | some (m, x) =>
      let exact := s.bit (TIER_POLICY p) 0 || r.rt
      let under (s : State) : Option State := (s.underRec g).bind (fun e => s.takeUnder p i g m e.2)
      if g.fell then s
      else if s.groupGone p g && g.doneAt.isNone then
        let s1 := if g.issued.isSome && g.waits.isNone then s.bump (TIER_LATE_CNT p) 63 32 1 else s
        match (if exact || r.learn then none else under s1) with
        | some s2 => s2
        | none => s1.groupLost p i g m
      else
        let onTime : Bool := match g.doneAt with
          | some t => t < s.now || g.over_
          | none => g.issued.isNone && s.groupIn0 p g
        if onTime then (s.bump (TIER_LATE_CNT p) 31 0 1).dropShadow p i g
        else
          let s1 := s.bump (TIER_LATE_CNT p) 63 32 1
          let fb := if r.learn then x.fbLearn else x.fbGen
          match (if fb == 1 && !exact then under s1 else none) with
          | some s2 => s2
          | none => (s1.dropShadow p i g).setGroup p i (fun g => { g with waits := some s1.now })

/-- A sequence's rows are masked for the rest of the step (R308, R392). -/
def State.maskSeq (s : State) (p i : Nat) : State :=
  s.setRunner p (fun r => if r.masked.contains i then r else { r with masked := i :: r.masked })

/-- A far block at the start of its attention layer (R389, R390, R392). -/
def State.farDeadline (s : State) (p i : Nat) : State :=
  let r := s.runner p
  match r.far[i]? with
  | none => s
  | some f =>
    let gone := ((s.obj? p f.obj).map (fun o => o.gone)).getD true
    let onTime : Bool := match f.came with
      | some t => t < s.now
      | none => false
    let done (s : State) : State := s.setRunner p (fun r => { r with far := modifyAt r.far i (fun f => { f with over_ := true }) })
    if onTime then done s
    else
      match (if f.mark then s.readLandmark p f.obj else none) with
      | some s1 =>
        let key := (f.seq, f.layer, f.block)
        let s2 := done s1
        let s3 := if r.talliedKv.contains key then s2 else
          (s2.bump (TIER_FALLBACK_CNT p) 63 32 1).setRunner p (fun r => { r with talliedKv := key :: r.talliedKv })
        s3.raiseFallback p f.seq
      | none =>
        if gone then (done s).maskSeq p f.seq
        else if f.mark && ((s.obj? p (f.obj + 2 ^ 60)).map (fun x => s.ue1 p x)).getD false then
          ((done (s.failBlock p f.obj)).markKvLost).maskSeq p f.seq
        else s

/-- Pins of the groups and far blocks that a plan layer before `k` consumed are released (Table 3-12). -/
def State.endLayers (s : State) (p k : Nat) : State :=
  let r := s.runner p
  let s1 := r.groups.zipIdx.foldl (fun s e =>
    let g := e.1
    if k ≤ g.layer || g.over_ then s
    else
      let s2 := if g.issued.isSome || g.fell then s.unpinAll p (s.fetchObjs g) else s
      (s2.dropShadow p e.2 g).setGroup p e.2 (fun g => { g with over_ := true })) s
  (r.far.filter (fun f => f.at_ < k && f.pinned)).foldl (fun s f => s.unpin p f.obj) s1 |>.setRunner p (fun r =>
    { r with far := r.far.filter (fun f => k ≤ f.at_) })

/-- At a step's start, each weight group whose only copy is lost takes its understudy at once, and no fetch is issued for it (R133). A
step of the learning phase or under EXACT_ONLY or a real-time plan takes none. -/
def State.lostUnders (s : State) (p : Nat) : State :=
  if s.bit (TIER_POLICY p) 0 || (s.runner p).rt || (s.runner p).learn then s
  else (s.runner p).groups.zipIdx.foldl (fun s e =>
    if e.1.fell || !s.groupGone p e.1 then s
    else ((s.underRec e.1).bind (fun u => s.takeUnder p e.2 e.1 u.1 u.2)).getD s) s

/-- Plan layer `k` starts now: the layer before it ends, ended sequences are freed (R351), and every group and far block that
it consumes meets its deadline. -/
def State.startLayer (s : State) (p k : Nat) : State :=
  let s1 := ((s.endLayers p k).setRunner p (fun r => { r with layer := k, start := s.now })).freeEnded p
  let gs := ((s1.runner p).groups.zipIdx.filter (fun g => g.1.layer == k)).map (fun g => g.2)
  let s2 := gs.foldl (fun s i => s.groupDeadline p i) s1
  let fs := ((s2.runner p).far.zipIdx.filter (fun f => f.1.at_ == k)).map (fun f => f.2)
  fs.foldl (fun s i => s.farDeadline p i) s2

/-- A fetch in flight whose source has just been lost counts as late at once, and nothing waits for what is lost (R128, R134,
R392). -/
def State.fetchesLost (s : State) : State :=
  (List.range 16).foldl (fun s p =>
    if !(s.runner p).active then s
    else
      let gs := ((s.runner p).groups.zipIdx.filter (fun g => (g.1.issued.isSome || g.1.waits.isSome) && !g.1.fell &&
        g.1.doneAt.isNone && s.groupGone p g.1)).map
        (fun g => g.2)
      let s1 := gs.foldl (fun s i => s.groupDeadline p i) s
      let fs := ((s1.runner p).far.zipIdx.filter (fun f => f.1.came.isNone && !f.1.over_ &&
        ((s1.obj? p f.1.obj).map (fun o => o.gone)).getD true)).map (fun f => f.2)
      fs.foldl (fun s i => s.farDeadline p i) s1) s

/-! ### FAR_CONTEXT_KV_FETCH_COMPLETE (R389) -/

/-- A far block has been promoted into tier 1 without decoding; one that cannot be read is lost, and a layer that waits for it waits no
more (R391, R392). -/
def farKvFetchCompleteStep (p obj : Nat) (s : State) : State :=
  if !(s.runner p).far.any (fun f => f.obj == obj && f.pinned && f.came.isNone) then s
  else
    match s.promote p obj false with
    | (st, s1) =>
      if st == stUncorrectableData then s1.countWait p (fun s => s.markKvLost.fetchesLost)
      else if st != stOk then s1
      else s1.countWait p (fun s => s.setRunner p (fun r => { r with
        far := r.far.map (fun f => if f.obj == obj && f.came.isNone then { f with came := some s1.now } else f) }))

end Sys2Proof.Machine
end

