-- ==== Sys2Proof/Machine/Lathe.lean ====
section
/-! DEFINITION. The Lathes (spec/07): kernel starts and wake grants, the issue rule, the instructions of Table 7-5 with the
matrix and vector arithmetic, and the faults that abort a kernel. -/

namespace Sys2Proof.Machine

/-- Bits [hi:lo] of an instruction. -/
def bitsAt (w : BitVec 128) (hi lo : Nat) : Nat := w.toNat / 2 ^ lo % 2 ^ (hi + 1 - lo)

/-- Put an entry into the Lathe error log of 64 entries (R320); a full log drops it. -/
def State.lthLogPut (s : State) (kind n part slot addr : Nat) : State :=
  if 64 ≤ s.lthLog.length then s
  else
    let buf := if slot < 32 then 0 else if slot < 64 then 1 else 2
    let e := BitVec.ofNat 64 (2 ^ 63 + kind * 2 ^ 59 + n * 2 ^ 53 + part * 2 ^ 49 + buf * 2 ^ 47 +
      (slot - 32 * buf) * 2 ^ 41 + addr % 2 ^ 28)
    { s with lthLog := s.lthLog ++ [e] }

/-! ### Aborting kernels (R318, R319) -/

/-- Abort the kernel of one Lathe: it stops issuing, its results are discarded, and every slot that it held is EMPTY. -/
def State.abortLathe (s : State) (n : Nat) : State :=
  let s1 := ((s.lathe n).slots.map (fun e => e.1)).foldl (fun s i => s.emptySlot n i) s
  (s1.setLathe n (fun x => { x with
    reads := [], waiting := none, held := none, lastOut := [], active := none, layers := 0, marks := 0 })).setRunning n false

/-- The physical Lathes of a context. -/
def State.contextLathes (s : State) (p c : Nat) : List Nat := (List.range 56).filter (fun n => (s.laneOf p c n).isSome)

/-- Abort the kernels of a context on every Lathe of the plan; the pins of its fetches are released (Table 3-12). -/
def State.abortKernels (s : State) (p c : Nat) : State :=
  let s1 := (s.contextLathes p c).foldl (fun s n => s.abortLathe n) s
  if (s1.runner p).active && (s1.runner p).ctx == c then
    let s2 := s1.endLayers p 2000000
    s2.setRunner p (fun r => { r with groups := [], far := [], code := [] })
  else s1

/-- The step of a partition ends without its commits: what it served ends with a status (Table 7-13). -/
def State.failStep (s : State) (p status : Nat) : State :=
  let r := s.runner p
  let s1 := (s.endStepWork p status none).abortKernels p r.ctx
  (s1.setRunner p (fun r => { r with active := false, work := [], masked := [] })).freeEnded p

/-- An illegal instruction on a Lathe (R296): logged with its address; the step is not run again. -/
def State.illegal (s : State) (n : Nat) : State :=
  let x := s.lathe n
  let s1 := (s.event LTH_EVENT 3).lthLogPut 4 n x.part 0 ((x.pc - 0x0F00_0000_0000) / 16)
  if (s1.runner x.part).active then s1.failStep x.part stInternalError else s1.abortLathe n

/-! ### Kernel starts, gating and wake grants (R295, R309, R587, R588) -/

/-- A unit requests a wake grant, unless its request is waiting already (R587). -/
def State.askWake (s : State) (u : WakeUnit) : State :=
  if s.wakes.any (fun w => w.unit == u) then s else { s with wakes := s.wakes ++ [⟨u, s.now⟩] }

/-- A gated Lathe requests a wake. -/
def State.askLathe (s : State) (n : Nat) : State := if s.bit (LTH_ARRAY n) 1 then s.askWake (.lathe n) else s

/-- The next plan layer whose kernel a lane has still to run. -/
def nextKernel (ls : List (Model × Nat)) (lane from_ : Nat) : Option (Nat × Model × Nat) :=
  ((ls.zipIdx.drop from_).find? (fun e => decide (lane < e.1.1.lanes))).map (fun e => (e.2, e.1))

/-- KERNEL_START: the runner starts the next kernel on a Lathe of the plan: that of the layer that has started or of the one
after it. A gated Lathe first requests a wake. -/
def kernelStartStep (p n : Nat) (s0 : State) : State :=
  let s := s0.settleLathe n
  let r := s.runner p
  let x := s.lathe n
  match s.laneOf p r.ctx n with
  | none => s
  | some lane =>
    if !r.active || x.running || s.awaitsSpare p r.ctx || s.latheOwner n != some p || s.fld (LTH_ARRAY n) 18 16 != 1 || s.cal.wait.contains (n / 14) then s
    else
      match nextKernel (s.planLayers r.plan) lane x.layers with
      | none => s
      | some (k, m, layer) =>
        let entry := (m.laneEntries layer).getD lane (0, 0)
        if r.layer + 1 < k then s
        else
          let s1 := s.copyCode p k
          match s1.codeAddr p r.ctx (m, layer) k lane with
          | none => s1
          | some a =>
            let s2 := s1.setLathe n (fun x => { x with
              ctx := r.ctx, part := p, pc := a, layers := k + 1, waiting := none, held := none, lastOut := [] })
            if entry.2 == 0 then s2
            else (s2.setRunning n true).askLathe n

/-- LATHE_IDLE_GATE (R309, R474): a Lathe, a spare as well, that runs no kernel and has issued nothing for IDLE_US is gated; those of
a real-time partition never are, and neither is one under its test, whose patterns are no instructions (log entry 132). -/
def latheIdleGateStep (n : Nat) (s : State) : State :=
  let x := s.lathe n
  let rt : Bool := match s.latheOwner n with
    | some p => (s.part p).assign.rt
    | none => false
  let st := s.fld (LTH_ARRAY n) 18 16
  if s.bit LTH_CTRL 1 && st != 0 && st != 2 && !x.running && !rt && !s.bit (LTH_ARRAY n) 1 &&
      x.lastIssue + s.fld LTH_IDLE_CFG 15 0 * 1000 ≤ s.now then
    s.setFld (LTH_ARRAY n) 1 1 1
  else s

/-- Charge of the ramps whose windows hold an instant (R587). -/
def State.rampCharge (s : State) (t : Stamp) : Nat :=
  sumNat ((s.ramps.filter (fun r => t < r.1)).map (fun r => r.2))

/-- Charge in A/µs and ramp in ns of a wake (Table 15-12). -/
def WakeUnit.charge : WakeUnit → Nat
  | .lathe _ => 47
  | .ways _ => 20
  | .walkers _ => 12
def WakeUnit.ramp : WakeUnit → Nat
  | .lathe _ => 500
  | _ => 200

/-- The unit counts against the Lathe grants of a window. -/
def WakeUnit.isLathe : WakeUnit → Bool
  | .lathe _ => true
  | _ => false

/-- The place of a unit in the rotation: Lathes by logical number, then groups of ways, then groups of walkers (log entry 72). -/
def State.wakePlace (s : State) : WakeUnit → Nat
  | .lathe n => s.fld (LTH_ARRAY n) 39 32
  | .ways g => 256 + g
  | .walkers g => 272 + g

/-- Both conditions of R587 hold for a unit now, and R588 withholds nothing. -/
def State.canWake (s : State) (u : WakeUnit) : Bool :=
  s.bit PWR_CTRL 1 && s.fld PWR_STATE 2 0 != 2 && s.fld PWR_STATE 2 0 != 3 &&
    s.rampCharge s.now + u.charge ≤ s.fld PWR_WAKE_CFG 15 0 &&
    (!u.isLathe || (s.wakeGrants.filter (fun t => t / s.fld PWR_WAKE_CFG 47 32 == s.now / s.fld PWR_WAKE_CFG 47 32)).length <
      s.fld PWR_WAKE_CFG 31 24)

/-- A wake is granted: its ramp starts, and a Lathe is gated no more. -/
def State.grantWake (s : State) (w : WakeReq) : State :=
  let s1 := { s with
    wakes := s.wakes.filter (fun x => x.unit != w.unit)
    ramps := (s.now + w.unit.ramp, w.unit.charge) :: s.ramps.filter (fun r => s.now < r.1)
    wakeGrants := if w.unit.isLathe then s.now :: s.wakeGrants.take 3 else s.wakeGrants
    wakeLast := granted s.wakeLast (s.wakePlace w.unit) }
  let s2 := s1.bump PWR_WAKE_CNT 31 0 1
  let s3 := if w.since < s.now then s2.bump PWR_WAKE_CNT 63 32 1 else s2
  match w.unit with
  | .lathe n => (s3.setFld (LTH_ARRAY n) 1 1 0).setLathe n (fun x => { x with lastIssue := s.now })
  | _ => s3

/-- WAKE_GRANT: of the requests that both conditions allow, the next in rotation is granted. -/
def wakeGrantStep (s : State) : State :=
  let ws := s.wakes.filter (fun w => s.canWake w.unit)
  match rotate s.wakeLast (ws.map (fun w => s.wakePlace w.unit)) with
  | none => s
  | some l =>
    match ws.find? (fun w => s.wakePlace w.unit == l) with
    | none => s
    | some w => s.grantWake w

/-! ### The issue rule (R302, R303, R306) -/

/-- Cycle time of a Lathe in array time: 55 at 1.2 GHz, 60 at 1.1 GHz, longer at a lower duty (R585). -/
def State.cycle (s : State) (n : Nat) : Nat :=
  (if s.bit (LTH_ARRAY n) 40 then 60 else 55) * 16 / max 1 (s.fld PWR_STATE 36 32)

/-- A slot may be read: RESIDENT. -/
def Lathe.canRead (x : Lathe) (i : Nat) : Bool := (x.slot i).st == 2

/-- A slot may be written: EMPTY or RESIDENT, with no pending reader and no pending writer. -/
def Lathe.canWrite (x : Lathe) (i : Nat) : Bool :=
  ((x.slot i).st == 0 || (x.slot i).st == 2) && !x.reads.any (fun r => r.1 == i)

/-- A Lathe can issue at all: it is in service, runs a kernel, is not gated, and issue is enabled. -/
def State.issuing (s : State) (n : Nat) : Bool :=
  let x := s.lathe n
  x.running && !x.ending && s.fld (LTH_ARRAY n) 18 16 == 1 && s.bit LTH_CTRL 0 && !s.bit (LTH_ARRAY n) 1

/-- The instruction comes from a Tool store way that the partition owns (R296). -/
def State.fetchOk (s : State) (n : Nat) : Bool :=
  let x := s.lathe n
  (s.part x.part).assign.ways.testBit ((x.pc - 0x0F00_0000_0000) / 0x30_0000)

/-- One instruction `w` of a Lathe: not fetched where nothing can issue or an earlier one is held back; illegal where its way or
its fields are not allowed; held back, with the slot that it waits for, where the issue rule does not allow it; otherwise issued
with its effect. `stuck` gives that slot, if any. -/
def State.instr (s0 : State) (n : Nat) (w : BitVec 128) (ok : State → Bool) (stuck : State → Option Nat)
    (effect : State → State) : State :=
  let s := s0.settleLathe n
  if !s.issuing n || (s.lathe n).held.any (fun v => v != w) then s
  else if !s.fetchOk n || !ok s then s.illegal n
  else
    match stuck s with
    | some i => s.setLathe n (fun x => { x with
        waiting := some ((x.waiting.map (fun e => e.1)).getD s.now, i), held := some w })
    | none => (effect s).setLathe n (fun x => { x with waiting := none, held := none, lastIssue := s.now, pc := x.pc + 16 })

/-- The Lathe's current schedule layer waits for a group or a far block past its start (R127): its instructions do not
issue. -/
def State.layerHeld (s : State) (n : Nat) : Bool :=
  let x := s.lathe n
  (s.runner x.part).active && x.marks == (s.runner x.part).layer && s.layerWaits x.part

/-- An instruction of the layer's own work: held without a stall while the layer waits. -/
def State.instrOfLayer (s : State) (n : Nat) (w : BitVec 128) (ok : State → Bool) (stuck : State → Option Nat)
    (effect : State → State) : State :=
  if s.layerHeld n then (if s.issuing n then s.setLathe n (fun x => { x with held := some (x.held.getD w) }) else s)
  else s.instr n w ok stuck effect

/-! ### Control instructions (Table 7-5) -/

/-- Bits that an opcode does not name are zero: `m` is the mask of those it names. -/
def reservedOk (w : BitVec 128) (m : Nat) : Bool := w.toNat % 2 ^ 120 &&& m == w.toNat % 2 ^ 120

/-- Mask of bits [hi:lo]. -/
def maskOf (hi lo : Nat) : Nat := (2 ^ (hi + 1 - lo) - 1) * 2 ^ lo

/-- NOP. -/
def nopStep (n : Nat) (w : BitVec 128) (s : State) : State :=
  s.instr n w (fun _ => reservedOk w 0) (fun _ => none) (fun s => s)

/-- END: the kernel ends once every issued instruction has completed. -/
def endStep (n : Nat) (w : BitVec 128) (s : State) : State :=
  s.instr n w (fun _ => reservedOk w 0) (fun _ => none) (fun s =>
    if (s.lathe n).idle then s.setRunning n false else s.setLathe n (fun x => { x with ending := true }))

/-- The slot that a FENCE waits for: one that an earlier instruction still writes or reads. -/
def Lathe.fenceStuck (x : Lathe) : Option Nat :=
  if x.idle then none
  else some ((((x.slots.find? (fun e => e.2.st == 3)).map (fun e => e.1)).orElse (fun _ => x.reads.head?.map (fun r => r.1))).getD 0)

/-- FENCE: issues when every earlier instruction has completed. -/
def fenceStep (n : Nat) (w : BitVec 128) (s : State) : State :=
  s.instr n w (fun _ => reservedOk w 0) (fun s => (s.lathe n).fenceStuck) (fun s => s)

/-- The slots that a control instruction names. -/
def namedSlots (b first count : Nat) : List Nat := (List.range count).map (fun i => 32 * b + first + i)

/-- The slots of a RELEASE, and the one that it waits for. -/
def releaseSlots (w : BitVec 128) : List Nat := namedSlots (bitsAt w 119 118) (bitsAt w 117 112) (bitsAt w 111 106 + 1)
def Lathe.releaseStuck (x : Lathe) (w : BitVec 128) : Option Nat :=
  (releaseSlots w).find? (fun i => (x.slot i).st == 1 || (x.slot i).st == 4)

/-- RELEASE: the slots become EMPTY after their last pending read (R304). -/
def releaseStep (n : Nat) (w : BitVec 128) (s : State) : State :=
  let b := bitsAt w 119 118
  let first := bitsAt w 117 112
  let count := bitsAt w 111 106 + 1
  let sl := releaseSlots w
  s.instr n w (fun _ => reservedOk w (maskOf 119 106) && b < 3 && first + count ≤ (if b == 2 then 16 else 32))
    (fun s => (s.lathe n).releaseStuck w)
    (fun s =>
      (sl.foldl (fun s i =>
        let v := (s.lathe n).slot i
        if v.st == 0 then s else s.setSlot n i { v with release := true }) s).settleLathe n)

/-- The slots of a DRAIN, and the one that it waits for. -/
def drainSlots (w : BitVec 128) : List Nat := namedSlots 2 (bitsAt w 119 116) (bitsAt w 115 112 + 1)
def Lathe.drainStuck (x : Lathe) (w : BitVec 128) : Option Nat :=
  (drainSlots w).find? (fun i => (x.slot i).st != 2 && (x.slot i).st != 3)

/-- DRAIN: the output slots become DRAINING once their pending writes are complete. -/
def drainStep (n : Nat) (w : BitVec 128) (s : State) : State :=
  let first := bitsAt w 119 116
  let count := bitsAt w 115 112 + 1
  let tag := bitsAt w 111 96
  let sl := drainSlots w
  s.instrOfLayer n w (fun _ => reservedOk w (maskOf 119 96) && first + count ≤ 16)
    (fun s => (s.lathe n).drainStuck w)
    (fun s => sl.foldl (fun s i =>
      let v := (s.lathe n).slot i
      if v.st == 3 then s.setSlot n i { v with drain := true, tag := tag } else s.setSlot n i { v with st := 4, tag := tag }) s)

/-- DRAIN_COMPLETE: the tier mover has read the slot out. -/
def drainCompleteStep (n slot : Nat) (s : State) : State :=
  if ((s.lathe n).slot (64 + slot)).st == 4 then s.emptySlot n (64 + slot) else s

/-- SLOT_WRITE_COMPLETE: the last result row is written; the slot is RESIDENT, or DRAINING where a DRAIN waits for it
(R304). -/
def slotWriteCompleteStep (n : Nat) (b : LatheBuf) (slot : Nat) (s : State) : State :=
  let i := slotNo b slot
  let v := (s.lathe n).slot i
  if v.st != 3 then s.settleLathe n
  else if v.drain then (s.setSlot n i { v with st := 4, drain := false }).settleLathe n
  else (s.setSlot n i { v with st := 2 }).settleLathe n

/-- The slots that a SEND_SEL reads, and the one that it waits for. -/
def sendSlots (w : BitVec 128) : List Nat :=
  namedSlots (if bitsAt w 111 111 == 1 then 1 else 2) (bitsAt w 119 112) (tileSlots (65536 * (fmtBits (bitsAt w 94 91)).getD 32 / 8))
def Lathe.sendStuck (x : Lathe) (w : BitVec 128) : Option Nat := (sendSlots w).find? (fun i => !x.canRead i)

/-- SEND_SEL: the rows are streamed to the selection unit of the request tag. -/
def sendSelStep (n : Nat) (w : BitVec 128) (s : State) : State :=
  let slot := bitsAt w 119 112
  let inp := bitsAt w 111 111
  let rows := bitsAt w 110 103 + 1
  let cols := bitsAt w 102 95 + 1
  let fmt := bitsAt w 94 91
  let tag := bitsAt w 63 32
  let bits := (fmtBits fmt).getD 32
  let cnt := tileSlots (65536 * bits / 8)
  let sl := sendSlots w
  s.instrOfLayer n w
    (fun _ => reservedOk w (maskOf 119 91 ||| maskOf 63 32) && [1, 2, 4, 7, 9].contains fmt &&
      slot + cnt ≤ (if inp == 1 then 32 else 16))
    (fun s => (s.lathe n).sendStuck w)
    (fun s =>
      let base := slotAddr n (sl.headD 0)
      let data := (List.range rows).map (fun i =>
        let row := s.bytes (base + i * 256 * bits / 8) (cols * bits / 8)
        (List.range cols).map (fun j => elemAt bits row j))
      let e := arrayTime s.now + rows * s.cycle n
      let s1 := { s with selIn := s.selIn ++ [(tag, fmt, data)] }
      s1.setLathe n (fun x => { x with reads := x.reads ++ sl.map (fun i => (i, e)) }))

/-- LAYER (R297): the plan layer whose instructions begin here on this Lathe: the kernel's own layer, or the next one where
the index is that layer's. When the last Lathe of the plan has issued it, the layer starts. -/
def layerStep (n : Nat) (w : BitVec 128) (s : State) : State :=
  let index := bitsAt w 119 104
  s.instr n w (fun _ => reservedOk w (maskOf 119 104)) (fun _ => none) (fun s =>
    let x := s.lathe n
    let p := x.part
    let r := s.runner p
    let ls := s.planLayers r.plan
    let k := x.layers - 1
    match ls[k]? with
    | none => s
    | some (m, i) =>
      let pos := if i == index then some k
        else if (ls[k + 1]?).map (fun (e : Model × Nat) => e.2) == some index then some (k + 1) else none
      match pos with
      | none => s
      | some j =>
        let s1 := s.setLathe n (fun x => { x with marks := max x.marks j })
        let lanes := (s1.contextLathes p r.ctx).filter (fun y =>
          match s1.laneOf p r.ctx y with
          | some l => l < m.lanes
          | none => false)
        if r.active && r.layer < j && lanes.all (fun y => j ≤ (s1.lathe y).marks) then s1.startLayer p j else s1)

/-! ### MATMUL (R288 to R291, R294, R298 to R300, R307, R308, R310) -/

/-- Format pairs of Table 7-3. -/
def pairOk (wf xf : Nat) : Bool :=
  let fp8 (f : Nat) : Bool := f == 1 || f == 2
  (fp8 wf && fp8 xf) || (wf == 3 && xf == 3) || (wf == 3 && fp8 xf) || (wf == 4 && xf == 4) || (wf == 5 && xf == 5) ||
    (wf == 6 && xf == 6) || (wf == 8 && xf == 8)

/-- Bytes of `n` elements of a format, block scales included. -/
def elemBytes (f n : Nat) : Nat := if f == 3 then n / 2 + n / 32 else n * (fmtBits f).getD 8 / 8

/-- Element `i` of a tile of `total` elements. -/
def tileElem (f total : Nat) (bs : List Byte) (i : Nat) : Fp :=
  if f == 3 then fp4Value (fieldAt bs (total / 2 + i / 32) 1) (elemAt 4 bs i)
  else elemValue f (elemAt ((fmtBits f).getD 8) bs i)

/-- A product: exact, but that of an FP4 element is rounded to FP32 (R288). -/
def latheProduct (wf : Nat) (a b : Fp) : Fp := if wf == 3 then f32 (a.mul b).toF32 else a.mul b

/-- The column sum in FP32, each addition rounded, from the first product on (R288, R289); of INT8 and binary products the
exact integer sum, whose zero has no sign (R290). -/
def columnSum (wf : Nat) : List Fp → Fp
  | [] => .fin false 0 0
  | x :: xs =>
    if wf == 6 || wf == 8 then (Fp.fin false 0 0).add (xs.foldl Fp.add x)
    else xs.foldl (fun a y => f32 (a.add y).toF32) x

/-- The products of one output element in the order of their addition: in pair mode, those of the two tiles in turn. -/
def dotTerms (wf xf : Nat) (tiles : List (List Byte)) (x : List Byte) (width col0 k row n : Nat) : List Fp :=
  let xe (c : Nat) : Fp := tileElem xf (256 * width) x (row * width + c)
  let we (t : List Byte) (kk : Nat) : Fp := tileElem wf 65536 t (kk * 256 + n)
  match tiles with
  | [a, b] => (List.range k).flatMap (fun kk =>
      [latheProduct wf (we a kk) (xe (col0 + 2 * kk)), latheProduct wf (we b kk) (xe (col0 + 2 * kk + 1))])
  | _ => (List.range k).map (fun kk => latheProduct wf (we (tiles.headD []) kk) (xe (col0 + kk)))

/-- A step row is set in the partition's step row mask (R308): it belongs to a masked entry. -/
def State.rowMasked (s : State) (p row : Nat) : Bool :=
  let r := s.runner p
  r.work.any (fun w => r.masked.contains w.1 && decide (w.2.1 ≤ row) && decide (row < w.2.1 + w.2.2))

/-- The fields of a MATMUL (Table 7-6). -/
structure MatOp where
  wfmt : Nat
  ifmt : Nat
  flags : Nat
  wslot : Nat
  islot : Nat
  c    : Nat
  col  : Nat
  oslot : Nat
  k    : Nat
  n    : Nat
  m    : Nat
  base : Nat
  deriving DecidableEq, Repr, Inhabited

/-- Parse Table 7-6. -/
def parseMat (w : BitVec 128) : MatOp :=
  ⟨bitsAt w 119 116, bitsAt w 115 112, bitsAt w 111 104, bitsAt w 103 96, bitsAt w 95 88, bitsAt w 87 82 + 1, bitsAt w 81 76,
    bitsAt w 75 72, bitsAt w 71 64 + 1, bitsAt w 63 56 + 1, bitsAt w 55 48 + 1, bitsAt w 47 32⟩

/-- Flags of a MATMUL. -/
def MatOp.acc (o : MatOp) : Bool := o.flags.testBit 0
def MatOp.keep (o : MatOp) : Bool := o.flags.testBit 3
def MatOp.step (o : MatOp) : Bool := o.flags.testBit 4

/-- Pair mode (R299). -/
def MatOp.pair (o : MatOp) : Bool := o.wfmt == 3 && o.ifmt == 3

/-- The weight format in use: 0xF takes the one recorded for the weight slot at fill, or that of the active weights. -/
def MatOp.fmt (o : MatOp) (x : Lathe) : Nat :=
  if o.wfmt != 15 then o.wfmt
  else if o.keep then (x.active.map (fun a => a.1)).getD 0
  else (x.slot o.wslot).fmt

/-- Weight, input and output slots of a MATMUL. -/
def MatOp.wslots (o : MatOp) (x : Lathe) : List Nat :=
  if o.keep then []
  else (List.range ((if o.pair then 2 else 1) * tileSlots (weightTileBytes (o.fmt x)))).map (fun i => o.wslot + i)
def MatOp.islots (o : MatOp) : List Nat :=
  (List.range (tileSlots (elemBytes o.ifmt (256 * 64 * o.c)))).map (fun i => 32 + o.islot + i)
def MatOp.oslots (o : MatOp) : List Nat := (List.range 4).map (fun i => 64 + o.oslot + i)

/-- The fields are within their ranges, whatever the weight slot holds (R296, R298, R308). -/
def MatOp.fieldsOk (o : MatOp) (w : BitVec 128) : Bool :=
  bitsAt w 31 0 == 0 && o.flags < 32 && (o.keep || o.wslot < 32) && o.islot + o.islots.length ≤ 32 && o.oslot % 4 == 0 &&
    64 * o.col + (if o.pair then 2 else 1) * o.k ≤ 64 * o.c &&
    (if o.step then o.base + o.m - 1 ≤ 65535 else o.base == 0) && (o.wfmt == 15 || pairOk o.wfmt o.ifmt)

/-- The pair and the weight tile's place are allowed, once the weight slot's format is known; with KEEP_W the preceding
MATMUL used the same pair (R300). -/
def MatOp.pairOk (o : MatOp) (x : Lathe) : Bool :=
  let wf := o.fmt x
  Machine.pairOk wf o.ifmt && !(o.wfmt == 15 && wf == 3 && o.ifmt == 3) &&
    (if o.keep then
      (match x.active with
       | some (f, g, ts) => f == wf && g == o.ifmt && (ts.length == if o.pair then 2 else 1)
       | none => false)
     else o.wslot + (o.wslots x).length ≤ 32)

/-- The fields are legal in a state: the recorded format counts once the weight slot is RESIDENT. -/
def MatOp.legal (o : MatOp) (w : BitVec 128) (x : Lathe) : Bool :=
  o.fieldsOk w && ((o.wfmt == 15 && !o.keep && (x.slot o.wslot).st != 2) || o.pairOk x)

/-- The slot that keeps a MATMUL from issuing (R302): with ACC, the immediately preceding MATMUL may still be writing the
same output slots. -/
def MatOp.stuck (o : MatOp) (x : Lathe) : Option Nat :=
  let chain := o.acc && x.lastOut == o.oslots &&
    o.oslots.all (fun i => (x.slot i).st == 3 || ((x.slot i).st == 2 && x.canWrite i))
  if o.wfmt == 15 && !o.keep && !x.canRead o.wslot then some o.wslot
  else
    ((o.wslots x ++ o.islots).find? (fun i => !x.canRead i)).orElse (fun _ =>
      if chain then none else o.oslots.find? (fun i => !x.canWrite i || (o.acc && (x.slot i).st != 2)))

/-- Weight tiles that a MATMUL uses: the active ones with KEEP_W, otherwise those of its weight slots. -/
def State.matTiles (s : State) (n : Nat) (o : MatOp) : List (List Byte) :=
  let x := s.lathe n
  if o.keep then (x.active.map (fun a => a.2.2)).getD []
  else
    let len := weightTileBytes (o.fmt x)
    (List.range (if o.pair then 2 else 1)).map (fun i => s.bytes (slotAddr n (o.wslot + i * tileSlots len)) len)

/-- One output row: the columns' sums, added to the row's old values with ACC. -/
def State.matRow (s : State) (n : Nat) (o : MatOp) (tiles : List (List Byte)) (x : List Byte) (i : Nat) : List F32 :=
  let wf := o.fmt (s.lathe n)
  let a := slotAddr n (64 + o.oslot) + i * 1024
  (List.range o.n).map (fun j =>
    let sum := columnSum wf (dotTerms wf o.ifmt tiles x (64 * o.c) (64 * o.col) o.k i j)
    if o.acc then ((f32 (BitVec.ofNat 32 (s.num (a + 4 * j) 4))).add sum).toF32 else sum.toF32)

/-- The rows that a MATMUL writes: a masked step row is not written (R308). -/
def State.matRows (s : State) (n : Nat) (o : MatOp) : List Nat :=
  (List.range o.m).filter (fun i => !(o.step && s.rowMasked (s.lathe n).part (o.base + i)))

/-- Write the sums of a MATMUL into its output tile. -/
def State.matWrite (s : State) (n : Nat) (o : MatOp) : State :=
  let tiles := s.matTiles n o
  let x := s.bytes (slotAddr n (32 + o.islot)) (elemBytes o.ifmt (256 * 64 * o.c))
  let rows := (s.matRows n o).map (fun i => (i, s.matRow n o tiles x i))
  rows.foldl (fun s r => s.store (slotAddr n (64 + o.oslot) + r.1 * 1024) (r.2.flatMap (fun v => toLE 4 v.toNat))) s

/-- A MATMUL at its issue: sums, scoreboard, timing and counters. -/
def State.matIssue (s : State) (n : Nat) (o : MatOp) : State :=
  let x := s.lathe n
  let wf := o.fmt x
  let tiles := s.matTiles n o
  let u := s.cycle n
  let rate := if wf == 4 || wf == 5 then 2 else 1
  let cycles := rate * (if o.keep then o.m else max o.m 256)
  let t := arrayTime s.now
  let start := if x.streamEnd ≤ t then t + 256 * u else x.streamEnd
  -- the shadow load begins once the weights of the MATMUL before have become active (Table 7-9)
  let loaded := max t x.shadowAt + 256 * u
  let reads := (o.wslots x).map (fun i => (i, loaded)) ++ o.islots.map (fun i => (i, start + rate * o.m * u))
  let rel (l : List Nat) (b : Bool) (s : State) : State :=
    if b then l.foldl (fun s i => s.setSlot n i { (s.lathe n).slot i with release := true }) s else s
  let s1 := rel o.islots (o.flags.testBit 2) (rel (o.wslots x) (o.flags.testBit 1) (s.matWrite n o))
  -- a DRAIN that waits for the preceding MATMUL's writes waits for these too
  let s2 := o.oslots.foldl (fun s i =>
    let v := (x.slot i)
    s.setSlot n i { st := 3, fmt := 7, drain := v.st == 3 && v.drain, tag := v.tag }) s1
  let s3 := s2.setLathe n (fun x => { x with
    reads := x.reads ++ reads, streamEnd := start + cycles * u, shadowAt := if o.keep then x.shadowAt else start, active := some (wf, o.ifmt, tiles), lastOut := o.oslots })
  (s3.bump (LTH_INSTR_CNT x.part) 31 0 1).bump (LTH_BUSY_CNT x.part) 63 0 cycles

/-- MATMUL. -/
def matmulStep (n : Nat) (w : BitVec 128) (s : State) : State :=
  let o := parseMat w
  s.instrOfLayer n w (fun s => o.legal w (s.lathe n)) (fun s => o.stuck (s.lathe n)) (fun s => s.matIssue n o)

/-! ### VECTOR (R301, R307, R308, Tables 7-7, 7-8 and 7-10) -/

/-- The fields of a VECTOR instruction. -/
structure VecOp where
  vop  : Nat
  dfmt : Nat
  sfmt : Nat
  flags : Nat
  a    : Nat
  b    : Nat
  d    : Nat
  rows : Nat
  cols : Nat
  base : Nat
  imm  : F32
  deriving DecidableEq, Repr, Inhabited

/-- Parse Table 7-7. -/
def parseVec (w : BitVec 128) : VecOp :=
  ⟨bitsAt w 119 112, bitsAt w 111 108, bitsAt w 107 104, bitsAt w 103 96, bitsAt w 95 88, bitsAt w 87 80, bitsAt w 79 72,
    bitsAt w 71 64 + 1, bitsAt w 63 56 + 1, bitsAt w 47 32, BitVec.ofNat 32 (bitsAt w 31 0)⟩

/-- The operation takes two sources. -/
def VecOp.binary (o : VecOp) : Bool := 1 ≤ o.vop && o.vop ≤ 6

/-- The operation reduces a row. -/
def VecOp.reduces (o : VecOp) : Bool := 0x10 ≤ o.vop

/-- B is a tile. -/
def VecOp.usesB (o : VecOp) : Bool := o.binary && !o.flags.testBit 4

/-- The STEP flag. -/
def VecOp.step (o : VecOp) : Bool := o.flags.testBit 6

/-- Slots of a tile of 256 × 256 elements of a format in the input or output buffer. -/
def vecSlots (inp : Bool) (f slot : Nat) : List Nat :=
  (List.range (tileSlots (elemBytes f 65536))).map (fun i => (if inp then 32 else 64) + slot + i)

/-- Slots of the sources and of the destination. -/
def VecOp.aslots (o : VecOp) : List Nat := vecSlots (o.flags.testBit 1) o.sfmt o.a
def VecOp.bslots (o : VecOp) : List Nat := if o.usesB then vecSlots (o.flags.testBit 2) o.sfmt o.b else []
def VecOp.dslots (o : VecOp) : List Nat := vecSlots (o.flags.testBit 3) o.dfmt o.d

/-- A tile at a slot fits its buffer. -/
def vecFits (inp : Bool) (f slot : Nat) : Bool :=
  slot + tileSlots (elemBytes f 65536) ≤ (if inp then 32 else 16)

/-- The fields are within their ranges. -/
def VecOp.legal (o : VecOp) (w : BitVec 128) : Bool :=
  [1, 2, 3, 4, 5, 6, 7, 8, 9, 0xA, 0xB, 0xC, 0xD, 0xE, 0x10, 0x11, 0x12].contains o.vop &&
    [1, 2, 3, 4, 5, 6, 7].contains o.dfmt && [1, 2, 4, 5, 7].contains o.sfmt && o.flags < 128 && bitsAt w 55 48 == 0 &&
    vecFits (o.flags.testBit 1) o.sfmt o.a && (!o.usesB || vecFits (o.flags.testBit 2) o.sfmt o.b) &&
    vecFits (o.flags.testBit 3) o.dfmt o.d && (o.dfmt != 3 || o.cols % 32 == 0) &&
    (if o.step then o.base + o.rows - 1 ≤ 65535 else o.base == 0)

/-- The slot that keeps a VECTOR instruction from issuing. -/
def VecOp.stuck (o : VecOp) (x : Lathe) : Option Nat :=
  ((o.aslots ++ o.bslots).find? (fun i => !x.canRead i)).orElse (fun _ =>
    o.dslots.find? (fun i => !x.canWrite i || (o.vop == 4 && (x.slot i).st != 2)))

/-- A pairwise tree of additions in ascending lane order: one level. -/
def treeLevel : List F32 → List F32
  | a :: b :: r => fAdd a b :: treeLevel r
  | l => l

/-- The pairwise tree sum. -/
def treeSum : Nat → List F32 → F32
  | 0, l => l.headD 0
  | n + 1, l =>
    match l with
    | [] => 0
    | [x] => x
    | l => treeSum n (treeLevel l)

/-- The result of an element operation (Table 7-8). -/
def vecElem (op : Nat) (a b d : F32) : F32 :=
  match op with
  | 0x01 => fAdd a b
  | 0x02 => fSub a b
  | 0x03 => fMul a b
  | 0x04 => fFma a b d
  | 0x05 => fMax a b
  | 0x06 => fMin a b
  | 0x07 => a
  | 0x0E => fMax a 0
  | _ => vecFn op a

/-- The results of one row. -/
def VecOp.row (o : VecOp) (as bs ds : List F32) : List F32 :=
  let all (x : F32) : List F32 := List.replicate o.cols x
  match o.vop with
  | 0x10 => all (treeSum 8 as)
  | 0x11 => all (match as with
    | [] => 0
    | x :: xs => xs.foldl fMax x)
  | 0x12 => all (treeSum 8 (as.map (fun a => fMul a a)))
  | _ => (List.range o.cols).map (fun j => vecElem o.vop (as.getD j 0) (bs.getD j 0) (ds.getD j 0))

/-- Row `i` of a tile, its active lanes, in FP32. -/
def State.vecRow (s : State) (n : Nat) (inp : Bool) (f slot i cols : Nat) : List F32 :=
  let a := slotAddr n ((if inp then 32 else 64) + slot)
  if f == 3 then
    (List.range cols).map (fun j =>
      let e := i * 256 + j
      (fp4Value (s.num (a + 32768 + e / 32) 1) (s.num (a + e / 2) 1 / 16 ^ (e % 2) % 16)).toF32)
  else
    let k := (fmtBits f).getD 32 / 8
    (List.range cols).map (fun j => (elemValue f (s.num (a + (i * 256 + j) * k) k)).toF32)

/-- Write a row of results into the destination, converted (R292, R293). -/
def State.vecStore (s : State) (n : Nat) (o : VecOp) (i : Nat) (vs : List F32) : State :=
  let a := slotAddr n ((if o.flags.testBit 3 then 32 else 64) + o.d)
  if o.dfmt == 3 then
    let r := fp4Pack (vs.map f32)
    (s.store (a + i * 128) r.1).store (a + 32768 + i * 8) r.2
  else
    let k := (fmtBits o.dfmt).getD 32 / 8
    s.store (a + i * 256 * k) (vs.flatMap (fun v => toLE k (convert o.dfmt (o.flags.testBit 0) (f32 v))))

/-- The rows that a VECTOR instruction reads and writes. -/
def State.vecRows (s : State) (n : Nat) (o : VecOp) : List Nat :=
  (List.range o.rows).filter (fun i => !(o.step && s.rowMasked (s.lathe n).part (o.base + i)))

/-- The results of a VECTOR instruction by row, from the sources as they are at its issue. For FMA, `d` is the destination's
element (log entry 27). -/
def State.vecResults (s : State) (n : Nat) (o : VecOp) : List (Nat × List F32) :=
  (s.vecRows n o).map (fun i =>
    let as := s.vecRow n (o.flags.testBit 1) o.sfmt o.a i o.cols
    let bs := if o.flags.testBit 4 then List.replicate o.cols o.imm
      else if o.binary then s.vecRow n (o.flags.testBit 2) o.sfmt o.b i o.cols else []
    let ds := if o.vop == 4 then s.vecRow n (o.flags.testBit 3) o.dfmt o.d i o.cols else []
    (i, o.row as bs ds))

/-- Values are converted to a format: a NaN that becomes INT8 or binary sets CONV_NAN, which raises no interrupt (Table 7-4). -/
def State.convNan (s : State) (fmt : Nat) (vs : List F32) : State :=
  if (fmt == 6 || fmt == 8) && vs.any fNan then s.setFld LTH_EVENT 6 6 1 else s

/-- A VECTOR instruction at its issue. -/
def State.vecIssue (s : State) (n : Nat) (o : VecOp) : State :=
  let x := s.lathe n
  let rs := s.vecResults n o
  let u := s.cycle n
  let per := if 0x08 ≤ o.vop && o.vop ≤ 0x0D then 2 else 1
  let fin := arrayTime s.now + (per * o.rows) * u
  let s1 := rs.foldl (fun s r => s.vecStore n o r.1 r.2) s
  let s2 := if o.flags.testBit 5 then
      o.aslots.foldl (fun s i => s.setSlot n i { (s.lathe n).slot i with release := true }) s1 else s1
  let s3 := o.dslots.foldl (fun s i => s.setSlot n i { st := 3, fmt := o.dfmt }) s2
  let s4 := s3.setLathe n (fun x => { x with
    reads := x.reads ++ (o.aslots ++ o.bslots).map (fun i => (i, fin))
    -- slots that it writes are no longer those that the last MATMUL is writing
    lastOut := if o.dslots.any (fun i => x.lastOut.contains i) then [] else x.lastOut })
  let s5 := s4.bump (LTH_INSTR_CNT x.part) 63 32 1
  s5.convNan o.dfmt (rs.flatMap (fun r => r.2))

/-- VECTOR. -/
def vectorStep (n : Nat) (w : BitVec 128) (s : State) : State :=
  let o := parseVec w
  s.instrOfLayer n w (fun _ => o.legal w) (fun s => o.stuck (s.lathe n)) (fun s => s.vecIssue n o)

/-- ILLEGAL_INSTRUCTION: a fetched word whose opcode is not in Table 7-5. -/
def illegalInstructionStep (n : Nat) (w : BitVec 128) (s : State) : State :=
  s.instr n w (fun _ => [0, 1, 2, 3, 4, 5, 6, 0x10, 0x20].contains (bitsAt w 127 120)) (fun _ => none) (fun s => s)

/-! ### Stalls (R306, Table 7-13) -/

/-- The slot that an instruction waits for in a state of its Lathe, whichever opcode it has (Table 7-5). -/
def Lathe.stuckOn (x : Lathe) (w : BitVec 128) : Option Nat :=
  match bitsAt w 127 120 with
  | 0x02 => x.fenceStuck
  | 0x03 => x.releaseStuck w
  | 0x05 => x.drainStuck w
  | 0x06 => x.sendStuck w
  | 0x10 => (parseMat w).stuck x
  | 0x20 => (parseVec w).stuck x
  | _ => none

/-- LATHE_STALL (R306): an instruction has waited longer than LTH_STALL_LIMIT, and still waits: the slot that it waits for now is
logged. -/
def latheStallStep (n : Nat) (s0 : State) : State :=
  let s := s0.settleLathe n
  let x := s.lathe n
  match x.waiting, x.held.bind x.stuckOn with
  | some (t0, _), some slot =>
    if !x.running || s.now ≤ t0 + s.fld LTH_STALL_LIMIT 31 0 * 1000 then s
    else
      let s1 := (s.event LTH_EVENT 4).lthLogPut 5 n x.part slot ((x.pc - 0x0F00_0000_0000) / 16)
      if (s1.runner x.part).active then s1.failStep x.part stInternalError else s1.abortLathe n
  | _, _ => s

/-- LTH_ERR_LOG_READ (R320): the oldest entry is returned and leaves the log. -/
def lthErrLogReadStep (s : State) : State :=
  { s with lastRead := s.lthLog.headD 0, lthLog := s.lthLog.drop 1 }

end Sys2Proof.Machine
end

