-- ==== Sys2Proof/Machine/Scoring.lean ====
section
/-! DEFINITION. Re-scoring and re-ranking, embeddings and rewards (spec/06, R265 to R271), and the stages of RAG_GENERATE
(spec/08, R326 to R328). -/

namespace Sys2Proof.Machine

/-! ### Candidate data (R266, R267, R278, R281) -/

/-- The retrieval of a command. -/
def State.fetch? (s : State) (cmd : Nat) : Option Retrieval := s.fetches.find? (fun f => f.cmd == cmd)

/-- Change a retrieval. -/
def State.setFetch (s : State) (cmd : Nat) (f : Retrieval → Retrieval) : State :=
  { s with fetches := updateWhere s.fetches (fun x => x.cmd == cmd) f }

/-- What a fetch item gives a candidate: status 2 leaves it out, and so does status 1 for a full vector or where no data is
left; a deleted passage with its data is there (R267). -/
def candOf (gid : Nat) (vec : Bool) (st : Nat) (data : List Byte) : Cand :=
  if st == 2 || (st == 1 && vec) || data.isEmpty then ⟨gid, 2, st == 1, []⟩ else ⟨gid, 1, st == 1, data⟩

/-- A candidate read from the local stores; none where its range is lost. -/
def State.localCand (s : State) (x : Index) (vec : Bool) (gid : Nat) : Option Cand :=
  let r := s.fetchOne x vec (gid % 2 ^ 32)
  if r.2.2 == stTierLost then none
  else if r.2.2 != stOk then some ⟨gid, 2, false, []⟩
  else some (candOf gid vec r.1 r.2.1)

/-- The replicas that answer for a shard, in map order, each with its index number (R230, R266). -/
def ShardMap.replicas (m : ShardMap) (shard : Nat) : List (Nat × Nat) :=
  (m.entries.filter (fun e => e.shard == shard)).flatMap (fun e => e.replicas.map (fun r => (e.index, r)))

/-- The places of a retrieval's candidates of a shard whose data is still awaited. -/
def Retrieval.awaited (f : Retrieval) (shard : Nat) : List Nat :=
  (f.cands.zipIdx.filter (fun e => e.1.st == 0 && e.1.gid / 2 ^ 48 == shard)).map (fun e => e.2)

/-- The shard map bound by a command for an index. -/
def State.boundMap (s : State) (c : Cmd) (index : Nat) : Option ShardMap :=
  (c.snap.maps.find? (fun e => e.1 == index)).bind (fun e =>
    s.maps.find? (fun m => m.part == c.hdr.partition && m.index == index && m.number == e.2))

/-- Send the fetch of a shard's candidates to the next usable replica; with none left they never arrive. -/
def State.askFetch (s : State) (c : Cmd) (m : ShardMap) (shard : Nat) : Nat → State
  | 0 => s
  | fuel + 1 =>
    match s.fetch? c.id with
    | none => s
    | some f =>
      let k := ((f.asks.find? (fun a => a.1 == shard)).map (fun a => a.2.1)).getD 0
      let upd (s : State) (wait : Bool) : State := s.setFetch c.id (fun f => { f with
        asks := (shard, k + 1, wait) :: f.asks.filter (fun a => a.1 != shard) })
      let mine := f.awaited shard
      match (m.replicas shard)[k]? with
      | none => (upd s false).setFetch c.id (fun f => { f with
          cands := mine.foldl (fun l i => modifyAt l i (fun x => { x with st := 3 })) f.cands })
      | some (index, qp) =>
        if s.qpLive qp then
          let gids := mine.map (fun i => (f.cands.getD i {}).gid)
          let flight := s.fld (GGE_SHARD_CFG f.part) 19 8 * 1000
          upd (s.issue c qp (if f.use == 0 then 0x0209 else 0x020A) (f.ending - flight) c.id shard
            (toLE 2 index ++ zeros 2 ++ toLE 4 gids.length ++ gids.flatMap (fun g => toLE 8 g))) true
        else State.askFetch (upd s false) c m shard fuel

/-- Send a shard's fetch to its next replica, whichever that is. -/
def State.ask (s : State) (c : Cmd) (m : ShardMap) (shard : Nat) : State :=
  s.askFetch c m shard ((m.replicas shard).length + 1)

/-- The fetches of a retrieval begin: one request is sent for each shard that has candidates to fetch. -/
def State.beginFetch (s : State) (c : Cmd) : State :=
  match s.fetch? c.id with
  | none => s
  | some f =>
    let s1 := s.setFetch c.id (fun f => { f with began := true })
    match f.map.bind (fun n => s.maps.find? (fun m => m.part == f.part && m.index == f.index && m.number == n)) with
    | none => s1
    | some m =>
      let shards := dedupBy (fun (x : Nat) => x) ((f.cands.filter (fun x => x.st == 0)).map (fun x => x.gid / 2 ^ 48))
      shards.foldl (fun s n => s.ask c m n) s1

/-- The local index that a bound map names for shard `n`, or for any. -/
def State.mapLocal (s : State) (c : Cmd) (m : ShardMap) (n : Option Nat) : Option Index :=
  (m.entries.find? (fun e => e.replicas.contains 0xFFFF_FFFE && n.all (fun n => n == e.shard))).bind (fun e =>
    s.boundIndex c e.index)

/-- The index that a RESCORE or a RERANK names: the local one of that number, else the one that its map names as local. -/
def State.ownIndex (s : State) (c : Cmd) (i : Nat) (m? : Option ShardMap) : Option Index :=
  match s.boundIndex c i with
  | some x => some x
  | none => m?.bind (fun m => s.mapLocal c m none)

/-- The local index that holds a candidate's shard (R266). -/
def State.localFor (s : State) (c : Cmd) (x? : Option Index) (m? : Option ShardMap) (gid : Nat) : Option Index :=
  match x?.filter (fun x => x.shard == gid / 2 ^ 48) with
  | some x => some x
  | none => m?.bind (fun m => s.mapLocal c m (some (gid / 2 ^ 48)))

/-- How a retrieval can fail at its start. -/
inductive FetchStart where
  | refused (status : Nat)
  | started (s : State)

/-- Start the retrieval of a command's candidates (R266, R267, R231): each is of a local index's shard or of a shard of the bound
map. -/
def State.startFetch (s : State) (c : Cmd) (use index : Nat) (sharded : Bool) (gids : List Nat) : FetchStart :=
  let p := c.hdr.partition
  let m? := if sharded then s.boundMap c index else none
  let x? := s.ownIndex c index m?
  let remote := gids.filter (fun g => (s.localFor c x? m? g).isNone)
  let e := (s.cutoffOf c).1
  if sharded && m?.isNone then .refused stUnknownObject
  else if x?.isNone && (!sharded || use == 0) then .refused stUnknownObject
  else if gids.any (fun g => g / 2 ^ 32 % 2 ^ 16 != 0) ||
      remote.any (fun g => (m?.map (fun m => (m.replicas (g / 2 ^ 48)).isEmpty)).getD true) ||
      (!remote.isEmpty && e ≤ c.intake) then
    .refused stBadParameter
  else
    let cands := gids.map (fun g =>
      match s.localFor c x? m? g with
      | some x => s.localCand x (use == 0) g
      | none => some ⟨g, 0, false, []⟩)
    if cands.any (fun x => x.isNone) then .refused stTierLost
    else
      let f : Retrieval :=
        { cmd := c.id, part := p, use := use, index := index, map := m?.map (fun m => m.number), ending := e,
          cands := cands.filterMap (fun x => x), began := false }
      let s1 := { s with fetches := s.fetches.filter (fun x => x.cmd != c.id) ++ [f] }
      .started (if use == 0 || s1.bit BLK_CTRL 0 then s1.beginFetch c else s1)

/-- The items of a fetch reply in order (Table 5-10). -/
def fetchItems : Nat → List Byte → List (Nat × List Byte)
  | 0, _ => []
  | n + 1, bs =>
    if bs.length < 8 then []
    else
      let k := fieldAt bs 4 4
      (fieldAt bs 0 1, slice bs 8 k) :: fetchItems n (bs.drop (roundUp (8 + k) 8))

/-- A reply to the fetch of shard `e` (R266): a usable one gives its candidates in order; another sends the request to
the next replica. -/
def State.fetchReply (s : State) (cmd e status : Nat) (payload : List Byte) : State :=
  match s.fetch? cmd, s.cmd? cmd with
  | some f, some c =>
    match f.map.bind (fun n => s.maps.find? (fun m => m.part == f.part && m.index == f.index && m.number == n)) with
    | none => s
    | some m =>
      if f.ending ≤ s.now then s
      else if 1 < statusClass status then s.ask c m e
      else
        let mine := f.awaited e
        let got := mine.zip (fetchItems mine.length payload)
        s.setFetch cmd (fun f => { f with
          asks := f.asks.map (fun a => if a.1 == e then (a.1, a.2.1, false) else a)
          cands := got.foldl (fun l g => modifyAt l g.1 (fun x => candOf x.gid (f.use == 0) g.2.1 g.2.2)) f.cands })
  | _, _ => s

/-- Every candidate of a retrieval is settled. -/
def Retrieval.settled (f : Retrieval) : Bool := f.began && f.cands.all (fun x => x.st != 0)

/-- A candidate is left out: its data is not there, or it is a deleted passage and those are skipped (R267). -/
def Cand.out (x : Cand) (skipDel : Bool) : Bool := x.st != 1 || (x.deleted && skipDel)

/-- Candidates left out, and whether some never arrived. -/
def Retrieval.missing (f : Retrieval) (skipDel : Bool) : Nat := (f.cands.filter (fun x => x.out skipDel)).length
def Retrieval.lostSome (f : Retrieval) : Bool := f.cands.any (fun x => x.st == 3)

/-- Coverage of a retrieval (R267). -/
def Retrieval.coverage (f : Retrieval) : Nat :=
  let n := f.cands.length
  if n == 0 then 65536 else 65536 * (n - (f.cands.filter (fun x => x.st == 3)).length) / n

/-! ### RESCORE (R265) -/

/-- The distances of the candidates that are there: the query in BF16, the full vectors in their format. -/
def State.rescored (s : State) (x : Index) (fmt dims : Nat) (query : List Byte) (f : Retrieval) : List (Nat × F32) :=
  let pr := s.profile x.profile
  let q := bf16Elems dims (storedQuery fmt dims query)
  let b := (fmtBits x.vecFmt).getD 8
  (f.cands.filter (fun y => y.st == 1)).map (fun y =>
    let v := (List.range dims).map (fun i => elemValue x.vecFmt (elemAt b y.data i))
    (y.gid, if pr.metric == 0 then l2Dist q v else ipDist q v))

/-- The k best of scored candidates (R253): nearest or highest first where k is at most 4,096, else by ascending identifier, for there is
no ORDERED flag (R250). -/
def bestOf (k : Nat) (smallest : Bool) (l : List (Nat × F32)) : List (Nat × F32) :=
  ((selectTopkKeys 7 (min k (max 1 l.length)) smallest (k ≤ 4096) false (l.map (fun e => (e.1, e.2.toNat, 0)))).keys).map (fun e => (e.id, BitVec.ofNat 32 e.raw))

/-- The reply of RESCORE and RERANK: candidates that never arrived flag PARTIAL_COVERAGE (R267), and so does an assembly report
with a missing passage (R279). -/
def State.replyRanked (s : State) (c : Cmd) (k falls : Nat) (skipDel : Bool) (f : Retrieval) (l : List (Nat × F32)) : State :=
  let short : Bool := l.length < k
  let part := f.lostSome || (f.use != 0 && f.missing false != 0)
  let deg : Bool := 0 < falls
  (s.dropWork c.id).replyData c (partialStatus short part deg) (summaryItems short part deg falls f.coverage l.length)
    (toLE 4 l.length ++ toLE 4 (f.missing skipDel) ++ entryBytes l)

/-- The global IDs that a command lists from an offset on. -/
def gidsAt (bs : List Byte) (off n : Nat) : List Nat := (List.range n).map (fun i => fieldAt bs (off + 8 * i) 8)

/-- Bytes of a query of a format. -/
def queryLen (fmt dims : Nat) : Nat := dims * ((fmtBits fmt).getD 8 / 8)

/-- A full-vector distance can be computed for an index: its profile is valid and not HAMMING. -/
def State.rescorable (s : State) (x : Index) (dims : Nat) : Bool :=
  let pr := s.profile x.profile
  pr.ok && pr.fmt != 3 && pr.dims == dims

/-! ### Models that score and embed (R119, R268 to R271) -/

/-- A model of a partition that has a role bit and can run in the command's context: its version bound (R41). -/
def State.runModel (s : State) (c : Cmd) (id ver role : Nat) : Except Nat (Model × Vocab) :=
  match s.modelFor c id ver with
  | none => .error stUnknownObject
  | some (m, v) =>
    if !m.roles.testBit role || !s.canRun c.hdr.partition c.ctx m then .error stBadParameter else .ok (m, v)

/-- Enter a model run; it is a step of its own. -/
def State.addRun (s : State) (kind : Nat) (c : Cmd) (m : Model) (rows outs : Nat) : State :=
  let j : ModelJob :=
    { kind := kind, cmd := c.id, part := c.hdr.partition, ctx := c.ctx, model := m.id, version := m.version, rows := rows,
      outs := outs }
  { s with runs := s.runs ++ [j] }

/-- The pair prompt of a candidate (R268): one passage at most, cut to the pair budget. -/
def pairPrompt (budget minCut : Nat) (skipDel : Bool) (tmpl query : List Nat) (x : Cand) : List Nat × Packed :=
  assemble ⟨budget, 1, 1, false, skipDel, minCut, 0⟩ tmpl query [⟨x.st != 1, x.deleted, recordTokens x.data⟩]

/-- The parameters of a re-ranking: cross-encoder and version, pair budget, minimum cut, skip-deleted, template and query. -/
structure Pairing where
  model   : Nat
  version : Nat
  budget  : Nat
  minCut  : Nat
  skipDel : Bool
  tmpl    : List Nat
  query   : List Nat
  deriving DecidableEq, Repr, Inhabited

/-- The pairing is allowed: ranges, template and words (R268, R273, R275). -/
def State.pairingOk (s : State) (v : Vocab) (k : Pairing) : Bool :=
  1 ≤ k.budget && k.budget ≤ 8192 && 1 ≤ k.minCut && k.minCut ≤ k.budget && s.templateOk v k.tmpl && hasBlock k.tmpl &&
    !k.tmpl.isEmpty && k.query.all (s.wordOk v) && fixedCost k.tmpl k.query.length ≤ k.budget

/-- The candidates that a re-ranking scores, with their pair prompts: those that are not left out. -/
def Pairing.prompts (k : Pairing) (f : Retrieval) : List (Nat × List Nat × Packed) :=
  (f.cands.filter (fun x => !x.out k.skipDel)).map (fun x =>
    let r := pairPrompt k.budget k.minCut k.skipDel k.tmpl k.query x
    (x.gid, r.1, r.2))

/-- The pair prompts are assembled and the cross-encoder is to run on them. -/
def State.startPairs (s : State) (c : Cmd) (kind : Nat) (k : Pairing) (f : Retrieval) : State :=
  let s1 := f.cands.foldl (fun s x =>
    let r := pairPrompt k.budget k.minCut k.skipDel k.tmpl k.query x
    s.countAssembly f.part r.2) s
  let ps := k.prompts f
  match s1.model? f.part k.model (bindVersion c k.model k.version) with
  | none => s1.endCmd c.id stUnknownObject
  | some m => s1.addRun kind c m (sumNat (ps.map (fun e => e.2.1.length))) ps.length

/-- The scores of a re-ranking's candidates: free values of the cross-encoder (log entry 7). -/
def Pairing.scores (k : Pairing) (n : Nat) (f : Retrieval) : List (Nat × F32) :=
  (k.prompts f).zipIdx.map (fun e => (e.1.1, Config.modelOut (n + e.2) 0))

/-- Words of 4 bytes at an offset. -/
def wordsAt (bs : List Byte) (off n : Nat) : List Nat := (List.range n).map (fun i => fieldAt bs (off + 4 * i) 4)

/-- The pairing of a RERANK (Table 6-7). -/
def rerankPairing (bs : List Byte) : Pairing :=
  let f := fieldAt bs
  let nt := f 24 2
  ⟨f 0 2, f 2 2, f 12 4, f 20 4, (f 6 1).testBit 1, wordsAt bs 32 nt, wordsAt bs (32 + 4 * nt) (f 16 4)⟩

/-! ### EMBED (R269) -/

/-- The inputs of an EMBED: lengths and data, each padded to 8 (length and data together); none where they do not fill the
payload. -/
def embedInputs (unit : Nat) : Nat → List Byte → Option (List (List Byte))
  | 0, bs => if bs.isEmpty then some [] else none
  | n + 1, bs =>
    let k := fieldAt bs 0 4 * unit
    let all := roundUp (4 + k) 8
    if bs.length < all || !zerosAt bs (4 + k) (all - 4 - k) then none
    else (embedInputs unit n (bs.drop all)).map (fun r => slice bs 4 k :: r)

/-- An embedding's elements are normalised: one sum of squares in element order, one root, one division for each. -/
def normalised (xs : List F32) : List F32 :=
  let n := fSqrt (fSum (xs.map (fun x => fMul x x)))
  xs.map (fun x => fDiv x n)

/-- The embedding of an input: free values of the encoder (log entry 7), in the output format, saturating. -/
def embedding (n dims fmt : Nat) (norm : Bool) : List Byte :=
  let xs := (List.range dims).map (Config.modelOut n)
  (if norm then normalised xs else xs).flatMap (fun x => toLE ((fmtBits fmt).getD 32 / 8) (convert fmt true (f32 x)))

/-- EMBED. -/
def bodyEmbed (run : Cmd → State → State × JobEnd × Nat) (c : Cmd) (s : State) : State :=
  let f := fieldAt c.input
  let kind := f 4 1
  let n := f 8 2
  if c.input.length < 16 then s.refuse c stBadParameter
  else if 2 ≤ f 6 1 || f 7 1 != 0 || !zerosAt c.input 10 6 then s.refuse c stReservedNonzero
  else if 2 ≤ kind || !([1, 4, 7].contains (f 5 1)) || n == 0 || 256 < n then s.refuse c stBadParameter
  else
    match embedInputs (if kind == 0 then 4 else 1) n (c.input.drop 16) with
    | none => s.refuse c stBadParameter
    | some ins =>
      match s.runModel c (f 0 2) (f 2 2) 1 with
      | .error st => s.refuse c st
      | .ok (m, v) =>
        if ins.any (fun x => x.isEmpty) then s.refuse c stBadParameter
        else if kind == 1 then s.addTokenization run c
        else
          let ws := ins.map (fun x => wordsAt x 0 (x.length / 4))
          if ws.any (fun w => 8192 < w.length || !w.all (s.wordOk v)) then s.refuse c stBadParameter
          else s.addRun 0 c m (sumNat (ws.map (fun w => w.length))) n

/-- The texts of an EMBED have been tokenized: `data` holds their token counts. -/
def State.embedTokenized (s : State) (c : Cmd) (r : JobEnd) : State :=
  let f := fieldAt c.input
  let counts := wordsAt r.data 0 (r.data.length / 4)
  if counts.any (fun n => n == 0 || 8192 < n) then s.refuse c stBadParameter
  else
    match s.runModel c (f 0 2) (f 2 2) 1 with
    | .error st => s.refuse c st
    | .ok (m, _) => s.addRun 0 c m (sumNat counts) (f 8 2)

/-! ### REWARD_SCORE (R270) -/

/-- The sequences of a REWARD_SCORE; none where they do not fill the payload. -/
def rewardSeqs : Nat → List Byte → Option (List (List Nat))
  | 0, bs => if bs.isEmpty then some [] else none
  | n + 1, bs =>
    let k := fieldAt bs 0 4
    if bs.length < 4 + 4 * k || k == 0 || 65536 < k then none
    else (rewardSeqs n (bs.drop (4 + 4 * k))).map (fun r => wordsAt bs 4 k :: r)

/-- REWARD_SCORE. -/
def bodyRewardScore (c : Cmd) (s : State) : State :=
  let f := fieldAt c.input
  let n := f 4 2
  if c.input.length < 8 || n == 0 || 4096 < n then s.refuse c stBadParameter
  else if f 6 2 != 0 then s.refuse c stReservedNonzero
  else
    match rewardSeqs n (c.input.drop 8) with
    | none => s.refuse c stBadParameter
    | some qs =>
      match s.runModel c (f 0 2) (f 2 2) 2 with
      | .error st => s.refuse c st
      | .ok (m, v) =>
        if qs.any (fun q => !q.all (s.wordOk v)) then s.refuse c stBadParameter
        else s.addRun 2 c m (sumNat (qs.map (fun q => q.length))) n

/-! ### RAG_GENERATE (R326 to R328) -/

/-- The parts of a RAG_GENERATE payload. -/
structure RagParts where
  gen     : GenBlock
  genRaw  : List Byte
  ret     : List Byte
  params  : List Byte
  pack    : Packing
  packRaw : List Byte
  tmpl    : List Nat
  pair    : List Nat
  stops   : List (List Byte)
  text    : List Byte
  deriving DecidableEq, Repr, Inhabited

/-- Parse a RAG_GENERATE payload (R326); none where a part does not fit. -/
def parseRag (bs : List Byte) : Option RagParts :=
  if bs.length < 176 then none
  else
    let terms := fieldAt bs (96 + 16) 1
    let plen := 64 + 16 * (terms - 2)
    let ret := slice bs 64 32
    let params := slice bs 96 plen
    let o1 := 96 + plen
    let pk := slice bs o1 16
    let k := parsePacking pk
    let o2 := o1 + 16
    let o3 := o2 + 4 * k.words
    let np := fieldAt ret 24 2
    let o4 := o3 + 4 * np
    let tl := fieldAt ret 20 4
    if bs.length < o4 + tl then none
    else
      let area := slice bs o4 (bs.length - o4 - tl)
      match parseStops (fieldAt bs 52 1) area with
      | none => none
      | some (xs, n) =>
        if area.length != roundUp n 8 || !zerosAt area n (area.length - n) || 8 < terms then none
        else some ⟨parseGen bs, bs.take 64, ret, params, k, pk, wordsAt bs o2 k.words, wordsAt bs o3 np, xs, bs.drop (bs.length - tl)⟩

/-- Reserved fields of a RAG_GENERATE are zero. -/
def RagParts.resvOk (r : RagParts) : Bool :=
  genResvOk r.genRaw && fieldAt r.ret 10 1 < 4 && fieldAt r.ret 11 1 == 0 && zerosAt r.ret 26 6 &&
    searchResvOk false r.params && fieldAt r.packRaw 7 1 < 4 && zerosAt r.packRaw 14 2

/-- Fields of the retrieval block. -/
def RagParts.encoder (r : RagParts) : Nat × Nat := (fieldAt r.ret 0 2, fieldAt r.ret 2 2)
def RagParts.cross (r : RagParts) : Option (Nat × Nat) :=
  if fieldAt r.ret 4 2 == 0xFFFF then none else some (fieldAt r.ret 4 2, fieldAt r.ret 6 2)
def RagParts.rescore (r : RagParts) : Bool := (fieldAt r.ret 10 1).testBit 0
def RagParts.norm (r : RagParts) : Bool := (fieldAt r.ret 10 1).testBit 1
def RagParts.search (r : RagParts) : SearchParams := parseSearch false r.params

/-- The retrieval block is within Table 8-4, and the generation block within Table 8-3 as far as it says before the prompt is known,
whichever models they name. -/
def RagParts.rangesOk (r : RagParts) : Bool :=
  let n := fieldAt r.ret 8 2
  let q := r.search
  1 ≤ n && n ≤ 1024 && 1 ≤ fieldAt r.ret 12 4 && fieldAt r.ret 12 4 ≤ 8192 && 1 ≤ fieldAt r.ret 20 4 &&
    fieldAt r.ret 20 4 ≤ 65536 && 1 ≤ fieldAt r.ret 24 2 && fieldAt r.ret 24 2 ≤ 4096 && r.pack.ok && q.qlen == 0 &&
    q.index < 64 && [1, 4, 7].contains q.fmt && r.gen.count == 0 && r.gen.ok 1 && utf8Ok r.text

/-- The pairing of a RAG_GENERATE; pair prompts take the packing block's skip-deleted flag. -/
def RagParts.pairing (r : RagParts) (query : List Nat) : Pairing :=
  let m := r.cross.getD (0, 0)
  ⟨m.1, m.2, fieldAt r.ret 12 4, fieldAt r.ret 16 4, r.pack.skipDel, r.pair, query⟩

/-- Change a RAG_GENERATE on its way. -/
def State.setRag (s : State) (cmd : Nat) (f : Rag → Rag) : State :=
  { s with rags := updateWhere s.rags (fun r => r.cmd == cmd) f }

/-- A RAG_GENERATE ends with a status before its admission. -/
def State.ragFail (s : State) (c : Cmd) (status : Nat) : State := ((s.dropWork c.id).dropSearches c.id).refuse c status

/-- A RAG_GENERATE without a cross-encoder, or with one that may run for it: the status otherwise. -/
def State.ragCross (s : State) (c : Cmd) (r : RagParts) : Option Nat :=
  match r.cross with
  | none => none
  | some m =>
    match s.runModel c m.1 m.2 2 with
    | .error st => some st
    | .ok (_, w) => if s.pairingOk w (r.pairing []) then none else some stBadParameter

/-- The index, or the shard map, that a RAG_GENERATE names is missing, or the search's parameters do not fit it. -/
def State.ragMisfit (s : State) (c : Cmd) (r : RagParts) : Option Nat :=
  let q := r.search
  let x? := s.ownIndex c q.index (if q.sharded then s.boundMap c q.index else none)
  if (!q.sharded && x?.isNone) || (q.sharded && (s.boundMap c q.index).isNone) || (r.rescore && x?.isNone) then
    some stUnknownObject
  else
    let full := { q with qlen := queryLen q.fmt q.dims }
    let bad : Bool := (match x? with
      | some x => (r.rescore && !s.rescorable x q.dims) ||
          (!q.sharded && (s.profile x.profile).ok && !full.ok (s.profile x.profile) x)
      | none => false) ||
      (match s.boundMap c q.index with
      | some m => q.sharded && s.shardMisfit c m full
      | none => false) || !full.okAny ((x?.map (fun x => x.width)).getD 0)
    if bad || (q.sharded && (s.cutoffOf c).1 ≤ c.intake) then some stBadParameter else none

/-- The checks of RAG_GENERATE: the status of the first that fails. -/
def State.ragRefusal (s : State) (c : Cmd) (r : RagParts) : Option Nat :=
  if !r.resvOk then some stReservedNonzero
  else if !r.rangesOk then some stBadParameter
  else
    match s.modelFor c r.gen.model r.gen.version, s.runModel c r.encoder.1 r.encoder.2 1 with
    | none, _ => some stUnknownObject
    | some _, .error st => some st
    | some (_, v), .ok (e, _) =>
      match s.ragCross c r with
      | some st => some st
      | none =>
        if e.outDims != r.search.dims || !s.templateOk v r.tmpl || r.tmpl.isEmpty || r.pack.budget < fixedCost r.tmpl 0 then
          some stBadParameter
        else s.ragMisfit c r

/-- RAG_GENERATE: the checks on its own fields and the models that it names; then the query text is tokenized. -/
def bodyRagGenerate (run : Cmd → State → State × JobEnd × Nat) (c : Cmd) (s : State) : State :=
  match parseRag c.input with
  | none => s.refuse c stBadParameter
  | some r =>
    match s.ragRefusal c r with
    | some st => s.refuse c st
    | none =>
      let g : Rag := { cmd := c.id }
      ({ s with rags := s.rags ++ [g] }).addTokenization run c

/-- Stage 1 is done: the query's tokens; the encoder runs on them. -/
def State.ragTokenized (s : State) (c : Cmd) (ts : List Nat) : State :=
  match parseRag c.input with
  | none => s.ragFail c stBadParameter
  | some r =>
    if ts.isEmpty || 8192 < ts.length || r.pack.budget < fixedCost r.tmpl ts.length then s.ragFail c stBadParameter
    else
      match s.runModel c r.encoder.1 r.encoder.2 1 with
      | .error st => s.ragFail c st
      | .ok (m, _) => (s.setRag c.id (fun g => { g with stage := 1, query := ts })).addRun 5 c m ts.length 1

/-- A search of RAG_GENERATE cannot start: NOT_READY, with R672's hint or one that is left open (R242). -/
def State.ragNotReady (s : State) (c : Cmd) (us : Nat) : State :=
  ((s.dropWork c.id).dropSearches c.id).refuseHint c stNotReady us

/-- Stage 2 is done: the search starts with the embedding as its query. -/
def State.ragSearch (s : State) (c : Cmd) (r : RagParts) (vec : List Byte) : State :=
  let q0 := r.search
  let q := { q0 with qlen := vec.length, queries := [vec] }
  let s1 := s.setRag c.id (fun g => { g with stage := 2, vector := vec })
  let sub := { c with input := (r.params.take 20 ++ toLE 4 vec.length ++ slice r.params 24 40) ++ vec ++ r.params.drop 64 }
  if !s1.framesOk c.hdr.partition then s1.tick.ragNotReady c (Config.freeBelow s1.freeCtr (2 ^ 32))
  else if q.sharded then
    match s1.boundMap c q.index with
    | none => s1.ragFail c stUnknownObject
    | some m => s1.startCoord sub m q 0
  else
    match s1.boundIndex c q.index with
    | none => s1.ragFail c stUnknownObject
    | some x => if !s1.profileOk c x then s1.ragNotReady c 1000 else s1.addSearch (s1.boundQuery sub x q 0)

/-- The conditions that the stages have met so far. -/
def Rag.conditions (g : Rag) : Option (Bool × Bool × Nat × Nat × Nat) := some (g.short, g.part, g.falls, g.coverage, g.found)

/-- Stage 6: the prompt is assembled from the candidates in their order and admitted. -/
def State.ragAdmit (s : State) (c : Cmd) (r : RagParts) (g : Rag) (cands : List Cand) : State :=
  let ps := cands.map (fun x => (⟨x.st != 1, x.deleted, recordTokens x.data⟩ : Passage))
  let words := g.query
  let a := assemble r.pack r.tmpl words ps
  let s1 := (s.countAssembly c.hdr.partition a.2).dropWork c.id
  let g1 := { g with part := g.part || 0 < a.2.missing }
  -- the sequence's events would go to a lost queue pair: it is cancelled before it enters (R90)
  if !s.qpLive c.hdr.qp then s1.dropCmd c.id else
  s1.takeIn c { r.gen with count := a.1.length } ⟨a.1, r.stops, g1.conditions, reportBytes a.1 a.2⟩

/-- Stage 5 without a cross-encoder, or the passages of stage 6: fetch the passages of the leaders. -/
def State.ragPassages (s : State) (c : Cmd) (r : RagParts) (g : Rag) : State :=
  let best := g.leaders.map (fun e => e.1)
  let ids := if r.cross.isSome then best.take (fieldAt r.ret 8 2) else best
  if !hasBlock r.tmpl && r.cross.isNone then s.ragAdmit c r g []
  else
    match s.startFetch c (if r.cross.isSome then 1 else 2) r.search.index r.search.sharded ids with
    | .refused st => s.ragFail c st
    | .started s1 => s1

/-- Stage 4, or the stage after it: rescore the leaders where that is asked for. -/
def State.ragLeaders (s : State) (c : Cmd) (r : RagParts) (g : Rag) : State :=
  let s1 := s.setRag c.id (fun _ => g)
  if r.rescore && !g.leaders.isEmpty then
    match s1.startFetch c 0 r.search.index r.search.sharded (g.leaders.map (fun e => e.1)) with
    | .refused st => s1.ragFail c st
    | .started s2 => s2
  else s1.ragPassages c r g

/-- Stage 3 is done: the search's leaders with its conditions. -/
def State.ragSearched (s : State) (c : Cmd) (r : QueryEnd) (coverage : Nat) : State :=
  match parseRag c.input, s.rags.find? (fun g => g.cmd == c.id) with
  | some p, some g =>
    let s0 := s.countSearches c.hdr.partition [r]
    if r.status == stNotReady then s0.ragNotReady c 1000
    else if 1 < statusClass r.status then s0.ragFail c r.status
    else
      s0.ragLeaders c p { g with
        stage := 3, leaders := r.entries, short := r.short, part := coverage < 65536, coverage := coverage
        found := r.entries.length }
  | _, _ => s.dropWork c.id

/-! ### What follows when candidates are settled -/

/-- RESCORE is done. -/
def State.rescoreDone (s : State) (c : Cmd) (f : Retrieval) : State :=
  match s.ownIndex c f.index (f.map.bind (fun _ => s.boundMap c f.index)) with
  | none => s.endCmd c.id stUnknownObject
  | some x =>
    let k := fieldAt c.input 8 2
    let l := s.rescored x (fieldAt c.input 2 2) (fieldAt c.input 4 2) (c.input.drop 32) f
    let best := bestOf k true l
    let long := if 4096 < best.length then 1 else 0
    ((s.countSel f.part (l.filter (fun e => fNan e.2)).length long).spillEntries f.part
      (if long == 1 then entryBytes best else [])).replyRanked c k 0 false f best

/-- A stage of RAG_GENERATE has its candidates. -/
def State.ragFetched (s : State) (c : Cmd) (f : Retrieval) : State :=
  match parseRag c.input, s.rags.find? (fun g => g.cmd == c.id) with
  | some r, some g =>
    let g1 := { g with part := g.part || f.lostSome, coverage := min g.coverage f.coverage }
    match f.use with
    | 0 =>
      match s.ownIndex c f.index (f.map.bind (fun _ => s.boundMap c f.index)) with
      | none => s.ragFail c stUnknownObject
      | some x =>
        let l := s.rescored x r.search.fmt r.search.dims g.vector f
        let g2 := { g1 with leaders := bestOf l.length true l }
        let s1 := (s.countSel f.part (l.filter (fun e => fNan e.2)).length 0).setRag c.id (fun _ => g2)
        s1.ragPassages c r g2
    | 1 =>
      let s1 := s.setRag c.id (fun _ => { g1 with stage := 4 })
      if ((r.pairing g.query).prompts f).isEmpty then s1.ragAdmit c r g1 (if hasBlock r.tmpl then f.cands else [])
      else s1.startPairs c 6 (r.pairing g.query) f
    | _ => s.ragAdmit c r g1 f.cands
  | _, _ => s.dropWork c.id

/-- A retrieval whose candidates are all settled goes on; the passages of RAG_GENERATE that follow its rescoring may be
settled at once too. -/
def State.fetchDone (s : State) (cmd : Nat) : State :=
  match s.fetch? cmd, s.cmd? cmd with
  | some f, some c =>
    if !f.settled then s
    else if c.hdr.opcode == 0x0401 then
      let s1 := s.ragFetched c f
      if f.use != 0 then s1
      else match s1.fetch? cmd with
        | some f1 => if f1.use != 0 && f1.settled then s1.ragFetched c f1 else s1
        | none => s1
    else if f.use == 0 then s.rescoreDone c f
    else
      let k := rerankPairing c.input
      if (k.prompts f).isEmpty then
        let s1 := f.cands.foldl (fun s x => s.countAssembly f.part (pairPrompt k.budget k.minCut k.skipDel k.tmpl k.query x).2) s
        s1.replyRanked c (fieldAt c.input 8 2) 0 k.skipDel f []
      else s.startPairs c 1 k f
  | _, _ => s

/-- A fetch reply arrives (R266): once every candidate is settled the command goes on. -/
def State.fetchArrived (s : State) (cmd e status : Nat) (payload : List Byte) : State :=
  (s.fetchReply cmd e status payload).fetchDone cmd

/-- FETCH_BUDGET_END (R267): at E, candidates whose data has not arrived are left out. -/
def fetchBudgetEndStep (cmd : Nat) (s : State) : State :=
  match s.fetch? cmd with
  | none => s
  | some f =>
    if s.now < f.ending || f.settled then s
    else
      (s.setFetch cmd (fun f => { f with
        began := true, cands := f.cands.map (fun (x : Cand) => if x.st == 0 then { x with st := 3 } else x) })).fetchDone cmd

/-- Assemblies held back by BLK_EN begin once it is set. -/
def State.blkResume (s : State) : State :=
  ((s.fetches.filter (fun f => !f.began)).map (fun f => f.cmd)).foldl (fun s cmd =>
    match s.cmd? cmd with
    | some c => (s.beginFetch c).fetchDone cmd
    | none => s) s

/-- RESCORE. A result of more than 4,096 entries needs its room in the selection area, as R258 states (log entry 131). -/
def bodyRescore (c : Cmd) (s : State) : State :=
  let f := fieldAt c.input
  let fmt := f 2 2
  let dims := f 4 2
  let n := f 10 2
  let ql := queryLen fmt dims
  if c.input.length < 32 || !([1, 2, 4, 7].contains fmt) || c.input.length != 32 + ql + 8 * n then s.refuse c stBadParameter
  else if 2 ≤ f 6 1 || f 7 1 != 0 || !zerosAt c.input 12 20 then s.refuse c stReservedNonzero
  else if 64 ≤ f 0 2 || n == 0 || f 8 2 == 0 then s.refuse c stBadParameter
  else
    let m? := if (f 6 1).testBit 0 then s.boundMap c (f 0 2) else none
    match s.ownIndex c (f 0 2) m? with
    | none => s.refuse c stUnknownObject
    | some x =>
      if !s.rescorable x dims then s.refuse c stBadParameter
      else if 4096 < min (f 8 2) n && (s.innerSlice c.hdr.partition).2 < 131072 + 12 * min (f 8 2) n then
        (s.event SEL_EVENT 0).refuse c stNoMemory
      else
        match s.startFetch c 0 (f 0 2) ((f 6 1).testBit 0) (gidsAt c.input (32 + ql) n) with
        | .refused st => s.refuse c st
        | .started s1 => s1.fetchDone c.id

/-- RERANK. -/
def bodyRerank (c : Cmd) (s : State) : State :=
  let f := fieldAt c.input
  let k := rerankPairing c.input
  let n := f 10 2
  let off := 32 + 4 * (f 24 2 + f 16 4)
  if c.input.length < 32 || c.input.length != off + 8 * n then s.refuse c stBadParameter
  else if 4 ≤ f 6 1 || f 7 1 != 0 || !zerosAt c.input 26 6 then s.refuse c stReservedNonzero
  else if 64 ≤ f 4 2 || n == 0 || 1024 < n || f 8 2 == 0 || f 16 4 == 0 || 8191 < f 16 4 || f 24 2 == 0 || 4096 < f 24 2 then
    s.refuse c stBadParameter
  else
    match s.runModel c k.model k.version 2 with
    | .error st => s.refuse c st
    | .ok (_, v) =>
      if !s.pairingOk v k then s.refuse c stBadParameter
      else
        match s.startFetch c 1 (f 4 2) ((f 6 1).testBit 0) (gidsAt c.input off n) with
        | .refused st => s.refuse c st
        | .started s1 => s1.fetchDone c.id

/-! ### The ends of model runs -/

/-- A model run of this chapter has ended with `falls` fallbacks; its outputs are the free values from `n` on. -/
def State.scoreRunDone (s : State) (c : Cmd) (j : ModelJob) (n falls : Nat) : State :=
  let deg : Bool := 0 < falls
  let reply (s : State) (data : List Byte) : State :=
    s.replyData c (partialStatus false false deg) (summaryItems false false deg falls 65536 j.outs) data
  match j.kind with
  | 0 =>
    let fmt := fieldAt c.input 5 1
    let dims := ((s.model? j.part j.model j.version).map (fun m => m.outDims)).getD 0
    let vs := (List.range j.outs).flatMap (fun i => embedding (n + i) dims fmt ((fieldAt c.input 6 1).testBit 0))
    reply s (padTo (roundUp (8 + vs.length) 8) (toLE 4 j.outs ++ toLE 4 dims ++ vs))
  | 1 =>
    match s.fetch? c.id with
    | none => s
    | some f =>
      let k := fieldAt c.input 8 2
      let pr := rerankPairing c.input
      let l := pr.scores n f
      (s.countSel f.part (l.filter (fun e => fNan e.2)).length 0).replyRanked c k falls pr.skipDel f (bestOf k false l)
  | 2 => reply s (toLE 4 j.outs ++ zeros 4 ++ (List.range j.outs).flatMap (fun i => toLE 4 (Config.modelOut (n + i) 0).toNat))
  | 5 =>
    match parseRag c.input with
    | none => s.ragFail c stBadParameter
    | some r =>
      (s.setRag c.id (fun g => { g with falls := g.falls + falls })).ragSearch c r (embedding n r.search.dims r.search.fmt r.norm)
  | _ =>
    match parseRag c.input, s.rags.find? (fun g => g.cmd == c.id), s.fetch? c.id with
    | some r, some g, some f =>
      let l := (r.pairing g.query).scores n f
      let order := bestOf l.length false l
      let g1 := { g with leaders := order, falls := g.falls + falls }
      let cands := order.filterMap (fun e => f.cands.find? (fun x => x.gid == e.1))
      let left := f.cands.filter (fun x => x.out r.pack.skipDel)
      (s.countSel f.part (l.filter (fun e => fNan e.2)).length 0).ragAdmit c r g1
        (if hasBlock r.tmpl then cands ++ left else [])
    | _, _, _ => s.dropWork c.id

/-! ### Tokenizations (R406, R407) -/

/-- The tokens of a text as the following stages take them, and the token counts of several. -/
def tokenData (ts : List (List Nat)) : List Byte := ts.flatten.flatMap (fun t => toLE 4 t)
def countData (ts : List (List Nat)) : List Byte := ts.flatMap (fun t => toLE 4 t.length)

/-- The vocabulary and the texts of a command's tokenization, with the shape of its outcome: EMBED keeps token counts, RAG_GENERATE the
tokens, TOKENIZE its reply (R407). -/
def State.tokWork (s : State) (c : Cmd) : Option (Vocab × List (List Byte) × (List (List Nat) → List Byte)) :=
  let p := c.hdr.partition
  if c.hdr.opcode == 0x0300 then
    (s.vocabFor p (fieldAt c.input 0 2)).bind (fun v =>
      (embedInputs 1 (fieldAt c.input 8 2) (c.input.drop 16)).map (fun ts => (v, ts, countData)))
  else if c.hdr.opcode == 0x0401 then
    (parseRag c.input).bind (fun r => (s.vocabFor p r.gen.model).map (fun v => (v, [r.text], tokenData)))
  else
    (s.vocabFor p (fieldAt c.input 0 2)).map (fun v => (v, [c.input.drop 8], fun ts =>
      toLE 4 (ts.headD []).length ++ zeros 4 ++ tokenData ts))

/-- The reads of a command's tokenization, its outcome and the bytes of its text. -/
def runTok (c : Cmd) (s : State) : State × JobEnd × Nat :=
  match s.tokWork c with
  | none => (s, { status := stUnknownObject }, 0)
  | some (v, ts, shape) =>
    let r := s.runTexts v ts shape
    (r.1, r.2, sumNat (ts.map (fun t => t.length)))

/-- A command's tokenization has failed. -/
def tokFail (c : Cmd) (status : Nat) (s : State) : State :=
  if c.hdr.opcode == 0x0401 then s.ragFail c status else s.endCmd c.id status

/-- A tokenization has reached its end: the command replies or goes on to its next stage. -/
def State.finishTokenization (s : State) (j : UnitJob) : State :=
  let s1 := s.dropJob j.cmd
  let s2 := match j.avoid with
    | some u => s1.report ⟨7, u, 0, .retrySucceeded⟩
    | none => s1
  match s2.cmd? j.cmd with
  | none => s2
  | some c =>
    if 1 < statusClass j.result.status then
      tokFail c j.result.status
        (if j.result.status == stUncorrectableData then s2.reportVocab j.part j.result.n2 else s2)
    else
      let s3 := s2.countTok j.part j.result.n1
      if c.hdr.opcode == 0x0300 then s3.embedTokenized c j.result
      else if c.hdr.opcode == 0x0401 then s3.ragTokenized c (wordsAt j.result.data 0 (j.result.data.length / 4))
      else s3.replyData c j.result.status j.result.items j.result.data

/-- Selections and tokenizations whose end has come, in the order of their ends. -/
def State.finishJobs (s : State) : State :=
  -- work whose command's deadline comes no later than its end is abandoned at the deadline instead (R37, R82)
  let missed (j : UnitJob) : Bool := (s.cmd? j.cmd).any (fun c => c.hdr.deadline != 0 && c.hdr.deadline ≤ j.ending)
  let due := sortBy (fun (a b : UnitJob) => decide (a.ending < b.ending))
    (s.jobs.filter (fun j => j.unit.isSome && j.ending ≤ s.now && !missed j))
  due.foldl (fun s j => if j.kind == 0 then s.finishSelection j else s.finishTokenization j) s

/-- A query of a command has ended: a search command replies, and RAG_GENERATE goes on. -/
def searchDone (cmd : Nat) (s : State) : State :=
  match s.cmd? cmd with
  | some c =>
    if c.hdr.opcode == 0x0401 then
      let s1 := s.feedLocal cmd
      match s1.queryEnds cmd with
      | some ((r, cov, _) :: _) => ((s1.dropSearches cmd).ragSearched c r cov).fetchDone cmd
      | _ => s1
    else searchCmdDone cmd s
  | none => searchCmdDone cmd s

end Sys2Proof.Machine
end

