-- ==== Sys2Proof/Machine/Learning.lean ====
section
/-! DEFINITION. Learning support (spec/07, R311 to R314): LEARN_STEP and OPTIMIZER_STEP. Which optimizer-state tile belongs
to which weight tile is not stated; the map is a free one (log entry 28). -/

namespace Sys2Proof.Machine

/-! ### Optimizer-state tiles (R311) -/

/-- The object ID of an optimizer-state tile. -/
def stateObjId (m : Model) (tile : Nat) : Nat := 5 * 2 ^ 60 + m.id * 2 ^ 44 + m.version * 2 ^ 28 + tile

/-- The tiles of a version that working groups and understudy groups hold. -/
def Model.groupTiles (m : Model) (under : Bool) : List Nat :=
  dedupBy (fun (x : Nat) => x) (((m.fwd ++ m.bwd).filter (fun g => g.isUnder == under)).flatMap (fun g =>
    (List.range g.count).map (fun i => g.first + i)))

/-- The master tiles that a version's working tiles are made from. -/
def Model.masters (m : Model) : List Nat :=
  dedupBy (fun (x : Nat) => x) ((m.groupTiles false).map (Config.masterTile m.id m.version))

/-- The optimizer-state object of a master tile: role 1 its gradient, 2 its momentum or first moment, 3 its second
moment. -/
def Model.stateTile (m : Model) (role master : Nat) : Nat := stateObjId m (Config.stateTile m.id m.version role master)

/-- A version carries optimizer-state tiles. -/
def State.hasStateTiles (s : State) (m : Model) : Bool :=
  s.dir.any (fun e => e.1 == m.part && e.2.id / 2 ^ 60 == 5 && e.2.id / 2 ^ 28 % 2 ^ 32 == m.id * 2 ^ 16 + m.version)

/-- Some tile of a version has lost its only copy (R134). -/
def State.versionGone (s : State) (m : Model) : Bool :=
  s.dir.any (fun e => e.1 == m.part && [0, 5].contains (e.2.id / 2 ^ 60) &&
    e.2.id / 2 ^ 28 % 2 ^ 32 == m.id * 2 ^ 16 + m.version && e.2.gone)

/-! ### Contents -/

/-- The FP32 elements of an object; none where it is not resident or cannot be read. -/
def State.tileF32 (s : State) (p id : Nat) : Option (List F32) :=
  match s.obj? p id with
  | none => none
  | some o => (s.objContent p o).1.map (fun bs => (List.range 65536).map (fun i => BitVec.ofNat 32 (elemAt 32 bs i)))

/-- A step reads these objects: what the reads meet is reported, and the answer says whether every one that is there can be read
(R110). -/
def State.readTiles (s : State) (p : Nat) (ids : List Nat) : Bool × State :=
  ids.foldl (fun (acc : Bool × State) id =>
    match acc.2.obj? p id with
    | none => acc
    | some o =>
      match acc.2.objContent p o with
      | (d, s1) => (acc.1 && d.isSome, s1)) (true, s)

/-- Give an object a new content in tier 1: as a container under COMPRESS_T1 (R148), else decoded, in place where its tier-1 copy
is decoded already. None: no space. -/
def State.putContent (s : State) (p id : Nat) (bs : List Byte) : Option State :=
  match s.obj? p id with
  | none => some s
  | some o =>
    let mark (s : State) : State := s.setObj p id (fun o => { o with dirty := o.t2.isSome, last := s.now })
    let comp := s.compressed1 p id
    if o.t1.isSome && !o.comp1 && !comp then some (mark (s.store (o.t1.getD 0) bs))
    else
      let data := if comp then encodeTile (s.bit TIER_CTRL 1) o.fmt o.rows o.cols bs else bs
      ((s.free1 p o).place1 p (id % 2 ^ 28) data.length comp).map (fun r =>
        mark ((r.1.put1 p r.2 comp data).setObj p id (fun o =>
          { o with t1 := some r.2, comp1 := comp, len1 := data.length })))

/-- The bytes of a run of FP32 elements. -/
def f32Bytes (xs : List F32) : List Byte := xs.flatMap (fun x => toLE 4 x.toNat)

/-- A weight tile made from master weights: saturating conversion to its format (R292, R293), transposed where the tile is a
stored transposed copy (R112). -/
def workingTile (fmt : Nat) (transposed : Bool) (xs : List F32) : List Byte :=
  let ys := if transposed then (List.range 65536).map (fun i => xs.getD (i % 256 * 256 + i / 256) 0) else xs
  if fmt == 3 then
    let r := fp4Pack (ys.map f32)
    r.1 ++ r.2
  else packElems ((fmtBits fmt).getD 8) (ys.map (fun x => convert fmt true (f32 x)))

/-- Do `f` to the elements of a list of objects, one after the other; none where space runs out. Objects that are absent
are passed over. -/
def State.eachTile (s : State) (p : Nat) (ids : List Nat) (f : Nat → List F32 → List Byte) : Option State :=
  ids.zipIdx.foldl (fun acc e => acc.bind (fun (s : State) =>
    match s.tileF32 p e.1 with
    | none => some s
    | some xs => s.putContent p e.1 (f e.2 xs))) (some s)

/-! ### LEARN_STEP (R312, R314) -/

/-- The sequences of a LEARN_STEP: token words, targets and weights; none where they do not fill the payload. -/
def learnSeqs : Nat → List Byte → Option (List (List Nat × List Nat × List Nat))
  | 0, bs => if bs.isEmpty then some [] else none
  | n + 1, bs =>
    let k := fieldAt bs 0 4
    if bs.length < 4 + 12 * k then none
    else (learnSeqs n (bs.drop (4 + 12 * k))).map (fun r => (wordsAt bs 4 k, wordsAt bs (4 + 4 * k) k, wordsAt bs (4 + 8 * k) k) :: r)

/-- The terms of the loss (R312): the positions of the batch that have a target, with it and its weight. A weight of zero gives
its position no part in the loss. -/
def lossTerms (qs : List (List Nat × List Nat × List Nat)) : List (Nat × Nat × F32) :=
  let l := (qs.flatMap (fun q => q.2.1.zip q.2.2)).zipIdx.map (fun e => (e.2, e.1.1, (BitVec.ofNat 32 e.1.2 : F32)))
  l.filter (fun e => e.2.1 != 0xFFFF_FFFF && e.2.2.toNat % 2 ^ 31 != 0)

/-- LEARN_STEP. -/
def bodyLearnStep (c : Cmd) (s : State) : State :=
  let f := fieldAt c.input
  let p := c.hdr.partition
  let n := f 4 2
  let total := f 8 4
  if c.input.length < 16 || n == 0 || 4096 < n || total == 0 || 65536 < total then s.refuse c stBadParameter
  else if 2 ≤ f 6 1 || f 7 1 != 0 || f 12 4 != 0 then s.refuse c stReservedNonzero
  else
    match learnSeqs n (c.input.drop 16) with
    | none => s.refuse c stBadParameter
    | some qs =>
      match s.modelFor c (f 0 2) (f 2 2) with
      | none => s.refuse c stUnknownObject
      | some (m, v) =>
        if sumNat (qs.map (fun q => q.1.length)) != total || qs.any (fun q => !q.1.all (s.wordOk v)) ||
            qs.any (fun q => q.2.1.any (fun t => t != 0xFFFF_FFFF && v.entries ≤ t)) || m.bwd.isEmpty ||
            !s.hasStateTiles m || !s.canRun p c.ctx m then s.refuse c stBadParameter
        else s.addRun 3 c m total m.masters.length

/-- The gradients of the loss over a learning step's batch, free values of its terms (log entry 7; none where it has no terms),
are added in FP32 to the gradient tiles, which are zeroed before where the command asks for it. -/
def State.learned (s : State) (c : Cmd) (m : Model) (n : Nat) : Option State :=
  let zero := (fieldAt c.input 6 1).testBit 0
  let terms := lossTerms ((learnSeqs (fieldAt c.input 4 2) (c.input.drop 16)).getD [])
  s.eachTile m.part (m.masters.map (m.stateTile 1)) (fun t xs =>
    f32Bytes (xs.zipIdx.map (fun e =>
      fAdd (if zero then 0 else e.1) (if terms.isEmpty then 0 else Config.lossGrad n terms t e.2))))

/-! ### OPTIMIZER_STEP (R313, R314) -/

/-- A sequence uses a version, as its model or as its draft model. -/
def State.versionUsed (s : State) (p id ver : Nat) : Bool :=
  s.seqs.any (fun q => q.part == p && q.ending.isNone && ((q.model == id && q.version == ver) || q.draft == some (id, ver)))

/-- OPTIMIZER_STEP. -/
def bodyOptimizerStep (c : Cmd) (s : State) : State :=
  let f := fieldAt c.input
  let p := c.hdr.partition
  if c.input.length != 40 || f 8 4 == 0 then s.refuse c stBadParameter
  else if 2 ≤ f 4 1 || 2 ≤ f 5 1 || f 6 2 != 0 then s.refuse c stReservedNonzero
  else
    match s.model? p (f 0 2) (bindVersion c (f 0 2) (f 2 2)) with
    | none => s.refuse c stUnknownObject
    | some m =>
      if !s.hasStateTiles m || !s.canRun p c.ctx m then s.refuse c stBadParameter
      else if s.versionUsed p m.id m.version then s.refuseBusy c
      else s.addRun 4 c m 0 0

/-- The parameters of Table 7-12. -/
structure Optimizer where
  adam  : Bool
  clip  : Bool
  step  : Nat
  lr    : F32
  beta1 : F32
  beta2 : F32
  eps   : F32
  decay : F32
  scale : F32
  norm  : F32
  deriving DecidableEq, Repr, Inhabited

/-- Parse Table 7-12. -/
def parseOptimizer (bs : List Byte) : Optimizer :=
  let f (o : Nat) : F32 := BitVec.ofNat 32 (fieldAt bs o 4)
  ⟨fieldAt bs 4 1 == 1, (fieldAt bs 5 1).testBit 0, fieldAt bs 8 4, f 12, f 16, f 20, f 24, f 28, f 32, f 36⟩

/-- The update of one element: weight, gradient (scaled and clipped), first and second moment (R313). -/
def Optimizer.update (o : Optimizer) (w g m v : F32) : F32 × F32 × F32 :=
  if o.adam then
    let one : F32 := 0x3F800000
    let m1 := fAdd (fMul o.beta1 m) (fMul (fSub one o.beta1) g)
    let v1 := fAdd (fMul o.beta2 v) (fMul (fSub one o.beta2) (fMul g g))
    let mh := fDiv m1 (fSub one (powF32 o.beta1 o.step))
    let vh := fDiv v1 (fSub one (powF32 o.beta2 o.step))
    (fSub w (fMul o.lr (fAdd (fDiv mh (fAdd (fSqrt vh) o.eps)) (fMul o.decay w))), m1, v1)
  else
    let m1 := fAdd (fMul o.beta1 m) g
    (fSub w (fMul o.lr (fAdd m1 (fMul o.decay w))), m1, v)

/-- The clip factor over the whole version: min(1, clip norm / ‖scale × gradient‖₂); 1 when clipping is off. -/
def State.clipFactor (s : State) (o : Optimizer) (m : Model) : F32 :=
  if !o.clip then 0x3F800000
  else
    let gs := (m.masters.filterMap (fun x => s.tileF32 m.part (m.stateTile 1 x))).flatten
    fMin 0x3F800000 (fDiv o.norm (normF32 (gs.map (fun g => fMul o.scale g))))

/-- Update the master tile `x` with its gradient and moment tiles; the gradients are zeroed. -/
def State.updateMaster (s : State) (o : Optimizer) (m : Model) (clip : F32) (x : Nat) : Option State :=
  let p := m.part
  match s.tileF32 p (stateObjId m x), s.tileF32 p (m.stateTile 1 x) with
  | some ws, some gs =>
    let ms := (s.tileF32 p (m.stateTile 2 x)).getD (List.replicate 65536 0)
    let vs := (s.tileF32 p (m.stateTile 3 x)).getD (List.replicate 65536 0)
    let out := (ws.zip (gs.zip (ms.zip vs))).map (fun e =>
      o.update e.1 (fMul (fMul o.scale e.2.1) clip) e.2.2.1 e.2.2.2)
    ((((s.putContent p (stateObjId m x) (f32Bytes (out.map (fun e => e.1)))).bind (fun (s : State) =>
      s.putContent p (m.stateTile 2 x) (f32Bytes (out.map (fun e => e.2.1)))))).bind (fun (s : State) =>
        if o.adam then s.putContent p (m.stateTile 3 x) (f32Bytes (out.map (fun e => e.2.2))) else some s)).bind
          (fun (s : State) => s.putContent p (m.stateTile 1 x) (zeros 262144))
  | _, _ => some s

/-- Regenerate the working tiles, or the understudy tiles, of a version from its master weights. -/
def State.regenerate (s : State) (m : Model) (under : Bool) : Option State :=
  (m.groupTiles under).foldl (fun acc t => acc.bind (fun (s : State) =>
    let info := m.tiles.getD t (0, 0, 0)
    match s.tileF32 m.part (stateObjId m (Config.masterTile m.id m.version t)) with
    | none => some s
    | some xs =>
      (s.convNan info.2.1 xs).putContent m.part (tileObjId under m.id m.version t)
        (workingTile info.2.1 (info.2.2.testBit 1) xs))) (some s)

/-- OPTIMIZER_STEP runs. -/
def State.optimized (s : State) (c : Cmd) (m : Model) : Option State :=
  let o := parseOptimizer c.input
  let clip := s.clipFactor o m
  ((m.masters.foldl (fun acc x => acc.bind (fun (s : State) => s.updateMaster o m clip x)) (some s)).bind (fun (s : State) =>
    s.regenerate m false)).bind (fun (s : State) => s.regenerate m true)

/-- The state tiles that a learning step (its gradients) or an optimizer step (master weights, gradients and moments) reads. -/
def Model.readByRun (m : Model) (kind : Nat) : List Nat :=
  if kind == 3 then m.masters.map (m.stateTile 1)
  else m.masters.flatMap (fun x => [stateObjId m x, m.stateTile 1 x, m.stateTile 2 x, m.stateTile 3 x])

/-- A learning step or an optimizer step has ended with `falls` fallbacks. A tile of which no copy can be read ends it with
UNCORRECTABLE_DATA, and nothing is written (R110). -/
def State.learnRunDone (s : State) (c : Cmd) (j : ModelJob) (n falls : Nat) : State :=
  let deg : Bool := 0 < falls
  match s.model? j.part j.model j.version with
  | none => s.endCmd c.id stUnknownObject
  | some m =>
    if s.versionGone m then s.endCmd c.id stTierLost
    else
      let rd := s.readTiles m.part (m.readByRun j.kind)
      let s := rd.2
      if !rd.1 then s.endCmd c.id stUncorrectableData
      else
      match (if j.kind == 3 then s.learned c m n else s.optimized c m) with
      | none => s.endCmd c.id stNoMemory
      | some s1 =>
        (s1.dropWork c.id).reply c (partialStatus false false deg) (summaryItems false false deg falls 65536 0) []

/-! ### MODEL_UNLOAD (R147) -/

/-- The versions of models that a command binds by its intake stamp (R41, R330): model and version. While the input of a command that
names models is still being read by reference, which ones it names is not known, and every version counts that was current at its
intake (log entry 121). -/
def Cmd.versions (c : Cmd) : List (Nat × Nat) :=
  let op := c.hdr.opcode
  let pair (off : Nat) : List (Nat × Nat) :=
    let id := fieldAt c.input off 2
    if c.input.length < off + 4 || id == 0xFFFF then [] else [(id, bindVersion c id (fieldAt c.input (off + 2) 2))]
  if c.phase == .fetching then
    (if [0x0300, 0x0302, 0x0303, 0x0400, 0x0401, 0x0905, 0x0906].contains op then c.snap.models else [])
  else if op == 0x0400 then pair 0 ++ pair 6
  else if op == 0x0401 then pair 0 ++ pair 6 ++ pair 64 ++ pair 68
  else if [0x0300, 0x0302, 0x0303, 0x0905, 0x0906].contains op then pair 0
  else []

/-- A version is in use: by a sequence, by a model run that has bound it, or by a command that has bound it at its intake and has
still to run (R41). -/
def State.versionBusy (s : State) (c : Cmd) (m : Model) : Bool :=
  s.cmds.any (fun d => d.hdr.partition == m.part && d.id != c.id && (d.id < c.id || d.hdr.qp != c.hdr.qp) &&
    (d.phase != .started || s.rags.any (fun r => r.cmd == d.id)) && d.versions.contains (m.id, m.version)) ||
  s.seqs.any (fun q => q.part == m.part && ((q.model == m.id && q.version == m.version) || q.draft == some (m.id, m.version))) ||
    s.runs.any (fun j => j.part == m.part && j.model == m.id && j.version == m.version)

/-- MODEL_UNLOAD: the client's hold on every prefix of the version ends, then the version is freed. -/
def bodyModelUnload (c : Cmd) (s : State) : State :=
  s.shaped c 8 [(4, 4)] fun s =>
    let p := c.hdr.partition
    match s.model? p (fieldAt c.input 0 2) (fieldAt c.input 2 2) with
    | none => s.refuse c stUnknownObject
    | some m =>
      if s.versionBusy c m then s.refuseBusy c
      else
        let s1 := (s.prefixes.filter (fun x => x.part == p && x.model == m.id && x.version == m.version)).foldl
          (fun s x => s.endHold x.slot) s
        (s1.freeModel m).refuse c stOk

end Sys2Proof.Machine
end

