-- ==== Sys2Proof/Machine/Identity.lean ====
section
/-! DEFINITION. What the root of trust computes (spec/17): measurements, the check of a firmware image, the samples of
the presence and seal inputs, and who may do what. -/

namespace Sys2Proof.Machine

/-- Write a 32-byte value over four register words, little-endian (spec/17, SEC_ registers). -/
def State.setWords (s : State) (a : Nat) (bs : List Byte) : State :=
  (List.range 4).foldl (fun s i => s.setRaw (a + i * 8) (BitVec.ofNat 64 (fieldAt bs (8 * i) 8))) s

/-- The bytes of four register words. -/
def State.words (s : State) (a : Nat) : List Byte :=
  (List.range 4).flatMap (fun i => toLE 8 (s.raw (a + i * 8)).toNat)

/-- A measurement of digest `d` into register `r` (R646), logged unless the log is full (R647). -/
def State.measure (s : State) (r kind detail : Nat) (d : List Byte) : State :=
  let s1 := s.setWords (SEC_MEAS r 0) (sha3 (s.words (SEC_MEAS r 0) ++ d))
  let n := s1.sec.mlog.length
  if n < 4096 then
    let e := toLE 4 n ++ toLE 1 r ++ toLE 1 kind ++ zeros 2 ++ toLE 8 s1.now ++ toLE 8 detail ++ padTo 32 (d.take 32) ++
      zeros 8
    { s1 with sec := { s1.sec with mlog := s1.sec.mlog ++ [e] } }.setFld SEC_LOG_CNT 31 0 (n + 1)
  else s1.bump SEC_LOG_CNT 63 32 1

/-- A signature failed to verify: counted and recorded. -/
def State.sigReject (s : State) : State := (s.bump SEC_FAIL_CNT 31 0 1).event SEC_EVENT 4

/-- The latest sample stamped at or before `t` (R655); none taken yet: not asserted, not intact. -/
def sampleAt (h : List (Stamp × Bool)) (t : Stamp) : Bool :=
  ((h.find? (fun e => e.1 ≤ t)).map (fun e => e.2)).getD false

/-- PRES_N was asserted at `t`. -/
def State.presAt (s : State) (t : Stamp) : Bool := sampleAt s.sec.pres t

/-- The seal loop was intact at `t`. -/
def State.sealAt (s : State) (t : Stamp) : Bool := sampleAt s.sec.sealOk t

/-- The public key of an owner slot; no owner key verifies without a loaded configuration (R661). -/
def State.ownerKey (s : State) (slot : Nat) : Option (List Byte) :=
  if s.sec.loaded then assoc s.sec.cfg.keys slot else none

/-- The module is OWNED (R653); without a valid configuration it acts as OWNED (R661). -/
def State.owned (s : State) : Bool := s.bit SEC_STATUS 0

/-- Parse a firmware image (Table 13-5): none where the header or the length is malformed. -/
def parseImage (bs : List Byte) : Option FwImage :=
  let body := fieldAt bs 16 4
  let fl := fieldAt bs 6 2
  let sigs := 2420 * (1 + fl % 2)
  if bs.length < 64 || 16777216 < bs.length then none
  else if fieldAt bs 0 4 != 0x574E444A || fieldAt bs 4 2 != 0x0100 || fl / 2 != 0 then none
  else if !zerosAt bs 44 20 || bs.length != 64 + body + sigs then none
  else some {
    version := fieldAt bs 8 8
    owner := fl % 2 == 1
    journalW := fieldAt bs 20 2
    journalR := fieldAt bs 22 2
    mbLo := fieldAt bs 24 1 * 256 + fieldAt bs 25 1
    mbHi := fieldAt bs 26 1 * 256 + fieldAt bs 27 1
    feats := BitVec.ofNat 128 (fieldAt bs 28 16)
    bytes := bs }

/-- The bytes that an image's signatures cover: 0 to the end of the body. -/
def FwImage.signed (i : FwImage) : List Byte := i.bytes.take (64 + fieldAt i.bytes 16 4)

/-- The Jarador signature of an image. -/
def FwImage.jaradorSig (i : FwImage) : List Byte := slice i.bytes (64 + fieldAt i.bytes 16 4) 2420

/-- The owner signature of an image. -/
def FwImage.ownerSig (i : FwImage) : List Byte := slice i.bytes (64 + fieldAt i.bytes 16 4 + 2420) 2420

/-- The Jarador signature verifies under the key in the boot ROM (R650). -/
def FwImage.signedByJarador (i : FwImage) : Bool :=
  Config.jaradorVerify (sha3 i.signed) i.jaradorSig

/-- The owner signature verifies under the key of a present owner slot (R650). -/
def State.signedByOwner (s : State) (i : FwImage) : Bool :=
  i.owner && (List.range 4).any (fun k =>
    match s.ownerKey k with
    | some key => Config.mldsaVerify key (sha3 i.signed) i.ownerSig
    | none => false)

/-- The last-known-good image: the valid slot of higher image version (R499). -/
def State.lkg (s : State) : Option FwImage :=
  (s.fw.flash.filter (fun f => f.2)).foldl (fun best f =>
    match best with
    | none => some f.1
    | some b => if b.version < f.1.version then some f.1 else some b) none

/-- An image is accepted (R650); without a valid configuration only the last-known-good image is (R661). -/
def State.accepts (s : State) (i : FwImage) : Bool :=
  i.signedByJarador && s.sec.cfg.minVersion ≤ i.version && (!s.sec.cfg.coSign || s.signedByOwner i) &&
    (s.sec.loaded || s.lkg == some i)

/-- The check of an image, with a failed signature recorded. -/
def State.checkImage (s : State) (i : FwImage) : Bool × State :=
  if s.accepts i then (true, s)
  else if !i.signedByJarador || (s.sec.cfg.coSign && i.owner && !s.signedByOwner i) then (false, s.sigReject)
  else (false, s)

/-- A partition's bit in WDN_ADMIN (R496). -/
def State.admin (s : State) (p : Nat) : Bool := s.bit WDN_ADMIN p

end Sys2Proof.Machine
end

