-- ==== Sys2Proof/Machine/Embedding.lean ====
section
/-! DEFINITION. Embedding tables (spec/11): descriptors, look-ups and pooling, updates, hot sets with their migrations, and
versions. -/

namespace Sys2Proof.Machine

/-! ### Tables and their versions -/

/-- User pseudo-channels of a partition: n of R434. -/
def State.userPchs (s : State) (p : Nat) : Nat := popCount 240 (s.part p).assign.pch

/-- A table by its ID. -/
def State.table? (s : State) (i : Nat) : Option EmbTable := s.tables.find? (fun t => t.id == i)

/-- A version of a table. -/
def EmbTable.ver? (t : EmbTable) (v : Nat) : Option EmbVer :=
  if t.cur.ver == v then some t.cur
  else match t.old with
    | some o => if o.1.ver == v then some o.1 else none
    | none => none

/-- Change a version of a table. -/
def State.setVer (s : State) (i v : Nat) (f : EmbVer → EmbVer) : State :=
  { s with tables := updateWhere s.tables (fun t => t.id == i) (fun (t : EmbTable) =>
      if t.cur.ver == v then { t with cur := f t.cur }
      else { t with old := t.old.map (fun o => if o.1.ver == v then (f o.1, o.2) else o) }) }

/-- The version that a command binds (R457): the current one at its intake, named by its number or by 0xFFFF (R444). -/
def State.boundTable (s : State) (c : Cmd) (i ver : Nat) : Option (EmbTable × EmbVer) :=
  match s.table? i, assoc c.snap.tables i with
  | some t, some v => if t.part == c.hdr.partition && (ver == 0xFFFF || ver == v) then (t.ver? v).map (fun x => (t, x)) else none
  | _, _ => none

/-- The hot areas of a partition's tables (R437). -/
def State.hotAreas (s : State) (p : Nat) : List (Nat × Nat) :=
  (s.tables.filter (fun t => t.part == p)).flatMap (fun t =>
    (t.cur.hot, t.cur.hotLen (s.userPchs p)) :: (match t.old with
      | some o => [(o.1.hot, o.1.hotLen (s.userPchs p))]
      | none => []) ++ (match t.next with
      | some o => [(o.1.hot, o.1.hotLen (s.userPchs p))]
      | none => []))

/-- MEM_WRITE (R96, R143, R437). -/
def bodyMemWrite (c : Cmd) (s : State) : State := memWriteAt (s.hotAreas c.hdr.partition) c s

/-- MEM_READ (R96, R143, R437). -/
def bodyMemRead (c : Cmd) (s : State) : State := memReadAt (s.hotAreas c.hdr.partition) c s

/-! ### The hot directory (R436, R452) -/

/-- The first entry that a row is looked for at. -/
def hotHash (row m : Nat) : Nat := row * 0x9E37_79B9_7F4A_7C15 % 2 ^ 64 / 2 ^ (64 - m)

/-- Probe the directory at `dir` from entry `i`: the entry's number, and the hot slot of the row where it is found; none
where an entry cannot be read. -/
def State.probe (s : State) (dir m row : Nat) : Nat → Nat → Option (Nat × Option Nat)
  | 0, i => some (i, none)
  | fuel + 1, i =>
    let a := dir + 8 * i
    if s.isUe a 8 then none
    else
      let e := s.num a 8
      if e == 2 ^ 64 - 1 then some (i, none)
      else if e / 2 ^ 24 == row then some (i, some (e % 2 ^ 24))
      else s.probe dir m row fuel ((i + 1) % 2 ^ m)

/-- Where a row is found in the directory of a version, or the empty entry that its search ends at. -/
def State.hotFind (s : State) (p : Nat) (v : EmbVer) (row : Nat) : Option (Nat × Option Nat) :=
  if v.cap == 0 then some (0, none)
  else s.probe (v.dirAt (s.userPchs p)) v.dirLog row (2 ^ v.dirLog) (hotHash row v.dirLog)

/-- Write a directory entry. -/
def State.putHot (s : State) (p : Nat) (v : EmbVer) (i e : Nat) : State :=
  s.store (v.dirAt (s.userPchs p) + 8 * i) (toLE 8 e)

/-- Enter a row with its hot slot. -/
def State.addHot (s : State) (p : Nat) (v : EmbVer) (row slot : Nat) : State :=
  match s.hotFind p v row with
  | some (i, _) => s.putHot p v i (row * 2 ^ 24 + slot)
  | none => s

/-- Entries that follow a cleared one up to the next empty entry are entered again, so that every row stays where its probe
finds it. -/
def State.reseat (s : State) (p : Nat) (v : EmbVer) : Nat → Nat → State
  | 0, _ => s
  | fuel + 1, i =>
    let e := s.num (v.dirAt (s.userPchs p) + 8 * i) 8
    if e == 2 ^ 64 - 1 then s
    else
      let s1 := (s.putHot p v i (2 ^ 64 - 1)).addHot p v (e / 2 ^ 24) (e % 2 ^ 24)
      State.reseat s1 p v fuel ((i + 1) % 2 ^ v.dirLog)

/-- Clear a row's entry. -/
def State.clearHot (s : State) (p : Nat) (v : EmbVer) (row : Nat) : State :=
  match s.hotFind p v row with
  | some (i, some _) => State.reseat (s.putHot p v i (2 ^ 64 - 1)) p v (2 ^ v.dirLog) ((i + 1) % 2 ^ v.dirLog)
  | _ => s

/-! ### Where a row lies (R432, R433, R436, R439) -/

/-- The serving copy of a row: its address, the distance of its state rows, and whether it is a hot copy. -/
structure RowLoc where
  addr : Nat
  step : Nat
  hot  : Bool
  deriving DecidableEq, Repr, Inhabited

/-- The home copy of a row. -/
def EmbVer.home (v : EmbVer) (row : Nat) : RowLoc := ⟨v.base + row * v.stride, v.delta, false⟩

/-- A hot slot of a version. -/
def EmbVer.slotLoc (v : EmbVer) (n slot : Nat) : RowLoc := ⟨v.hot + slot * v.stride, v.hotDelta n, true⟩

/-- The copy that serves a row; none where the directory cannot be read. -/
def State.locate (s : State) (p : Nat) (v : EmbVer) (row : Nat) : Option RowLoc :=
  match s.hotFind p v row with
  | none => none
  | some (_, some k) => some (v.slotLoc (s.userPchs p) k)
  | some (_, none) => some (v.home row)

/-- The device that a copy lies on is lost (R132). -/
def State.locLost (s : State) (x : RowLoc) : Bool :=
  match cxlLinkOf x.addr with
  | some l => s.fld TIER_CXL_STATE (8 * l + 7) (8 * l) == 4
  | none => false

/-- Segments of a row with their bytes (R438). -/
def EmbVer.segs (v : EmbVer) : List (Nat × Nat) :=
  if v.stride ≤ 4096 then [(0, v.rowBytes)]
  else (List.range (ceilDiv v.rowBytes 4096)).map (fun k => (4096 * k, min 4096 (v.rowBytes - 4096 * k)))

/-- A Spindle engine that a row copy lies with takes no descriptors (SPN_CTRL, SPN_ENGINE). -/
def State.locHeld (s : State) (v : EmbVer) (x : RowLoc) : Bool :=
  v.segs.any (fun g => match s.pchOf (x.addr + g.1) with
    | some (u, _) => !s.engineTakes u
    | none => false)

/-- The opcode of the engine descriptors that do an update of a kind (Table 4-3): 0x08 SCATTER_ADD, then ROW_SGD, ROW_ADAGRAD and
ROW_ADAM. -/
def rowOpcode (kind : Nat) : Nat := 0x08 + kind

/-- An uncorrectable read by the embedding-table unit, or by an engine under an opcode, for a partition (EMB_EVENT, R181, R451). -/
def State.embUe (s : State) (op p a : Nat) : State := (s.event EMB_EVENT 1).memUe a op p

/-- What stops a command that names rows: a directory that cannot be read, a lost row (R439), a link that is not ready
(R636). -/
inductive RowStop where
  | ok | unreadable | lost | notReady (bit : Nat)
  deriving DecidableEq, Repr

/-- Check the rows that a command names. -/
def State.rowStop (s : State) (p : Nat) (v : EmbVer) (rows : List Nat) : RowStop :=
  let ls := rows.map (s.locate p v)
  if ls.any (fun x => x.isNone) then .unreadable
  else if ls.any (fun x => (x.map s.locLost).getD false) then .lost
  else
    match ls.findSome? (fun x => x.bind (fun x => s.cxlMissing x.addr v.rowBytes)) with
    | some b => .notReady b
    | none => .ok

/-- Refuse a command for what stops its rows. -/
def State.refuseRows (s : State) (c : Cmd) (v : EmbVer) : RowStop → State
  | .ok => s
  | .unreadable =>
    (s.embUe 0 c.hdr.partition (v.dirAt (s.userPchs c.hdr.partition))).refuse c stUncorrectableData
  | .lost => (s.event EMB_EVENT 2).refuse c stTierLost
  | .notReady b => s.refuseHint c stNotReady (s.readyHint b c.intake)

/-! ### Creating, replacing and dropping a table (R431 to R437, R457 to R459) -/

/-- Parse Table 11-1. -/
def parseEmb (bs : List Byte) : Nat × EmbVer :=
  let f := fieldAt bs
  let fl := f 7 1
  let v : EmbVer :=
    { ver := f 2 2, fmt := f 4 1, opt := f 5 1, tier := f 6 1, dflt := if fl.testBit 0 then some (f 40 8) else none,
      ro := fl.testBit 1, dims := f 8 2, stride := f 12 4, rows := f 16 8, base := f 24 8, delta := f 32 8, cap := f 48 4,
      hot := f 56 8 }
  (f 0 2, v)

/-- Reserved fields of a descriptor are zero. -/
def embResvOk (bs : List Byte) : Bool := fieldAt bs 7 1 < 4 && zerosAt bs 10 2 && zerosAt bs 52 4

/-- The fields of a descriptor are within Table 11-1 (R433). -/
def EmbVer.ok (v : EmbVer) : Bool :=
  v.ver != 0xFFFF && [1, 2, 4, 7].contains v.fmt && v.opt ≤ 3 && (v.opt < 2 || v.fmt == 7) && (v.tier == 1 || v.tier == 2) &&
  16 ≤ v.dims && v.dims ≤ 4096 && v.dims % 16 == 0 && v.rowBytes ≤ v.stride &&
  ((16 ≤ v.stride && v.stride ≤ 4096 && 2 ^ Nat.log2 v.stride == v.stride) || (v.stride != 0 && v.stride % 4096 == 0)) &&
  1 ≤ v.rows && v.rows ≤ 2 ^ 40 && v.base % 4096 == 0 && (v.states != 0 || v.delta == 0) &&
  (match v.dflt with
   | some d => d < v.rows
   | none => true) &&
  v.cap ≤ 16777215 && (v.tier == 2 || v.cap == 0) && v.hot % 4096 == 0 && (v.cap != 0 || v.hot == 0)

/-- The storage of a version is where R434 and R435 ask for it. -/
def State.embPlaced (s : State) (p : Nat) (v : EmbVer) : Bool :=
  let n := s.userPchs p
  let home := (v.ranges n).take (v.states + 1)
  (if v.tier == 1 then v.delta % (n * 4096) == 0 && home.all (fun r => s.inRegion p r.1 r.2)
   else v.delta % 4096 == 0 && home.all (fun r => s.inCxl p r.1 r.2)) &&
  (v.cap == 0 || s.inRegion p v.hot (v.hotLen n))

/-- The storage of a version touches the partition's tile directory (R105; log entry 97). -/
def State.embOnDir (s : State) (p : Nat) (v : EmbVer) : Bool := (v.ranges (s.userPchs p)).any (fun r => s.hitsDir p r.1 r.2)

/-- An empty hot directory. -/
def State.clearDir (s : State) (p : Nat) (v : EmbVer) : State :=
  if v.cap == 0 then s else s.store (v.dirAt (s.userPchs p)) (List.replicate (8 * 2 ^ v.dirLog) 0xFF)

/-- Do `k` while the embedding-table unit is enabled (EMB_CTRL). -/
def State.embOpen (s : State) (c : Cmd) (k : State → State) : State := if s.bit EMB_CTRL 0 then k s else s.refuseNotReady c

/-- EMB_TABLE_CREATE. -/
def bodyEmbTableCreate (c : Cmd) (s : State) : State :=
  s.embOpen c fun s =>
    let p := c.hdr.partition
    let (id, v) := parseEmb c.input
    if c.input.length != 64 then s.refuse c stBadParameter
    else if ((s.table? id).map (fun t => t.part != p)).getD false then s.refuse c stNotPermitted
    else if 4096 ≤ id || (s.table? id).isSome || !v.ok || !embResvOk c.input then s.refuse c stBadParameter
    else if !s.embPlaced p v then s.refuse c stBadAddress
    else if s.embOnDir p v then s.refuse c stNotPermitted
    else
      let t : EmbTable := { id := id, part := p, cur := v }
      (({ s with tables := s.tables ++ [t] }).clearDir p v).reply c stOk []
        (toLE 2 (if v.stride ≤ 4096 then 1 else ceilDiv v.rowBytes 4096) ++ zeros 2 ++ toLE 8 (v.hotLen (s.userPchs p)) ++ zeros 4)

/-- EMB_TABLE_REPLACE: the new version becomes current at the switch stamp, which is the instant after this one, so that every command
of this stamp binds the old version (R457; log entry 138); the command replies when the old one has drained. A reserved field that
is not zero differs from Table 11-1 (R458). -/
def bodyEmbTableReplace (c : Cmd) (s : State) : State :=
  s.embOpen c fun s =>
    let p := c.hdr.partition
    let n := s.userPchs p
    let (id, v) := parseEmb c.input
    if c.input.length != 64 then s.refuse c stBadParameter
    else
      match s.table? id with
      | none => s.refuse c stUnknownObject
      | some t =>
        if t.part != p then s.refuse c stUnknownObject
        else if t.old.isSome || t.next.isSome then s.refuseBusy c
        else if !v.ok || !embResvOk c.input || v.ver == t.cur.ver then s.refuse c stBadParameter
        else if !s.embPlaced p v || (v.ranges n).any (fun r => !clearOf r.1 r.2 (t.cur.ranges n)) then s.refuse c stBadAddress
        else if s.embOnDir p v then s.refuse c stNotPermitted
        else
          { s with tables := updateWhere s.tables (fun x => x.id == id) (fun (x : EmbTable) => { x with next := some (v, c.id, s.now) }) }

/-- The switch stamps of accepted replacements that device time has reached (R457): the new version is current, with an empty hot
set. -/
def State.installTables (s : State) : State :=
  s.tables.foldl (fun s t =>
    match t.next with
    | none => s
    | some (v, id, at_) =>
      if s.now ≤ at_ then s
      else
        ({ s with tables := updateWhere s.tables (fun x => x.id == t.id) (fun (x : EmbTable) =>
          { x with cur := v, old := some (x.cur, id), next := none }) } : State).clearDir t.part v) s

/-- A command of class 0x05 names a table: its first field, or all that it may still name while its input is on its way. -/
def Cmd.namesTable (c : Cmd) (id : Nat) : Bool :=
  c.hdr.opcode / 256 == 5 && (c.input.length < 2 || fieldAt c.input 0 2 == id)

/-- A command is bound to a version of a table (R457). -/
def State.tableBusy (s : State) (t : EmbTable) (ver self : Nat) : Bool :=
  s.cmds.any (fun c => c.id != self && c.hdr.partition == t.part && c.namesTable t.id && assoc c.snap.tables t.id == some ver &&
    c.hdr.opcode != 0x0504) || s.migs.any (fun m => m.table == t.id && m.ver == ver)

/-- TABLE_DRAIN_COMPLETE (R457, R458): no command is bound to the old version any more. -/
def tableDrainCompleteStep (id : Nat) (s : State) : State :=
  match s.table? id with
  | none => s
  | some t =>
    match t.old with
    | none => s
    | some (v, owed) =>
      if s.tableBusy t v.ver owed then s
      else
        let s1 := { s with tables := updateWhere s.tables (fun x => x.id == id) (fun (x : EmbTable) => { x with old := none }) }
        s1.endWith owed stOk

/-- EMB_TABLE_DROP. -/
def bodyEmbTableDrop (c : Cmd) (s : State) : State :=
  s.embOpen c fun s =>
    s.shaped c 8 [(2, 6)] fun s =>
      match s.table? (fieldAt c.input 0 2) with
      | none => s.refuse c stUnknownObject
      | some t =>
        if t.part != c.hdr.partition then s.refuse c stUnknownObject
        else if t.old.isSome || t.next.isSome || s.tableBusy t t.cur.ver c.id then s.refuseBusy c
        else ({ s with tables := s.tables.filter (fun x => x.id != t.id) }).refuse c stOk

/-! ### Look-ups (R438 to R444) -/

/-- A partial sum or maximum that one descriptor yields: the pseudo-channel, the rows it holds so far, its values. -/
structure Partial where
  pch  : Option Nat
  n    : Nat
  vals : List F32
  deriving DecidableEq, Repr, Inhabited

/-- Element-wise sum or maximum. -/
def joinF (mx : Bool) (a b : List F32) : List F32 := a.zipWith (fun x y => if mx then fMax x y else fAdd x y) b

/-- Add a row's segment to the partial results: to the first descriptor of its pseudo-channel with fewer than 8 rows, or as a
new one. A row that the unit reads itself, from tier 2 or a default row of zeros, is a partial result of its own (R438,
R443). -/
def addPartial (mx : Bool) (ps : List Partial) (pch : Option Nat) (vals : List F32) : List Partial :=
  match (ps.zipIdx.find? (fun e => pch.isSome && e.1.pch == pch && e.1.n < 8)).map (fun e => e.2) with
  | some i => modifyAt ps i (fun x => { x with n := x.n + 1, vals := joinF mx x.vals vals })
  | none => ps ++ [⟨pch, 1, vals⟩]

/-- The row that an index reads: itself, or the default row; none: a row of zeros (R440). -/
def EmbVer.resolve (v : EmbVer) (i : Nat) : Option Nat := if i < v.rows then some i else v.dflt

/-- The values of a segment of a row, and the pseudo-channel whose engine reads it. -/
def State.segOf (s : State) (p : Nat) (v : EmbVer) (row : Option Nat) (o n : Nat) : Option Nat × List F32 :=
  match row.bind (s.locate p v) with
  | none => (none, List.replicate (segElems v.fmt n) 0)
  | some x => ((s.pchOf (x.addr + o)).map (fun e => e.1), segValues v.fmt (s.bytes (x.addr + o) n))

/-- The pooled vector of a bag (R442, R443): mode 1 sum, 2 mean, 3 maximum; an empty bag gives the default row. -/
def State.poolBag (s : State) (p : Nat) (v : EmbVer) (mode : Nat) (bag : List Nat) : List F32 :=
  let mx : Bool := mode == 3
  let rows := if bag.isEmpty then [v.dflt] else bag.map v.resolve
  let sum := v.segs.flatMap (fun g =>
    let ps := rows.foldl (fun ps r =>
      let e := s.segOf p v r g.1 g.2
      addPartial mx ps e.1 e.2) ([] : List Partial)
    match ps with
    | [] => []
    | x :: xs => xs.foldl (fun a y => joinF mx a y.vals) x.vals)
  if mode == 2 && !bag.isEmpty then sum.map (fun x => fDiv x (fOfNat bag.length)) else sum

/-- Cut a list into bags. -/
def bagsOf : List Nat → List Nat → List (List Nat)
  | [], _ => []
  | n :: ns, l => l.take n :: bagsOf ns (l.drop n)

/-- A row as stored. -/
def State.rowStored (s : State) (p : Nat) (v : EmbVer) (row : Option Nat) : List Byte :=
  match row.bind (s.locate p v) with
  | none => zeros v.rowBytes
  | some x => s.bytes x.addr v.rowBytes

/-- The address of the first uncorrectable burst from an address on. -/
def State.badBurst (s : State) (a : Nat) : Nat :=
  ((minNat? (s.ue.filter (fun b => a < 64 * b + 64))).map (fun b => max a (64 * b))).getD a

/-- The first of a list of rows that reads uncorrectable. -/
def State.rowUe (s : State) (p : Nat) (v : EmbVer) (rows : List Nat) : Option Nat :=
  rows.findSome? (fun r => (s.locate p v r).bind (fun x =>
    if s.isUe x.addr v.rowBytes then some (s.badBurst x.addr) else none))

/-- The directory entries that a probe for a row reads (R452). -/
def State.dirReads (s : State) (p : Nat) (v : EmbVer) (row : Nat) : List (Nat × Nat) :=
  let dir := v.dirAt (s.userPchs p)
  match (if v.cap == 0 then none else s.hotFind p v row) with
  | some (i, _) =>
    let h := hotHash row v.dirLog
    (List.range ((i + 2 ^ v.dirLog - h) % 2 ^ v.dirLog + 1)).map (fun k => (dir + 8 * ((h + k) % 2 ^ v.dirLog), 8))
  | none => []

/-- Corrected errors in what the embedding-table unit reads for a partition, or an engine under an opcode, are recorded and reported
(EMB_EVENT, R181). -/
def State.embReads (s : State) (op p : Nat) (rs : List (Nat × Nat)) : State :=
  (s.ce.filter (fun b => rs.any (fun r => r.1 < 64 * b + 64 && 64 * b < r.1 + r.2))).foldl
    (fun s b => (s.event EMB_EVENT 0).memCe (64 * b) op p) s

/-- A look-up has read its rows: the directory by the unit, the rows by GATHER (R438). -/
def State.gatherReads (s : State) (p : Nat) (v : EmbVer) (rows : List Nat) : State :=
  (s.embReads 0 p (rows.flatMap (s.dirReads p v))).embReads 0x07 p
    (rows.filterMap (fun r => (s.locate p v r).map (fun x => (x.addr, v.rowBytes))))

/-- A look-up or an update names a row that lies with a Spindle engine that takes no descriptors: it waits (R438, SPN_CTRL, SPN_ENGINE). -/
def State.embHeld (s : State) (c : Cmd) : Bool :=
  let f := fieldAt c.input
  let r := if c.hdr.opcode == 0x0500 then (16 + 4 * f 8 4, f 12 4) else if c.hdr.opcode == 0x0501 then (16, f 4 4)
    else if c.hdr.opcode == 0x0502 then (32, f 4 4) else (0, 0)
  if r.2 == 0 || c.input.length < r.1 + 8 * r.2 then false
  else
    match s.boundTable c (f 0 2) (f 2 2) with
    | none => false
    | some (_, v) =>
      ((List.range r.2).map (fun i => f (r.1 + 8 * i) 8)).any (fun i =>
        (((v.resolve i).bind (s.locate c.hdr.partition v)).map (s.locHeld v)).getD false)

/-- EMB_GATHER. -/
def bodyEmbGather (c : Cmd) (s : State) : State :=
  s.embOpen c fun s =>
    let f := fieldAt c.input
    let p := c.hdr.partition
    let mode := f 4 1
    let nb := f 8 4
    let ni := f 12 4
    if c.input.length < 16 || 4 ≤ mode || nb == 0 || 65536 < nb || (mode == 0 && nb != 1) || ni == 0 || 1048576 < ni ||
        c.input.length != 16 + 4 * nb + 8 * ni then s.refuse c stBadParameter
    else if !zerosAt c.input 5 3 then s.refuse c stReservedNonzero
    else
      let lens := (List.range nb).map (fun i => f (16 + 4 * i) 4)
      let ids := (List.range ni).map (fun i => f (16 + 4 * nb + 8 * i) 8)
      if sumNat lens != ni then s.refuse c stBadParameter
      else
        match s.boundTable c (f 0 2) (f 2 2) with
        | none => s.refuse c stUnknownObject
        | some (_, v) =>
          let bags := bagsOf lens ids
          let rows := dedupBy (fun (x : Nat) => x) (ids.filterMap v.resolve ++
            (if bags.any (fun b => b.isEmpty) then v.dflt.toList else []))
          let st := s.rowStop p v rows
          if st != .ok then s.refuseRows c v st
          else
            match s.rowUe p v rows with
            | some a => (s.embUe 0x07 p a).refuse c stUncorrectableData
            | none =>
              let defs := (ids.filter (fun i => v.rows ≤ i)).length
              let data := if mode == 0 then ids.flatMap (fun i => padTo (roundUp v.rowBytes 8) (s.rowStored p v (v.resolve i)))
                else bags.flatMap (fun b => (s.poolBag p v mode b).flatMap (fun x => toLE 4 x.toNat))
              (((s.gatherReads p v rows).bump (EMB_LOOKUP_CNT p) 31 0 ni).bump (EMB_LOOKUP_CNT p) 63 32 defs).replyData c stOk []
                (toLE 4 (if mode == 0 then ni else nb) ++ toLE 2 v.dims ++ toLE 1 (if mode == 0 then v.fmt else 7) ++ zeros 1 ++
                  toLE 4 defs ++ toLE 2 v.ver ++ zeros 2 ++ data)

/-! ### Updates (R445 to R451) -/

/-- Update one copy of a row with its state (Table 4-9, R438, R451): none where a burst reads uncorrectable. -/
def State.updateRow (s : State) (v : EmbVer) (kind : Nat) (h : RowParams) (x : RowLoc) (gs : List F32) : Option State :=
  let st := rowStates kind
  let at_ (t : Nat) : Nat := x.addr + t * x.step
  if s.isUe x.addr v.rowBytes || (1 ≤ st && s.isUe (at_ 1) (4 * v.dims)) || (2 ≤ st && s.isUe (at_ 2) (4 * v.dims)) then none
  else
    let w := segValues v.fmt (s.bytes x.addr v.rowBytes)
    let a := if 1 ≤ st then segValues 7 (s.bytes (at_ 1) (4 * v.dims)) else []
    let b := if 2 ≤ st then segValues 7 (s.bytes (at_ 2) (4 * v.dims)) else []
    let r := (List.range v.dims).map (fun i => rowUpdate kind h (w.getD i 0) (a.getD i 0) (b.getD i 0) (gs.getD i 0))
    let s1 := s.store x.addr (segPack v.fmt (r.map (fun e => e.1)))
    let s2 := if 1 ≤ st then s1.store (at_ 1) (segPack 7 (r.map (fun e => e.2.1))) else s1
    some (if 2 ≤ st then s2.store (at_ 2) (segPack 7 (r.map (fun e => e.2.2))) else s2)

/-- Change an update at work. -/
def State.setEmbJob (s : State) (id : Nat) (f : EmbJob → EmbJob) : State :=
  { s with embJobs := updateWhere s.embJobs (fun j => j.cmd == id) f }

/-- Apply one update of a job to a copy of a row. -/
def State.applyUpdate (s : State) (p : Nat) (v : EmbVer) (j : EmbJob) (x : RowLoc) (gs : List F32) : State :=
  let spans := (x.addr, v.rowBytes) :: (List.range (rowStates j.kind)).map (fun t => (x.addr + (t + 1) * x.step, 4 * v.dims))
  let s := s.embReads (rowOpcode j.kind) p spans
  match s.updateRow v j.kind (rowParams j.words) x gs with
  | some s1 => s1.bump (EMB_UPDATE_CNT p) 31 0 1
  | none =>
    let a := ((spans.find? (fun r => s.isUe r.1 r.2)).map (fun r => r.1)).getD x.addr
    (s.embUe (rowOpcode j.kind) p (s.badBurst a)).setEmbJob j.cmd (fun j => { j with bad := true })

/-- Claim a free parameter slot in rotation and write it with PSET in every stack (R448); none where every slot is held. -/
def State.claimSlot (s : State) (j : EmbJob) : Option State :=
  let held := s.embJobs.filterMap (fun j => j.slot)
  (nextAfter s.embLast ((List.range 256).filter (fun i => !held.contains i))).map (fun k =>
    let s1 := s.stacksReady.foldl (fun (s : State) st =>
      { s with spn := { s.spn with param := storeSet s.spn.param st k j.words }.heal st 2 k }) s
    ({ s1 with embLast := k }).setEmbJob j.cmd (fun j => { j with slot := some k }))

/-- Updates in the migration log. -/
def State.logUsed (s : State) : Nat := sumNat (s.migs.map (fun m => m.log.length))

/-- An update whose rows are all done replies, and its parameter slot is free. -/
def State.embFinish (s : State) (id : Nat) : State :=
  match s.embJobs.find? (fun j => j.cmd == id) with
  | none => s
  | some j =>
    if !j.items.isEmpty || j.logged != 0 || (j.needs && j.slot.isNone) then s
    else
      let s1 := { s with embJobs := s.embJobs.filter (fun x => x.cmd != id) }
      match s1.cmd? id with
      | some c => s1.refuse c (if j.bad then stUncorrectableData else stOk)
      | none => s1

/-- An update command that has not started may name a row of a table: what its input names so far allows it. -/
def Cmd.mayUpdate (d : Cmd) (table row : Nat) : Bool :=
  let f := fieldAt d.input
  let first := if d.hdr.opcode == 0x0501 then 16 else 32
  (d.hdr.opcode == 0x0501 || d.hdr.opcode == 0x0502) && (d.input.length < 2 || f 0 2 == table) &&
    (!d.refs.isEmpty || (List.range (f 4 4)).any (fun i => f (first + 8 * i) 8 == row))

/-- An update of the row from an earlier command, of any queue pair, has still to apply (R450): that of a command at work, or of one
that has not started. -/
def State.earlierUpdate (s : State) (j : EmbJob) (row : Nat) : Bool :=
  s.embJobs.any (fun x => x.cmd < j.cmd && x.table == j.table && x.ver == j.ver && x.items.any (fun e => e.1 == row)) ||
    s.cmds.any (fun d => d.id < j.cmd && d.phase != .started && assoc d.snap.tables j.table == some j.ver && d.mayUpdate j.table row)

/-- One row of an update: applied, logged while the row migrates (R454), or kept back: behind an earlier update of the same
row (R450), for want of log space (R456), or while its engine takes no descriptors. -/
def State.embItem (s : State) (p : Nat) (v : EmbVer) (id : Nat) (item : Nat × List F32) : State :=
  match s.embJobs.find? (fun j => j.cmd == id) with
  | none => s
  | some j =>
    let keep (s : State) : State := s.setEmbJob id (fun j => { j with items := j.items ++ [item] })
    if s.earlierUpdate j item.1 || j.items.any (fun e => e.1 == item.1) then keep s
    else
      match s.migs.find? (fun m => m.table == j.table && m.ver == j.ver && m.row == item.1) with
      | some _ =>
        if 4096 ≤ s.logUsed then
          (keep (s.event EMB_EVENT 3)).setEmbJob id (fun j => { j with logWait := true })
        else
          let migs := updateWhere s.migs (fun m => m.table == j.table && m.ver == j.ver && m.row == item.1)
            (fun (m : Migration) => { m with log := m.log ++ [(id, item.2)] })
          (({ s with migs := migs }).setEmbJob id
            (fun j => { j with logged := j.logged + 1 })).bump (EMB_MIGRATE_CNT p) 63 32 1
      | none =>
        match s.locate p v item.1 with
        -- the engine takes no descriptor of it now: the row waits (SPN_CTRL)
        | some x => if s.locHeld v x then keep s else s.applyUpdate p v j x item.2
        | none => (s.embUe 0 p (v.dirAt (s.userPchs p))).setEmbJob id (fun j => { j with bad := true })

/-- Carry an update on as far as it goes. -/
def State.embRun (s : State) (id : Nat) : State :=
  match s.embJobs.find? (fun j => j.cmd == id) with
  | none => s
  | some j =>
    match (s.table? j.table).bind (fun t => (t.ver? j.ver).map (fun v => (t.part, v))) with
    | none => s
    | some (p, v) =>
      match (if j.needs && j.slot.isNone then s.claimSlot j else some s) with
      | none => s
      | some s1 =>
        let s2 := s1.setEmbJob id (fun j => { j with items := [], logWait := false })
        (j.items.foldl (fun s e => s.embItem p v id e) s2).embFinish id

/-- Updates that wait behind others go on. -/
def State.embPump (s : State) : State :=
  (s.embJobs.map (fun j => j.cmd)).foldl (fun s id =>
    match s.embJobs.find? (fun j => j.cmd == id) with
    | some j => if j.logWait || (j.needs && j.slot.isNone) then s else s.embRun id
    | none => s) s

/-- PARAM_SLOT_CLAIM (R448). -/
def paramSlotClaimStep (id : Nat) (s : State) : State := (s.embRun id).embPump

/-- MIGRATION_LOG_RESUME (R456). -/
def migrationLogResumeStep (id : Nat) (s : State) : State := (s.embRun id).embPump

/-- FP32 vectors at an offset. -/
def vectorsAt (bs : List Byte) (off n dims : Nat) : List (List F32) :=
  (List.range n).map (fun k => (List.range dims).map (fun i => BitVec.ofNat 32 (fieldAt bs (off + 4 * (k * dims + i)) 4)))

/-- Gradients of one row are summed in list order (R447). -/
def sumRows (l : List (Nat × List F32)) : List (Nat × List F32) :=
  (dedupBy (fun (x : Nat) => x) (l.map (fun e => e.1))).map (fun r =>
    match (l.filter (fun e => e.1 == r)).map (fun e => e.2) with
    | [] => (r, [])
    | x :: xs => (r, xs.foldl (fun a b => a.zipWith fAdd b) x))

/-- Start an update: indices that are invalid or missing are dropped (R449), and a lost row refuses it (R439). -/
def State.startUpdate (s : State) (c : Cmd) (t : EmbTable) (v : EmbVer) (kind : Nat) (words : List Byte) (off n : Nat) : State :=
  let p := c.hdr.partition
  let ids := (List.range n).map (fun i => fieldAt c.input (off + 8 * i) 8)
  let all := (ids.zip (vectorsAt c.input (off + 8 * n) n v.dims)).filter (fun e => e.1 < v.rows)
  let items := if kind == 0 then all else sumRows all
  let st := s.rowStop p v (dedupBy (fun (x : Nat) => x) (items.map (fun e => e.1)))
  if st != .ok then s.refuseRows c v st
  else
    let j : EmbJob :=
      { cmd := c.id, table := t.id, ver := v.ver, kind := kind, words := words, needs := kind != 0, items := items }
    (({ s with embJobs := s.embJobs ++ [j] }).bump (EMB_UPDATE_CNT p) 63 32 (n - all.length)).embRun c.id

/-- EMB_SCATTER_ADD. -/
def bodyEmbScatterAdd (c : Cmd) (s : State) : State :=
  s.embOpen c fun s =>
    let f := fieldAt c.input
    let n := f 4 4
    if c.input.length < 16 || n == 0 || 65536 < n then s.refuse c stBadParameter
    else if !zerosAt c.input 8 8 then s.refuse c stReservedNonzero
    else
      match s.boundTable c (f 0 2) (f 2 2) with
      | none => s.refuse c stUnknownObject
      | some (t, v) =>
        if v.ro || c.input.length != 16 + 8 * n + 4 * v.dims * n then s.refuse c stBadParameter
        else s.startUpdate c t v 0 (zeros 32) 16 n

/-- The parameter slot of an EMB_UPDATE (Table 4-10, R448). -/
def updateWords (bs : List Byte) (v : EmbVer) (n : Nat) : List Byte :=
  let f := fieldAt bs
  let one : F32 := 0x3F800000
  let corr (b : Nat) : Nat := (fDiv one (fSub one (powF32 (BitVec.ofNat 32 b) (f 8 4)))).toNat
  let d := (if v.tier == 1 then v.delta else v.hotDelta n) / max 1 n
  toLE 4 (f 12 4) ++ toLE 4 (f 16 4) ++ toLE 4 (f 20 4) ++ toLE 4 (f 24 4) ++ toLE 4 (corr (f 20 4)) ++ toLE 4 (corr (f 24 4)) ++
    toLE 4 d ++ toLE 4 (2 * d)

/-- EMB_UPDATE. -/
def bodyEmbUpdate (c : Cmd) (s : State) : State :=
  s.embOpen c fun s =>
    let f := fieldAt c.input
    let n := f 4 4
    if c.input.length < 32 || n == 0 || 65536 < n || f 8 4 == 0 then s.refuse c stBadParameter
    else if !zerosAt c.input 28 4 then s.refuse c stReservedNonzero
    else
      match s.boundTable c (f 0 2) (f 2 2) with
      | none => s.refuse c stUnknownObject
      | some (t, v) =>
        if v.ro || v.opt == 0 || c.input.length != 32 + 8 * n + 4 * v.dims * n then s.refuse c stBadParameter
        else s.startUpdate c t v v.opt (updateWords c.input v (s.userPchs c.hdr.partition)) 32 n

/-! ### Hot sets (R452 to R456) -/

/-- A hot slot can be taken: it is free, and every command taken before the directory change that freed it has replied, the
one that takes it apart (R456). A command whose accept reply opened a stream has replied. -/
def State.slotFree (s : State) (v : EmbVer) (self k : Nat) : Bool :=
  !v.used.contains k && v.freed.all (fun e => e.1 != k ||
    s.cmds.all (fun c => c.id == self || e.2 ≤ c.intake || s.seqs.any (fun q => q.cmd == c.id) || s.telems.any (fun x => x.cmd == c.id)))

/-- Change an EMB_HOTSET_SET at work. -/
def State.setHotJob (s : State) (id : Nat) (f : HotJob → HotJob) : State :=
  { s with hotJobs := updateWhere s.hotJobs (fun j => j.cmd == id) f }

/-- A row migrates, or an earlier EMB_HOTSET_SET has still to move it: a later one waits for it. -/
def State.rowMoving (s : State) (j : HotJob) (row : Nat) : Bool :=
  s.migs.any (fun m => m.table == j.table && m.ver == j.ver && m.row == row) ||
    (s.hotJobs.takeWhile (fun x => x.cmd != j.cmd)).any (fun x => x.table == j.table && x.ver == j.ver &&
      (x.rem.contains row || x.add.contains row))

/-- Start the migration of a row into the hot set, if a hot slot can be taken. -/
def State.startAdd (s : State) (j : HotJob) (row : Nat) : State :=
  if s.rowMoving j row then s
  else match (s.table? j.table).bind (fun t => t.ver? j.ver) with
  | none => s
  | some v =>
    match (List.range v.cap).find? (s.slotFree v j.cmd) with
    | none => s
    | some k =>
      let m : Migration := { table := j.table, ver := j.ver, row := row, add := true, slot := k, cmd := j.cmd }
      (({ s with migs := s.migs ++ [m] }).setVer j.table j.ver (fun v => { v with
          used := k :: v.used, freed := v.freed.filter (fun e => e.1 != k) })).setHotJob j.cmd (fun j => { j with
          add := j.add.filter (fun r => r != row), left := j.left + 1 })

/-- Start the migration of a row out of the hot set. -/
def State.startRemove (s : State) (p : Nat) (j : HotJob) (row : Nat) : State :=
  if s.rowMoving j row then s
  else match ((s.table? j.table).bind (fun t => t.ver? j.ver)).bind (fun v => (s.hotFind p v row).bind (fun e => e.2)) with
  | none => s
  | some k =>
    let m : Migration := { table := j.table, ver := j.ver, row := row, add := false, slot := k, cmd := j.cmd }
    ({ s with migs := s.migs ++ [m] }).setHotJob j.cmd (fun j => { j with
        rem := j.rem.filter (fun r => r != row), left := j.left + 1 })

/-- Carry an EMB_HOTSET_SET on: every removal, then every add; then it replies. New migrations wait while MIGRATE_EN is
clear. -/
def State.hotRun (s : State) (id : Nat) : State :=
  match s.hotJobs.find? (fun j => j.cmd == id), s.cmd? id with
  | some j, some c =>
    if j.rem.isEmpty && j.add.isEmpty && j.left == 0 then
      ({ s with hotJobs := s.hotJobs.filter (fun x => x.cmd != id) }).refuse c stOk
    else if !s.bit EMB_CTRL 1 then s
    else if !j.rem.isEmpty then j.rem.foldl (fun s r => s.startRemove c.hdr.partition j r) s
    else if s.migs.any (fun m => m.cmd == id && !m.add) then s
    else j.add.foldl (fun s r => s.startAdd j r) s
  | _, _ => s

/-- Every EMB_HOTSET_SET at work goes on as far as it can. -/
def State.hotPump (s : State) : State := (s.hotJobs.map (fun j => j.cmd)).foldl (fun s id => s.hotRun id) s

/-- A row will be hot once the hot-set changes taken before are done (R453). -/
def State.willBeHot (s : State) (p : Nat) (t : EmbTable) (v : EmbVer) (row : Nat) : Bool :=
  let now : Bool := match s.migs.find? (fun m => m.table == t.id && m.ver == v.ver && m.row == row) with
    | some m => m.add
    | none => ((s.hotFind p v row).map (fun e => e.2.isSome)).getD false
  (s.hotJobs.filter (fun j => j.table == t.id && j.ver == v.ver)).foldl (fun b j =>
    if j.add.contains row then true else if j.rem.contains row then false else b) now

/-- Rows that will be hot once the hot-set changes taken before are done. -/
def State.hotCount (s : State) (t : EmbTable) (v : EmbVer) : Nat :=
  let js := s.hotJobs.filter (fun j => j.table == t.id && j.ver == v.ver)
  let ms := s.migs.filter (fun m => m.table == t.id && m.ver == v.ver)
  v.nHot + (ms.filter (fun m => m.add)).length + sumNat (js.map (fun j => j.add.length)) - (ms.filter (fun m => !m.add)).length -
    sumNat (js.map (fun j => j.rem.length))

/-- EMB_HOTSET_SET. -/
def bodyEmbHotsetSet (c : Cmd) (s : State) : State :=
  s.embOpen c fun s =>
    let f := fieldAt c.input
    let p := c.hdr.partition
    let na := f 4 4
    let nr := f 8 4
    if c.input.length < 16 || 65536 < na || 65536 < nr || c.input.length != 16 + 8 * (na + nr) then s.refuse c stBadParameter
    else if !zerosAt c.input 12 4 then s.refuse c stReservedNonzero
    else
      match s.boundTable c (f 0 2) (f 2 2) with
      | none => s.refuse c stUnknownObject
      | some (t, v) =>
        let adds := (List.range na).map (fun i => f (16 + 8 * i) 8)
        let rems := (List.range nr).map (fun i => f (16 + 8 * na + 8 * i) 8)
        let hot (r : Nat) : Bool := s.willBeHot p t v r
        if v.tier == 1 || (adds ++ rems).any (fun r => v.rows ≤ r) || hasRepeat adds || hasRepeat rems || adds.any hot ||
            rems.any (fun r => !hot r) then s.refuse c stBadParameter
        else if (adds ++ rems).any (fun r => (s.hotFind p v r).isNone) then s.refuseRows c v .unreadable
        else if (adds ++ rems).any (fun r => s.locLost (v.home r)) then s.refuseRows c v .lost
        else if v.cap + nr < s.hotCount t v + na then s.refuse c stNoMemory
        else match (adds ++ rems).findSome? (fun r => s.cxlMissing (v.home r).addr v.rowBytes) with
        | some b => s.refuseHint c stNotReady (s.readyHint b c.intake)
        | none =>
          let j : HotJob := { cmd := c.id, table := t.id, ver := v.ver, rem := rems, add := adds }
          ({ s with hotJobs := s.hotJobs ++ [j] }).hotRun c.id

/-- Copy the bytes of a row copy, burst of the target by burst: one whose source reads uncorrectable is written with the poison pattern
(R174, R182), and the first such read is reported. -/
def State.copyRow (s : State) (op p src dst n : Nat) : State :=
  (burstsOf dst n).foldl (fun t b =>
    let lo := max dst (64 * b)
    let hi := min (dst + n) (64 * b + 64)
    let from_ := src + (lo - dst)
    if s.isUe from_ (hi - lo) then t.poison b else t.store lo (s.bytes from_ (hi - lo)))
    (if s.isUe src n then s.embUe op p (s.badBurst src) else s)

/-- The source rows of a migration, with their lengths (R454). -/
def EmbVer.rowSpans (v : EmbVer) (x : RowLoc) : List (Nat × Nat) :=
  (x.addr, v.rowBytes) :: (List.range v.states).map (fun k => (x.addr + (k + 1) * x.step, 4 * v.dims))

/-- MIGRATION_COPY_COMPLETE (R454, R455): the copy is done; the logged updates are applied to the target in intake order, and
the directory changes. -/
def migrationCopyCompleteStep (id row : Nat) (s : State) : State :=
  match s.migs.find? (fun m => m.table == id && m.row == row), s.table? id with
  | some m, some t =>
    match t.ver? m.ver with
    | none => s
    | some v =>
      let p := t.part
      let hot := v.slotLoc (s.userPchs p) m.slot
      let src := if m.add then v.home row else hot
      let dst := if m.add then hot else v.home row
      -- a copy into the hot set is a COPY of the engine that holds the slot (R454); the unit makes one out of it
      let op := if m.add then 0x0E else 0
      if m.add && ((s.pchOf dst.addr).map (fun u => !s.engineTakes u.1)).getD false then s else
      let s1 := (List.range (v.states + 1)).foldl (fun s k =>
        s.copyRow op p (src.addr + k * src.step) (dst.addr + k * dst.step) (if k == 0 then v.rowBytes else 4 * v.dims))
          (s.embReads op p (v.rowSpans src))
      let s2 := (sortBy (fun (a b : Nat × List F32) => decide (a.1 < b.1)) m.log).foldl (fun s e =>
        match s.embJobs.find? (fun j => j.cmd == e.1) with
        | some j => (s.applyUpdate p v j dst e.2).setEmbJob e.1 (fun j => { j with logged := j.logged - 1 })
        | none => s) s1
      let s3 := if m.add then s2.addHot p v row m.slot else s2.clearHot p v row
      let s4 := (s3.setVer id m.ver (fun v =>
        if m.add then { v with nHot := v.nHot + 1 }
        else { v with nHot := v.nHot - 1, used := v.used.filter (fun k => k != m.slot), freed := (m.slot, s3.now) :: v.freed })).bump
          (EMB_MIGRATE_CNT p) 31 0 1
      let s5 := ({ s4 with migs := s4.migs.filter (fun x => !(x.table == id && x.ver == m.ver && x.row == row)) }).setHotJob m.cmd
        (fun j => { j with left := j.left - 1 })
      (((m.log.map (fun e => e.1)).foldl (fun s i => s.embFinish i) s5).embPump).hotPump
  | _, _ => s

end Sys2Proof.Machine
end

