-- ==== Sys2Proof/Machine/Contexts.lean ====
section
/-! DEFINITION. Contexts of a partition (spec/12): their shares, the images of suspended ones, and the end of a context teardown. -/

namespace Sys2Proof.Machine

/-- A context share is empty. -/
def shareEmpty (x : Nat × Nat) : Bool := x.1 == 0 && x.2 == 0

/-- Two shares have a way or a Lathe in common. -/
def shareMeet (x y : Nat × Nat) : Bool := overlaps x.1 y.1 || overlaps x.2 y.2

/-- Write zeros into Tool store ways and Lathe buffers named by masks; the slots become EMPTY (R463). -/
def State.zeroShare (s : State) (x : Nat × Nat) : State :=
  let s1 := (bitsOf 64 x.1).foldl (fun s w => s.zeroRange (toolWay w) 0x30_0000) s
  (bitsOf 48 x.2).foldl (fun s l =>
    match s.physLathe l with
    | none => s
    | some n =>
      let s2 := ((s.lathe n).slots.map (fun e => e.1)).foldl (fun s i => s.emptySlot n i) s
      s2.zeroRange (latheWindow n) 0x50_0000) s1

/-- Set the state of a context. -/
def State.setCtx (s : State) (p c st : Nat) : State := s.setFld (PRT_CTX_CFG p c) 50 48 st

/-- The image of a suspended context. -/
def State.image? (s : State) (p c : Nat) : Option CtxImage := (s.part p).images.find? (fun i => i.ctx == c)

/-- Discard a context's image. -/
def State.dropImage (s : State) (p c : Nat) : State :=
  s.setPart p (fun x => { x with images := x.images.filter (fun i => i.ctx != c) })

/-- The bytes of a share: 3 MiB for each way, 5 MiB for each Lathe (R470). -/
def shareBytes (x : Nat × Nat) : Nat := popCount 64 x.1 * 0x30_0000 + popCount 48 x.2 * 0x50_0000

/-- Room that images take in the save area: each its share's size rounded up to 2 MiB (R485). -/
def imageBytes (x : Nat × Nat) : Nat := roundUp (shareBytes x) 0x20_0000

/-- A place for an image in the save area. -/
def State.imagePlace (s : State) (p n : Nat) : Option Nat :=
  let ar := s.area (PRT_SAVE_AREA p)
  placeLow ar.1 ar.1 (ar.1 + ar.2) n 0x20_0000 ((s.part p).images.map (fun i => (i.addr, i.bytes)))

/-- Enter an image that holds nothing; one that finds no place in the save area takes none (log entry 102). -/
def State.emptyImage (s : State) (p c : Nat) : State :=
  let n := imageBytes ((s.part p).assign.shares.getD c (0, 0))
  let im : CtxImage := match s.imagePlace p n with
    | some a => { ctx := c, addr := a, bytes := n }
    | none => { ctx := c, addr := 0, bytes := 0 }
  (s.dropImage p c).setPart p (fun x => { x with images := x.images ++ [im] })

/-! ### The end of a context teardown (R480, Table 12-8) -/

/-- A teardown ends: the share is written with zeros, an image is discarded, the context returns empty, and the teardown is counted,
shown and logged. -/
def State.endTear (s : State) (p : Nat) (t : Tear) : State :=
  let s0 := s.setPart p (fun x => { x with tears := x.tears.filter (fun y => y.ctx != t.ctx) })
  let s1 := if t.own then s0.zeroShare (s0.share p t.ctx) else s0
  let s2 := (if t.back == 2 then s1.emptyImage p t.ctx else s1.dropImage p t.ctx).setCtx p t.ctx t.back
  let s3 := (s2.bump (PRT_CTX_CNT p) 63 48 1).event PRT_EVENT 0
  s3.logFree (s3.writerOf 2) p 2

/-- The teardowns of a partition's contexts that are of a kind end. -/
def State.endTears (s : State) (p : Nat) (now_ : Tear → Bool) : State :=
  ((s.part p).tears.filter now_).foldl (fun s t => s.endTear p t) s

/-- A teardown ends within 1 ms of its start (R480): one that no step boundary has ended does so then. That of a context that a switch
was bringing in ends with the switch: its share still holds what the outgoing contexts have to save (R473). -/
def State.tearsDue (s : State) : State :=
  (List.range 16).foldl (fun s p => s.endTears p (fun t => !t.held && decide (t.since + 1_000_000 ≤ s.now))) s

end Sys2Proof.Machine
end

