-- ==== Sys2Proof/Machine/Steps.lean ====
section
/-! DEFINITION. Generation steps (spec/08, R331 to R350; spec/09, R372 to R394): the commits of a step, what a step boundary
carries out, the work list, the start of the next step, and the re-run of a step after a Lathe error. -/

namespace Sys2Proof.Machine

/-! ### Sampling a placed entry (R340 to R346, R425 to R428) -/

/-- The grammar of a sequence as the samplers see it. -/
def State.masker (s : State) (q : Seq) (v : Vocab) : Masker :=
  match (if q.gram then s.grammar? q.part q.gslot else none) with
  | none => ⟨false, fun _ t => s.tokNormal v t, fun st _ => st, fun _ => false⟩
  | some g => ⟨true, fun st t => s.tokNormal v t && s.gramAllows g v st t, s.gramNext g, s.gramUe g⟩

/-- The output y of model layer `l` on a row of a sequence bound to a variant: (y + v) × s, element by element in FP32 (R354). The
variant holds for each layer its steering vector, then its scale vector, in E4M3 (R353). -/
def State.steer (s : State) (q : Seq) (l : Nat) (y : List F32) : List F32 :=
  match q.steering with
  | none => y
  | some v =>
    let e (a : Nat) : F32 := (elemValue 1 (s.num a 1)).toF32
    let a := v.addr + 2 * l * v.dModel
    y.zipIdx.map (fun x => fMul (fAdd x.1 (e (a + x.2))) (e (a + v.dModel + x.2)))

/-- The main model's logits of a row of a sequence: from layer to layer, each layer's output as the sequence's variant leaves it.
What a layer and the head compute is free (log entry 7). -/
def State.logits (s : State) (q : Seq) (n : Nat) : Nat → F32 :=
  let m := (s.model? q.part q.model q.version).getD {}
  let x := (List.range m.layers).foldl (fun x l => s.steer q l ((List.range m.dModel).map (Config.layerOut n l x))) []
  Config.headOut n x

/-- What a placed entry samples: the main model's logits at position i are those of row `n + 16 + i`, the draft model's in
round r free output `n + r` (log entry 7); the draft model is never steered (R354). `rows` is 1 and the draft rows. -/
def State.sampled (s : State) (q : Seq) (v : Vocab) (n rows : Nat) : Sampled × List Nat :=
  let a : Sampler := ⟨v.entries, q.temp, q.topK, q.topP, q.seed⟩
  let g := s.masker q v
  let d := propose a g (fun r => Config.modelOut (n + r)) q.len (rows - 1) 1 q.auto
  let r := if d.failed then { stop := some stInternalError } else verify a g (fun i => s.logits q (n + 16 + i)) q.len d.props 1 q.auto {}
  let tried := d.props.length + if d.props.length < rows - 1 then 1 else 0
  -- a grammar read that a draft round needed and that is uncorrectable ends the sequence after what the step commits (log entry 101)
  let stop := if r.stop.isNone && d.bad then some stUncorrectableData else r.stop
  ({ r with stop := stop, masks := r.masks + if g.on then tried else 0, sels := d.sels ++ r.sels }, d.props.map (fun x => x.1))

/-- Count the correctable errors of the grammar states that a step's sampling reads: the committed state and those reached through the
proposals (R426, R429, JIG_EVENT). -/
def State.gramReads (s : State) (q : Seq) (props : List Nat) : State :=
  match (if q.gram then s.grammar? q.part q.gslot else none) with
  | none => s
  | some g =>
    let sts := props.foldl (fun (acc : List Nat) t => acc ++ [s.gramNext g (acc.getLast?.getD 0) t]) [q.auto]
    match sts.findSome? (s.gramCe g) with
    | some b => (s.event JIG_EVENT 0).memCe (64 * b) 0 q.part
    | none => s

/-- The draft length d after a step that accepted `acc` draft tokens (R343): it counts what the step accepted, however many rows the
budget left for drafts (log entry 136); at 0 drafting resumes with 1 after 64 further placed steps. -/
def Seq.redraft (q : Seq) (acc : Nat) : Seq :=
  if q.d0 == 0 then q
  else if q.d == 0 then
    if q.reprobe + 1 == 64 then { q with d := 1, reprobe := 0 } else { q with reprobe := q.reprobe + 1 }
  else if acc == 0 then { q with d := q.d / 2, reprobe := 0 }
  else if q.d ≤ acc then { q with d := min q.d0 (q.d + 1) }
  else q

/-- Count how a sampling that stopped a sequence ended (R346, R429). -/
def State.noteStop (s : State) (q : Seq) (stop : Option Nat) : State :=
  if stop == some stInternalError then s.event HDS_EVENT 2
  else if stop == some stUncorrectableData then
    match s.grammar? q.part q.gslot with
    | some g => (s.event JIG_EVENT 1).memUe g.addr 0 q.part
    | none => s.event JIG_EVENT 1
  else s

/-- Sample and commit for a placed entry: its tokens, in order, up to the one that decides its ending; accepted drafts after that one
count nowhere (R348). The selections that the sampler ran are counted as any others are (R282). -/
def State.sampleCommit (s : State) (q : Seq) (r : Sampled) (props : Nat) : State :=
  let s1 := ((s.bump (HDS_DRAFT_CNT q.part) 31 0 props).bump (HDS_DRAFT_CNT q.part) 63 32
    (if 0 < props && r.accepted == 0 then 1 else 0))
  let s2 := r.sels.foldl (fun s x => (s.countSel q.part x.1 (if x.2.isEmpty then 0 else 1)).spillEntries q.part x.2) (s1.bump (JIG_CNT q.part) 31 0 r.masks)
  let s3 := r.toks.foldl (fun s t => s.commitToken q.idx t) s2
  let made := ((s3.seq? q.idx).map (fun x => x.made)).getD q.made - q.made
  let s4 := s3.bump (HDS_TOKEN_CNT q.part) 63 32 (min r.accepted made)
  match r.stop with
  | none => s4
  | some st =>
    if ((s4.seq? q.idx).map (fun x => x.ending.isSome)).getD true then s4 else (s4.noteStop q r.stop).endSeq q.idx st []

/-- The kernels have drained a selection query for every far-context layer into the query area (R387): its content is
free. -/
def State.drainQuery (s : State) (q : Seq) : State :=
  let n := queryBytes (s.seqModels q)
  let s1 := s.setSeq q.idx (fun q => { q with stepped := true })
  if n == 0 then s1
  else s1.tick.store (s1.kvBase q.part + s1.num (q.root + 12) 4 * 64) ((List.range n).map (Config.freeByte s1.freeCtr))

/-- The commit of a placed entry with its rows (R334, R373, R374). -/
def State.commitEntry (s : State) (i rows : Nat) : State :=
  match s.seq? i with
  | none => s
  | some q =>
    match s.vocabs.find? (fun v => v.slot == q.vocab) with
    | none => s
    | some v =>
      let n := s.freeCtr
      let s1 := (({ s with freeCtr := s.freeCtr + 32 }).writeKv q rows).drainQuery q
      if q.state == 3 then
        let r := s1.sampled q v n rows
        let s2 := s1.commitKv q rows (s1.kvLen q.root + 1 + r.1.accepted)
        ((s2.setSeq i (fun q => q.redraft r.1.accepted)).gramReads q r.2).sampleCommit q r.1 r.2.length
      else
        let s2 := ((s1.commitKv q rows (s1.kvLen q.root + rows)).logWords q (s1.kvLen q.root) rows).setSeq i (fun q => { q with toFill := q.toFill - rows })
        let s3 := s2.setSeq i (fun q => if q.d == 0 then q.redraft 0 else q)
        if rows < q.toFill then s3
        else
          let r := s3.sampled q v n 1
          ((s3.setSeq i (fun q => { q with state := 3 })).gramReads q []).sampleCommit q r.1 0

/-! ### The end of a step -/

/-- A model run or learning step has ended (R312, R313, R119): its command replies or goes on. -/
def State.finishRun (s : State) (id falls : Nat) : State :=
  match s.runs.find? (fun j => j.cmd == id && j.begun), s.cmd? id with
  | some j, some c =>
    let n := s.freeCtr
    let s1 := { s with freeCtr := s.freeCtr + j.outs + 1, runs := s.runs.filter (fun x => x.cmd != id) }
    if j.kind == 3 || j.kind == 4 then s1.learnRunDone c j n falls else s1.scoreRunDone c j n falls
  | _, _ => { s with runs := s.runs.filter (fun x => x.cmd != id) }

/-- A real-time step is counted, and its overrun (R478). -/
def State.countRt (s : State) (p : Nat) (r : Runner) : State :=
  if !r.rt then s
  else
    let s1 := s.bump (PRT_RT_CNT p) 31 0 1
    if r.begun + r.wcet < s.now then (s1.bump (PRT_RT_CNT p) 63 32 1).event PRT_EVENT 3 else s1

/-- Count a generation step that completes. -/
def State.countStep (s : State) (p : Nat) (r : Runner) : State :=
  if r.work.isEmpty then s else s.bump (HDS_STEP_CNT p) 31 0 1

/-- Count token rows that a step places, in units of 256 (HDS_STEP_CNT). -/
def State.countRows (s : State) (p rows : Nat) : State :=
  let n := (s.part p).rowRem + rows
  (s.bump (HDS_STEP_CNT p) 63 32 (n / 256)).setPart p (fun x => { x with rowRem := n % 256 })

/-- The step of a partition completes: its kernels have ended, its pins are released, and what it produced commits, entry by
entry in row order. The boundary is taken as the end of the step (log entry 29). -/
def State.completeStep (s : State) (p : Nat) : State :=
  let r := s.runner p
  let s1 := s.endLayers p 2000000
  let s2 := (s1.contextLathes p r.ctx).foldl (fun s n =>
    (s.setLathe n (fun x => { x with layers := 0, marks := 0, waiting := none, held := none })).setRunning n false) s1
  let s3 := s2.setRunner p (fun _ => {})
  let s4 := match r.job with
    | some id => s3.finishRun id r.fallbacks
    | none => r.work.foldl (fun (s : State) (w : Nat × Nat × Nat) =>
        if r.masked.contains w.1 || ((s.seq? w.1).map (fun (q : Seq) => q.ending.isSome)).getD true then s
        else s.commitEntry w.1 w.2.2) s3
  (s4.countStep p r).countRt p r

/-! ### What a boundary carries out (R335, R336, R338, R352, R358, R377, R383, R392, R470) -/

/-- A sequence whose length has come to the largest by its prompt reaches LENGTH_LIMIT (R349). -/
def State.atLimit (s : State) (i : Nat) : State :=
  if ((s.seq? i).map (fun q => decide (16777215 ≤ q.len))).getD false then s.endSeq i stLengthLimit [] else s

/-- Appended tokens join their sequence, and new priority bits apply. -/
def State.applyAppend (s : State) (q : Seq) : State :=
  let s1 := match q.newPrio with
    | some v => s.setSeq q.idx (fun q => { q with prio := v, newPrio := none })
    | none => s
  if q.append.isEmpty then s1
  else
    s1.setSeq q.idx (fun q => { q with
      len := q.len + q.append.length, toFill := q.len + q.append.length - s1.kvLen q.root
      state := if q.state == 1 then 1 else 2, prompt := q.prompt + q.append.length, tokens := q.tokens ++ q.append, append := [] }) |>.atLimit q.idx

/-- The sequences of a partition whose ending is not decided. -/
def State.liveSeqs (s : State) (p : Nat) : List Seq := s.seqs.filter (fun q => q.part == p && q.ending.isNone)

/-- Sequences that name a lost block are prefilled again from it, or end (R392). -/
def State.kvLossAction (s : State) (p : Nat) : State :=
  (s.markKvLost.liveSeqs p).foldl (fun s q =>
    match s.lostBlock q with
    | none => s
    | some b0 => if q.retain then s.refill q b0 else s.endSeq q.idx stKvLost []) s.markKvLost

/-- A switch of contexts begins (R470). -/
def State.beginSwitch (s : State) (p : Nat) : State :=
  match (s.part p).switch with
  | none => s
  | some w =>
    if w.quiesce.isSome then s
    else
      let s1 := (w.out ++ w.incoming.toList).foldl (fun s c => s.setFld (PRT_CTX_CFG p c) 50 48 3) s
      s1.setPart p (fun x => { x with switch := some { w with quiesce := some s1.now } })

/-- Everything that waits for a step boundary of the partition. -/
def State.atBoundary (s : State) (p : Nat) : State :=
  let s1 := ((s.endTears p (fun t => !t.held)).turnover p).doStores p
  let s2 := (s1.liveSeqs p).foldl (fun s q => (s.applyAppend q).readShared q) s1
  let s3 := (((s2.kvLossAction p).applyKvCfg p).demote p).markKvLost
  (s3.beginSwitch p).freeEnded p

/-! ### The work list (R331 to R334, R372, R477) -/

/-- A work list under construction: the state with the blocks reserved, entries placed with first row and rows, rows left,
entries left out by class, and the most entries that may be placed. -/
structure Build where
  s      : State
  placed : List (Nat × Nat × Nat × Nat) := []
  left   : Nat
  out    : List (Nat × Nat) := []
  seqs   : Nat

/-- The class of an entry: 0 priority decode, 1 priority prefill, 2 decode, 3 prefill. -/
def Seq.cls (q : Seq) : Nat := (if q.prio then 0 else 2) + if q.state == 3 then 0 else 1

/-- The entries of a class in rotation order (R333). -/
def classOrder (start : Nat) (qs : List Seq) : List Seq :=
  let l := sortBy (fun (a b : Seq) => decide (a.idx < b.idx)) qs
  l.filter (fun q => start ≤ q.idx) ++ l.filter (fun q => q.idx < start)

/-- An entry is left out. -/
def Build.skip (b : Build) (q : Seq) : Build := { b with out := b.out ++ [(q.cls, q.idx)] }

/-- An entry is left out for another reason than its KV blocks: the run of R372 ends. -/
def Build.pass (b : Build) (q : Seq) : Build :=
  { b.skip q with s := if q.waits == 0 then b.s else b.s.setSeq q.idx (fun q => { q with waits := 0 }) }

/-- An entry is left out because its KV blocks cannot be reserved; after KV_WAIT_STEPS such steps its ending is decided
(R372). -/
def Build.starve (b : Build) (q : Seq) : Build :=
  let s1 := b.s.setSeq q.idx (fun q => { q with waits := q.waits + 1 })
  { (b.skip q) with s := if b.s.kvFld q.part 15 0 ≤ q.waits + 1 then s1.endSeq q.idx stNoMemory [] else s1 }

/-- Place an entry, or leave it out. `reserve` is what the priority classes may not use. -/
def Build.offer (b : Build) (reserve : Nat) (q : Seq) : Build :=
  let limit := if q.prio then b.left - reserve else b.left
  let want : Option Nat :=
    if q.state == 3 then (if limit < 1 then none else some (1 + min q.d (limit - 1)))
    else
      let rows := min (min q.toFill (b.s.chunkMax q.part)) limit
      if rows < b.s.minChunk q.part && rows < q.toFill then none else some rows
  match want with
  | none => b.pass q
  | some rows =>
    if b.seqs ≤ b.placed.length || rows == 0 then b.pass q
    else
      match b.s.reserveKv q rows with
      | none => b.starve q
      | some s1 =>
        { b with
          s := s1.setSeq q.idx (fun q => { q with waits := 0, state := if q.state == 1 then 2 else q.state })
          placed := b.placed ++ [(q.cls, q.idx, sumNat (b.placed.map (fun e => e.2.2.2)), rows)]
          left := b.left - rows }

/-- Build the work list of a context (R332). -/
def State.buildList (s : State) (p c budget seqs : Nat) : Build :=
  let qs := (s.liveSeqs p).filter (fun q => q.ctx == c)
  let reserve := if qs.any (fun q => !q.prio) then budget / 8 else 0
  let rot := (s.part p).rot
  let order := (List.range 4).flatMap (fun k => classOrder (rot.getD k 0) (qs.filter (fun q => q.cls == k)))
  order.foldl (fun b q => b.offer reserve q) { s := s, left := budget, seqs := seqs }

/-- Where the rotation of class `k` starts next (R333). -/
def Build.nextRot (b : Build) (old k : Nat) : Nat :=
  match minNat? ((b.out.filter (fun e => e.1 == k)).map (fun e => e.2)) with
  | some i => i
  | none =>
    match ((b.placed.filter (fun e => e.1 == k)).getLast?).map (fun e => e.2.1) with
    | some i => i + 1
    | none => old

/-- The plan under which a work list runs in real time: every placed entry has service class 2 and the plan's version
(R477). -/
def Build.rtPlan (b : Build) (p c : Nat) : Option Plan :=
  let qs := b.placed.filterMap (fun e => b.s.seq? e.2.1)
  if !(b.s.part p).assign.rt || qs.isEmpty then none
  else (b.s.part p).plans.find? (fun k => k.ctx == c && qs.all (fun q =>
    q.stream.hdr.svc == 2 && q.model == k.model && q.version == k.version))

/-! ### The start of a step (R119, R340, R389, R468) -/

/-- The load slot of a model version. -/
def State.slotOf (s : State) (p id ver : Nat) : Option Nat := (s.model? p id ver).map (fun m => m.slot)

/-- The schedules of a work list, each with the entries that have token rows in it: for each main model in placement order, the
schedule of each draft model once for each of its draft rounds, then the main model's (R120, R340). -/
def State.stepRounds (s : State) (p : Nat) (work : List (Nat × Nat × Nat)) : List ((Nat × Bool) × List Nat) :=
  let qs := work.filterMap (fun w => (s.seq? w.1).map (fun q => (q, q.d)))
  let key (e : Nat × Nat) : Nat := e.1 * 65536 + e.2
  let mains := dedupBy key (qs.map (fun e => (e.1.model, e.1.version)))
  mains.flatMap (fun m =>
    let mine := qs.filter (fun e => e.1.model == m.1 && e.1.version == m.2)
    let drafts := dedupBy key (mine.filterMap (fun e => if 0 < e.2 then e.1.draft else none))
    drafts.flatMap (fun d =>
      let us := mine.filter (fun e => e.1.draft == some d)
      match s.slotOf p d.1 d.2 with
      | some v => (List.range (maxNat (us.map (fun e => e.2)))).map (fun r =>
          ((v, false), (us.filter (fun e => r < e.2)).map (fun e => e.1.idx)))
      | none => []) ++
    (match s.slotOf p m.1 m.2 with
     | some v => [((v, false), mine.map (fun e => e.1.idx))]
     | none => []))

/-- The first plan layer that runs a model layer of a model. -/
def State.planLayerOf (s : State) (plan : List (Nat × Bool)) (m : Model) (layer : Nat) : Option Nat :=
  (((s.planLayers plan).zipIdx.find? (fun e => e.1.1.slot == m.slot &&
    ((m.sched[e.1.2]?).map (fun x => x.layer)) == some layer))).map (fun e => e.2)

/-- The far-block fetches of a step, in layer order, each pinned (R389, Table 3-12): a block that is in tier 1 is on time
without one. -/
def State.farFetches (s : State) (p : Nat) (plan : List (Nat × Bool)) (work : List (Nat × Nat × Nat)) : State × List FarFetch :=
  let r := (work.filterMap (fun w => s.seq? w.1)).foldl (fun (acc : State × List FarFetch) q =>
    let fp := acc.1.farPlan q
    let ms := fp.2.seqModels q
    fp.1.foldl (fun (acc : State × List FarFetch) e =>
      match kvModel ms e.1 with
      | none => acc
      | some (m, i) =>
        match acc.1.planLayerOf plan m (m.kvModelLayer i) with
        | none => acc
        | some k =>
          e.2.1.foldl (fun (acc : State × List FarFetch) b =>
            let id := kvObj 3 (entOwner (acc.1.kvEntry p q.root e.1 b)) e.1 b
            -- a demotion of this boundary has committed before the step's fetches start (R383, R389)
            let s0 := if ((acc.1.obj? p id).map (fun o => o.leaving.map (fun x => x.2) == some .demotion)).getD false
              then (acc.1.evictCommit p id).2 else acc.1
            let in1 := ((s0.obj? p id).map (fun o => o.t1.isSome)).getD false
            let f : FarFetch := { seq := q.idx, layer := e.1, block := b, obj := id, at_ := k, mark := e.2.2 }
            if in1 && s0.kvUnreadable p id then
              -- the block's only copy, in tier 1, cannot be read: it is lost, and no fetch is issued for it
              ((s0.failBlock p id).markKvLost, acc.2 ++ [{ f with pinned := false }])
            else if in1 || (s0.obj? p id).isNone then (s0, acc.2)
            else
              match s0.pin p id with
              | none => (s0, acc.2)
              | some s1 => (s1, acc.2 ++ [f])) acc) (fp.2, acc.2)) (s, [])
  (r.1, sortBy (fun (a b : FarFetch) => decide (a.at_ < b.at_)) r.2)

/-- The blocks of the work list's sequences that lie in tier 1 and are not far are read by every layer: one that cannot be read
and has no other copy is lost, and the sequences that name it are masked for the step (R391, R392). -/
def State.readNear (s : State) (p : Nat) : State :=
  ((s.runner p).work.filterMap (fun w => s.seq? w.1)).foldl (fun s q =>
    (s.kvBlocks p q.root q.len).foldl (fun s e =>
      let id := kvObj 3 (entOwner e.2.2) e.1 e.2.1
      if entValid e.2.2 == 0 || s.isFarBlock q e.1 e.2.1 then s
      else
        let in1 := ((s.obj? p id).map (fun o => o.t1.isSome)).getD false
        let s1 := if in1 && s.kvUnreadable p id then (s.failBlock p id).markKvLost else s
        if ((s1.obj? p id).map (fun o => o.gone)).getD false then s1.maskSeq p q.idx else s1) s) s

/-- The step in the runner starts from its first layer, now: its groups and far-block fetches are formed anew. A step that is
run again starts so as well (R318). -/
def State.beginStep (s : State) (p : Nat) : State :=
  let r := s.runner p
  let f := (s.readNear p).farFetches p r.plan r.work
  let s1 := f.1.setRunner p (fun r => { r with
    active := true, groups := s.planGroups 0 r.plan, far := f.2, code := [], layer := 0, start := s.now })
  (s1.lostUnders p).startLayer p 0

/-- The step is run again from its start (R318): the fallbacks that the aborted run took count for no sequence. -/
def State.againStep (s : State) (p : Nat) : State :=
  let s1 := (s.runner p).counted.foldl (fun s i => s.setSeq i (fun q => { q with fallbacks := q.fallbacks - 1 })) s
  (s1.setRunner p (fun r => { r with counted := [], fallbacks := 0 })).beginStep p

/-- A model run or a learning step starts as a step of its own. -/
def State.startJob (s : State) (p : Nat) (j : ModelJob) : State :=
  match s.model? p j.model j.version with
  | none => s.endCmd j.cmd stUnknownObject
  | some m =>
    let learn : Bool := j.kind == 3 || j.kind == 4
    if learn && s.versionGone m then s.endCmd j.cmd stTierLost
    else
      let plan := if j.kind == 4 then [] else if j.kind == 3 then [(m.slot, false), (m.slot, true)] else [(m.slot, false)]
      let s1 := ({ s with runs := updateWhere s.runs (fun x => x.cmd == j.cmd) (fun x => { x with begun := true }) }.setPart p
        (fun x => { x with lastJob := true })).setRunner p (fun _ =>
          { learn := learn, ctx := j.ctx, rows := j.rows, plan := plan, job := some j.cmd, begun := s.now })
      s1.beginStep p

/-- The contexts of a partition that are resident and have entries to place. -/
def State.busyContexts (s : State) (p : Nat) : List Nat :=
  (List.range 16).filter (fun c => s.ctxState p c == 1 && (s.liveSeqs p).any (fun q => q.ctx == c))

/-- A generation step of the next context in rotation starts, if anything can be placed (R332, R468, R477). -/
def State.startGen (s : State) (p : Nat) : State :=
  match rotate (s.part p).lastCtx (s.busyContexts p) with
  | none => s
  | some c =>
    let budget := s.rowBudget p
    let b0 := s.buildList p c budget 32768
    let k? := b0.rtPlan p c
    let b := match k? with
      | some k => s.buildList p c (min budget k.rows) k.seqs
      | none => b0
    -- the list within the plan's rows may hold an entry of another class: the step is then an ordinary one
    let k? := if b.rtPlan p c == k? then k? else none
    let rot := (List.range 4).map (fun i => b.nextRot ((s.part p).rot.getD i 0) i)
    let s1 := (b.s.setPart p (fun x => { x with lastCtx := granted x.lastCtx c, lastJob := false, rot := rot })).freeEnded p
    let work := b.placed.map (fun e => e.2)
    if work.isEmpty then s1
    else
      let rounds := maxNat (work.map (fun w => ((s1.seq? w.1).map (fun q => q.d)).getD 0))
      let rows := sumNat (work.map (fun w => w.2.2))
      let s2 := (s1.countRows p rows).setRunner p (fun _ =>
        { rt := k?.isSome, ctx := c, rows := rows, plan := (s1.stepRounds p work).map (fun e => e.1),
          served := (s1.stepRounds p work).map (fun e => e.2), work := work, rounds := rounds, begun := s1.now, wcet := (k?.map (fun k => k.wcet)).getD 0 })
      s2.beginStep p

/-- The next step of a partition starts: a learning step at once, another model run in turn with generation (log entry
30). -/
def State.startStep (s : State) (p : Nat) : State :=
  if !s.bit HDS_CTRL 1 || s.partState p != 2 then s
  else
    let jobs := s.runs.filter (fun j => j.part == p && !j.begun && s.ctxState p j.ctx == 1)
    let learn := jobs.find? (fun j => j.kind == 3 || j.kind == 4)
    match learn, jobs.head? with
    | some j, _ => s.startJob p j
    | none, none => s.startGen p
    | none, some j =>
      if (s.part p).lastJob && !(s.busyContexts p).isEmpty then
        let s1 := s.startGen p
        if (s1.runner p).active then s1 else s1.startJob p j
      else s.startJob p j

/-- STEP_BOUNDARY: entries freed before it may be used again (R352), the step in progress completes, what waits for the boundary is
carried out, and the next step starts. -/
def stepBoundaryStep (p : Nat) (s0 : State) : State :=
  let s := { s0.settleLathes p with cool := s0.cool.filter (fun e => e.1 != p) }
  -- a step that was aborted for a Lathe's retirement runs again first (R618)
  if (s.runner p).active && s.awaitsSpare p (s.runner p).ctx then s
  else
    let s1 := if (s.runner p).active then s.completeStep p else s
    (s1.atBoundary p).startStep p

/-! ### LATHE_BUFFER_ERROR (R318, R319, Table 7-13) -/

/-- An error in a Lathe's buffer or in a processing element: corrected, or the step is run again; its third failure tears the
context down. -/
def latheBufferErrorStep (tear : Nat → Nat → State → State) (n : Nat) (e : LatheError) (buf : LatheBuf) (slot word : Nat)
    (s : State) : State :=
  let p := (s.latheOwner n).getD 0
  let i := slotNo buf slot
  match e with
  | .bufferCorrected => ((s.event LTH_EVENT 0).lthLogPut 1 n p i word).report ⟨4, n, 0, .corrected⟩
  | _ =>
    let kind := if e == .peParity then 3 else 2
    let s1 := ((s.event LTH_EVENT (if e == .peParity then 2 else 1)).lthLogPut kind n p (if e == .peParity then 0 else i)
      (if e == .peParity then 0 else word)).report ⟨4, n, 0, .uncorrectable⟩
    let r := s1.runner p
    if (s1.latheOwner n).isNone || !r.active || (s1.laneOf p r.ctx n).isNone then s1
    else
      let s2 := (s1.abortKernels p r.ctx).setRunner p (fun r => { r with failures := r.failures + 1 })
      if 2 ≤ r.failures then tear p r.ctx s2 else s2.againStep p

end Sys2Proof.Machine
end

