-- ==== Sys2Proof/Machine/Partition.lean ====
section
/-! DEFINITION. Partitions and contexts (spec/12): resource assignment, requests, context teardown, suspend and resume,
real-time plans. -/

namespace Sys2Proof.Machine

/-! ### The assignment that the registers describe (R460, Table 12-1) -/

/-- Management-plane writes to the PRT_ registers of a locked partition have no effect (R662). -/
def State.prtOpen (s : State) (src : Plane) (p : Nat) : Bool := src == .firmware || !s.sec.cfg.locked.testBit p

/-- Logical Lathes of the grade. -/
def State.grade (s : State) : Nat := s.fld BOOT_GRADE 7 0

/-- What the registers of a partition describe. Lathe bits at or above the grade count are reserved. -/
def State.prtAssign (s : State) (p : Nat) : Assign :=
  let lathes (m : Nat) : Nat := m % 2 ^ s.grade
  { pch := (s.raw (PRT_PCH p 0)).toNat + (s.raw (PRT_PCH p 1)).toNat * 2 ^ 64 + (s.raw (PRT_PCH p 2)).toNat * 2 ^ 128 +
      s.fld (PRT_PCH p 3) 47 0 * 2 ^ 192
    base := s.fld (PRT_REGION p) 47 32
    ways := (s.raw (PRT_WAYS p)).toNat
    lathes := lathes (s.fld (PRT_LATHES p) 47 0)
    walkers := (s.raw (PRT_WALKERS p)).toNat
    cxl := (List.range 4).map (fun l =>
      (s.fld (PRT_CXL p l) 63 56, s.fld (PRT_CXL p l) 43 32, s.fld (PRT_CXL p l) 11 0))
    qpLimit := s.fld (PRT_NET p) 47 32
    meterFirst := s.fld (PRT_NET p) 27 16
    meterCount := s.fld (PRT_NET p) 12 0
    rt := s.bit (PRT_PART_CTRL p) 3
    shares := (List.range 16).map (fun c =>
      ((s.raw (PRT_CTX_SHARE p c)).toNat, lathes (s.fld (PRT_CTX_CFG p c) 47 0))) }

/-- Queue pairs bound to a partition, and to a context of it. -/
def State.qpsOf (s : State) (p : Nat) : List Qp := s.qps.filter (fun q => q.partition == p)
def State.qpsOfCtx (s : State) (p c : Nat) : List Qp := s.qps.filter (fun q => q.partition == p && q.ctx == c)

/-! ### The checks of Table 12-3 -/

/-- Check 1: nothing is owned by another partition; the sum of queue-pair limits is at most 16,384 (R484). -/
def State.ownedOnce (s : State) (p : Nat) (a : Assign) : Bool :=
  let others := ((List.range 16).filter (fun q => q != p)).map (fun q => (s.part q).assign)
  others.all (fun b =>
    !overlaps a.pch b.pch && !overlaps a.ways b.ways && !overlaps a.lathes b.lathes && !overlaps a.walkers b.walkers &&
    !rangesMeet (a.meterFirst, a.meterCount) (b.meterFirst, b.meterCount) &&
    (a.cxl.zip b.cxl).all (fun (e : (Nat × Nat × Nat) × (Nat × Nat × Nat)) =>
      e.1.1 == 0 || e.2.1 == 0 || !rangesMeet (e.1.2.1, e.1.2.2) (e.2.2.1, e.2.2.2))) &&
  sumNat (others.map (fun b => b.qpLimit)) + a.qpLimit ≤ 16384

/-- Check 2: the region lies within HBM user space and overlaps no other; each CXL range lies within its link's capacity. -/
def State.rangesIn (s : State) (p : Nat) (a : Assign) : Bool :=
  let n := popCount 240 a.pch
  a.base + n ≤ 240 &&
  ((List.range 16).filter (fun q => q != p)).all (fun q =>
    !rangesMeet (a.base, n) ((s.part q).assign.base, popCount 240 (s.part q).assign.pch)) &&
  a.cxl.zipIdx.all (fun e => e.1.1 == 0 || e.1.2.1 + e.1.2.2 ≤ s.fld (CXL_LINK e.2) 51 40)

/-- Check 3: every resource that changes owner is idle. -/
def State.changesIdle (s : State) (p : Nat) (a : Assign) : Bool :=
  let b := (s.part p).assign
  let lathes := (List.range 56).filter (fun n =>
    let l := s.fld (LTH_ARRAY n) 39 32
    l < 48 && (a.lathes.testBit l != b.lathes.testBit l))
  let walkers := (List.range 72).filter (fun w =>
    let l := s.fld (GGE_WALKER w) 39 32
    l < 64 && (a.walkers.testBit l != b.walkers.testBit l))
  lathes.all (fun n => !s.bit (LTH_ARRAY n) 0) && walkers.all (fun w => (s.contextsUsed w).isEmpty) &&
    (s.part p).switch.isNone

/-- The ways that hold frames (GGE_PART_CFG), as a mask. -/
def State.frameWays (s : State) (p : Nat) : Nat :=
  let first := s.fld (GGE_PART_CFG p) 13 8
  ((2 ^ s.fld (GGE_PART_CFG p) 6 0 - 1) * 2 ^ first) % 2 ^ 64

/-- Check 4: frame ways lie in no share, resident shares are disjoint, shares lie within the partition; a share may become
empty only where no queue pair is bound to its context (R467). -/
def State.sharesOk (s : State) (p : Nat) (a : Assign) : Bool :=
  let sh (c : Nat) : Nat × Nat := a.shares.getD c (0, 0)
  let res := (List.range 16).filter (fun c => s.ctxState p c == 1)
  (List.range 16).all (fun c =>
    !overlaps (s.frameWays p) (sh c).1 && within (sh c).1 a.ways && within (sh c).2 a.lathes &&
    (!shareEmpty (sh c) || shareEmpty ((s.part p).assign.shares.getD c (0, 0)) || (s.qpsOfCtx p c).isEmpty)) &&
  res.all (fun c => res.all (fun d => c == d || !shareMeet (sh c) (sh d)))

/-- Reserved rates of the partitions that have RT set, one of them with the rates of its registers and a new assignment:
(tier-1 rate, tier-2 rate, ranges). -/
def State.reserving (s : State) (p : Nat) (a : Assign) : List (Nat × Nat × List (Nat × Nat × Nat)) :=
  ((List.range 16).filter (fun q => if q == p then a.rt else (s.part q).assign.rt)).map (fun q =>
    (s.fld (TIER_RSV_BW q) 31 16, s.fld (TIER_RSV_BW q) 15 0, if q == p then a.cxl else (s.part q).assign.cxl))

/-- Check 5: the sums of R149, and R474 for a real-time partition: its tier-1 rate is not zero and at most 9.3 GB/s for
each pseudo-channel; its tier-2 rate is at most 27.5 GB/s where it holds a range and zero where it holds none. -/
def State.ratesOk (s : State) (p : Nat) (a : Assign) : Bool :=
  let rs := s.reserving p a
  let t1 := s.fld (TIER_RSV_BW p) 31 16
  let t2 := s.fld (TIER_RSV_BW p) 15 0
  sumNat (rs.map (fun r => r.1)) ≤ 9830 &&
  (List.range 4).all (fun l =>
    sumNat ((rs.filter (fun r => (r.2.2.getD l (0, 0, 0)).1 != 0)).map (fun r => r.2.1)) ≤ 110) &&
  (!a.rt || (t1 != 0 && t1 * 10 ≤ popCount 240 a.pch * 93 && t2 ≤ 27 &&
    (t2 == 0 || a.cxl.any (fun r => r.1 != 0))))

/-- Check 6: region base and pseudo-channels change only in CONFIGURING. -/
def State.regionKept (s : State) (p : Nat) (a : Assign) : Bool :=
  s.partState p == 1 || (a.base == (s.part p).assign.base && a.pch == (s.part p).assign.pch)

/-- How many contexts would be SUSPENDED under an assignment (R465, R467): those that are and keep a share, and each new one whose
share meets a resident one. An APPLY that would make more than 8 fails with check 4, on shares (R7, log entry 89). -/
def State.wouldSuspend (s : State) (p : Nat) (a : Assign) : Nat :=
  let sh (c : Nat) : Nat × Nat := a.shares.getD c (0, 0)
  ((List.range 16).foldl (fun (acc : List Nat × Nat) c =>
    if shareEmpty (sh c) then acc
    else if s.ctxState p c == 2 then (acc.1, acc.2 + 1)
    else if s.ctxState p c != 0 then acc
    else if acc.1.all (fun d => !shareMeet (sh c) (sh d)) then (acc.1 ++ [c], acc.2)
    else (acc.1, acc.2 + 1))
    ((List.range 16).filter (fun c => s.ctxState p c == 1), 0)).2

/-- The first check of Table 12-3 that an assignment fails; 0: none. -/
def State.assignErr (s : State) (p : Nat) (a : Assign) : Nat :=
  if !s.ownedOnce p a then 1
  else if !s.rangesIn p a then 2
  else if !s.changesIdle p a then 3
  else if !s.sharesOk p a || 8 < s.wouldSuspend p a then 4
  else if !s.ratesOk p a then 5
  else if !s.regionKept p a then 6
  else 0

/-! ### Making an assignment current (R462, R463, R467) -/

/-- Where an HBM byte lies: physical pseudo-channel and offset. -/
def State.hbmPlace (s : State) (a : Nat) : Option (Nat × Nat) :=
  if 2 ^ 48 ≤ a then some ((a - 2 ^ 48) / 2 ^ 32, a % 2 ^ 32)
  else if a < 0x00F0_0000_0000 then s.pchOf a
  else none

/-- The address at which a byte is kept once the assignments of `t` are current: bytes stay in their pseudo-channel; those of
a pseudo-channel that has a new owner are zero. -/
def State.movedTo (s t : State) (fresh : Nat) (a : Nat) : Option Nat :=
  match s.hbmPlace a with
  | none => some a
  | some (g, off) =>
    let l := s.fld (SPN_ENGINE g) 39 32
    if l < 30 && fresh.testBit (g / 32 * 30 + l) then none else some (t.spnAddr g off)

/-- Keep memory under new addresses. -/
def rekey (f : Nat → Option Nat) (m : List (Nat × Byte)) : List (Nat × Byte) :=
  m.foldl (fun acc e =>
    match f e.1 with
    | some a => sparseSet 0 acc a e.2
    | none => acc) []

/-- Write the ownership fields of engines, Lathes and walkers for a partition's assignment (R188, R241, R317). -/
def State.setOwners (s : State) (p : Nat) (a b : Assign) : State :=
  let put (reg : Nat) (was now_ : Bool) (s : State) : State :=
    if now_ then (s.setFld reg 23 20 p).setFld reg 19 19 1
    else if was then (s.setFld reg 23 20 0).setFld reg 19 19 0
    else s
  let s1 := (List.range 256).foldl (fun s g =>
    let l := s.fld (SPN_ENGINE g) 39 32
    if l < 30 then put (SPN_ENGINE g) (a.pch.testBit (g / 32 * 30 + l)) (b.pch.testBit (g / 32 * 30 + l)) s else s) s
  let s2 := (List.range 56).foldl (fun s n =>
    let l := s.fld (LTH_ARRAY n) 39 32
    if l < 48 then put (LTH_ARRAY n) (a.lathes.testBit l) (b.lathes.testBit l) s else s) s1
  (List.range 72).foldl (fun s w =>
    let l := s.fld (GGE_WALKER w) 39 32
    if l < 64 then put (GGE_WALKER w) (a.walkers.testBit l) (b.walkers.testBit l) s else s) s2

/-- Contexts follow their applied shares (R467): a new one becomes RESIDENT where its share is disjoint from every resident
share and SUSPENDED with a zeroed image otherwise; one whose share is empty is deleted, but for one to which a queue pair is bound: a
context 0 that came up with no share. -/
def State.applyShares (s : State) (p : Nat) : State :=
  (List.range 16).foldl (fun s c =>
    let sh := s.share p c
    if shareEmpty sh then (if (s.qpsOfCtx p c).isEmpty then (s.setCtx p c 0).dropImage p c else s)
    else if s.ctxState p c != 0 then s
    else
      let res := (List.range 16).filter (fun d => s.ctxState p d == 1)
      if res.all (fun d => !shareMeet sh (s.share p d)) then s.setCtx p c 1
      else (s.setCtx p c 2).emptyImage p c) s

/-- Gated Lathes of a mask of logical numbers request a wake (R309). -/
def State.wakeLathes (s : State) (mask : Nat) : State :=
  ((bitsOf 48 mask).filterMap (fun l => s.physLathe l)).foldl (fun s n => s.askLathe n) s

/-- Bytes of ranges (first address, length) were written under a key that is no more: they read as free values until they are written
again (R665, log entry 34). -/
def State.scramble (s : State) (rs : List (Nat × Nat)) : State :=
  let under (a : Nat) : Bool := rs.any (fun r => r.1 ≤ a && a < r.1 + r.2)
  let old := rs.foldl (fun vs r => cutVeil vs r.1 r.2) s.veil
  { s.tick with
    mem := s.mem.filter (fun e => !under e.1)
    veil := rs.map (fun r => { lo := r.1, hi := r.1 + r.2, tok := s.freeCtr, at_ := r.1 }) ++ old }

/-- The range of an assignment on a CXL link, first address and length. -/
def Assign.cxlRange (a : Assign) (l : Nat) : Nat × Nat :=
  let r := a.cxl.getD l (0, 0, 0)
  (cxlBase l + r.2.1 * 2 ^ 30, if r.1 == 0 then 0 else r.2.2 * 2 ^ 30)

/-- The parts of a range that lie outside another. -/
def rangeDiff (a b : Nat × Nat) : List (Nat × Nat) :=
  let hi := min (a.1 + a.2) (max a.1 b.1)
  let lo := max a.1 (min (a.1 + a.2) (b.1 + b.2))
  if b.2 == 0 || a.2 == 0 then [a].filter (fun r => r.2 != 0)
  else [(a.1, hi - a.1), (lo, a.1 + a.2 - lo)].filter (fun r => r.2 != 0)

/-- The parts of CXL ranges that change owner between two assignments of a partition, and so are read under another key (R665). -/
def cxlMoves (a b : Assign) : List (Nat × Nat) :=
  (List.range 4).flatMap (fun l => rangeDiff (a.cxlRange l) (b.cxlRange l) ++ rangeDiff (b.cxlRange l) (a.cxlRange l))

/-- Memory of a partition's region under a new base and list of pseudo-channels: bytes stay in their pseudo-channel, those of a fresh one
are zero, and what no key opens stays so. -/
def State.moveRegion (s t : State) (p fresh : Nat) : State :=
  let old := (s.regionBase p, s.regionSize p)
  let new_ := (t.regionBase p, t.regionSize p)
  let l := bitsOf 240 (t.part p).assign.pch
  let holes := (List.range l.length).filter (fun i => fresh.testBit (l.getD i 0))
  let veiled : Bool := s.veil.any (fun v => decide (v.lo < old.1 + old.2) && decide (old.1 < v.hi))
  let v : Veil := { lo := new_.1, hi := new_.1 + new_.2, tok := s.freeCtr, at_ := new_.1, base := new_.1, n := l.length, holes := holes }
  let t1 : State := if veiled then t.tick else t
  { t1 with
    mem := rekey (s.movedTo t fresh) t.mem
    veil := (if veiled then [v] else []) ++ cutVeil (cutVeil t.veil old.1 old.2) new_.1 new_.2
    ue := t.ue.filterMap (fun u => (s.movedTo t fresh (u * 64)).map (fun x => x / 64))
    ce := t.ce.filterMap (fun u => (s.movedTo t fresh (u * 64)).map (fun x => x / 64)) }

/-- Make an assignment current. What changes owner on a CXL link is under another key; the Lathes of a real-time partition are not
left gated (R474). The registers of the tier, selection and other areas of the partition are written by the firmware with writes of
their own (log entry 31). -/
def State.install (s : State) (p : Nat) (a : Assign) : State :=
  let b := (s.part p).assign
  let t := (s.setPart p (fun x => { x with assign := a })).setOwners p b a
  let fresh := a.pch &&& (2 ^ 240 - 1 - b.pch % 2 ^ 240)
  let t0 := if a.pch == b.pch && a.base == b.base then t else s.moveRegion t p fresh
  let t1 := if (cxlMoves a b).isEmpty then t0 else t0.scramble (cxlMoves a b)
  let t2 := t1.zeroShare (a.ways &&& (2 ^ 64 - 1 - b.ways % 2 ^ 64), a.lathes &&& (2 ^ 48 - 1 - b.lathes % 2 ^ 48))
  let t3 := (t2.setFld (PRT_REGION p) 7 0 (popCount 240 a.pch)).setFld PRT_STATUS (16 + p) (16 + p) (if a.rt then 1 else 0)
  (t3.setFld (GGE_PART_CFG p) 39 32 (popCount 64 a.walkers)).wakeLathes (if a.rt then a.lathes else 0)

/-- Set the state of a partition, and its bit of PRT_STATUS. -/
def State.setPartState (s : State) (p st : Nat) : State :=
  (s.setFld (PRT_PART_CTRL p) 5 4 st).setFld PRT_STATUS p p (if st == 2 then 1 else 0)

/-! ### Partition keys (R664, R665) -/

/-- The memory of a partition: its region, and its ranges on CXL links. -/
def State.partMemory (s : State) (p : Nat) : List (Nat × Nat) :=
  ((s.regionBase p, s.regionSize p) :: (List.range 4).map (fun l => (s.part p).assign.cxlRange l)).filter (fun r => r.2 != 0)

/-- A partition's key pair is destroyed. -/
def State.dropKey (s : State) (p : Nat) : State :=
  if s.bit (SEC_KEY_GEN p) 0 then (s.scramble (s.partMemory p)).setFld (SEC_KEY_GEN p) 0 0 0 else s

/-- A new key pair for a partition. -/
def State.newKey (s : State) (p : Nat) : State := ((s.dropKey p).bump (SEC_KEY_GEN p) 31 1 1).setFld (SEC_KEY_GEN p) 0 0 1

/-! ### Real-time plans (R475 to R479) -/

/-- The walk of a kernel's instructions (R476): when the next can issue, until when the array, the vector unit and the rows to the
selection units are busy, when every issued instruction has completed, and until when slots are written and read. -/
structure PlanWalk where
  issue  : Nat := 0
  array  : Nat := 0
  vec    : Nat := 0
  send   : Nat := 0
  done   : Nat := 0
  writes : List (Nat × Nat) := []
  reads  : List (Nat × Nat) := []
  deriving DecidableEq, Repr, Inhabited

/-- When the accesses of a list to some slots have ended. -/
def endOf (l : List (Nat × Nat)) (slots : List Nat) : Nat :=
  maxNat ((l.filter (fun e => slots.contains e.1)).map (fun e => e.2))

/-- The earliest cycle at which an instruction that reads and writes slots may follow those before it. -/
def PlanWalk.after (x : PlanWalk) (rd wr : List Nat) : Nat :=
  max x.issue (max (endOf x.writes (rd ++ wr)) (endOf x.reads wr))

/-- An instruction is at work on slots up to a cycle. -/
def PlanWalk.use (x : PlanWalk) (rd wr : List Nat) (t : Nat) : PlanWalk :=
  { x with reads := rd.map (fun i => (i, t)) ++ x.reads, writes := wr.map (fun i => (i, t)) ++ x.writes }

/-- One instruction of the walk, every slot being resident (R310, Table 7-10): MATMULs follow each other in the array, VECTOR
instructions run beside them unless they share slots, and a FENCE waits for all that went before. -/
def PlanWalk.next (x : PlanWalk) (w : BitVec 128) : PlanWalk :=
  match bitsAt w 127 120 with
  | 0x10 =>
    let o := parseMat w
    let wide : Bool := [o.wfmt, o.ifmt].any (fun f => f == 4 || f == 5)
    let n := (if wide then 2 else 1) * (if o.keep then o.m else max o.m 256)
    let t := max x.array (x.after o.islots o.oslots)
    ({ x with issue := t + 1, array := t + n, done := max x.done (t + 256 + max n (255 + o.m + o.n)) } : PlanWalk).use o.islots o.oslots (t + n)
  | 0x20 =>
    let o := parseVec w
    let n := (if 0x08 ≤ o.vop && o.vop ≤ 0x0D then 2 else 1) * o.rows
    let rd := o.aslots ++ o.bslots
    let t := max x.vec (x.after rd o.dslots)
    ({ x with issue := t + 1, vec := t + n, done := max x.done (t + 6 + n + (if o.reduces then 8 else 0)) } : PlanWalk).use rd o.dslots (t + n)
  | 2 => { x with issue := max x.issue x.done + 1 }
  | 6 =>
    let t := max x.send (x.after (sendSlots w) [])
    let n := bitsAt w 110 103 + 1
    ({ x with issue := t + 1, send := t + n, done := max x.done (t + n) } : PlanWalk).use (sendSlots w) [] (t + n)
  | _ => { x with issue := x.issue + 1 }

/-- Cycles from the first issue of a kernel's instructions to the issue of its LAYER instruction, or of its END where it has
none. -/
def toLayer (x : PlanWalk) : List (BitVec 128) → Nat
  | [] => max (max x.issue x.array) (max x.vec x.send)
  | w :: ws =>
    if bitsAt w 127 120 == 4 || bitsAt w 127 120 == 1 then max (max x.issue x.array) (max x.vec x.send) else toLayer (x.next w) ws

/-- The kernels of a run of instructions: each ends with END. -/
def kernelsOf : List (BitVec 128) → List (BitVec 128) → List (List (BitVec 128))
  | [], acc => if acc.isEmpty then [] else [acc.reverse]
  | w :: ws, acc => if bitsAt w 127 120 == 1 then (w :: acc).reverse :: kernelsOf ws [] else kernelsOf ws (w :: acc)

/-- K(m) in cycles: the largest count over the kernels of a layer record's instructions (log entry 32). -/
def State.kernelCycles (s : State) (addr n : Nat) : Nat :=
  let ws := (List.range n).map (fun i => BitVec.ofNat 128 (s.num (addr + 16 * i) 16))
  maxNat ((kernelsOf ws []).map (toLayer {}))

/-- The lowest clock of a context's Lathes, in units of 100 MHz. -/
def State.lowClock (s : State) (p c : Nat) : Nat :=
  if (s.contextLathes p c).any (fun n => s.bit (LTH_ARRAY n) 40) then 11 else 12

/-- The groups that a schedule layer consumes in a generation step. -/
def Model.layerGroups (m : Model) (k : Nat) : List TileGroup := m.fwd.filter (fun g => !g.isUnder && g.layer == k)

/-- F(m) in nanoseconds; none where a rate that it needs is zero. -/
def State.layerFetch (s : State) (p : Nat) (m : Model) (k : Nat) (other : Nat) : Option Rat :=
  let r1 := s.fld (TIER_RSV_BW p) 31 16
  let r2 := s.fld (TIER_RSV_BW p) 15 0
  let over1 (n : Nat) : Option Rat := if n == 0 then some 0 else if r1 == 0 then none else some ((n : Rat) / r1)
  (m.layerGroups k).foldl (fun acc g =>
    let in1 := ((s.obj? p (tileObjId false m.id m.version g.first)).map (fun o => o.t1.isSome)).getD true
    match acc, (if in1 then over1 g.stored else if r2 == 0 then none else some ((g.stored : Rat) / r2)) with
    | some t, some u => some (t + u + (if in1 then 1000 else 3000))
    | _, _ => none) (over1 other)

/-- The WCET of a plan in nanoseconds, rounded up (R476); 2^64 − 1 where a reserved rate is zero. -/
def State.wcet (s : State) (p : Nat) (k : Plan) : Nat :=
  match s.model? p k.model k.version with
  | none => k.wcet
  | some m =>
    let clock := s.lowClock p k.ctx
    let fs := k.layers.zipIdx.map (fun e => s.layerFetch p m e.2 (e.1.2.2.1 + e.1.2.2.2 * k.kvPos * k.seqs))
    if fs.any (fun f => f.isNone) then 2 ^ 64 - 1
    else
      let fv (i : Nat) : Rat := (fs.getD i none).getD 0
      let kv (e : Nat × Nat × Nat × Nat) : Rat := (s.kernelCycles e.1 e.2.1 : Rat) * 10 / clock
      let t := k.layers.zipIdx.foldl (fun acc e => acc + max (kv e.1) (fv (e.2 + 1))) (fv 0)
      (t + 15000 + 2 * k.rows).ceil.toNat

/-- Show a plan slot in its register. -/
def State.showPlan (s : State) (p slot : Nat) : State :=
  match (s.part p).plans.find? (fun k => k.slot == slot) with
  | none => s.setRaw (PRT_PLAN p slot) 0
  | some k => s.setRaw (PRT_PLAN p slot)
      (BitVec.ofNat 64 (min k.wcet (2 ^ 32 - 1) * 2 ^ 32 + k.model * 2 ^ 16 + k.ctx * 2 ^ 12 + 1))

/-- Make a plan slot hold a plan, or nothing. -/
def State.putPlan (s : State) (p slot : Nat) (k : Option Plan) : State :=
  (s.setPart p (fun x => { x with plans := x.plans.filter (fun y => y.slot != slot) ++ k.toList })).showPlan p slot

/-- Every admitted plan of a partition is computed again; one whose WCET exceeds its bound is withdrawn (R479). -/
def State.recheckPlans (s : State) (p : Nat) : State :=
  (s.part p).plans.foldl (fun s k =>
    let w := s.wcet p k
    if k.bound < w then (s.putPlan p k.slot none).event PRT_EVENT 2 else s.putPlan p k.slot (some { k with wcet := w })) s

/-- Parse Table 12-7. -/
def parsePlan (bs : List Byte) : Plan :=
  { slot := fieldAt bs 6 1, model := fieldAt bs 0 2, version := fieldAt bs 2 2, ctx := fieldAt bs 4 1, rows := fieldAt bs 8 4,
    seqs := fieldAt bs 12 4, kvPos := fieldAt bs 16 4, bound := fieldAt bs 24 8, wcet := 0,
    layers := (List.range (fieldAt bs 20 4)).map (fun i =>
      (fieldAt bs (32 + 32 * i) 8, fieldAt bs (40 + 32 * i) 4, fieldAt bs (48 + 32 * i) 8, fieldAt bs (56 + 32 * i) 8)) }

/-- Weight slots that the tiles of a group take: one of BF16 or FP16 takes two (R283). -/
def Model.groupSlots (m : Model) (g : TileGroup) : Nat :=
  sumNat ((List.range g.count).map (fun i => tileSlots (weightTileBytes (m.tiles.getD (g.first + i) (0, 0, 0)).2.1)))

/-- The fields of a plan are in range (R475). -/
def State.planOk (s : State) (p : Nat) (k : Plan) (m : Model) : Bool :=
  k.slot < 8 && k.ctx < 16 && s.ctxState p k.ctx != 0 && 1 ≤ k.rows && k.rows ≤ 65536 && 1 ≤ k.seqs && k.seqs ≤ 32768 &&
  k.kvPos ≤ 16777215 && k.layers.length == m.sched.length && !m.sched.any (fun x => x.far) &&
  k.layers.all (fun e => s.owns p e.1 (16 * e.2.1)) &&
  (List.range m.sched.length).all (fun i =>
    sumNat ((m.layerGroups i).map (fun g => m.groupSlots g)) ≤ 16 * popCount 48 (s.share p k.ctx).2)

/-- The reply of PLAN_ADMIT. -/
def planReply (slot wcet : Nat) : List Byte := toLE 1 slot ++ zeros 7 ++ toLE 8 wcet

/-- PLAN_ADMIT (R475, R476). -/
def bodyPlanAdmit (c : Cmd) (s : State) : State :=
  let p := c.hdr.partition
  let bs := c.input
  let n := fieldAt bs 20 4
  if bs.length < 32 || bs.length != 32 + 32 * n then s.refuse c stBadParameter
  else if !zerosAt bs 7 1 || 1 < fieldAt bs 5 1 || (List.range n).any (fun i => !zerosAt bs (44 + 32 * i) 4) then
    s.refuse c stReservedNonzero
  else if !(s.part p).assign.rt then s.refuse c stBadParameter
  else
    let k := parsePlan bs
    if fieldAt bs 5 1 == 1 then
      if 7 < k.slot then s.refuse c stBadParameter
      else if !(s.part p).plans.any (fun x => x.slot == k.slot) then s.refuse c stUnknownObject
      else (s.putPlan p k.slot none).reply c stOk [] (planReply k.slot 0)
    else
      match s.model? p k.model k.version with
      | none => s.refuse c stUnknownObject
      | some m =>
        if !s.planOk p k m then s.refuse c stBadParameter
        else
          let w := s.wcet p k
          if k.bound < w then s.reply c stPlanNotAdmitted [] (planReply k.slot w)
          else (s.putPlan p k.slot (some { k with wcet := w })).reply c stOk [] (planReply k.slot w)

/-! ### Context teardown (R473, R480, Table 12-8) -/

/-- The commands of a context that are outstanding are replied, and what they were doing ends. A telemetry subscription has had
its reply: its stream ends. -/
def State.endCommands (s : State) (ids : List Nat) (status : Nat) : State :=
  ids.foldl (fun s id =>
    if s.closingCmd id then s else
    match s.telems.find? (fun t => t.cmd == id) with
    | some t =>
      (({ s with telems := s.telems.filter (fun t => t.cmd != id) } : State).finalEvent t.stream status (fun _ => []) []).dropCmd id
    | none => ((s.orphanReads id).endCmd id status).dropSearches id) s

/-- A torn-down context leaves its part of a switch in progress (R473): an outgoing one is suspended and empty where the
incoming share needs its place, and resident otherwise; an incoming one is resident with its share zeroed, once the outgoing contexts
have been saved. The state that the context takes, and whether its teardown ends with the switch. -/
def State.leaveSwitch (s : State) (p c was : Nat) : State × Nat × Bool :=
  let back := if was == 2 then 2 else 1
  match (s.part p).switch with
  | none => (s, back, false)
  | some w =>
    if w.quiesce.isNone then (s, back, false)
    else if w.incoming == some c then (s.setPart p (fun x => { x with switch := some { w with incoming := none } }), 1, true)
    else if w.out.contains c then
      let next := w.incoming.toList ++ ((s.part p).tears.filter (fun t => t.held)).map (fun t => t.ctx)
      (s.setPart p (fun x => { x with switch := some { w with out := w.out.filter (fun d => d != c) } }),
        if next.any (fun d => shareMeet (s.share p c) (s.share p d)) then 2 else 1, false)
    else (s, back, false)

/-- The contents of a context's share are its own: it is resident, or on its way out. -/
def State.holdsShare (s : State) (p c : Nat) : Bool :=
  s.ctxState p c == 1 || ((s.part p).switch.map (fun w => s.ctxState p c == 3 && w.out.contains c)).getD false

/-- Tear a context down with a status (Table 12-8): it is TEARING_DOWN, its kernels and Spindle work are aborted, its entries end and
its commands are replied. What is left ends at the partition's next step boundary, or 1 ms later (log entry 139). -/
def State.tearContext (p c status : Nat) (s : State) : State :=
  let was := s.ctxState p c
  if was == 0 || was == 4 then s
  else
    let own := s.holdsShare p c
    let s1 := (if own then s.abortKernels p c else s).setCtx p c 4
    let s2 := if (s1.runner p).active && (s1.runner p).ctx == c then s1.setRunner p (fun _ => {}) else s1
    let es := (s2.seqs.filter (fun q => q.part == p && q.ctx == c)).map (fun q => q.idx)
    let s3 := es.foldl (fun s i => s.endNow i status) s2
    let ids := (s3.cmds.filter (fun k => k.hdr.partition == p && k.ctx == c)).map (fun k => k.id)
    let s4 := s3.endCommands ids status
    let s4 := spindleAbortStep (BitVec.ofNat 64 (2 ^ 21 + p * 2 ^ 16 + c)) s4
    let s5 := if (s4.runner p).active then s4 else s4.freeEnded p
    let (s6, back, held) := s5.leaveSwitch p c was
    let t : Tear := { ctx := c, back := back, since := s6.now, own := was != 2, held := held }
    s6.setPart p (fun x => { x with tears := x.tears ++ [t] })

/-- CONTEXT_TEARDOWN (R480, R486): a TEARDOWN written to PRT_CTX_CFG. -/
def contextTeardownStep (src : Plane) (p c : Nat) (s : State) : State :=
  if s.prtOpen src p then s.tearContext p c stContextTornDown else s

/-! ### APPLY and REQUEST (R462, R464) -/

/-- APPLY. Context teardowns of the partition end before the new shares are theirs. A partition that is DOWN is assigned nothing, and
shows what the checks find (log entry 140). -/
def applyRegsStep (src : Plane) (p : Nat) (s : State) : State :=
  if !s.prtOpen src p then s
  else
    let a := s.prtAssign p
    match s.assignErr p a with
    | 0 =>
      let s1 := s.setFld (PRT_PART_CTRL p) 23 16 0
      if s.partState p == 0 || s.partState p == 3 then s1
      else (((s1.endTears p (fun _ => true)).install p a).applyShares p).recheckPlans p
    | e => (s.setFld (PRT_PART_CTRL p) 23 16 e).event PRT_EVENT 4

/-- Every object of a partition is freed: models, indices, shard maps, tables, vocabularies, grammars, variants and prefixes;
and with them the plans of its models. -/
def State.freeObjects (s : State) (p : Nat) : State :=
  let s1 := (s.models.filter (fun m => m.part == p)).foldl (fun s m => s.freeModel m) s
  let s2 := (s1.prefixes.filter (fun x => x.part == p)).foldl (fun s x =>
    let g := if x.gen + 1 == 2 ^ 46 then 1 else x.gen + 1
    { (s.freeKv (prefOwner x.slot)) with prefixGens := assocSet s.prefixGens x.slot g }) s1
  let s3 := ((s2.dir.filter (fun e => e.1 == p)).map (fun e => e.2.id)).foldl (fun s id => s.delObj p id) s2
  let s4 := { s3 with
    prefixes := s3.prefixes.filter (fun x => x.part != p)
    indices := s3.indices.filter (fun x => x.part != p)
    merges := s3.merges.filter (fun j => j.part != p)
    maps := s3.maps.filter (fun x => x.part != p)
    migs := s3.migs.filter (fun x => !s3.tables.any (fun t => t.id == x.table && t.part == p))
    tables := s3.tables.filter (fun x => x.part != p)
    variants := s3.variants.filter (fun x => x.part != p)
    turns := s3.turns.filter (fun x => x.part != p) }
  let s5 := (s4.vocabs.filter (fun x => x.part == p)).foldl (fun s v => s.dropVocab v.slot) s4
  let s6 := (s5.grammars.filter (fun x => x.part == p)).foldl (fun s g => s.dropGrammar g.slot) s5
  (List.range 8).foldl (fun s k => s.putPlan p k none) (s6.setRaw (GGE_MERGE_STATUS p) (resetValue (GGE_MERGE_STATUS p)))

/-- PARTITION_TEARDOWN (R464): REQUEST 1 on an UP partition. Every context is torn down with PARTITION_DOWN, every object is
freed, and the partition is CONFIGURING; the passage is carried out whole (log entry 33). -/
def partitionTeardownStep (src : Plane) (p : Nat) (s : State) : State :=
  if !s.prtOpen src p || s.partState p != 2 then s
  else
    let s0 := s.setPartState p 3
    let s1 := (List.range 16).foldl (fun s c => s.tearContext p c stPartitionDown) s0
    let s2 := (s1.runs.filter (fun j => j.part == p)).foldl (fun s j => s.endCmd j.cmd stPartitionDown) s1
    let s3 := ((s2.seqs.filter (fun q => q.part == p)).map (fun q => q.idx)).foldl (fun s i => s.endNow i stPartitionDown) s2
    let ids := (s3.cmds.filter (fun k => k.hdr.partition == p)).map (fun k => k.id)
    let s4 := ((s3.endCommands ids stPartitionDown).setPart p (fun x => { x with switch := none })).setRunner p (fun _ => {})
    ((((s4.endTears p (fun _ => true)).freeEnded p).freeObjects p).dropKey p).setPartState p 1

/-- REQUEST_CONFIGURING (R464): REQUEST 1 on a DOWN partition. -/
def requestConfiguringStep (src : Plane) (p : Nat) (s : State) : State :=
  if s.prtOpen src p && s.partState p == 0 then s.setPartState p 1 else s

/-- The resident contexts whose shares meet that of context 0. -/
def State.meetZero (s : State) (p : Nat) : List Nat :=
  (List.range 16).filter (fun c => c != 0 && s.ctxState p c == 1 && shareMeet (s.share p c) (s.share p 0))

/-- Context 0 becomes resident and empty, its whole share written with zeros; a resident context whose share meets its share is
suspended with a zeroed image, so that the shares of resident contexts stay disjoint (R465, R467). -/
def State.residentZero (s : State) (p : Nat) : State :=
  let s1 := (s.meetZero p).foldl (fun s c => (s.setCtx p c 2).emptyImage p c) s
  ((s1.dropImage p 0).zeroShare (s1.share p 0)).setCtx p 0 1

/-- Context 0 may become resident: no more than 8 contexts are SUSPENDED beside it (R465). -/
def State.zeroFits (s : State) (p : Nat) : Bool :=
  ((List.range 16).filter (fun c => c != 0 && s.ctxState p c == 2)).length + (s.meetZero p).length ≤ 8

/-- REQUEST_UP (R464, R664): a CONFIGURING partition is UP, with context 0 resident and empty and a new key pair. Where more than 8
contexts would be SUSPENDED, the write has no effect (log entry 141). -/
def requestUpStep (src : Plane) (p : Nat) (s0 : State) : State :=
  let s := s0.endTears p (fun _ => true)
  if s.prtOpen src p && s.partState p == 1 && s.zeroFits p then ((s.residentZero p).newKey p).setPartState p 2 else s0

/-- REQUEST_DOWN (R464): a CONFIGURING partition with no queue pair bound releases its resources and is DOWN. -/
def requestDownStep (src : Plane) (p : Nat) (s : State) : State :=
  if !s.prtOpen src p || s.partState p != 1 then s
  else if !(s.qpsOf p).isEmpty then s.setFld (PRT_PART_CTRL p) 23 16 7
  else
    let s1 := (s.install p {}).setPart p (fun x => { x with images := [], tears := [] })
    ((List.range 16).foldl (fun s c => s.setCtx p c 0) s1).setPartState p 0

/-! ### Suspend and resume (R469 to R473) -/

/-- The longest that saving or reloading the whole on-chip share of a partition may take: S_part / B is at most 249 µs, with B
the smaller of n × 37.2 GB/s and 16,384 GB/s (R470, Table 12-4). -/
def State.switchTooLong (s : State) (p : Nat) : Bool :=
  let a := (s.part p).assign
  let b10 := min (popCount 240 a.pch * 372) 163840
  249000 * b10 < shareBytes (a.ways, a.lathes) * 10

/-- A switch or a teardown of the partition is in progress. -/
def State.switchBusy (s : State) (p : Nat) : Bool :=
  (s.part p).switch.isSome || (List.range 16).any (fun c => s.ctxState p c == 4)

/-- The save area has room for the images of the outgoing contexts beside those that it holds. -/
def State.imagesFit (s : State) (p : Nat) (out : List Nat) : Bool :=
  (out.foldl (fun (acc : Option State) c => acc.bind (fun s =>
    (s.imagePlace p (imageBytes (s.share p c))).map (fun a =>
      let im : CtxImage := { ctx := c, addr := a, bytes := imageBytes (s.share p c) }
      s.setPart p (fun x => { x with images := x.images ++ [im] })))) (some s)).isSome

/-- Contexts of a partition that are SUSPENDED. -/
def State.suspended (s : State) (p : Nat) : List Nat := (List.range 16).filter (fun c => s.ctxState p c == 2)

/-- The request of a switch: the refusals of Table 12-4, then the switch awaits the next step boundary. -/
def State.requestSwitch (s : State) (c : Cmd) (out : List Nat) (incoming : Option Nat) : State :=
  let p := c.hdr.partition
  let stay := (List.range 16).filter (fun d => s.ctxState p d == 1 && !out.contains d)
  let clash : Bool := match incoming with
    | some i => stay.any (fun d => shareMeet (s.share p i) (s.share p d))
    | none => false
  let badIn : Bool := match incoming with
    | some i => 16 ≤ i || s.ctxState p i != 2
    | none => false
  if out.any (fun d => 16 ≤ d || s.ctxState p d != 1) || badIn || clash || s.switchTooLong p then s.refuse c stBadParameter
  else if 8 < (s.suspended p).length + out.length - incoming.toList.length then s.refuse c stNoMemory
  else if !s.imagesFit p out then s.refuse c stNoMemory
  else if s.switchBusy p then s.refuseBusy c
  else s.setPart p (fun x => { x with switch := some { out := out, incoming := incoming, cmd := c.id } })

/-- CONTEXT_SUSPEND (R469). -/
def bodyContextSuspend (c : Cmd) (s : State) : State :=
  s.shaped c 8 [(1, 7)] fun s => s.requestSwitch c [fieldAt c.input 0 1] none

/-- CONTEXT_RESUME (R469). -/
def bodyContextResume (c : Cmd) (s : State) : State :=
  s.shaped c 8 [(1, 1), (4, 4)] fun s => s.requestSwitch c (bitsOf 16 (fieldAt c.input 2 2)) (some (fieldAt c.input 0 1))

/-- SWITCH_QUIESCE_TIMEOUT (R470): at the QUIESCE_US limit, group fetches still in flight to the outgoing Lathes are cancelled
and their slots are EMPTY. -/
def switchQuiesceTimeoutStep (p : Nat) (s : State) : State :=
  match (s.part p).switch with
  | none => s
  | some w =>
    match w.quiesce with
    | none => s
    | some t =>
      if s.now < t + s.fld (PRT_SWITCH_CFG p) 6 0 * 1000 then s
      else
        (w.out.flatMap (fun c => s.contextLathes p c)).foldl (fun s n =>
          (((s.lathe n).slots.filter (fun e => e.2.st == 1)).map (fun e => e.1)).foldl (fun s i => s.emptySlot n i) s) s

/-- Save the share of an outgoing context: its ways, its Lathe buffers and their scoreboards, each under its place in the share. -/
def State.saveContext (s : State) (p c : Nat) : State :=
  let sh := s.share p c
  let n := imageBytes sh
  let a := (s.imagePlace p n).getD 0
  let ways := bitsOf 64 sh.1
  let ls := (bitsOf 48 sh.2).zipIdx.filterMap (fun e => (s.physLathe e.1).map (fun x => (e.2, x)))
  let cells := s.mem.filterMap (fun e =>
    let w := (e.1 - 0x0F00_0000_0000) / 0x30_0000
    if 0x0F00_0000_0000 ≤ e.1 && w < 64 then
      (if ways.contains w then some (ways.idxOf w * 2 ^ 24 + (e.1 - toolWay w), e.2) else none)
    else (ls.find? (fun (l : Nat × Nat) => latheWindow l.2 ≤ e.1 && e.1 < latheWindow (l.2 + 1))).map (fun (l : Nat × Nat) =>
      ((64 + l.1) * 2 ^ 24 + (e.1 - latheWindow l.2), e.2)))
  let boards := ls.map (fun (l : Nat × Nat) => (l.1, (s.lathe l.2).slots.map (fun e => (e.1, e.2.st, e.2.fmt, e.2.obj))))
  let im : CtxImage := { ctx := c, addr := a, bytes := n, cells := cells, boards := boards }
  let s1 := (s.dropImage p c).setPart p (fun x => { x with images := x.images ++ [im] })
  (s1.zeroShare sh).setCtx p c 2

/-- A cell of a context image goes back to its place in a share: the way or the Lathe of that place, of those given. -/
def State.putCell (ways lathes : List Nat) (s : State) (e : Nat × Byte) : State :=
  let k := e.1 / 2 ^ 24
  let at_ := if k < 64 then (ways[k]?).map toolWay else ((lathes[k - 64]?).bind (fun l => s.physLathe l)).map latheWindow
  match at_ with
  | some a => { s with mem := sparseSet 0 s.mem (a + e.1 % 2 ^ 24) e.2 }
  | none => s

/-- Reload an image into its context's share as it is now, way by way and Lathe by Lathe in ascending order (log entry 142); the image
leaves the save area. -/
def State.loadContext (s : State) (p c : Nat) : State :=
  match s.image? p c with
  | none => s.setCtx p c 1
  | some im =>
    let sh := s.share p c
    let lathes := bitsOf 48 sh.2
    let s1 := s.zeroShare sh
    let s2 := im.cells.foldl (State.putCell (bitsOf 64 sh.1) lathes) s1
    let boards := im.boards.filterMap (fun (b : Nat × List (Nat × Nat × Nat × Option Nat)) =>
      ((lathes[b.1]?).bind (fun l => s.physLathe l)).map (fun n => (n, b.2)))
    let s3 := boards.foldl (fun s b =>
      b.2.foldl (fun s e => s.setSlot b.1 e.1 { st := e.2.1, fmt := e.2.2.1, obj := e.2.2.2 }) s) s2
    let s4 := boards.foldl (fun s b =>
      b.2.foldl (fun s e =>
        match e.2.2.2 with
        | some id => s.setObj p id (fun o => { o with tier0 := true })
        | none => s) s) s3
    (s4.dropImage p c).setCtx p c 1

/-- Every Lathe of the outgoing contexts has drained. -/
def State.quiesced (s : State) (p : Nat) (out : List Nat) : Bool :=
  (out.flatMap (fun c => s.contextLathes p c)).all (fun n =>
    (s.lathe n).slots.all (fun e => e.2.st == 0 || e.2.st == 2) && !s.bit (LTH_ARRAY n) 0)

/-- CONTEXT_SWITCH_COMPLETE (R470, R473): the outgoing shares are saved, the incoming image is in its share, the contexts are
marked and the command is replied. An image that reads uncorrectable tears the incoming context down. -/
def contextSwitchCompleteStep (p : Nat) (s0 : State) : State :=
  let s := s0.settleLathes p
  match (s.part p).switch with
  | none => s
  | some w =>
    if w.quiesce.isNone || !s.quiesced p w.out then s
    else
      -- an outgoing context that has been torn down leaves its share first; one torn down on its way in has it zeroed last (R473)
      let s1 := w.out.foldl (fun s c => s.saveContext p c) (s.endTears p (fun t => !t.held))
      let over_ (s : State) : State := s.setPart p (fun x => { x with switch := none })
      let s2 := match w.incoming with
        | none => over_ s1
        | some c =>
          match s1.image? p c with
          | some im =>
            if s1.isUe im.addr im.bytes then ((over_ s1).dramUe im.addr).tearContext p c stContextTornDown
            else over_ (s1.loadContext p c)
          | none => over_ (s1.loadContext p c)
      let s3 := s2.endTears p (fun t => t.held)
      let s4 := (s3.bump (PRT_CTX_CNT p) 31 0 1).event PRT_EVENT 1
      s4.endWith w.cmd stOk

/-! ### PART_QUERY (R483) -/

/-- PART_QUERY (Table 12-9). -/
def bodyPartQuery (c : Cmd) (s : State) : State :=
  s.shaped c 8 [(0, 8)] fun s =>
    let p := c.hdr.partition
    let a := (s.part p).assign
    s.reply c stOk [] (toLE 1 p ++ toLE 1 (s.partState p) ++ toLE 1 (if a.rt then 1 else 0) ++ toLE 1 (popCount 240 a.pch) ++
      toLE 2 a.base ++ toLE 1 (popCount 64 a.ways) ++ toLE 1 (popCount 48 a.lathes) ++ toLE 1 (popCount 64 a.walkers) ++
      zeros 3 ++ toLE 4 a.qpLimit ++ toLE 2 a.meterFirst ++ toLE 2 a.meterCount ++
      (List.range 4).flatMap (fun l => toLE 2 (let r := a.cxl.getD l (0, 0, 0); if r.1 == 0 then 0 else r.2.2)) ++ zeros 4 ++
      (List.range 16).flatMap (fun d => toLE 1 (s.ctxState p d)) ++ toLE 1 (s.part p).plans.length ++ zeros 15)

end Sys2Proof.Machine
end

