-- ==== Sys2Proof/Machine/Security.lean ====
section
/-! DEFINITION. The root of trust (spec/17): the protection configuration with its two-party procedure, ownership, seal and
presence, attestation and the measurement log. -/

namespace Sys2Proof.Machine

/-! ### What the SEC_ registers show -/

/-- The registers follow the protection configuration and the samples. -/
def State.showSec (s : State) : State :=
  let c := s.sec.cfg
  let b (x : Bool) (k : Nat) : Nat := if x then 2 ^ k else 0
  let slots := sumNat (c.keys.map (fun k => 2 ^ k.1))
  let own := !s.sec.loaded || !c.keys.isEmpty
  let pend := (s.sec.pending.map (fun x => x.slot)).getD 0
  let s1 := s.setRaw SEC_STATUS (BitVec.ofNat 64 (c.locked * 2 ^ 16 + slots * 2 ^ 12 + s.sec.debug * 2 ^ 10 +
    b s.sec.pending.isSome 9 + b s.sec.loaded 8 + pend * 2 ^ 6 + b c.sealRecord 3 + b (s.sealAt s.now) 2 +
    b (s.presAt s.now) 1 + b own 0))
  let s2 := (s1.setRaw SEC_EPOCH (BitVec.ofNat 64 c.epoch)).setRaw SEC_PENDING_END
    (BitVec.ofNat 64 ((s.sec.pending.map (fun x => x.t1 + 600_000_000_000)).getD 0))
  (List.range 4).foldl (fun s k =>
    match assoc c.keys k with
    | some key => s.setWords (SEC_SLOT k 0) (sha3 key)
    | none => s.setWords (SEC_SLOT k 0) (zeros 32)) s2

/-- Change the configuration, in both flash copies as well (R654, R656, R660). -/
def State.writeCfg (s : State) (c : ProtCfg) : State :=
  { s with sec := { s.sec with cfg := c, flash := [(c, true), (c, true)] } }

/-- Record a seal break in flash (R656); copies that do not verify go on not to (R661). -/
def State.recordBreak (s : State) : State :=
  { s with sec := { s.sec with
      cfg := { s.sec.cfg with sealRecord := true }
      flash := s.sec.flash.map (fun (f : ProtCfg × Bool) => ({ f.1 with sealRecord := true }, f.2)) } }

/-- A digest whose bytes the spec does not lay out: free (log entry 8). -/
def State.freeDigest (s : State) : List Byte := (List.range 32).map (Config.freeByte s.freeCtr)

/-! ### Ownership (R653, R654) -/

/-- OWNER_CLAIM (R654). -/
def bodyOwnerClaim (c : Cmd) (s : State) : State :=
  s.shaped c 2664 [(2656, 8)] fun s =>
    let k0 := slice c.input 0 1312
    let k1 := slice c.input 1312 1312
    if s.owned || !s.presAt c.intake then s.refuse c stNotPermitted
    else if k0 == k1 then s.refuse c stBadParameter
    else
      let cfg := { s.sec.cfg with keys := [(0, k0), (1, k1)], mgmtKey := slice c.input 2624 32, epoch := s.sec.cfg.epoch + 1 }
      let s1 := (s.writeCfg cfg).tick.measure 4 5 cfg.epoch s.freeDigest
      (s1.showSec.event SEC_EVENT 2).refuse c stOk

/-! ### Proposals (R657 to R660) -/

/-- The fields of a proposal (Table 17-4). -/
structure Prop4 where
  epoch   : Nat
  serial  : List Byte
  policy  : Nat
  debug   : Nat
  sealing : Nat
  slots   : Nat
  locked  : Nat
  rekey   : Nat
  minVer  : Nat
  mgmt    : List Byte
  keyed   : Nat
  keys    : List (Nat × List Byte)
  deriving DecidableEq, Repr, Inhabited

/-- Parse a proposal. -/
def parseProposal (bs : List Byte) : Prop4 :=
  let k := fieldAt bs 80 1
  { epoch := fieldAt bs 8 8, serial := slice bs 16 16, policy := fieldAt bs 32 1, debug := fieldAt bs 33 1,
    sealing := fieldAt bs 34 1, slots := fieldAt bs 35 1, locked := fieldAt bs 36 2, rekey := fieldAt bs 38 2,
    minVer := fieldAt bs 40 8, mgmt := slice bs 48 32, keyed := k,
    keys := (bitsOf 4 k).zipIdx.map (fun e => (e.1, slice bs (88 + 1312 * e.2) 1312)) }

/-- The owner keys that a proposal leaves. -/
def Prop4.after (q : Prop4) (c : ProtCfg) : List (Nat × List Byte) :=
  (bitsOf 4 q.slots).filterMap (fun k =>
    match assoc q.keys k with
    | some key => some (k, key)
    | none => (assoc c.keys k).map (fun key => (k, key)))

/-- A proposal is well-formed, names this module's next epoch and serial, and leaves no slot or at least two with different
keys (Table 17-5). -/
def Prop4.ok (q : Prop4) (bs : List Byte) (s : State) : Bool :=
  let keys := q.after s.sec.cfg
  88 ≤ bs.length && fieldAt bs 0 4 == 0x5050_4A4D && zerosAt bs 4 4 && zerosAt bs 81 7 && q.policy < 2 && q.debug < 3 && q.sealing < 4 &&
  q.slots < 16 && q.keyed < 16 && bs.length == 88 + 1312 * popCount 4 q.keyed &&
  q.epoch == s.sec.cfg.epoch + 1 && q.serial == s.sec.serial &&
  (q.slots == 0 || 2 ≤ popCount 4 q.slots) && within q.keyed q.slots && keys.length == popCount 4 q.slots &&
  keys.all (fun k => keys.all (fun j => k.1 == j.1 || k.2 != j.2))

/-- The proposal that is pending at a stamp (R658, R659). -/
def State.pendingAt (s : State) (t : Stamp) : Option Proposal :=
  let open_ (x : Proposal) : Bool := x.t1 ≤ t && t < x.t1 + 600_000_000_000
  match s.sec.pending, s.sec.lapsed with
  | some x, l => if open_ x then some x else l.filter open_
  | none, l => l.filter open_

/-- PROPOSAL_EXPIRY (R659): the window has ended without a cosign. -/
def proposalExpiryStep (s : State) : State :=
  match s.sec.pending with
  | some x =>
    if x.t1 + 600_000_000_000 ≤ s.now then
      (({ s with sec := { s.sec with pending := none, lapsed := some x } } : State).showSec).event SEC_EVENT 3
    else s
  | none => s

/-- PROTECT_PROPOSE (R658, Table 17-5). -/
def bodyProtectPropose (c : Cmd) (s0 : State) : State :=
  let s := proposalExpiryStep s0
  let n := fieldAt c.input 4 4
  let bs := slice c.input 8 n
  let slot := fieldAt c.input 0 1
  let q := parseProposal bs
  if 8 ≤ c.input.length && !zerosAt c.input 1 3 then s.refuse c stReservedNonzero
  else if !s.owned then s.refuse c stNotPermitted
  else if !s.presAt c.intake || !s.sealAt c.intake then s.refuse c stNotPermitted
  else
    match s.pendingAt c.intake with
    | some x => s.refuseHint c stBusy (ceilDiv (x.t1 + 600_000_000_000 - c.intake) 1000)
    | none =>
      if c.input.length != 8 + n + 2420 || !q.ok bs s then s.refuse c stBadParameter
      else
        match s.ownerKey slot with
        | none => s.refuse c stNotPermitted
        | some key =>
          if !Config.mldsaVerify key (sha3 bs) (slice c.input (8 + n) 2420) then s.sigReject.refuse c stNotPermitted
          else (({ s with sec := { s.sec with pending := some ⟨slot, bs, c.intake⟩ } } : State).showSec).refuse c stOk

/-- Tear down the UP partitions of a mask and give every partition of the mask fresh keys (R656, R660). -/
def State.rekeyParts (s : State) (m : Nat) : State :=
  (bitsOf 16 m).foldl (fun s p => (partitionTeardownStep .firmware p s).newKey p) s

/-- The partitions that are UP. -/
def State.upMask (s : State) : Nat := sumNat (((List.range 16).filter (fun p => s.partState p == 2)).map (fun p => 2 ^ p))

/-- A proposal is committed (R660): written to flash, measured, keys replaced; one that leaves no slot returns the module to
UNOWNED (R653). -/
def State.commit (s : State) (q : Prop4) : State :=
  let c := s.sec.cfg
  let gone : Bool := q.slots == 0
  let keepRecord : Bool := c.sealRecord && !q.sealing.testBit 1
  let cfg : ProtCfg :=
    if gone then { epoch := q.epoch, sealRecord := keepRecord }
    else
      { keys := q.after c, mgmtKey := if q.mgmt == zeros 32 then c.mgmtKey else q.mgmt, coSign := q.policy.testBit 0,
        zeroize := q.sealing.testBit 0, locked := q.locked, minVersion := q.minVer, epoch := q.epoch, sealRecord := keepRecord }
  let level := if gone then 0 else q.debug
  let s1 := (s.writeCfg cfg)
  let s2 := { s1 with sec := { s1.sec with pending := none, lapsed := none, debug := level } }
  let s3 := s2.tick.measure 2 3 cfg.epoch s2.freeDigest
  let s4 := if s.sec.debug < level then s3.tick.measure 2 7 cfg.epoch s3.freeDigest else s3
  let s5 := if gone then s4.tick.measure 4 8 cfg.epoch s4.freeDigest else s4
  let mask := if gone then s5.upMask ||| q.rekey else q.rekey
  ((s5.rekeyParts mask).showSec).event SEC_EVENT 2

/-- PROTECT_COSIGN (R659, Table 17-5). The command itself is not among those that the commit's teardowns end. -/
def bodyProtectCosign (c : Cmd) (s0 : State) : State :=
  let s := proposalExpiryStep s0
  s.shaped c 2460 [(1, 7)] fun s =>
    let slot := fieldAt c.input 0 1
    if !s.owned then s.refuse c stNotPermitted
    else if !s.presAt c.intake || !s.sealAt c.intake then s.refuse c stNotPermitted
    else
      match s.pendingAt c.intake with
      | none => s.refuse c stStaleHandle
      | some x =>
        let d := sha3 x.bytes
        if slice c.input 8 32 != d then s.refuse c stBadParameter
        else
          match s.ownerKey slot with
          | none => s.refuse c stNotPermitted
          | some key =>
            if slot == x.slot then s.refuse c stNotPermitted
            else if !Config.mldsaVerify key d (slice c.input 40 2420) then s.sigReject.refuse c stNotPermitted
            else ((s.dropCmd c.id).commit (parseProposal x.bytes)).refuse c stOk

/-! ### Presence and seal (R574, R655, R656) -/

/-- PRES_N_CHANGE: a debounced sample of PRES_N. -/
def presNChangeStep (asserted : Bool) (s : State) : State :=
  let was := s.presAt s.now
  let s1 := ({ s with sec := { s.sec with pres := (s.now, asserted) :: s.sec.pres } } : State).showSec
  if was == asserted then s1 else s1.event SEC_EVENT 0

/-- SEAL_BREAK (R656): a sample finds the loop broken while the seal was intact. -/
def sealBreakStep (s : State) : State :=
  if !s.sealAt s.now then s
  else
    let s1 := { s with sec := { s.sec with sealOk := (s.now, false) :: s.sec.sealOk, pending := none, lapsed := none, debug := 0 } }
    let s2 := s1.recordBreak.tick.measure 4 6 0 s1.freeDigest
    let s3 := s2.showSec.event SEC_EVENT 1
    if s3.sec.cfg.zeroize then s3.rekeyParts s3.upMask else s3

/-- SEAL_RESTORED (R655): a sample finds the loop intact. -/
def sealRestoredStep (s : State) : State :=
  if s.sealAt s.now then s
  else ({ s with sec := { s.sec with sealOk := (s.now, true) :: s.sec.sealOk } } : State).showSec

/-! ### Attestation (R647 to R649) -/

/-- MEASURE_LOG_READ (R648). -/
def bodyMeasureLogRead (c : Cmd) (s : State) : State :=
  s.shaped c 16 [(8, 8)] fun s =>
    let n := fieldAt c.input 4 4
    if n == 0 || 4096 < n then s.refuse c stBadParameter
    else
      let es := (s.sec.mlog.drop (fieldAt c.input 0 4)).take n
      s.replyData c stOk [] (toLE 4 s.sec.mlog.length ++ toLE 4 (s.fld SEC_LOG_CNT 63 32) ++ toLE 4 es.length ++ zeros 4 ++
        es.flatten)

/-- The body of an attestation report (Table 17-3). -/
def State.reportBody (s : State) (p : Nat) (nonce : List Byte) : List Byte :=
  let lost := s.fld SEC_LOG_CNT 63 32
  let flags := (if lost != 0 then 1 else 0) + (if s.owned then 2 else 0) + (if s.sec.cfg.sealRecord then 4 else 0) +
    (if s.sec.loaded then 8 else 0)
  toLE 4 0x5441_4A4D ++ toLE 2 0x0100 ++ toLE 2 flags ++ toLE 8 s.now ++ nonce ++ s.sec.serial ++ toLE 1 s.grade ++
    toLE 1 p ++ toLE 1 s.sec.debug ++ zeros 1 ++ toLE 4 (s.sec.mlog.length + lost) ++
    toLE 8 ((s.fw.running.map (fun i => i.version)).getD 0) ++ toLE 8 s.sec.cfg.epoch ++ toLE 8 (s.raw BOOT_READY).toNat ++
    (List.range 8).flatMap (fun r => s.words (SEC_MEAS r 0)) ++ zeros 32

/-- ATTEST_REPORT (R649): the signature of the identity key is uninterpreted (log entry 8). -/
def bodyAttestReport (c : Cmd) (s : State) : State :=
  s.shaped c 40 [(33, 7)] fun s =>
    if 1 < fieldAt c.input 32 1 then s.refuse c stReservedNonzero
    else
      let body := s.reportBody c.hdr.partition (slice c.input 0 32)
      let sign := (List.range 2420).map (Config.mldsaSignByte 0 (sha3 body))
      let certs := (List.range 3).flatMap (fun i => toLE 4 (Config.certificate i).length ++ Config.certificate i)
      let chain := if fieldAt c.input 32 1 == 1 then toLE 4 certs.length ++ certs else []
      s.reply c stOk [] (body ++ sign ++ chain)

end Sys2Proof.Machine
end

