-- ==== Sys2Proof/Machine/Network.lean ====
section
/-! DEFINITION. Ethernet attachment (spec/14): queue pairs with their transport, remote access to module memory, link and
port changes, the frames that a list answers itself, and the gradient collectives. -/

namespace Sys2Proof.Machine

/-! ### Queue-pair descriptors (R538, Table 14-4) -/

/-- A field of a descriptor, by byte offset and length. -/
def descField (d : List Reg) (off len : Nat) : Nat := fieldAt (d.flatMap (fun w => toLE 8 w.toNat)) off len

/-- A field of a queue pair's descriptor. -/
def Qp.field (q : Qp) (off len : Nat) : Nat := descField q.desc off len

/-- The list of a queue pair and its traffic class. -/
def Qp.list (q : Qp) : Nat := q.field 3 1
def Qp.cls (q : Qp) : Nat := q.field 4 1

/-- Largest payload of one of its packets. -/
def Qp.mtu (q : Qp) : Nat := 1024 * 2 ^ q.field 6 1

/-- The descriptor that NET_QP_DESC holds. -/
def State.qpDesc (s : State) : List Reg := (List.range 8).map (fun i => s.raw (NET_QP_DESC i))

/-- Every field of a descriptor lies in its range. -/
def descOk (d : List Reg) : Bool :=
  let f := descField d
  f 0 2 < 16384 && f 3 1 < 8 && f 4 1 < 8 && f 5 1 < 64 && f 6 1 < 3 && f 7 1 < 2 && f 8 2 < 4096 &&
  1 ≤ f 10 1 && f 10 1 ≤ 31 && f 11 1 / 8 % 2 == 0 && f 11 1 < 128 && 1 ≤ f 12 1 && f 12 1 ≤ 16 && 1 ≤ f 13 1 && f 13 1 ≤ 16 &&
  0xC000 ≤ f 14 2 && f 16 4 < 2 ^ 24 && f 20 4 < 2 ^ 24 && f 24 4 < 2 ^ 24 && f 54 8 == 0 && f 62 2 == 0

/-- Line rate of a list in Mb/s (Table 14-1): 400G for a half and for a degraded port, 800G otherwise. -/
def State.lineRate (s : State) (l : Nat) : Nat :=
  if s.bit (NET_PORT (l / 2)) 1 || s.fld (NET_PORT (l / 2)) 18 16 == 3 then 400000 else 800000

/-- Show the outcome of a NET_QP_CMD operation. -/
def State.qpResult (s : State) (op r : Nat) : State := (s.setFld NET_QP_CMD 2 0 op).setFld NET_QP_CMD 61 56 r

/-- QP_CREATE (R484, R538): the RESULT codes are those of NET_QP_CMD. -/
def qpCreateStep (s : State) : State :=
  let d := s.qpDesc
  let i := descField d 0 2
  let p := descField d 2 1 % 16
  let c := descField d 2 1 / 16
  let a := (s.part p).assign
  let m := descField d 8 2
  if (s.qp? i).isSome then s.qpResult 1 1
  else if a.qpLimit ≤ (s.qpsOf p).length && (s.partState p == 1 || s.partState p == 2) then s.qpResult 1 2
  else if !descOk d then s.qpResult 1 3
  else if s.partState p == 0 || s.partState p == 3 || s.ctxState p c == 0 then s.qpResult 1 4
  else if descField d 7 1 == 1 && !(a.meterFirst ≤ m && m < a.meterFirst + a.meterCount) then s.qpResult 1 5
  else
    let r := s.lineRate (descField d 3 1)
    let q : Qp := { index := i, partition := p, ctx := c, desc := d, rate := r, target := r, rateEnd := s.now }
    ({ s with qps := s.qps ++ [q] }).qpResult 1 0

/-- QP_READ_BACK (R538). -/
def qpReadBackStep (s : State) : State :=
  match s.qp? (descField s.qpDesc 0 2) with
  | none => s.qpResult 3 1
  | some q => (q.desc.zipIdx.foldl (fun s e => s.setRaw (NET_QP_DESC e.2) e.1) s).qpResult 3 0

/-! ### Collectives (R561 to R564) -/

/-- The content of a collective's buffer. -/
def State.collData (s : State) (c : Coll) : List Byte :=
  if c.tiles.isEmpty then s.bytes c.addr c.len
  else c.tiles.flatMap (fun id => ((s.obj? c.part id).bind (fun o => (s.objContent c.part o).1)).getD (zeros 262144))

/-- Write bytes at an offset of a collective's buffer, in place. -/
def State.collWrite (s : State) (c : Coll) (off : Nat) (bs : List Byte) : State :=
  if c.tiles.isEmpty then s.store (c.addr + off) bs
  else
    let all := s.collData c
    let new := all.take off ++ bs ++ all.drop (off + bs.length)
    c.tiles.zipIdx.foldl (fun s e =>
      let x := slice new (262144 * e.2) 262144
      if x == slice all (262144 * e.2) 262144 then s else (s.putContent c.part e.1 x).getD s) s

/-- Part of a collective's buffer that the command reads is uncorrectable: the state after the read is reported. -/
def State.collBad (s : State) (c : Coll) (pl : Nat × Nat) : Option State :=
  if pl.2 == 0 then none
  else if c.tiles.isEmpty then
    if s.isUe (c.addr + pl.1) pl.2 then some (s.noteRead 0 c.part [(c.addr + pl.1, pl.2)]) else none
  else
    let ids := (c.tiles.zipIdx.filter (fun e => 262144 * e.2 < pl.1 + pl.2 && pl.1 < 262144 * (e.2 + 1))).map (fun e => e.1)
    match (ids.filterMap (s.obj? c.part)).find? (fun o => (s.objContent c.part o).1.isNone) with
    | some o => some (s.objContent c.part o).2
    | none => none

/-- The place of a chunk in the buffer: offset and length (R562). -/
def Coll.place (c : Coll) (k : Nat) : Nat × Nat := (min (k * c.chunk) c.len, min c.chunk (c.len - k * c.chunk))

/-- The chunks that rank r sends and receives in a hop. -/
def Coll.sends (c : Coll) (j : Nat) : Nat := (c.rank + 2 * c.size - j - 1) % c.size
def Coll.takes (c : Coll) (j : Nat) : Nat := (c.rank + 2 * c.size - j - 2) % c.size

/-- Hops of the operation. -/
def Coll.hops (c : Coll) : Nat := if c.op == 0 then 2 * (c.size - 1) else c.size - 1

/-- The buffer's contents are undefined, but for one chunk where one is named: free values. -/
def State.collUndefined (s : State) (c : Coll) (keep : Option Nat) : State :=
  let n := s.freeCtr
  (List.range c.size).foldl (fun s k =>
    let pl := c.place k
    if keep == some k then s
    else s.collWrite c pl.1 ((List.range pl.2).map (fun i => Config.freeByte n (pl.1 + i)))) s.tick

/-- A collective ends with a status before it is complete (R564). -/
def State.collFail (s : State) (c : Coll) (status : Nat) : State :=
  let s1 := ({ s with colls := s.colls.filter (fun x => x.cmd != c.cmd) }).collUndefined c none
  s1.endCmd c.cmd status

/-- Change a collective. -/
def State.setColl (s : State) (cmd : Nat) (f : Coll → Coll) : State :=
  { s with colls := updateWhere s.colls (fun c => c.cmd == cmd) f }

/-- The collective area of a partition. -/
def State.collArea (s : State) (p : Nat) : Nat := (s.area (NET_COLL_AREA p)).1

/-- A collective that reads uncorrectable data ends with that status (Table 2-6), its results as far as they are written. -/
def State.collStop (s : State) (cmd : Nat) : State :=
  ({ s with colls := s.colls.filter (fun x => x.cmd != cmd) }).endCmd cmd stUncorrectableData

/-- Send every hop that may be sent: its data stands in the buffer, and the right neighbour has taken hop j − 2 (R563). -/
def State.collSend (s : State) (cmd : Nat) : Nat → State
  | 0 => s
  | fuel + 1 =>
    match s.colls.find? (fun c => c.cmd == cmd) with
    | none => s
    | some c =>
      let j := c.sent
      if c.hops ≤ j || c.recv < j || s.num (s.collArea c.part + 8) 8 + 1 < j then s
      else match s.collBad c (c.place (c.sends j)) with
      | some s1 => s1.collStop cmd
      | none =>
        let pl := c.place (c.sends j)
        let base := Config.peerArea c.right
        let key := Config.peerKey c.right
        let s1 := (s.emit (.rdmaWrite c.right (base + 4096 + j % 2 * c.chunk) key (slice (s.collData c) pl.1 pl.2))).emit
          (.rdmaWrite c.right base key (toLE 8 (j + 1)))
        State.collSend (s1.setColl cmd (fun c => { c with sent := j + 1 })) cmd fuel

/-- Take one hop whose counter has arrived: add or store the chunk, tell the left neighbour. -/
def State.collTake (s : State) (c : Coll) : State :=
  let a := s.collArea c.part
  let j := c.recv
  let pl := c.place (c.takes j)
  match s.collBad c (if j + 1 < c.size then pl else (0, 0)) with
  | some s1 => s1.collStop c.cmd
  | none =>
  let got := s.bytes (a + 4096 + j % 2 * c.chunk) pl.2
  let own := slice (s.collData c) pl.1 pl.2
  let new := if j + 1 < c.size then segPack c.fmt ((segValues c.fmt got).zipWith fAdd (segValues c.fmt own)) else got
  let s1 := (s.collWrite c pl.1 new).emit
    (.rdmaWrite c.left (Config.peerArea c.left + 8) (Config.peerKey c.left) (toLE 8 (j + 1)))
  s1.setColl c.cmd (fun c => { c with recv := j + 1 })

/-- A collective that has taken its last hop replies; a reduce-scatter leaves the other chunks undefined. The counters are
cleared for the next (log entry 35). -/
def State.collEnd (s : State) (cmd : Nat) : State :=
  match s.colls.find? (fun c => c.cmd == cmd) with
  | none => s
  | some c =>
    if c.recv < c.hops || c.sent < c.hops then s
    else
      let s1 := { s with colls := s.colls.filter (fun x => x.cmd != cmd) }
      let s2 := if c.op == 1 then s1.collUndefined c (some c.rank) else s1
      let s3 := s2.zeroRange (s2.collArea c.part) 16
      match s3.cmd? cmd with
      | some k => s3.refuse k stOk
      | none => s3

/-- ALLREDUCE_HOP (R562, R563): the neighbours' counters are looked at; a hop that has arrived is taken, and what may be sent
next is sent. -/
def allreduceHopStep (cmd : Nat) (s : State) : State :=
  match s.colls.find? (fun c => c.cmd == cmd) with
  | none => s
  | some c =>
    let s1 := if c.recv < c.hops && c.recv < s.num (s.collArea c.part) 8 then s.collTake c else s
    (s1.collSend cmd 2).collEnd cmd

/-- GRAD_ALLREDUCE (R561, R563, R564). -/
def bodyGradAllreduce (c : Cmd) (s : State) : State :=
  s.shaped c 32 [(3, 1)] fun s =>
    let p := c.hdr.partition
    let f := fieldAt c.input
    let byModel := f 2 1 == 1
    let qpOk (i : Nat) : Bool := match s.qp? i with
      | some q => q.partition == p
      | none => false
    let n := f 4 2
    if f 2 1 / 2 != 0 || (byModel && f 20 4 != 0) then s.refuse c stReservedNonzero
    else if 1 < f 0 1 || !([4, 7].contains (f 1 1)) || (byModel && (f 1 1 != 7 || f 24 8 != 0)) || n < 2 || 4096 < n || n ≤ f 6 2 ||
        !qpOk (f 8 4) || !qpOk (f 12 4) || (f 8 4 == f 12 4 && n != 2) || f 24 8 % 256 != 0 then s.refuse c stBadParameter
    else
      let m? := s.model? p (f 16 2) (f 18 2)
      let tiles := if byModel then (m?.map (fun m => sortBy (fun (a b : Nat) => decide (a < b)) (dedupBy (fun (x : Nat) => x)
        ((m.masters.map (m.stateTile 1)))))).getD [] else []
      if byModel && (m?.isNone || tiles.any (fun id => (s.obj? p id).isNone)) then s.refuse c stUnknownObject
      else if byModel && tiles.isEmpty then s.refuse c stBadParameter
      else if !byModel && !s.owns p (f 16 8) (max (f 24 8) 1) then s.refuse c stBadAddress
      else if !byModel && s.hitsDir p (f 16 8) (f 24 8) then s.refuse c stNotPermitted
      else
        let len := if byModel then 262144 * tiles.length else f 24 8
        let k : Coll :=
          { cmd := c.id, part := p, op := f 0 1, fmt := f 1 1, size := n, rank := f 6 2, left := f 8 4, right := f 12 4,
            addr := f 16 8, tiles := tiles, len := len, chunk := roundUp (ceilDiv len n) 256 }
        if (s.area (NET_COLL_AREA p)).2 < 4096 + 2 * k.chunk then s.refuse c stNoMemory
        else if !s.qpLive k.left || !s.qpLive k.right then s.refuse c stInternalError
        else ({ s with colls := s.colls ++ [k] }).collSend c.id 2

/-! ### Loss of a queue pair (R90, R62, R539) -/

/-- The work of a command is dropped and it leaves the outstanding set without a reply. -/
def State.forget (s : State) (id : Nat) : State :=
  ((s.dropWork id).dropSearches id).dropCmd id

/-- A queue pair enters the error state (R90): its session ends, its sequences are cancelled, its telemetry streams stop,
commands that have not started end without a reply, and requests that the module sent on it are unanswerable (Table 5-13). -/
def State.qpLoss (s : State) (i : Nat) : State :=
  if !s.qpLive i then s
  else
    let s1 := (s.setQp i (fun q => { q with
      error := true, session := none, assembly := none, discard := none, rnrUntil := none, orphans := [] })).event NET_EVENT 13
    let s1 := { s1 with egress := s1.egress.filter (fun f => f.qp != i) }
    let idle := (s1.cmds.filter (fun c => c.hdr.qp == i && c.phase != .started)).map (fun c => c.id)
    let s2 := idle.foldl (fun s id => s.forget id) s1
    let s3 := ((s2.seqs.filter (fun q => q.stream.hdr.qp == i)).map (fun q => q.idx)).foldl (fun s k => s.endNow k stCancelled) s2
    let gone := s3.telems.filter (fun t => t.stream.hdr.qp == i)
    let s4 := gone.foldl (fun s t => s.dropCmd t.cmd) { s3 with telems := s3.telems.filter (fun t => t.stream.hdr.qp != i) }
    let s5 := (s4.colls.filter (fun c => c.left == i || c.right == i)).foldl (fun s c => s.collFail c stInternalError) s4
    let lost := s5.issued.filter (fun x => x.qp == i)
    lost.foldl (fun s x =>
      if x.opcode == 0x0201 then s.shardUnusable x.cmd x.entry (some x.tag) else s.fetchArrived x.cmd x.entry stHwFault [])
      { s5 with issued := s5.issued.filter (fun x => x.qp != i) }

/-- A queue pair that is destroyed counts as in the error state in every shard map that names it, whatever its index names later
(R230): the maps name a number that no queue pair has. -/
def State.forgetQp (s : State) (i : Nat) : State :=
  let gone (e : ShardEntry) : ShardEntry := { e with replicas := e.replicas.map (fun r => if r == i then 0xFFFF_FFFD else r) }
  { s with
    maps := s.maps.map (fun m => { m with entries := m.entries.map gone })
    coords := s.coords.map (fun q => { q with runs := q.runs.map (fun r => { r with entry := gone r.entry }) }) }

/-- QP_DESTROY (R539): the queue pair errors and its index is free; commands that still run have nowhere to reply to. -/
def qpDestroyStep (s : State) : State :=
  let i := descField s.qpDesc 0 2
  match s.qp? i with
  | none => s.qpResult 2 1
  | some _ =>
    let s1 := (s.qpLoss i).forgetQp i
    let s2 := { s1 with
      qps := s1.qps.filter (fun q => q.index != i)
      cmds := s1.cmds.map (fun (c : Cmd) => if c.hdr.qp == i then { c with hdr := { c.hdr with qp := 0x10_0000 } } else c) }
    s2.qpResult 2 0

/-- ROCE_NAK_RECEIVE (R62): the queue pair enters the error state. -/
def roceNakReceiveStep (qp : Nat) (_k : NakKind) (s : State) : State := s.qpLoss qp

/-- LOCAL_ACK_TIMEOUT (R539): the requester retransmits, or errors after retry count + 1 timeouts without progress. -/
def localAckTimeoutStep (qp : Nat) (s : State) : State :=
  match s.qp? qp with
  | none => s
  | some q =>
    if q.error then s
    else if q.field 11 1 % 8 ≤ q.retries then s.qpLoss qp
    else (s.setQp qp (fun q => { q with retries := q.retries + 1 })).emit (.retransmit qp)

/-- RNR_NAK_RECEIVE (R537): the requester waits for the NAK's timer, up to the RNR retry count; 7 is without limit. -/
def rnrNakReceiveStep (qp timer : Nat) (s : State) : State :=
  match s.qp? qp with
  | none => s
  | some q =>
    let limit := q.field 11 1 / 16 % 8
    if q.error then s
    else if limit != 7 && limit ≤ q.rnrTries then s.qpLoss qp
    else s.setQp qp (fun q => { q with rnrTries := q.rnrTries + 1, rnrUntil := some (s.now + timer) })

/-- RNR_TIMER_EXPIRY (R537). -/
def rnrTimerExpiryStep (qp : Nat) (s : State) : State :=
  match (s.qp? qp).bind (fun q => q.rnrUntil) with
  | none => s
  | some t => if t ≤ s.now then (s.setQp qp (fun q => { q with rnrUntil := none })).emit (.retransmit qp) else s

/-! ### Remote access to module memory (R540, R567, R670) -/

/-- MEM_WRITE or MEM_READ from a queue pair of the partition and context would be accepted at [a, a + n). -/
def State.memOpen (s : State) (p c a n : Nat) : Bool :=
  s.owns p a n && !s.guarded p a n (s.hotAreas p) && (s.cxlMissing a n).isNone && s.partState p == 2 &&
    s.ctxState p c == 1 && s.ready rdyIntake && s.ready rdyHbm && s.ready rdyChuck

/-- A write that R563 makes into a collective area: a counter, or chunk data. -/
def State.collOpen (s : State) (p a n : Nat) : Bool :=
  let ar := s.area (NET_COLL_AREA p)
  ar.1 ≤ a && a + n ≤ ar.1 + ar.2 && ((a == ar.1 && n == 8) || (a == ar.1 + 8 && n == 8) || ar.1 + 4096 ≤ a) && s.partState p == 2

/-- The key of an access opens the module's memory. -/
def Qp.opens (q : Qp) (rkey : Nat) : Bool := q.field 28 4 != 0 && q.field 28 4 == rkey

/-- A NAK of the responder, after which the queue pair is in the error state. -/
def State.nak (s : State) (qp : Nat) (k : NakKind) : State := (s.emit (.nak qp k)).qpLoss qp

/-- RDMA_WRITE_RECEIVE (R540). -/
def rdmaWriteReceiveStep (qp rkey addr : Nat) (data : List Byte) (s : State) : State :=
  match s.qp? qp with
  | none => s
  | some q =>
    if q.error then s
    else if q.opens rkey && (s.memOpen q.partition q.ctx addr data.length || s.collOpen q.partition addr data.length) then
      (s.store addr data).emit (.ack qp)
    else s.nak qp .remoteAccess

/-- RDMA_READ_RECEIVE (R540). Data that reads uncorrectable is answered with a remote operational error (log entry 36). -/
def rdmaReadReceiveStep (qp rkey addr len : Nat) (s : State) : State :=
  match s.qp? qp with
  | none => s
  | some q =>
    if q.error then s
    else if q.opens rkey && s.memOpen q.partition q.ctx addr len then
      if s.isUe addr len then (s.dramUe addr).nak qp .remoteOperational
      else (s.readCe addr len).emit (.readResponse qp (s.bytes addr len))
    else s.nak qp .remoteAccess

/-! ### Sending rates (R542) -/

/-- g = 2^-G_SHIFT. -/
def State.ccGain (s : State) : Rat := 1 / (2 : Rat) ^ s.fld NET_CC_CFG 3 0

/-- The end of one window without a CNP. -/
def State.rateUp (s : State) (q : Qp) : Qp :=
  let line : Rat := s.lineRate q.list
  let t := if 5 ≤ q.incs then min line (q.target + s.fld NET_CC_CFG 31 16) else q.target
  { q with alpha := (1 - s.ccGain) * q.alpha, target := t, rate := (q.rate + t) / 2, incs := q.incs + 1 }

/-- `n` windows without a CNP end. -/
def State.rateUps (s : State) : Nat → Qp → Qp
  | 0, q => q
  | n + 1, q => s.rateUps n (s.rateUp q)

/-- Every window that has ended by now is dealt with; the first of them may have held a CNP. -/
def State.rateWindows (s : State) (q : Qp) : Qp :=
  let w := max 1 (s.fld NET_CC_CFG 47 32) * 1000
  let n := s.now / w - q.rateEnd / w
  if n == 0 then q
  else { s.rateUps (if q.cnpSeen then n - 1 else n) q with rateEnd := s.now, cnpSeen := false }

/-- RATE_INCREASE_WINDOW. -/
def rateIncreaseWindowStep (qp : Nat) (s : State) : State := s.setQp qp (fun q => s.rateWindows q)

/-- CNP_RECEIVE: windows that have ended come first. -/
def cnpReceiveStep (qp : Nat) (s : State) : State :=
  s.setQp qp (fun q0 =>
    let q := s.rateWindows q0
    { q with
      target := q.rate, rate := max (s.fld NET_CC_CFG 15 4 : Rat) (q.rate * (1 - q.alpha / 2))
      alpha := (1 - s.ccGain) * q.alpha + s.ccGain, incs := 0, cnpSeen := true, rateEnd := s.now })

/-! ### Links and ports (R530 to R532, R566) -/

/-- The bit of a list in LINK_UP of its port. -/
def linkBit (l : Nat) : Nat := if l == 8 then 20 else 20 + l % 2

/-- The readiness bit of a list. -/
def rdyOf (l : Nat) : Nat := if l == 8 then rdyMgmt else rdyList l

/-- A list has link. -/
def State.linkUp (s : State) (l : Nat) : Bool := s.bit (NET_PORT (l / 2)) (linkBit l)

/-- A list loses its link. -/
def State.linkDown (s : State) (l : Nat) : State :=
  if !s.linkUp l then s
  else
    let s1 := (s.setFld (NET_PORT (l / 2)) (linkBit l) (linkBit l) 0).event NET_EVENT l
    let s2 := if s1.fld (NET_PORT (l / 2)) 21 20 == 0 then s1.setFld (NET_PORT (l / 2)) 18 16 0 else s1
    let s3 := s2.setReady (rdyOf l) false
    if l == 8 then { s3 with mgmt10 := false, mgmtDown := s3.now } else s3

/-- The lists of a port. -/
def portLists (n : Nat) : List Nat := if n == 4 then [8] else [2 * n, 2 * n + 1]

/-- RATE of NET_PORT for a link rate. -/
def rateCode (r : LinkRate) : Nat :=
  match r with
  | .down => 0
  | .g800 => 1
  | .g400half => 2
  | .g400degraded => 3
  | .g25 => 4
  | .g10 => 5

/-- A group of four lanes of a port, 0 for lanes 0 to 3, holds no faulty lane (R532). -/
def State.groupClean (s : State) (port g : Nat) : Bool := s.fld port (4 * g + 11) (4 * g + 8) == 0

/-- A list may come up at a rate: its port is enabled and runs in that mode (Table 14-1), on lanes that hold no fault (R532). -/
def State.rateFits (s : State) (l : Nat) (r : LinkRate) : Bool :=
  let port := NET_PORT (l / 2)
  let half := s.bit port 1
  s.bit port 0 && (match r with
    | .down => true
    | .g800 => l < 8 && l % 2 == 0 && !half && s.fld port 15 8 == 0 && s.bit NET_CTRL 0
    | .g400half => l < 8 && half && s.groupClean port (l % 2) && s.bit NET_CTRL 0
    | .g400degraded => l < 8 && l % 2 == 0 && !half && s.fld port 15 8 != 0 && (s.groupClean port 0 || s.groupClean port 1) &&
        s.bit NET_CTRL 0
    | .g25 => l == 8 && !s.mgmt10 && s.bit NET_CTRL 1
    | .g10 => l == 8 && s.mgmt10 && s.bit NET_CTRL 1)

/-- LINK_CHANGE (R566): a list's link goes up or down. -/
def linkChangeStep (l : Nat) (rate : LinkRate) (s : State) : State :=
  if rate == .down then s.linkDown l
  else if s.linkUp l || !s.rateFits l rate then s
  else
    let port := NET_PORT (l / 2)
    (((s.setFld port (linkBit l) (linkBit l) 1).setFld port 18 16 (rateCode rate)).event NET_EVENT l).setReady (rdyOf l) true

/-- MGMT_LINK_FALLBACK (R530): without 25G link in 2 s the management port falls back to 10GBASE-R. -/
def mgmtLinkFallbackStep (s : State) : State :=
  if s.linkUp 8 || !s.bit NET_CTRL 1 || s.now < s.mgmtDown + 2_000_000_000 then s else { s with mgmt10 := true }

/-- BREAKOUT_CHANGE (R531): BREAKOUT changes only while no queue pair is bound to a list of the port; a change restarts its
link. -/
def breakoutChangeStep (port : Nat) (v : Reg) (s : State) : State :=
  if 4 ≤ port || v.getLsbD 1 == s.bit (NET_PORT port) 1 || s.qps.any (fun q => q.list / 2 == port) then s
  else ((portLists port).foldl (fun s l => s.linkDown l) s).setFld (NET_PORT port) 1 1 (if v.getLsbD 1 then 1 else 0)

/-- A lane of a data port is permanently faulty (R532): an unbroken port restarts degraded on the group without a faulty lane;
otherwise the lists concerned stay down. -/
def State.laneFault (s : State) (port lane : Nat) : State :=
  let s1 := (s.setFld (NET_PORT port) (8 + lane) (8 + lane) 1).event NET_EVENT (9 + port)
  if s1.bit (NET_PORT port) 1 then s1.linkDown (2 * port + lane / 4) else (s1.linkDown (2 * port)).linkDown (2 * port + 1)

/-! ### Frames that a list answers itself (R533) -/

/-- The IP address of a list, 16 bytes in network order, and its MAC address. -/
def State.listIp (s : State) (l : Nat) : List Byte :=
  (toLE 8 (s.raw (NET_PORT_ADDR l 0)).toNat).reverse ++ (toLE 8 (s.raw (NET_PORT_ADDR l 1)).toNat).reverse
def State.listMac (s : State) (l : Nat) : List Byte := (toLE 6 (s.fld (NET_PORT_ADDR l 2) 47 0)).reverse

/-- FRAME_DISCARD: any other received frame. -/
def frameDiscardStep (l _len : Nat) (s : State) : State := s.bump (NET_LIST_CNT l) 31 0 1

/-- A query for the list's own address is answered; one for another address is discarded. -/
def State.answer (s : State) (l : Nat) (q : NetQuery) (own data : List Byte) : State :=
  if !s.linkUp l then s else if q.target == own then s.emit (.netAnswer l q.source data) else s.bump (NET_LIST_CNT l) 31 0 1

/-- ARP_REQUEST: the address asked for is an IPv4 address. -/
def arpRequestStep (l : Nat) (q : NetQuery) (s : State) : State := s.answer l q ((s.listIp l).drop 12) (s.listMac l)

/-- NEIGHBOUR_SOLICITATION. -/
def neighbourSolicitationStep (l : Nat) (q : NetQuery) (s : State) : State := s.answer l q (s.listIp l) (s.listMac l)

/-- ICMP_ECHO_REQUEST: the data comes back. -/
def icmpEchoRequestStep (l : Nat) (q : NetQuery) (s : State) : State :=
  s.answer l q (if q.target.length == 4 then (s.listIp l).drop 12 else s.listIp l) q.data

end Sys2Proof.Machine
end

