-- ==== Sys2Proof/Machine/Firmware.lean ====
section
/-! DEFINITION. The Wadin firmware (spec/13): mailboxes, images and their activation, core crashes and restarts, the record
of permanent decisions, the log ring and its readers. -/

namespace Sys2Proof.Machine

/-! ### Records of permanent decisions (R610, R640) -/

/-- Change the classifier and the spares. -/
def State.setFaults (s : State) (f : Faults → Faults) : State := { s with faults := f s.faults }

/-- Change module flash. -/
def State.setFlash (s : State) (f : Flash → Flash) : State := { s with flash := f s.flash }

/-- A resource is in the fault table. -/
def State.isPermanent (s : State) (k i d : Nat) : Bool := s.flash.faults.contains (k, i, d)

/-- Record a permanent decision: fault table, counter, event, the log that BOOT_FAULT_LOG presents, and the log ring. A full log of
64 entries drops the entry, as that of R186 does. -/
def State.recordPermanent (s : State) (kind inst detail cls action : Nat) : State :=
  let s1 := ((s.setFlash (fun f => { f with faults := f.faults ++ [(kind, inst, detail)] })).bump BOOT_FAULT_CNT 31 0 1).event
    BOOT_EVENT 3
  let e : Reg := BitVec.ofNat 64 (2 ^ 63 + cls * 2 ^ 60 + kind * 2 ^ 52 + inst % 2 ^ 24 * 2 ^ 28 + detail % 2 ^ 24 * 2 ^ 4 + action)
  let s2 := if s1.faults.log.length < 64 then s1.setFaults (fun f => { f with log := f.log ++ [e] }) else s1
  s2.logFree (s2.writerOf 3) 255 1

/-! ### Cores and clusters (R487, R510, R515, R516) -/

/-- A physical core. -/
def State.core (s : State) (c : Nat) : Core := s.fw.cores.getD c {}

/-- Change a physical core. -/
def State.setCore (s : State) (c : Nat) (f : Core → Core) : State :=
  { s with fw := { s.fw with cores := modifyAt s.fw.cores c f } }

/-- The crashes inside the widest-counting open window of a core (R516): for each crash whose ten minutes are not over,
the crashes from it on. -/
def windowCount (now : Stamp) (crashes : List Stamp) : Nat :=
  maxNat ((crashes.filter (fun w => now < w + 600_000_000_000)).map (fun w =>
    (crashes.filter (fun x => w ≤ x && x < w + 600_000_000_000)).length))

/-- The word of WDN_CORE. -/
def State.coreWord (s : State) (c : Nat) : Nat :=
  let k := s.core c
  k.logical * 2 ^ 32 + (if k.state == 0 then 0 else c / 5) * 2 ^ 24 + k.state * 2 ^ 16 + k.cause * 2 ^ 8 +
    min 2 (windowCount s.now k.crashes)

/-- Every running core of the role of cluster `k` (Table 13-1). -/
def State.roleCores (s : State) (k : Nat) : List Nat :=
  (List.range 20).filter (fun c => (s.core c).state == 1 && (s.core c).logical != 255 && (s.core c).logical / 4 == k)

/-- Payload memory of a cluster: the 8 MiB of its shared memory (R489). -/
def clusterMemory : Nat := 8 * 2 ^ 20

/-- What the journal of cluster `k` holds of commands that have had no reply: records of others may be written over (R513). -/
def State.heldBy (s : State) (k : Nat) : List Journaled := s.fw.journal.filter (fun j => j.cluster == k && !j.replied)

/-- Journal records in use in cluster `k` (R514). -/
def State.journalUsed (s : State) (k : Nat) : Nat := sumNat ((s.heldBy k).map (fun j => j.records))

/-- Payload bytes held in cluster `k`. -/
def State.payloadUsed (s : State) (k : Nat) : Nat := sumNat ((s.heldBy k).map (fun j => j.payload.length))

/-- The journal and the payload memory of cluster `k` can hold one more command of `n` input bytes (R514). -/
def State.journalRoom (s : State) (k n : Nat) : Bool :=
  s.journalUsed k + 3 ≤ 32768 && s.payloadUsed k + n ≤ clusterMemory

/-- The sources that a crashed core holds in service become pending again (R515). -/
def State.unservice (s : State) (logical : Nat) : State :=
  let held := (s.icu.service.filter (fun e => e.2 == logical)).map (fun e => e.1)
  let s1 := held.foldl (fun s n => (s.setFld (ICU_SRC n) 9 9 0).setFld (ICU_SRC n) 8 8 1) s
  { s1 with icu := { s1.icu with service := s1.icu.service.filter (fun e => e.2 != logical) } }

/-- The spare that takes a retired core's role: one of its own cluster, failing that one of another (R516), lowest
physical number first. -/
def State.spareCore (s : State) (c : Nat) : Option Nat :=
  let spares := (List.range 20).filter (fun k => (s.core k).state == 4)
  match minNat? (spares.filter (fun k => k / 5 == c / 5)) with
  | some k => some k
  | none => minNat? spares

/-- The running core of lowest logical number in the cluster of a logical number. -/
def State.roleHeir (s : State) (l : Nat) : Option Nat :=
  let cs := s.roleCores (l / 4)
  (minNat? (cs.map (fun c => (s.core c).logical))).bind (fun m => cs.find? (fun c => (s.core c).logical == m))

/-- One control-core spare fewer (Table 16-3). -/
def State.coreSpareUsed (s : State) : State :=
  let n := s.fld BOOT_GRADE 31 24 - 1
  let s1 := s.setFld BOOT_GRADE 31 24 n
  if n == 0 then s1.event BOOT_EVENT 4 else s1

/-- A core leaves service for good; a spare takes its logical number and its commands, and restarts (R516). With no spare left, the
active core of lowest logical number in the cluster takes the role, and replays what the retired core held. A spare that leaves has no
role to hand on. -/
def State.retireCore (s : State) (c : Nat) : State :=
  let l := (s.core c).logical
  let s1 := s.setCore c (fun k => { k with state := 3, logical := 255 })
  let s2 := if l == 255 then (if (s.core c).state == 4 then s1.coreSpareUsed else s1) else match s1.spareCore c with
    | some k =>
      let s2 := s1.setCore k (fun x => { x with state := 2, logical := l })
      ({ s2 with fw := { s2.fw with
          journal := s2.fw.journal.map (fun (j : Journaled) => if j.core == c then { j with core := k } else j) } } : State).coreSpareUsed
    | none =>
      match s1.roleHeir l with
      | none => s1
      | some h =>
        let held := s1.fw.journal.filter (fun (j : Journaled) => j.core == c && !j.replied)
        { s1 with fw := { s1.fw with
            journal := s1.fw.journal.map (fun (j : Journaled) => if j.core == c then { j with core := h } else j) } }.bump
          WDN_CRASH_CNT 63 32 held.length
  let s3 := s2.event WDN_EVENT 1
  s3.logFree (s3.writerOf 0) 255 2

/-- A core becomes permanent: the decision is recorded and the core is retired (Table 16-2). -/
def State.retireAs (s : State) (c cls : Nat) : State :=
  (s.recordPermanent 10 c 0 cls (if (s.core c).logical == 255 then 0 else if (s.spareCore c).isSome then 1 else 3)).retireCore c

/-- A core crashes (R510): it is held in reset for its restart, its sources become pending again (R515), and a third
crash inside an open window retires it (R516). `stamp` is the crash stamp of Table 13-8. -/
def State.crash (s : State) (c cause : Nat) (stamp : Stamp) : State :=
  let k := s.core c
  let crashes := k.crashes ++ [stamp]
  let s1 := (s.setCore c (fun k => { k with state := 2, cause := cause, crashes := crashes })).unservice k.logical
  let s2 := (s1.bump WDN_CRASH_CNT 31 0 1).event WDN_EVENT 0
  let s3 := { s2 with fw := { s2.fw with runSince := s2.fw.runSince.map (fun _ => s2.now) } }
  if 3 ≤ windowCount stamp crashes then s3.retireAs c 4 else s3

/-- WATCHDOG_EXPIRY (R510): 50 ms after the core's last kick. -/
def watchdogExpiryStep (c : Nat) (s : State) : State :=
  let k := s.core c
  if k.state == 1 && k.lastKick + 50_000_000 ≤ s.now then s.crash c 1 (k.lastKick + 50_000_000) else s

/-- CORE_EXCEPTION (R510, Table 13-8). -/
def coreExceptionStep (c : Nat) (cause : CrashCause) (s : State) : State :=
  let code := match cause with
    | .busError => 2
    | .illegalOrNested => 3
    | .memoryError => 4
  if (s.core c).state == 1 then s.crash c code s.now else s

/-- WATCHDOG_KICK (R510). -/
def watchdogKickStep (c : Nat) (s : State) : State :=
  if (s.core c).state == 1 then s.setCore c (fun k => { k with lastKick := s.now }) else s

/-! ### Mailboxes (R490 to R496) -/

/-- MB_HELLO (R490 to R492). -/
def bodyMbHello (c : Cmd) (s : State) : State :=
  s.shaped c 32 [(4, 4), (24, 8)] fun s =>
    let lo := fieldAt c.input 0 1 * 256 + fieldAt c.input 1 1
    let hi := fieldAt c.input 2 1 * 256 + fieldAt c.input 3 1
    let img := s.fw.running.getD {}
    let v := min hi img.mbHi
    if v < max lo img.mbLo then s.refuse c stBadVersion
    else
      let agreed := (BitVec.ofNat 128 (fieldAt c.input 8 16) &&& img.feats &&& 0x3FFFF#128) ||| 1#128
      let data := toLE 1 (v / 256) ++ toLE 1 v ++ zeros 6 ++ toLE 16 agreed.toNat ++ toLE 8 img.version
      (s.setQp c.hdr.qp (fun q => { q with
        feats := agreed, featsOld := q.agreed s.now, helloAt := some s.now, mbVer := v, mbLo := lo, mbHi := hi })).reply c stOk [] data

/-- The reply to a mailbox message: the header of R494 and the body. -/
def State.mbReply (s : State) (c : Cmd) (body : List Byte) : State :=
  s.reply c stOk [] (c.input.take 4 ++ toLE 4 body.length ++ zeros 8 ++ body)

/-- FW_INFO (Table 13-4). -/
def mbFwInfo (c : Cmd) (s : State) : State :=
  let ver (i : Option FwImage) : List Byte := toLE 8 ((i.map (fun i => i.version)).getD 0)
  let img := s.fw.running.getD {}
  let act := ((List.range 20).filter (fun k => (s.core k).logical != 255)).length
  let spare := ((List.range 20).filter (fun k => (s.core k).state == 4)).length
  s.mbReply c (ver s.fw.running ++ ver s.fw.staged ++ ver s.lkg ++ toLE 1 s.fw.act ++
    toLE 1 (if s.fw.bootLkg then 1 else 0) ++ toLE 1 act ++ toLE 1 spare ++ toLE 1 (img.mbLo / 256) ++ toLE 1 img.mbLo ++
    toLE 1 (img.mbHi / 256) ++ toLE 1 img.mbHi ++ zeros 4)

/-- Base of the primary copy of the firmware region (R615). -/
def State.fwRegion (s : State) : Nat := 0x00F0_0000_0000 + s.fld BOOT_PCH_SPARES 47 40 * 2 ^ 32

/-- The firmware region stands in HBM (Table 16-8, step 11): WDN_LOG_BASE shows where. -/
def State.regionUp (s : State) : Bool := s.fld WDN_LOG_BASE 47 0 != 0

/-- Write into the firmware region, in both copies (R615), once it is in HBM. -/
def State.fwStore (s : State) (off : Nat) (bs : List Byte) : State :=
  if s.regionUp then
    let s1 := s.store (s.fwRegion + off) bs
    let k := s.fld BOOT_PCH_SPARES 55 48
    if k == 255 then s1 else s1.store (0x00F0_0000_0000 + k * 2 ^ 32 + off) bs
  else s

/-- The outcome of staging (R501). -/
inductive StageResult where
  | staged | policy | malformed | busy
  deriving DecidableEq, Repr

/-- Stage an image (R501): checked against the protection configuration, then its form, then an activation in
progress; a refused staging leaves the slot as it was. -/
def State.stage (s : State) (bs : List Byte) : StageResult × State :=
  match parseImage bs with
  | none => (.malformed, s)
  | some i =>
    let (ok, s1) := s.checkImage i
    if !ok then (.policy, s1)
    else if (s.fw.running.getD {}).journalW < i.journalR then (.malformed, s1)
    else if s.fw.act == 3 then (.busy, s1)
    else (.staged, { s1.fwStore 0x100_0000 bs with fw := { s1.fw with staged := some i, act := 1, hold := none } })

/-- FW_STAGE (Table 13-4, R501): the image lies in the partition's tier 1, or follows the body as input. -/
def mbFwStage (c : Cmd) (s : State) : State :=
  let a := fieldAt c.input 16 8
  let n := fieldAt c.input 24 8
  if c.input.length != 32 + (if a == 0 then n else 0) then s.refuse c stBadParameter
  else if a != 0 && !s.inRegion c.hdr.partition a n then s.refuse c stBadAddress
  else if a != 0 && s.isUe a n then (s.dramUe a).refuse c stUncorrectableData
  else
    let img := if a == 0 then c.input.drop 32 else s.bytes a n
    match s.stage img with
    | (.staged, s1) => s1.mbReply c (toLE 8 ((s1.fw.staged.map (fun i => i.version)).getD 0))
    | (.policy, s1) => s1.refuse c stNotPermitted
    | (.malformed, s1) => s1.refuse c stBadParameter
    | (.busy, s1) => s1.refuseBusy c

/-- CORE_STATUS (Table 13-4). -/
def mbCoreStatus (c : Cmd) (s : State) : State :=
  s.mbReply c ((List.range 20).flatMap (fun k => toLE 8 (s.coreWord k)))

/-- TRACE_SET (Table 13-4, R519): the previous mask is returned. -/
def mbTraceSet (c : Cmd) (s : State) : State :=
  let old := s.words (WDN_TRACE_EN 0)
  ((s.setWords (WDN_TRACE_EN 0) (slice c.input 16 32)).trace 1 224).mbReply c old

/-- LOG_MARK (Table 13-4, R517): a host marker; its severity and code are not stated and are free. -/
def mbLogMark (c : Cmd) (s : State) : State :=
  let seq := (s.raw WDN_LOG_SEQ).toNat
  let n := s.freeCtr
  ((s.tick).log (s.writerOf 1) (Config.freeBelow n 6) c.hdr.partition 4 (Config.freeBelow (n + 1) 65536)
    (c.input.drop 16)).mbReply c (toLE 8 seq)

/-- A deferred activation returns to STAGED (R503). -/
def State.cancelActivation (s : State) : State :=
  if s.fw.act == 2 then { s with fw := { s.fw with act := 1, hold := none } } else s

/-- ACTIVATION_CANCEL (Table 13-4, R503). -/
def mbActivationCancel (c : Cmd) (s : State) : State :=
  let s1 := s.cancelActivation
  s1.mbReply c (toLE 1 s1.fw.act ++ zeros 7)

/-- The messages of Table 13-4: from-version, admin, the lengths a body may have. -/
def mbMessageRow (id : Nat) : Option (Nat × Bool × Nat × Nat) :=
  match id with
  | 1 => some (0x100, false, 0, 0)
  | 2 => some (0x100, true, 16, 16)
  | 3 => some (0x100, false, 0, 0)
  | 4 => some (0x101, true, 32, 32)
  | 5 => some (0x101, false, 1, 40)
  | 6 => some (0x102, true, 0, 0)
  | _ => none

/-- MB_MESSAGE (R494 to R496): the checks of a message's header, then the message. -/
def bodyMbMessage (c : Cmd) (s : State) : State :=
  let id := fieldAt c.input 0 2
  let ver := fieldAt c.input 2 1 * 256 + fieldAt c.input 3 1
  let n := fieldAt c.input 4 4
  if c.input.length < 16 then s.refuse c stBadParameter
  else if !zerosAt c.input 8 8 then s.refuse c stReservedNonzero
  else if c.mbVer == 0 || ver != c.mbVer then s.refuse c stBadVersion
  else
    match mbMessageRow id with
    | none => s.refuse c stBadParameter
    | some (from_, admin, lo, hi) =>
      if c.mbVer < from_ then s.refuse c stFeatureNotNegotiated
      else if admin && !s.admin c.hdr.partition then s.refuse c stNotPermitted
      else if n < lo || hi < n || (id != 2 && c.input.length != 16 + n) || c.input.length < 16 + n then
        s.refuse c stBadParameter
      else match id with
        | 1 => mbFwInfo c s
        | 2 => mbFwStage c s
        | 3 => mbCoreStatus c s
        | 4 => mbTraceSet c s
        | 5 => mbLogMark c s
        | _ => mbActivationCancel c s

/-! ### Activation (R503 to R509) -/

/-- The order in which clusters restart (R507). -/
def clusterOrder : List Nat := [1, 2, 3, 0]

/-- The cluster whose turn it is. -/
def Activation.next (a : Activation) : Option Nat := clusterOrder.find? (fun k => !a.done.contains k)

/-- Activation begins: cluster 1 stops taking commands and drains (R507). -/
def State.beginActivation (s : State) (owed : Option Nat) : State :=
  { s with fw := { s.fw with
      act := 3, hold := none, drained := [1]
      activation := some { done := [], owed := owed, started := s.now } } }

/-- The staged image is discarded. -/
def State.dropStaged (s : State) (act : Nat) : State :=
  { s with fw := { s.fw with staged := none, act := act, hold := none } }

/-- FW_ACTIVATE (R496, R503, R504, R651). -/
def bodyFwActivate (c : Cmd) (s : State) : State :=
  s.shaped c 16 [(9, 7)] fun s =>
    if fieldAt c.input 8 1 / 2 != 0 then s.refuse c stReservedNonzero
    else if !s.admin c.hdr.partition then s.refuse c stNotPermitted
    else match s.fw.staged with
    | none => s.refuse c stUnknownObject
    | some i =>
      if i.version != fieldAt c.input 0 8 then s.refuse c stBadParameter
      else if s.fw.act == 3 then s.refuseBusy c
      else if fieldAt c.input 8 1 % 2 == 1 then s.cancelActivation.refuse c stOk
      else
        let (ok, s1) := s.checkImage i
        if !ok then (s1.dropStaged 0).refuse c stNotPermitted
        else if s1.fld PWR_STATE 2 0 == 0 then s1.beginActivation (some c.id)
        else
          let s2 := { s1 with fw := { s1.fw with act := 2, hold := none } }
          (s2.event WDN_EVENT 2).refuse c stDeferred


/-- NORMAL_HOLD_END (R506, R651): at the end of the hold a deferred activation begins, its image checked again. -/
def normalHoldEndStep (s : State) : State :=
  match s.fw.hold with
  | none => s
  | some t =>
    if s.fw.act == 2 && t + 1_000_000_000 ≤ s.now then
      match s.fw.staged with
      | none => s
      | some i =>
        let (ok, s1) := s.checkImage i
        if ok then s1.beginActivation none else (s1.dropStaged 4).event WDN_EVENT 4
    else s

/-- The power manager reports a state (R506): a report of NORMAL opens the hold of a deferred activation, any other
discards it. A report at or after the end of the hold finds the activation begun (R36). -/
def State.holdReport (s : State) (normal : Bool) : State :=
  let s := normalHoldEndStep s
  { s with fw := { s.fw with hold := if normal then (if s.fw.act == 2 then some s.now else s.fw.hold) else none } }

/-- The cores of a cluster that run or restart. -/
def State.clusterCores (s : State) (k : Nat) : List Nat :=
  (List.range 20).filter (fun c => ((s.core c).state == 1 || (s.core c).state == 2) && (s.core c).logical != 255 &&
    (s.core c).logical / 4 == k)

/-- The cores of a cluster's role are held in reset to restart on an image (R507, R510). -/
def State.restartCluster (s : State) (k : Nat) : State :=
  (s.clusterCores k).foldl (fun s c => s.setCore c (fun x => { x with state := 2 })) s

/-- A queue pair's agreement after an activation (R509). -/
def agreeAfter (img : FwImage) (q : Qp) : Qp :=
  let q1 : Qp := { q with feats := (q.feats &&& img.feats) ||| 1#128, featsOld := (q.featsOld &&& img.feats) ||| 1#128 }
  if q.mbVer == 0 then q1
  else if img.mbLo ≤ q.mbVer && q.mbVer ≤ img.mbHi then q1
  else
    let v := min q.mbHi img.mbHi
    if max q.mbLo img.mbLo ≤ v then { q1 with mbVer := v }
    else { q1 with feats := 1#128, featsOld := 1#128, mbVer := 0 }

/-- The activation completes (R509): the new image runs and is measured (R646), agreements follow it, and the command
is replied. -/
def State.completeActivation (s : State) (a : Activation) : State :=
  match s.fw.staged with
  | none => s
  | some i =>
    let s1 := { s with
      qps := s.qps.map (agreeAfter i)
      fw := { s.fw with
        running := some i, previous := s.fw.running, staged := none, act := 0, activation := none, drained := []
        bootLkg := false, runSince := some s.now } }
    let s2 := (s1.measure 1 2 i.version (sha3 i.signed)).fwStore 0 i.bytes
    let s3 := s2.event WDN_EVENT 3
    let s4 := s3.logFree (s3.writerOf 0) 255 2
    match a.owed.bind s4.cmd? with
    | some c => s4.refuse c stOk
    | none => s4

/-- The cluster that restarts is ready once none of its cores is held in reset any more: the next cluster in order stops taking
commands, and after cluster 0 the activation is complete (R507). -/
def State.clusterReady (s : State) : State :=
  match s.fw.activation with
  | none => s
  | some a =>
    match a.pending with
    | none => s
    | some (k, _) =>
      if (s.clusterCores k).any (fun c => (s.core c).state == 2) then s
      else
        let b : Activation := { a with done := a.done ++ [k], pending := none, started := s.now }
        match b.next with
        | some j => { s with fw := { s.fw with activation := some b, drained := [j] } }
        | none => s.completeActivation b

/-- The drain of a cluster is over: every command that it took is at a commit or a checkpoint, or 50 ms have passed (R507). -/
def State.drainOver (s : State) (a : Activation) (k : Nat) : Bool :=
  (s.heldBy k).all (fun j => j.kind != .taken) || a.started + 50_000_000 ≤ s.now

/-- CLUSTER_RESTART (R507): after its drain, the cluster whose turn it is restarts its cores on the new image; each replays what it
held when it runs again (CORE_RESTART, log entry 14). -/
def clusterRestartStep (k : Nat) (s : State) : State :=
  match s.fw.activation with
  | none => s
  | some a =>
    if a.next != some k || a.pending.isSome || !s.drainOver a k then s
    else
      let s1 := s.restartCluster k
      ({ s1 with fw := { s1.fw with activation := some { a with pending := some (k, s.now) } } } : State).clusterReady

/-- ACTIVATION_READY_TIMEOUT (R508): a cluster has not reported ready within 100 ms of its restart; it and every cluster already
restarted are restarted again on the previous image, and the staged image is discarded. -/
def activationReadyTimeoutStep (k : Nat) (s : State) : State :=
  match s.fw.activation with
  | none => s
  | some a =>
    match a.pending with
    | none => s
    | some (j, t) =>
      if j == k && t + 100_000_000 ≤ s.now then
        let s1 := (a.done ++ [k]).foldl (fun s j => s.restartCluster j) s
        let s2 := { s1.dropStaged 4 with fw := { (s1.dropStaged 4).fw with activation := none, drained := [] } }
        let s3 := s2.event WDN_EVENT 4
        match a.owed.bind s3.cmd? with
        | some c => s3.refuse c stInternalError
        | none => s3
      else s

/-- FW_UPDATE_STAGE (R501): WDN_UPDATE with START stages the image at SRC_ADDR; the register keeps the address and shows
the result. An image outside every range of Table 1-4 is not staged, and the read raises a bus error on the core of cluster 0 that
makes it (R26, log entry 46). -/
def fwUpdateStageStep (v : Reg) (s : State) : State :=
  let a := v.toNat % 2 ^ 48
  let s0 := s.setFld WDN_UPDATE 47 0 a
  if !v.getLsbD 63 then s0
  else
    let n := s0.fld WDN_UPDATE_LEN 24 0
    if n != 0 && !s0.listed a n then coreExceptionStep (s0.writerOf 0) .busError s0
    else
    let bs := s0.bytes a n
    let (r, s1) := if s0.isUe a n then (.malformed, s0.dramUe a) else s0.stage bs
    s1.setFld WDN_UPDATE 61 56 (match r with
      | .staged => 0
      | .policy => 1
      | .malformed => 2
      | .busy => 3)

/-- LKG_FLASH_WRITE (R500): an image that has run for an hour without a crash goes to the flash slot that does not hold
the last-known-good image; the copy is verified there, and only then is the slot valid. -/
def lkgFlashWriteStep (s : State) : State :=
  match s.fw.running, s.fw.runSince with
  | some i, some t =>
    if t + 3_600_000_000_000 ≤ s.now then
      let f0 := s.fw.flash.getD 0 ({}, false)
      let f1 := s.fw.flash.getD 1 ({}, false)
      let keep1 := s.lkg == some f1.1 && f1.2
      let slot := if f0.2 && !keep1 then 1 else 0
      let (ok, s1) := s.checkImage i
      let fl := if slot == 0 then [(i, ok), f1] else [f0, (i, ok)]
      { s1 with fw := { s1.fw with flash := fl, runSince := none } }
    else s
  | _, _ => s

/-! ### The log ring (R517, R518) -/

/-- The entry in a slot of the ring: from the primary copy of the firmware region, or from the secondary where the primary is
uncorrectable (R615); none where neither can be read. -/
def State.logSlot (s : State) (i : Nat) : Option (List Byte) :=
  let read (base : Nat) : Option (List Byte) :=
    if s.isUe (base + i * 64) 64 then none else some (s.bytes (base + i * 64) 64)
  match read (s.fld WDN_LOG_BASE 47 0) with
  | some e => some e
  | none => s.logBase2.bind read

/-- The entries of the ring with sequence numbers [a, b), each where its slot still holds it. -/
def State.logEntries (s : State) (a b : Nat) : List (List Byte) :=
  if s.fld WDN_LOG_BASE 47 0 == 0 then (s.fw.logHeld.drop a).take (b - a)
  else (List.range (b - a)).filterMap (fun i => s.logSlot ((a + i) % 262144))

/-- A partition may receive an entry (R518, Table 17-6). -/
def State.logVisible (s : State) (p : Nat) (e : List Byte) : Bool :=
  s.admin p || fieldAt e 18 1 == p || (1 ≤ s.sec.debug && fieldAt e 19 1 == 0)

/-- LOG_READ (R518). -/
def bodyLogRead (c : Cmd) (s : State) : State :=
  s.shaped c 16 [(12, 4)] fun s =>
    let first := fieldAt c.input 0 8
    let n := fieldAt c.input 8 4
    if n == 0 || 16384 < n then s.refuse c stBadParameter
    else
      let next := (s.raw WDN_LOG_SEQ).toNat
      let oldest := next - 262144
      let start := max first oldest
      let es := ((s.logEntries start next).filter (s.logVisible c.hdr.partition)).take n
      s.replyData c stOk [] (toLE 8 oldest ++ toLE 8 next ++ toLE 4 es.length ++
        toLE 1 (if first < oldest then 1 else 0) ++ zeros 11 ++ es.flatten)

end Sys2Proof.Machine
end

