-- ==== Sys2Proof/Machine/Traffic.lean ====
section
/-! DEFINITION. Traffic control and time (spec/14): egress queues and their frames, gate lists, meters and received packets,
queue telemetry, and the PTP units. -/

namespace Sys2Proof.Machine

/-! ### Egress queues (R536, R541, R550) -/

/-- The payload sizes of the packets that carry `n` bytes. -/
def segments (mtu n : Nat) : List Nat :=
  let k := max 1 (ceilDiv n mtu)
  (List.range k).map (fun i => min mtu (n - i * mtu))

/-- Bytes of a packet's headers, from destination address to FCS: Ethernet, IP, UDP, BTH, ICRC and FCS. -/
def Qp.headers (q : Qp) : Nat :=
  let v4 : Bool := q.field 32 8 == 0 && q.field 40 4 == 0xFFFF_0000
  14 + (if v4 then 20 else 40) + 8 + 12 + 4 + 4

/-- The payload and header-extension bytes of the packets of one output, its queue pair, and whether it is a CNP. -/
def Out.packets (s : State) (o : Out) : Option (Nat × Bool × List Nat) :=
  let mtu (i : Nat) : Nat := ((s.qp? i).map (fun q => q.mtu)).getD 4096
  match o with
  | .packet p => some (p.hdr.qp, false, segments (mtu p.hdr.qp) p.bytes.length)
  | .rdmaWrite i _ _ d => some (i, false, modifyAt (segments (mtu i) d.length) 0 (fun (n : Nat) => n + 16))
  | .rdmaRead i _ _ _ => some (i, false, [16])
  | .readResponse i d =>
    let l := segments (mtu i) d.length
    some (i, false, l.zipIdx.map (fun x => if x.2 == 0 || x.2 + 1 == l.length then x.1 + 4 else x.1))
  | .ack i => some (i, false, [4])
  | .nak i _ => some (i, false, [4])
  | .cnp i => some (i, true, [16])
  | .retransmit _ => none
  | .netAnswer _ _ _ => none
  | .mgmtAnswer _ _ _ => none
  | .dhcpDiscover _ _ | .tftpRequest _ => none
  | .frame _ _ _ _ => none

/-- An output of the queue pair's requester (R537). -/
def Out.request (o : Out) : Bool :=
  match o with
  | .packet _ => true
  | .rdmaWrite _ _ _ _ => true
  | .rdmaRead _ _ _ _ => true
  | .readResponse _ _ => false
  | .ack _ => false
  | .nak _ _ => false
  | .cnp _ => false
  | .retransmit _ => false
  | .netAnswer _ _ _ => false
  | .mgmtAnswer _ _ _ => false
  | .dhcpDiscover _ _ | .tftpRequest _ => false
  | .frame _ _ _ _ => false

/-- Put the frames of one output into the egress queue of its queue pair's list and class. -/
def State.frameOutput (s : State) (o : Out) : State :=
  match o.packets s with
  | none => s
  | some (i, isCnp, l) =>
    match s.qp? i with
    | none => s
    | some q =>
      let cls := if isCnp then s.fld NET_CTRL 18 16 else q.cls
      let dscp := if isCnp then s.fld NET_CTRL 25 20 else q.field 5 1
      -- every packet is ECT(0)
      let new : List Frame := l.map (fun n => ⟨q.list, cls, q.headers + n, i, s.now, o.request, 4 * dscp + 2⟩)
      { s with egress := s.egress ++ new }

/-- Frame every output that has been queued since the last time. -/
def State.frameOutputs (s : State) : State :=
  let s1 := (s.sent.drop s.framed).foldl (fun s o => s.frameOutput o) s
  { s1 with framed := s.sent.length }

/-- The first start of an entry that closes a class's gate, among the next `n` entries from number `k`, which starts at `t`. -/
def gateWalk (es : List (Nat × Nat)) (cls : Nat) : Nat → Nat → Nat → Option Nat
  | 0, _, _ => none
  | n + 1, k, t =>
    let x := es.getD (k % es.length) (0, 0)
    if x.2 != 0 && !x.1.testBit cls then some t else gateWalk es cls n (k + 1) (t + x.2)

/-- The instant at which a class's gate closes next, seen from an instant at which it is open (R550). -/
def State.gateCloses (s : State) (l cls t : Nat) : Option Nat :=
  if !s.gated l then none
  else
    let es := s.operList l
    let e := s.entryAt l t
    gateWalk es cls es.length (e.1 + 1) e.2

/-- A class's gate is open (R549). -/
def State.gateOpen (s : State) (l cls t : Nat) : Bool :=
  !s.gated l || ((s.operList l).getD (s.entryAt l t).1 (0, 0)).1.testBit cls

/-- Picoseconds that a frame with its preamble and inter-packet gap takes on a list's line. -/
def State.frameTime (s : State) (l len : Nat) : Nat := (len + 20) * 8_000_000 / s.lineRate l

/-- A frame waits for the timer of an RNR NAK that its queue pair received (R537). -/
def State.rnrHeld (s : State) (f : Frame) : Bool := f.req && (s.qp? f.qp).any (fun q => q.rnrUntil.isSome)

/-- The frame of a class that may start now, with its start and its end in picoseconds: the oldest frame of the queue pair whose
turn it is among those that may send (R34, R537, R542, R550). -/
def State.frameReady (s : State) (l cls : Nat) : Option (Frame × Nat × Nat) :=
  let mine := s.egress.filter (fun f => f.list == l && f.cls == cls && !s.rnrHeld f)
  let lineAt := (assoc s.lineAt l).getD 0
  let start (q : Qp) : Nat := max (s.now * 1000) (max lineAt q.paceAt)
  let limit := match s.gateCloses l cls s.now, (s.gate l).pending with
    | some c, some p => some (min c p.time)
    | some c, none => some c
    | none, some p => some p.time
    | none, none => none
  let can (f : Frame) : Option (Frame × Nat × Nat) :=
    match s.qp? f.qp with
    | none => none
    | some q =>
      let a := start q
      let b := a + s.frameTime l f.len
      let fits : Bool := match limit with
        | some m => b ≤ m * 1000
        | none => true
      if a < (s.now + 1) * 1000 && fits then some (f, a, b) else none
  if !s.linkUp l || !s.gateOpen l cls s.now then none
  else
    let heads := (dedupBy (fun (f : Frame) => f.qp) mine).filterMap can
    (rotate ((assoc s.served (8 * l + cls)).getD []) (heads.map (fun h => h.1.qp))).bind (fun i =>
      heads.find? (fun h => h.1.qp == i))

/-- FRAME_TRANSMIT (R550): strict priority among classes whose gates are open; a frame that cannot start waits. -/
def frameTransmitStep (l cls : Nat) (s : State) : State :=
  if (List.range 8).any (fun c => cls < c && (s.frameReady l c).isSome) then s
  else
    match s.frameReady l cls with
    | none => s
    | some (f, a, b) =>
      let s1 := { s with
        egress := s.egress.erase f
        lineAt := assocSet s.lineAt l b
        served := assocSet s.served (8 * l + cls) (granted ((assoc s.served (8 * l + cls)).getD []) f.qp) }
      (s1.setQp f.qp (fun q => { q with paceAt := a + ((f.len * 8_000_000 : Rat) / q.rate).ceil.toNat })).emit (.frame l cls f.tos f.len)

/-! ### Gate lists (R549, R551) -/

/-- GATE_ENTRY_BOUNDARY (R549): the entry that holds the present instant is in force. -/
def gateEntryBoundaryStep (l : Nat) (s : State) : State :=
  if s.gated l then s.setGate l (fun g => { g with entry := (s.entryAt l s.now).1 }) else s

/-- The first cycle start of a list that is at or after an instant. -/
def cycleFrom (base cyc t : Nat) : Nat := if t ≤ base then base else base + ceilDiv (t - base) cyc * cyc

/-- GATE_CONFIG_CHANGE (R551): the list is checked and captured. -/
def gateConfigChangeStep (l : Nat) (s : State) : State :=
  let n := s.fld (GATE_CTRL l) 31 23
  let cyc := s.fld (GATE_CYCLE l) 31 0
  let es := (List.range n).map (fun e => s.raw (GATE_ENTRY l e))
  if n == 0 || 256 < n || cyc < 1000 || sumNat (es.map (fun (e : Reg) => e.toNat % 2 ^ 32)) != cyc then s.event GATE_EVENT (8 + l)
  else
    let base := (s.raw (GATE_BASE l)).toNat
    let c : GateChange := ⟨cycleFrom base cyc (s.now + 10_000), base, cyc, es⟩
    (s.setGate l (fun g => { g with pending := some c })).setFld (GATE_CTRL l) 2 2 1

/-- GATE_CONFIG_INSTALL (R551): the captured list becomes operational. -/
def gateConfigInstallStep (l : Nat) (s : State) : State :=
  match (s.gate l).pending with
  | none => s
  | some c =>
    if s.now < c.time then s
    else
      let s1 := c.entries.zipIdx.foldl (fun s e => s.setRaw (GATE_OPER l e.2) e.1) s
      let s2 := ((s1.setFld (GATE_CTRL l) 41 33 c.entries.length).setFld (GATE_CYCLE l) 63 32 c.cycle).setFld (GATE_CTRL l) 2 2 0
      gateEntryBoundaryStep l ((s2.setGate l (fun g => { g with base := c.base, pending := none })).event GATE_EVENT l)

/-! ### Meters (R552 to R555) -/

/-- The committed and the peak caps of a meter, in bits. -/
def State.meterCaps (s : State) (m : Nat) : Nat × Nat := (s.fld (POL_BURST m) 31 0 * 8, s.fld (POL_BURST m) 63 32 * 8)

/-- A meter's buckets; one that has not been used is full (log entry 12). -/
def State.meter (s : State) (m : Nat) : Meter := (assoc s.meters m).getD {}

/-- Every refresh instant up to now is dealt with (R552). -/
def State.refreshMeters (s : State) : State :=
  let n := s.now / 1000 - s.meterAt
  if n == 0 then s
  else { s with
    meterAt := s.now / 1000
    meters := s.meters.map (fun (e : Nat × Meter) =>
      let caps := s.meterCaps e.1
      (e.1, { tc := min caps.1 (e.2.tc + n * s.fld (POL_RATE e.1) 31 0)
              tp := min caps.2 (e.2.tp + n * s.fld (POL_RATE e.1) 63 32) })) }

/-- A meter whose rate or burst is written keeps its buckets until the next refresh instant (R555). -/
def State.holdMeter (s : State) (m : Nat) : State :=
  let s1 := s.refreshMeters
  { s1 with meters := assocSet s1.meters m (s1.meter m) }

/-- METER_REFRESH. -/
def meterRefreshStep (s : State) : State := s.refreshMeters

/-- Colours: 0 green, 1 yellow, 2 red. Pre-colour from DSCP (Table 14-7). -/
def preColour (dscp : Nat) : Nat :=
  if [12, 20, 28, 36].contains dscp then 1 else if [14, 22, 30, 38].contains dscp then 2 else 0

/-- The meter of R553: the colour of a packet of `b` bits, and the buckets after it. -/
def Meter.colour (m : Meter) (b pre : Nat) : Nat × Meter :=
  if pre == 2 || m.tp < b then (2, m)
  else if pre == 1 || m.tc < b then (1, { m with tp := m.tp - b })
  else (0, { tp := m.tp - b, tc := m.tc - b })

/-- METER_COLOUR (R554): the drop colour of a packet of a metered queue pair, none where its meter drops it. An action code
that POL_CFG does not name acts as one of the three. -/
def State.metered (s : State) (m len dscp : Nat) : State × Option Nat :=
  if !s.bit (POL_CFG m) 0 then (s, some 0)
  else
    let s0 := s.refreshMeters
    let r := (s0.meter m).colour (len * 8) (if s.bit (POL_CFG m) 1 then preColour dscp else 0)
    let s1 := ({ s0 with meters := assocSet s0.meters m r.2 } : State).bump (POL_CNT m r.1) 63 0 1
    let act0 := if r.1 == 0 then s.fld (POL_CFG m) 5 4 else if r.1 == 1 then s.fld (POL_CFG m) 7 6 else s.fld (POL_CFG m) 9 8
    let act := if act0 == 3 then Config.freeBelow s1.freeCtr 3 else act0
    let s2 := if act0 == 3 then s1.tick else s1
    if act == 2 then (s2.event POL_EVENT 0, none) else (s2, some (if act == 1 then r.1 else 0))

/-! ### Received packets (R534, R536, R541, R554) -/

/-- Bytes of a receive buffer. -/
def rxBuffer : Nat := 2 ^ 21

/-- Queue a CNP for a CE-marked packet: at most one in each interval (R541). -/
def State.sendCnp (s : State) (i : Nat) : State :=
  match s.qp? i with
  | none => s
  | some q =>
    let due : Bool := match q.cnpLast with
      | none => true
      | some t => t + s.fld NET_CC_CFG 63 48 * 1000 ≤ s.now
    if due then (s.setQp i (fun q => { q with cnpLast := some s.now })).emit (.cnp i) else s

/-- ROCE_PACKET_RECEIVE: the meter, the receive buffer, then the transport. How full the buffer is when the packet arrives is
a free value: nothing states how fast it drains. -/
def rocePacketReceiveStep (k : RocePacket) (s : State) : State :=
  match s.qp? k.qp with
  | none => s
  | some q =>
    let dropped (s : State) : State := s.bump (NET_LIST_CNT q.list) 63 32 1
    match if q.field 7 1 == 1 then s.metered (q.field 8 2) k.len k.dscp else (s, some 0) with
    | (s1, none) => dropped s1
    | (s1, some colour) =>
      let occ := Config.freeBelow s1.freeCtr (rxBuffer + 1)
      let s2 := s1.tick
      if rxBuffer < occ + k.len || (colour != 0 && s2.fld NET_CTRL 39 32 * rxBuffer ≤ occ * 100) then dropped s2
      else if q.error then s2
      else if !k.supported then s2.nak k.qp .invalidRequest
      else
        let s3 := s2.setQp k.qp (fun q => { q with retries := 0, rnrTries := 0 })
        if k.ce then s3.sendCnp k.qp else s3

/-! ### Queue telemetry (R556 to R560) -/

/-- The bin of a value (R557). -/
def queueBin (v u : Nat) : Nat := if v == 0 then 0 else min 31 (max 1 (if v < u then 0 else Nat.log2 (v / u) + 1))

/-- Depth and sojourn of a queue at an instant; those of a receive buffer are free values. -/
def State.queueSample (s : State) (q : Nat) : Nat × Nat :=
  if q < 64 then
    let fs := s.egress.filter (fun f => f.list == q / 8 && f.cls == q % 8)
    (sumNat (fs.map (fun f => f.len)), ((fs.head?.map (fun f => s.now - f.at_)).getD 0))
  else
    let d := Config.freeBelow (s.freeCtr + 2 * q) (rxBuffer + 1)
    (d, if d == 0 then 0 else Config.freeBelow (s.freeCtr + 2 * q + 1) (2 ^ 32))

/-- Count a sample in a bin. -/
def State.countBin (s : State) (q k : Nat) : State :=
  if (s.raw (QTL_HIST q k)).toNat == 2 ^ 64 - 1 then s.event QTL_EVENT 0 else s.bump (QTL_HIST q k) 63 0 1

/-- One queue's sample enters its bins and maxima and the streams that watch it. -/
def State.sampleQueue (s : State) (q : Nat) (v : Nat × Nat) : State :=
  let cap (x : Nat) : Nat := min x (2 ^ 32 - 1)
  let s1 := (s.countBin q (queueBin v.1 64)).countBin q (32 + queueBin v.2 8)
  let s2 := (s1.setFld (QTL_MAX q) 31 0 (max (s1.fld (QTL_MAX q) 31 0) (cap v.1))).setFld (QTL_MAX q) 63 32
    (max (s1.fld (QTL_MAX q) 63 32) (cap v.2))
  { s2 with telems := s2.telems.map (fun (t : Telem) =>
      if t.first ≤ q && q < t.first + t.count then
        { t with acc := modifyAt t.acc (q - t.first) (fun (a : Nat × Nat × Nat × Nat) =>
            (max a.1 (cap v.1), max a.2.1 (cap v.2), a.2.2.1 + v.1, a.2.2.2 + 1)) }
      else t) }

/-- TELEMETRY_WINDOW_END (R560): the window in progress has ended, and one item for each queue is held or sent. The mean depth of
a window without a sample is a free value (log entry 104). -/
def telemetryWindowEndStep (h : Nat) (s : State) : State :=
  match s.telems.find? (fun t => t.handle == h) with
  | none => s
  | some t =>
    if s.now < t.start + t.period then s
    else
      let items := t.acc.zipIdx.map (fun (a : (Nat × Nat × Nat × Nat) × Nat) =>
        let mean := if a.1.2.2.2 == 0 then Config.freeBelow (s.freeCtr + a.2) (2 ^ 32) else a.1.2.2.1 / a.1.2.2.2
        toLE 8 t.start ++ toLE 2 (t.first + a.2) ++ zeros 2 ++ toLE 4 a.1.1 ++ toLE 4 a.1.2.1 ++ toLE 4 mean)
      let r := items.foldl (fun (x : State × Stream) i => x.1.holdItem x.2 (i, [])) (s, t.stream)
      let t' : Telem :=
        { t with stream := r.2, start := t.start + t.period, acc := List.replicate t.count (0, 0, 0, 0) }
      { r.1 with
        telems := updateWhere r.1.telems (fun t => t.handle == h) (fun _ => t')
        freeCtr := r.1.freeCtr + t.count }

/-- Every window of a stream that has ended by now is dealt with, in turn (R545, R560). -/
def State.endTelemWindows (s : State) : State :=
  s.telems.foldl (fun s t =>
    (List.range ((s.now - t.start) / t.period)).foldl (fun s _ => telemetryWindowEndStep t.handle s) s) s

/-- QUEUE_TELEMETRY_SAMPLE (R556): all 72 queues are sampled at one instant. A window that has ended by then is closed first: the
sample belongs to the next one (R36). -/
def queueTelemetrySampleStep (s : State) : State :=
  if !s.bit QTL_CTRL 0 then s
  else
    let s0 := s.endTelemWindows
    let vs := (List.range 72).map (fun q => s0.queueSample q)
    let s1 := vs.zipIdx.foldl (fun s v => s.sampleQueue v.2 v.1) s0
    { s1 with freeCtr := s1.freeCtr + 144 }

/-- What TELEMETRY_READ returns of a queue. -/
def State.queueReport (s : State) (q : Nat) : List Byte :=
  toLE 2 q ++ zeros 2 ++ toLE 4 (s.fld (QTL_MAX q) 31 0) ++ toLE 4 (s.fld (QTL_MAX q) 63 32) ++ zeros 4 ++
    (List.range 64).flatMap (fun k => toLE 4 (min (s.raw (QTL_HIST q k)).toNat (2 ^ 32 - 1)))

/-- Clear a queue's bins and maxima. -/
def State.clearQueue (s : State) (q : Nat) : State :=
  (List.range 64).foldl (fun s k => s.setRaw (QTL_HIST q k) 0) (s.setRaw (QTL_MAX q) 0)

/-- TELEMETRY_READ (R558, R559). -/
def bodyTelemetryRead (c : Cmd) (s : State) : State :=
  if !s.admin c.hdr.partition then s.refuse c stNotPermitted
  else
    s.shaped c 8 [(3, 5)] fun s =>
      let first := fieldAt c.input 0 1
      let n := fieldAt c.input 1 1
      let flags := fieldAt c.input 2 1
      if 1 < flags then s.refuse c stReservedNonzero
      else if n == 0 || 72 < n || 72 < first + n then s.refuse c stBadParameter
      else
        let qs := (List.range n).map (fun i => first + i)
        let data := toLE 4 n ++ zeros 4 ++ qs.flatMap (fun q => s.queueReport q)
        -- a reply refused for want of space clears nothing (R75)
        let short : Bool := c.replyRef.any (fun r => r.len < data.length)
        (if flags == 1 && !short then qs.foldl (fun s q => s.clearQueue q) s else s).replyData c stOk [] data

/-- A telemetry stream ends with a final event. -/
def State.endTelem (s : State) (h status : Nat) : State :=
  match s.telems.find? (fun t => t.handle == h) with
  | none => s
  | some t =>
    ({ s with telems := s.telems.filter (fun t => t.handle != h) }.finalEvent t.stream status (fun _ => []) []).dropCmd t.cmd

/-- TELEMETRY_SUBSCRIBE (R558, R560). Handles are numbered from 1 (R7). -/
def bodyTelemetrySubscribe (c : Cmd) (s : State) : State :=
  if !s.admin c.hdr.partition then s.refuse c stNotPermitted
  else
    s.shaped c 12 [(7, 1)] fun s =>
      let us := fieldAt c.input 0 4
      let first := fieldAt c.input 4 1
      let n := fieldAt c.input 5 1
      let flags := fieldAt c.input 6 1
      if 1 < flags then s.refuse c stReservedNonzero
      else if flags == 1 then
        let h := fieldAt c.input 8 4
        if s.telems.any (fun t => t.handle == h) then (s.endTelem h stOk).refuse c stOk else s.refuse c stStaleHandle
      else if us < 10 || 1_000_000 < us || n == 0 || 72 < n || 72 < first + n then s.refuse c stBadParameter
      else if 8 ≤ s.telems.length then s.refuse c stNoMemory
      else
        let h := s.telemSeq + 1
        let t : Telem :=
          { handle := h, cmd := c.id, stream := { hdr := c.hdr, kind := 2 }, period := us * 1000, first := first, count := n,
            start := s.now / (us * 1000) * (us * 1000), acc := List.replicate n (0, 0, 0, 0) }
        ({ s with telems := s.telems ++ [t], telemSeq := h }).sendReply c.hdr stOk [] (toLE 4 h ++ zeros 4)

/-! ### Device time and PTP (R543 to R548) -/

/-- Change the PTP units. -/
def State.setPtp (s : State) (f : Ptp → Ptp) : State := { s with ptp := f s.ptp }

/-- Show the adjustment, in whole ppb, in FREQ_PPB. -/
def State.showFreq (s : State) : State := s.setFld PTP_STATUS 31 0 (ofSigned 32 (s.ptp.adj / 65536))

/-- STATE of PTP_STATUS (Table 14-6). -/
def State.ptpState (s : State) : Nat := s.fld PTP_STATUS 41 40

/-- A whole number held between two bounds. -/
def clampInt (x lo hi : Int) : Int := max lo (min hi x)

/-- 200,000 ppb in units of 2^-16 ppb. -/
def servoBound : Int := 200_000 * 65536

/-- PTP_ANNOUNCE_RECEIVE (R546): the first Announce of the chosen time transmitter starts acquisition; later ones keep it. -/
def ptpAnnounceReceiveStep (l interval : Nat) (s : State) : State :=
  if !s.bit PTP_CTRL 0 || !s.bit PTP_CTRL (3 + l) then s.bump (NET_LIST_CNT l) 31 0 1
  else
    let s1 := s.setPtp (fun p => { p with announce := s.now, interval := interval })
    if s.fld PTP_STATUS 35 32 == l && (s.ptpState == 1 || s.ptpState == 2) then s1
    else (s1.setFld PTP_STATUS 41 40 1).setFld PTP_STATUS 35 32 l

/-- PTP_EXCHANGE (R544, R545): the servo. A forward step of device time lets `skip` end the windows and deadlines that fall
into it. -/
def ptpExchangeStep (skip : State → State) (o : Int) (s : State) : State :=
  if !s.bit PTP_CTRL 0 || !(s.ptpState == 1 || s.ptpState == 2) then s
  else
    let s0 := s.setRaw PTP_OFFSET (BitVec.ofInt 64 o)
    let offs := (o :: s.ptp.offs).take 16
    if (s.fld PTP_SERVO 31 20 * 1000 : Int) ≤ o.natAbs then
      let adj : Int := if o < 0 then s.ptp.adj else -(s.fld PTP_SERVO 9 0 * 1000 * 65536 : Int)
      let s1 := ((s0.setPtp (fun p => { p with
        integ := 0, adj := adj, offs := offs, adjs := (adj :: p.adjs).take 16 })).setFld PTP_STATUS 41 40 1).showFreq
      if o < 0 then skip (({ s1 with now := s1.now + o.natAbs } : State).event PTP_EVENT 2) else s1
    else
      let integ := clampInt (s.ptp.integ + s.fld PTP_SERVO 47 32 * o) (-servoBound) servoBound
      let adj := clampInt (-(s.fld PTP_SERVO 63 48 * o + integ)) (-servoBound) servoBound
      let s1 := (s0.setPtp (fun p => { p with
        integ := integ, adj := adj, offs := offs, adjs := (adj :: p.adjs).take 16 })).showFreq
      if s.ptpState != 2 && offs.length == 16 && offs.all (fun (x : Int) => x.natAbs < s.fld PTP_SERVO 19 10) then
        ((s1.setFld PTP_STATUS 41 40 2).event PTP_EVENT 0).setReady rdyTime true
      else s1

/-- The mean adjustment of the last 16 exchanges. -/
def Ptp.mean (p : Ptp) : Int := if p.adjs.isEmpty then p.adj else p.adjs.foldl (· + ·) 0 / (p.adjs.length : Int)

/-- ANNOUNCE_TIMEOUT (R546, R547): HOLDOVER keeps the mean adjustment. -/
def announceTimeoutStep (s : State) : State :=
  if !(s.ptpState == 1 || s.ptpState == 2) || s.now < s.ptp.announce + s.fld PTP_CTRL 31 24 * s.ptp.interval then s
  else
    ((((s.setPtp (fun p => { p with adj := p.mean })).showFreq.setFld PTP_STATUS 41 40 3).setFld PTP_STATUS 35 32 15).event
      PTP_EVENT 1)

/-- PTP disabled enters FREE_RUN (R546), and TIME is ready then (Table 16-11). -/
def State.ptpDisable (s : State) : State :=
  ((s.setFld PTP_STATUS 41 40 0).setFld PTP_STATUS 35 32 15).setReady rdyTime true

/-- PPS_EDGE (R547): in HOLDOVER with PPS_EN, 16 s of pulses correct the adjustment by the rate error that they show. -/
def ppsEdgeStep (s : State) : State :=
  let es := s.now :: s.ptp.edges
  if s.ptpState == 3 && s.bit PTP_CTRL 2 then
    match (es.drop 16).head? with
    | none => s.setPtp (fun p => { p with edges := es })
    | some first =>
      let err : Int := ((s.now : Int) - first - 16_000_000_000) * 4096
      (s.setPtp (fun p => { p with adj := p.adj - err, edges := [s.now] })).showFreq
  else s.setPtp (fun p => { p with edges := [s.now] })

/-- PPS_LOSS_TIMEOUT (R547). -/
def ppsLossTimeoutStep (s : State) : State :=
  if !s.bit PTP_CTRL 2 || s.now < s.ptp.edges.headD 0 + 2_000_000_000 then s
  else (s.setPtp (fun p => { p with edges := [] })).event PTP_EVENT 3

/-- PTP_UNIT_SWAP (R548): the counters run in lockstep, so device time does not change. -/
def ptpUnitSwapStep (s : State) : State := (s.setPtp (fun p => { p with unit := 1 - p.unit })).event PTP_EVENT 4

end Sys2Proof.Machine
end

