-- ==== Sys2Proof/Machine/Power.lean ====
section
/-! DEFINITION. Module power and the CXL links (spec/15): power-up, power-down and module reset, the power states with their duty,
regulator phases, the I3C target, and the operation and loss of CXL devices. -/

namespace Sys2Proof.Machine

/-! ### What a reset leaves (R597) -/

/-- Change the power manager. -/
def State.setPwr (s : State) (f : Pwr → Pwr) : State := { s with pwr := f s.pwr }

/-- TDP of the grade (Table 15-9). -/
def State.tdp (s : State) : Nat := if s.grade == 48 then 1800 else if s.grade == 40 then 1600 else 1400

/-- The effective cap (R578). -/
def State.effectiveCap (s : State) : Nat :=
  let a := if s.bit PWR_CTRL 0 then max 600 (s.fld PWR_CAP 15 0) else s.tdp
  let b := if s.pwr.chassis == 0 then s.tdp else max 600 s.pwr.chassis
  min s.tdp (min a b)

/-- Show the caps in PWR_CAP. -/
def State.showCap (s : State) : State := (s.setFld PWR_CAP 47 32 s.pwr.chassis).setFld PWR_CAP 63 48 s.effectiveCap

/-- An address of a CXL range. -/
def isCxl (a : Nat) : Bool := (cxlLinkOf a).isSome

/-- The ranges of the CXL links. -/
def cxlSpace : List (Nat × Nat) := (List.range 4).map (fun l => (cxlBase l, 2 ^ 41))

/-- The internal reset (R597): every state is lost but the standby domain, module flash, and what CXL devices hold, whose keys
are destroyed (R664). What has left the module, and the model's own counters, stay. -/
def State.wipe (s : State) : State :=
  let r := State.reset
  let c := s.scramble cxlSpace
  let t : State := { r with
    pending := s.pending, now := s.now, freeCtr := c.freeCtr, cmdSeq := s.cmdSeq
    veil := c.veil.filter (fun v => isCxl v.lo)
    ue := s.ue.filter (fun b => isCxl (b * 64))
    ce := s.ce.filter (fun b => isCxl (b * 64))
    sent := s.sent, framed := s.sent.length, issueSeq := s.issueSeq, telemSeq := s.telemSeq
    fw := { r.fw with flash := s.fw.flash }
    sec := { r.sec with flash := s.sec.flash, serial := s.sec.serial, pres := s.sec.pres, sealOk := s.sec.sealOk }
    pwr := { s.pwr with duty := 16, emerg := false, thermal := false }
    flash := s.flash }
  let t1 := ((t.setFld BOOT_STATUS 63 32 s.flash.boots).setFld CAL_STATUS 63 32 s.flash.hours).setFld BOOT_GRADE 39 32
    ((s.pwr.phases.filter (fun x => x.2 == 2)).length)
  t1.showCap

/-! ### Phases of power (R591 to R597) -/

/-- The module carries out commands: the internal reset is released. -/
def State.alive (s : State) : Bool :=
  match s.pwr.phase with
  | .released => true
  | .running => true
  | .powerDown => !s.pwr.wiped
  | _ => false

/-- A power-down is over: the rails are off, or the power-up that PWR_EN has asked for follows (R596). -/
def State.downEnd (s : State) (finished : Stamp) : State :=
  s.setPwr (fun p =>
    match p.again with
    | some t => { p with phase := .starting, since := max t (finished + 10_000_000), again := none, wiped := true }
    | none => { p with phase := .standby, since := finished, wiped := true })

/-- What time has brought about in a power-down (Table 15-15, R595). -/
def State.powerTick (s : State) : State :=
  match s.pwr.phase with
  | .powerDown =>
    let s1 := if !s.pwr.wiped && s.pwr.since + 1_000_000 ≤ s.now then s.wipe.setPwr (fun p => { p with wiped := true }) else s
    if s.pwr.since + 3_500_000 ≤ s.now then s1.downEnd (s.pwr.since + 3_500_000) else s1
  | .emergencyDown =>
    if s.pwr.since + 2_500_000 ≤ s.now then s.downEnd (s.pwr.since + 2_500_000) else s
  | _ => s

/-- POWER_UP (R591, R593, R596): PWR_EN is sampled high. After a start failure only a rise that ends 100 ms of PWR_EN low
starts the module. -/
def powerUpStep (s : State) : State :=
  let low : Bool := match s.pwr.enLow with
    | some t => t + 100_000_000 ≤ s.now
    | none => false
  let s1 := s.setPwr (fun p => { p with en := true, enLow := none, locked := p.locked && !low })
  if s1.pwr.locked then s1
  else
    match s1.pwr.phase with
    | .standby => s1.setPwr (fun p => { p with phase := .starting, since := s.now })
    | .powerDown => s1.setPwr (fun p => { p with again := some s.now })
    | .emergencyDown => s1.setPwr (fun p => { p with again := some s.now })
    | _ => s1

/-- An emergency power-down with its LAST_SHUTDOWN code (R595); it ends the hold of an orderly one at once (R596). -/
def State.emergencyOff (s : State) (cause : Nat) : State :=
  let go (s : State) : State := s.wipe.setPwr (fun p => { p with phase := .emergencyDown, since := s.now, wiped := true, last := cause })
  match s.pwr.phase with
  | .unpowered => s
  | .standby => s
  | .emergencyDown => s
  | .powerDown => if s.pwr.wiped then s else go s
  | _ => go s

/-- POWER_DOWN (R594, R596): PWR_EN falls. -/
def powerDownStep (s : State) : State :=
  let s1 := s.setPwr (fun p => { p with en := false, enLow := some s.now, again := none })
  let down (s : State) (w : Bool) : State :=
    s.setPwr (fun p => { p with phase := .powerDown, since := s.now, wiped := w, last := 1 })
  match s.pwr.phase with
  | .released => down (s1.event PWR_EVENT 6) false
  | .running =>
    let s2 := s1.event PWR_EVENT 6
    down (if s2.fw.running.isSome then s2.logFree (s2.writerOf 0) 255 2 else s2) false
  | .held => down s1 true
  | .starting => s1.emergencyOff 1
  | _ => s1

/-- START_FAILURE (R593). -/
def startFailureStep (s : State) : State :=
  match s.pwr.phase with
  | .starting => (s.emergencyOff 5).setPwr (fun p => { p with locked := true, alerts := setBit p.alerts 3 })
  | _ => s

/-- INPUT_UNDERVOLTAGE (R595): below 36.0 V outside the ride-through of 20 µs. -/
def inputUndervoltageStep (mv heldNs : Nat) (s : State) : State :=
  if mv < 36000 && 20_000 ≤ heldNs then s.emergencyOff 2 else s

/-- INPUT_OVERVOLTAGE (R595): above 62.0 V for 1 µs. -/
def inputOvervoltageStep (mv heldNs : Nat) (s : State) : State :=
  if 62000 < mv && 1_000 ≤ heldNs then s.emergencyOff 3 else s

/-- RAIL_FAULT (R595): a regulating rail outside ±5 % for 50 µs. -/
def railFaultStep (_r heldNs : Nat) (s : State) : State :=
  if 50_000 ≤ heldNs then s.emergencyOff 6 else s

/-- STANDBY_POWER_ON (R573). -/
def standbyPowerOnStep (s : State) : State :=
  match s.pwr.phase with
  | .unpowered => s.setPwr (fun p => { p with phase := .standby, since := s.now })
  | _ => s

/-- STANDBY_POWER_LOSS (R573, R590): the standby domain's own state is lost as well, the thermal trip latch with it. -/
def standbyPowerLossStep (s : State) : State :=
  s.wipe.setPwr (fun p => { p with
    phase := .unpowered, since := s.now, again := none, wiped := true, locked := false, last := 0, tripped := false
    alerts := 0, chassis := 0 })

/-- THERM_TRIP_RELEASE (R590): PWR_EN has been low for 100 ms. -/
def thermTripReleaseStep (s : State) : State :=
  match s.pwr.enLow with
  | some t => if t + 100_000_000 ≤ s.now then s.setPwr (fun p => { p with tripped := false }) else s
  | none => s

/-- A module reset (R597): held for at least 1 ms and until its cause clears. -/
def State.moduleReset (s : State) (clears : Stamp) : State :=
  match s.pwr.phase with
  | .powerDown => s
  | .released => s.wipe.setPwr (fun p => { p with phase := .held, since := s.now, hold := max (s.now + 1_000_000) clears })
  | .running => s.wipe.setPwr (fun p => { p with phase := .held, since := s.now, hold := max (s.now + 1_000_000) clears })
  | .held => s.setPwr (fun p => { p with hold := max p.hold clears })
  | .starting => s.setPwr (fun p => { p with hold := max p.hold clears })
  | _ => s

/-- MODULE_RESET (R597): MODULE_RESET of PWR_CTRL. -/
def moduleResetStep (s : State) : State := s.moduleReset s.now

/-- MOD_RST_N_ASSERT (R597): low for at least 10 µs; `heldNs` is how long it is low in all. -/
def modRstNAssertStep (heldNs : Nat) (s : State) : State :=
  if 10_000 ≤ heldNs then s.moduleReset (s.now + heldNs) else s

/-- REFCLK_LOSS (R575): a loss longer than 100 µs; the module stays in reset until REFCLK returns. -/
def refclkLossStep (heldNs : Nat) (s : State) : State :=
  if 100_000 < heldNs then s.moduleReset (s.now + heldNs) else s

/-- The internal reset may be released now (Table 15-14 step 10, R597). -/
def State.releasable (s : State) : Bool :=
  match s.pwr.phase with
  | .released => true
  | .starting => s.pwr.since + 8_200_000 ≤ s.now && s.pwr.hold ≤ s.now
  | .held => s.pwr.hold ≤ s.now
  | _ => false

/-! ### Power states (R583 to R586) -/

/-- The power manager shows its state and duties, and reports a change (R584). -/
def State.showPower (s : State) : State :=
  let p := s.pwr
  let st := if p.thermal then 3 else if p.emerg then 2 else if p.duty < 16 then 1 else 0
  let d := min p.duty (min (if p.emerg then 8 else 16) (if p.thermal then 4 else 16))
  let s1 := (s.setFld PWR_STATE 36 32 d).setFld PWR_STATE 44 40 (if p.thermal then 8 else 16)
  if s.fld PWR_STATE 2 0 == st then s1
  else
    let s2 := ((s1.setFld PWR_STATE 2 0 st).setRaw PWR_STATE_STAMP (BitVec.ofNat 64 s1.now)).event PWR_EVENT 0
    let s3 := if st == 0 then s2 else (s2.event PWR_EVENT st).setPwr (fun p => { p with alerts := setBit p.alerts 0 })
    let s4 := if st == 2 then s3.icuEvent 23 else if st == 3 then s3.icuEvent 24 else s3
    s4.holdReport (st == 0)

/-- POWER_WINDOW_END (Table 15-11): the mean input power of a 100 µs window against the effective cap. The duty does not fall
below one sixteenth (log entry 105). -/
def powerWindowEndStep (meanW : Nat) (s : State) : State :=
  let s1 := s.setFld PWR_INPUT 31 16 meanW
  let cap := s.effectiveCap
  (s1.setPwr (fun p => { p with
    duty := if cap < meanW then max 1 (p.duty - 1) else if meanW * 100 < cap * 97 then min 16 (p.duty + 1) else p.duty })).showPower

/-- Active phases of a core region. -/
def Pwr.active (p : Pwr) (r : Nat) : Nat := (p.phases.filter (fun x => x.1 == r && x.2 == 1)).length

/-- POWER_EMERGENCY (Table 15-11): a condition that has held for 10 µs. -/
def powerEmergencyStep (c : PowerCondition) (s : State) : State :=
  let s1 := match c with
    | .inputLow mv => s.setFld PWR_INPUT 63 48 mv
    | .inputCurrent ma => s.setFld PWR_INPUT 47 32 ma
    | .busLow _ => s
    | .phases _ => s
  let holds : Bool := match c with
    | .inputLow mv => mv < 40000
    | .inputCurrent ma => 45000 < ma
    | .busLow mv => mv < 5000
    | .phases r => s.pwr.active r < 7
  if holds then (s1.setPwr (fun p => { p with emerg := true })).showPower else s1

/-- POWER_EMERGENCY_CLEAR: every condition has been clear for 1 ms. -/
def powerEmergencyClearStep (s : State) : State :=
  if (List.range 4).any (fun r => s.pwr.active r < 7) then s else (s.setPwr (fun p => { p with emerg := false })).showPower

/-- THERMAL_SAMPLE (R589, R590): temperatures in units of 0.125 °C, in the order of PWR_THERM. -/
def thermalSampleStep (temps : List Int) (s : State) : State :=
  let s1 := temps.zipIdx.foldl (fun s x => if x.2 < 16 then s.setFld (PWR_THERM x.2) 15 0 (ofSigned 16 x.1) else s) s
  let limited := temps.zipIdx.filter (fun x => x.2 < 15)
  let emergOf (i : Nat) : Int := s.fld (PWR_THERM i) 47 40 * 8
  let tripOf (i : Nat) : Int := s.fld (PWR_THERM i) 39 32 * 8
  let hot : Bool := (temps.drop 15).head?.any (fun x => decide (45 * 8 < x))
  let s2 := if hot then s1.setPwr (fun p => { p with alerts := setBit p.alerts 1 }) else s1
  if limited.any (fun x => tripOf x.2 ≤ x.1) then
    (s2.setPwr (fun p => { p with tripped := true, alerts := setBit p.alerts 4 })).emergencyOff 4
  else if limited.any (fun x => emergOf x.2 ≤ x.1) then (s2.setPwr (fun p => { p with thermal := true })).showPower
  else if limited.all (fun x => x.1 ≤ emergOf x.2 - 40) then (s2.setPwr (fun p => { p with thermal := false })).showPower
  else s2

/-- Change a regulator phase. -/
def State.setPhase (s : State) (k : Nat) (v : Nat × Nat) : State :=
  s.setPwr (fun p => { p with phases := modifyAt p.phases k (fun _ => v) })

/-- Show the number of spare phases. -/
def State.showPhases (s : State) : State :=
  let n := (s.pwr.phases.filter (fun x => x.2 == 2)).length
  let s1 := s.setFld BOOT_GRADE 39 32 n
  if n == 0 && s.fld BOOT_GRADE 39 32 != 0 then s1.event BOOT_EVENT 4 else s1

/-- PHASE_FAULT (R582): the phase leaves its loop, and the spare of lowest number joins the region. -/
def phaseFaultStep (k : Nat) (s : State) : State :=
  let x := s.pwr.phases.getD k (15, 0)
  if x.2 != 1 then s
  else
    let s1 := (s.setPhase k (x.1, 4)).report ⟨11, k, 0, .uncorrectable⟩
    let s2 := match (List.range 34).find? (fun i => (s1.pwr.phases.getD i (15, 0)).2 == 2) with
      | some i => ((s1.setPhase i (x.1, 1)).event PWR_EVENT 4).showPhases
      | none => s1
    if s2.pwr.active x.1 < 7 then ((s2.event PWR_EVENT 5).setPwr (fun p => { p with emerg := true })).showPower else s2

/-- PHASE_REENABLE (R609): once, 1 s after its removal. A phase that works again joins its region where that is short, and is a
spare otherwise. -/
def phaseReenableStep (k : Nat) (ok : Bool) (s : State) : State :=
  let x := s.pwr.phases.getD k (15, 0)
  if x.2 != 4 then s
  else if ok then
    let s1 := s.report ⟨11, k, 0, .retrySucceeded⟩
    if s.pwr.active x.1 < 8 then s1.setPhase k (x.1, 1) else (s1.setPhase k (15, 2)).showPhases
  else s.report ⟨11, k, 0, .retryFailed⟩

/-- RAIL_OFFSET_WRITE (R606): a write above 8 is ignored, and rails without an offset have the field reserved. -/
def railOffsetWriteStep (r steps : Nat) (s : State) : State :=
  if r < 4 && steps ≤ 8 then s.setFld (PWR_RAIL r) 15 12 steps else s

/-- I3C_CAP_W_WRITE (R577, R578). -/
def i3cCapWWriteStep (w : Nat) (s : State) : State :=
  match s.pwr.phase with
  | .unpowered => s
  | _ => (s.setPwr (fun p => { p with chassis := w })).showCap

/-- ALERT_N is asserted (R586). -/
def State.alert (s : State) : Bool := s.fld PWR_STATE 2 0 != 0 || s.pwr.alerts != 0

/-- PWR_GOOD is high (R592). -/
def State.pwrGood (s : State) : Bool :=
  match s.pwr.phase with
  | .released => true
  | .running => true
  | _ => false

/-- Every rail regulates (Table 15-14 step 9, Table 15-15). -/
def State.railsUp (s : State) : Bool :=
  match s.pwr.phase with
  | .unpowered => false
  | .standby => false
  | .starting => s.pwr.since + 8_100_000 ≤ s.now
  | .released => true
  | .running => true
  | .powerDown => !s.pwr.wiped
  | .emergencyDown => false
  | .held => true

/-- The hottest of some sensors, in whole degrees. -/
def State.hottest (s : State) (sensors : List Nat) : Int :=
  (sensors.map (fun i => toSigned 16 (s.fld (PWR_THERM i) 15 0) / 8)).foldl (fun (m x : Int) => max m x) (-4096)

/-- The registers of the I3C target at offsets 0x00 to 0x12 (Table 15-8). -/
def State.i3cHead (s : State) : List Byte :=
  let bit (i : Nat) (b : Bool) : Nat := if b then 2 ^ i else 0
  let on : Bool := s.pwr.phase != .unpowered
  toLE 2 0x4A44 ++ toLE 2 0x0009 ++ toLE 1 s.grade ++
  toLE 1 (bit 0 on + bit 1 s.railsUp + bit 2 s.pwrGood + bit 3 s.alert + bit 4 s.pwr.tripped +
    bit 5 ((s.sec.sealOk.head?.map (fun e => e.2)).getD false) + bit 6 ((s.sec.pres.head?.map (fun e => e.2)).getD false)) ++
  toLE 1 (if s.railsUp then s.fld PWR_STATE 2 0 else 0xFF) ++ toLE 1 s.pwr.last ++
  toLE 2 (s.fld PWR_INPUT 63 48) ++ toLE 2 (s.fld PWR_INPUT 47 32) ++ toLE 2 (s.fld PWR_INPUT 31 16) ++
  toLE 1 (ofSigned 8 (s.hottest [0, 1, 2, 3, 4, 5])) ++ toLE 1 (ofSigned 8 (s.hottest [6, 7, 8, 9, 10, 11, 12, 13])) ++
  toLE 2 s.pwr.chassis ++ toLE 1 s.pwr.alerts

/-- What the I3C target shows at an offset (R577, Table 15-8): none where the table has no register, or without standby power. -/
def State.i3cByte (s : State) (off : Nat) : Option Byte :=
  if s.pwr.phase == .unpowered then none
  else if off < 0x13 then s.i3cHead[off]?
  else if 0x20 ≤ off && off < 0x30 then s.sec.serial[off - 0x20]?
  else none

/-- I3C_ALERT_CAUSE_READ (R577). -/
def i3cAlertCauseReadStep (s : State) : State :=
  match s.pwr.phase with
  | .unpowered => s
  | _ => ({ s with lastRead := BitVec.ofNat 64 (((s.i3cByte 0x12).getD 0).toNat) } : State).setPwr (fun p => { p with alerts := 0 })

/-! ### CXL links (R600 to R605, R666, R667) -/

/-- A CXL link beside its registers. -/
def State.port (s : State) (l : Nat) : CxlPort := s.cxl.getD l {}

/-- Change a CXL link. -/
def State.setPort (s : State) (l : Nat) (f : CxlPort → CxlPort) : State := { s with cxl := modifyAt s.cxl l f }

/-- STATE of CXL_LINK. -/
def State.linkState (s : State) (l : Nat) : Nat := s.fld (CXL_LINK l) 34 32

/-- A link is up. -/
def State.cxlUp (s : State) (l : Nat) : Bool := s.linkState l == 2 || s.linkState l == 3

/-- Show a link's state in CXL_LINK and in TIER_CXL_STATE. -/
def State.setLink (s : State) (l st : Nat) : State :=
  ((s.setFld (CXL_LINK l) 34 32 st).setFld (CXL_LINK l) 28 24 (if st == 2 then 16 else if st == 3 then 8 else 0)).setFld
    TIER_CXL_STATE (8 * l + 7) (8 * l) st

/-- A link may run at a width: x16 without faulty lanes, x8 with a half without faulty lanes (R601). -/
def State.widthFits (s : State) (l w : Nat) : Bool :=
  let f := s.fld (CXL_LINK l) 15 0
  (w == 16 && f == 0) || (w == 8 && (f % 256 == 0 || f / 256 == 0))

/-- The default CXL range of a partition on a link (Table 12-1), applied when the device has trained to a partition that has
no range on the link; a part that another partition holds by APPLY is not given a second owner (R460). -/
def State.defaultRange (s : State) (l : Nat) : State :=
  let n := s.fld (CXL_LINK l) 51 40 / 16
  (List.range 16).foldl (fun s p =>
    let a := (s.part p).assign
    let held : Bool := (List.range 16).any (fun q =>
      let r := (s.part q).assign.cxl.getD l (0, 0, 0)
      r.1 != 0 && rangesMeet (p * n, n) (r.2.1, r.2.2))
    if n == 0 || s.partState p != 2 || (a.cxl.getD l (0, 0, 0)).1 != 0 || held then s
    else
      let s1 := ((s.setFld (PRT_CXL p l) 63 56 1).setFld (PRT_CXL p l) 43 32 (p * n)).setFld (PRT_CXL p l) 11 0 n
      let rs := modifyAt (a.cxl ++ List.replicate (4 - a.cxl.length) (0, 0, 0)) l (fun _ => (1, p * n, n))
      -- what the device holds there was written under no key of this partition (R665)
      (s1.scramble [(cxlBase l + p * n * 2 ^ 30, n * 2 ^ 30)]).setPart p (fun x => { x with assign := { a with cxl := rs } })) s

/-- CXL_LINK_UP (R601, R666): a training attempt ends. -/
def cxlLinkUpStep (l : Nat) (d : CxlTraining) (s : State) : State :=
  if !s.bit CXL_CTRL l || !s.ready rdyFw || s.cxlUp l || s.linkState l == 4 then s
  else if !d.present then s.setLink l 0
  else
    let s0 := s.setPort l (fun x => { x with tryAt := s.now })
    if !s.widthFits l d.width then s0.setLink l 1
    else if !d.secure then (s0.setLink l 1).event SEC_EVENT 5
    else
      let s1 := (s0.setLink l (if d.width == 16 then 2 else 3)).setFld (CXL_LINK l) 51 40 (min 2048 d.capGib)
      let s2 := if d.width == 8 then s1.event TIER_EVENT (8 + l) else s1
      ((s2.event CXL_EVENT l).setReady (rdyCxl l) true).defaultRange l

/-- CXL_TRAIN_RETRY (R601): a link that has not trained is tried again every second. -/
def cxlTrainRetryStep (l : Nat) (s : State) : State :=
  if s.linkState l == 1 && (s.port l).tryAt + 1_000_000_000 ≤ s.now then s.setPort l (fun x => { x with tryAt := s.now }) else s

/-- CXL_DEVICE_LOST (R132, R603): nothing of its range is memory any more. -/
def State.cxlLost (s : State) (l : Nat) : State :=
  let s1 := (s.setPort l (fun x => { x with window := none, ide := [] })).setLink l 4
  let s2 := ((s1.setFld (CXL_LINK l) 51 40 0).setReady (rdyCxl l) false).event CXL_EVENT (4 + l)
  let s3 := (s2.event TIER_EVENT (4 + l)).logFree (s2.writerOf 3) 255 2
  ((s3.markLost l).markKvLost).fetchesLost

/-- CXL_LINK_EXIT (R603): the recovery window opens; accesses in it wait. -/
def cxlLinkExitStep (l : Nat) (s : State) : State :=
  if s.cxlUp l && (s.port l).window.isNone then
    (s.setPort l (fun x => { x with window := some s.now })).bump (CXL_ERR_CNT l) 63 48 1
  else s

/-- A recovery window lasts 100 ms. -/
def recoveryNs : Nat := 100_000_000

/-- CXL_LINK_RECOVER (R602, R603): the link is active again. The device is kept only when it comes back within the window, not
through detection and without a reset. -/
def cxlLinkRecoverStep (l width : Nat) (how : CxlReturn) (s : State) : State :=
  match (s.port l).window with
  | none => if how == .deviceReset && s.cxlUp l then s.cxlLost l else s
  | some t =>
    if how != .active || t + recoveryNs ≤ s.now || !s.widthFits l width then s.cxlLost l
    else
      let s1 := (s.setPort l (fun x => { x with window := none })).setLink l (if width == 16 then 2 else 3)
      (if width == 8 && s.linkState l == 2 then s1.event TIER_EVENT (8 + l) else s1).event CXL_EVENT (8 + l)

/-- CXL_RECOVERY_TIMEOUT (R603). -/
def cxlRecoveryTimeoutStep (l : Nat) (s : State) : State :=
  match (s.port l).window with
  | none => s
  | some t => if t + recoveryNs ≤ s.now then s.cxlLost l else s

/-- REARM (R605): a lost link trains again; what the device holds is undefined. -/
def rearmStep (l : Nat) (s : State) : State :=
  if s.linkState l == 4 then (s.scramble [(cxlBase l, 2 ^ 41)]).setLink l 1 else s

/-- IDE_INTEGRITY_FAILURE (R604, R667): an uncorrectable read on the link; three within one second lose it. -/
def ideIntegrityFailureStep (l addr : Nat) (s : State) : State :=
  if !s.cxlUp l then s
  else
    let s1 := s.dramUe (if cxlLinkOf addr == some l then addr else cxlBase l)
    let recent := s.now :: (s.port l).ide.filter (fun t => s.now < t + 1_000_000_000)
    if 3 ≤ recent.length then s1.cxlLost l else s1.setPort l (fun x => { x with ide := recent })

/-- IDE_KEY_REFRESH (R666): new keys, without a recovery window. -/
def ideKeyRefreshStep (l : Nat) (s : State) : State :=
  if s.cxlUp l then s.setPort l (fun x => { x with keys := x.keys + 1 }) else s

/-- A lane of a link is permanently faulty (R602): the link goes on at x8 on the other half, or ends. -/
def State.cxlLaneFault (s : State) (l lane : Nat) : State :=
  let s1 := s.setFld (CXL_LINK l) lane lane 1
  if !s.cxlUp l then s1
  else if !s1.widthFits l 8 then s1.cxlLost l
  else if s.linkState l == 2 then (s1.setLink l 3).event TIER_EVENT (8 + l)
  else s1

end Sys2Proof.Machine
end

