-- ==== Sys2Proof/Machine/Faults.lean ====
section
/-! DEFINITION. Faults, spares and ageing (spec/16): the fault classifier, what a permanent resource costs, spare swaps and
migrations, live tests, Calipers and margin plans. -/

namespace Sys2Proof.Machine

/-- Change the Calipers' own state. -/
def State.setCal (s : State) (f : Cal → Cal) : State := { s with cal := f s.cal }

/-! ### Withdrawal (R20) -/

/-- A function is withdrawn (R20): its readiness bit clears and its ETA says so (R641). -/
def State.withdraw (s : State) (b : Nat) : State :=
  ((s.setReady b false).setRaw (BOOT_ETA b) (BitVec.allOnes 64)).event BOOT_EVENT 2

/-! ### Lathes and walkers (R614, R616, R618, R619) -/

/-- STATE and LOGICAL of a physical Lathe, and of a physical walker. -/
def State.latheState (s : State) (n : Nat) : Nat := s.fld (LTH_ARRAY n) 18 16
def State.latheLogical (s : State) (n : Nat) : Nat := s.fld (LTH_ARRAY n) 39 32
def State.walkerState (s : State) (w : Nat) : Nat := s.fld (GGE_WALKER w) 18 16
def State.walkerLogical (s : State) (w : Nat) : Nat := s.fld (GGE_WALKER w) 39 32

/-- Spare Lathes, in the order in which a Lathe takes them: those of its region first (Table 16-3). -/
def State.latheSpares (s : State) (n : Nat) : List Nat :=
  let all := (List.range 56).filter (fun m => s.latheState m == 5)
  all.filter (fun m => m / 14 == n / 14) ++ all.filter (fun m => m / 14 != n / 14)

/-- Spare walkers: without a logical number, not retired, not under test. -/
def State.walkerSpares (s : State) : List Nat :=
  (List.range 72).filter (fun w => s.walkerState w == 0 && s.walkerLogical w == 255 && !s.faults.tests.contains (5, w))

/-- Show how many spares remain; units under test count, for they come back. -/
def State.showSpares (s : State) : State :=
  let l := ((List.range 56).filter (fun m => s.latheState m == 5 || (s.latheState m == 2 && s.latheLogical m == 255))).length
  let w := s.walkerSpares.length + (s.faults.tests.filter (fun x => x.1 == 5)).length
  let out : Bool := (l == 0 && s.fld BOOT_GRADE 15 8 != 0) || (w == 0 && s.fld BOOT_GRADE 23 16 != 0)
  let s1 := (s.setFld BOOT_GRADE 15 8 l).setFld BOOT_GRADE 23 16 w
  if out then s1.event BOOT_EVENT 4 else s1

/-- The partition that an assignment gives a logical Lathe, walker or way to. -/
def State.holderOf (s : State) (f : Assign → Nat) (l : Nat) : Option Nat :=
  (List.range 16).find? (fun p => (f (s.part p).assign).testBit l)

/-- A partition goes on with one Lathe fewer (R316). -/
def State.loseLathe (s : State) (n : Nat) : State :=
  let l := s.latheLogical n
  let s1 := (s.setFld (LTH_ARRAY n) 39 32 255).setFld (LTH_ARRAY n) 19 19 0
  match s.holderOf (fun a => a.lathes) l with
  | none => s1
  | some p =>
    let a := (s.part p).assign
    let b : Assign := { a with lathes := clearBit a.lathes l, shares := a.shares.map (fun (x : Nat × Nat) => (x.1, clearBit x.2 l)) }
    let s2 := (List.range 16).foldl (fun s c => s.setFld (PRT_CTX_CFG p c) 47 0 (clearBit (s.fld (PRT_CTX_CFG p c) 47 0) l))
      (s1.setFld (PRT_LATHES p) 47 0 (clearBit (s1.fld (PRT_LATHES p) 47 0) l))
    s2.install p b

/-- The partition whose step in progress uses a Lathe. -/
def State.stepOn (s : State) (n : Nat) : Option Nat :=
  (s.latheOwner n).bind (fun p => if (s.runner p).active && (s.laneOf p (s.runner p).ctx n).isSome then some p else none)

/-- The step of a partition runs again from its start (R318). -/
def State.rerunStep (s : State) (p : Option Nat) : State :=
  match p with
  | none => s
  | some p => (s.abortKernels p (s.runner p).ctx).againStep p

/-- A retired Lathe asks for a spare: the next one wakes for its entry test (Table 16-5); while the only one is under test the
decision waits for it (R623). Where no spare comes now, the step of the partition runs again with one Lathe fewer. -/
def State.latheSwap (s : State) (n : Nat) : State :=
  match s.latheSpares n with
  | m :: _ =>
    let s1 := (s.setFld (LTH_ARRAY m) 18 16 2).setFaults (fun f => { f with entry := f.entry ++ [(n, m)] })
    s1.askLathe m
  | [] =>
    let p := s.stepOn n
    (if s.faults.tests.any (fun x => x.1 == 4) then s.setFaults (fun f => { f with owed := f.owed ++ [(4, n)] })
     else s.loseLathe n).rerunStep p

/-- A retired Lathe runs nothing any more: the kernels of its step are aborted on every Lathe of the plan (R316, R318). -/
def State.stopLathe (s : State) (n : Nat) : State :=
  (match s.stepOn n with
   | some p => s.abortKernels p (s.runner p).ctx
   | none => s).abortLathe n

/-- A Lathe becomes permanent (R316, R618). -/
def State.lathePermanent (s : State) (n cls : Nat) : State :=
  let inUse : Bool := s.latheLogical n != 255
  let s0 := s.stopLathe n
  let s1 := ((s0.setFld (LTH_ARRAY n) 18 16 3).event LTH_EVENT 5).showSpares
  let s2 := s1.recordPermanent 4 n 0 cls (if !inUse then 0 else if (s1.latheSpares n).isEmpty && !s1.faults.tests.any (fun x => x.1 == 4)
    then 3 else 1)
  if inUse then s2.latheSwap n else s2

/-- LOGICAL and OWNER move from one Lathe to another (R19, R317). -/
def State.moveLathe (s : State) (n m : Nat) : State :=
  let l := s.latheLogical n
  let s1 := ((s.setFld (LTH_ARRAY m) 39 32 l).setFld (LTH_ARRAY m) 23 19 (s.fld (LTH_ARRAY n) 23 19)).setFld (LTH_ARRAY m) 18 16 1
  let s2 := (s1.setFld (LTH_ARRAY n) 39 32 255).setFld (LTH_ARRAY n) 23 19 0
  s2.setFlash (fun f => { f with map := f.map.filter (fun e => !(e.1 == 4 && e.2.1 == l)) ++ [(4, l, m)] })

/-- Empty every slot of a Lathe. -/
def State.emptyLathe (s : State) (n : Nat) : State :=
  ((((s.lathe n).slots.map (fun e => e.1)).foldl (fun s i => s.emptySlot n i) s).setLathe n (fun _ => {})).setRunning n false

/-- SPARE_ENTRY_TEST_COMPLETE (R618): the spare, once awake, takes the failed Lathe's place with every slot EMPTY, or is permanent
itself. -/
def spareEntryTestCompleteStep (m : Nat) (pass : Bool) (s : State) : State :=
  match s.faults.entry.find? (fun e => e.2 == m) with
  | none => s
  | some e =>
    if s.bit (LTH_ARRAY m) 1 then s else
    let s1 := s.setFaults (fun f => { f with entry := f.entry.filter (fun x => x.2 != m) })
    if pass then
      let s2 := (((s1.emptyLathe e.1).moveLathe e.1 m).emptyLathe m).showSpares
      let s3 := match s2.latheOwner m with
        | some p => s2.recheckPlans p
        | none => s2
      s3.rerunStep (s3.stepOn m)
    else (s1.lathePermanent m 3).latheSwap e.1

/-- LOGICAL and OWNER move from one walker to another. -/
def State.moveWalker (s : State) (w v : Nat) : State :=
  let l := s.walkerLogical w
  let s1 := ((s.setFld (GGE_WALKER v) 39 32 l).setFld (GGE_WALKER v) 23 19 (s.fld (GGE_WALKER w) 23 19)).setFld (GGE_WALKER v) 18 16 1
  let s2 := (s1.setFld (GGE_WALKER w) 39 32 255).setFld (GGE_WALKER w) 23 19 0
  s2.setFlash (fun f => { f with map := f.map.filter (fun e => !(e.1 == 5 && e.2.1 == l)) ++ [(5, l, v)] })

/-- A walker without a spare is withdrawn (R20). -/
def State.loseWalker (s : State) (w : Nat) : State :=
  let l := s.walkerLogical w
  let s1 := (s.setFld (GGE_WALKER w) 39 32 255).setFld (GGE_WALKER w) 19 19 0
  match s.holderOf (fun a => a.walkers) l with
  | none => s1
  | some p =>
    let a := (s.part p).assign
    (s1.setRaw (PRT_WALKERS p) (BitVec.ofNat 64 (clearBit (s1.raw (PRT_WALKERS p)).toNat l))).install p
      { a with walkers := clearBit a.walkers l }

/-- A walker becomes permanent: its searches restart as under R239. -/
def State.walkerPermanent (s : State) (done : Nat → State → State) (w cls : Nat) : State :=
  let inUse : Bool := s.walkerLogical w != 255
  let s1 := s.setFld (GGE_WALKER w) 18 16 3
  let waits : Bool := s1.walkerSpares.isEmpty && s1.faults.tests.any (fun x => x.1 == 5)
  let s2 := s1.recordPermanent 5 w 0 cls (if !inUse then 0 else if s1.walkerSpares.isEmpty && !waits then 3 else 1)
  if !inUse then s2.showSpares
  else
    let s3 := match s2.walkerSpares with
      | v :: _ => s2.moveWalker w v
      | [] => if waits then s2.setFaults (fun f => { f with owed := f.owed ++ [(5, w)] }) else s2.loseWalker w
    ((s3.failMergeOn w).restartSearches w done).showSpares

/-! ### Pseudo-channels (R612, R616, R617, R620) -/

/-- Logical number of a physical pseudo-channel. -/
def State.pchLogical (s : State) (g : Nat) : Nat := s.fld (SPN_ENGINE g) 39 32

/-- A reserved-range index names memory: its pseudo-channel is a spare still free (R31, R617). -/
def State.reservedPch (s : State) (k : Nat) : Option Nat := s.physPch (k / 2) (30 + k % 2)

/-- The reserved-range indices that hold a copy of the firmware region. -/
def State.copyAt (s : State) : List Nat := [s.fld BOOT_PCH_SPARES 47 40, s.fld BOOT_PCH_SPARES 55 48]

/-- Spares of a stack in the order in which a migration takes them (R616): reserved-range indices. -/
def State.pchSpares (s : State) (stack : Nat) : List Nat :=
  let free := [2 * stack, 2 * stack + 1].filter (fun k => (s.reservedPch k).isSome && !s.faults.moves.any (fun m => some m.dst == s.reservedPch k))
  free.filter (fun k => !s.copyAt.contains k) ++ free.filter (fun k => s.copyAt.contains k)

/-- Base of a reserved-range index. -/
def reservedBase (k : Nat) : Nat := 0x00F0_0000_0000 + k * 2 ^ 32

/-- One free spare fewer in a stack. -/
def State.pchUsed (s : State) (stack : Nat) : State :=
  let n := s.fld BOOT_PCH_SPARES (4 * stack + 3) (4 * stack) - 1
  let s1 := s.setFld BOOT_PCH_SPARES (4 * stack + 3) (4 * stack) n
  if n == 0 then s1.event BOOT_EVENT 4 else s1

/-- What is copied into other cells holds no correctable error there (R612, R620): the bursts of a pseudo-channel, or of one row of
it. -/
def State.freshCells (s : State) (g : Nat) (row : Option Nat) : State :=
  { s with ce := s.ce.filter (fun b => match s.pchOf (b * 64) with
    | some u => !(u.1 == g && row.all (fun r => Config.dramRow u.2 == r))
    | none => true) }

/-- Start a migration of a pseudo-channel to a spare of its stack. -/
def State.startMove (s : State) (g : Nat) : State :=
  match s.pchSpares (g / 32) with
  | [] => s
  | k :: _ =>
    let m : PchMove := ⟨g, (s.reservedPch k).getD 0, s.copyAt.contains k, s.now⟩
    (s.setFld (SPN_ENGINE g) 18 16 2).setFaults (fun f => { f with moves := f.moves ++ [m] })

/-- The range of `n` bytes at `src` is copied to `dst`, whole bursts, uncorrectable ones poisoned (Table 4-15). -/
def State.copyRange (s : State) (src dst n : Nat) : State :=
  let cells := s.mem.filter (fun e => src ≤ e.1 && e.1 < src + n)
  let bad := s.ue.filter (fun b => burstWhole src n b)
  let s1 := s.zeroRange dst n
  bad.foldl (fun s b => s.poison ((dst + (b * 64 - src)) / 64))
    { s1 with
      mem := cells.foldl (fun m e => sparseSet 0 m (dst + (e.1 - src)) e.2) s1.mem
      veil := copyVeil s.veil src dst n ++ s1.veil }

/-- Move a firmware copy off reserved-range index `k` (R616): to the free one of lowest offset on a stack without the other copy;
with none, a single copy stays. -/
def State.moveCopy (s : State) (k : Nat) : State :=
  let primary : Bool := s.fld BOOT_PCH_SPARES 47 40 == k
  let other := if primary then s.fld BOOT_PCH_SPARES 55 48 else s.fld BOOT_PCH_SPARES 47 40
  let busy (g : Nat) : Bool := s.faults.moves.any (fun m => m.dst == g)
  let dest := (List.range 16).find? (fun j => j != k && j / 2 != other / 2 && (match s.reservedPch j with
    | some g => !busy g
    | none => false))
  let old := reservedBase k
  match dest with
  | some j =>
    let s2 := (s.copyRange old (reservedBase j) 0x1000_0000).zeroRange old 0x1000_0000
    if primary then (s2.setFld BOOT_PCH_SPARES 47 40 j).setFld WDN_LOG_BASE 47 0 (reservedBase j + 0x200_0000)
    else s2.setFld BOOT_PCH_SPARES 55 48 j
  | none =>
    let s1 := (s.zeroRange old 0x1000_0000).event BOOT_EVENT 6
    let s2 := if primary && other != 255 then
        (s1.setFld BOOT_PCH_SPARES 47 40 other).setFld WDN_LOG_BASE 47 0 (reservedBase other + 0x200_0000)
      else s1
    s2.setFld BOOT_PCH_SPARES 55 48 255

/-- A pseudo-channel becomes permanent (Table 16-2): it migrates, waits for the migration of its stack (R617), or stays in service
degraded. A spare one leaves the spares. -/
def State.pchPermanent (s : State) (g cls : Nat) : State :=
  let l := s.pchLogical g
  if l == 255 then s.recordPermanent 2 g 0 cls 0
  else if 30 ≤ l then
    let k := g / 32 * 2 + (l - 30)
    let s1 := if s.copyAt.contains k then s.moveCopy k else s
    let s2 := (s1.setFld (SPN_ENGINE g) 18 16 3).setFld (SPN_ENGINE g) 39 32 255
    (s2.pchUsed (g / 32)).recordPermanent 2 g 0 cls 3
  else if s.faults.moves.any (fun m => m.src / 32 == g / 32) then
    (s.setFaults (fun f => { f with queue := f.queue ++ [g] })).recordPermanent 2 g 0 cls 1
  else if (s.pchSpares (g / 32)).isEmpty then s.recordPermanent 2 g 0 cls 4
  else (s.startMove g).recordPermanent 2 g 0 cls 1

/-- FW_COPY_MOVE_COMPLETE (R616): the firmware copy has left the spare, and the copy of the pseudo-channel starts. -/
def fwCopyMoveCompleteStep (stack : Nat) (s : State) : State :=
  match s.faults.moves.find? (fun m => m.src / 32 == stack && m.move) with
  | none => s
  | some m =>
    (s.moveCopy (2 * stack + (s.pchLogical m.dst - 30))).setFaults (fun f => { f with
      moves := updateWhere f.moves (fun x => x.src == m.src) (fun x => { x with move := false, began := s.now }) })

/-- Time of the copy of 4 GiB (Table 16-6). -/
def pchCopyNs : Nat := 115_470_000

/-- PCH_MIGRATION_SWITCH (R620): the logical number and its owner move to the spare; its reserved offset maps no memory any more
(R617). Waiting decisions of the stack follow. -/
def pchMigrationSwitchStep (stack : Nat) (s : State) : State :=
  match s.faults.moves.find? (fun m => m.src / 32 == stack && !m.move && m.began + pchCopyNs ≤ s.now) with
  | none => s
  | some m =>
    let l := s.pchLogical m.src
    let k := 2 * stack + (s.pchLogical m.dst - 30)
    let s0 := (s.freshCells m.src none).zeroRange (reservedBase k) (2 ^ 32)
    let s1 := ((s0.setFld (SPN_ENGINE m.dst) 39 32 l).setFld (SPN_ENGINE m.dst) 23 19 (s.fld (SPN_ENGINE m.src) 23 19)).setFld
      (SPN_ENGINE m.dst) 18 16 1
    let s2 := ((s1.setFld (SPN_ENGINE m.src) 39 32 255).setFld (SPN_ENGINE m.src) 23 19 0).setFld (SPN_ENGINE m.src) 18 16 3
    let next := s2.faults.queue.find? (fun g => g / 32 == stack)
    let s3 := ((s2.setFaults (fun f => { f with
      moves := f.moves.filter (fun x => x.src != m.src), queue := f.queue.filter (fun g => some g != next) })).setFlash (fun f =>
        { f with map := f.map.filter (fun e => !(e.1 == 2 && e.2.1 == stack * 32 + l)) ++ [(2, stack * 32 + l, m.dst)] })).pchUsed stack
    match next with
    | some g => s3.startMove g
    | none => s3

/-- A DRAM row becomes permanent (R612): its contents go to a spare row of its bank and one of the pseudo-channel's 64 remap entries
points there; uncorrectable bursts arrive poisoned. Without a free entry or a spare row the pseudo-channel is permanent. Whether the
bank has a spare row left is a free value (log entry 71). -/
def State.rowPermanent (s0 : State) (g row cls : Nat) : State :=
  let s := s0.tick
  if (s.faults.remap.filter (fun e => e.1 == g)).length < 64 && Config.freeBelow s0.freeCtr 2 == 1 then
    ((s.freshCells g (some row)).setFaults (fun f => { f with remap := f.remap ++ [(g, row)] })).recordPermanent 1 g row cls 2
  else
    let s1 := s.recordPermanent 1 g row cls 0
    if s1.isPermanent 2 g 0 then s1 else s1.pchPermanent g cls

/-! ### Other resources (Table 16-2) -/

/-- A Tool store way becomes permanent (R613): contexts that hold it are torn down, and its partition goes on without it. -/
def State.wayPermanent (s : State) (w cls : Nat) : State :=
  match s.holderOf (fun a => a.ways) w with
  | none => s.recordPermanent 8 w 0 cls 3
  | some p =>
    let held := (List.range 16).filter (fun c => (s.share p c).1.testBit w && s.ctxState p c == 1)
    let s1 := (held.foldl (fun s c => s.tearContext p c stContextTornDown) s).endTears p (fun t => held.contains t.ctx)
    let a := (s1.part p).assign
    let drop (m : Nat) : Nat := clearBit m w
    let s2 := (List.range 16).foldl (fun s c => s.setRaw (PRT_CTX_SHARE p c) (BitVec.ofNat 64 (drop (s.raw (PRT_CTX_SHARE p c)).toNat)))
      (s1.setRaw (PRT_WAYS p) (BitVec.ofNat 64 (drop (s1.raw (PRT_WAYS p)).toNat)))
    let b : Assign := { a with ways := drop a.ways, shares := a.shares.map (fun (x : Nat × Nat) => (drop x.1, x.2)) }
    (s2.install p b).recordPermanent 8 w 0 cls 3

/-- A selection unit is withdrawn; with the last one the function goes. -/
def State.selPermanent (s : State) (u cls : Nat) : State :=
  let s1 := (s.setFld (SEL_UNIT u) 18 16 3).recordPermanent 6 u 0 cls 3
  if (List.range 8).any (fun v => s1.fld (SEL_UNIT v) 18 16 == 1) then s1 else s1.withdraw rdySelection

/-- A tokenizer engine is withdrawn; with the last one the function goes. -/
def State.tokPermanent (s : State) (e cls : Nat) : State :=
  let s1 := ({ s with engines := modifyAt s.engines e (fun _ => 3) } : State).recordPermanent 7 e 0 cls 3
  if s1.engines.any (fun x => x == 1) then s1 else s1.withdraw rdyTokenizer

/-- A regulator phase is retired. -/
def State.phasePermanent (s : State) (k cls : Nat) : State :=
  ((s.setPhase k (15, 3)).setPwr (fun p => { p with alerts := setBit p.alerts 2 })).recordPermanent 11 k 0 cls 1

/-- The I/O die's PLL pair (log entry 41): the compute die's are pairs 0 to 3. -/
def iodPll : Nat := 4

/-- The root of trust fails for good: a module reset, or a failed boot. -/
def State.rotPermanent (s : State) (cls : Nat) : State :=
  let s1 := s.recordPermanent 18 0 0 cls 5
  if s1.fw.running.isSome then s1.moduleReset s1.now else s1

/-- The unit of an SRAM with no line left to retire is withdrawn (Table 16-2): the Headstock, the tokenizers and the Jig are each the
only one of their kind, so that their function leaves the readiness bitmap (R20). The instance numbers are the model's (log entry
71). -/
def State.sramWithdraw (s : State) (inst : Nat) : State :=
  match inst with
  | 0 => s.withdraw rdyHeadstock
  | 1 => s.withdraw rdyTokenizer
  | 2 => s.withdraw rdyJig
  | _ => s.event BOOT_EVENT 2

/-- Entries of a base-die store: query slots, codebook units, parameter slots (Table 4-1). -/
def storeEntries (store : Nat) : Nat := if store == 0 then 16384 else if store == 1 then 64 else 256

/-- A base-die store has no spare row left: the slot or unit that the row holds is withdrawn (Table 16-2), so that no write makes it
valid again. Which one the row holds is a free value (log entry 71). -/
def State.storeWithdraw (s : State) (stack store : Nat) : State :=
  let e := (stack, store, Config.freeBelow s.freeCtr (storeEntries store))
  { s.tick with spn := { s.spn with gone := if s.spn.gone.contains e then s.spn.gone else s.spn.gone ++ [e] } }

/-- PERMANENT_DECISION (R611): a permanent resource takes its spare or its no-spare action. -/
def State.permanent (s : State) (done : Nat → State → State) (kind inst detail cls : Nat) : State :=
  if s.isPermanent kind inst detail then s
  else
    match kind with
    | 1 => s.rowPermanent inst detail cls
    | 2 => s.pchPermanent inst cls
    | 3 =>
      let full : Bool := 16 ≤ (s.faults.rows.filter (fun e => e.1 == inst && e.2 == detail / 2 ^ 16)).length
      if full then
        (s.recordPermanent 3 inst detail cls 3).storeWithdraw inst (detail / 2 ^ 16)
      else (s.setFaults (fun f => { f with rows := f.rows ++ [(inst, detail / 2 ^ 16)] })).recordPermanent 3 inst detail cls 2
    | 4 => s.lathePermanent inst cls
    | 5 => s.walkerPermanent done inst cls
    | 6 => s.selPermanent inst cls
    | 7 => s.tokPermanent inst cls
    | 8 => s.wayPermanent inst cls
    | 9 =>
      if 32 ≤ (s.faults.lines.filter (fun e => e == inst)).length then (s.recordPermanent 9 inst detail cls 3).sramWithdraw inst
      else (s.setFaults (fun f => { f with lines := f.lines ++ [inst] })).recordPermanent 9 inst detail cls 2
    | 10 => s.retireAs inst cls
    | 11 => s.phasePermanent inst cls
    | 12 => (s.laneFault inst detail).recordPermanent 12 inst detail cls 4
    | 13 => (s.cxlLaneFault inst detail).recordPermanent 13 inst detail cls 4
    | 14 =>
      if inst == iodPll then (s.recordPermanent 14 inst detail cls 5).moduleReset s.now else s.recordPermanent 14 inst detail cls 1
    | 15 => s.recordPermanent 15 inst detail cls 1
    | 16 => (ptpUnitSwapStep s).recordPermanent 16 inst 0 cls 1
    | 17 => (s.setFld (CAL_MON inst) 0 0 0).recordPermanent 17 inst 0 cls 3
    | 18 => s.rotPermanent cls
    | _ => s

/-! ### The classifier (R607 to R611) -/

/-- Correctable threshold and window of a kind (Table 16-2). -/
def correctable (kind : Nat) : Option (Nat × Nat) :=
  let hour := 3_600_000_000_000
  match kind with
  | 1 => some (4, 24 * hour)
  | 2 => some (512, hour)
  | 10 => some (64, hour)
  | 12 => some (1_000_000, 10_000_000_000)
  | 13 => some (1_000_000, 10_000_000_000)
  | k => if 3 ≤ k && k ≤ 9 then some (16, hour) else none

/-- The part of a report's detail that names the resource, beside its instance. -/
def resourceDetail (f : FaultReport) : Nat := if [1, 3, 9, 12, 13, 14, 15].contains f.kind then f.detail else 0

/-- The classifier's record of a resource. -/
def State.track (s : State) (k i d : Nat) : Track :=
  (s.faults.tracks.find? (fun t => t.kind == k && t.inst == i && t.detail == d)).getD { kind := k, inst := i, detail := d }

/-- Keep a record. -/
def State.putTrack (s : State) (t : Track) : State :=
  s.setFaults (fun f => { f with
    tracks := f.tracks.filter (fun x => !(x.kind == t.kind && x.inst == t.inst && x.detail == t.detail)) ++ [t] })

/-- An error of the trie cache that is found now (R405, R429): a corrected one is counted; a line that cannot be read ends a
tokenization in progress, which read it, and is filled again on the next miss. Which line and which tokenization is open (log entry
99). -/
def State.trieError (s : State) (corrected : Bool) : State :=
  if corrected then s.event TOK_EVENT 0
  else
    let k := s.freeCtr
    let s1 := s.tick.event TOK_EVENT 1
    let s2 := { s1 with trie := s1.trie.eraseIdx (Config.freeBelow k s1.trie.length) }
    let js := s2.jobs.filter (fun j => j.kind == 1 && j.unit.isSome)
    match js[Config.freeBelow (k + 1) js.length]? with
    | none => s2
    | some j =>
      match s2.cmd? j.cmd with
      | some c => tokFail c stUncorrectableData (s2.tick.dropJob j.cmd)
      | none => s2

/-- A report that no step of the model has raised tells of an error that has arisen in a memory (log entry 99). In a DRAM row, some
burst of the row holds it from now on; in a base-die store, some entry does: an uncorrectable one is invalid until it is written
again (R183). Which burst and which entry is free. -/
def State.errorFound (s : State) (f : FaultReport) : State :=
  let k := s.freeCtr
  let store := f.detail / 2 ^ 16
  let entry := Config.freeBelow k (storeEntries store)
  let off := 64 * Config.freeBelow k (2 ^ 26)
  let b := s.spnAddr f.inst off / 64
  match f.kind, f.event with
  | 1, .corrected =>
    if Config.dramRow off != f.detail || s.ce.contains b then s.tick else { s.tick with ce := s.ce ++ [b] }
  | 1, .uncorrectable => if Config.dramRow off != f.detail then s.tick else s.tick.poison b
  | 3, .corrected => (s.tick.event SPN_ERR_STATUS 4).spnLogPut 3 (f.inst * 32) 0 0 entry
  | 3, .uncorrectable =>
    let s1 := (s.tick.event SPN_ERR_STATUS 5).spnLogPut 4 (f.inst * 32) 0 0 entry
    { s1 with spn := { s1.spn with bad := if s1.spn.bad.contains (f.inst, store, entry) then s1.spn.bad
      else s1.spn.bad ++ [(f.inst, store, entry)] } }
  | 9, .corrected => if f.inst == 1 then s.trieError true else s
  | 9, .uncorrectable =>
    if f.inst == 1 then s.trieError false else
    -- a journal SRAM (log entry 71): which of the cluster's commands the unreadable records belong to is free (R514)
    if f.inst < 3 || 6 < f.inst then s
    else
      let js := s.heldBy (f.inst - 3)
      ((js.zipIdx.filter (fun e => Config.freeBelow (k + e.2) 2 == 1)).map (fun e => e.1.cmd)).foldl
        (fun s id => s.endCmd id stInternalError) { s with freeCtr := s.freeCtr + js.length }
  | _, _ => s

/-- The classifier takes a report: one that a unit of the model has sent, with the stamp of its detection, or one of an error that
is detected now. A resource that is out of service already holds nothing in which an error could arise (R610). -/
def State.takeReport (s : State) (f : FaultReport) : State × Stamp :=
  match s.reports.find? (fun x => x.1 == f) with
  | some x => ({ s with reports := s.reports.erase x }, x.2)
  | none => (if s.isPermanent f.kind f.inst (resourceDetail f) then s else s.errorFound f, s.now)

/-- FAULT_REPORT (R607 to R609): a corrected event counts in its window; an uncorrectable event opens a fault window of 60 s or,
inside one, makes the resource permanent, and a failed retry counts as that second event. Cores are judged by R516. -/
def faultReportStep (done : Nat → State → State) (f : FaultReport) (s0 : State) : State :=
  let s := (s0.takeReport f).1
  let at_ := (s0.takeReport f).2
  let d := resourceDetail f
  if f.kind == 0 || 18 < f.kind then s
  else if s.isPermanent f.kind f.inst d then s.logFree (s.writerOf 3) 255 1
  else
    let t := s.track f.kind f.inst d
    let open_ : Bool := match t.opened with
      | some a => at_ < a + 60_000_000_000
      | none => false
    match f.event with
    | .corrected =>
      let s1 := s.bump BOOT_CE_CNT 63 0 1
      match correctable f.kind with
      | none => s1
      | some (n, p) =>
        let c := if t.win == at_ / p then t.count + 1 else 1
        let s2 := s1.putTrack { t with win := at_ / p, count := c }
        if n < c then s2.permanent done f.kind f.inst d 1 else s2
    | .uncorrectable =>
      if f.kind == 10 then s
      else if open_ then s.permanent done f.kind f.inst d 2
      else s.putTrack { t with opened := some at_, retry := true }
    | .retrySucceeded => (s.putTrack { t with retry := false }).bump BOOT_FAULT_CNT 63 32 1
    | .retryFailed =>
      if f.kind == 10 then s
      else if open_ then s.permanent done f.kind f.inst d 3
      else s.putTrack { t with opened := some at_, retry := false }

/-! ### Rolling tests (R619, R621 to R623) -/

/-- The test of a unit is due: once in TEST_PERIOD_H of operating time. -/
def State.testDue (s : State) (kind n : Nat) : Bool :=
  match s.faults.tested.find? (fun e => e.1 == kind && e.2.1 == n) with
  | none => true
  | some e => e.2.2 + s.fld BOOT_TEST_CFG 15 0 ≤ s.flash.hours

/-- A unit goes under test. -/
def State.underTest (s : State) (kind n : Nat) : State :=
  s.setFaults (fun f => { f with
    tests := f.tests ++ [(kind, n)]
    tested := f.tested.filter (fun e => !(e.1 == kind && e.2.1 == n)) ++ [(kind, n, s.flash.hours)] })

/-- The buffers of a Lathe are copied to another's windows (Table 16-5). -/
def State.copyBuffers (s : State) (n m : Nat) : State :=
  s.copyRange (latheWindow n) (latheWindow m) 0x100_0000

/-- A planned swap of Lathes: contents and slot states go to the spare, and the Lathe enters its test. -/
def State.plannedLathe (s : State) (n m : Nat) : State :=
  let x := s.lathe n
  let s1 := ((s.copyBuffers n m).setLathe m (fun _ => x)).moveLathe n m
  ((s1.setLathe n (fun _ => {})).setFld (LTH_ARRAY n) 18 16 2).underTest 4 n

/-- A planned swap of walkers. -/
def State.plannedWalker (s : State) (w v : Nat) : State :=
  ((s.moveWalker w v).setFld (GGE_WALKER w) 18 16 2).underTest 5 w

/-- The partition that owns a unit, when its OWNED bit is set. -/
def ownerOf (s : State) (a : Nat) : Option Nat := if s.bit a 19 then some (s.fld a 23 20) else none

/-- ROLLING_TEST (R622): a unit is swapped out for its live test; a walker first takes no new search (R619), and a Lathe leaves between
steps, for a spare that is awake (log entry 146). -/
def rollingTestStep (k : TestKind) (n : Nat) (s : State) : State :=
  let reg := match k with
    | .lathe => LTH_ARRAY n
    | .walker => GGE_WALKER n
  let kind := match k with
    | .lathe => 4
    | .walker => 5
  let rt : Bool := match ownerOf s reg with
    | some p => (s.part p).assign.rt
    | none => false
  if !s.bit BOOT_TEST_CFG 17 || (rt && !s.bit BOOT_TEST_CFG 16) || !s.testDue kind n || s.fld reg 18 16 != 1 ||
      s.fld reg 39 32 == 255 then s
  else
    match k with
    | .lathe =>
      match s.latheSpares n with
      | m :: _ =>
        -- the spare is awake in advance, and the Lathe leaves at its partition's step boundary (Table 16-5)
        if s.bit (LTH_ARRAY m) 1 then s.askLathe m
        else if (s.lathe n).running || (ownerOf s reg).any (fun p => (s.runner p).active) then s else s.plannedLathe n m
      | [] => s
    | .walker =>
      match s.walkerSpares with
      | v :: _ =>
        if (s.contextsUsed n).isEmpty then s.plannedWalker n v
        else (s.setFld reg 18 16 2).setFaults (fun f => { f with swaps := f.swaps ++ [(n, s.now)] })
      | [] => s

/-- WALKER_SWAP_TIMEOUT (R619): idle, or after 20 ms, when the searches still bound restart on the spare. -/
def walkerSwapTimeoutStep (w : Nat) (s : State) : State :=
  match s.faults.swaps.find? (fun e => e.1 == w) with
  | none => s
  | some e =>
    if !(s.contextsUsed w).isEmpty && s.now < e.2 + 20_000_000 then s
    else
      let s1 := s.setFaults (fun f => { f with swaps := f.swaps.filter (fun x => x.1 != w) })
      match s1.walkerSpares with
      | [] => s1.setFld (GGE_WALKER w) 18 16 1
      | v :: _ =>
        let ids := (s1.searches.filter (fun q => !q.waiting && q.ended.isNone && q.walker == w)).map (fun q => q.sid)
        -- a merge job goes on in the same contexts of the spare
        let s2 := s1.plannedWalker w v
        let s3 := { s2 with merges := s2.merges.map (fun j => { j with
          slot := j.slot.map (fun t => if t.1 == w then (v, t.2) else t) }) }
        ids.foldl (fun s i => s.retake i (fun q => { q with avoid := some w })) s3

/-- ROLLING_TEST_COMPLETE (R622, R623): a unit that passes serves a decision that waits for it, or is a spare; one that fails is
permanent. -/
def rollingTestCompleteStep (done : Nat → State → State) (k : TestKind) (n : Nat) (pass : Bool) (s : State) : State :=
  let kind := match k with
    | .lathe => 4
    | .walker => 5
  if !s.faults.tests.contains (kind, n) then s
  else
    let s1 := s.setFaults (fun f => { f with tests := f.tests.erase (kind, n) })
    let s2 := match k with
      | .lathe => if pass then (s1.setFld (LTH_ARRAY n) 18 16 5).showSpares else s1.lathePermanent n 3
      | .walker => if pass then (s1.setFld (GGE_WALKER n) 18 16 0).showSpares else s1.walkerPermanent done n 3
    match s2.faults.owed.find? (fun e => e.1 == kind) with
    | none => s2
    | some e =>
      let s3 := s2.setFaults (fun f => { f with owed := f.owed.erase e })
      match k with
      | .lathe => s3.latheSwap e.2
      | .walker =>
        match s3.walkerSpares with
        | v :: _ => (s3.moveWalker e.2 v).showSpares
        | [] => if s3.faults.tests.any (fun x => x.1 == 5) then s2 else s3.loseWalker e.2

/-! ### Calipers and margin plans (R624 to R630, R639) -/

/-- The monitors of a region. -/
def regionMons (r : Nat) : List Nat :=
  if r < 4 then (List.range 96).map (fun i => 96 * r + i) else (List.range 128).map (fun i => 384 + i)

/-- Margin of a delay in 0.1 ps, in 0.01 %, at a clock of 1.2 GHz or of 1.1 GHz. -/
def marginOf (low : Bool) (d : Nat) : Int := if low then (100000 - 11 * (d : Int)) / 10 else (50000 - 6 * (d : Int)) / 5

/-- A monitor's reading (R625). The reading after an invalid one is the retry of that event (Table 16-2). -/
def State.takeReading (s : State) (n d : Nat) : State :=
  let prev := s.fld (CAL_MON n) 47 32
  let base := s.fld (CAL_MON n) 63 48
  let off := if d < prev then prev - d else d - prev
  let ok : Bool := (prev == 0 || off * 10 ≤ prev) && base ≤ 2 * d && 2 * d ≤ 3 * base
  let gone := s.isPermanent 17 n 0
  let s1 := (s.setFld (CAL_MON n) 47 32 d).setFld (CAL_MON n) 0 0 (if ok && !gone then 1 else 0)
  if gone then s1
  else if ok then (if (s.track 17 n 0).retry then s1.report ⟨17, n, 0, .retrySucceeded⟩ else s1)
  else (s1.event CAL_EVENT 0).report ⟨17, n, 0, if (s.track 17 n 0).retry then .retryFailed else .uncorrectable⟩

/-- Valid monitors of a region. -/
def State.validMons (s : State) (r : Nat) : List Nat := (regionMons r).filter (fun n => s.bit (CAL_MON n) 0)

/-- Show the counts of valid monitors. -/
def State.showMons (s : State) : State :=
  let s1 := (List.range 5).foldl (fun s r => s.setFld (CAL_REGION r) 15 8 (s.validMons r).length) s
  s1.setFld CAL_STATUS 9 0 (sumNat ((List.range 5).map (fun r => (s1.validMons r).length)))

/-- A region's margin: the least of its valid monitors. -/
def State.regionMargin (s : State) (r : Nat) : Int :=
  let low := s.bit (CAL_REGION r) 20
  let ms := (s.validMons r).map (fun n => marginOf low (s.fld (CAL_MON n) 47 32))
  ms.foldl min (ms.headD 10000)

/-- A measurement on demand of a region: what the monitors read is a free value (log entry 42). -/
def State.measureRegion (s : State) (r : Nat) : State :=
  let c := s.freeCtr
  (regionMons r).foldl (fun s n => s.takeReading n (Config.freeBelow (c + n) 65536)) { s with freeCtr := c + 512 }

/-- Raise the offset of a region while its margin is short (R627). -/
def State.raiseOffset (s : State) (r target : Nat) : Nat → State
  | 0 => s
  | fuel + 1 =>
    let o := s.fld (PWR_RAIL r) 15 12
    if s.regionMargin r < target && o < 8 then
      let s1 := ((s.setFld (PWR_RAIL r) 15 12 (o + 1)).setFld (CAL_REGION r) 19 16 (o + 1)).event CAL_EVENT 2
      State.raiseOffset (s1.measureRegion r) r target fuel
    else s

/-- A margin plan for one core region (R627); the I/O die is only reported. The first measurement of the plan falls at the end of a
period, at which the next one measures: it is the reading of that period (log entry 42). -/
def State.planRegion (s : State) (r target low : Nat) : State :=
  let shown (s : State) : State := s.setFld (CAL_REGION r) 39 24 (ofSigned 16 (s.regionMargin r))
  if (s.validMons r).length < 8 then s.setFld (CAL_REGION r) 2 0 5
  else if r == 4 then
    if s.regionMargin 4 < low then ((shown s).setFld (CAL_REGION 4) 2 0 4).event CAL_EVENT 5 else (shown s).setFld (CAL_REGION 4) 2 0 0
  else
    let s1 := s.raiseOffset r target 8
    let s2 := if s1.regionMargin r < low && s1.fld (PWR_RAIL r) 15 12 == 8 && !s1.bit (CAL_REGION r) 20 then
        let s2 := ((s1.setFld (CAL_REGION r) 20 20 1).event CAL_EVENT 3).setCal (fun c => { c with wait := c.wait ++ [r] })
        s2.measureRegion r
      else s1
    let m := s2.regionMargin r
    if m < low then ((shown s2).setFld (CAL_REGION r) 2 0 4).event CAL_EVENT 5
    else if m < target then ((shown s2).setFld (CAL_REGION r) 2 0 3).event CAL_EVENT 4
    else (shown s2).setFld (CAL_REGION r) 2 0 (if s2.bit (CAL_REGION r) 20 then 2 else if s2.fld (PWR_RAIL r) 15 12 == 0 then 0 else 1)

/-- The least-squares line of a region's margin against operating hours over the last 720 hours: its value now and its slope
(R630). -/
def Cal.fit (c : Cal) (r hours : Nat) : Option (Rat × Rat) :=
  let ps := (c.hist.filter (fun e => e.1 == r && hours < e.2.1 + 720)).map (fun e => ((e.2.1 : Rat), (e.2.2 : Rat)))
  let n : Rat := ps.length
  let sx := ps.foldl (fun a e => a + e.1) 0
  let sy := ps.foldl (fun a e => a + e.2) 0
  let sxx := ps.foldl (fun a e => a + e.1 * e.1) 0
  let sxy := ps.foldl (fun a e => a + e.1 * e.2) 0
  let d := n * sxx - sx * sx
  if d == 0 then none
  else
    let b := (n * sxy - sx * sy) / d
    some ((sy - b * sx) / n + b * hours, b)

/-- EOL_HOURS of a region (R630): the hours from now until the line reaches MIN. Away from offset 8 and the lower bin the line does not say when it would reach MIN there: the
value is free (log entry 42). -/
def State.eolHours (s : State) (r low : Nat) : Nat :=
  match s.cal.fit r s.flash.hours with
  | none => 0xFF_FFFF
  | some (a, b) =>
    if 0 ≤ b then 0xFF_FFFF
    else if r == 4 || (s.fld (PWR_RAIL r) 15 12 == 8 && s.bit (CAL_REGION r) 20) then
      min 0xFF_FFFF ((low - a) / b).ceil.toNat
    else Config.freeBelow (s.freeCtr + r) (2 ^ 24)

/-- A margin plan is due (R626): by operating hours, or by a monitor whose delay has grown. -/
def State.planDue (s : State) : Bool :=
  let drift := s.fld CAL_PLAN_CFG 31 16
  (match s.cal.planAt with
   | none => true
   | some h => h + s.fld CAL_PLAN_CFG 15 0 ≤ s.flash.hours) ||
  (List.range 512).any (fun n =>
    let a := s.fld (CAL_MON n) 31 16
    s.bit (CAL_MON n) 0 && a != 0 && a * (10000 + drift) ≤ s.fld (CAL_MON n) 47 32 * 10000)

/-- MARGIN_PLAN (R627, R629, R630, R639). -/
def State.marginPlan (s : State) : State :=
  let t := s.fld CAL_PLAN_CFG 63 48
  let l := s.fld CAL_PLAN_CFG 47 32
  let bad : Bool := t ≤ l
  let target := if bad then 800 else t
  let low := if bad then 500 else l
  let s0 := if bad then s.event CAL_EVENT 0 else s
  let s1 := ((List.range 5).foldl (fun s r => s.planRegion r target low) s0).showMons
  let hours := s1.flash.hours
  let s2 := s1.setCal (fun c => { c with
    planAt := some hours
    hist := ((List.range 5).map (fun r => (r, hours, s1.regionMargin r)) ++ c.hist).filter (fun e => hours < e.2.1 + 720) })
  let s3 := (List.range 5).foldl (fun s r => s.setFld (CAL_REGION r) 63 40 (s2.eolHours r low)) { s2 with freeCtr := s2.freeCtr + 5 }
  let s4 := (List.range 512).foldl (fun s n => s.setFld (CAL_MON n) 31 16 (s.fld (CAL_MON n) 47 32)) s3
  let s5 := s4.setFlash (fun f => { f with
    offsets := (List.range 4).map (fun r => s4.fld (PWR_RAIL r) 15 12), bins := (List.range 4).map (fun r => s4.bit (CAL_REGION r) 20)
    planned := some hours })
  (s5.setFld CAL_STATUS 31 16 (hours % 65536)).event CAL_EVENT 1

/-- CALIPER_MEASURE (R624 to R626): the readings of a period, and the plan that has come due in NORMAL. The first plan check makes
the Calipers ready. -/
def caliperMeasureStep (readings : List Nat) (s : State) : State :=
  if !s.bit CAL_CTRL 0 || !s.ready rdyFw then s
  else
    let s1 := (readings.zipIdx.foldl (fun s x => if x.2 < 512 then s.takeReading x.2 (x.1 % 65536) else s) s).showMons
    let s2 := if s1.bit CAL_CTRL 1 && s1.planDue && s1.fld PWR_STATE 2 0 == 0 then s1.marginPlan else s1
    s2.setReady rdyCalipers true

/-- BIN_CHANGE (R628): when no Lathe of the region runs a kernel, all change frequency together. -/
def binChangeStep (r : Nat) (s : State) : State :=
  let ls := (List.range 14).map (fun i => 14 * r + i)
  if !s.cal.wait.contains r || ls.any (fun n => (s.lathe n).running) then s
  else
    let s1 := ls.foldl (fun s n => s.setFld (LTH_ARRAY n) 40 40 1) s
    (List.range 16).foldl (fun s p => s.recheckPlans p) (s1.setCal (fun c => { c with wait := c.wait.filter (fun x => x != r) }))

/-- HOURS_UPDATE (R629). -/
def hoursUpdateStep (s : State) : State :=
  let s1 := s.setFlash (fun f => { f with hours := f.hours + 1 })
  s1.setFld CAL_STATUS 63 32 s1.flash.hours

/-- BOOT_FAULT_LOG_READ (R640): the oldest entry is returned and leaves. -/
def bootFaultLogReadStep (s : State) : State :=
  ({ s with lastRead := s.faults.log.headD 0 } : State).setFaults (fun f => { f with log := f.log.drop 1 })

/-! ### The readiness report (R638) -/

/-- The figures of Table 16-11, as READINESS_QUERY returns them and as a log entry of kind 2 gives them at boot step 11. A port
is degraded when it has a permanently faulty lane (R532). -/
def State.readinessReport (s : State) : List Byte :=
  let mask (n : Nat) (f : Nat → Bool) : Nat := sumNat (((List.range n).filter f).map (fun i => 2 ^ i))
  let ports := mask 4 (fun n => s.fld (NET_PORT n) 15 8 != 0)
  let narrow := mask 4 (fun l => s.fld (CXL_LINK l) 34 32 == 3)
  let eol := (List.range 5).any (fun r => s.fld (CAL_REGION r) 2 0 == 4)
  let flags := (if s.bit BOOT_STATUS 4 then 1 else 0) + (if s.fld BOOT_PCH_SPARES 55 48 == 255 then 2 else 0) +
    (if eol then 4 else 0)
  toLE 8 (s.raw BOOT_READY).toNat ++ toLE 8 (s.raw BOOT_READY_STAMP).toNat ++ toLE 4 (s.fld BOOT_GRADE 31 0) ++
    (List.range 8).flatMap (fun k => toLE 1 (s.fld BOOT_PCH_SPARES (4 * k + 3) (4 * k))) ++
    toLE 1 (s.fld BOOT_GRADE 39 32) ++ toLE 1 (ports + 16 * narrow) ++ toLE 1 flags ++ toLE 1 0 ++
    toLE 4 (s.fld CAL_STATUS 63 32) ++ toLE 4 (((minNat? ((List.range 5).map (fun r => s.fld (CAL_REGION r) 63 40)))).getD 0) ++
    zeros 24

end Sys2Proof.Machine
end

