-- ==== Sys2Proof/Machine/Boot.lean ====
section
/-! DEFINITION. The boot sequence (spec/16, "Boot sequence"; R498, R499): release of the internal reset, the network fetch with its
fallback, the start of the control cores, HBM training, and the default assignment. -/

namespace Sys2Proof.Machine

/-- Change the boot's own state. -/
def State.setBoot (s : State) (f : Boot → Boot) : State := { s with boot := f s.boot }

/-! ### Steps 1 and 2 (R631, R634, R646, R661) -/

/-- The protection configuration is loaded from the first flash copy whose tag verifies (R661). -/
def State.loadConfig (s : State) : State :=
  match s.sec.flash.find? (fun f => f.2) with
  | some f =>
    let s1 := { s with sec := { s.sec with cfg := f.1, loaded := true, debug := 0 } }
    ((s1.tick.measure 2 3 f.1.epoch s1.freeDigest).setReady rdyProtection true).showSec
  | none => ({ s with sec := { s.sec with loaded := false, debug := 0 } } : State).showSec.event SEC_EVENT 6

/-- A DHCPDISCOVER: the client identifier is the serial number, and options 1, 3, 54, 66 and 67 are requested (Table 13-6). -/
def State.discoverMsg (s : State) : Out := .dhcpDiscover s.sec.serial [1, 3, 54, 66, 67]

/-- The first DHCPDISCOVER of a fetch, once the management link is up: the network budget runs from it (Table 13-6). -/
def State.discover (s : State) : State :=
  if s.boot.fetching && s.boot.disc.isNone && s.linkUp 8 then
    (s.setBoot (fun b => { b with disc := some s.now, dhcp := 0, tftp := 0, dhcpAt := s.now, tftpAt := s.now })).emit s.discoverMsg
  else s

/-- BOOT_SEQUENCE: the internal reset is released, and with it device time starts at 0 (R545); the root of trust tests itself and
loads the protection configuration, and the network fetch begins. -/
def bootSequenceStep (s : State) : State :=
  if !s.releasable then s
  else
    let s0 := match s.pwr.phase with
      | .released => s
      | _ => { s with now := 0 }
    let s1 := (s0.setPwr (fun p => { p with phase := .running, since := s0.now })).setFlash (fun f => { f with boots := f.boots + 1 })
    let s2 := ((s1.setFld BOOT_STATUS 63 32 s1.flash.boots).setFld BOOT_STATUS 3 0 1).setReady rdyRot true
    let s3 := (s2.tick.measure 0 1 0 s2.freeDigest).loadConfig
    (({ s3 with mgmtDown := s3.now } : State).setBoot (fun b => { b with fetching := true, disc := none })).discover

/-- LINK_CHANGE also lets the boot ROM start its fetch over the management link. -/
def bootLinkChangeStep (l : Nat) (rate : LinkRate) (s : State) : State := (linkChangeStep l rate s).discover

/-- DHCP_RETRANSMIT (Table 13-6): 2, 4, 8 and 16 s after the message before. -/
def dhcpRetransmitStep (s : State) : State :=
  if s.boot.fetching && s.boot.disc.isSome && s.boot.dhcp < 4 && s.boot.dhcpAt + 2 ^ (s.boot.dhcp + 1) * 1_000_000_000 ≤ s.now then
    (s.setBoot (fun b => { b with dhcp := b.dhcp + 1, dhcpAt := s.now })).emit s.discoverMsg
  else s

/-- TFTP_RETRANSMIT (Table 13-6): a block is asked for again, 1 s after it was last. Which of its five retransmissions this is does not
show, for no command says that a block has come: that they are used up is an outcome of the fetch (log entry 145). -/
def tftpRetransmitStep (s : State) : State :=
  if s.boot.fetching && s.boot.disc.isSome && s.boot.tftpAt + 1_000_000_000 ≤ s.now then
    (s.setBoot (fun b => { b with tftp := b.tftp + 1, tftpAt := s.now })).emit (.tftpRequest 1468)
  else s

/-! ### Steps 6 and 7: what firmware sets up from flash (R610, R614, R629) -/

/-- The physical unit of a logical number under the spare map. -/
def Flash.place (f : Flash) (kind l shipped : Nat) : Nat :=
  ((f.map.find? (fun e => e.1 == kind && e.2.1 == l)).map (fun e => e.2.2)).getD shipped

/-- A unit of a kind is in the fault table. -/
def Flash.bad (f : Flash) (kind i : Nat) : Bool := f.faults.any (fun e => e.1 == kind && e.2.1 == i)

/-- Lathes and walkers take their logical numbers, at shipment in ascending physical order of the working units (R315; that every
Lathe passed manufacturing test is the factory data of log entry 4); the rest are spares. -/
def State.numberUnits (s : State) : State :=
  let f := s.flash
  let lp := (List.range s.grade).map (fun l => (f.place 4 l l, l))
  let wp := (List.range 64).map (fun l => (f.place 5 l l, l))
  let s1 := (List.range 56).foldl (fun s n =>
    let s1 := (s.setFld (LTH_ARRAY n) 1 1 1).setFld (LTH_ARRAY n) 40 40 (if f.bins.getD (n / 14) false then 1 else 0)
    if f.bad 4 n then s1.setFld (LTH_ARRAY n) 18 16 3
    else
      match assoc lp n with
      | some l => (s1.setFld (LTH_ARRAY n) 18 16 1).setFld (LTH_ARRAY n) 39 32 l
      | none => s1.setFld (LTH_ARRAY n) 18 16 5) s
  let s2 := (List.range 72).foldl (fun s w =>
    if f.bad 5 w then s.setFld (GGE_WALKER w) 18 16 3
    else
      match assoc wp w with
      | some l => (s.setFld (GGE_WALKER w) 18 16 1).setFld (GGE_WALKER w) 39 32 l
      | none => s) s1
  let s3 := (List.range 8).foldl (fun s u => s.setFld (SEL_UNIT u) 18 16 (if f.bad 6 u then 3 else 1)) s2
  let s4 := { s3 with engines := (List.range 4).map (fun e => if f.bad 7 e then 3 else 1) }
  s4.showSpares

/-- The offsets and bins of the last plan, and its operating hours (R629). -/
def State.applyMargins (s : State) : State :=
  ((List.range 4).foldl (fun s r =>
    let o := s.flash.offsets.getD r 0
    ((s.setFld (PWR_RAIL r) 15 12 o).setFld (CAL_REGION r) 19 16 o).setFld (CAL_REGION r) 20 20
      (if s.flash.bins.getD r false then 1 else 0)) s).setCal (fun c => { c with planAt := s.flash.planned })

/-- What else the fault table keeps out of service (R610): store rows and SRAM lines in use, faulty lanes, and functions that have
lost every unit. -/
def State.applyFaultTable (s : State) : State :=
  let of (k : Nat) : List (Nat × Nat × Nat) := s.flash.faults.filter (fun e => e.1 == k)
  let s1 := s.setFaults (fun f => { f with
    rows := (of 3).map (fun e => (e.2.1, e.2.2 / 2 ^ 16)), lines := (of 9).map (fun e => e.2.1) })
  let s2 := (of 12).foldl (fun s e => s.setFld (NET_PORT e.2.1) (8 + e.2.2) (8 + e.2.2) 1) s1
  let s3 := (of 13).foldl (fun s e => s.setFld (CXL_LINK e.2.1) e.2.2 e.2.2 1) s2
  let s4 := if (List.range 8).all (fun u => s.flash.bad 6 u) then s3.withdraw rdySelection else s3
  let s5 := if (List.range 4).all (fun e => s.flash.bad 7 e) then s4.withdraw rdyTokenizer else s4
  (List.range 3).foldl (fun s i =>
    if 32 < ((of 9).filter (fun e => e.2.1 == i)).length then s.sramWithdraw i else s) s5

/-- The control cores at their start: four of each cluster have roles, the fifth is a spare (Table 13-1); a core in the fault
table stays out, and a spare has its role. -/
def State.startCores (s : State) : State :=
  let all : List Core := (List.range 20).map (fun c =>
    { state := if c % 5 < 4 then 1 else 4, logical := if c % 5 < 4 then 4 * (c / 5) + c % 5 else 255, lastKick := s.now
      image := if c % 5 < 4 then (s.fw.running.map (fun i => i.version)).getD 0 else 0 })
  let s1 := { s with fw := { s.fw with cores := all } }
  ((List.range 20).filter (fun c => s.flash.bad 10 c)).foldl (fun s c =>
    let l := (s.core c).logical
    let s1 := s.setCore c (fun k => { k with state := 3, logical := 255 })
    if l == 255 then s1.setFld BOOT_GRADE 31 24 (s1.fld BOOT_GRADE 31 24 - 1)
    else
      match s1.spareCore c with
      | some k => (s1.setCore k (fun x => { x with state := 1, logical := l })).setFld BOOT_GRADE 31 24 (s1.fld BOOT_GRADE 31 24 - 1)
      | none => s1) s1

/-- The typical time of a readiness bit (Table 16-8), in ns. -/
def bootTypical (b : Nat) : Nat :=
  if b < 8 then 3_900_000_000
  else if b == 8 || b == 37 then 4_000_000_000
  else if b < 21 then 2_500_000_000
  else if b == 21 then 300_000_000
  else if b == 22 || b == 38 then 5_000_000
  else if b < 25 then 1_400_000_000
  else if b == 25 || b == 35 then 1_500_000_000
  else if b < 35 then 1_460_000_000
  else if b == 36 then 4_500_000_000
  else 0

/-- Firmware writes every BOOT_ETA at step 6 (R641); a withdrawn function keeps its mark. -/
def State.writeEtas (s : State) : State :=
  (List.range 39).foldl (fun s b =>
    if s.raw (BOOT_ETA b) == BitVec.allOnes 64 then s else s.setRaw (BOOT_ETA b) (BitVec.ofNat 64 (bootTypical b))) s

/-! ### Step 11: the firmware region and the default assignment (R615, R633, Table 12-1) -/

/-- The default assignment of a partition, in its registers: units that are out of service stay out of it (R610). -/
def State.writeDefault (s : State) (p : Nat) : State :=
  let maskIf (ok : Nat → Bool) (n : Nat) : Nat := sumNat (((List.range n).filter (fun i => i % 16 == p && ok i)).map (fun i => 2 ^ i))
  let mask (n : Nat) : Nat := maskIf (fun _ => true) n
  let lathes := maskIf (fun l => (List.range 56).any (fun n => s.latheLogical n == l)) s.grade
  let walkers := maskIf (fun l => (List.range 72).any (fun w => s.walkerLogical w == l)) 64
  let ways := sumNat (((List.range 4).filter (fun i => !s.flash.bad 8 (4 * p + i))).map (fun i => 2 ^ (4 * p + i)))
  let m := mask 240
  let put (s : State) (i : Nat) : State := s.setRaw (PRT_PCH p i) (BitVec.ofNat 64 (m / 2 ^ (64 * i) % 2 ^ 64))
  let s1 := (List.range 4).foldl put s
  let s2 := ((s1.setFld (PRT_REGION p) 47 32 (15 * p)).setRaw (PRT_WAYS p) (BitVec.ofNat 64 ways)).setFld
    (PRT_LATHES p) 47 0 lathes
  let s3 := (s2.setRaw (PRT_WALKERS p) (BitVec.ofNat 64 walkers)).setRaw (PRT_NET p)
    (BitVec.ofNat 64 (1024 * 2 ^ 32 + 256 * p * 2 ^ 16 + 256))
  let s4 := (List.range 4).foldl (fun s l =>
    let n := s.fld (CXL_LINK l) 51 40 / 16
    if n == 0 then s
    else ((s.setFld (PRT_CXL p l) 63 56 1).setFld (PRT_CXL p l) 43 32 (p * n)).setFld (PRT_CXL p l) 11 0 n) s3
  (s4.setRaw (PRT_CTX_SHARE p 0) (BitVec.ofNat 64 ways)).setFld (PRT_CTX_CFG p 0) 47 0 lathes

/-- The default assignment takes effect: the partition is UP with context 0 resident. -/
def State.applyDefault (s : State) (p : Nat) : State :=
  let s1 := s.writeDefault p
  (((s1.install p (s1.prtAssign p)).applyShares p).newKey p).setPartState p 2

/-- The log entries that the logger has held go into the ring (log entry 9). -/
def State.flushLog (s : State) : State :=
  let s1 := s.fw.logHeld.foldl (fun s e => s.logPut (fieldAt e 0 8) e) s
  { s1 with fw := { s1.fw with logHeld := [] } }

/-- The firmware region is written, in the copies whose stacks are ready. -/
def State.writeRegion (s : State) : State :=
  let k := s.fld BOOT_PCH_SPARES 47 40
  let j := s.fld BOOT_PCH_SPARES 55 48
  let up (k : Nat) : Bool := k != 255 && s.ready (k / 2)
  let s1 := if up k && (up j || j == 255) then s
    else if up k then (s.setFld BOOT_PCH_SPARES 55 48 255).event BOOT_EVENT 6
    else if up j then ((s.setFld BOOT_PCH_SPARES 47 40 j).setFld BOOT_PCH_SPARES 55 48 255).event BOOT_EVENT 6
    else s
  if !up k && !up j then s1
  else
    let s2 := s1.setFld WDN_LOG_BASE 47 0 (s1.fwRegion + 0x200_0000)
    let s3 := match s2.fw.running with
      | some i => s2.fwStore 0 i.bytes
      | none => s2
    -- an image that was staged before goes to the staging slot
    (match s3.fw.staged with
     | some i => s3.fwStore 0x100_0000 i.bytes
     | none => s3).flushLog

/-- Step 11, once firmware runs and every stack is ready or withdrawn. The default assignment of every partition spreads over all
eight stacks, so it takes effect only when none is withdrawn. -/
def State.finishHbm (s : State) : State :=
  if s.boot.done || s.fw.running.isNone || !(List.range 8).all (fun k => s.ready k || s.boot.gone.contains k) then s
  else
    let s1 := (s.setBoot (fun b => { b with done := true })).writeRegion
    let s2 := if s1.boot.gone.isEmpty then ((List.range 16).foldl (fun s p => s.applyDefault p) s1).setReady rdyHbm true else s1
    let s3 := s2.setReady rdyPartitions true
    -- severity and event code are free (log entry 10)
    (s3.tick.tick).log (s3.writerOf 0) (Config.freeBelow s3.freeCtr 6) 255 2 (Config.freeBelow (s3.freeCtr + 1) 65536)
      (s3.readinessReport.take 40)

/-- The pseudo-channels of a trained stack take their logical numbers, and the stack's spares are counted. -/
def State.numberPchs (s : State) (stack : Nat) : State :=
  let f := s.flash
  let pl := (List.range 32).map (fun l => (f.place 2 (stack * 32 + l) (stack * 32 + l), l))
  let moved (g : Nat) : Bool := f.map.any (fun e => e.1 == 2 && e.2.2 == g)
  let s1 := (List.range 32).foldl (fun s i =>
    let g := stack * 32 + i
    if f.bad 2 g && !moved g && (f.place 2 g g != g || 30 ≤ i) then s.setFld (SPN_ENGINE g) 18 16 3
    else
      let l := if moved g then ((pl.find? (fun e => e.1 == g && e.2 < 30)).map (fun e => e.2)).getD i else i
      (s.setFld (SPN_ENGINE g) 18 16 1).setFld (SPN_ENGINE g) 39 32 l) s
  let free := ([30, 31].filter (fun i => let g := stack * 32 + i; !moved g && !f.bad 2 g)).length
  s1.setFld BOOT_PCH_SPARES (4 * stack + 3) (4 * stack) free

/-- HBM_STACK_TRAINED (R633): the stack is zeroed and its stores are cleared; one that does not train is withdrawn. -/
def hbmStackTrainedStep (k : Nat) (ok : Bool) (s : State) : State :=
  if s.pwr.phase != .running || s.ready k || s.boot.gone.contains k then s
  else if ok then
    let s1 := s.numberPchs k
    let s2 := { s1 with spn := {
      query := s1.spn.query.filter (fun e => e.1.1 != k), codebook := s1.spn.codebook.filter (fun e => e.1.1 != k)
      param := s1.spn.param.filter (fun e => e.1.1 != k), bad := s1.spn.bad.filter (fun e => e.1 != k) } }
    (s2.setReady k true).finishHbm
  else
    ((s.withdraw k).setBoot (fun b => { b with gone := b.gone ++ [k] })).finishHbm

/-- Engines and Lathes are tested with wake grants (Table 16-8, step 7): every Lathe in service or spare, the groups of ways and of
walkers ask for one (log entry 72). -/
def State.wakeAll (s : State) : State :=
  let ls := (List.range 56).filter (fun n => s.fld (LTH_ARRAY n) 18 16 == 1 || s.fld (LTH_ARRAY n) 18 16 == 5)
  (ls.map WakeUnit.lathe ++ (List.range 4).map WakeUnit.ways ++ (List.range 9).map WakeUnit.walkers).foldl State.askWake s

/-! ### Steps 4 to 6: fetch, fallback and start (R498, R499, R631, R632) -/

/-- The control cores start on an image, from the network or from a flash slot: firmware and intake are ready, the engines are
tested and ready (steps 6 and 7 in one). -/
def State.startFirmware (s : State) (i : FwImage) (slot : Option Nat) : State :=
  let s0 := s.setBoot (fun b => { b with fetching := false, failedAt := none })
  let s1 := { s0 with fw := { s0.fw with running := some i, bootLkg := slot.isSome, runSince := some s0.now } }
  let s2 := ((s1.setFld BOOT_STATUS 3 0 3).setFld BOOT_STATUS 4 4 (if slot.isSome then 1 else 0)).setFld BOOT_STATUS 5 5 (slot.getD 0)
  let s3 := s2.measure 1 2 i.version (sha3 i.signed)
  let s4 := ((s3.tick.measure 3 4 0 s3.freeDigest).startCores.applyMargins.numberUnits.applyFaultTable).writeEtas.wakeAll
  let s5 := (s4.setReady rdyFw true).setReady rdyIntake true
  let s6 := (List.range 10).foldl (fun s b =>
    -- a withdrawn function stays so (R20)
    if s.raw (BOOT_ETA (rdyLathes + b)) == BitVec.allOnes 64 then s else s.setReady (rdyLathes + b) true) s5
  (if s6.bit PTP_CTRL 0 then s6 else s6.setReady rdyTime true).finishHbm

/-- Flash slots with valid marks, higher image version first. -/
def State.flashOrder (s : State) : List (FwImage × Nat) :=
  let l := ((s.fw.flash.zipIdx).filter (fun f => f.1.2)).map (fun f => (f.1.1, f.2))
  sortBy (fun a b => decide (b.1.version < a.1.version)) l

/-- A fetch has failed with a code: the last-known-good image runs, or the boot fails (R499, R632). -/
def State.fetchFailed (s : State) (code : Nat) : State :=
  let s1 := ((s.setFld BOOT_STATUS 15 8 code).event BOOT_EVENT 5).setBoot (fun b => { b with fetching := false })
  match s1.flashOrder.find? (fun f => s1.accepts f.1) with
  | some f => s1.startFirmware f.1 (some f.2)
  | none => ((s1.setFld BOOT_STATUS 15 8 7).setFld BOOT_STATUS 3 0 4).setBoot (fun b => { b with failedAt := some s1.now })

/-- BOOT_IMAGE_FETCH (R498, R499, R652): the outcome of one network fetch. -/
def bootImageFetchStep (o : BootFetch) (s : State) : State :=
  if !s.boot.fetching then s
  else
    let s1 := s.bump BOOT_STATUS 31 16 1
    match o with
    | .noLease => s1.fetchFailed 2
    | .noBootFile => s1.fetchFailed 3
    | .transferFailed => s1.fetchFailed 3
    | .tooLarge => s1.fetchFailed 4
    | .image bs =>
      if 16777216 < bs.length then s1.fetchFailed 4
      else
        match parseImage bs with
        | none => s1.fetchFailed 5
        | some i =>
          let (ok, s2) := s1.checkImage i
          if ok then s2.startFirmware i none else s2.fetchFailed 5

/-- BOOT_BUDGET_EXPIRY (R499): 60 s after the first DHCPDISCOVER. -/
def bootBudgetExpiryStep (s : State) : State :=
  match s.boot.disc with
  | some t => if s.boot.fetching && t + 60_000_000_000 ≤ s.now then (s.bump BOOT_STATUS 31 16 1).fetchFailed 6 else s
  | none => s

/-- BOOT_FETCH_RETRY (R632): 60 s after a failed boot. -/
def bootFetchRetryStep (s : State) : State :=
  match s.boot.failedAt with
  | some t =>
    if t + 60_000_000_000 ≤ s.now then
      ((s.setFld BOOT_STATUS 3 0 1).setBoot (fun b => { b with fetching := true, disc := none, failedAt := none })).discover
    else s
  | none => s

/-- BOOT_LIMIT_MISSED (R631, R641): a function that is not ready at its limit is late; what ETA the firmware then writes is a free
value. -/
def bootLimitMissedStep (b : Nat) (s : State) : State :=
  if s.ready b || s.pwr.phase != .running then s
  else
    let s1 := (s.event BOOT_EVENT 1).logFree (s.writerOf 0) 255 2
    if s1.fw.running.isSome then s1.tick.setRaw (BOOT_ETA b) (BitVec.ofNat 64 (Config.freeNat s1.freeCtr)) else s1

/-- ROT_SELF_TEST (R621, Table 16-2): a failure before firmware runs fails the boot; later ones go to the classifier. -/
def rotSelfTestStep (pass : Bool) (s : State) : State :=
  let again : Bool := (s.track 18 0 0).retry
  if pass then (if again && s.fw.running.isSome then s.report ⟨18, 0, 0, .retrySucceeded⟩ else s)
  else if s.fw.running.isSome then s.report ⟨18, 0, 0, if again then .retryFailed else .uncorrectable⟩
  else
    ((((s.setReady rdyRot false).setFld BOOT_STATUS 15 8 1).setFld BOOT_STATUS 3 0 4).event BOOT_EVENT 5).setBoot (fun b =>
      { b with fetching := false })

end Sys2Proof.Machine
end

