-- ==== Sys2Proof/Machine/Session.lean ====
section
/-! DEFINITION. Sessions, echo, coalescing thresholds, readiness and counters (spec/02): what these commands do once intake has
taken them. -/

namespace Sys2Proof.Machine

/-- The session of a queue pair. -/
def State.session (s : State) (qp : Nat) : Option Session := (s.qp? qp).bind (fun q => q.session)

/-- The ranges of Table 2-3. -/
def sessionOpenOk (bs : List Byte) : Bool :=
  let f := fieldAt bs
  4096 ≤ f 0 4 && f 0 4 ≤ 1052704 && 1 ≤ f 4 2 && f 4 2 ≤ 4096 && 1 ≤ f 8 2 && f 12 4 ≤ 1048575

/-- SESSION_OPEN (R55, R59). Reserved bytes are checked before the ranges (log entry 13). How many outstanding commands are granted, from 1 to the number requested, is free. While a
close has still to reply, the open waits for it (R58). -/
def bodySessionOpen (c : Cmd) (s : State) : State :=
  s.shaped c 16 [(6, 2), (10, 2)] fun s =>
    let f := fieldAt c.input
    match s.session c.hdr.qp with
    | some e =>
      if e.closing.isSome && sessionOpenOk c.input then s.setCmd c.id (fun c => { c with phase := .waiting })
      else s.refuse c stBadParameter
    | none =>
      if !sessionOpenOk c.input then s.refuse c stBadParameter
      else
        let granted := 1 + Config.freeBelow s.freeCtr (f 4 2)
        let e : Session := { recv := f 0 4, granted := granted, evCount := f 8 2, evTime := f 12 4 }
        let rt := if (s.part c.hdr.partition).assign.rt then 16 else 0
        (s.tick.setQp c.hdr.qp (fun q => { q with session := some e })).reply c stOk []
          (toLE 4 1052704 ++ toLE 2 granted ++ toLE 2 (c.hdr.partition + rt) ++ toLE 2 (f 8 2) ++ zeros 2 ++ toLE 4 (f 12 4))

/-- Opcodes that need no session (R54). -/
def sessionless (op : Nat) : Bool := op == 0x0100 || op == 0x0102 || op == 0x0B00

/-- The payload of a SESSION_CLOSE fails row 14 (R58). -/
def closeRefusal (bs : List Byte) : Option Nat :=
  if bs.length != 8 then some stBadParameter else if !zerosAt bs 0 8 then some stReservedNonzero else none

/-- Stage 1 of a SESSION_CLOSE (R58): every stream of the queue pair ends, sequences as though by SEQ_CANCEL, and later
commands find no session. -/
def State.closeStreams (s : State) (c : Cmd) : State :=
  let i := c.hdr.qp
  let s1 := ((s.seqs.filter (fun q => q.stream.hdr.qp == i)).map (fun q => q.idx)).foldl (fun s k => s.endNow k stCancelled) s
  let s2 := ((s1.telems.filter (fun t => t.stream.hdr.qp == i)).map (fun t => t.handle)).foldl (fun s h => s.endTelem h stOk) s1
  let s3 := s2.setQp i (fun q => { q with session := q.session.map (fun e => { e with closing := some c.id }) })
  -- commands taken while the input of the close was on its way are later ones
  let later := s3.cmds.filter (fun d => d.hdr.qp == i && c.id < d.id && d.phase != .started && !sessionless d.hdr.opcode)
  (later.map (fun d => d.id)).foldl (fun s id => s.quit id stNoSession) s3

/-- SESSION_CLOSE once the firmware has taken it: it waits until every earlier command has replied (R58). -/
def bodySessionClose (c : Cmd) (s : State) : State := s.setCmd c.id (fun c => { c with phase := .waiting })

/-- SESSION_CLOSE_COMPLETE (R58): once no earlier command of the queue pair is outstanding, the session ends and the close
replies; opens that waited for it open their session. -/
def sessionCloseCompleteStep (qp : Nat) (s : State) : State :=
  match ((s.session qp).bind (fun e => e.closing)).bind (fun id => s.cmd? id) with
  | none => s
  | some c =>
    if c.phase != .waiting || (s.outstanding qp).any (fun d => d.id < c.id) then s
    else
      let s1 := (s.setQp qp (fun q => { q with session := none })).reply c stOk [] []
      (s1.cmds.filter (fun d => d.hdr.qp == qp && d.hdr.opcode == 0x0100 && d.phase == .waiting)).foldl
        (fun s d => bodySessionOpen d (s.setCmd d.id (fun d => { d with phase := .started }))) s1

/-- ECHO (R70): the payload returns unchanged. -/
def bodyEcho (c : Cmd) (s : State) : State := s.replyData c stOk [] c.input

/-- SET_EVENT_COALESCE (R89, R93), its reserved bytes before its ranges (log entry 13): thresholds for windows that open later; an open window keeps its own. -/
def bodySetEventCoalesce (c : Cmd) (s : State) : State :=
  s.shaped c 8 [(2, 2)] fun s =>
    let n := fieldAt c.input 0 2
    let t := fieldAt c.input 4 4
    if n == 0 || 1048575 < t then s.refuse c stBadParameter
    else
      (s.setQp c.hdr.qp (fun q => { q with session := q.session.map (fun e => { e with evCount := n, evTime := t }) })).refuse
        c stOk

/-- READINESS_QUERY (R638). -/
def bodyReadinessQuery (c : Cmd) (s : State) : State :=
  s.shaped c 8 [(0, 8)] fun s => s.replyData c stOk [] s.readinessReport

/-- The counts of Table 2-11. -/
def QpCounts.bytes (k : QpCounts) : List Byte :=
  [k.badMagic, k.unmatched, k.events, k.refused, k.requests, k.replies, k.eventsOut, k.fragments].flatMap (toLE 8)

/-- COUNTERS_READ (R93): the counts, cleared in the same action where that is asked for. -/
def bodyCountersRead (c : Cmd) (s : State) : State :=
  s.shaped c 8 [(1, 7)] fun s =>
    let flags := fieldAt c.input 0 1
    if 2 ≤ flags then s.refuse c stReservedNonzero
    else
      let k := ((s.qp? c.hdr.qp).map (fun q => q.counts)).getD {}
      (if flags == 1 then s.setQp c.hdr.qp (fun q => { q with counts := {} }) else s).replyData c stOk [] k.bytes

/-- A window of a stream has ended. -/
def State.streamDue (s : State) (st : Stream) : Bool :=
  match st.window with
  | some w => w.1 + w.2.2 ≤ s.now
  | none => false

/-- The sequence that a handle names, in whichever partition. -/
def State.seqByHandle (s : State) (h : Nat) : Option Seq := s.seqs.find? (fun q => q.handle == h)

/-- EVENT_COALESCE_TIMER (R86): the window has ended, and the held items are sent. -/
def eventCoalesceTimerStep (st : StreamRef) (s : State) : State :=
  match st with
  | .sequence h =>
    match s.seqByHandle h with
    | none => s
    | some q =>
      if s.streamDue q.stream && q.ending.isNone then
        let r := s.flushStream q.stream
        r.1.setSeq q.idx (fun q => { q with stream := r.2 })
      else s
  | .telemetry h =>
    match s.telems.find? (fun t => t.handle == h) with
    | none => s
    | some t =>
      if s.streamDue t.stream then
        let r := s.flushStream t.stream
        { r.1 with telems := updateWhere r.1.telems (fun t => t.handle == h) (fun (t : Telem) => { t with stream := r.2 }) }
      else s

/-- Every coalescing window that the present stamp has passed ends (R86): used where device time jumps. -/
def State.endWindows (s : State) : State :=
  let s1 := (s.seqs.map (fun q => q.handle)).foldl (fun s h => eventCoalesceTimerStep (.sequence h) s) s
  (s1.telems.map (fun t => t.handle)).foldl (fun s h => eventCoalesceTimerStep (.telemetry h) s) s1

end Sys2Proof.Machine
end

