-- ==== Sys2Proof/Machine/Csr.lean ====
section
/-! DEFINITION. Register accesses: what a register shows (R14, R15, R33), what a write to it does, and the management datagrams
that read and write words (R535, R662, R668, R669). -/

namespace Sys2Proof.Machine

/-! ### What a register shows -/

/-- The instance number of an address in an array of registers. -/
def instanceOf (base stride n a : Nat) : Option Nat :=
  if base ≤ a && (a - base) % stride == 0 && (a - base) / stride < n then some ((a - base) / stride) else none

/-- A register value with bits [hi:lo] replaced. -/
def putBits (v : Reg) (hi lo n : Nat) : Reg :=
  (v &&& ~~~ fieldMask hi lo) ||| BitVec.ofNat 64 (n % 2 ^ (hi + 1 - lo) * 2 ^ lo)

/-- How many of the numbers below `n` satisfy a test. -/
def countBelow (n : Nat) (f : Nat → Bool) : Nat := ((List.range n).filter f).length

/-- Query contexts in use on a walker. -/
def State.walkerLoad (s : State) (w : Nat) : Nat :=
  (s.contextsUsed w).length

/-- The status registers, one for each unit, whose fields follow the state of the unit. -/
def State.unitStatus (s : State) (a : Nat) : Option Reg :=
  let r := s.raw a
  let jobs (k : Nat) (busy : Bool) : Nat := (s.jobs.filter (fun j => j.kind == k && j.unit.isSome == busy)).length
  if a == TIER_STATUS then
    let n := sumNat (s.runners.map (fun x => (x.groups.filter (fun g => g.issued.isSome && g.doneAt.isNone)).length))
    -- how many move engines are busy is not stated and is free
    some (putBits (putBits r 31 16 n) 39 32 (if n == 0 then 0 else Config.freeBelow s.freeCtr 33))
  else if a == SPN_STATUS then
    let n := sumNat ((s.stacksReady).map (fun k => 2 ^ k))
    some (putBits (putBits r 47 40 n) 39 32 (countBelow 256 (fun g => s.fld (SPN_ENGINE g) 18 16 == 3)))
  else if a == GGE_STATUS then
    some (putBits (putBits r 39 32 (countBelow 72 (fun w => s.walkerState w == 1))) 31 15
      (sumNat ((List.range 72).map (fun w => s.walkerLoad w))))
  else if a == SEL_STATUS then some (putBits (putBits r 39 32 (jobs 0 true)) 31 0 (jobs 0 false))
  else if a == BLK_STATUS then
    let fs := s.fetches.filter (fun f => f.use != 0 && !f.settled)
    some (putBits (putBits r 31 16 (fs.filter (fun f => !f.began)).length) 15 0 (fs.filter (fun f => f.began)).length)
  else if a == LTH_STATUS then
    let n (f : Nat → Bool) := countBelow 56 f
    some (putBits (putBits (putBits (putBits r 47 40 (n (fun m => s.latheLogical m != 255))) 39 32
      (n (fun m => s.latheState m == 5))) 31 24 (n (fun m => s.bit (LTH_ARRAY m) 1))) 23 16 (n (fun m => s.bit (LTH_ARRAY m) 0)))
  else if a == HDS_STATUS then
    let e := (s.seqs.filter (fun q => q.ending.isSome)).length
    some (putBits (putBits (putBits r 47 32 e) 31 16 (s.seqs.length - e)) 15 0 (32768 - s.seqs.length))
  else if a == HDS_PREFIX_STATUS then some (putBits r 14 0 s.prefixes.length)
  else if a == TOK_STATUS then some (putBits (putBits (putBits r 39 32 (jobs 1 true)) 31 16 (jobs 1 false)) 6 0 s.vocabs.length)
  else if a == JIG_STATUS then some (putBits r 8 0 s.grammars.length)
  else if a == EMB_STATUS then
    some (putBits (putBits (putBits r 44 32 s.migs.length) 28 16 s.logUsed) 12 0 s.tables.length)
  else if a == WDN_STATUS then
    some (putBits (putBits (putBits (putBits r 39 32 (countBelow 20 (fun c => (s.core c).logical != 255))) 31 24
      (countBelow 20 (fun c => (s.core c).state == 4))) 18 16 s.fw.act) 0 0 (if s.fw.bootLkg then 1 else 0))
  else if a == WDN_VERSION then some (BitVec.ofNat 64 ((s.fw.running.map (fun i => i.version)).getD 0))
  else if a == WDN_STAGED then some (BitVec.ofNat 64 ((s.fw.staged.map (fun i => i.version)).getD 0))
  else if a == PTP_TIME then some (BitVec.ofNat 64 s.now)
  else if a == SEC_STATUS then some (s.showSec.raw a)
  else none

/-- The pending bits of sources 64 × i to 64 × i + 63, as ICU_PEND_SET and ICU_PEND_CLR show them. -/
def State.pendingWord (s : State) (i : Nat) : Nat :=
  sumNat ((List.range 64).map (fun k => if s.bit (ICU_SRC (64 * i + k)) 8 then 2 ^ k else 0))

/-- The registers with an instance number whose fields follow the state. Voltages, currents and temperatures that no command
reports are free. -/
def State.arrayStatus (s : State) (a : Nat) : Option Reg :=
  let r := s.raw a
  match instanceOf (GGE_WALKER 0) 8 72 a with
  | some w => some (putBits r 8 0 (s.walkerLoad w))
  | none =>
  match instanceOf (JIG_SLOT 0) 8 256 a with
  | some k => some (putBits r 15 0 (min 65535 (s.seqs.filter (fun q => q.gram && q.gslot == k && q.ending.isNone)).length))
  | none =>
  match instanceOf (EMB_TABLE 0) 8 4096 a with
  | some i =>
    match s.table? i with
    | none => some 0
    | some t => some (BitVec.ofNat 64 (t.cur.ver * 2 ^ 48 + t.cur.nHot * 2 ^ 24 + t.part * 2 ^ 20 + 2 ^ 19 +
        (if t.old.isSome then 2 ^ 18 else 0) + t.cur.tier * 2 ^ 16))
  | none =>
  match instanceOf (WDN_CORE 0) 8 20 a with
  | some c => some (BitVec.ofNat 64 (s.coreWord c))
  | none =>
  match instanceOf (WDN_WDOG 0) 8 20 a with
  | some c => some (putBits r 25 0 (if (s.core c).state == 1 then 50000 - (s.now - (s.core c).lastKick) / 1000 else 50000))
  | none =>
  match instanceOf (WDN_JOURNAL 0) 8 4 a with
  | some k => some (putBits (putBits r 39 16 (ceilDiv (s.payloadUsed k) 1024)) 15 0 (s.journalUsed k))
  | none =>
  match instanceOf (ICU_PEND_SET 0) 8 16 a, instanceOf (ICU_PEND_CLR 0) 8 16 a with
  | some i, _ | none, some i => some (BitVec.ofNat 64 (s.pendingWord i))
  | none, none =>
  match instanceOf (PWR_RAIL 0) 8 12 a with
  | some k => some (putBits (putBits (putBits r 2 0 2) 47 32 (Config.freeNat (s.freeCtr + k))) 31 16 (Config.freeNat (s.freeCtr + 12 + k)))
  | none =>
  match instanceOf (PWR_PHASE 0) 8 34 a with
  | some k =>
    let x := s.pwr.phases.getD k (15, 0)
    some (putBits (putBits (putBits (putBits r 19 16 x.1) 2 0 x.2) 47 32 (Config.freeNat (s.freeCtr + k))) 31 24
      (Config.freeNat (s.freeCtr + 34 + k)))
  | none => none

/-- What a register shows. -/
def State.shown (s : State) (a : Nat) : Reg :=
  match s.unitStatus a with
  | some v => v
  | none => (s.arrayStatus a).getD (s.raw a)

/-- A read by the access codes alone (R14): a write-only field reads as zero and an RC field clears. -/
def State.readAs (s : State) (a : Nat) : Option RegDesc → Reg × State
  | none => (0, s)
  | some d =>
    let rc := d.mask .rc
    (s.shown a &&& ~~~ d.mask .wo,
      ({ (if rc == 0 then s else s.setRaw a (s.raw a &&& ~~~ rc)) with freeCtr := s.freeCtr + 68 } : State))

/-- A read of a core's ICU_CLAIM, or of any other register. -/
def State.readArray (s : State) (a : Nat) : Option Nat → Reg × State
  | some c => let s1 := interruptClaimStep c s; (s1.raw a, s1)
  | none => s.readAs a (regDesc a)

/-- Read the register at `a` (R14): logs give their oldest entry, ICU_CLAIM claims, and RC fields clear. An aligned address
without a register reads as zero (R33). -/
def State.readReg (s : State) (a : Nat) : Reg × State :=
  if a == SPN_ERR_LOG then let s1 := spnErrLogReadStep s; (s1.lastRead, s1)
  else if a == LTH_ERR_LOG then let s1 := lthErrLogReadStep s; (s1.lastRead, s1)
  else if a == BOOT_FAULT_LOG then let s1 := bootFaultLogReadStep s; (s1.lastRead, s1)
  else
    s.readArray a (instanceOf (ICU_CLAIM 0) 16 16 a)

/-! ### Writes -/

/-- The bits of a register after a write by the access codes of its fields. -/
def RegDesc.written (d : RegDesc) (old v : Reg) : Reg :=
  let rw := d.mask .rw
  let kept := (old &&& ~~~ rw) ||| (v &&& rw)
  (kept &&& ~~~ (v &&& d.mask .w1c)) ||| (v &&& d.mask .w1s)

/-- A write to the register that a descriptor describes; none, and nothing is stored. -/
def State.writeAs (s : State) (a : Nat) (v : Reg) : Option RegDesc → State
  | none => s
  | some d => s.setRaw a (d.written (s.raw a) v)

/-- A write by the access codes alone (R14): RW bits take the written value, W1C bits clear and W1S bits set where it is 1;
reserved bits stay 0. -/
def State.plainWrite (s : State) (a : Nat) (v : Reg) : State := s.writeAs a v (regDesc a)

/-- A write of PRT_PART_CTRL (R462, R464): RT is stored, APPLY is carried out, and then REQUEST. -/
def State.writePartCtrl (s : State) (src : Plane) (p : Nat) (v : Reg) : State :=
  let s1 := s.plainWrite (PRT_PART_CTRL p) v
  let s2 := if v.getLsbD 2 then applyRegsStep src p s1 else s1
  match v.toNat % 4 with
  | 1 => if s2.partState p == 2 then partitionTeardownStep src p s2 else requestConfiguringStep src p s2
  | 2 => requestUpStep src p s2
  | 3 => requestDownStep src p s2
  | _ => s2

/-- A write of NET_QP_CMD (R538, R539). -/
def State.writeQpCmd (s : State) (v : Reg) : State :=
  let s1 := s.plainWrite NET_QP_CMD v
  if !v.getLsbD 63 then s1
  else
    match v.toNat % 8 with
    | 1 => qpCreateStep s1
    | 2 => qpDestroyStep s1
    | 3 => qpReadBackStep s1
    | op => s1.qpResult op 3

/-- A write of NET_CTRL: a cleared enable takes its lists down. -/
def State.writeNetCtrl (s : State) (v : Reg) : State :=
  let s1 := s.plainWrite NET_CTRL v
  let s2 := if s1.bit NET_CTRL 0 then s1 else (List.range 8).foldl (fun s l => s.linkDown l) s1
  if s2.bit NET_CTRL 1 then s2 else s2.linkDown 8

/-- A write of NET_PORT: BREAKOUT under R531, and a cleared enable takes the port's lists down. -/
def State.writeNetPort (s : State) (n : Nat) (v : Reg) : State :=
  let s1 := (breakoutChangeStep n v s).setFld (NET_PORT n) 0 0 (v.toNat % 2)
  if s1.bit (NET_PORT n) 0 then s1 else (portLists n).foldl (fun s l => s.linkDown l) s1

/-- A write to one of the registers without an instance number that do more than store. -/
def State.specialWrite (s : State) (a : Nat) (v : Reg) : Option State :=
  let t := s.plainWrite a v
  if a == TIER_CTRL then some (if v.getLsbD 2 then dirFlushStep t else t)
  else if a == SPN_CB_LOAD then some (codebookLoadStep v s)
  else if a == SPN_ABORT then some (spindleAbortStep v s)
  else if a == BLK_CTRL then some (if t.bit BLK_CTRL 0 then t.blkResume else t)
  else if a == EMB_CTRL then some (t.hotPump.embPump)
  else if a == WDN_UPDATE then some (fwUpdateStageStep v s)
  else if a == NET_CTRL then some (s.writeNetCtrl v)
  else if a == NET_QP_CMD then some (s.writeQpCmd v)
  else if a == PTP_CTRL then some (if t.bit PTP_CTRL 0 then t else t.ptpDisable)
  else if a == PWR_CTRL then some (if v.getLsbD 2 then moduleResetStep t else t)
  else if a == PWR_CAP then some t.showCap
  else none

/-- A write to one of the registers with an instance number that do more than store. Only the firmware writes OFFSET_STEPS and
BOOT_ETA (R606, R641). -/
def State.arrayWrite (s : State) (src : Plane) (a : Nat) (v : Reg) : Option State :=
  let t := s.plainWrite a v
  match instanceOf (TIER_RSV_BW 0) 0x100 16 a with
  | some p => some (t.recheckPlans p)
  | none =>
  match instanceOf (HDS_PART_CFG 0) 0x40 16 a with
  | some p => some (if (s.runner p).active then t.setRunner p (fun r => { r with cfg := some (s.partCfg p) }) else t)
  | none =>
  match instanceOf (PRT_PART_CTRL 0) 0x200 16 a with
  | some p => some (s.writePartCtrl src p v)
  | none =>
  match (List.range 16).findSome? (fun p => (instanceOf (PRT_CTX_CFG p 0) 0x10 16 a).map (fun c => (p, c))) with
  | some (p, c) => some (if v.getLsbD 51 then contextTeardownStep src p c t else t)
  | none =>
  match instanceOf (WDN_WDOG 0) 8 20 a with
  | some c => some (if v.getLsbD 63 then watchdogKickStep c s else s)
  | none =>
  match instanceOf (ICU_PEND_SET 0) 8 16 a with
  | some i => some (interruptPendSetStep i v s)
  | none =>
  match instanceOf (ICU_PEND_CLR 0) 8 16 a with
  | some i => some (interruptPendClrStep i v s)
  | none =>
  match instanceOf (ICU_COMPLETE 0) 16 16 a with
  | some c => some (interruptCompleteStep c (v.toNat % 1024) s)
  | none =>
  match instanceOf (ICU_GROUP 0) 8 64 a with
  | some _ => some (if v.toNat % 2 ^ 16 == 0 then s.setFld ICU_ERR 1 1 1 else t)
  | none =>
  match instanceOf (ICU_SRC 0) 8 1024 a with
  | some n => some (if 1023 ≤ n then s else t.icuSettle (s.fld (ICU_SRC n) 19 14))
  | none =>
  match instanceOf (NET_PORT 0) 8 5 a with
  | some n => some (s.writeNetPort n v)
  | none =>
  match instanceOf (GATE_CTRL 0) 0x20 8 a with
  | some l => some (if v.getLsbD 1 then gateConfigChangeStep l t else t)
  | none =>
  match instanceOf (PWR_RAIL 0) 8 12 a with
  | some r => some (if src == .firmware then railOffsetWriteStep r (v.toNat / 2 ^ 12 % 16) s else s)
  | none =>
  match instanceOf (CXL_LINK_CTRL 0) 0x20 4 a with
  | some l => some (if v.getLsbD 0 then rearmStep l s else s)
  | none =>
  match instanceOf (BOOT_ETA 0) 8 64 a with
  | some _ => some (if src == .firmware then t else s)
  | none =>
  match instanceOf (POL_RATE 0) 0x40 4096 a, instanceOf (POL_BURST 0) 0x40 4096 a with
  | some m, _ => some ((s.holdMeter m).plainWrite a v)
  | none, some m => some ((s.holdMeter m).plainWrite a v)
  | none, none => none

/-- The partition whose PRT_ registers hold an address. -/
def prtOwner (a : Nat) : Option Nat := if 0x0FF0_00C0_1000 ≤ a && a < 0x0FF0_00C0_3000 then some ((a - 0x0FF0_00C0_1000) / 0x200) else none

/-- A write to a register: the management plane cannot write the PRT_ registers of a locked partition (R662). -/
def State.writeReg (s : State) (src : Plane) (a : Nat) (v : Reg) : State :=
  if ((prtOwner a).map (fun p => s.prtOpen src p)).getD true then
    match s.specialWrite a v with
    | some t => t
    | none => (s.arrayWrite src a v).getD (s.plainWrite a v)
  else s

/-- An address of CSR space (Table 1-4). -/
def inCsr (a : Nat) : Bool := 0x0FF0_0000_0000 ≤ a && a < 0x1000_0000_0000

/-- CSR_WRITE (R14, R26, R33): a misaligned access, or one outside every range of Table 1-4, has no effect; from the firmware, it
raises a bus error on the control core that issues it. -/
def csrWriteStep (src : CsrWriter) (a : Nat) (v : Reg) (s : State) : State :=
  if inCsr a && a % 8 == 0 then s.writeReg src.plane a v
  else
    match src with
    | .core c => if inCsr a || !s.listed a 8 then coreExceptionStep c .busError s else s
    | .management => s

/-! ### Management access (R535, R662, R668, R669) -/

/-- The partition that holds an address outside CSR space: its region, its CXL ranges, its Tool store ways, its Lathe buffer
windows. -/
def State.memHolder (s : State) (a : Nat) : Option Nat :=
  if 0x0F80_0000_0000 ≤ a then s.latheOwner ((a - 0x0F80_0000_0000) / 0x0100_0000)
  else if 0x0F00_0000_0000 ≤ a then s.holderOf (fun x => x.ways) ((a - 0x0F00_0000_0000) / 0x30_0000)
  else (List.range 16).find? (fun p => (s.partMemory p).any (fun r => r.1 ≤ a && a < r.1 + r.2))

/-- The management plane may reach an address (R662, R663). -/
def State.mgmtOpen (s : State) (write : Bool) (a : Nat) : Bool :=
  if inCsr a then !write || ((prtOwner a).map (fun p => s.prtOpen .management p)).getD true
  else 1 ≤ s.sec.debug || ((s.memHolder a).map (fun p => !s.sec.cfg.locked.testBit p)).getD true

/-- A word that no access reaches: misaligned, or in no range of Table 1-4 (R26, R33). -/
def State.badWord (s : State) (a : Nat) : Bool := a % 8 != 0 || !(inCsr a || s.listed a 8)

/-- Read one word: a register, or eight bytes of memory. A corrected word is reported (R181); so is an uncorrectable one,
and what the answer carries for it is free. -/
def State.mgmtReadWord (s : State) (a : Nat) : Reg × State :=
  if inCsr a then s.readReg a
  else if s.isUe a 8 then (BitVec.ofNat 64 (Config.freeNat s.freeCtr), s.tick.dramUe a)
  else (BitVec.ofNat 64 (s.num a 8), s.readCe a 8)

/-- Write one word. -/
def State.mgmtWriteWord (s : State) (a : Nat) (v : Reg) : State :=
  if inCsr a then s.writeReg .management a v else s.store a (toLE 8 v.toNat)

/-- Read words in order, stopping at one that answers with an error: status, words done. -/
def mgmtReadAll : Nat → Nat → State → Nat × List Reg × State
  | 0, _, s => (0, [], s)
  | n + 1, a, s =>
    if s.badWord a then (1, [], s)
    else if !s.mgmtOpen false a then (2, [], s)
    else
      let r := s.mgmtReadWord a
      let k := mgmtReadAll n (a + 8) r.2
      (k.1, r.1 :: k.2.1, k.2.2)

/-- Write words in order, stopping at one that answers with an error: status and the number done. -/
def mgmtWriteAll : List Reg → Nat → Nat → State → Nat × Nat × State
  | [], _, n, s => (0, n, s)
  | v :: vs, a, n, s =>
    if s.badWord a then (1, n, s)
    else if !s.mgmtOpen true a then (2, n, s)
    else mgmtWriteAll vs (a + 8) (n + 1) (s.mgmtWriteWord a v)

/-- A datagram of Table 14-2 before its tag. -/
def mgmtBytes (op count seq first status : Nat) (words : List Reg) : List Byte :=
  toLE 2 0x4D41 ++ toLE 1 op ++ toLE 1 count ++ toLE 4 seq ++ toLE 8 first ++ toLE 2 status ++ zeros 6 ++
    words.flatMap (fun w => toLE 8 w.toNat)

/-- A request carries the tag of the management key (R668); without a configuration no tag matches (R661). -/
def State.mgmtAuth (s : State) (op : Nat) (d : MgmtDatagram) : Bool :=
  s.sec.loaded && d.tag == kmac s.sec.cfg.mgmtKey (mgmtBytes op d.count d.seq d.first 0 d.words)

/-- Answer with status 3: counted, and its tag is zero. -/
def State.mgmtReject (s : State) (op : Nat) (d : MgmtDatagram) : State :=
  (s.bump SEC_FAIL_CNT 63 32 1).emit (.mgmtAnswer d.source d.port (mgmtBytes (op + 128) 0 d.seq d.first 3 [] ++ zeros 16))

/-- Keep an answer as the last one to its source, most recently used first, for at most 64 sources (R669). -/
def State.keepAnswer (s : State) (d : MgmtDatagram) (answer : List Byte) : State :=
  let x : MgmtSource := ⟨d.source, d.port, d.seq, answer⟩
  { s with sec := { s.sec with
      sources := (x :: s.sec.sources.filter (fun y => !(y.addr == d.source && y.port == d.port))).take 64 } }

/-- The module serves management access: from boot step 2, while the port is enabled (R533, R634). -/
def State.mgmtServed (s : State) : Bool := s.bit NET_CTRL 1 && s.fld BOOT_STATUS 3 0 != 0

/-- A datagram that is not laid out as Table 14-2 states is no management access, and is discarded as R533 states. -/
def mgmtShape (op : Nat) (d : MgmtDatagram) : Bool :=
  1 ≤ d.count && d.count ≤ 64 && d.tag.length == 16 && d.words.length == (if op == 2 then d.count else 0)

/-- Answer an authenticated request that is not a repeat. -/
def State.mgmtRun (s : State) (op : Nat) (d : MgmtDatagram) : State :=
  let (bytes, s1) :=
    if op == 1 then
      let r := mgmtReadAll d.count d.first s
      (mgmtBytes 129 r.2.1.length d.seq d.first r.1 r.2.1, r.2.2)
    else
      let r := mgmtWriteAll d.words d.first 0 s
      (mgmtBytes 130 r.2.1 d.seq d.first r.1 [], r.2.2)
  let answer := bytes ++ kmac s.sec.cfg.mgmtKey bytes
  (s1.keepAnswer d answer).emit (.mgmtAnswer d.source d.port answer)

/-- A management datagram (R535, R669). -/
def State.mgmtAccess (s : State) (op : Nat) (d : MgmtDatagram) : State :=
  if !s.mgmtServed then s
  else if !mgmtShape op d then frameDiscardStep 8 0 s
  else if !s.mgmtAuth op d then s.mgmtReject op d
  else
    match s.sec.sources.find? (fun x => x.addr == d.source && x.port == d.port) with
    | some x =>
      if d.seq == x.seq then (s.keepAnswer d x.answer).emit (.mgmtAnswer d.source d.port x.answer)
      else if d.seq < x.seq then s.mgmtReject op d
      else s.mgmtRun op d
    | none => s.mgmtRun op d

/-- MGMT_READ. -/
def mgmtReadStep (d : MgmtDatagram) (s : State) : State := s.mgmtAccess 1 d

/-- MGMT_WRITE. -/
def mgmtWriteStep (d : MgmtDatagram) (s : State) : State := s.mgmtAccess 2 d

end Sys2Proof.Machine
end

