-- ==== Sys2Proof/Machine/Serve.lean ====
section
/-! DEFINITION. Command intake (spec/02, spec/13): the checks of Table 2-12, fragments, source references, the order of commands,
the firmware work queue, deadlines, and how a step of the block runs. -/

namespace Sys2Proof.Machine

/-! ### What an opcode does -/

/-- The effect of a command whose start nothing holds back any more. -/
def runBody (c : Cmd) (s : State) : State :=
  match c.hdr.opcode with
  | 0x0100 => bodySessionOpen c s
  | 0x0101 => bodySessionClose c s
  | 0x0102 => bodyEcho c s
  | 0x0103 => bodySetEventCoalesce c s
  | 0x0104 => bodyReadinessQuery c s
  | 0x0200 => bodySearch c s
  | 0x0201 => bodySearchShard c s
  | 0x0202 => bodySearchBatch c s
  | 0x0203 => bodyIndexInsert c s
  | 0x0204 => bodyIndexDelete c s
  | 0x0205 => bodyIndexLoad c s
  | 0x0206 => bodyIndexMergeStart c s
  | 0x0207 => bodyIndexEpochQuery c s
  | 0x0208 => bodyShardMapSet c s
  | 0x0209 => bodyVectorFetch c s
  | 0x020A => bodyPassageFetch c s
  | 0x020B => bodyIndexUnload c s
  | 0x0300 => bodyEmbed runTok c s
  | 0x0301 => bodyRescore c s
  | 0x0302 => bodyRerank c s
  | 0x0303 => bodyRewardScore c s
  | 0x0400 => bodyGenerate c s
  | 0x0401 => bodyRagGenerate runTok c s
  | 0x0402 => bodySeqAppend c s
  | 0x0403 => bodySeqCancel c s
  | 0x0404 => bodySeqStatus c s
  | 0x0405 => bodySeqSetPriority c s
  | 0x0406 => bodyPrefixStore c s
  | 0x0407 => bodyPrefixRelease c s
  | 0x0500 => bodyEmbGather c s
  | 0x0501 => bodyEmbScatterAdd c s
  | 0x0502 => bodyEmbUpdate c s
  | 0x0503 => bodyEmbTableCreate c s
  | 0x0504 => bodyEmbTableReplace c s
  | 0x0505 => bodyEmbHotsetSet c s
  | 0x0506 => bodyEmbTableDrop c s
  | 0x0600 => bodySelectTopk c s
  | 0x0601 => bodyArgmax c s
  | 0x0602 => bodySelectTopp c s
  | 0x0700 => bodyTokenize runTok c s
  | 0x0701 => bodyDetokenize c s
  | 0x0702 => bodyVocabLoad c s
  | 0x0703 => bodyGrammarLoad c s
  | 0x0704 => bodyGrammarUnload c s
  | 0x0800 => bodyMemWrite c s
  | 0x0801 => bodyMemRead c s
  | 0x0802 => tierPromoteBody c s
  | 0x0803 => tierEvictBody c s
  | 0x0804 => bodyTierPolicySet c s
  | 0x0805 => bodyTileDirQuery c s
  | 0x0900 => bodyModelLoad c s
  | 0x0901 => bodyModelUnload c s
  | 0x0902 => bodyVariantSet c s
  | 0x0903 => bodyVariantClear c s
  | 0x0904 => bodyVersionTurnover c s
  | 0x0905 => bodyLearnStep c s
  | 0x0906 => bodyOptimizerStep c s
  | 0x0907 => bodyGradAllreduce c s
  | 0x0A00 => bodyPartQuery c s
  | 0x0A01 => bodyContextSuspend c s
  | 0x0A02 => bodyContextResume c s
  | 0x0A03 => bodyPlanAdmit c s
  | 0x0B00 => bodyMbHello c s
  | 0x0B01 => bodyMbMessage c s
  | 0x0B02 => bodyFwActivate c s
  | 0x0C00 => bodyAttestReport c s
  | 0x0C01 => bodyMeasureLogRead c s
  | 0x0C02 => bodyOwnerClaim c s
  | 0x0C03 => bodyProtectPropose c s
  | 0x0C04 => bodyProtectCosign c s
  | 0x0D00 => bodyTelemetryRead c s
  | 0x0D01 => bodyCountersRead c s
  | 0x0D02 => bodyTelemetrySubscribe c s
  | 0x0D03 => bodyLogRead c s
  | _ => s.refuse c stUnknownOpcode

/-! ### The firmware work queue (R488, R83, R511 to R514, R519) -/

/-- A command that its core has not done at once is held by a CHECKPOINT record, which is written to the work journal in HBM as well, and
leaves the core idle. What the record's bytes are is not stated: they are free (log entry 143). -/
def State.checkpointed (s : State) (id : Nat) : State :=
  match s.fw.journal.find? (fun j => j.cmd == id && j.kind == .taken) with
  | none => s
  | some _ =>
    let used := s.fw.journal.filterMap (fun j => j.slot)
    let slot := ((List.range (used.length + 1)).find? (fun i => !used.contains i)).getD 0
    let kept (j : Journaled) : Journaled :=
      if j.cmd == id then { j with kind := .checkpoint, records := j.records + 1, slot := some slot } else j
    let s1 := s.tick.fwStore (0x300_0000 + 64 * slot) ((List.range 64).map (Config.freeByte s.freeCtr))
    { s1 with fw := { s1.fw with journal := s1.fw.journal.map kept } }

/-- A core takes a command: it leaves the work queue, its TAKEN record is written over what the core's last reply has left, and the
trace point is reached. -/
def State.takenBy (s : State) (core : Nat) (c : Cmd) : State :=
  let k := servingCluster c.hdr.opcode
  let j : Journaled := { cmd := c.id, cluster := k, core := core, kind := .taken, records := 1, hdr := c.hdr, payload := c.input }
  let s1 := s.setCmd c.id (fun d => { d with phase := .started })
  let fw : Fw := { s1.fw with
    work := s1.fw.work.filter (fun i => i != c.id), workLast := assocSet s1.fw.workLast k (granted ((assoc s1.fw.workLast k).getD []) c.hdr.qp)
    journal := s1.fw.journal.filter (fun x => x.core != core || !x.replied) ++ [j] }
  ({ s1 with fw := fw } : State).trace c.hdr.opcode 0

/-- A core takes a command and does its work. -/
def State.takeWork (s : State) (core : Nat) (c : Cmd) : State :=
  (runBody { c with phase := .started } (s.takenBy core c)).checkpointed c.id

/-- Intake has passed a command to the work queue: it passes those of a queue pair in arrival order, each once its input is present
(R42, log entry 114). -/
def State.passed (s : State) (c : Cmd) : Bool :=
  !s.cmds.any (fun d => d.hdr.qp == c.hdr.qp && d.id < c.id && d.phase == .fetching && slowPath d.hdr.opcode)

/-- The commands of the work queue that cluster `k` serves, in arrival order. -/
def State.queuedFor (s : State) (k : Nat) : List Cmd :=
  (s.fw.work.filterMap (fun i => s.cmd? i)).filter (fun c => servingCluster c.hdr.opcode == k && s.passed c)

/-- The cluster may take a command: the work queue is enabled, and the cluster neither drains for an activation nor lacks journal
or payload memory. -/
def State.takes (s : State) (k n : Nat) : Bool := s.bit WDN_CTRL 0 && !s.fw.drained.contains k && s.journalRoom k n

/-- A cluster that takes commands waits for journal or payload memory: JOURNAL_FULL (R514). -/
def State.journalWait (s : State) (k n : Nat) : State :=
  if s.bit WDN_CTRL 0 && !s.fw.drained.contains k && !s.journalRoom k n then s.event WDN_EVENT 5 else s

/-- The command that the arbiter of Table 1-6 grants: the real-time class first, then urgent commands, then rotation among
queue pairs. -/
def State.nextWork (s : State) (k : Nat) : Option Cmd :=
  let all := s.queuedFor k
  let rt := all.filter (fun c => c.hdr.svc == 2)
  let a := if rt.isEmpty then all else rt
  let ur := a.filter (fun c => c.hdr.urgent)
  let b := if ur.isEmpty then a else ur
  (rotate ((assoc s.fw.workLast k).getD []) (b.map (fun c => c.hdr.qp))).bind (fun i => b.find? (fun c => c.hdr.qp == i))

/-- A command leaves the work queue for a core: one whose deadline has passed is refused (Table 2-8). -/
def State.grantWork (s : State) (core : Nat) (c : Cmd) : State :=
  if c.hdr.deadline != 0 && c.hdr.deadline ≤ s.now && c.hdr.opcode != 0x0101 then s.refuse c stDeadlineMissed
  else s.takeWork core c

/-- WORK_QUEUE_TAKE (R488): an idle core takes the command that the arbiter grants. -/
def workQueueTakeStep (core : Nat) (s : State) : State :=
  let k := (s.core core).logical / 4
  if !(s.roleCores k).contains core then s
  else
    match s.nextWork k with
    | none => s
    | some c => if s.takes k c.input.length then s.grantWork core c else s.journalWait k c.input.length

/-- The arrival of a slow-path command at the work queue raises its events (Table 13-12). -/
def State.queueEvents (s : State) (c : Cmd) : State :=
  let s1 := s.icuEvent (32 + c.hdr.svc)
  if c.hdr.urgent then s1.icuEvent 35 else s1

/-- The core that takes a command at once: an idle one of its cluster, where no command waits before it. -/
def State.coreFor (s : State) (c : Cmd) : Option Nat :=
  let k := servingCluster c.hdr.opcode
  if s.takes k c.input.length && s.passed c && (s.queuedFor k).isEmpty then (s.roleCores k).head? else none

/-- A slow-path command reaches the work queue, and waits there, in its place by intake (R42), unless a core takes it at once. -/
def State.enqueue (s : State) (c : Cmd) : State :=
  let s1 := s.queueEvents c
  match s1.coreFor c with
  | some core => s1.takeWork core c
  | none =>
    let s2 := s1.journalWait (servingCluster c.hdr.opcode) c.input.length
    let work := insertBy (fun a b => decide (a < b)) c.id s2.fw.work
    { (s2.setCmd c.id (fun d => { d with phase := .queued })) with fw := { s2.fw with work := work } }

/-! ### The order of commands (R76 to R78) -/

/-- The objects that a command names (R76): a kind (0 sequence, 1 prefix handle, 2 index, 3 embedding table, 4 grammar, 5 model,
6 variant, 7 device memory) and the numbers or addresses from the first to the second. A field whose bytes are still on
their way may name anything. -/
structure Named where
  kind : Nat
  lo   : Nat
  hi   : Nat
  deriving DecidableEq, Repr, Inhabited

/-- The object named by a field of the input. -/
def Cmd.named (c : Cmd) (kind off len : Nat) : Named :=
  if c.input.length < off + len then ⟨kind, 0, 2 ^ 64⟩
  else
    let v := fieldAt c.input off len
    ⟨kind, v, v + 1⟩

/-- The object named by a field, none where the field holds `no`. -/
def Cmd.namedUnless (c : Cmd) (kind off len no : Nat) : List Named :=
  if off + len ≤ c.input.length && fieldAt c.input off len == no then [] else [c.named kind off len]

/-- The memory range whose address and length two fields give. -/
def Cmd.range (c : Cmd) (aOff nOff nLen : Nat) : Named :=
  if c.input.length < max (aOff + 8) (nOff + nLen) then ⟨7, 0, 2 ^ 64⟩
  else
    let a := fieldAt c.input aOff 8
    ⟨7, a, a + fieldAt c.input nOff nLen⟩

/-- The key array of a selection, where it lies in device memory (Table 6-5). -/
def Cmd.arrayNamed (c : Cmd) : List Named :=
  if c.input.length < 24 then [⟨7, 0, 2 ^ 64⟩]
  else
    let a := fieldAt c.input 16 8
    if a == 0 then [] else [⟨7, a, a + fieldAt c.input 4 4 * ((fmtBits (fieldAt c.input 0 1)).getD 32 / 8)⟩]

/-- The objects of a generation block. -/
def Cmd.genNamed (c : Cmd) : List Named :=
  [c.named 5 0 2] ++ c.namedUnless 6 4 2 0xFFFF ++ c.namedUnless 5 6 2 0xFFFF ++ c.namedUnless 1 40 8 0 ++
    (if c.input.length < 14 || (fieldAt c.input 12 2).testBit 3 then [c.named 4 11 1] else [])

/-- The area that an embedding-table descriptor names. -/
def Cmd.tableRange (c : Cmd) : Named :=
  if c.input.length < 64 then ⟨7, 0, 2 ^ 64⟩
  else
    let v := (parseEmb c.input).2
    ⟨7, v.base, v.base + v.rows * v.stride⟩

/-- The kernel code that the layer records of a plan name (Table 12-7). -/
def Cmd.planRanges (c : Cmd) : List Named :=
  if c.input.length < 32 || c.input.length < 32 + 32 * fieldAt c.input 20 4 then [⟨7, 0, 2 ^ 64⟩]
  else (parsePlan c.input).layers.map (fun e => ⟨7, e.1, e.1 + 16 * e.2.1⟩)

/-- Every object that a command names. -/
def Cmd.objects (c : Cmd) : List Named :=
  let op := c.hdr.opcode
  if op == 0x0205 then [c.named 2 0 2, ⟨7, fieldAt c.input 24 8, 2 ^ 48⟩, c.range 32 40 8]
  else if 0x0200 ≤ op && op ≤ 0x020B || op == 0x0301 then [c.named 2 0 2]
  else if op == 0x0300 || op == 0x0303 then [c.named 5 0 2]
  else if op == 0x0302 then [c.named 5 0 2, c.named 2 4 2]
  else if op == 0x0400 then c.genNamed
  else if op == 0x0401 then c.genNamed ++ [c.named 5 64 2] ++ c.namedUnless 5 68 2 0xFFFF ++ [c.named 2 96 2]
  else if 0x0402 ≤ op && op ≤ 0x0406 then [c.named 0 0 4]
  else if op == 0x0407 then [c.named 1 0 8]
  else if op == 0x0503 || op == 0x0504 then [c.named 3 0 2, c.tableRange]
  else if op / 256 == 5 then [c.named 3 0 2]
  else if op / 256 == 6 then c.arrayNamed
  else if op == 0x0700 || op == 0x0701 then [c.named 5 0 2]
  else if op == 0x0702 then [c.range 8 16 8, ⟨5, 0, 2 ^ 64⟩]
  else if op == 0x0703 then [c.named 5 0 2, c.range 8 4 4]
  else if op == 0x0704 then [c.named 4 0 1]
  else if op == 0x0800 || op == 0x0801 then [c.range 0 8 4]
  else if op == 0x0900 then [c.named 5 0 2, c.range 8 16 8]
  else if op == 0x0A03 then c.named 5 0 2 :: c.planRanges
  else if [0x0901, 0x0904, 0x0905, 0x0906].contains op then [c.named 5 0 2]
  else if op == 0x0902 then [c.named 6 0 2, c.named 5 2 2]
  else if op == 0x0903 then [c.named 6 0 2]
  else if op == 0x0907 then
    (if c.input.length < 3 then [⟨5, 0, 2 ^ 64⟩, c.range 24 20 4]
     else if (fieldAt c.input 2 1).testBit 0 then [c.named 5 16 2] else [c.range 24 20 4])
  else if op == 0x0B01 && fieldAt c.input 0 2 == 2 then [c.range 16 24 8]
  else []

/-- Two commands name an object in common. -/
def meets (a b : List Named) : Bool := a.any (fun x => b.any (fun y => x.kind == y.kind && x.lo < y.hi && y.lo < x.hi))

/-- `d` is an INDEX_UNLOAD that has been accepted, and `c` was taken before its acceptance: the unload waits for `c` (R216). -/
def State.unloadWaits (s : State) (d c : Cmd) : Bool :=
  s.indices.any (fun x => match x.unload with
    | some u => u.1 == d.id && c.intake < u.2
    | none => false)

/-- A command has still to take effect or to queue its reply, and the later command `c` on its objects waits for it (R76). A command
of form E is settled by its accept reply, and an accepted INDEX_UNLOAD waits itself for what was taken before (R216). -/
def State.unsettled (s : State) (d c : Cmd) : Bool :=
  -- a turnover of a model does not wait for an earlier one of it: it is refused (R359)
  !(c.hdr.opcode == 0x0904 && s.turning c) && (d.phase != .started ||
    !((replyForm d.hdr.opcode == 3 && !s.rags.any (fun r => r.cmd == d.id)) || s.unloadWaits d c))

/-- Objects whose order holds across queue pairs of a partition (R77). -/
def shared (l : List Named) : List Named := l.filter (fun x => x.kind < 2)

/-- A CXL link is in a recovery window. -/
def State.recovering (s : State) (a : Nat) : Bool :=
  (cxlLinkOf a).any (fun l => (s.cxl.getD l {}).window.isSome)

/-- A command's accesses wait for a recovery window to end (R603): it names memory of the link, or an object that is held there. -/
def State.inRecovery (s : State) (c : Cmd) : Bool :=
  c.objects.any (fun x => x.kind == 7 && x.lo < x.hi && s.recovering x.lo) ||
  ((c.hdr.opcode == 0x0802 || c.hdr.opcode == 0x0803) &&
    s.dir.any (fun e => e.1 == c.hdr.partition && (namedIds c).contains e.2.id && e.2.t2.any s.recovering))

/-- The input of an earlier SESSION_CLOSE of the queue pair is still on its way: whether `c` finds a session is not known before it
is present (R58, log entry 115). -/
def State.closeComing (s : State) (c : Cmd) : Bool :=
  c.hdr.opcode != 0x0102 && c.hdr.opcode != 0x0B00 &&
    s.cmds.any (fun d => d.hdr.qp == c.hdr.qp && d.id < c.id && d.phase == .fetching && d.hdr.opcode == 0x0101)

/-- An earlier command holds back the start of `c`. -/
def State.mustWait (s : State) (c : Cmd) : Bool :=
  s.closeComing c ||
  -- what is decided at a cancel's own intake stamp comes before it (R350)
  (c.hdr.opcode == 0x0403 && s.now ≤ c.intake) ||
  let mine := c.objects
  s.cmds.any (fun d => d.id < c.id &&
    (if d.hdr.qp == c.hdr.qp then s.unsettled d c && meets d.objects mine
     else d.hdr.partition == c.hdr.partition && (d.phase != .started || s.rags.any (fun r => r.cmd == d.id)) &&
      meets (shared d.objects) (shared mine))) || (c.hdr.opcode / 256 == 5 && s.embHeld c) || s.inRecovery c

/-- Start a command: the firmware's go to the work queue, the others run. -/
def State.dispatch (s : State) (c : Cmd) : State :=
  if slowPath c.hdr.opcode then s.enqueue c
  else
    runBody { c with phase := .started } (s.setCmd c.id (fun d => { d with phase := .started }))

/-- Start a command unless an earlier one on its objects must come first. -/
def State.inOrder (s : State) (c : Cmd) : State :=
  if s.mustWait c then s.setCmd c.id (fun d => { d with phase := .ordered }) else s.dispatch c

/-- Start a command that has passed its checks, after its fence (R78) and in order (R76). -/
def State.begin_ (s : State) (c : Cmd) : State :=
  if c.fence && (s.outstanding c.hdr.qp).any (fun d => d.id < c.id) then s.setCmd c.id (fun d => { d with phase := .fenced })
  else s.inOrder c

/-- FENCE_RELEASE (R78): every earlier command of the queue pair has queued its reply. -/
def fenceReleaseStep (id : Nat) (s : State) : State :=
  match s.cmd? id with
  | none => s
  | some c =>
    if c.phase != .fenced || (s.outstanding c.hdr.qp).any (fun d => d.id < c.id) then s else s.inOrder c

/-- Commands that waited for an earlier one start, in intake order. -/
def State.releaseOrdered : Nat → State → State
  | 0, s => s
  | n + 1, s =>
    match s.cmds.find? (fun c => c.phase == .ordered && !s.mustWait c) with
    | none => s
    | some c => State.releaseOrdered n (s.dispatch c)

/-! ### Row 14 of Table 2-12 -/

/-- The features that a command's flags and fields name (Table 13-3). -/
def Cmd.features (c : Cmd) : List Nat :=
  let op := c.hdr.opcode
  let n := c.input.length
  let f := fieldAt c.input
  let flag (off bit : Nat) : Bool := off < n && (f off 1).testBit bit
  let gen : Bool := op == 0x0400 || op == 0x0401
  let shard : Bool := ((op == 0x0200 || op == 0x0202) && flag 3 0) || (op == 0x0401 && flag 99 0) ||
    ((op == 0x0301 || op == 0x0302) && flag 6 0)
  (if c.hdr.svc == 2 then [14] else []) ++ (if shard then [2] else []) ++
    (if gen && 8 ≤ n && f 6 2 != 0xFFFF then [5] else []) ++
    (if gen && 14 ≤ n && f 12 2 / 32 % 4 == 1 then [6] else []) ++ (if gen && flag 12 3 then [7] else []) ++
    (if op == 0x0300 && 5 ≤ n && f 4 1 == 1 then [10] else [])

/-- The readiness bits that a command needs (Table 16-10). -/
def Cmd.needs (c : Cmd) : List Nat :=
  let op := c.hdr.opcode
  let n := c.input.length
  let f := fieldAt c.input
  [rdyIntake] ++ readinessNeeded op ++
    (if (op == 0x0400 || op == 0x0401) && 14 ≤ n && (f 12 2).testBit 3 then [rdyJig] else []) ++
    (if op == 0x0300 && 5 ≤ n && f 4 1 == 1 then [rdyTokenizer] else [])

/-- The first checks of row 14, with the status and items of the refusal: features (R493), readiness at the intake stamp (R636),
the partition (R461), the context (R471, R480). -/
def State.rowFourteen (s : State) (c : Cmd) : Option (Nat × List Item) :=
  let p := c.hdr.partition
  let st := s.ctxState p c.ctx
  if c.features.any (fun b => !c.feats.getLsbD b) then some (stFeatureNotNegotiated, [])
  else
    match minNat? (c.needs.filter (fun b => !c.snap.ready.getLsbD b)) with
    | some b => some (stNotReady, [retryHint (s.readyHint b c.intake)])
    | none =>
      if s.partState p != 2 then some (stPartitionDown, [])
      else if st == 4 then some (stContextTornDown, [])
      else if (st == 2 || st == 3) && !([0x0A00, 0x0A01, 0x0A02].contains c.hdr.opcode) then
        some (stNotReady, [retryHint (s.fld (PRT_SWITCH_CFG p) 31 16)])
      else none

/-- A command does not start at once: it waits for its fence, for an earlier command or for a core. -/
def State.heldBack (s : State) (c : Cmd) : Bool :=
  (c.fence && (s.outstanding c.hdr.qp).any (fun d => d.id < c.id)) || s.mustWait c ||
    (slowPath c.hdr.opcode && ((s.queueEvents c).coreFor c).isNone)

/-- A status with which a check refuses a command (R75): of class 0x02xx, 0x03xx or 0x04xx, but for REPLY_SPACE, which answers the
result (R63), DEFERRED, which is no refusal (R505), and DEADLINE_MISSED. -/
def refusing (st : Nat) : Bool :=
  2 ≤ statusClass st && statusClass st ≤ 4 && st != stReplySpace && st != stDeferred && st != stDeadlineMissed

/-- The refusal that the checks of a command's own chapter give at intake (R66, R78, row 14): what the command would do if it
started now, where that is a refusal. Of INDEX_UNLOAD and INDEX_MERGE_START the spec has the firmware make the checks when it takes
them (R216, R227); log entry 38. -/
def State.chapterRefusal (s : State) (c : Cmd) : Option State :=
  if c.hdr.opcode == 0x020B || c.hdr.opcode == 0x0206 then none
  else
    let t := runBody { c with phase := .started } s
    match t.sent.drop s.sent.length with
    | [.packet p] => if p.hdr == c.hdr && p.flags % 2 == 1 && refusing p.status then some t else none
    | _ => none

/-- The whole input of a command is present (R60): the checks of row 14, stage 1 of a SESSION_CLOSE, and the start. -/
def State.presentCmd (s : State) (c : Cmd) : State :=
  match s.rowFourteen c with
  | some r => s.reply c r.1 r.2 []
  | none =>
    if c.hdr.opcode == 0x0101 then
      match closeRefusal c.input with
      | some st => s.refuse c st
      | none => (s.closeStreams c).begin_ c
    else
      match (if s.heldBack c && !s.closeComing c then s.chapterRefusal c else none) with
      | some t => t
      | none => s.begin_ c

/-- The whole input of an outstanding command is present. -/
def State.present (s : State) (id : Nat) : State :=
  match s.cmd? id with
  | none => s
  | some c => s.presentCmd c

/-! ### Source references (R61, R62) -/

/-- Issue the RDMA READs of a queue pair in intake order, up to its limit. -/
def State.issueReads (s : State) (i : Nat) : State :=
  match s.qp? i with
  | none => s
  | some q =>
    let cs := s.cmds.filter (fun c => c.hdr.qp == i && c.phase == .fetching)
    let open_ := sumNat (cs.map (fun c => c.issued)) + sumNat (q.orphans.map (fun e => e.2))
    let wait := cs.flatMap (fun c => (c.refs.drop c.issued).map (fun r => (c.id, r)))
    (wait.take (q.field 12 1 - open_)).foldl (fun s x =>
      (s.setCmd x.1 (fun c => { c with issued := c.issued + 1 })).emit (.rdmaRead i x.2.addr x.2.key x.2.len)) s

/-- A read in flight of a command that is outstanding no longer has ended: its place goes to the reads that wait. -/
def State.orphanRead (s : State) (id : Nat) (o : FetchOutcome) : State :=
  match s.qps.find? (fun q => q.orphans.any (fun e => e.1 == id)) with
  | none => s
  | some q =>
    match o with
    | .remote => s.qpLoss q.index
    | _ =>
      let less (e : Nat × Nat) : Option (Nat × Nat) :=
        if e.1 != id then some e else if e.2 ≤ 1 then none else some (e.1, e.2 - 1)
      (s.setQp q.index (fun q => { q with orphans := q.orphans.filterMap less })).issueReads q.index

/-- REF_FETCH_COMPLETE (R60 to R62): the read of a command's earliest reference has ended. -/
def refFetchCompleteStep (id : Nat) (o : FetchOutcome) (s : State) : State :=
  match s.cmd? id with
  | none => s.orphanRead id o
  | some c =>
    if c.phase != .fetching || c.issued == 0 then s
    else
      match o, c.refs with
      | .remote, _ => s.qpLoss c.hdr.qp
      | .module, _ =>
        ((s.setCmd id (fun c => { c with issued := c.issued - 1 })).quit id stRefFetchFailed).issueReads c.hdr.qp
      | .data _, [] => s
      | .data bs, r :: rest =>
        let s1 := s.setCmd id (fun c => { c with input := c.input ++ padTo r.len (bs.take r.len), refs := rest, issued := c.issued - 1 })
        let s2 := if rest.isEmpty then (s1.setCmd id (fun c => { c with phase := .waiting })).present id else s1
        s2.issueReads c.hdr.qp

/-! ### Taking a command (R41, R56, R66) -/

/-- The header that replies echo (R51). -/
def hdrOf (op : Nat) (r : Req) : Hdr :=
  { qp := r.qp, opcode := op, partition := r.partition, svc := r.svc, urgent := r.flags.getLsbD 3, tag := r.tag,
    deadline := r.deadline }

/-- The more-fragments flag. -/
def hasMore (r : Req) : Bool := r.flags.getLsbD 1

/-- The extension bytes of a message. -/
def extOf (r : Req) : List Byte := (r.ext ++ r.payload).take r.extLen

/-- The payload bytes of a message. -/
def payOf (r : Req) : List Byte := (r.ext ++ r.payload).drop r.extLen

/-- A request is refused before it is taken, and counted (R93). -/
def State.turnAway (s : State) (h : Hdr) (st : Nat) : State :=
  (s.count h.qp (fun k => { k with requests := k.requests + 1 })).sendReply h st [] []

/-- The versions in force for a partition (R41). -/
def State.snapOf (s : State) (p : Nat) : Snap :=
  { indices := (s.indices.filter (fun x => x.part == p && x.unload.isNone)).map (fun x => (x.num, x.epoch.num, x.wstart, x.wend))
    models := (s.models.filter (fun m => m.part == p && m.current)).map (fun m => (m.id, m.version))
    tables := (s.tables.filter (fun t => t.part == p)).map (fun t => (t.id, t.cur.ver))
    maps := (s.maps.filter (fun m => m.part == p && m.set < s.now)).map (fun m => (m.index, m.number))
    invalid := (s.indices.filter (fun x => x.part == p && !(s.profile x.profile).ok)).map (fun x => x.num)
    variants := s.variants.filter (fun v => v.part == p)
    ready := s.raw BOOT_READY }

/-- The command that intake takes. -/
def State.newCmd (s : State) (q : Qp) (h : Hdr) (items : List Item) (payload : List Byte) : Cmd :=
  { id := s.cmdSeq, hdr := h, ctx := q.ctx, intake := s.now, feats := q.agreed s.now, mbVer := q.mbVer
    fence := items.any (fun i => i.type == 3)
    replyRef := (items.find? (fun i => i.type == 2)).map refOf
    refs := (items.filter (fun i => i.type == 1)).map refOf
    input := payload, phase := .waiting, snap := s.snapOf h.partition }

/-- Row 8: the queue pair has an open session that is not closing, or the opcode needs none (R54, R58). -/
def Qp.admits (q : Qp) (op : Nat) : Bool :=
  sessionless op || (match q.session with
    | some e => e.closing.isNone
    | none => false)

/-- Rows 12 and 13. -/
def State.takeRefusal (s : State) (q : Qp) (h : Hdr) : Option Nat :=
  if !q.admits h.opcode then some stNoSession
  else if h.deadline != 0 && h.deadline ≤ s.now then some stDeadlinePassed
  else
    match q.session with
    | some e => if e.granted ≤ (s.outstanding q.index).length then some stQueueFull else none
    | none => none

/-- A command is outstanding from its intake on, and counted (R41, R93). -/
def State.taken (s : State) (c : Cmd) : State :=
  ({ s with cmds := s.cmds ++ [c], cmdSeq := s.cmdSeq + 1 } : State).count c.hdr.qp (fun k =>
    { k with requests := k.requests + 1 })

/-- The last fragment of a command has arrived: rows 12 to 14, and its references are fetched. -/
def State.take (s : State) (q : Qp) (h : Hdr) (items : List Item) (payload : List Byte) : State :=
  match s.takeRefusal q h with
  | some st => s.turnAway h st
  | none =>
    let c := s.newCmd q h items payload
    if c.refs.isEmpty then (s.taken c).presentCmd c
    else ((s.taken c).setCmd c.id (fun c => { c with phase := .fetching })).issueReads h.qp

/-! ### Rows 3 to 11 of Table 2-12 -/

/-- The value of the total-length item, where there is one of the right length. -/
def totalLength (items : List Item) : Option Nat :=
  match items.filter (fun i => i.type == 6) with
  | [i] => if i.val.length == 4 then some (leNat i.val) else none
  | _ => none

/-- Row 4: the lengths of a first fragment or an unfragmented request (R50, R66), by the items that its extension area holds (log entry
84). -/
def lengthRefusal (r : Req) (items : List Item) : Option Nat :=
  let total := totalLength items
  let none6 : Bool := !items.any (fun i => i.type == 6)
  let off : Bool := match total with
    | some n => if hasMore r then n < r.payLen else n != r.payLen
    | none => false
  if r.msgLen != 32 + r.extLen + r.payLen then some stBadLength
  else if (hasMore r && none6) || off then some stFragmentSequence
  else if 1048576 < r.payLen || 1048576 < total.getD 0 then some stPayloadTooLarge
  else if r.extLen % 8 != 0 || 4096 < r.extLen then some stBadExtension
  else none

/-- The items of a request are as R53 asks. -/
def itemsOk (op : Nat) (l : List Item) : Bool :=
  let n (t : Nat) : Nat := (l.filter (fun i => i.type == t)).length
  let lenOk (i : Item) : Bool := match i.type with
    | 1 => i.val.length == 16 && (refOf i).len != 0
    | 2 => i.val.length == 16 && (refOf i).len != 0 && replyForm op == 2
    | 3 => i.val.length == 0
    | 6 => i.val.length == 4
    | _ => false
  l.all lenOk && n 1 ≤ 16 && n 2 ≤ 1 && n 3 ≤ 1 && n 6 ≤ 1

/-- Rows 3 to 11, in order. -/
def State.intakeRefusal (s : State) (q : Qp) (op : Nat) (r : Req) : Option Nat :=
  let items := itemsBefore 513 (extOf r)
  if r.version != 0x10#8 then some stBadVersion
  else
    match lengthRefusal r items with
    | some st => some st
    | none =>
      let feats := featuresOfOpcode op ++ (if items.any (fun i => i.type == 2) then [17] else [])
      if r.flags.toNat / 16 != 0 || r.status != 0 then some stReservedNonzero
      else if r.partition != q.partition then some stBadPartition
      else if 2 < r.svc || (r.svc == 2 && !(s.part q.partition).assign.rt) then some stBadServiceClass
      else if !q.admits op then some stNoSession
      else if !opcodeKnown op then some stUnknownOpcode
      else if feats.any (fun b => !(q.agreed s.now).getLsbD b) then some stFeatureNotNegotiated
      else
        match parseItems 513 (extOf r) with
        | none => some stBadExtension
        | some l => if itemsOk op l then none else some stBadExtension

/-! ### Fragments (R64 to R66) -/

/-- A refusal before the last fragment: later fragments of the tag are discarded. -/
def State.refuseFragments (s : State) (h : Hdr) (st : Nat) (more : Bool) : State :=
  (s.turnAway h st).setQp h.qp (fun q => { q with assembly := none, discard := if more then some h.tag else none })

/-- A request that starts a command, or is one. -/
def State.firstPacket (s : State) (q : Qp) (op : Nat) (r : Req) : State :=
  match s.intakeRefusal q op r with
  | some st => s.refuseFragments (hdrOf op r) st (hasMore r)
  | none =>
    let items := (parseItems 513 (extOf r)).getD []
    if hasMore r then
      let a : Assembly := { opcode := op, first := r, total := (totalLength items).getD 0, bytes := payOf r }
      s.setQp r.qp (fun q => { q with assembly := some a })
    else s.take q (hdrOf op r) items (payOf r)

/-- A later fragment differs from the first where R64 forbids it. -/
def Assembly.breaks (a : Assembly) (op : Nat) (r : Req) : Bool :=
  let f := a.first
  r.version != f.version || op != a.opcode || r.partition != f.partition || r.svc != f.svc || r.deadline != f.deadline ||
    r.extLen != 0 || r.msgLen != 32 + r.payLen

/-- A fragment that follows the first of its command. -/
def State.laterPacket (s : State) (q : Qp) (a : Assembly) (op : Nat) (r : Req) : State :=
  let sum := a.bytes.length + r.payLen
  let h := hdrOf a.opcode a.first
  if a.breaks op r || a.total < sum || (!hasMore r && sum != a.total) then s.refuseFragments h stFragmentSequence (hasMore r)
  else if hasMore r then
    s.setQp r.qp (fun q => { q with assembly := some { a with bytes := a.bytes ++ payOf r } })
  else
    (s.setQp r.qp (fun q => { q with assembly := none })).take q h ((parseItems 513 (extOf a.first)).getD [])
      (a.bytes ++ payOf r)

/-- A queue pair discards fragments no longer. -/
def State.listen (s : State) (i : Nat) : State := s.setQp i (fun q => { q with discard := none })

/-- A request packet (R65, R66): one that is being discarded, one that continues a command, or one that starts one. -/
def State.requestArrives (s : State) (q : Qp) (op : Nat) (r : Req) : State :=
  if q.discard == some r.tag then
    (s.count r.qp (fun k => { k with fragments := k.fragments + 1 })).setQp r.qp (fun q =>
      { q with discard := if hasMore r then q.discard else none })
  else
    let s1 := s.listen r.qp
    match q.assembly with
    | none => s1.firstPacket q op r
    | some a =>
      if a.first.tag == r.tag then s1.laterPacket q a op r
      else (s1.refuseFragments (hdrOf a.opcode a.first) stFragmentSequence false).firstPacket q op r

/-! ### Replies to the module's own requests (R45) -/

/-- A reply packet: matched by queue pair and tag, or discarded and counted. -/
def State.replyArrives (s : State) (r : Req) : State :=
  match s.issued.find? (fun x => x.qp == r.qp && x.tag == r.tag) with
  | none => s.count r.qp (fun k => { k with unmatched := k.unmatched + 1 })
  | some x =>
    let bytes := x.bytes ++ payOf r
    if hasMore r then
      { s with issued := updateWhere s.issued (fun y => y.qp == x.qp && y.tag == x.tag) (fun (y : Issued) => { y with bytes := bytes }) }
    else
      let s1 := { s with issued := s.issued.filter (fun y => !(y.qp == x.qp && y.tag == x.tag)) }
      let st := r.status.toNat
      if x.opcode == 0x0201 then s1.shardReply x.cmd x.entry x.tag st bytes else s1.fetchArrived x.cmd x.entry st bytes

/-- A SEND message on a queue pair (R40, R44, R45): rows 1 and 2 of Table 2-12. Nothing happens on a queue pair that does not
exist or is in the error state (R90). -/
def State.receive (s : State) (op : Nat) (r : Req) : State :=
  match s.qp? r.qp with
  | none => s
  | some q =>
    if q.error then s
    else if 1052704 < r.msgLen then s.nak r.qp .invalidRequest
    else if r.msgLen < 32 then s.count r.qp (fun k => { k with badMagic := k.badMagic + 1 })
    else if r.flags.getLsbD 2 then s.count r.qp (fun k => { k with events := k.events + 1 })
    else if r.flags.getLsbD 0 then s.replyArrives r
    else s.requestArrives q op r

/-- PACKET_DISCARD (R44): a message without a whole header or with another magic. -/
def packetDiscardStep (qp : Nat) (bytes : List Byte) (s : State) : State :=
  if !s.qpLive qp then s
  else if 1052704 < bytes.length then s.nak qp .invalidRequest
  else if bytes.length < 32 || fieldAt bytes 0 2 != 0x5A46 then s.count qp (fun k => { k with badMagic := k.badMagic + 1 })
  else
    let f := fieldAt bytes
    s.receive (f 4 2)
      { qp := qp, version := BitVec.ofNat 8 (f 2 1), flags := BitVec.ofNat 8 (f 3 1), status := BitVec.ofNat 16 (f 6 2),
        partition := f 8 1, svc := f 9 1, extLen := f 10 2, payLen := f 12 4, tag := f 16 8, deadline := f 24 8,
        msgLen := bytes.length, ext := [], payload := bytes.drop 32 }

/-! ### Deadlines (R82, R564) -/

/-- F-path opcodes that modify state (Table 2-8). -/
def modifies (op : Nat) : Bool :=
  [0x0203, 0x0204, 0x0402, 0x0403, 0x0406, 0x0407, 0x0501, 0x0502, 0x0800, 0x0802, 0x0803, 0x0905, 0x0906].contains op

/-- An F-path command has started to change state: it waits neither before its start nor for a unit. -/
def State.underWay (s : State) (c : Cmd) : Bool :=
  c.phase == .started && !s.stores.contains c.id && !s.runs.any (fun j => j.cmd == c.id && !j.begun) &&
    !s.embJobs.any (fun j => j.cmd == c.id && j.needs && j.slot.isNone)

/-- A query's deadline has come: it ends as R239 says, or with DEADLINE_MISSED. -/
def State.missSearch (s : State) (q : Search) : State := searchDone q.cmd (s.failSearch q.sid q.missed)

/-- A command ends at its deadline with DEADLINE_MISSED, and its work is dropped. Restarted queries of it that found no context
end with HW_FAULT first, which can end the command (R239). -/
def State.abandon (s : State) (c : Cmd) : State :=
  let s0 := (s.searches.filter (fun q => q.cmd == c.id && q.ended.isNone && q.missed == stHwFault)).foldl State.missSearch s
  if (s0.cmd? c.id).isNone then s0
  else
    let s1 := ((s0.orphanReads c.id).dropWork c.id).dropSearches c.id
    ({ s1 with issued := s1.issued.filter (fun x => x.opcode == 0x0201 || x.cmd != c.id) } : State).refuse c stDeadlineMissed

/-- The coordinator's searches at the deadline (Table 2-8): what has been merged so far, with PARTIAL_COVERAGE. -/
def State.searchDeadline (s : State) (c : Cmd) : State :=
  if s.coords.any (fun q => q.cmd == c.id) then
    ((s.coords.filter (fun q => q.cmd == c.id)).map (fun q => q.sid)).foldl (fun s i => shardMergeStep searchDone i s) s
  else if 4 ≤ c.input.length && (fieldAt c.input 3 1).testBit 0 && c.refs.isEmpty then
    let q := parseSearch (c.hdr.opcode == 0x0202) c.input
    s.replySearch c (List.replicate q.count (⟨stOk, [], true⟩, 0, 0))
  else s.abandon c

/-- The first event of a command of form E has not been queued when its deadline comes (Table 2-8). -/
def State.streamDeadline (s : State) (c : Cmd) : State :=
  match s.seqs.find? (fun q => q.cmd == c.id && q.stream.hdr.qp == c.hdr.qp) with
  | some q => if q.stream.begun then s else s.cutSeq q.idx stDeadlineMissed
  | none =>
    match s.telems.find? (fun t => t.cmd == c.id) with
    | some t => if t.stream.begun then s else s.endTelem t.handle stDeadlineMissed
    | none => s.abandon c

/-- COMMAND_DEADLINE (R82, Table 2-8). -/
def commandDeadlineStep (id : Nat) (s : State) : State :=
  match s.cmd? id with
  | none => s
  | some c =>
    let op := c.hdr.opcode
    if c.hdr.deadline == 0 || s.now < c.hdr.deadline then s
    else if slowPath op then
      if op == 0x0101 then s
      else if s.fw.journal.any (fun j => j.cmd == id) then (if op == 0x0D02 then s.streamDeadline c else s)
      else s.abandon c
    else if replyForm op == 3 then s.streamDeadline c
    else if op == 0x0200 || op == 0x0202 then s.searchDeadline c
    else if op == 0x0907 then
      match s.colls.find? (fun j => j.cmd == id) with
      | some j => s.collFail j stDeadlineMissed
      | none => s.abandon c
    else if modifies op then (if s.underWay c then s else s.abandon c)
    else s.abandon c

/-- Deadlines that device time has reached act before anything else at that stamp: what is stamped at a deadline or later misses it
(R37, R82). The local walk of a coordinated query has the deadline of a shard query (R235). -/
def State.deadlinesDue (s : State) : State :=
  let late := s.searches.filter (fun q => q.ended.isNone && q.deadline.any (fun d => d ≤ s.now))
  let s := late.foldl State.missSearch s
  ((s.cmds.filter (fun c => c.hdr.deadline != 0 && c.hdr.deadline ≤ s.now)).map (fun c => c.id)).foldl
    (fun s id => commandDeadlineStep id s) s

/-! ### A step of the block -/

/-- What follows from a step at once: update commands and hot-set changes that can go on, and commands whose turn it is (R76). -/
def State.settle (s : State) : State :=
  let s1 := s.spnPump.embPump.hotPump.settleEndings
  State.releaseOrdered s1.cmds.length s1

/-- What device time has brought about before the step's own effect: replacements of tables switch, evictions commit, units finish their work, context
teardowns end, cancels of earlier stamps act (R350), and deadlines that have come do. -/
def State.upTo (s : State) : State :=
  let s1 := s.installTables.commitEvictions.finishJobs.tearsDue
  (State.releaseOrdered s1.cmds.length s1).deadlinesDue

/-- Device time comes to `t`; it does not go back (log entry 1). -/
def State.comeTo (s : State) (t : Stamp) : State := { s with now := max s.now t }

/-- The queue of waiting commands of `s`, with all else as in `u`. -/
def State.keepQueue (s u : State) : State := { u with pending := s.pending }

/-- A step at stamp `t`: what units have finished by then is done, deadlines that have come act, then the step's own effect, what
follows at once, and the frames of what the module sends. The queue of waiting commands is not touched. A module whose internal
reset is held does nothing. -/
def runAt (t : Stamp) (f : State → State) (s : State) : State :=
  let s1 := (s.comeTo t).powerTick
  s.keepQueue (if s1.alive then (f s1.upTo).settle.frameOutputs else s1)

/-- A step of the standby domain, which acts whether or not the internal reset is held (spec/15). -/
def runPower (t : Stamp) (f : State → State) (s : State) : State :=
  let s1 := f (s.comeTo t).powerTick
  s.keepQueue (if s1.alive then s1.settle.frameOutputs else s1)

end Sys2Proof.Machine
end

