-- ==== Sys2Proof/Machine/BoardCommands.lean ====
section
/-! DEFINITION. CXL, power, faults, ageing and start-up: one meaning for each command. -/

namespace Sys2Proof.Machine

/-- CXL_LINK_UP (R601). -/
def execCxlLinkUp (t : Stamp) (l : Nat) (d : CxlTraining) (s : State) : Host.Outcome State Fault Refusal :=
  .next (runAt t (cxlLinkUpStep l d) s)

/-- CXL_TRAIN_RETRY (R601). -/
def execCxlTrainRetry (t : Stamp) (l : Nat) (s : State) : Host.Outcome State Fault Refusal :=
  .next (runAt t (cxlTrainRetryStep l) s)

/-- CXL_LINK_EXIT (R603). -/
def execCxlLinkExit (t : Stamp) (l : Nat) (s : State) : Host.Outcome State Fault Refusal :=
  .next (runAt t (cxlLinkExitStep l) s)

/-- CXL_LINK_RECOVER (R603). -/
def execCxlLinkRecover (t : Stamp) (l width : Nat) (how : CxlReturn) (s : State) : Host.Outcome State Fault Refusal :=
  .next (runAt t (cxlLinkRecoverStep l width how) s)

/-- CXL_RECOVERY_TIMEOUT (R603). -/
def execCxlRecoveryTimeout (t : Stamp) (l : Nat) (s : State) : Host.Outcome State Fault Refusal :=
  .next (runAt t (cxlRecoveryTimeoutStep l) s)

/-- REARM (R605). -/
def execRearm (t : Stamp) (l : Nat) (s : State) : Host.Outcome State Fault Refusal :=
  .next (runAt t (rearmStep l) s)

/-- IDE_INTEGRITY_FAILURE (R667). -/
def execIdeIntegrityFailure (t : Stamp) (l addr : Nat) (s : State) : Host.Outcome State Fault Refusal :=
  .next (runAt t (ideIntegrityFailureStep l addr) s)

/-- IDE_KEY_REFRESH (R666). -/
def execIdeKeyRefresh (t : Stamp) (l : Nat) (s : State) : Host.Outcome State Fault Refusal :=
  .next (runAt t (ideKeyRefreshStep l) s)

/-- POWER_UP (R591). -/
def execPowerUp (t : Stamp) (s : State) : Host.Outcome State Fault Refusal :=
  .next (runPower t powerUpStep s)

/-- POWER_DOWN (R594). -/
def execPowerDown (t : Stamp) (s : State) : Host.Outcome State Fault Refusal :=
  .next (runPower t powerDownStep s)

/-- START_FAILURE (R593). -/
def execStartFailure (t : Stamp) (s : State) : Host.Outcome State Fault Refusal :=
  .next (runPower t startFailureStep s)

/-- INPUT_UNDERVOLTAGE (R595). -/
def execInputUndervoltage (t : Stamp) (mv heldNs : Nat) (s : State) : Host.Outcome State Fault Refusal :=
  .next (runPower t (inputUndervoltageStep mv heldNs) s)

/-- INPUT_OVERVOLTAGE (R595). -/
def execInputOvervoltage (t : Stamp) (mv heldNs : Nat) (s : State) : Host.Outcome State Fault Refusal :=
  .next (runPower t (inputOvervoltageStep mv heldNs) s)

/-- RAIL_FAULT (R595). -/
def execRailFault (t : Stamp) (r heldNs : Nat) (s : State) : Host.Outcome State Fault Refusal :=
  .next (runPower t (railFaultStep r heldNs) s)

/-- MOD_RST_N_ASSERT (R597). -/
def execModRstNAssert (t : Stamp) (heldNs : Nat) (s : State) : Host.Outcome State Fault Refusal :=
  .next (runPower t (modRstNAssertStep heldNs) s)

/-- MODULE_RESET (R597). -/
def execModuleReset (t : Stamp) (s : State) : Host.Outcome State Fault Refusal :=
  .next (runAt t moduleResetStep s)

/-- REFCLK_LOSS (R575). -/
def execRefclkLoss (t : Stamp) (heldNs : Nat) (s : State) : Host.Outcome State Fault Refusal :=
  .next (runPower t (refclkLossStep heldNs) s)

/-- POWER_WINDOW_END (R583). -/
def execPowerWindowEnd (t : Stamp) (meanW : Nat) (s : State) : Host.Outcome State Fault Refusal :=
  .next (runAt t (powerWindowEndStep meanW) s)

/-- POWER_EMERGENCY (R583). -/
def execPowerEmergency (t : Stamp) (c : PowerCondition) (s : State) : Host.Outcome State Fault Refusal :=
  .next (runAt t (powerEmergencyStep c) s)

/-- POWER_EMERGENCY_CLEAR (R583). -/
def execPowerEmergencyClear (t : Stamp) (s : State) : Host.Outcome State Fault Refusal :=
  .next (runAt t powerEmergencyClearStep s)

/-- THERMAL_SAMPLE (R589). -/
def execThermalSample (t : Stamp) (temps : List Int) (s : State) : Host.Outcome State Fault Refusal :=
  .next (runAt t (thermalSampleStep temps) s)

/-- PHASE_FAULT (R582). -/
def execPhaseFault (t : Stamp) (k : Nat) (s : State) : Host.Outcome State Fault Refusal :=
  .next (runAt t (phaseFaultStep k) s)

/-- RAIL_OFFSET_WRITE (R606). -/
def execRailOffsetWrite (t : Stamp) (r steps : Nat) (s : State) : Host.Outcome State Fault Refusal :=
  .next (runAt t (railOffsetWriteStep r steps) s)

/-- I3C_CAP_W_WRITE (R578). -/
def execI3cCapWWrite (t : Stamp) (w : Nat) (s : State) : Host.Outcome State Fault Refusal :=
  .next (runPower t (i3cCapWWriteStep w) s)

/-- I3C_ALERT_CAUSE_READ (R577). -/
def execI3cAlertCauseRead (t : Stamp) (s : State) : Host.Outcome State Fault Refusal :=
  .next (runPower t i3cAlertCauseReadStep s)

/-- PRES_N_CHANGE (R655). -/
def execPresNChange (t : Stamp) (asserted : Bool) (s : State) : Host.Outcome State Fault Refusal :=
  .next (runPower t (presNChangeStep asserted) s)

/-- SEAL_BREAK (R656). -/
def execSealBreak (t : Stamp) (s : State) : Host.Outcome State Fault Refusal :=
  .next (runPower t sealBreakStep s)

/-- FAULT_REPORT (R607). -/
def execFaultReport (t : Stamp) (f : FaultReport) (s : State) : Host.Outcome State Fault Refusal :=
  .next (runAt t (faultReportStep searchDone f) s)

/-- SPARE_ENTRY_TEST_COMPLETE (R618). -/
def execSpareEntryTestComplete (t : Stamp) (n : Nat) (pass : Bool) (s : State) : Host.Outcome State Fault Refusal :=
  .next (runAt t (spareEntryTestCompleteStep n pass) s)

/-- FW_COPY_MOVE_COMPLETE (R616). -/
def execFwCopyMoveComplete (t : Stamp) (stack : Nat) (s : State) : Host.Outcome State Fault Refusal :=
  .next (runAt t (fwCopyMoveCompleteStep stack) s)

/-- PCH_MIGRATION_SWITCH (R620). -/
def execPchMigrationSwitch (t : Stamp) (stack : Nat) (s : State) : Host.Outcome State Fault Refusal :=
  .next (runAt t (pchMigrationSwitchStep stack) s)

/-- ROLLING_TEST (R622). -/
def execRollingTest (t : Stamp) (k : TestKind) (n : Nat) (s : State) : Host.Outcome State Fault Refusal :=
  .next (runAt t (rollingTestStep k n) s)

/-- ROLLING_TEST_COMPLETE (R622). -/
def execRollingTestComplete (t : Stamp) (k : TestKind) (n : Nat) (pass : Bool) (s : State) : Host.Outcome State Fault Refusal :=
  .next (runAt t (rollingTestCompleteStep searchDone k n pass) s)

/-- WALKER_SWAP_TIMEOUT (R619). -/
def execWalkerSwapTimeout (t : Stamp) (w : Nat) (s : State) : Host.Outcome State Fault Refusal :=
  .next (runAt t (walkerSwapTimeoutStep w) s)

/-- CALIPER_MEASURE (R624). -/
def execCaliperMeasure (t : Stamp) (readings : List Nat) (s : State) : Host.Outcome State Fault Refusal :=
  .next (runAt t (caliperMeasureStep readings) s)

/-- BIN_CHANGE (R628). -/
def execBinChange (t : Stamp) (r : Nat) (s : State) : Host.Outcome State Fault Refusal :=
  .next (runAt t (binChangeStep r) s)

/-- HOURS_UPDATE (R629). -/
def execHoursUpdate (t : Stamp) (s : State) : Host.Outcome State Fault Refusal :=
  .next (runAt t hoursUpdateStep s)

/-- ROT_SELF_TEST (R621). -/
def execRotSelfTest (t : Stamp) (pass : Bool) (s : State) : Host.Outcome State Fault Refusal :=
  .next (runAt t (rotSelfTestStep pass) s)

/-- BOOT_SEQUENCE (R631). -/
def execBootSequence (t : Stamp) (s : State) : Host.Outcome State Fault Refusal :=
  .next (runPower t bootSequenceStep s)

/-- BOOT_IMAGE_FETCH (R498). -/
def execBootImageFetch (t : Stamp) (o : BootFetch) (s : State) : Host.Outcome State Fault Refusal :=
  .next (runAt t (bootImageFetchStep o) s)

/-- DHCP_RETRANSMIT (R498). -/
def execDhcpRetransmit (t : Stamp) (s : State) : Host.Outcome State Fault Refusal :=
  .next (runAt t dhcpRetransmitStep s)

/-- TFTP_RETRANSMIT (R498). -/
def execTftpRetransmit (t : Stamp) (s : State) : Host.Outcome State Fault Refusal :=
  .next (runAt t tftpRetransmitStep s)

/-- BOOT_BUDGET_EXPIRY (R499). -/
def execBootBudgetExpiry (t : Stamp) (s : State) : Host.Outcome State Fault Refusal :=
  .next (runAt t bootBudgetExpiryStep s)

/-- BOOT_FETCH_RETRY (R632). -/
def execBootFetchRetry (t : Stamp) (s : State) : Host.Outcome State Fault Refusal :=
  .next (runAt t bootFetchRetryStep s)

/-- HBM_STACK_TRAINED (R633). -/
def execHbmStackTrained (t : Stamp) (k : Nat) (ok : Bool) (s : State) : Host.Outcome State Fault Refusal :=
  .next (runAt t (hbmStackTrainedStep k ok) s)

/-- BOOT_FAULT_LOG_READ (R640). -/
def execBootFaultLogRead (t : Stamp) (s : State) : Host.Outcome State Fault Refusal :=
  .next (runAt t bootFaultLogReadStep s)

/-- UNKNOWN_OPCODE_REQUEST (R71). -/
def execUnknownOpcodeRequest (t : Stamp) (opcode : Nat) (r : Req) (s : State) : Host.Outcome State Fault Refusal :=
  .next (runAt t (fun s => s.receive opcode r) s)

/-- ILLEGAL_INSTRUCTION (R296). -/
def execIllegalInstruction (t : Stamp) (n : Nat) (w : BitVec 128) (s : State) : Host.Outcome State Fault Refusal :=
  .next (runAt t (illegalInstructionStep n w) s)

/-- RNR_TIMER_EXPIRY (R537). -/
def execRnrTimerExpiry (t : Stamp) (qp : Nat) (s : State) : Host.Outcome State Fault Refusal :=
  .next (runAt t (rnrTimerExpiryStep qp) s)

/-- FETCH_BUDGET_END (R267). -/
def execFetchBudgetEnd (t : Stamp) (c : Nat) (s : State) : Host.Outcome State Fault Refusal :=
  .next (runAt t (fetchBudgetEndStep c) s)

/-- FAR_CONTEXT_KV_FETCH_COMPLETE (R389). -/
def execFarContextKvFetchComplete (t : Stamp) (p obj : Nat) (s : State) : Host.Outcome State Fault Refusal :=
  .next (runAt t (farKvFetchCompleteStep p obj) s)

/-- TOKENIZATION_TAKE (R406). -/
def execTokenizationTake (t : Stamp) (s : State) : Host.Outcome State Fault Refusal :=
  .next (runAt t (tokenizationTakeStep runTok) s)

/-- DIR_FLUSH (R14). -/
def execDirFlush (t : Stamp) (s : State) : Host.Outcome State Fault Refusal :=
  .next (runAt t dirFlushStep s)

/-- STANDBY_POWER_ON (R573). -/
def execStandbyPowerOn (t : Stamp) (s : State) : Host.Outcome State Fault Refusal :=
  .next (runPower t standbyPowerOnStep s)

/-- STANDBY_POWER_LOSS (R573). -/
def execStandbyPowerLoss (t : Stamp) (s : State) : Host.Outcome State Fault Refusal :=
  .next (runPower t standbyPowerLossStep s)

/-- THERM_TRIP_RELEASE (R590). -/
def execThermTripRelease (t : Stamp) (s : State) : Host.Outcome State Fault Refusal :=
  .next (runPower t thermTripReleaseStep s)

/-- SEAL_RESTORED (R655). -/
def execSealRestored (t : Stamp) (s : State) : Host.Outcome State Fault Refusal :=
  .next (runPower t sealRestoredStep s)

/-- PHASE_REENABLE (R609). -/
def execPhaseReenable (t : Stamp) (k : Nat) (ok : Bool) (s : State) : Host.Outcome State Fault Refusal :=
  .next (runAt t (phaseReenableStep k ok) s)

/-- BOOT_LIMIT_MISSED (R631). -/
def execBootLimitMissed (t : Stamp) (b : Nat) (s : State) : Host.Outcome State Fault Refusal :=
  .next (runAt t (bootLimitMissedStep b) s)

end Sys2Proof.Machine
end

