-- ==== Sys2Proof/Machine/HostCommands.lean ====
section
/-! DEFINITION. The commands that arrive on queue pairs (spec/02), and the events of command intake: one meaning for each. -/

namespace Sys2Proof.Machine

/-- SESSION_OPEN (R55). -/
def execSessionOpen (t : Stamp) (r : Req) (s : State) : Host.Outcome State Fault Refusal :=
  .next (runAt t (fun s => s.receive 0x0100 r) s)

/-- SESSION_CLOSE (R58). -/
def execSessionClose (t : Stamp) (r : Req) (s : State) : Host.Outcome State Fault Refusal :=
  .next (runAt t (fun s => s.receive 0x0101 r) s)

/-- SESSION_CLOSE_COMPLETE (R58). -/
def execSessionCloseComplete (t : Stamp) (qp : Nat) (s : State) : Host.Outcome State Fault Refusal :=
  .next (runAt t (sessionCloseCompleteStep qp) s)

/-- ECHO (R70). -/
def execEcho (t : Stamp) (r : Req) (s : State) : Host.Outcome State Fault Refusal :=
  .next (runAt t (fun s => s.receive 0x0102 r) s)

/-- SET_EVENT_COALESCE (R89). -/
def execSetEventCoalesce (t : Stamp) (r : Req) (s : State) : Host.Outcome State Fault Refusal :=
  .next (runAt t (fun s => s.receive 0x0103 r) s)

/-- READINESS_QUERY (R638). -/
def execReadinessQuery (t : Stamp) (r : Req) (s : State) : Host.Outcome State Fault Refusal :=
  .next (runAt t (fun s => s.receive 0x0104 r) s)

/-- SEARCH (R203). -/
def execSearch (t : Stamp) (r : Req) (s : State) : Host.Outcome State Fault Refusal :=
  .next (runAt t (fun s => s.receive 0x0200 r) s)

/-- SEARCH_SHARD (R233). -/
def execSearchShard (t : Stamp) (r : Req) (s : State) : Host.Outcome State Fault Refusal :=
  .next (runAt t (fun s => s.receive 0x0201 r) s)

/-- SEARCH_BATCH (R213). -/
def execSearchBatch (t : Stamp) (r : Req) (s : State) : Host.Outcome State Fault Refusal :=
  .next (runAt t (fun s => s.receive 0x0202 r) s)

/-- INDEX_INSERT (R218). -/
def execIndexInsert (t : Stamp) (r : Req) (s : State) : Host.Outcome State Fault Refusal :=
  .next (runAt t (fun s => s.receive 0x0203 r) s)

/-- INDEX_DELETE (R220). -/
def execIndexDelete (t : Stamp) (r : Req) (s : State) : Host.Outcome State Fault Refusal :=
  .next (runAt t (fun s => s.receive 0x0204 r) s)

/-- INDEX_LOAD (R215). -/
def execIndexLoad (t : Stamp) (r : Req) (s : State) : Host.Outcome State Fault Refusal :=
  .next (runAt t (fun s => s.receive 0x0205 r) s)

/-- INDEX_MERGE_START (R227). -/
def execIndexMergeStart (t : Stamp) (r : Req) (s : State) : Host.Outcome State Fault Refusal :=
  .next (runAt t (fun s => s.receive 0x0206 r) s)

/-- MERGE_REPAIR (R224). -/
def execMergeRepair (t : Stamp) (p : Nat) (s : State) : Host.Outcome State Fault Refusal :=
  .next (runAt t (mergeRepairStep p) s)

/-- MERGE_PUBLISH (R225). -/
def execMergePublish (t : Stamp) (p : Nat) (s : State) : Host.Outcome State Fault Refusal :=
  .next (runAt t (mergePublishStep p) s)

/-- MERGE_RECLAIM (R222). -/
def execMergeReclaim (t : Stamp) (p : Nat) (s : State) : Host.Outcome State Fault Refusal :=
  .next (runAt t (mergeReclaimStep p) s)

/-- INDEX_EPOCH_QUERY (R673). -/
def execIndexEpochQuery (t : Stamp) (r : Req) (s : State) : Host.Outcome State Fault Refusal :=
  .next (runAt t (fun s => s.receive 0x0207 r) s)

/-- SHARD_MAP_SET (R229). -/
def execShardMapSet (t : Stamp) (r : Req) (s : State) : Host.Outcome State Fault Refusal :=
  .next (runAt t (fun s => s.receive 0x0208 r) s)

/-- VECTOR_FETCH (R217). -/
def execVectorFetch (t : Stamp) (r : Req) (s : State) : Host.Outcome State Fault Refusal :=
  .next (runAt t (fun s => s.receive 0x0209 r) s)

/-- PASSAGE_FETCH (R217). -/
def execPassageFetch (t : Stamp) (r : Req) (s : State) : Host.Outcome State Fault Refusal :=
  .next (runAt t (fun s => s.receive 0x020A r) s)

/-- INDEX_UNLOAD (R216). -/
def execIndexUnload (t : Stamp) (r : Req) (s : State) : Host.Outcome State Fault Refusal :=
  .next (runAt t (fun s => s.receive 0x020B r) s)

/-- INDEX_UNLOAD_COMPLETE (R216). -/
def execIndexUnloadComplete (t : Stamp) (p ix : Nat) (s : State) : Host.Outcome State Fault Refusal :=
  .next (runAt t (indexUnloadCompleteStep p ix) s)

/-- EMBED (R269). -/
def execEmbed (t : Stamp) (r : Req) (s : State) : Host.Outcome State Fault Refusal :=
  .next (runAt t (fun s => s.receive 0x0300 r) s)

/-- RESCORE (R265). -/
def execRescore (t : Stamp) (r : Req) (s : State) : Host.Outcome State Fault Refusal :=
  .next (runAt t (fun s => s.receive 0x0301 r) s)

/-- RERANK (R268). -/
def execRerank (t : Stamp) (r : Req) (s : State) : Host.Outcome State Fault Refusal :=
  .next (runAt t (fun s => s.receive 0x0302 r) s)

/-- REWARD_SCORE (R270). -/
def execRewardScore (t : Stamp) (r : Req) (s : State) : Host.Outcome State Fault Refusal :=
  .next (runAt t (fun s => s.receive 0x0303 r) s)

/-- GENERATE (R325). -/
def execGenerate (t : Stamp) (r : Req) (s : State) : Host.Outcome State Fault Refusal :=
  .next (runAt t (fun s => s.receive 0x0400 r) s)

/-- RAG_GENERATE (R327). -/
def execRagGenerate (t : Stamp) (r : Req) (s : State) : Host.Outcome State Fault Refusal :=
  .next (runAt t (fun s => s.receive 0x0401 r) s)

/-- SEQ_APPEND (R336). -/
def execSeqAppend (t : Stamp) (r : Req) (s : State) : Host.Outcome State Fault Refusal :=
  .next (runAt t (fun s => s.receive 0x0402 r) s)

/-- SEQ_CANCEL (R91). -/
def execSeqCancel (t : Stamp) (r : Req) (s : State) : Host.Outcome State Fault Refusal :=
  .next (runAt t (fun s => s.receive 0x0403 r) s)

/-- SEQ_STATUS (R339). -/
def execSeqStatus (t : Stamp) (r : Req) (s : State) : Host.Outcome State Fault Refusal :=
  .next (runAt t (fun s => s.receive 0x0404 r) s)

/-- SEQ_SET_PRIORITY (R338). -/
def execSeqSetPriority (t : Stamp) (r : Req) (s : State) : Host.Outcome State Fault Refusal :=
  .next (runAt t (fun s => s.receive 0x0405 r) s)

/-- PREFIX_STORE (R377). -/
def execPrefixStore (t : Stamp) (r : Req) (s : State) : Host.Outcome State Fault Refusal :=
  .next (runAt t (fun s => s.receive 0x0406 r) s)

/-- PREFIX_RELEASE (R381). -/
def execPrefixRelease (t : Stamp) (r : Req) (s : State) : Host.Outcome State Fault Refusal :=
  .next (runAt t (fun s => s.receive 0x0407 r) s)

/-- EMB_GATHER (R441). -/
def execEmbGather (t : Stamp) (r : Req) (s : State) : Host.Outcome State Fault Refusal :=
  .next (runAt t (fun s => s.receive 0x0500 r) s)

/-- EMB_SCATTER_ADD (R446). -/
def execEmbScatterAdd (t : Stamp) (r : Req) (s : State) : Host.Outcome State Fault Refusal :=
  .next (runAt t (fun s => s.receive 0x0501 r) s)

/-- EMB_UPDATE (R447). -/
def execEmbUpdate (t : Stamp) (r : Req) (s : State) : Host.Outcome State Fault Refusal :=
  .next (runAt t (fun s => s.receive 0x0502 r) s)

/-- EMB_TABLE_CREATE (R435). -/
def execEmbTableCreate (t : Stamp) (r : Req) (s : State) : Host.Outcome State Fault Refusal :=
  .next (runAt t (fun s => s.receive 0x0503 r) s)

/-- EMB_TABLE_REPLACE (R457). -/
def execEmbTableReplace (t : Stamp) (r : Req) (s : State) : Host.Outcome State Fault Refusal :=
  .next (runAt t (fun s => s.receive 0x0504 r) s)

/-- TABLE_DRAIN_COMPLETE (R457). -/
def execTableDrainComplete (t : Stamp) (tid : Nat) (s : State) : Host.Outcome State Fault Refusal :=
  .next (runAt t (tableDrainCompleteStep tid) s)

/-- EMB_HOTSET_SET (R453). -/
def execEmbHotsetSet (t : Stamp) (r : Req) (s : State) : Host.Outcome State Fault Refusal :=
  .next (runAt t (fun s => s.receive 0x0505 r) s)

/-- MIGRATION_COPY_COMPLETE (R454). -/
def execMigrationCopyComplete (t : Stamp) (tid row : Nat) (s : State) : Host.Outcome State Fault Refusal :=
  .next (runAt t (migrationCopyCompleteStep tid row) s)

/-- MIGRATION_LOG_RESUME (R456). -/
def execMigrationLogResume (t : Stamp) (c : Nat) (s : State) : Host.Outcome State Fault Refusal :=
  .next (runAt t (migrationLogResumeStep c) s)

/-- PARAM_SLOT_CLAIM (R448). -/
def execParamSlotClaim (t : Stamp) (c : Nat) (s : State) : Host.Outcome State Fault Refusal :=
  .next (runAt t (paramSlotClaimStep c) s)

/-- EMB_TABLE_DROP (R459). -/
def execEmbTableDrop (t : Stamp) (r : Req) (s : State) : Host.Outcome State Fault Refusal :=
  .next (runAt t (fun s => s.receive 0x0506 r) s)

/-- SELECT_TOPK (R247). -/
def execSelectTopk (t : Stamp) (r : Req) (s : State) : Host.Outcome State Fault Refusal :=
  .next (runAt t (fun s => s.receive 0x0600 r) s)

/-- ARGMAX (R252). -/
def execArgmax (t : Stamp) (r : Req) (s : State) : Host.Outcome State Fault Refusal :=
  .next (runAt t (fun s => s.receive 0x0601 r) s)

/-- SELECT_TOPP (R261). -/
def execSelectTopp (t : Stamp) (r : Req) (s : State) : Host.Outcome State Fault Refusal :=
  .next (runAt t (fun s => s.receive 0x0602 r) s)

/-- SELECTION_TAKE (R260). -/
def execSelectionTake (t : Stamp) (s : State) : Host.Outcome State Fault Refusal :=
  .next (runAt t selectionTakeStep s)

/-- TOKENIZE (R404). -/
def execTokenize (t : Stamp) (r : Req) (s : State) : Host.Outcome State Fault Refusal :=
  .next (runAt t (fun s => s.receive 0x0700 r) s)

/-- DETOKENIZE (R413). -/
def execDetokenize (t : Stamp) (r : Req) (s : State) : Host.Outcome State Fault Refusal :=
  .next (runAt t (fun s => s.receive 0x0701 r) s)

/-- VOCAB_LOAD (R403). -/
def execVocabLoad (t : Stamp) (r : Req) (s : State) : Host.Outcome State Fault Refusal :=
  .next (runAt t (fun s => s.receive 0x0702 r) s)

/-- GRAMMAR_LOAD (R423). -/
def execGrammarLoad (t : Stamp) (r : Req) (s : State) : Host.Outcome State Fault Refusal :=
  .next (runAt t (fun s => s.receive 0x0703 r) s)

/-- GRAMMAR_UNLOAD (R424). -/
def execGrammarUnload (t : Stamp) (r : Req) (s : State) : Host.Outcome State Fault Refusal :=
  .next (runAt t (fun s => s.receive 0x0704 r) s)

/-- MEM_WRITE (R143). -/
def execMemWrite (t : Stamp) (r : Req) (s : State) : Host.Outcome State Fault Refusal :=
  .next (runAt t (fun s => s.receive 0x0800 r) s)

/-- MEM_READ (R143). -/
def execMemRead (t : Stamp) (r : Req) (s : State) : Host.Outcome State Fault Refusal :=
  .next (runAt t (fun s => s.receive 0x0801 r) s)

/-- TIER_PROMOTE (R144). -/
def execTierPromote (t : Stamp) (r : Req) (s : State) : Host.Outcome State Fault Refusal :=
  .next (runAt t (fun s => s.receive 0x0802 r) s)

/-- TIER_EVICT (R144). -/
def execTierEvict (t : Stamp) (r : Req) (s : State) : Host.Outcome State Fault Refusal :=
  .next (runAt t (fun s => s.receive 0x0803 r) s)

/-- TIER_POLICY_SET (R148). -/
def execTierPolicySet (t : Stamp) (r : Req) (s : State) : Host.Outcome State Fault Refusal :=
  .next (runAt t (fun s => s.receive 0x0804 r) s)

/-- TILE_DIR_QUERY (R145). -/
def execTileDirQuery (t : Stamp) (r : Req) (s : State) : Host.Outcome State Fault Refusal :=
  .next (runAt t (fun s => s.receive 0x0805 r) s)

/-- MODEL_LOAD (R115). -/
def execModelLoad (t : Stamp) (r : Req) (s : State) : Host.Outcome State Fault Refusal :=
  .next (runAt t (fun s => s.receive 0x0900 r) s)

/-- MODEL_UNLOAD (R147). -/
def execModelUnload (t : Stamp) (r : Req) (s : State) : Host.Outcome State Fault Refusal :=
  .next (runAt t (fun s => s.receive 0x0901 r) s)

/-- VARIANT_SET (R353). -/
def execVariantSet (t : Stamp) (r : Req) (s : State) : Host.Outcome State Fault Refusal :=
  .next (runAt t (fun s => s.receive 0x0902 r) s)

/-- VARIANT_CLEAR (R355). -/
def execVariantClear (t : Stamp) (r : Req) (s : State) : Host.Outcome State Fault Refusal :=
  .next (runAt t (fun s => s.receive 0x0903 r) s)

/-- VERSION_TURNOVER (R357). -/
def execVersionTurnover (t : Stamp) (r : Req) (s : State) : Host.Outcome State Fault Refusal :=
  .next (runAt t (fun s => s.receive 0x0904 r) s)

/-- TURNOVER_COMPLETE (R359). -/
def execTurnoverComplete (t : Stamp) (p model : Nat) (s : State) : Host.Outcome State Fault Refusal :=
  .next (runAt t (turnoverCompleteStep p model) s)

/-- LEARN_STEP (R312). -/
def execLearnStep (t : Stamp) (r : Req) (s : State) : Host.Outcome State Fault Refusal :=
  .next (runAt t (fun s => s.receive 0x0905 r) s)

/-- OPTIMIZER_STEP (R313). -/
def execOptimizerStep (t : Stamp) (r : Req) (s : State) : Host.Outcome State Fault Refusal :=
  .next (runAt t (fun s => s.receive 0x0906 r) s)

/-- GRAD_ALLREDUCE (R561). -/
def execGradAllreduce (t : Stamp) (r : Req) (s : State) : Host.Outcome State Fault Refusal :=
  .next (runAt t (fun s => s.receive 0x0907 r) s)

/-- ALLREDUCE_HOP (R563). -/
def execAllreduceHop (t : Stamp) (c : Nat) (s : State) : Host.Outcome State Fault Refusal :=
  .next (runAt t (allreduceHopStep c) s)

/-- PART_QUERY (R483). -/
def execPartQuery (t : Stamp) (r : Req) (s : State) : Host.Outcome State Fault Refusal :=
  .next (runAt t (fun s => s.receive 0x0A00 r) s)

/-- CONTEXT_SUSPEND (R469). -/
def execContextSuspend (t : Stamp) (r : Req) (s : State) : Host.Outcome State Fault Refusal :=
  .next (runAt t (fun s => s.receive 0x0A01 r) s)

/-- CONTEXT_RESUME (R469). -/
def execContextResume (t : Stamp) (r : Req) (s : State) : Host.Outcome State Fault Refusal :=
  .next (runAt t (fun s => s.receive 0x0A02 r) s)

/-- SWITCH_QUIESCE_TIMEOUT (R470). -/
def execSwitchQuiesceTimeout (t : Stamp) (p : Nat) (s : State) : Host.Outcome State Fault Refusal :=
  .next (runAt t (switchQuiesceTimeoutStep p) s)

/-- CONTEXT_SWITCH_COMPLETE (R470). -/
def execContextSwitchComplete (t : Stamp) (p : Nat) (s : State) : Host.Outcome State Fault Refusal :=
  .next (runAt t (contextSwitchCompleteStep p) s)

/-- PLAN_ADMIT (R476). -/
def execPlanAdmit (t : Stamp) (r : Req) (s : State) : Host.Outcome State Fault Refusal :=
  .next (runAt t (fun s => s.receive 0x0A03 r) s)

/-- MB_HELLO (R491). -/
def execMbHello (t : Stamp) (r : Req) (s : State) : Host.Outcome State Fault Refusal :=
  .next (runAt t (fun s => s.receive 0x0B00 r) s)

/-- MB_MESSAGE (R494). -/
def execMbMessage (t : Stamp) (r : Req) (s : State) : Host.Outcome State Fault Refusal :=
  .next (runAt t (fun s => s.receive 0x0B01 r) s)

/-- FW_INFO (R494). -/
def execFwInfo (t : Stamp) (r : Req) (s : State) : Host.Outcome State Fault Refusal :=
  .next (runAt t (fun s => s.receive 0x0B01 r) s)

/-- FW_STAGE (R501). -/
def execFwStage (t : Stamp) (r : Req) (s : State) : Host.Outcome State Fault Refusal :=
  .next (runAt t (fun s => s.receive 0x0B01 r) s)

/-- CORE_STATUS (R494). -/
def execCoreStatus (t : Stamp) (r : Req) (s : State) : Host.Outcome State Fault Refusal :=
  .next (runAt t (fun s => s.receive 0x0B01 r) s)

/-- TRACE_SET (R519). -/
def execTraceSet (t : Stamp) (r : Req) (s : State) : Host.Outcome State Fault Refusal :=
  .next (runAt t (fun s => s.receive 0x0B01 r) s)

/-- LOG_MARK (R517). -/
def execLogMark (t : Stamp) (r : Req) (s : State) : Host.Outcome State Fault Refusal :=
  .next (runAt t (fun s => s.receive 0x0B01 r) s)

/-- ACTIVATION_CANCEL (R503). -/
def execActivationCancel (t : Stamp) (r : Req) (s : State) : Host.Outcome State Fault Refusal :=
  .next (runAt t (fun s => s.receive 0x0B01 r) s)

/-- FW_ACTIVATE (R504). -/
def execFwActivate (t : Stamp) (r : Req) (s : State) : Host.Outcome State Fault Refusal :=
  .next (runAt t (fun s => s.receive 0x0B02 r) s)

/-- NORMAL_HOLD_END (R506). -/
def execNormalHoldEnd (t : Stamp) (s : State) : Host.Outcome State Fault Refusal :=
  .next (runAt t normalHoldEndStep s)

/-- CLUSTER_RESTART (R507). -/
def execClusterRestart (t : Stamp) (k : Nat) (s : State) : Host.Outcome State Fault Refusal :=
  .next (runAt t (clusterRestartStep k) s)

/-- ACTIVATION_READY_TIMEOUT (R508). -/
def execActivationReadyTimeout (t : Stamp) (k : Nat) (s : State) : Host.Outcome State Fault Refusal :=
  .next (runAt t (activationReadyTimeoutStep k) s)

/-- LKG_FLASH_WRITE (R500). -/
def execLkgFlashWrite (t : Stamp) (s : State) : Host.Outcome State Fault Refusal :=
  .next (runAt t lkgFlashWriteStep s)

/-- ATTEST_REPORT (R649). -/
def execAttestReport (t : Stamp) (r : Req) (s : State) : Host.Outcome State Fault Refusal :=
  .next (runAt t (fun s => s.receive 0x0C00 r) s)

/-- MEASURE_LOG_READ (R648). -/
def execMeasureLogRead (t : Stamp) (r : Req) (s : State) : Host.Outcome State Fault Refusal :=
  .next (runAt t (fun s => s.receive 0x0C01 r) s)

/-- OWNER_CLAIM (R654). -/
def execOwnerClaim (t : Stamp) (r : Req) (s : State) : Host.Outcome State Fault Refusal :=
  .next (runAt t (fun s => s.receive 0x0C02 r) s)

/-- PROTECT_PROPOSE (R658). -/
def execProtectPropose (t : Stamp) (r : Req) (s : State) : Host.Outcome State Fault Refusal :=
  .next (runAt t (fun s => s.receive 0x0C03 r) s)

/-- PROTECT_COSIGN (R659). -/
def execProtectCosign (t : Stamp) (r : Req) (s : State) : Host.Outcome State Fault Refusal :=
  .next (runAt t (fun s => s.receive 0x0C04 r) s)

/-- PROPOSAL_EXPIRY (R659). -/
def execProposalExpiry (t : Stamp) (s : State) : Host.Outcome State Fault Refusal :=
  .next (runAt t proposalExpiryStep s)

/-- TELEMETRY_READ (R559). -/
def execTelemetryRead (t : Stamp) (r : Req) (s : State) : Host.Outcome State Fault Refusal :=
  .next (runAt t (fun s => s.receive 0x0D00 r) s)

/-- COUNTERS_READ (R93). -/
def execCountersRead (t : Stamp) (r : Req) (s : State) : Host.Outcome State Fault Refusal :=
  .next (runAt t (fun s => s.receive 0x0D01 r) s)

/-- TELEMETRY_SUBSCRIBE (R560). -/
def execTelemetrySubscribe (t : Stamp) (r : Req) (s : State) : Host.Outcome State Fault Refusal :=
  .next (runAt t (fun s => s.receive 0x0D02 r) s)

/-- TELEMETRY_WINDOW_END (R560). -/
def execTelemetryWindowEnd (t : Stamp) (h : Nat) (s : State) : Host.Outcome State Fault Refusal :=
  .next (runAt t (telemetryWindowEndStep h) s)

/-- LOG_READ (R518). -/
def execLogRead (t : Stamp) (r : Req) (s : State) : Host.Outcome State Fault Refusal :=
  .next (runAt t (fun s => s.receive 0x0D03 r) s)

/-- PACKET_DISCARD (R44). -/
def execPacketDiscard (t : Stamp) (qp : Nat) (bytes : List Byte) (s : State) : Host.Outcome State Fault Refusal :=
  .next (runAt t (packetDiscardStep qp bytes) s)

/-- REPLY_PACKET_RECEIVE (R45). -/
def execReplyPacketReceive (t : Stamp) (opcode : Nat) (r : Req) (s : State) : Host.Outcome State Fault Refusal :=
  .next (runAt t (fun s => s.receive opcode r) s)

/-- FRAGMENT_RECEIVE (R66). -/
def execFragmentReceive (t : Stamp) (opcode : Nat) (r : Req) (s : State) : Host.Outcome State Fault Refusal :=
  .next (runAt t (fun s => s.receive opcode r) s)

/-- REF_FETCH_COMPLETE (R62). -/
def execRefFetchComplete (t : Stamp) (c : Nat) (o : FetchOutcome) (s : State) : Host.Outcome State Fault Refusal :=
  .next (runAt t (refFetchCompleteStep c o) s)

/-- FENCE_RELEASE (R78). -/
def execFenceRelease (t : Stamp) (c : Nat) (s : State) : Host.Outcome State Fault Refusal :=
  .next (runAt t (fenceReleaseStep c) s)

/-- COMMAND_DEADLINE (R82). -/
def execCommandDeadline (t : Stamp) (c : Nat) (s : State) : Host.Outcome State Fault Refusal :=
  .next (runAt t (commandDeadlineStep c) s)

/-- EVENT_COALESCE_TIMER (R86). -/
def execEventCoalesceTimer (t : Stamp) (st : StreamRef) (s : State) : Host.Outcome State Fault Refusal :=
  .next (runAt t (eventCoalesceTimerStep st) s)

/-- WORK_QUEUE_TAKE (R488). -/
def execWorkQueueTake (t : Stamp) (core : Nat) (s : State) : Host.Outcome State Fault Refusal :=
  .next (runAt t (workQueueTakeStep core) s)

end Sys2Proof.Machine
end

