-- ==== Sys2Proof/Machine/Replay.lean ====
section
/-! DEFINITION. The restart of a control core (R510, R513): its reload from the image copy and the replay of what it held. -/

namespace Sys2Proof.Machine

/-- The image that a core loads, and where its copy stands in the firmware region: that of a cluster which activation restarts is the
staged one (R507). -/
def State.imageFor (s : State) (c : Nat) : Option (FwImage × Nat) :=
  let k := (s.core c).logical / 4
  match s.fw.activation with
  | some a =>
    if a.done.contains k || (a.pending.map (fun x => x.1)) == some k then s.fw.staged.map (fun i => (i, 0x100_0000))
    else s.fw.running.map (fun i => (i, 0))
  | none => s.fw.running.map (fun i => (i, 0))

/-- A core's local memory can be reloaded: a copy in the firmware region can be read, and is the image whose digest was recorded at load
(R510, R615, log entry 144). -/
def State.reloads (s : State) (c : Nat) : Bool :=
  match s.imageFor c with
  | none => false
  | some (i, off) =>
    let k := s.fld BOOT_PCH_SPARES 55 48
    let good (base : Nat) : Bool := !s.isUe (base + off) i.bytes.length && s.bytes (base + off) i.bytes.length == i.bytes
    !s.regionUp || good s.fwRegion || (k != 255 && good (0x00F0_0000_0000 + k * 2 ^ 32))

/-- Replay of one command by its last record (Table 13-9): run again from TAKEN, gone on with from CHECKPOINT, answered from a COMMIT
that has not been replied, and its records freed otherwise. -/
def State.replay (s : State) (j : Journaled) : State :=
  match j.kind with
  | .taken =>
    match s.cmd? j.cmd with
    | some c => (runBody { c with phase := .started } s).checkpointed c.id
    | none => s
  | .checkpoint => s
  | .commit st items data false => ((s.sendReply j.hdr st items data).committed j.cmd st items data).dropCmd j.cmd
  | .commit _ _ _ true => { s with fw := { s.fw with journal := s.fw.journal.filter (fun x => x != j) } }

/-- CORE_RESTART (R510, R513): the core, reloaded from the image copy, runs again and replays what it holds. One whose image copy
cannot be read or is not the image stays held in reset. -/
def coreRestartStep (c : Nat) (s : State) : State :=
  if (s.core c).state == 2 && s.reloads c then
    let s1 := s.setCore c (fun k => { k with
      state := 1, lastKick := s.now, image := ((s.imageFor c).map (fun i => i.1.version)).getD 0 })
    let js := s1.fw.journal.filter (fun (j : Journaled) => j.core == c)
    let s2 := (s1.bump WDN_CRASH_CNT 63 32 (js.filter (fun j => !j.replied)).length).icuEvent (40 + c)
    (js.foldl State.replay s2).clusterReady
  else s

end Sys2Proof.Machine
end

