-- ==== Sys2Proof/Machine/SystemCommands.lean ====
section
/-! DEFINITION. Partitions, firmware, interrupts, the network, management and time: one meaning for each command. -/

namespace Sys2Proof.Machine

/-- Device time has stepped forward: windows, gate entries and deadlines that the step passed over take effect (R545). -/
def State.skipTime (s : State) : State :=
  let s1 := s.endWindows
  let s2 := s1.endTelemWindows
  let s3 := (s2.icu.windows.map (fun w => w.group)).foldl (fun s g => interruptGroupTimerStep g s) s2
  let s4 := (List.range 8).foldl (fun s l => gateEntryBoundaryStep l (gateConfigInstallStep l s)) s3
  s4.refreshMeters.deadlinesDue

/-- APPLY (R462). -/
def execApplyRegs (t : Stamp) (src : Plane) (p : Nat) (s : State) : Host.Outcome State Fault Refusal :=
  .next (runAt t (applyRegsStep src p) s)

/-- PARTITION_TEARDOWN (R464). -/
def execPartitionTeardown (t : Stamp) (src : Plane) (p : Nat) (s : State) : Host.Outcome State Fault Refusal :=
  .next (runAt t (partitionTeardownStep src p) s)

/-- REQUEST_CONFIGURING (R464). -/
def execRequestConfiguring (t : Stamp) (src : Plane) (p : Nat) (s : State) : Host.Outcome State Fault Refusal :=
  .next (runAt t (requestConfiguringStep src p) s)

/-- REQUEST_UP (R464). -/
def execRequestUp (t : Stamp) (src : Plane) (p : Nat) (s : State) : Host.Outcome State Fault Refusal :=
  .next (runAt t (requestUpStep src p) s)

/-- REQUEST_DOWN (R464). -/
def execRequestDown (t : Stamp) (src : Plane) (p : Nat) (s : State) : Host.Outcome State Fault Refusal :=
  .next (runAt t (requestDownStep src p) s)

/-- CONTEXT_TEARDOWN (R480). -/
def execContextTeardown (t : Stamp) (src : Plane) (p c : Nat) (s : State) : Host.Outcome State Fault Refusal :=
  .next (runAt t (contextTeardownStep src p c) s)

/-- WATCHDOG_EXPIRY (R510). -/
def execWatchdogExpiry (t : Stamp) (core : Nat) (s : State) : Host.Outcome State Fault Refusal :=
  .next (runAt t (watchdogExpiryStep core) s)

/-- CORE_EXCEPTION (R510). -/
def execCoreException (t : Stamp) (core : Nat) (cause : CrashCause) (s : State) : Host.Outcome State Fault Refusal :=
  .next (runAt t (coreExceptionStep core cause) s)

/-- CORE_RESTART (R513). -/
def execCoreRestart (t : Stamp) (core : Nat) (s : State) : Host.Outcome State Fault Refusal :=
  .next (runAt t (coreRestartStep core) s)

/-- WATCHDOG_KICK (R510). -/
def execWatchdogKick (t : Stamp) (core : Nat) (s : State) : Host.Outcome State Fault Refusal :=
  .next (runAt t (watchdogKickStep core) s)

/-- FW_UPDATE_STAGE (R501). -/
def execFwUpdateStage (t : Stamp) (v : Reg) (s : State) : Host.Outcome State Fault Refusal :=
  .next (runAt t (fwUpdateStageStep v) s)

/-- INTERRUPT_EVENT (R522). -/
def execInterruptEvent (t : Stamp) (n : Nat) (s : State) : Host.Outcome State Fault Refusal :=
  .next (runAt t (interruptEventStep n) s)

/-- INTERRUPT_GROUP_TIMER (R523). -/
def execInterruptGroupTimer (t : Stamp) (g : Nat) (s : State) : Host.Outcome State Fault Refusal :=
  .next (runAt t (interruptGroupTimerStep g) s)

/-- INTERRUPT_CLAIM (R525). -/
def execInterruptClaim (t : Stamp) (core : Nat) (s : State) : Host.Outcome State Fault Refusal :=
  .next (runAt t (interruptClaimStep core) s)

/-- INTERRUPT_COMPLETE (R526). -/
def execInterruptComplete (t : Stamp) (core n : Nat) (s : State) : Host.Outcome State Fault Refusal :=
  .next (runAt t (interruptCompleteStep core n) s)

/-- INTERRUPT_PEND_SET (R522). -/
def execInterruptPendSet (t : Stamp) (i : Nat) (v : Reg) (s : State) : Host.Outcome State Fault Refusal :=
  .next (runAt t (interruptPendSetStep i v) s)

/-- INTERRUPT_PEND_CLR (R522). -/
def execInterruptPendClr (t : Stamp) (i : Nat) (v : Reg) (s : State) : Host.Outcome State Fault Refusal :=
  .next (runAt t (interruptPendClrStep i v) s)

/-- ROCE_PACKET_RECEIVE (R554). -/
def execRocePacketReceive (t : Stamp) (k : RocePacket) (s : State) : Host.Outcome State Fault Refusal :=
  .next (runAt t (rocePacketReceiveStep k) s)

/-- RDMA_WRITE_RECEIVE (R540). -/
def execRdmaWriteReceive (t : Stamp) (qp rkey addr : Nat) (data : List Byte) (s : State) : Host.Outcome State Fault Refusal :=
  .next (runAt t (rdmaWriteReceiveStep qp rkey addr data) s)

/-- RDMA_READ_RECEIVE (R540). -/
def execRdmaReadReceive (t : Stamp) (qp rkey addr len : Nat) (s : State) : Host.Outcome State Fault Refusal :=
  .next (runAt t (rdmaReadReceiveStep qp rkey addr len) s)

/-- RNR_NAK_RECEIVE (R537). -/
def execRnrNakReceive (t : Stamp) (qp timer : Nat) (s : State) : Host.Outcome State Fault Refusal :=
  .next (runAt t (rnrNakReceiveStep qp timer) s)

/-- ROCE_NAK_RECEIVE (R62). -/
def execRoceNakReceive (t : Stamp) (qp : Nat) (k : NakKind) (s : State) : Host.Outcome State Fault Refusal :=
  .next (runAt t (roceNakReceiveStep qp k) s)

/-- LOCAL_ACK_TIMEOUT (R539). -/
def execLocalAckTimeout (t : Stamp) (qp : Nat) (s : State) : Host.Outcome State Fault Refusal :=
  .next (runAt t (localAckTimeoutStep qp) s)

/-- CNP_RECEIVE (R542). -/
def execCnpReceive (t : Stamp) (qp : Nat) (s : State) : Host.Outcome State Fault Refusal :=
  .next (runAt t (cnpReceiveStep qp) s)

/-- RATE_INCREASE_WINDOW (R542). -/
def execRateIncreaseWindow (t : Stamp) (qp : Nat) (s : State) : Host.Outcome State Fault Refusal :=
  .next (runAt t (rateIncreaseWindowStep qp) s)

/-- FRAME_TRANSMIT (R550). -/
def execFrameTransmit (t : Stamp) (l cls : Nat) (s : State) : Host.Outcome State Fault Refusal :=
  .next (runAt t (frameTransmitStep l cls) s)

/-- GATE_ENTRY_BOUNDARY (R549). -/
def execGateEntryBoundary (t : Stamp) (l : Nat) (s : State) : Host.Outcome State Fault Refusal :=
  .next (runAt t (gateEntryBoundaryStep l) s)

/-- GATE_CONFIG_CHANGE (R551). -/
def execGateConfigChange (t : Stamp) (l : Nat) (s : State) : Host.Outcome State Fault Refusal :=
  .next (runAt t (gateConfigChangeStep l) s)

/-- GATE_CONFIG_INSTALL (R551). -/
def execGateConfigInstall (t : Stamp) (l : Nat) (s : State) : Host.Outcome State Fault Refusal :=
  .next (runAt t (gateConfigInstallStep l) s)

/-- METER_REFRESH (R552). -/
def execMeterRefresh (t : Stamp) (s : State) : Host.Outcome State Fault Refusal :=
  .next (runAt t meterRefreshStep s)

/-- QUEUE_TELEMETRY_SAMPLE (R556). -/
def execQueueTelemetrySample (t : Stamp) (s : State) : Host.Outcome State Fault Refusal :=
  .next (runAt t queueTelemetrySampleStep s)

/-- ARP_REQUEST (R533). -/
def execArpRequest (t : Stamp) (l : Nat) (q : NetQuery) (s : State) : Host.Outcome State Fault Refusal :=
  .next (runAt t (arpRequestStep l q) s)

/-- NEIGHBOUR_SOLICITATION (R533). -/
def execNeighbourSolicitation (t : Stamp) (l : Nat) (q : NetQuery) (s : State) : Host.Outcome State Fault Refusal :=
  .next (runAt t (neighbourSolicitationStep l q) s)

/-- ICMP_ECHO_REQUEST (R533). -/
def execIcmpEchoRequest (t : Stamp) (l : Nat) (q : NetQuery) (s : State) : Host.Outcome State Fault Refusal :=
  .next (runAt t (icmpEchoRequestStep l q) s)

/-- FRAME_DISCARD (R533). -/
def execFrameDiscard (t : Stamp) (l len : Nat) (s : State) : Host.Outcome State Fault Refusal :=
  .next (runAt t (frameDiscardStep l len) s)

/-- MGMT_READ (R535). -/
def execMgmtRead (t : Stamp) (d : MgmtDatagram) (s : State) : Host.Outcome State Fault Refusal :=
  .next (runAt t (mgmtReadStep d) s)

/-- MGMT_WRITE (R535). -/
def execMgmtWrite (t : Stamp) (d : MgmtDatagram) (s : State) : Host.Outcome State Fault Refusal :=
  .next (runAt t (mgmtWriteStep d) s)

/-- CSR_WRITE (R14). -/
def execCsrWrite (t : Stamp) (src : CsrWriter) (a : Nat) (v : Reg) (s : State) : Host.Outcome State Fault Refusal :=
  .next (runAt t (csrWriteStep src a v) s)

/-- BREAKOUT_CHANGE (R531). -/
def execBreakoutChange (t : Stamp) (port : Nat) (v : Reg) (s : State) : Host.Outcome State Fault Refusal :=
  .next (runAt t (breakoutChangeStep port v) s)

/-- QP_CREATE (R538). -/
def execQpCreate (t : Stamp) (s : State) : Host.Outcome State Fault Refusal :=
  .next (runAt t qpCreateStep s)

/-- QP_DESTROY (R539). -/
def execQpDestroy (t : Stamp) (s : State) : Host.Outcome State Fault Refusal :=
  .next (runAt t qpDestroyStep s)

/-- QP_READ_BACK (R538). -/
def execQpReadBack (t : Stamp) (s : State) : Host.Outcome State Fault Refusal :=
  .next (runAt t qpReadBackStep s)

/-- LINK_CHANGE (R566). -/
def execLinkChange (t : Stamp) (l : Nat) (rate : LinkRate) (s : State) : Host.Outcome State Fault Refusal :=
  .next (runAt t (bootLinkChangeStep l rate) s)

/-- MGMT_LINK_FALLBACK (R530). -/
def execMgmtLinkFallback (t : Stamp) (s : State) : Host.Outcome State Fault Refusal :=
  .next (runAt t mgmtLinkFallbackStep s)

/-- PTP_ANNOUNCE_RECEIVE (R546). -/
def execPtpAnnounceReceive (t : Stamp) (l interval : Nat) (s : State) : Host.Outcome State Fault Refusal :=
  .next (runAt t (ptpAnnounceReceiveStep l interval) s)

/-- PTP_EXCHANGE (R544). -/
def execPtpExchange (t : Stamp) (o : Int) (s : State) : Host.Outcome State Fault Refusal :=
  .next (runAt t (ptpExchangeStep State.skipTime o) s)

/-- ANNOUNCE_TIMEOUT (R546). -/
def execAnnounceTimeout (t : Stamp) (s : State) : Host.Outcome State Fault Refusal :=
  .next (runAt t announceTimeoutStep s)

/-- PPS_EDGE (R547). -/
def execPpsEdge (t : Stamp) (s : State) : Host.Outcome State Fault Refusal :=
  .next (runAt t ppsEdgeStep s)

/-- PPS_LOSS_TIMEOUT (R547). -/
def execPpsLossTimeout (t : Stamp) (s : State) : Host.Outcome State Fault Refusal :=
  .next (runAt t ppsLossTimeoutStep s)

/-- PTP_UNIT_SWAP (R548). -/
def execPtpUnitSwap (t : Stamp) (s : State) : Host.Outcome State Fault Refusal :=
  .next (runAt t ptpUnitSwapStep s)

end Sys2Proof.Machine
end

