-- ==== Sys2Proof/Machine/UnitCommands.lean ====
section
/-! DEFINITION. The events of the units: searches, Spindles, the layer schedule, Lathes, selection and tokenizer units, the step builder. -/

namespace Sys2Proof.Machine

/-- SEARCH_TAKE (R201). -/
def execSearchTake (t : Stamp) (p : Nat) (s : State) : Host.Outcome State Fault Refusal :=
  .next (runAt t (searchTakeStep p) s)

/-- WALK_EXPANSION (R204). -/
def execWalkExpansion (t : Stamp) (sid : Nat) (s : State) : Host.Outcome State Fault Refusal :=
  .next (runAt t (walkExpansionStep searchDone sid) s)

/-- SIDE_SCAN_BATCH (R207). -/
def execSideScanBatch (t : Stamp) (sids : List Nat) (s : State) : Host.Outcome State Fault Refusal :=
  .next (runAt t (sideScanBatchStep sids) s)

/-- SHARD_HEDGE_TIMEOUT (R233). -/
def execShardHedgeTimeout (t : Stamp) (c entry : Nat) (s : State) : Host.Outcome State Fault Refusal :=
  .next (runAt t (shardHedgeTimeoutStep c entry) s)

/-- SHARD_MERGE (R236). -/
def execShardMerge (t : Stamp) (c : Nat) (s : State) : Host.Outcome State Fault Refusal :=
  .next (runAt t (shardMergeStep searchDone c) s)

/-- WALKER_FAULT (R239). -/
def execWalkerFault (t : Stamp) (w : Nat) (s : State) : Host.Outcome State Fault Refusal :=
  .next (runAt t (walkerFaultStep searchDone w) s)

/-- DIST_LIST (R161). -/
def execDistList (t : Stamp) (g : Nat) (d : Desc) (s : State) : Host.Outcome State Fault Refusal :=
  .next (runAt t (distListStep g d) s)

/-- DIST_SCAN (R163). -/
def execDistScan (t : Stamp) (g : Nat) (d : Desc) (s : State) : Host.Outcome State Fault Refusal :=
  .next (runAt t (distScanStep g d) s)

/-- QLOAD (R164). -/
def execQload (t : Stamp) (g : Nat) (d : Desc) (s : State) : Host.Outcome State Fault Refusal :=
  .next (runAt t (qloadStep g d) s)

/-- DECODE (R165). -/
def execDecode (t : Stamp) (g : Nat) (d : Desc) (s : State) : Host.Outcome State Fault Refusal :=
  .next (runAt t (decodeStep g d) s)

/-- HIST (R166). -/
def execHist (t : Stamp) (g : Nat) (d : Desc) (s : State) : Host.Outcome State Fault Refusal :=
  .next (runAt t (histStep g d) s)

/-- KEY_COMPACT (R167). -/
def execKeyCompact (t : Stamp) (g : Nat) (d : Desc) (s : State) : Host.Outcome State Fault Refusal :=
  .next (runAt t (keyCompactStep g d) s)

/-- GATHER (R168). -/
def execGather (t : Stamp) (g : Nat) (d : Desc) (s : State) : Host.Outcome State Fault Refusal :=
  .next (runAt t (gatherStep g d) s)

/-- SCATTER_ADD (R169). -/
def execScatterAdd (t : Stamp) (g : Nat) (d : Desc) (s : State) : Host.Outcome State Fault Refusal :=
  .next (runAt t (scatterAddStep g d) s)

/-- ROW_SGD (R169). -/
def execRowSgd (t : Stamp) (g : Nat) (d : Desc) (s : State) : Host.Outcome State Fault Refusal :=
  .next (runAt t (rowSgdStep g d) s)

/-- ROW_ADAGRAD (R169). -/
def execRowAdagrad (t : Stamp) (g : Nat) (d : Desc) (s : State) : Host.Outcome State Fault Refusal :=
  .next (runAt t (rowAdagradStep g d) s)

/-- ROW_ADAM (R169). -/
def execRowAdam (t : Stamp) (g : Nat) (d : Desc) (s : State) : Host.Outcome State Fault Refusal :=
  .next (runAt t (rowAdamStep g d) s)

/-- PSET (R171). -/
def execPset (t : Stamp) (g : Nat) (d : Desc) (s : State) : Host.Outcome State Fault Refusal :=
  .next (runAt t (psetStep g d) s)

/-- SCRUB (R173). -/
def execScrub (t : Stamp) (g : Nat) (d : Desc) (s : State) : Host.Outcome State Fault Refusal :=
  .next (runAt t (scrubStep g d) s)

/-- BACKGROUND_SCRUB (R173). -/
def execBackgroundScrub (t : Stamp) (g offset : Nat) (s : State) : Host.Outcome State Fault Refusal :=
  .next (runAt t (backgroundScrubStep g offset) s)

/-- COPY (R174). -/
def execSpnCopy (t : Stamp) (g : Nat) (d : Desc) (s : State) : Host.Outcome State Fault Refusal :=
  .next (runAt t (spnCopyStep g d) s)

/-- CODEBOOK_LOAD (R185). -/
def execCodebookLoad (t : Stamp) (v : Reg) (s : State) : Host.Outcome State Fault Refusal :=
  .next (runAt t (codebookLoadStep v) s)

/-- SPINDLE_ABORT (R184). -/
def execSpindleAbort (t : Stamp) (v : Reg) (s : State) : Host.Outcome State Fault Refusal :=
  .next (runAt t (spindleAbortStep v) s)

/-- SPN_ERR_LOG_READ (R186). -/
def execSpnErrLogRead (t : Stamp) (s : State) : Host.Outcome State Fault Refusal :=
  .next (runAt t spnErrLogReadStep s)

/-- GROUP_FETCH_ISSUE (R123). -/
def execGroupFetchIssue (t : Stamp) (p : Nat) (dst : List SlotRef) (s : State) : Host.Outcome State Fault Refusal :=
  .next (runAt t (groupFetchIssueStep p dst) s)

/-- RUNNER_CHECK (R126). -/
def execRunnerCheck (t : Stamp) (p : Nat) (s : State) : Host.Outcome State Fault Refusal :=
  .next (runAt t (runnerCheckStep p) s)

/-- TILE_FILL_COMPLETE (R302). -/
def execTileFillComplete (t : Stamp) (p grp tile : Nat) (dst : SlotRef) (s : State) : Host.Outcome State Fault Refusal :=
  .next (runAt t (tileFillCompleteStep p grp tile dst) s)

/-- TIER_POLICY_EVICT (R137). -/
def execTierPolicyEvict (t : Stamp) (p : Nat) (s : State) : Host.Outcome State Fault Refusal :=
  .next (runAt t (fun s => (tierPolicyEvictStep (fun id => s.keepsKv p id) p s).markKvLost) s)

/-- EVICT_RETRY (R139). -/
def execEvictRetry (t : Stamp) (p obj : Nat) (s : State) : Host.Outcome State Fault Refusal :=
  .next (runAt t (fun s => (evictRetryStep p obj s).markKvLost) s)

/-- KERNEL_START (R295). -/
def execKernelStart (t : Stamp) (p n : Nat) (s : State) : Host.Outcome State Fault Refusal :=
  .next (runAt t (kernelStartStep p n) s)

/-- NOP (R296). -/
def execNop (t : Stamp) (n : Nat) (w : BitVec 128) (s : State) : Host.Outcome State Fault Refusal :=
  .next (runAt t (nopStep n w) s)

/-- END (R296). -/
def execEndKernel (t : Stamp) (n : Nat) (w : BitVec 128) (s : State) : Host.Outcome State Fault Refusal :=
  .next (runAt t (endStep n w) s)

/-- FENCE (R296). -/
def execFenceInstr (t : Stamp) (n : Nat) (w : BitVec 128) (s : State) : Host.Outcome State Fault Refusal :=
  .next (runAt t (fenceStep n w) s)

/-- RELEASE (R304). -/
def execRelease (t : Stamp) (n : Nat) (w : BitVec 128) (s : State) : Host.Outcome State Fault Refusal :=
  .next (runAt t (releaseStep n w) s)

/-- LAYER (R297). -/
def execLayer (t : Stamp) (n : Nat) (w : BitVec 128) (s : State) : Host.Outcome State Fault Refusal :=
  .next (runAt t (layerStep n w) s)

/-- DRAIN (R296). -/
def execDrain (t : Stamp) (n : Nat) (w : BitVec 128) (s : State) : Host.Outcome State Fault Refusal :=
  .next (runAt t (drainStep n w) s)

/-- DRAIN_COMPLETE (R304). -/
def execDrainComplete (t : Stamp) (n slot : Nat) (s : State) : Host.Outcome State Fault Refusal :=
  .next (runAt t (drainCompleteStep n slot) s)

/-- SEND_SEL (R296). -/
def execSendSel (t : Stamp) (n : Nat) (w : BitVec 128) (s : State) : Host.Outcome State Fault Refusal :=
  .next (runAt t (sendSelStep n w) s)

/-- MATMUL (R298). -/
def execMatmul (t : Stamp) (n : Nat) (w : BitVec 128) (s : State) : Host.Outcome State Fault Refusal :=
  .next (runAt t (matmulStep n w) s)

/-- VECTOR (R301). -/
def execVector (t : Stamp) (n : Nat) (w : BitVec 128) (s : State) : Host.Outcome State Fault Refusal :=
  .next (runAt t (vectorStep n w) s)

/-- SLOT_WRITE_COMPLETE (R304). -/
def execSlotWriteComplete (t : Stamp) (n : Nat) (buf : LatheBuf) (slot : Nat) (s : State) : Host.Outcome State Fault Refusal :=
  .next (runAt t (slotWriteCompleteStep n buf slot) s)

/-- LATHE_STALL (R306). -/
def execLatheStall (t : Stamp) (n : Nat) (s : State) : Host.Outcome State Fault Refusal :=
  .next (runAt t (latheStallStep n) s)

/-- LATHE_IDLE_GATE (R309). -/
def execLatheIdleGate (t : Stamp) (n : Nat) (s : State) : Host.Outcome State Fault Refusal :=
  .next (runAt t (latheIdleGateStep n) s)

/-- WAKE_GRANT (R587). -/
def execWakeGrant (t : Stamp) (s : State) : Host.Outcome State Fault Refusal :=
  .next (runAt t wakeGrantStep s)

/-- LATHE_BUFFER_ERROR (R318). -/
def execLatheBufferError (t : Stamp) (n : Nat) (e : LatheError) (buf : LatheBuf) (slot word : Nat) (s : State) : Host.Outcome State Fault Refusal :=
  .next (runAt t (latheBufferErrorStep (fun p c s => s.tearContext p c stContextTornDown) n e buf slot word) s)

/-- LTH_ERR_LOG_READ (R320). -/
def execLthErrLogRead (t : Stamp) (s : State) : Host.Outcome State Fault Refusal :=
  .next (runAt t lthErrLogReadStep s)

/-- STEP_BOUNDARY (R332). -/
def execStepBoundary (t : Stamp) (p : Nat) (s : State) : Host.Outcome State Fault Refusal :=
  .next (runAt t (stepBoundaryStep p) s)

/-- SEQ_TABLE_ERROR (R360). -/
def execSeqTableError (t : Stamp) (entry : Nat) (e : EccError) (s : State) : Host.Outcome State Fault Refusal :=
  .next (runAt t (seqTableErrorStep entry (e == .corrected)) s)

/-- SELECTION_UNIT_FAULT (R280). -/
def execSelectionUnitFault (t : Stamp) (u : Nat) (s : State) : Host.Outcome State Fault Refusal :=
  .next (runAt t (selectionUnitFaultStep u) s)

/-- TOKENIZER_ENGINE_FAULT (R406). -/
def execTokenizerEngineFault (t : Stamp) (e : Nat) (s : State) : Host.Outcome State Fault Refusal :=
  .next (runAt t (tokenizerEngineFaultStep runTok tokFail e) s)

end Sys2Proof.Machine
end

