-- ==== Sys2Proof/Machine/Dispatch.lean ====
section
/-! DEFINITION. One arm per command of the table: the command's effect on everything but the queue. -/

namespace Sys2Proof.Machine

/-- The effect of a command on the module. -/
def exec (i : Instr) (s : State) : Host.Outcome State Fault Refusal :=
  match i with
  | .sessionOpen t r => Sys2Proof.Machine.execSessionOpen t r s
  | .sessionClose t r => Sys2Proof.Machine.execSessionClose t r s
  | .sessionCloseComplete t qp => Sys2Proof.Machine.execSessionCloseComplete t qp s
  | .echo t r => Sys2Proof.Machine.execEcho t r s
  | .setEventCoalesce t r => Sys2Proof.Machine.execSetEventCoalesce t r s
  | .readinessQuery t r => Sys2Proof.Machine.execReadinessQuery t r s
  | .search t r => Sys2Proof.Machine.execSearch t r s
  | .searchShard t r => Sys2Proof.Machine.execSearchShard t r s
  | .searchBatch t r => Sys2Proof.Machine.execSearchBatch t r s
  | .indexInsert t r => Sys2Proof.Machine.execIndexInsert t r s
  | .indexDelete t r => Sys2Proof.Machine.execIndexDelete t r s
  | .indexLoad t r => Sys2Proof.Machine.execIndexLoad t r s
  | .indexMergeStart t r => Sys2Proof.Machine.execIndexMergeStart t r s
  | .mergeRepair t p => Sys2Proof.Machine.execMergeRepair t p s
  | .mergePublish t p => Sys2Proof.Machine.execMergePublish t p s
  | .mergeReclaim t p => Sys2Proof.Machine.execMergeReclaim t p s
  | .indexEpochQuery t r => Sys2Proof.Machine.execIndexEpochQuery t r s
  | .shardMapSet t r => Sys2Proof.Machine.execShardMapSet t r s
  | .vectorFetch t r => Sys2Proof.Machine.execVectorFetch t r s
  | .passageFetch t r => Sys2Proof.Machine.execPassageFetch t r s
  | .indexUnload t r => Sys2Proof.Machine.execIndexUnload t r s
  | .indexUnloadComplete t p ix => Sys2Proof.Machine.execIndexUnloadComplete t p ix s
  | .embed t r => Sys2Proof.Machine.execEmbed t r s
  | .rescore t r => Sys2Proof.Machine.execRescore t r s
  | .rerank t r => Sys2Proof.Machine.execRerank t r s
  | .rewardScore t r => Sys2Proof.Machine.execRewardScore t r s
  | .generate t r => Sys2Proof.Machine.execGenerate t r s
  | .ragGenerate t r => Sys2Proof.Machine.execRagGenerate t r s
  | .seqAppend t r => Sys2Proof.Machine.execSeqAppend t r s
  | .seqCancel t r => Sys2Proof.Machine.execSeqCancel t r s
  | .seqStatus t r => Sys2Proof.Machine.execSeqStatus t r s
  | .seqSetPriority t r => Sys2Proof.Machine.execSeqSetPriority t r s
  | .prefixStore t r => Sys2Proof.Machine.execPrefixStore t r s
  | .prefixRelease t r => Sys2Proof.Machine.execPrefixRelease t r s
  | .embGather t r => Sys2Proof.Machine.execEmbGather t r s
  | .embScatterAdd t r => Sys2Proof.Machine.execEmbScatterAdd t r s
  | .embUpdate t r => Sys2Proof.Machine.execEmbUpdate t r s
  | .embTableCreate t r => Sys2Proof.Machine.execEmbTableCreate t r s
  | .embTableReplace t r => Sys2Proof.Machine.execEmbTableReplace t r s
  | .tableDrainComplete t tid => Sys2Proof.Machine.execTableDrainComplete t tid s
  | .embHotsetSet t r => Sys2Proof.Machine.execEmbHotsetSet t r s
  | .migrationCopyComplete t tid row => Sys2Proof.Machine.execMigrationCopyComplete t tid row s
  | .migrationLogResume t c => Sys2Proof.Machine.execMigrationLogResume t c s
  | .paramSlotClaim t c => Sys2Proof.Machine.execParamSlotClaim t c s
  | .embTableDrop t r => Sys2Proof.Machine.execEmbTableDrop t r s
  | .selectTopk t r => Sys2Proof.Machine.execSelectTopk t r s
  | .argmax t r => Sys2Proof.Machine.execArgmax t r s
  | .selectTopp t r => Sys2Proof.Machine.execSelectTopp t r s
  | .selectionTake t => Sys2Proof.Machine.execSelectionTake t s
  | .tokenize t r => Sys2Proof.Machine.execTokenize t r s
  | .detokenize t r => Sys2Proof.Machine.execDetokenize t r s
  | .vocabLoad t r => Sys2Proof.Machine.execVocabLoad t r s
  | .grammarLoad t r => Sys2Proof.Machine.execGrammarLoad t r s
  | .grammarUnload t r => Sys2Proof.Machine.execGrammarUnload t r s
  | .memWrite t r => Sys2Proof.Machine.execMemWrite t r s
  | .memRead t r => Sys2Proof.Machine.execMemRead t r s
  | .tierPromote t r => Sys2Proof.Machine.execTierPromote t r s
  | .tierEvict t r => Sys2Proof.Machine.execTierEvict t r s
  | .tierPolicySet t r => Sys2Proof.Machine.execTierPolicySet t r s
  | .tileDirQuery t r => Sys2Proof.Machine.execTileDirQuery t r s
  | .modelLoad t r => Sys2Proof.Machine.execModelLoad t r s
  | .modelUnload t r => Sys2Proof.Machine.execModelUnload t r s
  | .variantSet t r => Sys2Proof.Machine.execVariantSet t r s
  | .variantClear t r => Sys2Proof.Machine.execVariantClear t r s
  | .versionTurnover t r => Sys2Proof.Machine.execVersionTurnover t r s
  | .turnoverComplete t p model => Sys2Proof.Machine.execTurnoverComplete t p model s
  | .learnStep t r => Sys2Proof.Machine.execLearnStep t r s
  | .optimizerStep t r => Sys2Proof.Machine.execOptimizerStep t r s
  | .gradAllreduce t r => Sys2Proof.Machine.execGradAllreduce t r s
  | .allreduceHop t c => Sys2Proof.Machine.execAllreduceHop t c s
  | .partQuery t r => Sys2Proof.Machine.execPartQuery t r s
  | .contextSuspend t r => Sys2Proof.Machine.execContextSuspend t r s
  | .contextResume t r => Sys2Proof.Machine.execContextResume t r s
  | .switchQuiesceTimeout t p => Sys2Proof.Machine.execSwitchQuiesceTimeout t p s
  | .contextSwitchComplete t p => Sys2Proof.Machine.execContextSwitchComplete t p s
  | .planAdmit t r => Sys2Proof.Machine.execPlanAdmit t r s
  | .mbHello t r => Sys2Proof.Machine.execMbHello t r s
  | .mbMessage t r => Sys2Proof.Machine.execMbMessage t r s
  | .fwInfo t r => Sys2Proof.Machine.execFwInfo t r s
  | .fwStage t r => Sys2Proof.Machine.execFwStage t r s
  | .coreStatus t r => Sys2Proof.Machine.execCoreStatus t r s
  | .traceSet t r => Sys2Proof.Machine.execTraceSet t r s
  | .logMark t r => Sys2Proof.Machine.execLogMark t r s
  | .activationCancel t r => Sys2Proof.Machine.execActivationCancel t r s
  | .fwActivate t r => Sys2Proof.Machine.execFwActivate t r s
  | .normalHoldEnd t => Sys2Proof.Machine.execNormalHoldEnd t s
  | .clusterRestart t k => Sys2Proof.Machine.execClusterRestart t k s
  | .activationReadyTimeout t k => Sys2Proof.Machine.execActivationReadyTimeout t k s
  | .lkgFlashWrite t => Sys2Proof.Machine.execLkgFlashWrite t s
  | .attestReport t r => Sys2Proof.Machine.execAttestReport t r s
  | .measureLogRead t r => Sys2Proof.Machine.execMeasureLogRead t r s
  | .ownerClaim t r => Sys2Proof.Machine.execOwnerClaim t r s
  | .protectPropose t r => Sys2Proof.Machine.execProtectPropose t r s
  | .protectCosign t r => Sys2Proof.Machine.execProtectCosign t r s
  | .proposalExpiry t => Sys2Proof.Machine.execProposalExpiry t s
  | .telemetryRead t r => Sys2Proof.Machine.execTelemetryRead t r s
  | .countersRead t r => Sys2Proof.Machine.execCountersRead t r s
  | .telemetrySubscribe t r => Sys2Proof.Machine.execTelemetrySubscribe t r s
  | .telemetryWindowEnd t h => Sys2Proof.Machine.execTelemetryWindowEnd t h s
  | .logRead t r => Sys2Proof.Machine.execLogRead t r s
  | .packetDiscard t qp bytes => Sys2Proof.Machine.execPacketDiscard t qp bytes s
  | .replyPacketReceive t opcode r => Sys2Proof.Machine.execReplyPacketReceive t opcode r s
  | .fragmentReceive t opcode r => Sys2Proof.Machine.execFragmentReceive t opcode r s
  | .refFetchComplete t c o => Sys2Proof.Machine.execRefFetchComplete t c o s
  | .fenceRelease t c => Sys2Proof.Machine.execFenceRelease t c s
  | .commandDeadline t c => Sys2Proof.Machine.execCommandDeadline t c s
  | .eventCoalesceTimer t st => Sys2Proof.Machine.execEventCoalesceTimer t st s
  | .workQueueTake t core => Sys2Proof.Machine.execWorkQueueTake t core s
  | .searchTake t p => Sys2Proof.Machine.execSearchTake t p s
  | .walkExpansion t sid => Sys2Proof.Machine.execWalkExpansion t sid s
  | .sideScanBatch t sids => Sys2Proof.Machine.execSideScanBatch t sids s
  | .shardHedgeTimeout t c entry => Sys2Proof.Machine.execShardHedgeTimeout t c entry s
  | .shardMerge t c => Sys2Proof.Machine.execShardMerge t c s
  | .walkerFault t w => Sys2Proof.Machine.execWalkerFault t w s
  | .distList t g d => Sys2Proof.Machine.execDistList t g d s
  | .distScan t g d => Sys2Proof.Machine.execDistScan t g d s
  | .qload t g d => Sys2Proof.Machine.execQload t g d s
  | .decode t g d => Sys2Proof.Machine.execDecode t g d s
  | .hist t g d => Sys2Proof.Machine.execHist t g d s
  | .keyCompact t g d => Sys2Proof.Machine.execKeyCompact t g d s
  | .gather t g d => Sys2Proof.Machine.execGather t g d s
  | .scatterAdd t g d => Sys2Proof.Machine.execScatterAdd t g d s
  | .rowSgd t g d => Sys2Proof.Machine.execRowSgd t g d s
  | .rowAdagrad t g d => Sys2Proof.Machine.execRowAdagrad t g d s
  | .rowAdam t g d => Sys2Proof.Machine.execRowAdam t g d s
  | .pset t g d => Sys2Proof.Machine.execPset t g d s
  | .scrub t g d => Sys2Proof.Machine.execScrub t g d s
  | .backgroundScrub t g offset => Sys2Proof.Machine.execBackgroundScrub t g offset s
  | .spnCopy t g d => Sys2Proof.Machine.execSpnCopy t g d s
  | .codebookLoad t v => Sys2Proof.Machine.execCodebookLoad t v s
  | .spindleAbort t v => Sys2Proof.Machine.execSpindleAbort t v s
  | .spnErrLogRead t => Sys2Proof.Machine.execSpnErrLogRead t s
  | .groupFetchIssue t p dst => Sys2Proof.Machine.execGroupFetchIssue t p dst s
  | .runnerCheck t p => Sys2Proof.Machine.execRunnerCheck t p s
  | .tileFillComplete t p grp tile dst => Sys2Proof.Machine.execTileFillComplete t p grp tile dst s
  | .tierPolicyEvict t p => Sys2Proof.Machine.execTierPolicyEvict t p s
  | .evictRetry t p obj => Sys2Proof.Machine.execEvictRetry t p obj s
  | .kernelStart t p n => Sys2Proof.Machine.execKernelStart t p n s
  | .nop t n w => Sys2Proof.Machine.execNop t n w s
  | .endKernel t n w => Sys2Proof.Machine.execEndKernel t n w s
  | .fenceInstr t n w => Sys2Proof.Machine.execFenceInstr t n w s
  | .release t n w => Sys2Proof.Machine.execRelease t n w s
  | .layer t n w => Sys2Proof.Machine.execLayer t n w s
  | .drain t n w => Sys2Proof.Machine.execDrain t n w s
  | .drainComplete t n slot => Sys2Proof.Machine.execDrainComplete t n slot s
  | .sendSel t n w => Sys2Proof.Machine.execSendSel t n w s
  | .matmul t n w => Sys2Proof.Machine.execMatmul t n w s
  | .vector t n w => Sys2Proof.Machine.execVector t n w s
  | .slotWriteComplete t n buf slot => Sys2Proof.Machine.execSlotWriteComplete t n buf slot s
  | .latheStall t n => Sys2Proof.Machine.execLatheStall t n s
  | .latheIdleGate t n => Sys2Proof.Machine.execLatheIdleGate t n s
  | .wakeGrant t => Sys2Proof.Machine.execWakeGrant t s
  | .latheBufferError t n e buf slot word => Sys2Proof.Machine.execLatheBufferError t n e buf slot word s
  | .lthErrLogRead t => Sys2Proof.Machine.execLthErrLogRead t s
  | .stepBoundary t p => Sys2Proof.Machine.execStepBoundary t p s
  | .seqTableError t entry e => Sys2Proof.Machine.execSeqTableError t entry e s
  | .selectionUnitFault t u => Sys2Proof.Machine.execSelectionUnitFault t u s
  | .tokenizerEngineFault t e => Sys2Proof.Machine.execTokenizerEngineFault t e s
  | .applyRegs t src p => Sys2Proof.Machine.execApplyRegs t src p s
  | .partitionTeardown t src p => Sys2Proof.Machine.execPartitionTeardown t src p s
  | .requestConfiguring t src p => Sys2Proof.Machine.execRequestConfiguring t src p s
  | .requestUp t src p => Sys2Proof.Machine.execRequestUp t src p s
  | .requestDown t src p => Sys2Proof.Machine.execRequestDown t src p s
  | .contextTeardown t src p c => Sys2Proof.Machine.execContextTeardown t src p c s
  | .watchdogExpiry t core => Sys2Proof.Machine.execWatchdogExpiry t core s
  | .coreException t core cause => Sys2Proof.Machine.execCoreException t core cause s
  | .coreRestart t core => Sys2Proof.Machine.execCoreRestart t core s
  | .watchdogKick t core => Sys2Proof.Machine.execWatchdogKick t core s
  | .fwUpdateStage t v => Sys2Proof.Machine.execFwUpdateStage t v s
  | .interruptEvent t n => Sys2Proof.Machine.execInterruptEvent t n s
  | .interruptGroupTimer t g => Sys2Proof.Machine.execInterruptGroupTimer t g s
  | .interruptClaim t core => Sys2Proof.Machine.execInterruptClaim t core s
  | .interruptComplete t core n => Sys2Proof.Machine.execInterruptComplete t core n s
  | .interruptPendSet t n v => Sys2Proof.Machine.execInterruptPendSet t n v s
  | .interruptPendClr t n v => Sys2Proof.Machine.execInterruptPendClr t n v s
  | .rocePacketReceive t k => Sys2Proof.Machine.execRocePacketReceive t k s
  | .rdmaWriteReceive t qp rkey addr data => Sys2Proof.Machine.execRdmaWriteReceive t qp rkey addr data s
  | .rdmaReadReceive t qp rkey addr len => Sys2Proof.Machine.execRdmaReadReceive t qp rkey addr len s
  | .rnrNakReceive t qp timer => Sys2Proof.Machine.execRnrNakReceive t qp timer s
  | .roceNakReceive t qp k => Sys2Proof.Machine.execRoceNakReceive t qp k s
  | .localAckTimeout t qp => Sys2Proof.Machine.execLocalAckTimeout t qp s
  | .cnpReceive t qp => Sys2Proof.Machine.execCnpReceive t qp s
  | .rateIncreaseWindow t qp => Sys2Proof.Machine.execRateIncreaseWindow t qp s
  | .frameTransmit t l cls => Sys2Proof.Machine.execFrameTransmit t l cls s
  | .gateEntryBoundary t l => Sys2Proof.Machine.execGateEntryBoundary t l s
  | .gateConfigChange t l => Sys2Proof.Machine.execGateConfigChange t l s
  | .gateConfigInstall t l => Sys2Proof.Machine.execGateConfigInstall t l s
  | .meterRefresh t => Sys2Proof.Machine.execMeterRefresh t s
  | .queueTelemetrySample t => Sys2Proof.Machine.execQueueTelemetrySample t s
  | .arpRequest t l q => Sys2Proof.Machine.execArpRequest t l q s
  | .neighbourSolicitation t l q => Sys2Proof.Machine.execNeighbourSolicitation t l q s
  | .icmpEchoRequest t l q => Sys2Proof.Machine.execIcmpEchoRequest t l q s
  | .frameDiscard t l len => Sys2Proof.Machine.execFrameDiscard t l len s
  | .mgmtRead t d => Sys2Proof.Machine.execMgmtRead t d s
  | .mgmtWrite t d => Sys2Proof.Machine.execMgmtWrite t d s
  | .csrWrite t src a v => Sys2Proof.Machine.execCsrWrite t src a v s
  | .breakoutChange t port v => Sys2Proof.Machine.execBreakoutChange t port v s
  | .qpCreate t => Sys2Proof.Machine.execQpCreate t s
  | .qpDestroy t => Sys2Proof.Machine.execQpDestroy t s
  | .qpReadBack t => Sys2Proof.Machine.execQpReadBack t s
  | .linkChange t l rate => Sys2Proof.Machine.execLinkChange t l rate s
  | .mgmtLinkFallback t => Sys2Proof.Machine.execMgmtLinkFallback t s
  | .ptpAnnounceReceive t l interval => Sys2Proof.Machine.execPtpAnnounceReceive t l interval s
  | .ptpExchange t o => Sys2Proof.Machine.execPtpExchange t o s
  | .announceTimeout t => Sys2Proof.Machine.execAnnounceTimeout t s
  | .ppsEdge t => Sys2Proof.Machine.execPpsEdge t s
  | .ppsLossTimeout t => Sys2Proof.Machine.execPpsLossTimeout t s
  | .ptpUnitSwap t => Sys2Proof.Machine.execPtpUnitSwap t s
  | .cxlLinkUp t l d => Sys2Proof.Machine.execCxlLinkUp t l d s
  | .cxlTrainRetry t l => Sys2Proof.Machine.execCxlTrainRetry t l s
  | .cxlLinkExit t l => Sys2Proof.Machine.execCxlLinkExit t l s
  | .cxlLinkRecover t l width how => Sys2Proof.Machine.execCxlLinkRecover t l width how s
  | .cxlRecoveryTimeout t l => Sys2Proof.Machine.execCxlRecoveryTimeout t l s
  | .rearm t l => Sys2Proof.Machine.execRearm t l s
  | .ideIntegrityFailure t l addr => Sys2Proof.Machine.execIdeIntegrityFailure t l addr s
  | .ideKeyRefresh t l => Sys2Proof.Machine.execIdeKeyRefresh t l s
  | .powerUp t => Sys2Proof.Machine.execPowerUp t s
  | .powerDown t => Sys2Proof.Machine.execPowerDown t s
  | .startFailure t => Sys2Proof.Machine.execStartFailure t s
  | .inputUndervoltage t mv heldNs => Sys2Proof.Machine.execInputUndervoltage t mv heldNs s
  | .inputOvervoltage t mv heldNs => Sys2Proof.Machine.execInputOvervoltage t mv heldNs s
  | .railFault t r heldNs => Sys2Proof.Machine.execRailFault t r heldNs s
  | .modRstNAssert t heldNs => Sys2Proof.Machine.execModRstNAssert t heldNs s
  | .moduleReset t => Sys2Proof.Machine.execModuleReset t s
  | .refclkLoss t heldNs => Sys2Proof.Machine.execRefclkLoss t heldNs s
  | .powerWindowEnd t meanW => Sys2Proof.Machine.execPowerWindowEnd t meanW s
  | .powerEmergency t c => Sys2Proof.Machine.execPowerEmergency t c s
  | .powerEmergencyClear t => Sys2Proof.Machine.execPowerEmergencyClear t s
  | .thermalSample t temps => Sys2Proof.Machine.execThermalSample t temps s
  | .phaseFault t k => Sys2Proof.Machine.execPhaseFault t k s
  | .railOffsetWrite t r steps => Sys2Proof.Machine.execRailOffsetWrite t r steps s
  | .i3cCapWWrite t w => Sys2Proof.Machine.execI3cCapWWrite t w s
  | .i3cAlertCauseRead t => Sys2Proof.Machine.execI3cAlertCauseRead t s
  | .presNChange t asserted => Sys2Proof.Machine.execPresNChange t asserted s
  | .sealBreak t => Sys2Proof.Machine.execSealBreak t s
  | .faultReport t f => Sys2Proof.Machine.execFaultReport t f s
  | .spareEntryTestComplete t n pass => Sys2Proof.Machine.execSpareEntryTestComplete t n pass s
  | .fwCopyMoveComplete t stack => Sys2Proof.Machine.execFwCopyMoveComplete t stack s
  | .pchMigrationSwitch t stack => Sys2Proof.Machine.execPchMigrationSwitch t stack s
  | .rollingTest t k n => Sys2Proof.Machine.execRollingTest t k n s
  | .rollingTestComplete t k n pass => Sys2Proof.Machine.execRollingTestComplete t k n pass s
  | .walkerSwapTimeout t w => Sys2Proof.Machine.execWalkerSwapTimeout t w s
  | .caliperMeasure t readings => Sys2Proof.Machine.execCaliperMeasure t readings s
  | .binChange t r => Sys2Proof.Machine.execBinChange t r s
  | .hoursUpdate t => Sys2Proof.Machine.execHoursUpdate t s
  | .rotSelfTest t pass => Sys2Proof.Machine.execRotSelfTest t pass s
  | .bootSequence t => Sys2Proof.Machine.execBootSequence t s
  | .bootImageFetch t o => Sys2Proof.Machine.execBootImageFetch t o s
  | .dhcpRetransmit t => Sys2Proof.Machine.execDhcpRetransmit t s
  | .tftpRetransmit t => Sys2Proof.Machine.execTftpRetransmit t s
  | .bootBudgetExpiry t => Sys2Proof.Machine.execBootBudgetExpiry t s
  | .bootFetchRetry t => Sys2Proof.Machine.execBootFetchRetry t s
  | .hbmStackTrained t k ok => Sys2Proof.Machine.execHbmStackTrained t k ok s
  | .bootFaultLogRead t => Sys2Proof.Machine.execBootFaultLogRead t s
  | .unknownOpcodeRequest t opcode r => Sys2Proof.Machine.execUnknownOpcodeRequest t opcode r s
  | .illegalInstruction t n w => Sys2Proof.Machine.execIllegalInstruction t n w s
  | .rnrTimerExpiry t qp => Sys2Proof.Machine.execRnrTimerExpiry t qp s
  | .fetchBudgetEnd t c => Sys2Proof.Machine.execFetchBudgetEnd t c s
  | .farContextKvFetchComplete t p obj => Sys2Proof.Machine.execFarContextKvFetchComplete t p obj s
  | .tokenizationTake t => Sys2Proof.Machine.execTokenizationTake t s
  | .dirFlush t => Sys2Proof.Machine.execDirFlush t s
  | .standbyPowerOn t => Sys2Proof.Machine.execStandbyPowerOn t s
  | .standbyPowerLoss t => Sys2Proof.Machine.execStandbyPowerLoss t s
  | .thermTripRelease t => Sys2Proof.Machine.execThermTripRelease t s
  | .sealRestored t => Sys2Proof.Machine.execSealRestored t s
  | .phaseReenable t k ok => Sys2Proof.Machine.execPhaseReenable t k ok s
  | .bootLimitMissed t b => Sys2Proof.Machine.execBootLimitMissed t b s

end Sys2Proof.Machine
end

