-- ==== Sys2Proof/Safety.lean ====
section
/-! DEFINITION. What counts as a sound state of the module and as a run of it, and how statements speak of one step: the state in
which a step has its own effect, what follows from the effect at once, and when intake starts a command. -/

namespace Sys2Proof

open Machine

/-- The opcode and the packet of a command that arrives as a request packet. -/
def Instr.carries : Instr → Option (Nat × Req)
  | .sessionOpen _ r => some (0x0100, r)
  | .sessionClose _ r => some (0x0101, r)
  | .echo _ r => some (0x0102, r)
  | .setEventCoalesce _ r => some (0x0103, r)
  | .readinessQuery _ r => some (0x0104, r)
  | .search _ r => some (0x0200, r)
  | .searchShard _ r => some (0x0201, r)
  | .searchBatch _ r => some (0x0202, r)
  | .indexInsert _ r => some (0x0203, r)
  | .indexDelete _ r => some (0x0204, r)
  | .indexLoad _ r => some (0x0205, r)
  | .indexMergeStart _ r => some (0x0206, r)
  | .indexEpochQuery _ r => some (0x0207, r)
  | .shardMapSet _ r => some (0x0208, r)
  | .vectorFetch _ r => some (0x0209, r)
  | .passageFetch _ r => some (0x020A, r)
  | .indexUnload _ r => some (0x020B, r)
  | .embed _ r => some (0x0300, r)
  | .rescore _ r => some (0x0301, r)
  | .rerank _ r => some (0x0302, r)
  | .rewardScore _ r => some (0x0303, r)
  | .generate _ r => some (0x0400, r)
  | .ragGenerate _ r => some (0x0401, r)
  | .seqAppend _ r => some (0x0402, r)
  | .seqCancel _ r => some (0x0403, r)
  | .seqStatus _ r => some (0x0404, r)
  | .seqSetPriority _ r => some (0x0405, r)
  | .prefixStore _ r => some (0x0406, r)
  | .prefixRelease _ r => some (0x0407, r)
  | .embGather _ r => some (0x0500, r)
  | .embScatterAdd _ r => some (0x0501, r)
  | .embUpdate _ r => some (0x0502, r)
  | .embTableCreate _ r => some (0x0503, r)
  | .embTableReplace _ r => some (0x0504, r)
  | .embHotsetSet _ r => some (0x0505, r)
  | .embTableDrop _ r => some (0x0506, r)
  | .selectTopk _ r => some (0x0600, r)
  | .argmax _ r => some (0x0601, r)
  | .selectTopp _ r => some (0x0602, r)
  | .tokenize _ r => some (0x0700, r)
  | .detokenize _ r => some (0x0701, r)
  | .vocabLoad _ r => some (0x0702, r)
  | .grammarLoad _ r => some (0x0703, r)
  | .grammarUnload _ r => some (0x0704, r)
  | .memWrite _ r => some (0x0800, r)
  | .memRead _ r => some (0x0801, r)
  | .tierPromote _ r => some (0x0802, r)
  | .tierEvict _ r => some (0x0803, r)
  | .tierPolicySet _ r => some (0x0804, r)
  | .tileDirQuery _ r => some (0x0805, r)
  | .modelLoad _ r => some (0x0900, r)
  | .modelUnload _ r => some (0x0901, r)
  | .variantSet _ r => some (0x0902, r)
  | .variantClear _ r => some (0x0903, r)
  | .versionTurnover _ r => some (0x0904, r)
  | .learnStep _ r => some (0x0905, r)
  | .optimizerStep _ r => some (0x0906, r)
  | .gradAllreduce _ r => some (0x0907, r)
  | .partQuery _ r => some (0x0A00, r)
  | .contextSuspend _ r => some (0x0A01, r)
  | .contextResume _ r => some (0x0A02, r)
  | .planAdmit _ r => some (0x0A03, r)
  | .mbHello _ r => some (0x0B00, r)
  | .mbMessage _ r => some (0x0B01, r)
  | .fwInfo _ r => some (0x0B01, r)
  | .fwStage _ r => some (0x0B01, r)
  | .coreStatus _ r => some (0x0B01, r)
  | .traceSet _ r => some (0x0B01, r)
  | .logMark _ r => some (0x0B01, r)
  | .activationCancel _ r => some (0x0B01, r)
  | .fwActivate _ r => some (0x0B02, r)
  | .attestReport _ r => some (0x0C00, r)
  | .measureLogRead _ r => some (0x0C01, r)
  | .ownerClaim _ r => some (0x0C02, r)
  | .protectPropose _ r => some (0x0C03, r)
  | .protectCosign _ r => some (0x0C04, r)
  | .telemetryRead _ r => some (0x0D00, r)
  | .countersRead _ r => some (0x0D01, r)
  | .telemetrySubscribe _ r => some (0x0D02, r)
  | .logRead _ r => some (0x0D03, r)
  | _ => none

/-- A command of the standby domain, which acts whether or not the internal reset is held. -/
def Instr.standby : Instr → Bool
  | .powerUp _ => true
  | .powerDown _ => true
  | .startFailure _ => true
  | .inputUndervoltage _ _ _ => true
  | .inputOvervoltage _ _ _ => true
  | .railFault _ _ _ => true
  | .modRstNAssert _ _ => true
  | .refclkLoss _ _ => true
  | .i3cCapWWrite _ _ => true
  | .i3cAlertCauseRead _ => true
  | .presNChange _ _ => true
  | .sealBreak _ => true
  | .bootSequence _ => true
  | .standbyPowerOn _ => true
  | .standbyPowerLoss _ => true
  | .thermTripRelease _ => true
  | .sealRestored _ => true
  | _ => false

/-- `k` steps from `s`, each of which answers a next state, lead to `t`. -/
inductive Runs : State → Nat → State → Prop where
  | refl (s : State) : Runs s 0 s
  | step {s t u : State} {k : Nat} : Machine.step s = .next t → Runs t k u → Runs s (k + 1) u

namespace Machine

/-- The state at stamp `t` before anything is done: device time has come, and a power-down has gone as far as it has. -/
def State.at_ (s : State) (t : Stamp) : State := (s.comeTo t).powerTick

/-- The module carries out commands at stamp `t`: its internal reset is released. -/
def State.acts (s : State) (t : Stamp) : Bool := (s.at_ t).alive

/-- The state at stamp `t` in which the commands whose turn has come start: replacements of tables have switched, evictions that an
earlier stamp began are committed, what the units have finished by then is done, and context teardowns have ended. -/
def State.arrived (s : State) (t : Stamp) : State := (s.at_ t).installTables.commitEvictions.finishJobs.tearsDue

/-- The state in which a command at stamp `t` has its own effect: commands whose turn has come have started, and deadlines that have
come have acted. -/
def State.begun (s : State) (t : Stamp) : State :=
  (State.releaseOrdered (s.arrived t).cmds.length (s.arrived t)).deadlinesDue

/-- The command whose turn it is at stamp `t`: the first that waits for an earlier one, or for a later stamp, and need not wait any
longer. -/
def State.turnOf (s : State) (t : Stamp) : Option Cmd :=
  (s.arrived t).cmds.find? (fun c => c.phase == .ordered && !(s.arrived t).mustWait c)

/-- What follows from an effect that has led from `s` to `u`: update commands and ordered commands that can go on, and the frames of
what the module sends. The queue of waiting commands stays as it was in `s`. -/
def State.ended (s u : State) : State := s.keepQueue u.settle.frameOutputs

/-- The same for a command of the standby domain, which has its effect whether or not the internal reset is held. -/
def State.powered (s u : State) : State := s.keepQueue (if u.alive then u.settle.frameOutputs else u)

/-- A packet is of a request message: its length is legal, and it is no reply and no event (Table 2-1). -/
def requestPacket (r : Req) : Bool := 32 ≤ r.msgLen && r.msgLen ≤ 1052704 && !r.flags.getLsbD 2 && !r.flags.getLsbD 0

/-- A packet is a whole request message: no fragment follows it. -/
def wholeRequest (r : Req) : Bool := requestPacket r && !hasMore r

/-- A packet is a reply: its length is legal, and it is no event. -/
def wholeReply (r : Req) : Bool := 32 ≤ r.msgLen && r.msgLen ≤ 1052704 && !r.flags.getLsbD 2 && r.flags.getLsbD 0

/-- A queue pair takes the packet for a command of its own: it is not in the error state, discards no fragments of the tag, and no
command is being assembled. -/
def Qp.hears (q : Qp) (r : Req) : Bool := !q.error && q.discard != some r.tag && q.assembly.isNone

/-- The command that a request packet carries. -/
def State.incoming (s : State) (q : Qp) (op : Nat) (r : Req) : Cmd :=
  s.newCmd q (hdrOf op r) ((parseItems 513 (extOf r)).getD []) (payOf r)

/-- Rows 3 to 13 of Table 2-12 refuse nothing, and the whole input is in the packet. -/
def State.admitsPacket (s : State) (q : Qp) (op : Nat) (r : Req) : Bool :=
  (s.intakeRefusal q op r).isNone && (s.takeRefusal q (hdrOf op r)).isNone && (s.incoming q op r).refs.isEmpty

/-- Row 14 refuses nothing: the state in which the command begins, after stage 1 of a SESSION_CLOSE (R58). -/
def State.presented (s : State) (c : Cmd) : Option State :=
  if (s.rowFourteen c).isSome then none
  else if c.hdr.opcode == 0x0101 then (if (closeRefusal c.input).isSome then none else some (s.closeStreams c))
  else some s

/-- Neither a fence nor an earlier command on its objects holds the command back. -/
def State.unheld (s : State) (c : Cmd) : Bool :=
  !(c.fence && (s.outstanding c.hdr.qp).any (fun d => d.id < c.id)) && !s.mustWait c

/-- The state in which a command's work is done: one of the firmware must find an idle core and nothing queued before it. -/
def State.workState (s : State) (c : Cmd) : Option State :=
  if slowPath c.hdr.opcode then ((s.queueEvents c).coreFor c).map (fun core => (s.queueEvents c).takenBy core c)
  else some (s.setCmd c.id (fun d => { d with phase := .started }))

/-- The state in which the work of a command that intake takes is done, if nothing holds it back. -/
def State.startState (s : State) (c : Cmd) : Option State :=
  ((s.taken c).presented c).bind (fun u => if u.unheld c then u.workState c else none)

/-- What intake makes of a request packet that is a whole command, passes every check of Table 2-12, carries no source references
and has to wait for nothing: the command, started, and the state in which its work is done. -/
def State.begins (s : State) (op : Nat) (r : Req) : Option (Cmd × State) :=
  (s.qp? r.qp).bind (fun q =>
    let s0 := s.listen r.qp
    if wholeRequest r && q.hears r && s0.admitsPacket q op r then
      (s0.startState (s0.incoming q op r)).map (fun u => ({ s0.incoming q op r with phase := .started }, u))
    else none)

/-- A command's work is done: one of the firmware that is still outstanding is held by a CHECKPOINT record. -/
def State.worked (s : State) (c : Cmd) : State := if slowPath c.hdr.opcode then s.checkpointed c.id else s

/-- The input has the length and the zero reserved bytes that its opcode asks for. -/
def shapedAs (c : Cmd) (n : Nat) (resv : List (Nat × Nat)) : Bool :=
  c.input.length == n && resv.all (fun r => zerosAt c.input r.1 r.2)

/-- A mailbox message of kind `id`, of the agreed version, which that version has, from a partition that may send it. -/
def mailboxTakes (c : Cmd) (u : State) (id least : Nat) (admin : Bool) : Bool :=
  fieldAt c.input 0 2 == id && zerosAt c.input 8 8 && fieldAt c.input 2 1 * 256 + fieldAt c.input 3 1 == c.mbVer &&
    0 < c.mbVer && least ≤ c.mbVer && (!admin || u.admin c.hdr.partition)

/-- Nothing goes on in the background and nothing is due by the stamp `t`: no unit works on a job, no eviction, replacement of a table
or context teardown is half done, no deadline has come, no held descriptor, update command, ordered command or decided ending waits,
and the frames of everything that was sent are formed. -/
def State.quiet (s : State) (t : Stamp) : Bool :=
  s.jobs.all (fun j => j.unit.isNone) && s.dir.all (fun e => e.2.leaving.isNone) &&
    s.searches.all (fun q => q.ended.isSome || q.deadline.all (fun d => max s.now t < d)) &&
    s.cmds.all (fun c => c.hdr.deadline == 0 || max s.now t < c.hdr.deadline) && s.spn.held.isEmpty &&
    s.embJobs.isEmpty && s.hotJobs.isEmpty && s.cmds.all (fun c => c.phase != .ordered) && s.tables.all (fun x => x.next.isNone) &&
    s.parts.all (fun x => x.tears.isEmpty) && s.seqs.all (fun q => q.verdict.isNone) && s.sent.length ≤ s.framed

/-- From `s` to `t` nothing changes but what an answer changes: the time, the numbers of commands, the counts of the queue pairs, what
is sent and its frames, the outstanding commands and the firmware's records of them. -/
def AnswersOnly (s t : State) : Prop :=
  ∃ now seq sent qps cmds fw framed egress, t = { s with
    now := now, cmdSeq := seq, sent := sent, qps := qps, cmds := cmds, fw := fw, framed := framed, egress := egress }

/-- Every request packet of an opcode that intake starts at once is carried out as `e` says, where the command and the state in
which its work is done satisfy `P`: its packet answers that next state. -/
def HostEffect (mk : Stamp → Req → Instr) (op : Nat) (P : Cmd → State → Prop) (e : Cmd → State → State) : Prop :=
  ∀ (s : State) (t : Stamp) (r : Req) (c : Cmd) (u : State),
    s.acts t = true → (s.begun t).begins op r = some (c, u) → P c u → exec (mk t r) s = .next (s.ended ((e c u).worked c))

/-- A command has the effect `e` on a module that carries out commands, where the state in which it acts satisfies `P`: it answers
that next state. -/
def UnitEffect (mk : Stamp → Instr) (P : State → Prop) (e : State → State) : Prop :=
  ∀ (s : State) (t : Stamp), s.acts t = true → P (s.begun t) → exec (mk t) s = .next (s.ended (e (s.begun t)))

/-- The same for a command of the standby domain, which acts whether or not the internal reset is held. -/
def PowerEffect (mk : Stamp → Instr) (P : State → Prop) (e : State → State) : Prop :=
  ∀ (s : State) (t : Stamp), P (s.at_ t) → exec (mk t) s = .next (s.powered (e (s.at_ t)))

end Machine

end Sys2Proof
end

