-- ==== Sys2Proof/WellFormed.lean ====
section
/-! DEFINITION. When a command of the table is one that the module can meet: every operand in the range that the spec
gives it. -/

namespace Sys2Proof

/-- A request whose header fields fit their widths (Table 2-1) and whose bytes are those of its SEND message. -/
def Req.wf (r : Req) : Bool :=
  decide (r.qp < 16384) && decide (r.partition < 256) && decide (r.svc < 256) && decide (r.extLen < 65536) &&
    decide (r.payLen < 2 ^ 32) && decide (r.tag < 2 ^ 64) && decide (r.deadline < 2 ^ 64) &&
    decide (r.msgLen = 32 + r.ext.length + r.payload.length)

/-- A Spindle descriptor is 64 bytes (R154). -/
def Desc.wf (d : Desc) : Bool := decide (d.bytes.length = 64)

/-- The opcode of a Lathe instruction: bits [127:120] (Table 7-5). -/
def latheOp (w : BitVec 128) : Nat := w.toNat / 2 ^ 120

/-- Slots of Table 7-1's buffers, or a Tool store address of Table 1-4. -/
def SlotRef.wf : SlotRef → Bool
  | .slot n buf first => decide (n < 56) &&
      (match buf with
       | .weight => decide (first < 32)
       | .input => decide (first < 32)
       | .output => decide (first < 16))
  | .way addr => decide (0x0F00_0000_0000 ≤ addr) && decide (addr < 0x0F00_0C00_0000)

/-- A stream handle: a 32-bit sequence handle (R321), or a 32-bit telemetry handle (R560). -/
def StreamRef.wf : StreamRef → Bool
  | .sequence h => decide (h < 2 ^ 32)
  | .telemetry h => decide (h < 2 ^ 32)

/-- A register writer: one of the 20 control cores (R19), or the management plane. -/
def CsrWriter.wf : CsrWriter → Bool
  | .core c => c.blt 20
  | .management => true

/-- The stamp of a command. -/
def Instr.stamp : Instr → Stamp
  | .sessionOpen t _ => t
  | .sessionClose t _ => t
  | .sessionCloseComplete t _ => t
  | .echo t _ => t
  | .setEventCoalesce t _ => t
  | .readinessQuery t _ => t
  | .search t _ => t
  | .searchShard t _ => t
  | .searchBatch t _ => t
  | .indexInsert t _ => t
  | .indexDelete t _ => t
  | .indexLoad t _ => t
  | .indexMergeStart t _ => t
  | .mergeRepair t _ => t
  | .mergePublish t _ => t
  | .mergeReclaim t _ => t
  | .indexEpochQuery t _ => t
  | .shardMapSet t _ => t
  | .vectorFetch t _ => t
  | .passageFetch t _ => t
  | .indexUnload t _ => t
  | .indexUnloadComplete t _ _ => t
  | .embed t _ => t
  | .rescore t _ => t
  | .rerank t _ => t
  | .rewardScore t _ => t
  | .generate t _ => t
  | .ragGenerate t _ => t
  | .seqAppend t _ => t
  | .seqCancel t _ => t
  | .seqStatus t _ => t
  | .seqSetPriority t _ => t
  | .prefixStore t _ => t
  | .prefixRelease t _ => t
  | .embGather t _ => t
  | .embScatterAdd t _ => t
  | .embUpdate t _ => t
  | .embTableCreate t _ => t
  | .embTableReplace t _ => t
  | .tableDrainComplete t _ => t
  | .embHotsetSet t _ => t
  | .migrationCopyComplete t _ _ => t
  | .migrationLogResume t _ => t
  | .paramSlotClaim t _ => t
  | .embTableDrop t _ => t
  | .selectTopk t _ => t
  | .argmax t _ => t
  | .selectTopp t _ => t
  | .selectionTake t => t
  | .tokenize t _ => t
  | .detokenize t _ => t
  | .vocabLoad t _ => t
  | .grammarLoad t _ => t
  | .grammarUnload t _ => t
  | .memWrite t _ => t
  | .memRead t _ => t
  | .tierPromote t _ => t
  | .tierEvict t _ => t
  | .tierPolicySet t _ => t
  | .tileDirQuery t _ => t
  | .modelLoad t _ => t
  | .modelUnload t _ => t
  | .variantSet t _ => t
  | .variantClear t _ => t
  | .versionTurnover t _ => t
  | .turnoverComplete t _ _ => t
  | .learnStep t _ => t
  | .optimizerStep t _ => t
  | .gradAllreduce t _ => t
  | .allreduceHop t _ => t
  | .partQuery t _ => t
  | .contextSuspend t _ => t
  | .contextResume t _ => t
  | .switchQuiesceTimeout t _ => t
  | .contextSwitchComplete t _ => t
  | .planAdmit t _ => t
  | .mbHello t _ => t
  | .mbMessage t _ => t
  | .fwInfo t _ => t
  | .fwStage t _ => t
  | .coreStatus t _ => t
  | .traceSet t _ => t
  | .logMark t _ => t
  | .activationCancel t _ => t
  | .fwActivate t _ => t
  | .normalHoldEnd t => t
  | .clusterRestart t _ => t
  | .activationReadyTimeout t _ => t
  | .lkgFlashWrite t => t
  | .attestReport t _ => t
  | .measureLogRead t _ => t
  | .ownerClaim t _ => t
  | .protectPropose t _ => t
  | .protectCosign t _ => t
  | .proposalExpiry t => t
  | .telemetryRead t _ => t
  | .countersRead t _ => t
  | .telemetrySubscribe t _ => t
  | .telemetryWindowEnd t _ => t
  | .logRead t _ => t
  | .packetDiscard t _ _ => t
  | .replyPacketReceive t _ _ => t
  | .fragmentReceive t _ _ => t
  | .refFetchComplete t _ _ => t
  | .fenceRelease t _ => t
  | .commandDeadline t _ => t
  | .eventCoalesceTimer t _ => t
  | .workQueueTake t _ => t
  | .searchTake t _ => t
  | .walkExpansion t _ => t
  | .sideScanBatch t _ => t
  | .shardHedgeTimeout t _ _ => t
  | .shardMerge t _ => t
  | .walkerFault t _ => t
  | .distList t _ _ => t
  | .distScan t _ _ => t
  | .qload t _ _ => t
  | .decode t _ _ => t
  | .hist t _ _ => t
  | .keyCompact t _ _ => t
  | .gather t _ _ => t
  | .scatterAdd t _ _ => t
  | .rowSgd t _ _ => t
  | .rowAdagrad t _ _ => t
  | .rowAdam t _ _ => t
  | .pset t _ _ => t
  | .scrub t _ _ => t
  | .backgroundScrub t _ _ => t
  | .spnCopy t _ _ => t
  | .codebookLoad t _ => t
  | .spindleAbort t _ => t
  | .spnErrLogRead t => t
  | .groupFetchIssue t _ _ => t
  | .runnerCheck t _ => t
  | .tileFillComplete t _ _ _ _ => t
  | .tierPolicyEvict t _ => t
  | .evictRetry t _ _ => t
  | .kernelStart t _ _ => t
  | .nop t _ _ => t
  | .endKernel t _ _ => t
  | .fenceInstr t _ _ => t
  | .release t _ _ => t
  | .layer t _ _ => t
  | .drain t _ _ => t
  | .drainComplete t _ _ => t
  | .sendSel t _ _ => t
  | .matmul t _ _ => t
  | .vector t _ _ => t
  | .slotWriteComplete t _ _ _ => t
  | .latheStall t _ => t
  | .latheIdleGate t _ => t
  | .wakeGrant t => t
  | .latheBufferError t _ _ _ _ _ => t
  | .lthErrLogRead t => t
  | .stepBoundary t _ => t
  | .seqTableError t _ _ => t
  | .selectionUnitFault t _ => t
  | .tokenizerEngineFault t _ => t
  | .applyRegs t _ _ => t
  | .partitionTeardown t _ _ => t
  | .requestConfiguring t _ _ => t
  | .requestUp t _ _ => t
  | .requestDown t _ _ => t
  | .contextTeardown t _ _ _ => t
  | .watchdogExpiry t _ => t
  | .coreException t _ _ => t
  | .coreRestart t _ => t
  | .watchdogKick t _ => t
  | .fwUpdateStage t _ => t
  | .interruptEvent t _ => t
  | .interruptGroupTimer t _ => t
  | .interruptClaim t _ => t
  | .interruptComplete t _ _ => t
  | .interruptPendSet t _ _ => t
  | .interruptPendClr t _ _ => t
  | .rocePacketReceive t _ => t
  | .rdmaWriteReceive t _ _ _ _ => t
  | .rdmaReadReceive t _ _ _ _ => t
  | .rnrNakReceive t _ _ => t
  | .roceNakReceive t _ _ => t
  | .localAckTimeout t _ => t
  | .cnpReceive t _ => t
  | .rateIncreaseWindow t _ => t
  | .frameTransmit t _ _ => t
  | .gateEntryBoundary t _ => t
  | .gateConfigChange t _ => t
  | .gateConfigInstall t _ => t
  | .meterRefresh t => t
  | .queueTelemetrySample t => t
  | .arpRequest t _ _ => t
  | .neighbourSolicitation t _ _ => t
  | .icmpEchoRequest t _ _ => t
  | .frameDiscard t _ _ => t
  | .mgmtRead t _ => t
  | .mgmtWrite t _ => t
  | .csrWrite t _ _ _ => t
  | .breakoutChange t _ _ => t
  | .qpCreate t => t
  | .qpDestroy t => t
  | .qpReadBack t => t
  | .linkChange t _ _ => t
  | .mgmtLinkFallback t => t
  | .ptpAnnounceReceive t _ _ => t
  | .ptpExchange t _ => t
  | .announceTimeout t => t
  | .ppsEdge t => t
  | .ppsLossTimeout t => t
  | .ptpUnitSwap t => t
  | .cxlLinkUp t _ _ => t
  | .cxlTrainRetry t _ => t
  | .cxlLinkExit t _ => t
  | .cxlLinkRecover t _ _ _ => t
  | .cxlRecoveryTimeout t _ => t
  | .rearm t _ => t
  | .ideIntegrityFailure t _ _ => t
  | .ideKeyRefresh t _ => t
  | .powerUp t => t
  | .powerDown t => t
  | .startFailure t => t
  | .inputUndervoltage t _ _ => t
  | .inputOvervoltage t _ _ => t
  | .railFault t _ _ => t
  | .modRstNAssert t _ => t
  | .moduleReset t => t
  | .refclkLoss t _ => t
  | .powerWindowEnd t _ => t
  | .powerEmergency t _ => t
  | .powerEmergencyClear t => t
  | .thermalSample t _ => t
  | .phaseFault t _ => t
  | .railOffsetWrite t _ _ => t
  | .i3cCapWWrite t _ => t
  | .i3cAlertCauseRead t => t
  | .presNChange t _ => t
  | .sealBreak t => t
  | .faultReport t _ => t
  | .spareEntryTestComplete t _ _ => t
  | .fwCopyMoveComplete t _ => t
  | .pchMigrationSwitch t _ => t
  | .rollingTest t _ _ => t
  | .rollingTestComplete t _ _ _ => t
  | .walkerSwapTimeout t _ => t
  | .caliperMeasure t _ => t
  | .binChange t _ => t
  | .hoursUpdate t => t
  | .rotSelfTest t _ => t
  | .bootSequence t => t
  | .bootImageFetch t _ => t
  | .dhcpRetransmit t => t
  | .tftpRetransmit t => t
  | .bootBudgetExpiry t => t
  | .bootFetchRetry t => t
  | .hbmStackTrained t _ _ => t
  | .bootFaultLogRead t => t
  | .unknownOpcodeRequest t _ _ => t
  | .illegalInstruction t _ _ => t
  | .rnrTimerExpiry t _ => t
  | .fetchBudgetEnd t _ => t
  | .farContextKvFetchComplete t _ _ => t
  | .tokenizationTake t => t
  | .dirFlush t => t
  | .standbyPowerOn t => t
  | .standbyPowerLoss t => t
  | .thermTripRelease t => t
  | .sealRestored t => t
  | .phaseReenable t _ _ => t
  | .bootLimitMissed t _ => t

/-- The command's operands lie in the ranges that the spec gives them. -/
def Instr.wf : Instr → Bool
  | .sessionOpen t r => t.blt 18446744073709551616 && r.wf
  | .sessionClose t r => t.blt 18446744073709551616 && r.wf
  | .sessionCloseComplete t qp => t.blt 18446744073709551616 && qp.blt 16384
  | .echo t r => t.blt 18446744073709551616 && r.wf
  | .setEventCoalesce t r => t.blt 18446744073709551616 && r.wf
  | .readinessQuery t r => t.blt 18446744073709551616 && r.wf
  | .search t r => t.blt 18446744073709551616 && r.wf
  | .searchShard t r => t.blt 18446744073709551616 && r.wf
  | .searchBatch t r => t.blt 18446744073709551616 && r.wf
  | .indexInsert t r => t.blt 18446744073709551616 && r.wf
  | .indexDelete t r => t.blt 18446744073709551616 && r.wf
  | .indexLoad t r => t.blt 18446744073709551616 && r.wf
  | .indexMergeStart t r => t.blt 18446744073709551616 && r.wf
  | .mergeRepair t p => t.blt 18446744073709551616 && p.blt 16
  | .mergePublish t p => t.blt 18446744073709551616 && p.blt 16
  | .mergeReclaim t p => t.blt 18446744073709551616 && p.blt 16
  | .indexEpochQuery t r => t.blt 18446744073709551616 && r.wf
  | .shardMapSet t r => t.blt 18446744073709551616 && r.wf
  | .vectorFetch t r => t.blt 18446744073709551616 && r.wf
  | .passageFetch t r => t.blt 18446744073709551616 && r.wf
  | .indexUnload t r => t.blt 18446744073709551616 && r.wf
  | .indexUnloadComplete t p ix => t.blt 18446744073709551616 && p.blt 16 && ix.blt 64
  | .embed t r => t.blt 18446744073709551616 && r.wf
  | .rescore t r => t.blt 18446744073709551616 && r.wf
  | .rerank t r => t.blt 18446744073709551616 && r.wf
  | .rewardScore t r => t.blt 18446744073709551616 && r.wf
  | .generate t r => t.blt 18446744073709551616 && r.wf
  | .ragGenerate t r => t.blt 18446744073709551616 && r.wf
  | .seqAppend t r => t.blt 18446744073709551616 && r.wf
  | .seqCancel t r => t.blt 18446744073709551616 && r.wf
  | .seqStatus t r => t.blt 18446744073709551616 && r.wf
  | .seqSetPriority t r => t.blt 18446744073709551616 && r.wf
  | .prefixStore t r => t.blt 18446744073709551616 && r.wf
  | .prefixRelease t r => t.blt 18446744073709551616 && r.wf
  | .embGather t r => t.blt 18446744073709551616 && r.wf
  | .embScatterAdd t r => t.blt 18446744073709551616 && r.wf
  | .embUpdate t r => t.blt 18446744073709551616 && r.wf
  | .embTableCreate t r => t.blt 18446744073709551616 && r.wf
  | .embTableReplace t r => t.blt 18446744073709551616 && r.wf
  | .tableDrainComplete t tid => t.blt 18446744073709551616 && tid.blt 4096
  | .embHotsetSet t r => t.blt 18446744073709551616 && r.wf
  | .migrationCopyComplete t tid row => t.blt 18446744073709551616 && tid.blt 4096 && row.blt 0x10000000000
  | .migrationLogResume t _ => t.blt 18446744073709551616
  | .paramSlotClaim t _ => t.blt 18446744073709551616
  | .embTableDrop t r => t.blt 18446744073709551616 && r.wf
  | .selectTopk t r => t.blt 18446744073709551616 && r.wf
  | .argmax t r => t.blt 18446744073709551616 && r.wf
  | .selectTopp t r => t.blt 18446744073709551616 && r.wf
  | .selectionTake t => t.blt 18446744073709551616
  | .tokenize t r => t.blt 18446744073709551616 && r.wf
  | .detokenize t r => t.blt 18446744073709551616 && r.wf
  | .vocabLoad t r => t.blt 18446744073709551616 && r.wf
  | .grammarLoad t r => t.blt 18446744073709551616 && r.wf
  | .grammarUnload t r => t.blt 18446744073709551616 && r.wf
  | .memWrite t r => t.blt 18446744073709551616 && r.wf
  | .memRead t r => t.blt 18446744073709551616 && r.wf
  | .tierPromote t r => t.blt 18446744073709551616 && r.wf
  | .tierEvict t r => t.blt 18446744073709551616 && r.wf
  | .tierPolicySet t r => t.blt 18446744073709551616 && r.wf
  | .tileDirQuery t r => t.blt 18446744073709551616 && r.wf
  | .modelLoad t r => t.blt 18446744073709551616 && r.wf
  | .modelUnload t r => t.blt 18446744073709551616 && r.wf
  | .variantSet t r => t.blt 18446744073709551616 && r.wf
  | .variantClear t r => t.blt 18446744073709551616 && r.wf
  | .versionTurnover t r => t.blt 18446744073709551616 && r.wf
  | .turnoverComplete t p model => t.blt 18446744073709551616 && p.blt 16 && model.blt 65536
  | .learnStep t r => t.blt 18446744073709551616 && r.wf
  | .optimizerStep t r => t.blt 18446744073709551616 && r.wf
  | .gradAllreduce t r => t.blt 18446744073709551616 && r.wf
  | .allreduceHop t _ => t.blt 18446744073709551616
  | .partQuery t r => t.blt 18446744073709551616 && r.wf
  | .contextSuspend t r => t.blt 18446744073709551616 && r.wf
  | .contextResume t r => t.blt 18446744073709551616 && r.wf
  | .switchQuiesceTimeout t p => t.blt 18446744073709551616 && p.blt 16
  | .contextSwitchComplete t p => t.blt 18446744073709551616 && p.blt 16
  | .planAdmit t r => t.blt 18446744073709551616 && r.wf
  | .mbHello t r => t.blt 18446744073709551616 && r.wf
  | .mbMessage t r => t.blt 18446744073709551616 && r.wf
  | .fwInfo t r => t.blt 18446744073709551616 && r.wf
  | .fwStage t r => t.blt 18446744073709551616 && r.wf
  | .coreStatus t r => t.blt 18446744073709551616 && r.wf
  | .traceSet t r => t.blt 18446744073709551616 && r.wf
  | .logMark t r => t.blt 18446744073709551616 && r.wf
  | .activationCancel t r => t.blt 18446744073709551616 && r.wf
  | .fwActivate t r => t.blt 18446744073709551616 && r.wf
  | .normalHoldEnd t => t.blt 18446744073709551616
  | .clusterRestart t k => t.blt 18446744073709551616 && k.blt 4
  | .activationReadyTimeout t k => t.blt 18446744073709551616 && k.blt 4
  | .lkgFlashWrite t => t.blt 18446744073709551616
  | .attestReport t r => t.blt 18446744073709551616 && r.wf
  | .measureLogRead t r => t.blt 18446744073709551616 && r.wf
  | .ownerClaim t r => t.blt 18446744073709551616 && r.wf
  | .protectPropose t r => t.blt 18446744073709551616 && r.wf
  | .protectCosign t r => t.blt 18446744073709551616 && r.wf
  | .proposalExpiry t => t.blt 18446744073709551616
  | .telemetryRead t r => t.blt 18446744073709551616 && r.wf
  | .countersRead t r => t.blt 18446744073709551616 && r.wf
  | .telemetrySubscribe t r => t.blt 18446744073709551616 && r.wf
  | .telemetryWindowEnd t h => t.blt 18446744073709551616 && h.blt 0x100000000
  | .logRead t r => t.blt 18446744073709551616 && r.wf
  | .packetDiscard t qp _ => t.blt 18446744073709551616 && qp.blt 16384
  | .replyPacketReceive t opcode r => t.blt 18446744073709551616 && opcode.blt 65536 && r.wf
  | .fragmentReceive t opcode r => t.blt 18446744073709551616 && opcode.blt 65536 && r.wf
  | .refFetchComplete t _ _ => t.blt 18446744073709551616
  | .fenceRelease t _ => t.blt 18446744073709551616
  | .commandDeadline t _ => t.blt 18446744073709551616
  | .eventCoalesceTimer t st => t.blt 18446744073709551616 && st.wf
  | .workQueueTake t core => t.blt 18446744073709551616 && core.blt 20
  | .searchTake t p => t.blt 18446744073709551616 && p.blt 16
  | .walkExpansion t _ => t.blt 18446744073709551616
  | .sideScanBatch t _ => t.blt 18446744073709551616
  | .shardHedgeTimeout t _ _ => t.blt 18446744073709551616
  | .shardMerge t _ => t.blt 18446744073709551616
  | .walkerFault t w => t.blt 18446744073709551616 && w.blt 72
  | .distList t g d => t.blt 18446744073709551616 && g.blt 256 && d.wf
  | .distScan t g d => t.blt 18446744073709551616 && g.blt 256 && d.wf
  | .qload t g d => t.blt 18446744073709551616 && g.blt 256 && d.wf
  | .decode t g d => t.blt 18446744073709551616 && g.blt 256 && d.wf
  | .hist t g d => t.blt 18446744073709551616 && g.blt 256 && d.wf
  | .keyCompact t g d => t.blt 18446744073709551616 && g.blt 256 && d.wf
  | .gather t g d => t.blt 18446744073709551616 && g.blt 256 && d.wf
  | .scatterAdd t g d => t.blt 18446744073709551616 && g.blt 256 && d.wf
  | .rowSgd t g d => t.blt 18446744073709551616 && g.blt 256 && d.wf
  | .rowAdagrad t g d => t.blt 18446744073709551616 && g.blt 256 && d.wf
  | .rowAdam t g d => t.blt 18446744073709551616 && g.blt 256 && d.wf
  | .pset t g d => t.blt 18446744073709551616 && g.blt 256 && d.wf
  | .scrub t g d => t.blt 18446744073709551616 && g.blt 256 && d.wf
  | .backgroundScrub t g offset => t.blt 18446744073709551616 && g.blt 256 && offset.blt 0x100000000
  | .spnCopy t g d => t.blt 18446744073709551616 && g.blt 256 && d.wf
  | .codebookLoad t _ => t.blt 18446744073709551616
  | .spindleAbort t _ => t.blt 18446744073709551616
  | .spnErrLogRead t => t.blt 18446744073709551616
  | .groupFetchIssue t p dst => t.blt 18446744073709551616 && p.blt 16 && dst.all SlotRef.wf
  | .runnerCheck t p => t.blt 18446744073709551616 && p.blt 16
  | .tileFillComplete t p _ _ dst => t.blt 18446744073709551616 && p.blt 16 && dst.wf
  | .tierPolicyEvict t p => t.blt 18446744073709551616 && p.blt 16
  | .evictRetry t p obj => t.blt 18446744073709551616 && p.blt 16 && obj.blt 18446744073709551616
  | .kernelStart t p n => t.blt 18446744073709551616 && p.blt 16 && n.blt 56
  | .nop t n w => t.blt 18446744073709551616 && n.blt 56 && latheOp w == 0x0
  | .endKernel t n w => t.blt 18446744073709551616 && n.blt 56 && latheOp w == 0x1
  | .fenceInstr t n w => t.blt 18446744073709551616 && n.blt 56 && latheOp w == 0x2
  | .release t n w => t.blt 18446744073709551616 && n.blt 56 && latheOp w == 0x3
  | .layer t n w => t.blt 18446744073709551616 && n.blt 56 && latheOp w == 0x4
  | .drain t n w => t.blt 18446744073709551616 && n.blt 56 && latheOp w == 0x5
  | .drainComplete t n slot => t.blt 18446744073709551616 && n.blt 56 && slot.blt 16
  | .sendSel t n w => t.blt 18446744073709551616 && n.blt 56 && latheOp w == 0x6
  | .matmul t n w => t.blt 18446744073709551616 && n.blt 56 && latheOp w == 0x10
  | .vector t n w => t.blt 18446744073709551616 && n.blt 56 && latheOp w == 0x20
  | .slotWriteComplete t n _ slot => t.blt 18446744073709551616 && n.blt 56 && slot.blt 32
  | .latheStall t n => t.blt 18446744073709551616 && n.blt 56
  | .latheIdleGate t n => t.blt 18446744073709551616 && n.blt 56
  | .wakeGrant t => t.blt 18446744073709551616
  | .latheBufferError t n _ _ slot word => t.blt 18446744073709551616 && n.blt 56 && slot.blt 32 && word.blt 0x100000
  | .lthErrLogRead t => t.blt 18446744073709551616
  | .stepBoundary t p => t.blt 18446744073709551616 && p.blt 16
  | .seqTableError t entry _ => t.blt 18446744073709551616 && entry.blt 32768
  | .selectionUnitFault t u => t.blt 18446744073709551616 && u.blt 8
  | .tokenizerEngineFault t e => t.blt 18446744073709551616 && e.blt 4
  | .applyRegs t _ p => t.blt 18446744073709551616 && p.blt 16
  | .partitionTeardown t _ p => t.blt 18446744073709551616 && p.blt 16
  | .requestConfiguring t _ p => t.blt 18446744073709551616 && p.blt 16
  | .requestUp t _ p => t.blt 18446744073709551616 && p.blt 16
  | .requestDown t _ p => t.blt 18446744073709551616 && p.blt 16
  | .contextTeardown t _ p c => t.blt 18446744073709551616 && p.blt 16 && c.blt 16
  | .watchdogExpiry t core => t.blt 18446744073709551616 && core.blt 20
  | .coreException t core _ => t.blt 18446744073709551616 && core.blt 20
  | .coreRestart t core => t.blt 18446744073709551616 && core.blt 20
  | .watchdogKick t core => t.blt 18446744073709551616 && core.blt 20
  | .fwUpdateStage t _ => t.blt 18446744073709551616
  | .interruptEvent t n => t.blt 18446744073709551616 && n.blt 1024
  | .interruptGroupTimer t g => t.blt 18446744073709551616 && g.blt 64
  | .interruptClaim t core => t.blt 18446744073709551616 && core.blt 16
  | .interruptComplete t core n => t.blt 18446744073709551616 && core.blt 16 && n.blt 1024
  | .interruptPendSet t i _ => t.blt 18446744073709551616 && i.blt 16
  | .interruptPendClr t i _ => t.blt 18446744073709551616 && i.blt 16
  | .rocePacketReceive t k => t.blt 18446744073709551616 && k.qp.blt 16384
  | .rdmaWriteReceive t qp rkey addr _ => t.blt 18446744073709551616 && qp.blt 16384 && rkey.blt 0x100000000 && addr.blt 0x1000000000000
  | .rdmaReadReceive t qp rkey addr len => t.blt 18446744073709551616 && qp.blt 16384 && rkey.blt 0x100000000 && addr.blt 0x1000000000000 && len.blt 0x100000000
  | .rnrNakReceive t qp timer => t.blt 18446744073709551616 && qp.blt 16384 && timer.blt 0x100000000
  | .roceNakReceive t qp _ => t.blt 18446744073709551616 && qp.blt 16384
  | .localAckTimeout t qp => t.blt 18446744073709551616 && qp.blt 16384
  | .cnpReceive t qp => t.blt 18446744073709551616 && qp.blt 16384
  | .rateIncreaseWindow t qp => t.blt 18446744073709551616 && qp.blt 16384
  | .frameTransmit t l cls => t.blt 18446744073709551616 && l.blt 8 && cls.blt 8
  | .gateEntryBoundary t l => t.blt 18446744073709551616 && l.blt 8
  | .gateConfigChange t l => t.blt 18446744073709551616 && l.blt 8
  | .gateConfigInstall t l => t.blt 18446744073709551616 && l.blt 8
  | .meterRefresh t => t.blt 18446744073709551616
  | .queueTelemetrySample t => t.blt 18446744073709551616
  | .arpRequest t l _ => t.blt 18446744073709551616 && l.blt 9
  | .neighbourSolicitation t l _ => t.blt 18446744073709551616 && l.blt 9
  | .icmpEchoRequest t l _ => t.blt 18446744073709551616 && l.blt 9
  | .frameDiscard t l len => t.blt 18446744073709551616 && l.blt 9 && len.blt 0x100000000
  | .mgmtRead t _ => t.blt 18446744073709551616
  | .mgmtWrite t _ => t.blt 18446744073709551616
  | .csrWrite t src a _ => t.blt 18446744073709551616 && src.wf && a.blt 0x1000000000000
  | .breakoutChange t port _ => t.blt 18446744073709551616 && port.blt 4
  | .qpCreate t => t.blt 18446744073709551616
  | .qpDestroy t => t.blt 18446744073709551616
  | .qpReadBack t => t.blt 18446744073709551616
  | .linkChange t l _ => t.blt 18446744073709551616 && l.blt 9
  | .mgmtLinkFallback t => t.blt 18446744073709551616
  | .ptpAnnounceReceive t l _ => t.blt 18446744073709551616 && l.blt 9
  | .ptpExchange t _ => t.blt 18446744073709551616
  | .announceTimeout t => t.blt 18446744073709551616
  | .ppsEdge t => t.blt 18446744073709551616
  | .ppsLossTimeout t => t.blt 18446744073709551616
  | .ptpUnitSwap t => t.blt 18446744073709551616
  | .cxlLinkUp t l _ => t.blt 18446744073709551616 && l.blt 4
  | .cxlTrainRetry t l => t.blt 18446744073709551616 && l.blt 4
  | .cxlLinkExit t l => t.blt 18446744073709551616 && l.blt 4
  | .cxlLinkRecover t l width _ => t.blt 18446744073709551616 && l.blt 4 && width.blt 17
  | .cxlRecoveryTimeout t l => t.blt 18446744073709551616 && l.blt 4
  | .rearm t l => t.blt 18446744073709551616 && l.blt 4
  | .ideIntegrityFailure t l addr => t.blt 18446744073709551616 && l.blt 4 && addr.blt 0x1000000000000
  | .ideKeyRefresh t l => t.blt 18446744073709551616 && l.blt 4
  | .powerUp t => t.blt 18446744073709551616
  | .powerDown t => t.blt 18446744073709551616
  | .startFailure t => t.blt 18446744073709551616
  | .inputUndervoltage t mv _ => t.blt 18446744073709551616 && mv.blt 65536
  | .inputOvervoltage t mv _ => t.blt 18446744073709551616 && mv.blt 65536
  | .railFault t r _ => t.blt 18446744073709551616 && r.blt 12
  | .modRstNAssert t _ => t.blt 18446744073709551616
  | .moduleReset t => t.blt 18446744073709551616
  | .refclkLoss t _ => t.blt 18446744073709551616
  | .powerWindowEnd t meanW => t.blt 18446744073709551616 && meanW.blt 65536
  | .powerEmergency t _ => t.blt 18446744073709551616
  | .powerEmergencyClear t => t.blt 18446744073709551616
  | .thermalSample t _ => t.blt 18446744073709551616
  | .phaseFault t k => t.blt 18446744073709551616 && k.blt 34
  | .railOffsetWrite t r steps => t.blt 18446744073709551616 && r.blt 12 && steps.blt 16
  | .i3cCapWWrite t w => t.blt 18446744073709551616 && w.blt 65536
  | .i3cAlertCauseRead t => t.blt 18446744073709551616
  | .presNChange t _ => t.blt 18446744073709551616
  | .sealBreak t => t.blt 18446744073709551616
  | .faultReport t _ => t.blt 18446744073709551616
  | .spareEntryTestComplete t n _ => t.blt 18446744073709551616 && n.blt 56
  | .fwCopyMoveComplete t stack => t.blt 18446744073709551616 && stack.blt 8
  | .pchMigrationSwitch t stack => t.blt 18446744073709551616 && stack.blt 8
  | .rollingTest t _ n => t.blt 18446744073709551616 && n.blt 72
  | .rollingTestComplete t _ n _ => t.blt 18446744073709551616 && n.blt 72
  | .walkerSwapTimeout t w => t.blt 18446744073709551616 && w.blt 72
  | .caliperMeasure t _ => t.blt 18446744073709551616
  | .binChange t r => t.blt 18446744073709551616 && r.blt 4
  | .hoursUpdate t => t.blt 18446744073709551616
  | .rotSelfTest t _ => t.blt 18446744073709551616
  | .bootSequence t => t.blt 18446744073709551616
  | .bootImageFetch t _ => t.blt 18446744073709551616
  | .dhcpRetransmit t => t.blt 18446744073709551616
  | .tftpRetransmit t => t.blt 18446744073709551616
  | .bootBudgetExpiry t => t.blt 18446744073709551616
  | .bootFetchRetry t => t.blt 18446744073709551616
  | .hbmStackTrained t s _ => t.blt 18446744073709551616 && s.blt 8
  | .bootFaultLogRead t => t.blt 18446744073709551616
  | .unknownOpcodeRequest t opcode r => t.blt 18446744073709551616 && opcode.blt 65536 && r.wf
  | .illegalInstruction t n w => t.blt 18446744073709551616 && n.blt 56 &&
      !([0, 1, 2, 3, 4, 5, 6, 0x10, 0x20].contains (latheOp w))
  | .rnrTimerExpiry t qp => t.blt 18446744073709551616 && qp.blt 16384
  | .fetchBudgetEnd t _ => t.blt 18446744073709551616
  | .farContextKvFetchComplete t p obj => t.blt 18446744073709551616 && p.blt 16 && obj.blt 18446744073709551616
  | .tokenizationTake t => t.blt 18446744073709551616
  | .dirFlush t => t.blt 18446744073709551616
  | .standbyPowerOn t => t.blt 18446744073709551616
  | .standbyPowerLoss t => t.blt 18446744073709551616
  | .thermTripRelease t => t.blt 18446744073709551616
  | .sealRestored t => t.blt 18446744073709551616
  | .phaseReenable t k _ => t.blt 18446744073709551616 && k.blt 34
  | .bootLimitMissed t b => t.blt 18446744073709551616 && b.blt 64

end Sys2Proof
end

