-- ==== Sys2Proof/Certificates/Slice0/Obligations.lean ====
section
/-! DEFINITION. The statements for the provers. Of a command they give the whole next state: `HostEffect`, `UnitEffect` and
`PowerEffect` (Safety.lean) say that the command answers it, under conditions on the command and on the state in which it acts. -/

section Statements

open Sys2Proof Machine

/-- Sessions and queries. SESSION_OPEN opens the queue pair's session with the granted values and replies them (R55, R59; how many
commands are granted is free, from 1 to the number asked for); SESSION_CLOSE waits until earlier commands have replied, and
SESSION_CLOSE_COMPLETE then ends the session and replies (R58); ECHO returns its payload unchanged (R70); SET_EVENT_COALESCE sets
the thresholds of later windows (R89); READINESS_QUERY replies the readiness report (R638); COUNTERS_READ replies the queue pair's
counts and clears them where asked (R93). -/
def Obligations.SessionCommandsHaveTheirEffect : Prop :=
  HostEffect .sessionOpen 0x0100
    (fun c u => shapedAs c 16 [(6, 2), (10, 2)] = true ∧ u.session c.hdr.qp = none ∧ sessionOpenOk c.input = true)
    (fun c u =>
      let f := fieldAt c.input
      let granted := 1 + Config.freeBelow u.freeCtr (f 4 2)
      let rt := if (u.part c.hdr.partition).assign.rt then 16 else 0
      (u.tick.setQp c.hdr.qp (fun q => { q with
        session := some { recv := f 0 4, granted := granted, evCount := f 8 2, evTime := f 12 4 } })).reply c stOk []
          (toLE 4 1052704 ++ toLE 2 granted ++ toLE 2 (c.hdr.partition + rt) ++ toLE 2 (f 8 2) ++ zeros 2 ++ toLE 4 (f 12 4))) ∧
  HostEffect .sessionClose 0x0101 (fun _ _ => True) (fun c u => u.setCmd c.id (fun d => { d with phase := .waiting })) ∧
  (∀ qp id, UnitEffect (fun t => .sessionCloseComplete t qp)
    (fun b => ((b.session qp).bind (fun e => e.closing)) = some id ∧ (b.cmd? id).any (fun c => c.phase == .waiting) = true ∧
      (b.outstanding qp).all (fun d => decide (id ≤ d.id)) = true ∧
      b.cmds.all (fun d => !(d.hdr.qp == qp && d.hdr.opcode == 0x0100)) = true)
    (fun b => (b.setQp qp (fun q => { q with session := none })).endWith id stOk)) ∧
  HostEffect .echo 0x0102 (fun _ _ => True) (fun c u => u.replyData c stOk [] c.input) ∧
  HostEffect .setEventCoalesce 0x0103
    (fun c _ => shapedAs c 8 [(2, 2)] = true ∧ fieldAt c.input 0 2 ≠ 0 ∧ fieldAt c.input 4 4 ≤ 1048575)
    (fun c u => (u.setQp c.hdr.qp (fun q => { q with session := q.session.map (fun e =>
      { e with evCount := fieldAt c.input 0 2, evTime := fieldAt c.input 4 4 }) })).refuse c stOk) ∧
  HostEffect .readinessQuery 0x0104 (fun c _ => shapedAs c 8 [(0, 8)] = true)
    (fun c u => u.replyData c stOk [] u.readinessReport) ∧
  HostEffect .countersRead 0x0D01 (fun c _ => shapedAs c 8 [(1, 7)] = true ∧ fieldAt c.input 0 1 < 2)
    (fun c u =>
      let counts := ((u.qp? c.hdr.qp).map (fun q => q.counts)).getD {}
      (if fieldAt c.input 0 1 = 1 then u.setQp c.hdr.qp (fun q => { q with counts := {} }) else u).replyData c stOk [] counts.bytes)

/-- Searches start. SEARCH and SEARCH_BATCH of one index, and SEARCH_SHARD, form one search for each query, bound to the index as
the command's intake found it (R203, R213, R233). -/
def Obligations.SearchesStart : Prop :=
  let passes (batch : Bool) (c : Cmd) (u : State) (x : Index) : Prop :=
    let q := parseSearch batch c.input
    searchLenOk batch c.input = true ∧ searchResvOk batch c.input = true ∧ (batch = true → 0 < q.count ∧ q.count ≤ 256) ∧
      q.sharded = false ∧ q.index < 64 ∧ u.boundIndex c q.index = some x ∧ u.profileOk c x = true ∧
      u.framesOk c.hdr.partition = true ∧ q.ok (u.profile x.profile) x = true
  let starts (batch : Bool) (x : Index) (c : Cmd) (u : State) : State :=
    let q := parseSearch batch c.input
    (List.range q.count).foldl (fun s i => s.addSearch (s.boundQuery c x q i)) u
  ∀ x, HostEffect .search 0x0200 (fun c u => passes false c u x) (starts false x) ∧
    HostEffect .searchShard 0x0201 (fun c u => passes false c u x) (starts false x) ∧
    HostEffect .searchBatch 0x0202 (fun c u => passes true c u x) (starts true x)

/-- Searches of all shards. SEARCH and SEARCH_BATCH with the sharded flag start a coordinator for each query on the shard map that
the command's intake found: an entry for a local index is walked, the others are asked of their replicas (R229, R233, R236). -/
def Obligations.ShardedSearchesStart : Prop :=
  let passes (batch : Bool) (c : Cmd) (u : State) (m : ShardMap) : Prop :=
    let q := parseSearch batch c.input
    searchLenOk batch c.input = true ∧ searchResvOk batch c.input = true ∧ (batch = true → 0 < q.count ∧ q.count ≤ 256) ∧
      q.sharded = true ∧ q.index < 64 ∧
      (∃ n, c.snap.maps.find? (fun e => e.1 == q.index) = some (q.index, n) ∧
        u.maps.find? (fun m => m.part == c.hdr.partition && m.index == q.index && m.number == n) = some m) ∧
      u.framesOk c.hdr.partition = true ∧ c.intake < (u.cutoffOf c).1 ∧ q.okAny 0 = true ∧
      (∀ e ∈ m.entries, e.replicas.contains 0xFFFF_FFFE = true →
        ∀ x, u.localIndex c e.index = some x → q.ok (u.profile x.profile) x = true)
  let starts (batch : Bool) (m : ShardMap) (c : Cmd) (u : State) : State :=
    let q := parseSearch batch c.input
    (List.range q.count).foldl (fun s i => s.startCoord c m q i) u
  ∀ m, HostEffect .search 0x0200 (fun c u => passes false c u m) (starts false m) ∧
    HostEffect .searchBatch 0x0202 (fun c u => passes true c u m) (starts true m)

/-- Searches go on and end. SEARCH_TAKE gives the first waiting search of a partition a context, where a walker has one, the frame
fits and the engine of its entry node takes descriptors: its query is loaded and its walk starts at the entry node (R201, R203).
WALK_EXPANSION measures the neighbours of the nearest candidate that are not visited yet (R204); where the inner loop has ended and
the side area is scanned, it ends the query with its result, which counts as a selection, or widens the walk (R205, R211, R282); where the search has met an error, the
query ends with it (R240). SIDE_SCAN_BATCH scans the side window of up to 16 searches of an index (R207). -/
def Obligations.SearchesGoOn : Prop :=
  let going (b : State) (sid : Nat) (q : Search) (x : Index) : Prop :=
    b.search? sid = some q ∧ q.waiting = false ∧ q.ended = none ∧ q.fault = none ∧ b.index? q.part q.index = some x
  let resultReads (q : Search) (x : Index) (side : List (F32 × Nat)) : List (Nat × Nat) :=
    q.walk.top.flatMap (fun e => [(x.addr q.epoch 2 e.2, 8), (x.addr q.epoch 3 e.2, 4)]) ++ side.map (fun e => (x.metaAddr e.2, 16))
  let loopEnds (q : Search) : Prop :=
    q.walk.cand = [] ∨ q.hopMax ≤ q.walk.hops ∨
      (q.walk.width ≤ q.walk.top.length ∧ ∃ d n rest f, q.walk.cand = (d, n) :: rest ∧ q.walk.top.getLast? = some f ∧
        distKey f.1 < distKey d)
  let loaded (b : State) (q : Search) (x : Index) (slot : Nat) : State :=
    let spn := b.stacksReady.foldl (fun (a : SpnStores) k =>
      (List.range (b.profile x.profile).querySlots).foldl (fun (a : SpnStores) j =>
        { a with query := storeSet a.query k (slot + j) (padTo 2048 (slice q.query (2048 * j) 2048)) }.heal k 0 (slot + j)) a) b.spn
    ({ b with spn := spn } : State).measured 1 q.part x.codeLen [x.addr q.epoch 0 q.epoch.entry]
  (∀ p q x w i, UnitEffect (fun t => .searchTake t p)
    (fun b =>
      b.searches.find? (fun q => q.part == p && q.waiting && q.ended.isNone) = some q ∧ b.index? q.part q.index = some x ∧
        b.bit GGE_CTRL 0 = true ∧ b.frameRoom q.part (frameBytes q.wmax) = true ∧
        b.codesIdle [x.addr q.epoch 0 q.epoch.entry] = false ∧
        ((b.partWalkers q.part).filter (fun w => q.avoid != some w)).findSome? (fun w =>
          (b.freeContext w (b.profile x.profile).querySlots).map (fun i => (w, i))) = some (w, i) ∧
        b.isUe (tabAddr x.ntomb (q.epoch.entry / 8)) 1 = false ∧ (b.profile x.profile).ok = true ∧
        (loaded b q x (b.fld (GGE_WALKER w) 39 32 * 256 + i)).codesFault (b.profile x.profile)
          [b.fld (GGE_WALKER w) 39 32 * 256 + i] [x.addr q.epoch 0 q.epoch.entry] = false)
    (fun b =>
      (loaded b q x (b.fld (GGE_WALKER w) 39 32 * 256 + i)).setSearch q.sid (fun q => { q with
        waiting := false, taken := true, walker := w, context := i, slots := (b.profile x.profile).querySlots
        walk := Walk.start (b.walkEnv x q) q.epoch.entry q.walk.width
        fault := none, side := if q.wstart == q.wend then some [] else none }))) ∧
  (∀ sid q x d n rest, UnitEffect (fun t => .walkExpansion t sid)
    (fun b =>
      let met := q.walk.news (b.nodeNbrs x q.epoch n)
      let codes := met.map (fun m => x.addr q.epoch 0 m)
      going b sid q x ∧ q.walk.cand = (d, n) :: rest ∧ ¬ loopEnds q ∧
        b.structUe ((x.addr q.epoch 1 n, x.ns) :: met.map (fun m => (tabAddr x.ntomb (m / 8), 1))) = none ∧
        b.codesIdle codes = false ∧
        (codes = [] ∨ ((b.profile x.profile).ok = true ∧ b.codesFault (b.profile x.profile) [b.querySlot q] codes = false)))
    (fun b =>
      let nbrs := b.nodeNbrs x q.epoch n
      (b.measured 1 q.part x.codeLen ((q.walk.news nbrs).map (fun m => x.addr q.epoch 0 m))).setSearch sid (fun y => { y with
        walk := nbrs.foldl (Walk.meet (b.walkEnv x q)) { q.walk with cand := rest, hops := q.walk.hops + 1 } }))) ∧
  (∀ sid q x side, UnitEffect (fun t => .walkExpansion t sid)
    (fun b => going b sid q x ∧ loopEnds q ∧ q.side = some side ∧ b.structUe (resultReads q x side) = none ∧
      ((b.formResult x q).length = q.k ∨ q.walk.width = q.wmax ∨ q.walk.hops = q.hopMax ∨ q.walk.cand = []))
    (fun b =>
      let found := b.formResult x q
      searchDone q.cmd (((b.retryDone q).countSel q.part 0 0).endSearch sid ⟨stOk, found, found.length < q.k⟩))) ∧
  (∀ sid q x side, UnitEffect (fun t => .walkExpansion t sid)
    (fun b => going b sid q x ∧ loopEnds q ∧ q.side = some side ∧ b.structUe (resultReads q x side) = none ∧
      (b.formResult x q).length ≠ q.k ∧ q.walk.width ≠ q.wmax ∧ q.walk.hops ≠ q.hopMax ∧ q.walk.cand ≠ [])
    (fun b => b.setSearch sid (fun y => { y with walk := { y.walk with width := min (2 * y.walk.width) q.wmax } }))) ∧
  (∀ sid q x st, UnitEffect (fun t => .walkExpansion t sid)
    (fun b => b.search? sid = some q ∧ q.waiting = false ∧ q.ended = none ∧ q.fault = some st ∧ b.index? q.part q.index = some x)
    (fun b => searchDone q.cmd (b.endSearch sid ⟨st, [], false⟩))) ∧
  (∀ sid q x, UnitEffect (fun t => .sideScanBatch t [sid])
    (fun b =>
      let codes := q.window.map x.sideAddr
      going b sid q x ∧ q.side = none ∧ q.sid = sid ∧ b.codesIdle codes = false ∧
        (codes = [] ∨ ((b.profile x.profile).ok = true ∧ b.codesFault (b.profile x.profile) [b.querySlot q] codes = false)) ∧
        b.structUe ((b.scanNear x q).map (fun e => (tabAddr x.stomb (e.2 % x.cap / 8), 1))) = none)
    (fun b => (b.measured 2 q.part x.codeLen (q.window.map x.sideAddr)).setSearch sid (fun y => { y with
      side := some ((b.scanNear x q).filter (fun e => !b.bitAt x.stomb (e.2 % x.cap))) }))) ∧
  (∀ sids qs p n x, UnitEffect (fun t => .sideScanBatch t sids)
    (fun b => sids.length ≤ 16 ∧ sids.filterMap b.search? = qs ∧ b.index? p n = some x ∧
      ∀ q ∈ qs, q.part = p ∧ q.index = n ∧ q.waiting = false ∧ q.ended = none ∧ q.side = none ∧ q.fault = none)
    (fun b => qs.foldl (fun s q => s.scanOne x q) b))

/-- The coordinator of a search of all shards goes on and ends. SHARD_HEDGE_TIMEOUT asks the next replica of a shard that has
brought no usable reply in time, with the deadline of a shard query, and nothing where no replica is left (R233); SHARD_MERGE
merges the used lists of a coordinator that is due, drops NaN distances and gives the share of the shards that answered as its
coverage (R236, R244, R282). A walker in service that WALKER_FAULT strikes is reported; its searches start again, and a merge job
on it fails (R239). -/
def Obligations.ShardSearchesGoOn : Prop :=
  let due (b : State) (sid e : Nat) (q : Coord) (r : ShardRun) (c : Cmd) : Prop :=
    b.coord? sid = some q ∧ q.runs[e]? = some r ∧ q.ended = none ∧ r.entry.broadcast = false ∧
      (∀ u ∈ q.used, u.1 ≠ r.entry.shard) ∧ r.sent + b.fld (GGE_SHARD_CFG q.part) 47 32 * 1000 ≤ b.now ∧ b.cmd? q.cmd = some c
  (∀ sid e q r c qp, UnitEffect (fun t => .shardHedgeTimeout t sid e)
    (fun b => due b sid e q r c ∧ r.entry.replicas[r.next]? = some qp ∧ qp ≠ 0xFFFF_FFFE ∧ b.qpLive qp = true)
    (fun b =>
      let flight := b.fld (GGE_SHARD_CFG q.part) 19 8 * 1000
      let s1 := b.setCoord sid (fun q => { q with runs := modifyAt q.runs e (fun r => { r with next := r.next + 1, sent := b.now }) })
      (s1.issue c qp 0x0201 (q.cutoff - flight) sid e (shardPayload r.entry.index q.params)).setCoord sid (fun q =>
        { q with runs := modifyAt q.runs e (fun r => { r with live := r.live + 1, last := some b.issueSeq }) }))) ∧
  (∀ sid e q r c, UnitEffect (fun t => .shardHedgeTimeout t sid e)
    (fun b => due b sid e q r c ∧ r.entry.replicas.length ≤ r.next) (fun b => b)) ∧
  (∀ sid e q r c, UnitEffect (fun t => .shardHedgeTimeout t sid e) (fun b => due b sid e q r c) (fun b => b.sendShard c sid e 4)) ∧
  (∀ sid q, UnitEffect (fun t => .shardMerge t sid)
    (fun b => b.coord? sid = some q ∧ q.ended = none ∧ b.mergeDue q = true ∧ 0 < q.shards.length)
    (fun b =>
      let n := q.shards.length
      let answered := (q.shards.filter (fun k => q.used.any (fun u => u.1 == k))).length
      let all := q.used.flatMap (fun u => u.2.2.2)
      let best := (bestById (all.filter (fun e => !fNan e.2))).take q.k
      let s1 := b.countSel q.part (all.filter (fun e => fNan e.2)).length 0
      let s2 := (s1.bump (GGE_SHARD_CNT q.part) 63 32 (n - answered)).setCoord sid (fun q =>
        { q with ended := some (best, 65536 * answered / n) })
      searchDone q.cmd ({ s2 with
        searches := s2.searches.filter (fun x => (x.coord.map (fun e => e.1)) != some sid) } : State))) ∧
  (∀ w, UnitEffect (fun t => .walkerFault t w)
    (fun b => b.fld (GGE_WALKER w) 18 16 = 1 ∧ (∀ j ∈ b.merges, ∀ t, j.slot = some t → t.1 ≠ w) ∧
      ∀ q ∈ b.searches, q.waiting = true ∨ q.ended ≠ none ∨ q.walker ≠ w)
    (fun b => (b.event GGE_EVENT 2).report ⟨5, w, 0, .uncorrectable⟩)) ∧
  (∀ w, UnitEffect (fun t => .walkerFault t w)
    (fun b => b.fld (GGE_WALKER w) 18 16 = 1)
    (fun b => (((b.event GGE_EVENT 2).report ⟨5, w, 0, .uncorrectable⟩).failMergeOn w).restartSearches w searchDone))

/-- Indices. INDEX_INSERT stores its entries in order at the planned slots and replies their identifiers (R218); INDEX_DELETE kills
every location of its vectors (R220); INDEX_LOAD of a checked image forms the index (R215); INDEX_EPOCH_QUERY replies the epoch
and the side area (R673); SHARD_MAP_SET puts a map in force (R229); INDEX_UNLOAD withdraws an index from later commands, and
INDEX_UNLOAD_COMPLETE drops it when its last command has ended (R216). -/
def Obligations.IndexCommandsHaveTheirEffect : Prop :=
  let on (c : Cmd) (u : State) (x : Index) : Prop :=
    fieldAt c.input 0 2 < 64 ∧ u.boundIndex c (fieldAt c.input 0 2) = some x
  (∀ x es plan, HostEffect .indexInsert 0x0203
    (fun c u =>
      let n := fieldAt c.input 2 2
      8 ≤ c.input.length ∧ 0 < n ∧ n ≤ 4096 ∧ zerosAt c.input 4 4 = true ∧ on c u x ∧
        parseEntries x n (c.input.drop 8) = some es ∧ es.all (fun e => !e.bad && !e.resv) = true ∧
        es.all (fun e => !e.replace || x.assigned e.id) = true ∧ x.wend + n - x.rstart ≤ x.cap ∧
        planInsert x x.nextId x.heap es = some plan ∧
        (es.zip plan).all (fun e => u.inCxl c.hdr.partition (x.vecAddr e.2.1) x.vecSlot &&
          u.inCxl c.hdr.partition (x.dirAddr e.2.1) 16 &&
          u.inCxl c.hdr.partition e.2.2 (roundUp (16 + e.1.body.length) 64)) = true)
    (fun c u =>
      ((es.zip plan).foldl (fun s e => s.insertOne c.hdr.partition x.num e.1 e.2.1 e.2.2) u).reply c stOk []
        (toLE 4 (fieldAt c.input 2 2) ++ zeros 4 ++ plan.flatMap (fun e => toLE 8 (globalId x.shard e.1))))) ∧
  (∀ x, HostEffect .indexDelete 0x0204
    (fun c u =>
      let n := fieldAt c.input 4 4
      0 < n ∧ n ≤ 65536 ∧ c.input.length = 8 + 4 * n ∧ zerosAt c.input 2 2 = true ∧ on c u x ∧
        (List.range n).all (fun i => x.assigned (fieldAt c.input (8 + 4 * i) 4)) = true)
    (fun c u =>
      let ids := (List.range (fieldAt c.input 4 4)).map (fun i => fieldAt c.input (8 + 4 * i) 4)
      (ids.foldl (fun s id => (s.locations x id).foldl (fun s w => s.killLoc x w) s) u).refuse c stOk)) ∧
  HostEffect .indexLoad 0x0205
    (fun c u =>
      let f := fieldAt c.input
      let p := c.hdr.partition
      let prof := u.profile (f 4 1)
      let vslot := roundUp (prof.dims * ((fmtBits (f 20 1)).getD 8 / 8)) 64
      let n := fieldAt (u.bytes (f 24 8) 64) 8 4
      shapedAs c 96 [(21, 3)] = true ∧ f 0 2 < 64 ∧ f 4 1 < 64 ∧ 8 ≤ f 5 1 ∧ f 5 1 ≤ 64 ∧ 0 < f 6 2 ∧ f 6 2 ≤ 1024 ∧ 0 < f 8 4 ∧
        f 8 4 ≤ 1048576 ∧ 64 ≤ f 12 4 ∧ f 12 4 ≤ 67108864 ∧ f 16 4 ≤ 2147483647 ∧ (f 20 1 = 1 ∨ f 20 1 = 2 ∨ f 20 1 = 4) ∧
        u.index? p (f 0 2) = none ∧ f 24 8 % 0x20_0000 = 0 ∧ u.inRegion p (f 24 8) 64 = true ∧ f 32 8 % 0x20_0000 = 0 ∧
        u.inRegion p (f 32 8) (f 40 8) = true ∧ u.cxlOk p (f 48 8) 1 = true ∧ u.cxlOk p (f 48 8) (n * vslot) = true ∧
        u.cxlOk p (f 56 8) 1 = true ∧ u.cxlOk p (f 56 8) (n * 16) = true ∧ u.cxlOk p (f 64 8) (max (f 16 4 * vslot) 1) = true ∧
        u.cxlOk p (f 72 8) (max (f 16 4 * 16) 1) = true ∧ u.cxlOk p (f 80 8) (max (f 88 8) 1) = true ∧
        u.hitsDir p (f 32 8) (f 40 8) = false ∧
        (imageRanges (f 24 8) (u.bytes (f 24 8) 64)).all (fun r => !u.isUe r.1 r.2 && !u.hitsDir p r.1 r.2) = true ∧
        u.imageOk (f 24 8) (u.regionBase p + u.regionSize p) prof (f 5 1) = true)
    (fun c u => u.loadIndex c (u.profile (fieldAt c.input 4 1)) (u.bytes (fieldAt c.input 24 8) 64)) ∧
  (∀ x, HostEffect .indexEpochQuery 0x0207 (fun c u => shapedAs c 8 [(2, 6)] = true ∧ on c u x)
    (fun c u =>
      let dead := ((List.range x.epoch.count).filter (fun n => u.bitAt x.ntomb n)).length
      u.reply c stOk [] (toLE 4 x.epoch.num ++ toLE 4 x.epoch.count ++ toLE 4 (x.wstart % x.cap) ++ toLE 4 (x.wend % x.cap) ++
        toLE 4 dead ++ toLE 4 (insId + x.nextId) ++ toLE 1 (u.fld (GGE_MERGE_STATUS x.part) 43 40) ++ zeros 3 ++
        toLE 4 (x.wend - x.wstart)))) ∧
  HostEffect .shardMapSet 0x0208
    (fun c u =>
      let n := fieldAt c.input 2 2
      let off (i : Nat) : Nat := 8 + 24 * i
      let es := parseShards n c.input
      0 < n ∧ n ≤ 16384 ∧ c.input.length = 8 + 24 * n ∧ zerosAt c.input 4 4 = true ∧ fieldAt c.input 0 2 < 64 ∧
        (∀ i, i < n → fieldAt c.input (off i + 5) 1 < 2 ∧ zerosAt c.input (off i + 6) 2 = true ∧
          0 < fieldAt c.input (off i + 4) 1 ∧ fieldAt c.input (off i + 4) 1 ≤ 4 ∧
          ∀ j, j < 4 → if j < fieldAt c.input (off i + 4) 1
            then fieldAt c.input (off i + 8 + 4 * j) 4 < 16384 ∨ fieldAt c.input (off i + 8 + 4 * j) 4 = 0xFFFF_FFFE
            else fieldAt c.input (off i + 8 + 4 * j) 4 = 0xFFFF_FFFF) ∧
        ∀ e ∈ es, ∀ r ∈ e.replicas, r = 0xFFFF_FFFE ∨ ∃ q, u.qp? r = some q ∧ q.partition = c.hdr.partition)
    (fun c u =>
      let m : ShardMap :=
        ⟨c.hdr.partition, fieldAt c.input 0 2, maxNat (u.maps.map (fun (m : ShardMap) => m.number)) + 1,
          parseShards (fieldAt c.input 2 2) c.input, u.now⟩
      ({ u with maps := m :: u.maps } : State).refuse c stOk) ∧
  (∀ x, HostEffect .indexUnload 0x020B
    (fun c u => shapedAs c 8 [(2, 6)] = true ∧ fieldAt c.input 0 2 < 64 ∧
      u.index? c.hdr.partition (fieldAt c.input 0 2) = some x ∧ x.unload = none ∧
      u.merging c.hdr.partition (fieldAt c.input 0 2) = false)
    (fun c u => u.setIndex c.hdr.partition (fieldAt c.input 0 2) (fun x => { x with unload := some (c.id, u.now) }))) ∧
  (∀ p i x id stamp, UnitEffect (fun t => .indexUnloadComplete t p i)
    (fun b => b.index? p i = some x ∧ x.unload = some (id, stamp) ∧
      b.cmds.all (fun c => !(c.hdr.partition == p && b.bindsIdx c i && decide (c.intake < stamp))) = true ∧
      b.searches.all (fun q => !(q.part == p && q.index == i)) = true)
    (fun b => ({ b with indices := b.indices.filter (fun x => !(x.part == p && x.num == i)) } : State).endWith id stOk))

/-- Merges. INDEX_MERGE_START forms the partition's merge job on the index as it is and, where merges are enabled, links its entries
(R227, R223); MERGE_REPAIR repairs the nodes that a deleted one was linked from and finds the new entry node (R224); MERGE_PUBLISH
makes the new epoch current at one instant (R225); MERGE_RECLAIM frees what the old epoch held, once its searches have ended
(R222, R217). -/
def Obligations.MergesHaveTheirEffect : Prop :=
  (∀ x, HostEffect .indexMergeStart 0x0206
    (fun c u =>
      let p := c.hdr.partition
      let w := fieldAt c.input 2 2
      shapedAs c 8 [(4, 4)] = true ∧ fieldAt c.input 0 2 < 64 ∧ u.index? p (fieldAt c.input 0 2) = some x ∧ x.unload = none ∧
        u.merge? p = none ∧ (w = 0 ∨ (x.degree ≤ w ∧ w ≤ 1024)) ∧ (u.profile x.profile).ok = true ∧ u.partWalkers p ≠ [])
    (fun c u =>
      let p := c.hdr.partition
      let i := fieldAt c.input 0 2
      let w := fieldAt c.input 2 2
      let j : MergeJob :=
        { part := p, index := i, cmd := c.id, width := if w = 0 then 2 * x.degree else w, lo := x.wstart, hi := x.wend,
          tombs := (List.range x.epoch.count).filter (fun n => u.bitAt x.ntomb n)
          epoch := { x.epoch with num := x.epoch.num + 1 }, ntomb := x.ntomb }
      let s1 := ({ u with merges := u.merges ++ [j] } : State).setRaw (GGE_MERGE_STATUS p)
        (BitVec.ofNat 64 (i * 2 ^ 48 + 1 * 2 ^ 40))
      if s1.bit GGE_CTRL 1 then s1.linkAll p else s1)) ∧
  (∀ p j x s1 j1, UnitEffect (fun t => .mergeRepair t p)
    (fun b => b.bit GGE_CTRL 1 = true ∧ b.merge? p = some j ∧ j.state = 2 ∧ b.index? p j.index = some x ∧
      (b.profile x.profile).ok = true ∧ b.mergeUe x j = none ∧ b.codesIdle (j.codes x) = false ∧
      b.codesFault (b.profile x.profile) [] (j.codes x) = false ∧
      (if (b.entryHeirs x j).isEmpty then b else (b.mergeQuery x j j.epoch.entry).mergeMeasured x j (b.entryHeirs x j)).repairNodes x j
        ((List.range j.epoch.count).filter (fun n => !j.isDead n)) = some (s1, j1))
    (fun b =>
      let hit := ((List.range j.epoch.count).filter (fun n => !j.isDead n)).filter (fun n =>
        (b.nodeNbrs x j.epoch n).any j.isDead)
      ((s1.setMerge p (fun _ => { j1 with
        state := 3, repaired := true, epoch := { j1.epoch with entry := b.newEntry x j } })).setFld (GGE_MERGE_STATUS p)
          43 40 3).setFld (GGE_MERGE_STATUS p) 31 0 hit.length)) ∧
  (∀ p j x, UnitEffect (fun t => .mergePublish t p)
    (fun b => b.merge? p = some j ∧ j.state = 3 ∧ j.repaired = true ∧ b.bit GGE_CTRL 1 = true ∧ b.index? p j.index = some x)
    (fun b =>
      let s1 := (b.publishWords x j).setIndex p j.index (fun y => { y with
        epoch := j.epoch, ntomb := j.ntomb, wstart := j.hi, overlay := b.publishOverlay x j })
      let s2 := s1.setMerge p (fun j => { j with
        state := 5, old := some x.epoch, dead := b.deadSlots x j, slot := none
        freed := ((List.range (j.hi - j.lo)).map (fun i => j.lo + i)).filter (fun a => b.bitAt x.stomb (a % x.cap)) })
      (((s2.rebind p j).setFld (GGE_MERGE_STATUS p) 43 40 5).event GGE_EVENT 0).endWith j.cmd stOk)) ∧
  (∀ p j old, UnitEffect (fun t => .mergeReclaim t p)
    (fun b => b.merge? p = some j ∧ j.old = some old ∧ b.boundTo p j.index old.num = false)
    (fun b =>
      let keep := j.epoch.tabs.flatten ++ j.ntomb
      let gone := old.tabs.flatten.filter (fun a => !keep.contains a)
      let back (x : Index) (id : Nat) : Bool :=
        let w := b.newest x id
        !noLoc w && insId ≤ w && j.hi ≤ x.slotOfWord w
      let s1 := b.setIndex p j.index (fun x =>
        let freed := (x.recs.filter (fun r => j.freed.contains r.1)).map (fun r => r.2.1)
        { x with
          pool := x.pool.filter (fun r => !gone.contains r.1)
          heap := x.heap.filter (fun r => !freed.contains r.1)
          recs := x.recs.filter (fun r => j.hi ≤ r.1)
          rstart := j.hi
          gone := x.gone ++ (j.dead.map (fun d => d.2)).filter (fun id => !back x id) })
      ({ s1 with merges := s1.merges.filter (fun j => j.part != p) } : State).setFld (GGE_MERGE_STATUS p) 43 40 0))

/-- Fetches and model runs. VECTOR_FETCH and PASSAGE_FETCH reply every item that they name (R217); RESCORE and RERANK fetch their
candidates and go on when those are settled (R265, R267, R268), and a RESCORE whose result passes 4,096 entries is refused with
NO_MEMORY where the partition's slice has no room for it (R257, R258; log entry 131); FETCH_BUDGET_END settles the candidates that
have not come (R267); EMBED of token sequences and REWARD_SCORE form a run of their model, and EMBED of texts tokenizes them first
(R269, R270). -/
def Obligations.ScoringCommandsHaveTheirEffect : Prop :=
  let fetches (vec : Bool) (x : Index) (c : Cmd) (u : State) : Prop :=
    let n := fieldAt c.input 4 4
    0 < n ∧ n ≤ 65536 ∧ c.input.length = 8 + 8 * n ∧ zerosAt c.input 2 2 = true ∧ fieldAt c.input 0 2 < 64 ∧
      u.boundIndex c (fieldAt c.input 0 2) = some x ∧
      ∀ i, i < n → fieldAt c.input (8 + 8 * i) 8 / 2 ^ 32 % 2 ^ 16 = 0 ∧ fieldAt c.input (8 + 8 * i) 8 / 2 ^ 48 = x.shard ∧
        (u.fetchOne x vec (fieldAt c.input (8 + 8 * i) 8 % 2 ^ 32)).2.2 = stOk
  let fetched (vec : Bool) (x : Index) (c : Cmd) (u : State) : State :=
    u.replyData c stOk [] ((List.range (fieldAt c.input 4 4)).flatMap (fun i =>
      let r := u.fetchOne x vec (fieldAt c.input (8 + 8 * i) 8 % 2 ^ 32)
      fetchItem r.1 r.2.1))
  (∀ x, HostEffect .vectorFetch 0x0209 (fetches true x) (fetched true x) ∧
    HostEffect .passageFetch 0x020A (fetches false x) (fetched false x)) ∧
  (∀ x s1, HostEffect .rescore 0x0301
    (fun c u =>
      let f := fieldAt c.input
      (f 2 2 = 1 ∨ f 2 2 = 2 ∨ f 2 2 = 4 ∨ f 2 2 = 7) ∧ c.input.length = 32 + queryLen (f 2 2) (f 4 2) + 8 * f 10 2 ∧
        f 6 1 < 2 ∧ f 7 1 = 0 ∧ zerosAt c.input 12 20 = true ∧ f 0 2 < 64 ∧ 0 < f 10 2 ∧ 0 < f 8 2 ∧
        u.ownIndex c (f 0 2) (if (f 6 1).testBit 0 then u.boundMap c (f 0 2) else none) = some x ∧ u.rescorable x (f 4 2) = true ∧
        (4096 < min (f 8 2) (f 10 2) → 131072 + 12 * min (f 8 2) (f 10 2) ≤ (u.innerSlice c.hdr.partition).2) ∧
        u.startFetch c 0 (f 0 2) ((f 6 1).testBit 0) (gidsAt c.input (32 + queryLen (f 2 2) (f 4 2)) (f 10 2)) = .started s1)
    (fun c _ => s1.fetchDone c.id)) ∧
  (∀ x, HostEffect .rescore 0x0301
    (fun c u =>
      let f := fieldAt c.input
      (f 2 2 = 1 ∨ f 2 2 = 2 ∨ f 2 2 = 4 ∨ f 2 2 = 7) ∧ c.input.length = 32 + queryLen (f 2 2) (f 4 2) + 8 * f 10 2 ∧
        f 6 1 < 2 ∧ f 7 1 = 0 ∧ zerosAt c.input 12 20 = true ∧ f 0 2 < 64 ∧
        u.ownIndex c (f 0 2) (if (f 6 1).testBit 0 then u.boundMap c (f 0 2) else none) = some x ∧ u.rescorable x (f 4 2) = true ∧
        4096 < min (f 8 2) (f 10 2) ∧ (u.innerSlice c.hdr.partition).2 < 131072 + 12 * min (f 8 2) (f 10 2))
    (fun c u => (u.event SEL_EVENT 0).refuse c stNoMemory)) ∧
  (∀ m v s1, HostEffect .rerank 0x0302
    (fun c u =>
      let f := fieldAt c.input
      let off := 32 + 4 * (f 24 2 + f 16 4)
      let k := rerankPairing c.input
      c.input.length = off + 8 * f 10 2 ∧ f 6 1 < 4 ∧ f 7 1 = 0 ∧ zerosAt c.input 26 6 = true ∧ f 4 2 < 64 ∧ 0 < f 10 2 ∧
        f 10 2 ≤ 1024 ∧ 0 < f 8 2 ∧ 0 < f 16 4 ∧ f 16 4 ≤ 8191 ∧ 0 < f 24 2 ∧ f 24 2 ≤ 4096 ∧
        u.runModel c k.model k.version 2 = .ok (m, v) ∧ u.pairingOk v k = true ∧
        u.startFetch c 1 (f 4 2) ((f 6 1).testBit 0) (gidsAt c.input off (f 10 2)) = .started s1)
    (fun c _ => s1.fetchDone c.id)) ∧
  (∀ id f, UnitEffect (fun t => .fetchBudgetEnd t id)
    (fun b => b.fetch? id = some f ∧ f.ending ≤ b.now ∧ f.settled = false)
    (fun b => (b.setFetch id (fun f => { f with
      began := true, cands := f.cands.map (fun (x : Cand) => if x.st == 0 then { x with st := 3 } else x) })).fetchDone id)) ∧
  (∀ m v ins, HostEffect .embed 0x0300
    (fun c u =>
      let f := fieldAt c.input
      16 ≤ c.input.length ∧ f 6 1 < 2 ∧ f 7 1 = 0 ∧ zerosAt c.input 10 6 = true ∧ f 4 1 < 2 ∧
        (f 5 1 = 1 ∨ f 5 1 = 4 ∨ f 5 1 = 7) ∧ 0 < f 8 2 ∧ f 8 2 ≤ 256 ∧
        embedInputs (if f 4 1 = 0 then 4 else 1) (f 8 2) (c.input.drop 16) = some ins ∧
        u.runModel c (f 0 2) (f 2 2) 1 = .ok (m, v) ∧ ins.all (fun x => !x.isEmpty) = true ∧
        (f 4 1 = 0 → ins.all (fun x => decide (x.length / 4 ≤ 8192) && (wordsAt x 0 (x.length / 4)).all (u.wordOk v)) = true))
    (fun c u =>
      if fieldAt c.input 4 1 = 1 then u.addTokenization runTok c
      else u.addRun 0 c m (sumNat (ins.map (fun x => (wordsAt x 0 (x.length / 4)).length))) (fieldAt c.input 8 2))) ∧
  (∀ m v qs, HostEffect .rewardScore 0x0303
    (fun c u =>
      let f := fieldAt c.input
      8 ≤ c.input.length ∧ 0 < f 4 2 ∧ f 4 2 ≤ 4096 ∧ f 6 2 = 0 ∧ rewardSeqs (f 4 2) (c.input.drop 8) = some qs ∧
        u.runModel c (f 0 2) (f 2 2) 2 = .ok (m, v) ∧ qs.all (fun q => q.all (u.wordOk v)) = true)
    (fun c u => u.addRun 2 c m (sumNat (qs.map (fun q => q.length))) (fieldAt c.input 4 2)))

/-- Sequences start. GENERATE whose block passes the checks of Table 8-5 enters its sequence, which takes its memory, and replies
the accept (R325, R328, R330; one of a retired version, or at the length limit, ends at once: R358, R349); RAG_GENERATE whose fields pass the checks tokenizes its query text first (R327). -/
def Obligations.SequencesStart : Prop :=
  (∀ xs n m v i s1, HostEffect .generate 0x0400
    (fun c u =>
      let b := parseGen c.input
      let area := c.input.drop (64 + 4 * b.count)
      let words := (List.range b.count).map (fun i => fieldAt c.input (64 + 4 * i) 4)
      let pr : Prompt := ⟨words, xs, none, []⟩
      64 + 4 * b.count ≤ c.input.length ∧ 0 < b.count ∧ b.count ≤ 16777215 ∧ genResvOk c.input = true ∧
        parseStops b.stops area = some (xs, n) ∧ b.stops ≤ 16 ∧ area.length = roundUp n 8 ∧
        zerosAt area n (area.length - n) = true ∧ u.genRefusal c b pr = none ∧
        u.modelFor c b.model b.version = some (m, v) ∧ u.freeEntry = some i ∧
        u.makeSeq (u.newSeq c b pr m v i) pr (u.genPrefix c b) = some s1 ∧ u.bit HDS_CTRL 0 = true ∧
        (b.flags.testBit 3 = true → u.bit JIG_CTRL 0 = true))
    (fun c u =>
      let b := parseGen c.input
      let pr : Prompt := ⟨(List.range b.count).map (fun i => fieldAt c.input (64 + 4 * i) 4), xs, none, []⟩
      (s1.acceptSeq c (u.newSeq c b pr m v i) pr).endAtEntry (u.newSeq c b pr m v i))) ∧
  (∀ r, HostEffect .ragGenerate 0x0401 (fun c u => parseRag c.input = some r ∧ u.ragRefusal c r = none)
    (fun c u => ({ u with rags := u.rags ++ [{ cmd := c.id }] } : State).addTokenization runTok c))

/-- Sequences are steered. SEQ_APPEND holds words for the next step boundary (R336); SEQ_CANCEL lets the endings of its own
intake stamp be decided first, and before anything of a later stamp it ends the sequence and replies how many tokens its client has
(R91, R350; log entry 85); SEQ_STATUS replies the entry's state (R339); SEQ_SET_PRIORITY sets the priority for the next
boundary (R338); PREFIX_STORE waits for the boundary (R377); PREFIX_RELEASE ends the client's hold and frees an unreferenced
prefix (R381). -/
def Obligations.SequenceCommandsHaveTheirEffect : Prop :=
  (∀ q v, HostEffect .seqAppend 0x0402
    (fun c u =>
      let n := fieldAt c.input 4 4
      0 < n ∧ n ≤ 1048576 ∧ c.input.length = 8 + 4 * n ∧ u.seqOf c.hdr.partition (fieldAt c.input 0 4) = some q ∧
        q.ending = none ∧ u.vocabs.find? (fun v => v.slot == q.vocab) = some v ∧
        ((List.range n).map (fun i => fieldAt c.input (8 + 4 * i) 4)).all (u.wordOk v) = true ∧
        (q.maxNew ≠ 0 → n ≤ q.reserve) ∧ q.len + u.stepTokens q + q.append.length + n ≤ 16777215)
    (fun c u =>
      let n := fieldAt c.input 4 4
      let ws := (List.range n).map (fun i => fieldAt c.input (8 + 4 * i) 4)
      (u.setSeq q.idx (fun q => { q with
        append := q.append ++ ws, reserve := if q.maxNew == 0 then q.reserve else q.reserve - n })).refuse c stOk)) ∧
  (∀ (s : State) (t : Stamp) (r : Req) (q : Qp), s.acts t = true →
    let b := (s.begun t).listen r.qp
    let c := b.incoming q 0x0403 r
    (s.begun t).qp? r.qp = some q → wholeRequest r = true → q.hears r = true → b.admitsPacket q 0x0403 r = true →
    (b.taken c).rowFourteen c = none → (b.taken c).chapterRefusal c = none →
    (c.fence && ((b.taken c).outstanding r.qp).any (fun d => decide (d.id < c.id))) = false →
    exec (.seqCancel t r) s = .next (s.ended ((b.taken c).setCmd c.id (fun d => { d with phase := .ordered })))) ∧
  (∀ (s : State) (t : Stamp) p (c : Cmd) (q : Seq), s.acts t = true → s.turnOf t = some c → c.hdr.opcode = 0x0403 →
    shapedAs c 8 [(4, 4)] = true →
    let b := s.arrived t
    let h := fieldAt c.input 0 4
    b.seqOf c.hdr.partition h = some q → q.ending = none → c.cancelled = none →
    let u := b.setCmd c.id (fun d => { d with phase := .started })
    let e := (u.cutSeq q.idx stCancelled).reply { c with phase := .started } stCancelled []
      (toLE 4 h ++ toLE 4 (q.stream.sent + q.stream.held.length) ++ zeros 4)
    exec (.stepBoundary t p) s =
      .next (s.ended (stepBoundaryStep p (State.releaseOrdered (b.cmds.length - 1) e).deadlinesDue))) ∧
  (∀ q, HostEffect .seqStatus 0x0404
    (fun c u => shapedAs c 8 [(4, 4)] = true ∧ u.seqOf c.hdr.partition (fieldAt c.input 0 4) = some q)
    (fun c u => u.reply c stOk [] (toLE 4 q.handle ++ toLE 1 q.state ++ toLE 1 q.flags ++ toLE 1 q.d ++ zeros 1 ++
      toLE 4 q.len ++ toLE 4 q.made ++ toLE 4 q.stream.sent ++ toLE 4 q.fallbacks ++
      toLE 2 (q.ending.getD 0) ++ zeros 6))) ∧
  (∀ q, HostEffect .seqSetPriority 0x0405
    (fun c u => shapedAs c 8 [(5, 3)] = true ∧ fieldAt c.input 4 1 < 2 ∧
      u.seqOf c.hdr.partition (fieldAt c.input 0 4) = some q)
    (fun c u => (u.setSeq q.idx (fun q => { q with newPrio := some (fieldAt c.input 4 1 == 1) })).refuse c stOk)) ∧
  HostEffect .prefixStore 0x0406 (fun c _ => c.input.length = 8) (fun c u => { u with stores := u.stores ++ [c.id] }) ∧
  (∀ x, HostEffect .prefixRelease 0x0407
    (fun c u => c.input.length = 8 ∧ u.livePref c.hdr.partition (fieldAt c.input 0 8) c.intake = some x ∧ x.ended = none)
    (fun c u => State.unrefPrefix 16384 x.slot ((u.refuse c stOk).setPref x.slot (fun x => { x with
      ended := some c.intake }))))

/-- Steps of the generation engine. At STEP_BOUNDARY the step in the runner completes, what waits for a boundary is done, and the
next step starts, in which the entries that were freed may be used again (R318, R332, R352, R389); an uncorrectable
SEQ_TABLE_ERROR ends the sequence with HW_FAULT, a corrected one is only reported (R360); FAR_CONTEXT_KV_FETCH_COMPLETE brings the
block into tier 1 for the step that waits for it (R389). -/
def Obligations.StepsGoOn : Prop :=
  let cooled (b : State) (p : Nat) : State := { b.settleLathes p with cool := b.cool.filter (fun e => e.1 != p) }
  (∀ p, UnitEffect (fun t => .stepBoundary t p)
    (fun b => (cooled b p).awaitsSpare p ((cooled b p).runner p).ctx = false ∧ ((cooled b p).runner p).active = true)
    (fun b => (((cooled b p).completeStep p).atBoundary p).startStep p)) ∧
  (∀ p, UnitEffect (fun t => .stepBoundary t p) (fun b => ((cooled b p).runner p).active = false)
    (fun b => ((cooled b p).atBoundary p).startStep p)) ∧
  (∀ k, UnitEffect (fun t => .seqTableError t k .corrected) (fun _ => True)
    (fun b => (b.event HDS_EVENT 0).report ⟨9, 0, k, .corrected⟩)) ∧
  (∀ k, UnitEffect (fun t => .seqTableError t k .uncorrectable) (fun _ => True)
    (fun b => ((b.event HDS_EVENT 1).report ⟨9, 0, k, .uncorrectable⟩).cutSeq k stHwFault)) ∧
  (∀ p obj, UnitEffect (fun t => .farContextKvFetchComplete t p obj)
    (fun b => (b.runner p).far.any (fun f => f.obj == obj && f.pinned && f.came.isNone) = true ∧ (b.promote p obj false).1 = stOk)
    (fun b =>
      let s1 := (b.promote p obj false).2
      s1.countWait p (fun s => s.setRunner p (fun r => { r with
        far := r.far.map (fun f => if f.obj == obj && f.came.isNone then { f with came := some s1.now } else f) }))))

/-- Embedding tables. EMB_TABLE_CREATE makes a table with an empty hot-set directory (R435); EMB_TABLE_REPLACE
accepts a new version, which is in force from the instant after its own (R457); EMB_TABLE_DROP removes an unused table (R459); EMB_GATHER replies the
rows or the pooled bags of its identifiers, and counts them (R441); EMB_SCATTER_ADD and EMB_UPDATE start their updates (R446,
R447); EMB_HOTSET_SET starts the moves of the rows that it names (R453). -/
def Obligations.EmbeddingCommandsHaveTheirEffect : Prop :=
  HostEffect .embTableCreate 0x0503
    (fun c u =>
      let e := parseEmb c.input
      u.bit EMB_CTRL 0 = true ∧ c.input.length = 64 ∧ embResvOk c.input = true ∧ u.table? e.1 = none ∧ e.1 < 4096 ∧
        e.2.ok = true ∧ u.embPlaced c.hdr.partition e.2 = true ∧ u.embOnDir c.hdr.partition e.2 = false)
    (fun c u =>
      let p := c.hdr.partition
      let e := parseEmb c.input
      (({ u with tables := u.tables ++ [{ id := e.1, part := p, cur := e.2 }] } : State).clearDir p e.2).reply c stOk []
        (toLE 2 (if e.2.stride ≤ 4096 then 1 else ceilDiv e.2.rowBytes 4096) ++ zeros 2 ++
          toLE 8 (e.2.hotLen (u.userPchs p)) ++ zeros 4)) ∧
  (∀ x, HostEffect .embTableReplace 0x0504
    (fun c u =>
      let p := c.hdr.partition
      let e := parseEmb c.input
      u.bit EMB_CTRL 0 = true ∧ c.input.length = 64 ∧ embResvOk c.input = true ∧ u.table? e.1 = some x ∧ x.part = p ∧
        x.old = none ∧ x.next = none ∧ e.2.ok = true ∧ e.2.ver ≠ x.cur.ver ∧ u.embPlaced p e.2 = true ∧
        (e.2.ranges (u.userPchs p)).all (fun r => clearOf r.1 r.2 (x.cur.ranges (u.userPchs p))) = true ∧ u.embOnDir p e.2 = false)
    (fun c u =>
      let e := parseEmb c.input
      { u with tables := updateWhere u.tables (fun x => x.id == e.1) (fun (x : EmbTable) =>
          { x with next := some (e.2, c.id, u.now) }) })) ∧
  (∀ x, HostEffect .embTableDrop 0x0506
    (fun c u => u.bit EMB_CTRL 0 = true ∧ shapedAs c 8 [(2, 6)] = true ∧ u.table? (fieldAt c.input 0 2) = some x ∧
      x.part = c.hdr.partition ∧ x.old = none ∧ x.next = none ∧ u.tableBusy x x.cur.ver c.id = false)
    (fun c u => ({ u with tables := u.tables.filter (fun y => y.id != x.id) } : State).refuse c stOk)) ∧
  (∀ x v, HostEffect .embGather 0x0500
    (fun c u =>
      let f := fieldAt c.input
      let p := c.hdr.partition
      let nb := f 8 4
      let ni := f 12 4
      let lens := (List.range nb).map (fun i => f (16 + 4 * i) 4)
      let ids := (List.range ni).map (fun i => f (16 + 4 * nb + 8 * i) 8)
      let bags := bagsOf lens ids
      let rows := dedupBy (fun (x : Nat) => x) (ids.filterMap v.resolve ++
        (if bags.any (fun b => b.isEmpty) then v.dflt.toList else []))
      u.bit EMB_CTRL 0 = true ∧ f 4 1 < 4 ∧ 0 < nb ∧ nb ≤ 65536 ∧ (f 4 1 = 0 → nb = 1) ∧ 0 < ni ∧ ni ≤ 1048576 ∧
        c.input.length = 16 + 4 * nb + 8 * ni ∧ zerosAt c.input 5 3 = true ∧ sumNat lens = ni ∧
        u.boundTable c (f 0 2) (f 2 2) = some (x, v) ∧ u.rowStop p v rows = .ok ∧ u.rowUe p v rows = none)
    (fun c u =>
      let f := fieldAt c.input
      let p := c.hdr.partition
      let mode := f 4 1
      let nb := f 8 4
      let ni := f 12 4
      let lens := (List.range nb).map (fun i => f (16 + 4 * i) 4)
      let ids := (List.range ni).map (fun i => f (16 + 4 * nb + 8 * i) 8)
      let defs := (ids.filter (fun i => v.rows ≤ i)).length
      let data := if mode == 0 then ids.flatMap (fun i => padTo (roundUp v.rowBytes 8) (u.rowStored p v (v.resolve i)))
        else (bagsOf lens ids).flatMap (fun b => (u.poolBag p v mode b).flatMap (fun x => toLE 4 x.toNat))
      let rows := dedupBy (fun (x : Nat) => x) (ids.filterMap v.resolve ++
        (if (bagsOf lens ids).any (fun b => b.isEmpty) then v.dflt.toList else []))
      (((u.gatherReads p v rows).bump (EMB_LOOKUP_CNT p) 31 0 ni).bump (EMB_LOOKUP_CNT p) 63 32 defs).replyData c stOk []
        (toLE 4 (if mode == 0 then ni else nb) ++ toLE 2 v.dims ++ toLE 1 (if mode == 0 then v.fmt else 7) ++ zeros 1 ++
          toLE 4 defs ++ toLE 2 v.ver ++ zeros 2 ++ data))) ∧
  (∀ x v, HostEffect .embScatterAdd 0x0501
    (fun c u =>
      let f := fieldAt c.input
      let n := f 4 4
      u.bit EMB_CTRL 0 = true ∧ 0 < n ∧ n ≤ 65536 ∧ zerosAt c.input 8 8 = true ∧ u.boundTable c (f 0 2) (f 2 2) = some (x, v) ∧
        v.ro = false ∧ c.input.length = 16 + 8 * n + 4 * v.dims * n)
    (fun c u => u.startUpdate c x v 0 (zeros 32) 16 (fieldAt c.input 4 4))) ∧
  (∀ x v, HostEffect .embUpdate 0x0502
    (fun c u =>
      let f := fieldAt c.input
      let n := f 4 4
      u.bit EMB_CTRL 0 = true ∧ 0 < n ∧ n ≤ 65536 ∧ f 8 4 ≠ 0 ∧ zerosAt c.input 28 4 = true ∧
        u.boundTable c (f 0 2) (f 2 2) = some (x, v) ∧ v.ro = false ∧ v.opt ≠ 0 ∧
        c.input.length = 32 + 8 * n + 4 * v.dims * n)
    (fun c u => u.startUpdate c x v v.opt (updateWords c.input v (u.userPchs c.hdr.partition)) 32 (fieldAt c.input 4 4))) ∧
  (∀ x v, HostEffect .embHotsetSet 0x0505
    (fun c u =>
      let f := fieldAt c.input
      let p := c.hdr.partition
      let na := f 4 4
      let nr := f 8 4
      let adds := (List.range na).map (fun i => f (16 + 8 * i) 8)
      let rems := (List.range nr).map (fun i => f (16 + 8 * na + 8 * i) 8)
      let hot (r : Nat) : Bool := u.willBeHot p x v r
      u.bit EMB_CTRL 0 = true ∧ na ≤ 65536 ∧ nr ≤ 65536 ∧ c.input.length = 16 + 8 * (na + nr) ∧ zerosAt c.input 12 4 = true ∧
        u.boundTable c (f 0 2) (f 2 2) = some (x, v) ∧ v.tier ≠ 1 ∧ (adds ++ rems).all (fun r => decide (r < v.rows)) = true ∧
        hasRepeat adds = false ∧ hasRepeat rems = false ∧ adds.all (fun r => !hot r) = true ∧ rems.all hot = true ∧
        (adds ++ rems).all (fun r => (u.hotFind p v r).isSome && !u.locLost (v.home r) &&
          (u.cxlMissing (v.home r).addr v.rowBytes).isNone) = true ∧ u.hotCount x v + na ≤ v.cap + nr)
    (fun c u =>
      let f := fieldAt c.input
      let na := f 4 4
      let j : HotJob :=
        { cmd := c.id, table := x.id, ver := v.ver, rem := (List.range (f 8 4)).map (fun i => f (16 + 8 * na + 8 * i) 8)
          add := (List.range na).map (fun i => f (16 + 8 * i) 8) }
      ({ u with hotJobs := u.hotJobs ++ [j] } : State).hotRun c.id))

/-- Embedding tables in the background. At the instant after its acceptance a new version of a table is in force, with an empty
directory, and the old is kept for the commands bound to it (R457; log entry 138). TABLE_DRAIN_COMPLETE drops the old version when its last command has ended, and replies
(R457); MIGRATION_COPY_COMPLETE of a row without logged updates copies it to its new place and moves it there (R454);
PARAM_SLOT_CLAIM and MIGRATION_LOG_RESUME let the update command go on, and the commands after it (R448, R456). -/
def Obligations.EmbeddingTablesGoOn : Prop :=
  (∀ (s : State) x v id t, s.tables = [x] → x.next = some (v, id, t) → t < s.now →
    s.installTables = ({ s with tables := [{ x with cur := v, old := some (x.cur, id), next := none }] } : State).clearDir x.part v) ∧
  (∀ id x v owed, UnitEffect (fun t => .tableDrainComplete t id)
    (fun b => b.table? id = some x ∧ x.old = some (v, owed) ∧ b.tableBusy x v.ver owed = false)
    (fun b => ({ b with tables := updateWhere b.tables (fun x => x.id == id) (fun (x : EmbTable) =>
      { x with old := none }) } : State).endWith owed stOk)) ∧
  (∀ id row m x v, UnitEffect (fun t => .migrationCopyComplete t id row)
    (fun b => b.migs.find? (fun m => m.table == id && m.row == row) = some m ∧ b.table? id = some x ∧ x.ver? m.ver = some v ∧
      m.log = [] ∧ (m.add = true → ∀ g k, b.pchOf (v.slotLoc (b.userPchs x.part) m.slot).addr = some (g, k) → b.engineTakes g = true))
    (fun b =>
      let p := x.part
      let hot := v.slotLoc (b.userPchs p) m.slot
      let src := if m.add then v.home row else hot
      let dst := if m.add then hot else v.home row
      let op := if m.add then 0x0E else 0
      let s1 := (List.range (v.states + 1)).foldl (fun s k =>
        s.copyRow op p (src.addr + k * src.step) (dst.addr + k * dst.step) (if k == 0 then v.rowBytes else 4 * v.dims))
          (b.embReads op p (v.rowSpans src))
      let s2 := if m.add then s1.addHot p v row m.slot else s1.clearHot p v row
      let s3 := (s2.setVer id m.ver (fun v =>
        if m.add then { v with nHot := v.nHot + 1 }
        else { v with nHot := v.nHot - 1, used := v.used.filter (fun k => k != m.slot), freed := (m.slot, s2.now) :: v.freed })).bump
          (EMB_MIGRATE_CNT p) 31 0 1
      ((({ s3 with migs := s3.migs.filter (fun x => !(x.table == id && x.ver == m.ver && x.row == row)) } : State).setHotJob m.cmd
        (fun j => { j with left := j.left - 1 })).embPump).hotPump)) ∧
  (∀ id, UnitEffect (fun t => .paramSlotClaim t id) (fun b => b.embJobs.any (fun j => j.cmd == id) = true)
    (fun b => (b.embRun id).embPump)) ∧
  (∀ id, UnitEffect (fun t => .migrationLogResume t id) (fun b => b.embJobs.any (fun j => j.cmd == id) = true)
    (fun b => (b.embRun id).embPump))

/-- Selections. SELECT_TOPK, ARGMAX and SELECT_TOPP whose fields are legal and whose work fits the partition's area become a job,
which a unit takes at once where no other waits (R247, R252, R260, R261); SELECTION_TAKE gives the next job to a free unit (R260);
a ready unit that SELECTION_UNIT_FAULT strikes while it has no job is reported (R280). -/
def Obligations.SelectionsHaveTheirEffect : Prop :=
  let legal (c : Cmd) (u : State) : Prop :=
    let q := parseSelect c.input
    32 ≤ c.input.length ∧ fieldAt c.input 1 1 < 4 ∧ zerosAt c.input 2 2 = true ∧ zerosAt c.input 24 8 = true ∧
      q.ok c.hdr.opcode c.input.length = true ∧ cxlLinkOf q.addr = none ∧
      (q.addr ≠ 0 → u.inRegion c.hdr.partition q.addr (q.n * q.z) = true ∧ u.hitsDir c.hdr.partition q.addr (q.n * q.z) = false) ∧
      q.room ≤ (u.selSlice c.hdr.partition 0).2
  let queued (c : Cmd) (u : State) : State :=
    let s1 : State := { u with jobs := u.jobs ++ [{ kind := 0, cmd := c.id, part := c.hdr.partition, rt := c.hdr.svc == 2 }] }
    if u.jobs.any (fun j => j.kind == 0 && j.unit.isNone) then s1 else selectionTakeStep s1
  HostEffect .selectTopk 0x0600 legal queued ∧ HostEffect .argmax 0x0601 legal queued ∧
    HostEffect .selectTopp 0x0602 legal queued ∧
    (∀ j k, UnitEffect (fun t => .selectionTake t)
      (fun b => b.bit SEL_CTRL 0 = true ∧ b.nextJob 0 b.selLast = some j ∧ (b.freeUnits 0 j.avoid).head? = some k)
      (fun b => b.startSelection j k)) ∧
    (∀ k, UnitEffect (fun t => .selectionUnitFault t k)
      (fun b => b.unitReady 0 k = true ∧ b.jobs = [])
      (fun b => (b.event SEL_EVENT 1).report ⟨6, k, 0, .uncorrectable⟩))

/-- Texts. TOKENIZE of a model with a vocabulary becomes a job, which an engine takes at once where no other waits (R404, R406,
R407); DETOKENIZE replies the well-formed text of its words and counts the replacements (R413); VOCAB_LOAD stores a vocabulary
that passes its checks and refuses another (R403); GRAMMAR_LOAD stores a grammar that fits the vocabulary into the lowest free
slot, and GRAMMAR_UNLOAD frees one that no sequence uses (R423, R424); TOKENIZATION_TAKE gives the next job to a free engine
(R406); a ready engine that TOKENIZER_ENGINE_FAULT strikes while it has no job is reported (R406). -/
def Obligations.TextCommandsHaveTheirEffect : Prop :=
  (∀ v, HostEffect .tokenize 0x0700
    (fun c u => 0 < fieldAt c.input 4 4 ∧ fieldAt c.input 4 4 ≤ 268435456 ∧ c.input.length = 8 + fieldAt c.input 4 4 ∧
      zerosAt c.input 2 2 = true ∧ u.vocabFor c.hdr.partition (fieldAt c.input 0 2) = some v)
    (fun c u =>
      let s1 : State := { u with jobs := u.jobs ++ [{ kind := 1, cmd := c.id, part := c.hdr.partition, rt := c.hdr.svc == 2 }] }
      if u.jobs.any (fun j => j.kind == 1 && j.unit.isNone) then s1 else tokenizationTakeStep runTok s1)) ∧
  (∀ v, HostEffect .detokenize 0x0701
    (fun c u =>
      let n := fieldAt c.input 4 4
      0 < n ∧ n ≤ 16777215 ∧ c.input.length = 8 + 4 * n ∧ zerosAt c.input 2 2 = true ∧
        u.vocabFor c.hdr.partition (fieldAt c.input 0 2) = some v ∧
        ((List.range n).map (fun i => fieldAt c.input (8 + 4 * i) 4)).all (fun w => u.wordOk v w) = true ∧ u.ue = [])
    (fun c u =>
      let ws := (List.range (fieldAt c.input 4 4)).map (fun i => fieldAt c.input (8 + 4 * i) 4)
      let r := (utf8Run [] (ws.flatMap (fun w => u.tokText v (w % 2 ^ 20)))).finish
      ((ws.foldl (fun s w => (s.readTok v (w % 2 ^ 20)).1) u).bump (TOK_CNT c.hdr.partition) 15 0 r.reps).replyData c stOk []
        (toLE 4 r.out.length ++ toLE 4 r.reps ++ padTo (roundUp r.out.length 8) r.out))) ∧
  (∀ at_, HostEffect .vocabLoad 0x0702
    (fun c u =>
      let f := fieldAt c.input
      let p := c.hdr.partition
      let nm := f 2 2
      let head := 24 + 2 * nm
      let ms := (List.range nm).map (fun i => f (24 + 2 * i) 2)
      let s1 := u.dropVocab (f 0 1)
      head ≤ c.input.length ∧ c.input.length = head + f 16 8 ∧ f 0 1 < 64 ∧ nm ≤ 16 ∧ zerosAt c.input 1 1 = true ∧
        zerosAt c.input 4 4 = true ∧ f 8 8 = 0 ∧ u.vocabs.find? (fun v => v.slot == f 0 1) = none ∧
        u.vocabs.all (fun v => !(v.part == p && v.slot != f 0 1 && ms.any (fun m => v.models.contains m))) = true ∧
        (nm ≠ 0 ∨ f 16 8 ≠ 0) ∧ vocabOk (c.input.drop head) = true ∧
        s1.placeArea (TOK_PART_AREA p) (f 16 8) 64 (s1.textHeld p) = some at_)
    (fun c u =>
      let f := fieldAt c.input
      (u.dropVocab (f 0 1)).putVocab c (f 0 1) (c.input.drop (24 + 2 * f 2 2)) ((List.range (f 2 2)).map (fun i => f (24 + 2 * i) 2))
        c.id at_)) ∧
  HostEffect .vocabLoad 0x0702
    (fun c _ =>
      let f := fieldAt c.input
      let head := 24 + 2 * f 2 2
      head ≤ c.input.length ∧ c.input.length = head + f 16 8 ∧ f 0 1 < 64 ∧ f 2 2 ≤ 16 ∧ zerosAt c.input 1 1 = true ∧
        zerosAt c.input 4 4 = true ∧ f 8 8 = 0 ∧ (f 2 2 ≠ 0 ∨ f 16 8 ≠ 0) ∧ vocabOk (c.input.drop head) = false)
    (fun c u => u.refuse c stBadParameter) ∧
  (∀ v slot at_, HostEffect .grammarLoad 0x0703
    (fun c u =>
      let f := fieldAt c.input
      let n := f 4 4
      let im := c.input.drop 16
      u.bit JIG_CTRL 0 = true ∧ f 8 8 = 0 ∧ c.input.length = 16 + n ∧ 64 ≤ n ∧ n ≤ 268435456 ∧ zerosAt c.input 2 2 = true ∧
        grammarOk im = true ∧ u.vocabFor c.hdr.partition (f 0 2) = some v ∧ u.grammarFits v im = true ∧
        (List.range 256).find? (fun i => !u.grammars.any (fun x => x.slot == i)) = some slot ∧
        u.placeArea (JIG_PART_AREA c.hdr.partition) n 64 (u.gramHeld c.hdr.partition) = some at_)
    (fun c u =>
      let im := c.input.drop 16
      let g := fieldAt im
      let p := c.hdr.partition
      let x : Grammar :=
        { load := v.load, slot := slot, part := p, vocab := v.slot, addr := at_, len := fieldAt c.input 4 4, entries := v.entries,
          states := g 8 4, start := g 12 2, stTab := at_ + g 32 8, mkTab := at_ + g 40 8, exTab := at_ + g 48 8 }
      let s1 := u.store at_ im
      (({ s1 with grammars := s1.grammars ++ [x] } : State).setRaw (JIG_SLOT slot) (BitVec.ofNat 64 ((x.states - 1) * 2 ^ 48 +
        v.slot * 2 ^ 42 + p * 2 ^ 20 + 2 ^ 19))).reply c stOk [] (toLE 4 slot ++ toLE 4 x.states))) ∧
  (∀ g, HostEffect .grammarUnload 0x0704
    (fun c u => shapedAs c 8 [(1, 7)] = true ∧ u.grammar? c.hdr.partition (fieldAt c.input 0 1) = some g ∧
      u.seqs.all (fun q => !(q.gram && q.gslot == fieldAt c.input 0 1)) = true)
    (fun c u =>
      let slot := fieldAt c.input 0 1
      (({ u with grammars := u.grammars.filter (fun g => g.slot != slot) } : State).setRaw (JIG_SLOT slot) 0).refuse c stOk)) ∧
  (∀ j k c, UnitEffect (fun t => .tokenizationTake t)
    (fun b => b.bit TOK_CTRL 0 = true ∧ b.nextJob 1 b.tokLast = some j ∧ (b.freeUnits 1 j.avoid).head? = some k ∧
      b.cmd? j.cmd = some c)
    (fun b => (runTok c b).1.startTokenization j k (runTok c b).2.1 (runTok c b).2.2)) ∧
  (∀ k, UnitEffect (fun t => .tokenizerEngineFault t k)
    (fun b => b.unitReady 1 k = true ∧ b.jobs = [])
    (fun b => (b.event TOK_EVENT 2).report ⟨7, k, 0, .uncorrectable⟩))

/-- Memory and tiers. MEM_WRITE stores its data in memory of the partition, MEM_READ replies it (R143, R670); TIER_PROMOTE brings
its objects into tier 1 and pins them where asked, or ends pins (R144, R131); TIER_EVICT lets objects without pins leave tier 1, and replies
OK once every eviction is committed, at once where there is none (R138, R144);
TIER_POLICY_SET writes the policy register (R148); TILE_DIR_QUERY replies the directory entries (R145). -/
def Obligations.MemoryCommandsHaveTheirEffect : Prop :=
  let reach (c : Cmd) (u : State) : Prop :=
    let a := fieldAt c.input 0 8
    let n := fieldAt c.input 8 4
    u.owns c.hdr.partition a (max n 1) = true ∧ u.guarded c.hdr.partition a n (u.hotAreas c.hdr.partition) = false ∧
      u.cxlMissing a n = none
  let unpinned (c : Cmd) (u : State) : Prop :=
    let p := c.hdr.partition
    shapedAs c 16 [(12, 4)] = true ∧ 0 < fieldAt c.input 8 4 ∧ fieldAt c.input 8 4 ≤ 65536 ∧
      (namedIds c).all (fun id => (u.obj? p id).any (fun o => decide (u.pinCount p o = 0))) = true ∧
      (evictAll p (namedIds c) u).1 = stOk
  HostEffect .memWrite 0x0800
    (fun c u => 16 ≤ c.input.length ∧ (c.input.drop 16).length = fieldAt c.input 8 4 ∧ zerosAt c.input 12 4 = true ∧ reach c u ∧
      u.partialUe (fieldAt c.input 0 8) (fieldAt c.input 8 4) = false)
    (fun c u => (u.store (fieldAt c.input 0 8) (c.input.drop 16)).refuse c stOk) ∧
  HostEffect .memRead 0x0801
    (fun c u => shapedAs c 16 [(12, 4)] = true ∧ (c.replyRef = none → fieldAt c.input 8 4 ≤ 1048576) ∧ reach c u ∧
      u.isUe (fieldAt c.input 0 8) (fieldAt c.input 8 4) = false)
    (fun c u => (u.readCe (fieldAt c.input 0 8) (fieldAt c.input 8 4)).replyData c stOk []
      (u.bytes (fieldAt c.input 0 8) (fieldAt c.input 8 4))) ∧
  HostEffect .tierPromote 0x0802
    (fun c u =>
      let fl := fieldAt c.input 12 1
      let p := c.hdr.partition
      shapedAs c 16 [(13, 3)] = true ∧ fl < 8 ∧ 0 < fieldAt c.input 8 4 ∧ fieldAt c.input 8 4 ≤ 65536 ∧
        (namedIds c).all (fun id => (u.obj? p id).isSome) = true ∧ fl.testBit 1 = false ∧
        (namedIds c).all (fun id => !u.pinFull p id) = true ∧ u.promoteFits p (fl.testBit 2) (namedIds c) = true)
    (fun c u =>
      let fl := fieldAt c.input 12 1
      let r := promoteAll c.hdr.partition (fl.testBit 0) (fl.testBit 2) (namedIds c) u
      (r.2.refuse c r.1).markKvLost) ∧
  HostEffect .tierPromote 0x0802
    (fun c u =>
      let fl := fieldAt c.input 12 1
      shapedAs c 16 [(13, 3)] = true ∧ fl < 8 ∧ 0 < fieldAt c.input 8 4 ∧ fieldAt c.input 8 4 ≤ 65536 ∧
        (namedIds c).all (fun id => (u.obj? c.hdr.partition id).isSome) = true ∧ fl.testBit 1 = true)
    (fun c u => ((namedIds c).foldl (fun s id => s.setObj c.hdr.partition id (fun o =>
      if 0 < o.holds then { o with pins := o.pins - 1, holds := o.holds - 1 } else o)) u).refuse c stOk |>.markKvLost) ∧
  HostEffect .tierEvict 0x0803
    (fun c u => unpinned c u ∧ (evictAll c.hdr.partition (namedIds c) u).2.evicting c = true)
    (fun c u => (evictAll c.hdr.partition (namedIds c) u).2.markKvLost) ∧
  HostEffect .tierEvict 0x0803
    (fun c u => unpinned c u ∧ (evictAll c.hdr.partition (namedIds c) u).2.evicting c = false)
    (fun c u => ((evictAll c.hdr.partition (namedIds c) u).2.refuse c stOk).markKvLost) ∧
  HostEffect .tierPolicySet 0x0804
    (fun c _ =>
      let v := BitVec.ofNat 64 (fieldAt c.input 0 8)
      c.input.length = 8 ∧ v &&& ~~~ (fieldMask 47 16 ||| fieldMask 5 0) = 0 ∧
        v.toNat / 2 ^ 16 % 256 < v.toNat / 2 ^ 24 % 256)
    (fun c u => (u.setRaw (TIER_POLICY c.hdr.partition) (BitVec.ofNat 64 (fieldAt c.input 0 8))).refuse c stOk) ∧
  HostEffect .tileDirQuery 0x0805
    (fun c _ => shapedAs c 16 [(12, 4)] = true ∧ 0 < fieldAt c.input 8 4 ∧ fieldAt c.input 8 4 ≤ 4096)
    (fun c u => u.reply c stOk [] ((namedIds c).flatMap (fun id =>
      match u.obj? c.hdr.partition id with
      | some o => o.bytes (u.pinCount c.hdr.partition o)
      | none => padTo 32 (toLE 8 (2 ^ 64 - 1)))))

/-- Models. MODEL_LOAD of a package that passes its checks places its kernel and its tiles and fills a load slot (R115, R116);
MODEL_UNLOAD frees a version that nothing uses (R147); VARIANT_SET stores a variant's vectors, VARIANT_CLEAR drops an unbound one
(R353, R355); VERSION_TURNOVER waits for the step boundary (R357), and TURNOVER_COMPLETE replies when no sequence is left on the old
version (R359). -/
def Obligations.ModelCommandsHaveTheirEffect : Prop :=
  (∀ v k s2, HostEffect .modelLoad 0x0900
    (fun c u =>
      let f := fieldAt c.input
      let p := c.hdr.partition
      let pk := c.input.drop 24
      let m : Model := { parseModel pk with part := p, id := f 0 2, version := f 2 2 }
      let klen := fieldAt pk 84 4 + 8 * m.entries.length
      f 8 8 = 0 ∧ c.input.length = 24 + f 16 8 ∧ zerosAt c.input 5 3 = true ∧ f 4 1 ≤ 2 ∧ f 2 2 ≠ 0xFFFF ∧
        u.model? p (f 0 2) (f 2 2) = none ∧ packageOk pk m = true ∧
        (m.fwd ++ m.bwd).all (fun g => decide (m.groupBytes g ≤ u.tier0Share p)) = true ∧
        u.badContainer p m pk (f 4 1) = none ∧ u.freeModelSlot = some v ∧
        u.alloc1 p (roundUp klen 4096) 4096 = some k ∧
        ((u.hold k (roundUp klen 4096)).store k (slice pk (fieldAt pk 88 8) (fieldAt pk 84 4) ++
          slice pk (fieldAt pk 96 8) (8 * m.entries.length))).placeGroups p m pk (f 4 1) = some s2)
    (fun c _ =>
      let f := fieldAt c.input
      let p := c.hdr.partition
      let m : Model := { parseModel (c.input.drop 24) with
        part := p, id := f 0 2, version := f 2 2, slot := v, kernel := k
        current := !s2.models.any (fun x => x.part == p && x.id == f 0 2 && x.current) }
      (({ s2 with models := s2.models ++ [m] } : State).setGeom m).refuse c stOk)) ∧
  (∀ m, HostEffect .modelUnload 0x0901
    (fun c u => shapedAs c 8 [(4, 4)] = true ∧
      u.model? c.hdr.partition (fieldAt c.input 0 2) (fieldAt c.input 2 2) = some m ∧ u.versionBusy c m = false ∧ u.prefixes = [])
    (fun c u => (u.freeModel m).refuse c stOk)) ∧
  (∀ a, HostEffect .variantSet 0x0902
    (fun c u =>
      let f := fieldAt c.input
      let p := c.hdr.partition
      let n := 2 * f 6 2 * f 4 2
      c.input.length = 16 + n ∧ f 0 2 < 4096 ∧ 0 < f 4 2 ∧ 64 ≤ f 6 2 ∧ f 6 2 ≤ 16384 ∧ f 6 2 % 64 = 0 ∧
        zerosAt c.input 8 8 = true ∧ u.variants.find? (fun v => v.num == f 0 2) = none ∧ u.variantBound p (f 0 2) = false ∧
        u.placeArea (HDS_VARIANT_AREA p) n 64 (((u.variants.filter (fun v => v.num != f 0 2)).filter (fun v =>
          v.part == p) ++ u.variantsHeld p).map (fun v => (v.addr, v.len))) = some a)
    (fun c u =>
      let f := fieldAt c.input
      let x : Variant := ⟨f 0 2, c.hdr.partition, f 2 2, f 4 2, f 6 2, a, 2 * f 6 2 * f 4 2⟩
      (({ u with variants := u.variants.filter (fun v => v.num != f 0 2) ++ [x] } : State).store a
        (c.input.drop 16)).refuse c stOk)) ∧
  (∀ v, HostEffect .variantClear 0x0903
    (fun c u => shapedAs c 8 [(2, 6)] = true ∧ u.variants.find? (fun v => v.num == fieldAt c.input 0 2) = some v ∧
      v.part = c.hdr.partition ∧ u.variantBound v.part (fieldAt c.input 0 2) = false)
    (fun c u => ({ u with variants := u.variants.filter (fun v => v.num != fieldAt c.input 0 2) } : State).refuse c stOk)) ∧
  HostEffect .versionTurnover 0x0904
    (fun c u =>
      let f := fieldAt c.input
      let p := c.hdr.partition
      shapedAs c 8 [(6, 2)] = true ∧ u.turning c = false ∧
        (u.model? p (f 0 2) (f 2 2)).isSome = true ∧ f 2 2 ≠ f 4 2 ∧ (u.model? p (f 0 2) (f 4 2)).isSome = true)
    (fun c u =>
      let f := fieldAt c.input
      { u with turns := u.turns ++ [⟨c.hdr.partition, f 0 2, f 2 2, f 4 2, c.id, none⟩] }) ∧
  (∀ p id x, UnitEffect (fun t => .turnoverComplete t p id)
    (fun b => b.turns.find? (fun t => t.part == p && t.model == id && t.stamp.isSome) = some x ∧
      b.seqs.all (fun q => !(q.part == p && q.model == id && q.version == x.old && q.ending.isNone)) = true)
    (fun b => ({ b with turns := b.turns.filter (fun y => y.cmd != x.cmd) } : State).endWith x.cmd stOk))

/-- Learning. LEARN_STEP and OPTIMIZER_STEP of a model with state tiles form their run (R312, R313); GRAD_ALLREDUCE of a memory
range starts its collective with the first chunk (R561); ALLREDUCE_HOP takes a chunk that has come, sends the next and ends the
collective after the last (R563). -/
def Obligations.LearningCommandsHaveTheirEffect : Prop :=
  (∀ m v qs, HostEffect .learnStep 0x0905
    (fun c u =>
      let f := fieldAt c.input
      16 ≤ c.input.length ∧ 0 < f 4 2 ∧ f 4 2 ≤ 4096 ∧ 0 < f 8 4 ∧ f 8 4 ≤ 65536 ∧ f 6 1 < 2 ∧ f 7 1 = 0 ∧ f 12 4 = 0 ∧
        learnSeqs (f 4 2) (c.input.drop 16) = some qs ∧ u.modelFor c (f 0 2) (f 2 2) = some (m, v) ∧
        sumNat (qs.map (fun q => q.1.length)) = f 8 4 ∧ qs.all (fun q => q.1.all (u.wordOk v)) = true ∧
        qs.all (fun q => q.2.1.all (fun t => t == 0xFFFF_FFFF || decide (t < v.entries))) = true ∧ m.bwd ≠ [] ∧
        u.hasStateTiles m = true ∧ u.canRun c.hdr.partition c.ctx m = true)
    (fun c u => u.addRun 3 c m (fieldAt c.input 8 4) m.masters.length)) ∧
  (∀ m, HostEffect .optimizerStep 0x0906
    (fun c u =>
      let f := fieldAt c.input
      let p := c.hdr.partition
      c.input.length = 40 ∧ f 8 4 ≠ 0 ∧ f 4 1 < 2 ∧ f 5 1 < 2 ∧ f 6 2 = 0 ∧
        u.model? p (f 0 2) (bindVersion c (f 0 2) (f 2 2)) = some m ∧ u.hasStateTiles m = true ∧ u.canRun p c.ctx m = true ∧
        u.versionUsed p m.id m.version = false)
    (fun c u => u.addRun 4 c m 0 0)) ∧
  HostEffect .gradAllreduce 0x0907
    (fun c u =>
      let f := fieldAt c.input
      let p := c.hdr.partition
      shapedAs c 32 [(3, 1)] = true ∧ f 2 1 = 0 ∧ f 0 1 ≤ 1 ∧ (f 1 1 = 4 ∨ f 1 1 = 7) ∧ 2 ≤ f 4 2 ∧ f 4 2 ≤ 4096 ∧
        f 6 2 < f 4 2 ∧ (∃ a, u.qp? (f 8 4) = some a ∧ a.partition = p) ∧ (∃ a, u.qp? (f 12 4) = some a ∧ a.partition = p) ∧
        (f 8 4 = f 12 4 → f 4 2 = 2) ∧ f 24 8 % 256 = 0 ∧ u.owns p (f 16 8) (max (f 24 8) 1) = true ∧
        u.hitsDir p (f 16 8) (f 24 8) = false ∧
        4096 + 2 * roundUp (ceilDiv (f 24 8) (f 4 2)) 256 ≤ (u.area (NET_COLL_AREA p)).2 ∧ u.qpLive (f 8 4) = true ∧
        u.qpLive (f 12 4) = true)
    (fun c u =>
      let f := fieldAt c.input
      let k : Coll :=
        { cmd := c.id, part := c.hdr.partition, op := f 0 1, fmt := f 1 1, size := f 4 2, rank := f 6 2, left := f 8 4,
          right := f 12 4, addr := f 16 8, tiles := [], len := f 24 8, chunk := roundUp (ceilDiv (f 24 8) (f 4 2)) 256 }
      ({ u with colls := u.colls ++ [k] } : State).collSend c.id 2) ∧
  (∀ id k, UnitEffect (fun t => .allreduceHop t id)
    (fun b => b.colls.find? (fun c => c.cmd == id) = some k ∧ k.recv < k.hops ∧ k.recv < b.num (b.collArea k.part) 8)
    (fun b => ((b.collTake k).collSend id 2).collEnd id))


/-- Partitions. REQUEST_CONFIGURING, REQUEST_UP (context 0 resident and empty, resident contexts whose shares meet its own
suspended, a new key pair; no effect where more than eight would be suspended, log entry 141) and REQUEST_DOWN (no queue pair bound,
else PRT_CTRL says so; no resource, no image, no context left) move the state of R464; APPLY of an assignment that passes Table 12-3
makes it current (R462, R467), but for a partition that is DOWN (log entry 140), and one that fails check `e` reports it and changes
no assignment; context teardowns of the partition end first (log entry 139). PARTITION_TEARDOWN tears every context down, ends its commands with PARTITION_DOWN, frees its objects and destroys
its key (R464); a plane that may not write the registers of a locked partition changes nothing (R662). -/
def Obligations.PartitionRequestsHaveTheirEffect : Prop :=
  let gone (b : State) (p : Nat) : State := b.endTears p (fun _ => true)
  let ended (b : State) (p : Nat) : Bool := (gone b p).zeroFits p
  (∀ src p, UnitEffect (fun t => .requestConfiguring t src p) (fun b => b.prtOpen src p = true ∧ b.partState p = 0)
    (fun b => b.setPartState p 1)) ∧
  (∀ src p, UnitEffect (fun t => .requestUp t src p)
    (fun b => ended b p = true ∧ (gone b p).prtOpen src p = true ∧ (gone b p).partState p = 1)
    (fun b => (((gone b p).residentZero p).newKey p).setPartState p 2)) ∧
  (∀ src p, UnitEffect (fun t => .requestUp t src p) (fun b => ended b p = false) (fun b => b)) ∧
  (∀ src p, UnitEffect (fun t => .requestDown t src p)
    (fun b => b.prtOpen src p = true ∧ b.partState p = 1 ∧ b.qps.all (fun q => q.partition != p) = true)
    (fun b => ((List.range 16).foldl (fun s c => s.setCtx p c 0)
      ((b.install p {}).setPart p (fun x => { x with images := [], tears := [] }))).setPartState p 0)) ∧
  (∀ src p, UnitEffect (fun t => .requestDown t src p)
    (fun b => b.prtOpen src p = true ∧ b.partState p = 1 ∧ b.qps.any (fun q => q.partition == p) = true)
    (fun b => b.setFld (PRT_PART_CTRL p) 23 16 7)) ∧
  (∀ src p, UnitEffect (fun t => .applyRegs t src p)
    (fun b => b.prtOpen src p = true ∧ (b.partState p = 1 ∨ b.partState p = 2) ∧ b.assignErr p (b.prtAssign p) = 0)
    (fun b => (((gone (b.setFld (PRT_PART_CTRL p) 23 16 0) p).install p (b.prtAssign p)).applyShares p).recheckPlans p)) ∧
  (∀ src p, UnitEffect (fun t => .applyRegs t src p)
    (fun b => b.prtOpen src p = true ∧ b.partState p = 0 ∧ b.assignErr p (b.prtAssign p) = 0)
    (fun b => b.setFld (PRT_PART_CTRL p) 23 16 0)) ∧
  (∀ src p e, UnitEffect (fun t => .applyRegs t src p)
    (fun b => b.prtOpen src p = true ∧ b.assignErr p (b.prtAssign p) = e + 1)
    (fun b => (b.setFld (PRT_PART_CTRL p) 23 16 (e + 1)).event PRT_EVENT 4)) ∧
  (∀ src p, UnitEffect (fun t => .partitionTeardown t src p) (fun b => b.prtOpen src p = true ∧ b.partState p = 2)
    (fun b =>
      let s1 := (List.range 16).foldl (fun s c => s.tearContext p c stPartitionDown) (b.setPartState p 3)
      let s2 := (s1.runs.filter (fun j => j.part == p)).foldl (fun s j => s.endCmd j.cmd stPartitionDown) s1
      let s3 := ((s2.seqs.filter (fun q => q.part == p)).map (fun q => q.idx)).foldl (fun s i => s.endNow i stPartitionDown) s2
      let s4 := s3.endCommands ((s3.cmds.filter (fun k => k.hdr.partition == p)).map (fun k => k.id)) stPartitionDown
      let s5 := (s4.setPart p (fun x => { x with switch := none })).setRunner p (fun _ => {})
      ((((gone s5 p).freeEnded p).freeObjects p).dropKey p).setPartState p 1)) ∧
  (∀ p, UnitEffect (fun t => .requestUp t .management p) (fun b => b.sec.cfg.locked.testBit p = true) (fun b => b))

/-- Contexts. CONTEXT_SUSPEND and CONTEXT_RESUME, where Table 12-4 refuses nothing, request a switch that the next step boundary
starts (R469); at the limit of QUIESCE_US the group fetches of the outgoing Lathes are cancelled, and CONTEXT_SWITCH_COMPLETE saves
the outgoing shares, loads the incoming image and replies (R470); CONTEXT_TEARDOWN begins what Table 12-8 lists, and 1 ms later at
the latest the share is zeroed and the context has its next state (R480; log entry 139). PART_QUERY
replies the partition's assignment (R483); PLAN_ADMIT admits a plan whose WCET is within its bound (R475, R476), refuses one whose
WCET is not, and withdraws one on request. -/
def Obligations.ContextCommandsHaveTheirEffect : Prop :=
  let saved (b : State) (p : Nat) (w : Switch) : State :=
    w.out.foldl (fun s c => s.saveContext p c) ((b.settleLathes p).endTears p (fun t => !t.held))
  let switched (p : Nat) (w : Switch) (s : State) : State :=
    (((s.endTears p (fun t => t.held)).bump (PRT_CTX_CNT p) 31 0 1).event PRT_EVENT 1).endWith w.cmd stOk
  HostEffect .partQuery 0x0A00 (fun c _ => shapedAs c 8 [(0, 8)] = true)
    (fun c u =>
      let p := c.hdr.partition
      let a := (u.part p).assign
      u.reply c stOk [] (toLE 1 p ++ toLE 1 (u.partState p) ++ toLE 1 (if a.rt then 1 else 0) ++ toLE 1 (popCount 240 a.pch) ++
        toLE 2 a.base ++ toLE 1 (popCount 64 a.ways) ++ toLE 1 (popCount 48 a.lathes) ++ toLE 1 (popCount 64 a.walkers) ++
        zeros 3 ++ toLE 4 a.qpLimit ++ toLE 2 a.meterFirst ++ toLE 2 a.meterCount ++
        (List.range 4).flatMap (fun l => toLE 2 (let r := a.cxl.getD l (0, 0, 0); if r.1 == 0 then 0 else r.2.2)) ++ zeros 4 ++
        (List.range 16).flatMap (fun d => toLE 1 (u.ctxState p d)) ++ toLE 1 (u.part p).plans.length ++ zeros 15)) ∧
  HostEffect .contextSuspend 0x0A01
    (fun c u =>
      let p := c.hdr.partition
      let o := fieldAt c.input 0 1
      shapedAs c 8 [(1, 7)] = true ∧ o < 16 ∧ u.ctxState p o = 1 ∧ u.switchTooLong p = false ∧
        (u.suspended p).length + 1 ≤ 8 ∧ u.imagesFit p [o] = true ∧ u.switchBusy p = false)
    (fun c u => u.setPart c.hdr.partition (fun x => { x with
      switch := some { out := [fieldAt c.input 0 1], incoming := none, cmd := c.id } })) ∧
  HostEffect .contextResume 0x0A02
    (fun c u =>
      let p := c.hdr.partition
      let i := fieldAt c.input 0 1
      let out := bitsOf 16 (fieldAt c.input 2 2)
      shapedAs c 8 [(1, 1), (4, 4)] = true ∧ i < 16 ∧ u.ctxState p i = 2 ∧
        out.all (fun d => decide (d < 16) && u.ctxState p d == 1) = true ∧
        ((List.range 16).filter (fun d => u.ctxState p d == 1 && !out.contains d)).all (fun d =>
          !shareMeet (u.share p i) (u.share p d)) = true ∧
        u.switchTooLong p = false ∧ (u.suspended p).length + out.length ≤ 9 ∧ u.imagesFit p out = true ∧ u.switchBusy p = false)
    (fun c u => u.setPart c.hdr.partition (fun x => { x with
      switch := some { out := bitsOf 16 (fieldAt c.input 2 2), incoming := some (fieldAt c.input 0 1), cmd := c.id } })) ∧
  (∀ p w q, UnitEffect (fun t => .switchQuiesceTimeout t p)
    (fun b => (b.part p).switch = some w ∧ w.quiesce = some q ∧ q + b.fld (PRT_SWITCH_CFG p) 6 0 * 1000 ≤ b.now)
    (fun b => (w.out.flatMap (fun c => b.contextLathes p c)).foldl (fun s n =>
      (((s.lathe n).slots.filter (fun e => e.2.st == 1)).map (fun e => e.1)).foldl (fun s i => s.emptySlot n i) s) b)) ∧
  (∀ p w, UnitEffect (fun t => .contextSwitchComplete t p)
    (fun b => ((b.settleLathes p).part p).switch = some w ∧ w.quiesce.isSome = true ∧ (b.settleLathes p).quiesced p w.out = true ∧
      w.incoming = none)
    (fun b => switched p w ((saved b p w).setPart p (fun x => { x with switch := none })))) ∧
  (∀ p w i im, UnitEffect (fun t => .contextSwitchComplete t p)
    (fun b => ((b.settleLathes p).part p).switch = some w ∧ w.quiesce.isSome = true ∧ (b.settleLathes p).quiesced p w.out = true ∧
      w.incoming = some i ∧ (saved b p w).image? p i = some im ∧ (saved b p w).isUe im.addr im.bytes = false)
    (fun b => switched p w (((saved b p w).loadContext p i).setPart p (fun x => { x with switch := none })))) ∧
  (∀ src p c, UnitEffect (fun t => .contextTeardown t src p c)
    (fun b => b.prtOpen src p = true ∧ (b.ctxState p c = 1 ∨ b.ctxState p c = 2 ∨ b.ctxState p c = 3))
    (fun b =>
      let s1 := (if b.holdsShare p c then b.abortKernels p c else b).setCtx p c 4
      let s2 := if (s1.runner p).active && (s1.runner p).ctx == c then s1.setRunner p (fun _ => {}) else s1
      let s3 := ((s2.seqs.filter (fun q => q.part == p && q.ctx == c)).map (fun q => q.idx)).foldl (fun s i =>
        s.endNow i stContextTornDown) s2
      let s4 := s3.endCommands ((s3.cmds.filter (fun k => k.hdr.partition == p && k.ctx == c)).map (fun k => k.id)) stContextTornDown
      let s5 := spindleAbortStep (BitVec.ofNat 64 (2 ^ 21 + p * 2 ^ 16 + c)) s4
      let left := (if (s5.runner p).active then s5 else s5.freeEnded p).leaveSwitch p c (b.ctxState p c)
      left.1.setPart p (fun x => { x with tears := x.tears ++
        [{ ctx := c, back := left.2.1, since := left.1.now, own := b.ctxState p c != 2, held := left.2.2 }] }))) ∧
  (∀ (s : State) p t, p < 16 → s.parts.length = 16 → (s.part p).tears = [t] → (∀ q, q ≠ p → (s.part q).tears = []) → t.held = false →
    t.since + 1_000_000 ≤ s.now →
    s.tearsDue =
      let s0 := s.setPart p (fun x => { x with tears := x.tears.filter (fun y => y.ctx != t.ctx) })
      let s1 := if t.own then s0.zeroShare (s0.share p t.ctx) else s0
      let s2 := (if t.back == 2 then s1.emptyImage p t.ctx else s1.dropImage p t.ctx).setCtx p t.ctx t.back
      let s3 := (s2.bump (PRT_CTX_CNT p) 63 48 1).event PRT_EVENT 0
      s3.logFree (s3.writerOf 2) p 2) ∧
  (∀ m, HostEffect .planAdmit 0x0A03
    (fun c u =>
      let p := c.hdr.partition
      let k := parsePlan c.input
      c.input.length = 32 + 32 * fieldAt c.input 20 4 ∧ zerosAt c.input 7 1 = true ∧ fieldAt c.input 5 1 = 0 ∧
        (List.range (fieldAt c.input 20 4)).all (fun i => zerosAt c.input (44 + 32 * i) 4) = true ∧
        (u.part p).assign.rt = true ∧ u.model? p k.model k.version = some m ∧ u.planOk p k m = true)
    (fun c u =>
      let p := c.hdr.partition
      let k := parsePlan c.input
      let w := u.wcet p k
      if w ≤ k.bound then (u.putPlan p k.slot (some { k with wcet := w })).reply c stOk [] (planReply k.slot w)
      else u.reply c stPlanNotAdmitted [] (planReply k.slot w))) ∧
  HostEffect .planAdmit 0x0A03
    (fun c u =>
      c.input.length = 32 + 32 * fieldAt c.input 20 4 ∧ zerosAt c.input 7 1 = true ∧ fieldAt c.input 5 1 = 1 ∧
        (List.range (fieldAt c.input 20 4)).all (fun i => zerosAt c.input (44 + 32 * i) 4) = true ∧
        (u.part c.hdr.partition).assign.rt = true ∧ fieldAt c.input 6 1 < 8 ∧
        (u.part c.hdr.partition).plans.any (fun x => x.slot == fieldAt c.input 6 1) = true)
    (fun c u =>
      (u.putPlan c.hdr.partition (fieldAt c.input 6 1) none).reply c stOk [] (planReply (fieldAt c.input 6 1) 0))

/-- Mailboxes and the log. MB_HELLO agrees on a version and on features (R491); FW_INFO, CORE_STATUS, TRACE_SET, LOG_MARK and
ACTIVATION_CANCEL reply what Table 13-4 says, whichever of the two names of the opcode a packet is read under; FW_STAGE of an image
that follows its body stages it if it is accepted, and refuses it otherwise (R501); LOG_READ replies the visible entries (R518). -/
def Obligations.MailboxMessagesHaveTheirEffect : Prop :=
  HostEffect .mbHello 0x0B00
    (fun c u =>
      let f := fieldAt c.input
      let img := u.fw.running.getD {}
      shapedAs c 32 [(4, 4), (24, 8)] = true ∧
        max (f 0 1 * 256 + f 1 1) img.mbLo ≤ min (f 2 1 * 256 + f 3 1) img.mbHi)
    (fun c u =>
      let f := fieldAt c.input
      let img := u.fw.running.getD {}
      let v := min (f 2 1 * 256 + f 3 1) img.mbHi
      let agreed := (BitVec.ofNat 128 (f 8 16) &&& img.feats &&& 0x3FFFF#128) ||| 1#128
      (u.setQp c.hdr.qp (fun q => { q with
        feats := agreed, featsOld := q.agreed u.now, helloAt := some u.now, mbVer := v
        mbLo := f 0 1 * 256 + f 1 1, mbHi := f 2 1 * 256 + f 3 1 })).reply c stOk []
          (toLE 1 (v / 256) ++ toLE 1 v ++ zeros 6 ++ toLE 16 agreed.toNat ++ toLE 8 img.version)) ∧
  (∀ mk, mk = Instr.mbMessage ∨ mk = Instr.fwInfo → HostEffect mk 0x0B01
    (fun c u => mailboxTakes c u 1 0x100 false = true ∧ fieldAt c.input 4 4 = 0 ∧ c.input.length = 16)
    (fun c u =>
      let ver (i : Option FwImage) : List Byte := toLE 8 ((i.map (fun i => i.version)).getD 0)
      let img := u.fw.running.getD {}
      u.mbReply c (ver u.fw.running ++ ver u.fw.staged ++ ver u.lkg ++ toLE 1 u.fw.act ++ toLE 1 (if u.fw.bootLkg then 1 else 0) ++
        toLE 1 ((List.range 20).filter (fun k => (u.core k).logical != 255)).length ++
        toLE 1 ((List.range 20).filter (fun k => (u.core k).state == 4)).length ++
        toLE 1 (img.mbLo / 256) ++ toLE 1 img.mbLo ++ toLE 1 (img.mbHi / 256) ++ toLE 1 img.mbHi ++ zeros 4))) ∧
  (∀ mk i, mk = Instr.mbMessage ∨ mk = Instr.fwStage → HostEffect mk 0x0B01
    (fun c u => mailboxTakes c u 2 0x100 true = true ∧ fieldAt c.input 4 4 = 16 ∧ fieldAt c.input 16 8 = 0 ∧
      c.input.length = 32 + fieldAt c.input 24 8 ∧ parseImage (c.input.drop 32) = some i ∧
      i.journalR ≤ (u.fw.running.getD {}).journalW ∧ u.fw.act ≠ 3)
    (fun c u =>
      if (u.checkImage i).1 then
        let s1 := (u.checkImage i).2
        let s2 := { s1.fwStore 0x100_0000 (c.input.drop 32) with fw := { s1.fw with staged := some i, act := 1, hold := none } }
        s2.mbReply c (toLE 8 i.version)
      else (u.checkImage i).2.refuse c stNotPermitted)) ∧
  (∀ mk, mk = Instr.mbMessage ∨ mk = Instr.coreStatus → HostEffect mk 0x0B01
    (fun c u => mailboxTakes c u 3 0x100 false = true ∧ fieldAt c.input 4 4 = 0 ∧ c.input.length = 16)
    (fun c u => u.mbReply c ((List.range 20).flatMap (fun k => toLE 8 (u.coreWord k))))) ∧
  (∀ mk, mk = Instr.mbMessage ∨ mk = Instr.traceSet → HostEffect mk 0x0B01
    (fun c u => mailboxTakes c u 4 0x101 true = true ∧ fieldAt c.input 4 4 = 32 ∧ c.input.length = 48)
    (fun c u => ((u.setWords (WDN_TRACE_EN 0) (slice c.input 16 32)).trace 1 224).mbReply c (u.words (WDN_TRACE_EN 0)))) ∧
  (∀ mk, mk = Instr.mbMessage ∨ mk = Instr.logMark → HostEffect mk 0x0B01
    (fun c u => mailboxTakes c u 5 0x101 false = true ∧ 1 ≤ fieldAt c.input 4 4 ∧ fieldAt c.input 4 4 ≤ 40 ∧
      c.input.length = 16 + fieldAt c.input 4 4)
    (fun c u => (u.tick.log (u.writerOf 1) (Config.freeBelow u.freeCtr 6) c.hdr.partition 4
      (Config.freeBelow (u.freeCtr + 1) 65536) (c.input.drop 16)).mbReply c (toLE 8 (u.raw WDN_LOG_SEQ).toNat))) ∧
  (∀ mk, mk = Instr.mbMessage ∨ mk = Instr.activationCancel → HostEffect mk 0x0B01
    (fun c u => mailboxTakes c u 6 0x102 true = true ∧ fieldAt c.input 4 4 = 0 ∧ c.input.length = 16 ∧ u.fw.act = 2)
    (fun c u => ({ u with fw := { u.fw with act := 1, hold := none } } : State).mbReply c (toLE 1 1 ++ zeros 7))) ∧
  HostEffect .logRead 0x0D03
    (fun c _ => shapedAs c 16 [(12, 4)] = true ∧ 0 < fieldAt c.input 8 4 ∧ fieldAt c.input 8 4 ≤ 16384)
    (fun c u =>
      let first := fieldAt c.input 0 8
      let next := (u.raw WDN_LOG_SEQ).toNat
      let es := ((u.logEntries (max first (next - 262144)) next).filter (u.logVisible c.hdr.partition)).take (fieldAt c.input 8 4)
      u.replyData c stOk [] (toLE 8 (next - 262144) ++ toLE 8 next ++ toLE 4 es.length ++
        toLE 1 (if first < next - 262144 then 1 else 0) ++ zeros 11 ++ es.flatten))

/-- Firmware images. FW_ACTIVATE of an accepted staged image begins the activation in state NORMAL and defers it otherwise, and a
rejected image is discarded (R503, R504); at the end of the hold a deferred activation begins (R506); CLUSTER_RESTART restarts the
cluster whose turn it is once its work is drained or 50 ms have passed, the next cluster's turn comes when no core of it is held,
and the activation is complete after cluster 0 (R507, R509); ACTIVATION_READY_TIMEOUT, 100 ms after the restart, goes back to the
previous image (R508); FW_UPDATE_STAGE shows the result of staging (R501), and an image in no memory is a bus error of the core that
reads it (R26); LKG_FLASH_WRITE copies an image that has run for an hour and marks the copy valid if it verifies (R500). -/
def Obligations.FirmwareImagesAreActivated : Prop :=
  (∀ i, HostEffect .fwActivate 0x0B02
    (fun c u => shapedAs c 16 [(9, 7)] = true ∧ fieldAt c.input 8 1 = 0 ∧ u.admin c.hdr.partition = true ∧
      u.fw.staged = some i ∧ i.version = fieldAt c.input 0 8 ∧ u.fw.act ≠ 3)
    (fun c u =>
      let s1 := (u.checkImage i).2
      if (u.checkImage i).1 then
        if s1.fld PWR_STATE 2 0 = 0 then s1.beginActivation (some c.id)
        else (({ s1 with fw := { s1.fw with act := 2, hold := none } } : State).event WDN_EVENT 2).refuse c stDeferred
      else (s1.dropStaged 0).refuse c stNotPermitted)) ∧
  (∀ t0 i, UnitEffect .normalHoldEnd
    (fun b => b.fw.hold = some t0 ∧ b.fw.act = 2 ∧ t0 + 1_000_000_000 ≤ b.now ∧ b.fw.staged = some i)
    (fun b => if (b.checkImage i).1 then (b.checkImage i).2.beginActivation none
      else ((b.checkImage i).2.dropStaged 4).event WDN_EVENT 4)) ∧
  (∀ k a, UnitEffect (fun t => .clusterRestart t k)
    (fun b => b.fw.activation = some a ∧ a.next = some k ∧ a.pending = none ∧ b.drainOver a k = true ∧
      ((b.restartCluster k).clusterCores k).any (fun c => ((b.restartCluster k).core c).state == 2) = true)
    (fun b =>
      let s1 := b.restartCluster k
      { s1 with fw := { s1.fw with activation := some { a with pending := some (k, b.now) } } })) ∧
  (∀ k a j, UnitEffect (fun t => .clusterRestart t k)
    (fun b => b.fw.activation = some a ∧ a.next = some k ∧ a.pending = none ∧ b.drainOver a k = true ∧ b.clusterCores k = [] ∧
      ({ a with done := a.done ++ [k], pending := none, started := b.now } : Activation).next = some j)
    (fun b => { b with fw := { b.fw with
      activation := some { a with done := a.done ++ [k], pending := none, started := b.now }, drained := [j] } })) ∧
  (∀ (s : State) (a : Activation) k t j, s.fw.activation = some a → a.pending = some (k, t) →
    (s.clusterCores k).all (fun c => (s.core c).state != 2) = true →
    ({ a with done := a.done ++ [k], pending := none, started := s.now } : Activation).next = some j →
    s.clusterReady = { s with fw := { s.fw with
      activation := some { a with done := a.done ++ [k], pending := none, started := s.now }, drained := [j] } }) ∧
  (∀ (s : State) (a : Activation) k t, s.fw.activation = some a → a.pending = some (k, t) →
    (s.clusterCores k).all (fun c => (s.core c).state != 2) = true →
    ({ a with done := a.done ++ [k], pending := none, started := s.now } : Activation).next = none →
    s.clusterReady = s.completeActivation { a with done := a.done ++ [k], pending := none, started := s.now }) ∧
  (∀ k a t0, UnitEffect (fun t => .activationReadyTimeout t k)
    (fun b => b.fw.activation = some a ∧ a.pending = some (k, t0) ∧ t0 + 100_000_000 ≤ b.now)
    (fun b =>
      let s1 := ((a.done ++ [k]).foldl (fun s j => s.restartCluster j) b).dropStaged 4
      let s2 := ({ s1 with fw := { s1.fw with activation := none, drained := [] } } : State).event WDN_EVENT 4
      match a.owed.bind s2.cmd? with
      | some c => s2.refuse c stInternalError
      | none => s2)) ∧
  (∀ i t0, UnitEffect .lkgFlashWrite
    (fun b => b.fw.running = some i ∧ b.fw.runSince = some t0 ∧ t0 + 3_600_000_000_000 ≤ b.now)
    (fun b =>
      let f0 := b.fw.flash.getD 0 ({}, false)
      let f1 := b.fw.flash.getD 1 ({}, false)
      let second : Bool := f0.2 && !(b.lkg == some f1.1 && f1.2)
      let ok := (b.checkImage i).1
      let s1 := (b.checkImage i).2
      { s1 with fw := { s1.fw with flash := if second then [f0, (i, ok)] else [(i, ok), f1], runSince := none } })) ∧
  (∀ v, UnitEffect (fun t => .fwUpdateStage t v) (fun _ => v.getLsbD 63 = false)
    (fun b => b.setFld WDN_UPDATE 47 0 (v.toNat % 2 ^ 48))) ∧
  (∀ v, UnitEffect (fun t => .fwUpdateStage t v)
    (fun b =>
      let s0 := b.setFld WDN_UPDATE 47 0 (v.toNat % 2 ^ 48)
      v.getLsbD 63 = true ∧ s0.listed (v.toNat % 2 ^ 48) (s0.fld WDN_UPDATE_LEN 24 0) = true ∧ s0.isUe (v.toNat % 2 ^ 48) (s0.fld WDN_UPDATE_LEN 24 0) = false)
    (fun b =>
      let s0 := b.setFld WDN_UPDATE 47 0 (v.toNat % 2 ^ 48)
      let r := s0.stage (s0.bytes (v.toNat % 2 ^ 48) (s0.fld WDN_UPDATE_LEN 24 0))
      r.2.setFld WDN_UPDATE 61 56 (match r.1 with | .staged => 0 | .policy => 1 | .malformed => 2 | .busy => 3))) ∧
  (∀ v, UnitEffect (fun t => .fwUpdateStage t v)
    (fun b =>
      let s0 := b.setFld WDN_UPDATE 47 0 (v.toNat % 2 ^ 48)
      v.getLsbD 63 = true ∧ s0.fld WDN_UPDATE_LEN 24 0 ≠ 0 ∧
        s0.listed (v.toNat % 2 ^ 48) (s0.fld WDN_UPDATE_LEN 24 0) = false)
    (fun b =>
      let s0 := b.setFld WDN_UPDATE 47 0 (v.toNat % 2 ^ 48)
      if (s0.core (s0.writerOf 0)).state = 1 then s0.crash (s0.writerOf 0) 2 s0.now else s0))

/-- Cores and interrupts. WORK_QUEUE_TAKE gives an idle core the command that the arbiter grants (R488); a core that has not
kicked for 50 ms, or that takes an exception, crashes (R510), CORE_RESTART runs it again where an image copy verifies, and else leaves it held
(R510, R513; log entry 144), and a kick is recorded. An interrupt pulse, the end of a group's window, a claim, a completion and the
two registers that set and withdraw sources do what R522 to R527 say; one that an event has reached at the same stamp is not withdrawn
(log entry 148). -/
def Obligations.CoresAndInterruptsHaveTheirEffect : Prop :=
  (∀ core c, UnitEffect (fun t => .workQueueTake t core)
    (fun b =>
      let k := (b.core core).logical / 4
      (b.roleCores k).contains core = true ∧ b.nextWork k = some c ∧ b.takes k c.input.length = true ∧
        (c.hdr.deadline = 0 ∨ b.now < c.hdr.deadline ∨ c.hdr.opcode = 0x0101))
    (fun b => (runBody { c with phase := .started } (b.takenBy core c)).checkpointed c.id)) ∧
  (∀ core, UnitEffect (fun t => .watchdogExpiry t core)
    (fun b => (b.core core).state = 1 ∧ (b.core core).lastKick + 50_000_000 ≤ b.now)
    (fun b => b.crash core 1 ((b.core core).lastKick + 50_000_000))) ∧
  (∀ core cause, UnitEffect (fun t => .coreException t core cause) (fun b => (b.core core).state = 1)
    (fun b => b.crash core (match cause with | .busError => 2 | .illegalOrNested => 3 | .memoryError => 4) b.now)) ∧
  (∀ core, UnitEffect (fun t => .coreRestart t core) (fun b => (b.core core).state = 2 ∧ b.reloads core = true)
    (fun b =>
      let s1 := b.setCore core (fun k => { k with
        state := 1, lastKick := b.now, image := ((b.imageFor core).map (fun i => i.1.version)).getD 0 })
      let js := b.fw.journal.filter (fun j => j.core == core)
      let s2 := (s1.bump WDN_CRASH_CNT 63 32 (js.filter (fun j => !j.replied)).length).icuEvent (40 + core)
      (js.foldl State.replay s2).clusterReady)) ∧
  (∀ core, UnitEffect (fun t => .coreRestart t core) (fun b => (b.core core).state = 2 ∧ b.reloads core = false) (fun b => b)) ∧
  (∀ core, UnitEffect (fun t => .watchdogKick t core) (fun b => (b.core core).state = 1)
    (fun b => b.setCore core (fun k => { k with lastKick := b.now }))) ∧
  (∀ n, UnitEffect (fun t => .interruptEvent t n) (fun _ => True) (fun b => b.icuEvent n)) ∧
  (∀ g w, UnitEffect (fun t => .interruptGroupTimer t g)
    (fun b => b.icu.windows.find? (fun w => w.group == g) = some w ∧ w.start + w.time ≤ b.now)
    (fun b => (b.icuOpen g).icuSettle g)) ∧
  (∀ core n, UnitEffect (fun t => .interruptClaim t core)
    (fun b => rotate (b.icu.pointers core).1 (b.deliverables core true) = some n) (fun b => b.claim core n true)) ∧
  (∀ core n, UnitEffect (fun t => .interruptClaim t core)
    (fun b => b.deliverables core true = [] ∧ rotate (b.icu.pointers core).2 (b.deliverables core false) = some n)
    (fun b => b.claim core n false)) ∧
  (∀ core, UnitEffect (fun t => .interruptClaim t core)
    (fun b => b.deliverables core true = [] ∧ b.deliverables core false = [])
    (fun b => b.setRaw (ICU_CLAIM core) 1023)) ∧
  (∀ core n, UnitEffect (fun t => .interruptComplete t core n) (fun b => b.icu.service.contains (n, core) = true)
    (fun b =>
      let s1 := b.setFld (ICU_SRC n) 9 9 0
      let s2 := { s1 with icu := { s1.icu with service := s1.icu.service.filter (fun e => e.1 != n) } }
      s2.icuSettle (s2.fld (ICU_SRC n) 19 14))) ∧
  (∀ core n, UnitEffect (fun t => .interruptComplete t core n) (fun b => b.icu.service.contains (n, core) = false)
    (fun b => b.setFld ICU_ERR 0 0 1)) ∧
  (∀ i v, UnitEffect (fun t => .interruptPendSet t i v) (fun _ => True)
    (fun b => (bitsOf 64 v.toNat).foldl (fun s j => s.icuEvent (64 * i + j)) b)) ∧
  (∀ i v, UnitEffect (fun t => .interruptPendClr t i v) (fun _ => True)
    (fun b => (bitsOf 64 v.toNat).foldl (fun s j =>
      if 1023 ≤ 64 * i + j || s.icu.struck.contains (64 * i + j, s.now) then s
      else (s.setFld (ICU_SRC (64 * i + j)) 8 8 0).icuSettle (s.fld (ICU_SRC (64 * i + j)) 19 14)) b))

/-- Security. ATTEST_REPORT replies the signed report (R649) and MEASURE_LOG_READ the log (R648); OWNER_CLAIM of an UNOWNED module
with presence installs the first keys (R654); PROTECT_PROPOSE makes a proposal pending if its signature verifies (R658), and
PROTECT_COSIGN commits it if a second owner's does (R659, R660); PROPOSAL_EXPIRY withdraws one whose window is over. PRES_N_CHANGE
and SEAL_RESTORED record their samples (R655), and SEAL_BREAK records the break and zeroizes where the configuration asks for it
(R656). -/
def Obligations.SecurityCommandsHaveTheirEffect : Prop :=
  HostEffect .attestReport 0x0C00 (fun c _ => shapedAs c 40 [(33, 7)] = true ∧ fieldAt c.input 32 1 < 2)
    (fun c u =>
      let body := u.reportBody c.hdr.partition (slice c.input 0 32)
      let certs := (List.range 3).flatMap (fun i => toLE 4 (Config.certificate i).length ++ Config.certificate i)
      u.reply c stOk [] (body ++ (List.range 2420).map (Config.mldsaSignByte 0 (sha3 body)) ++
        if fieldAt c.input 32 1 = 1 then toLE 4 certs.length ++ certs else [])) ∧
  HostEffect .measureLogRead 0x0C01
    (fun c _ => shapedAs c 16 [(8, 8)] = true ∧ 0 < fieldAt c.input 4 4 ∧ fieldAt c.input 4 4 ≤ 4096)
    (fun c u =>
      let es := (u.sec.mlog.drop (fieldAt c.input 0 4)).take (fieldAt c.input 4 4)
      u.replyData c stOk [] (toLE 4 u.sec.mlog.length ++ toLE 4 (u.fld SEC_LOG_CNT 63 32) ++ toLE 4 es.length ++ zeros 4 ++
        es.flatten)) ∧
  HostEffect .ownerClaim 0x0C02
    (fun c u => shapedAs c 2664 [(2656, 8)] = true ∧ u.owned = false ∧ u.presAt c.intake = true ∧
      slice c.input 0 1312 ≠ slice c.input 1312 1312)
    (fun c u =>
      let cfg := { u.sec.cfg with
        keys := [(0, slice c.input 0 1312), (1, slice c.input 1312 1312)], mgmtKey := slice c.input 2624 32
        epoch := u.sec.cfg.epoch + 1 }
      ((((u.writeCfg cfg).tick.measure 4 5 cfg.epoch u.freeDigest).showSec).event SEC_EVENT 2).refuse c stOk) ∧
  (∀ key, HostEffect .protectPropose 0x0C03
    (fun c u =>
      let bs := slice c.input 8 (fieldAt c.input 4 4)
      u.sec.pending = none ∧ u.pendingAt c.intake = none ∧ u.owned = true ∧ u.presAt c.intake = true ∧ u.sealAt c.intake = true ∧
        zerosAt c.input 1 3 = true ∧ c.input.length = 8 + fieldAt c.input 4 4 + 2420 ∧ (parseProposal bs).ok bs u = true ∧
        u.ownerKey (fieldAt c.input 0 1) = some key)
    (fun c u =>
      let bs := slice c.input 8 (fieldAt c.input 4 4)
      if Config.mldsaVerify key (sha3 bs) (slice c.input (8 + fieldAt c.input 4 4) 2420) then
        (({ u with sec := { u.sec with pending := some ⟨fieldAt c.input 0 1, bs, c.intake⟩ } } : State).showSec).refuse c stOk
      else u.sigReject.refuse c stNotPermitted)) ∧
  (∀ key x, HostEffect .protectCosign 0x0C04
    (fun c u => shapedAs c 2460 [(1, 7)] = true ∧ u.sec.pending = some x ∧ u.now < x.t1 + 600_000_000_000 ∧ u.pendingAt c.intake = some x ∧
      u.owned = true ∧ u.presAt c.intake = true ∧ u.sealAt c.intake = true ∧ slice c.input 8 32 = sha3 x.bytes ∧
      u.ownerKey (fieldAt c.input 0 1) = some key ∧ fieldAt c.input 0 1 ≠ x.slot)
    (fun c u =>
      if Config.mldsaVerify key (sha3 x.bytes) (slice c.input 40 2420) then
        ((u.dropCmd c.id).commit (parseProposal x.bytes)).refuse c stOk
      else u.sigReject.refuse c stNotPermitted)) ∧
  (∀ x, UnitEffect .proposalExpiry (fun b => b.sec.pending = some x ∧ x.t1 + 600_000_000_000 ≤ b.now)
    (fun b => (({ b with sec := { b.sec with pending := none, lapsed := some x } } : State).showSec).event SEC_EVENT 3)) ∧
  (∀ asserted, PowerEffect (fun t => .presNChange t asserted) (fun _ => True)
    (fun b =>
      let s1 := ({ b with sec := { b.sec with pres := (b.now, asserted) :: b.sec.pres } } : State).showSec
      if b.presAt b.now = asserted then s1 else s1.event SEC_EVENT 0)) ∧
  PowerEffect .sealBreak (fun b => b.sealAt b.now = true)
    (fun b =>
      let s1 : State := { b with sec := { b.sec with
        sealOk := (b.now, false) :: b.sec.sealOk, pending := none, lapsed := none, debug := 0 } }
      let s2 := (s1.recordBreak.tick.measure 4 6 0 s1.freeDigest).showSec.event SEC_EVENT 1
      if s2.sec.cfg.zeroize then s2.rekeyParts s2.upMask else s2) ∧
  PowerEffect .sealRestored (fun b => b.sealAt b.now = false)
    (fun b => ({ b with sec := { b.sec with sealOk := (b.now, true) :: b.sec.sealOk } } : State).showSec)

/-- Packets. PACKET_DISCARD of a message without a header or with another magic counts it (R44); a reply that no request of the
module awaits is counted, one with more fragments is kept, and a search's or a fetch's last one is used (R45); FRAGMENT_RECEIVE
begins, continues and ends the assembly of a command, whose end is the taking of the command (R65, R66); an unknown opcode is
refused with UNKNOWN_OPCODE and counted (R71). -/
def Obligations.PacketsHaveTheirEffect : Prop :=
  (∀ qp bytes, UnitEffect (fun t => .packetDiscard t qp bytes)
    (fun b => b.qpLive qp = true ∧ bytes.length ≤ 1052704 ∧ (bytes.length < 32 ∨ fieldAt bytes 0 2 ≠ 0x5A46))
    (fun b => b.count qp (fun k => { k with badMagic := k.badMagic + 1 }))) ∧
  (∀ qp bytes, UnitEffect (fun t => .packetDiscard t qp bytes) (fun b => b.qpLive qp = true ∧ 1052704 < bytes.length)
    (fun b => b.nak qp .invalidRequest)) ∧
  (∀ op r q, UnitEffect (fun t => .replyPacketReceive t op r)
    (fun b => b.qp? r.qp = some q ∧ q.error = false ∧ wholeReply r = true ∧
      b.issued.find? (fun x => x.qp == r.qp && x.tag == r.tag) = none)
    (fun b => b.count r.qp (fun k => { k with unmatched := k.unmatched + 1 }))) ∧
  (∀ op r q x, UnitEffect (fun t => .replyPacketReceive t op r)
    (fun b => b.qp? r.qp = some q ∧ q.error = false ∧ wholeReply r = true ∧ hasMore r = false ∧
      b.issued.find? (fun x => x.qp == r.qp && x.tag == r.tag) = some x)
    (fun b =>
      let s1 := { b with issued := b.issued.filter (fun y => !(y.qp == x.qp && y.tag == x.tag)) }
      if x.opcode = 0x0201 then s1.shardReply x.cmd x.entry x.tag r.status.toNat (x.bytes ++ payOf r)
      else s1.fetchArrived x.cmd x.entry r.status.toNat (x.bytes ++ payOf r))) ∧
  (∀ op r q items, UnitEffect (fun t => .fragmentReceive t op r)
    (fun b => b.qp? r.qp = some q ∧ hasMore r = true ∧ requestPacket r = true ∧
      q.hears r = true ∧ (b.listen r.qp).intakeRefusal q op r = none ∧ parseItems 513 (extOf r) = some items)
    (fun b => (b.listen r.qp).setQp r.qp (fun q => { q with
      assembly := some { opcode := op, first := r, total := (totalLength items).getD 0, bytes := payOf r } }))) ∧
  (∀ op r q a, UnitEffect (fun t => .fragmentReceive t op r)
    (fun b => b.qp? r.qp = some q ∧ requestPacket r = true ∧ q.error = false ∧
      q.discard ≠ some r.tag ∧ q.assembly = some a ∧ a.first.tag = r.tag ∧ a.breaks op r = false ∧
      a.bytes.length + r.payLen ≤ a.total ∧ hasMore r = true)
    (fun b => (b.listen r.qp).setQp r.qp (fun q => { q with assembly := some { a with bytes := a.bytes ++ payOf r } }))) ∧
  (∀ op r q a, UnitEffect (fun t => .fragmentReceive t op r)
    (fun b => b.qp? r.qp = some q ∧ requestPacket r = true ∧ q.error = false ∧
      q.discard ≠ some r.tag ∧ q.assembly = some a ∧ a.first.tag = r.tag ∧ a.breaks op r = false ∧
      a.bytes.length + r.payLen = a.total ∧ hasMore r = false)
    (fun b => ((b.listen r.qp).setQp r.qp (fun q => { q with assembly := none })).take q (hdrOf a.opcode a.first)
      ((parseItems 513 (extOf a.first)).getD []) (a.bytes ++ payOf r))) ∧
  (∀ op r q, UnitEffect (fun t => .unknownOpcodeRequest t op r)
    (fun b => b.qp? r.qp = some q ∧ wholeRequest r = true ∧ q.hears r = true ∧ r.version = 0x10#8 ∧
      lengthRefusal r (itemsBefore 513 (extOf r)) = none ∧ r.flags.toNat / 16 = 0 ∧ r.status = 0 ∧ r.partition = q.partition ∧
      r.svc < 2 ∧ q.admits op = true ∧ opcodeKnown op = false)
    (fun b => ((b.listen r.qp).turnAway (hdrOf op r) stUnknownOpcode).setQp r.qp (fun q => { q with
      assembly := none, discard := none })))

/-- Waiting commands. REF_FETCH_COMPLETE adds the data of a reference to the command's input, and the last one presents it (R60 to
R62); FENCE_RELEASE starts a fenced command in its order once the earlier ones of its queue pair have replied (R78);
COMMAND_DEADLINE abandons a command that modifies nothing, whose deadline acts before anything else at its stamp (R82, R37);
EVENT_COALESCE_TIMER sends the items that a stream's window holds (R86). -/
def Obligations.WaitingCommandsGoOn : Prop :=
  (∀ id c r rest bs, UnitEffect (fun t => .refFetchComplete t id (.data bs))
    (fun b => b.cmd? id = some c ∧ c.phase = .fetching ∧ 0 < c.issued ∧ c.refs = r :: rest)
    (fun b =>
      let s1 := b.setCmd id (fun d => { d with
        input := d.input ++ padTo r.len (bs.take r.len), refs := rest, issued := d.issued - 1 })
      (if rest.isEmpty then (s1.setCmd id (fun d => { d with phase := .waiting })).present id else s1).issueReads c.hdr.qp)) ∧
  (∀ id c, UnitEffect (fun t => .refFetchComplete t id .module)
    (fun b => b.cmd? id = some c ∧ c.phase = .fetching ∧ 0 < c.issued)
    (fun b => ((b.setCmd id (fun d => { d with issued := d.issued - 1 })).quit id stRefFetchFailed).issueReads c.hdr.qp)) ∧
  (∀ id c, UnitEffect (fun t => .fenceRelease t id)
    (fun b => b.cmd? id = some c ∧ c.phase = .fenced ∧
      (b.outstanding c.hdr.qp).all (fun d => decide (c.id ≤ d.id)) = true ∧ b.mustWait c = false ∧ slowPath c.hdr.opcode = false)
    (fun b => runBody { c with phase := .started } (b.setCmd c.id (fun d => { d with phase := .started })))) ∧
  (∀ (s : State) (t : Stamp) (c : Cmd), s.acts t = true → s.turnOf t = none →
    let b := s.arrived t
    b.searches.all (fun q => q.ended.isSome || q.deadline.all (fun d => decide (b.now < d))) = true →
    b.cmds.filter (fun d => d.hdr.deadline != 0 && decide (d.hdr.deadline ≤ b.now)) = [c] → b.cmd? c.id = some c →
    slowPath c.hdr.opcode = false → replyForm c.hdr.opcode ≠ 3 → modifies c.hdr.opcode = false →
    [0x0200, 0x0202, 0x0907].contains c.hdr.opcode = false →
    exec (.commandDeadline t c.id) s = .next (s.ended (b.abandon c))) ∧
  (∀ h q, UnitEffect (fun t => .eventCoalesceTimer t (.sequence h))
    (fun b => b.seqByHandle h = some q ∧ b.streamDue q.stream = true ∧ q.ending = none)
    (fun b => (b.flushStream q.stream).1.setSeq q.idx (fun q => { q with stream := (b.flushStream q.stream).2 }))) ∧
  (∀ h x, UnitEffect (fun t => .eventCoalesceTimer t (.telemetry h))
    (fun b => b.telems.find? (fun x => x.handle == h) = some x ∧ b.streamDue x.stream = true)
    (fun b =>
      let r := b.flushStream x.stream
      { r.1 with telems := updateWhere r.1.telems (fun t => t.handle == h) (fun (t : Telem) => { t with stream := r.2 }) }))

/-- Queue telemetry. TELEMETRY_READ replies the bins and maxima of queues, and clears them where asked (R558, R559);
TELEMETRY_SUBSCRIBE opens a stream and replies its handle, or ends one (R560); QUEUE_TELEMETRY_SAMPLE samples all 72 queues at one
instant (R556); TELEMETRY_WINDOW_END holds one item for each queue of the stream (R560). -/
def Obligations.TelemetryCommandsHaveTheirEffect : Prop :=
  HostEffect .telemetryRead 0x0D00
    (fun c u => u.admin c.hdr.partition = true ∧ shapedAs c 8 [(3, 5)] = true ∧ fieldAt c.input 2 1 < 2 ∧
      0 < fieldAt c.input 1 1 ∧ fieldAt c.input 0 1 + fieldAt c.input 1 1 ≤ 72)
    (fun c u =>
      let qs := (List.range (fieldAt c.input 1 1)).map (fun i => fieldAt c.input 0 1 + i)
      let data := toLE 4 (fieldAt c.input 1 1) ++ zeros 4 ++ qs.flatMap (fun q => u.queueReport q)
      (if fieldAt c.input 2 1 = 1 ∧ c.replyRef.any (fun r => decide (r.len < data.length)) = false
        then qs.foldl (fun s q => s.clearQueue q) u else u).replyData c stOk [] data) ∧
  HostEffect .telemetrySubscribe 0x0D02
    (fun c u => u.admin c.hdr.partition = true ∧ shapedAs c 12 [(7, 1)] = true ∧ fieldAt c.input 6 1 = 0 ∧
      10 ≤ fieldAt c.input 0 4 ∧ fieldAt c.input 0 4 ≤ 1_000_000 ∧ 0 < fieldAt c.input 5 1 ∧
      fieldAt c.input 4 1 + fieldAt c.input 5 1 ≤ 72 ∧ u.telems.length < 8)
    (fun c u =>
      let us := fieldAt c.input 0 4
      let n := fieldAt c.input 5 1
      let x : Telem :=
        { handle := u.telemSeq + 1, cmd := c.id, stream := { hdr := c.hdr, kind := 2 }, period := us * 1000
          first := fieldAt c.input 4 1, count := n, start := u.now / (us * 1000) * (us * 1000)
          acc := List.replicate n (0, 0, 0, 0) }
      ({ u with telems := u.telems ++ [x], telemSeq := u.telemSeq + 1 } : State).sendReply c.hdr stOk []
        (toLE 4 (u.telemSeq + 1) ++ zeros 4)) ∧
  HostEffect .telemetrySubscribe 0x0D02
    (fun c u => u.admin c.hdr.partition = true ∧ shapedAs c 12 [(7, 1)] = true ∧ fieldAt c.input 6 1 = 1 ∧
      u.telems.any (fun x => x.handle == fieldAt c.input 8 4) = true)
    (fun c u => (u.endTelem (fieldAt c.input 8 4) stOk).refuse c stOk) ∧
  UnitEffect .queueTelemetrySample
    (fun b => b.bit QTL_CTRL 0 = true ∧ ∀ x ∈ b.telems, b.now < x.start + x.period)
    (fun b =>
      let s1 := ((List.range 72).map (fun q => b.queueSample q)).zipIdx.foldl (fun s v => s.sampleQueue v.2 v.1) b
      { s1 with freeCtr := s1.freeCtr + 144 }) ∧
  (∀ h x, UnitEffect (fun t => .telemetryWindowEnd t h)
    (fun b => b.telems.find? (fun x => x.handle == h) = some x ∧ x.start + x.period ≤ b.now)
    (fun b =>
      let items := x.acc.zipIdx.map (fun (a : (Nat × Nat × Nat × Nat) × Nat) =>
        toLE 8 x.start ++ toLE 2 (x.first + a.2) ++ zeros 2 ++ toLE 4 a.1.1 ++ toLE 4 a.1.2.1 ++
          toLE 4 (if a.1.2.2.2 = 0 then Config.freeBelow (b.freeCtr + a.2) (2 ^ 32) else a.1.2.2.1 / a.1.2.2.2))
      let r := items.foldl (fun (y : State × Stream) i => y.1.holdItem y.2 (i, [])) (b, x.stream)
      { r.1 with
        telems := updateWhere r.1.telems (fun t => t.handle == h) (fun _ =>
          { x with stream := r.2, start := x.start + x.period, acc := List.replicate x.count (0, 0, 0, 0) })
        freeCtr := r.1.freeCtr + x.count }))

/-- The transport. RDMA writes and reads that the key and the partition open are done and answered, and others are NAKed (R540,
R567); a received packet is metered, may find its receive buffer full (how full it is, is free), and is progress (R534, R541, R554);
NAKs, timers and retransmissions follow R62, R537 and R539; a CNP and the end of a window set the rate (R542). QP_CREATE of a sound
descriptor creates its queue pair, QP_DESTROY removes one, QP_READ_BACK shows its descriptor (R538, R539). -/
def Obligations.TransportCommandsHaveTheirEffect : Prop :=
  (∀ qp rkey addr data q, UnitEffect (fun t => .rdmaWriteReceive t qp rkey addr data)
    (fun b => b.qp? qp = some q ∧ q.error = false ∧ q.opens rkey = true ∧
      (b.memOpen q.partition q.ctx addr data.length = true ∨ b.collOpen q.partition addr data.length = true))
    (fun b => (b.store addr data).emit (.ack qp))) ∧
  (∀ qp rkey addr len q, UnitEffect (fun t => .rdmaReadReceive t qp rkey addr len)
    (fun b => b.qp? qp = some q ∧ q.error = false ∧ q.opens rkey = true ∧ b.memOpen q.partition q.ctx addr len = true ∧
      b.isUe addr len = false)
    (fun b => (b.readCe addr len).emit (.readResponse qp (b.bytes addr len)))) ∧
  (∀ qp rkey addr data q, UnitEffect (fun t => .rdmaWriteReceive t qp rkey addr data)
    (fun b => b.qp? qp = some q ∧ q.error = false ∧ q.opens rkey = false) (fun b => b.nak qp .remoteAccess)) ∧
  (∀ k q, UnitEffect (fun t => .rocePacketReceive t k)
    (fun b => b.qp? k.qp = some q ∧ q.field 7 1 ≠ 1 ∧ q.error = false ∧ k.supported = true)
    (fun b =>
      if Config.freeBelow b.freeCtr (rxBuffer + 1) + k.len ≤ rxBuffer then
        let s1 := b.tick.setQp k.qp (fun q => { q with retries := 0, rnrTries := 0 })
        if k.ce then s1.sendCnp k.qp else s1
      else b.tick.bump (NET_LIST_CNT q.list) 63 32 1)) ∧
  (∀ k q, UnitEffect (fun t => .rocePacketReceive t k)
    (fun b => b.qp? k.qp = some q ∧ q.field 7 1 = 1 ∧ (b.metered (q.field 8 2) k.len k.dscp).2 = none)
    (fun b => (b.metered (q.field 8 2) k.len k.dscp).1.bump (NET_LIST_CNT q.list) 63 32 1)) ∧
  (∀ qp timer q, UnitEffect (fun t => .rnrNakReceive t qp timer)
    (fun b => b.qp? qp = some q ∧ q.error = false ∧
      (q.field 11 1 / 16 % 8 = 7 ∨ q.rnrTries < q.field 11 1 / 16 % 8))
    (fun b => b.setQp qp (fun q => { q with rnrTries := q.rnrTries + 1, rnrUntil := some (b.now + timer) }))) ∧
  (∀ qp till, UnitEffect (fun t => .rnrTimerExpiry t qp)
    (fun b => (b.qp? qp).bind (fun q => q.rnrUntil) = some till ∧ till ≤ b.now)
    (fun b => (b.setQp qp (fun q => { q with rnrUntil := none })).emit (.retransmit qp))) ∧
  (∀ qp k, UnitEffect (fun t => .roceNakReceive t qp k) (fun _ => True) (fun b => b.qpLoss qp)) ∧
  (∀ qp q, UnitEffect (fun t => .localAckTimeout t qp)
    (fun b => b.qp? qp = some q ∧ q.error = false ∧ q.retries < q.field 11 1 % 8)
    (fun b => (b.setQp qp (fun q => { q with retries := q.retries + 1 })).emit (.retransmit qp))) ∧
  (∀ qp q, UnitEffect (fun t => .localAckTimeout t qp)
    (fun b => b.qp? qp = some q ∧ q.error = false ∧ q.field 11 1 % 8 ≤ q.retries) (fun b => b.qpLoss qp)) ∧
  (∀ qp, UnitEffect (fun t => .cnpReceive t qp) (fun _ => True)
    (fun b => b.setQp qp (fun q0 =>
      let q := b.rateWindows q0
      { q with
        target := q.rate, rate := max (b.fld NET_CC_CFG 15 4 : Rat) (q.rate * (1 - q.alpha / 2))
        alpha := (1 - b.ccGain) * q.alpha + b.ccGain, incs := 0, cnpSeen := true, rateEnd := b.now }))) ∧
  (∀ qp, UnitEffect (fun t => .rateIncreaseWindow t qp) (fun _ => True) (fun b => b.setQp qp (fun q => b.rateWindows q))) ∧
  UnitEffect .qpCreate
    (fun b =>
      let f := descField b.qpDesc
      let p := f 2 1 % 16
      b.qp? (f 0 2) = none ∧ descOk b.qpDesc = true ∧ (b.partState p = 1 ∨ b.partState p = 2) ∧
        (b.qpsOf p).length < (b.part p).assign.qpLimit ∧ b.ctxState p (f 2 1 / 16) ≠ 0 ∧
        (f 7 1 = 1 → (b.part p).assign.meterFirst ≤ f 8 2 ∧
          f 8 2 < (b.part p).assign.meterFirst + (b.part p).assign.meterCount))
    (fun b =>
      let f := descField b.qpDesc
      let r := b.lineRate (f 3 1)
      let q : Qp :=
        { index := f 0 2, partition := f 2 1 % 16, ctx := f 2 1 / 16, desc := b.qpDesc, rate := r, target := r, rateEnd := b.now }
      ({ b with qps := b.qps ++ [q] } : State).qpResult 1 0) ∧
  (∀ q, UnitEffect .qpDestroy (fun b => b.qp? (descField b.qpDesc 0 2) = some q)
    (fun b =>
      let i := descField b.qpDesc 0 2
      let s1 := (b.qpLoss i).forgetQp i
      ({ s1 with
        qps := s1.qps.filter (fun q => q.index != i)
        cmds := s1.cmds.map (fun (c : Cmd) => if c.hdr.qp == i then { c with hdr := { c.hdr with qp := 0x10_0000 } } else c)
        } : State).qpResult 2 0)) ∧
  (∀ q, UnitEffect .qpReadBack (fun b => b.qp? (descField b.qpDesc 0 2) = some q)
    (fun b => (q.desc.zipIdx.foldl (fun s e => s.setRaw (NET_QP_DESC e.2) e.1) b).qpResult 3 0))

/-- Traffic. FRAME_TRANSMIT sends the frame of the class whose turn it is where no higher class may send (R550); gate lists are
checked, captured, installed and followed (R549, R551); METER_REFRESH fills the meters (R552). -/
def Obligations.TrafficCommandsHaveTheirEffect : Prop :=
  (∀ l cls f a z, UnitEffect (fun t => .frameTransmit t l cls)
    (fun b => (List.range 8).all (fun c => decide (c ≤ cls) || (b.frameReady l c).isNone) = true ∧
      b.frameReady l cls = some (f, a, z))
    (fun b =>
      let s1 := { b with
        egress := b.egress.erase f, lineAt := assocSet b.lineAt l z, served := assocSet b.served (8 * l + cls) (granted ((assoc b.served (8 * l + cls)).getD []) f.qp) }
      (s1.setQp f.qp (fun q => { q with paceAt := a + ((f.len * 8_000_000 : Rat) / q.rate).ceil.toNat })).emit
        (.frame l cls f.tos f.len))) ∧
  (∀ l, UnitEffect (fun t => .gateEntryBoundary t l) (fun b => b.gated l = true)
    (fun b => b.setGate l (fun g => { g with entry := (b.entryAt l b.now).1 }))) ∧
  (∀ l, UnitEffect (fun t => .gateConfigChange t l)
    (fun b =>
      let n := b.fld (GATE_CTRL l) 31 23
      0 < n ∧ n ≤ 256 ∧ 1000 ≤ b.fld (GATE_CYCLE l) 31 0 ∧
        sumNat (((List.range n).map (fun e => b.raw (GATE_ENTRY l e))).map (fun (e : Reg) => e.toNat % 2 ^ 32)) =
          b.fld (GATE_CYCLE l) 31 0)
    (fun b =>
      let cyc := b.fld (GATE_CYCLE l) 31 0
      let base := (b.raw (GATE_BASE l)).toNat
      (b.setGate l (fun g => { g with
        pending := some ⟨cycleFrom base cyc (b.now + 10_000), base, cyc,
          (List.range (b.fld (GATE_CTRL l) 31 23)).map (fun e => b.raw (GATE_ENTRY l e))⟩ })).setFld (GATE_CTRL l) 2 2 1)) ∧
  (∀ l c, UnitEffect (fun t => .gateConfigInstall t l) (fun b => (b.gate l).pending = some c ∧ c.time ≤ b.now)
    (fun b =>
      let s1 := c.entries.zipIdx.foldl (fun s e => s.setRaw (GATE_OPER l e.2) e.1) b
      let s2 := ((s1.setFld (GATE_CTRL l) 41 33 c.entries.length).setFld (GATE_CYCLE l) 63 32 c.cycle).setFld (GATE_CTRL l) 2 2 0
      gateEntryBoundaryStep l ((s2.setGate l (fun g => { g with base := c.base, pending := none })).event GATE_EVENT l))) ∧
  UnitEffect .meterRefresh (fun _ => True) (fun b => b.refreshMeters)

/-- Frames, links and management. A list answers queries for its own address and counts what it discards (R533); MGMT_READ and
MGMT_WRITE of an authenticated datagram of a new sequence number are carried out and answered (R535, R668, R669), and one whose
tag is wrong is counted and answered with status 3; CSR_WRITE writes a register from its plane, and a misaligned one has no effect
but, from the firmware, the bus error of the core (R14, R26, R33); BREAKOUT_CHANGE, LINK_CHANGE and MGMT_LINK_FALLBACK change
links (R530, R531, R566). -/
def Obligations.LinkCommandsHaveTheirEffect : Prop :=
  (∀ l q, UnitEffect (fun t => .arpRequest t l q) (fun b => b.linkUp l = true ∧ q.target = (b.listIp l).drop 12)
    (fun b => b.emit (.netAnswer l q.source (b.listMac l)))) ∧
  (∀ l q, UnitEffect (fun t => .neighbourSolicitation t l q) (fun b => b.linkUp l = true ∧ q.target = b.listIp l)
    (fun b => b.emit (.netAnswer l q.source (b.listMac l)))) ∧
  (∀ l q, UnitEffect (fun t => .icmpEchoRequest t l q)
    (fun b => b.linkUp l = true ∧ q.target = if q.target.length = 4 then (b.listIp l).drop 12 else b.listIp l)
    (fun b => b.emit (.netAnswer l q.source q.data))) ∧
  (∀ l n, UnitEffect (fun t => .frameDiscard t l n) (fun _ => True) (fun b => b.bump (NET_LIST_CNT l) 31 0 1)) ∧
  (∀ d, UnitEffect (fun t => .mgmtRead t d)
    (fun b => b.mgmtServed = true ∧ mgmtShape 1 d = true ∧
      b.sec.sources.all (fun x => !(x.addr == d.source && x.port == d.port) || decide (x.seq < d.seq)) = true)
    (fun b =>
      if b.mgmtAuth 1 d then
        let r := mgmtReadAll d.count d.first b
        let bytes := mgmtBytes 129 r.2.1.length d.seq d.first r.1 r.2.1
        (r.2.2.keepAnswer d (bytes ++ kmac b.sec.cfg.mgmtKey bytes)).emit
          (.mgmtAnswer d.source d.port (bytes ++ kmac b.sec.cfg.mgmtKey bytes))
      else (b.bump SEC_FAIL_CNT 63 32 1).emit (.mgmtAnswer d.source d.port (mgmtBytes 129 0 d.seq d.first 3 [] ++ zeros 16)))) ∧
  (∀ d, UnitEffect (fun t => .mgmtWrite t d)
    (fun b => b.mgmtServed = true ∧ mgmtShape 2 d = true ∧
      b.sec.sources.all (fun x => !(x.addr == d.source && x.port == d.port) || decide (x.seq < d.seq)) = true)
    (fun b =>
      if b.mgmtAuth 2 d then
        let r := mgmtWriteAll d.words d.first 0 b
        let bytes := mgmtBytes 130 r.2.1 d.seq d.first r.1 []
        (r.2.2.keepAnswer d (bytes ++ kmac b.sec.cfg.mgmtKey bytes)).emit
          (.mgmtAnswer d.source d.port (bytes ++ kmac b.sec.cfg.mgmtKey bytes))
      else (b.bump SEC_FAIL_CNT 63 32 1).emit (.mgmtAnswer d.source d.port (mgmtBytes 130 0 d.seq d.first 3 [] ++ zeros 16)))) ∧
  (∀ src a v, UnitEffect (fun t => .csrWrite t src a v) (fun _ => inCsr a = true ∧ a % 8 = 0)
    (fun b => b.writeReg src.plane a v)) ∧
  (∀ a v, UnitEffect (fun t => .csrWrite t .management a v) (fun _ => inCsr a = true ∧ a % 8 ≠ 0) (fun b => b)) ∧
  (∀ core a v, UnitEffect (fun t => .csrWrite t (.core core) a v)
    (fun b => inCsr a = true ∧ a % 8 ≠ 0 ∧ (b.core core).state = 1) (fun b => b.crash core 2 b.now)) ∧
  (∀ port v, UnitEffect (fun t => .breakoutChange t port v)
    (fun b => port < 4 ∧ v.getLsbD 1 ≠ b.bit (NET_PORT port) 1 ∧ b.qps.all (fun q => q.list / 2 != port) = true)
    (fun b => ((b.linkDown (2 * port)).linkDown (2 * port + 1)).setFld (NET_PORT port) 1 1 (if v.getLsbD 1 then 1 else 0))) ∧
  (∀ l rate, UnitEffect (fun t => .linkChange t l rate)
    (fun b => rate ≠ .down ∧ b.linkUp l = false ∧ b.rateFits l rate = true)
    (fun b => ((((b.setFld (NET_PORT (l / 2)) (linkBit l) (linkBit l) 1).setFld (NET_PORT (l / 2)) 18 16 (rateCode rate)).event
      NET_EVENT l).setReady (rdyOf l) true).discover)) ∧
  (∀ l, UnitEffect (fun t => .linkChange t l .down) (fun _ => True) (fun b => (b.linkDown l).discover)) ∧
  UnitEffect .mgmtLinkFallback
    (fun b => b.linkUp 8 = false ∧ b.bit NET_CTRL 1 = true ∧ b.mgmtDown + 2_000_000_000 ≤ b.now)
    (fun b => { b with mgmt10 := true })

/-- Time. An Announce that is the first of its time transmitter starts acquisition (R546); PTP_EXCHANGE steps device time forward,
slews it, or runs the servo (R544, R545); without Announces the unit holds the mean adjustment over (R546, R547); pulses correct it
(R547), and their loss is reported; a swap of the PTP units changes no time (R548). -/
def Obligations.TimeCommandsHaveTheirEffect : Prop :=
  (∀ l n, UnitEffect (fun t => .ptpAnnounceReceive t l n)
    (fun b => b.bit PTP_CTRL 0 = true ∧ b.bit PTP_CTRL (3 + l) = true)
    (fun b =>
      let s1 := b.setPtp (fun p => { p with announce := b.now, interval := n })
      if b.fld PTP_STATUS 35 32 = l ∧ (b.ptpState = 1 ∨ b.ptpState = 2) then s1
      else (s1.setFld PTP_STATUS 41 40 1).setFld PTP_STATUS 35 32 l)) ∧
  (∀ (o : Int), UnitEffect (fun t => .ptpExchange t o)
    (fun b => b.bit PTP_CTRL 0 = true ∧ (b.ptpState = 1 ∨ b.ptpState = 2) ∧ o < 0 ∧
      b.fld PTP_SERVO 31 20 * 1000 ≤ o.natAbs)
    (fun b =>
      let s1 := ((((b.setRaw PTP_OFFSET (BitVec.ofInt 64 o)).setPtp (fun p => { p with
        integ := 0, offs := (o :: b.ptp.offs).take 16, adjs := (b.ptp.adj :: p.adjs).take 16
        adj := b.ptp.adj })).setFld PTP_STATUS 41 40 1)).showFreq
      (({ s1 with now := s1.now + o.natAbs } : State).event PTP_EVENT 2).skipTime)) ∧
  (∀ (o : Int), UnitEffect (fun t => .ptpExchange t o)
    (fun b => b.bit PTP_CTRL 0 = true ∧ (b.ptpState = 1 ∨ b.ptpState = 2) ∧ 0 ≤ o ∧
      b.fld PTP_SERVO 31 20 * 1000 ≤ o.natAbs)
    (fun b =>
      let adj : Int := -(b.fld PTP_SERVO 9 0 * 1000 * 65536 : Int)
      ((((b.setRaw PTP_OFFSET (BitVec.ofInt 64 o)).setPtp (fun p => { p with
        integ := 0, offs := (o :: b.ptp.offs).take 16, adjs := (adj :: p.adjs).take 16, adj := adj })).setFld
          PTP_STATUS 41 40 1)).showFreq)) ∧
  (∀ (o : Int), UnitEffect (fun t => .ptpExchange t o)
    (fun b => b.bit PTP_CTRL 0 = true ∧ (b.ptpState = 1 ∨ b.ptpState = 2) ∧ o.natAbs < b.fld PTP_SERVO 31 20 * 1000)
    (fun b =>
      let offs := (o :: b.ptp.offs).take 16
      let integ := clampInt (b.ptp.integ + b.fld PTP_SERVO 47 32 * o) (-servoBound) servoBound
      let adj := clampInt (-(b.fld PTP_SERVO 63 48 * o + integ)) (-servoBound) servoBound
      let s1 := ((b.setRaw PTP_OFFSET (BitVec.ofInt 64 o)).setPtp (fun p => { p with
        integ := integ, adj := adj, offs := offs, adjs := (adj :: p.adjs).take 16 })).showFreq
      if b.ptpState = 1 ∧ offs.length = 16 ∧ offs.all (fun (x : Int) => decide (x.natAbs < b.fld PTP_SERVO 19 10)) = true then
        ((s1.setFld PTP_STATUS 41 40 2).event PTP_EVENT 0).setReady rdyTime true
      else s1)) ∧
  UnitEffect .announceTimeout
    (fun b => (b.ptpState = 1 ∨ b.ptpState = 2) ∧ b.ptp.announce + b.fld PTP_CTRL 31 24 * b.ptp.interval ≤ b.now)
    (fun b => ((((b.setPtp (fun p => { p with adj := p.mean })).showFreq.setFld PTP_STATUS 41 40 3).setFld PTP_STATUS 35 32 15).event
      PTP_EVENT 1)) ∧
  (∀ (first : Stamp), UnitEffect .ppsEdge
    (fun b => b.ptpState = 3 ∧ b.bit PTP_CTRL 2 = true ∧ b.ptp.edges[15]? = some first)
    (fun b => (b.setPtp (fun p => { p with
      adj := p.adj - ((b.now : Int) - first - 16_000_000_000) * 4096, edges := [b.now] })).showFreq)) ∧
  UnitEffect .ppsLossTimeout (fun b => b.bit PTP_CTRL 2 = true ∧ b.ptp.edges.headD 0 + 2_000_000_000 ≤ b.now)
    (fun b => (b.setPtp (fun p => { p with edges := [] })).event PTP_EVENT 3) ∧
  UnitEffect .ptpUnitSwap (fun _ => True) (fun b => (b.setPtp (fun p => { p with unit := 1 - p.unit })).event PTP_EVENT 4)

/-- Spindle distances and keys. On an engine that takes descriptors, from an issuer whose pseudo-channel it is, with stores that
hold no invalidated entry and data that reads correctly: DIST_LIST returns the distance of each code (R161), DIST_SCAN the nearest
codes of each query (R163), DECODE the tile (R165), HIST the counts and sums of the bins of a digit (R166), KEY_COMPACT the keys
of a radix value (R167), GATHER the segments or their sum or maximum (R168); QLOAD and PSET write the stores of every ready stack
(R164, R171). -/
def Obligations.SpindleReadsHaveTheirEffect : Prop :=
  let opens (b : State) (g : Nat) (d : Desc) : Prop := b.engineTakes g = true ∧ b.spnOwned g d = true
  (∀ g d, UnitEffect (fun t => .distList t g d)
    (fun b =>
      let p := b.profile (d.f 3 1)
      let n := d.f 18 1
      opens b g d ∧ d.headOk 1 0 63 0 = true ∧ p.ok = true ∧ 1 ≤ n ∧ n ≤ 8 ∧ p.slotOk (d.f 16 2) = true ∧
        zerosAt d.bytes 19 5 = true ∧ d.restZero n = true ∧ zerosAt d.bytes 56 8 = true ∧
        (d.offsets n).all (fun o => p.placed o && pchFits o p.bytes && (b.pchUe g o p.bytes).isNone) = true ∧
        b.distFault (g / 32) p [d.f 16 2] = false)
    (fun b =>
      let p := b.profile (d.f 3 1)
      let ds := (d.offsets (d.f 18 1)).map (fun o =>
        p.dist (b.codebook (g / 32) p) (b.queryAt (g / 32) (d.f 16 2) p) (b.pchBytes g o p.bytes))
      let rs := (d.offsets (d.f 18 1)).map (fun o => (o, p.bytes))
      ((b.spnReads g 1 d.part rs).countEvals g (d.f 18 1)).spnDone g d spnOk (b.spnCe g rs) (d.f 18 1) (ds.filter fNan).length
        (ds.flatMap (fun x => toLE 4 x.toNat)))) ∧
  (∀ g d, UnitEffect (fun t => .distScan t g d)
    (fun b =>
      let p := b.profile (d.f 3 1)
      let n := d.f 20 4
      let slots := (List.range (d.f 26 1)).map (fun i => d.f (28 + 2 * i) 2)
      opens b g d ∧ d.headOk 2 0 63 0 = true ∧ p.ok = true ∧ 1 ≤ n ∧ n ≤ 2 ^ 26 ∧ p.bytes ≤ d.f 24 2 ∧ d.f 24 2 % 16 = 0 ∧
        1 ≤ d.f 26 1 ∧ d.f 26 1 ≤ 16 ∧ 1 ≤ d.f 27 1 ∧ d.f 27 1 ≤ 64 ∧ slots.all p.slotOk = true ∧
        zerosAt d.bytes (28 + 2 * d.f 26 1) (32 - 2 * d.f 26 1) = true ∧
        (List.range n).all (fun k => p.placed (d.f 16 4 + k * d.f 24 2)) = true ∧
        pchFits (d.f 16 4) ((n - 1) * d.f 24 2 + p.bytes) = true ∧ b.distFault (g / 32) p slots = false ∧
        (List.range n).all (fun k => (b.pchUe g (d.f 16 4 + k * d.f 24 2) p.bytes).isNone) = true)
    (fun b =>
      let p := b.profile (d.f 3 1)
      let n := d.f 20 4
      let res := ((List.range (d.f 26 1)).map (fun i => d.f (28 + 2 * i) 2)).map (fun slot => (List.range n).map (fun k =>
        (d.f 60 4 + k, p.dist (b.codebook (g / 32) p) (b.queryAt (g / 32) slot p)
          (b.pchBytes g (d.f 16 4 + k * d.f 24 2) p.bytes))))
      let rs := (List.range n).map (fun k => (d.f 16 4 + k * d.f 24 2, p.bytes))
      ((b.spnReads g 2 d.part rs).countEvals g (n * d.f 26 1)).spnDone g d spnOk (b.spnCe g rs) (d.f 26 1 * d.f 27 1)
        (sumNat (res.map (fun xs => (xs.filter (fun e => fNan e.2)).length)))
        (res.flatMap (fun xs => (nearest (d.f 27 1) xs).flatMap (fun e => toLE 4 e.1 ++ toLE 4 e.2.toNat) ++
          (List.replicate (d.f 27 1 - (nearest (d.f 27 1) xs).length) (toLE 4 0xFFFF_FFFF ++ toLE 4 0x7FC0_0000)).flatten)))) ∧
  (∀ g d tile, UnitEffect (fun t => .decode t g d)
    (fun b => opens b g d ∧ d.headOk 4 0 0 0 = true ∧ zerosAt d.bytes 24 40 = true ∧ pchFits (d.f 16 4) (d.f 20 4) = true ∧
      b.pchUe g (d.f 16 4) (d.f 20 4) = none ∧ decodeContainer (b.pchBytes g (d.f 16 4) (d.f 20 4)) = some tile)
    (fun b =>
      let rs := [(d.f 16 4, d.f 20 4)]
      (b.spnReads g 4 d.part rs).spnDone g d spnOk (b.spnCe g rs) 0 0 tile)) ∧
  (∀ g d w, UnitEffect (fun t => .hist t g d)
    (fun b =>
      let n := d.f 20 4
      opens b g d ∧ d.headOk 5 0 0 0 = true ∧ keyBits (d.f 24 1) = some w ∧ 1 ≤ n ∧ n ≤ 2 ^ 28 ∧ d.f 25 1 < w / 8 ∧
        d.f 26 1 < 2 ∧ zerosAt d.bytes 27 1 = true ∧ d.f 28 4 < 2 ^ (8 * d.f 25 1) ∧ zerosAt d.bytes 32 32 = true ∧
        pchFits (d.f 16 4) (n * (w / 8)) = true ∧
        (List.range n).all (fun i => (b.pchUe g (d.f 16 4 + w / 8 * i) (w / 8)).isNone) = true)
    (fun b =>
      let f := d.f 24 1
      let good := ((List.range (d.f 20 4)).map (fun i => leNat (b.pchBytes g (d.f 16 4 + w / 8 * i) (w / 8)))).filter (fun x =>
        !keyNan f x)
      let bin (v : Nat) : List Nat := good.filter (fun x =>
        mapKey f x / 2 ^ (w - 8 * d.f 25 1) == d.f 28 4 && mapKey f x / 2 ^ (w - 8 * d.f 25 1 - 8) % 256 == v)
      let rs := [(d.f 16 4, d.f 20 4 * (w / 8))]
      (b.spnReads g 5 d.part rs).spnDone g d spnOk (b.spnCe g rs) 0 (d.f 20 4 - good.length)
        ((List.range 256).flatMap (fun v => toLE 4 (bin v).length) ++
          (List.range 256).flatMap (fun v => if d.f 26 1 == 1 then toLE 4 (fSum ((bin v).map (keyF32 f))).toNat else zeros 4)))) ∧
  (∀ g d w, UnitEffect (fun t => .keyCompact t g d)
    (fun b =>
      let n := d.f 20 4
      opens b g d ∧ d.headOk 6 0 0 0 = true ∧ keyBits (d.f 24 1) = some w ∧ 1 ≤ n ∧ n ≤ 2 ^ 28 ∧ d.f 25 1 < w / 8 ∧
        zerosAt d.bytes 26 2 = true ∧ d.f 28 4 < 2 ^ (8 * (d.f 25 1 + 1)) ∧ d.f 36 4 % 8 = 0 ∧ zerosAt d.bytes 44 20 = true ∧
        pchFits (d.f 16 4) (n * (w / 8)) = true ∧ pchFits (d.f 36 4) (8 * d.f 40 4) = true ∧
        (List.range n).all (fun i => (b.pchUe g (d.f 16 4 + w / 8 * i) (w / 8)).isNone) = true)
    (fun b =>
      let f := d.f 24 1
      let good := ((List.range (d.f 20 4)).map (fun i => (i, leNat (b.pchBytes g (d.f 16 4 + w / 8 * i) (w / 8))))).filter (fun e =>
        !keyNan f e.2)
      let hits := good.filter (fun e => mapKey f e.2 / 2 ^ (w - 8 * d.f 25 1 - 8) == d.f 28 4)
      let rs := [(d.f 16 4, d.f 20 4 * (w / 8))]
      let s1 := b.spnReads g 6 d.part rs
      let small : Bool := decide (hits.length < 65536)
      ((if small then s1 else s1.tick).pchStore g (d.f 36 4)
        ((hits.take (d.f 40 4)).flatMap (fun e => toLE 4 (d.f 32 4 + e.1) ++ toLE 4 e.2))).spnDone g d spnOk
          (b.spnCe g rs + if d.f 40 4 < hits.length then 2 else 0)
          (if small then hits.length else Config.freeBelow s1.freeCtr 65536) (d.f 20 4 - good.length) [])) ∧
  (∀ g d, UnitEffect (fun t => .gather t g d)
    (fun b => opens b g d ∧ d.headOk 7 0 0 0 = true ∧ d.rowOk true = true ∧
      (d.offsets (d.f 20 1)).all (fun o => pchFits o (d.f 18 2) && (b.pchUe g o (d.f 18 2)).isNone) = true)
    (fun b =>
      let segs := (d.offsets (d.f 20 1)).map (fun o => b.pchBytes g o (d.f 18 2))
      let rs := (d.offsets (d.f 20 1)).map (fun o => (o, d.f 18 2))
      (b.spnReads g 7 d.part rs).spnDone g d spnOk (b.spnCe g rs) (d.f 20 1) 0 (if d.f 17 1 = 0 then segs.flatten
        else (poolValues (d.f 17 1) (segs.map (segValues (d.f 16 1)))).flatMap (fun x => toLE 4 x.toNat)))) ∧
  (∀ g d, UnitEffect (fun t => .qload t g d)
    (fun b =>
      let n := d.f 18 1
      opens b g d ∧ d.headOk 3 0 0 (2048 * n) = true ∧ (n = 1 ∨ n = 2 ∨ n = 4) ∧ d.f 16 2 % n = 0 ∧ d.f 16 2 + n ≤ 16384 ∧
        zerosAt d.bytes 19 45 = true)
    (fun b => b.stacksReady.foldl (fun s k =>
      let spn := (List.range (d.f 18 1)).foldl (fun (x : SpnStores) i =>
        { x with query := storeSet x.query k (d.f 16 2 + i) (slice d.inl (2048 * i) 2048) }.heal k 0 (d.f 16 2 + i)) s.spn
      ({ s with spn := spn } : State).spnDone (k * 32 + g % 32) d spnOk 0 0 0 []) b)) ∧
  (∀ g d, UnitEffect (fun t => .pset t g d)
    (fun b => opens b g d ∧ d.headOk 0x0C 0 0 64 = true ∧ zerosAt d.bytes 17 47 = true)
    (fun b => b.stacksReady.foldl (fun s k =>
      ({ s with spn := { s.spn with param := storeSet s.spn.param k (d.f 16 1) (d.inl.take 32) }.heal k 2 (d.f 16 1) } : State).spnDone
        (k * 32 + g % 32) d spnOk 0 0 0 []) b))

/-- Spindle writes. SCATTER_ADD and the three row updates update the segments of their descriptor in list order and count those
that could not be read (R169, R172); SCRUB and BACKGROUND_SCRUB read bursts and report those with errors, and write back a
corrected one (R173); COPY copies burst by burst (R174); CODEBOOK_LOAD loads codebook units into every ready stack and reports the corrected bursts of its source (R181, R185);
SPINDLE_ABORT ends the descriptors that wait for its context (R184); an engine that takes none holds them; SPN_ERR_LOG_READ takes
the oldest entry (R186). A descriptor of an issuer whose pseudo-channel it is not gets status 3 (R155), a malformed one status 2,
and neither touches memory (R156). -/
def Obligations.SpindleWritesHaveTheirEffect : Prop :=
  let opens (b : State) (g : Nat) (d : Desc) : Prop := b.engineTakes g = true ∧ b.spnOwned g d = true
  let touched (d : Desc) (i : Nat) : List Nat :=
    dedupBy (fun (x : Nat) => x) [(d.f 24 8 + 64 * i) / 64, (d.f 24 8 + (64 * i + 63)) / 64]
  let row (mk : Stamp → Nat → Desc → Instr) (op kind : Nat) : Prop := ∀ g d, UnitEffect (fun t => mk t g d)
    (fun b =>
      let h := rowParams (storeGet b.spn.param (g / 32) (d.f 3 1) 32)
      opens b g d ∧ d.headOk op 0 (if kind = 0 then 0 else 255) d.rowInline = true ∧ d.rowOk false = true ∧
        ((d.offsets (d.f 20 1)).flatMap (segReads kind (d.f 16 1) (d.f 18 2) h)).all (fun r => pchFits r.1 r.2) = true ∧
        (kind ≠ 0 → b.storeBad (g / 32) 2 (d.f 3 1) 1 = false))
    (fun b =>
      let h := rowParams (storeGet b.spn.param (g / 32) (d.f 3 1) 32)
      let e := segElems (d.f 16 1) (d.f 18 2)
      let r := (d.offsets (d.f 20 1)).zipIdx.foldl (fun (acc : Nat × State) o =>
        let s1 := acc.2.spnReads g op d.part (segReads kind (d.f 16 1) (d.f 18 2) h o.1)
        match s1.updateSegment g kind (d.f 16 1) (d.f 18 2) h o.1
          ((List.range e).map (fun i => BitVec.ofNat 32 (fieldAt d.inl (4 * (o.2 * e + i)) 4))) with
        | some s2 => (acc.1, s2)
        | none => (acc.1 + 1, s1)) (0, b)
      r.2.spnDone g d (if r.1 = 0 then spnOk else spnUncorrectable)
        (b.spnCe g ((d.offsets (d.f 20 1)).flatMap (segReads kind (d.f 16 1) (d.f 18 2) h))) (d.f 20 1 - r.1) r.1 [])
  row .scatterAdd 8 0 ∧ row .rowSgd 9 1 ∧ row .rowAdagrad 10 2 ∧ row .rowAdam 11 3 ∧
  (∀ g d, UnitEffect (fun t => .scrub t g d)
    (fun b => opens b g d ∧ d.headOk 0x0D 0 0 0 = true ∧ d.f 16 4 % 64 = 0 ∧ d.f 20 4 % 64 = 0 ∧
      zerosAt d.bytes 24 40 = true ∧ pchFits (d.f 16 4) (d.f 20 4) = true)
    (fun b =>
      let rs := [(d.f 16 4, d.f 20 4)]
      ((burstsOf (d.f 16 4) (d.f 20 4)).foldl (fun s k => s.scrubBack (s.spnAddr g (k * 64) / 64))
        (b.spnReads g 0x0D d.part rs)).spnDone g d spnOk (b.spnCe g rs) 0 0 [])) ∧
  (∀ g off, UnitEffect (fun t => .backgroundScrub t g off)
    (fun b => b.bit SPN_CTRL 1 = true ∧ (b.fld (SPN_ENGINE g) 18 16 = 1 ∨ b.fld (SPN_ENGINE g) 18 16 = 2))
    (fun b => (b.spnReads g 0 0 [(off, 1)]).scrubBack (b.spnAddr g (off / 64 * 64) / 64))) ∧
  (∀ g d, UnitEffect (fun t => .spnCopy t g d)
    (fun b => opens b g d ∧ d.headOk 0x0E 0 0 0 = true ∧ d.f 16 1 = 0 ∧ d.f 17 1 = 0 ∧ zerosAt d.bytes 18 6 = true ∧
      d.f 32 4 % 64 = 0 ∧ 64 ≤ d.f 36 4 ∧ d.f 36 4 % 64 = 0 ∧ zerosAt d.bytes 40 24 = true ∧
      b.listed (d.f 24 8) (d.f 36 4) = true ∧ pchFits (d.f 32 4) (d.f 36 4) = true ∧
      (List.range (d.f 36 4 / 64)).all (fun i => (touched d i).all (fun k => !b.ue.contains k)) = true)
    (fun b =>
      let s1 := (dedupBy (fun (x : Nat) => x) ((List.range (d.f 36 4 / 64)).flatMap (touched d))).foldl (fun t k =>
        if b.ce.contains k then t.memCe (k * 64) 0x0E d.part else t) b
      ((List.range (d.f 36 4 / 64)).foldl (fun t i =>
        t.store (t.spnAddr g (d.f 32 4 + 64 * i)) ((List.range 64).map (fun j => b.byte (d.f 24 8 + (64 * i + j))))) s1).spnDone g d
          spnOk (if (List.range (d.f 36 4 / 64)).any (fun i => (touched d i).any (fun k => b.ce.contains k)) then 1 else 0) 0 0 [])) ∧
  (∀ v, UnitEffect (fun t => .codebookLoad t v)
    (fun b =>
      let n := v.toNat / 2 ^ 56 % 64 + 1
      let src := v.toNat % 2 ^ 48
      let s0 := b.setRaw SPN_CB_LOAD (v &&& (fieldMask 61 50 ||| fieldMask 47 0))
      v.getLsbD 63 = true ∧ v.toNat / 2 ^ 50 % 64 + n ≤ 64 ∧ src % 65536 = 0 ∧ s0.listed src (n * 65536) = true ∧
        (List.range n).all (fun i => !s0.isUe (src + i * 65536) 65536) = true ∧
        (burstsOf src (n * 65536)).all (fun k => !s0.ue.contains k) = true)
    (fun b =>
      let n := v.toNat / 2 ^ 56 % 64 + 1
      let first := v.toNat / 2 ^ 50 % 64
      let s0 := b.setRaw SPN_CB_LOAD (v &&& (fieldMask 61 50 ||| fieldMask 47 0))
      let s1 := ((burstsOf (v.toNat % 2 ^ 48) (n * 65536)).filter (fun k => s0.ce.contains k)).foldl (fun t k => t.memCe (k * 64) 0 0) s0
      { s1 with spn := s1.stacksReady.foldl (fun (x : SpnStores) k => (List.range n).foldl (fun (x : SpnStores) i =>
          { x with codebook := storeSet x.codebook k (first + i) (s1.bytes (v.toNat % 2 ^ 48 + i * 65536) 65536) }.heal k 1
            (first + i)) x) s1.spn })) ∧
  (∀ v, UnitEffect (fun t => .spindleAbort t v) (fun _ => True)
    (fun b =>
      let named (e : Nat × Desc) : Bool := v.getLsbD 21 && e.2.part == v.toNat / 2 ^ 16 % 16 &&
        (v.toNat % 65536 == 0xFFFF || e.2.f 12 2 == v.toNat % 65536)
      let s1 := b.setRaw SPN_ABORT (v &&& fieldMask 19 0)
      (b.spn.held.filter named).foldl (fun s e => s.spnDone e.1 e.2 spnAborted 0 0 0 [])
        { s1 with spn := { s1.spn with held := b.spn.held.filter (fun e => !named e) } })) ∧
  UnitEffect .spnErrLogRead (fun _ => True) (fun b => { b with lastRead := b.spnLog.headD 0, spnLog := b.spnLog.drop 1 }) ∧
  (∀ g d, UnitEffect (fun t => .distList t g d) (fun b => b.engineTakes g = false) (fun b => b.spnHold g d)) ∧
  (∀ g d, UnitEffect (fun t => .distList t g d) (fun b => b.engineTakes g = true ∧ b.spnOwned g d = false)
    (fun b => b.spnDone g d spnNotOwner 0 0 0 [])) ∧
  (∀ g d, UnitEffect (fun t => .spnCopy t g d) (fun b => opens b g d ∧ d.headOk 0x0E 1 0 0 = false)
    (fun b => ((b.event SPN_ERR_STATUS 3).spnLogPut 5 g (d.f 0 1) d.part 0).spnDone g d spnBadDescriptor 0 0 0 []))

/-- Lathe instructions. On a Lathe that runs a kernel, is not gated and may issue, from a Tool store way of its partition, a
well-formed instruction whose slots allow it issues with its effect and the Lathe goes on to the next word (R296, R302): NOP and
FENCE, END, RELEASE, LAYER, DRAIN, SEND_SEL, MATMUL and VECTOR. One whose slot is not ready waits, from the stamp at which it first
waited, and no other word issues before it (R295); one that needs the current layer waits while that layer has not begun. A word
whose opcode Table 7-5 does not have is illegal. -/
def Obligations.LatheInstructionsHaveTheirEffect : Prop :=
  let ready (b : State) (n : Nat) (w : BitVec 128) : Prop := (b.settleLathe n).issuing n = true ∧
    ((b.settleLathe n).lathe n).held.any (fun v => v != w) = false ∧ (b.settleLathe n).fetchOk n = true
  let issued (n : Nat) (f : State → State) (b : State) : State :=
    (f (b.settleLathe n)).setLathe n (fun x => { x with
      waiting := none, held := none, lastIssue := (b.settleLathe n).now, pc := x.pc + 16 })
  let waits (n : Nat) (w : BitVec 128) (i : Nat) (b : State) : State := (b.settleLathe n).setLathe n (fun x => { x with
    waiting := some ((x.waiting.map (fun e => e.1)).getD (b.settleLathe n).now, i), held := some w })
  (∀ n w, UnitEffect (fun t => .nop t n w) (fun b => ready b n w ∧ reservedOk w 0 = true) (issued n (fun s => s))) ∧
  (∀ n w, UnitEffect (fun t => .endKernel t n w) (fun b => ready b n w ∧ reservedOk w 0 = true)
    (issued n (fun s => if (s.lathe n).idle then s.setRunning n false else s.setLathe n (fun x => { x with ending := true })))) ∧
  (∀ n w, UnitEffect (fun t => .fenceInstr t n w)
    (fun b => ready b n w ∧ reservedOk w 0 = true ∧ ((b.settleLathe n).lathe n).idle = true) (issued n (fun s => s))) ∧
  (∀ n w i v, UnitEffect (fun t => .fenceInstr t n w)
    (fun b => ready b n w ∧ reservedOk w 0 = true ∧
      ((b.settleLathe n).lathe n).slots.find? (fun e => e.2.st == 3) = some (i, v)) (waits n w i)) ∧
  (∀ n w, UnitEffect (fun t => .release t n w)
    (fun b =>
      let k := bitsAt w 119 118
      let sl := namedSlots k (bitsAt w 117 112) (bitsAt w 111 106 + 1)
      ready b n w ∧ reservedOk w (maskOf 119 106) = true ∧ k < 3 ∧
        bitsAt w 117 112 + (bitsAt w 111 106 + 1) ≤ (if k = 2 then 16 else 32) ∧
        sl.all (fun i => (((b.settleLathe n).lathe n).slot i).st != 1 && (((b.settleLathe n).lathe n).slot i).st != 4) = true)
    (issued n (fun s => ((namedSlots (bitsAt w 119 118) (bitsAt w 117 112) (bitsAt w 111 106 + 1)).foldl (fun s i =>
      if ((s.lathe n).slot i).st = 0 then s else s.setSlot n i { (s.lathe n).slot i with release := true }) s).settleLathe n))) ∧
  (∀ n w m i, UnitEffect (fun t => .layer t n w)
    (fun b =>
      let s := b.settleLathe n
      ready b n w ∧ reservedOk w (maskOf 119 104) = true ∧
        (s.planLayers (s.runner (s.lathe n).part).plan)[(s.lathe n).layers - 1]? = some (m, i) ∧ i = bitsAt w 119 104)
    (issued n (fun s =>
      let p := (s.lathe n).part
      let j := (s.lathe n).layers - 1
      let s1 := s.setLathe n (fun x => { x with marks := max x.marks j })
      let lanes := (s1.contextLathes p (s.runner p).ctx).filter (fun y =>
        match s1.laneOf p (s.runner p).ctx y with
        | some l => l < m.lanes
        | none => false)
      if (s.runner p).active && (s.runner p).layer < j && lanes.all (fun y => j ≤ (s1.lathe y).marks) then s1.startLayer p j
      else s1))) ∧
  (∀ n w, UnitEffect (fun t => .drain t n w)
    (fun b => b.layerHeld n = false ∧ ready b n w ∧ reservedOk w (maskOf 119 96) = true ∧
      bitsAt w 119 116 + (bitsAt w 115 112 + 1) ≤ 16 ∧
      (namedSlots 2 (bitsAt w 119 116) (bitsAt w 115 112 + 1)).all (fun i =>
        (((b.settleLathe n).lathe n).slot i).st == 2 || (((b.settleLathe n).lathe n).slot i).st == 3) = true)
    (issued n (fun s => (namedSlots 2 (bitsAt w 119 116) (bitsAt w 115 112 + 1)).foldl (fun s i =>
      let v := (s.lathe n).slot i
      if v.st = 3 then s.setSlot n i { v with drain := true, tag := bitsAt w 111 96 }
      else s.setSlot n i { v with st := 4, tag := bitsAt w 111 96 }) s))) ∧
  (∀ n w, UnitEffect (fun t => .sendSel t n w)
    (fun b =>
      let cnt := tileSlots (65536 * (fmtBits (bitsAt w 94 91)).getD 32 / 8)
      let inp : Bool := bitsAt w 111 111 == 1
      b.layerHeld n = false ∧ ready b n w ∧ reservedOk w (maskOf 119 91 ||| maskOf 63 32) = true ∧
        [1, 2, 4, 7, 9].contains (bitsAt w 94 91) = true ∧ bitsAt w 119 112 + cnt ≤ (if inp then 32 else 16) ∧
        (namedSlots (if inp then 1 else 2) (bitsAt w 119 112) cnt).all (fun i => ((b.settleLathe n).lathe n).canRead i) = true)
    (issued n (fun s =>
      let bits := (fmtBits (bitsAt w 94 91)).getD 32
      let sl := namedSlots (if bitsAt w 111 111 == 1 then 1 else 2) (bitsAt w 119 112) (tileSlots (65536 * bits / 8))
      let data := (List.range (bitsAt w 110 103 + 1)).map (fun i =>
        let row := s.bytes (slotAddr n (sl.headD 0) + i * 256 * bits / 8) ((bitsAt w 102 95 + 1) * bits / 8)
        (List.range (bitsAt w 102 95 + 1)).map (fun j => elemAt bits row j))
      ({ s with selIn := s.selIn ++ [(bitsAt w 63 32, bitsAt w 94 91, data)] } : State).setLathe n (fun x => { x with
        reads := x.reads ++ sl.map (fun i => (i, arrayTime s.now + (bitsAt w 110 103 + 1) * s.cycle n)) })))) ∧
  (∀ n w, UnitEffect (fun t => .matmul t n w)
    (fun b => b.layerHeld n = false ∧ ready b n w ∧ (parseMat w).legal w ((b.settleLathe n).lathe n) = true ∧
      (parseMat w).stuck ((b.settleLathe n).lathe n) = none)
    (issued n (fun s => s.matIssue n (parseMat w)))) ∧
  (∀ n w i, UnitEffect (fun t => .matmul t n w)
    (fun b => b.layerHeld n = false ∧ ready b n w ∧ (parseMat w).legal w ((b.settleLathe n).lathe n) = true ∧
      (parseMat w).stuck ((b.settleLathe n).lathe n) = some i) (waits n w i)) ∧
  (∀ n w, UnitEffect (fun t => .vector t n w)
    (fun b => b.layerHeld n = false ∧ ready b n w ∧ (parseVec w).legal w = true ∧
      (parseVec w).stuck ((b.settleLathe n).lathe n) = none)
    (issued n (fun s => s.vecIssue n (parseVec w)))) ∧
  (∀ n v w, UnitEffect (fun t => .vector t n w)
    (fun b => b.layerHeld n = false ∧ (b.settleLathe n).issuing n = true ∧
      ((b.settleLathe n).lathe n).held = some v ∧ v ≠ w) (fun b => b.settleLathe n)) ∧
  (∀ n w, UnitEffect (fun t => .matmul t n w) (fun b => b.layerHeld n = true ∧ b.issuing n = true)
    (fun b => b.setLathe n (fun x => { x with held := some (x.held.getD w) }))) ∧
  (∀ n w, UnitEffect (fun t => .illegalInstruction t n w)
    (fun b => ready b n w ∧ [0, 1, 2, 3, 4, 5, 6, 0x10, 0x20].contains (bitsAt w 127 120) = false)
    (fun b => (b.settleLathe n).illegal n))

/-- Lathes otherwise. KERNEL_START starts the kernel of the next layer on an idle Lathe of the plan (R295); SLOT_WRITE_COMPLETE and
DRAIN_COMPLETE move a slot's scoreboard (R304); LATHE_STALL logs and ends a step whose instruction waits too long (R306);
LATHE_IDLE_GATE gates an idle Lathe (R309), and WAKE_GRANT grants the next wake in rotation (R587); a buffer or processing error is
logged and the step runs again (R318); LTH_ERR_LOG_READ takes the oldest entry (R320). -/
def Obligations.LatheEventsHaveTheirEffect : Prop :=
  (∀ p n lane k m i a, UnitEffect (fun t => .kernelStart t p n)
    (fun b =>
      let s := b.settleLathe n
      let r := s.runner p
      s.laneOf p r.ctx n = some lane ∧ r.active = true ∧ (s.lathe n).running = false ∧ s.latheOwner n = some p ∧
        s.fld (LTH_ARRAY n) 18 16 = 1 ∧ s.cal.wait.contains (n / 14) = false ∧ s.awaitsSpare p r.ctx = false ∧
        nextKernel (s.planLayers r.plan) lane (s.lathe n).layers = some (k, m, i) ∧ k ≤ r.layer + 1 ∧
        (s.copyCode p k).codeAddr p r.ctx (m, i) k lane = some a ∧ ((m.laneEntries i).getD lane (0, 0)).2 ≠ 0)
    (fun b =>
      let s := b.settleLathe n
      let s1 := ((s.copyCode p k).setLathe n (fun x => { x with
        ctx := (s.runner p).ctx, part := p, pc := a, layers := k + 1, waiting := none, held := none, lastOut := [] })).setRunning n true
      if s1.bit (LTH_ARRAY n) 1 && !s1.wakes.any (fun w => w.unit == .lathe n) then
        { s1 with wakes := s1.wakes ++ [({ unit := .lathe n, since := s1.now } : WakeReq)] }
      else s1)) ∧
  (∀ n buf slot, UnitEffect (fun t => .slotWriteComplete t n buf slot)
    (fun b => ((b.lathe n).slot (slotNo buf slot)).st = 3)
    (fun b =>
      let v := (b.lathe n).slot (slotNo buf slot)
      (b.setSlot n (slotNo buf slot) (if v.drain then { v with st := 4, drain := false } else { v with st := 2 })).settleLathe n)) ∧
  (∀ n slot, UnitEffect (fun t => .drainComplete t n slot) (fun b => ((b.lathe n).slot (64 + slot)).st = 4)
    (fun b => b.emptySlot n (64 + slot))) ∧
  (∀ n t0 w i slot, UnitEffect (fun t => .latheStall t n)
    (fun b =>
      let s := b.settleLathe n
      (s.lathe n).waiting = some (t0, i) ∧ (s.lathe n).held = some w ∧ (s.lathe n).stuckOn w = some slot ∧
        (s.lathe n).running = true ∧ t0 + s.fld LTH_STALL_LIMIT 31 0 * 1000 < s.now)
    (fun b =>
      let s := b.settleLathe n
      let x := s.lathe n
      let s1 := (s.event LTH_EVENT 4).lthLogPut 5 n x.part slot ((x.pc - 0x0F00_0000_0000) / 16)
      if (s1.runner x.part).active then s1.failStep x.part stInternalError else s1.abortLathe n)) ∧
  (∀ n, UnitEffect (fun t => .latheIdleGate t n)
    (fun b => b.bit LTH_CTRL 1 = true ∧ b.fld (LTH_ARRAY n) 18 16 ≠ 0 ∧ b.fld (LTH_ARRAY n) 18 16 ≠ 2 ∧
      (b.lathe n).running = false ∧ (∀ p, b.latheOwner n = some p → (b.part p).assign.rt = false) ∧ b.bit (LTH_ARRAY n) 1 = false ∧
      (b.lathe n).lastIssue + b.fld LTH_IDLE_CFG 15 0 * 1000 ≤ b.now)
    (fun b => b.setFld (LTH_ARRAY n) 1 1 1)) ∧
  (∀ l w, UnitEffect .wakeGrant
    (fun b =>
      let ws := b.wakes.filter (fun w => b.canWake w.unit)
      rotate b.wakeLast (ws.map (fun w => b.wakePlace w.unit)) = some l ∧
        ws.find? (fun w => b.wakePlace w.unit == l) = some w)
    (fun b =>
      let s1 := { b with
        wakes := b.wakes.filter (fun x => x.unit != w.unit)
        ramps := (b.now + w.unit.ramp, w.unit.charge) :: b.ramps.filter (fun r => b.now < r.1)
        wakeGrants := if w.unit.isLathe then b.now :: b.wakeGrants.take 3 else b.wakeGrants
        wakeLast := granted b.wakeLast (b.wakePlace w.unit) }
      let s2 := s1.bump PWR_WAKE_CNT 31 0 1
      let s3 := if w.since < b.now then s2.bump PWR_WAKE_CNT 63 32 1 else s2
      match w.unit with
      | .lathe n => (s3.setFld (LTH_ARRAY n) 1 1 0).setLathe n (fun x => { x with lastIssue := b.now })
      | _ => s3)) ∧
  (∀ n buf slot word, UnitEffect (fun t => .latheBufferError t n .bufferCorrected buf slot word) (fun _ => True)
    (fun b => ((b.event LTH_EVENT 0).lthLogPut 1 n ((b.latheOwner n).getD 0) (slotNo buf slot) word).report
      ⟨4, n, 0, .corrected⟩)) ∧
  (∀ n buf slot word p, UnitEffect (fun t => .latheBufferError t n .bufferUncorrectable buf slot word)
    (fun b =>
      let s1 := ((b.event LTH_EVENT 1).lthLogPut 2 n p (slotNo buf slot) word).report ⟨4, n, 0, .uncorrectable⟩
      b.latheOwner n = some p ∧ (s1.latheOwner n).isSome = true ∧ (s1.runner p).active = true ∧
        (s1.laneOf p (s1.runner p).ctx n).isSome = true ∧ (s1.runner p).failures < 2)
    (fun b =>
      let s1 := ((b.event LTH_EVENT 1).lthLogPut 2 n p (slotNo buf slot) word).report ⟨4, n, 0, .uncorrectable⟩
      let s2 := (s1.abortKernels p (s1.runner p).ctx).setRunner p (fun r => { r with failures := r.failures + 1 })
      let s3 := (s2.runner p).counted.foldl (fun s i => s.setSeq i (fun q => { q with fallbacks := q.fallbacks - 1 })) s2
      (s3.setRunner p (fun r => { r with counted := [], fallbacks := 0 })).beginStep p)) ∧
  UnitEffect .lthErrLogRead (fun _ => True) (fun b => { b with lastRead := b.lthLog.headD 0, lthLog := b.lthLog.drop 1 })

/-- The layer schedule and the tiers. GROUP_FETCH_ISSUE issues the next group at its time, pinned and with its places reserved
(R123, R136); TILE_FILL_COMPLETE puts a tile that reads correctly into its place (R302); RUNNER_CHECK looks at the groups in
flight, and does nothing where none is (R126); TIER_POLICY_EVICT evicts above the high watermark (R137); EVICT_RETRY tries an
eviction again (R139); DIR_FLUSH writes every entry of a partition's directory to its area, an unused entry with an object ID of
all ones (R14, R103; log entry 119). -/
def Obligations.RunnerEventsHaveTheirEffect : Prop :=
  (∀ p dst i g m x s1, UnitEffect (fun t => .groupFetchIssue t p dst)
    (fun b =>
      let s := b.settleLathes p
      (s.runner p).active = true ∧ s.nextGroup p = some (i, g) ∧ g.fell = false ∧ s.groupRec g = some (m, x) ∧
        s.predict (s.runner p) g.layer ≤ s.now + x.lead ∧ s.groupIn0 p g = false ∧ s.bit TIER_CTRL 0 = true ∧
        s.placesFit p (s.runner p).ctx (s.fetchObjs g) dst = true ∧ s.pinAll p (s.fetchObjs g) = some s1)
    (fun b =>
      let s := b.settleLathes p
      (((s1.copyCode p g.layer).reservePlaces p (s.fetchObjs g) dst).setGroup p i (fun g => { g with
        issued := some s.now, dst := dst })).setRunner p (fun r => { r with lastIssue := s.now }))) ∧
  (∀ p dst i g m x, UnitEffect (fun t => .groupFetchIssue t p dst)
    (fun b =>
      let s := b.settleLathes p
      (s.runner p).active = true ∧ s.nextGroup p = some (i, g) ∧ g.fell = false ∧ s.groupRec g = some (m, x) ∧
        s.predict (s.runner p) g.layer ≤ s.now + x.lead ∧ s.groupIn0 p g = true)
    (fun b =>
      let s := b.settleLathes p
      s.setGroup p i (fun g => { g with issued := some s.now, doneAt := some s.now, over_ := true }))) ∧
  (∀ p grp tile d g m x id o bs s1, UnitEffect (fun t => .tileFillComplete t p grp tile d)
    (fun b => (b.runner p).groups[grp]? = some g ∧ g.fell = false ∧ b.groupRec g = some (m, x) ∧
      (b.fetchObjs g)[tile]? = some id ∧ g.dst[tile]? = some d ∧ (b.runner p).active = true ∧ g.issued.isSome = true ∧
      g.doneAt = none ∧ g.arrived.contains tile = false ∧ b.obj? p id = some o ∧ b.objContent p o = (some bs, s1))
    (fun b => s1.countWait p (fun s =>
      let s2 := s.fillPlace p id o.fmt d (delivered x o bs)
      (s2.setGroup p grp (fun y =>
        let since := y.issued.getD s2.now
        { y with
          arrived := tile :: y.arrived
          doneAt := if (tile :: y.arrived).length == (b.fetchObjs g).length then some s2.now else none
          first := some (y.first.getD (since + Config.freeBelow s2.freeCtr (s2.now - since + 1))) })).tick))) ∧
  (∀ p, UnitEffect (fun t => .runnerCheck t p) (fun b => (b.runner p).active = false) (fun b => b)) ∧
  (∀ p g m x m' u s1, UnitEffect (fun t => .runnerCheck t p)
    (fun b => (b.runner p).groups = [g] ∧ (b.runner p).active = true ∧ g.issued.isSome = true ∧ g.doneAt = none ∧ g.fell = false ∧
      g.shadow = false ∧ g.over_ = false ∧ b.groupRec g = some (m, x) ∧ b.underRec g = some (m', u) ∧
      (∀ e, b.projected p g m x = some e → b.predict (b.runner p) g.layer ≤ e) ∧ x.fbGen = 1 ∧
      m.groupBytes u ≤ b.freeWays p ∧ b.bit TIER_CTRL 0 = true ∧
      (((b.setGroup p 0 (fun g => { g with first := b.firstByte g })).tick).tick).pinAll p (groupObjs m u) = some s1)
    (fun _ => s1.setGroup p 0 (fun g => { g with shadow := true }))) ∧
  (∀ p, UnitEffect (fun t => .tierPolicyEvict t p)
    (fun b => b.bit (TIER_POLICY p) 5 = true ∧ b.bit TIER_CTRL 0 = true ∧ b.fld (TIER_POLICY p) 31 24 < b.occupancy p)
    (fun b => (State.policyEvict (fun id => b.keepsKv p id) p b.dir.length b).markKvLost)) ∧
  (∀ p id r, UnitEffect (fun t => .evictRetry t p id)
    (fun b => b.evictRetries.find? (fun r => r.1 == p && r.2.1 == id) = some r ∧ r.2.2 ≤ b.now)
    (fun b =>
      let e := ({ b with evictRetries := b.evictRetries.filter (fun x => !(x.1 == p && x.2.1 == id)) } : State).evictWrite p id
      let busy : State := { e.2 with evictRetries := e.2.evictRetries ++
        [(p, id, e.2.now + e.2.fld (TIER_POLICY p) 47 32 * 1000)] }
      if e.1 = stBusy then busy.markKvLost
      else if e.1 = stOk ∧ ((e.2.obj? p id).map (fun o => o.t1.isSome)).getD false = true then
        (e.2.setObj p id (fun o => { o with leaving := some (e.2.now, .policy), won := false })).markKvLost
      else e.2.markKvLost)) ∧
  UnitEffect .dirFlush (fun _ => True) (fun b => (List.range 16).foldl (fun s p =>
    (List.range ((s.dirRange p).2 / 32)).foldl (fun s i =>
      let a := (s.dirRange p).1 + i * 32
      let s1 := if s.isUe a 32 then s.event TIER_EVENT 1 else s
      match s.dir.find? (fun e => e.1 == p && e.2.slot == i) with
      | some e => s1.store a (e.2.bytes (s.pinCount p e.2))
      | none => s1.store a (toLE 8 (2 ^ 64 - 1))) s) b)


/-- CXL links. Training ends with the link up and its device's memory in use, or without (R601, R666); a link that leaves operation
opens its recovery window, and comes back in time with the same device or is lost (R602, R603); REARM trains a lost link again
(R605); an integrity failure makes the read uncorrectable and the third within a second loses the link (R604, R667); IDE_KEY_REFRESH
changes the keys (R666). -/
def Obligations.CxlCommandsHaveTheirEffect : Prop :=
  (∀ l d, UnitEffect (fun t => .cxlLinkUp t l d)
    (fun b => b.bit CXL_CTRL l = true ∧ b.ready rdyFw = true ∧ b.cxlUp l = false ∧ b.linkState l ≠ 4 ∧ d.present = true ∧
      b.widthFits l d.width = true ∧ d.secure = true)
    (fun b =>
      let s0 := b.setPort l (fun x => { x with tryAt := b.now })
      let s1 := (s0.setLink l (if d.width == 16 then 2 else 3)).setFld (CXL_LINK l) 51 40 (min 2048 d.capGib)
      let s2 := if d.width = 8 then s1.event TIER_EVENT (8 + l) else s1
      ((s2.event CXL_EVENT l).setReady (rdyCxl l) true).defaultRange l)) ∧
  (∀ l d, UnitEffect (fun t => .cxlLinkUp t l d)
    (fun b => b.bit CXL_CTRL l = true ∧ b.ready rdyFw = true ∧ b.cxlUp l = false ∧ b.linkState l ≠ 4 ∧ d.present = true ∧
      b.widthFits l d.width = true ∧ d.secure = false)
    (fun b => ((b.setPort l (fun x => { x with tryAt := b.now })).setLink l 1).event SEC_EVENT 5)) ∧
  (∀ l, UnitEffect (fun t => .cxlTrainRetry t l)
    (fun b => b.linkState l = 1 ∧ (b.port l).tryAt + 1_000_000_000 ≤ b.now)
    (fun b => b.setPort l (fun x => { x with tryAt := b.now }))) ∧
  (∀ l, UnitEffect (fun t => .cxlLinkExit t l) (fun b => b.cxlUp l = true ∧ (b.port l).window = none)
    (fun b => (b.setPort l (fun x => { x with window := some b.now })).bump (CXL_ERR_CNT l) 63 48 1)) ∧
  (∀ l w t0, UnitEffect (fun t => .cxlLinkRecover t l w .active)
    (fun b => (b.port l).window = some t0 ∧ b.now < t0 + recoveryNs ∧ b.widthFits l w = true)
    (fun b =>
      let s1 := (b.setPort l (fun x => { x with window := none })).setLink l (if w == 16 then 2 else 3)
      (if w == 8 && b.linkState l == 2 then s1.event TIER_EVENT (8 + l) else s1).event CXL_EVENT (8 + l))) ∧
  (∀ l w how t0, UnitEffect (fun t => .cxlLinkRecover t l w how)
    (fun b => (b.port l).window = some t0 ∧ (how ≠ .active ∨ t0 + recoveryNs ≤ b.now)) (fun b => b.cxlLost l)) ∧
  (∀ l t0, UnitEffect (fun t => .cxlRecoveryTimeout t l)
    (fun b => (b.port l).window = some t0 ∧ t0 + recoveryNs ≤ b.now) (fun b => b.cxlLost l)) ∧
  (∀ l, UnitEffect (fun t => .rearm t l) (fun b => b.linkState l = 4)
    (fun b => (b.scramble [(cxlBase l, 2 ^ 41)]).setLink l 1)) ∧
  (∀ l addr, UnitEffect (fun t => .ideIntegrityFailure t l addr) (fun b => b.cxlUp l = true)
    (fun b =>
      let s1 := b.dramUe (if cxlLinkOf addr = some l then addr else cxlBase l)
      let recent := (b.port l).ide.filter (fun t => b.now < t + 1_000_000_000)
      if 2 ≤ recent.length then s1.cxlLost l else s1.setPort l (fun x => { x with ide := b.now :: recent }))) ∧
  (∀ l, UnitEffect (fun t => .ideKeyRefresh t l) (fun b => b.cxlUp l = true)
    (fun b => b.setPort l (fun x => { x with keys := x.keys + 1 })))

/-- Phases of power. PWR_EN starts and ends operation, and a start that fails is locked out (R591, R593, R594, R596); undervoltage,
overvoltage and rail faults that last cause an emergency power-down with its code (R595); the standby domain's supply comes and goes
(R573); the thermal trip latch is released (R590); module resets hold the internal reset for at least 1 ms and until their cause
clears, and leave what R597 lets them leave (R575, R597). -/
def Obligations.PowerPhasesFollowTheirCommands : Prop :=
  PowerEffect .powerUp (fun b => b.pwr.phase = .standby ∧ b.pwr.locked = false)
    (fun b => b.setPwr (fun p => { p with en := true, enLow := none, locked := false, phase := .starting, since := b.now })) ∧
  PowerEffect .powerUp (fun b => b.pwr.phase = .powerDown ∧ b.pwr.locked = false)
    (fun b => b.setPwr (fun p => { p with en := true, enLow := none, locked := false, again := some b.now })) ∧
  PowerEffect .powerDown (fun b => b.pwr.phase = .running)
    (fun b =>
      let s1 := (b.setPwr (fun p => { p with en := false, enLow := some b.now, again := none })).event PWR_EVENT 6
      (if s1.fw.running.isSome then s1.logFree (s1.writerOf 0) 255 2 else s1).setPwr (fun p => { p with
        phase := .powerDown, since := (if s1.fw.running.isSome then s1.logFree (s1.writerOf 0) 255 2 else s1).now, wiped := false
        last := 1 })) ∧
  PowerEffect .startFailure (fun b => b.pwr.phase = .starting)
    (fun b => (b.emergencyOff 5).setPwr (fun p => { p with locked := true, alerts := setBit p.alerts 3 })) ∧
  (∀ mv held, PowerEffect (fun t => .inputUndervoltage t mv held)
    (fun b => mv < 36000 ∧ 20_000 ≤ held ∧ b.pwr.phase = .running)
    (fun b => b.wipe.setPwr (fun p => { p with phase := .emergencyDown, since := b.now, wiped := true, last := 2 }))) ∧
  (∀ mv held, PowerEffect (fun t => .inputUndervoltage t mv held) (fun _ => held < 20_000) (fun b => b)) ∧
  (∀ mv held, PowerEffect (fun t => .inputOvervoltage t mv held)
    (fun b => 62000 < mv ∧ 1_000 ≤ held ∧ b.pwr.phase = .running)
    (fun b => b.wipe.setPwr (fun p => { p with phase := .emergencyDown, since := b.now, wiped := true, last := 3 }))) ∧
  (∀ r held, PowerEffect (fun t => .railFault t r held) (fun b => 50_000 ≤ held ∧ b.pwr.phase = .running)
    (fun b => b.wipe.setPwr (fun p => { p with phase := .emergencyDown, since := b.now, wiped := true, last := 6 }))) ∧
  (∀ held, PowerEffect (fun t => .modRstNAssert t held) (fun b => 10_000 ≤ held ∧ b.pwr.phase = .running)
    (fun b => b.wipe.setPwr (fun p => { p with
      phase := .held, since := b.now, hold := max (b.now + 1_000_000) (b.now + held) }))) ∧
  UnitEffect .moduleReset (fun b => b.pwr.phase = .running)
    (fun b => b.wipe.setPwr (fun p => { p with phase := .held, since := b.now, hold := max (b.now + 1_000_000) b.now })) ∧
  (∀ held, PowerEffect (fun t => .refclkLoss t held) (fun b => 100_000 < held ∧ b.pwr.phase = .running)
    (fun b => b.wipe.setPwr (fun p => { p with
      phase := .held, since := b.now, hold := max (b.now + 1_000_000) (b.now + held) }))) ∧
  PowerEffect .standbyPowerOn (fun b => b.pwr.phase = .unpowered)
    (fun b => b.setPwr (fun p => { p with phase := .standby, since := b.now })) ∧
  PowerEffect .standbyPowerLoss (fun _ => True)
    (fun b => b.wipe.setPwr (fun p => { p with
      phase := .unpowered, since := b.now, again := none, wiped := true, locked := false, last := 0, tripped := false
      alerts := 0, chassis := 0 })) ∧
  (∀ t0, PowerEffect .thermTripRelease (fun b => b.pwr.enLow = some t0 ∧ t0 + 100_000_000 ≤ b.now)
    (fun b => b.setPwr (fun p => { p with tripped := false })))

/-- Power management. The mean input power of a window moves the duty one step down above the cap and up below 97 % of it (R583);
an emergency limits it, and a thermal sample limits it or trips (R589, R590); a failed phase is replaced by a spare, and one that
works again rejoins its region where that is short (R582, R609); the firmware's rail offsets are stored (R606); the chassis sets its
cap and reads the alert cause, which clears it (R577, R578). -/
def Obligations.PowerManagementHasItsEffect : Prop :=
  (∀ w, UnitEffect (fun t => .powerWindowEnd t w) (fun _ => True)
    (fun b => ((b.setFld PWR_INPUT 31 16 w).setPwr (fun p => { p with
      duty := if b.effectiveCap < w then max 1 (p.duty - 1)
        else if w * 100 < b.effectiveCap * 97 then min 16 (p.duty + 1) else p.duty })).showPower)) ∧
  (∀ mv, UnitEffect (fun t => .powerEmergency t (.inputLow mv)) (fun _ => mv < 40000)
    (fun b => ((b.setFld PWR_INPUT 63 48 mv).setPwr (fun p => { p with emerg := true })).showPower)) ∧
  (∀ r, UnitEffect (fun t => .powerEmergency t (.phases r)) (fun b => b.pwr.active r < 7)
    (fun b => (b.setPwr (fun p => { p with emerg := true })).showPower)) ∧
  UnitEffect .powerEmergencyClear (fun b => (List.range 4).all (fun r => 7 ≤ b.pwr.active r) = true)
    (fun b => (b.setPwr (fun p => { p with emerg := false })).showPower) ∧
  (∀ (temps : List Int), UnitEffect (fun t => .thermalSample t temps)
    (fun b => temps.length ≤ 15 ∧
      temps.zipIdx.all (fun x => decide (x.1 ≤ b.fld (PWR_THERM x.2) 47 40 * 8 - 40)) = true ∧
      temps.zipIdx.all (fun x => decide (x.1 < b.fld (PWR_THERM x.2) 39 32 * 8)) = true)
    (fun b => ((temps.zipIdx.foldl (fun s x => s.setFld (PWR_THERM x.2) 15 0 (ofSigned 16 x.1)) b).setPwr (fun p => { p with
      thermal := false })).showPower)) ∧
  (∀ (temps : List Int), UnitEffect (fun t => .thermalSample t temps)
    (fun b => temps.length ≤ 15 ∧
      temps.zipIdx.any (fun x => decide (b.fld (PWR_THERM x.2) 39 32 * 8 ≤ x.1)) = true)
    (fun b => ((temps.zipIdx.foldl (fun s x => s.setFld (PWR_THERM x.2) 15 0 (ofSigned 16 x.1)) b).setPwr (fun p => { p with
      tripped := true, alerts := setBit p.alerts 4 })).emergencyOff 4)) ∧
  (∀ k r i, UnitEffect (fun t => .phaseFault t k)
    (fun b =>
      let s1 := (b.setPhase k (r, 4)).report ⟨11, k, 0, .uncorrectable⟩
      b.pwr.phases.getD k (15, 0) = (r, 1) ∧ (List.range 34).find? (fun i => (s1.pwr.phases.getD i (15, 0)).2 == 2) = some i ∧
        7 ≤ (((s1.setPhase i (r, 1)).event PWR_EVENT 4).showPhases).pwr.active r)
    (fun b => (((b.setPhase k (r, 4)).report ⟨11, k, 0, .uncorrectable⟩).setPhase i (r, 1) |>.event PWR_EVENT 4).showPhases)) ∧
  (∀ k r, UnitEffect (fun t => .phaseReenable t k true)
    (fun b => b.pwr.phases.getD k (15, 0) = (r, 4) ∧ b.pwr.active r < 8)
    (fun b => (b.report ⟨11, k, 0, .retrySucceeded⟩).setPhase k (r, 1))) ∧
  (∀ r n, UnitEffect (fun t => .railOffsetWrite t r n) (fun _ => r < 4 ∧ n ≤ 8) (fun b => b.setFld (PWR_RAIL r) 15 12 n)) ∧
  (∀ w, PowerEffect (fun t => .i3cCapWWrite t w) (fun b => b.pwr.phase ≠ .unpowered)
    (fun b => (b.setPwr (fun p => { p with chassis := w })).showCap)) ∧
  PowerEffect .i3cAlertCauseRead (fun b => b.pwr.phase ≠ .unpowered)
    (fun b => ({ b with lastRead := BitVec.ofNat 64 ((b.i3cByte 0x12).getD 0).toNat } : State).setPwr (fun p => { p with alerts := 0 }))

/-- Faults and ageing. FAULT_REPORT counts corrected events in their window, opens a fault window at an uncorrectable one, and
makes the resource permanent at the second (R607 to R611); spare entry tests, firmware copies and pseudo-channel migrations end as
R616 to R620 say; rolling tests swap units out and take them back (R619, R622); the Calipers' readings of a period are taken, with
the margin plan that has come due (R624 to R626); BIN_CHANGE changes a region's clock when it is idle (R628); HOURS_UPDATE counts
an hour (R629); ROT_SELF_TEST fails the boot before firmware runs (R621); BOOT_FAULT_LOG_READ takes the oldest entry (R640). -/
def Obligations.FaultCommandsHaveTheirEffect : Prop :=
  let named (f : FaultReport) (b : State) : Prop :=
    0 < f.kind ∧ f.kind ≤ 18 ∧ f.kind ≠ 10 ∧ (b.takeReport f).1.isPermanent f.kind f.inst (resourceDetail f) = false
  let track (f : FaultReport) (b : State) : Track := (b.takeReport f).1.track f.kind f.inst (resourceDetail f)
  (∀ f n p, UnitEffect (fun t => .faultReport t f)
    (fun b => named f b ∧ f.event = .corrected ∧ correctable f.kind = some (n, p) ∧
      (if (track f b).win = (b.takeReport f).2 / p then (track f b).count + 1 else 1) ≤ n)
    (fun b => ((b.takeReport f).1.bump BOOT_CE_CNT 63 0 1).putTrack { track f b with
      win := (b.takeReport f).2 / p
      count := if (track f b).win = (b.takeReport f).2 / p then (track f b).count + 1 else 1 })) ∧
  (∀ f, UnitEffect (fun t => .faultReport t f)
    (fun b => named f b ∧ f.event = .uncorrectable ∧ (track f b).opened = none)
    (fun b => (b.takeReport f).1.putTrack { track f b with opened := some (b.takeReport f).2, retry := true })) ∧
  (∀ f a, UnitEffect (fun t => .faultReport t f)
    (fun b => named f b ∧ f.event = .uncorrectable ∧ (track f b).opened = some a ∧
      (b.takeReport f).2 < a + 60_000_000_000)
    (fun b => (b.takeReport f).1.permanent searchDone f.kind f.inst (resourceDetail f) 2)) ∧
  (∀ m e, UnitEffect (fun t => .spareEntryTestComplete t m true)
    (fun b => b.faults.entry.find? (fun e => e.2 == m) = some e ∧ b.bit (LTH_ARRAY m) 1 = false)
    (fun b =>
      let s1 := b.setFaults (fun f => { f with entry := f.entry.filter (fun x => x.2 != m) })
      let s2 := (((s1.emptyLathe e.1).moveLathe e.1 m).emptyLathe m).showSpares
      let s3 := match s2.latheOwner m with
        | some p => s2.recheckPlans p
        | none => s2
      s3.rerunStep (s3.stepOn m))) ∧
  (∀ k m, UnitEffect (fun t => .fwCopyMoveComplete t k)
    (fun b => b.faults.moves.find? (fun m => m.src / 32 == k && m.move) = some m)
    (fun b => (b.moveCopy (2 * k + (b.pchLogical m.dst - 30))).setFaults (fun f => { f with
      moves := updateWhere f.moves (fun x => x.src == m.src) (fun x => { x with move := false, began := b.now }) }))) ∧
  (∀ k m, UnitEffect (fun t => .pchMigrationSwitch t k)
    (fun b => b.faults.moves.find? (fun m => m.src / 32 == k && !m.move && m.began + pchCopyNs ≤ b.now) = some m ∧
      b.faults.queue.all (fun g => g / 32 != k) = true)
    (fun b =>
      let l := b.pchLogical m.src
      let s0 := (b.freshCells m.src none).zeroRange (reservedBase (2 * k + (b.pchLogical m.dst - 30))) (2 ^ 32)
      let s1 := ((s0.setFld (SPN_ENGINE m.dst) 39 32 l).setFld (SPN_ENGINE m.dst) 23 19 (b.fld (SPN_ENGINE m.src) 23 19)).setFld
        (SPN_ENGINE m.dst) 18 16 1
      let s2 := ((s1.setFld (SPN_ENGINE m.src) 39 32 255).setFld (SPN_ENGINE m.src) 23 19 0).setFld (SPN_ENGINE m.src) 18 16 3
      ((s2.setFaults (fun f => { f with moves := f.moves.filter (fun x => x.src != m.src) })).setFlash (fun f => { f with
        map := f.map.filter (fun e => !(e.1 == 2 && e.2.1 == k * 32 + l)) ++ [(2, k * 32 + l, m.dst)] })).pchUsed k)) ∧
  (∀ n m r, UnitEffect (fun t => .rollingTest t .lathe n)
    (fun b => b.bit BOOT_TEST_CFG 17 = true ∧ b.bit BOOT_TEST_CFG 16 = true ∧ b.testDue 4 n = true ∧
      b.fld (LTH_ARRAY n) 18 16 = 1 ∧ b.fld (LTH_ARRAY n) 39 32 ≠ 255 ∧ b.latheSpares n = m :: r ∧ b.bit (LTH_ARRAY m) 1 = false ∧ (b.lathe n).running = false ∧
      (ownerOf b (LTH_ARRAY n)).any (fun p => (b.runner p).active) = false)
    (fun b => b.plannedLathe n m)) ∧
  (∀ n v r, UnitEffect (fun t => .rollingTest t .walker n)
    (fun b => b.bit BOOT_TEST_CFG 17 = true ∧ b.bit BOOT_TEST_CFG 16 = true ∧ b.testDue 5 n = true ∧
      b.fld (GGE_WALKER n) 18 16 = 1 ∧ b.fld (GGE_WALKER n) 39 32 ≠ 255 ∧ b.walkerSpares = v :: r ∧ b.contextsUsed n = [])
    (fun b => b.plannedWalker n v)) ∧
  (∀ n, UnitEffect (fun t => .rollingTestComplete t .lathe n true)
    (fun b => b.faults.tests.contains (4, n) = true ∧ b.faults.owed = [])
    (fun b => ((b.setFaults (fun f => { f with tests := f.tests.erase (4, n) })).setFld (LTH_ARRAY n) 18 16 5).showSpares)) ∧
  (∀ w e v r, UnitEffect (fun t => .walkerSwapTimeout t w)
    (fun b =>
      let s1 := b.setFaults (fun f => { f with swaps := f.swaps.filter (fun x => x.1 != w) })
      b.faults.swaps.find? (fun e => e.1 == w) = some e ∧ (b.contextsUsed w = [] ∨ e.2 + 20_000_000 ≤ b.now) ∧
        s1.walkerSpares = v :: r ∧ b.searches = [])
    (fun b =>
      let s2 := (b.setFaults (fun f => { f with swaps := f.swaps.filter (fun x => x.1 != w) })).plannedWalker w v
      { s2 with merges := s2.merges.map (fun j => { j with
          slot := j.slot.map (fun t => if t.1 = w then (v, t.2) else t) }) })) ∧
  (∀ rs, UnitEffect (fun t => .caliperMeasure t rs) (fun b => b.bit CAL_CTRL 0 = true ∧ b.ready rdyFw = true)
    (fun b =>
      let s1 := (rs.zipIdx.foldl (fun s x => if x.2 < 512 then s.takeReading x.2 (x.1 % 65536) else s) b).showMons
      (if s1.bit CAL_CTRL 1 && s1.planDue && s1.fld PWR_STATE 2 0 == 0 then s1.marginPlan else s1).setReady rdyCalipers true)) ∧
  (∀ r, UnitEffect (fun t => .binChange t r)
    (fun b => b.cal.wait.contains r = true ∧ (List.range 14).all (fun i => !(b.lathe (14 * r + i)).running) = true)
    (fun b =>
      let s1 := ((List.range 14).map (fun i => 14 * r + i)).foldl (fun s n => s.setFld (LTH_ARRAY n) 40 40 1) b
      (List.range 16).foldl (fun s p => s.recheckPlans p)
        (s1.setCal (fun c => { c with wait := c.wait.filter (fun x => x != r) })))) ∧
  UnitEffect .hoursUpdate (fun _ => True)
    (fun b => (b.setFlash (fun f => { f with hours := f.hours + 1 })).setFld CAL_STATUS 63 32 (b.flash.hours + 1)) ∧
  UnitEffect (fun t => .rotSelfTest t false) (fun b => b.fw.running = none)
    (fun b => ((((b.setReady rdyRot false).setFld BOOT_STATUS 15 8 1).setFld BOOT_STATUS 3 0 4).event BOOT_EVENT 5).setBoot (fun x =>
      { x with fetching := false })) ∧
  UnitEffect .bootFaultLogRead (fun _ => True)
    (fun b => ({ b with lastRead := b.faults.log.headD 0 } : State).setFaults (fun f => { f with log := f.log.drop 1 }))

/-- Start-up. BOOT_SEQUENCE releases the internal reset with device time at 0, tests the root of trust, loads the protection
configuration and begins the network fetch (R631, R634, R545); DHCP and TFTP are repeated (R498); an accepted image starts the
firmware, and otherwise the last-known-good image does, or the boot fails and is retried after 60 s (R498, R499, R632);
HBM_STACK_TRAINED makes a stack ready or withdraws it (R633); BOOT_LIMIT_MISSED reports a late function, and gives it the ETA that
the firmware writes, which is free (R641). -/
def Obligations.BootCommandsHaveTheirEffect : Prop :=
  PowerEffect .bootSequence (fun b => b.pwr.phase ≠ .released ∧ b.releasable = true)
    (fun b =>
      let s1 := (({ b with now := 0 } : State).setPwr (fun p => { p with phase := .running, since := 0 })).setFlash (fun f => { f with
        boots := f.boots + 1 })
      let s2 := ((s1.setFld BOOT_STATUS 63 32 (b.flash.boots + 1)).setFld BOOT_STATUS 3 0 1).setReady rdyRot true
      let s3 := (s2.tick.measure 0 1 0 s2.freeDigest).loadConfig
      (({ s3 with mgmtDown := s3.now } : State).setBoot (fun x => { x with fetching := true, disc := none })).discover) ∧
  UnitEffect .dhcpRetransmit (fun b => b.boot.fetching = true ∧ b.boot.disc.isSome = true ∧ b.boot.dhcp < 4 ∧
      b.boot.dhcpAt + 2 ^ (b.boot.dhcp + 1) * 1_000_000_000 ≤ b.now)
    (fun b => (b.setBoot (fun x => { x with dhcp := x.dhcp + 1, dhcpAt := b.now })).emit b.discoverMsg) ∧
  UnitEffect .tftpRetransmit
    (fun b => b.boot.fetching = true ∧ b.boot.disc.isSome = true ∧ b.boot.tftpAt + 1_000_000_000 ≤ b.now)
    (fun b => (b.setBoot (fun x => { x with tftp := x.tftp + 1, tftpAt := b.now })).emit (.tftpRequest 1468)) ∧
  (∀ bs i, UnitEffect (fun t => .bootImageFetch t (.image bs))
    (fun b => b.boot.fetching = true ∧ bs.length ≤ 16777216 ∧ parseImage bs = some i)
    (fun b =>
      let r := (b.bump BOOT_STATUS 31 16 1).checkImage i
      if r.1 then r.2.startFirmware i none else r.2.fetchFailed 5)) ∧
  UnitEffect (fun t => .bootImageFetch t .noLease) (fun b => b.boot.fetching = true)
    (fun b => (b.bump BOOT_STATUS 31 16 1).fetchFailed 2) ∧
  (∀ t0, UnitEffect .bootBudgetExpiry
    (fun b => b.boot.disc = some t0 ∧ b.boot.fetching = true ∧ t0 + 60_000_000_000 ≤ b.now)
    (fun b => (b.bump BOOT_STATUS 31 16 1).fetchFailed 6)) ∧
  (∀ t0, UnitEffect .bootFetchRetry (fun b => b.boot.failedAt = some t0 ∧ t0 + 60_000_000_000 ≤ b.now)
    (fun b => ((b.setFld BOOT_STATUS 3 0 1).setBoot (fun x => { x with
      fetching := true, disc := none, failedAt := none })).discover)) ∧
  (∀ k, UnitEffect (fun t => .hbmStackTrained t k true)
    (fun b => b.pwr.phase = .running ∧ b.ready k = false ∧ b.boot.gone.contains k = false)
    (fun b =>
      let s1 := b.numberPchs k
      ((({ s1 with spn := {
        query := s1.spn.query.filter (fun e => e.1.1 != k), codebook := s1.spn.codebook.filter (fun e => e.1.1 != k)
        param := s1.spn.param.filter (fun e => e.1.1 != k), bad := s1.spn.bad.filter (fun e => e.1 != k) } } : State).setReady k
          true).finishHbm))) ∧
  (∀ k, UnitEffect (fun t => .hbmStackTrained t k false)
    (fun b => b.pwr.phase = .running ∧ b.ready k = false ∧ b.boot.gone.contains k = false)
    (fun b => ((b.withdraw k).setBoot (fun x => { x with gone := x.gone ++ [k] })).finishHbm)) ∧
  (∀ n, UnitEffect (fun t => .bootLimitMissed t n) (fun b => b.ready n = false ∧ b.pwr.phase = .running)
    (fun b =>
      let s1 := (b.event BOOT_EVENT 1).logFree (b.writerOf 0) 255 2
      if s1.fw.running.isSome then s1.tick.setRaw (BOOT_ETA n) (BitVec.ofNat 64 (Config.freeNat s1.freeCtr)) else s1))
/-- One step takes the command at the front of the queue and carries it out with the queue's rest. -/
def Obligations.AStepRunsTheFrontCommand : Prop :=
  ∀ (s : State) (c : Instr) (rest : List Instr), s.pending = c :: rest → step s = exec c { s with pending := rest }

/-- Every command answers a next state, in which the queue of waiting commands is as it was. -/
def Obligations.EveryCommandAnswers : Prop := ∀ (c : Instr) (s : State), ∃ t, exec c s = .next t ∧ t.pending = s.pending

/-- The queue is worked off: as many steps as it holds commands empty it, and from then on the block idles, which is the model's own
choice (log entry 3). -/
def Obligations.TheQueueIsWorkedOff : Prop :=
  ∀ s : State, ∃ t, Runs s s.pending.length t ∧ t.pending = [] ∧ ∀ n, Runs t n t

/-- Memory and the registers are in their canonical forms after reset, and so is everything that the canonical form is about. -/
def Obligations.ResetIsCanonical : Prop := Canonical State.reset ∧ State.reset.pending = []

/-- Every step keeps the canonical forms of memory and of the registers, from every state that has them, whatever the command. -/
def Obligations.EveryStepKeepsTheCanonicalForms : Prop :=
  ∀ s t : State, Canonical s → step s = .next t → Canonical t

/-- The canonical forms are unique: memories that read the same at every address are equal data where no range has lost its key (a
range that has reads the free values of log entry 34), and so are registers. -/
def Obligations.CanonicalFormsAreUnique : Prop :=
  ∀ s t : State, Canonical s → Canonical t →
    (s.veil = [] → t.veil = [] → (∀ a, s.byte a = t.byte a) → s.mem = t.mem) ∧ ((∀ a, s.raw a = t.raw a) → s.csr = t.csr)

/-- Memory reads what was last written: a byte inside a store is the byte stored, a byte of a zeroed range is zero, and every other
byte is as it was. -/
def Obligations.MemoryReadsWhatWasWritten : Prop :=
  ∀ (s : State) (a x : Nat),
    (∀ bs, (s.store a bs).byte x = if a ≤ x ∧ x < a + bs.length then bs.getD (x - a) 0 else s.byte x) ∧
    (∀ n, (s.zeroRange a n).byte x = if a ≤ x ∧ x < a + n then 0 else s.byte x)

/-- A poisoned burst reads uncorrectable until a write covers it whole (R182), a write of a part of it leaves it so (R670), and no
write makes another burst uncorrectable. -/
def Obligations.PoisonLastsUntilAWholeWrite : Prop :=
  ∀ (s : State) (b : Nat),
    (s.poison b).isUe (b * 64) 64 = true ∧
    (∀ a bs, (s.store a bs).isUe (b * 64) 64 =
      (s.isUe (b * 64) 64 && !(decide (a ≤ b * 64) && decide (b * 64 + 64 ≤ a + bs.length)))) ∧
    (∀ d, d ≠ b → (s.poison b).isUe (d * 64) 64 = s.isUe (d * 64) 64)

/-- Registers. A field reads what was written to it, and no other bit of its register and no other register changes. A write
follows the access codes of the fields: a W1S bit is set and a W1C bit cleared where 1 is written, an RW bit takes the written
value, and every other bit, reserved ones among them, stays (R14, R15). A read shows a WO bit as 0 and clears the RC bits (Table
0-9). -/
def Obligations.RegistersFollowTheirAccessCodes : Prop :=
  (∀ (s : State) (a hi lo v : Nat), Canonical s → lo ≤ hi → hi < 64 →
    (s.setFld a hi lo v).fld a hi lo = v % 2 ^ (hi + 1 - lo) ∧
    (∀ i, i < lo ∨ hi < i → (s.setFld a hi lo v).bit a i = s.bit a i) ∧
    (∀ x, x ≠ a → (s.setFld a hi lo v).raw x = s.raw x)) ∧
  (∀ (d : RegDesc) (old v : Reg) (i : Nat), i < 64 →
    let has (k : Access) : Bool := d.fields.any (fun f => f.acc == k && decide (f.lo ≤ i) && decide (i ≤ f.hi))
    (d.fields.all (fun f => decide (f.lo ≤ f.hi) && decide (f.hi < 64)) = true →
      (d.written old v).getLsbD i =
        if v.getLsbD i && has .w1s then true else if v.getLsbD i && has .w1c then false
        else if has .rw then v.getLsbD i else old.getLsbD i) ∧
    (∀ (s : State) (a : Nat), Canonical s → d.fields.all (fun f => decide (f.lo ≤ f.hi) && decide (f.hi < 64)) = true →
      (s.readAs a (some d)).1.getLsbD i = ((s.shown a).getLsbD i && !has .wo) ∧
      ((s.readAs a (some d)).2.raw a).getLsbD i = ((s.raw a).getLsbD i && !has .rc)))

/-- A module whose internal reset is held carries nothing out: a command of any domain but the standby domain only lets time pass
(the model's reading of R591, R594 and R597; log entry 47). -/
def Obligations.AHeldModuleDoesNothing : Prop :=
  ∀ (c : Instr) (s : State), c.standby = false → s.acts c.stamp = false →
    exec c s = .next (s.keepQueue (s.at_ c.stamp))

/-- The frame of a step. On a module on which nothing goes on in the background, time comes and nothing else happens before a
command has its effect, and after an effect that leaves it so only the frames of what was sent are formed. -/
def Obligations.QuietStepsChangeOnlyByTheirEffect : Prop :=
  (∀ (s : State) (t : Stamp), s.acts t = true → s.quiet t = true → s.begun t = { s with now := max s.now t }) ∧
  (∀ s u : State, u.spn.held = [] → u.embJobs = [] → u.hotJobs = [] → (∀ c ∈ u.cmds, c.phase ≠ .ordered) →
    (∀ q ∈ u.seqs, q.verdict = none) →
    ∃ frames, s.ended u = { u with pending := s.pending, egress := u.egress ++ frames, framed := u.sent.length })

/-- The frame of answers. On a quiet module, ECHO, READINESS_QUERY, INDEX_EPOCH_QUERY, SEQ_STATUS, TILE_DIR_QUERY and MEM_READ of
whole legal requests answer and change nothing but what an answer changes: memory, registers, indices, sequences and every other
part of the state are as they were. -/
def Obligations.QueriesOnlyAnswer : Prop :=
  let quietly (mk : Stamp → Req → Instr) (op : Nat) (P : Cmd → State → Prop) : Prop :=
    ∀ (s : State) (t : Stamp) (r : Req) (c : Cmd) (u : State), s.acts t = true → s.quiet t = true →
      (s.begun t).begins op r = some (c, u) → c.replyRef = none → P c u → ∃ s', exec (mk t r) s = .next s' ∧ AnswersOnly s s'
  quietly .echo 0x0102 (fun _ _ => True) ∧
  quietly .readinessQuery 0x0104 (fun c _ => shapedAs c 8 [(0, 8)] = true) ∧
  (∀ x, quietly .indexEpochQuery 0x0207
    (fun c u => shapedAs c 8 [(2, 6)] = true ∧ fieldAt c.input 0 2 < 64 ∧
      u.boundIndex c (fieldAt c.input 0 2) = some x)) ∧
  (∀ q, quietly .seqStatus 0x0404
    (fun c u => shapedAs c 8 [(4, 4)] = true ∧ u.seqOf c.hdr.partition (fieldAt c.input 0 4) = some q)) ∧
  quietly .tileDirQuery 0x0805
    (fun c _ => shapedAs c 16 [(12, 4)] = true ∧ 0 < fieldAt c.input 8 4 ∧ fieldAt c.input 8 4 ≤ 4096) ∧
  quietly .memRead 0x0801
    (fun c u =>
      let a := fieldAt c.input 0 8
      let n := fieldAt c.input 8 4
      shapedAs c 16 [(12, 4)] = true ∧ n ≤ 1048576 ∧ u.owns c.hdr.partition a (max n 1) = true ∧
        u.guarded c.hdr.partition a n (u.hotAreas c.hdr.partition) = false ∧ u.cxlMissing a n = none ∧ u.isUe a n = false ∧
        (burstsOf a n).any (fun b => u.ce.contains b) = false)

/-- The frame of writes. On a quiet module, MEM_WRITE and an RDMA WRITE change the bytes of memory that they name to the bytes
they carry, and no other byte of memory and, where no burst that they write in part reads with an error, no register; a CSR write of a register that only its access codes govern changes that
register as they say, and no other register and no byte of memory. -/
def Obligations.WritesChangeOnlyWhatTheyName : Prop :=
  (∀ (s : State) (t : Stamp) (r : Req) (c : Cmd) (u : State), s.acts t = true → s.quiet t = true →
    (s.begun t).begins 0x0800 r = some (c, u) →
    let a := fieldAt c.input 0 8
    let n := fieldAt c.input 8 4
    let bs := c.input.drop 16
    16 ≤ c.input.length → bs.length = n → zerosAt c.input 12 4 = true → u.owns c.hdr.partition a (max n 1) = true →
    u.guarded c.hdr.partition a n (u.hotAreas c.hdr.partition) = false → u.cxlMissing a n = none → u.partialUe a n = false →
    (burstsOf a n).all (fun b => burstWhole a n b || !u.ce.contains b) = true →
    ∃ s', exec (.memWrite t r) s = .next s' ∧
      (∀ x, s'.byte x = if a ≤ x ∧ x < a + n then bs.getD (x - a) 0 else s.byte x) ∧ (∀ x, s'.raw x = s.raw x)) ∧
  (∀ (s : State) (t : Stamp) (qp rkey addr : Nat) (data : List Byte) (q : Qp), s.acts t = true → s.quiet t = true →
    let b : State := { s with now := max s.now t }
    s.qp? qp = some q → q.error = false → q.opens rkey = true → b.memOpen q.partition q.ctx addr data.length = true →
    s.partialUe addr data.length = false →
    (burstsOf addr data.length).all (fun b => burstWhole addr data.length b || !s.ce.contains b) = true →
    ∃ s', exec (.rdmaWriteReceive t qp rkey addr data) s = .next s' ∧
      (∀ x, s'.byte x = if addr ≤ x ∧ x < addr + data.length then data.getD (x - addr) 0 else s.byte x) ∧
      (∀ x, s'.raw x = s.raw x)) ∧
  (∀ (s : State) (t : Stamp) (src : CsrWriter) (a : Nat) (v : Reg) (d : RegDesc), s.acts t = true → s.quiet t = true → Canonical s →
    let b : State := { s with now := max s.now t }
    inCsr a = true → a % 8 = 0 → ((prtOwner a).map (fun p => b.prtOpen src.plane p)).getD true = true → b.specialWrite a v = none →
    b.arrayWrite src.plane a v = none → regDesc a = some d →
    ∃ s', exec (.csrWrite t src a v) s = .next s' ∧ s'.raw a = d.written (s.raw a) v ∧ (∀ x, x ≠ a → s'.raw x = s.raw x) ∧
      (∀ x, s'.byte x = s.byte x))

/-- Intake refuses a request with the status of the first check of Table 2-12 that it fails, and nothing else happens: the refusal
is counted and sent, and the fragments of a refused command are discarded. A service class above 2, or 2 on a partition without
real-time service, is refused with BAD_SERVICE_CLASS (R49), another partition than the queue pair's with BAD_PARTITION (R43), and
a reserved flag or a nonzero status with RESERVED_NONZERO (R48), where no earlier check refuses. -/
def Obligations.RefusedRequestsHaveNoOtherEffect : Prop :=
  ∀ (s : State) (i : Instr) (op : Nat) (r : Req) (q : Qp), i.carries = some (op, r) → s.acts i.stamp = true →
    let b := (s.begun i.stamp).listen r.qp
    (s.begun i.stamp).qp? r.qp = some q → requestPacket r = true → q.hears r = true →
    let refused (st : Nat) : Prop := exec i s = .next (s.ended (b.refuseFragments (hdrOf op r) st (hasMore r)))
    (∀ st, b.intakeRefusal q op r = some st → refused st) ∧
    (r.version ≠ 0x10#8 → refused stBadVersion) ∧
    (r.version = 0x10#8 → lengthRefusal r (itemsBefore 513 (extOf r)) = none →
      (r.flags.toNat / 16 ≠ 0 ∨ r.status ≠ 0 → refused stReservedNonzero) ∧
      (r.flags.toNat / 16 = 0 → r.status = 0 →
        (r.partition ≠ q.partition → refused stBadPartition) ∧
        (r.partition = q.partition →
          (2 < r.svc ∨ r.svc = 2 ∧ (b.part q.partition).assign.rt = false → refused stBadServiceClass))))

/-- Where an address of a partition's region lies (R29): granule (a − B) div 4,096 goes round over the pseudo-channels that the
partition owns, in ascending order, and no two addresses of a region lie at one place. -/
def Obligations.RegionsInterleave : Prop :=
  ∀ (s : State) (p a : Nat), s.inRegion p a 1 = true →
    let l := bitsOf 240 (s.part p).assign.pch
    let g := (a - s.regionBase p) / 4096
    s.interleave p a = (l.getD (g % l.length) 0, g / l.length * 4096 + a % 4096) ∧
    (∀ a', s.inRegion p a' 1 = true → s.interleave p a' = s.interleave p a → a' = a)

/-- The visited set of a walk (R202): a node that was added is visited, every node visited before still is, and a node is visited
where both of its bits were set. -/
def Obligations.VisitedNodesStayVisited : Prop :=
  ∀ (w : Walk) (n m : Nat),
    let h1 (x : Nat) : Nat := (x * 0x9E3779B1) % 2 ^ 32 / 2 ^ 15
    let h2 (x : Nat) : Nat := (x * 0x85EBCA77) % 2 ^ 32 / 2 ^ 15
    (w.visited m = true ↔ h1 m ∈ w.vis ∧ h2 m ∈ w.vis) ∧ (w.visit n).visited n = true ∧
      (w.visited m = true → (w.visit n).visited m = true) ∧
      (∀ b, b ∈ (w.visit n).vis ↔ b ∈ w.vis ∨ b = h1 n ∨ b = h2 n)

/-- A measurement (R646): the register becomes the digest of its old contents and the measured digest, no other measurement register
changes, and the log takes one more entry where it has room (R647). -/
def Obligations.MeasurementsExtendTheirRegister : Prop :=
  ∀ (s : State) (r kind detail : Nat) (d : List Byte), Canonical s → r < 8 →
    let t := s.measure r kind detail d
    t.words (SEC_MEAS r 0) = sha3 (s.words (SEC_MEAS r 0) ++ d) ∧
    (∀ x, x < 8 → x ≠ r → t.words (SEC_MEAS x 0) = s.words (SEC_MEAS x 0)) ∧
    (s.sec.mlog.length < 4096 → t.sec.mlog.length = s.sec.mlog.length + 1 ∧ t.sec.mlog.take s.sec.mlog.length = s.sec.mlog) ∧
    (4096 ≤ s.sec.mlog.length → t.sec.mlog = s.sec.mlog)

/-- The retry hint of a NOT_READY refusal (R637), in microseconds: computed from BOOT_ETA and the intake stamp, a second where the
entry is 0, and all ones for a withdrawn function. -/
def Obligations.RetryHintsOfMissingFunctions : Prop :=
  ∀ (s : State) (b intake : Nat),
    let eta := (s.raw (BOOT_ETA b)).toNat
    (eta = 2 ^ 64 - 1 → s.readyHint b intake = 0xFFFF_FFFF) ∧
    (eta = 0 → s.readyHint b intake = 1_000_000) ∧
    (eta ≠ 0 → eta ≠ 2 ^ 64 - 1 → s.readyHint b intake = max 100 ((eta - intake) / 1000))

end Statements
end

