-- ==== Sys2Proof/Laws/Sparse.lean ====
section
/-! SUPPORT. Laws of the sparse lists behind memory and the registers: the canonical form is kept by every operation, a read
after a write gives what was written, and a write leaves every other place alone. -/

namespace Sys2Proof.Machine

theorem blt_iff {a b : Nat} : Nat.blt a b = true ↔ a < b := by rw [Nat.blt_eq]

theorem ble_iff {a b : Nat} : Nat.ble a b = true ↔ a ≤ b := by rw [Nat.ble_eq]

theorem rising_iff {α : Type} (l : List (Nat × α)) : rising l = true ↔ l.Pairwise (fun a b => a.1 < b.1) := by
  induction l with
  | nil => simp [rising]
  | cons x r ih =>
    cases r with
    | nil => simp [rising]
    | cons y r =>
      rw [rising, Bool.and_eq_true, ih, List.pairwise_cons (a := x), Nat.blt_eq]
      constructor
      · rintro ⟨h, hp⟩
        refine ⟨fun z hz => ?_, hp⟩
        rcases List.mem_cons.1 hz with rfl | hz
        · exact h
        · exact Nat.lt_trans h ((List.pairwise_cons.1 hp).1 z hz)
      · rintro ⟨h, hp⟩
        exact ⟨h y (by simp), hp⟩

theorem sparsePut_mem {α : Type} (l : List (Nat × α)) (k : Nat) (v : α) (e : Nat × α) (h : e ∈ sparsePut l k v) :
    e = (k, v) ∨ e ∈ l := by
  induction l with
  | nil => simpa [sparsePut] using h
  | cons x r ih =>
    simp only [sparsePut] at h
    split at h
    · simpa using h
    · split at h
      · rcases List.mem_cons.1 h with h | h
        · exact .inl h
        · exact .inr (List.mem_cons_of_mem _ h)
      · rcases List.mem_cons.1 h with h | h
        · exact .inr (by simp [h])
        · exact (ih h).imp id (List.mem_cons_of_mem _)

theorem sparsePut_rising {α : Type} (l : List (Nat × α)) (k : Nat) (v : α) (h : rising l = true) :
    rising (sparsePut l k v) = true := by
  rw [rising_iff] at *
  induction l with
  | nil => simp [sparsePut]
  | cons x r ih =>
    obtain ⟨hx, hr⟩ := List.pairwise_cons.1 h
    simp only [sparsePut]
    split
    · rename_i hk
      refine List.pairwise_cons.2 ⟨fun z hz => ?_, h⟩
      rcases List.mem_cons.1 hz with rfl | hz
      · exact hk
      · exact Nat.lt_trans hk (hx z hz)
    · split
      · rename_i hk
        simp only [beq_iff_eq] at hk
        exact List.pairwise_cons.2 ⟨fun z hz => by have := hx z hz; simp only at *; omega, hr⟩
      · rename_i h1 h2
        simp only [beq_iff_eq] at h2
        refine List.pairwise_cons.2 ⟨fun z hz => ?_, ih hr⟩
        rcases sparsePut_mem r k v z hz with rfl | hz
        · simp only; omega
        · exact hx z hz

theorem filter_rising {α : Type} (l : List (Nat × α)) (p : Nat × α → Bool) (h : rising l = true) :
    rising (l.filter p) = true := by
  rw [rising_iff] at *
  exact h.filter p

theorem sparseSet_rising {α : Type} [DecidableEq α] (d : α) (l : List (Nat × α)) (k : Nat) (v : α) (h : rising l = true) :
    rising (sparseSet d l k v) = true := by
  unfold sparseSet
  split
  · exact filter_rising _ _ h
  · exact sparsePut_rising _ _ _ h

/-! ### The canonical form of memory -/

theorem Memory.wf_iff (m : List (Nat × Byte)) : Memory.wf m = true ↔ rising m = true ∧ ∀ e ∈ m, e.2 ≠ 0 := by
  simp [Memory.wf]

/-- A write of one byte keeps the canonical form. -/
theorem Memory.wf_set (m : List (Nat × Byte)) (a : Nat) (b : Byte) (h : Memory.wf m = true) :
    Memory.wf (sparseSet 0 m a b) = true := by
  rw [Memory.wf_iff] at *
  refine ⟨sparseSet_rising _ _ _ _ h.1, fun e he => ?_⟩
  unfold sparseSet at he
  split at he
  · exact h.2 e (List.mem_filter.1 he).1
  · rename_i hb
    rcases sparsePut_mem _ _ _ _ he with rfl | he
    · exact hb
    · exact h.2 e he

/-- Taking cells away keeps the canonical form. -/
theorem Memory.wf_filter (m : List (Nat × Byte)) (p : Nat × Byte → Bool) (h : Memory.wf m = true) :
    Memory.wf (m.filter p) = true := by
  rw [Memory.wf_iff] at *
  exact ⟨filter_rising _ _ h.1, fun e he => h.2 e (List.mem_filter.1 he).1⟩

/-- Writing a run of cells one by one keeps the canonical form. -/
theorem Memory.wf_foldl_set {β : Type} (l : List β) (f : β → Nat) (g : β → Byte) (m : List (Nat × Byte))
    (h : Memory.wf m = true) : Memory.wf (l.foldl (fun m e => sparseSet 0 m (f e) (g e)) m) = true := by
  induction l generalizing m with
  | nil => exact h
  | cons x r ih => exact ih _ (Memory.wf_set _ _ _ h)

theorem listBytes_mem (a : Nat) (bs : List Byte) (e : Nat × Byte) (h : e ∈ listBytes a bs) :
    a ≤ e.1 ∧ e.1 < a + bs.length ∧ e.2 ≠ 0 := by
  induction bs generalizing a with
  | nil => simp [listBytes] at h
  | cons b bs ih =>
    simp only [listBytes] at h
    split at h
    · have := ih _ h; simp only [List.length_cons]
      exact ⟨by omega, by omega, this.2.2⟩
    · rename_i hb
      rcases List.mem_cons.1 h with rfl | h
      · simp only [List.length_cons]; exact ⟨Nat.le_refl _, by omega, hb⟩
      · have := ih _ h; simp only [List.length_cons]
        exact ⟨by omega, by omega, this.2.2⟩

theorem listBytes_rising (a : Nat) (bs : List Byte) : rising (listBytes a bs) = true := by
  rw [rising_iff]
  induction bs generalizing a with
  | nil => simp [listBytes]
  | cons b bs ih =>
    simp only [listBytes]
    split
    · exact ih _
    · exact List.pairwise_cons.2 ⟨fun z hz => by have := listBytes_mem _ _ _ hz; simp only; omega, ih _⟩

/-- A write of a byte string keeps the canonical form. -/
theorem Memory.wf_memWrite (m : List (Nat × Byte)) (a : Nat) (bs : List Byte) (h : Memory.wf m = true) :
    Memory.wf (memWrite m a bs) = true := by
  rw [Memory.wf_iff] at *
  have hr := h.1
  have hb := listBytes_rising a bs
  unfold memWrite
  rw [rising_iff] at *
  refine ⟨?_, fun e he => ?_⟩
  · refine List.pairwise_append.2 ⟨hr.filter _, List.pairwise_append.2 ⟨hb, hr.filter _, ?_⟩, ?_⟩
    · intro x hx y hy
      have h1 := listBytes_mem _ _ _ hx
      have h2 := ble_iff.1 (List.mem_filter.1 hy).2
      omega
    · intro x hx y hy
      have h1 := blt_iff.1 (List.mem_filter.1 hx).2
      rcases List.mem_append.1 hy with hy | hy
      · have h2 := listBytes_mem _ _ _ hy; omega
      · have h2 := ble_iff.1 (List.mem_filter.1 hy).2; omega
  · rcases List.mem_append.1 he with he | he
    · exact h.2 e (List.mem_filter.1 he).1
    · rcases List.mem_append.1 he with he | he
      · exact (listBytes_mem _ _ _ he).2.2
      · exact h.2 e (List.mem_filter.1 he).1

/-! ### The canonical form of the registers -/

theorem Csr.wf_iff (l : List (Nat × Reg)) : Csr.wf l = true ↔ rising l = true ∧ ∀ e ∈ l, e.2 ≠ resetValue e.1 := by
  simp [Csr.wf]

/-- A register write keeps the canonical form. -/
theorem Csr.wf_set (l : List (Nat × Reg)) (a : Nat) (v : Reg) (h : Csr.wf l = true) :
    Csr.wf (sparseSet (resetValue a) l a v) = true := by
  rw [Csr.wf_iff] at *
  refine ⟨sparseSet_rising _ _ _ _ h.1, fun e he => ?_⟩
  unfold sparseSet at he
  split at he
  · exact h.2 e (List.mem_filter.1 he).1
  · rename_i hb
    rcases sparsePut_mem _ _ _ _ he with rfl | he
    · exact hb
    · exact h.2 e he

theorem Csr.wf_filter (l : List (Nat × Reg)) (p : Nat × Reg → Bool) (h : Csr.wf l = true) : Csr.wf (l.filter p) = true := by
  rw [Csr.wf_iff] at *
  exact ⟨filter_rising _ _ h.1, fun e he => h.2 e (List.mem_filter.1 he).1⟩

/-! ### Reads after writes -/

theorem sparseGet_erase {α : Type} (l : List (Nat × α)) (k j : Nat) :
    sparseGet (sparseErase l k) j = if j = k then none else sparseGet l j := by
  induction l with
  | nil => simp [sparseErase, sparseGet]
  | cons x r ih =>
    obtain ⟨a, v⟩ := x
    simp only [sparseErase, List.filter_cons] at *
    by_cases hak : a = k
    · subst hak
      simp only [bne_self_eq_false, Bool.false_eq_true, if_false, ih, sparseGet, beq_iff_eq]
      by_cases hj : j = a
      · simp [hj]
      · simp [hj, Ne.symm hj]
    · simp only [bne_iff_ne, ne_eq, hak, not_false_eq_true, if_true, sparseGet, beq_iff_eq]
      by_cases hj : a = j
      · subst hj; simp [hak]
      · simp only [hj, if_false]; exact ih

theorem sparseGet_put {α : Type} (l : List (Nat × α)) (k j : Nat) (v : α) (h : rising l = true) :
    sparseGet (sparsePut l k v) j = if j = k then some v else sparseGet l j := by
  rw [rising_iff] at h
  induction l with
  | nil =>
    by_cases hj : k = j
    · simp [sparsePut, sparseGet, hj]
    · simp [sparsePut, sparseGet, hj, Ne.symm hj]
  | cons x r ih =>
    obtain ⟨a, w⟩ := x
    obtain ⟨hx, hr⟩ := List.pairwise_cons.1 h
    simp only [sparsePut]
    split
    · by_cases hj : k = j
      · simp [sparseGet, hj]
      · simp [sparseGet, hj, Ne.symm hj]
    · split
      · rename_i hk
        simp only [beq_iff_eq] at hk
        subst hk
        by_cases hj : a = j
        · simp [sparseGet, hj]
        · simp [sparseGet, hj, Ne.symm hj]
      · rename_i hk
        simp only [beq_iff_eq] at hk
        simp only [sparseGet, beq_iff_eq]
        by_cases hj : a = j
        · subst hj; simp [hk]
        · simp only [hj, if_false]; exact ih hr

/-- A read after a write: what was written at the place written, what was there before everywhere else. -/
theorem sparseGet_set {α : Type} [DecidableEq α] (d : α) (l : List (Nat × α)) (k j : Nat) (v : α) (h : rising l = true) :
    (sparseGet (sparseSet d l k v) j).getD d = if j = k then v else (sparseGet l j).getD d := by
  unfold sparseSet
  split
  · rename_i hv
    rw [sparseGet_erase]; split <;> simp [hv]
  · rw [sparseGet_put _ _ _ _ h]; split <;> simp

/-- The value of a key is found by where it is listed. -/
theorem sparseGet_eq_of_mem {α : Type} (l : List (Nat × α)) (k : Nat) (v : α) (h : rising l = true) (hm : (k, v) ∈ l) :
    sparseGet l k = some v := by
  rw [rising_iff] at h
  induction l with
  | nil => simp at hm
  | cons x r ih =>
    obtain ⟨a, w⟩ := x
    obtain ⟨hx, hr⟩ := List.pairwise_cons.1 h
    rcases List.mem_cons.1 hm with he | hm
    · simp only [Prod.mk.injEq] at he; simp [sparseGet, he.1, he.2]
    · have := hx _ hm
      simp only at this
      simp only [sparseGet, beq_iff_eq]
      rw [if_neg (by omega)]
      exact ih hr hm

theorem sparseGet_none {α : Type} (l : List (Nat × α)) (k : Nat) (h : ∀ e ∈ l, e.1 ≠ k) : sparseGet l k = none := by
  induction l with
  | nil => rfl
  | cons x r ih =>
    obtain ⟨a, w⟩ := x
    have h0 := h (a, w) (by simp)
    simp only at h0
    simp only [sparseGet, beq_iff_eq, h0, if_false]
    exact ih (fun e he => h e (List.mem_cons_of_mem _ he))

theorem sparseGet_append {α : Type} (l r : List (Nat × α)) (k : Nat) :
    sparseGet (l ++ r) k = (sparseGet l k).orElse (fun _ => sparseGet r k) := by
  induction l with
  | nil => simp [sparseGet]
  | cons x l ih =>
    obtain ⟨a, w⟩ := x
    simp only [List.cons_append, sparseGet, beq_iff_eq]
    by_cases hk : a = k
    · simp [hk]
    · simp [hk, ih]

theorem sparseGet_filter {α : Type} (l : List (Nat × α)) (p : Nat → Bool) (k : Nat) :
    sparseGet (l.filter (fun e => p e.1)) k = if p k then sparseGet l k else none := by
  induction l with
  | nil => simp [sparseGet]
  | cons x r ih =>
    obtain ⟨a, w⟩ := x
    simp only [List.filter_cons]
    by_cases hp : p a = true
    · simp only [hp, if_true, sparseGet, beq_iff_eq]
      by_cases hk : a = k
      · subst hk; simp [hp]
      · simp only [hk, if_false]; exact ih
    · simp only [hp, sparseGet, beq_iff_eq]
      by_cases hk : a = k
      · subst hk; simp only [Bool.false_eq_true, if_false, ih, hp]
      · simp only [Bool.false_eq_true, if_false, hk]; exact ih

theorem listBytes_get (a : Nat) (bs : List Byte) (i : Nat) (hi : i < bs.length) :
    (sparseGet (listBytes a bs) (a + i)).getD 0 = bs[i] := by
  induction bs generalizing a i with
  | nil => simp at hi
  | cons b bs ih =>
    cases i with
    | zero =>
      simp only [listBytes, Nat.add_zero, List.getElem_cons_zero]
      split
      · rename_i hb
        rw [sparseGet_none, hb]
        · rfl
        · intro e he; have := listBytes_mem _ _ _ he; omega
      · simp [sparseGet]
    | succ i =>
      have hi' : i < bs.length := by simpa using hi
      have h1 := ih (a + 1) i hi'
      have e1 : a + 1 + i = a + (i + 1) := by omega
      rw [e1] at h1
      simp only [listBytes, List.getElem_cons_succ]
      split
      · exact h1
      · simp only [sparseGet, beq_iff_eq]
        rw [if_neg (by omega)]
        exact h1

/-- A byte of memory after a write of a byte string: the string's own byte inside it, the old byte elsewhere. -/
theorem memWrite_get (m : List (Nat × Byte)) (a : Nat) (bs : List Byte) (x : Nat) :
    (sparseGet (memWrite m a bs) x).getD 0 = if h : a ≤ x ∧ x < a + bs.length then bs[x - a] else (sparseGet m x).getD 0 := by
  unfold memWrite
  rw [sparseGet_append, sparseGet_append, sparseGet_filter m (fun k => Nat.blt k a), sparseGet_filter m (fun k => Nat.ble (a + bs.length) k)]
  by_cases h1 : x < a
  · have h2 : ¬ (a ≤ x ∧ x < a + bs.length) := by omega
    have h3 : Nat.blt x a = true := blt_iff.2 h1
    have h4 : Nat.ble (a + bs.length) x = false := by
      rw [Bool.eq_false_iff]; intro h; have := ble_iff.1 h; omega
    have h5 : sparseGet (listBytes a bs) x = none :=
      sparseGet_none _ _ (fun e he => by have := listBytes_mem _ _ _ he; omega)
    simp only [h3, h4, h5, h2, dif_neg, not_false_eq_true, if_true]
    cases sparseGet m x <;> simp
  · have h3 : Nat.blt x a = false := by
      rw [Bool.eq_false_iff]; intro h; have := blt_iff.1 h; omega
    by_cases h2 : x < a + bs.length
    · have h4 : Nat.ble (a + bs.length) x = false := by
        rw [Bool.eq_false_iff]; intro h; have := ble_iff.1 h; omega
      have hx : a ≤ x := by omega
      have h5 := listBytes_get a bs (x - a) (by omega)
      rw [show a + (x - a) = x by omega] at h5
      simp only [h3, h4, hx, h2, and_self, dif_pos]
      rw [← h5]
      cases sparseGet (listBytes a bs) x <;> simp
    · have h4 : Nat.ble (a + bs.length) x = true := ble_iff.2 (by omega)
      have h5 : sparseGet (listBytes a bs) x = none :=
        sparseGet_none _ _ (fun e he => by have := listBytes_mem _ _ _ he; omega)
      simp [h3, h4, h5, h2]

/-- What a piece of a veil covers after a range is cut out of it: nothing in the range, and elsewhere what it covered before. -/
theorem Veil.cut_find (v : Veil) (a n x : Nat) :
    ((v.cut a n).find? (fun v => v.covers x)).map (fun v => Config.freeByte v.tok (v.at_ + (x - v.lo))) =
      if a ≤ x ∧ x < a + n then none else if v.covers x then some (Config.freeByte v.tok (v.at_ + (x - v.lo))) else none := by
  have right (h1 : v.lo ≤ a + n) (h2 : a + n ≤ x) : v.at_ + (a + n - v.lo) + (x - (a + n)) = v.at_ + (x - v.lo) := by omega
  unfold Veil.cut
  split
  · rename_i h
    simp only [Bool.or_eq_true, decide_eq_true_eq] at h
    by_cases hc : v.covers x = true
    · have := hc
      simp only [Veil.covers, Bool.and_eq_true, decide_eq_true_eq] at this
      rw [if_neg (by omega)]; simp [hc]
    · simp [hc]
  · rename_i h
    simp only [Bool.or_eq_true, decide_eq_true_eq, not_or, Nat.not_le] at h
    by_cases hx : a ≤ x ∧ x < a + n
    · rw [if_pos hx]
      simp only [Option.map_eq_none_iff, List.find?_eq_none, List.mem_append]
      rintro w (hw | hw)
      · split at hw <;> simp only [List.mem_singleton, List.not_mem_nil] at hw
        subst hw; simp only [Veil.covers, Bool.and_eq_true, decide_eq_true_eq]; omega
      · split at hw <;> simp only [List.mem_singleton, List.not_mem_nil] at hw
        subst hw; simp only [Veil.covers, Bool.and_eq_true, decide_eq_true_eq]; omega
    · rw [if_neg hx]
      by_cases hl : x < a
      · have e2 : (if a + n < v.hi then [({ v with lo := a + n, at_ := v.at_ + (a + n - v.lo) } : Veil)] else []).find?
            (fun v => v.covers x) = none := by
          split <;> simp [Veil.covers] <;> omega
        rw [List.find?_append, e2]
        by_cases h1 : v.lo < a
        · have : (({ v with hi := a } : Veil).covers x) = v.covers x := by
            simp only [Veil.covers]; rw [decide_eq_true hl, decide_eq_true (show x < v.hi by omega)]
          rw [if_pos h1]; simp only [List.find?_singleton, this]; split <;> simp_all
        · rw [if_neg h1]; have : v.covers x = false := by simp [Veil.covers]; intros; omega
          simp [this]
      · have e1 : (if v.lo < a then [({ v with hi := a } : Veil)] else []).find? (fun v => v.covers x) = none := by
          split <;> simp [Veil.covers] <;> omega
        rw [List.find?_append, e1]
        by_cases h1 : a + n < v.hi
        · have r := right (by omega) (by omega)
          have : (({ v with lo := a + n, at_ := v.at_ + (a + n - v.lo) } : Veil).covers x) = v.covers x := by
            simp only [Veil.covers]; rw [r, decide_eq_true (show v.lo ≤ x by omega), decide_eq_true (show a + n ≤ x by omega)]
          rw [if_pos h1]; simp only [List.find?_singleton, this, Option.none_or]; split <;> simp_all
        · rw [if_neg h1]; have : v.covers x = false := by simp [Veil.covers]; intros; omega
          simp [this]
/-- A range cut out of every veil reads zero where nothing is listed, and every other address reads as before. -/
theorem cutVeil_byte (vs : List Veil) (a n x : Nat) :
    veilByte (cutVeil vs a n) x = if a ≤ x ∧ x < a + n then 0 else veilByte vs x := by
  have e (l : List Veil) : veilByte l x =
      ((l.find? (fun v => v.covers x)).map (fun v => Config.freeByte v.tok (v.at_ + (x - v.lo)))).getD 0 := by
    unfold veilByte; cases l.find? (fun v => v.covers x) <;> rfl
  rw [e, e]
  unfold cutVeil
  induction vs with
  | nil => simp
  | cons v r ih =>
    rw [List.flatMap_cons, List.find?_append]
    have := Veil.cut_find v a n x
    cases hf : (v.cut a n).find? (fun v => v.covers x) with
    | some w =>
      rw [hf] at this
      split at this
      · simp at this
      · split at this
        · rename_i h1 h2
          rw [List.find?_cons_of_pos (by exact h2), if_neg h1]; simpa using this
        · simp at this
    | none =>
      rw [hf] at this
      rw [Option.none_or, ih]
      split at this
      · rename_i h; rw [if_pos h, if_pos h]
      · rename_i h; rw [if_neg h, if_neg h]
        split at this
        · simp at this
        · rename_i h2; rw [List.find?_cons_of_neg (by exact h2)]

end Sys2Proof.Machine
end

