-- ==== Sys2Proof/Laws/Canonical.lean ====
section
/-! SUPPORT. The canonical forms of memory and of the registers under updates of the state: the small lemmas from which each
operation's own lemma follows. -/

namespace Sys2Proof.Machine

/-- A state with the same memory and registers as a canonical one is canonical. -/
theorem canonical_of {s t : State} (h : Canonical s) (hm : t.mem = s.mem) (hc : t.csr = s.csr) : Canonical t := by
  unfold Canonical; rw [hm, hc]; exact h

/-- An update of fields other than memory and the registers keeps the canonical forms. -/
theorem canonical_mk (s : State)
    {pending_} {now_} {freeCtr_} {cmdSeq_} {veil_} {ue_} {ce_} {sent_} {qps_} {cmds_} {issued_} {fw_} {icu_}
    {parts_} {sec_} {dir_} {heap_} {models_} {runners_} {evictRetries_} {reports_} {spn_} {spnOut_} {spnLog_}
    {lthLog_} {lastRead_} {lathes_} {wakes_} {ramps_} {wakeGrants_} {wakeLast_} {selIn_} {indices_} {merges_}
    {searches_} {coords_} {maps_} {issueSeq_} {gates_} {jobs_} {selLast_} {tokLast_} {engines_} {vocabs_}
    {grammars_} {seqs_} {seqGens_} {cool_} {prefixes_} {kvPieces_} {prefixGens_} {stores_} {variants_} {trie_}
    {turns_} {runs_} {fetches_} {rags_} {tables_} {migs_} {hotJobs_} {embJobs_} {embLast_} {framed_} {egress_}
    {lineAt_} {served_} {meters_} {meterAt_} {telems_} {telemSeq_} {colls_} {ptp_} {mgmt10_} {mgmtDown_} {pwr_}
    {cxl_} {flash_} {faults_} {cal_} {boot_}
    :
    Canonical (State.mk
      pending_ now_ freeCtr_ cmdSeq_ s.csr s.mem veil_ ue_ ce_ sent_ qps_ cmds_ issued_ fw_ icu_ parts_ sec_
      dir_ heap_ models_ runners_ evictRetries_ reports_ spn_ spnOut_ spnLog_ lthLog_ lastRead_ lathes_ wakes_
      ramps_ wakeGrants_ wakeLast_ selIn_ indices_ merges_ searches_ coords_ maps_ issueSeq_ gates_ jobs_
      selLast_ tokLast_ engines_ vocabs_ grammars_ seqs_ seqGens_ cool_ prefixes_ kvPieces_ prefixGens_ stores_
      variants_ trie_ turns_ runs_ fetches_ rags_ tables_ migs_ hotJobs_ embJobs_ embLast_ framed_ egress_
      lineAt_ served_ meters_ meterAt_ telems_ telemSeq_ colls_ ptp_ mgmt10_ mgmtDown_ pwr_ cxl_ flash_ faults_
      cal_ boot_) = Canonical s :=
  propext ⟨fun h => h, fun h => h⟩

/-- An update of memory keeps the canonical forms where the new memory has its own. -/
theorem canonical_mem {s : State}
    {pending_} {now_} {freeCtr_} {cmdSeq_} {mem_} {veil_} {ue_} {ce_} {sent_} {qps_} {cmds_} {issued_} {fw_}
    {icu_} {parts_} {sec_} {dir_} {heap_} {models_} {runners_} {evictRetries_} {reports_} {spn_} {spnOut_}
    {spnLog_} {lthLog_} {lastRead_} {lathes_} {wakes_} {ramps_} {wakeGrants_} {wakeLast_} {selIn_} {indices_}
    {merges_} {searches_} {coords_} {maps_} {issueSeq_} {gates_} {jobs_} {selLast_} {tokLast_} {engines_}
    {vocabs_} {grammars_} {seqs_} {seqGens_} {cool_} {prefixes_} {kvPieces_} {prefixGens_} {stores_}
    {variants_} {trie_} {turns_} {runs_} {fetches_} {rags_} {tables_} {migs_} {hotJobs_} {embJobs_} {embLast_}
    {framed_} {egress_} {lineAt_} {served_} {meters_} {meterAt_} {telems_} {telemSeq_} {colls_} {ptp_}
    {mgmt10_} {mgmtDown_} {pwr_} {cxl_} {flash_} {faults_} {cal_} {boot_}
    (h_m : Memory.wf mem_ = true) (h_s : Canonical s) :
    Canonical (State.mk
      pending_ now_ freeCtr_ cmdSeq_ s.csr mem_ veil_ ue_ ce_ sent_ qps_ cmds_ issued_ fw_ icu_ parts_ sec_
      dir_ heap_ models_ runners_ evictRetries_ reports_ spn_ spnOut_ spnLog_ lthLog_ lastRead_ lathes_ wakes_
      ramps_ wakeGrants_ wakeLast_ selIn_ indices_ merges_ searches_ coords_ maps_ issueSeq_ gates_ jobs_
      selLast_ tokLast_ engines_ vocabs_ grammars_ seqs_ seqGens_ cool_ prefixes_ kvPieces_ prefixGens_ stores_
      variants_ trie_ turns_ runs_ fetches_ rags_ tables_ migs_ hotJobs_ embJobs_ embLast_ framed_ egress_
      lineAt_ served_ meters_ meterAt_ telems_ telemSeq_ colls_ ptp_ mgmt10_ mgmtDown_ pwr_ cxl_ flash_ faults_
      cal_ boot_) :=
  ⟨h_m, h_s.2⟩

theorem canonical_wf {s : State} (h : Canonical s) : Memory.wf s.mem = true := h.1

theorem memory_wf_foldl {β : Type} {l : List β} {f : List (Nat × Byte) → β → List (Nat × Byte)} {m : List (Nat × Byte)}
    (h : Memory.wf m = true) (hf : ∀ m x, Memory.wf m = true → Memory.wf (f m x) = true) : Memory.wf (l.foldl f m) = true := by
  induction l generalizing m with
  | nil => exact h
  | cons x r ih => exact ih (hf _ _ h)

theorem memory_wf_nil : Memory.wf [] = true := rfl

theorem canonical_foldl {β : Type} {l : List β} {f : State → β → State} {s : State} (h : Canonical s)
    (hf : ∀ s x, Canonical s → Canonical (f s x)) : Canonical (l.foldl f s) := by
  induction l generalizing s with
  | nil => exact h
  | cons x r ih => exact ih (hf _ _ h)

theorem canonical_ite {c : Prop} [Decidable c] {a b : State} (ha : Canonical a) (hb : Canonical b) :
    Canonical (if c then a else b) := by
  split
  · exact ha
  · exact hb

theorem canonical_ite_fst {α : Type} {c : Prop} [Decidable c] {a b : State × α} (ha : Canonical a.1) (hb : Canonical b.1) :
    Canonical (if c then a else b).1 := by
  split
  · exact ha
  · exact hb

theorem canonical_ite_snd {α : Type} {c : Prop} [Decidable c] {a b : α × State} (ha : Canonical a.2) (hb : Canonical b.2) :
    Canonical (if c then a else b).2 := by
  split
  · exact ha
  · exact hb

/-- What an operation answers, if anything, is canonical: of a state, and of a state in a pair. -/
structure CanonicalOpt (o : Option State) : Prop where
  elim : ∀ t, o = some t → Canonical t

structure CanonicalOptFst {α : Type} (o : Option (State × α)) : Prop where
  elim : ∀ r, o = some r → Canonical r.1

structure CanonicalOptSnd {α : Type} (o : Option (α × State)) : Prop where
  elim : ∀ r, o = some r → Canonical r.2

structure CanonicalOut (o : Host.Outcome State Fault Refusal) : Prop where
  elim : ∀ t, o = .next t → Canonical t

theorem canonicalOut_next {s : State} (h : Canonical s) : CanonicalOut (.next s) := ⟨fun t ht => by
  cases ht; exact h⟩

theorem canonicalOpt_none : CanonicalOpt none := ⟨fun _ h => nomatch h⟩

theorem canonicalOpt_some {s : State} (h : Canonical s) : CanonicalOpt (some s) := ⟨fun t ht => by
  cases ht; exact h⟩

theorem canonicalOpt_ite {c : Prop} [Decidable c] {a b : Option State} (ha : CanonicalOpt a) (hb : CanonicalOpt b) :
    CanonicalOpt (if c then a else b) := by
  split
  · exact ha
  · exact hb

theorem canonicalOpt_map {α : Type} {o : Option α} {f : α → State} (h : ∀ x, o = some x → Canonical (f x)) :
    CanonicalOpt (o.map f) := by
  refine ⟨fun t ht => ?_⟩
  cases o with
  | none => cases ht
  | some x => cases ht; exact h x rfl

theorem canonicalOpt_bind {o : Option State} {f : State → Option State} (h : CanonicalOpt o)
    (hf : ∀ s, Canonical s → CanonicalOpt (f s)) : CanonicalOpt (o.bind f) := by
  cases o with
  | none => exact canonicalOpt_none
  | some s => exact hf s (h.elim s rfl)

theorem canonicalOpt_foldl {β : Type} {l : List β} {f : Option State → β → Option State} {o : Option State}
    (h : CanonicalOpt o) (hf : ∀ o x, CanonicalOpt o → CanonicalOpt (f o x)) : CanonicalOpt (l.foldl f o) := by
  induction l generalizing o with
  | nil => exact h
  | cons x r ih => exact ih (hf _ _ h)

theorem canonicalOptFst_none {α : Type} : CanonicalOptFst (none : Option (State × α)) := ⟨fun _ h => nomatch h⟩

theorem canonicalOptFst_some {α : Type} {r : State × α} (h : Canonical r.1) : CanonicalOptFst (some r) := ⟨fun t ht => by
  cases ht; exact h⟩

theorem canonicalOptFst_map {α β : Type} {o : Option β} {f : β → State × α} (h : ∀ x, o = some x → Canonical (f x).1) :
    CanonicalOptFst (o.map f) := by
  refine ⟨fun t ht => ?_⟩
  cases o with
  | none => cases ht
  | some x => cases ht; exact h x rfl

theorem canonicalOptFst_ite {α : Type} {c : Prop} [Decidable c] {a b : Option (State × α)} (ha : CanonicalOptFst a)
    (hb : CanonicalOptFst b) : CanonicalOptFst (if c then a else b) := by
  split
  · exact ha
  · exact hb

theorem canonicalOptFst_bind {α β : Type} {o : Option (State × α)} {f : State × α → Option (State × β)}
    (h : CanonicalOptFst o) (hf : ∀ r, Canonical r.1 → CanonicalOptFst (f r)) : CanonicalOptFst (o.bind f) := by
  cases o with
  | none => exact canonicalOptFst_none
  | some s => exact hf s (h.elim s rfl)

theorem canonicalOpt_bind_fst {α : Type} {o : Option (State × α)} {f : State × α → Option State}
    (h : CanonicalOptFst o) (hf : ∀ r, Canonical r.1 → CanonicalOpt (f r)) : CanonicalOpt (o.bind f) := by
  cases o with
  | none => exact canonicalOpt_none
  | some s => exact hf s (h.elim s rfl)

theorem canonicalOpt_bind_any {α : Type} {o : Option α} {f : α → Option State}
    (hf : ∀ x, o = some x → CanonicalOpt (f x)) : CanonicalOpt (o.bind f) := by
  cases o with
  | none => exact canonicalOpt_none
  | some s => exact hf s rfl

theorem canonicalOptFst_bind_any {α β : Type} {o : Option α} {f : α → Option (State × β)}
    (hf : ∀ x, o = some x → CanonicalOptFst (f x)) : CanonicalOptFst (o.bind f) := by
  cases o with
  | none => exact canonicalOptFst_none
  | some s => exact hf s rfl

theorem canonicalOptFst_bind_opt {β : Type} {o : Option State} {f : State → Option (State × β)}
    (h : CanonicalOpt o) (hf : ∀ s, Canonical s → CanonicalOptFst (f s)) : CanonicalOptFst (o.bind f) := by
  cases o with
  | none => exact canonicalOptFst_none
  | some s => exact hf s (h.elim s rfl)

theorem canonical_pair_eq {α : Type} {r : State × α} {t : State} {a : α} (h : r = (t, a)) (hr : Canonical r.1) :
    Canonical t := by
  rw [h] at hr; exact hr

/-- What an answer of a canonical operation holds. -/
theorem canonicalOpt_eq {o : Option State} {t : State} (h : o = some t) (ho : CanonicalOpt o) : Canonical t := ho.elim t h

theorem canonicalOptFst_eq {α : Type} {o : Option (State × α)} {t : State} {a : α} (h : o = some (t, a))
    (ho : CanonicalOptFst o) : Canonical t := ho.elim _ h

theorem canonicalOptFst_eq_1 {α : Type} {o : Option (State × α)} {r : State × α} (h : o = some r)
    (ho : CanonicalOptFst o) : Canonical r.1 := ho.elim _ h

theorem canonicalOptFst_foldl {α β : Type} {l : List β} {f : Option (State × α) → β → Option (State × α)}
    {o : Option (State × α)} (h : CanonicalOptFst o) (hf : ∀ o x, CanonicalOptFst o → CanonicalOptFst (f o x)) :
    CanonicalOptFst (l.foldl f o) := by
  induction l generalizing o with
  | nil => exact h
  | cons x r ih => exact ih (hf _ _ h)

theorem canonicalOptSnd_none {α : Type} : CanonicalOptSnd (none : Option (α × State)) := ⟨fun _ h => nomatch h⟩

theorem canonicalOptSnd_some {α : Type} {r : α × State} (h : Canonical r.2) : CanonicalOptSnd (some r) := ⟨fun t ht => by
  cases ht; exact h⟩

theorem canonicalOptSnd_ite {α : Type} {c : Prop} [Decidable c] {a b : Option (α × State)} (ha : CanonicalOptSnd a)
    (hb : CanonicalOptSnd b) : CanonicalOptSnd (if c then a else b) := by
  split
  · exact ha
  · exact hb

theorem canonical_getD {o : Option State} {s : State} (ho : CanonicalOpt o) (h : Canonical s) :
    Canonical (o.getD s) := by
  cases o with
  | none => exact h
  | some t => exact ho.elim t rfl

/-- A fold that carries the state in the second place of a pair. -/
theorem canonical_foldl_snd {α β : Type} {l : List β} {f : α × State → β → α × State} {s : α × State} (h : Canonical s.2)
    (hf : ∀ s x, Canonical s.2 → Canonical (f s x).2) : Canonical (l.foldl f s).2 := by
  induction l generalizing s with
  | nil => exact h
  | cons x r ih => exact ih (hf _ _ h)

/-- A fold that carries the state in the first place of a pair. -/
theorem canonical_foldl_fst {α β : Type} {l : List β} {f : State × α → β → State × α} {s : State × α} (h : Canonical s.1)
    (hf : ∀ s x, Canonical s.1 → Canonical (f s x).1) : Canonical (l.foldl f s).1 := by
  induction l generalizing s with
  | nil => exact h
  | cons x r ih => exact ih (hf _ _ h)

end Sys2Proof.Machine
end

