-- ==== Sys2Proof/Laws/CanonicalOps.lean ====
section
/-! SUPPORT. Every operation of Machine/Ops.lean keeps the canonical forms of memory and of the registers. -/

set_option simprocs false
set_option linter.unusedTactic false
set_option linter.unusedSimpArgs false
set_option linter.unreachableTactic false

namespace Sys2Proof.Machine

theorem setRaw_canonical (s : State) (a : Nat) (v : Reg) (h_s : Canonical s) : Canonical (State.setRaw s a v) := by
  unfold State.setRaw Canonical
  exact ⟨h_s.1, Csr.wf_set _ _ _ h_s.2⟩

theorem setFld_canonical (s : State) (a : Nat) (hi : Nat) (lo : Nat) (v : Nat) (h_s : Canonical s) :
    Canonical (State.setFld s a hi lo v) := by
  unfold State.setFld
  repeat' (first
    | intro _ | with_reducible assumption | with_reducible apply setRaw_canonical | with_reducible apply canonical_ite
    | simp only [canonical_mk] | split)

theorem bump_canonical (s : State) (a : Nat) (hi : Nat) (lo : Nat) (n : Nat) (h_s : Canonical s) :
    Canonical (State.bump s a hi lo n) := by
  unfold State.bump
  repeat' (first
    | intro _ | with_reducible assumption | with_reducible apply setFld_canonical | with_reducible apply canonical_ite
    | simp only [canonical_mk] | split)

theorem icuSettle_canonical (s : State) (g : Nat) (h_s : Canonical s) :
    Canonical (State.icuSettle s g) := by
  unfold State.icuSettle
  repeat' (first
    | intro _ | with_reducible assumption | with_reducible apply setFld_canonical | with_reducible apply canonical_ite
    | simp only [canonical_mk] | split)

theorem icuOpen_canonical (s : State) (g : Nat) (h_s : Canonical s) :
    Canonical (State.icuOpen s g) := by
  unfold State.icuOpen
  repeat' (first
    | intro _ | with_reducible assumption | with_reducible apply setFld_canonical | with_reducible apply canonical_ite
    | simp only [canonical_mk] | split)

theorem icuCount_canonical (s : State) (g : Nat) (h_s : Canonical s) :
    Canonical (State.icuCount s g) := by
  unfold State.icuCount
  repeat' (first
    | intro _ | with_reducible assumption | with_reducible apply count_canonical | with_reducible apply event_canonical
    | with_reducible apply icuOpen_canonical | with_reducible apply setFld_canonical | with_reducible apply canonical_ite
    | simp only [canonical_mk] | split)

theorem icuEvent_canonical (s : State) (n : Nat) (h_s : Canonical s) :
    Canonical (State.icuEvent s n) := by
  unfold State.icuEvent
  repeat' (first
    | intro _ | with_reducible assumption | with_reducible apply icuCount_canonical
    | with_reducible apply setFld_canonical | with_reducible apply canonical_ite | with_reducible apply canonical_ite_fst
    | with_reducible apply canonical_ite_snd | simp only [canonical_mk] | split)

theorem event_canonical (s : State) (a : Nat) (i : Nat) (h_s : Canonical s) :
    Canonical (State.event s a i) := by
  unfold State.event
  repeat' (first
    | intro _ | with_reducible assumption | with_reducible apply icuEvent_canonical
    | with_reducible apply setRaw_canonical | with_reducible apply canonical_ite | simp only [canonical_mk] | split)

theorem setPart_canonical (s : State) (p : Nat) (f : Part → Part) (h_s : Canonical s) :
    Canonical (State.setPart s p f) := by
  unfold State.setPart
  repeat' (first
    | intro _ | with_reducible assumption | with_reducible apply canonical_ite | simp only [canonical_mk] | split)

theorem spnLogPut_canonical (s : State) (kind : Nat) (g : Nat) (opcode : Nat) (part : Nat) (entry : Nat) (h_s : Canonical s) :
    Canonical (State.spnLogPut s kind g opcode part entry) := by
  unfold State.spnLogPut
  repeat' (first
    | intro _ | with_reducible assumption | with_reducible apply event_canonical | with_reducible apply canonical_ite
    | simp only [canonical_mk] | split)

theorem report_canonical (s : State) (f : FaultReport) (h_s : Canonical s) :
    Canonical (State.report s f) := by
  unfold State.report
  repeat' (first
    | intro _ | with_reducible assumption | with_reducible apply canonical_ite | simp only [canonical_mk] | split)

theorem memUe_canonical (s : State) (a : Nat) (opcode : Nat) (part : Nat) (h_s : Canonical s) :
    Canonical (State.memUe s a opcode part) := by
  unfold State.memUe
  repeat' (first
    | intro _ | with_reducible assumption | with_reducible apply bump_canonical | with_reducible apply event_canonical
    | with_reducible apply report_canonical | with_reducible apply spnLogPut_canonical
    | with_reducible apply canonical_ite | simp only [canonical_mk] | split)

theorem memCe_canonical (s : State) (a : Nat) (opcode : Nat) (part : Nat) (h_s : Canonical s) :
    Canonical (State.memCe s a opcode part) := by
  unfold State.memCe
  repeat' (first
    | intro _ | with_reducible assumption | with_reducible apply event_canonical | with_reducible apply report_canonical
    | with_reducible apply spnLogPut_canonical | with_reducible apply canonical_ite | simp only [canonical_mk] | split)

theorem dramUe_canonical (s : State) (a : Nat) (h_s : Canonical s) :
    Canonical (State.dramUe s a) := by
  unfold State.dramUe
  repeat' (first
    | intro _ | with_reducible assumption | with_reducible apply memUe_canonical | with_reducible apply canonical_ite
    | simp only [canonical_mk] | split)

theorem readCe_canonical (s : State) (a : Nat) (n : Nat) (h_s : Canonical s) :
    Canonical (State.readCe s a n) := by
  unfold State.readCe
  repeat' (first
    | intro _ | with_reducible assumption | with_reducible apply memCe_canonical | with_reducible apply canonical_ite
    | with_reducible refine canonical_foldl ?_ ?_ | with_reducible refine canonical_foldl_snd ?_ ?_
    | with_reducible refine canonical_foldl_fst ?_ ?_ | simp only [canonical_mk] | split)

theorem noteCe_canonical (s : State) (part : Nat) (b : Nat) (h_s : Canonical s) :
    Canonical (State.noteCe s part b) := by
  unfold State.noteCe
  repeat' (first
    | intro _ | with_reducible assumption | with_reducible apply memCe_canonical | with_reducible apply canonical_ite
    | simp only [canonical_mk] | split)

theorem store_canonical (s : State) (a : Nat) (bs : List Byte) (h_s : Canonical s) : Canonical (State.store s a bs) := by
  unfold State.store
  exact canonical_foldl (show Canonical _ from ⟨Memory.wf_memWrite _ _ _ h_s.1, h_s.2⟩)
    (fun _ _ h => canonical_ite (dramUe_canonical _ _ h) (memCe_canonical _ _ _ _ h))

theorem zeroRange_canonical (s : State) (a n : Nat) (h_s : Canonical s) : Canonical (State.zeroRange s a n) := by
  unfold State.zeroRange Canonical
  exact ⟨Memory.wf_filter _ _ h_s.1, h_s.2⟩

theorem poison_canonical (s : State) (b : Nat) (h_s : Canonical s) :
    Canonical (State.poison s b) := by
  unfold State.poison
  repeat' (first
    | intro _ | with_reducible assumption | with_reducible apply canonical_ite | simp only [canonical_mk] | split)

theorem noteRead_canonical (s : State) (op : Nat) (part : Nat) (rs : List (Nat × Nat)) (h_s : Canonical s) :
    Canonical (State.noteRead s op part rs) := by
  unfold State.noteRead
  repeat' (first
    | intro _ | with_reducible assumption | with_reducible apply memCe_canonical | with_reducible apply memUe_canonical
    | with_reducible apply canonical_ite | with_reducible apply canonical_ite_fst | with_reducible apply canonical_ite_snd
    | with_reducible refine canonical_foldl ?_ ?_ | with_reducible refine canonical_foldl_snd ?_ ?_
    | with_reducible refine canonical_foldl_fst ?_ ?_ | simp only [canonical_mk] | split)

theorem tick_canonical (s : State) (h_s : Canonical s) :
    Canonical (State.tick s) := by
  unfold State.tick
  repeat' (first
    | intro _ | with_reducible assumption | with_reducible apply canonical_ite | simp only [canonical_mk] | split)

theorem setReady_canonical (s : State) (b : Nat) (v : Bool) (h_s : Canonical s) :
    Canonical (State.setReady s b v) := by
  unfold State.setReady
  repeat' (first
    | intro _ | with_reducible assumption | with_reducible apply event_canonical | with_reducible apply setFld_canonical
    | with_reducible apply setRaw_canonical | with_reducible apply canonical_ite | simp only [canonical_mk] | split)

theorem logPut_canonical (s : State) (seq : Nat) (e : List Byte) (h_s : Canonical s) :
    Canonical (State.logPut s seq e) := by
  unfold State.logPut
  repeat' (first
    | intro _ | with_reducible assumption | with_reducible apply store_canonical | with_reducible apply canonical_ite
    | simp only [canonical_mk] | split)

theorem log_canonical (s : State) (writer : Nat) (sev : Nat) (part : Nat) (kind : Nat) (code : Nat) (body : List Byte) (h_s : Canonical s) :
    Canonical (State.log s writer sev part kind code body) := by
  unfold State.log
  repeat' (first
    | intro _ | with_reducible assumption | with_reducible apply logPut_canonical | with_reducible apply setRaw_canonical
    | with_reducible apply canonical_ite | simp only [canonical_mk] | split)

theorem logFree_canonical (s : State) (writer : Nat) (part : Nat) (kind : Nat) (h_s : Canonical s) :
    Canonical (State.logFree s writer part kind) := by
  unfold State.logFree
  repeat' (first
    | intro _ | with_reducible assumption | with_reducible apply log_canonical | with_reducible apply tick_canonical
    | with_reducible apply canonical_ite | simp only [canonical_mk]
    | with_reducible refine canonicalOpt_eq (by with_reducible assumption) ?_
    | with_reducible refine canonicalOptFst_eq (by with_reducible assumption) ?_
    | with_reducible refine canonicalOptFst_eq_1 (by with_reducible assumption) ?_ | split
    | with_reducible apply canonicalOpt_none | with_reducible apply canonicalOpt_some
    | with_reducible apply canonicalOpt_map | with_reducible apply canonicalOpt_ite
    | with_reducible apply canonicalOpt_bind | with_reducible apply canonicalOpt_foldl
    | with_reducible apply canonicalOpt_bind_fst | with_reducible apply canonicalOpt_bind_any
    | with_reducible apply canonicalOptFst_none | with_reducible apply canonicalOptFst_some
    | with_reducible apply canonicalOptFst_map | with_reducible apply canonicalOptFst_ite
    | with_reducible apply canonicalOptFst_bind | with_reducible apply canonicalOptFst_foldl
    | with_reducible apply canonicalOptFst_bind_opt | with_reducible apply canonicalOptFst_bind_any
    | with_reducible apply canonicalOptSnd_none | with_reducible apply canonicalOptSnd_some
    | with_reducible apply canonicalOptSnd_ite)

theorem trace_canonical (s : State) (site : Nat) (lo : Nat) (h_s : Canonical s) :
    Canonical (State.trace s site lo) := by
  unfold State.trace
  repeat' (first
    | intro _ | with_reducible assumption | with_reducible apply log_canonical | with_reducible apply tick_canonical
    | with_reducible apply canonical_ite | simp only [canonical_mk] | split)

theorem setQp_canonical (s : State) (i : Nat) (f : Qp → Qp) (h_s : Canonical s) :
    Canonical (State.setQp s i f) := by
  unfold State.setQp
  repeat' (first
    | intro _ | with_reducible assumption | with_reducible apply canonical_ite | simp only [canonical_mk] | split)

theorem count_canonical (s : State) (i : Nat) (f : QpCounts → QpCounts) (h_s : Canonical s) :
    Canonical (State.count s i f) := by
  unfold State.count
  repeat' (first
    | intro _ | with_reducible assumption | with_reducible apply setQp_canonical | with_reducible apply canonical_ite
    | simp only [canonical_mk] | split)

theorem emit_canonical (s : State) (o : Out) (h_s : Canonical s) :
    Canonical (State.emit s o) := by
  unfold State.emit
  repeat' (first
    | intro _ | with_reducible assumption | with_reducible apply canonical_ite | simp only [canonical_mk] | split)

theorem committed_canonical (s : State) (id : Nat) (st : Nat) (items : List Item) (data : List Byte) (h_s : Canonical s) :
    Canonical (State.committed s id st items data) := by
  unfold State.committed
  repeat' (first
    | intro _ | with_reducible assumption | with_reducible apply commit_canonical | with_reducible apply canonical_ite
    | simp only [canonical_mk] | with_reducible refine canonicalOpt_eq (by with_reducible assumption) ?_
    | with_reducible refine canonicalOptFst_eq (by with_reducible assumption) ?_
    | with_reducible refine canonicalOptFst_eq_1 (by with_reducible assumption) ?_ | split
    | with_reducible apply canonicalOpt_none | with_reducible apply canonicalOpt_some
    | with_reducible apply canonicalOpt_map | with_reducible apply canonicalOpt_ite
    | with_reducible apply canonicalOpt_bind | with_reducible apply canonicalOpt_foldl
    | with_reducible apply canonicalOpt_bind_fst | with_reducible apply canonicalOpt_bind_any
    | with_reducible apply canonicalOptFst_none | with_reducible apply canonicalOptFst_some
    | with_reducible apply canonicalOptFst_map | with_reducible apply canonicalOptFst_ite
    | with_reducible apply canonicalOptFst_bind | with_reducible apply canonicalOptFst_foldl
    | with_reducible apply canonicalOptFst_bind_opt | with_reducible apply canonicalOptFst_bind_any
    | with_reducible apply canonicalOptSnd_none | with_reducible apply canonicalOptSnd_some
    | with_reducible apply canonicalOptSnd_ite)

theorem dropCmd_canonical (s : State) (id : Nat) (h_s : Canonical s) :
    Canonical (State.dropCmd s id) := by
  unfold State.dropCmd
  repeat' (first
    | intro _ | with_reducible assumption | with_reducible apply canonical_ite | simp only [canonical_mk] | split)

theorem sendReply_canonical (s : State) (h : Hdr) (st : Nat) (items : List Item) (payload : List Byte) (h_s : Canonical s) :
    Canonical (State.sendReply s h st items payload) := by
  unfold State.sendReply
  repeat' (first
    | intro _ | with_reducible assumption | with_reducible apply count_canonical | with_reducible apply canonical_ite
    | simp only [canonical_mk] | with_reducible refine canonicalOpt_eq (by with_reducible assumption) ?_
    | with_reducible refine canonicalOptFst_eq (by with_reducible assumption) ?_
    | with_reducible refine canonicalOptFst_eq_1 (by with_reducible assumption) ?_ | split
    | with_reducible apply canonicalOpt_none | with_reducible apply canonicalOpt_some
    | with_reducible apply canonicalOpt_map | with_reducible apply canonicalOpt_ite
    | with_reducible apply canonicalOpt_bind | with_reducible apply canonicalOpt_foldl
    | with_reducible apply canonicalOpt_bind_fst | with_reducible apply canonicalOpt_bind_any
    | with_reducible apply canonicalOptFst_none | with_reducible apply canonicalOptFst_some
    | with_reducible apply canonicalOptFst_map | with_reducible apply canonicalOptFst_ite
    | with_reducible apply canonicalOptFst_bind | with_reducible apply canonicalOptFst_foldl
    | with_reducible apply canonicalOptFst_bind_opt | with_reducible apply canonicalOptFst_bind_any
    | with_reducible apply canonicalOptSnd_none | with_reducible apply canonicalOptSnd_some
    | with_reducible apply canonicalOptSnd_ite)

theorem reply_canonical (s : State) (c : Cmd) (st : Nat) (items : List Item) (payload : List Byte) (h_s : Canonical s) :
    Canonical (State.reply s c st items payload) := by
  unfold State.reply
  repeat' (first
    | intro _ | with_reducible assumption | with_reducible apply committed_canonical
    | with_reducible apply dropCmd_canonical | with_reducible apply sendReply_canonical
    | with_reducible apply canonical_ite | simp only [canonical_mk] | split)

theorem refuse_canonical (s : State) (c : Cmd) (st : Nat) (h_s : Canonical s) :
    Canonical (State.refuse s c st) := by
  unfold State.refuse
  repeat' (first
    | intro _ | with_reducible assumption | with_reducible apply reply_canonical | with_reducible apply canonical_ite
    | simp only [canonical_mk] | split)

theorem refuseHint_canonical (s : State) (c : Cmd) (st : Nat) (us : Nat) (h_s : Canonical s) :
    Canonical (State.refuseHint s c st us) := by
  unfold State.refuseHint
  repeat' (first
    | intro _ | with_reducible assumption | with_reducible apply reply_canonical | with_reducible apply canonical_ite
    | simp only [canonical_mk] | split)

theorem refuseBusy_canonical (s : State) (c : Cmd) (h_s : Canonical s) :
    Canonical (State.refuseBusy s c) := by
  unfold State.refuseBusy
  repeat' (first
    | intro _ | with_reducible assumption | with_reducible apply refuseHint_canonical
    | with_reducible apply tick_canonical | with_reducible apply canonical_ite | simp only [canonical_mk] | split)

theorem refuseNotReady_canonical (s : State) (c : Cmd) (h_s : Canonical s) :
    Canonical (State.refuseNotReady s c) := by
  unfold State.refuseNotReady
  repeat' (first
    | intro _ | with_reducible assumption | with_reducible apply refuseHint_canonical
    | with_reducible apply tick_canonical | with_reducible apply canonical_ite | simp only [canonical_mk] | split)

theorem replyData_canonical (s : State) (c : Cmd) (st : Nat) (items : List Item) (data : List Byte) (h_s : Canonical s) :
    Canonical (State.replyData s c st items data) := by
  unfold State.replyData
  repeat' (first
    | intro _ | with_reducible assumption | with_reducible apply emit_canonical | with_reducible apply reply_canonical
    | with_reducible apply canonical_ite | simp only [canonical_mk] | split)

theorem endWith_canonical (s : State) (id : Nat) (status : Nat) (h_s : Canonical s) :
    Canonical (State.endWith s id status) := by
  unfold State.endWith
  repeat' (first
    | intro _ | with_reducible assumption | with_reducible apply refuse_canonical | with_reducible apply canonical_ite
    | simp only [canonical_mk] | split)

theorem orphanReads_canonical (s : State) (id : Nat) (h_s : Canonical s) :
    Canonical (State.orphanReads s id) := by
  unfold State.orphanReads
  repeat' (first
    | intro _ | with_reducible assumption | with_reducible apply setQp_canonical | with_reducible apply canonical_ite
    | simp only [canonical_mk] | split)

theorem quit_canonical (s : State) (id : Nat) (status : Nat) (h_s : Canonical s) :
    Canonical (State.quit s id status) := by
  unfold State.quit
  repeat' (first
    | intro _ | with_reducible assumption | with_reducible apply endWith_canonical
    | with_reducible apply orphanReads_canonical | with_reducible apply canonical_ite | simp only [canonical_mk] | split)

theorem setCmd_canonical (s : State) (id : Nat) (f : Cmd → Cmd) (h_s : Canonical s) :
    Canonical (State.setCmd s id f) := by
  unfold State.setCmd
  repeat' (first
    | intro _ | with_reducible assumption | with_reducible apply canonical_ite | simp only [canonical_mk] | split)

theorem resnap_canonical (s : State) (p : Nat) (f : Snap → Snap) (h_s : Canonical s) :
    Canonical (State.resnap s p f) := by
  unfold State.resnap
  repeat' (first
    | intro _ | with_reducible assumption | with_reducible apply canonical_ite | simp only [canonical_mk] | split)

theorem shaped_canonical (s : State) (c : Cmd) (n : Nat) (resv : List (Nat × Nat)) (k : State → State) (h_s : Canonical s) (h_k : ∀ (x0 : State), Canonical x0 → Canonical (k x0)) :
    Canonical (State.shaped s c n resv k) := by
  unfold State.shaped
  repeat' (first
    | intro _ | with_reducible assumption | with_reducible apply h_k | with_reducible apply refuse_canonical
    | with_reducible apply canonical_ite | with_reducible apply canonical_ite_fst | with_reducible apply canonical_ite_snd
    | simp only [canonical_mk] | split)

theorem flushStream_canonical (s : State) (st : Stream) (h_s : Canonical s) :
    Canonical (State.flushStream s st).1 := by
  unfold State.flushStream
  repeat' (first
    | intro _ | with_reducible assumption | with_reducible apply count_canonical | with_reducible apply canonical_ite
    | with_reducible apply canonical_ite_fst | with_reducible apply canonical_ite_snd | simp only [canonical_mk]
    | with_reducible refine canonicalOpt_eq (by with_reducible assumption) ?_
    | with_reducible refine canonicalOptFst_eq (by with_reducible assumption) ?_
    | with_reducible refine canonicalOptFst_eq_1 (by with_reducible assumption) ?_ | split
    | with_reducible apply canonicalOpt_none | with_reducible apply canonicalOpt_some
    | with_reducible apply canonicalOpt_map | with_reducible apply canonicalOpt_ite
    | with_reducible apply canonicalOpt_bind | with_reducible apply canonicalOpt_foldl
    | with_reducible apply canonicalOpt_bind_fst | with_reducible apply canonicalOpt_bind_any
    | with_reducible apply canonicalOptFst_none | with_reducible apply canonicalOptFst_some
    | with_reducible apply canonicalOptFst_map | with_reducible apply canonicalOptFst_ite
    | with_reducible apply canonicalOptFst_bind | with_reducible apply canonicalOptFst_foldl
    | with_reducible apply canonicalOptFst_bind_opt | with_reducible apply canonicalOptFst_bind_any
    | with_reducible apply canonicalOptSnd_none | with_reducible apply canonicalOptSnd_some
    | with_reducible apply canonicalOptSnd_ite)

theorem flushStream_canonical_eq {s : State} {st : Stream} {t_ a1_} (h_eq : State.flushStream s st = (t_, a1_))
    (h_s : Canonical s) : Canonical t_ := by
  have h_p := flushStream_canonical s st h_s
  rw [h_eq] at h_p; exact h_p

theorem finalEvent_canonical (s : State) (st : Stream) (status : Nat) (usage : Nat → List Byte) (items : List Item) (h_s : Canonical s) :
    Canonical (State.finalEvent s st status usage items) := by
  unfold State.finalEvent
  repeat' (first
    | intro _ | with_reducible assumption | with_reducible apply count_canonical | with_reducible apply canonical_ite
    | with_reducible apply canonical_ite_fst | with_reducible apply canonical_ite_snd | simp only [canonical_mk]
    | with_reducible refine canonicalOpt_eq (by with_reducible assumption) ?_
    | with_reducible refine canonicalOptFst_eq (by with_reducible assumption) ?_
    | with_reducible refine canonicalOptFst_eq_1 (by with_reducible assumption) ?_ | split
    | with_reducible apply canonicalOpt_none | with_reducible apply canonicalOpt_some
    | with_reducible apply canonicalOpt_map | with_reducible apply canonicalOpt_ite
    | with_reducible apply canonicalOpt_bind | with_reducible apply canonicalOpt_foldl
    | with_reducible apply canonicalOpt_bind_fst | with_reducible apply canonicalOpt_bind_any
    | with_reducible apply canonicalOptFst_none | with_reducible apply canonicalOptFst_some
    | with_reducible apply canonicalOptFst_map | with_reducible apply canonicalOptFst_ite
    | with_reducible apply canonicalOptFst_bind | with_reducible apply canonicalOptFst_foldl
    | with_reducible apply canonicalOptFst_bind_opt | with_reducible apply canonicalOptFst_bind_any
    | with_reducible apply canonicalOptSnd_none | with_reducible apply canonicalOptSnd_some
    | with_reducible apply canonicalOptSnd_ite)

theorem holdItem_canonical (s : State) (st : Stream) (item : List Byte × List Byte) (h_s : Canonical s) :
    Canonical (State.holdItem s st item).1 := by
  unfold State.holdItem
  repeat' (first
    | intro _ | with_reducible assumption | with_reducible apply flushStream_canonical
    | with_reducible refine flushStream_canonical_eq (by with_reducible assumption) ?_
    | with_reducible apply canonical_ite | with_reducible apply canonical_ite_fst | with_reducible apply canonical_ite_snd
    | with_reducible refine canonical_getD ?_ ?_ | simp only [canonical_mk] | split)

theorem holdItem_canonical_eq {s : State} {st : Stream} {item : List Byte × List Byte} {t_ a1_} (h_eq : State.holdItem s st item = (t_, a1_))
    (h_s : Canonical s) : Canonical t_ := by
  have h_p := holdItem_canonical s st item h_s
  rw [h_eq] at h_p; exact h_p

end Sys2Proof.Machine
end

