-- ==== Sys2Proof/Laws/CanonicalIdentity.lean ====
section
/-! SUPPORT. Every operation of Machine/Identity.lean keeps the canonical forms of memory and of the registers. -/

set_option simprocs false
set_option linter.unusedTactic false
set_option linter.unusedSimpArgs false
set_option linter.unreachableTactic false

namespace Sys2Proof.Machine

theorem setWords_canonical (s : State) (a : Nat) (bs : List Byte) (h_s : Canonical s) :
    Canonical (State.setWords s a bs) := by
  unfold State.setWords
  repeat' (first
    | intro _ | with_reducible assumption | with_reducible apply setRaw_canonical | with_reducible apply canonical_ite
    | with_reducible refine canonical_foldl ?_ ?_ | with_reducible refine canonical_foldl_snd ?_ ?_
    | with_reducible refine canonical_foldl_fst ?_ ?_ | simp only [canonical_mk] | split)

theorem measure_canonical (s : State) (r : Nat) (kind : Nat) (detail : Nat) (d : List Byte) (h_s : Canonical s) :
    Canonical (State.measure s r kind detail d) := by
  unfold State.measure
  repeat' (first
    | intro _ | with_reducible assumption | with_reducible apply bump_canonical | with_reducible apply setFld_canonical
    | with_reducible apply setWords_canonical | with_reducible apply take_canonical | with_reducible apply canonical_ite
    | simp only [canonical_mk] | split)

theorem sigReject_canonical (s : State) (h_s : Canonical s) :
    Canonical (State.sigReject s) := by
  unfold State.sigReject
  repeat' (first
    | intro _ | with_reducible assumption | with_reducible apply bump_canonical | with_reducible apply event_canonical
    | with_reducible apply canonical_ite | simp only [canonical_mk] | split)

theorem checkImage_canonical (s : State) (i : FwImage) (h_s : Canonical s) :
    Canonical (State.checkImage s i).2 := by
  unfold State.checkImage
  repeat' (first
    | intro _ | with_reducible assumption | with_reducible apply sigReject_canonical | with_reducible apply canonical_ite
    | with_reducible apply canonical_ite_fst | with_reducible apply canonical_ite_snd | simp only [canonical_mk] | split)

theorem checkImage_canonical_eq {s : State} {i : FwImage} {a0_ t_} (h_eq : State.checkImage s i = (a0_, t_))
    (h_s : Canonical s) : Canonical t_ := by
  have h_p := checkImage_canonical s i h_s
  rw [h_eq] at h_p; exact h_p

end Sys2Proof.Machine
end

