-- ==== Sys2Proof/Laws/CanonicalFirmware.lean ====
section
/-! SUPPORT. Every operation of Machine/Firmware.lean keeps the canonical forms of memory and of the registers. -/

set_option simprocs false
set_option linter.unusedTactic false
set_option linter.unusedSimpArgs false
set_option linter.unreachableTactic false

namespace Sys2Proof.Machine

theorem setFaults_canonical (s : State) (f : Faults → Faults) (h_s : Canonical s) :
    Canonical (State.setFaults s f) := by
  unfold State.setFaults
  repeat' (first
    | intro _ | with_reducible assumption | with_reducible apply canonical_ite | simp only [canonical_mk] | split)

theorem setFlash_canonical (s : State) (f : Flash → Flash) (h_s : Canonical s) :
    Canonical (State.setFlash s f) := by
  unfold State.setFlash
  repeat' (first
    | intro _ | with_reducible assumption | with_reducible apply canonical_ite | simp only [canonical_mk] | split)

theorem recordPermanent_canonical (s : State) (kind : Nat) (inst : Nat) (detail : Nat) (cls : Nat) (action : Nat) (h_s : Canonical s) :
    Canonical (State.recordPermanent s kind inst detail cls action) := by
  unfold State.recordPermanent
  repeat' (first
    | intro _ | with_reducible assumption | with_reducible apply bump_canonical | with_reducible apply event_canonical
    | with_reducible apply log_canonical | with_reducible apply logFree_canonical
    | with_reducible apply setFaults_canonical | with_reducible apply setFlash_canonical
    | with_reducible apply canonical_ite | simp only [canonical_mk] | split)

theorem setCore_canonical (s : State) (c : Nat) (f : Core → Core) (h_s : Canonical s) :
    Canonical (State.setCore s c f) := by
  unfold State.setCore
  repeat' (first
    | intro _ | with_reducible assumption | with_reducible apply canonical_ite | simp only [canonical_mk] | split)

theorem unservice_canonical (s : State) (logical : Nat) (h_s : Canonical s) :
    Canonical (State.unservice s logical) := by
  unfold State.unservice
  repeat' (first
    | intro _ | with_reducible assumption | with_reducible apply setFld_canonical | with_reducible apply canonical_ite
    | with_reducible apply canonical_ite_fst | with_reducible apply canonical_ite_snd
    | with_reducible refine canonical_foldl ?_ ?_ | with_reducible refine canonical_foldl_snd ?_ ?_
    | with_reducible refine canonical_foldl_fst ?_ ?_ | simp only [canonical_mk]
    | with_reducible refine canonicalOpt_eq (by with_reducible assumption) ?_
    | with_reducible refine canonicalOptFst_eq (by with_reducible assumption) ?_
    | with_reducible refine canonicalOptFst_eq_1 (by with_reducible assumption) ?_ | split
    | with_reducible apply canonicalOpt_none | with_reducible apply canonicalOpt_some
    | with_reducible apply canonicalOpt_map | with_reducible apply canonicalOpt_ite
    | with_reducible apply canonicalOpt_bind | with_reducible apply canonicalOpt_foldl
    | with_reducible apply canonicalOpt_bind_fst | with_reducible apply canonicalOpt_bind_any
    | with_reducible apply canonicalOptFst_none | with_reducible apply canonicalOptFst_some
    | with_reducible apply canonicalOptFst_map | with_reducible apply canonicalOptFst_ite
    | with_reducible apply canonicalOptFst_bind | with_reducible apply canonicalOptFst_foldl
    | with_reducible apply canonicalOptFst_bind_opt | with_reducible apply canonicalOptFst_bind_any
    | with_reducible apply canonicalOptSnd_none | with_reducible apply canonicalOptSnd_some
    | with_reducible apply canonicalOptSnd_ite)

theorem coreSpareUsed_canonical (s : State) (h_s : Canonical s) :
    Canonical (State.coreSpareUsed s) := by
  unfold State.coreSpareUsed
  repeat' (first
    | intro _ | with_reducible assumption | with_reducible apply event_canonical | with_reducible apply setFld_canonical
    | with_reducible apply canonical_ite | simp only [canonical_mk] | split)

theorem retireCore_canonical (s : State) (c : Nat) (h_s : Canonical s) :
    Canonical (State.retireCore s c) := by
  unfold State.retireCore
  repeat' (first
    | intro _ | with_reducible assumption | with_reducible apply bump_canonical
    | with_reducible apply coreSpareUsed_canonical | with_reducible apply event_canonical
    | with_reducible apply logFree_canonical | with_reducible apply setCore_canonical | with_reducible apply canonical_ite
    | simp only [canonical_mk] | with_reducible refine canonicalOpt_eq (by with_reducible assumption) ?_
    | with_reducible refine canonicalOptFst_eq (by with_reducible assumption) ?_
    | with_reducible refine canonicalOptFst_eq_1 (by with_reducible assumption) ?_ | split
    | with_reducible apply canonicalOpt_none | with_reducible apply canonicalOpt_some
    | with_reducible apply canonicalOpt_map | with_reducible apply canonicalOpt_ite
    | with_reducible apply canonicalOpt_bind | with_reducible apply canonicalOpt_foldl
    | with_reducible apply canonicalOpt_bind_fst | with_reducible apply canonicalOpt_bind_any
    | with_reducible apply canonicalOptFst_none | with_reducible apply canonicalOptFst_some
    | with_reducible apply canonicalOptFst_map | with_reducible apply canonicalOptFst_ite
    | with_reducible apply canonicalOptFst_bind | with_reducible apply canonicalOptFst_foldl
    | with_reducible apply canonicalOptFst_bind_opt | with_reducible apply canonicalOptFst_bind_any
    | with_reducible apply canonicalOptSnd_none | with_reducible apply canonicalOptSnd_some
    | with_reducible apply canonicalOptSnd_ite)

theorem retireAs_canonical (s : State) (c : Nat) (cls : Nat) (h_s : Canonical s) :
    Canonical (State.retireAs s c cls) := by
  unfold State.retireAs
  repeat' (first
    | intro _ | with_reducible assumption | with_reducible apply recordPermanent_canonical
    | with_reducible apply retireCore_canonical | with_reducible apply canonical_ite | simp only [canonical_mk] | split)

theorem crash_canonical (s : State) (c : Nat) (cause : Nat) (stamp : Stamp) (h_s : Canonical s) :
    Canonical (State.crash s c cause stamp) := by
  unfold State.crash
  repeat' (first
    | intro _ | with_reducible assumption | with_reducible apply bump_canonical | with_reducible apply event_canonical
    | with_reducible apply retireAs_canonical | with_reducible apply setCore_canonical
    | with_reducible apply unservice_canonical | with_reducible apply canonical_ite | simp only [canonical_mk]
    | with_reducible refine canonicalOpt_eq (by with_reducible assumption) ?_
    | with_reducible refine canonicalOptFst_eq (by with_reducible assumption) ?_
    | with_reducible refine canonicalOptFst_eq_1 (by with_reducible assumption) ?_ | split
    | with_reducible apply canonicalOpt_none | with_reducible apply canonicalOpt_some
    | with_reducible apply canonicalOpt_map | with_reducible apply canonicalOpt_ite
    | with_reducible apply canonicalOpt_bind | with_reducible apply canonicalOpt_foldl
    | with_reducible apply canonicalOpt_bind_fst | with_reducible apply canonicalOpt_bind_any
    | with_reducible apply canonicalOptFst_none | with_reducible apply canonicalOptFst_some
    | with_reducible apply canonicalOptFst_map | with_reducible apply canonicalOptFst_ite
    | with_reducible apply canonicalOptFst_bind | with_reducible apply canonicalOptFst_foldl
    | with_reducible apply canonicalOptFst_bind_opt | with_reducible apply canonicalOptFst_bind_any
    | with_reducible apply canonicalOptSnd_none | with_reducible apply canonicalOptSnd_some
    | with_reducible apply canonicalOptSnd_ite)

theorem watchdogExpiryStep_canonical (c : Nat) (s : State) (h_s : Canonical s) :
    Canonical (watchdogExpiryStep c s) := by
  unfold watchdogExpiryStep
  repeat' (first
    | intro _ | with_reducible assumption | with_reducible apply crash_canonical | with_reducible apply canonical_ite
    | simp only [canonical_mk] | split)

theorem coreExceptionStep_canonical (c : Nat) (cause : CrashCause) (s : State) (h_s : Canonical s) :
    Canonical (coreExceptionStep c cause s) := by
  unfold coreExceptionStep
  repeat' (first
    | intro _ | with_reducible assumption | with_reducible apply crash_canonical | with_reducible apply canonical_ite
    | simp only [canonical_mk] | split)

theorem watchdogKickStep_canonical (c : Nat) (s : State) (h_s : Canonical s) :
    Canonical (watchdogKickStep c s) := by
  unfold watchdogKickStep
  repeat' (first
    | intro _ | with_reducible assumption | with_reducible apply setCore_canonical | with_reducible apply canonical_ite
    | simp only [canonical_mk] | split)

theorem bodyMbHello_canonical (c : Cmd) (s : State) (h_s : Canonical s) :
    Canonical (bodyMbHello c s) := by
  unfold bodyMbHello
  repeat' (first
    | intro _ | with_reducible assumption | with_reducible apply refuse_canonical | with_reducible apply reply_canonical
    | with_reducible apply setQp_canonical | with_reducible apply shaped_canonical | with_reducible apply canonical_ite
    | with_reducible refine canonical_getD ?_ ?_ | simp only [canonical_mk] | split)

theorem mbReply_canonical (s : State) (c : Cmd) (body : List Byte) (h_s : Canonical s) :
    Canonical (State.mbReply s c body) := by
  unfold State.mbReply
  repeat' (first
    | intro _ | with_reducible assumption | with_reducible apply reply_canonical | with_reducible apply take_canonical
    | with_reducible apply canonical_ite | simp only [canonical_mk] | split)

theorem mbFwInfo_canonical (c : Cmd) (s : State) (h_s : Canonical s) :
    Canonical (mbFwInfo c s) := by
  unfold mbFwInfo
  repeat' (first
    | intro _ | with_reducible assumption | with_reducible apply mbReply_canonical | with_reducible apply canonical_ite
    | with_reducible refine canonical_getD ?_ ?_ | simp only [canonical_mk]
    | with_reducible refine canonicalOpt_eq (by with_reducible assumption) ?_
    | with_reducible refine canonicalOptFst_eq (by with_reducible assumption) ?_
    | with_reducible refine canonicalOptFst_eq_1 (by with_reducible assumption) ?_ | split
    | with_reducible apply canonicalOpt_none | with_reducible apply canonicalOpt_some
    | with_reducible apply canonicalOpt_map | with_reducible apply canonicalOpt_ite
    | with_reducible apply canonicalOpt_bind | with_reducible apply canonicalOpt_foldl
    | with_reducible apply canonicalOpt_bind_fst | with_reducible apply canonicalOpt_bind_any
    | with_reducible apply canonicalOptFst_none | with_reducible apply canonicalOptFst_some
    | with_reducible apply canonicalOptFst_map | with_reducible apply canonicalOptFst_ite
    | with_reducible apply canonicalOptFst_bind | with_reducible apply canonicalOptFst_foldl
    | with_reducible apply canonicalOptFst_bind_opt | with_reducible apply canonicalOptFst_bind_any
    | with_reducible apply canonicalOptSnd_none | with_reducible apply canonicalOptSnd_some
    | with_reducible apply canonicalOptSnd_ite)

theorem fwStore_canonical (s : State) (off : Nat) (bs : List Byte) (h_s : Canonical s) :
    Canonical (State.fwStore s off bs) := by
  unfold State.fwStore
  repeat' (first
    | intro _ | with_reducible assumption | with_reducible apply store_canonical | with_reducible apply canonical_ite
    | simp only [canonical_mk] | split)

theorem stage_canonical (s : State) (bs : List Byte) (h_s : Canonical s) :
    Canonical (State.stage s bs).2 := by
  unfold State.stage
  repeat' (first
    | intro _ | with_reducible assumption | with_reducible apply checkImage_canonical
    | with_reducible refine checkImage_canonical_eq (by with_reducible assumption) ?_
    | with_reducible apply fwStore_canonical | with_reducible apply hold_canonical | with_reducible apply canonical_ite
    | with_reducible apply canonical_ite_fst | with_reducible apply canonical_ite_snd
    | with_reducible refine canonical_getD ?_ ?_ | simp only [canonical_mk] | split)

theorem stage_canonical_eq {s : State} {bs : List Byte} {a0_ t_} (h_eq : State.stage s bs = (a0_, t_))
    (h_s : Canonical s) : Canonical t_ := by
  have h_p := stage_canonical s bs h_s
  rw [h_eq] at h_p; exact h_p

theorem mbFwStage_canonical (c : Cmd) (s : State) (h_s : Canonical s) :
    Canonical (mbFwStage c s) := by
  unfold mbFwStage
  repeat' (first
    | intro _ | with_reducible assumption | with_reducible apply dramUe_canonical | with_reducible apply mbReply_canonical
    | with_reducible apply refuse_canonical | with_reducible apply refuseBusy_canonical
    | with_reducible apply stage_canonical | with_reducible refine stage_canonical_eq (by with_reducible assumption) ?_
    | with_reducible apply canonical_ite | with_reducible refine canonical_getD ?_ ?_ | simp only [canonical_mk]
    | with_reducible refine canonicalOpt_eq (by with_reducible assumption) ?_
    | with_reducible refine canonicalOptFst_eq (by with_reducible assumption) ?_
    | with_reducible refine canonicalOptFst_eq_1 (by with_reducible assumption) ?_ | split
    | with_reducible apply canonicalOpt_none | with_reducible apply canonicalOpt_some
    | with_reducible apply canonicalOpt_map | with_reducible apply canonicalOpt_ite
    | with_reducible apply canonicalOpt_bind | with_reducible apply canonicalOpt_foldl
    | with_reducible apply canonicalOpt_bind_fst | with_reducible apply canonicalOpt_bind_any
    | with_reducible apply canonicalOptFst_none | with_reducible apply canonicalOptFst_some
    | with_reducible apply canonicalOptFst_map | with_reducible apply canonicalOptFst_ite
    | with_reducible apply canonicalOptFst_bind | with_reducible apply canonicalOptFst_foldl
    | with_reducible apply canonicalOptFst_bind_opt | with_reducible apply canonicalOptFst_bind_any
    | with_reducible apply canonicalOptSnd_none | with_reducible apply canonicalOptSnd_some
    | with_reducible apply canonicalOptSnd_ite)

theorem mbCoreStatus_canonical (c : Cmd) (s : State) (h_s : Canonical s) :
    Canonical (mbCoreStatus c s) := by
  unfold mbCoreStatus
  repeat' (first
    | intro _ | with_reducible assumption | with_reducible apply mbReply_canonical | with_reducible apply canonical_ite
    | simp only [canonical_mk] | split)

theorem mbTraceSet_canonical (c : Cmd) (s : State) (h_s : Canonical s) :
    Canonical (mbTraceSet c s) := by
  unfold mbTraceSet
  repeat' (first
    | intro _ | with_reducible assumption | with_reducible apply mbReply_canonical
    | with_reducible apply setWords_canonical | with_reducible apply trace_canonical | with_reducible apply canonical_ite
    | simp only [canonical_mk] | split)

theorem mbLogMark_canonical (c : Cmd) (s : State) (h_s : Canonical s) :
    Canonical (mbLogMark c s) := by
  unfold mbLogMark
  repeat' (first
    | intro _ | with_reducible assumption | with_reducible apply log_canonical | with_reducible apply mbReply_canonical
    | with_reducible apply tick_canonical | with_reducible apply canonical_ite | simp only [canonical_mk] | split)

theorem cancelActivation_canonical (s : State) (h_s : Canonical s) :
    Canonical (State.cancelActivation s) := by
  unfold State.cancelActivation
  repeat' (first
    | intro _ | with_reducible assumption | with_reducible apply hold_canonical | with_reducible apply canonical_ite
    | simp only [canonical_mk] | split)

theorem mbActivationCancel_canonical (c : Cmd) (s : State) (h_s : Canonical s) :
    Canonical (mbActivationCancel c s) := by
  unfold mbActivationCancel
  repeat' (first
    | intro _ | with_reducible assumption | with_reducible apply cancelActivation_canonical
    | with_reducible apply mbReply_canonical | with_reducible apply canonical_ite | simp only [canonical_mk] | split)

theorem bodyMbMessage_canonical (c : Cmd) (s : State) (h_s : Canonical s) :
    Canonical (bodyMbMessage c s) := by
  unfold bodyMbMessage
  repeat' (first
    | intro _ | with_reducible assumption | with_reducible apply refuse_canonical
    | with_reducible apply mbActivationCancel_canonical | with_reducible apply mbCoreStatus_canonical
    | with_reducible apply mbFwInfo_canonical | with_reducible apply mbFwStage_canonical
    | with_reducible apply mbLogMark_canonical | with_reducible apply mbTraceSet_canonical
    | with_reducible apply canonical_ite | simp only [canonical_mk] | split)

theorem beginActivation_canonical (s : State) (owed : Option Nat) (h_s : Canonical s) :
    Canonical (State.beginActivation s owed) := by
  unfold State.beginActivation
  repeat' (first
    | intro _ | with_reducible assumption | with_reducible apply hold_canonical | with_reducible apply canonical_ite
    | simp only [canonical_mk] | split)

theorem dropStaged_canonical (s : State) (act : Nat) (h_s : Canonical s) :
    Canonical (State.dropStaged s act) := by
  unfold State.dropStaged
  repeat' (first
    | intro _ | with_reducible assumption | with_reducible apply hold_canonical | with_reducible apply canonical_ite
    | simp only [canonical_mk] | split)

theorem bodyFwActivate_canonical (c : Cmd) (s : State) (h_s : Canonical s) :
    Canonical (bodyFwActivate c s) := by
  unfold bodyFwActivate
  repeat' (first
    | intro _ | with_reducible assumption | with_reducible apply beginActivation_canonical
    | with_reducible apply cancelActivation_canonical | with_reducible apply checkImage_canonical
    | with_reducible refine checkImage_canonical_eq (by with_reducible assumption) ?_
    | with_reducible apply dropStaged_canonical | with_reducible apply event_canonical
    | with_reducible apply hold_canonical | with_reducible apply refuse_canonical
    | with_reducible apply refuseBusy_canonical | with_reducible apply shaped_canonical
    | with_reducible apply canonical_ite | simp only [canonical_mk] | split)

theorem normalHoldEndStep_canonical (s : State) (h_s : Canonical s) :
    Canonical (normalHoldEndStep s) := by
  unfold normalHoldEndStep
  repeat' (first
    | intro _ | with_reducible assumption | with_reducible apply beginActivation_canonical
    | with_reducible apply checkImage_canonical
    | with_reducible refine checkImage_canonical_eq (by with_reducible assumption) ?_
    | with_reducible apply dropStaged_canonical | with_reducible apply event_canonical
    | with_reducible apply hold_canonical | with_reducible apply canonical_ite | simp only [canonical_mk] | split)

theorem holdReport_canonical (s : State) (normal : Bool) (h_s : Canonical s) :
    Canonical (State.holdReport s normal) := by
  unfold State.holdReport
  repeat' (first
    | intro _ | with_reducible assumption | with_reducible apply hold_canonical
    | with_reducible apply normalHoldEndStep_canonical | with_reducible apply canonical_ite | simp only [canonical_mk]
    | split)

theorem restartCluster_canonical (s : State) (k : Nat) (h_s : Canonical s) :
    Canonical (State.restartCluster s k) := by
  unfold State.restartCluster
  repeat' (first
    | intro _ | with_reducible assumption | with_reducible apply setCore_canonical | with_reducible apply canonical_ite
    | with_reducible refine canonical_foldl ?_ ?_ | with_reducible refine canonical_foldl_snd ?_ ?_
    | with_reducible refine canonical_foldl_fst ?_ ?_ | simp only [canonical_mk] | split)

theorem completeActivation_canonical (s : State) (a : Activation) (h_s : Canonical s) :
    Canonical (State.completeActivation s a) := by
  unfold State.completeActivation
  repeat' (first
    | intro _ | with_reducible assumption | with_reducible apply event_canonical | with_reducible apply fwStore_canonical
    | with_reducible apply logFree_canonical | with_reducible apply measure_canonical
    | with_reducible apply refuse_canonical | with_reducible apply canonical_ite | simp only [canonical_mk]
    | with_reducible refine canonicalOpt_eq (by with_reducible assumption) ?_
    | with_reducible refine canonicalOptFst_eq (by with_reducible assumption) ?_
    | with_reducible refine canonicalOptFst_eq_1 (by with_reducible assumption) ?_ | split
    | with_reducible apply canonicalOpt_none | with_reducible apply canonicalOpt_some
    | with_reducible apply canonicalOpt_map | with_reducible apply canonicalOpt_ite
    | with_reducible apply canonicalOpt_bind | with_reducible apply canonicalOpt_foldl
    | with_reducible apply canonicalOpt_bind_fst | with_reducible apply canonicalOpt_bind_any
    | with_reducible apply canonicalOptFst_none | with_reducible apply canonicalOptFst_some
    | with_reducible apply canonicalOptFst_map | with_reducible apply canonicalOptFst_ite
    | with_reducible apply canonicalOptFst_bind | with_reducible apply canonicalOptFst_foldl
    | with_reducible apply canonicalOptFst_bind_opt | with_reducible apply canonicalOptFst_bind_any
    | with_reducible apply canonicalOptSnd_none | with_reducible apply canonicalOptSnd_some
    | with_reducible apply canonicalOptSnd_ite)

theorem clusterReady_canonical (s : State) (h_s : Canonical s) :
    Canonical (State.clusterReady s) := by
  unfold State.clusterReady
  repeat' (first
    | intro _ | with_reducible assumption | with_reducible apply completeActivation_canonical
    | with_reducible apply canonical_ite | simp only [canonical_mk] | split)

theorem clusterRestartStep_canonical (k : Nat) (s : State) (h_s : Canonical s) :
    Canonical (clusterRestartStep k s) := by
  unfold clusterRestartStep
  repeat' (first
    | intro _ | with_reducible assumption | with_reducible apply clusterReady_canonical
    | with_reducible apply restartCluster_canonical | with_reducible apply canonical_ite | simp only [canonical_mk]
    | split)

theorem activationReadyTimeoutStep_canonical (k : Nat) (s : State) (h_s : Canonical s) :
    Canonical (activationReadyTimeoutStep k s) := by
  unfold activationReadyTimeoutStep
  repeat' (first
    | intro _ | with_reducible assumption | with_reducible apply dropStaged_canonical
    | with_reducible apply event_canonical | with_reducible apply refuse_canonical
    | with_reducible apply restartCluster_canonical | with_reducible apply canonical_ite
    | with_reducible refine canonical_foldl ?_ ?_ | with_reducible refine canonical_foldl_snd ?_ ?_
    | with_reducible refine canonical_foldl_fst ?_ ?_ | simp only [canonical_mk] | split)

theorem fwUpdateStageStep_canonical (v : Reg) (s : State) (h_s : Canonical s) :
    Canonical (fwUpdateStageStep v s) := by
  unfold fwUpdateStageStep
  repeat' (first
    | intro _ | with_reducible assumption | with_reducible apply dramUe_canonical | with_reducible apply setFld_canonical
    | with_reducible apply stage_canonical | with_reducible refine stage_canonical_eq (by with_reducible assumption) ?_
    | with_reducible apply coreExceptionStep_canonical | with_reducible apply canonical_ite | simp only [canonical_mk]
    | split)

theorem lkgFlashWriteStep_canonical (s : State) (h_s : Canonical s) :
    Canonical (lkgFlashWriteStep s) := by
  unfold lkgFlashWriteStep
  repeat' (first
    | intro _ | with_reducible assumption | with_reducible apply checkImage_canonical
    | with_reducible refine checkImage_canonical_eq (by with_reducible assumption) ?_ | with_reducible apply canonical_ite
    | with_reducible apply canonical_ite_fst | with_reducible apply canonical_ite_snd
    | with_reducible refine canonical_getD ?_ ?_ | simp only [canonical_mk] | split)

theorem bodyLogRead_canonical (c : Cmd) (s : State) (h_s : Canonical s) :
    Canonical (bodyLogRead c s) := by
  unfold bodyLogRead
  repeat' (first
    | intro _ | with_reducible assumption | with_reducible apply refuse_canonical
    | with_reducible apply replyData_canonical | with_reducible apply shaped_canonical
    | with_reducible apply take_canonical | with_reducible apply canonical_ite | simp only [canonical_mk] | split)

end Sys2Proof.Machine
end

