-- ==== Sys2Proof/Laws/CanonicalInterrupts.lean ====
section
/-! SUPPORT. Every operation of Machine/Interrupts.lean keeps the canonical forms of memory and of the registers. -/

set_option simprocs false
set_option linter.unusedTactic false
set_option linter.unusedSimpArgs false
set_option linter.unreachableTactic false

namespace Sys2Proof.Machine

theorem interruptEventStep_canonical (n : Nat) (s : State) (h_s : Canonical s) :
    Canonical (interruptEventStep n s) := by
  unfold interruptEventStep
  repeat' (first
    | intro _ | with_reducible assumption | with_reducible apply icuEvent_canonical | with_reducible apply canonical_ite
    | simp only [canonical_mk] | split)

theorem interruptGroupTimerStep_canonical (g : Nat) (s : State) (h_s : Canonical s) :
    Canonical (interruptGroupTimerStep g s) := by
  unfold interruptGroupTimerStep
  repeat' (first
    | intro _ | with_reducible assumption | with_reducible apply icuOpen_canonical
    | with_reducible apply icuSettle_canonical | with_reducible apply canonical_ite | simp only [canonical_mk] | split)

theorem claim_canonical (s : State) (c : Nat) (n : Nat) (fast : Bool) (h_s : Canonical s) :
    Canonical (State.claim s c n fast) := by
  unfold State.claim
  repeat' (first
    | intro _ | with_reducible assumption | with_reducible apply setFld_canonical | with_reducible apply setRaw_canonical
    | with_reducible apply canonical_ite | with_reducible apply canonical_ite_fst | with_reducible apply canonical_ite_snd
    | simp only [canonical_mk] | split)

theorem claimOf_canonical (s : State) (c : Nat) (y0 : Option Nat) (y1 : Option Nat) (h_s : Canonical s) :
    Canonical (State.claimOf s c y0 y1) := by
  unfold State.claimOf
  repeat' (first
    | intro _ | with_reducible assumption | with_reducible apply claim_canonical | with_reducible apply setRaw_canonical
    | with_reducible apply canonical_ite | simp only [canonical_mk] | split)

theorem interruptClaimStep_canonical (c : Nat) (s : State) (h_s : Canonical s) :
    Canonical (interruptClaimStep c s) := by
  unfold interruptClaimStep
  repeat' (first
    | intro _ | with_reducible assumption | with_reducible apply claimOf_canonical | with_reducible apply canonical_ite
    | with_reducible apply canonical_ite_fst | with_reducible apply canonical_ite_snd | simp only [canonical_mk] | split)

theorem interruptCompleteStep_canonical (c : Nat) (n : Nat) (s : State) (h_s : Canonical s) :
    Canonical (interruptCompleteStep c n s) := by
  unfold interruptCompleteStep
  repeat' (first
    | intro _ | with_reducible assumption | with_reducible apply icuSettle_canonical
    | with_reducible apply setFld_canonical | with_reducible apply canonical_ite | with_reducible apply canonical_ite_fst
    | with_reducible apply canonical_ite_snd | simp only [canonical_mk] | split)

theorem interruptPendSetStep_canonical (i : Nat) (v : Reg) (s : State) (h_s : Canonical s) :
    Canonical (interruptPendSetStep i v s) := by
  unfold interruptPendSetStep
  repeat' (first
    | intro _ | with_reducible assumption | with_reducible apply icuEvent_canonical | with_reducible apply canonical_ite
    | with_reducible refine canonical_foldl ?_ ?_ | with_reducible refine canonical_foldl_snd ?_ ?_
    | with_reducible refine canonical_foldl_fst ?_ ?_ | simp only [canonical_mk] | split)

theorem interruptPendClrStep_canonical (i : Nat) (v : Reg) (s : State) (h_s : Canonical s) :
    Canonical (interruptPendClrStep i v s) := by
  unfold interruptPendClrStep
  repeat' (first
    | intro _ | with_reducible assumption | with_reducible apply icuSettle_canonical
    | with_reducible apply setFld_canonical | with_reducible apply canonical_ite
    | with_reducible refine canonical_foldl ?_ ?_ | with_reducible refine canonical_foldl_snd ?_ ?_
    | with_reducible refine canonical_foldl_fst ?_ ?_ | simp only [canonical_mk] | split)

end Sys2Proof.Machine
end

