-- ==== Sys2Proof/Laws/CanonicalTiers.lean ====
section
/-! SUPPORT. Every operation of Machine/Tiers.lean keeps the canonical forms of memory and of the registers. -/

set_option simprocs false
set_option linter.unusedTactic false
set_option linter.unusedSimpArgs false
set_option linter.unreachableTactic false

namespace Sys2Proof.Machine

theorem hold_canonical (s : State) (a : Nat) (n : Nat) (h_s : Canonical s) :
    Canonical (State.hold s a n) := by
  unfold State.hold
  repeat' (first
    | intro _ | with_reducible assumption | with_reducible apply canonical_ite | simp only [canonical_mk] | split)

theorem release_canonical (s : State) (a : Nat) (h_s : Canonical s) :
    Canonical (State.release s a) := by
  unfold State.release
  repeat' (first
    | intro _ | with_reducible assumption | with_reducible apply canonical_ite | with_reducible apply canonical_ite_fst
    | with_reducible apply canonical_ite_snd | simp only [canonical_mk] | split)

theorem setObj_canonical (s : State) (p : Nat) (id : Nat) (f : TierObj → TierObj) (h_s : Canonical s) :
    Canonical (State.setObj s p id f) := by
  unfold State.setObj
  repeat' (first
    | intro _ | with_reducible assumption | with_reducible apply canonical_ite | with_reducible apply canonical_ite_fst
    | with_reducible apply canonical_ite_snd | simp only [canonical_mk] | split)

theorem addObj_canonical (s : State) (p : Nat) (o : TierObj) (h_s : Canonical s) :
    Canonical (State.addObj s p o) := by
  unfold State.addObj
  repeat' (first
    | intro _ | with_reducible assumption | with_reducible apply canonical_ite | simp only [canonical_mk] | split)

theorem free1_canonical (s : State) (p : Nat) (o : TierObj) (h_s : Canonical s) :
    Canonical (State.free1 s p o) := by
  unfold State.free1
  repeat' (first
    | intro _ | with_reducible assumption | with_reducible apply release_canonical | with_reducible apply canonical_ite
    | with_reducible refine canonical_foldl ?_ ?_ | with_reducible refine canonical_foldl_snd ?_ ?_
    | with_reducible refine canonical_foldl_fst ?_ ?_ | simp only [canonical_mk] | split)

theorem delObj_canonical (s : State) (p : Nat) (id : Nat) (h_s : Canonical s) :
    Canonical (State.delObj s p id) := by
  unfold State.delObj
  repeat' (first
    | intro _ | with_reducible assumption | with_reducible apply free1_canonical | with_reducible apply release_canonical
    | with_reducible apply canonical_ite | with_reducible apply canonical_ite_fst | with_reducible apply canonical_ite_snd
    | simp only [canonical_mk] | split)

theorem pin_canonical (s : State) (p : Nat) (id : Nat) (h_s : Canonical s) :
    CanonicalOpt (State.pin s p id) := by
  unfold State.pin
  repeat' (first
    | intro _ | with_reducible assumption | with_reducible apply setObj_canonical | with_reducible apply canonical_ite
    | with_reducible apply canonicalOpt_none | with_reducible apply canonicalOpt_some
    | with_reducible apply canonicalOpt_map | with_reducible apply canonicalOpt_ite
    | with_reducible apply canonicalOpt_bind | with_reducible apply canonicalOpt_foldl
    | with_reducible apply canonicalOpt_bind_fst | with_reducible apply canonicalOpt_bind_any | simp only [canonical_mk]
    | split)

theorem pin_canonical_eq {s : State} {p : Nat} {id : Nat} {t : State} (h_eq : State.pin s p id = some t)
    (h_s : Canonical s) : Canonical t :=
  (pin_canonical s p id h_s).elim t h_eq

theorem unpin_canonical (s : State) (p : Nat) (id : Nat) (h_s : Canonical s) :
    Canonical (State.unpin s p id) := by
  unfold State.unpin
  repeat' (first
    | intro _ | with_reducible assumption | with_reducible apply setObj_canonical | with_reducible apply canonical_ite
    | simp only [canonical_mk] | split)

theorem codecError_canonical (s : State) (a : Nat) (h_s : Canonical s) :
    Canonical (State.codecError s a) := by
  unfold State.codecError
  repeat' (first
    | intro _ | with_reducible assumption | with_reducible apply event_canonical | with_reducible apply report_canonical
    | with_reducible apply canonical_ite | with_reducible apply canonical_ite_fst | with_reducible apply canonical_ite_snd
    | simp only [canonical_mk] | split)

theorem objContent_canonical (s : State) (p : Nat) (o : TierObj) (h_s : Canonical s) :
    Canonical (State.objContent s p o).2 := by
  unfold State.objContent
  repeat' (first
    | intro _ | with_reducible assumption | with_reducible apply codecError_canonical
    | with_reducible apply noteRead_canonical | with_reducible apply canonical_ite
    | with_reducible apply canonical_ite_fst | with_reducible apply canonical_ite_snd
    | with_reducible refine canonical_getD ?_ ?_ | simp only [canonical_mk] | split)

theorem objContent_canonical_eq {s : State} {p : Nat} {o : TierObj} {a0_ t_} (h_eq : State.objContent s p o = (a0_, t_))
    (h_s : Canonical s) : Canonical t_ := by
  have h_p := objContent_canonical s p o h_s
  rw [h_eq] at h_p; exact h_p

theorem storeStrided_canonical (s : State) (p : Nat) (a : Nat) (bs : List Byte) (h_s : Canonical s) :
    Canonical (State.storeStrided s p a bs) := by
  unfold State.storeStrided
  repeat' (first
    | intro _ | with_reducible assumption | with_reducible apply store_canonical | with_reducible apply canonical_ite
    | with_reducible refine canonical_foldl ?_ ?_ | with_reducible refine canonical_foldl_snd ?_ ?_
    | with_reducible refine canonical_foldl_fst ?_ ?_ | simp only [canonical_mk] | split)

theorem place1_canonical (s : State) (p : Nat) (k : Nat) (n : Nat) (comp : Bool) (h_s : Canonical s) :
    CanonicalOptFst (State.place1 s p k n comp) := by
  unfold State.place1
  repeat' (first
    | intro _ | with_reducible assumption | with_reducible apply hold_canonical | with_reducible apply canonical_ite
    | with_reducible refine canonical_foldl ?_ ?_ | with_reducible refine canonical_foldl_snd ?_ ?_
    | with_reducible refine canonical_foldl_fst ?_ ?_ | with_reducible apply canonicalOptFst_none
    | with_reducible apply canonicalOptFst_some | with_reducible apply canonicalOptFst_map
    | with_reducible apply canonicalOptFst_ite | with_reducible apply canonicalOptFst_bind
    | with_reducible apply canonicalOptFst_foldl | with_reducible apply canonicalOptFst_bind_opt
    | with_reducible apply canonicalOptFst_bind_any | with_reducible apply canonicalOptSnd_none
    | with_reducible apply canonicalOptSnd_some | with_reducible apply canonicalOptSnd_ite | simp only [canonical_mk]
    | with_reducible refine canonicalOpt_eq (by with_reducible assumption) ?_
    | with_reducible refine canonicalOptFst_eq (by with_reducible assumption) ?_
    | with_reducible refine canonicalOptFst_eq_1 (by with_reducible assumption) ?_ | split
    | with_reducible apply canonicalOpt_none | with_reducible apply canonicalOpt_some
    | with_reducible apply canonicalOpt_map | with_reducible apply canonicalOpt_ite
    | with_reducible apply canonicalOpt_bind | with_reducible apply canonicalOpt_foldl
    | with_reducible apply canonicalOpt_bind_fst | with_reducible apply canonicalOpt_bind_any)

theorem place1_canonical_eq_1 {s : State} {p : Nat} {k : Nat} {n : Nat} {comp : Bool} {r} (h_eq : State.place1 s p k n comp = some r)
    (h_s : Canonical s) : Canonical r.1 :=
  (place1_canonical s p k n comp h_s).elim _ h_eq

theorem place1_canonical_eq {s : State} {p : Nat} {k : Nat} {n : Nat} {comp : Bool} {a_ t} (h_eq : State.place1 s p k n comp = some (t, a_))
    (h_s : Canonical s) : Canonical t :=
  (place1_canonical s p k n comp h_s).elim _ h_eq

theorem put1_canonical (s : State) (p : Nat) (a : Nat) (comp : Bool) (bs : List Byte) (h_s : Canonical s) :
    Canonical (State.put1 s p a comp bs) := by
  unfold State.put1
  repeat' (first
    | intro _ | with_reducible assumption | with_reducible apply store_canonical
    | with_reducible apply storeStrided_canonical | with_reducible apply canonical_ite | simp only [canonical_mk] | split)

theorem loseBlock_canonical (s : State) (p : Nat) (id : Nat) (h_s : Canonical s) :
    Canonical (State.loseBlock s p id) := by
  unfold State.loseBlock
  repeat' (first
    | intro _ | with_reducible assumption | with_reducible apply free1_canonical | with_reducible apply release_canonical
    | with_reducible apply setObj_canonical | with_reducible apply canonical_ite | simp only [canonical_mk] | split)

theorem lostIfKv_canonical (s : State) (p : Nat) (id : Nat) (h_s : Canonical s) :
    Canonical (State.lostIfKv s p id) := by
  unfold State.lostIfKv
  repeat' (first
    | intro _ | with_reducible assumption | with_reducible apply loseBlock_canonical | with_reducible apply canonical_ite
    | simp only [canonical_mk] | split)

theorem evictWrite_canonical (s : State) (p : Nat) (id : Nat) (h_s : Canonical s) :
    Canonical (State.evictWrite s p id).2 := by
  unfold State.evictWrite
  repeat' (first
    | intro _ | with_reducible assumption | with_reducible apply bump_canonical
    | with_reducible apply codecError_canonical | with_reducible apply hold_canonical
    | with_reducible apply lostIfKv_canonical | with_reducible apply noteRead_canonical
    | with_reducible apply release_canonical | with_reducible apply setObj_canonical
    | with_reducible apply store_canonical | with_reducible apply canonical_ite | with_reducible apply canonical_ite_fst
    | with_reducible apply canonical_ite_snd | with_reducible refine canonical_getD ?_ ?_ | simp only [canonical_mk]
    | split)

theorem evictWrite_canonical_eq {s : State} {p : Nat} {id : Nat} {a0_ t_} (h_eq : State.evictWrite s p id = (a0_, t_))
    (h_s : Canonical s) : Canonical t_ := by
  have h_p := evictWrite_canonical s p id h_s
  rw [h_eq] at h_p; exact h_p

theorem leave_canonical (s : State) (p : Nat) (id : Nat) (m : Mover) (h_s : Canonical s) :
    Canonical (State.leave s p id m).2 := by
  unfold State.leave
  repeat' (first
    | intro _ | with_reducible assumption | with_reducible apply evictWrite_canonical
    | with_reducible refine evictWrite_canonical_eq (by with_reducible assumption) ?_
    | with_reducible apply setObj_canonical | with_reducible apply canonical_ite | with_reducible apply canonical_ite_fst
    | with_reducible apply canonical_ite_snd | with_reducible refine canonical_getD ?_ ?_ | simp only [canonical_mk]
    | with_reducible refine canonicalOpt_eq (by with_reducible assumption) ?_
    | with_reducible refine canonicalOptFst_eq (by with_reducible assumption) ?_
    | with_reducible refine canonicalOptFst_eq_1 (by with_reducible assumption) ?_ | split
    | with_reducible apply canonicalOpt_none | with_reducible apply canonicalOpt_some
    | with_reducible apply canonicalOpt_map | with_reducible apply canonicalOpt_ite
    | with_reducible apply canonicalOpt_bind | with_reducible apply canonicalOpt_foldl
    | with_reducible apply canonicalOpt_bind_fst | with_reducible apply canonicalOpt_bind_any
    | with_reducible apply canonicalOptFst_none | with_reducible apply canonicalOptFst_some
    | with_reducible apply canonicalOptFst_map | with_reducible apply canonicalOptFst_ite
    | with_reducible apply canonicalOptFst_bind | with_reducible apply canonicalOptFst_foldl
    | with_reducible apply canonicalOptFst_bind_opt | with_reducible apply canonicalOptFst_bind_any
    | with_reducible apply canonicalOptSnd_none | with_reducible apply canonicalOptSnd_some
    | with_reducible apply canonicalOptSnd_ite)

theorem leave_canonical_eq {s : State} {p : Nat} {id : Nat} {m : Mover} {a0_ t_} (h_eq : State.leave s p id m = (a0_, t_))
    (h_s : Canonical s) : Canonical t_ := by
  have h_p := leave_canonical s p id m h_s
  rw [h_eq] at h_p; exact h_p

theorem evictCommit_canonical (s : State) (p : Nat) (id : Nat) (h_s : Canonical s) :
    Canonical (State.evictCommit s p id).2 := by
  unfold State.evictCommit
  repeat' (first
    | intro _ | with_reducible assumption | with_reducible apply bump_canonical | with_reducible apply free1_canonical
    | with_reducible apply setObj_canonical | with_reducible apply canonical_ite | with_reducible apply canonical_ite_fst
    | with_reducible apply canonical_ite_snd | simp only [canonical_mk] | split)

theorem evictCommit_canonical_eq {s : State} {p : Nat} {id : Nat} {a0_ t_} (h_eq : State.evictCommit s p id = (a0_, t_))
    (h_s : Canonical s) : Canonical t_ := by
  have h_p := evictCommit_canonical s p id h_s
  rw [h_eq] at h_p; exact h_p

theorem promote_canonical (s : State) (p : Nat) (id : Nat) (decoded : Bool) (h_s : Canonical s) :
    Canonical (State.promote s p id decoded).2 := by
  unfold State.promote
  repeat' (first
    | intro _ | with_reducible assumption | with_reducible apply lostIfKv_canonical
    | with_reducible apply noteRead_canonical | with_reducible apply objContent_canonical
    | with_reducible refine objContent_canonical_eq (by with_reducible assumption) ?_
    | with_reducible apply place1_canonical | with_reducible refine place1_canonical_eq (by with_reducible assumption) ?_
    | with_reducible refine place1_canonical_eq_1 (by with_reducible assumption) ?_ | with_reducible apply put1_canonical
    | with_reducible apply setObj_canonical | with_reducible apply canonical_ite | with_reducible apply canonical_ite_fst
    | with_reducible apply canonical_ite_snd | with_reducible refine canonical_getD ?_ ?_ | simp only [canonical_mk]
    | split)

theorem promote_canonical_eq {s : State} {p : Nat} {id : Nat} {decoded : Bool} {a0_ t_} (h_eq : State.promote s p id decoded = (a0_, t_))
    (h_s : Canonical s) : Canonical t_ := by
  have h_p := promote_canonical s p id decoded h_s
  rw [h_eq] at h_p; exact h_p

theorem lossyCopy1_canonical (s : State) (p : Nat) (id : Nat) (h_s : Canonical s) :
    Canonical (State.lossyCopy1 s p id) := by
  unfold State.lossyCopy1
  repeat' (first
    | intro _ | with_reducible assumption | with_reducible apply codecError_canonical
    | with_reducible apply free1_canonical | with_reducible apply place1_canonical
    | with_reducible refine place1_canonical_eq (by with_reducible assumption) ?_
    | with_reducible refine place1_canonical_eq_1 (by with_reducible assumption) ?_
    | with_reducible apply setObj_canonical | with_reducible apply storeStrided_canonical
    | with_reducible apply canonical_ite | with_reducible refine canonical_getD ?_ ?_ | simp only [canonical_mk] | split)

theorem memWriteAt_canonical (hot : List (Nat × Nat)) (c : Cmd) (s : State) (h_s : Canonical s) :
    Canonical (memWriteAt hot c s) := by
  unfold memWriteAt
  repeat' (first
    | intro _ | with_reducible assumption | with_reducible apply refuse_canonical
    | with_reducible apply refuseHint_canonical | with_reducible apply store_canonical
    | with_reducible apply canonical_ite | simp only [canonical_mk] | split)

theorem memReadAt_canonical (hot : List (Nat × Nat)) (c : Cmd) (s : State) (h_s : Canonical s) :
    Canonical (memReadAt hot c s) := by
  unfold memReadAt
  repeat' (first
    | intro _ | with_reducible assumption | with_reducible apply dramUe_canonical | with_reducible apply readCe_canonical
    | with_reducible apply refuse_canonical | with_reducible apply refuseHint_canonical
    | with_reducible apply replyData_canonical | with_reducible apply shaped_canonical
    | with_reducible apply canonical_ite | simp only [canonical_mk] | split)

theorem promoteAs_canonical (s : State) (p : Nat) (id : Nat) (decoded : Bool) (h_s : Canonical s) :
    Canonical (State.promoteAs s p id decoded).2 := by
  unfold State.promoteAs
  repeat' (first
    | intro _ | with_reducible assumption | with_reducible apply lossyCopy1_canonical
    | with_reducible apply promote_canonical
    | with_reducible refine promote_canonical_eq (by with_reducible assumption) ?_ | with_reducible apply canonical_ite
    | with_reducible apply canonical_ite_fst | with_reducible apply canonical_ite_snd | simp only [canonical_mk] | split)

theorem promoteAs_canonical_eq {s : State} {p : Nat} {id : Nat} {decoded : Bool} {a0_ t_} (h_eq : State.promoteAs s p id decoded = (a0_, t_))
    (h_s : Canonical s) : Canonical t_ := by
  have h_p := promoteAs_canonical s p id decoded h_s
  rw [h_eq] at h_p; exact h_p

theorem promoteAll_canonical (p : Nat) (hold : Bool) (decoded : Bool) (y0 : List Nat) (y1 : State) (h_y1 : Canonical y1) :
    Canonical (promoteAll p hold decoded y0 y1).2 := by
  revert h_y1
  fun_induction promoteAll p hold decoded y0 y1 <;> intro h_y1
  all_goals
    repeat' (first
      | intro _ | with_reducible assumption | with_reducible apply_assumption -exfalso -symm
      | with_reducible apply hold_canonical | with_reducible apply promoteAs_canonical
      | with_reducible refine promoteAs_canonical_eq (by with_reducible assumption) ?_
      | with_reducible apply setObj_canonical | with_reducible apply canonical_ite
      | with_reducible apply canonical_ite_fst | with_reducible apply canonical_ite_snd | simp only [canonical_mk] | split
      | (simp +zetaDelta only [canonical_mk]; done) | simp +zetaDelta only [canonical_mk])

theorem promoteAll_canonical_eq {p : Nat} {hold : Bool} {decoded : Bool} {y0 : List Nat} {y1 : State} {a0_ t_} (h_eq : promoteAll p hold decoded y0 y1 = (a0_, t_))
    (h_y1 : Canonical y1) : Canonical t_ := by
  have h_p := promoteAll_canonical p hold decoded y0 y1 h_y1
  rw [h_eq] at h_p; exact h_p

theorem bodyTierPromote_canonical (c : Cmd) (s : State) (h_s : Canonical s) :
    Canonical (bodyTierPromote c s) := by
  unfold bodyTierPromote
  repeat' (first
    | intro _ | with_reducible assumption | with_reducible apply pin_canonical
    | with_reducible refine pin_canonical_eq (by with_reducible assumption) ?_ | with_reducible apply refuse_canonical
    | with_reducible apply refuseBusy_canonical | with_reducible apply setObj_canonical
    | with_reducible apply shaped_canonical | with_reducible apply promoteAll_canonical
    | with_reducible refine promoteAll_canonical_eq (by with_reducible assumption) ?_ | with_reducible apply canonical_ite
    | with_reducible refine canonical_foldl ?_ ?_ | with_reducible refine canonical_foldl_snd ?_ ?_
    | with_reducible refine canonical_foldl_fst ?_ ?_ | simp only [canonical_mk] | split)

theorem evictAll_canonical (p : Nat) (y0 : List Nat) (y1 : State) (h_y1 : Canonical y1) :
    Canonical (evictAll p y0 y1).2 := by
  revert h_y1
  fun_induction evictAll p y0 y1 <;> intro h_y1
  all_goals
    repeat' (first
      | intro _ | with_reducible assumption | with_reducible apply_assumption -exfalso -symm
      | with_reducible apply leave_canonical | with_reducible refine leave_canonical_eq (by with_reducible assumption) ?_
      | with_reducible apply canonical_ite | with_reducible apply canonical_ite_fst
      | with_reducible apply canonical_ite_snd | simp only [canonical_mk] | split
      | (simp +zetaDelta only [canonical_mk]; done) | simp +zetaDelta only [canonical_mk])

theorem evictAll_canonical_eq {p : Nat} {y0 : List Nat} {y1 : State} {a0_ t_} (h_eq : evictAll p y0 y1 = (a0_, t_))
    (h_y1 : Canonical y1) : Canonical t_ := by
  have h_p := evictAll_canonical p y0 y1 h_y1
  rw [h_eq] at h_p; exact h_p

theorem bodyTierEvict_canonical (c : Cmd) (s : State) (h_s : Canonical s) :
    Canonical (bodyTierEvict c s) := by
  unfold bodyTierEvict
  repeat' (first
    | intro _ | with_reducible assumption | with_reducible apply refuse_canonical
    | with_reducible apply refuseBusy_canonical | with_reducible apply shaped_canonical
    | with_reducible apply evictAll_canonical
    | with_reducible refine evictAll_canonical_eq (by with_reducible assumption) ?_ | with_reducible apply canonical_ite
    | with_reducible refine canonical_getD ?_ ?_ | simp only [canonical_mk]
    | with_reducible refine canonicalOpt_eq (by with_reducible assumption) ?_
    | with_reducible refine canonicalOptFst_eq (by with_reducible assumption) ?_
    | with_reducible refine canonicalOptFst_eq_1 (by with_reducible assumption) ?_ | split
    | with_reducible apply canonicalOpt_none | with_reducible apply canonicalOpt_some
    | with_reducible apply canonicalOpt_map | with_reducible apply canonicalOpt_ite
    | with_reducible apply canonicalOpt_bind | with_reducible apply canonicalOpt_foldl
    | with_reducible apply canonicalOpt_bind_fst | with_reducible apply canonicalOpt_bind_any
    | with_reducible apply canonicalOptFst_none | with_reducible apply canonicalOptFst_some
    | with_reducible apply canonicalOptFst_map | with_reducible apply canonicalOptFst_ite
    | with_reducible apply canonicalOptFst_bind | with_reducible apply canonicalOptFst_foldl
    | with_reducible apply canonicalOptFst_bind_opt | with_reducible apply canonicalOptFst_bind_any
    | with_reducible apply canonicalOptSnd_none | with_reducible apply canonicalOptSnd_some
    | with_reducible apply canonicalOptSnd_ite)

theorem bodyTierPolicySet_canonical (c : Cmd) (s : State) (h_s : Canonical s) :
    Canonical (bodyTierPolicySet c s) := by
  unfold bodyTierPolicySet
  repeat' (first
    | intro _ | with_reducible assumption | with_reducible apply refuse_canonical | with_reducible apply setRaw_canonical
    | with_reducible apply shaped_canonical | with_reducible apply canonical_ite | simp only [canonical_mk] | split)

theorem bodyTileDirQuery_canonical (c : Cmd) (s : State) (h_s : Canonical s) :
    Canonical (bodyTileDirQuery c s) := by
  unfold bodyTileDirQuery
  repeat' (first
    | intro _ | with_reducible assumption | with_reducible apply refuse_canonical | with_reducible apply reply_canonical
    | with_reducible apply shaped_canonical | with_reducible apply canonical_ite | simp only [canonical_mk] | split)

theorem retryEvict_canonical (s : State) (p : Nat) (id : Nat) (h_s : Canonical s) :
    Canonical (State.retryEvict s p id) := by
  unfold State.retryEvict
  repeat' (first
    | intro _ | with_reducible assumption | with_reducible apply canonical_ite | simp only [canonical_mk] | split)

theorem policyEvictOne_canonical (s : State) (p : Nat) (id : Nat) (h_s : Canonical s) :
    Canonical (State.policyEvictOne s p id).2 := by
  unfold State.policyEvictOne
  repeat' (first
    | intro _ | with_reducible assumption | with_reducible apply leave_canonical
    | with_reducible refine leave_canonical_eq (by with_reducible assumption) ?_
    | with_reducible apply retryEvict_canonical | with_reducible apply canonical_ite
    | with_reducible apply canonical_ite_fst | with_reducible apply canonical_ite_snd | simp only [canonical_mk] | split)

theorem policyEvictOne_canonical_eq {s : State} {p : Nat} {id : Nat} {a0_ t_} (h_eq : State.policyEvictOne s p id = (a0_, t_))
    (h_s : Canonical s) : Canonical t_ := by
  have h_p := policyEvictOne_canonical s p id h_s
  rw [h_eq] at h_p; exact h_p

theorem policyEvict_canonical (keep : Nat → Bool) (p : Nat) (y0 : Nat) (y1 : State) (h_y1 : Canonical y1) :
    Canonical (State.policyEvict keep p y0 y1) := by
  revert h_y1
  fun_induction State.policyEvict keep p y0 y1 <;> intro h_y1
  all_goals
    repeat' (first
      | intro _ | with_reducible assumption | with_reducible apply_assumption -exfalso -symm
      | with_reducible apply policyEvictOne_canonical
      | with_reducible refine policyEvictOne_canonical_eq (by with_reducible assumption) ?_
      | with_reducible apply canonical_ite | simp only [canonical_mk] | split
      | (simp +zetaDelta only [canonical_mk]; done) | simp +zetaDelta only [canonical_mk])

theorem tierPolicyEvictStep_canonical (keep : Nat → Bool) (p : Nat) (s : State) (h_s : Canonical s) :
    Canonical (tierPolicyEvictStep keep p s) := by
  unfold tierPolicyEvictStep
  repeat' (first
    | intro _ | with_reducible assumption | with_reducible apply policyEvict_canonical
    | with_reducible apply canonical_ite | simp only [canonical_mk] | split)

theorem evictRetryStep_canonical (p : Nat) (id : Nat) (s : State) (h_s : Canonical s) :
    Canonical (evictRetryStep p id s) := by
  unfold evictRetryStep
  repeat' (first
    | intro _ | with_reducible assumption | with_reducible apply policyEvictOne_canonical
    | with_reducible refine policyEvictOne_canonical_eq (by with_reducible assumption) ?_
    | with_reducible apply canonical_ite | with_reducible apply canonical_ite_fst | with_reducible apply canonical_ite_snd
    | simp only [canonical_mk] | split)

theorem commitOne_canonical (s : State) (p : Nat) (o : TierObj) (h_s : Canonical s) :
    Canonical (State.commitOne s p o) := by
  unfold State.commitOne
  repeat' (first
    | intro _ | with_reducible assumption | with_reducible apply evictCommit_canonical
    | with_reducible refine evictCommit_canonical_eq (by with_reducible assumption) ?_
    | with_reducible apply refuseBusy_canonical | with_reducible apply retryEvict_canonical
    | with_reducible apply canonical_ite | with_reducible apply canonical_ite_fst | with_reducible apply canonical_ite_snd
    | with_reducible refine canonical_foldl ?_ ?_ | with_reducible refine canonical_foldl_snd ?_ ?_
    | with_reducible refine canonical_foldl_fst ?_ ?_ | simp only [canonical_mk]
    | with_reducible refine canonicalOpt_eq (by with_reducible assumption) ?_
    | with_reducible refine canonicalOptFst_eq (by with_reducible assumption) ?_
    | with_reducible refine canonicalOptFst_eq_1 (by with_reducible assumption) ?_ | split
    | with_reducible apply canonicalOpt_none | with_reducible apply canonicalOpt_some
    | with_reducible apply canonicalOpt_map | with_reducible apply canonicalOpt_ite
    | with_reducible apply canonicalOpt_bind | with_reducible apply canonicalOpt_foldl
    | with_reducible apply canonicalOpt_bind_fst | with_reducible apply canonicalOpt_bind_any
    | with_reducible apply canonicalOptFst_none | with_reducible apply canonicalOptFst_some
    | with_reducible apply canonicalOptFst_map | with_reducible apply canonicalOptFst_ite
    | with_reducible apply canonicalOptFst_bind | with_reducible apply canonicalOptFst_foldl
    | with_reducible apply canonicalOptFst_bind_opt | with_reducible apply canonicalOptFst_bind_any
    | with_reducible apply canonicalOptSnd_none | with_reducible apply canonicalOptSnd_some
    | with_reducible apply canonicalOptSnd_ite)

theorem commitEvictions_canonical (s : State) (h_s : Canonical s) :
    Canonical (State.commitEvictions s) := by
  unfold State.commitEvictions
  repeat' (first
    | intro _ | with_reducible assumption | with_reducible apply commitOne_canonical
    | with_reducible apply refuse_canonical | with_reducible apply canonical_ite | with_reducible apply canonical_ite_fst
    | with_reducible apply canonical_ite_snd | with_reducible refine canonical_foldl ?_ ?_
    | with_reducible refine canonical_foldl_snd ?_ ?_ | with_reducible refine canonical_foldl_fst ?_ ?_
    | simp only [canonical_mk] | split)

theorem flushSlot_canonical (s : State) (p : Nat) (i : Nat) (h_s : Canonical s) :
    Canonical (State.flushSlot s p i) := by
  unfold State.flushSlot
  repeat' (first
    | intro _ | with_reducible assumption | with_reducible apply event_canonical | with_reducible apply store_canonical
    | with_reducible apply canonical_ite | with_reducible apply canonical_ite_fst | with_reducible apply canonical_ite_snd
    | simp only [canonical_mk] | split)

theorem dirFlushStep_canonical (s : State) (h_s : Canonical s) :
    Canonical (dirFlushStep s) := by
  unfold dirFlushStep
  repeat' (first
    | intro _ | with_reducible assumption | with_reducible apply flushSlot_canonical | with_reducible apply canonical_ite
    | with_reducible apply canonical_ite_fst | with_reducible apply canonical_ite_snd
    | with_reducible refine canonical_foldl ?_ ?_ | with_reducible refine canonical_foldl_snd ?_ ?_
    | with_reducible refine canonical_foldl_fst ?_ ?_ | simp only [canonical_mk] | split)

theorem markLost_canonical (s : State) (l : Nat) (h_s : Canonical s) :
    Canonical (State.markLost s l) := by
  unfold State.markLost
  repeat' (first
    | intro _ | with_reducible assumption | with_reducible apply canonical_ite | with_reducible apply canonical_ite_fst
    | with_reducible apply canonical_ite_snd | simp only [canonical_mk]
    | with_reducible refine canonicalOpt_eq (by with_reducible assumption) ?_
    | with_reducible refine canonicalOptFst_eq (by with_reducible assumption) ?_
    | with_reducible refine canonicalOptFst_eq_1 (by with_reducible assumption) ?_ | split
    | with_reducible apply canonicalOpt_none | with_reducible apply canonicalOpt_some
    | with_reducible apply canonicalOpt_map | with_reducible apply canonicalOpt_ite
    | with_reducible apply canonicalOpt_bind | with_reducible apply canonicalOpt_foldl
    | with_reducible apply canonicalOpt_bind_fst | with_reducible apply canonicalOpt_bind_any
    | with_reducible apply canonicalOptFst_none | with_reducible apply canonicalOptFst_some
    | with_reducible apply canonicalOptFst_map | with_reducible apply canonicalOptFst_ite
    | with_reducible apply canonicalOptFst_bind | with_reducible apply canonicalOptFst_foldl
    | with_reducible apply canonicalOptFst_bind_opt | with_reducible apply canonicalOptFst_bind_any
    | with_reducible apply canonicalOptSnd_none | with_reducible apply canonicalOptSnd_some
    | with_reducible apply canonicalOptSnd_ite)

theorem placeTile_canonical (s : State) (p : Nat) (m : Model) (pk : List Byte) (tier1 : Bool) (kind : Nat) (i : Nat) (h_s : Canonical s) :
    CanonicalOpt (State.placeTile s p m pk tier1 kind i) := by
  unfold State.placeTile
  repeat' (first
    | intro _ | with_reducible assumption | with_reducible apply addObj_canonical | with_reducible apply hold_canonical
    | with_reducible apply place1_canonical | with_reducible refine place1_canonical_eq (by with_reducible assumption) ?_
    | with_reducible refine place1_canonical_eq_1 (by with_reducible assumption) ?_ | with_reducible apply put1_canonical
    | with_reducible apply store_canonical | with_reducible apply canonical_ite | with_reducible apply canonical_ite_fst
    | with_reducible apply canonical_ite_snd | with_reducible refine canonical_getD ?_ ?_
    | with_reducible apply canonicalOpt_none | with_reducible apply canonicalOpt_some
    | with_reducible apply canonicalOpt_map | with_reducible apply canonicalOpt_ite
    | with_reducible apply canonicalOpt_bind | with_reducible apply canonicalOpt_foldl
    | with_reducible apply canonicalOpt_bind_fst | with_reducible apply canonicalOpt_bind_any | simp only [canonical_mk]
    | with_reducible refine canonicalOpt_eq (by with_reducible assumption) ?_
    | with_reducible refine canonicalOptFst_eq (by with_reducible assumption) ?_
    | with_reducible refine canonicalOptFst_eq_1 (by with_reducible assumption) ?_ | split
    | with_reducible apply canonicalOptFst_none | with_reducible apply canonicalOptFst_some
    | with_reducible apply canonicalOptFst_map | with_reducible apply canonicalOptFst_ite
    | with_reducible apply canonicalOptFst_bind | with_reducible apply canonicalOptFst_foldl
    | with_reducible apply canonicalOptFst_bind_opt | with_reducible apply canonicalOptFst_bind_any
    | with_reducible apply canonicalOptSnd_none | with_reducible apply canonicalOptSnd_some
    | with_reducible apply canonicalOptSnd_ite)

theorem placeTile_canonical_eq {s : State} {p : Nat} {m : Model} {pk : List Byte} {tier1 : Bool} {kind : Nat} {i : Nat} {t : State} (h_eq : State.placeTile s p m pk tier1 kind i = some t)
    (h_s : Canonical s) : Canonical t :=
  (placeTile_canonical s p m pk tier1 kind i h_s).elim t h_eq

theorem placeGroups_canonical (s : State) (p : Nat) (m : Model) (pk : List Byte) (placement : Nat) (h_s : Canonical s) :
    CanonicalOpt (State.placeGroups s p m pk placement) := by
  unfold State.placeGroups
  repeat' (first
    | intro _ | with_reducible assumption | with_reducible apply placeTile_canonical
    | with_reducible refine placeTile_canonical_eq (by with_reducible assumption) ?_ | with_reducible apply canonical_ite
    | with_reducible apply canonical_ite_fst | with_reducible apply canonical_ite_snd
    | with_reducible refine canonical_foldl ?_ ?_ | with_reducible refine canonical_foldl_snd ?_ ?_
    | with_reducible refine canonical_foldl_fst ?_ ?_ | with_reducible apply canonicalOpt_none
    | with_reducible apply canonicalOpt_some | with_reducible apply canonicalOpt_map
    | with_reducible apply canonicalOpt_ite | with_reducible apply canonicalOpt_bind
    | with_reducible apply canonicalOpt_foldl | with_reducible apply canonicalOpt_bind_fst
    | with_reducible apply canonicalOpt_bind_any | simp only [canonical_mk] | split)

theorem placeGroups_canonical_eq {s : State} {p : Nat} {m : Model} {pk : List Byte} {placement : Nat} {t : State} (h_eq : State.placeGroups s p m pk placement = some t)
    (h_s : Canonical s) : Canonical t :=
  (placeGroups_canonical s p m pk placement h_s).elim t h_eq

theorem setModel_canonical (s : State) (p : Nat) (id : Nat) (ver : Nat) (f : Model → Model) (h_s : Canonical s) :
    Canonical (State.setModel s p id ver f) := by
  unfold State.setModel
  repeat' (first
    | intro _ | with_reducible assumption | with_reducible apply canonical_ite | simp only [canonical_mk] | split)

theorem setGeom_canonical (s : State) (m : Model) (h_s : Canonical s) :
    Canonical (State.setGeom s m) := by
  unfold State.setGeom
  repeat' (first
    | intro _ | with_reducible assumption | with_reducible apply setRaw_canonical | with_reducible apply canonical_ite
    | simp only [canonical_mk] | split)

theorem bodyModelLoad_canonical (c : Cmd) (s : State) (h_s : Canonical s) :
    Canonical (bodyModelLoad c s) := by
  unfold bodyModelLoad
  extract_lets p a n placement s0 pk id ver m0 m
  have h0 : Canonical s0 := by
    unfold s0
    with_reducible refine canonical_ite h_s ?_
    with_reducible exact noteRead_canonical _ _ _ _ h_s
  clear_value m pk s0
  iterate 8
    with_reducible refine canonical_ite ?_ ?_
    · with_reducible first | exact refuse_canonical _ _ _ h_s | exact refuse_canonical _ _ _ h0
  generalize s0.badContainer p m pk placement = q
  cases q
  rotate_left
  · with_reducible refine refuse_canonical _ _ _ (canonical_ite ?_ ?_)
    · with_reducible exact event_canonical _ _ _ h0
    · with_reducible exact codecError_canonical _ _ h0
  generalize s0.freeModelSlot = q
  cases q
  · with_reducible exact refuse_canonical _ _ _ h0
  generalize s0.alloc1 p _ 4096 = q
  cases q
  · with_reducible exact refuse_canonical _ _ _ h0
  repeat' (first
    | intro _ | with_reducible assumption | with_reducible apply codecError_canonical
    | with_reducible apply event_canonical | with_reducible apply hold_canonical | with_reducible apply noteRead_canonical
    | with_reducible apply placeGroups_canonical
    | with_reducible refine placeGroups_canonical_eq (by with_reducible assumption) ?_
    | with_reducible apply refuse_canonical | with_reducible apply setGeom_canonical
    | with_reducible apply store_canonical | with_reducible apply canonical_ite | simp only [canonical_mk]
    | with_reducible refine canonicalOpt_eq (by with_reducible assumption) ?_
    | with_reducible refine canonicalOptFst_eq (by with_reducible assumption) ?_
    | with_reducible refine canonicalOptFst_eq_1 (by with_reducible assumption) ?_ | split
    | with_reducible apply canonicalOpt_none | with_reducible apply canonicalOpt_some
    | with_reducible apply canonicalOpt_map | with_reducible apply canonicalOpt_ite
    | with_reducible apply canonicalOpt_bind | with_reducible apply canonicalOpt_foldl
    | with_reducible apply canonicalOpt_bind_fst | with_reducible apply canonicalOpt_bind_any
    | with_reducible apply canonicalOptFst_none | with_reducible apply canonicalOptFst_some
    | with_reducible apply canonicalOptFst_map | with_reducible apply canonicalOptFst_ite
    | with_reducible apply canonicalOptFst_bind | with_reducible apply canonicalOptFst_foldl
    | with_reducible apply canonicalOptFst_bind_opt | with_reducible apply canonicalOptFst_bind_any
    | with_reducible apply canonicalOptSnd_none | with_reducible apply canonicalOptSnd_some
    | with_reducible apply canonicalOptSnd_ite)

theorem freeModel_canonical (s : State) (m : Model) (h_s : Canonical s) :
    Canonical (State.freeModel s m) := by
  unfold State.freeModel
  repeat' (first
    | intro _ | with_reducible assumption | with_reducible apply delObj_canonical | with_reducible apply release_canonical
    | with_reducible apply setFld_canonical | with_reducible apply canonical_ite | with_reducible apply canonical_ite_fst
    | with_reducible apply canonical_ite_snd | with_reducible refine canonical_foldl ?_ ?_
    | with_reducible refine canonical_foldl_snd ?_ ?_ | with_reducible refine canonical_foldl_fst ?_ ?_
    | simp only [canonical_mk] | with_reducible refine canonicalOpt_eq (by with_reducible assumption) ?_
    | with_reducible refine canonicalOptFst_eq (by with_reducible assumption) ?_
    | with_reducible refine canonicalOptFst_eq_1 (by with_reducible assumption) ?_ | split
    | with_reducible apply canonicalOpt_none | with_reducible apply canonicalOpt_some
    | with_reducible apply canonicalOpt_map | with_reducible apply canonicalOpt_ite
    | with_reducible apply canonicalOpt_bind | with_reducible apply canonicalOpt_foldl
    | with_reducible apply canonicalOpt_bind_fst | with_reducible apply canonicalOpt_bind_any
    | with_reducible apply canonicalOptFst_none | with_reducible apply canonicalOptFst_some
    | with_reducible apply canonicalOptFst_map | with_reducible apply canonicalOptFst_ite
    | with_reducible apply canonicalOptFst_bind | with_reducible apply canonicalOptFst_foldl
    | with_reducible apply canonicalOptFst_bind_opt | with_reducible apply canonicalOptFst_bind_any
    | with_reducible apply canonicalOptSnd_none | with_reducible apply canonicalOptSnd_some
    | with_reducible apply canonicalOptSnd_ite)

end Sys2Proof.Machine
end

