-- ==== Sys2Proof/Laws/CanonicalSpindle.lean ====
section
/-! SUPPORT. Every operation of Machine/Spindle.lean keeps the canonical forms of memory and of the registers. -/

set_option simprocs false
set_option linter.unusedTactic false
set_option linter.unusedSimpArgs false
set_option linter.unreachableTactic false

namespace Sys2Proof.Machine

theorem spnReads_canonical (s : State) (g : Nat) (op : Nat) (part : Nat) (rs : List (Nat × Nat)) (h_s : Canonical s) :
    Canonical (State.spnReads s g op part rs) := by
  unfold State.spnReads
  repeat' (first
    | intro _ | with_reducible assumption | with_reducible apply memCe_canonical | with_reducible apply memUe_canonical
    | with_reducible apply canonical_ite | with_reducible apply canonical_ite_fst | with_reducible apply canonical_ite_snd
    | with_reducible refine canonical_foldl ?_ ?_ | with_reducible refine canonical_foldl_snd ?_ ?_
    | with_reducible refine canonical_foldl_fst ?_ ?_ | simp only [canonical_mk] | split)

theorem pchStore_canonical (s : State) (g : Nat) (off : Nat) (bs : List Byte) (h_s : Canonical s) :
    Canonical (State.pchStore s g off bs) := by
  unfold State.pchStore
  repeat' (first
    | intro _ | with_reducible assumption | with_reducible apply store_canonical | with_reducible apply canonical_ite
    | with_reducible refine canonical_foldl ?_ ?_ | with_reducible refine canonical_foldl_snd ?_ ?_
    | with_reducible refine canonical_foldl_fst ?_ ?_ | simp only [canonical_mk] | split)

theorem spnDone_canonical (s : State) (g : Nat) (d : Desc) (status : Nat) (flags : Nat) (count : Nat) (dropped : Nat) (data : List Byte) (h_s : Canonical s) :
    Canonical (State.spnDone s g d status flags count dropped data) := by
  unfold State.spnDone
  repeat' (first
    | intro _ | with_reducible assumption | with_reducible apply count_canonical | with_reducible apply canonical_ite
    | simp only [canonical_mk] | split)

theorem spnReject_canonical (s : State) (g : Nat) (d : Desc) (status : Nat) (h_s : Canonical s) :
    Canonical (State.spnReject s g d status) := by
  unfold State.spnReject
  repeat' (first
    | intro _ | with_reducible assumption | with_reducible apply event_canonical | with_reducible apply spnDone_canonical
    | with_reducible apply spnLogPut_canonical | with_reducible apply canonical_ite | simp only [canonical_mk] | split)

theorem spnHold_canonical (s : State) (g : Nat) (d : Desc) (h_s : Canonical s) :
    Canonical (State.spnHold s g d) := by
  unfold State.spnHold
  repeat' (first
    | intro _ | with_reducible assumption | with_reducible apply canonical_ite | simp only [canonical_mk] | split)

theorem spnTake_canonical (s : State) (g : Nat) (d : Desc) (ok : Bool) (range : Bool) (k : State → State) (h_s : Canonical s) (h_k : ∀ (x0 : State), Canonical x0 → Canonical (k x0)) :
    Canonical (State.spnTake s g d ok range k) := by
  unfold State.spnTake
  repeat' (first
    | intro _ | with_reducible assumption | with_reducible apply h_k | with_reducible apply spnDone_canonical
    | with_reducible apply spnHold_canonical | with_reducible apply spnReject_canonical
    | with_reducible apply canonical_ite | simp only [canonical_mk] | split)

theorem countEvals_canonical (s : State) (g : Nat) (n : Nat) (h_s : Canonical s) :
    Canonical (State.countEvals s g n) := by
  unfold State.countEvals
  repeat' (first
    | intro _ | with_reducible assumption | with_reducible apply bump_canonical | with_reducible apply canonical_ite
    | simp only [canonical_mk] | split)

theorem distListStep_canonical (g : Nat) (d : Desc) (s : State) (h_s : Canonical s) :
    Canonical (distListStep g d s) := by
  unfold distListStep
  repeat' (first
    | intro _ | with_reducible assumption | with_reducible apply countEvals_canonical
    | with_reducible apply spnDone_canonical | with_reducible apply spnReads_canonical
    | with_reducible apply spnTake_canonical | with_reducible apply canonical_ite | simp only [canonical_mk]
    | with_reducible refine canonicalOpt_eq (by with_reducible assumption) ?_
    | with_reducible refine canonicalOptFst_eq (by with_reducible assumption) ?_
    | with_reducible refine canonicalOptFst_eq_1 (by with_reducible assumption) ?_ | split
    | with_reducible apply canonicalOpt_none | with_reducible apply canonicalOpt_some
    | with_reducible apply canonicalOpt_map | with_reducible apply canonicalOpt_ite
    | with_reducible apply canonicalOpt_bind | with_reducible apply canonicalOpt_foldl
    | with_reducible apply canonicalOpt_bind_fst | with_reducible apply canonicalOpt_bind_any
    | with_reducible apply canonicalOptFst_none | with_reducible apply canonicalOptFst_some
    | with_reducible apply canonicalOptFst_map | with_reducible apply canonicalOptFst_ite
    | with_reducible apply canonicalOptFst_bind | with_reducible apply canonicalOptFst_foldl
    | with_reducible apply canonicalOptFst_bind_opt | with_reducible apply canonicalOptFst_bind_any
    | with_reducible apply canonicalOptSnd_none | with_reducible apply canonicalOptSnd_some
    | with_reducible apply canonicalOptSnd_ite)

theorem distScanStep_canonical (g : Nat) (d : Desc) (s : State) (h_s : Canonical s) :
    Canonical (distScanStep g d s) := by
  unfold distScanStep
  repeat' (first
    | intro _ | with_reducible assumption | with_reducible apply countEvals_canonical
    | with_reducible apply spnDone_canonical | with_reducible apply spnReads_canonical
    | with_reducible apply spnTake_canonical | with_reducible apply canonical_ite | with_reducible apply canonical_ite_fst
    | with_reducible apply canonical_ite_snd | simp only [canonical_mk]
    | with_reducible refine canonicalOpt_eq (by with_reducible assumption) ?_
    | with_reducible refine canonicalOptFst_eq (by with_reducible assumption) ?_
    | with_reducible refine canonicalOptFst_eq_1 (by with_reducible assumption) ?_ | split
    | with_reducible apply canonicalOpt_none | with_reducible apply canonicalOpt_some
    | with_reducible apply canonicalOpt_map | with_reducible apply canonicalOpt_ite
    | with_reducible apply canonicalOpt_bind | with_reducible apply canonicalOpt_foldl
    | with_reducible apply canonicalOpt_bind_fst | with_reducible apply canonicalOpt_bind_any
    | with_reducible apply canonicalOptFst_none | with_reducible apply canonicalOptFst_some
    | with_reducible apply canonicalOptFst_map | with_reducible apply canonicalOptFst_ite
    | with_reducible apply canonicalOptFst_bind | with_reducible apply canonicalOptFst_foldl
    | with_reducible apply canonicalOptFst_bind_opt | with_reducible apply canonicalOptFst_bind_any
    | with_reducible apply canonicalOptSnd_none | with_reducible apply canonicalOptSnd_some
    | with_reducible apply canonicalOptSnd_ite)

theorem qloadStep_canonical (g : Nat) (d : Desc) (s : State) (h_s : Canonical s) :
    Canonical (qloadStep g d s) := by
  unfold qloadStep
  repeat' (first
    | intro _ | with_reducible assumption | with_reducible apply spnDone_canonical
    | with_reducible apply spnTake_canonical | with_reducible apply canonical_ite
    | with_reducible refine canonical_foldl ?_ ?_ | with_reducible refine canonical_foldl_snd ?_ ?_
    | with_reducible refine canonical_foldl_fst ?_ ?_ | simp only [canonical_mk] | split)

theorem psetStep_canonical (g : Nat) (d : Desc) (s : State) (h_s : Canonical s) :
    Canonical (psetStep g d s) := by
  unfold psetStep
  repeat' (first
    | intro _ | with_reducible assumption | with_reducible apply spnDone_canonical
    | with_reducible apply spnTake_canonical | with_reducible apply take_canonical | with_reducible apply canonical_ite
    | with_reducible refine canonical_foldl ?_ ?_ | with_reducible refine canonical_foldl_snd ?_ ?_
    | with_reducible refine canonical_foldl_fst ?_ ?_ | simp only [canonical_mk] | split)

theorem codebookLoadStep_canonical (v : Reg) (s : State) (h_s : Canonical s) :
    Canonical (codebookLoadStep v s) := by
  unfold codebookLoadStep
  repeat' (first
    | intro _ | with_reducible assumption | with_reducible apply event_canonical | with_reducible apply memCe_canonical
    | with_reducible apply memUe_canonical | with_reducible apply setRaw_canonical
    | with_reducible apply spnLogPut_canonical | with_reducible apply canonical_ite
    | with_reducible refine canonical_foldl ?_ ?_ | with_reducible refine canonical_foldl_snd ?_ ?_
    | with_reducible refine canonical_foldl_fst ?_ ?_ | simp only [canonical_mk] | split)

theorem decodeStep_canonical (g : Nat) (d : Desc) (s : State) (h_s : Canonical s) :
    Canonical (decodeStep g d s) := by
  unfold decodeStep
  repeat' (first
    | intro _ | with_reducible assumption | with_reducible apply event_canonical | with_reducible apply report_canonical
    | with_reducible apply spnDone_canonical | with_reducible apply spnReads_canonical
    | with_reducible apply spnTake_canonical | with_reducible apply canonical_ite | simp only [canonical_mk]
    | with_reducible refine canonicalOpt_eq (by with_reducible assumption) ?_
    | with_reducible refine canonicalOptFst_eq (by with_reducible assumption) ?_
    | with_reducible refine canonicalOptFst_eq_1 (by with_reducible assumption) ?_ | split
    | with_reducible apply canonicalOpt_none | with_reducible apply canonicalOpt_some
    | with_reducible apply canonicalOpt_map | with_reducible apply canonicalOpt_ite
    | with_reducible apply canonicalOpt_bind | with_reducible apply canonicalOpt_foldl
    | with_reducible apply canonicalOpt_bind_fst | with_reducible apply canonicalOpt_bind_any
    | with_reducible apply canonicalOptFst_none | with_reducible apply canonicalOptFst_some
    | with_reducible apply canonicalOptFst_map | with_reducible apply canonicalOptFst_ite
    | with_reducible apply canonicalOptFst_bind | with_reducible apply canonicalOptFst_foldl
    | with_reducible apply canonicalOptFst_bind_opt | with_reducible apply canonicalOptFst_bind_any
    | with_reducible apply canonicalOptSnd_none | with_reducible apply canonicalOptSnd_some
    | with_reducible refine canonical_pair_eq (by with_reducible assumption) ?_ | with_reducible apply canonicalOptSnd_ite
    | with_reducible apply canonical_ite_fst)

theorem histStep_canonical (g : Nat) (d : Desc) (s : State) (h_s : Canonical s) :
    Canonical (histStep g d s) := by
  unfold histStep
  repeat' (first
    | intro _ | with_reducible assumption | with_reducible apply spnDone_canonical
    | with_reducible apply spnReads_canonical | with_reducible apply spnTake_canonical
    | with_reducible apply canonical_ite | with_reducible apply canonical_ite_fst | with_reducible apply canonical_ite_snd
    | with_reducible refine canonical_getD ?_ ?_ | simp only [canonical_mk]
    | with_reducible refine canonicalOpt_eq (by with_reducible assumption) ?_
    | with_reducible refine canonicalOptFst_eq (by with_reducible assumption) ?_
    | with_reducible refine canonicalOptFst_eq_1 (by with_reducible assumption) ?_ | split
    | with_reducible apply canonicalOpt_none | with_reducible apply canonicalOpt_some
    | with_reducible apply canonicalOpt_map | with_reducible apply canonicalOpt_ite
    | with_reducible apply canonicalOpt_bind | with_reducible apply canonicalOpt_foldl
    | with_reducible apply canonicalOpt_bind_fst | with_reducible apply canonicalOpt_bind_any
    | with_reducible apply canonicalOptFst_none | with_reducible apply canonicalOptFst_some
    | with_reducible apply canonicalOptFst_map | with_reducible apply canonicalOptFst_ite
    | with_reducible apply canonicalOptFst_bind | with_reducible apply canonicalOptFst_foldl
    | with_reducible apply canonicalOptFst_bind_opt | with_reducible apply canonicalOptFst_bind_any
    | with_reducible apply canonicalOptSnd_none | with_reducible apply canonicalOptSnd_some
    | with_reducible apply canonicalOptSnd_ite)

theorem keyCompactStep_canonical (g : Nat) (d : Desc) (s : State) (h_s : Canonical s) :
    Canonical (keyCompactStep g d s) := by
  unfold keyCompactStep
  repeat' (first
    | intro _ | with_reducible assumption | with_reducible apply count_canonical | with_reducible apply pchStore_canonical
    | with_reducible apply spnDone_canonical | with_reducible apply spnReads_canonical
    | with_reducible apply spnTake_canonical | with_reducible apply take_canonical | with_reducible apply tick_canonical
    | with_reducible apply canonical_ite | with_reducible apply canonical_ite_fst | with_reducible apply canonical_ite_snd
    | with_reducible refine canonical_getD ?_ ?_ | simp only [canonical_mk] | split)

theorem gatherStep_canonical (g : Nat) (d : Desc) (s : State) (h_s : Canonical s) :
    Canonical (gatherStep g d s) := by
  unfold gatherStep
  repeat' (first
    | intro _ | with_reducible assumption | with_reducible apply spnDone_canonical
    | with_reducible apply spnReads_canonical | with_reducible apply spnTake_canonical
    | with_reducible apply canonical_ite | simp only [canonical_mk]
    | with_reducible refine canonicalOpt_eq (by with_reducible assumption) ?_
    | with_reducible refine canonicalOptFst_eq (by with_reducible assumption) ?_
    | with_reducible refine canonicalOptFst_eq_1 (by with_reducible assumption) ?_ | split
    | with_reducible apply canonicalOpt_none | with_reducible apply canonicalOpt_some
    | with_reducible apply canonicalOpt_map | with_reducible apply canonicalOpt_ite
    | with_reducible apply canonicalOpt_bind | with_reducible apply canonicalOpt_foldl
    | with_reducible apply canonicalOpt_bind_fst | with_reducible apply canonicalOpt_bind_any
    | with_reducible apply canonicalOptFst_none | with_reducible apply canonicalOptFst_some
    | with_reducible apply canonicalOptFst_map | with_reducible apply canonicalOptFst_ite
    | with_reducible apply canonicalOptFst_bind | with_reducible apply canonicalOptFst_foldl
    | with_reducible apply canonicalOptFst_bind_opt | with_reducible apply canonicalOptFst_bind_any
    | with_reducible apply canonicalOptSnd_none | with_reducible apply canonicalOptSnd_some
    | with_reducible apply canonicalOptSnd_ite)

theorem updateSegment_canonical (s : State) (g : Nat) (kind : Nat) (f : Nat) (len : Nat) (h : RowParams) (o : Nat) (gs : List F32) (h_s : Canonical s) :
    CanonicalOpt (State.updateSegment s g kind f len h o gs) := by
  unfold State.updateSegment
  repeat' (first
    | intro _ | with_reducible assumption | with_reducible apply pchStore_canonical | with_reducible apply canonical_ite
    | with_reducible apply canonical_ite_fst | with_reducible apply canonical_ite_snd
    | with_reducible refine canonical_getD ?_ ?_ | with_reducible apply canonicalOpt_none
    | with_reducible apply canonicalOpt_some | with_reducible apply canonicalOpt_map
    | with_reducible apply canonicalOpt_ite | with_reducible apply canonicalOpt_bind
    | with_reducible apply canonicalOpt_foldl | with_reducible apply canonicalOpt_bind_fst
    | with_reducible apply canonicalOpt_bind_any | simp only [canonical_mk]
    | with_reducible refine canonicalOpt_eq (by with_reducible assumption) ?_
    | with_reducible refine canonicalOptFst_eq (by with_reducible assumption) ?_
    | with_reducible refine canonicalOptFst_eq_1 (by with_reducible assumption) ?_ | split
    | with_reducible apply canonicalOptFst_none | with_reducible apply canonicalOptFst_some
    | with_reducible apply canonicalOptFst_map | with_reducible apply canonicalOptFst_ite
    | with_reducible apply canonicalOptFst_bind | with_reducible apply canonicalOptFst_foldl
    | with_reducible apply canonicalOptFst_bind_opt | with_reducible apply canonicalOptFst_bind_any
    | with_reducible apply canonicalOptSnd_none | with_reducible apply canonicalOptSnd_some
    | with_reducible apply canonicalOptSnd_ite)

theorem updateSegment_canonical_eq {s : State} {g : Nat} {kind : Nat} {f : Nat} {len : Nat} {h : RowParams} {o : Nat} {gs : List F32} {t : State} (h_eq : State.updateSegment s g kind f len h o gs = some t)
    (h_s : Canonical s) : Canonical t :=
  (updateSegment_canonical s g kind f len h o gs h_s).elim t h_eq

theorem rowStep_canonical (op : Nat) (kind : Nat) (g : Nat) (d : Desc) (s : State) (h_s : Canonical s) :
    Canonical (rowStep op kind g d s) := by
  unfold rowStep
  repeat' (first
    | intro _ | with_reducible assumption | with_reducible apply spnDone_canonical
    | with_reducible apply spnReads_canonical | with_reducible apply spnTake_canonical
    | with_reducible apply updateSegment_canonical
    | with_reducible refine updateSegment_canonical_eq (by with_reducible assumption) ?_
    | with_reducible apply canonical_ite | with_reducible apply canonical_ite_fst | with_reducible apply canonical_ite_snd
    | with_reducible refine canonical_foldl ?_ ?_ | with_reducible refine canonical_foldl_snd ?_ ?_
    | with_reducible refine canonical_foldl_fst ?_ ?_ | simp only [canonical_mk]
    | with_reducible refine canonicalOpt_eq (by with_reducible assumption) ?_
    | with_reducible refine canonicalOptFst_eq (by with_reducible assumption) ?_
    | with_reducible refine canonicalOptFst_eq_1 (by with_reducible assumption) ?_ | split
    | with_reducible apply canonicalOpt_none | with_reducible apply canonicalOpt_some
    | with_reducible apply canonicalOpt_map | with_reducible apply canonicalOpt_ite
    | with_reducible apply canonicalOpt_bind | with_reducible apply canonicalOpt_foldl
    | with_reducible apply canonicalOpt_bind_fst | with_reducible apply canonicalOpt_bind_any
    | with_reducible apply canonicalOptFst_none | with_reducible apply canonicalOptFst_some
    | with_reducible apply canonicalOptFst_map | with_reducible apply canonicalOptFst_ite
    | with_reducible apply canonicalOptFst_bind | with_reducible apply canonicalOptFst_foldl
    | with_reducible apply canonicalOptFst_bind_opt | with_reducible apply canonicalOptFst_bind_any
    | with_reducible apply canonicalOptSnd_none | with_reducible apply canonicalOptSnd_some
    | with_reducible apply canonicalOptSnd_ite)

theorem scatterAddStep_canonical (g : Nat) (d : Desc) (s : State) (h_s : Canonical s) :
    Canonical (scatterAddStep g d s) := by
  unfold scatterAddStep
  repeat' (first
    | intro _ | with_reducible assumption | with_reducible apply rowStep_canonical | with_reducible apply canonical_ite
    | simp only [canonical_mk] | split)

theorem rowSgdStep_canonical (g : Nat) (d : Desc) (s : State) (h_s : Canonical s) :
    Canonical (rowSgdStep g d s) := by
  unfold rowSgdStep
  repeat' (first
    | intro _ | with_reducible assumption | with_reducible apply rowStep_canonical | with_reducible apply canonical_ite
    | simp only [canonical_mk] | split)

theorem rowAdagradStep_canonical (g : Nat) (d : Desc) (s : State) (h_s : Canonical s) :
    Canonical (rowAdagradStep g d s) := by
  unfold rowAdagradStep
  repeat' (first
    | intro _ | with_reducible assumption | with_reducible apply rowStep_canonical | with_reducible apply canonical_ite
    | simp only [canonical_mk] | split)

theorem rowAdamStep_canonical (g : Nat) (d : Desc) (s : State) (h_s : Canonical s) :
    Canonical (rowAdamStep g d s) := by
  unfold rowAdamStep
  repeat' (first
    | intro _ | with_reducible assumption | with_reducible apply rowStep_canonical | with_reducible apply canonical_ite
    | simp only [canonical_mk] | split)

theorem scrubBack_canonical (s : State) (b : Nat) (h_s : Canonical s) :
    Canonical (State.scrubBack s b) := by
  unfold State.scrubBack
  repeat' (first
    | intro _ | with_reducible assumption | with_reducible apply canonical_ite | simp only [canonical_mk] | split)

theorem scrubStep_canonical (g : Nat) (d : Desc) (s : State) (h_s : Canonical s) :
    Canonical (scrubStep g d s) := by
  unfold scrubStep
  repeat' (first
    | intro _ | with_reducible assumption | with_reducible apply scrubBack_canonical
    | with_reducible apply spnDone_canonical | with_reducible apply spnReads_canonical
    | with_reducible apply spnTake_canonical | with_reducible apply canonical_ite
    | with_reducible refine canonical_foldl ?_ ?_ | with_reducible refine canonical_foldl_snd ?_ ?_
    | with_reducible refine canonical_foldl_fst ?_ ?_ | simp only [canonical_mk] | split)

theorem backgroundScrubStep_canonical (g : Nat) (off : Nat) (s : State) (h_s : Canonical s) :
    Canonical (backgroundScrubStep g off s) := by
  unfold backgroundScrubStep
  repeat' (first
    | intro _ | with_reducible assumption | with_reducible apply scrubBack_canonical
    | with_reducible apply spnReads_canonical | with_reducible apply canonical_ite | simp only [canonical_mk] | split)

theorem spnCopyStep_canonical (g : Nat) (d : Desc) (s : State) (h_s : Canonical s) :
    Canonical (spnCopyStep g d s) := by
  unfold spnCopyStep
  repeat' (first
    | intro _ | with_reducible assumption | with_reducible apply memCe_canonical | with_reducible apply memUe_canonical
    | with_reducible apply poison_canonical | with_reducible apply spnDone_canonical
    | with_reducible apply spnTake_canonical | with_reducible apply store_canonical | with_reducible apply canonical_ite
    | with_reducible refine canonical_foldl ?_ ?_ | with_reducible refine canonical_foldl_snd ?_ ?_
    | with_reducible refine canonical_foldl_fst ?_ ?_ | with_reducible refine canonical_getD ?_ ?_
    | simp only [canonical_mk] | with_reducible refine canonicalOpt_eq (by with_reducible assumption) ?_
    | with_reducible refine canonicalOptFst_eq (by with_reducible assumption) ?_
    | with_reducible refine canonicalOptFst_eq_1 (by with_reducible assumption) ?_ | split
    | with_reducible apply canonicalOpt_none | with_reducible apply canonicalOpt_some
    | with_reducible apply canonicalOpt_map | with_reducible apply canonicalOpt_ite
    | with_reducible apply canonicalOpt_bind | with_reducible apply canonicalOpt_foldl
    | with_reducible apply canonicalOpt_bind_fst | with_reducible apply canonicalOpt_bind_any
    | with_reducible apply canonicalOptFst_none | with_reducible apply canonicalOptFst_some
    | with_reducible apply canonicalOptFst_map | with_reducible apply canonicalOptFst_ite
    | with_reducible apply canonicalOptFst_bind | with_reducible apply canonicalOptFst_foldl
    | with_reducible apply canonicalOptFst_bind_opt | with_reducible apply canonicalOptFst_bind_any
    | with_reducible apply canonicalOptSnd_none | with_reducible apply canonicalOptSnd_some
    | with_reducible apply canonicalOptSnd_ite)

theorem spnRun_canonical (s : State) (g : Nat) (d : Desc) (h_s : Canonical s) :
    Canonical (State.spnRun s g d) := by
  unfold State.spnRun
  repeat' (first
    | intro _ | with_reducible assumption | with_reducible apply spnTake_canonical
    | with_reducible apply decodeStep_canonical | with_reducible apply distListStep_canonical
    | with_reducible apply distScanStep_canonical | with_reducible apply gatherStep_canonical
    | with_reducible apply histStep_canonical | with_reducible apply keyCompactStep_canonical
    | with_reducible apply psetStep_canonical | with_reducible apply qloadStep_canonical
    | with_reducible apply rowAdagradStep_canonical | with_reducible apply rowAdamStep_canonical
    | with_reducible apply rowSgdStep_canonical | with_reducible apply scatterAddStep_canonical
    | with_reducible apply scrubStep_canonical | with_reducible apply spnCopyStep_canonical
    | with_reducible apply canonical_ite | simp only [canonical_mk] | split)

theorem spnPump_canonical (s : State) (h_s : Canonical s) :
    Canonical (State.spnPump s) := by
  unfold State.spnPump
  repeat' (first
    | intro _ | with_reducible assumption | with_reducible apply spnRun_canonical | with_reducible apply canonical_ite
    | with_reducible apply canonical_ite_fst | with_reducible apply canonical_ite_snd
    | with_reducible refine canonical_foldl ?_ ?_ | with_reducible refine canonical_foldl_snd ?_ ?_
    | with_reducible refine canonical_foldl_fst ?_ ?_ | simp only [canonical_mk] | split)

theorem spindleAbortStep_canonical (v : Reg) (s : State) (h_s : Canonical s) :
    Canonical (spindleAbortStep v s) := by
  unfold spindleAbortStep
  repeat' (first
    | intro _ | with_reducible assumption | with_reducible apply setRaw_canonical | with_reducible apply spnDone_canonical
    | with_reducible apply canonical_ite | with_reducible apply canonical_ite_fst | with_reducible apply canonical_ite_snd
    | with_reducible refine canonical_foldl ?_ ?_ | with_reducible refine canonical_foldl_snd ?_ ?_
    | with_reducible refine canonical_foldl_fst ?_ ?_ | simp only [canonical_mk] | split)

theorem spnErrLogReadStep_canonical (s : State) (h_s : Canonical s) :
    Canonical (spnErrLogReadStep s) := by
  unfold spnErrLogReadStep
  repeat' (first
    | intro _ | with_reducible assumption | with_reducible apply canonical_ite | simp only [canonical_mk] | split)

end Sys2Proof.Machine
end

