-- ==== Sys2Proof/Laws/CanonicalIndex.lean ====
section
/-! SUPPORT. Every operation of Machine/Index.lean keeps the canonical forms of memory and of the registers. -/

set_option simprocs false
set_option linter.unusedTactic false
set_option linter.unusedSimpArgs false
set_option linter.unreachableTactic false

namespace Sys2Proof.Machine

theorem setIndex_canonical (s : State) (p : Nat) (i : Nat) (f : Index → Index) (h_s : Canonical s) :
    Canonical (State.setIndex s p i f) := by
  unfold State.setIndex
  repeat' (first
    | intro _ | with_reducible assumption | with_reducible apply canonical_ite | simp only [canonical_mk] | split)

theorem setBitAt_canonical (s : State) (t : List Nat) (n : Nat) (v : Bool) (h_s : Canonical s) :
    Canonical (State.setBitAt s t n v) := by
  unfold State.setBitAt
  repeat' (first
    | intro _ | with_reducible assumption | with_reducible apply store_canonical | with_reducible apply canonical_ite
    | simp only [canonical_mk] | split)

theorem loadTables_canonical (s : State) (c : Cmd) (prof : CodeProfile) (hd : List Byte) (side : Nat) (y0 : Option (List Nat × List (Nat × Nat))) (h_s : Canonical s) :
    Canonical (State.loadTables s c prof hd side y0) := by
  unfold State.loadTables
  repeat' (first
    | intro _ | with_reducible assumption | with_reducible apply refuse_canonical | with_reducible apply store_canonical
    | with_reducible apply zeroRange_canonical | with_reducible apply canonical_ite
    | with_reducible apply canonical_ite_fst | with_reducible apply canonical_ite_snd
    | with_reducible refine canonical_foldl ?_ ?_ | with_reducible refine canonical_foldl_snd ?_ ?_
    | with_reducible refine canonical_foldl_fst ?_ ?_ | simp only [canonical_mk] | split)

theorem loadSide_canonical (s : State) (c : Cmd) (prof : CodeProfile) (hd : List Byte) (y0 : Option Nat) (h_s : Canonical s) :
    Canonical (State.loadSide s c prof hd y0) := by
  unfold State.loadSide
  repeat' (first
    | intro _ | with_reducible assumption | with_reducible apply loadTables_canonical
    | with_reducible apply refuse_canonical | with_reducible apply canonical_ite | simp only [canonical_mk] | split)

theorem loadIndex_canonical (s : State) (c : Cmd) (prof : CodeProfile) (hd : List Byte) (h_s : Canonical s) :
    Canonical (State.loadIndex s c prof hd) := by
  unfold State.loadIndex
  repeat' (first
    | intro _ | with_reducible assumption | with_reducible apply loadSide_canonical | with_reducible apply canonical_ite
    | simp only [canonical_mk] | split)

theorem bodyIndexLoad_canonical (c : Cmd) (s : State) (h_s : Canonical s) :
    Canonical (bodyIndexLoad c s) := by
  unfold bodyIndexLoad
  repeat' (first
    | intro _ | with_reducible assumption | with_reducible apply loadIndex_canonical
    | with_reducible apply noteRead_canonical | with_reducible apply refuse_canonical
    | with_reducible apply refuseBusy_canonical | with_reducible apply canonical_ite
    | with_reducible apply canonical_ite_fst | with_reducible apply canonical_ite_snd
    | with_reducible refine canonical_getD ?_ ?_ | simp only [canonical_mk] | split)

theorem onIndex_canonical (s : State) (c : Cmd) (k : Index → State) (h_s : Canonical s) (h_k : ∀ (x0 : Index), Canonical (k x0)) :
    Canonical (State.onIndex s c k) := by
  unfold State.onIndex
  repeat' (first
    | intro _ | with_reducible assumption | with_reducible apply h_k | with_reducible apply refuse_canonical
    | with_reducible apply canonical_ite | simp only [canonical_mk] | split)

theorem bodyIndexEpochQuery_canonical (c : Cmd) (s : State) (h_s : Canonical s) :
    Canonical (bodyIndexEpochQuery c s) := by
  unfold bodyIndexEpochQuery
  repeat' (first
    | intro _ | with_reducible assumption | with_reducible apply count_canonical | with_reducible apply onIndex_canonical
    | with_reducible apply reply_canonical | with_reducible apply shaped_canonical | with_reducible apply canonical_ite
    | simp only [canonical_mk] | split)

theorem fetchBody_canonical (vec : Bool) (c : Cmd) (s : State) (h_s : Canonical s) :
    Canonical (fetchBody vec c s) := by
  unfold fetchBody
  repeat' (first
    | intro _ | with_reducible assumption | with_reducible apply onIndex_canonical | with_reducible apply refuse_canonical
    | with_reducible apply replyData_canonical | with_reducible apply canonical_ite
    | with_reducible apply canonical_ite_fst | with_reducible apply canonical_ite_snd | simp only [canonical_mk]
    | with_reducible refine canonicalOpt_eq (by with_reducible assumption) ?_
    | with_reducible refine canonicalOptFst_eq (by with_reducible assumption) ?_
    | with_reducible refine canonicalOptFst_eq_1 (by with_reducible assumption) ?_ | split
    | with_reducible apply canonicalOpt_none | with_reducible apply canonicalOpt_some
    | with_reducible apply canonicalOpt_map | with_reducible apply canonicalOpt_ite
    | with_reducible apply canonicalOpt_bind | with_reducible apply canonicalOpt_foldl
    | with_reducible apply canonicalOpt_bind_fst | with_reducible apply canonicalOpt_bind_any
    | with_reducible apply canonicalOptFst_none | with_reducible apply canonicalOptFst_some
    | with_reducible apply canonicalOptFst_map | with_reducible apply canonicalOptFst_ite
    | with_reducible apply canonicalOptFst_bind | with_reducible apply canonicalOptFst_foldl
    | with_reducible apply canonicalOptFst_bind_opt | with_reducible apply canonicalOptFst_bind_any
    | with_reducible apply canonicalOptSnd_none | with_reducible apply canonicalOptSnd_some
    | with_reducible apply canonicalOptSnd_ite)

theorem bodyVectorFetch_canonical (c : Cmd) (s : State) (h_s : Canonical s) :
    Canonical (bodyVectorFetch c s) := by
  unfold bodyVectorFetch
  repeat' (first
    | intro _ | with_reducible assumption | with_reducible apply fetchBody_canonical | with_reducible apply canonical_ite
    | simp only [canonical_mk] | split)

theorem bodyPassageFetch_canonical (c : Cmd) (s : State) (h_s : Canonical s) :
    Canonical (bodyPassageFetch c s) := by
  unfold bodyPassageFetch
  repeat' (first
    | intro _ | with_reducible assumption | with_reducible apply fetchBody_canonical | with_reducible apply canonical_ite
    | simp only [canonical_mk] | split)

theorem insertOne_canonical (s : State) (p : Nat) (i : Nat) (e : InsEntry) (id : Nat) (rec : Nat) (h_s : Canonical s) :
    Canonical (State.insertOne s p i e id rec) := by
  unfold State.insertOne
  repeat' (first
    | intro _ | with_reducible assumption | with_reducible apply setBitAt_canonical
    | with_reducible apply setIndex_canonical | with_reducible apply store_canonical | with_reducible apply canonical_ite
    | simp only [canonical_mk] | split)

theorem bodyIndexInsert_canonical (c : Cmd) (s : State) (h_s : Canonical s) :
    Canonical (bodyIndexInsert c s) := by
  unfold bodyIndexInsert
  repeat' (first
    | intro _ | with_reducible assumption | with_reducible apply insertOne_canonical
    | with_reducible apply onIndex_canonical | with_reducible apply refuse_canonical
    | with_reducible apply reply_canonical | with_reducible apply canonical_ite | with_reducible apply canonical_ite_fst
    | with_reducible apply canonical_ite_snd | with_reducible refine canonical_foldl ?_ ?_
    | with_reducible refine canonical_foldl_snd ?_ ?_ | with_reducible refine canonical_foldl_fst ?_ ?_
    | simp only [canonical_mk] | split)

theorem killLoc_canonical (s : State) (x : Index) (w : Nat) (h_s : Canonical s) :
    Canonical (State.killLoc s x w) := by
  unfold State.killLoc
  repeat' (first
    | intro _ | with_reducible assumption | with_reducible apply setBitAt_canonical | with_reducible apply canonical_ite
    | simp only [canonical_mk] | split)

theorem bodyIndexDelete_canonical (c : Cmd) (s : State) (h_s : Canonical s) :
    Canonical (bodyIndexDelete c s) := by
  unfold bodyIndexDelete
  repeat' (first
    | intro _ | with_reducible assumption | with_reducible apply killLoc_canonical
    | with_reducible apply onIndex_canonical | with_reducible apply refuse_canonical | with_reducible apply canonical_ite
    | with_reducible refine canonical_foldl ?_ ?_ | with_reducible refine canonical_foldl_snd ?_ ?_
    | with_reducible refine canonical_foldl_fst ?_ ?_ | simp only [canonical_mk]
    | with_reducible refine canonicalOpt_eq (by with_reducible assumption) ?_
    | with_reducible refine canonicalOptFst_eq (by with_reducible assumption) ?_
    | with_reducible refine canonicalOptFst_eq_1 (by with_reducible assumption) ?_ | split
    | with_reducible apply canonicalOpt_none | with_reducible apply canonicalOpt_some
    | with_reducible apply canonicalOpt_map | with_reducible apply canonicalOpt_ite
    | with_reducible apply canonicalOpt_bind | with_reducible apply canonicalOpt_foldl
    | with_reducible apply canonicalOpt_bind_fst | with_reducible apply canonicalOpt_bind_any
    | with_reducible apply canonicalOptFst_none | with_reducible apply canonicalOptFst_some
    | with_reducible apply canonicalOptFst_map | with_reducible apply canonicalOptFst_ite
    | with_reducible apply canonicalOptFst_bind | with_reducible apply canonicalOptFst_foldl
    | with_reducible apply canonicalOptFst_bind_opt | with_reducible apply canonicalOptFst_bind_any
    | with_reducible apply canonicalOptSnd_none | with_reducible apply canonicalOptSnd_some
    | with_reducible apply canonicalOptSnd_ite)

theorem bodyIndexUnload_canonical (c : Cmd) (s : State) (h_s : Canonical s) :
    Canonical (bodyIndexUnload c s) := by
  unfold bodyIndexUnload
  repeat' (first
    | intro _ | with_reducible assumption | with_reducible apply refuse_canonical
    | with_reducible apply refuseBusy_canonical | with_reducible apply setIndex_canonical
    | with_reducible apply shaped_canonical | with_reducible apply canonical_ite | simp only [canonical_mk] | split)

theorem indexUnloadCompleteStep_canonical (p : Nat) (i : Nat) (s : State) (h_s : Canonical s) :
    Canonical (indexUnloadCompleteStep p i s) := by
  unfold indexUnloadCompleteStep
  repeat' (first
    | intro _ | with_reducible assumption | with_reducible apply endWith_canonical | with_reducible apply canonical_ite
    | simp only [canonical_mk] | split)

theorem bodyShardMapSet_canonical (c : Cmd) (s : State) (h_s : Canonical s) :
    Canonical (bodyShardMapSet c s) := by
  unfold bodyShardMapSet
  repeat' (first
    | intro _ | with_reducible assumption | with_reducible apply refuse_canonical | with_reducible apply canonical_ite
    | simp only [canonical_mk] | with_reducible refine canonicalOpt_eq (by with_reducible assumption) ?_
    | with_reducible refine canonicalOptFst_eq (by with_reducible assumption) ?_
    | with_reducible refine canonicalOptFst_eq_1 (by with_reducible assumption) ?_ | split
    | with_reducible apply canonicalOpt_none | with_reducible apply canonicalOpt_some
    | with_reducible apply canonicalOpt_map | with_reducible apply canonicalOpt_ite
    | with_reducible apply canonicalOpt_bind | with_reducible apply canonicalOpt_foldl
    | with_reducible apply canonicalOpt_bind_fst | with_reducible apply canonicalOpt_bind_any
    | with_reducible apply canonicalOptFst_none | with_reducible apply canonicalOptFst_some
    | with_reducible apply canonicalOptFst_map | with_reducible apply canonicalOptFst_ite
    | with_reducible apply canonicalOptFst_bind | with_reducible apply canonicalOptFst_foldl
    | with_reducible apply canonicalOptFst_bind_opt | with_reducible apply canonicalOptFst_bind_any
    | with_reducible apply canonicalOptSnd_none | with_reducible apply canonicalOptSnd_some
    | with_reducible apply canonicalOptSnd_ite)

end Sys2Proof.Machine
end

