-- ==== Sys2Proof/Laws/CanonicalGates.lean ====
section
/-! SUPPORT. Every operation of Machine/Gates.lean keeps the canonical forms of memory and of the registers. -/

set_option simprocs false
set_option linter.unusedTactic false
set_option linter.unusedSimpArgs false
set_option linter.unreachableTactic false

namespace Sys2Proof.Machine

theorem setGate_canonical (s : State) (l : Nat) (f : GateList → GateList) (h_s : Canonical s) :
    Canonical (State.setGate s l f) := by
  unfold State.setGate
  repeat' (first
    | intro _ | with_reducible assumption | with_reducible apply canonical_ite | simp only [canonical_mk] | split)

end Sys2Proof.Machine
end

