-- ==== Sys2Proof/Laws/CanonicalSearch.lean ====
section
/-! SUPPORT. Every operation of Machine/Search.lean keeps the canonical forms of memory and of the registers. -/

set_option simprocs false
set_option linter.unusedTactic false
set_option linter.unusedSimpArgs false
set_option linter.unreachableTactic false

namespace Sys2Proof.Machine

theorem setSearch_canonical (s : State) (sid : Nat) (f : Search → Search) (h_s : Canonical s) :
    Canonical (State.setSearch s sid f) := by
  unfold State.setSearch
  repeat' (first
    | intro _ | with_reducible assumption | with_reducible apply canonical_ite | simp only [canonical_mk] | split)

theorem measured_canonical (s : State) (op : Nat) (part : Nat) (n : Nat) (codes : List Nat) (h_s : Canonical s) :
    Canonical (State.measured s op part n codes) := by
  unfold State.measured
  repeat' (first
    | intro _ | with_reducible assumption | with_reducible apply countEvals_canonical
    | with_reducible apply noteRead_canonical | with_reducible apply canonical_ite
    | with_reducible refine canonical_foldl ?_ ?_ | with_reducible refine canonical_foldl_snd ?_ ?_
    | with_reducible refine canonical_foldl_fst ?_ ?_ | simp only [canonical_mk] | split)

theorem takeSearch_canonical (s : State) (q : Search) (h_s : Canonical s) :
    CanonicalOpt (State.takeSearch s q) := by
  unfold State.takeSearch
  repeat' (first
    | intro _ | with_reducible assumption | with_reducible apply dramUe_canonical
    | with_reducible apply measured_canonical | with_reducible apply setSearch_canonical
    | with_reducible apply taken_canonical | with_reducible apply canonical_ite
    | with_reducible refine canonical_foldl ?_ ?_ | with_reducible refine canonical_foldl_snd ?_ ?_
    | with_reducible refine canonical_foldl_fst ?_ ?_ | with_reducible apply canonicalOpt_none
    | with_reducible apply canonicalOpt_some | with_reducible apply canonicalOpt_map
    | with_reducible apply canonicalOpt_ite | with_reducible apply canonicalOpt_bind
    | with_reducible apply canonicalOpt_foldl | with_reducible apply canonicalOpt_bind_fst
    | with_reducible apply canonicalOpt_bind_any | simp only [canonical_mk]
    | with_reducible refine canonicalOpt_eq (by with_reducible assumption) ?_
    | with_reducible refine canonicalOptFst_eq (by with_reducible assumption) ?_
    | with_reducible refine canonicalOptFst_eq_1 (by with_reducible assumption) ?_ | split
    | with_reducible apply canonicalOptFst_none | with_reducible apply canonicalOptFst_some
    | with_reducible apply canonicalOptFst_map | with_reducible apply canonicalOptFst_ite
    | with_reducible apply canonicalOptFst_bind | with_reducible apply canonicalOptFst_foldl
    | with_reducible apply canonicalOptFst_bind_opt | with_reducible apply canonicalOptFst_bind_any
    | with_reducible apply canonicalOptSnd_none | with_reducible apply canonicalOptSnd_some
    | with_reducible apply canonicalOptSnd_ite)

theorem takeSearch_canonical_eq {s : State} {q : Search} {t : State} (h_eq : State.takeSearch s q = some t)
    (h_s : Canonical s) : Canonical t :=
  (takeSearch_canonical s q h_s).elim t h_eq

theorem retake_canonical (s : State) (sid : Nat) (f : Search → Search) (h_s : Canonical s) :
    Canonical (State.retake s sid f) := by
  unfold State.retake
  repeat' (first
    | intro _ | with_reducible assumption | with_reducible apply setSearch_canonical
    | with_reducible apply takeSearch_canonical
    | with_reducible refine takeSearch_canonical_eq (by with_reducible assumption) ?_ | with_reducible apply canonical_ite
    | with_reducible refine canonical_getD ?_ ?_ | simp only [canonical_mk] | split)

theorem endSearch_canonical (s : State) (sid : Nat) (r : QueryEnd) (h_s : Canonical s) :
    Canonical (State.endSearch s sid r) := by
  unfold State.endSearch
  repeat' (first
    | intro _ | with_reducible assumption | with_reducible apply setSearch_canonical | with_reducible apply canonical_ite
    | simp only [canonical_mk] | split)

theorem failSearch_canonical (s : State) (sid : Nat) (status : Nat) (h_s : Canonical s) :
    Canonical (State.failSearch s sid status) := by
  unfold State.failSearch
  repeat' (first
    | intro _ | with_reducible assumption | with_reducible apply endSearch_canonical | with_reducible apply canonical_ite
    | simp only [canonical_mk] | split)

theorem retryDone_canonical (s : State) (q : Search) (h_s : Canonical s) :
    Canonical (State.retryDone s q) := by
  unfold State.retryDone
  repeat' (first
    | intro _ | with_reducible assumption | with_reducible apply report_canonical | with_reducible apply canonical_ite
    | with_reducible refine canonical_getD ?_ ?_ | simp only [canonical_mk] | split)

theorem countSel_canonical (s : State) (p : Nat) (dropped : Nat) (spilled : Nat) (h_s : Canonical s) :
    Canonical (State.countSel s p dropped spilled) := by
  unfold State.countSel
  repeat' (first
    | intro _ | with_reducible assumption | with_reducible apply bump_canonical | with_reducible apply canonical_ite
    | simp only [canonical_mk] | split)

theorem walkExpansionStep_canonical (done : Nat → State → State) (sid : Nat) (s : State) (h_done : ∀ (x0 : Nat), ∀ (x1 : State), Canonical x1 → Canonical (done x0 x1)) (h_s : Canonical s) :
    Canonical (walkExpansionStep done sid s) := by
  unfold walkExpansionStep
  repeat' (first
    | intro _ | with_reducible assumption | with_reducible apply h_done | with_reducible apply countSel_canonical
    | with_reducible apply dramUe_canonical | with_reducible apply endSearch_canonical
    | with_reducible apply failSearch_canonical | with_reducible apply measured_canonical
    | with_reducible apply retryDone_canonical | with_reducible apply setSearch_canonical
    | with_reducible apply canonical_ite | with_reducible apply canonical_ite_fst | with_reducible apply canonical_ite_snd
    | simp only [canonical_mk] | with_reducible refine canonicalOpt_eq (by with_reducible assumption) ?_
    | with_reducible refine canonicalOptFst_eq (by with_reducible assumption) ?_
    | with_reducible refine canonicalOptFst_eq_1 (by with_reducible assumption) ?_ | split
    | with_reducible apply canonicalOpt_none | with_reducible apply canonicalOpt_some
    | with_reducible apply canonicalOpt_map | with_reducible apply canonicalOpt_ite
    | with_reducible apply canonicalOpt_bind | with_reducible apply canonicalOpt_foldl
    | with_reducible apply canonicalOpt_bind_fst | with_reducible apply canonicalOpt_bind_any
    | with_reducible apply canonicalOptFst_none | with_reducible apply canonicalOptFst_some
    | with_reducible apply canonicalOptFst_map | with_reducible apply canonicalOptFst_ite
    | with_reducible apply canonicalOptFst_bind | with_reducible apply canonicalOptFst_foldl
    | with_reducible apply canonicalOptFst_bind_opt | with_reducible apply canonicalOptFst_bind_any
    | with_reducible apply canonicalOptSnd_none | with_reducible apply canonicalOptSnd_some
    | with_reducible apply canonicalOptSnd_ite)

theorem scanOne_canonical (s : State) (x : Index) (q : Search) (h_s : Canonical s) :
    Canonical (State.scanOne s x q) := by
  unfold State.scanOne
  repeat' (first
    | intro _ | with_reducible assumption | with_reducible apply dramUe_canonical
    | with_reducible apply measured_canonical | with_reducible apply setSearch_canonical
    | with_reducible apply canonical_ite | with_reducible apply canonical_ite_fst | with_reducible apply canonical_ite_snd
    | simp only [canonical_mk] | with_reducible refine canonicalOpt_eq (by with_reducible assumption) ?_
    | with_reducible refine canonicalOptFst_eq (by with_reducible assumption) ?_
    | with_reducible refine canonicalOptFst_eq_1 (by with_reducible assumption) ?_ | split
    | with_reducible apply canonicalOpt_none | with_reducible apply canonicalOpt_some
    | with_reducible apply canonicalOpt_map | with_reducible apply canonicalOpt_ite
    | with_reducible apply canonicalOpt_bind | with_reducible apply canonicalOpt_foldl
    | with_reducible apply canonicalOpt_bind_fst | with_reducible apply canonicalOpt_bind_any
    | with_reducible apply canonicalOptFst_none | with_reducible apply canonicalOptFst_some
    | with_reducible apply canonicalOptFst_map | with_reducible apply canonicalOptFst_ite
    | with_reducible apply canonicalOptFst_bind | with_reducible apply canonicalOptFst_foldl
    | with_reducible apply canonicalOptFst_bind_opt | with_reducible apply canonicalOptFst_bind_any
    | with_reducible apply canonicalOptSnd_none | with_reducible apply canonicalOptSnd_some
    | with_reducible apply canonicalOptSnd_ite)

theorem sideScanBatchStep_canonical (sids : List Nat) (s : State) (h_s : Canonical s) :
    Canonical (sideScanBatchStep sids s) := by
  unfold sideScanBatchStep
  repeat' (first
    | intro _ | with_reducible assumption | with_reducible apply scanOne_canonical | with_reducible apply take_canonical
    | with_reducible apply canonical_ite | with_reducible refine canonical_foldl ?_ ?_
    | with_reducible refine canonical_foldl_snd ?_ ?_ | with_reducible refine canonical_foldl_fst ?_ ?_
    | simp only [canonical_mk] | split)

theorem countSearches_canonical (s : State) (p : Nat) (rs : List QueryEnd) (h_s : Canonical s) :
    Canonical (State.countSearches s p rs) := by
  unfold State.countSearches
  repeat' (first
    | intro _ | with_reducible assumption | with_reducible apply bump_canonical | with_reducible apply canonical_ite
    | simp only [canonical_mk] | split)

theorem replySearch_canonical (s : State) (c : Cmd) (rs : List (QueryEnd × Nat × Nat)) (h_s : Canonical s) :
    Canonical (State.replySearch s c rs) := by
  unfold State.replySearch
  repeat' (first
    | intro _ | with_reducible assumption | with_reducible apply countSearches_canonical
    | with_reducible apply refuse_canonical | with_reducible apply refuseHint_canonical
    | with_reducible apply replyData_canonical | with_reducible apply canonical_ite
    | with_reducible apply canonical_ite_fst | with_reducible apply canonical_ite_snd
    | with_reducible refine canonical_getD ?_ ?_ | simp only [canonical_mk]
    | with_reducible refine canonicalOpt_eq (by with_reducible assumption) ?_
    | with_reducible refine canonicalOptFst_eq (by with_reducible assumption) ?_
    | with_reducible refine canonicalOptFst_eq_1 (by with_reducible assumption) ?_ | split
    | with_reducible apply canonicalOpt_none | with_reducible apply canonicalOpt_some
    | with_reducible apply canonicalOpt_map | with_reducible apply canonicalOpt_ite
    | with_reducible apply canonicalOpt_bind | with_reducible apply canonicalOpt_foldl
    | with_reducible apply canonicalOpt_bind_fst | with_reducible apply canonicalOpt_bind_any
    | with_reducible apply canonicalOptFst_none | with_reducible apply canonicalOptFst_some
    | with_reducible apply canonicalOptFst_map | with_reducible apply canonicalOptFst_ite
    | with_reducible apply canonicalOptFst_bind | with_reducible apply canonicalOptFst_foldl
    | with_reducible apply canonicalOptFst_bind_opt | with_reducible apply canonicalOptFst_bind_any
    | with_reducible apply canonicalOptSnd_none | with_reducible apply canonicalOptSnd_some
    | with_reducible apply canonicalOptSnd_ite)

theorem searchTakeStep_canonical (p : Nat) (s : State) (h_s : Canonical s) :
    Canonical (searchTakeStep p s) := by
  unfold searchTakeStep
  repeat' (first
    | intro _ | with_reducible assumption | with_reducible apply takeSearch_canonical
    | with_reducible refine takeSearch_canonical_eq (by with_reducible assumption) ?_ | with_reducible apply canonical_ite
    | with_reducible refine canonical_getD ?_ ?_ | simp only [canonical_mk] | split)

theorem addSearch_canonical (s : State) (q : Search) (h_s : Canonical s) :
    Canonical (State.addSearch s q) := by
  unfold State.addSearch
  repeat' (first
    | intro _ | with_reducible assumption | with_reducible apply takeSearch_canonical
    | with_reducible refine takeSearch_canonical_eq (by with_reducible assumption) ?_ | with_reducible apply canonical_ite
    | with_reducible refine canonical_getD ?_ ?_ | simp only [canonical_mk] | split)

theorem issue_canonical (s : State) (c : Cmd) (qp : Nat) (opcode : Nat) (deadline : Nat) (cmd : Nat) (entry : Nat) (payload : List Byte) (h_s : Canonical s) :
    Canonical (State.issue s c qp opcode deadline cmd entry payload) := by
  unfold State.issue
  repeat' (first
    | intro _ | with_reducible assumption | with_reducible apply emit_canonical | with_reducible apply canonical_ite
    | simp only [canonical_mk] | split)

theorem setCoord_canonical (s : State) (sid : Nat) (f : Coord → Coord) (h_s : Canonical s) :
    Canonical (State.setCoord s sid f) := by
  unfold State.setCoord
  repeat' (first
    | intro _ | with_reducible assumption | with_reducible apply canonical_ite | simp only [canonical_mk] | split)

theorem sendShard_canonical (s : State) (c : Cmd) (sid : Nat) (e : Nat) (y0 : Nat) (h_s : Canonical s) :
    Canonical (State.sendShard s c sid e y0) := by
  revert h_s
  fun_induction State.sendShard s c sid e y0 <;> intro h_s
  all_goals
    repeat' (first
      | intro _ | with_reducible assumption | with_reducible apply_assumption -exfalso -symm
      | with_reducible apply addSearch_canonical | with_reducible apply bump_canonical
      | with_reducible apply issue_canonical | with_reducible apply setCoord_canonical
      | with_reducible apply canonical_ite | with_reducible refine canonical_getD ?_ ?_ | simp only [canonical_mk] | split
      | (simp +zetaDelta only [canonical_mk]; done) | simp +zetaDelta only [canonical_mk])

theorem sendBroadcast_canonical (s : State) (c : Cmd) (sid : Nat) (e : Nat) (y0 : Nat) (h_s : Canonical s) :
    Canonical (State.sendBroadcast s c sid e y0) := by
  revert h_s
  fun_induction State.sendBroadcast s c sid e y0 <;> intro h_s
  all_goals
    repeat' (first
      | intro _ | with_reducible assumption | with_reducible apply_assumption -exfalso -symm
      | with_reducible apply sendShard_canonical | with_reducible apply canonical_ite | simp only [canonical_mk] | split
      | (simp +zetaDelta only [canonical_mk]; done) | simp +zetaDelta only [canonical_mk])

theorem startCoord_canonical (s : State) (c : Cmd) (m : ShardMap) (q : SearchParams) (i : Nat) (h_s : Canonical s) :
    Canonical (State.startCoord s c m q i) := by
  unfold State.startCoord
  repeat' (first
    | intro _ | with_reducible assumption | with_reducible apply count_canonical
    | with_reducible apply sendBroadcast_canonical | with_reducible apply sendShard_canonical
    | with_reducible apply take_canonical | with_reducible apply canonical_ite | with_reducible apply canonical_ite_fst
    | with_reducible apply canonical_ite_snd | with_reducible refine canonical_foldl ?_ ?_
    | with_reducible refine canonical_foldl_snd ?_ ?_ | with_reducible refine canonical_foldl_fst ?_ ?_
    | with_reducible refine canonical_getD ?_ ?_ | simp only [canonical_mk]
    | with_reducible refine canonicalOpt_eq (by with_reducible assumption) ?_
    | with_reducible refine canonicalOptFst_eq (by with_reducible assumption) ?_
    | with_reducible refine canonicalOptFst_eq_1 (by with_reducible assumption) ?_ | split
    | with_reducible apply canonicalOpt_none | with_reducible apply canonicalOpt_some
    | with_reducible apply canonicalOpt_map | with_reducible apply canonicalOpt_ite
    | with_reducible apply canonicalOpt_bind | with_reducible apply canonicalOpt_foldl
    | with_reducible apply canonicalOpt_bind_fst | with_reducible apply canonicalOpt_bind_any
    | with_reducible apply canonicalOptFst_none | with_reducible apply canonicalOptFst_some
    | with_reducible apply canonicalOptFst_map | with_reducible apply canonicalOptFst_ite
    | with_reducible apply canonicalOptFst_bind | with_reducible apply canonicalOptFst_foldl
    | with_reducible apply canonicalOptFst_bind_opt | with_reducible apply canonicalOptFst_bind_any
    | with_reducible apply canonicalOptSnd_none | with_reducible apply canonicalOptSnd_some
    | with_reducible apply canonicalOptSnd_ite)

theorem searchBody_canonical (batch : Bool) (c : Cmd) (s : State) (h_s : Canonical s) :
    Canonical (searchBody batch c s) := by
  unfold searchBody
  repeat' (first
    | intro _ | with_reducible assumption | with_reducible apply addSearch_canonical
    | with_reducible apply count_canonical | with_reducible apply onIndex_canonical
    | with_reducible apply refuse_canonical | with_reducible apply refuseHint_canonical
    | with_reducible apply startCoord_canonical | with_reducible apply tick_canonical | with_reducible apply canonical_ite
    | with_reducible apply canonical_ite_fst | with_reducible apply canonical_ite_snd
    | with_reducible refine canonical_foldl ?_ ?_ | with_reducible refine canonical_foldl_snd ?_ ?_
    | with_reducible refine canonical_foldl_fst ?_ ?_ | simp only [canonical_mk]
    | with_reducible refine canonicalOpt_eq (by with_reducible assumption) ?_
    | with_reducible refine canonicalOptFst_eq (by with_reducible assumption) ?_
    | with_reducible refine canonicalOptFst_eq_1 (by with_reducible assumption) ?_ | split
    | with_reducible apply canonicalOpt_none | with_reducible apply canonicalOpt_some
    | with_reducible apply canonicalOpt_map | with_reducible apply canonicalOpt_ite
    | with_reducible apply canonicalOpt_bind | with_reducible apply canonicalOpt_foldl
    | with_reducible apply canonicalOpt_bind_fst | with_reducible apply canonicalOpt_bind_any
    | with_reducible apply canonicalOptFst_none | with_reducible apply canonicalOptFst_some
    | with_reducible apply canonicalOptFst_map | with_reducible apply canonicalOptFst_ite
    | with_reducible apply canonicalOptFst_bind | with_reducible apply canonicalOptFst_foldl
    | with_reducible apply canonicalOptFst_bind_opt | with_reducible apply canonicalOptFst_bind_any
    | with_reducible apply canonicalOptSnd_none | with_reducible apply canonicalOptSnd_some
    | with_reducible apply canonicalOptSnd_ite)

theorem bodySearch_canonical (c : Cmd) (s : State) (h_s : Canonical s) :
    Canonical (bodySearch c s) := by
  unfold bodySearch
  repeat' (first
    | intro _ | with_reducible assumption | with_reducible apply searchBody_canonical | with_reducible apply canonical_ite
    | simp only [canonical_mk] | split)

theorem bodySearchShard_canonical (c : Cmd) (s : State) (h_s : Canonical s) :
    Canonical (bodySearchShard c s) := by
  unfold bodySearchShard
  repeat' (first
    | intro _ | with_reducible assumption | with_reducible apply searchBody_canonical | with_reducible apply canonical_ite
    | simp only [canonical_mk] | split)

theorem bodySearchBatch_canonical (c : Cmd) (s : State) (h_s : Canonical s) :
    Canonical (bodySearchBatch c s) := by
  unfold bodySearchBatch
  repeat' (first
    | intro _ | with_reducible assumption | with_reducible apply searchBody_canonical | with_reducible apply canonical_ite
    | simp only [canonical_mk] | split)

theorem shardUnusable_canonical (s : State) (sid : Nat) (e : Nat) (tag : Option Nat) (h_s : Canonical s) :
    Canonical (State.shardUnusable s sid e tag) := by
  unfold State.shardUnusable
  repeat' (first
    | intro _ | with_reducible assumption | with_reducible apply bump_canonical | with_reducible apply sendShard_canonical
    | with_reducible apply setCoord_canonical | with_reducible apply canonical_ite
    | with_reducible refine canonical_getD ?_ ?_ | simp only [canonical_mk] | split)

theorem useShard_canonical (s : State) (sid : Nat) (e : Nat) (stamp : Nat) (l : List (Nat × F32)) (h_s : Canonical s) :
    Canonical (State.useShard s sid e stamp l) := by
  unfold State.useShard
  repeat' (first
    | intro _ | with_reducible assumption | with_reducible apply bump_canonical | with_reducible apply setCoord_canonical
    | with_reducible apply canonical_ite | with_reducible refine canonical_getD ?_ ?_ | simp only [canonical_mk] | split)

theorem localShard_canonical (s : State) (q : Search) (r : QueryEnd) (h_s : Canonical s) :
    Canonical (State.localShard s q r) := by
  unfold State.localShard
  repeat' (first
    | intro _ | with_reducible assumption | with_reducible apply shardUnusable_canonical
    | with_reducible apply useShard_canonical | with_reducible apply canonical_ite | simp only [canonical_mk] | split)

theorem shardReply_canonical (s : State) (sid : Nat) (e : Nat) (tag : Nat) (status : Nat) (payload : List Byte) (h_s : Canonical s) :
    Canonical (State.shardReply s sid e tag status payload) := by
  unfold State.shardReply
  repeat' (first
    | intro _ | with_reducible assumption | with_reducible apply shardUnusable_canonical
    | with_reducible apply useShard_canonical | with_reducible apply canonical_ite | simp only [canonical_mk] | split)

theorem shardHedgeTimeoutStep_canonical (sid : Nat) (e : Nat) (s : State) (h_s : Canonical s) :
    Canonical (shardHedgeTimeoutStep sid e s) := by
  unfold shardHedgeTimeoutStep
  repeat' (first
    | intro _ | with_reducible assumption | with_reducible apply sendShard_canonical | with_reducible apply canonical_ite
    | simp only [canonical_mk] | split)

theorem shardMergeStep_canonical (done : Nat → State → State) (sid : Nat) (s : State) (h_done : ∀ (x0 : Nat), ∀ (x1 : State), Canonical x1 → Canonical (done x0 x1)) (h_s : Canonical s) :
    Canonical (shardMergeStep done sid s) := by
  unfold shardMergeStep
  repeat' (first
    | intro _ | with_reducible assumption | with_reducible apply h_done | with_reducible apply bump_canonical
    | with_reducible apply countSel_canonical | with_reducible apply setCoord_canonical
    | with_reducible apply take_canonical | with_reducible apply canonical_ite | with_reducible apply canonical_ite_fst
    | with_reducible apply canonical_ite_snd | simp only [canonical_mk]
    | with_reducible refine canonicalOpt_eq (by with_reducible assumption) ?_
    | with_reducible refine canonicalOptFst_eq (by with_reducible assumption) ?_
    | with_reducible refine canonicalOptFst_eq_1 (by with_reducible assumption) ?_ | split
    | with_reducible apply canonicalOpt_none | with_reducible apply canonicalOpt_some
    | with_reducible apply canonicalOpt_map | with_reducible apply canonicalOpt_ite
    | with_reducible apply canonicalOpt_bind | with_reducible apply canonicalOpt_foldl
    | with_reducible apply canonicalOpt_bind_fst | with_reducible apply canonicalOpt_bind_any
    | with_reducible apply canonicalOptFst_none | with_reducible apply canonicalOptFst_some
    | with_reducible apply canonicalOptFst_map | with_reducible apply canonicalOptFst_ite
    | with_reducible apply canonicalOptFst_bind | with_reducible apply canonicalOptFst_foldl
    | with_reducible apply canonicalOptFst_bind_opt | with_reducible apply canonicalOptFst_bind_any
    | with_reducible apply canonicalOptSnd_none | with_reducible apply canonicalOptSnd_some
    | with_reducible apply canonicalOptSnd_ite)

theorem dropSearches_canonical (s : State) (cmd : Nat) (h_s : Canonical s) :
    Canonical (State.dropSearches s cmd) := by
  unfold State.dropSearches
  repeat' (first
    | intro _ | with_reducible assumption | with_reducible apply canonical_ite | simp only [canonical_mk] | split)

theorem feedLocal_canonical (s : State) (cmd : Nat) (h_s : Canonical s) :
    Canonical (State.feedLocal s cmd) := by
  unfold State.feedLocal
  repeat' (first
    | intro _ | with_reducible assumption | with_reducible apply localShard_canonical | with_reducible apply canonical_ite
    | with_reducible refine canonical_foldl ?_ ?_ | with_reducible refine canonical_foldl_snd ?_ ?_
    | with_reducible refine canonical_foldl_fst ?_ ?_ | simp only [canonical_mk] | split)

theorem searchCmdDone_canonical (cmd : Nat) (s : State) (h_s : Canonical s) :
    Canonical (searchCmdDone cmd s) := by
  unfold searchCmdDone
  repeat' (first
    | intro _ | with_reducible assumption | with_reducible apply dropSearches_canonical
    | with_reducible apply feedLocal_canonical | with_reducible apply replySearch_canonical
    | with_reducible apply canonical_ite | simp only [canonical_mk] | split)

theorem restartSearches_canonical (s : State) (w : Nat) (done : Nat → State → State) (h_s : Canonical s) (h_done : ∀ (x0 : Nat), ∀ (x1 : State), Canonical x1 → Canonical (done x0 x1)) :
    Canonical (State.restartSearches s w done) := by
  unfold State.restartSearches
  repeat' (first
    | intro _ | with_reducible assumption | with_reducible apply h_done | with_reducible apply failSearch_canonical
    | with_reducible apply report_canonical | with_reducible apply retake_canonical | with_reducible apply canonical_ite
    | with_reducible refine canonical_foldl ?_ ?_ | with_reducible refine canonical_foldl_snd ?_ ?_
    | with_reducible refine canonical_foldl_fst ?_ ?_ | with_reducible refine canonical_getD ?_ ?_
    | simp only [canonical_mk] | split)

end Sys2Proof.Machine
end

