-- ==== Sys2Proof/Laws/CanonicalMerge.lean ====
section
/-! SUPPORT. Every operation of Machine/Merge.lean keeps the canonical forms of memory and of the registers. -/

set_option simprocs false
set_option linter.unusedTactic false
set_option linter.unusedSimpArgs false
set_option linter.unreachableTactic false

namespace Sys2Proof.Machine

theorem setMerge_canonical (s : State) (p : Nat) (f : MergeJob → MergeJob) (h_s : Canonical s) :
    Canonical (State.setMerge s p f) := by
  unfold State.setMerge
  repeat' (first
    | intro _ | with_reducible assumption | with_reducible apply canonical_ite | simp only [canonical_mk] | split)

theorem copyMem_canonical (s : State) (src dst n : Nat) (h_s : Canonical s) : Canonical (State.copyMem s src dst n) := by
  have h1 := zeroRange_canonical s dst n h_s
  unfold State.copyMem
  refine canonical_foldl ?_ (fun s x h => poison_canonical _ _ h)
  generalize s.zeroRange dst n = s1 at h1 ⊢
  exact ⟨Memory.wf_foldl_set _ _ _ _ h1.1, h1.2⟩

theorem takeChunk_canonical (s : State) (p : Nat) (i : Nat) (h_s : Canonical s) :
    CanonicalOptFst (State.takeChunk s p i) := by
  unfold State.takeChunk
  repeat' (first
    | intro _ | with_reducible assumption | with_reducible apply setIndex_canonical | with_reducible apply canonical_ite
    | with_reducible apply canonicalOptFst_none | with_reducible apply canonicalOptFst_some
    | with_reducible apply canonicalOptFst_map | with_reducible apply canonicalOptFst_ite
    | with_reducible apply canonicalOptFst_bind | with_reducible apply canonicalOptFst_foldl
    | with_reducible apply canonicalOptFst_bind_opt | with_reducible apply canonicalOptFst_bind_any
    | with_reducible apply canonicalOptSnd_none | with_reducible apply canonicalOptSnd_some
    | with_reducible apply canonicalOptSnd_ite | simp only [canonical_mk]
    | with_reducible refine canonicalOpt_eq (by with_reducible assumption) ?_
    | with_reducible refine canonicalOptFst_eq (by with_reducible assumption) ?_
    | with_reducible refine canonicalOptFst_eq_1 (by with_reducible assumption) ?_ | split
    | with_reducible apply canonicalOpt_none | with_reducible apply canonicalOpt_some
    | with_reducible apply canonicalOpt_map | with_reducible apply canonicalOpt_ite
    | with_reducible apply canonicalOpt_bind | with_reducible apply canonicalOpt_foldl
    | with_reducible apply canonicalOpt_bind_fst | with_reducible apply canonicalOpt_bind_any)

theorem takeChunk_canonical_eq_1 {s : State} {p : Nat} {i : Nat} {r} (h_eq : State.takeChunk s p i = some r)
    (h_s : Canonical s) : Canonical r.1 :=
  (takeChunk_canonical s p i h_s).elim _ h_eq

theorem takeChunk_canonical_eq {s : State} {p : Nat} {i : Nat} {a_ t} (h_eq : State.takeChunk s p i = some (t, a_))
    (h_s : Canonical s) : Canonical t :=
  (takeChunk_canonical s p i h_s).elim _ h_eq

theorem cowWrite_canonical (s : State) (j : MergeJob) (k : Nat) (off : Nat) (bs : List Byte) (h_s : Canonical s) :
    CanonicalOptFst (State.cowWrite s j k off bs) := by
  unfold State.cowWrite
  repeat' (first
    | intro _ | with_reducible assumption | with_reducible apply copyMem_canonical | with_reducible apply store_canonical
    | with_reducible apply takeChunk_canonical
    | with_reducible refine takeChunk_canonical_eq (by with_reducible assumption) ?_
    | with_reducible refine takeChunk_canonical_eq_1 (by with_reducible assumption) ?_
    | with_reducible apply zeroRange_canonical | with_reducible apply canonical_ite
    | with_reducible apply canonical_ite_fst | with_reducible apply canonical_ite_snd
    | with_reducible apply canonicalOptFst_none | with_reducible apply canonicalOptFst_some
    | with_reducible apply canonicalOptFst_map | with_reducible apply canonicalOptFst_ite
    | with_reducible apply canonicalOptFst_bind | with_reducible apply canonicalOptFst_foldl
    | with_reducible apply canonicalOptFst_bind_opt | with_reducible apply canonicalOptFst_bind_any
    | with_reducible apply canonicalOptSnd_none | with_reducible apply canonicalOptSnd_some
    | with_reducible apply canonicalOptSnd_ite | simp only [canonical_mk]
    | with_reducible refine canonicalOpt_eq (by with_reducible assumption) ?_
    | with_reducible refine canonicalOptFst_eq (by with_reducible assumption) ?_
    | with_reducible refine canonicalOptFst_eq_1 (by with_reducible assumption) ?_ | split
    | with_reducible apply canonicalOpt_none | with_reducible apply canonicalOpt_some
    | with_reducible apply canonicalOpt_map | with_reducible apply canonicalOpt_ite
    | with_reducible apply canonicalOpt_bind | with_reducible apply canonicalOpt_foldl
    | with_reducible apply canonicalOpt_bind_fst | with_reducible apply canonicalOpt_bind_any)

theorem cowWrite_canonical_eq_1 {s : State} {j : MergeJob} {k : Nat} {off : Nat} {bs : List Byte} {r} (h_eq : State.cowWrite s j k off bs = some r)
    (h_s : Canonical s) : Canonical r.1 :=
  (cowWrite_canonical s j k off bs h_s).elim _ h_eq

theorem cowWrite_canonical_eq {s : State} {j : MergeJob} {k : Nat} {off : Nat} {bs : List Byte} {a_ t} (h_eq : State.cowWrite s j k off bs = some (t, a_))
    (h_s : Canonical s) : Canonical t :=
  (cowWrite_canonical s j k off bs h_s).elim _ h_eq

theorem mergeMeasured_canonical (s : State) (x : Index) (j : MergeJob) (ns : List Nat) (h_s : Canonical s) :
    Canonical (State.mergeMeasured s x j ns) := by
  unfold State.mergeMeasured
  repeat' (first
    | intro _ | with_reducible assumption | with_reducible apply measured_canonical | with_reducible apply canonical_ite
    | simp only [canonical_mk] | with_reducible refine canonicalOpt_eq (by with_reducible assumption) ?_
    | with_reducible refine canonicalOptFst_eq (by with_reducible assumption) ?_
    | with_reducible refine canonicalOptFst_eq_1 (by with_reducible assumption) ?_ | split
    | with_reducible apply canonicalOpt_none | with_reducible apply canonicalOpt_some
    | with_reducible apply canonicalOpt_map | with_reducible apply canonicalOpt_ite
    | with_reducible apply canonicalOpt_bind | with_reducible apply canonicalOpt_foldl
    | with_reducible apply canonicalOpt_bind_fst | with_reducible apply canonicalOpt_bind_any
    | with_reducible apply canonicalOptFst_none | with_reducible apply canonicalOptFst_some
    | with_reducible apply canonicalOptFst_map | with_reducible apply canonicalOptFst_ite
    | with_reducible apply canonicalOptFst_bind | with_reducible apply canonicalOptFst_foldl
    | with_reducible apply canonicalOptFst_bind_opt | with_reducible apply canonicalOptFst_bind_any
    | with_reducible apply canonicalOptSnd_none | with_reducible apply canonicalOptSnd_some
    | with_reducible apply canonicalOptSnd_ite)

theorem mergeQuery_canonical (s : State) (x : Index) (j : MergeJob) (n : Nat) (h_s : Canonical s) :
    Canonical (State.mergeQuery s x j n) := by
  unfold State.mergeQuery
  repeat' (first
    | intro _ | with_reducible assumption | with_reducible apply noteRead_canonical | with_reducible apply canonical_ite
    | simp only [canonical_mk] | split)

theorem addEdge_canonical (s : State) (x : Index) (j : MergeJob) (m : Nat) (n : Nat) (h_s : Canonical s) :
    CanonicalOptFst (State.addEdge s x j m n) := by
  unfold State.addEdge
  repeat' (first
    | intro _ | with_reducible assumption | with_reducible apply cowWrite_canonical
    | with_reducible refine cowWrite_canonical_eq (by with_reducible assumption) ?_
    | with_reducible refine cowWrite_canonical_eq_1 (by with_reducible assumption) ?_
    | with_reducible apply mergeMeasured_canonical | with_reducible apply mergeQuery_canonical
    | with_reducible apply canonical_ite | with_reducible apply canonicalOptFst_none
    | with_reducible apply canonicalOptFst_some | with_reducible apply canonicalOptFst_map
    | with_reducible apply canonicalOptFst_ite | with_reducible apply canonicalOptFst_bind
    | with_reducible apply canonicalOptFst_foldl | with_reducible apply canonicalOptFst_bind_opt
    | with_reducible apply canonicalOptFst_bind_any | with_reducible apply canonicalOptSnd_none
    | with_reducible apply canonicalOptSnd_some | with_reducible apply canonicalOptSnd_ite | simp only [canonical_mk]
    | with_reducible refine canonicalOpt_eq (by with_reducible assumption) ?_
    | with_reducible refine canonicalOptFst_eq (by with_reducible assumption) ?_
    | with_reducible refine canonicalOptFst_eq_1 (by with_reducible assumption) ?_ | split
    | with_reducible apply canonicalOpt_none | with_reducible apply canonicalOpt_some
    | with_reducible apply canonicalOpt_map | with_reducible apply canonicalOpt_ite
    | with_reducible apply canonicalOpt_bind | with_reducible apply canonicalOpt_foldl
    | with_reducible apply canonicalOpt_bind_fst | with_reducible apply canonicalOpt_bind_any)

theorem addEdge_canonical_eq_1 {s : State} {x : Index} {j : MergeJob} {m : Nat} {n : Nat} {r} (h_eq : State.addEdge s x j m n = some r)
    (h_s : Canonical s) : Canonical r.1 :=
  (addEdge_canonical s x j m n h_s).elim _ h_eq

theorem addEdge_canonical_eq {s : State} {x : Index} {j : MergeJob} {m : Nat} {n : Nat} {a_ t} (h_eq : State.addEdge s x j m n = some (t, a_))
    (h_s : Canonical s) : Canonical t :=
  (addEdge_canonical s x j m n h_s).elim _ h_eq

theorem linkSlot_canonical (s : State) (x : Index) (j : MergeJob) (a : Nat) (h_s : Canonical s) :
    CanonicalOptFst (State.linkSlot s x j a) := by
  unfold State.linkSlot
  repeat' (first
    | intro _ | with_reducible assumption | with_reducible apply addEdge_canonical
    | with_reducible refine addEdge_canonical_eq (by with_reducible assumption) ?_
    | with_reducible refine addEdge_canonical_eq_1 (by with_reducible assumption) ?_
    | with_reducible apply count_canonical | with_reducible apply cowWrite_canonical
    | with_reducible refine cowWrite_canonical_eq (by with_reducible assumption) ?_
    | with_reducible refine cowWrite_canonical_eq_1 (by with_reducible assumption) ?_
    | with_reducible apply mergeMeasured_canonical | with_reducible apply take_canonical
    | with_reducible apply takeChunk_canonical
    | with_reducible refine takeChunk_canonical_eq (by with_reducible assumption) ?_
    | with_reducible refine takeChunk_canonical_eq_1 (by with_reducible assumption) ?_
    | with_reducible apply trace_canonical | with_reducible apply zeroRange_canonical | with_reducible apply canonical_ite
    | with_reducible apply canonical_ite_fst | with_reducible apply canonical_ite_snd
    | with_reducible refine canonical_foldl ?_ ?_ | with_reducible refine canonical_foldl_snd ?_ ?_
    | with_reducible refine canonical_foldl_fst ?_ ?_ | with_reducible refine canonical_getD ?_ ?_
    | with_reducible apply canonicalOptFst_none | with_reducible apply canonicalOptFst_some
    | with_reducible apply canonicalOptFst_map | with_reducible apply canonicalOptFst_ite
    | with_reducible apply canonicalOptFst_bind | with_reducible apply canonicalOptFst_foldl
    | with_reducible apply canonicalOptFst_bind_opt | with_reducible apply canonicalOptFst_bind_any
    | with_reducible apply canonicalOptSnd_none | with_reducible apply canonicalOptSnd_some
    | with_reducible apply canonicalOptSnd_ite | simp only [canonical_mk]
    | with_reducible refine canonicalOpt_eq (by with_reducible assumption) ?_
    | with_reducible refine canonicalOptFst_eq (by with_reducible assumption) ?_
    | with_reducible refine canonicalOptFst_eq_1 (by with_reducible assumption) ?_ | split
    | with_reducible apply canonicalOpt_none | with_reducible apply canonicalOpt_some
    | with_reducible apply canonicalOpt_map | with_reducible apply canonicalOpt_ite
    | with_reducible apply canonicalOpt_bind | with_reducible apply canonicalOpt_foldl
    | with_reducible apply canonicalOpt_bind_fst | with_reducible apply canonicalOpt_bind_any)

theorem linkSlot_canonical_eq_1 {s : State} {x : Index} {j : MergeJob} {a : Nat} {r} (h_eq : State.linkSlot s x j a = some r)
    (h_s : Canonical s) : Canonical r.1 :=
  (linkSlot_canonical s x j a h_s).elim _ h_eq

theorem linkSlot_canonical_eq {s : State} {x : Index} {j : MergeJob} {a : Nat} {a_ t} (h_eq : State.linkSlot s x j a = some (t, a_))
    (h_s : Canonical s) : Canonical t :=
  (linkSlot_canonical s x j a h_s).elim _ h_eq

theorem mergeFail_canonical (s : State) (p : Nat) (status : Nat) (h_s : Canonical s) :
    Canonical (State.mergeFail s p status) := by
  unfold State.mergeFail
  repeat' (first
    | intro _ | with_reducible assumption | with_reducible apply endWith_canonical | with_reducible apply event_canonical
    | with_reducible apply setFld_canonical | with_reducible apply setIndex_canonical | with_reducible apply canonical_ite
    | with_reducible apply canonical_ite_fst | with_reducible apply canonical_ite_snd | simp only [canonical_mk] | split)

theorem linkSlots_canonical (s : State) (p : Nat) (j : MergeJob) (live : List Nat) (h_s : Canonical s) :
    CanonicalOptFst (State.linkSlots s p j live) := by
  unfold State.linkSlots
  repeat' (first
    | intro _ | with_reducible assumption | with_reducible apply linkSlot_canonical
    | with_reducible refine linkSlot_canonical_eq (by with_reducible assumption) ?_
    | with_reducible refine linkSlot_canonical_eq_1 (by with_reducible assumption) ?_ | with_reducible apply canonical_ite
    | with_reducible apply canonical_ite_fst | with_reducible apply canonical_ite_snd
    | with_reducible refine canonical_foldl ?_ ?_ | with_reducible refine canonical_foldl_snd ?_ ?_
    | with_reducible refine canonical_foldl_fst ?_ ?_ | with_reducible apply canonicalOptFst_none
    | with_reducible apply canonicalOptFst_some | with_reducible apply canonicalOptFst_map
    | with_reducible apply canonicalOptFst_ite | with_reducible apply canonicalOptFst_bind
    | with_reducible apply canonicalOptFst_foldl | with_reducible apply canonicalOptFst_bind_opt
    | with_reducible apply canonicalOptFst_bind_any | with_reducible apply canonicalOptSnd_none
    | with_reducible apply canonicalOptSnd_some | with_reducible apply canonicalOptSnd_ite | simp only [canonical_mk]
    | split)

theorem linkSlots_canonical_eq_1 {s : State} {p : Nat} {j : MergeJob} {live : List Nat} {r} (h_eq : State.linkSlots s p j live = some r)
    (h_s : Canonical s) : Canonical r.1 :=
  (linkSlots_canonical s p j live h_s).elim _ h_eq

theorem linkSlots_canonical_eq {s : State} {p : Nat} {j : MergeJob} {live : List Nat} {a_ t} (h_eq : State.linkSlots s p j live = some (t, a_))
    (h_s : Canonical s) : Canonical t :=
  (linkSlots_canonical s p j live h_s).elim _ h_eq

theorem linkAll_canonical (s : State) (p : Nat) (h_s : Canonical s) :
    Canonical (State.linkAll s p) := by
  unfold State.linkAll
  repeat' (first
    | intro _ | with_reducible assumption | with_reducible apply dramUe_canonical
    | with_reducible apply linkSlots_canonical
    | with_reducible refine linkSlots_canonical_eq (by with_reducible assumption) ?_
    | with_reducible refine linkSlots_canonical_eq_1 (by with_reducible assumption) ?_
    | with_reducible apply mergeFail_canonical | with_reducible apply setFld_canonical
    | with_reducible apply setMerge_canonical | with_reducible apply canonical_ite | simp only [canonical_mk]
    | with_reducible refine canonicalOpt_eq (by with_reducible assumption) ?_
    | with_reducible refine canonicalOptFst_eq (by with_reducible assumption) ?_
    | with_reducible refine canonicalOptFst_eq_1 (by with_reducible assumption) ?_ | split
    | with_reducible apply canonicalOpt_none | with_reducible apply canonicalOpt_some
    | with_reducible apply canonicalOpt_map | with_reducible apply canonicalOpt_ite
    | with_reducible apply canonicalOpt_bind | with_reducible apply canonicalOpt_foldl
    | with_reducible apply canonicalOpt_bind_fst | with_reducible apply canonicalOpt_bind_any
    | with_reducible apply canonicalOptFst_none | with_reducible apply canonicalOptFst_some
    | with_reducible apply canonicalOptFst_map | with_reducible apply canonicalOptFst_ite
    | with_reducible apply canonicalOptFst_bind | with_reducible apply canonicalOptFst_foldl
    | with_reducible apply canonicalOptFst_bind_opt | with_reducible apply canonicalOptFst_bind_any
    | with_reducible apply canonicalOptSnd_none | with_reducible apply canonicalOptSnd_some
    | with_reducible apply canonicalOptSnd_ite)

theorem bodyIndexMergeStart_canonical (c : Cmd) (s : State) (h_s : Canonical s) :
    Canonical (bodyIndexMergeStart c s) := by
  unfold bodyIndexMergeStart
  repeat' (first
    | intro _ | with_reducible assumption | with_reducible apply count_canonical | with_reducible apply linkAll_canonical
    | with_reducible apply refuse_canonical | with_reducible apply refuseBusy_canonical
    | with_reducible apply refuseHint_canonical | with_reducible apply setRaw_canonical
    | with_reducible apply shaped_canonical | with_reducible apply canonical_ite | simp only [canonical_mk] | split)

theorem repairNode_canonical (s : State) (x : Index) (j : MergeJob) (n : Nat) (h_s : Canonical s) :
    CanonicalOptFst (State.repairNode s x j n) := by
  unfold State.repairNode
  repeat' (first
    | intro _ | with_reducible assumption | with_reducible apply cowWrite_canonical
    | with_reducible refine cowWrite_canonical_eq (by with_reducible assumption) ?_
    | with_reducible refine cowWrite_canonical_eq_1 (by with_reducible assumption) ?_
    | with_reducible apply measured_canonical | with_reducible apply mergeMeasured_canonical
    | with_reducible apply mergeQuery_canonical | with_reducible apply canonical_ite
    | with_reducible apply canonical_ite_fst | with_reducible apply canonical_ite_snd
    | with_reducible refine canonical_foldl ?_ ?_ | with_reducible refine canonical_foldl_snd ?_ ?_
    | with_reducible refine canonical_foldl_fst ?_ ?_ | with_reducible apply canonicalOptFst_none
    | with_reducible apply canonicalOptFst_some | with_reducible apply canonicalOptFst_map
    | with_reducible apply canonicalOptFst_ite | with_reducible apply canonicalOptFst_bind
    | with_reducible apply canonicalOptFst_foldl | with_reducible apply canonicalOptFst_bind_opt
    | with_reducible apply canonicalOptFst_bind_any | with_reducible apply canonicalOptSnd_none
    | with_reducible apply canonicalOptSnd_some | with_reducible apply canonicalOptSnd_ite | simp only [canonical_mk]
    | with_reducible refine canonicalOpt_eq (by with_reducible assumption) ?_
    | with_reducible refine canonicalOptFst_eq (by with_reducible assumption) ?_
    | with_reducible refine canonicalOptFst_eq_1 (by with_reducible assumption) ?_ | split
    | with_reducible apply canonicalOpt_none | with_reducible apply canonicalOpt_some
    | with_reducible apply canonicalOpt_map | with_reducible apply canonicalOpt_ite
    | with_reducible apply canonicalOpt_bind | with_reducible apply canonicalOpt_foldl
    | with_reducible apply canonicalOpt_bind_fst | with_reducible apply canonicalOpt_bind_any)

theorem repairNode_canonical_eq_1 {s : State} {x : Index} {j : MergeJob} {n : Nat} {r} (h_eq : State.repairNode s x j n = some r)
    (h_s : Canonical s) : Canonical r.1 :=
  (repairNode_canonical s x j n h_s).elim _ h_eq

theorem repairNode_canonical_eq {s : State} {x : Index} {j : MergeJob} {n : Nat} {a_ t} (h_eq : State.repairNode s x j n = some (t, a_))
    (h_s : Canonical s) : Canonical t :=
  (repairNode_canonical s x j n h_s).elim _ h_eq

theorem repairNodes_canonical (s : State) (x : Index) (j : MergeJob) (nodes : List Nat) (h_s : Canonical s) :
    CanonicalOptFst (State.repairNodes s x j nodes) := by
  unfold State.repairNodes
  repeat' (first
    | intro _ | with_reducible assumption | with_reducible apply repairNode_canonical
    | with_reducible refine repairNode_canonical_eq (by with_reducible assumption) ?_
    | with_reducible refine repairNode_canonical_eq_1 (by with_reducible assumption) ?_
    | with_reducible apply canonical_ite | with_reducible apply canonical_ite_fst | with_reducible apply canonical_ite_snd
    | with_reducible refine canonical_foldl ?_ ?_ | with_reducible refine canonical_foldl_snd ?_ ?_
    | with_reducible refine canonical_foldl_fst ?_ ?_ | with_reducible apply canonicalOptFst_none
    | with_reducible apply canonicalOptFst_some | with_reducible apply canonicalOptFst_map
    | with_reducible apply canonicalOptFst_ite | with_reducible apply canonicalOptFst_bind
    | with_reducible apply canonicalOptFst_foldl | with_reducible apply canonicalOptFst_bind_opt
    | with_reducible apply canonicalOptFst_bind_any | with_reducible apply canonicalOptSnd_none
    | with_reducible apply canonicalOptSnd_some | with_reducible apply canonicalOptSnd_ite | simp only [canonical_mk]
    | split)

theorem repairNodes_canonical_eq_1 {s : State} {x : Index} {j : MergeJob} {nodes : List Nat} {r} (h_eq : State.repairNodes s x j nodes = some r)
    (h_s : Canonical s) : Canonical r.1 :=
  (repairNodes_canonical s x j nodes h_s).elim _ h_eq

theorem repairNodes_canonical_eq {s : State} {x : Index} {j : MergeJob} {nodes : List Nat} {a_ t} (h_eq : State.repairNodes s x j nodes = some (t, a_))
    (h_s : Canonical s) : Canonical t :=
  (repairNodes_canonical s x j nodes h_s).elim _ h_eq

theorem mergeRepairStep_canonical (p : Nat) (s : State) (h_s : Canonical s) :
    Canonical (mergeRepairStep p s) := by
  unfold mergeRepairStep
  repeat' (first
    | intro _ | with_reducible assumption | with_reducible apply count_canonical | with_reducible apply dramUe_canonical
    | with_reducible apply linkAll_canonical | with_reducible apply mergeFail_canonical
    | with_reducible apply mergeMeasured_canonical | with_reducible apply mergeQuery_canonical
    | with_reducible apply repairNodes_canonical
    | with_reducible refine repairNodes_canonical_eq (by with_reducible assumption) ?_
    | with_reducible refine repairNodes_canonical_eq_1 (by with_reducible assumption) ?_
    | with_reducible apply setFld_canonical | with_reducible apply setMerge_canonical | with_reducible apply canonical_ite
    | simp only [canonical_mk] | with_reducible refine canonicalOpt_eq (by with_reducible assumption) ?_
    | with_reducible refine canonicalOptFst_eq (by with_reducible assumption) ?_
    | with_reducible refine canonicalOptFst_eq_1 (by with_reducible assumption) ?_ | split
    | with_reducible apply canonicalOpt_none | with_reducible apply canonicalOpt_some
    | with_reducible apply canonicalOpt_map | with_reducible apply canonicalOpt_ite
    | with_reducible apply canonicalOpt_bind | with_reducible apply canonicalOpt_foldl
    | with_reducible apply canonicalOpt_bind_fst | with_reducible apply canonicalOpt_bind_any
    | with_reducible apply canonicalOptFst_none | with_reducible apply canonicalOptFst_some
    | with_reducible apply canonicalOptFst_map | with_reducible apply canonicalOptFst_ite
    | with_reducible apply canonicalOptFst_bind | with_reducible apply canonicalOptFst_foldl
    | with_reducible apply canonicalOptFst_bind_opt | with_reducible apply canonicalOptFst_bind_any
    | with_reducible apply canonicalOptSnd_none | with_reducible apply canonicalOptSnd_some
    | with_reducible refine canonical_pair_eq (by with_reducible assumption) ?_ | with_reducible apply canonicalOptSnd_ite
    | with_reducible apply canonical_ite_fst)

theorem publishWords_canonical (s : State) (x : Index) (j : MergeJob) (h_s : Canonical s) :
    Canonical (State.publishWords s x j) := by
  unfold State.publishWords
  repeat' (first
    | intro _ | with_reducible assumption | with_reducible apply setBitAt_canonical | with_reducible apply store_canonical
    | with_reducible apply canonical_ite | with_reducible apply canonical_ite_fst | with_reducible apply canonical_ite_snd
    | with_reducible refine canonical_foldl ?_ ?_ | with_reducible refine canonical_foldl_snd ?_ ?_
    | with_reducible refine canonical_foldl_fst ?_ ?_ | simp only [canonical_mk]
    | with_reducible refine canonicalOpt_eq (by with_reducible assumption) ?_
    | with_reducible refine canonicalOptFst_eq (by with_reducible assumption) ?_
    | with_reducible refine canonicalOptFst_eq_1 (by with_reducible assumption) ?_ | split
    | with_reducible apply canonicalOpt_none | with_reducible apply canonicalOpt_some
    | with_reducible apply canonicalOpt_map | with_reducible apply canonicalOpt_ite
    | with_reducible apply canonicalOpt_bind | with_reducible apply canonicalOpt_foldl
    | with_reducible apply canonicalOpt_bind_fst | with_reducible apply canonicalOpt_bind_any
    | with_reducible apply canonicalOptFst_none | with_reducible apply canonicalOptFst_some
    | with_reducible apply canonicalOptFst_map | with_reducible apply canonicalOptFst_ite
    | with_reducible apply canonicalOptFst_bind | with_reducible apply canonicalOptFst_foldl
    | with_reducible apply canonicalOptFst_bind_opt | with_reducible apply canonicalOptFst_bind_any
    | with_reducible apply canonicalOptSnd_none | with_reducible apply canonicalOptSnd_some
    | with_reducible apply canonicalOptSnd_ite)

theorem rebind_canonical (s : State) (p : Nat) (j : MergeJob) (h_s : Canonical s) :
    Canonical (State.rebind s p j) := by
  unfold State.rebind
  repeat' (first
    | intro _ | with_reducible assumption | with_reducible apply retake_canonical | with_reducible apply canonical_ite
    | with_reducible apply canonical_ite_fst | with_reducible apply canonical_ite_snd
    | with_reducible refine canonical_foldl ?_ ?_ | with_reducible refine canonical_foldl_snd ?_ ?_
    | with_reducible refine canonical_foldl_fst ?_ ?_ | simp only [canonical_mk]
    | with_reducible refine canonicalOpt_eq (by with_reducible assumption) ?_
    | with_reducible refine canonicalOptFst_eq (by with_reducible assumption) ?_
    | with_reducible refine canonicalOptFst_eq_1 (by with_reducible assumption) ?_ | split
    | with_reducible apply canonicalOpt_none | with_reducible apply canonicalOpt_some
    | with_reducible apply canonicalOpt_map | with_reducible apply canonicalOpt_ite
    | with_reducible apply canonicalOpt_bind | with_reducible apply canonicalOpt_foldl
    | with_reducible apply canonicalOpt_bind_fst | with_reducible apply canonicalOpt_bind_any
    | with_reducible apply canonicalOptFst_none | with_reducible apply canonicalOptFst_some
    | with_reducible apply canonicalOptFst_map | with_reducible apply canonicalOptFst_ite
    | with_reducible apply canonicalOptFst_bind | with_reducible apply canonicalOptFst_foldl
    | with_reducible apply canonicalOptFst_bind_opt | with_reducible apply canonicalOptFst_bind_any
    | with_reducible apply canonicalOptSnd_none | with_reducible apply canonicalOptSnd_some
    | with_reducible apply canonicalOptSnd_ite)

theorem publish_canonical (s : State) (p : Nat) (j : MergeJob) (x : Index) (h_s : Canonical s) :
    Canonical (State.publish s p j x) := by
  unfold State.publish
  repeat' (first
    | intro _ | with_reducible assumption | with_reducible apply endWith_canonical | with_reducible apply event_canonical
    | with_reducible apply publishWords_canonical | with_reducible apply rebind_canonical
    | with_reducible apply setFld_canonical | with_reducible apply setIndex_canonical
    | with_reducible apply setMerge_canonical | with_reducible apply canonical_ite | simp only [canonical_mk]
    | with_reducible refine canonicalOpt_eq (by with_reducible assumption) ?_
    | with_reducible refine canonicalOptFst_eq (by with_reducible assumption) ?_
    | with_reducible refine canonicalOptFst_eq_1 (by with_reducible assumption) ?_ | split
    | with_reducible apply canonicalOpt_none | with_reducible apply canonicalOpt_some
    | with_reducible apply canonicalOpt_map | with_reducible apply canonicalOpt_ite
    | with_reducible apply canonicalOpt_bind | with_reducible apply canonicalOpt_foldl
    | with_reducible apply canonicalOpt_bind_fst | with_reducible apply canonicalOpt_bind_any
    | with_reducible apply canonicalOptFst_none | with_reducible apply canonicalOptFst_some
    | with_reducible apply canonicalOptFst_map | with_reducible apply canonicalOptFst_ite
    | with_reducible apply canonicalOptFst_bind | with_reducible apply canonicalOptFst_foldl
    | with_reducible apply canonicalOptFst_bind_opt | with_reducible apply canonicalOptFst_bind_any
    | with_reducible apply canonicalOptSnd_none | with_reducible apply canonicalOptSnd_some
    | with_reducible apply canonicalOptSnd_ite)

theorem mergePublishStep_canonical (p : Nat) (s : State) (h_s : Canonical s) :
    Canonical (mergePublishStep p s) := by
  unfold mergePublishStep
  repeat' (first
    | intro _ | with_reducible assumption | with_reducible apply publish_canonical | with_reducible apply canonical_ite
    | simp only [canonical_mk] | split)

theorem mergeReclaimStep_canonical (p : Nat) (s : State) (h_s : Canonical s) :
    Canonical (mergeReclaimStep p s) := by
  unfold mergeReclaimStep
  repeat' (first
    | intro _ | with_reducible assumption | with_reducible apply setFld_canonical
    | with_reducible apply setIndex_canonical | with_reducible apply canonical_ite
    | with_reducible apply canonical_ite_fst | with_reducible apply canonical_ite_snd | simp only [canonical_mk]
    | with_reducible refine canonicalOpt_eq (by with_reducible assumption) ?_
    | with_reducible refine canonicalOptFst_eq (by with_reducible assumption) ?_
    | with_reducible refine canonicalOptFst_eq_1 (by with_reducible assumption) ?_ | split
    | with_reducible apply canonicalOpt_none | with_reducible apply canonicalOpt_some
    | with_reducible apply canonicalOpt_map | with_reducible apply canonicalOpt_ite
    | with_reducible apply canonicalOpt_bind | with_reducible apply canonicalOpt_foldl
    | with_reducible apply canonicalOpt_bind_fst | with_reducible apply canonicalOpt_bind_any
    | with_reducible apply canonicalOptFst_none | with_reducible apply canonicalOptFst_some
    | with_reducible apply canonicalOptFst_map | with_reducible apply canonicalOptFst_ite
    | with_reducible apply canonicalOptFst_bind | with_reducible apply canonicalOptFst_foldl
    | with_reducible apply canonicalOptFst_bind_opt | with_reducible apply canonicalOptFst_bind_any
    | with_reducible apply canonicalOptSnd_none | with_reducible apply canonicalOptSnd_some
    | with_reducible apply canonicalOptSnd_ite)

theorem failMergeOn_canonical (s : State) (w : Nat) (h_s : Canonical s) :
    Canonical (State.failMergeOn s w) := by
  unfold State.failMergeOn
  repeat' (first
    | intro _ | with_reducible assumption | with_reducible apply mergeFail_canonical | with_reducible apply canonical_ite
    | with_reducible apply canonical_ite_fst | with_reducible apply canonical_ite_snd | simp only [canonical_mk]
    | with_reducible refine canonicalOpt_eq (by with_reducible assumption) ?_
    | with_reducible refine canonicalOptFst_eq (by with_reducible assumption) ?_
    | with_reducible refine canonicalOptFst_eq_1 (by with_reducible assumption) ?_ | split
    | with_reducible apply canonicalOpt_none | with_reducible apply canonicalOpt_some
    | with_reducible apply canonicalOpt_map | with_reducible apply canonicalOpt_ite
    | with_reducible apply canonicalOpt_bind | with_reducible apply canonicalOpt_foldl
    | with_reducible apply canonicalOpt_bind_fst | with_reducible apply canonicalOpt_bind_any
    | with_reducible apply canonicalOptFst_none | with_reducible apply canonicalOptFst_some
    | with_reducible apply canonicalOptFst_map | with_reducible apply canonicalOptFst_ite
    | with_reducible apply canonicalOptFst_bind | with_reducible apply canonicalOptFst_foldl
    | with_reducible apply canonicalOptFst_bind_opt | with_reducible apply canonicalOptFst_bind_any
    | with_reducible apply canonicalOptSnd_none | with_reducible apply canonicalOptSnd_some
    | with_reducible apply canonicalOptSnd_ite)

theorem walkerFaultStep_canonical (done : Nat → State → State) (w : Nat) (s : State) (h_done : ∀ (x0 : Nat), ∀ (x1 : State), Canonical x1 → Canonical (done x0 x1)) (h_s : Canonical s) :
    Canonical (walkerFaultStep done w s) := by
  unfold walkerFaultStep
  repeat' (first
    | intro _ | with_reducible assumption | with_reducible apply h_done | with_reducible apply event_canonical
    | with_reducible apply failMergeOn_canonical | with_reducible apply report_canonical
    | with_reducible apply restartSearches_canonical | with_reducible apply canonical_ite | simp only [canonical_mk]
    | split)

end Sys2Proof.Machine
end

