-- ==== Sys2Proof/Laws/CanonicalSelection.lean ====
section
/-! SUPPORT. Every operation of Machine/Selection.lean keeps the canonical forms of memory and of the registers. -/

set_option simprocs false
set_option linter.unusedTactic false
set_option linter.unusedSimpArgs false
set_option linter.unreachableTactic false

namespace Sys2Proof.Machine

theorem spillEntries_canonical (s : State) (p : Nat) (bs : List Byte) (h_s : Canonical s) :
    Canonical (State.spillEntries s p bs) := by
  unfold State.spillEntries
  repeat' (first
    | intro _ | with_reducible assumption | with_reducible apply store_canonical | with_reducible apply canonical_ite
    | with_reducible apply canonical_ite_fst | with_reducible apply canonical_ite_snd | simp only [canonical_mk] | split)

theorem dropJob_canonical (s : State) (cmd : Nat) (h_s : Canonical s) :
    Canonical (State.dropJob s cmd) := by
  unfold State.dropJob
  repeat' (first
    | intro _ | with_reducible assumption | with_reducible apply setFld_canonical | with_reducible apply canonical_ite
    | with_reducible refine canonical_foldl ?_ ?_ | with_reducible refine canonical_foldl_snd ?_ ?_
    | with_reducible refine canonical_foldl_fst ?_ ?_ | simp only [canonical_mk] | split)

theorem startSelection_canonical (s : State) (j : UnitJob) (u : Nat) (h_s : Canonical s) :
    Canonical (State.startSelection s j u) := by
  unfold State.startSelection
  repeat' (first
    | intro _ | with_reducible assumption | with_reducible apply dropJob_canonical | with_reducible apply memUe_canonical
    | with_reducible apply setFld_canonical | with_reducible apply store_canonical | with_reducible apply canonical_ite
    | with_reducible apply canonical_ite_fst | with_reducible apply canonical_ite_snd | simp only [canonical_mk]
    | with_reducible refine canonicalOpt_eq (by with_reducible assumption) ?_
    | with_reducible refine canonicalOptFst_eq (by with_reducible assumption) ?_
    | with_reducible refine canonicalOptFst_eq_1 (by with_reducible assumption) ?_ | split
    | with_reducible apply canonicalOpt_none | with_reducible apply canonicalOpt_some
    | with_reducible apply canonicalOpt_map | with_reducible apply canonicalOpt_ite
    | with_reducible apply canonicalOpt_bind | with_reducible apply canonicalOpt_foldl
    | with_reducible apply canonicalOpt_bind_fst | with_reducible apply canonicalOpt_bind_any
    | with_reducible apply canonicalOptFst_none | with_reducible apply canonicalOptFst_some
    | with_reducible apply canonicalOptFst_map | with_reducible apply canonicalOptFst_ite
    | with_reducible apply canonicalOptFst_bind | with_reducible apply canonicalOptFst_foldl
    | with_reducible apply canonicalOptFst_bind_opt | with_reducible apply canonicalOptFst_bind_any
    | with_reducible apply canonicalOptSnd_none | with_reducible apply canonicalOptSnd_some
    | with_reducible apply canonicalOptSnd_ite)

theorem selectionTakeStep_canonical (s : State) (h_s : Canonical s) :
    Canonical (selectionTakeStep s) := by
  unfold selectionTakeStep
  repeat' (first
    | intro _ | with_reducible assumption | with_reducible apply startSelection_canonical
    | with_reducible apply canonical_ite | simp only [canonical_mk]
    | with_reducible refine canonicalOpt_eq (by with_reducible assumption) ?_
    | with_reducible refine canonicalOptFst_eq (by with_reducible assumption) ?_
    | with_reducible refine canonicalOptFst_eq_1 (by with_reducible assumption) ?_ | split
    | with_reducible apply canonicalOpt_none | with_reducible apply canonicalOpt_some
    | with_reducible apply canonicalOpt_map | with_reducible apply canonicalOpt_ite
    | with_reducible apply canonicalOpt_bind | with_reducible apply canonicalOpt_foldl
    | with_reducible apply canonicalOpt_bind_fst | with_reducible apply canonicalOpt_bind_any
    | with_reducible apply canonicalOptFst_none | with_reducible apply canonicalOptFst_some
    | with_reducible apply canonicalOptFst_map | with_reducible apply canonicalOptFst_ite
    | with_reducible apply canonicalOptFst_bind | with_reducible apply canonicalOptFst_foldl
    | with_reducible apply canonicalOptFst_bind_opt | with_reducible apply canonicalOptFst_bind_any
    | with_reducible apply canonicalOptSnd_none | with_reducible apply canonicalOptSnd_some
    | with_reducible apply canonicalOptSnd_ite)

theorem selectBody_canonical (c : Cmd) (s : State) (h_s : Canonical s) :
    Canonical (selectBody c s) := by
  unfold selectBody
  repeat' (first
    | intro _ | with_reducible assumption | with_reducible apply event_canonical | with_reducible apply refuse_canonical
    | with_reducible apply selectionTakeStep_canonical | with_reducible apply canonical_ite
    | with_reducible apply canonical_ite_fst | with_reducible apply canonical_ite_snd | simp only [canonical_mk] | split)

theorem bodySelectTopk_canonical (c : Cmd) (s : State) (h_s : Canonical s) :
    Canonical (bodySelectTopk c s) := by
  unfold bodySelectTopk
  repeat' (first
    | intro _ | with_reducible assumption | with_reducible apply selectBody_canonical | with_reducible apply canonical_ite
    | simp only [canonical_mk] | split)

theorem bodyArgmax_canonical (c : Cmd) (s : State) (h_s : Canonical s) :
    Canonical (bodyArgmax c s) := by
  unfold bodyArgmax
  repeat' (first
    | intro _ | with_reducible assumption | with_reducible apply selectBody_canonical | with_reducible apply canonical_ite
    | simp only [canonical_mk] | split)

theorem bodySelectTopp_canonical (c : Cmd) (s : State) (h_s : Canonical s) :
    Canonical (bodySelectTopp c s) := by
  unfold bodySelectTopp
  repeat' (first
    | intro _ | with_reducible assumption | with_reducible apply selectBody_canonical | with_reducible apply canonical_ite
    | simp only [canonical_mk] | split)

theorem spill_canonical (s : State) (c : Cmd) (j : UnitJob) (h_s : Canonical s) :
    Canonical (State.spill s c j) := by
  unfold State.spill
  repeat' (first
    | intro _ | with_reducible assumption | with_reducible apply store_canonical | with_reducible apply canonical_ite
    | with_reducible apply canonical_ite_fst | with_reducible apply canonical_ite_snd | simp only [canonical_mk] | split)

theorem finishSelection_canonical (s : State) (j : UnitJob) (h_s : Canonical s) :
    Canonical (State.finishSelection s j) := by
  unfold State.finishSelection
  repeat' (first
    | intro _ | with_reducible assumption | with_reducible apply countSel_canonical
    | with_reducible apply dropJob_canonical | with_reducible apply refuse_canonical
    | with_reducible apply replyData_canonical | with_reducible apply report_canonical
    | with_reducible apply spill_canonical | with_reducible apply canonical_ite | simp only [canonical_mk] | split)

theorem selectionUnitFaultStep_canonical (u : Nat) (s : State) (h_s : Canonical s) :
    Canonical (selectionUnitFaultStep u s) := by
  unfold selectionUnitFaultStep
  repeat' (first
    | intro _ | with_reducible assumption | with_reducible apply dropJob_canonical | with_reducible apply event_canonical
    | with_reducible apply refuse_canonical | with_reducible apply report_canonical
    | with_reducible apply startSelection_canonical | with_reducible apply canonical_ite | simp only [canonical_mk]
    | with_reducible refine canonicalOpt_eq (by with_reducible assumption) ?_
    | with_reducible refine canonicalOptFst_eq (by with_reducible assumption) ?_
    | with_reducible refine canonicalOptFst_eq_1 (by with_reducible assumption) ?_ | split
    | with_reducible apply canonicalOpt_none | with_reducible apply canonicalOpt_some
    | with_reducible apply canonicalOpt_map | with_reducible apply canonicalOpt_ite
    | with_reducible apply canonicalOpt_bind | with_reducible apply canonicalOpt_foldl
    | with_reducible apply canonicalOpt_bind_fst | with_reducible apply canonicalOpt_bind_any
    | with_reducible apply canonicalOptFst_none | with_reducible apply canonicalOptFst_some
    | with_reducible apply canonicalOptFst_map | with_reducible apply canonicalOptFst_ite
    | with_reducible apply canonicalOptFst_bind | with_reducible apply canonicalOptFst_foldl
    | with_reducible apply canonicalOptFst_bind_opt | with_reducible apply canonicalOptFst_bind_any
    | with_reducible apply canonicalOptSnd_none | with_reducible apply canonicalOptSnd_some
    | with_reducible apply canonicalOptSnd_ite)

end Sys2Proof.Machine
end

