-- ==== Sys2Proof/Laws/CanonicalText.lean ====
section
/-! SUPPORT. Every operation of Machine/Text.lean keeps the canonical forms of memory and of the registers. -/

set_option simprocs false
set_option linter.unusedTactic false
set_option linter.unusedSimpArgs false
set_option linter.unreachableTactic false

namespace Sys2Proof.Machine

theorem dropVocab_canonical (s : State) (slot : Nat) (h_s : Canonical s) :
    Canonical (State.dropVocab s slot) := by
  unfold State.dropVocab
  repeat' (first
    | intro _ | with_reducible assumption | with_reducible apply setRaw_canonical | with_reducible apply canonical_ite
    | with_reducible apply canonical_ite_fst | with_reducible apply canonical_ite_snd | simp only [canonical_mk] | split)

theorem putVocab_canonical (s : State) (c : Cmd) (slot : Nat) (im : List Byte) (ms : List Nat) (load : Nat) (at_ : Nat) (h_s : Canonical s) :
    Canonical (State.putVocab s c slot im ms load at_) := by
  unfold State.putVocab
  repeat' (first
    | intro _ | with_reducible assumption | with_reducible apply refuse_canonical | with_reducible apply setRaw_canonical
    | with_reducible apply store_canonical | with_reducible apply canonical_ite | simp only [canonical_mk] | split)

theorem bodyVocabLoad_canonical (c : Cmd) (s : State) (h_s : Canonical s) : Canonical (bodyVocabLoad c s) := by
  unfold bodyVocabLoad
  extract_lets +onlyGivenNames f p slot nm a n ms head
  clear_value ms head
  iterate 2
    with_reducible refine canonical_ite (refuse_canonical _ _ _ h_s) ?_
  extract_lets +onlyGivenNames old free foreign busy bound
  clear_value bound busy foreign free old
  iterate 2
    with_reducible refine canonical_ite (refuse_canonical _ _ _ h_s) ?_
  with_reducible refine canonical_ite (refuse_canonical _ _ _ (dramUe_canonical _ _ h_s)) ?_
  extract_lets +onlyGivenNames im
  clear_value im
  iterate 2
    with_reducible refine canonical_ite (refuse_canonical _ _ _ h_s) ?_
  with_reducible refine canonical_ite (refuseBusy_canonical _ _ h_s) ?_
  with_reducible refine canonical_ite (refuse_canonical _ _ _ (dropVocab_canonical _ _ h_s)) ?_
  with_reducible refine canonical_ite (refuse_canonical _ _ _ h_s) ?_
  extract_lets +onlyGivenNames s1
  have h1 : Canonical s1 := dropVocab_canonical _ _ h_s
  clear_value s1
  generalize s1.placeArea (TOK_PART_AREA p) n 64 (s1.textHeld p) = q
  cases q
  · with_reducible exact refuse_canonical _ _ _ h_s
  · with_reducible exact putVocab_canonical _ _ _ _ _ _ _ h1

theorem trieFill_canonical (s : State) (slot : Nat) (l : Nat) (h_s : Canonical s) :
    Canonical (State.trieFill s slot l) := by
  unfold State.trieFill
  repeat' (first
    | intro _ | with_reducible assumption | with_reducible apply tick_canonical | with_reducible apply canonical_ite
    | simp only [canonical_mk] | split)

theorem trieLine_canonical (s : State) (v : Vocab) (l : Nat) (h_s : Canonical s) :
    Canonical (State.trieLine s v l).1 := by
  unfold State.trieLine
  repeat' (first
    | intro _ | with_reducible assumption | with_reducible apply bump_canonical | with_reducible apply noteCe_canonical
    | with_reducible apply trieFill_canonical | with_reducible apply canonical_ite
    | with_reducible apply canonical_ite_fst | with_reducible apply canonical_ite_snd | simp only [canonical_mk] | split)

theorem trieLine_canonical_eq {s : State} {v : Vocab} {l : Nat} {t_ a1_} (h_eq : State.trieLine s v l = (t_, a1_))
    (h_s : Canonical s) : Canonical t_ := by
  have h_p := trieLine_canonical s v l h_s
  rw [h_eq] at h_p; exact h_p

theorem trieReads_canonical (s : State) (v : Vocab) (y0 : List Nat) (h_s : Canonical s) :
    Canonical (State.trieReads s v y0).1 := by
  revert h_s
  fun_induction State.trieReads s v y0 <;> intro h_s
  all_goals
    repeat' (first
      | intro _ | with_reducible assumption | with_reducible apply_assumption -exfalso -symm
      | with_reducible apply trieLine_canonical
      | with_reducible refine trieLine_canonical_eq (by with_reducible assumption) ?_ | with_reducible apply canonical_ite
      | with_reducible apply canonical_ite_fst | with_reducible apply canonical_ite_snd | simp only [canonical_mk] | split
      | (simp +zetaDelta only [canonical_mk]; done) | simp +zetaDelta only [canonical_mk])

theorem trieReads_canonical_eq {s : State} {v : Vocab} {y0 : List Nat} {t_ a1_} (h_eq : State.trieReads s v y0 = (t_, a1_))
    (h_s : Canonical s) : Canonical t_ := by
  have h_p := trieReads_canonical s v y0 h_s
  rw [h_eq] at h_p; exact h_p

theorem tokens_canonical (s : State) (v : Vocab) (y0 : Nat) (y1 : List Byte) (h_s : Canonical s) :
    Canonical (State.tokens s v y0 y1).1 := by
  induction y0 generalizing s y1 with
  | zero => cases y1 <;> exact h_s
  | succ fuel ih =>
    cases y1 with
    | nil => exact h_s
    | cons b bs =>
      unfold State.tokens
      extract_lets r s1
      have h1 : Canonical s1.1 := trieReads_canonical _ _ _ h_s
      clear_value r s1
      split
      · exact h1
      · exact ih _ _ h1
      · split
        · exact noteCe_canonical _ _ _ h1
        · exact ih _ _ (noteCe_canonical _ _ _ h1)

theorem tokens_canonical_eq {s : State} {v : Vocab} {y0 : Nat} {y1 : List Byte} {t_ a1_ a2_} (h_eq : State.tokens s v y0 y1 = (t_, a1_, a2_))
    (h_s : Canonical s) : Canonical t_ := by
  have h_p := tokens_canonical s v y0 y1 h_s
  rw [h_eq] at h_p; exact h_p

theorem tokenizeAll_canonical (s : State) (v : Vocab) (y0 : List (List Byte)) (h_s : Canonical s) :
    Canonical (State.tokenizeAll s v y0).1 := by
  revert h_s
  fun_induction State.tokenizeAll s v y0 <;> intro h_s
  all_goals
    repeat' (first
      | intro _ | with_reducible assumption | with_reducible apply_assumption -exfalso -symm
      | with_reducible apply tokens_canonical
      | with_reducible refine tokens_canonical_eq (by with_reducible assumption) ?_ | with_reducible apply canonical_ite
      | with_reducible apply canonical_ite_fst | with_reducible apply canonical_ite_snd | simp only [canonical_mk] | split
      | (simp +zetaDelta only [canonical_mk]; done) | simp +zetaDelta only [canonical_mk])

theorem tokenizeAll_canonical_eq {s : State} {v : Vocab} {y0 : List (List Byte)} {t_ a1_ a2_} (h_eq : State.tokenizeAll s v y0 = (t_, a1_, a2_))
    (h_s : Canonical s) : Canonical t_ := by
  have h_p := tokenizeAll_canonical s v y0 h_s
  rw [h_eq] at h_p; exact h_p

theorem countTok_canonical (s : State) (p : Nat) (n : Nat) (h_s : Canonical s) :
    Canonical (State.countTok s p n) := by
  unfold State.countTok
  repeat' (first
    | intro _ | with_reducible assumption | with_reducible apply bump_canonical | with_reducible apply canonical_ite
    | simp only [canonical_mk] | split)

theorem startTokenization_canonical (s : State) (j : UnitJob) (u : Nat) (r : JobEnd) (bytes : Nat) (h_s : Canonical s) :
    Canonical (State.startTokenization s j u r bytes) := by
  unfold State.startTokenization
  repeat' (first
    | intro _ | with_reducible assumption | with_reducible apply canonical_ite | simp only [canonical_mk] | split)

theorem reportVocab_canonical (s : State) (p : Nat) (a : Nat) (h_s : Canonical s) :
    Canonical (State.reportVocab s p a) := by
  unfold State.reportVocab
  repeat' (first
    | intro _ | with_reducible assumption | with_reducible apply event_canonical | with_reducible apply memUe_canonical
    | with_reducible apply canonical_ite | simp only [canonical_mk] | split)

theorem runTexts_canonical (s : State) (v : Vocab) (ts : List (List Byte)) (shape : List (List Nat) → List Byte) (h_s : Canonical s) :
    Canonical (State.runTexts s v ts shape).1 := by
  unfold State.runTexts
  repeat' (first
    | intro _ | with_reducible assumption | with_reducible apply tokenizeAll_canonical
    | with_reducible refine tokenizeAll_canonical_eq (by with_reducible assumption) ?_
    | with_reducible apply canonical_ite | with_reducible apply canonical_ite_fst | with_reducible apply canonical_ite_snd
    | simp only [canonical_mk] | with_reducible refine canonicalOpt_eq (by with_reducible assumption) ?_
    | with_reducible refine canonicalOptFst_eq (by with_reducible assumption) ?_
    | with_reducible refine canonicalOptFst_eq_1 (by with_reducible assumption) ?_ | split
    | with_reducible apply canonicalOpt_none | with_reducible apply canonicalOpt_some
    | with_reducible apply canonicalOpt_map | with_reducible apply canonicalOpt_ite
    | with_reducible apply canonicalOpt_bind | with_reducible apply canonicalOpt_foldl
    | with_reducible apply canonicalOpt_bind_fst | with_reducible apply canonicalOpt_bind_any
    | with_reducible apply canonicalOptFst_none | with_reducible apply canonicalOptFst_some
    | with_reducible apply canonicalOptFst_map | with_reducible apply canonicalOptFst_ite
    | with_reducible apply canonicalOptFst_bind | with_reducible apply canonicalOptFst_foldl
    | with_reducible apply canonicalOptFst_bind_opt | with_reducible apply canonicalOptFst_bind_any
    | with_reducible apply canonicalOptSnd_none | with_reducible apply canonicalOptSnd_some
    | with_reducible apply canonicalOptSnd_ite)

theorem runTexts_canonical_eq {s : State} {v : Vocab} {ts : List (List Byte)} {shape : List (List Nat) → List Byte} {t_ a1_} (h_eq : State.runTexts s v ts shape = (t_, a1_))
    (h_s : Canonical s) : Canonical t_ := by
  have h_p := runTexts_canonical s v ts shape h_s
  rw [h_eq] at h_p; exact h_p

theorem tokenizationTakeStep_canonical (run : Cmd → State → State × JobEnd × Nat) (s : State) (h_run : ∀ (x0 : Cmd), ∀ (x1 : State), Canonical x1 → Canonical (run x0 x1).1) (h_s : Canonical s) :
    Canonical (tokenizationTakeStep run s) := by
  unfold tokenizationTakeStep
  repeat' (first
    | intro _ | with_reducible assumption | with_reducible apply h_run | with_reducible apply startTokenization_canonical
    | with_reducible apply canonical_ite | with_reducible apply canonical_ite_fst | with_reducible apply canonical_ite_snd
    | simp only [canonical_mk] | with_reducible refine canonicalOpt_eq (by with_reducible assumption) ?_
    | with_reducible refine canonicalOptFst_eq (by with_reducible assumption) ?_
    | with_reducible refine canonicalOptFst_eq_1 (by with_reducible assumption) ?_ | split
    | with_reducible apply canonicalOpt_none | with_reducible apply canonicalOpt_some
    | with_reducible apply canonicalOpt_map | with_reducible apply canonicalOpt_ite
    | with_reducible apply canonicalOpt_bind | with_reducible apply canonicalOpt_foldl
    | with_reducible apply canonicalOpt_bind_fst | with_reducible apply canonicalOpt_bind_any
    | with_reducible apply canonicalOptFst_none | with_reducible apply canonicalOptFst_some
    | with_reducible apply canonicalOptFst_map | with_reducible apply canonicalOptFst_ite
    | with_reducible apply canonicalOptFst_bind | with_reducible apply canonicalOptFst_foldl
    | with_reducible apply canonicalOptFst_bind_opt | with_reducible apply canonicalOptFst_bind_any
    | with_reducible apply canonicalOptSnd_none | with_reducible apply canonicalOptSnd_some
    | with_reducible apply canonicalOptSnd_ite)

theorem addTokenization_canonical (s : State) (run : Cmd → State → State × JobEnd × Nat) (c : Cmd) (h_s : Canonical s) (h_run : ∀ (x0 : Cmd), ∀ (x1 : State), Canonical x1 → Canonical (run x0 x1).1) :
    Canonical (State.addTokenization s run c) := by
  unfold State.addTokenization
  repeat' (first
    | intro _ | with_reducible assumption | with_reducible apply h_run
    | with_reducible apply tokenizationTakeStep_canonical | with_reducible apply canonical_ite | simp only [canonical_mk]
    | split)

theorem bodyTokenize_canonical (run : Cmd → State → State × JobEnd × Nat) (c : Cmd) (s : State) (h_run : ∀ (x0 : Cmd), ∀ (x1 : State), Canonical x1 → Canonical (run x0 x1).1) (h_s : Canonical s) :
    Canonical (bodyTokenize run c s) := by
  unfold bodyTokenize
  repeat' (first
    | intro _ | with_reducible assumption | with_reducible apply h_run | with_reducible apply addTokenization_canonical
    | with_reducible apply refuse_canonical | with_reducible apply canonical_ite | simp only [canonical_mk] | split)

theorem tokenizerEngineFaultStep_canonical (run : Cmd → State → State × JobEnd × Nat) (fail : Cmd → Nat → State → State) (e : Nat) (s : State) (h_run : ∀ (x0 : Cmd), ∀ (x1 : State), Canonical x1 → Canonical (run x0 x1).1) (h_fail : ∀ (x0 : Cmd), ∀ (x1 : Nat), ∀ (x2 : State), Canonical x2 → Canonical (fail x0 x1 x2)) (h_s : Canonical s) :
    Canonical (tokenizerEngineFaultStep run fail e s) := by
  unfold tokenizerEngineFaultStep
  repeat' (first
    | intro _ | with_reducible assumption | with_reducible apply h_run | with_reducible apply h_fail
    | with_reducible apply dropJob_canonical | with_reducible apply event_canonical
    | with_reducible apply report_canonical | with_reducible apply startTokenization_canonical
    | with_reducible apply canonical_ite | with_reducible apply canonical_ite_fst | with_reducible apply canonical_ite_snd
    | simp only [canonical_mk] | with_reducible refine canonicalOpt_eq (by with_reducible assumption) ?_
    | with_reducible refine canonicalOptFst_eq (by with_reducible assumption) ?_
    | with_reducible refine canonicalOptFst_eq_1 (by with_reducible assumption) ?_ | split
    | with_reducible apply canonicalOpt_none | with_reducible apply canonicalOpt_some
    | with_reducible apply canonicalOpt_map | with_reducible apply canonicalOpt_ite
    | with_reducible apply canonicalOpt_bind | with_reducible apply canonicalOpt_foldl
    | with_reducible apply canonicalOpt_bind_fst | with_reducible apply canonicalOpt_bind_any
    | with_reducible apply canonicalOptFst_none | with_reducible apply canonicalOptFst_some
    | with_reducible apply canonicalOptFst_map | with_reducible apply canonicalOptFst_ite
    | with_reducible apply canonicalOptFst_bind | with_reducible apply canonicalOptFst_foldl
    | with_reducible apply canonicalOptFst_bind_opt | with_reducible apply canonicalOptFst_bind_any
    | with_reducible apply canonicalOptSnd_none | with_reducible apply canonicalOptSnd_some
    | with_reducible apply canonicalOptSnd_ite)

theorem readTok_canonical (s : State) (v : Vocab) (t : Nat) (h_s : Canonical s) :
    Canonical (State.readTok s v t).1 := by
  unfold State.readTok
  repeat' (first
    | intro _ | with_reducible assumption | with_reducible apply noteCe_canonical | with_reducible apply canonical_ite
    | with_reducible apply canonical_ite_fst | with_reducible apply canonical_ite_snd
    | with_reducible refine canonical_foldl ?_ ?_ | with_reducible refine canonical_foldl_snd ?_ ?_
    | with_reducible refine canonical_foldl_fst ?_ ?_ | simp only [canonical_mk] | split)

theorem readTok_canonical_eq {s : State} {v : Vocab} {t : Nat} {t_ a1_} (h_eq : State.readTok s v t = (t_, a1_))
    (h_s : Canonical s) : Canonical t_ := by
  have h_p := readTok_canonical s v t h_s
  rw [h_eq] at h_p; exact h_p

theorem bodyDetokenize_canonical (c : Cmd) (s : State) (h_s : Canonical s) :
    Canonical (bodyDetokenize c s) := by
  unfold bodyDetokenize
  repeat' (first
    | intro _ | with_reducible assumption | with_reducible apply bump_canonical | with_reducible apply readTok_canonical
    | with_reducible refine readTok_canonical_eq (by with_reducible assumption) ?_ | with_reducible apply refuse_canonical
    | with_reducible apply replyData_canonical | with_reducible apply reportVocab_canonical
    | with_reducible apply canonical_ite | with_reducible apply canonical_ite_fst | with_reducible apply canonical_ite_snd
    | with_reducible refine canonical_foldl ?_ ?_ | with_reducible refine canonical_foldl_snd ?_ ?_
    | with_reducible refine canonical_foldl_fst ?_ ?_ | simp only [canonical_mk]
    | with_reducible refine canonicalOpt_eq (by with_reducible assumption) ?_
    | with_reducible refine canonicalOptFst_eq (by with_reducible assumption) ?_
    | with_reducible refine canonicalOptFst_eq_1 (by with_reducible assumption) ?_ | split
    | with_reducible apply canonicalOpt_none | with_reducible apply canonicalOpt_some
    | with_reducible apply canonicalOpt_map | with_reducible apply canonicalOpt_ite
    | with_reducible apply canonicalOpt_bind | with_reducible apply canonicalOpt_foldl
    | with_reducible apply canonicalOpt_bind_fst | with_reducible apply canonicalOpt_bind_any
    | with_reducible apply canonicalOptFst_none | with_reducible apply canonicalOptFst_some
    | with_reducible apply canonicalOptFst_map | with_reducible apply canonicalOptFst_ite
    | with_reducible apply canonicalOptFst_bind | with_reducible apply canonicalOptFst_foldl
    | with_reducible apply canonicalOptFst_bind_opt | with_reducible apply canonicalOptFst_bind_any
    | with_reducible apply canonicalOptSnd_none | with_reducible apply canonicalOptSnd_some
    | with_reducible apply canonicalOptSnd_ite)

theorem setStages_canonical (s : State) (a : Nat) (u : List Byte) (t : List Byte) (h_s : Canonical s) :
    Canonical (State.setStages s a u t) := by
  unfold State.setStages
  repeat' (first
    | intro _ | with_reducible assumption | with_reducible apply store_canonical | with_reducible apply canonical_ite
    | simp only [canonical_mk] | split)

theorem bodyGrammarLoad_canonical (c : Cmd) (s : State) (h_s : Canonical s) :
    Canonical (bodyGrammarLoad c s) := by
  unfold bodyGrammarLoad
  repeat' (first
    | intro _ | with_reducible assumption | with_reducible apply dramUe_canonical | with_reducible apply event_canonical
    | with_reducible apply refuse_canonical | with_reducible apply refuseNotReady_canonical
    | with_reducible apply reply_canonical | with_reducible apply setRaw_canonical | with_reducible apply store_canonical
    | with_reducible apply canonical_ite | simp only [canonical_mk]
    | with_reducible refine canonicalOpt_eq (by with_reducible assumption) ?_
    | with_reducible refine canonicalOptFst_eq (by with_reducible assumption) ?_
    | with_reducible refine canonicalOptFst_eq_1 (by with_reducible assumption) ?_ | split
    | with_reducible apply canonicalOpt_none | with_reducible apply canonicalOpt_some
    | with_reducible apply canonicalOpt_map | with_reducible apply canonicalOpt_ite
    | with_reducible apply canonicalOpt_bind | with_reducible apply canonicalOpt_foldl
    | with_reducible apply canonicalOpt_bind_fst | with_reducible apply canonicalOpt_bind_any
    | with_reducible apply canonicalOptFst_none | with_reducible apply canonicalOptFst_some
    | with_reducible apply canonicalOptFst_map | with_reducible apply canonicalOptFst_ite
    | with_reducible apply canonicalOptFst_bind | with_reducible apply canonicalOptFst_foldl
    | with_reducible apply canonicalOptFst_bind_opt | with_reducible apply canonicalOptFst_bind_any
    | with_reducible apply canonicalOptSnd_none | with_reducible apply canonicalOptSnd_some
    | with_reducible apply canonicalOptSnd_ite)

theorem dropGrammar_canonical (s : State) (slot : Nat) (h_s : Canonical s) :
    Canonical (State.dropGrammar s slot) := by
  unfold State.dropGrammar
  repeat' (first
    | intro _ | with_reducible assumption | with_reducible apply setRaw_canonical | with_reducible apply canonical_ite
    | simp only [canonical_mk] | split)

theorem bodyGrammarUnload_canonical (c : Cmd) (s : State) (h_s : Canonical s) :
    Canonical (bodyGrammarUnload c s) := by
  unfold bodyGrammarUnload
  repeat' (first
    | intro _ | with_reducible assumption | with_reducible apply dropGrammar_canonical
    | with_reducible apply refuse_canonical | with_reducible apply refuseBusy_canonical
    | with_reducible apply shaped_canonical | with_reducible apply canonical_ite | simp only [canonical_mk] | split)

end Sys2Proof.Machine
end

