-- ==== Sys2Proof/Laws/CanonicalPrompts.lean ====
section
/-! SUPPORT. Every operation of Machine/Prompts.lean keeps the canonical forms of memory and of the registers. -/

set_option simprocs false
set_option linter.unusedTactic false
set_option linter.unusedSimpArgs false
set_option linter.unreachableTactic false

namespace Sys2Proof.Machine

theorem countAssembly_canonical (s : State) (p : Nat) (r : Packed) (h_s : Canonical s) :
    Canonical (State.countAssembly s p r) := by
  unfold State.countAssembly
  repeat' (first
    | intro _ | with_reducible assumption | with_reducible apply bump_canonical | with_reducible apply canonical_ite
    | simp only [canonical_mk] | split)

end Sys2Proof.Machine
end

