-- ==== Sys2Proof/Laws/CanonicalKv.lean ====
section
/-! SUPPORT. Every operation of Machine/Kv.lean keeps the canonical forms of memory and of the registers. -/

set_option simprocs false
set_option linter.unusedTactic false
set_option linter.unusedSimpArgs false
set_option linter.unreachableTactic false

namespace Sys2Proof.Machine

theorem setSeq_canonical (s : State) (i : Nat) (f : Seq → Seq) (h_s : Canonical s) :
    Canonical (State.setSeq s i f) := by
  unfold State.setSeq
  repeat' (first
    | intro _ | with_reducible assumption | with_reducible apply canonical_ite | simp only [canonical_mk] | split)

theorem setPref_canonical (s : State) (i : Nat) (f : PrefixSlot → PrefixSlot) (h_s : Canonical s) :
    Canonical (State.setPref s i f) := by
  unfold State.setPref
  repeat' (first
    | intro _ | with_reducible assumption | with_reducible apply canonical_ite | simp only [canonical_mk] | split)

theorem takeKv_canonical (s : State) (p : Nat) (owner : Nat) (n : Nat) (al : Nat) (h_s : Canonical s) :
    CanonicalOptFst (State.takeKv s p owner n al) := by
  unfold State.takeKv
  repeat' (first
    | intro _ | with_reducible assumption | with_reducible apply canonical_ite | with_reducible apply canonical_ite_fst
    | with_reducible apply canonical_ite_snd | with_reducible apply canonicalOptFst_none
    | with_reducible apply canonicalOptFst_some | with_reducible apply canonicalOptFst_map
    | with_reducible apply canonicalOptFst_ite | with_reducible apply canonicalOptFst_bind
    | with_reducible apply canonicalOptFst_foldl | with_reducible apply canonicalOptFst_bind_opt
    | with_reducible apply canonicalOptFst_bind_any | with_reducible apply canonicalOptSnd_none
    | with_reducible apply canonicalOptSnd_some | with_reducible apply canonicalOptSnd_ite | simp only [canonical_mk]
    | with_reducible refine canonicalOpt_eq (by with_reducible assumption) ?_
    | with_reducible refine canonicalOptFst_eq (by with_reducible assumption) ?_
    | with_reducible refine canonicalOptFst_eq_1 (by with_reducible assumption) ?_ | split
    | with_reducible apply canonicalOpt_none | with_reducible apply canonicalOpt_some
    | with_reducible apply canonicalOpt_map | with_reducible apply canonicalOpt_ite
    | with_reducible apply canonicalOpt_bind | with_reducible apply canonicalOpt_foldl
    | with_reducible apply canonicalOpt_bind_fst | with_reducible apply canonicalOpt_bind_any)

theorem takeKv_canonical_eq_1 {s : State} {p : Nat} {owner : Nat} {n : Nat} {al : Nat} {r} (h_eq : State.takeKv s p owner n al = some r)
    (h_s : Canonical s) : Canonical r.1 :=
  (takeKv_canonical s p owner n al h_s).elim _ h_eq

theorem takeKv_canonical_eq {s : State} {p : Nat} {owner : Nat} {n : Nat} {al : Nat} {a_ t} (h_eq : State.takeKv s p owner n al = some (t, a_))
    (h_s : Canonical s) : Canonical t :=
  (takeKv_canonical s p owner n al h_s).elim _ h_eq

theorem freeKv_canonical (s : State) (owner : Nat) (h_s : Canonical s) :
    Canonical (State.freeKv s owner) := by
  unfold State.freeKv
  repeat' (first
    | intro _ | with_reducible assumption | with_reducible apply canonical_ite | with_reducible apply canonical_ite_fst
    | with_reducible apply canonical_ite_snd | simp only [canonical_mk] | split)

theorem putEntry_canonical (s : State) (p : Nat) (root : Nat) (l : Nat) (b : Nat) (v : Nat) (h_s : Canonical s) :
    Canonical (State.putEntry s p root l b v) := by
  unfold State.putEntry
  repeat' (first
    | intro _ | with_reducible assumption | with_reducible apply store_canonical | with_reducible apply canonical_ite
    | simp only [canonical_mk] | split)

theorem setEntry_canonical (s : State) (p : Nat) (owner : Nat) (root : Nat) (l : Nat) (b : Nat) (v : Nat) (h_s : Canonical s) :
    CanonicalOpt (State.setEntry s p owner root l b v) := by
  unfold State.setEntry
  repeat' (first
    | intro _ | with_reducible assumption | with_reducible apply putEntry_canonical | with_reducible apply store_canonical
    | with_reducible apply takeKv_canonical | with_reducible refine takeKv_canonical_eq (by with_reducible assumption) ?_
    | with_reducible refine takeKv_canonical_eq_1 (by with_reducible assumption) ?_
    | with_reducible apply zeroRange_canonical | with_reducible apply canonical_ite
    | with_reducible apply canonical_ite_fst | with_reducible apply canonical_ite_snd
    | with_reducible apply canonicalOpt_none | with_reducible apply canonicalOpt_some
    | with_reducible apply canonicalOpt_map | with_reducible apply canonicalOpt_ite
    | with_reducible apply canonicalOpt_bind | with_reducible apply canonicalOpt_foldl
    | with_reducible apply canonicalOpt_bind_fst | with_reducible apply canonicalOpt_bind_any | simp only [canonical_mk]
    | with_reducible refine canonicalOpt_eq (by with_reducible assumption) ?_
    | with_reducible refine canonicalOptFst_eq (by with_reducible assumption) ?_
    | with_reducible refine canonicalOptFst_eq_1 (by with_reducible assumption) ?_ | split
    | with_reducible apply canonicalOptFst_none | with_reducible apply canonicalOptFst_some
    | with_reducible apply canonicalOptFst_map | with_reducible apply canonicalOptFst_ite
    | with_reducible apply canonicalOptFst_bind | with_reducible apply canonicalOptFst_foldl
    | with_reducible apply canonicalOptFst_bind_opt | with_reducible apply canonicalOptFst_bind_any
    | with_reducible apply canonicalOptSnd_none | with_reducible apply canonicalOptSnd_some
    | with_reducible apply canonicalOptSnd_ite)

theorem setEntry_canonical_eq {s : State} {p : Nat} {owner : Nat} {root : Nat} {l : Nat} {b : Nat} {v : Nat} {t : State} (h_eq : State.setEntry s p owner root l b v = some t)
    (h_s : Canonical s) : Canonical t :=
  (setEntry_canonical s p owner root l b v h_s).elim t h_eq

theorem applyKvCfg_canonical (s : State) (p : Nat) (h_s : Canonical s) :
    Canonical (State.applyKvCfg s p) := by
  unfold State.applyKvCfg
  repeat' (first
    | intro _ | with_reducible assumption | with_reducible apply putEntry_canonical
    | with_reducible apply setPart_canonical | with_reducible apply canonical_ite | with_reducible apply canonical_ite_fst
    | with_reducible apply canonical_ite_snd | with_reducible refine canonical_foldl ?_ ?_
    | with_reducible refine canonical_foldl_snd ?_ ?_ | with_reducible refine canonical_foldl_fst ?_ ?_
    | simp only [canonical_mk] | with_reducible refine canonicalOpt_eq (by with_reducible assumption) ?_
    | with_reducible refine canonicalOptFst_eq (by with_reducible assumption) ?_
    | with_reducible refine canonicalOptFst_eq_1 (by with_reducible assumption) ?_ | split
    | with_reducible apply canonicalOpt_none | with_reducible apply canonicalOpt_some
    | with_reducible apply canonicalOpt_map | with_reducible apply canonicalOpt_ite
    | with_reducible apply canonicalOpt_bind | with_reducible apply canonicalOpt_foldl
    | with_reducible apply canonicalOpt_bind_fst | with_reducible apply canonicalOpt_bind_any
    | with_reducible apply canonicalOptFst_none | with_reducible apply canonicalOptFst_some
    | with_reducible apply canonicalOptFst_map | with_reducible apply canonicalOptFst_ite
    | with_reducible apply canonicalOptFst_bind | with_reducible apply canonicalOptFst_foldl
    | with_reducible apply canonicalOptFst_bind_opt | with_reducible apply canonicalOptFst_bind_any
    | with_reducible apply canonicalOptSnd_none | with_reducible apply canonicalOptSnd_some
    | with_reducible apply canonicalOptSnd_ite)

theorem demote_canonical (s : State) (p : Nat) (h_s : Canonical s) :
    Canonical (State.demote s p) := by
  unfold State.demote
  repeat' (first
    | intro _ | with_reducible assumption | with_reducible apply leave_canonical
    | with_reducible refine leave_canonical_eq (by with_reducible assumption) ?_ | with_reducible apply canonical_ite
    | with_reducible apply canonical_ite_fst | with_reducible apply canonical_ite_snd
    | with_reducible refine canonical_foldl ?_ ?_ | with_reducible refine canonical_foldl_snd ?_ ?_
    | with_reducible refine canonical_foldl_fst ?_ ?_ | simp only [canonical_mk]
    | with_reducible refine canonicalOpt_eq (by with_reducible assumption) ?_
    | with_reducible refine canonicalOptFst_eq (by with_reducible assumption) ?_
    | with_reducible refine canonicalOptFst_eq_1 (by with_reducible assumption) ?_ | split
    | with_reducible apply canonicalOpt_none | with_reducible apply canonicalOpt_some
    | with_reducible apply canonicalOpt_map | with_reducible apply canonicalOpt_ite
    | with_reducible apply canonicalOpt_bind | with_reducible apply canonicalOpt_foldl
    | with_reducible apply canonicalOpt_bind_fst | with_reducible apply canonicalOpt_bind_any
    | with_reducible apply canonicalOptFst_none | with_reducible apply canonicalOptFst_some
    | with_reducible apply canonicalOptFst_map | with_reducible apply canonicalOptFst_ite
    | with_reducible apply canonicalOptFst_bind | with_reducible apply canonicalOptFst_foldl
    | with_reducible apply canonicalOptFst_bind_opt | with_reducible apply canonicalOptFst_bind_any
    | with_reducible apply canonicalOptSnd_none | with_reducible apply canonicalOptSnd_some
    | with_reducible apply canonicalOptSnd_ite)

theorem newBlock_canonical (s : State) (p : Nat) (ms : List Model) (owner : Nat) (l : Nat) (b : Nat) (h_s : Canonical s) :
    CanonicalOpt (State.newBlock s p ms owner l b) := by
  unfold State.newBlock
  repeat' (first
    | intro _ | with_reducible assumption | with_reducible apply addObj_canonical | with_reducible apply place1_canonical
    | with_reducible refine place1_canonical_eq (by with_reducible assumption) ?_
    | with_reducible refine place1_canonical_eq_1 (by with_reducible assumption) ?_ | with_reducible apply canonical_ite
    | with_reducible apply canonical_ite_fst | with_reducible apply canonical_ite_snd
    | with_reducible refine canonical_getD ?_ ?_ | with_reducible apply canonicalOpt_none
    | with_reducible apply canonicalOpt_some | with_reducible apply canonicalOpt_map
    | with_reducible apply canonicalOpt_ite | with_reducible apply canonicalOpt_bind
    | with_reducible apply canonicalOpt_foldl | with_reducible apply canonicalOpt_bind_fst
    | with_reducible apply canonicalOpt_bind_any | simp only [canonical_mk]
    | with_reducible refine canonicalOpt_eq (by with_reducible assumption) ?_
    | with_reducible refine canonicalOptFst_eq (by with_reducible assumption) ?_
    | with_reducible refine canonicalOptFst_eq_1 (by with_reducible assumption) ?_ | split
    | with_reducible apply canonicalOptFst_none | with_reducible apply canonicalOptFst_some
    | with_reducible apply canonicalOptFst_map | with_reducible apply canonicalOptFst_ite
    | with_reducible apply canonicalOptFst_bind | with_reducible apply canonicalOptFst_foldl
    | with_reducible apply canonicalOptFst_bind_opt | with_reducible apply canonicalOptFst_bind_any
    | with_reducible apply canonicalOptSnd_none | with_reducible apply canonicalOptSnd_some
    | with_reducible apply canonicalOptSnd_ite)

theorem newBlock_canonical_eq {s : State} {p : Nat} {ms : List Model} {owner : Nat} {l : Nat} {b : Nat} {t : State} (h_eq : State.newBlock s p ms owner l b = some t)
    (h_s : Canonical s) : Canonical t :=
  (newBlock_canonical s p ms owner l b h_s).elim t h_eq

theorem copyBlock_canonical (s : State) (p : Nat) (ms : List Model) (src : Nat) (dst : Nat) (l : Nat) (b : Nat) (h_s : Canonical s) :
    CanonicalOpt (State.copyBlock s p ms src dst l b) := by
  unfold State.copyBlock
  repeat' (first
    | intro _ | with_reducible assumption | with_reducible apply newBlock_canonical
    | with_reducible refine newBlock_canonical_eq (by with_reducible assumption) ?_
    | with_reducible apply objContent_canonical
    | with_reducible refine objContent_canonical_eq (by with_reducible assumption) ?_
    | with_reducible apply store_canonical | with_reducible apply canonical_ite
    | with_reducible refine canonical_getD ?_ ?_ | with_reducible apply canonicalOpt_none
    | with_reducible apply canonicalOpt_some | with_reducible apply canonicalOpt_map
    | with_reducible apply canonicalOpt_ite | with_reducible apply canonicalOpt_bind
    | with_reducible apply canonicalOpt_foldl | with_reducible apply canonicalOpt_bind_fst
    | with_reducible apply canonicalOpt_bind_any | simp only [canonical_mk]
    | with_reducible refine canonicalOpt_eq (by with_reducible assumption) ?_
    | with_reducible refine canonicalOptFst_eq (by with_reducible assumption) ?_
    | with_reducible refine canonicalOptFst_eq_1 (by with_reducible assumption) ?_ | split
    | with_reducible apply canonicalOptFst_none | with_reducible apply canonicalOptFst_some
    | with_reducible apply canonicalOptFst_map | with_reducible apply canonicalOptFst_ite
    | with_reducible apply canonicalOptFst_bind | with_reducible apply canonicalOptFst_foldl
    | with_reducible apply canonicalOptFst_bind_opt | with_reducible apply canonicalOptFst_bind_any
    | with_reducible apply canonicalOptSnd_none | with_reducible apply canonicalOptSnd_some
    | with_reducible apply canonicalOptSnd_ite)

theorem copyBlock_canonical_eq {s : State} {p : Nat} {ms : List Model} {src : Nat} {dst : Nat} {l : Nat} {b : Nat} {t : State} (h_eq : State.copyBlock s p ms src dst l b = some t)
    (h_s : Canonical s) : Canonical t :=
  (copyBlock_canonical s p ms src dst l b h_s).elim t h_eq

theorem reserveBlock_canonical (s : State) (q : Seq) (l : Nat) (b : Nat) (h_s : Canonical s) :
    CanonicalOpt (State.reserveBlock s q l b) := by
  unfold State.reserveBlock
  repeat' (first
    | intro _ | with_reducible assumption | with_reducible apply bump_canonical | with_reducible apply copyBlock_canonical
    | with_reducible refine copyBlock_canonical_eq (by with_reducible assumption) ?_
    | with_reducible apply newBlock_canonical
    | with_reducible refine newBlock_canonical_eq (by with_reducible assumption) ?_
    | with_reducible apply putEntry_canonical | with_reducible apply setEntry_canonical
    | with_reducible refine setEntry_canonical_eq (by with_reducible assumption) ?_ | with_reducible apply canonical_ite
    | with_reducible apply canonicalOpt_none | with_reducible apply canonicalOpt_some
    | with_reducible apply canonicalOpt_map | with_reducible apply canonicalOpt_ite
    | with_reducible apply canonicalOpt_bind | with_reducible apply canonicalOpt_foldl
    | with_reducible apply canonicalOpt_bind_fst | with_reducible apply canonicalOpt_bind_any | simp only [canonical_mk]
    | with_reducible refine canonicalOpt_eq (by with_reducible assumption) ?_
    | with_reducible refine canonicalOptFst_eq (by with_reducible assumption) ?_
    | with_reducible refine canonicalOptFst_eq_1 (by with_reducible assumption) ?_ | split
    | with_reducible apply canonicalOptFst_none | with_reducible apply canonicalOptFst_some
    | with_reducible apply canonicalOptFst_map | with_reducible apply canonicalOptFst_ite
    | with_reducible apply canonicalOptFst_bind | with_reducible apply canonicalOptFst_foldl
    | with_reducible apply canonicalOptFst_bind_opt | with_reducible apply canonicalOptFst_bind_any
    | with_reducible apply canonicalOptSnd_none | with_reducible apply canonicalOptSnd_some
    | with_reducible apply canonicalOptSnd_ite)

theorem reserveBlock_canonical_eq {s : State} {q : Seq} {l : Nat} {b : Nat} {t : State} (h_eq : State.reserveBlock s q l b = some t)
    (h_s : Canonical s) : Canonical t :=
  (reserveBlock_canonical s q l b h_s).elim t h_eq

theorem reserveKv_canonical (s : State) (q : Seq) (rows : Nat) (h_s : Canonical s) :
    CanonicalOpt (State.reserveKv s q rows) := by
  unfold State.reserveKv
  repeat' (first
    | intro _ | with_reducible assumption | with_reducible apply reserveBlock_canonical
    | with_reducible refine reserveBlock_canonical_eq (by with_reducible assumption) ?_
    | with_reducible apply canonical_ite | with_reducible refine canonical_foldl ?_ ?_
    | with_reducible refine canonical_foldl_snd ?_ ?_ | with_reducible refine canonical_foldl_fst ?_ ?_
    | with_reducible apply canonicalOpt_none | with_reducible apply canonicalOpt_some
    | with_reducible apply canonicalOpt_map | with_reducible apply canonicalOpt_ite
    | with_reducible apply canonicalOpt_bind | with_reducible apply canonicalOpt_foldl
    | with_reducible apply canonicalOpt_bind_fst | with_reducible apply canonicalOpt_bind_any | simp only [canonical_mk]
    | with_reducible refine canonicalOpt_eq (by with_reducible assumption) ?_
    | with_reducible refine canonicalOptFst_eq (by with_reducible assumption) ?_
    | with_reducible refine canonicalOptFst_eq_1 (by with_reducible assumption) ?_ | split
    | with_reducible apply canonicalOptFst_none | with_reducible apply canonicalOptFst_some
    | with_reducible apply canonicalOptFst_map | with_reducible apply canonicalOptFst_ite
    | with_reducible apply canonicalOptFst_bind | with_reducible apply canonicalOptFst_foldl
    | with_reducible apply canonicalOptFst_bind_opt | with_reducible apply canonicalOptFst_bind_any
    | with_reducible apply canonicalOptSnd_none | with_reducible apply canonicalOptSnd_some
    | with_reducible apply canonicalOptSnd_ite)

theorem reserveKv_canonical_eq {s : State} {q : Seq} {rows : Nat} {t : State} (h_eq : State.reserveKv s q rows = some t)
    (h_s : Canonical s) : Canonical t :=
  (reserveKv_canonical s q rows h_s).elim t h_eq

theorem writeKvRow_canonical (s : State) (q : Seq) (ms : List Model) (l : Nat) (pos : Nat) (h_s : Canonical s) :
    Canonical (State.writeKvRow s q ms l pos) := by
  unfold State.writeKvRow
  repeat' (first
    | intro _ | with_reducible assumption | with_reducible apply setObj_canonical | with_reducible apply store_canonical
    | with_reducible apply tick_canonical | with_reducible apply canonical_ite | with_reducible apply canonical_ite_fst
    | with_reducible apply canonical_ite_snd | simp only [canonical_mk]
    | with_reducible refine canonicalOpt_eq (by with_reducible assumption) ?_
    | with_reducible refine canonicalOptFst_eq (by with_reducible assumption) ?_
    | with_reducible refine canonicalOptFst_eq_1 (by with_reducible assumption) ?_ | split
    | with_reducible apply canonicalOpt_none | with_reducible apply canonicalOpt_some
    | with_reducible apply canonicalOpt_map | with_reducible apply canonicalOpt_ite
    | with_reducible apply canonicalOpt_bind | with_reducible apply canonicalOpt_foldl
    | with_reducible apply canonicalOpt_bind_fst | with_reducible apply canonicalOpt_bind_any
    | with_reducible apply canonicalOptFst_none | with_reducible apply canonicalOptFst_some
    | with_reducible apply canonicalOptFst_map | with_reducible apply canonicalOptFst_ite
    | with_reducible apply canonicalOptFst_bind | with_reducible apply canonicalOptFst_foldl
    | with_reducible apply canonicalOptFst_bind_opt | with_reducible apply canonicalOptFst_bind_any
    | with_reducible apply canonicalOptSnd_none | with_reducible apply canonicalOptSnd_some
    | with_reducible apply canonicalOptSnd_ite)

theorem writeKv_canonical (s : State) (q : Seq) (rows : Nat) (h_s : Canonical s) :
    Canonical (State.writeKv s q rows) := by
  unfold State.writeKv
  repeat' (first
    | intro _ | with_reducible assumption | with_reducible apply writeKvRow_canonical | with_reducible apply canonical_ite
    | with_reducible refine canonical_foldl ?_ ?_ | with_reducible refine canonical_foldl_snd ?_ ?_
    | with_reducible refine canonical_foldl_fst ?_ ?_ | simp only [canonical_mk] | split)

theorem formLandmark_canonical (s : State) (q : Seq) (ms : List Model) (l : Nat) (b : Nat) (h_s : Canonical s) :
    Canonical (State.formLandmark s q ms l b) := by
  unfold State.formLandmark
  repeat' (first
    | intro _ | with_reducible assumption | with_reducible apply addObj_canonical | with_reducible apply place1_canonical
    | with_reducible refine place1_canonical_eq (by with_reducible assumption) ?_
    | with_reducible refine place1_canonical_eq_1 (by with_reducible assumption) ?_
    | with_reducible apply putEntry_canonical | with_reducible apply store_canonical | with_reducible apply take_canonical
    | with_reducible apply canonical_ite | with_reducible refine canonical_foldl ?_ ?_
    | with_reducible refine canonical_foldl_snd ?_ ?_ | with_reducible refine canonical_foldl_fst ?_ ?_
    | simp only [canonical_mk] | with_reducible refine canonicalOpt_eq (by with_reducible assumption) ?_
    | with_reducible refine canonicalOptFst_eq (by with_reducible assumption) ?_
    | with_reducible refine canonicalOptFst_eq_1 (by with_reducible assumption) ?_ | split
    | with_reducible apply canonicalOpt_none | with_reducible apply canonicalOpt_some
    | with_reducible apply canonicalOpt_map | with_reducible apply canonicalOpt_ite
    | with_reducible apply canonicalOpt_bind | with_reducible apply canonicalOpt_foldl
    | with_reducible apply canonicalOpt_bind_fst | with_reducible apply canonicalOpt_bind_any
    | with_reducible apply canonicalOptFst_none | with_reducible apply canonicalOptFst_some
    | with_reducible apply canonicalOptFst_map | with_reducible apply canonicalOptFst_ite
    | with_reducible apply canonicalOptFst_bind | with_reducible apply canonicalOptFst_foldl
    | with_reducible apply canonicalOptFst_bind_opt | with_reducible apply canonicalOptFst_bind_any
    | with_reducible apply canonicalOptSnd_none | with_reducible apply canonicalOptSnd_some
    | with_reducible refine canonical_pair_eq (by with_reducible assumption) ?_ | with_reducible apply canonicalOptSnd_ite
    | with_reducible apply canonical_ite_fst)

theorem readLandmark_canonical (s : State) (p : Nat) (id : Nat) (h_s : Canonical s) :
    CanonicalOpt (State.readLandmark s p id) := by
  unfold State.readLandmark
  repeat' (first
    | intro _ | with_reducible assumption | with_reducible apply noteRead_canonical
    | with_reducible apply objContent_canonical
    | with_reducible refine objContent_canonical_eq (by with_reducible assumption) ?_
    | with_reducible apply store_canonical | with_reducible apply canonical_ite
    | with_reducible refine canonical_getD ?_ ?_ | with_reducible apply canonicalOpt_none
    | with_reducible apply canonicalOpt_some | with_reducible apply canonicalOpt_map
    | with_reducible apply canonicalOpt_ite | with_reducible apply canonicalOpt_bind
    | with_reducible apply canonicalOpt_foldl | with_reducible apply canonicalOpt_bind_fst
    | with_reducible apply canonicalOpt_bind_any | simp only [canonical_mk] | split)

theorem readLandmark_canonical_eq {s : State} {p : Nat} {id : Nat} {t : State} (h_eq : State.readLandmark s p id = some t)
    (h_s : Canonical s) : Canonical t :=
  (readLandmark_canonical s p id h_s).elim t h_eq

theorem markEntries_canonical (s : State) (p : Nat) (root : Nat) (len : Nat) (h_s : Canonical s) :
    Canonical (State.markEntries s p root len) := by
  unfold State.markEntries
  repeat' (first
    | intro _ | with_reducible assumption | with_reducible apply putEntry_canonical | with_reducible apply canonical_ite
    | with_reducible apply canonical_ite_fst | with_reducible apply canonical_ite_snd
    | with_reducible refine canonical_foldl ?_ ?_ | with_reducible refine canonical_foldl_snd ?_ ?_
    | with_reducible refine canonical_foldl_fst ?_ ?_ | simp only [canonical_mk] | split)

theorem failBlock_canonical (s : State) (p : Nat) (id : Nat) (h_s : Canonical s) :
    Canonical (State.failBlock s p id) := by
  unfold State.failBlock
  repeat' (first
    | intro _ | with_reducible assumption | with_reducible apply loseBlock_canonical
    | with_reducible apply noteRead_canonical | with_reducible apply canonical_ite | simp only [canonical_mk] | split)

theorem fillBlock_canonical (s : State) (q : Seq) (ms : List Model) (owner : Nat) (l : Nat) (b : Nat) (h_s : Canonical s) :
    Canonical (State.fillBlock s q ms owner l b) := by
  unfold State.fillBlock
  repeat' (first
    | intro _ | with_reducible assumption | with_reducible apply failBlock_canonical
    | with_reducible apply formLandmark_canonical | with_reducible apply lossyCopy1_canonical
    | with_reducible apply setObj_canonical | with_reducible apply canonical_ite | simp only [canonical_mk] | split)

theorem commitKv_canonical (s : State) (q : Seq) (rows : Nat) (new : Nat) (h_s : Canonical s) :
    Canonical (State.commitKv s q rows new) := by
  unfold State.commitKv
  repeat' (first
    | intro _ | with_reducible assumption | with_reducible apply fillBlock_canonical
    | with_reducible apply putEntry_canonical | with_reducible apply store_canonical | with_reducible apply canonical_ite
    | with_reducible refine canonical_foldl ?_ ?_ | with_reducible refine canonical_foldl_snd ?_ ?_
    | with_reducible refine canonical_foldl_fst ?_ ?_ | simp only [canonical_mk]
    | with_reducible refine canonicalOpt_eq (by with_reducible assumption) ?_
    | with_reducible refine canonicalOptFst_eq (by with_reducible assumption) ?_
    | with_reducible refine canonicalOptFst_eq_1 (by with_reducible assumption) ?_ | split
    | with_reducible apply canonicalOpt_none | with_reducible apply canonicalOpt_some
    | with_reducible apply canonicalOpt_map | with_reducible apply canonicalOpt_ite
    | with_reducible apply canonicalOpt_bind | with_reducible apply canonicalOpt_foldl
    | with_reducible apply canonicalOpt_bind_fst | with_reducible apply canonicalOpt_bind_any
    | with_reducible apply canonicalOptFst_none | with_reducible apply canonicalOptFst_some
    | with_reducible apply canonicalOptFst_map | with_reducible apply canonicalOptFst_ite
    | with_reducible apply canonicalOptFst_bind | with_reducible apply canonicalOptFst_foldl
    | with_reducible apply canonicalOptFst_bind_opt | with_reducible apply canonicalOptFst_bind_any
    | with_reducible apply canonicalOptSnd_none | with_reducible apply canonicalOptSnd_some
    | with_reducible apply canonicalOptSnd_ite)

theorem logWords_canonical (s : State) (q : Seq) (a : Nat) (n : Nat) (h_s : Canonical s) :
    Canonical (State.logWords s q a n) := by
  unfold State.logWords
  repeat' (first
    | intro _ | with_reducible assumption | with_reducible apply log_canonical | with_reducible apply store_canonical
    | with_reducible apply take_canonical | with_reducible apply tokens_canonical
    | with_reducible refine tokens_canonical_eq (by with_reducible assumption) ?_ | with_reducible apply canonical_ite
    | simp only [canonical_mk] | split)

theorem renameBlock_canonical (s : State) (p : Nat) (old : Nat) (new : Nat) (l : Nat) (b : Nat) (h_s : Canonical s) :
    Canonical (State.renameBlock s p old new l b) := by
  unfold State.renameBlock
  repeat' (first
    | intro _ | with_reducible assumption | with_reducible apply setObj_canonical | with_reducible apply canonical_ite
    | simp only [canonical_mk] | split)

theorem putRoot_canonical (s : State) (p : Nat) (root : Nat) (l : Nat) (pages : Nat) (kv : Nat) (score : Nat) (query : Nat) (log : Nat) (pref : Nat) (plen : Nat) (h_s : Canonical s) :
    Canonical (State.putRoot s p root l pages kv score query log pref plen) := by
  unfold State.putRoot
  repeat' (first
    | intro _ | with_reducible assumption | with_reducible apply log_canonical | with_reducible apply store_canonical
    | with_reducible apply canonical_ite | simp only [canonical_mk] | split)

theorem takeKv?_canonical (s : State) (p : Nat) (owner : Nat) (n : Nat) (h_s : Canonical s) :
    CanonicalOptFst (State.takeKv? s p owner n) := by
  unfold State.takeKv?
  repeat' (first
    | intro _ | with_reducible assumption | with_reducible apply takeKv_canonical
    | with_reducible refine takeKv_canonical_eq (by with_reducible assumption) ?_
    | with_reducible refine takeKv_canonical_eq_1 (by with_reducible assumption) ?_ | with_reducible apply canonical_ite
    | with_reducible apply canonicalOptFst_none | with_reducible apply canonicalOptFst_some
    | with_reducible apply canonicalOptFst_map | with_reducible apply canonicalOptFst_ite
    | with_reducible apply canonicalOptFst_bind | with_reducible apply canonicalOptFst_foldl
    | with_reducible apply canonicalOptFst_bind_opt | with_reducible apply canonicalOptFst_bind_any
    | with_reducible apply canonicalOptSnd_none | with_reducible apply canonicalOptSnd_some
    | with_reducible apply canonicalOptSnd_ite | simp only [canonical_mk] | split)

theorem takeKv?_canonical_eq_1 {s : State} {p : Nat} {owner : Nat} {n : Nat} {r} (h_eq : State.takeKv? s p owner n = some r)
    (h_s : Canonical s) : Canonical r.1 :=
  (takeKv?_canonical s p owner n h_s).elim _ h_eq

theorem takeKv?_canonical_eq {s : State} {p : Nat} {owner : Nat} {n : Nat} {a_ t} (h_eq : State.takeKv? s p owner n = some (t, a_))
    (h_s : Canonical s) : Canonical t :=
  (takeKv?_canonical s p owner n h_s).elim _ h_eq

theorem newTable_canonical (s : State) (p : Nat) (owner : Nat) (ms : List Model) (pages : Nat) (query : Nat) (log : Nat) (pref : Nat) (plen : Nat) (h_s : Canonical s) :
    CanonicalOptFst (State.newTable s p owner ms pages query log pref plen) := by
  unfold State.newTable
  repeat' (first
    | intro _ | with_reducible assumption | with_reducible apply log_canonical | with_reducible apply putRoot_canonical
    | with_reducible apply takeKv_canonical | with_reducible refine takeKv_canonical_eq (by with_reducible assumption) ?_
    | with_reducible refine takeKv_canonical_eq_1 (by with_reducible assumption) ?_
    | with_reducible apply takeKv?_canonical
    | with_reducible refine takeKv?_canonical_eq (by with_reducible assumption) ?_
    | with_reducible refine takeKv?_canonical_eq_1 (by with_reducible assumption) ?_
    | with_reducible apply zeroRange_canonical | with_reducible apply canonical_ite
    | with_reducible apply canonical_ite_fst | with_reducible apply canonical_ite_snd
    | with_reducible apply canonicalOptFst_none | with_reducible apply canonicalOptFst_some
    | with_reducible apply canonicalOptFst_map | with_reducible apply canonicalOptFst_ite
    | with_reducible apply canonicalOptFst_bind | with_reducible apply canonicalOptFst_foldl
    | with_reducible apply canonicalOptFst_bind_opt | with_reducible apply canonicalOptFst_bind_any
    | with_reducible apply canonicalOptSnd_none | with_reducible apply canonicalOptSnd_some
    | with_reducible apply canonicalOptSnd_ite | simp only [canonical_mk]
    | with_reducible refine canonicalOpt_eq (by with_reducible assumption) ?_
    | with_reducible refine canonicalOptFst_eq (by with_reducible assumption) ?_
    | with_reducible refine canonicalOptFst_eq_1 (by with_reducible assumption) ?_ | split
    | with_reducible apply canonicalOpt_none | with_reducible apply canonicalOpt_some
    | with_reducible apply canonicalOpt_map | with_reducible apply canonicalOpt_ite
    | with_reducible apply canonicalOpt_bind | with_reducible apply canonicalOpt_foldl
    | with_reducible apply canonicalOpt_bind_fst | with_reducible apply canonicalOpt_bind_any)

theorem newTable_canonical_eq_1 {s : State} {p : Nat} {owner : Nat} {ms : List Model} {pages : Nat} {query : Nat} {log : Nat} {pref : Nat} {plen : Nat} {r} (h_eq : State.newTable s p owner ms pages query log pref plen = some r)
    (h_s : Canonical s) : Canonical r.1 :=
  (newTable_canonical s p owner ms pages query log pref plen h_s).elim _ h_eq

theorem newTable_canonical_eq {s : State} {p : Nat} {owner : Nat} {ms : List Model} {pages : Nat} {query : Nat} {log : Nat} {pref : Nat} {plen : Nat} {a_ t} (h_eq : State.newTable s p owner ms pages query log pref plen = some (t, a_))
    (h_s : Canonical s) : Canonical t :=
  (newTable_canonical s p owner ms pages query log pref plen h_s).elim _ h_eq

theorem copyScores_canonical (s : State) (p : Nat) (ms : List Model) (src : Nat) (dst : Nat) (l : Nat) (b : Nat) (h_s : Canonical s) :
    Canonical (State.copyScores s p ms src dst l b) := by
  unfold State.copyScores
  repeat' (first
    | intro _ | with_reducible assumption | with_reducible apply store_canonical | with_reducible apply canonical_ite
    | with_reducible apply canonical_ite_fst | with_reducible apply canonical_ite_snd
    | with_reducible refine canonical_foldl ?_ ?_ | with_reducible refine canonical_foldl_snd ?_ ?_
    | with_reducible refine canonical_foldl_fst ?_ ?_ | simp only [canonical_mk] | split)

theorem shareBlock_canonical (s : State) (q : Seq) (ms : List Model) (slot : Nat) (root : Nat) (l : Nat) (b : Nat) (h_s : Canonical s) :
    CanonicalOpt (State.shareBlock s q ms slot root l b) := by
  unfold State.shareBlock
  repeat' (first
    | intro _ | with_reducible assumption | with_reducible apply copyScores_canonical
    | with_reducible apply putEntry_canonical | with_reducible apply renameBlock_canonical
    | with_reducible apply setEntry_canonical
    | with_reducible refine setEntry_canonical_eq (by with_reducible assumption) ?_ | with_reducible apply canonical_ite
    | with_reducible apply canonicalOpt_none | with_reducible apply canonicalOpt_some
    | with_reducible apply canonicalOpt_map | with_reducible apply canonicalOpt_ite
    | with_reducible apply canonicalOpt_bind | with_reducible apply canonicalOpt_foldl
    | with_reducible apply canonicalOpt_bind_fst | with_reducible apply canonicalOpt_bind_any | simp only [canonical_mk]
    | split)

theorem shareBlock_canonical_eq {s : State} {q : Seq} {ms : List Model} {slot : Nat} {root : Nat} {l : Nat} {b : Nat} {t : State} (h_eq : State.shareBlock s q ms slot root l b = some t)
    (h_s : Canonical s) : Canonical t :=
  (shareBlock_canonical s q ms slot root l b h_s).elim t h_eq

theorem storePrefix_canonical (s : State) (q : Seq) (slot : Nat) (n : Nat) (h_s : Canonical s) :
    CanonicalOpt (State.storePrefix s q slot n) := by
  unfold State.storePrefix
  repeat' (first
    | intro _ | with_reducible assumption | with_reducible apply copyBlock_canonical
    | with_reducible refine copyBlock_canonical_eq (by with_reducible assumption) ?_
    | with_reducible apply newTable_canonical
    | with_reducible refine newTable_canonical_eq (by with_reducible assumption) ?_
    | with_reducible refine newTable_canonical_eq_1 (by with_reducible assumption) ?_
    | with_reducible apply setEntry_canonical
    | with_reducible refine setEntry_canonical_eq (by with_reducible assumption) ?_
    | with_reducible apply setPref_canonical | with_reducible apply setSeq_canonical
    | with_reducible apply shareBlock_canonical
    | with_reducible refine shareBlock_canonical_eq (by with_reducible assumption) ?_
    | with_reducible apply store_canonical | with_reducible apply canonical_ite | with_reducible apply canonical_ite_fst
    | with_reducible apply canonical_ite_snd | with_reducible refine canonical_foldl ?_ ?_
    | with_reducible refine canonical_foldl_snd ?_ ?_ | with_reducible refine canonical_foldl_fst ?_ ?_
    | with_reducible refine canonical_getD ?_ ?_ | with_reducible apply canonicalOpt_none
    | with_reducible apply canonicalOpt_some | with_reducible apply canonicalOpt_map
    | with_reducible apply canonicalOpt_ite | with_reducible apply canonicalOpt_bind
    | with_reducible apply canonicalOpt_foldl | with_reducible apply canonicalOpt_bind_fst
    | with_reducible apply canonicalOpt_bind_any | simp only [canonical_mk]
    | with_reducible refine canonicalOpt_eq (by with_reducible assumption) ?_
    | with_reducible refine canonicalOptFst_eq (by with_reducible assumption) ?_
    | with_reducible refine canonicalOptFst_eq_1 (by with_reducible assumption) ?_ | split
    | with_reducible apply canonicalOptFst_none | with_reducible apply canonicalOptFst_some
    | with_reducible apply canonicalOptFst_map | with_reducible apply canonicalOptFst_ite
    | with_reducible apply canonicalOptFst_bind | with_reducible apply canonicalOptFst_foldl
    | with_reducible apply canonicalOptFst_bind_opt | with_reducible apply canonicalOptFst_bind_any
    | with_reducible apply canonicalOptSnd_none | with_reducible apply canonicalOptSnd_some
    | with_reducible apply canonicalOptSnd_ite)

theorem storePrefix_canonical_eq {s : State} {q : Seq} {slot : Nat} {n : Nat} {t : State} (h_eq : State.storePrefix s q slot n = some t)
    (h_s : Canonical s) : Canonical t :=
  (storePrefix_canonical s q slot n h_s).elim t h_eq

theorem unrefPrefix_canonical  (y0 : Nat) (y1 : Nat) (y2 : State) (h_y2 : Canonical y2) :
    Canonical (State.unrefPrefix y0 y1 y2) := by
  revert h_y2
  fun_induction State.unrefPrefix y0 y1 y2 <;> intro h_y2
  all_goals
    repeat' (first
      | intro _ | with_reducible assumption | with_reducible apply_assumption -exfalso -symm
      | with_reducible apply delObj_canonical | with_reducible apply freeKv_canonical
      | with_reducible apply setPref_canonical | with_reducible apply canonical_ite
      | with_reducible apply canonical_ite_fst | with_reducible apply canonical_ite_snd
      | with_reducible refine canonical_foldl ?_ ?_ | with_reducible refine canonical_foldl_snd ?_ ?_
      | with_reducible refine canonical_foldl_fst ?_ ?_ | simp only [canonical_mk]
      | with_reducible refine canonicalOpt_eq (by with_reducible assumption) ?_
      | with_reducible refine canonicalOptFst_eq (by with_reducible assumption) ?_
      | with_reducible refine canonicalOptFst_eq_1 (by with_reducible assumption) ?_ | split
      | with_reducible apply canonicalOpt_none | with_reducible apply canonicalOpt_some
      | with_reducible apply canonicalOpt_map | with_reducible apply canonicalOpt_ite
      | with_reducible apply canonicalOpt_bind | with_reducible apply canonicalOpt_foldl
      | with_reducible apply canonicalOpt_bind_fst | with_reducible apply canonicalOpt_bind_any
      | with_reducible apply canonicalOptFst_none | with_reducible apply canonicalOptFst_some
      | with_reducible apply canonicalOptFst_map | with_reducible apply canonicalOptFst_ite
      | with_reducible apply canonicalOptFst_bind | with_reducible apply canonicalOptFst_foldl
      | with_reducible apply canonicalOptFst_bind_opt | with_reducible apply canonicalOptFst_bind_any
      | with_reducible apply canonicalOptSnd_none | with_reducible apply canonicalOptSnd_some
      | with_reducible apply canonicalOptSnd_ite | (simp +zetaDelta only [canonical_mk]; done)
      | simp +zetaDelta only [canonical_mk])

theorem endHold_canonical (s : State) (slot : Nat) (h_s : Canonical s) :
    Canonical (State.endHold s slot) := by
  unfold State.endHold
  repeat' (first
    | intro _ | with_reducible assumption | with_reducible apply setPref_canonical
    | with_reducible apply unrefPrefix_canonical | with_reducible apply canonical_ite | simp only [canonical_mk] | split)

theorem bodyPrefixRelease_canonical (c : Cmd) (s : State) (h_s : Canonical s) :
    Canonical (bodyPrefixRelease c s) := by
  unfold bodyPrefixRelease
  repeat' (first
    | intro _ | with_reducible assumption | with_reducible apply refuse_canonical | with_reducible apply setPref_canonical
    | with_reducible apply shaped_canonical | with_reducible apply unrefPrefix_canonical
    | with_reducible apply canonical_ite | simp only [canonical_mk] | split)

theorem bodyPrefixStore_canonical (c : Cmd) (s : State) (h_s : Canonical s) :
    Canonical (bodyPrefixStore c s) := by
  unfold bodyPrefixStore
  repeat' (first
    | intro _ | with_reducible assumption | with_reducible apply refuse_canonical | with_reducible apply canonical_ite
    | simp only [canonical_mk] | split)

theorem readPartial_canonical (s : State) (q : Seq) (b : Nat) (h_s : Canonical s) :
    Canonical (State.readPartial s q b).2 := by
  unfold State.readPartial
  repeat' (first
    | intro _ | with_reducible assumption | with_reducible apply lostIfKv_canonical
    | with_reducible apply objContent_canonical
    | with_reducible refine objContent_canonical_eq (by with_reducible assumption) ?_ | with_reducible apply canonical_ite
    | with_reducible apply canonical_ite_fst | with_reducible apply canonical_ite_snd
    | with_reducible refine canonical_foldl ?_ ?_ | with_reducible refine canonical_foldl_snd ?_ ?_
    | with_reducible refine canonical_foldl_fst ?_ ?_ | simp only [canonical_mk] | split)

theorem readPartial_canonical_eq {s : State} {q : Seq} {b : Nat} {a0_ t_} (h_eq : State.readPartial s q b = (a0_, t_))
    (h_s : Canonical s) : Canonical t_ := by
  have h_p := readPartial_canonical s q b h_s
  rw [h_eq] at h_p; exact h_p

theorem doStore_canonical (s : State) (c : Cmd) (h_s : Canonical s) :
    Canonical (State.doStore s c) := by
  unfold State.doStore
  repeat' (first
    | intro _ | with_reducible assumption | with_reducible apply readPartial_canonical
    | with_reducible refine readPartial_canonical_eq (by with_reducible assumption) ?_
    | with_reducible apply refuse_canonical | with_reducible apply reply_canonical
    | with_reducible apply storePrefix_canonical
    | with_reducible refine storePrefix_canonical_eq (by with_reducible assumption) ?_
    | with_reducible apply canonical_ite | with_reducible apply canonical_ite_fst | with_reducible apply canonical_ite_snd
    | with_reducible refine canonical_getD ?_ ?_ | simp only [canonical_mk]
    | with_reducible refine canonicalOpt_eq (by with_reducible assumption) ?_
    | with_reducible refine canonicalOptFst_eq (by with_reducible assumption) ?_
    | with_reducible refine canonicalOptFst_eq_1 (by with_reducible assumption) ?_ | split
    | with_reducible apply canonicalOpt_none | with_reducible apply canonicalOpt_some
    | with_reducible apply canonicalOpt_map | with_reducible apply canonicalOpt_ite
    | with_reducible apply canonicalOpt_bind | with_reducible apply canonicalOpt_foldl
    | with_reducible apply canonicalOpt_bind_fst | with_reducible apply canonicalOpt_bind_any
    | with_reducible apply canonicalOptFst_none | with_reducible apply canonicalOptFst_some
    | with_reducible apply canonicalOptFst_map | with_reducible apply canonicalOptFst_ite
    | with_reducible apply canonicalOptFst_bind | with_reducible apply canonicalOptFst_foldl
    | with_reducible apply canonicalOptFst_bind_opt | with_reducible apply canonicalOptFst_bind_any
    | with_reducible apply canonicalOptSnd_none | with_reducible apply canonicalOptSnd_some
    | with_reducible apply canonicalOptSnd_ite)

theorem doStores_canonical (s : State) (p : Nat) (h_s : Canonical s) :
    Canonical (State.doStores s p) := by
  unfold State.doStores
  repeat' (first
    | intro _ | with_reducible assumption | with_reducible apply doStore_canonical | with_reducible apply canonical_ite
    | with_reducible refine canonical_foldl ?_ ?_ | with_reducible refine canonical_foldl_snd ?_ ?_
    | with_reducible refine canonical_foldl_fst ?_ ?_ | with_reducible refine canonical_getD ?_ ?_
    | simp only [canonical_mk] | with_reducible refine canonicalOpt_eq (by with_reducible assumption) ?_
    | with_reducible refine canonicalOptFst_eq (by with_reducible assumption) ?_
    | with_reducible refine canonicalOptFst_eq_1 (by with_reducible assumption) ?_ | split
    | with_reducible apply canonicalOpt_none | with_reducible apply canonicalOpt_some
    | with_reducible apply canonicalOpt_map | with_reducible apply canonicalOpt_ite
    | with_reducible apply canonicalOpt_bind | with_reducible apply canonicalOpt_foldl
    | with_reducible apply canonicalOpt_bind_fst | with_reducible apply canonicalOpt_bind_any
    | with_reducible apply canonicalOptFst_none | with_reducible apply canonicalOptFst_some
    | with_reducible apply canonicalOptFst_map | with_reducible apply canonicalOptFst_ite
    | with_reducible apply canonicalOptFst_bind | with_reducible apply canonicalOptFst_foldl
    | with_reducible apply canonicalOptFst_bind_opt | with_reducible apply canonicalOptFst_bind_any
    | with_reducible apply canonicalOptSnd_none | with_reducible apply canonicalOptSnd_some
    | with_reducible apply canonicalOptSnd_ite)

theorem markKvLost_canonical (s : State) (h_s : Canonical s) :
    Canonical (State.markKvLost s) := by
  unfold State.markKvLost
  repeat' (first
    | intro _ | with_reducible assumption | with_reducible apply endHold_canonical
    | with_reducible apply markEntries_canonical | with_reducible apply canonical_ite
    | with_reducible apply canonical_ite_fst | with_reducible apply canonical_ite_snd
    | with_reducible refine canonical_foldl ?_ ?_ | with_reducible refine canonical_foldl_snd ?_ ?_
    | with_reducible refine canonical_foldl_fst ?_ ?_ | simp only [canonical_mk] | split)

theorem tierPromoteBody_canonical (c : Cmd) (s : State) (h_s : Canonical s) :
    Canonical (tierPromoteBody c s) := by
  unfold tierPromoteBody
  repeat' (first
    | intro _ | with_reducible assumption | with_reducible apply markKvLost_canonical
    | with_reducible apply bodyTierPromote_canonical | with_reducible apply canonical_ite | simp only [canonical_mk]
    | split)

theorem tierEvictBody_canonical (c : Cmd) (s : State) (h_s : Canonical s) :
    Canonical (tierEvictBody c s) := by
  unfold tierEvictBody
  repeat' (first
    | intro _ | with_reducible assumption | with_reducible apply markKvLost_canonical
    | with_reducible apply bodyTierEvict_canonical | with_reducible apply canonical_ite | simp only [canonical_mk] | split)

theorem readShared_canonical (s : State) (q : Seq) (h_s : Canonical s) :
    Canonical (State.readShared s q) := by
  unfold State.readShared
  repeat' (first
    | intro _ | with_reducible assumption | with_reducible apply failBlock_canonical | with_reducible apply canonical_ite
    | with_reducible refine canonical_foldl ?_ ?_ | with_reducible refine canonical_foldl_snd ?_ ?_
    | with_reducible refine canonical_foldl_fst ?_ ?_ | simp only [canonical_mk] | split)

theorem dropBlocks_canonical (s : State) (q : Seq) (b0 : Nat) (h_s : Canonical s) :
    Canonical (State.dropBlocks s q b0) := by
  unfold State.dropBlocks
  repeat' (first
    | intro _ | with_reducible assumption | with_reducible apply delObj_canonical
    | with_reducible apply putEntry_canonical | with_reducible apply canonical_ite
    | with_reducible apply canonical_ite_fst | with_reducible apply canonical_ite_snd
    | with_reducible refine canonical_foldl ?_ ?_ | with_reducible refine canonical_foldl_snd ?_ ?_
    | with_reducible refine canonical_foldl_fst ?_ ?_ | simp only [canonical_mk] | split)

theorem refill_canonical (s : State) (q : Seq) (b0 : Nat) (h_s : Canonical s) :
    Canonical (State.refill s q b0) := by
  unfold State.refill
  repeat' (first
    | intro _ | with_reducible assumption | with_reducible apply bump_canonical
    | with_reducible apply dropBlocks_canonical | with_reducible apply setSeq_canonical
    | with_reducible apply store_canonical | with_reducible apply canonical_ite | simp only [canonical_mk] | split)

theorem loadKvQuery_canonical (s : State) (p : Nat) (pr : CodeProfile) (qv : List Byte) (h_s : Canonical s) :
    Canonical (State.loadKvQuery s p pr qv) := by
  unfold State.loadKvQuery
  repeat' (first
    | intro _ | with_reducible assumption | with_reducible apply canonical_ite
    | with_reducible refine canonical_foldl ?_ ?_ | with_reducible refine canonical_foldl_snd ?_ ?_
    | with_reducible refine canonical_foldl_fst ?_ ?_ | simp only [canonical_mk]
    | with_reducible refine canonicalOpt_eq (by with_reducible assumption) ?_
    | with_reducible refine canonicalOptFst_eq (by with_reducible assumption) ?_
    | with_reducible refine canonicalOptFst_eq_1 (by with_reducible assumption) ?_ | split
    | with_reducible apply canonicalOpt_none | with_reducible apply canonicalOpt_some
    | with_reducible apply canonicalOpt_map | with_reducible apply canonicalOpt_ite
    | with_reducible apply canonicalOpt_bind | with_reducible apply canonicalOpt_foldl
    | with_reducible apply canonicalOpt_bind_fst | with_reducible apply canonicalOpt_bind_any
    | with_reducible apply canonicalOptFst_none | with_reducible apply canonicalOptFst_some
    | with_reducible apply canonicalOptFst_map | with_reducible apply canonicalOptFst_ite
    | with_reducible apply canonicalOptFst_bind | with_reducible apply canonicalOptFst_foldl
    | with_reducible apply canonicalOptFst_bind_opt | with_reducible apply canonicalOptFst_bind_any
    | with_reducible apply canonicalOptSnd_none | with_reducible apply canonicalOptSnd_some
    | with_reducible apply canonicalOptSnd_ite)

theorem selectBlocks_canonical (s : State) (q : Seq) (ms : List Model) (l : Nat) (g : Nat) (far : List Nat) (h_s : Canonical s) :
    Canonical (State.selectBlocks s q ms l g far).2 := by
  unfold State.selectBlocks
  repeat' (first
    | intro _ | with_reducible assumption | with_reducible apply countSel_canonical
    | with_reducible apply loadKvQuery_canonical | with_reducible apply measured_canonical
    | with_reducible apply take_canonical | with_reducible apply canonical_ite | with_reducible apply canonical_ite_fst
    | with_reducible apply canonical_ite_snd | simp only [canonical_mk]
    | with_reducible refine canonicalOpt_eq (by with_reducible assumption) ?_
    | with_reducible refine canonicalOptFst_eq (by with_reducible assumption) ?_
    | with_reducible refine canonicalOptFst_eq_1 (by with_reducible assumption) ?_ | split
    | with_reducible apply canonicalOpt_none | with_reducible apply canonicalOpt_some
    | with_reducible apply canonicalOpt_map | with_reducible apply canonicalOpt_ite
    | with_reducible apply canonicalOpt_bind | with_reducible apply canonicalOpt_foldl
    | with_reducible apply canonicalOpt_bind_fst | with_reducible apply canonicalOpt_bind_any
    | with_reducible apply canonicalOptFst_none | with_reducible apply canonicalOptFst_some
    | with_reducible apply canonicalOptFst_map | with_reducible apply canonicalOptFst_ite
    | with_reducible apply canonicalOptFst_bind | with_reducible apply canonicalOptFst_foldl
    | with_reducible apply canonicalOptFst_bind_opt | with_reducible apply canonicalOptFst_bind_any
    | with_reducible apply canonicalOptSnd_none | with_reducible apply canonicalOptSnd_some
    | with_reducible apply canonicalOptSnd_ite)

theorem selectBlocks_canonical_eq {s : State} {q : Seq} {ms : List Model} {l : Nat} {g : Nat} {far : List Nat} {a0_ t_} (h_eq : State.selectBlocks s q ms l g far = (a0_, t_))
    (h_s : Canonical s) : Canonical t_ := by
  have h_p := selectBlocks_canonical s q ms l g far h_s
  rw [h_eq] at h_p; exact h_p

theorem farPlan_canonical (s : State) (q : Seq) (h_s : Canonical s) :
    Canonical (State.farPlan s q).2 := by
  unfold State.farPlan
  repeat' (first
    | intro _ | with_reducible assumption | with_reducible apply bump_canonical
    | with_reducible apply selectBlocks_canonical
    | with_reducible refine selectBlocks_canonical_eq (by with_reducible assumption) ?_
    | with_reducible apply canonical_ite | with_reducible apply canonical_ite_fst | with_reducible apply canonical_ite_snd
    | with_reducible refine canonical_foldl ?_ ?_ | with_reducible refine canonical_foldl_snd ?_ ?_
    | with_reducible refine canonical_foldl_fst ?_ ?_ | simp only [canonical_mk] | split)

theorem farPlan_canonical_eq {s : State} {q : Seq} {a0_ t_} (h_eq : State.farPlan s q = (a0_, t_))
    (h_s : Canonical s) : Canonical t_ := by
  have h_p := farPlan_canonical s q h_s
  rw [h_eq] at h_p; exact h_p

end Sys2Proof.Machine
end

