-- ==== Sys2Proof/Laws/CanonicalSequences.lean ====
section
/-! SUPPORT. Every operation of Machine/Sequences.lean keeps the canonical forms of memory and of the registers. -/

set_option simprocs false
set_option linter.unusedTactic false
set_option linter.unusedSimpArgs false
set_option linter.unreachableTactic false

namespace Sys2Proof.Machine

theorem countEnding_canonical (s : State) (p : Nat) (status : Nat) (h_s : Canonical s) :
    Canonical (State.countEnding s p status) := by
  unfold State.countEnding
  repeat' (first
    | intro _ | with_reducible assumption | with_reducible apply bump_canonical | with_reducible apply canonical_ite
    | simp only [canonical_mk] | split)

theorem closeSeq_canonical (s : State) (q : Seq) (status : Nat) (last : List (List Byte × List Byte)) (h_s : Canonical s) :
    Canonical (State.closeSeq s q status last) := by
  unfold State.closeSeq
  repeat' (first
    | intro _ | with_reducible assumption | with_reducible apply bump_canonical
    | with_reducible apply countEnding_canonical | with_reducible apply dropCmd_canonical
    | with_reducible apply finalEvent_canonical | with_reducible apply setCmd_canonical
    | with_reducible apply setSeq_canonical | with_reducible apply canonical_ite | with_reducible apply canonical_ite_fst
    | with_reducible apply canonical_ite_snd | with_reducible refine canonical_foldl ?_ ?_
    | with_reducible refine canonical_foldl_snd ?_ ?_ | with_reducible refine canonical_foldl_fst ?_ ?_
    | simp only [canonical_mk] | split)

theorem endSeq_canonical (s : State) (i : Nat) (status : Nat) (last : List (List Byte × List Byte)) (h_s : Canonical s) :
    Canonical (State.endSeq s i status last) := by
  unfold State.endSeq
  repeat' (first
    | intro _ | with_reducible assumption | with_reducible apply closeSeq_canonical
    | with_reducible apply setSeq_canonical | with_reducible apply canonical_ite | simp only [canonical_mk] | split)

theorem freeSeq_canonical (s : State) (i : Nat) (h_s : Canonical s) :
    Canonical (State.freeSeq s i) := by
  unfold State.freeSeq
  repeat' (first
    | intro _ | with_reducible assumption | with_reducible apply delObj_canonical | with_reducible apply freeKv_canonical
    | with_reducible apply unrefPrefix_canonical | with_reducible apply canonical_ite
    | with_reducible apply canonical_ite_fst | with_reducible apply canonical_ite_snd
    | with_reducible refine canonical_foldl ?_ ?_ | with_reducible refine canonical_foldl_snd ?_ ?_
    | with_reducible refine canonical_foldl_fst ?_ ?_ | simp only [canonical_mk]
    | with_reducible refine canonicalOpt_eq (by with_reducible assumption) ?_
    | with_reducible refine canonicalOptFst_eq (by with_reducible assumption) ?_
    | with_reducible refine canonicalOptFst_eq_1 (by with_reducible assumption) ?_ | split
    | with_reducible apply canonicalOpt_none | with_reducible apply canonicalOpt_some
    | with_reducible apply canonicalOpt_map | with_reducible apply canonicalOpt_ite
    | with_reducible apply canonicalOpt_bind | with_reducible apply canonicalOpt_foldl
    | with_reducible apply canonicalOpt_bind_fst | with_reducible apply canonicalOpt_bind_any
    | with_reducible apply canonicalOptFst_none | with_reducible apply canonicalOptFst_some
    | with_reducible apply canonicalOptFst_map | with_reducible apply canonicalOptFst_ite
    | with_reducible apply canonicalOptFst_bind | with_reducible apply canonicalOptFst_foldl
    | with_reducible apply canonicalOptFst_bind_opt | with_reducible apply canonicalOptFst_bind_any
    | with_reducible apply canonicalOptSnd_none | with_reducible apply canonicalOptSnd_some
    | with_reducible apply canonicalOptSnd_ite)

theorem freeEnded_canonical (s : State) (p : Nat) (h_s : Canonical s) :
    Canonical (State.freeEnded s p) := by
  unfold State.freeEnded
  repeat' (first
    | intro _ | with_reducible assumption | with_reducible apply freeSeq_canonical | with_reducible apply canonical_ite
    | with_reducible refine canonical_foldl ?_ ?_ | with_reducible refine canonical_foldl_snd ?_ ?_
    | with_reducible refine canonical_foldl_fst ?_ ?_ | simp only [canonical_mk]
    | with_reducible refine canonicalOpt_eq (by with_reducible assumption) ?_
    | with_reducible refine canonicalOptFst_eq (by with_reducible assumption) ?_
    | with_reducible refine canonicalOptFst_eq_1 (by with_reducible assumption) ?_ | split
    | with_reducible apply canonicalOpt_none | with_reducible apply canonicalOpt_some
    | with_reducible apply canonicalOpt_map | with_reducible apply canonicalOpt_ite
    | with_reducible apply canonicalOpt_bind | with_reducible apply canonicalOpt_foldl
    | with_reducible apply canonicalOpt_bind_fst | with_reducible apply canonicalOpt_bind_any
    | with_reducible apply canonicalOptFst_none | with_reducible apply canonicalOptFst_some
    | with_reducible apply canonicalOptFst_map | with_reducible apply canonicalOptFst_ite
    | with_reducible apply canonicalOptFst_bind | with_reducible apply canonicalOptFst_foldl
    | with_reducible apply canonicalOptFst_bind_opt | with_reducible apply canonicalOptFst_bind_any
    | with_reducible apply canonicalOptSnd_none | with_reducible apply canonicalOptSnd_some
    | with_reducible apply canonicalOptSnd_ite)

theorem cutSeq_canonical (s : State) (i : Nat) (status : Nat) (h_s : Canonical s) :
    Canonical (State.cutSeq s i status) := by
  unfold State.cutSeq
  repeat' (first
    | intro _ | with_reducible assumption | with_reducible apply endSeq_canonical | with_reducible apply freeSeq_canonical
    | with_reducible apply canonical_ite | with_reducible apply canonical_ite_fst | with_reducible apply canonical_ite_snd
    | with_reducible refine canonical_getD ?_ ?_ | simp only [canonical_mk]
    | with_reducible refine canonicalOpt_eq (by with_reducible assumption) ?_
    | with_reducible refine canonicalOptFst_eq (by with_reducible assumption) ?_
    | with_reducible refine canonicalOptFst_eq_1 (by with_reducible assumption) ?_ | split
    | with_reducible apply canonicalOpt_none | with_reducible apply canonicalOpt_some
    | with_reducible apply canonicalOpt_map | with_reducible apply canonicalOpt_ite
    | with_reducible apply canonicalOpt_bind | with_reducible apply canonicalOpt_foldl
    | with_reducible apply canonicalOpt_bind_fst | with_reducible apply canonicalOpt_bind_any
    | with_reducible apply canonicalOptFst_none | with_reducible apply canonicalOptFst_some
    | with_reducible apply canonicalOptFst_map | with_reducible apply canonicalOptFst_ite
    | with_reducible apply canonicalOptFst_bind | with_reducible apply canonicalOptFst_foldl
    | with_reducible apply canonicalOptFst_bind_opt | with_reducible apply canonicalOptFst_bind_any
    | with_reducible apply canonicalOptSnd_none | with_reducible apply canonicalOptSnd_some
    | with_reducible apply canonicalOptSnd_ite)

theorem closeNow_canonical (s : State) (q : Seq) (status : Nat) (last : List (List Byte × List Byte)) (h_s : Canonical s) :
    Canonical (State.closeNow s q status last) := by
  unfold State.closeNow
  repeat' (first
    | intro _ | with_reducible assumption | with_reducible apply closeSeq_canonical
    | with_reducible apply freeSeq_canonical | with_reducible apply canonical_ite
    | with_reducible refine canonical_getD ?_ ?_ | simp only [canonical_mk] | split)

theorem endNow_canonical (s : State) (i : Nat) (status : Nat) (h_s : Canonical s) :
    Canonical (State.endNow s i status) := by
  unfold State.endNow
  repeat' (first
    | intro _ | with_reducible assumption | with_reducible apply closeNow_canonical
    | with_reducible apply cutSeq_canonical | with_reducible apply canonical_ite | with_reducible apply canonical_ite_fst
    | with_reducible apply canonical_ite_snd | simp only [canonical_mk] | split)

theorem settleEndings_canonical (s : State) (h_s : Canonical s) :
    Canonical (State.settleEndings s) := by
  unfold State.settleEndings
  repeat' (first
    | intro _ | with_reducible assumption | with_reducible apply closeNow_canonical | with_reducible apply canonical_ite
    | with_reducible apply canonical_ite_fst | with_reducible apply canonical_ite_snd
    | with_reducible refine canonical_foldl ?_ ?_ | with_reducible refine canonical_foldl_snd ?_ ?_
    | with_reducible refine canonical_foldl_fst ?_ ?_ | simp only [canonical_mk] | split)

theorem bodySeqCancel_canonical (c : Cmd) (s : State) (h_s : Canonical s) :
    Canonical (bodySeqCancel c s) := by
  unfold bodySeqCancel
  repeat' (first
    | intro _ | with_reducible assumption | with_reducible apply closeNow_canonical
    | with_reducible apply cutSeq_canonical | with_reducible apply reply_canonical | with_reducible apply shaped_canonical
    | with_reducible apply canonical_ite | simp only [canonical_mk] | split)

theorem bodySeqAppend_canonical (c : Cmd) (s : State) (h_s : Canonical s) :
    Canonical (bodySeqAppend c s) := by
  unfold bodySeqAppend
  repeat' (first
    | intro _ | with_reducible assumption | with_reducible apply refuse_canonical | with_reducible apply setSeq_canonical
    | with_reducible apply canonical_ite | simp only [canonical_mk]
    | with_reducible refine canonicalOpt_eq (by with_reducible assumption) ?_
    | with_reducible refine canonicalOptFst_eq (by with_reducible assumption) ?_
    | with_reducible refine canonicalOptFst_eq_1 (by with_reducible assumption) ?_ | split
    | with_reducible apply canonicalOpt_none | with_reducible apply canonicalOpt_some
    | with_reducible apply canonicalOpt_map | with_reducible apply canonicalOpt_ite
    | with_reducible apply canonicalOpt_bind | with_reducible apply canonicalOpt_foldl
    | with_reducible apply canonicalOpt_bind_fst | with_reducible apply canonicalOpt_bind_any
    | with_reducible apply canonicalOptFst_none | with_reducible apply canonicalOptFst_some
    | with_reducible apply canonicalOptFst_map | with_reducible apply canonicalOptFst_ite
    | with_reducible apply canonicalOptFst_bind | with_reducible apply canonicalOptFst_foldl
    | with_reducible apply canonicalOptFst_bind_opt | with_reducible apply canonicalOptFst_bind_any
    | with_reducible apply canonicalOptSnd_none | with_reducible apply canonicalOptSnd_some
    | with_reducible apply canonicalOptSnd_ite)

theorem bodySeqSetPriority_canonical (c : Cmd) (s : State) (h_s : Canonical s) :
    Canonical (bodySeqSetPriority c s) := by
  unfold bodySeqSetPriority
  repeat' (first
    | intro _ | with_reducible assumption | with_reducible apply refuse_canonical | with_reducible apply setSeq_canonical
    | with_reducible apply shaped_canonical | with_reducible apply canonical_ite | simp only [canonical_mk] | split)

theorem bodySeqStatus_canonical (c : Cmd) (s : State) (h_s : Canonical s) :
    Canonical (bodySeqStatus c s) := by
  unfold bodySeqStatus
  repeat' (first
    | intro _ | with_reducible assumption | with_reducible apply refuse_canonical | with_reducible apply reply_canonical
    | with_reducible apply shaped_canonical | with_reducible apply canonical_ite
    | with_reducible refine canonical_getD ?_ ?_ | simp only [canonical_mk] | split)

theorem adoptPrefix_canonical (s : State) (q : Seq) (x : PrefixSlot) (h_s : Canonical s) :
    CanonicalOpt (State.adoptPrefix s q x) := by
  unfold State.adoptPrefix
  repeat' (first
    | intro _ | with_reducible assumption | with_reducible apply setEntry_canonical
    | with_reducible refine setEntry_canonical_eq (by with_reducible assumption) ?_ | with_reducible apply canonical_ite
    | with_reducible apply canonical_ite_fst | with_reducible apply canonical_ite_snd
    | with_reducible refine canonical_foldl ?_ ?_ | with_reducible refine canonical_foldl_snd ?_ ?_
    | with_reducible refine canonical_foldl_fst ?_ ?_ | with_reducible refine canonical_getD ?_ ?_
    | with_reducible apply canonicalOpt_none | with_reducible apply canonicalOpt_some
    | with_reducible apply canonicalOpt_map | with_reducible apply canonicalOpt_ite
    | with_reducible apply canonicalOpt_bind | with_reducible apply canonicalOpt_foldl
    | with_reducible apply canonicalOpt_bind_fst | with_reducible apply canonicalOpt_bind_any | simp only [canonical_mk]
    | with_reducible refine canonicalOpt_eq (by with_reducible assumption) ?_
    | with_reducible refine canonicalOptFst_eq (by with_reducible assumption) ?_
    | with_reducible refine canonicalOptFst_eq_1 (by with_reducible assumption) ?_ | split
    | with_reducible apply canonicalOptFst_none | with_reducible apply canonicalOptFst_some
    | with_reducible apply canonicalOptFst_map | with_reducible apply canonicalOptFst_ite
    | with_reducible apply canonicalOptFst_bind | with_reducible apply canonicalOptFst_foldl
    | with_reducible apply canonicalOptFst_bind_opt | with_reducible apply canonicalOptFst_bind_any
    | with_reducible apply canonicalOptSnd_none | with_reducible apply canonicalOptSnd_some
    | with_reducible apply canonicalOptSnd_ite)

theorem adoptPrefix_canonical_eq {s : State} {q : Seq} {x : PrefixSlot} {t : State} (h_eq : State.adoptPrefix s q x = some t)
    (h_s : Canonical s) : Canonical t :=
  (adoptPrefix_canonical s q x h_s).elim t h_eq

theorem makeSeq_canonical (s : State) (q : Seq) (pr : Prompt) (x : Option PrefixSlot) (h_s : Canonical s) :
    CanonicalOpt (State.makeSeq s q pr x) := by
  unfold State.makeSeq
  repeat' (first
    | intro _ | with_reducible assumption | with_reducible apply adoptPrefix_canonical
    | with_reducible refine adoptPrefix_canonical_eq (by with_reducible assumption) ?_
    | with_reducible apply newTable_canonical
    | with_reducible refine newTable_canonical_eq (by with_reducible assumption) ?_
    | with_reducible refine newTable_canonical_eq_1 (by with_reducible assumption) ?_
    | with_reducible apply reserveKv_canonical
    | with_reducible refine reserveKv_canonical_eq (by with_reducible assumption) ?_
    | with_reducible apply setPref_canonical | with_reducible apply store_canonical | with_reducible apply canonical_ite
    | with_reducible apply canonical_ite_fst | with_reducible apply canonical_ite_snd
    | with_reducible apply canonicalOpt_none | with_reducible apply canonicalOpt_some
    | with_reducible apply canonicalOpt_map | with_reducible apply canonicalOpt_ite
    | with_reducible apply canonicalOpt_bind | with_reducible apply canonicalOpt_foldl
    | with_reducible apply canonicalOpt_bind_fst | with_reducible apply canonicalOpt_bind_any | simp only [canonical_mk]
    | with_reducible refine canonicalOpt_eq (by with_reducible assumption) ?_
    | with_reducible refine canonicalOptFst_eq (by with_reducible assumption) ?_
    | with_reducible refine canonicalOptFst_eq_1 (by with_reducible assumption) ?_ | split
    | with_reducible apply canonicalOptFst_none | with_reducible apply canonicalOptFst_some
    | with_reducible apply canonicalOptFst_map | with_reducible apply canonicalOptFst_ite
    | with_reducible apply canonicalOptFst_bind | with_reducible apply canonicalOptFst_foldl
    | with_reducible apply canonicalOptFst_bind_opt | with_reducible apply canonicalOptFst_bind_any
    | with_reducible apply canonicalOptSnd_none | with_reducible apply canonicalOptSnd_some
    | with_reducible apply canonicalOptSnd_ite)

theorem makeSeq_canonical_eq {s : State} {q : Seq} {pr : Prompt} {x : Option PrefixSlot} {t : State} (h_eq : State.makeSeq s q pr x = some t)
    (h_s : Canonical s) : Canonical t :=
  (makeSeq_canonical s q pr x h_s).elim t h_eq

theorem acceptSeq_canonical (s : State) (c : Cmd) (q : Seq) (pr : Prompt) (h_s : Canonical s) :
    Canonical (State.acceptSeq s c q pr) := by
  unfold State.acceptSeq
  repeat' (first
    | intro _ | with_reducible assumption | with_reducible apply sendReply_canonical | with_reducible apply canonical_ite
    | with_reducible apply canonical_ite_fst | with_reducible apply canonical_ite_snd | simp only [canonical_mk] | split)

theorem endAtEntry_canonical (s : State) (q : Seq) (h_s : Canonical s) :
    Canonical (State.endAtEntry s q) := by
  unfold State.endAtEntry
  repeat' (first
    | intro _ | with_reducible assumption | with_reducible apply cutSeq_canonical | with_reducible apply canonical_ite
    | with_reducible refine canonical_getD ?_ ?_ | simp only [canonical_mk]
    | with_reducible refine canonicalOpt_eq (by with_reducible assumption) ?_
    | with_reducible refine canonicalOptFst_eq (by with_reducible assumption) ?_
    | with_reducible refine canonicalOptFst_eq_1 (by with_reducible assumption) ?_ | split
    | with_reducible apply canonicalOpt_none | with_reducible apply canonicalOpt_some
    | with_reducible apply canonicalOpt_map | with_reducible apply canonicalOpt_ite
    | with_reducible apply canonicalOpt_bind | with_reducible apply canonicalOpt_foldl
    | with_reducible apply canonicalOpt_bind_fst | with_reducible apply canonicalOpt_bind_any
    | with_reducible apply canonicalOptFst_none | with_reducible apply canonicalOptFst_some
    | with_reducible apply canonicalOptFst_map | with_reducible apply canonicalOptFst_ite
    | with_reducible apply canonicalOptFst_bind | with_reducible apply canonicalOptFst_foldl
    | with_reducible apply canonicalOptFst_bind_opt | with_reducible apply canonicalOptFst_bind_any
    | with_reducible apply canonicalOptSnd_none | with_reducible apply canonicalOptSnd_some
    | with_reducible apply canonicalOptSnd_ite)

theorem enterSeq_canonical (s : State) (c : Cmd) (b : GenBlock) (pr : Prompt) (q : Seq) (h_s : Canonical s) :
    Canonical (State.enterSeq s c b pr q) := by
  unfold State.enterSeq
  repeat' (first
    | intro _ | with_reducible assumption | with_reducible apply acceptSeq_canonical
    | with_reducible apply endAtEntry_canonical | with_reducible apply makeSeq_canonical
    | with_reducible refine makeSeq_canonical_eq (by with_reducible assumption) ?_ | with_reducible apply refuse_canonical
    | with_reducible apply refuseNotReady_canonical | with_reducible apply canonical_ite | simp only [canonical_mk]
    | split)

theorem takeIn_canonical (s : State) (c : Cmd) (b : GenBlock) (pr : Prompt) (h_s : Canonical s) :
    Canonical (State.takeIn s c b pr) := by
  unfold State.takeIn
  repeat' (first
    | intro _ | with_reducible assumption | with_reducible apply enterSeq_canonical
    | with_reducible apply refuse_canonical | with_reducible apply canonical_ite | simp only [canonical_mk] | split)

theorem bodyGenerate_canonical (c : Cmd) (s : State) (h_s : Canonical s) :
    Canonical (bodyGenerate c s) := by
  unfold bodyGenerate
  repeat' (first
    | intro _ | with_reducible assumption | with_reducible apply count_canonical | with_reducible apply refuse_canonical
    | with_reducible apply takeIn_canonical | with_reducible apply canonical_ite | simp only [canonical_mk]
    | with_reducible refine canonicalOpt_eq (by with_reducible assumption) ?_
    | with_reducible refine canonicalOptFst_eq (by with_reducible assumption) ?_
    | with_reducible refine canonicalOptFst_eq_1 (by with_reducible assumption) ?_ | split
    | with_reducible apply canonicalOpt_none | with_reducible apply canonicalOpt_some
    | with_reducible apply canonicalOpt_map | with_reducible apply canonicalOpt_ite
    | with_reducible apply canonicalOpt_bind | with_reducible apply canonicalOpt_foldl
    | with_reducible apply canonicalOpt_bind_fst | with_reducible apply canonicalOpt_bind_any
    | with_reducible apply canonicalOptFst_none | with_reducible apply canonicalOptFst_some
    | with_reducible apply canonicalOptFst_map | with_reducible apply canonicalOptFst_ite
    | with_reducible apply canonicalOptFst_bind | with_reducible apply canonicalOptFst_foldl
    | with_reducible apply canonicalOptFst_bind_opt | with_reducible apply canonicalOptFst_bind_any
    | with_reducible apply canonicalOptSnd_none | with_reducible apply canonicalOptSnd_some
    | with_reducible apply canonicalOptSnd_ite)

theorem bodyVariantSet_canonical (c : Cmd) (s : State) (h_s : Canonical s) :
    Canonical (bodyVariantSet c s) := by
  unfold bodyVariantSet
  repeat' (first
    | intro _ | with_reducible assumption | with_reducible apply refuse_canonical
    | with_reducible apply refuseBusy_canonical | with_reducible apply store_canonical
    | with_reducible apply canonical_ite | with_reducible refine canonical_getD ?_ ?_ | simp only [canonical_mk]
    | with_reducible refine canonicalOpt_eq (by with_reducible assumption) ?_
    | with_reducible refine canonicalOptFst_eq (by with_reducible assumption) ?_
    | with_reducible refine canonicalOptFst_eq_1 (by with_reducible assumption) ?_ | split
    | with_reducible apply canonicalOpt_none | with_reducible apply canonicalOpt_some
    | with_reducible apply canonicalOpt_map | with_reducible apply canonicalOpt_ite
    | with_reducible apply canonicalOpt_bind | with_reducible apply canonicalOpt_foldl
    | with_reducible apply canonicalOpt_bind_fst | with_reducible apply canonicalOpt_bind_any
    | with_reducible apply canonicalOptFst_none | with_reducible apply canonicalOptFst_some
    | with_reducible apply canonicalOptFst_map | with_reducible apply canonicalOptFst_ite
    | with_reducible apply canonicalOptFst_bind | with_reducible apply canonicalOptFst_foldl
    | with_reducible apply canonicalOptFst_bind_opt | with_reducible apply canonicalOptFst_bind_any
    | with_reducible apply canonicalOptSnd_none | with_reducible apply canonicalOptSnd_some
    | with_reducible apply canonicalOptSnd_ite)

theorem bodyVariantClear_canonical (c : Cmd) (s : State) (h_s : Canonical s) :
    Canonical (bodyVariantClear c s) := by
  unfold bodyVariantClear
  repeat' (first
    | intro _ | with_reducible assumption | with_reducible apply refuse_canonical
    | with_reducible apply refuseBusy_canonical | with_reducible apply shaped_canonical
    | with_reducible apply canonical_ite | simp only [canonical_mk] | split)

theorem bodyVersionTurnover_canonical (c : Cmd) (s : State) (h_s : Canonical s) :
    Canonical (bodyVersionTurnover c s) := by
  unfold bodyVersionTurnover
  repeat' (first
    | intro _ | with_reducible assumption | with_reducible apply refuse_canonical
    | with_reducible apply refuseBusy_canonical | with_reducible apply shaped_canonical
    | with_reducible apply canonical_ite | simp only [canonical_mk] | split)

theorem turnover_canonical (s : State) (p : Nat) (h_s : Canonical s) :
    Canonical (State.turnover s p) := by
  unfold State.turnover
  repeat' (first
    | intro _ | with_reducible assumption | with_reducible apply endHold_canonical | with_reducible apply endSeq_canonical
    | with_reducible apply resnap_canonical | with_reducible apply canonical_ite
    | with_reducible refine canonical_foldl ?_ ?_ | with_reducible refine canonical_foldl_snd ?_ ?_
    | with_reducible refine canonical_foldl_fst ?_ ?_ | simp only [canonical_mk]
    | with_reducible refine canonicalOpt_eq (by with_reducible assumption) ?_
    | with_reducible refine canonicalOptFst_eq (by with_reducible assumption) ?_
    | with_reducible refine canonicalOptFst_eq_1 (by with_reducible assumption) ?_ | split
    | with_reducible apply canonicalOpt_none | with_reducible apply canonicalOpt_some
    | with_reducible apply canonicalOpt_map | with_reducible apply canonicalOpt_ite
    | with_reducible apply canonicalOpt_bind | with_reducible apply canonicalOpt_foldl
    | with_reducible apply canonicalOpt_bind_fst | with_reducible apply canonicalOpt_bind_any
    | with_reducible apply canonicalOptFst_none | with_reducible apply canonicalOptFst_some
    | with_reducible apply canonicalOptFst_map | with_reducible apply canonicalOptFst_ite
    | with_reducible apply canonicalOptFst_bind | with_reducible apply canonicalOptFst_foldl
    | with_reducible apply canonicalOptFst_bind_opt | with_reducible apply canonicalOptFst_bind_any
    | with_reducible apply canonicalOptSnd_none | with_reducible apply canonicalOptSnd_some
    | with_reducible apply canonicalOptSnd_ite)

theorem turnoverCompleteStep_canonical (p : Nat) (id : Nat) (s : State) (h_s : Canonical s) :
    Canonical (turnoverCompleteStep p id s) := by
  unfold turnoverCompleteStep
  repeat' (first
    | intro _ | with_reducible assumption | with_reducible apply endWith_canonical | with_reducible apply canonical_ite
    | simp only [canonical_mk] | split)

theorem seqTableErrorStep_canonical (k : Nat) (corrected : Bool) (s : State) (h_s : Canonical s) :
    Canonical (seqTableErrorStep k corrected s) := by
  unfold seqTableErrorStep
  repeat' (first
    | intro _ | with_reducible assumption | with_reducible apply cutSeq_canonical | with_reducible apply event_canonical
    | with_reducible apply report_canonical | with_reducible apply canonical_ite | simp only [canonical_mk] | split)

theorem holdSeqItem_canonical (s : State) (i : Nat) (item : List Byte × List Byte) (h_s : Canonical s) :
    Canonical (State.holdSeqItem s i item) := by
  unfold State.holdSeqItem
  repeat' (first
    | intro _ | with_reducible assumption | with_reducible apply holdItem_canonical
    | with_reducible refine holdItem_canonical_eq (by with_reducible assumption) ?_
    | with_reducible apply setSeq_canonical | with_reducible apply canonical_ite | with_reducible apply canonical_ite_fst
    | with_reducible apply canonical_ite_snd | simp only [canonical_mk] | split)

theorem textOf_canonical (s : State) (q : Seq) (v : Vocab) (t : Nat) (h_s : Canonical s) :
    Canonical (State.textOf s q v t).1 := by
  unfold State.textOf
  repeat' (first
    | intro _ | with_reducible assumption | with_reducible apply bump_canonical | with_reducible apply setStages_canonical
    | with_reducible apply canonical_ite | with_reducible apply canonical_ite_fst | with_reducible apply canonical_ite_snd
    | simp only [canonical_mk] | split)

theorem textOf_canonical_eq {s : State} {q : Seq} {v : Vocab} {t : Nat} {t_ a1_ a2_} (h_eq : State.textOf s q v t = (t_, a1_, a2_))
    (h_s : Canonical s) : Canonical t_ := by
  have h_p := textOf_canonical s q v t h_s
  rw [h_eq] at h_p; exact h_p

theorem commitToken_canonical (s : State) (i : Nat) (t : Nat) (h_s : Canonical s) :
    Canonical (State.commitToken s i t) := by
  unfold State.commitToken
  repeat' (first
    | intro _ | with_reducible assumption | with_reducible apply bump_canonical | with_reducible apply endSeq_canonical
    | with_reducible apply holdSeqItem_canonical | with_reducible apply log_canonical
    | with_reducible apply readTok_canonical
    | with_reducible refine readTok_canonical_eq (by with_reducible assumption) ?_
    | with_reducible apply reportVocab_canonical | with_reducible apply setSeq_canonical
    | with_reducible apply store_canonical | with_reducible apply textOf_canonical
    | with_reducible refine textOf_canonical_eq (by with_reducible assumption) ?_ | with_reducible apply tokens_canonical
    | with_reducible refine tokens_canonical_eq (by with_reducible assumption) ?_ | with_reducible apply canonical_ite
    | with_reducible apply canonical_ite_fst | with_reducible apply canonical_ite_snd | simp only [canonical_mk]
    | with_reducible refine canonicalOpt_eq (by with_reducible assumption) ?_
    | with_reducible refine canonicalOptFst_eq (by with_reducible assumption) ?_
    | with_reducible refine canonicalOptFst_eq_1 (by with_reducible assumption) ?_ | split
    | with_reducible apply canonicalOpt_none | with_reducible apply canonicalOpt_some
    | with_reducible apply canonicalOpt_map | with_reducible apply canonicalOpt_ite
    | with_reducible apply canonicalOpt_bind | with_reducible apply canonicalOpt_foldl
    | with_reducible apply canonicalOpt_bind_fst | with_reducible apply canonicalOpt_bind_any
    | with_reducible apply canonicalOptFst_none | with_reducible apply canonicalOptFst_some
    | with_reducible apply canonicalOptFst_map | with_reducible apply canonicalOptFst_ite
    | with_reducible apply canonicalOptFst_bind | with_reducible apply canonicalOptFst_foldl
    | with_reducible apply canonicalOptFst_bind_opt | with_reducible apply canonicalOptFst_bind_any
    | with_reducible apply canonicalOptSnd_none | with_reducible apply canonicalOptSnd_some
    | with_reducible refine canonical_pair_eq (by with_reducible assumption) ?_ | with_reducible apply canonicalOptSnd_ite
    | with_reducible apply canonical_ite_fst)

end Sys2Proof.Machine
end

