-- ==== Sys2Proof/Laws/CanonicalRunner.lean ====
section
/-! SUPPORT. Every operation of Machine/Runner.lean keeps the canonical forms of memory and of the registers. -/

set_option simprocs false
set_option linter.unusedTactic false
set_option linter.unusedSimpArgs false
set_option linter.unreachableTactic false

namespace Sys2Proof.Machine

theorem setRunner_canonical (s : State) (p : Nat) (f : Runner → Runner) (h_s : Canonical s) :
    Canonical (State.setRunner s p f) := by
  unfold State.setRunner
  repeat' (first
    | intro _ | with_reducible assumption | with_reducible apply canonical_ite | simp only [canonical_mk] | split)

theorem pinAll_canonical (s : State) (p : Nat) (ids : List Nat) (h_s : Canonical s) :
    CanonicalOpt (State.pinAll s p ids) := by
  unfold State.pinAll
  repeat' (first
    | intro _ | with_reducible assumption | with_reducible apply pin_canonical
    | with_reducible refine pin_canonical_eq (by with_reducible assumption) ?_ | with_reducible apply canonical_ite
    | with_reducible refine canonical_foldl ?_ ?_ | with_reducible refine canonical_foldl_snd ?_ ?_
    | with_reducible refine canonical_foldl_fst ?_ ?_ | with_reducible apply canonicalOpt_none
    | with_reducible apply canonicalOpt_some | with_reducible apply canonicalOpt_map
    | with_reducible apply canonicalOpt_ite | with_reducible apply canonicalOpt_bind
    | with_reducible apply canonicalOpt_foldl | with_reducible apply canonicalOpt_bind_fst
    | with_reducible apply canonicalOpt_bind_any | simp only [canonical_mk] | split)

theorem pinAll_canonical_eq {s : State} {p : Nat} {ids : List Nat} {t : State} (h_eq : State.pinAll s p ids = some t)
    (h_s : Canonical s) : Canonical t :=
  (pinAll_canonical s p ids h_s).elim t h_eq

theorem unpinAll_canonical (s : State) (p : Nat) (ids : List Nat) (h_s : Canonical s) :
    Canonical (State.unpinAll s p ids) := by
  unfold State.unpinAll
  repeat' (first
    | intro _ | with_reducible assumption | with_reducible apply unpin_canonical | with_reducible apply canonical_ite
    | with_reducible refine canonical_foldl ?_ ?_ | with_reducible refine canonical_foldl_snd ?_ ?_
    | with_reducible refine canonical_foldl_fst ?_ ?_ | simp only [canonical_mk] | split)

theorem setLathe_canonical (s : State) (n : Nat) (f : Lathe → Lathe) (h_s : Canonical s) :
    Canonical (State.setLathe s n f) := by
  unfold State.setLathe
  repeat' (first
    | intro _ | with_reducible assumption | with_reducible apply canonical_ite | simp only [canonical_mk] | split)

theorem setSlot_canonical (s : State) (n : Nat) (i : Nat) (v : LSlot) (h_s : Canonical s) :
    Canonical (State.setSlot s n i v) := by
  unfold State.setSlot
  repeat' (first
    | intro _ | with_reducible assumption | with_reducible apply setLathe_canonical | with_reducible apply canonical_ite
    | simp only [canonical_mk] | split)

theorem emptySlot_canonical (s : State) (n : Nat) (i : Nat) (h_s : Canonical s) :
    Canonical (State.emptySlot s n i) := by
  unfold State.emptySlot
  repeat' (first
    | intro _ | with_reducible assumption | with_reducible apply setLathe_canonical
    | with_reducible apply setObj_canonical | with_reducible apply canonical_ite | with_reducible apply canonical_ite_fst
    | with_reducible apply canonical_ite_snd | with_reducible refine canonical_getD ?_ ?_ | simp only [canonical_mk]
    | split)

theorem setRunning_canonical (s : State) (n : Nat) (v : Bool) (h_s : Canonical s) :
    Canonical (State.setRunning s n v) := by
  unfold State.setRunning
  repeat' (first
    | intro _ | with_reducible assumption | with_reducible apply setFld_canonical
    | with_reducible apply setLathe_canonical | with_reducible apply canonical_ite | simp only [canonical_mk] | split)

theorem settleLathe_canonical (s : State) (n : Nat) (h_s : Canonical s) :
    Canonical (State.settleLathe s n) := by
  unfold State.settleLathe
  repeat' (first
    | intro _ | with_reducible assumption | with_reducible apply emptySlot_canonical
    | with_reducible apply release_canonical | with_reducible apply setLathe_canonical
    | with_reducible apply setRunning_canonical | with_reducible apply canonical_ite
    | with_reducible apply canonical_ite_fst | with_reducible apply canonical_ite_snd
    | with_reducible refine canonical_foldl ?_ ?_ | with_reducible refine canonical_foldl_snd ?_ ?_
    | with_reducible refine canonical_foldl_fst ?_ ?_ | simp only [canonical_mk]
    | with_reducible refine canonicalOpt_eq (by with_reducible assumption) ?_
    | with_reducible refine canonicalOptFst_eq (by with_reducible assumption) ?_
    | with_reducible refine canonicalOptFst_eq_1 (by with_reducible assumption) ?_ | split
    | with_reducible apply canonicalOpt_none | with_reducible apply canonicalOpt_some
    | with_reducible apply canonicalOpt_map | with_reducible apply canonicalOpt_ite
    | with_reducible apply canonicalOpt_bind | with_reducible apply canonicalOpt_foldl
    | with_reducible apply canonicalOpt_bind_fst | with_reducible apply canonicalOpt_bind_any
    | with_reducible apply canonicalOptFst_none | with_reducible apply canonicalOptFst_some
    | with_reducible apply canonicalOptFst_map | with_reducible apply canonicalOptFst_ite
    | with_reducible apply canonicalOptFst_bind | with_reducible apply canonicalOptFst_foldl
    | with_reducible apply canonicalOptFst_bind_opt | with_reducible apply canonicalOptFst_bind_any
    | with_reducible apply canonicalOptSnd_none | with_reducible apply canonicalOptSnd_some
    | with_reducible apply canonicalOptSnd_ite)

theorem settleLathes_canonical (s : State) (p : Nat) (h_s : Canonical s) :
    Canonical (State.settleLathes s p) := by
  unfold State.settleLathes
  repeat' (first
    | intro _ | with_reducible assumption | with_reducible apply settleLathe_canonical
    | with_reducible apply canonical_ite | with_reducible refine canonical_foldl ?_ ?_
    | with_reducible refine canonical_foldl_snd ?_ ?_ | with_reducible refine canonical_foldl_fst ?_ ?_
    | simp only [canonical_mk] | split)

theorem reservePlaces_canonical (s : State) (p : Nat) (ids : List Nat) (dst : List SlotRef) (h_s : Canonical s) :
    Canonical (State.reservePlaces s p ids dst) := by
  unfold State.reservePlaces
  repeat' (first
    | intro _ | with_reducible assumption | with_reducible apply setSlot_canonical | with_reducible apply canonical_ite
    | with_reducible apply canonical_ite_fst | with_reducible apply canonical_ite_snd
    | with_reducible refine canonical_foldl ?_ ?_ | with_reducible refine canonical_foldl_snd ?_ ?_
    | with_reducible refine canonical_foldl_fst ?_ ?_ | simp only [canonical_mk] | split)

theorem releasePlaces_canonical (s : State) (p : Nat) (ids : List Nat) (dst : List SlotRef) (h_s : Canonical s) :
    Canonical (State.releasePlaces s p ids dst) := by
  unfold State.releasePlaces
  repeat' (first
    | intro _ | with_reducible assumption | with_reducible apply emptySlot_canonical
    | with_reducible apply setObj_canonical | with_reducible apply canonical_ite | with_reducible apply canonical_ite_fst
    | with_reducible apply canonical_ite_snd | with_reducible refine canonical_foldl ?_ ?_
    | with_reducible refine canonical_foldl_snd ?_ ?_ | with_reducible refine canonical_foldl_fst ?_ ?_
    | simp only [canonical_mk] | split)

theorem copyCode_canonical (s : State) (p : Nat) (k : Nat) (h_s : Canonical s) :
    Canonical (State.copyCode s p k) := by
  unfold State.copyCode
  repeat' (first
    | intro _ | with_reducible assumption | with_reducible apply setRunner_canonical
    | with_reducible apply store_canonical | with_reducible apply canonical_ite | with_reducible apply canonical_ite_fst
    | with_reducible apply canonical_ite_snd | with_reducible refine canonical_foldl ?_ ?_
    | with_reducible refine canonical_foldl_snd ?_ ?_ | with_reducible refine canonical_foldl_fst ?_ ?_
    | simp only [canonical_mk] | with_reducible refine canonicalOpt_eq (by with_reducible assumption) ?_
    | with_reducible refine canonicalOptFst_eq (by with_reducible assumption) ?_
    | with_reducible refine canonicalOptFst_eq_1 (by with_reducible assumption) ?_ | split
    | with_reducible apply canonicalOpt_none | with_reducible apply canonicalOpt_some
    | with_reducible apply canonicalOpt_map | with_reducible apply canonicalOpt_ite
    | with_reducible apply canonicalOpt_bind | with_reducible apply canonicalOpt_foldl
    | with_reducible apply canonicalOpt_bind_fst | with_reducible apply canonicalOpt_bind_any
    | with_reducible apply canonicalOptFst_none | with_reducible apply canonicalOptFst_some
    | with_reducible apply canonicalOptFst_map | with_reducible apply canonicalOptFst_ite
    | with_reducible apply canonicalOptFst_bind | with_reducible apply canonicalOptFst_foldl
    | with_reducible apply canonicalOptFst_bind_opt | with_reducible apply canonicalOptFst_bind_any
    | with_reducible apply canonicalOptSnd_none | with_reducible apply canonicalOptSnd_some
    | with_reducible apply canonicalOptSnd_ite)

theorem setGroup_canonical (s : State) (p : Nat) (i : Nat) (f : GroupRun → GroupRun) (h_s : Canonical s) :
    Canonical (State.setGroup s p i f) := by
  unfold State.setGroup
  repeat' (first
    | intro _ | with_reducible assumption | with_reducible apply setRunner_canonical | with_reducible apply canonical_ite
    | simp only [canonical_mk] | split)

theorem groupFetchIssueStep_canonical (p : Nat) (dst : List SlotRef) (s0 : State) (h_s0 : Canonical s0) :
    Canonical (groupFetchIssueStep p dst s0) := by
  unfold groupFetchIssueStep
  repeat' (first
    | intro _ | with_reducible assumption | with_reducible apply copyCode_canonical
    | with_reducible apply pinAll_canonical | with_reducible refine pinAll_canonical_eq (by with_reducible assumption) ?_
    | with_reducible apply reservePlaces_canonical | with_reducible apply setGroup_canonical
    | with_reducible apply setRunner_canonical | with_reducible apply settleLathes_canonical
    | with_reducible apply canonical_ite | simp only [canonical_mk]
    | with_reducible refine canonicalOpt_eq (by with_reducible assumption) ?_
    | with_reducible refine canonicalOptFst_eq (by with_reducible assumption) ?_
    | with_reducible refine canonicalOptFst_eq_1 (by with_reducible assumption) ?_ | split
    | with_reducible apply canonicalOpt_none | with_reducible apply canonicalOpt_some
    | with_reducible apply canonicalOpt_map | with_reducible apply canonicalOpt_ite
    | with_reducible apply canonicalOpt_bind | with_reducible apply canonicalOpt_foldl
    | with_reducible apply canonicalOpt_bind_fst | with_reducible apply canonicalOpt_bind_any
    | with_reducible apply canonicalOptFst_none | with_reducible apply canonicalOptFst_some
    | with_reducible apply canonicalOptFst_map | with_reducible apply canonicalOptFst_ite
    | with_reducible apply canonicalOptFst_bind | with_reducible apply canonicalOptFst_foldl
    | with_reducible apply canonicalOptFst_bind_opt | with_reducible apply canonicalOptFst_bind_any
    | with_reducible apply canonicalOptSnd_none | with_reducible apply canonicalOptSnd_some
    | with_reducible refine canonical_pair_eq (by with_reducible assumption) ?_ | with_reducible apply canonicalOptSnd_ite
    | with_reducible apply canonical_ite_fst)

theorem fillPlace_canonical (s : State) (p : Nat) (id : Nat) (fmt : Nat) (d : SlotRef) (bs : List Byte) (h_s : Canonical s) :
    Canonical (State.fillPlace s p id fmt d bs) := by
  unfold State.fillPlace
  repeat' (first
    | intro _ | with_reducible assumption | with_reducible apply setObj_canonical | with_reducible apply setSlot_canonical
    | with_reducible apply store_canonical | with_reducible apply canonical_ite | with_reducible apply canonical_ite_fst
    | with_reducible apply canonical_ite_snd | with_reducible refine canonical_foldl ?_ ?_
    | with_reducible refine canonical_foldl_snd ?_ ?_ | with_reducible refine canonical_foldl_fst ?_ ?_
    | simp only [canonical_mk] | split)

theorem countWait_canonical (s : State) (p : Nat) (f : State → State) (h_s : Canonical s) (h_f : ∀ (x0 : State), Canonical x0 → Canonical (f x0)) :
    Canonical (State.countWait s p f) := by
  unfold State.countWait
  repeat' (first
    | intro _ | with_reducible assumption | with_reducible apply h_f | with_reducible apply bump_canonical
    | with_reducible apply canonical_ite | simp only [canonical_mk] | split)

theorem tileFillCompleteStep_canonical (p : Nat) (grp : Nat) (tile : Nat) (dst : SlotRef) (s : State) (h_s : Canonical s) :
    Canonical (tileFillCompleteStep p grp tile dst s) := by
  unfold tileFillCompleteStep
  repeat' (first
    | intro _ | with_reducible assumption | with_reducible apply countWait_canonical
    | with_reducible apply fillPlace_canonical | with_reducible apply objContent_canonical
    | with_reducible refine objContent_canonical_eq (by with_reducible assumption) ?_
    | with_reducible apply setGroup_canonical | with_reducible apply tick_canonical | with_reducible apply canonical_ite
    | with_reducible refine canonical_getD ?_ ?_ | simp only [canonical_mk]
    | with_reducible refine canonicalOpt_eq (by with_reducible assumption) ?_
    | with_reducible refine canonicalOptFst_eq (by with_reducible assumption) ?_
    | with_reducible refine canonicalOptFst_eq_1 (by with_reducible assumption) ?_ | split
    | with_reducible apply canonicalOpt_none | with_reducible apply canonicalOpt_some
    | with_reducible apply canonicalOpt_map | with_reducible apply canonicalOpt_ite
    | with_reducible apply canonicalOpt_bind | with_reducible apply canonicalOpt_foldl
    | with_reducible apply canonicalOpt_bind_fst | with_reducible apply canonicalOpt_bind_any
    | with_reducible apply canonicalOptFst_none | with_reducible apply canonicalOptFst_some
    | with_reducible apply canonicalOptFst_map | with_reducible apply canonicalOptFst_ite
    | with_reducible apply canonicalOptFst_bind | with_reducible apply canonicalOptFst_foldl
    | with_reducible apply canonicalOptFst_bind_opt | with_reducible apply canonicalOptFst_bind_any
    | with_reducible apply canonicalOptSnd_none | with_reducible apply canonicalOptSnd_some
    | with_reducible refine canonical_pair_eq (by with_reducible assumption) ?_ | with_reducible apply canonicalOptSnd_ite
    | with_reducible apply canonical_ite_fst)

theorem checkGroup_canonical (s : State) (p : Nat) (i : Nat) (g : GroupRun) (h_s : Canonical s) :
    Canonical (State.checkGroup s p i g) := by
  unfold State.checkGroup
  repeat' (first
    | intro _ | with_reducible assumption | with_reducible apply pinAll_canonical
    | with_reducible refine pinAll_canonical_eq (by with_reducible assumption) ?_
    | with_reducible apply setGroup_canonical | with_reducible apply tick_canonical | with_reducible apply canonical_ite
    | simp only [canonical_mk] | split)

theorem runnerCheckStep_canonical (p : Nat) (s : State) (h_s : Canonical s) :
    Canonical (runnerCheckStep p s) := by
  unfold runnerCheckStep
  repeat' (first
    | intro _ | with_reducible assumption | with_reducible apply checkGroup_canonical | with_reducible apply canonical_ite
    | with_reducible apply canonical_ite_fst | with_reducible apply canonical_ite_snd
    | with_reducible refine canonical_foldl ?_ ?_ | with_reducible refine canonical_foldl_snd ?_ ?_
    | with_reducible refine canonical_foldl_fst ?_ ?_ | simp only [canonical_mk] | split)

theorem dropWork_canonical (s : State) (id : Nat) (h_s : Canonical s) :
    Canonical (State.dropWork s id) := by
  unfold State.dropWork
  repeat' (first
    | intro _ | with_reducible assumption | with_reducible apply canonical_ite | simp only [canonical_mk] | split)

theorem endCmd_canonical (s : State) (id : Nat) (status : Nat) (h_s : Canonical s) :
    Canonical (State.endCmd s id status) := by
  unfold State.endCmd
  repeat' (first
    | intro _ | with_reducible assumption | with_reducible apply dropWork_canonical
    | with_reducible apply endWith_canonical | with_reducible apply canonical_ite | simp only [canonical_mk] | split)

theorem endStepWork_canonical (s : State) (p : Nat) (status : Nat) (m : Option Model) (h_s : Canonical s) :
    Canonical (State.endStepWork s p status m) := by
  unfold State.endStepWork
  repeat' (first
    | intro _ | with_reducible assumption | with_reducible apply cutSeq_canonical | with_reducible apply endCmd_canonical
    | with_reducible apply setRunner_canonical | with_reducible apply canonical_ite
    | with_reducible apply canonical_ite_fst | with_reducible apply canonical_ite_snd
    | with_reducible refine canonical_foldl ?_ ?_ | with_reducible refine canonical_foldl_snd ?_ ?_
    | with_reducible refine canonical_foldl_fst ?_ ?_ | simp only [canonical_mk] | split)

theorem raiseFallback_canonical (s : State) (p : Nat) (i : Nat) (h_s : Canonical s) :
    Canonical (State.raiseFallback s p i) := by
  unfold State.raiseFallback
  repeat' (first
    | intro _ | with_reducible assumption | with_reducible apply setRunner_canonical
    | with_reducible apply setSeq_canonical | with_reducible apply canonical_ite | simp only [canonical_mk] | split)

theorem countFallback_canonical (s : State) (p : Nat) (layer : Nat) (h_s : Canonical s) :
    Canonical (State.countFallback s p layer) := by
  unfold State.countFallback
  repeat' (first
    | intro _ | with_reducible assumption | with_reducible apply raiseFallback_canonical
    | with_reducible apply canonical_ite | with_reducible refine canonical_foldl ?_ ?_
    | with_reducible refine canonical_foldl_snd ?_ ?_ | with_reducible refine canonical_foldl_fst ?_ ?_
    | with_reducible refine canonical_getD ?_ ?_ | simp only [canonical_mk] | split)

theorem takeUnder_canonical (s : State) (p : Nat) (i : Nat) (g : GroupRun) (m : Model) (u : TileGroup) (h_s : Canonical s) :
    CanonicalOpt (State.takeUnder s p i g m u) := by
  unfold State.takeUnder
  repeat' (first
    | intro _ | with_reducible assumption | with_reducible apply bump_canonical
    | with_reducible apply countFallback_canonical | with_reducible apply pinAll_canonical
    | with_reducible refine pinAll_canonical_eq (by with_reducible assumption) ?_
    | with_reducible apply releasePlaces_canonical | with_reducible apply reservePlaces_canonical
    | with_reducible apply setGroup_canonical | with_reducible apply setRunner_canonical
    | with_reducible apply unpinAll_canonical | with_reducible apply canonical_ite
    | with_reducible refine canonical_getD ?_ ?_ | with_reducible apply canonicalOpt_none
    | with_reducible apply canonicalOpt_some | with_reducible apply canonicalOpt_map
    | with_reducible apply canonicalOpt_ite | with_reducible apply canonicalOpt_bind
    | with_reducible apply canonicalOpt_foldl | with_reducible apply canonicalOpt_bind_fst
    | with_reducible apply canonicalOpt_bind_any | simp only [canonical_mk]
    | with_reducible refine canonicalOpt_eq (by with_reducible assumption) ?_
    | with_reducible refine canonicalOptFst_eq (by with_reducible assumption) ?_
    | with_reducible refine canonicalOptFst_eq_1 (by with_reducible assumption) ?_ | split
    | with_reducible apply canonicalOptFst_none | with_reducible apply canonicalOptFst_some
    | with_reducible apply canonicalOptFst_map | with_reducible apply canonicalOptFst_ite
    | with_reducible apply canonicalOptFst_bind | with_reducible apply canonicalOptFst_foldl
    | with_reducible apply canonicalOptFst_bind_opt | with_reducible apply canonicalOptFst_bind_any
    | with_reducible apply canonicalOptSnd_none | with_reducible apply canonicalOptSnd_some
    | with_reducible apply canonicalOptSnd_ite)

theorem takeUnder_canonical_eq {s : State} {p : Nat} {i : Nat} {g : GroupRun} {m : Model} {u : TileGroup} {t : State} (h_eq : State.takeUnder s p i g m u = some t)
    (h_s : Canonical s) : Canonical t :=
  (takeUnder_canonical s p i g m u h_s).elim t h_eq

theorem dropShadow_canonical (s : State) (p : Nat) (i : Nat) (g : GroupRun) (h_s : Canonical s) :
    Canonical (State.dropShadow s p i g) := by
  unfold State.dropShadow
  repeat' (first
    | intro _ | with_reducible assumption | with_reducible apply setGroup_canonical
    | with_reducible apply unpinAll_canonical | with_reducible apply canonical_ite | simp only [canonical_mk] | split)

theorem groupLost_canonical (s : State) (p : Nat) (i : Nat) (g : GroupRun) (m : Model) (h_s : Canonical s) :
    Canonical (State.groupLost s p i g m) := by
  unfold State.groupLost
  repeat' (first
    | intro _ | with_reducible assumption | with_reducible apply dropShadow_canonical
    | with_reducible apply endStepWork_canonical | with_reducible apply setGroup_canonical
    | with_reducible apply canonical_ite | simp only [canonical_mk] | split)

theorem groupDeadline_canonical (s : State) (p : Nat) (i : Nat) (h_s : Canonical s) :
    Canonical (State.groupDeadline s p i) := by
  unfold State.groupDeadline
  repeat' (first
    | intro _ | with_reducible assumption | with_reducible apply bump_canonical
    | with_reducible apply dropShadow_canonical | with_reducible apply groupLost_canonical
    | with_reducible apply setGroup_canonical | with_reducible apply takeUnder_canonical
    | with_reducible refine takeUnder_canonical_eq (by with_reducible assumption) ?_ | with_reducible apply canonical_ite
    | with_reducible apply canonical_ite_fst | with_reducible apply canonical_ite_snd | simp only [canonical_mk]
    | with_reducible refine canonicalOpt_eq (by with_reducible assumption) ?_
    | with_reducible refine canonicalOptFst_eq (by with_reducible assumption) ?_
    | with_reducible refine canonicalOptFst_eq_1 (by with_reducible assumption) ?_ | split
    | with_reducible apply canonicalOpt_none | with_reducible apply canonicalOpt_some
    | with_reducible apply canonicalOpt_map | with_reducible apply canonicalOpt_ite
    | with_reducible apply canonicalOpt_bind | with_reducible apply canonicalOpt_foldl
    | with_reducible apply canonicalOpt_bind_fst | with_reducible apply canonicalOpt_bind_any
    | with_reducible apply canonicalOptFst_none | with_reducible apply canonicalOptFst_some
    | with_reducible apply canonicalOptFst_map | with_reducible apply canonicalOptFst_ite
    | with_reducible apply canonicalOptFst_bind | with_reducible apply canonicalOptFst_foldl
    | with_reducible apply canonicalOptFst_bind_opt | with_reducible apply canonicalOptFst_bind_any
    | with_reducible apply canonicalOptSnd_none | with_reducible apply canonicalOptSnd_some
    | with_reducible refine canonical_pair_eq (by with_reducible assumption) ?_ | with_reducible apply canonicalOptSnd_ite
    | with_reducible apply canonical_ite_fst)

theorem maskSeq_canonical (s : State) (p : Nat) (i : Nat) (h_s : Canonical s) :
    Canonical (State.maskSeq s p i) := by
  unfold State.maskSeq
  repeat' (first
    | intro _ | with_reducible assumption | with_reducible apply setRunner_canonical | with_reducible apply canonical_ite
    | simp only [canonical_mk] | split)

theorem farDeadline_canonical (s : State) (p : Nat) (i : Nat) (h_s : Canonical s) :
    Canonical (State.farDeadline s p i) := by
  unfold State.farDeadline
  repeat' (first
    | intro _ | with_reducible assumption | with_reducible apply bump_canonical | with_reducible apply failBlock_canonical
    | with_reducible apply markKvLost_canonical | with_reducible apply maskSeq_canonical
    | with_reducible apply raiseFallback_canonical | with_reducible apply readLandmark_canonical
    | with_reducible refine readLandmark_canonical_eq (by with_reducible assumption) ?_
    | with_reducible apply setRunner_canonical | with_reducible apply canonical_ite
    | with_reducible refine canonical_getD ?_ ?_ | simp only [canonical_mk]
    | with_reducible refine canonicalOpt_eq (by with_reducible assumption) ?_
    | with_reducible refine canonicalOptFst_eq (by with_reducible assumption) ?_
    | with_reducible refine canonicalOptFst_eq_1 (by with_reducible assumption) ?_ | split
    | with_reducible apply canonicalOpt_none | with_reducible apply canonicalOpt_some
    | with_reducible apply canonicalOpt_map | with_reducible apply canonicalOpt_ite
    | with_reducible apply canonicalOpt_bind | with_reducible apply canonicalOpt_foldl
    | with_reducible apply canonicalOpt_bind_fst | with_reducible apply canonicalOpt_bind_any
    | with_reducible apply canonicalOptFst_none | with_reducible apply canonicalOptFst_some
    | with_reducible apply canonicalOptFst_map | with_reducible apply canonicalOptFst_ite
    | with_reducible apply canonicalOptFst_bind | with_reducible apply canonicalOptFst_foldl
    | with_reducible apply canonicalOptFst_bind_opt | with_reducible apply canonicalOptFst_bind_any
    | with_reducible apply canonicalOptSnd_none | with_reducible apply canonicalOptSnd_some
    | with_reducible refine canonical_pair_eq (by with_reducible assumption) ?_ | with_reducible apply canonicalOptSnd_ite
    | with_reducible apply canonical_ite_fst)

theorem endLayers_canonical (s : State) (p : Nat) (k : Nat) (h_s : Canonical s) :
    Canonical (State.endLayers s p k) := by
  unfold State.endLayers
  repeat' (first
    | intro _ | with_reducible assumption | with_reducible apply dropShadow_canonical
    | with_reducible apply setGroup_canonical | with_reducible apply setRunner_canonical
    | with_reducible apply unpin_canonical | with_reducible apply unpinAll_canonical | with_reducible apply canonical_ite
    | with_reducible apply canonical_ite_fst | with_reducible apply canonical_ite_snd
    | with_reducible refine canonical_foldl ?_ ?_ | with_reducible refine canonical_foldl_snd ?_ ?_
    | with_reducible refine canonical_foldl_fst ?_ ?_ | simp only [canonical_mk] | split)

theorem lostUnders_canonical (s : State) (p : Nat) (h_s : Canonical s) :
    Canonical (State.lostUnders s p) := by
  unfold State.lostUnders
  repeat' (first
    | intro _ | with_reducible assumption | with_reducible refine canonicalOpt_bind_any ?_
    | with_reducible apply takeUnder_canonical
    | with_reducible refine takeUnder_canonical_eq (by with_reducible assumption) ?_ | with_reducible apply canonical_ite
    | with_reducible apply canonical_ite_fst | with_reducible apply canonical_ite_snd
    | with_reducible refine canonical_foldl ?_ ?_ | with_reducible refine canonical_foldl_snd ?_ ?_
    | with_reducible refine canonical_foldl_fst ?_ ?_ | with_reducible refine canonical_getD ?_ ?_
    | simp only [canonical_mk] | split)

theorem startLayer_canonical (s : State) (p : Nat) (k : Nat) (h_s : Canonical s) :
    Canonical (State.startLayer s p k) := by
  unfold State.startLayer
  repeat' (first
    | intro _ | with_reducible assumption | with_reducible apply endLayers_canonical
    | with_reducible apply farDeadline_canonical | with_reducible apply freeEnded_canonical
    | with_reducible apply groupDeadline_canonical | with_reducible apply setRunner_canonical
    | with_reducible apply canonical_ite | with_reducible apply canonical_ite_fst | with_reducible apply canonical_ite_snd
    | with_reducible refine canonical_foldl ?_ ?_ | with_reducible refine canonical_foldl_snd ?_ ?_
    | with_reducible refine canonical_foldl_fst ?_ ?_ | simp only [canonical_mk]
    | with_reducible refine canonicalOpt_eq (by with_reducible assumption) ?_
    | with_reducible refine canonicalOptFst_eq (by with_reducible assumption) ?_
    | with_reducible refine canonicalOptFst_eq_1 (by with_reducible assumption) ?_ | split
    | with_reducible apply canonicalOpt_none | with_reducible apply canonicalOpt_some
    | with_reducible apply canonicalOpt_map | with_reducible apply canonicalOpt_ite
    | with_reducible apply canonicalOpt_bind | with_reducible apply canonicalOpt_foldl
    | with_reducible apply canonicalOpt_bind_fst | with_reducible apply canonicalOpt_bind_any
    | with_reducible apply canonicalOptFst_none | with_reducible apply canonicalOptFst_some
    | with_reducible apply canonicalOptFst_map | with_reducible apply canonicalOptFst_ite
    | with_reducible apply canonicalOptFst_bind | with_reducible apply canonicalOptFst_foldl
    | with_reducible apply canonicalOptFst_bind_opt | with_reducible apply canonicalOptFst_bind_any
    | with_reducible apply canonicalOptSnd_none | with_reducible apply canonicalOptSnd_some
    | with_reducible apply canonicalOptSnd_ite)

theorem fetchesLost_canonical (s : State) (h_s : Canonical s) :
    Canonical (State.fetchesLost s) := by
  unfold State.fetchesLost
  repeat' (first
    | intro _ | with_reducible assumption | with_reducible apply farDeadline_canonical
    | with_reducible apply groupDeadline_canonical | with_reducible apply canonical_ite
    | with_reducible apply canonical_ite_fst | with_reducible apply canonical_ite_snd
    | with_reducible refine canonical_foldl ?_ ?_ | with_reducible refine canonical_foldl_snd ?_ ?_
    | with_reducible refine canonical_foldl_fst ?_ ?_ | with_reducible refine canonical_getD ?_ ?_
    | simp only [canonical_mk] | with_reducible refine canonicalOpt_eq (by with_reducible assumption) ?_
    | with_reducible refine canonicalOptFst_eq (by with_reducible assumption) ?_
    | with_reducible refine canonicalOptFst_eq_1 (by with_reducible assumption) ?_ | split
    | with_reducible apply canonicalOpt_none | with_reducible apply canonicalOpt_some
    | with_reducible apply canonicalOpt_map | with_reducible apply canonicalOpt_ite
    | with_reducible apply canonicalOpt_bind | with_reducible apply canonicalOpt_foldl
    | with_reducible apply canonicalOpt_bind_fst | with_reducible apply canonicalOpt_bind_any
    | with_reducible apply canonicalOptFst_none | with_reducible apply canonicalOptFst_some
    | with_reducible apply canonicalOptFst_map | with_reducible apply canonicalOptFst_ite
    | with_reducible apply canonicalOptFst_bind | with_reducible apply canonicalOptFst_foldl
    | with_reducible apply canonicalOptFst_bind_opt | with_reducible apply canonicalOptFst_bind_any
    | with_reducible apply canonicalOptSnd_none | with_reducible apply canonicalOptSnd_some
    | with_reducible apply canonicalOptSnd_ite)

theorem farKvFetchCompleteStep_canonical (p : Nat) (obj : Nat) (s : State) (h_s : Canonical s) :
    Canonical (farKvFetchCompleteStep p obj s) := by
  unfold farKvFetchCompleteStep
  repeat' (first
    | intro _ | with_reducible assumption | with_reducible apply countWait_canonical
    | with_reducible apply fetchesLost_canonical | with_reducible apply markKvLost_canonical
    | with_reducible apply promote_canonical
    | with_reducible refine promote_canonical_eq (by with_reducible assumption) ?_
    | with_reducible apply setRunner_canonical | with_reducible apply canonical_ite | simp only [canonical_mk]
    | with_reducible refine canonicalOpt_eq (by with_reducible assumption) ?_
    | with_reducible refine canonicalOptFst_eq (by with_reducible assumption) ?_
    | with_reducible refine canonicalOptFst_eq_1 (by with_reducible assumption) ?_ | split
    | with_reducible apply canonicalOpt_none | with_reducible apply canonicalOpt_some
    | with_reducible apply canonicalOpt_map | with_reducible apply canonicalOpt_ite
    | with_reducible apply canonicalOpt_bind | with_reducible apply canonicalOpt_foldl
    | with_reducible apply canonicalOpt_bind_fst | with_reducible apply canonicalOpt_bind_any
    | with_reducible apply canonicalOptFst_none | with_reducible apply canonicalOptFst_some
    | with_reducible apply canonicalOptFst_map | with_reducible apply canonicalOptFst_ite
    | with_reducible apply canonicalOptFst_bind | with_reducible apply canonicalOptFst_foldl
    | with_reducible apply canonicalOptFst_bind_opt | with_reducible apply canonicalOptFst_bind_any
    | with_reducible apply canonicalOptSnd_none | with_reducible apply canonicalOptSnd_some
    | with_reducible apply canonicalOptSnd_ite)

end Sys2Proof.Machine
end

