-- ==== Sys2Proof/Laws/CanonicalScoring.lean ====
section
/-! SUPPORT. Every operation of Machine/Scoring.lean keeps the canonical forms of memory and of the registers. -/

set_option simprocs false
set_option linter.unusedTactic false
set_option linter.unusedSimpArgs false
set_option linter.unreachableTactic false

namespace Sys2Proof.Machine

theorem setFetch_canonical (s : State) (cmd : Nat) (f : Retrieval → Retrieval) (h_s : Canonical s) :
    Canonical (State.setFetch s cmd f) := by
  unfold State.setFetch
  repeat' (first
    | intro _ | with_reducible assumption | with_reducible apply canonical_ite | simp only [canonical_mk] | split)

theorem askFetch_canonical (s : State) (c : Cmd) (m : ShardMap) (shard : Nat) (y0 : Nat) (h_s : Canonical s) :
    Canonical (State.askFetch s c m shard y0) := by
  revert h_s
  fun_induction State.askFetch s c m shard y0 <;> intro h_s
  all_goals
    repeat' (first
      | intro _ | with_reducible assumption | with_reducible apply_assumption -exfalso -symm
      | with_reducible apply issue_canonical | with_reducible apply setFetch_canonical
      | with_reducible apply canonical_ite | with_reducible apply canonical_ite_fst
      | with_reducible apply canonical_ite_snd | with_reducible refine canonical_foldl ?_ ?_
      | with_reducible refine canonical_foldl_snd ?_ ?_ | with_reducible refine canonical_foldl_fst ?_ ?_
      | with_reducible refine canonical_getD ?_ ?_ | simp only [canonical_mk]
      | with_reducible refine canonicalOpt_eq (by with_reducible assumption) ?_
      | with_reducible refine canonicalOptFst_eq (by with_reducible assumption) ?_
      | with_reducible refine canonicalOptFst_eq_1 (by with_reducible assumption) ?_ | split
      | with_reducible apply canonicalOpt_none | with_reducible apply canonicalOpt_some
      | with_reducible apply canonicalOpt_map | with_reducible apply canonicalOpt_ite
      | with_reducible apply canonicalOpt_bind | with_reducible apply canonicalOpt_foldl
      | with_reducible apply canonicalOpt_bind_fst | with_reducible apply canonicalOpt_bind_any
      | with_reducible apply canonicalOptFst_none | with_reducible apply canonicalOptFst_some
      | with_reducible apply canonicalOptFst_map | with_reducible apply canonicalOptFst_ite
      | with_reducible apply canonicalOptFst_bind | with_reducible apply canonicalOptFst_foldl
      | with_reducible apply canonicalOptFst_bind_opt | with_reducible apply canonicalOptFst_bind_any
      | with_reducible apply canonicalOptSnd_none | with_reducible apply canonicalOptSnd_some
      | with_reducible apply canonicalOptSnd_ite | (simp +zetaDelta only [canonical_mk]; done)
      | simp +zetaDelta only [canonical_mk])

theorem ask_canonical (s : State) (c : Cmd) (m : ShardMap) (shard : Nat) (h_s : Canonical s) :
    Canonical (State.ask s c m shard) := by
  unfold State.ask
  repeat' (first
    | intro _ | with_reducible assumption | with_reducible apply askFetch_canonical | with_reducible apply canonical_ite
    | simp only [canonical_mk] | split)

theorem beginFetch_canonical (s : State) (c : Cmd) (h_s : Canonical s) :
    Canonical (State.beginFetch s c) := by
  unfold State.beginFetch
  repeat' (first
    | intro _ | with_reducible assumption | with_reducible apply ask_canonical | with_reducible apply setFetch_canonical
    | with_reducible apply canonical_ite | with_reducible refine canonical_foldl ?_ ?_
    | with_reducible refine canonical_foldl_snd ?_ ?_ | with_reducible refine canonical_foldl_fst ?_ ?_
    | simp only [canonical_mk] | with_reducible refine canonicalOpt_eq (by with_reducible assumption) ?_
    | with_reducible refine canonicalOptFst_eq (by with_reducible assumption) ?_
    | with_reducible refine canonicalOptFst_eq_1 (by with_reducible assumption) ?_ | split
    | with_reducible apply canonicalOpt_none | with_reducible apply canonicalOpt_some
    | with_reducible apply canonicalOpt_map | with_reducible apply canonicalOpt_ite
    | with_reducible apply canonicalOpt_bind | with_reducible apply canonicalOpt_foldl
    | with_reducible apply canonicalOpt_bind_fst | with_reducible apply canonicalOpt_bind_any
    | with_reducible apply canonicalOptFst_none | with_reducible apply canonicalOptFst_some
    | with_reducible apply canonicalOptFst_map | with_reducible apply canonicalOptFst_ite
    | with_reducible apply canonicalOptFst_bind | with_reducible apply canonicalOptFst_foldl
    | with_reducible apply canonicalOptFst_bind_opt | with_reducible apply canonicalOptFst_bind_any
    | with_reducible apply canonicalOptSnd_none | with_reducible apply canonicalOptSnd_some
    | with_reducible apply canonicalOptSnd_ite)

theorem startFetch_canonical_eq {s : State} {c : Cmd} {use index : Nat} {sharded : Bool} {gids : List Nat} {t : State}
    (h_eq : s.startFetch c use index sharded gids = .started t) (h_s : Canonical s) : Canonical t := by
  unfold State.startFetch at h_eq
  extract_lets p x? m? ids isLocal remote e at h_eq
  split at h_eq
  · cases h_eq
  · split at h_eq
    · cases h_eq
    · split at h_eq
      · cases h_eq
      · split at h_eq
        · cases h_eq
        · injection h_eq with h
          subst h
          repeat' (first
            | intro _ | with_reducible assumption | with_reducible apply beginFetch_canonical
            | with_reducible apply canonical_ite | simp +zetaDelta only [canonical_mk] | split)

theorem fetchReply_canonical (s : State) (cmd : Nat) (e : Nat) (status : Nat) (payload : List Byte) (h_s : Canonical s) :
    Canonical (State.fetchReply s cmd e status payload) := by
  unfold State.fetchReply
  repeat' (first
    | intro _ | with_reducible assumption | with_reducible apply ask_canonical | with_reducible apply setFetch_canonical
    | with_reducible apply canonical_ite | with_reducible apply canonical_ite_fst | with_reducible apply canonical_ite_snd
    | with_reducible refine canonical_foldl ?_ ?_ | with_reducible refine canonical_foldl_snd ?_ ?_
    | with_reducible refine canonical_foldl_fst ?_ ?_ | simp only [canonical_mk]
    | with_reducible refine canonicalOpt_eq (by with_reducible assumption) ?_
    | with_reducible refine canonicalOptFst_eq (by with_reducible assumption) ?_
    | with_reducible refine canonicalOptFst_eq_1 (by with_reducible assumption) ?_ | split
    | with_reducible apply canonicalOpt_none | with_reducible apply canonicalOpt_some
    | with_reducible apply canonicalOpt_map | with_reducible apply canonicalOpt_ite
    | with_reducible apply canonicalOpt_bind | with_reducible apply canonicalOpt_foldl
    | with_reducible apply canonicalOpt_bind_fst | with_reducible apply canonicalOpt_bind_any
    | with_reducible apply canonicalOptFst_none | with_reducible apply canonicalOptFst_some
    | with_reducible apply canonicalOptFst_map | with_reducible apply canonicalOptFst_ite
    | with_reducible apply canonicalOptFst_bind | with_reducible apply canonicalOptFst_foldl
    | with_reducible apply canonicalOptFst_bind_opt | with_reducible apply canonicalOptFst_bind_any
    | with_reducible apply canonicalOptSnd_none | with_reducible apply canonicalOptSnd_some
    | with_reducible apply canonicalOptSnd_ite)

theorem replyRanked_canonical (s : State) (c : Cmd) (k : Nat) (falls : Nat) (skipDel : Bool) (f : Retrieval) (l : List (Nat × F32)) (h_s : Canonical s) :
    Canonical (State.replyRanked s c k falls skipDel f l) := by
  unfold State.replyRanked
  repeat' (first
    | intro _ | with_reducible assumption | with_reducible apply dropWork_canonical
    | with_reducible apply replyData_canonical | with_reducible apply canonical_ite | simp only [canonical_mk] | split)

theorem addRun_canonical (s : State) (kind : Nat) (c : Cmd) (m : Model) (rows : Nat) (outs : Nat) (h_s : Canonical s) :
    Canonical (State.addRun s kind c m rows outs) := by
  unfold State.addRun
  repeat' (first
    | intro _ | with_reducible assumption | with_reducible apply canonical_ite | simp only [canonical_mk] | split)

theorem startPairs_canonical (s : State) (c : Cmd) (kind : Nat) (k : Pairing) (f : Retrieval) (h_s : Canonical s) :
    Canonical (State.startPairs s c kind k f) := by
  unfold State.startPairs
  repeat' (first
    | intro _ | with_reducible assumption | with_reducible apply addRun_canonical
    | with_reducible apply countAssembly_canonical | with_reducible apply endCmd_canonical
    | with_reducible apply canonical_ite | with_reducible apply canonical_ite_fst | with_reducible apply canonical_ite_snd
    | with_reducible refine canonical_foldl ?_ ?_ | with_reducible refine canonical_foldl_snd ?_ ?_
    | with_reducible refine canonical_foldl_fst ?_ ?_ | simp only [canonical_mk]
    | with_reducible refine canonicalOpt_eq (by with_reducible assumption) ?_
    | with_reducible refine canonicalOptFst_eq (by with_reducible assumption) ?_
    | with_reducible refine canonicalOptFst_eq_1 (by with_reducible assumption) ?_ | split
    | with_reducible apply canonicalOpt_none | with_reducible apply canonicalOpt_some
    | with_reducible apply canonicalOpt_map | with_reducible apply canonicalOpt_ite
    | with_reducible apply canonicalOpt_bind | with_reducible apply canonicalOpt_foldl
    | with_reducible apply canonicalOpt_bind_fst | with_reducible apply canonicalOpt_bind_any
    | with_reducible apply canonicalOptFst_none | with_reducible apply canonicalOptFst_some
    | with_reducible apply canonicalOptFst_map | with_reducible apply canonicalOptFst_ite
    | with_reducible apply canonicalOptFst_bind | with_reducible apply canonicalOptFst_foldl
    | with_reducible apply canonicalOptFst_bind_opt | with_reducible apply canonicalOptFst_bind_any
    | with_reducible apply canonicalOptSnd_none | with_reducible apply canonicalOptSnd_some
    | with_reducible apply canonicalOptSnd_ite)

theorem bodyEmbed_canonical (run : Cmd → State → State × JobEnd × Nat) (c : Cmd) (s : State) (h_run : ∀ (x0 : Cmd), ∀ (x1 : State), Canonical x1 → Canonical (run x0 x1).1) (h_s : Canonical s) :
    Canonical (bodyEmbed run c s) := by
  unfold bodyEmbed
  repeat' (first
    | intro _ | with_reducible assumption | with_reducible apply h_run | with_reducible apply addRun_canonical
    | with_reducible apply addTokenization_canonical | with_reducible apply refuse_canonical
    | with_reducible apply canonical_ite | simp only [canonical_mk]
    | with_reducible refine canonicalOpt_eq (by with_reducible assumption) ?_
    | with_reducible refine canonicalOptFst_eq (by with_reducible assumption) ?_
    | with_reducible refine canonicalOptFst_eq_1 (by with_reducible assumption) ?_ | split
    | with_reducible apply canonicalOpt_none | with_reducible apply canonicalOpt_some
    | with_reducible apply canonicalOpt_map | with_reducible apply canonicalOpt_ite
    | with_reducible apply canonicalOpt_bind | with_reducible apply canonicalOpt_foldl
    | with_reducible apply canonicalOpt_bind_fst | with_reducible apply canonicalOpt_bind_any
    | with_reducible apply canonicalOptFst_none | with_reducible apply canonicalOptFst_some
    | with_reducible apply canonicalOptFst_map | with_reducible apply canonicalOptFst_ite
    | with_reducible apply canonicalOptFst_bind | with_reducible apply canonicalOptFst_foldl
    | with_reducible apply canonicalOptFst_bind_opt | with_reducible apply canonicalOptFst_bind_any
    | with_reducible apply canonicalOptSnd_none | with_reducible apply canonicalOptSnd_some
    | with_reducible apply canonicalOptSnd_ite)

theorem embedTokenized_canonical (s : State) (c : Cmd) (r : JobEnd) (h_s : Canonical s) :
    Canonical (State.embedTokenized s c r) := by
  unfold State.embedTokenized
  repeat' (first
    | intro _ | with_reducible assumption | with_reducible apply addRun_canonical | with_reducible apply refuse_canonical
    | with_reducible apply canonical_ite | simp only [canonical_mk] | split)

theorem bodyRewardScore_canonical (c : Cmd) (s : State) (h_s : Canonical s) :
    Canonical (bodyRewardScore c s) := by
  unfold bodyRewardScore
  repeat' (first
    | intro _ | with_reducible assumption | with_reducible apply addRun_canonical | with_reducible apply refuse_canonical
    | with_reducible apply canonical_ite | simp only [canonical_mk]
    | with_reducible refine canonicalOpt_eq (by with_reducible assumption) ?_
    | with_reducible refine canonicalOptFst_eq (by with_reducible assumption) ?_
    | with_reducible refine canonicalOptFst_eq_1 (by with_reducible assumption) ?_ | split
    | with_reducible apply canonicalOpt_none | with_reducible apply canonicalOpt_some
    | with_reducible apply canonicalOpt_map | with_reducible apply canonicalOpt_ite
    | with_reducible apply canonicalOpt_bind | with_reducible apply canonicalOpt_foldl
    | with_reducible apply canonicalOpt_bind_fst | with_reducible apply canonicalOpt_bind_any
    | with_reducible apply canonicalOptFst_none | with_reducible apply canonicalOptFst_some
    | with_reducible apply canonicalOptFst_map | with_reducible apply canonicalOptFst_ite
    | with_reducible apply canonicalOptFst_bind | with_reducible apply canonicalOptFst_foldl
    | with_reducible apply canonicalOptFst_bind_opt | with_reducible apply canonicalOptFst_bind_any
    | with_reducible apply canonicalOptSnd_none | with_reducible apply canonicalOptSnd_some
    | with_reducible apply canonicalOptSnd_ite)

theorem setRag_canonical (s : State) (cmd : Nat) (f : Rag → Rag) (h_s : Canonical s) :
    Canonical (State.setRag s cmd f) := by
  unfold State.setRag
  repeat' (first
    | intro _ | with_reducible assumption | with_reducible apply canonical_ite | simp only [canonical_mk] | split)

theorem ragFail_canonical (s : State) (c : Cmd) (status : Nat) (h_s : Canonical s) :
    Canonical (State.ragFail s c status) := by
  unfold State.ragFail
  repeat' (first
    | intro _ | with_reducible assumption | with_reducible apply dropSearches_canonical
    | with_reducible apply dropWork_canonical | with_reducible apply refuse_canonical | with_reducible apply canonical_ite
    | simp only [canonical_mk] | split)

theorem bodyRagGenerate_canonical (run : Cmd → State → State × JobEnd × Nat) (c : Cmd) (s : State) (h_run : ∀ (x0 : Cmd), ∀ (x1 : State), Canonical x1 → Canonical (run x0 x1).1) (h_s : Canonical s) :
    Canonical (bodyRagGenerate run c s) := by
  unfold bodyRagGenerate
  repeat' (first
    | intro _ | with_reducible assumption | with_reducible apply h_run | with_reducible apply addTokenization_canonical
    | with_reducible apply refuse_canonical | with_reducible apply canonical_ite | simp only [canonical_mk] | split)

theorem ragTokenized_canonical (s : State) (c : Cmd) (ts : List Nat) (h_s : Canonical s) :
    Canonical (State.ragTokenized s c ts) := by
  unfold State.ragTokenized
  repeat' (first
    | intro _ | with_reducible assumption | with_reducible apply addRun_canonical | with_reducible apply ragFail_canonical
    | with_reducible apply setRag_canonical | with_reducible apply stage_canonical
    | with_reducible refine stage_canonical_eq (by with_reducible assumption) ?_ | with_reducible apply canonical_ite
    | with_reducible apply canonical_ite_fst | with_reducible apply canonical_ite_snd | simp only [canonical_mk] | split)

theorem ragNotReady_canonical (s : State) (c : Cmd) (us : Nat) (h_s : Canonical s) :
    Canonical (State.ragNotReady s c us) := by
  unfold State.ragNotReady
  repeat' (first
    | intro _ | with_reducible assumption | with_reducible apply dropSearches_canonical
    | with_reducible apply dropWork_canonical | with_reducible apply refuseHint_canonical
    | with_reducible apply canonical_ite | simp only [canonical_mk] | split)

theorem ragSearch_canonical (s : State) (c : Cmd) (r : RagParts) (vec : List Byte) (h_s : Canonical s) :
    Canonical (State.ragSearch s c r vec) := by
  unfold State.ragSearch
  repeat' (first
    | intro _ | with_reducible assumption | with_reducible apply addSearch_canonical
    | with_reducible apply ragFail_canonical | with_reducible apply ragNotReady_canonical
    | with_reducible apply setRag_canonical | with_reducible apply stage_canonical
    | with_reducible refine stage_canonical_eq (by with_reducible assumption) ?_
    | with_reducible apply startCoord_canonical | with_reducible apply take_canonical
    | with_reducible apply tick_canonical | with_reducible apply canonical_ite | simp only [canonical_mk] | split)

theorem ragAdmit_canonical (s : State) (c : Cmd) (r : RagParts) (g : Rag) (cands : List Cand) (h_s : Canonical s) :
    Canonical (State.ragAdmit s c r g cands) := by
  unfold State.ragAdmit
  repeat' (first
    | intro _ | with_reducible assumption | with_reducible apply count_canonical
    | with_reducible apply countAssembly_canonical | with_reducible apply dropCmd_canonical
    | with_reducible apply dropWork_canonical | with_reducible apply takeIn_canonical | with_reducible apply canonical_ite
    | with_reducible apply canonical_ite_fst | with_reducible apply canonical_ite_snd | simp only [canonical_mk]
    | with_reducible refine canonicalOpt_eq (by with_reducible assumption) ?_
    | with_reducible refine canonicalOptFst_eq (by with_reducible assumption) ?_
    | with_reducible refine canonicalOptFst_eq_1 (by with_reducible assumption) ?_ | split
    | with_reducible apply canonicalOpt_none | with_reducible apply canonicalOpt_some
    | with_reducible apply canonicalOpt_map | with_reducible apply canonicalOpt_ite
    | with_reducible apply canonicalOpt_bind | with_reducible apply canonicalOpt_foldl
    | with_reducible apply canonicalOpt_bind_fst | with_reducible apply canonicalOpt_bind_any
    | with_reducible apply canonicalOptFst_none | with_reducible apply canonicalOptFst_some
    | with_reducible apply canonicalOptFst_map | with_reducible apply canonicalOptFst_ite
    | with_reducible apply canonicalOptFst_bind | with_reducible apply canonicalOptFst_foldl
    | with_reducible apply canonicalOptFst_bind_opt | with_reducible apply canonicalOptFst_bind_any
    | with_reducible apply canonicalOptSnd_none | with_reducible apply canonicalOptSnd_some
    | with_reducible apply canonicalOptSnd_ite)

theorem ragPassages_canonical (s : State) (c : Cmd) (r : RagParts) (g : Rag) (h_s : Canonical s) :
    Canonical (State.ragPassages s c r g) := by
  unfold State.ragPassages
  repeat' (first
    | intro _ | with_reducible assumption | with_reducible apply ragAdmit_canonical
    | with_reducible apply ragFail_canonical | with_reducible apply take_canonical
    | with_reducible refine startFetch_canonical_eq (by with_reducible assumption) ?_ | with_reducible apply canonical_ite
    | with_reducible apply canonical_ite_fst | with_reducible apply canonical_ite_snd | simp only [canonical_mk]
    | with_reducible refine canonicalOpt_eq (by with_reducible assumption) ?_
    | with_reducible refine canonicalOptFst_eq (by with_reducible assumption) ?_
    | with_reducible refine canonicalOptFst_eq_1 (by with_reducible assumption) ?_ | split
    | with_reducible apply canonicalOpt_none | with_reducible apply canonicalOpt_some
    | with_reducible apply canonicalOpt_map | with_reducible apply canonicalOpt_ite
    | with_reducible apply canonicalOpt_bind | with_reducible apply canonicalOpt_foldl
    | with_reducible apply canonicalOpt_bind_fst | with_reducible apply canonicalOpt_bind_any
    | with_reducible apply canonicalOptFst_none | with_reducible apply canonicalOptFst_some
    | with_reducible apply canonicalOptFst_map | with_reducible apply canonicalOptFst_ite
    | with_reducible apply canonicalOptFst_bind | with_reducible apply canonicalOptFst_foldl
    | with_reducible apply canonicalOptFst_bind_opt | with_reducible apply canonicalOptFst_bind_any
    | with_reducible apply canonicalOptSnd_none | with_reducible apply canonicalOptSnd_some
    | with_reducible apply canonicalOptSnd_ite)

theorem ragLeaders_canonical (s : State) (c : Cmd) (r : RagParts) (g : Rag) (h_s : Canonical s) :
    Canonical (State.ragLeaders s c r g) := by
  unfold State.ragLeaders
  repeat' (first
    | intro _ | with_reducible assumption | with_reducible apply ragFail_canonical
    | with_reducible apply ragPassages_canonical | with_reducible apply setRag_canonical
    | with_reducible refine startFetch_canonical_eq (by with_reducible assumption) ?_ | with_reducible apply canonical_ite
    | with_reducible apply canonical_ite_fst | with_reducible apply canonical_ite_snd | simp only [canonical_mk]
    | with_reducible refine canonicalOpt_eq (by with_reducible assumption) ?_
    | with_reducible refine canonicalOptFst_eq (by with_reducible assumption) ?_
    | with_reducible refine canonicalOptFst_eq_1 (by with_reducible assumption) ?_ | split
    | with_reducible apply canonicalOpt_none | with_reducible apply canonicalOpt_some
    | with_reducible apply canonicalOpt_map | with_reducible apply canonicalOpt_ite
    | with_reducible apply canonicalOpt_bind | with_reducible apply canonicalOpt_foldl
    | with_reducible apply canonicalOpt_bind_fst | with_reducible apply canonicalOpt_bind_any
    | with_reducible apply canonicalOptFst_none | with_reducible apply canonicalOptFst_some
    | with_reducible apply canonicalOptFst_map | with_reducible apply canonicalOptFst_ite
    | with_reducible apply canonicalOptFst_bind | with_reducible apply canonicalOptFst_foldl
    | with_reducible apply canonicalOptFst_bind_opt | with_reducible apply canonicalOptFst_bind_any
    | with_reducible apply canonicalOptSnd_none | with_reducible apply canonicalOptSnd_some
    | with_reducible apply canonicalOptSnd_ite)

theorem ragSearched_canonical (s : State) (c : Cmd) (r : QueryEnd) (coverage : Nat) (h_s : Canonical s) :
    Canonical (State.ragSearched s c r coverage) := by
  unfold State.ragSearched
  repeat' (first
    | intro _ | with_reducible assumption | with_reducible apply countSearches_canonical
    | with_reducible apply dropWork_canonical | with_reducible apply ragFail_canonical
    | with_reducible apply ragLeaders_canonical | with_reducible apply ragNotReady_canonical
    | with_reducible apply stage_canonical | with_reducible refine stage_canonical_eq (by with_reducible assumption) ?_
    | with_reducible apply canonical_ite | simp only [canonical_mk] | split)

theorem rescoreDone_canonical (s : State) (c : Cmd) (f : Retrieval) (h_s : Canonical s) :
    Canonical (State.rescoreDone s c f) := by
  unfold State.rescoreDone
  repeat' (first
    | intro _ | with_reducible assumption | with_reducible apply countSel_canonical
    | with_reducible apply endCmd_canonical | with_reducible apply replyRanked_canonical
    | with_reducible apply spillEntries_canonical | with_reducible apply canonical_ite
    | with_reducible apply canonical_ite_fst | with_reducible apply canonical_ite_snd | simp only [canonical_mk]
    | with_reducible refine canonicalOpt_eq (by with_reducible assumption) ?_
    | with_reducible refine canonicalOptFst_eq (by with_reducible assumption) ?_
    | with_reducible refine canonicalOptFst_eq_1 (by with_reducible assumption) ?_ | split
    | with_reducible apply canonicalOpt_none | with_reducible apply canonicalOpt_some
    | with_reducible apply canonicalOpt_map | with_reducible apply canonicalOpt_ite
    | with_reducible apply canonicalOpt_bind | with_reducible apply canonicalOpt_foldl
    | with_reducible apply canonicalOpt_bind_fst | with_reducible apply canonicalOpt_bind_any
    | with_reducible apply canonicalOptFst_none | with_reducible apply canonicalOptFst_some
    | with_reducible apply canonicalOptFst_map | with_reducible apply canonicalOptFst_ite
    | with_reducible apply canonicalOptFst_bind | with_reducible apply canonicalOptFst_foldl
    | with_reducible apply canonicalOptFst_bind_opt | with_reducible apply canonicalOptFst_bind_any
    | with_reducible apply canonicalOptSnd_none | with_reducible apply canonicalOptSnd_some
    | with_reducible apply canonicalOptSnd_ite)

theorem ragFetched_canonical (s : State) (c : Cmd) (f : Retrieval) (h_s : Canonical s) :
    Canonical (State.ragFetched s c f) := by
  unfold State.ragFetched
  repeat' (first
    | intro _ | with_reducible assumption | with_reducible apply countSel_canonical
    | with_reducible apply dropWork_canonical | with_reducible apply ragAdmit_canonical
    | with_reducible apply ragFail_canonical | with_reducible apply ragPassages_canonical
    | with_reducible apply setRag_canonical | with_reducible apply stage_canonical
    | with_reducible refine stage_canonical_eq (by with_reducible assumption) ?_
    | with_reducible apply startPairs_canonical | with_reducible apply canonical_ite
    | with_reducible apply canonical_ite_fst | with_reducible apply canonical_ite_snd | simp only [canonical_mk]
    | with_reducible refine canonicalOpt_eq (by with_reducible assumption) ?_
    | with_reducible refine canonicalOptFst_eq (by with_reducible assumption) ?_
    | with_reducible refine canonicalOptFst_eq_1 (by with_reducible assumption) ?_ | split
    | with_reducible apply canonicalOpt_none | with_reducible apply canonicalOpt_some
    | with_reducible apply canonicalOpt_map | with_reducible apply canonicalOpt_ite
    | with_reducible apply canonicalOpt_bind | with_reducible apply canonicalOpt_foldl
    | with_reducible apply canonicalOpt_bind_fst | with_reducible apply canonicalOpt_bind_any
    | with_reducible apply canonicalOptFst_none | with_reducible apply canonicalOptFst_some
    | with_reducible apply canonicalOptFst_map | with_reducible apply canonicalOptFst_ite
    | with_reducible apply canonicalOptFst_bind | with_reducible apply canonicalOptFst_foldl
    | with_reducible apply canonicalOptFst_bind_opt | with_reducible apply canonicalOptFst_bind_any
    | with_reducible apply canonicalOptSnd_none | with_reducible apply canonicalOptSnd_some
    | with_reducible apply canonicalOptSnd_ite)

theorem fetchDone_canonical (s : State) (cmd : Nat) (h_s : Canonical s) :
    Canonical (State.fetchDone s cmd) := by
  unfold State.fetchDone
  repeat' (first
    | intro _ | with_reducible assumption | with_reducible apply countAssembly_canonical
    | with_reducible apply ragFetched_canonical | with_reducible apply replyRanked_canonical
    | with_reducible apply rescoreDone_canonical | with_reducible apply startPairs_canonical
    | with_reducible apply canonical_ite | with_reducible apply canonical_ite_fst | with_reducible apply canonical_ite_snd
    | with_reducible refine canonical_foldl ?_ ?_ | with_reducible refine canonical_foldl_snd ?_ ?_
    | with_reducible refine canonical_foldl_fst ?_ ?_ | simp only [canonical_mk] | split)

theorem fetchArrived_canonical (s : State) (cmd : Nat) (e : Nat) (status : Nat) (payload : List Byte) (h_s : Canonical s) :
    Canonical (State.fetchArrived s cmd e status payload) := by
  unfold State.fetchArrived
  repeat' (first
    | intro _ | with_reducible assumption | with_reducible apply fetchDone_canonical
    | with_reducible apply fetchReply_canonical | with_reducible apply canonical_ite | simp only [canonical_mk] | split)

theorem fetchBudgetEndStep_canonical (cmd : Nat) (s : State) (h_s : Canonical s) :
    Canonical (fetchBudgetEndStep cmd s) := by
  unfold fetchBudgetEndStep
  repeat' (first
    | intro _ | with_reducible assumption | with_reducible apply fetchDone_canonical
    | with_reducible apply setFetch_canonical | with_reducible apply canonical_ite | simp only [canonical_mk]
    | with_reducible refine canonicalOpt_eq (by with_reducible assumption) ?_
    | with_reducible refine canonicalOptFst_eq (by with_reducible assumption) ?_
    | with_reducible refine canonicalOptFst_eq_1 (by with_reducible assumption) ?_ | split
    | with_reducible apply canonicalOpt_none | with_reducible apply canonicalOpt_some
    | with_reducible apply canonicalOpt_map | with_reducible apply canonicalOpt_ite
    | with_reducible apply canonicalOpt_bind | with_reducible apply canonicalOpt_foldl
    | with_reducible apply canonicalOpt_bind_fst | with_reducible apply canonicalOpt_bind_any
    | with_reducible apply canonicalOptFst_none | with_reducible apply canonicalOptFst_some
    | with_reducible apply canonicalOptFst_map | with_reducible apply canonicalOptFst_ite
    | with_reducible apply canonicalOptFst_bind | with_reducible apply canonicalOptFst_foldl
    | with_reducible apply canonicalOptFst_bind_opt | with_reducible apply canonicalOptFst_bind_any
    | with_reducible apply canonicalOptSnd_none | with_reducible apply canonicalOptSnd_some
    | with_reducible apply canonicalOptSnd_ite)

theorem blkResume_canonical (s : State) (h_s : Canonical s) :
    Canonical (State.blkResume s) := by
  unfold State.blkResume
  repeat' (first
    | intro _ | with_reducible assumption | with_reducible apply beginFetch_canonical
    | with_reducible apply fetchDone_canonical | with_reducible apply canonical_ite
    | with_reducible refine canonical_foldl ?_ ?_ | with_reducible refine canonical_foldl_snd ?_ ?_
    | with_reducible refine canonical_foldl_fst ?_ ?_ | simp only [canonical_mk]
    | with_reducible refine canonicalOpt_eq (by with_reducible assumption) ?_
    | with_reducible refine canonicalOptFst_eq (by with_reducible assumption) ?_
    | with_reducible refine canonicalOptFst_eq_1 (by with_reducible assumption) ?_ | split
    | with_reducible apply canonicalOpt_none | with_reducible apply canonicalOpt_some
    | with_reducible apply canonicalOpt_map | with_reducible apply canonicalOpt_ite
    | with_reducible apply canonicalOpt_bind | with_reducible apply canonicalOpt_foldl
    | with_reducible apply canonicalOpt_bind_fst | with_reducible apply canonicalOpt_bind_any
    | with_reducible apply canonicalOptFst_none | with_reducible apply canonicalOptFst_some
    | with_reducible apply canonicalOptFst_map | with_reducible apply canonicalOptFst_ite
    | with_reducible apply canonicalOptFst_bind | with_reducible apply canonicalOptFst_foldl
    | with_reducible apply canonicalOptFst_bind_opt | with_reducible apply canonicalOptFst_bind_any
    | with_reducible apply canonicalOptSnd_none | with_reducible apply canonicalOptSnd_some
    | with_reducible apply canonicalOptSnd_ite)

theorem bodyRescore_canonical (c : Cmd) (s : State) (h_s : Canonical s) :
    Canonical (bodyRescore c s) := by
  unfold bodyRescore
  repeat' (first
    | intro _ | with_reducible assumption | with_reducible apply event_canonical
    | with_reducible apply fetchDone_canonical | with_reducible apply refuse_canonical
    | with_reducible refine startFetch_canonical_eq (by with_reducible assumption) ?_ | with_reducible apply canonical_ite
    | with_reducible apply canonical_ite_fst | with_reducible apply canonical_ite_snd | simp only [canonical_mk] | split)

theorem bodyRerank_canonical (c : Cmd) (s : State) (h_s : Canonical s) :
    Canonical (bodyRerank c s) := by
  unfold bodyRerank
  repeat' (first
    | intro _ | with_reducible assumption | with_reducible apply fetchDone_canonical
    | with_reducible apply refuse_canonical
    | with_reducible refine startFetch_canonical_eq (by with_reducible assumption) ?_ | with_reducible apply canonical_ite
    | simp only [canonical_mk] | split)

theorem scoreRunDone_canonical (s : State) (c : Cmd) (j : ModelJob) (n : Nat) (falls : Nat) (h_s : Canonical s) :
    Canonical (State.scoreRunDone s c j n falls) := by
  unfold State.scoreRunDone
  repeat' (first
    | intro _ | with_reducible assumption | with_reducible apply countSel_canonical
    | with_reducible apply dropWork_canonical | with_reducible apply ragAdmit_canonical
    | with_reducible apply ragFail_canonical | with_reducible apply ragSearch_canonical
    | with_reducible apply reply_canonical | with_reducible apply replyData_canonical
    | with_reducible apply replyRanked_canonical | with_reducible apply setRag_canonical
    | with_reducible apply canonical_ite | with_reducible apply canonical_ite_fst | with_reducible apply canonical_ite_snd
    | with_reducible refine canonical_getD ?_ ?_ | simp only [canonical_mk]
    | with_reducible refine canonicalOpt_eq (by with_reducible assumption) ?_
    | with_reducible refine canonicalOptFst_eq (by with_reducible assumption) ?_
    | with_reducible refine canonicalOptFst_eq_1 (by with_reducible assumption) ?_ | split
    | with_reducible apply canonicalOpt_none | with_reducible apply canonicalOpt_some
    | with_reducible apply canonicalOpt_map | with_reducible apply canonicalOpt_ite
    | with_reducible apply canonicalOpt_bind | with_reducible apply canonicalOpt_foldl
    | with_reducible apply canonicalOpt_bind_fst | with_reducible apply canonicalOpt_bind_any
    | with_reducible apply canonicalOptFst_none | with_reducible apply canonicalOptFst_some
    | with_reducible apply canonicalOptFst_map | with_reducible apply canonicalOptFst_ite
    | with_reducible apply canonicalOptFst_bind | with_reducible apply canonicalOptFst_foldl
    | with_reducible apply canonicalOptFst_bind_opt | with_reducible apply canonicalOptFst_bind_any
    | with_reducible apply canonicalOptSnd_none | with_reducible apply canonicalOptSnd_some
    | with_reducible apply canonicalOptSnd_ite)

theorem runTok_canonical (c : Cmd) (s : State) (h_s : Canonical s) :
    Canonical (runTok c s).1 := by
  unfold runTok
  repeat' (first
    | intro _ | with_reducible assumption | with_reducible apply runTexts_canonical
    | with_reducible refine runTexts_canonical_eq (by with_reducible assumption) ?_ | with_reducible apply canonical_ite
    | with_reducible apply canonical_ite_fst | with_reducible apply canonical_ite_snd | simp only [canonical_mk]
    | with_reducible refine canonicalOpt_eq (by with_reducible assumption) ?_
    | with_reducible refine canonicalOptFst_eq (by with_reducible assumption) ?_
    | with_reducible refine canonicalOptFst_eq_1 (by with_reducible assumption) ?_ | split
    | with_reducible apply canonicalOpt_none | with_reducible apply canonicalOpt_some
    | with_reducible apply canonicalOpt_map | with_reducible apply canonicalOpt_ite
    | with_reducible apply canonicalOpt_bind | with_reducible apply canonicalOpt_foldl
    | with_reducible apply canonicalOpt_bind_fst | with_reducible apply canonicalOpt_bind_any
    | with_reducible apply canonicalOptFst_none | with_reducible apply canonicalOptFst_some
    | with_reducible apply canonicalOptFst_map | with_reducible apply canonicalOptFst_ite
    | with_reducible apply canonicalOptFst_bind | with_reducible apply canonicalOptFst_foldl
    | with_reducible apply canonicalOptFst_bind_opt | with_reducible apply canonicalOptFst_bind_any
    | with_reducible apply canonicalOptSnd_none | with_reducible apply canonicalOptSnd_some
    | with_reducible apply canonicalOptSnd_ite)

theorem runTok_canonical_eq {c : Cmd} {s : State} {t_ a1_ a2_} (h_eq : runTok c s = (t_, a1_, a2_))
    (h_s : Canonical s) : Canonical t_ := by
  have h_p := runTok_canonical c s h_s
  rw [h_eq] at h_p; exact h_p

theorem tokFail_canonical (c : Cmd) (status : Nat) (s : State) (h_s : Canonical s) :
    Canonical (tokFail c status s) := by
  unfold tokFail
  repeat' (first
    | intro _ | with_reducible assumption | with_reducible apply endCmd_canonical | with_reducible apply ragFail_canonical
    | with_reducible apply canonical_ite | simp only [canonical_mk] | split)

theorem finishTokenization_canonical (s : State) (j : UnitJob) (h_s : Canonical s) :
    Canonical (State.finishTokenization s j) := by
  unfold State.finishTokenization
  repeat' (first
    | intro _ | with_reducible assumption | with_reducible apply countTok_canonical
    | with_reducible apply dropJob_canonical | with_reducible apply embedTokenized_canonical
    | with_reducible apply ragTokenized_canonical | with_reducible apply replyData_canonical
    | with_reducible apply report_canonical | with_reducible apply reportVocab_canonical
    | with_reducible apply tokFail_canonical | with_reducible apply canonical_ite | simp only [canonical_mk] | split)

theorem finishJobs_canonical (s : State) (h_s : Canonical s) :
    Canonical (State.finishJobs s) := by
  unfold State.finishJobs
  repeat' (first
    | intro _ | with_reducible assumption | with_reducible apply finishSelection_canonical
    | with_reducible apply finishTokenization_canonical | with_reducible apply canonical_ite
    | with_reducible refine canonical_foldl ?_ ?_ | with_reducible refine canonical_foldl_snd ?_ ?_
    | with_reducible refine canonical_foldl_fst ?_ ?_ | simp only [canonical_mk] | split)

theorem searchDone_canonical (cmd : Nat) (s : State) (h_s : Canonical s) :
    Canonical (searchDone cmd s) := by
  unfold searchDone
  repeat' (first
    | intro _ | with_reducible assumption | with_reducible apply dropSearches_canonical
    | with_reducible apply feedLocal_canonical | with_reducible apply fetchDone_canonical
    | with_reducible apply ragSearched_canonical | with_reducible apply searchCmdDone_canonical
    | with_reducible apply canonical_ite | simp only [canonical_mk] | split)

end Sys2Proof.Machine
end

