-- ==== Sys2Proof/Laws/CanonicalLathe.lean ====
section
/-! SUPPORT. Every operation of Machine/Lathe.lean keeps the canonical forms of memory and of the registers. -/

set_option simprocs false
set_option linter.unusedTactic false
set_option linter.unusedSimpArgs false
set_option linter.unreachableTactic false

namespace Sys2Proof.Machine

theorem lthLogPut_canonical (s : State) (kind : Nat) (n : Nat) (part : Nat) (slot : Nat) (addr : Nat) (h_s : Canonical s) :
    Canonical (State.lthLogPut s kind n part slot addr) := by
  unfold State.lthLogPut
  repeat' (first
    | intro _ | with_reducible assumption | with_reducible apply canonical_ite | simp only [canonical_mk] | split)

theorem abortLathe_canonical (s : State) (n : Nat) (h_s : Canonical s) :
    Canonical (State.abortLathe s n) := by
  unfold State.abortLathe
  repeat' (first
    | intro _ | with_reducible assumption | with_reducible apply emptySlot_canonical
    | with_reducible apply setLathe_canonical | with_reducible apply setRunning_canonical
    | with_reducible apply canonical_ite | with_reducible apply canonical_ite_fst | with_reducible apply canonical_ite_snd
    | with_reducible refine canonical_foldl ?_ ?_ | with_reducible refine canonical_foldl_snd ?_ ?_
    | with_reducible refine canonical_foldl_fst ?_ ?_ | simp only [canonical_mk]
    | with_reducible refine canonicalOpt_eq (by with_reducible assumption) ?_
    | with_reducible refine canonicalOptFst_eq (by with_reducible assumption) ?_
    | with_reducible refine canonicalOptFst_eq_1 (by with_reducible assumption) ?_ | split
    | with_reducible apply canonicalOpt_none | with_reducible apply canonicalOpt_some
    | with_reducible apply canonicalOpt_map | with_reducible apply canonicalOpt_ite
    | with_reducible apply canonicalOpt_bind | with_reducible apply canonicalOpt_foldl
    | with_reducible apply canonicalOpt_bind_fst | with_reducible apply canonicalOpt_bind_any
    | with_reducible apply canonicalOptFst_none | with_reducible apply canonicalOptFst_some
    | with_reducible apply canonicalOptFst_map | with_reducible apply canonicalOptFst_ite
    | with_reducible apply canonicalOptFst_bind | with_reducible apply canonicalOptFst_foldl
    | with_reducible apply canonicalOptFst_bind_opt | with_reducible apply canonicalOptFst_bind_any
    | with_reducible apply canonicalOptSnd_none | with_reducible apply canonicalOptSnd_some
    | with_reducible apply canonicalOptSnd_ite)

theorem abortKernels_canonical (s : State) (p : Nat) (c : Nat) (h_s : Canonical s) :
    Canonical (State.abortKernels s p c) := by
  unfold State.abortKernels
  repeat' (first
    | intro _ | with_reducible assumption | with_reducible apply abortLathe_canonical
    | with_reducible apply endLayers_canonical | with_reducible apply setRunner_canonical
    | with_reducible apply canonical_ite | with_reducible refine canonical_foldl ?_ ?_
    | with_reducible refine canonical_foldl_snd ?_ ?_ | with_reducible refine canonical_foldl_fst ?_ ?_
    | simp only [canonical_mk] | split)

theorem failStep_canonical (s : State) (p : Nat) (status : Nat) (h_s : Canonical s) :
    Canonical (State.failStep s p status) := by
  unfold State.failStep
  repeat' (first
    | intro _ | with_reducible assumption | with_reducible apply abortKernels_canonical
    | with_reducible apply endStepWork_canonical | with_reducible apply freeEnded_canonical
    | with_reducible apply setRunner_canonical | with_reducible apply canonical_ite | simp only [canonical_mk] | split)

theorem illegal_canonical (s : State) (n : Nat) (h_s : Canonical s) :
    Canonical (State.illegal s n) := by
  unfold State.illegal
  repeat' (first
    | intro _ | with_reducible assumption | with_reducible apply abortLathe_canonical
    | with_reducible apply event_canonical | with_reducible apply failStep_canonical
    | with_reducible apply lthLogPut_canonical | with_reducible apply canonical_ite | simp only [canonical_mk] | split)

theorem askWake_canonical (s : State) (u : WakeUnit) (h_s : Canonical s) :
    Canonical (State.askWake s u) := by
  unfold State.askWake
  repeat' (first
    | intro _ | with_reducible assumption | with_reducible apply canonical_ite | simp only [canonical_mk] | split)

theorem askLathe_canonical (s : State) (n : Nat) (h_s : Canonical s) :
    Canonical (State.askLathe s n) := by
  unfold State.askLathe
  repeat' (first
    | intro _ | with_reducible assumption | with_reducible apply askWake_canonical | with_reducible apply canonical_ite
    | simp only [canonical_mk] | split)

theorem kernelStartStep_canonical (p : Nat) (n : Nat) (s0 : State) (h_s0 : Canonical s0) :
    Canonical (kernelStartStep p n s0) := by
  unfold kernelStartStep
  repeat' (first
    | intro _ | with_reducible assumption | with_reducible apply askLathe_canonical
    | with_reducible apply copyCode_canonical | with_reducible apply setLathe_canonical
    | with_reducible apply setRunning_canonical | with_reducible apply settleLathe_canonical
    | with_reducible apply canonical_ite | with_reducible apply canonical_ite_fst | with_reducible apply canonical_ite_snd
    | with_reducible refine canonical_getD ?_ ?_ | simp only [canonical_mk] | split)

theorem latheIdleGateStep_canonical (n : Nat) (s : State) (h_s : Canonical s) :
    Canonical (latheIdleGateStep n s) := by
  unfold latheIdleGateStep
  repeat' (first
    | intro _ | with_reducible assumption | with_reducible apply setFld_canonical | with_reducible apply canonical_ite
    | simp only [canonical_mk] | split)

theorem grantWake_canonical (s : State) (w : WakeReq) (h_s : Canonical s) :
    Canonical (State.grantWake s w) := by
  unfold State.grantWake
  repeat' (first
    | intro _ | with_reducible assumption | with_reducible apply bump_canonical | with_reducible apply setFld_canonical
    | with_reducible apply setLathe_canonical | with_reducible apply take_canonical | with_reducible apply canonical_ite
    | with_reducible apply canonical_ite_fst | with_reducible apply canonical_ite_snd | simp only [canonical_mk] | split)

theorem wakeGrantStep_canonical (s : State) (h_s : Canonical s) :
    Canonical (wakeGrantStep s) := by
  unfold wakeGrantStep
  repeat' (first
    | intro _ | with_reducible assumption | with_reducible apply grantWake_canonical | with_reducible apply canonical_ite
    | simp only [canonical_mk] | with_reducible refine canonicalOpt_eq (by with_reducible assumption) ?_
    | with_reducible refine canonicalOptFst_eq (by with_reducible assumption) ?_
    | with_reducible refine canonicalOptFst_eq_1 (by with_reducible assumption) ?_ | split
    | with_reducible apply canonicalOpt_none | with_reducible apply canonicalOpt_some
    | with_reducible apply canonicalOpt_map | with_reducible apply canonicalOpt_ite
    | with_reducible apply canonicalOpt_bind | with_reducible apply canonicalOpt_foldl
    | with_reducible apply canonicalOpt_bind_fst | with_reducible apply canonicalOpt_bind_any
    | with_reducible apply canonicalOptFst_none | with_reducible apply canonicalOptFst_some
    | with_reducible apply canonicalOptFst_map | with_reducible apply canonicalOptFst_ite
    | with_reducible apply canonicalOptFst_bind | with_reducible apply canonicalOptFst_foldl
    | with_reducible apply canonicalOptFst_bind_opt | with_reducible apply canonicalOptFst_bind_any
    | with_reducible apply canonicalOptSnd_none | with_reducible apply canonicalOptSnd_some
    | with_reducible apply canonicalOptSnd_ite)

theorem instr_canonical (s0 : State) (n : Nat) (w : BitVec 128) (ok : State → Bool) (stuck : State → Option Nat) (effect : State → State) (h_s0 : Canonical s0) (h_effect : ∀ (x0 : State), Canonical x0 → Canonical (effect x0)) :
    Canonical (State.instr s0 n w ok stuck effect) := by
  unfold State.instr
  repeat' (first
    | intro _ | with_reducible assumption | with_reducible apply h_effect | with_reducible apply illegal_canonical
    | with_reducible apply setLathe_canonical | with_reducible apply settleLathe_canonical
    | with_reducible apply canonical_ite | with_reducible apply canonical_ite_fst | with_reducible apply canonical_ite_snd
    | with_reducible refine canonical_getD ?_ ?_ | simp only [canonical_mk]
    | with_reducible refine canonicalOpt_eq (by with_reducible assumption) ?_
    | with_reducible refine canonicalOptFst_eq (by with_reducible assumption) ?_
    | with_reducible refine canonicalOptFst_eq_1 (by with_reducible assumption) ?_ | split
    | with_reducible apply canonicalOpt_none | with_reducible apply canonicalOpt_some
    | with_reducible apply canonicalOpt_map | with_reducible apply canonicalOpt_ite
    | with_reducible apply canonicalOpt_bind | with_reducible apply canonicalOpt_foldl
    | with_reducible apply canonicalOpt_bind_fst | with_reducible apply canonicalOpt_bind_any
    | with_reducible apply canonicalOptFst_none | with_reducible apply canonicalOptFst_some
    | with_reducible apply canonicalOptFst_map | with_reducible apply canonicalOptFst_ite
    | with_reducible apply canonicalOptFst_bind | with_reducible apply canonicalOptFst_foldl
    | with_reducible apply canonicalOptFst_bind_opt | with_reducible apply canonicalOptFst_bind_any
    | with_reducible apply canonicalOptSnd_none | with_reducible apply canonicalOptSnd_some
    | with_reducible apply canonicalOptSnd_ite)

theorem instrOfLayer_canonical (s : State) (n : Nat) (w : BitVec 128) (ok : State → Bool) (stuck : State → Option Nat) (effect : State → State) (h_s : Canonical s) (h_effect : ∀ (x0 : State), Canonical x0 → Canonical (effect x0)) :
    Canonical (State.instrOfLayer s n w ok stuck effect) := by
  unfold State.instrOfLayer
  repeat' (first
    | intro _ | with_reducible assumption | with_reducible apply h_effect | with_reducible apply instr_canonical
    | with_reducible apply setLathe_canonical | with_reducible apply canonical_ite
    | with_reducible refine canonical_getD ?_ ?_ | simp only [canonical_mk] | split)

theorem nopStep_canonical (n : Nat) (w : BitVec 128) (s : State) (h_s : Canonical s) :
    Canonical (nopStep n w s) := by
  unfold nopStep
  repeat' (first
    | intro _ | with_reducible assumption | with_reducible apply instr_canonical | with_reducible apply canonical_ite
    | simp only [canonical_mk] | split)

theorem endStep_canonical (n : Nat) (w : BitVec 128) (s : State) (h_s : Canonical s) :
    Canonical (endStep n w s) := by
  unfold endStep
  repeat' (first
    | intro _ | with_reducible assumption | with_reducible apply instr_canonical | with_reducible apply setLathe_canonical
    | with_reducible apply setRunning_canonical | with_reducible apply canonical_ite | simp only [canonical_mk] | split)

theorem fenceStep_canonical (n : Nat) (w : BitVec 128) (s : State) (h_s : Canonical s) :
    Canonical (fenceStep n w s) := by
  unfold fenceStep
  repeat' (first
    | intro _ | with_reducible assumption | with_reducible apply instr_canonical | with_reducible apply canonical_ite
    | simp only [canonical_mk] | split)

theorem releaseStep_canonical (n : Nat) (w : BitVec 128) (s : State) (h_s : Canonical s) :
    Canonical (releaseStep n w s) := by
  unfold releaseStep
  repeat' (first
    | intro _ | with_reducible assumption | with_reducible apply count_canonical | with_reducible apply instr_canonical
    | with_reducible apply release_canonical | with_reducible apply setSlot_canonical
    | with_reducible apply settleLathe_canonical | with_reducible apply canonical_ite
    | with_reducible refine canonical_foldl ?_ ?_ | with_reducible refine canonical_foldl_snd ?_ ?_
    | with_reducible refine canonical_foldl_fst ?_ ?_ | simp only [canonical_mk] | split)

theorem drainStep_canonical (n : Nat) (w : BitVec 128) (s : State) (h_s : Canonical s) :
    Canonical (drainStep n w s) := by
  unfold drainStep
  repeat' (first
    | intro _ | with_reducible assumption | with_reducible apply count_canonical
    | with_reducible apply instrOfLayer_canonical | with_reducible apply setSlot_canonical
    | with_reducible apply canonical_ite | with_reducible refine canonical_foldl ?_ ?_
    | with_reducible refine canonical_foldl_snd ?_ ?_ | with_reducible refine canonical_foldl_fst ?_ ?_
    | simp only [canonical_mk] | split)

theorem drainCompleteStep_canonical (n : Nat) (slot : Nat) (s : State) (h_s : Canonical s) :
    Canonical (drainCompleteStep n slot s) := by
  unfold drainCompleteStep
  repeat' (first
    | intro _ | with_reducible assumption | with_reducible apply emptySlot_canonical | with_reducible apply canonical_ite
    | simp only [canonical_mk] | split)

theorem slotWriteCompleteStep_canonical (n : Nat) (b : LatheBuf) (slot : Nat) (s : State) (h_s : Canonical s) :
    Canonical (slotWriteCompleteStep n b slot s) := by
  unfold slotWriteCompleteStep
  repeat' (first
    | intro _ | with_reducible assumption | with_reducible apply setSlot_canonical
    | with_reducible apply settleLathe_canonical | with_reducible apply canonical_ite | simp only [canonical_mk] | split)

theorem sendSelStep_canonical (n : Nat) (w : BitVec 128) (s : State) (h_s : Canonical s) :
    Canonical (sendSelStep n w s) := by
  unfold sendSelStep
  repeat' (first
    | intro _ | with_reducible assumption | with_reducible apply instrOfLayer_canonical
    | with_reducible apply setLathe_canonical | with_reducible apply canonical_ite
    | with_reducible refine canonical_getD ?_ ?_ | simp only [canonical_mk]
    | with_reducible refine canonicalOpt_eq (by with_reducible assumption) ?_
    | with_reducible refine canonicalOptFst_eq (by with_reducible assumption) ?_
    | with_reducible refine canonicalOptFst_eq_1 (by with_reducible assumption) ?_ | split
    | with_reducible apply canonicalOpt_none | with_reducible apply canonicalOpt_some
    | with_reducible apply canonicalOpt_map | with_reducible apply canonicalOpt_ite
    | with_reducible apply canonicalOpt_bind | with_reducible apply canonicalOpt_foldl
    | with_reducible apply canonicalOpt_bind_fst | with_reducible apply canonicalOpt_bind_any
    | with_reducible apply canonicalOptFst_none | with_reducible apply canonicalOptFst_some
    | with_reducible apply canonicalOptFst_map | with_reducible apply canonicalOptFst_ite
    | with_reducible apply canonicalOptFst_bind | with_reducible apply canonicalOptFst_foldl
    | with_reducible apply canonicalOptFst_bind_opt | with_reducible apply canonicalOptFst_bind_any
    | with_reducible apply canonicalOptSnd_none | with_reducible apply canonicalOptSnd_some
    | with_reducible apply canonicalOptSnd_ite)

theorem layerStep_canonical (n : Nat) (w : BitVec 128) (s : State) (h_s : Canonical s) :
    Canonical (layerStep n w s) := by
  unfold layerStep
  repeat' (first
    | intro _ | with_reducible assumption | with_reducible apply instr_canonical | with_reducible apply setLathe_canonical
    | with_reducible apply startLayer_canonical | with_reducible apply canonical_ite
    | with_reducible apply canonical_ite_fst | with_reducible apply canonical_ite_snd | simp only [canonical_mk]
    | with_reducible refine canonicalOpt_eq (by with_reducible assumption) ?_
    | with_reducible refine canonicalOptFst_eq (by with_reducible assumption) ?_
    | with_reducible refine canonicalOptFst_eq_1 (by with_reducible assumption) ?_ | split
    | with_reducible apply canonicalOpt_none | with_reducible apply canonicalOpt_some
    | with_reducible apply canonicalOpt_map | with_reducible apply canonicalOpt_ite
    | with_reducible apply canonicalOpt_bind | with_reducible apply canonicalOpt_foldl
    | with_reducible apply canonicalOpt_bind_fst | with_reducible apply canonicalOpt_bind_any
    | with_reducible apply canonicalOptFst_none | with_reducible apply canonicalOptFst_some
    | with_reducible apply canonicalOptFst_map | with_reducible apply canonicalOptFst_ite
    | with_reducible apply canonicalOptFst_bind | with_reducible apply canonicalOptFst_foldl
    | with_reducible apply canonicalOptFst_bind_opt | with_reducible apply canonicalOptFst_bind_any
    | with_reducible apply canonicalOptSnd_none | with_reducible apply canonicalOptSnd_some
    | with_reducible apply canonicalOptSnd_ite)

theorem matWrite_canonical (s : State) (n : Nat) (o : MatOp) (h_s : Canonical s) :
    Canonical (State.matWrite s n o) := by
  unfold State.matWrite
  repeat' (first
    | intro _ | with_reducible assumption | with_reducible apply store_canonical | with_reducible apply canonical_ite
    | with_reducible apply canonical_ite_fst | with_reducible apply canonical_ite_snd
    | with_reducible refine canonical_foldl ?_ ?_ | with_reducible refine canonical_foldl_snd ?_ ?_
    | with_reducible refine canonical_foldl_fst ?_ ?_ | simp only [canonical_mk]
    | with_reducible refine canonicalOpt_eq (by with_reducible assumption) ?_
    | with_reducible refine canonicalOptFst_eq (by with_reducible assumption) ?_
    | with_reducible refine canonicalOptFst_eq_1 (by with_reducible assumption) ?_ | split
    | with_reducible apply canonicalOpt_none | with_reducible apply canonicalOpt_some
    | with_reducible apply canonicalOpt_map | with_reducible apply canonicalOpt_ite
    | with_reducible apply canonicalOpt_bind | with_reducible apply canonicalOpt_foldl
    | with_reducible apply canonicalOpt_bind_fst | with_reducible apply canonicalOpt_bind_any
    | with_reducible apply canonicalOptFst_none | with_reducible apply canonicalOptFst_some
    | with_reducible apply canonicalOptFst_map | with_reducible apply canonicalOptFst_ite
    | with_reducible apply canonicalOptFst_bind | with_reducible apply canonicalOptFst_foldl
    | with_reducible apply canonicalOptFst_bind_opt | with_reducible apply canonicalOptFst_bind_any
    | with_reducible apply canonicalOptSnd_none | with_reducible apply canonicalOptSnd_some
    | with_reducible apply canonicalOptSnd_ite)

theorem matIssue_canonical (s : State) (n : Nat) (o : MatOp) (h_s : Canonical s) :
    Canonical (State.matIssue s n o) := by
  unfold State.matIssue
  repeat' (first
    | intro _ | with_reducible assumption | with_reducible apply bump_canonical | with_reducible apply matWrite_canonical
    | with_reducible apply release_canonical | with_reducible apply setLathe_canonical
    | with_reducible apply setSlot_canonical | with_reducible apply canonical_ite
    | with_reducible refine canonical_foldl ?_ ?_ | with_reducible refine canonical_foldl_snd ?_ ?_
    | with_reducible refine canonical_foldl_fst ?_ ?_ | simp only [canonical_mk]
    | with_reducible refine canonicalOpt_eq (by with_reducible assumption) ?_
    | with_reducible refine canonicalOptFst_eq (by with_reducible assumption) ?_
    | with_reducible refine canonicalOptFst_eq_1 (by with_reducible assumption) ?_ | split
    | with_reducible apply canonicalOpt_none | with_reducible apply canonicalOpt_some
    | with_reducible apply canonicalOpt_map | with_reducible apply canonicalOpt_ite
    | with_reducible apply canonicalOpt_bind | with_reducible apply canonicalOpt_foldl
    | with_reducible apply canonicalOpt_bind_fst | with_reducible apply canonicalOpt_bind_any
    | with_reducible apply canonicalOptFst_none | with_reducible apply canonicalOptFst_some
    | with_reducible apply canonicalOptFst_map | with_reducible apply canonicalOptFst_ite
    | with_reducible apply canonicalOptFst_bind | with_reducible apply canonicalOptFst_foldl
    | with_reducible apply canonicalOptFst_bind_opt | with_reducible apply canonicalOptFst_bind_any
    | with_reducible apply canonicalOptSnd_none | with_reducible apply canonicalOptSnd_some
    | with_reducible apply canonicalOptSnd_ite)

theorem matmulStep_canonical (n : Nat) (w : BitVec 128) (s : State) (h_s : Canonical s) :
    Canonical (matmulStep n w s) := by
  unfold matmulStep
  repeat' (first
    | intro _ | with_reducible assumption | with_reducible apply instrOfLayer_canonical
    | with_reducible apply matIssue_canonical | with_reducible apply canonical_ite | simp only [canonical_mk] | split)

theorem vecStore_canonical (s : State) (n : Nat) (o : VecOp) (i : Nat) (vs : List F32) (h_s : Canonical s) :
    Canonical (State.vecStore s n o i vs) := by
  unfold State.vecStore
  repeat' (first
    | intro _ | with_reducible assumption | with_reducible apply store_canonical | with_reducible apply canonical_ite
    | with_reducible apply canonical_ite_fst | with_reducible apply canonical_ite_snd
    | with_reducible refine canonical_getD ?_ ?_ | simp only [canonical_mk]
    | with_reducible refine canonicalOpt_eq (by with_reducible assumption) ?_
    | with_reducible refine canonicalOptFst_eq (by with_reducible assumption) ?_
    | with_reducible refine canonicalOptFst_eq_1 (by with_reducible assumption) ?_ | split
    | with_reducible apply canonicalOpt_none | with_reducible apply canonicalOpt_some
    | with_reducible apply canonicalOpt_map | with_reducible apply canonicalOpt_ite
    | with_reducible apply canonicalOpt_bind | with_reducible apply canonicalOpt_foldl
    | with_reducible apply canonicalOpt_bind_fst | with_reducible apply canonicalOpt_bind_any
    | with_reducible apply canonicalOptFst_none | with_reducible apply canonicalOptFst_some
    | with_reducible apply canonicalOptFst_map | with_reducible apply canonicalOptFst_ite
    | with_reducible apply canonicalOptFst_bind | with_reducible apply canonicalOptFst_foldl
    | with_reducible apply canonicalOptFst_bind_opt | with_reducible apply canonicalOptFst_bind_any
    | with_reducible apply canonicalOptSnd_none | with_reducible apply canonicalOptSnd_some
    | with_reducible apply canonicalOptSnd_ite)

theorem convNan_canonical (s : State) (fmt : Nat) (vs : List F32) (h_s : Canonical s) :
    Canonical (State.convNan s fmt vs) := by
  unfold State.convNan
  repeat' (first
    | intro _ | with_reducible assumption | with_reducible apply setFld_canonical | with_reducible apply canonical_ite
    | simp only [canonical_mk] | split)

theorem vecIssue_canonical (s : State) (n : Nat) (o : VecOp) (h_s : Canonical s) :
    Canonical (State.vecIssue s n o) := by
  unfold State.vecIssue
  repeat' (first
    | intro _ | with_reducible assumption | with_reducible apply bump_canonical | with_reducible apply convNan_canonical
    | with_reducible apply release_canonical | with_reducible apply setLathe_canonical
    | with_reducible apply setSlot_canonical | with_reducible apply vecStore_canonical
    | with_reducible apply canonical_ite | with_reducible apply canonical_ite_fst | with_reducible apply canonical_ite_snd
    | with_reducible refine canonical_foldl ?_ ?_ | with_reducible refine canonical_foldl_snd ?_ ?_
    | with_reducible refine canonical_foldl_fst ?_ ?_ | simp only [canonical_mk]
    | with_reducible refine canonicalOpt_eq (by with_reducible assumption) ?_
    | with_reducible refine canonicalOptFst_eq (by with_reducible assumption) ?_
    | with_reducible refine canonicalOptFst_eq_1 (by with_reducible assumption) ?_ | split
    | with_reducible apply canonicalOpt_none | with_reducible apply canonicalOpt_some
    | with_reducible apply canonicalOpt_map | with_reducible apply canonicalOpt_ite
    | with_reducible apply canonicalOpt_bind | with_reducible apply canonicalOpt_foldl
    | with_reducible apply canonicalOpt_bind_fst | with_reducible apply canonicalOpt_bind_any
    | with_reducible apply canonicalOptFst_none | with_reducible apply canonicalOptFst_some
    | with_reducible apply canonicalOptFst_map | with_reducible apply canonicalOptFst_ite
    | with_reducible apply canonicalOptFst_bind | with_reducible apply canonicalOptFst_foldl
    | with_reducible apply canonicalOptFst_bind_opt | with_reducible apply canonicalOptFst_bind_any
    | with_reducible apply canonicalOptSnd_none | with_reducible apply canonicalOptSnd_some
    | with_reducible apply canonicalOptSnd_ite)

theorem vectorStep_canonical (n : Nat) (w : BitVec 128) (s : State) (h_s : Canonical s) :
    Canonical (vectorStep n w s) := by
  unfold vectorStep
  repeat' (first
    | intro _ | with_reducible assumption | with_reducible apply instrOfLayer_canonical
    | with_reducible apply vecIssue_canonical | with_reducible apply canonical_ite | simp only [canonical_mk] | split)

theorem illegalInstructionStep_canonical (n : Nat) (w : BitVec 128) (s : State) (h_s : Canonical s) :
    Canonical (illegalInstructionStep n w s) := by
  unfold illegalInstructionStep
  repeat' (first
    | intro _ | with_reducible assumption | with_reducible apply instr_canonical | with_reducible apply canonical_ite
    | simp only [canonical_mk] | split)

theorem latheStallStep_canonical (n : Nat) (s0 : State) (h_s0 : Canonical s0) :
    Canonical (latheStallStep n s0) := by
  unfold latheStallStep
  repeat' (first
    | intro _ | with_reducible assumption | with_reducible apply abortLathe_canonical
    | with_reducible apply event_canonical | with_reducible apply failStep_canonical
    | with_reducible apply lthLogPut_canonical | with_reducible apply settleLathe_canonical
    | with_reducible apply canonical_ite | simp only [canonical_mk] | split)

theorem lthErrLogReadStep_canonical (s : State) (h_s : Canonical s) :
    Canonical (lthErrLogReadStep s) := by
  unfold lthErrLogReadStep
  repeat' (first
    | intro _ | with_reducible assumption | with_reducible apply canonical_ite | simp only [canonical_mk] | split)

end Sys2Proof.Machine
end

