-- ==== Sys2Proof/Laws/CanonicalLearning.lean ====
section
/-! SUPPORT. Every operation of Machine/Learning.lean keeps the canonical forms of memory and of the registers. -/

set_option simprocs false
set_option linter.unusedTactic false
set_option linter.unusedSimpArgs false
set_option linter.unreachableTactic false

namespace Sys2Proof.Machine

theorem readTiles_canonical (s : State) (p : Nat) (ids : List Nat) (h_s : Canonical s) :
    Canonical (State.readTiles s p ids).2 := by
  unfold State.readTiles
  repeat' (first
    | intro _ | with_reducible assumption | with_reducible apply objContent_canonical
    | with_reducible refine objContent_canonical_eq (by with_reducible assumption) ?_ | with_reducible apply canonical_ite
    | with_reducible apply canonical_ite_fst | with_reducible apply canonical_ite_snd
    | with_reducible refine canonical_foldl ?_ ?_ | with_reducible refine canonical_foldl_snd ?_ ?_
    | with_reducible refine canonical_foldl_fst ?_ ?_ | simp only [canonical_mk] | split)

theorem readTiles_canonical_eq {s : State} {p : Nat} {ids : List Nat} {a0_ t_} (h_eq : State.readTiles s p ids = (a0_, t_))
    (h_s : Canonical s) : Canonical t_ := by
  have h_p := readTiles_canonical s p ids h_s
  rw [h_eq] at h_p; exact h_p

theorem putContent_canonical (s : State) (p : Nat) (id : Nat) (bs : List Byte) (h_s : Canonical s) :
    CanonicalOpt (State.putContent s p id bs) := by
  unfold State.putContent
  repeat' (first
    | intro _ | with_reducible assumption | with_reducible apply free1_canonical | with_reducible apply place1_canonical
    | with_reducible refine place1_canonical_eq (by with_reducible assumption) ?_
    | with_reducible refine place1_canonical_eq_1 (by with_reducible assumption) ?_ | with_reducible apply put1_canonical
    | with_reducible apply setObj_canonical | with_reducible apply store_canonical | with_reducible apply canonical_ite
    | with_reducible apply canonical_ite_fst | with_reducible apply canonical_ite_snd
    | with_reducible refine canonical_getD ?_ ?_ | with_reducible apply canonicalOpt_none
    | with_reducible apply canonicalOpt_some | with_reducible apply canonicalOpt_map
    | with_reducible apply canonicalOpt_ite | with_reducible apply canonicalOpt_bind
    | with_reducible apply canonicalOpt_foldl | with_reducible apply canonicalOpt_bind_fst
    | with_reducible apply canonicalOpt_bind_any | simp only [canonical_mk]
    | with_reducible refine canonicalOpt_eq (by with_reducible assumption) ?_
    | with_reducible refine canonicalOptFst_eq (by with_reducible assumption) ?_
    | with_reducible refine canonicalOptFst_eq_1 (by with_reducible assumption) ?_ | split
    | with_reducible apply canonicalOptFst_none | with_reducible apply canonicalOptFst_some
    | with_reducible apply canonicalOptFst_map | with_reducible apply canonicalOptFst_ite
    | with_reducible apply canonicalOptFst_bind | with_reducible apply canonicalOptFst_foldl
    | with_reducible apply canonicalOptFst_bind_opt | with_reducible apply canonicalOptFst_bind_any
    | with_reducible apply canonicalOptSnd_none | with_reducible apply canonicalOptSnd_some
    | with_reducible apply canonicalOptSnd_ite)

theorem putContent_canonical_eq {s : State} {p : Nat} {id : Nat} {bs : List Byte} {t : State} (h_eq : State.putContent s p id bs = some t)
    (h_s : Canonical s) : Canonical t :=
  (putContent_canonical s p id bs h_s).elim t h_eq

theorem eachTile_canonical (s : State) (p : Nat) (ids : List Nat) (f : Nat → List F32 → List Byte) (h_s : Canonical s) :
    CanonicalOpt (State.eachTile s p ids f) := by
  unfold State.eachTile
  repeat' (first
    | intro _ | with_reducible assumption | with_reducible apply putContent_canonical
    | with_reducible refine putContent_canonical_eq (by with_reducible assumption) ?_ | with_reducible apply canonical_ite
    | with_reducible apply canonical_ite_fst | with_reducible apply canonical_ite_snd
    | with_reducible refine canonical_foldl ?_ ?_ | with_reducible refine canonical_foldl_snd ?_ ?_
    | with_reducible refine canonical_foldl_fst ?_ ?_ | with_reducible apply canonicalOpt_none
    | with_reducible apply canonicalOpt_some | with_reducible apply canonicalOpt_map
    | with_reducible apply canonicalOpt_ite | with_reducible apply canonicalOpt_bind
    | with_reducible apply canonicalOpt_foldl | with_reducible apply canonicalOpt_bind_fst
    | with_reducible apply canonicalOpt_bind_any | simp only [canonical_mk] | split)

theorem eachTile_canonical_eq {s : State} {p : Nat} {ids : List Nat} {f : Nat → List F32 → List Byte} {t : State} (h_eq : State.eachTile s p ids f = some t)
    (h_s : Canonical s) : Canonical t :=
  (eachTile_canonical s p ids f h_s).elim t h_eq

theorem bodyLearnStep_canonical (c : Cmd) (s : State) (h_s : Canonical s) :
    Canonical (bodyLearnStep c s) := by
  unfold bodyLearnStep
  repeat' (first
    | intro _ | with_reducible assumption | with_reducible apply addRun_canonical | with_reducible apply refuse_canonical
    | with_reducible apply canonical_ite | with_reducible apply canonical_ite_fst | with_reducible apply canonical_ite_snd
    | simp only [canonical_mk] | with_reducible refine canonicalOpt_eq (by with_reducible assumption) ?_
    | with_reducible refine canonicalOptFst_eq (by with_reducible assumption) ?_
    | with_reducible refine canonicalOptFst_eq_1 (by with_reducible assumption) ?_ | split
    | with_reducible apply canonicalOpt_none | with_reducible apply canonicalOpt_some
    | with_reducible apply canonicalOpt_map | with_reducible apply canonicalOpt_ite
    | with_reducible apply canonicalOpt_bind | with_reducible apply canonicalOpt_foldl
    | with_reducible apply canonicalOpt_bind_fst | with_reducible apply canonicalOpt_bind_any
    | with_reducible apply canonicalOptFst_none | with_reducible apply canonicalOptFst_some
    | with_reducible apply canonicalOptFst_map | with_reducible apply canonicalOptFst_ite
    | with_reducible apply canonicalOptFst_bind | with_reducible apply canonicalOptFst_foldl
    | with_reducible apply canonicalOptFst_bind_opt | with_reducible apply canonicalOptFst_bind_any
    | with_reducible apply canonicalOptSnd_none | with_reducible apply canonicalOptSnd_some
    | with_reducible apply canonicalOptSnd_ite)

theorem learned_canonical (s : State) (c : Cmd) (m : Model) (n : Nat) (h_s : Canonical s) :
    CanonicalOpt (State.learned s c m n) := by
  unfold State.learned
  repeat' (first
    | intro _ | with_reducible assumption | with_reducible apply eachTile_canonical
    | with_reducible refine eachTile_canonical_eq (by with_reducible assumption) ?_ | with_reducible apply canonical_ite
    | with_reducible apply canonical_ite_fst | with_reducible apply canonical_ite_snd
    | with_reducible refine canonical_getD ?_ ?_ | with_reducible apply canonicalOpt_none
    | with_reducible apply canonicalOpt_some | with_reducible apply canonicalOpt_map
    | with_reducible apply canonicalOpt_ite | with_reducible apply canonicalOpt_bind
    | with_reducible apply canonicalOpt_foldl | with_reducible apply canonicalOpt_bind_fst
    | with_reducible apply canonicalOpt_bind_any | simp only [canonical_mk]
    | with_reducible refine canonicalOpt_eq (by with_reducible assumption) ?_
    | with_reducible refine canonicalOptFst_eq (by with_reducible assumption) ?_
    | with_reducible refine canonicalOptFst_eq_1 (by with_reducible assumption) ?_ | split
    | with_reducible apply canonicalOptFst_none | with_reducible apply canonicalOptFst_some
    | with_reducible apply canonicalOptFst_map | with_reducible apply canonicalOptFst_ite
    | with_reducible apply canonicalOptFst_bind | with_reducible apply canonicalOptFst_foldl
    | with_reducible apply canonicalOptFst_bind_opt | with_reducible apply canonicalOptFst_bind_any
    | with_reducible apply canonicalOptSnd_none | with_reducible apply canonicalOptSnd_some
    | with_reducible apply canonicalOptSnd_ite)

theorem learned_canonical_eq {s : State} {c : Cmd} {m : Model} {n : Nat} {t : State} (h_eq : State.learned s c m n = some t)
    (h_s : Canonical s) : Canonical t :=
  (learned_canonical s c m n h_s).elim t h_eq

theorem bodyOptimizerStep_canonical (c : Cmd) (s : State) (h_s : Canonical s) :
    Canonical (bodyOptimizerStep c s) := by
  unfold bodyOptimizerStep
  repeat' (first
    | intro _ | with_reducible assumption | with_reducible apply addRun_canonical | with_reducible apply refuse_canonical
    | with_reducible apply refuseBusy_canonical | with_reducible apply canonical_ite | simp only [canonical_mk] | split)

theorem updateMaster_canonical (s : State) (o : Optimizer) (m : Model) (clip : F32) (x : Nat) (h_s : Canonical s) :
    CanonicalOpt (State.updateMaster s o m clip x) := by
  unfold State.updateMaster
  repeat' (first
    | intro _ | with_reducible assumption | with_reducible apply putContent_canonical
    | with_reducible refine putContent_canonical_eq (by with_reducible assumption) ?_ | with_reducible apply canonical_ite
    | with_reducible apply canonical_ite_fst | with_reducible apply canonical_ite_snd
    | with_reducible refine canonical_getD ?_ ?_ | with_reducible apply canonicalOpt_none
    | with_reducible apply canonicalOpt_some | with_reducible apply canonicalOpt_map
    | with_reducible apply canonicalOpt_ite | with_reducible apply canonicalOpt_bind
    | with_reducible apply canonicalOpt_foldl | with_reducible apply canonicalOpt_bind_fst
    | with_reducible apply canonicalOpt_bind_any | simp only [canonical_mk]
    | with_reducible refine canonicalOpt_eq (by with_reducible assumption) ?_
    | with_reducible refine canonicalOptFst_eq (by with_reducible assumption) ?_
    | with_reducible refine canonicalOptFst_eq_1 (by with_reducible assumption) ?_ | split
    | with_reducible apply canonicalOptFst_none | with_reducible apply canonicalOptFst_some
    | with_reducible apply canonicalOptFst_map | with_reducible apply canonicalOptFst_ite
    | with_reducible apply canonicalOptFst_bind | with_reducible apply canonicalOptFst_foldl
    | with_reducible apply canonicalOptFst_bind_opt | with_reducible apply canonicalOptFst_bind_any
    | with_reducible apply canonicalOptSnd_none | with_reducible apply canonicalOptSnd_some
    | with_reducible apply canonicalOptSnd_ite)

theorem updateMaster_canonical_eq {s : State} {o : Optimizer} {m : Model} {clip : F32} {x : Nat} {t : State} (h_eq : State.updateMaster s o m clip x = some t)
    (h_s : Canonical s) : Canonical t :=
  (updateMaster_canonical s o m clip x h_s).elim t h_eq

theorem regenerate_canonical (s : State) (m : Model) (under : Bool) (h_s : Canonical s) :
    CanonicalOpt (State.regenerate s m under) := by
  unfold State.regenerate
  repeat' (first
    | intro _ | with_reducible assumption | with_reducible apply convNan_canonical
    | with_reducible apply putContent_canonical
    | with_reducible refine putContent_canonical_eq (by with_reducible assumption) ?_ | with_reducible apply canonical_ite
    | with_reducible apply canonical_ite_fst | with_reducible apply canonical_ite_snd
    | with_reducible refine canonical_foldl ?_ ?_ | with_reducible refine canonical_foldl_snd ?_ ?_
    | with_reducible refine canonical_foldl_fst ?_ ?_ | with_reducible refine canonical_getD ?_ ?_
    | with_reducible apply canonicalOpt_none | with_reducible apply canonicalOpt_some
    | with_reducible apply canonicalOpt_map | with_reducible apply canonicalOpt_ite
    | with_reducible apply canonicalOpt_bind | with_reducible apply canonicalOpt_foldl
    | with_reducible apply canonicalOpt_bind_fst | with_reducible apply canonicalOpt_bind_any | simp only [canonical_mk]
    | split)

theorem regenerate_canonical_eq {s : State} {m : Model} {under : Bool} {t : State} (h_eq : State.regenerate s m under = some t)
    (h_s : Canonical s) : Canonical t :=
  (regenerate_canonical s m under h_s).elim t h_eq

theorem optimized_canonical (s : State) (c : Cmd) (m : Model) (h_s : Canonical s) :
    CanonicalOpt (State.optimized s c m) := by
  unfold State.optimized
  repeat' (first
    | intro _ | with_reducible assumption | with_reducible apply regenerate_canonical
    | with_reducible refine regenerate_canonical_eq (by with_reducible assumption) ?_
    | with_reducible apply updateMaster_canonical
    | with_reducible refine updateMaster_canonical_eq (by with_reducible assumption) ?_
    | with_reducible apply canonical_ite | with_reducible refine canonical_foldl ?_ ?_
    | with_reducible refine canonical_foldl_snd ?_ ?_ | with_reducible refine canonical_foldl_fst ?_ ?_
    | with_reducible apply canonicalOpt_none | with_reducible apply canonicalOpt_some
    | with_reducible apply canonicalOpt_map | with_reducible apply canonicalOpt_ite
    | with_reducible apply canonicalOpt_bind | with_reducible apply canonicalOpt_foldl
    | with_reducible apply canonicalOpt_bind_fst | with_reducible apply canonicalOpt_bind_any | simp only [canonical_mk]
    | split)

theorem optimized_canonical_eq {s : State} {c : Cmd} {m : Model} {t : State} (h_eq : State.optimized s c m = some t)
    (h_s : Canonical s) : Canonical t :=
  (optimized_canonical s c m h_s).elim t h_eq

theorem learnRunDone_canonical (s : State) (c : Cmd) (j : ModelJob) (n : Nat) (falls : Nat) (h_s : Canonical s) :
    Canonical (State.learnRunDone s c j n falls) := by
  unfold State.learnRunDone
  repeat' (first
    | intro _ | with_reducible assumption | with_reducible apply dropWork_canonical
    | with_reducible apply endCmd_canonical | with_reducible apply learned_canonical
    | with_reducible refine learned_canonical_eq (by with_reducible assumption) ?_
    | with_reducible apply optimized_canonical
    | with_reducible refine optimized_canonical_eq (by with_reducible assumption) ?_
    | with_reducible apply readTiles_canonical
    | with_reducible refine readTiles_canonical_eq (by with_reducible assumption) ?_
    | with_reducible apply reply_canonical | with_reducible apply canonical_ite | with_reducible apply canonical_ite_fst
    | with_reducible apply canonical_ite_snd | simp only [canonical_mk]
    | with_reducible refine canonicalOpt_eq (by with_reducible assumption) ?_
    | with_reducible refine canonicalOptFst_eq (by with_reducible assumption) ?_
    | with_reducible refine canonicalOptFst_eq_1 (by with_reducible assumption) ?_ | split
    | with_reducible apply canonicalOpt_none | with_reducible apply canonicalOpt_some
    | with_reducible apply canonicalOpt_map | with_reducible apply canonicalOpt_ite
    | with_reducible apply canonicalOpt_bind | with_reducible apply canonicalOpt_foldl
    | with_reducible apply canonicalOpt_bind_fst | with_reducible apply canonicalOpt_bind_any
    | with_reducible apply canonicalOptFst_none | with_reducible apply canonicalOptFst_some
    | with_reducible apply canonicalOptFst_map | with_reducible apply canonicalOptFst_ite
    | with_reducible apply canonicalOptFst_bind | with_reducible apply canonicalOptFst_foldl
    | with_reducible apply canonicalOptFst_bind_opt | with_reducible apply canonicalOptFst_bind_any
    | with_reducible apply canonicalOptSnd_none | with_reducible apply canonicalOptSnd_some
    | with_reducible refine canonical_pair_eq (by with_reducible assumption) ?_ | with_reducible apply canonicalOptSnd_ite
    | with_reducible apply canonical_ite_fst)

theorem bodyModelUnload_canonical (c : Cmd) (s : State) (h_s : Canonical s) :
    Canonical (bodyModelUnload c s) := by
  unfold bodyModelUnload
  repeat' (first
    | intro _ | with_reducible assumption | with_reducible apply endHold_canonical
    | with_reducible apply freeModel_canonical | with_reducible apply refuse_canonical
    | with_reducible apply refuseBusy_canonical | with_reducible apply shaped_canonical
    | with_reducible apply canonical_ite | with_reducible refine canonical_foldl ?_ ?_
    | with_reducible refine canonical_foldl_snd ?_ ?_ | with_reducible refine canonical_foldl_fst ?_ ?_
    | simp only [canonical_mk] | split)

end Sys2Proof.Machine
end

