-- ==== Sys2Proof/Laws/CanonicalContexts.lean ====
section
/-! SUPPORT. Every operation of Machine/Contexts.lean keeps the canonical forms of memory and of the registers. -/

set_option simprocs false
set_option linter.unusedTactic false
set_option linter.unusedSimpArgs false
set_option linter.unreachableTactic false

namespace Sys2Proof.Machine

theorem zeroShare_canonical (s : State) (x : Nat × Nat) (h_s : Canonical s) :
    Canonical (State.zeroShare s x) := by
  unfold State.zeroShare
  repeat' (first
    | intro _ | with_reducible assumption | with_reducible apply emptySlot_canonical
    | with_reducible apply zeroRange_canonical | with_reducible apply canonical_ite
    | with_reducible apply canonical_ite_fst | with_reducible apply canonical_ite_snd
    | with_reducible refine canonical_foldl ?_ ?_ | with_reducible refine canonical_foldl_snd ?_ ?_
    | with_reducible refine canonical_foldl_fst ?_ ?_ | simp only [canonical_mk]
    | with_reducible refine canonicalOpt_eq (by with_reducible assumption) ?_
    | with_reducible refine canonicalOptFst_eq (by with_reducible assumption) ?_
    | with_reducible refine canonicalOptFst_eq_1 (by with_reducible assumption) ?_ | split
    | with_reducible apply canonicalOpt_none | with_reducible apply canonicalOpt_some
    | with_reducible apply canonicalOpt_map | with_reducible apply canonicalOpt_ite
    | with_reducible apply canonicalOpt_bind | with_reducible apply canonicalOpt_foldl
    | with_reducible apply canonicalOpt_bind_fst | with_reducible apply canonicalOpt_bind_any
    | with_reducible apply canonicalOptFst_none | with_reducible apply canonicalOptFst_some
    | with_reducible apply canonicalOptFst_map | with_reducible apply canonicalOptFst_ite
    | with_reducible apply canonicalOptFst_bind | with_reducible apply canonicalOptFst_foldl
    | with_reducible apply canonicalOptFst_bind_opt | with_reducible apply canonicalOptFst_bind_any
    | with_reducible apply canonicalOptSnd_none | with_reducible apply canonicalOptSnd_some
    | with_reducible apply canonicalOptSnd_ite)

theorem setCtx_canonical (s : State) (p : Nat) (c : Nat) (st : Nat) (h_s : Canonical s) :
    Canonical (State.setCtx s p c st) := by
  unfold State.setCtx
  repeat' (first
    | intro _ | with_reducible assumption | with_reducible apply setFld_canonical | with_reducible apply canonical_ite
    | simp only [canonical_mk] | split)

theorem dropImage_canonical (s : State) (p : Nat) (c : Nat) (h_s : Canonical s) :
    Canonical (State.dropImage s p c) := by
  unfold State.dropImage
  repeat' (first
    | intro _ | with_reducible assumption | with_reducible apply setPart_canonical | with_reducible apply canonical_ite
    | simp only [canonical_mk] | split)

theorem emptyImage_canonical (s : State) (p : Nat) (c : Nat) (h_s : Canonical s) :
    Canonical (State.emptyImage s p c) := by
  unfold State.emptyImage
  repeat' (first
    | intro _ | with_reducible assumption | with_reducible apply dropImage_canonical
    | with_reducible apply setPart_canonical | with_reducible apply canonical_ite
    | with_reducible refine canonical_getD ?_ ?_ | simp only [canonical_mk] | split)

theorem endTear_canonical (s : State) (p : Nat) (t : Tear) (h_s : Canonical s) :
    Canonical (State.endTear s p t) := by
  unfold State.endTear
  repeat' (first
    | intro _ | with_reducible assumption | with_reducible apply bump_canonical | with_reducible apply dropImage_canonical
    | with_reducible apply emptyImage_canonical | with_reducible apply event_canonical
    | with_reducible apply logFree_canonical | with_reducible apply setCtx_canonical
    | with_reducible apply setPart_canonical | with_reducible apply zeroShare_canonical
    | with_reducible apply canonical_ite | simp only [canonical_mk] | split)

theorem endTears_canonical (s : State) (p : Nat) (now_ : Tear → Bool) (h_s : Canonical s) :
    Canonical (State.endTears s p now_) := by
  unfold State.endTears
  repeat' (first
    | intro _ | with_reducible assumption | with_reducible apply endTear_canonical | with_reducible apply canonical_ite
    | with_reducible refine canonical_foldl ?_ ?_ | with_reducible refine canonical_foldl_snd ?_ ?_
    | with_reducible refine canonical_foldl_fst ?_ ?_ | simp only [canonical_mk] | split)

theorem tearsDue_canonical (s : State) (h_s : Canonical s) :
    Canonical (State.tearsDue s) := by
  unfold State.tearsDue
  repeat' (first
    | intro _ | with_reducible assumption | with_reducible apply endTears_canonical | with_reducible apply canonical_ite
    | with_reducible refine canonical_foldl ?_ ?_ | with_reducible refine canonical_foldl_snd ?_ ?_
    | with_reducible refine canonical_foldl_fst ?_ ?_ | simp only [canonical_mk] | split)

end Sys2Proof.Machine
end

