-- ==== Sys2Proof/Laws/CanonicalSteps.lean ====
section
/-! SUPPORT. Every operation of Machine/Steps.lean keeps the canonical forms of memory and of the registers. -/

set_option simprocs false
set_option linter.unusedTactic false
set_option linter.unusedSimpArgs false
set_option linter.unreachableTactic false

namespace Sys2Proof.Machine

theorem gramReads_canonical (s : State) (q : Seq) (props : List Nat) (h_s : Canonical s) :
    Canonical (State.gramReads s q props) := by
  unfold State.gramReads
  repeat' (first
    | intro _ | with_reducible assumption | with_reducible apply event_canonical | with_reducible apply memCe_canonical
    | with_reducible apply canonical_ite | with_reducible refine canonical_foldl ?_ ?_
    | with_reducible refine canonical_foldl_snd ?_ ?_ | with_reducible refine canonical_foldl_fst ?_ ?_
    | with_reducible refine canonical_getD ?_ ?_ | simp only [canonical_mk]
    | with_reducible refine canonicalOpt_eq (by with_reducible assumption) ?_
    | with_reducible refine canonicalOptFst_eq (by with_reducible assumption) ?_
    | with_reducible refine canonicalOptFst_eq_1 (by with_reducible assumption) ?_ | split
    | with_reducible apply canonicalOpt_none | with_reducible apply canonicalOpt_some
    | with_reducible apply canonicalOpt_map | with_reducible apply canonicalOpt_ite
    | with_reducible apply canonicalOpt_bind | with_reducible apply canonicalOpt_foldl
    | with_reducible apply canonicalOpt_bind_fst | with_reducible apply canonicalOpt_bind_any
    | with_reducible apply canonicalOptFst_none | with_reducible apply canonicalOptFst_some
    | with_reducible apply canonicalOptFst_map | with_reducible apply canonicalOptFst_ite
    | with_reducible apply canonicalOptFst_bind | with_reducible apply canonicalOptFst_foldl
    | with_reducible apply canonicalOptFst_bind_opt | with_reducible apply canonicalOptFst_bind_any
    | with_reducible apply canonicalOptSnd_none | with_reducible apply canonicalOptSnd_some
    | with_reducible refine canonical_pair_eq (by with_reducible assumption) ?_ | with_reducible apply canonicalOptSnd_ite
    | with_reducible apply canonical_ite_fst)

theorem noteStop_canonical (s : State) (q : Seq) (stop : Option Nat) (h_s : Canonical s) :
    Canonical (State.noteStop s q stop) := by
  unfold State.noteStop
  repeat' (first
    | intro _ | with_reducible assumption | with_reducible apply event_canonical | with_reducible apply memUe_canonical
    | with_reducible apply canonical_ite | simp only [canonical_mk] | split)

theorem sampleCommit_canonical (s : State) (q : Seq) (r : Sampled) (props : Nat) (h_s : Canonical s) :
    Canonical (State.sampleCommit s q r props) := by
  unfold State.sampleCommit
  repeat' (first
    | intro _ | with_reducible assumption | with_reducible apply bump_canonical
    | with_reducible apply commitToken_canonical | with_reducible apply countSel_canonical
    | with_reducible apply endSeq_canonical | with_reducible apply noteStop_canonical
    | with_reducible apply spillEntries_canonical | with_reducible apply canonical_ite
    | with_reducible apply canonical_ite_fst | with_reducible apply canonical_ite_snd
    | with_reducible refine canonical_foldl ?_ ?_ | with_reducible refine canonical_foldl_snd ?_ ?_
    | with_reducible refine canonical_foldl_fst ?_ ?_ | with_reducible refine canonical_getD ?_ ?_
    | simp only [canonical_mk] | with_reducible refine canonicalOpt_eq (by with_reducible assumption) ?_
    | with_reducible refine canonicalOptFst_eq (by with_reducible assumption) ?_
    | with_reducible refine canonicalOptFst_eq_1 (by with_reducible assumption) ?_ | split
    | with_reducible apply canonicalOpt_none | with_reducible apply canonicalOpt_some
    | with_reducible apply canonicalOpt_map | with_reducible apply canonicalOpt_ite
    | with_reducible apply canonicalOpt_bind | with_reducible apply canonicalOpt_foldl
    | with_reducible apply canonicalOpt_bind_fst | with_reducible apply canonicalOpt_bind_any
    | with_reducible apply canonicalOptFst_none | with_reducible apply canonicalOptFst_some
    | with_reducible apply canonicalOptFst_map | with_reducible apply canonicalOptFst_ite
    | with_reducible apply canonicalOptFst_bind | with_reducible apply canonicalOptFst_foldl
    | with_reducible apply canonicalOptFst_bind_opt | with_reducible apply canonicalOptFst_bind_any
    | with_reducible apply canonicalOptSnd_none | with_reducible apply canonicalOptSnd_some
    | with_reducible apply canonicalOptSnd_ite)

theorem drainQuery_canonical (s : State) (q : Seq) (h_s : Canonical s) :
    Canonical (State.drainQuery s q) := by
  unfold State.drainQuery
  repeat' (first
    | intro _ | with_reducible assumption | with_reducible apply setSeq_canonical | with_reducible apply store_canonical
    | with_reducible apply tick_canonical | with_reducible apply canonical_ite | simp only [canonical_mk]
    | with_reducible refine canonicalOpt_eq (by with_reducible assumption) ?_
    | with_reducible refine canonicalOptFst_eq (by with_reducible assumption) ?_
    | with_reducible refine canonicalOptFst_eq_1 (by with_reducible assumption) ?_ | split
    | with_reducible apply canonicalOpt_none | with_reducible apply canonicalOpt_some
    | with_reducible apply canonicalOpt_map | with_reducible apply canonicalOpt_ite
    | with_reducible apply canonicalOpt_bind | with_reducible apply canonicalOpt_foldl
    | with_reducible apply canonicalOpt_bind_fst | with_reducible apply canonicalOpt_bind_any
    | with_reducible apply canonicalOptFst_none | with_reducible apply canonicalOptFst_some
    | with_reducible apply canonicalOptFst_map | with_reducible apply canonicalOptFst_ite
    | with_reducible apply canonicalOptFst_bind | with_reducible apply canonicalOptFst_foldl
    | with_reducible apply canonicalOptFst_bind_opt | with_reducible apply canonicalOptFst_bind_any
    | with_reducible apply canonicalOptSnd_none | with_reducible apply canonicalOptSnd_some
    | with_reducible apply canonicalOptSnd_ite)

theorem commitEntry_canonical (s : State) (i : Nat) (rows : Nat) (h_s : Canonical s) :
    Canonical (State.commitEntry s i rows) := by
  unfold State.commitEntry
  repeat' (first
    | intro _ | with_reducible assumption | with_reducible apply commitKv_canonical
    | with_reducible apply drainQuery_canonical | with_reducible apply gramReads_canonical
    | with_reducible apply logWords_canonical | with_reducible apply sampleCommit_canonical
    | with_reducible apply setSeq_canonical | with_reducible apply writeKv_canonical | with_reducible apply canonical_ite
    | with_reducible apply canonical_ite_fst | with_reducible apply canonical_ite_snd | simp only [canonical_mk] | split)

theorem finishRun_canonical (s : State) (id : Nat) (falls : Nat) (h_s : Canonical s) :
    Canonical (State.finishRun s id falls) := by
  unfold State.finishRun
  repeat' (first
    | intro _ | with_reducible assumption | with_reducible apply learnRunDone_canonical
    | with_reducible apply scoreRunDone_canonical | with_reducible apply canonical_ite | simp only [canonical_mk] | split)

theorem countRt_canonical (s : State) (p : Nat) (r : Runner) (h_s : Canonical s) :
    Canonical (State.countRt s p r) := by
  unfold State.countRt
  repeat' (first
    | intro _ | with_reducible assumption | with_reducible apply bump_canonical | with_reducible apply event_canonical
    | with_reducible apply canonical_ite | simp only [canonical_mk] | split)

theorem countStep_canonical (s : State) (p : Nat) (r : Runner) (h_s : Canonical s) :
    Canonical (State.countStep s p r) := by
  unfold State.countStep
  repeat' (first
    | intro _ | with_reducible assumption | with_reducible apply bump_canonical | with_reducible apply canonical_ite
    | simp only [canonical_mk] | split)

theorem countRows_canonical (s : State) (p : Nat) (rows : Nat) (h_s : Canonical s) :
    Canonical (State.countRows s p rows) := by
  unfold State.countRows
  repeat' (first
    | intro _ | with_reducible assumption | with_reducible apply bump_canonical | with_reducible apply setPart_canonical
    | with_reducible apply canonical_ite | simp only [canonical_mk] | split)

theorem completeStep_canonical (s : State) (p : Nat) (h_s : Canonical s) :
    Canonical (State.completeStep s p) := by
  unfold State.completeStep
  repeat' (first
    | intro _ | with_reducible assumption | with_reducible apply commitEntry_canonical
    | with_reducible apply countRt_canonical | with_reducible apply countStep_canonical
    | with_reducible apply endLayers_canonical | with_reducible apply finishRun_canonical
    | with_reducible apply setLathe_canonical | with_reducible apply setRunner_canonical
    | with_reducible apply setRunning_canonical | with_reducible apply canonical_ite
    | with_reducible apply canonical_ite_fst | with_reducible apply canonical_ite_snd
    | with_reducible refine canonical_foldl ?_ ?_ | with_reducible refine canonical_foldl_snd ?_ ?_
    | with_reducible refine canonical_foldl_fst ?_ ?_ | with_reducible refine canonical_getD ?_ ?_
    | simp only [canonical_mk] | with_reducible refine canonicalOpt_eq (by with_reducible assumption) ?_
    | with_reducible refine canonicalOptFst_eq (by with_reducible assumption) ?_
    | with_reducible refine canonicalOptFst_eq_1 (by with_reducible assumption) ?_ | split
    | with_reducible apply canonicalOpt_none | with_reducible apply canonicalOpt_some
    | with_reducible apply canonicalOpt_map | with_reducible apply canonicalOpt_ite
    | with_reducible apply canonicalOpt_bind | with_reducible apply canonicalOpt_foldl
    | with_reducible apply canonicalOpt_bind_fst | with_reducible apply canonicalOpt_bind_any
    | with_reducible apply canonicalOptFst_none | with_reducible apply canonicalOptFst_some
    | with_reducible apply canonicalOptFst_map | with_reducible apply canonicalOptFst_ite
    | with_reducible apply canonicalOptFst_bind | with_reducible apply canonicalOptFst_foldl
    | with_reducible apply canonicalOptFst_bind_opt | with_reducible apply canonicalOptFst_bind_any
    | with_reducible apply canonicalOptSnd_none | with_reducible apply canonicalOptSnd_some
    | with_reducible apply canonicalOptSnd_ite)

theorem atLimit_canonical (s : State) (i : Nat) (h_s : Canonical s) :
    Canonical (State.atLimit s i) := by
  unfold State.atLimit
  repeat' (first
    | intro _ | with_reducible assumption | with_reducible apply endSeq_canonical | with_reducible apply canonical_ite
    | with_reducible refine canonical_getD ?_ ?_ | simp only [canonical_mk]
    | with_reducible refine canonicalOpt_eq (by with_reducible assumption) ?_
    | with_reducible refine canonicalOptFst_eq (by with_reducible assumption) ?_
    | with_reducible refine canonicalOptFst_eq_1 (by with_reducible assumption) ?_ | split
    | with_reducible apply canonicalOpt_none | with_reducible apply canonicalOpt_some
    | with_reducible apply canonicalOpt_map | with_reducible apply canonicalOpt_ite
    | with_reducible apply canonicalOpt_bind | with_reducible apply canonicalOpt_foldl
    | with_reducible apply canonicalOpt_bind_fst | with_reducible apply canonicalOpt_bind_any
    | with_reducible apply canonicalOptFst_none | with_reducible apply canonicalOptFst_some
    | with_reducible apply canonicalOptFst_map | with_reducible apply canonicalOptFst_ite
    | with_reducible apply canonicalOptFst_bind | with_reducible apply canonicalOptFst_foldl
    | with_reducible apply canonicalOptFst_bind_opt | with_reducible apply canonicalOptFst_bind_any
    | with_reducible apply canonicalOptSnd_none | with_reducible apply canonicalOptSnd_some
    | with_reducible apply canonicalOptSnd_ite)

theorem applyAppend_canonical (s : State) (q : Seq) (h_s : Canonical s) :
    Canonical (State.applyAppend s q) := by
  unfold State.applyAppend
  repeat' (first
    | intro _ | with_reducible assumption | with_reducible apply atLimit_canonical | with_reducible apply setSeq_canonical
    | with_reducible apply tokens_canonical | with_reducible refine tokens_canonical_eq (by with_reducible assumption) ?_
    | with_reducible apply canonical_ite | simp only [canonical_mk] | split)

theorem kvLossAction_canonical (s : State) (p : Nat) (h_s : Canonical s) :
    Canonical (State.kvLossAction s p) := by
  unfold State.kvLossAction
  repeat' (first
    | intro _ | with_reducible assumption | with_reducible apply endSeq_canonical
    | with_reducible apply markKvLost_canonical | with_reducible apply refill_canonical
    | with_reducible apply canonical_ite | with_reducible refine canonical_foldl ?_ ?_
    | with_reducible refine canonical_foldl_snd ?_ ?_ | with_reducible refine canonical_foldl_fst ?_ ?_
    | simp only [canonical_mk] | split)

theorem beginSwitch_canonical (s : State) (p : Nat) (h_s : Canonical s) :
    Canonical (State.beginSwitch s p) := by
  unfold State.beginSwitch
  repeat' (first
    | intro _ | with_reducible assumption | with_reducible apply setFld_canonical | with_reducible apply setPart_canonical
    | with_reducible apply canonical_ite | with_reducible refine canonical_foldl ?_ ?_
    | with_reducible refine canonical_foldl_snd ?_ ?_ | with_reducible refine canonical_foldl_fst ?_ ?_
    | simp only [canonical_mk] | with_reducible refine canonicalOpt_eq (by with_reducible assumption) ?_
    | with_reducible refine canonicalOptFst_eq (by with_reducible assumption) ?_
    | with_reducible refine canonicalOptFst_eq_1 (by with_reducible assumption) ?_ | split
    | with_reducible apply canonicalOpt_none | with_reducible apply canonicalOpt_some
    | with_reducible apply canonicalOpt_map | with_reducible apply canonicalOpt_ite
    | with_reducible apply canonicalOpt_bind | with_reducible apply canonicalOpt_foldl
    | with_reducible apply canonicalOpt_bind_fst | with_reducible apply canonicalOpt_bind_any
    | with_reducible apply canonicalOptFst_none | with_reducible apply canonicalOptFst_some
    | with_reducible apply canonicalOptFst_map | with_reducible apply canonicalOptFst_ite
    | with_reducible apply canonicalOptFst_bind | with_reducible apply canonicalOptFst_foldl
    | with_reducible apply canonicalOptFst_bind_opt | with_reducible apply canonicalOptFst_bind_any
    | with_reducible apply canonicalOptSnd_none | with_reducible apply canonicalOptSnd_some
    | with_reducible apply canonicalOptSnd_ite)

theorem atBoundary_canonical (s : State) (p : Nat) (h_s : Canonical s) :
    Canonical (State.atBoundary s p) := by
  unfold State.atBoundary
  repeat' (first
    | intro _ | with_reducible assumption | with_reducible apply applyAppend_canonical
    | with_reducible apply applyKvCfg_canonical | with_reducible apply beginSwitch_canonical
    | with_reducible apply demote_canonical | with_reducible apply doStores_canonical
    | with_reducible apply endTears_canonical | with_reducible apply freeEnded_canonical
    | with_reducible apply kvLossAction_canonical | with_reducible apply markKvLost_canonical
    | with_reducible apply readShared_canonical | with_reducible apply turnover_canonical
    | with_reducible apply canonical_ite | with_reducible refine canonical_foldl ?_ ?_
    | with_reducible refine canonical_foldl_snd ?_ ?_ | with_reducible refine canonical_foldl_fst ?_ ?_
    | simp only [canonical_mk] | split)

theorem Build.skip_canonical {b : Build} {q : Seq} (h : Canonical b.s) : Canonical (b.skip q).s := h

theorem Build.pass_canonical {b : Build} {q : Seq} (h : Canonical b.s) : Canonical (b.pass q).s := by
  unfold Build.pass
  exact canonical_ite h (setSeq_canonical _ _ _ h)

theorem Build.starve_canonical {b : Build} {q : Seq} (h : Canonical b.s) : Canonical (b.starve q).s := by
  unfold Build.starve
  repeat' (first
    | intro _ | with_reducible assumption | with_reducible apply endSeq_canonical | with_reducible apply setSeq_canonical
    | with_reducible apply canonical_ite)

theorem Build.offer_canonical {b : Build} {n : Nat} {q : Seq} (h : Canonical b.s) : Canonical (b.offer n q).s := by
  unfold Build.offer
  extract_lets limit rows want
  clear_value want
  cases want
  · exact Build.pass_canonical h
  · rename_i k
    dsimp only
    split
    · exact Build.pass_canonical h
    · split
      · exact Build.starve_canonical h
      · apply setSeq_canonical
        with_reducible refine reserveKv_canonical_eq (by with_reducible assumption) ?_
        exact h

theorem buildList_canonical {s : State} {p c budget seqs : Nat} (h : Canonical s) :
    Canonical (s.buildList p c budget seqs).s := by
  unfold State.buildList
  extract_lets qs reserve rot order
  have key : ∀ (l : List Seq) (b : Build), Canonical b.s → Canonical (l.foldl (fun b q => b.offer reserve q) b).s := by
    intro l
    induction l with
    | nil => exact fun _ h => h
    | cons q r ih => exact fun b h => ih _ (Build.offer_canonical h)
  exact key order _ h

theorem farFetches_canonical (s : State) (p : Nat) (plan : List (Nat × Bool)) (work : List (Nat × Nat × Nat)) (h_s : Canonical s) :
    Canonical (State.farFetches s p plan work).1 := by
  unfold State.farFetches
  repeat' (first
    | intro _ | with_reducible assumption | with_reducible apply committed_canonical
    | with_reducible apply evictCommit_canonical
    | with_reducible refine evictCommit_canonical_eq (by with_reducible assumption) ?_
    | with_reducible apply failBlock_canonical | with_reducible apply farPlan_canonical
    | with_reducible refine farPlan_canonical_eq (by with_reducible assumption) ?_
    | with_reducible apply markKvLost_canonical | with_reducible apply pin_canonical
    | with_reducible refine pin_canonical_eq (by with_reducible assumption) ?_ | with_reducible apply canonical_ite
    | with_reducible apply canonical_ite_fst | with_reducible apply canonical_ite_snd
    | with_reducible refine canonical_foldl ?_ ?_ | with_reducible refine canonical_foldl_snd ?_ ?_
    | with_reducible refine canonical_foldl_fst ?_ ?_ | with_reducible refine canonical_getD ?_ ?_
    | simp only [canonical_mk] | with_reducible refine canonicalOpt_eq (by with_reducible assumption) ?_
    | with_reducible refine canonicalOptFst_eq (by with_reducible assumption) ?_
    | with_reducible refine canonicalOptFst_eq_1 (by with_reducible assumption) ?_ | split
    | with_reducible apply canonicalOpt_none | with_reducible apply canonicalOpt_some
    | with_reducible apply canonicalOpt_map | with_reducible apply canonicalOpt_ite
    | with_reducible apply canonicalOpt_bind | with_reducible apply canonicalOpt_foldl
    | with_reducible apply canonicalOpt_bind_fst | with_reducible apply canonicalOpt_bind_any
    | with_reducible apply canonicalOptFst_none | with_reducible apply canonicalOptFst_some
    | with_reducible apply canonicalOptFst_map | with_reducible apply canonicalOptFst_ite
    | with_reducible apply canonicalOptFst_bind | with_reducible apply canonicalOptFst_foldl
    | with_reducible apply canonicalOptFst_bind_opt | with_reducible apply canonicalOptFst_bind_any
    | with_reducible apply canonicalOptSnd_none | with_reducible apply canonicalOptSnd_some
    | with_reducible apply canonicalOptSnd_ite)

theorem farFetches_canonical_eq {s : State} {p : Nat} {plan : List (Nat × Bool)} {work : List (Nat × Nat × Nat)} {t_ a1_} (h_eq : State.farFetches s p plan work = (t_, a1_))
    (h_s : Canonical s) : Canonical t_ := by
  have h_p := farFetches_canonical s p plan work h_s
  rw [h_eq] at h_p; exact h_p

theorem readNear_canonical (s : State) (p : Nat) (h_s : Canonical s) :
    Canonical (State.readNear s p) := by
  unfold State.readNear
  repeat' (first
    | intro _ | with_reducible assumption | with_reducible apply failBlock_canonical
    | with_reducible apply markKvLost_canonical | with_reducible apply maskSeq_canonical
    | with_reducible apply canonical_ite | with_reducible apply canonical_ite_fst | with_reducible apply canonical_ite_snd
    | with_reducible refine canonical_foldl ?_ ?_ | with_reducible refine canonical_foldl_snd ?_ ?_
    | with_reducible refine canonical_foldl_fst ?_ ?_ | with_reducible refine canonical_getD ?_ ?_
    | simp only [canonical_mk] | with_reducible refine canonicalOpt_eq (by with_reducible assumption) ?_
    | with_reducible refine canonicalOptFst_eq (by with_reducible assumption) ?_
    | with_reducible refine canonicalOptFst_eq_1 (by with_reducible assumption) ?_ | split
    | with_reducible apply canonicalOpt_none | with_reducible apply canonicalOpt_some
    | with_reducible apply canonicalOpt_map | with_reducible apply canonicalOpt_ite
    | with_reducible apply canonicalOpt_bind | with_reducible apply canonicalOpt_foldl
    | with_reducible apply canonicalOpt_bind_fst | with_reducible apply canonicalOpt_bind_any
    | with_reducible apply canonicalOptFst_none | with_reducible apply canonicalOptFst_some
    | with_reducible apply canonicalOptFst_map | with_reducible apply canonicalOptFst_ite
    | with_reducible apply canonicalOptFst_bind | with_reducible apply canonicalOptFst_foldl
    | with_reducible apply canonicalOptFst_bind_opt | with_reducible apply canonicalOptFst_bind_any
    | with_reducible apply canonicalOptSnd_none | with_reducible apply canonicalOptSnd_some
    | with_reducible apply canonicalOptSnd_ite)

theorem beginStep_canonical (s : State) (p : Nat) (h_s : Canonical s) :
    Canonical (State.beginStep s p) := by
  unfold State.beginStep
  repeat' (first
    | intro _ | with_reducible assumption | with_reducible apply farFetches_canonical
    | with_reducible refine farFetches_canonical_eq (by with_reducible assumption) ?_
    | with_reducible apply lostUnders_canonical | with_reducible apply readNear_canonical
    | with_reducible apply setRunner_canonical | with_reducible apply startLayer_canonical
    | with_reducible apply canonical_ite | with_reducible apply canonical_ite_fst | with_reducible apply canonical_ite_snd
    | simp only [canonical_mk] | split)

theorem againStep_canonical (s : State) (p : Nat) (h_s : Canonical s) :
    Canonical (State.againStep s p) := by
  unfold State.againStep
  repeat' (first
    | intro _ | with_reducible assumption | with_reducible apply beginStep_canonical
    | with_reducible apply setRunner_canonical | with_reducible apply setSeq_canonical
    | with_reducible apply canonical_ite | with_reducible refine canonical_foldl ?_ ?_
    | with_reducible refine canonical_foldl_snd ?_ ?_ | with_reducible refine canonical_foldl_fst ?_ ?_
    | simp only [canonical_mk] | split)

theorem startJob_canonical (s : State) (p : Nat) (j : ModelJob) (h_s : Canonical s) :
    Canonical (State.startJob s p j) := by
  unfold State.startJob
  repeat' (first
    | intro _ | with_reducible assumption | with_reducible apply beginStep_canonical
    | with_reducible apply endCmd_canonical | with_reducible apply setPart_canonical
    | with_reducible apply setRunner_canonical | with_reducible apply canonical_ite | simp only [canonical_mk] | split)

theorem startGen_canonical (s : State) (p : Nat) (h_s : Canonical s) :
    Canonical (State.startGen s p) := by
  unfold State.startGen
  repeat' (first
    | intro _ | with_reducible assumption | with_reducible apply beginStep_canonical
    | with_reducible apply countRows_canonical | with_reducible apply freeEnded_canonical
    | with_reducible apply hold_canonical | with_reducible apply setPart_canonical
    | with_reducible apply setRunner_canonical | with_reducible apply buildList_canonical
    | with_reducible apply canonical_ite | with_reducible apply canonical_ite_fst | with_reducible apply canonical_ite_snd
    | with_reducible refine canonical_getD ?_ ?_ | simp only [canonical_mk]
    | with_reducible refine canonicalOpt_eq (by with_reducible assumption) ?_
    | with_reducible refine canonicalOptFst_eq (by with_reducible assumption) ?_
    | with_reducible refine canonicalOptFst_eq_1 (by with_reducible assumption) ?_ | split
    | with_reducible apply canonicalOpt_none | with_reducible apply canonicalOpt_some
    | with_reducible apply canonicalOpt_map | with_reducible apply canonicalOpt_ite
    | with_reducible apply canonicalOpt_bind | with_reducible apply canonicalOpt_foldl
    | with_reducible apply canonicalOpt_bind_fst | with_reducible apply canonicalOpt_bind_any
    | with_reducible apply canonicalOptFst_none | with_reducible apply canonicalOptFst_some
    | with_reducible apply canonicalOptFst_map | with_reducible apply canonicalOptFst_ite
    | with_reducible apply canonicalOptFst_bind | with_reducible apply canonicalOptFst_foldl
    | with_reducible apply canonicalOptFst_bind_opt | with_reducible apply canonicalOptFst_bind_any
    | with_reducible apply canonicalOptSnd_none | with_reducible apply canonicalOptSnd_some
    | with_reducible apply canonicalOptSnd_ite)

theorem startStep_canonical (s : State) (p : Nat) (h_s : Canonical s) :
    Canonical (State.startStep s p) := by
  unfold State.startStep
  repeat' (first
    | intro _ | with_reducible assumption | with_reducible apply startGen_canonical
    | with_reducible apply startJob_canonical | with_reducible apply canonical_ite | simp only [canonical_mk] | split)

theorem stepBoundaryStep_canonical (p : Nat) (s0 : State) (h_s0 : Canonical s0) :
    Canonical (stepBoundaryStep p s0) := by
  unfold stepBoundaryStep
  repeat' (first
    | intro _ | with_reducible assumption | with_reducible apply atBoundary_canonical
    | with_reducible apply completeStep_canonical | with_reducible apply settleLathes_canonical
    | with_reducible apply startStep_canonical | with_reducible apply canonical_ite
    | with_reducible apply canonical_ite_fst | with_reducible apply canonical_ite_snd | simp only [canonical_mk] | split)

theorem latheBufferErrorStep_canonical (tear : Nat → Nat → State → State) (n : Nat) (e : LatheError) (buf : LatheBuf) (slot : Nat) (word : Nat) (s : State) (h_tear : ∀ (x0 : Nat), ∀ (x1 : Nat), ∀ (x2 : State), Canonical x2 → Canonical (tear x0 x1 x2)) (h_s : Canonical s) :
    Canonical (latheBufferErrorStep tear n e buf slot word s) := by
  unfold latheBufferErrorStep
  repeat' (first
    | intro _ | with_reducible assumption | with_reducible apply h_tear | with_reducible apply abortKernels_canonical
    | with_reducible apply againStep_canonical | with_reducible apply event_canonical
    | with_reducible apply lthLogPut_canonical | with_reducible apply report_canonical
    | with_reducible apply setRunner_canonical | with_reducible apply canonical_ite
    | with_reducible refine canonical_getD ?_ ?_ | simp only [canonical_mk] | split)

end Sys2Proof.Machine
end

