-- ==== Sys2Proof/Laws/CanonicalEmbedding.lean ====
section
/-! SUPPORT. Every operation of Machine/Embedding.lean keeps the canonical forms of memory and of the registers. -/

set_option simprocs false
set_option linter.unusedTactic false
set_option linter.unusedSimpArgs false
set_option linter.unreachableTactic false

namespace Sys2Proof.Machine

theorem setVer_canonical (s : State) (i : Nat) (v : Nat) (f : EmbVer → EmbVer) (h_s : Canonical s) :
    Canonical (State.setVer s i v f) := by
  unfold State.setVer
  repeat' (first
    | intro _ | with_reducible assumption | with_reducible apply canonical_ite | with_reducible apply canonical_ite_fst
    | with_reducible apply canonical_ite_snd | simp only [canonical_mk]
    | with_reducible refine canonicalOpt_eq (by with_reducible assumption) ?_
    | with_reducible refine canonicalOptFst_eq (by with_reducible assumption) ?_
    | with_reducible refine canonicalOptFst_eq_1 (by with_reducible assumption) ?_ | split
    | with_reducible apply canonicalOpt_none | with_reducible apply canonicalOpt_some
    | with_reducible apply canonicalOpt_map | with_reducible apply canonicalOpt_ite
    | with_reducible apply canonicalOpt_bind | with_reducible apply canonicalOpt_foldl
    | with_reducible apply canonicalOpt_bind_fst | with_reducible apply canonicalOpt_bind_any
    | with_reducible apply canonicalOptFst_none | with_reducible apply canonicalOptFst_some
    | with_reducible apply canonicalOptFst_map | with_reducible apply canonicalOptFst_ite
    | with_reducible apply canonicalOptFst_bind | with_reducible apply canonicalOptFst_foldl
    | with_reducible apply canonicalOptFst_bind_opt | with_reducible apply canonicalOptFst_bind_any
    | with_reducible apply canonicalOptSnd_none | with_reducible apply canonicalOptSnd_some
    | with_reducible apply canonicalOptSnd_ite)

theorem bodyMemWrite_canonical (c : Cmd) (s : State) (h_s : Canonical s) :
    Canonical (bodyMemWrite c s) := by
  unfold bodyMemWrite
  repeat' (first
    | intro _ | with_reducible assumption | with_reducible apply memWriteAt_canonical | with_reducible apply canonical_ite
    | simp only [canonical_mk] | split)

theorem bodyMemRead_canonical (c : Cmd) (s : State) (h_s : Canonical s) :
    Canonical (bodyMemRead c s) := by
  unfold bodyMemRead
  repeat' (first
    | intro _ | with_reducible assumption | with_reducible apply memReadAt_canonical | with_reducible apply canonical_ite
    | simp only [canonical_mk] | split)

theorem putHot_canonical (s : State) (p : Nat) (v : EmbVer) (i : Nat) (e : Nat) (h_s : Canonical s) :
    Canonical (State.putHot s p v i e) := by
  unfold State.putHot
  repeat' (first
    | intro _ | with_reducible assumption | with_reducible apply store_canonical | with_reducible apply canonical_ite
    | simp only [canonical_mk] | split)

theorem addHot_canonical (s : State) (p : Nat) (v : EmbVer) (row : Nat) (slot : Nat) (h_s : Canonical s) :
    Canonical (State.addHot s p v row slot) := by
  unfold State.addHot
  repeat' (first
    | intro _ | with_reducible assumption | with_reducible apply putHot_canonical | with_reducible apply canonical_ite
    | simp only [canonical_mk] | split)

theorem reseat_canonical (s : State) (p : Nat) (v : EmbVer) (y0 : Nat) (y1 : Nat) (h_s : Canonical s) :
    Canonical (State.reseat s p v y0 y1) := by
  revert h_s
  fun_induction State.reseat s p v y0 y1 <;> intro h_s
  all_goals
    repeat' (first
      | intro _ | with_reducible assumption | with_reducible apply_assumption -exfalso -symm
      | with_reducible apply addHot_canonical | with_reducible apply putHot_canonical | with_reducible apply canonical_ite
      | simp only [canonical_mk] | split | (simp +zetaDelta only [canonical_mk]; done)
      | simp +zetaDelta only [canonical_mk])

theorem clearHot_canonical (s : State) (p : Nat) (v : EmbVer) (row : Nat) (h_s : Canonical s) :
    Canonical (State.clearHot s p v row) := by
  unfold State.clearHot
  repeat' (first
    | intro _ | with_reducible assumption | with_reducible apply putHot_canonical | with_reducible apply reseat_canonical
    | with_reducible apply canonical_ite | simp only [canonical_mk] | split)

theorem embUe_canonical (s : State) (op : Nat) (p : Nat) (a : Nat) (h_s : Canonical s) :
    Canonical (State.embUe s op p a) := by
  unfold State.embUe
  repeat' (first
    | intro _ | with_reducible assumption | with_reducible apply event_canonical | with_reducible apply memUe_canonical
    | with_reducible apply canonical_ite | simp only [canonical_mk] | split)

theorem refuseRows_canonical (s : State) (c : Cmd) (v : EmbVer) (y0 : RowStop) (h_s : Canonical s) :
    Canonical (State.refuseRows s c v y0) := by
  unfold State.refuseRows
  repeat' (first
    | intro _ | with_reducible assumption | with_reducible apply embUe_canonical | with_reducible apply event_canonical
    | with_reducible apply refuse_canonical | with_reducible apply refuseHint_canonical
    | with_reducible apply canonical_ite | simp only [canonical_mk] | split)

theorem clearDir_canonical (s : State) (p : Nat) (v : EmbVer) (h_s : Canonical s) :
    Canonical (State.clearDir s p v) := by
  unfold State.clearDir
  repeat' (first
    | intro _ | with_reducible assumption | with_reducible apply store_canonical | with_reducible apply canonical_ite
    | simp only [canonical_mk] | split)

theorem embOpen_canonical (s : State) (c : Cmd) (k : State → State) (h_s : Canonical s) (h_k : ∀ (x0 : State), Canonical x0 → Canonical (k x0)) :
    Canonical (State.embOpen s c k) := by
  unfold State.embOpen
  repeat' (first
    | intro _ | with_reducible assumption | with_reducible apply h_k | with_reducible apply refuseNotReady_canonical
    | with_reducible apply canonical_ite | simp only [canonical_mk] | split)

theorem bodyEmbTableCreate_canonical (c : Cmd) (s : State) (h_s : Canonical s) :
    Canonical (bodyEmbTableCreate c s) := by
  unfold bodyEmbTableCreate
  repeat' (first
    | intro _ | with_reducible assumption | with_reducible apply clearDir_canonical
    | with_reducible apply embOpen_canonical | with_reducible apply refuse_canonical
    | with_reducible apply reply_canonical | with_reducible apply canonical_ite
    | with_reducible refine canonical_getD ?_ ?_ | simp only [canonical_mk]
    | with_reducible refine canonicalOpt_eq (by with_reducible assumption) ?_
    | with_reducible refine canonicalOptFst_eq (by with_reducible assumption) ?_
    | with_reducible refine canonicalOptFst_eq_1 (by with_reducible assumption) ?_ | split
    | with_reducible apply canonicalOpt_none | with_reducible apply canonicalOpt_some
    | with_reducible apply canonicalOpt_map | with_reducible apply canonicalOpt_ite
    | with_reducible apply canonicalOpt_bind | with_reducible apply canonicalOpt_foldl
    | with_reducible apply canonicalOpt_bind_fst | with_reducible apply canonicalOpt_bind_any
    | with_reducible apply canonicalOptFst_none | with_reducible apply canonicalOptFst_some
    | with_reducible apply canonicalOptFst_map | with_reducible apply canonicalOptFst_ite
    | with_reducible apply canonicalOptFst_bind | with_reducible apply canonicalOptFst_foldl
    | with_reducible apply canonicalOptFst_bind_opt | with_reducible apply canonicalOptFst_bind_any
    | with_reducible apply canonicalOptSnd_none | with_reducible apply canonicalOptSnd_some
    | with_reducible apply canonicalOptSnd_ite)

theorem bodyEmbTableReplace_canonical (c : Cmd) (s : State) (h_s : Canonical s) :
    Canonical (bodyEmbTableReplace c s) := by
  unfold bodyEmbTableReplace
  repeat' (first
    | intro _ | with_reducible assumption | with_reducible apply embOpen_canonical | with_reducible apply refuse_canonical
    | with_reducible apply refuseBusy_canonical | with_reducible apply canonical_ite
    | with_reducible apply canonical_ite_fst | with_reducible apply canonical_ite_snd | simp only [canonical_mk] | split)

theorem installTables_canonical (s : State) (h_s : Canonical s) :
    Canonical (State.installTables s) := by
  unfold State.installTables
  repeat' (first
    | intro _ | with_reducible assumption | with_reducible apply clearDir_canonical | with_reducible apply canonical_ite
    | with_reducible refine canonical_foldl ?_ ?_ | with_reducible refine canonical_foldl_snd ?_ ?_
    | with_reducible refine canonical_foldl_fst ?_ ?_ | simp only [canonical_mk] | split)

theorem tableDrainCompleteStep_canonical (id : Nat) (s : State) (h_s : Canonical s) :
    Canonical (tableDrainCompleteStep id s) := by
  unfold tableDrainCompleteStep
  repeat' (first
    | intro _ | with_reducible assumption | with_reducible apply endWith_canonical | with_reducible apply canonical_ite
    | simp only [canonical_mk] | split)

theorem bodyEmbTableDrop_canonical (c : Cmd) (s : State) (h_s : Canonical s) :
    Canonical (bodyEmbTableDrop c s) := by
  unfold bodyEmbTableDrop
  repeat' (first
    | intro _ | with_reducible assumption | with_reducible apply embOpen_canonical | with_reducible apply refuse_canonical
    | with_reducible apply refuseBusy_canonical | with_reducible apply shaped_canonical
    | with_reducible apply canonical_ite | simp only [canonical_mk] | split)

theorem embReads_canonical (s : State) (op : Nat) (p : Nat) (rs : List (Nat × Nat)) (h_s : Canonical s) :
    Canonical (State.embReads s op p rs) := by
  unfold State.embReads
  repeat' (first
    | intro _ | with_reducible assumption | with_reducible apply event_canonical | with_reducible apply memCe_canonical
    | with_reducible apply canonical_ite | with_reducible apply canonical_ite_fst | with_reducible apply canonical_ite_snd
    | with_reducible refine canonical_foldl ?_ ?_ | with_reducible refine canonical_foldl_snd ?_ ?_
    | with_reducible refine canonical_foldl_fst ?_ ?_ | simp only [canonical_mk] | split)

theorem gatherReads_canonical (s : State) (p : Nat) (v : EmbVer) (rows : List Nat) (h_s : Canonical s) :
    Canonical (State.gatherReads s p v rows) := by
  unfold State.gatherReads
  repeat' (first
    | intro _ | with_reducible assumption | with_reducible apply embReads_canonical | with_reducible apply canonical_ite
    | simp only [canonical_mk] | with_reducible refine canonicalOpt_eq (by with_reducible assumption) ?_
    | with_reducible refine canonicalOptFst_eq (by with_reducible assumption) ?_
    | with_reducible refine canonicalOptFst_eq_1 (by with_reducible assumption) ?_ | split
    | with_reducible apply canonicalOpt_none | with_reducible apply canonicalOpt_some
    | with_reducible apply canonicalOpt_map | with_reducible apply canonicalOpt_ite
    | with_reducible apply canonicalOpt_bind | with_reducible apply canonicalOpt_foldl
    | with_reducible apply canonicalOpt_bind_fst | with_reducible apply canonicalOpt_bind_any
    | with_reducible apply canonicalOptFst_none | with_reducible apply canonicalOptFst_some
    | with_reducible apply canonicalOptFst_map | with_reducible apply canonicalOptFst_ite
    | with_reducible apply canonicalOptFst_bind | with_reducible apply canonicalOptFst_foldl
    | with_reducible apply canonicalOptFst_bind_opt | with_reducible apply canonicalOptFst_bind_any
    | with_reducible apply canonicalOptSnd_none | with_reducible apply canonicalOptSnd_some
    | with_reducible apply canonicalOptSnd_ite)

theorem bodyEmbGather_canonical (c : Cmd) (s : State) (h_s : Canonical s) :
    Canonical (bodyEmbGather c s) := by
  unfold bodyEmbGather
  repeat' (first
    | intro _ | with_reducible assumption | with_reducible apply bump_canonical | with_reducible apply embOpen_canonical
    | with_reducible apply embUe_canonical | with_reducible apply gatherReads_canonical
    | with_reducible apply refuse_canonical | with_reducible apply refuseRows_canonical
    | with_reducible apply replyData_canonical | with_reducible apply canonical_ite | simp only [canonical_mk]
    | with_reducible refine canonicalOpt_eq (by with_reducible assumption) ?_
    | with_reducible refine canonicalOptFst_eq (by with_reducible assumption) ?_
    | with_reducible refine canonicalOptFst_eq_1 (by with_reducible assumption) ?_ | split
    | with_reducible apply canonicalOpt_none | with_reducible apply canonicalOpt_some
    | with_reducible apply canonicalOpt_map | with_reducible apply canonicalOpt_ite
    | with_reducible apply canonicalOpt_bind | with_reducible apply canonicalOpt_foldl
    | with_reducible apply canonicalOpt_bind_fst | with_reducible apply canonicalOpt_bind_any
    | with_reducible apply canonicalOptFst_none | with_reducible apply canonicalOptFst_some
    | with_reducible apply canonicalOptFst_map | with_reducible apply canonicalOptFst_ite
    | with_reducible apply canonicalOptFst_bind | with_reducible apply canonicalOptFst_foldl
    | with_reducible apply canonicalOptFst_bind_opt | with_reducible apply canonicalOptFst_bind_any
    | with_reducible apply canonicalOptSnd_none | with_reducible apply canonicalOptSnd_some
    | with_reducible apply canonicalOptSnd_ite)

theorem updateRow_canonical (s : State) (v : EmbVer) (kind : Nat) (h : RowParams) (x : RowLoc) (gs : List F32) (h_s : Canonical s) :
    CanonicalOpt (State.updateRow s v kind h x gs) := by
  unfold State.updateRow
  repeat' (first
    | intro _ | with_reducible assumption | with_reducible apply store_canonical | with_reducible apply canonical_ite
    | with_reducible apply canonical_ite_fst | with_reducible apply canonical_ite_snd
    | with_reducible refine canonical_getD ?_ ?_ | with_reducible apply canonicalOpt_none
    | with_reducible apply canonicalOpt_some | with_reducible apply canonicalOpt_map
    | with_reducible apply canonicalOpt_ite | with_reducible apply canonicalOpt_bind
    | with_reducible apply canonicalOpt_foldl | with_reducible apply canonicalOpt_bind_fst
    | with_reducible apply canonicalOpt_bind_any | simp only [canonical_mk]
    | with_reducible refine canonicalOpt_eq (by with_reducible assumption) ?_
    | with_reducible refine canonicalOptFst_eq (by with_reducible assumption) ?_
    | with_reducible refine canonicalOptFst_eq_1 (by with_reducible assumption) ?_ | split
    | with_reducible apply canonicalOptFst_none | with_reducible apply canonicalOptFst_some
    | with_reducible apply canonicalOptFst_map | with_reducible apply canonicalOptFst_ite
    | with_reducible apply canonicalOptFst_bind | with_reducible apply canonicalOptFst_foldl
    | with_reducible apply canonicalOptFst_bind_opt | with_reducible apply canonicalOptFst_bind_any
    | with_reducible apply canonicalOptSnd_none | with_reducible apply canonicalOptSnd_some
    | with_reducible apply canonicalOptSnd_ite)

theorem updateRow_canonical_eq {s : State} {v : EmbVer} {kind : Nat} {h : RowParams} {x : RowLoc} {gs : List F32} {t : State} (h_eq : State.updateRow s v kind h x gs = some t)
    (h_s : Canonical s) : Canonical t :=
  (updateRow_canonical s v kind h x gs h_s).elim t h_eq

theorem setEmbJob_canonical (s : State) (id : Nat) (f : EmbJob → EmbJob) (h_s : Canonical s) :
    Canonical (State.setEmbJob s id f) := by
  unfold State.setEmbJob
  repeat' (first
    | intro _ | with_reducible assumption | with_reducible apply canonical_ite | simp only [canonical_mk] | split)

theorem applyUpdate_canonical (s : State) (p : Nat) (v : EmbVer) (j : EmbJob) (x : RowLoc) (gs : List F32) (h_s : Canonical s) :
    Canonical (State.applyUpdate s p v j x gs) := by
  unfold State.applyUpdate
  repeat' (first
    | intro _ | with_reducible assumption | with_reducible apply bump_canonical | with_reducible apply embReads_canonical
    | with_reducible apply embUe_canonical | with_reducible apply setEmbJob_canonical
    | with_reducible apply updateRow_canonical
    | with_reducible refine updateRow_canonical_eq (by with_reducible assumption) ?_ | with_reducible apply canonical_ite
    | with_reducible apply canonical_ite_fst | with_reducible apply canonical_ite_snd
    | with_reducible refine canonical_getD ?_ ?_ | simp only [canonical_mk]
    | with_reducible refine canonicalOpt_eq (by with_reducible assumption) ?_
    | with_reducible refine canonicalOptFst_eq (by with_reducible assumption) ?_
    | with_reducible refine canonicalOptFst_eq_1 (by with_reducible assumption) ?_ | split
    | with_reducible apply canonicalOpt_none | with_reducible apply canonicalOpt_some
    | with_reducible apply canonicalOpt_map | with_reducible apply canonicalOpt_ite
    | with_reducible apply canonicalOpt_bind | with_reducible apply canonicalOpt_foldl
    | with_reducible apply canonicalOpt_bind_fst | with_reducible apply canonicalOpt_bind_any
    | with_reducible apply canonicalOptFst_none | with_reducible apply canonicalOptFst_some
    | with_reducible apply canonicalOptFst_map | with_reducible apply canonicalOptFst_ite
    | with_reducible apply canonicalOptFst_bind | with_reducible apply canonicalOptFst_foldl
    | with_reducible apply canonicalOptFst_bind_opt | with_reducible apply canonicalOptFst_bind_any
    | with_reducible apply canonicalOptSnd_none | with_reducible apply canonicalOptSnd_some
    | with_reducible apply canonicalOptSnd_ite)

theorem claimSlot_canonical (s : State) (j : EmbJob) (h_s : Canonical s) :
    CanonicalOpt (State.claimSlot s j) := by
  unfold State.claimSlot
  repeat' (first
    | intro _ | with_reducible assumption | with_reducible apply setEmbJob_canonical | with_reducible apply canonical_ite
    | with_reducible refine canonical_foldl ?_ ?_ | with_reducible refine canonical_foldl_snd ?_ ?_
    | with_reducible refine canonical_foldl_fst ?_ ?_ | with_reducible apply canonicalOpt_none
    | with_reducible apply canonicalOpt_some | with_reducible apply canonicalOpt_map
    | with_reducible apply canonicalOpt_ite | with_reducible apply canonicalOpt_bind
    | with_reducible apply canonicalOpt_foldl | with_reducible apply canonicalOpt_bind_fst
    | with_reducible apply canonicalOpt_bind_any | simp only [canonical_mk]
    | with_reducible refine canonicalOpt_eq (by with_reducible assumption) ?_
    | with_reducible refine canonicalOptFst_eq (by with_reducible assumption) ?_
    | with_reducible refine canonicalOptFst_eq_1 (by with_reducible assumption) ?_ | split
    | with_reducible apply canonicalOptFst_none | with_reducible apply canonicalOptFst_some
    | with_reducible apply canonicalOptFst_map | with_reducible apply canonicalOptFst_ite
    | with_reducible apply canonicalOptFst_bind | with_reducible apply canonicalOptFst_foldl
    | with_reducible apply canonicalOptFst_bind_opt | with_reducible apply canonicalOptFst_bind_any
    | with_reducible apply canonicalOptSnd_none | with_reducible apply canonicalOptSnd_some
    | with_reducible apply canonicalOptSnd_ite)

theorem claimSlot_canonical_eq {s : State} {j : EmbJob} {t : State} (h_eq : State.claimSlot s j = some t)
    (h_s : Canonical s) : Canonical t :=
  (claimSlot_canonical s j h_s).elim t h_eq

theorem embFinish_canonical (s : State) (id : Nat) (h_s : Canonical s) :
    Canonical (State.embFinish s id) := by
  unfold State.embFinish
  repeat' (first
    | intro _ | with_reducible assumption | with_reducible apply refuse_canonical | with_reducible apply canonical_ite
    | simp only [canonical_mk] | split)

theorem embItem_canonical (s : State) (p : Nat) (v : EmbVer) (id : Nat) (item : Nat × List F32) (h_s : Canonical s) :
    Canonical (State.embItem s p v id item) := by
  unfold State.embItem
  repeat' (first
    | intro _ | with_reducible assumption | with_reducible apply applyUpdate_canonical
    | with_reducible apply bump_canonical | with_reducible apply embUe_canonical | with_reducible apply event_canonical
    | with_reducible apply log_canonical | with_reducible apply setEmbJob_canonical | with_reducible apply canonical_ite
    | with_reducible apply canonical_ite_fst | with_reducible apply canonical_ite_snd | simp only [canonical_mk] | split)

theorem embRun_canonical (s : State) (id : Nat) (h_s : Canonical s) :
    Canonical (State.embRun s id) := by
  unfold State.embRun
  repeat' (first
    | intro _ | with_reducible assumption | with_reducible apply claimSlot_canonical
    | with_reducible refine claimSlot_canonical_eq (by with_reducible assumption) ?_
    | with_reducible apply embFinish_canonical | with_reducible apply embItem_canonical
    | with_reducible apply setEmbJob_canonical | with_reducible apply canonical_ite
    | with_reducible refine canonical_foldl ?_ ?_ | with_reducible refine canonical_foldl_snd ?_ ?_
    | with_reducible refine canonical_foldl_fst ?_ ?_ | simp only [canonical_mk]
    | with_reducible refine canonicalOpt_eq (by with_reducible assumption) ?_
    | with_reducible refine canonicalOptFst_eq (by with_reducible assumption) ?_
    | with_reducible refine canonicalOptFst_eq_1 (by with_reducible assumption) ?_ | split
    | with_reducible apply canonicalOpt_none | with_reducible apply canonicalOpt_some
    | with_reducible apply canonicalOpt_map | with_reducible apply canonicalOpt_ite
    | with_reducible apply canonicalOpt_bind | with_reducible apply canonicalOpt_foldl
    | with_reducible apply canonicalOpt_bind_fst | with_reducible apply canonicalOpt_bind_any
    | with_reducible apply canonicalOptFst_none | with_reducible apply canonicalOptFst_some
    | with_reducible apply canonicalOptFst_map | with_reducible apply canonicalOptFst_ite
    | with_reducible apply canonicalOptFst_bind | with_reducible apply canonicalOptFst_foldl
    | with_reducible apply canonicalOptFst_bind_opt | with_reducible apply canonicalOptFst_bind_any
    | with_reducible apply canonicalOptSnd_none | with_reducible apply canonicalOptSnd_some
    | with_reducible refine canonical_pair_eq (by with_reducible assumption) ?_ | with_reducible apply canonicalOptSnd_ite
    | with_reducible apply canonical_ite_fst)

theorem embPump_canonical (s : State) (h_s : Canonical s) :
    Canonical (State.embPump s) := by
  unfold State.embPump
  repeat' (first
    | intro _ | with_reducible assumption | with_reducible apply embRun_canonical | with_reducible apply canonical_ite
    | with_reducible refine canonical_foldl ?_ ?_ | with_reducible refine canonical_foldl_snd ?_ ?_
    | with_reducible refine canonical_foldl_fst ?_ ?_ | simp only [canonical_mk]
    | with_reducible refine canonicalOpt_eq (by with_reducible assumption) ?_
    | with_reducible refine canonicalOptFst_eq (by with_reducible assumption) ?_
    | with_reducible refine canonicalOptFst_eq_1 (by with_reducible assumption) ?_ | split
    | with_reducible apply canonicalOpt_none | with_reducible apply canonicalOpt_some
    | with_reducible apply canonicalOpt_map | with_reducible apply canonicalOpt_ite
    | with_reducible apply canonicalOpt_bind | with_reducible apply canonicalOpt_foldl
    | with_reducible apply canonicalOpt_bind_fst | with_reducible apply canonicalOpt_bind_any
    | with_reducible apply canonicalOptFst_none | with_reducible apply canonicalOptFst_some
    | with_reducible apply canonicalOptFst_map | with_reducible apply canonicalOptFst_ite
    | with_reducible apply canonicalOptFst_bind | with_reducible apply canonicalOptFst_foldl
    | with_reducible apply canonicalOptFst_bind_opt | with_reducible apply canonicalOptFst_bind_any
    | with_reducible apply canonicalOptSnd_none | with_reducible apply canonicalOptSnd_some
    | with_reducible apply canonicalOptSnd_ite)

theorem paramSlotClaimStep_canonical (id : Nat) (s : State) (h_s : Canonical s) :
    Canonical (paramSlotClaimStep id s) := by
  unfold paramSlotClaimStep
  repeat' (first
    | intro _ | with_reducible assumption | with_reducible apply embPump_canonical | with_reducible apply embRun_canonical
    | with_reducible apply canonical_ite | simp only [canonical_mk] | split)

theorem migrationLogResumeStep_canonical (id : Nat) (s : State) (h_s : Canonical s) :
    Canonical (migrationLogResumeStep id s) := by
  unfold migrationLogResumeStep
  repeat' (first
    | intro _ | with_reducible assumption | with_reducible apply embPump_canonical | with_reducible apply embRun_canonical
    | with_reducible apply canonical_ite | simp only [canonical_mk] | split)

theorem startUpdate_canonical (s : State) (c : Cmd) (t : EmbTable) (v : EmbVer) (kind : Nat) (words : List Byte) (off : Nat) (n : Nat) (h_s : Canonical s) :
    Canonical (State.startUpdate s c t v kind words off n) := by
  unfold State.startUpdate
  repeat' (first
    | intro _ | with_reducible assumption | with_reducible apply bump_canonical | with_reducible apply embRun_canonical
    | with_reducible apply refuseRows_canonical | with_reducible apply canonical_ite
    | with_reducible apply canonical_ite_fst | with_reducible apply canonical_ite_snd | simp only [canonical_mk]
    | with_reducible refine canonicalOpt_eq (by with_reducible assumption) ?_
    | with_reducible refine canonicalOptFst_eq (by with_reducible assumption) ?_
    | with_reducible refine canonicalOptFst_eq_1 (by with_reducible assumption) ?_ | split
    | with_reducible apply canonicalOpt_none | with_reducible apply canonicalOpt_some
    | with_reducible apply canonicalOpt_map | with_reducible apply canonicalOpt_ite
    | with_reducible apply canonicalOpt_bind | with_reducible apply canonicalOpt_foldl
    | with_reducible apply canonicalOpt_bind_fst | with_reducible apply canonicalOpt_bind_any
    | with_reducible apply canonicalOptFst_none | with_reducible apply canonicalOptFst_some
    | with_reducible apply canonicalOptFst_map | with_reducible apply canonicalOptFst_ite
    | with_reducible apply canonicalOptFst_bind | with_reducible apply canonicalOptFst_foldl
    | with_reducible apply canonicalOptFst_bind_opt | with_reducible apply canonicalOptFst_bind_any
    | with_reducible apply canonicalOptSnd_none | with_reducible apply canonicalOptSnd_some
    | with_reducible apply canonicalOptSnd_ite)

theorem bodyEmbScatterAdd_canonical (c : Cmd) (s : State) (h_s : Canonical s) :
    Canonical (bodyEmbScatterAdd c s) := by
  unfold bodyEmbScatterAdd
  repeat' (first
    | intro _ | with_reducible assumption | with_reducible apply embOpen_canonical | with_reducible apply refuse_canonical
    | with_reducible apply startUpdate_canonical | with_reducible apply canonical_ite | simp only [canonical_mk] | split)

theorem bodyEmbUpdate_canonical (c : Cmd) (s : State) (h_s : Canonical s) :
    Canonical (bodyEmbUpdate c s) := by
  unfold bodyEmbUpdate
  repeat' (first
    | intro _ | with_reducible assumption | with_reducible apply embOpen_canonical | with_reducible apply refuse_canonical
    | with_reducible apply startUpdate_canonical | with_reducible apply canonical_ite | simp only [canonical_mk] | split)

theorem setHotJob_canonical (s : State) (id : Nat) (f : HotJob → HotJob) (h_s : Canonical s) :
    Canonical (State.setHotJob s id f) := by
  unfold State.setHotJob
  repeat' (first
    | intro _ | with_reducible assumption | with_reducible apply canonical_ite | simp only [canonical_mk] | split)

theorem startAdd_canonical (s : State) (j : HotJob) (row : Nat) (h_s : Canonical s) :
    Canonical (State.startAdd s j row) := by
  unfold State.startAdd
  repeat' (first
    | intro _ | with_reducible assumption | with_reducible apply setHotJob_canonical
    | with_reducible apply setVer_canonical | with_reducible apply canonical_ite | with_reducible apply canonical_ite_fst
    | with_reducible apply canonical_ite_snd | simp only [canonical_mk]
    | with_reducible refine canonicalOpt_eq (by with_reducible assumption) ?_
    | with_reducible refine canonicalOptFst_eq (by with_reducible assumption) ?_
    | with_reducible refine canonicalOptFst_eq_1 (by with_reducible assumption) ?_ | split
    | with_reducible apply canonicalOpt_none | with_reducible apply canonicalOpt_some
    | with_reducible apply canonicalOpt_map | with_reducible apply canonicalOpt_ite
    | with_reducible apply canonicalOpt_bind | with_reducible apply canonicalOpt_foldl
    | with_reducible apply canonicalOpt_bind_fst | with_reducible apply canonicalOpt_bind_any
    | with_reducible apply canonicalOptFst_none | with_reducible apply canonicalOptFst_some
    | with_reducible apply canonicalOptFst_map | with_reducible apply canonicalOptFst_ite
    | with_reducible apply canonicalOptFst_bind | with_reducible apply canonicalOptFst_foldl
    | with_reducible apply canonicalOptFst_bind_opt | with_reducible apply canonicalOptFst_bind_any
    | with_reducible apply canonicalOptSnd_none | with_reducible apply canonicalOptSnd_some
    | with_reducible apply canonicalOptSnd_ite)

theorem startRemove_canonical (s : State) (p : Nat) (j : HotJob) (row : Nat) (h_s : Canonical s) :
    Canonical (State.startRemove s p j row) := by
  unfold State.startRemove
  repeat' (first
    | intro _ | with_reducible assumption | with_reducible apply setHotJob_canonical | with_reducible apply canonical_ite
    | with_reducible apply canonical_ite_fst | with_reducible apply canonical_ite_snd | simp only [canonical_mk]
    | with_reducible refine canonicalOpt_eq (by with_reducible assumption) ?_
    | with_reducible refine canonicalOptFst_eq (by with_reducible assumption) ?_
    | with_reducible refine canonicalOptFst_eq_1 (by with_reducible assumption) ?_ | split
    | with_reducible apply canonicalOpt_none | with_reducible apply canonicalOpt_some
    | with_reducible apply canonicalOpt_map | with_reducible apply canonicalOpt_ite
    | with_reducible apply canonicalOpt_bind | with_reducible apply canonicalOpt_foldl
    | with_reducible apply canonicalOpt_bind_fst | with_reducible apply canonicalOpt_bind_any
    | with_reducible apply canonicalOptFst_none | with_reducible apply canonicalOptFst_some
    | with_reducible apply canonicalOptFst_map | with_reducible apply canonicalOptFst_ite
    | with_reducible apply canonicalOptFst_bind | with_reducible apply canonicalOptFst_foldl
    | with_reducible apply canonicalOptFst_bind_opt | with_reducible apply canonicalOptFst_bind_any
    | with_reducible apply canonicalOptSnd_none | with_reducible apply canonicalOptSnd_some
    | with_reducible apply canonicalOptSnd_ite)

theorem hotRun_canonical (s : State) (id : Nat) (h_s : Canonical s) :
    Canonical (State.hotRun s id) := by
  unfold State.hotRun
  repeat' (first
    | intro _ | with_reducible assumption | with_reducible apply refuse_canonical
    | with_reducible apply startAdd_canonical | with_reducible apply startRemove_canonical
    | with_reducible apply canonical_ite | with_reducible refine canonical_foldl ?_ ?_
    | with_reducible refine canonical_foldl_snd ?_ ?_ | with_reducible refine canonical_foldl_fst ?_ ?_
    | simp only [canonical_mk] | split)

theorem hotPump_canonical (s : State) (h_s : Canonical s) :
    Canonical (State.hotPump s) := by
  unfold State.hotPump
  repeat' (first
    | intro _ | with_reducible assumption | with_reducible apply hotRun_canonical | with_reducible apply canonical_ite
    | with_reducible refine canonical_foldl ?_ ?_ | with_reducible refine canonical_foldl_snd ?_ ?_
    | with_reducible refine canonical_foldl_fst ?_ ?_ | simp only [canonical_mk]
    | with_reducible refine canonicalOpt_eq (by with_reducible assumption) ?_
    | with_reducible refine canonicalOptFst_eq (by with_reducible assumption) ?_
    | with_reducible refine canonicalOptFst_eq_1 (by with_reducible assumption) ?_ | split
    | with_reducible apply canonicalOpt_none | with_reducible apply canonicalOpt_some
    | with_reducible apply canonicalOpt_map | with_reducible apply canonicalOpt_ite
    | with_reducible apply canonicalOpt_bind | with_reducible apply canonicalOpt_foldl
    | with_reducible apply canonicalOpt_bind_fst | with_reducible apply canonicalOpt_bind_any
    | with_reducible apply canonicalOptFst_none | with_reducible apply canonicalOptFst_some
    | with_reducible apply canonicalOptFst_map | with_reducible apply canonicalOptFst_ite
    | with_reducible apply canonicalOptFst_bind | with_reducible apply canonicalOptFst_foldl
    | with_reducible apply canonicalOptFst_bind_opt | with_reducible apply canonicalOptFst_bind_any
    | with_reducible apply canonicalOptSnd_none | with_reducible apply canonicalOptSnd_some
    | with_reducible apply canonicalOptSnd_ite)

theorem bodyEmbHotsetSet_canonical (c : Cmd) (s : State) (h_s : Canonical s) :
    Canonical (bodyEmbHotsetSet c s) := by
  unfold bodyEmbHotsetSet
  repeat' (first
    | intro _ | with_reducible assumption | with_reducible apply embOpen_canonical | with_reducible apply hotRun_canonical
    | with_reducible apply refuse_canonical | with_reducible apply refuseHint_canonical
    | with_reducible apply refuseRows_canonical | with_reducible apply canonical_ite | simp only [canonical_mk]
    | with_reducible refine canonicalOpt_eq (by with_reducible assumption) ?_
    | with_reducible refine canonicalOptFst_eq (by with_reducible assumption) ?_
    | with_reducible refine canonicalOptFst_eq_1 (by with_reducible assumption) ?_ | split
    | with_reducible apply canonicalOpt_none | with_reducible apply canonicalOpt_some
    | with_reducible apply canonicalOpt_map | with_reducible apply canonicalOpt_ite
    | with_reducible apply canonicalOpt_bind | with_reducible apply canonicalOpt_foldl
    | with_reducible apply canonicalOpt_bind_fst | with_reducible apply canonicalOpt_bind_any
    | with_reducible apply canonicalOptFst_none | with_reducible apply canonicalOptFst_some
    | with_reducible apply canonicalOptFst_map | with_reducible apply canonicalOptFst_ite
    | with_reducible apply canonicalOptFst_bind | with_reducible apply canonicalOptFst_foldl
    | with_reducible apply canonicalOptFst_bind_opt | with_reducible apply canonicalOptFst_bind_any
    | with_reducible apply canonicalOptSnd_none | with_reducible apply canonicalOptSnd_some
    | with_reducible apply canonicalOptSnd_ite)

theorem copyRow_canonical (s : State) (op : Nat) (p : Nat) (src : Nat) (dst : Nat) (n : Nat) (h_s : Canonical s) :
    Canonical (State.copyRow s op p src dst n) := by
  unfold State.copyRow
  repeat' (first
    | intro _ | with_reducible assumption | with_reducible apply embUe_canonical | with_reducible apply poison_canonical
    | with_reducible apply store_canonical | with_reducible apply canonical_ite
    | with_reducible refine canonical_foldl ?_ ?_ | with_reducible refine canonical_foldl_snd ?_ ?_
    | with_reducible refine canonical_foldl_fst ?_ ?_ | simp only [canonical_mk] | split)

theorem migrationCopyCompleteStep_canonical (id : Nat) (row : Nat) (s : State) (h_s : Canonical s) :
    Canonical (migrationCopyCompleteStep id row s) := by
  unfold migrationCopyCompleteStep
  repeat' (first
    | intro _ | with_reducible assumption | with_reducible apply addHot_canonical
    | with_reducible apply applyUpdate_canonical | with_reducible apply bump_canonical
    | with_reducible apply clearHot_canonical | with_reducible apply copyRow_canonical
    | with_reducible apply embFinish_canonical | with_reducible apply embPump_canonical
    | with_reducible apply embReads_canonical | with_reducible apply hotPump_canonical
    | with_reducible apply log_canonical | with_reducible apply setEmbJob_canonical
    | with_reducible apply setHotJob_canonical | with_reducible apply setVer_canonical
    | with_reducible apply canonical_ite | with_reducible apply canonical_ite_fst | with_reducible apply canonical_ite_snd
    | with_reducible refine canonical_foldl ?_ ?_ | with_reducible refine canonical_foldl_snd ?_ ?_
    | with_reducible refine canonical_foldl_fst ?_ ?_ | with_reducible refine canonical_getD ?_ ?_
    | simp only [canonical_mk] | with_reducible refine canonicalOpt_eq (by with_reducible assumption) ?_
    | with_reducible refine canonicalOptFst_eq (by with_reducible assumption) ?_
    | with_reducible refine canonicalOptFst_eq_1 (by with_reducible assumption) ?_ | split
    | with_reducible apply canonicalOpt_none | with_reducible apply canonicalOpt_some
    | with_reducible apply canonicalOpt_map | with_reducible apply canonicalOpt_ite
    | with_reducible apply canonicalOpt_bind | with_reducible apply canonicalOpt_foldl
    | with_reducible apply canonicalOpt_bind_fst | with_reducible apply canonicalOpt_bind_any
    | with_reducible apply canonicalOptFst_none | with_reducible apply canonicalOptFst_some
    | with_reducible apply canonicalOptFst_map | with_reducible apply canonicalOptFst_ite
    | with_reducible apply canonicalOptFst_bind | with_reducible apply canonicalOptFst_foldl
    | with_reducible apply canonicalOptFst_bind_opt | with_reducible apply canonicalOptFst_bind_any
    | with_reducible apply canonicalOptSnd_none | with_reducible apply canonicalOptSnd_some
    | with_reducible apply canonicalOptSnd_ite)

end Sys2Proof.Machine
end

