-- ==== Sys2Proof/Laws/CanonicalPartition.lean ====
section
/-! SUPPORT. Every operation of Machine/Partition.lean keeps the canonical forms of memory and of the registers. -/

set_option simprocs false
set_option linter.unusedTactic false
set_option linter.unusedSimpArgs false
set_option linter.unreachableTactic false

namespace Sys2Proof.Machine

theorem setOwners_canonical (s : State) (p : Nat) (a : Assign) (b : Assign) (h_s : Canonical s) :
    Canonical (State.setOwners s p a b) := by
  unfold State.setOwners
  repeat' (first
    | intro _ | with_reducible assumption | with_reducible apply setFld_canonical | with_reducible apply canonical_ite
    | with_reducible refine canonical_foldl ?_ ?_ | with_reducible refine canonical_foldl_snd ?_ ?_
    | with_reducible refine canonical_foldl_fst ?_ ?_ | simp only [canonical_mk] | split)

theorem applyShares_canonical (s : State) (p : Nat) (h_s : Canonical s) :
    Canonical (State.applyShares s p) := by
  unfold State.applyShares
  repeat' (first
    | intro _ | with_reducible assumption | with_reducible apply dropImage_canonical
    | with_reducible apply emptyImage_canonical | with_reducible apply setCtx_canonical
    | with_reducible apply canonical_ite | with_reducible refine canonical_foldl ?_ ?_
    | with_reducible refine canonical_foldl_snd ?_ ?_ | with_reducible refine canonical_foldl_fst ?_ ?_
    | simp only [canonical_mk] | split)

theorem wakeLathes_canonical (s : State) (mask : Nat) (h_s : Canonical s) :
    Canonical (State.wakeLathes s mask) := by
  unfold State.wakeLathes
  repeat' (first
    | intro _ | with_reducible assumption | with_reducible apply askLathe_canonical | with_reducible apply canonical_ite
    | with_reducible refine canonical_foldl ?_ ?_ | with_reducible refine canonical_foldl_snd ?_ ?_
    | with_reducible refine canonical_foldl_fst ?_ ?_ | simp only [canonical_mk] | split)

theorem scramble_canonical (s : State) (rs : List (Nat × Nat)) (h_s : Canonical s) :
    Canonical (State.scramble s rs) := by
  unfold State.scramble
  repeat' (first
    | intro _ | with_reducible assumption | with_reducible apply tick_canonical
    | with_reducible refine canonical_mem ?_ ?_ | with_reducible apply Memory.wf_set
    | with_reducible apply Memory.wf_filter | with_reducible refine memory_wf_foldl ?_ ?_
    | with_reducible exact memory_wf_nil | with_reducible apply canonical_wf | with_reducible apply canonical_ite
    | with_reducible apply canonical_ite_fst | with_reducible apply canonical_ite_snd
    | with_reducible refine canonical_foldl ?_ ?_ | with_reducible refine canonical_foldl_snd ?_ ?_
    | with_reducible refine canonical_foldl_fst ?_ ?_ | simp only [canonical_mk]
    | with_reducible refine canonicalOpt_eq (by with_reducible assumption) ?_
    | with_reducible refine canonicalOptFst_eq (by with_reducible assumption) ?_
    | with_reducible refine canonicalOptFst_eq_1 (by with_reducible assumption) ?_ | split
    | with_reducible apply canonicalOpt_none | with_reducible apply canonicalOpt_some
    | with_reducible apply canonicalOpt_map | with_reducible apply canonicalOpt_ite
    | with_reducible apply canonicalOpt_bind | with_reducible apply canonicalOpt_foldl
    | with_reducible apply canonicalOpt_bind_fst | with_reducible apply canonicalOpt_bind_any
    | with_reducible apply canonicalOptFst_none | with_reducible apply canonicalOptFst_some
    | with_reducible apply canonicalOptFst_map | with_reducible apply canonicalOptFst_ite
    | with_reducible apply canonicalOptFst_bind | with_reducible apply canonicalOptFst_foldl
    | with_reducible apply canonicalOptFst_bind_opt | with_reducible apply canonicalOptFst_bind_any
    | with_reducible apply canonicalOptSnd_none | with_reducible apply canonicalOptSnd_some
    | with_reducible apply canonicalOptSnd_ite)

theorem rekey_wf {f : Nat → Option Nat} {m : List (Nat × Byte)} : Memory.wf (rekey f m) = true := by
  unfold rekey
  refine memory_wf_foldl memory_wf_nil fun m x h => ?_
  split
  · exact Memory.wf_set _ _ _ h
  · exact h

theorem moveRegion_canonical (s : State) (t : State) (p : Nat) (fresh : Nat) (h_s : Canonical s) (h_t : Canonical t) :
    Canonical (State.moveRegion s t p fresh) := by
  unfold State.moveRegion
  extract_lets old new_ l holes veiled v t1
  have h1 : Canonical t1 := canonical_ite (tick_canonical _ h_t) h_t
  clear_value t1 v veiled holes
  exact ⟨rekey_wf, h1.2⟩

theorem install_canonical (s : State) (p : Nat) (a : Assign) (h_s : Canonical s) :
    Canonical (State.install s p a) := by
  unfold State.install
  repeat' (first
    | intro _ | with_reducible assumption | with_reducible apply moveRegion_canonical
    | with_reducible apply scramble_canonical | with_reducible apply setFld_canonical
    | with_reducible apply setOwners_canonical | with_reducible apply setPart_canonical
    | with_reducible apply wakeLathes_canonical | with_reducible apply zeroShare_canonical | with_reducible apply rekey_wf
    | with_reducible apply canonical_ite | simp only [canonical_mk] | split)

theorem setPartState_canonical (s : State) (p : Nat) (st : Nat) (h_s : Canonical s) :
    Canonical (State.setPartState s p st) := by
  unfold State.setPartState
  repeat' (first
    | intro _ | with_reducible assumption | with_reducible apply setFld_canonical | with_reducible apply canonical_ite
    | simp only [canonical_mk] | split)

theorem dropKey_canonical (s : State) (p : Nat) (h_s : Canonical s) :
    Canonical (State.dropKey s p) := by
  unfold State.dropKey
  repeat' (first
    | intro _ | with_reducible assumption | with_reducible apply scramble_canonical
    | with_reducible apply setFld_canonical | with_reducible apply canonical_ite | simp only [canonical_mk] | split)

theorem newKey_canonical (s : State) (p : Nat) (h_s : Canonical s) :
    Canonical (State.newKey s p) := by
  unfold State.newKey
  repeat' (first
    | intro _ | with_reducible assumption | with_reducible apply bump_canonical | with_reducible apply dropKey_canonical
    | with_reducible apply setFld_canonical | with_reducible apply canonical_ite | simp only [canonical_mk] | split)

theorem showPlan_canonical (s : State) (p : Nat) (slot : Nat) (h_s : Canonical s) :
    Canonical (State.showPlan s p slot) := by
  unfold State.showPlan
  repeat' (first
    | intro _ | with_reducible assumption | with_reducible apply setRaw_canonical | with_reducible apply canonical_ite
    | simp only [canonical_mk] | split)

theorem putPlan_canonical (s : State) (p : Nat) (slot : Nat) (k : Option Plan) (h_s : Canonical s) :
    Canonical (State.putPlan s p slot k) := by
  unfold State.putPlan
  repeat' (first
    | intro _ | with_reducible assumption | with_reducible apply setPart_canonical
    | with_reducible apply showPlan_canonical | with_reducible apply canonical_ite | simp only [canonical_mk] | split)

theorem recheckPlans_canonical (s : State) (p : Nat) (h_s : Canonical s) :
    Canonical (State.recheckPlans s p) := by
  unfold State.recheckPlans
  repeat' (first
    | intro _ | with_reducible assumption | with_reducible apply event_canonical | with_reducible apply putPlan_canonical
    | with_reducible apply canonical_ite | with_reducible refine canonical_foldl ?_ ?_
    | with_reducible refine canonical_foldl_snd ?_ ?_ | with_reducible refine canonical_foldl_fst ?_ ?_
    | simp only [canonical_mk] | split)

theorem bodyPlanAdmit_canonical (c : Cmd) (s : State) (h_s : Canonical s) :
    Canonical (bodyPlanAdmit c s) := by
  unfold bodyPlanAdmit
  repeat' (first
    | intro _ | with_reducible assumption | with_reducible apply putPlan_canonical | with_reducible apply refuse_canonical
    | with_reducible apply reply_canonical | with_reducible apply canonical_ite | simp only [canonical_mk] | split)

theorem endCommands_canonical (s : State) (ids : List Nat) (status : Nat) (h_s : Canonical s) :
    Canonical (State.endCommands s ids status) := by
  unfold State.endCommands
  repeat' (first
    | intro _ | with_reducible assumption | with_reducible apply dropCmd_canonical
    | with_reducible apply dropSearches_canonical | with_reducible apply endCmd_canonical
    | with_reducible apply finalEvent_canonical | with_reducible apply orphanReads_canonical
    | with_reducible apply canonical_ite | with_reducible refine canonical_foldl ?_ ?_
    | with_reducible refine canonical_foldl_snd ?_ ?_ | with_reducible refine canonical_foldl_fst ?_ ?_
    | simp only [canonical_mk] | split)

theorem leaveSwitch_canonical (s : State) (p : Nat) (c : Nat) (was : Nat) (h_s : Canonical s) :
    Canonical (State.leaveSwitch s p c was).1 := by
  unfold State.leaveSwitch
  repeat' (first
    | intro _ | with_reducible assumption | with_reducible apply setPart_canonical | with_reducible apply canonical_ite
    | with_reducible apply canonical_ite_fst | with_reducible apply canonical_ite_snd | simp only [canonical_mk]
    | with_reducible refine canonicalOpt_eq (by with_reducible assumption) ?_
    | with_reducible refine canonicalOptFst_eq (by with_reducible assumption) ?_
    | with_reducible refine canonicalOptFst_eq_1 (by with_reducible assumption) ?_ | split
    | with_reducible apply canonicalOpt_none | with_reducible apply canonicalOpt_some
    | with_reducible apply canonicalOpt_map | with_reducible apply canonicalOpt_ite
    | with_reducible apply canonicalOpt_bind | with_reducible apply canonicalOpt_foldl
    | with_reducible apply canonicalOpt_bind_fst | with_reducible apply canonicalOpt_bind_any
    | with_reducible apply canonicalOptFst_none | with_reducible apply canonicalOptFst_some
    | with_reducible apply canonicalOptFst_map | with_reducible apply canonicalOptFst_ite
    | with_reducible apply canonicalOptFst_bind | with_reducible apply canonicalOptFst_foldl
    | with_reducible apply canonicalOptFst_bind_opt | with_reducible apply canonicalOptFst_bind_any
    | with_reducible apply canonicalOptSnd_none | with_reducible apply canonicalOptSnd_some
    | with_reducible apply canonicalOptSnd_ite)

theorem leaveSwitch_canonical_eq {s : State} {p : Nat} {c : Nat} {was : Nat} {t_ a1_ a2_} (h_eq : State.leaveSwitch s p c was = (t_, a1_, a2_))
    (h_s : Canonical s) : Canonical t_ := by
  have h_p := leaveSwitch_canonical s p c was h_s
  rw [h_eq] at h_p; exact h_p

theorem tearContext_canonical (p : Nat) (c : Nat) (status : Nat) (s : State) (h_s : Canonical s) :
    Canonical (State.tearContext p c status s) := by
  unfold State.tearContext
  repeat' (first
    | intro _ | with_reducible assumption | with_reducible apply abortKernels_canonical
    | with_reducible apply endCommands_canonical | with_reducible apply endNow_canonical
    | with_reducible apply freeEnded_canonical | with_reducible apply leaveSwitch_canonical
    | with_reducible refine leaveSwitch_canonical_eq (by with_reducible assumption) ?_
    | with_reducible apply setCtx_canonical | with_reducible apply setPart_canonical
    | with_reducible apply setRunner_canonical | with_reducible apply spindleAbortStep_canonical
    | with_reducible apply canonical_ite | with_reducible refine canonical_foldl ?_ ?_
    | with_reducible refine canonical_foldl_snd ?_ ?_ | with_reducible refine canonical_foldl_fst ?_ ?_
    | simp only [canonical_mk] | with_reducible refine canonicalOpt_eq (by with_reducible assumption) ?_
    | with_reducible refine canonicalOptFst_eq (by with_reducible assumption) ?_
    | with_reducible refine canonicalOptFst_eq_1 (by with_reducible assumption) ?_ | split
    | with_reducible apply canonicalOpt_none | with_reducible apply canonicalOpt_some
    | with_reducible apply canonicalOpt_map | with_reducible apply canonicalOpt_ite
    | with_reducible apply canonicalOpt_bind | with_reducible apply canonicalOpt_foldl
    | with_reducible apply canonicalOpt_bind_fst | with_reducible apply canonicalOpt_bind_any
    | with_reducible apply canonicalOptFst_none | with_reducible apply canonicalOptFst_some
    | with_reducible apply canonicalOptFst_map | with_reducible apply canonicalOptFst_ite
    | with_reducible apply canonicalOptFst_bind | with_reducible apply canonicalOptFst_foldl
    | with_reducible apply canonicalOptFst_bind_opt | with_reducible apply canonicalOptFst_bind_any
    | with_reducible apply canonicalOptSnd_none | with_reducible apply canonicalOptSnd_some
    | with_reducible apply canonicalOptSnd_ite)

theorem contextTeardownStep_canonical (src : Plane) (p : Nat) (c : Nat) (s : State) (h_s : Canonical s) :
    Canonical (contextTeardownStep src p c s) := by
  unfold contextTeardownStep
  repeat' (first
    | intro _ | with_reducible assumption | with_reducible apply tearContext_canonical
    | with_reducible apply canonical_ite | simp only [canonical_mk] | split)

theorem applyRegsStep_canonical (src : Plane) (p : Nat) (s : State) (h_s : Canonical s) :
    Canonical (applyRegsStep src p s) := by
  unfold applyRegsStep
  repeat' (first
    | intro _ | with_reducible assumption | with_reducible apply applyShares_canonical
    | with_reducible apply endTears_canonical | with_reducible apply event_canonical
    | with_reducible apply install_canonical | with_reducible apply recheckPlans_canonical
    | with_reducible apply setFld_canonical | with_reducible apply canonical_ite | simp only [canonical_mk] | split)

theorem freeObjects_canonical (s : State) (p : Nat) (h_s : Canonical s) :
    Canonical (State.freeObjects s p) := by
  unfold State.freeObjects
  repeat' (first
    | intro _ | with_reducible assumption | with_reducible apply delObj_canonical
    | with_reducible apply dropGrammar_canonical | with_reducible apply dropVocab_canonical
    | with_reducible apply freeKv_canonical | with_reducible apply freeModel_canonical
    | with_reducible apply putPlan_canonical | with_reducible apply setRaw_canonical | with_reducible apply canonical_ite
    | with_reducible apply canonical_ite_fst | with_reducible apply canonical_ite_snd
    | with_reducible refine canonical_foldl ?_ ?_ | with_reducible refine canonical_foldl_snd ?_ ?_
    | with_reducible refine canonical_foldl_fst ?_ ?_ | simp only [canonical_mk]
    | with_reducible refine canonicalOpt_eq (by with_reducible assumption) ?_
    | with_reducible refine canonicalOptFst_eq (by with_reducible assumption) ?_
    | with_reducible refine canonicalOptFst_eq_1 (by with_reducible assumption) ?_ | split
    | with_reducible apply canonicalOpt_none | with_reducible apply canonicalOpt_some
    | with_reducible apply canonicalOpt_map | with_reducible apply canonicalOpt_ite
    | with_reducible apply canonicalOpt_bind | with_reducible apply canonicalOpt_foldl
    | with_reducible apply canonicalOpt_bind_fst | with_reducible apply canonicalOpt_bind_any
    | with_reducible apply canonicalOptFst_none | with_reducible apply canonicalOptFst_some
    | with_reducible apply canonicalOptFst_map | with_reducible apply canonicalOptFst_ite
    | with_reducible apply canonicalOptFst_bind | with_reducible apply canonicalOptFst_foldl
    | with_reducible apply canonicalOptFst_bind_opt | with_reducible apply canonicalOptFst_bind_any
    | with_reducible apply canonicalOptSnd_none | with_reducible apply canonicalOptSnd_some
    | with_reducible apply canonicalOptSnd_ite)

theorem partitionTeardownStep_canonical (src : Plane) (p : Nat) (s : State) (h_s : Canonical s) :
    Canonical (partitionTeardownStep src p s) := by
  unfold partitionTeardownStep
  repeat' (first
    | intro _ | with_reducible assumption | with_reducible apply dropKey_canonical | with_reducible apply endCmd_canonical
    | with_reducible apply endCommands_canonical | with_reducible apply endNow_canonical
    | with_reducible apply endTears_canonical | with_reducible apply freeEnded_canonical
    | with_reducible apply freeObjects_canonical | with_reducible apply setPart_canonical
    | with_reducible apply setPartState_canonical | with_reducible apply setRunner_canonical
    | with_reducible apply tearContext_canonical | with_reducible apply canonical_ite
    | with_reducible refine canonical_foldl ?_ ?_ | with_reducible refine canonical_foldl_snd ?_ ?_
    | with_reducible refine canonical_foldl_fst ?_ ?_ | simp only [canonical_mk]
    | with_reducible refine canonicalOpt_eq (by with_reducible assumption) ?_
    | with_reducible refine canonicalOptFst_eq (by with_reducible assumption) ?_
    | with_reducible refine canonicalOptFst_eq_1 (by with_reducible assumption) ?_ | split
    | with_reducible apply canonicalOpt_none | with_reducible apply canonicalOpt_some
    | with_reducible apply canonicalOpt_map | with_reducible apply canonicalOpt_ite
    | with_reducible apply canonicalOpt_bind | with_reducible apply canonicalOpt_foldl
    | with_reducible apply canonicalOpt_bind_fst | with_reducible apply canonicalOpt_bind_any
    | with_reducible apply canonicalOptFst_none | with_reducible apply canonicalOptFst_some
    | with_reducible apply canonicalOptFst_map | with_reducible apply canonicalOptFst_ite
    | with_reducible apply canonicalOptFst_bind | with_reducible apply canonicalOptFst_foldl
    | with_reducible apply canonicalOptFst_bind_opt | with_reducible apply canonicalOptFst_bind_any
    | with_reducible apply canonicalOptSnd_none | with_reducible apply canonicalOptSnd_some
    | with_reducible apply canonicalOptSnd_ite)

theorem requestConfiguringStep_canonical (src : Plane) (p : Nat) (s : State) (h_s : Canonical s) :
    Canonical (requestConfiguringStep src p s) := by
  unfold requestConfiguringStep
  repeat' (first
    | intro _ | with_reducible assumption | with_reducible apply setPartState_canonical
    | with_reducible apply canonical_ite | simp only [canonical_mk] | split)

theorem residentZero_canonical (s : State) (p : Nat) (h_s : Canonical s) :
    Canonical (State.residentZero s p) := by
  unfold State.residentZero
  repeat' (first
    | intro _ | with_reducible assumption | with_reducible apply dropImage_canonical
    | with_reducible apply emptyImage_canonical | with_reducible apply setCtx_canonical
    | with_reducible apply zeroShare_canonical | with_reducible apply canonical_ite
    | with_reducible refine canonical_foldl ?_ ?_ | with_reducible refine canonical_foldl_snd ?_ ?_
    | with_reducible refine canonical_foldl_fst ?_ ?_ | simp only [canonical_mk] | split)

theorem requestUpStep_canonical (src : Plane) (p : Nat) (s0 : State) (h_s0 : Canonical s0) :
    Canonical (requestUpStep src p s0) := by
  unfold requestUpStep
  repeat' (first
    | intro _ | with_reducible assumption | with_reducible apply endTears_canonical
    | with_reducible apply newKey_canonical | with_reducible apply residentZero_canonical
    | with_reducible apply setPartState_canonical | with_reducible apply canonical_ite | simp only [canonical_mk] | split)

theorem requestDownStep_canonical (src : Plane) (p : Nat) (s : State) (h_s : Canonical s) :
    Canonical (requestDownStep src p s) := by
  unfold requestDownStep
  repeat' (first
    | intro _ | with_reducible assumption | with_reducible apply install_canonical | with_reducible apply setCtx_canonical
    | with_reducible apply setFld_canonical | with_reducible apply setPart_canonical
    | with_reducible apply setPartState_canonical | with_reducible apply canonical_ite
    | with_reducible refine canonical_foldl ?_ ?_ | with_reducible refine canonical_foldl_snd ?_ ?_
    | with_reducible refine canonical_foldl_fst ?_ ?_ | simp only [canonical_mk] | split)

theorem requestSwitch_canonical (s : State) (c : Cmd) (out : List Nat) (incoming : Option Nat) (h_s : Canonical s) :
    Canonical (State.requestSwitch s c out incoming) := by
  unfold State.requestSwitch
  repeat' (first
    | intro _ | with_reducible assumption | with_reducible apply refuse_canonical
    | with_reducible apply refuseBusy_canonical | with_reducible apply setPart_canonical
    | with_reducible apply canonical_ite | simp only [canonical_mk] | split)

theorem bodyContextSuspend_canonical (c : Cmd) (s : State) (h_s : Canonical s) :
    Canonical (bodyContextSuspend c s) := by
  unfold bodyContextSuspend
  repeat' (first
    | intro _ | with_reducible assumption | with_reducible apply requestSwitch_canonical
    | with_reducible apply shaped_canonical | with_reducible apply canonical_ite | simp only [canonical_mk] | split)

theorem bodyContextResume_canonical (c : Cmd) (s : State) (h_s : Canonical s) :
    Canonical (bodyContextResume c s) := by
  unfold bodyContextResume
  repeat' (first
    | intro _ | with_reducible assumption | with_reducible apply requestSwitch_canonical
    | with_reducible apply shaped_canonical | with_reducible apply canonical_ite | simp only [canonical_mk] | split)

theorem switchQuiesceTimeoutStep_canonical (p : Nat) (s : State) (h_s : Canonical s) :
    Canonical (switchQuiesceTimeoutStep p s) := by
  unfold switchQuiesceTimeoutStep
  repeat' (first
    | intro _ | with_reducible assumption | with_reducible apply emptySlot_canonical | with_reducible apply canonical_ite
    | with_reducible apply canonical_ite_fst | with_reducible apply canonical_ite_snd
    | with_reducible refine canonical_foldl ?_ ?_ | with_reducible refine canonical_foldl_snd ?_ ?_
    | with_reducible refine canonical_foldl_fst ?_ ?_ | simp only [canonical_mk]
    | with_reducible refine canonicalOpt_eq (by with_reducible assumption) ?_
    | with_reducible refine canonicalOptFst_eq (by with_reducible assumption) ?_
    | with_reducible refine canonicalOptFst_eq_1 (by with_reducible assumption) ?_ | split
    | with_reducible apply canonicalOpt_none | with_reducible apply canonicalOpt_some
    | with_reducible apply canonicalOpt_map | with_reducible apply canonicalOpt_ite
    | with_reducible apply canonicalOpt_bind | with_reducible apply canonicalOpt_foldl
    | with_reducible apply canonicalOpt_bind_fst | with_reducible apply canonicalOpt_bind_any
    | with_reducible apply canonicalOptFst_none | with_reducible apply canonicalOptFst_some
    | with_reducible apply canonicalOptFst_map | with_reducible apply canonicalOptFst_ite
    | with_reducible apply canonicalOptFst_bind | with_reducible apply canonicalOptFst_foldl
    | with_reducible apply canonicalOptFst_bind_opt | with_reducible apply canonicalOptFst_bind_any
    | with_reducible apply canonicalOptSnd_none | with_reducible apply canonicalOptSnd_some
    | with_reducible apply canonicalOptSnd_ite)

theorem saveContext_canonical (s : State) (p : Nat) (c : Nat) (h_s : Canonical s) :
    Canonical (State.saveContext s p c) := by
  unfold State.saveContext
  repeat' (first
    | intro _ | with_reducible assumption | with_reducible apply dropImage_canonical
    | with_reducible apply setCtx_canonical | with_reducible apply setPart_canonical
    | with_reducible apply zeroShare_canonical | with_reducible apply canonical_ite
    | with_reducible apply canonical_ite_fst | with_reducible apply canonical_ite_snd
    | with_reducible refine canonical_getD ?_ ?_ | simp only [canonical_mk]
    | with_reducible refine canonicalOpt_eq (by with_reducible assumption) ?_
    | with_reducible refine canonicalOptFst_eq (by with_reducible assumption) ?_
    | with_reducible refine canonicalOptFst_eq_1 (by with_reducible assumption) ?_ | split
    | with_reducible apply canonicalOpt_none | with_reducible apply canonicalOpt_some
    | with_reducible apply canonicalOpt_map | with_reducible apply canonicalOpt_ite
    | with_reducible apply canonicalOpt_bind | with_reducible apply canonicalOpt_foldl
    | with_reducible apply canonicalOpt_bind_fst | with_reducible apply canonicalOpt_bind_any
    | with_reducible apply canonicalOptFst_none | with_reducible apply canonicalOptFst_some
    | with_reducible apply canonicalOptFst_map | with_reducible apply canonicalOptFst_ite
    | with_reducible apply canonicalOptFst_bind | with_reducible apply canonicalOptFst_foldl
    | with_reducible apply canonicalOptFst_bind_opt | with_reducible apply canonicalOptFst_bind_any
    | with_reducible apply canonicalOptSnd_none | with_reducible apply canonicalOptSnd_some
    | with_reducible apply canonicalOptSnd_ite)

theorem putCell_canonical (ways : List Nat) (lathes : List Nat) (s : State) (e : Nat × Byte) (h_s : Canonical s) :
    Canonical (State.putCell ways lathes s e) := by
  unfold State.putCell
  extract_lets k at_
  clear_value at_
  cases at_
  · exact h_s
  · exact ⟨Memory.wf_set _ _ _ h_s.1, h_s.2⟩

theorem loadContext_canonical (s : State) (p : Nat) (c : Nat) (h_s : Canonical s) :
    Canonical (State.loadContext s p c) := by
  unfold State.loadContext
  repeat' (first
    | intro _ | with_reducible assumption | with_reducible apply dropImage_canonical
    | with_reducible apply putCell_canonical | with_reducible apply setCtx_canonical
    | with_reducible apply setObj_canonical | with_reducible apply setSlot_canonical
    | with_reducible apply zeroShare_canonical | with_reducible apply canonical_ite
    | with_reducible apply canonical_ite_fst | with_reducible apply canonical_ite_snd
    | with_reducible refine canonical_foldl ?_ ?_ | with_reducible refine canonical_foldl_snd ?_ ?_
    | with_reducible refine canonical_foldl_fst ?_ ?_ | simp only [canonical_mk]
    | with_reducible refine canonicalOpt_eq (by with_reducible assumption) ?_
    | with_reducible refine canonicalOptFst_eq (by with_reducible assumption) ?_
    | with_reducible refine canonicalOptFst_eq_1 (by with_reducible assumption) ?_ | split
    | with_reducible apply canonicalOpt_none | with_reducible apply canonicalOpt_some
    | with_reducible apply canonicalOpt_map | with_reducible apply canonicalOpt_ite
    | with_reducible apply canonicalOpt_bind | with_reducible apply canonicalOpt_foldl
    | with_reducible apply canonicalOpt_bind_fst | with_reducible apply canonicalOpt_bind_any
    | with_reducible apply canonicalOptFst_none | with_reducible apply canonicalOptFst_some
    | with_reducible apply canonicalOptFst_map | with_reducible apply canonicalOptFst_ite
    | with_reducible apply canonicalOptFst_bind | with_reducible apply canonicalOptFst_foldl
    | with_reducible apply canonicalOptFst_bind_opt | with_reducible apply canonicalOptFst_bind_any
    | with_reducible apply canonicalOptSnd_none | with_reducible apply canonicalOptSnd_some
    | with_reducible apply canonicalOptSnd_ite)

theorem contextSwitchCompleteStep_canonical (p : Nat) (s0 : State) (h_s0 : Canonical s0) :
    Canonical (contextSwitchCompleteStep p s0) := by
  unfold contextSwitchCompleteStep
  repeat' (first
    | intro _ | with_reducible assumption | with_reducible apply bump_canonical | with_reducible apply dramUe_canonical
    | with_reducible apply endTears_canonical | with_reducible apply endWith_canonical
    | with_reducible apply event_canonical | with_reducible apply loadContext_canonical
    | with_reducible apply saveContext_canonical | with_reducible apply setPart_canonical
    | with_reducible apply settleLathes_canonical | with_reducible apply tearContext_canonical
    | with_reducible apply canonical_ite | with_reducible refine canonical_foldl ?_ ?_
    | with_reducible refine canonical_foldl_snd ?_ ?_ | with_reducible refine canonical_foldl_fst ?_ ?_
    | simp only [canonical_mk] | with_reducible refine canonicalOpt_eq (by with_reducible assumption) ?_
    | with_reducible refine canonicalOptFst_eq (by with_reducible assumption) ?_
    | with_reducible refine canonicalOptFst_eq_1 (by with_reducible assumption) ?_ | split
    | with_reducible apply canonicalOpt_none | with_reducible apply canonicalOpt_some
    | with_reducible apply canonicalOpt_map | with_reducible apply canonicalOpt_ite
    | with_reducible apply canonicalOpt_bind | with_reducible apply canonicalOpt_foldl
    | with_reducible apply canonicalOpt_bind_fst | with_reducible apply canonicalOpt_bind_any
    | with_reducible apply canonicalOptFst_none | with_reducible apply canonicalOptFst_some
    | with_reducible apply canonicalOptFst_map | with_reducible apply canonicalOptFst_ite
    | with_reducible apply canonicalOptFst_bind | with_reducible apply canonicalOptFst_foldl
    | with_reducible apply canonicalOptFst_bind_opt | with_reducible apply canonicalOptFst_bind_any
    | with_reducible apply canonicalOptSnd_none | with_reducible apply canonicalOptSnd_some
    | with_reducible apply canonicalOptSnd_ite)

theorem bodyPartQuery_canonical (c : Cmd) (s : State) (h_s : Canonical s) :
    Canonical (bodyPartQuery c s) := by
  unfold bodyPartQuery
  repeat' (first
    | intro _ | with_reducible assumption | with_reducible apply reply_canonical | with_reducible apply shaped_canonical
    | with_reducible apply canonical_ite | with_reducible apply canonical_ite_fst | with_reducible apply canonical_ite_snd
    | with_reducible refine canonical_getD ?_ ?_ | simp only [canonical_mk] | split)

end Sys2Proof.Machine
end

