-- ==== Sys2Proof/Laws/CanonicalSecurity.lean ====
section
/-! SUPPORT. Every operation of Machine/Security.lean keeps the canonical forms of memory and of the registers. -/

set_option simprocs false
set_option linter.unusedTactic false
set_option linter.unusedSimpArgs false
set_option linter.unreachableTactic false

namespace Sys2Proof.Machine

theorem showSec_canonical (s : State) (h_s : Canonical s) :
    Canonical (State.showSec s) := by
  unfold State.showSec
  repeat' (first
    | intro _ | with_reducible assumption | with_reducible apply setRaw_canonical
    | with_reducible apply setWords_canonical | with_reducible apply canonical_ite
    | with_reducible apply canonical_ite_fst | with_reducible apply canonical_ite_snd
    | with_reducible refine canonical_foldl ?_ ?_ | with_reducible refine canonical_foldl_snd ?_ ?_
    | with_reducible refine canonical_foldl_fst ?_ ?_ | with_reducible refine canonical_getD ?_ ?_
    | simp only [canonical_mk] | with_reducible refine canonicalOpt_eq (by with_reducible assumption) ?_
    | with_reducible refine canonicalOptFst_eq (by with_reducible assumption) ?_
    | with_reducible refine canonicalOptFst_eq_1 (by with_reducible assumption) ?_ | split
    | with_reducible apply canonicalOpt_none | with_reducible apply canonicalOpt_some
    | with_reducible apply canonicalOpt_map | with_reducible apply canonicalOpt_ite
    | with_reducible apply canonicalOpt_bind | with_reducible apply canonicalOpt_foldl
    | with_reducible apply canonicalOpt_bind_fst | with_reducible apply canonicalOpt_bind_any
    | with_reducible apply canonicalOptFst_none | with_reducible apply canonicalOptFst_some
    | with_reducible apply canonicalOptFst_map | with_reducible apply canonicalOptFst_ite
    | with_reducible apply canonicalOptFst_bind | with_reducible apply canonicalOptFst_foldl
    | with_reducible apply canonicalOptFst_bind_opt | with_reducible apply canonicalOptFst_bind_any
    | with_reducible apply canonicalOptSnd_none | with_reducible apply canonicalOptSnd_some
    | with_reducible apply canonicalOptSnd_ite)

theorem writeCfg_canonical (s : State) (c : ProtCfg) (h_s : Canonical s) :
    Canonical (State.writeCfg s c) := by
  unfold State.writeCfg
  repeat' (first
    | intro _ | with_reducible assumption | with_reducible apply canonical_ite | simp only [canonical_mk] | split)

theorem recordBreak_canonical (s : State) (h_s : Canonical s) :
    Canonical (State.recordBreak s) := by
  unfold State.recordBreak
  repeat' (first
    | intro _ | with_reducible assumption | with_reducible apply canonical_ite | with_reducible apply canonical_ite_fst
    | with_reducible apply canonical_ite_snd | simp only [canonical_mk]
    | with_reducible refine canonicalOpt_eq (by with_reducible assumption) ?_
    | with_reducible refine canonicalOptFst_eq (by with_reducible assumption) ?_
    | with_reducible refine canonicalOptFst_eq_1 (by with_reducible assumption) ?_ | split
    | with_reducible apply canonicalOpt_none | with_reducible apply canonicalOpt_some
    | with_reducible apply canonicalOpt_map | with_reducible apply canonicalOpt_ite
    | with_reducible apply canonicalOpt_bind | with_reducible apply canonicalOpt_foldl
    | with_reducible apply canonicalOpt_bind_fst | with_reducible apply canonicalOpt_bind_any
    | with_reducible apply canonicalOptFst_none | with_reducible apply canonicalOptFst_some
    | with_reducible apply canonicalOptFst_map | with_reducible apply canonicalOptFst_ite
    | with_reducible apply canonicalOptFst_bind | with_reducible apply canonicalOptFst_foldl
    | with_reducible apply canonicalOptFst_bind_opt | with_reducible apply canonicalOptFst_bind_any
    | with_reducible apply canonicalOptSnd_none | with_reducible apply canonicalOptSnd_some
    | with_reducible apply canonicalOptSnd_ite)

theorem bodyOwnerClaim_canonical (c : Cmd) (s : State) (h_s : Canonical s) :
    Canonical (bodyOwnerClaim c s) := by
  unfold bodyOwnerClaim
  repeat' (first
    | intro _ | with_reducible assumption | with_reducible apply event_canonical | with_reducible apply measure_canonical
    | with_reducible apply refuse_canonical | with_reducible apply shaped_canonical
    | with_reducible apply showSec_canonical | with_reducible apply tick_canonical
    | with_reducible apply writeCfg_canonical | with_reducible apply canonical_ite | simp only [canonical_mk] | split)

theorem proposalExpiryStep_canonical (s : State) (h_s : Canonical s) :
    Canonical (proposalExpiryStep s) := by
  unfold proposalExpiryStep
  repeat' (first
    | intro _ | with_reducible assumption | with_reducible apply event_canonical | with_reducible apply showSec_canonical
    | with_reducible apply canonical_ite | simp only [canonical_mk] | split)

theorem bodyProtectPropose_canonical (c : Cmd) (s0 : State) (h_s0 : Canonical s0) :
    Canonical (bodyProtectPropose c s0) := by
  unfold bodyProtectPropose
  repeat' (first
    | intro _ | with_reducible assumption | with_reducible apply refuse_canonical
    | with_reducible apply refuseHint_canonical | with_reducible apply showSec_canonical
    | with_reducible apply sigReject_canonical | with_reducible apply proposalExpiryStep_canonical
    | with_reducible apply canonical_ite | simp only [canonical_mk] | split)

theorem rekeyParts_canonical (s : State) (m : Nat) (h_s : Canonical s) :
    Canonical (State.rekeyParts s m) := by
  unfold State.rekeyParts
  repeat' (first
    | intro _ | with_reducible assumption | with_reducible apply newKey_canonical
    | with_reducible apply partitionTeardownStep_canonical | with_reducible apply canonical_ite
    | with_reducible refine canonical_foldl ?_ ?_ | with_reducible refine canonical_foldl_snd ?_ ?_
    | with_reducible refine canonical_foldl_fst ?_ ?_ | simp only [canonical_mk] | split)

theorem commit_canonical (s : State) (q : Prop4) (h_s : Canonical s) :
    Canonical (State.commit s q) := by
  unfold State.commit
  repeat' (first
    | intro _ | with_reducible assumption | with_reducible apply event_canonical | with_reducible apply measure_canonical
    | with_reducible apply rekeyParts_canonical | with_reducible apply showSec_canonical
    | with_reducible apply tick_canonical | with_reducible apply writeCfg_canonical | with_reducible apply canonical_ite
    | simp only [canonical_mk] | split)

theorem bodyProtectCosign_canonical (c : Cmd) (s0 : State) (h_s0 : Canonical s0) :
    Canonical (bodyProtectCosign c s0) := by
  unfold bodyProtectCosign
  repeat' (first
    | intro _ | with_reducible assumption | with_reducible apply commit_canonical | with_reducible apply dropCmd_canonical
    | with_reducible apply refuse_canonical | with_reducible apply shaped_canonical
    | with_reducible apply sigReject_canonical | with_reducible apply proposalExpiryStep_canonical
    | with_reducible apply canonical_ite | simp only [canonical_mk] | split)

theorem presNChangeStep_canonical (asserted : Bool) (s : State) (h_s : Canonical s) :
    Canonical (presNChangeStep asserted s) := by
  unfold presNChangeStep
  repeat' (first
    | intro _ | with_reducible assumption | with_reducible apply event_canonical | with_reducible apply showSec_canonical
    | with_reducible apply canonical_ite | simp only [canonical_mk] | split)

theorem sealBreakStep_canonical (s : State) (h_s : Canonical s) :
    Canonical (sealBreakStep s) := by
  unfold sealBreakStep
  repeat' (first
    | intro _ | with_reducible assumption | with_reducible apply event_canonical | with_reducible apply measure_canonical
    | with_reducible apply recordBreak_canonical | with_reducible apply rekeyParts_canonical
    | with_reducible apply showSec_canonical | with_reducible apply tick_canonical | with_reducible apply canonical_ite
    | simp only [canonical_mk] | split)

theorem sealRestoredStep_canonical (s : State) (h_s : Canonical s) :
    Canonical (sealRestoredStep s) := by
  unfold sealRestoredStep
  repeat' (first
    | intro _ | with_reducible assumption | with_reducible apply showSec_canonical | with_reducible apply canonical_ite
    | simp only [canonical_mk] | split)

theorem bodyMeasureLogRead_canonical (c : Cmd) (s : State) (h_s : Canonical s) :
    Canonical (bodyMeasureLogRead c s) := by
  unfold bodyMeasureLogRead
  repeat' (first
    | intro _ | with_reducible assumption | with_reducible apply refuse_canonical
    | with_reducible apply replyData_canonical | with_reducible apply shaped_canonical
    | with_reducible apply take_canonical | with_reducible apply canonical_ite | simp only [canonical_mk] | split)

theorem bodyAttestReport_canonical (c : Cmd) (s : State) (h_s : Canonical s) :
    Canonical (bodyAttestReport c s) := by
  unfold bodyAttestReport
  repeat' (first
    | intro _ | with_reducible assumption | with_reducible apply refuse_canonical | with_reducible apply reply_canonical
    | with_reducible apply shaped_canonical | with_reducible apply canonical_ite | simp only [canonical_mk]
    | with_reducible refine canonicalOpt_eq (by with_reducible assumption) ?_
    | with_reducible refine canonicalOptFst_eq (by with_reducible assumption) ?_
    | with_reducible refine canonicalOptFst_eq_1 (by with_reducible assumption) ?_ | split
    | with_reducible apply canonicalOpt_none | with_reducible apply canonicalOpt_some
    | with_reducible apply canonicalOpt_map | with_reducible apply canonicalOpt_ite
    | with_reducible apply canonicalOpt_bind | with_reducible apply canonicalOpt_foldl
    | with_reducible apply canonicalOpt_bind_fst | with_reducible apply canonicalOpt_bind_any
    | with_reducible apply canonicalOptFst_none | with_reducible apply canonicalOptFst_some
    | with_reducible apply canonicalOptFst_map | with_reducible apply canonicalOptFst_ite
    | with_reducible apply canonicalOptFst_bind | with_reducible apply canonicalOptFst_foldl
    | with_reducible apply canonicalOptFst_bind_opt | with_reducible apply canonicalOptFst_bind_any
    | with_reducible apply canonicalOptSnd_none | with_reducible apply canonicalOptSnd_some
    | with_reducible apply canonicalOptSnd_ite)

end Sys2Proof.Machine
end

