-- ==== Sys2Proof/Laws/CanonicalNetwork.lean ====
section
/-! SUPPORT. Every operation of Machine/Network.lean keeps the canonical forms of memory and of the registers. -/

set_option simprocs false
set_option linter.unusedTactic false
set_option linter.unusedSimpArgs false
set_option linter.unreachableTactic false

namespace Sys2Proof.Machine

theorem qpResult_canonical (s : State) (op : Nat) (r : Nat) (h_s : Canonical s) :
    Canonical (State.qpResult s op r) := by
  unfold State.qpResult
  repeat' (first
    | intro _ | with_reducible assumption | with_reducible apply setFld_canonical | with_reducible apply canonical_ite
    | simp only [canonical_mk] | split)

theorem qpCreateStep_canonical (s : State) (h_s : Canonical s) :
    Canonical (qpCreateStep s) := by
  unfold qpCreateStep
  repeat' (first
    | intro _ | with_reducible assumption | with_reducible apply qpResult_canonical | with_reducible apply canonical_ite
    | simp only [canonical_mk] | split)

theorem qpReadBackStep_canonical (s : State) (h_s : Canonical s) :
    Canonical (qpReadBackStep s) := by
  unfold qpReadBackStep
  repeat' (first
    | intro _ | with_reducible assumption | with_reducible apply qpResult_canonical
    | with_reducible apply setRaw_canonical | with_reducible apply canonical_ite | with_reducible apply canonical_ite_fst
    | with_reducible apply canonical_ite_snd | with_reducible refine canonical_foldl ?_ ?_
    | with_reducible refine canonical_foldl_snd ?_ ?_ | with_reducible refine canonical_foldl_fst ?_ ?_
    | simp only [canonical_mk] | split)

theorem collWrite_canonical (s : State) (c : Coll) (off : Nat) (bs : List Byte) (h_s : Canonical s) :
    Canonical (State.collWrite s c off bs) := by
  unfold State.collWrite
  repeat' (first
    | intro _ | with_reducible assumption | with_reducible apply putContent_canonical
    | with_reducible refine putContent_canonical_eq (by with_reducible assumption) ?_
    | with_reducible apply store_canonical | with_reducible apply take_canonical | with_reducible apply canonical_ite
    | with_reducible apply canonical_ite_fst | with_reducible apply canonical_ite_snd
    | with_reducible refine canonical_foldl ?_ ?_ | with_reducible refine canonical_foldl_snd ?_ ?_
    | with_reducible refine canonical_foldl_fst ?_ ?_ | with_reducible refine canonical_getD ?_ ?_
    | simp only [canonical_mk] | split)

theorem collBad_canonical (s : State) (c : Coll) (pl : Nat × Nat) (h_s : Canonical s) :
    CanonicalOpt (State.collBad s c pl) := by
  unfold State.collBad
  repeat' (first
    | intro _ | with_reducible assumption | with_reducible apply noteRead_canonical
    | with_reducible apply objContent_canonical
    | with_reducible refine objContent_canonical_eq (by with_reducible assumption) ?_ | with_reducible apply canonical_ite
    | with_reducible apply canonical_ite_fst | with_reducible apply canonical_ite_snd
    | with_reducible apply canonicalOpt_none | with_reducible apply canonicalOpt_some
    | with_reducible apply canonicalOpt_map | with_reducible apply canonicalOpt_ite
    | with_reducible apply canonicalOpt_bind | with_reducible apply canonicalOpt_foldl
    | with_reducible apply canonicalOpt_bind_fst | with_reducible apply canonicalOpt_bind_any | simp only [canonical_mk]
    | with_reducible refine canonicalOpt_eq (by with_reducible assumption) ?_
    | with_reducible refine canonicalOptFst_eq (by with_reducible assumption) ?_
    | with_reducible refine canonicalOptFst_eq_1 (by with_reducible assumption) ?_ | split
    | with_reducible apply canonicalOptFst_none | with_reducible apply canonicalOptFst_some
    | with_reducible apply canonicalOptFst_map | with_reducible apply canonicalOptFst_ite
    | with_reducible apply canonicalOptFst_bind | with_reducible apply canonicalOptFst_foldl
    | with_reducible apply canonicalOptFst_bind_opt | with_reducible apply canonicalOptFst_bind_any
    | with_reducible apply canonicalOptSnd_none | with_reducible apply canonicalOptSnd_some
    | with_reducible apply canonicalOptSnd_ite)

theorem collBad_canonical_eq {s : State} {c : Coll} {pl : Nat × Nat} {t : State} (h_eq : State.collBad s c pl = some t)
    (h_s : Canonical s) : Canonical t :=
  (collBad_canonical s c pl h_s).elim t h_eq

theorem collUndefined_canonical (s : State) (c : Coll) (keep : Option Nat) (h_s : Canonical s) :
    Canonical (State.collUndefined s c keep) := by
  unfold State.collUndefined
  repeat' (first
    | intro _ | with_reducible assumption | with_reducible apply collWrite_canonical | with_reducible apply tick_canonical
    | with_reducible apply canonical_ite | with_reducible apply canonical_ite_fst | with_reducible apply canonical_ite_snd
    | with_reducible refine canonical_foldl ?_ ?_ | with_reducible refine canonical_foldl_snd ?_ ?_
    | with_reducible refine canonical_foldl_fst ?_ ?_ | simp only [canonical_mk]
    | with_reducible refine canonicalOpt_eq (by with_reducible assumption) ?_
    | with_reducible refine canonicalOptFst_eq (by with_reducible assumption) ?_
    | with_reducible refine canonicalOptFst_eq_1 (by with_reducible assumption) ?_ | split
    | with_reducible apply canonicalOpt_none | with_reducible apply canonicalOpt_some
    | with_reducible apply canonicalOpt_map | with_reducible apply canonicalOpt_ite
    | with_reducible apply canonicalOpt_bind | with_reducible apply canonicalOpt_foldl
    | with_reducible apply canonicalOpt_bind_fst | with_reducible apply canonicalOpt_bind_any
    | with_reducible apply canonicalOptFst_none | with_reducible apply canonicalOptFst_some
    | with_reducible apply canonicalOptFst_map | with_reducible apply canonicalOptFst_ite
    | with_reducible apply canonicalOptFst_bind | with_reducible apply canonicalOptFst_foldl
    | with_reducible apply canonicalOptFst_bind_opt | with_reducible apply canonicalOptFst_bind_any
    | with_reducible apply canonicalOptSnd_none | with_reducible apply canonicalOptSnd_some
    | with_reducible apply canonicalOptSnd_ite)

theorem collFail_canonical (s : State) (c : Coll) (status : Nat) (h_s : Canonical s) :
    Canonical (State.collFail s c status) := by
  unfold State.collFail
  repeat' (first
    | intro _ | with_reducible assumption | with_reducible apply collUndefined_canonical
    | with_reducible apply endCmd_canonical | with_reducible apply canonical_ite | simp only [canonical_mk] | split)

theorem setColl_canonical (s : State) (cmd : Nat) (f : Coll → Coll) (h_s : Canonical s) :
    Canonical (State.setColl s cmd f) := by
  unfold State.setColl
  repeat' (first
    | intro _ | with_reducible assumption | with_reducible apply canonical_ite | simp only [canonical_mk] | split)

theorem collStop_canonical (s : State) (cmd : Nat) (h_s : Canonical s) :
    Canonical (State.collStop s cmd) := by
  unfold State.collStop
  repeat' (first
    | intro _ | with_reducible assumption | with_reducible apply endCmd_canonical | with_reducible apply canonical_ite
    | simp only [canonical_mk] | split)

theorem collSend_canonical (s : State) (cmd : Nat) (y0 : Nat) (h_s : Canonical s) :
    Canonical (State.collSend s cmd y0) := by
  revert h_s
  fun_induction State.collSend s cmd y0 <;> intro h_s
  all_goals
    repeat' (first
      | intro _ | with_reducible assumption | with_reducible apply_assumption -exfalso -symm
      | with_reducible apply collBad_canonical
      | with_reducible refine collBad_canonical_eq (by with_reducible assumption) ?_
      | with_reducible apply collStop_canonical | with_reducible apply emit_canonical
      | with_reducible apply setColl_canonical | with_reducible apply canonical_ite
      | with_reducible apply canonical_ite_fst | with_reducible apply canonical_ite_snd | simp only [canonical_mk] | split
      | (simp +zetaDelta only [canonical_mk]; done) | simp +zetaDelta only [canonical_mk])

theorem collTake_canonical (s : State) (c : Coll) (h_s : Canonical s) :
    Canonical (State.collTake s c) := by
  unfold State.collTake
  repeat' (first
    | intro _ | with_reducible assumption | with_reducible apply collBad_canonical
    | with_reducible refine collBad_canonical_eq (by with_reducible assumption) ?_
    | with_reducible apply collStop_canonical | with_reducible apply collWrite_canonical
    | with_reducible apply emit_canonical | with_reducible apply setColl_canonical | with_reducible apply canonical_ite
    | with_reducible apply canonical_ite_fst | with_reducible apply canonical_ite_snd | simp only [canonical_mk] | split)

theorem collEnd_canonical (s : State) (cmd : Nat) (h_s : Canonical s) :
    Canonical (State.collEnd s cmd) := by
  unfold State.collEnd
  repeat' (first
    | intro _ | with_reducible assumption | with_reducible apply collUndefined_canonical
    | with_reducible apply refuse_canonical | with_reducible apply zeroRange_canonical
    | with_reducible apply canonical_ite | simp only [canonical_mk] | split)

theorem allreduceHopStep_canonical (cmd : Nat) (s : State) (h_s : Canonical s) :
    Canonical (allreduceHopStep cmd s) := by
  unfold allreduceHopStep
  repeat' (first
    | intro _ | with_reducible assumption | with_reducible apply collEnd_canonical
    | with_reducible apply collSend_canonical | with_reducible apply collTake_canonical
    | with_reducible apply canonical_ite | simp only [canonical_mk] | split)

theorem bodyGradAllreduce_canonical (c : Cmd) (s : State) (h_s : Canonical s) :
    Canonical (bodyGradAllreduce c s) := by
  unfold bodyGradAllreduce
  repeat' (first
    | intro _ | with_reducible assumption | with_reducible apply collSend_canonical
    | with_reducible apply refuse_canonical | with_reducible apply shaped_canonical | with_reducible apply canonical_ite
    | with_reducible apply canonical_ite_fst | with_reducible apply canonical_ite_snd
    | with_reducible refine canonical_getD ?_ ?_ | simp only [canonical_mk]
    | with_reducible refine canonicalOpt_eq (by with_reducible assumption) ?_
    | with_reducible refine canonicalOptFst_eq (by with_reducible assumption) ?_
    | with_reducible refine canonicalOptFst_eq_1 (by with_reducible assumption) ?_ | split
    | with_reducible apply canonicalOpt_none | with_reducible apply canonicalOpt_some
    | with_reducible apply canonicalOpt_map | with_reducible apply canonicalOpt_ite
    | with_reducible apply canonicalOpt_bind | with_reducible apply canonicalOpt_foldl
    | with_reducible apply canonicalOpt_bind_fst | with_reducible apply canonicalOpt_bind_any
    | with_reducible apply canonicalOptFst_none | with_reducible apply canonicalOptFst_some
    | with_reducible apply canonicalOptFst_map | with_reducible apply canonicalOptFst_ite
    | with_reducible apply canonicalOptFst_bind | with_reducible apply canonicalOptFst_foldl
    | with_reducible apply canonicalOptFst_bind_opt | with_reducible apply canonicalOptFst_bind_any
    | with_reducible apply canonicalOptSnd_none | with_reducible apply canonicalOptSnd_some
    | with_reducible apply canonicalOptSnd_ite)

theorem forget_canonical (s : State) (id : Nat) (h_s : Canonical s) :
    Canonical (State.forget s id) := by
  unfold State.forget
  repeat' (first
    | intro _ | with_reducible assumption | with_reducible apply dropCmd_canonical
    | with_reducible apply dropSearches_canonical | with_reducible apply dropWork_canonical
    | with_reducible apply canonical_ite | simp only [canonical_mk] | split)

theorem qpLoss_canonical (s : State) (i : Nat) (h_s : Canonical s) :
    Canonical (State.qpLoss s i) := by
  unfold State.qpLoss
  repeat' (first
    | intro _ | with_reducible assumption | with_reducible apply collFail_canonical
    | with_reducible apply dropCmd_canonical | with_reducible apply endNow_canonical
    | with_reducible apply event_canonical | with_reducible apply fetchArrived_canonical
    | with_reducible apply forget_canonical | with_reducible apply setQp_canonical
    | with_reducible apply shardUnusable_canonical | with_reducible apply canonical_ite
    | with_reducible refine canonical_foldl ?_ ?_ | with_reducible refine canonical_foldl_snd ?_ ?_
    | with_reducible refine canonical_foldl_fst ?_ ?_ | simp only [canonical_mk]
    | with_reducible refine canonicalOpt_eq (by with_reducible assumption) ?_
    | with_reducible refine canonicalOptFst_eq (by with_reducible assumption) ?_
    | with_reducible refine canonicalOptFst_eq_1 (by with_reducible assumption) ?_ | split
    | with_reducible apply canonicalOpt_none | with_reducible apply canonicalOpt_some
    | with_reducible apply canonicalOpt_map | with_reducible apply canonicalOpt_ite
    | with_reducible apply canonicalOpt_bind | with_reducible apply canonicalOpt_foldl
    | with_reducible apply canonicalOpt_bind_fst | with_reducible apply canonicalOpt_bind_any
    | with_reducible apply canonicalOptFst_none | with_reducible apply canonicalOptFst_some
    | with_reducible apply canonicalOptFst_map | with_reducible apply canonicalOptFst_ite
    | with_reducible apply canonicalOptFst_bind | with_reducible apply canonicalOptFst_foldl
    | with_reducible apply canonicalOptFst_bind_opt | with_reducible apply canonicalOptFst_bind_any
    | with_reducible apply canonicalOptSnd_none | with_reducible apply canonicalOptSnd_some
    | with_reducible apply canonicalOptSnd_ite)

theorem forgetQp_canonical (s : State) (i : Nat) (h_s : Canonical s) :
    Canonical (State.forgetQp s i) := by
  unfold State.forgetQp
  repeat' (first
    | intro _ | with_reducible assumption | with_reducible apply canonical_ite | simp only [canonical_mk]
    | with_reducible refine canonicalOpt_eq (by with_reducible assumption) ?_
    | with_reducible refine canonicalOptFst_eq (by with_reducible assumption) ?_
    | with_reducible refine canonicalOptFst_eq_1 (by with_reducible assumption) ?_ | split
    | with_reducible apply canonicalOpt_none | with_reducible apply canonicalOpt_some
    | with_reducible apply canonicalOpt_map | with_reducible apply canonicalOpt_ite
    | with_reducible apply canonicalOpt_bind | with_reducible apply canonicalOpt_foldl
    | with_reducible apply canonicalOpt_bind_fst | with_reducible apply canonicalOpt_bind_any
    | with_reducible apply canonicalOptFst_none | with_reducible apply canonicalOptFst_some
    | with_reducible apply canonicalOptFst_map | with_reducible apply canonicalOptFst_ite
    | with_reducible apply canonicalOptFst_bind | with_reducible apply canonicalOptFst_foldl
    | with_reducible apply canonicalOptFst_bind_opt | with_reducible apply canonicalOptFst_bind_any
    | with_reducible apply canonicalOptSnd_none | with_reducible apply canonicalOptSnd_some
    | with_reducible apply canonicalOptSnd_ite)

theorem qpDestroyStep_canonical (s : State) (h_s : Canonical s) :
    Canonical (qpDestroyStep s) := by
  unfold qpDestroyStep
  repeat' (first
    | intro _ | with_reducible assumption | with_reducible apply forgetQp_canonical
    | with_reducible apply qpLoss_canonical | with_reducible apply qpResult_canonical | with_reducible apply canonical_ite
    | simp only [canonical_mk] | with_reducible refine canonicalOpt_eq (by with_reducible assumption) ?_
    | with_reducible refine canonicalOptFst_eq (by with_reducible assumption) ?_
    | with_reducible refine canonicalOptFst_eq_1 (by with_reducible assumption) ?_ | split
    | with_reducible apply canonicalOpt_none | with_reducible apply canonicalOpt_some
    | with_reducible apply canonicalOpt_map | with_reducible apply canonicalOpt_ite
    | with_reducible apply canonicalOpt_bind | with_reducible apply canonicalOpt_foldl
    | with_reducible apply canonicalOpt_bind_fst | with_reducible apply canonicalOpt_bind_any
    | with_reducible apply canonicalOptFst_none | with_reducible apply canonicalOptFst_some
    | with_reducible apply canonicalOptFst_map | with_reducible apply canonicalOptFst_ite
    | with_reducible apply canonicalOptFst_bind | with_reducible apply canonicalOptFst_foldl
    | with_reducible apply canonicalOptFst_bind_opt | with_reducible apply canonicalOptFst_bind_any
    | with_reducible apply canonicalOptSnd_none | with_reducible apply canonicalOptSnd_some
    | with_reducible apply canonicalOptSnd_ite)

theorem roceNakReceiveStep_canonical (qp : Nat) (_k : NakKind) (s : State) (h_s : Canonical s) :
    Canonical (roceNakReceiveStep qp _k s) := by
  unfold roceNakReceiveStep
  repeat' (first
    | intro _ | with_reducible assumption | with_reducible apply qpLoss_canonical | with_reducible apply canonical_ite
    | simp only [canonical_mk] | split)

theorem localAckTimeoutStep_canonical (qp : Nat) (s : State) (h_s : Canonical s) :
    Canonical (localAckTimeoutStep qp s) := by
  unfold localAckTimeoutStep
  repeat' (first
    | intro _ | with_reducible assumption | with_reducible apply emit_canonical | with_reducible apply qpLoss_canonical
    | with_reducible apply setQp_canonical | with_reducible apply canonical_ite | simp only [canonical_mk] | split)

theorem rnrNakReceiveStep_canonical (qp : Nat) (timer : Nat) (s : State) (h_s : Canonical s) :
    Canonical (rnrNakReceiveStep qp timer s) := by
  unfold rnrNakReceiveStep
  repeat' (first
    | intro _ | with_reducible assumption | with_reducible apply qpLoss_canonical | with_reducible apply setQp_canonical
    | with_reducible apply canonical_ite | simp only [canonical_mk] | split)

theorem rnrTimerExpiryStep_canonical (qp : Nat) (s : State) (h_s : Canonical s) :
    Canonical (rnrTimerExpiryStep qp s) := by
  unfold rnrTimerExpiryStep
  repeat' (first
    | intro _ | with_reducible assumption | with_reducible apply emit_canonical | with_reducible apply setQp_canonical
    | with_reducible apply canonical_ite | simp only [canonical_mk]
    | with_reducible refine canonicalOpt_eq (by with_reducible assumption) ?_
    | with_reducible refine canonicalOptFst_eq (by with_reducible assumption) ?_
    | with_reducible refine canonicalOptFst_eq_1 (by with_reducible assumption) ?_ | split
    | with_reducible apply canonicalOpt_none | with_reducible apply canonicalOpt_some
    | with_reducible apply canonicalOpt_map | with_reducible apply canonicalOpt_ite
    | with_reducible apply canonicalOpt_bind | with_reducible apply canonicalOpt_foldl
    | with_reducible apply canonicalOpt_bind_fst | with_reducible apply canonicalOpt_bind_any
    | with_reducible apply canonicalOptFst_none | with_reducible apply canonicalOptFst_some
    | with_reducible apply canonicalOptFst_map | with_reducible apply canonicalOptFst_ite
    | with_reducible apply canonicalOptFst_bind | with_reducible apply canonicalOptFst_foldl
    | with_reducible apply canonicalOptFst_bind_opt | with_reducible apply canonicalOptFst_bind_any
    | with_reducible apply canonicalOptSnd_none | with_reducible apply canonicalOptSnd_some
    | with_reducible apply canonicalOptSnd_ite)

theorem nak_canonical (s : State) (qp : Nat) (k : NakKind) (h_s : Canonical s) :
    Canonical (State.nak s qp k) := by
  unfold State.nak
  repeat' (first
    | intro _ | with_reducible assumption | with_reducible apply emit_canonical | with_reducible apply qpLoss_canonical
    | with_reducible apply canonical_ite | simp only [canonical_mk] | split)

theorem rdmaWriteReceiveStep_canonical (qp : Nat) (rkey : Nat) (addr : Nat) (data : List Byte) (s : State) (h_s : Canonical s) :
    Canonical (rdmaWriteReceiveStep qp rkey addr data s) := by
  unfold rdmaWriteReceiveStep
  repeat' (first
    | intro _ | with_reducible assumption | with_reducible apply emit_canonical | with_reducible apply nak_canonical
    | with_reducible apply store_canonical | with_reducible apply canonical_ite | simp only [canonical_mk] | split)

theorem rdmaReadReceiveStep_canonical (qp : Nat) (rkey : Nat) (addr : Nat) (len : Nat) (s : State) (h_s : Canonical s) :
    Canonical (rdmaReadReceiveStep qp rkey addr len s) := by
  unfold rdmaReadReceiveStep
  repeat' (first
    | intro _ | with_reducible assumption | with_reducible apply dramUe_canonical | with_reducible apply emit_canonical
    | with_reducible apply nak_canonical | with_reducible apply readCe_canonical | with_reducible apply canonical_ite
    | simp only [canonical_mk] | split)

theorem rateIncreaseWindowStep_canonical (qp : Nat) (s : State) (h_s : Canonical s) :
    Canonical (rateIncreaseWindowStep qp s) := by
  unfold rateIncreaseWindowStep
  repeat' (first
    | intro _ | with_reducible assumption | with_reducible apply setQp_canonical | with_reducible apply canonical_ite
    | simp only [canonical_mk] | split)

theorem cnpReceiveStep_canonical (qp : Nat) (s : State) (h_s : Canonical s) :
    Canonical (cnpReceiveStep qp s) := by
  unfold cnpReceiveStep
  repeat' (first
    | intro _ | with_reducible assumption | with_reducible apply setQp_canonical | with_reducible apply canonical_ite
    | simp only [canonical_mk] | split)

theorem linkDown_canonical (s : State) (l : Nat) (h_s : Canonical s) :
    Canonical (State.linkDown s l) := by
  unfold State.linkDown
  repeat' (first
    | intro _ | with_reducible assumption | with_reducible apply event_canonical | with_reducible apply setFld_canonical
    | with_reducible apply setReady_canonical | with_reducible apply canonical_ite | simp only [canonical_mk] | split)

theorem linkChangeStep_canonical (l : Nat) (rate : LinkRate) (s : State) (h_s : Canonical s) :
    Canonical (linkChangeStep l rate s) := by
  unfold linkChangeStep
  repeat' (first
    | intro _ | with_reducible assumption | with_reducible apply event_canonical | with_reducible apply linkDown_canonical
    | with_reducible apply setFld_canonical | with_reducible apply setReady_canonical | with_reducible apply canonical_ite
    | simp only [canonical_mk] | split)

theorem mgmtLinkFallbackStep_canonical (s : State) (h_s : Canonical s) :
    Canonical (mgmtLinkFallbackStep s) := by
  unfold mgmtLinkFallbackStep
  repeat' (first
    | intro _ | with_reducible assumption | with_reducible apply canonical_ite | simp only [canonical_mk] | split)

theorem breakoutChangeStep_canonical (port : Nat) (v : Reg) (s : State) (h_s : Canonical s) :
    Canonical (breakoutChangeStep port v s) := by
  unfold breakoutChangeStep
  repeat' (first
    | intro _ | with_reducible assumption | with_reducible apply linkDown_canonical
    | with_reducible apply setFld_canonical | with_reducible apply canonical_ite
    | with_reducible refine canonical_foldl ?_ ?_ | with_reducible refine canonical_foldl_snd ?_ ?_
    | with_reducible refine canonical_foldl_fst ?_ ?_ | simp only [canonical_mk] | split)

theorem laneFault_canonical (s : State) (port : Nat) (lane : Nat) (h_s : Canonical s) :
    Canonical (State.laneFault s port lane) := by
  unfold State.laneFault
  repeat' (first
    | intro _ | with_reducible assumption | with_reducible apply event_canonical | with_reducible apply linkDown_canonical
    | with_reducible apply setFld_canonical | with_reducible apply canonical_ite | simp only [canonical_mk] | split)

theorem frameDiscardStep_canonical (l : Nat) (_len : Nat) (s : State) (h_s : Canonical s) :
    Canonical (frameDiscardStep l _len s) := by
  unfold frameDiscardStep
  repeat' (first
    | intro _ | with_reducible assumption | with_reducible apply bump_canonical | with_reducible apply canonical_ite
    | simp only [canonical_mk] | split)

theorem answer_canonical (s : State) (l : Nat) (q : NetQuery) (own : List Byte) (data : List Byte) (h_s : Canonical s) :
    Canonical (State.answer s l q own data) := by
  unfold State.answer
  repeat' (first
    | intro _ | with_reducible assumption | with_reducible apply bump_canonical | with_reducible apply emit_canonical
    | with_reducible apply canonical_ite | simp only [canonical_mk] | split)

theorem arpRequestStep_canonical (l : Nat) (q : NetQuery) (s : State) (h_s : Canonical s) :
    Canonical (arpRequestStep l q s) := by
  unfold arpRequestStep
  repeat' (first
    | intro _ | with_reducible assumption | with_reducible apply answer_canonical | with_reducible apply canonical_ite
    | simp only [canonical_mk] | split)

theorem neighbourSolicitationStep_canonical (l : Nat) (q : NetQuery) (s : State) (h_s : Canonical s) :
    Canonical (neighbourSolicitationStep l q s) := by
  unfold neighbourSolicitationStep
  repeat' (first
    | intro _ | with_reducible assumption | with_reducible apply answer_canonical | with_reducible apply canonical_ite
    | simp only [canonical_mk] | split)

theorem icmpEchoRequestStep_canonical (l : Nat) (q : NetQuery) (s : State) (h_s : Canonical s) :
    Canonical (icmpEchoRequestStep l q s) := by
  unfold icmpEchoRequestStep
  repeat' (first
    | intro _ | with_reducible assumption | with_reducible apply answer_canonical | with_reducible apply canonical_ite
    | simp only [canonical_mk] | split)

end Sys2Proof.Machine
end

