-- ==== Sys2Proof/Laws/CanonicalTraffic.lean ====
section
/-! SUPPORT. Every operation of Machine/Traffic.lean keeps the canonical forms of memory and of the registers. -/

set_option simprocs false
set_option linter.unusedTactic false
set_option linter.unusedSimpArgs false
set_option linter.unreachableTactic false

namespace Sys2Proof.Machine

theorem frameOutput_canonical (s : State) (o : Out) (h_s : Canonical s) :
    Canonical (State.frameOutput s o) := by
  unfold State.frameOutput
  repeat' (first
    | intro _ | with_reducible assumption | with_reducible apply canonical_ite | simp only [canonical_mk]
    | with_reducible refine canonicalOpt_eq (by with_reducible assumption) ?_
    | with_reducible refine canonicalOptFst_eq (by with_reducible assumption) ?_
    | with_reducible refine canonicalOptFst_eq_1 (by with_reducible assumption) ?_ | split
    | with_reducible apply canonicalOpt_none | with_reducible apply canonicalOpt_some
    | with_reducible apply canonicalOpt_map | with_reducible apply canonicalOpt_ite
    | with_reducible apply canonicalOpt_bind | with_reducible apply canonicalOpt_foldl
    | with_reducible apply canonicalOpt_bind_fst | with_reducible apply canonicalOpt_bind_any
    | with_reducible apply canonicalOptFst_none | with_reducible apply canonicalOptFst_some
    | with_reducible apply canonicalOptFst_map | with_reducible apply canonicalOptFst_ite
    | with_reducible apply canonicalOptFst_bind | with_reducible apply canonicalOptFst_foldl
    | with_reducible apply canonicalOptFst_bind_opt | with_reducible apply canonicalOptFst_bind_any
    | with_reducible apply canonicalOptSnd_none | with_reducible apply canonicalOptSnd_some
    | with_reducible apply canonicalOptSnd_ite)

theorem frameOutputs_canonical (s : State) (h_s : Canonical s) :
    Canonical (State.frameOutputs s) := by
  unfold State.frameOutputs
  repeat' (first
    | intro _ | with_reducible assumption | with_reducible apply frameOutput_canonical
    | with_reducible apply canonical_ite | with_reducible refine canonical_foldl ?_ ?_
    | with_reducible refine canonical_foldl_snd ?_ ?_ | with_reducible refine canonical_foldl_fst ?_ ?_
    | simp only [canonical_mk] | split)

theorem frameTransmitStep_canonical (l : Nat) (cls : Nat) (s : State) (h_s : Canonical s) :
    Canonical (frameTransmitStep l cls s) := by
  unfold frameTransmitStep
  repeat' (first
    | intro _ | with_reducible assumption | with_reducible apply emit_canonical | with_reducible apply setQp_canonical
    | with_reducible apply canonical_ite | with_reducible refine canonical_getD ?_ ?_ | simp only [canonical_mk] | split)

theorem gateEntryBoundaryStep_canonical (l : Nat) (s : State) (h_s : Canonical s) :
    Canonical (gateEntryBoundaryStep l s) := by
  unfold gateEntryBoundaryStep
  repeat' (first
    | intro _ | with_reducible assumption | with_reducible apply setGate_canonical | with_reducible apply canonical_ite
    | with_reducible apply canonical_ite_fst | with_reducible apply canonical_ite_snd | simp only [canonical_mk] | split)

theorem gateConfigChangeStep_canonical (l : Nat) (s : State) (h_s : Canonical s) :
    Canonical (gateConfigChangeStep l s) := by
  unfold gateConfigChangeStep
  repeat' (first
    | intro _ | with_reducible assumption | with_reducible apply event_canonical | with_reducible apply setFld_canonical
    | with_reducible apply setGate_canonical | with_reducible apply canonical_ite | simp only [canonical_mk]
    | with_reducible refine canonicalOpt_eq (by with_reducible assumption) ?_
    | with_reducible refine canonicalOptFst_eq (by with_reducible assumption) ?_
    | with_reducible refine canonicalOptFst_eq_1 (by with_reducible assumption) ?_ | split
    | with_reducible apply canonicalOpt_none | with_reducible apply canonicalOpt_some
    | with_reducible apply canonicalOpt_map | with_reducible apply canonicalOpt_ite
    | with_reducible apply canonicalOpt_bind | with_reducible apply canonicalOpt_foldl
    | with_reducible apply canonicalOpt_bind_fst | with_reducible apply canonicalOpt_bind_any
    | with_reducible apply canonicalOptFst_none | with_reducible apply canonicalOptFst_some
    | with_reducible apply canonicalOptFst_map | with_reducible apply canonicalOptFst_ite
    | with_reducible apply canonicalOptFst_bind | with_reducible apply canonicalOptFst_foldl
    | with_reducible apply canonicalOptFst_bind_opt | with_reducible apply canonicalOptFst_bind_any
    | with_reducible apply canonicalOptSnd_none | with_reducible apply canonicalOptSnd_some
    | with_reducible apply canonicalOptSnd_ite)

theorem gateConfigInstallStep_canonical (l : Nat) (s : State) (h_s : Canonical s) :
    Canonical (gateConfigInstallStep l s) := by
  unfold gateConfigInstallStep
  repeat' (first
    | intro _ | with_reducible assumption | with_reducible apply event_canonical | with_reducible apply setFld_canonical
    | with_reducible apply setGate_canonical | with_reducible apply setRaw_canonical
    | with_reducible apply gateEntryBoundaryStep_canonical | with_reducible apply canonical_ite
    | with_reducible apply canonical_ite_fst | with_reducible apply canonical_ite_snd
    | with_reducible refine canonical_foldl ?_ ?_ | with_reducible refine canonical_foldl_snd ?_ ?_
    | with_reducible refine canonical_foldl_fst ?_ ?_ | simp only [canonical_mk]
    | with_reducible refine canonicalOpt_eq (by with_reducible assumption) ?_
    | with_reducible refine canonicalOptFst_eq (by with_reducible assumption) ?_
    | with_reducible refine canonicalOptFst_eq_1 (by with_reducible assumption) ?_ | split
    | with_reducible apply canonicalOpt_none | with_reducible apply canonicalOpt_some
    | with_reducible apply canonicalOpt_map | with_reducible apply canonicalOpt_ite
    | with_reducible apply canonicalOpt_bind | with_reducible apply canonicalOpt_foldl
    | with_reducible apply canonicalOpt_bind_fst | with_reducible apply canonicalOpt_bind_any
    | with_reducible apply canonicalOptFst_none | with_reducible apply canonicalOptFst_some
    | with_reducible apply canonicalOptFst_map | with_reducible apply canonicalOptFst_ite
    | with_reducible apply canonicalOptFst_bind | with_reducible apply canonicalOptFst_foldl
    | with_reducible apply canonicalOptFst_bind_opt | with_reducible apply canonicalOptFst_bind_any
    | with_reducible apply canonicalOptSnd_none | with_reducible apply canonicalOptSnd_some
    | with_reducible apply canonicalOptSnd_ite)

theorem refreshMeters_canonical (s : State) (h_s : Canonical s) :
    Canonical (State.refreshMeters s) := by
  unfold State.refreshMeters
  repeat' (first
    | intro _ | with_reducible assumption | with_reducible apply canonical_ite | with_reducible apply canonical_ite_fst
    | with_reducible apply canonical_ite_snd | simp only [canonical_mk]
    | with_reducible refine canonicalOpt_eq (by with_reducible assumption) ?_
    | with_reducible refine canonicalOptFst_eq (by with_reducible assumption) ?_
    | with_reducible refine canonicalOptFst_eq_1 (by with_reducible assumption) ?_ | split
    | with_reducible apply canonicalOpt_none | with_reducible apply canonicalOpt_some
    | with_reducible apply canonicalOpt_map | with_reducible apply canonicalOpt_ite
    | with_reducible apply canonicalOpt_bind | with_reducible apply canonicalOpt_foldl
    | with_reducible apply canonicalOpt_bind_fst | with_reducible apply canonicalOpt_bind_any
    | with_reducible apply canonicalOptFst_none | with_reducible apply canonicalOptFst_some
    | with_reducible apply canonicalOptFst_map | with_reducible apply canonicalOptFst_ite
    | with_reducible apply canonicalOptFst_bind | with_reducible apply canonicalOptFst_foldl
    | with_reducible apply canonicalOptFst_bind_opt | with_reducible apply canonicalOptFst_bind_any
    | with_reducible apply canonicalOptSnd_none | with_reducible apply canonicalOptSnd_some
    | with_reducible apply canonicalOptSnd_ite)

theorem holdMeter_canonical (s : State) (m : Nat) (h_s : Canonical s) :
    Canonical (State.holdMeter s m) := by
  unfold State.holdMeter
  repeat' (first
    | intro _ | with_reducible assumption | with_reducible apply refreshMeters_canonical
    | with_reducible apply canonical_ite | simp only [canonical_mk] | split)

theorem meterRefreshStep_canonical (s : State) (h_s : Canonical s) :
    Canonical (meterRefreshStep s) := by
  unfold meterRefreshStep
  repeat' (first
    | intro _ | with_reducible assumption | with_reducible apply refreshMeters_canonical
    | with_reducible apply canonical_ite | simp only [canonical_mk] | split)

theorem metered_canonical (s : State) (m : Nat) (len : Nat) (dscp : Nat) (h_s : Canonical s) :
    Canonical (State.metered s m len dscp).1 := by
  unfold State.metered
  repeat' (first
    | intro _ | with_reducible assumption | with_reducible apply bump_canonical | with_reducible apply event_canonical
    | with_reducible apply refreshMeters_canonical | with_reducible apply tick_canonical
    | with_reducible apply canonical_ite | with_reducible apply canonical_ite_fst | with_reducible apply canonical_ite_snd
    | simp only [canonical_mk] | split)

theorem metered_canonical_eq {s : State} {m : Nat} {len : Nat} {dscp : Nat} {t_ a1_} (h_eq : State.metered s m len dscp = (t_, a1_))
    (h_s : Canonical s) : Canonical t_ := by
  have h_p := metered_canonical s m len dscp h_s
  rw [h_eq] at h_p; exact h_p

theorem sendCnp_canonical (s : State) (i : Nat) (h_s : Canonical s) :
    Canonical (State.sendCnp s i) := by
  unfold State.sendCnp
  repeat' (first
    | intro _ | with_reducible assumption | with_reducible apply emit_canonical | with_reducible apply setQp_canonical
    | with_reducible apply canonical_ite | simp only [canonical_mk] | split)

theorem rocePacketReceiveStep_canonical (k : RocePacket) (s : State) (h_s : Canonical s) :
    Canonical (rocePacketReceiveStep k s) := by
  unfold rocePacketReceiveStep
  repeat' (first
    | intro _ | with_reducible assumption | with_reducible apply bump_canonical | with_reducible apply metered_canonical
    | with_reducible refine metered_canonical_eq (by with_reducible assumption) ?_ | with_reducible apply nak_canonical
    | with_reducible apply sendCnp_canonical | with_reducible apply setQp_canonical | with_reducible apply tick_canonical
    | with_reducible apply canonical_ite | simp only [canonical_mk]
    | with_reducible refine canonical_pair_eq (by with_reducible assumption) ?_ | split
    | with_reducible apply canonical_ite_fst)

theorem countBin_canonical (s : State) (q : Nat) (k : Nat) (h_s : Canonical s) :
    Canonical (State.countBin s q k) := by
  unfold State.countBin
  repeat' (first
    | intro _ | with_reducible assumption | with_reducible apply bump_canonical | with_reducible apply event_canonical
    | with_reducible apply canonical_ite | simp only [canonical_mk] | split)

theorem sampleQueue_canonical (s : State) (q : Nat) (v : Nat × Nat) (h_s : Canonical s) :
    Canonical (State.sampleQueue s q v) := by
  unfold State.sampleQueue
  repeat' (first
    | intro _ | with_reducible assumption | with_reducible apply count_canonical | with_reducible apply countBin_canonical
    | with_reducible apply setFld_canonical | with_reducible apply canonical_ite | with_reducible apply canonical_ite_fst
    | with_reducible apply canonical_ite_snd | simp only [canonical_mk]
    | with_reducible refine canonicalOpt_eq (by with_reducible assumption) ?_
    | with_reducible refine canonicalOptFst_eq (by with_reducible assumption) ?_
    | with_reducible refine canonicalOptFst_eq_1 (by with_reducible assumption) ?_ | split
    | with_reducible apply canonicalOpt_none | with_reducible apply canonicalOpt_some
    | with_reducible apply canonicalOpt_map | with_reducible apply canonicalOpt_ite
    | with_reducible apply canonicalOpt_bind | with_reducible apply canonicalOpt_foldl
    | with_reducible apply canonicalOpt_bind_fst | with_reducible apply canonicalOpt_bind_any
    | with_reducible apply canonicalOptFst_none | with_reducible apply canonicalOptFst_some
    | with_reducible apply canonicalOptFst_map | with_reducible apply canonicalOptFst_ite
    | with_reducible apply canonicalOptFst_bind | with_reducible apply canonicalOptFst_foldl
    | with_reducible apply canonicalOptFst_bind_opt | with_reducible apply canonicalOptFst_bind_any
    | with_reducible apply canonicalOptSnd_none | with_reducible apply canonicalOptSnd_some
    | with_reducible apply canonicalOptSnd_ite)

theorem telemetryWindowEndStep_canonical (h : Nat) (s : State) (h_s : Canonical s) :
    Canonical (telemetryWindowEndStep h s) := by
  unfold telemetryWindowEndStep
  repeat' (first
    | intro _ | with_reducible assumption | with_reducible apply count_canonical | with_reducible apply holdItem_canonical
    | with_reducible refine holdItem_canonical_eq (by with_reducible assumption) ?_ | with_reducible apply canonical_ite
    | with_reducible apply canonical_ite_fst | with_reducible apply canonical_ite_snd
    | with_reducible refine canonical_foldl ?_ ?_ | with_reducible refine canonical_foldl_snd ?_ ?_
    | with_reducible refine canonical_foldl_fst ?_ ?_ | simp only [canonical_mk]
    | with_reducible refine canonicalOpt_eq (by with_reducible assumption) ?_
    | with_reducible refine canonicalOptFst_eq (by with_reducible assumption) ?_
    | with_reducible refine canonicalOptFst_eq_1 (by with_reducible assumption) ?_ | split
    | with_reducible apply canonicalOpt_none | with_reducible apply canonicalOpt_some
    | with_reducible apply canonicalOpt_map | with_reducible apply canonicalOpt_ite
    | with_reducible apply canonicalOpt_bind | with_reducible apply canonicalOpt_foldl
    | with_reducible apply canonicalOpt_bind_fst | with_reducible apply canonicalOpt_bind_any
    | with_reducible apply canonicalOptFst_none | with_reducible apply canonicalOptFst_some
    | with_reducible apply canonicalOptFst_map | with_reducible apply canonicalOptFst_ite
    | with_reducible apply canonicalOptFst_bind | with_reducible apply canonicalOptFst_foldl
    | with_reducible apply canonicalOptFst_bind_opt | with_reducible apply canonicalOptFst_bind_any
    | with_reducible apply canonicalOptSnd_none | with_reducible apply canonicalOptSnd_some
    | with_reducible apply canonicalOptSnd_ite)

theorem endTelemWindows_canonical (s : State) (h_s : Canonical s) :
    Canonical (State.endTelemWindows s) := by
  unfold State.endTelemWindows
  repeat' (first
    | intro _ | with_reducible assumption | with_reducible apply telemetryWindowEndStep_canonical
    | with_reducible apply canonical_ite | with_reducible refine canonical_foldl ?_ ?_
    | with_reducible refine canonical_foldl_snd ?_ ?_ | with_reducible refine canonical_foldl_fst ?_ ?_
    | simp only [canonical_mk] | split)

theorem queueTelemetrySampleStep_canonical (s : State) (h_s : Canonical s) :
    Canonical (queueTelemetrySampleStep s) := by
  unfold queueTelemetrySampleStep
  repeat' (first
    | intro _ | with_reducible assumption | with_reducible apply endTelemWindows_canonical
    | with_reducible apply sampleQueue_canonical | with_reducible apply canonical_ite
    | with_reducible apply canonical_ite_fst | with_reducible apply canonical_ite_snd
    | with_reducible refine canonical_foldl ?_ ?_ | with_reducible refine canonical_foldl_snd ?_ ?_
    | with_reducible refine canonical_foldl_fst ?_ ?_ | simp only [canonical_mk]
    | with_reducible refine canonicalOpt_eq (by with_reducible assumption) ?_
    | with_reducible refine canonicalOptFst_eq (by with_reducible assumption) ?_
    | with_reducible refine canonicalOptFst_eq_1 (by with_reducible assumption) ?_ | split
    | with_reducible apply canonicalOpt_none | with_reducible apply canonicalOpt_some
    | with_reducible apply canonicalOpt_map | with_reducible apply canonicalOpt_ite
    | with_reducible apply canonicalOpt_bind | with_reducible apply canonicalOpt_foldl
    | with_reducible apply canonicalOpt_bind_fst | with_reducible apply canonicalOpt_bind_any
    | with_reducible apply canonicalOptFst_none | with_reducible apply canonicalOptFst_some
    | with_reducible apply canonicalOptFst_map | with_reducible apply canonicalOptFst_ite
    | with_reducible apply canonicalOptFst_bind | with_reducible apply canonicalOptFst_foldl
    | with_reducible apply canonicalOptFst_bind_opt | with_reducible apply canonicalOptFst_bind_any
    | with_reducible apply canonicalOptSnd_none | with_reducible apply canonicalOptSnd_some
    | with_reducible apply canonicalOptSnd_ite)

theorem clearQueue_canonical (s : State) (q : Nat) (h_s : Canonical s) :
    Canonical (State.clearQueue s q) := by
  unfold State.clearQueue
  repeat' (first
    | intro _ | with_reducible assumption | with_reducible apply setRaw_canonical | with_reducible apply canonical_ite
    | with_reducible refine canonical_foldl ?_ ?_ | with_reducible refine canonical_foldl_snd ?_ ?_
    | with_reducible refine canonical_foldl_fst ?_ ?_ | simp only [canonical_mk] | split)

theorem bodyTelemetryRead_canonical (c : Cmd) (s : State) (h_s : Canonical s) :
    Canonical (bodyTelemetryRead c s) := by
  unfold bodyTelemetryRead
  repeat' (first
    | intro _ | with_reducible assumption | with_reducible apply clearQueue_canonical
    | with_reducible apply refuse_canonical | with_reducible apply reply_canonical
    | with_reducible apply replyData_canonical | with_reducible apply shaped_canonical
    | with_reducible apply canonical_ite | with_reducible refine canonical_foldl ?_ ?_
    | with_reducible refine canonical_foldl_snd ?_ ?_ | with_reducible refine canonical_foldl_fst ?_ ?_
    | simp only [canonical_mk] | with_reducible refine canonicalOpt_eq (by with_reducible assumption) ?_
    | with_reducible refine canonicalOptFst_eq (by with_reducible assumption) ?_
    | with_reducible refine canonicalOptFst_eq_1 (by with_reducible assumption) ?_ | split
    | with_reducible apply canonicalOpt_none | with_reducible apply canonicalOpt_some
    | with_reducible apply canonicalOpt_map | with_reducible apply canonicalOpt_ite
    | with_reducible apply canonicalOpt_bind | with_reducible apply canonicalOpt_foldl
    | with_reducible apply canonicalOpt_bind_fst | with_reducible apply canonicalOpt_bind_any
    | with_reducible apply canonicalOptFst_none | with_reducible apply canonicalOptFst_some
    | with_reducible apply canonicalOptFst_map | with_reducible apply canonicalOptFst_ite
    | with_reducible apply canonicalOptFst_bind | with_reducible apply canonicalOptFst_foldl
    | with_reducible apply canonicalOptFst_bind_opt | with_reducible apply canonicalOptFst_bind_any
    | with_reducible apply canonicalOptSnd_none | with_reducible apply canonicalOptSnd_some
    | with_reducible apply canonicalOptSnd_ite)

theorem endTelem_canonical (s : State) (h : Nat) (status : Nat) (h_s : Canonical s) :
    Canonical (State.endTelem s h status) := by
  unfold State.endTelem
  repeat' (first
    | intro _ | with_reducible assumption | with_reducible apply dropCmd_canonical
    | with_reducible apply finalEvent_canonical | with_reducible apply canonical_ite | simp only [canonical_mk] | split)

theorem bodyTelemetrySubscribe_canonical (c : Cmd) (s : State) (h_s : Canonical s) :
    Canonical (bodyTelemetrySubscribe c s) := by
  unfold bodyTelemetrySubscribe
  repeat' (first
    | intro _ | with_reducible assumption | with_reducible apply count_canonical | with_reducible apply endTelem_canonical
    | with_reducible apply refuse_canonical | with_reducible apply sendReply_canonical
    | with_reducible apply shaped_canonical | with_reducible apply canonical_ite | simp only [canonical_mk] | split)

theorem setPtp_canonical (s : State) (f : Ptp → Ptp) (h_s : Canonical s) :
    Canonical (State.setPtp s f) := by
  unfold State.setPtp
  repeat' (first
    | intro _ | with_reducible assumption | with_reducible apply canonical_ite | simp only [canonical_mk] | split)

theorem showFreq_canonical (s : State) (h_s : Canonical s) :
    Canonical (State.showFreq s) := by
  unfold State.showFreq
  repeat' (first
    | intro _ | with_reducible assumption | with_reducible apply setFld_canonical | with_reducible apply canonical_ite
    | simp only [canonical_mk] | split)

theorem ptpAnnounceReceiveStep_canonical (l : Nat) (interval : Nat) (s : State) (h_s : Canonical s) :
    Canonical (ptpAnnounceReceiveStep l interval s) := by
  unfold ptpAnnounceReceiveStep
  repeat' (first
    | intro _ | with_reducible assumption | with_reducible apply bump_canonical | with_reducible apply setFld_canonical
    | with_reducible apply setPtp_canonical | with_reducible apply canonical_ite | simp only [canonical_mk] | split)

theorem ptpExchangeStep_canonical (skip : State → State) (o : Int) (s : State) (h_skip : ∀ (x0 : State), Canonical x0 → Canonical (skip x0)) (h_s : Canonical s) :
    Canonical (ptpExchangeStep skip o s) := by
  unfold ptpExchangeStep
  repeat' (first
    | intro _ | with_reducible assumption | with_reducible apply h_skip | with_reducible apply event_canonical
    | with_reducible apply setFld_canonical | with_reducible apply setPtp_canonical
    | with_reducible apply setRaw_canonical | with_reducible apply setReady_canonical
    | with_reducible apply showFreq_canonical | with_reducible apply take_canonical | with_reducible apply canonical_ite
    | simp only [canonical_mk] | split)

theorem announceTimeoutStep_canonical (s : State) (h_s : Canonical s) :
    Canonical (announceTimeoutStep s) := by
  unfold announceTimeoutStep
  repeat' (first
    | intro _ | with_reducible assumption | with_reducible apply event_canonical | with_reducible apply setFld_canonical
    | with_reducible apply setPtp_canonical | with_reducible apply showFreq_canonical | with_reducible apply canonical_ite
    | simp only [canonical_mk] | split)

theorem ptpDisable_canonical (s : State) (h_s : Canonical s) :
    Canonical (State.ptpDisable s) := by
  unfold State.ptpDisable
  repeat' (first
    | intro _ | with_reducible assumption | with_reducible apply setFld_canonical
    | with_reducible apply setReady_canonical | with_reducible apply canonical_ite | simp only [canonical_mk] | split)

theorem ppsEdgeStep_canonical (s : State) (h_s : Canonical s) :
    Canonical (ppsEdgeStep s) := by
  unfold ppsEdgeStep
  repeat' (first
    | intro _ | with_reducible assumption | with_reducible apply setPtp_canonical
    | with_reducible apply showFreq_canonical | with_reducible apply canonical_ite | simp only [canonical_mk]
    | with_reducible refine canonicalOpt_eq (by with_reducible assumption) ?_
    | with_reducible refine canonicalOptFst_eq (by with_reducible assumption) ?_
    | with_reducible refine canonicalOptFst_eq_1 (by with_reducible assumption) ?_ | split
    | with_reducible apply canonicalOpt_none | with_reducible apply canonicalOpt_some
    | with_reducible apply canonicalOpt_map | with_reducible apply canonicalOpt_ite
    | with_reducible apply canonicalOpt_bind | with_reducible apply canonicalOpt_foldl
    | with_reducible apply canonicalOpt_bind_fst | with_reducible apply canonicalOpt_bind_any
    | with_reducible apply canonicalOptFst_none | with_reducible apply canonicalOptFst_some
    | with_reducible apply canonicalOptFst_map | with_reducible apply canonicalOptFst_ite
    | with_reducible apply canonicalOptFst_bind | with_reducible apply canonicalOptFst_foldl
    | with_reducible apply canonicalOptFst_bind_opt | with_reducible apply canonicalOptFst_bind_any
    | with_reducible apply canonicalOptSnd_none | with_reducible apply canonicalOptSnd_some
    | with_reducible apply canonicalOptSnd_ite)

theorem ppsLossTimeoutStep_canonical (s : State) (h_s : Canonical s) :
    Canonical (ppsLossTimeoutStep s) := by
  unfold ppsLossTimeoutStep
  repeat' (first
    | intro _ | with_reducible assumption | with_reducible apply event_canonical | with_reducible apply setPtp_canonical
    | with_reducible apply canonical_ite | simp only [canonical_mk] | split)

theorem ptpUnitSwapStep_canonical (s : State) (h_s : Canonical s) :
    Canonical (ptpUnitSwapStep s) := by
  unfold ptpUnitSwapStep
  repeat' (first
    | intro _ | with_reducible assumption | with_reducible apply event_canonical | with_reducible apply setPtp_canonical
    | with_reducible apply canonical_ite | simp only [canonical_mk] | split)

end Sys2Proof.Machine
end

