-- ==== Sys2Proof/Laws/CanonicalPower.lean ====
section
/-! SUPPORT. Every operation of Machine/Power.lean keeps the canonical forms of memory and of the registers. -/

set_option simprocs false
set_option linter.unusedTactic false
set_option linter.unusedSimpArgs false
set_option linter.unreachableTactic false

namespace Sys2Proof.Machine

theorem setPwr_canonical (s : State) (f : Pwr → Pwr) (h_s : Canonical s) :
    Canonical (State.setPwr s f) := by
  unfold State.setPwr
  repeat' (first
    | intro _ | with_reducible assumption | with_reducible apply canonical_ite | simp only [canonical_mk] | split)

theorem showCap_canonical (s : State) (h_s : Canonical s) :
    Canonical (State.showCap s) := by
  unfold State.showCap
  repeat' (first
    | intro _ | with_reducible assumption | with_reducible apply setFld_canonical | with_reducible apply canonical_ite
    | simp only [canonical_mk] | split)

theorem reset_csr_wf : Csr.wf State.reset.csr = true := by decide

theorem wipe_canonical (s : State) (h_s : Canonical s) : Canonical (State.wipe s) := by
  unfold State.wipe
  extract_lets r c fw0 sec0 pwr0 t t1
  have h : Canonical t := ⟨memory_wf_nil, reset_csr_wf⟩
  clear_value t
  exact showCap_canonical _ (setFld_canonical _ _ _ _ _ (setFld_canonical _ _ _ _ _ (setFld_canonical _ _ _ _ _ h)))

theorem downEnd_canonical (s : State) (finished : Stamp) (h_s : Canonical s) :
    Canonical (State.downEnd s finished) := by
  unfold State.downEnd
  repeat' (first
    | intro _ | with_reducible assumption | with_reducible apply setPwr_canonical | with_reducible apply canonical_ite
    | simp only [canonical_mk] | split)

theorem powerTick_canonical (s : State) (h_s : Canonical s) :
    Canonical (State.powerTick s) := by
  unfold State.powerTick
  repeat' (first
    | intro _ | with_reducible assumption | with_reducible apply downEnd_canonical | with_reducible apply setPwr_canonical
    | with_reducible apply wipe_canonical | with_reducible apply canonical_ite | simp only [canonical_mk] | split)

theorem powerUpStep_canonical (s : State) (h_s : Canonical s) :
    Canonical (powerUpStep s) := by
  unfold powerUpStep
  repeat' (first
    | intro _ | with_reducible assumption | with_reducible apply setPwr_canonical | with_reducible apply canonical_ite
    | simp only [canonical_mk] | split)

theorem emergencyOff_canonical (s : State) (cause : Nat) (h_s : Canonical s) :
    Canonical (State.emergencyOff s cause) := by
  unfold State.emergencyOff
  repeat' (first
    | intro _ | with_reducible assumption | with_reducible apply setPwr_canonical | with_reducible apply wipe_canonical
    | with_reducible apply canonical_ite | simp only [canonical_mk] | split)

theorem powerDownStep_canonical (s : State) (h_s : Canonical s) :
    Canonical (powerDownStep s) := by
  unfold powerDownStep
  repeat' (first
    | intro _ | with_reducible assumption | with_reducible apply emergencyOff_canonical
    | with_reducible apply event_canonical | with_reducible apply logFree_canonical
    | with_reducible apply setPwr_canonical | with_reducible apply canonical_ite | simp only [canonical_mk] | split)

theorem startFailureStep_canonical (s : State) (h_s : Canonical s) :
    Canonical (startFailureStep s) := by
  unfold startFailureStep
  repeat' (first
    | intro _ | with_reducible assumption | with_reducible apply emergencyOff_canonical
    | with_reducible apply setPwr_canonical | with_reducible apply canonical_ite | simp only [canonical_mk] | split)

theorem inputUndervoltageStep_canonical (mv : Nat) (heldNs : Nat) (s : State) (h_s : Canonical s) :
    Canonical (inputUndervoltageStep mv heldNs s) := by
  unfold inputUndervoltageStep
  repeat' (first
    | intro _ | with_reducible assumption | with_reducible apply emergencyOff_canonical
    | with_reducible apply canonical_ite | simp only [canonical_mk] | split)

theorem inputOvervoltageStep_canonical (mv : Nat) (heldNs : Nat) (s : State) (h_s : Canonical s) :
    Canonical (inputOvervoltageStep mv heldNs s) := by
  unfold inputOvervoltageStep
  repeat' (first
    | intro _ | with_reducible assumption | with_reducible apply emergencyOff_canonical
    | with_reducible apply canonical_ite | simp only [canonical_mk] | split)

theorem railFaultStep_canonical (_r : Nat) (heldNs : Nat) (s : State) (h_s : Canonical s) :
    Canonical (railFaultStep _r heldNs s) := by
  unfold railFaultStep
  repeat' (first
    | intro _ | with_reducible assumption | with_reducible apply emergencyOff_canonical
    | with_reducible apply canonical_ite | simp only [canonical_mk] | split)

theorem standbyPowerOnStep_canonical (s : State) (h_s : Canonical s) :
    Canonical (standbyPowerOnStep s) := by
  unfold standbyPowerOnStep
  repeat' (first
    | intro _ | with_reducible assumption | with_reducible apply setPwr_canonical | with_reducible apply canonical_ite
    | simp only [canonical_mk] | split)

theorem standbyPowerLossStep_canonical (s : State) (h_s : Canonical s) :
    Canonical (standbyPowerLossStep s) := by
  unfold standbyPowerLossStep
  repeat' (first
    | intro _ | with_reducible assumption | with_reducible apply setPwr_canonical | with_reducible apply wipe_canonical
    | with_reducible apply canonical_ite | simp only [canonical_mk] | split)

theorem thermTripReleaseStep_canonical (s : State) (h_s : Canonical s) :
    Canonical (thermTripReleaseStep s) := by
  unfold thermTripReleaseStep
  repeat' (first
    | intro _ | with_reducible assumption | with_reducible apply setPwr_canonical | with_reducible apply canonical_ite
    | simp only [canonical_mk] | split)

theorem moduleReset_canonical (s : State) (clears : Stamp) (h_s : Canonical s) :
    Canonical (State.moduleReset s clears) := by
  unfold State.moduleReset
  repeat' (first
    | intro _ | with_reducible assumption | with_reducible apply hold_canonical | with_reducible apply setPwr_canonical
    | with_reducible apply wipe_canonical | with_reducible apply canonical_ite | simp only [canonical_mk] | split)

theorem moduleResetStep_canonical (s : State) (h_s : Canonical s) :
    Canonical (moduleResetStep s) := by
  unfold moduleResetStep
  repeat' (first
    | intro _ | with_reducible assumption | with_reducible apply moduleReset_canonical
    | with_reducible apply canonical_ite | simp only [canonical_mk] | split)

theorem modRstNAssertStep_canonical (heldNs : Nat) (s : State) (h_s : Canonical s) :
    Canonical (modRstNAssertStep heldNs s) := by
  unfold modRstNAssertStep
  repeat' (first
    | intro _ | with_reducible assumption | with_reducible apply moduleReset_canonical
    | with_reducible apply canonical_ite | simp only [canonical_mk] | split)

theorem refclkLossStep_canonical (heldNs : Nat) (s : State) (h_s : Canonical s) :
    Canonical (refclkLossStep heldNs s) := by
  unfold refclkLossStep
  repeat' (first
    | intro _ | with_reducible assumption | with_reducible apply moduleReset_canonical
    | with_reducible apply canonical_ite | simp only [canonical_mk] | split)

theorem showPower_canonical (s : State) (h_s : Canonical s) :
    Canonical (State.showPower s) := by
  unfold State.showPower
  repeat' (first
    | intro _ | with_reducible assumption | with_reducible apply event_canonical
    | with_reducible apply holdReport_canonical | with_reducible apply icuEvent_canonical
    | with_reducible apply setFld_canonical | with_reducible apply setPwr_canonical
    | with_reducible apply setRaw_canonical | with_reducible apply canonical_ite | simp only [canonical_mk] | split)

theorem powerWindowEndStep_canonical (meanW : Nat) (s : State) (h_s : Canonical s) :
    Canonical (powerWindowEndStep meanW s) := by
  unfold powerWindowEndStep
  repeat' (first
    | intro _ | with_reducible assumption | with_reducible apply setFld_canonical | with_reducible apply setPwr_canonical
    | with_reducible apply showPower_canonical | with_reducible apply canonical_ite | simp only [canonical_mk] | split)

theorem powerEmergencyStep_canonical (c : PowerCondition) (s : State) (h_s : Canonical s) :
    Canonical (powerEmergencyStep c s) := by
  unfold powerEmergencyStep
  repeat' (first
    | intro _ | with_reducible assumption | with_reducible apply setFld_canonical | with_reducible apply setPwr_canonical
    | with_reducible apply showPower_canonical | with_reducible apply canonical_ite | simp only [canonical_mk] | split)

theorem powerEmergencyClearStep_canonical (s : State) (h_s : Canonical s) :
    Canonical (powerEmergencyClearStep s) := by
  unfold powerEmergencyClearStep
  repeat' (first
    | intro _ | with_reducible assumption | with_reducible apply setPwr_canonical
    | with_reducible apply showPower_canonical | with_reducible apply canonical_ite | simp only [canonical_mk] | split)

theorem thermalSampleStep_canonical (temps : List Int) (s : State) (h_s : Canonical s) :
    Canonical (thermalSampleStep temps s) := by
  unfold thermalSampleStep
  repeat' (first
    | intro _ | with_reducible assumption | with_reducible apply emergencyOff_canonical
    | with_reducible apply setFld_canonical | with_reducible apply setPwr_canonical
    | with_reducible apply showPower_canonical | with_reducible apply canonical_ite
    | with_reducible apply canonical_ite_fst | with_reducible apply canonical_ite_snd
    | with_reducible refine canonical_foldl ?_ ?_ | with_reducible refine canonical_foldl_snd ?_ ?_
    | with_reducible refine canonical_foldl_fst ?_ ?_ | simp only [canonical_mk] | split)

theorem setPhase_canonical (s : State) (k : Nat) (v : Nat × Nat) (h_s : Canonical s) :
    Canonical (State.setPhase s k v) := by
  unfold State.setPhase
  repeat' (first
    | intro _ | with_reducible assumption | with_reducible apply setPwr_canonical | with_reducible apply canonical_ite
    | simp only [canonical_mk] | split)

theorem showPhases_canonical (s : State) (h_s : Canonical s) :
    Canonical (State.showPhases s) := by
  unfold State.showPhases
  repeat' (first
    | intro _ | with_reducible assumption | with_reducible apply event_canonical | with_reducible apply setFld_canonical
    | with_reducible apply canonical_ite | with_reducible apply canonical_ite_fst | with_reducible apply canonical_ite_snd
    | simp only [canonical_mk] | split)

theorem phaseFaultStep_canonical (k : Nat) (s : State) (h_s : Canonical s) :
    Canonical (phaseFaultStep k s) := by
  unfold phaseFaultStep
  repeat' (first
    | intro _ | with_reducible assumption | with_reducible apply event_canonical | with_reducible apply report_canonical
    | with_reducible apply setPhase_canonical | with_reducible apply setPwr_canonical
    | with_reducible apply showPhases_canonical | with_reducible apply showPower_canonical
    | with_reducible apply canonical_ite | with_reducible apply canonical_ite_fst | with_reducible apply canonical_ite_snd
    | with_reducible refine canonical_getD ?_ ?_ | simp only [canonical_mk]
    | with_reducible refine canonicalOpt_eq (by with_reducible assumption) ?_
    | with_reducible refine canonicalOptFst_eq (by with_reducible assumption) ?_
    | with_reducible refine canonicalOptFst_eq_1 (by with_reducible assumption) ?_ | split
    | with_reducible apply canonicalOpt_none | with_reducible apply canonicalOpt_some
    | with_reducible apply canonicalOpt_map | with_reducible apply canonicalOpt_ite
    | with_reducible apply canonicalOpt_bind | with_reducible apply canonicalOpt_foldl
    | with_reducible apply canonicalOpt_bind_fst | with_reducible apply canonicalOpt_bind_any
    | with_reducible apply canonicalOptFst_none | with_reducible apply canonicalOptFst_some
    | with_reducible apply canonicalOptFst_map | with_reducible apply canonicalOptFst_ite
    | with_reducible apply canonicalOptFst_bind | with_reducible apply canonicalOptFst_foldl
    | with_reducible apply canonicalOptFst_bind_opt | with_reducible apply canonicalOptFst_bind_any
    | with_reducible apply canonicalOptSnd_none | with_reducible apply canonicalOptSnd_some
    | with_reducible apply canonicalOptSnd_ite)

theorem phaseReenableStep_canonical (k : Nat) (ok : Bool) (s : State) (h_s : Canonical s) :
    Canonical (phaseReenableStep k ok s) := by
  unfold phaseReenableStep
  repeat' (first
    | intro _ | with_reducible assumption | with_reducible apply report_canonical
    | with_reducible apply setPhase_canonical | with_reducible apply showPhases_canonical
    | with_reducible apply canonical_ite | with_reducible apply canonical_ite_fst | with_reducible apply canonical_ite_snd
    | with_reducible refine canonical_getD ?_ ?_ | simp only [canonical_mk] | split)

theorem railOffsetWriteStep_canonical (r : Nat) (steps : Nat) (s : State) (h_s : Canonical s) :
    Canonical (railOffsetWriteStep r steps s) := by
  unfold railOffsetWriteStep
  repeat' (first
    | intro _ | with_reducible assumption | with_reducible apply setFld_canonical | with_reducible apply canonical_ite
    | simp only [canonical_mk] | split)

theorem i3cCapWWriteStep_canonical (w : Nat) (s : State) (h_s : Canonical s) :
    Canonical (i3cCapWWriteStep w s) := by
  unfold i3cCapWWriteStep
  repeat' (first
    | intro _ | with_reducible assumption | with_reducible apply setPwr_canonical | with_reducible apply showCap_canonical
    | with_reducible apply canonical_ite | simp only [canonical_mk] | split)

theorem i3cAlertCauseReadStep_canonical (s : State) (h_s : Canonical s) :
    Canonical (i3cAlertCauseReadStep s) := by
  unfold i3cAlertCauseReadStep
  repeat' (first
    | intro _ | with_reducible assumption | with_reducible apply setPwr_canonical | with_reducible apply canonical_ite
    | with_reducible refine canonical_getD ?_ ?_ | simp only [canonical_mk] | split)

theorem setPort_canonical (s : State) (l : Nat) (f : CxlPort → CxlPort) (h_s : Canonical s) :
    Canonical (State.setPort s l f) := by
  unfold State.setPort
  repeat' (first
    | intro _ | with_reducible assumption | with_reducible apply canonical_ite | simp only [canonical_mk] | split)

theorem setLink_canonical (s : State) (l : Nat) (st : Nat) (h_s : Canonical s) :
    Canonical (State.setLink s l st) := by
  unfold State.setLink
  repeat' (first
    | intro _ | with_reducible assumption | with_reducible apply setFld_canonical | with_reducible apply canonical_ite
    | simp only [canonical_mk] | split)

theorem defaultRange_canonical (s : State) (l : Nat) (h_s : Canonical s) :
    Canonical (State.defaultRange s l) := by
  unfold State.defaultRange
  repeat' (first
    | intro _ | with_reducible assumption | with_reducible apply scramble_canonical
    | with_reducible apply setFld_canonical | with_reducible apply setPart_canonical | with_reducible apply canonical_ite
    | with_reducible apply canonical_ite_fst | with_reducible apply canonical_ite_snd
    | with_reducible refine canonical_foldl ?_ ?_ | with_reducible refine canonical_foldl_snd ?_ ?_
    | with_reducible refine canonical_foldl_fst ?_ ?_ | with_reducible refine canonical_getD ?_ ?_
    | simp only [canonical_mk] | split)

theorem cxlLinkUpStep_canonical (l : Nat) (d : CxlTraining) (s : State) (h_s : Canonical s) :
    Canonical (cxlLinkUpStep l d s) := by
  unfold cxlLinkUpStep
  repeat' (first
    | intro _ | with_reducible assumption | with_reducible apply defaultRange_canonical
    | with_reducible apply event_canonical | with_reducible apply present_canonical
    | with_reducible apply setFld_canonical | with_reducible apply setLink_canonical
    | with_reducible apply setPort_canonical | with_reducible apply setReady_canonical
    | with_reducible apply canonical_ite | simp only [canonical_mk] | split)

theorem cxlTrainRetryStep_canonical (l : Nat) (s : State) (h_s : Canonical s) :
    Canonical (cxlTrainRetryStep l s) := by
  unfold cxlTrainRetryStep
  repeat' (first
    | intro _ | with_reducible assumption | with_reducible apply setPort_canonical | with_reducible apply canonical_ite
    | simp only [canonical_mk] | split)

theorem cxlLost_canonical (s : State) (l : Nat) (h_s : Canonical s) :
    Canonical (State.cxlLost s l) := by
  unfold State.cxlLost
  repeat' (first
    | intro _ | with_reducible assumption | with_reducible apply event_canonical
    | with_reducible apply fetchesLost_canonical | with_reducible apply logFree_canonical
    | with_reducible apply markKvLost_canonical | with_reducible apply markLost_canonical
    | with_reducible apply setFld_canonical | with_reducible apply setLink_canonical
    | with_reducible apply setPort_canonical | with_reducible apply setReady_canonical
    | with_reducible apply canonical_ite | simp only [canonical_mk] | split)

theorem cxlLinkExitStep_canonical (l : Nat) (s : State) (h_s : Canonical s) :
    Canonical (cxlLinkExitStep l s) := by
  unfold cxlLinkExitStep
  repeat' (first
    | intro _ | with_reducible assumption | with_reducible apply bump_canonical | with_reducible apply setPort_canonical
    | with_reducible apply canonical_ite | simp only [canonical_mk] | split)

theorem cxlLinkRecoverStep_canonical (l : Nat) (width : Nat) (how : CxlReturn) (s : State) (h_s : Canonical s) :
    Canonical (cxlLinkRecoverStep l width how s) := by
  unfold cxlLinkRecoverStep
  repeat' (first
    | intro _ | with_reducible assumption | with_reducible apply cxlLost_canonical | with_reducible apply event_canonical
    | with_reducible apply setLink_canonical | with_reducible apply setPort_canonical | with_reducible apply canonical_ite
    | simp only [canonical_mk] | with_reducible refine canonicalOpt_eq (by with_reducible assumption) ?_
    | with_reducible refine canonicalOptFst_eq (by with_reducible assumption) ?_
    | with_reducible refine canonicalOptFst_eq_1 (by with_reducible assumption) ?_ | split
    | with_reducible apply canonicalOpt_none | with_reducible apply canonicalOpt_some
    | with_reducible apply canonicalOpt_map | with_reducible apply canonicalOpt_ite
    | with_reducible apply canonicalOpt_bind | with_reducible apply canonicalOpt_foldl
    | with_reducible apply canonicalOpt_bind_fst | with_reducible apply canonicalOpt_bind_any
    | with_reducible apply canonicalOptFst_none | with_reducible apply canonicalOptFst_some
    | with_reducible apply canonicalOptFst_map | with_reducible apply canonicalOptFst_ite
    | with_reducible apply canonicalOptFst_bind | with_reducible apply canonicalOptFst_foldl
    | with_reducible apply canonicalOptFst_bind_opt | with_reducible apply canonicalOptFst_bind_any
    | with_reducible apply canonicalOptSnd_none | with_reducible apply canonicalOptSnd_some
    | with_reducible apply canonicalOptSnd_ite)

theorem cxlRecoveryTimeoutStep_canonical (l : Nat) (s : State) (h_s : Canonical s) :
    Canonical (cxlRecoveryTimeoutStep l s) := by
  unfold cxlRecoveryTimeoutStep
  repeat' (first
    | intro _ | with_reducible assumption | with_reducible apply cxlLost_canonical | with_reducible apply canonical_ite
    | simp only [canonical_mk] | with_reducible refine canonicalOpt_eq (by with_reducible assumption) ?_
    | with_reducible refine canonicalOptFst_eq (by with_reducible assumption) ?_
    | with_reducible refine canonicalOptFst_eq_1 (by with_reducible assumption) ?_ | split
    | with_reducible apply canonicalOpt_none | with_reducible apply canonicalOpt_some
    | with_reducible apply canonicalOpt_map | with_reducible apply canonicalOpt_ite
    | with_reducible apply canonicalOpt_bind | with_reducible apply canonicalOpt_foldl
    | with_reducible apply canonicalOpt_bind_fst | with_reducible apply canonicalOpt_bind_any
    | with_reducible apply canonicalOptFst_none | with_reducible apply canonicalOptFst_some
    | with_reducible apply canonicalOptFst_map | with_reducible apply canonicalOptFst_ite
    | with_reducible apply canonicalOptFst_bind | with_reducible apply canonicalOptFst_foldl
    | with_reducible apply canonicalOptFst_bind_opt | with_reducible apply canonicalOptFst_bind_any
    | with_reducible apply canonicalOptSnd_none | with_reducible apply canonicalOptSnd_some
    | with_reducible apply canonicalOptSnd_ite)

theorem rearmStep_canonical (l : Nat) (s : State) (h_s : Canonical s) :
    Canonical (rearmStep l s) := by
  unfold rearmStep
  repeat' (first
    | intro _ | with_reducible assumption | with_reducible apply scramble_canonical
    | with_reducible apply setLink_canonical | with_reducible apply canonical_ite | simp only [canonical_mk] | split)

theorem ideIntegrityFailureStep_canonical (l : Nat) (addr : Nat) (s : State) (h_s : Canonical s) :
    Canonical (ideIntegrityFailureStep l addr s) := by
  unfold ideIntegrityFailureStep
  repeat' (first
    | intro _ | with_reducible assumption | with_reducible apply cxlLost_canonical | with_reducible apply dramUe_canonical
    | with_reducible apply setPort_canonical | with_reducible apply canonical_ite | simp only [canonical_mk] | split)

theorem ideKeyRefreshStep_canonical (l : Nat) (s : State) (h_s : Canonical s) :
    Canonical (ideKeyRefreshStep l s) := by
  unfold ideKeyRefreshStep
  repeat' (first
    | intro _ | with_reducible assumption | with_reducible apply setPort_canonical | with_reducible apply canonical_ite
    | simp only [canonical_mk] | split)

theorem cxlLaneFault_canonical (s : State) (l : Nat) (lane : Nat) (h_s : Canonical s) :
    Canonical (State.cxlLaneFault s l lane) := by
  unfold State.cxlLaneFault
  repeat' (first
    | intro _ | with_reducible assumption | with_reducible apply cxlLost_canonical | with_reducible apply event_canonical
    | with_reducible apply setFld_canonical | with_reducible apply setLink_canonical | with_reducible apply canonical_ite
    | simp only [canonical_mk] | split)

end Sys2Proof.Machine
end

