-- ==== Sys2Proof/Laws/CanonicalFaults.lean ====
section
/-! SUPPORT. Every operation of Machine/Faults.lean keeps the canonical forms of memory and of the registers. -/

set_option simprocs false
set_option linter.unusedTactic false
set_option linter.unusedSimpArgs false
set_option linter.unreachableTactic false

namespace Sys2Proof.Machine

theorem setCal_canonical (s : State) (f : Cal → Cal) (h_s : Canonical s) :
    Canonical (State.setCal s f) := by
  unfold State.setCal
  repeat' (first
    | intro _ | with_reducible assumption | with_reducible apply canonical_ite | simp only [canonical_mk] | split)

theorem withdraw_canonical (s : State) (b : Nat) (h_s : Canonical s) :
    Canonical (State.withdraw s b) := by
  unfold State.withdraw
  repeat' (first
    | intro _ | with_reducible assumption | with_reducible apply event_canonical | with_reducible apply setRaw_canonical
    | with_reducible apply setReady_canonical | with_reducible apply canonical_ite | simp only [canonical_mk] | split)

theorem showSpares_canonical (s : State) (h_s : Canonical s) :
    Canonical (State.showSpares s) := by
  unfold State.showSpares
  repeat' (first
    | intro _ | with_reducible assumption | with_reducible apply event_canonical | with_reducible apply setFld_canonical
    | with_reducible apply canonical_ite | with_reducible apply canonical_ite_fst | with_reducible apply canonical_ite_snd
    | simp only [canonical_mk] | split)

theorem loseLathe_canonical (s : State) (n : Nat) (h_s : Canonical s) :
    Canonical (State.loseLathe s n) := by
  unfold State.loseLathe
  repeat' (first
    | intro _ | with_reducible assumption | with_reducible apply install_canonical | with_reducible apply setFld_canonical
    | with_reducible apply canonical_ite | with_reducible apply canonical_ite_fst | with_reducible apply canonical_ite_snd
    | with_reducible refine canonical_foldl ?_ ?_ | with_reducible refine canonical_foldl_snd ?_ ?_
    | with_reducible refine canonical_foldl_fst ?_ ?_ | simp only [canonical_mk]
    | with_reducible refine canonicalOpt_eq (by with_reducible assumption) ?_
    | with_reducible refine canonicalOptFst_eq (by with_reducible assumption) ?_
    | with_reducible refine canonicalOptFst_eq_1 (by with_reducible assumption) ?_ | split
    | with_reducible apply canonicalOpt_none | with_reducible apply canonicalOpt_some
    | with_reducible apply canonicalOpt_map | with_reducible apply canonicalOpt_ite
    | with_reducible apply canonicalOpt_bind | with_reducible apply canonicalOpt_foldl
    | with_reducible apply canonicalOpt_bind_fst | with_reducible apply canonicalOpt_bind_any
    | with_reducible apply canonicalOptFst_none | with_reducible apply canonicalOptFst_some
    | with_reducible apply canonicalOptFst_map | with_reducible apply canonicalOptFst_ite
    | with_reducible apply canonicalOptFst_bind | with_reducible apply canonicalOptFst_foldl
    | with_reducible apply canonicalOptFst_bind_opt | with_reducible apply canonicalOptFst_bind_any
    | with_reducible apply canonicalOptSnd_none | with_reducible apply canonicalOptSnd_some
    | with_reducible apply canonicalOptSnd_ite)

theorem rerunStep_canonical (s : State) (p : Option Nat) (h_s : Canonical s) :
    Canonical (State.rerunStep s p) := by
  unfold State.rerunStep
  repeat' (first
    | intro _ | with_reducible assumption | with_reducible apply abortKernels_canonical
    | with_reducible apply againStep_canonical | with_reducible apply canonical_ite | simp only [canonical_mk] | split)

theorem latheSwap_canonical (s : State) (n : Nat) (h_s : Canonical s) :
    Canonical (State.latheSwap s n) := by
  unfold State.latheSwap
  repeat' (first
    | intro _ | with_reducible assumption | with_reducible apply askLathe_canonical
    | with_reducible apply loseLathe_canonical | with_reducible apply rerunStep_canonical
    | with_reducible apply setFaults_canonical | with_reducible apply setFld_canonical
    | with_reducible apply canonical_ite | with_reducible apply canonical_ite_fst | with_reducible apply canonical_ite_snd
    | simp only [canonical_mk] | split)

theorem stopLathe_canonical (s : State) (n : Nat) (h_s : Canonical s) :
    Canonical (State.stopLathe s n) := by
  unfold State.stopLathe
  repeat' (first
    | intro _ | with_reducible assumption | with_reducible apply abortKernels_canonical
    | with_reducible apply abortLathe_canonical | with_reducible apply canonical_ite | simp only [canonical_mk] | split)

theorem lathePermanent_canonical (s : State) (n : Nat) (cls : Nat) (h_s : Canonical s) :
    Canonical (State.lathePermanent s n cls) := by
  unfold State.lathePermanent
  repeat' (first
    | intro _ | with_reducible assumption | with_reducible apply event_canonical
    | with_reducible apply latheSwap_canonical | with_reducible apply recordPermanent_canonical
    | with_reducible apply setFld_canonical | with_reducible apply showSpares_canonical
    | with_reducible apply stopLathe_canonical | with_reducible apply canonical_ite
    | with_reducible apply canonical_ite_fst | with_reducible apply canonical_ite_snd | simp only [canonical_mk] | split)

theorem moveLathe_canonical (s : State) (n : Nat) (m : Nat) (h_s : Canonical s) :
    Canonical (State.moveLathe s n m) := by
  unfold State.moveLathe
  repeat' (first
    | intro _ | with_reducible assumption | with_reducible apply setFlash_canonical
    | with_reducible apply setFld_canonical | with_reducible apply canonical_ite | with_reducible apply canonical_ite_fst
    | with_reducible apply canonical_ite_snd | simp only [canonical_mk]
    | with_reducible refine canonicalOpt_eq (by with_reducible assumption) ?_
    | with_reducible refine canonicalOptFst_eq (by with_reducible assumption) ?_
    | with_reducible refine canonicalOptFst_eq_1 (by with_reducible assumption) ?_ | split
    | with_reducible apply canonicalOpt_none | with_reducible apply canonicalOpt_some
    | with_reducible apply canonicalOpt_map | with_reducible apply canonicalOpt_ite
    | with_reducible apply canonicalOpt_bind | with_reducible apply canonicalOpt_foldl
    | with_reducible apply canonicalOpt_bind_fst | with_reducible apply canonicalOpt_bind_any
    | with_reducible apply canonicalOptFst_none | with_reducible apply canonicalOptFst_some
    | with_reducible apply canonicalOptFst_map | with_reducible apply canonicalOptFst_ite
    | with_reducible apply canonicalOptFst_bind | with_reducible apply canonicalOptFst_foldl
    | with_reducible apply canonicalOptFst_bind_opt | with_reducible apply canonicalOptFst_bind_any
    | with_reducible apply canonicalOptSnd_none | with_reducible apply canonicalOptSnd_some
    | with_reducible apply canonicalOptSnd_ite)

theorem emptyLathe_canonical (s : State) (n : Nat) (h_s : Canonical s) :
    Canonical (State.emptyLathe s n) := by
  unfold State.emptyLathe
  repeat' (first
    | intro _ | with_reducible assumption | with_reducible apply emptySlot_canonical
    | with_reducible apply setLathe_canonical | with_reducible apply setRunning_canonical
    | with_reducible apply canonical_ite | with_reducible apply canonical_ite_fst | with_reducible apply canonical_ite_snd
    | with_reducible refine canonical_foldl ?_ ?_ | with_reducible refine canonical_foldl_snd ?_ ?_
    | with_reducible refine canonical_foldl_fst ?_ ?_ | simp only [canonical_mk]
    | with_reducible refine canonicalOpt_eq (by with_reducible assumption) ?_
    | with_reducible refine canonicalOptFst_eq (by with_reducible assumption) ?_
    | with_reducible refine canonicalOptFst_eq_1 (by with_reducible assumption) ?_ | split
    | with_reducible apply canonicalOpt_none | with_reducible apply canonicalOpt_some
    | with_reducible apply canonicalOpt_map | with_reducible apply canonicalOpt_ite
    | with_reducible apply canonicalOpt_bind | with_reducible apply canonicalOpt_foldl
    | with_reducible apply canonicalOpt_bind_fst | with_reducible apply canonicalOpt_bind_any
    | with_reducible apply canonicalOptFst_none | with_reducible apply canonicalOptFst_some
    | with_reducible apply canonicalOptFst_map | with_reducible apply canonicalOptFst_ite
    | with_reducible apply canonicalOptFst_bind | with_reducible apply canonicalOptFst_foldl
    | with_reducible apply canonicalOptFst_bind_opt | with_reducible apply canonicalOptFst_bind_any
    | with_reducible apply canonicalOptSnd_none | with_reducible apply canonicalOptSnd_some
    | with_reducible apply canonicalOptSnd_ite)

theorem spareEntryTestCompleteStep_canonical (m : Nat) (pass : Bool) (s : State) (h_s : Canonical s) :
    Canonical (spareEntryTestCompleteStep m pass s) := by
  unfold spareEntryTestCompleteStep
  repeat' (first
    | intro _ | with_reducible assumption | with_reducible apply emptyLathe_canonical
    | with_reducible apply lathePermanent_canonical | with_reducible apply latheSwap_canonical
    | with_reducible apply moveLathe_canonical | with_reducible apply recheckPlans_canonical
    | with_reducible apply rerunStep_canonical | with_reducible apply setFaults_canonical
    | with_reducible apply showSpares_canonical | with_reducible apply canonical_ite
    | with_reducible apply canonical_ite_fst | with_reducible apply canonical_ite_snd | simp only [canonical_mk] | split)

theorem moveWalker_canonical (s : State) (w : Nat) (v : Nat) (h_s : Canonical s) :
    Canonical (State.moveWalker s w v) := by
  unfold State.moveWalker
  repeat' (first
    | intro _ | with_reducible assumption | with_reducible apply setFlash_canonical
    | with_reducible apply setFld_canonical | with_reducible apply canonical_ite | with_reducible apply canonical_ite_fst
    | with_reducible apply canonical_ite_snd | simp only [canonical_mk]
    | with_reducible refine canonicalOpt_eq (by with_reducible assumption) ?_
    | with_reducible refine canonicalOptFst_eq (by with_reducible assumption) ?_
    | with_reducible refine canonicalOptFst_eq_1 (by with_reducible assumption) ?_ | split
    | with_reducible apply canonicalOpt_none | with_reducible apply canonicalOpt_some
    | with_reducible apply canonicalOpt_map | with_reducible apply canonicalOpt_ite
    | with_reducible apply canonicalOpt_bind | with_reducible apply canonicalOpt_foldl
    | with_reducible apply canonicalOpt_bind_fst | with_reducible apply canonicalOpt_bind_any
    | with_reducible apply canonicalOptFst_none | with_reducible apply canonicalOptFst_some
    | with_reducible apply canonicalOptFst_map | with_reducible apply canonicalOptFst_ite
    | with_reducible apply canonicalOptFst_bind | with_reducible apply canonicalOptFst_foldl
    | with_reducible apply canonicalOptFst_bind_opt | with_reducible apply canonicalOptFst_bind_any
    | with_reducible apply canonicalOptSnd_none | with_reducible apply canonicalOptSnd_some
    | with_reducible apply canonicalOptSnd_ite)

theorem loseWalker_canonical (s : State) (w : Nat) (h_s : Canonical s) :
    Canonical (State.loseWalker s w) := by
  unfold State.loseWalker
  repeat' (first
    | intro _ | with_reducible assumption | with_reducible apply install_canonical | with_reducible apply setFld_canonical
    | with_reducible apply setRaw_canonical | with_reducible apply canonical_ite | simp only [canonical_mk] | split)

theorem walkerPermanent_canonical (s : State) (done : Nat → State → State) (w : Nat) (cls : Nat) (h_s : Canonical s) (h_done : ∀ (x0 : Nat), ∀ (x1 : State), Canonical x1 → Canonical (done x0 x1)) :
    Canonical (State.walkerPermanent s done w cls) := by
  unfold State.walkerPermanent
  repeat' (first
    | intro _ | with_reducible assumption | with_reducible apply h_done | with_reducible apply failMergeOn_canonical
    | with_reducible apply loseWalker_canonical | with_reducible apply moveWalker_canonical
    | with_reducible apply recordPermanent_canonical | with_reducible apply restartSearches_canonical
    | with_reducible apply setFaults_canonical | with_reducible apply setFld_canonical
    | with_reducible apply showSpares_canonical | with_reducible apply canonical_ite
    | with_reducible apply canonical_ite_fst | with_reducible apply canonical_ite_snd | simp only [canonical_mk] | split)

theorem pchUsed_canonical (s : State) (stack : Nat) (h_s : Canonical s) :
    Canonical (State.pchUsed s stack) := by
  unfold State.pchUsed
  repeat' (first
    | intro _ | with_reducible assumption | with_reducible apply event_canonical | with_reducible apply setFld_canonical
    | with_reducible apply canonical_ite | simp only [canonical_mk] | split)

theorem freshCells_canonical (s : State) (g : Nat) (row : Option Nat) (h_s : Canonical s) :
    Canonical (State.freshCells s g row) := by
  unfold State.freshCells
  repeat' (first
    | intro _ | with_reducible assumption | with_reducible apply canonical_ite | with_reducible apply canonical_ite_fst
    | with_reducible apply canonical_ite_snd | simp only [canonical_mk] | split)

theorem startMove_canonical (s : State) (g : Nat) (h_s : Canonical s) :
    Canonical (State.startMove s g) := by
  unfold State.startMove
  repeat' (first
    | intro _ | with_reducible assumption | with_reducible apply setFaults_canonical
    | with_reducible apply setFld_canonical | with_reducible apply canonical_ite
    | with_reducible refine canonical_getD ?_ ?_ | simp only [canonical_mk] | split)

theorem copyRange_canonical (s : State) (src dst n : Nat) (h_s : Canonical s) : Canonical (State.copyRange s src dst n) := by
  have h1 := zeroRange_canonical s dst n h_s
  unfold State.copyRange
  extract_lets cells bad s1
  have h : Canonical s1 := h1
  clear_value cells bad s1
  refine canonical_foldl ?_ (fun s b h => poison_canonical _ _ h)
  exact ⟨Memory.wf_foldl_set _ _ _ _ h.1, h.2⟩

theorem moveCopy_canonical (s : State) (k : Nat) (h_s : Canonical s) :
    Canonical (State.moveCopy s k) := by
  unfold State.moveCopy
  repeat' (first
    | intro _ | with_reducible assumption | with_reducible apply copyRange_canonical
    | with_reducible apply event_canonical | with_reducible apply setFld_canonical
    | with_reducible apply zeroRange_canonical | with_reducible apply canonical_ite | simp only [canonical_mk] | split)

theorem pchPermanent_canonical (s : State) (g : Nat) (cls : Nat) (h_s : Canonical s) :
    Canonical (State.pchPermanent s g cls) := by
  unfold State.pchPermanent
  repeat' (first
    | intro _ | with_reducible assumption | with_reducible apply moveCopy_canonical
    | with_reducible apply pchUsed_canonical | with_reducible apply recordPermanent_canonical
    | with_reducible apply setFaults_canonical | with_reducible apply setFld_canonical
    | with_reducible apply startMove_canonical | with_reducible apply canonical_ite | simp only [canonical_mk] | split)

theorem fwCopyMoveCompleteStep_canonical (stack : Nat) (s : State) (h_s : Canonical s) :
    Canonical (fwCopyMoveCompleteStep stack s) := by
  unfold fwCopyMoveCompleteStep
  repeat' (first
    | intro _ | with_reducible assumption | with_reducible apply moveCopy_canonical
    | with_reducible apply setFaults_canonical | with_reducible apply canonical_ite | simp only [canonical_mk] | split)

theorem pchMigrationSwitchStep_canonical (stack : Nat) (s : State) (h_s : Canonical s) :
    Canonical (pchMigrationSwitchStep stack s) := by
  unfold pchMigrationSwitchStep
  repeat' (first
    | intro _ | with_reducible assumption | with_reducible apply freshCells_canonical
    | with_reducible apply pchUsed_canonical | with_reducible apply setFaults_canonical
    | with_reducible apply setFlash_canonical | with_reducible apply setFld_canonical
    | with_reducible apply startMove_canonical | with_reducible apply zeroRange_canonical
    | with_reducible apply canonical_ite | with_reducible apply canonical_ite_fst | with_reducible apply canonical_ite_snd
    | simp only [canonical_mk] | with_reducible refine canonicalOpt_eq (by with_reducible assumption) ?_
    | with_reducible refine canonicalOptFst_eq (by with_reducible assumption) ?_
    | with_reducible refine canonicalOptFst_eq_1 (by with_reducible assumption) ?_ | split
    | with_reducible apply canonicalOpt_none | with_reducible apply canonicalOpt_some
    | with_reducible apply canonicalOpt_map | with_reducible apply canonicalOpt_ite
    | with_reducible apply canonicalOpt_bind | with_reducible apply canonicalOpt_foldl
    | with_reducible apply canonicalOpt_bind_fst | with_reducible apply canonicalOpt_bind_any
    | with_reducible apply canonicalOptFst_none | with_reducible apply canonicalOptFst_some
    | with_reducible apply canonicalOptFst_map | with_reducible apply canonicalOptFst_ite
    | with_reducible apply canonicalOptFst_bind | with_reducible apply canonicalOptFst_foldl
    | with_reducible apply canonicalOptFst_bind_opt | with_reducible apply canonicalOptFst_bind_any
    | with_reducible apply canonicalOptSnd_none | with_reducible apply canonicalOptSnd_some
    | with_reducible apply canonicalOptSnd_ite)

theorem rowPermanent_canonical (s0 : State) (g : Nat) (row : Nat) (cls : Nat) (h_s0 : Canonical s0) :
    Canonical (State.rowPermanent s0 g row cls) := by
  unfold State.rowPermanent
  repeat' (first
    | intro _ | with_reducible assumption | with_reducible apply freshCells_canonical
    | with_reducible apply pchPermanent_canonical | with_reducible apply recordPermanent_canonical
    | with_reducible apply setFaults_canonical | with_reducible apply tick_canonical | with_reducible apply canonical_ite
    | with_reducible apply canonical_ite_fst | with_reducible apply canonical_ite_snd | simp only [canonical_mk] | split)

theorem wayPermanent_canonical (s : State) (w : Nat) (cls : Nat) (h_s : Canonical s) :
    Canonical (State.wayPermanent s w cls) := by
  unfold State.wayPermanent
  repeat' (first
    | intro _ | with_reducible assumption | with_reducible apply endTears_canonical
    | with_reducible apply install_canonical | with_reducible apply recordPermanent_canonical
    | with_reducible apply setRaw_canonical | with_reducible apply tearContext_canonical
    | with_reducible apply canonical_ite | with_reducible apply canonical_ite_fst | with_reducible apply canonical_ite_snd
    | with_reducible refine canonical_foldl ?_ ?_ | with_reducible refine canonical_foldl_snd ?_ ?_
    | with_reducible refine canonical_foldl_fst ?_ ?_ | simp only [canonical_mk]
    | with_reducible refine canonicalOpt_eq (by with_reducible assumption) ?_
    | with_reducible refine canonicalOptFst_eq (by with_reducible assumption) ?_
    | with_reducible refine canonicalOptFst_eq_1 (by with_reducible assumption) ?_ | split
    | with_reducible apply canonicalOpt_none | with_reducible apply canonicalOpt_some
    | with_reducible apply canonicalOpt_map | with_reducible apply canonicalOpt_ite
    | with_reducible apply canonicalOpt_bind | with_reducible apply canonicalOpt_foldl
    | with_reducible apply canonicalOpt_bind_fst | with_reducible apply canonicalOpt_bind_any
    | with_reducible apply canonicalOptFst_none | with_reducible apply canonicalOptFst_some
    | with_reducible apply canonicalOptFst_map | with_reducible apply canonicalOptFst_ite
    | with_reducible apply canonicalOptFst_bind | with_reducible apply canonicalOptFst_foldl
    | with_reducible apply canonicalOptFst_bind_opt | with_reducible apply canonicalOptFst_bind_any
    | with_reducible apply canonicalOptSnd_none | with_reducible apply canonicalOptSnd_some
    | with_reducible apply canonicalOptSnd_ite)

theorem selPermanent_canonical (s : State) (u : Nat) (cls : Nat) (h_s : Canonical s) :
    Canonical (State.selPermanent s u cls) := by
  unfold State.selPermanent
  repeat' (first
    | intro _ | with_reducible assumption | with_reducible apply recordPermanent_canonical
    | with_reducible apply setFld_canonical | with_reducible apply withdraw_canonical | with_reducible apply canonical_ite
    | simp only [canonical_mk] | split)

theorem tokPermanent_canonical (s : State) (e : Nat) (cls : Nat) (h_s : Canonical s) :
    Canonical (State.tokPermanent s e cls) := by
  unfold State.tokPermanent
  repeat' (first
    | intro _ | with_reducible assumption | with_reducible apply recordPermanent_canonical
    | with_reducible apply withdraw_canonical | with_reducible apply canonical_ite | simp only [canonical_mk] | split)

theorem phasePermanent_canonical (s : State) (k : Nat) (cls : Nat) (h_s : Canonical s) :
    Canonical (State.phasePermanent s k cls) := by
  unfold State.phasePermanent
  repeat' (first
    | intro _ | with_reducible assumption | with_reducible apply recordPermanent_canonical
    | with_reducible apply setPhase_canonical | with_reducible apply setPwr_canonical | with_reducible apply canonical_ite
    | simp only [canonical_mk] | split)

theorem rotPermanent_canonical (s : State) (cls : Nat) (h_s : Canonical s) :
    Canonical (State.rotPermanent s cls) := by
  unfold State.rotPermanent
  repeat' (first
    | intro _ | with_reducible assumption | with_reducible apply moduleReset_canonical
    | with_reducible apply recordPermanent_canonical | with_reducible apply canonical_ite | simp only [canonical_mk]
    | split)

theorem sramWithdraw_canonical (s : State) (inst : Nat) (h_s : Canonical s) :
    Canonical (State.sramWithdraw s inst) := by
  unfold State.sramWithdraw
  repeat' (first
    | intro _ | with_reducible assumption | with_reducible apply event_canonical | with_reducible apply withdraw_canonical
    | with_reducible apply canonical_ite | simp only [canonical_mk] | split)

theorem storeWithdraw_canonical (s : State) (stack : Nat) (store : Nat) (h_s : Canonical s) :
    Canonical (State.storeWithdraw s stack store) := by
  unfold State.storeWithdraw
  repeat' (first
    | intro _ | with_reducible assumption | with_reducible apply store_canonical | with_reducible apply tick_canonical
    | with_reducible apply canonical_ite | simp only [canonical_mk] | split)

theorem permanent_canonical (s : State) (done : Nat → State → State) (kind : Nat) (inst : Nat) (detail : Nat) (cls : Nat) (h_s : Canonical s) (h_done : ∀ (x0 : Nat), ∀ (x1 : State), Canonical x1 → Canonical (done x0 x1)) :
    Canonical (State.permanent s done kind inst detail cls) := by
  unfold State.permanent
  repeat' (first
    | intro _ | with_reducible assumption | with_reducible apply h_done | with_reducible apply cxlLaneFault_canonical
    | with_reducible apply laneFault_canonical | with_reducible apply lathePermanent_canonical
    | with_reducible apply moduleReset_canonical | with_reducible apply pchPermanent_canonical
    | with_reducible apply phasePermanent_canonical | with_reducible apply recordPermanent_canonical
    | with_reducible apply retireAs_canonical | with_reducible apply rotPermanent_canonical
    | with_reducible apply rowPermanent_canonical | with_reducible apply selPermanent_canonical
    | with_reducible apply setFaults_canonical | with_reducible apply setFld_canonical
    | with_reducible apply sramWithdraw_canonical | with_reducible apply storeWithdraw_canonical
    | with_reducible apply tokPermanent_canonical | with_reducible apply walkerPermanent_canonical
    | with_reducible apply wayPermanent_canonical | with_reducible apply ptpUnitSwapStep_canonical
    | with_reducible apply canonical_ite | with_reducible apply canonical_ite_fst | with_reducible apply canonical_ite_snd
    | simp only [canonical_mk] | split)

theorem putTrack_canonical (s : State) (t : Track) (h_s : Canonical s) :
    Canonical (State.putTrack s t) := by
  unfold State.putTrack
  repeat' (first
    | intro _ | with_reducible assumption | with_reducible apply setFaults_canonical | with_reducible apply canonical_ite
    | simp only [canonical_mk] | split)

theorem trieError_canonical (s : State) (corrected : Bool) (h_s : Canonical s) :
    Canonical (State.trieError s corrected) := by
  unfold State.trieError
  repeat' (first
    | intro _ | with_reducible assumption | with_reducible apply dropJob_canonical | with_reducible apply event_canonical
    | with_reducible apply tick_canonical | with_reducible apply tokFail_canonical | with_reducible apply canonical_ite
    | simp only [canonical_mk] | split)

theorem errorFound_canonical (s : State) (f : FaultReport) (h_s : Canonical s) :
    Canonical (State.errorFound s f) := by
  unfold State.errorFound
  repeat' (first
    | intro _ | with_reducible assumption | with_reducible apply endCmd_canonical | with_reducible apply event_canonical
    | with_reducible apply log_canonical | with_reducible apply poison_canonical
    | with_reducible apply spnLogPut_canonical | with_reducible apply store_canonical
    | with_reducible apply tick_canonical | with_reducible apply trieError_canonical | with_reducible apply canonical_ite
    | with_reducible apply canonical_ite_fst | with_reducible apply canonical_ite_snd
    | with_reducible refine canonical_foldl ?_ ?_ | with_reducible refine canonical_foldl_snd ?_ ?_
    | with_reducible refine canonical_foldl_fst ?_ ?_ | simp only [canonical_mk]
    | with_reducible refine canonicalOpt_eq (by with_reducible assumption) ?_
    | with_reducible refine canonicalOptFst_eq (by with_reducible assumption) ?_
    | with_reducible refine canonicalOptFst_eq_1 (by with_reducible assumption) ?_ | split
    | with_reducible apply canonicalOpt_none | with_reducible apply canonicalOpt_some
    | with_reducible apply canonicalOpt_map | with_reducible apply canonicalOpt_ite
    | with_reducible apply canonicalOpt_bind | with_reducible apply canonicalOpt_foldl
    | with_reducible apply canonicalOpt_bind_fst | with_reducible apply canonicalOpt_bind_any
    | with_reducible apply canonicalOptFst_none | with_reducible apply canonicalOptFst_some
    | with_reducible apply canonicalOptFst_map | with_reducible apply canonicalOptFst_ite
    | with_reducible apply canonicalOptFst_bind | with_reducible apply canonicalOptFst_foldl
    | with_reducible apply canonicalOptFst_bind_opt | with_reducible apply canonicalOptFst_bind_any
    | with_reducible apply canonicalOptSnd_none | with_reducible apply canonicalOptSnd_some
    | with_reducible apply canonicalOptSnd_ite)

theorem takeReport_canonical (s : State) (f : FaultReport) (h_s : Canonical s) :
    Canonical (State.takeReport s f).1 := by
  unfold State.takeReport
  repeat' (first
    | intro _ | with_reducible assumption | with_reducible apply errorFound_canonical | with_reducible apply canonical_ite
    | with_reducible apply canonical_ite_fst | with_reducible apply canonical_ite_snd | simp only [canonical_mk] | split)

theorem takeReport_canonical_eq {s : State} {f : FaultReport} {t_ a1_} (h_eq : State.takeReport s f = (t_, a1_))
    (h_s : Canonical s) : Canonical t_ := by
  have h_p := takeReport_canonical s f h_s
  rw [h_eq] at h_p; exact h_p

theorem faultReportStep_canonical (done : Nat → State → State) (f : FaultReport) (s0 : State) (h_done : ∀ (x0 : Nat), ∀ (x1 : State), Canonical x1 → Canonical (done x0 x1)) (h_s0 : Canonical s0) :
    Canonical (faultReportStep done f s0) := by
  unfold faultReportStep
  repeat' (first
    | intro _ | with_reducible assumption | with_reducible apply h_done | with_reducible apply bump_canonical
    | with_reducible apply count_canonical | with_reducible apply event_canonical | with_reducible apply logFree_canonical
    | with_reducible apply permanent_canonical | with_reducible apply putTrack_canonical
    | with_reducible apply takeReport_canonical
    | with_reducible refine takeReport_canonical_eq (by with_reducible assumption) ?_ | with_reducible apply canonical_ite
    | with_reducible apply canonical_ite_fst | with_reducible apply canonical_ite_snd | simp only [canonical_mk] | split)

theorem underTest_canonical (s : State) (kind : Nat) (n : Nat) (h_s : Canonical s) :
    Canonical (State.underTest s kind n) := by
  unfold State.underTest
  repeat' (first
    | intro _ | with_reducible assumption | with_reducible apply setFaults_canonical | with_reducible apply canonical_ite
    | with_reducible apply canonical_ite_fst | with_reducible apply canonical_ite_snd | simp only [canonical_mk] | split)

theorem copyBuffers_canonical (s : State) (n : Nat) (m : Nat) (h_s : Canonical s) :
    Canonical (State.copyBuffers s n m) := by
  unfold State.copyBuffers
  repeat' (first
    | intro _ | with_reducible assumption | with_reducible apply copyRange_canonical | with_reducible apply canonical_ite
    | simp only [canonical_mk] | split)

theorem plannedLathe_canonical (s : State) (n : Nat) (m : Nat) (h_s : Canonical s) :
    Canonical (State.plannedLathe s n m) := by
  unfold State.plannedLathe
  repeat' (first
    | intro _ | with_reducible assumption | with_reducible apply copyBuffers_canonical
    | with_reducible apply moveLathe_canonical | with_reducible apply setFld_canonical
    | with_reducible apply setLathe_canonical | with_reducible apply underTest_canonical
    | with_reducible apply canonical_ite | simp only [canonical_mk] | split)

theorem plannedWalker_canonical (s : State) (w : Nat) (v : Nat) (h_s : Canonical s) :
    Canonical (State.plannedWalker s w v) := by
  unfold State.plannedWalker
  repeat' (first
    | intro _ | with_reducible assumption | with_reducible apply moveWalker_canonical
    | with_reducible apply setFld_canonical | with_reducible apply underTest_canonical
    | with_reducible apply canonical_ite | simp only [canonical_mk] | split)

theorem rollingTestStep_canonical (k : TestKind) (n : Nat) (s : State) (h_s : Canonical s) :
    Canonical (rollingTestStep k n s) := by
  unfold rollingTestStep
  repeat' (first
    | intro _ | with_reducible assumption | with_reducible apply askLathe_canonical
    | with_reducible apply plannedLathe_canonical | with_reducible apply plannedWalker_canonical
    | with_reducible apply setFaults_canonical | with_reducible apply setFld_canonical
    | with_reducible apply canonical_ite | simp only [canonical_mk] | split)

theorem walkerSwapTimeoutStep_canonical (w : Nat) (s : State) (h_s : Canonical s) :
    Canonical (walkerSwapTimeoutStep w s) := by
  unfold walkerSwapTimeoutStep
  repeat' (first
    | intro _ | with_reducible assumption | with_reducible apply plannedWalker_canonical
    | with_reducible apply retake_canonical | with_reducible apply setFaults_canonical
    | with_reducible apply setFld_canonical | with_reducible apply canonical_ite | with_reducible apply canonical_ite_fst
    | with_reducible apply canonical_ite_snd | with_reducible refine canonical_foldl ?_ ?_
    | with_reducible refine canonical_foldl_snd ?_ ?_ | with_reducible refine canonical_foldl_fst ?_ ?_
    | simp only [canonical_mk] | with_reducible refine canonicalOpt_eq (by with_reducible assumption) ?_
    | with_reducible refine canonicalOptFst_eq (by with_reducible assumption) ?_
    | with_reducible refine canonicalOptFst_eq_1 (by with_reducible assumption) ?_ | split
    | with_reducible apply canonicalOpt_none | with_reducible apply canonicalOpt_some
    | with_reducible apply canonicalOpt_map | with_reducible apply canonicalOpt_ite
    | with_reducible apply canonicalOpt_bind | with_reducible apply canonicalOpt_foldl
    | with_reducible apply canonicalOpt_bind_fst | with_reducible apply canonicalOpt_bind_any
    | with_reducible apply canonicalOptFst_none | with_reducible apply canonicalOptFst_some
    | with_reducible apply canonicalOptFst_map | with_reducible apply canonicalOptFst_ite
    | with_reducible apply canonicalOptFst_bind | with_reducible apply canonicalOptFst_foldl
    | with_reducible apply canonicalOptFst_bind_opt | with_reducible apply canonicalOptFst_bind_any
    | with_reducible apply canonicalOptSnd_none | with_reducible apply canonicalOptSnd_some
    | with_reducible apply canonicalOptSnd_ite)

theorem rollingTestCompleteStep_canonical (done : Nat → State → State) (k : TestKind) (n : Nat) (pass : Bool) (s : State) (h_done : ∀ (x0 : Nat), ∀ (x1 : State), Canonical x1 → Canonical (done x0 x1)) (h_s : Canonical s) :
    Canonical (rollingTestCompleteStep done k n pass s) := by
  unfold rollingTestCompleteStep
  repeat' (first
    | intro _ | with_reducible assumption | with_reducible apply h_done | with_reducible apply lathePermanent_canonical
    | with_reducible apply latheSwap_canonical | with_reducible apply loseWalker_canonical
    | with_reducible apply moveWalker_canonical | with_reducible apply setFaults_canonical
    | with_reducible apply setFld_canonical | with_reducible apply showSpares_canonical
    | with_reducible apply walkerPermanent_canonical | with_reducible apply canonical_ite
    | with_reducible apply canonical_ite_fst | with_reducible apply canonical_ite_snd | simp only [canonical_mk] | split)

theorem takeReading_canonical (s : State) (n : Nat) (d : Nat) (h_s : Canonical s) :
    Canonical (State.takeReading s n d) := by
  unfold State.takeReading
  repeat' (first
    | intro _ | with_reducible assumption | with_reducible apply event_canonical | with_reducible apply report_canonical
    | with_reducible apply setFld_canonical | with_reducible apply canonical_ite | simp only [canonical_mk] | split)

theorem showMons_canonical (s : State) (h_s : Canonical s) :
    Canonical (State.showMons s) := by
  unfold State.showMons
  repeat' (first
    | intro _ | with_reducible assumption | with_reducible apply setFld_canonical | with_reducible apply canonical_ite
    | with_reducible refine canonical_foldl ?_ ?_ | with_reducible refine canonical_foldl_snd ?_ ?_
    | with_reducible refine canonical_foldl_fst ?_ ?_ | simp only [canonical_mk]
    | with_reducible refine canonicalOpt_eq (by with_reducible assumption) ?_
    | with_reducible refine canonicalOptFst_eq (by with_reducible assumption) ?_
    | with_reducible refine canonicalOptFst_eq_1 (by with_reducible assumption) ?_ | split
    | with_reducible apply canonicalOpt_none | with_reducible apply canonicalOpt_some
    | with_reducible apply canonicalOpt_map | with_reducible apply canonicalOpt_ite
    | with_reducible apply canonicalOpt_bind | with_reducible apply canonicalOpt_foldl
    | with_reducible apply canonicalOpt_bind_fst | with_reducible apply canonicalOpt_bind_any
    | with_reducible apply canonicalOptFst_none | with_reducible apply canonicalOptFst_some
    | with_reducible apply canonicalOptFst_map | with_reducible apply canonicalOptFst_ite
    | with_reducible apply canonicalOptFst_bind | with_reducible apply canonicalOptFst_foldl
    | with_reducible apply canonicalOptFst_bind_opt | with_reducible apply canonicalOptFst_bind_any
    | with_reducible apply canonicalOptSnd_none | with_reducible apply canonicalOptSnd_some
    | with_reducible apply canonicalOptSnd_ite)

theorem measureRegion_canonical (s : State) (r : Nat) (h_s : Canonical s) :
    Canonical (State.measureRegion s r) := by
  unfold State.measureRegion
  repeat' (first
    | intro _ | with_reducible assumption | with_reducible apply takeReading_canonical
    | with_reducible apply canonical_ite | with_reducible refine canonical_foldl ?_ ?_
    | with_reducible refine canonical_foldl_snd ?_ ?_ | with_reducible refine canonical_foldl_fst ?_ ?_
    | simp only [canonical_mk] | split)

theorem raiseOffset_canonical (s : State) (r : Nat) (target : Nat) (y0 : Nat) (h_s : Canonical s) :
    Canonical (State.raiseOffset s r target y0) := by
  revert h_s
  fun_induction State.raiseOffset s r target y0 <;> intro h_s
  all_goals
    repeat' (first
      | intro _ | with_reducible assumption | with_reducible apply_assumption -exfalso -symm
      | with_reducible apply event_canonical | with_reducible apply measureRegion_canonical
      | with_reducible apply setFld_canonical | with_reducible apply canonical_ite | simp only [canonical_mk] | split
      | (simp +zetaDelta only [canonical_mk]; done) | simp +zetaDelta only [canonical_mk])

theorem planRegion_canonical (s : State) (r : Nat) (target : Nat) (low : Nat) (h_s : Canonical s) :
    Canonical (State.planRegion s r target low) := by
  unfold State.planRegion
  repeat' (first
    | intro _ | with_reducible assumption | with_reducible apply event_canonical
    | with_reducible apply measureRegion_canonical | with_reducible apply raiseOffset_canonical
    | with_reducible apply setCal_canonical | with_reducible apply setFld_canonical | with_reducible apply canonical_ite
    | simp only [canonical_mk] | split)

theorem marginPlan_canonical (s : State) (h_s : Canonical s) :
    Canonical (State.marginPlan s) := by
  unfold State.marginPlan
  repeat' (first
    | intro _ | with_reducible assumption | with_reducible apply event_canonical
    | with_reducible apply planRegion_canonical | with_reducible apply setCal_canonical
    | with_reducible apply setFlash_canonical | with_reducible apply setFld_canonical
    | with_reducible apply showMons_canonical | with_reducible apply canonical_ite
    | with_reducible apply canonical_ite_fst | with_reducible apply canonical_ite_snd
    | with_reducible refine canonical_foldl ?_ ?_ | with_reducible refine canonical_foldl_snd ?_ ?_
    | with_reducible refine canonical_foldl_fst ?_ ?_ | simp only [canonical_mk]
    | with_reducible refine canonicalOpt_eq (by with_reducible assumption) ?_
    | with_reducible refine canonicalOptFst_eq (by with_reducible assumption) ?_
    | with_reducible refine canonicalOptFst_eq_1 (by with_reducible assumption) ?_ | split
    | with_reducible apply canonicalOpt_none | with_reducible apply canonicalOpt_some
    | with_reducible apply canonicalOpt_map | with_reducible apply canonicalOpt_ite
    | with_reducible apply canonicalOpt_bind | with_reducible apply canonicalOpt_foldl
    | with_reducible apply canonicalOpt_bind_fst | with_reducible apply canonicalOpt_bind_any
    | with_reducible apply canonicalOptFst_none | with_reducible apply canonicalOptFst_some
    | with_reducible apply canonicalOptFst_map | with_reducible apply canonicalOptFst_ite
    | with_reducible apply canonicalOptFst_bind | with_reducible apply canonicalOptFst_foldl
    | with_reducible apply canonicalOptFst_bind_opt | with_reducible apply canonicalOptFst_bind_any
    | with_reducible apply canonicalOptSnd_none | with_reducible apply canonicalOptSnd_some
    | with_reducible apply canonicalOptSnd_ite)

theorem caliperMeasureStep_canonical (readings : List Nat) (s : State) (h_s : Canonical s) :
    Canonical (caliperMeasureStep readings s) := by
  unfold caliperMeasureStep
  repeat' (first
    | intro _ | with_reducible assumption | with_reducible apply marginPlan_canonical
    | with_reducible apply setReady_canonical | with_reducible apply showMons_canonical
    | with_reducible apply takeReading_canonical | with_reducible apply canonical_ite
    | with_reducible apply canonical_ite_fst | with_reducible apply canonical_ite_snd
    | with_reducible refine canonical_foldl ?_ ?_ | with_reducible refine canonical_foldl_snd ?_ ?_
    | with_reducible refine canonical_foldl_fst ?_ ?_ | simp only [canonical_mk] | split)

theorem binChangeStep_canonical (r : Nat) (s : State) (h_s : Canonical s) :
    Canonical (binChangeStep r s) := by
  unfold binChangeStep
  repeat' (first
    | intro _ | with_reducible assumption | with_reducible apply recheckPlans_canonical
    | with_reducible apply setCal_canonical | with_reducible apply setFld_canonical | with_reducible apply canonical_ite
    | with_reducible refine canonical_foldl ?_ ?_ | with_reducible refine canonical_foldl_snd ?_ ?_
    | with_reducible refine canonical_foldl_fst ?_ ?_ | simp only [canonical_mk]
    | with_reducible refine canonicalOpt_eq (by with_reducible assumption) ?_
    | with_reducible refine canonicalOptFst_eq (by with_reducible assumption) ?_
    | with_reducible refine canonicalOptFst_eq_1 (by with_reducible assumption) ?_ | split
    | with_reducible apply canonicalOpt_none | with_reducible apply canonicalOpt_some
    | with_reducible apply canonicalOpt_map | with_reducible apply canonicalOpt_ite
    | with_reducible apply canonicalOpt_bind | with_reducible apply canonicalOpt_foldl
    | with_reducible apply canonicalOpt_bind_fst | with_reducible apply canonicalOpt_bind_any
    | with_reducible apply canonicalOptFst_none | with_reducible apply canonicalOptFst_some
    | with_reducible apply canonicalOptFst_map | with_reducible apply canonicalOptFst_ite
    | with_reducible apply canonicalOptFst_bind | with_reducible apply canonicalOptFst_foldl
    | with_reducible apply canonicalOptFst_bind_opt | with_reducible apply canonicalOptFst_bind_any
    | with_reducible apply canonicalOptSnd_none | with_reducible apply canonicalOptSnd_some
    | with_reducible apply canonicalOptSnd_ite)

theorem hoursUpdateStep_canonical (s : State) (h_s : Canonical s) :
    Canonical (hoursUpdateStep s) := by
  unfold hoursUpdateStep
  repeat' (first
    | intro _ | with_reducible assumption | with_reducible apply setFlash_canonical
    | with_reducible apply setFld_canonical | with_reducible apply canonical_ite | simp only [canonical_mk] | split)

theorem bootFaultLogReadStep_canonical (s : State) (h_s : Canonical s) :
    Canonical (bootFaultLogReadStep s) := by
  unfold bootFaultLogReadStep
  repeat' (first
    | intro _ | with_reducible assumption | with_reducible apply log_canonical | with_reducible apply setFaults_canonical
    | with_reducible apply canonical_ite | simp only [canonical_mk] | split)

end Sys2Proof.Machine
end

