-- ==== Sys2Proof/Laws/CanonicalBoot.lean ====
section
/-! SUPPORT. Every operation of Machine/Boot.lean keeps the canonical forms of memory and of the registers. -/

set_option simprocs false
set_option linter.unusedTactic false
set_option linter.unusedSimpArgs false
set_option linter.unreachableTactic false

namespace Sys2Proof.Machine

theorem setBoot_canonical (s : State) (f : Boot → Boot) (h_s : Canonical s) :
    Canonical (State.setBoot s f) := by
  unfold State.setBoot
  repeat' (first
    | intro _ | with_reducible assumption | with_reducible apply canonical_ite | simp only [canonical_mk] | split)

theorem loadConfig_canonical (s : State) (h_s : Canonical s) :
    Canonical (State.loadConfig s) := by
  unfold State.loadConfig
  repeat' (first
    | intro _ | with_reducible assumption | with_reducible apply event_canonical | with_reducible apply measure_canonical
    | with_reducible apply setReady_canonical | with_reducible apply showSec_canonical
    | with_reducible apply tick_canonical | with_reducible apply canonical_ite | with_reducible apply canonical_ite_fst
    | with_reducible apply canonical_ite_snd | simp only [canonical_mk] | split)

theorem discover_canonical (s : State) (h_s : Canonical s) :
    Canonical (State.discover s) := by
  unfold State.discover
  repeat' (first
    | intro _ | with_reducible assumption | with_reducible apply emit_canonical | with_reducible apply setBoot_canonical
    | with_reducible apply canonical_ite | simp only [canonical_mk] | split)

theorem bootSequenceStep_canonical (s : State) (h_s : Canonical s) :
    Canonical (bootSequenceStep s) := by
  unfold bootSequenceStep
  repeat' (first
    | intro _ | with_reducible assumption | with_reducible apply discover_canonical
    | with_reducible apply loadConfig_canonical | with_reducible apply measure_canonical
    | with_reducible apply setBoot_canonical | with_reducible apply setFlash_canonical
    | with_reducible apply setFld_canonical | with_reducible apply setPwr_canonical
    | with_reducible apply setReady_canonical | with_reducible apply tick_canonical | with_reducible apply canonical_ite
    | simp only [canonical_mk] | split)

theorem bootLinkChangeStep_canonical (l : Nat) (rate : LinkRate) (s : State) (h_s : Canonical s) :
    Canonical (bootLinkChangeStep l rate s) := by
  unfold bootLinkChangeStep
  repeat' (first
    | intro _ | with_reducible assumption | with_reducible apply discover_canonical
    | with_reducible apply linkChangeStep_canonical | with_reducible apply canonical_ite | simp only [canonical_mk]
    | split)

theorem dhcpRetransmitStep_canonical (s : State) (h_s : Canonical s) :
    Canonical (dhcpRetransmitStep s) := by
  unfold dhcpRetransmitStep
  repeat' (first
    | intro _ | with_reducible assumption | with_reducible apply emit_canonical | with_reducible apply setBoot_canonical
    | with_reducible apply canonical_ite | simp only [canonical_mk] | split)

theorem tftpRetransmitStep_canonical (s : State) (h_s : Canonical s) :
    Canonical (tftpRetransmitStep s) := by
  unfold tftpRetransmitStep
  repeat' (first
    | intro _ | with_reducible assumption | with_reducible apply emit_canonical | with_reducible apply setBoot_canonical
    | with_reducible apply canonical_ite | simp only [canonical_mk] | split)

theorem numberUnits_canonical (s : State) (h_s : Canonical s) :
    Canonical (State.numberUnits s) := by
  unfold State.numberUnits
  repeat' (first
    | intro _ | with_reducible assumption | with_reducible apply setFld_canonical
    | with_reducible apply showSpares_canonical | with_reducible apply canonical_ite
    | with_reducible refine canonical_foldl ?_ ?_ | with_reducible refine canonical_foldl_snd ?_ ?_
    | with_reducible refine canonical_foldl_fst ?_ ?_ | with_reducible refine canonical_getD ?_ ?_
    | simp only [canonical_mk] | with_reducible refine canonicalOpt_eq (by with_reducible assumption) ?_
    | with_reducible refine canonicalOptFst_eq (by with_reducible assumption) ?_
    | with_reducible refine canonicalOptFst_eq_1 (by with_reducible assumption) ?_ | split
    | with_reducible apply canonicalOpt_none | with_reducible apply canonicalOpt_some
    | with_reducible apply canonicalOpt_map | with_reducible apply canonicalOpt_ite
    | with_reducible apply canonicalOpt_bind | with_reducible apply canonicalOpt_foldl
    | with_reducible apply canonicalOpt_bind_fst | with_reducible apply canonicalOpt_bind_any
    | with_reducible apply canonicalOptFst_none | with_reducible apply canonicalOptFst_some
    | with_reducible apply canonicalOptFst_map | with_reducible apply canonicalOptFst_ite
    | with_reducible apply canonicalOptFst_bind | with_reducible apply canonicalOptFst_foldl
    | with_reducible apply canonicalOptFst_bind_opt | with_reducible apply canonicalOptFst_bind_any
    | with_reducible apply canonicalOptSnd_none | with_reducible apply canonicalOptSnd_some
    | with_reducible apply canonicalOptSnd_ite)

theorem applyMargins_canonical (s : State) (h_s : Canonical s) :
    Canonical (State.applyMargins s) := by
  unfold State.applyMargins
  repeat' (first
    | intro _ | with_reducible assumption | with_reducible apply setCal_canonical | with_reducible apply setFld_canonical
    | with_reducible apply canonical_ite | with_reducible refine canonical_foldl ?_ ?_
    | with_reducible refine canonical_foldl_snd ?_ ?_ | with_reducible refine canonical_foldl_fst ?_ ?_
    | with_reducible refine canonical_getD ?_ ?_ | simp only [canonical_mk] | split)

theorem applyFaultTable_canonical (s : State) (h_s : Canonical s) :
    Canonical (State.applyFaultTable s) := by
  unfold State.applyFaultTable
  repeat' (first
    | intro _ | with_reducible assumption | with_reducible apply setFaults_canonical
    | with_reducible apply setFld_canonical | with_reducible apply sramWithdraw_canonical
    | with_reducible apply withdraw_canonical | with_reducible apply canonical_ite
    | with_reducible apply canonical_ite_fst | with_reducible apply canonical_ite_snd
    | with_reducible refine canonical_foldl ?_ ?_ | with_reducible refine canonical_foldl_snd ?_ ?_
    | with_reducible refine canonical_foldl_fst ?_ ?_ | simp only [canonical_mk]
    | with_reducible refine canonicalOpt_eq (by with_reducible assumption) ?_
    | with_reducible refine canonicalOptFst_eq (by with_reducible assumption) ?_
    | with_reducible refine canonicalOptFst_eq_1 (by with_reducible assumption) ?_ | split
    | with_reducible apply canonicalOpt_none | with_reducible apply canonicalOpt_some
    | with_reducible apply canonicalOpt_map | with_reducible apply canonicalOpt_ite
    | with_reducible apply canonicalOpt_bind | with_reducible apply canonicalOpt_foldl
    | with_reducible apply canonicalOpt_bind_fst | with_reducible apply canonicalOpt_bind_any
    | with_reducible apply canonicalOptFst_none | with_reducible apply canonicalOptFst_some
    | with_reducible apply canonicalOptFst_map | with_reducible apply canonicalOptFst_ite
    | with_reducible apply canonicalOptFst_bind | with_reducible apply canonicalOptFst_foldl
    | with_reducible apply canonicalOptFst_bind_opt | with_reducible apply canonicalOptFst_bind_any
    | with_reducible apply canonicalOptSnd_none | with_reducible apply canonicalOptSnd_some
    | with_reducible apply canonicalOptSnd_ite)

theorem startCores_canonical (s : State) (h_s : Canonical s) :
    Canonical (State.startCores s) := by
  unfold State.startCores
  repeat' (first
    | intro _ | with_reducible assumption | with_reducible apply setCore_canonical | with_reducible apply setFld_canonical
    | with_reducible apply canonical_ite | with_reducible refine canonical_foldl ?_ ?_
    | with_reducible refine canonical_foldl_snd ?_ ?_ | with_reducible refine canonical_foldl_fst ?_ ?_
    | with_reducible refine canonical_getD ?_ ?_ | simp only [canonical_mk]
    | with_reducible refine canonicalOpt_eq (by with_reducible assumption) ?_
    | with_reducible refine canonicalOptFst_eq (by with_reducible assumption) ?_
    | with_reducible refine canonicalOptFst_eq_1 (by with_reducible assumption) ?_ | split
    | with_reducible apply canonicalOpt_none | with_reducible apply canonicalOpt_some
    | with_reducible apply canonicalOpt_map | with_reducible apply canonicalOpt_ite
    | with_reducible apply canonicalOpt_bind | with_reducible apply canonicalOpt_foldl
    | with_reducible apply canonicalOpt_bind_fst | with_reducible apply canonicalOpt_bind_any
    | with_reducible apply canonicalOptFst_none | with_reducible apply canonicalOptFst_some
    | with_reducible apply canonicalOptFst_map | with_reducible apply canonicalOptFst_ite
    | with_reducible apply canonicalOptFst_bind | with_reducible apply canonicalOptFst_foldl
    | with_reducible apply canonicalOptFst_bind_opt | with_reducible apply canonicalOptFst_bind_any
    | with_reducible apply canonicalOptSnd_none | with_reducible apply canonicalOptSnd_some
    | with_reducible apply canonicalOptSnd_ite)

theorem writeEtas_canonical (s : State) (h_s : Canonical s) :
    Canonical (State.writeEtas s) := by
  unfold State.writeEtas
  repeat' (first
    | intro _ | with_reducible assumption | with_reducible apply setRaw_canonical | with_reducible apply canonical_ite
    | with_reducible refine canonical_foldl ?_ ?_ | with_reducible refine canonical_foldl_snd ?_ ?_
    | with_reducible refine canonical_foldl_fst ?_ ?_ | simp only [canonical_mk] | split)

theorem writeDefault_canonical (s : State) (p : Nat) (h_s : Canonical s) :
    Canonical (State.writeDefault s p) := by
  unfold State.writeDefault
  repeat' (first
    | intro _ | with_reducible assumption | with_reducible apply setFld_canonical | with_reducible apply setRaw_canonical
    | with_reducible apply canonical_ite | with_reducible refine canonical_foldl ?_ ?_
    | with_reducible refine canonical_foldl_snd ?_ ?_ | with_reducible refine canonical_foldl_fst ?_ ?_
    | simp only [canonical_mk] | with_reducible refine canonicalOpt_eq (by with_reducible assumption) ?_
    | with_reducible refine canonicalOptFst_eq (by with_reducible assumption) ?_
    | with_reducible refine canonicalOptFst_eq_1 (by with_reducible assumption) ?_ | split
    | with_reducible apply canonicalOpt_none | with_reducible apply canonicalOpt_some
    | with_reducible apply canonicalOpt_map | with_reducible apply canonicalOpt_ite
    | with_reducible apply canonicalOpt_bind | with_reducible apply canonicalOpt_foldl
    | with_reducible apply canonicalOpt_bind_fst | with_reducible apply canonicalOpt_bind_any
    | with_reducible apply canonicalOptFst_none | with_reducible apply canonicalOptFst_some
    | with_reducible apply canonicalOptFst_map | with_reducible apply canonicalOptFst_ite
    | with_reducible apply canonicalOptFst_bind | with_reducible apply canonicalOptFst_foldl
    | with_reducible apply canonicalOptFst_bind_opt | with_reducible apply canonicalOptFst_bind_any
    | with_reducible apply canonicalOptSnd_none | with_reducible apply canonicalOptSnd_some
    | with_reducible apply canonicalOptSnd_ite)

theorem applyDefault_canonical (s : State) (p : Nat) (h_s : Canonical s) :
    Canonical (State.applyDefault s p) := by
  unfold State.applyDefault
  repeat' (first
    | intro _ | with_reducible assumption | with_reducible apply applyShares_canonical
    | with_reducible apply install_canonical | with_reducible apply newKey_canonical
    | with_reducible apply setPartState_canonical | with_reducible apply writeDefault_canonical
    | with_reducible apply canonical_ite | simp only [canonical_mk] | split)

theorem flushLog_canonical (s : State) (h_s : Canonical s) :
    Canonical (State.flushLog s) := by
  unfold State.flushLog
  repeat' (first
    | intro _ | with_reducible assumption | with_reducible apply logPut_canonical | with_reducible apply canonical_ite
    | with_reducible refine canonical_foldl ?_ ?_ | with_reducible refine canonical_foldl_snd ?_ ?_
    | with_reducible refine canonical_foldl_fst ?_ ?_ | simp only [canonical_mk] | split)

theorem writeRegion_canonical (s : State) (h_s : Canonical s) :
    Canonical (State.writeRegion s) := by
  unfold State.writeRegion
  repeat' (first
    | intro _ | with_reducible assumption | with_reducible apply event_canonical | with_reducible apply flushLog_canonical
    | with_reducible apply fwStore_canonical | with_reducible apply setFld_canonical | with_reducible apply canonical_ite
    | simp only [canonical_mk] | split)

theorem finishHbm_canonical (s : State) (h_s : Canonical s) :
    Canonical (State.finishHbm s) := by
  unfold State.finishHbm
  repeat' (first
    | intro _ | with_reducible assumption | with_reducible apply applyDefault_canonical
    | with_reducible apply event_canonical | with_reducible apply log_canonical | with_reducible apply setBoot_canonical
    | with_reducible apply setReady_canonical | with_reducible apply take_canonical | with_reducible apply tick_canonical
    | with_reducible apply writeRegion_canonical | with_reducible apply canonical_ite
    | with_reducible refine canonical_foldl ?_ ?_ | with_reducible refine canonical_foldl_snd ?_ ?_
    | with_reducible refine canonical_foldl_fst ?_ ?_ | simp only [canonical_mk] | split)

theorem numberPchs_canonical (s : State) (stack : Nat) (h_s : Canonical s) :
    Canonical (State.numberPchs s stack) := by
  unfold State.numberPchs
  repeat' (first
    | intro _ | with_reducible assumption | with_reducible apply setFld_canonical | with_reducible apply canonical_ite
    | with_reducible apply canonical_ite_fst | with_reducible apply canonical_ite_snd
    | with_reducible refine canonical_foldl ?_ ?_ | with_reducible refine canonical_foldl_snd ?_ ?_
    | with_reducible refine canonical_foldl_fst ?_ ?_ | with_reducible refine canonical_getD ?_ ?_
    | simp only [canonical_mk] | with_reducible refine canonicalOpt_eq (by with_reducible assumption) ?_
    | with_reducible refine canonicalOptFst_eq (by with_reducible assumption) ?_
    | with_reducible refine canonicalOptFst_eq_1 (by with_reducible assumption) ?_ | split
    | with_reducible apply canonicalOpt_none | with_reducible apply canonicalOpt_some
    | with_reducible apply canonicalOpt_map | with_reducible apply canonicalOpt_ite
    | with_reducible apply canonicalOpt_bind | with_reducible apply canonicalOpt_foldl
    | with_reducible apply canonicalOpt_bind_fst | with_reducible apply canonicalOpt_bind_any
    | with_reducible apply canonicalOptFst_none | with_reducible apply canonicalOptFst_some
    | with_reducible apply canonicalOptFst_map | with_reducible apply canonicalOptFst_ite
    | with_reducible apply canonicalOptFst_bind | with_reducible apply canonicalOptFst_foldl
    | with_reducible apply canonicalOptFst_bind_opt | with_reducible apply canonicalOptFst_bind_any
    | with_reducible apply canonicalOptSnd_none | with_reducible apply canonicalOptSnd_some
    | with_reducible apply canonicalOptSnd_ite)

theorem hbmStackTrainedStep_canonical (k : Nat) (ok : Bool) (s : State) (h_s : Canonical s) :
    Canonical (hbmStackTrainedStep k ok s) := by
  unfold hbmStackTrainedStep
  repeat' (first
    | intro _ | with_reducible assumption | with_reducible apply finishHbm_canonical
    | with_reducible apply numberPchs_canonical | with_reducible apply setBoot_canonical
    | with_reducible apply setReady_canonical | with_reducible apply withdraw_canonical
    | with_reducible apply canonical_ite | with_reducible apply canonical_ite_fst | with_reducible apply canonical_ite_snd
    | simp only [canonical_mk] | split)

theorem wakeAll_canonical (s : State) (h_s : Canonical s) :
    Canonical (State.wakeAll s) := by
  unfold State.wakeAll
  repeat' (first
    | intro _ | with_reducible assumption | with_reducible apply askWake_canonical | with_reducible apply canonical_ite
    | with_reducible refine canonical_foldl ?_ ?_ | with_reducible refine canonical_foldl_snd ?_ ?_
    | with_reducible refine canonical_foldl_fst ?_ ?_ | simp only [canonical_mk]
    | with_reducible refine canonicalOpt_eq (by with_reducible assumption) ?_
    | with_reducible refine canonicalOptFst_eq (by with_reducible assumption) ?_
    | with_reducible refine canonicalOptFst_eq_1 (by with_reducible assumption) ?_ | split
    | with_reducible apply canonicalOpt_none | with_reducible apply canonicalOpt_some
    | with_reducible apply canonicalOpt_map | with_reducible apply canonicalOpt_ite
    | with_reducible apply canonicalOpt_bind | with_reducible apply canonicalOpt_foldl
    | with_reducible apply canonicalOpt_bind_fst | with_reducible apply canonicalOpt_bind_any
    | with_reducible apply canonicalOptFst_none | with_reducible apply canonicalOptFst_some
    | with_reducible apply canonicalOptFst_map | with_reducible apply canonicalOptFst_ite
    | with_reducible apply canonicalOptFst_bind | with_reducible apply canonicalOptFst_foldl
    | with_reducible apply canonicalOptFst_bind_opt | with_reducible apply canonicalOptFst_bind_any
    | with_reducible apply canonicalOptSnd_none | with_reducible apply canonicalOptSnd_some
    | with_reducible apply canonicalOptSnd_ite)

theorem startFirmware_canonical (s : State) (i : FwImage) (slot : Option Nat) (h_s : Canonical s) :
    Canonical (State.startFirmware s i slot) := by
  unfold State.startFirmware
  repeat' (first
    | intro _ | with_reducible assumption | with_reducible apply applyFaultTable_canonical
    | with_reducible apply applyMargins_canonical | with_reducible apply finishHbm_canonical
    | with_reducible apply measure_canonical | with_reducible apply numberUnits_canonical
    | with_reducible apply setBoot_canonical | with_reducible apply setFld_canonical
    | with_reducible apply setReady_canonical | with_reducible apply startCores_canonical
    | with_reducible apply tick_canonical | with_reducible apply wakeAll_canonical
    | with_reducible apply writeEtas_canonical | with_reducible apply canonical_ite
    | with_reducible refine canonical_foldl ?_ ?_ | with_reducible refine canonical_foldl_snd ?_ ?_
    | with_reducible refine canonical_foldl_fst ?_ ?_ | with_reducible refine canonical_getD ?_ ?_
    | simp only [canonical_mk] | split)

theorem fetchFailed_canonical (s : State) (code : Nat) (h_s : Canonical s) :
    Canonical (State.fetchFailed s code) := by
  unfold State.fetchFailed
  repeat' (first
    | intro _ | with_reducible assumption | with_reducible apply event_canonical | with_reducible apply setBoot_canonical
    | with_reducible apply setFld_canonical | with_reducible apply startFirmware_canonical
    | with_reducible apply canonical_ite | with_reducible apply canonical_ite_fst | with_reducible apply canonical_ite_snd
    | simp only [canonical_mk] | split)

theorem bootImageFetchStep_canonical (o : BootFetch) (s : State) (h_s : Canonical s) :
    Canonical (bootImageFetchStep o s) := by
  unfold bootImageFetchStep
  repeat' (first
    | intro _ | with_reducible assumption | with_reducible apply bump_canonical
    | with_reducible apply checkImage_canonical
    | with_reducible refine checkImage_canonical_eq (by with_reducible assumption) ?_
    | with_reducible apply fetchFailed_canonical | with_reducible apply startFirmware_canonical
    | with_reducible apply canonical_ite | simp only [canonical_mk] | split)

theorem bootBudgetExpiryStep_canonical (s : State) (h_s : Canonical s) :
    Canonical (bootBudgetExpiryStep s) := by
  unfold bootBudgetExpiryStep
  repeat' (first
    | intro _ | with_reducible assumption | with_reducible apply bump_canonical
    | with_reducible apply fetchFailed_canonical | with_reducible apply canonical_ite | simp only [canonical_mk] | split)

theorem bootFetchRetryStep_canonical (s : State) (h_s : Canonical s) :
    Canonical (bootFetchRetryStep s) := by
  unfold bootFetchRetryStep
  repeat' (first
    | intro _ | with_reducible assumption | with_reducible apply discover_canonical
    | with_reducible apply setBoot_canonical | with_reducible apply setFld_canonical | with_reducible apply canonical_ite
    | simp only [canonical_mk] | split)

theorem bootLimitMissedStep_canonical (b : Nat) (s : State) (h_s : Canonical s) :
    Canonical (bootLimitMissedStep b s) := by
  unfold bootLimitMissedStep
  repeat' (first
    | intro _ | with_reducible assumption | with_reducible apply event_canonical | with_reducible apply logFree_canonical
    | with_reducible apply setRaw_canonical | with_reducible apply tick_canonical | with_reducible apply canonical_ite
    | simp only [canonical_mk] | split)

theorem rotSelfTestStep_canonical (pass : Bool) (s : State) (h_s : Canonical s) :
    Canonical (rotSelfTestStep pass s) := by
  unfold rotSelfTestStep
  repeat' (first
    | intro _ | with_reducible assumption | with_reducible apply event_canonical | with_reducible apply report_canonical
    | with_reducible apply setBoot_canonical | with_reducible apply setFld_canonical
    | with_reducible apply setReady_canonical | with_reducible apply canonical_ite | simp only [canonical_mk] | split)

end Sys2Proof.Machine
end

