-- ==== Sys2Proof/Laws/CanonicalCsr.lean ====
section
/-! SUPPORT. Every operation of Machine/Csr.lean keeps the canonical forms of memory and of the registers. -/

set_option simprocs false
set_option linter.unusedTactic false
set_option linter.unusedSimpArgs false
set_option linter.unreachableTactic false

namespace Sys2Proof.Machine

theorem readAs_canonical (s : State) (a : Nat) (y0 : Option RegDesc) (h_s : Canonical s) :
    Canonical (State.readAs s a y0).2 := by
  unfold State.readAs
  repeat' (first
    | intro _ | with_reducible assumption | with_reducible apply setRaw_canonical | with_reducible apply canonical_ite
    | with_reducible apply canonical_ite_fst | with_reducible apply canonical_ite_snd | simp only [canonical_mk] | split)

theorem readAs_canonical_eq {s : State} {a : Nat} {y0 : Option RegDesc} {a0_ t_} (h_eq : State.readAs s a y0 = (a0_, t_))
    (h_s : Canonical s) : Canonical t_ := by
  have h_p := readAs_canonical s a y0 h_s
  rw [h_eq] at h_p; exact h_p

theorem readArray_canonical (s : State) (a : Nat) (y0 : Option Nat) (h_s : Canonical s) :
    Canonical (State.readArray s a y0).2 := by
  unfold State.readArray
  repeat' (first
    | intro _ | with_reducible assumption | with_reducible apply readAs_canonical
    | with_reducible refine readAs_canonical_eq (by with_reducible assumption) ?_
    | with_reducible apply interruptClaimStep_canonical | with_reducible apply canonical_ite
    | with_reducible apply canonical_ite_fst | with_reducible apply canonical_ite_snd | simp only [canonical_mk] | split)

theorem readArray_canonical_eq {s : State} {a : Nat} {y0 : Option Nat} {a0_ t_} (h_eq : State.readArray s a y0 = (a0_, t_))
    (h_s : Canonical s) : Canonical t_ := by
  have h_p := readArray_canonical s a y0 h_s
  rw [h_eq] at h_p; exact h_p

theorem readReg_canonical (s : State) (a : Nat) (h_s : Canonical s) :
    Canonical (State.readReg s a).2 := by
  unfold State.readReg
  repeat' (first
    | intro _ | with_reducible assumption | with_reducible apply readArray_canonical
    | with_reducible refine readArray_canonical_eq (by with_reducible assumption) ?_
    | with_reducible apply bootFaultLogReadStep_canonical | with_reducible apply lthErrLogReadStep_canonical
    | with_reducible apply spnErrLogReadStep_canonical | with_reducible apply canonical_ite
    | with_reducible apply canonical_ite_fst | with_reducible apply canonical_ite_snd | simp only [canonical_mk] | split)

theorem readReg_canonical_eq {s : State} {a : Nat} {a0_ t_} (h_eq : State.readReg s a = (a0_, t_))
    (h_s : Canonical s) : Canonical t_ := by
  have h_p := readReg_canonical s a h_s
  rw [h_eq] at h_p; exact h_p

theorem writeAs_canonical (s : State) (a : Nat) (v : Reg) (y0 : Option RegDesc) (h_s : Canonical s) :
    Canonical (State.writeAs s a v y0) := by
  unfold State.writeAs
  repeat' (first
    | intro _ | with_reducible assumption | with_reducible apply setRaw_canonical | with_reducible apply canonical_ite
    | simp only [canonical_mk] | split)

theorem plainWrite_canonical (s : State) (a : Nat) (v : Reg) (h_s : Canonical s) :
    Canonical (State.plainWrite s a v) := by
  unfold State.plainWrite
  repeat' (first
    | intro _ | with_reducible assumption | with_reducible apply writeAs_canonical | with_reducible apply canonical_ite
    | simp only [canonical_mk] | split)

theorem writePartCtrl_canonical (s : State) (src : Plane) (p : Nat) (v : Reg) (h_s : Canonical s) :
    Canonical (State.writePartCtrl s src p v) := by
  unfold State.writePartCtrl
  repeat' (first
    | intro _ | with_reducible assumption | with_reducible apply plainWrite_canonical
    | with_reducible apply applyRegsStep_canonical | with_reducible apply partitionTeardownStep_canonical
    | with_reducible apply requestConfiguringStep_canonical | with_reducible apply requestDownStep_canonical
    | with_reducible apply requestUpStep_canonical | with_reducible apply canonical_ite | simp only [canonical_mk] | split)

theorem writeQpCmd_canonical (s : State) (v : Reg) (h_s : Canonical s) :
    Canonical (State.writeQpCmd s v) := by
  unfold State.writeQpCmd
  repeat' (first
    | intro _ | with_reducible assumption | with_reducible apply plainWrite_canonical
    | with_reducible apply qpResult_canonical | with_reducible apply qpCreateStep_canonical
    | with_reducible apply qpDestroyStep_canonical | with_reducible apply qpReadBackStep_canonical
    | with_reducible apply canonical_ite | simp only [canonical_mk] | split)

theorem writeNetCtrl_canonical (s : State) (v : Reg) (h_s : Canonical s) :
    Canonical (State.writeNetCtrl s v) := by
  unfold State.writeNetCtrl
  repeat' (first
    | intro _ | with_reducible assumption | with_reducible apply linkDown_canonical
    | with_reducible apply plainWrite_canonical | with_reducible apply canonical_ite
    | with_reducible refine canonical_foldl ?_ ?_ | with_reducible refine canonical_foldl_snd ?_ ?_
    | with_reducible refine canonical_foldl_fst ?_ ?_ | simp only [canonical_mk] | split)

theorem writeNetPort_canonical (s : State) (n : Nat) (v : Reg) (h_s : Canonical s) :
    Canonical (State.writeNetPort s n v) := by
  unfold State.writeNetPort
  repeat' (first
    | intro _ | with_reducible assumption | with_reducible apply linkDown_canonical
    | with_reducible apply setFld_canonical | with_reducible apply breakoutChangeStep_canonical
    | with_reducible apply canonical_ite | with_reducible refine canonical_foldl ?_ ?_
    | with_reducible refine canonical_foldl_snd ?_ ?_ | with_reducible refine canonical_foldl_fst ?_ ?_
    | simp only [canonical_mk] | split)

theorem specialWrite_canonical (s : State) (a : Nat) (v : Reg) (h_s : Canonical s) :
    CanonicalOpt (State.specialWrite s a v) := by
  unfold State.specialWrite
  repeat' (first
    | intro _ | with_reducible assumption | with_reducible apply blkResume_canonical
    | with_reducible apply embPump_canonical | with_reducible apply hotPump_canonical
    | with_reducible apply plainWrite_canonical | with_reducible apply ptpDisable_canonical
    | with_reducible apply showCap_canonical | with_reducible apply writeNetCtrl_canonical
    | with_reducible apply writeQpCmd_canonical | with_reducible apply codebookLoadStep_canonical
    | with_reducible apply dirFlushStep_canonical | with_reducible apply fwUpdateStageStep_canonical
    | with_reducible apply moduleResetStep_canonical | with_reducible apply spindleAbortStep_canonical
    | with_reducible apply canonical_ite | with_reducible apply canonicalOpt_none | with_reducible apply canonicalOpt_some
    | with_reducible apply canonicalOpt_map | with_reducible apply canonicalOpt_ite
    | with_reducible apply canonicalOpt_bind | with_reducible apply canonicalOpt_foldl
    | with_reducible apply canonicalOpt_bind_fst | with_reducible apply canonicalOpt_bind_any | simp only [canonical_mk]
    | split)

theorem specialWrite_canonical_eq {s : State} {a : Nat} {v : Reg} {t : State} (h_eq : State.specialWrite s a v = some t)
    (h_s : Canonical s) : Canonical t :=
  (specialWrite_canonical s a v h_s).elim t h_eq

theorem arrayWrite_canonical (s : State) (src : Plane) (a : Nat) (v : Reg) (h_s : Canonical s) :
    CanonicalOpt (State.arrayWrite s src a v) := by
  unfold State.arrayWrite
  repeat' (first
    | intro _ | with_reducible assumption | with_reducible apply holdMeter_canonical
    | with_reducible apply icuSettle_canonical | with_reducible apply plainWrite_canonical
    | with_reducible apply recheckPlans_canonical | with_reducible apply setFld_canonical
    | with_reducible apply setRunner_canonical | with_reducible apply writeNetPort_canonical
    | with_reducible apply writePartCtrl_canonical | with_reducible apply contextTeardownStep_canonical
    | with_reducible apply gateConfigChangeStep_canonical | with_reducible apply interruptCompleteStep_canonical
    | with_reducible apply interruptPendClrStep_canonical | with_reducible apply interruptPendSetStep_canonical
    | with_reducible apply railOffsetWriteStep_canonical | with_reducible apply rearmStep_canonical
    | with_reducible apply watchdogKickStep_canonical | with_reducible apply canonical_ite
    | with_reducible apply canonicalOpt_none | with_reducible apply canonicalOpt_some
    | with_reducible apply canonicalOpt_map | with_reducible apply canonicalOpt_ite
    | with_reducible apply canonicalOpt_bind | with_reducible apply canonicalOpt_foldl
    | with_reducible apply canonicalOpt_bind_fst | with_reducible apply canonicalOpt_bind_any | simp only [canonical_mk]
    | with_reducible refine canonicalOpt_eq (by with_reducible assumption) ?_
    | with_reducible refine canonicalOptFst_eq (by with_reducible assumption) ?_
    | with_reducible refine canonicalOptFst_eq_1 (by with_reducible assumption) ?_ | split
    | with_reducible apply canonicalOptFst_none | with_reducible apply canonicalOptFst_some
    | with_reducible apply canonicalOptFst_map | with_reducible apply canonicalOptFst_ite
    | with_reducible apply canonicalOptFst_bind | with_reducible apply canonicalOptFst_foldl
    | with_reducible apply canonicalOptFst_bind_opt | with_reducible apply canonicalOptFst_bind_any
    | with_reducible apply canonicalOptSnd_none | with_reducible apply canonicalOptSnd_some
    | with_reducible apply canonicalOptSnd_ite)

theorem arrayWrite_canonical_eq {s : State} {src : Plane} {a : Nat} {v : Reg} {t : State} (h_eq : State.arrayWrite s src a v = some t)
    (h_s : Canonical s) : Canonical t :=
  (arrayWrite_canonical s src a v h_s).elim t h_eq

theorem writeReg_canonical (s : State) (src : Plane) (a : Nat) (v : Reg) (h_s : Canonical s) :
    Canonical (State.writeReg s src a v) := by
  unfold State.writeReg
  repeat' (first
    | intro _ | with_reducible assumption | with_reducible apply arrayWrite_canonical
    | with_reducible refine arrayWrite_canonical_eq (by with_reducible assumption) ?_
    | with_reducible apply plainWrite_canonical | with_reducible apply specialWrite_canonical
    | with_reducible refine specialWrite_canonical_eq (by with_reducible assumption) ?_
    | with_reducible apply canonical_ite | with_reducible refine canonical_getD ?_ ?_ | simp only [canonical_mk]
    | with_reducible refine canonicalOpt_eq (by with_reducible assumption) ?_
    | with_reducible refine canonicalOptFst_eq (by with_reducible assumption) ?_
    | with_reducible refine canonicalOptFst_eq_1 (by with_reducible assumption) ?_ | split
    | with_reducible apply canonicalOpt_none | with_reducible apply canonicalOpt_some
    | with_reducible apply canonicalOpt_map | with_reducible apply canonicalOpt_ite
    | with_reducible apply canonicalOpt_bind | with_reducible apply canonicalOpt_foldl
    | with_reducible apply canonicalOpt_bind_fst | with_reducible apply canonicalOpt_bind_any
    | with_reducible apply canonicalOptFst_none | with_reducible apply canonicalOptFst_some
    | with_reducible apply canonicalOptFst_map | with_reducible apply canonicalOptFst_ite
    | with_reducible apply canonicalOptFst_bind | with_reducible apply canonicalOptFst_foldl
    | with_reducible apply canonicalOptFst_bind_opt | with_reducible apply canonicalOptFst_bind_any
    | with_reducible apply canonicalOptSnd_none | with_reducible apply canonicalOptSnd_some
    | with_reducible apply canonicalOptSnd_ite)

theorem csrWriteStep_canonical (src : CsrWriter) (a : Nat) (v : Reg) (s : State) (h_s : Canonical s) :
    Canonical (csrWriteStep src a v s) := by
  unfold csrWriteStep
  repeat' (first
    | intro _ | with_reducible assumption | with_reducible apply writeReg_canonical
    | with_reducible apply coreExceptionStep_canonical | with_reducible apply canonical_ite | simp only [canonical_mk]
    | split)

theorem mgmtReadWord_canonical (s : State) (a : Nat) (h_s : Canonical s) :
    Canonical (State.mgmtReadWord s a).2 := by
  unfold State.mgmtReadWord
  repeat' (first
    | intro _ | with_reducible assumption | with_reducible apply dramUe_canonical | with_reducible apply readCe_canonical
    | with_reducible apply readReg_canonical
    | with_reducible refine readReg_canonical_eq (by with_reducible assumption) ?_ | with_reducible apply tick_canonical
    | with_reducible apply canonical_ite | with_reducible apply canonical_ite_fst | with_reducible apply canonical_ite_snd
    | simp only [canonical_mk] | split)

theorem mgmtReadWord_canonical_eq {s : State} {a : Nat} {a0_ t_} (h_eq : State.mgmtReadWord s a = (a0_, t_))
    (h_s : Canonical s) : Canonical t_ := by
  have h_p := mgmtReadWord_canonical s a h_s
  rw [h_eq] at h_p; exact h_p

theorem mgmtWriteWord_canonical (s : State) (a : Nat) (v : Reg) (h_s : Canonical s) :
    Canonical (State.mgmtWriteWord s a v) := by
  unfold State.mgmtWriteWord
  repeat' (first
    | intro _ | with_reducible assumption | with_reducible apply store_canonical | with_reducible apply writeReg_canonical
    | with_reducible apply canonical_ite | simp only [canonical_mk] | split)

theorem mgmtReadAll_canonical  (y0 : Nat) (y1 : Nat) (y2 : State) (h_y2 : Canonical y2) :
    Canonical (mgmtReadAll y0 y1 y2).2.2 := by
  revert h_y2
  fun_induction mgmtReadAll y0 y1 y2 <;> intro h_y2
  all_goals
    repeat' (first
      | intro _ | with_reducible assumption | with_reducible apply_assumption -exfalso -symm
      | with_reducible apply mgmtReadWord_canonical
      | with_reducible refine mgmtReadWord_canonical_eq (by with_reducible assumption) ?_
      | with_reducible apply canonical_ite | with_reducible apply canonical_ite_fst
      | with_reducible apply canonical_ite_snd | simp only [canonical_mk] | split
      | (simp +zetaDelta only [canonical_mk]; done) | simp +zetaDelta only [canonical_mk])

theorem mgmtReadAll_canonical_eq  {y0 : Nat} {y1 : Nat} {y2 : State} {a0_ a1_ t_} (h_eq : mgmtReadAll y0 y1 y2 = (a0_, a1_, t_))
    (h_y2 : Canonical y2) : Canonical t_ := by
  have h_p := mgmtReadAll_canonical y0 y1 y2 h_y2
  rw [h_eq] at h_p; exact h_p

theorem mgmtWriteAll_canonical  (y0 : List Reg) (y1 : Nat) (y2 : Nat) (y3 : State) (h_y3 : Canonical y3) :
    Canonical (mgmtWriteAll y0 y1 y2 y3).2.2 := by
  revert h_y3
  fun_induction mgmtWriteAll y0 y1 y2 y3 <;> intro h_y3
  all_goals
    repeat' (first
      | intro _ | with_reducible assumption | with_reducible apply_assumption -exfalso -symm
      | with_reducible apply mgmtWriteWord_canonical | with_reducible apply canonical_ite
      | with_reducible apply canonical_ite_fst | with_reducible apply canonical_ite_snd | simp only [canonical_mk] | split
      | (simp +zetaDelta only [canonical_mk]; done) | simp +zetaDelta only [canonical_mk])

theorem mgmtWriteAll_canonical_eq  {y0 : List Reg} {y1 : Nat} {y2 : Nat} {y3 : State} {a0_ a1_ t_} (h_eq : mgmtWriteAll y0 y1 y2 y3 = (a0_, a1_, t_))
    (h_y3 : Canonical y3) : Canonical t_ := by
  have h_p := mgmtWriteAll_canonical y0 y1 y2 y3 h_y3
  rw [h_eq] at h_p; exact h_p

theorem mgmtReject_canonical (s : State) (op : Nat) (d : MgmtDatagram) (h_s : Canonical s) :
    Canonical (State.mgmtReject s op d) := by
  unfold State.mgmtReject
  repeat' (first
    | intro _ | with_reducible assumption | with_reducible apply bump_canonical | with_reducible apply emit_canonical
    | with_reducible apply canonical_ite | simp only [canonical_mk] | split)

theorem keepAnswer_canonical (s : State) (d : MgmtDatagram) (answer : List Byte) (h_s : Canonical s) :
    Canonical (State.keepAnswer s d answer) := by
  unfold State.keepAnswer
  repeat' (first
    | intro _ | with_reducible assumption | with_reducible apply answer_canonical | with_reducible apply take_canonical
    | with_reducible apply canonical_ite | simp only [canonical_mk] | split)

theorem mgmtRun_canonical (s : State) (op : Nat) (d : MgmtDatagram) (h_s : Canonical s) :
    Canonical (State.mgmtRun s op d) := by
  unfold State.mgmtRun
  repeat' (first
    | intro _ | with_reducible assumption | with_reducible apply answer_canonical | with_reducible apply count_canonical
    | with_reducible apply emit_canonical | with_reducible apply keepAnswer_canonical
    | with_reducible apply mgmtReadAll_canonical
    | with_reducible refine mgmtReadAll_canonical_eq (by with_reducible assumption) ?_
    | with_reducible apply mgmtWriteAll_canonical
    | with_reducible refine mgmtWriteAll_canonical_eq (by with_reducible assumption) ?_
    | with_reducible apply canonical_ite | with_reducible apply canonical_ite_fst | with_reducible apply canonical_ite_snd
    | simp only [canonical_mk] | split)

theorem mgmtAccess_canonical (s : State) (op : Nat) (d : MgmtDatagram) (h_s : Canonical s) :
    Canonical (State.mgmtAccess s op d) := by
  unfold State.mgmtAccess
  repeat' (first
    | intro _ | with_reducible assumption | with_reducible apply answer_canonical | with_reducible apply emit_canonical
    | with_reducible apply keepAnswer_canonical | with_reducible apply mgmtReject_canonical
    | with_reducible apply mgmtRun_canonical | with_reducible apply frameDiscardStep_canonical
    | with_reducible apply canonical_ite | simp only [canonical_mk] | split)

theorem mgmtReadStep_canonical (d : MgmtDatagram) (s : State) (h_s : Canonical s) :
    Canonical (mgmtReadStep d s) := by
  unfold mgmtReadStep
  repeat' (first
    | intro _ | with_reducible assumption | with_reducible apply mgmtAccess_canonical | with_reducible apply canonical_ite
    | simp only [canonical_mk] | split)

theorem mgmtWriteStep_canonical (d : MgmtDatagram) (s : State) (h_s : Canonical s) :
    Canonical (mgmtWriteStep d s) := by
  unfold mgmtWriteStep
  repeat' (first
    | intro _ | with_reducible assumption | with_reducible apply mgmtAccess_canonical | with_reducible apply canonical_ite
    | simp only [canonical_mk] | split)

end Sys2Proof.Machine
end

