-- ==== Sys2Proof/Laws/CanonicalServe.lean ====
section
/-! SUPPORT. Every operation of Machine/Serve.lean keeps the canonical forms of memory and of the registers. -/

set_option simprocs false
set_option linter.unusedTactic false
set_option linter.unusedSimpArgs false
set_option linter.unreachableTactic false

namespace Sys2Proof.Machine

theorem runBody_canonical (c : Cmd) (s : State) (h_s : Canonical s) :
    Canonical (runBody c s) := by
  unfold runBody
  repeat' (first
    | intro _ | with_reducible assumption | with_reducible apply refuse_canonical
    | with_reducible apply bodyArgmax_canonical | with_reducible apply bodyAttestReport_canonical
    | with_reducible apply bodyContextResume_canonical | with_reducible apply bodyContextSuspend_canonical
    | with_reducible apply bodyCountersRead_canonical | with_reducible apply bodyDetokenize_canonical
    | with_reducible apply bodyEcho_canonical | with_reducible apply bodyEmbGather_canonical
    | with_reducible apply bodyEmbHotsetSet_canonical | with_reducible apply bodyEmbScatterAdd_canonical
    | with_reducible apply bodyEmbTableCreate_canonical | with_reducible apply bodyEmbTableDrop_canonical
    | with_reducible apply bodyEmbTableReplace_canonical | with_reducible apply bodyEmbUpdate_canonical
    | with_reducible apply bodyEmbed_canonical | with_reducible apply bodyFwActivate_canonical
    | with_reducible apply bodyGenerate_canonical | with_reducible apply bodyGradAllreduce_canonical
    | with_reducible apply bodyGrammarLoad_canonical | with_reducible apply bodyGrammarUnload_canonical
    | with_reducible apply bodyIndexDelete_canonical | with_reducible apply bodyIndexEpochQuery_canonical
    | with_reducible apply bodyIndexInsert_canonical | with_reducible apply bodyIndexLoad_canonical
    | with_reducible apply bodyIndexMergeStart_canonical | with_reducible apply bodyIndexUnload_canonical
    | with_reducible apply bodyLearnStep_canonical | with_reducible apply bodyLogRead_canonical
    | with_reducible apply bodyMbHello_canonical | with_reducible apply bodyMbMessage_canonical
    | with_reducible apply bodyMeasureLogRead_canonical | with_reducible apply bodyMemRead_canonical
    | with_reducible apply bodyMemWrite_canonical | with_reducible apply bodyModelLoad_canonical
    | with_reducible apply bodyModelUnload_canonical | with_reducible apply bodyOptimizerStep_canonical
    | with_reducible apply bodyOwnerClaim_canonical | with_reducible apply bodyPartQuery_canonical
    | with_reducible apply bodyPassageFetch_canonical | with_reducible apply bodyPlanAdmit_canonical
    | with_reducible apply bodyPrefixRelease_canonical | with_reducible apply bodyPrefixStore_canonical
    | with_reducible apply bodyProtectCosign_canonical | with_reducible apply bodyProtectPropose_canonical
    | with_reducible apply bodyRagGenerate_canonical | with_reducible apply bodyReadinessQuery_canonical
    | with_reducible apply bodyRerank_canonical | with_reducible apply bodyRescore_canonical
    | with_reducible apply bodyRewardScore_canonical | with_reducible apply bodySearch_canonical
    | with_reducible apply bodySearchBatch_canonical | with_reducible apply bodySearchShard_canonical
    | with_reducible apply bodySelectTopk_canonical | with_reducible apply bodySelectTopp_canonical
    | with_reducible apply bodySeqAppend_canonical | with_reducible apply bodySeqCancel_canonical
    | with_reducible apply bodySeqSetPriority_canonical | with_reducible apply bodySeqStatus_canonical
    | with_reducible apply bodySessionClose_canonical | with_reducible apply bodySessionOpen_canonical
    | with_reducible apply bodySetEventCoalesce_canonical | with_reducible apply bodyShardMapSet_canonical
    | with_reducible apply bodyTelemetryRead_canonical | with_reducible apply bodyTelemetrySubscribe_canonical
    | with_reducible apply bodyTierPolicySet_canonical | with_reducible apply bodyTileDirQuery_canonical
    | with_reducible apply bodyTokenize_canonical | with_reducible apply bodyVariantClear_canonical
    | with_reducible apply bodyVariantSet_canonical | with_reducible apply bodyVectorFetch_canonical
    | with_reducible apply bodyVersionTurnover_canonical | with_reducible apply bodyVocabLoad_canonical
    | with_reducible apply runTok_canonical | with_reducible refine runTok_canonical_eq (by with_reducible assumption) ?_
    | with_reducible apply tierEvictBody_canonical | with_reducible apply tierPromoteBody_canonical
    | with_reducible apply canonical_ite | simp only [canonical_mk] | split)

theorem checkpointed_canonical (s : State) (id : Nat) (h_s : Canonical s) :
    Canonical (State.checkpointed s id) := by
  unfold State.checkpointed
  repeat' (first
    | intro _ | with_reducible assumption | with_reducible apply fwStore_canonical | with_reducible apply taken_canonical
    | with_reducible apply tick_canonical | with_reducible apply canonical_ite
    | with_reducible refine canonical_getD ?_ ?_ | simp only [canonical_mk]
    | with_reducible refine canonicalOpt_eq (by with_reducible assumption) ?_
    | with_reducible refine canonicalOptFst_eq (by with_reducible assumption) ?_
    | with_reducible refine canonicalOptFst_eq_1 (by with_reducible assumption) ?_ | split
    | with_reducible apply canonicalOpt_none | with_reducible apply canonicalOpt_some
    | with_reducible apply canonicalOpt_map | with_reducible apply canonicalOpt_ite
    | with_reducible apply canonicalOpt_bind | with_reducible apply canonicalOpt_foldl
    | with_reducible apply canonicalOpt_bind_fst | with_reducible apply canonicalOpt_bind_any
    | with_reducible apply canonicalOptFst_none | with_reducible apply canonicalOptFst_some
    | with_reducible apply canonicalOptFst_map | with_reducible apply canonicalOptFst_ite
    | with_reducible apply canonicalOptFst_bind | with_reducible apply canonicalOptFst_foldl
    | with_reducible apply canonicalOptFst_bind_opt | with_reducible apply canonicalOptFst_bind_any
    | with_reducible apply canonicalOptSnd_none | with_reducible apply canonicalOptSnd_some
    | with_reducible apply canonicalOptSnd_ite)

theorem takenBy_canonical (s : State) (core : Nat) (c : Cmd) (h_s : Canonical s) :
    Canonical (State.takenBy s core c) := by
  unfold State.takenBy
  repeat' (first
    | intro _ | with_reducible assumption | with_reducible apply setCmd_canonical | with_reducible apply taken_canonical
    | with_reducible apply trace_canonical | with_reducible apply canonical_ite
    | with_reducible refine canonical_getD ?_ ?_ | simp only [canonical_mk] | split)

theorem takeWork_canonical (s : State) (core : Nat) (c : Cmd) (h_s : Canonical s) :
    Canonical (State.takeWork s core c) := by
  unfold State.takeWork
  repeat' (first
    | intro _ | with_reducible assumption | with_reducible apply checkpointed_canonical
    | with_reducible apply takenBy_canonical | with_reducible apply runBody_canonical | with_reducible apply canonical_ite
    | simp only [canonical_mk] | split)

theorem journalWait_canonical (s : State) (k : Nat) (n : Nat) (h_s : Canonical s) :
    Canonical (State.journalWait s k n) := by
  unfold State.journalWait
  repeat' (first
    | intro _ | with_reducible assumption | with_reducible apply event_canonical | with_reducible apply canonical_ite
    | simp only [canonical_mk] | split)

theorem grantWork_canonical (s : State) (core : Nat) (c : Cmd) (h_s : Canonical s) :
    Canonical (State.grantWork s core c) := by
  unfold State.grantWork
  repeat' (first
    | intro _ | with_reducible assumption | with_reducible apply refuse_canonical
    | with_reducible apply takeWork_canonical | with_reducible apply canonical_ite | simp only [canonical_mk] | split)

theorem workQueueTakeStep_canonical (core : Nat) (s : State) (h_s : Canonical s) :
    Canonical (workQueueTakeStep core s) := by
  unfold workQueueTakeStep
  repeat' (first
    | intro _ | with_reducible assumption | with_reducible apply grantWork_canonical
    | with_reducible apply journalWait_canonical | with_reducible apply canonical_ite | simp only [canonical_mk] | split)

theorem queueEvents_canonical (s : State) (c : Cmd) (h_s : Canonical s) :
    Canonical (State.queueEvents s c) := by
  unfold State.queueEvents
  repeat' (first
    | intro _ | with_reducible assumption | with_reducible apply icuEvent_canonical | with_reducible apply canonical_ite
    | simp only [canonical_mk] | split)

theorem enqueue_canonical (s : State) (c : Cmd) (h_s : Canonical s) :
    Canonical (State.enqueue s c) := by
  unfold State.enqueue
  repeat' (first
    | intro _ | with_reducible assumption | with_reducible apply journalWait_canonical
    | with_reducible apply queueEvents_canonical | with_reducible apply setCmd_canonical
    | with_reducible apply takeWork_canonical | with_reducible apply canonical_ite | simp only [canonical_mk] | split)

theorem dispatch_canonical (s : State) (c : Cmd) (h_s : Canonical s) :
    Canonical (State.dispatch s c) := by
  unfold State.dispatch
  repeat' (first
    | intro _ | with_reducible assumption | with_reducible apply enqueue_canonical | with_reducible apply setCmd_canonical
    | with_reducible apply runBody_canonical | with_reducible apply canonical_ite | simp only [canonical_mk] | split)

theorem inOrder_canonical (s : State) (c : Cmd) (h_s : Canonical s) :
    Canonical (State.inOrder s c) := by
  unfold State.inOrder
  repeat' (first
    | intro _ | with_reducible assumption | with_reducible apply dispatch_canonical
    | with_reducible apply setCmd_canonical | with_reducible apply canonical_ite | simp only [canonical_mk] | split)

theorem begin__canonical (s : State) (c : Cmd) (h_s : Canonical s) :
    Canonical (State.begin_ s c) := by
  unfold State.begin_
  repeat' (first
    | intro _ | with_reducible assumption | with_reducible apply inOrder_canonical | with_reducible apply setCmd_canonical
    | with_reducible apply canonical_ite | simp only [canonical_mk] | split)

theorem fenceReleaseStep_canonical (id : Nat) (s : State) (h_s : Canonical s) :
    Canonical (fenceReleaseStep id s) := by
  unfold fenceReleaseStep
  repeat' (first
    | intro _ | with_reducible assumption | with_reducible apply inOrder_canonical | with_reducible apply canonical_ite
    | simp only [canonical_mk] | split)

theorem releaseOrdered_canonical  (y0 : Nat) (y1 : State) (h_y1 : Canonical y1) :
    Canonical (State.releaseOrdered y0 y1) := by
  revert h_y1
  fun_induction State.releaseOrdered y0 y1 <;> intro h_y1
  all_goals
    repeat' (first
      | intro _ | with_reducible assumption | with_reducible apply_assumption -exfalso -symm
      | with_reducible apply dispatch_canonical | with_reducible apply canonical_ite | simp only [canonical_mk] | split
      | (simp +zetaDelta only [canonical_mk]; done) | simp +zetaDelta only [canonical_mk])

theorem chapterRefusal_canonical (s : State) (c : Cmd) (h_s : Canonical s) :
    CanonicalOpt (State.chapterRefusal s c) := by
  unfold State.chapterRefusal
  repeat' (first
    | intro _ | with_reducible assumption | with_reducible apply runBody_canonical | with_reducible apply canonical_ite
    | with_reducible apply canonicalOpt_none | with_reducible apply canonicalOpt_some
    | with_reducible apply canonicalOpt_map | with_reducible apply canonicalOpt_ite
    | with_reducible apply canonicalOpt_bind | with_reducible apply canonicalOpt_foldl
    | with_reducible apply canonicalOpt_bind_fst | with_reducible apply canonicalOpt_bind_any | simp only [canonical_mk]
    | split)

theorem chapterRefusal_canonical_eq {s : State} {c : Cmd} {t : State} (h_eq : State.chapterRefusal s c = some t)
    (h_s : Canonical s) : Canonical t :=
  (chapterRefusal_canonical s c h_s).elim t h_eq

theorem presentCmd_canonical (s : State) (c : Cmd) (h_s : Canonical s) :
    Canonical (State.presentCmd s c) := by
  unfold State.presentCmd
  repeat' (first
    | intro _ | with_reducible assumption | with_reducible apply begin__canonical
    | with_reducible apply chapterRefusal_canonical
    | with_reducible refine chapterRefusal_canonical_eq (by with_reducible assumption) ?_
    | with_reducible apply closeStreams_canonical | with_reducible apply refuse_canonical
    | with_reducible apply reply_canonical | with_reducible apply canonical_ite | with_reducible apply canonical_ite_fst
    | with_reducible apply canonical_ite_snd | simp only [canonical_mk]
    | with_reducible refine canonicalOpt_eq (by with_reducible assumption) ?_
    | with_reducible refine canonicalOptFst_eq (by with_reducible assumption) ?_
    | with_reducible refine canonicalOptFst_eq_1 (by with_reducible assumption) ?_ | split
    | with_reducible apply canonicalOpt_none | with_reducible apply canonicalOpt_some
    | with_reducible apply canonicalOpt_map | with_reducible apply canonicalOpt_ite
    | with_reducible apply canonicalOpt_bind | with_reducible apply canonicalOpt_foldl
    | with_reducible apply canonicalOpt_bind_fst | with_reducible apply canonicalOpt_bind_any
    | with_reducible apply canonicalOptFst_none | with_reducible apply canonicalOptFst_some
    | with_reducible apply canonicalOptFst_map | with_reducible apply canonicalOptFst_ite
    | with_reducible apply canonicalOptFst_bind | with_reducible apply canonicalOptFst_foldl
    | with_reducible apply canonicalOptFst_bind_opt | with_reducible apply canonicalOptFst_bind_any
    | with_reducible apply canonicalOptSnd_none | with_reducible apply canonicalOptSnd_some
    | with_reducible refine canonical_pair_eq (by with_reducible assumption) ?_ | with_reducible apply canonicalOptSnd_ite
    | with_reducible apply canonical_ite_fst)

theorem present_canonical (s : State) (id : Nat) (h_s : Canonical s) :
    Canonical (State.present s id) := by
  unfold State.present
  repeat' (first
    | intro _ | with_reducible assumption | with_reducible apply presentCmd_canonical | with_reducible apply canonical_ite
    | simp only [canonical_mk] | split)

theorem issueReads_canonical (s : State) (i : Nat) (h_s : Canonical s) :
    Canonical (State.issueReads s i) := by
  unfold State.issueReads
  repeat' (first
    | intro _ | with_reducible assumption | with_reducible apply emit_canonical | with_reducible apply setCmd_canonical
    | with_reducible apply take_canonical | with_reducible apply canonical_ite | with_reducible apply canonical_ite_fst
    | with_reducible apply canonical_ite_snd | with_reducible refine canonical_foldl ?_ ?_
    | with_reducible refine canonical_foldl_snd ?_ ?_ | with_reducible refine canonical_foldl_fst ?_ ?_
    | simp only [canonical_mk] | with_reducible refine canonicalOpt_eq (by with_reducible assumption) ?_
    | with_reducible refine canonicalOptFst_eq (by with_reducible assumption) ?_
    | with_reducible refine canonicalOptFst_eq_1 (by with_reducible assumption) ?_ | split
    | with_reducible apply canonicalOpt_none | with_reducible apply canonicalOpt_some
    | with_reducible apply canonicalOpt_map | with_reducible apply canonicalOpt_ite
    | with_reducible apply canonicalOpt_bind | with_reducible apply canonicalOpt_foldl
    | with_reducible apply canonicalOpt_bind_fst | with_reducible apply canonicalOpt_bind_any
    | with_reducible apply canonicalOptFst_none | with_reducible apply canonicalOptFst_some
    | with_reducible apply canonicalOptFst_map | with_reducible apply canonicalOptFst_ite
    | with_reducible apply canonicalOptFst_bind | with_reducible apply canonicalOptFst_foldl
    | with_reducible apply canonicalOptFst_bind_opt | with_reducible apply canonicalOptFst_bind_any
    | with_reducible apply canonicalOptSnd_none | with_reducible apply canonicalOptSnd_some
    | with_reducible apply canonicalOptSnd_ite)

theorem orphanRead_canonical (s : State) (id : Nat) (o : FetchOutcome) (h_s : Canonical s) :
    Canonical (State.orphanRead s id o) := by
  unfold State.orphanRead
  repeat' (first
    | intro _ | with_reducible assumption | with_reducible apply issueReads_canonical
    | with_reducible apply qpLoss_canonical | with_reducible apply setQp_canonical | with_reducible apply canonical_ite
    | with_reducible apply canonical_ite_fst | with_reducible apply canonical_ite_snd | simp only [canonical_mk] | split)

theorem refFetchCompleteStep_canonical (id : Nat) (o : FetchOutcome) (s : State) (h_s : Canonical s) :
    Canonical (refFetchCompleteStep id o s) := by
  unfold refFetchCompleteStep
  repeat' (first
    | intro _ | with_reducible assumption | with_reducible apply issueReads_canonical
    | with_reducible apply orphanRead_canonical | with_reducible apply present_canonical
    | with_reducible apply qpLoss_canonical | with_reducible apply quit_canonical | with_reducible apply setCmd_canonical
    | with_reducible apply take_canonical | with_reducible apply canonical_ite | simp only [canonical_mk] | split)

theorem turnAway_canonical (s : State) (h : Hdr) (st : Nat) (h_s : Canonical s) :
    Canonical (State.turnAway s h st) := by
  unfold State.turnAway
  repeat' (first
    | intro _ | with_reducible assumption | with_reducible apply count_canonical
    | with_reducible apply sendReply_canonical | with_reducible apply canonical_ite | simp only [canonical_mk] | split)

theorem taken_canonical (s : State) (c : Cmd) (h_s : Canonical s) :
    Canonical (State.taken s c) := by
  unfold State.taken
  repeat' (first
    | intro _ | with_reducible assumption | with_reducible apply count_canonical | with_reducible apply canonical_ite
    | simp only [canonical_mk] | split)

theorem take_canonical (s : State) (q : Qp) (h : Hdr) (items : List Item) (payload : List Byte) (h_s : Canonical s) :
    Canonical (State.take s q h items payload) := by
  unfold State.take
  repeat' (first
    | intro _ | with_reducible assumption | with_reducible apply issueReads_canonical
    | with_reducible apply presentCmd_canonical | with_reducible apply setCmd_canonical
    | with_reducible apply taken_canonical | with_reducible apply turnAway_canonical | with_reducible apply canonical_ite
    | simp only [canonical_mk] | split)

theorem refuseFragments_canonical (s : State) (h : Hdr) (st : Nat) (more : Bool) (h_s : Canonical s) :
    Canonical (State.refuseFragments s h st more) := by
  unfold State.refuseFragments
  repeat' (first
    | intro _ | with_reducible assumption | with_reducible apply setQp_canonical | with_reducible apply turnAway_canonical
    | with_reducible apply canonical_ite | simp only [canonical_mk] | split)

theorem firstPacket_canonical (s : State) (q : Qp) (op : Nat) (r : Req) (h_s : Canonical s) :
    Canonical (State.firstPacket s q op r) := by
  unfold State.firstPacket
  repeat' (first
    | intro _ | with_reducible assumption | with_reducible apply refuseFragments_canonical
    | with_reducible apply setQp_canonical | with_reducible apply take_canonical | with_reducible apply canonical_ite
    | with_reducible refine canonical_getD ?_ ?_ | simp only [canonical_mk] | split)

theorem laterPacket_canonical (s : State) (q : Qp) (a : Assembly) (op : Nat) (r : Req) (h_s : Canonical s) :
    Canonical (State.laterPacket s q a op r) := by
  unfold State.laterPacket
  repeat' (first
    | intro _ | with_reducible assumption | with_reducible apply refuseFragments_canonical
    | with_reducible apply setQp_canonical | with_reducible apply take_canonical | with_reducible apply canonical_ite
    | with_reducible refine canonical_getD ?_ ?_ | simp only [canonical_mk] | split)

theorem listen_canonical (s : State) (i : Nat) (h_s : Canonical s) :
    Canonical (State.listen s i) := by
  unfold State.listen
  repeat' (first
    | intro _ | with_reducible assumption | with_reducible apply setQp_canonical | with_reducible apply canonical_ite
    | simp only [canonical_mk] | split)

theorem requestArrives_canonical (s : State) (q : Qp) (op : Nat) (r : Req) (h_s : Canonical s) :
    Canonical (State.requestArrives s q op r) := by
  unfold State.requestArrives
  repeat' (first
    | intro _ | with_reducible assumption | with_reducible apply count_canonical
    | with_reducible apply firstPacket_canonical | with_reducible apply laterPacket_canonical
    | with_reducible apply listen_canonical | with_reducible apply refuseFragments_canonical
    | with_reducible apply setQp_canonical | with_reducible apply canonical_ite | simp only [canonical_mk] | split)

theorem replyArrives_canonical (s : State) (r : Req) (h_s : Canonical s) :
    Canonical (State.replyArrives s r) := by
  unfold State.replyArrives
  repeat' (first
    | intro _ | with_reducible assumption | with_reducible apply count_canonical
    | with_reducible apply fetchArrived_canonical | with_reducible apply shardReply_canonical
    | with_reducible apply canonical_ite | simp only [canonical_mk] | split)

theorem receive_canonical (s : State) (op : Nat) (r : Req) (h_s : Canonical s) :
    Canonical (State.receive s op r) := by
  unfold State.receive
  repeat' (first
    | intro _ | with_reducible assumption | with_reducible apply count_canonical | with_reducible apply nak_canonical
    | with_reducible apply replyArrives_canonical | with_reducible apply requestArrives_canonical
    | with_reducible apply canonical_ite | simp only [canonical_mk] | split)

theorem packetDiscardStep_canonical (qp : Nat) (bytes : List Byte) (s : State) (h_s : Canonical s) :
    Canonical (packetDiscardStep qp bytes s) := by
  unfold packetDiscardStep
  repeat' (first
    | intro _ | with_reducible assumption | with_reducible apply count_canonical | with_reducible apply nak_canonical
    | with_reducible apply receive_canonical | with_reducible apply canonical_ite | simp only [canonical_mk] | split)

theorem missSearch_canonical (s : State) (q : Search) (h_s : Canonical s) :
    Canonical (State.missSearch s q) := by
  unfold State.missSearch
  repeat' (first
    | intro _ | with_reducible assumption | with_reducible apply failSearch_canonical
    | with_reducible apply searchDone_canonical | with_reducible apply canonical_ite | simp only [canonical_mk] | split)

theorem abandon_canonical (s : State) (c : Cmd) (h_s : Canonical s) :
    Canonical (State.abandon s c) := by
  unfold State.abandon
  repeat' (first
    | intro _ | with_reducible assumption | with_reducible apply dropSearches_canonical
    | with_reducible apply dropWork_canonical | with_reducible apply missSearch_canonical
    | with_reducible apply orphanReads_canonical | with_reducible apply refuse_canonical
    | with_reducible apply canonical_ite | with_reducible refine canonical_foldl ?_ ?_
    | with_reducible refine canonical_foldl_snd ?_ ?_ | with_reducible refine canonical_foldl_fst ?_ ?_
    | simp only [canonical_mk] | split)

theorem searchDeadline_canonical (s : State) (c : Cmd) (h_s : Canonical s) :
    Canonical (State.searchDeadline s c) := by
  unfold State.searchDeadline
  repeat' (first
    | intro _ | with_reducible assumption | with_reducible apply abandon_canonical | with_reducible apply count_canonical
    | with_reducible apply replySearch_canonical | with_reducible apply searchDone_canonical
    | with_reducible apply shardMergeStep_canonical | with_reducible apply canonical_ite
    | with_reducible refine canonical_foldl ?_ ?_ | with_reducible refine canonical_foldl_snd ?_ ?_
    | with_reducible refine canonical_foldl_fst ?_ ?_ | simp only [canonical_mk]
    | with_reducible refine canonicalOpt_eq (by with_reducible assumption) ?_
    | with_reducible refine canonicalOptFst_eq (by with_reducible assumption) ?_
    | with_reducible refine canonicalOptFst_eq_1 (by with_reducible assumption) ?_ | split
    | with_reducible apply canonicalOpt_none | with_reducible apply canonicalOpt_some
    | with_reducible apply canonicalOpt_map | with_reducible apply canonicalOpt_ite
    | with_reducible apply canonicalOpt_bind | with_reducible apply canonicalOpt_foldl
    | with_reducible apply canonicalOpt_bind_fst | with_reducible apply canonicalOpt_bind_any
    | with_reducible apply canonicalOptFst_none | with_reducible apply canonicalOptFst_some
    | with_reducible apply canonicalOptFst_map | with_reducible apply canonicalOptFst_ite
    | with_reducible apply canonicalOptFst_bind | with_reducible apply canonicalOptFst_foldl
    | with_reducible apply canonicalOptFst_bind_opt | with_reducible apply canonicalOptFst_bind_any
    | with_reducible apply canonicalOptSnd_none | with_reducible apply canonicalOptSnd_some
    | with_reducible apply canonicalOptSnd_ite)

theorem streamDeadline_canonical (s : State) (c : Cmd) (h_s : Canonical s) :
    Canonical (State.streamDeadline s c) := by
  unfold State.streamDeadline
  repeat' (first
    | intro _ | with_reducible assumption | with_reducible apply abandon_canonical | with_reducible apply cutSeq_canonical
    | with_reducible apply endTelem_canonical | with_reducible apply canonical_ite | simp only [canonical_mk] | split)

theorem commandDeadlineStep_canonical (id : Nat) (s : State) (h_s : Canonical s) :
    Canonical (commandDeadlineStep id s) := by
  unfold commandDeadlineStep
  repeat' (first
    | intro _ | with_reducible assumption | with_reducible apply abandon_canonical
    | with_reducible apply collFail_canonical | with_reducible apply searchDeadline_canonical
    | with_reducible apply streamDeadline_canonical | with_reducible apply canonical_ite | simp only [canonical_mk]
    | split)

theorem deadlinesDue_canonical (s : State) (h_s : Canonical s) :
    Canonical (State.deadlinesDue s) := by
  unfold State.deadlinesDue
  repeat' (first
    | intro _ | with_reducible assumption | with_reducible apply missSearch_canonical
    | with_reducible apply commandDeadlineStep_canonical | with_reducible apply canonical_ite
    | with_reducible refine canonical_foldl ?_ ?_ | with_reducible refine canonical_foldl_snd ?_ ?_
    | with_reducible refine canonical_foldl_fst ?_ ?_ | simp only [canonical_mk]
    | with_reducible refine canonicalOpt_eq (by with_reducible assumption) ?_
    | with_reducible refine canonicalOptFst_eq (by with_reducible assumption) ?_
    | with_reducible refine canonicalOptFst_eq_1 (by with_reducible assumption) ?_ | split
    | with_reducible apply canonicalOpt_none | with_reducible apply canonicalOpt_some
    | with_reducible apply canonicalOpt_map | with_reducible apply canonicalOpt_ite
    | with_reducible apply canonicalOpt_bind | with_reducible apply canonicalOpt_foldl
    | with_reducible apply canonicalOpt_bind_fst | with_reducible apply canonicalOpt_bind_any
    | with_reducible apply canonicalOptFst_none | with_reducible apply canonicalOptFst_some
    | with_reducible apply canonicalOptFst_map | with_reducible apply canonicalOptFst_ite
    | with_reducible apply canonicalOptFst_bind | with_reducible apply canonicalOptFst_foldl
    | with_reducible apply canonicalOptFst_bind_opt | with_reducible apply canonicalOptFst_bind_any
    | with_reducible apply canonicalOptSnd_none | with_reducible apply canonicalOptSnd_some
    | with_reducible apply canonicalOptSnd_ite)

theorem settle_canonical (s : State) (h_s : Canonical s) :
    Canonical (State.settle s) := by
  unfold State.settle
  repeat' (first
    | intro _ | with_reducible assumption | with_reducible apply embPump_canonical
    | with_reducible apply hotPump_canonical | with_reducible apply releaseOrdered_canonical
    | with_reducible apply settleEndings_canonical | with_reducible apply spnPump_canonical
    | with_reducible apply canonical_ite | simp only [canonical_mk] | split)

theorem upTo_canonical (s : State) (h_s : Canonical s) :
    Canonical (State.upTo s) := by
  unfold State.upTo
  repeat' (first
    | intro _ | with_reducible assumption | with_reducible apply commitEvictions_canonical
    | with_reducible apply deadlinesDue_canonical | with_reducible apply finishJobs_canonical
    | with_reducible apply installTables_canonical | with_reducible apply releaseOrdered_canonical
    | with_reducible apply tearsDue_canonical | with_reducible apply canonical_ite | simp only [canonical_mk] | split)

theorem comeTo_canonical (s : State) (t : Stamp) (h_s : Canonical s) :
    Canonical (State.comeTo s t) := by
  unfold State.comeTo
  repeat' (first
    | intro _ | with_reducible assumption | with_reducible apply canonical_ite | simp only [canonical_mk] | split)

theorem keepQueue_canonical (s : State) (u : State) (h_s : Canonical s) (h_u : Canonical u) :
    Canonical (State.keepQueue s u) := by
  unfold State.keepQueue
  repeat' (first
    | intro _ | with_reducible assumption | with_reducible apply canonical_ite | simp only [canonical_mk] | split)

theorem runAt_canonical (t : Stamp) (f : State → State) (s : State) (h_f : ∀ (x0 : State), Canonical x0 → Canonical (f x0)) (h_s : Canonical s) :
    Canonical (runAt t f s) := by
  unfold runAt
  repeat' (first
    | intro _ | with_reducible assumption | with_reducible apply h_f | with_reducible apply comeTo_canonical
    | with_reducible apply frameOutputs_canonical | with_reducible apply keepQueue_canonical
    | with_reducible apply powerTick_canonical | with_reducible apply settle_canonical
    | with_reducible apply upTo_canonical | with_reducible apply canonical_ite | simp only [canonical_mk] | split)

theorem runPower_canonical (t : Stamp) (f : State → State) (s : State) (h_f : ∀ (x0 : State), Canonical x0 → Canonical (f x0)) (h_s : Canonical s) :
    Canonical (runPower t f s) := by
  unfold runPower
  repeat' (first
    | intro _ | with_reducible assumption | with_reducible apply h_f | with_reducible apply comeTo_canonical
    | with_reducible apply frameOutputs_canonical | with_reducible apply keepQueue_canonical
    | with_reducible apply powerTick_canonical | with_reducible apply settle_canonical
    | with_reducible apply canonical_ite | simp only [canonical_mk] | split)

end Sys2Proof.Machine
end

