-- ==== Sys2Proof/Laws/CanonicalReplay.lean ====
section
/-! SUPPORT. Every operation of Machine/Replay.lean keeps the canonical forms of memory and of the registers. -/

set_option simprocs false
set_option linter.unusedTactic false
set_option linter.unusedSimpArgs false
set_option linter.unreachableTactic false

namespace Sys2Proof.Machine

theorem replay_canonical (s : State) (j : Journaled) (h_s : Canonical s) :
    Canonical (State.replay s j) := by
  unfold State.replay
  repeat' (first
    | intro _ | with_reducible assumption | with_reducible apply checkpointed_canonical
    | with_reducible apply commit_canonical | with_reducible apply committed_canonical
    | with_reducible apply dropCmd_canonical | with_reducible apply sendReply_canonical
    | with_reducible apply taken_canonical | with_reducible apply runBody_canonical | with_reducible apply canonical_ite
    | simp only [canonical_mk] | split)

theorem coreRestartStep_canonical (c : Nat) (s : State) (h_s : Canonical s) :
    Canonical (coreRestartStep c s) := by
  unfold coreRestartStep
  repeat' (first
    | intro _ | with_reducible assumption | with_reducible apply bump_canonical
    | with_reducible apply clusterReady_canonical | with_reducible apply icuEvent_canonical
    | with_reducible apply replay_canonical | with_reducible apply setCore_canonical | with_reducible apply canonical_ite
    | with_reducible apply canonical_ite_fst | with_reducible apply canonical_ite_snd
    | with_reducible refine canonical_foldl ?_ ?_ | with_reducible refine canonical_foldl_snd ?_ ?_
    | with_reducible refine canonical_foldl_fst ?_ ?_ | with_reducible refine canonical_getD ?_ ?_
    | simp only [canonical_mk] | with_reducible refine canonicalOpt_eq (by with_reducible assumption) ?_
    | with_reducible refine canonicalOptFst_eq (by with_reducible assumption) ?_
    | with_reducible refine canonicalOptFst_eq_1 (by with_reducible assumption) ?_ | split
    | with_reducible apply canonicalOpt_none | with_reducible apply canonicalOpt_some
    | with_reducible apply canonicalOpt_map | with_reducible apply canonicalOpt_ite
    | with_reducible apply canonicalOpt_bind | with_reducible apply canonicalOpt_foldl
    | with_reducible apply canonicalOpt_bind_fst | with_reducible apply canonicalOpt_bind_any
    | with_reducible apply canonicalOptFst_none | with_reducible apply canonicalOptFst_some
    | with_reducible apply canonicalOptFst_map | with_reducible apply canonicalOptFst_ite
    | with_reducible apply canonicalOptFst_bind | with_reducible apply canonicalOptFst_foldl
    | with_reducible apply canonicalOptFst_bind_opt | with_reducible apply canonicalOptFst_bind_any
    | with_reducible apply canonicalOptSnd_none | with_reducible apply canonicalOptSnd_some
    | with_reducible apply canonicalOptSnd_ite)

end Sys2Proof.Machine
end

