-- ==== Sys2Proof/Laws/CanonicalHostCommands.lean ====
section
/-! SUPPORT. Every operation of Machine/HostCommands.lean keeps the canonical forms of memory and of the registers. -/

set_option simprocs false
set_option linter.unusedTactic false
set_option linter.unusedSimpArgs false
set_option linter.unreachableTactic false

namespace Sys2Proof.Machine

theorem execSessionOpen_canonical (t : Stamp) (r : Req) (s : State) (h_s : Canonical s) :
    CanonicalOut (execSessionOpen t r s) := by
  unfold execSessionOpen
  repeat' (first
    | intro _ | with_reducible assumption | with_reducible apply receive_canonical | with_reducible apply runAt_canonical
    | with_reducible apply canonical_ite | with_reducible apply canonicalOut_next | simp only [canonical_mk] | split)

theorem execSessionClose_canonical (t : Stamp) (r : Req) (s : State) (h_s : Canonical s) :
    CanonicalOut (execSessionClose t r s) := by
  unfold execSessionClose
  repeat' (first
    | intro _ | with_reducible assumption | with_reducible apply receive_canonical | with_reducible apply runAt_canonical
    | with_reducible apply canonical_ite | with_reducible apply canonicalOut_next | simp only [canonical_mk] | split)

theorem execSessionCloseComplete_canonical (t : Stamp) (qp : Nat) (s : State) (h_s : Canonical s) :
    CanonicalOut (execSessionCloseComplete t qp s) := by
  unfold execSessionCloseComplete
  repeat' (first
    | intro _ | with_reducible assumption | with_reducible apply runAt_canonical
    | with_reducible apply sessionCloseCompleteStep_canonical | with_reducible apply canonical_ite
    | with_reducible apply canonicalOut_next | simp only [canonical_mk] | split)

theorem execEcho_canonical (t : Stamp) (r : Req) (s : State) (h_s : Canonical s) :
    CanonicalOut (execEcho t r s) := by
  unfold execEcho
  repeat' (first
    | intro _ | with_reducible assumption | with_reducible apply receive_canonical | with_reducible apply runAt_canonical
    | with_reducible apply canonical_ite | with_reducible apply canonicalOut_next | simp only [canonical_mk] | split)

theorem execSetEventCoalesce_canonical (t : Stamp) (r : Req) (s : State) (h_s : Canonical s) :
    CanonicalOut (execSetEventCoalesce t r s) := by
  unfold execSetEventCoalesce
  repeat' (first
    | intro _ | with_reducible assumption | with_reducible apply receive_canonical | with_reducible apply runAt_canonical
    | with_reducible apply canonical_ite | with_reducible apply canonicalOut_next | simp only [canonical_mk] | split)

theorem execReadinessQuery_canonical (t : Stamp) (r : Req) (s : State) (h_s : Canonical s) :
    CanonicalOut (execReadinessQuery t r s) := by
  unfold execReadinessQuery
  repeat' (first
    | intro _ | with_reducible assumption | with_reducible apply receive_canonical | with_reducible apply runAt_canonical
    | with_reducible apply canonical_ite | with_reducible apply canonicalOut_next | simp only [canonical_mk] | split)

theorem execSearch_canonical (t : Stamp) (r : Req) (s : State) (h_s : Canonical s) :
    CanonicalOut (execSearch t r s) := by
  unfold execSearch
  repeat' (first
    | intro _ | with_reducible assumption | with_reducible apply receive_canonical | with_reducible apply runAt_canonical
    | with_reducible apply canonical_ite | with_reducible apply canonicalOut_next | simp only [canonical_mk] | split)

theorem execSearchShard_canonical (t : Stamp) (r : Req) (s : State) (h_s : Canonical s) :
    CanonicalOut (execSearchShard t r s) := by
  unfold execSearchShard
  repeat' (first
    | intro _ | with_reducible assumption | with_reducible apply receive_canonical | with_reducible apply runAt_canonical
    | with_reducible apply canonical_ite | with_reducible apply canonicalOut_next | simp only [canonical_mk] | split)

theorem execSearchBatch_canonical (t : Stamp) (r : Req) (s : State) (h_s : Canonical s) :
    CanonicalOut (execSearchBatch t r s) := by
  unfold execSearchBatch
  repeat' (first
    | intro _ | with_reducible assumption | with_reducible apply receive_canonical | with_reducible apply runAt_canonical
    | with_reducible apply canonical_ite | with_reducible apply canonicalOut_next | simp only [canonical_mk] | split)

theorem execIndexInsert_canonical (t : Stamp) (r : Req) (s : State) (h_s : Canonical s) :
    CanonicalOut (execIndexInsert t r s) := by
  unfold execIndexInsert
  repeat' (first
    | intro _ | with_reducible assumption | with_reducible apply receive_canonical | with_reducible apply runAt_canonical
    | with_reducible apply canonical_ite | with_reducible apply canonicalOut_next | simp only [canonical_mk] | split)

theorem execIndexDelete_canonical (t : Stamp) (r : Req) (s : State) (h_s : Canonical s) :
    CanonicalOut (execIndexDelete t r s) := by
  unfold execIndexDelete
  repeat' (first
    | intro _ | with_reducible assumption | with_reducible apply receive_canonical | with_reducible apply runAt_canonical
    | with_reducible apply canonical_ite | with_reducible apply canonicalOut_next | simp only [canonical_mk] | split)

theorem execIndexLoad_canonical (t : Stamp) (r : Req) (s : State) (h_s : Canonical s) :
    CanonicalOut (execIndexLoad t r s) := by
  unfold execIndexLoad
  repeat' (first
    | intro _ | with_reducible assumption | with_reducible apply receive_canonical | with_reducible apply runAt_canonical
    | with_reducible apply canonical_ite | with_reducible apply canonicalOut_next | simp only [canonical_mk] | split)

theorem execIndexMergeStart_canonical (t : Stamp) (r : Req) (s : State) (h_s : Canonical s) :
    CanonicalOut (execIndexMergeStart t r s) := by
  unfold execIndexMergeStart
  repeat' (first
    | intro _ | with_reducible assumption | with_reducible apply receive_canonical | with_reducible apply runAt_canonical
    | with_reducible apply canonical_ite | with_reducible apply canonicalOut_next | simp only [canonical_mk] | split)

theorem execMergeRepair_canonical (t : Stamp) (p : Nat) (s : State) (h_s : Canonical s) :
    CanonicalOut (execMergeRepair t p s) := by
  unfold execMergeRepair
  repeat' (first
    | intro _ | with_reducible assumption | with_reducible apply mergeRepairStep_canonical
    | with_reducible apply runAt_canonical | with_reducible apply canonical_ite | with_reducible apply canonicalOut_next
    | simp only [canonical_mk] | split)

theorem execMergePublish_canonical (t : Stamp) (p : Nat) (s : State) (h_s : Canonical s) :
    CanonicalOut (execMergePublish t p s) := by
  unfold execMergePublish
  repeat' (first
    | intro _ | with_reducible assumption | with_reducible apply mergePublishStep_canonical
    | with_reducible apply runAt_canonical | with_reducible apply canonical_ite | with_reducible apply canonicalOut_next
    | simp only [canonical_mk] | split)

theorem execMergeReclaim_canonical (t : Stamp) (p : Nat) (s : State) (h_s : Canonical s) :
    CanonicalOut (execMergeReclaim t p s) := by
  unfold execMergeReclaim
  repeat' (first
    | intro _ | with_reducible assumption | with_reducible apply mergeReclaimStep_canonical
    | with_reducible apply runAt_canonical | with_reducible apply canonical_ite | with_reducible apply canonicalOut_next
    | simp only [canonical_mk] | split)

theorem execIndexEpochQuery_canonical (t : Stamp) (r : Req) (s : State) (h_s : Canonical s) :
    CanonicalOut (execIndexEpochQuery t r s) := by
  unfold execIndexEpochQuery
  repeat' (first
    | intro _ | with_reducible assumption | with_reducible apply receive_canonical | with_reducible apply runAt_canonical
    | with_reducible apply canonical_ite | with_reducible apply canonicalOut_next | simp only [canonical_mk] | split)

theorem execShardMapSet_canonical (t : Stamp) (r : Req) (s : State) (h_s : Canonical s) :
    CanonicalOut (execShardMapSet t r s) := by
  unfold execShardMapSet
  repeat' (first
    | intro _ | with_reducible assumption | with_reducible apply receive_canonical | with_reducible apply runAt_canonical
    | with_reducible apply canonical_ite | with_reducible apply canonicalOut_next | simp only [canonical_mk] | split)

theorem execVectorFetch_canonical (t : Stamp) (r : Req) (s : State) (h_s : Canonical s) :
    CanonicalOut (execVectorFetch t r s) := by
  unfold execVectorFetch
  repeat' (first
    | intro _ | with_reducible assumption | with_reducible apply receive_canonical | with_reducible apply runAt_canonical
    | with_reducible apply canonical_ite | with_reducible apply canonicalOut_next | simp only [canonical_mk] | split)

theorem execPassageFetch_canonical (t : Stamp) (r : Req) (s : State) (h_s : Canonical s) :
    CanonicalOut (execPassageFetch t r s) := by
  unfold execPassageFetch
  repeat' (first
    | intro _ | with_reducible assumption | with_reducible apply receive_canonical | with_reducible apply runAt_canonical
    | with_reducible apply canonical_ite | with_reducible apply canonicalOut_next | simp only [canonical_mk] | split)

theorem execIndexUnload_canonical (t : Stamp) (r : Req) (s : State) (h_s : Canonical s) :
    CanonicalOut (execIndexUnload t r s) := by
  unfold execIndexUnload
  repeat' (first
    | intro _ | with_reducible assumption | with_reducible apply receive_canonical | with_reducible apply runAt_canonical
    | with_reducible apply canonical_ite | with_reducible apply canonicalOut_next | simp only [canonical_mk] | split)

theorem execIndexUnloadComplete_canonical (t : Stamp) (p : Nat) (ix : Nat) (s : State) (h_s : Canonical s) :
    CanonicalOut (execIndexUnloadComplete t p ix s) := by
  unfold execIndexUnloadComplete
  repeat' (first
    | intro _ | with_reducible assumption | with_reducible apply indexUnloadCompleteStep_canonical
    | with_reducible apply runAt_canonical | with_reducible apply canonical_ite | with_reducible apply canonicalOut_next
    | simp only [canonical_mk] | split)

theorem execEmbed_canonical (t : Stamp) (r : Req) (s : State) (h_s : Canonical s) :
    CanonicalOut (execEmbed t r s) := by
  unfold execEmbed
  repeat' (first
    | intro _ | with_reducible assumption | with_reducible apply receive_canonical | with_reducible apply runAt_canonical
    | with_reducible apply canonical_ite | with_reducible apply canonicalOut_next | simp only [canonical_mk] | split)

theorem execRescore_canonical (t : Stamp) (r : Req) (s : State) (h_s : Canonical s) :
    CanonicalOut (execRescore t r s) := by
  unfold execRescore
  repeat' (first
    | intro _ | with_reducible assumption | with_reducible apply receive_canonical | with_reducible apply runAt_canonical
    | with_reducible apply canonical_ite | with_reducible apply canonicalOut_next | simp only [canonical_mk] | split)

theorem execRerank_canonical (t : Stamp) (r : Req) (s : State) (h_s : Canonical s) :
    CanonicalOut (execRerank t r s) := by
  unfold execRerank
  repeat' (first
    | intro _ | with_reducible assumption | with_reducible apply receive_canonical | with_reducible apply runAt_canonical
    | with_reducible apply canonical_ite | with_reducible apply canonicalOut_next | simp only [canonical_mk] | split)

theorem execRewardScore_canonical (t : Stamp) (r : Req) (s : State) (h_s : Canonical s) :
    CanonicalOut (execRewardScore t r s) := by
  unfold execRewardScore
  repeat' (first
    | intro _ | with_reducible assumption | with_reducible apply receive_canonical | with_reducible apply runAt_canonical
    | with_reducible apply canonical_ite | with_reducible apply canonicalOut_next | simp only [canonical_mk] | split)

theorem execGenerate_canonical (t : Stamp) (r : Req) (s : State) (h_s : Canonical s) :
    CanonicalOut (execGenerate t r s) := by
  unfold execGenerate
  repeat' (first
    | intro _ | with_reducible assumption | with_reducible apply receive_canonical | with_reducible apply runAt_canonical
    | with_reducible apply canonical_ite | with_reducible apply canonicalOut_next | simp only [canonical_mk] | split)

theorem execRagGenerate_canonical (t : Stamp) (r : Req) (s : State) (h_s : Canonical s) :
    CanonicalOut (execRagGenerate t r s) := by
  unfold execRagGenerate
  repeat' (first
    | intro _ | with_reducible assumption | with_reducible apply receive_canonical | with_reducible apply runAt_canonical
    | with_reducible apply canonical_ite | with_reducible apply canonicalOut_next | simp only [canonical_mk] | split)

theorem execSeqAppend_canonical (t : Stamp) (r : Req) (s : State) (h_s : Canonical s) :
    CanonicalOut (execSeqAppend t r s) := by
  unfold execSeqAppend
  repeat' (first
    | intro _ | with_reducible assumption | with_reducible apply receive_canonical | with_reducible apply runAt_canonical
    | with_reducible apply canonical_ite | with_reducible apply canonicalOut_next | simp only [canonical_mk] | split)

theorem execSeqCancel_canonical (t : Stamp) (r : Req) (s : State) (h_s : Canonical s) :
    CanonicalOut (execSeqCancel t r s) := by
  unfold execSeqCancel
  repeat' (first
    | intro _ | with_reducible assumption | with_reducible apply receive_canonical | with_reducible apply runAt_canonical
    | with_reducible apply canonical_ite | with_reducible apply canonicalOut_next | simp only [canonical_mk] | split)

theorem execSeqStatus_canonical (t : Stamp) (r : Req) (s : State) (h_s : Canonical s) :
    CanonicalOut (execSeqStatus t r s) := by
  unfold execSeqStatus
  repeat' (first
    | intro _ | with_reducible assumption | with_reducible apply receive_canonical | with_reducible apply runAt_canonical
    | with_reducible apply canonical_ite | with_reducible apply canonicalOut_next | simp only [canonical_mk] | split)

theorem execSeqSetPriority_canonical (t : Stamp) (r : Req) (s : State) (h_s : Canonical s) :
    CanonicalOut (execSeqSetPriority t r s) := by
  unfold execSeqSetPriority
  repeat' (first
    | intro _ | with_reducible assumption | with_reducible apply receive_canonical | with_reducible apply runAt_canonical
    | with_reducible apply canonical_ite | with_reducible apply canonicalOut_next | simp only [canonical_mk] | split)

theorem execPrefixStore_canonical (t : Stamp) (r : Req) (s : State) (h_s : Canonical s) :
    CanonicalOut (execPrefixStore t r s) := by
  unfold execPrefixStore
  repeat' (first
    | intro _ | with_reducible assumption | with_reducible apply receive_canonical | with_reducible apply runAt_canonical
    | with_reducible apply canonical_ite | with_reducible apply canonicalOut_next | simp only [canonical_mk] | split)

theorem execPrefixRelease_canonical (t : Stamp) (r : Req) (s : State) (h_s : Canonical s) :
    CanonicalOut (execPrefixRelease t r s) := by
  unfold execPrefixRelease
  repeat' (first
    | intro _ | with_reducible assumption | with_reducible apply receive_canonical | with_reducible apply runAt_canonical
    | with_reducible apply canonical_ite | with_reducible apply canonicalOut_next | simp only [canonical_mk] | split)

theorem execEmbGather_canonical (t : Stamp) (r : Req) (s : State) (h_s : Canonical s) :
    CanonicalOut (execEmbGather t r s) := by
  unfold execEmbGather
  repeat' (first
    | intro _ | with_reducible assumption | with_reducible apply receive_canonical | with_reducible apply runAt_canonical
    | with_reducible apply canonical_ite | with_reducible apply canonicalOut_next | simp only [canonical_mk] | split)

theorem execEmbScatterAdd_canonical (t : Stamp) (r : Req) (s : State) (h_s : Canonical s) :
    CanonicalOut (execEmbScatterAdd t r s) := by
  unfold execEmbScatterAdd
  repeat' (first
    | intro _ | with_reducible assumption | with_reducible apply receive_canonical | with_reducible apply runAt_canonical
    | with_reducible apply canonical_ite | with_reducible apply canonicalOut_next | simp only [canonical_mk] | split)

theorem execEmbUpdate_canonical (t : Stamp) (r : Req) (s : State) (h_s : Canonical s) :
    CanonicalOut (execEmbUpdate t r s) := by
  unfold execEmbUpdate
  repeat' (first
    | intro _ | with_reducible assumption | with_reducible apply receive_canonical | with_reducible apply runAt_canonical
    | with_reducible apply canonical_ite | with_reducible apply canonicalOut_next | simp only [canonical_mk] | split)

theorem execEmbTableCreate_canonical (t : Stamp) (r : Req) (s : State) (h_s : Canonical s) :
    CanonicalOut (execEmbTableCreate t r s) := by
  unfold execEmbTableCreate
  repeat' (first
    | intro _ | with_reducible assumption | with_reducible apply receive_canonical | with_reducible apply runAt_canonical
    | with_reducible apply canonical_ite | with_reducible apply canonicalOut_next | simp only [canonical_mk] | split)

theorem execEmbTableReplace_canonical (t : Stamp) (r : Req) (s : State) (h_s : Canonical s) :
    CanonicalOut (execEmbTableReplace t r s) := by
  unfold execEmbTableReplace
  repeat' (first
    | intro _ | with_reducible assumption | with_reducible apply receive_canonical | with_reducible apply runAt_canonical
    | with_reducible apply canonical_ite | with_reducible apply canonicalOut_next | simp only [canonical_mk] | split)

theorem execTableDrainComplete_canonical (t : Stamp) (tid : Nat) (s : State) (h_s : Canonical s) :
    CanonicalOut (execTableDrainComplete t tid s) := by
  unfold execTableDrainComplete
  repeat' (first
    | intro _ | with_reducible assumption | with_reducible apply runAt_canonical
    | with_reducible apply tableDrainCompleteStep_canonical | with_reducible apply canonical_ite
    | with_reducible apply canonicalOut_next | simp only [canonical_mk] | split)

theorem execEmbHotsetSet_canonical (t : Stamp) (r : Req) (s : State) (h_s : Canonical s) :
    CanonicalOut (execEmbHotsetSet t r s) := by
  unfold execEmbHotsetSet
  repeat' (first
    | intro _ | with_reducible assumption | with_reducible apply receive_canonical | with_reducible apply runAt_canonical
    | with_reducible apply canonical_ite | with_reducible apply canonicalOut_next | simp only [canonical_mk] | split)

theorem execMigrationCopyComplete_canonical (t : Stamp) (tid : Nat) (row : Nat) (s : State) (h_s : Canonical s) :
    CanonicalOut (execMigrationCopyComplete t tid row s) := by
  unfold execMigrationCopyComplete
  repeat' (first
    | intro _ | with_reducible assumption | with_reducible apply migrationCopyCompleteStep_canonical
    | with_reducible apply runAt_canonical | with_reducible apply canonical_ite | with_reducible apply canonicalOut_next
    | simp only [canonical_mk] | split)

theorem execMigrationLogResume_canonical (t : Stamp) (c : Nat) (s : State) (h_s : Canonical s) :
    CanonicalOut (execMigrationLogResume t c s) := by
  unfold execMigrationLogResume
  repeat' (first
    | intro _ | with_reducible assumption | with_reducible apply migrationLogResumeStep_canonical
    | with_reducible apply runAt_canonical | with_reducible apply canonical_ite | with_reducible apply canonicalOut_next
    | simp only [canonical_mk] | split)

theorem execParamSlotClaim_canonical (t : Stamp) (c : Nat) (s : State) (h_s : Canonical s) :
    CanonicalOut (execParamSlotClaim t c s) := by
  unfold execParamSlotClaim
  repeat' (first
    | intro _ | with_reducible assumption | with_reducible apply paramSlotClaimStep_canonical
    | with_reducible apply runAt_canonical | with_reducible apply canonical_ite | with_reducible apply canonicalOut_next
    | simp only [canonical_mk] | split)

theorem execEmbTableDrop_canonical (t : Stamp) (r : Req) (s : State) (h_s : Canonical s) :
    CanonicalOut (execEmbTableDrop t r s) := by
  unfold execEmbTableDrop
  repeat' (first
    | intro _ | with_reducible assumption | with_reducible apply receive_canonical | with_reducible apply runAt_canonical
    | with_reducible apply canonical_ite | with_reducible apply canonicalOut_next | simp only [canonical_mk] | split)

theorem execSelectTopk_canonical (t : Stamp) (r : Req) (s : State) (h_s : Canonical s) :
    CanonicalOut (execSelectTopk t r s) := by
  unfold execSelectTopk
  repeat' (first
    | intro _ | with_reducible assumption | with_reducible apply receive_canonical | with_reducible apply runAt_canonical
    | with_reducible apply canonical_ite | with_reducible apply canonicalOut_next | simp only [canonical_mk] | split)

theorem execArgmax_canonical (t : Stamp) (r : Req) (s : State) (h_s : Canonical s) :
    CanonicalOut (execArgmax t r s) := by
  unfold execArgmax
  repeat' (first
    | intro _ | with_reducible assumption | with_reducible apply receive_canonical | with_reducible apply runAt_canonical
    | with_reducible apply canonical_ite | with_reducible apply canonicalOut_next | simp only [canonical_mk] | split)

theorem execSelectTopp_canonical (t : Stamp) (r : Req) (s : State) (h_s : Canonical s) :
    CanonicalOut (execSelectTopp t r s) := by
  unfold execSelectTopp
  repeat' (first
    | intro _ | with_reducible assumption | with_reducible apply receive_canonical | with_reducible apply runAt_canonical
    | with_reducible apply canonical_ite | with_reducible apply canonicalOut_next | simp only [canonical_mk] | split)

theorem execSelectionTake_canonical (t : Stamp) (s : State) (h_s : Canonical s) :
    CanonicalOut (execSelectionTake t s) := by
  unfold execSelectionTake
  repeat' (first
    | intro _ | with_reducible assumption | with_reducible apply runAt_canonical
    | with_reducible apply selectionTakeStep_canonical | with_reducible apply canonical_ite
    | with_reducible apply canonicalOut_next | simp only [canonical_mk] | split)

theorem execTokenize_canonical (t : Stamp) (r : Req) (s : State) (h_s : Canonical s) :
    CanonicalOut (execTokenize t r s) := by
  unfold execTokenize
  repeat' (first
    | intro _ | with_reducible assumption | with_reducible apply receive_canonical | with_reducible apply runAt_canonical
    | with_reducible apply canonical_ite | with_reducible apply canonicalOut_next | simp only [canonical_mk] | split)

theorem execDetokenize_canonical (t : Stamp) (r : Req) (s : State) (h_s : Canonical s) :
    CanonicalOut (execDetokenize t r s) := by
  unfold execDetokenize
  repeat' (first
    | intro _ | with_reducible assumption | with_reducible apply receive_canonical | with_reducible apply runAt_canonical
    | with_reducible apply canonical_ite | with_reducible apply canonicalOut_next | simp only [canonical_mk] | split)

theorem execVocabLoad_canonical (t : Stamp) (r : Req) (s : State) (h_s : Canonical s) :
    CanonicalOut (execVocabLoad t r s) := by
  unfold execVocabLoad
  repeat' (first
    | intro _ | with_reducible assumption | with_reducible apply receive_canonical | with_reducible apply runAt_canonical
    | with_reducible apply canonical_ite | with_reducible apply canonicalOut_next | simp only [canonical_mk] | split)

theorem execGrammarLoad_canonical (t : Stamp) (r : Req) (s : State) (h_s : Canonical s) :
    CanonicalOut (execGrammarLoad t r s) := by
  unfold execGrammarLoad
  repeat' (first
    | intro _ | with_reducible assumption | with_reducible apply receive_canonical | with_reducible apply runAt_canonical
    | with_reducible apply canonical_ite | with_reducible apply canonicalOut_next | simp only [canonical_mk] | split)

theorem execGrammarUnload_canonical (t : Stamp) (r : Req) (s : State) (h_s : Canonical s) :
    CanonicalOut (execGrammarUnload t r s) := by
  unfold execGrammarUnload
  repeat' (first
    | intro _ | with_reducible assumption | with_reducible apply receive_canonical | with_reducible apply runAt_canonical
    | with_reducible apply canonical_ite | with_reducible apply canonicalOut_next | simp only [canonical_mk] | split)

theorem execMemWrite_canonical (t : Stamp) (r : Req) (s : State) (h_s : Canonical s) :
    CanonicalOut (execMemWrite t r s) := by
  unfold execMemWrite
  repeat' (first
    | intro _ | with_reducible assumption | with_reducible apply receive_canonical | with_reducible apply runAt_canonical
    | with_reducible apply canonical_ite | with_reducible apply canonicalOut_next | simp only [canonical_mk] | split)

theorem execMemRead_canonical (t : Stamp) (r : Req) (s : State) (h_s : Canonical s) :
    CanonicalOut (execMemRead t r s) := by
  unfold execMemRead
  repeat' (first
    | intro _ | with_reducible assumption | with_reducible apply receive_canonical | with_reducible apply runAt_canonical
    | with_reducible apply canonical_ite | with_reducible apply canonicalOut_next | simp only [canonical_mk] | split)

theorem execTierPromote_canonical (t : Stamp) (r : Req) (s : State) (h_s : Canonical s) :
    CanonicalOut (execTierPromote t r s) := by
  unfold execTierPromote
  repeat' (first
    | intro _ | with_reducible assumption | with_reducible apply receive_canonical | with_reducible apply runAt_canonical
    | with_reducible apply canonical_ite | with_reducible apply canonicalOut_next | simp only [canonical_mk] | split)

theorem execTierEvict_canonical (t : Stamp) (r : Req) (s : State) (h_s : Canonical s) :
    CanonicalOut (execTierEvict t r s) := by
  unfold execTierEvict
  repeat' (first
    | intro _ | with_reducible assumption | with_reducible apply receive_canonical | with_reducible apply runAt_canonical
    | with_reducible apply canonical_ite | with_reducible apply canonicalOut_next | simp only [canonical_mk] | split)

theorem execTierPolicySet_canonical (t : Stamp) (r : Req) (s : State) (h_s : Canonical s) :
    CanonicalOut (execTierPolicySet t r s) := by
  unfold execTierPolicySet
  repeat' (first
    | intro _ | with_reducible assumption | with_reducible apply receive_canonical | with_reducible apply runAt_canonical
    | with_reducible apply canonical_ite | with_reducible apply canonicalOut_next | simp only [canonical_mk] | split)

theorem execTileDirQuery_canonical (t : Stamp) (r : Req) (s : State) (h_s : Canonical s) :
    CanonicalOut (execTileDirQuery t r s) := by
  unfold execTileDirQuery
  repeat' (first
    | intro _ | with_reducible assumption | with_reducible apply receive_canonical | with_reducible apply runAt_canonical
    | with_reducible apply canonical_ite | with_reducible apply canonicalOut_next | simp only [canonical_mk] | split)

theorem execModelLoad_canonical (t : Stamp) (r : Req) (s : State) (h_s : Canonical s) :
    CanonicalOut (execModelLoad t r s) := by
  unfold execModelLoad
  repeat' (first
    | intro _ | with_reducible assumption | with_reducible apply receive_canonical | with_reducible apply runAt_canonical
    | with_reducible apply canonical_ite | with_reducible apply canonicalOut_next | simp only [canonical_mk] | split)

theorem execModelUnload_canonical (t : Stamp) (r : Req) (s : State) (h_s : Canonical s) :
    CanonicalOut (execModelUnload t r s) := by
  unfold execModelUnload
  repeat' (first
    | intro _ | with_reducible assumption | with_reducible apply receive_canonical | with_reducible apply runAt_canonical
    | with_reducible apply canonical_ite | with_reducible apply canonicalOut_next | simp only [canonical_mk] | split)

theorem execVariantSet_canonical (t : Stamp) (r : Req) (s : State) (h_s : Canonical s) :
    CanonicalOut (execVariantSet t r s) := by
  unfold execVariantSet
  repeat' (first
    | intro _ | with_reducible assumption | with_reducible apply receive_canonical | with_reducible apply runAt_canonical
    | with_reducible apply canonical_ite | with_reducible apply canonicalOut_next | simp only [canonical_mk] | split)

theorem execVariantClear_canonical (t : Stamp) (r : Req) (s : State) (h_s : Canonical s) :
    CanonicalOut (execVariantClear t r s) := by
  unfold execVariantClear
  repeat' (first
    | intro _ | with_reducible assumption | with_reducible apply receive_canonical | with_reducible apply runAt_canonical
    | with_reducible apply canonical_ite | with_reducible apply canonicalOut_next | simp only [canonical_mk] | split)

theorem execVersionTurnover_canonical (t : Stamp) (r : Req) (s : State) (h_s : Canonical s) :
    CanonicalOut (execVersionTurnover t r s) := by
  unfold execVersionTurnover
  repeat' (first
    | intro _ | with_reducible assumption | with_reducible apply receive_canonical | with_reducible apply runAt_canonical
    | with_reducible apply canonical_ite | with_reducible apply canonicalOut_next | simp only [canonical_mk] | split)

theorem execTurnoverComplete_canonical (t : Stamp) (p : Nat) (model : Nat) (s : State) (h_s : Canonical s) :
    CanonicalOut (execTurnoverComplete t p model s) := by
  unfold execTurnoverComplete
  repeat' (first
    | intro _ | with_reducible assumption | with_reducible apply runAt_canonical
    | with_reducible apply turnoverCompleteStep_canonical | with_reducible apply canonical_ite
    | with_reducible apply canonicalOut_next | simp only [canonical_mk] | split)

theorem execLearnStep_canonical (t : Stamp) (r : Req) (s : State) (h_s : Canonical s) :
    CanonicalOut (execLearnStep t r s) := by
  unfold execLearnStep
  repeat' (first
    | intro _ | with_reducible assumption | with_reducible apply receive_canonical | with_reducible apply runAt_canonical
    | with_reducible apply canonical_ite | with_reducible apply canonicalOut_next | simp only [canonical_mk] | split)

theorem execOptimizerStep_canonical (t : Stamp) (r : Req) (s : State) (h_s : Canonical s) :
    CanonicalOut (execOptimizerStep t r s) := by
  unfold execOptimizerStep
  repeat' (first
    | intro _ | with_reducible assumption | with_reducible apply receive_canonical | with_reducible apply runAt_canonical
    | with_reducible apply canonical_ite | with_reducible apply canonicalOut_next | simp only [canonical_mk] | split)

theorem execGradAllreduce_canonical (t : Stamp) (r : Req) (s : State) (h_s : Canonical s) :
    CanonicalOut (execGradAllreduce t r s) := by
  unfold execGradAllreduce
  repeat' (first
    | intro _ | with_reducible assumption | with_reducible apply receive_canonical | with_reducible apply runAt_canonical
    | with_reducible apply canonical_ite | with_reducible apply canonicalOut_next | simp only [canonical_mk] | split)

theorem execAllreduceHop_canonical (t : Stamp) (c : Nat) (s : State) (h_s : Canonical s) :
    CanonicalOut (execAllreduceHop t c s) := by
  unfold execAllreduceHop
  repeat' (first
    | intro _ | with_reducible assumption | with_reducible apply allreduceHopStep_canonical
    | with_reducible apply runAt_canonical | with_reducible apply canonical_ite | with_reducible apply canonicalOut_next
    | simp only [canonical_mk] | split)

theorem execPartQuery_canonical (t : Stamp) (r : Req) (s : State) (h_s : Canonical s) :
    CanonicalOut (execPartQuery t r s) := by
  unfold execPartQuery
  repeat' (first
    | intro _ | with_reducible assumption | with_reducible apply receive_canonical | with_reducible apply runAt_canonical
    | with_reducible apply canonical_ite | with_reducible apply canonicalOut_next | simp only [canonical_mk] | split)

theorem execContextSuspend_canonical (t : Stamp) (r : Req) (s : State) (h_s : Canonical s) :
    CanonicalOut (execContextSuspend t r s) := by
  unfold execContextSuspend
  repeat' (first
    | intro _ | with_reducible assumption | with_reducible apply receive_canonical | with_reducible apply runAt_canonical
    | with_reducible apply canonical_ite | with_reducible apply canonicalOut_next | simp only [canonical_mk] | split)

theorem execContextResume_canonical (t : Stamp) (r : Req) (s : State) (h_s : Canonical s) :
    CanonicalOut (execContextResume t r s) := by
  unfold execContextResume
  repeat' (first
    | intro _ | with_reducible assumption | with_reducible apply receive_canonical | with_reducible apply runAt_canonical
    | with_reducible apply canonical_ite | with_reducible apply canonicalOut_next | simp only [canonical_mk] | split)

theorem execSwitchQuiesceTimeout_canonical (t : Stamp) (p : Nat) (s : State) (h_s : Canonical s) :
    CanonicalOut (execSwitchQuiesceTimeout t p s) := by
  unfold execSwitchQuiesceTimeout
  repeat' (first
    | intro _ | with_reducible assumption | with_reducible apply runAt_canonical
    | with_reducible apply switchQuiesceTimeoutStep_canonical | with_reducible apply canonical_ite
    | with_reducible apply canonicalOut_next | simp only [canonical_mk] | split)

theorem execContextSwitchComplete_canonical (t : Stamp) (p : Nat) (s : State) (h_s : Canonical s) :
    CanonicalOut (execContextSwitchComplete t p s) := by
  unfold execContextSwitchComplete
  repeat' (first
    | intro _ | with_reducible assumption | with_reducible apply contextSwitchCompleteStep_canonical
    | with_reducible apply runAt_canonical | with_reducible apply canonical_ite | with_reducible apply canonicalOut_next
    | simp only [canonical_mk] | split)

theorem execPlanAdmit_canonical (t : Stamp) (r : Req) (s : State) (h_s : Canonical s) :
    CanonicalOut (execPlanAdmit t r s) := by
  unfold execPlanAdmit
  repeat' (first
    | intro _ | with_reducible assumption | with_reducible apply receive_canonical | with_reducible apply runAt_canonical
    | with_reducible apply canonical_ite | with_reducible apply canonicalOut_next | simp only [canonical_mk] | split)

theorem execMbHello_canonical (t : Stamp) (r : Req) (s : State) (h_s : Canonical s) :
    CanonicalOut (execMbHello t r s) := by
  unfold execMbHello
  repeat' (first
    | intro _ | with_reducible assumption | with_reducible apply receive_canonical | with_reducible apply runAt_canonical
    | with_reducible apply canonical_ite | with_reducible apply canonicalOut_next | simp only [canonical_mk] | split)

theorem execMbMessage_canonical (t : Stamp) (r : Req) (s : State) (h_s : Canonical s) :
    CanonicalOut (execMbMessage t r s) := by
  unfold execMbMessage
  repeat' (first
    | intro _ | with_reducible assumption | with_reducible apply receive_canonical | with_reducible apply runAt_canonical
    | with_reducible apply canonical_ite | with_reducible apply canonicalOut_next | simp only [canonical_mk] | split)

theorem execFwInfo_canonical (t : Stamp) (r : Req) (s : State) (h_s : Canonical s) :
    CanonicalOut (execFwInfo t r s) := by
  unfold execFwInfo
  repeat' (first
    | intro _ | with_reducible assumption | with_reducible apply receive_canonical | with_reducible apply runAt_canonical
    | with_reducible apply canonical_ite | with_reducible apply canonicalOut_next | simp only [canonical_mk] | split)

theorem execFwStage_canonical (t : Stamp) (r : Req) (s : State) (h_s : Canonical s) :
    CanonicalOut (execFwStage t r s) := by
  unfold execFwStage
  repeat' (first
    | intro _ | with_reducible assumption | with_reducible apply receive_canonical | with_reducible apply runAt_canonical
    | with_reducible apply canonical_ite | with_reducible apply canonicalOut_next | simp only [canonical_mk] | split)

theorem execCoreStatus_canonical (t : Stamp) (r : Req) (s : State) (h_s : Canonical s) :
    CanonicalOut (execCoreStatus t r s) := by
  unfold execCoreStatus
  repeat' (first
    | intro _ | with_reducible assumption | with_reducible apply receive_canonical | with_reducible apply runAt_canonical
    | with_reducible apply canonical_ite | with_reducible apply canonicalOut_next | simp only [canonical_mk] | split)

theorem execTraceSet_canonical (t : Stamp) (r : Req) (s : State) (h_s : Canonical s) :
    CanonicalOut (execTraceSet t r s) := by
  unfold execTraceSet
  repeat' (first
    | intro _ | with_reducible assumption | with_reducible apply receive_canonical | with_reducible apply runAt_canonical
    | with_reducible apply canonical_ite | with_reducible apply canonicalOut_next | simp only [canonical_mk] | split)

theorem execLogMark_canonical (t : Stamp) (r : Req) (s : State) (h_s : Canonical s) :
    CanonicalOut (execLogMark t r s) := by
  unfold execLogMark
  repeat' (first
    | intro _ | with_reducible assumption | with_reducible apply receive_canonical | with_reducible apply runAt_canonical
    | with_reducible apply canonical_ite | with_reducible apply canonicalOut_next | simp only [canonical_mk] | split)

theorem execActivationCancel_canonical (t : Stamp) (r : Req) (s : State) (h_s : Canonical s) :
    CanonicalOut (execActivationCancel t r s) := by
  unfold execActivationCancel
  repeat' (first
    | intro _ | with_reducible assumption | with_reducible apply receive_canonical | with_reducible apply runAt_canonical
    | with_reducible apply canonical_ite | with_reducible apply canonicalOut_next | simp only [canonical_mk] | split)

theorem execFwActivate_canonical (t : Stamp) (r : Req) (s : State) (h_s : Canonical s) :
    CanonicalOut (execFwActivate t r s) := by
  unfold execFwActivate
  repeat' (first
    | intro _ | with_reducible assumption | with_reducible apply receive_canonical | with_reducible apply runAt_canonical
    | with_reducible apply canonical_ite | with_reducible apply canonicalOut_next | simp only [canonical_mk] | split)

theorem execNormalHoldEnd_canonical (t : Stamp) (s : State) (h_s : Canonical s) :
    CanonicalOut (execNormalHoldEnd t s) := by
  unfold execNormalHoldEnd
  repeat' (first
    | intro _ | with_reducible assumption | with_reducible apply normalHoldEndStep_canonical
    | with_reducible apply runAt_canonical | with_reducible apply canonical_ite | with_reducible apply canonicalOut_next
    | simp only [canonical_mk] | split)

theorem execClusterRestart_canonical (t : Stamp) (k : Nat) (s : State) (h_s : Canonical s) :
    CanonicalOut (execClusterRestart t k s) := by
  unfold execClusterRestart
  repeat' (first
    | intro _ | with_reducible assumption | with_reducible apply clusterRestartStep_canonical
    | with_reducible apply runAt_canonical | with_reducible apply canonical_ite | with_reducible apply canonicalOut_next
    | simp only [canonical_mk] | split)

theorem execActivationReadyTimeout_canonical (t : Stamp) (k : Nat) (s : State) (h_s : Canonical s) :
    CanonicalOut (execActivationReadyTimeout t k s) := by
  unfold execActivationReadyTimeout
  repeat' (first
    | intro _ | with_reducible assumption | with_reducible apply activationReadyTimeoutStep_canonical
    | with_reducible apply runAt_canonical | with_reducible apply canonical_ite | with_reducible apply canonicalOut_next
    | simp only [canonical_mk] | split)

theorem execLkgFlashWrite_canonical (t : Stamp) (s : State) (h_s : Canonical s) :
    CanonicalOut (execLkgFlashWrite t s) := by
  unfold execLkgFlashWrite
  repeat' (first
    | intro _ | with_reducible assumption | with_reducible apply lkgFlashWriteStep_canonical
    | with_reducible apply runAt_canonical | with_reducible apply canonical_ite | with_reducible apply canonicalOut_next
    | simp only [canonical_mk] | split)

theorem execAttestReport_canonical (t : Stamp) (r : Req) (s : State) (h_s : Canonical s) :
    CanonicalOut (execAttestReport t r s) := by
  unfold execAttestReport
  repeat' (first
    | intro _ | with_reducible assumption | with_reducible apply receive_canonical | with_reducible apply runAt_canonical
    | with_reducible apply canonical_ite | with_reducible apply canonicalOut_next | simp only [canonical_mk] | split)

theorem execMeasureLogRead_canonical (t : Stamp) (r : Req) (s : State) (h_s : Canonical s) :
    CanonicalOut (execMeasureLogRead t r s) := by
  unfold execMeasureLogRead
  repeat' (first
    | intro _ | with_reducible assumption | with_reducible apply receive_canonical | with_reducible apply runAt_canonical
    | with_reducible apply canonical_ite | with_reducible apply canonicalOut_next | simp only [canonical_mk] | split)

theorem execOwnerClaim_canonical (t : Stamp) (r : Req) (s : State) (h_s : Canonical s) :
    CanonicalOut (execOwnerClaim t r s) := by
  unfold execOwnerClaim
  repeat' (first
    | intro _ | with_reducible assumption | with_reducible apply receive_canonical | with_reducible apply runAt_canonical
    | with_reducible apply canonical_ite | with_reducible apply canonicalOut_next | simp only [canonical_mk] | split)

theorem execProtectPropose_canonical (t : Stamp) (r : Req) (s : State) (h_s : Canonical s) :
    CanonicalOut (execProtectPropose t r s) := by
  unfold execProtectPropose
  repeat' (first
    | intro _ | with_reducible assumption | with_reducible apply receive_canonical | with_reducible apply runAt_canonical
    | with_reducible apply canonical_ite | with_reducible apply canonicalOut_next | simp only [canonical_mk] | split)

theorem execProtectCosign_canonical (t : Stamp) (r : Req) (s : State) (h_s : Canonical s) :
    CanonicalOut (execProtectCosign t r s) := by
  unfold execProtectCosign
  repeat' (first
    | intro _ | with_reducible assumption | with_reducible apply receive_canonical | with_reducible apply runAt_canonical
    | with_reducible apply canonical_ite | with_reducible apply canonicalOut_next | simp only [canonical_mk] | split)

theorem execProposalExpiry_canonical (t : Stamp) (s : State) (h_s : Canonical s) :
    CanonicalOut (execProposalExpiry t s) := by
  unfold execProposalExpiry
  repeat' (first
    | intro _ | with_reducible assumption | with_reducible apply proposalExpiryStep_canonical
    | with_reducible apply runAt_canonical | with_reducible apply canonical_ite | with_reducible apply canonicalOut_next
    | simp only [canonical_mk] | split)

theorem execTelemetryRead_canonical (t : Stamp) (r : Req) (s : State) (h_s : Canonical s) :
    CanonicalOut (execTelemetryRead t r s) := by
  unfold execTelemetryRead
  repeat' (first
    | intro _ | with_reducible assumption | with_reducible apply receive_canonical | with_reducible apply runAt_canonical
    | with_reducible apply canonical_ite | with_reducible apply canonicalOut_next | simp only [canonical_mk] | split)

theorem execCountersRead_canonical (t : Stamp) (r : Req) (s : State) (h_s : Canonical s) :
    CanonicalOut (execCountersRead t r s) := by
  unfold execCountersRead
  repeat' (first
    | intro _ | with_reducible assumption | with_reducible apply receive_canonical | with_reducible apply runAt_canonical
    | with_reducible apply canonical_ite | with_reducible apply canonicalOut_next | simp only [canonical_mk] | split)

theorem execTelemetrySubscribe_canonical (t : Stamp) (r : Req) (s : State) (h_s : Canonical s) :
    CanonicalOut (execTelemetrySubscribe t r s) := by
  unfold execTelemetrySubscribe
  repeat' (first
    | intro _ | with_reducible assumption | with_reducible apply receive_canonical | with_reducible apply runAt_canonical
    | with_reducible apply canonical_ite | with_reducible apply canonicalOut_next | simp only [canonical_mk] | split)

theorem execTelemetryWindowEnd_canonical (t : Stamp) (h : Nat) (s : State) (h_s : Canonical s) :
    CanonicalOut (execTelemetryWindowEnd t h s) := by
  unfold execTelemetryWindowEnd
  repeat' (first
    | intro _ | with_reducible assumption | with_reducible apply runAt_canonical
    | with_reducible apply telemetryWindowEndStep_canonical | with_reducible apply canonical_ite
    | with_reducible apply canonicalOut_next | simp only [canonical_mk] | split)

theorem execLogRead_canonical (t : Stamp) (r : Req) (s : State) (h_s : Canonical s) :
    CanonicalOut (execLogRead t r s) := by
  unfold execLogRead
  repeat' (first
    | intro _ | with_reducible assumption | with_reducible apply receive_canonical | with_reducible apply runAt_canonical
    | with_reducible apply canonical_ite | with_reducible apply canonicalOut_next | simp only [canonical_mk] | split)

theorem execPacketDiscard_canonical (t : Stamp) (qp : Nat) (bytes : List Byte) (s : State) (h_s : Canonical s) :
    CanonicalOut (execPacketDiscard t qp bytes s) := by
  unfold execPacketDiscard
  repeat' (first
    | intro _ | with_reducible assumption | with_reducible apply packetDiscardStep_canonical
    | with_reducible apply runAt_canonical | with_reducible apply canonical_ite | with_reducible apply canonicalOut_next
    | simp only [canonical_mk] | split)

theorem execReplyPacketReceive_canonical (t : Stamp) (opcode : Nat) (r : Req) (s : State) (h_s : Canonical s) :
    CanonicalOut (execReplyPacketReceive t opcode r s) := by
  unfold execReplyPacketReceive
  repeat' (first
    | intro _ | with_reducible assumption | with_reducible apply receive_canonical | with_reducible apply runAt_canonical
    | with_reducible apply canonical_ite | with_reducible apply canonicalOut_next | simp only [canonical_mk] | split)

theorem execFragmentReceive_canonical (t : Stamp) (opcode : Nat) (r : Req) (s : State) (h_s : Canonical s) :
    CanonicalOut (execFragmentReceive t opcode r s) := by
  unfold execFragmentReceive
  repeat' (first
    | intro _ | with_reducible assumption | with_reducible apply receive_canonical | with_reducible apply runAt_canonical
    | with_reducible apply canonical_ite | with_reducible apply canonicalOut_next | simp only [canonical_mk] | split)

theorem execRefFetchComplete_canonical (t : Stamp) (c : Nat) (o : FetchOutcome) (s : State) (h_s : Canonical s) :
    CanonicalOut (execRefFetchComplete t c o s) := by
  unfold execRefFetchComplete
  repeat' (first
    | intro _ | with_reducible assumption | with_reducible apply refFetchCompleteStep_canonical
    | with_reducible apply runAt_canonical | with_reducible apply canonical_ite | with_reducible apply canonicalOut_next
    | simp only [canonical_mk] | split)

theorem execFenceRelease_canonical (t : Stamp) (c : Nat) (s : State) (h_s : Canonical s) :
    CanonicalOut (execFenceRelease t c s) := by
  unfold execFenceRelease
  repeat' (first
    | intro _ | with_reducible assumption | with_reducible apply fenceReleaseStep_canonical
    | with_reducible apply runAt_canonical | with_reducible apply canonical_ite | with_reducible apply canonicalOut_next
    | simp only [canonical_mk] | split)

theorem execCommandDeadline_canonical (t : Stamp) (c : Nat) (s : State) (h_s : Canonical s) :
    CanonicalOut (execCommandDeadline t c s) := by
  unfold execCommandDeadline
  repeat' (first
    | intro _ | with_reducible assumption | with_reducible apply commandDeadlineStep_canonical
    | with_reducible apply runAt_canonical | with_reducible apply canonical_ite | with_reducible apply canonicalOut_next
    | simp only [canonical_mk] | split)

theorem execEventCoalesceTimer_canonical (t : Stamp) (st : StreamRef) (s : State) (h_s : Canonical s) :
    CanonicalOut (execEventCoalesceTimer t st s) := by
  unfold execEventCoalesceTimer
  repeat' (first
    | intro _ | with_reducible assumption | with_reducible apply eventCoalesceTimerStep_canonical
    | with_reducible apply runAt_canonical | with_reducible apply canonical_ite | with_reducible apply canonicalOut_next
    | simp only [canonical_mk] | split)

theorem execWorkQueueTake_canonical (t : Stamp) (core : Nat) (s : State) (h_s : Canonical s) :
    CanonicalOut (execWorkQueueTake t core s) := by
  unfold execWorkQueueTake
  repeat' (first
    | intro _ | with_reducible assumption | with_reducible apply runAt_canonical
    | with_reducible apply workQueueTakeStep_canonical | with_reducible apply canonical_ite
    | with_reducible apply canonicalOut_next | simp only [canonical_mk] | split)

end Sys2Proof.Machine
end

