-- ==== Sys2Proof/Laws/CanonicalUnitCommands.lean ====
section
/-! SUPPORT. Every operation of Machine/UnitCommands.lean keeps the canonical forms of memory and of the registers. -/

set_option simprocs false
set_option linter.unusedTactic false
set_option linter.unusedSimpArgs false
set_option linter.unreachableTactic false

namespace Sys2Proof.Machine

theorem execSearchTake_canonical (t : Stamp) (p : Nat) (s : State) (h_s : Canonical s) :
    CanonicalOut (execSearchTake t p s) := by
  unfold execSearchTake
  repeat' (first
    | intro _ | with_reducible assumption | with_reducible apply runAt_canonical
    | with_reducible apply searchTakeStep_canonical | with_reducible apply canonical_ite
    | with_reducible apply canonicalOut_next | simp only [canonical_mk] | split)

theorem execWalkExpansion_canonical (t : Stamp) (sid : Nat) (s : State) (h_s : Canonical s) :
    CanonicalOut (execWalkExpansion t sid s) := by
  unfold execWalkExpansion
  repeat' (first
    | intro _ | with_reducible assumption | with_reducible apply runAt_canonical
    | with_reducible apply searchDone_canonical | with_reducible apply walkExpansionStep_canonical
    | with_reducible apply canonical_ite | with_reducible apply canonicalOut_next | simp only [canonical_mk] | split)

theorem execSideScanBatch_canonical (t : Stamp) (sids : List Nat) (s : State) (h_s : Canonical s) :
    CanonicalOut (execSideScanBatch t sids s) := by
  unfold execSideScanBatch
  repeat' (first
    | intro _ | with_reducible assumption | with_reducible apply runAt_canonical
    | with_reducible apply sideScanBatchStep_canonical | with_reducible apply canonical_ite
    | with_reducible apply canonicalOut_next | simp only [canonical_mk] | split)

theorem execShardHedgeTimeout_canonical (t : Stamp) (c : Nat) (entry : Nat) (s : State) (h_s : Canonical s) :
    CanonicalOut (execShardHedgeTimeout t c entry s) := by
  unfold execShardHedgeTimeout
  repeat' (first
    | intro _ | with_reducible assumption | with_reducible apply runAt_canonical
    | with_reducible apply shardHedgeTimeoutStep_canonical | with_reducible apply canonical_ite
    | with_reducible apply canonicalOut_next | simp only [canonical_mk] | split)

theorem execShardMerge_canonical (t : Stamp) (c : Nat) (s : State) (h_s : Canonical s) :
    CanonicalOut (execShardMerge t c s) := by
  unfold execShardMerge
  repeat' (first
    | intro _ | with_reducible assumption | with_reducible apply runAt_canonical
    | with_reducible apply searchDone_canonical | with_reducible apply shardMergeStep_canonical
    | with_reducible apply canonical_ite | with_reducible apply canonicalOut_next | simp only [canonical_mk] | split)

theorem execWalkerFault_canonical (t : Stamp) (w : Nat) (s : State) (h_s : Canonical s) :
    CanonicalOut (execWalkerFault t w s) := by
  unfold execWalkerFault
  repeat' (first
    | intro _ | with_reducible assumption | with_reducible apply runAt_canonical
    | with_reducible apply searchDone_canonical | with_reducible apply walkerFaultStep_canonical
    | with_reducible apply canonical_ite | with_reducible apply canonicalOut_next | simp only [canonical_mk] | split)

theorem execDistList_canonical (t : Stamp) (g : Nat) (d : Desc) (s : State) (h_s : Canonical s) :
    CanonicalOut (execDistList t g d s) := by
  unfold execDistList
  repeat' (first
    | intro _ | with_reducible assumption | with_reducible apply distListStep_canonical
    | with_reducible apply runAt_canonical | with_reducible apply canonical_ite | with_reducible apply canonicalOut_next
    | simp only [canonical_mk] | split)

theorem execDistScan_canonical (t : Stamp) (g : Nat) (d : Desc) (s : State) (h_s : Canonical s) :
    CanonicalOut (execDistScan t g d s) := by
  unfold execDistScan
  repeat' (first
    | intro _ | with_reducible assumption | with_reducible apply distScanStep_canonical
    | with_reducible apply runAt_canonical | with_reducible apply canonical_ite | with_reducible apply canonicalOut_next
    | simp only [canonical_mk] | split)

theorem execQload_canonical (t : Stamp) (g : Nat) (d : Desc) (s : State) (h_s : Canonical s) :
    CanonicalOut (execQload t g d s) := by
  unfold execQload
  repeat' (first
    | intro _ | with_reducible assumption | with_reducible apply qloadStep_canonical
    | with_reducible apply runAt_canonical | with_reducible apply canonical_ite | with_reducible apply canonicalOut_next
    | simp only [canonical_mk] | split)

theorem execDecode_canonical (t : Stamp) (g : Nat) (d : Desc) (s : State) (h_s : Canonical s) :
    CanonicalOut (execDecode t g d s) := by
  unfold execDecode
  repeat' (first
    | intro _ | with_reducible assumption | with_reducible apply decodeStep_canonical
    | with_reducible apply runAt_canonical | with_reducible apply canonical_ite | with_reducible apply canonicalOut_next
    | simp only [canonical_mk] | split)

theorem execHist_canonical (t : Stamp) (g : Nat) (d : Desc) (s : State) (h_s : Canonical s) :
    CanonicalOut (execHist t g d s) := by
  unfold execHist
  repeat' (first
    | intro _ | with_reducible assumption | with_reducible apply histStep_canonical | with_reducible apply runAt_canonical
    | with_reducible apply canonical_ite | with_reducible apply canonicalOut_next | simp only [canonical_mk] | split)

theorem execKeyCompact_canonical (t : Stamp) (g : Nat) (d : Desc) (s : State) (h_s : Canonical s) :
    CanonicalOut (execKeyCompact t g d s) := by
  unfold execKeyCompact
  repeat' (first
    | intro _ | with_reducible assumption | with_reducible apply keyCompactStep_canonical
    | with_reducible apply runAt_canonical | with_reducible apply canonical_ite | with_reducible apply canonicalOut_next
    | simp only [canonical_mk] | split)

theorem execGather_canonical (t : Stamp) (g : Nat) (d : Desc) (s : State) (h_s : Canonical s) :
    CanonicalOut (execGather t g d s) := by
  unfold execGather
  repeat' (first
    | intro _ | with_reducible assumption | with_reducible apply gatherStep_canonical
    | with_reducible apply runAt_canonical | with_reducible apply canonical_ite | with_reducible apply canonicalOut_next
    | simp only [canonical_mk] | split)

theorem execScatterAdd_canonical (t : Stamp) (g : Nat) (d : Desc) (s : State) (h_s : Canonical s) :
    CanonicalOut (execScatterAdd t g d s) := by
  unfold execScatterAdd
  repeat' (first
    | intro _ | with_reducible assumption | with_reducible apply runAt_canonical
    | with_reducible apply scatterAddStep_canonical | with_reducible apply canonical_ite
    | with_reducible apply canonicalOut_next | simp only [canonical_mk] | split)

theorem execRowSgd_canonical (t : Stamp) (g : Nat) (d : Desc) (s : State) (h_s : Canonical s) :
    CanonicalOut (execRowSgd t g d s) := by
  unfold execRowSgd
  repeat' (first
    | intro _ | with_reducible assumption | with_reducible apply rowSgdStep_canonical
    | with_reducible apply runAt_canonical | with_reducible apply canonical_ite | with_reducible apply canonicalOut_next
    | simp only [canonical_mk] | split)

theorem execRowAdagrad_canonical (t : Stamp) (g : Nat) (d : Desc) (s : State) (h_s : Canonical s) :
    CanonicalOut (execRowAdagrad t g d s) := by
  unfold execRowAdagrad
  repeat' (first
    | intro _ | with_reducible assumption | with_reducible apply rowAdagradStep_canonical
    | with_reducible apply runAt_canonical | with_reducible apply canonical_ite | with_reducible apply canonicalOut_next
    | simp only [canonical_mk] | split)

theorem execRowAdam_canonical (t : Stamp) (g : Nat) (d : Desc) (s : State) (h_s : Canonical s) :
    CanonicalOut (execRowAdam t g d s) := by
  unfold execRowAdam
  repeat' (first
    | intro _ | with_reducible assumption | with_reducible apply rowAdamStep_canonical
    | with_reducible apply runAt_canonical | with_reducible apply canonical_ite | with_reducible apply canonicalOut_next
    | simp only [canonical_mk] | split)

theorem execPset_canonical (t : Stamp) (g : Nat) (d : Desc) (s : State) (h_s : Canonical s) :
    CanonicalOut (execPset t g d s) := by
  unfold execPset
  repeat' (first
    | intro _ | with_reducible assumption | with_reducible apply psetStep_canonical | with_reducible apply runAt_canonical
    | with_reducible apply canonical_ite | with_reducible apply canonicalOut_next | simp only [canonical_mk] | split)

theorem execScrub_canonical (t : Stamp) (g : Nat) (d : Desc) (s : State) (h_s : Canonical s) :
    CanonicalOut (execScrub t g d s) := by
  unfold execScrub
  repeat' (first
    | intro _ | with_reducible assumption | with_reducible apply runAt_canonical
    | with_reducible apply scrubStep_canonical | with_reducible apply canonical_ite
    | with_reducible apply canonicalOut_next | simp only [canonical_mk] | split)

theorem execBackgroundScrub_canonical (t : Stamp) (g : Nat) (offset : Nat) (s : State) (h_s : Canonical s) :
    CanonicalOut (execBackgroundScrub t g offset s) := by
  unfold execBackgroundScrub
  repeat' (first
    | intro _ | with_reducible assumption | with_reducible apply backgroundScrubStep_canonical
    | with_reducible apply runAt_canonical | with_reducible apply canonical_ite | with_reducible apply canonicalOut_next
    | simp only [canonical_mk] | split)

theorem execSpnCopy_canonical (t : Stamp) (g : Nat) (d : Desc) (s : State) (h_s : Canonical s) :
    CanonicalOut (execSpnCopy t g d s) := by
  unfold execSpnCopy
  repeat' (first
    | intro _ | with_reducible assumption | with_reducible apply runAt_canonical
    | with_reducible apply spnCopyStep_canonical | with_reducible apply canonical_ite
    | with_reducible apply canonicalOut_next | simp only [canonical_mk] | split)

theorem execCodebookLoad_canonical (t : Stamp) (v : Reg) (s : State) (h_s : Canonical s) :
    CanonicalOut (execCodebookLoad t v s) := by
  unfold execCodebookLoad
  repeat' (first
    | intro _ | with_reducible assumption | with_reducible apply codebookLoadStep_canonical
    | with_reducible apply runAt_canonical | with_reducible apply canonical_ite | with_reducible apply canonicalOut_next
    | simp only [canonical_mk] | split)

theorem execSpindleAbort_canonical (t : Stamp) (v : Reg) (s : State) (h_s : Canonical s) :
    CanonicalOut (execSpindleAbort t v s) := by
  unfold execSpindleAbort
  repeat' (first
    | intro _ | with_reducible assumption | with_reducible apply runAt_canonical
    | with_reducible apply spindleAbortStep_canonical | with_reducible apply canonical_ite
    | with_reducible apply canonicalOut_next | simp only [canonical_mk] | split)

theorem execSpnErrLogRead_canonical (t : Stamp) (s : State) (h_s : Canonical s) :
    CanonicalOut (execSpnErrLogRead t s) := by
  unfold execSpnErrLogRead
  repeat' (first
    | intro _ | with_reducible assumption | with_reducible apply runAt_canonical
    | with_reducible apply spnErrLogReadStep_canonical | with_reducible apply canonical_ite
    | with_reducible apply canonicalOut_next | simp only [canonical_mk] | split)

theorem execGroupFetchIssue_canonical (t : Stamp) (p : Nat) (dst : List SlotRef) (s : State) (h_s : Canonical s) :
    CanonicalOut (execGroupFetchIssue t p dst s) := by
  unfold execGroupFetchIssue
  repeat' (first
    | intro _ | with_reducible assumption | with_reducible apply groupFetchIssueStep_canonical
    | with_reducible apply runAt_canonical | with_reducible apply canonical_ite | with_reducible apply canonicalOut_next
    | simp only [canonical_mk] | split)

theorem execRunnerCheck_canonical (t : Stamp) (p : Nat) (s : State) (h_s : Canonical s) :
    CanonicalOut (execRunnerCheck t p s) := by
  unfold execRunnerCheck
  repeat' (first
    | intro _ | with_reducible assumption | with_reducible apply runAt_canonical
    | with_reducible apply runnerCheckStep_canonical | with_reducible apply canonical_ite
    | with_reducible apply canonicalOut_next | simp only [canonical_mk] | split)

theorem execTileFillComplete_canonical (t : Stamp) (p : Nat) (grp : Nat) (tile : Nat) (dst : SlotRef) (s : State) (h_s : Canonical s) :
    CanonicalOut (execTileFillComplete t p grp tile dst s) := by
  unfold execTileFillComplete
  repeat' (first
    | intro _ | with_reducible assumption | with_reducible apply runAt_canonical
    | with_reducible apply tileFillCompleteStep_canonical | with_reducible apply canonical_ite
    | with_reducible apply canonicalOut_next | simp only [canonical_mk] | split)

theorem execTierPolicyEvict_canonical (t : Stamp) (p : Nat) (s : State) (h_s : Canonical s) :
    CanonicalOut (execTierPolicyEvict t p s) := by
  unfold execTierPolicyEvict
  repeat' (first
    | intro _ | with_reducible assumption | with_reducible apply markKvLost_canonical
    | with_reducible apply runAt_canonical | with_reducible apply tierPolicyEvictStep_canonical
    | with_reducible apply canonical_ite | with_reducible apply canonicalOut_next | simp only [canonical_mk] | split)

theorem execEvictRetry_canonical (t : Stamp) (p : Nat) (obj : Nat) (s : State) (h_s : Canonical s) :
    CanonicalOut (execEvictRetry t p obj s) := by
  unfold execEvictRetry
  repeat' (first
    | intro _ | with_reducible assumption | with_reducible apply markKvLost_canonical
    | with_reducible apply evictRetryStep_canonical | with_reducible apply runAt_canonical
    | with_reducible apply canonical_ite | with_reducible apply canonicalOut_next | simp only [canonical_mk] | split)

theorem execKernelStart_canonical (t : Stamp) (p : Nat) (n : Nat) (s : State) (h_s : Canonical s) :
    CanonicalOut (execKernelStart t p n s) := by
  unfold execKernelStart
  repeat' (first
    | intro _ | with_reducible assumption | with_reducible apply kernelStartStep_canonical
    | with_reducible apply runAt_canonical | with_reducible apply canonical_ite | with_reducible apply canonicalOut_next
    | simp only [canonical_mk] | split)

theorem execNop_canonical (t : Stamp) (n : Nat) (w : BitVec 128) (s : State) (h_s : Canonical s) :
    CanonicalOut (execNop t n w s) := by
  unfold execNop
  repeat' (first
    | intro _ | with_reducible assumption | with_reducible apply nopStep_canonical | with_reducible apply runAt_canonical
    | with_reducible apply canonical_ite | with_reducible apply canonicalOut_next | simp only [canonical_mk] | split)

theorem execEndKernel_canonical (t : Stamp) (n : Nat) (w : BitVec 128) (s : State) (h_s : Canonical s) :
    CanonicalOut (execEndKernel t n w s) := by
  unfold execEndKernel
  repeat' (first
    | intro _ | with_reducible assumption | with_reducible apply endStep_canonical | with_reducible apply runAt_canonical
    | with_reducible apply canonical_ite | with_reducible apply canonicalOut_next | simp only [canonical_mk] | split)

theorem execFenceInstr_canonical (t : Stamp) (n : Nat) (w : BitVec 128) (s : State) (h_s : Canonical s) :
    CanonicalOut (execFenceInstr t n w s) := by
  unfold execFenceInstr
  repeat' (first
    | intro _ | with_reducible assumption | with_reducible apply fenceStep_canonical
    | with_reducible apply runAt_canonical | with_reducible apply canonical_ite | with_reducible apply canonicalOut_next
    | simp only [canonical_mk] | split)

theorem execRelease_canonical (t : Stamp) (n : Nat) (w : BitVec 128) (s : State) (h_s : Canonical s) :
    CanonicalOut (execRelease t n w s) := by
  unfold execRelease
  repeat' (first
    | intro _ | with_reducible assumption | with_reducible apply releaseStep_canonical
    | with_reducible apply runAt_canonical | with_reducible apply canonical_ite | with_reducible apply canonicalOut_next
    | simp only [canonical_mk] | split)

theorem execLayer_canonical (t : Stamp) (n : Nat) (w : BitVec 128) (s : State) (h_s : Canonical s) :
    CanonicalOut (execLayer t n w s) := by
  unfold execLayer
  repeat' (first
    | intro _ | with_reducible assumption | with_reducible apply layerStep_canonical
    | with_reducible apply runAt_canonical | with_reducible apply canonical_ite | with_reducible apply canonicalOut_next
    | simp only [canonical_mk] | split)

theorem execDrain_canonical (t : Stamp) (n : Nat) (w : BitVec 128) (s : State) (h_s : Canonical s) :
    CanonicalOut (execDrain t n w s) := by
  unfold execDrain
  repeat' (first
    | intro _ | with_reducible assumption | with_reducible apply drainStep_canonical
    | with_reducible apply runAt_canonical | with_reducible apply canonical_ite | with_reducible apply canonicalOut_next
    | simp only [canonical_mk] | split)

theorem execDrainComplete_canonical (t : Stamp) (n : Nat) (slot : Nat) (s : State) (h_s : Canonical s) :
    CanonicalOut (execDrainComplete t n slot s) := by
  unfold execDrainComplete
  repeat' (first
    | intro _ | with_reducible assumption | with_reducible apply drainCompleteStep_canonical
    | with_reducible apply runAt_canonical | with_reducible apply canonical_ite | with_reducible apply canonicalOut_next
    | simp only [canonical_mk] | split)

theorem execSendSel_canonical (t : Stamp) (n : Nat) (w : BitVec 128) (s : State) (h_s : Canonical s) :
    CanonicalOut (execSendSel t n w s) := by
  unfold execSendSel
  repeat' (first
    | intro _ | with_reducible assumption | with_reducible apply runAt_canonical
    | with_reducible apply sendSelStep_canonical | with_reducible apply canonical_ite
    | with_reducible apply canonicalOut_next | simp only [canonical_mk] | split)

theorem execMatmul_canonical (t : Stamp) (n : Nat) (w : BitVec 128) (s : State) (h_s : Canonical s) :
    CanonicalOut (execMatmul t n w s) := by
  unfold execMatmul
  repeat' (first
    | intro _ | with_reducible assumption | with_reducible apply matmulStep_canonical
    | with_reducible apply runAt_canonical | with_reducible apply canonical_ite | with_reducible apply canonicalOut_next
    | simp only [canonical_mk] | split)

theorem execVector_canonical (t : Stamp) (n : Nat) (w : BitVec 128) (s : State) (h_s : Canonical s) :
    CanonicalOut (execVector t n w s) := by
  unfold execVector
  repeat' (first
    | intro _ | with_reducible assumption | with_reducible apply runAt_canonical
    | with_reducible apply vectorStep_canonical | with_reducible apply canonical_ite
    | with_reducible apply canonicalOut_next | simp only [canonical_mk] | split)

theorem execSlotWriteComplete_canonical (t : Stamp) (n : Nat) (buf : LatheBuf) (slot : Nat) (s : State) (h_s : Canonical s) :
    CanonicalOut (execSlotWriteComplete t n buf slot s) := by
  unfold execSlotWriteComplete
  repeat' (first
    | intro _ | with_reducible assumption | with_reducible apply runAt_canonical
    | with_reducible apply slotWriteCompleteStep_canonical | with_reducible apply canonical_ite
    | with_reducible apply canonicalOut_next | simp only [canonical_mk] | split)

theorem execLatheStall_canonical (t : Stamp) (n : Nat) (s : State) (h_s : Canonical s) :
    CanonicalOut (execLatheStall t n s) := by
  unfold execLatheStall
  repeat' (first
    | intro _ | with_reducible assumption | with_reducible apply latheStallStep_canonical
    | with_reducible apply runAt_canonical | with_reducible apply canonical_ite | with_reducible apply canonicalOut_next
    | simp only [canonical_mk] | split)

theorem execLatheIdleGate_canonical (t : Stamp) (n : Nat) (s : State) (h_s : Canonical s) :
    CanonicalOut (execLatheIdleGate t n s) := by
  unfold execLatheIdleGate
  repeat' (first
    | intro _ | with_reducible assumption | with_reducible apply latheIdleGateStep_canonical
    | with_reducible apply runAt_canonical | with_reducible apply canonical_ite | with_reducible apply canonicalOut_next
    | simp only [canonical_mk] | split)

theorem execWakeGrant_canonical (t : Stamp) (s : State) (h_s : Canonical s) :
    CanonicalOut (execWakeGrant t s) := by
  unfold execWakeGrant
  repeat' (first
    | intro _ | with_reducible assumption | with_reducible apply runAt_canonical
    | with_reducible apply wakeGrantStep_canonical | with_reducible apply canonical_ite
    | with_reducible apply canonicalOut_next | simp only [canonical_mk] | split)

theorem execLatheBufferError_canonical (t : Stamp) (n : Nat) (e : LatheError) (buf : LatheBuf) (slot : Nat) (word : Nat) (s : State) (h_s : Canonical s) :
    CanonicalOut (execLatheBufferError t n e buf slot word s) := by
  unfold execLatheBufferError
  repeat' (first
    | intro _ | with_reducible assumption | with_reducible apply tearContext_canonical
    | with_reducible apply latheBufferErrorStep_canonical | with_reducible apply runAt_canonical
    | with_reducible apply canonical_ite | with_reducible apply canonicalOut_next | simp only [canonical_mk] | split)

theorem execLthErrLogRead_canonical (t : Stamp) (s : State) (h_s : Canonical s) :
    CanonicalOut (execLthErrLogRead t s) := by
  unfold execLthErrLogRead
  repeat' (first
    | intro _ | with_reducible assumption | with_reducible apply lthErrLogReadStep_canonical
    | with_reducible apply runAt_canonical | with_reducible apply canonical_ite | with_reducible apply canonicalOut_next
    | simp only [canonical_mk] | split)

theorem execStepBoundary_canonical (t : Stamp) (p : Nat) (s : State) (h_s : Canonical s) :
    CanonicalOut (execStepBoundary t p s) := by
  unfold execStepBoundary
  repeat' (first
    | intro _ | with_reducible assumption | with_reducible apply runAt_canonical
    | with_reducible apply stepBoundaryStep_canonical | with_reducible apply canonical_ite
    | with_reducible apply canonicalOut_next | simp only [canonical_mk] | split)

theorem execSeqTableError_canonical (t : Stamp) (entry : Nat) (e : EccError) (s : State) (h_s : Canonical s) :
    CanonicalOut (execSeqTableError t entry e s) := by
  unfold execSeqTableError
  repeat' (first
    | intro _ | with_reducible assumption | with_reducible apply runAt_canonical
    | with_reducible apply seqTableErrorStep_canonical | with_reducible apply canonical_ite
    | with_reducible apply canonicalOut_next | simp only [canonical_mk] | split)

theorem execSelectionUnitFault_canonical (t : Stamp) (u : Nat) (s : State) (h_s : Canonical s) :
    CanonicalOut (execSelectionUnitFault t u s) := by
  unfold execSelectionUnitFault
  repeat' (first
    | intro _ | with_reducible assumption | with_reducible apply runAt_canonical
    | with_reducible apply selectionUnitFaultStep_canonical | with_reducible apply canonical_ite
    | with_reducible apply canonicalOut_next | simp only [canonical_mk] | split)

theorem execTokenizerEngineFault_canonical (t : Stamp) (e : Nat) (s : State) (h_s : Canonical s) :
    CanonicalOut (execTokenizerEngineFault t e s) := by
  unfold execTokenizerEngineFault
  repeat' (first
    | intro _ | with_reducible assumption | with_reducible apply runAt_canonical | with_reducible apply runTok_canonical
    | with_reducible refine runTok_canonical_eq (by with_reducible assumption) ?_ | with_reducible apply tokFail_canonical
    | with_reducible apply tokenizerEngineFaultStep_canonical | with_reducible apply canonical_ite
    | with_reducible apply canonicalOut_next | simp only [canonical_mk] | split)

end Sys2Proof.Machine
end

