-- ==== Sys2Proof/Laws/CanonicalSystemCommands.lean ====
section
/-! SUPPORT. Every operation of Machine/SystemCommands.lean keeps the canonical forms of memory and of the registers. -/

set_option simprocs false
set_option linter.unusedTactic false
set_option linter.unusedSimpArgs false
set_option linter.unreachableTactic false

namespace Sys2Proof.Machine

theorem skipTime_canonical (s : State) (h_s : Canonical s) :
    Canonical (State.skipTime s) := by
  unfold State.skipTime
  repeat' (first
    | intro _ | with_reducible assumption | with_reducible apply deadlinesDue_canonical
    | with_reducible apply endTelemWindows_canonical | with_reducible apply endWindows_canonical
    | with_reducible apply refreshMeters_canonical | with_reducible apply gateConfigInstallStep_canonical
    | with_reducible apply gateEntryBoundaryStep_canonical | with_reducible apply interruptGroupTimerStep_canonical
    | with_reducible apply canonical_ite | with_reducible refine canonical_foldl ?_ ?_
    | with_reducible refine canonical_foldl_snd ?_ ?_ | with_reducible refine canonical_foldl_fst ?_ ?_
    | simp only [canonical_mk] | with_reducible refine canonicalOpt_eq (by with_reducible assumption) ?_
    | with_reducible refine canonicalOptFst_eq (by with_reducible assumption) ?_
    | with_reducible refine canonicalOptFst_eq_1 (by with_reducible assumption) ?_ | split
    | with_reducible apply canonicalOpt_none | with_reducible apply canonicalOpt_some
    | with_reducible apply canonicalOpt_map | with_reducible apply canonicalOpt_ite
    | with_reducible apply canonicalOpt_bind | with_reducible apply canonicalOpt_foldl
    | with_reducible apply canonicalOpt_bind_fst | with_reducible apply canonicalOpt_bind_any
    | with_reducible apply canonicalOptFst_none | with_reducible apply canonicalOptFst_some
    | with_reducible apply canonicalOptFst_map | with_reducible apply canonicalOptFst_ite
    | with_reducible apply canonicalOptFst_bind | with_reducible apply canonicalOptFst_foldl
    | with_reducible apply canonicalOptFst_bind_opt | with_reducible apply canonicalOptFst_bind_any
    | with_reducible apply canonicalOptSnd_none | with_reducible apply canonicalOptSnd_some
    | with_reducible apply canonicalOptSnd_ite)

theorem execApplyRegs_canonical (t : Stamp) (src : Plane) (p : Nat) (s : State) (h_s : Canonical s) :
    CanonicalOut (execApplyRegs t src p s) := by
  unfold execApplyRegs
  repeat' (first
    | intro _ | with_reducible assumption | with_reducible apply applyRegsStep_canonical
    | with_reducible apply runAt_canonical | with_reducible apply canonical_ite | with_reducible apply canonicalOut_next
    | simp only [canonical_mk] | split)

theorem execPartitionTeardown_canonical (t : Stamp) (src : Plane) (p : Nat) (s : State) (h_s : Canonical s) :
    CanonicalOut (execPartitionTeardown t src p s) := by
  unfold execPartitionTeardown
  repeat' (first
    | intro _ | with_reducible assumption | with_reducible apply partitionTeardownStep_canonical
    | with_reducible apply runAt_canonical | with_reducible apply canonical_ite | with_reducible apply canonicalOut_next
    | simp only [canonical_mk] | split)

theorem execRequestConfiguring_canonical (t : Stamp) (src : Plane) (p : Nat) (s : State) (h_s : Canonical s) :
    CanonicalOut (execRequestConfiguring t src p s) := by
  unfold execRequestConfiguring
  repeat' (first
    | intro _ | with_reducible assumption | with_reducible apply requestConfiguringStep_canonical
    | with_reducible apply runAt_canonical | with_reducible apply canonical_ite | with_reducible apply canonicalOut_next
    | simp only [canonical_mk] | split)

theorem execRequestUp_canonical (t : Stamp) (src : Plane) (p : Nat) (s : State) (h_s : Canonical s) :
    CanonicalOut (execRequestUp t src p s) := by
  unfold execRequestUp
  repeat' (first
    | intro _ | with_reducible assumption | with_reducible apply requestUpStep_canonical
    | with_reducible apply runAt_canonical | with_reducible apply canonical_ite | with_reducible apply canonicalOut_next
    | simp only [canonical_mk] | split)

theorem execRequestDown_canonical (t : Stamp) (src : Plane) (p : Nat) (s : State) (h_s : Canonical s) :
    CanonicalOut (execRequestDown t src p s) := by
  unfold execRequestDown
  repeat' (first
    | intro _ | with_reducible assumption | with_reducible apply requestDownStep_canonical
    | with_reducible apply runAt_canonical | with_reducible apply canonical_ite | with_reducible apply canonicalOut_next
    | simp only [canonical_mk] | split)

theorem execContextTeardown_canonical (t : Stamp) (src : Plane) (p : Nat) (c : Nat) (s : State) (h_s : Canonical s) :
    CanonicalOut (execContextTeardown t src p c s) := by
  unfold execContextTeardown
  repeat' (first
    | intro _ | with_reducible assumption | with_reducible apply contextTeardownStep_canonical
    | with_reducible apply runAt_canonical | with_reducible apply canonical_ite | with_reducible apply canonicalOut_next
    | simp only [canonical_mk] | split)

theorem execWatchdogExpiry_canonical (t : Stamp) (core : Nat) (s : State) (h_s : Canonical s) :
    CanonicalOut (execWatchdogExpiry t core s) := by
  unfold execWatchdogExpiry
  repeat' (first
    | intro _ | with_reducible assumption | with_reducible apply runAt_canonical
    | with_reducible apply watchdogExpiryStep_canonical | with_reducible apply canonical_ite
    | with_reducible apply canonicalOut_next | simp only [canonical_mk] | split)

theorem execCoreException_canonical (t : Stamp) (core : Nat) (cause : CrashCause) (s : State) (h_s : Canonical s) :
    CanonicalOut (execCoreException t core cause s) := by
  unfold execCoreException
  repeat' (first
    | intro _ | with_reducible assumption | with_reducible apply coreExceptionStep_canonical
    | with_reducible apply runAt_canonical | with_reducible apply canonical_ite | with_reducible apply canonicalOut_next
    | simp only [canonical_mk] | split)

theorem execCoreRestart_canonical (t : Stamp) (core : Nat) (s : State) (h_s : Canonical s) :
    CanonicalOut (execCoreRestart t core s) := by
  unfold execCoreRestart
  repeat' (first
    | intro _ | with_reducible assumption | with_reducible apply coreRestartStep_canonical
    | with_reducible apply runAt_canonical | with_reducible apply canonical_ite | with_reducible apply canonicalOut_next
    | simp only [canonical_mk] | split)

theorem execWatchdogKick_canonical (t : Stamp) (core : Nat) (s : State) (h_s : Canonical s) :
    CanonicalOut (execWatchdogKick t core s) := by
  unfold execWatchdogKick
  repeat' (first
    | intro _ | with_reducible assumption | with_reducible apply runAt_canonical
    | with_reducible apply watchdogKickStep_canonical | with_reducible apply canonical_ite
    | with_reducible apply canonicalOut_next | simp only [canonical_mk] | split)

theorem execFwUpdateStage_canonical (t : Stamp) (v : Reg) (s : State) (h_s : Canonical s) :
    CanonicalOut (execFwUpdateStage t v s) := by
  unfold execFwUpdateStage
  repeat' (first
    | intro _ | with_reducible assumption | with_reducible apply fwUpdateStageStep_canonical
    | with_reducible apply runAt_canonical | with_reducible apply canonical_ite | with_reducible apply canonicalOut_next
    | simp only [canonical_mk] | split)

theorem execInterruptEvent_canonical (t : Stamp) (n : Nat) (s : State) (h_s : Canonical s) :
    CanonicalOut (execInterruptEvent t n s) := by
  unfold execInterruptEvent
  repeat' (first
    | intro _ | with_reducible assumption | with_reducible apply interruptEventStep_canonical
    | with_reducible apply runAt_canonical | with_reducible apply canonical_ite | with_reducible apply canonicalOut_next
    | simp only [canonical_mk] | split)

theorem execInterruptGroupTimer_canonical (t : Stamp) (g : Nat) (s : State) (h_s : Canonical s) :
    CanonicalOut (execInterruptGroupTimer t g s) := by
  unfold execInterruptGroupTimer
  repeat' (first
    | intro _ | with_reducible assumption | with_reducible apply interruptGroupTimerStep_canonical
    | with_reducible apply runAt_canonical | with_reducible apply canonical_ite | with_reducible apply canonicalOut_next
    | simp only [canonical_mk] | split)

theorem execInterruptClaim_canonical (t : Stamp) (core : Nat) (s : State) (h_s : Canonical s) :
    CanonicalOut (execInterruptClaim t core s) := by
  unfold execInterruptClaim
  repeat' (first
    | intro _ | with_reducible assumption | with_reducible apply interruptClaimStep_canonical
    | with_reducible apply runAt_canonical | with_reducible apply canonical_ite | with_reducible apply canonicalOut_next
    | simp only [canonical_mk] | split)

theorem execInterruptComplete_canonical (t : Stamp) (core : Nat) (n : Nat) (s : State) (h_s : Canonical s) :
    CanonicalOut (execInterruptComplete t core n s) := by
  unfold execInterruptComplete
  repeat' (first
    | intro _ | with_reducible assumption | with_reducible apply interruptCompleteStep_canonical
    | with_reducible apply runAt_canonical | with_reducible apply canonical_ite | with_reducible apply canonicalOut_next
    | simp only [canonical_mk] | split)

theorem execInterruptPendSet_canonical (t : Stamp) (i : Nat) (v : Reg) (s : State) (h_s : Canonical s) :
    CanonicalOut (execInterruptPendSet t i v s) := by
  unfold execInterruptPendSet
  repeat' (first
    | intro _ | with_reducible assumption | with_reducible apply interruptPendSetStep_canonical
    | with_reducible apply runAt_canonical | with_reducible apply canonical_ite | with_reducible apply canonicalOut_next
    | simp only [canonical_mk] | split)

theorem execInterruptPendClr_canonical (t : Stamp) (i : Nat) (v : Reg) (s : State) (h_s : Canonical s) :
    CanonicalOut (execInterruptPendClr t i v s) := by
  unfold execInterruptPendClr
  repeat' (first
    | intro _ | with_reducible assumption | with_reducible apply interruptPendClrStep_canonical
    | with_reducible apply runAt_canonical | with_reducible apply canonical_ite | with_reducible apply canonicalOut_next
    | simp only [canonical_mk] | split)

theorem execRocePacketReceive_canonical (t : Stamp) (k : RocePacket) (s : State) (h_s : Canonical s) :
    CanonicalOut (execRocePacketReceive t k s) := by
  unfold execRocePacketReceive
  repeat' (first
    | intro _ | with_reducible assumption | with_reducible apply rocePacketReceiveStep_canonical
    | with_reducible apply runAt_canonical | with_reducible apply canonical_ite | with_reducible apply canonicalOut_next
    | simp only [canonical_mk] | split)

theorem execRdmaWriteReceive_canonical (t : Stamp) (qp : Nat) (rkey : Nat) (addr : Nat) (data : List Byte) (s : State) (h_s : Canonical s) :
    CanonicalOut (execRdmaWriteReceive t qp rkey addr data s) := by
  unfold execRdmaWriteReceive
  repeat' (first
    | intro _ | with_reducible assumption | with_reducible apply rdmaWriteReceiveStep_canonical
    | with_reducible apply runAt_canonical | with_reducible apply canonical_ite | with_reducible apply canonicalOut_next
    | simp only [canonical_mk] | split)

theorem execRdmaReadReceive_canonical (t : Stamp) (qp : Nat) (rkey : Nat) (addr : Nat) (len : Nat) (s : State) (h_s : Canonical s) :
    CanonicalOut (execRdmaReadReceive t qp rkey addr len s) := by
  unfold execRdmaReadReceive
  repeat' (first
    | intro _ | with_reducible assumption | with_reducible apply rdmaReadReceiveStep_canonical
    | with_reducible apply runAt_canonical | with_reducible apply canonical_ite | with_reducible apply canonicalOut_next
    | simp only [canonical_mk] | split)

theorem execRnrNakReceive_canonical (t : Stamp) (qp : Nat) (timer : Nat) (s : State) (h_s : Canonical s) :
    CanonicalOut (execRnrNakReceive t qp timer s) := by
  unfold execRnrNakReceive
  repeat' (first
    | intro _ | with_reducible assumption | with_reducible apply rnrNakReceiveStep_canonical
    | with_reducible apply runAt_canonical | with_reducible apply canonical_ite | with_reducible apply canonicalOut_next
    | simp only [canonical_mk] | split)

theorem execRoceNakReceive_canonical (t : Stamp) (qp : Nat) (k : NakKind) (s : State) (h_s : Canonical s) :
    CanonicalOut (execRoceNakReceive t qp k s) := by
  unfold execRoceNakReceive
  repeat' (first
    | intro _ | with_reducible assumption | with_reducible apply roceNakReceiveStep_canonical
    | with_reducible apply runAt_canonical | with_reducible apply canonical_ite | with_reducible apply canonicalOut_next
    | simp only [canonical_mk] | split)

theorem execLocalAckTimeout_canonical (t : Stamp) (qp : Nat) (s : State) (h_s : Canonical s) :
    CanonicalOut (execLocalAckTimeout t qp s) := by
  unfold execLocalAckTimeout
  repeat' (first
    | intro _ | with_reducible assumption | with_reducible apply localAckTimeoutStep_canonical
    | with_reducible apply runAt_canonical | with_reducible apply canonical_ite | with_reducible apply canonicalOut_next
    | simp only [canonical_mk] | split)

theorem execCnpReceive_canonical (t : Stamp) (qp : Nat) (s : State) (h_s : Canonical s) :
    CanonicalOut (execCnpReceive t qp s) := by
  unfold execCnpReceive
  repeat' (first
    | intro _ | with_reducible assumption | with_reducible apply cnpReceiveStep_canonical
    | with_reducible apply runAt_canonical | with_reducible apply canonical_ite | with_reducible apply canonicalOut_next
    | simp only [canonical_mk] | split)

theorem execRateIncreaseWindow_canonical (t : Stamp) (qp : Nat) (s : State) (h_s : Canonical s) :
    CanonicalOut (execRateIncreaseWindow t qp s) := by
  unfold execRateIncreaseWindow
  repeat' (first
    | intro _ | with_reducible assumption | with_reducible apply rateIncreaseWindowStep_canonical
    | with_reducible apply runAt_canonical | with_reducible apply canonical_ite | with_reducible apply canonicalOut_next
    | simp only [canonical_mk] | split)

theorem execFrameTransmit_canonical (t : Stamp) (l : Nat) (cls : Nat) (s : State) (h_s : Canonical s) :
    CanonicalOut (execFrameTransmit t l cls s) := by
  unfold execFrameTransmit
  repeat' (first
    | intro _ | with_reducible assumption | with_reducible apply frameTransmitStep_canonical
    | with_reducible apply runAt_canonical | with_reducible apply canonical_ite | with_reducible apply canonicalOut_next
    | simp only [canonical_mk] | split)

theorem execGateEntryBoundary_canonical (t : Stamp) (l : Nat) (s : State) (h_s : Canonical s) :
    CanonicalOut (execGateEntryBoundary t l s) := by
  unfold execGateEntryBoundary
  repeat' (first
    | intro _ | with_reducible assumption | with_reducible apply gateEntryBoundaryStep_canonical
    | with_reducible apply runAt_canonical | with_reducible apply canonical_ite | with_reducible apply canonicalOut_next
    | simp only [canonical_mk] | split)

theorem execGateConfigChange_canonical (t : Stamp) (l : Nat) (s : State) (h_s : Canonical s) :
    CanonicalOut (execGateConfigChange t l s) := by
  unfold execGateConfigChange
  repeat' (first
    | intro _ | with_reducible assumption | with_reducible apply gateConfigChangeStep_canonical
    | with_reducible apply runAt_canonical | with_reducible apply canonical_ite | with_reducible apply canonicalOut_next
    | simp only [canonical_mk] | split)

theorem execGateConfigInstall_canonical (t : Stamp) (l : Nat) (s : State) (h_s : Canonical s) :
    CanonicalOut (execGateConfigInstall t l s) := by
  unfold execGateConfigInstall
  repeat' (first
    | intro _ | with_reducible assumption | with_reducible apply gateConfigInstallStep_canonical
    | with_reducible apply runAt_canonical | with_reducible apply canonical_ite | with_reducible apply canonicalOut_next
    | simp only [canonical_mk] | split)

theorem execMeterRefresh_canonical (t : Stamp) (s : State) (h_s : Canonical s) :
    CanonicalOut (execMeterRefresh t s) := by
  unfold execMeterRefresh
  repeat' (first
    | intro _ | with_reducible assumption | with_reducible apply meterRefreshStep_canonical
    | with_reducible apply runAt_canonical | with_reducible apply canonical_ite | with_reducible apply canonicalOut_next
    | simp only [canonical_mk] | split)

theorem execQueueTelemetrySample_canonical (t : Stamp) (s : State) (h_s : Canonical s) :
    CanonicalOut (execQueueTelemetrySample t s) := by
  unfold execQueueTelemetrySample
  repeat' (first
    | intro _ | with_reducible assumption | with_reducible apply queueTelemetrySampleStep_canonical
    | with_reducible apply runAt_canonical | with_reducible apply canonical_ite | with_reducible apply canonicalOut_next
    | simp only [canonical_mk] | split)

theorem execArpRequest_canonical (t : Stamp) (l : Nat) (q : NetQuery) (s : State) (h_s : Canonical s) :
    CanonicalOut (execArpRequest t l q s) := by
  unfold execArpRequest
  repeat' (first
    | intro _ | with_reducible assumption | with_reducible apply arpRequestStep_canonical
    | with_reducible apply runAt_canonical | with_reducible apply canonical_ite | with_reducible apply canonicalOut_next
    | simp only [canonical_mk] | split)

theorem execNeighbourSolicitation_canonical (t : Stamp) (l : Nat) (q : NetQuery) (s : State) (h_s : Canonical s) :
    CanonicalOut (execNeighbourSolicitation t l q s) := by
  unfold execNeighbourSolicitation
  repeat' (first
    | intro _ | with_reducible assumption | with_reducible apply neighbourSolicitationStep_canonical
    | with_reducible apply runAt_canonical | with_reducible apply canonical_ite | with_reducible apply canonicalOut_next
    | simp only [canonical_mk] | split)

theorem execIcmpEchoRequest_canonical (t : Stamp) (l : Nat) (q : NetQuery) (s : State) (h_s : Canonical s) :
    CanonicalOut (execIcmpEchoRequest t l q s) := by
  unfold execIcmpEchoRequest
  repeat' (first
    | intro _ | with_reducible assumption | with_reducible apply icmpEchoRequestStep_canonical
    | with_reducible apply runAt_canonical | with_reducible apply canonical_ite | with_reducible apply canonicalOut_next
    | simp only [canonical_mk] | split)

theorem execFrameDiscard_canonical (t : Stamp) (l : Nat) (len : Nat) (s : State) (h_s : Canonical s) :
    CanonicalOut (execFrameDiscard t l len s) := by
  unfold execFrameDiscard
  repeat' (first
    | intro _ | with_reducible assumption | with_reducible apply frameDiscardStep_canonical
    | with_reducible apply runAt_canonical | with_reducible apply canonical_ite | with_reducible apply canonicalOut_next
    | simp only [canonical_mk] | split)

theorem execMgmtRead_canonical (t : Stamp) (d : MgmtDatagram) (s : State) (h_s : Canonical s) :
    CanonicalOut (execMgmtRead t d s) := by
  unfold execMgmtRead
  repeat' (first
    | intro _ | with_reducible assumption | with_reducible apply mgmtReadStep_canonical
    | with_reducible apply runAt_canonical | with_reducible apply canonical_ite | with_reducible apply canonicalOut_next
    | simp only [canonical_mk] | split)

theorem execMgmtWrite_canonical (t : Stamp) (d : MgmtDatagram) (s : State) (h_s : Canonical s) :
    CanonicalOut (execMgmtWrite t d s) := by
  unfold execMgmtWrite
  repeat' (first
    | intro _ | with_reducible assumption | with_reducible apply mgmtWriteStep_canonical
    | with_reducible apply runAt_canonical | with_reducible apply canonical_ite | with_reducible apply canonicalOut_next
    | simp only [canonical_mk] | split)

theorem execCsrWrite_canonical (t : Stamp) (src : CsrWriter) (a : Nat) (v : Reg) (s : State) (h_s : Canonical s) :
    CanonicalOut (execCsrWrite t src a v s) := by
  unfold execCsrWrite
  repeat' (first
    | intro _ | with_reducible assumption | with_reducible apply csrWriteStep_canonical
    | with_reducible apply runAt_canonical | with_reducible apply canonical_ite | with_reducible apply canonicalOut_next
    | simp only [canonical_mk] | split)

theorem execBreakoutChange_canonical (t : Stamp) (port : Nat) (v : Reg) (s : State) (h_s : Canonical s) :
    CanonicalOut (execBreakoutChange t port v s) := by
  unfold execBreakoutChange
  repeat' (first
    | intro _ | with_reducible assumption | with_reducible apply breakoutChangeStep_canonical
    | with_reducible apply runAt_canonical | with_reducible apply canonical_ite | with_reducible apply canonicalOut_next
    | simp only [canonical_mk] | split)

theorem execQpCreate_canonical (t : Stamp) (s : State) (h_s : Canonical s) :
    CanonicalOut (execQpCreate t s) := by
  unfold execQpCreate
  repeat' (first
    | intro _ | with_reducible assumption | with_reducible apply qpCreateStep_canonical
    | with_reducible apply runAt_canonical | with_reducible apply canonical_ite | with_reducible apply canonicalOut_next
    | simp only [canonical_mk] | split)

theorem execQpDestroy_canonical (t : Stamp) (s : State) (h_s : Canonical s) :
    CanonicalOut (execQpDestroy t s) := by
  unfold execQpDestroy
  repeat' (first
    | intro _ | with_reducible assumption | with_reducible apply qpDestroyStep_canonical
    | with_reducible apply runAt_canonical | with_reducible apply canonical_ite | with_reducible apply canonicalOut_next
    | simp only [canonical_mk] | split)

theorem execQpReadBack_canonical (t : Stamp) (s : State) (h_s : Canonical s) :
    CanonicalOut (execQpReadBack t s) := by
  unfold execQpReadBack
  repeat' (first
    | intro _ | with_reducible assumption | with_reducible apply qpReadBackStep_canonical
    | with_reducible apply runAt_canonical | with_reducible apply canonical_ite | with_reducible apply canonicalOut_next
    | simp only [canonical_mk] | split)

theorem execLinkChange_canonical (t : Stamp) (l : Nat) (rate : LinkRate) (s : State) (h_s : Canonical s) :
    CanonicalOut (execLinkChange t l rate s) := by
  unfold execLinkChange
  repeat' (first
    | intro _ | with_reducible assumption | with_reducible apply bootLinkChangeStep_canonical
    | with_reducible apply runAt_canonical | with_reducible apply canonical_ite | with_reducible apply canonicalOut_next
    | simp only [canonical_mk] | split)

theorem execMgmtLinkFallback_canonical (t : Stamp) (s : State) (h_s : Canonical s) :
    CanonicalOut (execMgmtLinkFallback t s) := by
  unfold execMgmtLinkFallback
  repeat' (first
    | intro _ | with_reducible assumption | with_reducible apply mgmtLinkFallbackStep_canonical
    | with_reducible apply runAt_canonical | with_reducible apply canonical_ite | with_reducible apply canonicalOut_next
    | simp only [canonical_mk] | split)

theorem execPtpAnnounceReceive_canonical (t : Stamp) (l : Nat) (interval : Nat) (s : State) (h_s : Canonical s) :
    CanonicalOut (execPtpAnnounceReceive t l interval s) := by
  unfold execPtpAnnounceReceive
  repeat' (first
    | intro _ | with_reducible assumption | with_reducible apply ptpAnnounceReceiveStep_canonical
    | with_reducible apply runAt_canonical | with_reducible apply canonical_ite | with_reducible apply canonicalOut_next
    | simp only [canonical_mk] | split)

theorem execPtpExchange_canonical (t : Stamp) (o : Int) (s : State) (h_s : Canonical s) :
    CanonicalOut (execPtpExchange t o s) := by
  unfold execPtpExchange
  repeat' (first
    | intro _ | with_reducible assumption | with_reducible apply skipTime_canonical
    | with_reducible apply ptpExchangeStep_canonical | with_reducible apply runAt_canonical
    | with_reducible apply canonical_ite | with_reducible apply canonicalOut_next | simp only [canonical_mk] | split)

theorem execAnnounceTimeout_canonical (t : Stamp) (s : State) (h_s : Canonical s) :
    CanonicalOut (execAnnounceTimeout t s) := by
  unfold execAnnounceTimeout
  repeat' (first
    | intro _ | with_reducible assumption | with_reducible apply announceTimeoutStep_canonical
    | with_reducible apply runAt_canonical | with_reducible apply canonical_ite | with_reducible apply canonicalOut_next
    | simp only [canonical_mk] | split)

theorem execPpsEdge_canonical (t : Stamp) (s : State) (h_s : Canonical s) :
    CanonicalOut (execPpsEdge t s) := by
  unfold execPpsEdge
  repeat' (first
    | intro _ | with_reducible assumption | with_reducible apply ppsEdgeStep_canonical
    | with_reducible apply runAt_canonical | with_reducible apply canonical_ite | with_reducible apply canonicalOut_next
    | simp only [canonical_mk] | split)

theorem execPpsLossTimeout_canonical (t : Stamp) (s : State) (h_s : Canonical s) :
    CanonicalOut (execPpsLossTimeout t s) := by
  unfold execPpsLossTimeout
  repeat' (first
    | intro _ | with_reducible assumption | with_reducible apply ppsLossTimeoutStep_canonical
    | with_reducible apply runAt_canonical | with_reducible apply canonical_ite | with_reducible apply canonicalOut_next
    | simp only [canonical_mk] | split)

theorem execPtpUnitSwap_canonical (t : Stamp) (s : State) (h_s : Canonical s) :
    CanonicalOut (execPtpUnitSwap t s) := by
  unfold execPtpUnitSwap
  repeat' (first
    | intro _ | with_reducible assumption | with_reducible apply ptpUnitSwapStep_canonical
    | with_reducible apply runAt_canonical | with_reducible apply canonical_ite | with_reducible apply canonicalOut_next
    | simp only [canonical_mk] | split)

end Sys2Proof.Machine
end

