-- ==== Sys2Proof/Laws/CanonicalBoardCommands.lean ====
section
/-! SUPPORT. Every operation of Machine/BoardCommands.lean keeps the canonical forms of memory and of the registers. -/

set_option simprocs false
set_option linter.unusedTactic false
set_option linter.unusedSimpArgs false
set_option linter.unreachableTactic false

namespace Sys2Proof.Machine

theorem execCxlLinkUp_canonical (t : Stamp) (l : Nat) (d : CxlTraining) (s : State) (h_s : Canonical s) :
    CanonicalOut (execCxlLinkUp t l d s) := by
  unfold execCxlLinkUp
  repeat' (first
    | intro _ | with_reducible assumption | with_reducible apply cxlLinkUpStep_canonical
    | with_reducible apply runAt_canonical | with_reducible apply canonical_ite | with_reducible apply canonicalOut_next
    | simp only [canonical_mk] | split)

theorem execCxlTrainRetry_canonical (t : Stamp) (l : Nat) (s : State) (h_s : Canonical s) :
    CanonicalOut (execCxlTrainRetry t l s) := by
  unfold execCxlTrainRetry
  repeat' (first
    | intro _ | with_reducible assumption | with_reducible apply cxlTrainRetryStep_canonical
    | with_reducible apply runAt_canonical | with_reducible apply canonical_ite | with_reducible apply canonicalOut_next
    | simp only [canonical_mk] | split)

theorem execCxlLinkExit_canonical (t : Stamp) (l : Nat) (s : State) (h_s : Canonical s) :
    CanonicalOut (execCxlLinkExit t l s) := by
  unfold execCxlLinkExit
  repeat' (first
    | intro _ | with_reducible assumption | with_reducible apply cxlLinkExitStep_canonical
    | with_reducible apply runAt_canonical | with_reducible apply canonical_ite | with_reducible apply canonicalOut_next
    | simp only [canonical_mk] | split)

theorem execCxlLinkRecover_canonical (t : Stamp) (l : Nat) (width : Nat) (how : CxlReturn) (s : State) (h_s : Canonical s) :
    CanonicalOut (execCxlLinkRecover t l width how s) := by
  unfold execCxlLinkRecover
  repeat' (first
    | intro _ | with_reducible assumption | with_reducible apply cxlLinkRecoverStep_canonical
    | with_reducible apply runAt_canonical | with_reducible apply canonical_ite | with_reducible apply canonicalOut_next
    | simp only [canonical_mk] | split)

theorem execCxlRecoveryTimeout_canonical (t : Stamp) (l : Nat) (s : State) (h_s : Canonical s) :
    CanonicalOut (execCxlRecoveryTimeout t l s) := by
  unfold execCxlRecoveryTimeout
  repeat' (first
    | intro _ | with_reducible assumption | with_reducible apply cxlRecoveryTimeoutStep_canonical
    | with_reducible apply runAt_canonical | with_reducible apply canonical_ite | with_reducible apply canonicalOut_next
    | simp only [canonical_mk] | split)

theorem execRearm_canonical (t : Stamp) (l : Nat) (s : State) (h_s : Canonical s) :
    CanonicalOut (execRearm t l s) := by
  unfold execRearm
  repeat' (first
    | intro _ | with_reducible assumption | with_reducible apply rearmStep_canonical
    | with_reducible apply runAt_canonical | with_reducible apply canonical_ite | with_reducible apply canonicalOut_next
    | simp only [canonical_mk] | split)

theorem execIdeIntegrityFailure_canonical (t : Stamp) (l : Nat) (addr : Nat) (s : State) (h_s : Canonical s) :
    CanonicalOut (execIdeIntegrityFailure t l addr s) := by
  unfold execIdeIntegrityFailure
  repeat' (first
    | intro _ | with_reducible assumption | with_reducible apply ideIntegrityFailureStep_canonical
    | with_reducible apply runAt_canonical | with_reducible apply canonical_ite | with_reducible apply canonicalOut_next
    | simp only [canonical_mk] | split)

theorem execIdeKeyRefresh_canonical (t : Stamp) (l : Nat) (s : State) (h_s : Canonical s) :
    CanonicalOut (execIdeKeyRefresh t l s) := by
  unfold execIdeKeyRefresh
  repeat' (first
    | intro _ | with_reducible assumption | with_reducible apply ideKeyRefreshStep_canonical
    | with_reducible apply runAt_canonical | with_reducible apply canonical_ite | with_reducible apply canonicalOut_next
    | simp only [canonical_mk] | split)

theorem execPowerUp_canonical (t : Stamp) (s : State) (h_s : Canonical s) :
    CanonicalOut (execPowerUp t s) := by
  unfold execPowerUp
  repeat' (first
    | intro _ | with_reducible assumption | with_reducible apply powerUpStep_canonical
    | with_reducible apply runPower_canonical | with_reducible apply canonical_ite
    | with_reducible apply canonicalOut_next | simp only [canonical_mk] | split)

theorem execPowerDown_canonical (t : Stamp) (s : State) (h_s : Canonical s) :
    CanonicalOut (execPowerDown t s) := by
  unfold execPowerDown
  repeat' (first
    | intro _ | with_reducible assumption | with_reducible apply powerDownStep_canonical
    | with_reducible apply runPower_canonical | with_reducible apply canonical_ite
    | with_reducible apply canonicalOut_next | simp only [canonical_mk] | split)

theorem execStartFailure_canonical (t : Stamp) (s : State) (h_s : Canonical s) :
    CanonicalOut (execStartFailure t s) := by
  unfold execStartFailure
  repeat' (first
    | intro _ | with_reducible assumption | with_reducible apply runPower_canonical
    | with_reducible apply startFailureStep_canonical | with_reducible apply canonical_ite
    | with_reducible apply canonicalOut_next | simp only [canonical_mk] | split)

theorem execInputUndervoltage_canonical (t : Stamp) (mv : Nat) (heldNs : Nat) (s : State) (h_s : Canonical s) :
    CanonicalOut (execInputUndervoltage t mv heldNs s) := by
  unfold execInputUndervoltage
  repeat' (first
    | intro _ | with_reducible assumption | with_reducible apply inputUndervoltageStep_canonical
    | with_reducible apply runPower_canonical | with_reducible apply canonical_ite
    | with_reducible apply canonicalOut_next | simp only [canonical_mk] | split)

theorem execInputOvervoltage_canonical (t : Stamp) (mv : Nat) (heldNs : Nat) (s : State) (h_s : Canonical s) :
    CanonicalOut (execInputOvervoltage t mv heldNs s) := by
  unfold execInputOvervoltage
  repeat' (first
    | intro _ | with_reducible assumption | with_reducible apply inputOvervoltageStep_canonical
    | with_reducible apply runPower_canonical | with_reducible apply canonical_ite
    | with_reducible apply canonicalOut_next | simp only [canonical_mk] | split)

theorem execRailFault_canonical (t : Stamp) (r : Nat) (heldNs : Nat) (s : State) (h_s : Canonical s) :
    CanonicalOut (execRailFault t r heldNs s) := by
  unfold execRailFault
  repeat' (first
    | intro _ | with_reducible assumption | with_reducible apply railFaultStep_canonical
    | with_reducible apply runPower_canonical | with_reducible apply canonical_ite
    | with_reducible apply canonicalOut_next | simp only [canonical_mk] | split)

theorem execModRstNAssert_canonical (t : Stamp) (heldNs : Nat) (s : State) (h_s : Canonical s) :
    CanonicalOut (execModRstNAssert t heldNs s) := by
  unfold execModRstNAssert
  repeat' (first
    | intro _ | with_reducible assumption | with_reducible apply modRstNAssertStep_canonical
    | with_reducible apply runPower_canonical | with_reducible apply canonical_ite
    | with_reducible apply canonicalOut_next | simp only [canonical_mk] | split)

theorem execModuleReset_canonical (t : Stamp) (s : State) (h_s : Canonical s) :
    CanonicalOut (execModuleReset t s) := by
  unfold execModuleReset
  repeat' (first
    | intro _ | with_reducible assumption | with_reducible apply moduleResetStep_canonical
    | with_reducible apply runAt_canonical | with_reducible apply canonical_ite | with_reducible apply canonicalOut_next
    | simp only [canonical_mk] | split)

theorem execRefclkLoss_canonical (t : Stamp) (heldNs : Nat) (s : State) (h_s : Canonical s) :
    CanonicalOut (execRefclkLoss t heldNs s) := by
  unfold execRefclkLoss
  repeat' (first
    | intro _ | with_reducible assumption | with_reducible apply refclkLossStep_canonical
    | with_reducible apply runPower_canonical | with_reducible apply canonical_ite
    | with_reducible apply canonicalOut_next | simp only [canonical_mk] | split)

theorem execPowerWindowEnd_canonical (t : Stamp) (meanW : Nat) (s : State) (h_s : Canonical s) :
    CanonicalOut (execPowerWindowEnd t meanW s) := by
  unfold execPowerWindowEnd
  repeat' (first
    | intro _ | with_reducible assumption | with_reducible apply powerWindowEndStep_canonical
    | with_reducible apply runAt_canonical | with_reducible apply canonical_ite | with_reducible apply canonicalOut_next
    | simp only [canonical_mk] | split)

theorem execPowerEmergency_canonical (t : Stamp) (c : PowerCondition) (s : State) (h_s : Canonical s) :
    CanonicalOut (execPowerEmergency t c s) := by
  unfold execPowerEmergency
  repeat' (first
    | intro _ | with_reducible assumption | with_reducible apply powerEmergencyStep_canonical
    | with_reducible apply runAt_canonical | with_reducible apply canonical_ite | with_reducible apply canonicalOut_next
    | simp only [canonical_mk] | split)

theorem execPowerEmergencyClear_canonical (t : Stamp) (s : State) (h_s : Canonical s) :
    CanonicalOut (execPowerEmergencyClear t s) := by
  unfold execPowerEmergencyClear
  repeat' (first
    | intro _ | with_reducible assumption | with_reducible apply powerEmergencyClearStep_canonical
    | with_reducible apply runAt_canonical | with_reducible apply canonical_ite | with_reducible apply canonicalOut_next
    | simp only [canonical_mk] | split)

theorem execThermalSample_canonical (t : Stamp) (temps : List Int) (s : State) (h_s : Canonical s) :
    CanonicalOut (execThermalSample t temps s) := by
  unfold execThermalSample
  repeat' (first
    | intro _ | with_reducible assumption | with_reducible apply runAt_canonical
    | with_reducible apply thermalSampleStep_canonical | with_reducible apply canonical_ite
    | with_reducible apply canonicalOut_next | simp only [canonical_mk] | split)

theorem execPhaseFault_canonical (t : Stamp) (k : Nat) (s : State) (h_s : Canonical s) :
    CanonicalOut (execPhaseFault t k s) := by
  unfold execPhaseFault
  repeat' (first
    | intro _ | with_reducible assumption | with_reducible apply phaseFaultStep_canonical
    | with_reducible apply runAt_canonical | with_reducible apply canonical_ite | with_reducible apply canonicalOut_next
    | simp only [canonical_mk] | split)

theorem execRailOffsetWrite_canonical (t : Stamp) (r : Nat) (steps : Nat) (s : State) (h_s : Canonical s) :
    CanonicalOut (execRailOffsetWrite t r steps s) := by
  unfold execRailOffsetWrite
  repeat' (first
    | intro _ | with_reducible assumption | with_reducible apply railOffsetWriteStep_canonical
    | with_reducible apply runAt_canonical | with_reducible apply canonical_ite | with_reducible apply canonicalOut_next
    | simp only [canonical_mk] | split)

theorem execI3cCapWWrite_canonical (t : Stamp) (w : Nat) (s : State) (h_s : Canonical s) :
    CanonicalOut (execI3cCapWWrite t w s) := by
  unfold execI3cCapWWrite
  repeat' (first
    | intro _ | with_reducible assumption | with_reducible apply i3cCapWWriteStep_canonical
    | with_reducible apply runPower_canonical | with_reducible apply canonical_ite
    | with_reducible apply canonicalOut_next | simp only [canonical_mk] | split)

theorem execI3cAlertCauseRead_canonical (t : Stamp) (s : State) (h_s : Canonical s) :
    CanonicalOut (execI3cAlertCauseRead t s) := by
  unfold execI3cAlertCauseRead
  repeat' (first
    | intro _ | with_reducible assumption | with_reducible apply i3cAlertCauseReadStep_canonical
    | with_reducible apply runPower_canonical | with_reducible apply canonical_ite
    | with_reducible apply canonicalOut_next | simp only [canonical_mk] | split)

theorem execPresNChange_canonical (t : Stamp) (asserted : Bool) (s : State) (h_s : Canonical s) :
    CanonicalOut (execPresNChange t asserted s) := by
  unfold execPresNChange
  repeat' (first
    | intro _ | with_reducible assumption | with_reducible apply presNChangeStep_canonical
    | with_reducible apply runPower_canonical | with_reducible apply canonical_ite
    | with_reducible apply canonicalOut_next | simp only [canonical_mk] | split)

theorem execSealBreak_canonical (t : Stamp) (s : State) (h_s : Canonical s) :
    CanonicalOut (execSealBreak t s) := by
  unfold execSealBreak
  repeat' (first
    | intro _ | with_reducible assumption | with_reducible apply runPower_canonical
    | with_reducible apply sealBreakStep_canonical | with_reducible apply canonical_ite
    | with_reducible apply canonicalOut_next | simp only [canonical_mk] | split)

theorem execFaultReport_canonical (t : Stamp) (f : FaultReport) (s : State) (h_s : Canonical s) :
    CanonicalOut (execFaultReport t f s) := by
  unfold execFaultReport
  repeat' (first
    | intro _ | with_reducible assumption | with_reducible apply faultReportStep_canonical
    | with_reducible apply runAt_canonical | with_reducible apply searchDone_canonical
    | with_reducible apply canonical_ite | with_reducible apply canonicalOut_next | simp only [canonical_mk] | split)

theorem execSpareEntryTestComplete_canonical (t : Stamp) (n : Nat) (pass : Bool) (s : State) (h_s : Canonical s) :
    CanonicalOut (execSpareEntryTestComplete t n pass s) := by
  unfold execSpareEntryTestComplete
  repeat' (first
    | intro _ | with_reducible assumption | with_reducible apply runAt_canonical
    | with_reducible apply spareEntryTestCompleteStep_canonical | with_reducible apply canonical_ite
    | with_reducible apply canonicalOut_next | simp only [canonical_mk] | split)

theorem execFwCopyMoveComplete_canonical (t : Stamp) (stack : Nat) (s : State) (h_s : Canonical s) :
    CanonicalOut (execFwCopyMoveComplete t stack s) := by
  unfold execFwCopyMoveComplete
  repeat' (first
    | intro _ | with_reducible assumption | with_reducible apply fwCopyMoveCompleteStep_canonical
    | with_reducible apply runAt_canonical | with_reducible apply canonical_ite | with_reducible apply canonicalOut_next
    | simp only [canonical_mk] | split)

theorem execPchMigrationSwitch_canonical (t : Stamp) (stack : Nat) (s : State) (h_s : Canonical s) :
    CanonicalOut (execPchMigrationSwitch t stack s) := by
  unfold execPchMigrationSwitch
  repeat' (first
    | intro _ | with_reducible assumption | with_reducible apply pchMigrationSwitchStep_canonical
    | with_reducible apply runAt_canonical | with_reducible apply canonical_ite | with_reducible apply canonicalOut_next
    | simp only [canonical_mk] | split)

theorem execRollingTest_canonical (t : Stamp) (k : TestKind) (n : Nat) (s : State) (h_s : Canonical s) :
    CanonicalOut (execRollingTest t k n s) := by
  unfold execRollingTest
  repeat' (first
    | intro _ | with_reducible assumption | with_reducible apply rollingTestStep_canonical
    | with_reducible apply runAt_canonical | with_reducible apply canonical_ite | with_reducible apply canonicalOut_next
    | simp only [canonical_mk] | split)

theorem execRollingTestComplete_canonical (t : Stamp) (k : TestKind) (n : Nat) (pass : Bool) (s : State) (h_s : Canonical s) :
    CanonicalOut (execRollingTestComplete t k n pass s) := by
  unfold execRollingTestComplete
  repeat' (first
    | intro _ | with_reducible assumption | with_reducible apply rollingTestCompleteStep_canonical
    | with_reducible apply runAt_canonical | with_reducible apply searchDone_canonical
    | with_reducible apply canonical_ite | with_reducible apply canonicalOut_next | simp only [canonical_mk] | split)

theorem execWalkerSwapTimeout_canonical (t : Stamp) (w : Nat) (s : State) (h_s : Canonical s) :
    CanonicalOut (execWalkerSwapTimeout t w s) := by
  unfold execWalkerSwapTimeout
  repeat' (first
    | intro _ | with_reducible assumption | with_reducible apply runAt_canonical
    | with_reducible apply walkerSwapTimeoutStep_canonical | with_reducible apply canonical_ite
    | with_reducible apply canonicalOut_next | simp only [canonical_mk] | split)

theorem execCaliperMeasure_canonical (t : Stamp) (readings : List Nat) (s : State) (h_s : Canonical s) :
    CanonicalOut (execCaliperMeasure t readings s) := by
  unfold execCaliperMeasure
  repeat' (first
    | intro _ | with_reducible assumption | with_reducible apply caliperMeasureStep_canonical
    | with_reducible apply runAt_canonical | with_reducible apply canonical_ite | with_reducible apply canonicalOut_next
    | simp only [canonical_mk] | split)

theorem execBinChange_canonical (t : Stamp) (r : Nat) (s : State) (h_s : Canonical s) :
    CanonicalOut (execBinChange t r s) := by
  unfold execBinChange
  repeat' (first
    | intro _ | with_reducible assumption | with_reducible apply binChangeStep_canonical
    | with_reducible apply runAt_canonical | with_reducible apply canonical_ite | with_reducible apply canonicalOut_next
    | simp only [canonical_mk] | split)

theorem execHoursUpdate_canonical (t : Stamp) (s : State) (h_s : Canonical s) :
    CanonicalOut (execHoursUpdate t s) := by
  unfold execHoursUpdate
  repeat' (first
    | intro _ | with_reducible assumption | with_reducible apply hoursUpdateStep_canonical
    | with_reducible apply runAt_canonical | with_reducible apply canonical_ite | with_reducible apply canonicalOut_next
    | simp only [canonical_mk] | split)

theorem execRotSelfTest_canonical (t : Stamp) (pass : Bool) (s : State) (h_s : Canonical s) :
    CanonicalOut (execRotSelfTest t pass s) := by
  unfold execRotSelfTest
  repeat' (first
    | intro _ | with_reducible assumption | with_reducible apply rotSelfTestStep_canonical
    | with_reducible apply runAt_canonical | with_reducible apply canonical_ite | with_reducible apply canonicalOut_next
    | simp only [canonical_mk] | split)

theorem execBootSequence_canonical (t : Stamp) (s : State) (h_s : Canonical s) :
    CanonicalOut (execBootSequence t s) := by
  unfold execBootSequence
  repeat' (first
    | intro _ | with_reducible assumption | with_reducible apply bootSequenceStep_canonical
    | with_reducible apply runPower_canonical | with_reducible apply canonical_ite
    | with_reducible apply canonicalOut_next | simp only [canonical_mk] | split)

theorem execBootImageFetch_canonical (t : Stamp) (o : BootFetch) (s : State) (h_s : Canonical s) :
    CanonicalOut (execBootImageFetch t o s) := by
  unfold execBootImageFetch
  repeat' (first
    | intro _ | with_reducible assumption | with_reducible apply bootImageFetchStep_canonical
    | with_reducible apply runAt_canonical | with_reducible apply canonical_ite | with_reducible apply canonicalOut_next
    | simp only [canonical_mk] | split)

theorem execDhcpRetransmit_canonical (t : Stamp) (s : State) (h_s : Canonical s) :
    CanonicalOut (execDhcpRetransmit t s) := by
  unfold execDhcpRetransmit
  repeat' (first
    | intro _ | with_reducible assumption | with_reducible apply dhcpRetransmitStep_canonical
    | with_reducible apply runAt_canonical | with_reducible apply canonical_ite | with_reducible apply canonicalOut_next
    | simp only [canonical_mk] | split)

theorem execTftpRetransmit_canonical (t : Stamp) (s : State) (h_s : Canonical s) :
    CanonicalOut (execTftpRetransmit t s) := by
  unfold execTftpRetransmit
  repeat' (first
    | intro _ | with_reducible assumption | with_reducible apply runAt_canonical
    | with_reducible apply tftpRetransmitStep_canonical | with_reducible apply canonical_ite
    | with_reducible apply canonicalOut_next | simp only [canonical_mk] | split)

theorem execBootBudgetExpiry_canonical (t : Stamp) (s : State) (h_s : Canonical s) :
    CanonicalOut (execBootBudgetExpiry t s) := by
  unfold execBootBudgetExpiry
  repeat' (first
    | intro _ | with_reducible assumption | with_reducible apply bootBudgetExpiryStep_canonical
    | with_reducible apply runAt_canonical | with_reducible apply canonical_ite | with_reducible apply canonicalOut_next
    | simp only [canonical_mk] | split)

theorem execBootFetchRetry_canonical (t : Stamp) (s : State) (h_s : Canonical s) :
    CanonicalOut (execBootFetchRetry t s) := by
  unfold execBootFetchRetry
  repeat' (first
    | intro _ | with_reducible assumption | with_reducible apply bootFetchRetryStep_canonical
    | with_reducible apply runAt_canonical | with_reducible apply canonical_ite | with_reducible apply canonicalOut_next
    | simp only [canonical_mk] | split)

theorem execHbmStackTrained_canonical (t : Stamp) (k : Nat) (ok : Bool) (s : State) (h_s : Canonical s) :
    CanonicalOut (execHbmStackTrained t k ok s) := by
  unfold execHbmStackTrained
  repeat' (first
    | intro _ | with_reducible assumption | with_reducible apply hbmStackTrainedStep_canonical
    | with_reducible apply runAt_canonical | with_reducible apply canonical_ite | with_reducible apply canonicalOut_next
    | simp only [canonical_mk] | split)

theorem execBootFaultLogRead_canonical (t : Stamp) (s : State) (h_s : Canonical s) :
    CanonicalOut (execBootFaultLogRead t s) := by
  unfold execBootFaultLogRead
  repeat' (first
    | intro _ | with_reducible assumption | with_reducible apply bootFaultLogReadStep_canonical
    | with_reducible apply runAt_canonical | with_reducible apply canonical_ite | with_reducible apply canonicalOut_next
    | simp only [canonical_mk] | split)

theorem execUnknownOpcodeRequest_canonical (t : Stamp) (opcode : Nat) (r : Req) (s : State) (h_s : Canonical s) :
    CanonicalOut (execUnknownOpcodeRequest t opcode r s) := by
  unfold execUnknownOpcodeRequest
  repeat' (first
    | intro _ | with_reducible assumption | with_reducible apply receive_canonical | with_reducible apply runAt_canonical
    | with_reducible apply canonical_ite | with_reducible apply canonicalOut_next | simp only [canonical_mk] | split)

theorem execIllegalInstruction_canonical (t : Stamp) (n : Nat) (w : BitVec 128) (s : State) (h_s : Canonical s) :
    CanonicalOut (execIllegalInstruction t n w s) := by
  unfold execIllegalInstruction
  repeat' (first
    | intro _ | with_reducible assumption | with_reducible apply illegalInstructionStep_canonical
    | with_reducible apply runAt_canonical | with_reducible apply canonical_ite | with_reducible apply canonicalOut_next
    | simp only [canonical_mk] | split)

theorem execRnrTimerExpiry_canonical (t : Stamp) (qp : Nat) (s : State) (h_s : Canonical s) :
    CanonicalOut (execRnrTimerExpiry t qp s) := by
  unfold execRnrTimerExpiry
  repeat' (first
    | intro _ | with_reducible assumption | with_reducible apply rnrTimerExpiryStep_canonical
    | with_reducible apply runAt_canonical | with_reducible apply canonical_ite | with_reducible apply canonicalOut_next
    | simp only [canonical_mk] | split)

theorem execFetchBudgetEnd_canonical (t : Stamp) (c : Nat) (s : State) (h_s : Canonical s) :
    CanonicalOut (execFetchBudgetEnd t c s) := by
  unfold execFetchBudgetEnd
  repeat' (first
    | intro _ | with_reducible assumption | with_reducible apply fetchBudgetEndStep_canonical
    | with_reducible apply runAt_canonical | with_reducible apply canonical_ite | with_reducible apply canonicalOut_next
    | simp only [canonical_mk] | split)

theorem execFarContextKvFetchComplete_canonical (t : Stamp) (p : Nat) (obj : Nat) (s : State) (h_s : Canonical s) :
    CanonicalOut (execFarContextKvFetchComplete t p obj s) := by
  unfold execFarContextKvFetchComplete
  repeat' (first
    | intro _ | with_reducible assumption | with_reducible apply farKvFetchCompleteStep_canonical
    | with_reducible apply runAt_canonical | with_reducible apply canonical_ite | with_reducible apply canonicalOut_next
    | simp only [canonical_mk] | split)

theorem execTokenizationTake_canonical (t : Stamp) (s : State) (h_s : Canonical s) :
    CanonicalOut (execTokenizationTake t s) := by
  unfold execTokenizationTake
  repeat' (first
    | intro _ | with_reducible assumption | with_reducible apply runAt_canonical | with_reducible apply runTok_canonical
    | with_reducible refine runTok_canonical_eq (by with_reducible assumption) ?_
    | with_reducible apply tokenizationTakeStep_canonical | with_reducible apply canonical_ite
    | with_reducible apply canonicalOut_next | simp only [canonical_mk] | split)

theorem execDirFlush_canonical (t : Stamp) (s : State) (h_s : Canonical s) :
    CanonicalOut (execDirFlush t s) := by
  unfold execDirFlush
  repeat' (first
    | intro _ | with_reducible assumption | with_reducible apply dirFlushStep_canonical
    | with_reducible apply runAt_canonical | with_reducible apply canonical_ite | with_reducible apply canonicalOut_next
    | simp only [canonical_mk] | split)

theorem execStandbyPowerOn_canonical (t : Stamp) (s : State) (h_s : Canonical s) :
    CanonicalOut (execStandbyPowerOn t s) := by
  unfold execStandbyPowerOn
  repeat' (first
    | intro _ | with_reducible assumption | with_reducible apply runPower_canonical
    | with_reducible apply standbyPowerOnStep_canonical | with_reducible apply canonical_ite
    | with_reducible apply canonicalOut_next | simp only [canonical_mk] | split)

theorem execStandbyPowerLoss_canonical (t : Stamp) (s : State) (h_s : Canonical s) :
    CanonicalOut (execStandbyPowerLoss t s) := by
  unfold execStandbyPowerLoss
  repeat' (first
    | intro _ | with_reducible assumption | with_reducible apply runPower_canonical
    | with_reducible apply standbyPowerLossStep_canonical | with_reducible apply canonical_ite
    | with_reducible apply canonicalOut_next | simp only [canonical_mk] | split)

theorem execThermTripRelease_canonical (t : Stamp) (s : State) (h_s : Canonical s) :
    CanonicalOut (execThermTripRelease t s) := by
  unfold execThermTripRelease
  repeat' (first
    | intro _ | with_reducible assumption | with_reducible apply runPower_canonical
    | with_reducible apply thermTripReleaseStep_canonical | with_reducible apply canonical_ite
    | with_reducible apply canonicalOut_next | simp only [canonical_mk] | split)

theorem execSealRestored_canonical (t : Stamp) (s : State) (h_s : Canonical s) :
    CanonicalOut (execSealRestored t s) := by
  unfold execSealRestored
  repeat' (first
    | intro _ | with_reducible assumption | with_reducible apply runPower_canonical
    | with_reducible apply sealRestoredStep_canonical | with_reducible apply canonical_ite
    | with_reducible apply canonicalOut_next | simp only [canonical_mk] | split)

theorem execPhaseReenable_canonical (t : Stamp) (k : Nat) (ok : Bool) (s : State) (h_s : Canonical s) :
    CanonicalOut (execPhaseReenable t k ok s) := by
  unfold execPhaseReenable
  repeat' (first
    | intro _ | with_reducible assumption | with_reducible apply phaseReenableStep_canonical
    | with_reducible apply runAt_canonical | with_reducible apply canonical_ite | with_reducible apply canonicalOut_next
    | simp only [canonical_mk] | split)

theorem execBootLimitMissed_canonical (t : Stamp) (b : Nat) (s : State) (h_s : Canonical s) :
    CanonicalOut (execBootLimitMissed t b s) := by
  unfold execBootLimitMissed
  repeat' (first
    | intro _ | with_reducible assumption | with_reducible apply bootLimitMissedStep_canonical
    | with_reducible apply runAt_canonical | with_reducible apply canonical_ite | with_reducible apply canonicalOut_next
    | simp only [canonical_mk] | split)

end Sys2Proof.Machine
end

