-- ==== Sys2Proof/Laws/Run.lean ====
section
/-! SUPPORT. How a step of the block runs: its own effect between the same beginning and the same end, and a command that intake
starts at once. -/

namespace Sys2Proof.Machine

/-- A step on a module that carries out commands: the effect, and what follows from it. -/
theorem runAt_acts {s : State} {t : Stamp} (f : State → State) (h : s.acts t = true) :
    runAt t f s = s.ended (f (s.begun t)) := by
  have h' : (s.comeTo t).powerTick.alive = true := h
  unfold runAt State.ended State.begun State.arrived State.at_ State.upTo
  dsimp only
  rw [if_pos h']

/-- A step on a module whose internal reset is held: only time passes. -/
theorem runAt_held {s : State} {t : Stamp} (f : State → State) (h : s.acts t = false) :
    runAt t f s = s.keepQueue (s.at_ t) := by
  have h' : (s.comeTo t).powerTick.alive = false := h
  unfold runAt State.at_
  dsimp only
  rw [h', if_neg Bool.false_ne_true]

/-- A step of the standby domain. -/
theorem runPower_eq (t : Stamp) (f : State → State) (s : State) : runPower t f s = s.powered (f (s.at_ t)) := rfl

/-- A step never touches the queue of waiting commands. -/
theorem runAt_pending (t : Stamp) (f : State → State) (s : State) : (runAt t f s).pending = s.pending := rfl

theorem runPower_pending (t : Stamp) (f : State → State) (s : State) : (runPower t f s).pending = s.pending := rfl

/-- Where no fence and no earlier command holds a command back, it starts: the work is done in its work state. -/
theorem begin_work {s u : State} {c : Cmd} (hu : s.unheld c = true) (hw : s.workState c = some u) :
    s.begin_ c = (runBody { c with phase := .started } u).worked c := by
  unfold State.unheld at hu
  rw [Bool.and_eq_true, Bool.not_eq_true', Bool.not_eq_true'] at hu
  unfold State.begin_ State.inOrder State.dispatch
  rw [hu.1, hu.2, if_neg Bool.false_ne_true, if_neg Bool.false_ne_true]
  unfold State.workState at hw
  unfold State.worked
  by_cases hs : slowPath c.hdr.opcode = true
  · rw [if_pos hs] at hw ⊢
    rw [if_pos hs]
    rw [Option.map_eq_some_iff] at hw
    obtain ⟨core, hc, hw⟩ := hw
    unfold State.enqueue
    dsimp only
    rw [hc]
    cases hw
    rfl
  · rw [if_neg hs] at hw ⊢
    rw [if_neg hs]
    cases hw
    rfl

/-- A command that nothing holds back and whose work state exists is not held back. -/
theorem heldBack_false {s u : State} {c : Cmd} (hu : s.unheld c = true) (hw : s.workState c = some u) :
    s.heldBack c = false := by
  unfold State.unheld at hu
  rw [Bool.and_eq_true, Bool.not_eq_true', Bool.not_eq_true'] at hu
  unfold State.heldBack
  rw [hu.1, hu.2]
  unfold State.workState at hw
  by_cases hs : slowPath c.hdr.opcode = true
  · rw [if_pos hs, Option.map_eq_some_iff] at hw
    obtain ⟨core, hc, -⟩ := hw
    rw [hc]
    simp
  · simp [hs]

/-- A command that row 14 lets pass begins, where nothing holds it back. -/
theorem presentCmd_begin {s u v : State} {c : Cmd} (h : s.presented c = some u) (hu : u.unheld c = true)
    (hw : u.workState c = some v) : s.presentCmd c = u.begin_ c := by
  unfold State.presented at h
  unfold State.presentCmd
  cases hr : s.rowFourteen c with
  | some r => rw [hr] at h; cases h
  | none =>
    rw [hr] at h
    rw [if_neg (by simp)] at h
    dsimp only
    split at h
    · rename_i ho
      rw [if_pos ho]
      cases hc : closeRefusal c.input with
      | some st => rw [hc] at h; cases h
      | none => rw [hc] at h; cases h; rfl
    · rename_i ho
      rw [if_neg ho]
      cases h
      rw [heldBack_false hu hw, Bool.false_and, if_neg Bool.false_ne_true]

/-- A request packet that intake starts at once: the command's work, in the state in which it starts. -/
theorem receive_begins {s u : State} {op : Nat} {r : Req} {c : Cmd} (h : s.begins op r = some (c, u)) :
    s.receive op r = (runBody c u).worked c := by
  unfold State.begins at h
  rw [Option.bind_eq_some_iff] at h
  obtain ⟨q, hq, h⟩ := h
  dsimp only at h
  split at h
  · rename_i hc
    rw [Bool.and_eq_true, Bool.and_eq_true] at hc
    obtain ⟨⟨hw, hh⟩, ha⟩ := hc
    rw [Option.map_eq_some_iff] at h
    obtain ⟨v, hv, h⟩ := h
    cases h
    unfold State.startState at hv
    rw [Option.bind_eq_some_iff] at hv
    obtain ⟨w, hp, hv⟩ := hv
    split at hv
    · rename_i hun
      simp only [wholeRequest, requestPacket, Bool.and_eq_true, decide_eq_true_eq, Bool.not_eq_true'] at hw
      obtain ⟨⟨⟨⟨h32, hmax⟩, hf2⟩, hf0⟩, hm⟩ := hw
      simp only [Qp.hears, Bool.and_eq_true, Bool.not_eq_true', bne_iff_ne, ne_eq, Option.isNone_iff_eq_none] at hh
      obtain ⟨⟨he, hd⟩, hasm⟩ := hh
      simp only [State.admitsPacket, Bool.and_eq_true, Option.isNone_iff_eq_none] at ha
      obtain ⟨⟨hi, ht⟩, hr⟩ := ha
      unfold State.receive
      rw [hq]
      dsimp only
      rw [he, hf2, hf0, if_neg Bool.false_ne_true, if_neg (by omega), if_neg (by omega), if_neg Bool.false_ne_true,
        if_neg Bool.false_ne_true]
      unfold State.requestArrives
      rw [if_neg (by simpa using hd)]
      dsimp only
      rw [hasm]
      dsimp only
      unfold State.firstPacket
      rw [hi]
      dsimp only
      rw [hm, if_neg Bool.false_ne_true]
      unfold State.take
      rw [ht]
      dsimp only
      unfold State.incoming at hr hp hv hun
      rw [if_pos hr, presentCmd_begin hp hun hv, begin_work hun hv]
      rfl
    · cases hv
  · cases h

/-- The opcode of a command that intake starts. -/
theorem begins_opcode {s u : State} {op : Nat} {r : Req} {c : Cmd} (h : s.begins op r = some (c, u)) : c.hdr.opcode = op := by
  unfold State.begins at h
  rw [Option.bind_eq_some_iff] at h
  obtain ⟨q, hq, h⟩ := h
  dsimp only at h
  split at h
  · rw [Option.map_eq_some_iff] at h
    obtain ⟨v, hv, h⟩ := h
    cases h
    rfl
  · cases h

/-- A payload of the right shape passes the checks of shape. -/
theorem shaped_of {s : State} {c : Cmd} {n : Nat} {resv : List (Nat × Nat)} {k : State → State}
    (h : shapedAs c n resv = true) : s.shaped c n resv k = k s := by
  unfold shapedAs at h
  rw [Bool.and_eq_true, beq_iff_eq, List.all_eq_true] at h
  unfold State.shaped
  rw [if_neg (by simpa using h.1), if_neg]
  rw [List.any_eq_true]
  rintro ⟨r, hr, hz⟩
  rw [h.2 r hr] at hz
  cases hz

/-- An opcode whose body has an effect has it on every packet that intake starts at once. -/
theorem hostEffect_of {mk : Stamp → Req → Instr} {op : Nat} {P : Cmd → State → Prop} {e : Cmd → State → State}
    (hx : ∀ t r s, exec (mk t r) s = .next (runAt t (fun s => s.receive op r) s))
    (he : ∀ c u, c.hdr.opcode = op → P c u → runBody c u = e c u) : HostEffect mk op P e := by
  intro s t r c u ha hb hp
  rw [hx, runAt_acts _ ha, receive_begins hb, he c u (begins_opcode hb) hp]

theorem unitEffect_of {mk : Stamp → Instr} {P : State → Prop} {e f : State → State}
    (hx : ∀ t s, exec (mk t) s = .next (runAt t f s)) (he : ∀ s, P s → f s = e s) : UnitEffect mk P e := by
  intro s t ha hp
  rw [hx, runAt_acts _ ha, he _ hp]

theorem powerEffect_of {mk : Stamp → Instr} {P : State → Prop} {e f : State → State}
    (hx : ∀ t s, exec (mk t) s = .next (runPower t f s)) (he : ∀ s, P s → f s = e s) : PowerEffect mk P e := by
  intro s t hp
  rw [hx, runPower_eq, he _ hp]

end Sys2Proof.Machine
end

