-- ==== Sys2Proof/Laws/Frames.lean ====
section
/-! SUPPORT. What answers and the intake of a fast-path command leave as it was: `AnswersOnly` of the shared operations. -/

namespace Sys2Proof.Machine

theorem answersOnly_refl (s : State) : AnswersOnly s s := ⟨_, _, _, _, _, _, _, _, rfl⟩

theorem answersOnly_trans {s t u : State} (h : AnswersOnly s t) (k : AnswersOnly t u) : AnswersOnly s u := by
  obtain ⟨_, _, _, _, _, _, _, _, rfl⟩ := h
  obtain ⟨_, _, _, _, _, _, _, _, rfl⟩ := k
  exact ⟨_, _, _, _, _, _, _, _, rfl⟩

/-- An answer changes only what an answer changes. -/
theorem reply_answersOnly (s : State) (c : Cmd) (st : Nat) (items : List Item) (payload : List Byte) :
    AnswersOnly s (s.reply c st items payload) := by
  unfold State.reply State.dropCmd State.sendReply State.count
  split <;> exact ⟨_, _, _, _, _, _, _, _, rfl⟩

/-- An answer ends its own command and no other. -/
theorem reply_cmds (s : State) (c : Cmd) (st : Nat) (items : List Item) (payload : List Byte) :
    (s.reply c st items payload).cmds = s.cmds.filter (fun d => d.id != c.id) := by
  unfold State.reply State.dropCmd State.sendReply State.count
  split <;> rfl

/-- A command that is turned away is counted and answered, and nothing else. -/
theorem turnAway_answersOnly (s : State) (h : Hdr) (st : Nat) : AnswersOnly s (s.turnAway h st) := by
  unfold State.turnAway State.sendReply State.count
  split <;> exact ⟨_, _, _, _, _, _, _, _, rfl⟩

/-- The intake of a fast-path command that it starts at once, a SESSION_CLOSE apart, changes only what an answer changes. -/
theorem begins_answersOnly {s u : State} {op : Nat} {r : Req} {c : Cmd} (h : s.begins op r = some (c, u))
    (hf : slowPath op = false) (hc : (op == 0x101) = false) : AnswersOnly s u := by
  unfold State.begins at h
  rw [Option.bind_eq_some_iff] at h
  obtain ⟨q, hq, h⟩ := h
  dsimp only at h
  split at h
  · rw [Option.map_eq_some_iff] at h
    obtain ⟨v, hv, h⟩ := h
    cases h
    unfold State.startState at hv
    rw [Option.bind_eq_some_iff] at hv
    obtain ⟨w, hp, hv⟩ := hv
    split at hv
    · unfold State.workState at hv
      have ho : ((s.listen r.qp).incoming q op r).hdr.opcode = op := rfl
      rw [ho, hf, if_neg Bool.false_ne_true] at hv
      unfold State.presented at hp
      rw [ho, hc, if_neg Bool.false_ne_true] at hp
      split at hp
      · cases hp
      · cases hp
        cases hv
        exact ⟨_, _, _, _, _, _, _, _, rfl⟩
    · cases hv
  · cases h

end Sys2Proof.Machine
end

