-- ==== Sys2Proof/Laws/PerInstr.lean ====
section
/-! SUPPORT. Statements made of every command, one lemma for each constructor. `WfStamp`: the stamp of a well-formed command is a device
time of 64 bits (R13). -/

namespace Sys2Proof.Laws

/-- A well-formed command bears a stamp of 64 bits (R13). -/
def WfStamp.Statement (i : Instr) : Prop := i.wf = true → i.stamp < 2 ^ 64

theorem first_of_and {a b : Bool} (h : (a && b) = true) : a = true := (Bool.and_eq_true .. ▸ h).1

theorem lt_of_blt {t : Stamp} (h : t.blt 18446744073709551616 = true) : t < 2 ^ 64 := Nat.blt_eq ▸ h

theorem WfStamp.sessionOpen (t : Stamp) (r : Req) : WfStamp.Statement (.sessionOpen t r) :=
  fun h => lt_of_blt (first_of_and h)

theorem WfStamp.sessionClose (t : Stamp) (r : Req) : WfStamp.Statement (.sessionClose t r) :=
  fun h => lt_of_blt (first_of_and h)

theorem WfStamp.sessionCloseComplete (t : Stamp) (qp : Nat) : WfStamp.Statement (.sessionCloseComplete t qp) :=
  fun h => lt_of_blt (first_of_and h)

theorem WfStamp.echo (t : Stamp) (r : Req) : WfStamp.Statement (.echo t r) :=
  fun h => lt_of_blt (first_of_and h)

theorem WfStamp.setEventCoalesce (t : Stamp) (r : Req) : WfStamp.Statement (.setEventCoalesce t r) :=
  fun h => lt_of_blt (first_of_and h)

theorem WfStamp.readinessQuery (t : Stamp) (r : Req) : WfStamp.Statement (.readinessQuery t r) :=
  fun h => lt_of_blt (first_of_and h)

theorem WfStamp.search (t : Stamp) (r : Req) : WfStamp.Statement (.search t r) :=
  fun h => lt_of_blt (first_of_and h)

theorem WfStamp.searchShard (t : Stamp) (r : Req) : WfStamp.Statement (.searchShard t r) :=
  fun h => lt_of_blt (first_of_and h)

theorem WfStamp.searchBatch (t : Stamp) (r : Req) : WfStamp.Statement (.searchBatch t r) :=
  fun h => lt_of_blt (first_of_and h)

theorem WfStamp.indexInsert (t : Stamp) (r : Req) : WfStamp.Statement (.indexInsert t r) :=
  fun h => lt_of_blt (first_of_and h)

theorem WfStamp.indexDelete (t : Stamp) (r : Req) : WfStamp.Statement (.indexDelete t r) :=
  fun h => lt_of_blt (first_of_and h)

theorem WfStamp.indexLoad (t : Stamp) (r : Req) : WfStamp.Statement (.indexLoad t r) :=
  fun h => lt_of_blt (first_of_and h)

theorem WfStamp.indexMergeStart (t : Stamp) (r : Req) : WfStamp.Statement (.indexMergeStart t r) :=
  fun h => lt_of_blt (first_of_and h)

theorem WfStamp.mergeRepair (t : Stamp) (p : Nat) : WfStamp.Statement (.mergeRepair t p) :=
  fun h => lt_of_blt (first_of_and h)

theorem WfStamp.mergePublish (t : Stamp) (p : Nat) : WfStamp.Statement (.mergePublish t p) :=
  fun h => lt_of_blt (first_of_and h)

theorem WfStamp.mergeReclaim (t : Stamp) (p : Nat) : WfStamp.Statement (.mergeReclaim t p) :=
  fun h => lt_of_blt (first_of_and h)

theorem WfStamp.indexEpochQuery (t : Stamp) (r : Req) : WfStamp.Statement (.indexEpochQuery t r) :=
  fun h => lt_of_blt (first_of_and h)

theorem WfStamp.shardMapSet (t : Stamp) (r : Req) : WfStamp.Statement (.shardMapSet t r) :=
  fun h => lt_of_blt (first_of_and h)

theorem WfStamp.vectorFetch (t : Stamp) (r : Req) : WfStamp.Statement (.vectorFetch t r) :=
  fun h => lt_of_blt (first_of_and h)

theorem WfStamp.passageFetch (t : Stamp) (r : Req) : WfStamp.Statement (.passageFetch t r) :=
  fun h => lt_of_blt (first_of_and h)

theorem WfStamp.indexUnload (t : Stamp) (r : Req) : WfStamp.Statement (.indexUnload t r) :=
  fun h => lt_of_blt (first_of_and h)

theorem WfStamp.indexUnloadComplete (t : Stamp) (p ix : Nat) : WfStamp.Statement (.indexUnloadComplete t p ix) :=
  fun h => lt_of_blt (first_of_and (first_of_and h))

theorem WfStamp.embed (t : Stamp) (r : Req) : WfStamp.Statement (.embed t r) :=
  fun h => lt_of_blt (first_of_and h)

theorem WfStamp.rescore (t : Stamp) (r : Req) : WfStamp.Statement (.rescore t r) :=
  fun h => lt_of_blt (first_of_and h)

theorem WfStamp.rerank (t : Stamp) (r : Req) : WfStamp.Statement (.rerank t r) :=
  fun h => lt_of_blt (first_of_and h)

theorem WfStamp.rewardScore (t : Stamp) (r : Req) : WfStamp.Statement (.rewardScore t r) :=
  fun h => lt_of_blt (first_of_and h)

theorem WfStamp.generate (t : Stamp) (r : Req) : WfStamp.Statement (.generate t r) :=
  fun h => lt_of_blt (first_of_and h)

theorem WfStamp.ragGenerate (t : Stamp) (r : Req) : WfStamp.Statement (.ragGenerate t r) :=
  fun h => lt_of_blt (first_of_and h)

theorem WfStamp.seqAppend (t : Stamp) (r : Req) : WfStamp.Statement (.seqAppend t r) :=
  fun h => lt_of_blt (first_of_and h)

theorem WfStamp.seqCancel (t : Stamp) (r : Req) : WfStamp.Statement (.seqCancel t r) :=
  fun h => lt_of_blt (first_of_and h)

theorem WfStamp.seqStatus (t : Stamp) (r : Req) : WfStamp.Statement (.seqStatus t r) :=
  fun h => lt_of_blt (first_of_and h)

theorem WfStamp.seqSetPriority (t : Stamp) (r : Req) : WfStamp.Statement (.seqSetPriority t r) :=
  fun h => lt_of_blt (first_of_and h)

theorem WfStamp.prefixStore (t : Stamp) (r : Req) : WfStamp.Statement (.prefixStore t r) :=
  fun h => lt_of_blt (first_of_and h)

theorem WfStamp.prefixRelease (t : Stamp) (r : Req) : WfStamp.Statement (.prefixRelease t r) :=
  fun h => lt_of_blt (first_of_and h)

theorem WfStamp.embGather (t : Stamp) (r : Req) : WfStamp.Statement (.embGather t r) :=
  fun h => lt_of_blt (first_of_and h)

theorem WfStamp.embScatterAdd (t : Stamp) (r : Req) : WfStamp.Statement (.embScatterAdd t r) :=
  fun h => lt_of_blt (first_of_and h)

theorem WfStamp.embUpdate (t : Stamp) (r : Req) : WfStamp.Statement (.embUpdate t r) :=
  fun h => lt_of_blt (first_of_and h)

theorem WfStamp.embTableCreate (t : Stamp) (r : Req) : WfStamp.Statement (.embTableCreate t r) :=
  fun h => lt_of_blt (first_of_and h)

theorem WfStamp.embTableReplace (t : Stamp) (r : Req) : WfStamp.Statement (.embTableReplace t r) :=
  fun h => lt_of_blt (first_of_and h)

theorem WfStamp.tableDrainComplete (t : Stamp) (tid : Nat) : WfStamp.Statement (.tableDrainComplete t tid) :=
  fun h => lt_of_blt (first_of_and h)

theorem WfStamp.embHotsetSet (t : Stamp) (r : Req) : WfStamp.Statement (.embHotsetSet t r) :=
  fun h => lt_of_blt (first_of_and h)

theorem WfStamp.migrationCopyComplete (t : Stamp) (tid row : Nat) : WfStamp.Statement (.migrationCopyComplete t tid row) :=
  fun h => lt_of_blt (first_of_and (first_of_and h))

theorem WfStamp.migrationLogResume (t : Stamp) (c : Nat) : WfStamp.Statement (.migrationLogResume t c) :=
  fun h => lt_of_blt h

theorem WfStamp.paramSlotClaim (t : Stamp) (c : Nat) : WfStamp.Statement (.paramSlotClaim t c) :=
  fun h => lt_of_blt h

theorem WfStamp.embTableDrop (t : Stamp) (r : Req) : WfStamp.Statement (.embTableDrop t r) :=
  fun h => lt_of_blt (first_of_and h)

theorem WfStamp.selectTopk (t : Stamp) (r : Req) : WfStamp.Statement (.selectTopk t r) :=
  fun h => lt_of_blt (first_of_and h)

theorem WfStamp.argmax (t : Stamp) (r : Req) : WfStamp.Statement (.argmax t r) :=
  fun h => lt_of_blt (first_of_and h)

theorem WfStamp.selectTopp (t : Stamp) (r : Req) : WfStamp.Statement (.selectTopp t r) :=
  fun h => lt_of_blt (first_of_and h)

theorem WfStamp.selectionTake (t : Stamp) : WfStamp.Statement (.selectionTake t) :=
  fun h => lt_of_blt h

theorem WfStamp.tokenize (t : Stamp) (r : Req) : WfStamp.Statement (.tokenize t r) :=
  fun h => lt_of_blt (first_of_and h)

theorem WfStamp.detokenize (t : Stamp) (r : Req) : WfStamp.Statement (.detokenize t r) :=
  fun h => lt_of_blt (first_of_and h)

theorem WfStamp.vocabLoad (t : Stamp) (r : Req) : WfStamp.Statement (.vocabLoad t r) :=
  fun h => lt_of_blt (first_of_and h)

theorem WfStamp.grammarLoad (t : Stamp) (r : Req) : WfStamp.Statement (.grammarLoad t r) :=
  fun h => lt_of_blt (first_of_and h)

theorem WfStamp.grammarUnload (t : Stamp) (r : Req) : WfStamp.Statement (.grammarUnload t r) :=
  fun h => lt_of_blt (first_of_and h)

theorem WfStamp.memWrite (t : Stamp) (r : Req) : WfStamp.Statement (.memWrite t r) :=
  fun h => lt_of_blt (first_of_and h)

theorem WfStamp.memRead (t : Stamp) (r : Req) : WfStamp.Statement (.memRead t r) :=
  fun h => lt_of_blt (first_of_and h)

theorem WfStamp.tierPromote (t : Stamp) (r : Req) : WfStamp.Statement (.tierPromote t r) :=
  fun h => lt_of_blt (first_of_and h)

theorem WfStamp.tierEvict (t : Stamp) (r : Req) : WfStamp.Statement (.tierEvict t r) :=
  fun h => lt_of_blt (first_of_and h)

theorem WfStamp.tierPolicySet (t : Stamp) (r : Req) : WfStamp.Statement (.tierPolicySet t r) :=
  fun h => lt_of_blt (first_of_and h)

theorem WfStamp.tileDirQuery (t : Stamp) (r : Req) : WfStamp.Statement (.tileDirQuery t r) :=
  fun h => lt_of_blt (first_of_and h)

theorem WfStamp.modelLoad (t : Stamp) (r : Req) : WfStamp.Statement (.modelLoad t r) :=
  fun h => lt_of_blt (first_of_and h)

theorem WfStamp.modelUnload (t : Stamp) (r : Req) : WfStamp.Statement (.modelUnload t r) :=
  fun h => lt_of_blt (first_of_and h)

theorem WfStamp.variantSet (t : Stamp) (r : Req) : WfStamp.Statement (.variantSet t r) :=
  fun h => lt_of_blt (first_of_and h)

theorem WfStamp.variantClear (t : Stamp) (r : Req) : WfStamp.Statement (.variantClear t r) :=
  fun h => lt_of_blt (first_of_and h)

theorem WfStamp.versionTurnover (t : Stamp) (r : Req) : WfStamp.Statement (.versionTurnover t r) :=
  fun h => lt_of_blt (first_of_and h)

theorem WfStamp.turnoverComplete (t : Stamp) (p model : Nat) : WfStamp.Statement (.turnoverComplete t p model) :=
  fun h => lt_of_blt (first_of_and (first_of_and h))

theorem WfStamp.learnStep (t : Stamp) (r : Req) : WfStamp.Statement (.learnStep t r) :=
  fun h => lt_of_blt (first_of_and h)

theorem WfStamp.optimizerStep (t : Stamp) (r : Req) : WfStamp.Statement (.optimizerStep t r) :=
  fun h => lt_of_blt (first_of_and h)

theorem WfStamp.gradAllreduce (t : Stamp) (r : Req) : WfStamp.Statement (.gradAllreduce t r) :=
  fun h => lt_of_blt (first_of_and h)

theorem WfStamp.allreduceHop (t : Stamp) (c : Nat) : WfStamp.Statement (.allreduceHop t c) :=
  fun h => lt_of_blt h

theorem WfStamp.partQuery (t : Stamp) (r : Req) : WfStamp.Statement (.partQuery t r) :=
  fun h => lt_of_blt (first_of_and h)

theorem WfStamp.contextSuspend (t : Stamp) (r : Req) : WfStamp.Statement (.contextSuspend t r) :=
  fun h => lt_of_blt (first_of_and h)

theorem WfStamp.contextResume (t : Stamp) (r : Req) : WfStamp.Statement (.contextResume t r) :=
  fun h => lt_of_blt (first_of_and h)

theorem WfStamp.switchQuiesceTimeout (t : Stamp) (p : Nat) : WfStamp.Statement (.switchQuiesceTimeout t p) :=
  fun h => lt_of_blt (first_of_and h)

theorem WfStamp.contextSwitchComplete (t : Stamp) (p : Nat) : WfStamp.Statement (.contextSwitchComplete t p) :=
  fun h => lt_of_blt (first_of_and h)

theorem WfStamp.planAdmit (t : Stamp) (r : Req) : WfStamp.Statement (.planAdmit t r) :=
  fun h => lt_of_blt (first_of_and h)

theorem WfStamp.mbHello (t : Stamp) (r : Req) : WfStamp.Statement (.mbHello t r) :=
  fun h => lt_of_blt (first_of_and h)

theorem WfStamp.mbMessage (t : Stamp) (r : Req) : WfStamp.Statement (.mbMessage t r) :=
  fun h => lt_of_blt (first_of_and h)

theorem WfStamp.fwInfo (t : Stamp) (r : Req) : WfStamp.Statement (.fwInfo t r) :=
  fun h => lt_of_blt (first_of_and h)

theorem WfStamp.fwStage (t : Stamp) (r : Req) : WfStamp.Statement (.fwStage t r) :=
  fun h => lt_of_blt (first_of_and h)

theorem WfStamp.coreStatus (t : Stamp) (r : Req) : WfStamp.Statement (.coreStatus t r) :=
  fun h => lt_of_blt (first_of_and h)

theorem WfStamp.traceSet (t : Stamp) (r : Req) : WfStamp.Statement (.traceSet t r) :=
  fun h => lt_of_blt (first_of_and h)

theorem WfStamp.logMark (t : Stamp) (r : Req) : WfStamp.Statement (.logMark t r) :=
  fun h => lt_of_blt (first_of_and h)

theorem WfStamp.activationCancel (t : Stamp) (r : Req) : WfStamp.Statement (.activationCancel t r) :=
  fun h => lt_of_blt (first_of_and h)

theorem WfStamp.fwActivate (t : Stamp) (r : Req) : WfStamp.Statement (.fwActivate t r) :=
  fun h => lt_of_blt (first_of_and h)

theorem WfStamp.normalHoldEnd (t : Stamp) : WfStamp.Statement (.normalHoldEnd t) :=
  fun h => lt_of_blt h

theorem WfStamp.clusterRestart (t : Stamp) (k : Nat) : WfStamp.Statement (.clusterRestart t k) :=
  fun h => lt_of_blt (first_of_and h)

theorem WfStamp.activationReadyTimeout (t : Stamp) (k : Nat) : WfStamp.Statement (.activationReadyTimeout t k) :=
  fun h => lt_of_blt (first_of_and h)

theorem WfStamp.lkgFlashWrite (t : Stamp) : WfStamp.Statement (.lkgFlashWrite t) :=
  fun h => lt_of_blt h

theorem WfStamp.attestReport (t : Stamp) (r : Req) : WfStamp.Statement (.attestReport t r) :=
  fun h => lt_of_blt (first_of_and h)

theorem WfStamp.measureLogRead (t : Stamp) (r : Req) : WfStamp.Statement (.measureLogRead t r) :=
  fun h => lt_of_blt (first_of_and h)

theorem WfStamp.ownerClaim (t : Stamp) (r : Req) : WfStamp.Statement (.ownerClaim t r) :=
  fun h => lt_of_blt (first_of_and h)

theorem WfStamp.protectPropose (t : Stamp) (r : Req) : WfStamp.Statement (.protectPropose t r) :=
  fun h => lt_of_blt (first_of_and h)

theorem WfStamp.protectCosign (t : Stamp) (r : Req) : WfStamp.Statement (.protectCosign t r) :=
  fun h => lt_of_blt (first_of_and h)

theorem WfStamp.proposalExpiry (t : Stamp) : WfStamp.Statement (.proposalExpiry t) :=
  fun h => lt_of_blt h

theorem WfStamp.telemetryRead (t : Stamp) (r : Req) : WfStamp.Statement (.telemetryRead t r) :=
  fun h => lt_of_blt (first_of_and h)

theorem WfStamp.countersRead (t : Stamp) (r : Req) : WfStamp.Statement (.countersRead t r) :=
  fun h => lt_of_blt (first_of_and h)

theorem WfStamp.telemetrySubscribe (t : Stamp) (r : Req) : WfStamp.Statement (.telemetrySubscribe t r) :=
  fun h => lt_of_blt (first_of_and h)

theorem WfStamp.telemetryWindowEnd (t : Stamp) (h : Nat) : WfStamp.Statement (.telemetryWindowEnd t h) :=
  fun h => lt_of_blt (first_of_and h)

theorem WfStamp.logRead (t : Stamp) (r : Req) : WfStamp.Statement (.logRead t r) :=
  fun h => lt_of_blt (first_of_and h)

theorem WfStamp.packetDiscard (t : Stamp) (qp : Nat) (bytes : List Byte) : WfStamp.Statement (.packetDiscard t qp bytes) :=
  fun h => lt_of_blt (first_of_and h)

theorem WfStamp.replyPacketReceive (t : Stamp) (opcode : Nat) (r : Req) : WfStamp.Statement (.replyPacketReceive t opcode r) :=
  fun h => lt_of_blt (first_of_and (first_of_and h))

theorem WfStamp.fragmentReceive (t : Stamp) (opcode : Nat) (r : Req) : WfStamp.Statement (.fragmentReceive t opcode r) :=
  fun h => lt_of_blt (first_of_and (first_of_and h))

theorem WfStamp.refFetchComplete (t : Stamp) (c : Nat) (o : FetchOutcome) : WfStamp.Statement (.refFetchComplete t c o) :=
  fun h => lt_of_blt h

theorem WfStamp.fenceRelease (t : Stamp) (c : Nat) : WfStamp.Statement (.fenceRelease t c) :=
  fun h => lt_of_blt h

theorem WfStamp.commandDeadline (t : Stamp) (c : Nat) : WfStamp.Statement (.commandDeadline t c) :=
  fun h => lt_of_blt h

theorem WfStamp.eventCoalesceTimer (t : Stamp) (st : StreamRef) : WfStamp.Statement (.eventCoalesceTimer t st) :=
  fun h => lt_of_blt (first_of_and h)

theorem WfStamp.workQueueTake (t : Stamp) (core : Nat) : WfStamp.Statement (.workQueueTake t core) :=
  fun h => lt_of_blt (first_of_and h)

theorem WfStamp.searchTake (t : Stamp) (p : Nat) : WfStamp.Statement (.searchTake t p) :=
  fun h => lt_of_blt (first_of_and h)

theorem WfStamp.walkExpansion (t : Stamp) (sid : Nat) : WfStamp.Statement (.walkExpansion t sid) :=
  fun h => lt_of_blt h

theorem WfStamp.sideScanBatch (t : Stamp) (sids : List Nat) : WfStamp.Statement (.sideScanBatch t sids) :=
  fun h => lt_of_blt h

theorem WfStamp.shardHedgeTimeout (t : Stamp) (c entry : Nat) : WfStamp.Statement (.shardHedgeTimeout t c entry) :=
  fun h => lt_of_blt h

theorem WfStamp.shardMerge (t : Stamp) (c : Nat) : WfStamp.Statement (.shardMerge t c) :=
  fun h => lt_of_blt h

theorem WfStamp.walkerFault (t : Stamp) (w : Nat) : WfStamp.Statement (.walkerFault t w) :=
  fun h => lt_of_blt (first_of_and h)

theorem WfStamp.distList (t : Stamp) (g : Nat) (d : Desc) : WfStamp.Statement (.distList t g d) :=
  fun h => lt_of_blt (first_of_and (first_of_and h))

theorem WfStamp.distScan (t : Stamp) (g : Nat) (d : Desc) : WfStamp.Statement (.distScan t g d) :=
  fun h => lt_of_blt (first_of_and (first_of_and h))

theorem WfStamp.qload (t : Stamp) (g : Nat) (d : Desc) : WfStamp.Statement (.qload t g d) :=
  fun h => lt_of_blt (first_of_and (first_of_and h))

theorem WfStamp.decode (t : Stamp) (g : Nat) (d : Desc) : WfStamp.Statement (.decode t g d) :=
  fun h => lt_of_blt (first_of_and (first_of_and h))

theorem WfStamp.hist (t : Stamp) (g : Nat) (d : Desc) : WfStamp.Statement (.hist t g d) :=
  fun h => lt_of_blt (first_of_and (first_of_and h))

theorem WfStamp.keyCompact (t : Stamp) (g : Nat) (d : Desc) : WfStamp.Statement (.keyCompact t g d) :=
  fun h => lt_of_blt (first_of_and (first_of_and h))

theorem WfStamp.gather (t : Stamp) (g : Nat) (d : Desc) : WfStamp.Statement (.gather t g d) :=
  fun h => lt_of_blt (first_of_and (first_of_and h))

theorem WfStamp.scatterAdd (t : Stamp) (g : Nat) (d : Desc) : WfStamp.Statement (.scatterAdd t g d) :=
  fun h => lt_of_blt (first_of_and (first_of_and h))

theorem WfStamp.rowSgd (t : Stamp) (g : Nat) (d : Desc) : WfStamp.Statement (.rowSgd t g d) :=
  fun h => lt_of_blt (first_of_and (first_of_and h))

theorem WfStamp.rowAdagrad (t : Stamp) (g : Nat) (d : Desc) : WfStamp.Statement (.rowAdagrad t g d) :=
  fun h => lt_of_blt (first_of_and (first_of_and h))

theorem WfStamp.rowAdam (t : Stamp) (g : Nat) (d : Desc) : WfStamp.Statement (.rowAdam t g d) :=
  fun h => lt_of_blt (first_of_and (first_of_and h))

theorem WfStamp.pset (t : Stamp) (g : Nat) (d : Desc) : WfStamp.Statement (.pset t g d) :=
  fun h => lt_of_blt (first_of_and (first_of_and h))

theorem WfStamp.scrub (t : Stamp) (g : Nat) (d : Desc) : WfStamp.Statement (.scrub t g d) :=
  fun h => lt_of_blt (first_of_and (first_of_and h))

theorem WfStamp.backgroundScrub (t : Stamp) (g offset : Nat) : WfStamp.Statement (.backgroundScrub t g offset) :=
  fun h => lt_of_blt (first_of_and (first_of_and h))

theorem WfStamp.spnCopy (t : Stamp) (g : Nat) (d : Desc) : WfStamp.Statement (.spnCopy t g d) :=
  fun h => lt_of_blt (first_of_and (first_of_and h))

theorem WfStamp.codebookLoad (t : Stamp) (v : Reg) : WfStamp.Statement (.codebookLoad t v) :=
  fun h => lt_of_blt h

theorem WfStamp.spindleAbort (t : Stamp) (v : Reg) : WfStamp.Statement (.spindleAbort t v) :=
  fun h => lt_of_blt h

theorem WfStamp.spnErrLogRead (t : Stamp) : WfStamp.Statement (.spnErrLogRead t) :=
  fun h => lt_of_blt h

theorem WfStamp.groupFetchIssue (t : Stamp) (p : Nat) (dst : List SlotRef) : WfStamp.Statement (.groupFetchIssue t p dst) :=
  fun h => lt_of_blt (first_of_and (first_of_and h))

theorem WfStamp.runnerCheck (t : Stamp) (p : Nat) : WfStamp.Statement (.runnerCheck t p) :=
  fun h => lt_of_blt (first_of_and h)

theorem WfStamp.tileFillComplete (t : Stamp) (p grp tile : Nat) (dst : SlotRef) : WfStamp.Statement (.tileFillComplete t p grp tile dst) :=
  fun h => lt_of_blt (first_of_and (first_of_and h))

theorem WfStamp.tierPolicyEvict (t : Stamp) (p : Nat) : WfStamp.Statement (.tierPolicyEvict t p) :=
  fun h => lt_of_blt (first_of_and h)

theorem WfStamp.evictRetry (t : Stamp) (p obj : Nat) : WfStamp.Statement (.evictRetry t p obj) :=
  fun h => lt_of_blt (first_of_and (first_of_and h))

theorem WfStamp.kernelStart (t : Stamp) (p n : Nat) : WfStamp.Statement (.kernelStart t p n) :=
  fun h => lt_of_blt (first_of_and (first_of_and h))

theorem WfStamp.nop (t : Stamp) (n : Nat) (w : BitVec 128) : WfStamp.Statement (.nop t n w) :=
  fun h => lt_of_blt (first_of_and (first_of_and h))

theorem WfStamp.endKernel (t : Stamp) (n : Nat) (w : BitVec 128) : WfStamp.Statement (.endKernel t n w) :=
  fun h => lt_of_blt (first_of_and (first_of_and h))

theorem WfStamp.fenceInstr (t : Stamp) (n : Nat) (w : BitVec 128) : WfStamp.Statement (.fenceInstr t n w) :=
  fun h => lt_of_blt (first_of_and (first_of_and h))

theorem WfStamp.release (t : Stamp) (n : Nat) (w : BitVec 128) : WfStamp.Statement (.release t n w) :=
  fun h => lt_of_blt (first_of_and (first_of_and h))

theorem WfStamp.layer (t : Stamp) (n : Nat) (w : BitVec 128) : WfStamp.Statement (.layer t n w) :=
  fun h => lt_of_blt (first_of_and (first_of_and h))

theorem WfStamp.drain (t : Stamp) (n : Nat) (w : BitVec 128) : WfStamp.Statement (.drain t n w) :=
  fun h => lt_of_blt (first_of_and (first_of_and h))

theorem WfStamp.drainComplete (t : Stamp) (n slot : Nat) : WfStamp.Statement (.drainComplete t n slot) :=
  fun h => lt_of_blt (first_of_and (first_of_and h))

theorem WfStamp.sendSel (t : Stamp) (n : Nat) (w : BitVec 128) : WfStamp.Statement (.sendSel t n w) :=
  fun h => lt_of_blt (first_of_and (first_of_and h))

theorem WfStamp.matmul (t : Stamp) (n : Nat) (w : BitVec 128) : WfStamp.Statement (.matmul t n w) :=
  fun h => lt_of_blt (first_of_and (first_of_and h))

theorem WfStamp.vector (t : Stamp) (n : Nat) (w : BitVec 128) : WfStamp.Statement (.vector t n w) :=
  fun h => lt_of_blt (first_of_and (first_of_and h))

theorem WfStamp.slotWriteComplete (t : Stamp) (n : Nat) (buf : LatheBuf) (slot : Nat) : WfStamp.Statement (.slotWriteComplete t n buf slot) :=
  fun h => lt_of_blt (first_of_and (first_of_and h))

theorem WfStamp.latheStall (t : Stamp) (n : Nat) : WfStamp.Statement (.latheStall t n) :=
  fun h => lt_of_blt (first_of_and h)

theorem WfStamp.latheIdleGate (t : Stamp) (n : Nat) : WfStamp.Statement (.latheIdleGate t n) :=
  fun h => lt_of_blt (first_of_and h)

theorem WfStamp.wakeGrant (t : Stamp) : WfStamp.Statement (.wakeGrant t) :=
  fun h => lt_of_blt h

theorem WfStamp.latheBufferError (t : Stamp) (n : Nat) (e : LatheError) (buf : LatheBuf) (slot word : Nat) : WfStamp.Statement (.latheBufferError t n e buf slot word) :=
  fun h => lt_of_blt (first_of_and (first_of_and (first_of_and h)))

theorem WfStamp.lthErrLogRead (t : Stamp) : WfStamp.Statement (.lthErrLogRead t) :=
  fun h => lt_of_blt h

theorem WfStamp.stepBoundary (t : Stamp) (p : Nat) : WfStamp.Statement (.stepBoundary t p) :=
  fun h => lt_of_blt (first_of_and h)

theorem WfStamp.seqTableError (t : Stamp) (entry : Nat) (e : EccError) : WfStamp.Statement (.seqTableError t entry e) :=
  fun h => lt_of_blt (first_of_and h)

theorem WfStamp.selectionUnitFault (t : Stamp) (u : Nat) : WfStamp.Statement (.selectionUnitFault t u) :=
  fun h => lt_of_blt (first_of_and h)

theorem WfStamp.tokenizerEngineFault (t : Stamp) (e : Nat) : WfStamp.Statement (.tokenizerEngineFault t e) :=
  fun h => lt_of_blt (first_of_and h)

theorem WfStamp.applyRegs (t : Stamp) (src : Plane) (p : Nat) : WfStamp.Statement (.applyRegs t src p) :=
  fun h => lt_of_blt (first_of_and h)

theorem WfStamp.partitionTeardown (t : Stamp) (src : Plane) (p : Nat) : WfStamp.Statement (.partitionTeardown t src p) :=
  fun h => lt_of_blt (first_of_and h)

theorem WfStamp.requestConfiguring (t : Stamp) (src : Plane) (p : Nat) : WfStamp.Statement (.requestConfiguring t src p) :=
  fun h => lt_of_blt (first_of_and h)

theorem WfStamp.requestUp (t : Stamp) (src : Plane) (p : Nat) : WfStamp.Statement (.requestUp t src p) :=
  fun h => lt_of_blt (first_of_and h)

theorem WfStamp.requestDown (t : Stamp) (src : Plane) (p : Nat) : WfStamp.Statement (.requestDown t src p) :=
  fun h => lt_of_blt (first_of_and h)

theorem WfStamp.contextTeardown (t : Stamp) (src : Plane) (p c : Nat) : WfStamp.Statement (.contextTeardown t src p c) :=
  fun h => lt_of_blt (first_of_and (first_of_and h))

theorem WfStamp.watchdogExpiry (t : Stamp) (core : Nat) : WfStamp.Statement (.watchdogExpiry t core) :=
  fun h => lt_of_blt (first_of_and h)

theorem WfStamp.coreException (t : Stamp) (core : Nat) (cause : CrashCause) : WfStamp.Statement (.coreException t core cause) :=
  fun h => lt_of_blt (first_of_and h)

theorem WfStamp.coreRestart (t : Stamp) (core : Nat) : WfStamp.Statement (.coreRestart t core) :=
  fun h => lt_of_blt (first_of_and h)

theorem WfStamp.watchdogKick (t : Stamp) (core : Nat) : WfStamp.Statement (.watchdogKick t core) :=
  fun h => lt_of_blt (first_of_and h)

theorem WfStamp.fwUpdateStage (t : Stamp) (v : Reg) : WfStamp.Statement (.fwUpdateStage t v) :=
  fun h => lt_of_blt h

theorem WfStamp.interruptEvent (t : Stamp) (n : Nat) : WfStamp.Statement (.interruptEvent t n) :=
  fun h => lt_of_blt (first_of_and h)

theorem WfStamp.interruptGroupTimer (t : Stamp) (g : Nat) : WfStamp.Statement (.interruptGroupTimer t g) :=
  fun h => lt_of_blt (first_of_and h)

theorem WfStamp.interruptClaim (t : Stamp) (core : Nat) : WfStamp.Statement (.interruptClaim t core) :=
  fun h => lt_of_blt (first_of_and h)

theorem WfStamp.interruptComplete (t : Stamp) (core n : Nat) : WfStamp.Statement (.interruptComplete t core n) :=
  fun h => lt_of_blt (first_of_and (first_of_and h))

theorem WfStamp.interruptPendSet (t : Stamp) (i : Nat) (v : Reg) : WfStamp.Statement (.interruptPendSet t i v) :=
  fun h => lt_of_blt (first_of_and h)

theorem WfStamp.interruptPendClr (t : Stamp) (i : Nat) (v : Reg) : WfStamp.Statement (.interruptPendClr t i v) :=
  fun h => lt_of_blt (first_of_and h)

theorem WfStamp.rocePacketReceive (t : Stamp) (k : RocePacket) : WfStamp.Statement (.rocePacketReceive t k) :=
  fun h => lt_of_blt (first_of_and h)

theorem WfStamp.rdmaWriteReceive (t : Stamp) (qp rkey addr : Nat) (data : List Byte) : WfStamp.Statement (.rdmaWriteReceive t qp rkey addr data) :=
  fun h => lt_of_blt (first_of_and (first_of_and (first_of_and h)))

theorem WfStamp.rdmaReadReceive (t : Stamp) (qp rkey addr len : Nat) : WfStamp.Statement (.rdmaReadReceive t qp rkey addr len) :=
  fun h => lt_of_blt (first_of_and (first_of_and (first_of_and (first_of_and h))))

theorem WfStamp.rnrNakReceive (t : Stamp) (qp timer : Nat) : WfStamp.Statement (.rnrNakReceive t qp timer) :=
  fun h => lt_of_blt (first_of_and (first_of_and h))

theorem WfStamp.roceNakReceive (t : Stamp) (qp : Nat) (k : NakKind) : WfStamp.Statement (.roceNakReceive t qp k) :=
  fun h => lt_of_blt (first_of_and h)

theorem WfStamp.localAckTimeout (t : Stamp) (qp : Nat) : WfStamp.Statement (.localAckTimeout t qp) :=
  fun h => lt_of_blt (first_of_and h)

theorem WfStamp.cnpReceive (t : Stamp) (qp : Nat) : WfStamp.Statement (.cnpReceive t qp) :=
  fun h => lt_of_blt (first_of_and h)

theorem WfStamp.rateIncreaseWindow (t : Stamp) (qp : Nat) : WfStamp.Statement (.rateIncreaseWindow t qp) :=
  fun h => lt_of_blt (first_of_and h)

theorem WfStamp.frameTransmit (t : Stamp) (l cls : Nat) : WfStamp.Statement (.frameTransmit t l cls) :=
  fun h => lt_of_blt (first_of_and (first_of_and h))

theorem WfStamp.gateEntryBoundary (t : Stamp) (l : Nat) : WfStamp.Statement (.gateEntryBoundary t l) :=
  fun h => lt_of_blt (first_of_and h)

theorem WfStamp.gateConfigChange (t : Stamp) (l : Nat) : WfStamp.Statement (.gateConfigChange t l) :=
  fun h => lt_of_blt (first_of_and h)

theorem WfStamp.gateConfigInstall (t : Stamp) (l : Nat) : WfStamp.Statement (.gateConfigInstall t l) :=
  fun h => lt_of_blt (first_of_and h)

theorem WfStamp.meterRefresh (t : Stamp) : WfStamp.Statement (.meterRefresh t) :=
  fun h => lt_of_blt h

theorem WfStamp.queueTelemetrySample (t : Stamp) : WfStamp.Statement (.queueTelemetrySample t) :=
  fun h => lt_of_blt h

theorem WfStamp.arpRequest (t : Stamp) (l : Nat) (q : NetQuery) : WfStamp.Statement (.arpRequest t l q) :=
  fun h => lt_of_blt (first_of_and h)

theorem WfStamp.neighbourSolicitation (t : Stamp) (l : Nat) (q : NetQuery) : WfStamp.Statement (.neighbourSolicitation t l q) :=
  fun h => lt_of_blt (first_of_and h)

theorem WfStamp.icmpEchoRequest (t : Stamp) (l : Nat) (q : NetQuery) : WfStamp.Statement (.icmpEchoRequest t l q) :=
  fun h => lt_of_blt (first_of_and h)

theorem WfStamp.frameDiscard (t : Stamp) (l len : Nat) : WfStamp.Statement (.frameDiscard t l len) :=
  fun h => lt_of_blt (first_of_and (first_of_and h))

theorem WfStamp.mgmtRead (t : Stamp) (d : MgmtDatagram) : WfStamp.Statement (.mgmtRead t d) :=
  fun h => lt_of_blt h

theorem WfStamp.mgmtWrite (t : Stamp) (d : MgmtDatagram) : WfStamp.Statement (.mgmtWrite t d) :=
  fun h => lt_of_blt h

theorem WfStamp.csrWrite (t : Stamp) (src : CsrWriter) (a : Nat) (v : Reg) : WfStamp.Statement (.csrWrite t src a v) :=
  fun h => lt_of_blt (first_of_and (first_of_and h))

theorem WfStamp.breakoutChange (t : Stamp) (port : Nat) (v : Reg) : WfStamp.Statement (.breakoutChange t port v) :=
  fun h => lt_of_blt (first_of_and h)

theorem WfStamp.qpCreate (t : Stamp) : WfStamp.Statement (.qpCreate t) :=
  fun h => lt_of_blt h

theorem WfStamp.qpDestroy (t : Stamp) : WfStamp.Statement (.qpDestroy t) :=
  fun h => lt_of_blt h

theorem WfStamp.qpReadBack (t : Stamp) : WfStamp.Statement (.qpReadBack t) :=
  fun h => lt_of_blt h

theorem WfStamp.linkChange (t : Stamp) (l : Nat) (rate : LinkRate) : WfStamp.Statement (.linkChange t l rate) :=
  fun h => lt_of_blt (first_of_and h)

theorem WfStamp.mgmtLinkFallback (t : Stamp) : WfStamp.Statement (.mgmtLinkFallback t) :=
  fun h => lt_of_blt h

theorem WfStamp.ptpAnnounceReceive (t : Stamp) (l interval : Nat) : WfStamp.Statement (.ptpAnnounceReceive t l interval) :=
  fun h => lt_of_blt (first_of_and h)

theorem WfStamp.ptpExchange (t : Stamp) (o : Int) : WfStamp.Statement (.ptpExchange t o) :=
  fun h => lt_of_blt h

theorem WfStamp.announceTimeout (t : Stamp) : WfStamp.Statement (.announceTimeout t) :=
  fun h => lt_of_blt h

theorem WfStamp.ppsEdge (t : Stamp) : WfStamp.Statement (.ppsEdge t) :=
  fun h => lt_of_blt h

theorem WfStamp.ppsLossTimeout (t : Stamp) : WfStamp.Statement (.ppsLossTimeout t) :=
  fun h => lt_of_blt h

theorem WfStamp.ptpUnitSwap (t : Stamp) : WfStamp.Statement (.ptpUnitSwap t) :=
  fun h => lt_of_blt h

theorem WfStamp.cxlLinkUp (t : Stamp) (l : Nat) (d : CxlTraining) : WfStamp.Statement (.cxlLinkUp t l d) :=
  fun h => lt_of_blt (first_of_and h)

theorem WfStamp.cxlTrainRetry (t : Stamp) (l : Nat) : WfStamp.Statement (.cxlTrainRetry t l) :=
  fun h => lt_of_blt (first_of_and h)

theorem WfStamp.cxlLinkExit (t : Stamp) (l : Nat) : WfStamp.Statement (.cxlLinkExit t l) :=
  fun h => lt_of_blt (first_of_and h)

theorem WfStamp.cxlLinkRecover (t : Stamp) (l width : Nat) (how : CxlReturn) : WfStamp.Statement (.cxlLinkRecover t l width how) :=
  fun h => lt_of_blt (first_of_and (first_of_and h))

theorem WfStamp.cxlRecoveryTimeout (t : Stamp) (l : Nat) : WfStamp.Statement (.cxlRecoveryTimeout t l) :=
  fun h => lt_of_blt (first_of_and h)

theorem WfStamp.rearm (t : Stamp) (l : Nat) : WfStamp.Statement (.rearm t l) :=
  fun h => lt_of_blt (first_of_and h)

theorem WfStamp.ideIntegrityFailure (t : Stamp) (l addr : Nat) : WfStamp.Statement (.ideIntegrityFailure t l addr) :=
  fun h => lt_of_blt (first_of_and (first_of_and h))

theorem WfStamp.ideKeyRefresh (t : Stamp) (l : Nat) : WfStamp.Statement (.ideKeyRefresh t l) :=
  fun h => lt_of_blt (first_of_and h)

theorem WfStamp.powerUp (t : Stamp) : WfStamp.Statement (.powerUp t) :=
  fun h => lt_of_blt h

theorem WfStamp.powerDown (t : Stamp) : WfStamp.Statement (.powerDown t) :=
  fun h => lt_of_blt h

theorem WfStamp.startFailure (t : Stamp) : WfStamp.Statement (.startFailure t) :=
  fun h => lt_of_blt h

theorem WfStamp.inputUndervoltage (t : Stamp) (mv heldNs : Nat) : WfStamp.Statement (.inputUndervoltage t mv heldNs) :=
  fun h => lt_of_blt (first_of_and h)

theorem WfStamp.inputOvervoltage (t : Stamp) (mv heldNs : Nat) : WfStamp.Statement (.inputOvervoltage t mv heldNs) :=
  fun h => lt_of_blt (first_of_and h)

theorem WfStamp.railFault (t : Stamp) (r heldNs : Nat) : WfStamp.Statement (.railFault t r heldNs) :=
  fun h => lt_of_blt (first_of_and h)

theorem WfStamp.modRstNAssert (t : Stamp) (heldNs : Nat) : WfStamp.Statement (.modRstNAssert t heldNs) :=
  fun h => lt_of_blt h

theorem WfStamp.moduleReset (t : Stamp) : WfStamp.Statement (.moduleReset t) :=
  fun h => lt_of_blt h

theorem WfStamp.refclkLoss (t : Stamp) (heldNs : Nat) : WfStamp.Statement (.refclkLoss t heldNs) :=
  fun h => lt_of_blt h

theorem WfStamp.powerWindowEnd (t : Stamp) (meanW : Nat) : WfStamp.Statement (.powerWindowEnd t meanW) :=
  fun h => lt_of_blt (first_of_and h)

theorem WfStamp.powerEmergency (t : Stamp) (c : PowerCondition) : WfStamp.Statement (.powerEmergency t c) :=
  fun h => lt_of_blt h

theorem WfStamp.powerEmergencyClear (t : Stamp) : WfStamp.Statement (.powerEmergencyClear t) :=
  fun h => lt_of_blt h

theorem WfStamp.thermalSample (t : Stamp) (temps : List Int) : WfStamp.Statement (.thermalSample t temps) :=
  fun h => lt_of_blt h

theorem WfStamp.phaseFault (t : Stamp) (k : Nat) : WfStamp.Statement (.phaseFault t k) :=
  fun h => lt_of_blt (first_of_and h)

theorem WfStamp.railOffsetWrite (t : Stamp) (r steps : Nat) : WfStamp.Statement (.railOffsetWrite t r steps) :=
  fun h => lt_of_blt (first_of_and (first_of_and h))

theorem WfStamp.i3cCapWWrite (t : Stamp) (w : Nat) : WfStamp.Statement (.i3cCapWWrite t w) :=
  fun h => lt_of_blt (first_of_and h)

theorem WfStamp.i3cAlertCauseRead (t : Stamp) : WfStamp.Statement (.i3cAlertCauseRead t) :=
  fun h => lt_of_blt h

theorem WfStamp.presNChange (t : Stamp) (asserted : Bool) : WfStamp.Statement (.presNChange t asserted) :=
  fun h => lt_of_blt h

theorem WfStamp.sealBreak (t : Stamp) : WfStamp.Statement (.sealBreak t) :=
  fun h => lt_of_blt h

theorem WfStamp.faultReport (t : Stamp) (f : FaultReport) : WfStamp.Statement (.faultReport t f) :=
  fun h => lt_of_blt h

theorem WfStamp.spareEntryTestComplete (t : Stamp) (n : Nat) (pass : Bool) : WfStamp.Statement (.spareEntryTestComplete t n pass) :=
  fun h => lt_of_blt (first_of_and h)

theorem WfStamp.fwCopyMoveComplete (t : Stamp) (stack : Nat) : WfStamp.Statement (.fwCopyMoveComplete t stack) :=
  fun h => lt_of_blt (first_of_and h)

theorem WfStamp.pchMigrationSwitch (t : Stamp) (stack : Nat) : WfStamp.Statement (.pchMigrationSwitch t stack) :=
  fun h => lt_of_blt (first_of_and h)

theorem WfStamp.rollingTest (t : Stamp) (k : TestKind) (n : Nat) : WfStamp.Statement (.rollingTest t k n) :=
  fun h => lt_of_blt (first_of_and h)

theorem WfStamp.rollingTestComplete (t : Stamp) (k : TestKind) (n : Nat) (pass : Bool) : WfStamp.Statement (.rollingTestComplete t k n pass) :=
  fun h => lt_of_blt (first_of_and h)

theorem WfStamp.walkerSwapTimeout (t : Stamp) (w : Nat) : WfStamp.Statement (.walkerSwapTimeout t w) :=
  fun h => lt_of_blt (first_of_and h)

theorem WfStamp.caliperMeasure (t : Stamp) (readings : List Nat) : WfStamp.Statement (.caliperMeasure t readings) :=
  fun h => lt_of_blt h

theorem WfStamp.binChange (t : Stamp) (r : Nat) : WfStamp.Statement (.binChange t r) :=
  fun h => lt_of_blt (first_of_and h)

theorem WfStamp.hoursUpdate (t : Stamp) : WfStamp.Statement (.hoursUpdate t) :=
  fun h => lt_of_blt h

theorem WfStamp.rotSelfTest (t : Stamp) (pass : Bool) : WfStamp.Statement (.rotSelfTest t pass) :=
  fun h => lt_of_blt h

theorem WfStamp.bootSequence (t : Stamp) : WfStamp.Statement (.bootSequence t) :=
  fun h => lt_of_blt h

theorem WfStamp.bootImageFetch (t : Stamp) (o : BootFetch) : WfStamp.Statement (.bootImageFetch t o) :=
  fun h => lt_of_blt h

theorem WfStamp.dhcpRetransmit (t : Stamp) : WfStamp.Statement (.dhcpRetransmit t) :=
  fun h => lt_of_blt h

theorem WfStamp.tftpRetransmit (t : Stamp) : WfStamp.Statement (.tftpRetransmit t) :=
  fun h => lt_of_blt h

theorem WfStamp.bootBudgetExpiry (t : Stamp) : WfStamp.Statement (.bootBudgetExpiry t) :=
  fun h => lt_of_blt h

theorem WfStamp.bootFetchRetry (t : Stamp) : WfStamp.Statement (.bootFetchRetry t) :=
  fun h => lt_of_blt h

theorem WfStamp.hbmStackTrained (t : Stamp) (s : Nat) (ok : Bool) : WfStamp.Statement (.hbmStackTrained t s ok) :=
  fun h => lt_of_blt (first_of_and h)

theorem WfStamp.bootFaultLogRead (t : Stamp) : WfStamp.Statement (.bootFaultLogRead t) :=
  fun h => lt_of_blt h

theorem WfStamp.unknownOpcodeRequest (t : Stamp) (opcode : Nat) (r : Req) : WfStamp.Statement (.unknownOpcodeRequest t opcode r) :=
  fun h => lt_of_blt (first_of_and (first_of_and h))

theorem WfStamp.illegalInstruction (t : Stamp) (n : Nat) (w : BitVec 128) : WfStamp.Statement (.illegalInstruction t n w) :=
  fun h => lt_of_blt (first_of_and (first_of_and h))

theorem WfStamp.rnrTimerExpiry (t : Stamp) (qp : Nat) : WfStamp.Statement (.rnrTimerExpiry t qp) :=
  fun h => lt_of_blt (first_of_and h)

theorem WfStamp.fetchBudgetEnd (t : Stamp) (c : Nat) : WfStamp.Statement (.fetchBudgetEnd t c) :=
  fun h => lt_of_blt h

theorem WfStamp.farContextKvFetchComplete (t : Stamp) (p obj : Nat) : WfStamp.Statement (.farContextKvFetchComplete t p obj) :=
  fun h => lt_of_blt (first_of_and (first_of_and h))

theorem WfStamp.tokenizationTake (t : Stamp) : WfStamp.Statement (.tokenizationTake t) :=
  fun h => lt_of_blt h

theorem WfStamp.dirFlush (t : Stamp) : WfStamp.Statement (.dirFlush t) :=
  fun h => lt_of_blt h

theorem WfStamp.standbyPowerOn (t : Stamp) : WfStamp.Statement (.standbyPowerOn t) :=
  fun h => lt_of_blt h

theorem WfStamp.standbyPowerLoss (t : Stamp) : WfStamp.Statement (.standbyPowerLoss t) :=
  fun h => lt_of_blt h

theorem WfStamp.thermTripRelease (t : Stamp) : WfStamp.Statement (.thermTripRelease t) :=
  fun h => lt_of_blt h

theorem WfStamp.sealRestored (t : Stamp) : WfStamp.Statement (.sealRestored t) :=
  fun h => lt_of_blt h

theorem WfStamp.phaseReenable (t : Stamp) (k : Nat) (ok : Bool) : WfStamp.Statement (.phaseReenable t k ok) :=
  fun h => lt_of_blt (first_of_and h)

theorem WfStamp.bootLimitMissed (t : Stamp) (b : Nat) : WfStamp.Statement (.bootLimitMissed t b) :=
  fun h => lt_of_blt (first_of_and h)

end Sys2Proof.Laws
end

