-- ==== Sys2Proof/Laws/State.lean ====
section
/-! SUPPORT. What each update of the state leaves in each field: one lemma for every field and every update, true by definition. -/

namespace Sys2Proof.Machine

variable (s u : State)

/-! ### keepQueue -/

@[simp] theorem State.keepQueue_pending : (s.keepQueue u).pending = s.pending := rfl
@[simp] theorem State.keepQueue_now : (s.keepQueue u).now = u.now := rfl
@[simp] theorem State.keepQueue_freeCtr : (s.keepQueue u).freeCtr = u.freeCtr := rfl
@[simp] theorem State.keepQueue_cmdSeq : (s.keepQueue u).cmdSeq = u.cmdSeq := rfl
@[simp] theorem State.keepQueue_csr : (s.keepQueue u).csr = u.csr := rfl
@[simp] theorem State.keepQueue_mem : (s.keepQueue u).mem = u.mem := rfl
@[simp] theorem State.keepQueue_veil : (s.keepQueue u).veil = u.veil := rfl
@[simp] theorem State.keepQueue_ue : (s.keepQueue u).ue = u.ue := rfl
@[simp] theorem State.keepQueue_ce : (s.keepQueue u).ce = u.ce := rfl
@[simp] theorem State.keepQueue_sent : (s.keepQueue u).sent = u.sent := rfl
@[simp] theorem State.keepQueue_qps : (s.keepQueue u).qps = u.qps := rfl
@[simp] theorem State.keepQueue_cmds : (s.keepQueue u).cmds = u.cmds := rfl
@[simp] theorem State.keepQueue_issued : (s.keepQueue u).issued = u.issued := rfl
@[simp] theorem State.keepQueue_fw : (s.keepQueue u).fw = u.fw := rfl
@[simp] theorem State.keepQueue_icu : (s.keepQueue u).icu = u.icu := rfl
@[simp] theorem State.keepQueue_parts : (s.keepQueue u).parts = u.parts := rfl
@[simp] theorem State.keepQueue_sec : (s.keepQueue u).sec = u.sec := rfl
@[simp] theorem State.keepQueue_dir : (s.keepQueue u).dir = u.dir := rfl
@[simp] theorem State.keepQueue_heap : (s.keepQueue u).heap = u.heap := rfl
@[simp] theorem State.keepQueue_models : (s.keepQueue u).models = u.models := rfl
@[simp] theorem State.keepQueue_runners : (s.keepQueue u).runners = u.runners := rfl
@[simp] theorem State.keepQueue_evictRetries : (s.keepQueue u).evictRetries = u.evictRetries := rfl
@[simp] theorem State.keepQueue_reports : (s.keepQueue u).reports = u.reports := rfl
@[simp] theorem State.keepQueue_spn : (s.keepQueue u).spn = u.spn := rfl
@[simp] theorem State.keepQueue_spnOut : (s.keepQueue u).spnOut = u.spnOut := rfl
@[simp] theorem State.keepQueue_spnLog : (s.keepQueue u).spnLog = u.spnLog := rfl
@[simp] theorem State.keepQueue_lthLog : (s.keepQueue u).lthLog = u.lthLog := rfl
@[simp] theorem State.keepQueue_lastRead : (s.keepQueue u).lastRead = u.lastRead := rfl
@[simp] theorem State.keepQueue_lathes : (s.keepQueue u).lathes = u.lathes := rfl
@[simp] theorem State.keepQueue_wakes : (s.keepQueue u).wakes = u.wakes := rfl
@[simp] theorem State.keepQueue_ramps : (s.keepQueue u).ramps = u.ramps := rfl
@[simp] theorem State.keepQueue_wakeGrants : (s.keepQueue u).wakeGrants = u.wakeGrants := rfl
@[simp] theorem State.keepQueue_wakeLast : (s.keepQueue u).wakeLast = u.wakeLast := rfl
@[simp] theorem State.keepQueue_selIn : (s.keepQueue u).selIn = u.selIn := rfl
@[simp] theorem State.keepQueue_indices : (s.keepQueue u).indices = u.indices := rfl
@[simp] theorem State.keepQueue_merges : (s.keepQueue u).merges = u.merges := rfl
@[simp] theorem State.keepQueue_searches : (s.keepQueue u).searches = u.searches := rfl
@[simp] theorem State.keepQueue_coords : (s.keepQueue u).coords = u.coords := rfl
@[simp] theorem State.keepQueue_maps : (s.keepQueue u).maps = u.maps := rfl
@[simp] theorem State.keepQueue_issueSeq : (s.keepQueue u).issueSeq = u.issueSeq := rfl
@[simp] theorem State.keepQueue_gates : (s.keepQueue u).gates = u.gates := rfl
@[simp] theorem State.keepQueue_jobs : (s.keepQueue u).jobs = u.jobs := rfl
@[simp] theorem State.keepQueue_selLast : (s.keepQueue u).selLast = u.selLast := rfl
@[simp] theorem State.keepQueue_tokLast : (s.keepQueue u).tokLast = u.tokLast := rfl
@[simp] theorem State.keepQueue_engines : (s.keepQueue u).engines = u.engines := rfl
@[simp] theorem State.keepQueue_vocabs : (s.keepQueue u).vocabs = u.vocabs := rfl
@[simp] theorem State.keepQueue_grammars : (s.keepQueue u).grammars = u.grammars := rfl
@[simp] theorem State.keepQueue_seqs : (s.keepQueue u).seqs = u.seqs := rfl
@[simp] theorem State.keepQueue_seqGens : (s.keepQueue u).seqGens = u.seqGens := rfl
@[simp] theorem State.keepQueue_cool : (s.keepQueue u).cool = u.cool := rfl
@[simp] theorem State.keepQueue_prefixes : (s.keepQueue u).prefixes = u.prefixes := rfl
@[simp] theorem State.keepQueue_kvPieces : (s.keepQueue u).kvPieces = u.kvPieces := rfl
@[simp] theorem State.keepQueue_prefixGens : (s.keepQueue u).prefixGens = u.prefixGens := rfl
@[simp] theorem State.keepQueue_stores : (s.keepQueue u).stores = u.stores := rfl
@[simp] theorem State.keepQueue_variants : (s.keepQueue u).variants = u.variants := rfl
@[simp] theorem State.keepQueue_trie : (s.keepQueue u).trie = u.trie := rfl
@[simp] theorem State.keepQueue_turns : (s.keepQueue u).turns = u.turns := rfl
@[simp] theorem State.keepQueue_runs : (s.keepQueue u).runs = u.runs := rfl
@[simp] theorem State.keepQueue_fetches : (s.keepQueue u).fetches = u.fetches := rfl
@[simp] theorem State.keepQueue_rags : (s.keepQueue u).rags = u.rags := rfl
@[simp] theorem State.keepQueue_tables : (s.keepQueue u).tables = u.tables := rfl
@[simp] theorem State.keepQueue_migs : (s.keepQueue u).migs = u.migs := rfl
@[simp] theorem State.keepQueue_hotJobs : (s.keepQueue u).hotJobs = u.hotJobs := rfl
@[simp] theorem State.keepQueue_embJobs : (s.keepQueue u).embJobs = u.embJobs := rfl
@[simp] theorem State.keepQueue_embLast : (s.keepQueue u).embLast = u.embLast := rfl
@[simp] theorem State.keepQueue_framed : (s.keepQueue u).framed = u.framed := rfl
@[simp] theorem State.keepQueue_egress : (s.keepQueue u).egress = u.egress := rfl
@[simp] theorem State.keepQueue_lineAt : (s.keepQueue u).lineAt = u.lineAt := rfl
@[simp] theorem State.keepQueue_served : (s.keepQueue u).served = u.served := rfl
@[simp] theorem State.keepQueue_meters : (s.keepQueue u).meters = u.meters := rfl
@[simp] theorem State.keepQueue_meterAt : (s.keepQueue u).meterAt = u.meterAt := rfl
@[simp] theorem State.keepQueue_telems : (s.keepQueue u).telems = u.telems := rfl
@[simp] theorem State.keepQueue_telemSeq : (s.keepQueue u).telemSeq = u.telemSeq := rfl
@[simp] theorem State.keepQueue_colls : (s.keepQueue u).colls = u.colls := rfl
@[simp] theorem State.keepQueue_ptp : (s.keepQueue u).ptp = u.ptp := rfl
@[simp] theorem State.keepQueue_mgmt10 : (s.keepQueue u).mgmt10 = u.mgmt10 := rfl
@[simp] theorem State.keepQueue_mgmtDown : (s.keepQueue u).mgmtDown = u.mgmtDown := rfl
@[simp] theorem State.keepQueue_pwr : (s.keepQueue u).pwr = u.pwr := rfl
@[simp] theorem State.keepQueue_cxl : (s.keepQueue u).cxl = u.cxl := rfl
@[simp] theorem State.keepQueue_flash : (s.keepQueue u).flash = u.flash := rfl
@[simp] theorem State.keepQueue_faults : (s.keepQueue u).faults = u.faults := rfl
@[simp] theorem State.keepQueue_cal : (s.keepQueue u).cal = u.cal := rfl
@[simp] theorem State.keepQueue_boot : (s.keepQueue u).boot = u.boot := rfl

/-! ### setRaw -/

theorem State.csr_pending (l : List (Nat × Reg)) : ({ s with csr := l } : State).pending = s.pending := rfl
@[simp] theorem State.setRaw_pending (a : Nat) (v : Reg) : (s.setRaw a v).pending = s.pending :=
    State.csr_pending s _
theorem State.csr_now (l : List (Nat × Reg)) : ({ s with csr := l } : State).now = s.now := rfl
@[simp] theorem State.setRaw_now (a : Nat) (v : Reg) : (s.setRaw a v).now = s.now :=
    State.csr_now s _
theorem State.csr_freeCtr (l : List (Nat × Reg)) : ({ s with csr := l } : State).freeCtr = s.freeCtr := rfl
@[simp] theorem State.setRaw_freeCtr (a : Nat) (v : Reg) : (s.setRaw a v).freeCtr = s.freeCtr :=
    State.csr_freeCtr s _
theorem State.csr_cmdSeq (l : List (Nat × Reg)) : ({ s with csr := l } : State).cmdSeq = s.cmdSeq := rfl
@[simp] theorem State.setRaw_cmdSeq (a : Nat) (v : Reg) : (s.setRaw a v).cmdSeq = s.cmdSeq :=
    State.csr_cmdSeq s _
@[simp] theorem State.setRaw_csr (a : Nat) (v : Reg) :
    (s.setRaw a v).csr = sparseSet (resetValue a) s.csr a v := rfl
theorem State.csr_mem (l : List (Nat × Reg)) : ({ s with csr := l } : State).mem = s.mem := rfl
@[simp] theorem State.setRaw_mem (a : Nat) (v : Reg) : (s.setRaw a v).mem = s.mem :=
    State.csr_mem s _
theorem State.csr_ue (l : List (Nat × Reg)) : ({ s with csr := l } : State).ue = s.ue := rfl
theorem State.csr_ce (l : List (Nat × Reg)) : ({ s with csr := l } : State).ce = s.ce := rfl
@[simp] theorem State.setRaw_ue (a : Nat) (v : Reg) : (s.setRaw a v).ue = s.ue :=
    State.csr_ue s _
@[simp] theorem State.setRaw_ce (a : Nat) (v : Reg) : (s.setRaw a v).ce = s.ce :=
    State.csr_ce s _
theorem State.csr_sent (l : List (Nat × Reg)) : ({ s with csr := l } : State).sent = s.sent := rfl
@[simp] theorem State.setRaw_sent (a : Nat) (v : Reg) : (s.setRaw a v).sent = s.sent :=
    State.csr_sent s _
theorem State.csr_qps (l : List (Nat × Reg)) : ({ s with csr := l } : State).qps = s.qps := rfl
@[simp] theorem State.setRaw_qps (a : Nat) (v : Reg) : (s.setRaw a v).qps = s.qps :=
    State.csr_qps s _
theorem State.csr_cmds (l : List (Nat × Reg)) : ({ s with csr := l } : State).cmds = s.cmds := rfl
@[simp] theorem State.setRaw_cmds (a : Nat) (v : Reg) : (s.setRaw a v).cmds = s.cmds :=
    State.csr_cmds s _
theorem State.csr_issued (l : List (Nat × Reg)) : ({ s with csr := l } : State).issued = s.issued := rfl
@[simp] theorem State.setRaw_issued (a : Nat) (v : Reg) : (s.setRaw a v).issued = s.issued :=
    State.csr_issued s _
theorem State.csr_fw (l : List (Nat × Reg)) : ({ s with csr := l } : State).fw = s.fw := rfl
@[simp] theorem State.setRaw_fw (a : Nat) (v : Reg) : (s.setRaw a v).fw = s.fw :=
    State.csr_fw s _
theorem State.csr_icu (l : List (Nat × Reg)) : ({ s with csr := l } : State).icu = s.icu := rfl
@[simp] theorem State.setRaw_icu (a : Nat) (v : Reg) : (s.setRaw a v).icu = s.icu :=
    State.csr_icu s _
theorem State.csr_parts (l : List (Nat × Reg)) : ({ s with csr := l } : State).parts = s.parts := rfl
@[simp] theorem State.setRaw_parts (a : Nat) (v : Reg) : (s.setRaw a v).parts = s.parts :=
    State.csr_parts s _
theorem State.csr_sec (l : List (Nat × Reg)) : ({ s with csr := l } : State).sec = s.sec := rfl
@[simp] theorem State.setRaw_sec (a : Nat) (v : Reg) : (s.setRaw a v).sec = s.sec :=
    State.csr_sec s _
theorem State.csr_dir (l : List (Nat × Reg)) : ({ s with csr := l } : State).dir = s.dir := rfl
@[simp] theorem State.setRaw_dir (a : Nat) (v : Reg) : (s.setRaw a v).dir = s.dir :=
    State.csr_dir s _
theorem State.csr_heap (l : List (Nat × Reg)) : ({ s with csr := l } : State).heap = s.heap := rfl
@[simp] theorem State.setRaw_heap (a : Nat) (v : Reg) : (s.setRaw a v).heap = s.heap :=
    State.csr_heap s _
theorem State.csr_models (l : List (Nat × Reg)) : ({ s with csr := l } : State).models = s.models := rfl
@[simp] theorem State.setRaw_models (a : Nat) (v : Reg) : (s.setRaw a v).models = s.models :=
    State.csr_models s _
theorem State.csr_runners (l : List (Nat × Reg)) : ({ s with csr := l } : State).runners = s.runners := rfl
@[simp] theorem State.setRaw_runners (a : Nat) (v : Reg) : (s.setRaw a v).runners = s.runners :=
    State.csr_runners s _
theorem State.csr_evictRetries (l : List (Nat × Reg)) : ({ s with csr := l } : State).evictRetries = s.evictRetries := rfl
@[simp] theorem State.setRaw_evictRetries (a : Nat) (v : Reg) : (s.setRaw a v).evictRetries = s.evictRetries :=
    State.csr_evictRetries s _
theorem State.csr_reports (l : List (Nat × Reg)) : ({ s with csr := l } : State).reports = s.reports := rfl
@[simp] theorem State.setRaw_reports (a : Nat) (v : Reg) : (s.setRaw a v).reports = s.reports :=
    State.csr_reports s _
theorem State.csr_spn (l : List (Nat × Reg)) : ({ s with csr := l } : State).spn = s.spn := rfl
@[simp] theorem State.setRaw_spn (a : Nat) (v : Reg) : (s.setRaw a v).spn = s.spn :=
    State.csr_spn s _
theorem State.csr_spnOut (l : List (Nat × Reg)) : ({ s with csr := l } : State).spnOut = s.spnOut := rfl
@[simp] theorem State.setRaw_spnOut (a : Nat) (v : Reg) : (s.setRaw a v).spnOut = s.spnOut :=
    State.csr_spnOut s _
theorem State.csr_spnLog (l : List (Nat × Reg)) : ({ s with csr := l } : State).spnLog = s.spnLog := rfl
@[simp] theorem State.setRaw_spnLog (a : Nat) (v : Reg) : (s.setRaw a v).spnLog = s.spnLog :=
    State.csr_spnLog s _
theorem State.csr_lthLog (l : List (Nat × Reg)) : ({ s with csr := l } : State).lthLog = s.lthLog := rfl
@[simp] theorem State.setRaw_lthLog (a : Nat) (v : Reg) : (s.setRaw a v).lthLog = s.lthLog :=
    State.csr_lthLog s _
theorem State.csr_lastRead (l : List (Nat × Reg)) : ({ s with csr := l } : State).lastRead = s.lastRead := rfl
@[simp] theorem State.setRaw_lastRead (a : Nat) (v : Reg) : (s.setRaw a v).lastRead = s.lastRead :=
    State.csr_lastRead s _
theorem State.csr_lathes (l : List (Nat × Reg)) : ({ s with csr := l } : State).lathes = s.lathes := rfl
@[simp] theorem State.setRaw_lathes (a : Nat) (v : Reg) : (s.setRaw a v).lathes = s.lathes :=
    State.csr_lathes s _
theorem State.csr_wakes (l : List (Nat × Reg)) : ({ s with csr := l } : State).wakes = s.wakes := rfl
@[simp] theorem State.setRaw_wakes (a : Nat) (v : Reg) : (s.setRaw a v).wakes = s.wakes :=
    State.csr_wakes s _
theorem State.csr_ramps (l : List (Nat × Reg)) : ({ s with csr := l } : State).ramps = s.ramps := rfl
@[simp] theorem State.setRaw_ramps (a : Nat) (v : Reg) : (s.setRaw a v).ramps = s.ramps :=
    State.csr_ramps s _
theorem State.csr_wakeGrants (l : List (Nat × Reg)) : ({ s with csr := l } : State).wakeGrants = s.wakeGrants := rfl
@[simp] theorem State.setRaw_wakeGrants (a : Nat) (v : Reg) : (s.setRaw a v).wakeGrants = s.wakeGrants :=
    State.csr_wakeGrants s _
theorem State.csr_wakeLast (l : List (Nat × Reg)) : ({ s with csr := l } : State).wakeLast = s.wakeLast := rfl
@[simp] theorem State.setRaw_wakeLast (a : Nat) (v : Reg) : (s.setRaw a v).wakeLast = s.wakeLast :=
    State.csr_wakeLast s _
theorem State.csr_selIn (l : List (Nat × Reg)) : ({ s with csr := l } : State).selIn = s.selIn := rfl
@[simp] theorem State.setRaw_selIn (a : Nat) (v : Reg) : (s.setRaw a v).selIn = s.selIn :=
    State.csr_selIn s _
theorem State.csr_indices (l : List (Nat × Reg)) : ({ s with csr := l } : State).indices = s.indices := rfl
@[simp] theorem State.setRaw_indices (a : Nat) (v : Reg) : (s.setRaw a v).indices = s.indices :=
    State.csr_indices s _
theorem State.csr_merges (l : List (Nat × Reg)) : ({ s with csr := l } : State).merges = s.merges := rfl
@[simp] theorem State.setRaw_merges (a : Nat) (v : Reg) : (s.setRaw a v).merges = s.merges :=
    State.csr_merges s _
theorem State.csr_searches (l : List (Nat × Reg)) : ({ s with csr := l } : State).searches = s.searches := rfl
@[simp] theorem State.setRaw_searches (a : Nat) (v : Reg) : (s.setRaw a v).searches = s.searches :=
    State.csr_searches s _
theorem State.csr_coords (l : List (Nat × Reg)) : ({ s with csr := l } : State).coords = s.coords := rfl
@[simp] theorem State.setRaw_coords (a : Nat) (v : Reg) : (s.setRaw a v).coords = s.coords :=
    State.csr_coords s _
theorem State.csr_maps (l : List (Nat × Reg)) : ({ s with csr := l } : State).maps = s.maps := rfl
@[simp] theorem State.setRaw_maps (a : Nat) (v : Reg) : (s.setRaw a v).maps = s.maps :=
    State.csr_maps s _
theorem State.csr_issueSeq (l : List (Nat × Reg)) : ({ s with csr := l } : State).issueSeq = s.issueSeq := rfl
@[simp] theorem State.setRaw_issueSeq (a : Nat) (v : Reg) : (s.setRaw a v).issueSeq = s.issueSeq :=
    State.csr_issueSeq s _
theorem State.csr_gates (l : List (Nat × Reg)) : ({ s with csr := l } : State).gates = s.gates := rfl
@[simp] theorem State.setRaw_gates (a : Nat) (v : Reg) : (s.setRaw a v).gates = s.gates :=
    State.csr_gates s _
theorem State.csr_jobs (l : List (Nat × Reg)) : ({ s with csr := l } : State).jobs = s.jobs := rfl
@[simp] theorem State.setRaw_jobs (a : Nat) (v : Reg) : (s.setRaw a v).jobs = s.jobs :=
    State.csr_jobs s _
theorem State.csr_selLast (l : List (Nat × Reg)) : ({ s with csr := l } : State).selLast = s.selLast := rfl
@[simp] theorem State.setRaw_selLast (a : Nat) (v : Reg) : (s.setRaw a v).selLast = s.selLast :=
    State.csr_selLast s _
theorem State.csr_tokLast (l : List (Nat × Reg)) : ({ s with csr := l } : State).tokLast = s.tokLast := rfl
@[simp] theorem State.setRaw_tokLast (a : Nat) (v : Reg) : (s.setRaw a v).tokLast = s.tokLast :=
    State.csr_tokLast s _
theorem State.csr_engines (l : List (Nat × Reg)) : ({ s with csr := l } : State).engines = s.engines := rfl
@[simp] theorem State.setRaw_engines (a : Nat) (v : Reg) : (s.setRaw a v).engines = s.engines :=
    State.csr_engines s _
theorem State.csr_vocabs (l : List (Nat × Reg)) : ({ s with csr := l } : State).vocabs = s.vocabs := rfl
@[simp] theorem State.setRaw_vocabs (a : Nat) (v : Reg) : (s.setRaw a v).vocabs = s.vocabs :=
    State.csr_vocabs s _
theorem State.csr_grammars (l : List (Nat × Reg)) : ({ s with csr := l } : State).grammars = s.grammars := rfl
@[simp] theorem State.setRaw_grammars (a : Nat) (v : Reg) : (s.setRaw a v).grammars = s.grammars :=
    State.csr_grammars s _
theorem State.csr_seqs (l : List (Nat × Reg)) : ({ s with csr := l } : State).seqs = s.seqs := rfl
@[simp] theorem State.setRaw_seqs (a : Nat) (v : Reg) : (s.setRaw a v).seqs = s.seqs :=
    State.csr_seqs s _
theorem State.csr_seqGens (l : List (Nat × Reg)) : ({ s with csr := l } : State).seqGens = s.seqGens := rfl
@[simp] theorem State.setRaw_seqGens (a : Nat) (v : Reg) : (s.setRaw a v).seqGens = s.seqGens :=
    State.csr_seqGens s _
theorem State.csr_cool (l : List (Nat × Reg)) : ({ s with csr := l } : State).cool = s.cool := rfl
@[simp] theorem State.setRaw_cool (a : Nat) (v : Reg) : (s.setRaw a v).cool = s.cool :=
    State.csr_cool s _
theorem State.csr_prefixes (l : List (Nat × Reg)) : ({ s with csr := l } : State).prefixes = s.prefixes := rfl
@[simp] theorem State.setRaw_prefixes (a : Nat) (v : Reg) : (s.setRaw a v).prefixes = s.prefixes :=
    State.csr_prefixes s _
theorem State.csr_kvPieces (l : List (Nat × Reg)) : ({ s with csr := l } : State).kvPieces = s.kvPieces := rfl
@[simp] theorem State.setRaw_kvPieces (a : Nat) (v : Reg) : (s.setRaw a v).kvPieces = s.kvPieces :=
    State.csr_kvPieces s _
theorem State.csr_prefixGens (l : List (Nat × Reg)) : ({ s with csr := l } : State).prefixGens = s.prefixGens := rfl
@[simp] theorem State.setRaw_prefixGens (a : Nat) (v : Reg) : (s.setRaw a v).prefixGens = s.prefixGens :=
    State.csr_prefixGens s _
theorem State.csr_stores (l : List (Nat × Reg)) : ({ s with csr := l } : State).stores = s.stores := rfl
@[simp] theorem State.setRaw_stores (a : Nat) (v : Reg) : (s.setRaw a v).stores = s.stores :=
    State.csr_stores s _
theorem State.csr_variants (l : List (Nat × Reg)) : ({ s with csr := l } : State).variants = s.variants := rfl
@[simp] theorem State.setRaw_variants (a : Nat) (v : Reg) : (s.setRaw a v).variants = s.variants :=
    State.csr_variants s _
theorem State.csr_turns (l : List (Nat × Reg)) : ({ s with csr := l } : State).turns = s.turns := rfl
@[simp] theorem State.setRaw_turns (a : Nat) (v : Reg) : (s.setRaw a v).turns = s.turns :=
    State.csr_turns s _
theorem State.csr_runs (l : List (Nat × Reg)) : ({ s with csr := l } : State).runs = s.runs := rfl
@[simp] theorem State.setRaw_runs (a : Nat) (v : Reg) : (s.setRaw a v).runs = s.runs :=
    State.csr_runs s _
theorem State.csr_fetches (l : List (Nat × Reg)) : ({ s with csr := l } : State).fetches = s.fetches := rfl
@[simp] theorem State.setRaw_fetches (a : Nat) (v : Reg) : (s.setRaw a v).fetches = s.fetches :=
    State.csr_fetches s _
theorem State.csr_rags (l : List (Nat × Reg)) : ({ s with csr := l } : State).rags = s.rags := rfl
@[simp] theorem State.setRaw_rags (a : Nat) (v : Reg) : (s.setRaw a v).rags = s.rags :=
    State.csr_rags s _
theorem State.csr_tables (l : List (Nat × Reg)) : ({ s with csr := l } : State).tables = s.tables := rfl
@[simp] theorem State.setRaw_tables (a : Nat) (v : Reg) : (s.setRaw a v).tables = s.tables :=
    State.csr_tables s _
theorem State.csr_migs (l : List (Nat × Reg)) : ({ s with csr := l } : State).migs = s.migs := rfl
@[simp] theorem State.setRaw_migs (a : Nat) (v : Reg) : (s.setRaw a v).migs = s.migs :=
    State.csr_migs s _
theorem State.csr_hotJobs (l : List (Nat × Reg)) : ({ s with csr := l } : State).hotJobs = s.hotJobs := rfl
@[simp] theorem State.setRaw_hotJobs (a : Nat) (v : Reg) : (s.setRaw a v).hotJobs = s.hotJobs :=
    State.csr_hotJobs s _
theorem State.csr_embJobs (l : List (Nat × Reg)) : ({ s with csr := l } : State).embJobs = s.embJobs := rfl
@[simp] theorem State.setRaw_embJobs (a : Nat) (v : Reg) : (s.setRaw a v).embJobs = s.embJobs :=
    State.csr_embJobs s _
theorem State.csr_embLast (l : List (Nat × Reg)) : ({ s with csr := l } : State).embLast = s.embLast := rfl
@[simp] theorem State.setRaw_embLast (a : Nat) (v : Reg) : (s.setRaw a v).embLast = s.embLast :=
    State.csr_embLast s _
theorem State.csr_framed (l : List (Nat × Reg)) : ({ s with csr := l } : State).framed = s.framed := rfl
@[simp] theorem State.setRaw_framed (a : Nat) (v : Reg) : (s.setRaw a v).framed = s.framed :=
    State.csr_framed s _
theorem State.csr_egress (l : List (Nat × Reg)) : ({ s with csr := l } : State).egress = s.egress := rfl
@[simp] theorem State.setRaw_egress (a : Nat) (v : Reg) : (s.setRaw a v).egress = s.egress :=
    State.csr_egress s _
theorem State.csr_lineAt (l : List (Nat × Reg)) : ({ s with csr := l } : State).lineAt = s.lineAt := rfl
@[simp] theorem State.setRaw_lineAt (a : Nat) (v : Reg) : (s.setRaw a v).lineAt = s.lineAt :=
    State.csr_lineAt s _
theorem State.csr_served (l : List (Nat × Reg)) : ({ s with csr := l } : State).served = s.served := rfl
@[simp] theorem State.setRaw_served (a : Nat) (v : Reg) : (s.setRaw a v).served = s.served :=
    State.csr_served s _
theorem State.csr_meters (l : List (Nat × Reg)) : ({ s with csr := l } : State).meters = s.meters := rfl
@[simp] theorem State.setRaw_meters (a : Nat) (v : Reg) : (s.setRaw a v).meters = s.meters :=
    State.csr_meters s _
theorem State.csr_meterAt (l : List (Nat × Reg)) : ({ s with csr := l } : State).meterAt = s.meterAt := rfl
@[simp] theorem State.setRaw_meterAt (a : Nat) (v : Reg) : (s.setRaw a v).meterAt = s.meterAt :=
    State.csr_meterAt s _
theorem State.csr_telems (l : List (Nat × Reg)) : ({ s with csr := l } : State).telems = s.telems := rfl
@[simp] theorem State.setRaw_telems (a : Nat) (v : Reg) : (s.setRaw a v).telems = s.telems :=
    State.csr_telems s _
theorem State.csr_telemSeq (l : List (Nat × Reg)) : ({ s with csr := l } : State).telemSeq = s.telemSeq := rfl
@[simp] theorem State.setRaw_telemSeq (a : Nat) (v : Reg) : (s.setRaw a v).telemSeq = s.telemSeq :=
    State.csr_telemSeq s _
theorem State.csr_colls (l : List (Nat × Reg)) : ({ s with csr := l } : State).colls = s.colls := rfl
@[simp] theorem State.setRaw_colls (a : Nat) (v : Reg) : (s.setRaw a v).colls = s.colls :=
    State.csr_colls s _
theorem State.csr_ptp (l : List (Nat × Reg)) : ({ s with csr := l } : State).ptp = s.ptp := rfl
@[simp] theorem State.setRaw_ptp (a : Nat) (v : Reg) : (s.setRaw a v).ptp = s.ptp :=
    State.csr_ptp s _
theorem State.csr_mgmt10 (l : List (Nat × Reg)) : ({ s with csr := l } : State).mgmt10 = s.mgmt10 := rfl
@[simp] theorem State.setRaw_mgmt10 (a : Nat) (v : Reg) : (s.setRaw a v).mgmt10 = s.mgmt10 :=
    State.csr_mgmt10 s _
theorem State.csr_mgmtDown (l : List (Nat × Reg)) : ({ s with csr := l } : State).mgmtDown = s.mgmtDown := rfl
@[simp] theorem State.setRaw_mgmtDown (a : Nat) (v : Reg) : (s.setRaw a v).mgmtDown = s.mgmtDown :=
    State.csr_mgmtDown s _
theorem State.csr_pwr (l : List (Nat × Reg)) : ({ s with csr := l } : State).pwr = s.pwr := rfl
@[simp] theorem State.setRaw_pwr (a : Nat) (v : Reg) : (s.setRaw a v).pwr = s.pwr :=
    State.csr_pwr s _
theorem State.csr_cxl (l : List (Nat × Reg)) : ({ s with csr := l } : State).cxl = s.cxl := rfl
@[simp] theorem State.setRaw_cxl (a : Nat) (v : Reg) : (s.setRaw a v).cxl = s.cxl :=
    State.csr_cxl s _
theorem State.csr_flash (l : List (Nat × Reg)) : ({ s with csr := l } : State).flash = s.flash := rfl
@[simp] theorem State.setRaw_flash (a : Nat) (v : Reg) : (s.setRaw a v).flash = s.flash :=
    State.csr_flash s _
theorem State.csr_faults (l : List (Nat × Reg)) : ({ s with csr := l } : State).faults = s.faults := rfl
@[simp] theorem State.setRaw_faults (a : Nat) (v : Reg) : (s.setRaw a v).faults = s.faults :=
    State.csr_faults s _
theorem State.csr_cal (l : List (Nat × Reg)) : ({ s with csr := l } : State).cal = s.cal := rfl
@[simp] theorem State.setRaw_cal (a : Nat) (v : Reg) : (s.setRaw a v).cal = s.cal :=
    State.csr_cal s _
theorem State.csr_boot (l : List (Nat × Reg)) : ({ s with csr := l } : State).boot = s.boot := rfl
@[simp] theorem State.setRaw_boot (a : Nat) (v : Reg) : (s.setRaw a v).boot = s.boot :=
    State.csr_boot s _

/-! ### setPart -/

@[simp] theorem State.setPart_pending (p : Nat) (f : Part → Part) : (s.setPart p f).pending = s.pending := rfl
@[simp] theorem State.setPart_now (p : Nat) (f : Part → Part) : (s.setPart p f).now = s.now := rfl
@[simp] theorem State.setPart_freeCtr (p : Nat) (f : Part → Part) : (s.setPart p f).freeCtr = s.freeCtr := rfl
@[simp] theorem State.setPart_cmdSeq (p : Nat) (f : Part → Part) : (s.setPart p f).cmdSeq = s.cmdSeq := rfl
@[simp] theorem State.setPart_csr (p : Nat) (f : Part → Part) : (s.setPart p f).csr = s.csr := rfl
@[simp] theorem State.setPart_mem (p : Nat) (f : Part → Part) : (s.setPart p f).mem = s.mem := rfl
@[simp] theorem State.setPart_veil (p : Nat) (f : Part → Part) : (s.setPart p f).veil = s.veil := rfl
@[simp] theorem State.setPart_ue (p : Nat) (f : Part → Part) : (s.setPart p f).ue = s.ue := rfl
@[simp] theorem State.setPart_ce (p : Nat) (f : Part → Part) : (s.setPart p f).ce = s.ce := rfl
@[simp] theorem State.setPart_sent (p : Nat) (f : Part → Part) : (s.setPart p f).sent = s.sent := rfl
@[simp] theorem State.setPart_qps (p : Nat) (f : Part → Part) : (s.setPart p f).qps = s.qps := rfl
@[simp] theorem State.setPart_cmds (p : Nat) (f : Part → Part) : (s.setPart p f).cmds = s.cmds := rfl
@[simp] theorem State.setPart_issued (p : Nat) (f : Part → Part) : (s.setPart p f).issued = s.issued := rfl
@[simp] theorem State.setPart_fw (p : Nat) (f : Part → Part) : (s.setPart p f).fw = s.fw := rfl
@[simp] theorem State.setPart_icu (p : Nat) (f : Part → Part) : (s.setPart p f).icu = s.icu := rfl
@[simp] theorem State.setPart_parts (p : Nat) (f : Part → Part) :
    (s.setPart p f).parts = modifyAt s.parts p f := rfl
@[simp] theorem State.setPart_sec (p : Nat) (f : Part → Part) : (s.setPart p f).sec = s.sec := rfl
@[simp] theorem State.setPart_dir (p : Nat) (f : Part → Part) : (s.setPart p f).dir = s.dir := rfl
@[simp] theorem State.setPart_heap (p : Nat) (f : Part → Part) : (s.setPart p f).heap = s.heap := rfl
@[simp] theorem State.setPart_models (p : Nat) (f : Part → Part) : (s.setPart p f).models = s.models := rfl
@[simp] theorem State.setPart_runners (p : Nat) (f : Part → Part) : (s.setPart p f).runners = s.runners := rfl
@[simp] theorem State.setPart_evictRetries (p : Nat) (f : Part → Part) : (s.setPart p f).evictRetries = s.evictRetries := rfl
@[simp] theorem State.setPart_reports (p : Nat) (f : Part → Part) : (s.setPart p f).reports = s.reports := rfl
@[simp] theorem State.setPart_spn (p : Nat) (f : Part → Part) : (s.setPart p f).spn = s.spn := rfl
@[simp] theorem State.setPart_spnOut (p : Nat) (f : Part → Part) : (s.setPart p f).spnOut = s.spnOut := rfl
@[simp] theorem State.setPart_spnLog (p : Nat) (f : Part → Part) : (s.setPart p f).spnLog = s.spnLog := rfl
@[simp] theorem State.setPart_lthLog (p : Nat) (f : Part → Part) : (s.setPart p f).lthLog = s.lthLog := rfl
@[simp] theorem State.setPart_lastRead (p : Nat) (f : Part → Part) : (s.setPart p f).lastRead = s.lastRead := rfl
@[simp] theorem State.setPart_lathes (p : Nat) (f : Part → Part) : (s.setPart p f).lathes = s.lathes := rfl
@[simp] theorem State.setPart_wakes (p : Nat) (f : Part → Part) : (s.setPart p f).wakes = s.wakes := rfl
@[simp] theorem State.setPart_ramps (p : Nat) (f : Part → Part) : (s.setPart p f).ramps = s.ramps := rfl
@[simp] theorem State.setPart_wakeGrants (p : Nat) (f : Part → Part) : (s.setPart p f).wakeGrants = s.wakeGrants := rfl
@[simp] theorem State.setPart_wakeLast (p : Nat) (f : Part → Part) : (s.setPart p f).wakeLast = s.wakeLast := rfl
@[simp] theorem State.setPart_selIn (p : Nat) (f : Part → Part) : (s.setPart p f).selIn = s.selIn := rfl
@[simp] theorem State.setPart_indices (p : Nat) (f : Part → Part) : (s.setPart p f).indices = s.indices := rfl
@[simp] theorem State.setPart_merges (p : Nat) (f : Part → Part) : (s.setPart p f).merges = s.merges := rfl
@[simp] theorem State.setPart_searches (p : Nat) (f : Part → Part) : (s.setPart p f).searches = s.searches := rfl
@[simp] theorem State.setPart_coords (p : Nat) (f : Part → Part) : (s.setPart p f).coords = s.coords := rfl
@[simp] theorem State.setPart_maps (p : Nat) (f : Part → Part) : (s.setPart p f).maps = s.maps := rfl
@[simp] theorem State.setPart_issueSeq (p : Nat) (f : Part → Part) : (s.setPart p f).issueSeq = s.issueSeq := rfl
@[simp] theorem State.setPart_gates (p : Nat) (f : Part → Part) : (s.setPart p f).gates = s.gates := rfl
@[simp] theorem State.setPart_jobs (p : Nat) (f : Part → Part) : (s.setPart p f).jobs = s.jobs := rfl
@[simp] theorem State.setPart_selLast (p : Nat) (f : Part → Part) : (s.setPart p f).selLast = s.selLast := rfl
@[simp] theorem State.setPart_tokLast (p : Nat) (f : Part → Part) : (s.setPart p f).tokLast = s.tokLast := rfl
@[simp] theorem State.setPart_engines (p : Nat) (f : Part → Part) : (s.setPart p f).engines = s.engines := rfl
@[simp] theorem State.setPart_vocabs (p : Nat) (f : Part → Part) : (s.setPart p f).vocabs = s.vocabs := rfl
@[simp] theorem State.setPart_grammars (p : Nat) (f : Part → Part) : (s.setPart p f).grammars = s.grammars := rfl
@[simp] theorem State.setPart_seqs (p : Nat) (f : Part → Part) : (s.setPart p f).seqs = s.seqs := rfl
@[simp] theorem State.setPart_seqGens (p : Nat) (f : Part → Part) : (s.setPart p f).seqGens = s.seqGens := rfl
@[simp] theorem State.setPart_cool (p : Nat) (f : Part → Part) : (s.setPart p f).cool = s.cool := rfl
@[simp] theorem State.setPart_prefixes (p : Nat) (f : Part → Part) : (s.setPart p f).prefixes = s.prefixes := rfl
@[simp] theorem State.setPart_kvPieces (p : Nat) (f : Part → Part) : (s.setPart p f).kvPieces = s.kvPieces := rfl
@[simp] theorem State.setPart_prefixGens (p : Nat) (f : Part → Part) : (s.setPart p f).prefixGens = s.prefixGens := rfl
@[simp] theorem State.setPart_stores (p : Nat) (f : Part → Part) : (s.setPart p f).stores = s.stores := rfl
@[simp] theorem State.setPart_variants (p : Nat) (f : Part → Part) : (s.setPart p f).variants = s.variants := rfl
@[simp] theorem State.setPart_trie (p : Nat) (f : Part → Part) : (s.setPart p f).trie = s.trie := rfl
@[simp] theorem State.setPart_turns (p : Nat) (f : Part → Part) : (s.setPart p f).turns = s.turns := rfl
@[simp] theorem State.setPart_runs (p : Nat) (f : Part → Part) : (s.setPart p f).runs = s.runs := rfl
@[simp] theorem State.setPart_fetches (p : Nat) (f : Part → Part) : (s.setPart p f).fetches = s.fetches := rfl
@[simp] theorem State.setPart_rags (p : Nat) (f : Part → Part) : (s.setPart p f).rags = s.rags := rfl
@[simp] theorem State.setPart_tables (p : Nat) (f : Part → Part) : (s.setPart p f).tables = s.tables := rfl
@[simp] theorem State.setPart_migs (p : Nat) (f : Part → Part) : (s.setPart p f).migs = s.migs := rfl
@[simp] theorem State.setPart_hotJobs (p : Nat) (f : Part → Part) : (s.setPart p f).hotJobs = s.hotJobs := rfl
@[simp] theorem State.setPart_embJobs (p : Nat) (f : Part → Part) : (s.setPart p f).embJobs = s.embJobs := rfl
@[simp] theorem State.setPart_embLast (p : Nat) (f : Part → Part) : (s.setPart p f).embLast = s.embLast := rfl
@[simp] theorem State.setPart_framed (p : Nat) (f : Part → Part) : (s.setPart p f).framed = s.framed := rfl
@[simp] theorem State.setPart_egress (p : Nat) (f : Part → Part) : (s.setPart p f).egress = s.egress := rfl
@[simp] theorem State.setPart_lineAt (p : Nat) (f : Part → Part) : (s.setPart p f).lineAt = s.lineAt := rfl
@[simp] theorem State.setPart_served (p : Nat) (f : Part → Part) : (s.setPart p f).served = s.served := rfl
@[simp] theorem State.setPart_meters (p : Nat) (f : Part → Part) : (s.setPart p f).meters = s.meters := rfl
@[simp] theorem State.setPart_meterAt (p : Nat) (f : Part → Part) : (s.setPart p f).meterAt = s.meterAt := rfl
@[simp] theorem State.setPart_telems (p : Nat) (f : Part → Part) : (s.setPart p f).telems = s.telems := rfl
@[simp] theorem State.setPart_telemSeq (p : Nat) (f : Part → Part) : (s.setPart p f).telemSeq = s.telemSeq := rfl
@[simp] theorem State.setPart_colls (p : Nat) (f : Part → Part) : (s.setPart p f).colls = s.colls := rfl
@[simp] theorem State.setPart_ptp (p : Nat) (f : Part → Part) : (s.setPart p f).ptp = s.ptp := rfl
@[simp] theorem State.setPart_mgmt10 (p : Nat) (f : Part → Part) : (s.setPart p f).mgmt10 = s.mgmt10 := rfl
@[simp] theorem State.setPart_mgmtDown (p : Nat) (f : Part → Part) : (s.setPart p f).mgmtDown = s.mgmtDown := rfl
@[simp] theorem State.setPart_pwr (p : Nat) (f : Part → Part) : (s.setPart p f).pwr = s.pwr := rfl
@[simp] theorem State.setPart_cxl (p : Nat) (f : Part → Part) : (s.setPart p f).cxl = s.cxl := rfl
@[simp] theorem State.setPart_flash (p : Nat) (f : Part → Part) : (s.setPart p f).flash = s.flash := rfl
@[simp] theorem State.setPart_faults (p : Nat) (f : Part → Part) : (s.setPart p f).faults = s.faults := rfl
@[simp] theorem State.setPart_cal (p : Nat) (f : Part → Part) : (s.setPart p f).cal = s.cal := rfl
@[simp] theorem State.setPart_boot (p : Nat) (f : Part → Part) : (s.setPart p f).boot = s.boot := rfl

/-! ### report -/

@[simp] theorem State.report_pending (f : FaultReport) : (s.report f).pending = s.pending := rfl
@[simp] theorem State.report_now (f : FaultReport) : (s.report f).now = s.now := rfl
@[simp] theorem State.report_freeCtr (f : FaultReport) : (s.report f).freeCtr = s.freeCtr := rfl
@[simp] theorem State.report_cmdSeq (f : FaultReport) : (s.report f).cmdSeq = s.cmdSeq := rfl
@[simp] theorem State.report_csr (f : FaultReport) : (s.report f).csr = s.csr := rfl
@[simp] theorem State.report_mem (f : FaultReport) : (s.report f).mem = s.mem := rfl
@[simp] theorem State.report_veil (f : FaultReport) : (s.report f).veil = s.veil := rfl
@[simp] theorem State.report_ue (f : FaultReport) : (s.report f).ue = s.ue := rfl
@[simp] theorem State.report_ce (f : FaultReport) : (s.report f).ce = s.ce := rfl
@[simp] theorem State.report_sent (f : FaultReport) : (s.report f).sent = s.sent := rfl
@[simp] theorem State.report_qps (f : FaultReport) : (s.report f).qps = s.qps := rfl
@[simp] theorem State.report_cmds (f : FaultReport) : (s.report f).cmds = s.cmds := rfl
@[simp] theorem State.report_issued (f : FaultReport) : (s.report f).issued = s.issued := rfl
@[simp] theorem State.report_fw (f : FaultReport) : (s.report f).fw = s.fw := rfl
@[simp] theorem State.report_icu (f : FaultReport) : (s.report f).icu = s.icu := rfl
@[simp] theorem State.report_parts (f : FaultReport) : (s.report f).parts = s.parts := rfl
@[simp] theorem State.report_sec (f : FaultReport) : (s.report f).sec = s.sec := rfl
@[simp] theorem State.report_dir (f : FaultReport) : (s.report f).dir = s.dir := rfl
@[simp] theorem State.report_heap (f : FaultReport) : (s.report f).heap = s.heap := rfl
@[simp] theorem State.report_models (f : FaultReport) : (s.report f).models = s.models := rfl
@[simp] theorem State.report_runners (f : FaultReport) : (s.report f).runners = s.runners := rfl
@[simp] theorem State.report_evictRetries (f : FaultReport) : (s.report f).evictRetries = s.evictRetries := rfl
@[simp] theorem State.report_reports (f : FaultReport) :
    (s.report f).reports = s.reports ++ [(f, s.now)] := rfl
@[simp] theorem State.report_spn (f : FaultReport) : (s.report f).spn = s.spn := rfl
@[simp] theorem State.report_spnOut (f : FaultReport) : (s.report f).spnOut = s.spnOut := rfl
@[simp] theorem State.report_spnLog (f : FaultReport) : (s.report f).spnLog = s.spnLog := rfl
@[simp] theorem State.report_lthLog (f : FaultReport) : (s.report f).lthLog = s.lthLog := rfl
@[simp] theorem State.report_lastRead (f : FaultReport) : (s.report f).lastRead = s.lastRead := rfl
@[simp] theorem State.report_lathes (f : FaultReport) : (s.report f).lathes = s.lathes := rfl
@[simp] theorem State.report_wakes (f : FaultReport) : (s.report f).wakes = s.wakes := rfl
@[simp] theorem State.report_ramps (f : FaultReport) : (s.report f).ramps = s.ramps := rfl
@[simp] theorem State.report_wakeGrants (f : FaultReport) : (s.report f).wakeGrants = s.wakeGrants := rfl
@[simp] theorem State.report_wakeLast (f : FaultReport) : (s.report f).wakeLast = s.wakeLast := rfl
@[simp] theorem State.report_selIn (f : FaultReport) : (s.report f).selIn = s.selIn := rfl
@[simp] theorem State.report_indices (f : FaultReport) : (s.report f).indices = s.indices := rfl
@[simp] theorem State.report_merges (f : FaultReport) : (s.report f).merges = s.merges := rfl
@[simp] theorem State.report_searches (f : FaultReport) : (s.report f).searches = s.searches := rfl
@[simp] theorem State.report_coords (f : FaultReport) : (s.report f).coords = s.coords := rfl
@[simp] theorem State.report_maps (f : FaultReport) : (s.report f).maps = s.maps := rfl
@[simp] theorem State.report_issueSeq (f : FaultReport) : (s.report f).issueSeq = s.issueSeq := rfl
@[simp] theorem State.report_gates (f : FaultReport) : (s.report f).gates = s.gates := rfl
@[simp] theorem State.report_jobs (f : FaultReport) : (s.report f).jobs = s.jobs := rfl
@[simp] theorem State.report_selLast (f : FaultReport) : (s.report f).selLast = s.selLast := rfl
@[simp] theorem State.report_tokLast (f : FaultReport) : (s.report f).tokLast = s.tokLast := rfl
@[simp] theorem State.report_engines (f : FaultReport) : (s.report f).engines = s.engines := rfl
@[simp] theorem State.report_vocabs (f : FaultReport) : (s.report f).vocabs = s.vocabs := rfl
@[simp] theorem State.report_grammars (f : FaultReport) : (s.report f).grammars = s.grammars := rfl
@[simp] theorem State.report_seqs (f : FaultReport) : (s.report f).seqs = s.seqs := rfl
@[simp] theorem State.report_seqGens (f : FaultReport) : (s.report f).seqGens = s.seqGens := rfl
@[simp] theorem State.report_cool (f : FaultReport) : (s.report f).cool = s.cool := rfl
@[simp] theorem State.report_prefixes (f : FaultReport) : (s.report f).prefixes = s.prefixes := rfl
@[simp] theorem State.report_kvPieces (f : FaultReport) : (s.report f).kvPieces = s.kvPieces := rfl
@[simp] theorem State.report_prefixGens (f : FaultReport) : (s.report f).prefixGens = s.prefixGens := rfl
@[simp] theorem State.report_stores (f : FaultReport) : (s.report f).stores = s.stores := rfl
@[simp] theorem State.report_variants (f : FaultReport) : (s.report f).variants = s.variants := rfl
@[simp] theorem State.report_trie (f : FaultReport) : (s.report f).trie = s.trie := rfl
@[simp] theorem State.report_turns (f : FaultReport) : (s.report f).turns = s.turns := rfl
@[simp] theorem State.report_runs (f : FaultReport) : (s.report f).runs = s.runs := rfl
@[simp] theorem State.report_fetches (f : FaultReport) : (s.report f).fetches = s.fetches := rfl
@[simp] theorem State.report_rags (f : FaultReport) : (s.report f).rags = s.rags := rfl
@[simp] theorem State.report_tables (f : FaultReport) : (s.report f).tables = s.tables := rfl
@[simp] theorem State.report_migs (f : FaultReport) : (s.report f).migs = s.migs := rfl
@[simp] theorem State.report_hotJobs (f : FaultReport) : (s.report f).hotJobs = s.hotJobs := rfl
@[simp] theorem State.report_embJobs (f : FaultReport) : (s.report f).embJobs = s.embJobs := rfl
@[simp] theorem State.report_embLast (f : FaultReport) : (s.report f).embLast = s.embLast := rfl
@[simp] theorem State.report_framed (f : FaultReport) : (s.report f).framed = s.framed := rfl
@[simp] theorem State.report_egress (f : FaultReport) : (s.report f).egress = s.egress := rfl
@[simp] theorem State.report_lineAt (f : FaultReport) : (s.report f).lineAt = s.lineAt := rfl
@[simp] theorem State.report_served (f : FaultReport) : (s.report f).served = s.served := rfl
@[simp] theorem State.report_meters (f : FaultReport) : (s.report f).meters = s.meters := rfl
@[simp] theorem State.report_meterAt (f : FaultReport) : (s.report f).meterAt = s.meterAt := rfl
@[simp] theorem State.report_telems (f : FaultReport) : (s.report f).telems = s.telems := rfl
@[simp] theorem State.report_telemSeq (f : FaultReport) : (s.report f).telemSeq = s.telemSeq := rfl
@[simp] theorem State.report_colls (f : FaultReport) : (s.report f).colls = s.colls := rfl
@[simp] theorem State.report_ptp (f : FaultReport) : (s.report f).ptp = s.ptp := rfl
@[simp] theorem State.report_mgmt10 (f : FaultReport) : (s.report f).mgmt10 = s.mgmt10 := rfl
@[simp] theorem State.report_mgmtDown (f : FaultReport) : (s.report f).mgmtDown = s.mgmtDown := rfl
@[simp] theorem State.report_pwr (f : FaultReport) : (s.report f).pwr = s.pwr := rfl
@[simp] theorem State.report_cxl (f : FaultReport) : (s.report f).cxl = s.cxl := rfl
@[simp] theorem State.report_flash (f : FaultReport) : (s.report f).flash = s.flash := rfl
@[simp] theorem State.report_faults (f : FaultReport) : (s.report f).faults = s.faults := rfl
@[simp] theorem State.report_cal (f : FaultReport) : (s.report f).cal = s.cal := rfl
@[simp] theorem State.report_boot (f : FaultReport) : (s.report f).boot = s.boot := rfl

/-! ### zeroRange -/

@[simp] theorem State.zeroRange_pending (a n : Nat) : (s.zeroRange a n).pending = s.pending := rfl
@[simp] theorem State.zeroRange_now (a n : Nat) : (s.zeroRange a n).now = s.now := rfl
@[simp] theorem State.zeroRange_freeCtr (a n : Nat) : (s.zeroRange a n).freeCtr = s.freeCtr := rfl
@[simp] theorem State.zeroRange_cmdSeq (a n : Nat) : (s.zeroRange a n).cmdSeq = s.cmdSeq := rfl
@[simp] theorem State.zeroRange_csr (a n : Nat) : (s.zeroRange a n).csr = s.csr := rfl
@[simp] theorem State.zeroRange_mem (a n : Nat) :
    (s.zeroRange a n).mem = s.mem.filter (fun e => !(a ≤ e.1 && e.1 < a + n)) := rfl
@[simp] theorem State.zeroRange_ue (a n : Nat) :
    (s.zeroRange a n).ue = s.ue.filter (fun b => !burstWhole a n b) := rfl
@[simp] theorem State.zeroRange_ce (a n : Nat) :
    (s.zeroRange a n).ce = s.ce.filter (fun b => !burstWhole a n b) := rfl
@[simp] theorem State.zeroRange_sent (a n : Nat) : (s.zeroRange a n).sent = s.sent := rfl
@[simp] theorem State.zeroRange_qps (a n : Nat) : (s.zeroRange a n).qps = s.qps := rfl
@[simp] theorem State.zeroRange_cmds (a n : Nat) : (s.zeroRange a n).cmds = s.cmds := rfl
@[simp] theorem State.zeroRange_issued (a n : Nat) : (s.zeroRange a n).issued = s.issued := rfl
@[simp] theorem State.zeroRange_fw (a n : Nat) : (s.zeroRange a n).fw = s.fw := rfl
@[simp] theorem State.zeroRange_icu (a n : Nat) : (s.zeroRange a n).icu = s.icu := rfl
@[simp] theorem State.zeroRange_parts (a n : Nat) : (s.zeroRange a n).parts = s.parts := rfl
@[simp] theorem State.zeroRange_sec (a n : Nat) : (s.zeroRange a n).sec = s.sec := rfl
@[simp] theorem State.zeroRange_dir (a n : Nat) : (s.zeroRange a n).dir = s.dir := rfl
@[simp] theorem State.zeroRange_heap (a n : Nat) : (s.zeroRange a n).heap = s.heap := rfl
@[simp] theorem State.zeroRange_models (a n : Nat) : (s.zeroRange a n).models = s.models := rfl
@[simp] theorem State.zeroRange_runners (a n : Nat) : (s.zeroRange a n).runners = s.runners := rfl
@[simp] theorem State.zeroRange_evictRetries (a n : Nat) : (s.zeroRange a n).evictRetries = s.evictRetries := rfl
@[simp] theorem State.zeroRange_reports (a n : Nat) : (s.zeroRange a n).reports = s.reports := rfl
@[simp] theorem State.zeroRange_spn (a n : Nat) : (s.zeroRange a n).spn = s.spn := rfl
@[simp] theorem State.zeroRange_spnOut (a n : Nat) : (s.zeroRange a n).spnOut = s.spnOut := rfl
@[simp] theorem State.zeroRange_spnLog (a n : Nat) : (s.zeroRange a n).spnLog = s.spnLog := rfl
@[simp] theorem State.zeroRange_lthLog (a n : Nat) : (s.zeroRange a n).lthLog = s.lthLog := rfl
@[simp] theorem State.zeroRange_lastRead (a n : Nat) : (s.zeroRange a n).lastRead = s.lastRead := rfl
@[simp] theorem State.zeroRange_lathes (a n : Nat) : (s.zeroRange a n).lathes = s.lathes := rfl
@[simp] theorem State.zeroRange_wakes (a n : Nat) : (s.zeroRange a n).wakes = s.wakes := rfl
@[simp] theorem State.zeroRange_ramps (a n : Nat) : (s.zeroRange a n).ramps = s.ramps := rfl
@[simp] theorem State.zeroRange_wakeGrants (a n : Nat) : (s.zeroRange a n).wakeGrants = s.wakeGrants := rfl
@[simp] theorem State.zeroRange_wakeLast (a n : Nat) : (s.zeroRange a n).wakeLast = s.wakeLast := rfl
@[simp] theorem State.zeroRange_selIn (a n : Nat) : (s.zeroRange a n).selIn = s.selIn := rfl
@[simp] theorem State.zeroRange_indices (a n : Nat) : (s.zeroRange a n).indices = s.indices := rfl
@[simp] theorem State.zeroRange_merges (a n : Nat) : (s.zeroRange a n).merges = s.merges := rfl
@[simp] theorem State.zeroRange_searches (a n : Nat) : (s.zeroRange a n).searches = s.searches := rfl
@[simp] theorem State.zeroRange_coords (a n : Nat) : (s.zeroRange a n).coords = s.coords := rfl
@[simp] theorem State.zeroRange_maps (a n : Nat) : (s.zeroRange a n).maps = s.maps := rfl
@[simp] theorem State.zeroRange_issueSeq (a n : Nat) : (s.zeroRange a n).issueSeq = s.issueSeq := rfl
@[simp] theorem State.zeroRange_gates (a n : Nat) : (s.zeroRange a n).gates = s.gates := rfl
@[simp] theorem State.zeroRange_jobs (a n : Nat) : (s.zeroRange a n).jobs = s.jobs := rfl
@[simp] theorem State.zeroRange_selLast (a n : Nat) : (s.zeroRange a n).selLast = s.selLast := rfl
@[simp] theorem State.zeroRange_tokLast (a n : Nat) : (s.zeroRange a n).tokLast = s.tokLast := rfl
@[simp] theorem State.zeroRange_engines (a n : Nat) : (s.zeroRange a n).engines = s.engines := rfl
@[simp] theorem State.zeroRange_vocabs (a n : Nat) : (s.zeroRange a n).vocabs = s.vocabs := rfl
@[simp] theorem State.zeroRange_grammars (a n : Nat) : (s.zeroRange a n).grammars = s.grammars := rfl
@[simp] theorem State.zeroRange_seqs (a n : Nat) : (s.zeroRange a n).seqs = s.seqs := rfl
@[simp] theorem State.zeroRange_seqGens (a n : Nat) : (s.zeroRange a n).seqGens = s.seqGens := rfl
@[simp] theorem State.zeroRange_cool (a n : Nat) : (s.zeroRange a n).cool = s.cool := rfl
@[simp] theorem State.zeroRange_prefixes (a n : Nat) : (s.zeroRange a n).prefixes = s.prefixes := rfl
@[simp] theorem State.zeroRange_kvPieces (a n : Nat) : (s.zeroRange a n).kvPieces = s.kvPieces := rfl
@[simp] theorem State.zeroRange_prefixGens (a n : Nat) : (s.zeroRange a n).prefixGens = s.prefixGens := rfl
@[simp] theorem State.zeroRange_stores (a n : Nat) : (s.zeroRange a n).stores = s.stores := rfl
@[simp] theorem State.zeroRange_variants (a n : Nat) : (s.zeroRange a n).variants = s.variants := rfl
@[simp] theorem State.zeroRange_trie (a n : Nat) : (s.zeroRange a n).trie = s.trie := rfl
@[simp] theorem State.zeroRange_turns (a n : Nat) : (s.zeroRange a n).turns = s.turns := rfl
@[simp] theorem State.zeroRange_runs (a n : Nat) : (s.zeroRange a n).runs = s.runs := rfl
@[simp] theorem State.zeroRange_fetches (a n : Nat) : (s.zeroRange a n).fetches = s.fetches := rfl
@[simp] theorem State.zeroRange_rags (a n : Nat) : (s.zeroRange a n).rags = s.rags := rfl
@[simp] theorem State.zeroRange_tables (a n : Nat) : (s.zeroRange a n).tables = s.tables := rfl
@[simp] theorem State.zeroRange_migs (a n : Nat) : (s.zeroRange a n).migs = s.migs := rfl
@[simp] theorem State.zeroRange_hotJobs (a n : Nat) : (s.zeroRange a n).hotJobs = s.hotJobs := rfl
@[simp] theorem State.zeroRange_embJobs (a n : Nat) : (s.zeroRange a n).embJobs = s.embJobs := rfl
@[simp] theorem State.zeroRange_embLast (a n : Nat) : (s.zeroRange a n).embLast = s.embLast := rfl
@[simp] theorem State.zeroRange_framed (a n : Nat) : (s.zeroRange a n).framed = s.framed := rfl
@[simp] theorem State.zeroRange_egress (a n : Nat) : (s.zeroRange a n).egress = s.egress := rfl
@[simp] theorem State.zeroRange_lineAt (a n : Nat) : (s.zeroRange a n).lineAt = s.lineAt := rfl
@[simp] theorem State.zeroRange_served (a n : Nat) : (s.zeroRange a n).served = s.served := rfl
@[simp] theorem State.zeroRange_meters (a n : Nat) : (s.zeroRange a n).meters = s.meters := rfl
@[simp] theorem State.zeroRange_meterAt (a n : Nat) : (s.zeroRange a n).meterAt = s.meterAt := rfl
@[simp] theorem State.zeroRange_telems (a n : Nat) : (s.zeroRange a n).telems = s.telems := rfl
@[simp] theorem State.zeroRange_telemSeq (a n : Nat) : (s.zeroRange a n).telemSeq = s.telemSeq := rfl
@[simp] theorem State.zeroRange_colls (a n : Nat) : (s.zeroRange a n).colls = s.colls := rfl
@[simp] theorem State.zeroRange_ptp (a n : Nat) : (s.zeroRange a n).ptp = s.ptp := rfl
@[simp] theorem State.zeroRange_mgmt10 (a n : Nat) : (s.zeroRange a n).mgmt10 = s.mgmt10 := rfl
@[simp] theorem State.zeroRange_mgmtDown (a n : Nat) : (s.zeroRange a n).mgmtDown = s.mgmtDown := rfl
@[simp] theorem State.zeroRange_pwr (a n : Nat) : (s.zeroRange a n).pwr = s.pwr := rfl
@[simp] theorem State.zeroRange_cxl (a n : Nat) : (s.zeroRange a n).cxl = s.cxl := rfl
@[simp] theorem State.zeroRange_flash (a n : Nat) : (s.zeroRange a n).flash = s.flash := rfl
@[simp] theorem State.zeroRange_faults (a n : Nat) : (s.zeroRange a n).faults = s.faults := rfl
@[simp] theorem State.zeroRange_cal (a n : Nat) : (s.zeroRange a n).cal = s.cal := rfl
@[simp] theorem State.zeroRange_boot (a n : Nat) : (s.zeroRange a n).boot = s.boot := rfl

/-! ### tick -/

@[simp] theorem State.tick_pending : (s.tick).pending = s.pending := rfl
@[simp] theorem State.tick_now : (s.tick).now = s.now := rfl
@[simp] theorem State.tick_freeCtr :
    (s.tick).freeCtr = s.freeCtr + 1 := rfl
@[simp] theorem State.tick_cmdSeq : (s.tick).cmdSeq = s.cmdSeq := rfl
@[simp] theorem State.tick_csr : (s.tick).csr = s.csr := rfl
@[simp] theorem State.tick_mem : (s.tick).mem = s.mem := rfl
@[simp] theorem State.tick_veil : (s.tick).veil = s.veil := rfl
@[simp] theorem State.tick_ue : (s.tick).ue = s.ue := rfl
@[simp] theorem State.tick_ce : (s.tick).ce = s.ce := rfl
@[simp] theorem State.tick_sent : (s.tick).sent = s.sent := rfl
@[simp] theorem State.tick_qps : (s.tick).qps = s.qps := rfl
@[simp] theorem State.tick_cmds : (s.tick).cmds = s.cmds := rfl
@[simp] theorem State.tick_issued : (s.tick).issued = s.issued := rfl
@[simp] theorem State.tick_fw : (s.tick).fw = s.fw := rfl
@[simp] theorem State.tick_icu : (s.tick).icu = s.icu := rfl
@[simp] theorem State.tick_parts : (s.tick).parts = s.parts := rfl
@[simp] theorem State.tick_sec : (s.tick).sec = s.sec := rfl
@[simp] theorem State.tick_dir : (s.tick).dir = s.dir := rfl
@[simp] theorem State.tick_heap : (s.tick).heap = s.heap := rfl
@[simp] theorem State.tick_models : (s.tick).models = s.models := rfl
@[simp] theorem State.tick_runners : (s.tick).runners = s.runners := rfl
@[simp] theorem State.tick_evictRetries : (s.tick).evictRetries = s.evictRetries := rfl
@[simp] theorem State.tick_reports : (s.tick).reports = s.reports := rfl
@[simp] theorem State.tick_spn : (s.tick).spn = s.spn := rfl
@[simp] theorem State.tick_spnOut : (s.tick).spnOut = s.spnOut := rfl
@[simp] theorem State.tick_spnLog : (s.tick).spnLog = s.spnLog := rfl
@[simp] theorem State.tick_lthLog : (s.tick).lthLog = s.lthLog := rfl
@[simp] theorem State.tick_lastRead : (s.tick).lastRead = s.lastRead := rfl
@[simp] theorem State.tick_lathes : (s.tick).lathes = s.lathes := rfl
@[simp] theorem State.tick_wakes : (s.tick).wakes = s.wakes := rfl
@[simp] theorem State.tick_ramps : (s.tick).ramps = s.ramps := rfl
@[simp] theorem State.tick_wakeGrants : (s.tick).wakeGrants = s.wakeGrants := rfl
@[simp] theorem State.tick_wakeLast : (s.tick).wakeLast = s.wakeLast := rfl
@[simp] theorem State.tick_selIn : (s.tick).selIn = s.selIn := rfl
@[simp] theorem State.tick_indices : (s.tick).indices = s.indices := rfl
@[simp] theorem State.tick_merges : (s.tick).merges = s.merges := rfl
@[simp] theorem State.tick_searches : (s.tick).searches = s.searches := rfl
@[simp] theorem State.tick_coords : (s.tick).coords = s.coords := rfl
@[simp] theorem State.tick_maps : (s.tick).maps = s.maps := rfl
@[simp] theorem State.tick_issueSeq : (s.tick).issueSeq = s.issueSeq := rfl
@[simp] theorem State.tick_gates : (s.tick).gates = s.gates := rfl
@[simp] theorem State.tick_jobs : (s.tick).jobs = s.jobs := rfl
@[simp] theorem State.tick_selLast : (s.tick).selLast = s.selLast := rfl
@[simp] theorem State.tick_tokLast : (s.tick).tokLast = s.tokLast := rfl
@[simp] theorem State.tick_engines : (s.tick).engines = s.engines := rfl
@[simp] theorem State.tick_vocabs : (s.tick).vocabs = s.vocabs := rfl
@[simp] theorem State.tick_grammars : (s.tick).grammars = s.grammars := rfl
@[simp] theorem State.tick_seqs : (s.tick).seqs = s.seqs := rfl
@[simp] theorem State.tick_seqGens : (s.tick).seqGens = s.seqGens := rfl
@[simp] theorem State.tick_cool : (s.tick).cool = s.cool := rfl
@[simp] theorem State.tick_prefixes : (s.tick).prefixes = s.prefixes := rfl
@[simp] theorem State.tick_kvPieces : (s.tick).kvPieces = s.kvPieces := rfl
@[simp] theorem State.tick_prefixGens : (s.tick).prefixGens = s.prefixGens := rfl
@[simp] theorem State.tick_stores : (s.tick).stores = s.stores := rfl
@[simp] theorem State.tick_variants : (s.tick).variants = s.variants := rfl
@[simp] theorem State.tick_trie : (s.tick).trie = s.trie := rfl
@[simp] theorem State.tick_turns : (s.tick).turns = s.turns := rfl
@[simp] theorem State.tick_runs : (s.tick).runs = s.runs := rfl
@[simp] theorem State.tick_fetches : (s.tick).fetches = s.fetches := rfl
@[simp] theorem State.tick_rags : (s.tick).rags = s.rags := rfl
@[simp] theorem State.tick_tables : (s.tick).tables = s.tables := rfl
@[simp] theorem State.tick_migs : (s.tick).migs = s.migs := rfl
@[simp] theorem State.tick_hotJobs : (s.tick).hotJobs = s.hotJobs := rfl
@[simp] theorem State.tick_embJobs : (s.tick).embJobs = s.embJobs := rfl
@[simp] theorem State.tick_embLast : (s.tick).embLast = s.embLast := rfl
@[simp] theorem State.tick_framed : (s.tick).framed = s.framed := rfl
@[simp] theorem State.tick_egress : (s.tick).egress = s.egress := rfl
@[simp] theorem State.tick_lineAt : (s.tick).lineAt = s.lineAt := rfl
@[simp] theorem State.tick_served : (s.tick).served = s.served := rfl
@[simp] theorem State.tick_meters : (s.tick).meters = s.meters := rfl
@[simp] theorem State.tick_meterAt : (s.tick).meterAt = s.meterAt := rfl
@[simp] theorem State.tick_telems : (s.tick).telems = s.telems := rfl
@[simp] theorem State.tick_telemSeq : (s.tick).telemSeq = s.telemSeq := rfl
@[simp] theorem State.tick_colls : (s.tick).colls = s.colls := rfl
@[simp] theorem State.tick_ptp : (s.tick).ptp = s.ptp := rfl
@[simp] theorem State.tick_mgmt10 : (s.tick).mgmt10 = s.mgmt10 := rfl
@[simp] theorem State.tick_mgmtDown : (s.tick).mgmtDown = s.mgmtDown := rfl
@[simp] theorem State.tick_pwr : (s.tick).pwr = s.pwr := rfl
@[simp] theorem State.tick_cxl : (s.tick).cxl = s.cxl := rfl
@[simp] theorem State.tick_flash : (s.tick).flash = s.flash := rfl
@[simp] theorem State.tick_faults : (s.tick).faults = s.faults := rfl
@[simp] theorem State.tick_cal : (s.tick).cal = s.cal := rfl
@[simp] theorem State.tick_boot : (s.tick).boot = s.boot := rfl

/-! ### setQp -/

@[simp] theorem State.setQp_pending (i : Nat) (f : Qp → Qp) : (s.setQp i f).pending = s.pending := rfl
@[simp] theorem State.setQp_now (i : Nat) (f : Qp → Qp) : (s.setQp i f).now = s.now := rfl
@[simp] theorem State.setQp_freeCtr (i : Nat) (f : Qp → Qp) : (s.setQp i f).freeCtr = s.freeCtr := rfl
@[simp] theorem State.setQp_cmdSeq (i : Nat) (f : Qp → Qp) : (s.setQp i f).cmdSeq = s.cmdSeq := rfl
@[simp] theorem State.setQp_csr (i : Nat) (f : Qp → Qp) : (s.setQp i f).csr = s.csr := rfl
@[simp] theorem State.setQp_mem (i : Nat) (f : Qp → Qp) : (s.setQp i f).mem = s.mem := rfl
@[simp] theorem State.setQp_veil (i : Nat) (f : Qp → Qp) : (s.setQp i f).veil = s.veil := rfl
@[simp] theorem State.setQp_ue (i : Nat) (f : Qp → Qp) : (s.setQp i f).ue = s.ue := rfl
@[simp] theorem State.setQp_ce (i : Nat) (f : Qp → Qp) : (s.setQp i f).ce = s.ce := rfl
@[simp] theorem State.setQp_sent (i : Nat) (f : Qp → Qp) : (s.setQp i f).sent = s.sent := rfl
@[simp] theorem State.setQp_qps (i : Nat) (f : Qp → Qp) :
    (s.setQp i f).qps = updateWhere s.qps (fun q => q.index == i) f := rfl
@[simp] theorem State.setQp_cmds (i : Nat) (f : Qp → Qp) : (s.setQp i f).cmds = s.cmds := rfl
@[simp] theorem State.setQp_issued (i : Nat) (f : Qp → Qp) : (s.setQp i f).issued = s.issued := rfl
@[simp] theorem State.setQp_fw (i : Nat) (f : Qp → Qp) : (s.setQp i f).fw = s.fw := rfl
@[simp] theorem State.setQp_icu (i : Nat) (f : Qp → Qp) : (s.setQp i f).icu = s.icu := rfl
@[simp] theorem State.setQp_parts (i : Nat) (f : Qp → Qp) : (s.setQp i f).parts = s.parts := rfl
@[simp] theorem State.setQp_sec (i : Nat) (f : Qp → Qp) : (s.setQp i f).sec = s.sec := rfl
@[simp] theorem State.setQp_dir (i : Nat) (f : Qp → Qp) : (s.setQp i f).dir = s.dir := rfl
@[simp] theorem State.setQp_heap (i : Nat) (f : Qp → Qp) : (s.setQp i f).heap = s.heap := rfl
@[simp] theorem State.setQp_models (i : Nat) (f : Qp → Qp) : (s.setQp i f).models = s.models := rfl
@[simp] theorem State.setQp_runners (i : Nat) (f : Qp → Qp) : (s.setQp i f).runners = s.runners := rfl
@[simp] theorem State.setQp_evictRetries (i : Nat) (f : Qp → Qp) : (s.setQp i f).evictRetries = s.evictRetries := rfl
@[simp] theorem State.setQp_reports (i : Nat) (f : Qp → Qp) : (s.setQp i f).reports = s.reports := rfl
@[simp] theorem State.setQp_spn (i : Nat) (f : Qp → Qp) : (s.setQp i f).spn = s.spn := rfl
@[simp] theorem State.setQp_spnOut (i : Nat) (f : Qp → Qp) : (s.setQp i f).spnOut = s.spnOut := rfl
@[simp] theorem State.setQp_spnLog (i : Nat) (f : Qp → Qp) : (s.setQp i f).spnLog = s.spnLog := rfl
@[simp] theorem State.setQp_lthLog (i : Nat) (f : Qp → Qp) : (s.setQp i f).lthLog = s.lthLog := rfl
@[simp] theorem State.setQp_lastRead (i : Nat) (f : Qp → Qp) : (s.setQp i f).lastRead = s.lastRead := rfl
@[simp] theorem State.setQp_lathes (i : Nat) (f : Qp → Qp) : (s.setQp i f).lathes = s.lathes := rfl
@[simp] theorem State.setQp_wakes (i : Nat) (f : Qp → Qp) : (s.setQp i f).wakes = s.wakes := rfl
@[simp] theorem State.setQp_ramps (i : Nat) (f : Qp → Qp) : (s.setQp i f).ramps = s.ramps := rfl
@[simp] theorem State.setQp_wakeGrants (i : Nat) (f : Qp → Qp) : (s.setQp i f).wakeGrants = s.wakeGrants := rfl
@[simp] theorem State.setQp_wakeLast (i : Nat) (f : Qp → Qp) : (s.setQp i f).wakeLast = s.wakeLast := rfl
@[simp] theorem State.setQp_selIn (i : Nat) (f : Qp → Qp) : (s.setQp i f).selIn = s.selIn := rfl
@[simp] theorem State.setQp_indices (i : Nat) (f : Qp → Qp) : (s.setQp i f).indices = s.indices := rfl
@[simp] theorem State.setQp_merges (i : Nat) (f : Qp → Qp) : (s.setQp i f).merges = s.merges := rfl
@[simp] theorem State.setQp_searches (i : Nat) (f : Qp → Qp) : (s.setQp i f).searches = s.searches := rfl
@[simp] theorem State.setQp_coords (i : Nat) (f : Qp → Qp) : (s.setQp i f).coords = s.coords := rfl
@[simp] theorem State.setQp_maps (i : Nat) (f : Qp → Qp) : (s.setQp i f).maps = s.maps := rfl
@[simp] theorem State.setQp_issueSeq (i : Nat) (f : Qp → Qp) : (s.setQp i f).issueSeq = s.issueSeq := rfl
@[simp] theorem State.setQp_gates (i : Nat) (f : Qp → Qp) : (s.setQp i f).gates = s.gates := rfl
@[simp] theorem State.setQp_jobs (i : Nat) (f : Qp → Qp) : (s.setQp i f).jobs = s.jobs := rfl
@[simp] theorem State.setQp_selLast (i : Nat) (f : Qp → Qp) : (s.setQp i f).selLast = s.selLast := rfl
@[simp] theorem State.setQp_tokLast (i : Nat) (f : Qp → Qp) : (s.setQp i f).tokLast = s.tokLast := rfl
@[simp] theorem State.setQp_engines (i : Nat) (f : Qp → Qp) : (s.setQp i f).engines = s.engines := rfl
@[simp] theorem State.setQp_vocabs (i : Nat) (f : Qp → Qp) : (s.setQp i f).vocabs = s.vocabs := rfl
@[simp] theorem State.setQp_grammars (i : Nat) (f : Qp → Qp) : (s.setQp i f).grammars = s.grammars := rfl
@[simp] theorem State.setQp_seqs (i : Nat) (f : Qp → Qp) : (s.setQp i f).seqs = s.seqs := rfl
@[simp] theorem State.setQp_seqGens (i : Nat) (f : Qp → Qp) : (s.setQp i f).seqGens = s.seqGens := rfl
@[simp] theorem State.setQp_cool (i : Nat) (f : Qp → Qp) : (s.setQp i f).cool = s.cool := rfl
@[simp] theorem State.setQp_prefixes (i : Nat) (f : Qp → Qp) : (s.setQp i f).prefixes = s.prefixes := rfl
@[simp] theorem State.setQp_kvPieces (i : Nat) (f : Qp → Qp) : (s.setQp i f).kvPieces = s.kvPieces := rfl
@[simp] theorem State.setQp_prefixGens (i : Nat) (f : Qp → Qp) : (s.setQp i f).prefixGens = s.prefixGens := rfl
@[simp] theorem State.setQp_stores (i : Nat) (f : Qp → Qp) : (s.setQp i f).stores = s.stores := rfl
@[simp] theorem State.setQp_variants (i : Nat) (f : Qp → Qp) : (s.setQp i f).variants = s.variants := rfl
@[simp] theorem State.setQp_trie (i : Nat) (f : Qp → Qp) : (s.setQp i f).trie = s.trie := rfl
@[simp] theorem State.setQp_turns (i : Nat) (f : Qp → Qp) : (s.setQp i f).turns = s.turns := rfl
@[simp] theorem State.setQp_runs (i : Nat) (f : Qp → Qp) : (s.setQp i f).runs = s.runs := rfl
@[simp] theorem State.setQp_fetches (i : Nat) (f : Qp → Qp) : (s.setQp i f).fetches = s.fetches := rfl
@[simp] theorem State.setQp_rags (i : Nat) (f : Qp → Qp) : (s.setQp i f).rags = s.rags := rfl
@[simp] theorem State.setQp_tables (i : Nat) (f : Qp → Qp) : (s.setQp i f).tables = s.tables := rfl
@[simp] theorem State.setQp_migs (i : Nat) (f : Qp → Qp) : (s.setQp i f).migs = s.migs := rfl
@[simp] theorem State.setQp_hotJobs (i : Nat) (f : Qp → Qp) : (s.setQp i f).hotJobs = s.hotJobs := rfl
@[simp] theorem State.setQp_embJobs (i : Nat) (f : Qp → Qp) : (s.setQp i f).embJobs = s.embJobs := rfl
@[simp] theorem State.setQp_embLast (i : Nat) (f : Qp → Qp) : (s.setQp i f).embLast = s.embLast := rfl
@[simp] theorem State.setQp_framed (i : Nat) (f : Qp → Qp) : (s.setQp i f).framed = s.framed := rfl
@[simp] theorem State.setQp_egress (i : Nat) (f : Qp → Qp) : (s.setQp i f).egress = s.egress := rfl
@[simp] theorem State.setQp_lineAt (i : Nat) (f : Qp → Qp) : (s.setQp i f).lineAt = s.lineAt := rfl
@[simp] theorem State.setQp_served (i : Nat) (f : Qp → Qp) : (s.setQp i f).served = s.served := rfl
@[simp] theorem State.setQp_meters (i : Nat) (f : Qp → Qp) : (s.setQp i f).meters = s.meters := rfl
@[simp] theorem State.setQp_meterAt (i : Nat) (f : Qp → Qp) : (s.setQp i f).meterAt = s.meterAt := rfl
@[simp] theorem State.setQp_telems (i : Nat) (f : Qp → Qp) : (s.setQp i f).telems = s.telems := rfl
@[simp] theorem State.setQp_telemSeq (i : Nat) (f : Qp → Qp) : (s.setQp i f).telemSeq = s.telemSeq := rfl
@[simp] theorem State.setQp_colls (i : Nat) (f : Qp → Qp) : (s.setQp i f).colls = s.colls := rfl
@[simp] theorem State.setQp_ptp (i : Nat) (f : Qp → Qp) : (s.setQp i f).ptp = s.ptp := rfl
@[simp] theorem State.setQp_mgmt10 (i : Nat) (f : Qp → Qp) : (s.setQp i f).mgmt10 = s.mgmt10 := rfl
@[simp] theorem State.setQp_mgmtDown (i : Nat) (f : Qp → Qp) : (s.setQp i f).mgmtDown = s.mgmtDown := rfl
@[simp] theorem State.setQp_pwr (i : Nat) (f : Qp → Qp) : (s.setQp i f).pwr = s.pwr := rfl
@[simp] theorem State.setQp_cxl (i : Nat) (f : Qp → Qp) : (s.setQp i f).cxl = s.cxl := rfl
@[simp] theorem State.setQp_flash (i : Nat) (f : Qp → Qp) : (s.setQp i f).flash = s.flash := rfl
@[simp] theorem State.setQp_faults (i : Nat) (f : Qp → Qp) : (s.setQp i f).faults = s.faults := rfl
@[simp] theorem State.setQp_cal (i : Nat) (f : Qp → Qp) : (s.setQp i f).cal = s.cal := rfl
@[simp] theorem State.setQp_boot (i : Nat) (f : Qp → Qp) : (s.setQp i f).boot = s.boot := rfl

/-! ### emit -/

@[simp] theorem State.emit_pending (o : Out) : (s.emit o).pending = s.pending := rfl
@[simp] theorem State.emit_now (o : Out) : (s.emit o).now = s.now := rfl
@[simp] theorem State.emit_freeCtr (o : Out) : (s.emit o).freeCtr = s.freeCtr := rfl
@[simp] theorem State.emit_cmdSeq (o : Out) : (s.emit o).cmdSeq = s.cmdSeq := rfl
@[simp] theorem State.emit_csr (o : Out) : (s.emit o).csr = s.csr := rfl
@[simp] theorem State.emit_mem (o : Out) : (s.emit o).mem = s.mem := rfl
@[simp] theorem State.emit_veil (o : Out) : (s.emit o).veil = s.veil := rfl
@[simp] theorem State.emit_ue (o : Out) : (s.emit o).ue = s.ue := rfl
@[simp] theorem State.emit_ce (o : Out) : (s.emit o).ce = s.ce := rfl
@[simp] theorem State.emit_sent (o : Out) :
    (s.emit o).sent = s.sent ++ [o] := rfl
@[simp] theorem State.emit_qps (o : Out) : (s.emit o).qps = s.qps := rfl
@[simp] theorem State.emit_cmds (o : Out) : (s.emit o).cmds = s.cmds := rfl
@[simp] theorem State.emit_issued (o : Out) : (s.emit o).issued = s.issued := rfl
@[simp] theorem State.emit_fw (o : Out) : (s.emit o).fw = s.fw := rfl
@[simp] theorem State.emit_icu (o : Out) : (s.emit o).icu = s.icu := rfl
@[simp] theorem State.emit_parts (o : Out) : (s.emit o).parts = s.parts := rfl
@[simp] theorem State.emit_sec (o : Out) : (s.emit o).sec = s.sec := rfl
@[simp] theorem State.emit_dir (o : Out) : (s.emit o).dir = s.dir := rfl
@[simp] theorem State.emit_heap (o : Out) : (s.emit o).heap = s.heap := rfl
@[simp] theorem State.emit_models (o : Out) : (s.emit o).models = s.models := rfl
@[simp] theorem State.emit_runners (o : Out) : (s.emit o).runners = s.runners := rfl
@[simp] theorem State.emit_evictRetries (o : Out) : (s.emit o).evictRetries = s.evictRetries := rfl
@[simp] theorem State.emit_reports (o : Out) : (s.emit o).reports = s.reports := rfl
@[simp] theorem State.emit_spn (o : Out) : (s.emit o).spn = s.spn := rfl
@[simp] theorem State.emit_spnOut (o : Out) : (s.emit o).spnOut = s.spnOut := rfl
@[simp] theorem State.emit_spnLog (o : Out) : (s.emit o).spnLog = s.spnLog := rfl
@[simp] theorem State.emit_lthLog (o : Out) : (s.emit o).lthLog = s.lthLog := rfl
@[simp] theorem State.emit_lastRead (o : Out) : (s.emit o).lastRead = s.lastRead := rfl
@[simp] theorem State.emit_lathes (o : Out) : (s.emit o).lathes = s.lathes := rfl
@[simp] theorem State.emit_wakes (o : Out) : (s.emit o).wakes = s.wakes := rfl
@[simp] theorem State.emit_ramps (o : Out) : (s.emit o).ramps = s.ramps := rfl
@[simp] theorem State.emit_wakeGrants (o : Out) : (s.emit o).wakeGrants = s.wakeGrants := rfl
@[simp] theorem State.emit_wakeLast (o : Out) : (s.emit o).wakeLast = s.wakeLast := rfl
@[simp] theorem State.emit_selIn (o : Out) : (s.emit o).selIn = s.selIn := rfl
@[simp] theorem State.emit_indices (o : Out) : (s.emit o).indices = s.indices := rfl
@[simp] theorem State.emit_merges (o : Out) : (s.emit o).merges = s.merges := rfl
@[simp] theorem State.emit_searches (o : Out) : (s.emit o).searches = s.searches := rfl
@[simp] theorem State.emit_coords (o : Out) : (s.emit o).coords = s.coords := rfl
@[simp] theorem State.emit_maps (o : Out) : (s.emit o).maps = s.maps := rfl
@[simp] theorem State.emit_issueSeq (o : Out) : (s.emit o).issueSeq = s.issueSeq := rfl
@[simp] theorem State.emit_gates (o : Out) : (s.emit o).gates = s.gates := rfl
@[simp] theorem State.emit_jobs (o : Out) : (s.emit o).jobs = s.jobs := rfl
@[simp] theorem State.emit_selLast (o : Out) : (s.emit o).selLast = s.selLast := rfl
@[simp] theorem State.emit_tokLast (o : Out) : (s.emit o).tokLast = s.tokLast := rfl
@[simp] theorem State.emit_engines (o : Out) : (s.emit o).engines = s.engines := rfl
@[simp] theorem State.emit_vocabs (o : Out) : (s.emit o).vocabs = s.vocabs := rfl
@[simp] theorem State.emit_grammars (o : Out) : (s.emit o).grammars = s.grammars := rfl
@[simp] theorem State.emit_seqs (o : Out) : (s.emit o).seqs = s.seqs := rfl
@[simp] theorem State.emit_seqGens (o : Out) : (s.emit o).seqGens = s.seqGens := rfl
@[simp] theorem State.emit_cool (o : Out) : (s.emit o).cool = s.cool := rfl
@[simp] theorem State.emit_prefixes (o : Out) : (s.emit o).prefixes = s.prefixes := rfl
@[simp] theorem State.emit_kvPieces (o : Out) : (s.emit o).kvPieces = s.kvPieces := rfl
@[simp] theorem State.emit_prefixGens (o : Out) : (s.emit o).prefixGens = s.prefixGens := rfl
@[simp] theorem State.emit_stores (o : Out) : (s.emit o).stores = s.stores := rfl
@[simp] theorem State.emit_variants (o : Out) : (s.emit o).variants = s.variants := rfl
@[simp] theorem State.emit_trie (o : Out) : (s.emit o).trie = s.trie := rfl
@[simp] theorem State.emit_turns (o : Out) : (s.emit o).turns = s.turns := rfl
@[simp] theorem State.emit_runs (o : Out) : (s.emit o).runs = s.runs := rfl
@[simp] theorem State.emit_fetches (o : Out) : (s.emit o).fetches = s.fetches := rfl
@[simp] theorem State.emit_rags (o : Out) : (s.emit o).rags = s.rags := rfl
@[simp] theorem State.emit_tables (o : Out) : (s.emit o).tables = s.tables := rfl
@[simp] theorem State.emit_migs (o : Out) : (s.emit o).migs = s.migs := rfl
@[simp] theorem State.emit_hotJobs (o : Out) : (s.emit o).hotJobs = s.hotJobs := rfl
@[simp] theorem State.emit_embJobs (o : Out) : (s.emit o).embJobs = s.embJobs := rfl
@[simp] theorem State.emit_embLast (o : Out) : (s.emit o).embLast = s.embLast := rfl
@[simp] theorem State.emit_framed (o : Out) : (s.emit o).framed = s.framed := rfl
@[simp] theorem State.emit_egress (o : Out) : (s.emit o).egress = s.egress := rfl
@[simp] theorem State.emit_lineAt (o : Out) : (s.emit o).lineAt = s.lineAt := rfl
@[simp] theorem State.emit_served (o : Out) : (s.emit o).served = s.served := rfl
@[simp] theorem State.emit_meters (o : Out) : (s.emit o).meters = s.meters := rfl
@[simp] theorem State.emit_meterAt (o : Out) : (s.emit o).meterAt = s.meterAt := rfl
@[simp] theorem State.emit_telems (o : Out) : (s.emit o).telems = s.telems := rfl
@[simp] theorem State.emit_telemSeq (o : Out) : (s.emit o).telemSeq = s.telemSeq := rfl
@[simp] theorem State.emit_colls (o : Out) : (s.emit o).colls = s.colls := rfl
@[simp] theorem State.emit_ptp (o : Out) : (s.emit o).ptp = s.ptp := rfl
@[simp] theorem State.emit_mgmt10 (o : Out) : (s.emit o).mgmt10 = s.mgmt10 := rfl
@[simp] theorem State.emit_mgmtDown (o : Out) : (s.emit o).mgmtDown = s.mgmtDown := rfl
@[simp] theorem State.emit_pwr (o : Out) : (s.emit o).pwr = s.pwr := rfl
@[simp] theorem State.emit_cxl (o : Out) : (s.emit o).cxl = s.cxl := rfl
@[simp] theorem State.emit_flash (o : Out) : (s.emit o).flash = s.flash := rfl
@[simp] theorem State.emit_faults (o : Out) : (s.emit o).faults = s.faults := rfl
@[simp] theorem State.emit_cal (o : Out) : (s.emit o).cal = s.cal := rfl
@[simp] theorem State.emit_boot (o : Out) : (s.emit o).boot = s.boot := rfl

/-! ### dropCmd -/

@[simp] theorem State.dropCmd_pending (id : Nat) : (s.dropCmd id).pending = s.pending := rfl
@[simp] theorem State.dropCmd_now (id : Nat) : (s.dropCmd id).now = s.now := rfl
@[simp] theorem State.dropCmd_freeCtr (id : Nat) : (s.dropCmd id).freeCtr = s.freeCtr := rfl
@[simp] theorem State.dropCmd_cmdSeq (id : Nat) : (s.dropCmd id).cmdSeq = s.cmdSeq := rfl
@[simp] theorem State.dropCmd_csr (id : Nat) : (s.dropCmd id).csr = s.csr := rfl
@[simp] theorem State.dropCmd_mem (id : Nat) : (s.dropCmd id).mem = s.mem := rfl
@[simp] theorem State.dropCmd_veil (id : Nat) : (s.dropCmd id).veil = s.veil := rfl
@[simp] theorem State.dropCmd_ue (id : Nat) : (s.dropCmd id).ue = s.ue := rfl
@[simp] theorem State.dropCmd_ce (id : Nat) : (s.dropCmd id).ce = s.ce := rfl
@[simp] theorem State.dropCmd_sent (id : Nat) : (s.dropCmd id).sent = s.sent := rfl
@[simp] theorem State.dropCmd_qps (id : Nat) : (s.dropCmd id).qps = s.qps := rfl
@[simp] theorem State.dropCmd_cmds (id : Nat) :
    (s.dropCmd id).cmds = s.cmds.filter (fun c => c.id != id) := rfl
@[simp] theorem State.dropCmd_issued (id : Nat) : (s.dropCmd id).issued = s.issued := rfl
@[simp] theorem State.dropCmd_fw (id : Nat) :
    (s.dropCmd id).fw = { s.fw with
      work := s.fw.work.filter (fun i => i != id), journal := s.fw.journal.filter (fun j => j.cmd != id || j.replied) } := rfl
@[simp] theorem State.dropCmd_icu (id : Nat) : (s.dropCmd id).icu = s.icu := rfl
@[simp] theorem State.dropCmd_parts (id : Nat) : (s.dropCmd id).parts = s.parts := rfl
@[simp] theorem State.dropCmd_sec (id : Nat) : (s.dropCmd id).sec = s.sec := rfl
@[simp] theorem State.dropCmd_dir (id : Nat) : (s.dropCmd id).dir = s.dir := rfl
@[simp] theorem State.dropCmd_heap (id : Nat) : (s.dropCmd id).heap = s.heap := rfl
@[simp] theorem State.dropCmd_models (id : Nat) : (s.dropCmd id).models = s.models := rfl
@[simp] theorem State.dropCmd_runners (id : Nat) : (s.dropCmd id).runners = s.runners := rfl
@[simp] theorem State.dropCmd_evictRetries (id : Nat) : (s.dropCmd id).evictRetries = s.evictRetries := rfl
@[simp] theorem State.dropCmd_reports (id : Nat) : (s.dropCmd id).reports = s.reports := rfl
@[simp] theorem State.dropCmd_spn (id : Nat) : (s.dropCmd id).spn = s.spn := rfl
@[simp] theorem State.dropCmd_spnOut (id : Nat) : (s.dropCmd id).spnOut = s.spnOut := rfl
@[simp] theorem State.dropCmd_spnLog (id : Nat) : (s.dropCmd id).spnLog = s.spnLog := rfl
@[simp] theorem State.dropCmd_lthLog (id : Nat) : (s.dropCmd id).lthLog = s.lthLog := rfl
@[simp] theorem State.dropCmd_lastRead (id : Nat) : (s.dropCmd id).lastRead = s.lastRead := rfl
@[simp] theorem State.dropCmd_lathes (id : Nat) : (s.dropCmd id).lathes = s.lathes := rfl
@[simp] theorem State.dropCmd_wakes (id : Nat) : (s.dropCmd id).wakes = s.wakes := rfl
@[simp] theorem State.dropCmd_ramps (id : Nat) : (s.dropCmd id).ramps = s.ramps := rfl
@[simp] theorem State.dropCmd_wakeGrants (id : Nat) : (s.dropCmd id).wakeGrants = s.wakeGrants := rfl
@[simp] theorem State.dropCmd_wakeLast (id : Nat) : (s.dropCmd id).wakeLast = s.wakeLast := rfl
@[simp] theorem State.dropCmd_selIn (id : Nat) : (s.dropCmd id).selIn = s.selIn := rfl
@[simp] theorem State.dropCmd_indices (id : Nat) : (s.dropCmd id).indices = s.indices := rfl
@[simp] theorem State.dropCmd_merges (id : Nat) : (s.dropCmd id).merges = s.merges := rfl
@[simp] theorem State.dropCmd_searches (id : Nat) : (s.dropCmd id).searches = s.searches := rfl
@[simp] theorem State.dropCmd_coords (id : Nat) : (s.dropCmd id).coords = s.coords := rfl
@[simp] theorem State.dropCmd_maps (id : Nat) : (s.dropCmd id).maps = s.maps := rfl
@[simp] theorem State.dropCmd_issueSeq (id : Nat) : (s.dropCmd id).issueSeq = s.issueSeq := rfl
@[simp] theorem State.dropCmd_gates (id : Nat) : (s.dropCmd id).gates = s.gates := rfl
@[simp] theorem State.dropCmd_jobs (id : Nat) : (s.dropCmd id).jobs = s.jobs := rfl
@[simp] theorem State.dropCmd_selLast (id : Nat) : (s.dropCmd id).selLast = s.selLast := rfl
@[simp] theorem State.dropCmd_tokLast (id : Nat) : (s.dropCmd id).tokLast = s.tokLast := rfl
@[simp] theorem State.dropCmd_engines (id : Nat) : (s.dropCmd id).engines = s.engines := rfl
@[simp] theorem State.dropCmd_vocabs (id : Nat) : (s.dropCmd id).vocabs = s.vocabs := rfl
@[simp] theorem State.dropCmd_grammars (id : Nat) : (s.dropCmd id).grammars = s.grammars := rfl
@[simp] theorem State.dropCmd_seqs (id : Nat) : (s.dropCmd id).seqs = s.seqs := rfl
@[simp] theorem State.dropCmd_seqGens (id : Nat) : (s.dropCmd id).seqGens = s.seqGens := rfl
@[simp] theorem State.dropCmd_cool (id : Nat) : (s.dropCmd id).cool = s.cool := rfl
@[simp] theorem State.dropCmd_prefixes (id : Nat) : (s.dropCmd id).prefixes = s.prefixes := rfl
@[simp] theorem State.dropCmd_kvPieces (id : Nat) : (s.dropCmd id).kvPieces = s.kvPieces := rfl
@[simp] theorem State.dropCmd_prefixGens (id : Nat) : (s.dropCmd id).prefixGens = s.prefixGens := rfl
@[simp] theorem State.dropCmd_stores (id : Nat) : (s.dropCmd id).stores = s.stores := rfl
@[simp] theorem State.dropCmd_variants (id : Nat) : (s.dropCmd id).variants = s.variants := rfl
@[simp] theorem State.dropCmd_trie (id : Nat) : (s.dropCmd id).trie = s.trie := rfl
@[simp] theorem State.dropCmd_turns (id : Nat) : (s.dropCmd id).turns = s.turns := rfl
@[simp] theorem State.dropCmd_runs (id : Nat) : (s.dropCmd id).runs = s.runs := rfl
@[simp] theorem State.dropCmd_fetches (id : Nat) : (s.dropCmd id).fetches = s.fetches := rfl
@[simp] theorem State.dropCmd_rags (id : Nat) : (s.dropCmd id).rags = s.rags := rfl
@[simp] theorem State.dropCmd_tables (id : Nat) : (s.dropCmd id).tables = s.tables := rfl
@[simp] theorem State.dropCmd_migs (id : Nat) : (s.dropCmd id).migs = s.migs := rfl
@[simp] theorem State.dropCmd_hotJobs (id : Nat) : (s.dropCmd id).hotJobs = s.hotJobs := rfl
@[simp] theorem State.dropCmd_embJobs (id : Nat) : (s.dropCmd id).embJobs = s.embJobs := rfl
@[simp] theorem State.dropCmd_embLast (id : Nat) : (s.dropCmd id).embLast = s.embLast := rfl
@[simp] theorem State.dropCmd_framed (id : Nat) : (s.dropCmd id).framed = s.framed := rfl
@[simp] theorem State.dropCmd_egress (id : Nat) : (s.dropCmd id).egress = s.egress := rfl
@[simp] theorem State.dropCmd_lineAt (id : Nat) : (s.dropCmd id).lineAt = s.lineAt := rfl
@[simp] theorem State.dropCmd_served (id : Nat) : (s.dropCmd id).served = s.served := rfl
@[simp] theorem State.dropCmd_meters (id : Nat) : (s.dropCmd id).meters = s.meters := rfl
@[simp] theorem State.dropCmd_meterAt (id : Nat) : (s.dropCmd id).meterAt = s.meterAt := rfl
@[simp] theorem State.dropCmd_telems (id : Nat) : (s.dropCmd id).telems = s.telems := rfl
@[simp] theorem State.dropCmd_telemSeq (id : Nat) : (s.dropCmd id).telemSeq = s.telemSeq := rfl
@[simp] theorem State.dropCmd_colls (id : Nat) : (s.dropCmd id).colls = s.colls := rfl
@[simp] theorem State.dropCmd_ptp (id : Nat) : (s.dropCmd id).ptp = s.ptp := rfl
@[simp] theorem State.dropCmd_mgmt10 (id : Nat) : (s.dropCmd id).mgmt10 = s.mgmt10 := rfl
@[simp] theorem State.dropCmd_mgmtDown (id : Nat) : (s.dropCmd id).mgmtDown = s.mgmtDown := rfl
@[simp] theorem State.dropCmd_pwr (id : Nat) : (s.dropCmd id).pwr = s.pwr := rfl
@[simp] theorem State.dropCmd_cxl (id : Nat) : (s.dropCmd id).cxl = s.cxl := rfl
@[simp] theorem State.dropCmd_flash (id : Nat) : (s.dropCmd id).flash = s.flash := rfl
@[simp] theorem State.dropCmd_faults (id : Nat) : (s.dropCmd id).faults = s.faults := rfl
@[simp] theorem State.dropCmd_cal (id : Nat) : (s.dropCmd id).cal = s.cal := rfl
@[simp] theorem State.dropCmd_boot (id : Nat) : (s.dropCmd id).boot = s.boot := rfl

/-! ### setCmd -/

@[simp] theorem State.setCmd_pending (id : Nat) (f : Cmd → Cmd) : (s.setCmd id f).pending = s.pending := rfl
@[simp] theorem State.setCmd_now (id : Nat) (f : Cmd → Cmd) : (s.setCmd id f).now = s.now := rfl
@[simp] theorem State.setCmd_freeCtr (id : Nat) (f : Cmd → Cmd) : (s.setCmd id f).freeCtr = s.freeCtr := rfl
@[simp] theorem State.setCmd_cmdSeq (id : Nat) (f : Cmd → Cmd) : (s.setCmd id f).cmdSeq = s.cmdSeq := rfl
@[simp] theorem State.setCmd_csr (id : Nat) (f : Cmd → Cmd) : (s.setCmd id f).csr = s.csr := rfl
@[simp] theorem State.setCmd_mem (id : Nat) (f : Cmd → Cmd) : (s.setCmd id f).mem = s.mem := rfl
@[simp] theorem State.setCmd_veil (id : Nat) (f : Cmd → Cmd) : (s.setCmd id f).veil = s.veil := rfl
@[simp] theorem State.setCmd_ue (id : Nat) (f : Cmd → Cmd) : (s.setCmd id f).ue = s.ue := rfl
@[simp] theorem State.setCmd_ce (id : Nat) (f : Cmd → Cmd) : (s.setCmd id f).ce = s.ce := rfl
@[simp] theorem State.setCmd_sent (id : Nat) (f : Cmd → Cmd) : (s.setCmd id f).sent = s.sent := rfl
@[simp] theorem State.setCmd_qps (id : Nat) (f : Cmd → Cmd) : (s.setCmd id f).qps = s.qps := rfl
@[simp] theorem State.setCmd_cmds (id : Nat) (f : Cmd → Cmd) :
    (s.setCmd id f).cmds = updateWhere s.cmds (fun c => c.id == id) f := rfl
@[simp] theorem State.setCmd_issued (id : Nat) (f : Cmd → Cmd) : (s.setCmd id f).issued = s.issued := rfl
@[simp] theorem State.setCmd_fw (id : Nat) (f : Cmd → Cmd) : (s.setCmd id f).fw = s.fw := rfl
@[simp] theorem State.setCmd_icu (id : Nat) (f : Cmd → Cmd) : (s.setCmd id f).icu = s.icu := rfl
@[simp] theorem State.setCmd_parts (id : Nat) (f : Cmd → Cmd) : (s.setCmd id f).parts = s.parts := rfl
@[simp] theorem State.setCmd_sec (id : Nat) (f : Cmd → Cmd) : (s.setCmd id f).sec = s.sec := rfl
@[simp] theorem State.setCmd_dir (id : Nat) (f : Cmd → Cmd) : (s.setCmd id f).dir = s.dir := rfl
@[simp] theorem State.setCmd_heap (id : Nat) (f : Cmd → Cmd) : (s.setCmd id f).heap = s.heap := rfl
@[simp] theorem State.setCmd_models (id : Nat) (f : Cmd → Cmd) : (s.setCmd id f).models = s.models := rfl
@[simp] theorem State.setCmd_runners (id : Nat) (f : Cmd → Cmd) : (s.setCmd id f).runners = s.runners := rfl
@[simp] theorem State.setCmd_evictRetries (id : Nat) (f : Cmd → Cmd) : (s.setCmd id f).evictRetries = s.evictRetries := rfl
@[simp] theorem State.setCmd_reports (id : Nat) (f : Cmd → Cmd) : (s.setCmd id f).reports = s.reports := rfl
@[simp] theorem State.setCmd_spn (id : Nat) (f : Cmd → Cmd) : (s.setCmd id f).spn = s.spn := rfl
@[simp] theorem State.setCmd_spnOut (id : Nat) (f : Cmd → Cmd) : (s.setCmd id f).spnOut = s.spnOut := rfl
@[simp] theorem State.setCmd_spnLog (id : Nat) (f : Cmd → Cmd) : (s.setCmd id f).spnLog = s.spnLog := rfl
@[simp] theorem State.setCmd_lthLog (id : Nat) (f : Cmd → Cmd) : (s.setCmd id f).lthLog = s.lthLog := rfl
@[simp] theorem State.setCmd_lastRead (id : Nat) (f : Cmd → Cmd) : (s.setCmd id f).lastRead = s.lastRead := rfl
@[simp] theorem State.setCmd_lathes (id : Nat) (f : Cmd → Cmd) : (s.setCmd id f).lathes = s.lathes := rfl
@[simp] theorem State.setCmd_wakes (id : Nat) (f : Cmd → Cmd) : (s.setCmd id f).wakes = s.wakes := rfl
@[simp] theorem State.setCmd_ramps (id : Nat) (f : Cmd → Cmd) : (s.setCmd id f).ramps = s.ramps := rfl
@[simp] theorem State.setCmd_wakeGrants (id : Nat) (f : Cmd → Cmd) : (s.setCmd id f).wakeGrants = s.wakeGrants := rfl
@[simp] theorem State.setCmd_wakeLast (id : Nat) (f : Cmd → Cmd) : (s.setCmd id f).wakeLast = s.wakeLast := rfl
@[simp] theorem State.setCmd_selIn (id : Nat) (f : Cmd → Cmd) : (s.setCmd id f).selIn = s.selIn := rfl
@[simp] theorem State.setCmd_indices (id : Nat) (f : Cmd → Cmd) : (s.setCmd id f).indices = s.indices := rfl
@[simp] theorem State.setCmd_merges (id : Nat) (f : Cmd → Cmd) : (s.setCmd id f).merges = s.merges := rfl
@[simp] theorem State.setCmd_searches (id : Nat) (f : Cmd → Cmd) : (s.setCmd id f).searches = s.searches := rfl
@[simp] theorem State.setCmd_coords (id : Nat) (f : Cmd → Cmd) : (s.setCmd id f).coords = s.coords := rfl
@[simp] theorem State.setCmd_maps (id : Nat) (f : Cmd → Cmd) : (s.setCmd id f).maps = s.maps := rfl
@[simp] theorem State.setCmd_issueSeq (id : Nat) (f : Cmd → Cmd) : (s.setCmd id f).issueSeq = s.issueSeq := rfl
@[simp] theorem State.setCmd_gates (id : Nat) (f : Cmd → Cmd) : (s.setCmd id f).gates = s.gates := rfl
@[simp] theorem State.setCmd_jobs (id : Nat) (f : Cmd → Cmd) : (s.setCmd id f).jobs = s.jobs := rfl
@[simp] theorem State.setCmd_selLast (id : Nat) (f : Cmd → Cmd) : (s.setCmd id f).selLast = s.selLast := rfl
@[simp] theorem State.setCmd_tokLast (id : Nat) (f : Cmd → Cmd) : (s.setCmd id f).tokLast = s.tokLast := rfl
@[simp] theorem State.setCmd_engines (id : Nat) (f : Cmd → Cmd) : (s.setCmd id f).engines = s.engines := rfl
@[simp] theorem State.setCmd_vocabs (id : Nat) (f : Cmd → Cmd) : (s.setCmd id f).vocabs = s.vocabs := rfl
@[simp] theorem State.setCmd_grammars (id : Nat) (f : Cmd → Cmd) : (s.setCmd id f).grammars = s.grammars := rfl
@[simp] theorem State.setCmd_seqs (id : Nat) (f : Cmd → Cmd) : (s.setCmd id f).seqs = s.seqs := rfl
@[simp] theorem State.setCmd_seqGens (id : Nat) (f : Cmd → Cmd) : (s.setCmd id f).seqGens = s.seqGens := rfl
@[simp] theorem State.setCmd_cool (id : Nat) (f : Cmd → Cmd) : (s.setCmd id f).cool = s.cool := rfl
@[simp] theorem State.setCmd_prefixes (id : Nat) (f : Cmd → Cmd) : (s.setCmd id f).prefixes = s.prefixes := rfl
@[simp] theorem State.setCmd_kvPieces (id : Nat) (f : Cmd → Cmd) : (s.setCmd id f).kvPieces = s.kvPieces := rfl
@[simp] theorem State.setCmd_prefixGens (id : Nat) (f : Cmd → Cmd) : (s.setCmd id f).prefixGens = s.prefixGens := rfl
@[simp] theorem State.setCmd_stores (id : Nat) (f : Cmd → Cmd) : (s.setCmd id f).stores = s.stores := rfl
@[simp] theorem State.setCmd_variants (id : Nat) (f : Cmd → Cmd) : (s.setCmd id f).variants = s.variants := rfl
@[simp] theorem State.setCmd_trie (id : Nat) (f : Cmd → Cmd) : (s.setCmd id f).trie = s.trie := rfl
@[simp] theorem State.setCmd_turns (id : Nat) (f : Cmd → Cmd) : (s.setCmd id f).turns = s.turns := rfl
@[simp] theorem State.setCmd_runs (id : Nat) (f : Cmd → Cmd) : (s.setCmd id f).runs = s.runs := rfl
@[simp] theorem State.setCmd_fetches (id : Nat) (f : Cmd → Cmd) : (s.setCmd id f).fetches = s.fetches := rfl
@[simp] theorem State.setCmd_rags (id : Nat) (f : Cmd → Cmd) : (s.setCmd id f).rags = s.rags := rfl
@[simp] theorem State.setCmd_tables (id : Nat) (f : Cmd → Cmd) : (s.setCmd id f).tables = s.tables := rfl
@[simp] theorem State.setCmd_migs (id : Nat) (f : Cmd → Cmd) : (s.setCmd id f).migs = s.migs := rfl
@[simp] theorem State.setCmd_hotJobs (id : Nat) (f : Cmd → Cmd) : (s.setCmd id f).hotJobs = s.hotJobs := rfl
@[simp] theorem State.setCmd_embJobs (id : Nat) (f : Cmd → Cmd) : (s.setCmd id f).embJobs = s.embJobs := rfl
@[simp] theorem State.setCmd_embLast (id : Nat) (f : Cmd → Cmd) : (s.setCmd id f).embLast = s.embLast := rfl
@[simp] theorem State.setCmd_framed (id : Nat) (f : Cmd → Cmd) : (s.setCmd id f).framed = s.framed := rfl
@[simp] theorem State.setCmd_egress (id : Nat) (f : Cmd → Cmd) : (s.setCmd id f).egress = s.egress := rfl
@[simp] theorem State.setCmd_lineAt (id : Nat) (f : Cmd → Cmd) : (s.setCmd id f).lineAt = s.lineAt := rfl
@[simp] theorem State.setCmd_served (id : Nat) (f : Cmd → Cmd) : (s.setCmd id f).served = s.served := rfl
@[simp] theorem State.setCmd_meters (id : Nat) (f : Cmd → Cmd) : (s.setCmd id f).meters = s.meters := rfl
@[simp] theorem State.setCmd_meterAt (id : Nat) (f : Cmd → Cmd) : (s.setCmd id f).meterAt = s.meterAt := rfl
@[simp] theorem State.setCmd_telems (id : Nat) (f : Cmd → Cmd) : (s.setCmd id f).telems = s.telems := rfl
@[simp] theorem State.setCmd_telemSeq (id : Nat) (f : Cmd → Cmd) : (s.setCmd id f).telemSeq = s.telemSeq := rfl
@[simp] theorem State.setCmd_colls (id : Nat) (f : Cmd → Cmd) : (s.setCmd id f).colls = s.colls := rfl
@[simp] theorem State.setCmd_ptp (id : Nat) (f : Cmd → Cmd) : (s.setCmd id f).ptp = s.ptp := rfl
@[simp] theorem State.setCmd_mgmt10 (id : Nat) (f : Cmd → Cmd) : (s.setCmd id f).mgmt10 = s.mgmt10 := rfl
@[simp] theorem State.setCmd_mgmtDown (id : Nat) (f : Cmd → Cmd) : (s.setCmd id f).mgmtDown = s.mgmtDown := rfl
@[simp] theorem State.setCmd_pwr (id : Nat) (f : Cmd → Cmd) : (s.setCmd id f).pwr = s.pwr := rfl
@[simp] theorem State.setCmd_cxl (id : Nat) (f : Cmd → Cmd) : (s.setCmd id f).cxl = s.cxl := rfl
@[simp] theorem State.setCmd_flash (id : Nat) (f : Cmd → Cmd) : (s.setCmd id f).flash = s.flash := rfl
@[simp] theorem State.setCmd_faults (id : Nat) (f : Cmd → Cmd) : (s.setCmd id f).faults = s.faults := rfl
@[simp] theorem State.setCmd_cal (id : Nat) (f : Cmd → Cmd) : (s.setCmd id f).cal = s.cal := rfl
@[simp] theorem State.setCmd_boot (id : Nat) (f : Cmd → Cmd) : (s.setCmd id f).boot = s.boot := rfl

/-! ### comeTo -/

@[simp] theorem State.comeTo_pending (t : Stamp) : (s.comeTo t).pending = s.pending := rfl
@[simp] theorem State.comeTo_now (t : Stamp) :
    (s.comeTo t).now = max s.now t := rfl
@[simp] theorem State.comeTo_freeCtr (t : Stamp) : (s.comeTo t).freeCtr = s.freeCtr := rfl
@[simp] theorem State.comeTo_cmdSeq (t : Stamp) : (s.comeTo t).cmdSeq = s.cmdSeq := rfl
@[simp] theorem State.comeTo_csr (t : Stamp) : (s.comeTo t).csr = s.csr := rfl
@[simp] theorem State.comeTo_mem (t : Stamp) : (s.comeTo t).mem = s.mem := rfl
@[simp] theorem State.comeTo_veil (t : Stamp) : (s.comeTo t).veil = s.veil := rfl
@[simp] theorem State.comeTo_ue (t : Stamp) : (s.comeTo t).ue = s.ue := rfl
@[simp] theorem State.comeTo_ce (t : Stamp) : (s.comeTo t).ce = s.ce := rfl
@[simp] theorem State.comeTo_sent (t : Stamp) : (s.comeTo t).sent = s.sent := rfl
@[simp] theorem State.comeTo_qps (t : Stamp) : (s.comeTo t).qps = s.qps := rfl
@[simp] theorem State.comeTo_cmds (t : Stamp) : (s.comeTo t).cmds = s.cmds := rfl
@[simp] theorem State.comeTo_issued (t : Stamp) : (s.comeTo t).issued = s.issued := rfl
@[simp] theorem State.comeTo_fw (t : Stamp) : (s.comeTo t).fw = s.fw := rfl
@[simp] theorem State.comeTo_icu (t : Stamp) : (s.comeTo t).icu = s.icu := rfl
@[simp] theorem State.comeTo_parts (t : Stamp) : (s.comeTo t).parts = s.parts := rfl
@[simp] theorem State.comeTo_sec (t : Stamp) : (s.comeTo t).sec = s.sec := rfl
@[simp] theorem State.comeTo_dir (t : Stamp) : (s.comeTo t).dir = s.dir := rfl
@[simp] theorem State.comeTo_heap (t : Stamp) : (s.comeTo t).heap = s.heap := rfl
@[simp] theorem State.comeTo_models (t : Stamp) : (s.comeTo t).models = s.models := rfl
@[simp] theorem State.comeTo_runners (t : Stamp) : (s.comeTo t).runners = s.runners := rfl
@[simp] theorem State.comeTo_evictRetries (t : Stamp) : (s.comeTo t).evictRetries = s.evictRetries := rfl
@[simp] theorem State.comeTo_reports (t : Stamp) : (s.comeTo t).reports = s.reports := rfl
@[simp] theorem State.comeTo_spn (t : Stamp) : (s.comeTo t).spn = s.spn := rfl
@[simp] theorem State.comeTo_spnOut (t : Stamp) : (s.comeTo t).spnOut = s.spnOut := rfl
@[simp] theorem State.comeTo_spnLog (t : Stamp) : (s.comeTo t).spnLog = s.spnLog := rfl
@[simp] theorem State.comeTo_lthLog (t : Stamp) : (s.comeTo t).lthLog = s.lthLog := rfl
@[simp] theorem State.comeTo_lastRead (t : Stamp) : (s.comeTo t).lastRead = s.lastRead := rfl
@[simp] theorem State.comeTo_lathes (t : Stamp) : (s.comeTo t).lathes = s.lathes := rfl
@[simp] theorem State.comeTo_wakes (t : Stamp) : (s.comeTo t).wakes = s.wakes := rfl
@[simp] theorem State.comeTo_ramps (t : Stamp) : (s.comeTo t).ramps = s.ramps := rfl
@[simp] theorem State.comeTo_wakeGrants (t : Stamp) : (s.comeTo t).wakeGrants = s.wakeGrants := rfl
@[simp] theorem State.comeTo_wakeLast (t : Stamp) : (s.comeTo t).wakeLast = s.wakeLast := rfl
@[simp] theorem State.comeTo_selIn (t : Stamp) : (s.comeTo t).selIn = s.selIn := rfl
@[simp] theorem State.comeTo_indices (t : Stamp) : (s.comeTo t).indices = s.indices := rfl
@[simp] theorem State.comeTo_merges (t : Stamp) : (s.comeTo t).merges = s.merges := rfl
@[simp] theorem State.comeTo_searches (t : Stamp) : (s.comeTo t).searches = s.searches := rfl
@[simp] theorem State.comeTo_coords (t : Stamp) : (s.comeTo t).coords = s.coords := rfl
@[simp] theorem State.comeTo_maps (t : Stamp) : (s.comeTo t).maps = s.maps := rfl
@[simp] theorem State.comeTo_issueSeq (t : Stamp) : (s.comeTo t).issueSeq = s.issueSeq := rfl
@[simp] theorem State.comeTo_gates (t : Stamp) : (s.comeTo t).gates = s.gates := rfl
@[simp] theorem State.comeTo_jobs (t : Stamp) : (s.comeTo t).jobs = s.jobs := rfl
@[simp] theorem State.comeTo_selLast (t : Stamp) : (s.comeTo t).selLast = s.selLast := rfl
@[simp] theorem State.comeTo_tokLast (t : Stamp) : (s.comeTo t).tokLast = s.tokLast := rfl
@[simp] theorem State.comeTo_engines (t : Stamp) : (s.comeTo t).engines = s.engines := rfl
@[simp] theorem State.comeTo_vocabs (t : Stamp) : (s.comeTo t).vocabs = s.vocabs := rfl
@[simp] theorem State.comeTo_grammars (t : Stamp) : (s.comeTo t).grammars = s.grammars := rfl
@[simp] theorem State.comeTo_seqs (t : Stamp) : (s.comeTo t).seqs = s.seqs := rfl
@[simp] theorem State.comeTo_seqGens (t : Stamp) : (s.comeTo t).seqGens = s.seqGens := rfl
@[simp] theorem State.comeTo_cool (t : Stamp) : (s.comeTo t).cool = s.cool := rfl
@[simp] theorem State.comeTo_prefixes (t : Stamp) : (s.comeTo t).prefixes = s.prefixes := rfl
@[simp] theorem State.comeTo_kvPieces (t : Stamp) : (s.comeTo t).kvPieces = s.kvPieces := rfl
@[simp] theorem State.comeTo_prefixGens (t : Stamp) : (s.comeTo t).prefixGens = s.prefixGens := rfl
@[simp] theorem State.comeTo_stores (t : Stamp) : (s.comeTo t).stores = s.stores := rfl
@[simp] theorem State.comeTo_variants (t : Stamp) : (s.comeTo t).variants = s.variants := rfl
@[simp] theorem State.comeTo_trie (t : Stamp) : (s.comeTo t).trie = s.trie := rfl
@[simp] theorem State.comeTo_turns (t : Stamp) : (s.comeTo t).turns = s.turns := rfl
@[simp] theorem State.comeTo_runs (t : Stamp) : (s.comeTo t).runs = s.runs := rfl
@[simp] theorem State.comeTo_fetches (t : Stamp) : (s.comeTo t).fetches = s.fetches := rfl
@[simp] theorem State.comeTo_rags (t : Stamp) : (s.comeTo t).rags = s.rags := rfl
@[simp] theorem State.comeTo_tables (t : Stamp) : (s.comeTo t).tables = s.tables := rfl
@[simp] theorem State.comeTo_migs (t : Stamp) : (s.comeTo t).migs = s.migs := rfl
@[simp] theorem State.comeTo_hotJobs (t : Stamp) : (s.comeTo t).hotJobs = s.hotJobs := rfl
@[simp] theorem State.comeTo_embJobs (t : Stamp) : (s.comeTo t).embJobs = s.embJobs := rfl
@[simp] theorem State.comeTo_embLast (t : Stamp) : (s.comeTo t).embLast = s.embLast := rfl
@[simp] theorem State.comeTo_framed (t : Stamp) : (s.comeTo t).framed = s.framed := rfl
@[simp] theorem State.comeTo_egress (t : Stamp) : (s.comeTo t).egress = s.egress := rfl
@[simp] theorem State.comeTo_lineAt (t : Stamp) : (s.comeTo t).lineAt = s.lineAt := rfl
@[simp] theorem State.comeTo_served (t : Stamp) : (s.comeTo t).served = s.served := rfl
@[simp] theorem State.comeTo_meters (t : Stamp) : (s.comeTo t).meters = s.meters := rfl
@[simp] theorem State.comeTo_meterAt (t : Stamp) : (s.comeTo t).meterAt = s.meterAt := rfl
@[simp] theorem State.comeTo_telems (t : Stamp) : (s.comeTo t).telems = s.telems := rfl
@[simp] theorem State.comeTo_telemSeq (t : Stamp) : (s.comeTo t).telemSeq = s.telemSeq := rfl
@[simp] theorem State.comeTo_colls (t : Stamp) : (s.comeTo t).colls = s.colls := rfl
@[simp] theorem State.comeTo_ptp (t : Stamp) : (s.comeTo t).ptp = s.ptp := rfl
@[simp] theorem State.comeTo_mgmt10 (t : Stamp) : (s.comeTo t).mgmt10 = s.mgmt10 := rfl
@[simp] theorem State.comeTo_mgmtDown (t : Stamp) : (s.comeTo t).mgmtDown = s.mgmtDown := rfl
@[simp] theorem State.comeTo_pwr (t : Stamp) : (s.comeTo t).pwr = s.pwr := rfl
@[simp] theorem State.comeTo_cxl (t : Stamp) : (s.comeTo t).cxl = s.cxl := rfl
@[simp] theorem State.comeTo_flash (t : Stamp) : (s.comeTo t).flash = s.flash := rfl
@[simp] theorem State.comeTo_faults (t : Stamp) : (s.comeTo t).faults = s.faults := rfl
@[simp] theorem State.comeTo_cal (t : Stamp) : (s.comeTo t).cal = s.cal := rfl
@[simp] theorem State.comeTo_boot (t : Stamp) : (s.comeTo t).boot = s.boot := rfl

/-! ### setSeq -/

@[simp] theorem State.setSeq_pending (i : Nat) (f : Seq → Seq) : (s.setSeq i f).pending = s.pending := rfl
@[simp] theorem State.setSeq_now (i : Nat) (f : Seq → Seq) : (s.setSeq i f).now = s.now := rfl
@[simp] theorem State.setSeq_freeCtr (i : Nat) (f : Seq → Seq) : (s.setSeq i f).freeCtr = s.freeCtr := rfl
@[simp] theorem State.setSeq_cmdSeq (i : Nat) (f : Seq → Seq) : (s.setSeq i f).cmdSeq = s.cmdSeq := rfl
@[simp] theorem State.setSeq_csr (i : Nat) (f : Seq → Seq) : (s.setSeq i f).csr = s.csr := rfl
@[simp] theorem State.setSeq_mem (i : Nat) (f : Seq → Seq) : (s.setSeq i f).mem = s.mem := rfl
@[simp] theorem State.setSeq_veil (i : Nat) (f : Seq → Seq) : (s.setSeq i f).veil = s.veil := rfl
@[simp] theorem State.setSeq_ue (i : Nat) (f : Seq → Seq) : (s.setSeq i f).ue = s.ue := rfl
@[simp] theorem State.setSeq_ce (i : Nat) (f : Seq → Seq) : (s.setSeq i f).ce = s.ce := rfl
@[simp] theorem State.setSeq_sent (i : Nat) (f : Seq → Seq) : (s.setSeq i f).sent = s.sent := rfl
@[simp] theorem State.setSeq_qps (i : Nat) (f : Seq → Seq) : (s.setSeq i f).qps = s.qps := rfl
@[simp] theorem State.setSeq_cmds (i : Nat) (f : Seq → Seq) : (s.setSeq i f).cmds = s.cmds := rfl
@[simp] theorem State.setSeq_issued (i : Nat) (f : Seq → Seq) : (s.setSeq i f).issued = s.issued := rfl
@[simp] theorem State.setSeq_fw (i : Nat) (f : Seq → Seq) : (s.setSeq i f).fw = s.fw := rfl
@[simp] theorem State.setSeq_icu (i : Nat) (f : Seq → Seq) : (s.setSeq i f).icu = s.icu := rfl
@[simp] theorem State.setSeq_parts (i : Nat) (f : Seq → Seq) : (s.setSeq i f).parts = s.parts := rfl
@[simp] theorem State.setSeq_sec (i : Nat) (f : Seq → Seq) : (s.setSeq i f).sec = s.sec := rfl
@[simp] theorem State.setSeq_dir (i : Nat) (f : Seq → Seq) : (s.setSeq i f).dir = s.dir := rfl
@[simp] theorem State.setSeq_heap (i : Nat) (f : Seq → Seq) : (s.setSeq i f).heap = s.heap := rfl
@[simp] theorem State.setSeq_models (i : Nat) (f : Seq → Seq) : (s.setSeq i f).models = s.models := rfl
@[simp] theorem State.setSeq_runners (i : Nat) (f : Seq → Seq) : (s.setSeq i f).runners = s.runners := rfl
@[simp] theorem State.setSeq_evictRetries (i : Nat) (f : Seq → Seq) : (s.setSeq i f).evictRetries = s.evictRetries := rfl
@[simp] theorem State.setSeq_reports (i : Nat) (f : Seq → Seq) : (s.setSeq i f).reports = s.reports := rfl
@[simp] theorem State.setSeq_spn (i : Nat) (f : Seq → Seq) : (s.setSeq i f).spn = s.spn := rfl
@[simp] theorem State.setSeq_spnOut (i : Nat) (f : Seq → Seq) : (s.setSeq i f).spnOut = s.spnOut := rfl
@[simp] theorem State.setSeq_spnLog (i : Nat) (f : Seq → Seq) : (s.setSeq i f).spnLog = s.spnLog := rfl
@[simp] theorem State.setSeq_lthLog (i : Nat) (f : Seq → Seq) : (s.setSeq i f).lthLog = s.lthLog := rfl
@[simp] theorem State.setSeq_lastRead (i : Nat) (f : Seq → Seq) : (s.setSeq i f).lastRead = s.lastRead := rfl
@[simp] theorem State.setSeq_lathes (i : Nat) (f : Seq → Seq) : (s.setSeq i f).lathes = s.lathes := rfl
@[simp] theorem State.setSeq_wakes (i : Nat) (f : Seq → Seq) : (s.setSeq i f).wakes = s.wakes := rfl
@[simp] theorem State.setSeq_ramps (i : Nat) (f : Seq → Seq) : (s.setSeq i f).ramps = s.ramps := rfl
@[simp] theorem State.setSeq_wakeGrants (i : Nat) (f : Seq → Seq) : (s.setSeq i f).wakeGrants = s.wakeGrants := rfl
@[simp] theorem State.setSeq_wakeLast (i : Nat) (f : Seq → Seq) : (s.setSeq i f).wakeLast = s.wakeLast := rfl
@[simp] theorem State.setSeq_selIn (i : Nat) (f : Seq → Seq) : (s.setSeq i f).selIn = s.selIn := rfl
@[simp] theorem State.setSeq_indices (i : Nat) (f : Seq → Seq) : (s.setSeq i f).indices = s.indices := rfl
@[simp] theorem State.setSeq_merges (i : Nat) (f : Seq → Seq) : (s.setSeq i f).merges = s.merges := rfl
@[simp] theorem State.setSeq_searches (i : Nat) (f : Seq → Seq) : (s.setSeq i f).searches = s.searches := rfl
@[simp] theorem State.setSeq_coords (i : Nat) (f : Seq → Seq) : (s.setSeq i f).coords = s.coords := rfl
@[simp] theorem State.setSeq_maps (i : Nat) (f : Seq → Seq) : (s.setSeq i f).maps = s.maps := rfl
@[simp] theorem State.setSeq_issueSeq (i : Nat) (f : Seq → Seq) : (s.setSeq i f).issueSeq = s.issueSeq := rfl
@[simp] theorem State.setSeq_gates (i : Nat) (f : Seq → Seq) : (s.setSeq i f).gates = s.gates := rfl
@[simp] theorem State.setSeq_jobs (i : Nat) (f : Seq → Seq) : (s.setSeq i f).jobs = s.jobs := rfl
@[simp] theorem State.setSeq_selLast (i : Nat) (f : Seq → Seq) : (s.setSeq i f).selLast = s.selLast := rfl
@[simp] theorem State.setSeq_tokLast (i : Nat) (f : Seq → Seq) : (s.setSeq i f).tokLast = s.tokLast := rfl
@[simp] theorem State.setSeq_engines (i : Nat) (f : Seq → Seq) : (s.setSeq i f).engines = s.engines := rfl
@[simp] theorem State.setSeq_vocabs (i : Nat) (f : Seq → Seq) : (s.setSeq i f).vocabs = s.vocabs := rfl
@[simp] theorem State.setSeq_grammars (i : Nat) (f : Seq → Seq) : (s.setSeq i f).grammars = s.grammars := rfl
@[simp] theorem State.setSeq_seqs (i : Nat) (f : Seq → Seq) :
    (s.setSeq i f).seqs = updateWhere s.seqs (fun q => q.idx == i) f := rfl
@[simp] theorem State.setSeq_seqGens (i : Nat) (f : Seq → Seq) : (s.setSeq i f).seqGens = s.seqGens := rfl
@[simp] theorem State.setSeq_cool (i : Nat) (f : Seq → Seq) : (s.setSeq i f).cool = s.cool := rfl
@[simp] theorem State.setSeq_prefixes (i : Nat) (f : Seq → Seq) : (s.setSeq i f).prefixes = s.prefixes := rfl
@[simp] theorem State.setSeq_kvPieces (i : Nat) (f : Seq → Seq) : (s.setSeq i f).kvPieces = s.kvPieces := rfl
@[simp] theorem State.setSeq_prefixGens (i : Nat) (f : Seq → Seq) : (s.setSeq i f).prefixGens = s.prefixGens := rfl
@[simp] theorem State.setSeq_stores (i : Nat) (f : Seq → Seq) : (s.setSeq i f).stores = s.stores := rfl
@[simp] theorem State.setSeq_variants (i : Nat) (f : Seq → Seq) : (s.setSeq i f).variants = s.variants := rfl
@[simp] theorem State.setSeq_trie (i : Nat) (f : Seq → Seq) : (s.setSeq i f).trie = s.trie := rfl
@[simp] theorem State.setSeq_turns (i : Nat) (f : Seq → Seq) : (s.setSeq i f).turns = s.turns := rfl
@[simp] theorem State.setSeq_runs (i : Nat) (f : Seq → Seq) : (s.setSeq i f).runs = s.runs := rfl
@[simp] theorem State.setSeq_fetches (i : Nat) (f : Seq → Seq) : (s.setSeq i f).fetches = s.fetches := rfl
@[simp] theorem State.setSeq_rags (i : Nat) (f : Seq → Seq) : (s.setSeq i f).rags = s.rags := rfl
@[simp] theorem State.setSeq_tables (i : Nat) (f : Seq → Seq) : (s.setSeq i f).tables = s.tables := rfl
@[simp] theorem State.setSeq_migs (i : Nat) (f : Seq → Seq) : (s.setSeq i f).migs = s.migs := rfl
@[simp] theorem State.setSeq_hotJobs (i : Nat) (f : Seq → Seq) : (s.setSeq i f).hotJobs = s.hotJobs := rfl
@[simp] theorem State.setSeq_embJobs (i : Nat) (f : Seq → Seq) : (s.setSeq i f).embJobs = s.embJobs := rfl
@[simp] theorem State.setSeq_embLast (i : Nat) (f : Seq → Seq) : (s.setSeq i f).embLast = s.embLast := rfl
@[simp] theorem State.setSeq_framed (i : Nat) (f : Seq → Seq) : (s.setSeq i f).framed = s.framed := rfl
@[simp] theorem State.setSeq_egress (i : Nat) (f : Seq → Seq) : (s.setSeq i f).egress = s.egress := rfl
@[simp] theorem State.setSeq_lineAt (i : Nat) (f : Seq → Seq) : (s.setSeq i f).lineAt = s.lineAt := rfl
@[simp] theorem State.setSeq_served (i : Nat) (f : Seq → Seq) : (s.setSeq i f).served = s.served := rfl
@[simp] theorem State.setSeq_meters (i : Nat) (f : Seq → Seq) : (s.setSeq i f).meters = s.meters := rfl
@[simp] theorem State.setSeq_meterAt (i : Nat) (f : Seq → Seq) : (s.setSeq i f).meterAt = s.meterAt := rfl
@[simp] theorem State.setSeq_telems (i : Nat) (f : Seq → Seq) : (s.setSeq i f).telems = s.telems := rfl
@[simp] theorem State.setSeq_telemSeq (i : Nat) (f : Seq → Seq) : (s.setSeq i f).telemSeq = s.telemSeq := rfl
@[simp] theorem State.setSeq_colls (i : Nat) (f : Seq → Seq) : (s.setSeq i f).colls = s.colls := rfl
@[simp] theorem State.setSeq_ptp (i : Nat) (f : Seq → Seq) : (s.setSeq i f).ptp = s.ptp := rfl
@[simp] theorem State.setSeq_mgmt10 (i : Nat) (f : Seq → Seq) : (s.setSeq i f).mgmt10 = s.mgmt10 := rfl
@[simp] theorem State.setSeq_mgmtDown (i : Nat) (f : Seq → Seq) : (s.setSeq i f).mgmtDown = s.mgmtDown := rfl
@[simp] theorem State.setSeq_pwr (i : Nat) (f : Seq → Seq) : (s.setSeq i f).pwr = s.pwr := rfl
@[simp] theorem State.setSeq_cxl (i : Nat) (f : Seq → Seq) : (s.setSeq i f).cxl = s.cxl := rfl
@[simp] theorem State.setSeq_flash (i : Nat) (f : Seq → Seq) : (s.setSeq i f).flash = s.flash := rfl
@[simp] theorem State.setSeq_faults (i : Nat) (f : Seq → Seq) : (s.setSeq i f).faults = s.faults := rfl
@[simp] theorem State.setSeq_cal (i : Nat) (f : Seq → Seq) : (s.setSeq i f).cal = s.cal := rfl
@[simp] theorem State.setSeq_boot (i : Nat) (f : Seq → Seq) : (s.setSeq i f).boot = s.boot := rfl

/-! ### setIndex -/

@[simp] theorem State.setIndex_pending (p i : Nat) (f : Index → Index) : (s.setIndex p i f).pending = s.pending := rfl
@[simp] theorem State.setIndex_now (p i : Nat) (f : Index → Index) : (s.setIndex p i f).now = s.now := rfl
@[simp] theorem State.setIndex_freeCtr (p i : Nat) (f : Index → Index) : (s.setIndex p i f).freeCtr = s.freeCtr := rfl
@[simp] theorem State.setIndex_cmdSeq (p i : Nat) (f : Index → Index) : (s.setIndex p i f).cmdSeq = s.cmdSeq := rfl
@[simp] theorem State.setIndex_csr (p i : Nat) (f : Index → Index) : (s.setIndex p i f).csr = s.csr := rfl
@[simp] theorem State.setIndex_mem (p i : Nat) (f : Index → Index) : (s.setIndex p i f).mem = s.mem := rfl
@[simp] theorem State.setIndex_veil (p i : Nat) (f : Index → Index) : (s.setIndex p i f).veil = s.veil := rfl
@[simp] theorem State.setIndex_ue (p i : Nat) (f : Index → Index) : (s.setIndex p i f).ue = s.ue := rfl
@[simp] theorem State.setIndex_ce (p i : Nat) (f : Index → Index) : (s.setIndex p i f).ce = s.ce := rfl
@[simp] theorem State.setIndex_sent (p i : Nat) (f : Index → Index) : (s.setIndex p i f).sent = s.sent := rfl
@[simp] theorem State.setIndex_qps (p i : Nat) (f : Index → Index) : (s.setIndex p i f).qps = s.qps := rfl
@[simp] theorem State.setIndex_cmds (p i : Nat) (f : Index → Index) : (s.setIndex p i f).cmds = s.cmds := rfl
@[simp] theorem State.setIndex_issued (p i : Nat) (f : Index → Index) : (s.setIndex p i f).issued = s.issued := rfl
@[simp] theorem State.setIndex_fw (p i : Nat) (f : Index → Index) : (s.setIndex p i f).fw = s.fw := rfl
@[simp] theorem State.setIndex_icu (p i : Nat) (f : Index → Index) : (s.setIndex p i f).icu = s.icu := rfl
@[simp] theorem State.setIndex_parts (p i : Nat) (f : Index → Index) : (s.setIndex p i f).parts = s.parts := rfl
@[simp] theorem State.setIndex_sec (p i : Nat) (f : Index → Index) : (s.setIndex p i f).sec = s.sec := rfl
@[simp] theorem State.setIndex_dir (p i : Nat) (f : Index → Index) : (s.setIndex p i f).dir = s.dir := rfl
@[simp] theorem State.setIndex_heap (p i : Nat) (f : Index → Index) : (s.setIndex p i f).heap = s.heap := rfl
@[simp] theorem State.setIndex_models (p i : Nat) (f : Index → Index) : (s.setIndex p i f).models = s.models := rfl
@[simp] theorem State.setIndex_runners (p i : Nat) (f : Index → Index) : (s.setIndex p i f).runners = s.runners := rfl
@[simp] theorem State.setIndex_evictRetries (p i : Nat) (f : Index → Index) : (s.setIndex p i f).evictRetries = s.evictRetries := rfl
@[simp] theorem State.setIndex_reports (p i : Nat) (f : Index → Index) : (s.setIndex p i f).reports = s.reports := rfl
@[simp] theorem State.setIndex_spn (p i : Nat) (f : Index → Index) : (s.setIndex p i f).spn = s.spn := rfl
@[simp] theorem State.setIndex_spnOut (p i : Nat) (f : Index → Index) : (s.setIndex p i f).spnOut = s.spnOut := rfl
@[simp] theorem State.setIndex_spnLog (p i : Nat) (f : Index → Index) : (s.setIndex p i f).spnLog = s.spnLog := rfl
@[simp] theorem State.setIndex_lthLog (p i : Nat) (f : Index → Index) : (s.setIndex p i f).lthLog = s.lthLog := rfl
@[simp] theorem State.setIndex_lastRead (p i : Nat) (f : Index → Index) : (s.setIndex p i f).lastRead = s.lastRead := rfl
@[simp] theorem State.setIndex_lathes (p i : Nat) (f : Index → Index) : (s.setIndex p i f).lathes = s.lathes := rfl
@[simp] theorem State.setIndex_wakes (p i : Nat) (f : Index → Index) : (s.setIndex p i f).wakes = s.wakes := rfl
@[simp] theorem State.setIndex_ramps (p i : Nat) (f : Index → Index) : (s.setIndex p i f).ramps = s.ramps := rfl
@[simp] theorem State.setIndex_wakeGrants (p i : Nat) (f : Index → Index) : (s.setIndex p i f).wakeGrants = s.wakeGrants := rfl
@[simp] theorem State.setIndex_wakeLast (p i : Nat) (f : Index → Index) : (s.setIndex p i f).wakeLast = s.wakeLast := rfl
@[simp] theorem State.setIndex_selIn (p i : Nat) (f : Index → Index) : (s.setIndex p i f).selIn = s.selIn := rfl
@[simp] theorem State.setIndex_indices (p i : Nat) (f : Index → Index) :
    (s.setIndex p i f).indices = updateWhere s.indices (fun x => x.part == p && x.num == i) f := rfl
@[simp] theorem State.setIndex_merges (p i : Nat) (f : Index → Index) : (s.setIndex p i f).merges = s.merges := rfl
@[simp] theorem State.setIndex_searches (p i : Nat) (f : Index → Index) : (s.setIndex p i f).searches = s.searches := rfl
@[simp] theorem State.setIndex_coords (p i : Nat) (f : Index → Index) : (s.setIndex p i f).coords = s.coords := rfl
@[simp] theorem State.setIndex_maps (p i : Nat) (f : Index → Index) : (s.setIndex p i f).maps = s.maps := rfl
@[simp] theorem State.setIndex_issueSeq (p i : Nat) (f : Index → Index) : (s.setIndex p i f).issueSeq = s.issueSeq := rfl
@[simp] theorem State.setIndex_gates (p i : Nat) (f : Index → Index) : (s.setIndex p i f).gates = s.gates := rfl
@[simp] theorem State.setIndex_jobs (p i : Nat) (f : Index → Index) : (s.setIndex p i f).jobs = s.jobs := rfl
@[simp] theorem State.setIndex_selLast (p i : Nat) (f : Index → Index) : (s.setIndex p i f).selLast = s.selLast := rfl
@[simp] theorem State.setIndex_tokLast (p i : Nat) (f : Index → Index) : (s.setIndex p i f).tokLast = s.tokLast := rfl
@[simp] theorem State.setIndex_engines (p i : Nat) (f : Index → Index) : (s.setIndex p i f).engines = s.engines := rfl
@[simp] theorem State.setIndex_vocabs (p i : Nat) (f : Index → Index) : (s.setIndex p i f).vocabs = s.vocabs := rfl
@[simp] theorem State.setIndex_grammars (p i : Nat) (f : Index → Index) : (s.setIndex p i f).grammars = s.grammars := rfl
@[simp] theorem State.setIndex_seqs (p i : Nat) (f : Index → Index) : (s.setIndex p i f).seqs = s.seqs := rfl
@[simp] theorem State.setIndex_seqGens (p i : Nat) (f : Index → Index) : (s.setIndex p i f).seqGens = s.seqGens := rfl
@[simp] theorem State.setIndex_cool (p i : Nat) (f : Index → Index) : (s.setIndex p i f).cool = s.cool := rfl
@[simp] theorem State.setIndex_prefixes (p i : Nat) (f : Index → Index) : (s.setIndex p i f).prefixes = s.prefixes := rfl
@[simp] theorem State.setIndex_kvPieces (p i : Nat) (f : Index → Index) : (s.setIndex p i f).kvPieces = s.kvPieces := rfl
@[simp] theorem State.setIndex_prefixGens (p i : Nat) (f : Index → Index) : (s.setIndex p i f).prefixGens = s.prefixGens := rfl
@[simp] theorem State.setIndex_stores (p i : Nat) (f : Index → Index) : (s.setIndex p i f).stores = s.stores := rfl
@[simp] theorem State.setIndex_variants (p i : Nat) (f : Index → Index) : (s.setIndex p i f).variants = s.variants := rfl
@[simp] theorem State.setIndex_trie (p i : Nat) (f : Index → Index) : (s.setIndex p i f).trie = s.trie := rfl
@[simp] theorem State.setIndex_turns (p i : Nat) (f : Index → Index) : (s.setIndex p i f).turns = s.turns := rfl
@[simp] theorem State.setIndex_runs (p i : Nat) (f : Index → Index) : (s.setIndex p i f).runs = s.runs := rfl
@[simp] theorem State.setIndex_fetches (p i : Nat) (f : Index → Index) : (s.setIndex p i f).fetches = s.fetches := rfl
@[simp] theorem State.setIndex_rags (p i : Nat) (f : Index → Index) : (s.setIndex p i f).rags = s.rags := rfl
@[simp] theorem State.setIndex_tables (p i : Nat) (f : Index → Index) : (s.setIndex p i f).tables = s.tables := rfl
@[simp] theorem State.setIndex_migs (p i : Nat) (f : Index → Index) : (s.setIndex p i f).migs = s.migs := rfl
@[simp] theorem State.setIndex_hotJobs (p i : Nat) (f : Index → Index) : (s.setIndex p i f).hotJobs = s.hotJobs := rfl
@[simp] theorem State.setIndex_embJobs (p i : Nat) (f : Index → Index) : (s.setIndex p i f).embJobs = s.embJobs := rfl
@[simp] theorem State.setIndex_embLast (p i : Nat) (f : Index → Index) : (s.setIndex p i f).embLast = s.embLast := rfl
@[simp] theorem State.setIndex_framed (p i : Nat) (f : Index → Index) : (s.setIndex p i f).framed = s.framed := rfl
@[simp] theorem State.setIndex_egress (p i : Nat) (f : Index → Index) : (s.setIndex p i f).egress = s.egress := rfl
@[simp] theorem State.setIndex_lineAt (p i : Nat) (f : Index → Index) : (s.setIndex p i f).lineAt = s.lineAt := rfl
@[simp] theorem State.setIndex_served (p i : Nat) (f : Index → Index) : (s.setIndex p i f).served = s.served := rfl
@[simp] theorem State.setIndex_meters (p i : Nat) (f : Index → Index) : (s.setIndex p i f).meters = s.meters := rfl
@[simp] theorem State.setIndex_meterAt (p i : Nat) (f : Index → Index) : (s.setIndex p i f).meterAt = s.meterAt := rfl
@[simp] theorem State.setIndex_telems (p i : Nat) (f : Index → Index) : (s.setIndex p i f).telems = s.telems := rfl
@[simp] theorem State.setIndex_telemSeq (p i : Nat) (f : Index → Index) : (s.setIndex p i f).telemSeq = s.telemSeq := rfl
@[simp] theorem State.setIndex_colls (p i : Nat) (f : Index → Index) : (s.setIndex p i f).colls = s.colls := rfl
@[simp] theorem State.setIndex_ptp (p i : Nat) (f : Index → Index) : (s.setIndex p i f).ptp = s.ptp := rfl
@[simp] theorem State.setIndex_mgmt10 (p i : Nat) (f : Index → Index) : (s.setIndex p i f).mgmt10 = s.mgmt10 := rfl
@[simp] theorem State.setIndex_mgmtDown (p i : Nat) (f : Index → Index) : (s.setIndex p i f).mgmtDown = s.mgmtDown := rfl
@[simp] theorem State.setIndex_pwr (p i : Nat) (f : Index → Index) : (s.setIndex p i f).pwr = s.pwr := rfl
@[simp] theorem State.setIndex_cxl (p i : Nat) (f : Index → Index) : (s.setIndex p i f).cxl = s.cxl := rfl
@[simp] theorem State.setIndex_flash (p i : Nat) (f : Index → Index) : (s.setIndex p i f).flash = s.flash := rfl
@[simp] theorem State.setIndex_faults (p i : Nat) (f : Index → Index) : (s.setIndex p i f).faults = s.faults := rfl
@[simp] theorem State.setIndex_cal (p i : Nat) (f : Index → Index) : (s.setIndex p i f).cal = s.cal := rfl
@[simp] theorem State.setIndex_boot (p i : Nat) (f : Index → Index) : (s.setIndex p i f).boot = s.boot := rfl

/-! ### setPwr -/

@[simp] theorem State.setPwr_pending (f : Pwr → Pwr) : (s.setPwr f).pending = s.pending := rfl
@[simp] theorem State.setPwr_now (f : Pwr → Pwr) : (s.setPwr f).now = s.now := rfl
@[simp] theorem State.setPwr_freeCtr (f : Pwr → Pwr) : (s.setPwr f).freeCtr = s.freeCtr := rfl
@[simp] theorem State.setPwr_cmdSeq (f : Pwr → Pwr) : (s.setPwr f).cmdSeq = s.cmdSeq := rfl
@[simp] theorem State.setPwr_csr (f : Pwr → Pwr) : (s.setPwr f).csr = s.csr := rfl
@[simp] theorem State.setPwr_mem (f : Pwr → Pwr) : (s.setPwr f).mem = s.mem := rfl
@[simp] theorem State.setPwr_veil (f : Pwr → Pwr) : (s.setPwr f).veil = s.veil := rfl
@[simp] theorem State.setPwr_ue (f : Pwr → Pwr) : (s.setPwr f).ue = s.ue := rfl
@[simp] theorem State.setPwr_ce (f : Pwr → Pwr) : (s.setPwr f).ce = s.ce := rfl
@[simp] theorem State.setPwr_sent (f : Pwr → Pwr) : (s.setPwr f).sent = s.sent := rfl
@[simp] theorem State.setPwr_qps (f : Pwr → Pwr) : (s.setPwr f).qps = s.qps := rfl
@[simp] theorem State.setPwr_cmds (f : Pwr → Pwr) : (s.setPwr f).cmds = s.cmds := rfl
@[simp] theorem State.setPwr_issued (f : Pwr → Pwr) : (s.setPwr f).issued = s.issued := rfl
@[simp] theorem State.setPwr_fw (f : Pwr → Pwr) : (s.setPwr f).fw = s.fw := rfl
@[simp] theorem State.setPwr_icu (f : Pwr → Pwr) : (s.setPwr f).icu = s.icu := rfl
@[simp] theorem State.setPwr_parts (f : Pwr → Pwr) : (s.setPwr f).parts = s.parts := rfl
@[simp] theorem State.setPwr_sec (f : Pwr → Pwr) : (s.setPwr f).sec = s.sec := rfl
@[simp] theorem State.setPwr_dir (f : Pwr → Pwr) : (s.setPwr f).dir = s.dir := rfl
@[simp] theorem State.setPwr_heap (f : Pwr → Pwr) : (s.setPwr f).heap = s.heap := rfl
@[simp] theorem State.setPwr_models (f : Pwr → Pwr) : (s.setPwr f).models = s.models := rfl
@[simp] theorem State.setPwr_runners (f : Pwr → Pwr) : (s.setPwr f).runners = s.runners := rfl
@[simp] theorem State.setPwr_evictRetries (f : Pwr → Pwr) : (s.setPwr f).evictRetries = s.evictRetries := rfl
@[simp] theorem State.setPwr_reports (f : Pwr → Pwr) : (s.setPwr f).reports = s.reports := rfl
@[simp] theorem State.setPwr_spn (f : Pwr → Pwr) : (s.setPwr f).spn = s.spn := rfl
@[simp] theorem State.setPwr_spnOut (f : Pwr → Pwr) : (s.setPwr f).spnOut = s.spnOut := rfl
@[simp] theorem State.setPwr_spnLog (f : Pwr → Pwr) : (s.setPwr f).spnLog = s.spnLog := rfl
@[simp] theorem State.setPwr_lthLog (f : Pwr → Pwr) : (s.setPwr f).lthLog = s.lthLog := rfl
@[simp] theorem State.setPwr_lastRead (f : Pwr → Pwr) : (s.setPwr f).lastRead = s.lastRead := rfl
@[simp] theorem State.setPwr_lathes (f : Pwr → Pwr) : (s.setPwr f).lathes = s.lathes := rfl
@[simp] theorem State.setPwr_wakes (f : Pwr → Pwr) : (s.setPwr f).wakes = s.wakes := rfl
@[simp] theorem State.setPwr_ramps (f : Pwr → Pwr) : (s.setPwr f).ramps = s.ramps := rfl
@[simp] theorem State.setPwr_wakeGrants (f : Pwr → Pwr) : (s.setPwr f).wakeGrants = s.wakeGrants := rfl
@[simp] theorem State.setPwr_wakeLast (f : Pwr → Pwr) : (s.setPwr f).wakeLast = s.wakeLast := rfl
@[simp] theorem State.setPwr_selIn (f : Pwr → Pwr) : (s.setPwr f).selIn = s.selIn := rfl
@[simp] theorem State.setPwr_indices (f : Pwr → Pwr) : (s.setPwr f).indices = s.indices := rfl
@[simp] theorem State.setPwr_merges (f : Pwr → Pwr) : (s.setPwr f).merges = s.merges := rfl
@[simp] theorem State.setPwr_searches (f : Pwr → Pwr) : (s.setPwr f).searches = s.searches := rfl
@[simp] theorem State.setPwr_coords (f : Pwr → Pwr) : (s.setPwr f).coords = s.coords := rfl
@[simp] theorem State.setPwr_maps (f : Pwr → Pwr) : (s.setPwr f).maps = s.maps := rfl
@[simp] theorem State.setPwr_issueSeq (f : Pwr → Pwr) : (s.setPwr f).issueSeq = s.issueSeq := rfl
@[simp] theorem State.setPwr_gates (f : Pwr → Pwr) : (s.setPwr f).gates = s.gates := rfl
@[simp] theorem State.setPwr_jobs (f : Pwr → Pwr) : (s.setPwr f).jobs = s.jobs := rfl
@[simp] theorem State.setPwr_selLast (f : Pwr → Pwr) : (s.setPwr f).selLast = s.selLast := rfl
@[simp] theorem State.setPwr_tokLast (f : Pwr → Pwr) : (s.setPwr f).tokLast = s.tokLast := rfl
@[simp] theorem State.setPwr_engines (f : Pwr → Pwr) : (s.setPwr f).engines = s.engines := rfl
@[simp] theorem State.setPwr_vocabs (f : Pwr → Pwr) : (s.setPwr f).vocabs = s.vocabs := rfl
@[simp] theorem State.setPwr_grammars (f : Pwr → Pwr) : (s.setPwr f).grammars = s.grammars := rfl
@[simp] theorem State.setPwr_seqs (f : Pwr → Pwr) : (s.setPwr f).seqs = s.seqs := rfl
@[simp] theorem State.setPwr_seqGens (f : Pwr → Pwr) : (s.setPwr f).seqGens = s.seqGens := rfl
@[simp] theorem State.setPwr_cool (f : Pwr → Pwr) : (s.setPwr f).cool = s.cool := rfl
@[simp] theorem State.setPwr_prefixes (f : Pwr → Pwr) : (s.setPwr f).prefixes = s.prefixes := rfl
@[simp] theorem State.setPwr_kvPieces (f : Pwr → Pwr) : (s.setPwr f).kvPieces = s.kvPieces := rfl
@[simp] theorem State.setPwr_prefixGens (f : Pwr → Pwr) : (s.setPwr f).prefixGens = s.prefixGens := rfl
@[simp] theorem State.setPwr_stores (f : Pwr → Pwr) : (s.setPwr f).stores = s.stores := rfl
@[simp] theorem State.setPwr_variants (f : Pwr → Pwr) : (s.setPwr f).variants = s.variants := rfl
@[simp] theorem State.setPwr_trie (f : Pwr → Pwr) : (s.setPwr f).trie = s.trie := rfl
@[simp] theorem State.setPwr_turns (f : Pwr → Pwr) : (s.setPwr f).turns = s.turns := rfl
@[simp] theorem State.setPwr_runs (f : Pwr → Pwr) : (s.setPwr f).runs = s.runs := rfl
@[simp] theorem State.setPwr_fetches (f : Pwr → Pwr) : (s.setPwr f).fetches = s.fetches := rfl
@[simp] theorem State.setPwr_rags (f : Pwr → Pwr) : (s.setPwr f).rags = s.rags := rfl
@[simp] theorem State.setPwr_tables (f : Pwr → Pwr) : (s.setPwr f).tables = s.tables := rfl
@[simp] theorem State.setPwr_migs (f : Pwr → Pwr) : (s.setPwr f).migs = s.migs := rfl
@[simp] theorem State.setPwr_hotJobs (f : Pwr → Pwr) : (s.setPwr f).hotJobs = s.hotJobs := rfl
@[simp] theorem State.setPwr_embJobs (f : Pwr → Pwr) : (s.setPwr f).embJobs = s.embJobs := rfl
@[simp] theorem State.setPwr_embLast (f : Pwr → Pwr) : (s.setPwr f).embLast = s.embLast := rfl
@[simp] theorem State.setPwr_framed (f : Pwr → Pwr) : (s.setPwr f).framed = s.framed := rfl
@[simp] theorem State.setPwr_egress (f : Pwr → Pwr) : (s.setPwr f).egress = s.egress := rfl
@[simp] theorem State.setPwr_lineAt (f : Pwr → Pwr) : (s.setPwr f).lineAt = s.lineAt := rfl
@[simp] theorem State.setPwr_served (f : Pwr → Pwr) : (s.setPwr f).served = s.served := rfl
@[simp] theorem State.setPwr_meters (f : Pwr → Pwr) : (s.setPwr f).meters = s.meters := rfl
@[simp] theorem State.setPwr_meterAt (f : Pwr → Pwr) : (s.setPwr f).meterAt = s.meterAt := rfl
@[simp] theorem State.setPwr_telems (f : Pwr → Pwr) : (s.setPwr f).telems = s.telems := rfl
@[simp] theorem State.setPwr_telemSeq (f : Pwr → Pwr) : (s.setPwr f).telemSeq = s.telemSeq := rfl
@[simp] theorem State.setPwr_colls (f : Pwr → Pwr) : (s.setPwr f).colls = s.colls := rfl
@[simp] theorem State.setPwr_ptp (f : Pwr → Pwr) : (s.setPwr f).ptp = s.ptp := rfl
@[simp] theorem State.setPwr_mgmt10 (f : Pwr → Pwr) : (s.setPwr f).mgmt10 = s.mgmt10 := rfl
@[simp] theorem State.setPwr_mgmtDown (f : Pwr → Pwr) : (s.setPwr f).mgmtDown = s.mgmtDown := rfl
@[simp] theorem State.setPwr_pwr (f : Pwr → Pwr) :
    (s.setPwr f).pwr = f s.pwr := rfl
@[simp] theorem State.setPwr_cxl (f : Pwr → Pwr) : (s.setPwr f).cxl = s.cxl := rfl
@[simp] theorem State.setPwr_flash (f : Pwr → Pwr) : (s.setPwr f).flash = s.flash := rfl
@[simp] theorem State.setPwr_faults (f : Pwr → Pwr) : (s.setPwr f).faults = s.faults := rfl
@[simp] theorem State.setPwr_cal (f : Pwr → Pwr) : (s.setPwr f).cal = s.cal := rfl
@[simp] theorem State.setPwr_boot (f : Pwr → Pwr) : (s.setPwr f).boot = s.boot := rfl

/-! ### setFaults -/

@[simp] theorem State.setFaults_pending (f : Faults → Faults) : (s.setFaults f).pending = s.pending := rfl
@[simp] theorem State.setFaults_now (f : Faults → Faults) : (s.setFaults f).now = s.now := rfl
@[simp] theorem State.setFaults_freeCtr (f : Faults → Faults) : (s.setFaults f).freeCtr = s.freeCtr := rfl
@[simp] theorem State.setFaults_cmdSeq (f : Faults → Faults) : (s.setFaults f).cmdSeq = s.cmdSeq := rfl
@[simp] theorem State.setFaults_csr (f : Faults → Faults) : (s.setFaults f).csr = s.csr := rfl
@[simp] theorem State.setFaults_mem (f : Faults → Faults) : (s.setFaults f).mem = s.mem := rfl
@[simp] theorem State.setFaults_veil (f : Faults → Faults) : (s.setFaults f).veil = s.veil := rfl
@[simp] theorem State.setFaults_ue (f : Faults → Faults) : (s.setFaults f).ue = s.ue := rfl
@[simp] theorem State.setFaults_ce (f : Faults → Faults) : (s.setFaults f).ce = s.ce := rfl
@[simp] theorem State.setFaults_sent (f : Faults → Faults) : (s.setFaults f).sent = s.sent := rfl
@[simp] theorem State.setFaults_qps (f : Faults → Faults) : (s.setFaults f).qps = s.qps := rfl
@[simp] theorem State.setFaults_cmds (f : Faults → Faults) : (s.setFaults f).cmds = s.cmds := rfl
@[simp] theorem State.setFaults_issued (f : Faults → Faults) : (s.setFaults f).issued = s.issued := rfl
@[simp] theorem State.setFaults_fw (f : Faults → Faults) : (s.setFaults f).fw = s.fw := rfl
@[simp] theorem State.setFaults_icu (f : Faults → Faults) : (s.setFaults f).icu = s.icu := rfl
@[simp] theorem State.setFaults_parts (f : Faults → Faults) : (s.setFaults f).parts = s.parts := rfl
@[simp] theorem State.setFaults_sec (f : Faults → Faults) : (s.setFaults f).sec = s.sec := rfl
@[simp] theorem State.setFaults_dir (f : Faults → Faults) : (s.setFaults f).dir = s.dir := rfl
@[simp] theorem State.setFaults_heap (f : Faults → Faults) : (s.setFaults f).heap = s.heap := rfl
@[simp] theorem State.setFaults_models (f : Faults → Faults) : (s.setFaults f).models = s.models := rfl
@[simp] theorem State.setFaults_runners (f : Faults → Faults) : (s.setFaults f).runners = s.runners := rfl
@[simp] theorem State.setFaults_evictRetries (f : Faults → Faults) : (s.setFaults f).evictRetries = s.evictRetries := rfl
@[simp] theorem State.setFaults_reports (f : Faults → Faults) : (s.setFaults f).reports = s.reports := rfl
@[simp] theorem State.setFaults_spn (f : Faults → Faults) : (s.setFaults f).spn = s.spn := rfl
@[simp] theorem State.setFaults_spnOut (f : Faults → Faults) : (s.setFaults f).spnOut = s.spnOut := rfl
@[simp] theorem State.setFaults_spnLog (f : Faults → Faults) : (s.setFaults f).spnLog = s.spnLog := rfl
@[simp] theorem State.setFaults_lthLog (f : Faults → Faults) : (s.setFaults f).lthLog = s.lthLog := rfl
@[simp] theorem State.setFaults_lastRead (f : Faults → Faults) : (s.setFaults f).lastRead = s.lastRead := rfl
@[simp] theorem State.setFaults_lathes (f : Faults → Faults) : (s.setFaults f).lathes = s.lathes := rfl
@[simp] theorem State.setFaults_wakes (f : Faults → Faults) : (s.setFaults f).wakes = s.wakes := rfl
@[simp] theorem State.setFaults_ramps (f : Faults → Faults) : (s.setFaults f).ramps = s.ramps := rfl
@[simp] theorem State.setFaults_wakeGrants (f : Faults → Faults) : (s.setFaults f).wakeGrants = s.wakeGrants := rfl
@[simp] theorem State.setFaults_wakeLast (f : Faults → Faults) : (s.setFaults f).wakeLast = s.wakeLast := rfl
@[simp] theorem State.setFaults_selIn (f : Faults → Faults) : (s.setFaults f).selIn = s.selIn := rfl
@[simp] theorem State.setFaults_indices (f : Faults → Faults) : (s.setFaults f).indices = s.indices := rfl
@[simp] theorem State.setFaults_merges (f : Faults → Faults) : (s.setFaults f).merges = s.merges := rfl
@[simp] theorem State.setFaults_searches (f : Faults → Faults) : (s.setFaults f).searches = s.searches := rfl
@[simp] theorem State.setFaults_coords (f : Faults → Faults) : (s.setFaults f).coords = s.coords := rfl
@[simp] theorem State.setFaults_maps (f : Faults → Faults) : (s.setFaults f).maps = s.maps := rfl
@[simp] theorem State.setFaults_issueSeq (f : Faults → Faults) : (s.setFaults f).issueSeq = s.issueSeq := rfl
@[simp] theorem State.setFaults_gates (f : Faults → Faults) : (s.setFaults f).gates = s.gates := rfl
@[simp] theorem State.setFaults_jobs (f : Faults → Faults) : (s.setFaults f).jobs = s.jobs := rfl
@[simp] theorem State.setFaults_selLast (f : Faults → Faults) : (s.setFaults f).selLast = s.selLast := rfl
@[simp] theorem State.setFaults_tokLast (f : Faults → Faults) : (s.setFaults f).tokLast = s.tokLast := rfl
@[simp] theorem State.setFaults_engines (f : Faults → Faults) : (s.setFaults f).engines = s.engines := rfl
@[simp] theorem State.setFaults_vocabs (f : Faults → Faults) : (s.setFaults f).vocabs = s.vocabs := rfl
@[simp] theorem State.setFaults_grammars (f : Faults → Faults) : (s.setFaults f).grammars = s.grammars := rfl
@[simp] theorem State.setFaults_seqs (f : Faults → Faults) : (s.setFaults f).seqs = s.seqs := rfl
@[simp] theorem State.setFaults_seqGens (f : Faults → Faults) : (s.setFaults f).seqGens = s.seqGens := rfl
@[simp] theorem State.setFaults_cool (f : Faults → Faults) : (s.setFaults f).cool = s.cool := rfl
@[simp] theorem State.setFaults_prefixes (f : Faults → Faults) : (s.setFaults f).prefixes = s.prefixes := rfl
@[simp] theorem State.setFaults_kvPieces (f : Faults → Faults) : (s.setFaults f).kvPieces = s.kvPieces := rfl
@[simp] theorem State.setFaults_prefixGens (f : Faults → Faults) : (s.setFaults f).prefixGens = s.prefixGens := rfl
@[simp] theorem State.setFaults_stores (f : Faults → Faults) : (s.setFaults f).stores = s.stores := rfl
@[simp] theorem State.setFaults_variants (f : Faults → Faults) : (s.setFaults f).variants = s.variants := rfl
@[simp] theorem State.setFaults_trie (f : Faults → Faults) : (s.setFaults f).trie = s.trie := rfl
@[simp] theorem State.setFaults_turns (f : Faults → Faults) : (s.setFaults f).turns = s.turns := rfl
@[simp] theorem State.setFaults_runs (f : Faults → Faults) : (s.setFaults f).runs = s.runs := rfl
@[simp] theorem State.setFaults_fetches (f : Faults → Faults) : (s.setFaults f).fetches = s.fetches := rfl
@[simp] theorem State.setFaults_rags (f : Faults → Faults) : (s.setFaults f).rags = s.rags := rfl
@[simp] theorem State.setFaults_tables (f : Faults → Faults) : (s.setFaults f).tables = s.tables := rfl
@[simp] theorem State.setFaults_migs (f : Faults → Faults) : (s.setFaults f).migs = s.migs := rfl
@[simp] theorem State.setFaults_hotJobs (f : Faults → Faults) : (s.setFaults f).hotJobs = s.hotJobs := rfl
@[simp] theorem State.setFaults_embJobs (f : Faults → Faults) : (s.setFaults f).embJobs = s.embJobs := rfl
@[simp] theorem State.setFaults_embLast (f : Faults → Faults) : (s.setFaults f).embLast = s.embLast := rfl
@[simp] theorem State.setFaults_framed (f : Faults → Faults) : (s.setFaults f).framed = s.framed := rfl
@[simp] theorem State.setFaults_egress (f : Faults → Faults) : (s.setFaults f).egress = s.egress := rfl
@[simp] theorem State.setFaults_lineAt (f : Faults → Faults) : (s.setFaults f).lineAt = s.lineAt := rfl
@[simp] theorem State.setFaults_served (f : Faults → Faults) : (s.setFaults f).served = s.served := rfl
@[simp] theorem State.setFaults_meters (f : Faults → Faults) : (s.setFaults f).meters = s.meters := rfl
@[simp] theorem State.setFaults_meterAt (f : Faults → Faults) : (s.setFaults f).meterAt = s.meterAt := rfl
@[simp] theorem State.setFaults_telems (f : Faults → Faults) : (s.setFaults f).telems = s.telems := rfl
@[simp] theorem State.setFaults_telemSeq (f : Faults → Faults) : (s.setFaults f).telemSeq = s.telemSeq := rfl
@[simp] theorem State.setFaults_colls (f : Faults → Faults) : (s.setFaults f).colls = s.colls := rfl
@[simp] theorem State.setFaults_ptp (f : Faults → Faults) : (s.setFaults f).ptp = s.ptp := rfl
@[simp] theorem State.setFaults_mgmt10 (f : Faults → Faults) : (s.setFaults f).mgmt10 = s.mgmt10 := rfl
@[simp] theorem State.setFaults_mgmtDown (f : Faults → Faults) : (s.setFaults f).mgmtDown = s.mgmtDown := rfl
@[simp] theorem State.setFaults_pwr (f : Faults → Faults) : (s.setFaults f).pwr = s.pwr := rfl
@[simp] theorem State.setFaults_cxl (f : Faults → Faults) : (s.setFaults f).cxl = s.cxl := rfl
@[simp] theorem State.setFaults_flash (f : Faults → Faults) : (s.setFaults f).flash = s.flash := rfl
@[simp] theorem State.setFaults_faults (f : Faults → Faults) :
    (s.setFaults f).faults = f s.faults := rfl
@[simp] theorem State.setFaults_cal (f : Faults → Faults) : (s.setFaults f).cal = s.cal := rfl
@[simp] theorem State.setFaults_boot (f : Faults → Faults) : (s.setFaults f).boot = s.boot := rfl

/-! ### setLathe -/

@[simp] theorem State.setLathe_pending (n : Nat) (f : Lathe → Lathe) : (s.setLathe n f).pending = s.pending := rfl
@[simp] theorem State.setLathe_now (n : Nat) (f : Lathe → Lathe) : (s.setLathe n f).now = s.now := rfl
@[simp] theorem State.setLathe_freeCtr (n : Nat) (f : Lathe → Lathe) : (s.setLathe n f).freeCtr = s.freeCtr := rfl
@[simp] theorem State.setLathe_cmdSeq (n : Nat) (f : Lathe → Lathe) : (s.setLathe n f).cmdSeq = s.cmdSeq := rfl
@[simp] theorem State.setLathe_csr (n : Nat) (f : Lathe → Lathe) : (s.setLathe n f).csr = s.csr := rfl
@[simp] theorem State.setLathe_mem (n : Nat) (f : Lathe → Lathe) : (s.setLathe n f).mem = s.mem := rfl
@[simp] theorem State.setLathe_veil (n : Nat) (f : Lathe → Lathe) : (s.setLathe n f).veil = s.veil := rfl
@[simp] theorem State.setLathe_ue (n : Nat) (f : Lathe → Lathe) : (s.setLathe n f).ue = s.ue := rfl
@[simp] theorem State.setLathe_ce (n : Nat) (f : Lathe → Lathe) : (s.setLathe n f).ce = s.ce := rfl
@[simp] theorem State.setLathe_sent (n : Nat) (f : Lathe → Lathe) : (s.setLathe n f).sent = s.sent := rfl
@[simp] theorem State.setLathe_qps (n : Nat) (f : Lathe → Lathe) : (s.setLathe n f).qps = s.qps := rfl
@[simp] theorem State.setLathe_cmds (n : Nat) (f : Lathe → Lathe) : (s.setLathe n f).cmds = s.cmds := rfl
@[simp] theorem State.setLathe_issued (n : Nat) (f : Lathe → Lathe) : (s.setLathe n f).issued = s.issued := rfl
@[simp] theorem State.setLathe_fw (n : Nat) (f : Lathe → Lathe) : (s.setLathe n f).fw = s.fw := rfl
@[simp] theorem State.setLathe_icu (n : Nat) (f : Lathe → Lathe) : (s.setLathe n f).icu = s.icu := rfl
@[simp] theorem State.setLathe_parts (n : Nat) (f : Lathe → Lathe) : (s.setLathe n f).parts = s.parts := rfl
@[simp] theorem State.setLathe_sec (n : Nat) (f : Lathe → Lathe) : (s.setLathe n f).sec = s.sec := rfl
@[simp] theorem State.setLathe_dir (n : Nat) (f : Lathe → Lathe) : (s.setLathe n f).dir = s.dir := rfl
@[simp] theorem State.setLathe_heap (n : Nat) (f : Lathe → Lathe) : (s.setLathe n f).heap = s.heap := rfl
@[simp] theorem State.setLathe_models (n : Nat) (f : Lathe → Lathe) : (s.setLathe n f).models = s.models := rfl
@[simp] theorem State.setLathe_runners (n : Nat) (f : Lathe → Lathe) : (s.setLathe n f).runners = s.runners := rfl
@[simp] theorem State.setLathe_evictRetries (n : Nat) (f : Lathe → Lathe) : (s.setLathe n f).evictRetries = s.evictRetries := rfl
@[simp] theorem State.setLathe_reports (n : Nat) (f : Lathe → Lathe) : (s.setLathe n f).reports = s.reports := rfl
@[simp] theorem State.setLathe_spn (n : Nat) (f : Lathe → Lathe) : (s.setLathe n f).spn = s.spn := rfl
@[simp] theorem State.setLathe_spnOut (n : Nat) (f : Lathe → Lathe) : (s.setLathe n f).spnOut = s.spnOut := rfl
@[simp] theorem State.setLathe_spnLog (n : Nat) (f : Lathe → Lathe) : (s.setLathe n f).spnLog = s.spnLog := rfl
@[simp] theorem State.setLathe_lthLog (n : Nat) (f : Lathe → Lathe) : (s.setLathe n f).lthLog = s.lthLog := rfl
@[simp] theorem State.setLathe_lastRead (n : Nat) (f : Lathe → Lathe) : (s.setLathe n f).lastRead = s.lastRead := rfl
@[simp] theorem State.setLathe_lathes (n : Nat) (f : Lathe → Lathe) :
    (s.setLathe n f).lathes = modifyAt s.lathes n f := rfl
@[simp] theorem State.setLathe_wakes (n : Nat) (f : Lathe → Lathe) : (s.setLathe n f).wakes = s.wakes := rfl
@[simp] theorem State.setLathe_ramps (n : Nat) (f : Lathe → Lathe) : (s.setLathe n f).ramps = s.ramps := rfl
@[simp] theorem State.setLathe_wakeGrants (n : Nat) (f : Lathe → Lathe) : (s.setLathe n f).wakeGrants = s.wakeGrants := rfl
@[simp] theorem State.setLathe_wakeLast (n : Nat) (f : Lathe → Lathe) : (s.setLathe n f).wakeLast = s.wakeLast := rfl
@[simp] theorem State.setLathe_selIn (n : Nat) (f : Lathe → Lathe) : (s.setLathe n f).selIn = s.selIn := rfl
@[simp] theorem State.setLathe_indices (n : Nat) (f : Lathe → Lathe) : (s.setLathe n f).indices = s.indices := rfl
@[simp] theorem State.setLathe_merges (n : Nat) (f : Lathe → Lathe) : (s.setLathe n f).merges = s.merges := rfl
@[simp] theorem State.setLathe_searches (n : Nat) (f : Lathe → Lathe) : (s.setLathe n f).searches = s.searches := rfl
@[simp] theorem State.setLathe_coords (n : Nat) (f : Lathe → Lathe) : (s.setLathe n f).coords = s.coords := rfl
@[simp] theorem State.setLathe_maps (n : Nat) (f : Lathe → Lathe) : (s.setLathe n f).maps = s.maps := rfl
@[simp] theorem State.setLathe_issueSeq (n : Nat) (f : Lathe → Lathe) : (s.setLathe n f).issueSeq = s.issueSeq := rfl
@[simp] theorem State.setLathe_gates (n : Nat) (f : Lathe → Lathe) : (s.setLathe n f).gates = s.gates := rfl
@[simp] theorem State.setLathe_jobs (n : Nat) (f : Lathe → Lathe) : (s.setLathe n f).jobs = s.jobs := rfl
@[simp] theorem State.setLathe_selLast (n : Nat) (f : Lathe → Lathe) : (s.setLathe n f).selLast = s.selLast := rfl
@[simp] theorem State.setLathe_tokLast (n : Nat) (f : Lathe → Lathe) : (s.setLathe n f).tokLast = s.tokLast := rfl
@[simp] theorem State.setLathe_engines (n : Nat) (f : Lathe → Lathe) : (s.setLathe n f).engines = s.engines := rfl
@[simp] theorem State.setLathe_vocabs (n : Nat) (f : Lathe → Lathe) : (s.setLathe n f).vocabs = s.vocabs := rfl
@[simp] theorem State.setLathe_grammars (n : Nat) (f : Lathe → Lathe) : (s.setLathe n f).grammars = s.grammars := rfl
@[simp] theorem State.setLathe_seqs (n : Nat) (f : Lathe → Lathe) : (s.setLathe n f).seqs = s.seqs := rfl
@[simp] theorem State.setLathe_seqGens (n : Nat) (f : Lathe → Lathe) : (s.setLathe n f).seqGens = s.seqGens := rfl
@[simp] theorem State.setLathe_cool (n : Nat) (f : Lathe → Lathe) : (s.setLathe n f).cool = s.cool := rfl
@[simp] theorem State.setLathe_prefixes (n : Nat) (f : Lathe → Lathe) : (s.setLathe n f).prefixes = s.prefixes := rfl
@[simp] theorem State.setLathe_kvPieces (n : Nat) (f : Lathe → Lathe) : (s.setLathe n f).kvPieces = s.kvPieces := rfl
@[simp] theorem State.setLathe_prefixGens (n : Nat) (f : Lathe → Lathe) : (s.setLathe n f).prefixGens = s.prefixGens := rfl
@[simp] theorem State.setLathe_stores (n : Nat) (f : Lathe → Lathe) : (s.setLathe n f).stores = s.stores := rfl
@[simp] theorem State.setLathe_variants (n : Nat) (f : Lathe → Lathe) : (s.setLathe n f).variants = s.variants := rfl
@[simp] theorem State.setLathe_trie (n : Nat) (f : Lathe → Lathe) : (s.setLathe n f).trie = s.trie := rfl
@[simp] theorem State.setLathe_turns (n : Nat) (f : Lathe → Lathe) : (s.setLathe n f).turns = s.turns := rfl
@[simp] theorem State.setLathe_runs (n : Nat) (f : Lathe → Lathe) : (s.setLathe n f).runs = s.runs := rfl
@[simp] theorem State.setLathe_fetches (n : Nat) (f : Lathe → Lathe) : (s.setLathe n f).fetches = s.fetches := rfl
@[simp] theorem State.setLathe_rags (n : Nat) (f : Lathe → Lathe) : (s.setLathe n f).rags = s.rags := rfl
@[simp] theorem State.setLathe_tables (n : Nat) (f : Lathe → Lathe) : (s.setLathe n f).tables = s.tables := rfl
@[simp] theorem State.setLathe_migs (n : Nat) (f : Lathe → Lathe) : (s.setLathe n f).migs = s.migs := rfl
@[simp] theorem State.setLathe_hotJobs (n : Nat) (f : Lathe → Lathe) : (s.setLathe n f).hotJobs = s.hotJobs := rfl
@[simp] theorem State.setLathe_embJobs (n : Nat) (f : Lathe → Lathe) : (s.setLathe n f).embJobs = s.embJobs := rfl
@[simp] theorem State.setLathe_embLast (n : Nat) (f : Lathe → Lathe) : (s.setLathe n f).embLast = s.embLast := rfl
@[simp] theorem State.setLathe_framed (n : Nat) (f : Lathe → Lathe) : (s.setLathe n f).framed = s.framed := rfl
@[simp] theorem State.setLathe_egress (n : Nat) (f : Lathe → Lathe) : (s.setLathe n f).egress = s.egress := rfl
@[simp] theorem State.setLathe_lineAt (n : Nat) (f : Lathe → Lathe) : (s.setLathe n f).lineAt = s.lineAt := rfl
@[simp] theorem State.setLathe_served (n : Nat) (f : Lathe → Lathe) : (s.setLathe n f).served = s.served := rfl
@[simp] theorem State.setLathe_meters (n : Nat) (f : Lathe → Lathe) : (s.setLathe n f).meters = s.meters := rfl
@[simp] theorem State.setLathe_meterAt (n : Nat) (f : Lathe → Lathe) : (s.setLathe n f).meterAt = s.meterAt := rfl
@[simp] theorem State.setLathe_telems (n : Nat) (f : Lathe → Lathe) : (s.setLathe n f).telems = s.telems := rfl
@[simp] theorem State.setLathe_telemSeq (n : Nat) (f : Lathe → Lathe) : (s.setLathe n f).telemSeq = s.telemSeq := rfl
@[simp] theorem State.setLathe_colls (n : Nat) (f : Lathe → Lathe) : (s.setLathe n f).colls = s.colls := rfl
@[simp] theorem State.setLathe_ptp (n : Nat) (f : Lathe → Lathe) : (s.setLathe n f).ptp = s.ptp := rfl
@[simp] theorem State.setLathe_mgmt10 (n : Nat) (f : Lathe → Lathe) : (s.setLathe n f).mgmt10 = s.mgmt10 := rfl
@[simp] theorem State.setLathe_mgmtDown (n : Nat) (f : Lathe → Lathe) : (s.setLathe n f).mgmtDown = s.mgmtDown := rfl
@[simp] theorem State.setLathe_pwr (n : Nat) (f : Lathe → Lathe) : (s.setLathe n f).pwr = s.pwr := rfl
@[simp] theorem State.setLathe_cxl (n : Nat) (f : Lathe → Lathe) : (s.setLathe n f).cxl = s.cxl := rfl
@[simp] theorem State.setLathe_flash (n : Nat) (f : Lathe → Lathe) : (s.setLathe n f).flash = s.flash := rfl
@[simp] theorem State.setLathe_faults (n : Nat) (f : Lathe → Lathe) : (s.setLathe n f).faults = s.faults := rfl
@[simp] theorem State.setLathe_cal (n : Nat) (f : Lathe → Lathe) : (s.setLathe n f).cal = s.cal := rfl
@[simp] theorem State.setLathe_boot (n : Nat) (f : Lathe → Lathe) : (s.setLathe n f).boot = s.boot := rfl

/-! ### setRunner -/

@[simp] theorem State.setRunner_pending (p : Nat) (f : Runner → Runner) : (s.setRunner p f).pending = s.pending := rfl
@[simp] theorem State.setRunner_now (p : Nat) (f : Runner → Runner) : (s.setRunner p f).now = s.now := rfl
@[simp] theorem State.setRunner_freeCtr (p : Nat) (f : Runner → Runner) : (s.setRunner p f).freeCtr = s.freeCtr := rfl
@[simp] theorem State.setRunner_cmdSeq (p : Nat) (f : Runner → Runner) : (s.setRunner p f).cmdSeq = s.cmdSeq := rfl
@[simp] theorem State.setRunner_csr (p : Nat) (f : Runner → Runner) : (s.setRunner p f).csr = s.csr := rfl
@[simp] theorem State.setRunner_mem (p : Nat) (f : Runner → Runner) : (s.setRunner p f).mem = s.mem := rfl
@[simp] theorem State.setRunner_veil (p : Nat) (f : Runner → Runner) : (s.setRunner p f).veil = s.veil := rfl
@[simp] theorem State.setRunner_ue (p : Nat) (f : Runner → Runner) : (s.setRunner p f).ue = s.ue := rfl
@[simp] theorem State.setRunner_ce (p : Nat) (f : Runner → Runner) : (s.setRunner p f).ce = s.ce := rfl
@[simp] theorem State.setRunner_sent (p : Nat) (f : Runner → Runner) : (s.setRunner p f).sent = s.sent := rfl
@[simp] theorem State.setRunner_qps (p : Nat) (f : Runner → Runner) : (s.setRunner p f).qps = s.qps := rfl
@[simp] theorem State.setRunner_cmds (p : Nat) (f : Runner → Runner) : (s.setRunner p f).cmds = s.cmds := rfl
@[simp] theorem State.setRunner_issued (p : Nat) (f : Runner → Runner) : (s.setRunner p f).issued = s.issued := rfl
@[simp] theorem State.setRunner_fw (p : Nat) (f : Runner → Runner) : (s.setRunner p f).fw = s.fw := rfl
@[simp] theorem State.setRunner_icu (p : Nat) (f : Runner → Runner) : (s.setRunner p f).icu = s.icu := rfl
@[simp] theorem State.setRunner_parts (p : Nat) (f : Runner → Runner) : (s.setRunner p f).parts = s.parts := rfl
@[simp] theorem State.setRunner_sec (p : Nat) (f : Runner → Runner) : (s.setRunner p f).sec = s.sec := rfl
@[simp] theorem State.setRunner_dir (p : Nat) (f : Runner → Runner) : (s.setRunner p f).dir = s.dir := rfl
@[simp] theorem State.setRunner_heap (p : Nat) (f : Runner → Runner) : (s.setRunner p f).heap = s.heap := rfl
@[simp] theorem State.setRunner_models (p : Nat) (f : Runner → Runner) : (s.setRunner p f).models = s.models := rfl
@[simp] theorem State.setRunner_runners (p : Nat) (f : Runner → Runner) :
    (s.setRunner p f).runners = modifyAt s.runners p f := rfl
@[simp] theorem State.setRunner_evictRetries (p : Nat) (f : Runner → Runner) : (s.setRunner p f).evictRetries = s.evictRetries := rfl
@[simp] theorem State.setRunner_reports (p : Nat) (f : Runner → Runner) : (s.setRunner p f).reports = s.reports := rfl
@[simp] theorem State.setRunner_spn (p : Nat) (f : Runner → Runner) : (s.setRunner p f).spn = s.spn := rfl
@[simp] theorem State.setRunner_spnOut (p : Nat) (f : Runner → Runner) : (s.setRunner p f).spnOut = s.spnOut := rfl
@[simp] theorem State.setRunner_spnLog (p : Nat) (f : Runner → Runner) : (s.setRunner p f).spnLog = s.spnLog := rfl
@[simp] theorem State.setRunner_lthLog (p : Nat) (f : Runner → Runner) : (s.setRunner p f).lthLog = s.lthLog := rfl
@[simp] theorem State.setRunner_lastRead (p : Nat) (f : Runner → Runner) : (s.setRunner p f).lastRead = s.lastRead := rfl
@[simp] theorem State.setRunner_lathes (p : Nat) (f : Runner → Runner) : (s.setRunner p f).lathes = s.lathes := rfl
@[simp] theorem State.setRunner_wakes (p : Nat) (f : Runner → Runner) : (s.setRunner p f).wakes = s.wakes := rfl
@[simp] theorem State.setRunner_ramps (p : Nat) (f : Runner → Runner) : (s.setRunner p f).ramps = s.ramps := rfl
@[simp] theorem State.setRunner_wakeGrants (p : Nat) (f : Runner → Runner) : (s.setRunner p f).wakeGrants = s.wakeGrants := rfl
@[simp] theorem State.setRunner_wakeLast (p : Nat) (f : Runner → Runner) : (s.setRunner p f).wakeLast = s.wakeLast := rfl
@[simp] theorem State.setRunner_selIn (p : Nat) (f : Runner → Runner) : (s.setRunner p f).selIn = s.selIn := rfl
@[simp] theorem State.setRunner_indices (p : Nat) (f : Runner → Runner) : (s.setRunner p f).indices = s.indices := rfl
@[simp] theorem State.setRunner_merges (p : Nat) (f : Runner → Runner) : (s.setRunner p f).merges = s.merges := rfl
@[simp] theorem State.setRunner_searches (p : Nat) (f : Runner → Runner) : (s.setRunner p f).searches = s.searches := rfl
@[simp] theorem State.setRunner_coords (p : Nat) (f : Runner → Runner) : (s.setRunner p f).coords = s.coords := rfl
@[simp] theorem State.setRunner_maps (p : Nat) (f : Runner → Runner) : (s.setRunner p f).maps = s.maps := rfl
@[simp] theorem State.setRunner_issueSeq (p : Nat) (f : Runner → Runner) : (s.setRunner p f).issueSeq = s.issueSeq := rfl
@[simp] theorem State.setRunner_gates (p : Nat) (f : Runner → Runner) : (s.setRunner p f).gates = s.gates := rfl
@[simp] theorem State.setRunner_jobs (p : Nat) (f : Runner → Runner) : (s.setRunner p f).jobs = s.jobs := rfl
@[simp] theorem State.setRunner_selLast (p : Nat) (f : Runner → Runner) : (s.setRunner p f).selLast = s.selLast := rfl
@[simp] theorem State.setRunner_tokLast (p : Nat) (f : Runner → Runner) : (s.setRunner p f).tokLast = s.tokLast := rfl
@[simp] theorem State.setRunner_engines (p : Nat) (f : Runner → Runner) : (s.setRunner p f).engines = s.engines := rfl
@[simp] theorem State.setRunner_vocabs (p : Nat) (f : Runner → Runner) : (s.setRunner p f).vocabs = s.vocabs := rfl
@[simp] theorem State.setRunner_grammars (p : Nat) (f : Runner → Runner) : (s.setRunner p f).grammars = s.grammars := rfl
@[simp] theorem State.setRunner_seqs (p : Nat) (f : Runner → Runner) : (s.setRunner p f).seqs = s.seqs := rfl
@[simp] theorem State.setRunner_seqGens (p : Nat) (f : Runner → Runner) : (s.setRunner p f).seqGens = s.seqGens := rfl
@[simp] theorem State.setRunner_cool (p : Nat) (f : Runner → Runner) : (s.setRunner p f).cool = s.cool := rfl
@[simp] theorem State.setRunner_prefixes (p : Nat) (f : Runner → Runner) : (s.setRunner p f).prefixes = s.prefixes := rfl
@[simp] theorem State.setRunner_kvPieces (p : Nat) (f : Runner → Runner) : (s.setRunner p f).kvPieces = s.kvPieces := rfl
@[simp] theorem State.setRunner_prefixGens (p : Nat) (f : Runner → Runner) : (s.setRunner p f).prefixGens = s.prefixGens := rfl
@[simp] theorem State.setRunner_stores (p : Nat) (f : Runner → Runner) : (s.setRunner p f).stores = s.stores := rfl
@[simp] theorem State.setRunner_variants (p : Nat) (f : Runner → Runner) : (s.setRunner p f).variants = s.variants := rfl
@[simp] theorem State.setRunner_trie (p : Nat) (f : Runner → Runner) : (s.setRunner p f).trie = s.trie := rfl
@[simp] theorem State.setRunner_turns (p : Nat) (f : Runner → Runner) : (s.setRunner p f).turns = s.turns := rfl
@[simp] theorem State.setRunner_runs (p : Nat) (f : Runner → Runner) : (s.setRunner p f).runs = s.runs := rfl
@[simp] theorem State.setRunner_fetches (p : Nat) (f : Runner → Runner) : (s.setRunner p f).fetches = s.fetches := rfl
@[simp] theorem State.setRunner_rags (p : Nat) (f : Runner → Runner) : (s.setRunner p f).rags = s.rags := rfl
@[simp] theorem State.setRunner_tables (p : Nat) (f : Runner → Runner) : (s.setRunner p f).tables = s.tables := rfl
@[simp] theorem State.setRunner_migs (p : Nat) (f : Runner → Runner) : (s.setRunner p f).migs = s.migs := rfl
@[simp] theorem State.setRunner_hotJobs (p : Nat) (f : Runner → Runner) : (s.setRunner p f).hotJobs = s.hotJobs := rfl
@[simp] theorem State.setRunner_embJobs (p : Nat) (f : Runner → Runner) : (s.setRunner p f).embJobs = s.embJobs := rfl
@[simp] theorem State.setRunner_embLast (p : Nat) (f : Runner → Runner) : (s.setRunner p f).embLast = s.embLast := rfl
@[simp] theorem State.setRunner_framed (p : Nat) (f : Runner → Runner) : (s.setRunner p f).framed = s.framed := rfl
@[simp] theorem State.setRunner_egress (p : Nat) (f : Runner → Runner) : (s.setRunner p f).egress = s.egress := rfl
@[simp] theorem State.setRunner_lineAt (p : Nat) (f : Runner → Runner) : (s.setRunner p f).lineAt = s.lineAt := rfl
@[simp] theorem State.setRunner_served (p : Nat) (f : Runner → Runner) : (s.setRunner p f).served = s.served := rfl
@[simp] theorem State.setRunner_meters (p : Nat) (f : Runner → Runner) : (s.setRunner p f).meters = s.meters := rfl
@[simp] theorem State.setRunner_meterAt (p : Nat) (f : Runner → Runner) : (s.setRunner p f).meterAt = s.meterAt := rfl
@[simp] theorem State.setRunner_telems (p : Nat) (f : Runner → Runner) : (s.setRunner p f).telems = s.telems := rfl
@[simp] theorem State.setRunner_telemSeq (p : Nat) (f : Runner → Runner) : (s.setRunner p f).telemSeq = s.telemSeq := rfl
@[simp] theorem State.setRunner_colls (p : Nat) (f : Runner → Runner) : (s.setRunner p f).colls = s.colls := rfl
@[simp] theorem State.setRunner_ptp (p : Nat) (f : Runner → Runner) : (s.setRunner p f).ptp = s.ptp := rfl
@[simp] theorem State.setRunner_mgmt10 (p : Nat) (f : Runner → Runner) : (s.setRunner p f).mgmt10 = s.mgmt10 := rfl
@[simp] theorem State.setRunner_mgmtDown (p : Nat) (f : Runner → Runner) : (s.setRunner p f).mgmtDown = s.mgmtDown := rfl
@[simp] theorem State.setRunner_pwr (p : Nat) (f : Runner → Runner) : (s.setRunner p f).pwr = s.pwr := rfl
@[simp] theorem State.setRunner_cxl (p : Nat) (f : Runner → Runner) : (s.setRunner p f).cxl = s.cxl := rfl
@[simp] theorem State.setRunner_flash (p : Nat) (f : Runner → Runner) : (s.setRunner p f).flash = s.flash := rfl
@[simp] theorem State.setRunner_faults (p : Nat) (f : Runner → Runner) : (s.setRunner p f).faults = s.faults := rfl
@[simp] theorem State.setRunner_cal (p : Nat) (f : Runner → Runner) : (s.setRunner p f).cal = s.cal := rfl
@[simp] theorem State.setRunner_boot (p : Nat) (f : Runner → Runner) : (s.setRunner p f).boot = s.boot := rfl

end Sys2Proof.Machine
end

