-- ==== Sys2Proof/Laws/Searches.lean ====
section
/-! SUPPORT. What measuring distances and scanning a side area leave as it was: the indices. -/

namespace Sys2Proof.Machine

theorem State.setFld_indices (s : State) (a hi lo v : Nat) : (s.setFld a hi lo v).indices = s.indices := by
  unfold State.setFld
  exact State.setRaw_indices s _ _

theorem State.icu_indices (s : State) (w : Icu) : ({ s with icu := w }).indices = s.indices := rfl

theorem State.icuOpen_indices (s : State) (g : Nat) : (s.icuOpen g).indices = s.indices := by
  unfold State.icuOpen
  exact (State.icu_indices _ _).trans (State.setFld_indices s _ _ _ _)

theorem State.icuCount_indices (s : State) (g : Nat) : (s.icuCount g).indices = s.indices := by
  unfold State.icuCount
  dsimp only
  repeat' split
  all_goals simp only [State.icuOpen_indices, State.setFld_indices]

theorem State.icuEvent_indices (s : State) (n : Nat) : (s.icuEvent n).indices = s.indices := by
  unfold State.icuEvent
  split
  · rfl
  · exact (State.icu_indices _ _).trans ((State.icuCount_indices _ _).trans (State.setFld_indices s _ _ _ _))

theorem State.event_indices (s : State) (a i : Nat) : (s.event a i).indices = s.indices := by
  unfold State.event
  dsimp only
  split
  · exact (State.icuEvent_indices _ _).trans (State.setRaw_indices s _ _)
  · exact State.setRaw_indices s _ _

theorem State.bump_indices (s : State) (a hi lo n : Nat) : (s.bump a hi lo n).indices = s.indices := by
  unfold State.bump
  exact State.setFld_indices s _ _ _ _

theorem State.spnLogPut_indices (s : State) (k g o p e : Nat) : (s.spnLogPut k g o p e).indices = s.indices := by
  unfold State.spnLogPut
  split
  · exact State.event_indices s _ _
  · rfl

/-- Reporting a corrected burst changes no index. -/
theorem State.memCe_indices (s : State) (a op p : Nat) : (s.memCe a op p).indices = s.indices := by
  unfold State.memCe
  split
  · exact ((State.report_indices _ _).trans (State.spnLogPut_indices _ _ _ _ _ _)).trans (State.event_indices s _ _)
  · split <;> exact State.report_indices s _

/-- Reporting an uncorrectable burst changes no index. -/
theorem State.memUe_indices (s : State) (a op p : Nat) : (s.memUe a op p).indices = s.indices := by
  unfold State.memUe
  split
  · exact ((State.report_indices _ _).trans (State.spnLogPut_indices _ _ _ _ _ _)).trans (State.event_indices s _ _)
  · split
    · exact (State.report_indices _ _).trans (State.bump_indices s _ _ _ _)
    · exact State.report_indices s _

theorem State.dramUe_indices (s : State) (a : Nat) : (s.dramUe a).indices = s.indices := State.memUe_indices s a 0 0

/-- Noting what a read meets changes no index. -/
theorem State.noteRead_indices (s : State) (op p : Nat) (rs : List (Nat × Nat)) : (s.noteRead op p rs).indices = s.indices := by
  have h : ∀ (l : List Nat) (s : State), (l.foldl (fun s b => s.memCe (b * 64) op p) s).indices = s.indices := by
    intro l
    induction l with
    | nil => exact fun _ => rfl
    | cons b l ih => exact fun s => (ih _).trans (State.memCe_indices s _ _ _)
  unfold State.noteRead
  dsimp only
  split
  · exact (State.memUe_indices _ _ _ _).trans (h _ s)
  · exact h _ s

/-- Measuring codes changes no index. -/
theorem State.measured_indices (s : State) (op p n : Nat) (l : List Nat) : (s.measured op p n l).indices = s.indices := by
  unfold State.measured
  induction l generalizing s with
  | nil => rfl
  | cons a l ih =>
    simp only [List.foldl_cons]
    rw [ih]
    split
    · simp only [State.countEvals, State.bump_indices, State.noteRead_indices]
    · exact State.noteRead_indices _ _ _ _

theorem State.setSearch_indices (s : State) (i : Nat) (f : Search → Search) : (s.setSearch i f).indices = s.indices := rfl

/-- Scanning the side area for a query changes no index. -/
theorem State.scanOne_indices (s : State) (x : Index) (q : Search) : (s.scanOne x q).indices = s.indices := by
  unfold State.scanOne
  dsimp only
  repeat' split
  all_goals simp only [State.setSearch_indices, State.dramUe_indices, State.measured_indices]

end Sys2Proof.Machine
end

