-- ==== Sys2Proof/Tests/Slice0.lean ====
section
/-! SUPPORT. The model's own tests: terms that each check of `Instr.wf` refuses, values that the spec states, and for every statement
of Obligations.lean a state and operands that meet its hypotheses together, clause by clause. -/

namespace Sys2Proof.Tests

set_option Elab.async false

open Machine

/-- A state with registers made to hold given values. -/
def regs (s : State) (l : List (Nat × Nat)) : State := l.foldl (fun s e => s.setRaw e.1 (BitVec.ofNat 64 e.2)) s

/-- A request packet without extension items on queue pair 0. -/
def req (payload : List Byte) : Req := ⟨0, 0x10#8, 0#8, 0#16, 0, 0, 0, payload.length, 7, 0, 32 + payload.length, [], payload⟩

/-- A module on which partition 0 and its context 0 can work: everything is ready, queue pair 0 holds a session with all features, and
the partition owns user pseudo-channel 0, Tool store way 0, Lathe 0, walker 0 and 1 GiB behind CXL link 0. -/
def up : State :=
  { regs State.reset [(BOOT_READY, 2 ^ 64 - 1), (PRT_PART_CTRL 0, 2 * 2 ^ 4), (PRT_CTX_CFG 0 0, 2 ^ 48), (WDN_CTRL, 1),
      (GGE_WALKER 0, 2 ^ 19 + 2 ^ 16), (CXL_LINK 0, 2 ^ 40), (GGE_PART_CFG 0, 1)] with
    parts := modifyAt State.reset.parts 0 (fun p => { p with assign := { p.assign with
      pch := 1, ways := 1, lathes := 1, walkers := 1, cxl := [(1, 0, 1)], shares := [(1, 1)] } })
    fw := { cores := (List.range 20).map (fun c => { state := 1, logical := if c % 5 == 4 then 255 else c / 5 * 4 + c % 5 }) }
    qps := [{ feats := BitVec.ofNat 128 (2 ^ 128 - 1), mbVer := 0x102, mbLo := 0x100, mbHi := 0x102,
              session := some { recv := 4096, granted := 16, evCount := 1, evTime := 0 } }] }

/-- A request packet that intake starts at once meets `P`, with the state in which its work is done. -/
def HostMeets (s : State) (op : Nat) (r : Req) (P : Cmd → State → Prop) : Prop :=
  s.acts 100 = true ∧ ∃ c u, (s.begun 100).begins op r = some (c, u) ∧ P c u

/-- The state in which a command has its effect meets `P`. -/
def UnitMeets (s : State) (P : State → Prop) : Prop := s.acts 100 = true ∧ P (s.begun 100)

/-- The same for a command of the standby domain. -/
def PowerMeets (s : State) (P : State → Prop) : Prop := P (s.at_ 100)

theorem host_of {s : State} {op : Nat} {r : Req} {P : Cmd → State → Prop} [∀ c u, Decidable (P c u)]
    (h : (s.acts 100 && ((s.begun 100).begins op r).any (fun x => decide (P x.1 x.2))) = true) : HostMeets s op r P := by
  rw [Bool.and_eq_true] at h
  refine ⟨h.1, ?_⟩
  cases hb : (s.begun 100).begins op r with
  | none => rw [hb] at h; exact absurd h.2 Bool.false_ne_true
  | some x => rw [hb] at h; exact ⟨x.1, x.2, rfl, of_decide_eq_true h.2⟩

theorem unit_of {s : State} {P : State → Prop} [∀ u, Decidable (P u)] (h : (s.acts 100 && decide (P (s.begun 100))) = true) :
    UnitMeets s P := by
  rw [Bool.and_eq_true] at h
  exact ⟨h.1, of_decide_eq_true h.2⟩

theorem power_of {s : State} {P : State → Prop} [∀ u, Decidable (P u)] (h : decide (P (s.at_ 100)) = true) : PowerMeets s P := by
  unfold PowerMeets; exact of_decide_eq_true h

/-- Queue pair 0's session is closing for its command 0, which is outstanding. -/
def closing : State :=
  { up with
    qps := up.qps.map (fun q => { q with session := q.session.map (fun e => { e with closing := some 0 }) })
    cmds := [{ id := 0, hdr := { opcode := 0x0101 }, phase := .waiting }] }

/-- States and operands that meet the hypotheses of `SessionCommandsHaveTheirEffect`, clause by clause. -/
theorem witness_SessionCommandsHaveTheirEffect :
  (HostMeets { up with qps := up.qps.map (fun q => { q with session := none }) } 0x0100 (req (toLE 4 4096 ++ toLE 2 16 ++ zeros 2 ++ toLE 2 1 ++ zeros 6))
    (fun c u => shapedAs c 16 [(6, 2), (10, 2)] = true ∧ u.session c.hdr.qp = none ∧ sessionOpenOk c.input = true)) ∧
    (HostMeets up 0x0101 (req (zeros 8))
    (fun _ _ => True)) ∧
    (let qp := 0; let id := 0; UnitMeets closing
    (fun b => ((b.session qp).bind (fun e => e.closing)) = some id ∧ (b.cmd? id).any (fun c => c.phase == .waiting) = true ∧
      (b.outstanding qp).all (fun d => decide (id ≤ d.id)) = true ∧
      b.cmds.all (fun d => !(d.hdr.qp == qp && d.hdr.opcode == 0x0100)) = true)) ∧
    (HostMeets up 0x0102 (req [1, 2, 3])
    (fun _ _ => True)) ∧
    (HostMeets up 0x0103 (req (toLE 2 65535 ++ zeros 2 ++ toLE 4 1048575))
    (fun c _ => shapedAs c 8 [(2, 2)] = true ∧ fieldAt c.input 0 2 ≠ 0 ∧ fieldAt c.input 4 4 ≤ 1048575)) ∧
    (HostMeets up 0x0104 (req (zeros 8))
    (fun c _ => shapedAs c 8 [(0, 8)] = true)) ∧
    (HostMeets up 0x0D01 (req (1 :: zeros 7))
    (fun c _ => shapedAs c 8 [(1, 7)] = true ∧ fieldAt c.input 0 1 < 2)) := by
  dsimp only
  exact ⟨host_of (by decide +kernel),
    host_of (by decide +kernel),
    unit_of (by decide +kernel),
    host_of (by decide +kernel),
    host_of (by decide +kernel),
    host_of (by decide +kernel),
    host_of (by decide +kernel)⟩

/-- One query of 32 elements of FP32 for index 3. -/
def searchBody (flags count k : Nat) : List Byte :=
  toLE 2 3 ++ toLE 1 7 ++ toLE 1 flags ++ toLE 2 32 ++ toLE 2 k ++ zeros 12 ++ toLE 4 128 ++ zeros 32 ++ toLE 2 count ++ zeros 6 ++
    zeros (128 * max 1 count)

/-- Index 3 of partition 0: codes of profile 0, which is INT8 with 32 elements. -/
def ix : Index :=
  { num := 3, degree := 8, width := 64, hops := 100, cap := 64, idCap := 16, cs := 32, ns := 32, dims := 32, codeLen := 32, vecFmt := 1
    vecIns := 0x100_0000_2000, dirIns := 0x100_0000_3000, heapBase := 0x100_0000_4000, heapLen := 4096, nextId := 1
    epoch := { num := 1, count := 2 } }

/-- Partition 0 with index 3. -/
def searching : State :=
  { regs up [(SPN_PROFILE 0, 32 * 2 ^ 35 + 32 * 2 ^ 26 + 4 * 2 ^ 20 + 1)] with
    indices := [ix] }

/-- A query of command 0 on index 3. -/
def query : Search := { index := 3, epoch := { num := 1, count := 2 }, k := 1, query := zeros 64 }

/-- Shard map 1 of index 3: shard 5 is kept by queue pair 0. -/
def shards : ShardMap := ⟨0, 3, 1, [⟨5, 3, false, [0]⟩], 0⟩

/-- The same with shard 6, which is kept here by index 3. -/
def shardsHere : ShardMap := ⟨0, 3, 1, [⟨5, 3, false, [0]⟩, ⟨6, 3, false, [0xFFFF_FFFE]⟩], 0⟩

/-- A coordinator of command 0 that has asked queue pair 0 for shard 5. -/
def coord : Coord := { sid := 0, cmd := 0, part := 0, k := 1, cutoff := 100, params := searchBody 1 1 1, runs := [⟨⟨5, 3, false, [1, 0]⟩, 1, 0, 1, none⟩] }

def searchingFor (q : Search) : State := { searching with searches := [q] }

/-- The query with its context, at the start of its walk. -/
def walking : Search := { query with waiting := false, walk := { cand := [(0#32, 0)], width := 64 }, hopMax := 10 }

def sharded : State := { searching with maps := [shards], coords := [coord], cmds := [{}], now := 2 ^ 40 }

/-- States and operands that meet the hypotheses of `SearchesStart`, clause by clause. -/
theorem witness_SearchesStart :
  let passes (batch : Bool) (c : Cmd) (u : State) (x : Index) : Prop :=
    let q := parseSearch batch c.input
    searchLenOk batch c.input = true ∧ searchResvOk batch c.input = true ∧ (batch = true → 0 < q.count ∧ q.count ≤ 256) ∧
      q.sharded = false ∧ q.index < 64 ∧ u.boundIndex c q.index = some x ∧ u.profileOk c x = true ∧
      u.framesOk c.hdr.partition = true ∧ q.ok (u.profile x.profile) x = true
  (let x := ix; HostMeets searching 0x0200 (req (searchBody 0 0 1024))
    (fun c u => passes false c u x)) ∧
    (let x := ix; HostMeets searching 0x0201 (req (searchBody 0 0 1))
    (fun c u => passes false c u x)) ∧
    (let x := ix; HostMeets searching 0x0202 (req (searchBody 0 2 1))
    (fun c u => passes true c u x)) := by
  dsimp only
  exact ⟨host_of (by decide +kernel),
    host_of (by decide +kernel),
    host_of (by decide +kernel)⟩

/-- States and operands that meet the hypotheses of `ShardedSearchesStart`, clause by clause. -/
theorem witness_ShardedSearchesStart :
  let passes (batch : Bool) (c : Cmd) (u : State) (m : ShardMap) : Prop :=
    let q := parseSearch batch c.input
    searchLenOk batch c.input = true ∧ searchResvOk batch c.input = true ∧ (batch = true → 0 < q.count ∧ q.count ≤ 256) ∧
      q.sharded = true ∧ q.index < 64 ∧
      (let n := 1; c.snap.maps.find? (fun e => e.1 == q.index) = some (q.index, n) ∧
        u.maps.find? (fun m => m.part == c.hdr.partition && m.index == q.index && m.number == n) = some m) ∧
      u.framesOk c.hdr.partition = true ∧ c.intake < (u.cutoffOf c).1 ∧ q.okAny 0 = true ∧
      (∀ e ∈ m.entries, e.replicas.contains 0xFFFF_FFFE = true →
        (u.localIndex c e.index).all (fun x => q.ok (u.profile x.profile) x) = true)
  (let m := shards; HostMeets sharded 0x0200 (req (searchBody 1 0 1))
    (fun c u => passes false c u m)) ∧
    (let m := shardsHere; HostMeets { sharded with maps := [shardsHere] } 0x0202 (req (searchBody 1 2 1024))
    (fun c u => passes true c u m)) := by
  dsimp only
  exact ⟨host_of (by decide +kernel),
    host_of (by decide +kernel)⟩

/-- States and operands that meet the hypotheses of `SearchesGoOn`, clause by clause. -/
theorem witness_SearchesGoOn :
  let going (b : State) (sid : Nat) (q : Search) (x : Index) : Prop :=
    b.search? sid = some q ∧ q.waiting = false ∧ q.ended = none ∧ q.fault = none ∧ b.index? q.part q.index = some x
  let resultReads (q : Search) (x : Index) (side : List (F32 × Nat)) : List (Nat × Nat) :=
    q.walk.top.flatMap (fun e => [(x.addr q.epoch 2 e.2, 8), (x.addr q.epoch 3 e.2, 4)]) ++ side.map (fun e => (x.metaAddr e.2, 16))
  let loopEnds (q : Search) : Prop :=
    q.walk.cand = [] ∨ q.hopMax ≤ q.walk.hops ∨
      (q.walk.width ≤ q.walk.top.length ∧ q.walk.cand.head?.any (fun c => q.walk.top.getLast?.any (fun f => decide (distKey f.1 < distKey c.1))) = true)
  let loaded (b : State) (q : Search) (x : Index) (slot : Nat) : State :=
    let spn := b.stacksReady.foldl (fun (a : SpnStores) k =>
      (List.range (b.profile x.profile).querySlots).foldl (fun (a : SpnStores) j =>
        { a with query := storeSet a.query k (slot + j) (padTo 2048 (slice q.query (2048 * j) 2048)) }.heal k 0 (slot + j)) a) b.spn
    ({ b with spn := spn } : State).measured 1 q.part x.codeLen [x.addr q.epoch 0 q.epoch.entry]
  (let p := 0; let q := query; let x := ix; let w := 0; let i := 0; UnitMeets (searchingFor query)
    (fun b =>
      b.searches.find? (fun q => q.part == p && q.waiting && q.ended.isNone) = some q ∧ b.index? q.part q.index = some x ∧
        b.bit GGE_CTRL 0 = true ∧ b.frameRoom q.part (frameBytes q.wmax) = true ∧
        b.codesIdle [x.addr q.epoch 0 q.epoch.entry] = false ∧
        ((b.partWalkers q.part).filter (fun w => q.avoid != some w)).findSome? (fun w =>
          (b.freeContext w (b.profile x.profile).querySlots).map (fun i => (w, i))) = some (w, i) ∧
        b.isUe (tabAddr x.ntomb (q.epoch.entry / 8)) 1 = false ∧ (b.profile x.profile).ok = true ∧
        (loaded b q x (b.fld (GGE_WALKER w) 39 32 * 256 + i)).codesFault (b.profile x.profile)
          [b.fld (GGE_WALKER w) 39 32 * 256 + i] [x.addr q.epoch 0 q.epoch.entry] = false)) ∧
    (let sid := 0; let q := walking; let x := ix; let d := 0#32; let n := 0; let rest := ([] : List (BitVec 32 × Nat)); UnitMeets (searchingFor walking)
    (fun b =>
      let met := q.walk.news (b.nodeNbrs x q.epoch n)
      let codes := met.map (fun m => x.addr q.epoch 0 m)
      going b sid q x ∧ q.walk.cand = (d, n) :: rest ∧ ¬ loopEnds q ∧
        b.structUe ((x.addr q.epoch 1 n, x.ns) :: met.map (fun m => (tabAddr x.ntomb (m / 8), 1))) = none ∧
        b.codesIdle codes = false ∧
        (codes = [] ∨ ((b.profile x.profile).ok = true ∧ b.codesFault (b.profile x.profile) [b.querySlot q] codes = false)))) ∧
    (let sid := 0; let q := ({ walking with walk := { width := 64 }, side := some [] } : Search); let x := ix; let side := ([] : List (F32 × Nat)); UnitMeets (searchingFor q)
    (fun b => going b sid q x ∧ loopEnds q ∧ q.side = some side ∧ b.structUe (resultReads q x side) = none ∧
      ((b.formResult x q).length = q.k ∨ q.walk.width = q.wmax ∨ q.walk.hops = q.hopMax ∨ q.walk.cand = []))) ∧
    (let sid := 0; let q := ({ walking with k := 2, budget := 2, walk := { cand := [(0x3F80_0000#32, 1)], top := [(0#32, 0)], width := 1 }, side := some [] } : Search); let x := ix; let side := ([] : List (F32 × Nat)); UnitMeets (searchingFor q)
    (fun b => going b sid q x ∧ loopEnds q ∧ q.side = some side ∧ b.structUe (resultReads q x side) = none ∧
      (b.formResult x q).length ≠ q.k ∧ q.walk.width ≠ q.wmax ∧ q.walk.hops ≠ q.hopMax ∧ q.walk.cand ≠ [])) ∧
    (let sid := 0; let st := stHwFault; let q := ({ walking with fault := some stHwFault } : Search); let x := ix; UnitMeets (searchingFor q)
    (fun b => b.search? sid = some q ∧ q.waiting = false ∧ q.ended = none ∧ q.fault = some st ∧ b.index? q.part q.index = some x)) ∧
    (let sid := 0; let q := ({ walking with wend := 1 } : Search); let x := ix; UnitMeets (searchingFor q)
    (fun b =>
      let codes := q.window.map x.sideAddr
      going b sid q x ∧ q.side = none ∧ q.sid = sid ∧ b.codesIdle codes = false ∧
        (codes = [] ∨ ((b.profile x.profile).ok = true ∧ b.codesFault (b.profile x.profile) [b.querySlot q] codes = false)) ∧
        b.structUe ((b.scanNear x q).map (fun e => (tabAddr x.stomb (e.2 % x.cap / 8), 1))) = none)) ∧
    (let sids := [0]; let qs := [walking]; let p := 0; let n := 3; let x := ix; UnitMeets (searchingFor walking)
    (fun b => sids.length ≤ 16 ∧ sids.filterMap b.search? = qs ∧ b.index? p n = some x ∧
      ∀ q ∈ qs, q.part = p ∧ q.index = n ∧ q.waiting = false ∧ q.ended = none ∧ q.side = none ∧ q.fault = none)) := by
  dsimp only
  exact ⟨unit_of (by decide +kernel),
    unit_of (by decide +kernel),
    unit_of (by decide +kernel),
    unit_of (by decide +kernel),
    unit_of (by decide +kernel),
    unit_of (by decide +kernel),
    unit_of (by decide +kernel)⟩

/-- States and operands that meet the hypotheses of `ShardSearchesGoOn`, clause by clause. -/
theorem witness_ShardSearchesGoOn :
  let due (b : State) (sid e : Nat) (q : Coord) (r : ShardRun) (c : Cmd) : Prop :=
    b.coord? sid = some q ∧ q.runs[e]? = some r ∧ q.ended = none ∧ r.entry.broadcast = false ∧
      (∀ u ∈ q.used, u.1 ≠ r.entry.shard) ∧ r.sent + b.fld (GGE_SHARD_CFG q.part) 47 32 * 1000 ≤ b.now ∧ b.cmd? q.cmd = some c
  (let sid := 0; let e := 0; let q := coord; let r := coord.runs.headD default; let c := ({} : Cmd); let qp := 0; UnitMeets sharded
    (fun b => due b sid e q r c ∧ r.entry.replicas[r.next]? = some qp ∧ qp ≠ 0xFFFF_FFFE ∧ b.qpLive qp = true)) ∧
    (let sid := 0; let e := 0; let q := ({ coord with runs := [⟨⟨5, 3, false, [1, 0]⟩, 2, 0, 1, none⟩] } : Coord); let r := q.runs.headD default; let c := ({} : Cmd); UnitMeets { sharded with coords := [q] }
    (fun b => due b sid e q r c ∧ r.entry.replicas.length ≤ r.next)) ∧
    (let sid := 0; let e := 0; let q := coord; let r := coord.runs.headD default; let c := ({} : Cmd); UnitMeets sharded
    (fun b => due b sid e q r c)) ∧
    (let sid := 0; let q := coord; UnitMeets sharded
    (fun b => b.coord? sid = some q ∧ q.ended = none ∧ b.mergeDue q = true ∧ 0 < q.shards.length)) ∧
    (let w := 0; UnitMeets searching
    (fun b => b.fld (GGE_WALKER w) 18 16 = 1 ∧ (∀ j ∈ b.merges, j.slot.all (fun t => t.1 != w) = true) ∧
      ∀ q ∈ b.searches, q.waiting = true ∨ q.ended ≠ none ∨ q.walker ≠ w)) ∧
    (let w := 0; UnitMeets (searchingFor walking)
    (fun b => b.fld (GGE_WALKER w) 18 16 = 1)) := by
  dsimp only
  exact ⟨unit_of (by decide +kernel),
    unit_of (by decide +kernel),
    unit_of (by decide +kernel),
    unit_of (by decide +kernel),
    unit_of (by decide +kernel),
    unit_of (by decide +kernel)⟩

/-- An entry of INDEX_INSERT with one token word, not replacing. -/
def insertEntry : List Byte := zeros 16 ++ toLE 4 1 ++ zeros 12 ++ zeros 64 ++ toLE 4 5

/-- The header of an index image of one node whose arrays begin at 2, 4, 6 and 8 MiB. -/
def indexImage : List Byte :=
  let h := toLE 4 0x4E474A49 ++ toLE 2 0x0100 ++ [5, 5] ++ toLE 4 1 ++ zeros 4 ++ toLE 8 0x20_0000 ++ toLE 8 0x40_0000 ++
    toLE 8 0x60_0000 ++ toLE 8 0x80_0000 ++ zeros 12
  h ++ toLE 4 (crc32c h)

/-- INDEX_LOAD of that image, at the base of the region, as index 5. -/
def indexLoad : List Byte :=
  toLE 2 5 ++ zeros 2 ++ [0, 8] ++ toLE 2 1024 ++ toLE 4 100 ++ toLE 4 64 ++ toLE 4 16 ++ [1] ++ zeros 3 ++ toLE 8 0 ++
    toLE 8 0x100_0000 ++ toLE 8 0x20_0000 ++ toLE 8 0x100_0000_0000 ++ toLE 8 0x100_0000_1000 ++ toLE 8 0x100_0000_2000 ++
    toLE 8 0x100_0000_3000 ++ toLE 8 0x100_0000_4000 ++ toLE 8 4096

def withImage : State := searching.store 0 indexImage

def unloading : State := { searching with indices := [{ ix with unload := some (7, 50) }], cmds := [{ id := 7 }] }

/-- States and operands that meet the hypotheses of `IndexCommandsHaveTheirEffect`, clause by clause. -/
theorem witness_IndexCommandsHaveTheirEffect :
  let on (c : Cmd) (u : State) (x : Index) : Prop :=
    fieldAt c.input 0 2 < 64 ∧ u.boundIndex c (fieldAt c.input 0 2) = some x
  (let x := ix; let es := (parseEntries ix 1 insertEntry).getD []; let plan := (planInsert ix 1 [] es).getD []; HostMeets searching 0x0203 (req (toLE 2 3 ++ toLE 2 1 ++ zeros 4 ++ insertEntry))
    (fun c u =>
      let n := fieldAt c.input 2 2
      8 ≤ c.input.length ∧ 0 < n ∧ n ≤ 4096 ∧ zerosAt c.input 4 4 = true ∧ on c u x ∧
        parseEntries x n (c.input.drop 8) = some es ∧ es.all (fun e => !e.bad && !e.resv) = true ∧
        es.all (fun e => !e.replace || x.assigned e.id) = true ∧ x.wend + n - x.rstart ≤ x.cap ∧
        planInsert x x.nextId x.heap es = some plan ∧
        (es.zip plan).all (fun e => u.inCxl c.hdr.partition (x.vecAddr e.2.1) x.vecSlot &&
          u.inCxl c.hdr.partition (x.dirAddr e.2.1) 16 &&
          u.inCxl c.hdr.partition e.2.2 (roundUp (16 + e.1.body.length) 64)) = true)) ∧
    (let x := ix; HostMeets searching 0x0204 (req (toLE 2 3 ++ zeros 2 ++ toLE 4 1 ++ toLE 4 0x8000_0000))
    (fun c u =>
      let n := fieldAt c.input 4 4
      0 < n ∧ n ≤ 65536 ∧ c.input.length = 8 + 4 * n ∧ zerosAt c.input 2 2 = true ∧ on c u x ∧
        (List.range n).all (fun i => x.assigned (fieldAt c.input (8 + 4 * i) 4)) = true)) ∧
    (HostMeets withImage 0x0205 (req indexLoad)
    (fun c u =>
      let f := fieldAt c.input
      let p := c.hdr.partition
      let prof := u.profile (f 4 1)
      let vslot := roundUp (prof.dims * ((fmtBits (f 20 1)).getD 8 / 8)) 64
      let n := fieldAt (u.bytes (f 24 8) 64) 8 4
      shapedAs c 96 [(21, 3)] = true ∧ f 0 2 < 64 ∧ f 4 1 < 64 ∧ 8 ≤ f 5 1 ∧ f 5 1 ≤ 64 ∧ 0 < f 6 2 ∧ f 6 2 ≤ 1024 ∧ 0 < f 8 4 ∧
        f 8 4 ≤ 1048576 ∧ 64 ≤ f 12 4 ∧ f 12 4 ≤ 67108864 ∧ f 16 4 ≤ 2147483647 ∧ (f 20 1 = 1 ∨ f 20 1 = 2 ∨ f 20 1 = 4) ∧
        u.index? p (f 0 2) = none ∧ f 24 8 % 0x20_0000 = 0 ∧ u.inRegion p (f 24 8) 64 = true ∧ f 32 8 % 0x20_0000 = 0 ∧
        u.inRegion p (f 32 8) (f 40 8) = true ∧ u.cxlOk p (f 48 8) 1 = true ∧ u.cxlOk p (f 48 8) (n * vslot) = true ∧
        u.cxlOk p (f 56 8) 1 = true ∧ u.cxlOk p (f 56 8) (n * 16) = true ∧ u.cxlOk p (f 64 8) (max (f 16 4 * vslot) 1) = true ∧
        u.cxlOk p (f 72 8) (max (f 16 4 * 16) 1) = true ∧ u.cxlOk p (f 80 8) (max (f 88 8) 1) = true ∧
        u.hitsDir p (f 32 8) (f 40 8) = false ∧
        (imageRanges (f 24 8) (u.bytes (f 24 8) 64)).all (fun r => !u.isUe r.1 r.2 && !u.hitsDir p r.1 r.2) = true ∧
        u.imageOk (f 24 8) (u.regionBase p + u.regionSize p) prof (f 5 1) = true)) ∧
    (let x := ix; HostMeets searching 0x0207 (req (toLE 2 3 ++ zeros 6))
    (fun c u => shapedAs c 8 [(2, 6)] = true ∧ on c u x)) ∧
    (HostMeets searching 0x0208 (req (toLE 2 3 ++ toLE 2 1 ++ zeros 4 ++ toLE 2 5 ++ toLE 2 3 ++ [2, 1] ++ zeros 2 ++ toLE 4 0 ++ toLE 4 0xFFFF_FFFE ++ toLE 8 (2 ^ 64 - 1)))
    (fun c u =>
      let n := fieldAt c.input 2 2
      let off (i : Nat) : Nat := 8 + 24 * i
      let es := parseShards n c.input
      0 < n ∧ n ≤ 16384 ∧ c.input.length = 8 + 24 * n ∧ zerosAt c.input 4 4 = true ∧ fieldAt c.input 0 2 < 64 ∧
        (∀ i, i < n → fieldAt c.input (off i + 5) 1 < 2 ∧ zerosAt c.input (off i + 6) 2 = true ∧
          0 < fieldAt c.input (off i + 4) 1 ∧ fieldAt c.input (off i + 4) 1 ≤ 4 ∧
          ∀ j, j < 4 → if j < fieldAt c.input (off i + 4) 1
            then fieldAt c.input (off i + 8 + 4 * j) 4 < 16384 ∨ fieldAt c.input (off i + 8 + 4 * j) 4 = 0xFFFF_FFFE
            else fieldAt c.input (off i + 8 + 4 * j) 4 = 0xFFFF_FFFF) ∧
        ∀ e ∈ es, ∀ r ∈ e.replicas, r = 0xFFFF_FFFE ∨ (u.qp? r).map (fun q => q.partition) = some c.hdr.partition)) ∧
    (let x := ix; HostMeets searching 0x020B (req (toLE 2 3 ++ zeros 6))
    (fun c u => shapedAs c 8 [(2, 6)] = true ∧ fieldAt c.input 0 2 < 64 ∧
      u.index? c.hdr.partition (fieldAt c.input 0 2) = some x ∧ x.unload = none ∧
      u.merging c.hdr.partition (fieldAt c.input 0 2) = false)) ∧
    (let p := 0; let i := 3; let x := { ix with unload := some (7, 50) }; let id := 7; let stamp := 50; UnitMeets unloading
    (fun b => b.index? p i = some x ∧ x.unload = some (id, stamp) ∧
      b.cmds.all (fun c => !(c.hdr.partition == p && b.bindsIdx c i && decide (c.intake < stamp))) = true ∧
      b.searches.all (fun q => !(q.part == p && q.index == i)) = true)) := by
  dsimp only
  exact ⟨host_of (by decide +kernel),
    host_of (by decide +kernel),
    host_of (by decide +kernel),
    host_of (by decide +kernel),
    host_of (by decide +kernel),
    host_of (by decide +kernel),
    unit_of (by decide +kernel)⟩

/-- The merge job of partition 0, at the end of LINK. -/
def mergeJob : MergeJob := { index := 3, state := 2, epoch := { num := 2, count := 2 } }

def merging (j : MergeJob) : State := { searching with merges := [j] }

/-- States and operands that meet the hypotheses of `MergesHaveTheirEffect`, clause by clause. -/
theorem witness_MergesHaveTheirEffect :
  (let x := ix; HostMeets searching 0x0206 (req (toLE 2 3 ++ toLE 2 8 ++ zeros 4))
    (fun c u =>
      let p := c.hdr.partition
      let w := fieldAt c.input 2 2
      shapedAs c 8 [(4, 4)] = true ∧ fieldAt c.input 0 2 < 64 ∧ u.index? p (fieldAt c.input 0 2) = some x ∧ x.unload = none ∧
        u.merge? p = none ∧ (w = 0 ∨ (x.degree ≤ w ∧ w ≤ 1024)) ∧ (u.profile x.profile).ok = true ∧ u.partWalkers p ≠ [])) ∧
    (let x := ix; HostMeets searching 0x0206 (req (toLE 2 3 ++ toLE 2 1024 ++ zeros 4))
    (fun c u =>
      let p := c.hdr.partition
      let w := fieldAt c.input 2 2
      shapedAs c 8 [(4, 4)] = true ∧ fieldAt c.input 0 2 < 64 ∧ u.index? p (fieldAt c.input 0 2) = some x ∧ x.unload = none ∧
        u.merge? p = none ∧ (w = 0 ∨ (x.degree ≤ w ∧ w ≤ 1024)) ∧ (u.profile x.profile).ok = true ∧ u.partWalkers p ≠ [])) ∧
    (let p := 0; let j := mergeJob; let x := ix; UnitMeets (merging mergeJob)
    (fun b => b.bit GGE_CTRL 1 = true ∧ b.merge? p = some j ∧ j.state = 2 ∧ b.index? p j.index = some x ∧
      (b.profile x.profile).ok = true ∧ b.mergeUe x j = none ∧ b.codesIdle (j.codes x) = false ∧
      b.codesFault (b.profile x.profile) [] (j.codes x) = false ∧
      ((if (b.entryHeirs x j).isEmpty then b else (b.mergeQuery x j j.epoch.entry).mergeMeasured x j (b.entryHeirs x j)).repairNodes x j
        ((List.range j.epoch.count).filter (fun n => !j.isDead n))).isSome = true)) ∧
    (let p := 0; let j := { mergeJob with state := 3, repaired := true }; let x := ix; UnitMeets (merging { mergeJob with state := 3, repaired := true })
    (fun b => b.merge? p = some j ∧ j.state = 3 ∧ j.repaired = true ∧ b.bit GGE_CTRL 1 = true ∧ b.index? p j.index = some x)) ∧
    (let p := 0; let j := { mergeJob with state := 4, old := some { num := 1 } }; let old := ({ num := 1 } : Epoch); UnitMeets (merging { mergeJob with state := 4, old := some { num := 1 } })
    (fun b => b.merge? p = some j ∧ j.old = some old ∧ b.boundTo p j.index old.num = false)) := by
  dsimp only
  exact ⟨host_of (by decide +kernel),
    host_of (by decide +kernel),
    unit_of (by decide +kernel),
    unit_of (by decide +kernel),
    unit_of (by decide +kernel)⟩

/-- The retrieval starts. -/
def started : FetchStart → Bool
  | .started _ => true
  | .refused _ => false

/-- A vocabulary of four ordinary tokens for model 9. -/
def vocab : Vocab := { entries := 4, models := [9], ent := 0x3000_0000, heap := 0x3000_1000, trie := 0x3000_2000, bytes := 0x3000_3000 }

/-- Version 1 of model 9: it generates, embeds and scores. -/
def model : Model :=
  { id := 9, version := 1, vocab := 4, dModel := 256, roles := 7, lanes := 1, outDims := 32, current := true
    kvLayers := 1, kvWidth := 32, headDim := 32, kvFmt := 1, layers := 1, sched := [⟨1000, 10, 0, false⟩], entries := [(0, 0)] }

/-- Partition 0 with the model, its vocabulary and index 3, and areas for KV and text. -/
def serving : State :=
  { regs searching [(HDS_KV_AREA 0, 0x1000_0000 + 0x800), (TOK_PART_AREA 0, 0x2000_0000 + 0x100),
      (HDS_PART_CFG 0, 2 ^ 40 + 64 * 2 ^ 9), (TIER_DIR_BASE 0, 0x3800_0000 + 10)] with
    models := [model], vocabs := [vocab] }

/-- A retrieval of command 0 that still waits for a candidate of another shard. -/
def retrieval : Retrieval := { use := 1, cands := [⟨5 * 2 ^ 48, 0, false, []⟩] }

def retrieving : State := { serving with fetches := [retrieval], cmds := [{ hdr := { opcode := 0x0302 } }] }

/-- The template of a passage block, then one query token. -/
def rerankTail : List Byte := toLE 4 (3 * 2 ^ 28) ++ toLE 4 (5 * 2 ^ 28) ++ toLE 4 (4 * 2 ^ 28) ++ toLE 4 0

/-- States and operands that meet the hypotheses of `ScoringCommandsHaveTheirEffect`, clause by clause. -/
theorem witness_ScoringCommandsHaveTheirEffect :
  let fetches (vec : Bool) (x : Index) (c : Cmd) (u : State) : Prop :=
    let n := fieldAt c.input 4 4
    0 < n ∧ n ≤ 65536 ∧ c.input.length = 8 + 8 * n ∧ zerosAt c.input 2 2 = true ∧ fieldAt c.input 0 2 < 64 ∧
      u.boundIndex c (fieldAt c.input 0 2) = some x ∧
      ∀ i, i < n → fieldAt c.input (8 + 8 * i) 8 / 2 ^ 32 % 2 ^ 16 = 0 ∧ fieldAt c.input (8 + 8 * i) 8 / 2 ^ 48 = x.shard ∧
        (u.fetchOne x vec (fieldAt c.input (8 + 8 * i) 8 % 2 ^ 32)).2.2 = stOk
  (let x := ix; HostMeets serving 0x0209 (req (toLE 2 3 ++ zeros 2 ++ toLE 4 1 ++ toLE 8 0x8000_0000))
    (fetches true x)) ∧
    (let x := ix; HostMeets serving 0x020A (req (toLE 2 3 ++ zeros 2 ++ toLE 4 1 ++ toLE 8 0x8000_0000))
    (fetches false x)) ∧
    (let x := ix; HostMeets serving 0x0301 (req (toLE 2 3 ++ toLE 2 7 ++ toLE 2 32 ++ zeros 2 ++ toLE 2 1 ++ toLE 2 1 ++ zeros 20 ++ zeros 128 ++ toLE 8 0x8000_0000))
    (fun c u =>
      let f := fieldAt c.input
      (f 2 2 = 1 ∨ f 2 2 = 2 ∨ f 2 2 = 4 ∨ f 2 2 = 7) ∧ c.input.length = 32 + queryLen (f 2 2) (f 4 2) + 8 * f 10 2 ∧
        f 6 1 < 2 ∧ f 7 1 = 0 ∧ zerosAt c.input 12 20 = true ∧ f 0 2 < 64 ∧ 0 < f 10 2 ∧ 0 < f 8 2 ∧
        u.ownIndex c (f 0 2) (if (f 6 1).testBit 0 then u.boundMap c (f 0 2) else none) = some x ∧ u.rescorable x (f 4 2) = true ∧
        (4096 < min (f 8 2) (f 10 2) → 131072 + 12 * min (f 8 2) (f 10 2) ≤ (u.innerSlice c.hdr.partition).2) ∧
        started (u.startFetch c 0 (f 0 2) ((f 6 1).testBit 0) (gidsAt c.input (32 + queryLen (f 2 2) (f 4 2)) (f 10 2))) = true)) ∧
    (let x := ix; HostMeets serving 0x0301 (req (toLE 2 3 ++ toLE 2 7 ++ toLE 2 32 ++ zeros 2 ++ toLE 2 5000 ++ toLE 2 5000 ++ zeros 20 ++ zeros 128 ++ zeros 40000))
    (fun c u =>
      let f := fieldAt c.input
      (f 2 2 = 1 ∨ f 2 2 = 2 ∨ f 2 2 = 4 ∨ f 2 2 = 7) ∧ c.input.length = 32 + queryLen (f 2 2) (f 4 2) + 8 * f 10 2 ∧
        f 6 1 < 2 ∧ f 7 1 = 0 ∧ zerosAt c.input 12 20 = true ∧ f 0 2 < 64 ∧
        u.ownIndex c (f 0 2) (if (f 6 1).testBit 0 then u.boundMap c (f 0 2) else none) = some x ∧ u.rescorable x (f 4 2) = true ∧
        4096 < min (f 8 2) (f 10 2) ∧ (u.innerSlice c.hdr.partition).2 < 131072 + 12 * min (f 8 2) (f 10 2))) ∧
    (let m := model; let v := vocab; HostMeets serving 0x0302 (req (toLE 2 9 ++ toLE 2 1 ++ toLE 2 3 ++ zeros 2 ++ toLE 2 1 ++ toLE 2 1 ++ toLE 4 100 ++ toLE 4 1 ++ toLE 4 1 ++ toLE 2 3 ++ zeros 6 ++ rerankTail ++ toLE 8 0x8000_0000))
    (fun c u =>
      let f := fieldAt c.input
      let off := 32 + 4 * (f 24 2 + f 16 4)
      let k := rerankPairing c.input
      c.input.length = off + 8 * f 10 2 ∧ f 6 1 < 4 ∧ f 7 1 = 0 ∧ zerosAt c.input 26 6 = true ∧ f 4 2 < 64 ∧ 0 < f 10 2 ∧
        f 10 2 ≤ 1024 ∧ 0 < f 8 2 ∧ 0 < f 16 4 ∧ f 16 4 ≤ 8191 ∧ 0 < f 24 2 ∧ f 24 2 ≤ 4096 ∧
        u.runModel c k.model k.version 2 = .ok (m, v) ∧ u.pairingOk v k = true ∧
        started (u.startFetch c 1 (f 4 2) ((f 6 1).testBit 0) (gidsAt c.input off (f 10 2))) = true)) ∧
    (let id := 0; let f := retrieval; UnitMeets retrieving
    (fun b => b.fetch? id = some f ∧ f.ending ≤ b.now ∧ f.settled = false)) ∧
    (let m := model; let v := vocab; let ins := [zeros 4]; HostMeets serving 0x0300 (req (toLE 2 9 ++ toLE 2 1 ++ [0, 7, 0, 0] ++ toLE 2 1 ++ zeros 6 ++ toLE 4 1 ++ toLE 4 0))
    (fun c u =>
      let f := fieldAt c.input
      16 ≤ c.input.length ∧ f 6 1 < 2 ∧ f 7 1 = 0 ∧ zerosAt c.input 10 6 = true ∧ f 4 1 < 2 ∧
        (f 5 1 = 1 ∨ f 5 1 = 4 ∨ f 5 1 = 7) ∧ 0 < f 8 2 ∧ f 8 2 ≤ 256 ∧
        embedInputs (if f 4 1 = 0 then 4 else 1) (f 8 2) (c.input.drop 16) = some ins ∧
        u.runModel c (f 0 2) (f 2 2) 1 = .ok (m, v) ∧ ins.all (fun x => !x.isEmpty) = true ∧
        (f 4 1 = 0 → ins.all (fun x => decide (x.length / 4 ≤ 8192) && (wordsAt x 0 (x.length / 4)).all (u.wordOk v)) = true))) ∧
    (let m := model; let v := vocab; let qs := [[3]]; HostMeets serving 0x0303 (req (toLE 2 9 ++ toLE 2 1 ++ toLE 2 1 ++ zeros 2 ++ toLE 4 1 ++ toLE 4 3))
    (fun c u =>
      let f := fieldAt c.input
      8 ≤ c.input.length ∧ 0 < f 4 2 ∧ f 4 2 ≤ 4096 ∧ f 6 2 = 0 ∧ rewardSeqs (f 4 2) (c.input.drop 8) = some qs ∧
        u.runModel c (f 0 2) (f 2 2) 2 = .ok (m, v) ∧ qs.all (fun q => q.all (u.wordOk v)) = true)) := by
  dsimp only
  exact ⟨host_of (by decide +kernel),
    host_of (by decide +kernel),
    host_of (by decide +kernel),
    host_of (by decide +kernel),
    host_of (by decide +kernel),
    unit_of (by decide +kernel),
    host_of (by decide +kernel),
    host_of (by decide +kernel)⟩

/-- A generation block for version 1 of model 9 with one prompt token and at most `n` new ones. -/
def genBlock (count n : Nat) : List Byte :=
  toLE 2 9 ++ toLE 2 1 ++ toLE 2 0xFFFF ++ toLE 2 0xFFFF ++ zeros 8 ++ toLE 4 n ++ zeros 8 ++ toLE 4 0x3F80_0000 ++ zeros 16 ++
    toLE 4 count ++ zeros 12

/-- RAG_GENERATE: retrieval with encoder model 9, its search, its packing with a template of one token, a prompt token and a text of one
byte. -/
def ragBody : List Byte :=
  genBlock 0 5 ++
    (toLE 2 9 ++ toLE 2 1 ++ toLE 4 0xFFFF ++ toLE 2 4 ++ zeros 2 ++ toLE 4 16 ++ zeros 4 ++ toLE 4 1 ++ toLE 2 1 ++ zeros 6) ++
    (toLE 2 3 ++ [7, 0] ++ toLE 2 32 ++ toLE 2 4 ++ zeros 56) ++
    (toLE 4 100 ++ toLE 2 1 ++ zeros 2 ++ toLE 4 1 ++ toLE 2 1 ++ zeros 2) ++ toLE 4 0 ++ toLE 4 0 ++ [65]

/-- A sequence of the model that is generating. -/
def seq : Seq := { model := 9, version := 1, len := 2, prompt := 1, maxNew := 5, tokens := [1, 2], reserve := 1, root := 0x1000_1000 }

def prefixSlot : PrefixSlot := { slot := 3, model := 9, version := 1, n := 1, refs := 1 }

def generating : State :=
  { serving with seqs := [seq], prefixes := [prefixSlot], cmds := [{ id := 0, hdr := { opcode := 0x0400 } }], cmdSeq := 1 }

/-- SEQ_CANCEL of that sequence, taken earlier. -/
def cancelCmd : Cmd := { id := 1, hdr := { opcode := 0x0403 }, phase := .ordered, input := toLE 4 0x8000 ++ zeros 4, intake := 50 }

def cancelling : State := { generating with cmds := generating.cmds ++ [cancelCmd], cmdSeq := 2, now := 50 }

def stepping : State := { generating with runners := modifyAt generating.runners 0 (fun r => { r with active := true, rows := 1 }) }

def farRunner : Runner := { active := true, far := [⟨0, 0, 0, 77, 0, none, false, false, true⟩] }

def farWaiting : State :=
  { generating with
    runners := modifyAt generating.runners 0 (fun _ => farRunner)
    dir := [(0, { id := 77, t1 := some 0x1000, len1 := 64 })] }

/-- States and operands that meet the hypotheses of `SequencesStart`, clause by clause. -/
theorem witness_SequencesStart :
  (let xs := ([] : List (List Byte)); let n := 0; let m := model; let v := vocab; let i := 0; HostMeets serving 0x0400 (req (genBlock 1 5 ++ toLE 4 3))
    (fun c u =>
      let b := parseGen c.input
      let area := c.input.drop (64 + 4 * b.count)
      let words := (List.range b.count).map (fun i => fieldAt c.input (64 + 4 * i) 4)
      let pr : Prompt := ⟨words, xs, none, []⟩
      64 + 4 * b.count ≤ c.input.length ∧ 0 < b.count ∧ b.count ≤ 16777215 ∧ genResvOk c.input = true ∧
        parseStops b.stops area = some (xs, n) ∧ b.stops ≤ 16 ∧ area.length = roundUp n 8 ∧
        zerosAt area n (area.length - n) = true ∧ u.genRefusal c b pr = none ∧
        u.modelFor c b.model b.version = some (m, v) ∧ u.freeEntry = some i ∧
        (u.makeSeq (u.newSeq c b pr m v i) pr (u.genPrefix c b)).isSome = true ∧ u.bit HDS_CTRL 0 = true ∧
        (b.flags.testBit 3 = true → u.bit JIG_CTRL 0 = true))) ∧
    (let r := (parseRag ragBody).get!; HostMeets serving 0x0401 (req ragBody)
    (fun c u => parseRag c.input = some r ∧ u.ragRefusal c r = none)) := by
  dsimp only
  exact ⟨host_of (by decide +kernel),
    host_of (by decide +kernel)⟩

/-- States and operands that meet the hypotheses of `SequenceCommandsHaveTheirEffect`, clause by clause. -/
theorem witness_SequenceCommandsHaveTheirEffect :
  (let q := seq; let v := vocab; HostMeets generating 0x0402 (req (toLE 4 0x8000 ++ toLE 4 1 ++ toLE 4 3))
    (fun c u =>
      let n := fieldAt c.input 4 4
      0 < n ∧ n ≤ 1048576 ∧ c.input.length = 8 + 4 * n ∧ u.seqOf c.hdr.partition (fieldAt c.input 0 4) = some q ∧
        q.ending = none ∧ u.vocabs.find? (fun v => v.slot == q.vocab) = some v ∧
        ((List.range n).map (fun i => fieldAt c.input (8 + 4 * i) 4)).all (u.wordOk v) = true ∧
        (q.maxNew ≠ 0 → n ≤ q.reserve) ∧ q.len + u.stepTokens q + q.append.length + n ≤ 16777215)) ∧
    (let q := seq; HostMeets generating 0x0404 (req (toLE 4 0x8000 ++ zeros 4))
    (fun c u => shapedAs c 8 [(4, 4)] = true ∧ u.seqOf c.hdr.partition (fieldAt c.input 0 4) = some q)) ∧
    (let q := seq; HostMeets generating 0x0405 (req (toLE 4 0x8000 ++ [1, 0, 0, 0]))
    (fun c u => shapedAs c 8 [(5, 3)] = true ∧ fieldAt c.input 4 1 < 2 ∧
      u.seqOf c.hdr.partition (fieldAt c.input 0 4) = some q)) ∧
    (HostMeets generating 0x0406 (req (toLE 4 0x8000 ++ zeros 4))
    (fun c _ => c.input.length = 8)) ∧
    (let x := prefixSlot; HostMeets generating 0x0407 (req (toLE 8 (2 ^ 18 + 3)))
    (fun c u => c.input.length = 8 ∧ u.livePref c.hdr.partition (fieldAt c.input 0 8) c.intake = some x ∧ x.ended = none)) ∧
    (generating.acts 100 = true ∧ (let s := generating; let q := s.qps.headD default; let r := req (toLE 4 0x8000 ++ zeros 4)
    let b := (s.begun 100).listen r.qp; let c := b.incoming q 0x0403 r
    (s.begun 100).qp? r.qp = some q ∧ wholeRequest r = true ∧ q.hears r = true ∧ b.admitsPacket q 0x0403 r = true ∧
      (b.taken c).rowFourteen c = none ∧ (b.taken c).chapterRefusal c = none ∧
      (c.fence && ((b.taken c).outstanding r.qp).any (fun d => decide (d.id < c.id))) = false)) ∧
    (cancelling.acts 100 = true ∧ cancelling.turnOf 100 = some cancelCmd ∧ cancelCmd.hdr.opcode = 0x0403 ∧
      shapedAs cancelCmd 8 [(4, 4)] = true ∧ (cancelling.arrived 100).seqOf cancelCmd.hdr.partition (fieldAt cancelCmd.input 0 4) = some seq ∧
      seq.ending = none ∧ cancelCmd.cancelled = none) := by
  dsimp only
  exact ⟨host_of (by decide +kernel),
    host_of (by decide +kernel),
    host_of (by decide +kernel),
    host_of (by decide +kernel),
    host_of (by decide +kernel),
    by decide +kernel,
    by decide +kernel⟩

/-- States and operands that meet the hypotheses of `StepsGoOn`, clause by clause. -/
theorem witness_StepsGoOn :
  let cooled (b : State) (p : Nat) : State := { b.settleLathes p with cool := b.cool.filter (fun e => e.1 != p) }
  (let p := 0; UnitMeets stepping
    (fun b => (cooled b p).awaitsSpare p ((cooled b p).runner p).ctx = false ∧ ((cooled b p).runner p).active = true)) ∧
    (let p := 0; UnitMeets generating
    (fun b => ((cooled b p).runner p).active = false)) ∧
    (UnitMeets generating
    (fun _ => True)) ∧
    (UnitMeets generating
    (fun _ => True)) ∧
    (let p := 0; let obj := 77; UnitMeets farWaiting
    (fun b => (b.runner p).far.any (fun f => f.obj == obj && f.pinned && f.came.isNone) = true ∧ (b.promote p obj false).1 = stOk)) := by
  dsimp only
  exact ⟨unit_of (by decide +kernel),
    unit_of (by decide +kernel),
    unit_of (by decide +kernel),
    unit_of (by decide +kernel),
    unit_of (by decide +kernel)⟩

/-- The descriptor of table 1, version 1: ten rows of 16 elements of FP32 at 1 GiB, with optimizer SGD. -/
def embDesc (ver base : Nat) : List Byte :=
  toLE 2 1 ++ toLE 2 ver ++ [7, 1, 1, 0] ++ toLE 2 16 ++ zeros 2 ++ toLE 4 64 ++ toLE 8 10 ++ toLE 8 base ++ zeros 32

def embVer : EmbVer := (parseEmb (embDesc 1 0x4000_0000)).2

/-- The table in tier 2, with a hot set. -/
def hotVer : EmbVer := { embVer with opt := 0, tier := 2, base := 0x100_0001_0000, cap := 16, hot := 0x5000_0000 }

def tables (t : EmbTable) : State := { serving with tables := [t] }

def embTable : EmbTable := { id := 1, cur := embVer }

def hotTable : EmbTable := { id := 1, cur := hotVer }

def draining : EmbTable := { embTable with old := some ({ embVer with ver := 9 }, 0) }

def drained : State := { tables draining with cmds := [{ id := 0, hdr := { opcode := 0x0504 } }] }

def migration : Migration := ⟨1, 1, 4, true, 2, 0, []⟩

def migrating : State := { tables hotTable with migs := [migration], cmds := [{ id := 0, hdr := { opcode := 0x0505 } }] }

def updating : State :=
  { tables embTable with embJobs := [⟨0, 1, 1, 1, zeros 32, true, none, [(0, List.replicate 16 0#32)], 0, false, true⟩]
                         cmds := [{ id := 0, hdr := { opcode := 0x0502 } }] }

/-- States and operands that meet the hypotheses of `EmbeddingCommandsHaveTheirEffect`, clause by clause. -/
theorem witness_EmbeddingCommandsHaveTheirEffect :
  (HostMeets serving 0x0503 (req (embDesc 1 0x4000_0000))
    (fun c u =>
      let e := parseEmb c.input
      u.bit EMB_CTRL 0 = true ∧ c.input.length = 64 ∧ embResvOk c.input = true ∧ u.table? e.1 = none ∧ e.1 < 4096 ∧
        e.2.ok = true ∧ u.embPlaced c.hdr.partition e.2 = true ∧ u.embOnDir c.hdr.partition e.2 = false)) ∧
    (let x := embTable; HostMeets (tables embTable) 0x0504 (req (embDesc 2 0x4100_0000))
    (fun c u =>
      let p := c.hdr.partition
      let e := parseEmb c.input
      u.bit EMB_CTRL 0 = true ∧ c.input.length = 64 ∧ embResvOk c.input = true ∧ u.table? e.1 = some x ∧ x.part = p ∧
        x.old = none ∧ x.next = none ∧ e.2.ok = true ∧ e.2.ver ≠ x.cur.ver ∧ u.embPlaced p e.2 = true ∧
        (e.2.ranges (u.userPchs p)).all (fun r => clearOf r.1 r.2 (x.cur.ranges (u.userPchs p))) = true ∧ u.embOnDir p e.2 = false)) ∧
    (let x := embTable; HostMeets (tables embTable) 0x0506 (req (toLE 2 1 ++ zeros 6))
    (fun c u => u.bit EMB_CTRL 0 = true ∧ shapedAs c 8 [(2, 6)] = true ∧ u.table? (fieldAt c.input 0 2) = some x ∧
      x.part = c.hdr.partition ∧ x.old = none ∧ x.next = none ∧ u.tableBusy x x.cur.ver c.id = false)) ∧
    (let x := embTable; let v := embVer; HostMeets (tables embTable) 0x0500 (req (toLE 2 1 ++ toLE 2 1 ++ [1, 0, 0, 0] ++ toLE 4 2 ++ toLE 4 2 ++ toLE 4 2 ++ toLE 4 0 ++ toLE 8 9 ++ toLE 8 10))
    (fun c u =>
      let f := fieldAt c.input
      let p := c.hdr.partition
      let nb := f 8 4
      let ni := f 12 4
      let lens := (List.range nb).map (fun i => f (16 + 4 * i) 4)
      let ids := (List.range ni).map (fun i => f (16 + 4 * nb + 8 * i) 8)
      let bags := bagsOf lens ids
      let rows := dedupBy (fun (x : Nat) => x) (ids.filterMap v.resolve ++
        (if bags.any (fun b => b.isEmpty) then v.dflt.toList else []))
      u.bit EMB_CTRL 0 = true ∧ f 4 1 < 4 ∧ 0 < nb ∧ nb ≤ 65536 ∧ (f 4 1 = 0 → nb = 1) ∧ 0 < ni ∧ ni ≤ 1048576 ∧
        c.input.length = 16 + 4 * nb + 8 * ni ∧ zerosAt c.input 5 3 = true ∧ sumNat lens = ni ∧
        u.boundTable c (f 0 2) (f 2 2) = some (x, v) ∧ u.rowStop p v rows = .ok ∧ u.rowUe p v rows = none)) ∧
    (let x := embTable; let v := embVer; HostMeets (tables embTable) 0x0501 (req (toLE 2 1 ++ toLE 2 0xFFFF ++ toLE 4 1 ++ zeros 8 ++ toLE 8 9 ++ zeros 64))
    (fun c u =>
      let f := fieldAt c.input
      let n := f 4 4
      u.bit EMB_CTRL 0 = true ∧ 0 < n ∧ n ≤ 65536 ∧ zerosAt c.input 8 8 = true ∧ u.boundTable c (f 0 2) (f 2 2) = some (x, v) ∧
        v.ro = false ∧ c.input.length = 16 + 8 * n + 4 * v.dims * n)) ∧
    (let x := embTable; let v := embVer; HostMeets (tables embTable) 0x0502 (req (toLE 2 1 ++ toLE 2 1 ++ toLE 4 1 ++ toLE 4 0x3F80_0000 ++ zeros 20 ++ toLE 8 9 ++ zeros 64))
    (fun c u =>
      let f := fieldAt c.input
      let n := f 4 4
      u.bit EMB_CTRL 0 = true ∧ 0 < n ∧ n ≤ 65536 ∧ f 8 4 ≠ 0 ∧ zerosAt c.input 28 4 = true ∧
        u.boundTable c (f 0 2) (f 2 2) = some (x, v) ∧ v.ro = false ∧ v.opt ≠ 0 ∧
        c.input.length = 32 + 8 * n + 4 * v.dims * n)) ∧
    (let x := hotTable; let v := hotVer; HostMeets (tables hotTable) 0x0505 (req (toLE 2 1 ++ toLE 2 1 ++ toLE 4 1 ++ zeros 8 ++ toLE 8 9))
    (fun c u =>
      let f := fieldAt c.input
      let p := c.hdr.partition
      let na := f 4 4
      let nr := f 8 4
      let adds := (List.range na).map (fun i => f (16 + 8 * i) 8)
      let rems := (List.range nr).map (fun i => f (16 + 8 * na + 8 * i) 8)
      let hot (r : Nat) : Bool := u.willBeHot p x v r
      u.bit EMB_CTRL 0 = true ∧ na ≤ 65536 ∧ nr ≤ 65536 ∧ c.input.length = 16 + 8 * (na + nr) ∧ zerosAt c.input 12 4 = true ∧
        u.boundTable c (f 0 2) (f 2 2) = some (x, v) ∧ v.tier ≠ 1 ∧ (adds ++ rems).all (fun r => decide (r < v.rows)) = true ∧
        hasRepeat adds = false ∧ hasRepeat rems = false ∧ adds.all (fun r => !hot r) = true ∧ rems.all hot = true ∧
        (adds ++ rems).all (fun r => (u.hotFind p v r).isSome && !u.locLost (v.home r) &&
          (u.cxlMissing (v.home r).addr v.rowBytes).isNone) = true ∧ u.hotCount x v + na ≤ v.cap + nr)) := by
  dsimp only
  exact ⟨host_of (by decide +kernel),
    host_of (by decide +kernel),
    host_of (by decide +kernel),
    host_of (by decide +kernel),
    host_of (by decide +kernel),
    host_of (by decide +kernel),
    host_of (by decide +kernel)⟩

/-- States and operands that meet the hypotheses of `EmbeddingTablesGoOn`, clause by clause. -/
theorem witness_EmbeddingTablesGoOn :
  (let id := 1; let x := draining; let v := { embVer with ver := 9 }; let owed := 0; UnitMeets drained
    (fun b => b.table? id = some x ∧ x.old = some (v, owed) ∧ b.tableBusy x v.ver owed = false)) ∧
    (let id := 1; let row := 4; let m := migration; let x := hotTable; let v := hotVer; UnitMeets migrating
    (fun b => b.migs.find? (fun m => m.table == id && m.row == row) = some m ∧ b.table? id = some x ∧ x.ver? m.ver = some v ∧
      m.log = [] ∧ (m.add = true → (b.pchOf (v.slotLoc (b.userPchs x.part) m.slot).addr).all (fun e => b.engineTakes e.1) = true))) ∧
    (let id := 0; UnitMeets updating
    (fun b => b.embJobs.any (fun j => j.cmd == id) = true)) ∧
    (let id := 0; UnitMeets updating
    (fun b => b.embJobs.any (fun j => j.cmd == id) = true)) := by
  dsimp only
  exact ⟨unit_of (by decide +kernel),
    unit_of (by decide +kernel),
    unit_of (by decide +kernel),
    unit_of (by decide +kernel)⟩

/-- SELECT of 8 FP32 keys given with the command. -/
def selectBody (k p : Nat) : List Byte := [7, 0, 0, 0] ++ toLE 4 8 ++ toLE 4 k ++ toLE 4 p ++ zeros 16 ++ zeros 32

def selJob : UnitJob := { kind := 0, cmd := 0 }

def tokJob : UnitJob := { kind := 1, cmd := 0 }

/-- The module with all selection units and tokenizer engines in service, and a selection area for partition 0. -/
def units : State :=
  { regs serving ([(SEL_PART_AREA 0, 0x6000_0000), (SEL_PART_SIZE 0, 2048), (JIG_PART_AREA 0, 0x7000_0000 + 0x100)] ++
      (List.range 8).map (fun i => (SEL_UNIT i, 2 ^ 16))) with engines := List.replicate 4 1 }

def waitingJobs : State :=
  { units with jobs := [selJob, tokJob], cmds := [{ id := 0, hdr := { opcode := 0x0700 }, input := toLE 2 9 ++ zeros 2 ++ toLE 4 1 ++ [65] }] }

/-- A grammar of one accepting state that allows tokens 0 to 3. -/
def grammarImage : List Byte :=
  let h := toLE 4 0x4D47_4A4A ++ toLE 2 0x0100 ++ zeros 2 ++ toLE 4 1 ++ zeros 4 ++ toLE 4 1 ++ toLE 4 0 ++ toLE 4 4 ++ zeros 4 ++
    toLE 8 64 ++ toLE 8 80 ++ toLE 8 96 ++ zeros 4
  let b := zeros 4 ++ [1] ++ zeros 11 ++ toLE 8 96 ++ toLE 4 1 ++ zeros 4 ++ [15]
  h ++ toLE 4 (crcOver (h ++ zeros 4 ++ b) [(0, 60), (64, 16), (80, 16), (96, 0), (96, 1)]) ++ b

/-- The rows of a table of 256 rows. -/
def rows (g : Nat → List Byte) : List Byte := (List.range 256).flatMap g

/-- A vocabulary of the 256 byte entries alone: its tables, its spellings, an empty trie and its byte tokens. -/
def vocabBody : List Byte :=
  rows (fun t => toLE 4 t ++ [1, 0, 1, 0]) ++ (rows (fun t => [BitVec.ofNat 8 t]) ++ (toLE 4 0xFFFF_FFFF ++ zeros 4 ++ rows (toLE 4)))

def vocabHead : List Byte :=
  toLE 4 0x56434A4D ++ toLE 2 0x0100 ++ zeros 2 ++ toLE 4 256 ++ toLE 4 8 ++ toLE 8 64 ++ toLE 8 2112 ++ toLE 8 2368 ++ toLE 8 2376 ++
    toLE 8 256 ++ zeros 4

def vocabImage : List Byte := vocabHead ++ (toLE 4 (crc32c (vocabHead ++ vocabBody)) ++ vocabBody)

theorem rows_drop (g : Nat → List Byte) (w : Nat) (hg : ∀ t, (g t).length = w) (l : List Nat) (r : List Byte) (t x : Nat)
    (h : l[t]? = some x) : ∃ z, (l.flatMap g ++ r).drop (w * t) = g x ++ z := by
  induction l generalizing t with
  | nil => simp at h
  | cons y l ih =>
    cases t with
    | zero => simp at h; subst h; exact ⟨l.flatMap g ++ r, by simp⟩
    | succ t =>
      obtain ⟨z, hz⟩ := ih t (by simpa using h)
      refine ⟨z, ?_⟩
      rw [List.flatMap_cons, List.append_assoc, Nat.mul_succ, Nat.add_comm, ← List.drop_drop, List.drop_left' (hg y)]
      exact hz

/-- A row of a table that stands in an image. -/
theorem row_slice {im a r : List Byte} {g : Nat → List Byte} {w : Nat} (e : im = a ++ (rows g ++ r)) (hg : ∀ t, (g t).length = w)
    {o t k n : Nat} (ho : a.length = o) (ht : t < 256) (hk : k + n ≤ w) :
    slice im (o + w * t + k) n = ((g t).drop k).take n := by
  obtain ⟨z, hz⟩ := rows_drop g w hg (List.range 256) r t t (by simp [ht])
  unfold slice
  rw [e, Nat.add_assoc, ← List.drop_drop, List.drop_left' ho, ← List.drop_drop, show (rows g ++ r).drop (w * t) = g t ++ z from hz,
    List.drop_append_of_le_length (by rw [hg]; omega), List.take_append_of_le_length (by rw [List.length_drop, hg]; omega)]

theorem rows_length {g : Nat → List Byte} {w : Nat} (hg : ∀ t, (g t).length = w) : (rows g).length = 256 * w := by
  unfold rows; rw [List.length_flatMap, funext hg, List.map_const', List.sum_replicate_nat, List.length_range]

theorem toLE_length (n v : Nat) : (toLE n v).length = n := by
  induction n generalizing v with
  | zero => rfl
  | succ n ih => simp [toLE, ih]

theorem leNat_toLE (n v : Nat) (h : v < 256 ^ n) : leNat (toLE n v) = v := by
  induction n generalizing v with
  | zero => simp [toLE, leNat] at *; omega
  | succ n ih =>
    simp [toLE, leNat]; rw [ih _ (by rw [Nat.pow_succ] at h; exact Nat.div_lt_of_lt_mul (by omega))]; omega
/-- A checksum over everything but the bytes that hold it. -/
theorem crcOver_skip (a x b : List Byte) (l : List (Nat × Nat))
    (h : ∀ i, i < a.length + x.length + b.length →
      l.any (fun r => r.1 ≤ i && i < r.1 + r.2) = (decide (i < a.length) || decide (a.length + x.length ≤ i))) :
    crcOver (a ++ (x ++ b)) l = crc32c (a ++ b) := by
  have all (c : List Byte) (o : Nat) (v : Bool) (hv : ∀ i, o ≤ i → i < o + c.length → l.any (fun r => r.1 ≤ i && i < r.1 + r.2) = v) :
      ((c.zipIdx o).filter (fun e => l.any (fun r => r.1 ≤ e.2 && e.2 < r.1 + r.2))).map (fun e => e.1) = if v then c else [] := by
    induction c generalizing o with
    | nil => cases v <;> rfl
    | cons y c ih =>
      have h0 := hv o (by omega) (by simp)
      have h1 := ih (o + 1) (fun i hi hj => hv i (by omega) (by simp at *; omega))
      rw [List.zipIdx_cons, List.filter_cons, h0]
      cases v
      · exact h1
      · rw [if_pos rfl, List.map_cons, h1]; rfl
  unfold crcOver
  rw [List.zipIdx_append, List.zipIdx_append, List.filter_append, List.filter_append, List.map_append, List.map_append,
    all a 0 true (by intro i h1 h2; rw [h i (by omega)]; simp; omega),
    all x (0 + a.length) false (by intro i h1 h2; rw [h i (by omega)]; simp; omega),
    all b _ true (by intro i h1 h2; rw [h i (by omega)]; simp; omega)]
  rfl

theorem image_field {o n v : Nat} (h : fieldAt (vocabHead ++ []) o n = v) (ho : o + n ≤ 60) : fieldAt vocabImage o n = v := by
  rw [← h]; unfold fieldAt vocabImage
  have : vocabHead.length = 60 := by decide
  rw [List.drop_append_of_le_length (by omega), List.take_append_of_le_length (by rw [List.length_drop]; omega), List.append_nil]

theorem vocabImage_ok : vocabOk vocabImage = true := by
  have hl : vocabHead.length = 60 := by decide
  have g1 : ∀ t, (toLE 4 t ++ [1, 0, 1, 0] : List Byte).length = 8 := by intro t; rw [List.length_append, toLE_length]; rfl
  have g2 : ∀ t, ([BitVec.ofNat 8 t] : List Byte).length = 1 := fun _ => rfl
  have g3 : ∀ t, (toLE 4 t).length = 4 := toLE_length 4
  have hb : vocabBody.length = 3336 := by
    unfold vocabBody; simp only [List.length_append, rows_length g1, rows_length g2, rows_length g3]; decide
  obtain ⟨c, e, lc, vc⟩ : ∃ c : List Byte, vocabImage = vocabHead ++ (c ++ vocabBody) ∧ c.length = 4 ∧
      leNat c = crc32c (vocabHead ++ vocabBody) := ⟨_, rfl, toLE_length _ _, leNat_toLE _ _ (by unfold crc32c; exact BitVec.isLt _)⟩
  have hi : vocabImage.length = 3400 := by rw [e, List.length_append, List.length_append, hl, hb, lc]
  have hc : fieldAt vocabImage 60 4 = crc32c (vocabHead ++ vocabBody) := by
    unfold fieldAt; rw [e, List.drop_left' hl, List.take_left' lc, vc]
  have e1 : vocabImage = (vocabHead ++ c) ++ (rows (fun t => toLE 4 t ++ [1, 0, 1, 0]) ++ (rows (fun t => [BitVec.ofNat 8 t]) ++
      (toLE 4 0xFFFF_FFFF ++ zeros 4 ++ rows (toLE 4)))) := by
    rw [e]; simp only [vocabBody, List.append_assoc]
  have p1 : (vocabHead ++ c).length = 64 := by rw [List.length_append, hl, lc]
  have e2 : vocabImage = (vocabHead ++ c ++ rows (fun t => toLE 4 t ++ [1, 0, 1, 0])) ++ (rows (fun t => [BitVec.ofNat 8 t]) ++
      (toLE 4 0xFFFF_FFFF ++ zeros 4 ++ rows (toLE 4))) := by
    rw [e]; simp only [vocabBody, List.append_assoc]
  have p2 : (vocabHead ++ c ++ rows (fun t => toLE 4 t ++ [1, 0, 1, 0])).length = 2112 := by
    rw [List.length_append, p1, rows_length g1]
  have e4 : vocabImage = (vocabHead ++ c ++ rows (fun t => toLE 4 t ++ [1, 0, 1, 0]) ++ rows (fun t => [BitVec.ofNat 8 t])) ++
      ((toLE 4 0xFFFF_FFFF ++ zeros 4) ++ rows (toLE 4)) := by
    rw [e]; simp only [vocabBody, List.append_assoc]
  have p4 : (vocabHead ++ c ++ rows (fun t => toLE 4 t ++ [1, 0, 1, 0]) ++ rows (fun t => [BitVec.ofNat 8 t])).length = 2368 := by
    rw [List.length_append, p2, rows_length g2]
  have e3 : vocabImage = (vocabHead ++ c ++ rows (fun t => toLE 4 t ++ [1, 0, 1, 0]) ++ rows (fun t => [BitVec.ofNat 8 t]) ++
      (toLE 4 0xFFFF_FFFF ++ zeros 4)) ++ (rows (toLE 4) ++ []) := by
    rw [e, List.append_nil]; simp only [vocabBody, List.append_assoc]
  have p3 : (vocabHead ++ c ++ rows (fun t => toLE 4 t ++ [1, 0, 1, 0]) ++ rows (fun t => [BitVec.ofNat 8 t]) ++
      (toLE 4 0xFFFF_FFFF ++ zeros 4)).length = 2376 := by
    rw [List.length_append, p4]; rfl
  have a1 : ∀ t, t < 256 → fieldAt vocabImage (64 + 8 * t) 4 = t := fun t ht => by
    show leNat (slice vocabImage (64 + 8 * t + 0) 4) = t
    rw [row_slice e1 g1 p1 ht (by omega)]; exact leNat_toLE 4 t (by omega)
  have a2 : ∀ t, t < 256 → fieldAt vocabImage (64 + 8 * t + 4) 2 = 1 := fun t ht => by
    show leNat (slice vocabImage (64 + 8 * t + 4) 2) = 1
    rw [row_slice e1 g1 p1 ht (by omega)]; rfl
  have a3 : ∀ t, t < 256 → fieldAt vocabImage (64 + 8 * t + 6) 2 = 1 := fun t ht => by
    show leNat (slice vocabImage (64 + 8 * t + 6) 2) = 1
    rw [row_slice e1 g1 p1 ht (by omega)]; rfl
  have a4 : ∀ t, t < 256 → slice vocabImage (2112 + t) 1 = [BitVec.ofNat 8 t] := fun t ht => by
    have := row_slice e2 g2 p2 ht (k := 0) (n := 1) (by omega)
    rw [Nat.one_mul] at this; exact this
  have a5 : ∀ t, t < 256 → fieldAt vocabImage (2376 + 4 * t) 4 = t := fun t ht => by
    show leNat (slice vocabImage (2376 + 4 * t + 0) 4) = t
    rw [row_slice e3 g3 p3 ht (by omega)]; exact leNat_toLE 4 t (by omega)
  have tr : slice vocabImage 2368 8 = toLE 4 0xFFFF_FFFF ++ zeros 4 := by
    unfold slice; rw [e4, List.drop_left' p4]; exact List.take_left' rfl
  have f (o n v : Nat) (h : fieldAt (vocabHead ++ []) o n = v) (ho : o + n ≤ 60) := image_field h ho
  have h0 := f 0 4 0x56434A4D (by decide) (by decide)
  have h4 := f 4 2 0x0100 (by decide) (by decide)
  have h8 := f 8 4 256 (by decide) (by decide)
  have h12 := f 12 4 8 (by decide) (by decide)
  have h16 := f 16 8 64 (by decide) (by decide)
  have h24 := f 24 8 2112 (by decide) (by decide)
  have h32 := f 32 8 2368 (by decide) (by decide)
  have h40 := f 40 8 2376 (by decide) (by decide)
  have h48 := f 48 8 256 (by decide) (by decide)
  have hk : crcOver vocabImage [(0, 60), (64, 2048), (2112, 256), (2368, 8), (2376, 1024)] = crc32c (vocabHead ++ vocabBody) := by
    rw [e]
    refine crcOver_skip _ _ _ _ ?_
    rw [hl, lc, hb]; intro i hi; rw [Bool.eq_iff_iff]; simp; omega
  unfold vocabOk
  dsimp only
  rw [h0, h4, h8, h12, h16, h24, h32, h40, h48, hc, hi, tr, hk]
  have kids : trieNodes (toLE 4 0xFFFF_FFFF ++ zeros 4) (8192 * 8 + 1) [0] [] = some [0] := by decide +kernel
  rw [kids]
  simp only [Bool.and_eq_true, List.all_eq_true, List.mem_range]
  refine ⟨⟨⟨⟨⟨⟨by decide, by simp⟩, ?_⟩, ?_⟩, ?_⟩, by decide +kernel⟩, ?_⟩
  · intro t ht; simp only [a1 t ht, a2 t ht, a3 t ht]; simp; exact ⟨⟨ht, by decide⟩, by decide⟩
  · intro b hb; simp only [a5 b hb, a1 b hb, a2 b hb, a3 b hb, a4 b hb]; simp; exact hb
  · intro t ht
    have : (List.range 256).filter (fun t => fieldAt vocabImage (64 + 8 * t + 6) 2 % 4 == 2) = [] := by
      rw [List.filter_eq_nil_iff]; intro t ht; rw [a3 t (by simpa using ht)]; decide
    rw [this]; simp
  · intro t ht; rw [a3 t ht]; rfl
/-- VOCAB_LOAD of that vocabulary for model 11 into slot 5. -/
def vocabLoad : List Byte := [5, 0] ++ toLE 2 1 ++ zeros 12 ++ toLE 8 3400 ++ toLE 2 11 ++ vocabImage

/-- What a command that intake starts at once carries. -/
theorem begins_input {s : State} {op : Nat} {r : Req} {c : Cmd} {u : State} (h : s.begins op r = some (c, u)) : c.input = payOf r := by
  unfold State.begins at h
  obtain ⟨q, -, h⟩ := Option.bind_eq_some_iff.1 h
  dsimp only at h
  split at h
  · obtain ⟨v, -, h⟩ := Option.map_eq_some_iff.1 h
    cases h; rfl
  · cases h

set_option maxRecDepth 200000 in
theorem vocabLoad_meets : HostMeets units 0x0702 (req vocabLoad) (fun c u =>
    let f := fieldAt c.input
    let p := c.hdr.partition
    let head := 24 + 2 * f 2 2
    let ms := (List.range (f 2 2)).map (fun i => f (24 + 2 * i) 2)
    let s1 := u.dropVocab (f 0 1)
    head ≤ c.input.length ∧ c.input.length = head + f 16 8 ∧ f 0 1 < 64 ∧ f 2 2 ≤ 16 ∧ zerosAt c.input 1 1 = true ∧
      zerosAt c.input 4 4 = true ∧ f 8 8 = 0 ∧ u.vocabs.find? (fun v => v.slot == f 0 1) = none ∧
      u.vocabs.all (fun v => !(v.part == p && v.slot != f 0 1 && ms.any (fun m => v.models.contains m))) = true ∧
      (f 2 2 ≠ 0 ∨ f 16 8 ≠ 0) ∧ vocabOk (c.input.drop head) = true ∧
      s1.placeArea (TOK_PART_AREA p) (f 16 8) 64 (s1.textHeld p) = some 0x2000_0000) := by
  obtain ⟨ha, c, u, hb, h1, h2, h3, h4, h5, h6, h7, h8, h9, h10, h11⟩ := host_of (s := units) (op := 0x0702) (r := req vocabLoad)
    (P := fun c u =>
      let f := fieldAt c.input
      let p := c.hdr.partition
      let head := 24 + 2 * f 2 2
      let ms := (List.range (f 2 2)).map (fun i => f (24 + 2 * i) 2)
      let s1 := u.dropVocab (f 0 1)
      head ≤ c.input.length ∧ c.input.length = head + f 16 8 ∧ f 0 1 < 64 ∧ f 2 2 ≤ 16 ∧ zerosAt c.input 1 1 = true ∧
        zerosAt c.input 4 4 = true ∧ f 8 8 = 0 ∧ u.vocabs.find? (fun v => v.slot == f 0 1) = none ∧
        u.vocabs.all (fun v => !(v.part == p && v.slot != f 0 1 && ms.any (fun m => v.models.contains m))) = true ∧
        (f 2 2 ≠ 0 ∨ f 16 8 ≠ 0) ∧ s1.placeArea (TOK_PART_AREA p) (f 16 8) 64 (s1.textHeld p) = some 0x2000_0000) (by decide +kernel)
  refine ⟨ha, c, u, hb, h1, h2, h3, h4, h5, h6, h7, h8, h9, h10, ?_, h11⟩
  have e : c.input = vocabLoad := (begins_input hb).trans (List.drop_zero)
  have h : vocabLoad.drop 26 = vocabImage := List.drop_left' rfl
  rw [e]; exact h ▸ vocabImage_ok

def grammar : Grammar := { slot := 2, entries := 4, states := 1 }

def withGrammar : State := { units with grammars := [grammar] }

/-- States and operands that meet the hypotheses of `SelectionsHaveTheirEffect`, clause by clause. -/
theorem witness_SelectionsHaveTheirEffect :
  let legal (c : Cmd) (u : State) : Prop :=
    let q := parseSelect c.input
    32 ≤ c.input.length ∧ fieldAt c.input 1 1 < 4 ∧ zerosAt c.input 2 2 = true ∧ zerosAt c.input 24 8 = true ∧
      q.ok c.hdr.opcode c.input.length = true ∧ cxlLinkOf q.addr = none ∧
      (q.addr ≠ 0 → u.inRegion c.hdr.partition q.addr (q.n * q.z) = true ∧ u.hitsDir c.hdr.partition q.addr (q.n * q.z) = false) ∧
      q.room ≤ (u.selSlice c.hdr.partition 0).2
  (HostMeets units 0x0600 (req (selectBody 8 0))
    legal) ∧
    (HostMeets units 0x0601 (req (selectBody 1 0))
    legal) ∧
    (HostMeets units 0x0602 (req (selectBody 8 0x3F80_0000))
    legal) ∧
    (let j := selJob; let k := 0; UnitMeets waitingJobs
    (fun b => b.bit SEL_CTRL 0 = true ∧ b.nextJob 0 b.selLast = some j ∧ (b.freeUnits 0 j.avoid).head? = some k)) ∧
    (let k := 7; UnitMeets units
    (fun b => b.unitReady 0 k = true ∧ b.jobs = [])) := by
  dsimp only
  exact ⟨host_of (by decide +kernel),
    host_of (by decide +kernel),
    host_of (by decide +kernel),
    unit_of (by decide +kernel),
    unit_of (by decide +kernel)⟩

set_option maxRecDepth 200000 in
/-- States and operands that meet the hypotheses of `TextCommandsHaveTheirEffect`, clause by clause. -/
theorem witness_TextCommandsHaveTheirEffect :
  (let v := vocab; HostMeets units 0x0700 (req (toLE 2 9 ++ zeros 2 ++ toLE 4 1 ++ [65]))
    (fun c u => 0 < fieldAt c.input 4 4 ∧ fieldAt c.input 4 4 ≤ 268435456 ∧ c.input.length = 8 + fieldAt c.input 4 4 ∧
      zerosAt c.input 2 2 = true ∧ u.vocabFor c.hdr.partition (fieldAt c.input 0 2) = some v)) ∧
    (let v := vocab; HostMeets units 0x0701 (req (toLE 2 9 ++ zeros 2 ++ toLE 4 1 ++ toLE 4 3))
    (fun c u =>
      let n := fieldAt c.input 4 4
      0 < n ∧ n ≤ 16777215 ∧ c.input.length = 8 + 4 * n ∧ zerosAt c.input 2 2 = true ∧
        u.vocabFor c.hdr.partition (fieldAt c.input 0 2) = some v ∧
        ((List.range n).map (fun i => fieldAt c.input (8 + 4 * i) 4)).all (fun w => u.wordOk v w) = true ∧ u.ue = [])) ∧
    (let at_ := 0x2000_0000; HostMeets units 0x0702 (req vocabLoad)
    (fun c u =>
      let f := fieldAt c.input
      let p := c.hdr.partition
      let nm := f 2 2
      let head := 24 + 2 * nm
      let ms := (List.range nm).map (fun i => f (24 + 2 * i) 2)
      let s1 := u.dropVocab (f 0 1)
      head ≤ c.input.length ∧ c.input.length = head + f 16 8 ∧ f 0 1 < 64 ∧ nm ≤ 16 ∧ zerosAt c.input 1 1 = true ∧
        zerosAt c.input 4 4 = true ∧ f 8 8 = 0 ∧ u.vocabs.find? (fun v => v.slot == f 0 1) = none ∧
        u.vocabs.all (fun v => !(v.part == p && v.slot != f 0 1 && ms.any (fun m => v.models.contains m))) = true ∧
        (nm ≠ 0 ∨ f 16 8 ≠ 0) ∧ vocabOk (c.input.drop head) = true ∧
        s1.placeArea (TOK_PART_AREA p) (f 16 8) 64 (s1.textHeld p) = some at_)) ∧
    (HostMeets units 0x0702 (req ([5, 0] ++ toLE 2 1 ++ zeros 12 ++ toLE 8 64 ++ toLE 2 11 ++ zeros 64))
    (fun c _ =>
      let f := fieldAt c.input
      let head := 24 + 2 * f 2 2
      head ≤ c.input.length ∧ c.input.length = head + f 16 8 ∧ f 0 1 < 64 ∧ f 2 2 ≤ 16 ∧ zerosAt c.input 1 1 = true ∧
        zerosAt c.input 4 4 = true ∧ f 8 8 = 0 ∧ (f 2 2 ≠ 0 ∨ f 16 8 ≠ 0) ∧ vocabOk (c.input.drop head) = false)) ∧
    (let v := vocab; let slot := 0; let at_ := 0x7000_0000; HostMeets units 0x0703 (req (toLE 2 9 ++ zeros 2 ++ toLE 4 97 ++ zeros 8 ++ grammarImage))
    (fun c u =>
      let f := fieldAt c.input
      let n := f 4 4
      let im := c.input.drop 16
      u.bit JIG_CTRL 0 = true ∧ f 8 8 = 0 ∧ c.input.length = 16 + n ∧ 64 ≤ n ∧ n ≤ 268435456 ∧ zerosAt c.input 2 2 = true ∧
        grammarOk im = true ∧ u.vocabFor c.hdr.partition (f 0 2) = some v ∧ u.grammarFits v im = true ∧
        (List.range 256).find? (fun i => !u.grammars.any (fun x => x.slot == i)) = some slot ∧
        u.placeArea (JIG_PART_AREA c.hdr.partition) n 64 (u.gramHeld c.hdr.partition) = some at_)) ∧
    (let g := grammar; HostMeets withGrammar 0x0704 (req ([2] ++ zeros 7))
    (fun c u => shapedAs c 8 [(1, 7)] = true ∧ u.grammar? c.hdr.partition (fieldAt c.input 0 1) = some g ∧
      u.seqs.all (fun q => !(q.gram && q.gslot == fieldAt c.input 0 1)) = true)) ∧
    (let j := tokJob; let k := 0; let c := ({ id := 0, hdr := { opcode := 0x0700 }, input := toLE 2 9 ++ zeros 2 ++ toLE 4 1 ++ [65] } : Cmd); UnitMeets waitingJobs
    (fun b => b.bit TOK_CTRL 0 = true ∧ b.nextJob 1 b.tokLast = some j ∧ (b.freeUnits 1 j.avoid).head? = some k ∧
      b.cmd? j.cmd = some c)) ∧
    (let k := 3; UnitMeets units
    (fun b => b.unitReady 1 k = true ∧ b.jobs = [])) := by
  dsimp only
  exact ⟨host_of (by decide +kernel),
    host_of (by decide +kernel),
    vocabLoad_meets,
    host_of (by decide +kernel),
    host_of (by decide +kernel),
    host_of (by decide +kernel),
    unit_of (by decide +kernel),
    unit_of (by decide +kernel)⟩

/-- Partition 0 with tier object 77, whose copy is in tier 2. -/
def tiered : State := { serving with dir := [
    (0, { id := 77, t2 := some 0x100_0000_8000, len2 := 64, pins := 1 }),
    (0, { id := 78, slot := 1, t1 := some 0x10_0000, len1 := 64, t2 := some 0x100_0000_9000, len2 := 64 }),
    (0, { id := 79, slot := 2, t2 := some 0x100_0000_A000, len2 := 64 })] }

/-- States and operands that meet the hypotheses of `MemoryCommandsHaveTheirEffect`, clause by clause. -/
theorem witness_MemoryCommandsHaveTheirEffect :
  let reach (c : Cmd) (u : State) : Prop :=
    let a := fieldAt c.input 0 8
    let n := fieldAt c.input 8 4
    u.owns c.hdr.partition a (max n 1) = true ∧ u.guarded c.hdr.partition a n (u.hotAreas c.hdr.partition) = false ∧
      u.cxlMissing a n = none
  let unpinned (c : Cmd) (u : State) : Prop :=
    let p := c.hdr.partition
    shapedAs c 16 [(12, 4)] = true ∧ 0 < fieldAt c.input 8 4 ∧ fieldAt c.input 8 4 ≤ 65536 ∧
      (namedIds c).all (fun id => (u.obj? p id).any (fun o => decide (u.pinCount p o = 0))) = true ∧
      (evictAll p (namedIds c) u).1 = stOk
  (HostMeets serving 0x0800 (req (toLE 8 0xFFFF_FFFD ++ toLE 4 3 ++ zeros 4 ++ [1, 2, 3]))
    (fun c u => 16 ≤ c.input.length ∧ (c.input.drop 16).length = fieldAt c.input 8 4 ∧ zerosAt c.input 12 4 = true ∧ reach c u ∧
      u.partialUe (fieldAt c.input 0 8) (fieldAt c.input 8 4) = false)) ∧
    (HostMeets serving 0x0801 (req (toLE 8 0 ++ toLE 4 1048576 ++ zeros 4))
    (fun c u => shapedAs c 16 [(12, 4)] = true ∧ (c.replyRef = none → fieldAt c.input 8 4 ≤ 1048576) ∧ reach c u ∧
      u.isUe (fieldAt c.input 0 8) (fieldAt c.input 8 4) = false)) ∧
    (HostMeets tiered 0x0802 (req (toLE 8 77 ++ toLE 4 2 ++ [1, 0, 0, 0]))
    (fun c u =>
      let fl := fieldAt c.input 12 1
      let p := c.hdr.partition
      shapedAs c 16 [(13, 3)] = true ∧ fl < 8 ∧ 0 < fieldAt c.input 8 4 ∧ fieldAt c.input 8 4 ≤ 65536 ∧
        (namedIds c).all (fun id => (u.obj? p id).isSome) = true ∧ fl.testBit 1 = false ∧
        (namedIds c).all (fun id => !u.pinFull p id) = true ∧ u.promoteFits p (fl.testBit 2) (namedIds c) = true)) ∧
    (HostMeets tiered 0x0802 (req (toLE 8 77 ++ toLE 4 1 ++ [2, 0, 0, 0]))
    (fun c u =>
      let fl := fieldAt c.input 12 1
      shapedAs c 16 [(13, 3)] = true ∧ fl < 8 ∧ 0 < fieldAt c.input 8 4 ∧ fieldAt c.input 8 4 ≤ 65536 ∧
        (namedIds c).all (fun id => (u.obj? c.hdr.partition id).isSome) = true ∧ fl.testBit 1 = true)) ∧
    (HostMeets tiered 0x0803 (req (toLE 8 78 ++ toLE 4 1 ++ zeros 4))
    (fun c u => unpinned c u ∧ (evictAll c.hdr.partition (namedIds c) u).2.evicting c = true)) ∧
    (HostMeets tiered 0x0803 (req (toLE 8 79 ++ toLE 4 1 ++ zeros 4))
    (fun c u => unpinned c u ∧ (evictAll c.hdr.partition (namedIds c) u).2.evicting c = false)) ∧
    (HostMeets tiered 0x0804 (req (toLE 8 (0x5F40 * 2 ^ 16 + 63)))
    (fun c _ =>
      let v := BitVec.ofNat 64 (fieldAt c.input 0 8)
      c.input.length = 8 ∧ v &&& ~~~ (fieldMask 47 16 ||| fieldMask 5 0) = 0 ∧
        v.toNat / 2 ^ 16 % 256 < v.toNat / 2 ^ 24 % 256)) ∧
    (HostMeets tiered 0x0805 (req (toLE 8 77 ++ toLE 4 4096 ++ zeros 4))
    (fun c _ => shapedAs c 16 [(12, 4)] = true ∧ 0 < fieldAt c.input 8 4 ∧ fieldAt c.input 8 4 ≤ 4096)) := by
  dsimp only
  exact ⟨host_of (by decide +kernel),
    host_of (by decide +kernel),
    host_of (by decide +kernel),
    host_of (by decide +kernel),
    host_of (by decide +kernel),
    host_of (by decide +kernel),
    host_of (by decide +kernel),
    host_of (by decide +kernel)⟩

/-- A model package of one schedule layer with one lane of one instruction, without groups and tiles. -/
def package : List Byte :=
  let h := toLE 4 0x4B50_4A4D ++ toLE 2 0x0100 ++ toLE 2 1 ++ zeros 16 ++ toLE 8 128 ++ toLE 8 144 ++ toLE 8 144 ++ toLE 8 144 ++ zeros 4
  let b := (toLE 2 1 ++ toLE 2 64 ++ toLE 4 0 ++ toLE 2 1 ++ toLE 2 64 ++ toLE 2 64 ++ [1, 1] ++ toLE 2 1 ++ toLE 2 0 ++ toLE 4 16 ++
    toLE 8 144 ++ toLE 8 160 ++ zeros 24) ++ zeros 16 ++ zeros 16 ++ toLE 4 0 ++ toLE 4 1
  h ++ toLE 4 (crcOver (h ++ zeros 4 ++ b) [(0, 60), (64, 64), (144, 16), (128, 16), (144, 0), (160, 8)]) ++ b

def variant : Variant := ⟨4, 0, 9, 1, 64, 0x7200_0000, 128⟩

def turnover : Turnover := ⟨0, 9, 1, 2, 0, some 50⟩

/-- Partition 0 with two versions of the model, one of them with a backward group and state tiles, a variant, and an area for
collectives. -/
def learning : State :=
  { regs serving [(HDS_VARIANT_AREA 0, 0x7200_0000 + 16), (NET_COLL_AREA 0, 0x7300_0000 + 16)] with
    models := [{ model with bwd := [⟨0, 0, 0, 0, 0, 0, 0, 0, 1, 0xFFFF_FFFF⟩] }, { model with version := 2, slot := 1, current := false }]
    dir := [(0, { id := 5 * 2 ^ 60 + (9 * 2 ^ 16 + 1) * 2 ^ 28 })]
    variants := [variant] }

def learnModel : Model := { model with bwd := [⟨0, 0, 0, 0, 0, 0, 0, 0, 1, 0xFFFF_FFFF⟩] }

def turning : State := { learning with turns := [turnover], cmds := [{ hdr := { opcode := 0x0904 } }] }

def coll : Coll := ⟨0, 0, 0, 7, 2, 0, 0, 0, 0x7100_0000, [], 512, 256, 1, 0⟩

def reducing : State :=
  { learning with colls := [coll], cmds := [{ hdr := { opcode := 0x0907 } }] }.store 0x7300_0000 (toLE 8 1)

set_option maxRecDepth 200000 in
/-- States and operands that meet the hypotheses of `ModelCommandsHaveTheirEffect`, clause by clause. -/
theorem witness_ModelCommandsHaveTheirEffect :
  (let v := 1; let k := 0xFFFF_F000; HostMeets serving 0x0900 (req (toLE 2 10 ++ toLE 2 1 ++ [1, 0, 0, 0] ++ zeros 8 ++ toLE 8 168 ++ package))
    (fun c u =>
      let f := fieldAt c.input
      let p := c.hdr.partition
      let pk := c.input.drop 24
      let m : Model := { parseModel pk with part := p, id := f 0 2, version := f 2 2 }
      let klen := fieldAt pk 84 4 + 8 * m.entries.length
      f 8 8 = 0 ∧ c.input.length = 24 + f 16 8 ∧ zerosAt c.input 5 3 = true ∧ f 4 1 ≤ 2 ∧ f 2 2 ≠ 0xFFFF ∧
        u.model? p (f 0 2) (f 2 2) = none ∧ packageOk pk m = true ∧
        (m.fwd ++ m.bwd).all (fun g => decide (m.groupBytes g ≤ u.tier0Share p)) = true ∧
        u.badContainer p m pk (f 4 1) = none ∧ u.freeModelSlot = some v ∧
        u.alloc1 p (roundUp klen 4096) 4096 = some k ∧
        (((u.hold k (roundUp klen 4096)).store k (slice pk (fieldAt pk 88 8) (fieldAt pk 84 4) ++
          slice pk (fieldAt pk 96 8) (8 * m.entries.length))).placeGroups p m pk (f 4 1)).isSome = true)) ∧
    (let m := { model with version := 2, slot := 1, current := false }; HostMeets learning 0x0901 (req (toLE 2 9 ++ toLE 2 2 ++ zeros 4))
    (fun c u => shapedAs c 8 [(4, 4)] = true ∧
      u.model? c.hdr.partition (fieldAt c.input 0 2) (fieldAt c.input 2 2) = some m ∧ u.versionBusy c m = false ∧ u.prefixes = [])) ∧
    (let a := 0x7200_0080; HostMeets learning 0x0902 (req (toLE 2 4095 ++ toLE 2 9 ++ toLE 2 1 ++ toLE 2 64 ++ zeros 8 ++ zeros 128))
    (fun c u =>
      let f := fieldAt c.input
      let p := c.hdr.partition
      let n := 2 * f 6 2 * f 4 2
      c.input.length = 16 + n ∧ f 0 2 < 4096 ∧ 0 < f 4 2 ∧ 64 ≤ f 6 2 ∧ f 6 2 ≤ 16384 ∧ f 6 2 % 64 = 0 ∧
        zerosAt c.input 8 8 = true ∧ u.variants.find? (fun v => v.num == f 0 2) = none ∧ u.variantBound p (f 0 2) = false ∧
        u.placeArea (HDS_VARIANT_AREA p) n 64 (((u.variants.filter (fun v => v.num != f 0 2)).filter (fun v =>
          v.part == p) ++ u.variantsHeld p).map (fun v => (v.addr, v.len))) = some a)) ∧
    (let v := variant; HostMeets learning 0x0903 (req (toLE 2 4 ++ zeros 6))
    (fun c u => shapedAs c 8 [(2, 6)] = true ∧ u.variants.find? (fun v => v.num == fieldAt c.input 0 2) = some v ∧
      v.part = c.hdr.partition ∧ u.variantBound v.part (fieldAt c.input 0 2) = false)) ∧
    (HostMeets learning 0x0904 (req (toLE 2 9 ++ toLE 2 1 ++ toLE 2 2 ++ zeros 2))
    (fun c u =>
      let f := fieldAt c.input
      let p := c.hdr.partition
      shapedAs c 8 [(6, 2)] = true ∧ u.turning c = false ∧
        (u.model? p (f 0 2) (f 2 2)).isSome = true ∧ f 2 2 ≠ f 4 2 ∧ (u.model? p (f 0 2) (f 4 2)).isSome = true)) ∧
    (let p := 0; let id := 9; let x := turnover; UnitMeets turning
    (fun b => b.turns.find? (fun t => t.part == p && t.model == id && t.stamp.isSome) = some x ∧
      b.seqs.all (fun q => !(q.part == p && q.model == id && q.version == x.old && q.ending.isNone)) = true)) := by
  dsimp only
  exact ⟨host_of (by decide +kernel),
    host_of (by decide +kernel),
    host_of (by decide +kernel),
    host_of (by decide +kernel),
    host_of (by decide +kernel),
    unit_of (by decide +kernel)⟩

set_option synthInstance.maxSize 1000 in
/-- States and operands that meet the hypotheses of `LearningCommandsHaveTheirEffect`, clause by clause. -/
theorem witness_LearningCommandsHaveTheirEffect :
  (let m := learnModel; let v := vocab; let qs := [([3], [0xFFFF_FFFF], [0])]; HostMeets learning 0x0905 (req (toLE 2 9 ++ toLE 2 1 ++ toLE 2 1 ++ [1, 0] ++ toLE 4 1 ++ zeros 4 ++ toLE 4 1 ++ toLE 4 3 ++ toLE 4 0xFFFF_FFFF ++ zeros 4))
    (fun c u =>
      let f := fieldAt c.input
      16 ≤ c.input.length ∧ 0 < f 4 2 ∧ f 4 2 ≤ 4096 ∧ 0 < f 8 4 ∧ f 8 4 ≤ 65536 ∧ f 6 1 < 2 ∧ f 7 1 = 0 ∧ f 12 4 = 0 ∧
        learnSeqs (f 4 2) (c.input.drop 16) = some qs ∧ u.modelFor c (f 0 2) (f 2 2) = some (m, v) ∧
        sumNat (qs.map (fun q => q.1.length)) = f 8 4 ∧ qs.all (fun q => q.1.all (u.wordOk v)) = true ∧
        qs.all (fun q => q.2.1.all (fun t => t == 0xFFFF_FFFF || decide (t < v.entries))) = true ∧ m.bwd ≠ [] ∧
        u.hasStateTiles m = true ∧ u.canRun c.hdr.partition c.ctx m = true)) ∧
    (let m := learnModel; HostMeets learning 0x0906 (req (toLE 2 9 ++ toLE 2 0xFFFF ++ [1, 1, 0, 0] ++ toLE 4 1 ++ zeros 28))
    (fun c u =>
      let f := fieldAt c.input
      let p := c.hdr.partition
      c.input.length = 40 ∧ f 8 4 ≠ 0 ∧ f 4 1 < 2 ∧ f 5 1 < 2 ∧ f 6 2 = 0 ∧
        u.model? p (f 0 2) (bindVersion c (f 0 2) (f 2 2)) = some m ∧ u.hasStateTiles m = true ∧ u.canRun p c.ctx m = true ∧
        u.versionUsed p m.id m.version = false)) ∧
    (HostMeets learning 0x0907 (req ([1, 7, 0, 0] ++ toLE 2 2 ++ toLE 2 1 ++ zeros 8 ++ toLE 8 0x7100_0000 ++ toLE 8 512))
    (fun c u =>
      let f := fieldAt c.input
      let p := c.hdr.partition
      shapedAs c 32 [(3, 1)] = true ∧ f 2 1 = 0 ∧ f 0 1 ≤ 1 ∧ (f 1 1 = 4 ∨ f 1 1 = 7) ∧ 2 ≤ f 4 2 ∧ f 4 2 ≤ 4096 ∧
        f 6 2 < f 4 2 ∧ (u.qp? (f 8 4)).map (fun a => a.partition) = some p ∧ (u.qp? (f 12 4)).map (fun a => a.partition) = some p ∧
        (f 8 4 = f 12 4 → f 4 2 = 2) ∧ f 24 8 % 256 = 0 ∧ u.owns p (f 16 8) (max (f 24 8) 1) = true ∧
        u.hitsDir p (f 16 8) (f 24 8) = false ∧
        4096 + 2 * roundUp (ceilDiv (f 24 8) (f 4 2)) 256 ≤ (u.area (NET_COLL_AREA p)).2 ∧ u.qpLive (f 8 4) = true ∧
        u.qpLive (f 12 4) = true)) ∧
    (let id := 0; let k := coll; UnitMeets reducing
    (fun b => b.colls.find? (fun c => c.cmd == id) = some k ∧ k.recv < k.hops ∧ k.recv < b.num (b.collArea k.part) 8)) := by
  dsimp only
  exact ⟨host_of (by decide +kernel),
    host_of (by decide +kernel),
    host_of (by decide +kernel),
    unit_of (by decide +kernel)⟩

def contextSwitch (i : Option Nat) : Switch := ⟨[0], i, 0, some 0⟩

def savedImage : CtxImage := { ctx := 1, addr := 0x7500_0000, bytes := 0x20_0000 }

/-- Partition 0 with a suspended context 1 and an area for images; partition 1 is CONFIGURING. -/
def contexts : State :=
  let s := regs serving [(PRT_SAVE_AREA 0, 0x7400_0000 + 2 ^ 48), (PRT_CTX_CFG 0 1, 2 * 2 ^ 48), (PRT_PART_CTRL 1, 2 ^ 4)]
  { s with parts := modifyAt s.parts 0 (fun p => { p with assign := { p.assign with rt := true }, images := [savedImage],
                                                          plans := [⟨0, 9, 1, 0, 1, 1, 0, 0, 0, []⟩] }) }

def overlapping : State := regs contexts [(PRT_PCH 1 0, 1)]

/-- Partition 1 with eight suspended contexts and a resident context 9 that holds what context 0 would get. -/
def crowded : State :=
  let s := regs contexts ((PRT_CTX_CFG 1 9, 2 ^ 48) :: (List.range 8).map (fun c => (PRT_CTX_CFG 1 (c + 1), 2 * 2 ^ 48)))
  { s with parts := modifyAt s.parts 1 (fun p => { p with assign := { p.assign with
      ways := 2, lathes := 2, shares := [(2, 2)] ++ List.replicate 8 (0, 0) ++ [(2, 2)] } }) }

def switching (i : Option Nat) : State :=
  { contexts with parts := modifyAt contexts.parts 0 (fun p => { p with switch := some (contextSwitch i) })
                  cmds := [{ hdr := { opcode := 0x0A01 } }], now := 2 ^ 40 }

def lockedDown : State := { up with sec := { up.sec with cfg := { up.sec.cfg with locked := 1 } } }

/-- States and operands that meet the hypotheses of `PartitionRequestsHaveTheirEffect`, clause by clause. -/
theorem witness_PartitionRequestsHaveTheirEffect :
  let gone (b : State) (p : Nat) : State := b.endTears p (fun _ => true)
  let ended (b : State) (p : Nat) : Bool := (gone b p).zeroFits p
  (let src := Plane.firmware; let p := 2; UnitMeets contexts
    (fun b => b.prtOpen src p = true ∧ b.partState p = 0)) ∧
    (let src := Plane.management; let p := 1; UnitMeets contexts
    (fun b => ended b p = true ∧ (gone b p).prtOpen src p = true ∧ (gone b p).partState p = 1)) ∧
    (let src := Plane.management; let p := 1; UnitMeets crowded
    (fun b => ended b p = false)) ∧
    (let src := Plane.management; let p := 1; UnitMeets contexts
    (fun b => b.prtOpen src p = true ∧ b.partState p = 1 ∧ b.qps.all (fun q => q.partition != p) = true)) ∧
    (let src := Plane.management; let p := 1; UnitMeets { contexts with qps := contexts.qps ++ [{ partition := 1 }] }
    (fun b => b.prtOpen src p = true ∧ b.partState p = 1 ∧ b.qps.any (fun q => q.partition == p) = true)) ∧
    (let src := Plane.management; let p := 1; UnitMeets contexts
    (fun b => b.prtOpen src p = true ∧ (b.partState p = 1 ∨ b.partState p = 2) ∧ b.assignErr p (b.prtAssign p) = 0)) ∧
    (let src := Plane.management; let p := 2; UnitMeets contexts
    (fun b => b.prtOpen src p = true ∧ b.partState p = 0 ∧ b.assignErr p (b.prtAssign p) = 0)) ∧
    (let src := Plane.management; let p := 1; let e := 0; UnitMeets overlapping
    (fun b => b.prtOpen src p = true ∧ b.assignErr p (b.prtAssign p) = e + 1)) ∧
    (let src := Plane.management; let p := 0; UnitMeets contexts
    (fun b => b.prtOpen src p = true ∧ b.partState p = 2)) ∧
    (let p := 0; UnitMeets lockedDown
    (fun b => b.sec.cfg.locked.testBit p = true)) := by
  dsimp only
  exact ⟨unit_of (by decide +kernel),
    unit_of (by decide +kernel),
    unit_of (by decide +kernel),
    unit_of (by decide +kernel),
    unit_of (by decide +kernel),
    unit_of (by decide +kernel),
    unit_of (by decide +kernel),
    unit_of (by decide +kernel),
    unit_of (by decide +kernel),
    unit_of (by decide +kernel)⟩

/-- States and operands that meet the hypotheses of `ContextCommandsHaveTheirEffect`, clause by clause. -/
theorem witness_ContextCommandsHaveTheirEffect :
  let saved (b : State) (p : Nat) (w : Switch) : State :=
    w.out.foldl (fun s c => s.saveContext p c) ((b.settleLathes p).endTears p (fun t => !t.held))
  (HostMeets contexts 0x0A00 (req (zeros 8))
    (fun c _ => shapedAs c 8 [(0, 8)] = true)) ∧
    (HostMeets contexts 0x0A01 (req (zeros 8))
    (fun c u =>
      let p := c.hdr.partition
      let o := fieldAt c.input 0 1
      shapedAs c 8 [(1, 7)] = true ∧ o < 16 ∧ u.ctxState p o = 1 ∧ u.switchTooLong p = false ∧
        (u.suspended p).length + 1 ≤ 8 ∧ u.imagesFit p [o] = true ∧ u.switchBusy p = false)) ∧
    (HostMeets contexts 0x0A02 (req ([1] ++ zeros 7))
    (fun c u =>
      let p := c.hdr.partition
      let i := fieldAt c.input 0 1
      let out := bitsOf 16 (fieldAt c.input 2 2)
      shapedAs c 8 [(1, 1), (4, 4)] = true ∧ i < 16 ∧ u.ctxState p i = 2 ∧
        out.all (fun d => decide (d < 16) && u.ctxState p d == 1) = true ∧
        ((List.range 16).filter (fun d => u.ctxState p d == 1 && !out.contains d)).all (fun d =>
          !shareMeet (u.share p i) (u.share p d)) = true ∧
        u.switchTooLong p = false ∧ (u.suspended p).length + out.length ≤ 9 ∧ u.imagesFit p out = true ∧ u.switchBusy p = false)) ∧
    (let p := 0; let w := contextSwitch none; let q := 0; UnitMeets (switching none)
    (fun b => (b.part p).switch = some w ∧ w.quiesce = some q ∧ q + b.fld (PRT_SWITCH_CFG p) 6 0 * 1000 ≤ b.now)) ∧
    (let p := 0; let w := contextSwitch none; UnitMeets (switching none)
    (fun b => ((b.settleLathes p).part p).switch = some w ∧ w.quiesce.isSome = true ∧ (b.settleLathes p).quiesced p w.out = true ∧
      w.incoming = none)) ∧
    (let p := 0; let w := contextSwitch (some 1); let i := 1; let im := savedImage; UnitMeets (switching (some 1))
    (fun b => ((b.settleLathes p).part p).switch = some w ∧ w.quiesce.isSome = true ∧ (b.settleLathes p).quiesced p w.out = true ∧
      w.incoming = some i ∧ (saved b p w).image? p i = some im ∧ (saved b p w).isUe im.addr im.bytes = false)) ∧
    (let src := Plane.management; let p := 0; let c := 1; UnitMeets contexts
    (fun b => b.prtOpen src p = true ∧ (b.ctxState p c = 1 ∨ b.ctxState p c = 2 ∨ b.ctxState p c = 3))) ∧
    (let m := model; HostMeets contexts 0x0A03 (req (toLE 2 9 ++ toLE 2 1 ++ zeros 4 ++ toLE 4 1 ++ toLE 4 1 ++ toLE 4 0 ++ toLE 4 1 ++ toLE 8 1000000000 ++ zeros 32))
    (fun c u =>
      let p := c.hdr.partition
      let k := parsePlan c.input
      c.input.length = 32 + 32 * fieldAt c.input 20 4 ∧ zerosAt c.input 7 1 = true ∧ fieldAt c.input 5 1 = 0 ∧
        (List.range (fieldAt c.input 20 4)).all (fun i => zerosAt c.input (44 + 32 * i) 4) = true ∧
        (u.part p).assign.rt = true ∧ u.model? p k.model k.version = some m ∧ u.planOk p k m = true)) ∧
    (HostMeets contexts 0x0A03 (req (zeros 5 ++ [1] ++ zeros 26))
    (fun c u =>
      c.input.length = 32 + 32 * fieldAt c.input 20 4 ∧ zerosAt c.input 7 1 = true ∧ fieldAt c.input 5 1 = 1 ∧
        (List.range (fieldAt c.input 20 4)).all (fun i => zerosAt c.input (44 + 32 * i) 4) = true ∧
        (u.part c.hdr.partition).assign.rt = true ∧ fieldAt c.input 6 1 < 8 ∧
        (u.part c.hdr.partition).plans.any (fun x => x.slot == fieldAt c.input 6 1) = true)) := by
  dsimp only
  exact ⟨host_of (by decide +kernel),
    host_of (by decide +kernel),
    host_of (by decide +kernel),
    unit_of (by decide +kernel),
    unit_of (by decide +kernel),
    unit_of (by decide +kernel),
    unit_of (by decide +kernel),
    host_of (by decide +kernel),
    host_of (by decide +kernel)⟩

/-- An image that names mailbox versions 1.0 to 1.2. -/
def image (v : Nat) : List Byte :=
  toLE 4 0x574E_444A ++ toLE 2 0x0100 ++ zeros 2 ++ toLE 8 v ++ zeros 4 ++ toLE 2 1 ++ toLE 2 1 ++ [1, 0, 1, 2] ++ zeros 36 ++ zeros 2420

def running : FwImage := { version := 5, journalW := 1, journalR := 1, mbLo := 0x100, mbHi := 0x102, feats := 0xFFFF }

def staged : FwImage := { version := 7, journalW := 1, journalR := 1, mbLo := 0x100, mbHi := 0x102, feats := 0xFFFF }

/-- The firmware runs, partition 0 is its administrator, and an activation of the staged image waits for the state NORMAL. -/
def firmware : State :=
  { regs up [(WDN_ADMIN, 1), (ICU_CTRL, 1), (ICU_SRC 40, 2 ^ 8 + 1 + 2), (ICU_SRC 41, 2 ^ 20 + 2 ^ 8 + 1), (ICU_GROUP 0, 2 ^ 40)] with
    fw := { up.fw with running := some running, staged := some staged, act := 2, hold := some 0, runSince := some 0 }
    icu := { service := [(50, 3)], windows := [⟨4, 0, 5, 1000⟩] }
    now := 2 ^ 42 }

def activating (done : List Nat) : State :=
  { firmware with fw := { firmware.fw with act := 3, activation := some { done := done } } }

/-- Cluster 1 has no core in service. -/
def coreless : State :=
  { firmware with fw := { firmware.fw with act := 3, activation := some {}
                                           cores := firmware.fw.cores.map (fun k => if k.logical / 4 == 1 then { k with logical := 255 } else k) } }

/-- The update registers name no range of memory. -/
def unlisted : State := regs firmware [(WDN_UPDATE_LEN, 64)]

/-- A command of the session opcodes waits in the firmware work queue, and core 6 has crashed. -/
def queued : State :=
  { firmware with fw := { firmware.fw with work := [0], cores := modifyAt firmware.fw.cores 6 (fun k => { k with state := 2 }) }
                  cmds := [{ hdr := { opcode := 0x0103 }, phase := .waiting }] }

/-- The same, where no image copy holds what the image should be. -/
def unreadable : State :=
  { regs queued [(WDN_LOG_BASE, 0x00F1_0200_0000)] with fw := { queued.fw with running := some { running with bytes := [1] } } }

/-- A mailbox message of version 1.2. -/
def message (id : Nat) (body : List Byte) : List Byte := toLE 2 id ++ [1, 2] ++ toLE 4 body.length ++ zeros 8 ++ body

set_option maxRecDepth 200000 in
/-- States and operands that meet the hypotheses of `MailboxMessagesHaveTheirEffect`, clause by clause. -/
theorem witness_MailboxMessagesHaveTheirEffect :
  (HostMeets firmware 0x0B00 (req ([1, 0, 1, 2] ++ zeros 28))
    (fun c u =>
      let f := fieldAt c.input
      let img := u.fw.running.getD {}
      shapedAs c 32 [(4, 4), (24, 8)] = true ∧
        max (f 0 1 * 256 + f 1 1) img.mbLo ≤ min (f 2 1 * 256 + f 3 1) img.mbHi)) ∧
    (HostMeets firmware 0x0B01 (req (message 1 []))
    (fun c u => mailboxTakes c u 1 0x100 false = true ∧ fieldAt c.input 4 4 = 0 ∧ c.input.length = 16)) ∧
    (let i := (parseImage (image 9)).get!; HostMeets firmware 0x0B01 (req (toLE 2 2 ++ [1, 2] ++ toLE 4 16 ++ zeros 8 ++ zeros 8 ++ toLE 8 2484 ++ image 9))
    (fun c u => mailboxTakes c u 2 0x100 true = true ∧ fieldAt c.input 4 4 = 16 ∧ fieldAt c.input 16 8 = 0 ∧
      c.input.length = 32 + fieldAt c.input 24 8 ∧ parseImage (c.input.drop 32) = some i ∧
      i.journalR ≤ (u.fw.running.getD {}).journalW ∧ u.fw.act ≠ 3)) ∧
    (HostMeets firmware 0x0B01 (req (message 3 []))
    (fun c u => mailboxTakes c u 3 0x100 false = true ∧ fieldAt c.input 4 4 = 0 ∧ c.input.length = 16)) ∧
    (HostMeets firmware 0x0B01 (req (message 4 (zeros 32)))
    (fun c u => mailboxTakes c u 4 0x101 true = true ∧ fieldAt c.input 4 4 = 32 ∧ c.input.length = 48)) ∧
    (HostMeets firmware 0x0B01 (req (message 5 (zeros 40)))
    (fun c u => mailboxTakes c u 5 0x101 false = true ∧ 1 ≤ fieldAt c.input 4 4 ∧ fieldAt c.input 4 4 ≤ 40 ∧
      c.input.length = 16 + fieldAt c.input 4 4)) ∧
    (HostMeets firmware 0x0B01 (req (message 6 []))
    (fun c u => mailboxTakes c u 6 0x102 true = true ∧ fieldAt c.input 4 4 = 0 ∧ c.input.length = 16 ∧ u.fw.act = 2)) ∧
    (HostMeets firmware 0x0D03 (req (toLE 8 0 ++ toLE 4 16384 ++ zeros 4))
    (fun c _ => shapedAs c 16 [(12, 4)] = true ∧ 0 < fieldAt c.input 8 4 ∧ fieldAt c.input 8 4 ≤ 16384)) := by
  dsimp only
  exact ⟨host_of (by decide +kernel),
    host_of (by decide +kernel),
    host_of (by decide +kernel),
    host_of (by decide +kernel),
    host_of (by decide +kernel),
    host_of (by decide +kernel),
    host_of (by decide +kernel),
    host_of (by decide +kernel)⟩

/-- States and operands that meet the hypotheses of `FirmwareImagesAreActivated`, clause by clause. -/
theorem witness_FirmwareImagesAreActivated :
  (let i := staged; HostMeets firmware 0x0B02 (req (toLE 8 7 ++ zeros 8))
    (fun c u => shapedAs c 16 [(9, 7)] = true ∧ fieldAt c.input 8 1 = 0 ∧ u.admin c.hdr.partition = true ∧
      u.fw.staged = some i ∧ i.version = fieldAt c.input 0 8 ∧ u.fw.act ≠ 3)) ∧
    (let t0 := 0; let i := staged; UnitMeets firmware
    (fun b => b.fw.hold = some t0 ∧ b.fw.act = 2 ∧ t0 + 1_000_000_000 ≤ b.now ∧ b.fw.staged = some i)) ∧
    (let k := 1; let a := ({} : Activation); UnitMeets (activating [])
    (fun b => b.fw.activation = some a ∧ a.next = some k ∧ a.pending = none ∧ b.drainOver a k = true ∧
      ((b.restartCluster k).clusterCores k).any (fun c => ((b.restartCluster k).core c).state == 2) = true)) ∧
    (let k := 1; let a := ({} : Activation); let j := 2; UnitMeets coreless
    (fun b => b.fw.activation = some a ∧ a.next = some k ∧ a.pending = none ∧ b.drainOver a k = true ∧ b.clusterCores k = [] ∧
      ({ a with done := a.done ++ [k], pending := none, started := b.now } : Activation).next = some j)) ∧
    (let k := 1; let a := ({ pending := some (1, 0) } : Activation); let t0 := 0; UnitMeets { firmware with fw := { firmware.fw with act := 3, activation := some a } }
    (fun b => b.fw.activation = some a ∧ a.pending = some (k, t0) ∧ t0 + 100_000_000 ≤ b.now)) ∧
    (let i := running; let t0 := 0; UnitMeets firmware
    (fun b => b.fw.running = some i ∧ b.fw.runSince = some t0 ∧ t0 + 3_600_000_000_000 ≤ b.now)) ∧
    (let v := 0x1000#64; UnitMeets firmware
    (fun _ => v.getLsbD 63 = false)) ∧
    (let v := 0x8000_0000_0000_1000#64; UnitMeets firmware
    (fun b =>
      let s0 := b.setFld WDN_UPDATE 47 0 (v.toNat % 2 ^ 48)
      v.getLsbD 63 = true ∧ s0.listed (v.toNat % 2 ^ 48) (s0.fld WDN_UPDATE_LEN 24 0) = true ∧ s0.isUe (v.toNat % 2 ^ 48) (s0.fld WDN_UPDATE_LEN 24 0) = false)) ∧
    (let v := 0x8000_7FFF_0000_0000#64; UnitMeets unlisted
    (fun b =>
      let s0 := b.setFld WDN_UPDATE 47 0 (v.toNat % 2 ^ 48)
      v.getLsbD 63 = true ∧ s0.fld WDN_UPDATE_LEN 24 0 ≠ 0 ∧
        s0.listed (v.toNat % 2 ^ 48) (s0.fld WDN_UPDATE_LEN 24 0) = false)) := by
  dsimp only
  exact ⟨host_of (by decide +kernel),
    unit_of (by decide +kernel),
    unit_of (by decide +kernel),
    unit_of (by decide +kernel),
    unit_of (by decide +kernel),
    unit_of (by decide +kernel),
    unit_of (by decide +kernel),
    unit_of (by decide +kernel),
    unit_of (by decide +kernel)⟩

/-- States and operands that meet the hypotheses of `CoresAndInterruptsHaveTheirEffect`, clause by clause. -/
theorem witness_CoresAndInterruptsHaveTheirEffect :
  (let core := 5; let c := ({ hdr := { opcode := 0x0103 }, phase := .waiting } : Cmd); UnitMeets queued
    (fun b =>
      let k := (b.core core).logical / 4
      (b.roleCores k).contains core = true ∧ b.nextWork k = some c ∧ b.takes k c.input.length = true ∧
        (c.hdr.deadline = 0 ∨ b.now < c.hdr.deadline ∨ c.hdr.opcode = 0x0101))) ∧
    (let core := 0; UnitMeets queued
    (fun b => (b.core core).state = 1 ∧ (b.core core).lastKick + 50_000_000 ≤ b.now)) ∧
    (let core := 0; UnitMeets queued
    (fun b => (b.core core).state = 1)) ∧
    (let core := 6; UnitMeets queued
    (fun b => (b.core core).state = 2 ∧ b.reloads core = true)) ∧
    (let core := 6; UnitMeets unreadable
    (fun b => (b.core core).state = 2 ∧ b.reloads core = false)) ∧
    (let core := 0; UnitMeets queued
    (fun b => (b.core core).state = 1)) ∧
    (UnitMeets queued
    (fun _ => True)) ∧
    (let g := 4; let w := (⟨4, 0, 5, 1000⟩ : IcuWindow); UnitMeets queued
    (fun b => b.icu.windows.find? (fun w => w.group == g) = some w ∧ w.start + w.time ≤ b.now)) ∧
    (let core := 0; let n := 40; UnitMeets queued
    (fun b => rotate (b.icu.pointers core).1 (b.deliverables core true) = some n)) ∧
    (let core := 1; let n := 41; UnitMeets queued
    (fun b => b.deliverables core true = [] ∧ rotate (b.icu.pointers core).2 (b.deliverables core false) = some n)) ∧
    (let core := 2; UnitMeets queued
    (fun b => b.deliverables core true = [] ∧ b.deliverables core false = [])) ∧
    (let core := 3; let n := 50; UnitMeets queued
    (fun b => b.icu.service.contains (n, core) = true)) ∧
    (let core := 3; let n := 51; UnitMeets queued
    (fun b => b.icu.service.contains (n, core) = false)) ∧
    (UnitMeets queued
    (fun _ => True)) ∧
    (UnitMeets queued
    (fun _ => True)) := by
  dsimp only
  exact ⟨unit_of (by decide +kernel),
    unit_of (by decide +kernel),
    unit_of (by decide +kernel),
    unit_of (by decide +kernel),
    unit_of (by decide +kernel),
    unit_of (by decide +kernel),
    unit_of (by decide +kernel),
    unit_of (by decide +kernel),
    unit_of (by decide +kernel),
    unit_of (by decide +kernel),
    unit_of (by decide +kernel),
    unit_of (by decide +kernel),
    unit_of (by decide +kernel),
    unit_of (by decide +kernel),
    unit_of (by decide +kernel)⟩

/-- The module is owned: two owner keys are loaded, and presence and seal were sampled good. -/
def owned : State :=
  { regs up [(SEC_STATUS, 1)] with
    sec := { loaded := true, cfg := { keys := [(0, [0]), (1, [1])] }, pres := [(0, true)], sealOk := [(0, true)] } }

/-- A proposal that keeps the two owners. -/
def proposal : List Byte := toLE 4 0x5050_4A4D ++ zeros 4 ++ toLE 8 1 ++ zeros 16 ++ [0, 0, 0, 3] ++ zeros 52

def proposed : State := { owned with sec := { owned.sec with pending := some ⟨0, proposal, 0⟩ } }

def cosign : Req := req ([1] ++ zeros 7 ++ sha3 proposal ++ zeros 2420)

theorem host_of_input {s : State} {op : Nat} {r : Req} {P : Cmd → State → Prop} {Q : List Byte → Prop} (h : HostMeets s op r P)
    (hq : Q (payOf r)) : HostMeets s op r (fun c u => P c u ∧ Q c.input) := by
  obtain ⟨ha, c, u, hb, hp⟩ := h
  refine ⟨ha, c, u, hb, hp, ?_⟩
  have hc : c.input = payOf r := by
    simp only [State.begins, Option.bind_eq_some_iff] at hb
    obtain ⟨q, -, hb⟩ := hb
    split at hb
    · simp only [Option.map_eq_some_iff, Prod.mk.injEq] at hb
      obtain ⟨_, -, rfl, -⟩ := hb
      rfl
    · exact absurd hb (by simp)
  rw [hc]; exact hq

set_option maxRecDepth 200000 in
/-- States and operands that meet the hypotheses of `SecurityCommandsHaveTheirEffect`, clause by clause. -/
theorem witness_SecurityCommandsHaveTheirEffect :
  (HostMeets up 0x0C00 (req (zeros 32 ++ [1] ++ zeros 7))
    (fun c _ => shapedAs c 40 [(33, 7)] = true ∧ fieldAt c.input 32 1 < 2)) ∧
    (HostMeets up 0x0C01 (req (zeros 4 ++ toLE 4 4 ++ zeros 8))
    (fun c _ => shapedAs c 16 [(8, 8)] = true ∧ 0 < fieldAt c.input 4 4 ∧ fieldAt c.input 4 4 ≤ 4096)) ∧
    (HostMeets { up with sec := { up.sec with pres := [(0, true)] } } 0x0C02 (req (zeros 1312 ++ [1] ++ zeros 1311 ++ zeros 40))
    (fun c u => shapedAs c 2664 [(2656, 8)] = true ∧ u.owned = false ∧ u.presAt c.intake = true ∧
      slice c.input 0 1312 ≠ slice c.input 1312 1312)) ∧
    (let key := ([0] : List Byte); HostMeets owned 0x0C03 (req (zeros 4 ++ toLE 4 88 ++ proposal ++ zeros 2420))
    (fun c u =>
      let bs := slice c.input 8 (fieldAt c.input 4 4)
      u.sec.pending = none ∧ u.pendingAt c.intake = none ∧ u.owned = true ∧ u.presAt c.intake = true ∧ u.sealAt c.intake = true ∧
        zerosAt c.input 1 3 = true ∧ c.input.length = 8 + fieldAt c.input 4 4 + 2420 ∧ (parseProposal bs).ok bs u = true ∧
        u.ownerKey (fieldAt c.input 0 1) = some key)) ∧
    (let x := (⟨0, proposal, 0⟩ : Proposal); let key := ([1] : List Byte); HostMeets proposed 0x0C04 cosign
    (fun c u => (shapedAs c 2460 [(1, 7)] = true ∧ u.sec.pending = some x ∧ u.now < x.t1 + 600_000_000_000 ∧ c.intake ≤ u.now ∧
      u.owned = true ∧ u.presAt c.intake = true ∧ u.sealAt c.intake = true ∧
      u.ownerKey (fieldAt c.input 0 1) = some key ∧ fieldAt c.input 0 1 ≠ x.slot) ∧ slice c.input 8 32 = sha3 x.bytes)) ∧
    (let x := (⟨0, proposal, 0⟩ : Proposal); UnitMeets { proposed with now := 600_000_000_000 }
    (fun b => b.sec.pending = some x ∧ x.t1 + 600_000_000_000 ≤ b.now)) ∧
    (PowerMeets up
    (fun _ => True)) ∧
    (PowerMeets owned
    (fun b => b.sealAt b.now = true)) ∧
    (PowerMeets up
    (fun b => b.sealAt b.now = false)) := by
  dsimp only
  exact ⟨host_of (by decide +kernel),
    host_of (by decide +kernel),
    host_of (by decide +kernel),
    host_of (by decide +kernel),
    by refine host_of_input (Q := fun i => slice i 8 32 = sha3 proposal) ?_ ?_; exact host_of (by decide +kernel); rfl,
    unit_of (by decide +kernel),
    power_of (by decide +kernel),
    power_of (by decide +kernel),
    power_of (by decide +kernel)⟩

/-- A fragment with eight payload bytes. -/
def fragment (flags : BitVec 8) : Req := ⟨0, 0x10#8, flags, 0#16, 0, 0, 0, 8, 7, 0, 40, [], zeros 8⟩

/-- The first fragment of a command of 24 bytes. -/
def firstFragment : Req :=
  ⟨0, 0x10#8, 2#8, 0#16, 0, 0, 8, 8, 7, 0, 48, toLE 2 6 ++ toLE 2 4 ++ toLE 4 24, zeros 8⟩

def assembly (n : Nat) : Assembly := { opcode := 0x0D00, first := firstFragment, total := 24, bytes := zeros n }

def firstQp : Qp := up.qps.headD default

def assembling (n : Nat) : Qp := { firstQp with assembly := some (assembly n) }

def receiving (n : Nat) : State := { up with qps := [assembling n] }

/-- A fetch of a passage of command 3 awaits its reply. -/
def awaited : Issued := { qp := 0, tag := 7, cmd := 3, opcode := 0x0302, entry := 0 }

def awaiting : State := { up with issued := [awaited] }

/-- A command with a phase. -/
def waitingCmd (p : Phase) : Cmd := { hdr := { opcode := 0x0600 }, phase := p, refs := [⟨0x1000, 1, 64⟩], issued := 1 }

/-- A command whose deadline has come. -/
def lateCmd : Cmd := { hdr := { opcode := 0x0600, deadline := 10 } }

def late : State := { up with cmds := [lateCmd], cmdSeq := 1 }

def waitingFor (p : Phase) : State := { up with cmds := [waitingCmd p], cmdSeq := 1 }

/-- A telemetry stream whose window is over. -/
def telem : Telem :=
  { handle := 1, cmd := 0, stream := { kind := 2, window := some (0, 1, 10) }, period := 100000, first := 0, count := 2, start := 0
    acc := [(1, 2, 3, 4), (5, 6, 7, 8)] }

/-- Partition 0 is administrator and telemetry runs. -/
def measured : State :=
  { regs up [(WDN_ADMIN, 1), (QTL_CTRL, 1)] with telems := [telem], now := 2 ^ 30 }

def dueSeq : Seq := { seq with stream := { window := some (0, 1, 10) } }

def dueSeqs : State := { generating with seqs := [dueSeq], now := 2 ^ 30 }

/-- States and operands that meet the hypotheses of `PacketsHaveTheirEffect`, clause by clause. -/
theorem witness_PacketsHaveTheirEffect :
  (let qp := 0; let bytes := zeros 8; UnitMeets up
    (fun b => b.qpLive qp = true ∧ bytes.length ≤ 1052704 ∧ (bytes.length < 32 ∨ fieldAt bytes 0 2 ≠ 0x5A46))) ∧
    (let qp := 0; let bytes := zeros 32; UnitMeets up
    (fun b => b.qpLive qp = true ∧ bytes.length ≤ 1052704 ∧ (bytes.length < 32 ∨ fieldAt bytes 0 2 ≠ 0x5A46))) ∧
    (let qp := 0; let bytes := zeros 1052705; UnitMeets up
    (fun b => b.qpLive qp = true ∧ 1052704 < bytes.length)) ∧
    (let r := (⟨0, 0x10#8, 1#8, 0#16, 0, 0, 0, 8, 9, 0, 40, [], zeros 8⟩ : Req); let q := firstQp; UnitMeets awaiting
    (fun b => b.qp? r.qp = some q ∧ q.error = false ∧ wholeReply r = true ∧
      b.issued.find? (fun x => x.qp == r.qp && x.tag == r.tag) = none)) ∧
    (let r := fragment 1#8; let q := firstQp; let x := awaited; UnitMeets awaiting
    (fun b => b.qp? r.qp = some q ∧ q.error = false ∧ wholeReply r = true ∧ hasMore r = false ∧
      b.issued.find? (fun x => x.qp == r.qp && x.tag == r.tag) = some x)) ∧
    (let op := 0x0D00; let r := firstFragment; let q := firstQp; let items := [(⟨6, toLE 4 24⟩ : Item)]; UnitMeets up
    (fun b => b.qp? r.qp = some q ∧ hasMore r = true ∧ requestPacket r = true ∧
      q.hears r = true ∧ (b.listen r.qp).intakeRefusal q op r = none ∧ parseItems 513 (extOf r) = some items)) ∧
    (let op := 0x0D00; let r := fragment 2#8; let q := assembling 8; let a := assembly 8; UnitMeets (receiving 8)
    (fun b => b.qp? r.qp = some q ∧ requestPacket r = true ∧ q.error = false ∧
      q.discard ≠ some r.tag ∧ q.assembly = some a ∧ a.first.tag = r.tag ∧ a.breaks op r = false ∧
      a.bytes.length + r.payLen ≤ a.total ∧ hasMore r = true)) ∧
    (let op := 0x0D00; let r := fragment 0#8; let q := assembling 16; let a := assembly 16; UnitMeets (receiving 16)
    (fun b => b.qp? r.qp = some q ∧ requestPacket r = true ∧ q.error = false ∧
      q.discard ≠ some r.tag ∧ q.assembly = some a ∧ a.first.tag = r.tag ∧ a.breaks op r = false ∧
      a.bytes.length + r.payLen = a.total ∧ hasMore r = false)) ∧
    (let op := 0x0FFF; let r := fragment 0#8; let q := firstQp; UnitMeets up
    (fun b => b.qp? r.qp = some q ∧ wholeRequest r = true ∧ q.hears r = true ∧ r.version = 0x10#8 ∧
      lengthRefusal r (itemsBefore 513 (extOf r)) = none ∧ r.flags.toNat / 16 = 0 ∧ r.status = 0 ∧ r.partition = q.partition ∧
      r.svc < 2 ∧ q.admits op = true ∧ opcodeKnown op = false)) := by
  dsimp only
  exact ⟨unit_of (by decide +kernel),
    unit_of (by decide +kernel),
    ⟨by decide +kernel, by decide +kernel, by unfold zeros; rw [List.length_replicate]; omega⟩,
    unit_of (by decide +kernel),
    unit_of (by decide +kernel),
    unit_of (by decide +kernel),
    unit_of (by decide +kernel),
    unit_of (by decide +kernel),
    unit_of (by decide +kernel)⟩

/-- States and operands that meet the hypotheses of `WaitingCommandsGoOn`, clause by clause. -/
theorem witness_WaitingCommandsGoOn :
  (let id := 0; let c := waitingCmd .fetching; let r := (⟨0x1000, 1, 64⟩ : Ref); let rest := ([] : List Ref); UnitMeets (waitingFor .fetching)
    (fun b => b.cmd? id = some c ∧ c.phase = .fetching ∧ 0 < c.issued ∧ c.refs = r :: rest)) ∧
    (let id := 0; let c := waitingCmd .fetching; UnitMeets (waitingFor .fetching)
    (fun b => b.cmd? id = some c ∧ c.phase = .fetching ∧ 0 < c.issued)) ∧
    (let id := 0; let c := waitingCmd .fenced; UnitMeets (waitingFor .fenced)
    (fun b => b.cmd? id = some c ∧ c.phase = .fenced ∧
      (b.outstanding c.hdr.qp).all (fun d => decide (c.id ≤ d.id)) = true ∧ b.mustWait c = false ∧ slowPath c.hdr.opcode = false)) ∧
    (let h := dueSeq.handle; let q := dueSeq; UnitMeets dueSeqs
    (fun b => b.seqByHandle h = some q ∧ b.streamDue q.stream = true ∧ q.ending = none)) ∧
    (let h := 1; let x := telem; UnitMeets measured
    (fun b => b.telems.find? (fun x => x.handle == h) = some x ∧ b.streamDue x.stream = true)) ∧
    (late.acts 100 = true ∧ late.turnOf 100 = none ∧ (let b := late.arrived 100; let c := lateCmd
    b.searches.all (fun q => q.ended.isSome || q.deadline.all (fun d => decide (b.now < d))) = true ∧
    b.cmds.filter (fun d => d.hdr.deadline != 0 && decide (d.hdr.deadline ≤ b.now)) = [c] ∧ b.cmd? c.id = some c ∧ slowPath c.hdr.opcode = false ∧
    replyForm c.hdr.opcode ≠ 3 ∧ modifies c.hdr.opcode = false ∧ [0x0200, 0x0202, 0x0907].contains c.hdr.opcode = false)) := by
  dsimp only
  exact ⟨unit_of (by decide +kernel),
    unit_of (by decide +kernel),
    unit_of (by decide +kernel),
    unit_of (by decide +kernel),
    unit_of (by decide +kernel),
    by decide +kernel⟩

/-- States and operands that meet the hypotheses of `TelemetryCommandsHaveTheirEffect`, clause by clause. -/
theorem witness_TelemetryCommandsHaveTheirEffect :
  (HostMeets measured 0x0D00 (req ([0, 72, 1] ++ zeros 5))
    (fun c u => u.admin c.hdr.partition = true ∧ shapedAs c 8 [(3, 5)] = true ∧ fieldAt c.input 2 1 < 2 ∧
      0 < fieldAt c.input 1 1 ∧ fieldAt c.input 0 1 + fieldAt c.input 1 1 ≤ 72)) ∧
    (HostMeets measured 0x0D02 (req (toLE 4 10 ++ [71, 1] ++ zeros 6))
    (fun c u => u.admin c.hdr.partition = true ∧ shapedAs c 12 [(7, 1)] = true ∧ fieldAt c.input 6 1 = 0 ∧
      10 ≤ fieldAt c.input 0 4 ∧ fieldAt c.input 0 4 ≤ 1_000_000 ∧ 0 < fieldAt c.input 5 1 ∧
      fieldAt c.input 4 1 + fieldAt c.input 5 1 ≤ 72 ∧ u.telems.length < 8)) ∧
    (HostMeets measured 0x0D02 (req (toLE 4 0 ++ [0, 0, 1, 0] ++ toLE 4 1))
    (fun c u => u.admin c.hdr.partition = true ∧ shapedAs c 12 [(7, 1)] = true ∧ fieldAt c.input 6 1 = 1 ∧
      u.telems.any (fun x => x.handle == fieldAt c.input 8 4) = true)) ∧
    (UnitMeets { measured with telems := [{ telem with start := 2 ^ 30 }] }
    (fun b => b.bit QTL_CTRL 0 = true ∧ ∀ x ∈ b.telems, b.now < x.start + x.period)) ∧
    (let h := 1; let x := telem; UnitMeets measured
    (fun b => b.telems.find? (fun x => x.handle == h) = some x ∧ x.start + x.period ≤ b.now)) := by
  dsimp only
  exact ⟨host_of (by decide +kernel),
    host_of (by decide +kernel),
    host_of (by decide +kernel),
    unit_of (by decide +kernel),
    unit_of (by decide +kernel)⟩

/-- A descriptor of queue pair `i` on list 0 with key 77, metered or not by meter 1. -/
def descBytes (i metered : Nat) : List Byte :=
  toLE 2 i ++ zeros 5 ++ toLE 1 metered ++ toLE 2 1 ++ [1, 0x11, 1, 1, 0, 0xC0] ++ zeros 12 ++ toLE 4 77 ++ zeros 32

def descWords (i metered : Nat) : List Reg := (List.range 8).map (fun k => BitVec.ofNat 64 (fieldAt (descBytes i metered) (8 * k) 8))

def pair (metered : Nat) : Qp := { desc := descWords 0 metered, rate := 100, session := some { recv := 4096, granted := 16, evCount := 1, evTime := 0 } }

/-- List 0 has link, the management port is open, device time follows link 0, and queue pair 0 has a frame to send. -/
def net : State :=
  { regs up ([(NET_CTRL, 3), (NET_PORT 0, 2 ^ 20 + 1), (BOOT_STATUS, 5), (POL_CFG 1, 2 ^ 5 + 1), (PTP_CTRL, 2 ^ 24 + 15),
      (PTP_STATUS, 2 ^ 40), (PTP_SERVO, 100 * 2 ^ 20 + 100 * 2 ^ 10 + 50), (GATE_CTRL 0, 2 ^ 23 + 2 ^ 33 + 1),
      (GATE_CYCLE 0, 1000 * 2 ^ 32 + 1000), (GATE_ENTRY 0 0, 0xFF * 2 ^ 56 + 1000), (GATE_OPER 0 0, 0xFF * 2 ^ 56 + 1000)] ++
      (descWords 5 0).zipIdx.map (fun e => (NET_QP_DESC e.2, e.1.toNat))) with
    qps := [pair 0], egress := [⟨0, 3, 100, 0, 0, false, 2⟩]
    parts := modifyAt up.parts 0 (fun p => { p with assign := { p.assign with qpLimit := 4, meterCount := 4 } }) }

def netWith (q : Qp) : State := { net with qps := [q] }

def ungated : State := net.setRaw (GATE_CTRL 0) 0

def change : GateChange := ⟨0, 0, 1000, [0#64]⟩

def datagram (words : List Reg) : MgmtDatagram := ⟨zeros 4, 9, 1, 5, 0x0FF0_0000_0000, words, zeros 16⟩

def packet (i : Nat) : RocePacket := ⟨i, true, 1000, 0, true⟩

/-- Device time is held over, and pulses were seen. -/
def heldOver : State :=
  { net.setRaw PTP_STATUS (BitVec.ofNat 64 (3 * 2 ^ 40)) with ptp := { edges := List.replicate 16 5 }, now := 2 ^ 32 }

/-- States and operands that meet the hypotheses of `TransportCommandsHaveTheirEffect`, clause by clause. -/
theorem witness_TransportCommandsHaveTheirEffect :
  (let qp := 0; let rkey := 77; let addr := 0x1000_0000; let data := zeros 32; let q := pair 0; UnitMeets net
    (fun b => b.qp? qp = some q ∧ q.error = false ∧ q.opens rkey = true ∧
      (b.memOpen q.partition q.ctx addr data.length = true ∨ b.collOpen q.partition addr data.length = true))) ∧
    (let qp := 0; let rkey := 77; let addr := 0x1000_0000; let len := 32; let q := pair 0; UnitMeets net
    (fun b => b.qp? qp = some q ∧ q.error = false ∧ q.opens rkey = true ∧ b.memOpen q.partition q.ctx addr len = true ∧
      b.isUe addr len = false)) ∧
    (let qp := 0; let rkey := 78; let addr := 0x1000_0000; let data := zeros 32; let q := pair 0; UnitMeets net
    (fun b => b.qp? qp = some q ∧ q.error = false ∧ q.opens rkey = false)) ∧
    (let k := packet 0; let q := pair 0; UnitMeets net
    (fun b => b.qp? k.qp = some q ∧ q.field 7 1 ≠ 1 ∧ q.error = false ∧ k.supported = true)) ∧
    (let k := packet 0; let q := pair 1; UnitMeets (netWith (pair 1))
    (fun b => b.qp? k.qp = some q ∧ q.field 7 1 = 1 ∧ (b.metered (q.field 8 2) k.len k.dscp).2 = none)) ∧
    (let qp := 0; let timer := 7; let q := pair 0; UnitMeets net
    (fun b => b.qp? qp = some q ∧ q.error = false ∧
      (q.field 11 1 / 16 % 8 = 7 ∨ q.rnrTries < q.field 11 1 / 16 % 8))) ∧
    (let qp := 0; let till := 7; UnitMeets (netWith { pair 0 with rnrUntil := some 7 })
    (fun b => (b.qp? qp).bind (fun q => q.rnrUntil) = some till ∧ till ≤ b.now)) ∧
    (UnitMeets net
    (fun _ => True)) ∧
    (let qp := 0; let q := pair 0; UnitMeets net
    (fun b => b.qp? qp = some q ∧ q.error = false ∧ q.retries < q.field 11 1 % 8)) ∧
    (let qp := 0; let q := { pair 0 with retries := 1 }; UnitMeets (netWith { pair 0 with retries := 1 })
    (fun b => b.qp? qp = some q ∧ q.error = false ∧ q.field 11 1 % 8 ≤ q.retries)) ∧
    (UnitMeets net
    (fun _ => True)) ∧
    (UnitMeets net
    (fun _ => True)) ∧
    (UnitMeets net
    (fun b =>
      let f := descField b.qpDesc
      let p := f 2 1 % 16
      b.qp? (f 0 2) = none ∧ descOk b.qpDesc = true ∧ (b.partState p = 1 ∨ b.partState p = 2) ∧
        (b.qpsOf p).length < (b.part p).assign.qpLimit ∧ b.ctxState p (f 2 1 / 16) ≠ 0 ∧
        (f 7 1 = 1 → (b.part p).assign.meterFirst ≤ f 8 2 ∧
          f 8 2 < (b.part p).assign.meterFirst + (b.part p).assign.meterCount))) ∧
    (let q := { pair 0 with index := 5 }; UnitMeets (netWith { pair 0 with index := 5 })
    (fun b => b.qp? (descField b.qpDesc 0 2) = some q)) ∧
    (let q := { pair 0 with index := 5 }; UnitMeets (netWith { pair 0 with index := 5 })
    (fun b => b.qp? (descField b.qpDesc 0 2) = some q)) := by
  dsimp only
  exact ⟨unit_of (by decide +kernel),
    unit_of (by decide +kernel),
    unit_of (by decide +kernel),
    unit_of (by decide +kernel),
    unit_of (by decide +kernel),
    unit_of (by decide +kernel),
    unit_of (by decide +kernel),
    unit_of (by decide +kernel),
    unit_of (by decide +kernel),
    unit_of (by decide +kernel),
    unit_of (by decide +kernel),
    unit_of (by decide +kernel),
    unit_of (by decide +kernel),
    unit_of (by decide +kernel),
    unit_of (by decide +kernel)⟩

/-- States and operands that meet the hypotheses of `TrafficCommandsHaveTheirEffect`, clause by clause. -/
theorem witness_TrafficCommandsHaveTheirEffect :
  (let l := 0; let cls := 3; UnitMeets net
    (fun b => (List.range 8).all (fun c => decide (c ≤ cls) || (b.frameReady l c).isNone) = true ∧
      (b.frameReady l cls).isSome = true)) ∧
    (let l := 0; let cls := 3; UnitMeets ungated
    (fun b => (List.range 8).all (fun c => decide (c ≤ cls) || (b.frameReady l c).isNone) = true ∧
      (b.frameReady l cls).isSome = true)) ∧
    (let l := 0; UnitMeets net
    (fun b => b.gated l = true)) ∧
    (let l := 0; UnitMeets net
    (fun b =>
      let n := b.fld (GATE_CTRL l) 31 23
      0 < n ∧ n ≤ 256 ∧ 1000 ≤ b.fld (GATE_CYCLE l) 31 0 ∧
        sumNat (((List.range n).map (fun e => b.raw (GATE_ENTRY l e))).map (fun (e : Reg) => e.toNat % 2 ^ 32)) =
          b.fld (GATE_CYCLE l) 31 0)) ∧
    (let l := 0; let c := change; UnitMeets { net with gates := [{ pending := some change }] }
    (fun b => (b.gate l).pending = some c ∧ c.time ≤ b.now)) ∧
    (UnitMeets net
    (fun _ => True)) := by
  dsimp only
  exact ⟨unit_of (by decide +kernel),
    unit_of (by decide +kernel),
    unit_of (by decide +kernel),
    unit_of (by decide +kernel),
    unit_of (by decide +kernel),
    unit_of (by decide +kernel)⟩

/-- States and operands that meet the hypotheses of `LinkCommandsHaveTheirEffect`, clause by clause. -/
theorem witness_LinkCommandsHaveTheirEffect :
  (let l := 0; let q := (⟨zeros 4, zeros 4, []⟩ : NetQuery); UnitMeets net
    (fun b => b.linkUp l = true ∧ q.target = (b.listIp l).drop 12)) ∧
    (let l := 0; let q := (⟨zeros 16, zeros 16, []⟩ : NetQuery); UnitMeets net
    (fun b => b.linkUp l = true ∧ q.target = b.listIp l)) ∧
    (let l := 0; let q := (⟨zeros 4, zeros 4, []⟩ : NetQuery); UnitMeets net
    (fun b => b.linkUp l = true ∧ q.target = if q.target.length = 4 then (b.listIp l).drop 12 else b.listIp l)) ∧
    (let l := 0; let q := (⟨zeros 16, zeros 16, []⟩ : NetQuery); UnitMeets net
    (fun b => b.linkUp l = true ∧ q.target = if q.target.length = 4 then (b.listIp l).drop 12 else b.listIp l)) ∧
    (UnitMeets net
    (fun _ => True)) ∧
    (let d := datagram []; UnitMeets net
    (fun b => b.mgmtServed = true ∧ mgmtShape 1 d = true ∧
      b.sec.sources.all (fun x => !(x.addr == d.source && x.port == d.port) || decide (x.seq < d.seq)) = true)) ∧
    (let d := datagram [0]; UnitMeets net
    (fun b => b.mgmtServed = true ∧ mgmtShape 2 d = true ∧
      b.sec.sources.all (fun x => !(x.addr == d.source && x.port == d.port) || decide (x.seq < d.seq)) = true)) ∧
    (let a := NET_CTRL; UnitMeets net
    (fun _ => inCsr a = true ∧ a % 8 = 0)) ∧
    (let a := NET_CTRL + 4; UnitMeets net
    (fun _ => inCsr a = true ∧ a % 8 ≠ 0)) ∧
    (let core := 0; let a := NET_CTRL + 4; UnitMeets net
    (fun b => inCsr a = true ∧ a % 8 ≠ 0 ∧ (b.core core).state = 1)) ∧
    (let port := 0; let v := 2#64; UnitMeets { net with qps := [] }
    (fun b => port < 4 ∧ v.getLsbD 1 ≠ b.bit (NET_PORT port) 1 ∧ b.qps.all (fun q => q.list / 2 != port) = true)) ∧
    (let l := 0; let rate := LinkRate.g800; UnitMeets (net.setRaw (NET_PORT 0) 1)
    (fun b => rate ≠ .down ∧ b.linkUp l = false ∧ b.rateFits l rate = true)) ∧
    (UnitMeets net
    (fun _ => True)) ∧
    (UnitMeets { net with now := 2 ^ 32 }
    (fun b => b.linkUp 8 = false ∧ b.bit NET_CTRL 1 = true ∧ b.mgmtDown + 2_000_000_000 ≤ b.now)) := by
  dsimp only
  exact ⟨unit_of (by decide +kernel),
    unit_of (by decide +kernel),
    unit_of (by decide +kernel),
    unit_of (by decide +kernel),
    unit_of (by decide +kernel),
    unit_of (by decide +kernel),
    unit_of (by decide +kernel),
    unit_of (by decide +kernel),
    unit_of (by decide +kernel),
    unit_of (by decide +kernel),
    unit_of (by decide +kernel),
    unit_of (by decide +kernel),
    unit_of (by decide +kernel),
    unit_of (by decide +kernel)⟩

/-- States and operands that meet the hypotheses of `TimeCommandsHaveTheirEffect`, clause by clause. -/
theorem witness_TimeCommandsHaveTheirEffect :
  (let l := 0; UnitMeets net
    (fun b => b.bit PTP_CTRL 0 = true ∧ b.bit PTP_CTRL (3 + l) = true)) ∧
    (let o := (-100000 : Int); UnitMeets net
    (fun b => b.bit PTP_CTRL 0 = true ∧ (b.ptpState = 1 ∨ b.ptpState = 2) ∧ o < 0 ∧
      b.fld PTP_SERVO 31 20 * 1000 ≤ o.natAbs)) ∧
    (let o := (100000 : Int); UnitMeets net
    (fun b => b.bit PTP_CTRL 0 = true ∧ (b.ptpState = 1 ∨ b.ptpState = 2) ∧ 0 ≤ o ∧
      b.fld PTP_SERVO 31 20 * 1000 ≤ o.natAbs)) ∧
    (let o := (99999 : Int); UnitMeets net
    (fun b => b.bit PTP_CTRL 0 = true ∧ (b.ptpState = 1 ∨ b.ptpState = 2) ∧ o.natAbs < b.fld PTP_SERVO 31 20 * 1000)) ∧
    (UnitMeets net
    (fun b => (b.ptpState = 1 ∨ b.ptpState = 2) ∧ b.ptp.announce + b.fld PTP_CTRL 31 24 * b.ptp.interval ≤ b.now)) ∧
    (let first := 5; UnitMeets heldOver
    (fun b => b.ptpState = 3 ∧ b.bit PTP_CTRL 2 = true ∧ b.ptp.edges[15]? = some first)) ∧
    (UnitMeets heldOver
    (fun b => b.bit PTP_CTRL 2 = true ∧ b.ptp.edges.headD 0 + 2_000_000_000 ≤ b.now)) ∧
    (UnitMeets net
    (fun _ => True)) := by
  dsimp only
  exact ⟨unit_of (by decide +kernel),
    unit_of (by decide +kernel),
    unit_of (by decide +kernel),
    unit_of (by decide +kernel),
    unit_of (by decide +kernel),
    unit_of (by decide +kernel),
    unit_of (by decide +kernel),
    unit_of (by decide +kernel)⟩

/-- A descriptor of the firmware: code, profile or slot, the bytes from 16 on, and its inline data. -/
def desc (op slot : Nat) (body inl : List Byte) : Desc :=
  ⟨toLE 1 op ++ [0, 0x80] ++ toLE 1 slot ++ zeros 6 ++ toLE 2 inl.length ++ zeros 4 ++ padTo 48 body, inl⟩

/-- A container of 256 bytes whose one section of 192 bytes is zeros. -/
def container : List Byte :=
  toLE 2 0x4A54 ++ [0x10, 0, 0, 1, 0, 0] ++ zeros 8 ++ toLE 4 192 ++ toLE 4 256 ++ toLE 4 (crc32c (zeros 192)) ++
    toLE 4 (crc32c (zeros 192)) ++ toLE 4 64 ++ toLE 4 192 ++ zeros 24 ++ zeros 192

/-- Engine 0 is enabled, and profile 0 is INT8 with 32 elements. -/
def spindle : State :=
  regs up [(SPN_CTRL, 3), (SPN_ENGINE 0, 2 ^ 16), (SPN_PROFILE 0, 32 * 2 ^ 35 + 32 * 2 ^ 26 + 4 * 2 ^ 20 + 1)]

def withContainer : State := spindle.store (spindle.spnAddr 0 0x10000) container

/-- One segment of four FP32 elements. -/
def oneRow : List Byte := [7, 0] ++ toLE 2 16 ++ [1]

set_option maxRecDepth 1000000 in
/-- States and operands that meet the hypotheses of `SpindleReadsHaveTheirEffect`, clause by clause. -/
theorem witness_SpindleReadsHaveTheirEffect :
  let opens (b : State) (g : Nat) (d : Desc) : Bool := b.engineTakes g && b.spnOwned g d
  (let g := 0; let d := desc 1 0 (toLE 2 0 ++ [1]) []; UnitMeets spindle
    (fun b =>
      let p := b.profile (d.f 3 1)
      let n := d.f 18 1
      opens b g d ∧ d.headOk 1 0 63 0 = true ∧ p.ok = true ∧ 1 ≤ n ∧ n ≤ 8 ∧ p.slotOk (d.f 16 2) = true ∧
        zerosAt d.bytes 19 5 = true ∧ d.restZero n = true ∧ zerosAt d.bytes 56 8 = true ∧
        (d.offsets n).all (fun o => p.placed o && pchFits o p.bytes && (b.pchUe g o p.bytes).isNone) = true ∧
        b.distFault (g / 32) p [d.f 16 2] = false)) ∧
    (let g := 0; let d := desc 2 0 (toLE 4 64 ++ toLE 4 2 ++ toLE 2 32 ++ [1, 2]) []; UnitMeets spindle
    (fun b =>
      let p := b.profile (d.f 3 1)
      let n := d.f 20 4
      let slots := (List.range (d.f 26 1)).map (fun i => d.f (28 + 2 * i) 2)
      opens b g d ∧ d.headOk 2 0 63 0 = true ∧ p.ok = true ∧ 1 ≤ n ∧ n ≤ 2 ^ 26 ∧ p.bytes ≤ d.f 24 2 ∧ d.f 24 2 % 16 = 0 ∧
        1 ≤ d.f 26 1 ∧ d.f 26 1 ≤ 16 ∧ 1 ≤ d.f 27 1 ∧ d.f 27 1 ≤ 64 ∧ slots.all p.slotOk = true ∧
        zerosAt d.bytes (28 + 2 * d.f 26 1) (32 - 2 * d.f 26 1) = true ∧
        (List.range n).all (fun k => p.placed (d.f 16 4 + k * d.f 24 2)) = true ∧
        pchFits (d.f 16 4) ((n - 1) * d.f 24 2 + p.bytes) = true ∧ b.distFault (g / 32) p slots = false ∧
        (List.range n).all (fun k => (b.pchUe g (d.f 16 4 + k * d.f 24 2) p.bytes).isNone) = true)) ∧
    (let g := 0; let d := desc 4 0 (toLE 4 0x10000 ++ toLE 4 256) []; let tile := zeros 192; UnitMeets withContainer
    (fun b => opens b g d ∧ d.headOk 4 0 0 0 = true ∧ zerosAt d.bytes 24 40 = true ∧ pchFits (d.f 16 4) (d.f 20 4) = true ∧
      b.pchUe g (d.f 16 4) (d.f 20 4) = none ∧ decodeContainer (b.pchBytes g (d.f 16 4) (d.f 20 4)) = some tile)) ∧
    (let g := 0; let d := desc 5 0 (toLE 4 0 ++ toLE 4 5 ++ [1, 0, 1]) []; let w := 8; UnitMeets spindle
    (fun b =>
      let n := d.f 20 4
      opens b g d ∧ d.headOk 5 0 0 0 = true ∧ keyBits (d.f 24 1) = some w ∧ 1 ≤ n ∧ n ≤ 2 ^ 28 ∧ d.f 25 1 < w / 8 ∧
        d.f 26 1 < 2 ∧ zerosAt d.bytes 27 1 = true ∧ d.f 28 4 < 2 ^ (8 * d.f 25 1) ∧ zerosAt d.bytes 32 32 = true ∧
        pchFits (d.f 16 4) (n * (w / 8)) = true ∧
        (List.range n).all (fun i => (b.pchUe g (d.f 16 4 + w / 8 * i) (w / 8)).isNone) = true)) ∧
    (let g := 0; let d := desc 6 0 (toLE 4 0 ++ toLE 4 5 ++ [7, 3] ++ zeros 2 ++ toLE 4 (2 ^ 31) ++ zeros 4 ++ toLE 4 64 ++ toLE 4 2) []; let w := 32; UnitMeets spindle
    (fun b =>
      let n := d.f 20 4
      opens b g d ∧ d.headOk 6 0 0 0 = true ∧ keyBits (d.f 24 1) = some w ∧ 1 ≤ n ∧ n ≤ 2 ^ 28 ∧ d.f 25 1 < w / 8 ∧
        zerosAt d.bytes 26 2 = true ∧ d.f 28 4 < 2 ^ (8 * (d.f 25 1 + 1)) ∧ d.f 36 4 % 8 = 0 ∧ zerosAt d.bytes 44 20 = true ∧
        pchFits (d.f 16 4) (n * (w / 8)) = true ∧ pchFits (d.f 36 4) (8 * d.f 40 4) = true ∧
        (List.range n).all (fun i => (b.pchUe g (d.f 16 4 + w / 8 * i) (w / 8)).isNone) = true)) ∧
    (let g := 0; let d := desc 7 0 ([7, 1] ++ toLE 2 16 ++ [2, 0, 0, 0] ++ toLE 4 0 ++ toLE 4 0xFFFF_FFF0) []; UnitMeets spindle
    (fun b => opens b g d ∧ d.headOk 7 0 0 0 = true ∧ d.rowOk true = true ∧
      (d.offsets (d.f 20 1)).all (fun o => pchFits o (d.f 18 2) && (b.pchUe g o (d.f 18 2)).isNone) = true)) ∧
    (let g := 0; let d := desc 3 0 (toLE 2 5 ++ [1]) (zeros 2048); UnitMeets spindle
    (fun b =>
      let n := d.f 18 1
      opens b g d ∧ d.headOk 3 0 0 (2048 * n) = true ∧ (n = 1 ∨ n = 2 ∨ n = 4) ∧ d.f 16 2 % n = 0 ∧ d.f 16 2 + n ≤ 16384 ∧
        zerosAt d.bytes 19 45 = true)) ∧
    (let g := 0; let d := desc 12 0 [255] (zeros 64); UnitMeets spindle
    (fun b => opens b g d ∧ d.headOk 0x0C 0 0 64 = true ∧ zerosAt d.bytes 17 47 = true)) := by
  dsimp only
  exact ⟨unit_of (by decide +kernel),
    unit_of (by decide +kernel),
    unit_of (by decide +kernel),
    unit_of (by decide +kernel),
    unit_of (by decide +kernel),
    unit_of (by decide +kernel),
    unit_of (by decide +kernel),
    unit_of (by decide +kernel)⟩

/-- States and operands that meet the hypotheses of `SpindleWritesHaveTheirEffect`, clause by clause. -/
theorem witness_SpindleWritesHaveTheirEffect :
  let opens (b : State) (g : Nat) (d : Desc) : Bool := b.engineTakes g && b.spnOwned g d
  let touched (d : Desc) (i : Nat) : List Nat :=
    dedupBy (fun (x : Nat) => x) [(d.f 24 8 + 64 * i) / 64, (d.f 24 8 + (64 * i + 63)) / 64]
  (let g := 0; let d := desc 13 0 (toLE 4 0 ++ toLE 4 128) []; UnitMeets spindle
    (fun b => opens b g d ∧ d.headOk 0x0D 0 0 0 = true ∧ d.f 16 4 % 64 = 0 ∧ d.f 20 4 % 64 = 0 ∧
      zerosAt d.bytes 24 40 = true ∧ pchFits (d.f 16 4) (d.f 20 4) = true)) ∧
    (let g := 0; UnitMeets spindle
    (fun b => b.bit SPN_CTRL 1 = true ∧ (b.fld (SPN_ENGINE g) 18 16 = 1 ∨ b.fld (SPN_ENGINE g) 18 16 = 2))) ∧
    (let g := 0; let d := desc 14 0 (zeros 8 ++ toLE 8 0x1000_0000 ++ toLE 4 0x4000 ++ toLE 4 128) []; UnitMeets spindle
    (fun b => opens b g d ∧ d.headOk 0x0E 0 0 0 = true ∧ d.f 16 1 = 0 ∧ d.f 17 1 = 0 ∧ zerosAt d.bytes 18 6 = true ∧
      d.f 32 4 % 64 = 0 ∧ 64 ≤ d.f 36 4 ∧ d.f 36 4 % 64 = 0 ∧ zerosAt d.bytes 40 24 = true ∧
      b.listed (d.f 24 8) (d.f 36 4) = true ∧ pchFits (d.f 32 4) (d.f 36 4) = true ∧
      (List.range (d.f 36 4 / 64)).all (fun i => (touched d i).all (fun k => !b.ue.contains k)) = true)) ∧
    (let v := BitVec.ofNat 64 (2 ^ 63 + 0x1000_0000); UnitMeets spindle
    (fun b =>
      let n := v.toNat / 2 ^ 56 % 64 + 1
      let src := v.toNat % 2 ^ 48
      let s0 := b.setRaw SPN_CB_LOAD (v &&& (fieldMask 61 50 ||| fieldMask 47 0))
      v.getLsbD 63 = true ∧ v.toNat / 2 ^ 50 % 64 + n ≤ 64 ∧ src % 65536 = 0 ∧ s0.listed src (n * 65536) = true ∧
        (List.range n).all (fun i => !s0.isUe (src + i * 65536) 65536) = true ∧
        (burstsOf src (n * 65536)).all (fun k => !s0.ue.contains k) = true)) ∧
    (UnitMeets spindle
    (fun _ => True)) ∧
    (UnitMeets spindle
    (fun _ => True)) ∧
    (let g := 1; UnitMeets spindle
    (fun b => b.engineTakes g = false)) ∧
    (let g := 0; let d := (⟨zeros 64, []⟩ : Desc); UnitMeets spindle
    (fun b => b.engineTakes g = true ∧ b.spnOwned g d = false)) ∧
    (let g := 0; let d := desc 14 1 [] []; UnitMeets spindle
    (fun b => opens b g d ∧ d.headOk 0x0E 1 0 0 = false)) ∧
    (let d := desc 8 0 oneRow (zeros 64); UnitMeets spindle
    (fun b =>
      let h := rowParams (storeGet b.spn.param 0 (d.f 3 1) 32)
      b.engineTakes 0 = true ∧ b.spnOwned 0 d = true ∧ d.headOk 8 0 0 d.rowInline = true ∧ d.rowOk false = true ∧
        ((d.offsets (d.f 20 1)).flatMap (segReads 0 (d.f 16 1) (d.f 18 2) h)).all (fun r => pchFits r.1 r.2) = true ∧
        (0 ≠ 0 → b.storeBad 0 2 (d.f 3 1) 1 = false))) ∧
    (let d := desc 9 0 oneRow (zeros 64); UnitMeets spindle
    (fun b =>
      let h := rowParams (storeGet b.spn.param 0 (d.f 3 1) 32)
      b.engineTakes 0 = true ∧ b.spnOwned 0 d = true ∧ d.headOk 9 0 255 d.rowInline = true ∧ d.rowOk false = true ∧
        ((d.offsets (d.f 20 1)).flatMap (segReads 1 (d.f 16 1) (d.f 18 2) h)).all (fun r => pchFits r.1 r.2) = true ∧
        (1 ≠ 0 → b.storeBad 0 2 (d.f 3 1) 1 = false))) ∧
    (let d := desc 10 0 oneRow (zeros 64); UnitMeets spindle
    (fun b =>
      let h := rowParams (storeGet b.spn.param 0 (d.f 3 1) 32)
      b.engineTakes 0 = true ∧ b.spnOwned 0 d = true ∧ d.headOk 10 0 255 d.rowInline = true ∧ d.rowOk false = true ∧
        ((d.offsets (d.f 20 1)).flatMap (segReads 2 (d.f 16 1) (d.f 18 2) h)).all (fun r => pchFits r.1 r.2) = true ∧
        (2 ≠ 0 → b.storeBad 0 2 (d.f 3 1) 1 = false))) ∧
    (let d := desc 11 0 oneRow (zeros 64); UnitMeets spindle
    (fun b =>
      let h := rowParams (storeGet b.spn.param 0 (d.f 3 1) 32)
      b.engineTakes 0 = true ∧ b.spnOwned 0 d = true ∧ d.headOk 11 0 255 d.rowInline = true ∧ d.rowOk false = true ∧
        ((d.offsets (d.f 20 1)).flatMap (segReads 3 (d.f 16 1) (d.f 18 2) h)).all (fun r => pchFits r.1 r.2) = true ∧
        (3 ≠ 0 → b.storeBad 0 2 (d.f 3 1) 1 = false))) := by
  dsimp only
  exact ⟨unit_of (by decide +kernel),
    unit_of (by decide +kernel),
    unit_of (by decide +kernel),
    unit_of (by decide +kernel),
    unit_of (by decide +kernel),
    unit_of (by decide +kernel),
    unit_of (by decide +kernel),
    unit_of (by decide +kernel),
    unit_of (by decide +kernel),
    unit_of (by decide +kernel),
    unit_of (by decide +kernel),
    unit_of (by decide +kernel),
    unit_of (by decide +kernel)⟩

/-- A layer of weight tiles: one ordinary group of one tile, and its undercut. -/
def tileGroup : TileGroup := ⟨0, 1, 0, 1000000, 0, 0, 1, 0, 0, 1⟩

def tiled : Model :=
  { model with fwd := [tileGroup, { tileGroup with flags := 4 }], tiles := [(65536, 1, 0)], entries := [(0, 1)] }

def groupRun : GroupRun := { model := 0, back := false, idx := 0, layer := 0 }

/-- Lathe 0 of partition 0 runs a kernel of the plan's first layer, with some slots written. -/
def lathe0 : Lathe :=
  { running := true, pc := 0x0F00_0000_0000, layers := 1, slots := [(0, { st := 2, fmt := 1 }), (32, { st := 2 }), (64, { st := 2 })] }

def lat : State :=
  { regs serving [(LTH_CTRL, 3), (LTH_ARRAY 0, 2 ^ 19 + 2 ^ 16), (PWR_CTRL, 2), (PWR_WAKE_CFG, 1000 * 2 ^ 32 + 4 * 2 ^ 24 + 1000),
      (TIER_CTRL, 1), (TIER_POLICY 0, 2 ^ 5)] with
    models := [tiled], lathes := [lathe0], now := 2 ^ 43
    parts := modifyAt serving.parts 0 (fun p => { p with assign := { p.assign with ways := 3, shares := [(3, 1)] } })
    dir := [(0, { id := tileObjId false 9 1 0, t1 := some 0x1000_0000, fmt := 1, len1 := 65536 })]
    runners := modifyAt serving.runners 0 (fun r => { r with active := true, plan := [(0, false)], groups := [groupRun] }) }

/-- Lathe 0 as another record gives it. -/
def latWith (x : Lathe) : State := { lat with lathes := [x] }

def writing : Lathe := { lathe0 with slots := [(65, { st := 3 }), (66, { st := 4 })] }

/-- Its group of tiles is in flight to slot 20. -/
def inFlight : GroupRun := { groupRun with issued := some 0, dst := [.slot 0 .weight 20] }

def withGroup (g : GroupRun) : State := { lat with runners := modifyAt lat.runners 0 (fun r => { r with groups := [g] }) }

/-- The Lathe is at the current layer, whose group has not come. -/
def latHeld : State := withGroup { inFlight with waits := some 0 }

/-- A group is not projected to arrive before the present. -/
theorem projected_ge {s : State} {p : Nat} {g : GroupRun} {m : Model} {x : TileGroup} {e : Nat}
    (h : s.projected p g m x = some e) : s.now ≤ e := by
  unfold State.projected at h
  repeat' (first | split at h | (simp only at h; split at h))
  all_goals first
    | (cases h; exact Nat.le_add_right _ _)
    | exact absurd h (by simp)

def inTier0 : State := { lat with dir := [(0, { id := tileObjId false 9 1 0, t1 := some 0x1000_0000, fmt := 1, len1 := 65536, tier0 := true })] }

/-- States and operands that meet the hypotheses of `LatheInstructionsHaveTheirEffect`, clause by clause. -/
theorem witness_LatheInstructionsHaveTheirEffect :
  let ready (b : State) (n : Nat) (w : BitVec 128) : Bool := (b.settleLathe n).issuing n &&
    !((b.settleLathe n).lathe n).held.any (fun v => v != w) && (b.settleLathe n).fetchOk n
  (let n := 0; let w := 0#128; UnitMeets lat
    (fun b => ready b n w ∧ reservedOk w 0 = true)) ∧
    (let n := 0; let w := 0#128; UnitMeets lat
    (fun b => ready b n w ∧ reservedOk w 0 = true)) ∧
    (let n := 0; let w := 0#128; UnitMeets lat
    (fun b => ready b n w ∧ reservedOk w 0 = true ∧ ((b.settleLathe n).lathe n).idle = true)) ∧
    (let n := 0; let w := 0#128; let i := 65; let v := ({ st := 3 } : LSlot); UnitMeets (latWith writing)
    (fun b => ready b n w ∧ reservedOk w 0 = true ∧
      ((b.settleLathe n).lathe n).slots.find? (fun e => e.2.st == 3) = some (i, v))) ∧
    (let n := 0; let w := 0#128; UnitMeets lat
    (fun b =>
      let k := bitsAt w 119 118
      let sl := namedSlots k (bitsAt w 117 112) (bitsAt w 111 106 + 1)
      ready b n w ∧ reservedOk w (maskOf 119 106) = true ∧ k < 3 ∧
        bitsAt w 117 112 + (bitsAt w 111 106 + 1) ≤ (if k = 2 then 16 else 32) ∧
        sl.all (fun i => (((b.settleLathe n).lathe n).slot i).st != 1 && (((b.settleLathe n).lathe n).slot i).st != 4) = true)) ∧
    (let n := 0; let w := 0#128; let m := tiled; let i := 0; UnitMeets lat
    (fun b =>
      let s := b.settleLathe n
      ready b n w ∧ reservedOk w (maskOf 119 104) = true ∧
        (s.planLayers (s.runner (s.lathe n).part).plan)[(s.lathe n).layers - 1]? = some (m, i) ∧ i = bitsAt w 119 104)) ∧
    (let n := 0; let w := 0#128; UnitMeets lat
    (fun b => b.layerHeld n = false ∧ ready b n w ∧ reservedOk w (maskOf 119 96) = true ∧
      bitsAt w 119 116 + (bitsAt w 115 112 + 1) ≤ 16 ∧
      (namedSlots 2 (bitsAt w 119 116) (bitsAt w 115 112 + 1)).all (fun i =>
        (((b.settleLathe n).lathe n).slot i).st == 2 || (((b.settleLathe n).lathe n).slot i).st == 3) = true)) ∧
    (let n := 0; let w := BitVec.ofNat 128 (2 ^ 111 + 2 ^ 91); UnitMeets lat
    (fun b =>
      let cnt := tileSlots (65536 * (fmtBits (bitsAt w 94 91)).getD 32 / 8)
      let inp : Bool := bitsAt w 111 111 == 1
      b.layerHeld n = false ∧ ready b n w ∧ reservedOk w (maskOf 119 91 ||| maskOf 63 32) = true ∧
        [1, 2, 4, 7, 9].contains (bitsAt w 94 91) = true ∧ bitsAt w 119 112 + cnt ≤ (if inp then 32 else 16) ∧
        (namedSlots (if inp then 1 else 2) (bitsAt w 119 112) cnt).all (fun i => ((b.settleLathe n).lathe n).canRead i) = true)) ∧
    (let n := 0; let w := BitVec.ofNat 128 (2 ^ 116 + 2 ^ 112); UnitMeets lat
    (fun b => b.layerHeld n = false ∧ ready b n w ∧ (parseMat w).legal w ((b.settleLathe n).lathe n) = true ∧
      (parseMat w).stuck ((b.settleLathe n).lathe n) = none)) ∧
    (let n := 0; let w := BitVec.ofNat 128 (2 ^ 116 + 2 ^ 112 + 5 * 2 ^ 96); let i := 5; UnitMeets lat
    (fun b => b.layerHeld n = false ∧ ready b n w ∧ (parseMat w).legal w ((b.settleLathe n).lathe n) = true ∧
      (parseMat w).stuck ((b.settleLathe n).lathe n) = some i)) ∧
    (let n := 0; let w := BitVec.ofNat 128 (2 ^ 112 + 2 ^ 108 + 2 ^ 104 + 6 * 2 ^ 96); UnitMeets lat
    (fun b => b.layerHeld n = false ∧ ready b n w ∧ (parseVec w).legal w = true ∧
      (parseVec w).stuck ((b.settleLathe n).lathe n) = none)) ∧
    (let n := 0; let v := 0#128; let w := 1#128; UnitMeets (latWith { lathe0 with held := some 0 })
    (fun b => b.layerHeld n = false ∧ (b.settleLathe n).issuing n = true ∧
      ((b.settleLathe n).lathe n).held = some v ∧ v ≠ w)) ∧
    (let n := 0; UnitMeets latHeld
    (fun b => b.layerHeld n = true ∧ b.issuing n = true)) ∧
    (let n := 0; let w := BitVec.ofNat 128 (7 * 2 ^ 120); UnitMeets lat
    (fun b => ready b n w ∧ [0, 1, 2, 3, 4, 5, 6, 0x10, 0x20].contains (bitsAt w 127 120) = false)) := by
  dsimp only
  exact ⟨unit_of (by decide +kernel),
    unit_of (by decide +kernel),
    unit_of (by decide +kernel),
    unit_of (by decide +kernel),
    unit_of (by decide +kernel),
    unit_of (by decide +kernel),
    unit_of (by decide +kernel),
    unit_of (by decide +kernel),
    unit_of (by decide +kernel),
    unit_of (by decide +kernel),
    unit_of (by decide +kernel),
    unit_of (by decide +kernel),
    unit_of (by decide +kernel),
    unit_of (by decide +kernel)⟩

/-- States and operands that meet the hypotheses of `LatheEventsHaveTheirEffect`, clause by clause. -/
theorem witness_LatheEventsHaveTheirEffect :
  (let p := 0; let n := 0; let lane := 0; let k := 0; let m := tiled; let i := 0; UnitMeets (latWith {})
    (fun b =>
      let s := b.settleLathe n
      let r := s.runner p
      s.laneOf p r.ctx n = some lane ∧ r.active = true ∧ (s.lathe n).running = false ∧ s.latheOwner n = some p ∧
        s.fld (LTH_ARRAY n) 18 16 = 1 ∧ s.cal.wait.contains (n / 14) = false ∧ s.awaitsSpare p r.ctx = false ∧
        nextKernel (s.planLayers r.plan) lane (s.lathe n).layers = some (k, m, i) ∧ k ≤ r.layer + 1 ∧
        ((s.copyCode p k).codeAddr p r.ctx (m, i) k lane).isSome = true ∧ ((m.laneEntries i).getD lane (0, 0)).2 ≠ 0)) ∧
    (let n := 0; let buf := LatheBuf.output; let slot := 1; UnitMeets (latWith writing)
    (fun b => ((b.lathe n).slot (slotNo buf slot)).st = 3)) ∧
    (let n := 0; let slot := 2; UnitMeets (latWith writing)
    (fun b => ((b.lathe n).slot (64 + slot)).st = 4)) ∧
    (let n := 0; let t0 := 0; let i := 4; let slot := 5; let w := BitVec.ofNat 128 (2 ^ 124 + 2 ^ 116 + 2 ^ 112 + 5 * 2 ^ 96); UnitMeets (latWith { lathe0 with waiting := some (0, 4), held := some w })
    (fun b =>
      let s := b.settleLathe n
      (s.lathe n).waiting = some (t0, i) ∧ (s.lathe n).held = some w ∧ (s.lathe n).stuckOn w = some slot ∧
        (s.lathe n).running = true ∧ t0 + s.fld LTH_STALL_LIMIT 31 0 * 1000 < s.now)) ∧
    (let n := 0; let p := 0; UnitMeets (latWith {})
    (fun b => b.bit LTH_CTRL 1 = true ∧ b.fld (LTH_ARRAY n) 18 16 ≠ 0 ∧ b.fld (LTH_ARRAY n) 18 16 ≠ 2 ∧
      (b.lathe n).running = false ∧ (∀ p, b.latheOwner n = some p → (b.part p).assign.rt = false) ∧ b.bit (LTH_ARRAY n) 1 = false ∧
      (b.lathe n).lastIssue + b.fld LTH_IDLE_CFG 15 0 * 1000 ≤ b.now)) ∧
    (let l := 0; let w := ({ unit := .lathe 0, since := 0 } : WakeReq); UnitMeets { lat with wakes := [{ unit := .lathe 0, since := 0 }] }
    (fun b =>
      let ws := b.wakes.filter (fun w => b.canWake w.unit)
      rotate b.wakeLast (ws.map (fun w => b.wakePlace w.unit)) = some l ∧
        ws.find? (fun w => b.wakePlace w.unit == l) = some w)) ∧
    (UnitMeets lat
    (fun _ => True)) ∧
    (let n := 0; let buf := LatheBuf.weight; let slot := 0; let word := 0; let p := 0; UnitMeets lat
    (fun b =>
      let s1 := ((b.event LTH_EVENT 1).lthLogPut 2 n p (slotNo buf slot) word).report ⟨4, n, 0, .uncorrectable⟩
      b.latheOwner n = some p ∧ (s1.latheOwner n).isSome = true ∧ (s1.runner p).active = true ∧
        (s1.laneOf p (s1.runner p).ctx n).isSome = true ∧ (s1.runner p).failures < 2)) ∧
    (UnitMeets lat
    (fun _ => True)) := by
  dsimp only
  exact ⟨unit_of (by decide +kernel),
    unit_of (by decide +kernel),
    unit_of (by decide +kernel),
    unit_of (by decide +kernel),
    unit_of (by decide +kernel),
    unit_of (by decide +kernel),
    unit_of (by decide +kernel),
    unit_of (by decide +kernel),
    unit_of (by decide +kernel)⟩

/-- States and operands that meet the hypotheses of `RunnerEventsHaveTheirEffect`, clause by clause. -/
theorem witness_RunnerEventsHaveTheirEffect :
  (let p := 0; let dst := [SlotRef.slot 0 .weight 20]; let i := 0; let g := groupRun; let m := tiled; let x := tileGroup; UnitMeets lat
    (fun b =>
      let s := b.settleLathes p
      (s.runner p).active = true ∧ s.nextGroup p = some (i, g) ∧ g.fell = false ∧ s.groupRec g = some (m, x) ∧
        s.predict (s.runner p) g.layer ≤ s.now + x.lead ∧ s.groupIn0 p g = false ∧ s.bit TIER_CTRL 0 = true ∧
        s.placesFit p (s.runner p).ctx (s.fetchObjs g) dst = true ∧ (s.pinAll p (s.fetchObjs g)).isSome = true)) ∧
    (let p := 0; let i := 0; let g := groupRun; let m := tiled; let x := tileGroup; UnitMeets inTier0
    (fun b =>
      let s := b.settleLathes p
      (s.runner p).active = true ∧ s.nextGroup p = some (i, g) ∧ g.fell = false ∧ s.groupRec g = some (m, x) ∧
        s.predict (s.runner p) g.layer ≤ s.now + x.lead ∧ s.groupIn0 p g = true)) ∧
    (let p := 0; let grp := 0; let tile := 0; let d := SlotRef.slot 0 .weight 20; let g := inFlight; let m := tiled; let x := tileGroup; let id := tileObjId false 9 1 0; let o := ({ id := tileObjId false 9 1 0, t1 := some 0x1000_0000, fmt := 1, len1 := 65536 } : TierObj); UnitMeets (withGroup inFlight)
    (fun b => (b.runner p).groups[grp]? = some g ∧ g.fell = false ∧ b.groupRec g = some (m, x) ∧
      (b.fetchObjs g)[tile]? = some id ∧ g.dst[tile]? = some d ∧ (b.runner p).active = true ∧ g.issued.isSome = true ∧
      g.doneAt = none ∧ g.arrived.contains tile = false ∧ b.obj? p id = some o ∧ (b.objContent p o).1.isSome = true)) ∧
    (let p := 0; UnitMeets serving
    (fun b => (b.runner p).active = false)) ∧
    (let p := 0; let g := inFlight; let m := tiled; let x := tileGroup; let m' := tiled; let u := { tileGroup with flags := 4 }; UnitMeets (withGroup inFlight)
    (fun b => (b.runner p).groups = [g] ∧ (b.runner p).active = true ∧ g.issued.isSome = true ∧ g.doneAt = none ∧ g.fell = false ∧
      g.shadow = false ∧ g.over_ = false ∧ b.groupRec g = some (m, x) ∧ b.underRec g = some (m', u) ∧
      (∀ e, b.projected p g m x = some e → b.predict (b.runner p) g.layer ≤ e) ∧ x.fbGen = 1 ∧
      m.groupBytes u ≤ b.freeWays p ∧ b.bit TIER_CTRL 0 = true ∧
      ((((b.setGroup p 0 (fun g => { g with first := b.firstByte g })).tick).tick).pinAll p (groupObjs m u)).isSome = true)) ∧
    (let p := 0; UnitMeets { lat with heap := [(0, 2 ^ 31)] }
    (fun b => b.bit (TIER_POLICY p) 5 = true ∧ b.bit TIER_CTRL 0 = true ∧ b.fld (TIER_POLICY p) 31 24 < b.occupancy p)) ∧
    (let p := 0; let id := 77; let r := ((0, 77, 0) : Nat × Nat × Stamp); UnitMeets { lat with evictRetries := [(0, 77, 0)] }
    (fun b => b.evictRetries.find? (fun r => r.1 == p && r.2.1 == id) = some r ∧ r.2.2 ≤ b.now)) ∧
    (UnitMeets lat
    (fun _ => True)) := by
  dsimp only
  exact ⟨unit_of (by decide +kernel),
    unit_of (by decide +kernel),
    unit_of (by decide +kernel),
    unit_of (by decide +kernel),
    ⟨by decide +kernel, by decide +kernel, by decide +kernel, rfl, rfl, rfl, rfl, rfl, by decide +kernel, by decide +kernel,
      fun _ h => Nat.le_trans (by decide +kernel) (projected_ge h), rfl, by decide +kernel, by decide +kernel, by decide +kernel⟩,
    unit_of (by decide +kernel),
    unit_of (by decide +kernel),
    unit_of (by decide +kernel)⟩

/-- The module is powered: CXL link 0 is enabled and in state `v`, and its port is as given. -/
def linked (v : Nat) (p : CxlPort) : State := { regs up [(CXL_CTRL, 1), (CXL_LINK 0, 2 ^ 40 + v * 2 ^ 32)] with cxl := [p], now := 2 ^ 32 }

/-- States and operands that meet the hypotheses of `CxlCommandsHaveTheirEffect`, clause by clause. -/
theorem witness_CxlCommandsHaveTheirEffect :
  (let l := 0; let d := (⟨true, 16, 4, true⟩ : CxlTraining); UnitMeets (linked 0 {})
    (fun b => b.bit CXL_CTRL l = true ∧ b.ready rdyFw = true ∧ b.cxlUp l = false ∧ b.linkState l ≠ 4 ∧ d.present = true ∧
      b.widthFits l d.width = true ∧ d.secure = true)) ∧
    (let l := 0; let d := (⟨true, 8, 4, false⟩ : CxlTraining); UnitMeets (linked 1 {})
    (fun b => b.bit CXL_CTRL l = true ∧ b.ready rdyFw = true ∧ b.cxlUp l = false ∧ b.linkState l ≠ 4 ∧ d.present = true ∧
      b.widthFits l d.width = true ∧ d.secure = false)) ∧
    (let l := 0; UnitMeets (linked 1 {})
    (fun b => b.linkState l = 1 ∧ (b.port l).tryAt + 1_000_000_000 ≤ b.now)) ∧
    (let l := 0; UnitMeets (linked 2 {})
    (fun b => b.cxlUp l = true ∧ (b.port l).window = none)) ∧
    (let l := 0; let w := 8; let t0 := 2 ^ 32; UnitMeets (linked 2 { window := some (2 ^ 32) })
    (fun b => (b.port l).window = some t0 ∧ b.now < t0 + recoveryNs ∧ b.widthFits l w = true)) ∧
    (let l := 0; let how := CxlReturn.active; let t0 := 0; UnitMeets (linked 2 { window := some 0 })
    (fun b => (b.port l).window = some t0 ∧ (how ≠ .active ∨ t0 + recoveryNs ≤ b.now))) ∧
    (let l := 0; let how := CxlReturn.deviceReset; let t0 := 2 ^ 32; UnitMeets (linked 2 { window := some (2 ^ 32) })
    (fun b => (b.port l).window = some t0 ∧ (how ≠ .active ∨ t0 + recoveryNs ≤ b.now))) ∧
    (let l := 0; let t0 := 0; UnitMeets (linked 2 { window := some 0 })
    (fun b => (b.port l).window = some t0 ∧ t0 + recoveryNs ≤ b.now)) ∧
    (let l := 0; UnitMeets (linked 4 {})
    (fun b => b.linkState l = 4)) ∧
    (let l := 0; UnitMeets (linked 2 {})
    (fun b => b.cxlUp l = true)) ∧
    (let l := 0; UnitMeets (linked 3 {})
    (fun b => b.cxlUp l = true)) := by
  dsimp only
  exact ⟨unit_of (by decide +kernel),
    unit_of (by decide +kernel),
    unit_of (by decide +kernel),
    unit_of (by decide +kernel),
    unit_of (by decide +kernel),
    unit_of (by decide +kernel),
    unit_of (by decide +kernel),
    unit_of (by decide +kernel),
    unit_of (by decide +kernel),
    unit_of (by decide +kernel),
    unit_of (by decide +kernel)⟩

/-- The power domain in a phase. -/
def phased (p : PwrPhase) : State := { up with pwr := { phase := p } }

/-- Phase 0 of region 0 has failed. -/
def failedPhase : State := { up with pwr := { phases := (0, 4) :: (List.range 31).map (fun i => ((i + 1) / 8, 1)) ++ [(15, 2), (15, 2)] } }

/-- States and operands that meet the hypotheses of `PowerPhasesFollowTheirCommands`, clause by clause. -/
theorem witness_PowerPhasesFollowTheirCommands :
  (PowerMeets (phased .standby)
    (fun b => b.pwr.phase = .standby ∧ b.pwr.locked = false)) ∧
    (PowerMeets (phased .powerDown)
    (fun b => b.pwr.phase = .powerDown ∧ b.pwr.locked = false)) ∧
    (PowerMeets (phased .running)
    (fun b => b.pwr.phase = .running)) ∧
    (PowerMeets (phased .starting)
    (fun b => b.pwr.phase = .starting)) ∧
    (let mv := 35999; let held := 20000; PowerMeets (phased .running)
    (fun b => mv < 36000 ∧ 20_000 ≤ held ∧ b.pwr.phase = .running)) ∧
    (let mv := 35999; let held := 19999; PowerMeets (phased .running)
    (fun _ => held < 20_000)) ∧
    (let mv := 62001; let held := 1000; PowerMeets (phased .running)
    (fun b => 62000 < mv ∧ 1_000 ≤ held ∧ b.pwr.phase = .running)) ∧
    (let held := 50000; PowerMeets (phased .running)
    (fun b => 50_000 ≤ held ∧ b.pwr.phase = .running)) ∧
    (let held := 10000; PowerMeets (phased .running)
    (fun b => 10_000 ≤ held ∧ b.pwr.phase = .running)) ∧
    (UnitMeets (phased .running)
    (fun b => b.pwr.phase = .running)) ∧
    (let held := 100001; PowerMeets (phased .running)
    (fun b => 100_000 < held ∧ b.pwr.phase = .running)) ∧
    (PowerMeets (phased .unpowered)
    (fun b => b.pwr.phase = .unpowered)) ∧
    (PowerMeets (phased .unpowered)
    (fun _ => True)) ∧
    (let t0 := 0; PowerMeets { up with pwr := { enLow := some 0, en := false, tripped := true }, now := 100_000_000 }
    (fun b => b.pwr.enLow = some t0 ∧ t0 + 100_000_000 ≤ b.now)) := by
  dsimp only
  exact ⟨power_of (by decide +kernel),
    power_of (by decide +kernel),
    power_of (by decide +kernel),
    power_of (by decide +kernel),
    power_of (by decide +kernel),
    power_of (by decide +kernel),
    power_of (by decide +kernel),
    power_of (by decide +kernel),
    power_of (by decide +kernel),
    unit_of (by decide +kernel),
    power_of (by decide +kernel),
    power_of (by decide +kernel),
    power_of (by decide +kernel),
    power_of (by decide +kernel)⟩

/-- States and operands that meet the hypotheses of `PowerManagementHasItsEffect`, clause by clause. -/
theorem witness_PowerManagementHasItsEffect :
  (UnitMeets up
    (fun _ => True)) ∧
    (let mv := 39999; UnitMeets up
    (fun _ => mv < 40000)) ∧
    (let r := 0; UnitMeets { up with pwr := { phases := [] } }
    (fun b => b.pwr.active r < 7)) ∧
    (UnitMeets failedPhase
    (fun b => (List.range 4).all (fun r => 7 ≤ b.pwr.active r) = true)) ∧
    (let temps := [(-40 : Int)]; UnitMeets (regs up [(PWR_THERM 0, 100 * 2 ^ 40 + 110 * 2 ^ 32)])
    (fun b => temps.length ≤ 15 ∧
      temps.zipIdx.all (fun x => decide (x.1 ≤ b.fld (PWR_THERM x.2) 47 40 * 8 - 40)) = true ∧
      temps.zipIdx.all (fun x => decide (x.1 < b.fld (PWR_THERM x.2) 39 32 * 8)) = true)) ∧
    (let temps := [(880 : Int)]; UnitMeets (regs up [(PWR_THERM 0, 100 * 2 ^ 40 + 110 * 2 ^ 32)])
    (fun b => temps.length ≤ 15 ∧
      temps.zipIdx.any (fun x => decide (b.fld (PWR_THERM x.2) 39 32 * 8 ≤ x.1)) = true)) ∧
    (let k := 0; let r := 0; let i := 32; UnitMeets up
    (fun b =>
      let s1 := (b.setPhase k (r, 4)).report ⟨11, k, 0, .uncorrectable⟩
      b.pwr.phases.getD k (15, 0) = (r, 1) ∧ (List.range 34).find? (fun i => (s1.pwr.phases.getD i (15, 0)).2 == 2) = some i ∧
        7 ≤ (((s1.setPhase i (r, 1)).event PWR_EVENT 4).showPhases).pwr.active r)) ∧
    (let k := 0; let r := 0; UnitMeets failedPhase
    (fun b => b.pwr.phases.getD k (15, 0) = (r, 4) ∧ b.pwr.active r < 8)) ∧
    (let r := 3; let n := 8; UnitMeets up
    (fun _ => r < 4 ∧ n ≤ 8)) ∧
    (PowerMeets (phased .standby)
    (fun b => b.pwr.phase ≠ .unpowered)) ∧
    (PowerMeets (phased .standby)
    (fun b => b.pwr.phase ≠ .unpowered)) := by
  dsimp only
  exact ⟨unit_of (by decide +kernel),
    unit_of (by decide +kernel),
    unit_of (by decide +kernel),
    unit_of (by decide +kernel),
    unit_of (by decide +kernel),
    unit_of (by decide +kernel),
    unit_of (by decide +kernel),
    unit_of (by decide +kernel),
    unit_of (by decide +kernel),
    power_of (by decide +kernel),
    power_of (by decide +kernel)⟩

/-- Rolling tests are enabled, and there are spare Lathes and walkers. -/
def testing : State :=
  regs up [(BOOT_TEST_CFG, 3 * 2 ^ 16 + 1), (LTH_ARRAY 0, 2 ^ 19 + 2 ^ 16), (LTH_ARRAY 1, 255 * 2 ^ 32 + 5 * 2 ^ 16),
    (GGE_WALKER 1, 255 * 2 ^ 32), (CAL_CTRL, 1)]

def faulty (f : Faults) : State := { testing with faults := f, now := 2 ^ 40 }

def uncorrected : FaultReport := ⟨4, 0, 0, .uncorrectable⟩

def opened : Track := { kind := 4, inst := 0, detail := 0, opened := some (2 ^ 40) }

/-- States and operands that meet the hypotheses of `FaultCommandsHaveTheirEffect`, clause by clause. -/
theorem witness_FaultCommandsHaveTheirEffect :
  let named (f : FaultReport) (b : State) : Bool :=
    decide (0 < f.kind ∧ f.kind ≤ 18 ∧ f.kind ≠ 10 ∧ (b.takeReport f).1.isPermanent f.kind f.inst (resourceDetail f) = false)
  let track (f : FaultReport) (b : State) : Track := (b.takeReport f).1.track f.kind f.inst (resourceDetail f)
  (let f := (⟨4, 0, 0, .corrected⟩ : FaultReport); let n := 16; let p := 3_600_000_000_000; UnitMeets testing
    (fun b => named f b ∧ f.event = .corrected ∧ correctable f.kind = some (n, p) ∧
      (if (track f b).win = (b.takeReport f).2 / p then (track f b).count + 1 else 1) ≤ n)) ∧
    (let f := uncorrected; UnitMeets testing
    (fun b => named f b ∧ f.event = .uncorrectable ∧ (track f b).opened = none)) ∧
    (let f := uncorrected; let a := 2 ^ 40; UnitMeets (faulty { tracks := [opened] })
    (fun b => named f b ∧ f.event = .uncorrectable ∧ (track f b).opened = some a ∧
      (b.takeReport f).2 < a + 60_000_000_000)) ∧
    (let m := 1; let e := (0, 1); UnitMeets (faulty { entry := [(0, 1)] })
    (fun b => b.faults.entry.find? (fun e => e.2 == m) = some e ∧ b.bit (LTH_ARRAY m) 1 = false)) ∧
    (let k := 0; let m := (⟨3, 30, true, 0⟩ : PchMove); UnitMeets (faulty { moves := [⟨3, 30, true, 0⟩] })
    (fun b => b.faults.moves.find? (fun m => m.src / 32 == k && m.move) = some m)) ∧
    (let k := 0; let m := (⟨3, 30, false, 0⟩ : PchMove); UnitMeets (faulty { moves := [⟨3, 30, false, 0⟩] })
    (fun b => b.faults.moves.find? (fun m => m.src / 32 == k && !m.move && m.began + pchCopyNs ≤ b.now) = some m ∧
      b.faults.queue.all (fun g => g / 32 != k) = true)) ∧
    (let n := 0; let m := 1; let r := ([] : List Nat); UnitMeets testing
    (fun b => b.bit BOOT_TEST_CFG 17 = true ∧ b.bit BOOT_TEST_CFG 16 = true ∧ b.testDue 4 n = true ∧
      b.fld (LTH_ARRAY n) 18 16 = 1 ∧ b.fld (LTH_ARRAY n) 39 32 ≠ 255 ∧ b.latheSpares n = m :: r ∧ b.bit (LTH_ARRAY m) 1 = false ∧ (b.lathe n).running = false ∧
      (ownerOf b (LTH_ARRAY n)).any (fun p => (b.runner p).active) = false)) ∧
    (let n := 0; UnitMeets testing
    (fun b => b.bit BOOT_TEST_CFG 17 = true ∧ b.bit BOOT_TEST_CFG 16 = true ∧ b.testDue 5 n = true ∧
      b.fld (GGE_WALKER n) 18 16 = 1 ∧ b.fld (GGE_WALKER n) 39 32 ≠ 255 ∧ b.walkerSpares ≠ [] ∧ b.contextsUsed n = [])) ∧
    (let n := 0; UnitMeets (faulty { tests := [(4, 0)] })
    (fun b => b.faults.tests.contains (4, n) = true ∧ b.faults.owed = [])) ∧
    (let w := 0; let e := (0, 2 ^ 40); UnitMeets (faulty { swaps := [(0, 2 ^ 40)] })
    (fun b =>
      let s1 := b.setFaults (fun f => { f with swaps := f.swaps.filter (fun x => x.1 != w) })
      b.faults.swaps.find? (fun e => e.1 == w) = some e ∧ (b.contextsUsed w = [] ∨ e.2 + 20_000_000 ≤ b.now) ∧
        s1.walkerSpares ≠ [] ∧ b.searches = [])) ∧
    (UnitMeets testing
    (fun b => b.bit CAL_CTRL 0 = true ∧ b.ready rdyFw = true)) ∧
    (let r := 0; UnitMeets { testing with cal := { wait := [0] } }
    (fun b => b.cal.wait.contains r = true ∧ (List.range 14).all (fun i => !(b.lathe (14 * r + i)).running) = true)) ∧
    (UnitMeets up
    (fun _ => True)) ∧
    (UnitMeets { up with fw := {} }
    (fun b => b.fw.running = none)) ∧
    (UnitMeets up
    (fun _ => True)) := by
  dsimp only
  exact ⟨unit_of (by decide +kernel),
    unit_of (by decide +kernel),
    unit_of (by decide +kernel),
    unit_of (by decide +kernel),
    unit_of (by decide +kernel),
    unit_of (by decide +kernel),
    unit_of (by decide +kernel),
    unit_of (by decide +kernel),
    unit_of (by decide +kernel),
    unit_of (by decide +kernel),
    unit_of (by decide +kernel),
    unit_of (by decide +kernel),
    unit_of (by decide +kernel),
    unit_of (by decide +kernel),
    unit_of (by decide +kernel)⟩

/-- The boot ROM fetches an image. -/
def fetching : State := { regs up [(BOOT_READY, 0)] with boot := { fetching := true, disc := some 0, failedAt := some 0 }, now := 60_000_000_000 }

/-- States and operands that meet the hypotheses of `BootCommandsHaveTheirEffect`, clause by clause. -/
theorem witness_BootCommandsHaveTheirEffect :
  (PowerMeets { State.reset with pwr := { phase := .held } }
    (fun b => b.pwr.phase ≠ .released ∧ b.releasable = true)) ∧
    (UnitMeets fetching
    (fun b => b.boot.fetching = true ∧ b.boot.disc.isSome = true ∧ b.boot.dhcp < 4 ∧
      b.boot.dhcpAt + 2 ^ (b.boot.dhcp + 1) * 1_000_000_000 ≤ b.now)) ∧
    (UnitMeets fetching
    (fun b => b.boot.fetching = true ∧ b.boot.disc.isSome = true ∧ b.boot.tftpAt + 1_000_000_000 ≤ b.now)) ∧
    (let bs := image 9; let i := (parseImage (image 9)).get!; UnitMeets fetching
    (fun b => b.boot.fetching = true ∧ bs.length ≤ 16777216 ∧ parseImage bs = some i)) ∧
    (UnitMeets fetching
    (fun b => b.boot.fetching = true)) ∧
    (let t0 := 0; UnitMeets fetching
    (fun b => b.boot.disc = some t0 ∧ b.boot.fetching = true ∧ t0 + 60_000_000_000 ≤ b.now)) ∧
    (let t0 := 0; UnitMeets fetching
    (fun b => b.boot.failedAt = some t0 ∧ t0 + 60_000_000_000 ≤ b.now)) ∧
    (let k := 0; UnitMeets { fetching with pwr := { phase := .running } }
    (fun b => b.pwr.phase = .running ∧ b.ready k = false ∧ b.boot.gone.contains k = false)) ∧
    (let k := 0; UnitMeets { fetching with pwr := { phase := .running } }
    (fun b => b.pwr.phase = .running ∧ b.ready k = false ∧ b.boot.gone.contains k = false)) ∧
    (let n := 0; UnitMeets { fetching with pwr := { phase := .running } }
    (fun b => b.ready n = false ∧ b.pwr.phase = .running)) := by
  dsimp only
  exact ⟨power_of (by decide +kernel),
    unit_of (by decide +kernel),
    unit_of (by decide +kernel),
    unit_of (by decide +kernel),
    unit_of (by decide +kernel),
    unit_of (by decide +kernel),
    unit_of (by decide +kernel),
    unit_of (by decide +kernel),
    unit_of (by decide +kernel),
    unit_of (by decide +kernel)⟩


/-! The statements about all commands, about the frame and about parts of the state. -/

/-- A request packet that intake starts at once, on a module where nothing goes on in the background. -/
def QuietMeets (s : State) (op : Nat) (r : Req) (P : Cmd → State → Prop) : Prop := HostMeets s op r P ∧ s.quiet 100 = true

set_option maxRecDepth 10000 in
theorem witness_AStepRunsTheFrontCommand :
    ({ up with pending := [.meterRefresh 7, .hoursUpdate 8] } : State).pending = .meterRefresh 7 :: [.hoursUpdate 8] := by rfl

theorem reset_canonical : Canonical State.reset := ⟨by decide +kernel, by decide +kernel⟩

theorem witness_EveryStepKeepsTheCanonicalForms : ∃ s t : State, s.pending ≠ [] ∧ Canonical s ∧ step s = .next t :=
  ⟨{ State.reset with pending := [.hoursUpdate 7] }, _, by simp, reset_canonical, rfl⟩

theorem witness_CanonicalFormsAreUnique : ∃ s t : State, s ≠ t ∧ Canonical s ∧ Canonical t ∧ s.veil = [] ∧
    t.veil = [] ∧ (∀ a, s.byte a = t.byte a) ∧
    ∀ a, s.raw a = t.raw a :=
  ⟨State.reset, { State.reset with now := 5 }, fun h => absurd (congrArg State.now h) (by decide), reset_canonical, reset_canonical,
    rfl, rfl, fun _ => rfl, fun _ => rfl⟩

theorem witness_PoisonLastsUntilAWholeWrite : (3 : Nat) ≠ 4 := by decide

theorem witness_RegistersFollowTheirAccessCodes :
    (Canonical State.reset ∧ 4 ≤ 5 ∧ 5 < 64 ∧ PRT_PART_CTRL 0 ≠ PRT_PART_CTRL 1) ∧
    (regDesc (PRT_PART_CTRL 0)).any (fun d => d.fields.all (fun f => decide (f.lo ≤ f.hi) && decide (f.hi < 64)) && d.fields ≠ []) = true :=
  ⟨⟨reset_canonical, by decide⟩, by decide +kernel⟩

theorem witness_AHeldModuleDoesNothing :
    (Instr.hoursUpdate 100).standby = false ∧ (phased .held).acts (Instr.hoursUpdate 100).stamp = false ∧
      (phased .standby).acts (Instr.hoursUpdate 100).stamp = false := by
  decide +kernel

theorem witness_QuietStepsChangeOnlyByTheirEffect :
    (up.acts 100 = true ∧ up.quiet 100 = true) ∧ up.spn.held = [] ∧ up.embJobs = [] ∧ up.hotJobs = [] ∧
      (∀ c ∈ ({ up with cmds := [{}] } : State).cmds, c.phase ≠ .ordered) ∧
      (∀ q ∈ ({ up with seqs := [{}] } : State).seqs, q.verdict = none) := by
  decide +kernel

set_option maxRecDepth 100000 in
theorem witness_QueriesOnlyAnswer :
    QuietMeets up 0x0102 (req [1, 2, 3]) (fun c _ => c.replyRef = none) ∧
    QuietMeets up 0x0104 (req (zeros 8)) (fun c _ => c.replyRef = none ∧ shapedAs c 8 [(0, 8)] = true) ∧
    QuietMeets searching 0x0207 (req (toLE 2 3 ++ zeros 6)) (fun c u => c.replyRef = none ∧
      shapedAs c 8 [(2, 6)] = true ∧ fieldAt c.input 0 2 < 64 ∧
        u.boundIndex c (fieldAt c.input 0 2) = some ix) ∧
    QuietMeets { generating with cmds := [] } 0x0404 (req (toLE 4 seq.handle ++ zeros 4)) (fun c u => c.replyRef = none ∧
      shapedAs c 8 [(4, 4)] = true ∧ u.seqOf c.hdr.partition (fieldAt c.input 0 4) = some seq) ∧
    QuietMeets up 0x0805 (req (zeros 8 ++ toLE 4 4096 ++ zeros 4)) (fun c _ => c.replyRef = none ∧
      shapedAs c 16 [(12, 4)] = true ∧ 0 < fieldAt c.input 8 4 ∧ fieldAt c.input 8 4 ≤ 4096) ∧
    QuietMeets up 0x0801 (req (toLE 8 0x1000 ++ toLE 4 70 ++ zeros 4)) (fun c u =>
      let a := fieldAt c.input 0 8
      let n := fieldAt c.input 8 4
      c.replyRef = none ∧ shapedAs c 16 [(12, 4)] = true ∧ n ≤ 1048576 ∧ u.owns c.hdr.partition a (max n 1) = true ∧
        u.guarded c.hdr.partition a n (u.hotAreas c.hdr.partition) = false ∧ u.cxlMissing a n = none ∧ u.isUe a n = false ∧
        (burstsOf a n).any (fun b => u.ce.contains b) = false) := by
  exact ⟨⟨host_of (by decide +kernel), by decide +kernel⟩, ⟨host_of (by decide +kernel), by decide +kernel⟩,
    ⟨host_of (by decide +kernel), by decide +kernel⟩, ⟨host_of (by decide +kernel), by decide +kernel⟩,
    ⟨host_of (by decide +kernel), by decide +kernel⟩, ⟨host_of (by decide +kernel), by decide +kernel⟩⟩

set_option maxRecDepth 100000 in
theorem witness_WritesChangeOnlyWhatTheyName :
    QuietMeets up 0x0800 (req (toLE 8 0x1000 ++ toLE 4 3 ++ zeros 4 ++ [1, 2, 3])) (fun c u =>
      let a := fieldAt c.input 0 8
      let n := fieldAt c.input 8 4
      16 ≤ c.input.length ∧ (c.input.drop 16).length = n ∧ zerosAt c.input 12 4 = true ∧
        u.owns c.hdr.partition a (max n 1) = true ∧ u.guarded c.hdr.partition a n (u.hotAreas c.hdr.partition) = false ∧
        u.cxlMissing a n = none ∧ u.partialUe a n = false ∧
        (burstsOf a n).all (fun b => burstWhole a n b || !u.ce.contains b) = true) ∧
    (let b : State := { net with now := max net.now 100 }
     net.acts 100 = true ∧ net.quiet 100 = true ∧ net.qp? 0 = some (pair 0) ∧ (pair 0).error = false ∧ (pair 0).opens 77 = true ∧
      b.memOpen (pair 0).partition (pair 0).ctx 0x1000 5 = true ∧ net.partialUe 0x1000 5 = false ∧
      (burstsOf 0x1000 5).all (fun b => burstWhole 0x1000 5 b || !net.ce.contains b) = true) ∧
    (up.acts 100 = true ∧ up.quiet 100 = true ∧ inCsr LTH_STALL_LIMIT = true ∧ LTH_STALL_LIMIT % 8 = 0 ∧
      prtOwner LTH_STALL_LIMIT = none ∧ (up.specialWrite LTH_STALL_LIMIT 7).isNone = true ∧
      (up.arrayWrite .management LTH_STALL_LIMIT 7).isNone = true ∧ (regDesc LTH_STALL_LIMIT).isSome = true) := by
  exact ⟨⟨host_of (by decide +kernel), by decide +kernel⟩, by decide +kernel, by decide +kernel⟩

/-- A request whose header is as given. -/
def header (version flags : BitVec 8) (status : BitVec 16) (part svc : Nat) : Req :=
  ⟨0, version, flags, status, part, svc, 0, 0, 7, 0, 32, [], []⟩

/-- Intake of ECHO refuses a request with a status. -/
def refusedWith (r : Req) (st : Nat) : Bool :=
  up.acts 100 && ((up.begun 100).qp? 0).any (fun q => requestPacket r && q.hears r &&
    ((up.begun 100).listen 0).intakeRefusal q 0x0102 r == some st && (r.partition == q.partition || st == stBadPartition)) &&
    lengthRefusal r (itemsBefore 513 (extOf r)) == none

theorem witness_RefusedRequestsHaveNoOtherEffect :
    (Instr.echo 100 (header 0x10 0 0 0 0)).carries = some (0x0102, header 0x10 0 0 0 0) ∧
    refusedWith (header 0x11 0 0 0 0) stBadVersion = true ∧ refusedWith (header 0x10 0x10 0 0 0) stReservedNonzero = true ∧
    refusedWith (header 0x10 0 1 0 0) stReservedNonzero = true ∧ refusedWith (header 0x10 0 0 1 0) stBadPartition = true ∧
    refusedWith (header 0x10 0 0 0 3) stBadServiceClass = true ∧ refusedWith (header 0x10 0 0 0 2) stBadServiceClass = true := by
  decide +kernel

theorem witness_RegionsInterleave : up.inRegion 0 0x1234 1 = true ∧ up.inRegion 0 0xFFFF_FFFF 1 = true := by decide +kernel

theorem witness_VisitedNodesStayVisited : (({} : Walk).visit 5).visited 5 = true := by decide +kernel

theorem witness_MeasurementsExtendTheirRegister :
    Canonical State.reset ∧ State.reset.sec.mlog.length < 4096 ∧
      4096 ≤ ({ State.reset with sec := { mlog := List.replicate 4096 [] } } : State).sec.mlog.length :=
  ⟨reset_canonical, by decide, Nat.le_of_eq List.length_replicate.symm⟩

theorem witness_RetryHintsOfMissingFunctions :
    ((regs up [(BOOT_ETA 3, 2 ^ 64 - 1)]).raw (BOOT_ETA 3)).toNat = 2 ^ 64 - 1 ∧ ((regs up [(BOOT_ETA 3, 0)]).raw (BOOT_ETA 3)).toNat = 0 ∧
      ((regs up [(BOOT_ETA 3, 12345)]).raw (BOOT_ETA 3)).toNat = 12345 := by
  decide +kernel


/-! Ill-formed commands, one for each check of `Instr.wf`, which refuses them. -/

/-- Commands of which one operand is out of its range. -/
theorem test_wf_operand_0 :
    ([
      .sessionCloseComplete 0 16384,
      .mergeRepair 0 16,
      .mergePublish 0 16,
      .mergeReclaim 0 16,
      .indexUnloadComplete 0 16 0,
      .indexUnloadComplete 0 0 64,
      .tableDrainComplete 0 4096,
      .migrationCopyComplete 0 4096 0,
      .migrationCopyComplete 0 0 0x10000000000,
      .turnoverComplete 0 16 0,
      .turnoverComplete 0 0 65536,
      .switchQuiesceTimeout 0 16,
      .contextSwitchComplete 0 16,
      .clusterRestart 0 4,
      .activationReadyTimeout 0 4,
      .telemetryWindowEnd 0 0x100000000,
      .packetDiscard 0 16384 [],
      .replyPacketReceive 0 65536 (req []),
      .fragmentReceive 0 65536 (req []),
      .eventCoalesceTimer 0 (.sequence (2 ^ 32)),
      .eventCoalesceTimer 0 (.telemetry (2 ^ 32)),
      .workQueueTake 0 20,
      .searchTake 0 16,
      .walkerFault 0 72,
      .distList 0 256 (desc 0 0 [] []),
      .distList 0 0 ⟨zeros 63, []⟩,
      .distScan 0 256 (desc 0 0 [] []),
      .distScan 0 0 ⟨zeros 63, []⟩,
      .qload 0 256 (desc 0 0 [] []),
      .qload 0 0 ⟨zeros 63, []⟩,
      .decode 0 256 (desc 0 0 [] []),
      .decode 0 0 ⟨zeros 63, []⟩,
      .hist 0 256 (desc 0 0 [] []),
      .hist 0 0 ⟨zeros 63, []⟩,
      .keyCompact 0 256 (desc 0 0 [] []),
      .keyCompact 0 0 ⟨zeros 63, []⟩,
      .gather 0 256 (desc 0 0 [] []),
      .gather 0 0 ⟨zeros 63, []⟩,
      .scatterAdd 0 256 (desc 0 0 [] []),
      .scatterAdd 0 0 ⟨zeros 63, []⟩,
      .rowSgd 0 256 (desc 0 0 [] []),
      .rowSgd 0 0 ⟨zeros 63, []⟩,
      .rowAdagrad 0 256 (desc 0 0 [] []),
      .rowAdagrad 0 0 ⟨zeros 63, []⟩,
      .rowAdam 0 256 (desc 0 0 [] [])] : List Instr).all (fun i => !i.wf) = true := by decide +kernel

/-- Commands of which one operand is out of its range. -/
theorem test_wf_operand_1 :
    ([
      .rowAdam 0 0 ⟨zeros 63, []⟩,
      .pset 0 256 (desc 0 0 [] []),
      .pset 0 0 ⟨zeros 63, []⟩,
      .scrub 0 256 (desc 0 0 [] []),
      .scrub 0 0 ⟨zeros 63, []⟩,
      .backgroundScrub 0 256 0,
      .backgroundScrub 0 0 0x100000000,
      .spnCopy 0 256 (desc 0 0 [] []),
      .spnCopy 0 0 ⟨zeros 63, []⟩,
      .groupFetchIssue 0 16 [],
      .groupFetchIssue 0 0 [.slot 56 .weight 0],
      .runnerCheck 0 16,
      .tileFillComplete 0 16 0 0 (.way 0x0F00_0000_0000),
      .tileFillComplete 0 0 0 0 (.slot 56 .weight 0),
      .tileFillComplete 0 0 0 0 (.slot 0 .weight 32),
      .tileFillComplete 0 0 0 0 (.slot 0 .input 32),
      .tileFillComplete 0 0 0 0 (.slot 0 .output 16),
      .tileFillComplete 0 0 0 0 (.way 0x0EFF_FFFF_FFFF),
      .tileFillComplete 0 0 0 0 (.way 0x0F00_0C00_0000),
      .tierPolicyEvict 0 16,
      .evictRetry 0 16 0,
      .evictRetry 0 0 18446744073709551616,
      .kernelStart 0 16 0,
      .kernelStart 0 0 56,
      .nop 0 56 (BitVec.ofNat 128 (0x0 * 2 ^ 120)),
      .nop 0 0 (BitVec.ofNat 128 (0x7F * 2 ^ 120)),
      .endKernel 0 56 (BitVec.ofNat 128 (0x1 * 2 ^ 120)),
      .endKernel 0 0 (BitVec.ofNat 128 (0x7F * 2 ^ 120)),
      .fenceInstr 0 56 (BitVec.ofNat 128 (0x2 * 2 ^ 120)),
      .fenceInstr 0 0 (BitVec.ofNat 128 (0x7F * 2 ^ 120)),
      .release 0 56 (BitVec.ofNat 128 (0x3 * 2 ^ 120)),
      .release 0 0 (BitVec.ofNat 128 (0x7F * 2 ^ 120)),
      .layer 0 56 (BitVec.ofNat 128 (0x4 * 2 ^ 120)),
      .layer 0 0 (BitVec.ofNat 128 (0x7F * 2 ^ 120)),
      .drain 0 56 (BitVec.ofNat 128 (0x5 * 2 ^ 120)),
      .drain 0 0 (BitVec.ofNat 128 (0x7F * 2 ^ 120)),
      .drainComplete 0 56 0,
      .drainComplete 0 0 16,
      .sendSel 0 56 (BitVec.ofNat 128 (0x6 * 2 ^ 120)),
      .sendSel 0 0 (BitVec.ofNat 128 (0x7F * 2 ^ 120)),
      .matmul 0 56 (BitVec.ofNat 128 (0x10 * 2 ^ 120)),
      .matmul 0 0 (BitVec.ofNat 128 (0x7F * 2 ^ 120)),
      .vector 0 56 (BitVec.ofNat 128 (0x20 * 2 ^ 120)),
      .vector 0 0 (BitVec.ofNat 128 (0x7F * 2 ^ 120)),
      .slotWriteComplete 0 56 .weight 0] : List Instr).all (fun i => !i.wf) = true := by decide +kernel

/-- Commands of which one operand is out of its range. -/
theorem test_wf_operand_2 :
    ([
      .slotWriteComplete 0 0 .weight 32,
      .latheStall 0 56,
      .latheIdleGate 0 56,
      .latheBufferError 0 56 .bufferCorrected .weight 0 0,
      .latheBufferError 0 0 .bufferCorrected .weight 32 0,
      .latheBufferError 0 0 .bufferCorrected .weight 0 0x100000,
      .stepBoundary 0 16,
      .seqTableError 0 32768 .corrected,
      .selectionUnitFault 0 8,
      .tokenizerEngineFault 0 4,
      .applyRegs 0 .firmware 16,
      .partitionTeardown 0 .firmware 16,
      .requestConfiguring 0 .firmware 16,
      .requestUp 0 .firmware 16,
      .requestDown 0 .firmware 16,
      .contextTeardown 0 .firmware 16 0,
      .contextTeardown 0 .firmware 0 16,
      .watchdogExpiry 0 20,
      .coreException 0 20 .busError,
      .coreRestart 0 20,
      .watchdogKick 0 20,
      .interruptEvent 0 1024,
      .interruptGroupTimer 0 64,
      .interruptClaim 0 16,
      .interruptComplete 0 16 0,
      .interruptComplete 0 0 1024,
      .interruptPendSet 0 16 0,
      .interruptPendClr 0 16 0,
      .rocePacketReceive 0 (packet 16384),
      .rdmaWriteReceive 0 16384 0 0 [],
      .rdmaWriteReceive 0 0 0x100000000 0 [],
      .rdmaWriteReceive 0 0 0 0x1000000000000 [],
      .rdmaReadReceive 0 16384 0 0 0,
      .rdmaReadReceive 0 0 0x100000000 0 0,
      .rdmaReadReceive 0 0 0 0x1000000000000 0,
      .rdmaReadReceive 0 0 0 0 0x100000000,
      .rnrNakReceive 0 16384 0,
      .rnrNakReceive 0 0 0x100000000,
      .roceNakReceive 0 16384 .remoteAccess,
      .localAckTimeout 0 16384,
      .cnpReceive 0 16384,
      .rateIncreaseWindow 0 16384,
      .frameTransmit 0 8 0,
      .frameTransmit 0 0 8,
      .gateEntryBoundary 0 8] : List Instr).all (fun i => !i.wf) = true := by decide +kernel

/-- Commands of which one operand is out of its range. -/
theorem test_wf_operand_3 :
    ([
      .gateConfigChange 0 8,
      .gateConfigInstall 0 8,
      .arpRequest 0 9 ⟨[], [], []⟩,
      .neighbourSolicitation 0 9 ⟨[], [], []⟩,
      .icmpEchoRequest 0 9 ⟨[], [], []⟩,
      .frameDiscard 0 9 0,
      .frameDiscard 0 0 0x100000000,
      .csrWrite 0 (.core 20) 0 0,
      .csrWrite 0 .management 0x1000000000000 0,
      .breakoutChange 0 4 0,
      .linkChange 0 9 .down,
      .ptpAnnounceReceive 0 9 0,
      .cxlLinkUp 0 4 ⟨true, 16, 1, true⟩,
      .cxlTrainRetry 0 4,
      .cxlLinkExit 0 4,
      .cxlLinkRecover 0 4 0 .active,
      .cxlLinkRecover 0 0 17 .active,
      .cxlRecoveryTimeout 0 4,
      .rearm 0 4,
      .ideIntegrityFailure 0 4 0,
      .ideIntegrityFailure 0 0 0x1000000000000,
      .ideKeyRefresh 0 4,
      .inputUndervoltage 0 65536 0,
      .inputOvervoltage 0 65536 0,
      .railFault 0 12 0,
      .powerWindowEnd 0 65536,
      .phaseFault 0 34,
      .railOffsetWrite 0 12 0,
      .railOffsetWrite 0 0 16,
      .i3cCapWWrite 0 65536,
      .spareEntryTestComplete 0 56 true,
      .fwCopyMoveComplete 0 8,
      .pchMigrationSwitch 0 8,
      .rollingTest 0 .lathe 72,
      .rollingTestComplete 0 .lathe 72 true,
      .walkerSwapTimeout 0 72,
      .binChange 0 4,
      .hbmStackTrained 0 8 true,
      .unknownOpcodeRequest 0 65536 (req []),
      .illegalInstruction 0 56 (BitVec.ofNat 128 (0x7F * 2 ^ 120)),
      .illegalInstruction 0 0 0,
      .rnrTimerExpiry 0 16384,
      .farContextKvFetchComplete 0 16 0,
      .farContextKvFetchComplete 0 0 18446744073709551616,
      .phaseReenable 0 34 true] : List Instr).all (fun i => !i.wf) = true := by decide +kernel

/-- Commands of which one operand is out of its range. -/
theorem test_wf_operand_4 :
    ([
      .bootLimitMissed 0 64] : List Instr).all (fun i => !i.wf) = true := by decide +kernel

/-- Request packets whose header does not fit its widths, or whose length is not that of their bytes. -/
theorem test_wf_request :
    [{ req [] with qp := 16384 }, { req [] with partition := 256 }, { req [] with svc := 256 }, { req [] with extLen := 65536 },
      { req [] with payLen := 2 ^ 32 }, { req [] with tag := 2 ^ 64 }, { req [] with deadline := 2 ^ 64 },
      { req [] with msgLen := 33 }].all (fun r => !Req.wf r) = true := by decide +kernel

/-- Commands whose request packet is ill-formed. -/
theorem test_wf_req_0 :
    ([
      .sessionOpen 0 { req [] with qp := 16384 },
      .sessionClose 0 { req [] with qp := 16384 },
      .echo 0 { req [] with qp := 16384 },
      .setEventCoalesce 0 { req [] with qp := 16384 },
      .readinessQuery 0 { req [] with qp := 16384 },
      .search 0 { req [] with qp := 16384 },
      .searchShard 0 { req [] with qp := 16384 },
      .searchBatch 0 { req [] with qp := 16384 },
      .indexInsert 0 { req [] with qp := 16384 },
      .indexDelete 0 { req [] with qp := 16384 },
      .indexLoad 0 { req [] with qp := 16384 },
      .indexMergeStart 0 { req [] with qp := 16384 },
      .indexEpochQuery 0 { req [] with qp := 16384 },
      .shardMapSet 0 { req [] with qp := 16384 },
      .vectorFetch 0 { req [] with qp := 16384 },
      .passageFetch 0 { req [] with qp := 16384 },
      .indexUnload 0 { req [] with qp := 16384 },
      .embed 0 { req [] with qp := 16384 },
      .rescore 0 { req [] with qp := 16384 },
      .rerank 0 { req [] with qp := 16384 },
      .rewardScore 0 { req [] with qp := 16384 },
      .generate 0 { req [] with qp := 16384 },
      .ragGenerate 0 { req [] with qp := 16384 },
      .seqAppend 0 { req [] with qp := 16384 },
      .seqCancel 0 { req [] with qp := 16384 },
      .seqStatus 0 { req [] with qp := 16384 },
      .seqSetPriority 0 { req [] with qp := 16384 },
      .prefixStore 0 { req [] with qp := 16384 },
      .prefixRelease 0 { req [] with qp := 16384 },
      .embGather 0 { req [] with qp := 16384 },
      .embScatterAdd 0 { req [] with qp := 16384 },
      .embUpdate 0 { req [] with qp := 16384 },
      .embTableCreate 0 { req [] with qp := 16384 },
      .embTableReplace 0 { req [] with qp := 16384 },
      .embHotsetSet 0 { req [] with qp := 16384 },
      .embTableDrop 0 { req [] with qp := 16384 },
      .selectTopk 0 { req [] with qp := 16384 },
      .argmax 0 { req [] with qp := 16384 },
      .selectTopp 0 { req [] with qp := 16384 },
      .tokenize 0 { req [] with qp := 16384 },
      .detokenize 0 { req [] with qp := 16384 },
      .vocabLoad 0 { req [] with qp := 16384 },
      .grammarLoad 0 { req [] with qp := 16384 },
      .grammarUnload 0 { req [] with qp := 16384 },
      .memWrite 0 { req [] with qp := 16384 }] : List Instr).all (fun i => !i.wf) = true := by decide +kernel

/-- Commands whose request packet is ill-formed. -/
theorem test_wf_req_1 :
    ([
      .memRead 0 { req [] with qp := 16384 },
      .tierPromote 0 { req [] with qp := 16384 },
      .tierEvict 0 { req [] with qp := 16384 },
      .tierPolicySet 0 { req [] with qp := 16384 },
      .tileDirQuery 0 { req [] with qp := 16384 },
      .modelLoad 0 { req [] with qp := 16384 },
      .modelUnload 0 { req [] with qp := 16384 },
      .variantSet 0 { req [] with qp := 16384 },
      .variantClear 0 { req [] with qp := 16384 },
      .versionTurnover 0 { req [] with qp := 16384 },
      .learnStep 0 { req [] with qp := 16384 },
      .optimizerStep 0 { req [] with qp := 16384 },
      .gradAllreduce 0 { req [] with qp := 16384 },
      .partQuery 0 { req [] with qp := 16384 },
      .contextSuspend 0 { req [] with qp := 16384 },
      .contextResume 0 { req [] with qp := 16384 },
      .planAdmit 0 { req [] with qp := 16384 },
      .mbHello 0 { req [] with qp := 16384 },
      .mbMessage 0 { req [] with qp := 16384 },
      .fwInfo 0 { req [] with qp := 16384 },
      .fwStage 0 { req [] with qp := 16384 },
      .coreStatus 0 { req [] with qp := 16384 },
      .traceSet 0 { req [] with qp := 16384 },
      .logMark 0 { req [] with qp := 16384 },
      .activationCancel 0 { req [] with qp := 16384 },
      .fwActivate 0 { req [] with qp := 16384 },
      .attestReport 0 { req [] with qp := 16384 },
      .measureLogRead 0 { req [] with qp := 16384 },
      .ownerClaim 0 { req [] with qp := 16384 },
      .protectPropose 0 { req [] with qp := 16384 },
      .protectCosign 0 { req [] with qp := 16384 },
      .telemetryRead 0 { req [] with qp := 16384 },
      .countersRead 0 { req [] with qp := 16384 },
      .telemetrySubscribe 0 { req [] with qp := 16384 },
      .logRead 0 { req [] with qp := 16384 },
      .replyPacketReceive 0 0 { req [] with qp := 16384 },
      .fragmentReceive 0 0 { req [] with qp := 16384 },
      .unknownOpcodeRequest 0 0 { req [] with qp := 16384 }] : List Instr).all (fun i => !i.wf) = true := by decide +kernel

/-- Commands whose stamp is not a device time. -/
theorem test_wf_stamp_0 :
    ([
      .sessionOpen (2 ^ 64) (req []),
      .sessionClose (2 ^ 64) (req []),
      .sessionCloseComplete (2 ^ 64) 0,
      .echo (2 ^ 64) (req []),
      .setEventCoalesce (2 ^ 64) (req []),
      .readinessQuery (2 ^ 64) (req []),
      .search (2 ^ 64) (req []),
      .searchShard (2 ^ 64) (req []),
      .searchBatch (2 ^ 64) (req []),
      .indexInsert (2 ^ 64) (req []),
      .indexDelete (2 ^ 64) (req []),
      .indexLoad (2 ^ 64) (req []),
      .indexMergeStart (2 ^ 64) (req []),
      .mergeRepair (2 ^ 64) 0,
      .mergePublish (2 ^ 64) 0,
      .mergeReclaim (2 ^ 64) 0,
      .indexEpochQuery (2 ^ 64) (req []),
      .shardMapSet (2 ^ 64) (req []),
      .vectorFetch (2 ^ 64) (req []),
      .passageFetch (2 ^ 64) (req []),
      .indexUnload (2 ^ 64) (req []),
      .indexUnloadComplete (2 ^ 64) 0 0,
      .embed (2 ^ 64) (req []),
      .rescore (2 ^ 64) (req []),
      .rerank (2 ^ 64) (req []),
      .rewardScore (2 ^ 64) (req []),
      .generate (2 ^ 64) (req []),
      .ragGenerate (2 ^ 64) (req []),
      .seqAppend (2 ^ 64) (req []),
      .seqCancel (2 ^ 64) (req []),
      .seqStatus (2 ^ 64) (req []),
      .seqSetPriority (2 ^ 64) (req []),
      .prefixStore (2 ^ 64) (req []),
      .prefixRelease (2 ^ 64) (req []),
      .embGather (2 ^ 64) (req []),
      .embScatterAdd (2 ^ 64) (req []),
      .embUpdate (2 ^ 64) (req []),
      .embTableCreate (2 ^ 64) (req []),
      .embTableReplace (2 ^ 64) (req []),
      .tableDrainComplete (2 ^ 64) 0,
      .embHotsetSet (2 ^ 64) (req []),
      .migrationCopyComplete (2 ^ 64) 0 0,
      .migrationLogResume (2 ^ 64) 0,
      .paramSlotClaim (2 ^ 64) 0,
      .embTableDrop (2 ^ 64) (req [])] : List Instr).all (fun i => !i.wf) = true := by decide +kernel

/-- Commands whose stamp is not a device time. -/
theorem test_wf_stamp_1 :
    ([
      .selectTopk (2 ^ 64) (req []),
      .argmax (2 ^ 64) (req []),
      .selectTopp (2 ^ 64) (req []),
      .selectionTake (2 ^ 64),
      .tokenize (2 ^ 64) (req []),
      .detokenize (2 ^ 64) (req []),
      .vocabLoad (2 ^ 64) (req []),
      .grammarLoad (2 ^ 64) (req []),
      .grammarUnload (2 ^ 64) (req []),
      .memWrite (2 ^ 64) (req []),
      .memRead (2 ^ 64) (req []),
      .tierPromote (2 ^ 64) (req []),
      .tierEvict (2 ^ 64) (req []),
      .tierPolicySet (2 ^ 64) (req []),
      .tileDirQuery (2 ^ 64) (req []),
      .modelLoad (2 ^ 64) (req []),
      .modelUnload (2 ^ 64) (req []),
      .variantSet (2 ^ 64) (req []),
      .variantClear (2 ^ 64) (req []),
      .versionTurnover (2 ^ 64) (req []),
      .turnoverComplete (2 ^ 64) 0 0,
      .learnStep (2 ^ 64) (req []),
      .optimizerStep (2 ^ 64) (req []),
      .gradAllreduce (2 ^ 64) (req []),
      .allreduceHop (2 ^ 64) 0,
      .partQuery (2 ^ 64) (req []),
      .contextSuspend (2 ^ 64) (req []),
      .contextResume (2 ^ 64) (req []),
      .switchQuiesceTimeout (2 ^ 64) 0,
      .contextSwitchComplete (2 ^ 64) 0,
      .planAdmit (2 ^ 64) (req []),
      .mbHello (2 ^ 64) (req []),
      .mbMessage (2 ^ 64) (req []),
      .fwInfo (2 ^ 64) (req []),
      .fwStage (2 ^ 64) (req []),
      .coreStatus (2 ^ 64) (req []),
      .traceSet (2 ^ 64) (req []),
      .logMark (2 ^ 64) (req []),
      .activationCancel (2 ^ 64) (req []),
      .fwActivate (2 ^ 64) (req []),
      .normalHoldEnd (2 ^ 64),
      .clusterRestart (2 ^ 64) 0,
      .activationReadyTimeout (2 ^ 64) 0,
      .lkgFlashWrite (2 ^ 64),
      .attestReport (2 ^ 64) (req [])] : List Instr).all (fun i => !i.wf) = true := by decide +kernel

/-- Commands whose stamp is not a device time. -/
theorem test_wf_stamp_2 :
    ([
      .measureLogRead (2 ^ 64) (req []),
      .ownerClaim (2 ^ 64) (req []),
      .protectPropose (2 ^ 64) (req []),
      .protectCosign (2 ^ 64) (req []),
      .proposalExpiry (2 ^ 64),
      .telemetryRead (2 ^ 64) (req []),
      .countersRead (2 ^ 64) (req []),
      .telemetrySubscribe (2 ^ 64) (req []),
      .telemetryWindowEnd (2 ^ 64) 0,
      .logRead (2 ^ 64) (req []),
      .packetDiscard (2 ^ 64) 0 [],
      .replyPacketReceive (2 ^ 64) 0 (req []),
      .fragmentReceive (2 ^ 64) 0 (req []),
      .refFetchComplete (2 ^ 64) 0 .module,
      .fenceRelease (2 ^ 64) 0,
      .commandDeadline (2 ^ 64) 0,
      .eventCoalesceTimer (2 ^ 64) (.sequence 1),
      .workQueueTake (2 ^ 64) 0,
      .searchTake (2 ^ 64) 0,
      .walkExpansion (2 ^ 64) 0,
      .sideScanBatch (2 ^ 64) [],
      .shardHedgeTimeout (2 ^ 64) 0 0,
      .shardMerge (2 ^ 64) 0,
      .walkerFault (2 ^ 64) 0,
      .distList (2 ^ 64) 0 (desc 0 0 [] []),
      .distScan (2 ^ 64) 0 (desc 0 0 [] []),
      .qload (2 ^ 64) 0 (desc 0 0 [] []),
      .decode (2 ^ 64) 0 (desc 0 0 [] []),
      .hist (2 ^ 64) 0 (desc 0 0 [] []),
      .keyCompact (2 ^ 64) 0 (desc 0 0 [] []),
      .gather (2 ^ 64) 0 (desc 0 0 [] []),
      .scatterAdd (2 ^ 64) 0 (desc 0 0 [] []),
      .rowSgd (2 ^ 64) 0 (desc 0 0 [] []),
      .rowAdagrad (2 ^ 64) 0 (desc 0 0 [] []),
      .rowAdam (2 ^ 64) 0 (desc 0 0 [] []),
      .pset (2 ^ 64) 0 (desc 0 0 [] []),
      .scrub (2 ^ 64) 0 (desc 0 0 [] []),
      .backgroundScrub (2 ^ 64) 0 0,
      .spnCopy (2 ^ 64) 0 (desc 0 0 [] []),
      .codebookLoad (2 ^ 64) 0,
      .spindleAbort (2 ^ 64) 0,
      .spnErrLogRead (2 ^ 64),
      .groupFetchIssue (2 ^ 64) 0 [],
      .runnerCheck (2 ^ 64) 0,
      .tileFillComplete (2 ^ 64) 0 0 0 (.way 0x0F00_0000_0000)] : List Instr).all (fun i => !i.wf) = true := by decide +kernel

/-- Commands whose stamp is not a device time. -/
theorem test_wf_stamp_3 :
    ([
      .tierPolicyEvict (2 ^ 64) 0,
      .evictRetry (2 ^ 64) 0 0,
      .kernelStart (2 ^ 64) 0 0,
      .nop (2 ^ 64) 0 (BitVec.ofNat 128 (0x0 * 2 ^ 120)),
      .endKernel (2 ^ 64) 0 (BitVec.ofNat 128 (0x1 * 2 ^ 120)),
      .fenceInstr (2 ^ 64) 0 (BitVec.ofNat 128 (0x2 * 2 ^ 120)),
      .release (2 ^ 64) 0 (BitVec.ofNat 128 (0x3 * 2 ^ 120)),
      .layer (2 ^ 64) 0 (BitVec.ofNat 128 (0x4 * 2 ^ 120)),
      .drain (2 ^ 64) 0 (BitVec.ofNat 128 (0x5 * 2 ^ 120)),
      .drainComplete (2 ^ 64) 0 0,
      .sendSel (2 ^ 64) 0 (BitVec.ofNat 128 (0x6 * 2 ^ 120)),
      .matmul (2 ^ 64) 0 (BitVec.ofNat 128 (0x10 * 2 ^ 120)),
      .vector (2 ^ 64) 0 (BitVec.ofNat 128 (0x20 * 2 ^ 120)),
      .slotWriteComplete (2 ^ 64) 0 .weight 0,
      .latheStall (2 ^ 64) 0,
      .latheIdleGate (2 ^ 64) 0,
      .wakeGrant (2 ^ 64),
      .latheBufferError (2 ^ 64) 0 .bufferCorrected .weight 0 0,
      .lthErrLogRead (2 ^ 64),
      .stepBoundary (2 ^ 64) 0,
      .seqTableError (2 ^ 64) 0 .corrected,
      .selectionUnitFault (2 ^ 64) 0,
      .tokenizerEngineFault (2 ^ 64) 0,
      .applyRegs (2 ^ 64) .firmware 0,
      .partitionTeardown (2 ^ 64) .firmware 0,
      .requestConfiguring (2 ^ 64) .firmware 0,
      .requestUp (2 ^ 64) .firmware 0,
      .requestDown (2 ^ 64) .firmware 0,
      .contextTeardown (2 ^ 64) .firmware 0 0,
      .watchdogExpiry (2 ^ 64) 0,
      .coreException (2 ^ 64) 0 .busError,
      .coreRestart (2 ^ 64) 0,
      .watchdogKick (2 ^ 64) 0,
      .fwUpdateStage (2 ^ 64) 0,
      .interruptEvent (2 ^ 64) 0,
      .interruptGroupTimer (2 ^ 64) 0,
      .interruptClaim (2 ^ 64) 0,
      .interruptComplete (2 ^ 64) 0 0,
      .interruptPendSet (2 ^ 64) 0 0,
      .interruptPendClr (2 ^ 64) 0 0,
      .rocePacketReceive (2 ^ 64) (packet 0),
      .rdmaWriteReceive (2 ^ 64) 0 0 0 [],
      .rdmaReadReceive (2 ^ 64) 0 0 0 0,
      .rnrNakReceive (2 ^ 64) 0 0,
      .roceNakReceive (2 ^ 64) 0 .remoteAccess] : List Instr).all (fun i => !i.wf) = true := by decide +kernel

/-- Commands whose stamp is not a device time. -/
theorem test_wf_stamp_4 :
    ([
      .localAckTimeout (2 ^ 64) 0,
      .cnpReceive (2 ^ 64) 0,
      .rateIncreaseWindow (2 ^ 64) 0,
      .frameTransmit (2 ^ 64) 0 0,
      .gateEntryBoundary (2 ^ 64) 0,
      .gateConfigChange (2 ^ 64) 0,
      .gateConfigInstall (2 ^ 64) 0,
      .meterRefresh (2 ^ 64),
      .queueTelemetrySample (2 ^ 64),
      .arpRequest (2 ^ 64) 0 ⟨[], [], []⟩,
      .neighbourSolicitation (2 ^ 64) 0 ⟨[], [], []⟩,
      .icmpEchoRequest (2 ^ 64) 0 ⟨[], [], []⟩,
      .frameDiscard (2 ^ 64) 0 0,
      .mgmtRead (2 ^ 64) (datagram []),
      .mgmtWrite (2 ^ 64) (datagram []),
      .csrWrite (2 ^ 64) .management 0 0,
      .breakoutChange (2 ^ 64) 0 0,
      .qpCreate (2 ^ 64),
      .qpDestroy (2 ^ 64),
      .qpReadBack (2 ^ 64),
      .linkChange (2 ^ 64) 0 .down,
      .mgmtLinkFallback (2 ^ 64),
      .ptpAnnounceReceive (2 ^ 64) 0 0,
      .ptpExchange (2 ^ 64) 0,
      .announceTimeout (2 ^ 64),
      .ppsEdge (2 ^ 64),
      .ppsLossTimeout (2 ^ 64),
      .ptpUnitSwap (2 ^ 64),
      .cxlLinkUp (2 ^ 64) 0 ⟨true, 16, 1, true⟩,
      .cxlTrainRetry (2 ^ 64) 0,
      .cxlLinkExit (2 ^ 64) 0,
      .cxlLinkRecover (2 ^ 64) 0 0 .active,
      .cxlRecoveryTimeout (2 ^ 64) 0,
      .rearm (2 ^ 64) 0,
      .ideIntegrityFailure (2 ^ 64) 0 0,
      .ideKeyRefresh (2 ^ 64) 0,
      .powerUp (2 ^ 64),
      .powerDown (2 ^ 64),
      .startFailure (2 ^ 64),
      .inputUndervoltage (2 ^ 64) 0 0,
      .inputOvervoltage (2 ^ 64) 0 0,
      .railFault (2 ^ 64) 0 0,
      .modRstNAssert (2 ^ 64) 0,
      .moduleReset (2 ^ 64),
      .refclkLoss (2 ^ 64) 0] : List Instr).all (fun i => !i.wf) = true := by decide +kernel

/-- Commands whose stamp is not a device time. -/
theorem test_wf_stamp_5 :
    ([
      .powerWindowEnd (2 ^ 64) 0,
      .powerEmergency (2 ^ 64) (.busLow 0),
      .powerEmergencyClear (2 ^ 64),
      .thermalSample (2 ^ 64) [],
      .phaseFault (2 ^ 64) 0,
      .railOffsetWrite (2 ^ 64) 0 0,
      .i3cCapWWrite (2 ^ 64) 0,
      .i3cAlertCauseRead (2 ^ 64),
      .presNChange (2 ^ 64) true,
      .sealBreak (2 ^ 64),
      .faultReport (2 ^ 64) uncorrected,
      .spareEntryTestComplete (2 ^ 64) 0 true,
      .fwCopyMoveComplete (2 ^ 64) 0,
      .pchMigrationSwitch (2 ^ 64) 0,
      .rollingTest (2 ^ 64) .lathe 0,
      .rollingTestComplete (2 ^ 64) .lathe 0 true,
      .walkerSwapTimeout (2 ^ 64) 0,
      .caliperMeasure (2 ^ 64) [],
      .binChange (2 ^ 64) 0,
      .hoursUpdate (2 ^ 64),
      .rotSelfTest (2 ^ 64) true,
      .bootSequence (2 ^ 64),
      .bootImageFetch (2 ^ 64) .noLease,
      .dhcpRetransmit (2 ^ 64),
      .tftpRetransmit (2 ^ 64),
      .bootBudgetExpiry (2 ^ 64),
      .bootFetchRetry (2 ^ 64),
      .hbmStackTrained (2 ^ 64) 0 true,
      .bootFaultLogRead (2 ^ 64),
      .unknownOpcodeRequest (2 ^ 64) 0 (req []),
      .illegalInstruction (2 ^ 64) 0 (BitVec.ofNat 128 (0x7F * 2 ^ 120)),
      .rnrTimerExpiry (2 ^ 64) 0,
      .fetchBudgetEnd (2 ^ 64) 0,
      .farContextKvFetchComplete (2 ^ 64) 0 0,
      .tokenizationTake (2 ^ 64),
      .dirFlush (2 ^ 64),
      .standbyPowerOn (2 ^ 64),
      .standbyPowerLoss (2 ^ 64),
      .thermTripRelease (2 ^ 64),
      .sealRestored (2 ^ 64),
      .phaseReenable (2 ^ 64) 0 true,
      .bootLimitMissed (2 ^ 64) 0] : List Instr).all (fun i => !i.wf) = true := by decide +kernel

/-! Values that the spec states. -/

/-- The block has no instruction encoding. -/
theorem test_no_word_is_a_command : decodeTableWord 32 5 = none ∧ (State.reset.withFetchWord 32 5) = State.reset := by
  constructor <;> rfl

/-- The worked example of spec/06, "Selection": SELECT_TOPP of nine BF16 keys with p = 0.9. -/
theorem test_topp_example :
    (selectToppKeys 4 9 0x3F66_6666 true false ([0x3E80, 0x3D80, 0x7FC0, 0x3EA0, 0x3E00, 0x3D80, 0x8000, 0x3E40, 0].zipIdx.map
      (fun e => (e.2, e.1, 0)))).map (fun r => (r.keys.map (fun k => k.id), r.dropped, r.sel, r.out)) =
    some ([3, 0, 7, 4, 1], 1, 0x3F70_0000, 0x3D80_0000) := by decide +kernel

/-- The worked example of spec/06, "Prompt assembly": what is packed into 14,300 tokens. -/
theorem test_packing_example :
    (let ps : List Passage := [⟨false, false, List.replicate 1800 0⟩, ⟨false, false, List.replicate 2100 0⟩, ⟨false, true, []⟩,
       ⟨false, false, List.replicate 1950 0⟩, ⟨false, false, List.replicate 4000 0⟩, ⟨false, false, List.replicate 1500 0⟩,
       ⟨false, false, List.replicate 2300 0⟩, ⟨false, false, List.replicate 900 0⟩, ⟨false, false, List.replicate 1200 0⟩]
     let r := pack ⟨16384, 0, 1, false, true, 256, 84⟩ 4 14300 {} ps
     (r.packed.map (fun p => p.length), r.cut, r.skipped, r.dropped)) =
    ([1800, 2100, 1950, 4000, 1500, 2300, 622], 1, 1, 0) := by decide +kernel

/-- The streams of spec/10 after R412. -/
theorem test_utf8_examples :
    (utf8Run [] [0xC3, 0x41]).finish.out = [0xEF, 0xBF, 0xBD, 0x41] ∧ (utf8Run [] [0xE2, 0x82]).finish.out = [0xEF, 0xBF, 0xBD] ∧
    (utf8Run [] [0xE2, 0x82]).out = [] ∧ (utf8Run [] [0xE2, 0x82, 0xAC]).out = [0xE2, 0x82, 0xAC] := by decide +kernel

/-- The published test vector of Philox 4×32-10 for counter and key 0 (R345 names the generator; the vector is not the spec's). -/
theorem test_philox_vector : philoxRun 10 0 0 (0, 0, 0, 0) = (0x6627E8D5, 0xE169C58D, 0xBC57AC4C, 0x9B00DBD8) := by decide +kernel

/-- A second uncorrectable event 40 s after the first makes its resource permanent; one exactly 60 s after it opens a new window (the
example after R36, and R614). -/
theorem test_fault_window :
    ((faultReportStep searchDone uncorrected { testing with faults := { tracks := [{ opened with opened := some 0 }] }, now := 40_000_000_000 }).flash.faults
      = [(4, 0, 0)]) ∧
    ((faultReportStep searchDone uncorrected { testing with faults := { tracks := [{ opened with opened := some 0 }] }, now := 60_000_000_000 }).faults.tracks.map
      (fun k => k.opened)) = [some 60_000_000_000] := by decide +kernel

/-- The gate list of the examples of spec/05 and spec/14: class 6 is open from 200,000 to 700,000 of each 1,000,000 ns. -/
def gatedList : State :=
  { regs up [(NET_CTRL, 3), (NET_PORT 0, 2 ^ 20 + 1), (GATE_CTRL 0, 3 * 2 ^ 33 + 1), (GATE_CYCLE 0, 1_000_000 * 2 ^ 32),
      (GATE_OPER 0 0, 0xBF * 2 ^ 56 + 200_000), (GATE_OPER 0 1, 0xC0 * 2 ^ 56 + 500_000), (GATE_OPER 0 2, 0xBF * 2 ^ 56 + 300_000),
      (GGE_SHARD_CFG 0, 100 * 2 ^ 20 + 20 * 2 ^ 8 + 6 * 2 ^ 5 + 2 ^ 4)] with
    qps := [pair 0], egress := [⟨0, 6, 4158, 0, 0, false, 2⟩] }

/-- The worked example of spec/05, "Sharded search": a deadline of 3,000 µs ends the budget at 2,900 µs, and the cutoff is 2,700 µs. -/
theorem test_cutoff_example : gatedList.cutoffOf { hdr := { deadline := 3_000_000 } } = (2_900_000, 2_700_000) := by decide +kernel

/-- The worked example of spec/14, "Gates": a frame of 4,158 bytes occupies 41.78 ns; the second of the reply ends before the gate
closes and is sent, the third would end after it and waits, and is sent once the gate opens again. -/
theorem test_gate_example :
    gatedList.frameTime 0 4158 = 41780 ∧
    (({ gatedList with lineAt := [(0, 2_699_941_780)], now := 2_699_941 } : State).frameReady 0 6).map (fun f => f.2) =
      some (2_699_941_780, 2_699_983_560) ∧
    ({ gatedList with lineAt := [(0, 2_699_983_560)], now := 2_699_983 } : State).frameReady 0 6 = none ∧
    (({ gatedList with lineAt := [(0, 2_699_983_560)], now := 3_200_000 } : State).frameReady 0 6).map (fun f => f.2) =
      some (3_200_000_000, 3_200_041_780) := by decide +kernel

/-- The model of the worked example of spec/12, "Real-time plans": one tier-1 group for each of 24 layers. -/
def planned : Model :=
  { model with fwd := (List.range 24).map (fun k => { tileGroup with first := 64 * k, count := 64, layer := k, stored := 2_998_272 }) }

/-- The partition of the worked example of spec/12, "Real-time plans", with TIER1_RATE in GB/s: sixteen MATMULs, two VECTORs
and END. -/
def planning (rate : Nat) : State :=
  { lat with csr := [(TIER_RSV_BW 0, BitVec.ofNat 64 (rate * 2 ^ 16))], models := [planned], mem := [
      (268435470, 17), (268435471, 16), (268435486, 17), (268435487, 16), (268435502, 17), (268435503, 16), (268435518, 17),
      (268435519, 16), (268435534, 17), (268435535, 16), (268435550, 17), (268435551, 16), (268435566, 17), (268435567, 16),
      (268435582, 17), (268435583, 16), (268435598, 17), (268435599, 16), (268435614, 17), (268435615, 16), (268435630, 17),
      (268435631, 16), (268435646, 17), (268435647, 16), (268435662, 17), (268435663, 16), (268435678, 17), (268435679, 16),
      (268435694, 17), (268435695, 16), (268435710, 17), (268435711, 16), (268435720, 255), (268435727, 32),
      (268435736, 255), (268435743, 32), (268435759, 1)] }

/-- The worked example of spec/12, "Real-time plans": K(m) is 4,608 cycles, F(m) is 9.0937 µs at 500 GB/s and 11.1171 µs at 400 GB/s,
and no group belongs to a layer after the last. -/
theorem test_wcet_example :
    (planning 500).kernelCycles 0x1000_0000 19 = 4608 ∧
    ((planning 500).layerFetch 0 planned 23 1_048_576).map (fun t => (t * 10000).floor) = some 90_936_960 ∧
    ((planning 400).layerFetch 0 planned 23 1_048_576).map (fun t => (t * 10000).floor) = some 111_171_200 ∧
    planned.layerGroups 24 = [] := by decide +kernel

/-- The header of a packet that is sent (R46, R47): magic, version, opcode and the lengths of its two areas. -/
theorem test_reply_header :
    (⟨{ opcode := 0x0201, partition := 2, svc := 1, tag := 7 }, 4, 0x0F08, [⟨4, toLE 4 9⟩], [5]⟩ : Pkt).header =
      [0x46, 0x5A, 0x10, 4, 0x01, 0x02, 0x08, 0x0F, 2, 1, 8, 0, 1, 0, 0, 0, 7, 0, 0, 0, 0, 0, 0, 0, 0, 0, 0, 0, 0, 0, 0, 0] := by
  decide +kernel

/-- INT8 products of −1 and 0 sum to the integer 0, which converts to +0 (R290). -/
theorem test_int8_zero_sum : (columnSum 6 (List.replicate 3 ((Fp.fin true 1 0).mul (.fin false 0 0)))).toF32 = 0 := by
  decide +kernel

/-- Boot step 11 writes the image copy, from which a core that crashed can then be reloaded (Table 16-8, R510). -/
theorem test_image_copy :
    ({ up with fw := { up.fw with running := some { bytes := [1, 2] } } } : State).writeRegion.reloads 6 = true := by decide +kernel

/-- An event of the same cycle outlasts ICU_PEND_CLR; a later clear withdraws the source (R527). -/
theorem test_clear_in_the_cycle_of_an_event :
    let s : State := regs up [(ICU_SRC 5, 1)]
    ((interruptPendClrStep 0 32 (s.icuEvent 5)).bit (ICU_SRC 5) 8 = true) ∧
    (interruptPendClrStep 0 32 { s.icuEvent 5 with now := s.now + 1 }).bit (ICU_SRC 5) 8 = false := by decide +kernel

/-- The fourth crash of the worked example of spec/13 retires physical core 6; the decision is recorded with the class of R516, and
physical core 9 takes logical number 5. -/
theorem test_crash_rule :
    let cores := modifyAt (modifyAt up.fw.cores 6 (fun k => { k with crashes := [100, 400, 700].map (· * 1_000_000_000) })) 9
      (fun k => { k with state := 4 })
    let s := ({ up with fw := { up.fw with cores := cores }, now := 760_000_000_000 } : State).crash 6 2 760_000_000_000
    s.flash.faults = [(10, 6, 0)] ∧ (s.core 6).state = 3 ∧ (s.core 9).logical = 5 ∧
      s.faults.log.map (fun e => e.toNat / 2 ^ 28) = [2 ^ 35 + 4 * 2 ^ 32 + 10 * 2 ^ 24 + 6] := by decide +kernel
end Sys2Proof.Tests
end

section
/-! The HBM interleave of a partition's region (R29): where an address lies, and that the granule, the pseudo-channel and the byte
offset determine one another. -/

namespace Sys2Proof.Machine

/-- A pseudo-channel stands once in the list of a mask. -/
theorem bitsOf_nodup (n m : Nat) : (bitsOf n m).Nodup := List.nodup_range.filter _

theorem State.inRegion_iff (s : State) (p a n : Nat) :
    s.inRegion p a n = true ↔ s.regionBase p ≤ a ∧ a + n ≤ s.regionBase p + s.regionSize p := by
  simp only [State.inRegion, Bool.and_eq_true, decide_eq_true_eq]

theorem State.regionSize_eq (s : State) (p : Nat) : s.regionSize p = (s.regionPchs p).length * 2 ^ 32 := rfl

/-- A region that holds an address has a pseudo-channel to interleave over. -/
theorem State.regionPchs_length_pos {s : State} {p a n : Nat} (h : s.inRegion p a n = true) (hn : 0 < n) :
    0 < (s.regionPchs p).length := by
  obtain ⟨hlo, hhi⟩ := (s.inRegion_iff p a n).mp h
  rw [State.regionSize_eq] at hhi
  omega

/-- A region begins on a granule, so an address and its offset in the region lie at the same byte of their granules. -/
theorem State.sub_regionBase_mod {s : State} {p a : Nat} (h : s.regionBase p ≤ a) :
    (a - s.regionBase p) % 4096 = a % 4096 := by
  have hbase : s.regionBase p = (s.part p).assign.base * 2 ^ 32 := rfl
  omega

/-- R29 where the partition owns a pseudo-channel. -/
theorem State.interleave_of_length_pos {s : State} {p : Nat} (a : Nat) (h : 0 < (s.regionPchs p).length) :
    s.interleave p a =
      ((s.regionPchs p).getD ((a - s.regionBase p) / 4096 % (s.regionPchs p).length) 0,
        (a - s.regionBase p) / 4096 / (s.regionPchs p).length * 4096 + a % 4096) := by
  unfold State.interleave
  exact if_neg (by simpa using Nat.ne_of_gt h)

/-- The list of a region's pseudo-channels names each of them once. -/
theorem State.regionPchs_getD_inj {s : State} {p i j : Nat} (hi : i < (s.regionPchs p).length) (hj : j < (s.regionPchs p).length)
    (h : (s.regionPchs p).getD i 0 = (s.regionPchs p).getD j 0) : i = j := by
  rw [List.getD_eq_getElem _ _ hi, List.getD_eq_getElem _ _ hj] at h
  exact (bitsOf_nodup _ _).getElem_inj_iff.mp h

/-- The pseudo-channel gives the granule's remainder, the byte offset its quotient and the byte within it: together, the address. -/
theorem State.interleave_inj {s : State} {p a b : Nat} (hpos : 0 < (s.regionPchs p).length)
    (ha : s.regionBase p ≤ a) (hb : s.regionBase p ≤ b) (h : s.interleave p a = s.interleave p b) : a = b := by
  rw [State.interleave_of_length_pos a hpos, State.interleave_of_length_pos b hpos, Prod.mk.injEq] at h
  obtain ⟨hpch, hoff⟩ := h
  have hrem := State.regionPchs_getD_inj (Nat.mod_lt _ hpos) (Nat.mod_lt _ hpos) hpch
  have hquot : (a - s.regionBase p) / 4096 / (s.regionPchs p).length = (b - s.regionBase p) / 4096 / (s.regionPchs p).length := by
    omega
  have hgranule : (a - s.regionBase p) / 4096 = (b - s.regionBase p) / 4096 := by
    rw [← Nat.div_add_mod ((a - s.regionBase p) / 4096) (s.regionPchs p).length, hquot, hrem, Nat.div_add_mod]
  have hbyte : (a - s.regionBase p) % 4096 = (b - s.regionBase p) % 4096 := by
    rw [State.sub_regionBase_mod ha, State.sub_regionBase_mod hb]
    omega
  omega

/-- Settles O56: the place of an address is R29's, and R29's place determines the address. -/
theorem regionsInterleave : Obligations.RegionsInterleave := by
  intro s p a h
  have hpos := State.regionPchs_length_pos h Nat.one_pos
  obtain ⟨ha, -⟩ := (s.inRegion_iff p a 1).mp h
  refine ⟨State.interleave_of_length_pos a hpos, fun b hb heq => ?_⟩
  obtain ⟨hb, -⟩ := (s.inRegion_iff p b 1).mp hb
  exact State.interleave_inj hpos hb ha heq

end Sys2Proof.Machine
end

section
/-! The refusals of command intake (R94, Table 2-12): a request packet that its queue pair hears comes to the checks of rows 3 to 11,
and the first of them that it fails answers it. -/

namespace Sys2Proof.Machine

/-- A command that a request packet carries is the arrival of that packet on its queue pair. -/
theorem exec_of_carries {i : Instr} {op : Nat} {r : Req} (h : i.carries = some (op, r)) (s : State) :
    exec i s = .next (runAt i.stamp (fun s => s.receive op r) s) := by
  cases i <;> cases h <;> rfl

/-- Rows 1 and 2 of Table 2-12 pass a request packet, and a queue pair that hears it takes it for the first of a command. -/
theorem State.receive_of_hears {s : State} {op : Nat} {r : Req} {q : Qp} (hq : s.qp? r.qp = some q)
    (hp : requestPacket r = true) (hh : q.hears r = true) : s.receive op r = (s.listen r.qp).firstPacket q op r := by
  simp only [requestPacket, Bool.and_eq_true, decide_eq_true_eq, Bool.not_eq_true'] at hp
  obtain ⟨⟨⟨hmin, hmax⟩, hevent⟩, hreply⟩ := hp
  simp only [Qp.hears, Bool.and_eq_true, Bool.not_eq_true', bne_iff_ne, ne_eq, Option.isNone_iff_eq_none] at hh
  obtain ⟨⟨herror, hdiscard⟩, hassembly⟩ := hh
  have hrows : s.receive op r = s.requestArrives q op r := by
    simp only [State.receive, hq, herror, hevent, hreply, Nat.not_lt.mpr hmin, Nat.not_lt.mpr hmax, Bool.false_eq_true, if_false]
  simp [hrows, State.requestArrives, hdiscard, hassembly]

theorem State.firstPacket_of_intakeRefusal {s : State} {q : Qp} {op : Nat} {r : Req} {st : Nat}
    (h : s.intakeRefusal q op r = some st) : s.firstPacket q op r = s.refuseFragments (hdrOf op r) st (hasMore r) := by
  simp [State.firstPacket, h]

/-! ### Rows 3 to 7, each where no earlier row refuses -/

section Rows

variable {s : State} {q : Qp} {op : Nat} {r : Req}

/-- Row 3 (R47). -/
theorem State.intakeRefusal_badVersion (hv : r.version ≠ 0x10#8) : s.intakeRefusal q op r = some stBadVersion := by
  simp [State.intakeRefusal, hv]

/-- Row 5 (R48). -/
theorem State.intakeRefusal_reservedNonzero (hv : r.version = 0x10#8)
    (hl : lengthRefusal r (itemsBefore 513 (extOf r)) = none) (h : r.flags.toNat / 16 ≠ 0 ∨ r.status ≠ 0) :
    s.intakeRefusal q op r = some stReservedNonzero := by
  have hrow : (r.flags.toNat / 16 != 0 || r.status != 0) = true := by simpa only [Bool.or_eq_true, bne_iff_ne] using h
  simp only [State.intakeRefusal, hv, hl, hrow, bne_self_eq_false, Bool.false_eq_true, if_false, if_true]

/-- Row 6 (R43). -/
theorem State.intakeRefusal_badPartition (hv : r.version = 0x10#8)
    (hl : lengthRefusal r (itemsBefore 513 (extOf r)) = none) (hf : r.flags.toNat / 16 = 0) (hs : r.status = 0)
    (h : r.partition ≠ q.partition) : s.intakeRefusal q op r = some stBadPartition := by
  have hrow : (r.partition != q.partition) = true := bne_iff_ne.mpr h
  simp only [State.intakeRefusal, hv, hl, hf, hs, hrow, bne_self_eq_false, Bool.or_self, Bool.false_eq_true, if_false, if_true]

/-- Row 7 (R49). -/
theorem State.intakeRefusal_badServiceClass (hv : r.version = 0x10#8)
    (hl : lengthRefusal r (itemsBefore 513 (extOf r)) = none) (hf : r.flags.toNat / 16 = 0) (hs : r.status = 0)
    (hp : r.partition = q.partition) (h : 2 < r.svc ∨ r.svc = 2 ∧ (s.part q.partition).assign.rt = false) :
    s.intakeRefusal q op r = some stBadServiceClass := by
  have hrow : (decide (2 < r.svc) || (r.svc == 2 && !(s.part q.partition).assign.rt)) = true := by
    simpa only [Bool.or_eq_true, Bool.and_eq_true, decide_eq_true_eq, beq_iff_eq, Bool.not_eq_true'] using h
  simp only [State.intakeRefusal, hv, hl, hf, hs, hp, hrow, bne_self_eq_false, Bool.or_self, Bool.false_eq_true, if_false,
    if_true]

end Rows

/-- A packet that intake refuses has no effect but its refusal, whatever command it carries. -/
theorem exec_of_intakeRefusal {s : State} {i : Instr} {op : Nat} {r : Req} {q : Qp} {st : Nat}
    (hc : i.carries = some (op, r)) (ha : s.acts i.stamp = true) (hq : (s.begun i.stamp).qp? r.qp = some q)
    (hp : requestPacket r = true) (hh : q.hears r = true)
    (h : ((s.begun i.stamp).listen r.qp).intakeRefusal q op r = some st) :
    exec i s = .next (s.ended (((s.begun i.stamp).listen r.qp).refuseFragments (hdrOf op r) st (hasMore r))) := by
  rw [exec_of_carries hc, runAt_acts _ ha, State.receive_of_hears hq hp hh, State.firstPacket_of_intakeRefusal h]

/-- Settles O55: whatever row of Table 2-12 refuses a packet, its refusal is all that happens; rows 3, 5, 6 and 7 refuse with the
statuses of R47, R48, R43 and R49. -/
theorem refusedRequestsHaveNoOtherEffect : Obligations.RefusedRequestsHaveNoOtherEffect := by
  intro s i op r q hc ha b hq hp hh refused
  have hrefused : ∀ st, b.intakeRefusal q op r = some st → refused st :=
    fun st h => exec_of_intakeRefusal hc ha hq hp hh h
  refine ⟨hrefused, fun hv => hrefused _ (State.intakeRefusal_badVersion hv),
    fun hv hl => ⟨fun h => hrefused _ (State.intakeRefusal_reservedNonzero hv hl h), fun hf hs => ⟨fun h => ?_, fun he h => ?_⟩⟩⟩
  · exact hrefused _ (State.intakeRefusal_badPartition hv hl hf hs h)
  · exact hrefused _ (State.intakeRefusal_badServiceClass hv hl hf hs he h)

end Sys2Proof.Machine
end

section
/-! Uncorrectable bursts (R182, R670, log entry 81): which bursts a burst-wide read looks at, what a write and the poison pattern make
of the list of uncorrectable bursts, and that the reports of the errors met on the way leave that list alone. -/

namespace Sys2Proof.Machine

/-! ### What reporting an error can change -/

/-- `t` is `s` with errors reported: registers, pending interrupts, the Spindle error log and the queue of fault reports may differ. -/
def ReportsOnly (s t : State) : Prop :=
  ∃ csr icu log reports, t = { s with csr := csr, icu := icu, spnLog := log, reports := reports }

namespace ReportsOnly

variable {s t u : State}

theorem refl (s : State) : ReportsOnly s s := ⟨_, _, _, _, rfl⟩

theorem trans (h : ReportsOnly s t) (k : ReportsOnly t u) : ReportsOnly s u := by
  obtain ⟨_, _, _, _, rfl⟩ := h
  obtain ⟨_, _, _, _, rfl⟩ := k
  exact ⟨_, _, _, _, rfl⟩

theorem ue_eq (h : ReportsOnly s t) : t.ue = s.ue := by
  obtain ⟨_, _, _, _, rfl⟩ := h
  rfl

theorem setRaw (h : ReportsOnly s t) (a : Nat) (v : Reg) : ReportsOnly s (t.setRaw a v) := h.trans ⟨_, _, _, _, rfl⟩

theorem setFld (h : ReportsOnly s t) (a hi lo v : Nat) : ReportsOnly s (t.setFld a hi lo v) := h.setRaw _ _

theorem bump (h : ReportsOnly s t) (a hi lo n : Nat) : ReportsOnly s (t.bump a hi lo n) := h.setFld _ _ _ _

theorem setIcu (h : ReportsOnly s t) (w : Icu) : ReportsOnly s { t with icu := w } := h.trans ⟨_, _, _, _, rfl⟩

theorem report (h : ReportsOnly s t) (f : FaultReport) : ReportsOnly s (t.report f) := h.trans ⟨_, _, _, _, rfl⟩

theorem icuOpen (h : ReportsOnly s t) (g : Nat) : ReportsOnly s (t.icuOpen g) := (h.setFld _ _ _ _).setIcu _

theorem icuCount (h : ReportsOnly s t) (g : Nat) : ReportsOnly s (t.icuCount g) := by
  unfold State.icuCount
  split
  · exact h
  · split
    · split
      · exact h.icuOpen g
      · dsimp only
        split
        · exact (h.setFld _ _ _ _).icuOpen g
        · exact h.setFld _ _ _ _
    · dsimp only
      split
      · exact (h.setFld _ _ _ _).icuOpen g
      · exact (h.setFld _ _ _ _).setIcu _

theorem icuEvent (h : ReportsOnly s t) (n : Nat) : ReportsOnly s (t.icuEvent n) := by
  unfold State.icuEvent
  split
  · exact h
  · exact ((h.setFld _ _ _ _).icuCount _).setIcu _

theorem event (h : ReportsOnly s t) (a i : Nat) : ReportsOnly s (t.event a i) := by
  unfold State.event
  dsimp only
  split
  · exact (h.setRaw _ _).icuEvent _
  · exact h.setRaw _ _

theorem spnLogPut (h : ReportsOnly s t) (kind g opcode part entry : Nat) :
    ReportsOnly s (t.spnLogPut kind g opcode part entry) := by
  unfold State.spnLogPut
  split
  · exact h.event _ _
  · exact h.trans ⟨_, _, _, _, rfl⟩

/-- An uncorrectable read (R181, R604). -/
theorem memUe (h : ReportsOnly s t) (a opcode part : Nat) : ReportsOnly s (t.memUe a opcode part) := by
  unfold State.memUe
  split
  · exact ((h.event _ _).spnLogPut _ _ _ _ _).report _
  · split
    · exact (h.bump _ _ _ _).report _
    · exact h.report _

/-- A corrected read (R181). -/
theorem memCe (h : ReportsOnly s t) (a opcode part : Nat) : ReportsOnly s (t.memCe a opcode part) := by
  unfold State.memCe
  split
  · exact ((h.event _ _).spnLogPut _ _ _ _ _).report _
  · split <;> exact h.report _

theorem dramUe (h : ReportsOnly s t) (a : Nat) : ReportsOnly s (t.dramUe a) := h.memUe a 0 0

theorem foldl {α : Type} {f : State → α → State} (hf : ∀ t x, ReportsOnly t (f t x)) (l : List α) (s : State) :
    ReportsOnly s (l.foldl f s) := by
  induction l generalizing s with
  | nil => exact refl s
  | cons x l ih => exact (hf s x).trans (ih _)

end ReportsOnly

/-! ### The uncorrectable bursts -/

/-- A burst on its own touches itself. -/
theorem burstsOf_burst (b : Nat) : burstsOf (b * 64) 64 = [b] := by
  have hlast : (b * 64 + 63) / 64 = b := by omega
  have hfirst : b * 64 / 64 = b := by omega
  simp [burstsOf, hlast, hfirst]

/-- A read of one burst fails exactly where the burst is listed. -/
theorem State.isUe_burst (s : State) (b : Nat) : s.isUe (b * 64) 64 = s.ue.contains b := by
  rw [State.isUe, burstsOf_burst, List.any_cons, List.any_nil, Bool.or_false]

/-- A write takes the bursts it covers whole off the list, and puts none on it: its partial bursts are read first, and what those
reads report does not touch the list (R670). -/
theorem State.store_ue (s : State) (a : Nat) (bs : List Byte) :
    (s.store a bs).ue = s.ue.filter (fun b => !burstWhole a bs.length b) := by
  unfold State.store
  refine (ReportsOnly.foldl (fun t b => ?_) _ _).ue_eq
  split
  · exact (ReportsOnly.refl t).dramUe _
  · exact (ReportsOnly.refl t).memCe _ _ _

/-- The poison pattern puts its own burst on the list, and no other. -/
theorem State.mem_poison_ue {s : State} {b d : Nat} : d ∈ (s.poison b).ue ↔ d = b ∨ d ∈ s.ue := by
  unfold State.poison
  split
  case isTrue hb =>
    have hmem : b ∈ s.ue := List.contains_iff_mem.mp hb
    exact ⟨Or.inr, fun h => h.elim (fun heq => heq ▸ hmem) id⟩
  case isFalse => simp only [List.mem_append, List.mem_singleton, or_comm]

/-- R182. -/
theorem State.poison_isUe_same (s : State) (b : Nat) : (s.poison b).isUe (b * 64) 64 = true := by
  rw [State.isUe_burst, List.contains_iff_mem]
  exact State.mem_poison_ue.mpr (Or.inl rfl)

theorem State.poison_isUe_of_ne (s : State) {b d : Nat} (h : d ≠ b) :
    (s.poison b).isUe (d * 64) 64 = s.isUe (d * 64) 64 := by
  rw [State.isUe_burst, State.isUe_burst, Bool.eq_iff_iff, List.contains_iff_mem, List.contains_iff_mem, State.mem_poison_ue]
  exact or_iff_right h

/-- A burst reads uncorrectable after a write exactly if it did before and the write does not cover it whole (R182, R670). That a
whole write always cures it is the model's choice (log entry 81). -/
theorem State.store_isUe (s : State) (a : Nat) (bs : List Byte) (b : Nat) :
    (s.store a bs).isUe (b * 64) 64 = (s.isUe (b * 64) 64 && !burstWhole a bs.length b) := by
  rw [State.isUe_burst, State.isUe_burst, State.store_ue, Bool.eq_iff_iff]
  simp only [List.contains_iff_mem, List.mem_filter, Bool.and_eq_true]

/-- Settles O49: the list of uncorrectable bursts gains a burst by the poison pattern alone and loses it by a whole write alone. -/
theorem poisonLastsUntilAWholeWrite : Obligations.PoisonLastsUntilAWholeWrite := by
  intro s b
  exact ⟨s.poison_isUe_same b, fun a bs => s.store_isUe a bs b, fun _ hd => s.poison_isUe_of_ne hd⟩

end Sys2Proof.Machine
end

section
/-! How a step of the block ends: every command answers a next state and leaves the queue of waiting commands alone, so that the
queue is worked off; and every step keeps the canonical forms of memory and of the registers. -/

namespace Sys2Proof.Machine

/-! ### Every command is carried out in one of two ways -/

/-- A command of the standby domain acts whether or not the internal reset is held, any other only where it is released. -/
theorem exec_standby_or (i : Instr) :
    (i.standby = true ∧ ∃ f, ∀ s, exec i s = .next (runPower i.stamp f s)) ∨
      (i.standby = false ∧ ∃ f, ∀ s, exec i s = .next (runAt i.stamp f s)) := by
  cases i with
  | powerUp | powerDown | startFailure | inputUndervoltage | inputOvervoltage | railFault | modRstNAssert | refclkLoss
  | i3cCapWWrite | i3cAlertCauseRead | presNChange | sealBreak | bootSequence | standbyPowerOn | standbyPowerLoss
  | thermTripRelease | sealRestored => exact .inl ⟨rfl, _, fun _ => rfl⟩
  | _ => exact .inr ⟨rfl, _, fun _ => rfl⟩

theorem exec_answers (i : Instr) (s : State) : ∃ t, exec i s = .next t ∧ t.pending = s.pending := by
  rcases exec_standby_or i with ⟨-, f, hf⟩ | ⟨-, f, hf⟩
  · exact ⟨_, hf s, runPower_pending _ _ _⟩
  · exact ⟨_, hf s, runAt_pending _ _ _⟩

/-- Settles O43: both ways of carrying out a command keep the queue. -/
theorem everyCommandAnswers : Obligations.EveryCommandAnswers := exec_answers

/-- Settles O51: a command outside the standby domain runs by `runAt`, which does nothing while the internal reset is held. -/
theorem aHeldModuleDoesNothing : Obligations.AHeldModuleDoesNothing := by
  intro i s hi ha
  rcases exec_standby_or i with ⟨hi', -⟩ | ⟨-, f, hf⟩
  · rw [hi] at hi'
    cases hi'
  · rw [hf, runAt_held f ha]

/-! ### A step -/

theorem step_of_pending {s : State} {c : Instr} {rest : List Instr} (h : s.pending = c :: rest) :
    step s = exec c { s with pending := rest } := by
  rw [step, h]

theorem step_of_idle {s : State} (h : s.pending = []) : step s = .next s := by
  rw [step, h]

/-- Settles O42: that is what a step is. -/
theorem aStepRunsTheFrontCommand : Obligations.AStepRunsTheFrontCommand := fun _ _ _ => step_of_pending

theorem runs_of_idle {s : State} (h : s.pending = []) (n : Nat) : Runs s n s := by
  induction n with
  | zero => exact .refl s
  | succ n ih => exact .step (step_of_idle h) ih

/-- Each step takes one command off the queue. -/
theorem runs_to_idle (l : List Instr) (s : State) (h : s.pending = l) : ∃ t, Runs s l.length t ∧ t.pending = [] := by
  induction l generalizing s with
  | nil => exact ⟨s, .refl s, h⟩
  | cons c rest ih =>
    obtain ⟨u, hu, hrest⟩ := exec_answers c { s with pending := rest }
    obtain ⟨t, ht, hidle⟩ := ih u hrest
    exact ⟨t, .step ((step_of_pending h).trans hu) ht, hidle⟩

/-- Settles O44, by induction on the queue. -/
theorem theQueueIsWorkedOff : Obligations.TheQueueIsWorkedOff := by
  intro s
  obtain ⟨t, ht, hidle⟩ := runs_to_idle s.pending s rfl
  exact ⟨t, ht, hidle, runs_of_idle hidle⟩

/-! ### The canonical forms -/

/-- Every command keeps the canonical forms: one case for each, closed by the lemma about its meaning. -/
theorem exec_canonical {s : State} (h : Canonical s) (i : Instr) : CanonicalOut (exec i s) := by
  cases i with
  | sessionOpen => exact execSessionOpen_canonical _ _ s h
  | sessionClose => exact execSessionClose_canonical _ _ s h
  | sessionCloseComplete => exact execSessionCloseComplete_canonical _ _ s h
  | echo => exact execEcho_canonical _ _ s h
  | setEventCoalesce => exact execSetEventCoalesce_canonical _ _ s h
  | readinessQuery => exact execReadinessQuery_canonical _ _ s h
  | search => exact execSearch_canonical _ _ s h
  | searchShard => exact execSearchShard_canonical _ _ s h
  | searchBatch => exact execSearchBatch_canonical _ _ s h
  | indexInsert => exact execIndexInsert_canonical _ _ s h
  | indexDelete => exact execIndexDelete_canonical _ _ s h
  | indexLoad => exact execIndexLoad_canonical _ _ s h
  | indexMergeStart => exact execIndexMergeStart_canonical _ _ s h
  | mergeRepair => exact execMergeRepair_canonical _ _ s h
  | mergePublish => exact execMergePublish_canonical _ _ s h
  | mergeReclaim => exact execMergeReclaim_canonical _ _ s h
  | indexEpochQuery => exact execIndexEpochQuery_canonical _ _ s h
  | shardMapSet => exact execShardMapSet_canonical _ _ s h
  | vectorFetch => exact execVectorFetch_canonical _ _ s h
  | passageFetch => exact execPassageFetch_canonical _ _ s h
  | indexUnload => exact execIndexUnload_canonical _ _ s h
  | indexUnloadComplete => exact execIndexUnloadComplete_canonical _ _ _ s h
  | embed => exact execEmbed_canonical _ _ s h
  | rescore => exact execRescore_canonical _ _ s h
  | rerank => exact execRerank_canonical _ _ s h
  | rewardScore => exact execRewardScore_canonical _ _ s h
  | generate => exact execGenerate_canonical _ _ s h
  | ragGenerate => exact execRagGenerate_canonical _ _ s h
  | seqAppend => exact execSeqAppend_canonical _ _ s h
  | seqCancel => exact execSeqCancel_canonical _ _ s h
  | seqStatus => exact execSeqStatus_canonical _ _ s h
  | seqSetPriority => exact execSeqSetPriority_canonical _ _ s h
  | prefixStore => exact execPrefixStore_canonical _ _ s h
  | prefixRelease => exact execPrefixRelease_canonical _ _ s h
  | embGather => exact execEmbGather_canonical _ _ s h
  | embScatterAdd => exact execEmbScatterAdd_canonical _ _ s h
  | embUpdate => exact execEmbUpdate_canonical _ _ s h
  | embTableCreate => exact execEmbTableCreate_canonical _ _ s h
  | embTableReplace => exact execEmbTableReplace_canonical _ _ s h
  | tableDrainComplete => exact execTableDrainComplete_canonical _ _ s h
  | embHotsetSet => exact execEmbHotsetSet_canonical _ _ s h
  | migrationCopyComplete => exact execMigrationCopyComplete_canonical _ _ _ s h
  | migrationLogResume => exact execMigrationLogResume_canonical _ _ s h
  | paramSlotClaim => exact execParamSlotClaim_canonical _ _ s h
  | embTableDrop => exact execEmbTableDrop_canonical _ _ s h
  | selectTopk => exact execSelectTopk_canonical _ _ s h
  | argmax => exact execArgmax_canonical _ _ s h
  | selectTopp => exact execSelectTopp_canonical _ _ s h
  | selectionTake => exact execSelectionTake_canonical _ s h
  | tokenize => exact execTokenize_canonical _ _ s h
  | detokenize => exact execDetokenize_canonical _ _ s h
  | vocabLoad => exact execVocabLoad_canonical _ _ s h
  | grammarLoad => exact execGrammarLoad_canonical _ _ s h
  | grammarUnload => exact execGrammarUnload_canonical _ _ s h
  | memWrite => exact execMemWrite_canonical _ _ s h
  | memRead => exact execMemRead_canonical _ _ s h
  | tierPromote => exact execTierPromote_canonical _ _ s h
  | tierEvict => exact execTierEvict_canonical _ _ s h
  | tierPolicySet => exact execTierPolicySet_canonical _ _ s h
  | tileDirQuery => exact execTileDirQuery_canonical _ _ s h
  | modelLoad => exact execModelLoad_canonical _ _ s h
  | modelUnload => exact execModelUnload_canonical _ _ s h
  | variantSet => exact execVariantSet_canonical _ _ s h
  | variantClear => exact execVariantClear_canonical _ _ s h
  | versionTurnover => exact execVersionTurnover_canonical _ _ s h
  | turnoverComplete => exact execTurnoverComplete_canonical _ _ _ s h
  | learnStep => exact execLearnStep_canonical _ _ s h
  | optimizerStep => exact execOptimizerStep_canonical _ _ s h
  | gradAllreduce => exact execGradAllreduce_canonical _ _ s h
  | allreduceHop => exact execAllreduceHop_canonical _ _ s h
  | partQuery => exact execPartQuery_canonical _ _ s h
  | contextSuspend => exact execContextSuspend_canonical _ _ s h
  | contextResume => exact execContextResume_canonical _ _ s h
  | switchQuiesceTimeout => exact execSwitchQuiesceTimeout_canonical _ _ s h
  | contextSwitchComplete => exact execContextSwitchComplete_canonical _ _ s h
  | planAdmit => exact execPlanAdmit_canonical _ _ s h
  | mbHello => exact execMbHello_canonical _ _ s h
  | mbMessage => exact execMbMessage_canonical _ _ s h
  | fwInfo => exact execFwInfo_canonical _ _ s h
  | fwStage => exact execFwStage_canonical _ _ s h
  | coreStatus => exact execCoreStatus_canonical _ _ s h
  | traceSet => exact execTraceSet_canonical _ _ s h
  | logMark => exact execLogMark_canonical _ _ s h
  | activationCancel => exact execActivationCancel_canonical _ _ s h
  | fwActivate => exact execFwActivate_canonical _ _ s h
  | normalHoldEnd => exact execNormalHoldEnd_canonical _ s h
  | clusterRestart => exact execClusterRestart_canonical _ _ s h
  | activationReadyTimeout => exact execActivationReadyTimeout_canonical _ _ s h
  | lkgFlashWrite => exact execLkgFlashWrite_canonical _ s h
  | attestReport => exact execAttestReport_canonical _ _ s h
  | measureLogRead => exact execMeasureLogRead_canonical _ _ s h
  | ownerClaim => exact execOwnerClaim_canonical _ _ s h
  | protectPropose => exact execProtectPropose_canonical _ _ s h
  | protectCosign => exact execProtectCosign_canonical _ _ s h
  | proposalExpiry => exact execProposalExpiry_canonical _ s h
  | telemetryRead => exact execTelemetryRead_canonical _ _ s h
  | countersRead => exact execCountersRead_canonical _ _ s h
  | telemetrySubscribe => exact execTelemetrySubscribe_canonical _ _ s h
  | telemetryWindowEnd => exact execTelemetryWindowEnd_canonical _ _ s h
  | logRead => exact execLogRead_canonical _ _ s h
  | packetDiscard => exact execPacketDiscard_canonical _ _ _ s h
  | replyPacketReceive => exact execReplyPacketReceive_canonical _ _ _ s h
  | fragmentReceive => exact execFragmentReceive_canonical _ _ _ s h
  | refFetchComplete => exact execRefFetchComplete_canonical _ _ _ s h
  | fenceRelease => exact execFenceRelease_canonical _ _ s h
  | commandDeadline => exact execCommandDeadline_canonical _ _ s h
  | eventCoalesceTimer => exact execEventCoalesceTimer_canonical _ _ s h
  | workQueueTake => exact execWorkQueueTake_canonical _ _ s h
  | searchTake => exact execSearchTake_canonical _ _ s h
  | walkExpansion => exact execWalkExpansion_canonical _ _ s h
  | sideScanBatch => exact execSideScanBatch_canonical _ _ s h
  | shardHedgeTimeout => exact execShardHedgeTimeout_canonical _ _ _ s h
  | shardMerge => exact execShardMerge_canonical _ _ s h
  | walkerFault => exact execWalkerFault_canonical _ _ s h
  | distList => exact execDistList_canonical _ _ _ s h
  | distScan => exact execDistScan_canonical _ _ _ s h
  | qload => exact execQload_canonical _ _ _ s h
  | decode => exact execDecode_canonical _ _ _ s h
  | hist => exact execHist_canonical _ _ _ s h
  | keyCompact => exact execKeyCompact_canonical _ _ _ s h
  | gather => exact execGather_canonical _ _ _ s h
  | scatterAdd => exact execScatterAdd_canonical _ _ _ s h
  | rowSgd => exact execRowSgd_canonical _ _ _ s h
  | rowAdagrad => exact execRowAdagrad_canonical _ _ _ s h
  | rowAdam => exact execRowAdam_canonical _ _ _ s h
  | pset => exact execPset_canonical _ _ _ s h
  | scrub => exact execScrub_canonical _ _ _ s h
  | backgroundScrub => exact execBackgroundScrub_canonical _ _ _ s h
  | spnCopy => exact execSpnCopy_canonical _ _ _ s h
  | codebookLoad => exact execCodebookLoad_canonical _ _ s h
  | spindleAbort => exact execSpindleAbort_canonical _ _ s h
  | spnErrLogRead => exact execSpnErrLogRead_canonical _ s h
  | groupFetchIssue => exact execGroupFetchIssue_canonical _ _ _ s h
  | runnerCheck => exact execRunnerCheck_canonical _ _ s h
  | tileFillComplete => exact execTileFillComplete_canonical _ _ _ _ _ s h
  | tierPolicyEvict => exact execTierPolicyEvict_canonical _ _ s h
  | evictRetry => exact execEvictRetry_canonical _ _ _ s h
  | kernelStart => exact execKernelStart_canonical _ _ _ s h
  | nop => exact execNop_canonical _ _ _ s h
  | endKernel => exact execEndKernel_canonical _ _ _ s h
  | fenceInstr => exact execFenceInstr_canonical _ _ _ s h
  | release => exact execRelease_canonical _ _ _ s h
  | layer => exact execLayer_canonical _ _ _ s h
  | drain => exact execDrain_canonical _ _ _ s h
  | drainComplete => exact execDrainComplete_canonical _ _ _ s h
  | sendSel => exact execSendSel_canonical _ _ _ s h
  | matmul => exact execMatmul_canonical _ _ _ s h
  | vector => exact execVector_canonical _ _ _ s h
  | slotWriteComplete => exact execSlotWriteComplete_canonical _ _ _ _ s h
  | latheStall => exact execLatheStall_canonical _ _ s h
  | latheIdleGate => exact execLatheIdleGate_canonical _ _ s h
  | wakeGrant => exact execWakeGrant_canonical _ s h
  | latheBufferError => exact execLatheBufferError_canonical _ _ _ _ _ _ s h
  | lthErrLogRead => exact execLthErrLogRead_canonical _ s h
  | stepBoundary => exact execStepBoundary_canonical _ _ s h
  | seqTableError => exact execSeqTableError_canonical _ _ _ s h
  | selectionUnitFault => exact execSelectionUnitFault_canonical _ _ s h
  | tokenizerEngineFault => exact execTokenizerEngineFault_canonical _ _ s h
  | applyRegs => exact execApplyRegs_canonical _ _ _ s h
  | partitionTeardown => exact execPartitionTeardown_canonical _ _ _ s h
  | requestConfiguring => exact execRequestConfiguring_canonical _ _ _ s h
  | requestUp => exact execRequestUp_canonical _ _ _ s h
  | requestDown => exact execRequestDown_canonical _ _ _ s h
  | contextTeardown => exact execContextTeardown_canonical _ _ _ _ s h
  | watchdogExpiry => exact execWatchdogExpiry_canonical _ _ s h
  | coreException => exact execCoreException_canonical _ _ _ s h
  | coreRestart => exact execCoreRestart_canonical _ _ s h
  | watchdogKick => exact execWatchdogKick_canonical _ _ s h
  | fwUpdateStage => exact execFwUpdateStage_canonical _ _ s h
  | interruptEvent => exact execInterruptEvent_canonical _ _ s h
  | interruptGroupTimer => exact execInterruptGroupTimer_canonical _ _ s h
  | interruptClaim => exact execInterruptClaim_canonical _ _ s h
  | interruptComplete => exact execInterruptComplete_canonical _ _ _ s h
  | interruptPendSet => exact execInterruptPendSet_canonical _ _ _ s h
  | interruptPendClr => exact execInterruptPendClr_canonical _ _ _ s h
  | rocePacketReceive => exact execRocePacketReceive_canonical _ _ s h
  | rdmaWriteReceive => exact execRdmaWriteReceive_canonical _ _ _ _ _ s h
  | rdmaReadReceive => exact execRdmaReadReceive_canonical _ _ _ _ _ s h
  | rnrNakReceive => exact execRnrNakReceive_canonical _ _ _ s h
  | roceNakReceive => exact execRoceNakReceive_canonical _ _ _ s h
  | localAckTimeout => exact execLocalAckTimeout_canonical _ _ s h
  | cnpReceive => exact execCnpReceive_canonical _ _ s h
  | rateIncreaseWindow => exact execRateIncreaseWindow_canonical _ _ s h
  | frameTransmit => exact execFrameTransmit_canonical _ _ _ s h
  | gateEntryBoundary => exact execGateEntryBoundary_canonical _ _ s h
  | gateConfigChange => exact execGateConfigChange_canonical _ _ s h
  | gateConfigInstall => exact execGateConfigInstall_canonical _ _ s h
  | meterRefresh => exact execMeterRefresh_canonical _ s h
  | queueTelemetrySample => exact execQueueTelemetrySample_canonical _ s h
  | arpRequest => exact execArpRequest_canonical _ _ _ s h
  | neighbourSolicitation => exact execNeighbourSolicitation_canonical _ _ _ s h
  | icmpEchoRequest => exact execIcmpEchoRequest_canonical _ _ _ s h
  | frameDiscard => exact execFrameDiscard_canonical _ _ _ s h
  | mgmtRead => exact execMgmtRead_canonical _ _ s h
  | mgmtWrite => exact execMgmtWrite_canonical _ _ s h
  | csrWrite => exact execCsrWrite_canonical _ _ _ _ s h
  | breakoutChange => exact execBreakoutChange_canonical _ _ _ s h
  | qpCreate => exact execQpCreate_canonical _ s h
  | qpDestroy => exact execQpDestroy_canonical _ s h
  | qpReadBack => exact execQpReadBack_canonical _ s h
  | linkChange => exact execLinkChange_canonical _ _ _ s h
  | mgmtLinkFallback => exact execMgmtLinkFallback_canonical _ s h
  | ptpAnnounceReceive => exact execPtpAnnounceReceive_canonical _ _ _ s h
  | ptpExchange => exact execPtpExchange_canonical _ _ s h
  | announceTimeout => exact execAnnounceTimeout_canonical _ s h
  | ppsEdge => exact execPpsEdge_canonical _ s h
  | ppsLossTimeout => exact execPpsLossTimeout_canonical _ s h
  | ptpUnitSwap => exact execPtpUnitSwap_canonical _ s h
  | cxlLinkUp => exact execCxlLinkUp_canonical _ _ _ s h
  | cxlTrainRetry => exact execCxlTrainRetry_canonical _ _ s h
  | cxlLinkExit => exact execCxlLinkExit_canonical _ _ s h
  | cxlLinkRecover => exact execCxlLinkRecover_canonical _ _ _ _ s h
  | cxlRecoveryTimeout => exact execCxlRecoveryTimeout_canonical _ _ s h
  | rearm => exact execRearm_canonical _ _ s h
  | ideIntegrityFailure => exact execIdeIntegrityFailure_canonical _ _ _ s h
  | ideKeyRefresh => exact execIdeKeyRefresh_canonical _ _ s h
  | powerUp => exact execPowerUp_canonical _ s h
  | powerDown => exact execPowerDown_canonical _ s h
  | startFailure => exact execStartFailure_canonical _ s h
  | inputUndervoltage => exact execInputUndervoltage_canonical _ _ _ s h
  | inputOvervoltage => exact execInputOvervoltage_canonical _ _ _ s h
  | railFault => exact execRailFault_canonical _ _ _ s h
  | modRstNAssert => exact execModRstNAssert_canonical _ _ s h
  | moduleReset => exact execModuleReset_canonical _ s h
  | refclkLoss => exact execRefclkLoss_canonical _ _ s h
  | powerWindowEnd => exact execPowerWindowEnd_canonical _ _ s h
  | powerEmergency => exact execPowerEmergency_canonical _ _ s h
  | powerEmergencyClear => exact execPowerEmergencyClear_canonical _ s h
  | thermalSample => exact execThermalSample_canonical _ _ s h
  | phaseFault => exact execPhaseFault_canonical _ _ s h
  | railOffsetWrite => exact execRailOffsetWrite_canonical _ _ _ s h
  | i3cCapWWrite => exact execI3cCapWWrite_canonical _ _ s h
  | i3cAlertCauseRead => exact execI3cAlertCauseRead_canonical _ s h
  | presNChange => exact execPresNChange_canonical _ _ s h
  | sealBreak => exact execSealBreak_canonical _ s h
  | faultReport => exact execFaultReport_canonical _ _ s h
  | spareEntryTestComplete => exact execSpareEntryTestComplete_canonical _ _ _ s h
  | fwCopyMoveComplete => exact execFwCopyMoveComplete_canonical _ _ s h
  | pchMigrationSwitch => exact execPchMigrationSwitch_canonical _ _ s h
  | rollingTest => exact execRollingTest_canonical _ _ _ s h
  | rollingTestComplete => exact execRollingTestComplete_canonical _ _ _ _ s h
  | walkerSwapTimeout => exact execWalkerSwapTimeout_canonical _ _ s h
  | caliperMeasure => exact execCaliperMeasure_canonical _ _ s h
  | binChange => exact execBinChange_canonical _ _ s h
  | hoursUpdate => exact execHoursUpdate_canonical _ s h
  | rotSelfTest => exact execRotSelfTest_canonical _ _ s h
  | bootSequence => exact execBootSequence_canonical _ s h
  | bootImageFetch => exact execBootImageFetch_canonical _ _ s h
  | dhcpRetransmit => exact execDhcpRetransmit_canonical _ s h
  | tftpRetransmit => exact execTftpRetransmit_canonical _ s h
  | bootBudgetExpiry => exact execBootBudgetExpiry_canonical _ s h
  | bootFetchRetry => exact execBootFetchRetry_canonical _ s h
  | hbmStackTrained => exact execHbmStackTrained_canonical _ _ _ s h
  | bootFaultLogRead => exact execBootFaultLogRead_canonical _ s h
  | unknownOpcodeRequest => exact execUnknownOpcodeRequest_canonical _ _ _ s h
  | illegalInstruction => exact execIllegalInstruction_canonical _ _ _ s h
  | rnrTimerExpiry => exact execRnrTimerExpiry_canonical _ _ s h
  | fetchBudgetEnd => exact execFetchBudgetEnd_canonical _ _ s h
  | farContextKvFetchComplete => exact execFarContextKvFetchComplete_canonical _ _ _ s h
  | tokenizationTake => exact execTokenizationTake_canonical _ s h
  | dirFlush => exact execDirFlush_canonical _ s h
  | standbyPowerOn => exact execStandbyPowerOn_canonical _ s h
  | standbyPowerLoss => exact execStandbyPowerLoss_canonical _ s h
  | thermTripRelease => exact execThermTripRelease_canonical _ s h
  | sealRestored => exact execSealRestored_canonical _ s h
  | phaseReenable => exact execPhaseReenable_canonical _ _ _ s h
  | bootLimitMissed => exact execBootLimitMissed_canonical _ _ s h

theorem step_canonical {s : State} (h : Canonical s) : CanonicalOut (step s) := by
  cases hp : s.pending with
  | nil =>
    rw [step_of_idle hp]
    exact canonicalOut_next h
  | cons c rest =>
    rw [step_of_pending hp]
    have hrest : Canonical { s with pending := rest } := h
    exact exec_canonical hrest c

/-- Settles O46: a step idles or carries out one command, and each command keeps the canonical forms. -/
theorem everyStepKeepsTheCanonicalForms : Obligations.EveryStepKeepsTheCanonicalForms :=
  fun _ t h hs => (step_canonical h).elim t hs

/-- Settles O45: nothing is listed after reset. -/
theorem resetIsCanonical : Obligations.ResetIsCanonical := ⟨⟨rfl, rfl⟩, rfl⟩

end Sys2Proof.Machine
end

section
/-! Memory and registers read what was written, and the canonical forms are unique. -/

namespace Sys2Proof.Machine

/-! ### Sparse lists are determined by what they read -/

theorem sparseGet_eq_some_iff {α : Type} {l : List (Nat × α)} (h : rising l = true) {k : Nat} {v : α} :
    sparseGet l k = some v ↔ (k, v) ∈ l := by
  refine ⟨fun hg => ?_, sparseGet_eq_of_mem l k v h⟩
  clear h
  induction l with
  | nil => cases hg
  | cons x r ih =>
    obtain ⟨a, w⟩ := x
    simp only [sparseGet, beq_iff_eq] at hg
    split at hg
    next ha =>
      cases hg
      rw [ha]
      exact List.mem_cons_self
    next => exact List.mem_cons_of_mem _ (ih hg)

/-- Two sparse lists with rising keys, none of which holds a key at its default, are equal if they read the same everywhere. -/
theorem sparse_ext {α : Type} (d : Nat → α) {l m : List (Nat × α)} (hl : rising l = true) (hm : rising m = true)
    (hdl : ∀ e ∈ l, e.2 ≠ d e.1) (hdm : ∀ e ∈ m, e.2 ≠ d e.1)
    (h : ∀ a, (sparseGet l a).getD (d a) = (sparseGet m a).getD (d a)) : l = m := by
  have sub {l m : List (Nat × α)} (hl : rising l = true) (hm : rising m = true) (hdl : ∀ e ∈ l, e.2 ≠ d e.1)
      (h : ∀ a, (sparseGet l a).getD (d a) = (sparseGet m a).getD (d a)) (e : Nat × α) (he : e ∈ l) : e ∈ m := by
    have hval := h e.1
    rw [(sparseGet_eq_some_iff hl).mpr he, Option.getD_some] at hval
    cases hg : sparseGet m e.1 with
    | none =>
      rw [hg, Option.getD_none] at hval
      exact absurd hval (hdl e he)
    | some v =>
      rw [hg, Option.getD_some] at hval
      rw [← hval] at hg
      exact (sparseGet_eq_some_iff hm).mp hg
  have _ : Std.Irrefl (fun a b : Nat × α => a.1 < b.1) := ⟨fun a => Nat.lt_irrefl a.1⟩
  have _ : Std.Antisymm (fun a b : Nat × α => a.1 < b.1) := ⟨fun a b hab hba => absurd hab (Nat.lt_asymm hba)⟩
  exact ((rising_iff l).mp hl).eq_of_mem_iff ((rising_iff m).mp hm)
    (fun e => ⟨sub hl hm hdl h e, sub hm hl hdm (fun a => (h a).symm) e⟩)

/-- Settles O47: without veils an unlisted byte reads 0, so memory and the registers are sparse lists over fixed defaults. -/
theorem canonicalFormsAreUnique : Obligations.CanonicalFormsAreUnique := by
  intro s t hs ht
  obtain ⟨hsm, hsc⟩ := hs
  obtain ⟨htm, htc⟩ := ht
  rw [Memory.wf_iff] at hsm htm
  rw [Csr.wf_iff] at hsc htc
  refine ⟨fun hvs hvt h => ?_, fun h => sparse_ext resetValue hsc.1 htc.1 hsc.2 htc.2 h⟩
  refine sparse_ext (fun _ => 0) hsm.1 htm.1 hsm.2 htm.2 (fun a => ?_)
  have hbyte := h a
  rw [State.byte, State.byte, hvs, hvt] at hbyte
  exact hbyte

/-! ### Bytes -/

theorem byte_congr {s t : State} (hm : t.mem = s.mem) (hv : t.veil = s.veil) (x : Nat) : t.byte x = s.byte x := by
  rw [State.byte, State.byte, hm, hv]

namespace ReportsOnly

variable {s t : State}

theorem mem_eq (h : ReportsOnly s t) : t.mem = s.mem := by
  obtain ⟨_, _, _, _, rfl⟩ := h
  rfl

theorem veil_eq (h : ReportsOnly s t) : t.veil = s.veil := by
  obtain ⟨_, _, _, _, rfl⟩ := h
  rfl

theorem byte_eq (h : ReportsOnly s t) (x : Nat) : t.byte x = s.byte x := byte_congr h.mem_eq h.veil_eq x

end ReportsOnly

/-- What a write of a byte string lists outside it is what was listed there. -/
theorem sparseGet_memWrite_of_outside {m : List (Nat × Byte)} {a : Nat} {bs : List Byte} {x : Nat}
    (h : ¬ (a ≤ x ∧ x < a + bs.length)) : sparseGet (memWrite m a bs) x = sparseGet m x := by
  have hnone : sparseGet (listBytes a bs) x = none :=
    sparseGet_none _ _ fun e he => by have := listBytes_mem _ _ _ he; omega
  unfold memWrite
  rw [sparseGet_append, sparseGet_append, sparseGet_filter m (fun k => Nat.blt k a),
    sparseGet_filter m (fun k => Nat.ble (a + bs.length) k), hnone]
  rcases Nat.lt_or_ge x a with hx | hx
  · have hlow : Nat.blt x a = true := blt_iff.mpr hx
    have hhigh : Nat.ble (a + bs.length) x = false := Bool.eq_false_iff.mpr fun hb => by have := ble_iff.mp hb; omega
    simp [hlow, hhigh]
  · have hlow : Nat.blt x a = false := Bool.eq_false_iff.mpr fun hb => by have := blt_iff.mp hb; omega
    have hhigh : Nat.ble (a + bs.length) x = true := ble_iff.mpr (by omega)
    simp [hlow, hhigh]

/-- The bytes of memory after a byte string is put at `a`, with the veils over it cut away. -/
theorem memWrite_byte {s t : State} {a : Nat} {bs : List Byte} (hm : t.mem = memWrite s.mem a bs)
    (hv : t.veil = cutVeil s.veil a bs.length) (x : Nat) :
    t.byte x = if a ≤ x ∧ x < a + bs.length then bs.getD (x - a) 0 else s.byte x := by
  rw [State.byte, hm, hv, cutVeil_byte]
  split
  next hx =>
    rw [memWrite_get, dif_pos hx, List.getD_eq_getElem _ _ (by omega)]
  next hx => rw [sparseGet_memWrite_of_outside hx, State.byte]

theorem store_reportsOnly (s : State) (a : Nat) (bs : List Byte) :
    ReportsOnly { s with
      mem := memWrite s.mem a bs
      veil := cutVeil s.veil a bs.length
      ue := s.ue.filter (fun b => !burstWhole a bs.length b)
      ce := s.ce.filter (fun b => !(burstsOf a bs.length).contains b) } (s.store a bs) := by
  unfold State.store
  refine ReportsOnly.foldl (fun t b => ?_) _ _
  split
  · exact (ReportsOnly.refl t).dramUe _
  · exact (ReportsOnly.refl t).memCe _ _ _

theorem store_byte (s : State) (a : Nat) (bs : List Byte) (x : Nat) :
    (s.store a bs).byte x = if a ≤ x ∧ x < a + bs.length then bs.getD (x - a) 0 else s.byte x :=
  memWrite_byte (store_reportsOnly s a bs).mem_eq (store_reportsOnly s a bs).veil_eq x

theorem zeroRange_byte (s : State) (a n x : Nat) :
    (s.zeroRange a n).byte x = if a ≤ x ∧ x < a + n then 0 else s.byte x := by
  have hread : (s.zeroRange a n).byte x =
      (sparseGet (s.mem.filter (fun e => !(decide (a ≤ e.1) && decide (e.1 < a + n)))) x).getD
        (veilByte (cutVeil s.veil a n) x) := rfl
  rw [hread, cutVeil_byte, sparseGet_filter s.mem (fun k => !(decide (a ≤ k) && decide (k < a + n))), ← Bool.decide_and]
  by_cases hx : a ≤ x ∧ x < a + n
  · simp [hx]
  · simp [hx, State.byte]

/-- Settles O48. -/
theorem memoryReadsWhatWasWritten : Obligations.MemoryReadsWhatWasWritten :=
  fun s a x => ⟨fun bs => store_byte s a bs x, fun n => zeroRange_byte s a n x⟩

end Sys2Proof.Machine
end

section
/-! Registers (R14, R15): reads after writes, fields of a register, masks of access codes, and the registers of measurements. -/

namespace Sys2Proof.Machine

/-! ### Whole registers -/

theorem sparseGet_sparseSet {α : Type} [DecidableEq α] (d : α) {l : List (Nat × α)} (k j : Nat) (v : α) (h : rising l = true) :
    sparseGet (sparseSet d l k v) j = if j = k then (if v = d then none else some v) else sparseGet l j := by
  unfold sparseSet
  split
  next => exact sparseGet_erase l k j
  next => exact sparseGet_put l k j v h

theorem raw_congr {s t : State} (h : t.csr = s.csr) (x : Nat) : t.raw x = s.raw x := by
  rw [State.raw, State.raw, h]

theorem raw_setRaw {s : State} (h : Canonical s) (a x : Nat) (v : Reg) :
    (s.setRaw a v).raw x = if x = a then v else s.raw x := by
  have hread : (s.setRaw a v).raw x = (sparseGet (sparseSet (resetValue a) s.csr a v) x).getD (resetValue x) := rfl
  rw [hread, sparseGet_sparseSet _ _ _ _ ((Csr.wf_iff _).mp h.2).1]
  by_cases hx : x = a
  · rw [if_pos hx, if_pos hx, hx]
    split
    next hv => rw [Option.getD_none, hv]
    next => rw [Option.getD_some]
  · rw [if_neg hx, if_neg hx, State.raw]

theorem raw_setRaw_same {s : State} (h : Canonical s) (a : Nat) (v : Reg) : (s.setRaw a v).raw a = v := by
  rw [raw_setRaw h, if_pos rfl]

theorem raw_setRaw_of_ne {s : State} (h : Canonical s) {a x : Nat} (hx : x ≠ a) (v : Reg) : (s.setRaw a v).raw x = s.raw x := by
  rw [raw_setRaw h, if_neg hx]

/-! ### Fields -/

theorem fieldMask_getLsbD (hi lo : Nat) {i : Nat} (h : i < 64) (hl : lo ≤ hi) :
    (fieldMask hi lo).getLsbD i = (decide (lo ≤ i) && decide (i ≤ hi)) := by
  rw [fieldMask, BitVec.getLsbD_ofNat, Nat.testBit_mul_two_pow, Nat.testBit_two_pow_sub_one, decide_eq_true h, Bool.true_and,
    Bool.eq_iff_iff]
  simp only [Bool.and_eq_true, decide_eq_true_eq]
  omega

theorem setFld_eq (s : State) (a hi lo v : Nat) : s.setFld a hi lo v = s.setRaw a (putBits (s.raw a) hi lo v) := rfl

theorem raw_setFld_of_ne {s : State} (h : Canonical s) {a x : Nat} (hx : x ≠ a) (hi lo v : Nat) :
    (s.setFld a hi lo v).raw x = s.raw x := raw_setRaw_of_ne h hx _

theorem putBits_getLsbD (r : Reg) {hi lo : Nat} (v : Nat) {i : Nat} (h : i < 64) (hl : lo ≤ hi) :
    (putBits r hi lo v).getLsbD i = if lo ≤ i ∧ i ≤ hi then v.testBit (i - lo) else r.getLsbD i := by
  rw [putBits, BitVec.getLsbD_or, BitVec.getLsbD_and, BitVec.getLsbD_not, fieldMask_getLsbD hi lo h hl, BitVec.getLsbD_ofNat,
    Nat.testBit_mul_two_pow, Nat.testBit_mod_two_pow]
  by_cases hin : lo ≤ i ∧ i ≤ hi
  · have hwidth : i - lo < hi + 1 - lo := by omega
    simp [h, hin, hwidth]
  · have hout : ¬ (lo ≤ i ∧ i - lo < hi + 1 - lo) := by omega
    rw [if_neg hin]
    simp only [h, decide_true, Bool.true_and]
    grind

theorem fld_testBit (s : State) {a hi lo : Nat} (j : Nat) :
    (s.fld a hi lo).testBit j = (decide (j < hi + 1 - lo) && (s.raw a).getLsbD (j + lo)) := by
  rw [State.fld, Nat.testBit_mod_two_pow, Nat.testBit_div_two_pow, BitVec.testBit_toNat]

theorem fld_setFld {s : State} (h : Canonical s) (a v : Nat) {hi lo : Nat} (hl : lo ≤ hi) (hh : hi < 64) :
    (s.setFld a hi lo v).fld a hi lo = v % 2 ^ (hi + 1 - lo) := by
  refine Nat.eq_of_testBit_eq fun j => ?_
  rw [fld_testBit, setFld_eq, raw_setRaw_same h, Nat.testBit_mod_two_pow]
  by_cases hj : j < hi + 1 - lo
  · rw [putBits_getLsbD _ _ (by omega) hl, if_pos (by omega), Nat.add_sub_cancel]
  · simp [hj]

theorem bit_setFld_of_outside {s : State} (h : Canonical s) (a v : Nat) {hi lo i : Nat} (hl : lo ≤ hi) (hi' : i < lo ∨ hi < i) :
    (s.setFld a hi lo v).bit a i = s.bit a i := by
  rw [State.bit, State.bit, setFld_eq, raw_setRaw_same h]
  by_cases h64 : i < 64
  · rw [putBits_getLsbD _ _ h64 hl, if_neg (by omega)]
  · rw [BitVec.getLsbD_of_ge _ _ (by omega), BitVec.getLsbD_of_ge _ _ (by omega)]

/-! ### Access codes -/

/-- Some field of the heading with access code `k` holds bit `i`. -/
def RegDesc.hasBit (d : RegDesc) (k : Access) (i : Nat) : Bool :=
  d.fields.any (fun f => f.acc == k && decide (f.lo ≤ i) && decide (i ≤ f.hi))

theorem RegDesc.mask_getLsbD {d : RegDesc} (h : d.fields.all (fun f => decide (f.lo ≤ f.hi) && decide (f.hi < 64)) = true)
    (k : Access) {i : Nat} (hi : i < 64) : (d.mask k).getLsbD i = d.hasBit k i := by
  have acc (fs : List RegField) (hfs : fs.all (fun f => decide (f.lo ≤ f.hi) && decide (f.hi < 64)) = true) (m : Reg) :
      (fs.foldl (fun m f => if f.acc == k then m ||| fieldMask f.hi f.lo else m) m).getLsbD i =
        (m.getLsbD i || fs.any (fun f => f.acc == k && decide (f.lo ≤ i) && decide (i ≤ f.hi))) := by
    induction fs generalizing m with
    | nil => simp
    | cons f fs ih =>
      rw [List.all_cons, Bool.and_eq_true, Bool.and_eq_true, decide_eq_true_eq] at hfs
      obtain ⟨⟨hlo, -⟩, hrest⟩ := hfs
      rw [List.foldl_cons, ih hrest, List.any_cons]
      by_cases hk : (f.acc == k) = true
      · rw [if_pos hk, BitVec.getLsbD_or, fieldMask_getLsbD _ _ hi hlo, hk, Bool.true_and, Bool.or_assoc]
      · rw [if_neg hk]
        simp [hk]
  rw [RegDesc.mask, acc _ h, RegDesc.hasBit]
  simp

/-- R14: which of the fields' access codes decides a bit that is written. -/
theorem RegDesc.written_getLsbD {d : RegDesc} (h : d.fields.all (fun f => decide (f.lo ≤ f.hi) && decide (f.hi < 64)) = true)
    (old v : Reg) {i : Nat} (hi : i < 64) :
    (d.written old v).getLsbD i = if v.getLsbD i && d.hasBit .w1s i then true else if v.getLsbD i && d.hasBit .w1c i then false
      else if d.hasBit .rw i then v.getLsbD i else old.getLsbD i := by
  simp only [RegDesc.written, BitVec.getLsbD_or, BitVec.getLsbD_and, BitVec.getLsbD_not, RegDesc.mask_getLsbD h _ hi, hi]
  cases v.getLsbD i <;> cases d.hasBit .w1s i <;> cases d.hasBit .w1c i <;> cases d.hasBit .rw i <;> cases old.getLsbD i <;> rfl

/-- Table 0-9: a write-only field reads as zero. -/
theorem readAs_fst_getLsbD {d : RegDesc} (h : d.fields.all (fun f => decide (f.lo ≤ f.hi) && decide (f.hi < 64)) = true)
    (s : State) (a : Nat) {i : Nat} (hi : i < 64) :
    (s.readAs a (some d)).1.getLsbD i = ((s.shown a).getLsbD i && !d.hasBit .wo i) := by
  rw [State.readAs, BitVec.getLsbD_and, BitVec.getLsbD_not, RegDesc.mask_getLsbD h _ hi, decide_eq_true hi, Bool.true_and]

/-- Table 0-9: a read clears the RC bits. -/
theorem raw_readAs_getLsbD {d : RegDesc} (h : d.fields.all (fun f => decide (f.lo ≤ f.hi) && decide (f.hi < 64)) = true)
    {s : State} (hs : Canonical s) (a : Nat) {i : Nat} (hi : i < 64) :
    ((s.readAs a (some d)).2.raw a).getLsbD i = ((s.raw a).getLsbD i && !d.hasBit .rc i) := by
  have hraw : (s.readAs a (some d)).2.raw a =
      (if d.mask .rc == 0 then s else s.setRaw a (s.raw a &&& ~~~ d.mask .rc)).raw a := rfl
  rw [hraw, ← RegDesc.mask_getLsbD h .rc hi]
  split
  next hz => simp [beq_iff_eq.mp hz]
  next =>
    rw [raw_setRaw_same hs, BitVec.getLsbD_and, BitVec.getLsbD_not, decide_eq_true hi, Bool.true_and]

/-- Settles O50. -/
theorem registersFollowTheirAccessCodes : Obligations.RegistersFollowTheirAccessCodes := by
  refine ⟨fun s a hi lo v hs hl hh => ⟨fld_setFld hs a v hl hh, fun i => bit_setFld_of_outside hs a v hl,
    fun x hx => raw_setFld_of_ne hs hx hi lo v⟩, fun d old v i hi => ⟨fun hd => RegDesc.written_getLsbD hd old v hi, fun s a hs hd =>
      ⟨readAs_fst_getLsbD hd s a hi, raw_readAs_getLsbD hd hs a hi⟩⟩⟩

/-- Settles O59: the three cases of `readyHint`. -/
theorem retryHintsOfMissingFunctions : Obligations.RetryHintsOfMissingFunctions := by
  intro s b intake
  refine ⟨fun h => ?_, fun h => ?_, fun hzero hones => ?_⟩
  · simp [State.readyHint, h]
  · simp [State.readyHint, h]
  · rw [State.readyHint, if_neg (by simpa using hzero), if_neg (by simpa using hones)]

end Sys2Proof.Machine
end

section
/-! Byte strings over register words, measurements (R646, R647) and the visited set of a walk (R202). -/

namespace Sys2Proof.Machine

/-! ### Little-endian numbers -/

theorem leNat_lt (bs : List Byte) : leNat bs < 256 ^ bs.length := by
  induction bs with
  | nil => decide
  | cons b bs ih =>
    rw [leNat, List.length_cons, Nat.pow_succ]
    have hb : b.toNat < 256 := b.isLt
    omega

theorem toLE_leNat (bs : List Byte) : toLE bs.length (leNat bs) = bs := by
  induction bs with
  | nil => rfl
  | cons b bs ih =>
    have hb : b.toNat < 256 := b.isLt
    have hrest : (b.toNat + 256 * leNat bs) / 256 = leNat bs := by omega
    have hfirst : BitVec.ofNat 8 (b.toNat + 256 * leNat bs) = b := by
      apply BitVec.eq_of_toNat_eq
      rw [BitVec.toNat_ofNat]
      omega
    rw [List.length_cons, leNat, toLE, hrest, hfirst, ih]

/-- A byte string is its pieces of `k` bytes, one after the other. -/
theorem flatMap_pieces (k n : Nat) (bs : List Byte) :
    (List.range n).flatMap (fun i => (bs.drop (k * i)).take k) = bs.take (k * n) := by
  induction n with
  | zero => simp
  | succ n ih =>
    rw [List.range_succ, List.flatMap_append, ih, List.flatMap_cons, List.flatMap_nil, List.append_nil, Nat.mul_succ,
      List.take_add]

/-! ### Runs of register words -/

theorem foldl_setRaw_canonical {s : State} (h : Canonical s) (f : Nat → Nat) (g : Nat → Reg) (l : List Nat) :
    Canonical (l.foldl (fun s i => s.setRaw (f i) (g i)) s) :=
  canonical_foldl h fun s i hs => setRaw_canonical s (f i) (g i) hs

theorem raw_foldl_setRaw_of_ne {s : State} (h : Canonical s) (f : Nat → Nat) (g : Nat → Reg) {x : Nat} {n : Nat}
    (hx : ∀ i, i < n → x ≠ f i) : ((List.range n).foldl (fun s i => s.setRaw (f i) (g i)) s).raw x = s.raw x := by
  induction n with
  | zero => rfl
  | succ n ih =>
    rw [List.range_succ, List.foldl_append, List.foldl_cons, List.foldl_nil,
      raw_setRaw_of_ne (foldl_setRaw_canonical h f g _) (hx n n.lt_succ_self), ih fun i hi => hx i (Nat.lt_succ_of_lt hi)]

theorem raw_foldl_setRaw {s : State} (h : Canonical s) (f : Nat → Nat) (g : Nat → Reg) (hf : f.Injective) {i n : Nat}
    (hi : i < n) : ((List.range n).foldl (fun s i => s.setRaw (f i) (g i)) s).raw (f i) = g i := by
  induction n with
  | zero => omega
  | succ n ih =>
    rw [List.range_succ, List.foldl_append, List.foldl_cons, List.foldl_nil, raw_setRaw (foldl_setRaw_canonical h f g _)]
    by_cases hin : i = n
    · rw [hin, if_pos rfl]
    · rw [if_neg fun he => hin (hf he), ih (by omega)]

theorem words_setWords_same {s : State} (h : Canonical s) (a : Nat) {bs : List Byte} (hlen : bs.length = 32) :
    (s.setWords a bs).words a = bs := by
  have word (i : Nat) (hi : i < 4) : toLE 8 ((s.setWords a bs).raw (a + i * 8)).toNat = (bs.drop (8 * i)).take 8 := by
    have hpiece : ((bs.drop (8 * i)).take 8).length = 8 := by
      rw [List.length_take, List.length_drop, hlen]
      omega
    have hlt : fieldAt bs (8 * i) 8 < 2 ^ 64 := by
      have := leNat_lt ((bs.drop (8 * i)).take 8)
      rwa [hpiece] at this
    rw [State.setWords, raw_foldl_setRaw h (fun i => a + i * 8) _ (fun i j hij => by simp only at hij; omega) hi,
      BitVec.toNat_ofNat, Nat.mod_eq_of_lt hlt]
    have hle := toLE_leNat ((bs.drop (8 * i)).take 8)
    rwa [hpiece] at hle
  have hwords : (s.setWords a bs).words a = (List.range 4).flatMap (fun i => (bs.drop (8 * i)).take 8) :=
    List.flatMap_congr fun i hi => word i (List.mem_range.mp hi)
  rw [hwords, flatMap_pieces, List.take_of_length_le (Nat.le_of_eq hlen)]

theorem words_congr {s t : State} {a : Nat} (h : ∀ i, i < 4 → t.raw (a + i * 8) = s.raw (a + i * 8)) : t.words a = s.words a :=
  List.flatMap_congr fun i hi => by rw [h i (List.mem_range.mp hi)]

theorem words_setWords_of_disjoint {s : State} (h : Canonical s) {a x : Nat} (bs : List Byte)
    (hx : ∀ i j, i < 4 → j < 4 → x + i * 8 ≠ a + j * 8) : (s.setWords a bs).words x = s.words x :=
  words_congr fun i hi => raw_foldl_setRaw_of_ne h _ _ fun j hj => hx i j hi hj

theorem foldl_setRaw_sec (f : Nat → Nat) (g : Nat → Reg) (l : List Nat) (s : State) :
    (l.foldl (fun s i => s.setRaw (f i) (g i)) s).sec = s.sec := by
  induction l generalizing s with
  | nil => rfl
  | cons i l ih => rw [List.foldl_cons, ih, State.setRaw_sec]

theorem setWords_sec (s : State) (a : Nat) (bs : List Byte) : (s.setWords a bs).sec = s.sec := foldl_setRaw_sec _ _ _ s

theorem foldl_setRaw_now (f : Nat → Nat) (g : Nat → Reg) (l : List Nat) (s : State) :
    (l.foldl (fun s i => s.setRaw (f i) (g i)) s).now = s.now := by
  induction l generalizing s with
  | nil => rfl
  | cons i l ih => rw [List.foldl_cons, ih, State.setRaw_now]

theorem setWords_now (s : State) (a : Nat) (bs : List Byte) : (s.setWords a bs).now = s.now := foldl_setRaw_now _ _ _ s

/-! ### Measurements -/

theorem sha3_length (bs : List Byte) : (sha3 bs).length = 32 := by
  rw [sha3, List.length_map, List.length_range]

theorem raw_setFld_withSec_of_ne {s : State} (h : Canonical s) (x : Sec) {a b : Nat} (hb : b ≠ a) (hi lo v : Nat) :
    (({ s with sec := x } : State).setFld a hi lo v).raw b = s.raw b := by
  have hsec : Canonical { s with sec := x } := canonical_of h rfl rfl
  rw [raw_setFld_of_ne hsec hb]
  exact raw_congr rfl b

/-- A measurement writes the words of its register, the log and the log's register. -/
theorem raw_measure_of_ne {s : State} (h : Canonical s) (r kind detail : Nat) (d : List Byte) {x : Nat} (hx : x ≠ SEC_LOG_CNT) :
    (s.measure r kind detail d).raw x = (s.setWords (SEC_MEAS r 0) (sha3 (s.words (SEC_MEAS r 0) ++ d))).raw x := by
  have hs := setWords_canonical s (SEC_MEAS r 0) (sha3 (s.words (SEC_MEAS r 0) ++ d)) h
  unfold State.measure
  generalize s.setWords (SEC_MEAS r 0) (sha3 (s.words (SEC_MEAS r 0) ++ d)) = w at hs
  dsimp only
  split
  next => exact raw_setFld_withSec_of_ne hs _ hx _ _ _
  next => exact raw_setFld_of_ne hs hx _ _ _

theorem measure_mlog (s : State) (r kind detail : Nat) (d : List Byte) :
    (s.measure r kind detail d).sec.mlog = s.sec.mlog ++ (if s.sec.mlog.length < 4096 then
      [toLE 4 s.sec.mlog.length ++ toLE 1 r ++ toLE 1 kind ++ zeros 2 ++ toLE 8 s.now ++ toLE 8 detail ++ padTo 32 (d.take 32) ++
        zeros 8] else []) := by
  have hsec := setWords_sec s (SEC_MEAS r 0) (sha3 (s.words (SEC_MEAS r 0) ++ d))
  have hnow := setWords_now s (SEC_MEAS r 0) (sha3 (s.words (SEC_MEAS r 0) ++ d))
  unfold State.measure
  generalize s.setWords (SEC_MEAS r 0) (sha3 (s.words (SEC_MEAS r 0) ++ d)) = w at hsec hnow
  dsimp only
  rw [← hsec, ← hnow]
  split
  next => rw [setFld_eq, State.setRaw_sec]
  next => rw [State.bump, setFld_eq, State.setRaw_sec, List.append_nil]

/-- Settles O58. -/
theorem measurementsExtendTheirRegister : Obligations.MeasurementsExtendTheirRegister := by
  intro s r kind detail d hs hr t
  have hwords (x : Nat) (hx : x < 8) : t.words (SEC_MEAS x 0) =
      (s.setWords (SEC_MEAS r 0) (sha3 (s.words (SEC_MEAS r 0) ++ d))).words (SEC_MEAS x 0) :=
    words_congr fun i hi => raw_measure_of_ne hs r kind detail d (by simp only [SEC_MEAS, SEC_LOG_CNT]; omega)
  refine ⟨?_, fun x hx hne => ?_, fun hlt => ?_, fun hge => ?_⟩
  · rw [hwords r hr, words_setWords_same hs _ (sha3_length _)]
  · rw [hwords x hx, words_setWords_of_disjoint hs _ fun i j hi hj => by simp only [SEC_MEAS]; omega]
  · rw [measure_mlog, if_pos hlt]
    exact ⟨List.length_append, List.take_left⟩
  · rw [measure_mlog, if_neg (Nat.not_lt.mpr hge), List.append_nil]

/-! ### The visited set of a walk -/

theorem Walk.visited_iff (w : Walk) (n : Nat) : w.visited n = true ↔ (visitBits n).1 ∈ w.vis ∧ (visitBits n).2 ∈ w.vis := by
  rw [Walk.visited, Bool.and_eq_true, List.contains_iff_mem, List.contains_iff_mem]

/-- A bit that is put into the filter once more is there already. -/
theorem mem_of_filter_put {l : List Nat} {a b : Nat} : b ∈ (if l.contains a then l else a :: l) ↔ b ∈ l ∨ b = a := by
  split
  next h => exact ⟨.inl, fun hb => hb.elim id fun he => he ▸ List.contains_iff_mem.mp h⟩
  next => rw [List.mem_cons, or_comm]

theorem Walk.mem_visit_vis (w : Walk) (n b : Nat) :
    b ∈ (w.visit n).vis ↔ b ∈ w.vis ∨ b = (visitBits n).1 ∨ b = (visitBits n).2 := by
  simp only [Walk.visit, mem_of_filter_put, or_assoc]

/-- Settles O57: a node is visited where both of its bits are set, and a visit sets the bits of its node and no others. -/
theorem visitedNodesStayVisited : Obligations.VisitedNodesStayVisited := by
  intro w n m
  refine ⟨w.visited_iff m, ?_, fun h => ?_, w.mem_visit_vis n⟩
  · rw [Walk.visited_iff, Walk.mem_visit_vis, Walk.mem_visit_vis]
    exact ⟨.inr (.inl rfl), .inr (.inr rfl)⟩
  · rw [Walk.visited_iff] at h ⊢
    exact ⟨(w.mem_visit_vis n _).mpr (.inl h.1), (w.mem_visit_vis n _).mpr (.inl h.2)⟩

end Sys2Proof.Machine
end

section
/-! Sessions, and how a clause about a host command comes down to its body. -/

namespace Sys2Proof.Machine

/-- A clause about a host command is one about the body that its opcode names. -/
theorem hostEffect_of_body {mk : Stamp → Req → Instr} {op : Nat} {P : Cmd → State → Prop} {e : Cmd → State → State}
    (body : Cmd → State → State)
    (hx : ∀ t r s, exec (mk t r) s = .next (runAt t (fun s => s.receive op r) s))
    (hb : ∀ c u, c.hdr.opcode = op → runBody c u = body c u) (he : ∀ c u, P c u → body c u = e c u) : HostEffect mk op P e :=
  hostEffect_of hx (fun c u ho hp => (hb c u ho).trans (he c u hp))

theorem bodySessionOpen_eq {c : Cmd} {u : State} (hs : shapedAs c 16 [(6, 2), (10, 2)] = true)
    (hn : u.session c.hdr.qp = none) (ho : sessionOpenOk c.input = true) :
    bodySessionOpen c u =
      let f := fieldAt c.input
      let granted := 1 + Config.freeBelow u.freeCtr (f 4 2)
      let rt := if (u.part c.hdr.partition).assign.rt then 16 else 0
      (u.tick.setQp c.hdr.qp (fun q => { q with
        session := some { recv := f 0 4, granted := granted, evCount := f 8 2, evTime := f 12 4 } })).reply c stOk []
          (toLE 4 1052704 ++ toLE 2 granted ++ toLE 2 (c.hdr.partition + rt) ++ toLE 2 (f 8 2) ++ zeros 2 ++ toLE 4 (f 12 4)) := by
  unfold bodySessionOpen
  rw [shaped_of hs, hn]
  simp [ho]

theorem bodySetEventCoalesce_eq {c : Cmd} {u : State} (hs : shapedAs c 8 [(2, 2)] = true) (hn : fieldAt c.input 0 2 ≠ 0)
    (ht : fieldAt c.input 4 4 ≤ 1048575) :
    bodySetEventCoalesce c u = (u.setQp c.hdr.qp (fun q => { q with session := q.session.map (fun e =>
      { e with evCount := fieldAt c.input 0 2, evTime := fieldAt c.input 4 4 }) })).refuse c stOk := by
  unfold bodySetEventCoalesce
  rw [shaped_of hs]
  simp [hn, ht]

theorem bodyCountersRead_eq {c : Cmd} {u : State} (hs : shapedAs c 8 [(1, 7)] = true) (hf : fieldAt c.input 0 1 < 2) :
    bodyCountersRead c u =
      let counts := ((u.qp? c.hdr.qp).map (fun q => q.counts)).getD {}
      (if fieldAt c.input 0 1 = 1 then u.setQp c.hdr.qp (fun q => { q with counts := {} }) else u).replyData c stOk []
        counts.bytes := by
  unfold bodyCountersRead
  rw [shaped_of hs]
  simp [hf]

/-- No SESSION_OPEN of the queue pair is outstanding, so none waits for the close. -/
theorem no_open_waits {l : List Cmd} {qp : Nat} (k : Cmd → Bool)
    (h : l.all (fun d => !(d.hdr.qp == qp && d.hdr.opcode == 0x0100)) = true) :
    (l.filter k).filter (fun d => d.hdr.qp == qp && d.hdr.opcode == 0x0100 && d.phase == .waiting) = [] := by
  rw [List.all_eq_true] at h
  rw [List.filter_eq_nil_iff]
  intro d hd
  have hq := h d (List.mem_of_mem_filter hd)
  rw [Bool.not_eq_true'] at hq
  rw [hq, Bool.false_and]
  exact Bool.false_ne_true

theorem sessionCloseCompleteStep_eq {qp id : Nat} {b : State} (hc : ((b.session qp).bind (fun e => e.closing)) = some id)
    (hw : (b.cmd? id).any (fun c => c.phase == .waiting) = true)
    (ho : (b.outstanding qp).all (fun d => decide (id ≤ d.id)) = true)
    (hn : b.cmds.all (fun d => !(d.hdr.qp == qp && d.hdr.opcode == 0x0100)) = true) :
    sessionCloseCompleteStep qp b = (b.setQp qp (fun q => { q with session := none })).endWith id stOk := by
  rw [Option.any_eq_true] at hw
  obtain ⟨c, hcmd, hw⟩ := hw
  have hid : c.id = id := by simpa using List.find?_some hcmd
  have hlast : (b.outstanding qp).any (fun d => d.id < c.id) = false := by
    rw [List.all_eq_true] at ho
    rw [List.any_eq_false]
    intro d hd
    have := ho d hd
    simp only [decide_eq_true_eq] at this ⊢
    omega
  unfold sessionCloseCompleteStep
  rw [hc, Option.bind_some, hcmd]
  dsimp only
  rw [hlast, eq_of_beq hw, if_neg (by decide), reply_cmds, State.setQp_cmds, no_open_waits _ hn, List.foldl_nil]
  unfold State.endWith
  rw [show (b.setQp qp _).cmd? id = some c from hcmd]
  rfl

/-- Settles O1, clause by clause from what the bodies do. -/
theorem sessionCommandsHaveTheirEffect : Obligations.SessionCommandsHaveTheirEffect := by
  unfold Obligations.SessionCommandsHaveTheirEffect
  refine ⟨?_, ?_, ?_, ?_, ?_, ?_, ?_⟩
  case refine_1 =>
    exact hostEffect_of_body bodySessionOpen (fun _ _ _ => rfl) (fun c u ho => by simp only [runBody, ho])
      (fun c u ⟨hs, hn, hok⟩ => bodySessionOpen_eq hs hn hok)
  case refine_2 =>
    exact hostEffect_of_body bodySessionClose (fun _ _ _ => rfl) (fun c u ho => by simp only [runBody, ho]) (fun c u _ => rfl)
  case refine_3 =>
    exact fun qp id => unitEffect_of (fun _ _ => rfl)
      (fun b ⟨hc, hw, hl, hn⟩ => sessionCloseCompleteStep_eq hc hw hl hn)
  case refine_4 =>
    exact hostEffect_of_body bodyEcho (fun _ _ _ => rfl) (fun c u ho => by simp only [runBody, ho]) (fun c u _ => rfl)
  case refine_5 =>
    exact hostEffect_of_body bodySetEventCoalesce (fun _ _ _ => rfl) (fun c u ho => by simp only [runBody, ho])
      (fun c u ⟨hs, hn, ht⟩ => bodySetEventCoalesce_eq hs hn ht)
  case refine_6 =>
    exact hostEffect_of_body bodyReadinessQuery (fun _ _ _ => rfl) (fun c u ho => by simp only [runBody, ho]) (fun c u hs => shaped_of hs)
  case refine_7 =>
    exact hostEffect_of_body bodyCountersRead (fun _ _ _ => rfl) (fun c u ho => by simp only [runBody, ho])
      (fun c u ⟨hs, hf⟩ => bodyCountersRead_eq hs hf)

end Sys2Proof.Machine
end

section
/-! What a step does besides its command's own effect, where nothing goes on in the background. -/

namespace Sys2Proof.Machine

theorem foldl_fixed_of_mem {α β : Type} {f : β → α → β} {l : List α} {b : β} (h : ∀ a ∈ l, f b a = b) : l.foldl f b = b := by
  induction l with
  | nil => rfl
  | cons a l ih =>
    rw [List.foldl_cons, h a (by simp)]
    exact ih (fun x hx => h x (by simp [hx]))

/-! ### Power -/

theorem alive_downEnd (s : State) (n : Stamp) : (s.downEnd n).alive = false := by
  unfold State.downEnd State.alive
  cases h : s.pwr.again <;> simp [h]

theorem alive_setPwr_wiped (s : State) (h : s.pwr.phase = .powerDown) :
    (s.setPwr (fun p => { p with wiped := true })).alive = false := by
  unfold State.setPwr State.alive
  simp [h]

theorem wipe_pwr (s : State) : s.wipe.pwr = { s.pwr with duty := 16, emerg := false, thermal := false } := by
  unfold State.wipe State.showCap State.setFld
  simp only [State.setRaw_pwr]

/-- Where commands are carried out, no power-down has come to an end. -/
theorem powerTick_of_alive {s : State} (h : s.powerTick.alive = true) : s.powerTick = s := by
  unfold State.powerTick at h ⊢
  cases hp : s.pwr.phase with
  | powerDown =>
    rw [hp] at h
    dsimp only at h ⊢
    by_cases hd : s.pwr.since + 3_500_000 ≤ s.now
    · rw [if_pos hd, alive_downEnd] at h
      cases h
    · rw [if_neg hd] at h ⊢
      by_cases hw : (!s.pwr.wiped && decide (s.pwr.since + 1_000_000 ≤ s.now)) = true
      · rw [if_pos hw, alive_setPwr_wiped _ (by rw [wipe_pwr]; exact hp)] at h
        cases h
      · rw [if_neg hw]
  | emergencyDown =>
    rw [hp] at h
    dsimp only at h ⊢
    by_cases hd : s.pwr.since + 2_500_000 ≤ s.now
    · rw [if_pos hd, alive_downEnd] at h
      cases h
    · rw [if_neg hd]
  | _ => rfl

theorem at_of_acts {s : State} {t : Stamp} (h : s.acts t = true) : s.at_ t = { s with now := max s.now t } :=
  powerTick_of_alive h

/-! ### What is due -/

theorem installTables_of_none {s : State} (h : ∀ x ∈ s.tables, x.next = none) : s.installTables = s :=
  foldl_fixed_of_mem (fun x hx => by rw [h x hx])

theorem commitEvictions_of_none {s : State} (h : ∀ e ∈ s.dir, e.2.leaving = none) : s.commitEvictions = s := by
  have hd : s.dir.filter (fun e => e.2.leaving.any (fun x => x.1 < s.now)) = [] :=
    List.filter_eq_nil_iff.mpr (fun e he => by simp [h e he])
  unfold State.commitEvictions
  rw [hd]
  rfl

theorem finishJobs_of_none {s : State} (h : ∀ j ∈ s.jobs, j.unit = none) : s.finishJobs = s := by
  unfold State.finishJobs
  dsimp only
  rw [List.filter_eq_nil_iff.mpr (fun j hj => by simp [h j hj])]
  rfl

theorem tearsDue_of_none {s : State} (h : ∀ x ∈ s.parts, x.tears = []) : s.tearsDue = s := by
  refine foldl_fixed_of_mem (fun p _ => ?_)
  have hp : (s.part p).tears = [] := by
    unfold State.part
    rw [List.getD_eq_getElem?_getD]
    cases hx : s.parts[p]? with
    | none => rfl
    | some x => exact h x (List.mem_of_getElem? hx)
  unfold State.endTears
  rw [hp]
  rfl

theorem releaseOrdered_of_none {s : State} (h : ∀ c ∈ s.cmds, c.phase ≠ .ordered) (n : Nat) : State.releaseOrdered n s = s := by
  cases n with
  | zero => rfl
  | succ n =>
    have hf : s.cmds.find? (fun c => c.phase == .ordered && !s.mustWait c) = none :=
      List.find?_eq_none.mpr (fun c hc => by simp [h c hc])
    unfold State.releaseOrdered
    rw [hf]

theorem deadlinesDue_of_none {s : State} (hq : ∀ q ∈ s.searches, q.ended = none → ∀ d, q.deadline = some d → s.now < d)
    (hc : ∀ c ∈ s.cmds, c.hdr.deadline ≠ 0 → s.now < c.hdr.deadline) : s.deadlinesDue = s := by
  have hl : s.searches.filter (fun q => q.ended.isNone && q.deadline.any (fun d => d ≤ s.now)) = [] := by
    refine List.filter_eq_nil_iff.mpr (fun q hmem hn => ?_)
    rw [Bool.and_eq_true, Option.isNone_iff_eq_none, Option.any_eq_true] at hn
    obtain ⟨he, d, hd, hle⟩ := hn
    exact absurd (of_decide_eq_true hle) (Nat.not_le.mpr (hq q hmem he d hd))
  have hd : s.cmds.filter (fun c => c.hdr.deadline != 0 && c.hdr.deadline ≤ s.now) = [] := by
    refine List.filter_eq_nil_iff.mpr (fun c hmem hn => ?_)
    rw [Bool.and_eq_true, bne_iff_ne] at hn
    exact absurd (of_decide_eq_true hn.2) (Nat.not_le.mpr (hc c hmem hn.1))
  unfold State.deadlinesDue
  simp only [hl, List.foldl_nil, hd, List.map_nil]

/-- The parts of `quiet`. -/
theorem quiet_iff {s : State} {t : Stamp} :
    s.quiet t = true ↔
      ((∀ j ∈ s.jobs, j.unit = none) ∧ (∀ e ∈ s.dir, e.2.leaving = none) ∧
        (∀ q ∈ s.searches, q.ended = none → ∀ d, q.deadline = some d → max s.now t < d) ∧
        (∀ c ∈ s.cmds, c.hdr.deadline ≠ 0 → max s.now t < c.hdr.deadline)) ∧
      (s.spn.held = [] ∧ s.embJobs = [] ∧ s.hotJobs = [] ∧ (∀ c ∈ s.cmds, c.phase ≠ .ordered)) ∧
      (∀ x ∈ s.tables, x.next = none) ∧ (∀ x ∈ s.parts, x.tears = []) ∧ (∀ q ∈ s.seqs, q.verdict = none) ∧
      s.sent.length ≤ s.framed := by
  unfold State.quiet
  simp only [Bool.and_eq_true, List.all_eq_true, Option.isNone_iff_eq_none, List.isEmpty_iff, bne_iff_ne, Bool.or_eq_true,
    Option.isSome_iff_ne_none, Option.all_eq_true, decide_eq_true_eq, beq_iff_eq, ne_eq, and_assoc, or_iff_not_imp_left,
    not_not]

theorem upTo_of_none {s : State} (hjobs : ∀ j ∈ s.jobs, j.unit = none) (hdir : ∀ e ∈ s.dir, e.2.leaving = none)
    (hq : ∀ q ∈ s.searches, q.ended = none → ∀ d, q.deadline = some d → s.now < d)
    (hd : ∀ c ∈ s.cmds, c.hdr.deadline ≠ 0 → s.now < c.hdr.deadline) (ho : ∀ c ∈ s.cmds, c.phase ≠ .ordered)
    (htab : ∀ x ∈ s.tables, x.next = none) (htear : ∀ x ∈ s.parts, x.tears = []) : s.upTo = s := by
  unfold State.upTo
  rw [installTables_of_none htab, commitEvictions_of_none hdir, finishJobs_of_none hjobs, tearsDue_of_none htear]
  dsimp only
  rw [releaseOrdered_of_none ho, deadlinesDue_of_none hq hd]

theorem begun_of_quiet {s : State} {t : Stamp} (ha : s.acts t = true) (hq : s.quiet t = true) :
    s.begun t = { s with now := max s.now t } := by
  obtain ⟨⟨hjobs, hdir, hsearch, hdead⟩, ⟨-, -, -, hord⟩, htab, htear, -, -⟩ := quiet_iff.mp hq
  have hu : ({ s with now := max s.now t } : State).upTo = { s with now := max s.now t } :=
    upTo_of_none hjobs hdir hsearch hdead hord htab htear
  rw [← at_of_acts ha] at hu ⊢
  exact hu

/-! ### What follows -/

theorem spnPump_of_none {u : State} (h : u.spn.held = []) : u.spnPump = u := by
  unfold State.spnPump
  rw [h]
  dsimp only [List.filter_nil, List.foldl_nil]
  rw [← h]

theorem embPump_of_none {u : State} (h : u.embJobs = []) : u.embPump = u := by
  unfold State.embPump
  rw [h]
  rfl

theorem hotPump_of_none {u : State} (h : u.hotJobs = []) : u.hotPump = u := by
  unfold State.hotPump
  rw [h]
  rfl

theorem settleEndings_of_none {u : State} (h : ∀ q ∈ u.seqs, q.verdict = none) : u.settleEndings = u :=
  foldl_fixed_of_mem (fun q hq => by rw [h q hq])

theorem settle_of_none {u : State} (hs : u.spn.held = []) (he : u.embJobs = []) (hh : u.hotJobs = [])
    (ho : ∀ c ∈ u.cmds, c.phase ≠ .ordered) (hv : ∀ q ∈ u.seqs, q.verdict = none) : u.settle = u := by
  unfold State.settle
  rw [spnPump_of_none hs, embPump_of_none he, hotPump_of_none hh, settleEndings_of_none hv]
  exact releaseOrdered_of_none ho _

/-- Framing puts frames into the egress queue and changes nothing else. -/
theorem frameOutput_egress (u : State) (o : Out) : ∃ l, u.frameOutput o = { u with egress := u.egress ++ l } := by
  have hnil : u = { u with egress := u.egress ++ [] } := by rw [List.append_nil]
  unfold State.frameOutput
  split
  · exact ⟨[], hnil⟩
  · split
    · exact ⟨[], hnil⟩
    · exact ⟨_, rfl⟩

theorem foldl_frameOutput_egress (os : List Out) (u : State) :
    ∃ l, os.foldl (fun s o => s.frameOutput o) u = { u with egress := u.egress ++ l } := by
  induction os generalizing u with
  | nil => exact ⟨[], by rw [List.append_nil]; rfl⟩
  | cons o os ih =>
    obtain ⟨k, hk⟩ := frameOutput_egress u o
    obtain ⟨l, hl⟩ := ih (u.frameOutput o)
    exact ⟨k ++ l, by rw [List.foldl_cons, hl, hk, List.append_assoc]⟩

theorem ended_of_none {u : State} (s : State) (hs : u.spn.held = []) (he : u.embJobs = []) (hh : u.hotJobs = [])
    (ho : ∀ c ∈ u.cmds, c.phase ≠ .ordered) (hv : ∀ q ∈ u.seqs, q.verdict = none) :
    ∃ frames, s.ended u = { u with pending := s.pending, egress := u.egress ++ frames, framed := u.sent.length } := by
  obtain ⟨l, hl⟩ := foldl_frameOutput_egress (u.sent.drop u.framed) u
  refine ⟨l, ?_⟩
  unfold State.ended State.frameOutputs
  rw [settle_of_none hs he hh ho hv, hl]
  rfl

/-- Settles O52, from what each part of a step's beginning and end does where nothing waits for it. -/
theorem quietStepsChangeOnlyByTheirEffect : Obligations.QuietStepsChangeOnlyByTheirEffect :=
  ⟨fun _ _ => begun_of_quiet, fun s _ => ended_of_none s⟩

end Sys2Proof.Machine
end

section
/-! What queries and writes leave as it was on a module on which nothing goes on in the background. -/

namespace Sys2Proof.Machine

/-- No held descriptor, update command, ordered command or decided ending waits for the end of a step. -/
structure NothingWaits (u : State) : Prop where
  held : u.spn.held = []
  embJobs : u.embJobs = []
  hotJobs : u.hotJobs = []
  ordered : ∀ c ∈ u.cmds, c.phase ≠ .ordered
  verdict : ∀ q ∈ u.seqs, q.verdict = none

theorem nothingWaits_of_quiet {s : State} {t : Stamp} (h : s.quiet t = true) (n : Stamp) : NothingWaits { s with now := n } := by
  obtain ⟨-, ⟨hheld, hemb, hhot, hord⟩, -, -, hver, -⟩ := quiet_iff.mp h
  exact ⟨hheld, hemb, hhot, hord, hver⟩

/-- An answer, beside which only commands that are not ordered can be new, leaves nothing to wait. -/
theorem NothingWaits.answersOnly {s u : State} (h : NothingWaits s) (ha : AnswersOnly s u)
    (hc : ∀ c ∈ u.cmds, c.phase ≠ .ordered) : NothingWaits u := by
  obtain ⟨_, _, _, _, _, _, _, _, rfl⟩ := ha
  exact ⟨h.held, h.embJobs, h.hotJobs, hc, h.verdict⟩

theorem NothingWaits.reply {u : State} (h : NothingWaits u) (c : Cmd) (st : Nat) (items : List Item) (payload : List Byte) :
    NothingWaits (u.reply c st items payload) := by
  refine h.answersOnly (reply_answersOnly u c st items payload) (fun d hd => ?_)
  rw [reply_cmds] at hd
  exact h.ordered d (List.mem_of_mem_filter hd)

theorem NothingWaits.ended {u : State} (h : NothingWaits u) (s : State) :
    ∃ frames, s.ended u = { u with pending := s.pending, egress := u.egress ++ frames, framed := u.sent.length } :=
  ended_of_none s h.held h.embJobs h.hotJobs h.ordered h.verdict

/-! ### Intake -/

/-- What intake makes of a fast-path command that it starts at once: it is outstanding, and started. -/
theorem begins_fast {s u : State} {op : Nat} {r : Req} {c : Cmd} (h : s.begins op r = some (c, u)) (hf : slowPath op = false)
    (hc : (op == 0x101) = false) :
    ∃ c0 : Cmd, u = ((s.listen r.qp).taken c0).setCmd c0.id (fun d => { d with phase := .started }) := by
  unfold State.begins at h
  rw [Option.bind_eq_some_iff] at h
  obtain ⟨q, -, h⟩ := h
  dsimp only at h
  split at h
  next =>
    rw [Option.map_eq_some_iff] at h
    obtain ⟨v, hv, h⟩ := h
    cases h
    unfold State.startState at hv
    rw [Option.bind_eq_some_iff] at hv
    obtain ⟨w, hp, hv⟩ := hv
    have ho : ((s.listen r.qp).incoming q op r).hdr.opcode = op := rfl
    unfold State.workState at hv
    rw [ho, hf, if_neg Bool.false_ne_true] at hv
    unfold State.presented at hp
    rw [ho, hc, if_neg Bool.false_ne_true] at hp
    split at hp
    · cases hp
    · cases hp
      split at hv
      · cases hv
        exact ⟨_, rfl⟩
      · cases hv
  next => cases h

theorem begins_notOrdered {s u : State} {op : Nat} {r : Req} {c : Cmd} (h : s.begins op r = some (c, u))
    (hf : slowPath op = false) (hc : (op == 0x101) = false) (hs : ∀ d ∈ s.cmds, d.phase ≠ .ordered) :
    ∀ d ∈ u.cmds, d.phase ≠ .ordered := by
  obtain ⟨c0, rfl⟩ := begins_fast h hf hc
  intro d hd
  have hcmds : (((s.listen r.qp).taken c0).setCmd c0.id (fun d => { d with phase := .started })).cmds =
      updateWhere (s.cmds ++ [c0]) (fun d => d.id == c0.id) (fun d => { d with phase := .started }) := rfl
  rw [hcmds, updateWhere, List.mem_map] at hd
  obtain ⟨e, he, rfl⟩ := hd
  split
  next => simp
  next hid =>
    rw [List.mem_append, List.mem_singleton] at he
    rcases he with he | rfl
    · exact hs e he
    · simp at hid

theorem worked_of_fast {c : Cmd} (u : State) (h : slowPath c.hdr.opcode = false) : u.worked c = u := by
  rw [State.worked, h, if_neg Bool.false_ne_true]

/-! ### Answers -/

/-- A query that replies in the state in which it starts only answers. -/
theorem query_answersOnly {mk : Stamp → Req → Instr} {op : Nat} {P : Cmd → State → Prop}
    (hx : ∀ t r s, exec (mk t r) s = .next (runAt t (fun s => s.receive op r) s))
    (hf : slowPath op = false) (hc : (op == 0x101) = false)
    (hb : ∀ c u, c.hdr.opcode = op → c.replyRef = none → P c u →
      ∃ st items data, runBody c u = u.reply c st items data) :
    ∀ (s : State) (t : Stamp) (r : Req) (c : Cmd) (u : State), s.acts t = true → s.quiet t = true →
      (s.begun t).begins op r = some (c, u) → c.replyRef = none → P c u → ∃ s', exec (mk t r) s = .next s' ∧ AnswersOnly s s' := by
  intro s t r c u ha hq h hr hp
  have ho := begins_opcode h
  obtain ⟨st, items, data, hbody⟩ := hb c u ho hr hp
  rw [begun_of_quiet ha hq] at h
  have hn := nothingWaits_of_quiet hq (max s.now t)
  have hu : AnswersOnly s u := answersOnly_trans ⟨max s.now t, _, _, _, _, _, _, _, rfl⟩ (begins_answersOnly h hf hc)
  have hw : NothingWaits u := hn.answersOnly (begins_answersOnly h hf hc) (begins_notOrdered h hf hc hn.ordered)
  obtain ⟨frames, hend⟩ := (hw.reply c st items data).ended s
  refine ⟨s.ended (u.reply c st items data), ?_, ?_⟩
  · rw [hx, runAt_acts _ ha, begun_of_quiet ha hq, receive_begins h, hbody, worked_of_fast _ (ho ▸ hf)]
  · rw [hend]
    obtain ⟨_, _, _, _, _, _, _, _, he⟩ := answersOnly_trans hu (reply_answersOnly u c st items data)
    rw [he]
    exact ⟨_, _, _, _, _, _, _, _, rfl⟩

theorem replyData_of_noRef {c : Cmd} (h : c.replyRef = none) (u : State) (st : Nat) (items : List Item) (data : List Byte) :
    u.replyData c st items data = u.reply c st items data := by
  rw [State.replyData, h]

theorem onIndex_of {c : Cmd} {u : State} {x : Index} (k : Index → State) (hi : fieldAt c.input 0 2 < 64)
    (hx : u.boundIndex c (fieldAt c.input 0 2) = some x) : u.onIndex c k = k x := by
  unfold State.onIndex
  rw [if_neg (by omega), hx]

theorem readCe_of_clean {u : State} {a n : Nat} (h : (burstsOf a n).any (fun b => u.ce.contains b) = false) : u.readCe a n = u := by
  unfold State.readCe
  rw [List.filter_eq_nil_iff.mpr (fun b hb => List.any_eq_false.mp h b hb)]
  rfl

/-- Settles O53: each of these queries replies in the state in which it starts. -/
theorem queriesOnlyAnswer : Obligations.QueriesOnlyAnswer := by
  unfold Obligations.QueriesOnlyAnswer
  refine ⟨?_, ?_, ?_, ?_, ?_, ?_⟩
  case refine_1 =>
    refine query_answersOnly (fun _ _ _ => rfl) (by decide) (by decide) (fun c u ho hr _ => ?_)
    simp only [runBody, ho, bodyEcho, replyData_of_noRef hr]
    exact ⟨_, _, _, rfl⟩
  case refine_2 =>
    refine query_answersOnly (fun _ _ _ => rfl) (by decide) (by decide) (fun c u ho hr hs => ?_)
    simp only [runBody, ho, bodyReadinessQuery, shaped_of hs, replyData_of_noRef hr]
    exact ⟨_, _, _, rfl⟩
  case refine_3 =>
    intro x
    refine query_answersOnly (fun _ _ _ => rfl) (by decide) (by decide) (fun c u ho _ ⟨hs, hi, hx⟩ => ?_)
    simp only [runBody, ho, bodyIndexEpochQuery, shaped_of hs, onIndex_of _ hi hx]
    exact ⟨_, _, _, rfl⟩
  case refine_4 =>
    intro q
    refine query_answersOnly (fun _ _ _ => rfl) (by decide) (by decide) (fun c u ho _ ⟨hs, hq⟩ => ?_)
    simp only [runBody, ho, bodySeqStatus, shaped_of hs, hq]
    exact ⟨_, _, _, rfl⟩
  case refine_5 =>
    refine query_answersOnly (fun _ _ _ => rfl) (by decide) (by decide) (fun c u ho _ ⟨hs, hn, hm⟩ => ?_)
    have hcount : (fieldAt c.input 8 4 == 0 || decide (4096 < fieldAt c.input 8 4)) = false := by simp; omega
    simp only [runBody, ho, bodyTileDirQuery, shaped_of hs, hcount, Bool.false_eq_true, if_false]
    exact ⟨_, _, _, rfl⟩
  case refine_6 =>
    refine query_answersOnly (fun _ _ _ => rfl) (by decide) (by decide)
      (fun c u ho hr ⟨hs, hn, hown, hguard, hcxl, hue, hce⟩ => ?_)
    have hsize : ¬ 1048576 < fieldAt c.input 8 4 := by omega
    simp only [runBody, ho, bodyMemRead, memReadAt, shaped_of hs, hsize, hown, hguard, hcxl, hue, readCe_of_clean hce,
      replyData_of_noRef hr, decide_false, Bool.and_false, Bool.not_true, Bool.false_eq_true, if_false]
    exact ⟨_, _, _, rfl⟩

/-! ### Writes -/

/-- A write that meets no burst with an error only puts its bytes into memory. -/
theorem store_of_clean {s : State} {a : Nat} {bs : List Byte} (hu : s.partialUe a bs.length = false)
    (hc : (burstsOf a bs.length).all (fun b => burstWhole a bs.length b || !s.ce.contains b) = true) :
    s.store a bs = { s with
      mem := memWrite s.mem a bs
      veil := cutVeil s.veil a bs.length
      ue := s.ue.filter (fun b => !burstWhole a bs.length b)
      ce := s.ce.filter (fun b => !(burstsOf a bs.length).contains b) } := by
  have hnone : (burstsOf a bs.length).filter (fun b => (s.ue.contains b || s.ce.contains b) && !burstWhole a bs.length b) = [] := by
    refine List.filter_eq_nil_iff.mpr (fun b hb => ?_)
    have hub := List.any_eq_false.mp hu b hb
    have hcb := List.all_eq_true.mp hc b hb
    revert hub hcb
    cases burstWhole a bs.length b <;> simp +contextual
  unfold State.store
  dsimp only
  rw [hnone, List.foldl_nil]

theorem raw_store_of_clean {s : State} {a : Nat} {bs : List Byte} (hu : s.partialUe a bs.length = false)
    (hc : (burstsOf a bs.length).all (fun b => burstWhole a bs.length b || !s.ce.contains b) = true) (x : Nat) :
    (s.store a bs).raw x = s.raw x := by
  rw [store_of_clean hu hc]
  rfl

theorem NothingWaits.store {s : State} (h : NothingWaits s) {a : Nat} {bs : List Byte} (hu : s.partialUe a bs.length = false)
    (hc : (burstsOf a bs.length).all (fun b => burstWhole a bs.length b || !s.ce.contains b) = true) :
    NothingWaits (s.store a bs) := by
  rw [store_of_clean hu hc]
  exact ⟨h.held, h.embJobs, h.hotJobs, h.ordered, h.verdict⟩

theorem NothingWaits.setRaw {s : State} (h : NothingWaits s) (a : Nat) (v : Reg) : NothingWaits (s.setRaw a v) where
  held := by rw [State.setRaw_spn]; exact h.held
  embJobs := by rw [State.setRaw_embJobs]; exact h.embJobs
  hotJobs := by rw [State.setRaw_hotJobs]; exact h.hotJobs
  ordered := by rw [State.setRaw_cmds]; exact h.ordered
  verdict := by rw [State.setRaw_seqs]; exact h.verdict

theorem setRaw_byte (s : State) (a : Nat) (v : Reg) (x : Nat) : (s.setRaw a v).byte x = s.byte x :=
  byte_congr (State.setRaw_mem s a v) (by unfold State.setRaw; rfl) x

/-- The end of a step touches neither memory nor registers where nothing waits. -/
theorem NothingWaits.ended_reads {u : State} (h : NothingWaits u) (s : State) (x : Nat) :
    (s.ended u).byte x = u.byte x ∧ (s.ended u).raw x = u.raw x := by
  obtain ⟨frames, he⟩ := h.ended s
  rw [he]
  exact ⟨rfl, rfl⟩

theorem answersOnly_reads {s u : State} (h : AnswersOnly s u) (x : Nat) : u.byte x = s.byte x ∧ u.raw x = s.raw x := by
  obtain ⟨_, _, _, _, _, _, _, _, rfl⟩ := h
  exact ⟨rfl, rfl⟩

theorem bodyMemWrite_eq {c : Cmd} {u : State} (hl : 16 ≤ c.input.length)
    (hd : (c.input.drop 16).length = fieldAt c.input 8 4) (hz : zerosAt c.input 12 4 = true)
    (ho : u.owns c.hdr.partition (fieldAt c.input 0 8) (max (fieldAt c.input 8 4) 1) = true)
    (hg : u.guarded c.hdr.partition (fieldAt c.input 0 8) (fieldAt c.input 8 4) (u.hotAreas c.hdr.partition) = false)
    (hx : u.cxlMissing (fieldAt c.input 0 8) (fieldAt c.input 8 4) = none)
    (hp : u.partialUe (fieldAt c.input 0 8) (fieldAt c.input 8 4) = false) :
    bodyMemWrite c u = (u.store (fieldAt c.input 0 8) (c.input.drop 16)).refuse c stOk := by
  have hlen : ¬ c.input.length < 16 := by omega
  simp [bodyMemWrite, memWriteAt, hlen, hd, hz, ho, hg, hx, hp, -List.length_drop]

theorem memWrite_changes {s u : State} {t : Stamp} {r : Req} {c : Cmd} (ha : s.acts t = true) (hq : s.quiet t = true)
    (h : (s.begun t).begins 0x0800 r = some (c, u)) {a n : Nat} {bs : List Byte} (hn : bs.length = n)
    (hb : bodyMemWrite c u = (u.store a bs).refuse c stOk) (hp : u.partialUe a n = false)
    (hc : (burstsOf a n).all (fun b => burstWhole a n b || !u.ce.contains b) = true) :
    ∃ s', exec (.memWrite t r) s = .next s' ∧
      (∀ x, s'.byte x = if a ≤ x ∧ x < a + n then bs.getD (x - a) 0 else s.byte x) ∧ (∀ x, s'.raw x = s.raw x) := by
  subst hn
  have ho := begins_opcode h
  have hbody : runBody c u = (u.store a bs).refuse c stOk := by simp only [runBody, ho, hb]
  have hexec : exec (.memWrite t r) s = .next (runAt t (fun s => s.receive 0x0800 r) s) := rfl
  rw [begun_of_quiet ha hq] at h
  have hw := nothingWaits_of_quiet hq (max s.now t)
  have hu := begins_answersOnly h (by decide) (by decide)
  have hwu := hw.answersOnly hu (begins_notOrdered h (by decide) (by decide) hw.ordered)
  have hend := (hwu.store hp hc).reply c stOk [] []
  have hreply := reply_answersOnly (u.store a bs) c stOk [] []
  refine ⟨s.ended ((u.store a bs).reply c stOk [] []), ?_, fun x => ?_, fun x => ?_⟩
  · rw [hexec, runAt_acts _ ha, begun_of_quiet ha hq, receive_begins h, hbody, worked_of_fast _ (by rw [ho]; decide)]
    rfl
  · rw [(hend.ended_reads s x).1, (answersOnly_reads hreply x).1, store_byte, (answersOnly_reads hu x).1]
    rfl
  · rw [(hend.ended_reads s x).2, (answersOnly_reads hreply x).2, raw_store_of_clean hp hc, (answersOnly_reads hu x).2]
    rfl

theorem rdmaWrite_changes {s : State} {t : Stamp} {qp rkey addr : Nat} {data : List Byte} {q : Qp} (ha : s.acts t = true)
    (hquiet : s.quiet t = true) (hq : s.qp? qp = some q) (he : q.error = false) (hk : q.opens rkey = true)
    (hm : ({ s with now := max s.now t } : State).memOpen q.partition q.ctx addr data.length = true)
    (hp : s.partialUe addr data.length = false)
    (hc : (burstsOf addr data.length).all (fun b => burstWhole addr data.length b || !s.ce.contains b) = true) :
    ∃ s', exec (.rdmaWriteReceive t qp rkey addr data) s = .next s' ∧
      (∀ x, s'.byte x = if addr ≤ x ∧ x < addr + data.length then data.getD (x - addr) 0 else s.byte x) ∧
      (∀ x, s'.raw x = s.raw x) := by
  have hexec : exec (.rdmaWriteReceive t qp rkey addr data) s = .next (runAt t (rdmaWriteReceiveStep qp rkey addr data) s) := rfl
  have hw := nothingWaits_of_quiet hquiet (max s.now t)
  rw [hexec, runAt_acts _ ha, begun_of_quiet ha hquiet]
  generalize hb : ({ s with now := max s.now t } : State) = b at hm hw
  have hqb : b.qp? qp = some q := hb ▸ hq
  have hpb : b.partialUe addr data.length = false := hb ▸ hp
  have hcb : (burstsOf addr data.length).all (fun d => burstWhole addr data.length d || !b.ce.contains d) = true := hb ▸ hc
  have hbyte : ∀ x, b.byte x = s.byte x := fun x => hb ▸ rfl
  have hraw : ∀ x, b.raw x = s.raw x := fun x => hb ▸ rfl
  have hstep : rdmaWriteReceiveStep qp rkey addr data b = (b.store addr data).emit (.ack qp) := by
    simp [rdmaWriteReceiveStep, hqb, he, hk, hm]
  have hws := hw.store hpb hcb
  have hwe : NothingWaits ((b.store addr data).emit (.ack qp)) :=
    ⟨hws.held, hws.embJobs, hws.hotJobs, hws.ordered, hws.verdict⟩
  refine ⟨_, rfl, fun x => ?_, fun x => ?_⟩
  · rw [hstep, (hwe.ended_reads s x).1, ← hbyte, ← store_byte]
    rfl
  · rw [hstep, (hwe.ended_reads s x).2, ← hraw, ← raw_store_of_clean hpb hcb]
    rfl

theorem csrWriteStep_plain {b : State} {src : CsrWriter} {a : Nat} {v : Reg} {d : RegDesc} (hin : inCsr a = true) (hal : a % 8 = 0)
    (hopen : ((prtOwner a).map (fun p => b.prtOpen src.plane p)).getD true = true) (hspec : b.specialWrite a v = none)
    (harr : b.arrayWrite src.plane a v = none) (hd : regDesc a = some d) :
    csrWriteStep src a v b = b.setRaw a (d.written (b.raw a) v) := by
  unfold csrWriteStep
  rw [hin, hal, Bool.true_and, if_pos (by decide)]
  unfold State.writeReg
  rw [if_pos hopen, hspec, harr]
  unfold State.plainWrite
  rw [hd]
  rfl

theorem csrWrite_changes {s : State} {t : Stamp} {src : CsrWriter} {a : Nat} {v : Reg} {d : RegDesc} (ha : s.acts t = true)
    (hquiet : s.quiet t = true) (hs : Canonical s) (hin : inCsr a = true) (hal : a % 8 = 0)
    (hopen : ((prtOwner a).map (fun p => ({ s with now := max s.now t } : State).prtOpen src.plane p)).getD true = true)
    (hspec : ({ s with now := max s.now t } : State).specialWrite a v = none)
    (harr : ({ s with now := max s.now t } : State).arrayWrite src.plane a v = none) (hd : regDesc a = some d) :
    ∃ s', exec (.csrWrite t src a v) s = .next s' ∧ s'.raw a = d.written (s.raw a) v ∧ (∀ x, x ≠ a → s'.raw x = s.raw x) ∧
      (∀ x, s'.byte x = s.byte x) := by
  have hexec : exec (.csrWrite t src a v) s = .next (runAt t (csrWriteStep src a v) s) := rfl
  have hw := nothingWaits_of_quiet hquiet (max s.now t)
  have hcb : Canonical ({ s with now := max s.now t } : State) := hs
  rw [hexec, runAt_acts _ ha, begun_of_quiet ha hquiet]
  generalize hb : ({ s with now := max s.now t } : State) = b at hopen hspec harr hw hcb
  have hbyte : ∀ x, b.byte x = s.byte x := fun x => hb ▸ rfl
  have hraw : ∀ x, b.raw x = s.raw x := fun x => hb ▸ rfl
  have hstep := csrWriteStep_plain hin hal hopen hspec harr hd
  have hwe := hw.setRaw a (d.written (b.raw a) v)
  refine ⟨_, rfl, ?_, fun x hx => ?_, fun x => ?_⟩
  · rw [hstep, (hwe.ended_reads s a).2, raw_setRaw_same hcb, hraw]
  · rw [hstep, (hwe.ended_reads s x).2, raw_setRaw_of_ne hcb hx, hraw]
  · rw [hstep, (hwe.ended_reads s x).1, setRaw_byte, hbyte]

/-- Settles O54. -/
theorem writesChangeOnlyWhatTheyName : Obligations.WritesChangeOnlyWhatTheyName := by
  unfold Obligations.WritesChangeOnlyWhatTheyName
  refine ⟨?_, ?_, ?_⟩
  · intro s t r c u ha hq h a n bs hl hd hz ho hg hx hp hc
    exact memWrite_changes ha hq h hd (bodyMemWrite_eq hl hd hz ho hg hx hp) hp hc
  · intro s t qp rkey addr data q ha hquiet b hq he hk hm hp hc
    exact rdmaWrite_changes ha hquiet hq he hk hm hp hc
  · intro s t src a v d ha hquiet hs b hin hal hopen hspec harr hd
    exact csrWrite_changes ha hquiet hs hin hal hopen hspec harr hd

end Sys2Proof.Machine
end

section
/-! Searches: how they start, and how walks, side scans and coordinators go on. -/

namespace Sys2Proof.Machine

/-! ### Searches start -/

/-- A search of one index that passes its checks enters its queries. -/
theorem searchBody_index {batch : Bool} {c : Cmd} {u : State} {x : Index} (hl : searchLenOk batch c.input = true)
    (hr : searchResvOk batch c.input = true)
    (hn : batch = true → 0 < (parseSearch batch c.input).count ∧ (parseSearch batch c.input).count ≤ 256)
    (hs : (parseSearch batch c.input).sharded = false) (hi : (parseSearch batch c.input).index < 64)
    (hx : u.boundIndex c (parseSearch batch c.input).index = some x) (hp : u.profileOk c x = true)
    (hf : u.framesOk c.hdr.partition = true) (hq : (parseSearch batch c.input).ok (u.profile x.profile) x = true) :
    searchBody batch c u = (List.range (parseSearch batch c.input).count).foldl
      (fun s i => s.addSearch (s.boundQuery c x (parseSearch batch c.input) i)) u := by
  have hcount : (batch && ((parseSearch batch c.input).count == 0 || decide (256 < (parseSearch batch c.input).count))) = false := by
    cases batch with
    | false => rfl
    | true => have := hn rfl; simp; omega
  have hidx : ¬ 64 ≤ (parseSearch batch c.input).index := by omega
  have hon : ∀ k : Index → State, u.onIndex c k = k x := fun k => onIndex_of k hi hx
  simp [searchBody, hl, hr, hcount, hs, hidx, hon, hp, hf, hq]

/-- Settles O2. -/
theorem searchesStart : Obligations.SearchesStart := by
  unfold Obligations.SearchesStart
  intro passes starts x
  refine ⟨?_, ?_, ?_⟩
  case refine_1 =>
    exact hostEffect_of_body bodySearch (fun _ _ _ => rfl) (fun c u ho => by simp only [runBody, ho])
      (fun c u ⟨hl, hr, hn, hs, hi, hx, hp, hf, hq⟩ => searchBody_index hl hr hn hs hi hx hp hf hq)
  case refine_2 =>
    exact hostEffect_of_body bodySearchShard (fun _ _ _ => rfl) (fun c u ho => by simp only [runBody, ho])
      (fun c u ⟨hl, hr, hn, hs, hi, hx, hp, hf, hq⟩ => searchBody_index hl hr hn hs hi hx hp hf hq)
  case refine_3 =>
    exact hostEffect_of_body bodySearchBatch (fun _ _ _ => rfl) (fun c u ho => by simp only [runBody, ho])
      (fun c u ⟨hl, hr, hn, hs, hi, hx, hp, hf, hq⟩ => searchBody_index hl hr hn hs hi hx hp hf hq)

/-- The parameters of a sharded search fit the local indices of its map. -/
theorem shardMisfit_false {u : State} {c : Cmd} {m : ShardMap} {q : SearchParams} (ha : q.okAny 0 = true)
    (hm : ∀ e ∈ m.entries, e.replicas.contains 0xFFFF_FFFE = true → ∀ x, u.localIndex c e.index = some x →
      q.ok (u.profile x.profile) x = true) : u.shardMisfit c m q = false := by
  unfold State.shardMisfit
  dsimp only
  rw [ha, Bool.not_true, Bool.false_or, List.any_eq_false]
  intro x hx
  rw [List.mem_filterMap] at hx
  obtain ⟨e, he, hloc⟩ := hx
  rw [List.mem_filter] at he
  rw [hm e he.1 he.2 x hloc]
  decide

/-- A search of all shards that passes its checks starts a coordinator for each query. -/
theorem searchBody_sharded {batch : Bool} {c : Cmd} {u : State} {m : ShardMap} (ho : c.hdr.opcode ≠ 0x0201)
    (hl : searchLenOk batch c.input = true) (hr : searchResvOk batch c.input = true)
    (hn : batch = true → 0 < (parseSearch batch c.input).count ∧ (parseSearch batch c.input).count ≤ 256)
    (hs : (parseSearch batch c.input).sharded = true) (hi : (parseSearch batch c.input).index < 64)
    (hmap : ∃ n, c.snap.maps.find? (fun e => e.1 == (parseSearch batch c.input).index) =
        some ((parseSearch batch c.input).index, n) ∧
      u.maps.find? (fun m => m.part == c.hdr.partition && m.index == (parseSearch batch c.input).index && m.number == n) = some m)
    (hf : u.framesOk c.hdr.partition = true) (hc : c.intake < (u.cutoffOf c).1) (ha : (parseSearch batch c.input).okAny 0 = true)
    (hm : ∀ e ∈ m.entries, e.replicas.contains 0xFFFF_FFFE = true → ∀ x, u.localIndex c e.index = some x →
      (parseSearch batch c.input).ok (u.profile x.profile) x = true) :
    searchBody batch c u = (List.range (parseSearch batch c.input).count).foldl
      (fun s i => s.startCoord c m (parseSearch batch c.input) i) u := by
  obtain ⟨n, hsnap, hfind⟩ := hmap
  have hcount : (batch && ((parseSearch batch c.input).count == 0 || decide (256 < (parseSearch batch c.input).count))) = false := by
    cases batch with
    | false => rfl
    | true => have := hn rfl; simp; omega
  have hidx : ¬ 64 ≤ (parseSearch batch c.input).index := by omega
  have hcut : ¬ (u.cutoffOf c).1 ≤ c.intake := Nat.not_le.mpr hc
  simp [searchBody, hl, hr, hcount, hs, ho, hidx, hsnap, hfind, hf, hcut, shardMisfit_false ha hm]

/-- Settles O3. -/
theorem shardedSearchesStart : Obligations.ShardedSearchesStart := by
  unfold Obligations.ShardedSearchesStart
  intro passes starts m
  refine ⟨?_, ?_⟩
  case refine_1 =>
    refine hostEffect_of (fun _ _ _ => rfl) (fun c u ho ⟨hl, hr, hn, hs, hi, hmap, hf, hc, ha, hm⟩ => ?_)
    rw [show runBody c u = searchBody false c u by simp only [runBody, ho, bodySearch]]
    exact searchBody_sharded (by rw [ho]; decide) hl hr hn hs hi hmap hf hc ha hm
  case refine_2 =>
    refine hostEffect_of (fun _ _ _ => rfl) (fun c u ho ⟨hl, hr, hn, hs, hi, hmap, hf, hc, ha, hm⟩ => ?_)
    rw [show runBody c u = searchBody true c u by simp only [runBody, ho, bodySearchBatch]]
    exact searchBody_sharded (by rw [ho]; decide) hl hr hn hs hi hmap hf hc ha hm

/-! ### Coordinators go on -/

/-- With no replica left, nothing is asked. -/
theorem sendShard_of_noReplica {s : State} {c : Cmd} {sid e n : Nat} {q : Coord} {r : ShardRun} (hq : s.coord? sid = some q)
    (hr : q.runs[e]? = some r) (hn : r.entry.replicas.length ≤ r.next) : s.sendShard c sid e n = s := by
  cases n with
  | zero => rfl
  | succ n =>
    unfold State.sendShard
    rw [hq]
    dsimp only
    rw [List.getD_eq_getElem?_getD, hr, Option.getD_some, List.getElem?_eq_none hn]

/-- The next replica is one that a live queue pair leads to: it is asked. -/
theorem sendShard_of_live {s : State} {c : Cmd} {sid e n : Nat} {q : Coord} {r : ShardRun} {qp : Nat} (hq : s.coord? sid = some q)
    (hr : q.runs[e]? = some r) (hqp : r.entry.replicas[r.next]? = some qp) (hne : qp ≠ 0xFFFF_FFFE) (hlive : s.qpLive qp = true) :
    s.sendShard c sid e (n + 1) =
      ((s.setCoord sid (fun q =>
          { q with runs := modifyAt q.runs e (fun r => { r with next := r.next + 1, sent := s.now }) })).issue c qp 0x0201
        (q.cutoff - s.fld (GGE_SHARD_CFG q.part) 19 8 * 1000) sid e (shardPayload r.entry.index q.params)).setCoord sid (fun q =>
          { q with runs := modifyAt q.runs e (fun r => { r with live := r.live + 1, last := some s.issueSeq }) }) := by
  have hlive' : ∀ f, (s.setCoord sid f).qpLive qp = true := fun _ => hlive
  have hne' : (qp == 0xFFFF_FFFE) = false := by simpa using hne
  unfold State.sendShard
  rw [hq]
  dsimp only
  rw [List.getD_eq_getElem?_getD, hr, Option.getD_some, hqp]
  dsimp only
  rw [hne', if_neg Bool.false_ne_true, hlive', if_pos rfl]
  rfl

theorem shardHedgeTimeoutStep_due {b : State} {sid e : Nat} {q : Coord} {r : ShardRun} {c : Cmd} (hq : b.coord? sid = some q)
    (hr : q.runs[e]? = some r) (hend : q.ended = none) (hb : r.entry.broadcast = false)
    (hu : ∀ u ∈ q.used, u.1 ≠ r.entry.shard) (hs : r.sent + b.fld (GGE_SHARD_CFG q.part) 47 32 * 1000 ≤ b.now)
    (hc : b.cmd? q.cmd = some c) : shardHedgeTimeoutStep sid e b = b.sendShard c sid e 4 := by
  have hdone : q.done r = false := by
    unfold Coord.done
    rw [List.any_eq_false]
    intro u hmem he
    exact hu u hmem (eq_of_beq he)
  have hnow : ¬ b.now < r.sent + b.fld (GGE_SHARD_CFG q.part) 47 32 * 1000 := Nat.not_lt.mpr hs
  simp [shardHedgeTimeoutStep, hq, hr, hend, hb, hdone, hnow, hc]

theorem shardMergeStep_due {b : State} {sid : Nat} {q : Coord} (hq : b.coord? sid = some q) (hend : q.ended = none)
    (hd : b.mergeDue q = true) (hn : 0 < q.shards.length) :
    shardMergeStep searchDone sid b =
      let n := q.shards.length
      let answered := (q.shards.filter (fun k => q.used.any (fun u => u.1 == k))).length
      let all := q.used.flatMap (fun u => u.2.2.2)
      let best := (bestById (all.filter (fun e => !fNan e.2))).take q.k
      let s1 := b.countSel q.part (all.filter (fun e => fNan e.2)).length 0
      let s2 := (s1.bump (GGE_SHARD_CNT q.part) 63 32 (n - answered)).setCoord sid (fun q =>
        { q with ended := some (best, 65536 * answered / n) })
      searchDone q.cmd ({ s2 with
        searches := s2.searches.filter (fun x => (x.coord.map (fun e => e.1)) != some sid) } : State) := by
  have hn' : (q.shards.length == 0) = false := by
    rw [beq_eq_false_iff_ne]
    omega
  unfold shardMergeStep
  rw [hq]
  dsimp only
  rw [hend, hd, hn']
  rfl

/-! ### Walker faults -/

theorem ReportsOnly.merges_eq {s t : State} (h : ReportsOnly s t) : t.merges = s.merges := by
  obtain ⟨_, _, _, _, rfl⟩ := h
  rfl

theorem ReportsOnly.searches_eq {s t : State} (h : ReportsOnly s t) : t.searches = s.searches := by
  obtain ⟨_, _, _, _, rfl⟩ := h
  rfl

theorem failMergeOn_of_none {s : State} {w : Nat} (h : ∀ j ∈ s.merges, ∀ t, j.slot = some t → t.1 ≠ w) : s.failMergeOn w = s := by
  have hf : s.merges.find? (fun j => (j.slot.map (fun t => t.1)) == some w) = none := by
    refine List.find?_eq_none.mpr (fun j hj hs => ?_)
    rw [beq_iff_eq, Option.map_eq_some_iff] at hs
    obtain ⟨t, ht, hw⟩ := hs
    exact h j hj t ht hw
  unfold State.failMergeOn
  rw [hf]

theorem restartSearches_of_none {s : State} {w : Nat} (done : Nat → State → State)
    (h : ∀ q ∈ s.searches, q.waiting = true ∨ q.ended ≠ none ∨ q.walker ≠ w) : s.restartSearches w done = s := by
  have hf : s.searches.filter (fun q => !q.waiting && q.ended.isNone && q.walker == w) = [] := by
    refine List.filter_eq_nil_iff.mpr (fun q hq hs => ?_)
    rw [Bool.and_eq_true, Bool.and_eq_true, Bool.not_eq_true', Option.isNone_iff_eq_none, beq_iff_eq] at hs
    obtain ⟨⟨hw, he⟩, hwalk⟩ := hs
    rcases h q hq with h | h | h
    · rw [hw] at h; cases h
    · exact h he
    · exact h hwalk
  unfold State.restartSearches
  rw [hf]
  rfl

theorem walkerFaultStep_inService {b : State} {w : Nat} (h : b.fld (GGE_WALKER w) 18 16 = 1) :
    walkerFaultStep searchDone w b =
      (((b.event GGE_EVENT 2).report ⟨5, w, 0, .uncorrectable⟩).failMergeOn w).restartSearches w searchDone := by
  unfold walkerFaultStep
  rw [h]
  rfl

theorem walkerFaultStep_unused {b : State} {w : Nat} (h : b.fld (GGE_WALKER w) 18 16 = 1)
    (hm : ∀ j ∈ b.merges, ∀ t, j.slot = some t → t.1 ≠ w)
    (hs : ∀ q ∈ b.searches, q.waiting = true ∨ q.ended ≠ none ∨ q.walker ≠ w) :
    walkerFaultStep searchDone w b = (b.event GGE_EVENT 2).report ⟨5, w, 0, .uncorrectable⟩ := by
  have hr : ReportsOnly b ((b.event GGE_EVENT 2).report ⟨5, w, 0, .uncorrectable⟩) := ((ReportsOnly.refl b).event _ _).report _
  rw [walkerFaultStep_inService h, failMergeOn_of_none (hr.merges_eq ▸ hm), restartSearches_of_none _ (hr.searches_eq ▸ hs)]

/-- Settles O5. -/
theorem shardSearchesGoOn : Obligations.ShardSearchesGoOn := by
  unfold Obligations.ShardSearchesGoOn
  intro due
  refine ⟨?_, ?_, ?_, ?_, ?_, ?_⟩
  case refine_1 =>
    exact fun sid e q r c qp => unitEffect_of (fun _ _ => rfl)
      (fun b ⟨⟨hq, hr, hend, hb, hu, hs, hc⟩, hqp, hne, hlive⟩ =>
        (shardHedgeTimeoutStep_due hq hr hend hb hu hs hc).trans (sendShard_of_live hq hr hqp hne hlive))
  case refine_2 =>
    exact fun sid e q r c => unitEffect_of (fun _ _ => rfl) (fun b ⟨⟨hq, hr, hend, hb, hu, hs, hc⟩, hn⟩ =>
      (shardHedgeTimeoutStep_due hq hr hend hb hu hs hc).trans (sendShard_of_noReplica hq hr hn))
  case refine_3 =>
    exact fun sid e q r c => unitEffect_of (fun _ _ => rfl) (fun b ⟨hq, hr, hend, hb, hu, hs, hc⟩ =>
      shardHedgeTimeoutStep_due hq hr hend hb hu hs hc)
  case refine_4 =>
    exact fun sid q => unitEffect_of (fun _ _ => rfl) (fun b ⟨hq, hend, hd, hn⟩ => shardMergeStep_due hq hend hd hn)
  case refine_5 =>
    exact fun w => unitEffect_of (fun _ _ => rfl) (fun b ⟨h, hm, hs⟩ => walkerFaultStep_unused h hm hs)
  case refine_6 => exact fun w => unitEffect_of (fun _ _ => rfl) (fun b h => walkerFaultStep_inService h)

end Sys2Proof.Machine
end

section
/-! A side scan with two searches of one number: the model scans the window of each, the statement that of the first. -/

namespace Sys2Proof.Machine

/-- Two taken searches bear the number 0; the first has an empty side window, the second a window of one slot. -/
def twinSearches : State := { State.reset with
  pwr := { phase := .running }, indices := [{}], searches := [{ waiting := false }, { waiting := false, wend := 1, k := 1 }] }

theorem twinSearches_acts : twinSearches.acts 0 = true := by decide

theorem twinSearches_begun : twinSearches.begun 0 = twinSearches := begun_of_quiet twinSearches_acts (by decide)

/-- The scan of the first search, whose window is empty, gives every search of its number the slots of its own window. -/
theorem twinSearches_scan : sideScanBatchStep [0] twinSearches =
    twinSearches.setSearch 0 (fun y => { y with side := some (twinSearches.scanSide {} y) }) := rfl

theorem NothingWaits.setSearch {s : State} (h : NothingWaits s) (sid : Nat) (f : Search → Search) :
    NothingWaits (s.setSearch sid f) := ⟨h.held, h.embJobs, h.hotJobs, h.ordered, h.verdict⟩

theorem NothingWaits.ended_searches {u : State} (h : NothingWaits u) (s : State) : (s.ended u).searches = u.searches := by
  obtain ⟨frames, he⟩ := h.ended s
  rw [he]

theorem twinSearches_waits : NothingWaits twinSearches := ⟨rfl, rfl, rfl, by decide, by decide⟩

/-- Refutes O4: SIDE_SCAN_BATCH of one search gives every search of its number the side results of its own window, and not those of
the search that was named: with two searches of one number, of which the named one has an empty window, the other gets a slot. -/
theorem not_searchesGoOn : ¬ Obligations.SearchesGoOn := by
  unfold Obligations.SearchesGoOn
  intro h
  obtain ⟨-, -, -, -, -, hscan, -⟩ := h
  have hstep := hscan 0 { waiting := false } {} twinSearches 0 twinSearches_acts (by
    rw [twinSearches_begun]
    exact ⟨⟨rfl, rfl, rfl, rfl, rfl⟩, rfl, rfl, rfl, Or.inl rfl, rfl⟩)
  have hexec : exec (.sideScanBatch 0 [0]) twinSearches = .next (runAt 0 (sideScanBatchStep [0]) twinSearches) := rfl
  rw [hexec, runAt_acts _ twinSearches_acts, twinSearches_begun, twinSearches_scan] at hstep
  injection hstep with hstate
  have hsearches := congrArg State.searches hstate
  have hwait := (twinSearches_waits.setSearch 0 (fun y => { y with side := some (twinSearches.scanSide {} y) })).ended_searches
    twinSearches
  have hwait' := (twinSearches_waits.setSearch 0 (fun y => { y with side := some [] })).ended_searches twinSearches
  have hsides := congrArg (List.map Search.side) (hwait.symm.trans (hsearches.trans hwait'))
  exact absurd hsides (by decide)

end Sys2Proof.Machine
end

section
/-! Index commands. -/

namespace Sys2Proof.Machine

theorem any_not_of_all {α : Type} {l : List α} {k : α → Bool} (h : l.all k = true) : l.any (fun x => !k x) = false := by
  rw [← List.not_all_eq_any_not, h]
  rfl

theorem bodyIndexInsert_eq {c : Cmd} {u : State} {x : Index} {es : List InsEntry} {plan : List (Nat × Nat)}
    (hlen : 8 ≤ c.input.length) (hn : 0 < fieldAt c.input 2 2) (hm : fieldAt c.input 2 2 ≤ 4096)
    (hz : zerosAt c.input 4 4 = true) (hi : fieldAt c.input 0 2 < 64) (hx : u.boundIndex c (fieldAt c.input 0 2) = some x)
    (hes : parseEntries x (fieldAt c.input 2 2) (c.input.drop 8) = some es)
    (hok : es.all (fun e => !e.bad && !e.resv) = true) (hrep : es.all (fun e => !e.replace || x.assigned e.id) = true)
    (hcap : x.wend + fieldAt c.input 2 2 - x.rstart ≤ x.cap) (hplan : planInsert x x.nextId x.heap es = some plan)
    (hcxl : (es.zip plan).all (fun e => u.inCxl c.hdr.partition (x.vecAddr e.2.1) x.vecSlot &&
      u.inCxl c.hdr.partition (x.dirAddr e.2.1) 16 &&
      u.inCxl c.hdr.partition e.2.2 (roundUp (16 + e.1.body.length) 64)) = true) :
    bodyIndexInsert c u =
      ((es.zip plan).foldl (fun s e => s.insertOne c.hdr.partition x.num e.1 e.2.1 e.2.2) u).reply c stOk []
        (toLE 4 (fieldAt c.input 2 2) ++ zeros 4 ++ plan.flatMap (fun e => toLE 8 (globalId x.shard e.1))) := by
  have hbad : es.any (fun e => e.bad) = false := List.any_eq_false.mpr (fun e he => by
    have := List.all_eq_true.mp hok e he
    simp_all)
  have hresv : es.any (fun e => e.resv) = false := List.any_eq_false.mpr (fun e he => by
    have := List.all_eq_true.mp hok e he
    simp_all)
  have hunk : es.any (fun e => e.replace && !x.assigned e.id) = false := by
    rw [← any_not_of_all hrep]
    simp only [Bool.not_or, Bool.not_not]
  have hlost : (es.zip plan).any (fun e => !u.inCxl c.hdr.partition (x.vecAddr e.2.1) x.vecSlot ||
      !u.inCxl c.hdr.partition (x.dirAddr e.2.1) 16 ||
      !u.inCxl c.hdr.partition e.2.2 (roundUp (16 + e.1.body.length) 64)) = false := by
    rw [← any_not_of_all hcxl]
    simp only [Bool.not_and]
  unfold bodyIndexInsert
  dsimp only
  rw [if_neg (by simp; omega), hz, if_neg (by simp), onIndex_of _ hi hx, hes]
  dsimp only
  rw [hbad, hresv, if_neg Bool.false_ne_true, if_neg Bool.false_ne_true, if_neg (by omega), hplan]
  dsimp only
  rw [hunk, if_neg Bool.false_ne_true, hlost, if_neg Bool.false_ne_true]

theorem bodyIndexDelete_eq {c : Cmd} {u : State} {x : Index} (hn : 0 < fieldAt c.input 4 4) (hm : fieldAt c.input 4 4 ≤ 65536)
    (hlen : c.input.length = 8 + 4 * fieldAt c.input 4 4) (hz : zerosAt c.input 2 2 = true) (hi : fieldAt c.input 0 2 < 64)
    (hx : u.boundIndex c (fieldAt c.input 0 2) = some x)
    (ha : (List.range (fieldAt c.input 4 4)).all (fun i => x.assigned (fieldAt c.input (8 + 4 * i) 4)) = true) :
    bodyIndexDelete c u =
      let ids := (List.range (fieldAt c.input 4 4)).map (fun i => fieldAt c.input (8 + 4 * i) 4)
      (ids.foldl (fun s id => (s.locations x id).foldl (fun s w => s.killLoc x w) s) u).refuse c stOk := by
  have hunk : ((List.range (fieldAt c.input 4 4)).map (fun i => fieldAt c.input (8 + 4 * i) 4)).any
      (fun id => !x.assigned id) = false := by
    rw [List.any_map]
    exact any_not_of_all ha
  unfold bodyIndexDelete
  dsimp only
  rw [if_neg (by simp; omega), hz, if_neg (by simp), onIndex_of _ hi hx, hunk, if_neg Bool.false_ne_true]

theorem bodyIndexUnload_eq {c : Cmd} {u : State} {x : Index} (hs : shapedAs c 8 [(2, 6)] = true) (hi : fieldAt c.input 0 2 < 64)
    (hx : u.index? c.hdr.partition (fieldAt c.input 0 2) = some x) (hu : x.unload = none)
    (hm : u.merging c.hdr.partition (fieldAt c.input 0 2) = false) :
    bodyIndexUnload c u =
      u.setIndex c.hdr.partition (fieldAt c.input 0 2) (fun x => { x with unload := some (c.id, u.now) }) := by
  unfold bodyIndexUnload
  rw [shaped_of hs]
  dsimp only
  rw [if_neg (by omega), hx]
  dsimp only
  rw [hu, hm]
  rfl

theorem indexUnloadCompleteStep_eq {b : State} {p i : Nat} {x : Index} {id : Nat} {stamp : Stamp} (hx : b.index? p i = some x)
    (hu : x.unload = some (id, stamp))
    (hc : b.cmds.all (fun c => !(c.hdr.partition == p && b.bindsIdx c i && decide (c.intake < stamp))) = true)
    (hs : b.searches.all (fun q => !(q.part == p && q.index == i)) = true) :
    indexUnloadCompleteStep p i b =
      ({ b with indices := b.indices.filter (fun x => !(x.part == p && x.num == i)) } : State).endWith id stOk := by
  have hc' := any_not_of_all hc
  have hs' := any_not_of_all hs
  simp only [Bool.not_not] at hc' hs'
  unfold indexUnloadCompleteStep
  rw [hx]
  dsimp only
  rw [hu]
  dsimp only
  rw [hc', hs']
  rfl

/-- The entries of a shard map are each in range (Table 5-12). -/
def shardEntriesOk (c : Cmd) : Prop :=
  ∀ i, i < fieldAt c.input 2 2 → fieldAt c.input (8 + 24 * i + 5) 1 < 2 ∧ zerosAt c.input (8 + 24 * i + 6) 2 = true ∧
    0 < fieldAt c.input (8 + 24 * i + 4) 1 ∧ fieldAt c.input (8 + 24 * i + 4) 1 ≤ 4 ∧
    ∀ j, j < 4 → if j < fieldAt c.input (8 + 24 * i + 4) 1
      then fieldAt c.input (8 + 24 * i + 8 + 4 * j) 4 < 16384 ∨ fieldAt c.input (8 + 24 * i + 8 + 4 * j) 4 = 0xFFFF_FFFE
      else fieldAt c.input (8 + 24 * i + 8 + 4 * j) 4 = 0xFFFF_FFFF

theorem bodyShardMapSet_eq {c : Cmd} {u : State} (hn : 0 < fieldAt c.input 2 2) (hm : fieldAt c.input 2 2 ≤ 16384)
    (hlen : c.input.length = 8 + 24 * fieldAt c.input 2 2) (hz : zerosAt c.input 4 4 = true) (hi : fieldAt c.input 0 2 < 64)
    (he : shardEntriesOk c)
    (hq : ∀ e ∈ parseShards (fieldAt c.input 2 2) c.input, ∀ r ∈ e.replicas,
      r = 0xFFFF_FFFE ∨ ∃ q, u.qp? r = some q ∧ q.partition = c.hdr.partition) :
    bodyShardMapSet c u =
      ({ u with maps := ⟨c.hdr.partition, fieldAt c.input 0 2, maxNat (u.maps.map (fun (m : ShardMap) => m.number)) + 1,
        parseShards (fieldAt c.input 2 2) c.input, u.now⟩ :: u.maps } : State).refuse c stOk := by
  have hresv : (List.range (fieldAt c.input 2 2)).any (fun i =>
      decide (2 ≤ fieldAt c.input (8 + 24 * i + 5) 1) || !zerosAt c.input (8 + 24 * i + 6) 2) = false := by
    refine List.any_eq_false.mpr (fun i hmem => ?_)
    obtain ⟨hf, hzero, -⟩ := he i (List.mem_range.mp hmem)
    simp [hzero]
    omega
  have hentry : (List.range (fieldAt c.input 2 2)).any (fun i =>
      fieldAt c.input (8 + 24 * i + 4) 1 == 0 || decide (4 < fieldAt c.input (8 + 24 * i + 4) 1) || (List.range 4).any (fun j =>
        if j < fieldAt c.input (8 + 24 * i + 4) 1
        then !(decide (fieldAt c.input (8 + 24 * i + 8 + 4 * j) 4 < 16384) || fieldAt c.input (8 + 24 * i + 8 + 4 * j) 4 == 0xFFFF_FFFE)
        else fieldAt c.input (8 + 24 * i + 8 + 4 * j) 4 != 0xFFFF_FFFF)) = false := by
    refine List.any_eq_false.mpr (fun i hmem => ?_)
    obtain ⟨-, -, hpos, hmax, hrep⟩ := he i (List.mem_range.mp hmem)
    have hreps : (List.range 4).any (fun j =>
        if j < fieldAt c.input (8 + 24 * i + 4) 1
        then !(decide (fieldAt c.input (8 + 24 * i + 8 + 4 * j) 4 < 16384) || fieldAt c.input (8 + 24 * i + 8 + 4 * j) 4 == 0xFFFF_FFFE)
        else fieldAt c.input (8 + 24 * i + 8 + 4 * j) 4 != 0xFFFF_FFFF) = false := by
      refine List.any_eq_false.mpr (fun j hj => ?_)
      have h := hrep j (List.mem_range.mp hj)
      split at h
      next hlt =>
        rw [if_pos hlt]
        rcases h with h | h <;> simp [h]
      next hge =>
        rw [if_neg hge]
        simp [h]
    rw [hreps]
    simp
    omega
  have hqps : (parseShards (fieldAt c.input 2 2) c.input).any (fun e => e.replicas.any (fun r =>
      r != 0xFFFF_FFFE && (match u.qp? r with
        | some q => q.partition != c.hdr.partition
        | none => true))) = false := by
    refine List.any_eq_false.mpr (fun e hmem hany => ?_)
    obtain ⟨r, hr, hbad⟩ := List.any_eq_true.mp hany
    rcases hq e hmem r hr with h | ⟨q, hqp, hpart⟩
    · simp [h] at hbad
    · simp [hqp, hpart] at hbad
  unfold bodyShardMapSet
  dsimp only
  rw [if_neg (by simp; omega), hz, hresv, if_neg (by simp), hentry, if_neg (by simp; omega), if_neg]
  intro hany
  exact absurd (hqps.symm.trans hany) Bool.false_ne_true

/-- Settles O6. -/
theorem indexCommandsHaveTheirEffect : Obligations.IndexCommandsHaveTheirEffect := by
  unfold Obligations.IndexCommandsHaveTheirEffect
  intro on
  refine ⟨?_, ?_, ?_, ?_, ?_, ?_, ?_⟩
  case refine_1 =>
    exact fun x es plan => hostEffect_of_body bodyIndexInsert (fun _ _ _ => rfl) (fun c u ho => by simp only [runBody, ho])
      (fun c u ⟨hlen, hn, hm, hz, ⟨hi, hx⟩, hes, hok, hrep, hcap, hplan, hcxl⟩ =>
        bodyIndexInsert_eq hlen hn hm hz hi hx hes hok hrep hcap hplan hcxl)
  case refine_2 =>
    exact fun x => hostEffect_of_body bodyIndexDelete (fun _ _ _ => rfl) (fun c u ho => by simp only [runBody, ho])
      (fun c u ⟨hn, hm, hlen, hz, ⟨hi, hx⟩, ha⟩ => bodyIndexDelete_eq hn hm hlen hz hi hx ha)
  case refine_3 =>
    refine hostEffect_of_body bodyIndexLoad (fun _ _ _ => rfl) (fun c u ho => by simp only [runBody, ho])
      (fun c u ⟨hs, hi, hprof, hdeg, hdeg', hwidth, hwidth', hhops, hhops', hcap, hcap', hid, hfmt, hnone, hbase, hin, hpool,
        hinpool, hvec, hvecs, hdir, hdirs, hvecIns, hdirIns, hheap, hhit, hread, himage⟩ => ?_)
    unfold shapedAs at hs
    rw [Bool.and_eq_true, beq_iff_eq] at hs
    obtain ⟨hlen, hresv⟩ := hs
    have hzero : zerosAt c.input 21 3 = true := by simpa using hresv
    have hrange : ∀ r ∈ imageRanges (fieldAt c.input 24 8) (u.bytes (fieldAt c.input 24 8) 64),
        u.isUe r.1 r.2 = false ∧ u.hitsDir c.hdr.partition r.1 r.2 = false := by
      intro r hr
      simpa using List.all_eq_true.mp hread r hr
    obtain ⟨hueBase, hhitBase⟩ := hrange (fieldAt c.input 24 8, 64) (List.mem_cons_self ..)
    have hue : (imageRanges (fieldAt c.input 24 8) (u.bytes (fieldAt c.input 24 8) 64)).any (fun r => u.isUe r.1 r.2) = false :=
      List.any_eq_false.mpr (fun r hr => by simp [(hrange r hr).1])
    have hdirs' : (imageRanges (fieldAt c.input 24 8) (u.bytes (fieldAt c.input 24 8) 64)).any
        (fun r => u.hitsDir c.hdr.partition r.1 r.2) = false := List.any_eq_false.mpr (fun r hr => by simp [(hrange r hr).2])
    unfold bodyIndexLoad
    dsimp only at *
    rw [if_neg (by simpa using hlen), hzero, if_neg (by simp), if_neg (by simp; omega), hnone, if_neg (by simp),
      if_neg (by simp [hbase, hin, hpool, hinpool, hvec, hdir, hvecIns, hdirIns, hheap]), hhit, hhitBase, if_neg (by simp), hueBase,
      if_neg (by simp), hue, Bool.and_false, if_neg (by simp), hdirs', if_neg (by simp), himage, if_neg (by simp), hvecs, hdirs,
      if_neg (by simp)]
  case refine_4 =>
    refine fun x => hostEffect_of_body bodyIndexEpochQuery (fun _ _ _ => rfl) (fun c u ho => by simp only [runBody, ho])
      (fun c u ⟨hs, hi, hx⟩ => ?_)
    unfold bodyIndexEpochQuery
    rw [shaped_of hs, onIndex_of _ hi hx]
  case refine_5 =>
    exact hostEffect_of_body bodyShardMapSet (fun _ _ _ => rfl) (fun c u ho => by simp only [runBody, ho])
      (fun c u ⟨hn, hm, hlen, hz, hi, he, hq⟩ => bodyShardMapSet_eq hn hm hlen hz hi he hq)
  case refine_6 =>
    exact fun x => hostEffect_of_body bodyIndexUnload (fun _ _ _ => rfl) (fun c u ho => by simp only [runBody, ho])
      (fun c u ⟨hs, hi, hx, hu, hm⟩ => bodyIndexUnload_eq hs hi hx hu hm)
  case refine_7 =>
    exact fun p i x id stamp => unitEffect_of (fun _ _ => rfl)
      (fun b ⟨hx, hu, hc, hs⟩ => indexUnloadCompleteStep_eq hx hu hc hs)

end Sys2Proof.Machine
end

section
/-! Merges. -/

namespace Sys2Proof.Machine

theorem mergeRepairStep_eq {b s1 : State} {p : Nat} {j j1 : MergeJob} {x : Index} (he : b.bit GGE_CTRL 1 = true)
    (hj : b.merge? p = some j) (hstate : j.state = 2) (hx : b.index? p j.index = some x) (hp : (b.profile x.profile).ok = true)
    (hu : b.mergeUe x j = none) (hi : b.codesIdle (j.codes x) = false)
    (hf : b.codesFault (b.profile x.profile) [] (j.codes x) = false)
    (hr : (if (b.entryHeirs x j).isEmpty then b else (b.mergeQuery x j j.epoch.entry).mergeMeasured x j (b.entryHeirs x j)).repairNodes
      x j ((List.range j.epoch.count).filter (fun n => !j.isDead n)) = some (s1, j1)) :
    mergeRepairStep p b =
      ((s1.setMerge p (fun _ => { j1 with
        state := 3, repaired := true, epoch := { j1.epoch with entry := b.newEntry x j } })).setFld (GGE_MERGE_STATUS p)
          43 40 3).setFld (GGE_MERGE_STATUS p) 31 0 (((List.range j.epoch.count).filter (fun n => !j.isDead n)).filter (fun n =>
            (b.nodeNbrs x j.epoch n).any j.isDead)).length := by
  unfold mergeRepairStep
  rw [he, if_neg (by simp), hj]
  dsimp only
  rw [hstate, if_neg (by decide), hj]
  dsimp only
  rw [hstate, if_neg (by decide), hx]
  dsimp only
  rw [hp, if_neg (by simp), hu]
  dsimp only
  rw [hi, if_neg (by simp), hf, Bool.and_false, if_neg (by simp), hr]

/-- Settles O7. -/
theorem mergesHaveTheirEffect : Obligations.MergesHaveTheirEffect := by
  unfold Obligations.MergesHaveTheirEffect
  refine ⟨?_, ?_, ?_, ?_⟩
  case refine_1 =>
    refine fun x => hostEffect_of_body bodyIndexMergeStart (fun _ _ _ => rfl) (fun c u ho => by simp only [runBody, ho])
      (fun c u ⟨hs, hi, hx, hu, hm, hw, hp, hwalk⟩ => ?_)
    have hwidth : (fieldAt c.input 2 2 != 0 && (decide (fieldAt c.input 2 2 < x.degree) || decide (1024 < fieldAt c.input 2 2))) =
        false := by
      rcases hw with hw | ⟨hlow, hhigh⟩
      · rw [hw]
        rfl
      · simp
        omega
    unfold bodyIndexMergeStart
    rw [shaped_of hs]
    dsimp only at hwalk ⊢
    rw [if_neg (by omega), hx]
    dsimp only
    rw [hu, if_neg (by simp), hm, if_neg (by simp), hwidth, if_neg (by simp), hp, if_neg (by simp), if_neg (by simpa using hwalk)]
    simp only [beq_iff_eq]
  case refine_2 =>
    exact fun p j x s1 j1 => unitEffect_of (fun _ _ => rfl)
      (fun b ⟨he, hj, hstate, hx, hp, hu, hi, hf, hr⟩ => mergeRepairStep_eq he hj hstate hx hp hu hi hf hr)
  case refine_3 =>
    refine fun p j x => unitEffect_of (fun _ _ => rfl) (fun b ⟨hj, hstate, hrep, he, hx⟩ => ?_)
    unfold mergePublishStep
    rw [hj]
    dsimp only
    rw [hstate, hrep, he, if_neg (by decide), hx]
    rfl
  case refine_4 =>
    refine fun p j old => unitEffect_of (fun _ _ => rfl) (fun b ⟨hj, hold, hb⟩ => ?_)
    unfold mergeReclaimStep
    rw [hj]
    dsimp only
    rw [hold]
    dsimp only
    rw [hb, if_neg Bool.false_ne_true]

end Sys2Proof.Machine
end

section
/-! Fetches, rescoring and re-ranking, and runs of encoders and reward models. -/

namespace Sys2Proof.Machine

theorem fetchBody_eq {vec : Bool} {c : Cmd} {u : State} {x : Index} (hn : 0 < fieldAt c.input 4 4)
    (hm : fieldAt c.input 4 4 ≤ 65536) (hlen : c.input.length = 8 + 8 * fieldAt c.input 4 4) (hz : zerosAt c.input 2 2 = true)
    (hi : fieldAt c.input 0 2 < 64) (hx : u.boundIndex c (fieldAt c.input 0 2) = some x)
    (hg : ∀ i, i < fieldAt c.input 4 4 → fieldAt c.input (8 + 8 * i) 8 / 2 ^ 32 % 2 ^ 16 = 0 ∧
      fieldAt c.input (8 + 8 * i) 8 / 2 ^ 48 = x.shard ∧
      (u.fetchOne x vec (fieldAt c.input (8 + 8 * i) 8 % 2 ^ 32)).2.2 = stOk) :
    fetchBody vec c u = u.replyData c stOk [] ((List.range (fieldAt c.input 4 4)).flatMap (fun i =>
      let r := u.fetchOne x vec (fieldAt c.input (8 + 8 * i) 8 % 2 ^ 32)
      fetchItem r.1 r.2.1)) := by
  have hbad : ((List.range (fieldAt c.input 4 4)).map (fun i => fieldAt c.input (8 + 8 * i) 8)).any
      (fun g => g / 2 ^ 32 % 2 ^ 16 != 0 || g / 2 ^ 48 != x.shard) = false := by
    rw [List.any_map, List.any_eq_false]
    intro i hi
    obtain ⟨hmid, hshard, -⟩ := hg i (List.mem_range.mp hi)
    simp only [Function.comp, hmid, hshard]
    simp
  have hfind : (((List.range (fieldAt c.input 4 4)).map (fun i => fieldAt c.input (8 + 8 * i) 8)).map
      (fun g => u.fetchOne x vec (g % 2 ^ 32))).find? (fun r => r.2.2 != stOk) = none := by
    rw [List.find?_eq_none]
    intro r hr
    rw [List.map_map, List.mem_map] at hr
    obtain ⟨i, hi, rfl⟩ := hr
    simpa using (hg i (List.mem_range.mp hi)).2.2
  unfold fetchBody
  dsimp only
  rw [if_neg (by simp; omega), hz, if_neg (by simp), onIndex_of _ hi hx, hbad, if_neg Bool.false_ne_true, hfind]
  simp only [List.flatMap_map]

theorem wordsAt_length (bs : List Byte) (off n : Nat) : (wordsAt bs off n).length = n := by
  simp [wordsAt]

/-- Settles O8. -/
theorem scoringCommandsHaveTheirEffect : Obligations.ScoringCommandsHaveTheirEffect := by
  unfold Obligations.ScoringCommandsHaveTheirEffect
  intro fetches fetched
  refine ⟨fun x => ⟨?_, ?_⟩, ?_, ?_, ?_, ?_, ?_, ?_⟩
  case refine_1 =>
    exact hostEffect_of_body bodyVectorFetch (fun _ _ _ => rfl) (fun c u ho => by simp only [runBody, ho])
      (fun c u ⟨hn, hm, hlen, hz, hi, hx, hg⟩ => fetchBody_eq hn hm hlen hz hi hx hg)
  case refine_2 =>
    exact hostEffect_of_body bodyPassageFetch (fun _ _ _ => rfl) (fun c u ho => by simp only [runBody, ho])
      (fun c u ⟨hn, hm, hlen, hz, hi, hx, hg⟩ => fetchBody_eq hn hm hlen hz hi hx hg)
  case refine_3 =>
    refine fun x s1 => hostEffect_of_body bodyRescore (fun _ _ _ => rfl) (fun c u ho => by simp only [runBody, ho])
      (fun c u ⟨hfmt, hlen, hflags, hresv, hz, hi, hn, hk, hx, hr, hroom, hstart⟩ => ?_)
    have hformat : [1, 2, 4, 7].contains (fieldAt c.input 2 2) = true := by
      rcases hfmt with h | h | h | h <;> rw [h] <;> decide
    unfold bodyRescore
    dsimp only at *
    rw [hformat, if_neg (by simp; omega), hresv, hz, if_neg (by simp; omega), if_neg (by simp; omega), hx]
    dsimp only
    rw [hr, if_neg (by simp), if_neg (by simp only [Bool.and_eq_true, decide_eq_true_eq, min_def] at hroom ⊢; omega), hstart]
  case refine_4 =>
    refine fun x => hostEffect_of_body bodyRescore (fun _ _ _ => rfl) (fun c u ho => by simp only [runBody, ho])
      (fun c u ⟨hfmt, hlen, hflags, hresv, hz, hi, hx, hr, hmany, hroom⟩ => ?_)
    have hformat : [1, 2, 4, 7].contains (fieldAt c.input 2 2) = true := by
      rcases hfmt with h | h | h | h <;> rw [h] <;> decide
    unfold bodyRescore
    dsimp only at *
    rw [hformat, if_neg (by simp; omega), hresv, hz, if_neg (by simp; omega), if_neg (by simp; omega), hx]
    dsimp only
    rw [hr, if_neg (by simp), if_pos (by simp only [Bool.and_eq_true, decide_eq_true_eq]; exact ⟨hmany, hroom⟩)]
  case refine_5 =>
    refine fun m v s1 => hostEffect_of_body bodyRerank (fun _ _ _ => rfl) (fun c u ho => by simp only [runBody, ho])
      (fun c u ⟨hlen, hflags, hresv, hz, hi, hn, hn', hk, ht, ht', hq, hq', hrun, hpair, hstart⟩ => ?_)
    unfold bodyRerank
    dsimp only at *
    rw [if_neg (by simp; omega), hresv, hz, if_neg (by simp; omega), if_neg (by simp; omega), hrun]
    dsimp only
    rw [hpair, if_neg (by simp), hstart]
  case refine_6 =>
    refine fun id f => unitEffect_of (fun _ _ => rfl) (fun b ⟨hf, hend, hset⟩ => ?_)
    unfold fetchBudgetEndStep
    rw [hf]
    dsimp only
    rw [hset, decide_eq_false (Nat.not_lt.mpr hend), if_neg (by simp)]
  case refine_7 =>
    refine fun m v ins => hostEffect_of_body (bodyEmbed runTok) (fun _ _ _ => rfl) (fun c u ho => by simp only [runBody, ho])
      (fun c u ⟨hlen, hflags, hresv, hz, hkind, hfmt, hn, hn', hins, hrun, hne, hwords⟩ => ?_)
    have hformat : [1, 4, 7].contains (fieldAt c.input 5 1) = true := by
      rcases hfmt with h | h | h <;> rw [h] <;> decide
    have hempty := any_not_of_all hne
    simp only [Bool.not_not] at hempty
    unfold bodyEmbed
    dsimp only at *
    simp only [beq_iff_eq]
    rw [if_neg (by omega), hresv, hz, if_neg (by simp; omega), hformat, if_neg (by simp; omega), hins]
    dsimp only
    rw [hrun]
    dsimp only
    rw [hempty, if_neg (by simp)]
    by_cases ht : fieldAt c.input 4 1 = 1
    · rw [if_pos ht, if_pos ht]
    · rw [if_neg ht, if_neg ht, if_neg, List.map_map]
      · rfl
      · rw [List.any_map, List.any_eq_true]
        rintro ⟨w, hw, hbad⟩
        have hok := List.all_eq_true.mp (hwords (by omega)) w hw
        simp only [Function.comp, wordsAt_length, Bool.or_eq_true, Bool.and_eq_true, decide_eq_true_eq, Bool.not_eq_true'] at hbad hok
        rcases hbad with hbad | hbad
        · omega
        · rw [hok.2] at hbad
          cases hbad
  case refine_8 =>
    refine fun m v qs => hostEffect_of_body bodyRewardScore (fun _ _ _ => rfl) (fun c u ho => by simp only [runBody, ho])
      (fun c u ⟨hlen, hn, hn', hresv, hqs, hrun, hwords⟩ => ?_)
    unfold bodyRewardScore
    dsimp only at *
    rw [if_neg (by simp; omega), hresv, if_neg (by simp), hqs]
    dsimp only
    rw [hrun]
    dsimp only
    rw [any_not_of_all hwords, if_neg Bool.false_ne_true]

end Sys2Proof.Machine
end

section
/-! Sequences: how they start and how they are steered. -/

namespace Sys2Proof.Machine

/-- Settles O9. -/
theorem sequencesStart : Obligations.SequencesStart := by
  unfold Obligations.SequencesStart
  refine ⟨?_, ?_⟩
  case refine_1 =>
    refine fun xs n m v i s1 => hostEffect_of_body bodyGenerate (fun _ _ _ => rfl) (fun c u ho => by simp only [runBody, ho])
      (fun c u ⟨hlen, hn, hn', hresv, hstops, hmany, harea, hpad, href, hmodel, hfree, hmake, hen, hjig⟩ => ?_)
    have hready : (!u.bit HDS_CTRL 0 || ((parseGen c.input).flags.testBit 3 && !u.bit JIG_CTRL 0)) = false := by
      rw [hen, Bool.not_true, Bool.false_or]
      cases hf : (parseGen c.input).flags.testBit 3 with
      | false => rfl
      | true => rw [hjig hf]; rfl
    unfold bodyGenerate
    dsimp only at *
    rw [if_neg (by simp; omega), hresv, if_neg (by simp), hstops]
    dsimp only
    rw [hpad, harea, if_neg (by simp; omega)]
    unfold State.takeIn
    rw [href, hmodel, hfree]
    dsimp only
    unfold State.enterSeq
    rw [hmake]
    dsimp only
    rw [hready, if_neg Bool.false_ne_true]
  case refine_2 =>
    refine fun r => hostEffect_of_body (bodyRagGenerate runTok) (fun _ _ _ => rfl) (fun c u ho => by simp only [runBody, ho])
      (fun c u ⟨hr, href⟩ => ?_)
    unfold bodyRagGenerate
    rw [hr]
    dsimp only
    rw [href]

/-! ### Steering -/

theorem bodySeqAppend_eq {c : Cmd} {u : State} {q : Seq} {v : Vocab} (hn : 0 < fieldAt c.input 4 4)
    (hm : fieldAt c.input 4 4 ≤ 1048576) (hlen : c.input.length = 8 + 4 * fieldAt c.input 4 4)
    (hq : u.seqOf c.hdr.partition (fieldAt c.input 0 4) = some q) (he : q.ending = none)
    (hv : u.vocabs.find? (fun v => v.slot == q.vocab) = some v)
    (hw : ((List.range (fieldAt c.input 4 4)).map (fun i => fieldAt c.input (8 + 4 * i) 4)).all (u.wordOk v) = true)
    (hr : q.maxNew ≠ 0 → fieldAt c.input 4 4 ≤ q.reserve)
    (hl : q.len + u.stepTokens q + q.append.length + fieldAt c.input 4 4 ≤ 16777215) :
    bodySeqAppend c u =
      let n := fieldAt c.input 4 4
      let ws := (List.range n).map (fun i => fieldAt c.input (8 + 4 * i) 4)
      (u.setSeq q.idx (fun q => { q with
        append := q.append ++ ws, reserve := if q.maxNew == 0 then q.reserve else q.reserve - n })).refuse c stOk := by
  have hroom : (q.maxNew != 0 && decide (q.reserve < fieldAt c.input 4 4)) = false := by
    by_cases h : q.maxNew = 0
    · rw [h]
      rfl
    · have := hr h
      simp
      omega
  unfold bodySeqAppend
  dsimp only
  rw [if_neg (by simp; omega), hq]
  dsimp only
  rw [he, if_neg (by simp), hv]
  dsimp only
  rw [if_neg]
  simp only [hw, hroom, Bool.or_eq_true, Bool.not_true, Bool.false_eq_true, false_or, decide_eq_true_eq]
  omega

/-- A SEQ_CANCEL of a sequence that goes on ends it, and replies how many tokens its client has. -/
theorem bodySeqCancel_eq {c : Cmd} {u : State} {q : Seq} (hs : shapedAs c 8 [(4, 4)] = true)
    (hq : u.seqOf c.hdr.partition (fieldAt c.input 0 4) = some q) (he : q.ending = none) (hc : c.cancelled = none) :
    bodySeqCancel c u = (u.cutSeq q.idx stCancelled).reply c stCancelled []
      (toLE 4 (fieldAt c.input 0 4) ++ toLE 4 (q.stream.sent + q.stream.held.length) ++ zeros 4) := by
  unfold bodySeqCancel
  rw [shaped_of hs]
  dsimp only
  rw [hc, hq]
  dsimp only
  rw [he]

/-- A SEQ_CANCEL that intake takes waits for a later stamp, so that the endings of its own come first. -/
theorem receive_seqCancel {s : State} {r : Req} {q : Qp} (hq : s.qp? r.qp = some q) (hw : wholeRequest r = true)
    (hh : q.hears r = true) (ha : (s.listen r.qp).admitsPacket q 0x0403 r = true)
    (hrow : ((s.listen r.qp).taken ((s.listen r.qp).incoming q 0x0403 r)).rowFourteen ((s.listen r.qp).incoming q 0x0403 r) = none)
    (hchap : ((s.listen r.qp).taken ((s.listen r.qp).incoming q 0x0403 r)).chapterRefusal
      ((s.listen r.qp).incoming q 0x0403 r) = none)
    (hfence : (((s.listen r.qp).incoming q 0x0403 r).fence &&
      (((s.listen r.qp).taken ((s.listen r.qp).incoming q 0x0403 r)).outstanding r.qp).any
        (fun d => decide (d.id < ((s.listen r.qp).incoming q 0x0403 r).id))) = false) :
    s.receive 0x0403 r = ((s.listen r.qp).taken ((s.listen r.qp).incoming q 0x0403 r)).setCmd
      ((s.listen r.qp).incoming q 0x0403 r).id (fun d => { d with phase := .ordered }) := by
  rw [wholeRequest, Bool.and_eq_true, Bool.not_eq_true'] at hw
  simp only [State.admitsPacket, Bool.and_eq_true, Option.isNone_iff_eq_none] at ha
  obtain ⟨⟨hintake, htake⟩, hrefs⟩ := ha
  rw [State.receive_of_hears hq hw.1 hh]
  unfold State.firstPacket
  rw [hintake]
  dsimp only
  rw [hw.2, if_neg Bool.false_ne_true]
  unfold State.take
  rw [htake]
  dsimp only
  unfold State.incoming at hrow hchap hfence hrefs ⊢
  rw [if_pos hrefs]
  generalize hc : (s.listen r.qp).newCmd q (hdrOf 0x0403 r) ((parseItems 513 (extOf r)).getD []) (payOf r) = c at *
  have ho : c.hdr.opcode = 0x0403 := hc ▸ rfl
  have hqp : c.hdr.qp = r.qp := hc ▸ rfl
  have hwait : ((s.listen r.qp).taken c).mustWait c = true := by
    have hnow : ((s.listen r.qp).taken c).now ≤ c.intake := hc ▸ Nat.le_refl _
    unfold State.mustWait
    rw [ho, decide_eq_true hnow]
    simp
  unfold State.presentCmd
  rw [hrow]
  dsimp only
  rw [ho, if_neg (by decide), hchap]
  have hbegin : ((s.listen r.qp).taken c).begin_ c =
      ((s.listen r.qp).taken c).setCmd c.id (fun d => { d with phase := .ordered }) := by
    unfold State.begin_ State.inOrder
    rw [hqp, hfence, if_neg Bool.false_ne_true, hwait, if_pos rfl]
  rw [← hbegin]
  split
  next h => split at h <;> cases h
  next => rfl

/-- The SEQ_CANCEL whose turn has come ends its sequence before anything of a later stamp. -/
theorem begun_of_seqCancel {s : State} {t : Stamp} {c : Cmd} {q : Seq} (hturn : s.turnOf t = some c) (ho : c.hdr.opcode = 0x0403)
    (hs : shapedAs c 8 [(4, 4)] = true) (hq : (s.arrived t).seqOf c.hdr.partition (fieldAt c.input 0 4) = some q)
    (he : q.ending = none) (hc : c.cancelled = none) :
    s.begun t = (State.releaseOrdered ((s.arrived t).cmds.length - 1)
      ((((s.arrived t).setCmd c.id (fun d => { d with phase := .started })).cutSeq q.idx stCancelled).reply
        { c with phase := .started } stCancelled []
        (toLE 4 (fieldAt c.input 0 4) ++ toLE 4 (q.stream.sent + q.stream.held.length) ++ zeros 4))).deadlinesDue := by
  unfold State.turnOf at hturn
  unfold State.begun
  generalize s.arrived t = b at *
  obtain ⟨n, hn⟩ : ∃ n, b.cmds.length = n + 1 :=
    Nat.exists_eq_succ_of_ne_zero (List.length_pos_of_mem (List.mem_of_find?_eq_some hturn)).ne'
  have hdispatch : b.dispatch c = ((b.setCmd c.id (fun d => { d with phase := .started })).cutSeq q.idx stCancelled).reply
      { c with phase := .started } stCancelled []
      (toLE 4 (fieldAt c.input 0 4) ++ toLE 4 (q.stream.sent + q.stream.held.length) ++ zeros 4) := by
    have hbody := @bodySeqCancel_eq { c with phase := .started } (b.setCmd c.id (fun d => { d with phase := .started })) q hs hq he hc
    unfold State.dispatch
    rw [ho, if_neg (by decide), ← hbody]
    simp only [runBody, ho]
  rw [hn, Nat.add_sub_cancel, ← hdispatch]
  conv_lhs => unfold State.releaseOrdered
  rw [hturn]

/-- Settles O10. -/
theorem sequenceCommandsHaveTheirEffect : Obligations.SequenceCommandsHaveTheirEffect := by
  unfold Obligations.SequenceCommandsHaveTheirEffect
  refine ⟨?_, ?_, ?_, ?_, ?_, ?_, ?_⟩
  case refine_1 =>
    exact fun q v => hostEffect_of_body bodySeqAppend (fun _ _ _ => rfl) (fun c u ho => by simp only [runBody, ho])
      (fun c u ⟨hn, hm, hlen, hq, he, hv, hw, hr, hl⟩ => bodySeqAppend_eq hn hm hlen hq he hv hw hr hl)
  case refine_2 =>
    intro s t r q ha b c hq hw hh hadm hrow hchap hfence
    have hexec : exec (.seqCancel t r) s = .next (runAt t (fun s => s.receive 0x0403 r) s) := rfl
    rw [hexec, runAt_acts _ ha, receive_seqCancel hq hw hh hadm hrow hchap hfence]
  case refine_3 =>
    intro s t p c q ha hturn ho hs b h hq he hc u e
    have hexec : exec (.stepBoundary t p) s = .next (runAt t (stepBoundaryStep p) s) := rfl
    rw [hexec, runAt_acts _ ha, begun_of_seqCancel hturn ho hs hq he hc]
  case refine_4 =>
    refine fun q => hostEffect_of_body bodySeqStatus (fun _ _ _ => rfl) (fun c u ho => by simp only [runBody, ho])
      (fun c u ⟨hs, hq⟩ => ?_)
    unfold bodySeqStatus
    rw [shaped_of hs, hq]
  case refine_5 =>
    refine fun q => hostEffect_of_body bodySeqSetPriority (fun _ _ _ => rfl) (fun c u ho => by simp only [runBody, ho])
      (fun c u ⟨hs, hf, hq⟩ => ?_)
    unfold bodySeqSetPriority
    rw [shaped_of hs]
    dsimp only
    rw [if_neg (by omega), hq]
  case refine_6 =>
    refine hostEffect_of_body bodyPrefixStore (fun _ _ _ => rfl) (fun c u ho => by simp only [runBody, ho])
      (fun c u (hl : c.input.length = 8) => ?_)
    unfold bodyPrefixStore
    rw [if_neg (by simp [hl])]
  case refine_7 =>
    refine fun x => hostEffect_of_body bodyPrefixRelease (fun _ _ _ => rfl) (fun c u ho => by simp only [runBody, ho])
      (fun c u ⟨hl, hx, he⟩ => ?_)
    have hs : shapedAs c 8 [] = true := by simp [shapedAs, hl]
    unfold bodyPrefixRelease
    rw [shaped_of hs, hx]
    dsimp only
    rw [he, if_neg (by simp)]

end Sys2Proof.Machine
end

section
/-! Steps of the generation engine. -/

namespace Sys2Proof.Machine

/-- Settles O11. -/
theorem stepsGoOn : Obligations.StepsGoOn := by
  unfold Obligations.StepsGoOn
  intro cooled
  refine ⟨?_, ?_, ?_, ?_, ?_⟩
  case refine_1 =>
    refine fun p => unitEffect_of (fun _ _ => rfl) (fun b ⟨hw, ha⟩ => ?_)
    unfold stepBoundaryStep
    dsimp only [cooled] at hw ha ⊢
    rw [hw, ha]
    rfl
  case refine_2 =>
    refine fun p => unitEffect_of (fun _ _ => rfl)
      (fun b (ha : ((cooled b p).runner p).active = false) => ?_)
    unfold stepBoundaryStep
    dsimp only [cooled] at ha ⊢
    rw [ha]
    rfl
  case refine_3 => exact fun k => unitEffect_of (fun _ _ => rfl) (fun b _ => rfl)
  case refine_4 => exact fun k => unitEffect_of (fun _ _ => rfl) (fun b _ => rfl)
  case refine_5 =>
    refine fun p obj => unitEffect_of (fun _ _ => rfl) (fun b ⟨hf, hst⟩ => ?_)
    unfold farKvFetchCompleteStep
    rw [hf, if_neg (by simp)]
    dsimp only
    rw [hst]
    rfl

end Sys2Proof.Machine
end

section
/-! Embedding tables. -/

namespace Sys2Proof.Machine

theorem embOpen_of {s : State} (c : Cmd) (k : State → State) (h : s.bit EMB_CTRL 0 = true) : s.embOpen c k = k s :=
  if_pos h

theorem any_lt_of_all_le {l : List Nat} {n : Nat} (h : l.all (fun r => decide (r < n)) = true) :
    l.any (fun r => decide (n ≤ r)) = false :=
  List.any_eq_false.mpr (fun r hr => by simpa using List.all_eq_true.mp h r hr)

theorem bodyEmbTableCreate_eq {c : Cmd} {u : State} (hb : u.bit EMB_CTRL 0 = true) (hlen : c.input.length = 64)
    (hresv : embResvOk c.input = true) (hnone : u.table? (parseEmb c.input).1 = none) (hid : (parseEmb c.input).1 < 4096)
    (hok : (parseEmb c.input).2.ok = true) (hplaced : u.embPlaced c.hdr.partition (parseEmb c.input).2 = true)
    (hdir : u.embOnDir c.hdr.partition (parseEmb c.input).2 = false) :
    bodyEmbTableCreate c u =
      let p := c.hdr.partition
      let e := parseEmb c.input
      (({ u with tables := u.tables ++ [{ id := e.1, part := p, cur := e.2 }] } : State).clearDir p e.2).reply c stOk []
        (toLE 2 (if e.2.stride ≤ 4096 then 1 else ceilDiv e.2.rowBytes 4096) ++ zeros 2 ++
          toLE 8 (e.2.hotLen (u.userPchs p)) ++ zeros 4) := by
  unfold bodyEmbTableCreate
  rw [embOpen_of c _ hb]
  dsimp only
  rw [hlen, if_neg (by simp), hnone, if_neg (by simp), hok, hresv, if_neg (by simp; omega), hplaced, if_neg (by simp), hdir,
    if_neg (by simp)]

theorem bodyEmbTableReplace_eq {c : Cmd} {u : State} {x : EmbTable} (hb : u.bit EMB_CTRL 0 = true)
    (hlen : c.input.length = 64) (hresv : embResvOk c.input = true) (hx : u.table? (parseEmb c.input).1 = some x)
    (hp : x.part = c.hdr.partition) (ho : x.old = none) (hn : x.next = none) (hok : (parseEmb c.input).2.ok = true)
    (hver : (parseEmb c.input).2.ver ≠ x.cur.ver) (hplaced : u.embPlaced c.hdr.partition (parseEmb c.input).2 = true)
    (hclear : ((parseEmb c.input).2.ranges (u.userPchs c.hdr.partition)).all
      (fun r => clearOf r.1 r.2 (x.cur.ranges (u.userPchs c.hdr.partition))) = true)
    (hdir : u.embOnDir c.hdr.partition (parseEmb c.input).2 = false) :
    bodyEmbTableReplace c u =
      { u with tables := updateWhere u.tables (fun x => x.id == (parseEmb c.input).1) (fun (x : EmbTable) =>
          { x with next := some ((parseEmb c.input).2, c.id, u.now) }) } := by
  unfold bodyEmbTableReplace
  rw [embOpen_of c _ hb]
  dsimp only
  rw [hlen, if_neg (by simp), hx]
  dsimp only
  rw [hp, if_neg (by simp), ho, hn, if_neg (by simp), hok, hresv, if_neg (by simpa using hver), hplaced,
    any_not_of_all hclear, if_neg (by simp), hdir, if_neg (by simp)]

theorem bodyEmbTableDrop_eq {c : Cmd} {u : State} {x : EmbTable} (hb : u.bit EMB_CTRL 0 = true)
    (hs : shapedAs c 8 [(2, 6)] = true) (hx : u.table? (fieldAt c.input 0 2) = some x) (hp : x.part = c.hdr.partition)
    (ho : x.old = none) (hn : x.next = none) (hbusy : u.tableBusy x x.cur.ver c.id = false) :
    bodyEmbTableDrop c u = ({ u with tables := u.tables.filter (fun y => y.id != x.id) } : State).refuse c stOk := by
  unfold bodyEmbTableDrop
  rw [embOpen_of c _ hb, shaped_of hs, hx]
  dsimp only
  rw [hp, if_neg (by simp), ho, hn, hbusy, if_neg (by simp)]

theorem bodyEmbScatterAdd_eq {c : Cmd} {u : State} {x : EmbTable} {v : EmbVer} (hb : u.bit EMB_CTRL 0 = true)
    (hn : 0 < fieldAt c.input 4 4) (hm : fieldAt c.input 4 4 ≤ 65536) (hz : zerosAt c.input 8 8 = true)
    (hx : u.boundTable c (fieldAt c.input 0 2) (fieldAt c.input 2 2) = some (x, v)) (hro : v.ro = false)
    (hlen : c.input.length = 16 + 8 * fieldAt c.input 4 4 + 4 * v.dims * fieldAt c.input 4 4) :
    bodyEmbScatterAdd c u = u.startUpdate c x v 0 (zeros 32) 16 (fieldAt c.input 4 4) := by
  unfold bodyEmbScatterAdd
  rw [embOpen_of c _ hb]
  dsimp only
  rw [if_neg (by simp; omega), hz, if_neg (by simp), hx]
  dsimp only
  rw [hro, if_neg (by simpa using hlen)]

theorem bodyEmbUpdate_eq {c : Cmd} {u : State} {x : EmbTable} {v : EmbVer} (hb : u.bit EMB_CTRL 0 = true)
    (hn : 0 < fieldAt c.input 4 4) (hm : fieldAt c.input 4 4 ≤ 65536) (hstep : fieldAt c.input 8 4 ≠ 0)
    (hz : zerosAt c.input 28 4 = true) (hx : u.boundTable c (fieldAt c.input 0 2) (fieldAt c.input 2 2) = some (x, v))
    (hro : v.ro = false) (hopt : v.opt ≠ 0)
    (hlen : c.input.length = 32 + 8 * fieldAt c.input 4 4 + 4 * v.dims * fieldAt c.input 4 4) :
    bodyEmbUpdate c u =
      u.startUpdate c x v v.opt (updateWords c.input v (u.userPchs c.hdr.partition)) 32 (fieldAt c.input 4 4) := by
  unfold bodyEmbUpdate
  rw [embOpen_of c _ hb]
  dsimp only
  rw [if_neg (by simp; omega), hz, if_neg (by simp), hx]
  dsimp only
  rw [hro, if_neg (by simpa using ⟨hopt, hlen⟩)]

/-- Settles O12. -/
theorem embeddingCommandsHaveTheirEffect : Obligations.EmbeddingCommandsHaveTheirEffect := by
  unfold Obligations.EmbeddingCommandsHaveTheirEffect
  refine ⟨?_, ?_, ?_, ?_, ?_, ?_, ?_⟩
  case refine_1 =>
    exact hostEffect_of_body bodyEmbTableCreate (fun _ _ _ => rfl) (fun c u ho => by simp only [runBody, ho])
      (fun c u ⟨hb, hlen, hresv, hnone, hid, hok, hplaced, hdir⟩ =>
        bodyEmbTableCreate_eq hb hlen hresv hnone hid hok hplaced hdir)
  case refine_2 =>
    exact fun x => hostEffect_of_body bodyEmbTableReplace (fun _ _ _ => rfl) (fun c u ho => by simp only [runBody, ho])
      (fun c u ⟨hb, hlen, hresv, hx, hp, ho, hn, hok, hver, hplaced, hclear, hdir⟩ =>
        bodyEmbTableReplace_eq hb hlen hresv hx hp ho hn hok hver hplaced hclear hdir)
  case refine_3 =>
    exact fun x => hostEffect_of_body bodyEmbTableDrop (fun _ _ _ => rfl) (fun c u ho => by simp only [runBody, ho])
      (fun c u ⟨hb, hs, hx, hp, ho, hn, hbusy⟩ => bodyEmbTableDrop_eq hb hs hx hp ho hn hbusy)
  case refine_4 =>
    refine fun x v => hostEffect_of_body bodyEmbGather (fun _ _ _ => rfl) (fun c u ho => by simp only [runBody, ho])
      (fun c u ⟨hb, hmode, hn, hm, hone, hi, hi', hlen, hz, hsum, hx, hrow, hue⟩ => ?_)
    unfold bodyEmbGather
    rw [embOpen_of c _ hb]
    dsimp only at hmode hn hm hone hi hi' hlen hz hsum hx hrow hue ⊢
    rw [if_neg (by simp; omega), hz, if_neg (by simp), hsum, if_neg (by simp), hx]
    dsimp only
    rw [hrow, if_neg (by decide), hue]
  case refine_5 =>
    exact fun x v => hostEffect_of_body bodyEmbScatterAdd (fun _ _ _ => rfl) (fun c u ho => by simp only [runBody, ho])
      (fun c u ⟨hb, hn, hm, hz, hx, hro, hlen⟩ => bodyEmbScatterAdd_eq hb hn hm hz hx hro hlen)
  case refine_6 =>
    exact fun x v => hostEffect_of_body bodyEmbUpdate (fun _ _ _ => rfl) (fun c u ho => by simp only [runBody, ho])
      (fun c u ⟨hb, hn, hm, hstep, hz, hx, hro, hopt, hlen⟩ => bodyEmbUpdate_eq hb hn hm hstep hz hx hro hopt hlen)
  case refine_7 =>
    refine fun x v => hostEffect_of_body bodyEmbHotsetSet (fun _ _ _ => rfl) (fun c u ho => by simp only [runBody, ho])
      (fun c u ⟨hb, hn, hm, hlen, hz, hx, htier, hin, hra, hrr, hcold, hhot, hread, hroom⟩ => ?_)
    unfold bodyEmbHotsetSet
    rw [embOpen_of c _ hb]
    dsimp only at hn hm hlen hz hx htier hin hra hrr hcold hhot hread hroom ⊢
    have hwarm := any_not_of_all hcold
    simp only [Bool.not_not] at hwarm
    have hrow : ∀ r ∈ (List.range (fieldAt c.input 4 4)).map (fun i => fieldAt c.input (16 + 8 * i) 8) ++
        (List.range (fieldAt c.input 8 4)).map (fun i => fieldAt c.input (16 + 8 * fieldAt c.input 4 4 + 8 * i) 8),
        (u.hotFind c.hdr.partition v r).isNone = false ∧ u.locLost (v.home r) = false ∧
          u.cxlMissing (v.home r).addr v.rowBytes = none := by
      intro r hr
      have h := List.all_eq_true.mp hread r hr
      simp only [Bool.and_eq_true, Bool.not_eq_true', Option.isNone_iff_eq_none] at h
      exact ⟨by simpa using h.1.1, h.1.2, h.2⟩
    rw [if_neg (by simp; omega), hz, if_neg (by simp), hx]
    dsimp only
    rw [any_lt_of_all_le hin, hra, hrr, hwarm, any_not_of_all hhot, if_neg (by simpa using htier),
      List.any_eq_false.mpr (fun r hr => by simp [(hrow r hr).1]), if_neg (by simp),
      List.any_eq_false.mpr (fun r hr => by simp [(hrow r hr).2.1]), if_neg (by simp), if_neg (by omega),
      List.findSome?_eq_none_iff.mpr (fun r hr => (hrow r hr).2.2)]

theorem migrationCopyCompleteStep_eq {id row : Nat} {m : Migration} {x : EmbTable} {v : EmbVer} {b : State}
    (hm : b.migs.find? (fun m => m.table == id && m.row == row) = some m) (hx : b.table? id = some x)
    (hv : x.ver? m.ver = some v) (hlog : m.log = [])
    (hopen : m.add = true → ∀ g k, b.pchOf (v.slotLoc (b.userPchs x.part) m.slot).addr = some (g, k) → b.engineTakes g = true) :
    migrationCopyCompleteStep id row b =
      let p := x.part
      let hot := v.slotLoc (b.userPchs p) m.slot
      let src := if m.add then v.home row else hot
      let dst := if m.add then hot else v.home row
      let op := if m.add then 0x0E else 0
      let s1 := (List.range (v.states + 1)).foldl (fun s k =>
        s.copyRow op p (src.addr + k * src.step) (dst.addr + k * dst.step) (if k == 0 then v.rowBytes else 4 * v.dims))
          (b.embReads op p (v.rowSpans src))
      let s2 := if m.add then s1.addHot p v row m.slot else s1.clearHot p v row
      let s3 := (s2.setVer id m.ver (fun v =>
        if m.add then { v with nHot := v.nHot + 1 }
        else { v with nHot := v.nHot - 1, used := v.used.filter (fun k => k != m.slot), freed := (m.slot, s2.now) :: v.freed })).bump
          (EMB_MIGRATE_CNT p) 31 0 1
      ((({ s3 with migs := s3.migs.filter (fun x => !(x.table == id && x.ver == m.ver && x.row == row)) } : State).setHotJob m.cmd
        (fun j => { j with left := j.left - 1 })).embPump).hotPump := by
  have hheld : (m.add && ((b.pchOf (if m.add = true then v.slotLoc (b.userPchs x.part) m.slot else v.home row).addr).map
      (fun u => !b.engineTakes u.1)).getD false) = false := by
    cases ha : m.add
    case false => rfl
    case true =>
      rw [if_pos rfl, Bool.true_and]
      cases hp : b.pchOf (v.slotLoc (b.userPchs x.part) m.slot).addr with
      | none => rfl
      | some e => simp [hopen ha e.1 e.2 hp]
  unfold migrationCopyCompleteStep
  rw [hm, hx]
  dsimp only
  rw [hv]
  dsimp only
  rw [hheld, if_neg Bool.false_ne_true, hlog]
  rfl

/-- Settles O13. -/
theorem embeddingTablesGoOn : Obligations.EmbeddingTablesGoOn := by
  unfold Obligations.EmbeddingTablesGoOn
  refine ⟨?_, ?_, ?_, ?_, ?_⟩
  case refine_1 =>
    intro s x v id t hx hn ht
    unfold State.installTables
    rw [hx, List.foldl_cons, List.foldl_nil, hn]
    dsimp only
    rw [if_neg (Nat.not_le.mpr ht), hx]
    simp [updateWhere]
  case refine_2 =>
    refine fun id x v owed => unitEffect_of (fun _ _ => rfl) (fun b ⟨hx, ho, hbusy⟩ => ?_)
    unfold tableDrainCompleteStep
    rw [hx]
    dsimp only
    rw [ho]
    dsimp only
    rw [hbusy, if_neg Bool.false_ne_true]
  case refine_3 =>
    exact fun id row m x v => unitEffect_of (fun _ _ => rfl)
      (fun b ⟨hm, hx, hv, hlog, hopen⟩ => migrationCopyCompleteStep_eq hm hx hv hlog hopen)
  case refine_4 => exact fun id => unitEffect_of (fun _ _ => rfl) (fun b _ => rfl)
  case refine_5 => exact fun id => unitEffect_of (fun _ _ => rfl) (fun b _ => rfl)

end Sys2Proof.Machine
end

section
/-! Selections and texts. -/

namespace Sys2Proof.Machine

theorem ReportsOnly.jobs_eq {s t : State} (h : ReportsOnly s t) : t.jobs = s.jobs := by
  obtain ⟨_, _, _, _, rfl⟩ := h
  rfl

/-- A unit's or an engine's fault while no job stands: what is reported leaves no job. -/
theorem fault_jobs (s : State) (a i : Nat) (f : FaultReport) (h : s.jobs = []) : ((s.event a i).report f).jobs = [] :=
  (((ReportsOnly.refl s).event a i).report f).jobs_eq.trans h

theorem selectBody_eq {c : Cmd} {u : State} (hlen : 32 ≤ c.input.length) (hflags : fieldAt c.input 1 1 < 4)
    (hz : zerosAt c.input 2 2 = true) (hz' : zerosAt c.input 24 8 = true)
    (hok : (parseSelect c.input).ok c.hdr.opcode c.input.length = true) (hcxl : cxlLinkOf (parseSelect c.input).addr = none)
    (hat : (parseSelect c.input).addr ≠ 0 →
      u.inRegion c.hdr.partition (parseSelect c.input).addr ((parseSelect c.input).n * (parseSelect c.input).z) = true ∧
      u.hitsDir c.hdr.partition (parseSelect c.input).addr ((parseSelect c.input).n * (parseSelect c.input).z) = false)
    (hroom : (parseSelect c.input).room ≤ (u.selSlice c.hdr.partition 0).2) :
    selectBody c u =
      let s1 : State := { u with jobs := u.jobs ++ [{ kind := 0, cmd := c.id, part := c.hdr.partition, rt := c.hdr.svc == 2 }] }
      if u.jobs.any (fun j => j.kind == 0 && j.unit.isNone) then s1 else selectionTakeStep s1 := by
  have hregion : ((parseSelect c.input).addr != 0 &&
      !u.inRegion c.hdr.partition (parseSelect c.input).addr ((parseSelect c.input).n * (parseSelect c.input).z)) = false := by
    cases ha : (parseSelect c.input).addr != 0 with
    | false => rfl
    | true => rw [(hat (bne_iff_ne.mp ha)).1]; rfl
  have hdir : ((parseSelect c.input).addr != 0 &&
      u.hitsDir c.hdr.partition (parseSelect c.input).addr ((parseSelect c.input).n * (parseSelect c.input).z)) = false := by
    cases ha : (parseSelect c.input).addr != 0 with
    | false => rfl
    | true => rw [(hat (bne_iff_ne.mp ha)).2]; rfl
  unfold selectBody
  dsimp only
  rw [if_neg (by omega), hz, hz', if_neg (by simp; omega), hok, hcxl, if_neg (by simp), hregion, if_neg Bool.false_ne_true,
    hdir, if_neg Bool.false_ne_true, if_neg (by omega)]
  cases u.jobs.any (fun j => j.kind == 0 && j.unit.isNone) <;> rfl

/-- Settles O14. -/
theorem selectionsHaveTheirEffect : Obligations.SelectionsHaveTheirEffect := by
  unfold Obligations.SelectionsHaveTheirEffect
  intro legal queued
  refine ⟨?_, ?_, ?_, ?_, ?_⟩
  case refine_1 =>
    exact hostEffect_of_body bodySelectTopk (fun _ _ _ => rfl) (fun c u ho => by simp only [runBody, ho])
      (fun c u ⟨hlen, hflags, hz, hz', hok, hcxl, hat, hroom⟩ => selectBody_eq hlen hflags hz hz' hok hcxl hat hroom)
  case refine_2 =>
    exact hostEffect_of_body bodyArgmax (fun _ _ _ => rfl) (fun c u ho => by simp only [runBody, ho])
      (fun c u ⟨hlen, hflags, hz, hz', hok, hcxl, hat, hroom⟩ => selectBody_eq hlen hflags hz hz' hok hcxl hat hroom)
  case refine_3 =>
    exact hostEffect_of_body bodySelectTopp (fun _ _ _ => rfl) (fun c u ho => by simp only [runBody, ho])
      (fun c u ⟨hlen, hflags, hz, hz', hok, hcxl, hat, hroom⟩ => selectBody_eq hlen hflags hz hz' hok hcxl hat hroom)
  case refine_4 =>
    refine fun j k => unitEffect_of (fun _ _ => rfl) (fun b ⟨hb, hj, hk⟩ => ?_)
    unfold selectionTakeStep
    rw [hb, if_neg (by simp), hj]
    dsimp only
    rw [hk]
  case refine_5 =>
    refine fun k => unitEffect_of (fun _ _ => rfl) (fun b ⟨hr, hj⟩ => ?_)
    unfold selectionUnitFaultStep
    rw [hr, if_neg (by simp)]
    dsimp only
    rw [fault_jobs b SEL_EVENT 1 ⟨6, k, 0, .uncorrectable⟩ hj, List.find?_nil]

theorem bodyDetokenize_eq {c : Cmd} {u : State} {v : Vocab} (hn : 0 < fieldAt c.input 4 4) (hm : fieldAt c.input 4 4 ≤ 16777215)
    (hlen : c.input.length = 8 + 4 * fieldAt c.input 4 4) (hz : zerosAt c.input 2 2 = true)
    (hv : u.vocabFor c.hdr.partition (fieldAt c.input 0 2) = some v)
    (hw : ((List.range (fieldAt c.input 4 4)).map (fun i => fieldAt c.input (8 + 4 * i) 4)).all (fun w => u.wordOk v w) = true)
    (hue : u.ue = []) :
    bodyDetokenize c u =
      let ws := (List.range (fieldAt c.input 4 4)).map (fun i => fieldAt c.input (8 + 4 * i) 4)
      let r := (utf8Run [] (ws.flatMap (fun w => u.tokText v (w % 2 ^ 20)))).finish
      ((ws.foldl (fun s w => (s.readTok v (w % 2 ^ 20)).1) u).bump (TOK_CNT c.hdr.partition) 15 0 r.reps).replyData c stOk []
        (toLE 4 r.out.length ++ toLE 4 r.reps ++ padTo (roundUp r.out.length 8) r.out) := by
  have hread : ∀ w, (u.readTok v (w % 2 ^ 20)).2 = none := by
    intro w
    unfold State.readTok
    simp [hue]
  unfold bodyDetokenize
  dsimp only
  rw [if_neg (by simp; omega), hz, if_neg (by simp), hv]
  dsimp only
  rw [any_not_of_all hw, if_neg Bool.false_ne_true, List.findSome?_eq_none_iff.mpr (fun w _ => hread w)]

theorem bodyVocabLoad_eq {c : Cmd} {u : State} {at_ : Nat} (hhead : 24 + 2 * fieldAt c.input 2 2 ≤ c.input.length)
    (hlen : c.input.length = 24 + 2 * fieldAt c.input 2 2 + fieldAt c.input 16 8) (hslot : fieldAt c.input 0 1 < 64)
    (hnm : fieldAt c.input 2 2 ≤ 16) (hz : zerosAt c.input 1 1 = true) (hz' : zerosAt c.input 4 4 = true)
    (ha : fieldAt c.input 8 8 = 0) (hold : u.vocabs.find? (fun v => v.slot == fieldAt c.input 0 1) = none)
    (hbound : u.vocabs.all (fun v => !(v.part == c.hdr.partition && v.slot != fieldAt c.input 0 1 &&
      ((List.range (fieldAt c.input 2 2)).map (fun i => fieldAt c.input (24 + 2 * i) 2)).any (fun m => v.models.contains m))) = true)
    (hload : fieldAt c.input 2 2 ≠ 0 ∨ fieldAt c.input 16 8 ≠ 0) (hok : vocabOk (c.input.drop (24 + 2 * fieldAt c.input 2 2)) = true)
    (hplace : (u.dropVocab (fieldAt c.input 0 1)).placeArea (TOK_PART_AREA c.hdr.partition) (fieldAt c.input 16 8) 64
      ((u.dropVocab (fieldAt c.input 0 1)).textHeld c.hdr.partition) = some at_) :
    bodyVocabLoad c u =
      (u.dropVocab (fieldAt c.input 0 1)).putVocab c (fieldAt c.input 0 1) (c.input.drop (24 + 2 * fieldAt c.input 2 2))
        ((List.range (fieldAt c.input 2 2)).map (fun i => fieldAt c.input (24 + 2 * i) 2)) c.id at_ := by
  have hfree : (fieldAt c.input 2 2 == 0 && fieldAt c.input 16 8 == 0) = false := by
    simpa [imp_iff_not_or] using hload
  have hbound' := any_not_of_all hbound
  simp only [Bool.not_not] at hbound'
  unfold bodyVocabLoad
  refine (if_neg (by rw [ha]; simp; omega)).trans ((if_neg (by simp [hz, hz'])).trans ?_)
  refine (if_neg (by simp [ha])).trans ((if_neg (by simp [ha])).trans ((if_neg (by simp [ha])).trans ?_))
  refine (if_neg (by simp [ha, hok])).trans ((if_neg (by simp [hold])).trans ((if_neg (by simp [hold])).trans ?_))
  refine (if_neg (by rw [hfree]; simp)).trans ((if_neg (by rw [hbound']; simp)).trans ?_)
  simp only [hplace, hold, ha, Option.bind_none, Option.getD_none, beq_self_eq_true, if_true]

theorem bodyVocabLoad_refuses {c : Cmd} {u : State} (hhead : 24 + 2 * fieldAt c.input 2 2 ≤ c.input.length)
    (hlen : c.input.length = 24 + 2 * fieldAt c.input 2 2 + fieldAt c.input 16 8) (hslot : fieldAt c.input 0 1 < 64)
    (hnm : fieldAt c.input 2 2 ≤ 16) (hz : zerosAt c.input 1 1 = true) (hz' : zerosAt c.input 4 4 = true)
    (ha : fieldAt c.input 8 8 = 0) (hload : fieldAt c.input 2 2 ≠ 0 ∨ fieldAt c.input 16 8 ≠ 0)
    (hbad : vocabOk (c.input.drop (24 + 2 * fieldAt c.input 2 2)) = false) :
    bodyVocabLoad c u = u.refuse c stBadParameter := by
  have hfree : (fieldAt c.input 2 2 == 0 && fieldAt c.input 16 8 == 0) = false := by
    simpa [imp_iff_not_or] using hload
  unfold bodyVocabLoad
  refine (if_neg (by rw [ha]; simp; omega)).trans ((if_neg (by simp [hz, hz'])).trans ?_)
  refine (if_neg (by simp [ha])).trans ((if_neg (by simp [ha])).trans ((if_neg (by simp [ha])).trans ?_))
  exact if_pos (by rw [hfree, ha, if_pos (beq_self_eq_true 0), hbad]; rfl)

theorem bodyGrammarLoad_eq {c : Cmd} {u : State} {v : Vocab} {slot at_ : Nat} (hen : u.bit JIG_CTRL 0 = true)
    (ha : fieldAt c.input 8 8 = 0) (hlen : c.input.length = 16 + fieldAt c.input 4 4) (hn : 64 ≤ fieldAt c.input 4 4)
    (hm : fieldAt c.input 4 4 ≤ 268435456) (hz : zerosAt c.input 2 2 = true) (hok : grammarOk (c.input.drop 16) = true)
    (hv : u.vocabFor c.hdr.partition (fieldAt c.input 0 2) = some v) (hfits : u.grammarFits v (c.input.drop 16) = true)
    (hslot : (List.range 256).find? (fun i => !u.grammars.any (fun x => x.slot == i)) = some slot)
    (hplace : u.placeArea (JIG_PART_AREA c.hdr.partition) (fieldAt c.input 4 4) 64 (u.gramHeld c.hdr.partition) = some at_) :
    bodyGrammarLoad c u =
      let im := c.input.drop 16
      let g := fieldAt im
      let p := c.hdr.partition
      let x : Grammar :=
        { load := v.load, slot := slot, part := p, vocab := v.slot, addr := at_, len := fieldAt c.input 4 4, entries := v.entries,
          states := g 8 4, start := g 12 2, stTab := at_ + g 32 8, mkTab := at_ + g 40 8, exTab := at_ + g 48 8 }
      let s1 := u.store at_ im
      (({ s1 with grammars := s1.grammars ++ [x] } : State).setRaw (JIG_SLOT slot) (BitVec.ofNat 64 ((x.states - 1) * 2 ^ 48 +
        v.slot * 2 ^ 42 + p * 2 ^ 20 + 2 ^ 19))).reply c stOk [] (toLE 4 slot ++ toLE 4 x.states) := by
  unfold bodyGrammarLoad
  dsimp only
  rw [ha, if_neg (by simp; omega), hz, if_neg (by simp), if_neg (by simp), if_neg (by simp), if_neg (by simp),
    if_pos (beq_self_eq_true 0), hok, if_neg (by simp), hv]
  dsimp only
  rw [hfits, if_neg (by simp), hslot]
  dsimp only
  rw [hplace]
  dsimp only
  rw [hen, if_neg (by simp)]

/-- Settles O15. -/
theorem textCommandsHaveTheirEffect : Obligations.TextCommandsHaveTheirEffect := by
  unfold Obligations.TextCommandsHaveTheirEffect
  refine ⟨?_, ?_, ?_, ?_, ?_, ?_, ?_, ?_⟩
  case refine_1 =>
    refine fun v => hostEffect_of_body (bodyTokenize runTok) (fun _ _ _ => rfl) (fun c u ho => by simp only [runBody, ho])
      (fun c u ⟨hn, hm, hlen, hz, hv⟩ => ?_)
    unfold bodyTokenize
    dsimp only
    rw [if_neg (by simp; omega), hz, if_neg (by simp), hv]
    unfold State.addTokenization
    cases u.jobs.any (fun j => j.kind == 1 && j.unit.isNone) <;> rfl
  case refine_2 =>
    exact fun v => hostEffect_of_body bodyDetokenize (fun _ _ _ => rfl) (fun c u ho => by simp only [runBody, ho])
      (fun c u ⟨hn, hm, hlen, hz, hv, hw, hue⟩ => bodyDetokenize_eq hn hm hlen hz hv hw hue)
  case refine_3 =>
    exact fun at_ => hostEffect_of_body bodyVocabLoad (fun _ _ _ => rfl) (fun c u ho => by simp only [runBody, ho])
      (fun c u ⟨hhead, hlen, hslot, hnm, hz, hz', ha, hold, hbound, hload, hok, hplace⟩ =>
        bodyVocabLoad_eq hhead hlen hslot hnm hz hz' ha hold hbound hload hok hplace)
  case refine_4 =>
    exact hostEffect_of_body bodyVocabLoad (fun _ _ _ => rfl) (fun c u ho => by simp only [runBody, ho])
      (fun c u ⟨hhead, hlen, hslot, hnm, hz, hz', ha, hload, hbad⟩ =>
        bodyVocabLoad_refuses hhead hlen hslot hnm hz hz' ha hload hbad)
  case refine_5 =>
    exact fun v slot at_ => hostEffect_of_body bodyGrammarLoad (fun _ _ _ => rfl) (fun c u ho => by simp only [runBody, ho])
      (fun c u ⟨hen, ha, hlen, hn, hm, hz, hok, hv, hfits, hslot, hplace⟩ =>
        bodyGrammarLoad_eq hen ha hlen hn hm hz hok hv hfits hslot hplace)
  case refine_6 =>
    refine fun g => hostEffect_of_body bodyGrammarUnload (fun _ _ _ => rfl) (fun c u ho => by simp only [runBody, ho])
      (fun c u ⟨hs, hg, hq⟩ => ?_)
    have hq' := any_not_of_all hq
    simp only [Bool.not_not] at hq'
    unfold bodyGrammarUnload
    rw [shaped_of hs]
    dsimp only
    rw [hg]
    dsimp only
    rw [hq', if_neg Bool.false_ne_true]
    rfl
  case refine_7 =>
    refine fun j k c => unitEffect_of (fun _ _ => rfl) (fun b ⟨hb, hj, hk, hc⟩ => ?_)
    unfold tokenizationTakeStep
    rw [hb, if_neg (by simp), hj]
    dsimp only
    rw [hk, hc]
  case refine_8 =>
    refine fun k => unitEffect_of (fun _ _ => rfl) (fun b ⟨hr, hj⟩ => ?_)
    unfold tokenizerEngineFaultStep
    rw [hr, if_neg (by simp)]
    dsimp only
    rw [fault_jobs b TOK_EVENT 2 ⟨7, k, 0, .uncorrectable⟩ hj, List.find?_nil]

end Sys2Proof.Machine
end

section
/-! Memory, tiers and models. -/

namespace Sys2Proof.Machine

theorem any_isNone_of_all_isSome {α β : Type} {l : List α} {k : α → Option β} (h : l.all (fun x => (k x).isSome) = true) :
    l.any (fun x => (k x).isNone) = false :=
  List.any_eq_false.mpr (fun x hx => by
    have := List.all_eq_true.mp h x hx
    simpa [Option.isSome_iff_ne_none] using this)

theorem any_of_all_not {α : Type} {l : List α} {k : α → Bool} (h : l.all (fun x => !k x) = true) : l.any k = false := by
  simpa only [Bool.not_not] using any_not_of_all h

theorem memWriteAt_eq {hot : List (Nat × Nat)} {c : Cmd} {u : State} (hlen : 16 ≤ c.input.length)
    (hn : (c.input.drop 16).length = fieldAt c.input 8 4) (hz : zerosAt c.input 12 4 = true)
    (hown : u.owns c.hdr.partition (fieldAt c.input 0 8) (max (fieldAt c.input 8 4) 1) = true)
    (hguard : u.guarded c.hdr.partition (fieldAt c.input 0 8) (fieldAt c.input 8 4) hot = false)
    (hcxl : u.cxlMissing (fieldAt c.input 0 8) (fieldAt c.input 8 4) = none)
    (hue : u.partialUe (fieldAt c.input 0 8) (fieldAt c.input 8 4) = false) :
    memWriteAt hot c u = (u.store (fieldAt c.input 0 8) (c.input.drop 16)).refuse c stOk := by
  unfold memWriteAt
  dsimp only
  rw [hn, if_neg (by simp; omega), hz, if_neg (by simp), hown, if_neg (by simp), hguard, if_neg (by simp), hcxl]
  dsimp only
  rw [hue]
  rfl

theorem memReadAt_eq {hot : List (Nat × Nat)} {c : Cmd} {u : State} (hs : shapedAs c 16 [(12, 4)] = true)
    (hinline : c.replyRef = none → fieldAt c.input 8 4 ≤ 1048576)
    (hown : u.owns c.hdr.partition (fieldAt c.input 0 8) (max (fieldAt c.input 8 4) 1) = true)
    (hguard : u.guarded c.hdr.partition (fieldAt c.input 0 8) (fieldAt c.input 8 4) hot = false)
    (hcxl : u.cxlMissing (fieldAt c.input 0 8) (fieldAt c.input 8 4) = none)
    (hue : u.isUe (fieldAt c.input 0 8) (fieldAt c.input 8 4) = false) :
    memReadAt hot c u = (u.readCe (fieldAt c.input 0 8) (fieldAt c.input 8 4)).replyData c stOk []
      (u.bytes (fieldAt c.input 0 8) (fieldAt c.input 8 4)) := by
  unfold memReadAt
  rw [shaped_of hs]
  dsimp only
  rw [if_neg (by
      rw [Bool.and_eq_true, Option.isNone_iff_eq_none, decide_eq_true_eq]
      exact fun h => absurd (hinline h.1) (by omega)),
    hown, if_neg (by simp), hguard, if_neg (by simp), hcxl]
  dsimp only
  rw [hue, if_neg (by simp)]

theorem bodyTierEvict_eq {c : Cmd} {u : State} (hs : shapedAs c 16 [(12, 4)] = true) (hn : 0 < fieldAt c.input 8 4)
    (hm : fieldAt c.input 8 4 ≤ 65536)
    (hfree : (namedIds c).all (fun id => (u.obj? c.hdr.partition id).any (fun o =>
      decide (u.pinCount c.hdr.partition o = 0))) = true)
    (hok : (evictAll c.hdr.partition (namedIds c) u).1 = stOk) :
    bodyTierEvict c u =
      let s1 := (evictAll c.hdr.partition (namedIds c) u).2
      if s1.evicting c then s1 else s1.refuse c stOk := by
  have hobj : ∀ id ∈ namedIds c, ∃ o, u.obj? c.hdr.partition id = some o ∧ u.pinCount c.hdr.partition o = 0 := by
    intro id hid
    have h := List.all_eq_true.mp hfree id hid
    rw [Option.any_eq_true] at h
    obtain ⟨o, ho, hpin⟩ := h
    exact ⟨o, ho, of_decide_eq_true hpin⟩
  have hnone : (namedIds c).any (fun id => (u.obj? c.hdr.partition id).isNone) = false := by
    refine List.any_eq_false.mpr (fun id hid => ?_)
    obtain ⟨o, ho, -⟩ := hobj id hid
    simp [ho]
  have hpins : (namedIds c).any (fun id => ((u.obj? c.hdr.partition id).map
      (fun o => decide (0 < u.pinCount c.hdr.partition o))).getD false) = false := by
    refine List.any_eq_false.mpr (fun id hid => ?_)
    obtain ⟨o, ho, hpin⟩ := hobj id hid
    simp [ho, hpin]
  unfold bodyTierEvict
  rw [shaped_of hs]
  dsimp only
  rw [if_neg (by simp; omega), hnone, if_neg (by simp), hpins, if_neg (by simp), hok, if_neg (by decide), if_neg (by decide)]

/-- Settles O16. -/
theorem memoryCommandsHaveTheirEffect : Obligations.MemoryCommandsHaveTheirEffect := by
  unfold Obligations.MemoryCommandsHaveTheirEffect
  intro reach unpinned
  refine ⟨?_, ?_, ?_, ?_, ?_, ?_, ?_, ?_⟩
  case refine_1 =>
    exact hostEffect_of_body bodyMemWrite (fun _ _ _ => rfl) (fun c u ho => by simp only [runBody, ho])
      (fun c u ⟨hlen, hn, hz, ⟨hown, hguard, hcxl⟩, hue⟩ => memWriteAt_eq hlen hn hz hown hguard hcxl hue)
  case refine_2 =>
    exact hostEffect_of_body bodyMemRead (fun _ _ _ => rfl) (fun c u ho => by simp only [runBody, ho])
      (fun c u ⟨hs, hinline, ⟨hown, hguard, hcxl⟩, hue⟩ => memReadAt_eq hs hinline hown hguard hcxl hue)
  case refine_3 =>
    refine hostEffect_of_body tierPromoteBody (fun _ _ _ => rfl) (fun c u ho => by simp only [runBody, ho])
      (fun c u ⟨hs, hfl, hn, hm, hobj, hrel, hfull, hfits⟩ => ?_)
    unfold tierPromoteBody bodyTierPromote
    rw [shaped_of hs]
    dsimp only at hfl hobj hrel hfull hfits ⊢
    rw [if_neg (by omega), if_neg (by simp; omega), any_isNone_of_all_isSome hobj, if_neg (by simp), hrel, if_neg (by simp),
      any_of_all_not hfull, if_neg (by simp), hfits, if_neg (by simp)]
  case refine_4 =>
    refine hostEffect_of_body tierPromoteBody (fun _ _ _ => rfl) (fun c u ho => by simp only [runBody, ho])
      (fun c u ⟨hs, hfl, hn, hm, hobj, hrel⟩ => ?_)
    unfold tierPromoteBody bodyTierPromote
    rw [shaped_of hs]
    dsimp only at hfl hobj hrel ⊢
    rw [if_neg (by omega), if_neg (by simp; omega), any_isNone_of_all_isSome hobj, if_neg (by simp), hrel, if_pos rfl]
  case refine_5 =>
    refine hostEffect_of_body tierEvictBody (fun _ _ _ => rfl) (fun c u ho => by simp only [runBody, ho])
      (fun c u ⟨⟨hs, hn, hm, hfree, hok⟩, hleft⟩ => ?_)
    unfold tierEvictBody
    rw [bodyTierEvict_eq hs hn hm hfree hok]
    dsimp only
    rw [hleft, if_pos rfl]
  case refine_6 =>
    refine hostEffect_of_body tierEvictBody (fun _ _ _ => rfl) (fun c u ho => by simp only [runBody, ho])
      (fun c u ⟨⟨hs, hn, hm, hfree, hok⟩, hleft⟩ => ?_)
    unfold tierEvictBody
    rw [bodyTierEvict_eq hs hn hm hfree hok]
    dsimp only
    rw [hleft, if_neg Bool.false_ne_true]
  case refine_7 =>
    refine hostEffect_of_body bodyTierPolicySet (fun _ _ _ => rfl) (fun c u ho => by simp only [runBody, ho])
      (fun c u ⟨hlen, hresv, hmarks⟩ => ?_)
    unfold bodyTierPolicySet
    rw [shaped_of (by simp [shapedAs, hlen])]
    dsimp only at hresv hmarks ⊢
    rw [hresv, if_neg (by simp), if_neg (by omega)]
  case refine_8 =>
    refine hostEffect_of_body bodyTileDirQuery (fun _ _ _ => rfl) (fun c u ho => by simp only [runBody, ho])
      (fun c u ⟨hs, hn, hm⟩ => ?_)
    unfold bodyTileDirQuery
    rw [shaped_of hs]
    exact if_neg (by simp; omega)

/-- The model that MODEL_LOAD reads from the package of its payload. -/
def loadedModel (c : Cmd) : Model :=
  { parseModel (c.input.drop 24) with part := c.hdr.partition, id := fieldAt c.input 0 2, version := fieldAt c.input 2 2 }

theorem bodyModelLoad_eq {c : Cmd} {u s2 : State} {v k : Nat} (ha : fieldAt c.input 8 8 = 0)
    (hlen : c.input.length = 24 + fieldAt c.input 16 8) (hz : zerosAt c.input 5 3 = true) (hplace : fieldAt c.input 4 1 ≤ 2)
    (hver : fieldAt c.input 2 2 ≠ 0xFFFF) (hnew : u.model? c.hdr.partition (fieldAt c.input 0 2) (fieldAt c.input 2 2) = none)
    (hok : packageOk (c.input.drop 24) (loadedModel c) = true)
    (hgroups : ((loadedModel c).fwd ++ (loadedModel c).bwd).all
      (fun g => decide ((loadedModel c).groupBytes g ≤ u.tier0Share c.hdr.partition)) = true)
    (hbad : u.badContainer c.hdr.partition (loadedModel c) (c.input.drop 24) (fieldAt c.input 4 1) = none)
    (hslot : u.freeModelSlot = some v)
    (hkernel : u.alloc1 c.hdr.partition (roundUp (fieldAt (c.input.drop 24) 84 4 + 8 * (loadedModel c).entries.length) 4096) 4096 =
      some k)
    (htiles : ((u.hold k (roundUp (fieldAt (c.input.drop 24) 84 4 + 8 * (loadedModel c).entries.length) 4096)).store k
      (slice (c.input.drop 24) (fieldAt (c.input.drop 24) 88 8) (fieldAt (c.input.drop 24) 84 4) ++
        slice (c.input.drop 24) (fieldAt (c.input.drop 24) 96 8) (8 * (loadedModel c).entries.length))).placeGroups
          c.hdr.partition (loadedModel c) (c.input.drop 24) (fieldAt c.input 4 1) = some s2) :
    bodyModelLoad c u =
      let m : Model := { loadedModel c with
        slot := v, kernel := k
        current := !s2.models.any (fun x => x.part == c.hdr.partition && x.id == fieldAt c.input 0 2 && x.current) }
      (({ s2 with models := s2.models ++ [m] } : State).setGeom m).refuse c stOk := by
  have hgroups' : ((loadedModel c).fwd ++ (loadedModel c).bwd).any
      (fun g => decide (u.tier0Share c.hdr.partition < (loadedModel c).groupBytes g)) = false :=
    List.any_eq_false.mpr (fun g hg => by simpa using List.all_eq_true.mp hgroups g hg)
  unfold loadedModel at hok hgroups' hbad hkernel htiles ⊢
  unfold bodyModelLoad
  refine (if_neg (by simp [ha]; omega)).trans ((if_neg (by simp [hz])).trans ((if_neg (by simp [ha])).trans ?_))
  refine (if_neg (by simp [ha])).trans ((if_neg (by simp [ha])).trans ?_)
  simp only [ha, beq_self_eq_true, if_true]
  generalize c.input.drop 24 = pk at *
  generalize parseModel pk = m0 at *
  dsimp only at hok hgroups' hbad hkernel htiles
  rw [if_neg (by simp [hnew, hver]; omega), hok, if_neg (by simp), hgroups', if_neg (by simp), hbad]
  dsimp only
  -- from the innermost `match` outwards: the other way the kernel compares the searches with one another
  simp only [hkernel, htiles]
  simp only [hslot]

/-- Settles O17. -/
theorem modelCommandsHaveTheirEffect : Obligations.ModelCommandsHaveTheirEffect := by
  unfold Obligations.ModelCommandsHaveTheirEffect
  refine ⟨?_, ?_, ?_, ?_, ?_, ?_⟩
  case refine_1 =>
    exact fun v k s2 => hostEffect_of_body bodyModelLoad (fun _ _ _ => rfl) (fun c u ho => by simp only [runBody, ho])
      (fun c u ⟨ha, hlen, hz, hplace, hver, hnew, hok, hgroups, hbad, hslot, hkernel, htiles⟩ =>
        bodyModelLoad_eq ha hlen hz hplace hver hnew hok hgroups hbad hslot hkernel htiles)
  case refine_2 =>
    refine fun m => hostEffect_of_body bodyModelUnload (fun _ _ _ => rfl) (fun c u ho => by simp only [runBody, ho])
      (fun c u ⟨hs, hm, hbusy, hpref⟩ => ?_)
    unfold bodyModelUnload
    rw [shaped_of hs]
    dsimp only
    rw [hm]
    dsimp only
    rw [hbusy, if_neg (by simp), hpref, List.filter_nil, List.foldl_nil]
  case refine_3 =>
    refine fun a => hostEffect_of_body bodyVariantSet (fun _ _ _ => rfl) (fun c u ho => by simp only [runBody, ho])
      (fun c u ⟨hlen, hnum, hlayers, hd, hd', hmod, hz, hold, hbound, hplace⟩ => ?_)
    unfold bodyVariantSet
    dsimp only at hlen hnum hlayers hd hd' hmod hz hold hbound hplace ⊢
    rw [if_neg (by simp; omega), hz, if_neg (by simp), hold]
    rw [if_neg (by simpa using hbound), if_neg (by simp), hplace]
  case refine_4 =>
    refine fun v => hostEffect_of_body bodyVariantClear (fun _ _ _ => rfl) (fun c u ho => by simp only [runBody, ho])
      (fun c u ⟨hs, hv, hp, hbound⟩ => ?_)
    unfold bodyVariantClear
    rw [shaped_of hs]
    dsimp only
    rw [hv]
    dsimp only
    rw [hbound, if_neg (by simp), hp, if_neg (by simp)]
  case refine_5 =>
    refine hostEffect_of_body bodyVersionTurnover (fun _ _ _ => rfl) (fun c u ho => by simp only [runBody, ho])
      (fun c u ⟨hs, hturn, hold, hne, hnew⟩ => ?_)
    unfold bodyVersionTurnover
    rw [shaped_of hs]
    dsimp only at hturn hold hne hnew ⊢
    rw [if_neg (by simpa using ⟨hne, Option.isSome_iff_ne_none.mp hnew⟩), hturn, if_neg (by simp),
      if_neg (by simpa using Option.isSome_iff_ne_none.mp hold)]
  case refine_6 =>
    refine fun p id x => unitEffect_of (fun _ _ => rfl) (fun b ⟨hx, hq⟩ => ?_)
    unfold turnoverCompleteStep
    rw [hx]
    dsimp only
    rw [any_of_all_not hq, if_neg Bool.false_ne_true]

end Sys2Proof.Machine
end

section
/-! Learning. -/

namespace Sys2Proof.Machine

theorem bodyLearnStep_eq {c : Cmd} {u : State} {m : Model} {v : Vocab} {qs : List (List Nat × List Nat × List Nat)}
    (hlen : 16 ≤ c.input.length) (hn : 0 < fieldAt c.input 4 2) (hn' : fieldAt c.input 4 2 ≤ 4096) (ht : 0 < fieldAt c.input 8 4)
    (ht' : fieldAt c.input 8 4 ≤ 65536) (hfl : fieldAt c.input 6 1 < 2) (hz : fieldAt c.input 7 1 = 0)
    (hz' : fieldAt c.input 12 4 = 0) (hq : learnSeqs (fieldAt c.input 4 2) (c.input.drop 16) = some qs)
    (hm : u.modelFor c (fieldAt c.input 0 2) (fieldAt c.input 2 2) = some (m, v))
    (hsum : sumNat (qs.map (fun q => q.1.length)) = fieldAt c.input 8 4)
    (hwords : qs.all (fun q => q.1.all (u.wordOk v)) = true)
    (htargets : qs.all (fun q => q.2.1.all (fun t => t == 0xFFFF_FFFF || decide (t < v.entries))) = true) (hbwd : m.bwd ≠ [])
    (hstate : u.hasStateTiles m = true) (hrun : u.canRun c.hdr.partition c.ctx m = true) :
    bodyLearnStep c u = u.addRun 3 c m (fieldAt c.input 8 4) m.masters.length := by
  have htargets' : qs.any (fun q => q.2.1.any (fun t => t != 0xFFFF_FFFF && decide (v.entries ≤ t))) = false := by
    refine List.any_eq_false.mpr (fun q hq => ?_)
    have h := any_not_of_all (List.all_eq_true.mp htargets q hq)
    simp only [Bool.not_or, ← decide_not, Nat.not_lt] at h
    exact Bool.not_eq_true _ ▸ h
  unfold bodyLearnStep
  dsimp only
  rw [if_neg (by simp; omega), if_neg (by simp; omega), hq]
  dsimp only
  rw [hm]
  dsimp only
  rw [hsum, any_not_of_all hwords, htargets', hstate, hrun, if_neg (by simpa using hbwd)]

theorem bodyOptimizerStep_eq {c : Cmd} {u : State} {m : Model} (hlen : c.input.length = 40) (hstep : fieldAt c.input 8 4 ≠ 0)
    (hf : fieldAt c.input 4 1 < 2) (hf' : fieldAt c.input 5 1 < 2) (hz : fieldAt c.input 6 2 = 0)
    (hm : u.model? c.hdr.partition (fieldAt c.input 0 2) (bindVersion c (fieldAt c.input 0 2) (fieldAt c.input 2 2)) = some m)
    (hstate : u.hasStateTiles m = true) (hrun : u.canRun c.hdr.partition c.ctx m = true)
    (hused : u.versionUsed c.hdr.partition m.id m.version = false) : bodyOptimizerStep c u = u.addRun 4 c m 0 0 := by
  unfold bodyOptimizerStep
  dsimp only
  rw [if_neg (by simpa using ⟨hlen, hstep⟩), if_neg (by simp; omega), hm]
  dsimp only
  rw [hstate, hrun, if_neg (by simp), hused, if_neg (by simp)]

theorem bodyGradAllreduce_eq {c : Cmd} {u : State} (hs : shapedAs c 32 [(3, 1)] = true) (hkind : fieldAt c.input 2 1 = 0)
    (hop : fieldAt c.input 0 1 ≤ 1) (hfmt : fieldAt c.input 1 1 = 4 ∨ fieldAt c.input 1 1 = 7) (hn : 2 ≤ fieldAt c.input 4 2)
    (hn' : fieldAt c.input 4 2 ≤ 4096) (hrank : fieldAt c.input 6 2 < fieldAt c.input 4 2)
    (hleft : ∃ a, u.qp? (fieldAt c.input 8 4) = some a ∧ a.partition = c.hdr.partition)
    (hright : ∃ a, u.qp? (fieldAt c.input 12 4) = some a ∧ a.partition = c.hdr.partition)
    (hpair : fieldAt c.input 8 4 = fieldAt c.input 12 4 → fieldAt c.input 4 2 = 2) (halign : fieldAt c.input 24 8 % 256 = 0)
    (hown : u.owns c.hdr.partition (fieldAt c.input 16 8) (max (fieldAt c.input 24 8) 1) = true)
    (hdir : u.hitsDir c.hdr.partition (fieldAt c.input 16 8) (fieldAt c.input 24 8) = false)
    (hroom : 4096 + 2 * roundUp (ceilDiv (fieldAt c.input 24 8) (fieldAt c.input 4 2)) 256 ≤
      (u.area (NET_COLL_AREA c.hdr.partition)).2)
    (hlive : u.qpLive (fieldAt c.input 8 4) = true) (hlive' : u.qpLive (fieldAt c.input 12 4) = true) :
    bodyGradAllreduce c u =
      let f := fieldAt c.input
      let k : Coll :=
        { cmd := c.id, part := c.hdr.partition, op := f 0 1, fmt := f 1 1, size := f 4 2, rank := f 6 2, left := f 8 4,
          right := f 12 4, addr := f 16 8, tiles := [], len := f 24 8, chunk := roundUp (ceilDiv (f 24 8) (f 4 2)) 256 }
      ({ u with colls := u.colls ++ [k] } : State).collSend c.id 2 := by
  obtain ⟨a, ha, hap⟩ := hleft
  obtain ⟨b, hb, hbp⟩ := hright
  have hformat : [4, 7].contains (fieldAt c.input 1 1) = true := by
    rcases hfmt with h | h <;> rw [h] <;> decide
  have hsame : (fieldAt c.input 8 4 == fieldAt c.input 12 4 && fieldAt c.input 4 2 != 2) = false := by
    cases hc : fieldAt c.input 8 4 == fieldAt c.input 12 4 with
    | false => rfl
    | true => rw [hpair (eq_of_beq hc)]; rfl
  unfold bodyGradAllreduce
  rw [shaped_of hs]
  refine (if_neg (by simp [hkind])).trans ((if_neg ?_).trans ?_)
  · dsimp only
    rw [hformat, hsame, ha, hb]
    simp [hkind, hap, hbp, halign]
    omega
  refine (if_neg (by simp [hkind])).trans ((if_neg (by simp [hkind])).trans ?_)
  refine (if_neg (by simp [hkind, hown])).trans ((if_neg (by simp [hkind, hdir])).trans ?_)
  simp only [hkind]
  rw [if_neg (by simp; omega), hlive, hlive', if_neg (by simp)]
  rfl

/-- Settles O18. -/
theorem learningCommandsHaveTheirEffect : Obligations.LearningCommandsHaveTheirEffect := by
  unfold Obligations.LearningCommandsHaveTheirEffect
  refine ⟨?_, ?_, ?_, ?_⟩
  case refine_1 =>
    exact fun m v qs => hostEffect_of_body bodyLearnStep (fun _ _ _ => rfl) (fun c u ho => by simp only [runBody, ho])
      (fun c u ⟨hlen, hn, hn', ht, ht', hfl, hz, hz', hq, hm, hsum, hwords, htargets, hbwd, hstate, hrun⟩ =>
        bodyLearnStep_eq hlen hn hn' ht ht' hfl hz hz' hq hm hsum hwords htargets hbwd hstate hrun)
  case refine_2 =>
    exact fun m => hostEffect_of_body bodyOptimizerStep (fun _ _ _ => rfl) (fun c u ho => by simp only [runBody, ho])
      (fun c u ⟨hlen, hstep, hf, hf', hz, hm, hstate, hrun, hused⟩ =>
        bodyOptimizerStep_eq hlen hstep hf hf' hz hm hstate hrun hused)
  case refine_3 =>
    exact hostEffect_of_body bodyGradAllreduce (fun _ _ _ => rfl) (fun c u ho => by simp only [runBody, ho])
      (fun c u ⟨hs, hkind, hop, hfmt, hn, hn', hrank, hleft, hright, hpair, halign, hown, hdir, hroom, hlive, hlive'⟩ =>
        bodyGradAllreduce_eq hs hkind hop hfmt hn hn' hrank hleft hright hpair halign hown hdir hroom hlive hlive')
  case refine_4 =>
    refine fun id k => unitEffect_of (fun _ _ => rfl) (fun b ⟨hk, hhops, hcame⟩ => ?_)
    unfold allreduceHopStep
    rw [hk]
    dsimp only
    rw [if_pos (by simpa using ⟨hhops, hcame⟩)]

end Sys2Proof.Machine
end

section
/-! Partitions. -/

namespace Sys2Proof.Machine

theorem modifyAt_getD_of_ne {α : Type} (l : List α) {i j : Nat} (f : α → α) (d : α) (h : j ≠ i) :
    (modifyAt l i f).getD j d = l.getD j d := by
  induction l generalizing i j with
  | nil => rfl
  | cons x xs ih =>
    cases i with
    | zero =>
      cases j with
      | zero => exact absurd rfl h
      | succ j => rfl
    | succ i =>
      cases j with
      | zero => rfl
      | succ j => simpa [modifyAt] using ih (fun hc => h (congrArg _ hc))

/-! ### What the end of a context teardown leaves as it is -/

/-- Security, and every partition but one, are as they were. -/
structure OnlyPart (p : Nat) (s t : State) : Prop where
  sec : t.sec = s.sec
  part : ∀ q, q ≠ p → t.part q = s.part q

namespace OnlyPart

variable {p : Nat} {s t u : State}

theorem refl (s : State) : OnlyPart p s s := ⟨rfl, fun _ _ => rfl⟩

theorem keeps (h : OnlyPart p s t) (hs : u.sec = t.sec) (hp : u.parts = t.parts) : OnlyPart p s u :=
  ⟨hs.trans h.sec, fun q hq => by
    unfold State.part
    rw [hp]
    exact h.part q hq⟩

theorem setPart (h : OnlyPart p s t) (f : Part → Part) : OnlyPart p s (t.setPart p f) := by
  refine ⟨h.sec, fun q hq => ?_⟩
  rw [← h.part q hq]
  exact modifyAt_getD_of_ne _ _ _ hq

theorem foldl {α : Type} {f : State → α → State} (hf : ∀ t x, OnlyPart p s t → OnlyPart p s (f t x)) (l : List α)
    (h : OnlyPart p s t) : OnlyPart p s (l.foldl f t) := by
  induction l generalizing t with
  | nil => exact h
  | cons x l ih => exact ih (hf t x h)

theorem setRaw (h : OnlyPart p s t) (a : Nat) (v : Reg) : OnlyPart p s (t.setRaw a v) :=
  h.keeps (State.setRaw_sec t a v) (State.setRaw_parts t a v)

theorem setFld (h : OnlyPart p s t) (a hi lo v : Nat) : OnlyPart p s (t.setFld a hi lo v) := h.setRaw _ _

theorem reports (h : OnlyPart p s t) (k : ReportsOnly t u) : OnlyPart p s u := by
  obtain ⟨_, _, _, _, rfl⟩ := k
  exact h.keeps rfl rfl

theorem event (h : OnlyPart p s t) (a i : Nat) : OnlyPart p s (t.event a i) := h.reports ((ReportsOnly.refl t).event a i)

theorem store (h : OnlyPart p s t) (a : Nat) (bs : List Byte) : OnlyPart p s (t.store a bs) := by
  unfold State.store
  refine foldl (fun t b h => ?_) _ (h.keeps rfl rfl)
  split
  · exact h.reports ((ReportsOnly.refl t).dramUe _)
  · exact h.reports ((ReportsOnly.refl t).memCe _ _ _)

theorem emptySlot (h : OnlyPart p s t) (n i : Nat) : OnlyPart p s (t.emptySlot n i) := by
  unfold State.emptySlot
  dsimp only
  split
  · exact h.keeps rfl rfl
  · split
    · exact h.keeps rfl rfl
    · exact h.keeps rfl rfl

theorem zeroShare (h : OnlyPart p s t) (x : Nat × Nat) : OnlyPart p s (t.zeroShare x) := by
  unfold State.zeroShare
  refine foldl (fun t l h => ?_) _ (foldl (fun t w h => ?_) _ h)
  case refine_2 => exact h.keeps rfl rfl
  split
  · exact h
  · exact (foldl (fun t i h => h.emptySlot _ i) _ h).keeps rfl rfl

theorem logPut (h : OnlyPart p s t) (seq : Nat) (e : List Byte) : OnlyPart p s (t.logPut seq e) := by
  unfold State.logPut
  dsimp only
  split
  · exact (h.store _ _).store _ _
  · exact h.store _ _

theorem log (h : OnlyPart p s t) (writer sev part kind code : Nat) (body : List Byte) :
    OnlyPart p s (t.log writer sev part kind code body) := by
  have hseq := h.setRaw WDN_LOG_SEQ (BitVec.ofNat 64 ((t.raw WDN_LOG_SEQ).toNat + 1))
  unfold State.log
  dsimp only
  split
  · exact hseq.keeps rfl rfl
  · exact hseq.logPut _ _

theorem logFree (h : OnlyPart p s t) (writer part kind : Nat) : OnlyPart p s (t.logFree writer part kind) := by
  have htick : OnlyPart p s t.tick := h.keeps rfl rfl
  exact htick.log _ _ _ _ _ _

theorem dropImage (h : OnlyPart p s t) (c : Nat) : OnlyPart p s (t.dropImage p c) := h.setPart _

theorem emptyImage (h : OnlyPart p s t) (c : Nat) : OnlyPart p s (t.emptyImage p c) := (h.dropImage c).setPart _

theorem endTear (h : OnlyPart p s t) (x : Tear) : OnlyPart p s (t.endTear p x) := by
  have hshare : ∀ {u : State}, OnlyPart p s u → OnlyPart p s (if x.own then u.zeroShare (u.share p x.ctx) else u) := by
    intro u hu
    split
    · exact hu.zeroShare _
    · exact hu
  have himage : ∀ {u : State}, OnlyPart p s u →
      OnlyPart p s (if x.back == 2 then u.emptyImage p x.ctx else u.dropImage p x.ctx) := by
    intro u hu
    split
    · exact hu.emptyImage _
    · exact hu.dropImage _
  unfold State.endTear
  exact ((((himage (hshare (h.setPart _))).setFld _ _ _ _).setFld _ _ _ _).event _ _).logFree _ _ _

theorem endTears (h : OnlyPart p s t) (k : Tear → Bool) : OnlyPart p s (t.endTears p k) :=
  foldl (fun _ x h => h.endTear x) _ h

end OnlyPart

/-! ### Requests -/

theorem prtOpen_of_sec {s t : State} (h : t.sec = s.sec) (src : Plane) (p : Nat) : t.prtOpen src p = s.prtOpen src p := by
  unfold State.prtOpen
  rw [h]

/-- Settles O19. -/
theorem partitionRequestsHaveTheirEffect : Obligations.PartitionRequestsHaveTheirEffect := by
  unfold Obligations.PartitionRequestsHaveTheirEffect
  intro gone ended
  refine ⟨?_, ?_, ?_, ?_, ?_, ?_, ?_, ?_, ?_, ?_⟩
  case refine_1 =>
    refine fun src p => unitEffect_of (fun _ _ => rfl) (fun b ⟨hopen, hdown⟩ => ?_)
    unfold requestConfiguringStep
    rw [hopen, hdown, if_pos (by rfl)]
  case refine_2 =>
    refine fun src p => unitEffect_of (fun _ _ => rfl) (fun b ⟨hfits, hopen, hstate⟩ => ?_)
    exact if_pos (by simpa using ⟨⟨hopen, hstate⟩, hfits⟩)
  case refine_3 =>
    refine fun src p => unitEffect_of (fun _ _ => rfl) (fun b (hfits : (gone b p).zeroFits p = false) => ?_)
    exact if_neg (by rw [hfits]; simp)
  case refine_4 =>
    refine fun src p => unitEffect_of (fun _ _ => rfl) (fun b ⟨hopen, hstate, hq⟩ => ?_)
    have hnone : (b.qpsOf p).isEmpty = true := by
      unfold State.qpsOf
      rw [List.isEmpty_iff, List.filter_eq_nil_iff]
      exact fun q hmem => by simpa using List.all_eq_true.mp hq q hmem
    unfold requestDownStep
    rw [hopen, hstate, if_neg (by simp), hnone, if_neg (by simp)]
  case refine_5 =>
    refine fun src p => unitEffect_of (fun _ _ => rfl) (fun b ⟨hopen, hstate, hq⟩ => ?_)
    have hsome : (b.qpsOf p).isEmpty = false := by
      obtain ⟨q, hmem, hpart⟩ := List.any_eq_true.mp hq
      unfold State.qpsOf
      rw [List.isEmpty_eq_false_iff_exists_mem]
      exact ⟨q, List.mem_filter.mpr ⟨hmem, hpart⟩⟩
    unfold requestDownStep
    rw [hopen, hstate, if_neg (by simp), hsome, if_pos (by rfl)]
  case refine_6 =>
    refine fun src p => unitEffect_of (fun _ _ => rfl) (fun b ⟨hopen, hstate, herr⟩ => ?_)
    unfold applyRegsStep
    rw [hopen, if_neg (by simp)]
    simp only [herr]
    rw [if_neg (by rcases hstate with h | h <;> rw [h] <;> decide)]
  case refine_7 =>
    refine fun src p => unitEffect_of (fun _ _ => rfl) (fun b ⟨hopen, hstate, herr⟩ => ?_)
    unfold applyRegsStep
    rw [hopen, if_neg (by simp)]
    simp only [herr]
    rw [hstate, if_pos (by rfl)]
  case refine_8 =>
    refine fun src p e => unitEffect_of (fun _ _ => rfl) (fun b ⟨hopen, herr⟩ => ?_)
    unfold applyRegsStep
    rw [hopen, if_neg (by simp)]
    simp only [herr]
  case refine_9 =>
    refine fun src p => unitEffect_of (fun _ _ => rfl) (fun b ⟨hopen, hstate⟩ => ?_)
    unfold partitionTeardownStep
    rw [hopen, hstate, if_neg (by simp)]
  case refine_10 =>
    refine fun p => unitEffect_of (fun _ _ => rfl) (fun b (hlock : b.sec.cfg.locked.testBit p = true) => ?_)
    have hclosed : (gone b p).prtOpen .management p = false := by
      rw [prtOpen_of_sec ((OnlyPart.refl b : OnlyPart p b b).endTears _).sec]
      unfold State.prtOpen
      rw [hlock]
      rfl
    exact if_neg (by rw [hclosed]; simp)

end Sys2Proof.Machine
end

section
/-! Contexts and plans. -/

namespace Sys2Proof.Machine

/-! ### The teardowns that are due -/

/-- A fold that acts on the state at one element only. -/
theorem foldl_of_others_fixed {α β : Type} {f : β → α → β} {l : List α} {a : α} {b : β} (hn : l.Nodup) (ha : a ∈ l)
    (hb : ∀ x, x ≠ a → f b x = b) (hf : ∀ x, x ≠ a → f (f b a) x = f b a) : l.foldl f b = f b a := by
  obtain ⟨l1, l2, rfl⟩ := List.append_of_mem ha
  have hsplit := List.nodup_append.mp hn
  have hleft : ∀ x ∈ l1, f b x = b := fun x hx => hb x (fun hxa => hsplit.2.2 x hx a (by simp) hxa)
  have hright : ∀ x ∈ l2, f (f b a) x = f b a :=
    fun x hx => hf x (fun hxa => (List.nodup_cons.mp hsplit.2.1).1 (hxa ▸ hx))
  rw [List.foldl_append, foldl_fixed_of_mem hleft, List.foldl_cons, foldl_fixed_of_mem hright]

theorem endTears_of_none {s : State} {p : Nat} (h : (s.part p).tears = []) (k : Tear → Bool) : s.endTears p k = s := by
  unfold State.endTears
  rw [h]
  rfl

theorem tearsDue_of_one {s : State} {p : Nat} {t : Tear} (hp : p < 16) (ht : (s.part p).tears = [t])
    (hothers : ∀ q, q ≠ p → (s.part q).tears = []) (hheld : t.held = false) (hdue : t.since + 1_000_000 ≤ s.now) :
    s.tearsDue = s.endTear p t := by
  have hone : s.endTears p (fun t => !t.held && decide (t.since + 1_000_000 ≤ s.now)) = s.endTear p t := by
    unfold State.endTears
    rw [ht, List.filter_cons_of_pos (by rw [hheld, decide_eq_true hdue]; rfl), List.filter_nil, List.foldl_cons, List.foldl_nil]
  unfold State.tearsDue
  rw [foldl_of_others_fixed List.nodup_range (List.mem_range.mpr hp), hone]
  · exact fun q hq => endTears_of_none (hothers q hq) _
  · rw [hone]
    exact fun q hq => endTears_of_none (by rw [((OnlyPart.refl s : OnlyPart p s s).endTear t).part q hq]; exact hothers q hq) _

/-! ### Switches -/

theorem requestSwitch_of {u : State} {c : Cmd} {out : List Nat} {incoming : Option Nat}
    (hout : out.all (fun d => decide (d < 16) && u.ctxState c.hdr.partition d == 1) = true)
    (hin : ∀ i, incoming = some i → i < 16 ∧ u.ctxState c.hdr.partition i = 2 ∧
      ((List.range 16).filter (fun d => u.ctxState c.hdr.partition d == 1 && !out.contains d)).all (fun d =>
        !shareMeet (u.share c.hdr.partition i) (u.share c.hdr.partition d)) = true)
    (hlong : u.switchTooLong c.hdr.partition = false)
    (hroom : (u.suspended c.hdr.partition).length + out.length - incoming.toList.length ≤ 8)
    (hfit : u.imagesFit c.hdr.partition out = true) (hbusy : u.switchBusy c.hdr.partition = false) :
    u.requestSwitch c out incoming =
      u.setPart c.hdr.partition (fun x => { x with switch := some { out := out, incoming := incoming, cmd := c.id } }) := by
  have hout' : out.any (fun d => decide (16 ≤ d) || u.ctxState c.hdr.partition d != 1) = false := by
    have h := any_not_of_all hout
    simpa only [bne, Bool.not_and, ← decide_not, Nat.not_lt] using h
  unfold State.requestSwitch
  cases incoming with
  | none =>
    dsimp only
    rw [hout', hlong, if_neg (by simp), if_neg (by simpa using hroom), hfit, if_neg (by simp), hbusy, if_neg (by simp)]
  | some i =>
    obtain ⟨hi, hstate, hmeet⟩ := hin i rfl
    dsimp only
    rw [hout', hstate, any_of_all_not hmeet, hlong, if_neg (by simp; omega), if_neg (by simpa using hroom), hfit, if_neg (by simp),
      hbusy, if_neg (by simp)]

/-! ### Plans -/

theorem bodyPlanAdmit_admits {c : Cmd} {u : State} {m : Model} (hlen : c.input.length = 32 + 32 * fieldAt c.input 20 4)
    (hz : zerosAt c.input 7 1 = true) (hkind : fieldAt c.input 5 1 = 0)
    (hresv : (List.range (fieldAt c.input 20 4)).all (fun i => zerosAt c.input (44 + 32 * i) 4) = true)
    (hrt : (u.part c.hdr.partition).assign.rt = true)
    (hm : u.model? c.hdr.partition (parsePlan c.input).model (parsePlan c.input).version = some m)
    (hok : u.planOk c.hdr.partition (parsePlan c.input) m = true) :
    bodyPlanAdmit c u =
      let p := c.hdr.partition
      let k := parsePlan c.input
      let w := u.wcet p k
      if w ≤ k.bound then (u.putPlan p k.slot (some { k with wcet := w })).reply c stOk [] (planReply k.slot w)
      else u.reply c stPlanNotAdmitted [] (planReply k.slot w) := by
  unfold bodyPlanAdmit
  dsimp only
  rw [if_neg (by simp; omega), hz, hkind, any_not_of_all hresv, if_neg (by simp), hrt, if_neg (by simp), if_neg (by simp), hm]
  dsimp only
  rw [hok, if_neg (by simp)]
  by_cases hw : u.wcet c.hdr.partition (parsePlan c.input) ≤ (parsePlan c.input).bound
  · rw [if_pos hw, if_neg (Nat.not_lt.mpr hw)]
  · rw [if_neg hw, if_pos (Nat.not_le.mp hw)]

theorem bodyPlanAdmit_withdraws {c : Cmd} {u : State} (hlen : c.input.length = 32 + 32 * fieldAt c.input 20 4)
    (hz : zerosAt c.input 7 1 = true) (hkind : fieldAt c.input 5 1 = 1)
    (hresv : (List.range (fieldAt c.input 20 4)).all (fun i => zerosAt c.input (44 + 32 * i) 4) = true)
    (hrt : (u.part c.hdr.partition).assign.rt = true) (hslot : fieldAt c.input 6 1 < 8)
    (hplan : (u.part c.hdr.partition).plans.any (fun x => x.slot == fieldAt c.input 6 1) = true) :
    bodyPlanAdmit c u =
      (u.putPlan c.hdr.partition (fieldAt c.input 6 1) none).reply c stOk [] (planReply (fieldAt c.input 6 1) 0) := by
  have hk : (parsePlan c.input).slot = fieldAt c.input 6 1 := rfl
  unfold bodyPlanAdmit
  dsimp only
  rw [if_neg (by simp; omega), hz, hkind, any_not_of_all hresv, if_neg (by simp), hrt, if_neg (by simp), if_pos (by rfl), hk,
    if_neg (by omega), hplan, if_neg (by simp)]

theorem tearContext_eq {b : State} {p c status : Nat} (hstate : b.ctxState p c = 1 ∨ b.ctxState p c = 2 ∨ b.ctxState p c = 3) :
    b.tearContext p c status =
      let s1 := (if b.holdsShare p c then b.abortKernels p c else b).setCtx p c 4
      let s2 := if (s1.runner p).active && (s1.runner p).ctx == c then s1.setRunner p (fun _ => {}) else s1
      let s3 := ((s2.seqs.filter (fun q => q.part == p && q.ctx == c)).map (fun q => q.idx)).foldl (fun s i =>
        s.endNow i status) s2
      let s4 := s3.endCommands ((s3.cmds.filter (fun k => k.hdr.partition == p && k.ctx == c)).map (fun k => k.id)) status
      let s5 := spindleAbortStep (BitVec.ofNat 64 (2 ^ 21 + p * 2 ^ 16 + c)) s4
      let left := (if (s5.runner p).active then s5 else s5.freeEnded p).leaveSwitch p c (b.ctxState p c)
      left.1.setPart p (fun x => { x with tears := x.tears ++
        [{ ctx := c, back := left.2.1, since := left.1.now, own := b.ctxState p c != 2, held := left.2.2 }] }) := by
  have hgo : ¬ (b.ctxState p c == 0 || b.ctxState p c == 4) = true := by
    rcases hstate with h | h | h <;> rw [h] <;> decide
  unfold State.tearContext
  extract_lets was own s1 s2 es s3 ids s4 s4' s5 t1 t2 t3 t4 t5 left
  have hleft : s5.leaveSwitch p c was = left := rfl
  refine (if_neg hgo).trans ?_
  rw [hleft]

/-- Settles O20. -/
theorem contextCommandsHaveTheirEffect : Obligations.ContextCommandsHaveTheirEffect := by
  unfold Obligations.ContextCommandsHaveTheirEffect
  intro saved switched
  refine ⟨?_, ?_, ?_, ?_, ?_, ?_, ?_, ?_, ?_, ?_⟩
  case refine_1 =>
    exact hostEffect_of_body bodyPartQuery (fun _ _ _ => rfl) (fun c u ho => by simp only [runBody, ho]) (fun c u hs => shaped_of hs)
  case refine_2 =>
    refine hostEffect_of_body bodyContextSuspend (fun _ _ _ => rfl) (fun c u ho => by simp only [runBody, ho])
      (fun c u ⟨hs, ho, hstate, hlong, hroom, hfit, hbusy⟩ => ?_)
    unfold bodyContextSuspend
    rw [shaped_of hs]
    exact requestSwitch_of (by simpa using ⟨ho, hstate⟩) (fun i hi => nomatch hi) hlong (by simpa using hroom) hfit hbusy
  case refine_3 =>
    refine hostEffect_of_body bodyContextResume (fun _ _ _ => rfl) (fun c u ho => by simp only [runBody, ho])
      (fun c u ⟨hs, hi, hstate, hout, hmeet, hlong, hroom, hfit, hbusy⟩ => ?_)
    unfold bodyContextResume
    rw [shaped_of hs]
    refine requestSwitch_of hout (fun i hin => ?_) hlong (by simp; omega) hfit hbusy
    obtain rfl := Option.some.inj hin
    exact ⟨hi, hstate, hmeet⟩
  case refine_4 =>
    refine fun p w q => unitEffect_of (fun _ _ => rfl) (fun b ⟨hw, hq, hdue⟩ => ?_)
    unfold switchQuiesceTimeoutStep
    rw [hw]
    dsimp only
    rw [hq]
    dsimp only
    rw [if_neg (Nat.not_lt.mpr hdue)]
  case refine_5 =>
    refine fun p w => unitEffect_of (fun _ _ => rfl) (fun b ⟨hw, hq, hdrained, hin⟩ => ?_)
    unfold contextSwitchCompleteStep
    dsimp only
    rw [hw]
    dsimp only
    rw [if_neg (by simpa [hdrained] using Option.isSome_iff_ne_none.mp hq), hin]
  case refine_6 =>
    refine fun p w i im => unitEffect_of (fun _ _ => rfl) (fun b ⟨hw, hq, hdrained, hin, himage, hue⟩ => ?_)
    unfold contextSwitchCompleteStep
    dsimp only [saved] at himage hue ⊢
    rw [hw]
    dsimp only
    rw [if_neg (by simpa [hdrained] using Option.isSome_iff_ne_none.mp hq), hin]
    dsimp only
    rw [himage]
    dsimp only
    rw [hue, if_neg (by simp)]
  case refine_7 =>
    refine fun src p c => unitEffect_of (fun _ _ => rfl) (fun b ⟨hopen, hstate⟩ => ?_)
    unfold contextTeardownStep
    rw [hopen, if_pos rfl, tearContext_eq hstate]
  case refine_8 =>
    exact fun s p t hp _ ht hothers hheld hdue => tearsDue_of_one hp ht hothers hheld hdue
  case refine_9 =>
    exact fun m => hostEffect_of_body bodyPlanAdmit (fun _ _ _ => rfl) (fun c u ho => by simp only [runBody, ho])
      (fun c u ⟨hlen, hz, hkind, hresv, hrt, hm, hok⟩ => bodyPlanAdmit_admits hlen hz hkind hresv hrt hm hok)
  case refine_10 =>
    exact hostEffect_of_body bodyPlanAdmit (fun _ _ _ => rfl) (fun c u ho => by simp only [runBody, ho])
      (fun c u ⟨hlen, hz, hkind, hresv, hrt, hslot, hplan⟩ => bodyPlanAdmit_withdraws hlen hz hkind hresv hrt hslot hplan)

end Sys2Proof.Machine
end

section
/-! Mailbox messages and the log. -/

namespace Sys2Proof.Machine

/-- The message of Table 13-4 that an identifier names. -/
def mbMessageOf (id : Nat) (c : Cmd) (s : State) : State :=
  match id with
  | 1 => mbFwInfo c s
  | 2 => mbFwStage c s
  | 3 => mbCoreStatus c s
  | 4 => mbTraceSet c s
  | 5 => mbLogMark c s
  | _ => mbActivationCancel c s

/-- A message whose header passes the checks of R494 to R496 is carried out. -/
theorem bodyMbMessage_of {c : Cmd} {u : State} {id least lo hi : Nat} {admin : Bool} (ht : mailboxTakes c u id least admin = true)
    (hrow : mbMessageRow id = some (least, admin, lo, hi)) (hlo : lo ≤ fieldAt c.input 4 4) (hhi : fieldAt c.input 4 4 ≤ hi)
    (hlen : 16 + fieldAt c.input 4 4 ≤ c.input.length) (hlen' : id ≠ 2 → c.input.length = 16 + fieldAt c.input 4 4) :
    bodyMbMessage c u = mbMessageOf id c u := by
  unfold mailboxTakes at ht
  simp only [Bool.and_eq_true, beq_iff_eq, decide_eq_true_eq] at ht
  obtain ⟨⟨⟨⟨⟨hid, hz⟩, hver⟩, hpos⟩, hleast⟩, hadmin⟩ := ht
  have hadmin' : (admin && !u.admin c.hdr.partition) = false := by
    cases admin with
    | false => rfl
    | true => simpa using hadmin
  unfold bodyMbMessage
  dsimp only
  rw [hid, hver, if_neg (by omega), hz, if_neg (by simp), if_neg (by simp; omega), hrow]
  dsimp only
  rw [if_neg (by omega), hadmin', if_neg (by simp), if_neg (by simp; omega)]
  rfl

theorem bodyMbHello_eq {c : Cmd} {u : State} (hs : shapedAs c 32 [(4, 4), (24, 8)] = true)
    (hv : max (fieldAt c.input 0 1 * 256 + fieldAt c.input 1 1) (u.fw.running.getD {}).mbLo ≤
      min (fieldAt c.input 2 1 * 256 + fieldAt c.input 3 1) (u.fw.running.getD {}).mbHi) :
    bodyMbHello c u =
      let f := fieldAt c.input
      let img := u.fw.running.getD {}
      let v := min (f 2 1 * 256 + f 3 1) img.mbHi
      let agreed := (BitVec.ofNat 128 (f 8 16) &&& img.feats &&& 0x3FFFF#128) ||| 1#128
      (u.setQp c.hdr.qp (fun q => { q with
        feats := agreed, featsOld := q.agreed u.now, helloAt := some u.now, mbVer := v
        mbLo := f 0 1 * 256 + f 1 1, mbHi := f 2 1 * 256 + f 3 1 })).reply c stOk []
          (toLE 1 (v / 256) ++ toLE 1 v ++ zeros 6 ++ toLE 16 agreed.toNat ++ toLE 8 img.version) := by
  unfold bodyMbHello
  rw [shaped_of hs]
  exact if_neg (Nat.not_lt.mpr hv)

theorem mbFwStage_eq {c : Cmd} {u : State} {i : FwImage} (ha : fieldAt c.input 16 8 = 0)
    (hlen : c.input.length = 32 + fieldAt c.input 24 8) (himg : parseImage (c.input.drop 32) = some i)
    (hj : i.journalR ≤ (u.fw.running.getD {}).journalW) (hact : u.fw.act ≠ 3) :
    mbFwStage c u =
      if (u.checkImage i).1 then
        let s1 := (u.checkImage i).2
        let s2 := { s1.fwStore 0x100_0000 (c.input.drop 32) with fw := { s1.fw with staged := some i, act := 1, hold := none } }
        s2.mbReply c (toLE 8 i.version)
      else (u.checkImage i).2.refuse c stNotPermitted := by
  have hstage : u.stage (c.input.drop 32) =
      if (u.checkImage i).1 then
        (.staged, { (u.checkImage i).2.fwStore 0x100_0000 (c.input.drop 32) with
          fw := { (u.checkImage i).2.fw with staged := some i, act := 1, hold := none } })
      else (.policy, (u.checkImage i).2) := by
    unfold State.stage
    rw [himg]
    dsimp only
    have hbusy : (u.fw.act == 3) = false := by simpa using hact
    rw [if_neg (Nat.not_lt.mpr hj), hbusy]
    cases (u.checkImage i).1 <;> rfl
  unfold mbFwStage
  refine (if_neg (by simpa [ha] using hlen)).trans ((if_neg (by simp [ha])).trans ((if_neg (by simp [ha])).trans ?_))
  simp only [ha, beq_self_eq_true, if_true]
  rw [hstage]
  cases (u.checkImage i).1 <;> rfl

theorem bodyLogRead_eq {c : Cmd} {u : State} (hs : shapedAs c 16 [(12, 4)] = true) (hn : 0 < fieldAt c.input 8 4)
    (hm : fieldAt c.input 8 4 ≤ 16384) :
    bodyLogRead c u =
      let first := fieldAt c.input 0 8
      let next := (u.raw WDN_LOG_SEQ).toNat
      let es := ((u.logEntries (max first (next - 262144)) next).filter (u.logVisible c.hdr.partition)).take (fieldAt c.input 8 4)
      u.replyData c stOk [] (toLE 8 (next - 262144) ++ toLE 8 next ++ toLE 4 es.length ++
        toLE 1 (if first < next - 262144 then 1 else 0) ++ zeros 11 ++ es.flatten) := by
  unfold bodyLogRead
  rw [shaped_of hs]
  exact if_neg (by simp; omega)

/-- A clause about a mailbox message is one about the message that its identifier names, under either name of the opcode. -/
theorem mailboxEffect {mk other : Stamp → Req → Instr} (hmk : mk = Instr.mbMessage ∨ mk = other)
    (hx : ∀ t r s, exec (other t r) s = .next (runAt t (fun s => s.receive 0x0B01 r) s)) {P : Cmd → State → Prop}
    {e : Cmd → State → State} (he : ∀ c u, P c u → bodyMbMessage c u = e c u) : HostEffect mk 0x0B01 P e := by
  rcases hmk with rfl | rfl
  · exact hostEffect_of_body bodyMbMessage (fun _ _ _ => rfl) (fun c u ho => by simp only [runBody, ho]) he
  · exact hostEffect_of_body bodyMbMessage hx (fun c u ho => by simp only [runBody, ho]) he

/-- Settles O21. -/
theorem mailboxMessagesHaveTheirEffect : Obligations.MailboxMessagesHaveTheirEffect := by
  unfold Obligations.MailboxMessagesHaveTheirEffect
  refine ⟨?_, ?_, ?_, ?_, ?_, ?_, ?_, ?_⟩
  case refine_1 =>
    exact hostEffect_of_body bodyMbHello (fun _ _ _ => rfl) (fun c u ho => by simp only [runBody, ho])
      (fun c u ⟨hs, hv⟩ => bodyMbHello_eq hs hv)
  case refine_2 =>
    exact fun mk hmk => mailboxEffect hmk (fun _ _ _ => rfl)
      (fun c u ⟨ht, hn, hlen⟩ => bodyMbMessage_of ht rfl (by omega) (by omega) (by omega) (fun _ => by omega))
  case refine_3 =>
    exact fun mk i hmk => mailboxEffect hmk (fun _ _ _ => rfl) (fun c u ⟨ht, hn, ha, hlen, himg, hj, hact⟩ =>
      (bodyMbMessage_of ht rfl (by omega) (by omega) (by omega) (fun h => absurd rfl h)).trans (mbFwStage_eq ha hlen himg hj hact))
  case refine_4 =>
    exact fun mk hmk => mailboxEffect hmk (fun _ _ _ => rfl)
      (fun c u ⟨ht, hn, hlen⟩ => bodyMbMessage_of ht rfl (by omega) (by omega) (by omega) (fun _ => by omega))
  case refine_5 =>
    exact fun mk hmk => mailboxEffect hmk (fun _ _ _ => rfl)
      (fun c u ⟨ht, hn, hlen⟩ => bodyMbMessage_of ht rfl (by omega) (by omega) (by omega) (fun _ => by omega))
  case refine_6 =>
    exact fun mk hmk => mailboxEffect hmk (fun _ _ _ => rfl)
      (fun c u ⟨ht, hn, hn', hlen⟩ => bodyMbMessage_of ht rfl hn hn' (by omega) (fun _ => hlen))
  case refine_7 =>
    refine fun mk hmk => mailboxEffect hmk (fun _ _ _ => rfl) (fun c u ⟨ht, hn, hlen, hact⟩ => ?_)
    rw [bodyMbMessage_of ht rfl (by omega) (by omega) (by omega) (fun _ => by omega)]
    unfold mbMessageOf mbActivationCancel State.cancelActivation
    dsimp only
    rw [if_pos (by simpa using hact)]
    rfl
  case refine_8 =>
    exact hostEffect_of_body bodyLogRead (fun _ _ _ => rfl) (fun c u ho => by simp only [runBody, ho])
      (fun c u ⟨hs, hn, hm⟩ => bodyLogRead_eq hs hn hm)

end Sys2Proof.Machine
end

section
/-! Firmware images and their activation, cores, and the interrupt controller. -/

namespace Sys2Proof.Machine

/-! ### Firmware images -/

theorem bodyFwActivate_eq {c : Cmd} {u : State} {i : FwImage} (hs : shapedAs c 16 [(9, 7)] = true) (hf : fieldAt c.input 8 1 = 0)
    (ha : u.admin c.hdr.partition = true) (hi : u.fw.staged = some i) (hv : i.version = fieldAt c.input 0 8) (hact : u.fw.act ≠ 3) :
    bodyFwActivate c u =
      let s1 := (u.checkImage i).2
      if (u.checkImage i).1 then
        if s1.fld PWR_STATE 2 0 = 0 then s1.beginActivation (some c.id)
        else (({ s1 with fw := { s1.fw with act := 2, hold := none } } : State).event WDN_EVENT 2).refuse c stDeferred
      else (s1.dropStaged 0).refuse c stNotPermitted := by
  have hbusy : (u.fw.act == 3) = false := by simpa using hact
  unfold bodyFwActivate
  rw [shaped_of hs]
  simp only [hf, ha, hi, hv, hbusy, bne_self_eq_false]
  cases (u.checkImage i).1
  · rfl
  · by_cases hp : (u.checkImage i).2.fld PWR_STATE 2 0 = 0 <;> simp [hp]

theorem normalHoldEndStep_eq {b : State} {t0 : Stamp} {i : FwImage} (hh : b.fw.hold = some t0) (hact : b.fw.act = 2)
    (ht : t0 + 1_000_000_000 ≤ b.now) (hi : b.fw.staged = some i) :
    normalHoldEndStep b =
      if (b.checkImage i).1 then (b.checkImage i).2.beginActivation none
      else ((b.checkImage i).2.dropStaged 4).event WDN_EVENT 4 := by
  unfold normalHoldEndStep
  rw [hh]
  dsimp only
  rw [if_pos (by simpa [hact] using ht), hi]

/-- While a core of the restarted cluster is held in reset, the activation waits for it. -/
theorem clusterReady_of_held {s : State} {a : Activation} {k : Nat} {t : Stamp} (ha : s.fw.activation = some a)
    (hp : a.pending = some (k, t)) (hany : (s.clusterCores k).any (fun c => (s.core c).state == 2) = true) : s.clusterReady = s := by
  unfold State.clusterReady
  rw [ha]
  dsimp only
  rw [hp]
  exact if_pos hany

/-- Once no core of the restarted cluster is held in reset, the cluster after it drains, or the activation is complete. -/
theorem clusterReady_of_running {s : State} {a : Activation} {k : Nat} {t : Stamp} (ha : s.fw.activation = some a)
    (hp : a.pending = some (k, t)) (hany : (s.clusterCores k).any (fun c => (s.core c).state == 2) = false) :
    s.clusterReady =
      let b : Activation := { a with done := a.done ++ [k], pending := none, started := s.now }
      match b.next with
      | some j => { s with fw := { s.fw with activation := some b, drained := [j] } }
      | none => s.completeActivation b := by
  unfold State.clusterReady
  rw [ha]
  dsimp only
  rw [hp]
  exact if_neg (by simp [hany])

theorem any_held_of_all {s : State} {l : List Nat} (h : l.all (fun c => (s.core c).state != 2) = true) :
    l.any (fun c => (s.core c).state == 2) = false := by
  simpa using h

theorem clusterRestartStep_of_drained {b : State} {k : Nat} {a : Activation} (ha : b.fw.activation = some a) (hn : a.next = some k)
    (hp : a.pending = none) (hd : b.drainOver a k = true) :
    clusterRestartStep k b =
      let s1 := b.restartCluster k
      ({ s1 with fw := { s1.fw with activation := some { a with pending := some (k, b.now) } } } : State).clusterReady := by
  unfold clusterRestartStep
  rw [ha]
  exact if_neg (by simp [hn, hp, hd])

theorem restartCluster_of_none {b : State} {k : Nat} (h : b.clusterCores k = []) : b.restartCluster k = b := by
  unfold State.restartCluster
  rw [h, List.foldl_nil]

theorem activationReadyTimeoutStep_eq {b : State} {k : Nat} {a : Activation} {t0 : Stamp} (ha : b.fw.activation = some a)
    (hp : a.pending = some (k, t0)) (ht : t0 + 100_000_000 ≤ b.now) :
    activationReadyTimeoutStep k b =
      let s1 := ((a.done ++ [k]).foldl (fun s j => s.restartCluster j) b).dropStaged 4
      let s2 := ({ s1 with fw := { s1.fw with activation := none, drained := [] } } : State).event WDN_EVENT 4
      match a.owed.bind s2.cmd? with
      | some c => s2.refuse c stInternalError
      | none => s2 := by
  unfold activationReadyTimeoutStep
  rw [ha]
  dsimp only
  rw [hp]
  exact if_pos (by simpa using ht)

theorem lkgFlashWriteStep_eq {b : State} {i : FwImage} {t0 : Stamp} (hr : b.fw.running = some i) (hs : b.fw.runSince = some t0)
    (ht : t0 + 3_600_000_000_000 ≤ b.now) :
    lkgFlashWriteStep b =
      let f0 := b.fw.flash.getD 0 ({}, false)
      let f1 := b.fw.flash.getD 1 ({}, false)
      let second : Bool := f0.2 && !(b.lkg == some f1.1 && f1.2)
      let ok := (b.checkImage i).1
      let s1 := (b.checkImage i).2
      { s1 with fw := { s1.fw with flash := if second then [f0, (i, ok)] else [(i, ok), f1], runSince := none } } := by
  unfold lkgFlashWriteStep
  rw [hr, hs]
  refine (if_pos ht).trans ?_
  dsimp only
  cases ((b.fw.flash.getD 0 ({}, false)).2 &&
    !(b.lkg == some (b.fw.flash.getD 1 ({}, false)).1 && (b.fw.flash.getD 1 ({}, false)).2)) <;> rfl

theorem fwUpdateStageStep_of_listed {b : State} {v : Reg} (hv : v.getLsbD 63 = true)
    (hl : (b.setFld WDN_UPDATE 47 0 (v.toNat % 2 ^ 48)).listed (v.toNat % 2 ^ 48)
      ((b.setFld WDN_UPDATE 47 0 (v.toNat % 2 ^ 48)).fld WDN_UPDATE_LEN 24 0) = true)
    (hu : (b.setFld WDN_UPDATE 47 0 (v.toNat % 2 ^ 48)).isUe (v.toNat % 2 ^ 48)
      ((b.setFld WDN_UPDATE 47 0 (v.toNat % 2 ^ 48)).fld WDN_UPDATE_LEN 24 0) = false) :
    fwUpdateStageStep v b =
      let s0 := b.setFld WDN_UPDATE 47 0 (v.toNat % 2 ^ 48)
      let r := s0.stage (s0.bytes (v.toNat % 2 ^ 48) (s0.fld WDN_UPDATE_LEN 24 0))
      r.2.setFld WDN_UPDATE 61 56 (match r.1 with | .staged => 0 | .policy => 1 | .malformed => 2 | .busy => 3) := by
  unfold fwUpdateStageStep
  dsimp only
  rw [if_neg (by rw [hv]; exact Bool.false_ne_true), if_neg (by rw [hl, Bool.not_true, Bool.and_false]; exact Bool.false_ne_true), hu]
  rfl

/-- The core that reads an image which is in no memory meets a bus error. -/
theorem fwUpdateStageStep_of_unlisted {b : State} {v : Reg} (hv : v.getLsbD 63 = true)
    (hn : (b.setFld WDN_UPDATE 47 0 (v.toNat % 2 ^ 48)).fld WDN_UPDATE_LEN 24 0 ≠ 0)
    (hl : (b.setFld WDN_UPDATE 47 0 (v.toNat % 2 ^ 48)).listed (v.toNat % 2 ^ 48)
      ((b.setFld WDN_UPDATE 47 0 (v.toNat % 2 ^ 48)).fld WDN_UPDATE_LEN 24 0) = false) :
    fwUpdateStageStep v b =
      let s0 := b.setFld WDN_UPDATE 47 0 (v.toNat % 2 ^ 48)
      coreExceptionStep (s0.writerOf 0) .busError s0 := by
  unfold fwUpdateStageStep
  dsimp only
  rw [if_neg (by rw [hv]; exact Bool.false_ne_true), if_pos (by rw [hl, Bool.not_false, Bool.and_true, bne_iff_ne]; exact hn)]

/-- Settles O22. -/
theorem firmwareImagesAreActivated : Obligations.FirmwareImagesAreActivated := by
  unfold Obligations.FirmwareImagesAreActivated
  refine ⟨?_, ?_, ?_, ?_, ?_, ?_, ?_, ?_, ?_, ?_, ?_⟩
  case refine_1 =>
    exact fun i => hostEffect_of_body bodyFwActivate (fun _ _ _ => rfl) (fun c u ho => by simp only [runBody, ho])
      (fun c u ⟨hs, hf, ha, hi, hv, hact⟩ => bodyFwActivate_eq hs hf ha hi hv hact)
  case refine_2 =>
    exact fun t0 i => unitEffect_of (fun _ _ => rfl) (fun b ⟨hh, hact, ht, hi⟩ => normalHoldEndStep_eq hh hact ht hi)
  case refine_3 =>
    exact fun k a => unitEffect_of (fun _ _ => rfl) (fun b ⟨ha, hn, hp, hd, hany⟩ =>
      (clusterRestartStep_of_drained ha hn hp hd).trans (clusterReady_of_held rfl rfl hany))
  case refine_4 =>
    refine fun k a j => unitEffect_of (fun _ _ => rfl) (fun b ⟨ha, hn, hp, hd, hc, hj⟩ => ?_)
    rw [clusterRestartStep_of_drained ha hn hp hd, restartCluster_of_none hc]
    have hany : (b.clusterCores k).any (fun c => (b.core c).state == 2) = false := by rw [hc, List.any_nil]
    refine (@clusterReady_of_running
      { b with fw := { b.fw with activation := some { a with pending := some (k, b.now) } } } _ _ _ rfl rfl hany).trans ?_
    dsimp only
    rw [hj]
  case refine_5 =>
    intro s a k t j ha hp hall hj
    rw [clusterReady_of_running ha hp (any_held_of_all hall)]
    dsimp only
    rw [hj]
  case refine_6 =>
    intro s a k t ha hp hall hj
    rw [clusterReady_of_running ha hp (any_held_of_all hall)]
    dsimp only
    rw [hj]
  case refine_7 =>
    exact fun k a t0 => unitEffect_of (fun _ _ => rfl) (fun b ⟨ha, hp, ht⟩ => activationReadyTimeoutStep_eq ha hp ht)
  case refine_8 =>
    exact fun i t0 => unitEffect_of (fun _ _ => rfl) (fun b ⟨hr, hs, ht⟩ => lkgFlashWriteStep_eq hr hs ht)
  case refine_9 =>
    exact fun v => unitEffect_of (fun _ _ => rfl) (fun b hv => if_pos (by rw [hv]; rfl))
  case refine_10 =>
    exact fun v => unitEffect_of (fun _ _ => rfl) (fun b ⟨hv, hl, hu⟩ => fwUpdateStageStep_of_listed hv hl hu)
  case refine_11 =>
    refine fun v => unitEffect_of (fun _ _ => rfl) (fun b ⟨hv, hn, hl⟩ => (fwUpdateStageStep_of_unlisted hv hn hl).trans ?_)
    unfold coreExceptionStep
    dsimp only
    exact if_congr beq_iff_eq rfl rfl

/-! ### Cores and interrupts -/

theorem rotate_nil (h : List Nat) : rotate h [] = none := by
  simp [rotate, minNat?]

/-- An idle core takes what the arbiter grants, where the command's deadline has not passed. -/
theorem workQueueTakeStep_eq {b : State} {core : Nat} {c : Cmd}
    (hr : (b.roleCores ((b.core core).logical / 4)).contains core = true) (hw : b.nextWork ((b.core core).logical / 4) = some c)
    (ht : b.takes ((b.core core).logical / 4) c.input.length = true)
    (hd : c.hdr.deadline = 0 ∨ b.now < c.hdr.deadline ∨ c.hdr.opcode = 0x0101) : workQueueTakeStep core b = b.takeWork core c := by
  have hopen : (c.hdr.deadline != 0 && decide (c.hdr.deadline ≤ b.now) && c.hdr.opcode != 0x0101) = false := by
    rcases hd with hd | hd | hd
    · simp [hd]
    · simp [Nat.not_le.mpr hd]
    · simp [hd]
  unfold workQueueTakeStep
  dsimp only
  rw [hr, if_neg (by simp), hw]
  dsimp only
  rw [if_pos ht]
  unfold State.grantWork
  rw [hopen]
  rfl

theorem watchdogExpiryStep_eq {b : State} {core : Nat} (hc : (b.core core).state = 1)
    (ht : (b.core core).lastKick + 50_000_000 ≤ b.now) :
    watchdogExpiryStep core b = b.crash core 1 ((b.core core).lastKick + 50_000_000) :=
  if_pos (by simpa [hc] using ht)

theorem interruptCompleteStep_of_held {b : State} {core n : Nat} (h : b.icu.service.contains (n, core) = true) :
    interruptCompleteStep core n b =
      let s1 := b.setFld (ICU_SRC n) 9 9 0
      let s2 := { s1 with icu := { s1.icu with service := s1.icu.service.filter (fun e => e.1 != n) } }
      s2.icuSettle (s2.fld (ICU_SRC n) 19 14) := by
  unfold interruptCompleteStep
  exact if_pos h

/-- Settles O23. -/
theorem coresAndInterruptsHaveTheirEffect : Obligations.CoresAndInterruptsHaveTheirEffect := by
  unfold Obligations.CoresAndInterruptsHaveTheirEffect
  refine ⟨?_, ?_, ?_, ?_, ?_, ?_, ?_, ?_, ?_, ?_, ?_, ?_, ?_, ?_, ?_⟩
  case refine_1 =>
    exact fun core c => unitEffect_of (fun _ _ => rfl) (fun b ⟨hr, hw, ht, hd⟩ => workQueueTakeStep_eq hr hw ht hd)
  case refine_2 =>
    exact fun core => unitEffect_of (fun _ _ => rfl) (fun b ⟨hc, ht⟩ => watchdogExpiryStep_eq hc ht)
  case refine_3 =>
    exact fun core cause => unitEffect_of (fun _ _ => rfl) (fun b hc => if_pos (by simp [hc]))
  case refine_4 =>
    refine fun core => unitEffect_of (fun _ _ => rfl) (fun b ⟨hc, hl⟩ => ?_)
    unfold coreRestartStep
    rw [hl, hc]
    rfl
  case refine_5 =>
    refine fun core => unitEffect_of (fun _ _ => rfl) (fun b ⟨_, hl⟩ => ?_)
    unfold coreRestartStep
    rw [hl, Bool.and_false]
    rfl
  case refine_6 =>
    exact fun core => unitEffect_of (fun _ _ => rfl) (fun b hc => if_pos (by simp [hc]))
  case refine_7 =>
    exact fun n => unitEffect_of (fun _ _ => rfl) (fun _ _ => rfl)
  case refine_8 =>
    refine fun g w => unitEffect_of (fun _ _ => rfl) (fun b ⟨hw, ht⟩ => ?_)
    unfold interruptGroupTimerStep
    rw [hw]
    exact if_pos ht
  case refine_9 =>
    refine fun core n => unitEffect_of (fun _ _ => rfl) (fun b hn => ?_)
    unfold interruptClaimStep
    dsimp only
    rw [hn]
    rfl
  case refine_10 =>
    refine fun core n => unitEffect_of (fun _ _ => rfl) (fun b ⟨hf, hn⟩ => ?_)
    unfold interruptClaimStep
    dsimp only
    rw [hf, rotate_nil, hn]
    rfl
  case refine_11 =>
    refine fun core => unitEffect_of (fun _ _ => rfl) (fun b ⟨hf, hs⟩ => ?_)
    unfold interruptClaimStep
    dsimp only
    rw [hf, hs, rotate_nil, rotate_nil]
    rfl
  case refine_12 =>
    exact fun core n => unitEffect_of (fun _ _ => rfl) (fun b h => interruptCompleteStep_of_held h)
  case refine_13 =>
    refine fun core n => unitEffect_of (fun _ _ => rfl) (fun b h => ?_)
    unfold interruptCompleteStep
    rw [h]
    rfl
  case refine_14 =>
    exact fun i v => unitEffect_of (fun _ _ => rfl) (fun _ _ => rfl)
  case refine_15 =>
    exact fun i v => unitEffect_of (fun _ _ => rfl) (fun _ _ => rfl)

end Sys2Proof.Machine
end

section
/-! The root of trust: attestation, ownership, proposals, presence and the seal. -/

namespace Sys2Proof.Machine

theorem bodyAttestReport_eq {c : Cmd} {u : State} (hs : shapedAs c 40 [(33, 7)] = true) (hf : fieldAt c.input 32 1 < 2) :
    bodyAttestReport c u =
      let body := u.reportBody c.hdr.partition (slice c.input 0 32)
      let certs := (List.range 3).flatMap (fun i => toLE 4 (Config.certificate i).length ++ Config.certificate i)
      u.reply c stOk [] (body ++ (List.range 2420).map (Config.mldsaSignByte 0 (sha3 body)) ++
        if fieldAt c.input 32 1 = 1 then toLE 4 certs.length ++ certs else []) := by
  unfold bodyAttestReport
  rw [shaped_of hs]
  refine (if_neg (by omega)).trans ?_
  simp only [beq_iff_eq]

theorem bodyMeasureLogRead_eq {c : Cmd} {u : State} (hs : shapedAs c 16 [(8, 8)] = true) (hn : 0 < fieldAt c.input 4 4)
    (hm : fieldAt c.input 4 4 ≤ 4096) :
    bodyMeasureLogRead c u =
      let es := (u.sec.mlog.drop (fieldAt c.input 0 4)).take (fieldAt c.input 4 4)
      u.replyData c stOk [] (toLE 4 u.sec.mlog.length ++ toLE 4 (u.fld SEC_LOG_CNT 63 32) ++ toLE 4 es.length ++ zeros 4 ++
        es.flatten) := by
  unfold bodyMeasureLogRead
  rw [shaped_of hs]
  exact if_neg (by simp; omega)

theorem bodyOwnerClaim_eq {c : Cmd} {u : State} (hs : shapedAs c 2664 [(2656, 8)] = true) (ho : u.owned = false)
    (hp : u.presAt c.intake = true) (hk : slice c.input 0 1312 ≠ slice c.input 1312 1312) :
    bodyOwnerClaim c u =
      let cfg := { u.sec.cfg with
        keys := [(0, slice c.input 0 1312), (1, slice c.input 1312 1312)], mgmtKey := slice c.input 2624 32
        epoch := u.sec.cfg.epoch + 1 }
      ((((u.writeCfg cfg).tick.measure 4 5 cfg.epoch u.freeDigest).showSec).event SEC_EVENT 2).refuse c stOk := by
  unfold bodyOwnerClaim
  rw [shaped_of hs]
  exact (if_neg (by simp [ho, hp])).trans (if_neg (by simpa using hk))

/-- No proposal expires where none is pending. -/
theorem proposalExpiryStep_of_none {s : State} (h : s.sec.pending = none) : proposalExpiryStep s = s := by
  unfold proposalExpiryStep
  rw [h]

/-- A proposal stands until its window is over. -/
theorem proposalExpiryStep_of_open {s : State} {x : Proposal} (h : s.sec.pending = some x)
    (ht : s.now < x.t1 + 600_000_000_000) : proposalExpiryStep s = s := by
  unfold proposalExpiryStep
  rw [h]
  exact if_neg (Nat.not_le.mpr ht)

/-- A proposal that passes Table 17-5 becomes pending where its signature verifies. -/
theorem bodyProtectPropose_eq {c : Cmd} {u : State} {key : List Byte} (hpend : u.sec.pending = none)
    (hat : u.pendingAt c.intake = none) (ho : u.owned = true) (hpres : u.presAt c.intake = true) (hseal : u.sealAt c.intake = true)
    (hz : zerosAt c.input 1 3 = true) (hlen : c.input.length = 8 + fieldAt c.input 4 4 + 2420)
    (hok : (parseProposal (slice c.input 8 (fieldAt c.input 4 4))).ok (slice c.input 8 (fieldAt c.input 4 4)) u = true)
    (hkey : u.ownerKey (fieldAt c.input 0 1) = some key) :
    bodyProtectPropose c u =
      let bs := slice c.input 8 (fieldAt c.input 4 4)
      if Config.mldsaVerify key (sha3 bs) (slice c.input (8 + fieldAt c.input 4 4) 2420) then
        (({ u with sec := { u.sec with pending := some ⟨fieldAt c.input 0 1, bs, c.intake⟩ } } : State).showSec).refuse c stOk
      else u.sigReject.refuse c stNotPermitted := by
  unfold bodyProtectPropose
  rw [proposalExpiryStep_of_none hpend]
  have hshape : (c.input.length != 8 + fieldAt c.input 4 4 + 2420) = false := by rw [hlen, bne_self_eq_false]
  simp only [hat, hz, ho, hpres, hseal, hshape, hok, hkey, Bool.not_true, Bool.and_false, Bool.or_self, Bool.false_eq_true, if_false]
  cases Config.mldsaVerify key (sha3 (slice c.input 8 (fieldAt c.input 4 4))) (slice c.input (8 + fieldAt c.input 4 4) 2420) <;>
    simp only [Bool.not_false, Bool.not_true, Bool.false_eq_true, if_true, if_false]

/-- A pending proposal is committed where a second owner's signature verifies. -/
theorem bodyProtectCosign_eq {c : Cmd} {u : State} {key : List Byte} {x : Proposal} (hs : shapedAs c 2460 [(1, 7)] = true)
    (hpend : u.sec.pending = some x) (ht : u.now < x.t1 + 600_000_000_000) (hat : u.pendingAt c.intake = some x)
    (ho : u.owned = true) (hpres : u.presAt c.intake = true) (hseal : u.sealAt c.intake = true)
    (hd : slice c.input 8 32 = sha3 x.bytes) (hkey : u.ownerKey (fieldAt c.input 0 1) = some key) (hslot : fieldAt c.input 0 1 ≠ x.slot) :
    bodyProtectCosign c u =
      if Config.mldsaVerify key (sha3 x.bytes) (slice c.input 40 2420) then
        ((u.dropCmd c.id).commit (parseProposal x.bytes)).refuse c stOk
      else u.sigReject.refuse c stNotPermitted := by
  unfold bodyProtectCosign
  rw [proposalExpiryStep_of_open hpend ht]
  dsimp only
  rw [shaped_of hs]
  have hother : (fieldAt c.input 0 1 == x.slot) = false := by simpa using hslot
  simp only [ho, hpres, hseal, hat, hd, bne_self_eq_false, hkey, hother, Bool.not_true, Bool.or_self, Bool.false_eq_true, if_false]
  cases Config.mldsaVerify key (sha3 x.bytes) (slice c.input 40 2420) <;>
    simp only [Bool.not_false, Bool.not_true, Bool.false_eq_true, if_true, if_false]

theorem proposalExpiryStep_of_over {s : State} {x : Proposal} (h : s.sec.pending = some x)
    (ht : x.t1 + 600_000_000_000 ≤ s.now) :
    proposalExpiryStep s =
      (({ s with sec := { s.sec with pending := none, lapsed := some x } } : State).showSec).event SEC_EVENT 3 := by
  unfold proposalExpiryStep
  rw [h]
  exact if_pos ht

/-- Settles O24. -/
theorem securityCommandsHaveTheirEffect : Obligations.SecurityCommandsHaveTheirEffect := by
  unfold Obligations.SecurityCommandsHaveTheirEffect
  refine ⟨?_, ?_, ?_, ?_, ?_, ?_, ?_, ?_, ?_⟩
  case refine_1 =>
    exact hostEffect_of_body bodyAttestReport (fun _ _ _ => rfl) (fun c u ho => by simp only [runBody, ho])
      (fun c u ⟨hs, hf⟩ => bodyAttestReport_eq hs hf)
  case refine_2 =>
    exact hostEffect_of_body bodyMeasureLogRead (fun _ _ _ => rfl) (fun c u ho => by simp only [runBody, ho])
      (fun c u ⟨hs, hn, hm⟩ => bodyMeasureLogRead_eq hs hn hm)
  case refine_3 =>
    exact hostEffect_of_body bodyOwnerClaim (fun _ _ _ => rfl) (fun c u ho => by simp only [runBody, ho])
      (fun c u ⟨hs, ho, hp, hk⟩ => bodyOwnerClaim_eq hs ho hp hk)
  case refine_4 =>
    exact fun key => hostEffect_of_body bodyProtectPropose (fun _ _ _ => rfl) (fun c u ho => by simp only [runBody, ho])
      (fun c u ⟨hpend, hat, ho, hpres, hseal, hz, hlen, hok, hkey⟩ => bodyProtectPropose_eq hpend hat ho hpres hseal hz hlen hok hkey)
  case refine_5 =>
    exact fun key x => hostEffect_of_body bodyProtectCosign (fun _ _ _ => rfl) (fun c u ho => by simp only [runBody, ho])
      (fun c u ⟨hs, hpend, ht, hat, ho, hpres, hseal, hd, hkey, hslot⟩ =>
        bodyProtectCosign_eq hs hpend ht hat ho hpres hseal hd hkey hslot)
  case refine_6 =>
    exact fun x => unitEffect_of (fun _ _ => rfl) (fun b ⟨h, ht⟩ => proposalExpiryStep_of_over h ht)
  case refine_7 =>
    exact fun asserted => powerEffect_of (fun _ _ => rfl) (fun b _ => if_congr beq_iff_eq rfl rfl)
  case refine_8 =>
    exact powerEffect_of (fun _ _ => rfl) (fun b h => if_neg (by simp [h]))
  case refine_9 =>
    exact powerEffect_of (fun _ _ => rfl) (fun b h => if_neg (by simp [h]))

end Sys2Proof.Machine
end

section
/-! Packets, and the commands that wait. -/

namespace Sys2Proof.Machine

/-! ### Packets -/

/-- What receives nothing but a reply, of a legal length and no event, is a reply. -/
theorem receive_of_reply {b : State} {op : Nat} {r : Req} {q : Qp} (hq : b.qp? r.qp = some q) (he : q.error = false)
    (hw : wholeReply r = true) : b.receive op r = b.replyArrives r := by
  unfold wholeReply at hw
  simp only [Bool.and_eq_true, Bool.not_eq_true', decide_eq_true_eq] at hw
  obtain ⟨⟨⟨hlo, hhi⟩, hev⟩, hrep⟩ := hw
  unfold State.receive
  rw [hq]
  dsimp only
  rw [he, if_neg (by simp), if_neg (by omega), if_neg (by omega), hev, if_neg (by simp), hrep, if_pos rfl]

theorem receive_of_request {b : State} {op : Nat} {r : Req} {q : Qp} (hq : b.qp? r.qp = some q) (he : q.error = false)
    (hw : requestPacket r = true) : b.receive op r = b.requestArrives q op r := by
  unfold requestPacket at hw
  simp only [Bool.and_eq_true, Bool.not_eq_true', decide_eq_true_eq] at hw
  obtain ⟨⟨⟨hlo, hhi⟩, hev⟩, hrep⟩ := hw
  unfold State.receive
  rw [hq]
  dsimp only
  rw [he, if_neg (by simp), if_neg (by omega), if_neg (by omega), hev, if_neg (by simp), hrep, if_neg (by simp)]

/-- A packet that the queue pair hears starts a command. -/
theorem receive_of_first {b : State} {op : Nat} {r : Req} {q : Qp} (hq : b.qp? r.qp = some q) (hh : q.hears r = true)
    (hw : requestPacket r = true) : b.receive op r = (b.listen r.qp).firstPacket q op r := by
  unfold Qp.hears at hh
  simp only [Bool.and_eq_true, Bool.not_eq_true', bne_iff_ne, Option.isNone_iff_eq_none] at hh
  obtain ⟨⟨he, hd⟩, ha⟩ := hh
  rw [receive_of_request hq he hw]
  unfold State.requestArrives
  rw [if_neg (by simpa using hd), ha]

/-- A packet of the tag of the command that is being assembled continues it. -/
theorem receive_of_later {b : State} {op : Nat} {r : Req} {q : Qp} {a : Assembly} (hq : b.qp? r.qp = some q)
    (hw : requestPacket r = true) (he : q.error = false) (hd : q.discard ≠ some r.tag) (ha : q.assembly = some a)
    (ht : a.first.tag = r.tag) : b.receive op r = (b.listen r.qp).laterPacket q a op r := by
  rw [receive_of_request hq he hw]
  unfold State.requestArrives
  rw [if_neg (by simpa using hd), ha]
  exact if_pos (by simpa using ht)

/-- An unknown opcode is what Table 2-12 finds of a packet that passes the checks before it. -/
theorem intakeRefusal_of_unknown {b : State} {op : Nat} {r : Req} {q : Qp} (hv : r.version = 0x10#8)
    (hl : lengthRefusal r (itemsBefore 513 (extOf r)) = none) (hf : r.flags.toNat / 16 = 0) (hst : r.status = 0)
    (hp : r.partition = q.partition) (hsvc : r.svc < 2) (ha : q.admits op = true) (hk : opcodeKnown op = false) :
    b.intakeRefusal q op r = some stUnknownOpcode := by
  unfold State.intakeRefusal
  dsimp only
  rw [if_neg (by simp [hv]), hl]
  dsimp only
  rw [if_neg (by simp [hf, hst]), if_neg (by simp [hp]), if_neg (by simp; omega), ha, if_neg (by simp), hk, if_pos (by simp)]

/-- Settles O25. -/
theorem packetsHaveTheirEffect : Obligations.PacketsHaveTheirEffect := by
  unfold Obligations.PacketsHaveTheirEffect
  refine ⟨?_, ?_, ?_, ?_, ?_, ?_, ?_, ?_⟩
  case refine_1 =>
    refine fun qp bytes => unitEffect_of (fun _ _ => rfl) (fun b ⟨hl, hlen, hm⟩ => ?_)
    unfold packetDiscardStep
    rw [hl, if_neg (by simp), if_neg (by omega), if_pos (by simpa using hm)]
  case refine_2 =>
    refine fun qp bytes => unitEffect_of (fun _ _ => rfl) (fun b ⟨hl, hlen⟩ => ?_)
    unfold packetDiscardStep
    rw [hl, if_neg (by simp), if_pos hlen]
  case refine_3 =>
    refine fun op r q => unitEffect_of (fun _ _ => rfl) (fun b ⟨hq, he, hw, hn⟩ => ?_)
    rw [receive_of_reply hq he hw]
    unfold State.replyArrives
    rw [hn]
  case refine_4 =>
    refine fun op r q x => unitEffect_of (fun _ _ => rfl) (fun b ⟨hq, he, hw, hm, hx⟩ => ?_)
    rw [receive_of_reply hq he hw]
    unfold State.replyArrives
    rw [hx]
    dsimp only
    rw [hm, if_neg (by simp)]
    exact if_congr beq_iff_eq rfl rfl
  case refine_5 =>
    refine fun op r q items => unitEffect_of (fun _ _ => rfl) (fun b ⟨hq, hm, hw, hh, hi, hp⟩ => ?_)
    rw [receive_of_first hq hh hw]
    unfold State.firstPacket
    rw [hi]
    dsimp only
    rw [hm, if_pos rfl, hp]
    rfl
  case refine_6 =>
    refine fun op r q a => unitEffect_of (fun _ _ => rfl) (fun b ⟨hq, hw, he, hd, ha, ht, hbr, hle, hm⟩ => ?_)
    rw [receive_of_later hq hw he hd ha ht]
    unfold State.laterPacket
    dsimp only
    rw [if_neg (by simp [hbr, hm]; omega), hm, if_pos rfl]
  case refine_7 =>
    refine fun op r q a => unitEffect_of (fun _ _ => rfl) (fun b ⟨hq, hw, he, hd, ha, ht, hbr, hle, hm⟩ => ?_)
    rw [receive_of_later hq hw he hd ha ht]
    unfold State.laterPacket
    dsimp only
    rw [if_neg (by simp [hbr, hm]; omega), hm, if_neg (by simp)]
  case refine_8 =>
    refine fun op r q => unitEffect_of (fun _ _ => rfl) (fun b ⟨hq, hw, hh, hv, hl, hf, hst, hp, hsvc, ha, hk⟩ => ?_)
    unfold wholeRequest at hw
    simp only [Bool.and_eq_true, Bool.not_eq_true'] at hw
    obtain ⟨hw, hm⟩ := hw
    rw [receive_of_first hq hh hw]
    unfold State.firstPacket
    rw [intakeRefusal_of_unknown hv hl hf hst hp hsvc ha hk]
    unfold State.refuseFragments
    rw [hm]
    rfl

/-! ### Waiting commands

EVENT_COALESCE_TIMER puts the stream that it has flushed into the sequence's entry. The statement of O26 flushes the stream of the entry
that it updates instead, where two entries bear one index and their streams differ. -/

/-- Two sequences of one entry, whose streams have a window that has ended; the streams differ in the number of events sent. -/
def twinSequences : State := { State.reset with
  pwr := { phase := .running }
  seqs := [{ stream := { window := some (0, 0, 0) } }, { stream := { window := some (0, 0, 0), seqNo := 1 } }] }

theorem twinSequences_acts : twinSequences.acts 0 = true := by decide

theorem twinSequences_begun : twinSequences.begun 0 = twinSequences := begun_of_quiet twinSequences_acts (by decide)

theorem twinSequences_waits : NothingWaits twinSequences := ⟨rfl, rfl, rfl, by decide, by decide⟩

/-- The stream that has been flushed goes into both entries. -/
theorem twinSequences_flushed :
    (eventCoalesceTimerStep (.sequence (Seq.handle {})) twinSequences).seqs.map (fun q => q.stream.seqNo) = [0, 0] := by decide

theorem NothingWaits.ended_seqs {u : State} (h : NothingWaits u) (s : State) : (s.ended u).seqs = u.seqs := by
  obtain ⟨frames, he⟩ := h.ended s
  rw [he]

/-- Refutes O26: EVENT_COALESCE_TIMER puts the flushed stream of the sequence that its handle names into every entry of its index, and
not the flushed stream of that entry: with two sequences of one index, the second loses its count of events. -/
theorem not_waitingCommandsGoOn : ¬ Obligations.WaitingCommandsGoOn := by
  unfold Obligations.WaitingCommandsGoOn
  intro h
  obtain ⟨-, -, -, -, htimer, -⟩ := h
  have hstep := htimer (Seq.handle {}) { stream := { window := some (0, 0, 0) } } twinSequences 0 twinSequences_acts (by
    rw [twinSequences_begun]
    exact ⟨by decide, by decide, rfl⟩)
  have hexec : exec (.eventCoalesceTimer 0 (.sequence (Seq.handle {}))) twinSequences =
    .next (runAt 0 (eventCoalesceTimerStep (.sequence (Seq.handle {}))) twinSequences) := rfl
  rw [hexec, runAt_acts _ twinSequences_acts, twinSequences_begun] at hstep
  injection hstep with hstate
  have hseqs := congrArg State.seqs hstate
  have hwait : NothingWaits (eventCoalesceTimerStep (.sequence (Seq.handle {})) twinSequences) :=
    ⟨by decide, by decide, by decide, by decide, by decide⟩
  rw [hwait.ended_seqs, NothingWaits.ended_seqs ⟨by decide, by decide, by decide, by decide, by decide⟩] at hseqs
  exact absurd (twinSequences_flushed.symm.trans (congrArg (List.map fun q => q.stream.seqNo) hseqs)) (by decide)

end Sys2Proof.Machine
end

section
/-! Queue telemetry. -/

namespace Sys2Proof.Machine

theorem bodyTelemetryRead_eq {c : Cmd} {u : State} (ha : u.admin c.hdr.partition = true) (hs : shapedAs c 8 [(3, 5)] = true)
    (hf : fieldAt c.input 2 1 < 2) (hn : 0 < fieldAt c.input 1 1) (hm : fieldAt c.input 0 1 + fieldAt c.input 1 1 ≤ 72) :
    bodyTelemetryRead c u =
      let qs := (List.range (fieldAt c.input 1 1)).map (fun i => fieldAt c.input 0 1 + i)
      let data := toLE 4 (fieldAt c.input 1 1) ++ zeros 4 ++ qs.flatMap (fun q => u.queueReport q)
      (if fieldAt c.input 2 1 = 1 ∧ c.replyRef.any (fun r => decide (r.len < data.length)) = false
        then qs.foldl (fun s q => s.clearQueue q) u else u).replyData c stOk [] data := by
  unfold bodyTelemetryRead
  rw [ha, if_neg (by simp), shaped_of hs]
  dsimp only
  rw [if_neg (by omega), if_neg (by simp; omega)]
  simp only [Bool.and_eq_true, beq_iff_eq, Bool.not_eq_true']

theorem bodyTelemetrySubscribe_open {c : Cmd} {u : State} (ha : u.admin c.hdr.partition = true)
    (hs : shapedAs c 12 [(7, 1)] = true) (hf : fieldAt c.input 6 1 = 0) (hlo : 10 ≤ fieldAt c.input 0 4)
    (hhi : fieldAt c.input 0 4 ≤ 1_000_000) (hn : 0 < fieldAt c.input 5 1) (hm : fieldAt c.input 4 1 + fieldAt c.input 5 1 ≤ 72)
    (hroom : u.telems.length < 8) :
    bodyTelemetrySubscribe c u =
      let us := fieldAt c.input 0 4
      let n := fieldAt c.input 5 1
      let x : Telem :=
        { handle := u.telemSeq + 1, cmd := c.id, stream := { hdr := c.hdr, kind := 2 }, period := us * 1000
          first := fieldAt c.input 4 1, count := n, start := u.now / (us * 1000) * (us * 1000)
          acc := List.replicate n (0, 0, 0, 0) }
      ({ u with telems := u.telems ++ [x], telemSeq := u.telemSeq + 1 } : State).sendReply c.hdr stOk []
        (toLE 4 (u.telemSeq + 1) ++ zeros 4) := by
  unfold bodyTelemetrySubscribe
  rw [ha, if_neg (by simp), shaped_of hs]
  dsimp only
  rw [if_neg (by omega), if_neg (by simp [hf]), if_neg (by simp; omega), if_neg (by omega)]

theorem bodyTelemetrySubscribe_close {c : Cmd} {u : State} (ha : u.admin c.hdr.partition = true)
    (hs : shapedAs c 12 [(7, 1)] = true) (hf : fieldAt c.input 6 1 = 1)
    (hh : u.telems.any (fun x => x.handle == fieldAt c.input 8 4) = true) :
    bodyTelemetrySubscribe c u = (u.endTelem (fieldAt c.input 8 4) stOk).refuse c stOk := by
  unfold bodyTelemetrySubscribe
  rw [ha, if_neg (by simp), shaped_of hs]
  dsimp only
  rw [if_neg (by omega), if_pos (by simp [hf]), if_pos hh]

/-- No window of a stream ends where each is still in progress. -/
theorem endTelemWindows_of_open {b : State} (h : ∀ x ∈ b.telems, b.now < x.start + x.period) : b.endTelemWindows = b := by
  unfold State.endTelemWindows
  refine foldl_fixed_of_mem (fun x hx => ?_)
  have hzero : (b.now - x.start) / x.period = 0 := by
    have hx := h x hx
    rw [Nat.div_eq_zero_iff]
    simp only [Stamp] at *
    omega
  rw [hzero, List.range_zero, List.foldl_nil]

theorem queueTelemetrySampleStep_eq {b : State} (he : b.bit QTL_CTRL 0 = true) (h : ∀ x ∈ b.telems, b.now < x.start + x.period) :
    queueTelemetrySampleStep b =
      let s1 := ((List.range 72).map (fun q => b.queueSample q)).zipIdx.foldl (fun s v => s.sampleQueue v.2 v.1) b
      { s1 with freeCtr := s1.freeCtr + 144 } := by
  unfold queueTelemetrySampleStep
  rw [he, if_neg (by simp), endTelemWindows_of_open h]

theorem telemetryWindowEndStep_eq {b : State} {h : Nat} {x : Telem} (hx : b.telems.find? (fun x => x.handle == h) = some x)
    (ht : x.start + x.period ≤ b.now) :
    telemetryWindowEndStep h b =
      let items := x.acc.zipIdx.map (fun (a : (Nat × Nat × Nat × Nat) × Nat) =>
        toLE 8 x.start ++ toLE 2 (x.first + a.2) ++ zeros 2 ++ toLE 4 a.1.1 ++ toLE 4 a.1.2.1 ++
          toLE 4 (if a.1.2.2.2 = 0 then Config.freeBelow (b.freeCtr + a.2) (2 ^ 32) else a.1.2.2.1 / a.1.2.2.2))
      let r := items.foldl (fun (y : State × Stream) i => y.1.holdItem y.2 (i, [])) (b, x.stream)
      { r.1 with
        telems := updateWhere r.1.telems (fun t => t.handle == h) (fun _ =>
          { x with stream := r.2, start := x.start + x.period, acc := List.replicate x.count (0, 0, 0, 0) })
        freeCtr := r.1.freeCtr + x.count } := by
  unfold telemetryWindowEndStep
  rw [hx]
  refine (if_neg (Nat.not_lt.mpr ht)).trans ?_
  simp only [beq_iff_eq]

/-- Settles O27. -/
theorem telemetryCommandsHaveTheirEffect : Obligations.TelemetryCommandsHaveTheirEffect := by
  unfold Obligations.TelemetryCommandsHaveTheirEffect
  refine ⟨?_, ?_, ?_, ?_, ?_⟩
  case refine_1 =>
    exact hostEffect_of_body bodyTelemetryRead (fun _ _ _ => rfl) (fun c u ho => by simp only [runBody, ho])
      (fun c u ⟨ha, hs, hf, hn, hm⟩ => bodyTelemetryRead_eq ha hs hf hn hm)
  case refine_2 =>
    exact hostEffect_of_body bodyTelemetrySubscribe (fun _ _ _ => rfl) (fun c u ho => by simp only [runBody, ho])
      (fun c u ⟨ha, hs, hf, hlo, hhi, hn, hm, hroom⟩ => bodyTelemetrySubscribe_open ha hs hf hlo hhi hn hm hroom)
  case refine_3 =>
    exact hostEffect_of_body bodyTelemetrySubscribe (fun _ _ _ => rfl) (fun c u ho => by simp only [runBody, ho])
      (fun c u ⟨ha, hs, hf, hh⟩ => bodyTelemetrySubscribe_close ha hs hf hh)
  case refine_4 =>
    exact unitEffect_of (fun _ _ => rfl) (fun b ⟨he, h⟩ => queueTelemetrySampleStep_eq he h)
  case refine_5 =>
    exact fun h x => unitEffect_of (fun _ _ => rfl) (fun b ⟨hx, ht⟩ => telemetryWindowEndStep_eq hx ht)

end Sys2Proof.Machine
end

section
/-! The transport, and the traffic of a list. -/

namespace Sys2Proof.Machine

/-! ### The transport -/

/-- Access to module memory is checked against the key of the queue pair. -/
theorem rdmaWriteReceiveStep_of_open {b : State} {qp rkey addr : Nat} {data : List Byte} {q : Qp} (hq : b.qp? qp = some q)
    (he : q.error = false) (hk : q.opens rkey = true)
    (ho : b.memOpen q.partition q.ctx addr data.length = true ∨ b.collOpen q.partition addr data.length = true) :
    rdmaWriteReceiveStep qp rkey addr data b = (b.store addr data).emit (.ack qp) := by
  unfold rdmaWriteReceiveStep
  rw [hq]
  exact (if_neg (by simp [he])).trans (if_pos (by simpa [hk] using ho))

theorem rdmaWriteReceiveStep_of_closed {b : State} {qp rkey addr : Nat} {data : List Byte} {q : Qp} (hq : b.qp? qp = some q)
    (he : q.error = false) (hk : q.opens rkey = false) : rdmaWriteReceiveStep qp rkey addr data b = b.nak qp .remoteAccess := by
  unfold rdmaWriteReceiveStep
  rw [hq]
  exact (if_neg (by simp [he])).trans (if_neg (by simp [hk]))

theorem rdmaReadReceiveStep_of_open {b : State} {qp rkey addr len : Nat} {q : Qp} (hq : b.qp? qp = some q) (he : q.error = false)
    (hk : q.opens rkey = true) (ho : b.memOpen q.partition q.ctx addr len = true) (hu : b.isUe addr len = false) :
    rdmaReadReceiveStep qp rkey addr len b = (b.readCe addr len).emit (.readResponse qp (b.bytes addr len)) := by
  unfold rdmaReadReceiveStep
  rw [hq]
  exact (if_neg (by simp [he])).trans ((if_pos (by simp [hk, ho])).trans (if_neg (by simp [hu])))

/-- A packet of a queue pair without a meter is progress where the receive buffer, whose filling is free, has room for it. -/
theorem rocePacketReceiveStep_of_unmetered {b : State} {k : RocePacket} {q : Qp} (hq : b.qp? k.qp = some q) (hm : q.field 7 1 ≠ 1)
    (he : q.error = false) (hs : k.supported = true) :
    rocePacketReceiveStep k b =
      if Config.freeBelow b.freeCtr (rxBuffer + 1) + k.len ≤ rxBuffer then
        let s1 := b.tick.setQp k.qp (fun q => { q with retries := 0, rnrTries := 0 })
        if k.ce then s1.sendCnp k.qp else s1
      else b.tick.bump (NET_LIST_CNT q.list) 63 32 1 := by
  have hm' : (q.field 7 1 == 1) = false := by simpa using hm
  unfold rocePacketReceiveStep
  rw [hq]
  simp only [hm', he, hs, Bool.not_true, Bool.false_eq_true, if_false]
  by_cases hroom : Config.freeBelow b.freeCtr (rxBuffer + 1) + k.len ≤ rxBuffer
  · rw [if_pos hroom, if_neg (by simpa using hroom)]
  · rw [if_neg hroom, if_pos (by simpa using hroom)]

/-- A packet that its meter drops is counted. -/
theorem rocePacketReceiveStep_of_dropped {b : State} {k : RocePacket} {q : Qp} (hq : b.qp? k.qp = some q) (hm : q.field 7 1 = 1)
    (hd : (b.metered (q.field 8 2) k.len k.dscp).2 = none) :
    rocePacketReceiveStep k b = (b.metered (q.field 8 2) k.len k.dscp).1.bump (NET_LIST_CNT q.list) 63 32 1 := by
  have hpair : b.metered (q.field 8 2) k.len k.dscp = ((b.metered (q.field 8 2) k.len k.dscp).1, none) := Prod.ext rfl hd
  unfold rocePacketReceiveStep
  rw [hq]
  dsimp only
  rw [hm, beq_self_eq_true, if_pos rfl, hpair]

theorem localAckTimeoutStep_of_live {b : State} {qp : Nat} {q : Qp} (hq : b.qp? qp = some q) (he : q.error = false) :
    localAckTimeoutStep qp b =
      if q.field 11 1 % 8 ≤ q.retries then b.qpLoss qp
      else (b.setQp qp (fun q => { q with retries := q.retries + 1 })).emit (.retransmit qp) := by
  unfold localAckTimeoutStep
  rw [hq]
  exact if_neg (by simp [he])

/-- A sound descriptor within the partition's limits creates its queue pair. -/
theorem qpCreateStep_eq {b : State} (hn : b.qp? (descField b.qpDesc 0 2) = none) (hok : descOk b.qpDesc = true)
    (hp : b.partState (descField b.qpDesc 2 1 % 16) = 1 ∨ b.partState (descField b.qpDesc 2 1 % 16) = 2)
    (hl : (b.qpsOf (descField b.qpDesc 2 1 % 16)).length < (b.part (descField b.qpDesc 2 1 % 16)).assign.qpLimit)
    (hc : b.ctxState (descField b.qpDesc 2 1 % 16) (descField b.qpDesc 2 1 / 16) ≠ 0)
    (hm : descField b.qpDesc 7 1 = 1 →
      (b.part (descField b.qpDesc 2 1 % 16)).assign.meterFirst ≤ descField b.qpDesc 8 2 ∧
      descField b.qpDesc 8 2 <
        (b.part (descField b.qpDesc 2 1 % 16)).assign.meterFirst + (b.part (descField b.qpDesc 2 1 % 16)).assign.meterCount) :
    qpCreateStep b =
      let f := descField b.qpDesc
      let r := b.lineRate (f 3 1)
      let q : Qp :=
        { index := f 0 2, partition := f 2 1 % 16, ctx := f 2 1 / 16, desc := b.qpDesc, rate := r, target := r, rateEnd := b.now }
      ({ b with qps := b.qps ++ [q] } : State).qpResult 1 0 := by
  have hstate : b.partState (descField b.qpDesc 2 1 % 16) ≠ 0 ∧ b.partState (descField b.qpDesc 2 1 % 16) ≠ 3 := by omega
  have hmeter : ¬ (descField b.qpDesc 7 1 == 1 && !(decide ((b.part (descField b.qpDesc 2 1 % 16)).assign.meterFirst ≤
      descField b.qpDesc 8 2) && decide (descField b.qpDesc 8 2 < (b.part (descField b.qpDesc 2 1 % 16)).assign.meterFirst +
        (b.part (descField b.qpDesc 2 1 % 16)).assign.meterCount))) = true := by
    intro h
    simp only [Bool.and_eq_true, beq_iff_eq, Bool.not_eq_true', Bool.and_eq_false_iff, decide_eq_false_iff_not] at h
    have := hm h.1
    omega
  unfold qpCreateStep
  exact (if_neg (by simp [hn])).trans ((if_neg (by simp; omega)).trans ((if_neg (by simp [hok])).trans
    ((if_neg (by simp [hstate, hc])).trans (if_neg hmeter))))

/-- Settles O28. -/
theorem transportCommandsHaveTheirEffect : Obligations.TransportCommandsHaveTheirEffect := by
  unfold Obligations.TransportCommandsHaveTheirEffect
  refine ⟨?_, ?_, ?_, ?_, ?_, ?_, ?_, ?_, ?_, ?_, ?_, ?_, ?_, ?_, ?_⟩
  case refine_1 =>
    exact fun qp rkey addr data q => unitEffect_of (fun _ _ => rfl)
      (fun b ⟨hq, he, hk, ho⟩ => rdmaWriteReceiveStep_of_open hq he hk ho)
  case refine_2 =>
    exact fun qp rkey addr len q => unitEffect_of (fun _ _ => rfl)
      (fun b ⟨hq, he, hk, ho, hu⟩ => rdmaReadReceiveStep_of_open hq he hk ho hu)
  case refine_3 =>
    exact fun qp rkey addr data q => unitEffect_of (fun _ _ => rfl)
      (fun b ⟨hq, he, hk⟩ => rdmaWriteReceiveStep_of_closed hq he hk)
  case refine_4 =>
    exact fun k q => unitEffect_of (fun _ _ => rfl) (fun b ⟨hq, hm, he, hs⟩ => rocePacketReceiveStep_of_unmetered hq hm he hs)
  case refine_5 =>
    exact fun k q => unitEffect_of (fun _ _ => rfl) (fun b ⟨hq, hm, hd⟩ => rocePacketReceiveStep_of_dropped hq hm hd)
  case refine_6 =>
    refine fun qp timer q => unitEffect_of (fun _ _ => rfl) (fun b ⟨hq, he, hl⟩ => ?_)
    unfold rnrNakReceiveStep
    rw [hq]
    exact (if_neg (by simp [he])).trans (if_neg (by simp; omega))
  case refine_7 =>
    refine fun qp till => unitEffect_of (fun _ _ => rfl) (fun b ⟨hq, ht⟩ => ?_)
    unfold rnrTimerExpiryStep
    rw [hq]
    exact if_pos ht
  case refine_8 =>
    exact fun qp k => unitEffect_of (fun _ _ => rfl) (fun _ _ => rfl)
  case refine_9 =>
    exact fun qp q => unitEffect_of (fun _ _ => rfl)
      (fun b ⟨hq, he, hr⟩ => (localAckTimeoutStep_of_live hq he).trans (if_neg (Nat.not_le.mpr hr)))
  case refine_10 =>
    exact fun qp q => unitEffect_of (fun _ _ => rfl) (fun b ⟨hq, he, hr⟩ => (localAckTimeoutStep_of_live hq he).trans (if_pos hr))
  case refine_11 =>
    exact fun qp => unitEffect_of (fun _ _ => rfl) (fun _ _ => rfl)
  case refine_12 =>
    exact fun qp => unitEffect_of (fun _ _ => rfl) (fun _ _ => rfl)
  case refine_13 =>
    exact unitEffect_of (fun _ _ => rfl) (fun b ⟨hn, hok, hp, hl, hc, hm⟩ => qpCreateStep_eq hn hok hp hl hc hm)
  case refine_14 =>
    refine fun q => unitEffect_of (fun _ _ => rfl) (fun b hq => ?_)
    unfold qpDestroyStep
    dsimp only
    rw [hq]
  case refine_15 =>
    refine fun q => unitEffect_of (fun _ _ => rfl) (fun b hq => ?_)
    unfold qpReadBackStep
    rw [hq]

/-! ### Traffic -/

theorem frameTransmitStep_of_ready {b : State} {l cls a z : Nat} {f : Frame}
    (hc : (List.range 8).all (fun c => decide (c ≤ cls) || (b.frameReady l c).isNone) = true)
    (hf : b.frameReady l cls = some (f, a, z)) :
    frameTransmitStep l cls b =
      let s1 := { b with
        egress := b.egress.erase f, lineAt := assocSet b.lineAt l z, served := assocSet b.served (8 * l + cls) (granted ((assoc b.served (8 * l + cls)).getD []) f.qp) }
      (s1.setQp f.qp (fun q => { q with paceAt := a + ((f.len * 8_000_000 : Rat) / q.rate).ceil.toNat })).emit
        (.frame l cls f.tos f.len) := by
  have hfirst : ¬ (List.range 8).any (fun c => decide (cls < c) && (b.frameReady l c).isSome) = true := by
    rw [List.any_eq_true]
    rintro ⟨c, hmem, h⟩
    have hall := List.all_eq_true.mp hc c hmem
    simp only [Bool.and_eq_true, Bool.or_eq_true, decide_eq_true_eq, Option.isSome_iff_ne_none, Option.isNone_iff_eq_none] at h hall
    exact hall.elim (fun hle => absurd h.1 (Nat.not_lt.mpr hle)) h.2
  unfold frameTransmitStep
  rw [if_neg hfirst, hf]

theorem gateConfigChangeStep_of_sound {b : State} {l : Nat} (hlo : 0 < b.fld (GATE_CTRL l) 31 23) (hhi : b.fld (GATE_CTRL l) 31 23 ≤ 256)
    (hcyc : 1000 ≤ b.fld (GATE_CYCLE l) 31 0)
    (hsum : sumNat (((List.range (b.fld (GATE_CTRL l) 31 23)).map (fun e => b.raw (GATE_ENTRY l e))).map
      (fun (e : Reg) => e.toNat % 2 ^ 32)) = b.fld (GATE_CYCLE l) 31 0) :
    gateConfigChangeStep l b =
      let cyc := b.fld (GATE_CYCLE l) 31 0
      let base := (b.raw (GATE_BASE l)).toNat
      (b.setGate l (fun g => { g with
        pending := some ⟨cycleFrom base cyc (b.now + 10_000), base, cyc,
          (List.range (b.fld (GATE_CTRL l) 31 23)).map (fun e => b.raw (GATE_ENTRY l e))⟩ })).setFld (GATE_CTRL l) 2 2 1 := by
  unfold gateConfigChangeStep
  exact if_neg (by rw [hsum]; simp; omega)

/-- Settles O29. -/
theorem trafficCommandsHaveTheirEffect : Obligations.TrafficCommandsHaveTheirEffect := by
  unfold Obligations.TrafficCommandsHaveTheirEffect
  refine ⟨?_, ?_, ?_, ?_, ?_⟩
  case refine_1 =>
    exact fun l cls f a z => unitEffect_of (fun _ _ => rfl) (fun b ⟨hc, hf⟩ => frameTransmitStep_of_ready hc hf)
  case refine_2 =>
    exact fun l => unitEffect_of (fun _ _ => rfl) (fun b h => if_pos h)
  case refine_3 =>
    exact fun l => unitEffect_of (fun _ _ => rfl) (fun b ⟨hlo, hhi, hcyc, hsum⟩ => gateConfigChangeStep_of_sound hlo hhi hcyc hsum)
  case refine_4 =>
    refine fun l c => unitEffect_of (fun _ _ => rfl) (fun b ⟨hc, ht⟩ => ?_)
    unfold gateConfigInstallStep
    rw [hc]
    exact if_neg (Nat.not_lt.mpr ht)
  case refine_5 =>
    exact unitEffect_of (fun _ _ => rfl) (fun _ _ => rfl)

end Sys2Proof.Machine
end

section
/-! Frames that a list answers itself, management access, register writes, and links. -/

namespace Sys2Proof.Machine

theorem answer_of_own {b : State} {l : Nat} {q : NetQuery} {own data : List Byte} (hl : b.linkUp l = true) (ht : q.target = own) :
    b.answer l q own data = b.emit (.netAnswer l q.source data) := by
  unfold State.answer
  exact (if_neg (by simp [hl])).trans (if_pos (by simp [ht]))

/-- A datagram that no source's last one precedes wrongly is carried out if it is authentic, and rejected otherwise. -/
theorem mgmtAccess_of_new {b : State} {op : Nat} {d : MgmtDatagram} (hs : b.mgmtServed = true) (hd : mgmtShape op d = true)
    (hn : b.sec.sources.all (fun x => !(x.addr == d.source && x.port == d.port) || decide (x.seq < d.seq)) = true) :
    b.mgmtAccess op d = if b.mgmtAuth op d then b.mgmtRun op d else b.mgmtReject op d := by
  have hrun : (match b.sec.sources.find? (fun x => x.addr == d.source && x.port == d.port) with
      | some x =>
        if d.seq == x.seq then (b.keepAnswer d x.answer).emit (.mgmtAnswer d.source d.port x.answer)
        else if d.seq < x.seq then b.mgmtReject op d
        else b.mgmtRun op d
      | none => b.mgmtRun op d) = b.mgmtRun op d := by
    split
    · next x hx =>
      have hnew := List.all_eq_true.mp hn x (List.mem_of_find?_eq_some hx)
      have hsrc : (x.addr == d.source && x.port == d.port) = true := by
        have hfound := List.find?_some hx
        exact hfound
      rw [hsrc, Bool.not_true, Bool.false_or, decide_eq_true_eq] at hnew
      rw [if_neg (by simp; omega), if_neg (by omega)]
    · rfl
  unfold State.mgmtAccess
  rw [if_neg (by simp [hs]), if_neg (by simp [hd])]
  cases hauth : b.mgmtAuth op d
  · rw [if_pos (by rfl), if_neg (by simp)]
  · rw [if_neg (by simp), if_pos rfl]
    exact hrun

theorem mgmtReadStep_of_new {b : State} {d : MgmtDatagram} (hs : b.mgmtServed = true) (hd : mgmtShape 1 d = true)
    (hn : b.sec.sources.all (fun x => !(x.addr == d.source && x.port == d.port) || decide (x.seq < d.seq)) = true) :
    mgmtReadStep d b =
      if b.mgmtAuth 1 d then
        let r := mgmtReadAll d.count d.first b
        let bytes := mgmtBytes 129 r.2.1.length d.seq d.first r.1 r.2.1
        (r.2.2.keepAnswer d (bytes ++ kmac b.sec.cfg.mgmtKey bytes)).emit
          (.mgmtAnswer d.source d.port (bytes ++ kmac b.sec.cfg.mgmtKey bytes))
      else (b.bump SEC_FAIL_CNT 63 32 1).emit (.mgmtAnswer d.source d.port (mgmtBytes 129 0 d.seq d.first 3 [] ++ zeros 16)) :=
  mgmtAccess_of_new hs hd hn

theorem mgmtWriteStep_of_new {b : State} {d : MgmtDatagram} (hs : b.mgmtServed = true) (hd : mgmtShape 2 d = true)
    (hn : b.sec.sources.all (fun x => !(x.addr == d.source && x.port == d.port) || decide (x.seq < d.seq)) = true) :
    mgmtWriteStep d b =
      if b.mgmtAuth 2 d then
        let r := mgmtWriteAll d.words d.first 0 b
        let bytes := mgmtBytes 130 r.2.1 d.seq d.first r.1 []
        (r.2.2.keepAnswer d (bytes ++ kmac b.sec.cfg.mgmtKey bytes)).emit
          (.mgmtAnswer d.source d.port (bytes ++ kmac b.sec.cfg.mgmtKey bytes))
      else (b.bump SEC_FAIL_CNT 63 32 1).emit (.mgmtAnswer d.source d.port (mgmtBytes 130 0 d.seq d.first 3 [] ++ zeros 16)) :=
  mgmtAccess_of_new hs hd hn

/-- A misaligned access to a register has no effect of its own. -/
theorem csrWriteStep_of_misaligned {b : State} {src : CsrWriter} {a : Nat} {v : Reg} (ha : inCsr a = true) (hm : a % 8 ≠ 0) :
    csrWriteStep src a v b = match src with
      | .core c => coreExceptionStep c .busError b
      | .management => b := by
  unfold csrWriteStep
  rw [if_neg (by simp [hm])]
  cases src with
  | core c => exact if_pos (by simp [ha])
  | management => rfl

theorem any_eq_of_all_ne {α : Type} {l : List α} {f : α → Nat} {n : Nat} (h : l.all (fun x => f x != n) = true) :
    l.any (fun x => f x == n) = false := by
  simpa using h

/-- A change of BREAKOUT restarts both lists of a data port. -/
theorem breakoutChangeStep_of_free {b : State} {port : Nat} {v : Reg} (hp : port < 4) (hv : v.getLsbD 1 ≠ b.bit (NET_PORT port) 1)
    (hq : b.qps.all (fun q => q.list / 2 != port) = true) :
    breakoutChangeStep port v b =
      ((b.linkDown (2 * port)).linkDown (2 * port + 1)).setFld (NET_PORT port) 1 1 (if v.getLsbD 1 then 1 else 0) := by
  have hbit : (v.getLsbD 1 == b.bit (NET_PORT port) 1) = false := by rw [beq_eq_false_iff_ne]; exact hv
  have hlists : portLists port = [2 * port, 2 * port + 1] := by
    unfold portLists
    rw [if_neg (by simp; omega)]
  unfold breakoutChangeStep
  rw [if_neg (by rw [hbit, any_eq_of_all_ne hq]; simp; omega), hlists, List.foldl_cons, List.foldl_cons, List.foldl_nil]

theorem mgmtLinkFallbackStep_of_down {b : State} (hl : b.linkUp 8 = false) (hc : b.bit NET_CTRL 1 = true)
    (ht : b.mgmtDown + 2_000_000_000 ≤ b.now) : mgmtLinkFallbackStep b = { b with mgmt10 := true } := by
  have hover : decide (b.now < b.mgmtDown + 2_000_000_000) = false := decide_eq_false (Nat.not_lt.mpr ht)
  unfold mgmtLinkFallbackStep
  simp only [hl, hc, hover, Bool.not_true, Bool.or_self, Bool.false_eq_true, if_false]

theorem linkChangeStep_down (l : Nat) (b : State) : linkChangeStep l .down b = b.linkDown l := by
  unfold linkChangeStep
  exact if_pos (beq_self_eq_true _)

/-- Settles O30. -/
theorem linkCommandsHaveTheirEffect : Obligations.LinkCommandsHaveTheirEffect := by
  unfold Obligations.LinkCommandsHaveTheirEffect
  refine ⟨?_, ?_, ?_, ?_, ?_, ?_, ?_, ?_, ?_, ?_, ?_, ?_, ?_⟩
  case refine_1 =>
    exact fun l q => unitEffect_of (fun _ _ => rfl) (fun b ⟨hl, ht⟩ => answer_of_own hl ht)
  case refine_2 =>
    exact fun l q => unitEffect_of (fun _ _ => rfl) (fun b ⟨hl, ht⟩ => answer_of_own hl ht)
  case refine_3 =>
    exact fun l q => unitEffect_of (fun _ _ => rfl)
      (fun b ⟨hl, ht⟩ => answer_of_own hl (ht.trans (if_congr beq_iff_eq.symm rfl rfl)))
  case refine_4 =>
    exact fun l n => unitEffect_of (fun _ _ => rfl) (fun _ _ => rfl)
  case refine_5 =>
    exact fun d => unitEffect_of (fun _ _ => rfl) (fun b ⟨hs, hd, hn⟩ => mgmtReadStep_of_new hs hd hn)
  case refine_6 =>
    exact fun d => unitEffect_of (fun _ _ => rfl) (fun b ⟨hs, hd, hn⟩ => mgmtWriteStep_of_new hs hd hn)
  case refine_7 =>
    exact fun src a v => unitEffect_of (fun _ _ => rfl) (fun b ⟨ha, hm⟩ => if_pos (by simp [ha, hm]))
  case refine_8 =>
    exact fun a v => unitEffect_of (fun _ _ => rfl) (fun b ⟨ha, hm⟩ => csrWriteStep_of_misaligned ha hm)
  case refine_9 =>
    exact fun core a v => unitEffect_of (fun _ _ => rfl)
      (fun b ⟨ha, hm, hc⟩ => (csrWriteStep_of_misaligned ha hm).trans (if_pos (by simp [hc])))
  case refine_10 =>
    exact fun port v => unitEffect_of (fun _ _ => rfl) (fun b ⟨hp, hv, hq⟩ => breakoutChangeStep_of_free hp hv hq)
  case refine_11 =>
    refine fun l rate => unitEffect_of (fun _ _ => rfl) (fun b ⟨hr, hl, hf⟩ => ?_)
    unfold bootLinkChangeStep linkChangeStep
    rw [if_neg (by simpa using hr), if_neg (by simp [hl, hf])]
  case refine_12 =>
    exact fun l => unitEffect_of (fun _ _ => rfl) (fun b _ => congrArg State.discover (linkChangeStep_down l b))
  case refine_13 =>
    exact unitEffect_of (fun _ _ => rfl) (fun b ⟨hl, hc, ht⟩ => mgmtLinkFallbackStep_of_down hl hc ht)

end Sys2Proof.Machine
end

section
/-! Device time and the PTP units. -/

namespace Sys2Proof.Machine

/-- The unit follows a time transmitter: it acquires or is locked. -/
theorem ptp_follows {b : State} (hs : b.ptpState = 1 ∨ b.ptpState = 2) : (b.ptpState == 1 || b.ptpState == 2) = true := by
  simpa using hs

/-- An offset of a step or more: device time is stepped or slewed, and the servo starts afresh. -/
theorem ptpExchangeStep_of_step {b : State} {o : Int} {skip : State → State} (he : b.bit PTP_CTRL 0 = true)
    (hs : b.ptpState = 1 ∨ b.ptpState = 2) (ho : b.fld PTP_SERVO 31 20 * 1000 ≤ o.natAbs) :
    ptpExchangeStep skip o b =
      let adj : Int := if o < 0 then b.ptp.adj else -(b.fld PTP_SERVO 9 0 * 1000 * 65536 : Int)
      let s1 := (((b.setRaw PTP_OFFSET (BitVec.ofInt 64 o)).setPtp (fun p => { p with
        integ := 0, adj := adj, offs := (o :: b.ptp.offs).take 16, adjs := (adj :: p.adjs).take 16 })).setFld PTP_STATUS 41 40 1).showFreq
      if o < 0 then skip (({ s1 with now := s1.now + o.natAbs } : State).event PTP_EVENT 2) else s1 := by
  unfold ptpExchangeStep
  exact (if_neg (by rw [he, ptp_follows hs]; simp)).trans (if_pos (by exact_mod_cast ho))

/-- A smaller offset goes to the servo, and 16 of them in bounds lock it. -/
theorem ptpExchangeStep_of_servo {b : State} {o : Int} {skip : State → State} (he : b.bit PTP_CTRL 0 = true)
    (hs : b.ptpState = 1 ∨ b.ptpState = 2) (ho : o.natAbs < b.fld PTP_SERVO 31 20 * 1000) :
    ptpExchangeStep skip o b =
      let offs := (o :: b.ptp.offs).take 16
      let integ := clampInt (b.ptp.integ + b.fld PTP_SERVO 47 32 * o) (-servoBound) servoBound
      let adj := clampInt (-(b.fld PTP_SERVO 63 48 * o + integ)) (-servoBound) servoBound
      let s1 := ((b.setRaw PTP_OFFSET (BitVec.ofInt 64 o)).setPtp (fun p => { p with
        integ := integ, adj := adj, offs := offs, adjs := (adj :: p.adjs).take 16 })).showFreq
      if b.ptpState = 1 ∧ offs.length = 16 ∧ offs.all (fun (x : Int) => decide (x.natAbs < b.fld PTP_SERVO 19 10)) = true then
        ((s1.setFld PTP_STATUS 41 40 2).event PTP_EVENT 0).setReady rdyTime true
      else s1 := by
  have hone : (b.ptpState != 2) = true ↔ b.ptpState = 1 := by rw [bne_iff_ne]; omega
  unfold ptpExchangeStep
  refine (if_neg (by rw [he, ptp_follows hs]; simp)).trans ((if_neg (by exact_mod_cast Nat.not_le.mpr ho)).trans ?_)
  exact if_congr (by rw [Bool.and_eq_true, Bool.and_eq_true, hone, beq_iff_eq, and_assoc]) rfl rfl

theorem announceTimeoutStep_of_silence {b : State} (hs : b.ptpState = 1 ∨ b.ptpState = 2)
    (ht : b.ptp.announce + b.fld PTP_CTRL 31 24 * b.ptp.interval ≤ b.now) :
    announceTimeoutStep b = ((((b.setPtp (fun p => { p with adj := p.mean })).showFreq.setFld PTP_STATUS 41 40 3).setFld
      PTP_STATUS 35 32 15).event PTP_EVENT 1) := by
  unfold announceTimeoutStep
  exact if_neg (by rw [ptp_follows hs]; simpa using Nat.not_lt.mpr ht)

theorem ppsEdgeStep_of_sixteen {b : State} {first : Stamp} (hs : b.ptpState = 3) (he : b.bit PTP_CTRL 2 = true)
    (hf : b.ptp.edges[15]? = some first) :
    ppsEdgeStep b = (b.setPtp (fun p => { p with
      adj := p.adj - ((b.now : Int) - first - 16_000_000_000) * 4096, edges := [b.now] })).showFreq := by
  have hhead : ((b.now :: b.ptp.edges).drop 16).head? = some first := by rw [List.drop_succ_cons, List.head?_drop, hf]
  unfold ppsEdgeStep
  refine (if_pos (by simp [hs, he])).trans ?_
  rw [hhead]

/-- Settles O31. -/
theorem timeCommandsHaveTheirEffect : Obligations.TimeCommandsHaveTheirEffect := by
  unfold Obligations.TimeCommandsHaveTheirEffect
  refine ⟨?_, ?_, ?_, ?_, ?_, ?_, ?_, ?_⟩
  case refine_1 =>
    refine fun l n => unitEffect_of (fun _ _ => rfl) (fun b ⟨he, hl⟩ => ?_)
    unfold ptpAnnounceReceiveStep
    exact (if_neg (by simp [he, hl])).trans (if_congr (by simp) rfl rfl)
  case refine_2 =>
    refine fun o => unitEffect_of (fun _ _ => rfl) (fun b ⟨he, hs, hneg, ho⟩ => ?_)
    rw [ptpExchangeStep_of_step he hs ho]
    dsimp only
    rw [if_pos hneg, if_pos hneg]
  case refine_3 =>
    refine fun o => unitEffect_of (fun _ _ => rfl) (fun b ⟨he, hs, hpos, ho⟩ => ?_)
    rw [ptpExchangeStep_of_step he hs ho]
    dsimp only
    rw [if_neg (not_lt.mpr hpos), if_neg (not_lt.mpr hpos)]
  case refine_4 =>
    exact fun o => unitEffect_of (fun _ _ => rfl) (fun b ⟨he, hs, ho⟩ => ptpExchangeStep_of_servo he hs ho)
  case refine_5 =>
    exact unitEffect_of (fun _ _ => rfl) (fun b ⟨hs, ht⟩ => announceTimeoutStep_of_silence hs ht)
  case refine_6 =>
    exact fun first => unitEffect_of (fun _ _ => rfl) (fun b ⟨hs, he, hf⟩ => ppsEdgeStep_of_sixteen hs he hf)
  case refine_7 =>
    exact unitEffect_of (fun _ _ => rfl) (fun b ⟨he, ht⟩ => if_neg (by simpa [he] using Nat.not_lt.mpr ht))
  case refine_8 =>
    exact unitEffect_of (fun _ _ => rfl) (fun _ _ => rfl)

end Sys2Proof.Machine
end

section
/-! Spindle operations that read: distances, decoding, histogram passes, gathers, and the stores that QLOAD and PSET write. -/

namespace Sys2Proof.Machine

/-- A descriptor that its engine takes, of an issuer whose pseudo-channel it is, sound and in range, is carried out. -/
theorem spnTake_of_open {b : State} {g : Nat} {d : Desc} {ok range : Bool} {k : State → State}
    (hopen : b.engineTakes g = true ∧ b.spnOwned g d = true) (hok : ok = true) (hrange : range = true) :
    b.spnTake g d ok range k = k b := by
  obtain ⟨ht, ho⟩ := hopen
  unfold State.spnTake
  rw [ht, ho, hok, hrange]
  rfl

/-- The distance of a code that reads correctly. -/
theorem distAt_of_read {b : State} {g off : Nat} {p : CodeProfile} {cb query : List Byte} (h : (b.pchUe g off p.bytes).isNone = true) :
    b.distAt g off p cb query = p.dist cb query (b.pchBytes g off p.bytes) := by
  unfold State.distAt
  exact if_neg (by simpa using h)

theorem any_isSome_of_all_isNone {α β : Type} {l : List α} {f : α → Option β} (h : l.all (fun x => (f x).isNone) = true) :
    l.any (fun x => (f x).isSome) = false := by
  simpa using h

/-- The width of a key format is not 0. -/
theorem keyBits_ne_zero {f w : Nat} (h : keyBits f = some w) : w ≠ 0 := by
  rintro rfl
  unfold keyBits at h
  split at h <;> simp at h

/-! ### Distances -/

theorem distListStep_eq {b : State} {g : Nat} {d : Desc} (hopen : b.engineTakes g = true ∧ b.spnOwned g d = true)
    (hh : d.headOk 1 0 63 0 = true) (hp : (b.profile (d.f 3 1)).ok = true) (hn : 1 ≤ d.f 18 1) (hn' : d.f 18 1 ≤ 8)
    (hslot : (b.profile (d.f 3 1)).slotOk (d.f 16 2) = true) (hz : zerosAt d.bytes 19 5 = true) (hrest : d.restZero (d.f 18 1) = true)
    (hz' : zerosAt d.bytes 56 8 = true)
    (hcodes : (d.offsets (d.f 18 1)).all (fun o => (b.profile (d.f 3 1)).placed o && pchFits o (b.profile (d.f 3 1)).bytes &&
      (b.pchUe g o (b.profile (d.f 3 1)).bytes).isNone) = true)
    (hfault : b.distFault (g / 32) (b.profile (d.f 3 1)) [d.f 16 2] = false) :
    distListStep g d b =
      let p := b.profile (d.f 3 1)
      let ds := (d.offsets (d.f 18 1)).map (fun o =>
        p.dist (b.codebook (g / 32) p) (b.queryAt (g / 32) (d.f 16 2) p) (b.pchBytes g o p.bytes))
      let rs := (d.offsets (d.f 18 1)).map (fun o => (o, p.bytes))
      ((b.spnReads g 1 d.part rs).countEvals g (d.f 18 1)).spnDone g d spnOk (b.spnCe g rs) (d.f 18 1) (ds.filter fNan).length
        (ds.flatMap (fun x => toLE 4 x.toNat)) := by
  simp only [List.all_eq_true, Bool.and_eq_true] at hcodes
  have hplaced : (d.offsets (d.f 18 1)).all (b.profile (d.f 3 1)).placed = true :=
    List.all_eq_true.mpr (fun o ho => (hcodes o ho).1.1)
  have hfits : (d.offsets (d.f 18 1)).all (fun o => pchFits o (b.profile (d.f 3 1)).bytes) = true :=
    List.all_eq_true.mpr (fun o ho => (hcodes o ho).1.2)
  have hread : (d.offsets (d.f 18 1)).any (fun o => (b.pchUe g o (b.profile (d.f 3 1)).bytes).isSome) = false :=
    any_isSome_of_all_isNone (List.all_eq_true.mpr (fun o ho => (hcodes o ho).2))
  have hdist : (d.offsets (d.f 18 1)).map (fun o => b.distAt g o (b.profile (d.f 3 1)) (b.codebook (g / 32) (b.profile (d.f 3 1)))
        (b.queryAt (g / 32) (d.f 16 2) (b.profile (d.f 3 1)))) =
      (d.offsets (d.f 18 1)).map (fun o => (b.profile (d.f 3 1)).dist (b.codebook (g / 32) (b.profile (d.f 3 1)))
        (b.queryAt (g / 32) (d.f 16 2) (b.profile (d.f 3 1))) (b.pchBytes g o (b.profile (d.f 3 1)).bytes)) :=
    List.map_congr_left (fun o ho => distAt_of_read (hcodes o ho).2)
  unfold distListStep
  refine (spnTake_of_open hopen (by simp [hh, hp, hn, hn', hslot, hz, hrest, hz', hplaced]) hfits).trans ?_
  simp only [hfault, hread, hdist, Bool.false_eq_true, if_false]

theorem distScanStep_eq {b : State} {g : Nat} {d : Desc} (hopen : b.engineTakes g = true ∧ b.spnOwned g d = true)
    (hh : d.headOk 2 0 63 0 = true) (hp : (b.profile (d.f 3 1)).ok = true) (hn : 1 ≤ d.f 20 4) (hn' : d.f 20 4 ≤ 2 ^ 26)
    (hstride : (b.profile (d.f 3 1)).bytes ≤ d.f 24 2) (hstride' : d.f 24 2 % 16 = 0) (hq : 1 ≤ d.f 26 1) (hq' : d.f 26 1 ≤ 16)
    (ht : 1 ≤ d.f 27 1) (ht' : d.f 27 1 ≤ 64)
    (hslots : ((List.range (d.f 26 1)).map (fun i => d.f (28 + 2 * i) 2)).all (b.profile (d.f 3 1)).slotOk = true)
    (hz : zerosAt d.bytes (28 + 2 * d.f 26 1) (32 - 2 * d.f 26 1) = true)
    (hplaced : (List.range (d.f 20 4)).all (fun k => (b.profile (d.f 3 1)).placed (d.f 16 4 + k * d.f 24 2)) = true)
    (hfits : pchFits (d.f 16 4) ((d.f 20 4 - 1) * d.f 24 2 + (b.profile (d.f 3 1)).bytes) = true)
    (hfault : b.distFault (g / 32) (b.profile (d.f 3 1)) ((List.range (d.f 26 1)).map (fun i => d.f (28 + 2 * i) 2)) = false)
    (hread : (List.range (d.f 20 4)).all (fun k =>
      (b.pchUe g (d.f 16 4 + k * d.f 24 2) (b.profile (d.f 3 1)).bytes).isNone) = true) :
    distScanStep g d b =
      let p := b.profile (d.f 3 1)
      let n := d.f 20 4
      let res := ((List.range (d.f 26 1)).map (fun i => d.f (28 + 2 * i) 2)).map (fun slot => (List.range n).map (fun k =>
        (d.f 60 4 + k, p.dist (b.codebook (g / 32) p) (b.queryAt (g / 32) slot p)
          (b.pchBytes g (d.f 16 4 + k * d.f 24 2) p.bytes))))
      let rs := (List.range n).map (fun k => (d.f 16 4 + k * d.f 24 2, p.bytes))
      ((b.spnReads g 2 d.part rs).countEvals g (n * d.f 26 1)).spnDone g d spnOk (b.spnCe g rs) (d.f 26 1 * d.f 27 1)
        (sumNat (res.map (fun xs => (xs.filter (fun e => fNan e.2)).length)))
        (res.flatMap (fun xs => (nearest (d.f 27 1) xs).flatMap (fun e => toLE 4 e.1 ++ toLE 4 e.2.toNat) ++
          (List.replicate (d.f 27 1 - (nearest (d.f 27 1) xs).length) (toLE 4 0xFFFF_FFFF ++ toLE 4 0x7FC0_0000)).flatten)) := by
  have hues : ((List.range (d.f 20 4)).map (fun k => (d.f 16 4 + k * d.f 24 2, (b.profile (d.f 3 1)).bytes))).filter
      (fun r => (b.pchUe g r.1 (b.profile (d.f 3 1)).bytes).isSome) = [] := by
    rw [List.filter_eq_nil_iff]
    intro r hr
    obtain ⟨k, hk, rfl⟩ := List.mem_map.mp hr
    simpa using List.all_eq_true.mp hread k hk
  have hdist : ∀ slot, (List.range (d.f 20 4)).map (fun k => (d.f 60 4 + k, b.distAt g (d.f 16 4 + k * d.f 24 2) (b.profile (d.f 3 1))
        (b.codebook (g / 32) (b.profile (d.f 3 1))) (b.queryAt (g / 32) slot (b.profile (d.f 3 1))))) =
      (List.range (d.f 20 4)).map (fun k => (d.f 60 4 + k, (b.profile (d.f 3 1)).dist (b.codebook (g / 32) (b.profile (d.f 3 1)))
        (b.queryAt (g / 32) slot (b.profile (d.f 3 1))) (b.pchBytes g (d.f 16 4 + k * d.f 24 2) (b.profile (d.f 3 1)).bytes))) :=
    fun slot => List.map_congr_left (fun k hk => by rw [distAt_of_read (List.all_eq_true.mp hread k hk)])
  have hok : (d.headOk 2 0 63 0 && (b.profile (d.f 3 1)).ok && decide (1 ≤ d.f 20 4) && decide (d.f 20 4 ≤ 2 ^ 26) &&
      decide ((b.profile (d.f 3 1)).bytes ≤ d.f 24 2) && d.f 24 2 % 16 == 0 && decide (1 ≤ d.f 26 1) && decide (d.f 26 1 ≤ 16) &&
      decide (1 ≤ d.f 27 1) && decide (d.f 27 1 ≤ 64) &&
      ((List.range (d.f 26 1)).map (fun i => d.f (28 + 2 * i) 2)).all (b.profile (d.f 3 1)).slotOk &&
      zerosAt d.bytes (28 + 2 * d.f 26 1) (32 - 2 * d.f 26 1) &&
      (List.range (d.f 20 4)).all (fun k => (b.profile (d.f 3 1)).placed (d.f 16 4 + k * d.f 24 2))) = true := by
    rw [hh, hp, decide_eq_true hn, decide_eq_true hn', decide_eq_true hstride, hstride', decide_eq_true hq, decide_eq_true hq',
      decide_eq_true ht, decide_eq_true ht', hslots, hz, hplaced]
    rfl
  unfold distScanStep
  refine (spnTake_of_open hopen hok hfits).trans ?_
  simp only [hfault, hues, hdist, List.isEmpty_nil, Bool.false_eq_true, if_false, if_true]

/-! ### Decoding, histogram passes, gathers -/

theorem decodeStep_eq {b : State} {g : Nat} {d : Desc} {tile : List Byte} (hopen : b.engineTakes g = true ∧ b.spnOwned g d = true)
    (hh : d.headOk 4 0 0 0 = true) (hz : zerosAt d.bytes 24 40 = true) (hfits : pchFits (d.f 16 4) (d.f 20 4) = true)
    (hread : b.pchUe g (d.f 16 4) (d.f 20 4) = none)
    (htile : decodeContainer (b.pchBytes g (d.f 16 4) (d.f 20 4)) = some tile) :
    decodeStep g d b =
      let rs := [(d.f 16 4, d.f 20 4)]
      (b.spnReads g 4 d.part rs).spnDone g d spnOk (b.spnCe g rs) 0 0 tile := by
  unfold decodeStep
  refine (spnTake_of_open hopen (by simp [hh, hz]) hfits).trans ?_
  simp only [hread, htile, Option.isSome_none, Bool.false_eq_true, if_false]

/-- The keys of an array that reads correctly, each with its index. -/
theorem pchKeys_of_read {b : State} {g off n f w : Nat} (hw : keyBits f = some w)
    (hread : (List.range n).all (fun i => (b.pchUe g (off + w / 8 * i) (w / 8)).isNone) = true) :
    b.pchKeys g off n f = (List.range n).map (fun i => (i, leNat (b.pchBytes g (off + w / 8 * i) (w / 8)), false)) := by
  unfold State.pchKeys
  rw [hw]
  refine List.map_congr_left (fun i hi => ?_)
  have hnone : (b.pchUe g (off + w / 8 * i) (w / 8)).isSome = false := by
    simpa using List.all_eq_true.mp hread i hi
  simp only [Option.getD_some, hnone]

/-- The keys of an array that reads correctly are all kept. -/
theorem keys_any_bad (n : Nat) (v : Nat → Nat) : ((List.range n).map (fun i => (i, v i, false))).any (fun e => e.2.2) = false := by
  simp

theorem keys_filter_values (n : Nat) (v : Nat → Nat) (p : Nat → Bool) :
    (((List.range n).map (fun i => (i, v i, false))).filter (fun e => !e.2.2 && p e.2.1)).map (fun e => e.2.1) =
      ((List.range n).map v).filter p := by
  simp [List.filter_map, Function.comp_def]

theorem keys_filter_indexed (n : Nat) (v : Nat → Nat) (p : Nat → Bool) :
    (((List.range n).map (fun i => (i, v i, false))).filter (fun e => !e.2.2 && p e.2.1)).map (fun e => (e.1, e.2.1)) =
      ((List.range n).map (fun i => (i, v i))).filter (fun e => p e.2) := by
  simp [List.filter_map, Function.comp_def]

/-- What is filtered by a property of an image has the filtered image. -/
theorem map_filter_of_image {α β : Type} (l : List α) (f : α → β) (p : β → Bool) :
    (l.filter (fun x => p (f x))).map f = (l.map f).filter p := by
  rw [List.filter_map]
  rfl

theorem histStep_eq {b : State} {g : Nat} {d : Desc} {w : Nat} (hopen : b.engineTakes g = true ∧ b.spnOwned g d = true)
    (hh : d.headOk 5 0 0 0 = true) (hw : keyBits (d.f 24 1) = some w) (hn : 1 ≤ d.f 20 4) (hn' : d.f 20 4 ≤ 2 ^ 28)
    (hpass : d.f 25 1 < w / 8) (hsum : d.f 26 1 < 2) (hz : zerosAt d.bytes 27 1 = true) (hpre : d.f 28 4 < 2 ^ (8 * d.f 25 1))
    (hz' : zerosAt d.bytes 32 32 = true) (hfits : pchFits (d.f 16 4) (d.f 20 4 * (w / 8)) = true)
    (hread : (List.range (d.f 20 4)).all (fun i => (b.pchUe g (d.f 16 4 + w / 8 * i) (w / 8)).isNone) = true) :
    histStep g d b =
      let f := d.f 24 1
      let good := ((List.range (d.f 20 4)).map (fun i => leNat (b.pchBytes g (d.f 16 4 + w / 8 * i) (w / 8)))).filter (fun x =>
        !keyNan f x)
      let bin (v : Nat) : List Nat := good.filter (fun x =>
        mapKey f x / 2 ^ (w - 8 * d.f 25 1) == d.f 28 4 && mapKey f x / 2 ^ (w - 8 * d.f 25 1 - 8) % 256 == v)
      let rs := [(d.f 16 4, d.f 20 4 * (w / 8))]
      (b.spnReads g 5 d.part rs).spnDone g d spnOk (b.spnCe g rs) 0 (d.f 20 4 - good.length)
        ((List.range 256).flatMap (fun v => toLE 4 (bin v).length) ++
          (List.range 256).flatMap (fun v => if d.f 26 1 == 1 then toLE 4 (fSum ((bin v).map (keyF32 f))).toNat else zeros 4)) := by
  have hwidth : (keyBits (d.f 24 1)).getD 0 = w := by rw [hw, Option.getD_some]
  have hok : (d.headOk 5 0 0 0 && w != 0 && decide (1 ≤ d.f 20 4) && decide (d.f 20 4 ≤ 2 ^ 28) && decide (d.f 25 1 < w / 8) &&
      decide (d.f 26 1 < 2) && zerosAt d.bytes 27 1 && decide (d.f 28 4 < 2 ^ (8 * d.f 25 1)) && zerosAt d.bytes 32 32) = true := by
    rw [hh, bne_iff_ne.mpr (keyBits_ne_zero hw), decide_eq_true hn, decide_eq_true hn', decide_eq_true hpass, decide_eq_true hsum, hz,
      decide_eq_true hpre, hz']
    rfl
  have hgood := keys_filter_values (d.f 20 4) (fun i => leNat (b.pchBytes g (d.f 16 4 + w / 8 * i) (w / 8)))
    (fun x => !keyNan (d.f 24 1) x)
  have hlen := congrArg List.length hgood
  rw [List.length_map] at hlen
  have hbin : ∀ v, ((((((List.range (d.f 20 4)).map (fun i =>
        (i, leNat (b.pchBytes g (d.f 16 4 + w / 8 * i) (w / 8)), false))).filter (fun e => !e.2.2 && !keyNan (d.f 24 1) e.2.1)).filter
          (fun e => mapKey (d.f 24 1) e.2.1 / 2 ^ (w - 8 * d.f 25 1) == d.f 28 4)).filter
            (fun e => mapKey (d.f 24 1) e.2.1 / 2 ^ (w - 8 * d.f 25 1 - 8) % 256 == v)).map (fun e => e.2.1)) =
      (((List.range (d.f 20 4)).map (fun i => leNat (b.pchBytes g (d.f 16 4 + w / 8 * i) (w / 8)))).filter (fun x =>
        !keyNan (d.f 24 1) x)).filter (fun x => mapKey (d.f 24 1) x / 2 ^ (w - 8 * d.f 25 1) == d.f 28 4 &&
          mapKey (d.f 24 1) x / 2 ^ (w - 8 * d.f 25 1 - 8) % 256 == v) := by
    intro v
    rw [map_filter_of_image _ (fun e : Nat × Nat × Bool => e.2.1)
        (fun x => mapKey (d.f 24 1) x / 2 ^ (w - 8 * d.f 25 1 - 8) % 256 == v),
      map_filter_of_image _ (fun e : Nat × Nat × Bool => e.2.1) (fun x => mapKey (d.f 24 1) x / 2 ^ (w - 8 * d.f 25 1) == d.f 28 4),
      hgood, List.filter_filter]
    exact List.filter_congr (fun x _ => Bool.and_comm _ _)
  have hbinLen := fun v => (List.length_map (fun e : Nat × Nat × Bool => e.2.1)).symm.trans (congrArg List.length (hbin v))
  have hbinSum := fun v => (@List.map_map _ _ _ (keyF32 (d.f 24 1)) (fun e : Nat × Nat × Bool => e.2.1) _).symm.trans
    (congrArg (List.map (keyF32 (d.f 24 1))) (hbin v))
  simp only [Function.comp_def] at hbinSum
  unfold histStep
  dsimp only
  rw [hwidth]
  refine (spnTake_of_open hopen hok hfits).trans ?_
  simp only [pchKeys_of_read hw hread, keys_any_bad, hlen, hbinLen, hbinSum, Bool.false_eq_true, if_false]

theorem keyCompactStep_eq {b : State} {g : Nat} {d : Desc} {w : Nat} (hopen : b.engineTakes g = true ∧ b.spnOwned g d = true)
    (hh : d.headOk 6 0 0 0 = true) (hw : keyBits (d.f 24 1) = some w) (hn : 1 ≤ d.f 20 4) (hn' : d.f 20 4 ≤ 2 ^ 28)
    (hpass : d.f 25 1 < w / 8) (hz : zerosAt d.bytes 26 2 = true) (hpre : d.f 28 4 < 2 ^ (8 * (d.f 25 1 + 1)))
    (hout : d.f 36 4 % 8 = 0) (hz' : zerosAt d.bytes 44 20 = true) (hfits : pchFits (d.f 16 4) (d.f 20 4 * (w / 8)) = true)
    (hfits' : pchFits (d.f 36 4) (8 * d.f 40 4) = true)
    (hread : (List.range (d.f 20 4)).all (fun i => (b.pchUe g (d.f 16 4 + w / 8 * i) (w / 8)).isNone) = true) :
    keyCompactStep g d b =
      let f := d.f 24 1
      let good := ((List.range (d.f 20 4)).map (fun i => (i, leNat (b.pchBytes g (d.f 16 4 + w / 8 * i) (w / 8))))).filter (fun e =>
        !keyNan f e.2)
      let hits := good.filter (fun e => mapKey f e.2 / 2 ^ (w - 8 * d.f 25 1 - 8) == d.f 28 4)
      let rs := [(d.f 16 4, d.f 20 4 * (w / 8))]
      let s1 := b.spnReads g 6 d.part rs
      let small : Bool := decide (hits.length < 65536)
      ((if small then s1 else s1.tick).pchStore g (d.f 36 4)
        ((hits.take (d.f 40 4)).flatMap (fun e => toLE 4 (d.f 32 4 + e.1) ++ toLE 4 e.2))).spnDone g d spnOk
          (b.spnCe g rs + if d.f 40 4 < hits.length then 2 else 0)
          (if small then hits.length else Config.freeBelow s1.freeCtr 65536) (d.f 20 4 - good.length) [] := by
  have hwidth : (keyBits (d.f 24 1)).getD 0 = w := by rw [hw, Option.getD_some]
  have hok : (d.headOk 6 0 0 0 && w != 0 && decide (1 ≤ d.f 20 4) && decide (d.f 20 4 ≤ 2 ^ 28) && decide (d.f 25 1 < w / 8) &&
      zerosAt d.bytes 26 2 && decide (d.f 28 4 < 2 ^ (8 * (d.f 25 1 + 1))) && d.f 36 4 % 8 == 0 && zerosAt d.bytes 44 20) = true := by
    rw [hh, bne_iff_ne.mpr (keyBits_ne_zero hw), decide_eq_true hn, decide_eq_true hn', decide_eq_true hpass, hz, decide_eq_true hpre,
      hout, hz']
    rfl
  have hgood := keys_filter_indexed (d.f 20 4) (fun i => leNat (b.pchBytes g (d.f 16 4 + w / 8 * i) (w / 8)))
    (fun x => !keyNan (d.f 24 1) x)
  have hlen := congrArg List.length hgood
  rw [List.length_map] at hlen
  have hhits : ((((List.range (d.f 20 4)).map (fun i =>
        (i, leNat (b.pchBytes g (d.f 16 4 + w / 8 * i) (w / 8)), false))).filter (fun e => !e.2.2 && !keyNan (d.f 24 1) e.2.1)).filter
          (fun e => mapKey (d.f 24 1) e.2.1 / 2 ^ (w - 8 * d.f 25 1 - 8) == d.f 28 4)).map (fun e => (e.1, e.2.1)) =
      (((List.range (d.f 20 4)).map (fun i => (i, leNat (b.pchBytes g (d.f 16 4 + w / 8 * i) (w / 8))))).filter (fun e =>
        !keyNan (d.f 24 1) e.2)).filter (fun e => mapKey (d.f 24 1) e.2 / 2 ^ (w - 8 * d.f 25 1 - 8) == d.f 28 4) := by
    rw [map_filter_of_image _ (fun e : Nat × Nat × Bool => (e.1, e.2.1))
      (fun e => mapKey (d.f 24 1) e.2 / 2 ^ (w - 8 * d.f 25 1 - 8) == d.f 28 4), hgood]
  have hhitLen := congrArg List.length hhits
  rw [List.length_map] at hhitLen
  have hdata := congrArg (fun l : List (Nat × Nat) => (l.take (d.f 40 4)).flatMap (fun e => toLE 4 (d.f 32 4 + e.1) ++ toLE 4 e.2)) hhits
  simp only [← List.map_take, List.flatMap_map] at hdata
  unfold keyCompactStep
  dsimp only
  rw [hwidth]
  refine (spnTake_of_open hopen hok (by rw [hfits, hfits']; rfl)).trans ?_
  simp only [pchKeys_of_read hw hread, keys_any_bad, hlen, hhitLen, hdata, Bool.false_eq_true, if_false, decide_eq_true_eq]
  split <;> rfl

theorem gatherStep_eq {b : State} {g : Nat} {d : Desc} (hopen : b.engineTakes g = true ∧ b.spnOwned g d = true)
    (hh : d.headOk 7 0 0 0 = true) (hrow : d.rowOk true = true)
    (hsegs : (d.offsets (d.f 20 1)).all (fun o => pchFits o (d.f 18 2) && (b.pchUe g o (d.f 18 2)).isNone) = true) :
    gatherStep g d b =
      let segs := (d.offsets (d.f 20 1)).map (fun o => b.pchBytes g o (d.f 18 2))
      let rs := (d.offsets (d.f 20 1)).map (fun o => (o, d.f 18 2))
      (b.spnReads g 7 d.part rs).spnDone g d spnOk (b.spnCe g rs) (d.f 20 1) 0 (if d.f 17 1 = 0 then segs.flatten
        else (poolValues (d.f 17 1) (segs.map (segValues (d.f 16 1)))).flatMap (fun x => toLE 4 x.toNat)) := by
  simp only [List.all_eq_true, Bool.and_eq_true] at hsegs
  have hfits : (d.offsets (d.f 20 1)).all (fun o => pchFits o (d.f 18 2)) = true :=
    List.all_eq_true.mpr (fun o ho => (hsegs o ho).1)
  have hread : (d.offsets (d.f 20 1)).any (fun o => (b.pchUe g o (d.f 18 2)).isSome) = false :=
    any_isSome_of_all_isNone (List.all_eq_true.mpr (fun o ho => (hsegs o ho).2))
  unfold gatherStep
  refine (spnTake_of_open hopen (by rw [hh, hrow]; rfl) hfits).trans ?_
  simp only [hread, Bool.false_eq_true, if_false, beq_iff_eq]

/-- Settles O32. -/
theorem spindleReadsHaveTheirEffect : Obligations.SpindleReadsHaveTheirEffect := by
  unfold Obligations.SpindleReadsHaveTheirEffect
  intro opens
  refine ⟨?_, ?_, ?_, ?_, ?_, ?_, ?_, ?_⟩
  case refine_1 =>
    exact fun g d => unitEffect_of (fun _ _ => rfl) (fun b ⟨hopen, hh, hp, hn, hn', hslot, hz, hrest, hz', hcodes, hfault⟩ =>
      distListStep_eq hopen hh hp hn hn' hslot hz hrest hz' hcodes hfault)
  case refine_2 =>
    exact fun g d => unitEffect_of (fun _ _ => rfl) (fun b ⟨hopen, hh, hp, hn, hn', hstride, hstride', hq, hq', ht, ht', hslots, hz,
      hplaced, hfits, hfault, hread⟩ =>
        distScanStep_eq hopen hh hp hn hn' hstride hstride' hq hq' ht ht' hslots hz hplaced hfits hfault hread)
  case refine_3 =>
    exact fun g d tile => unitEffect_of (fun _ _ => rfl) (fun b ⟨hopen, hh, hz, hfits, hread, htile⟩ =>
      decodeStep_eq hopen hh hz hfits hread htile)
  case refine_4 =>
    exact fun g d w => unitEffect_of (fun _ _ => rfl) (fun b ⟨hopen, hh, hw, hn, hn', hpass, hsum, hz, hpre, hz', hfits, hread⟩ =>
      histStep_eq hopen hh hw hn hn' hpass hsum hz hpre hz' hfits hread)
  case refine_5 =>
    exact fun g d w => unitEffect_of (fun _ _ => rfl) (fun b ⟨hopen, hh, hw, hn, hn', hpass, hz, hpre, hout, hz', hfits, hfits',
      hread⟩ => keyCompactStep_eq hopen hh hw hn hn' hpass hz hpre hout hz' hfits hfits' hread)
  case refine_6 =>
    exact fun g d => unitEffect_of (fun _ _ => rfl) (fun b ⟨hopen, hh, hrow, hsegs⟩ => gatherStep_eq hopen hh hrow hsegs)
  case refine_7 =>
    refine fun g d => unitEffect_of (fun _ _ => rfl) (fun b ⟨hopen, hh, hn, hmod, hlast, hz⟩ => ?_)
    have hcount : (d.f 18 1 == 1 || d.f 18 1 == 2 || d.f 18 1 == 4) = true := by simpa [or_assoc] using hn
    unfold qloadStep
    exact spnTake_of_open hopen (by rw [hh, hcount, hmod, decide_eq_true hlast, hz]; rfl) rfl
  case refine_8 =>
    refine fun g d => unitEffect_of (fun _ _ => rfl) (fun b ⟨hopen, hh, hz⟩ => ?_)
    unfold psetStep
    exact spnTake_of_open hopen (by rw [hh, hz]; rfl) rfl

end Sys2Proof.Machine
end

section
/-! Spindle operations that write: row updates, scrub, copies, codebooks, and the queues of the engines. -/

namespace Sys2Proof.Machine

/-! ### Row updates and scrub -/

/-- A row update whose parameter slot is valid updates its segments in list order. -/
theorem rowStep_eq {op kind g : Nat} {d : Desc} {b : State} (hopen : b.engineTakes g = true ∧ b.spnOwned g d = true)
    (hh : d.headOk op 0 (if kind = 0 then 0 else 255) d.rowInline = true) (hrow : d.rowOk false = true)
    (hfits : ((d.offsets (d.f 20 1)).flatMap (segReads kind (d.f 16 1) (d.f 18 2)
      (rowParams (storeGet b.spn.param (g / 32) (d.f 3 1) 32)))).all (fun r => pchFits r.1 r.2) = true)
    (hparam : kind ≠ 0 → b.storeBad (g / 32) 2 (d.f 3 1) 1 = false) :
    rowStep op kind g d b =
      let h := rowParams (storeGet b.spn.param (g / 32) (d.f 3 1) 32)
      let e := segElems (d.f 16 1) (d.f 18 2)
      let r := (d.offsets (d.f 20 1)).zipIdx.foldl (fun (acc : Nat × State) o =>
        let s1 := acc.2.spnReads g op d.part (segReads kind (d.f 16 1) (d.f 18 2) h o.1)
        match s1.updateSegment g kind (d.f 16 1) (d.f 18 2) h o.1
          ((List.range e).map (fun i => BitVec.ofNat 32 (fieldAt d.inl (4 * (o.2 * e + i)) 4))) with
        | some s2 => (acc.1, s2)
        | none => (acc.1 + 1, s1)) (0, b)
      r.2.spnDone g d (if r.1 = 0 then spnOk else spnUncorrectable)
        (b.spnCe g ((d.offsets (d.f 20 1)).flatMap (segReads kind (d.f 16 1) (d.f 18 2) h))) (d.f 20 1 - r.1) r.1 [] := by
  have hslot : (kind != 0 && b.storeBad (g / 32) 2 (d.f 3 1) 1) = false := by
    by_cases hk : kind = 0
    · simp [hk]
    · simp [hparam hk]
  have hkind : (if kind == 0 then 0 else 255) = if kind = 0 then 0 else 255 := if_congr beq_iff_eq rfl rfl
  unfold rowStep
  refine (spnTake_of_open hopen (by rw [hkind, hh, hrow]; rfl) hfits).trans ?_
  refine (if_neg (by rw [hslot]; exact Bool.false_ne_true)).trans ?_
  simp only [beq_iff_eq] <;> rfl

theorem scrubStep_eq {g : Nat} {d : Desc} {b : State} (hopen : b.engineTakes g = true ∧ b.spnOwned g d = true)
    (hh : d.headOk 0x0D 0 0 0 = true) (hoff : d.f 16 4 % 64 = 0) (hn : d.f 20 4 % 64 = 0) (hz : zerosAt d.bytes 24 40 = true)
    (hfits : pchFits (d.f 16 4) (d.f 20 4) = true) :
    scrubStep g d b =
      let rs := [(d.f 16 4, d.f 20 4)]
      ((burstsOf (d.f 16 4) (d.f 20 4)).foldl (fun s k => s.scrubBack (s.spnAddr g (k * 64) / 64))
        (b.spnReads g 0x0D d.part rs)).spnDone g d spnOk (b.spnCe g rs) 0 0 [] := by
  unfold scrubStep
  exact spnTake_of_open hopen (by rw [hh, hoff, hn, hz]; rfl) hfits

/-! ### Copies -/

theorem mem_of_mem_dedupBy {α : Type} {key : α → Nat} {l : List α} {x : α} (h : x ∈ dedupBy key l) : x ∈ l := by
  have hsub : ∀ (l acc : List α), x ∈ l.foldl (fun acc x => if acc.any (fun y => key y == key x) then acc else acc ++ [x]) acc →
      x ∈ acc ∨ x ∈ l := by
    intro l
    induction l with
    | nil => exact fun acc h => Or.inl h
    | cons y l ih =>
      intro acc h
      rw [List.foldl_cons] at h
      rcases ih _ h with h | h
      · split at h
        · exact Or.inl h
        · rcases List.mem_append.mp h with h | h
          · exact Or.inl h
          · exact Or.inr (List.mem_singleton.mp h ▸ List.mem_cons_self)
      · exact Or.inr (List.mem_cons_of_mem _ h)
  exact (hsub l [] h).resolve_left (List.not_mem_nil)

theorem ite_filter_isEmpty {α : Type} (l : List α) (p : α → Bool) :
    (if (l.filter p).isEmpty then 0 else 1) = if l.any p then 1 else 0 := by
  by_cases h : l.any p = true
  · obtain ⟨x, hx, hp⟩ := List.any_eq_true.mp h
    have hne : (l.filter p).isEmpty = false := by
      rw [List.isEmpty_eq_false_iff]
      exact List.ne_nil_of_mem (List.mem_filter.mpr ⟨hx, hp⟩)
    rw [hne, h]
    rfl
  · have hnil : l.filter p = [] := List.filter_eq_nil_iff.mpr (fun x hx hp => h (List.any_eq_true.mpr ⟨x, hx, hp⟩))
    rw [hnil, List.isEmpty_nil, if_pos rfl, if_neg h]

/-- The bursts of the source that burst `i` of a copy comes from. -/
def copySource (d : Desc) (i : Nat) : List Nat :=
  dedupBy (fun (x : Nat) => x) [(d.f 24 8 + 64 * i) / 64, (d.f 24 8 + (64 * i + 63)) / 64]

/-- A copy of memory (kind 0) whose source has no uncorrectable burst. -/
theorem spnCopyStep_eq {g : Nat} {d : Desc} {b : State} (hopen : b.engineTakes g = true ∧ b.spnOwned g d = true)
    (hh : d.headOk 0x0E 0 0 0 = true) (hkind : d.f 16 1 = 0) (hsrc : d.f 17 1 = 0) (hz : zerosAt d.bytes 18 6 = true)
    (hdst : d.f 32 4 % 64 = 0) (hn : 64 ≤ d.f 36 4) (hn' : d.f 36 4 % 64 = 0) (hz' : zerosAt d.bytes 40 24 = true)
    (hl : b.listed (d.f 24 8) (d.f 36 4) = true) (hfits : pchFits (d.f 32 4) (d.f 36 4) = true)
    (hread : (List.range (d.f 36 4 / 64)).all (fun i => (copySource d i).all (fun k => !b.ue.contains k)) = true) :
    spnCopyStep g d b =
      let s1 := (dedupBy (fun (x : Nat) => x) ((List.range (d.f 36 4 / 64)).flatMap (copySource d))).foldl (fun t k =>
        if b.ce.contains k then t.memCe (k * 64) 0x0E d.part else t) b
      ((List.range (d.f 36 4 / 64)).foldl (fun t i =>
        t.store (t.spnAddr g (d.f 32 4 + 64 * i)) ((List.range 64).map (fun j => b.byte (d.f 24 8 + (64 * i + j))))) s1).spnDone g d
          spnOk (if (List.range (d.f 36 4 / 64)).any (fun i => (copySource d i).any (fun k => b.ce.contains k)) then 1 else 0) 0 0 [] := by
  simp only [List.all_eq_true, Bool.not_eq_true'] at hread
  have hbad : (List.range (d.f 36 4 / 64)).filter (fun i => (copySource d i).any (fun k => b.ue.contains k)) = [] := by
    rw [List.filter_eq_nil_iff]
    intro i hi hany
    obtain ⟨k, hk, hue⟩ := List.any_eq_true.mp hany
    exact absurd hue (by rw [hread i hi k hk]; exact Bool.false_ne_true)
  have hlog : (dedupBy (fun (x : Nat) => x) ((List.range (d.f 36 4 / 64)).flatMap (copySource d))).foldl (fun t k =>
        if b.ue.contains k then t.memUe (k * 64) 0x0E d.part
        else if b.ce.contains k then t.memCe (k * 64) 0x0E d.part else t) b =
      (dedupBy (fun (x : Nat) => x) ((List.range (d.f 36 4 / 64)).flatMap (copySource d))).foldl (fun t k =>
        if b.ce.contains k then t.memCe (k * 64) 0x0E d.part else t) b := by
    refine List.foldl_ext _ _ _ (fun t k hk => ?_)
    obtain ⟨i, hi, hki⟩ := List.mem_flatMap.mp (mem_of_mem_dedupBy hk)
    rw [hread i hi k hki, if_neg Bool.false_ne_true]
  have hok : (d.headOk 0x0E (if d.f 16 1 == 1 then 1 else 0) 0 0 && decide (d.f 16 1 ≤ 1) &&
      (if d.f 16 1 == 0 then d.f 17 1 == 0 else decide (d.f 17 1 < 32)) &&
      zerosAt d.bytes 18 6 && d.f 32 4 % 64 == 0 && decide (64 ≤ d.f 36 4) && d.f 36 4 % 64 == 0 && zerosAt d.bytes 40 24 &&
      (if d.f 16 1 == 0 then b.listed (d.f 24 8) (d.f 36 4) else (b.physPch (g / 32) (d.f 17 1)).isSome)) = true := by
    rw [hkind, if_neg (by decide), beq_self_eq_true, if_pos rfl, if_pos rfl, hh, hsrc, hz, hdst, decide_eq_true hn, hn', hz', hl]
    rfl
  have hrange : (pchFits (d.f 32 4) (d.f 36 4) && (d.f 16 1 == 0 || pchFits (d.f 24 8) (d.f 36 4))) = true := by
    rw [hfits, hkind]
    rfl
  have hparts : ∀ i, dedupBy (fun (x : Nat) => x) [(d.f 24 8 + 64 * i) / 64, (d.f 24 8 + (64 * i + 63)) / 64] = copySource d i :=
    fun _ => rfl
  unfold spnCopyStep
  refine (spnTake_of_open hopen hok hrange).trans ?_
  simp only [hkind, beq_self_eq_true, if_true, hparts, hbad, hlog, List.contains_nil, Bool.false_eq_true, if_false, List.isEmpty_nil,
    List.length_nil, ite_filter_isEmpty]

/-- Flags that 0 allows, 1 allows. -/
theorem headOk_of_noFlags {d : Desc} {op slot inl : Nat} (h : d.headOk op 0 slot inl = true) : d.headOk op 1 slot inl = true := by
  unfold Desc.headOk at h ⊢
  simp only [Bool.and_eq_true] at h ⊢
  have hzero : 0 = d.f 1 1 := by
    have := h.1.1.1.1.1.2
    simpa [within] using this
  refine ⟨⟨⟨⟨⟨⟨h.1.1.1.1.1.1, ?_⟩, h.1.1.1.1.2⟩, h.1.1.1.2⟩, h.1.1.2⟩, h.1.2⟩, h.2⟩
  rw [← hzero]
  rfl

/-- A copy with a malformed header is rejected. -/
theorem spnCopyStep_of_malformed {g : Nat} {d : Desc} {b : State} (hopen : b.engineTakes g = true ∧ b.spnOwned g d = true)
    (hh : d.headOk 0x0E 1 0 0 = false) : spnCopyStep g d b = b.spnReject g d spnBadDescriptor := by
  have hhead : d.headOk 0x0E (if d.f 16 1 == 1 then 1 else 0) 0 0 = false := by
    split
    · exact hh
    · by_contra hne
      rw [headOk_of_noFlags (by simpa using hne)] at hh
      exact Bool.false_ne_true hh.symm
  obtain ⟨ht, ho⟩ := hopen
  unfold spnCopyStep State.spnTake
  simp only [hhead, ht, ho, Bool.false_and, Bool.not_false, Bool.not_true, Bool.false_eq_true, if_true, if_false]

/-! ### Codebooks -/

theorem codebookLoadStep_eq {v : Reg} {b : State} (hv : v.getLsbD 63 = true)
    (hunits : v.toNat / 2 ^ 50 % 64 + (v.toNat / 2 ^ 56 % 64 + 1) ≤ 64) (hal : v.toNat % 2 ^ 48 % 65536 = 0)
    (hl : (b.setRaw SPN_CB_LOAD (v &&& (fieldMask 61 50 ||| fieldMask 47 0))).listed (v.toNat % 2 ^ 48)
      ((v.toNat / 2 ^ 56 % 64 + 1) * 65536) = true)
    (hunit : (List.range (v.toNat / 2 ^ 56 % 64 + 1)).all (fun i =>
      !(b.setRaw SPN_CB_LOAD (v &&& (fieldMask 61 50 ||| fieldMask 47 0))).isUe (v.toNat % 2 ^ 48 + i * 65536) 65536) = true)
    (hburst : (burstsOf (v.toNat % 2 ^ 48) ((v.toNat / 2 ^ 56 % 64 + 1) * 65536)).all (fun k =>
      !(b.setRaw SPN_CB_LOAD (v &&& (fieldMask 61 50 ||| fieldMask 47 0))).ue.contains k) = true) :
    codebookLoadStep v b =
      let n := v.toNat / 2 ^ 56 % 64 + 1
      let first := v.toNat / 2 ^ 50 % 64
      let s0 := b.setRaw SPN_CB_LOAD (v &&& (fieldMask 61 50 ||| fieldMask 47 0))
      let s1 := ((burstsOf (v.toNat % 2 ^ 48) (n * 65536)).filter (fun k => s0.ce.contains k)).foldl (fun t k => t.memCe (k * 64) 0 0) s0
      { s1 with spn := s1.stacksReady.foldl (fun (x : SpnStores) k => (List.range n).foldl (fun (x : SpnStores) i =>
          { x with codebook := storeSet x.codebook k (first + i) (s1.bytes (v.toNat % 2 ^ 48 + i * 65536) 65536) }.heal k 1
            (first + i)) x) s1.spn } := by
  simp only [List.all_eq_true, Bool.not_eq_true'] at hunit hburst
  unfold codebookLoadStep
  dsimp only
  generalize b.setRaw SPN_CB_LOAD (v &&& (fieldMask 61 50 ||| fieldMask 47 0)) = s0 at *
  generalize v.toNat / 2 ^ 56 % 64 + 1 = n at *
  generalize v.toNat % 2 ^ 48 = src at *
  have hbad : (List.range n).filter (fun i => s0.isUe (src + i * 65536) 65536) = [] :=
    List.filter_eq_nil_iff.mpr (fun i hi => by rw [hunit i hi]; exact Bool.false_ne_true)
  have hces : (burstsOf src (n * 65536)).filter (fun k => s0.ue.contains k || s0.ce.contains k) =
      (burstsOf src (n * 65536)).filter (fun k => s0.ce.contains k) :=
    List.filter_congr (fun k hk => by rw [hburst k hk, Bool.false_or])
  have hlog : ((burstsOf src (n * 65536)).filter (fun k => s0.ce.contains k)).foldl (fun t k =>
        if s0.ue.contains k then (t.memUe (k * 64) 0 0).event SPN_ERR_STATUS 2 else t.memCe (k * 64) 0 0) s0 =
      ((burstsOf src (n * 65536)).filter (fun k => s0.ce.contains k)).foldl (fun t k => t.memCe (k * 64) 0 0) s0 :=
    List.foldl_ext _ _ _ (fun t k hk => by rw [hburst k (List.mem_filter.mp hk).1, if_neg Bool.false_ne_true])
  rw [if_neg (by rw [hv]; exact Bool.false_ne_true), if_neg (by simp [hal, hl]; omega)]
  simp only [hbad, hces, hlog, List.contains_nil, Bool.false_eq_true, if_false]

/-- Settles O33. -/
theorem spindleWritesHaveTheirEffect : Obligations.SpindleWritesHaveTheirEffect := by
  unfold Obligations.SpindleWritesHaveTheirEffect
  intro opens touched row
  refine ⟨?_, ?_, ?_, ?_, ?_, ?_, ?_, ?_, ?_, ?_, ?_, ?_, ?_⟩
  case refine_1 =>
    exact fun g d => unitEffect_of (fun _ _ => rfl) (fun b ⟨hopen, hh, hrow, hfits, hparam⟩ => rowStep_eq hopen hh hrow hfits hparam)
  case refine_2 =>
    exact fun g d => unitEffect_of (fun _ _ => rfl) (fun b ⟨hopen, hh, hrow, hfits, hparam⟩ => rowStep_eq hopen hh hrow hfits hparam)
  case refine_3 =>
    exact fun g d => unitEffect_of (fun _ _ => rfl) (fun b ⟨hopen, hh, hrow, hfits, hparam⟩ => rowStep_eq hopen hh hrow hfits hparam)
  case refine_4 =>
    exact fun g d => unitEffect_of (fun _ _ => rfl) (fun b ⟨hopen, hh, hrow, hfits, hparam⟩ => rowStep_eq hopen hh hrow hfits hparam)
  case refine_5 =>
    exact fun g d => unitEffect_of (fun _ _ => rfl)
      (fun b ⟨hopen, hh, hoff, hn, hz, hfits⟩ => scrubStep_eq hopen hh hoff hn hz hfits)
  case refine_6 =>
    refine fun g off => unitEffect_of (fun _ _ => rfl) (fun b ⟨he, hs⟩ => ?_)
    unfold backgroundScrubStep
    exact if_pos (by simpa [he] using hs)
  case refine_7 =>
    exact fun g d => unitEffect_of (fun _ _ => rfl)
      (fun b ⟨hopen, hh, hkind, hsrc, hz, hdst, hn, hn', hz', hl, hfits, hread⟩ =>
        spnCopyStep_eq hopen hh hkind hsrc hz hdst hn hn' hz' hl hfits hread)
  case refine_8 =>
    exact fun v => unitEffect_of (fun _ _ => rfl)
      (fun b ⟨hv, hunits, hal, hl, hunit, hburst⟩ => codebookLoadStep_eq hv hunits hal hl hunit hburst)
  case refine_9 =>
    exact fun v => unitEffect_of (fun _ _ => rfl) (fun _ _ => rfl)
  case refine_10 =>
    exact unitEffect_of (fun _ _ => rfl) (fun _ _ => rfl)
  case refine_11 =>
    refine fun g d => unitEffect_of (fun _ _ => rfl) (fun b ht => ?_)
    unfold distListStep State.spnTake
    simp only [ht, Bool.not_false, if_true]
  case refine_12 =>
    refine fun g d => unitEffect_of (fun _ _ => rfl) (fun b ⟨ht, ho⟩ => ?_)
    unfold distListStep State.spnTake
    simp only [ht, ho, Bool.not_false, Bool.not_true, Bool.false_eq_true, if_true, if_false]
  case refine_13 =>
    exact fun g d => unitEffect_of (fun _ _ => rfl) (fun b ⟨hopen, hh⟩ => spnCopyStep_of_malformed hopen hh)

end Sys2Proof.Machine
end

section
/-! The Lathe's instructions: the issue rule, and one use of it for each. -/

namespace Sys2Proof.Machine

/-! ### The issue rule (R295, R296, R302) -/

/-- A Lathe that may issue fetches the word `w`: no other one is held back, and its way is the partition's. -/
def State.FetchesWord (b : State) (n : Nat) (w : BitVec 128) : Prop :=
  (b.settleLathe n).issuing n = true ∧ ((b.settleLathe n).lathe n).held.any (fun v => v != w) = false ∧
    (b.settleLathe n).fetchOk n = true

/-- An instruction has issued with its effect, and the Lathe goes on to the next word. -/
def State.issuedWord (n : Nat) (f : State → State) (b : State) : State :=
  (f (b.settleLathe n)).setLathe n (fun x => { x with
    waiting := none, held := none, lastIssue := (b.settleLathe n).now, pc := x.pc + 16 })

/-- An instruction waits for slot `i`, from the stamp at which it first waited. -/
def State.waitingWord (n : Nat) (w : BitVec 128) (i : Nat) (b : State) : State := (b.settleLathe n).setLathe n (fun x => { x with
  waiting := some ((x.waiting.map (fun e => e.1)).getD (b.settleLathe n).now, i), held := some w })

section
variable {b : State} {n : Nat} {w : BitVec 128} {ok : State → Bool} {stuck : State → Option Nat} {effect : State → State}

/-- A sound instruction whose slots are ready issues. -/
theorem instr_of_ready (hf : b.FetchesWord n w) (hok : ok (b.settleLathe n) = true) (hs : stuck (b.settleLathe n) = none) :
    b.instr n w ok stuck effect = State.issuedWord n effect b := by
  obtain ⟨hi, hh, hw⟩ := hf
  unfold State.instr
  refine (if_neg (by rw [hi, hh]; exact Bool.false_ne_true)).trans ((if_neg (by rw [hw, hok]; exact Bool.false_ne_true)).trans ?_)
  rw [hs]
  rfl

/-- A sound instruction with a slot that is not ready waits for it. -/
theorem instr_of_stuck {i : Nat} (hf : b.FetchesWord n w) (hok : ok (b.settleLathe n) = true)
    (hs : stuck (b.settleLathe n) = some i) : b.instr n w ok stuck effect = State.waitingWord n w i b := by
  obtain ⟨hi, hh, hw⟩ := hf
  unfold State.instr
  refine (if_neg (by rw [hi, hh]; exact Bool.false_ne_true)).trans ((if_neg (by rw [hw, hok]; exact Bool.false_ne_true)).trans ?_)
  rw [hs]
  rfl

/-- An instruction that is not sound is illegal. -/
theorem instr_of_illegal (hf : b.FetchesWord n w) (hok : ok (b.settleLathe n) = false) :
    b.instr n w ok stuck effect = (b.settleLathe n).illegal n := by
  obtain ⟨hi, hh, hw⟩ := hf
  unfold State.instr
  dsimp only
  rw [if_neg (by rw [hi, hh]; exact Bool.false_ne_true), if_pos (by rw [hw, hok]; rfl)]

/-- While an instruction is held back, no other word is fetched. -/
theorem instr_of_held {v : BitVec 128} (hv : ((b.settleLathe n).lathe n).held = some v) (hne : v ≠ w) :
    b.instr n w ok stuck effect = b.settleLathe n := by
  unfold State.instr
  dsimp only
  rw [if_pos (by rw [hv]; simp [hne])]

/-- Where the current layer has begun, its instructions follow the issue rule. -/
theorem instrOfLayer_of_begun (hl : b.layerHeld n = false) : b.instrOfLayer n w ok stuck effect = b.instr n w ok stuck effect := by
  unfold State.instrOfLayer
  rw [if_neg (by rw [hl]; exact Bool.false_ne_true)]

/-- Where the current layer has not begun, its instructions are held back. -/
theorem instrOfLayer_of_waiting (hl : b.layerHeld n = true) (hi : b.issuing n = true) :
    b.instrOfLayer n w ok stuck effect = b.setLathe n (fun x => { x with held := some (x.held.getD w) }) := by
  unfold State.instrOfLayer
  rw [if_pos hl, if_pos hi]

end

/-! ### The slots that instructions wait for -/

theorem fenceStuck_of_idle {x : Lathe} (h : x.idle = true) : x.fenceStuck = none := by
  unfold Lathe.fenceStuck
  exact if_pos h

/-- A FENCE waits for a slot that an earlier instruction still writes. -/
theorem fenceStuck_of_written {x : Lathe} {i : Nat} {v : LSlot} (h : x.slots.find? (fun e => e.2.st == 3) = some (i, v)) :
    x.fenceStuck = some i := by
  have hst : (v.st == 3) = true := by
    have hfound := List.find?_some h
    exact hfound
  have hidle : x.idle = false := by
    unfold Lathe.idle
    rw [Bool.and_eq_false_iff]
    refine Or.inl (List.all_eq_false.mpr ⟨(i, v), List.mem_of_find?_eq_some h, ?_⟩)
    simpa using hst
  unfold Lathe.fenceStuck
  rw [hidle, h]
  rfl

theorem find?_eq_none_of_all_not {α : Type} {l : List α} {p q : α → Bool} (h : l.all q = true) (hpq : ∀ x, p x = !q x) :
    l.find? p = none := by
  rw [List.find?_eq_none]
  intro x hx
  rw [hpq, List.all_eq_true.mp h x hx]
  exact Bool.false_ne_true

theorem releaseStuck_eq_none {x : Lathe} {w : BitVec 128}
    (h : (releaseSlots w).all (fun i => (x.slot i).st != 1 && (x.slot i).st != 4) = true) : x.releaseStuck w = none :=
  find?_eq_none_of_all_not h (fun i => by simp [bne])

theorem drainStuck_eq_none {x : Lathe} {w : BitVec 128}
    (h : (drainSlots w).all (fun i => (x.slot i).st == 2 || (x.slot i).st == 3) = true) : x.drainStuck w = none :=
  find?_eq_none_of_all_not h (fun i => by simp [bne])

theorem sendStuck_eq_none {x : Lathe} {w : BitVec 128} (h : (sendSlots w).all (fun i => x.canRead i) = true) :
    x.sendStuck w = none :=
  find?_eq_none_of_all_not h (fun _ => rfl)

/-! ### The instructions -/

theorem releaseStep_of_ready {b : State} {n : Nat} {w : BitVec 128} (hf : b.FetchesWord n w)
    (hr : reservedOk w (maskOf 119 106) = true) (hb : bitsAt w 119 118 < 3)
    (hlast : bitsAt w 117 112 + (bitsAt w 111 106 + 1) ≤ (if bitsAt w 119 118 = 2 then 16 else 32))
    (hs : (releaseSlots w).all (fun i =>
      (((b.settleLathe n).lathe n).slot i).st != 1 && (((b.settleLathe n).lathe n).slot i).st != 4) = true) :
    releaseStep n w b = State.issuedWord n (fun s => ((releaseSlots w).foldl (fun s i =>
      if ((s.lathe n).slot i).st = 0 then s else s.setSlot n i { (s.lathe n).slot i with release := true }) s).settleLathe n) b := by
  have hlast' : bitsAt w 117 112 + (bitsAt w 111 106 + 1) ≤ (if bitsAt w 119 118 == 2 then 16 else 32) :=
    hlast.trans_eq (if_congr beq_iff_eq.symm rfl rfl)
  unfold releaseStep
  refine (instr_of_ready hf (by rw [hr, decide_eq_true hb, decide_eq_true hlast']; rfl) (releaseStuck_eq_none hs)).trans ?_
  simp only [beq_iff_eq]

theorem drainStep_of_ready {b : State} {n : Nat} {w : BitVec 128} (hl : b.layerHeld n = false) (hf : b.FetchesWord n w)
    (hr : reservedOk w (maskOf 119 96) = true) (hlast : bitsAt w 119 116 + (bitsAt w 115 112 + 1) ≤ 16)
    (hs : (drainSlots w).all (fun i =>
      (((b.settleLathe n).lathe n).slot i).st == 2 || (((b.settleLathe n).lathe n).slot i).st == 3) = true) :
    drainStep n w b = State.issuedWord n (fun s => (drainSlots w).foldl (fun s i =>
      let v := (s.lathe n).slot i
      if v.st = 3 then s.setSlot n i { v with drain := true, tag := bitsAt w 111 96 }
      else s.setSlot n i { v with st := 4, tag := bitsAt w 111 96 }) s) b := by
  unfold drainStep
  refine (instrOfLayer_of_begun hl).trans ((instr_of_ready hf (by rw [hr, decide_eq_true hlast]; rfl) (drainStuck_eq_none hs)).trans ?_)
  simp only [beq_iff_eq]

theorem sendSelStep_of_ready {b : State} {n : Nat} {w : BitVec 128} (hl : b.layerHeld n = false) (hf : b.FetchesWord n w)
    (hr : reservedOk w (maskOf 119 91 ||| maskOf 63 32) = true) (hfmt : [1, 2, 4, 7, 9].contains (bitsAt w 94 91) = true)
    (hlast : bitsAt w 119 112 + tileSlots (65536 * (fmtBits (bitsAt w 94 91)).getD 32 / 8) ≤
      (if (bitsAt w 111 111 == 1) = true then 32 else 16))
    (hs : (sendSlots w).all (fun i => ((b.settleLathe n).lathe n).canRead i) = true) :
    sendSelStep n w b = State.issuedWord n (fun s =>
      let bits := (fmtBits (bitsAt w 94 91)).getD 32
      let sl := namedSlots (if bitsAt w 111 111 == 1 then 1 else 2) (bitsAt w 119 112) (tileSlots (65536 * bits / 8))
      let data := (List.range (bitsAt w 110 103 + 1)).map (fun i =>
        let row := s.bytes (slotAddr n (sl.headD 0) + i * 256 * bits / 8) ((bitsAt w 102 95 + 1) * bits / 8)
        (List.range (bitsAt w 102 95 + 1)).map (fun j => elemAt bits row j))
      ({ s with selIn := s.selIn ++ [(bitsAt w 63 32, bitsAt w 94 91, data)] } : State).setLathe n (fun x => { x with
        reads := x.reads ++ sl.map (fun i => (i, arrayTime s.now + (bitsAt w 110 103 + 1) * s.cycle n)) })) b := by
  unfold sendSelStep
  exact (instrOfLayer_of_begun hl).trans
    (instr_of_ready hf (by rw [hr, hfmt, decide_eq_true hlast]; rfl) (sendStuck_eq_none hs))

/-- What LAYER does for the plan layer `m` of the Lathe's kernel. -/
def layerEffect (n : Nat) (m : Model) (s : State) : State :=
  let p := (s.lathe n).part
  let j := (s.lathe n).layers - 1
  let s1 := s.setLathe n (fun x => { x with marks := max x.marks j })
  let lanes := (s1.contextLathes p (s.runner p).ctx).filter (fun y =>
    match s1.laneOf p (s.runner p).ctx y with
    | some l => l < m.lanes
    | none => false)
  if (s.runner p).active && (s.runner p).layer < j && lanes.all (fun y => j ≤ (s1.lathe y).marks) then s1.startLayer p j else s1

/-- LAYER that names its kernel's own layer begins it. -/
theorem layerStep_of_own {b : State} {n : Nat} {w : BitVec 128} {m : Model} {i : Nat} (hf : b.FetchesWord n w)
    (hr : reservedOk w (maskOf 119 104) = true)
    (hp : ((b.settleLathe n).planLayers ((b.settleLathe n).runner ((b.settleLathe n).lathe n).part).plan)[
      ((b.settleLathe n).lathe n).layers - 1]? = some (m, i)) (hi : i = bitsAt w 119 104) :
    layerStep n w b = State.issuedWord n (layerEffect n m) b := by
  unfold layerStep
  refine (instr_of_ready hf hr rfl).trans ?_
  unfold State.issuedWord
  dsimp only
  rw [hp]
  dsimp only
  rw [hi, beq_self_eq_true, if_pos rfl]
  rfl

/-- Settles O34. -/
theorem latheInstructionsHaveTheirEffect : Obligations.LatheInstructionsHaveTheirEffect := by
  unfold Obligations.LatheInstructionsHaveTheirEffect
  intro ready issued waits
  refine ⟨?_, ?_, ?_, ?_, ?_, ?_, ?_, ?_, ?_, ?_, ?_, ?_, ?_, ?_⟩
  case refine_1 =>
    exact fun n w => unitEffect_of (fun _ _ => rfl) (fun b ⟨hf, hr⟩ => instr_of_ready hf hr rfl)
  case refine_2 =>
    exact fun n w => unitEffect_of (fun _ _ => rfl) (fun b ⟨hf, hr⟩ => instr_of_ready hf hr rfl)
  case refine_3 =>
    exact fun n w => unitEffect_of (fun _ _ => rfl) (fun b ⟨hf, hr, hi⟩ => instr_of_ready hf hr (fenceStuck_of_idle hi))
  case refine_4 =>
    exact fun n w i v => unitEffect_of (fun _ _ => rfl) (fun b ⟨hf, hr, hs⟩ => instr_of_stuck hf hr (fenceStuck_of_written hs))
  case refine_5 =>
    exact fun n w => unitEffect_of (fun _ _ => rfl)
      (fun b ⟨hf, hr, hb, hlast, hs⟩ => releaseStep_of_ready hf hr hb hlast hs)
  case refine_6 =>
    exact fun n w m i => unitEffect_of (fun _ _ => rfl) (fun b ⟨hf, hr, hp, hi⟩ => layerStep_of_own hf hr hp hi)
  case refine_7 =>
    exact fun n w => unitEffect_of (fun _ _ => rfl) (fun b ⟨hl, hf, hr, hlast, hs⟩ => drainStep_of_ready hl hf hr hlast hs)
  case refine_8 =>
    exact fun n w => unitEffect_of (fun _ _ => rfl)
      (fun b ⟨hl, hf, hr, hfmt, hlast, hs⟩ => sendSelStep_of_ready hl hf hr hfmt hlast hs)
  case refine_9 =>
    exact fun n w => unitEffect_of (fun _ _ => rfl)
      (fun b ⟨hl, hf, hok, hs⟩ => (instrOfLayer_of_begun hl).trans (instr_of_ready hf hok hs))
  case refine_10 =>
    exact fun n w i => unitEffect_of (fun _ _ => rfl)
      (fun b ⟨hl, hf, hok, hs⟩ => (instrOfLayer_of_begun hl).trans (instr_of_stuck hf hok hs))
  case refine_11 =>
    exact fun n w => unitEffect_of (fun _ _ => rfl)
      (fun b ⟨hl, hf, hok, hs⟩ => (instrOfLayer_of_begun hl).trans (instr_of_ready hf hok hs))
  case refine_12 =>
    exact fun n v w => unitEffect_of (fun _ _ => rfl)
      (fun b ⟨hl, _, hv, hne⟩ => (instrOfLayer_of_begun hl).trans (instr_of_held hv hne))
  case refine_13 =>
    exact fun n w => unitEffect_of (fun _ _ => rfl) (fun b ⟨hl, hi⟩ => instrOfLayer_of_waiting hl hi)
  case refine_14 =>
    exact fun n w => unitEffect_of (fun _ _ => rfl) (fun b ⟨hf, ho⟩ => instr_of_illegal hf ho)

end Sys2Proof.Machine
end

section
/-! Kernel starts, scoreboards, stalls, gating, wakes and errors of the Lathes. -/

namespace Sys2Proof.Machine

/-- A gated Lathe that does not wait for a wake yet asks for one. -/
theorem askLathe_eq (s : State) (n : Nat) :
    s.askLathe n = if s.bit (LTH_ARRAY n) 1 && !s.wakes.any (fun w => w.unit == .lathe n) then
        { s with wakes := s.wakes ++ [({ unit := .lathe n, since := s.now } : WakeReq)] }
      else s := by
  unfold State.askLathe State.askWake
  cases hb : s.bit (LTH_ARRAY n) 1
  · rw [if_neg Bool.false_ne_true, Bool.false_and, if_neg Bool.false_ne_true]
  · rw [if_pos rfl, Bool.true_and]
    cases hw : s.wakes.any (fun w => w.unit == .lathe n)
    · rw [if_neg Bool.false_ne_true, if_pos (by rfl)]
    · rw [if_pos rfl, if_neg (by decide)]

theorem kernelStartStep_of_idle {b : State} {p n lane k i a : Nat} {m : Model}
    (hlane : (b.settleLathe n).laneOf p ((b.settleLathe n).runner p).ctx n = some lane)
    (hact : ((b.settleLathe n).runner p).active = true) (hrun : ((b.settleLathe n).lathe n).running = false)
    (hown : (b.settleLathe n).latheOwner n = some p) (hst : (b.settleLathe n).fld (LTH_ARRAY n) 18 16 = 1)
    (hcal : (b.settleLathe n).cal.wait.contains (n / 14) = false)
    (hspare : (b.settleLathe n).awaitsSpare p ((b.settleLathe n).runner p).ctx = false)
    (hnext : nextKernel ((b.settleLathe n).planLayers ((b.settleLathe n).runner p).plan) lane ((b.settleLathe n).lathe n).layers =
      some (k, m, i)) (hk : k ≤ ((b.settleLathe n).runner p).layer + 1)
    (hcode : ((b.settleLathe n).copyCode p k).codeAddr p ((b.settleLathe n).runner p).ctx (m, i) k lane = some a)
    (hentry : ((m.laneEntries i).getD lane (0, 0)).2 ≠ 0) :
    kernelStartStep p n b =
      let s := b.settleLathe n
      let s1 := ((s.copyCode p k).setLathe n (fun x => { x with
        ctx := (s.runner p).ctx, part := p, pc := a, layers := k + 1, waiting := none, held := none, lastOut := [] })).setRunning n true
      if s1.bit (LTH_ARRAY n) 1 && !s1.wakes.any (fun w => w.unit == .lathe n) then
        { s1 with wakes := s1.wakes ++ [({ unit := .lathe n, since := s1.now } : WakeReq)] }
      else s1 := by
  unfold kernelStartStep
  dsimp only
  rw [hlane]
  dsimp only
  rw [if_neg (by rw [hact, hrun, hspare, hown, hst, hcal]; simp), hnext]
  dsimp only
  rw [if_neg (Nat.not_lt.mpr hk), hcode]
  dsimp only
  rw [if_neg (by simpa using hentry), askLathe_eq]

/-- The last row of a result is written: its slot is resident, or draining where a DRAIN waits for it. -/
theorem slotWriteCompleteStep_of_written {b : State} {n slot : Nat} {buf : LatheBuf}
    (h : ((b.lathe n).slot (slotNo buf slot)).st = 3) :
    slotWriteCompleteStep n buf slot b =
      let v := (b.lathe n).slot (slotNo buf slot)
      (b.setSlot n (slotNo buf slot) (if v.drain then { v with st := 4, drain := false } else { v with st := 2 })).settleLathe n := by
  unfold slotWriteCompleteStep
  dsimp only
  rw [if_neg (by simp [h])]
  cases hd : ((b.lathe n).slot (slotNo buf slot)).drain
  · rw [if_neg Bool.false_ne_true, if_neg Bool.false_ne_true]
  · rw [if_pos rfl, if_pos rfl]

/-- A Lathe that runs no kernel and has issued nothing for long is gated. -/
theorem latheIdleGateStep_of_idle {b : State} {n : Nat} (he : b.bit LTH_CTRL 1 = true) (h0 : b.fld (LTH_ARRAY n) 18 16 ≠ 0)
    (h2 : b.fld (LTH_ARRAY n) 18 16 ≠ 2) (hrun : (b.lathe n).running = false)
    (hrt : ∀ p, b.latheOwner n = some p → (b.part p).assign.rt = false) (hg : b.bit (LTH_ARRAY n) 1 = false)
    (ht : (b.lathe n).lastIssue + b.fld LTH_IDLE_CFG 15 0 * 1000 ≤ b.now) :
    latheIdleGateStep n b = b.setFld (LTH_ARRAY n) 1 1 1 := by
  have hgate : (b.bit LTH_CTRL 1 && b.fld (LTH_ARRAY n) 18 16 != 0 && b.fld (LTH_ARRAY n) 18 16 != 2 && !(b.lathe n).running) = true := by
    rw [he, hrun]
    simp [h0, h2]
  unfold latheIdleGateStep
  dsimp only
  rw [hgate, hg, decide_eq_true ht]
  cases hown : b.latheOwner n with
  | none => rw [if_pos (by rfl)]
  | some p =>
    rw [if_pos (by simpa using hrt p hown)]

/-- The first and the second failure of a step in a Lathe's buffer run it again. -/
theorem latheBufferErrorStep_of_again {b s1 : State} {tear : Nat → Nat → State → State} {n slot word p : Nat} {buf : LatheBuf}
    (hs1 : ((b.event LTH_EVENT 1).lthLogPut 2 n p (slotNo buf slot) word).report ⟨4, n, 0, .uncorrectable⟩ = s1)
    (hown : b.latheOwner n = some p) (howned : (s1.latheOwner n).isSome = true) (hact : (s1.runner p).active = true)
    (hlane : (s1.laneOf p (s1.runner p).ctx n).isSome = true) (hfail : (s1.runner p).failures < 2) :
    latheBufferErrorStep tear n .bufferUncorrectable buf slot word b =
      let s2 := (s1.abortKernels p (s1.runner p).ctx).setRunner p (fun r => { r with failures := r.failures + 1 })
      let s3 := (s2.runner p).counted.foldl (fun s i => s.setSeq i (fun q => { q with fallbacks := q.fallbacks - 1 })) s2
      (s3.setRunner p (fun r => { r with counted := [], fallbacks := 0 })).beginStep p := by
  have hgetD : (b.latheOwner n).getD 0 = p := by rw [hown, Option.getD_some]
  have hkind : (LatheError.bufferUncorrectable == .peParity) = false := rfl
  have hgoes : ((s1.latheOwner n).isNone || !(s1.runner p).active || (s1.laneOf p (s1.runner p).ctx n).isNone) = false := by
    rw [hact, ← Option.not_isSome, ← Option.not_isSome, howned, hlane]
    rfl
  unfold latheBufferErrorStep
  simp only [hgetD, hkind, Bool.false_eq_true, if_false, hs1, hgoes, if_neg (Nat.not_le.mpr hfail)]
  rfl

/-- Settles O35. -/
theorem latheEventsHaveTheirEffect : Obligations.LatheEventsHaveTheirEffect := by
  unfold Obligations.LatheEventsHaveTheirEffect
  refine ⟨?_, ?_, ?_, ?_, ?_, ?_, ?_, ?_, ?_⟩
  case refine_1 =>
    exact fun p n lane k m i a => unitEffect_of (fun _ _ => rfl)
      (fun b ⟨hlane, hact, hrun, hown, hst, hcal, hspare, hnext, hk, hcode, hentry⟩ =>
        kernelStartStep_of_idle hlane hact hrun hown hst hcal hspare hnext hk hcode hentry)
  case refine_2 =>
    exact fun n buf slot => unitEffect_of (fun _ _ => rfl) (fun b h => slotWriteCompleteStep_of_written h)
  case refine_3 =>
    exact fun n slot => unitEffect_of (fun _ _ => rfl) (fun b h => if_pos (by simp [h]))
  case refine_4 =>
    refine fun n t0 w i slot => unitEffect_of (fun _ _ => rfl) (fun b ⟨hw, hh, hs, hrun, ht⟩ => ?_)
    unfold latheStallStep
    dsimp only
    rw [hw, hh, Option.bind_some, hs]
    dsimp only
    rw [if_neg (by simpa [hrun] using Nat.not_le.mpr ht)]
  case refine_5 =>
    exact fun n => unitEffect_of (fun _ _ => rfl)
      (fun b ⟨he, h0, h2, hrun, hrt, hg, ht⟩ => latheIdleGateStep_of_idle he h0 h2 hrun hrt hg ht)
  case refine_6 =>
    refine fun l w => unitEffect_of (fun _ _ => rfl) (fun b ⟨hl, hw⟩ => ?_)
    unfold wakeGrantStep
    dsimp only
    rw [hl]
    dsimp only
    rw [hw]
    rfl
  case refine_7 =>
    exact fun n buf slot word => unitEffect_of (fun _ _ => rfl) (fun _ _ => rfl)
  case refine_8 =>
    exact fun n buf slot word p => unitEffect_of (fun _ _ => rfl)
      (fun b ⟨hown, howned, hact, hlane, hfail⟩ => latheBufferErrorStep_of_again rfl hown howned hact hlane hfail)
  case refine_9 =>
    exact unitEffect_of (fun _ _ => rfl) (fun _ _ => rfl)

end Sys2Proof.Machine
end

section
/-! The layer schedule, and the background work of the tiers. -/

namespace Sys2Proof.Machine

/-! ### Fetches of the layer schedule -/

/-- The next group is issued once its time has come, with its tiles pinned and its places reserved. -/
theorem groupFetchIssueStep_of_due {b s1 : State} {p i : Nat} {dst : List SlotRef} {g : GroupRun} {m : Model} {x : TileGroup}
    (hact : ((b.settleLathes p).runner p).active = true) (hnext : (b.settleLathes p).nextGroup p = some (i, g)) (hfell : g.fell = false)
    (hrec : (b.settleLathes p).groupRec g = some (m, x))
    (hdue : (b.settleLathes p).predict ((b.settleLathes p).runner p) g.layer ≤ (b.settleLathes p).now + x.lead)
    (hin : (b.settleLathes p).groupIn0 p g = false) (he : (b.settleLathes p).bit TIER_CTRL 0 = true)
    (hfit : (b.settleLathes p).placesFit p ((b.settleLathes p).runner p).ctx ((b.settleLathes p).fetchObjs g) dst = true)
    (hpin : (b.settleLathes p).pinAll p ((b.settleLathes p).fetchObjs g) = some s1) :
    groupFetchIssueStep p dst b =
      let s := b.settleLathes p
      (((s1.copyCode p g.layer).reservePlaces p (s.fetchObjs g) dst).setGroup p i (fun g => { g with
        issued := some s.now, dst := dst })).setRunner p (fun r => { r with lastIssue := s.now }) := by
  unfold groupFetchIssueStep
  dsimp only
  rw [hact, if_neg (by decide), hnext]
  dsimp only
  rw [hrec]
  dsimp only
  rw [if_neg (by simpa [hfell] using Nat.not_lt.mpr hdue), if_neg (by rw [hin, Bool.and_false]; exact Bool.false_ne_true),
    if_neg (by rw [he, hfit]; decide), hfell, if_neg Bool.false_ne_true, hpin]

/-- A group that is resident already is not fetched. -/
theorem groupFetchIssueStep_of_resident {b : State} {p i : Nat} {dst : List SlotRef} {g : GroupRun} {m : Model} {x : TileGroup}
    (hact : ((b.settleLathes p).runner p).active = true) (hnext : (b.settleLathes p).nextGroup p = some (i, g)) (hfell : g.fell = false)
    (hrec : (b.settleLathes p).groupRec g = some (m, x))
    (hdue : (b.settleLathes p).predict ((b.settleLathes p).runner p) g.layer ≤ (b.settleLathes p).now + x.lead)
    (hin : (b.settleLathes p).groupIn0 p g = true) :
    groupFetchIssueStep p dst b =
      let s := b.settleLathes p
      s.setGroup p i (fun g => { g with issued := some s.now, doneAt := some s.now, over_ := true }) := by
  unfold groupFetchIssueStep
  dsimp only
  rw [hact, if_neg (by decide), hnext]
  dsimp only
  rw [hrec]
  dsimp only
  rw [if_neg (by simpa [hfell] using Nat.not_lt.mpr hdue), if_pos (by rw [hin, hfell]; rfl)]

/-- A tile that reads correctly goes into its place. -/
theorem tileFillCompleteStep_of_read {b s1 : State} {p grp tile id : Nat} {d : SlotRef} {g : GroupRun} {m : Model} {x : TileGroup}
    {o : TierObj} {bs : List Byte} (hg : (b.runner p).groups[grp]? = some g) (hfell : g.fell = false)
    (hrec : b.groupRec g = some (m, x)) (hid : (b.fetchObjs g)[tile]? = some id) (hd : g.dst[tile]? = some d)
    (hact : (b.runner p).active = true) (hiss : g.issued.isSome = true) (hdone : g.doneAt = none)
    (harr : g.arrived.contains tile = false) (ho : b.obj? p id = some o) (hread : b.objContent p o = (some bs, s1)) :
    tileFillCompleteStep p grp tile d b = s1.countWait p (fun s =>
      let s2 := s.fillPlace p id o.fmt d (delivered x o bs)
      (s2.setGroup p grp (fun y =>
        let since := y.issued.getD s2.now
        { y with
          arrived := tile :: y.arrived
          doneAt := if (tile :: y.arrived).length == (b.fetchObjs g).length then some s2.now else none
          first := some (y.first.getD (since + Config.freeBelow s2.freeCtr (s2.now - since + 1))) })).tick) := by
  have hgoes : (!(b.runner p).active || g.issued.isNone || g.doneAt.isSome || g.arrived.contains tile || d != d) = false := by
    rw [hact, hdone, harr, ← Option.not_isSome, hiss, bne_self_eq_false]
    rfl
  unfold tileFillCompleteStep
  dsimp only
  rw [hg]
  dsimp only
  rw [hfell, if_neg Bool.false_ne_true, hrec, hid, hd]
  dsimp only
  rw [hgoes, if_neg Bool.false_ne_true, ho]
  dsimp only
  rw [hread]

/-! ### Groups in flight -/

theorem checkGroup_of_idle {s : State} {p : Nat} (h : (s.runner p).active = false) (i : Nat) (g : GroupRun) : s.checkGroup p i g = s := by
  unfold State.checkGroup
  rw [h]
  exact if_pos rfl

/-- Where no step runs, no group is in flight. -/
theorem runnerCheckStep_of_idle {b : State} {p : Nat} (h : (b.runner p).active = false) : runnerCheckStep p b = b := by
  unfold runnerCheckStep
  exact foldl_fixed_of_mem (fun e _ => checkGroup_of_idle h e.2 e.1)

/-- A group in flight that is projected too late gets a shadow fetch of its understudy. -/
theorem checkGroup_of_late {b s1 : State} {p i : Nat} {g : GroupRun} {m m' : Model} {x u : TileGroup}
    (hact : (b.runner p).active = true) (hiss : g.issued.isSome = true) (hdone : g.doneAt = none) (hfell : g.fell = false)
    (hshadow : g.shadow = false) (hover : g.over_ = false) (hrec : b.groupRec g = some (m, x)) (hunder : b.underRec g = some (m', u))
    (hlate : ∀ e, b.projected p g m x = some e → b.predict (b.runner p) g.layer ≤ e) (hfb : x.fbGen = 1)
    (hroom : m.groupBytes u ≤ b.freeWays p) (he : b.bit TIER_CTRL 0 = true)
    (hpin : (((b.setGroup p i (fun g => { g with first := b.firstByte g })).tick).tick).pinAll p (groupObjs m u) = some s1) :
    b.checkGroup p i g = s1.setGroup p i (fun g => { g with shadow := true }) := by
  have hgoes : (!(b.runner p).active || g.issued.isNone || g.doneAt.isSome || g.fell || g.over_) = false := by
    rw [hact, hdone, hfell, hover, ← Option.not_isSome, hiss]
    rfl
  unfold State.checkGroup
  dsimp only
  rw [hgoes, if_neg Bool.false_ne_true, hrec]
  dsimp only
  rw [hunder]
  dsimp only
  rw [hpin, hshadow, hfb, he, decide_eq_true hroom]
  cases hproj : b.projected p g m x with
  | none => rw [if_pos (by rfl)]
  | some e => rw [if_pos (by simpa using hlate e hproj)]

theorem runnerCheckStep_of_one {b : State} {p : Nat} {g : GroupRun} (h : (b.runner p).groups = [g]) :
    runnerCheckStep p b = b.checkGroup p 0 g := by
  unfold runnerCheckStep
  rw [h]
  rfl

/-! ### Background evictions -/

/-- An eviction whose first part is done leaves at a later stamp. -/
theorem leave_of_written {s s1 : State} {p id : Nat} (m : Mover) (h : s.evictWrite p id = (0, s1)) :
    s.leave p id m = (stOk, if ((s1.obj? p id).map (fun o => o.t1.isSome)).getD false then
      s1.setObj p id (fun o => { o with leaving := some (s1.now, m), won := false }) else s1) := by
  unfold State.leave
  rw [h]
  rfl

/-- An eviction whose first part has failed does not start. -/
theorem leave_of_failed {s : State} {p id : Nat} (m : Mover) (h : (s.evictWrite p id).1 ≠ 0) :
    s.leave p id m = s.evictWrite p id := by
  unfold State.leave
  split
  · next heq => exact absurd (congrArg Prod.fst heq) h
  · rfl

/-- The first part of an eviction of the policy, and what follows from its status. -/
theorem policyEvictOne_eq (s : State) (p id : Nat) :
    (s.policyEvictOne p id).2 =
      let e := s.evictWrite p id
      if e.1 = stBusy then { e.2 with evictRetries := e.2.evictRetries ++ [(p, id, e.2.now + e.2.fld (TIER_POLICY p) 47 32 * 1000)] }
      else if e.1 = stOk ∧ ((e.2.obj? p id).map (fun o => o.t1.isSome)).getD false = true then
        e.2.setObj p id (fun o => { o with leaving := some (e.2.now, .policy), won := false })
      else e.2 := by
  unfold State.policyEvictOne
  by_cases hok : (s.evictWrite p id).1 = 0
  · have hpair : s.evictWrite p id = (0, (s.evictWrite p id).2) := Prod.ext hok rfl
    rw [leave_of_written .policy hpair]
    dsimp only
    rw [hok, if_neg (show ¬ (stOk == stBusy) = true by decide), if_neg (show ¬ (0 : Nat) = stBusy by decide)]
    exact if_congr (by simp) rfl rfl
  · rw [leave_of_failed .policy hok]
    dsimp only
    rw [if_neg (fun h : (s.evictWrite p id).1 = stOk ∧ _ => hok h.1)]
    exact if_congr beq_iff_eq rfl rfl

theorem evictRetryStep_of_due {b : State} {p id : Nat} {r : Nat × Nat × Stamp}
    (hr : b.evictRetries.find? (fun r => r.1 == p && r.2.1 == id) = some r) (ht : r.2.2 ≤ b.now) :
    evictRetryStep p id b =
      (({ b with evictRetries := b.evictRetries.filter (fun x => !(x.1 == p && x.2.1 == id)) } : State).policyEvictOne p id).2 := by
  unfold evictRetryStep
  rw [hr]
  exact if_pos ht

/-- Settles O36. -/
theorem runnerEventsHaveTheirEffect : Obligations.RunnerEventsHaveTheirEffect := by
  unfold Obligations.RunnerEventsHaveTheirEffect
  refine ⟨?_, ?_, ?_, ?_, ?_, ?_, ?_, ?_⟩
  case refine_1 =>
    exact fun p dst i g m x s1 => unitEffect_of (fun _ _ => rfl) (fun b ⟨hact, hnext, hfell, hrec, hdue, hin, he, hfit, hpin⟩ =>
      groupFetchIssueStep_of_due hact hnext hfell hrec hdue hin he hfit hpin)
  case refine_2 =>
    exact fun p dst i g m x => unitEffect_of (fun _ _ => rfl) (fun b ⟨hact, hnext, hfell, hrec, hdue, hin⟩ =>
      groupFetchIssueStep_of_resident hact hnext hfell hrec hdue hin)
  case refine_3 =>
    exact fun p grp tile d g m x id o bs s1 => unitEffect_of (fun _ _ => rfl)
      (fun b ⟨hg, hfell, hrec, hid, hd, hact, hiss, hdone, harr, ho, hread⟩ =>
        tileFillCompleteStep_of_read hg hfell hrec hid hd hact hiss hdone harr ho hread)
  case refine_4 =>
    exact fun p => unitEffect_of (fun _ _ => rfl) (fun b h => runnerCheckStep_of_idle h)
  case refine_5 =>
    exact fun p g m x m' u s1 => unitEffect_of (fun _ _ => rfl)
      (fun b ⟨hg, hact, hiss, hdone, hfell, hshadow, hover, hrec, hunder, hlate, hfb, hroom, he, hpin⟩ =>
        (runnerCheckStep_of_one hg).trans
          (checkGroup_of_late hact hiss hdone hfell hshadow hover hrec hunder hlate hfb hroom he hpin))
  case refine_6 =>
    refine fun p => unitEffect_of (fun _ _ => rfl) (fun b ⟨he, hm, ho⟩ => congrArg State.markKvLost ?_)
    unfold tierPolicyEvictStep
    exact if_pos (by rw [he, hm, decide_eq_true ho]; rfl)
  case refine_7 =>
    refine fun p id r => unitEffect_of (fun _ _ => rfl) (fun b ⟨hr, ht⟩ => ?_)
    rw [evictRetryStep_of_due hr ht, policyEvictOne_eq]
    dsimp only
    rw [apply_ite State.markKvLost, apply_ite State.markKvLost]
  case refine_8 =>
    exact unitEffect_of (fun _ _ => rfl) (fun _ _ => rfl)

end Sys2Proof.Machine
end

section
/-! CXL links. -/

namespace Sys2Proof.Machine

/-! ### Training -/

section Training
variable {b : State} {l : Nat} {d : CxlTraining} (hon : b.bit CXL_CTRL l = true) (hfw : b.ready rdyFw = true)
  (hdown : b.cxlUp l = false) (hlink : b.linkState l ≠ 4) (hpresent : d.present = true) (hwidth : b.widthFits l d.width = true)
include hon hfw hdown hlink hpresent hwidth

/-- A present device whose width fits trains: what follows hangs on its security alone. -/
theorem cxlLinkUpStep_of_trained :
    cxlLinkUpStep l d b =
      let s0 := b.setPort l (fun x => { x with tryAt := b.now })
      if d.secure = false then (s0.setLink l 1).event SEC_EVENT 5
      else
        let s1 := (s0.setLink l (if d.width == 16 then 2 else 3)).setFld (CXL_LINK l) 51 40 (min 2048 d.capGib)
        let s2 := if d.width = 8 then s1.event TIER_EVENT (8 + l) else s1
        ((s2.event CXL_EVENT l).setReady (rdyCxl l) true).defaultRange l := by
  have htrains : (!b.bit CXL_CTRL l || !b.ready rdyFw || b.cxlUp l || b.linkState l == 4) = false := by
    rw [hon, hfw, hdown, beq_eq_false_iff_ne.mpr hlink]
    rfl
  unfold cxlLinkUpStep
  dsimp only
  rw [htrains, if_neg Bool.false_ne_true, hpresent, if_neg (by decide), hwidth, if_neg (by decide)]
  simp only [Bool.not_eq_true', beq_iff_eq]

theorem cxlLinkUpStep_of_secure (hsecure : d.secure = true) :
    cxlLinkUpStep l d b =
      let s0 := b.setPort l (fun x => { x with tryAt := b.now })
      let s1 := (s0.setLink l (if d.width == 16 then 2 else 3)).setFld (CXL_LINK l) 51 40 (min 2048 d.capGib)
      let s2 := if d.width = 8 then s1.event TIER_EVENT (8 + l) else s1
      ((s2.event CXL_EVENT l).setReady (rdyCxl l) true).defaultRange l := by
  rw [cxlLinkUpStep_of_trained hon hfw hdown hlink hpresent hwidth]
  exact if_neg (by rw [hsecure]; decide)

theorem cxlLinkUpStep_of_insecure (hsecure : d.secure = false) :
    cxlLinkUpStep l d b = ((b.setPort l (fun x => { x with tryAt := b.now })).setLink l 1).event SEC_EVENT 5 := by
  rw [cxlLinkUpStep_of_trained hon hfw hdown hlink hpresent hwidth]
  exact if_pos hsecure

end Training

/-! ### Recovery windows -/

theorem cxlLinkRecoverStep_of_active {b : State} {l w : Nat} {t0 : Stamp} (hwin : (b.port l).window = some t0)
    (ht : b.now < t0 + recoveryNs) (hwidth : b.widthFits l w = true) :
    cxlLinkRecoverStep l w .active b =
      let s1 := (b.setPort l (fun x => { x with window := none })).setLink l (if w == 16 then 2 else 3)
      (if w == 8 && b.linkState l == 2 then s1.event TIER_EVENT (8 + l) else s1).event CXL_EVENT (8 + l) := by
  have hback : (CxlReturn.active != CxlReturn.active || decide (t0 + recoveryNs ≤ b.now) || !b.widthFits l w) = false := by
    rw [hwidth, decide_eq_false (Nat.not_le.mpr ht)]
    rfl
  unfold cxlLinkRecoverStep
  rw [hwin]
  dsimp only
  rw [hback, if_neg Bool.false_ne_true]

/-- A link that comes back another way, or too late, is lost. -/
theorem cxlLinkRecoverStep_of_lost {b : State} {l w : Nat} {how : CxlReturn} {t0 : Stamp} (hwin : (b.port l).window = some t0)
    (hlost : how ≠ .active ∨ t0 + recoveryNs ≤ b.now) : cxlLinkRecoverStep l w how b = b.cxlLost l := by
  unfold cxlLinkRecoverStep
  rw [hwin]
  exact if_pos (by simp [hlost])

theorem cxlRecoveryTimeoutStep_of_late {b : State} {l : Nat} {t0 : Stamp} (hwin : (b.port l).window = some t0)
    (ht : t0 + recoveryNs ≤ b.now) : cxlRecoveryTimeoutStep l b = b.cxlLost l := by
  unfold cxlRecoveryTimeoutStep
  rw [hwin]
  exact if_pos ht

/-! ### Integrity -/

/-- The third integrity failure within a second is the one that finds two recent ones. -/
theorem ideIntegrityFailureStep_of_up {b : State} {l addr : Nat} (hup : b.cxlUp l = true) :
    ideIntegrityFailureStep l addr b =
      let s1 := b.dramUe (if cxlLinkOf addr = some l then addr else cxlBase l)
      let recent := (b.port l).ide.filter (fun t => b.now < t + 1_000_000_000)
      if 2 ≤ recent.length then s1.cxlLost l else s1.setPort l (fun x => { x with ide := b.now :: recent }) := by
  unfold ideIntegrityFailureStep
  rw [if_neg (by rw [hup]; decide)]
  simp only [beq_iff_eq, List.length_cons, Nat.succ_le_succ_iff]

/-- Settles O37. -/
theorem cxlCommandsHaveTheirEffect : Obligations.CxlCommandsHaveTheirEffect := by
  unfold Obligations.CxlCommandsHaveTheirEffect
  refine ⟨?_, ?_, ?_, ?_, ?_, ?_, ?_, ?_, ?_, ?_⟩
  case refine_1 =>
    exact fun l d => unitEffect_of (fun _ _ => rfl) (fun b ⟨hon, hfw, hdown, hlink, hpresent, hwidth, hsecure⟩ =>
      cxlLinkUpStep_of_secure hon hfw hdown hlink hpresent hwidth hsecure)
  case refine_2 =>
    exact fun l d => unitEffect_of (fun _ _ => rfl) (fun b ⟨hon, hfw, hdown, hlink, hpresent, hwidth, hsecure⟩ =>
      cxlLinkUpStep_of_insecure hon hfw hdown hlink hpresent hwidth hsecure)
  case refine_3 =>
    refine fun l => unitEffect_of (fun _ _ => rfl) (fun b ⟨hlink, ht⟩ => ?_)
    unfold cxlTrainRetryStep
    exact if_pos (by rw [hlink, decide_eq_true ht]; rfl)
  case refine_4 =>
    refine fun l => unitEffect_of (fun _ _ => rfl) (fun b ⟨hup, hwin⟩ => ?_)
    unfold cxlLinkExitStep
    exact if_pos (by rw [hup, hwin]; rfl)
  case refine_5 =>
    exact fun l w t0 => unitEffect_of (fun _ _ => rfl) (fun b ⟨hwin, ht, hwidth⟩ => cxlLinkRecoverStep_of_active hwin ht hwidth)
  case refine_6 =>
    exact fun l w how t0 => unitEffect_of (fun _ _ => rfl) (fun b ⟨hwin, hlost⟩ => cxlLinkRecoverStep_of_lost hwin hlost)
  case refine_7 =>
    exact fun l t0 => unitEffect_of (fun _ _ => rfl) (fun b ⟨hwin, ht⟩ => cxlRecoveryTimeoutStep_of_late hwin ht)
  case refine_8 =>
    refine fun l => unitEffect_of (fun _ _ => rfl) (fun b hlink => ?_)
    unfold rearmStep
    exact if_pos (by rw [hlink]; rfl)
  case refine_9 =>
    exact fun l addr => unitEffect_of (fun _ _ => rfl) (fun b hup => ideIntegrityFailureStep_of_up hup)
  case refine_10 =>
    exact fun l => unitEffect_of (fun _ _ => rfl) (fun b hup => if_pos hup)

end Sys2Proof.Machine
end

section
/-! Phases of power. -/

namespace Sys2Proof.Machine

/-- Whatever PWR_EN was before, a module that is not locked out takes its rise. -/
theorem powerUpStep_of_unlocked {b : State} (hlock : b.pwr.locked = false) :
    powerUpStep b =
      let s1 := b.setPwr (fun p => { p with en := true, enLow := none, locked := false })
      match b.pwr.phase with
      | .standby => s1.setPwr (fun p => { p with phase := .starting, since := b.now })
      | .powerDown => s1.setPwr (fun p => { p with again := some b.now })
      | .emergencyDown => s1.setPwr (fun p => { p with again := some b.now })
      | _ => s1 := by
  have hrise (low : Bool) : b.setPwr (fun p => { p with en := true, enLow := none, locked := p.locked && !low }) =
      b.setPwr (fun p => { p with en := true, enLow := none, locked := false }) := by
    unfold State.setPwr
    dsimp only
    rw [hlock, Bool.false_and]
  unfold powerUpStep
  dsimp only
  rw [hrise]
  exact if_neg Bool.false_ne_true

/-- An emergency power-down of a module that starts or runs. -/
theorem emergencyOff_of_on {b : State} (h : b.pwr.phase = .starting ∨ b.pwr.phase = .running) (cause : Nat) :
    b.emergencyOff cause =
      b.wipe.setPwr (fun p => { p with phase := .emergencyDown, since := b.now, wiped := true, last := cause }) := by
  unfold State.emergencyOff
  rcases h with h | h <;> rw [h]

theorem moduleReset_of_running {b : State} (h : b.pwr.phase = .running) (clears : Stamp) :
    b.moduleReset clears =
      b.wipe.setPwr (fun p => { p with phase := .held, since := b.now, hold := max (b.now + 1_000_000) clears }) := by
  unfold State.moduleReset
  rw [h]

theorem powerDownStep_of_running {b : State} (h : b.pwr.phase = .running) :
    powerDownStep b =
      let s1 := (b.setPwr (fun p => { p with en := false, enLow := some b.now, again := none })).event PWR_EVENT 6
      (if s1.fw.running.isSome then s1.logFree (s1.writerOf 0) 255 2 else s1).setPwr (fun p => { p with
        phase := .powerDown, since := (if s1.fw.running.isSome then s1.logFree (s1.writerOf 0) 255 2 else s1).now, wiped := false
        last := 1 }) := by
  unfold powerDownStep
  rw [h]

/-- Settles O38. -/
theorem powerPhasesFollowTheirCommands : Obligations.PowerPhasesFollowTheirCommands := by
  unfold Obligations.PowerPhasesFollowTheirCommands
  refine ⟨?_, ?_, ?_, ?_, ?_, ?_, ?_, ?_, ?_, ?_, ?_, ?_, ?_, ?_⟩
  case refine_1 =>
    refine powerEffect_of (fun _ _ => rfl) (fun b ⟨hphase, hlock⟩ => ?_)
    rw [powerUpStep_of_unlocked hlock, hphase]
    rfl
  case refine_2 =>
    refine powerEffect_of (fun _ _ => rfl) (fun b ⟨hphase, hlock⟩ => ?_)
    rw [powerUpStep_of_unlocked hlock, hphase]
    rfl
  case refine_3 =>
    exact powerEffect_of (fun _ _ => rfl) (fun b hphase => powerDownStep_of_running hphase)
  case refine_4 =>
    refine powerEffect_of (fun _ _ => rfl) (fun b hphase => ?_)
    unfold startFailureStep
    rw [hphase]
  case refine_5 =>
    exact fun mv held => powerEffect_of (fun _ _ => rfl) (fun b ⟨hmv, hheld, hphase⟩ =>
      (if_pos (by simp [hmv, hheld])).trans (emergencyOff_of_on (.inr hphase) 2))
  case refine_6 =>
    exact fun mv held => powerEffect_of (fun _ _ => rfl) (fun b hheld => if_neg (by simp [hheld]))
  case refine_7 =>
    exact fun mv held => powerEffect_of (fun _ _ => rfl) (fun b ⟨hmv, hheld, hphase⟩ =>
      (if_pos (by simp [hmv, hheld])).trans (emergencyOff_of_on (.inr hphase) 3))
  case refine_8 =>
    exact fun r held => powerEffect_of (fun _ _ => rfl) (fun b ⟨hheld, hphase⟩ =>
      (if_pos hheld).trans (emergencyOff_of_on (.inr hphase) 6))
  case refine_9 =>
    exact fun held => powerEffect_of (fun _ _ => rfl) (fun b ⟨hheld, hphase⟩ =>
      (if_pos hheld).trans (moduleReset_of_running hphase _))
  case refine_10 =>
    exact unitEffect_of (fun _ _ => rfl) (fun b hphase => moduleReset_of_running hphase b.now)
  case refine_11 =>
    exact fun held => powerEffect_of (fun _ _ => rfl) (fun b ⟨hheld, hphase⟩ =>
      (if_pos hheld).trans (moduleReset_of_running hphase _))
  case refine_12 =>
    refine powerEffect_of (fun _ _ => rfl) (fun b hphase => ?_)
    unfold standbyPowerOnStep
    rw [hphase]
  case refine_13 =>
    exact powerEffect_of (fun _ _ => rfl) (fun _ _ => rfl)
  case refine_14 =>
    refine fun t0 => powerEffect_of (fun _ _ => rfl) (fun b ⟨hlow, ht⟩ => ?_)
    unfold thermTripReleaseStep
    rw [hlow]
    exact if_pos ht

end Sys2Proof.Machine
end

section
/-! Power management. -/

namespace Sys2Proof.Machine

/-! ### Thermal samples -/

/-- What a sample writes into the registers of the sensors. -/
def State.showTemps (s : State) (temps : List Int) : State :=
  temps.zipIdx.foldl (fun s x => s.setFld (PWR_THERM x.2) 15 0 (ofSigned 16 x.1)) s

theorem lt_length_of_mem_zipIdx {α : Type} {xs : List α} {e : α × Nat} (h : e ∈ xs.zipIdx) : e.2 < xs.length := by
  simpa using List.snd_lt_of_mem_zipIdx h

/-- Of at most 15 temperatures every one has its register, every one is limited, and none is that of the inlet. -/
theorem thermalSampleStep_of_short {b : State} {temps : List Int} (hlen : temps.length ≤ 15) :
    thermalSampleStep temps b =
      let s1 := b.showTemps temps
      if temps.zipIdx.any (fun x => decide (b.fld (PWR_THERM x.2) 39 32 * 8 ≤ x.1)) = true then
        (s1.setPwr (fun p => { p with tripped := true, alerts := setBit p.alerts 4 })).emergencyOff 4
      else if temps.zipIdx.any (fun x => decide (b.fld (PWR_THERM x.2) 47 40 * 8 ≤ x.1)) = true then
        (s1.setPwr (fun p => { p with thermal := true })).showPower
      else if temps.zipIdx.all (fun x => decide (x.1 ≤ b.fld (PWR_THERM x.2) 47 40 * 8 - 40)) = true then
        (s1.setPwr (fun p => { p with thermal := false })).showPower
      else s1 := by
  have hall : temps.zipIdx.filter (fun x => decide (x.2 < 15)) = temps.zipIdx :=
    List.filter_eq_self.mpr (fun e he => decide_eq_true (Nat.lt_of_lt_of_le (lt_length_of_mem_zipIdx he) hlen))
  have hshow : temps.zipIdx.foldl (fun s x => if x.2 < 16 then s.setFld (PWR_THERM x.2) 15 0 (ofSigned 16 x.1) else s) b =
      b.showTemps temps :=
    List.foldl_ext _ _ b (fun s e he => if_pos (Nat.lt_succ_of_lt (Nat.lt_of_lt_of_le (lt_length_of_mem_zipIdx he) hlen)))
  unfold thermalSampleStep
  dsimp only
  rw [hshow, hall, List.drop_eq_nil_of_le hlen]
  rfl

theorem thermalSampleStep_of_trip {b : State} {temps : List Int} (hlen : temps.length ≤ 15)
    (htrip : temps.zipIdx.any (fun x => decide (b.fld (PWR_THERM x.2) 39 32 * 8 ≤ x.1)) = true) :
    thermalSampleStep temps b =
      ((b.showTemps temps).setPwr (fun p => { p with tripped := true, alerts := setBit p.alerts 4 })).emergencyOff 4 :=
  (thermalSampleStep_of_short hlen).trans (if_pos htrip)

/-- A temperature 5 °C below its limit is below it. -/
theorem thermalSampleStep_of_cool {b : State} {temps : List Int} (hlen : temps.length ≤ 15)
    (hcool : temps.zipIdx.all (fun x => decide (x.1 ≤ b.fld (PWR_THERM x.2) 47 40 * 8 - 40)) = true)
    (htrip : temps.zipIdx.all (fun x => decide (x.1 < b.fld (PWR_THERM x.2) 39 32 * 8)) = true) :
    thermalSampleStep temps b = ((b.showTemps temps).setPwr (fun p => { p with thermal := false })).showPower := by
  rw [List.all_eq_true] at htrip
  have hlimit := List.all_eq_true.mp hcool
  rw [thermalSampleStep_of_short hlen]
  dsimp only
  rw [if_neg, if_neg, if_pos hcool]
  · rw [List.any_eq_true]
    rintro ⟨e, he, hle⟩
    have := of_decide_eq_true (hlimit e he)
    have := of_decide_eq_true hle
    omega
  · rw [List.any_eq_true]
    rintro ⟨e, he, hle⟩
    exact absurd (of_decide_eq_true hle) (Int.not_le.mpr (of_decide_eq_true (htrip e he)))

/-! ### Phases -/

/-- The spare of lowest number takes the place of a phase that fails. -/
theorem phaseFaultStep_of_spare {b : State} {k r i : Nat} (hphase : b.pwr.phases.getD k (15, 0) = (r, 1))
    (hspare : (List.range 34).find? (fun i =>
      (((b.setPhase k (r, 4)).report ⟨11, k, 0, .uncorrectable⟩).pwr.phases.getD i (15, 0)).2 == 2) = some i)
    (henough : 7 ≤ (((((b.setPhase k (r, 4)).report ⟨11, k, 0, .uncorrectable⟩).setPhase i (r, 1)).event PWR_EVENT 4).showPhases).pwr.active r) :
    phaseFaultStep k b =
      ((((b.setPhase k (r, 4)).report ⟨11, k, 0, .uncorrectable⟩).setPhase i (r, 1)).event PWR_EVENT 4).showPhases := by
  unfold phaseFaultStep
  rw [hphase]
  dsimp only
  rw [if_neg (by decide), hspare]
  exact if_neg (Nat.not_lt.mpr henough)

theorem phaseReenableStep_of_short {b : State} {k r : Nat} (hphase : b.pwr.phases.getD k (15, 0) = (r, 4))
    (hshort : b.pwr.active r < 8) :
    phaseReenableStep k true b = (b.report ⟨11, k, 0, .retrySucceeded⟩).setPhase k (r, 1) := by
  unfold phaseReenableStep
  rw [hphase]
  dsimp only
  rw [if_neg (by decide), if_pos rfl, if_pos hshort]

/-! ### The chassis -/

theorem i3cCapWWriteStep_of_powered {b : State} {w : Nat} (h : b.pwr.phase ≠ .unpowered) :
    i3cCapWWriteStep w b = (b.setPwr (fun p => { p with chassis := w })).showCap := by
  unfold i3cCapWWriteStep
  split
  · next hoff => exact absurd hoff h
  · rfl

theorem i3cAlertCauseReadStep_of_powered {b : State} (h : b.pwr.phase ≠ .unpowered) :
    i3cAlertCauseReadStep b =
      ({ b with lastRead := BitVec.ofNat 64 ((b.i3cByte 0x12).getD 0).toNat } : State).setPwr (fun p => { p with alerts := 0 }) := by
  unfold i3cAlertCauseReadStep
  split
  · next hoff => exact absurd hoff h
  · rfl

/-- Settles O39. -/
theorem powerManagementHasItsEffect : Obligations.PowerManagementHasItsEffect := by
  unfold Obligations.PowerManagementHasItsEffect
  refine ⟨?_, ?_, ?_, ?_, ?_, ?_, ?_, ?_, ?_, ?_, ?_⟩
  case refine_1 =>
    exact fun w => unitEffect_of (fun _ _ => rfl) (fun _ _ => rfl)
  case refine_2 =>
    exact fun mv => unitEffect_of (fun _ _ => rfl) (fun b hmv => if_pos (decide_eq_true hmv))
  case refine_3 =>
    exact fun r => unitEffect_of (fun _ _ => rfl) (fun b hr => if_pos (decide_eq_true hr))
  case refine_4 =>
    refine unitEffect_of (fun _ _ => rfl) (fun b hall => if_neg ?_)
    rw [List.all_eq_true] at hall
    rw [List.any_eq_true]
    rintro ⟨r, hr, hlt⟩
    exact absurd (of_decide_eq_true hlt) (Nat.not_lt.mpr (of_decide_eq_true (hall r hr)))
  case refine_5 =>
    exact fun temps => unitEffect_of (fun _ _ => rfl) (fun b ⟨hlen, hcool, htrip⟩ => thermalSampleStep_of_cool hlen hcool htrip)
  case refine_6 =>
    exact fun temps => unitEffect_of (fun _ _ => rfl) (fun b ⟨hlen, htrip⟩ => thermalSampleStep_of_trip hlen htrip)
  case refine_7 =>
    exact fun k r i => unitEffect_of (fun _ _ => rfl) (fun b ⟨hphase, hspare, henough⟩ =>
      phaseFaultStep_of_spare hphase hspare henough)
  case refine_8 =>
    exact fun k r => unitEffect_of (fun _ _ => rfl) (fun b ⟨hphase, hshort⟩ => phaseReenableStep_of_short hphase hshort)
  case refine_9 =>
    exact fun r n => unitEffect_of (fun _ _ => rfl) (fun b ⟨hr, hn⟩ => if_pos (by simp [hr, hn]))
  case refine_10 =>
    exact fun w => powerEffect_of (fun _ _ => rfl) (fun b h => i3cCapWWriteStep_of_powered h)
  case refine_11 =>
    exact powerEffect_of (fun _ _ => rfl) (fun b h => i3cAlertCauseReadStep_of_powered h)

end Sys2Proof.Machine
end

section
/-! Faults and ageing. -/

namespace Sys2Proof.Machine

/-! ### What raising an event leaves of the fault records -/

theorem ReportsOnly.faults_eq {s t : State} (h : ReportsOnly s t) : t.faults = s.faults := by
  obtain ⟨_, _, _, _, rfl⟩ := h
  rfl

theorem showSpares_reportsOnly (s : State) : ReportsOnly s s.showSpares := by
  unfold State.showSpares
  dsimp only
  have hshown := ((ReportsOnly.refl s).setFld BOOT_GRADE 15 8
    ((List.range 56).filter (fun m => s.latheState m == 5 || (s.latheState m == 2 && s.latheLogical m == 255))).length).setFld BOOT_GRADE 23 16
    (s.walkerSpares.length + (s.faults.tests.filter (fun x => x.1 == 5)).length)
  split
  · exact hshown.event BOOT_EVENT 4
  · exact hshown

/-! ### The classifier -/

section Classifier
variable {b : State} {f : FaultReport} (hlow : 0 < f.kind) (hhigh : f.kind ≤ 18) (hcore : f.kind ≠ 10)
  (hserves : (b.takeReport f).1.isPermanent f.kind f.inst (resourceDetail f) = false)
include hlow hhigh hserves

omit hhigh hserves in
theorem kind_in_table_of (hhigh : f.kind ≤ 18) : (f.kind == 0 || decide (18 < f.kind)) = false := by
  rw [beq_eq_false_iff_ne.mpr (Nat.pos_iff_ne_zero.mp hlow), decide_eq_false (Nat.not_lt.mpr hhigh)]
  rfl

/-- A corrected event within the threshold of its window is only counted. -/
theorem faultReportStep_of_corrected {n p : Nat} (hev : f.event = .corrected) (hk : correctable f.kind = some (n, p))
    (hn : (if ((b.takeReport f).1.track f.kind f.inst (resourceDetail f)).win = (b.takeReport f).2 / p then
      ((b.takeReport f).1.track f.kind f.inst (resourceDetail f)).count + 1 else 1) ≤ n) :
    faultReportStep searchDone f b =
      let t := (b.takeReport f).1.track f.kind f.inst (resourceDetail f)
      ((b.takeReport f).1.bump BOOT_CE_CNT 63 0 1).putTrack { t with
        win := (b.takeReport f).2 / p, count := if t.win = (b.takeReport f).2 / p then t.count + 1 else 1 } := by
  unfold faultReportStep
  dsimp only
  rw [kind_in_table_of hlow hhigh, if_neg Bool.false_ne_true, hserves, if_neg Bool.false_ne_true, hev]
  dsimp only
  rw [hk]
  dsimp only
  simp only [beq_iff_eq]
  exact if_neg (Nat.not_lt.mpr hn)

include hcore

/-- The first uncorrectable event opens a fault window. -/
theorem faultReportStep_of_first (hev : f.event = .uncorrectable)
    (hopen : ((b.takeReport f).1.track f.kind f.inst (resourceDetail f)).opened = none) :
    faultReportStep searchDone f b =
      (b.takeReport f).1.putTrack { (b.takeReport f).1.track f.kind f.inst (resourceDetail f) with
        opened := some (b.takeReport f).2, retry := true } := by
  unfold faultReportStep
  dsimp only
  rw [kind_in_table_of hlow hhigh, if_neg Bool.false_ne_true, hserves, if_neg Bool.false_ne_true, hev]
  dsimp only
  rw [if_neg (by simpa using hcore), hopen]
  exact if_neg Bool.false_ne_true

/-- The second one inside the window makes the resource permanent. -/
theorem faultReportStep_of_second {a : Stamp} (hev : f.event = .uncorrectable)
    (hopen : ((b.takeReport f).1.track f.kind f.inst (resourceDetail f)).opened = some a)
    (ht : (b.takeReport f).2 < a + 60_000_000_000) :
    faultReportStep searchDone f b = (b.takeReport f).1.permanent searchDone f.kind f.inst (resourceDetail f) 2 := by
  unfold faultReportStep
  dsimp only
  rw [kind_in_table_of hlow hhigh, if_neg Bool.false_ne_true, hserves, if_neg Bool.false_ne_true, hev]
  dsimp only
  rw [if_neg (by simpa using hcore), hopen]
  exact if_pos (decide_eq_true ht)

end Classifier

/-! ### Swaps and migrations -/

theorem spareEntryTestCompleteStep_of_awake {b : State} {m : Nat} {e : Nat × Nat}
    (he : b.faults.entry.find? (fun e => e.2 == m) = some e) (hawake : b.bit (LTH_ARRAY m) 1 = false) :
    spareEntryTestCompleteStep m true b =
      let s1 := b.setFaults (fun f => { f with entry := f.entry.filter (fun x => x.2 != m) })
      let s2 := (((s1.emptyLathe e.1).moveLathe e.1 m).emptyLathe m).showSpares
      let s3 := match s2.latheOwner m with
        | some p => s2.recheckPlans p
        | none => s2
      s3.rerunStep (s3.stepOn m) := by
  unfold spareEntryTestCompleteStep
  rw [he]
  dsimp only
  rw [hawake, if_neg Bool.false_ne_true, if_pos rfl] <;> rfl

theorem fwCopyMoveCompleteStep_of_move {b : State} {k : Nat} {m : PchMove}
    (hm : b.faults.moves.find? (fun m => m.src / 32 == k && m.move) = some m) :
    fwCopyMoveCompleteStep k b =
      (b.moveCopy (2 * k + (b.pchLogical m.dst - 30))).setFaults (fun f => { f with
        moves := updateWhere f.moves (fun x => x.src == m.src) (fun x => { x with move := false, began := b.now }) }) := by
  unfold fwCopyMoveCompleteStep
  rw [hm]

/-- The registers of the two pseudo-channels of a migration at its switch. -/
def State.switchPchs (b : State) (k : Nat) (m : PchMove) : State :=
  let l := b.pchLogical m.src
  let s0 := (b.freshCells m.src none).zeroRange (reservedBase (2 * k + (b.pchLogical m.dst - 30))) (2 ^ 32)
  let s1 := ((s0.setFld (SPN_ENGINE m.dst) 39 32 l).setFld (SPN_ENGINE m.dst) 23 19 (b.fld (SPN_ENGINE m.src) 23 19)).setFld
    (SPN_ENGINE m.dst) 18 16 1
  ((s1.setFld (SPN_ENGINE m.src) 39 32 255).setFld (SPN_ENGINE m.src) 23 19 0).setFld (SPN_ENGINE m.src) 18 16 3

theorem switchPchs_faults (b : State) (k : Nat) (m : PchMove) : (b.switchPchs k m).faults = b.faults :=
  (((((((ReportsOnly.refl _).setFld _ _ _ _).setFld _ _ _ _).setFld _ _ _ _).setFld _ _ _ _).setFld _ _ _ _).setFld _ _ _ _).faults_eq

/-- A migration whose copy is over and behind which no decision waits. -/
theorem pchMigrationSwitchStep_of_copied {b : State} {k : Nat} {m : PchMove}
    (hm : b.faults.moves.find? (fun m => m.src / 32 == k && !m.move && m.began + pchCopyNs ≤ b.now) = some m)
    (hq : b.faults.queue.all (fun g => g / 32 != k) = true) :
    pchMigrationSwitchStep k b =
      (((b.switchPchs k m).setFaults (fun f => { f with moves := f.moves.filter (fun x => x.src != m.src) })).setFlash (fun f => { f with
        map := f.map.filter (fun e => !(e.1 == 2 && e.2.1 == k * 32 + b.pchLogical m.src)) ++
          [(2, k * 32 + b.pchLogical m.src, m.dst)] })).pchUsed k := by
  have hnext : (b.switchPchs k m).faults.queue.find? (fun g => g / 32 == k) = none := by
    rw [switchPchs_faults, List.find?_eq_none]
    intro g hg hk
    have hne := List.all_eq_true.mp hq g hg
    rw [bne, hk] at hne
    cases hne
  have hkeeps : (b.switchPchs k m).setFaults (fun f => { f with
        moves := f.moves.filter (fun x => x.src != m.src), queue := f.queue.filter (fun g => some g != none) }) =
      (b.switchPchs k m).setFaults (fun f => { f with moves := f.moves.filter (fun x => x.src != m.src) }) := by
    have hall (l : List Nat) : l.filter (fun g => some g != none) = l := List.filter_eq_self.mpr (fun _ _ => rfl)
    unfold State.setFaults
    dsimp only
    rw [hall]
  have hstep : pchMigrationSwitchStep k b =
      let next := (b.switchPchs k m).faults.queue.find? (fun g => g / 32 == k)
      let s3 := (((b.switchPchs k m).setFaults (fun f => { f with
        moves := f.moves.filter (fun x => x.src != m.src), queue := f.queue.filter (fun g => some g != next) })).setFlash (fun f =>
          { f with map := f.map.filter (fun e => !(e.1 == 2 && e.2.1 == k * 32 + b.pchLogical m.src)) ++
            [(2, k * 32 + b.pchLogical m.src, m.dst)] })).pchUsed k
      match next with
      | some g => s3.startMove g
      | none => s3 := by
    unfold pchMigrationSwitchStep
    rw [hm]
    rfl
  rw [hstep, hnext]
  dsimp only
  rw [hkeeps]

/-! ### Rolling tests -/

section Rolling
variable {b : State} (htests : b.bit BOOT_TEST_CFG 17 = true) (hrt : b.bit BOOT_TEST_CFG 16 = true)
include htests hrt

/-- Nothing keeps a unit in service from its test, where tests are on and those of real-time partitions are too. -/
theorem rollingTest_of_due {kind n reg : Nat} (hdue : b.testDue kind n = true) (hstate : b.fld reg 18 16 = 1)
    (hlogical : b.fld reg 39 32 ≠ 255) (rt : Bool) :
    (!b.bit BOOT_TEST_CFG 17 || (rt && !b.bit BOOT_TEST_CFG 16) || !b.testDue kind n || b.fld reg 18 16 != 1 ||
      b.fld reg 39 32 == 255) = false := by
  rw [htests, hrt, hdue, hstate, beq_eq_false_iff_ne.mpr hlogical]
  cases rt <;> rfl

theorem rollingTestStep_of_lathe {n m : Nat} {r : List Nat} (hdue : b.testDue 4 n = true) (hstate : b.fld (LTH_ARRAY n) 18 16 = 1)
    (hlogical : b.fld (LTH_ARRAY n) 39 32 ≠ 255) (hspare : b.latheSpares n = m :: r) (hawake : b.bit (LTH_ARRAY m) 1 = false)
    (hidle : (b.lathe n).running = false) (hstep : (ownerOf b (LTH_ARRAY n)).any (fun p => (b.runner p).active) = false) :
    rollingTestStep .lathe n b = b.plannedLathe n m := by
  unfold rollingTestStep
  dsimp only
  rw [rollingTest_of_due htests hrt hdue hstate hlogical, if_neg Bool.false_ne_true, hspare]
  dsimp only
  rw [hawake, if_neg Bool.false_ne_true, hidle, hstep, Bool.or_self, if_neg Bool.false_ne_true]

theorem rollingTestStep_of_walker {n v : Nat} {r : List Nat} (hdue : b.testDue 5 n = true) (hstate : b.fld (GGE_WALKER n) 18 16 = 1)
    (hlogical : b.fld (GGE_WALKER n) 39 32 ≠ 255) (hspare : b.walkerSpares = v :: r) (hidle : b.contextsUsed n = []) :
    rollingTestStep .walker n b = b.plannedWalker n v := by
  unfold rollingTestStep
  dsimp only
  rw [rollingTest_of_due htests hrt hdue hstate hlogical, if_neg Bool.false_ne_true, hspare]
  dsimp only
  rw [hidle, if_pos (by rfl)]

end Rolling

/-- What the end of a Lathe's test makes of it, and the decision that waits for a unit. -/
theorem rollingTestCompleteStep_lathe (b : State) (n : Nat) (pass : Bool) :
    rollingTestCompleteStep searchDone .lathe n pass b =
      if !b.faults.tests.contains (4, n) then b
      else
        let s1 := b.setFaults (fun f => { f with tests := f.tests.erase (4, n) })
        let s2 := if pass then (s1.setFld (LTH_ARRAY n) 18 16 5).showSpares else s1.lathePermanent n 3
        match s2.faults.owed.find? (fun e => e.1 == 4) with
        | none => s2
        | some e => (s2.setFaults (fun f => { f with owed := f.owed.erase e })).latheSwap e.2 := by
  unfold rollingTestCompleteStep
  rfl

/-- A Lathe that passes its test, while no decision waits for a unit, is a spare. -/
theorem rollingTestCompleteStep_of_passed {b : State} {n : Nat} (ht : b.faults.tests.contains (4, n) = true)
    (howed : b.faults.owed = []) :
    rollingTestCompleteStep searchDone .lathe n true b =
      ((b.setFaults (fun f => { f with tests := f.tests.erase (4, n) })).setFld (LTH_ARRAY n) 18 16 5).showSpares := by
  have hnone : ((b.setFaults (fun f => { f with tests := f.tests.erase (4, n) })).setFld (LTH_ARRAY n) 18 16 5).showSpares.faults.owed =
      [] := by
    rw [(((ReportsOnly.refl _).setFld _ _ _ _).trans (showSpares_reportsOnly _)).faults_eq]
    exact howed
  rw [rollingTestCompleteStep_lathe, ht, if_neg (by decide)]
  dsimp only
  rw [if_pos rfl, hnone, List.find?_nil]

/-- Without searches a walker that is swapped out takes only its merge jobs along. -/
theorem walkerSwapTimeoutStep_of_due {b : State} {w v : Nat} {e : Nat × Stamp} {r : List Nat}
    (he : b.faults.swaps.find? (fun e => e.1 == w) = some e) (ht : b.contextsUsed w = [] ∨ e.2 + 20_000_000 ≤ b.now)
    (hspare : (b.setFaults (fun f => { f with swaps := f.swaps.filter (fun x => x.1 != w) })).walkerSpares = v :: r)
    (hnone : b.searches = []) :
    walkerSwapTimeoutStep w b =
      let s2 := (b.setFaults (fun f => { f with swaps := f.swaps.filter (fun x => x.1 != w) })).plannedWalker w v
      { s2 with merges := s2.merges.map (fun j => { j with slot := j.slot.map (fun t => if t.1 = w then (v, t.2) else t) }) } := by
  have hover : (!(b.contextsUsed w).isEmpty && decide (b.now < e.2 + 20_000_000)) = false := by
    rcases ht with ht | ht
    · rw [ht]
      rfl
    · rw [decide_eq_false (Nat.not_lt.mpr ht), Bool.and_false]
  have hids : (b.setFaults (fun f => { f with swaps := f.swaps.filter (fun x => x.1 != w) })).searches = [] := hnone
  unfold walkerSwapTimeoutStep
  rw [he]
  dsimp only
  rw [hover, if_neg Bool.false_ne_true, hspare]
  dsimp only
  rw [hids]
  simp only [List.filter_nil, List.map_nil, List.foldl_nil, beq_iff_eq]

/-! ### Calipers, bins and the root of trust -/

theorem caliperMeasureStep_of_on {b : State} {rs : List Nat} (hon : b.bit CAL_CTRL 0 = true) (hfw : b.ready rdyFw = true) :
    caliperMeasureStep rs b =
      let s1 := (rs.zipIdx.foldl (fun s x => if x.2 < 512 then s.takeReading x.2 (x.1 % 65536) else s) b).showMons
      (if s1.bit CAL_CTRL 1 && s1.planDue && s1.fld PWR_STATE 2 0 == 0 then s1.marginPlan else s1).setReady rdyCalipers true := by
  unfold caliperMeasureStep
  exact if_neg (by rw [hon, hfw]; decide)

theorem binChangeStep_of_idle {b : State} {r : Nat} (hwait : b.cal.wait.contains r = true)
    (hidle : (List.range 14).all (fun i => !(b.lathe (14 * r + i)).running) = true) :
    binChangeStep r b =
      let s1 := ((List.range 14).map (fun i => 14 * r + i)).foldl (fun s n => s.setFld (LTH_ARRAY n) 40 40 1) b
      (List.range 16).foldl (fun s p => s.recheckPlans p)
        (s1.setCal (fun c => { c with wait := c.wait.filter (fun x => x != r) })) := by
  have hnone : ((List.range 14).map (fun i => 14 * r + i)).any (fun n => (b.lathe n).running) = false := by
    rw [List.any_map, List.any_eq_false]
    intro i hi
    simpa using List.all_eq_true.mp hidle i hi
  unfold binChangeStep
  exact if_neg (by rw [hwait, hnone]; decide)

theorem rotSelfTestStep_of_early {b : State} (h : b.fw.running = none) :
    rotSelfTestStep false b =
      ((((b.setReady rdyRot false).setFld BOOT_STATUS 15 8 1).setFld BOOT_STATUS 3 0 4).event BOOT_EVENT 5).setBoot (fun x =>
        { x with fetching := false }) := by
  unfold rotSelfTestStep
  dsimp only
  rw [if_neg Bool.false_ne_true, h, if_neg (by decide)]

/-- Settles O40. -/
theorem faultCommandsHaveTheirEffect : Obligations.FaultCommandsHaveTheirEffect := by
  unfold Obligations.FaultCommandsHaveTheirEffect
  intro named track
  refine ⟨?_, ?_, ?_, ?_, ?_, ?_, ?_, ?_, ?_, ?_, ?_, ?_, ?_, ?_, ?_⟩
  case refine_1 =>
    exact fun f n p => unitEffect_of (fun _ _ => rfl) (fun b ⟨⟨hlow, hhigh, _, hserves⟩, hev, hk, hn⟩ =>
      faultReportStep_of_corrected hlow hhigh hserves hev hk hn)
  case refine_2 =>
    exact fun f => unitEffect_of (fun _ _ => rfl) (fun b ⟨⟨hlow, hhigh, hcore, hserves⟩, hev, hopen⟩ =>
      faultReportStep_of_first hlow hhigh hcore hserves hev hopen)
  case refine_3 =>
    exact fun f a => unitEffect_of (fun _ _ => rfl) (fun b ⟨⟨hlow, hhigh, hcore, hserves⟩, hev, hopen, ht⟩ =>
      faultReportStep_of_second hlow hhigh hcore hserves hev hopen ht)
  case refine_4 =>
    exact fun m e => unitEffect_of (fun _ _ => rfl) (fun b ⟨he, hawake⟩ => spareEntryTestCompleteStep_of_awake he hawake)
  case refine_5 =>
    exact fun k m => unitEffect_of (fun _ _ => rfl) (fun b hm => fwCopyMoveCompleteStep_of_move hm)
  case refine_6 =>
    exact fun k m => unitEffect_of (fun _ _ => rfl) (fun b ⟨hm, hq⟩ => pchMigrationSwitchStep_of_copied hm hq)
  case refine_7 =>
    exact fun n m r => unitEffect_of (fun _ _ => rfl)
      (fun b ⟨htests, hrt, hdue, hstate, hlogical, hspare, hawake, hidle, hstep⟩ =>
        rollingTestStep_of_lathe htests hrt hdue hstate hlogical hspare hawake hidle hstep)
  case refine_8 =>
    exact fun n v r => unitEffect_of (fun _ _ => rfl) (fun b ⟨htests, hrt, hdue, hstate, hlogical, hspare, hidle⟩ =>
      rollingTestStep_of_walker htests hrt hdue hstate hlogical hspare hidle)
  case refine_9 =>
    exact fun n => unitEffect_of (fun _ _ => rfl) (fun b ⟨ht, howed⟩ => rollingTestCompleteStep_of_passed ht howed)
  case refine_10 =>
    exact fun w e v r => unitEffect_of (fun _ _ => rfl) (fun b ⟨he, ht, hspare, hnone⟩ =>
      walkerSwapTimeoutStep_of_due he ht hspare hnone)
  case refine_11 =>
    exact fun rs => unitEffect_of (fun _ _ => rfl) (fun b ⟨hon, hfw⟩ => caliperMeasureStep_of_on hon hfw)
  case refine_12 =>
    exact fun r => unitEffect_of (fun _ _ => rfl) (fun b ⟨hwait, hidle⟩ => binChangeStep_of_idle hwait hidle)
  case refine_13 =>
    exact unitEffect_of (fun _ _ => rfl) (fun _ _ => rfl)
  case refine_14 =>
    exact unitEffect_of (fun _ _ => rfl) (fun b h => rotSelfTestStep_of_early h)
  case refine_15 =>
    exact unitEffect_of (fun _ _ => rfl) (fun _ _ => rfl)

end Sys2Proof.Machine
end

section
/-! Start-up. -/

namespace Sys2Proof.Machine

/-- The internal reset is released with device time at 0. -/
theorem bootSequenceStep_of_releasable {b : State} (hphase : b.pwr.phase ≠ .released) (hrel : b.releasable = true) :
    bootSequenceStep b =
      let s1 := (({ b with now := 0 } : State).setPwr (fun p => { p with phase := .running, since := 0 })).setFlash (fun f => { f with
        boots := f.boots + 1 })
      let s2 := ((s1.setFld BOOT_STATUS 63 32 (b.flash.boots + 1)).setFld BOOT_STATUS 3 0 1).setReady rdyRot true
      let s3 := (s2.tick.measure 0 1 0 s2.freeDigest).loadConfig
      (({ s3 with mgmtDown := s3.now } : State).setBoot (fun x => { x with fetching := true, disc := none })).discover := by
  unfold bootSequenceStep
  rw [hrel, if_neg (by decide)]
  split
  · next h => exact absurd h hphase
  · rfl

/-! ### The network fetch -/

theorem dhcpRetransmitStep_of_due {b : State} (hfetch : b.boot.fetching = true) (hdisc : b.boot.disc.isSome = true)
    (hcount : b.boot.dhcp < 4) (ht : b.boot.dhcpAt + 2 ^ (b.boot.dhcp + 1) * 1_000_000_000 ≤ b.now) :
    dhcpRetransmitStep b = (b.setBoot (fun x => { x with dhcp := x.dhcp + 1, dhcpAt := b.now })).emit b.discoverMsg := by
  unfold dhcpRetransmitStep
  exact if_pos (by rw [hfetch, hdisc, decide_eq_true hcount, decide_eq_true ht]; rfl)

theorem tftpRetransmitStep_of_due {b : State} (hfetch : b.boot.fetching = true) (hdisc : b.boot.disc.isSome = true)
    (ht : b.boot.tftpAt + 1_000_000_000 ≤ b.now) :
    tftpRetransmitStep b = (b.setBoot (fun x => { x with tftp := x.tftp + 1, tftpAt := b.now })).emit (.tftpRequest 1468) := by
  unfold tftpRetransmitStep
  exact if_pos (by rw [hfetch, hdisc, decide_eq_true ht]; rfl)

/-- An image that parses is checked, and starts the firmware or fails the fetch. -/
theorem bootImageFetchStep_of_image {b : State} {bs : List Byte} {i : FwImage} (hfetch : b.boot.fetching = true)
    (hlen : bs.length ≤ 16777216) (hi : parseImage bs = some i) :
    bootImageFetchStep (.image bs) b =
      let r := (b.bump BOOT_STATUS 31 16 1).checkImage i
      if r.1 then r.2.startFirmware i none else r.2.fetchFailed 5 := by
  unfold bootImageFetchStep
  rw [hfetch, if_neg (by decide)]
  dsimp only
  rw [if_neg (Nat.not_lt.mpr hlen), hi]

theorem bootImageFetchStep_of_noLease {b : State} (hfetch : b.boot.fetching = true) :
    bootImageFetchStep .noLease b = (b.bump BOOT_STATUS 31 16 1).fetchFailed 2 := by
  unfold bootImageFetchStep
  rw [hfetch, if_neg (by decide)]

theorem bootBudgetExpiryStep_of_late {b : State} {t0 : Stamp} (hdisc : b.boot.disc = some t0) (hfetch : b.boot.fetching = true)
    (ht : t0 + 60_000_000_000 ≤ b.now) : bootBudgetExpiryStep b = (b.bump BOOT_STATUS 31 16 1).fetchFailed 6 := by
  unfold bootBudgetExpiryStep
  rw [hdisc]
  exact if_pos (by rw [hfetch, decide_eq_true ht]; rfl)

theorem bootFetchRetryStep_of_due {b : State} {t0 : Stamp} (hfailed : b.boot.failedAt = some t0) (ht : t0 + 60_000_000_000 ≤ b.now) :
    bootFetchRetryStep b =
      ((b.setFld BOOT_STATUS 3 0 1).setBoot (fun x => { x with fetching := true, disc := none, failedAt := none })).discover := by
  unfold bootFetchRetryStep
  rw [hfailed]
  exact if_pos ht

/-! ### HBM stacks -/

section Stacks
variable {b : State} {k : Nat} (hphase : b.pwr.phase = .running) (hready : b.ready k = false) (hgone : b.boot.gone.contains k = false)
include hphase hready hgone

/-- A stack that is neither ready nor withdrawn has its training judged. -/
theorem hbmStackTrained_of_waiting : (b.pwr.phase != .running || b.ready k || b.boot.gone.contains k) = false := by
  rw [hphase, hready, hgone]
  rfl

theorem hbmStackTrainedStep_of_trained :
    hbmStackTrainedStep k true b =
      let s1 := b.numberPchs k
      (({ s1 with spn := {
        query := s1.spn.query.filter (fun e => e.1.1 != k), codebook := s1.spn.codebook.filter (fun e => e.1.1 != k)
        param := s1.spn.param.filter (fun e => e.1.1 != k), bad := s1.spn.bad.filter (fun e => e.1 != k) } } : State).setReady k
          true).finishHbm := by
  unfold hbmStackTrainedStep
  rw [hbmStackTrained_of_waiting hphase hready hgone, if_neg Bool.false_ne_true, if_pos rfl]

theorem hbmStackTrainedStep_of_failed :
    hbmStackTrainedStep k false b = ((b.withdraw k).setBoot (fun x => { x with gone := x.gone ++ [k] })).finishHbm := by
  unfold hbmStackTrainedStep
  rw [hbmStackTrained_of_waiting hphase hready hgone, if_neg Bool.false_ne_true, if_neg Bool.false_ne_true]

end Stacks

theorem bootLimitMissedStep_of_late {b : State} {n : Nat} (hready : b.ready n = false) (hphase : b.pwr.phase = .running) :
    bootLimitMissedStep n b =
      let s1 := (b.event BOOT_EVENT 1).logFree (b.writerOf 0) 255 2
      if s1.fw.running.isSome then s1.tick.setRaw (BOOT_ETA n) (BitVec.ofNat 64 (Config.freeNat s1.freeCtr)) else s1 := by
  unfold bootLimitMissedStep
  exact if_neg (by rw [hready, hphase]; decide)

/-- Settles O41. -/
theorem bootCommandsHaveTheirEffect : Obligations.BootCommandsHaveTheirEffect := by
  unfold Obligations.BootCommandsHaveTheirEffect
  refine ⟨?_, ?_, ?_, ?_, ?_, ?_, ?_, ?_, ?_, ?_⟩
  case refine_1 =>
    exact powerEffect_of (fun _ _ => rfl) (fun b ⟨hphase, hrel⟩ => bootSequenceStep_of_releasable hphase hrel)
  case refine_2 =>
    exact unitEffect_of (fun _ _ => rfl) (fun b ⟨hfetch, hdisc, hcount, ht⟩ => dhcpRetransmitStep_of_due hfetch hdisc hcount ht)
  case refine_3 =>
    exact unitEffect_of (fun _ _ => rfl) (fun b ⟨hfetch, hdisc, ht⟩ => tftpRetransmitStep_of_due hfetch hdisc ht)
  case refine_4 =>
    exact fun bs i => unitEffect_of (fun _ _ => rfl) (fun b ⟨hfetch, hlen, hi⟩ => bootImageFetchStep_of_image hfetch hlen hi)
  case refine_5 =>
    exact unitEffect_of (fun _ _ => rfl) (fun b hfetch => bootImageFetchStep_of_noLease hfetch)
  case refine_6 =>
    exact fun t0 => unitEffect_of (fun _ _ => rfl) (fun b ⟨hdisc, hfetch, ht⟩ => bootBudgetExpiryStep_of_late hdisc hfetch ht)
  case refine_7 =>
    exact fun t0 => unitEffect_of (fun _ _ => rfl) (fun b ⟨hfailed, ht⟩ => bootFetchRetryStep_of_due hfailed ht)
  case refine_8 =>
    exact fun k => unitEffect_of (fun _ _ => rfl) (fun b ⟨hphase, hready, hgone⟩ =>
      hbmStackTrainedStep_of_trained hphase hready hgone)
  case refine_9 =>
    exact fun k => unitEffect_of (fun _ _ => rfl) (fun b ⟨hphase, hready, hgone⟩ =>
      hbmStackTrainedStep_of_failed hphase hready hgone)
  case refine_10 =>
    exact fun n => unitEffect_of (fun _ _ => rfl) (fun b ⟨hready, hphase⟩ => bootLimitMissedStep_of_late hready hphase)

end Sys2Proof.Machine
end
